-- ==== Sys2Proof/Word.lean ====
section
/-! DEFINITION. The word types of the N9 model and the total table that every indexed register group is held in. -/

namespace Sys2Proof

/-- One byte, as flash, OTP, frames and messages hold it. -/
abbrev Byte := BitVec 8

/-- One 32-bit register word (R8, R527). -/
abbrev Word := BitVec 32

/-- A physical quantity in SI units. The Catalogue gives binary32 values (R8), each an exact rational. -/
abbrev Q := Rat

/-- A total table over keys: a value for every key, `dflt` where nothing else is listed.
It holds the N9's indexed groups (gate channels, queues, ports, slots) as plain data. -/
structure Tab (κ : Type) (α : Type) where
  dflt : α
  ov : List (κ × α)
  deriving DecidableEq, Repr

/-- The value listed for a key, if any. -/
def Tab.find {κ α : Type} [DecidableEq κ] (k : κ) : List (κ × α) → Option α
  | [] => none
  | (j, v) :: rest => if j = k then some v else Tab.find k rest

/-- The value a table holds at a key. -/
def Tab.get {κ α : Type} [DecidableEq κ] (t : Tab κ α) (k : κ) : α :=
  (Tab.find k t.ov).getD t.dflt

/-- A list of pairs with every pair of one key taken out. -/
def Tab.drop {κ α : Type} [DecidableEq κ] (k : κ) : List (κ × α) → List (κ × α)
  | [] => []
  | (j, v) :: rest => if j = k then Tab.drop k rest else (j, v) :: Tab.drop k rest

/-- The table with one key's value replaced. -/
def Tab.put {κ α : Type} [DecidableEq κ] (t : Tab κ α) (k : κ) (v : α) : Tab κ α :=
  { t with ov := (k, v) :: Tab.drop k t.ov }

/-- The table with one key's value changed by a function of it. -/
def Tab.upd {κ α : Type} [DecidableEq κ] (t : Tab κ α) (k : κ) (f : α → α) : Tab κ α :=
  t.put k (f (t.get k))

/-- The table that holds one value at every key. -/
def Tab.fill {κ α : Type} (v : α) : Tab κ α := { dflt := v, ov := [] }

/-- The table with every value changed by a function of it. -/
def Tab.map {κ α : Type} (t : Tab κ α) (f : α → α) : Tab κ α :=
  { dflt := f t.dflt, ov := t.ov.map (fun p => (p.1, f p.2)) }

/-- The table with the values of some keys changed, in the order of the list. -/
def Tab.updAll {κ α : Type} [DecidableEq κ] (t : Tab κ α) (ks : List κ) (f : κ → α → α) : Tab κ α :=
  ks.foldl (fun acc k => acc.upd k (f k)) t

/-- A count that stops at `2 ^ bits - 1` ("saturating" in the register tables). -/
def satInc (bits n : Nat) : Nat := min (n + 1) (2 ^ bits - 1)

/-- A count that stops at `2 ^ bits - 1`, raised by several at once. -/
def satAdd (bits n k : Nat) : Nat := min (n + k) (2 ^ bits - 1)

/-- A count that wraps at `2 ^ bits` ("wrapping" in the register tables). -/
def wrapInc (bits n : Nat) : Nat := (n + 1) % 2 ^ bits

end Sys2Proof
end

