-- ==== Sys2Proof/Syntax.lean ====
section
/-! DEFINITION. The commands the N9 takes: one constructor per row of the opcode table, with the values each one brings. -/

namespace Sys2Proof

/-- The two LV feeds (R58). -/
inductive Feed where
  | a | b
  deriving DecidableEq, Repr

/-- The other feed. -/
def Feed.other : Feed → Feed
  | .a => .b
  | .b => .a

/-- The two bias banks (R66): A supplies indices 0 to 12, B indices 13 to 28. -/
inductive Bank where
  | a | b
  deriving DecidableEq, Repr

/-- The two traction sets (R2, R103). -/
inductive TSet where
  | a | b
  deriving DecidableEq, Repr

/-- The set's number, as instances and registers use it. -/
def TSet.num : TSet → Nat
  | .a => 0
  | .b => 1

/-- The other set. -/
def TSet.other : TSet → TSet
  | .a => .b
  | .b => .a

/-- The two flash slots (R95). -/
inductive Slot where
  | a | b
  deriving DecidableEq, Repr

/-- The slot's number: 0 is A, 1 is B. -/
def Slot.num : Slot → Nat
  | .a => 0
  | .b => 1

/-- The other slot. -/
def Slot.other : Slot → Slot
  | .a => .b
  | .b => .a

/-- The paths UDS is served on (R5, R506). -/
inductive UPath where
  | can1 | can2 | doip
  deriving DecidableEq, Repr

/-- The internal rails with a monitor (R64). -/
inductive Rail where
  | saf | vcore | vio | va
  deriving DecidableEq, Repr

/-- The four lockstep pairs (R402), in the order of their numbers. -/
inductive LPair where
  | io | europa | ganymede | callisto
  deriving DecidableEq, Repr

/-- The pair's number. -/
def LPair.num : LPair → Nat
  | .io => 0
  | .europa => 1
  | .ganymede => 2
  | .callisto => 3

/-- What a core drives at its boundary in one step (R403, R405). -/
structure Bound where
  addr : BitVec 32
  data : BitVec 64
  ctrl : BitVec 8
  iack : BitVec 8
  deriving DecidableEq, Repr

/-- The idle token of R404: nothing is driven. -/
def Bound.idle : Bound := { addr := 0, data := 0, ctrl := 0, iack := 0 }

/-- What the bus gives a core in one step: read data and interrupt requests (R403). -/
structure BusIn where
  data : BitVec 64
  irq : Nat
  deriving DecidableEq, Repr

/-- A step in which the bus gives nothing. -/
def BusIn.idle : BusIn := { data := 0, irq := 0 }

/-- The delay registers of a pair (R403): two stages of the main copy's outputs and two of the checker's inputs. -/
inductive DelayReg where
  | main1 | main2 | checker1 | checker2
  deriving DecidableEq, Repr

/-- The stores and the code region that a lock protects (R110, R406). -/
inductive StoreRegion where
  | params | map | code
  deriving DecidableEq, Repr

/-- What is wrong with a pair's delay registers and comparator: registers that never advance, cells (0 to 27) and tree nodes (28 to 54) that
drive one code (R408, R412). -/
structure PairDefect where
  p : LPair
  held : List DelayReg
  rails : List (Nat × BitVec 2)
  deriving DecidableEq, Repr

/-- A stretch of a pair's work at the boundary (R403, R404): the ns since the transfer before, the transfer of the main copy that ends it
(none: only idle tokens), and what the checker drives at each idle token of the stretch and then at the transfer. -/
structure CoreStep where
  gapNs : Nat
  main : Option Bound
  bus : BusIn
  checker : List Bound
  /-- Delay registers that fail to advance (R408). -/
  held : List DelayReg
  /-- Comparator cells (0 to 27) and tree nodes (28 on) that drive a code of their own (R408). -/
  rails : List (Nat × BitVec 2)
  /-- The word of shared memory that the transfer writes, and whether it lies in the parameter store or the firmware code region. -/
  writes : Option (Fin 9 × Nat)
  region : Option StoreRegion
  deriving DecidableEq, Repr

/-- A word as a reader of the shared memories gets it: the bank and word it addressed, and the data and check bits read (R414). -/
structure MemRead where
  bank : Fin 9
  word : Nat
  data : BitVec 64
  check : BitVec 8
  deriving DecidableEq, Repr

/-- Who read a word (LKS_ECC_LAST). -/
inductive MemReader where
  | scrubber
  | pair (p : LPair)
  | orrery (t : TSet)
  | other
  deriving DecidableEq, Repr

/-- The SOURCE of LKS_ECC_LAST. -/
def MemReader.num : MemReader → Nat
  | .scrubber => 0
  | .pair _ => 1
  | .orrery _ => 2
  | .other => 3

/-- What a bank's scrubber read at its word: whether a pair writes the word before the write-back, and whether a reader finds the same error
at once (R416). -/
structure ScrubWord where
  bank : Fin 9
  data : BitVec 64
  check : BitVec 8
  raced : Bool
  shared : Bool
  deriving DecidableEq, Repr

/-- The two sense dies. -/
inductive Die where
  | one | two
  deriving DecidableEq, Repr

/-- The two actuators (R103): park lock and shift. -/
inductive Act where
  | park | shift
  deriving DecidableEq, Repr

/-- The actuator's number. -/
def Act.num : Act → Nat
  | .park => 0
  | .shift => 1

/-- The two channels of a safety input. -/
inductive Side where
  | a | b
  deriving DecidableEq, Repr

/-- A gate channel index, 0 to 54 (R43). -/
abbrev Chan := Fin 55

/-- A PWM group number, 0 to 9. -/
abbrev Grp := Fin 10

/-- A position interface number, 0 to 11. -/
abbrev Ifc := Fin 12

/-- A safety input number, 0 to 7. -/
abbrev SiN := Fin 8

/-- A fabric port number, 0 to 3. -/
abbrev Port := Fin 4

/-- A priority queue number, 0 to 26. -/
abbrev QId := Fin 27

/-- The kinds of flash and OTP operation of R84. -/
inductive OpKind where
  | page | erase | otp
  deriving DecidableEq, Repr

/-- What a flash or OTP operation does; each waits and starts on its own (R84, R87). -/
inductive FlashOp where
  /-- Program the waiting log records, up to the end of their page (R540). -/
  | logPage
  /-- Erase the log block at a physical number (R539). -/
  | logErase (phys : Nat)
  /-- Program the header of a log block (R538). -/
  | logOpen (phys : Nat)
  /-- Program the block CRC of the open log block (R540). -/
  | logClose (phys : Nat)
  /-- Erase the staged block (R115). -/
  | stageErase
  /-- Program page `n` of the staged block (R115). -/
  | stagePage (n : Nat)
  /-- Erase boot descriptor copy 0 or 1 (R97). -/
  | bootErase (copy : Fin 2)
  /-- Program the first (fields) or the last (CRC) page of boot descriptor copy 0 or 1 (R97). -/
  | bootProgram (copy : Fin 2) (last : Bool)
  /-- Program bits of one OTP word (R512). -/
  | otpWord (word : Nat) (bits : BitVec 64)
  deriving DecidableEq, Repr

/-- What Accession finds in a slot's firmware image, whose layout is not documented (R95, R514). -/
structure FwFacts where
  /-- Blocks of the region that the image occupies. -/
  blocks : Nat
  /-- The signature verifies with the Tabath root key (R514). -/
  sigOk : Bool
  version : Nat
  formats : List Nat
  /-- The anti-rollback value of the firmware (R516). -/
  arb : Nat
  deriving DecidableEq, Repr

/-- A flash block read whose CRC fails some times before it passes (R107). -/
structure ReadFail where
  slot : Slot
  catalogue : Bool
  block : Nat
  fails : Nat
  deriving DecidableEq, Repr

/-- The outcome of the lockstep start-up checks (R412): the failing step, pair and pattern, if any. -/
structure StartCheck where
  step : Nat
  pair : Nat
  pattern : Nat
  deriving DecidableEq, Repr

/-- What a secondary reports at the handshake judgement (R70). -/
structure Handshake where
  chan : Chan
  frames : Nat
  index : Nat
  vcc2 : Q
  vee2 : Q
  outputOff : Bool
  deriving DecidableEq, Repr

/-- Everything Accession meets that the machine's state does not hold. -/
structure AccIn where
  /-- What the test reads of the start-up check bring, for a bank the word with one flipped bit and the one with two (R412). -/
  eccReads : List (MemRead × MemRead)
  /-- Pairs whose comparator or delay registers are defective (R412). -/
  defects : List PairDefect
  /-- The firmware image of each slot. -/
  fwA : FwFacts
  fwB : FwFacts
  /-- Whether the Catalogue signature of each slot verifies with the key its record holds (R106, R515). -/
  sigA : Bool
  sigB : Bool
  readFails : List ReadFail
  /-- Gate channels that fail to report a cleared or set permit bit in step 8 (R384). -/
  permitFail : List Chan
  /-- What the secondaries report in step 8: the permit path test takes those that have completed their handshake (R70, R384). -/
  handshakes : List Handshake
  /-- Slots whose loaded copies fail their check in step 8 (R106). -/
  loadBad : List Slot
  /-- The density of the flash, bytes, from its SFDP table (R538). -/
  density : Nat
  /-- Whether the KA retention register passes its check code (R557). -/
  kaCheckOk : Bool
  deriving DecidableEq, Repr

/-- The configuration registers of Custodian (R397). -/
inductive CustReg where
  | input (n : Fin 8) | safety | torque
  deriving DecidableEq, Repr

/-- The wake sources of SHIP with the value and the time each has been seen for (R82). -/
structure WakeObs where
  svcLowMs : Nat
  wakeHighMs : Nat
  pilotVolts : Q
  pilotMs : Nat
  acPresent : Bool
  feedVolts : Q
  feedMs : Nat
  deriving DecidableEq, Repr

/-- The rail-window monitor, key and lifecycle facts are operands; an upset names what a memory or mark copy suffered. -/
inductive Upset where
  | none | single | double
  deriving DecidableEq, Repr

/-- The stages of R242: outputs that share one function and one PWM group. -/
inductive Stage where
  | setA | setB | chopper | pfc | dab | dcx | sr | buck (n : Fin 6) | park | shift
  deriving DecidableEq, Repr

/-- The voltages of the off-state test of R262: a buck switch node, or the leg pairs of a bridge in test order. -/
inductive OsdReading where
  | buck (settledUs : Nat) (sink source vBus : Q)
  | bridge (settledUs : Nat) (uv vw wu : Q × Q) (vS : Q)
  deriving DecidableEq, Repr

/-- A pulse of the traction start test on two switches: i_x and i_y at its end, A, and ch_OUT of the high and the low side as it turned on,
with the ns since the turn-on (R253, R263). -/
structure PairPulse where
  ix : Q
  iy : Q
  high : List (Nat × Q)
  low : List (Nat × Q)
  deriving DecidableEq, Repr

/-- What the traction start test of R263 reads: the voltages of phases U, V and W in step 1, the current and ch_OUT of each low-side pulse of
steps 2 and 3, and the pulses of steps 4 and 5, in the order of the table. -/
structure StartTest where
  phases : Vector Q 3
  low : Vector (Q × List (Nat × Q)) 3
  pair : Vector PairPulse 3
  deriving DecidableEq, Repr

/-- The modulator bits of one ΣΔ filter window (R145, R146), and where its centre lies against the sample instant, in
nanoseconds. -/
structure SdWindow where
  off : Q
  bits : List Bool
  deriving DecidableEq, Repr

/-- The two sample triggers of a group (R129): at the valley or period start, and at the peak. -/
inductive Trig where
  | valley | peak
  deriving DecidableEq, Repr

/-- The inputs of one Orrery update that its own sample instant brings (R163): the time since the position interface's
last update in seconds, V_dc unless the sample is stale, and the sinc3 windows of U, V, W and X. -/
structure OrrIn where
  dt : Q
  vdc : Option Q
  sd : List SdWindow
  deriving DecidableEq, Repr

/-- A SENT frame as the receiver times it (R221, R222): the pulses in seconds, the calibration pulse that follows, and
the fine-tick time of its first falling edge. -/
structure SentFrame where
  cal : Q
  status : Q
  data : List Q
  crc : Q
  /-- The pulse after the CRC nibble: the pause pulse with PAUSE = 1. -/
  after : Q
  nextCal : Q
  tFt : Nat
  deriving DecidableEq, Repr

/-- Where an actuator sequence request comes from: the vehicle's mode message or UDS RoutineControl on a path (R374). -/
inductive ReqSrc where
  | msg
  | uds (p : UPath)
  deriving DecidableEq, Repr

/-- One slot that a housekeeping round took (R349), in physical units: ohms of the TSN and °C of the die for slots 0 to
28, volts, °C or amperes for the others. -/
structure HkReading where
  slot : Fin 96
  a : Q
  b : Q
  deriving DecidableEq, Repr

/-- The samples of one PFC update (R266): the phase voltages in volts and the inductor currents as modulator fractions. -/
structure PfcIn where
  v1 : Q
  v2 : Q
  v3 : Q
  i1 : SdWindow
  i2 : SdWindow
  i3 : SdWindow
  deriving DecidableEq, Repr

/-- What one buck slot meets (R297, R301, R302): the switch-node voltage of the phase in the middle of its low-side
interval, the remote and local readings, V48, and the nanoseconds since the last
all-phase response began, if any; the ring's relative deviation (R298), and the slot's distance from the period start in s (R301). -/
structure SlotIn where
  vSw : Q
  rs : Q
  ls : Q
  v48 : Q
  sinceNs : Option Nat
  ring : Q
  off : Q
  deriving DecidableEq, Repr

/-- The energy services of ISO 15118-20 that R328 names. -/
inductive IsoService where
  | ac | acBpt | dc | wpt | acdp
  deriving DecidableEq, Repr

/-- What the digital path brings, with the values the N9 uses (R328): the end of matching, discovery and TLS, then the messages. `other` stands
for every message and service that the table of R328 does not list. -/
inductive IsoMsg where
  | slacMatched
  | sdpFound (secured : Bool)
  /-- TLS established: its version is 1.3, and the ROOT entry that anchors the chain (R514). -/
  | tlsUp (v13 : Bool) (root : Nat)
  | supportedAppProtocol | sessionSetup | authorizationSetup
  /-- EIM, or Plug & Charge. -/
  | authorization (eim : Bool)
  | serviceDiscovery | serviceDetail
  | serviceSelection (service : IsoService) (valueAdded : Bool)
  | chargeParameterDiscovery (maxAmps : Q)
  | scheduleExchange (dynamic : Bool)
  | powerDeliveryStart
  /-- Standby, from the N9's side or the supply equipment's. -/
  | powerDeliveryStandby (own : Bool)
  | powerDeliveryStop
  | chargeLoop (maxAmps : Q) (target : Q)
  | sessionStop
  | other
  deriving DecidableEq, Repr

/-- A fabric frame header (R444). -/
structure FabHeader where
  version : Nat
  type : Nat
  cls : Nat
  e2e : Bool
  bcast : Bool
  /-- Bits 7:5 of byte 1. -/
  rsv1 : Nat
  dst : Nat
  dep : Nat
  src : Nat
  sep : Nat
  len : Nat
  hop : Nat
  rsv9 : Nat
  seq : Nat
  link : Nat
  rsv14 : Nat
  deriving DecidableEq, Repr

/-- A link-state advert (R453): each port's number, state code and neighbour identity. -/
structure Advert where
  id : Nat
  boot : Nat
  seq : Nat
  ports : List (Nat × Nat × Nat)
  list : List Nat
  closed : Bool
  deriving DecidableEq, Repr

/-- What a partner's heartbeat frame carries (R473, R471): requests are T_ax and ΔT for the receiver, and the
counters of the vehicle messages used. -/
structure PartnerHb where
  role : Nat
  leadOk : Bool
  mode : Nat
  cycles : Nat
  arbFit : Bool
  partnerFit : Bool
  senior : Bool
  /-- The per-unit requests of the sender's latest computation: the lead's and the partner's. -/
  request : (Q × Q) × (Q × Q)
  counters : List (Nat × Nat)
  deriving DecidableEq, Repr

/-- What an accepted control frame means to its owner; the layouts of endpoints 2, 3 and 5 are not documented. -/
inductive CtlContent where
  | other
  | heartbeat (h : PartnerHb)
  /-- Endpoint 2 from the lead: T_ax and ΔT of the lead and of the partner, and the counters it used. -/
  | leadRequest (lead partner : Q × Q) (counters : List (Nat × Nat))
  /-- Endpoint 2: the partner's report: its motor is available; an actuator sequence or a session of it runs. -/
  | report (available busy : Bool)
  /-- Endpoint 3: the LV setpoint of the LV-bus master, mV and 0.1 mV/µs. -/
  | lvSetpoint (vset slew : Nat)
  | handover (at_ : Nat) (counters : List (Nat × Nat)) (swap : Bool)
  | handoverAck
  /-- Endpoint 3: the charging session decisions of the lead: the phase, the battery current and voltage. -/
  | charge (phase : Nat) (iBat vBat : Q)
  /-- Endpoint 5: what a unit read in the ARB test passes (R487). -/
  | arbReading (pass : Bool)
  deriving DecidableEq, Repr

/-- A management request (R465): the requester's node, endpoint and TAG, and whether its payload is shorter than its
arguments. -/
structure FabReq where
  node : Nat
  ep : Nat
  tag : Nat
  short : Bool
  deriving DecidableEq, Repr

/-- The path of an access to a register (R5, R529). -/
inductive RegPath where
  | uds
  | fabric
  | jtag
  deriving DecidableEq, Repr

/-- A command: one row of spec/opcode_table.json each. A row that names an event carries the observed value and the time it
has held; the meaning compares them with the thresholds of the rule (log entry 17). -/
inductive Instr where
  /-- FEED_PRESENT (R60). -/
  | feedPresent (f : Feed) (volts : Q) (heldUs : Nat)
  /-- FEED_LOST (R61). -/
  | feedLost (f : Feed) (volts : Q) (heldUs : Nat)
  /-- FEED_OVERVOLTAGE (R62). -/
  | feedOvervoltage (f : Feed) (volts : Q) (heldUs : Nat)
  /-- FEED_OVERVOLTAGE_CLEARED (R60). -/
  | feedOvervoltageCleared (f : Feed) (volts : Q) (heldUs : Nat)
  /-- IDEAL_DIODE_TURN_OFF (R59). -/
  | idealDiodeTurnOff (f : Feed) (feedVolts holdVolts : Q)
  /-- BOTH_FEEDS_LOST (R89). -/
  | bothFeedsLost (f : Feed) (volts : Q) (heldUs : Nat)
  /-- FEED_RETURN_IN_HOLDUP (R91). -/
  | feedReturnInHoldup (f : Feed) (volts holdVolts : Q) (heldUs : Nat)
  /-- HOLD_BELOW_VMIN (R65). -/
  | holdBelowVmin (holdVolts : Q)
  /-- RAIL_MONITOR_RESET (R64). -/
  | railMonitorReset (r : Rail) (volts : Q)
  /-- BIAS_CURRENT_LIMIT (R68). -/
  | biasCurrentLimit (bank : Bank) (sw : Fin 2) (shuntVolts : Q)
  /-- BIAS_BANK_STOP (R68). -/
  | biasBankStop (bank : Bank) (limitUs : Nat)
  /-- POWER_UP (R69). -/
  | powerUp (f : Feed) (volts : Q) (nRst : Bool)
  /-- CRYSTAL_ACCEPTED (R122). -/
  | crystalAccepted (minEdges maxEdges windowUs : Nat) (seniorToGnd : Bool)
  /-- HANDSHAKE_JUDGEMENT (R70). -/
  | handshakeJudgement (reports : List Handshake)
  /-- ACCESSION (R106). -/
  | accession (x : AccIn)
  /-- BOOT_DESCRIPTOR_WRITE (R97). -/
  | bootDescriptorWrite (holdVolts : Q) (verifyOk : Bool)
  /-- POST_READY_OTP_OPERATIONS (R517). -/
  | postReadyOtpOperations (holdVolts : List Q) (entropyOk : Bool) (verifyFails : Nat)
  /-- LOCKED_STORE_WRITE (R110). -/
  | lockedStoreWrite (region : StoreRegion) (addr value : Nat)
  /-- LOADED_STORE_CRC_CHECK (R111). -/
  | loadedStoreCrcCheck (upset : List (Nat × Nat))
  /-- NRST_RESET (R73). -/
  | nrstReset (lowNs : Nat)
  /-- NRST_RELEASE (R74). -/
  | nrstRelease
  /-- SVC_ACKNOWLEDGE (R76). -/
  | svcAcknowledge (pressMs : Nat)
  /-- SVC_RESET_REQUEST (R76). -/
  | svcResetRequest (pressMs : Nat)
  /-- SVC_STUCK (R77). -/
  | svcStuck (lowMs : Nat)
  /-- SVC_RELEASED_1S (R77). -/
  | svcReleased1s (releasedMs : Nat)
  /-- WAKE_LEVEL_CHANGE (R78). -/
  | wakeLevelChange (level : Bool)
  /-- SHIP_WRITES_TIMEOUT (R80). -/
  | shipWritesTimeout (elapsedMs : Nat)
  /-- SHIP_FEEDS_DOWN (R80). -/
  | shipFeedsDown (voltsA voltsB : Q) (elapsedMs : Nat)
  /-- SHIP_SWITCH_TIMEOUT (R81). -/
  | shipSwitchTimeout (elapsedMs : Nat)
  /-- FEED_RISE_WAKE_ARMED (R80). -/
  | feedRiseWakeArmed (voltsA voltsB : Q) (heldMs : Nat)
  /-- WAKE_SOURCE_QUALIFIED (R83). -/
  | wakeSourceQualified (obs : WakeObs)
  /-- SHIP_EXIT (R83). -/
  | shipExit (f : Feed) (volts : Q) (nRst : Bool)
  /-- SHIP_WAKE_TIMEOUT (R83). -/
  | shipWakeTimeout (elapsedMs : Nat)
  /-- AC_PRESENT_CHANGE (R82). -/
  | acPresentChange (rms1 rms2 rms3 : Q)
  /-- FLASH_OPERATION_START (R84). -/
  | flashOperationStart (o : FlashOp) (holdVolts : Q) (ageUs : Nat)
  /-- PENDING_OPERATION_RECHECK (R87). -/
  | pendingOperationRecheck (holdVolts : Q)
  /-- FLASH_OPERATION_COMPLETE (R88). -/
  | flashOperationComplete (verifyOk : Bool)
  /-- REQUEST_DOWNLOAD (R114). -/
  | requestDownload (p : UPath) (addr size : Nat)
  /-- TRANSFER_DATA (R115). -/
  | transferData (p : UPath) (seq : Nat) (data : List Byte)
  /-- REQUEST_TRANSFER_EXIT (R114). -/
  | requestTransferExit (p : UPath)
  /-- STAGING_BLOCK_WRITTEN (R115). -/
  | stagingBlockWritten (verifyOk : Bool)
  /-- STAGING_SESSION_TIMEOUT (R116). -/
  | stagingSessionTimeout (idleS : Nat)
  /-- STAGE_CHECK (R117). -/
  | stageCheck (p : UPath) (fw : FwFacts) (sigOk : Bool) (readFails : List ReadFail)
  /-- STAGE_COMMIT (R117). -/
  | stageCommit (p : UPath)
  /-- STAGE_CONFIRM (R117). -/
  | stageConfirm (p : UPath)
  /-- STAGE_REJECT (R117). -/
  | stageReject (p : UPath)
  /-- CALIBRATION_MEASUREMENT (R123). -/
  | calibrationMeasurement (counts : List Nat)
  /-- TAP_SWAP (R125). -/
  | tapSwap (tick : Nat) (edgeFree : Bool)
  /-- CALIBRATION_MISSED (R125). -/
  | calibrationMissed
  /-- CRYSTAL_LOSS (R122). -/
  | crystalLoss (edges : Nat)
  /-- PWM_LATCH (R132). -/
  | pwmLatch (g : Grp) (aux : Q)
  /-- GROUP_START (R139). -/
  | groupStart (g : Grp) (bootstrap : List (Chan × Q))
  /-- GROUP_STOP (R140). -/
  | groupStop (g : Grp)
  /-- ANCHORED_GROUP_START (R150). -/
  | anchoredGroupStart (g : Grp) (requestNs startNs : Q) (bootstrap : List (Chan × Q))
  /-- SAR_SAMPLE (R141). -/
  | sarSample (t : TSet) (tr : Trig) (u v w x : Int)
  /-- SINC2_OUTPUT (R146). -/
  | sinc2Output (sdd : Fin 8) (bits : List Bool)
  /-- DC_LINK_SAMPLE (R196). -/
  | dcLinkSample (d : Die) (volts : Q)
  /-- SENSE_DIE_TRIGGER_LOSS (R22). -/
  | senseDieTriggerLoss (d : Die) (ns : Nat)
  /-- ORRERY_UPDATE (R163). -/
  | orreryUpdate (t : TSet) (x : OrrIn)
  /-- ORRERY_DEADLINE_MISS (R179). -/
  | orreryDeadlineMiss (t : TSet)
  /-- CHARGER_DEADLINE_MISS (R269). -/
  | chargerDeadlineMiss (dab : Bool)
  /-- IO_TASK_DEADLINE_MISS (R27). -/
  | ioTaskDeadlineMiss
  /-- MODE_EVALUATION (R34). -/
  | modeEvaluation (svcLow : Bool)
  /-- DC_LINK_WINDOW_CHANGE (R37). -/
  | dcLinkWindowChange (heldMs : Nat)
  /-- IO_TORQUE_TASK (R186). -/
  | ioTorqueTask
  /-- TORQUE_LOSS_FAULT (R192). -/
  | torqueLossFault (sinceMs : Nat)
  /-- IDLE_STOP (R193). -/
  | idleStop (t : TSet) (heldMs : Nat)
  /-- ROTOR_ANGLE_OFFSET (R194). -/
  | rotorAngleOffset (p : UPath) (t : TSet) (elapsedMs angle : Nat)
  /-- WINDING_RESISTANCE (R194). -/
  | windingResistance (p : UPath) (t : TSet) (elapsedMs : Nat) (vd id : Q)
  /-- DC_LINK_DISAGREE (R196). -/
  | dcLinkDisagree (heldUs : Nat)
  /-- DC_OVERVOLTAGE_ASC (R199). -/
  | dcOvervoltageAsc (d : Die) (volts : Q)
  /-- OV_ASC_RELEASE (R199). -/
  | ovAscRelease (voltsT voltsC : Q)
  /-- SAFE_STATE_ENTRY (R200). -/
  | safeStateEntry (t : TSet)
  /-- SAFE_STATE_CHOICE (R201). -/
  | safeStateChoice (t : TSet) (sinceUs : Q) (samples : List (Q × Q × Q))
  /-- ASC_SIDE_FAULT (R203). -/
  | ascSideFault (t : TSet) (c : Chan)
  /-- ASC_TRIAL_REQUEST (R204). -/
  | ascTrialRequest (t : TSet) (elapsedMs : Nat)
  /-- RESOLVER_UPDATE (R216). -/
  | resolverUpdate (i : Ifc) (at270 : Bool) (sQuad cQuad sEnv cEnv : Q)
  /-- SENT_FRAME (R223). -/
  | sentFrame (i : Ifc) (f : SentFrame)
  /-- SENT_TIMEOUT (R224). -/
  | sentTimeout (i : Ifc) (sinceUs : Nat)
  /-- ABZ_EDGE (R226). -/
  | abzEdge (i : Ifc) (a b z : Bool) (heldCt tFt : Nat)
  /-- HALL_EDGE (R232). -/
  | hallEdge (i : Ifc) (code : Nat) (heldCt tFt : Nat)
  /-- INDEX_RISING_EDGE (R234). -/
  | indexRisingEdge (i : Ifc) (level : Bool) (heldCt : Nat)
  /-- STANDSTILL_TIMEOUT (R236). -/
  | standstillTimeout (i : Ifc) (tauUs : Nat)
  /-- EMULATION_STEP (R239). -/
  | emulationStep (i : Ifc) (sinceCt : Nat)
  /-- RAIL_OUT_OF_WINDOW (R245). -/
  | railOutOfWindow (c : Chan) (vcc2 vee2 : Q) (vccNs veeNs : Nat)
  /-- RAIL_FLAG_CLEAR (R245). -/
  | railFlagClear (c : Chan) (vcc2 vee2 : Q) (vccUs veeUs : Nat)
  /-- GATE_TURN_ON (R247). -/
  | gateTurnOn (c : Chan) (ft : Int)
  /-- GATE_TURN_OFF (R247). -/
  | gateTurnOff (c : Chan) (ft : Int) (dsnVolts : Q) (onNs : Nat)
  /-- PERMIT_REMOVAL_TURN_OFF (R249). -/
  | permitRemovalTurnOff (d : Fin 7)
  /-- SECONDARY_LINK_LOSS (R21). -/
  | secondaryLinkLoss (c : Chan) (ns : Nat)
  /-- STATUS_FRAME_LOSS (R251). -/
  | statusFrameLoss (c : Chan) (ns : Nat)
  /-- READBACK_MISMATCH (R251). -/
  | readbackMismatch (c : Chan) (reportedOn : Bool) (heldNs sinceEdgeNs : Nat)
  /-- DESATURATION (R252). -/
  | desaturation (c : Chan) (dsnVolts : Q) (onNs heldNs : Nat)
  /-- GATE_CHARGE_SHORT (R253). -/
  | gateChargeShort (c : Chan) (chOut : List (Nat × Q))
  /-- SHORT_REPORT (R256). -/
  | shortReport (c : Chan)
  /-- WATCH_WINDOW_END (R256). -/
  | watchWindowEnd (g : Stage)
  /-- BOOTSTRAP_REFRESH (R259). -/
  | bootstrapRefresh (c : Chan) (sinceUs pulseUs : Nat)
  /-- BOOTSTRAP_UNDERVOLTAGE (R260). -/
  | bootstrapUndervoltage (c : Chan) (volts : Q) (heldNs : Nat)
  /-- BOOTSTRAP_OFF (R260). -/
  | bootstrapOff (c : Chan) (volts : Q) (afterUs : Nat)
  /-- BOOTSTRAP_UV_CLEAR (R260). -/
  | bootstrapUvClear (c : Chan) (volts : Q) (heldUs : Nat)
  /-- OFF_STATE_DIAGNOSTICS (R262). -/
  | offStateDiagnostics (g : Stage) (r : OsdReading)
  /-- TRACTION_START_TEST (R263). -/
  | tractionStartTest (t : TSet) (r : StartTest)
  /-- CLEAR_LATCHED_FLAGS (R264). -/
  | clearLatchedFlags (p : UPath) (opt : Nat)
  /-- PFC_UPDATE (R272). -/
  | pfcUpdate (tr : Trig) (x : PfcIn)
  /-- DAB_UPDATE (R278). -/
  | dabUpdate (vBus iBat : SdWindow)
  /-- CHARGER_FAULT_STOP (R281). -/
  | chargerFaultStop (code : Nat)
  /-- CHARGER_STOP_REQUEST (R281). -/
  | chargerStopRequest
  /-- MAIN_RELAY_OPEN (R281). -/
  | mainRelayOpen (iMax : Q) (elapsedMs : Nat)
  /-- FORWARD_START (R282). -/
  | forwardStart
  /-- RELAY_CONFIRMED (R282). -/
  | relayConfirmed (h : Fin 6) (closed : Bool)
  /-- RELAY_FEEDBACK_TIMEOUT (R282). -/
  | relayFeedbackTimeout (h : Fin 6) (elapsedMs : Nat)
  /-- PRECHARGE_COMPLETE (R282). -/
  | prechargeComplete (vBus : Q)
  /-- PRECHARGE_TIMEOUT (R282). -/
  | prechargeTimeout (elapsedMs : Nat)
  /-- BUS_OK_REACHED (R282). -/
  | busOkReached (vBus : Q) (heldMs : Nat)
  /-- BUS_RAMP_TIMEOUT (R282). -/
  | busRampTimeout (elapsedMs : Nat)
  /-- BUS_UNDERVOLTAGE (R283). -/
  | busUndervoltage (vBus : Q) (heldMs : Nat)
  /-- REVERSE_START (R284). -/
  | reverseStart
  /-- REVERSE_OVERLOAD (R286). -/
  | reverseOverload (heldMs : Nat)
  /-- BATTERY_CONTACTOR_OPEN (R287). -/
  | batteryContactorOpen (heldMs : Nat)
  /-- LV_CONVERTER_START (R307): V48 and the sense readings, the time since the start, the ring's relative deviation, and the bootstrap
  voltages of the buck's high sides (R258). -/
  | lvConverterStart (v48 rs ls : Q) (sinceUs : Nat) (ring : Q) (boot : List (Chan × Q))
  /-- LV_CONVERTER_STOP (R293). -/
  | lvConverterStop
  /-- LV_RESTART_REQUEST (R293). -/
  | lvRestartRequest
  /-- DCX_START_TIMEOUT (R300). -/
  | dcxStartTimeout (v48 : Q) (elapsedMs : Nat)
  /-- V48_OVERVOLTAGE (R300). -/
  | v48Overvoltage (v48 : Q) (heldUs : Nat)
  /-- V48_UNDERVOLTAGE (R300). -/
  | v48Undervoltage (v48 : Q) (heldUs : Nat)
  /-- BUCK_TURN_ON_SLOT (R302). -/
  | buckTurnOnSlot (n : Fin 6) (x : SlotIn)
  /-- PHASE_CURRENT_LIMIT (R306). -/
  | phaseCurrentLimit (n : Fin 6) (ft : Int) (amps : Q)
  /-- LVC_CMD_WRITE (R303). -/
  | lvcCmdWrite (value : Word)
  /-- REFERENCE_STEP (R304). -/
  | referenceStep
  /-- SHORT_CHECK (R308). -/
  | shortCheck (ls : Q) (heldMs : Nat)
  /-- HICCUP_RETRY (R308). -/
  | hiccupRetry (rs ls : Q) (boot : List (Chan × Q)) (offMs : Nat)
  /-- RETRIES_RESET (R308). -/
  | retriesReset (ls : Q) (heldMs : Nat)
  /-- REMOTE_SENSE_LOSS (R311). -/
  | remoteSenseLoss (rs ls : Q) (heldUs : Nat)
  /-- UNDERSHOOT_RESPONSE (R312). -/
  | undershootResponse (ls highest : Q) (sinceUs : Option Nat)
  /-- RELEASE_RESPONSE (R313). -/
  | releaseResponse (ls lowest : Q) (sinceUs : Option Nat)
  /-- OVERVOLTAGE_HOLD (R314). -/
  | overvoltageHold (ls : Q) (heldUs : Nat)
  /-- OVERVOLTAGE_HOLD_END (R314). -/
  | overvoltageHoldEnd (ls : Q)
  /-- OVERVOLTAGE_HOLD_TIMEOUT (R314). -/
  | overvoltageHoldTimeout (elapsedMs : Nat)
  /-- PHASE_STOP (R316). -/
  | phaseStop (n : Fin 6)
  /-- PILOT_STATE_CHANGE (R321): the samples of CP_IN, one per µs, of one pilot period from a rise on, or since the last level change; the
  time the state they show has held. -/
  | pilotStateChange (x : List Q) (heldUs : Nat)
  /-- PILOT_DUTY_ACCEPTED (R321): the samples of three consecutive periods. -/
  | pilotDutyAccepted (x1 x2 x3 : List Q)
  /-- PROXIMITY_CODE_CHANGE (R323). -/
  | proximityCodeChange (volts : Q) (heldUs : Nat)
  /-- SESSION_EVALUATION (R325). -/
  | sessionEvaluation (meanBat : Q)
  /-- PULSE_PHASE_END (R337). -/
  | pulsePhaseEnd (iEnd : Q) (elapsedMs : Nat)
  /-- HLC_SETUP_TIMEOUT (R328). -/
  | hlcSetupTimeout (elapsedMs : Nat)
  /-- ISO15118_MESSAGE (R328). -/
  | iso15118Message (m : IsoMsg)
  /-- GRID_WAIT_TIMEOUT (R330). -/
  | gridWaitTimeout (elapsedMs : Nat)
  /-- DISCHARGE_DC_LINK_CHECK (R329). -/
  | dischargeDcLinkCheck
  /-- SESSION_RESTART (R345). -/
  | sessionRestart (elapsedMs : Nat)
  /-- LV_FLOAT_SWITCH (R343). -/
  | lvFloatSwitch (sinceMs : Nat)
  /-- HOUSEKEEPING_ROUND (R349). -/
  | housekeepingRound (taken : List HkReading)
  /-- HOUSEKEEPING_STALE (R351). -/
  | housekeepingStale (slots : List (Fin 96))
  /-- PARK_ENGAGE (R373). -/
  | parkEngage (src : ReqSrc)
  /-- PARK_RELEASE (R373). -/
  | parkRelease (src : ReqSrc)
  /-- SHIFT (R374). -/
  | shift (src : ReqSrc) (target : Nat)
  /-- PEAK_CURRENT_CUT (R366). -/
  | peakCurrentCut (a : Act) (amps : Q)
  /-- STALL_DETECTED (R372). -/
  | stallDetected (a : Act) (sinceMs : Nat)
  /-- BRAKE_END (R369). -/
  | brakeEnd (a : Act) (elapsedMs : Nat)
  /-- SHIFT_DWELL_END (R374). -/
  | shiftDwellEnd (elapsedMs : Nat)
  /-- SEQUENCE_TIMEOUT (R372). -/
  | sequenceTimeout (a : Act) (elapsedMs : Nat)
  /-- CONFIRMATION_TIMEOUT (R373). -/
  | confirmationTimeout (elapsedMs : Nat)
  /-- BRIDGE_SUPPLY_LOW (R375). -/
  | bridgeSupplyLow (a : Act) (volts : Q) (heldMs : Nat)
  /-- SAFETY_INPUT_EDGE (R386). -/
  | safetyInputEdge (n : SiN) (ch : Side) (demand : Bool) (heldUs : Q) (at_ : Nat)
  /-- DISCREPANCY_LATCH (R387). -/
  | discrepancyLatch (n : SiN) (at_ : Nat)
  /-- INPUT_VIEW_MISMATCH (R380). -/
  | inputViewMismatch (n : SiN) (ch : Side) (heldUs : Nat)
  /-- CALLISTO_CYCLE (R27). -/
  | callistoCycle (samples : List (SiN × Side × List Bool))
  /-- CALLISTO_OVERRUN (R27). -/
  | callistoOverrun
  /-- CALLISTO_WATCH_EXPIRY (R28). -/
  | callistoWatchExpiry (sinceUs : Nat)
  /-- SAFE_STATE_REQUEST (R394). -/
  | safeStateRequest
  /-- SO_READBACK_MISMATCH (R392). -/
  | soReadbackMismatch (line : Side) (level : Bool) (heldUs : Nat)
  /-- CUSTODIAN_CONFIG_CHECK (R397). -/
  | custodianConfigCheck (upsets : List (CustReg × Nat))
  /-- LOCKSTEP_MISMATCH (R409). -/
  | lockstepMismatch (p : LPair) (steps : List CoreStep)
  /-- PAIR_RESTART_COMPLETE (R410). -/
  | pairRestartComplete (p : LPair) (region : List (Fin 9 × Nat))
  /-- REGISTER_EXPORT (R407). -/
  | registerExport (p : LPair) (main checker : List (BitVec 64))
  /-- SCRUB_READ (R416). -/
  | scrubRead (words : List ScrubWord) (nowMs : Nat)
  /-- UNCORRECTABLE_ERROR (R417). -/
  | uncorrectableError (r : MemRead) (reader : MemReader) (locked : Bool)
  /-- CORRECTABLE_ERROR (R415). -/
  | correctableError (r : MemRead) (reader : MemReader) (nowMs : Nat)
  /-- DEBUG_HALT (R418). -/
  | debugHalt (p : LPair) (tail : CoreStep) (main checker : List (BitVec 64))
  /-- DEBUG_REGISTER_WRITE (R418). -/
  | debugRegisterWrite (p : LPair) (reg value : Nat)
  /-- DEBUG_RESUME (R419). -/
  | debugResume (p : LPair) (single : Bool) (steps : List CoreStep) (main checker : List (BitVec 64))
  /-- QUEUE_PUSH (R430). -/
  | queuePush (q : QId) (word : BitVec 64) (first last : Bool) (cls : Fin 8)
  /-- QUEUE_PUSH_TIMEOUT (R430). -/
  | queuePushTimeout (q : QId) (waitUs : Nat)
  /-- QUEUE_ABORT (R424). -/
  | queueAbort (q : QId)
  /-- ZERO_LENGTH_COMMIT (R425). -/
  | zeroLengthCommit (q : QId)
  /-- QUEUE_POP (R427). -/
  | queuePop (q : QId)
  /-- MARK_CHECK (R433). -/
  | markCheck (q : QId) (upset : Option (Fin 8 × Fin 6 × Nat)) (nowMs : Nat)
  /-- PORT_DOWN_EXPIRY (R443). -/
  | portDownExpiry (p : Port) (elapsedUs : Nat)
  /-- PORT_TRAINED (R443). -/
  | portTrained (p : Port) (symbols : Nat)
  /-- HELLO_FRAME (R443). -/
  | helloFrame (p : Port) (ident echo : Nat)
  /-- ALIGNMENT_LOSS (R443). -/
  | alignmentLoss (p : Port) (violations : Nat)
  /-- FRAME_HEADER_RECEIVED (R452). -/
  | frameHeaderReceived (p : Port) (h : FabHeader)
  /-- FRAME_END_RECEIVED (R450). -/
  | frameEndReceived (p : Port) (crcOk : Bool) (payload : List Byte)
  /-- ACK_RECEIVED (R450). -/
  | ackReceived (p : Port) (link : Nat)
  /-- NAK_RECEIVED (R450). -/
  | nakReceived (p : Port) (link : Nat)
  /-- REPLAY_TIMEOUT (R450). -/
  | replayTimeout (p : Port) (sinceNs : Nat)
  /-- LINK_DOWN (R451). -/
  | linkDown (p : Port)
  /-- CONTROL_FRAME_RECEIVED (R448). -/
  | controlFrameReceived (h : FabHeader) (payload : List Byte) (c : CtlContent)
  /-- DATA_FRAME_RECEIVED (R449). -/
  | dataFrameReceived (h : FabHeader)
  /-- ADVERT_SEND (R453). -/
  | advertSend
  /-- LINK_STATE_ADVERT (R453). -/
  | linkStateAdvert (p : Port) (a : Advert)
  /-- EPOCH_LIST_CLOSE (R453). -/
  | epochListClose (unchangedMs sinceMs : Nat)
  /-- DELAY_MEASUREMENT (R459). -/
  | delayMeasurement (p : Port) (t1 t2 t3 t4 : Nat)
  /-- TIME_FRAME (R460). -/
  | timeFrame (p : Port) (carried : Nat)
  /-- TIME_FRAME_TIMEOUT (R460). -/
  | timeFrameTimeout (sinceUs : Nat)
  /-- READ (R465). -/
  | read (r : FabReq) (addr count : Nat)
  /-- WRITE (R465). -/
  | write (r : FabReq) (addr value : Nat)
  /-- STAGE_OPEN (R465). -/
  | stageOpen (r : FabReq) (region first size : Nat)
  /-- STAGE_EXIT (R465). -/
  | stageExit (r : FabReq)
  /-- ROUTINE (R465). -/
  | routine (r : FabReq) (id : Nat) (fw : FwFacts) (sigOk : Bool) (readFails : List ReadFail)
  /-- IMAGE_BLOCK_PART (R466). -/
  | imageBlockPart (node block part : Nat) (data : List Byte)
  /-- BLOCK_PART_TIMEOUT (R466). -/
  | blockPartTimeout (elapsedMs : Nat)
  /-- RESET (R463). -/
  | reset (r : FabReq) (at_ : Nat)
  /-- SCHEDULED_RESET_INSTANT (R463). -/
  | scheduledResetInstant
  /-- BARRIER (R464). -/
  | barrier (node number : Nat)
  /-- BARRIER_COMPLETE (R464). -/
  | barrierComplete (number : Nat)
  /-- SNAPSHOT (R463). -/
  | snapshot (r : FabReq) (at_ : Nat) (addrs : List Nat)
  /-- SNAPSHOT_CAPTURE (R463). -/
  | snapshotCapture
  /-- LOG_READ (R542). -/
  | logRead (r : FabReq) (start count : Nat)
  /-- ATTEST (R521). -/
  | attest (r : FabReq) (nonce : List Byte)
  /-- HEARTBEAT_SEND (R473). -/
  | heartbeatSend
  /-- FABRIC_HEARTBEAT_TIMEOUT (R474). -/
  | fabricHeartbeatTimeout (sinceUs : Nat)
  /-- PHB_HEARTBEAT_TIMEOUT (R474). -/
  | phbHeartbeatTimeout (sinceUs : Nat)
  /-- ARB_SAMPLE (R479). -/
  | arbSample (high : Bool)
  /-- ARBITRATION_SAMPLE (R480). -/
  | arbitrationSample (high : Bool) (sinceUs : Nat)
  /-- LEAD_RELEASE (R482). -/
  | leadRelease
  /-- TWO_LEADS_SEEN (R484). -/
  | twoLeadsSeen
  /-- HANDOVER_REQUEST (R485). -/
  | handoverRequest (at_ : Nat) (swap : Bool) (waitedMs : Nat)
  /-- HANDOVER_INSTANT (R485). -/
  | handoverInstant
  /-- HANDOVER_ABANDON (R485). -/
  | handoverAbandon (sinceUs : Nat)
  /-- LEAD_RETURN (R486). -/
  | leadReturn (heldMs : Nat)
  /-- ARB_TEST (R487). -/
  | arbTest (pull1 between pull2 : Bool) (healthyMs : Nat)
  /-- SWAP_END (R488). -/
  | swapEnd (elapsedMs : Nat) (streamsOk : Bool)
  /-- SOLO_EXIT (R483). -/
  | soloExit (heldMs : Nat)
  /-- BUS_OFF (R494). -/
  | busOff (n : Fin 2)
  /-- BUS_OFF_REJOIN (R494). -/
  | busOffRejoin (n : Fin 2) (waitMs : Nat)
  /-- ETH_LINK_CHANGE (R495). -/
  | ethLinkChange (up : Bool)
  /-- CONTROL_MESSAGE_RECEIVED (R504). -/
  | controlMessageReceived (m : Fin 256) (ifc : Fin 3) (bytes : List Byte)
  /-- STREAM_TIMEOUT (R505). -/
  | streamTimeout (m : Fin 256) (sinceMs : Nat)
  /-- MESSAGE_TRANSMIT (R498). -/
  | messageTransmit (m : Fin 256)
  /-- DIAGNOSTIC_SESSION_CONTROL (R506). -/
  | diagnosticSessionControl (p : UPath) (sub : Nat) (functional : Bool)
  /-- S3_SESSION_TIMEOUT (R506). -/
  | s3SessionTimeout (p : UPath) (idleMs : Nat)
  /-- ECU_RESET (R506). -/
  | ecuReset (p : UPath) (sub : Nat)
  /-- CLEAR_DIAGNOSTIC_INFORMATION (R507). -/
  | clearDiagnosticInformation (p : UPath) (group : Nat)
  /-- READ_DTC_INFORMATION (R507). -/
  | readDtcInformation (p : UPath) (sub mask : Nat)
  /-- READ_DATA_BY_IDENTIFIER (R506). -/
  | readDataByIdentifier (p : UPath) (did : Nat)
  /-- READ_MEMORY_BY_ADDRESS (R506). -/
  | readMemoryByAddress (p : UPath) (format addr len : Nat)
  /-- WRITE_DATA_BY_IDENTIFIER (R529). -/
  | writeDataByIdentifier (p : UPath) (did value : Nat)
  /-- ROUTINE_RESULTS (R506). -/
  | routineResults (p : UPath) (rid : Nat)
  /-- TESTER_PRESENT (R506). -/
  | testerPresent (p : UPath) (sub : Nat) (functional : Bool)
  /-- REQUEST_SEED (R522). -/
  | requestSeed (p : UPath) (level : Nat)
  /-- SEND_KEY (R523). -/
  | sendKey (p : UPath) (level seg : Nat) (key : Nat) (len : Nat)
  /-- KEY_VERIFICATION_DONE (R523). -/
  | keyVerificationDone (sigOk : Bool) (holdVolts : List Q) (verifyFails : Nat)
  /-- CHALLENGE_TIMEOUT (R523). -/
  | challengeTimeout (idleS : Nat)
  /-- UNLOCK_DELAY_END (R523). -/
  | unlockDelayEnd (elapsedMs : Nat)
  /-- ATTESTATION_REQUEST (R521). -/
  | attestationRequest (p : UPath) (index : Nat) (nonce : List Byte)
  /-- JTAG_CHAL (R524). -/
  | jtagChal
  /-- JTAG_KEY (R524). -/
  | jtagKey (key : Nat) (sigOk : Bool)
  /-- MODEM_STATUS_READ (R508). -/
  | modemStatusRead (reply : Bool)
  /-- MODEM_LINK_LOSS (R508). -/
  | modemLinkLoss (silentMs : Nat)
  /-- MODEM_FRAME_RECEIVE (R508). -/
  | modemFrameReceive (type len : Nat)
  /-- FAULT_RAISE (R537). -/
  | faultRaise (code inst meas : Nat)
  /-- FAULT_CLEAR (R534). -/
  | faultClear (code inst : Nat)
  /-- FAULT_EXPIRY (R534). -/
  | faultExpiry (code inst elapsedMs : Nat)
  /-- LOG_BLOCK_CLOSE (R540). -/
  | logBlockClose
  /-- RC_REGISTER_READ (R12). -/
  | rcRegisterRead (path : RegPath) (addr : Nat)
  /-- REGISTER_WRITE (R529). -/
  | registerWrite (path : RegPath) (addr value : Nat)
  /-- RAIL_MONITOR_RELEASE (R64). -/
  | railMonitorRelease (r : Rail) (volts : Q)
  /-- KA_FIRST_APPLICATION (R79). -/
  | kaFirstApplication (kaVolts : Q)
  /-- PHB_IN_EDGE (R474). -/
  | phbInEdge
  /-- PHB_OUT_TOGGLE (R473). -/
  | phbOutToggle
  /-- ARB_RELEASE (R479). -/
  | arbRelease (heldMs : Nat)
  /-- TIME_FRAME_SEND (R460). -/
  | timeFrameSend
  /-- HELLO_SEND (R443). -/
  | helloSend (p : Port)
  /-- EOB_RECEIVED (R452). -/
  | eobReceived (p : Port)
  /-- PHY_RESET_RELEASE (R495). -/
  | phyResetRelease (sinceMs : Nat)
  /-- ATTESTATION_SIGNED (R521). -/
  | attestationSigned
  /-- UNSUPPORTED_SERVICE (R506). -/
  | unsupportedService (p : UPath) (sid : Nat) (sub : Option Nat) (functional : Bool)
  /-- OP_UNKNOWN (R465). -/
  | opUnknown (r : FabReq) (code : Nat)
  deriving DecidableEq, Repr

end Sys2Proof
end

