-- ==== Sys2Proof/Config.lean ====
section
/-! DEFINITION. What the spec leaves open: free functions and free values. None of them has a body, so no proof can see a value of one. -/

namespace Sys2Proof.Config

/-- FREE. How the N9's arithmetic rounds an irrational value, by the function (1 square root, 2 sine, 3 exponential, 4 logarithm, 5 arc sine,
6 π) and its argument; only the part in −1 to 1, in units of 2^−40, is used (log entry 3). -/
opaque roundErr : Nat → Rat → Rat
/-- FREE. Whether `round` takes an exact half up (log entry 4). -/
opaque tieUp : Rat → Bool
/-- FREE. Where the "fixed Tabath gain curve" of overmodulation lies for a modulation index, inside the band of R176: the part in 0 to 1. -/
opaque overmodGain : Rat → Rat
/-- FREE. How much the hold angle of overmodulation region II rises over each thousandth part of the region (R176). -/
opaque holdRise : Nat → Nat
/-- FREE. SHAKE256 of a byte string, to a number of bytes (R510: FIPS 205 lies outside the spec). -/
opaque shake256 : List (BitVec 8) → Nat → List (BitVec 8)
/-- FREE. A fresh value for each index: whether an nRST low of 1 µs to 5 µs resets (R72). -/
opaque nrstShortResets : Nat → Bool
/-- FREE. A fresh value for each index: whether a level held between 0.8 × FILT and FILT is accepted (R385). -/
opaque siShortAccepted : Nat → Bool
/-- FREE. Whether a soft turn-off has brought ch_OUT below VEE2 + 2.0 V, by the channel, the instant of its turn-on and how long the turn-off
runs, in ticks: the load decides it (R248). -/
opaque softDone : Nat → Nat → Nat → Bool
/-- FREE. A fresh 32-byte nonce from the entropy source for each index (R522). -/
opaque nonce : Nat → List (BitVec 8)
/-- FREE. A fresh 128-byte identity key from the entropy source for each index (R520). -/
opaque identityKey : Nat → List (BitVec 8)
/-- FREE. A fresh attestation signature for each index (R521). -/
opaque attestSignature : Nat → List (BitVec 8)
/-- FREE. The quotient where a divisor of a rule is 0: the spec states no result there (log entry 5). -/
opaque divByZero : Rat → Rat
/-- FREE. Whether the other side of an either-or that a rule leaves open is taken, by a fresh index (log entry 6). -/
opaque choice : Nat → Bool
/-- FREE. A fresh number for a value that a rule uses and no rule gives (log entry 6). -/
opaque freeNat : Nat → Nat

/-- FREE. The nominal value of a housekeeping reference slot, which the spec does not list (R350, log entry 12). -/
opaque refNominal : Nat → Rat
/-- FREE. The share of a request that the lead (1) or the partner (2) takes, which no rule states (R475, R478, log entry 24). -/
opaque roleSplit : Nat → Rat → Rat

/-- FREE. A fresh rational for a quantity that a rule uses and no rule gives, by an index (log entry 36). -/
opaque freeQ : Nat → Rat

/-- FREE. The 64 data columns of the code of the shared memories, as far as they meet R414 (log entry 48). -/
opaque eccData : List (BitVec 8)
/-- FREE. The 21 address columns of that code, as far as they meet R414 (log entry 48). -/
opaque eccAddr : List (BitVec 8)
/-- FREE. The syndrome that the reserved check pattern of R417 decodes to, as far as it is an uncorrectable one (log entry 48). -/
opaque eccPoison : BitVec 8

/-- FREE. Bytes of a frame or message whose layout the spec does not give, by a fresh index (log entry 25). -/
opaque layout : Nat → List (BitVec 8)

end Sys2Proof.Config
end

