-- ==== Sys2Proof/Machine/Num.lean ====
section
/-! DEFINITION. Arithmetic that every block shares: binary32 fields, roots, angles, rounding, byte order, the two CRCs and the packing of register fields. -/

namespace Sys2Proof.Machine

/-! ## Bytes (little-endian, R535) -/

/-- The little-endian number of a byte list. -/
def leNat : List Byte → Nat
  | [] => 0
  | b :: rest => b.toNat + 256 * leNat rest

/-- The low `n` bytes of a number, least significant first. -/
def natLe : Nat → Nat → List Byte
  | 0, _ => []
  | n + 1, v => BitVec.ofNat 8 v :: natLe n (v / 256)

/-- The big-endian number of a byte list. -/
def beNat (bs : List Byte) : Nat := leNat bs.reverse

/-- The low `n` bytes of a number, most significant first. -/
def natBe (n v : Nat) : List Byte := (natLe n v).reverse

/-- The bytes at `off`, `n` of them, where all of them are there. -/
def bytesAt (bs : List Byte) (off n : Nat) : List Byte := (bs.drop off).take n

/-- One bit of a byte list flipped; a place beyond the list changes nothing. -/
def flipBit : Nat → List Byte → List Byte
  | _, [] => []
  | k, b :: rest => if k < 8 then (b ^^^ BitVec.ofNat 8 (2 ^ k)) :: rest else b :: flipBit (k - 8) rest

/-- The little-endian number of `n` bytes at an offset. -/
def uAt (bs : List Byte) (off n : Nat) : Nat := leNat (bytesAt bs off n)

/-- A signed number of `8 n` bits at an offset. -/
def sAt (bs : List Byte) (off n : Nat) : Int :=
  let v := uAt bs off n
  if v < 2 ^ (8 * n - 1) then (v : Int) else (v : Int) - 2 ^ (8 * n)

/-- The big-endian number of `n` bytes at an offset. -/
def ubeAt (bs : List Byte) (off n : Nat) : Nat := beNat (bytesAt bs off n)

/-- The byte list padded with one byte to a length. -/
def padTo (n : Nat) (p : Byte) (bs : List Byte) : List Byte := bs ++ List.replicate (n - bs.length) p

/-! ## binary32 (R8) -/

/-- The exact rational of a binary32 pattern; none for an infinity or a NaN. -/
def f32? (w : Nat) : Option Q :=
  let sb : Nat := w / 2 ^ 31 % 2
  let sgn : Q := if sb = 1 then -1 else 1
  let e : Nat := w / 2 ^ 23 % 256
  let m : Nat := w % 2 ^ 23
  if e = 255 then none
  else if e = 0 then some (sgn * m / 2 ^ 149)
  else if e < 150 then some (sgn * (2 ^ 23 + m) / 2 ^ (150 - e))
  else some (sgn * (2 ^ 23 + m) * 2 ^ (e - 150))

/-- The binary32 at an offset; 0 where the pattern is no number (the Catalogue check of R104 refuses such a field). -/
def fAt (bs : List Byte) (off : Nat) : Q := (f32? (uAt bs off 4)).getD 0

/-! ## Rounding and limits -/

/-- The nearest integer; an exact half goes where the free `tieUp` says (log entry 4). -/
def roundQ (x : Q) : Int :=
  let f := x.floor
  let r := x - f
  if r < 1 / 2 then f else if 1 / 2 < r then f + 1 else if Config.tieUp x then f + 1 else f

/-- The nearest natural number, 0 for a negative argument. -/
def roundN (x : Q) : Nat := (roundQ x).toNat

/-- The integer part of a non-negative rational. -/
def floorN (x : Q) : Nat := x.floor.toNat

/-- The least integer that is not below a rational. -/
def ceilQ (x : Q) : Int := -((-x).floor)

/-- The magnitude. -/
def absQ (x : Q) : Q := if x < 0 then -x else x

/-- The sign: −1, 0 or 1. -/
def sgnQ (x : Q) : Q := if x < 0 then -1 else if x = 0 then 0 else 1

/-- The smaller of two rationals. -/
def minQ (a b : Q) : Q := if b < a then b else a

/-- The larger of two rationals. -/
def maxQ (a b : Q) : Q := if a < b then b else a

/-- `x` limited to `lo` to `hi`. -/
def clampQ (lo hi x : Q) : Q := if x < lo then lo else if hi < x then hi else x

/-- A value stepped toward a target by at most `d`. -/
def stepToward (d x target : Q) : Q := if target < x - d then x - d else if x + d < target then x + d else target

/-- The mean of a list, 0 of an empty one. -/
def meanQ (xs : List Q) : Q := if xs.length = 0 then 0 else xs.foldl (· + ·) 0 / xs.length

/-- The smallest of a list, `d` of an empty one. -/
def minOfQ (d : Q) : List Q → Q
  | [] => d
  | x :: xs => xs.foldl minQ x

/-- The largest of a list, `d` of an empty one. -/
def maxOfQ (d : Q) : List Q → Q
  | [] => d
  | x :: xs => xs.foldl maxQ x

/-- Division; the free `divByZero` where the divisor is 0 (log entry 5). -/
def divQ (a b : Q) : Q := if b = 0 then Config.divByZero a else a / b

/-! ## Roots, angles and exponentials (log entry 3) -/

/-- Integer square root by bits: `r` is the root so far, bit `k` is tried next. -/
def isqrtFrom : Nat → Nat → Nat → Nat
  | 0, _, r => r
  | k + 1, n, r =>
    if (r + 2 ^ k) * (r + 2 ^ k) ≤ n then isqrtFrom k n (r + 2 ^ k) else isqrtFrom k n r

/-- The integer square root. -/
def isqrt (n : Nat) : Nat := isqrtFrom (Nat.log2 n / 2 + 1) n 0

/-! ## Irrational values: central values to better than 2^−48, and the free rounding around them (log entry 3) -/

/-- A central value with the N9's own rounding, which the spec does not give: at most 2^−40 away from it, and free there. -/
def near (k : Nat) (arg c : Q) : Q := c + clampQ (-1) 1 (Config.roundErr k arg) / 2 ^ 40

/-- A rational in units of 2^−64, rounded down. -/
def toFix (x : Q) : Int := (x * 2 ^ 64).floor

/-- A number of 2^−64 units as a rational. -/
def ofFix (n : Int) : Q := (n : Q) / 2 ^ 64

/-- A product in units of 2^−64. -/
def fixMul (a b : Int) : Int := a * b / 2 ^ 64

/-- π in units of 2^−64. -/
def piFix : Int := 57952155664616982739

/-- ln 2 in units of 2^−64. -/
def ln2Fix : Int := 12786308645202655660

/-- The rest of a power series by its terms: each next term is the present one times `x2`, divided by what `den` gives. -/
def seriesFix (x2 : Int) (den : Nat → Int) : Nat → Nat → Int → Int
  | 0, _, _ => 0
  | fuel + 1, k, term => term + seriesFix x2 den fuel (k + 1) (fixMul term x2 / den k)

/-- The sine of an angle in units of 2^−64 rad, between −π and π. -/
def sinFix (x : Int) : Int := seriesFix (-(fixMul x x)) (fun k => ((2 * k + 2) * (2 * k + 3) : Nat)) 22 0 x

/-- The sum of x^(2k+1) / (2k+1), with alternating signs where `neg` says so: arc tangent or its hyperbolic form. -/
def oddSeries (neg : Bool) (x2 : Int) : Nat → Nat → Int → Int
  | 0, _, _ => 0
  | fuel + 1, k, pow => pow / ((2 * k + 1 : Nat) : Int) + oddSeries neg x2 fuel (k + 1) (if neg then -(fixMul pow x2) else fixMul pow x2)

/-- The central value of a square root, rounded down to a multiple of 2^−64 / d. -/
def sqrtC (x : Q) : Q := if x ≤ 0 then 0 else (isqrt (x.num.toNat * x.den * 2 ^ 128) : Q) / (x.den * 2 ^ 64 : Nat)

/-- The central value of a sine in radians. -/
def sinC (x : Q) : Q :=
  let y := toFix x % (2 * piFix)
  ofFix (sinFix (if piFix < y then y - 2 * piFix else y))

/-- The central value of π. -/
def piC : Q := ofFix piFix

/-- The central value of a cosine in radians. -/
def cosC (x : Q) : Q := sinC (x + piC / 2)

/-- The central value of a natural logarithm of a positive argument. -/
def lnC (x : Q) : Q :=
  let k : Int := (Nat.log2 x.num.toNat : Int) - Nat.log2 x.den
  let m := if 0 ≤ k then x / (2 ^ k.toNat : Nat) else x * (2 ^ (-k).toNat : Nat)
  let z := toFix ((m - 1) / (m + 1))
  ofFix (2 * oddSeries false (fixMul z z) 44 0 z + k * ln2Fix)

/-- The central value of an exponential. -/
def expC (x : Q) : Q :=
  let k := (x / ofFix ln2Fix + 1 / 2).floor
  let r := toFix (x - k * ofFix ln2Fix)
  let e := ofFix (seriesFix r (fun k => ((k + 1 : Nat) : Int)) 24 0 (2 ^ 64))
  if 0 ≤ k then e * (2 ^ k.toNat : Nat) else e / (2 ^ (-k).toNat : Nat)

/-- The central value of an arc tangent: two half-angle steps, then the series. -/
def atanC (z : Q) : Q :=
  let half (z : Q) : Q := z / (1 + sqrtC (1 + z * z))
  let y := toFix (half (half z))
  4 * ofFix (oddSeries true (fixMul y y) 40 0 y)

/-- The central value of an arc sine. -/
def asinC (x : Q) : Q := if 1 ≤ x then piC / 2 else if x ≤ -1 then -(piC / 2) else atanC (x / sqrtC (1 - x * x))

/-- The square root: exact where it is rational, else with the free rounding. A negative argument has root 0. -/
def sqrtQ (x : Q) : Q :=
  if x ≤ 0 then 0
  else
    let a := isqrt x.num.toNat
    let b := isqrt x.den
    if a * a = x.num.toNat ∧ b * b = x.den then (a : Q) / b else maxQ 0 (near 1 x (sqrtC x))

/-- Angles wrap at one turn (R8). -/
def angMod : Nat := 2 ^ 32

/-- The angle of an integer number of 360°/2^32 steps. -/
def ang (x : Int) : Nat := (x % (2 ^ 32 : Int)).toNat

/-- The angle read as a signed quantity in −2^31 to 2^31 − 1. -/
def angSigned (x : Nat) : Int := if x % 2 ^ 32 < 2 ^ 31 then (x % 2 ^ 32 : Nat) else ((x % 2 ^ 32 : Nat) : Int) - 2 ^ 32

/-- The sine of an angle in radians: exact at 0, else with the free rounding. -/
def sinRad (x : Q) : Q := if x = 0 then 0 else clampQ (-1) 1 (near 2 x (sinC x))

/-- The cosine of an angle in radians: exact at 0, else with the free rounding. -/
def cosRad (x : Q) : Q := if x = 0 then 1 else clampQ (-1) 1 (near 2 x (cosC x))

/-- The sine of an angle of the R8 format: exact at the quarter turns. -/
def sinA (a : Nat) : Q :=
  let x : Nat := a % 2 ^ 32
  if x = 0 ∨ x = 2 ^ 31 then 0 else if x = 2 ^ 30 then 1 else if x = 3 * 2 ^ 30 then -1 else clampQ (-1) 1 (near 2 x (sinC ((x : Q) * piC / 2 ^ 31)))

/-- The cosine of an angle of the R8 format. -/
def cosA (a : Nat) : Q := sinA (a + 2 ^ 30)

/-- The exponential: exact at 0, else with the free rounding. -/
def expQ (x : Q) : Q := if x = 0 then 1 else maxQ 0 (near 3 x (expC x))

/-- The natural logarithm: exact at 1, else with the free rounding; the spec states no logarithm of an argument that is not above 0, and
there the value is free. -/
def lnQ (x : Q) : Q := if x = 1 then 0 else if x ≤ 0 then Config.roundErr 4 x else near 4 x (lnC x)

/-- π with the free rounding. -/
def piQ : Q := near 6 0 piC

/-- The arc sine: exact at 0, else with the free rounding; beyond ±1 its value is free. -/
def asinQ (x : Q) : Q := if x = 0 then 0 else if 1 < absQ x then Config.roundErr 5 x else near 5 x (asinC x)

/-- An angle in radians as a number of 360°/2^32 steps. -/
def radToAng (x : Q) : Int := if x = 0 then 0 else roundQ (x * 2 ^ 31 / piQ)

/-- A number of 360°/2^32 steps in radians. -/
def angToRad (k : Int) : Q := if k = 0 then 0 else (k : Q) * piQ / 2 ^ 31

/-- `x > 2π × k`, decided by bounds of π; between them the free `choice` decides. -/
def aboveTwoPi (x k : Q) : Bool :=
  if 2 * (314159265359 / 100000000000 : Q) * k < x then true
  else if x ≤ 2 * (314159265358 / 100000000000 : Q) * k then false
  else Config.choice 0

/-- `x < 2π × k`, decided by bounds of π; between them the free `choice` decides. -/
def belowTwoPi (x k : Q) : Bool :=
  if x < 2 * (314159265358 / 100000000000 : Q) * k then true
  else if 2 * (314159265359 / 100000000000 : Q) * k ≤ x then false
  else Config.choice 1

/-- Apply a per-leg function to the previous and the new values, padding with 0. -/
def zipLegs (f : Nat → Nat → Nat) : List Nat → List Nat → List Nat
  | _, [] => []
  | [], e :: es => f 0 e :: zipLegs f [] es
  | p :: ps, e :: es => f p e :: zipLegs f ps es

/-! ## CRCs -/

/-- `n` shifts of a reflected CRC register. Each step is forced before the next. -/
def crcShift (poly : Nat) : Nat → Nat → Nat
  | 0, c => c
  | n + 1, c =>
    match c % 2 with
    | 0 => crcShift poly n (c / 2)
    | _ => crcShift poly n (Nat.xor (c / 2) poly)

/-- The reflected CRC register after a byte list. -/
def crcFold (poly : Nat) : List Byte → Nat → Nat
  | [], c => c
  | b :: rest, c =>
    match crcShift poly 8 (Nat.xor c b.toNat) with
    | 0 => crcFold poly rest 0
    | k + 1 => crcFold poly rest (k + 1)

/-- The CRC-32 of R95: polynomial 0x04C1_1DB7 reflected, start and final inversion 0xFFFF_FFFF. -/
def crc32 (bs : List Byte) : Nat := Nat.xor (crcFold 0xEDB88320 bs 0xFFFFFFFF) 0xFFFFFFFF

/-- CRC-32C (R448, R504): the Castagnoli polynomial 0x1EDC_6F41 reflected, start and final inversion 0xFFFF_FFFF. -/
def crc32c (bs : List Byte) : Nat := Nat.xor (crcFold 0x82F63B78 bs 0xFFFFFFFF) 0xFFFFFFFF

/-! ## Register fields -/

/-- A word packed from fields, most significant first, each a width and a value. -/
def packFields (fs : List (Nat × Nat)) : Nat := fs.foldl (fun acc f => acc * 2 ^ f.1 + f.2 % 2 ^ f.1) 0

/-- One bit of a flag. -/
def bit1 (b : Bool) : Nat × Nat := (1, if b then 1 else 0)

/-- A signed value as a field of `w` bits, limited to its range. -/
def sField (w : Nat) (x : Int) : Nat × Nat :=
  let m : Int := 2 ^ (w - 1)
  let y := if x < -m then -m else if m - 1 < x then m - 1 else x
  (w, (y % (2 ^ w : Int)).toNat)

/-- An unsigned value as a field of `w` bits, stopping at its largest. -/
def uField (w : Nat) (n : Nat) : Nat × Nat := (w, min n (2 ^ w - 1))

/-- A physical value in a signed field of `w` bits with the given LSB. -/
def sScaled (w : Nat) (lsb x : Q) : Nat × Nat := sField w (roundQ (x / lsb))

/-- A physical value in an unsigned field of `w` bits with the given LSB. -/
def uScaled (w : Nat) (lsb x : Q) : Nat × Nat := uField w (roundN (x / lsb))

end Sys2Proof.Machine
end

