-- ==== Sys2Proof/Machine/State.lean ====
section
/-! DEFINITION. The state of the N9 as plain data, and the state at the start of ACCESSION. -/

namespace Sys2Proof.Machine

/-- The reasons a step can stop with a fault. The spec gives every command an effect, so no meaning raises one: every fault of
the spec is a code of the collector (R532), held in `State.faults`. -/
inductive Fault where
  /-- Raised by no meaning; safe. -/
  | none
  deriving DecidableEq, Repr

/-- The reasons a step can be refused. -/
inductive Refusal where
  /-- Raised by an arm of `exec` whose command has no meaning yet; safe. -/
  | notModelled (mnemonic : String)
  deriving DecidableEq, Repr

/-- Meridian (05_meridian_pwm.md). -/
structure Mer where
  /-- The coarse-tick counter (R121). -/
  ct : Nat
  /-- Nanoseconds since step 4 of R69 (R535). -/
  ns : Nat
  /-- The crystal is accepted (R122); the loss latch is `Saf.xtalLatch`. -/
  xtalAcc : Bool
  /-- SENIOR as read at step 4 of R69 (R51). -/
  senior : Bool
  /-- The tap table in use and the shadow table with its N_e, once ready (R123, R125). -/
  taps : List Nat
  shadow : Option (List Nat × Nat)
  /-- R124 limited at least one tap of the shadow table. -/
  shadowLim : Bool
  /-- N_e behind the codes in use, LSB 1/16 element. -/
  ne : Nat
  firstCal : Bool
  missRun : Nat
  /-- The present period's measurement was discarded (R126). -/
  discarded : Bool
  discRun : Nat
  swaps : Nat
  limited : Nat
  /-- Signed error of local fabric time at its last correction, ft. -/
  ftErr : Int
  deriving DecidableEq, Repr


/-- One PWM group (R128 to R140). -/
structure PwmGrp where
  running : Bool
  /-- The first latch since the start has been taken (R139). -/
  latched : Bool
  /-- Carrier period in use, ft. -/
  period : Nat
  /-- A requested period (R135). -/
  reqPeriod : Option Nat
  /-- MODE 0: the half that runs began at a valley. -/
  rising : Bool
  /-- The latched value E of each leg, ft; in MODE 2 the offset of each leg. -/
  e : List Nat
  /-- The values of the half (or period) before the last latch. -/
  ePrev : List Nat
  /-- The values written since the last latch. -/
  next : Option (List Nat)
  /-- MODE 2: the offsets the legs still move to (R137). -/
  target : List Nat
  /-- ANCHOR 2: offset behind group 0; ANCHOR 1: phase error; ft. -/
  phase : Int
  /-- What this period is longer or, negative, shorter than the carrier period (R138, R150), ft. -/
  stretch : Int
  /-- The running half began at the first latch since the start (R139). -/
  first : Bool
  /-- Length of the running half-period, in MODE 1 and 2 of the running period, and of the one before, ft. -/
  span : Nat
  spanPrev : Nat
  runB : Bool
  anchHold : Bool
  anchLock : Bool
  lateLast : Bool
  minp : Nat
  clip : Nat
  /-- High sides whose legs were pre-charged at the last start (R258). -/
  precharged : List Chan
  /-- What is left of that pre-charge, in ticks of 25 ns (R258). -/
  preLeft : Nat
  deriving DecidableEq, Repr

/-- A stopped group. -/
def PwmGrp.reset : PwmGrp :=
  { running := false, latched := false, period := 0, reqPeriod := none, rising := false, e := [], ePrev := [], next := none, target := [], phase := 0, stretch := 0, first := false, span := 0, spanPrev := 0, runB := false, anchHold := false, anchLock := false, lateLast := false, minp := 0, clip := 0, precharged := [], preLeft := 0 }

/-- One traction set of the Orrery (06_orrery_current_control.md). Currents are run-time codes (R8) unless in A. -/
structure OrrSet where
  running : Bool
  /-- The last sample instant's scaled codes of U, V, W, X. -/
  iu : Int
  iv : Int
  iw : Int
  ix : Int
  /-- Offsets in use. -/
  ofsU : Int
  ofsV : Int
  ofsW : Int
  ofsX : Int
  /-- Sample instants the start trim still takes, and the sums of its samples (R160). -/
  trimLeft : Nat
  sumU : Int
  sumV : Int
  sumW : Int
  sumX : Int
  trimStart : Bool
  /-- Consecutive samples above SUM_LIM (R159). -/
  sumRun : Nat
  sumErr : Nat
  trims : Nat
  deriving DecidableEq, Repr

/-- The committed control state of a set (R163 step 10). -/
structure OrrCtl where
  xd : Q
  xq : Q
  xfw : Q
  tcomp : Q
  w0 : Q
  w1 : Q
  w2 : Q
  /-- Low-passes of R177 for x_d, x_q, s_d, s_q. -/
  lpXd : Q
  lpXq : Q
  lpSd : Q
  lpSq : Q
  band : Nat
  /-- No update since the start: the band is chosen without hysteresis (R170). -/
  fresh : Bool
  vdc : Q
  staleRun : Nat
  deriving DecidableEq, Repr

/-- What the last committed update of a set reports (R163 to R177). -/
structure OrrView where
  id : Q
  iq : Q
  idRef : Q
  iqRef : Q
  vd : Q
  vq : Q
  mCmd : Q
  m : Q
  ovm : Nat
  fwAct : Bool
  ilimAct : Bool
  tclip : Bool
  wclip : Bool
  learn : Bool
  theta : Nat
  we : Q
  lateLast : Bool
  lateRun : Nat
  lateTotal : Nat
  deriving DecidableEq, Repr

/-- The targets and limit Io writes for a set (R17, R18, R172, R173). -/
structure OrrTgt where
  /-- The target is a current target (TGT = 1). -/
  current : Bool
  torque : Q
  id : Q
  iq : Q
  /-- The current limit Io writes, A; none before it writes one. -/
  limit : Option Q
  deriving DecidableEq, Repr

/-- Torque management on Io and the DC-link paths (07_torque_management.md). -/
structure Tm where
  /-- LIM_A and LIM_B of R191. -/
  limA : Nat
  limB : Nat
  /-- T_ax, ΔT and HOLD of the last valid request (R185). -/
  tAx : Q
  dT : Q
  hold : Bool
  /-- The request is within its timeout. -/
  reqValid : Bool
  /-- A request stream that was valid has timed out, for so many task periods (R192). -/
  lostMs : Option Nat
  idleA : Bool
  idleB : Bool
  /-- Targets applied in the last task period, N·m. -/
  tA : Q
  tB : Q
  /-- A start of the set has been requested and its group has not started yet (R193, R206). -/
  startA : Bool
  startB : Bool
  /-- The service routine that runs: identifier and set (R194). -/
  svc : Option (Nat × TSet)
  /-- Consecutive missed Io task periods (R27). -/
  missRun : Nat
  /-- P_DIS and P_CHG of the vehicle's limit message while it is valid (R190). -/
  pLim : Option (Q × Q)
  deriving DecidableEq, Repr

/-- The DC-link samples and the brake chopper (R196 to R198). -/
structure DcLink where
  dclT : Q
  dclC : Q
  /-- A sense die's samples are stale (R22). -/
  stale1 : Bool
  stale2 : Bool
  bcActive : Bool
  bcStop : Bool
  /-- E / P at the last latch. -/
  bcDuty : Q
  /-- Resistor energy, J. -/
  bcEnergy : Q
  deriving DecidableEq, Repr

/-- The traction safe state of a set (R200 to R206). -/
structure SafeSet where
  /-- 0 not in safe state, 1 freewheel, 2 low-side ASC, 3 high-side ASC. -/
  st : Nat
  /-- A selection window runs. -/
  window : Bool
  /-- The window is a trial's. -/
  trial : Bool
  /-- E_ll at the last choice. -/
  ell : Q
  deriving DecidableEq, Repr

/-- What every position interface reports (08_position_speed.md). -/
structure PosSt where
  valid : Bool
  still : Bool
  neg : Bool
  idxSeen : Bool
  aid : Bool
  /-- An encoder has lost VALID since its last index event: its Hall aid does not make it VALID (R212). -/
  bad : Bool
  idxLvl : Bool
  code : Nat
  /-- θ_e at the last update or edge (R8 format). -/
  angle : Nat
  /-- ω_e, rad/s. -/
  speed : Q
  count : Int
  idx : Int
  idxNum : Nat
  drift : Int
  errTotal : Nat
  /-- Fine-tick times of the errors in the present window, newest first. -/
  errTimes : List Nat
  deriving DecidableEq, Repr

/-- The edge timing of an ABZ or Hall interface (R225 to R237). -/
structure EdgeSt where
  a : Bool
  b : Bool
  z : Bool
  /-- The direction of the last edge; 0 after standstill. -/
  dir : Int
  /-- Times of the timed edges since the last restart, newest first, at most seven, and the Hall steps crossed. -/
  times : List Nat
  steps : List Nat
  /-- n of R235. -/
  n : Nat
  /-- Mean edge period of the last measurement, s. -/
  mean : Q
  cref : Option Int
  /-- The last valid Hall code. -/
  lastCode : Nat
  /-- The angle is the middle of the sector: after a skip or the first code (R232, R233). -/
  mid : Bool
  deriving DecidableEq, Repr

/-- A resolver's converters, corrections, tracking loop and calibration (R213 to R220). -/
structure ResSt where
  th : Nat
  w : Q
  s0 : Q
  c0 : Q
  s90 : Q
  c90 : Q
  s180 : Q
  c180 : Q
  s270 : Q
  c270 : Q
  os : Q
  oc : Q
  k : Q
  phi : Q
  sdly : Nat
  amp : Q
  ampRun : Nat
  trkRun : Nat
  /-- Updates in a row that meet the VALID row of R212. -/
  good : Nat
  /-- The coarse tick at which the excitation started (R213). -/
  exc : Nat
  deriving DecidableEq, Repr

/-- The accumulation of one calibration turn (R218). -/
structure CalTurn where
  n : Nat
  travel : Int
  w0 : Q
  sumS : Q
  sumC : Q
  sumSS : Q
  sumCC : Q
  sumS1 : Q
  sumS1C : Q
  deriving DecidableEq, Repr

/-- An empty accumulation. -/
def CalTurn.empty : CalTurn := { n := 0, travel := 0, w0 := 0, sumS := 0, sumC := 0, sumSS := 0, sumCC := 0, sumS1 := 0, sumS1C := 0 }

/-- A SENT receiver (R221 to R224): accepted frames newest first, at most four, as fine-tick time and electrical angle. -/
structure SentSt where
  frames : List (Nat × Nat)
  prevCal : Option Q
  /-- The next frame is the first after a start or a rejection. -/
  first : Bool
  accRun : Nat
  /-- The sensor angle of the last accepted frame, before scaling, DIR and ANGLE_OFS (R223, R238). -/
  raw : Nat
  deriving DecidableEq, Repr

/-- An encoder emulation (R238 to R240): `want` counts the steps due, `out` the steps emitted, `shown` the count that A and B have shown since
the source was last VALID. -/
structure EmSt where
  started : Bool
  acc : Int
  want : Int
  out : Int
  shown : Int
  sync : Bool
  deriving DecidableEq, Repr

/-- What a gate output does (GD_Cn_STATUS.STATE, R243 to R255). -/
inductive OutSt where
  | off | on | soft
  deriving DecidableEq, Repr

/-- One gate channel (09_gate_drive.md). -/
structure GdChan where
  /-- The last edge command is on. -/
  cmd : Bool
  out : OutSt
  /-- The output went off against its command: only a new turn-on edge turns it on (R20). -/
  needEdge : Bool
  /-- The link from the primary is valid at the secondary (R21). -/
  linkOk : Bool
  hsOk : Bool
  clamp : Bool
  bstUv : Bool
  veeOv : Bool
  veeUv : Bool
  vccOv : Bool
  vccUv : Bool
  bstOff : Bool
  link : Bool
  rb : Bool
  gc : Bool
  desat : Bool
  /-- Rail readings, volts (GD_Cn_RAILS). -/
  hi : Q
  lo : Q
  shorts : Nat
  race : Nat
  refresh : Nat
  last : Nat
  qgc : Nat
  /-- The currents the driver applies in turn: milliamperes and nanoseconds, 0 ns for "to the rail" (R247, R248). -/
  drive : List (Nat × Nat)
  /-- The switch's energy accumulator, J, and the time of its turn-on, ns (R353). -/
  acc : Q
  since : Nat
  /-- How long a soft turn-off runs, in ticks (R248). -/
  softT : Nat
  /-- A bootstrapped high side's leg is in a refresh: the time since it began, ft (R259). -/
  refr : Option Nat
  /-- A bootstrapped high side's leg is held off on both sides: the time left, ft (R261). -/
  hold : Nat
  deriving DecidableEq, Repr

/-- A channel at reset: off, link valid, nothing latched. -/
def GdChan.reset : GdChan :=
  { cmd := false, out := .off, needEdge := false, linkOk := true, hsOk := false, clamp := false, bstUv := false, veeOv := false, veeUv := false, vccOv := false, vccUv := false, bstOff := false, link := false, rb := false, gc := false, desat := false, hi := 0, lo := 0, shorts := 0, race := 0, refresh := 0, last := 0, qgc := 0, drive := [], acc := 0, since := 0, softT := 0, refr := none, hold := 0 }

/-- A stage's protection and diagnostics. -/
structure StageSt where
  /-- The channel whose short opened the 1 µs watch window, while it is open (R256). -/
  watch : Option Chan
  /-- GD_OSD result: 0 not run, 1 passed, 2 failed, 3 pending or not tested. -/
  osd : Nat
  /-- The test current of the stage's last off-state diagnosis, µA (R244, R262). -/
  testUa : Nat
  deriving DecidableEq, Repr

/-- Gate drive (09_gate_drive.md). -/
structure Gd where
  ch : Tab Chan GdChan
  st : Tab Stage StageSt
  /-- GD_PT_S0 and GD_PT_S1 as fractions of I_FS. -/
  quietA : Q
  pulseA : Q
  quietB : Q
  pulseB : Q
  /-- A handshake was judged as failed for these channels (R70). -/
  hsFailed : List Chan
  deriving DecidableEq, Repr

/-- Grid sensing (R270, R271). -/
structure Grid where
  theta : Nat
  w : Q
  lock : Bool
  ok : Bool
  /-- Seconds that the conditions of PLL_LOCK and GRID_OK have held, and that the error has been above 10°. -/
  lockT : Q
  okT : Q
  errT : Q
  /-- Consecutive line cycles out of the window. -/
  badCycles : Nat
  rms1 : Q
  rms2 : Q
  rms3 : Q
  /-- Sums of squares and the samples of the present line cycle. -/
  n : Nat
  q1 : Q
  q2 : Q
  q3 : Q
  /-- Single-phase: the last α samples of voltage and current and of v_bus, newest first. -/
  histV : List Q
  histI : List Q
  histB : List Q
  deriving DecidableEq, Repr

/-- The PFC stage (R272 to R275, R286). -/
structure Pfc where
  /-- STATE_PFC but for "absent". -/
  st : Nat
  /-- 0 forward, 1 reverse. -/
  dir : Nat
  busOk : Bool
  /-- V_bus*. -/
  busRef : Q
  xv : Q
  xd : Q
  xq : Q
  xvd : Q
  xvq : Q
  id : Q
  iq : Q
  vd : Q
  ilim : Bool
  /-- The reverse ramp of v_d*. -/
  vdRef : Q
  /-- The reverse output is ready, which the stage reports to Europa (R284). -/
  outReady : Bool
  /-- Leg 3 of single-phase operation holds its high side on. -/
  leg3 : Bool
  /-- The mean phase RMS at step 1 of a forward start, and v_bus at the start of the bus ramp (R282). -/
  vStart : Q
  ramp0 : Q
  stale : Nat
  lateTotal : Nat
  lateRun : Nat
  /-- The precharge and main relays: commanded and confirmed closed (R282). -/
  preCmd : Bool
  mainCmd : Bool
  /-- The latest inductor currents i_1, i_2, i_3, A. -/
  ia : Q
  ib : Q
  ic : Q
  pre : Bool
  main : Bool
  deriving DecidableEq, Repr

/-- The DAB stage (R276 to R279, R285, R288). -/
structure Dab where
  /-- STATE_DAB but for "absent". -/
  st : Nat
  vbus : Q
  ibat : Q
  /-- The latest sinc2 value of i_tank, A. -/
  tank : Q
  xvb : Q
  xc : Q
  delta : Q
  phi : Int
  dp : Nat
  ds : Nat
  sag : Bool
  iCmd : Q
  /-- V_dc,max and i_bat of the last 17 updates since the DAB started, newest first. -/
  win : List (Q × Q)
  loss : Q
  /-- Seconds of i_bat below −I_REV_MAX. -/
  revT : Q
  /-- V_dc,max × i_bat of the latest committed update (R272). -/
  pBat : Q
  /-- A stop on request runs: i_cmd falls by so many amperes a second (R281). -/
  stopRamp : Option Q
  lateTotal : Nat
  lateRun : Nat
  deriving DecidableEq, Repr

/-- The targets and limits Europa writes to the charger (R17, R18, R334). -/
structure ObcTgt where
  /-- AC current limit, A peak; none before it writes one. -/
  iAc : Option Q
  reactive : Q
  iBat : Q
  /-- Rise of i_cmd, A/s. -/
  rate : Q
  vBat : Q
  /-- Battery discharge current limit in reverse. -/
  iDis : Option Q
  deriving DecidableEq, Repr

/-- The device modes of R32. -/
inductive Mode where
  | off | ship | accession | ready | convert | drive | charge | safe
  deriving DecidableEq, Repr

/-- The mode code of R32. -/
def Mode.code : Mode → Nat
  | .off => 0
  | .ship => 1
  | .accession => 2
  | .ready => 3
  | .convert => 4
  | .drive => 5
  | .charge => 6
  | .safe => 7

/-- The SYS block (22_status_faults_log.md, R32 to R36, R530 to R532). -/
structure Sys where
  mode : Mode
  prev : Mode
  /-- Level driven on READY. -/
  readyPin : Bool
  /-- FAULT_N asserted low. -/
  faultPin : Bool
  /-- WAKE level (R78). -/
  wake : Bool
  ackCnt : Nat
  version : Nat
  /-- SAFE was entered from ACCESSION, so READY is not available (R33). -/
  safeFromAcc : Bool
  /-- A cause has been cleared since the last request of READY in SAFE (R33). -/
  readyReqFresh : Bool
  /-- A precondition loss in DRIVE waits for standstill (R36). -/
  waitStill : Bool
  /-- The DC link counts as inside its window (R37). -/
  dcInside : Bool
  deriving DecidableEq, Repr


/-- One LV feed (R59 to R62). -/
structure FeedSt where
  present : Bool
  lost : Bool
  ov : Bool
  mosfet : Bool
  volts : Q
  deriving DecidableEq, Repr

/-- The SVC button in the KA domain (R76, R77). -/
structure SvcSt where
  /-- Released for 1 s since the last reset or stuck declaration: a press counts. -/
  armed : Bool
  stuck : Bool
  /-- The present press reached 8 s and was refused. -/
  refused : Bool
  /-- The present press has made its 8 s request. -/
  asked : Bool
  /-- The pin's level is low, as its last event or the last mode evaluation read it (R76, R80). -/
  low : Bool
  deriving DecidableEq, Repr

/-- The steps of ship entry (R80) and of a wake (R83). -/
inductive ShipSt where
  /-- No ship entry. -/
  | none
  /-- Step 2: waiting program operations are written. -/
  | writes
  /-- Step 3: the entry record is written. -/
  | record
  /-- Step 5: LVD is low and the feeds fall. -/
  | falling
  /-- Step 7: mode SHIP. -/
  | ship
  /-- A wake drove LVD high; a feed is awaited. -/
  | waking
  deriving DecidableEq, Repr

/-- Bits 12 to 0 of SYS_START_CAUSE (R92). -/
structure StartCause where
  wkFeed : Bool
  wkAc : Bool
  wkCp : Bool
  wkWake : Bool
  wkSvc : Bool
  rail : Bool
  fabric : Bool
  uds : Bool
  svcRst : Bool
  nrst : Bool
  power : Bool
  deriving DecidableEq, Repr

/-- No start cause. -/
def StartCause.none : StartCause :=
  { wkFeed := false, wkAc := false, wkCp := false, wkWake := false, wkSvc := false, rail := false, fabric := false, uds := false, svcRst := false, nrst := false, power := false }

/-- Supply, start-up and ship mode (03_supply_startup.md). -/
structure Supply where
  feedA : FeedSt
  feedB : FeedSt
  /-- HOLD as last measured, volts. -/
  hold : Q
  /-- HOLD_MV of SYS_SUPPLY. -/
  holdMv : Nat
  /-- Hold-up state of R90. -/
  holdup : Bool
  biasA : Bool
  biasB : Bool
  /-- The bank stopped by R68 until the next ACCESSION. -/
  biasStopA : Bool
  biasStopB : Bool
  /-- The switch of a bank whose present on-time R68 has ended. -/
  biasCut : List (Bank × Fin 2)
  /-- Rails outside their monitor window (R64). -/
  railsOut : List Rail
  /-- The last completed step of R69. -/
  step : Nat
  /-- nRST is high. -/
  nRst : Bool
  svc : SvcSt
  acPresent : Bool
  lvd : Bool
  ship : ShipSt
  /-- The feed-rise wake is armed (R80 step 8). -/
  riseArmed : Bool
  /-- Wake sources that qualified in SHIP (R82). -/
  wakes : StartCause
  cause : StartCause
  lostWrites : Nat
  /-- The interfaces CAN, Ethernet, modem and fabric run (R89, R49). -/
  ifaces : Bool
  deriving DecidableEq, Repr


/-- The KA retention register (R557). -/
structure Retained where
  /-- A state is retained (false at the first application of KA, R79). -/
  valid : Bool
  lostWrites : Nat
  unlockFails : Nat
  /-- The 10 s delay of R523 runs. -/
  unlockDelay : Bool
  /-- The record of a failed lockstep start-up check (R413). -/
  startFail : Option StartCheck
  deriving DecidableEq, Repr


/-- An active fault of the collector (R532, R534, R537). -/
structure ActiveFault where
  code : Nat
  inst : Nat
  cls : Nat
  raises : Nat
  /-- Raises suppressed since the last record of the pair. -/
  suppressed : Nat
  deriving DecidableEq, Repr


/-- The content of a Provenance record before its CRC (R535, R536). -/
structure LogRec where
  time : Nat
  code : Nat
  cls : Nat
  clear : Bool
  block : Nat
  inst : Nat
  mode : Nat
  life : Nat
  reg : Nat
  meas : Nat
  suppressed : Nat
  deriving DecidableEq, Repr

/-- A record slot of a log block: a good record or one whose CRC fails. -/
inductive LogSlot where
  | good (r : LogRec)
  | bad
  deriving DecidableEq, Repr

/-- A log block in flash (R538). -/
structure LogBlk where
  magicOk : Bool
  seq : Nat
  boot : Nat
  slots : List LogSlot
  /-- Its CRC is programmed. -/
  closed : Bool
  deriving DecidableEq, Repr

/-- The log region of the flash: written blocks by physical number; an unlisted block is erased. -/
structure LogFlash where
  blocks : List (Nat × LogBlk)
  /-- Blocks whose erase or program failed its verify (R540). -/
  retired : List Nat
  deriving DecidableEq, Repr

/-- The log's own state (R538 to R542). -/
structure LogSt where
  ready : Bool
  wrapped : Bool
  badSlots : Nat
  accepted : Nat
  boot : Nat
  dropped : Nat
  suppressed : Nat
  /-- Blocks of the region (B of R538). -/
  region : Nat
  /-- SEQ of the open block. -/
  openSeq : Nat
  /-- The next free slot of the open block. -/
  nextSlot : Nat
  /-- SEQ of the oldest block held. -/
  oldestSeq : Nat
  /-- The following block is erased. -/
  nextErased : Bool
  /-- Records of the store of 64 places, oldest first (R87). -/
  store : List LogRec
  /-- The 64 newest records, newest first (R541). -/
  window : List LogRec
  /-- Suppressed raises of a pair that is not active now, for its next record. -/
  suppPairs : List (Nat × Nat × Nat)
  deriving DecidableEq, Repr


/-- A 4 KiB block of a slot region: its data bytes before a tail of 0xFF, and whether its CRC word fits (R95). -/
structure FlashBlk where
  data : List Byte
  crcGood : Bool
  deriving DecidableEq, Repr

/-- A boot descriptor copy that passes its CRC (R96). -/
structure BootDesc where
  gen : Nat
  pref : Slot
  stA : Nat
  stB : Nat
  deriving DecidableEq, Repr

/-- The external flash (R94, R95). An unlisted block is erased and fails its CRC. -/
structure Flash where
  boot0 : Option BootDesc
  boot1 : Option BootDesc
  fwA : List (Nat × FlashBlk)
  catA : List (Nat × FlashBlk)
  fwB : List (Nat × FlashBlk)
  catB : List (Nat × FlashBlk)
  logR : LogFlash
  deriving DecidableEq, Repr


/-- The operation that runs, and the others that wait outside the record store (R87, R88). -/
structure Ops where
  waiting : List FlashOp
  running : Option FlashOp
  /-- The one that runs was started before the last reset: nothing follows it (R73). -/
  orphan : Bool
  deriving DecidableEq, Repr


/-- A loaded Catalogue record (R100). -/
structure Rec where
  ty : Nat
  inst : Nat
  data : List Byte
  deriving DecidableEq, Repr

/-- Who owns the staging session (R113, SEC_STAGE). -/
inductive StageSrc where
  | none
  | uds (p : UPath)
  | fabric (node : Nat)
  deriving DecidableEq, Repr

/-- The staging session (R113 to R116). -/
structure Staging where
  src : StageSrc
  /-- 0 none, 1 firmware, 2 Catalogue. -/
  region : Nat
  /-- The next block of the open transfer. -/
  next : Nat
  /-- Blocks the transfer still takes. -/
  left : Nat
  /-- The block being written: its number and its 4,092 data bytes. -/
  block : Option (Nat × List Byte)
  /-- The next TransferData sequence counter. -/
  seq : Nat
  /-- The first data block of the session has set the slot to STAGING. -/
  marked : Bool
  /-- The region that was open last, which SEC_STAGE still reports after an abort (R116). -/
  last : Nat
  deriving DecidableEq, Repr

/-- Catalogue and Accession (04_catalogue_accession.md). -/
structure Cat where
  result : Nat
  causeA : Nat
  causeB : Nat
  slotRun : Slot
  locked : Bool
  failBlock : Nat
  recValid : Bool
  regionCat : Bool
  failRecord : Nat
  arb : Nat
  oemKey : Nat
  records : Nat
  buildLo : Nat
  buildHi : Nat
  /-- The parameter store: the loaded records (R110). -/
  params : List Rec
  /-- CRC-32 of the loaded copy of each record, in the order of `params` (R111). -/
  crcs : List Nat
  /-- The map store: bytes above 0x5100_0000, canonical; unlisted reads 0 (R183). -/
  map : List Host.Cell
  /-- The newest valid boot descriptor as the N9 holds it. -/
  desc : Option BootDesc
  /-- The descriptor content that waits to be written and where (R97). -/
  descDue : Option (Fin 2 × BootDesc)
  /-- The content of the write after that one: changes that came once its fields page had started (R118). -/
  descNext : Option BootDesc
  stage : Staging
  /-- The firmware facts of the running slot. -/
  fwArb : Nat
  /-- The recovery settings of R109 are in force. -/
  recovery : Bool
  /-- The firmware code region is locked, from step 4 of R106 on (R406). -/
  codeLocked : Bool
  /-- The flash interface has switched from 1S-1S-1S to 8D-8D-8D (R94). -/
  xspi8d : Bool
  deriving DecidableEq, Repr

/-- The LV converter: DCX and buck (11_lv_converter.md). Voltages in V, currents in A, times in s. -/
structure Lvc where
  /-- STATE_DCX and STATE_BUCK but for "absent". -/
  dcx : Nat
  buck : Nat
  /-- A start under R293 is due. -/
  due : Bool
  /-- Stopped for an F3 fault of its own (R293). -/
  f3Stop : Bool
  retries : Nat
  senseLost : Bool
  fbLocal : Bool
  fold : Bool
  ilim : Bool
  ovHold : Bool
  srOn : Bool
  /-- Active phases, ascending (R301). -/
  act : List (Fin 6)
  /-- Phases whose low side R306 holds on. -/
  held : List (Fin 6)
  /-- By how much that hold has delayed a phase's turn-on of the running period, ft (R306). -/
  delay : Tab (Fin 6) Int
  /-- Phases that wait for their next slot after an all-phase response or an overvoltage hold (R312 to R314). -/
  waiting : List (Fin 6)
  /-- Where the triangle of the spread spectrum stands, as a part of its period (R301). -/
  ssPhase : Q
  /-- DX_L has the next half-period of the DCX (R298). -/
  dxLow : Bool
  /-- The phases in whose order the slots of the running period lie, and the stretch of that period as a part of T (R301). -/
  slots : List (Fin 6)
  slotD : Q
  /-- The buck period T in use, s (R301). -/
  tPer : Q
  /-- The last all-phase response: 0 none since the start, 1 an undershoot's runs, 2 a release's runs, 3 it has ended (R312, R313). -/
  resp : Nat
  /-- LVC_CMD as last written: SLEW and VSET; none before the first write. -/
  cmd : Option (Nat × Nat)
  vref : Q
  /-- V per µs of a soft start (R307). -/
  ssRate : Q
  rs : Q
  ls : Q
  v48 : Q
  freq : Q
  iFold : Q
  ph : Tab (Fin 6) Q
  ton : Tab (Fin 6) Q
  xv : Q
  xi : Q
  /-- The output current limit Europa writes (R305); none before it writes one. -/
  limit : Option Q
  allph : Nat
  release : Nat
  ovh : Nat
  hiccups : Nat
  deriving DecidableEq, Repr

/-- Charging services (12_charging_services.md). -/
structure Chg where
  /-- PHASE of R335, ROLE, PATH. -/
  phase : Nat
  role : Nat
  path : Nat
  /-- The accepted pilot state and its levels, V; the frequency, Hz; the accepted duty, %. -/
  cp : Nat
  hi : Q
  lo : Q
  freq : Q
  duty : Option Q
  pp : Nat
  s2 : Bool
  /-- The supply pilot: 0 not driven, 1 static +12 V, 2 oscillating; and its duty, LSB 0.1 %. -/
  pilot : Nat
  pilotDuty : Nat
  /-- The role relay: commanded and confirmed. -/
  roleCmd : Bool
  roleOk : Bool
  throt : Bool
  lvChg : Bool
  lvLost : Bool
  cause : Nat
  /-- Every cause that held at the end (R338). -/
  causes : List Nat
  restarts : Nat
  /-- The fault a restart waits for (R344, R345). -/
  restartFor : Option Nat
  iAc : Q
  iReq : Q
  lTh : Q
  iCc : Q
  /-- Milliseconds of R339, effective and real. -/
  timer : Nat
  real : Nat
  pulses : Nat
  below : Nat
  iEnd : Q
  pulsing : Bool
  /-- Milliseconds that the end check of R336 has held. -/
  endMs : Nat
  /-- The request or the connection has had its session (R326). -/
  used : Bool
  /-- ISO 15118-20: messages done, supply limit, PowerDelivery start accepted, discharge target, setup failed. -/
  isoStep : Nat
  isoMax : Option Q
  isoStart : Bool
  isoStop : Bool
  isoTarget : Q
  hlcFailed : Bool
  /-- The pulses have met an end of R337, which the next evaluation judges (R338). -/
  pulseEnd : Bool
  deriving DecidableEq, Repr

/-- One switch of the Conservator (R353 to R358). -/
structure SwTh where
  /-- The energy that the last step read from the accumulator, J (R354). -/
  e : Q
  d1 : Q
  d2 : Q
  d3 : Q
  d4 : Q
  tj : Q
  p : Q
  f : Q
  warn : Bool
  throt : Bool
  cut : Bool
  /-- Runs of steps at or above, and 5 K below, each threshold (WARN, THROT, CUT). -/
  hiW : Nat
  loW : Nat
  hiT : Nat
  loT : Nat
  hiC : Nat
  loC : Nat
  deriving DecidableEq, Repr

/-- A switch's anchor (R356). -/
structure Anchor where
  /-- T_a; none before the first valid reading. -/
  ta : Option Q
  dn : Q
  /-- Rounds in a row with an invalid reading. -/
  bad : Nat
  /-- T_a is held, 10 K up, since the last valid reading. -/
  held : Bool
  deriving DecidableEq, Repr

/-- A housekeeping slot (R349, R351). -/
structure HkSlot where
  a : Q
  b : Q
  stale : Bool
  run : Nat
  deriving DecidableEq, Repr

/-- The Conservator (13_thermal.md). -/
structure Thm where
  rounds : Nat
  missed : Nat
  slots : Tab (Fin 96) HkSlot
  sw : Tab Chan SwTh
  /-- The anchor of each switch. -/
  anchors : Tab Chan Anchor
  /-- The last round failed its reference check, which has counted every slot as stale (R350, R351). -/
  counted : Bool
  /-- Published limits of consumers 0 to 7; none before the first step. -/
  limits : Tab (Fin 8) (Option Q)
  /-- The limits of the last complete round. -/
  lastFull : Tab (Fin 8) (Option Q)
  /-- Runs of rounds of R359 above and 5 K below the level: secondary dies, TSN, primary die sensors. -/
  dieHi : Tab (Fin 29) Nat
  dieLo : Tab (Fin 29) Nat
  tsnHi : Tab (Fin 29) Nat
  tsnLo : Tab (Fin 29) Nat
  priHi : Tab (Fin 8) Nat
  priLo : Tab (Fin 8) Nat
  deriving DecidableEq, Repr

/-- What an actuator does now (ACT_Aa_STATUS.STATE). -/
inductive ActPhase where
  | idle | diag | moving | braking | awaiting | backing | stopped
  deriving DecidableEq, Repr

/-- Why the bridge brakes (R369, R372, R375). -/
inductive BrakeWhy where
  | reached | stall | supersede | hall
  /-- The last stall, or one before the index in a referencing stroke: the bridge stops with the fault's code (R368, R372). -/
  | giveUp (code : Nat)
  deriving DecidableEq, Repr

/-- The legs of a bridge in the running period (R363, R369): all off, one driven high against one held low, or all low sides on. -/
inductive Commutation where
  | off | drive (hi lo : Nat) | brake
  deriving DecidableEq, Repr

/-- One gearbox actuator (14_actuators.md). -/
structure ActSt where
  phase : ActPhase
  why : BrakeWhy
  /-- The commutation latched at the period start. -/
  comm : Commutation
  /-- C_ref once REF is set (R367). -/
  ref : Option Int
  neg : Bool
  /-- The direction of the move to the target, which a back-off reverses (R372). -/
  fwd : Bool
  /-- Nanoseconds of `Mer.ns` when the outputs turned off after the move (R373). -/
  offNs : Nat
  /-- SEQ: park 1 engage, 2 release; shift 1 gear 1, 2 N, 3 gear 2. -/
  seq : Nat
  /-- The target of the present stroke relative to C_ref, and whether it is the shift's second stroke. -/
  target : Int
  second : Bool
  /-- The stroke has crossed the index (R368). -/
  crossed : Bool
  ilim : Bool
  retries : Nat
  d : Q
  dTgt : Q
  iAct : Q
  iLimUse : Q
  /-- R366: the present period was cut; consecutive cut periods. -/
  cut : Bool
  peakRun : Nat
  /-- COUNT at the start of a back-off (R372). -/
  backAt : Int
  /-- A park sequence has completed: SI3 is watched for this position, 1 released, 2 engaged (R373). -/
  held : Nat
  /-- The bridge supply V_S as the housekeeping round read it. -/
  vs : Q
  /-- Nanoseconds of `Mer.ns` at the request. -/
  reqNs : Nat
  peak : Nat
  stalls : Nat
  aborts : Nat
  seqs : Nat
  lastMs : Nat
  deriving DecidableEq, Repr

/-- One channel of a safety input as a unit sees it (R385, R389). -/
structure SiLevel where
  /-- The filter has accepted a level since evaluation began. -/
  accepted : Bool
  /-- Filtered in demand; provisional demand before the first acceptance. -/
  demand : Bool
  deriving DecidableEq, Repr

/-- A safety input (R386 to R390). -/
structure SiSt where
  a : SiLevel
  b : SiLevel
  /-- The input is in demand and has been counted so (R386, R389). -/
  inDemand : Bool
  disc : Bool
  /-- The coarse tick of the edge that opened the present disagreement (R387). -/
  openAt : Option Nat
  /-- Both channels have been in demand together and the clearing sequence runs (R388, R390). -/
  both : Bool
  /-- The coarse tick of the first release of the sequence. -/
  firstRel : Option Nat
  testDone : Bool
  demands : Nat
  discs : Nat
  /-- MAX_DISC, LSB 0.1 ms. -/
  maxDisc : Nat
  /-- Callisto's filtered demand of each channel (R380). -/
  callA : Bool
  callB : Bool
  /-- Samples in a row that differ from Callisto's level of each channel (R380). -/
  runA : Nat
  runB : Nat
  deriving DecidableEq, Repr

/-- A safety input before evaluation. -/
def SiSt.reset : SiSt :=
  { a := { accepted := false, demand := false }, b := { accepted := false, demand := false }, inDemand := false, disc := false, openAt := none, both := false, firstRel := none, testDone := false, demands := 0, discs := 0, maxDisc := 0, callA := false, callB := false, runA := 0, runB := 0 }

/-- Custodian's own configuration registers, loaded in step 8 and locked with the stores (R379, R397). -/
structure Custodian where
  /-- The record of each safety input. -/
  si : Tab SiN (List Byte)
  /-- The safety global record. -/
  safety : List Byte
  /-- V_OV_ASC, V_OV_HYS and T_SEL of torque management. -/
  ov : List Byte
  deriving DecidableEq, Repr

/-- The safety controller (15_safety.md). The permits themselves are functions of these causes (R381, R383). -/
structure Saf where
  /-- The inputs are evaluated (from the end of step 8 of R106, R389). -/
  evaluating : Bool
  /-- Callisto's safe-state request (R394). -/
  safeReq : Bool
  /-- Crystal loss latched (R122). -/
  xtalLatch : Bool
  /-- Callisto watch expired, latched (R28). -/
  watchLatch : Bool
  /-- ASC held under R199. -/
  ovHold : Bool
  ptestOk : Bool
  /-- Both permits held off by a reset, a rail, lost feeds or Accession (R64, R73, R89, R384). -/
  held : Bool
  /-- Causes of the LV permit pair (R294), Custodian and Callisto. -/
  lvC : Bool
  lvP : Bool
  /-- The level read back on SO_A, SO_B differs from the driven one. -/
  soDiffA : Bool
  soDiffB : Bool
  cycles : Nat
  overruns : Nat
  /-- The last Callisto cycle overran. -/
  lastOverrun : Bool
  /-- Callisto runs (its pair is not halted). -/
  si : Tab SiN SiSt
  /-- HSO outputs commanded on by their owners (relays and others). -/
  hso : Tab (Fin 6) Bool
  /-- Custodian's configuration registers (R397). -/
  cust : Custodian
  deriving DecidableEq, Repr

/-- One lockstep pair (16_lockstep_memory.md). -/
structure PairSt where
  /-- STATE: 0 not started, 1 running, 2 halted by mismatch, 3 restarting, 4 halted for debug. -/
  st : Nat
  mismatches : Nat
  restarts : Nat
  kind : Nat
  exports : Nat
  lastWord : Nat
  time : Nat
  /-- An export instant fell in a debug halt (R407). -/
  exportDue : Bool
  /-- Register writes waiting for the checker: register and value (R418). -/
  replay : List (Nat × Nat)
  /-- The architectural state of the main copy and of the checker, word by word, as of the halt for debug (R407, R418). -/
  regs : List (BitVec 64)
  chkRegs : List (BitVec 64)
  /-- What the main copy drives on the bus, and the two stages of it on the way to the comparator (R403). -/
  bus : Bound
  out1 : Bound
  out2 : Bound
  /-- The two stages of read data and interrupt requests on the way to the checker (R403). -/
  in1 : BusIn
  in2 : BusIn
  deriving DecidableEq, Repr

/-- A pair before Accession starts it. -/
def PairSt.reset : PairSt := { st := 0, mismatches := 0, restarts := 0, kind := 0, exports := 0, lastWord := 0xFFFF, time := 0, exportDue := false, replay := [], regs := [], chkRegs := [], bus := .idle, out1 := .idle, out2 := .idle, in1 := .idle, in2 := .idle }

/-- The lockstep pairs and the check bits of the shared memories (R402 to R421). -/
structure Lks where
  startOk : Bool
  /-- The start-up check failed at this Accession: no pair runs (R413). -/
  dead : Bool
  fail : Option StartCheck
  pairs : Tab LPair PairSt
  ue : Tab (Fin 9) Nat
  ce : Tab (Fin 9) Nat
  /-- LKS_ECC_LAST: bank, type, source, word; LKS_ECC_SYN. -/
  last : Nat × Nat × Nat × Nat
  syn : Nat
  /-- The data that the last read with a correctable error returned (R415). -/
  returned : BitVec 64
  /-- Correctable errors of the last second: bank and ms. -/
  ceTimes : List (Fin 9 × Nat)
  /-- Words the scrubber corrected: bank, word, pass. -/
  corrected : List (Fin 9 × Nat × Nat)
  poisoned : List (Fin 9 × Nat)
  /-- The shared SRAM: byte 8 w + k of bank b at 8 times the 21-bit address (b, w), plus k; an unlisted byte reads 0 (R412, R414). The map
  store, bank 8, is `Cat.map`. -/
  sram : List Host.Cell
  /-- The scrubbers' word indices in the SRAM banks and the map store. -/
  wSram : Nat
  wMap : Nat
  passes : Nat
  mapPasses : Nat
  deriving DecidableEq, Repr

/-- An item of a queue: a word with its FIRST and LAST tags; its class is its chain (R422). -/
structure Item where
  word : BitVec 64
  first : Bool
  last : Bool
  deriving DecidableEq, Repr

/-- The three counts of a chain in binary and the three as their complement copies decode (R432). -/
structure Marks where
  o : Nat
  c : Nat
  u : Nat
  oN : Nat
  cN : Nat
  uN : Nat
  deriving DecidableEq, Repr

/-- A chain: committed words, head first, the words of the open packet, and the marks. -/
structure Chain where
  words : List Item
  opn : List Item
  marks : Marks
  deriving DecidableEq, Repr

/-- An empty chain. -/
def Chain.empty : Chain := { words := [], opn := [], marks := { o := 0, c := 0, u := 0, oN := 0, cN := 0, uN := 0 } }

/-- One priority queue (17_priority_queues.md). -/
structure PQueue where
  chains : Tab (Fin 8) Chain
  opened : Option (Fin 8)
  reading : Option (Fin 8)
  /-- The words up to the next LAST are discarded. -/
  discard : Bool
  /-- A push of a pair that waits for room (R430). -/
  wait : Option (Fin 8 × Item)
  /-- The word the last pop delivered. -/
  popped : Option Item
  /-- The reader's started packet ended with the abort indication (R434). -/
  aborted : Bool
  hwm : Nat
  overlong : Nat
  full : Nat
  abort : Nat
  malf : Nat
  zcommit : Nat
  packets : Nat
  resets : Nat
  lostLast : Nat
  chain : Nat
  cause : Nat
  time : Nat
  /-- Milliseconds of the last resets, newest first (R436). -/
  resetMs : List Nat
  deriving DecidableEq, Repr

/-- An empty queue. -/
def PQueue.reset : PQueue :=
  { chains := Tab.fill Chain.empty, opened := none, reading := none, discard := false, wait := none, popped := none, aborted := false, hwm := 0, overlong := 0, full := 0, abort := 0, malf := 0, zcommit := 0, packets := 0, resets := 0, lostLast := 0, chain := 0, cause := 0, time := 0, resetMs := [] }

/-- A sent frame in a replay buffer: its link sequence, its resends, its type and its bytes from the header on (R450). -/
structure Sent where
  link : Nat
  resends : Nat
  ty : Nat
  bytes : List Byte
  deriving DecidableEq, Repr

/-- Where a frame that arrives goes (R452). -/
inductive RxWay where
  /-- Discarded: a header that breaks a rule, no route, a repeat or a refusal. -/
  | drop
  /-- For this node, into FAB_IN; a link frame is handled at once. -/
  | here
  /-- Cut through to an idle egress port. -/
  | cut (p : Port)
  /-- Into FAB_OUT of a port. -/
  | store (p : Port)
  deriving DecidableEq, Repr

/-- A fabric port (R443 to R452, R459). -/
structure FabPort where
  st : Nat
  nbrId : Nat
  nbrAddr : Nat
  parent : Bool
  /-- HELLO frames in a row with one identity, and the identity. -/
  hello : Nat
  helloId : Nat
  txLink : Nat
  rxLink : Nat
  replay : List Sent
  /-- Frames that wait for room in the replay buffer: type and bytes from the header on. -/
  waiting : List (Nat × List Byte)
  rx : Option (FabHeader × RxWay)
  /-- Words of the frame that the transmitter takes from FAB_OUT, newest first. -/
  txWords : List (BitVec 64)
  /-- The last delay measurements, newest first, at most 8, ft. -/
  delays : List Q
  crc : Nat
  resends : Nat
  codev : Nat
  downs : Nat
  tx : Nat
  rxN : Nat
  deriving DecidableEq, Repr

/-- A port at reset. -/
def FabPort.reset : FabPort :=
  { st := 0, nbrId := 0, nbrAddr := 0, parent := false, hello := 0, helloId := 0, txLink := 0, rxLink := 0, replay := [], waiting := [], rx := none, txWords := [], delays := [], crc := 0, resends := 0, codev := 0, downs := 0, tx := 0, rxN := 0 }

/-- A stream of control frames by source node, source endpoint, destination endpoint and broadcast (R448). -/
structure FabStream where
  src : Nat
  sep : Nat
  dep : Nat
  bcast : Bool
  last : Nat
  resync : Bool
  lastGood : Option Nat
  deriving DecidableEq, Repr

/-- The image block being assembled (R466). -/
structure Parts where
  node : Nat
  block : Nat
  parts : List (Nat × List Byte)
  deriving DecidableEq, Repr

/-- The fabric (18_ryfawen_fabric.md). -/
structure Fab where
  ports : Tab Port FabPort
  advSeq : Nat
  epoch : List Nat
  closed : Bool
  admitted : Bool
  addr : Nat
  /-- The latest advert of each identity. -/
  adverts : List Advert
  /-- Admitted addresses found unreachable and reported (R454). -/
  gone : List Nat
  timeRef : Nat
  /-- The local copy of fabric time, ns, and its rate change, ppm. -/
  time : Q
  rate : Q
  timeSet : Bool
  lock : Bool
  /-- Time frames in a row within 20 ns, and above 1 µs. -/
  goodRun : Nat
  badRun : Nat
  /-- HI latched by a read of FAB_TIME_LO. -/
  timeHi : Nat
  streams : List FabStream
  /-- Trailer counters last sent, by destination endpoint and node (0xFF for a broadcast). -/
  txCnt : List ((Nat × Nat) × Nat)
  /-- Data sequences last sent and last received, by node. -/
  txData : List (Nat × Nat)
  rxData : List (Nat × Nat)
  e2e : Nat
  zctl : Nat
  unreach : Nat
  hdr : Nat
  gopKind : Nat
  gopState : Nat
  missed : Nat
  gopOps : Nat
  gopT : Nat
  gaps : Nat
  empties : Nat
  lostc : Nat
  /-- A scheduled reset: the request and its instant. -/
  resetAt : Option (FabReq × Nat)
  /-- A scheduled snapshot: requester node, tag, instant, addresses. -/
  snapshot : Option (Nat × Nat × Nat × List Nat)
  /-- Barriers: number and the nodes whose ARRIVE is held. -/
  barriers : List (Nat × List Nat)
  parts : Option Parts
  /-- Data frames of a long answer that wait for room in FAB_OUT: class, node, destination and source endpoint, body (log entry 33). -/
  bulk : List (Nat × Nat × Nat × Nat × List Byte)
  deriving DecidableEq, Repr

/-- A handover that is scheduled (R485). -/
structure Handover where
  /-- This unit gives the lead. -/
  give : Bool
  at_ : Nat
  acked : Bool
  /-- The last E2E counters the giving unit will send, by function. -/
  counters : List (Nat × Nat)
  /-- It begins or ends a swap (R488). -/
  swap : Bool
  deriving DecidableEq, Repr

/-- Pair operation (19_pair_redundancy.md). -/
structure PairOp where
  /-- 0 none, 1 LEAD, 2 PARTNER, 3 SOLO; a scheduled handover reads 4. -/
  role : Nat
  fabHb : Bool
  phbHb : Bool
  /-- The partner's heartbeat is declared failed (R474). -/
  declared : Bool
  arbOut : Bool
  arbIn : Bool
  phbOut : Bool
  /-- The junior's ARB wait runs (R480). -/
  arbWait : Bool
  partnerFit : Bool
  swapped : Bool
  holdoff : Bool
  arbFit : Bool
  /-- The last accepted heartbeat of the partner. -/
  hb : Option PartnerHb
  /-- The lead's request of this period (R476). -/
  leadReq : Option (Q × Q)
  /-- The last report of the partner: its motor is available. -/
  partnerAvail : Bool
  handover : Option Handover
  takeovers : Nat
  handovers : Nat
  solos : Nat
  shadowMm : Nat
  shadowRun : Nat
  take : Nat
  cycles : Nat
  passed : Nat
  failed : Nat
  skip : Nat
  /-- LSB 0.01 N·m. -/
  diff : Int
  /-- An ARB test is due at this drive-cycle start (R487). -/
  testDue : Bool
  /-- A swap is due in this drive cycle (R488, R489). -/
  swapDue : Bool
  /-- A check of the running swap has failed (R488). -/
  swapBad : Bool
  /-- The partner reports an actuator sequence or a session (R489). -/
  partnerBusy : Bool
  /-- The lead's session decisions: phase, battery current and voltage (R475). -/
  leadCharge : Option (Nat × Q × Q)
  deriving DecidableEq, Repr

/-- The control symbols a port sends in answer to what it received (R442, R450, R452). -/
inductive LaneSym where
  | ack (link : Nat)
  | nak (link : Nat)
  | eob
  deriving DecidableEq, Repr

/-- What the N9 sends: the model's own list of the frames and answers that left it, newest first (log entry 16). -/
inductive Emit where
  /-- A control symbol on a port's lane (R442). -/
  | sym (port : Port) (x : LaneSym)
  /-- A UDS response on a path, with the identifier it is sent from (`State.udsResp`). -/
  | uds (p : UPath) (id : Nat) (bytes : List Byte)
  /-- The answer to an ISO 15118-20 message: accepted or refused, and the maximum discharge power it reports, W (R329). -/
  | iso (ok : Bool) (power : Option Q)
  /-- A message of the message set: function, the interfaces it leaves on, CAN_ID and UDP_PORT of its record, bytes. -/
  | msg (func mask canId udpPort : Nat) (bytes : List Byte)
  /-- A frame of the fabric: port, type, bytes from the header on. -/
  | fab (port : Port) (ty : Nat) (bytes : List Byte)
  /-- A control frame of the pair, whose layout the spec does not give: node, endpoint, counter and what it says. -/
  | ctl (node ep counter : Nat) (c : CtlContent)
  /-- What a JTAG data register or a JTAG register read returns. -/
  | jtag (bytes : List Byte)
  /-- A JTAG access that ended with a bus error (R528) or was refused with an error status (R418). -/
  | jtagError
  deriving DecidableEq, Repr

/-- One message stream (R504, R505). -/
structure Stream where
  valid : Bool
  timeout : Bool
  lastIf : Nat
  lastCnt : Nat
  /-- A message has been accepted since Accession. -/
  started : Bool
  /-- A rejection: the stream waits for two messages with consecutive counters. -/
  resync : Bool
  /-- The counter of the last message with valid DATA_ID and CRC since the rejection. -/
  lastGood : Option Nat
  reject : Nat
  lost : Nat
  repeats : Nat
  touts : Nat
  deriving DecidableEq, Repr

/-- A stream before its first message. -/
def Stream.reset : Stream :=
  { valid := false, timeout := false, lastIf := 0, lastCnt := 0, started := false, resync := false, lastGood := none, reject := 0, lost := 0, repeats := 0, touts := 0 }

/-- A CAN controller (R493, R494). -/
structure CanSt where
  /-- 0 active, 1 error passive, 2 bus-off. -/
  st : Nat
  tec : Nat
  recn : Nat
  busoff : Nat
  rxdrop : Nat
  /-- CANn_STB level: high is standby. -/
  stb : Bool
  deriving DecidableEq, Repr

/-- The vehicle's requests as last accepted (R500, R501). -/
structure Veh where
  /-- MODE of the mode request while its stream is valid. -/
  mode : Option Nat
  park : Nat
  shift : Nat
  req : Nat
  /-- Changes of PARK and SHIFT from 0 that wait for Io. -/
  parkNew : Nat
  shiftNew : Nat
  /-- I_MAX_BMS, V_MAX_BMS, FULL while the stream is valid. -/
  bms : Option (Q × Q × Bool)
  /-- REFUSE of R502. -/
  refuse : Nat
  /-- Io task periods for which REFUSE still shows. -/
  refuseMs : Nat
  deriving DecidableEq, Repr

/-- The diagnostic server (R506, R507). -/
structure Uds where
  session : Tab UPath Nat
  /-- The path of the last request. -/
  tester : Option UPath
  /-- Unlocked levels by path (R523). -/
  unlocks : List (UPath × Nat)
  /-- Routine results by identifier. -/
  results : List (Nat × List Byte)
  /-- Codes whose DTC status bit 3 has been cleared (R507). -/
  dtcClr : List Nat
  deriving DecidableEq, Repr

/-- Vehicle interfaces (20_vehicle_interfaces.md). -/
structure Vif where
  can : Tab (Fin 2) CanSt
  ethUp : Bool
  linkdown : Nat
  ethDrop : Nat
  badfcs : Nat
  /-- ETH_PHYRST_N and PLC_RST_N levels. -/
  ethRst : Bool
  plcRst : Bool
  /-- 0 running, 1 restarting. -/
  modem : Nat
  /-- Type and length of the last modem transfer. -/
  plcLast : Option (Nat × Nat)
  streams : Tab (Fin 256) Stream
  /-- COUNTER of the last Status message sent. -/
  txCnt : Nat
  deriving DecidableEq, Repr

/-- A challenge that is outstanding: its path (none for JTAG), level, seed and the next segment (R522, R523). -/
structure Challenge where
  path : Option UPath
  level : Nat
  seed : List Byte
  seg : Nat
  /-- The key index of segment 0. -/
  key : Nat
  deriving DecidableEq, Repr

/-- Who asked for an attestation report. -/
inductive AttReq where
  | uds (p : UPath)
  | fabric (node tag ep : Nat)
  deriving DecidableEq, Repr

/-- An operation of the SHAKE256 engine that runs (the head) or waits (R511). -/
inductive EngJob where
  | key (c : Challenge)
  | sign (r : AttReq)
  deriving DecidableEq, Repr

/-- Security (21_security.md). -/
structure Sec where
  idSlot : Option (Fin 2)
  jtagOpen : Bool
  entOk : Bool
  skipped : Nat
  challenge : Option Challenge
  jobs : List EngJob
  /-- The UDS requests whose operation of the engine waits or runs, with the `mer.ns` at which the next response 0x78 is due (R511). -/
  pend : List (UPath × Nat)
  ops : Nat
  /-- The report's bytes 0 to 207 and the index of its signature once signed. -/
  report : Option (List Byte × Option Nat)
  /-- Indices of the next free nonce, key and signature. -/
  nNonce : Nat
  nKey : Nat
  nSig : Nat
  /-- A failed entropy test has stopped key generation until the next Accession (R520). -/
  keyTried : Bool
  /-- A lifecycle change by key whose OTP words still wait: it resets once they are programmed (R519). -/
  lcReset : Bool
  deriving DecidableEq, Repr

/-- The state of one N9: every block of the Vitrine, the flash and OTP it keeps, and the commands that wait. -/
structure State where
  /-- Meridian, the time base (R121 to R127). -/
  mer : Mer
  /-- The ten PWM groups (R128 to R140). -/
  pwm : Tab Grp PwmGrp
  /-- The traction samples and offsets of each set (R156 to R162). -/
  orr : Tab TSet OrrSet
  /-- The committed control state of each set (R163 to R177). -/
  octl : Tab TSet OrrCtl
  /-- What the last committed update of each set reports. -/
  oview : Tab TSet OrrView
  /-- The targets and limits Io writes to each set (R172, R173). -/
  otgt : Tab TSet OrrTgt
  /-- Torque management (R185 to R195). -/
  tm : Tm
  /-- The DC-link samples and the brake chopper (R196 to R198). -/
  dc : DcLink
  /-- The traction safe state of each set (R200 to R206). -/
  ss : Tab TSet SafeSet
  /-- DISAGREE of ORR_SAFE (R205). -/
  ssDisagree : Bool
  /-- TRIALS of ORR_SAFE (R204). -/
  ssTrials : Nat
  /-- What each position interface reports (R207 to R212). -/
  pos : Tab Ifc PosSt
  /-- The edge timing of each ABZ or Hall interface (R225 to R237). -/
  edge : Tab Ifc EdgeSt
  /-- The resolvers (R213 to R220). -/
  res : Tab Ifc ResSt
  /-- The calibration turn of each resolver (R218). -/
  cal : Tab Ifc CalTurn
  /-- The SENT receivers (R221 to R224). -/
  sent : Tab Ifc SentSt
  /-- The encoder emulations (R238 to R240). -/
  em : Tab Ifc EmSt
  /-- The gate channels and their diagnostics (R241 to R264). -/
  gd : Gd
  /-- Grid sensing of the charger (R270, R271). -/
  grid : Grid
  /-- The PFC stage (R272 to R286). -/
  pfc : Pfc
  /-- The DAB stage (R276 to R288). -/
  dab : Dab
  /-- The targets Europa writes to the charger (R334). -/
  obcT : ObcTgt
  /-- The SYS block (R32 to R37, R530, R531). -/
  sys : Sys
  /-- Supply, start-up and ship mode (R58 to R93). -/
  sup : Supply
  /-- What the keep-alive domain retains (R557). -/
  ka : Retained
  /-- The active faults, in no order; SYS_ACTIVE sorts them (R532). -/
  faults : List ActiveFault
  /-- The Provenance log (R535 to R542). -/
  log : LogSt
  /-- The external flash (R94 to R97, R538). -/
  flash : Flash
  /-- The flash and OTP operations that wait or run (R84 to R88). -/
  ops : Ops
  /-- The Catalogue, Accession and staging (R94 to R120). -/
  cat : Cat
  /-- The LV converter (R289 to R315). -/
  lvc : Lvc
  /-- The charging services (R316 to R347). -/
  chg : Chg
  /-- The Conservator and housekeeping (R348 to R360). -/
  thm : Thm
  /-- The two gearbox actuators (R361 to R376). -/
  act : Tab Act ActSt
  /-- The safety controller (R377 to R401). -/
  saf : Saf
  /-- Lockstep pairs and shared memory (R402 to R421). -/
  lks : Lks
  /-- The priority queues (R422 to R441). -/
  pq : Tab QId PQueue
  /-- RESET_SEEN of PQ_SUMMARY. -/
  pqSeen : List QId
  /-- The Ryfawen fabric (R442 to R469). -/
  fab : Fab
  /-- Pair operation (R470 to R491). -/
  pair : PairOp
  /-- The vehicle interfaces (R492 to R505). -/
  vif : Vif
  /-- The vehicle's requests as last accepted (R500 to R502). -/
  veh : Veh
  /-- The diagnostic server (R506 to R509). -/
  uds : Uds
  /-- The model's own list of what left the N9, newest first (log entry 16). -/
  out : List Emit
  /-- Security (R510 to R525). -/
  sec : Sec
  /-- The OTP words (R512); an unlisted word is 0. -/
  otp : Tab Nat (BitVec 64)
  /-- The model's own counter: the index of the next free value (log entry 6). -/
  freeIx : Nat
  /-- The commands that wait, first in, first out (the model's own queue). -/
  pending : List Instr
  deriving DecidableEq, Repr

/-- The N9 at the start of ACCESSION (R530, R557): registers at the reset values of their tables, a blank flash and OTP,
nothing waiting. Values the spec does not state are log entry 2. -/
def State.reset : State :=
  { mer := { ct := 0, ns := 0, xtalAcc := false, senior := false, taps := [], shadow := none, shadowLim := false, ne := 0, firstCal := false, missRun := 0, discarded := false, discRun := 0, swaps := 0, limited := 0, ftErr := 0 },
    pwm := Tab.fill PwmGrp.reset,
    orr := Tab.fill { running := false, iu := 0, iv := 0, iw := 0, ix := 0, ofsU := 0, ofsV := 0, ofsW := 0, ofsX := 0, trimLeft := 0, sumU := 0, sumV := 0, sumW := 0, sumX := 0, trimStart := false, sumRun := 0, sumErr := 0, trims := 0 },
    octl := Tab.fill { xd := 0, xq := 0, xfw := 0, tcomp := 0, w0 := 1, w1 := 0, w2 := 0, lpXd := 0, lpXq := 0, lpSd := 0, lpSq := 0, band := 0, fresh := true, vdc := 0, staleRun := 0 },
    oview := Tab.fill { id := 0, iq := 0, idRef := 0, iqRef := 0, vd := 0, vq := 0, mCmd := 0, m := 0, ovm := 0, fwAct := false, ilimAct := false, tclip := false, wclip := false, learn := false, theta := 0, we := 0, lateLast := false, lateRun := 0, lateTotal := 0 },
    otgt := Tab.fill { current := false, torque := 0, id := 0, iq := 0, limit := none },
    tm := { limA := 0, limB := 0, tAx := 0, dT := 0, hold := false, reqValid := false, lostMs := none, idleA := false, idleB := false, tA := 0, tB := 0, startA := false, startB := false, svc := none, missRun := 0, pLim := none },
    dc := { dclT := 0, dclC := 0, stale1 := false, stale2 := false, bcActive := false, bcStop := false, bcDuty := 0, bcEnergy := 0 },
    ss := Tab.fill { st := 0, window := false, trial := false, ell := 0 },
    ssDisagree := false,
    ssTrials := 0,
    pos := Tab.fill { valid := false, still := false, neg := false, idxSeen := false, aid := false, bad := false, idxLvl := false, code := 0, angle := 0, speed := 0, count := 0, idx := 0, idxNum := 0, drift := 0, errTotal := 0, errTimes := [] },
    edge := Tab.fill { a := false, b := false, z := false, dir := 0, times := [], steps := [], n := 0, mean := 0, cref := none, lastCode := 0, mid := false },
    res := Tab.fill { th := 0, w := 0, s0 := 0, c0 := 0, s90 := 0, c90 := 0, s180 := 0, c180 := 0, s270 := 0, c270 := 0, os := 0, oc := 0, k := 0, phi := 0, sdly := 0, amp := 0, ampRun := 0, trkRun := 0, good := 0, exc := 0 },
    cal := Tab.fill CalTurn.empty,
    sent := Tab.fill { frames := [], prevCal := none, first := true, accRun := 0, raw := 0 },
    em := Tab.fill { started := false, acc := 0, want := 0, out := 0, shown := 0, sync := false },
    gd := { ch := Tab.fill GdChan.reset, st := Tab.fill { watch := none, osd := 0, testUa := 0 }, quietA := 0, pulseA := 0, quietB := 0, pulseB := 0, hsFailed := [] },
    grid := { theta := 0, w := 0, lock := false, ok := false, lockT := 0, okT := 0, errT := 0, badCycles := 0, rms1 := 0, rms2 := 0, rms3 := 0, n := 0, q1 := 0, q2 := 0, q3 := 0, histV := [], histI := [], histB := [] },
    pfc := { st := 0, dir := 0, busOk := false, busRef := 0, xv := 0, xd := 0, xq := 0, xvd := 0, xvq := 0, id := 0, iq := 0, vd := 0, ilim := false, vdRef := 0, outReady := false, leg3 := false, vStart := 0, ramp0 := 0, stale := 0, lateTotal := 0, lateRun := 0, preCmd := false, mainCmd := false, ia := 0, ib := 0, ic := 0, pre := false, main := false },
    dab := { st := 0, vbus := 0, ibat := 0, tank := 0, xvb := 0, xc := 0, delta := 0, phi := 0, dp := 0, ds := 0, sag := false, iCmd := 0, win := [], loss := 0, revT := 0, pBat := 0, stopRamp := none, lateTotal := 0, lateRun := 0 },
    obcT := { iAc := none, reactive := 0, iBat := 0, rate := 0, vBat := 0, iDis := none },
    sys := { mode := .accession, prev := .off, readyPin := false, faultPin := true, wake := false, ackCnt := 0, version := 0, safeFromAcc := false, readyReqFresh := false, waitStill := false, dcInside := false },
    sup := { feedA := { present := false, lost := false, ov := false, mosfet := false, volts := 0 }, feedB := { present := false, lost := false, ov := false, mosfet := false, volts := 0 }, hold := 0, holdMv := 0, holdup := false, biasA := false, biasB := false, biasStopA := false, biasStopB := false, biasCut := [], railsOut := [], step := 1, nRst := true, svc := { armed := false, stuck := false, refused := false, asked := false, low := false }, acPresent := false, lvd := true, ship := .none, riseArmed := false, wakes := StartCause.none, cause := { StartCause.none with power := true }, lostWrites := 0, ifaces := false },
    ka := { valid := true, lostWrites := 0, unlockFails := 0, unlockDelay := false, startFail := none },
    faults := [],
    log := { ready := false, wrapped := false, badSlots := 0, accepted := 0, boot := 0, dropped := 0, suppressed := 0, region := 1010, openSeq := 0, nextSlot := 0, oldestSeq := 0, nextErased := false, store := [], window := [], suppPairs := [] },
    flash := { boot0 := none, boot1 := none, fwA := [], catA := [], fwB := [], catB := [], logR := { blocks := [], retired := [] } },
    ops := { waiting := [], running := none, orphan := false },
    cat := { result := 0, causeA := 0, causeB := 0, slotRun := .a, locked := false, failBlock := 0xFFFF, recValid := false, regionCat := false, failRecord := 0, arb := 0, oemKey := 0, records := 0, buildLo := 0, buildHi := 0, params := [], crcs := [], map := [], desc := none, descDue := none, descNext := none, stage := { src := .none, region := 0, next := 0, left := 0, block := none, seq := 1, marked := false, last := 0 }, fwArb := 0, recovery := false, codeLocked := false, xspi8d := false },
    lvc := { dcx := 0, buck := 0, due := false, f3Stop := false, retries := 0, senseLost := false, fbLocal := false, fold := false, ilim := false, ovHold := false, srOn := false, act := [], held := [], delay := Tab.fill 0, waiting := [], ssPhase := 0, dxLow := false, slots := [], slotD := 0, tPer := 0, resp := 0, cmd := none, vref := 0, ssRate := 0, rs := 0, ls := 0, v48 := 0, freq := 0, iFold := 0, ph := Tab.fill 0, ton := Tab.fill 0, xv := 0, xi := 0, limit := none, allph := 0, release := 0, ovh := 0, hiccups := 0 },
    chg := { phase := 0, role := 0, path := 0, cp := 4, hi := 0, lo := 0, freq := 0, duty := none, pp := 0, s2 := false, pilot := 0, pilotDuty := 0, roleCmd := false, roleOk := false, throt := false, lvChg := false, lvLost := false, cause := 0, causes := [], restarts := 0, restartFor := none, iAc := 0, iReq := 0, lTh := 0, iCc := 0, timer := 0, real := 0, pulses := 0, below := 0, iEnd := 0, pulsing := false, endMs := 0, used := false, isoStep := 0, isoMax := none, isoStart := false, isoStop := false, isoTarget := 0, hlcFailed := false, pulseEnd := false },
    thm := { rounds := 0, missed := 0, slots := Tab.fill { a := 0, b := 0, stale := false, run := 0 }, sw := Tab.fill { e := 0, d1 := 0, d2 := 0, d3 := 0, d4 := 0, tj := 0, p := 0, f := 0, warn := false, throt := false, cut := false, hiW := 0, loW := 0, hiT := 0, loT := 0, hiC := 0, loC := 0 }, anchors := Tab.fill { ta := none, dn := 0, bad := 0, held := false }, counted := false, limits := Tab.fill none, lastFull := Tab.fill none, dieHi := Tab.fill 0, dieLo := Tab.fill 0, tsnHi := Tab.fill 0, tsnLo := Tab.fill 0, priHi := Tab.fill 0, priLo := Tab.fill 0 },
    act := Tab.fill { phase := .idle, why := .reached, comm := .off, ref := none, neg := false, fwd := false, offNs := 0, seq := 0, target := 0, second := false, crossed := false, ilim := false, retries := 0, d := 0, dTgt := 0, iAct := 0, iLimUse := 0, cut := false, peakRun := 0, backAt := 0, held := 0, vs := 0, reqNs := 0, peak := 0, stalls := 0, aborts := 0, seqs := 0, lastMs := 0 },
    saf := { evaluating := false, safeReq := false, xtalLatch := false, watchLatch := false, ovHold := false, ptestOk := false, held := true, lvC := false, lvP := false, soDiffA := false, soDiffB := false, cycles := 0, overruns := 0, lastOverrun := false, si := Tab.fill SiSt.reset, hso := Tab.fill false, cust := { si := Tab.fill [], safety := [], ov := [] } },
    lks := { startOk := false, dead := false, fail := none, pairs := Tab.fill PairSt.reset, ue := Tab.fill 0, ce := Tab.fill 0, last := (0, 0, 0, 0), syn := 0, returned := 0, ceTimes := [], corrected := [], poisoned := [], sram := [], wSram := 0, wMap := 0, passes := 0, mapPasses := 0 },
    pq := Tab.fill PQueue.reset,
    pqSeen := [],
    fab := { ports := Tab.fill FabPort.reset, advSeq := 0, epoch := [], closed := false, admitted := false, addr := 0, adverts := [], gone := [], timeRef := 0, time := 0, rate := 0, timeSet := false, lock := false, goodRun := 0, badRun := 0, timeHi := 0, streams := [], txCnt := [], txData := [], rxData := [], e2e := 0, zctl := 0, unreach := 0, hdr := 0, gopKind := 0, gopState := 0, missed := 0, gopOps := 0, gopT := 0, gaps := 0, empties := 0, lostc := 0, resetAt := none, snapshot := none, barriers := [], parts := none, bulk := [] },
    pair := { role := 0, fabHb := false, phbHb := false, declared := false, arbOut := false, arbIn := false, phbOut := false, arbWait := false, partnerFit := false, swapped := false, holdoff := false, arbFit := false, hb := none, leadReq := none, partnerAvail := true, handover := none, takeovers := 0, handovers := 0, solos := 0, shadowMm := 0, shadowRun := 0, take := 0, cycles := 0, passed := 0, failed := 0, skip := 0, diff := 0, testDue := false, swapDue := false, swapBad := false, partnerBusy := false, leadCharge := none },
    vif := { can := Tab.fill { st := 0, tec := 0, recn := 0, busoff := 0, rxdrop := 0, stb := true }, ethUp := false, linkdown := 0, ethDrop := 0, badfcs := 0, ethRst := false, plcRst := false, modem := 1, plcLast := none, streams := Tab.fill Stream.reset, txCnt := 0 },
    veh := { mode := none, park := 0, shift := 0, req := 0, parkNew := 0, shiftNew := 0, bms := none, refuse := 0, refuseMs := 0 },
    uds := { session := Tab.fill 1, tester := none, unlocks := [], results := [], dtcClr := [] },
    out := [],
    sec := { idSlot := none, jtagOpen := false, entOk := false, skipped := 0, challenge := none, jobs := [], pend := [], ops := 0, report := none, nNonce := 0, nKey := 0, nSig := 0, keyTried := false, lcReset := false },
    otp := Tab.fill 0,
    freeIx := 0,
    pending := [] }

end Sys2Proof.Machine
end

