-- ==== Sys2Proof/Machine/Operands.lean ====
section
/-! DEFINITION. Where the operands of a command come from: the parameter store, the map store, and the channels, groups, stages and domains of the pin tables. -/

namespace Sys2Proof.Machine

/-! ## The parameter and map stores (R102, R110, R183) -/

/-- The payload of a record, empty when it is not loaded. -/
def findRec (ty inst : Nat) : List Rec → List Byte
  | [] => []
  | r :: rest => if r.ty = ty ∧ r.inst = inst then r.data else findRec ty inst rest

/-- A record of a type and instance is loaded. -/
def anyRec (ty inst : Nat) : List Rec → Bool
  | [] => false
  | r :: rest => (decide (r.ty = ty) && decide (r.inst = inst)) || anyRec ty inst rest

/-- The payload of a loaded record. -/
def State.payload (s : State) (ty inst : Nat) : List Byte := findRec ty inst s.cat.params

/-- The record is loaded. -/
def State.hasRec (s : State) (ty inst : Nat) : Bool := anyRec ty inst s.cat.params

/-- `n` bytes of a record as an unsigned number, 0 where the record is not loaded. -/
def State.pb (s : State) (ty inst off n : Nat) : Nat := uAt (s.payload ty inst) off n

/-- A u32 field. -/
def State.pu (s : State) (ty inst off : Nat) : Nat := s.pb ty inst off 4

/-- A signed 32-bit field. -/
def State.pi (s : State) (ty inst off : Nat) : Int := sAt (s.payload ty inst) off 4

/-- A binary32 field. -/
def State.pf (s : State) (ty inst off : Nat) : Q := fAt (s.payload ty inst) off

/-- The byte of the map store at a distance from 0x5100_0000; an unlisted byte reads 0 (R183). -/
def mapByte : List Host.Cell → Nat → Nat
  | [], _ => 0
  | c :: rest, a => if c.1 = a then c.2.toNat else mapByte rest a

/-- Cells whose addresses rise strictly from `a` on and that hold no 0, which an unlisted byte reads as. -/
def Memory.wfFrom : Nat → List Host.Cell → Bool
  | _, [] => true
  | a, c :: rest => decide (a ≤ c.1) && decide (c.2 ≠ 0) && Memory.wfFrom (c.1 + 1) rest

/-- The one canonical form of the map store's contents. -/
def Memory.wf (m : List Host.Cell) : Bool := Memory.wfFrom 0 m

/-- A signed half word of the map store. -/
def State.mapHalf (s : State) (a : Nat) : Int :=
  let v := mapByte s.cat.map a + 256 * mapByte s.cat.map (a + 1)
  if v < 2 ^ 15 then (v : Int) else (v : Int) - 2 ^ 16

/-! ## Presence (R103) -/

/-- Function `k` of FN_PRESENT is present. With valid firmware and no Catalogue the fabric is served too (R109). -/
def State.fn (s : State) (k : Nat) : Bool :=
  (s.pu 1 0 8).testBit k || (decide (k = 10) && s.cat.recovery && decide (s.cat.result = 3 ∨ s.cat.result = 5))

/-- PORT_EN, NODES, T_JOIN (s), LEAD_MARGIN (s) and MAX_DIAM of the fabric record, or their defaults without a Catalogue (R467, R468). -/
def State.portEn (s : State) : Nat := if s.cat.recovery then 15 else s.pu 0x90 0 0

def State.fabNodes (s : State) : Nat := if s.cat.recovery then 0 else s.pu 0x90 0 4

def State.tJoin (s : State) : Q := if s.cat.recovery then 2 else s.pf 0x90 0 8

def State.leadMargin (s : State) : Q := if s.cat.recovery then 1 / 10000 else s.pf 0x90 0 12

def State.maxDiam (s : State) : Nat := if s.cat.recovery then 12 else s.pu 0x90 0 16

/-- Gate channel `c` is present. -/
def State.chPresent (s : State) (c : Chan) : Bool := (s.pb 1 0 0 8).testBit c.val

/-! ## Channels (R43, R241, R242) -/

/-- Every gate channel. -/
def allChans : List Chan := List.finRange 55

/-- The channels from one index, `n` of them. -/
def chanRange (a n : Nat) : List Chan := allChans.filter (fun c => decide (a ≤ c.val) && decide (c.val < a + n))

/-- The channel of an index. -/
def chanAt (k : Nat) : Chan := ⟨k % 55, Nat.mod_lt _ (by decide)⟩

/-- The high side of buck phase n + 1. -/
def buckHigh (n : Fin 6) : Chan := chanAt (31 + 2 * n.val)

/-- The low side of buck phase n + 1. -/
def buckLow (n : Fin 6) : Chan := chanAt (32 + 2 * n.val)

/-- The stage of R242 that a channel belongs to. -/
def stageOf (c : Chan) : Stage :=
  if c.val < 6 then .setA else if c.val < 12 then .setB else if c.val < 13 then .chopper else if c.val < 19 then .pfc
  else if c.val < 27 then .dab else if c.val < 29 then .dcx else if c.val < 31 then .sr
  else if c.val < 43 then .buck ⟨(c.val - 31) / 2 % 6, Nat.mod_lt _ (by decide)⟩
  else if c.val < 49 then .park else .shift

/-- The channels of a stage. -/
def stageChans (g : Stage) : List Chan := allChans.filter (fun c => decide (stageOf c = g))

/-- The other output of a non-isolated leg (R261). -/
def partner (c : Chan) : Option Chan :=
  if c.val < 31 then none else if c.val % 2 = 1 then some (chanAt (c.val + 1)) else some (chanAt (c.val - 1))

/-- The permit domain of a channel (R381). -/
def domOf (c : Chan) : Fin 7 :=
  if c.val < 6 then 0 else if c.val < 12 then 1 else if c.val < 13 then 2 else if c.val < 27 then 3
  else if c.val < 43 then 4 else if c.val < 49 then 5 else 6

/-- The channels of a permit domain. -/
def chansOf (d : Fin 7) : List Chan := allChans.filter (fun c => decide (domOf c = d))

/-- The PWM group of a channel (R128). -/
def grpOf (c : Chan) : Grp :=
  if c.val < 6 then 0 else if c.val < 12 then 1 else if c.val < 13 then 2 else if c.val < 19 then 3
  else if c.val < 27 then 4 else if c.val < 29 then 5 else if c.val < 31 then 6 else if c.val < 43 then 7
  else if c.val < 49 then 8 else 9

/-- The channels of a group. -/
def grpChans (g : Grp) : List Chan := allChans.filter (fun c => decide (grpOf c = g))

/-- The PWM group of a traction set. -/
def setGrp : TSet → Grp
  | .a => 0
  | .b => 1

end Sys2Proof.Machine

namespace Sys2Proof

/-- The PWM group of a traction set. -/
abbrev TSet.grp (t : TSet) : Grp := Machine.setGrp t

/-- The stage of a traction set. -/
def TSet.stage : TSet → Stage
  | .a => .setA
  | .b => .setB

/-- The low-side channels of a set: U, V, W. -/
def TSet.lows : TSet → List Chan
  | .a => [1, 3, 5]
  | .b => [7, 9, 11]

/-- The high-side channels of a set: U, V, W. -/
def TSet.highs : TSet → List Chan
  | .a => [0, 2, 4]
  | .b => [6, 8, 10]

/-- The position interface of an actuator's Hall set. -/
def Act.ifc : Act → Ifc
  | .park => 8
  | .shift => 9

/-- The PWM group of an actuator. -/
def Act.grp : Act → Grp
  | .park => 8
  | .shift => 9

/-- The stage of an actuator. -/
def Act.stage : Act → Stage
  | .park => .park
  | .shift => .shift

/-- The first channel of an actuator's bridge. -/
def Act.base : Act → Nat
  | .park => 43
  | .shift => 49

end Sys2Proof

namespace Sys2Proof.Machine

/-- The functions that own a stage, as FN_PRESENT numbers them (R103). -/
def stageFn : Stage → Nat
  | .setA => 0
  | .setB => 1
  | .chopper => 2
  | .pfc => 3
  | .dab => 4
  | .dcx => 5
  | .sr => 5
  | .buck _ => 6
  | .park => 7
  | .shift => 8

/-- The function that a group serves, as FN_PRESENT numbers them. -/
def grpFn (g : Grp) : Nat :=
  if g.val < 5 then g.val else if g.val = 5 ∨ g.val = 6 then 5 else if g.val = 7 then 6 else if g.val = 8 then 7 else 8

end Sys2Proof.Machine
end

