-- ==== Sys2Proof/Machine/Ops.lean ====
section
/-! DEFINITION. Named reads and operations over the state that raise no fault: times, speeds, permits, outputs, stops, the answers the N9 sends. -/

namespace Sys2Proof.Machine

/-- The instance of a fault that names none (R536). -/
def noInst : Nat := 0xFFFF

/-- `n` limited to `lo` to `hi`. -/
def clampN (lo hi n : Nat) : Nat := if n < lo then lo else if hi < n then hi else n

/-- One Boolean as a number. -/
def b2n (b : Bool) : Nat := if b then 1 else 0

/-! ## Time -/

/-- The crystal is accepted and not lost (R122). -/
def State.xtalOk (s : State) : Bool := s.mer.xtalAcc && !s.saf.xtalLatch

/-- Fabric time is locked (R460). -/
def State.fabLocked (s : State) : Bool := s.fab.lock

/-- Fabric time in ns; with none, ns since step 4 of R69 (R535). -/
def State.timeNs (s : State) : Nat := if s.fn 10 && s.fab.timeSet then floorN s.fab.time else s.mer.ns

/-- The time field of a log record: bit 63 marks a time that is not fabric time (R535). -/
def State.logTime (s : State) : Nat := if s.fn 10 && s.fab.timeSet then floorN s.fab.time % 2 ^ 64 else 2 ^ 63 + s.mer.ns % 2 ^ 63

/-! ## Active faults (R532, R534) -/

/-- A code and instance stand in a list of active faults. -/
def findFault (code inst : Nat) : List ActiveFault → Option ActiveFault
  | [] => none
  | f :: rest => if f.code = code ∧ f.inst = inst then some f else findFault code inst rest

/-- The fault is active. -/
def active (code inst : Nat) (s : State) : Bool := (findFault code inst s.faults).isSome

/-- The code is active for some instance. -/
def activeCode (code : Nat) (s : State) : Bool := s.faults.any (fun f => decide (f.code = code))

/-- A fault of a class is active. -/
def activeClass (cls : Nat) (s : State) : Bool := s.faults.any (fun f => decide (f.cls = cls))

/-- The fault of five missed Io torque tasks, to which the tables give no code: a number outside the 16 bits of R14 that only the
model's own list of active faults holds; what a reader sees in its place is free (log entry 9). -/
def missCode : Nat := 0x10000

/-- The code as it is shown: the free code for the fault that has none (log entry 9). -/
def shownCode (code : Nat) : Nat := if code < 0x10000 then code else Config.freeNat 0 % 0x10000

/-! ## What a fault of class F3 keeps from serving (R409, R436, R439, R454) -/

/-- The element of a list, or a default. -/
def nth {α : Type} (xs : List α) (k : Nat) (d : α) : α := (xs[k]?).getD d

/-- The pairs in the order of their numbers. -/
def pairAll : List LPair := [.io, .europa, .ganymede, .callisto]

/-- The pair of a number. -/
def pairAt (k : Nat) : LPair := nth pairAll (k % 4) .io

/-- Ganymede's services run: its pair runs and no F3 fault of them is active (0x6003, 0x7002 of a mailbox to Ganymede). -/
def State.ganyOn (s : State) : Bool :=
  decide ((s.lks.pairs.get .ganymede).st = 1) && !activeCode 0x6003 s && !active 0x7002 18 s

/-- CAN controller `n` is not stopped by 0x7002 of one of its queues. -/
def State.canOn (s : State) (n : Fin 2) : Bool := !active 0x7002 (8 + 2 * n.val) s && !active 0x7002 (9 + 2 * n.val) s

/-- The Ethernet MAC is not stopped by 0x7002 of one of its queues. -/
def State.ethOn (s : State) : Bool := !active 0x7002 12 s && !active 0x7002 13 s

/-- Fabric port `n` is not stopped by 0x7002 of one of its queues, nor the fabric by 0x680A. -/
def State.portOn (s : State) (n : Nat) : Bool := !active 0x7002 n s && !active 0x7002 (4 + n) s && !activeCode 0x680A s

/-! ## Safety inputs (R371, R386 to R390) -/

/-- A u32 field of a safety input in Custodian's own registers (R379, R397). -/
def State.cu (s : State) (n : SiN) (off : Nat) : Nat := uAt (s.saf.cust.si.get n) off 4

/-- A u32 field of the safety global record in Custodian's own registers. -/
def State.cuSafety (s : State) (off : Nat) : Nat := uAt s.saf.cust.safety off 4

/-- V_OV_ASC (0), V_OV_HYS (4) and T_SEL (8) in Custodian's own registers. -/
def State.cuOv (s : State) (off : Nat) : Q := fAt s.saf.cust.ov off

/-- Input `n` is used in Custodian's view. -/
def State.cuUsed (s : State) (n : SiN) : Bool := decide (s.cu n 0 = 1)

/-- Input `n` is used (R389). -/
def State.siUsed (s : State) (n : SiN) : Bool := decide (s.pu 0x80 n 0 = 1)

/-- Input `n` is in demand in Custodian's view: an accepted demand of a channel, a channel that has no accepted level yet, or the latch
(R386, R387, R389). -/
def State.siCust (s : State) (n : SiN) : Bool :=
  let x := s.saf.si.get n
  s.cuUsed n && ((x.a.accepted && x.a.demand) || (x.b.accepted && x.b.demand) || (s.saf.evaluating && (!x.a.accepted || !x.b.accepted)) || x.disc)

/-- Input `n` is in demand in Callisto's view, whose filter starts in demand (R380, R386, R389). -/
def State.siCall (s : State) (n : SiN) : Bool :=
  let x := s.saf.si.get n
  s.siUsed n && (x.callA || x.callB || x.disc)

/-- Input `n` is in demand, a provisional demand counted in (R386, R389). -/
def State.siDemand (s : State) (n : Nat) : Bool := s.siCust ⟨n % 8, Nat.mod_lt _ (by decide)⟩

/-- The start-up test of input `n` is pending (R390). -/
def State.siTestPending (s : State) (n : SiN) : Bool := s.siUsed n && !(s.saf.si.get n).testDone

/-- SI3 confirms the park lock as engaged: both channels read demand (R371). -/
def State.si3Eng (s : State) : Bool :=
  let x := s.saf.si.get 3
  x.a.accepted && x.a.demand && x.b.accepted && x.b.demand

/-- SI3 confirms the park lock as released (R371). -/
def State.si3Rel (s : State) : Bool :=
  let x := s.saf.si.get 3
  x.a.accepted && !x.a.demand && x.b.accepted && !x.b.demand

/-! ## Permits (R294, R381 to R383) -/

/-- The safety inputs. -/
def siAll : List SiN := List.finRange 8

/-- V_OV_ASC, V_OV_HYS and T_SEL as the parameter store gives them. -/
def State.custOv (s : State) : List Byte := bytesAt (s.payload 0x38 0) 112 8 ++ bytesAt (s.payload 0x38 0) 124 4

/-- Custodian's registers differ from the parameter store (R397). -/
def State.custDiffers (s : State) : Bool :=
  siAll.any (fun n => decide (s.saf.cust.si.get n ≠ s.payload 0x80 n.val)) || decide (s.saf.cust.safety ≠ s.payload 0x81 0) || decide (s.saf.cust.ov ≠ s.custOv)

/-- The domains that a fault of class F3 takes from Callisto's permits (R394). -/
def faultDoms (code inst : Nat) : List Nat :=
  let ofStage (c : Nat) : List Nat := match stageOf (chanAt c) with
    | .setA => [0]
    | .setB => [1]
    | .chopper => [2]
    | .pfc => [3]
    | .dab => [3]
    | .dcx => []
    | .sr => []
    | .buck _ => []
    | .park => [5]
    | .shift => [6]
  if code = missCode then [0, 1]
  else if 0x1801 ≤ code ∧ code ≤ 0x1807 then [inst % 2]
  else if 0x1810 ≤ code ∧ code ≤ 0x1812 then [0, 1]
  else if (0x2801 ≤ code ∧ code ≤ 0x280F) ∨ code = 0x4803 ∨ code = 0x4805 ∨ code = 0x4807 ∨ code = 0x0017 then ofStage inst
  else if code = 0x0016 ∨ (code = 0x7002 ∧ inst = 21) then [3]
  else if (0x3001 ≤ code ∧ code ≤ 0x3010) ∨ (0x4001 ≤ code ∧ code ≤ 0x400D) ∨ code = 0x6002 then [3]
  else if code = 0x5006 then [5]
  else if 0x5001 ≤ code ∧ code ≤ 0x5009 then [if inst = 0 then 5 else 6]
  else []

/-- The domains of the users of a position interface, which an F3 fault of the interface stops (R212, R394). -/
def State.posDoms (s : State) (inst : Nat) : List Nat :=
  let ifc (t : Nat) : Ifc := ⟨s.pu 0x30 (if s.pu 0x30 0 0 = 2 then 0 else t) 20 % 12, Nat.mod_lt _ (by decide)⟩
  let uses (t : Nat) : Bool := s.fn t && (decide ((ifc t).val = inst) || ((s.pos.get (ifc t)).aid && decide (s.pu 0x40 (ifc t) 24 = inst)))
  (if uses 0 then [0] else []) ++ (if uses 1 then [1] else [])
    ++ (if inst = 8 then [5] else []) ++ (if inst = 9 then [6] else [])

/-- The domains of the function that an active fault of class F3 stops (R394). -/
def State.ownDoms (s : State) (f : ActiveFault) : List Nat :=
  if f.cls ≠ 3 then [] else if 0x2001 ≤ f.code ∧ f.code ≤ 0x200A then s.posDoms f.inst else faultDoms f.code f.inst

/-- The domains that an active fault takes from Callisto's permits. A short takes none while the watch window of its stage is open: switches
that are on stay on in it (R256). 0x4005 and 0x4007 stop the charger on request, so they take none while the ramp of R281 runs (R333, R338); a fault of
an actuator's Hall set takes none while the bridge brakes (R375). -/
def State.takenDoms (s : State) (f : ActiveFault) : List Nat :=
  if (f.code = 0x2801 ∨ f.code = 0x2802) ∧ (s.gd.st.get (stageOf (chanAt f.inst))).watch.isSome = true then []
  else if (f.code = 0x4005 ∨ f.code = 0x4007) ∧ s.dab.stopRamp.isSome = true then []
  else if f.inst = 8 ∧ 0x2001 ≤ f.code ∧ f.code ≤ 0x200A ∧ (s.act.get .park).phase = .braking then []
  else if f.inst = 9 ∧ 0x2001 ≤ f.code ∧ f.code ≤ 0x200A ∧ (s.act.get .shift).phase = .braking then []
  else s.ownDoms f

/-- Custodian's global permit. -/
def State.globalC (s : State) : Bool := !s.saf.held && !s.saf.safeReq && !s.saf.xtalLatch && !s.saf.watchLatch

/-- Callisto's global permit. -/
def State.globalP (s : State) : Bool := !s.saf.held && !s.saf.safeReq && !s.saf.xtalLatch

/-- Custodian's permit of a domain: no input in demand or with its test pending names it in HW_DOM (R386, R390). Domain 4 is the LV permit
pair (R381). -/
def State.domC (s : State) (d : Fin 7) : Bool :=
  if d = 4 then s.saf.lvC && !s.saf.held
  else !s.saf.held && !siAll.any (fun n => (s.cu n 16).testBit d.val && (s.siCust n || (s.cuUsed n && !(s.saf.si.get n).testDone)))

/-- Callisto's permit of a domain. -/
def State.domP (s : State) (d : Fin 7) : Bool :=
  if d = 4 then s.saf.lvP && !s.saf.held
  else !s.saf.held && !siAll.any (fun n => (s.pu 0x80 n 20).testBit d.val && (s.siCall n || s.siTestPending n))
    && !s.faults.any (fun f => (s.takenDoms f).contains d.val)

/-- PERMIT_C and PERMIT_P of a domain: global AND domain; domain 4 is the LV pair alone. -/
def State.domPermit (s : State) (d : Fin 7) : Bool × Bool :=
  if d = 4 then (s.domC d, s.domP d) else (s.globalC && s.domC d, s.globalP && s.domP d)

/-- The permit bits sent to a channel (R381). -/
def State.permit (s : State) (c : Chan) : Bool × Bool := s.domPermit (domOf c)

/-- Both permits of a set's domain. -/
def State.setPermit (s : State) (t : TSet) : Bool :=
  let p := s.domPermit (match t with
    | .a => 0
    | .b => 1)
  p.1 && p.2

/-! ## Voltages and speeds (R188, R196, R207, R211) -/

/-- V_dc,max. -/
def State.vMax (s : State) : Q := maxQ s.dc.dclT s.dc.dclC

/-- V_dc,min (R188). -/
def State.vMin (s : State) : Q := minQ s.dc.dclT s.dc.dclC

/-- V_dc,min as the comparisons of torque management take it: after 0x1811 they all use V_dc,max (R196). -/
def State.vMinTm (s : State) : Q := if active 0x1811 noInst s then s.vMax else s.vMin

/-- A sense die's samples are stale (R22). -/
def State.dieStale (s : State) (d : Die) : Bool :=
  match d with
  | .one => s.dc.stale1
  | .two => s.dc.stale2

/-- The position interface that a set names (R181). -/
def State.setIfc (s : State) (t : TSet) : Ifc :=
  ⟨s.pu 0x30 (if s.pu 0x30 0 0 = 2 then 0 else t.num) 20 % 12, Nat.mod_lt _ (by decide)⟩

/-- The Hall set that aids an encoder (R210, R230). -/
def State.aidIfc (s : State) (i : Ifc) : Ifc := ⟨s.pu 0x40 i 24 % 12, Nat.mod_lt _ (by decide)⟩

/-- What an interface reports: an encoder before its first index event takes angle, speed and VALID from its Hall aid (R212, R230). -/
def State.posView (s : State) (i : Ifc) : PosSt :=
  let p := s.pos.get i
  if p.aid then
    let h := s.pos.get (s.aidIfc i)
    { p with valid := h.valid && !p.bad, angle := h.angle, speed := h.speed, still := h.still, neg := h.neg }
  else p

/-- The interface is VALID (R212). -/
def State.posValid (s : State) (i : Ifc) : Bool := (s.posView i).valid

/-- HALL_ANG of a code (R210). -/
def State.hallAng (s : State) (i : Ifc) (c : Nat) : Nat := s.pu 0x40 i (16 + 4 * c)

/-- The width of a Hall sector: the distance to the next edge in the positive direction. -/
def State.hallWidth (s : State) (i : Ifc) (c : Nat) : Nat :=
  let d (k : Nat) : Nat := ang ((s.hallAng i k : Int) - s.hallAng i c)
  (([1, 2, 3, 4, 5, 6].filter (fun k => decide (k ≠ c))).map d).foldl min (2 ^ 32 - 1)

/-- The angle of one count of an edge interface (R230, R233): an encoder count, or the present Hall sector. -/
def State.countAngle (s : State) (i : Ifc) : Nat :=
  if i.val = 4 ∨ i.val = 5 then s.pu 0x40 i 0 * 2 ^ 32 / (4 * max (s.pu 0x40 i 20) 1)
  else s.hallWidth i (s.edge.get i).lastCode

/-- ω_e of an edge interface `dt` after its edge, limited to one count over that time (R236). -/
def State.edgeSpeed (s : State) (i : Ifc) (dt : Q) : Q :=
  let w := (s.pos.get i).speed
  if (s.edge.get i).mean < dt then
    let lim := divQ (angToRad (s.countAngle i)) dt
    clampQ (-lim) lim w
  else w

/-- A raw Hall angle with ANGLE_OFS and DIR (R217, R233). -/
def State.hallOut (s : State) (i : Ifc) (x : Nat) : Nat := ang ((s.pu 0x40 i 4 : Int) + (if s.pu 0x40 i 8 = 1 then -(x : Int) else x))

/-- The middle of a code's sector. -/
def State.hallMid (s : State) (i : Ifc) (c : Nat) : Nat := s.hallOut i (ang ((s.hallAng i c : Int) + s.hallWidth i c / 2))

/-- How far the angle may run on from the last edge: one count, or to the far boundary of the Hall sector (R230, R233). -/
def State.edgeRoom (s : State) (i : Ifc) : Nat := if (s.edge.get i).mid then s.countAngle i / 2 else s.countAngle i

/-- θ_s and ω_e of one interface at an instant `dt` seconds after its last update or edge (R217, R223, R230, R233). -/
def State.posRaw (s : State) (i : Ifc) (dt : Q) : Nat × Q :=
  let p := s.pos.get i
  if i.val < 4 then
    let lat := if i.val < 2 then 0 else s.pf 0x40 i 36
    (ang ((p.angle : Int) + radToAng (p.speed * (dt + lat))), p.speed)
  else
    let w := s.edgeSpeed i dt
    if 6 ≤ i.val ∧ w = 0 then (s.hallMid i (s.edge.get i).lastCode, w)
    else
      let lim : Int := s.edgeRoom i
      let d := radToAng (w * dt)
      (ang ((p.angle : Int) + (if d < -lim then -lim else if lim < d then lim else d)), w)

/-- θ_s and ω_e: an encoder before its first index takes them from its Hall aid (R230). -/
def State.posAt (s : State) (i : Ifc) (dt : Q) : Nat × Q :=
  if (s.pos.get i).aid then s.posRaw (s.aidIfc i) dt else s.posRaw i dt

/-- ω_e of a set, rad/s. -/
def State.omegaE (s : State) (t : TSet) : Q := (s.posView (s.setIfc t)).speed

/-- ω_m = ω_e / POLE_PAIRS of a set (R185, R207). -/
def State.omegaM (s : State) (t : TSet) : Q :=
  s.omegaE t / max (s.pu 0x38 0 (match t with
    | .a => 32
    | .b => 36)) 1

/-- The speed is below the standstill threshold (R37). -/
def State.standstill (s : State) : Bool :=
  let one (t : TSet) : Bool := !s.fn t.num || decide (absQ (s.omegaM t) < s.pf 3 0 8)
  one .a && one .b

/-- E_est² = 3 × PSI_PM² × ω_e² (R204). -/
def State.eEst2 (s : State) (t : TSet) : Q :=
  let p := s.pf 0x30 t.num 64
  let w := s.omegaE t
  3 * p * p * w * w

/-- I_FS of a set, A. -/
def iFsOf (s : State) (t : TSet) : Q := s.pf 0x30 t.num 24

/-! ## Thermal reads (R353, R357) -/

/-- The limit the Conservator publishes for a consumer; none before its first step. -/
def State.thmLimit (s : State) (k : Nat) : Option Q := s.thm.limits.get ⟨k % 8, Nat.mod_lt _ (by decide)⟩

/-- The junction estimate of a switch. -/
def State.tj (s : State) (c : Chan) : Q := (s.thm.sw.get c).tj

/-- I_out: the sum of the sampled phase currents (R297); a phase that is not active carries none. -/
def State.iOut (s : State) : Q := s.lvc.act.foldl (fun a n => a + s.lvc.ph.get n) 0

/-- v_fb of the buck: the remote reading while remote sense is in use, else the local one (R302). -/
def State.vFb (s : State) : Q := if s.lvc.fbLocal then s.lvc.ls else s.lvc.rs

/-- The 48 V load estimate of R299: I_out × V_out / V48, V_out being the reading that the buck regulates (DEDUCED, log entry 47). -/
def State.i48 (s : State) : Q := divQ (s.iOut * s.vFb) s.lvc.v48

/-- The driving and the sinking leg for a Hall code and a direction (R363). -/
def commLegs (s : State) (a : Act) (code : Nat) (neg : Bool) : Nat × Nat :=
  let f := s.pu 0x78 a.num 0 / 16 ^ (code - 1) % 16
  if neg then (f / 4, f % 4) else (f % 4, f / 4)

/-- The current of a leg of an actuator bridge: the driving leg carries i_act, the sinking leg its negation, the third 0 (R364). -/
def State.actLeg (s : State) (a : Act) (leg : Nat) : Q :=
  match (s.act.get a).comm with
  | .drive h l => if leg = h then (s.act.get a).iAct else if leg = l then -(s.act.get a).iAct else 0
  | _ => 0

/-- The leg current of a channel and the commutated voltage, as the table of R352 gives them; the chopper's current is taken with the sign that
makes it positive from drain to source in BC_L (log entry 63). -/
def State.legCurrent (s : State) (c : Chan) : Q × Q :=
  let code (t : TSet) (x : Int) : Q := (x : Q) / 2 ^ 23 * iFsOf s t
  let ph (t : TSet) (k : Nat) : Q :=
    let o := s.orr.get t
    if k = 0 then code t o.iu else if k = 1 then code t o.iv else code t o.iw
  match stageOf c with
  | .setA => (ph .a (c.val / 2), (s.octl.get .a).vdc)
  | .setB => (ph .b ((c.val - 6) / 2), (s.octl.get .b).vdc)
  | .chopper => (-(divQ s.vMax (s.pf 0x38 0 100)), s.vMax)
  | .pfc => (if c.val < 15 then s.pfc.ia else if c.val < 17 then s.pfc.ib else s.pfc.ic, s.dab.vbus)
  | .dab =>
    if c.val < 23 then (s.dab.tank, s.dab.vbus) else (s.dab.tank * s.pf 0x50 1 16, s.vMax)
  | .dcx => (2 * s.i48 / 16, s.vMax)
  | .sr => (2 * s.i48, s.lvc.v48)
  | .buck n => (s.lvc.ph.get n, s.lvc.v48)
  | .park => (s.actLeg .park ((c.val - 43) / 2), (s.act.get .park).vs)
  | .shift => (s.actLeg .shift ((c.val - 49) / 2), (s.act.get .shift).vs)

/-- The channel is a low side: odd indices to 11, BC_L, even ones above, and both rectifiers (R43, R257). -/
def isLow (c : Chan) : Bool := if c.val < 12 then decide (c.val % 2 = 1) else if c.val = 12 then true else decide (c.val = 29 ∨ c.val % 2 = 0)

/-- i_sw: drain to source; the low side carries the negation of the leg current (R352). -/
def State.iSw (s : State) (c : Chan) : Q := if isLow c then -(s.legCurrent c).1 else (s.legCurrent c).1

/-- A bilinear lookup in a 16 × 16 table of the switch thermal model at a byte offset (R353, R360). -/
def State.lossTable (s : State) (c : Chan) (off : Nat) (i tj : Q) : Q :=
  let p := s.payload 0x70 c
  let it := fAt p 64
  let lo := fAt p 68
  let hi := fAt p 72
  let a := clampQ 0 15 (divQ ((i + it) * 15) (2 * it))
  let b := clampQ 0 15 (divQ ((tj - lo) * 15) (hi - lo))
  let j := min (floorN a) 14
  let k := min (floorN b) 14
  let e (x y : Nat) : Q := fAt p (off + 4 * (16 * x + y))
  let fa := a - j
  let fb := b - k
  (1 - fa) * (1 - fb) * e j k + fa * (1 - fb) * e (j + 1) k + (1 - fa) * fb * e j (k + 1) + fa * fb * e (j + 1) (k + 1)

/-- The energy of a turn-on, J: E_ON × V / V_REF when i_sw is above 0 (R353). -/
def State.onEnergy (s : State) (c : Chan) : Q :=
  if s.hasRec 0x70 c = true ∧ 0 < s.iSw c then s.lossTable c 1104 (s.iSw c) (s.tj c) * divQ (s.legCurrent c).2 (s.pf 0x70 c 76) else 0

/-- The energy of a turn-off, soft ones included, after `ns` of conduction, J: |i_sw| × V_cd × t, with the dead times where i_sw is
negative, and E_OFF × V / V_REF when i_sw is above 0 (R353). -/
def State.offEnergy (s : State) (c : Chan) (ns : Nat) : Q :=
  if s.hasRec 0x70 c = false then 0
  else
    let i := s.iSw c
    let dead : Q := if i < 0 then (s.pu 0x20 (grpOf c) 16 + s.pu 0x20 (grpOf c) 20 : Nat) / 10240000000 else 0
    let cd := absQ i * s.lossTable c 80 i (s.tj c) * ((ns : Q) / 1000000000 + dead)
    cd + (if 0 < i then s.lossTable c 2128 i (s.tj c) * divQ (s.legCurrent c).2 (s.pf 0x70 c 76) else 0)

/-- How long an output has been on, by the count of Meridian's time, ns. -/
def State.onNs (s : State) (c : Chan) : Nat := s.mer.ns - (s.gd.ch.get c).since

/-! ## Gate outputs (R20, R244, R247, R248, R255) -/

/-- A latched flag of the channel is set (R255). -/
def GdChan.latched (x : GdChan) : Bool := x.bstOff || x.link || x.rb || x.gc || x.desat

/-- A channel changed by a function. -/
def State.updCh (s : State) (c : Chan) (f : GdChan → GdChan) : State := { s with gd := { s.gd with ch := s.gd.ch.upd c f } }

/-- Stamp the time of a latched flag (GD_Cn_LAST); an output that is off is held by the clamp (R255). -/
def stamp (c : Chan) (s : State) : State :=
  s.updCh c (fun x => { x with last := s.timeNs % 2 ^ 32, clamp := x.clamp || (decide (c.val < 29) && decide (x.out = .off)) })

/-- BLANK of a channel, ns (R244). -/
def State.blankNs (s : State) (c : Chan) : Nat := (s.pu 0x10 c 24 + 1) * 100

/-- OSD_I decoded: the test current of off-state diagnostics, µA; 0 is no test (R244). -/
def osdMicroAmp (code : Nat) : Nat := match code % 4 with
  | 0 => 0
  | 1 => 50
  | 2 => 250
  | _ => 1000

/-- The Miller clamp engages in the off state where the record enables it. -/
def State.clampOn (s : State) (c : Chan) : Bool := decide (c.val < 29) && decide (s.pu 0x10 c 20 = 1)

/-- The sink current of a turn-off (R244). -/
def sinkSeq (s : State) (c : Chan) : List (Nat × Nat) := [((s.pu 0x10 c 12 + 1) * (if c.val < 29 then 500 else 250), 0)]

/-- The current of a soft turn-off (R244, R248). -/
def softSeq (s : State) (c : Chan) : List (Nat × Nat) := [((s.pu 0x10 c 16 + 1) * 500, 0)]

/-- The source currents of a turn-on in turn (R244, R247). -/
def sourceSeq (s : State) (c : Chan) : List (Nat × Nat) :=
  if c.val < 29 then
    let t := s.pu 0x10 c 8
    let last := ((s.pu 0x10 c 4 + 1) * 500, 0)
    if t = 0 then [last] else [((s.pu 0x10 c 0 + 1) * 500, t), last]
  else [((s.pu 0x10 c 4 + 1) * 250, 0)]

/-- An output that is on turns off with SINK against its command, after `ns` of conduction; a running soft turn-off is not changed (R20,
R248). -/
def offSinkAt (ns : Nat) (c : Chan) (s : State) : State :=
  if (s.gd.ch.get c).out = .on then
    s.updCh c (fun x => { x with out := .off, needEdge := x.cmd, clamp := s.clampOn c, drive := sinkSeq s c, acc := x.acc + s.offEnergy c ns })
  else s

/-- An output that is on begins a soft turn-off, after `ns` of conduction (R248). -/
def offSoftAt (ns : Nat) (c : Chan) (s : State) : State :=
  if (s.gd.ch.get c).out = .on then s.updCh c (fun x => { x with out := .soft, needEdge := x.cmd, drive := softSeq s c, softT := 0, acc := x.acc + s.offEnergy c ns }) else s

/-- A turn-off with SINK of an output that has been on since its turn-on. -/
def offSink (c : Chan) (s : State) : State := offSinkAt (s.onNs c) c s

/-- A soft turn-off of an output that has been on since its turn-on. -/
def offSoft (c : Chan) (s : State) : State := offSoftAt (s.onNs c) c s

/-- The bias bank of an isolated channel runs; any other channel needs none (R43, R66). -/
def State.biasOn (s : State) (c : Chan) : Bool := if c.val < 13 then s.sup.biasA else if c.val < 29 then s.sup.biasB else true

/-- The channel's own rails are there and inside their windows: an isolated channel takes them from its bias bank (R20, R43, R66). -/
def State.railsOk (s : State) (c : Chan) : Bool :=
  let x := s.gd.ch.get c
  s.biasOn c && !x.vccUv && !x.vccOv && !x.veeUv && !x.veeOv

/-- The comparator of R366 holds the high sides of an actuator bridge off for the rest of the period. -/
def State.peakCut (s : State) (c : Chan) : Bool :=
  decide (43 ≤ c.val) && decide (c.val % 2 = 1) && (if c.val < 49 then (s.act.get .park).cut else (s.act.get .shift).cut)

/-- The conditions of R20, with the latched flags of R255, the suppression of R256 and the cut of R366. -/
def mayTurnOn (s : State) (c : Chan) : Bool :=
  let x := s.gd.ch.get c
  let p := s.permit c
  p.1 && p.2 && s.railsOk c && !x.latched && !s.gd.hsFailed.contains c && (s.gd.st.get (stageOf c)).watch.isNone && !s.peakCut c

/-- One tick of a soft turn-off that runs: it ends once ch_OUT is below VEE2 + 2.0 V, which the load decides, and then the clamp
holds the output, whatever CLAMP_EN says (R21, R248). -/
def softTick (s : State) (c : Chan) : State :=
  if (s.gd.ch.get c).out = .soft then
    s.updCh c (fun x => if Config.softDone c.val x.since x.softT then { x with out := .off, clamp := true, drive := [], softT := 0 } else { x with softT := x.softT + 1 })
  else s

/-- One tick of every soft turn-off that runs. -/
def softTicks (s : State) : State := allChans.foldl softTick s

/-! ## The legs of the non-isolated outputs (R259, R261) -/

/-- The output is a bootstrapped high side (R257). -/
def isHighSide (c : Chan) : Bool := decide (31 ≤ c.val) && decide (c.val % 2 = 1)

/-- The high side of a non-isolated leg, which holds the leg's refresh and hold. -/
def legHigh (c : Chan) : Chan := if 31 ≤ c.val ∧ c.val % 2 = 0 then chanAt (c.val - 1) else c

/-- The low side of the leg of a bootstrapped high side. -/
def legLow (c : Chan) : Chan := chanAt (c.val + 1)

/-- The leg of a channel is in a refresh. -/
def State.inRefresh (s : State) (c : Chan) : Bool := decide (31 ≤ c.val) && (s.gd.ch.get (legHigh c)).refr.isSome

/-- The leg of a channel is held off on both sides. -/
def State.legHeld (s : State) (c : Chan) : Bool := decide (31 ≤ c.val) && decide (0 < (s.gd.ch.get (legHigh c)).hold)

/-- An output turns on with its source currents (R247, R353). -/
def drvOn (c : Chan) (s : State) : State :=
  s.updCh c (fun x => { x with out := .on, needEdge := false, clamp := false, drive := sourceSeq s c, acc := x.acc + s.onEnergy c, since := s.mer.ns })

/-- Both sides of a leg are commanded on together: the first turn-off wins, a refresh is over, and neither side turns on for DT_L and DT_H
(R261). -/
def legOff (c p : Chan) (s : State) : State :=
  let s := offSink c (offSink p s)
  let s := (s.updCh c (fun x => { x with needEdge := true })).updCh p (fun x => { x with needEdge := x.cmd })
  s.updCh (legHigh c) (fun x => { x with refr := none, hold := max (s.pu 0x20 (grpOf c) 16) (s.pu 0x20 (grpOf c) 20) })

/-- A turn-on edge at a present channel (R20, R247, R248, R261): where R20 allows it the output turns on with its source
currents; with the other side of a non-isolated leg on or commanded on, both turn off; in a refresh and its hold the leg's outputs follow
those (R259). -/
def turnOn (c : Chan) (s : State) : State :=
  if s.chPresent c = false then s
  else
    let x := s.gd.ch.get c
    let s := s.updCh c (fun x => { x with cmd := true, linkOk := true })
    if x.out = .on then s
    else if x.out = .soft ∨ mayTurnOn s c = false ∨ s.legHeld c = true then s.updCh c (fun x => { x with needEdge := true })
    else
      match partner c with
      | some p =>
        if (s.gd.ch.get p).out = .on ∨ (s.gd.ch.get p).cmd = true then legOff c p s
        else if s.inRefresh c then s.updCh c (fun x => { x with needEdge := false })
        else drvOn c s
      | none => drvOn c s

/-- A commanded turn-off edge with SINK, after `ns` of conduction (R247). -/
def turnOffAt (ns : Nat) (c : Chan) (s : State) : State :=
  if (s.gd.ch.get c).out = .on then
    s.updCh c (fun x => { x with cmd := false, out := .off, clamp := s.clampOn c, drive := sinkSeq s c, acc := x.acc + s.offEnergy c ns })
  else s.updCh c (fun x => { x with cmd := false })

/-- A commanded turn-off edge of an output that has been on since its turn-on. -/
def turnOff (c : Chan) (s : State) : State := turnOffAt (s.onNs c) c s

/-- A channel whose group or stage stops: off with SINK, nothing commanded. -/
def stopChan (s : State) (c : Chan) : State := (offSink c s).updCh c (fun x => { x with cmd := false, needEdge := false, refr := none })

/-- A side of a set carries a latched flag or failed its handshake (R203). -/
def State.sideFlagged (s : State) (cs : List Chan) : Bool := cs.any (fun c => (s.gd.ch.get c).latched || s.gd.hsFailed.contains c)

/-! ## Groups (R139, R140) -/

/-- The group serves a present function. -/
def State.grpPresent (s : State) (g : Grp) : Bool := s.fn (grpFn g)

/-- The set of a traction group. -/
def grpSet (g : Grp) : Option TSet := if g = 0 then some .a else if g = 1 then some .b else none

/-- The set's group or, for the other groups, its function keeps nothing that only a running carrier has: the chopper is no
longer active (R197) and a bridge commutates no leg (R363). -/
def haltOwner (g : Grp) (s : State) : State :=
  if g = 2 then { s with dc := { s.dc with bcActive := false, bcDuty := 0 } }
  else if g = 8 then { s with act := s.act.upd .park (fun x => { x with comm := .off }) }
  else if g = 9 then { s with act := s.act.upd .shift (fun x => { x with comm := .off }) }
  else s

/-- A set without an update: nothing is clamped or limited, nothing is learned (R169, R173, R177). -/
def OrrView.still (v : OrrView) : OrrView := { v with tclip := false, wclip := false, ilimAct := false, learn := false }

/-- A group's carrier stops (R140). -/
def haltGroup (g : Grp) (s : State) : State :=
  let s := haltOwner g { s with pwm := s.pwm.upd g (fun x => { x with running := false, latched := false, next := none, reqPeriod := none, stretch := 0, preLeft := 0 }) }
  match grpSet g with
  | some t => { s with
      orr := s.orr.upd t (fun o => { o with running := false, trimLeft := 0, trimStart := false }),
      oview := s.oview.upd t OrrView.still }
  | none => s

/-- Every output of a group turns off at once and its carrier stops (R140). -/
def stopGroup (g : Grp) (s : State) : State := haltGroup g ((grpChans g).foldl stopChan s)

/-- The start trim of a traction group still runs, so it takes no latch (R160). -/
def State.trimPending (s : State) (g : Grp) : Bool :=
  match grpSet g with
  | some t => decide (0 < (s.orr.get t).trimLeft)
  | none => false

/-- MIN_PULSE of a group, ft. -/
def State.minPulse (s : State) (g : Grp) : Nat := s.pu 0x20 g 24

/-- A start of a set has been requested and its group has not started yet. -/
def State.startAsked (s : State) (t : TSet) : Bool :=
  match t with
  | .a => s.tm.startA
  | .b => s.tm.startB

/-- The Orrery at the start of a traction group: control state cleared, start trim unless ASC is left (R160, R165, R206). That the low-passes of
R177 begin at 0, and that LATE_RUN and the run of stale samples count anew, no rule says: the model's choice (log entry 57). -/
def orrStart (g : Grp) (s : State) : State :=
  match grpSet g with
  | none => s
  | some t =>
    let fromAsc := decide (2 ≤ (s.ss.get t).st)
    let trim := (s.pu 0x30 t.num 92).testBit 4 && !fromAsc
    let s := { s with
      orr := s.orr.upd t (fun o => { o with running := true, trimLeft := if trim then 64 else 0, sumU := 0, sumV := 0, sumW := 0, sumX := 0, trimStart := !trim, sumRun := 0 }),
      octl := s.octl.put t { xd := 0, xq := 0, xfw := 0, tcomp := (s.octl.get t).tcomp, w0 := 1, w1 := 0, w2 := 0, lpXd := 0, lpXq := 0, lpSd := 0, lpSq := 0, band := 0, fresh := true, vdc := (s.octl.get t).vdc, staleRun := 0 },
      oview := s.oview.upd t (fun v => { v.still with lateRun := 0, fwAct := false }) }
    match t with
    | .a => { s with tm := { s.tm with startA := false, idleA := false } }
    | .b => { s with tm := { s.tm with startB := false, idleB := false } }

/-- A set's first latch after its start ends its safe state (R206), unless Custodian holds ASC (R199). -/
def leaveAsc (g : Grp) (s : State) : State :=
  match grpSet g with
  | none => s
  | some t => if (s.ss.get t).st = 0 ∨ s.saf.ovHold = true then s else { s with ss := s.ss.upd t (fun x => { x with st := 0, window := false, trial := false }) }

/-! ## Traction safe states (R200 to R203) -/

/-- Set a set's safe-state code. -/
def setSs (t : TSet) (st : Nat) (s : State) : State := { s with ss := s.ss.upd t (fun x => { x with st := st }) }

/-- Every output of a set off, driven by Custodian (R250). -/
def driveFreewheel (t : TSet) (s : State) : State := setSs t 1 ((t.lows ++ t.highs).foldl stopChan s)

/-- Custodian's on command with both permit bits set, at a channel of a set in ASC: R20 applies unchanged, so an output with a rail
out, a latched flag or a soft turn-off that still runs stays off until a new edge (R250, R248). -/
def ascOn (s : State) (c : Chan) : State :=
  if s.chPresent c = false then s
  else
    let x := s.gd.ch.get c
    if s.railsOk c = true ∧ x.latched = false ∧ x.out ≠ .soft then
      s.updCh c (fun x => { x with cmd := true, linkOk := true, out := .on, needEdge := false, clamp := false, drive := sourceSeq s c, acc := if x.out = .on then x.acc else x.acc + s.onEnergy c, since := if x.out = .on then x.since else s.mer.ns })
    else s.updCh c (fun x => { x with cmd := true, linkOk := true, needEdge := true })

/-- A side of a set turned on as ASC: 2 the low sides, 3 the high sides; the other side is off (R203, R250). -/
def driveAsc (t : TSet) (side : Nat) (s : State) : State :=
  let on := if side = 2 then t.lows else t.highs
  let off := if side = 2 then t.highs else t.lows
  setSs t side (on.foldl ascOn (off.foldl stopChan s))

/-- A set's target and its start request are withdrawn: a set in its safe state holds its torque target at 0 (R391), and a service
routine on it is over. -/
def dropTarget (t : TSet) (s : State) : State :=
  let s := { s with otgt := s.otgt.upd t (fun o => { o with current := false, torque := 0, limit := none }), tm := { s.tm with svc := s.tm.svc.filter (fun x => decide (x.2 ≠ t)) } }
  match t with
  | .a => { s with tm := { s.tm with startA := false, tA := 0 } }
  | .b => { s with tm := { s.tm with startB := false, tB := 0 } }

/-- A present set enters its safe state: its group stops, freewheel, and the selection window opens (R200, R201). A set that is in
its safe state keeps it: ASC is left only through a trial, and freewheel stays freewheel (R204); a carrier that a new start has
begun stops again (R206). -/
def enterSafe (t : TSet) (s : State) : State :=
  if s.fn t.num = false then s
  else if (s.ss.get t).st = 0 then
    let s := driveFreewheel t (stopGroup t.grp s)
    dropTarget t { s with ss := s.ss.upd t (fun x => { x with window := true, trial := false }) }
  else dropTarget t (haltGroup t.grp s)

/-- Both sets enter their safe states. -/
def stopTraction (s : State) : State := enterSafe .b (enterSafe .a s)

/-- A class F3 fault of a set: in SIXPHASE both sets stop, else the set alone (R155). -/
def stopSetF3 (t : TSet) (s : State) : State := if s.pu 0x30 0 0 = 2 then stopTraction s else enterSafe t s

/-- A stage is a set in ASC. -/
def State.inAsc (s : State) (g : Stage) : Bool :=
  match g with
  | .setA => decide (2 ≤ (s.ss.get .a).st)
  | .setB => decide (2 ≤ (s.ss.get .b).st)
  | _ => false

/-- A class F3 fault of traction is active, the watch window of a short counted in: a set starts only once every one of them, of either
set, has cleared (R206). -/
def State.tractionBlocked (s : State) : Bool := s.faults.any (fun f => (s.ownDoms f).contains 0 || (s.ownDoms f).contains 1)

/-- The low sides of a set carry PT_EN (R243, R263). -/
def State.ptEnabled (s : State) (t : TSet) : Bool := t.lows.any (fun c => (s.pu 0x10 c 60).testBit 2)

/-! ## The bias drive (R67, R68) -/

/-- The bias drive starts, with each bank that R68 has not stopped: the crystal runs, and not both feeds are lost (R67). -/
def startBias (s : State) : State :=
  if s.xtalOk = true ∧ s.sup.holdup = false then { s with sup := { s.sup with biasA := !s.sup.biasStopA, biasB := !s.sup.biasStopB } } else s

/-- A channel without rails: its output is off with no driver and no clamp behind it, held by the pull-down alone (R43, R68). -/
def railLost (s : State) (c : Chan) : State :=
  (stopChan s c).updCh c (fun x => { x with out := .off, clamp := false, drive := [] })

/-- The channels of a bank lose their rails and switch off (R68). -/
def bankOff (lo n : Nat) (s : State) : State := (chanRange lo n).foldl railLost s

/-- With its rails gone a set in ASC freewheels (R68, R89). -/
def ascLost (s : State) : State :=
  let ss (x : SafeSet) : SafeSet := if x.st = 0 then x else { x with st := 1 }
  { s with ss := (s.ss.upd .a ss).upd .b ss }

/-- The LV converter can start: the DCX has its rails, its secondaries have completed their handshakes, and the crystal runs
(R31, R68, R70). -/
def State.lvReady (s : State) : Bool := s.xtalOk && s.sup.biasB && !s.gd.hsFailed.contains 27 && !s.gd.hsFailed.contains 28

/-! ## Charger stops (R281) -/

/-- The charger's outputs turn off at once, and S2 opens with them (R331); the relays open at MAIN_RELAY_OPEN (R281). -/
def stopCharger (s : State) : State :=
  let s := { s with chg := { s.chg with s2 := false } }
  if s.pfc.st = 0 ∧ s.dab.st = 0 ∧ (s.pwm.get 3).running = false ∧ (s.pwm.get 4).running = false then s
  else
    let s := stopGroup 4 (stopGroup 3 s)
    { s with pfc := { s.pfc with st := 5, busOk := false, ilim := false, outReady := false }, dab := { s.dab with st := 0, sag := false, iCmd := 0, win := [], revT := 0, stopRamp := none } }

/-- A stop on request: while the DAB charges, i_cmd first ramps to 0 in 100 ms, and the DAB update that reaches 0 turns both groups off;
else they turn off at once (R281). -/
def requestStop (s : State) : State :=
  if (s.dab.st = 2 ∨ s.dab.st = 3) ∧ s.dab.iCmd ≠ 0 ∧ s.dab.stopRamp = none then { s with dab := { s.dab with stopRamp := some (10 * absQ s.dab.iCmd) } }
  else if s.dab.stopRamp.isSome then s
  else stopCharger s

/-- A fault, a missing permit or a secondary of the charger that failed its handshake keeps the charger from starting (R70, R289). -/
def State.chargerBlocked (s : State) : Bool :=
  let p := s.domPermit 3
  !(p.1 && p.2) || (chanRange 13 14).any (fun c => s.gd.hsFailed.contains c) || s.faults.any (fun f => (s.takenDoms f).contains 3)

/-! ## LV converter stops (R293, R294) -/

/-- The DCX stops with the bias drive of bank B (R67). -/
def stopDcx (s : State) : State :=
  let s := [27, 28, 29, 30].foldl (fun s k => stopChan s (chanAt k)) s
  { s with lvc := { s.lvc with dcx := 0, srOn := false }, pwm := (s.pwm.upd 5 (fun g => { g with running := false })).upd 6 (fun g => { g with running := false }) }

/-- The synchronous rectifiers switch while the load estimate is at least SR_MIN, and until it falls below 0.8 × SR_MIN (R299). -/
def State.srNext (s : State) : Bool :=
  let m := s.pf 0x58 0 28
  if s.lvc.srOn then !decide (s.i48 < 4 / 5 * m) else decide (m ≤ s.i48)

/-- The rectifiers follow the load estimate while the DCX switches; those that stop turn off (R299). -/
def setSr (s : State) : State :=
  if s.lvc.dcx ≠ 0 ∧ s.srNext = true then { s with lvc := { s.lvc with srOn := true }, pwm := s.pwm.upd 6 (fun g => { g with running := true }) }
  else
    let s := stopChan (stopChan s (chanAt 29)) (chanAt 30)
    { s with lvc := { s.lvc with srOn := false }, pwm := s.pwm.upd 6 (fun g => { g with running := false }) }

/-- The buck stops into a state: 0 stopped, 4 hiccup, 5 latched. Its load on the 48 V bus ends (R299). -/
def stopBuck (k : Nat) (s : State) : State :=
  let s := (grpChans 7).foldl stopChan s
  setSr { s with lvc := { s.lvc with buck := k, act := [], held := [], delay := Tab.fill 0, waiting := [], slots := [], resp := 0, ilim := false, fold := false, ovHold := false, ssRate := 0 }, pwm := s.pwm.upd 7 (fun g => { g with running := false, preLeft := 0 }) }

/-- A buck phase stops: both its outputs are off and it is no longer active (R242, R316). -/
def stopPhase (n : Fin 6) (s : State) : State :=
  let s := stopChan (stopChan s (buckHigh n)) (buckLow n)
  { s with lvc := { s.lvc with act := s.lvc.act.filter (fun m => decide (m ≠ n)), held := s.lvc.held.filter (fun m => decide (m ≠ n)), delay := s.lvc.delay.put n 0, waiting := s.lvc.waiting.filter (fun m => decide (m ≠ n)) } }

/-- The converter stops, for a fault of its own or for READY; a fault also removes the LV permit pair (R293, R294). -/
def stopLv (f3 : Bool) (s : State) : State :=
  let s := stopDcx (stopBuck 0 s)
  let s := { s with lvc := { s.lvc with due := false, f3Stop := f3 || s.lvc.f3Stop } }
  if f3 then { s with saf := { s.saf with lvC := false, lvP := false } } else s

/-! ## Actuators (R371, R375) -/

/-- A park-lock sequence runs. -/
def State.parkRunning (s : State) : Bool := decide ((s.act.get .park).seq ≠ 0)

/-- A shift sequence runs. -/
def State.shiftRunning (s : State) : Bool := decide ((s.act.get .shift).seq ≠ 0)

/-- POS of ACT_Aa_STATUS: park 0 unknown, 1 released, 2 engaged, 3 between; shift 0 unknown, 1 gear 1, 2 N, 3 gear 2,
4 between. -/
def State.actPosCode (s : State) (a : Act) : Nat :=
  let x := s.act.get a
  match x.ref with
  | none =>
    match a with
    | .park => if s.parkRunning then 0 else if s.si3Eng then 2 else if s.si3Rel then 1 else 0
    | .shift => 0
  | some r =>
    let p := (s.pos.get a.ifc).count - r
    let near (k : Nat) : Bool := decide ((p - s.pi 0x78 a.num (68 + 4 * k)).natAbs ≤ s.pu 0x78 a.num 64)
    match a with
    | .park => if near 0 then 1 else if near 1 then 2 else 3
    | .shift => if near 0 then 1 else if near 1 then 2 else if near 2 then 3 else 4

/-- Off-state diagnostics are due before a start of the stage: OSD_I set on a high side, and neither a pass nor, below 5 V of V_bus, a buck
phase's "not tested" yet (R262). -/
def State.diagDue (s : State) (g : Stage) : Bool :=
  (stageChans g).any (fun c => decide (s.pu 0x10 c 60 % 4 ≠ 0)) && decide ((s.gd.st.get g).osd ≠ 1 ∧ (s.gd.st.get g).osd ≠ 3)

/-! ## Lockstep pairs (R402) -/

/-- A pair runs. -/
def pairRunning (s : State) (p : LPair) : Bool := decide ((s.lks.pairs.get p).st = 1)

/-! ## Which stages run, which groups may start -/

/-- The stage runs: its group or its converter state. -/
def State.stageRuns (s : State) (g : Stage) : Bool :=
  match g with
  | .setA => (s.pwm.get 0).running
  | .setB => (s.pwm.get 1).running
  | .chopper => (s.pwm.get 2).running
  | .pfc => (s.pwm.get 3).running
  | .dab => (s.pwm.get 4).running
  | .dcx => decide (s.lvc.dcx ≠ 0)
  | .sr => decide (s.lvc.dcx ≠ 0) && s.lvc.srOn
  | .buck n => decide (s.lvc.buck = 2 ∨ s.lvc.buck = 3) && s.lvc.act.contains n
  | .park => (s.pwm.get 8).running
  | .shift => (s.pwm.get 9).running

/-- A set's source is the interface, or the encoder that the interface aids (R181, R230). -/
def State.setUses (s : State) (t : TSet) (i : Ifc) : Bool :=
  s.fn t.num && (decide (i = s.setIfc t) || ((s.pos.get (s.setIfc t)).aid && decide (i = s.aidIfc (s.setIfc t))))

/-- An emulation takes its steps from the interface (R238). -/
def State.emUses (s : State) (i : Ifc) : Bool := ([10, 11] : List Ifc).any (fun e => s.hasRec 0x40 e && decide (s.pu 0x40 e 20 = i.val))

/-- A user of a position interface runs: a set whose group runs, an actuator in a sequence, or an emulation (R212). -/
def State.posUserRuns (s : State) (i : Ifc) : Bool :=
  (s.setUses .a i && (s.pwm.get 0).running) || (s.setUses .b i && (s.pwm.get 1).running)
    || (decide (i.val = 8) && s.parkRunning) || (decide (i.val = 9) && s.shiftRunning) || s.emUses i

/-- The function of a group runs in the present mode, its start is asked for, its permits are set, and the diagnostics of R262 and R263 are
not due (R32, R139, R140); no set starts while Custodian holds ASC (R199) or its position
is not VALID (R212). -/
def State.grpMayStart (s : State) (g : Grp) : Bool :=
  let p := s.domPermit (match g.val with
    | 0 => 0
    | 1 => 1
    | 2 => 2
    | 3 => 3
    | 4 => 3
    | 5 => 4
    | 6 => 4
    | 7 => 4
    | 8 => 5
    | _ => 6)
  let asked := match g.val with
    | 0 => decide (s.sys.mode = .drive) && s.tm.startA && !s.saf.ovHold
    | 1 => decide (s.sys.mode = .drive) && s.tm.startB && !s.saf.ovHold
    | 2 => decide (s.sys.mode = .drive)
    | 3 => decide (s.pfc.st ≠ 0) && decide (s.pfc.st ≠ 5)
    | 4 => decide (s.dab.st ≠ 0)
    | 5 => decide (s.lvc.dcx ≠ 0)
    | 6 => decide (s.lvc.dcx ≠ 0) && s.lvc.srOn
    | 7 => decide (s.lvc.buck = 2 ∨ s.lvc.buck = 3)
    | 8 => s.parkRunning
    | _ => s.shiftRunning
  let tested := match grpSet g with
    | some t => s.posValid (s.setIfc t) && (!s.ptEnabled t || decide ((s.gd.st.get t.stage).osd = 1) || (decide ((s.gd.st.get t.stage).osd = 3) && decide (s.pf 3 0 8 ≤ absQ (s.omegaM t))))
    | none => if g = 8 then decide ((s.act.get .park).phase ≠ .diag) else if g = 9 then decide ((s.act.get .shift).phase ≠ .diag) else true
  p.1 && p.2 && asked && tested && !(grpChans g).any (fun c => s.gd.hsFailed.contains c)

/-! ## Charging reads (R324, R339, R501) -/

/-- The request bits of the mode request, 0 while its stream is not valid. -/
def State.vehReq (s : State) : Nat := if s.veh.mode.isSome then s.veh.req else 0

/-- The BMS limit message is valid. -/
def State.bmsValid (s : State) : Bool := s.veh.bms.isSome

/-- I_MAX_BMS, V_MAX_BMS, FULL; nothing allowed while the message is not valid. -/
def State.bmsLimits (s : State) : Q × Q × Bool := s.veh.bms.getD (0, 0, false)

/-- A pilot or proximity connection is present (R324). -/
def State.connected (s : State) : Bool := s.fn 9 && (decide (s.chg.pp ≠ 0) || decide (2 ≤ s.chg.hi))

/-- The fabric ports. -/
def portAll : List Port := List.finRange 4

/-! ## What the N9 sends -/

/-- Put a frame or an answer into the outbox (log entry 16). -/
def send (e : Emit) (s : State) : State := { s with out := e :: s.out }

/-- UDS is served on a path: the interfaces run, Ganymede runs, and the path is configured; without a Catalogue only CAN1 (R109, R506). -/
def State.udsServed (s : State) (p : UPath) : Bool :=
  s.sup.ifaces && s.ganyOn &&
    (if s.cat.recovery then decide (p = .can1) && s.canOn 0 && !(s.vif.can.get 0).stb && decide ((s.vif.can.get 0).st ≠ 2)
     else match p with
      | .can1 => s.canOn 0 && s.hasRec 0xA0 0 && decide (s.pu 0xA0 0 12 ≠ 0xFFFFFFFF) && !(s.vif.can.get 0).stb && decide ((s.vif.can.get 0).st ≠ 2)
      | .can2 => s.canOn 1 && s.hasRec 0xA0 1 && decide (s.pu 0xA0 1 12 ≠ 0xFFFFFFFF) && !(s.vif.can.get 1).stb && decide ((s.vif.can.get 1).st ≠ 2)
      | .doip => s.ethOn && s.hasRec 0xA0 2 && decide (s.pu 0xA0 2 16 ≠ 0) && s.vif.ethUp)

/-- The rates of a CAN controller, bit/s: nominal, FD data phase (0: classic), XL; the recovery settings are classic CAN at 500 kbit/s
(R109, R497). -/
def State.canRates (s : State) (n : Fin 2) : Nat × Nat × Nat :=
  if s.cat.recovery then (500000, 0, 0) else (s.pu 0xA0 n 0, s.pu 0xA0 n 4, s.pu 0xA0 n 8)

/-- The identifiers of UDS on a path: physical request, response, functional request; on DoIP the logical address. The recovery settings are
0x6F0 and 0x6F8, with no functional one (R109, R497, R506). -/
def State.udsIds (s : State) (p : UPath) : Nat × Nat × Nat :=
  if s.cat.recovery then (0x6F0, 0x6F8, 0xFFFFFFFF)
  else match p with
    | .can1 => (s.pu 0xA0 0 12, s.pu 0xA0 0 16, s.pu 0xA0 0 20)
    | .can2 => (s.pu 0xA0 1 12, s.pu 0xA0 1 16, s.pu 0xA0 1 20)
    | .doip => (s.pu 0xA0 2 16, s.pu 0xA0 2 16, 0xFFFFFFFF)

/-- The identifier that a path's responses carry. -/
def State.udsResp (s : State) (p : UPath) : Nat := (s.udsIds p).2.1

/-! ## Reset (R49, R64, R74) -/

/-- The N9 is held in reset: nRST is low, or a rail is outside its window (R64, R74). -/
def State.inReset (s : State) : Bool := !s.sup.nRst || !s.sup.railsOut.isEmpty

/-- The state of the column "In reset": while nRST is low, and from the start of ACCESSION until the Catalogue load completes (R49). In
SAFE without a Catalogue no function is configured, so `pinRun` gives the same, but for what R109 starts. -/
def pinsInReset (s : State) : Bool := !s.sup.nRst || (decide (s.sys.mode = .accession) && !s.cat.locked)

/-- The column "In SHIP". OFF has none of its own: its unpowered pins are those of SHIP (log entry 52). -/
def pinsInShip (s : State) : Bool := decide (s.sys.mode = .ship ∨ s.sys.mode = .off)

/-- The TAP takes accesses: TRST_N holds it in reset in the column "In reset", and in SHIP its pins are high impedance (R49). -/
def State.tapOn (s : State) : Bool := !pinsInReset s && !pinsInShip s

/-- A UDS positive response, on a path that is served. -/
def udsPos (p : UPath) (bytes : List Byte) (s : State) : State := if s.udsServed p then send (.uds p (s.udsResp p) bytes) s else s

/-- A UDS negative response to a service, on a path that is served. -/
def udsNeg (p : UPath) (sid nrc : Nat) (s : State) : State :=
  if s.udsServed p then send (.uds p (s.udsResp p) [0x7F, BitVec.ofNat 8 sid, BitVec.ofNat 8 nrc]) s else s

/-- Keep a routine's result for requestRoutineResults. -/
def setResult (rid : Nat) (bytes : List Byte) (s : State) : State :=
  { s with uds := { s.uds with results := (rid, bytes) :: s.uds.results.filter (fun r => decide (r.1 ≠ rid)) } }

/-- Note a refusal for REFUSE of the Status message (R502). -/
def noteRefuse (code : Nat) (s : State) : State := { s with veh := { s.veh with refuse := code, refuseMs := 1000 } }

/-- Take the next free number. -/
def takeFree (s : State) : Nat × State := (Config.freeNat s.freeIx, { s with freeIx := s.freeIx + 1 })

/-- Take the next free either-or. -/
def takeChoice (s : State) : Bool × State := (Config.choice (s.freeIx + 2), { s with freeIx := s.freeIx + 1 })

end Sys2Proof.Machine
end

