-- ==== Sys2Proof/Machine/Route.lean ====
section
/-! DEFINITION. Identities, addresses and routes of the fabric (R453 to R456), and what the OTP words say (R512, R518). -/

namespace Sys2Proof.Machine

/-! ## OTP words (R512, R518) -/

/-- The number of 1 bits among `n` bits of a word from bit `lo`. -/
def onesFrom (w : Nat) (lo : Nat) : Nat → Nat
  | 0 => 0
  | n + 1 => onesFrom w lo n + b2n (w.testBit (lo + n))

/-- A lifecycle byte counts as set when at least 5 of its bits read 1. -/
def State.lcSet (s : State) (k : Nat) : Bool := decide (5 ≤ onesFrom (s.otp.get 5).toNat (8 * k) 8)

/-- The lifecycle code of R518. -/
def State.life (s : State) : Nat :=
  if s.lcSet 3 then 4 else if s.lcSet 2 then 3 else if s.lcSet 1 && !s.lcSet 0 then 2 else if s.lcSet 0 then 1 else 0

/-- The anti-rollback counter. -/
def State.arbCount (s : State) : Nat := onesFrom (s.otp.get 6).toNat 0 64

/-- An OEM slot is revoked: at least 3 of its 4 bits read 1. -/
def State.revoked (s : State) (k : Nat) : Bool := decide (3 ≤ onesFrom (s.otp.get 7).toNat (4 * k) 4)

/-- The 256 bits of an OEM key hash. -/
def State.oemHash (s : State) (k : Nat) : List Nat := [0, 1, 2, 3].map (fun j => (s.otp.get (8 + 4 * k + j)).toNat)

/-- An OEM slot is empty while every bit of its hash reads 0. -/
def State.oemEmpty (s : State) (k : Nat) : Bool := (s.oemHash k).all (fun w => decide (w = 0))

/-! ## Identities and addresses (R453 to R455) -/

/-- The 8-byte fabric identity: OTP word 4. -/
def State.ident (s : State) : Nat := (s.otp.get 4).toNat

/-- The advert that this node would send now. -/
def ownAdvert (s : State) : Advert :=
  { id := s.ident, boot := s.log.boot, seq := s.fab.advSeq,
    ports := portAll.map (fun p => (p.val, (s.fab.ports.get p).st, (s.fab.ports.get p).nbrId)),
    list := s.fab.epoch, closed := s.fab.closed }

/-- The latest advert of an identity; this node's own is formed now. -/
def advertOf (s : State) (id : Nat) : Option Advert := if id = s.ident then some (ownAdvert s) else s.fab.adverts.find? (fun a => decide (a.id = id))

/-- The admitted identities, ascending: at most the 32 lowest of a closed list (R455). -/
def admittedIds (s : State) : List Nat := if s.fab.closed then s.fab.epoch.take 32 else []

/-- The address of an admitted identity: its rank. -/
def addrOf (s : State) (id : Nat) : Option Nat := (admittedIds s).findIdx? (fun x => decide (x = id))

/-- The identity at an address. -/
def idAt (s : State) (a : Nat) : Option Nat := (admittedIds s)[a]?

/-! ## Routes (R456) -/

/-- The neighbours that an identity's advert shows UP. -/
def shownUp (s : State) (id : Nat) : List Nat :=
  match advertOf s id with
  | some a => (a.ports.filter (fun p => decide (p.2.1 = 4))).map (fun p => p.2.2)
  | none => []

/-- The admitted neighbours of an identity over links that both ends show UP. -/
def nbrsOf (s : State) (id : Nat) : List Nat :=
  (shownUp s id).filter (fun n => (admittedIds s).contains n && (shownUp s n).contains id)

/-- Breadth-first search: the identities found, each with its hop count. -/
def bfs (s : State) : Nat → List Nat → Nat → List (Nat × Nat) → List (Nat × Nat)
  | 0, _, _, seen => seen
  | fuel + 1, front, d, seen =>
    match front with
    | [] => seen
    | _ =>
      let new := ((front.flatMap (nbrsOf s)).filter (fun x => !(seen.any (fun p => decide (p.1 = x))))).dedup
      bfs s fuel new (d + 1) (seen ++ new.map (fun x => (x, d + 1)))

/-- Hop counts from an identity. -/
def hopsFrom (s : State) (id : Nat) : List (Nat × Nat) := bfs s 32 [id] 0 [(id, 0)]

/-- The hop count between two identities. -/
def hops (s : State) (a b : Nat) : Option Nat := ((hopsFrom s a).find? (fun p => decide (p.1 = b))).map (·.2)

/-- The admitted identities that this node can reach, itself included. -/
def reachable (s : State) : List Nat := if s.fab.admitted then (hopsFrom s s.ident).map (·.1) else []

/-- The largest hop count between reachable nodes. -/
def diameter (s : State) : Nat :=
  (reachable s).foldl (fun m a => ((hopsFrom s a).map (·.2)).foldl max m) 0

/-- The egress port toward an identity: the neighbour one hop nearer with the lowest address, then the lowest port. -/
def egress (s : State) (dst : Nat) : Option Port :=
  match hops s s.ident dst with
  | none => none
  | some 0 => none
  | some (d + 1) =>
    let ok (p : Port) : Bool :=
      let q := s.fab.ports.get p
      decide (q.st = 4) && (nbrsOf s s.ident).contains q.nbrId && decide (hops s q.nbrId dst = some d)
    let cand := portAll.filter ok
    let best := cand.foldl (fun m p => min m ((addrOf s (s.fab.ports.get p).nbrId).getD 99)) 99
    cand.find? (fun p => decide ((addrOf s (s.fab.ports.get p).nbrId).getD 99 = best))

/-- The ports on which a broadcast or flood of a source leaves this node: those to neighbours whose own shortest path to the source comes
through this node (R456). -/
def treePorts (s : State) (src : Nat) : List Port :=
  portAll.filter (fun p =>
    let q := s.fab.ports.get p
    decide (q.st = 4) && decide (q.nbrId ≠ src) && (nbrsOf s s.ident).contains q.nbrId &&
      (match hops s src s.ident, hops s src q.nbrId with
      | some a, some b =>
        decide (b = a + 1) &&
          -- the neighbour takes the parent with the lowest address among those one hop nearer to the source
          decide ((((nbrsOf s q.nbrId).filter (fun x => decide (hops s src x = some a))).filterMap (addrOf s)).foldl min 99 = (addrOf s s.ident).getD 98)
      | _, _ => false))

/-- FAB_READY: admitted, and fabric time locked (R453). -/
def State.fabReady (s : State) : Bool := s.fn 10 && s.fab.admitted && s.fab.lock

end Sys2Proof.Machine
end

