-- ==== Sys2Proof/Machine/Vitrine.lean ====
section
/-! DEFINITION. The Vitrine (22_status_faults_log.md): what each register reads, and what a read of an RC field clears. A register whose
reset value differs from what its block shows later keeps it until the crystal is accepted (queues) or a Catalogue is
loaded (what is declared absent) (R530, log entry 39). -/

namespace Sys2Proof.Machine

/-- A register of two half words. -/
def halves (hi lo : Nat × Nat) : Nat := packFields [hi, lo]

/-- A binary flag list as a mask, least significant first. -/
def maskOf : List Bool → Nat
  | [] => 0
  | b :: bs => b2n b + 2 * maskOf bs

/-! ## SYS (R530 to R532) -/

/-- The highest class active, 7 when none is. -/
def maxClass (s : State) : Nat := if s.faults = [] then 7 else s.faults.foldl (fun m f => max m f.cls) 0

/-- `a` comes before `b` in the active list: class descending, then code ascending. -/
def faultBefore (a b : ActiveFault) : Bool := decide (b.cls < a.cls) || (decide (a.cls = b.cls) && decide (a.code ≤ b.code))

/-- Insert a fault into the sorted list. -/
def insertFault (f : ActiveFault) : List ActiveFault → List ActiveFault
  | [] => [f]
  | g :: rest => if faultBefore g f then g :: insertFault f rest else f :: g :: rest

/-- The active faults in the order of SYS_ACTIVE (R532). -/
def sortedFaults (s : State) : List ActiveFault := s.faults.foldr insertFault []

/-- The operations that wait in RAM (PENDING of SYS_START_CAUSE). -/
def pendingOps (s : State) : Nat := s.log.store.length + s.ops.waiting.length

def vitSys (s : State) (off : Nat) : Nat :=
  if off = 0 then packFields [(4, s.sys.mode.code), (4, s.sys.prev.code), bit1 s.sys.readyPin, bit1 s.sys.faultPin, bit1 s.sys.wake, bit1 s.sup.acPresent, (4, 0), (8, s.sys.ackCnt), (8, 0)]
  else if off = 4 then packFields [(3, maxClass s), bit1 (decide (64 < s.faults.length)), uField 7 s.faults.length, (2, 0), (19, maskOf ((List.range 19).map (fun n => s.faults.any (fun f => decide (shownCode f.code / 2048 = n)))))]
  else if off = 8 then s.sys.version
  else if off = 0x40 then packFields [(16, s.sup.holdMv), (6, 0), bit1 s.sup.holdup, bit1 s.sup.biasB, bit1 s.sup.biasA, bit1 s.sup.feedB.mosfet, bit1 s.sup.feedA.mosfet, bit1 s.sup.feedB.ov, bit1 s.sup.feedA.ov, bit1 s.sup.svc.stuck, bit1 s.sup.feedB.present, bit1 s.sup.feedA.present]
  else if off = 0x44 then
    let c := s.sup.cause
    packFields [uField 8 s.sup.lostWrites, uField 8 (pendingOps s), (3, 0), bit1 c.wkFeed, bit1 c.wkAc, bit1 c.wkCp, bit1 c.wkWake, bit1 c.wkSvc, (2, 0), bit1 c.rail, bit1 c.fabric, bit1 c.uds, bit1 c.svcRst, bit1 c.nrst, bit1 c.power]
  else if 0x100 ≤ off ∧ off < 0x200 then
    match (sortedFaults s)[(off - 0x100) / 4]? with
    | some f => packFields [(16, shownCode f.code), (3, f.cls), (1, 0), uField 12 f.raises]
    | none => 0
  else 0

/-! ## MER and PWM -/

def vitMer (s : State) (off : Nat) : Nat :=
  if off = 0 then packFields [uField 8 s.mer.missRun, (7, 0), (9, s.mer.ne / 16), (4, s.mer.ne % 16), bit1 s.fab.lock, bit1 (s.mer.firstCal && decide (s.mer.missRun < 4)), bit1 s.xtalOk, (1, 0)]
  else if off = 4 then packFields [(16, s.mer.swaps), (16, s.mer.limited)]
  else if off = 8 then (if s.fab.lock then (sField 32 s.mer.ftErr).2 else 0)
  else 0

/-- The domain of a group. -/
def grpDom (g : Grp) : Fin 7 :=
  match g.val with
  | 0 => 0
  | 1 => 1
  | 2 => 2
  | 3 => 3
  | 4 => 3
  | 8 => 5
  | 9 => 6
  | _ => 4

def vitPwm (s : State) (off : Nat) : Nat :=
  if 0x100 ≤ off ∧ off < 0x380 then
    let g : Grp := ⟨(off - 0x100) / 0x40 % 10, Nat.mod_lt _ (by decide)⟩
    let r := (off - 0x100) % 0x40
    let x := s.pwm.get g
    let p := s.domPermit (grpDom g)
    let mode := s.pu 0x20 g 0
    if s.grpPresent g = false then (if r = 0 ∧ s.cat.locked = true then 3 * 2 ^ 30 else 0)
    else if r = 0 then
      let st := if x.running = false then 0 else if p.1 && p.2 then 1 else 2
      if mode = 3 then st * 2 ^ 30
      else packFields [(2, st), (2, mode), (24, 0), bit1 (x.runB && decide (g = 1)), bit1 x.anchHold, bit1 x.anchLock, bit1 x.lateLast]
    else if mode = 3 then 0
    else if r = 4 then ((x.period : Int) + x.stretch).toNat % 2 ^ 24
    else if r = 8 then packFields [(16, x.minp), (16, x.clip)]
    else if r = 12 then (if (g = 1 ∧ s.pu 0x20 g 40 = 2) ∨ s.pu 0x20 g 40 = 1 then (sField 32 x.phase).2 else 0)
    else 0
  else 0

/-! ## ORR -/

/-- A current in A as a 24-bit run-time code, no sign extension. -/
def cur24 (s : State) (t : TSet) (a : Q) : Nat := (sField 24 (roundQ (divQ (a * 2 ^ 23) (iFsOf s t)))).2

def vitOrrSet (s : State) (t : TSet) (r : Nat) : Nat :=
  let v := s.oview.get t
  let o := s.orr.get t
  let c := s.octl.get t
  if s.fn t.num = false then (if r = 0 ∧ s.cat.locked = true then 3 * 2 ^ 30 else 0)
  else if r = 0 then
    let st := if 1 ≤ (s.ss.get t).st then 2 else if o.running then 1 else 0
    let bl := !(decide (c.w0 = 1) || decide (c.w1 = 1) || decide (c.w2 = 1))
    packFields [(2, st), bit1 (s.otgt.get t).current, (1, s.pu 0x30 t.num 8), (2, c.band), bit1 bl, (2, v.ovm), bit1 v.fwAct, bit1 v.ilimAct, bit1 v.tclip, bit1 v.wclip, bit1 v.learn, bit1 o.trimStart, bit1 v.lateLast, (16, 0)]
  else if r = 4 then cur24 s t v.id
  else if r = 8 then cur24 s t v.iq
  else if r = 0xC then cur24 s t v.idRef
  else if r = 0x10 then cur24 s t v.iqRef
  else if r = 0x14 then cur24 s t c.xfw
  else if r = 0x18 then halves (sScaled 16 (1 / 10) v.vq) (sScaled 16 (1 / 10) v.vd)
  else if r = 0x1C then halves (uScaled 16 (1 / 16384) v.mCmd) (uScaled 16 (1 / 16384) v.m)
  else if r = 0x20 then (sField 24 o.ofsU).2
  else if r = 0x24 then (sField 24 o.ofsV).2
  else if r = 0x28 then (sField 24 o.ofsW).2
  else if r = 0x2C then (sField 24 o.ofsX).2
  else if r = 0x30 then (uScaled 16 1 c.tcomp).2
  else if r = 0x34 then packFields [(16, v.lateTotal), (8, 0), uField 8 v.lateRun]
  else if r = 0x38 then v.theta % 2 ^ 32
  else if r = 0x3C then (sScaled 32 (1 / 100) v.we).2
  else if r = 0x40 then packFields [(16, o.trims), (16, o.sumErr)]
  else if r = 0x44 then (uScaled 16 (1 / 10) c.vdc).2
  else if r = 0x48 then (sField 24 o.ix).2
  else 0

def vitOrr (s : State) (off : Nat) : Nat :=
  if off = 0 then packFields [(22, 0), bit1 (s.fn 1), bit1 (s.fn 0), (5, 0), (1, s.pu 0x30 0 4), (2, s.pu 0x30 0 0)]
  else if 0x100 ≤ off ∧ off < 0x180 then vitOrrSet s .a (off - 0x100)
  else if 0x180 ≤ off ∧ off < 0x200 then vitOrrSet s .b (off - 0x180)
  else if off = 0x200 then packFields [(3, s.tm.limA), (3, s.tm.limB), bit1 s.tm.hold, bit1 s.tm.idleA, bit1 s.tm.idleB, bit1 s.tm.reqValid, bit1 s.tm.svc.isSome, (21, 0)]
  else if off = 0x204 then (sScaled 32 (1 / 100) s.tm.tA).2
  else if off = 0x208 then (sScaled 32 (1 / 100) s.tm.tB).2
  else if off = 0x20C then packFields [(2, (s.ss.get .a).st), (2, (s.ss.get .b).st), bit1 s.saf.ovHold, bit1 ((s.ss.get .a).window || (s.ss.get .b).window), bit1 s.ssDisagree, (9, 0), (16, s.ssTrials)]
  else if off = 0x210 then halves (uScaled 16 (1 / 10) (s.ss.get .b).ell) (uScaled 16 (1 / 10) (s.ss.get .a).ell)
  else if off = 0x214 then packFields [bit1 s.dc.bcActive, bit1 s.dc.bcStop, (14, 0), uScaled 16 (1 / 65536) s.dc.bcDuty]
  else if off = 0x218 then (uScaled 32 (1 / 10) s.dc.bcEnergy).2
  else if off = 0x21C then halves (uScaled 16 (1 / 10) s.dc.dclC) (uScaled 16 (1 / 10) s.dc.dclT)
  else 0

/-! ## POS -/

/-- The interfaces. -/
def ifcAll : List Ifc := List.finRange 12

/-- KIND of an interface. -/
def posKind (s : State) (i : Ifc) : Nat := if s.hasRec 0x40 i = false then 0xF else i.val / 2

def vitPos (s : State) (off : Nat) : Nat :=
  if off = 0 then packFields [(4, 0), (12, maskOf (ifcAll.map (fun i => s.faults.any (fun f => decide (0x2001 ≤ f.code ∧ f.code ≤ 0x200B) && decide (f.inst = i.val))))), (4, 0), (12, maskOf (ifcAll.map s.posValid))]
  else if 0x100 ≤ off ∧ off < 0x400 then
    let i : Ifc := ⟨(off - 0x100) / 0x40 % 12, Nat.mod_lt _ (by decide)⟩
    let r := (off - 0x100) % 0x40
    let p := s.posView i
    let k := posKind s i
    let calAct := decide ((s.cal.get i).n ≠ 0)
    let sync := if k = 5 then (s.em.get i).sync else false
    if r = 0 then packFields [(4, k), bit1 p.valid, bit1 p.still, bit1 p.neg, bit1 p.idxSeen, bit1 p.aid, bit1 calAct, bit1 sync, bit1 p.idxLvl, (16, 0), (4, p.code)]
    else if k = 0xF then 0
    else if r = 4 then (if 6 ≤ i.val ∧ i.val < 10 ∧ p.speed = 0 ∧ (s.edge.get i).lastCode ≠ 0 then s.hallMid i (s.edge.get i).lastCode else p.angle) % 2 ^ 32
    else if r = 8 then (sScaled 32 (1 / 100) p.speed).2
    else if r = 0xC then (sField 32 (if k = 5 then (s.em.get i).out else p.count)).2
    else if r = 0x10 then (sField 32 p.idx).2
    else if r = 0x14 then halves (16, p.idxNum) (sField 16 p.drift)
    else if r = 0x18 then packFields [uField 16 p.errTotal, uField 8 p.errTimes.length, (8, 0)]
    else if i.val < 2 then
      let x := s.res.get i
      if r = 0x1C then (uField 24 x.sdly).2
      else if r = 0x20 then (uScaled 16 (1 / 65536) x.amp).2
      else if r = 0x24 then halves (sScaled 16 (1 / 65536) x.k) (sScaled 16 (1 / 65536) x.phi)
      else if r = 0x28 then halves (sScaled 16 (1 / 65536) x.oc) (sScaled 16 (1 / 65536) x.os)
      else 0
    else 0
  else 0

/-! ## GD -/

/-- STATE of a channel: 3 held off by a latched flag. -/
def gdState (x : GdChan) : Nat :=
  match x.out with
  | .on => 1
  | .soft => 2
  | .off => if x.latched then 3 else 0

/-- KIND of a channel. -/
def gdKind (c : Chan) : Nat := if c.val < 29 then 0 else if isLow c ∨ c.val < 31 then 1 else 2

def vitGd (s : State) (off : Nat) : Nat :=
  let lat (k : Nat) : Bool := decide (k < 55) && (s.gd.ch.get (chanAt k)).latched
  if off < 0xDC0 then
    let c := chanAt (off / 0x40)
    let r := off % 0x40
    let x := s.gd.ch.get c
    if s.chPresent c = false then (if r = 0 then 3 * 2 ^ 30 else 0)
    else if r = 0 then packFields [(2, gdKind c), (2, gdState x), bit1 x.hsOk, (2, 0), bit1 x.clamp, (11, 0), bit1 x.bstUv, bit1 x.veeOv, bit1 x.veeUv, bit1 x.vccOv, bit1 x.vccUv, (3, 0), bit1 x.bstOff, bit1 x.link, bit1 x.rb, bit1 x.gc, bit1 x.desat]
    else if r = 4 then packFields [(5, s.pu 0x10 c 0), (5, s.pu 0x10 c 4), (5, s.pu 0x10 c 12), (3, s.pu 0x10 c 16), (5, s.pu 0x10 c 24), (1, s.pu 0x10 c 20), (8, 0)]
    else if r = 8 then halves (if gdKind c = 1 then (16, 0) else uScaled 16 (1 / 100) x.hi) (if gdKind c = 0 then sScaled 16 (1 / 100) x.lo else (16, 0))
    else if r = 0xC then packFields [(8, x.shorts), (8, x.race), (16, x.refresh)]
    else if r = 0x10 then x.last % 2 ^ 32
    else if r = 0x14 then x.qgc % 2 ^ 12
    else 0
  else if off = 0xE00 then packFields [(28, 0), bit1 (decide (1 ≤ (s.ss.get .b).st)), bit1 (decide (1 ≤ (s.ss.get .a).st)), bit1 s.globalP, bit1 s.globalC]
  else if off = 0xE04 then maskOf ((List.range 32).map lat)
  else if off = 0xE08 then maskOf ((List.range 23).map (fun n => lat (32 + n)))
  else if off = 0xE0C then
    let o (g : Stage) := (s.gd.st.get g).osd
    packFields [(2, o .setA), (2, o .setB), (2, o .park), (2, o .shift), (12, 0), (2, o (.buck 5)), (2, o (.buck 4)), (2, o (.buck 3)), (2, o (.buck 2)), (2, o (.buck 1)), (2, o (.buck 0))]
  else if off = 0xE10 then halves (sScaled 16 (1 / 32768) s.gd.quietA) (sScaled 16 (1 / 32768) s.gd.pulseA)
  else if off = 0xE14 then halves (sScaled 16 (1 / 32768) s.gd.quietB) (sScaled 16 (1 / 32768) s.gd.pulseB)
  else 0

/-! ## OBC, LVC, CHG -/

def vitObc (s : State) (off : Nat) : Nat :=
  let p := s.pfc
  let b := s.dab
  let tw (x : Q) := sScaled 16 (1 / 100) x
  let uv (x : Q) := uScaled 16 (1 / 10) x
  if s.fn 3 = false then (if off = 0 then packFields [(3, 7), (3, 7), (26, 0)] else 0)
  else if off = 0 then packFields [(3, p.st), (3, b.st), (2, s.pu 0x50 0 0), bit1 s.grid.lock, bit1 s.grid.ok, bit1 p.busOk, bit1 b.sag, bit1 p.ilim, bit1 (decide (0 < b.dp ∨ 0 < b.ds)), (1, p.dir), bit1 p.pre, bit1 p.main, (15, 0)]
  else if off = 4 then halves (uv s.grid.rms2) (uv s.grid.rms1)
  else if off = 8 then halves (uScaled 16 (1 / 100) (if s.grid.w = 0 then 0 else s.grid.w / (2 * piQ))) (uv s.grid.rms3)
  else if off = 0xC then halves (tw p.iq) (tw p.id)
  else if off = 0x10 then halves (uv p.busRef) (uv b.vbus)
  else if off = 0x14 then (sField 32 b.phi).2
  else if off = 0x18 then halves (uField 16 b.dp) (uField 16 b.ds)
  else if off = 0x1C then halves (tw b.ibat) (uv s.vMax)
  else if off = 0x20 then packFields [(8, p.lateTotal), (8, b.lateTotal), uField 8 p.lateRun, uField 8 b.lateRun]
  else if off = 0x24 then (sScaled 32 1 b.loss).2
  else 0

/-- V_set of R303: the last write or V_INIT inside its range, clipped to V_FB while remote sense is lost. -/
def vSet (s : State) : Q :=
  let v : Q := match s.lvc.cmd with
    | some c => (clampN 10000 16000 c.2 : Q) / 1000
    | none => s.pf 0x58 1 16
  if s.lvc.senseLost then minQ v (s.pf 0x58 1 76) else v

/-- The remote sense pair is present (R311). -/
def State.remotePresent (s : State) : Bool := decide (s.pb 0x58 1 68 1 ≠ 0xFF ∧ s.pb 0x58 1 69 1 ≠ 0xFF)

def vitLvc (s : State) (off : Nat) : Nat :=
  let l := s.lvc
  let n1 := ([0, 1, 2, 3, 4, 5] : List (Fin 6))
  if s.fn 5 = false then (if off = 0 then packFields [(3, 7), (3, 7), (26, 0)] else 0)
  else if off = 0 then packFields [(3, l.dcx), (3, if s.fn 6 then l.buck else 7), (3, l.retries), bit1 l.senseLost, bit1 l.fbLocal, bit1 (decide (l.vref ≠ vSet s)), bit1 l.fold, bit1 l.ilim, bit1 l.ovHold, bit1 l.srOn, (6, maskOf (n1.map (fun n => l.act.contains n))), (10, 0)]
  else if off = 4 then
    match l.cmd with
    | some c => packFields [(4, 0), (12, c.1), (16, c.2)]
    | none => 0
  else if off = 8 then halves (uScaled 16 (1 / 1000) (vSet s)) (uScaled 16 (1 / 1000) l.vref)
  else if off = 0xC then halves (if s.remotePresent = false then (16, 0xFFFF) else uScaled 16 (1 / 1000) l.rs) (uScaled 16 (1 / 1000) l.ls)
  else if off = 0x10 then halves (uScaled 16 (1 / 10) l.iFold) (sScaled 16 (1 / 10) s.iOut)
  else if off = 0x14 then halves (uScaled 16 100 l.freq) (uScaled 16 (1 / 100) l.v48)
  else if 0x20 ≤ off ∧ off < 0x38 then (sScaled 16 (1 / 100) (l.ph.get ⟨(off - 0x20) / 4 % 6, Nat.mod_lt _ (by decide)⟩)).2
  else if off = 0x40 then packFields [(8, l.allph), (8, l.release), (8, l.ovh), (8, l.hiccups)]
  else 0

def vitChg (s : State) (off : Nat) : Nat :=
  let c := s.chg
  let d1 (x : Q) := uScaled 16 (1 / 10) x
  if s.fn 9 = false then (if off = 0 ∧ s.cat.locked = false then 4 * 2 ^ 20 else 0)
  else if off = 0 then packFields [(4, c.phase), (2, c.role), (2, c.path), (4, c.cp), (3, c.pp), bit1 c.s2, bit1 c.roleOk, bit1 c.throt, bit1 c.lvChg, bit1 c.lvLost, (4, c.cause), (4, c.restarts), bit1 s.connected, (3, 0)]
  else if off = 4 then halves (sScaled 16 (1 / 100) c.hi) (sScaled 16 (1 / 100) c.lo)
  else if off = 8 then halves (d1 c.freq) (d1 (c.duty.getD 0))
  else if off = 0xC then halves (d1 c.iAc) (d1 c.iReq)
  else if off = 0x10 then halves (d1 c.lTh) (d1 c.iCc)
  else if off = 0x14 then c.timer / 100 % 2 ^ 32
  else if off = 0x18 then c.real / 100 % 2 ^ 32
  else if off = 0x1C then packFields [uField 8 c.pulses, uField 8 c.below, d1 c.iEnd]
  else 0

/-! ## THM and ACT -/

/-- The converter's reading of a slot whose AIN input an LV converter record names, V (R296): V48, the remote pair's difference, the
local sense. -/
def State.senseReading (s : State) (n : Fin 96) : Option Q :=
  let is (present : Bool) (b : Nat) : Bool := present && decide (b < 16) && decide (n.val = 29 + b)
  if is (s.fn 5) (s.pu 0x58 0 8) then some s.lvc.v48
  else if is (s.fn 6) (s.pb 0x58 1 68 1) || is (s.fn 6) (s.pb 0x58 1 69 1) then some s.lvc.rs
  else if is (s.fn 6) (s.pb 0x58 1 70 1) then some s.lvc.ls
  else none

/-- The housekeeping slots. -/
def slotAll : List (Fin 96) := List.finRange 96

/-- Values A and B of a slot in their LSB (R349); a TSN slot holds ohms and is converted (R350). -/
def hkWord (s : State) (n : Fin 96) : Nat :=
  let y := s.thm.slots.get n
  let x := { y with a := (s.senseReading n).getD y.a }
  let a := if n.val < 29 then
      (if x.a ≤ 0 then (16, 0) else sScaled 16 (1 / 100) (divQ 1 (1 / (29815 / 100) + divQ (lnQ (divQ x.a (s.pf 0x71 0 0))) (s.pf 0x71 0 4)) - 27315 / 100))
    else if n.val < 68 then uScaled 16 (1 / 1000) x.a else if n.val < 78 then sScaled 16 (1 / 100) x.a
    else if n.val < 84 then sScaled 16 (1 / 1000) x.a else uScaled 16 (1 / 1000) x.a
  packFields [bit1 x.stale, (3, 0), if n.val < 29 then sScaled 12 (1 / 10) x.b else (12, 0), a]

/-- The anchor group of a switch: ANC_SRC. -/
def ancSrc (s : State) (c : Chan) : Nat := s.pu 0x70 c 0

def vitThm (s : State) (off : Nat) : Nat :=
  if off = 0 then packFields [(16, s.thm.rounds), uField 8 (slotAll.foldl (fun m n => max m (s.thm.slots.get n).run) 0), (8, s.thm.missed)]
  else if off = 4 ∨ off = 8 ∨ off = 12 then maskOf ((List.range 32).map (fun n => (s.thm.slots.get ⟨(32 * ((off - 4) / 4) + n) % 96, Nat.mod_lt _ (by decide)⟩).stale))
  else if 0x40 ≤ off ∧ off < 0x60 then
    let k := (off - 0x40) / 4
    match s.thmLimit k with
    | some x => (uScaled 17 (if k = 2 then 1 / 65536 else 1 / 10) x).2
    | none => 0
  else if 0x400 ≤ off ∧ off < 0x580 then hkWord s ⟨(off - 0x400) / 4 % 96, Nat.mod_lt _ (by decide)⟩
  else if 0x800 ≤ off ∧ off < 0xB70 then
    let c := chanAt ((off - 0x800) / 0x10)
    let r := (off - 0x800) % 0x10
    let x := s.thm.sw.get c
    if s.chPresent c = false then 0
    else if r = 0 then packFields [(1, 1), bit1 x.warn, bit1 x.throt, bit1 x.cut, (12, 0), sScaled 16 (1 / 100) x.tj]
    else if r = 4 then halves (sScaled 16 (1 / 100) (((s.thm.anchors.get c).ta).getD 0)) (uScaled 16 (1 / 10) x.p)
    else if r = 8 then min (floorN (x.f * 65536)) 65536
    else 0
  else 0

/-- STATE of an actuator. -/
def actState : ActPhase → Nat
  | .idle => 0
  | .diag => 1
  | .moving => 2
  | .braking => 3
  | .awaiting => 4
  | .backing => 5
  | .stopped => 6

def vitActOne (s : State) (a : Act) (r : Nat) : Nat :=
  let x := s.act.get a
  let park := decide (a = .park)
  if s.fn (7 + a.num) = false then (if r = 0 then 7 * 2 ^ 29 else 0)
  else if r = 0 then packFields [(3, actState x.phase), (3, s.actPosCode a), bit1 x.ref.isSome, bit1 x.neg, (2, x.seq), bit1 x.ilim, bit1 (park && s.si3Eng), bit1 (park && s.si3Rel), uField 3 x.retries, uScaled 16 (1 / 65536) x.d]
  else if r = 4 then halves (sField 16 x.target) (sField 16 ((s.pos.get a.ifc).count - x.ref.getD 0))
  else if r = 8 then halves (uScaled 16 (1 / 100) x.iLimUse) (sScaled 16 (1 / 100) x.iAct)
  else if r = 0xC then packFields [(8, x.peak), (8, x.stalls), (8, x.aborts), (8, x.seqs)]
  else if r = 0x10 then x.lastMs % 2 ^ 16
  else 0

def vitAct (s : State) (off : Nat) : Nat :=
  if 0x100 ≤ off ∧ off < 0x140 then vitActOne s .park (off - 0x100)
  else if 0x140 ≤ off ∧ off < 0x180 then vitActOne s .shift (off - 0x140)
  else 0

/-! ## SAF -/

/-- The domains. -/
def domAll : List (Fin 7) := List.finRange 7

/-- One input of SAF_SI: TEST_DONE, DISC, B_DEM, A_DEM from bit 4n. An unused input reads 0. -/
def siNibble (s : State) (n : SiN) : Nat :=
  let x := s.saf.si.get n
  if s.cuUsed n then b2n x.testDone + 2 * b2n x.disc + 4 * b2n (x.b.accepted && x.b.demand) + 8 * b2n (x.a.accepted && x.a.demand) else 0

/-- The two views of an input differ now (R380). -/
def siViewsDiffer (s : State) (n : SiN) : Bool :=
  let x := s.saf.si.get n
  s.siUsed n && ((x.a.accepted && decide (x.callA ≠ x.a.demand)) || (x.b.accepted && decide (x.callB ≠ x.b.demand)))

/-- Custodian's level of SO_A, or Callisto's of SO_B: high while its SO_EN bit is set and its global permit and its permits of
every SO_DOM domain are (R392); both are low in SAFE (R391). -/
def soDriven (s : State) (b : Bool) : Bool :=
  decide (s.sys.mode ≠ .safe)
    && (if b then (s.pu 0x81 0 4).testBit 1 && s.globalP && (domAll.filter (fun d => (s.pu 0x81 0 0).testBit d.val)).all s.domP
        else (s.cuSafety 4).testBit 0 && s.globalC && (domAll.filter (fun d => (s.cuSafety 0).testBit d.val)).all s.domC)

def vitSaf (s : State) (off : Nat) : Nat :=
  if off = 0 then packFields [bit1 s.globalC, bit1 s.globalP, bit1 (s.domC 4), bit1 (s.domP 4), bit1 s.saf.safeReq, bit1 s.saf.xtalLatch, bit1 s.saf.watchLatch, bit1 s.saf.ovHold, bit1 s.saf.ptestOk, bit1 (soDriven s false != s.saf.soDiffA), bit1 (soDriven s true != s.saf.soDiffB), (21, 0)]
  else if off = 4 then packFields [(17, 0), (7, maskOf (domAll.map s.domP)), (1, 0), (7, maskOf (domAll.map s.domC))]
  else if off = 8 then siAll.foldr (fun n acc => siNibble s n + 16 * acc) 0
  else if off = 0xC then packFields [(8, 0), (8, maskOf (siAll.map (siViewsDiffer s))), (8, maskOf (siAll.map s.siCall)), (8, maskOf (siAll.map s.siCust))]
  else if off = 0x10 then packFields [(16, s.saf.cycles), (16, s.saf.overruns)]
  else if 0x100 ≤ off ∧ off < 0x180 ∧ off % 0x10 = 0 then
    let x := s.saf.si.get ⟨(off - 0x100) / 0x10 % 8, Nat.mod_lt _ (by decide)⟩
    packFields [(8, x.demands), (8, x.discs), uField 16 x.maxDisc]
  else 0

/-! ## LKS, FAB, PQ -/

def vitLks (s : State) (off : Nat) : Nat :=
  let l := s.lks
  if off = 0 then
    let f := l.fail.getD { step := 1, pair := 0, pattern := 0 }
    packFields [bit1 l.startOk, (7, 0), (2, f.pair), (2, f.step - 1), (6, 0), (6, f.pattern), (7, 0), bit1 l.fail.isSome]
  else if 0x100 ≤ off ∧ off < 0x200 then
    let x := l.pairs.get (pairAt ((off - 0x100) / 0x40))
    let r := (off - 0x100) % 0x40
    if r = 0 then packFields [(3, x.st), (5, 0), (8, x.mismatches), (8, x.restarts), (4, x.kind), (4, 0)]
    else if r = 4 then packFields [(16, x.exports), (16, x.lastWord)]
    else if r = 8 then x.time % 2 ^ 32
    else 0
  else if 0x200 ≤ off ∧ off < 0x224 then
    let b : Fin 9 := ⟨(off - 0x200) / 4 % 9, Nat.mod_lt _ (by decide)⟩
    packFields [uField 8 (l.ue.get b), (8, 0), uField 16 (l.ce.get b)]
  else if off = 0x240 then packFields [(4, l.last.1), (2, l.last.2.1), (2, l.last.2.2.1), (7, 0), (17, l.last.2.2.2)]
  else if off = 0x244 then l.syn % 256
  else if off = 0x248 then packFields [(16, l.passes), (16, l.mapPasses)]
  else if off = 0x280 then packFields [(4, maskOf (pairAll.map (fun p => decide ((l.pairs.get p).st = 4)))), (19, 0), uField 9 (pairAll.foldl (fun m p => if (l.pairs.get p).st = 4 then max m (l.pairs.get p).replay.length else m) 0)]
  else 0

/-- The link delay in use: the mean of the last 8 measurements (R459). -/
def linkDelay (p : FabPort) : Q := meanQ p.delays

def vitFab (s : State) (off : Nat) : Nat :=
  let f := s.fab
  if off = 4 then s.ident % 2 ^ 32
  else if off = 8 then s.ident / 2 ^ 32
  else if s.fn 10 = false then 0
  else if off = 0 then packFields [bit1 s.fabReady, bit1 f.lock, bit1 f.admitted, (5, if f.admitted then f.addr else 0), (5, f.timeRef), uField 6 f.epoch.length, uField 6 (reachable s).length, uField 4 (diameter s), (3, 0)]
  else if off = 0xC then maskOf ((List.range 32).map (fun a => match idAt s a with
    | some x => (reachable s).contains x
    | none => false))
  else if off = 0x10 then floorN f.time % 2 ^ 32
  else if off = 0x14 then f.timeHi % 2 ^ 32
  else if 0x100 ≤ off ∧ off < 0x200 then
    let p := f.ports.get ⟨(off - 0x100) / 0x40 % 4, Nat.mod_lt _ (by decide)⟩
    let r := (off - 0x100) % 0x40
    if r = 0 then packFields [(3, p.st), (5, p.nbrAddr), bit1 p.parent, (7, 0), uScaled 16 1 (linkDelay p)]
    else if r = 4 then packFields [(8, p.crc), (8, p.resends), (8, p.codev), (8, p.downs)]
    else if r = 8 then p.nbrId % 2 ^ 32
    else if r = 0xC then p.nbrId / 2 ^ 32 % 2 ^ 32
    else if r = 0x10 then packFields [(16, p.tx), (16, p.rxN)]
    else 0
  else if off = 0x200 then packFields [(8, f.e2e), (8, f.zctl), (8, f.unreach), (8, f.hdr)]
  else if off = 0x204 then packFields [(4, f.gopKind), (2, f.gopState), (2, 0), (8, f.missed), (16, f.gopOps)]
  else if off = 0x208 then packFields [(16, f.gaps), (16, f.empties)]
  else if off = 0x20C then f.lostc % 2 ^ 16
  else if off = 0x210 then f.gopT % 2 ^ 32
  else if off = 0x214 then f.gopT / 2 ^ 32
  else 0

/-- The classes. -/
def clsAll : List (Fin 8) := List.finRange 8

/-- The queues. -/
def qAll : List QId := List.finRange 27

/-- Occupancy of a chain: committed and open words. -/
def Chain.occ (c : Chain) : Nat := c.words.length + c.opn.length

/-- A chain holds a committed packet. -/
def Chain.ready (c : Chain) : Bool := c.words.any (·.last)

/-- The queue is present: its owner's function is (R422; a queue of an absent interface reads STATE 3). -/
def qPresent (s : State) (q : QId) : Bool :=
  if q.val < 8 then s.fn 10
  else if q.val = 8 ∨ q.val = 9 then s.hasRec 0xA0 0 || s.cat.recovery
  else if q.val = 10 ∨ q.val = 11 then s.hasRec 0xA0 1
  else if q.val = 12 ∨ q.val = 13 then s.hasRec 0xA0 2
  else true

def vitPq (s : State) (off : Nat) : Nat :=
  if off = 0 then maskOf (qAll.map (fun q => s.pqSeen.contains q))
  else if 0x100 ≤ off ∧ off < 0x460 then
    let qi : QId := ⟨(off - 0x100) / 0x20 % 27, Nat.mod_lt _ (by decide)⟩
    let r := (off - 0x100) % 0x20
    let q := s.pq.get qi
    if qPresent s qi = false ∨ s.mer.xtalAcc = false then (if r = 0 then 3 * 2 ^ 30 else 0)
    else if r = 0 then
      let oc : Nat := match q.opened with
        | some c => c.val
        | none => 0
      let rc : Nat := match q.reading with
        | some c => c.val
        | none => 0
      let st : Nat := match q.wait with
        | some w => 2 ^ w.1.val
        | none => 0
      packFields [(2, 0), bit1 q.opened.isSome, (3, oc), bit1 q.reading.isSome, (3, rc), (6, 0), (8, st), (8, maskOf (clsAll.map (fun c => (q.chains.get c).ready)))]
    else if r = 4 then packFields [(16, q.hwm), uField 16 (clsAll.foldl (fun n c => n + (q.chains.get c).occ) 0)]
    else if r = 8 then packFields [(8, q.overlong), (8, q.full), (8, q.abort), (8, q.malf)]
    else if r = 0xC then packFields [(16, q.zcommit), (16, if qi = 26 then (q.packets + s.log.accepted) % 2 ^ 16 else q.packets)]
    else if r = 0x10 then packFields [(8, q.resets), (16, q.lostLast), (1, 0), (3, q.chain), (4, q.cause)]
    else if r = 0x14 then q.time % 2 ^ 32
    else 0
  else 0

/-! ## VIF -/

/-- The message record that carries a function. -/
def msgOf (s : State) (func : Nat) : Option (Fin 256) :=
  (List.finRange 256).find? (fun m => s.hasRec 0xA1 m && decide (s.pu 0xA1 m 0 = func))

/-- The path's bits of UNLOCKED: level 0x01 and level 0x03. -/
def UPath.num : UPath → Nat
  | .can1 => 0
  | .can2 => 1
  | .doip => 2

/-- A path holds an unlock of the level that WriteDataByIdentifier and RoutineControl need. -/
def anyUnlock (s : State) : Bool := s.uds.unlocks ≠ []

def vitVif (s : State) (off : Nat) : Nat :=
  let v := s.vif
  let canSt (n : Fin 2) : Nat := if s.hasRec 0xA0 n || (s.cat.recovery && decide (n = 0)) then (v.can.get n).st else 3
  if off = 0 then
    let eth := if s.hasRec 0xA0 2 then (if v.ethUp then 0 else 1) else 3
    let ses := match s.uds.tester with
      | some p => s.uds.session.get p
      | none => 1
    packFields [(2, canSt 0), (2, canSt 1), (2, eth), (2, if s.fn 9 then v.modem else 3), (8, ses), bit1 (anyUnlock s), (15, 0)]
  else if off = 0x100 ∨ off = 0x140 then
    let c := v.can.get (if off = 0x100 then 0 else 1)
    packFields [uField 8 c.tec, uField 8 c.recn, (8, c.busoff), (8, c.rxdrop)]
  else if off = 0x180 then packFields [(8, v.linkdown), (8, v.ethDrop), (16, v.badfcs)]
  else if 0x400 ≤ off ∧ off < 0xC00 then
    let m : Fin 256 := ⟨(off - 0x400) / 8 % 256, Nat.mod_lt _ (by decide)⟩
    let x := v.streams.get m
    if (off - 0x400) % 8 = 0 then packFields [bit1 x.valid, bit1 x.timeout, (2, x.lastIf), (12, 0), (16, if s.pu 0xA1 m 0 = 0x20 ∧ s.hasRec 0xA1 m = true then v.txCnt else x.lastCnt)]
    else packFields [(8, x.reject), (8, x.lost), (8, x.repeats), (8, x.touts)]
  else 0

/-! ## SEC, LOG, PAIR -/

/-- The number of a slot's region holds so many blocks (R95). -/
def regionBlocks (region : Nat) : Nat := if region = 1 then 1028 else if region = 2 then 514 else 0

/-- The blocks of a slot's region. -/
def Flash.region (f : Flash) (sl : Slot) (region : Nat) : List (Nat × FlashBlk) :=
  match sl, region with
  | .a, 1 => f.fwA
  | .a, _ => f.catA
  | .b, 1 => f.fwB
  | .b, _ => f.catB

/-- The block at a number of a region; an unlisted one is erased. -/
def blkAt (bs : List (Nat × FlashBlk)) (n : Nat) : Option FlashBlk := (bs.find? (fun p => decide (p.1 = n))).map (·.2)

/-- The block passes its CRC. -/
def blkGood (bs : List (Nat × FlashBlk)) (n : Nat) : Bool :=
  match blkAt bs n with
  | some b => b.crcGood
  | none => false

/-- The first block of a region that fails its CRC, 0xFFFF if all pass. -/
def firstBadBlock (bs : List (Nat × FlashBlk)) (total : Nat) : Nat :=
  ((List.range total).find? (fun n => !blkGood bs n)).getD 0xFFFF

/-- The region that SEC_STAGE reports: the open one; after an abort the one that was open; after a reset, while the inactive slot reads
STAGING, the Catalogue region where a block of it is written, else the firmware region (R116; the last is the model's choice, log
entry 43). -/
def stageRegion (s : State) : Nat :=
  let x := s.cat.slotRun.other
  let staging : Bool := match s.cat.desc with
    | some d => decide ((if x = .a then d.stA else d.stB) = 1)
    | none => false
  if s.cat.stage.region ≠ 0 then s.cat.stage.region
  else if s.cat.stage.last ≠ 0 then s.cat.stage.last
  else if staging then (if (s.flash.region x 2).isEmpty then 1 else 2)
  else 0

/-- A flash operation of the staging session. -/
def isStagingOp : FlashOp → Bool
  | .stageErase => true
  | .stagePage _ => true
  | _ => false

/-- Seconds of the unlock delay that remain: 0, or a free value from 1 to 10 while it runs (the model keeps no clock for it). -/
def delayLeft (s : State) : Nat := if s.ka.unlockDelay then 1 + Config.freeNat s.freeIx % 10 else 0

def vitSec (s : State) (off : Nat) : Nat :=
  let c := s.cat
  let bits (f : Nat → Bool) : Nat := maskOf ((List.range 4).map f)
  if off = 0 then packFields [(3, s.life), bit1 s.sec.idSlot.isSome, (2, match s.sec.idSlot with
    | some k => k.val
    | none => 3), bit1 s.sec.jtagOpen, bit1 s.sec.entOk, (24, 0)]
  else if off = 4 then packFields [(20, 0), (4, s.sec.skipped), (4, bits s.revoked), (4, bits (fun k => !s.oemEmpty k))]
  else if off = 8 then packFields [(8, s.arbCount), (8, c.fwArb), (8, c.arb), (8, 0)]
  else if off = 0xC then
    let lvl := match s.sec.challenge with
      | some ch => ch.level
      | none => 0
    let u (p : UPath) (l : Nat) : Bool := s.uds.unlocks.contains (p, l)
    packFields [uField 8 s.ka.unlockFails, (8, delayLeft s), (8, lvl), (2, 0), (6, maskOf [u .can1 1, u .can1 3, u .can2 1, u .can2 3, u .doip 1, u .doip 3])]
  else if off = 0x10 then
    let busy := match s.sec.jobs with
      | [] => 0
      | .key _ :: _ => 2
      | .sign _ :: _ => 3
    packFields [(2, busy), (6, 0), uField 8 (s.sec.jobs.length - 1), (16, s.sec.ops)]
  else if off = 0x100 then packFields [(4, c.result), (4, 0), (8, c.causeA), (8, c.causeB), (6, 0), (1, c.slotRun.num), bit1 c.locked]
  else if off = 0x104 then packFields [(16, c.failBlock), bit1 c.recValid, bit1 c.regionCat, (14, c.failRecord)]
  else if off = 0x108 then packFields [(8, c.arb), (8, c.oemKey), (1, 0), (15, c.records)]
  else if off = 0x10C then c.buildLo
  else if off = 0x110 then c.buildHi
  else if off = 0x114 then
    match c.desc with
    | some d => packFields [(16, d.gen), (7, 0), (1, d.pref.num), (4, d.stB), (4, d.stA)]
    | none => 0
  else if off = 0x118 then
    let st := c.stage
    let src := match st.src with
      | .none => 0
      | .uds _ => 1
      | .fabric _ => 2
    let rg := stageRegion s
    let nb := if rg = 0 then 0 else firstBadBlock (s.flash.region c.slotRun.other rg) (regionBlocks rg)
    packFields [(2, src), (2, st.region), uField 12 (s.ops.waiting.filter isStagingOp).length, (16, nb)]
  else 0

/-- The bytes of a record before its CRC (R535, R536). -/
def recBody (r : LogRec) : List Byte :=
  natLe 8 r.time ++ natLe 2 r.code ++ [BitVec.ofNat 8 (r.cls % 8 + 128 * b2n r.clear), BitVec.ofNat 8 r.block]
    ++ natLe 2 r.inst ++ [BitVec.ofNat 8 r.mode, BitVec.ofNat 8 r.life] ++ natLe 4 r.reg ++ natLe 4 r.meas ++ natLe 2 0 ++ natLe 2 r.suppressed

/-- The 32 bytes of a record (R535). -/
def recBytes (r : LogRec) : List Byte :=
  let b := recBody r
  b ++ natLe 4 (crc32 b)

/-- The record that the LOG window shows at place `k`: acceptance number A with A mod 64 = k (R541). -/
def windowRec (s : State) (k : Nat) : Option LogRec := s.log.window[(s.log.accepted + 64 * 2 ^ 32 - 1 - k) % 64]?

def vitLog (s : State) (off : Nat) : Nat :=
  let l := s.log
  if off = 0 then packFields [bit1 l.ready, bit1 l.wrapped, bit1 (s.ops.waiting.any (fun o => match o with
    | .logErase _ => true
    | _ => false)), (5, 0), uField 8 l.store.length, uField 16 l.badSlots]
  else if off = 4 then l.accepted % 2 ^ 32
  else if off = 8 then (127 * l.openSeq + l.nextSlot) % 2 ^ 32
  else if off = 0xC then 127 * l.oldestSeq % 2 ^ 32
  else if off = 0x10 then l.boot % 2 ^ 32
  else if off = 0x14 then packFields [(16, l.dropped), (16, l.suppressed)]
  else if 0x800 ≤ off ∧ off < 0x1000 then
    match windowRec s ((off - 0x800) / 32) with
    | some r => uAt (recBytes r) (off % 32 / 4 * 4) 4
    | none => 0
  else 0

/-- The partner's identity, as the pair record gives it (R472). -/
def partnerId (s : State) : Nat := s.pb 0x98 0 0 8

/-- The partner's fabric address; none while it is not admitted. -/
def partnerAddr (s : State) : Option Nat := addrOf s (partnerId s)

/-- This unit acts as senior: by the strap, or with equal straps by the lower address (R471). -/
def actsSenior (s : State) : Bool :=
  match s.pair.hb with
  | some h => if h.senior = s.mer.senior then decide (s.fab.addr < (partnerAddr s).getD 32) else s.mer.senior
  | none => s.mer.senior

def vitPair (s : State) (off : Nat) : Nat :=
  let p := s.pair
  if s.fn 11 = false then 0
  else if off = 0 then packFields [(3, if p.handover.isSome then 4 else p.role), bit1 (actsSenior s), bit1 p.fabHb, bit1 p.phbHb, bit1 p.arbOut, bit1 p.arbIn, bit1 p.partnerFit, bit1 p.swapped, bit1 p.holdoff, bit1 p.arbFit, (5, (partnerAddr s).getD 0), (15, 0)]
  else if off = 4 then packFields [(8, p.takeovers), (8, p.handovers), (8, p.solos), (8, p.shadowMm)]
  else if off = 8 then p.take % 2 ^ 16
  else if off = 0xC then packFields [(16, p.cycles), (8, p.passed), (8, p.failed)]
  else if off = 0x10 then packFields [(16, p.skip), sField 16 p.diff]
  else 0

/-! ## Every window (R526 to R528) -/

/-- The register at an offset of a block's window. An offset that no chapter defines reads 0. -/
def vitWord (s : State) (blk off : Nat) : Nat :=
  match blk with
  | 0 => vitSys s off
  | 1 => vitMer s off
  | 2 => vitPwm s off
  | 3 => vitOrr s off
  | 4 => vitPos s off
  | 5 => vitGd s off
  | 6 => vitObc s off
  | 7 => vitLvc s off
  | 8 => vitChg s off
  | 9 => vitThm s off
  | 10 => vitAct s off
  | 11 => vitSaf s off
  | 12 => vitLks s off
  | 13 => vitFab s off
  | 14 => vitPq s off
  | 15 => vitVif s off
  | 16 => vitSec s off
  | 17 => vitLog s off
  | 18 => vitPair s off
  | _ => 0

/-- An address of the register windows (R526). -/
def inVitrine (addr : Nat) : Bool := decide (0x50000000 ≤ addr ∧ addr < 0x50013000)

/-- An address of the map store (R526). -/
def inMapStore (addr : Nat) : Bool := decide (0x51000000 ≤ addr ∧ addr < 0x51040000)

/-- The word at a mapped address: a register or a word of the map store (R183, R527). -/
def vitRead (s : State) (addr : Nat) : Nat :=
  let a := addr / 4 * 4
  if inVitrine a then vitWord s ((a - 0x50000000) / 4096) (a % 4096) % 2 ^ 32
  else if inMapStore a then
    let k := a - 0x51000000
    mapByte s.cat.map k + 256 * mapByte s.cat.map (k + 1) + 65536 * mapByte s.cat.map (k + 2) + 16777216 * mapByte s.cat.map (k + 3)
  else 0

/-- What a read of the register at an offset of a block clears: its RC fields; a read of FAB_TIME_LO latches HI (R11, R527). -/
def vitClearAt (s : State) (blk off : Nat) : State :=
  match blk with
  | 1 => if off = 4 then { s with mer := { s.mer with limited := 0 } } else s
  | 2 => if 0x100 ≤ off ∧ off < 0x380 ∧ (off - 0x100) % 0x40 = 8 then
      { s with pwm := s.pwm.upd ⟨(off - 0x100) / 0x40 % 10, Nat.mod_lt _ (by decide)⟩ (fun g => { g with minp := 0, clip := 0 }) } else s
  | 3 =>
    let t : TSet := if off < 0x180 then .a else .b
    if off = 0x134 ∨ off = 0x1B4 then { s with oview := s.oview.upd t (fun v => { v with lateTotal := 0 }) }
    else if off = 0x140 ∨ off = 0x1C0 then { s with orr := s.orr.upd t (fun o => { o with sumErr := 0 }) }
    else if off = 0x20C then { s with ssTrials := 0 }
    else s
  | 4 => if 0x100 ≤ off ∧ off < 0x400 ∧ (off - 0x100) % 0x40 = 0x18 then
      { s with pos := s.pos.upd ⟨(off - 0x100) / 0x40 % 12, Nat.mod_lt _ (by decide)⟩ (fun p => { p with errTotal := 0 }) } else s
  | 5 => if off < 0xDC0 ∧ off % 0x40 = 0xC then s.updCh (chanAt (off / 0x40)) (fun x => { x with race := 0, refresh := 0 }) else s
  | 6 => if off = 0x20 then { s with pfc := { s.pfc with lateTotal := 0 }, dab := { s.dab with lateTotal := 0 } } else s
  | 7 => if off = 0x40 then { s with lvc := { s.lvc with allph := 0, release := 0, ovh := 0, hiccups := 0 } } else s
  | 9 => if off = 0 then { s with thm := { s.thm with missed := 0 } } else s
  | 10 => if off = 0x10C ∨ off = 0x14C then { s with act := s.act.upd (if off = 0x10C then .park else .shift) (fun x => { x with peak := 0, stalls := 0, aborts := 0 }) } else s
  | 11 => if off = 0x10 then { s with saf := { s.saf with overruns := 0 } } else s
  | 12 => if 0x200 ≤ off ∧ off < 0x224 then { s with lks := { s.lks with ce := s.lks.ce.put ⟨(off - 0x200) / 4 % 9, Nat.mod_lt _ (by decide)⟩ 0 } } else s
  | 13 =>
    if off = 0x10 then { s with fab := { s.fab with timeHi := floorN s.fab.time / 2 ^ 32 } }
    else if 0x100 ≤ off ∧ off < 0x200 ∧ (off - 0x100) % 0x40 = 4 then
      { s with fab := { s.fab with ports := s.fab.ports.upd ⟨(off - 0x100) / 0x40 % 4, Nat.mod_lt _ (by decide)⟩ (fun p => { p with crc := 0, resends := 0, codev := 0 }) } }
    else if off = 0x200 then { s with fab := { s.fab with e2e := 0, zctl := 0, unreach := 0, hdr := 0 } }
    else if off = 0x204 then { s with fab := { s.fab with missed := 0 } }
    else if off = 0x208 then { s with fab := { s.fab with gaps := 0 } }
    else if off = 0x20C then { s with fab := { s.fab with lostc := 0 } }
    else s
  | 14 =>
    if off = 0 then { s with pqSeen := [] }
    else if 0x100 ≤ off ∧ off < 0x460 then
      let q : QId := ⟨(off - 0x100) / 0x20 % 27, Nat.mod_lt _ (by decide)⟩
      if (off - 0x100) % 0x20 = 4 then { s with pq := s.pq.upd q (fun x => { x with hwm := 0 }) }
      else if (off - 0x100) % 0x20 = 8 then { s with pq := s.pq.upd q (fun x => { x with overlong := 0, full := 0, abort := 0, malf := 0 }) }
      else if (off - 0x100) % 0x20 = 0xC then { s with pq := s.pq.upd q (fun x => { x with zcommit := 0 }) }
      else s
    else s
  | 15 =>
    if off = 0x100 ∨ off = 0x140 then { s with vif := { s.vif with can := s.vif.can.upd (if off = 0x100 then 0 else 1) (fun c => { c with rxdrop := 0 }) } }
    else if off = 0x180 then { s with vif := { s.vif with ethDrop := 0, badfcs := 0 } }
    else if 0x400 ≤ off ∧ off < 0xC00 ∧ off % 8 = 4 then
      { s with vif := { s.vif with streams := s.vif.streams.upd ⟨(off - 0x400) / 8 % 256, Nat.mod_lt _ (by decide)⟩ (fun x => { x with reject := 0, lost := 0, repeats := 0 }) } }
    else s
  | 17 => if off = 0x14 then { s with log := { s.log with dropped := 0, suppressed := 0 } } else s
  | 18 =>
    if off = 4 then { s with pair := { s.pair with shadowMm := 0 } }
    else if off = 0x10 then { s with pair := { s.pair with skip := 0 } }
    else s
  | _ => s

/-- What a read of one register clears. -/
def vitClear (s : State) (addr : Nat) : State :=
  if inVitrine addr = false then s else vitClearAt s ((addr - 0x50000000) / 4096) (addr % 4096 / 4 * 4)

/-- The register that a log record's context holds (R536): offset +0x00 of the instance's group where the block has one and
the fault names an instance, else offset 0x000. Of the safety faults 0x5804 names a line and 0x5805 a domain, which have no group. -/
def contextReg (s : State) (code inst : Nat) : Nat :=
  let blk := code / 2048
  let off :=
    if inst = noInst then 0
    else match blk with
      | 2 => if inst < 10 then 0x100 + 0x40 * inst else 0
      | 3 => if inst < 2 then 0x100 + 0x80 * inst else 0
      | 4 => if inst < 12 then 0x100 + 0x40 * inst else 0
      | 5 => if inst < 55 then 0x40 * inst else 0
      | 9 => if inst < 55 ∧ (code ≤ 0x4803 ∨ code = 0x4805 ∨ code = 0x4807) then 0x800 + 0x10 * inst else 0
      | 10 => if inst < 2 then 0x100 + 0x40 * inst else 0
      | 11 => if inst < 8 ∧ code ≠ 0x5804 ∧ code ≠ 0x5805 then 0x100 + 0x10 * inst else 0
      | 12 => if inst < 4 ∧ (code ≤ 0x6006 ∨ code = 0x600D) then 0x100 + 0x40 * inst else 0
      | 13 => if inst < 4 ∧ code = 0x6801 then 0x100 + 0x40 * inst else 0
      | 14 => if inst < 27 then 0x100 + 0x20 * inst else 0
      | 15 => if code = 0x7804 ∨ code = 0x7805 then (if inst < 256 then 0x400 + 8 * inst else 0) else if inst < 2 then 0x100 + 0x40 * inst else if inst = 2 then 0x180 else 0
      | _ => 0
  vitWord s blk off % 2 ^ 32

end Sys2Proof.Machine
end

