-- ==== Sys2Proof/Machine/Flags.lean ====
section
/-! DEFINITION. The fault collector (R15, R16, R532 to R537): classes, raise and clear, the log store, and the reactions of each class. -/

namespace Sys2Proof.Machine

/-! ## Classes (R533 and the fault tables of every chapter) -/

/-- The codes of class F0. -/
def codesF0 : List Nat :=
  [0x001A, 0x001D, 0x1002, 0x1806, 0x1817, 0x2009, 0x2809, 0x3808, 0x400A, 0x5007, 0x5008, 0x6006, 0x6008, 0x600D,
   0x6806, 0x6807, 0x7003, 0x7004, 0x7804, 0x7806, 0x8005, 0x8008, 0x8010, 0x8015, 0x8016, 0x8801, 0x9009]

/-- The codes of class F1. -/
def codesF1 : List Nat :=
  [0x0010, 0x0011, 0x0012, 0x0013, 0x0018, 0x0019, 0x001B, 0x001C, 0x0802, 0x1001, 0x1814, 0x1815, 0x2003, 0x200B,
   0x2810, 0x3804, 0x3806, 0x4006, 0x4009, 0x4801, 0x5005, 0x5801, 0x5807, 0x6009, 0x600A, 0x6801, 0x6802, 0x6803]
  ++ [0x6804, 0x6805, 0x6808, 0x6809, 0x7001, 0x7801, 0x7803, 0x7805, 0x7807, 0x8001, 0x8002, 0x8009, 0x8011, 0x8012,
   0x8013, 0x8014, 0x8017, 0x8802, 0x8803, 0x9001, 0x9002, 0x9005, 0x9006, 0x9007, 0x9008, 0x900A]

/-- The codes of class F2 for every instance. -/
def codesF2 : List Nat := [0x3803, 0x4802, 0x4804, 0x4808, 0x4809, 0x9004]

/-- The codes of class F4 for every instance. -/
def codesF4 : List Nat :=
  [0x0014, 0x0015, 0x0801, 0x0803, 0x0804, 0x1813, 0x1816, 0x4806, 0x5803, 0x5804, 0x5805, 0x5806, 0x5808, 0x5809,
   0x6001, 0x6004, 0x6005, 0x6007, 0x600B, 0x8003, 0x8004, 0x8006, 0x8007]

/-- The class of 0x7002 by queue (R439): a mailbox that touches Io or Callisto is F4, the log queue F1, any other F3. -/
def queueClass (q : Nat) : Nat :=
  if q = 26 then 1
  else if 14 ≤ q ∧ q < 26 then (if q = 18 ∨ q = 21 then 3 else 4)
  else 3

/-- The class of a code and instance. -/
def classOf (s : State) (code inst : Nat) : Nat :=
  if codesF0.contains code then 0
  else if codesF1.contains code then 1
  else if codesF2.contains code then 2
  else if codesF4.contains code then 4
  else if 0x2801 ≤ code ∧ code ≤ 0x280C then (if 31 ≤ inst ∧ inst < 43 then 2 else 3)
  else if 0x2001 ≤ code ∧ code ≤ 0x200A then (if s.posDoms inst = [] then 1 else 3)
  else if 0x5810 ≤ code ∧ code ≤ 0x5817 then s.pu 0x80 (code - 0x5810) 28
  else if code = 0x7002 then queueClass inst
  else 3

/-- The code is in the complete set of R533. -/
def codeKnown (code : Nat) : Bool :=
  codesF0.contains code || codesF1.contains code || codesF2.contains code || codesF4.contains code
    || [0x0016, 0x0017, 0x1801, 0x1802, 0x1803, 0x1804, 0x1805, 0x1807, 0x1810, 0x1811, 0x1812, 0x3801, 0x3802, 0x3805, 0x3807, 0x3809, 0x380A, 0x6002, 0x6003, 0x680A, 0x7002].contains code
    || (decide (0x2001 ≤ code ∧ code ≤ 0x200A) && !(code == 0x2003 || code == 0x2009)) || decide (0x2801 ≤ code ∧ code ≤ 0x280F)
    || decide (0x3001 ≤ code ∧ code ≤ 0x3010) || (decide (0x4001 ≤ code ∧ code ≤ 0x400D)) || [0x4803, 0x4805, 0x4807].contains code
    || [0x5001, 0x5002, 0x5003, 0x5004, 0x5006, 0x5009].contains code || decide (0x5810 ≤ code ∧ code ≤ 0x5817)

/-! ## Pins (R531) -/

/-- READY and FAULT_N as R531 drives them. -/
def pins (s : State) : State :=
  match s.sys.mode with
  | .accession => { s with sys := { s.sys with readyPin := false, faultPin := true } }
  | .ship => { s with sys := { s.sys with readyPin := false, faultPin := false } }
  | .off => { s with sys := { s.sys with readyPin := false, faultPin := false } }
  | .safe => { s with sys := { s.sys with readyPin := false, faultPin := true } }
  | _ => { s with sys := { s.sys with readyPin := true, faultPin := activeClass 3 s || activeClass 4 s } }

/-! ## The record store (R87, R537, R541) -/

/-- The oldest waiting F0 record taken out, if there is one. -/
def dropF0 : List LogRec → Option (List LogRec)
  | [] => none
  | r :: rest => if r.cls = 0 then some rest else (dropF0 rest).map (fun t => r :: t)

/-- A record is accepted: it takes a place of the store and the window, and bit 3 of its DTC can show again (R507). -/
def acceptRec (r : LogRec) (store : List LogRec) (s : State) : State :=
  { s with uds := { s.uds with dtcClr := s.uds.dtcClr.filter (fun c => decide (c ≠ r.code)) }, log := { s.log with store := store ++ [r], accepted := (s.log.accepted + 1) % 2 ^ 32, window := (r :: s.log.window).take 64 } }

/-- A record is offered to the store of 64 places; true when one was dropped or replaced. -/
def storeRec (r : LogRec) (s : State) : Bool × State :=
  let dropped (s : State) : State := { s with log := { s.log with dropped := satInc 16 s.log.dropped } }
  if s.log.store.length < 64 then (false, acceptRec r s.log.store s)
  else if r.cls = 0 then (true, dropped s)
  else
    match dropF0 s.log.store with
    | some st => (true, dropped (acceptRec r st s))
    | none => (true, dropped s)

/-- A store that holds more than its 64 places loses its oldest F0 records, then its newest ones; how many went. Which go when a retired
block gives its last page back to a full store is the model's choice: R87 speaks of a new record only (log entry 54). -/
def trimStore : Nat → List LogRec → Nat × List LogRec
  | 0, l => (0, l)
  | n + 1, l =>
    if l.length ≤ 64 then (0, l)
    else
      let r := trimStore n ((dropF0 l).getD l.dropLast)
      (r.1 + 1, r.2)

/-- The raises of a pair suppressed before it became inactive. -/
def takeSupp (code inst : Nat) (s : State) : Nat × State :=
  match s.log.suppPairs.find? (fun p => decide (p.1 = code ∧ p.2.1 = inst)) with
  | some p => (p.2.2, { s with log := { s.log with suppPairs := s.log.suppPairs.filter (fun q => decide (¬(q.1 = code ∧ q.2.1 = inst))) } })
  | none => (0, s)

/-- The record of an event (R535, R536). -/
def mkRec (s : State) (blk code inst cls meas supp : Nat) (clear : Bool) : LogRec :=
  { time := s.logTime, code := shownCode code, cls := cls, clear := clear, block := blk, inst := inst, mode := s.sys.mode.code, life := s.life, reg := contextReg s code inst, meas := meas, suppressed := min supp 0xFFFF }

/-- An active fault's entry with one more raise. -/
def againFault (code inst : Nat) : List ActiveFault → List ActiveFault
  | [] => []
  | f :: rest => if f.code = code ∧ f.inst = inst then { f with raises := satInc 12 f.raises, suppressed := satInc 16 f.suppressed } :: rest else f :: againFault code inst rest

/-- A raise without its reaction: a repeat only counts; a new fault becomes active and writes a record (R532, R537). -/
def raiseEntry (blk code inst meas : Nat) (s : State) : Bool × State :=
  if active code inst s then
    (false, { s with faults := againFault code inst s.faults, log := { s.log with suppressed := satInc 16 s.log.suppressed } })
  else
    let cls := classOf s code inst
    let t := takeSupp code inst s
    let s := t.2
    let r := mkRec s blk code inst cls meas t.1 false
    storeRec r { s with faults := { code := code, inst := inst, cls := cls, raises := 1, suppressed := 0 } :: s.faults }

/-- What a full store makes of a record: 0x001A (R87). -/
def noteDrop (r : Bool × State) : State := pins (if r.1 then (raiseEntry 0 0x001A noInst 0 r.2).2 else r.2)

/-- A record that no raise brings is offered to the store. -/
def offerRec (r : LogRec) (s : State) : State := noteDrop (storeRec r s)

/-- A raise without its reaction; a record that finds the store full raises 0x001A (R87). -/
def raiseBaseBy (blk code inst meas : Nat) (s : State) : State :=
  noteDrop (raiseEntry blk code inst meas s)

/-- A raise without its reaction by the block of the code. -/
def raiseBase (code inst meas : Nat) (s : State) : State := raiseBaseBy (code / 2048) code inst meas s

/-- A fault's entry taken out. -/
def dropFault (code inst : Nat) : List ActiveFault → List ActiveFault
  | [] => []
  | f :: rest => if f.code = code ∧ f.inst = inst then dropFault code inst rest else f :: dropFault code inst rest

/-- A fault is no longer active; a clear of class F1 to F4 writes a record (R537). -/
def clearF (code inst : Nat) (s : State) : State :=
  match findFault code inst s.faults with
  | none => s
  | some f =>
    let s := { s with faults := dropFault code inst s.faults }
    if f.cls = 0 then
      pins (if f.suppressed = 0 then s else { s with log := { s.log with suppPairs := (code, inst, f.suppressed) :: s.log.suppPairs } })
    else
      offerRec (mkRec s (code / 2048) code inst f.cls 0 f.suppressed true) s

/-- Every instance of a code is cleared. -/
def clearCode (code : Nat) (s : State) : State :=
  (s.faults.filter (fun f => decide (f.code = code))).foldl (fun s f => clearF code f.inst s) s

/-! ## LV converter commands (R303, R343) -/

/-- A write of LVC_CMD: the fields are kept, an out-of-range field raises 0x3808 (R303). -/
def lvcWrite (v : Nat) (s : State) : State :=
  let slew := v / 65536 % 4096
  let vset := v % 65536
  let s := { s with lvc := { s.lvc with cmd := some (slew, vset) } }
  if vset < 10000 ∨ 16000 < vset ∨ slew < 1 ∨ 500 < slew then raiseBase 0x3808 noInst 0 s else s

/-- Europa writes an output current limit of the buck: no rule says which, so it is free, none being one of the choices (R305, log entry
59). -/
def europaLimit (s : State) : State :=
  { s with freeIx := s.freeIx + 1, lvc := { s.lvc with limit := if Config.choice s.freeIx then some (absQ (Config.freeQ s.freeIx)) else none } }

/-- Europa's write of a 14 V setpoint at S_LV (R343). -/
def lvCharge (volts : Q) (s : State) : State :=
  lvcWrite (min (roundN (s.pf 0x60 0 96 / 100)) 4095 * 65536 + min (roundN (volts * 1000)) 65535) s

/-- A release during LV charging: the battery counts as lost (R343). -/
def lvRelease (s : State) : State :=
  if s.chg.lvChg then
    let s := lvCharge (s.pf 0x60 0 92) { s with chg := { s.chg with lvChg := false, lvLost := true } }
    raiseBase 0x4009 noInst 0 s
  else s

/-- The faults of the LV converter clear at each start (R293). -/
def clearLvFaults (s : State) : State :=
  [0x3801, 0x3802, 0x3803, 0x3804, 0x3805, 0x3806, 0x3807, 0x3808, 0x3809, 0x380A].foldl (fun s c => clearF c noInst s) s

/-- Step 1 of R307: faults clear, the LV permits return, the DCX switches at twice F_DCX. -/
def lvBegin (s : State) : State :=
  let s := clearLvFaults s
  setSr { s with lvc := { s.lvc with due := false, f3Stop := false, dcx := 1, buck := 0, retries := 0, freq := 2 * s.pf 0x58 0 0, srOn := false },
                 saf := { s.saf with lvC := true, lvP := true }, pwm := s.pwm.upd 5 (fun g => { g with running := true }) }

/-! ## Actuators (R375, R376) -/

/-- A sequence stops with a fault; the bridge turns off (R372, R376). -/
def actHalt (a : Act) (s : State) : State :=
  stopGroup a.grp { s with act := s.act.upd a (fun x => { x with phase := .stopped, seq := 0, d := 0, dTgt := 0, ilim := false }) }

/-- A running sequence is aborted: outputs off at once, 0x5008 (R375). -/
def abortAct (a : Act) (s : State) : State :=
  if (s.act.get a).seq = 0 then s
  else
    let s := stopGroup a.grp { s with act := s.act.upd a (fun x => { x with phase := .idle, seq := 0, d := 0, dTgt := 0, ilim := false, aborts := satInc 8 x.aborts }) }
    raiseBase 0x5008 a.num 0 s

/-! ## Charging sessions (R338, R344) -/

/-- A session runs: a phase other than IDLE and ENDED. -/
def inSession (s : State) : Bool := decide (s.chg.phase ≠ 0 ∧ s.chg.phase ≠ 10)

/-- What every end of a session does: S2 open, supply pilot and role relay off, the 14 V bus back to V_LV_BUS, but for a
halted Europa, whose last LVC_CMD stays (R343, R409). -/
def sessionOff (s : State) : State :=
  let s := if s.chg.lvChg && pairRunning s .europa then lvCharge (s.pf 0x60 0 92) s else s
  let s := if s.chg.roleCmd then { s with saf := { s.saf with hso := s.saf.hso.put ⟨s.pu 0x60 0 0 % 6, Nat.mod_lt _ (by decide)⟩ false } } else s
  { s with chg := { s.chg with s2 := false, lvChg := false, pilot := 0, roleCmd := false, pulsing := false, restartFor := none } }

/-- The supply role's output stops as for a fault by a pilot or proximity event: the pilot goes back to +12 V static, so the role relay stays
energised (R342) until CHARGE is left (log entry 62). -/
def sessionOffBy (code : Nat) (s : State) : State :=
  if s.chg.role = 3 ∧ (code = 0x4001 ∨ code = 0x4003) then
    let c := s.chg
    let s := sessionOff { s with chg := { c with roleCmd := false } }
    { s with chg := { s.chg with pilot := 1, roleCmd := c.roleCmd } }
  else sessionOff s

/-- The role relay and the supply pilot are off. -/
def roleOff (s : State) : State :=
  let s := if s.chg.roleCmd then { s with saf := { s.saf with hso := s.saf.hso.put ⟨s.pu 0x60 0 0 % 6, Nat.mod_lt _ (by decide)⟩ false } } else s
  { s with chg := { s.chg with pilot := 0, roleCmd := false } }

/-- An end other than a fault: the charger stops on request, phase STOPPING, END_CAUSE (R338); the session is over once both groups are
off. -/
def sessionEnd (cause : Nat) (s : State) : State :=
  if inSession s = false ∨ s.chg.phase = 9 then s
  else
    let s := requestStop { s with obcT := { s.obcT with iBat := 0 } }
    { s with chg := { s.chg with phase := 9, cause := cause, pulsing := false, restartFor := none } }

/-- An end by a fault: cause 8, phase ENDED (R344). -/
def sessionFailBy (code : Nat) (s : State) : State :=
  if inSession s = false then s
  else
    let s := sessionOffBy code s
    { s with chg := { s.chg with phase := 10, cause := 8, causes := 8 :: s.chg.causes } }

/-- An end by a fault that no pilot or proximity event raised. -/
def sessionFail (s : State) : State := sessionFailBy 0 s

/-- A pause: the charger stops on request, phase PAUSED (R342, R346). -/
def chargePause (s : State) : State :=
  let s := requestStop { s with obcT := { s.obcT with iBat := 0 } }
  { s with chg := { s.chg with phase := 7, pulsing := false } }

/-- The restartable faults of R344. -/
def restartable (code : Nat) : Bool :=
  [0x3004, 0x3005, 0x3001, 0x3002, 0x3003, 0x3006, 0x3008, 0x300E, 0x300F, 0x4004, 0x4007].contains code

/-- The session's response to a fault of the charger (R344, R345); the safety timer's ends it with cause 4 (R339). A charge that has ended and
only stops is not restarted. The restart limit is a fault of its own, which stops the charger. -/
def chgOnFault (code : Nat) (s : State) : State :=
  if inSession s = false then s
  else if code = 0x4005 then sessionEnd 4 s
  else if restartable code then
    if s.chg.phase = 9 then s
    else if s.pu 0x60 0 56 ≤ s.chg.restarts then sessionFail (stopCharger (raiseBase 0x4008 noInst 0 s))
    else { s with chg := { s.chg with phase := 7, pulsing := false, restartFor := some code } }
  else sessionFailBy code s

/-! ## Mode entries (R32, R33, R36, R293, R375) -/

/-- A set that switches stops; one in its safe state keeps it, and a carrier that a new start has begun stops (R200, R206). -/
def stopSet (t : TSet) (s : State) : State := if (s.ss.get t).st = 0 then stopGroup t.grp s else haltGroup t.grp s

/-- Everything that does not run in a mode is turned off. -/
def modeOutputs (m : Mode) (s : State) : State :=
  let s := if m = .drive then s else stopGroup 2 s
  let s := if m = .drive then s else if m = .safe then stopTraction s else stopSet .b (stopSet .a s)
  let s := if m = .charge then s else roleOff (stopCharger s)
  let s := if m = .drive then s else abortAct .shift s
  if m = .drive then s
  else if m = .ready ∨ m = .convert then (if (s.act.get .park).seq = 2 then abortAct .park s else s)
  else abortAct .park s

/-- The MOSFET of a present feed may conduct: one in overvoltage is off only beside a feed that is present and not in overvoltage,
so the last conducting feed is never turned off (R62). -/
def mayConduct (x y : FeedSt) : Bool := !x.ov || !(y.present && !y.ov)

/-- A ship entry that has not reached SHIP is given up: LVD high, and what steps 4 and 5 stopped runs again (R80, R81). -/
def shipAbandon (s : State) : State :=
  if s.sup.ship = .falling then
    let on (f g : FeedSt) : FeedSt := { f with mosfet := f.present && mayConduct f g }
    startBias { s with sup := { s.sup with ship := .none, lvd := true, ifaces := true, feedA := on s.sup.feedA s.sup.feedB, feedB := on s.sup.feedB s.sup.feedA } }
  else if s.sup.ship = .writes ∨ s.sup.ship = .record then { s with sup := { s.sup with ship := .none } }
  else s

/-- The mode changes (R33): what does not run is turned off, the LV converter starts or stops, the pins follow. -/
def enterMode (m : Mode) (s : State) : State :=
  if s.sys.mode = m then s
  else
    let old := s.sys.mode
    let s := { s with sys := { s.sys with mode := m, prev := old, waitStill := false } }
    let s := modeOutputs m s
    let s := if m = .ready then stopLv false s
      else if old = .ready ∧ (m = .convert ∨ m = .drive ∨ m = .charge) ∧ s.fn 5 = true then { s with lvc := { s.lvc with due := true } }
      else s
    let s := if m = .safe then sessionFail { s with sys := { s.sys with readyReqFresh := false, safeFromAcc := decide (old = .accession) } } else s
    let s := if m = .drive ∧ s.fn 11 = true then { s with pair := { s.pair with cycles := wrapInc 16 s.pair.cycles, testDue := true } } else s
    let s := if m = .ready ∧ old = .safe then { s with saf := { s.saf with safeReq := false } } else s
    pins s

/-! ## Fabric ports (R443, R451) -/

/-- A port changed by a function. -/
def updPort (p : Port) (f : FabPort → FabPort) (s : State) : State := { s with fab := { s.fab with ports := s.fab.ports.upd p f } }

/-- A frame that is being forwarded out of another port from this ingress ends in EOB there (R451, R452). -/
def eobOut (p : Port) (s : State) : State :=
  match (s.fab.ports.get p).rx with
  | some (_, .cut e) => send (.sym e .eob) s
  | _ => s

/-- A port leaves what it was doing and stands in a state: its replay buffer and its measurements are discarded. -/
def closePort (st : Nat) (p : Port) (s : State) : State :=
  updPort p (fun x => { x with st := st, hello := 0, helloId := 0, replay := [], waiting := [], rx := none, txWords := [], delays := [], parent := false }) (eobOut p s)

/-- What stops at once for 0x7002 of class F3 (R439): the port of the queue goes DOWN, a staging session of Ganymede's ends. While the
fault is active the port, the controller, the MAC or the services stay stopped (`State.portOn`, `State.canOn`, `State.ethOn`,
`State.ganyOn`). -/
def queueStop (q : Nat) (s : State) : State :=
  if q < 8 then
    let p : Port := ⟨q % 4, Nat.mod_lt _ (by decide)⟩
    if 2 ≤ (s.fab.ports.get p).st ∧ (s.fab.ports.get p).st ≤ 4 then closePort 1 p s else s
  else if q = 18 then { s with cat := { s.cat with stage := { s.cat.stage with src := .none, region := 0, left := 0, block := none } } }
  else s

/-- The fabric stops: every enabled port is EXCLUDED (R454). -/
def fabricStop (s : State) : State := portAll.foldl (fun s p => if (s.fab.ports.get p).st = 0 then s else closePort 5 p s) s

/-! ## Reactions (R15, R16, R394) -/

/-- A buck that ran and has lost its last active phase stops with 0x3809 (R316). -/
def lastPhase (buck : Nat) (s : State) : State :=
  if (buck = 2 ∨ buck = 3) ∧ s.lvc.act = [] then stopBuck 0 (raiseBase 0x3809 noInst 0 s) else s

/-- What stops with a channel's stage for a fault of class F3 (R242). -/
def stageFault (code : Nat) (g : Stage) (s : State) : State :=
  match g with
  | .setA => stopSetF3 .a s
  | .setB => stopSetF3 .b s
  | .chopper => stopGroup 2 s
  | .pfc => chgOnFault code (stopCharger s)
  | .dab => chgOnFault code (stopCharger s)
  | .dcx => stopLv true s
  | .sr => stopLv true s
  | .buck n => lastPhase s.lvc.buck (stopPhase n s)
  | .park => actHalt .park s
  | .shift => actHalt .shift s

/-- A position interface's fault stops its user: the set that names it, or the actuator, whose move brakes first (R212, R375). -/
def userFault (inst : Nat) (s : State) : State :=
  if inst = 8 ∨ inst = 9 then
    let a : Act := if inst = 8 then .park else .shift
    let x := s.act.get a
    if x.phase = .diag ∨ x.phase = .moving ∨ x.phase = .backing ∨ x.phase = .braking then { s with act := s.act.put a { x with phase := .braking, why := .hall, d := 0, dTgt := 0, ilim := false } }
    else s
  else
    let i : Ifc := ⟨inst % 12, Nat.mod_lt _ (by decide)⟩
    let b := s.setUses .b i
    let s := if s.setUses .a i then enterSafe .a s else s
    if b then enterSafe .b s else s

/-- The reaction to a fault of class F3: its function stops (R16). A desaturation or gate-charge short waits for its watch
window (R256). A fabric port goes DOWN and the fabric is EXCLUDED; Ganymede's services, a CAN controller and the Ethernet MAC stop by the
fault itself, as long as it is active (`State.ganyOn`, `State.canOn`, `State.ethOn`, `State.portOn`). -/
def reactF3 (code inst : Nat) (s : State) : State :=
  if code = missCode then stopTraction s
  else if 0x1801 ≤ code ∧ code ≤ 0x1807 then stopSetF3 (if inst = 0 then .a else .b) s
  else if 0x1810 ≤ code ∧ code ≤ 0x1812 then stopTraction s
  else if 0x2001 ≤ code ∧ code ≤ 0x200B then userFault inst s
  else if code = 0x2801 ∨ code = 0x2802 then s
  else if 0x280D ≤ code ∧ code ≤ 0x280F then stopSetF3 (if inst < 6 then .a else .b) s
  else if (code = 0x4803 ∨ code = 0x4805 ∨ code = 0x4807) ∧ 27 ≤ inst ∧ inst < 43 then stopLv true s
  else if (0x2803 ≤ code ∧ code ≤ 0x280C) ∨ code = 0x4803 ∨ code = 0x4805 ∨ code = 0x4807 ∨ code = 0x0017 then stageFault code (stageOf (chanAt inst)) s
  else if code = 0x0016 then stopLv true (chgOnFault code (stopCharger s))
  else if code = 0x4005 ∨ code = 0x4007 then chgOnFault code (requestStop s)
  else if (0x3001 ≤ code ∧ code ≤ 0x3010) ∨ (0x4001 ≤ code ∧ code ≤ 0x400D) ∨ code = 0x6002 ∨ (code = 0x7002 ∧ inst = 21) then chgOnFault code (stopCharger s)
  else if code = 0x3805 then stopBuck 5 s
  else if code = 0x3801 ∨ code = 0x3802 ∨ code = 0x380A then stopLv true s
  else if code = 0x3807 ∨ code = 0x3809 then stopBuck 0 s
  else if 0x5001 ≤ code ∧ code ≤ 0x5009 then (if code = 0x5006 ∧ s.parkRunning = false then s else actHalt (if code = 0x5006 ∨ inst = 0 then .park else .shift) s)
  else if code = 0x680A then fabricStop s
  else if code = 0x7002 then queueStop inst s
  else s

/-- Io does not run, and evaluates no mode: halted, restarting, halted for debug, or not started yet (R34, R409, R418). -/
def ioHalted (s : State) : Bool := decide ((s.lks.pairs.get .io).st ≠ 1)

/-- A class F4 fault leads to no SAFE: in OFF and SHIP (R33), while a reset holds the N9, which ranks before it (R34, R64, R74), and after a
failed start-up check (R413). -/
def State.noSafe (s : State) : Bool := decide (s.sys.mode = .off ∨ s.sys.mode = .ship) || s.inReset || s.lks.dead

/-- SAFE entered for a class F4 fault, which also ends a ship entry (R33). -/
def safeByF4 (s : State) : State := if s.noSafe then s else enterMode .safe (shipAbandon s)

/-- The reaction to a fault of class F4: Callisto removes its global permit and asserts the safe-state request (R394); while Io
cannot evaluate, SAFE is entered without it (R34), in ACCESSION too (R33). Crystal loss and
a stalled Callisto act through Custodian's own latches. -/
def reactF4 (code : Nat) (s : State) : State :=
  let s := if code = 0x0801 ∨ code = 0x5809 then s else { s with saf := { s.saf with safeReq := true } }
  if ioHalted s then safeByF4 s else s

/-- The reaction to a fault of class F2 that stops a part: a gate-drive fault of a buck phase stops the phase (R242). -/
def reactF2 (code inst : Nat) (s : State) : State :=
  if 0x2803 ≤ code ∧ code ≤ 0x280C then
    match stageOf (chanAt inst) with
    | .buck n => lastPhase s.lvc.buck (stopPhase n s)
    | _ => s
  else s

/-- A raise by a block, with the reaction of its class when the fault was not active. -/
def raiseBy (blk code inst meas : Nat) (s : State) : State :=
  let new := !active code inst s
  let s := raiseBaseBy blk code inst meas s
  if new then
    match classOf s code inst with
    | 3 => pins (reactF3 code inst s)
    | 4 => pins (reactF4 code s)
    | 2 => reactF2 code inst s
    | _ => s
  else s

/-- A raise by the block of the code. -/
def raise (code inst meas : Nat) (s : State) : State := raiseBy (code / 2048) code inst meas s

/-- A sequence stops with a fault of the chapter (R372). -/
def actStop (a : Act) (code : Nat) (s : State) : State := raise code a.num 0 (actHalt a s)

/-! ## Stops by stage and domain -/

/-- The function of a stage stops after a coordinated turn-off (R256): a set enters its safe state, any other stage is off. -/
def stopStage (g : Stage) (s : State) : State :=
  match g with
  | .setA => stopSetF3 .a s
  | .setB => stopSetF3 .b s
  | .chopper => stopGroup 2 s
  | .pfc => chgOnFault 0x2801 (stopCharger s)
  | .dab => chgOnFault 0x2801 (stopCharger s)
  | .dcx => stopLv true s
  | .sr => stopLv true s
  | .buck n => lastPhase s.lvc.buck (stopPhase n s)
  | .park => actHalt .park s
  | .shift => actHalt .shift s

/-- The safe state of a domain whose permit is removed (R382, R391). The chopper's carrier goes on placing its ideal edges (R140). -/
def domainReaction (d : Fin 7) (s : State) : State :=
  match d.val with
  | 0 => enterSafe .a s
  | 1 => enterSafe .b s
  | 2 => offSink 12 s
  | 3 => stopCharger s
  | 4 => stopLv false s
  | 5 => abortAct .park s
  | _ => abortAct .shift s

/-! ## Traction safe states that may raise (R199, R203) -/

/-- ASC by the sides that carry no flag; with flags on both, freewheel and 0x1816 (R203). With bias bank A stopped the secondaries
have no rails and traction freewheels whatever is chosen (R68, R89, R122). -/
def goAsc (t : TSet) (s : State) : State :=
  if s.sup.biasA = false then driveFreewheel t s
  else if s.sideFlagged t.lows = false then driveAsc t 2 s
  else if s.sideFlagged t.highs = false then driveAsc t 3 s
  else raiseBy 11 0x1816 t.num 0 (driveFreewheel t s)

/-- R199: ASC on a present set at once, without a window. -/
def forceAsc (t : TSet) (s : State) : State :=
  if s.fn t.num then
    let s := stopGroup t.grp s
    let s := { s with ss := s.ss.upd t (fun x => { x with window := false, trial := false }), otgt := s.otgt.upd t (fun o => { o with current := false, torque := 0 }) }
    goAsc t s
  else s

/-! ## Charger protections on samples (R287) -/

/-- The charger runs. -/
def chargerOn (s : State) : Bool := decide (s.dab.st ≠ 0) || decide (s.pfc.st ≠ 0 ∧ s.pfc.st ≠ 5)

/-- V_dc,max above V_OUT_MAX: 0x3009 (R287). -/
def chargerOutMax (s : State) : State :=
  if chargerOn s = true ∧ s.pf 0x50 1 56 < s.vMax then raise 0x3009 1 0 s else s

/-- A sinc2 output of an input that the charger owns: 0x3001, 0x3002 and 0x3008 (R287). -/
def chargerSinc2 (sdd : Fin 8) (value : Q) (s : State) : State :=
  if s.fn 3 = false then s
  else
    let own (inst off : Nat) : Bool := decide (s.pb 0x50 inst off 1 = sdd.val)
    let ac := (own 0 4 || own 0 5 || own 0 6) && decide (s.pf 0x50 0 44 < absQ (value * s.pf 0x50 0 8))
    let tank := value * s.pf 0x50 1 8
    let s := if own 1 1 then { s with dab := { s.dab with tank := tank } } else s
    let s := if chargerOn s && ac then raise 0x3001 0 0 s else s
    let s := if chargerOn s && own 1 2 && decide (s.pf 0x50 0 48 < value * s.pf 0x50 1 12) then raise 0x3002 0 0 s else s
    if chargerOn s && own 1 1 && decide (s.pf 0x50 1 72 < absQ tank) then raise 0x3008 1 0 s else s

/-! ## HSO outputs and permit lines (R386, R392) -/

/-- An HSO output is on: commanded, and not forced off by an input in demand. -/
def State.hsoOn (s : State) (h : Fin 6) : Bool :=
  s.saf.hso.get h && !siAll.any (fun n => s.siCust n && (s.cu n 24).testBit h.val)

/-! ## UDS access (R499, R506, R522) -/

/-- The path's security access grants the level. -/
def State.unlocked (s : State) (p : UPath) (level : Nat) : Bool := s.uds.unlocks.contains (p, level)

/-- SVC_EN bit `k`; without a Catalogue every service that R109 names is offered (R499). -/
def State.svcEn (s : State) (k : Nat) : Bool := s.cat.recovery || (s.pu 0xB0 0 0).testBit k

/-- A service is offered: without a Catalogue those that R109 names, in Deaccessioned sessions, SecurityAccess and one read (R518). -/
def State.udsOffered (s : State) (sid : Nat) : Bool :=
  if s.cat.recovery then
    if s.life = 4 then [0x10, 0x27, 0x22].contains sid else [0x10, 0x11, 0x22, 0x27, 0x31, 0x34, 0x36, 0x37].contains sid
  else true

/-- What a request of a service earns before its parameters are looked at, 0 when it is allowed: the service, the sessions (none
named: any), the security level (0: none) (R506, log entry 15). -/
def State.udsNrc (s : State) (p : UPath) (sid : Nat) (sessions : List Nat) (level : Nat) : Nat :=
  if s.udsOffered sid = false then 0x11
  else if sessions ≠ [] ∧ sessions.contains (s.uds.session.get p) = false then 0x7F
  else if level ≠ 0 ∧ s.unlocked p level = false then 0x33
  else 0

/-- A request on a served path: refused by the checks above, or carried out. -/
def udsServe (p : UPath) (sid : Nat) (sessions : List Nat) (level : Nat) (k : State → State) (s : State) : State :=
  if s.udsServed p = false then s
  else
    let s := { s with uds := { s.uds with tester := some p } }
    let n := s.udsNrc p sid sessions level
    if n = 0 then k s else udsNeg p sid n s

/-- The SVC_EN bit of a routine. -/
def routineBit (rid : Nat) : Nat := if rid / 256 = 0xF1 then 3 else if rid / 256 = 0xF2 then 0 else if rid / 256 = 0xF3 then 1 else 2

/-- The negative response that access to a routine earns, 0 when it is allowed: session, security, SVC_EN (R499, R506, R522). -/
def State.routineNrc (s : State) (p : UPath) (rid : Nat) : Nat :=
  let stag := decide (rid / 256 = 0xF1)
  if s.udsOffered 0x31 = false then 0x11
  else if s.uds.session.get p ≠ (if stag then 2 else 3) then 0x7F
  else if s.unlocked p (if stag then 3 else 1) = false then 0x33
  else if s.svcEn (routineBit rid) = false then 0x22
  else if s.udsServed p = false then 0x22
  else if s.cat.recovery = true ∧ stag = false then 0x22
  else 0

/-- The routine is allowed on the path. -/
def State.routineAllowed (s : State) (p : UPath) (rid : Nat) : Bool := decide (s.routineNrc p rid = 0)

/-- Fabric time is no longer locked: each running anchored group goes on from the crystal with its last period and phase, and 0x1001 is
raised for it (R151). -/
def anchorsHold (s : State) : State :=
  ([0, 1, 2, 3, 4, 5, 6, 7, 8, 9] : List Grp).foldl (fun s g =>
    if (s.pwm.get g).running = true ∧ s.pu 0x20 g 40 = 1 ∧ s.pu 0x20 g 0 ≠ 3 then
      raise 0x1001 g.val 0 { s with pwm := s.pwm.upd g (fun x => { x with anchHold := true, anchLock := false, stretch := 0 }) }
    else s) s

end Sys2Proof.Machine
end

