-- ==== Sys2Proof/Machine/FlashOps.lean ====
section
/-! DEFINITION. Flash and OTP operations (R84 to R88, R97, R115, R538 to R540): the hold-up check, starts, completions, the log's blocks. -/

namespace Sys2Proof.Machine

/-! ## The hold-up check (R84) -/

/-- E of R84 in joules; without a loaded Catalogue no C is known and the least value of R86 is taken (log entry 29). -/
def holdEnergy (s : State) (v : Q) : Q :=
  let c := if s.hasRec 2 0 then s.pf 2 0 0 else 22 / 10000
  c * (v * v - 25) / 2

/-- The kind of an operation. -/
def opKind : FlashOp → OpKind
  | .logPage => .page
  | .logErase _ => .erase
  | .logOpen _ => .page
  | .logClose _ => .page
  | .stageErase => .erase
  | .stagePage _ => .page
  | .bootErase _ => .erase
  | .bootProgram _ _ => .page
  | .otpWord _ _ => .otp

/-- E_req of the table of R84, joules. -/
def energyReq : OpKind → Q
  | .page => 975 / 100000
  | .erase => 37875 / 100000
  | .otp => 5625 / 1000000

/-- The check of one operation passes. -/
def holdOk (s : State) (v : Q) (o : FlashOp) : Bool := decide (energyReq (opKind o) ≤ holdEnergy s v)

/-- A measurement of HOLD. -/
def measureHold (v : Q) (s : State) : State := { s with sup := { s.sup with hold := v, holdMv := min (roundN (v * 1000)) 0xFFFF } }

/-- An operation joins the waiting ones unless it waits already. -/
def enqueue (o : FlashOp) (s : State) : State :=
  if s.ops.waiting.contains o then s else { s with ops := { s.ops with waiting := s.ops.waiting ++ [o] } }

/-! ## The boot descriptor (R96, R97) -/

/-- The 4,092 bytes of a boot descriptor copy: MAGIC, GEN, PREF, the states of the slots, and 0xFF to its end (R96). -/
def descBytes (d : BootDesc) : List Byte :=
  [0x4E, 0x52, 0x54, 0x42] ++ natLe 4 d.gen ++ [BitVec.ofNat 8 d.pref.num, BitVec.ofNat 8 d.stA, BitVec.ofNat 8 d.stB] ++ List.replicate 4081 0xFF

/-- What a boot descriptor copy of valid CRC says; none without its MAGIC. -/
def descOf (bs : List Byte) : Option BootDesc :=
  if bs.take 4 = [0x4E, 0x52, 0x54, 0x42] then some { gen := uAt bs 4 4, pref := if uAt bs 8 1 = 0 then .a else .b, stA := uAt bs 9 1, stB := uAt bs 10 1 } else none

/-- The copy that the next write overwrites: one that fails its CRC, else the one with the lower GEN. -/
def descTarget (f : Flash) : Fin 2 :=
  match f.boot0, f.boot1 with
  | none, _ => 0
  | some _, none => 1
  | some a, some b => if b.gen < a.gen then 1 else 0

/-- The newer valid copy. A copy that fails its CRC is not read again: R107 re-reads the blocks of a slot, and for a descriptor copy
the model takes the other one (log entry 20). -/
def newestDesc (f : Flash) : Option BootDesc :=
  match f.boot0, f.boot1 with
  | some a, some b => if a.gen < b.gen then some b else some a
  | some a, none => some a
  | none, b => b

/-- The fields page of the descriptor write has started: its content is fixed. -/
def fieldsBegun (s : State) : Bool :=
  let late (o : FlashOp) : Bool := match o with
    | .bootProgram _ last => last
    | _ => false
  s.ops.waiting.any late || (match s.ops.running with
    | some (.bootProgram _ _) => true
    | _ => false)

/-- A descriptor write begins: over the copy of R97, with GEN one higher. -/
def startDesc (f : BootDesc → BootDesc) (s : State) : State :=
  let d := (newestDesc s.flash).getD { gen := 0, pref := s.cat.slotRun, stA := 0, stB := 0 }
  let k := descTarget s.flash
  enqueue (.bootErase k) { s with cat := { s.cat with descDue := some (k, { f d with gen := (d.gen + 1) % 2 ^ 32 }), descNext := none } }

/-- The descriptor with the fields of a change, which waits to be written. A write whose fields page has not started takes the change too;
after that the change waits for a write of its own, so that it takes effect only when its own flash writes are complete (R118). -/
def changeDesc (f : BootDesc → BootDesc) (s : State) : State :=
  match s.cat.descDue with
  | some (k, d) =>
    match s.cat.descNext with
    | some e => { s with cat := { s.cat with descNext := some (f e) } }
    | none => if fieldsBegun s then { s with cat := { s.cat with descNext := some (f d) } } else { s with cat := { s.cat with descDue := some (k, f d) } }
  | none => startDesc f s

/-- A slot's state in a descriptor. -/
def BootDesc.st (d : BootDesc) (x : Slot) : Nat := if x = .a then d.stA else d.stB

/-- A descriptor with one slot's state replaced. -/
def BootDesc.setSt (x : Slot) (v : Nat) (d : BootDesc) : BootDesc := if x = .a then { d with stA := v } else { d with stB := v }

/-- The state of a slot as the descriptor in force, or the one that waits, gives it; EMPTY where there is none. -/
def slotState (s : State) (x : Slot) : Nat :=
  match s.cat.descNext, s.cat.descDue, s.cat.desc with
  | some d, _, _ => d.st x
  | none, some p, _ => p.2.st x
  | none, none, some d => d.st x
  | none, none, none => 0

/-- A copy of the descriptor in flash. -/
def setCopy (k : Fin 2) (d : Option BootDesc) (s : State) : State :=
  if k = 0 then { s with flash := { s.flash with boot0 := d } } else { s with flash := { s.flash with boot1 := d } }

/-- The waiting content is in flash: it is the descriptor in force, and the write that has waited for it begins. -/
def landDesc (s : State) : State :=
  match s.cat.descDue with
  | some (k, d) =>
    let s := setCopy k (some d) s
    let t : State := { s with cat := { s.cat with desc := some d, descDue := none }, ops := { s.ops with waiting := s.ops.waiting.filter (fun o => decide (o ≠ .bootErase k ∧ o ≠ .bootProgram k false ∧ o ≠ .bootProgram k true)) } }
    match s.cat.descNext with
    | some e => startDesc (fun _ => e) t
    | none => t
  | none => s

/-! ## Log blocks (R538 to R540) -/

/-- The physical block of a sequence. -/
def physOf (s : State) (seq : Nat) : Nat := seq % max s.log.region 1

/-- The next sequence from one on whose physical block is not retired; at most one turn is searched. -/
def liveSeq (s : State) (seq : Nat) : Nat :=
  ((List.range s.log.region).map (fun k => seq + k)).find? (fun q => !s.flash.logR.retired.contains (physOf s q)) |>.getD seq

/-- A block of the region is accepted: its MAGIC, and a SEQ that belongs to its place (R539). -/
def acceptedBlk (s : State) (p : Nat × LogBlk) : Bool := p.2.magicOk && decide (physOf s p.2.seq = p.1)

/-- The region holds no accepted block: its first sequence is 0 (R538, R539). -/
def logFresh (s : State) : Bool := !s.flash.logR.blocks.any (acceptedBlk s)

/-- The sequence of the next block to open. -/
def nextSeq (s : State) : Nat := liveSeq s (if logFresh s then 0 else s.log.openSeq + 1)

/-- The block at a physical number. -/
def logAt (s : State) (phys : Nat) : Option LogBlk := (s.flash.logR.blocks.find? (fun p => decide (p.1 = phys))).map (·.2)

/-- A physical block replaced, or erased. -/
def putLog (phys : Nat) (b : Option LogBlk) (s : State) : State :=
  let rest := s.flash.logR.blocks.filter (fun p => decide (p.1 ≠ phys))
  { s with flash := { s.flash with logR := { s.flash.logR with blocks := match b with
    | some x => (phys, x) :: rest
    | none => rest } } }

/-- The log can take records: rebuilt, its open block open, a slot free. -/
def logOpenNow (s : State) : Bool :=
  s.log.ready && decide (s.log.nextSlot < 127) && (match logAt s (physOf s s.log.openSeq) with
    | some b => decide (b.seq = s.log.openSeq) && !b.closed
    | none => false)

/-- The page a slot begins in (log entry 28). -/
def slotPage (n : Nat) : Nat := (28 + 32 * n) / 256

/-- Slots that one page operation may fill: those that begin in the page of the next free slot. -/
def pageRoom (n : Nat) : Nat := ((List.range 127).filter (fun k => decide (n ≤ k) && decide (slotPage k = slotPage n))).length

/-- Records by class, highest first, the order of acceptance within a class (R90). -/
def byClass (rs : List LogRec) : List LogRec := [4, 3, 2, 1, 0].flatMap (fun c => rs.filter (fun r => decide (r.cls = c)))

/-- The waiting records go into the next free slots, up to the end of the page (R540); in the hold-up state the highest class
first (R90). -/
def writePage (s : State) : State :=
  if logOpenNow s then
    let store := if s.sup.holdup then byClass s.log.store else s.log.store
    let k := min store.length (pageRoom s.log.nextSlot)
    let phys := physOf s s.log.openSeq
    match logAt s phys with
    | some b => { putLog phys (some { b with slots := b.slots ++ (store.take k).map LogSlot.good }) s with log := { s.log with store := store.drop k, nextSlot := s.log.nextSlot + k } }
    | none => s
  else s

/-- A block opens with its sequence; the erase of the following block is queued (R539). -/
def openBlock (phys : Nat) (s : State) : State :=
  let seq := nextSeq s
  if physOf s seq ≠ phys then s
  else
    let s := putLog phys (some { magicOk := true, seq := seq, boot := s.log.boot, slots := [], closed := false }) s
    let s := { s with log := { s.log with openSeq := seq, nextSlot := 0, nextErased := false } }
    enqueue (.logErase (physOf s (liveSeq s (seq + 1)))) s

/-- An erased block: the following one is erased, and the oldest block held is the one after it where it held records. -/
def eraseLog (phys : Nat) (s : State) : State :=
  let old := logAt s phys
  let s := putLog phys none s
  match old with
  | some b => { s with log := { s.log with nextErased := true, wrapped := true, oldestSeq := if b.magicOk = true ∧ s.log.oldestSeq ≤ b.seq then b.seq + 1 else s.log.oldestSeq } }
  | none => { s with log := { s.log with nextErased := true } }

/-- The block of the region of the inactive slot that is being staged. -/
def putStage (b : Option FlashBlk) (s : State) : State :=
  match s.cat.stage.block with
  | none => s
  | some (n, _) =>
    let set (bs : List (Nat × FlashBlk)) : List (Nat × FlashBlk) :=
      let rest := bs.filter (fun p => decide (p.1 ≠ n))
      match b with
      | some x => (n, x) :: rest
      | none => rest
    match s.cat.slotRun.other, s.cat.stage.region with
    | .a, 1 => { s with flash := { s.flash with fwA := set s.flash.fwA } }
    | .a, _ => { s with flash := { s.flash with catA := set s.flash.catA } }
    | .b, 1 => { s with flash := { s.flash with fwB := set s.flash.fwB } }
    | .b, _ => { s with flash := { s.flash with catB := set s.flash.catB } }

/-- The lowest set bit of a word. -/
def lowBit (b : BitVec 64) : BitVec 64 := b &&& (0 - b)

/-- What a word reads after a program of bits whose verify fails: one bit, the lowest programmed, still reads 0 (R513, log entry 22). -/
def otpFailed (w b : BitVec 64) : BitVec 64 := w ||| (b &&& ~~~(lowBit b))

/-- An OTP operation waits: the descriptor of a confirmed slot comes after it (R117). -/
def otpWaits (s : State) : Bool := s.ops.waiting.any (fun o => decide (opKind o = .otp))

/-- An operation of the boot descriptor. -/
def isBootOp : FlashOp → Bool
  | .bootErase _ => true
  | .bootProgram _ _ => true
  | _ => false

/-- What a started operation does: it runs to its end whatever follows (R88), so its effect on the flash is taken at its start. An OTP
program and the last page of a descriptor take theirs at their end, once verified (R118, R512). -/
def applyOp (o : FlashOp) (s : State) : State :=
  match o with
  | .logPage => writePage s
  | .logErase p => eraseLog p s
  | .logOpen p => openBlock p s
  | .logClose p =>
    match logAt s p with
    | some b => putLog p (some { b with closed := true }) s
    | none => s
  | .stageErase => putStage none s
  | .stagePage n =>
    match s.cat.stage.block with
    | some (_, d) => putStage (some { data := d.take (256 * (n + 1)), crcGood := decide (n = 15) }) s
    | none => s
  | .bootErase k => setCopy k none s
  | .bootProgram _ _ => s
  | .otpWord _ _ => s

/-! ## Starts (R84, R87, R88, R90) -/

/-- The operations that wait, in the order in which they are taken: log operations first (R540), then the others. -/
def waitingOps (s : State) : List FlashOp :=
  let isLog (o : FlashOp) : Bool := match o with
    | .logErase _ => true
    | .logOpen _ => true
    | .logClose _ => true
    | _ => false
  (if s.log.store ≠ [] ∧ logOpenNow s = true then [.logPage] else []) ++ s.ops.waiting.filter isLog ++ s.ops.waiting.filter (fun o => !isLog o)

/-- An operation starts. -/
def beginOp (o : FlashOp) (s : State) : State :=
  let s := { s with ops := { waiting := s.ops.waiting.filter (fun p => decide (p ≠ o)), running := some o, orphan := false } }
  applyOp o s

/-- In the hold-up state a check that fails ends all starts; what is left unwritten is kept in KA (R90). -/
def holdupFail (s : State) : State :=
  if s.sup.holdup then { s with ka := { s.ka with lostWrites := min (pendingOps s) 255 } } else s

/-- Starts are over in this hold-up state. -/
def startsOver (s : State) : Bool := s.sup.holdup && decide (0 < s.ka.lostWrites)

/-- Logging pauses while Ganymede is halted or restarts: its records wait in the store (R409). -/
def logPaused (s : State) (o : FlashOp) : Bool :=
  decide ((s.lks.pairs.get .ganymede).st = 2 ∨ (s.lks.pairs.get .ganymede).st = 3) &&
    (match o with
    | .logPage => true
    | .logErase _ => true
    | .logOpen _ => true
    | .logClose _ => true
    | _ => false)

/-- A descriptor operation may start: its OTP operations are done (R117), and where no copy is valid, READY has been reached (R97). In SAFE
after a failed Accession the write is one of staging, for which no READY can come: it starts there, the model's choice (log entry 54). -/
def bootMayStart (s : State) (o : FlashOp) : Bool :=
  !isBootOp o || (!otpWaits s && (s.flash.boot0.isSome || s.flash.boot1.isSome || decide (s.sup.step = 9) || s.cat.recovery))

/-- FLASH_OPERATION_START: a waiting operation whose check passes on a measurement at most 10 µs old starts (R84, R88); a log
page goes before a staging operation (R115). -/
def execFlashOperationStart (o : FlashOp) (holdVolts : Q) (ageUs : Nat) (s : State) : Host.Outcome State Fault Refusal :=
  let w := waitingOps s
  if s.ops.running.isSome = true ∨ w.contains o = false ∨ 10 < ageUs ∨ startsOver s = true ∨ (isStagingOp o = true ∧ w.contains .logPage = true) ∨ bootMayStart s o = false ∨ logPaused s o = true then .next s
  else
    let s := measureHold holdVolts s
    if holdOk s holdVolts o then .next (beginOp o s) else .next (holdupFail s)

/-- PENDING_OPERATION_RECHECK: every 1 ms the checks repeat; the first waiting operation that passes starts (R87). An erase
that waits delays no page operation. -/
def execPendingOperationRecheck (holdVolts : Q) (s : State) : Host.Outcome State Fault Refusal :=
  let s := measureHold holdVolts s
  if s.ops.running.isSome = true ∨ startsOver s = true then .next s
  else
    match waitingOps s with
    | [] => .next s
    | o :: rest =>
      if s.sup.holdup = true ∧ holdOk s holdVolts o = false then .next (holdupFail s)
      else
        match (o :: rest).find? (fun q => holdOk s holdVolts q && bootMayStart s q && !logPaused s q) with
        | some p => .next (beginOp p s)
        | none => .next s

/-! ## Completions -/

/-- The records of the page that a failed page operation wrote. -/
def lastPage (s : State) : List LogRec :=
  match logAt s (physOf s s.log.openSeq) with
  | some b =>
    let n := b.slots.length
    let k := ((List.range 127).filter (fun j => decide (j < n) && decide (slotPage j = slotPage (n - 1)))).length
    (b.slots.drop (n - k)).filterMap (fun x => match x with
      | .good r => some r
      | .bad => none)
  | none => []

/-- The open block fails its verify: it is retired, the sequence moves past it, its last page waits again in the store, which counts
what it cannot hold (R87), 0x8802 (R540). -/
def retireOpen (page : Bool) (s : State) : State :=
  let p := physOf s s.log.openSeq
  let back := if page then lastPage s else []
  let kept := trimStore back.length (back ++ s.log.store)
  let s := { s with flash := { s.flash with logR := { s.flash.logR with retired := p :: s.flash.logR.retired } }, log := { s.log with store := kept.2, dropped := satAdd 16 s.log.dropped kept.1, nextSlot := 127 } }
  let s := if kept.1 = 0 then s else raiseBase 0x001A noInst 0 s
  let nxt := physOf s (nextSeq s)
  raise 0x8802 noInst p (if s.log.nextErased then enqueue (.logOpen nxt) s else enqueue (.logErase nxt) s)

/-- The following block fails its erase: it is retired and the next one is erased instead, 0x8802 (R540). -/
def retireNext (p : Nat) (s : State) : State :=
  let s := { s with flash := { s.flash with logR := { s.flash.logR with retired := p :: s.flash.logR.retired } }, log := { s.log with nextErased := false } }
  raise 0x8802 noInst p (enqueue (.logErase (physOf s (nextSeq s))) s)

/-- A completed OTP operation is logged: a lifecycle word by 0x8015, a revocation by 0x8016, any other, once none of its words waits, by
a record whose code is stated nowhere (R517, log entry 30). -/
def logDone (s : State) : State :=
  let f := takeFree s
  offerRec (mkRec f.2 16 (f.1 % 2 ^ 16) noInst 0 0 0 false) f.2

/-- The record of an OTP word that has been programmed. -/
def otpDone (w : Nat) (b : BitVec 64) (s : State) : State :=
  if w = 5 then raise 0x8015 noInst 0 s
  else if w = 7 then raise 0x8016 (Nat.log2 b.toNat / 4) 0 s
  else if otpWaits s then s
  else logDone s

/-- What follows a completed operation. -/
def afterOp (o : FlashOp) (ok : Bool) (s : State) : State :=
  match o with
  | .logPage => if ok then s else retireOpen true s
  | .logErase p => if ok then (if logFresh s then enqueue (.logOpen p) s else s) else retireNext p s
  | .logOpen _ => if ok then s else retireOpen false s
  | .logClose p => if ok then s else raise 0x8802 noInst p s
  | .stageErase => enqueue (.stagePage 0) s
  | .stagePage n => if n < 15 then enqueue (.stagePage (n + 1)) s else (if ok then s else putStage (s.cat.stage.block.map (fun b => { data := b.2, crcGood := false })) s)
  | .bootErase k => if s.cat.descDue.isNone then s else if ok then enqueue (.bootProgram k false) s else enqueue (.bootErase k) s
  | .bootProgram k last =>
    if last = false then enqueue (if ok then .bootProgram k true else .bootErase k) s
    else if ok = true ∧ (s.cat.descDue.map (·.1)) = some k then landDesc s
    else if s.cat.descDue.isNone then s
    else enqueue (.bootErase k) (setCopy k none s)
  | .otpWord w b =>
    if ok then otpDone w b { s with otp := s.otp.put w (s.otp.get w ||| b) }
    else raise 0x8017 noInst 0 { s with otp := s.otp.put w (otpFailed (s.otp.get w) b) }

/-! ## Ship entry proceeds once nothing waits (R80 steps 2 to 5) -/

/-- The entry record joins the record store, from which a page operation writes it after its own check (R84): its code is stated
nowhere, so it is a free value (log entry 30). -/
def entryRecord (s : State) : State :=
  let f := takeFree s
  let s := f.2
  offerRec (mkRec s 0 (f.1 % 2 ^ 16) noInst 0 0 0 false) s

/-- With nothing waiting and nothing running, step 2 leads to the entry record of step 3, and its page to steps 4 and 5: the
interfaces, the bias drive and the ideal diodes off, LVD low (R80). -/
def shipProceed (s : State) : State :=
  if pendingOps s ≠ 0 ∨ s.ops.running ≠ none then s
  else if s.sup.ship = .writes then entryRecord { s with sup := { s.sup with ship := .record } }
  else if s.sup.ship = .record then
    let s := ascLost (bankOff 0 29 (stopDcx s))
    { s with sup := { s.sup with ship := .falling, ifaces := false, biasA := false, biasB := false, lvd := false, feedA := { s.sup.feedA with mosfet := false }, feedB := { s.sup.feedB with mosfet := false } } }
  else s

/-- The end of an operation that a reset has outlived: its effect stands, and nothing follows it (R73, R88). -/
def orphanEnds (o : FlashOp) (ok : Bool) (s : State) : State :=
  match o with
  | .otpWord w b => afterOp (.otpWord w b) ok s
  | .bootProgram k _ => if ok then s else setCopy k none s
  | _ => s

/-- LOG_BLOCK_CLOSE: a full open block gets its CRC, and the next block opens once it is erased (R540). -/
def execLogBlockClose (s : State) : Host.Outcome State Fault Refusal :=
  if s.log.ready = true ∧ 127 ≤ s.log.nextSlot then
    let p := physOf s s.log.openSeq
    let s := match logAt s p with
      | some b => if b.closed then s else enqueue (.logClose p) s
      | none => s
    let nxt := physOf s (nextSeq s)
    .next (if s.log.nextErased then enqueue (.logOpen nxt) s else enqueue (.logErase nxt) s)
  else .next s

/-- BOOT_DESCRIPTOR_WRITE: the next operation of the descriptor write, from its check to its verify: the erase of the copy, its fields,
its last page, which puts the content into force (R97, R118). Each ties one check to one measurement (R88); one that fails it
waits, and a failed verify begins the write again. -/
def execBootDescriptorWrite (holdVolts : Q) (verifyOk : Bool) (s : State) : Host.Outcome State Fault Refusal :=
  match s.cat.descDue with
  | none => .next s
  | some (k, _) =>
    let s := measureHold holdVolts s
    let o := (s.ops.waiting.find? isBootOp).getD (.bootErase k)
    if s.ops.running.isSome = true ∨ startsOver s = true ∨ bootMayStart s o = false then .next s
    else if holdOk s holdVolts o = false then .next (holdupFail s)
    else .next (shipProceed (afterOp o verifyOk { beginOp o s with ops := { (beginOp o s).ops with running := none } }))

/-- STAGING_BLOCK_WRITTEN's part that the write itself has: nothing of the block waits or runs. -/
def stageIdle (s : State) : Bool :=
  !s.ops.waiting.any isStagingOp && !(match s.ops.running with
    | some o => isStagingOp o
    | none => false)

end Sys2Proof.Machine
end

