-- ==== Sys2Proof/Machine/CatRecords.lean ====
section
/-! DEFINITION. The records of a Catalogue of format 0x0001 (R100 to R104): the walk over them, the payload lengths and ranges of
every owner chapter, and the rules that join records. -/

namespace Sys2Proof.Machine

/-! ## The walk (R100, R101) -/

/-- What the walk over the record headers gives: the records before END, or the index of the record that breaks it. -/
inductive Walk where
  | recs (rs : List Rec)
  | bad (index : Option Nat)
  deriving DecidableEq, Repr

/-- `(t1, i1)` comes strictly before `(t2, i2)`. -/
def keyBefore (t1 i1 t2 i2 : Nat) : Bool := decide (t1 < t2) || (decide (t1 = t2) && decide (i1 < i2))

/-- The records from the bytes `bs` after the header on, at most `fuel` of them; `left` bytes lie before IMAGE_LEN, `k` is the
index of the next record, `prev` the key of the last one, `acc` the records so far, newest first. -/
def walkFrom : Nat → List Byte → Nat → Nat → Option (Nat × Nat) → List Rec → Walk
  | 0, _, _, k, _, _ => .bad (some k)
  | fuel + 1, bs, left, k, prev, acc =>
    if left = 0 then .bad none
    else if left < 8 then .bad (some k)
    else
      let ty := uAt bs 0 2
      let inst := uAt bs 2 2
      let len := uAt bs 4 4
      let up := match prev with
        | some p => keyBefore p.1 p.2 ty inst
        | none => true
      if len % 4 ≠ 0 ∨ left - 8 < len ∨ up = false then .bad (some k)
      else if ty = 0xFFFF then (if inst = 0 ∧ len = 0 ∧ left = 8 then .recs acc.reverse else .bad (some k))
      else if len = 0 then .bad (some k)
      else walkFrom fuel (bs.drop (8 + len)) (left - 8 - len) (k + 1) (some (ty, inst)) ({ ty := ty, inst := inst, data := bytesAt bs 8 len } :: acc)

/-- The records of an image of IMAGE_LEN bytes. -/
def walkImage (img : List Byte) (imageLen : Nat) : Walk := walkFrom 16385 (img.drop 64) (imageLen - 64) 0 none []

/-! ## Field checks (R102) -/

/-- A power of two. -/
def pow2 (k : Int) : Q := if 0 ≤ k then (2 : Q) ^ k.toNat else 1 / (2 : Q) ^ (-k).toNat

/-- The binary32 nearest to a rational: what a decimal bound of a table is entered as (log entry 18). -/
def toF32 (x : Q) : Q :=
  if x = 0 then 0
  else
    let a := absQ x
    let e0 : Int := (Nat.log2 a.num.toNat : Int) - Nat.log2 a.den
    let e := if a < pow2 e0 then e0 - 1 else e0
    let u := pow2 (e - 23)
    let m := a / u
    let f := m.floor
    let r := m - f
    let n : Int := if r < 1 / 2 then f else if 1 / 2 < r then f + 1 else if f % 2 = 0 then f else f + 1
    sgnQ x * n * u

/-- One field's range. -/
inductive Chk where
  /-- A u32 from `lo` to `hi`. -/
  | u (lo hi : Nat)
  /-- An i32 from `lo` to `hi`. -/
  | i (lo hi : Int)
  /-- A binary32 from `lo` to `hi`; an infinity or a NaN is refused. -/
  | f (lo hi : Q)
  deriving DecidableEq, Repr

/-- A field of 0. -/
def Chk.zero : Chk := .u 0 0

/-- The field at an offset lies in its range. -/
def fieldOk (p : List Byte) (x : Nat × Chk) : Bool :=
  match x.2 with
  | .u lo hi => decide (lo ≤ uAt p x.1 4) && decide (uAt p x.1 4 ≤ hi)
  | .i lo hi => decide (lo ≤ sAt p x.1 4) && decide (sAt p x.1 4 ≤ hi)
  | .f lo hi =>
    match f32? (uAt p x.1 4) with
    | some v => decide (toF32 lo ≤ v) && decide (v ≤ toF32 hi)
    | none => false

/-- Every field of a payload lies in its range. -/
def fieldsOk (p : List Byte) (fs : List (Nat × Chk)) : Bool := fs.all (fieldOk p)

/-- Offsets that hold 0. -/
def zeros (offs : List Nat) : List (Nat × Chk) := offs.map (fun o => (o, Chk.zero))

/-- `n` consecutive binary32 fields of one range; the payload is walked once. -/
def arrayOk (lo hi : Q) : Nat → List Byte → Bool
  | 0, _ => true
  | n + 1, bs => fieldOk bs (0, .f lo hi) && arrayOk lo hi n (bs.drop 4)

/-! ## What the records declare (R103, R104) -/

/-- The records of the image and the unit they are checked for. -/
structure RecCtx where
  recs : List Rec
  /-- OEM_KEY of the header. -/
  oemKey : Nat
  /-- The unit's own fabric identity. -/
  ident : Nat
  deriving DecidableEq, Repr

/-- The payload of a record, empty where it is missing. -/
def RecCtx.p (c : RecCtx) (ty inst : Nat) : List Byte := findRec ty inst c.recs

/-- The record is there. -/
def RecCtx.has (c : RecCtx) (ty inst : Nat) : Bool := anyRec ty inst c.recs

/-- A u32 field of a record. -/
def RecCtx.u (c : RecCtx) (ty inst off : Nat) : Nat := uAt (c.p ty inst) off 4

/-- A binary32 field of a record. -/
def RecCtx.f (c : RecCtx) (ty inst off : Nat) : Q := fAt (c.p ty inst) off

/-- CH_PRESENT and FN_PRESENT. -/
def RecCtx.chMask (c : RecCtx) : Nat := uAt (c.p 1 0) 0 8

def RecCtx.fn (c : RecCtx) (k : Nat) : Bool := (c.u 1 0 8).testBit k

/-- The present traction sets. -/
def RecCtx.sets (c : RecCtx) : List Nat := [0, 1].filter c.fn

/-- The channels that the present functions have (R104, R292). -/
def RecCtx.wantCh (c : RecCtx) : Nat :=
  let grp (k lo n : Nat) : Nat := if c.fn k then 2 ^ (lo + n) - 2 ^ lo else 0
  grp 0 0 6 + grp 1 6 6 + grp 2 12 1 + grp 3 13 6 + grp 4 19 8 + grp 5 27 4 + grp 6 31 (2 * min (c.u 0x58 1 0) 6) + grp 7 43 6 + grp 8 49 6

/-- The least of a field over the present sets' records of a type. -/
def RecCtx.least (c : RecCtx) (ty step off : Nat) : Q := minOfQ 0 (c.sets.map (fun t => c.f ty (step * t) off))

/-- The permit domains of the present functions; domain 4 is never named (R381, R398). -/
def RecCtx.domMask (c : RecCtx) : Nat :=
  b2n (c.fn 0) + 2 * b2n (c.fn 1) + 4 * b2n (c.fn 2) + 8 * b2n (c.fn 3 || c.fn 4) + 32 * b2n (c.fn 7) + 64 * b2n (c.fn 8)

/-- A domain mask names present domains only. -/
def RecCtx.domOk (c : RecCtx) (m : Nat) : Bool := (List.range 7).all (fun d => !m.testBit d || c.domMask.testBit d) && decide (m < 128)

/-! ## Device, supply, mode thresholds (R37, R86, R103) -/

def okDevice (c : RecCtx) (p : List Byte) : Bool :=
  decide (uAt p 0 8 < 2 ^ 55) && decide (uAt p 8 4 < 2 ^ 12) && decide (uAt p 12 4 = 0)
    && decide (c.fn 3 = c.fn 4) && (!c.fn 11 || c.fn 10) && (!c.fn 6 || c.fn 5) && (!c.fn 1 || c.fn 0) && decide (uAt p 0 8 = c.wantCh)

def okMode (c : RecCtx) (p : List Byte) : Bool :=
  fieldsOk p [(0, .f 100 1000), (4, .f (fAt p 0 + 50) 1100), (8, .f (1 / 10) 50), (12, .f 20 60)]
    && (!c.fn 5 || (decide (16 * (c.f 0x58 0 12 + 2) ≤ fAt p 0) && decide (fAt p 4 ≤ 16 * (c.f 0x58 0 16 - 2))))

/-! ## Gate channels (R243) -/

def okGate (inst : Nat) (p : List Byte) : Bool :=
  if inst < 29 then
    let pt := decide (uAt p 60 4 = 4)
    fieldsOk p [(0, .u 0 (if uAt p 8 4 = 0 then 0 else 31)), (4, .u 0 31), (8, .u 0 1600), (12, .u 0 31), (16, .u 0 7), (20, .u 0 1), (24, .u 0 31),
      (28, .f 2 12), (32, .u 50 400), (36, .f 5 20), (40, .f 0 (25 / 10000000)), (44, .f 15 25), (48, .f (fAt p 44 + 1) 25),
      (52, .f (-8) (fAt p 56 - 1)), (56, .f (-7) 0)]
      && decide (uAt p 8 4 % 25 = 0) && decide (uAt p 32 4 % 25 = 0) && decide ((2 * fAt p 28).den = 1) && decide (fAt p 36 < fAt p 44)
      && (if inst < 12 ∧ inst % 2 = 1 then decide (uAt p 60 4 = 0 ∨ uAt p 60 4 = 4) else decide (uAt p 60 4 = 0))
      && (if pt then fieldsOk p [(64, .f (1 / 100000) (fAt p 68)), (68, .f (1 / 100000) (1 / 10))] else fieldsOk p [(64, .f 0 0), (68, .f 0 0)])
  else
    let high := decide (31 ≤ inst ∧ inst % 2 = 1)
    fieldsOk p ([(4, .u 0 7), (12, .u 0 7), (44, if high then .f 6 9 else .f 0 0), (60, .u 0 (if high then 3 else 0))] ++ zeros [0, 8, 16, 20, 24, 28, 32, 36, 40, 48, 52, 56, 64, 68])

/-! ## PWM groups (R128 to R130, R142, R144, R155, R268, R292) -/

/-- MODE, the PERIOD range and whether periods are even, by group. -/
def grpRow (g : Nat) : Nat × Nat × Nat × Bool :=
  if g < 2 then (0, 102400, 5120000, true)
  else if g = 2 then (1, 204800, 10240000, false)
  else if g = 3 then (0, 73144, 512000, true)
  else if g = 4 then (2, 34134, 102400, false)
  else if g < 8 then (3, 0, 0, false)
  else (1, 256000, 1024000, false)

/-- t_Σ of R147 in ft. -/
def tSigma (p : List Byte) : Q := if uAt p 52 4 = 0 then 0 else 384 * ((uAt p 60 4 : Q) - 1) * uAt p 56 4 + 1024

/-- The sample budget of R142 for one trigger, in ft. -/
def budgetOk (p : List Byte) (ready : Q) (bit off : Nat) : Bool :=
  !(uAt p 36 4).testBit bit || decide ((sAt p off 4 : Q) + ready + 1024 ≤ (uAt p 4 4 : Q) / 2)

def okPwm (c : RecCtx) (inst : Nat) (p : List Byte) : Bool :=
  let r := grpRow inst
  let pmin := uAt p 4 4
  let pmax := uAt p 8 4
  let pini := uAt p 12 4
  let anchor := uAt p 40 4
  let clk := uAt p 52 4
  if r.1 = 3 then fieldsOk p ([(0, .u 3 3), (16, .u 0 25600), (20, .u 0 25600), (24, .u 0 20480)] ++ zeros [4, 8, 12, 28, 32, 36, 40, 44, 48, 52, 56, 60])
  else
    let sigma := if inst = 3 ∨ c.u 0x30 inst 8 = 1 then tSigma p else 0
    fieldsOk p [(0, .u r.1 r.1), (4, .u r.2.1 r.2.2.1), (8, .u pmin r.2.2.1), (12, .u pmin pmax), (16, .u 0 25600), (20, .u 0 25600), (24, .u 0 20480),
      (28, .i (-25600) 25600), (32, .i (-25600) 25600), (36, .u 0 3), (40, .u 0 (if inst = 1 then 2 else 1)), (44, .u 0 65535), (52, .u 0 2)]
      && (!r.2.2.2 || decide (pmin % 2 = 0 ∧ pmax % 2 = 0 ∧ pini % 2 = 0))
      && decide (uAt p 48 4 * 256 ≤ pini * 25)
      && (if clk = 0 then decide (uAt p 56 4 = 0 ∧ uAt p 60 4 = 0) else fieldsOk p [(56, .u 2 8), (60, .u 16 256)])
      && (if r.1 = 0 then
            decide (4 * (sAt p 28 4).natAbs ≤ pmin ∧ 4 * (sAt p 32 4).natAbs ≤ pmin) && budgetOk p (12288 + sigma) 0 28 && budgetOk p (12288 + sigma) 1 32
          else decide (uAt p 32 4 = 0 ∧ uAt p 36 4 ≤ 1 ∧ uAt p 44 4 = 0))
      && (!decide (anchor = 1) || decide (pmin = pmax))
      && (!decide (anchor = 2) || decide (c.u 0x20 0 4 = pmin ∧ c.u 0x20 0 8 = pmax ∧ c.u 0x20 0 12 = pini))
      && (!(decide (inst = 1) && decide (c.u 0x30 0 0 = 2)) || decide (anchor = 2))
      && (!(decide (inst = 3) || decide (inst = 4)) || decide (pmin = pmax ∧ pini = pmin ∧ uAt p 36 4 ≠ 0))
      && (!decide (inst = 4) || (decide (anchor = 0 ∧ uAt p 36 4 = 1 ∧ 0 ≤ sAt p 28 4 ∧ 4 * sAt p 28 4 ≤ pmin) && decide ((sAt p 28 4 : Q) + 10240 + tSigma p + 1024 ≤ (pmin : Q))))
      && (decide (clk = 0) || (List.range inst).all (fun g => !c.has 0x20 g || decide (c.u 0x20 g 52 ≠ clk) || decide (c.u 0x20 g 56 = uAt p 56 4)))

/-! ## ΣΔ inputs (R143, R156, R267) -/

/-- The bytes of an SD_MAP field. -/
def sdBytes (v : Nat) : List Nat := [v % 256, v / 256 % 256, v / 65536 % 256, v / 16777216]

/-- The SDD inputs that a record names. -/
def sdNamed (ty inst : Nat) (p : List Byte) : List Nat :=
  let of (off : Nat) : List Nat := (sdBytes (uAt p off 4)).filter (fun b => decide (b < 8))
  if ty = 0x30 then (if uAt p 8 4 = 1 then of 12 else [])
  else if ty = 0x50 then (if inst = 0 then of 4 else of 0)
  else []

/-- The inputs of a record are clocked by the clock of its group and no other record names them. -/
def sdOk (c : RecCtx) (ty inst grp : Nat) (p : List Byte) : Bool :=
  (sdNamed ty inst p).all (fun b =>
    decide (c.u 0x20 grp 52 = (if b < 4 then 1 else 2)) &&
    c.recs.all (fun r => decide (r.ty = ty ∧ r.inst = inst) || !(sdNamed r.ty r.inst r.data).contains b))

/-! ## Orrery sets and maps (R154, R155, R181, R182, R209) -/

def orrFields (p : List Byte) : List (Nat × Chk) :=
  let six := decide (uAt p 0 4 = 2)
  let fs := fAt p 24
  let im := fAt p 44
  [(0, .u 0 2), (4, .u 0 (if six then 1 else 0)), (8, .u 0 1), (16, .u 0 1), (20, .u 0 7), (24, .f 10 4000),
    (28, .f (1 / 2) 2), (32, .f (1 / 2) 2), (36, .f (1 / 2) 2), (40, if uAt p 16 4 = 1 then .f (1 / 2) 2 else .f 0 0), (44, .f 0 fs), (48, .f im fs), (52, .f 0 1),
    (56, .f (1 / 1000000) (1 / 10)), (60, .f (1 / 1000000) (1 / 10)), (64, .f 0 2), (68, .f 0 (if six then fAt p 56 else 0)), (72, .f 0 (if six then fAt p 60 else 0)),
    (76, .f 0 1000), (80, .f 0 10000000), (84, .f 0 1000), (88, .f 0 10000000), (92, .u 0 63), (96, .f 0 (5 / 1000000)), (100, .f 0 1000000),
    (104, .f (1 / 10) (fs / 10)), (108, .f 0 (fs / 1000)), (112, .f (fAt p 108) (fs / 10)), (116, .f (fs / 100) (fs / 2)), (120, .f 1 (11027 / 10000)),
    (124, .f (8 / 10) (fAt p 120)), (128, .f 0 100000000), (132, .f 0 im), (136, .f 1 3000), (148, .f 0 50), (152, .u 1 4096)]

/-- SD_MAP against SRC and X_USE. -/
def sdMapOk (p : List Byte) : Bool :=
  let sd := sdBytes (uAt p 12 4)
  if uAt p 8 4 = 0 then decide (uAt p 12 4 = 0)
  else (sd.take 3).all (fun b => decide (b < 8)) && (if uAt p 16 4 = 1 then decide (nth sd 3 0 < 8) else decide (nth sd 3 0 = 0xFF))

/-- R154: the sets that the MODE needs, with one MODE in both records. -/
def orrModeOk (c : RecCtx) (mode : Nat) : Bool :=
  c.sets.all (fun t => decide (c.u 0x30 t 0 = mode)) && decide (c.sets = (if mode = 0 then [0] else [0, 1]))

/-- ANGLE_SRC names a present interface, another one than set A in DUAL; in SIXPHASE set B's is 0 (R155, R181, R209). -/
def angleOk (c : RecCtx) (inst mode src : Nat) : Bool :=
  if mode = 2 ∧ inst = 1 then decide (src = 0)
  else c.has 0x40 src && decide (¬(mode = 1 ∧ inst = 1 ∧ c.u 0x30 0 20 = src))

/-- The band boundaries lie strictly between the maps' V_BAND (R182). -/
def bandsOk (c : RecCtx) (inst : Nat) (p : List Byte) : Bool :=
  let m (b : Nat) : Q := c.f 0x31 (3 * inst + b) 8
  (f32? (uAt p 140 4)).isSome && (f32? (uAt p 144 4)).isSome
    && decide (m 0 < fAt p 140 ∧ fAt p 140 < m 1 ∧ m 1 < fAt p 144 ∧ fAt p 144 < m 2)

def okOrr (c : RecCtx) (inst : Nat) (p : List Byte) : Bool :=
  fieldsOk p (orrFields p) && sdMapOk p && sdOk c 0x30 inst inst p && orrModeOk c (uAt p 0 4) && angleOk c inst (uAt p 0 4) (uAt p 20 4) && bandsOk c inst p

/-- Signed half words of a byte list. -/
def halvesOf : List Byte → List Int
  | a :: b :: rest => (let v := a.toNat + 256 * b.toNat; if v < 2 ^ 15 then (v : Int) else (v : Int) - 2 ^ 16) :: halvesOf rest
  | _ => []

/-- Rows of `n` half words. -/
def rowsOf (n : Nat) : Nat → List Int → List (List Int)
  | 0, _ => []
  | k + 1, xs => xs.take n :: rowsOf n k (xs.drop n)

def okMap (c : RecCtx) (inst : Nat) (p : List Byte) : Bool :=
  let hs := halvesOf (p.drop 16)
  let col := (rowsOf 128 64 hs).map (fun r => (nth r 0 0, nth r 1 0))
  let first := 3 * (inst / 3)
  fieldsOk p [(4, .f 1 18850), (8, .f 100 1000), (12, .zero)]
    && (f32? (uAt p 0 4)).isSome && decide (0 < fAt p 0)
    && hs.all (fun v => decide (v ≠ -32768))
    && decide (c.f 0x31 first 0 = fAt p 0 ∧ c.f 0x31 first 4 = fAt p 4)
    && (decide (inst % 3 = 0) || decide (c.f 0x31 (inst - 1) 8 < fAt p 8))
    && decide (col.reverse = col.map (fun e => (e.1, -e.2)))

/-! ## Torque management (R207) -/

def okTm (c : RecCtx) (p : List Byte) : Bool :=
  let tm := c.least 0x31 3 0
  let im := c.least 0x30 1 44
  let lv := [64, 60, 52, 56, 92, 88, 96, 112].map (fAt p)
  let up (k : Nat) : Bool := decide (nth lv k 0 < nth lv (k + 1) 0) || (decide (k = 3) && decide (nth lv 3 0 = nth lv 4 0))
  fieldsOk p [(0, .f 0 (2 * tm)), (4, .f 1 1000000), (8, .f 1 1000000), (12, .f 0 50), (16, .f 1 100000), (20, .f 1 100000), (24, .u 0 1), (28, .f 0 (2 * tm)),
    (40, .f 1 5000), (44, .f 1 5000), (48, .f 1 5000), (52, .f 100 1000), (56, .f 100 1000), (60, .f 100 1000), (64, .f 100 1000), (68, .f 0 1000000), (72, .f 0 1000000),
    (76, .f 0 tm), (80, .f 0 10), (84, .f (1 / 100) 60), (88, .f 100 1100), (92, .f 100 1100), (96, .f 100 1100), (100, .f (1 / 10) 1000), (104, .f 1 1000000),
    (108, .f 0 100000), (112, .f 100 1100), (116, .f 5 100), (120, .f 5 100), (124, .f (2 / 100000) (1 / 1000)), (128, .f 0 im)]
    && [0, 1].all (fun t => fieldOk p (32 + 4 * t, .u 1 16))
    && decide (fAt p 40 + fAt p 44 < fAt p 48) && (List.range 7).all up

/-! ## Position interfaces (R209, R210, R232, R238) -/

/-- The code after `c` in the order of rising HALL_ANG, and the distance to it. -/
def hallNext (p : List Byte) (c : Nat) : Nat × Nat :=
  let a (k : Nat) : Nat := uAt p (16 + 4 * k) 4
  ([1, 2, 3, 4, 5, 6].filter (fun k => decide (k ≠ c))).foldl (fun m k =>
    let d := ang ((a k : Int) - a c)
    if d < m.2 then (k, d) else m) (0, 2 ^ 32)

/-- R232: each step of the order changes one bit and spans 60° ± 15°. -/
def hallOk (p : List Byte) : Bool :=
  [1, 2, 3, 4, 5, 6].all (fun c =>
    let n := hallNext p c
    decide (onesFrom (Nat.xor c n.1) 0 3 = 1) && decide (45 * 2 ^ 32 ≤ n.2 * 360) && decide (n.2 * 360 ≤ 75 * 2 ^ 32))

/-- Input steps per mechanical turn of an emulation's source (R238). -/
def srcSteps (c : RecCtx) (k : Nat) : Nat :=
  if k < 2 then 65536 * c.u 0x40 k 28 else if k < 4 then 65536 * c.u 0x40 k 52 else if k < 6 then 4 * c.u 0x40 k 20 else 6 * c.u 0x40 k 0

/-- The motor pole pairs that every set naming the interface carries (R207, R210). -/
def posUsersOk (c : RecCtx) (inst pp : Nat) : Bool :=
  c.sets.all (fun t => decide (c.u 0x30 t 20 ≠ inst) || (decide (t = 1) && decide (c.u 0x30 0 0 = 2)) || decide (c.u 0x38 0 (32 + 4 * t) = pp))

def resFields (p : List Byte) : List (Nat × Chk) :=
  [(12, .zero), (16, .zero), (20, .f 5000 20000), (24, .f 1 4), (28, .u 1 8), (32, .f 100 (fAt p 20 / 10)), (36, .f (5 / 100) 1), (40, .f (5 / 100) 1), (44, .u (2 ^ 24) (2 ^ 29)),
    (48, .u 0 15), (52, .f 10 10000), (60, .zero)]

def okRes (p : List Byte) : Bool :=
  fieldsOk p (resFields p) && decide (uAt p 0 4 % max (uAt p 28 4) 1 = 0 ∧ fAt p 36 < fAt p 40 ∧ (uAt p 56 4 : Q) * 2 * fAt p 20 ≤ 10240000000)

def sentFields (p : List Byte) : List (Nat × Chk) :=
  [(12, .zero), (16, .zero), (20, .f (3 / 1000000) (1 / 100000)), (24, .u 3 6), (28, .u 12 (min 24 (4 * uAt p 24 4))), (32, .u 0 1), (36, .f 0 (1 / 1000)), (40, .f (1 / 10000) (1 / 100)),
    (44, .u 1 255), (48, .f (1 / 1000) 1), (52, .u 1 16), (56, .zero), (60, .zero)]

def okSent (p : List Byte) : Bool := fieldsOk p (sentFields p) && decide (uAt p 0 4 % max (uAt p 52 4) 1 = 0)

/-- What encoders and Halls share. -/
def edgeFields : List (Nat × Chk) := [(12, .u 1 64), (16, .f (1 / 1000) 1), (44, .u 1 255), (48, .f (1 / 1000) 1), (52, .zero), (56, .zero)]

def abzFields : List (Nat × Chk) := [(20, .u 16 65536), (28, .zero), (32, .zero), (36, .zero), (40, .zero), (60, .u 1 64)]

def okAbz (c : RecCtx) (p : List Byte) : Bool :=
  let aid := uAt p 24 4
  fieldsOk p edgeFields && fieldsOk p abzFields && decide (aid = 0 ∨ ((aid = 6 ∨ aid = 7) ∧ c.has 0x40 aid = true))

def okHallRec (inst : Nat) (p : List Byte) : Bool := fieldsOk p edgeFields && fieldOk p (60, .u 0 (if inst < 8 then 64 else 0)) && hallOk p

def emFields (p : List Byte) : List (Nat × Chk) := [(20, .u 0 7), (24, .u 1 (min 65535 (uAt p 28 4))), (28, .u 1 65535), (32, .u 4 400), (36, .u 0 1)]

def okEm (c : RecCtx) (p : List Byte) : Bool :=
  fieldsOk p (emFields p) && fieldsOk p (zeros [0, 4, 8, 12, 16, 40, 44, 48, 52, 56, 60])
    && c.has 0x40 (uAt p 20 4) && decide (srcSteps c (uAt p 20 4) * uAt p 24 4 % (4 * max (uAt p 28 4) 1) = 0)

def okPos (c : RecCtx) (inst : Nat) (p : List Byte) : Bool :=
  if inst < 10 then
    fieldsOk p [(0, .u 1 16), (8, .u 0 1)] && posUsersOk c inst (uAt p 0 4)
      && (if inst < 2 then okRes p else if inst < 4 then okSent p else if inst < 6 then okAbz c p else okHallRec inst p)
  else okEm c p

/-! ## Charger stages (R267, R284, R290) -/

/-- The PFC record uses reverse (R284). -/
def revUsed (p : List Byte) : Bool := decide (fAt p 80 ≠ 0 ∧ fAt p 84 ≠ 0 ∧ fAt p 88 ≠ 0)

def okPfc (c : RecCtx) (p : List Byte) : Bool :=
  let b := sdBytes (uAt p 4 4)
  let h := sdBytes (uAt p 68 4)
  fieldsOk p [(0, .u 0 2), (8, .f 10 200), (12, .f (1 / 100000) (5 / 1000)), (16, .f 0 1000), (20, .f 0 10000000), (24, .f 0 100), (28, .f 0 100000), (32, .f 650 900),
    (36, .f 100 100000), (40, .f 1 (fAt p 8)), (44, .f (fAt p 40) (fAt p 8)), (48, .f (fAt p 32 + 20) 1000), (52, .f 80 300), (56, .f 80 300), (60, .f 45 65), (64, .f 45 65),
    (72, .f (1 / 10) 5), (76, .f 0 22000)]
    && (nth b 0 9 < 8) && (nth b 1 9 < 8) && (decide (nth b 2 9 < 8) || (decide (nth b 2 9 = 0xFF) && decide (uAt p 0 4 ≠ 0))) && decide (nth b 3 0 = 0xFF)
    && h.all (fun x => decide (x ≤ 5))
    && (if revUsed p then
          fieldsOk p [(80, .f 200 240), (84, .f 50 60), (88, .f 0 11000), (92, .f 0 10), (96, .f 0 100000), (100, .f 0 (fAt p 40)), (104, .f (1 / 1000) 5)]
            && decide (fAt p 84 = 50 ∨ fAt p 84 = 60)
        else fieldsOk p ([80, 84, 88, 92, 96, 100, 104].map (fun o => (o, Chk.f 0 0))))
    && sdOk c 0x50 0 3 p

def okDab (c : RecCtx) (p : List Byte) : Bool :=
  let b := sdBytes (uAt p 0 4)
  let rev := revUsed (c.p 0x50 0)
  fieldsOk p [(4, .f 10 200), (8, .f 10 400), (12, .f 500 1200), (16, .f (1 / 2) 2), (20, .f (1 / 1000000) (2 / 10000)), (24, .f 0 1), (28, .f 0 10000), (32, .f 0 100), (36, .f 0 100000),
    (40, .f 0 (if rev then 1 else 0)), (44, .f 0 (if rev then 10000 else 0)), (48, .f (5 / 100) (1 / 2)), (52, .u 0 1), (56, .f 200 1000), (60, .f 1000 1000000), (64, .f 0 1),
    (68, .f (1 / 2) 20), (72, .f 1 (fAt p 8)), (76, .f 0 20)]
    && (b.take 3).all (fun x => decide (x < 8)) && decide (nth b 3 0 = 0xFF) && decide (uAt p 80 4 ≤ 5 ∨ uAt p 80 4 = 0xFF)
    && sdOk c 0x50 1 4 p

/-! ## AIN inputs (R296, R356) -/

/-- The AIN inputs that a record names. -/
def ainNamed (ty inst : Nat) (p : List Byte) : List Nat :=
  if ty = 0x58 then (if inst = 0 then [uAt p 8 4] else ((sdBytes (uAt p 68 4)).take 3).filter (fun b => decide (b ≠ 0xFF)))
  else if ty = 0x78 then [uAt p 4 4]
  else if ty = 0x70 then (if 0x100 ≤ uAt p 0 4 then [uAt p 0 4 - 0x100] else [])
  else []

/-- No AIN input of the record is named twice, here or in another record; switches that share an anchor name it together (log
entry 19). -/
def ainOk (c : RecCtx) (ty inst : Nat) (p : List Byte) : Bool :=
  let mine := ainNamed ty inst p
  decide mine.Nodup && mine.all (fun a => c.recs.all (fun r =>
    decide (r.ty = ty ∧ (r.inst = inst ∨ ty = 0x70)) || !(ainNamed r.ty r.inst r.data).contains a))

/-! ## LV converter and charging services (R317, R347) -/

def okLvc (c : RecCtx) (inst : Nat) (p : List Byte) : Bool :=
  ainOk c 0x58 inst p &&
  (if inst = 0 then fieldsOk p [(0, .f 100000 500000), (4, .f (1 / 1000) (5 / 100)), (8, .u 0 15), (12, .f 25 45), (16, .f (fAt p 12 + 10) 70), (20, .u 0 5120), (24, .u 0 5120), (28, .f 0 100)]
   else
    let b := sdBytes (uAt p 68 4)
    fieldsOk p [(0, .u 2 6), (4, .f 200000 1000000), (8, .f 0 (8 / 100)), (12, .f 1000 20000), (16, .f 10 16), (20, .f 100 50000), (24, .f (1 / 1000) (1 / 10)), (28, .f (5 / 10000) (2 / 100)),
      (32, .f 0 (1 / 100)), (36, .f 10 400), (40, .f 5 100), (44, .f 1 50), (48, .f 0 10), (52, .f 0 1000000), (56, .f 0 (1 / 10)), (60, .f 0 10000), (64, .f 0 (1 / 100)),
      (72, .f (2 / 10) 1), (76, .f 10 14), (80, .f (1 / 10000000) (2 / 1000000)), (84, .f (165 / 10) 20)]
      && (b.take 3).all (fun x => decide (x ≤ 15 ∨ x = 0xFF)) && decide (nth b 2 0xFF ≠ 0xFF) && decide (nth b 3 0 = 0xFF))

def okChg (c : RecCtx) (p : List Byte) : Bool :=
  fieldsOk p [(4, .u 0 15), (8, .f 6 63), (12, .f (1 / 2) (c.f 0x50 1 4)), (16, .f 200 (c.f 0x50 1 56 - 10)), (20, .f (8 / 10) (99 / 100)), (24, .f 1 1000), (28, .f (1 / 100) (1 / 2)),
    (32, .f 1 600), (36, .u 0 255), (40, .f (1 / 2) (fAt p 12)), (44, .f 1 600), (48, .f 1 600), (52, .f 600 86400), (56, .u 0 10), (60, .f 1 600), (64, .f 5 60),
    (68, .f 0 (c.f 0x50 0 88)), (76, .u 0 1), (80, .f 13 (155 / 10)), (84, .f 13 (fAt p 80)), (88, .f 0 36000), (92, .f 12 (145 / 10)), (96, .f 100 50000)]
    && decide (uAt p 0 4 ≤ 5 ∨ uAt p 0 4 = 0xFF) && (fieldOk p (72, .f 0 0) || fieldOk p (72, .f 6 32))

/-! ## Thermal models and actuators (R356, R360, R361, R363, R377) -/

def thFields (p : List Byte) : List (Nat × Chk) :=
  [(12, .f 0 1), (16, .f (1 / 10) 1000), (20, .f 0 10), (24, .f 0 10), (28, .f 0 10), (32, .f 0 10), (36, .f (1 / 100000) 1000), (40, .f (1 / 100000) 1000), (44, .f (1 / 100000) 1000),
    (48, .f (1 / 100000) 1000), (52, .f 0 200), (56, .f (fAt p 52) 200), (60, .f 0 200), (64, .f 1 4000), (68, .f (-40) 200), (72, .f (-40) 200), (76, .f 1 1200)]

/-- ANC_SRC, ANC_GAIN and ANC_OFS: a present secondary's TSN, or an AIN input. -/
def ancOk (c : RecCtx) (p : List Byte) : Bool :=
  if 0x100 ≤ uAt p 0 4 then fieldsOk p [(0, .u 0x100 0x10F), (4, .f (-1000) 1000), (8, .f (-100) 200)]
  else fieldsOk p [(0, .u 0 28), (4, .f 0 0), (8, .f 0 0)] && c.chMask.testBit (uAt p 0 4)

/-- The records of one anchor group carry equal R_N and TAU_N (R356). -/
def ancSame (c : RecCtx) (p : List Byte) : Bool :=
  c.recs.all (fun r => decide (r.ty ≠ 0x70 ∨ uAt r.data 0 4 ≠ uAt p 0 4 ∨ (uAt r.data 12 4 = uAt p 12 4 ∧ uAt r.data 16 4 = uAt p 16 4)))

def okTh (c : RecCtx) (inst : Nat) (p : List Byte) : Bool :=
  ancOk c p && fieldsOk p (thFields p) && decide (fAt p 56 < fAt p 60 ∧ fAt p 68 < fAt p 72) && ancSame c p
    && arrayOk 0 20 256 (p.drop 80) && arrayOk 0 1 512 (p.drop 1104) && ainOk c 0x70 inst p

def okAct (c : RecCtx) (inst : Nat) (p : List Byte) : Bool :=
  let comm := uAt p 0 4
  decide (comm < 2 ^ 24)
    && (List.range 6).all (fun k => let n := comm / 16 ^ k % 16; decide (n % 4 < 3 ∧ n / 4 < 3 ∧ n % 4 ≠ n / 4))
    && fieldsOk p [(4, .u 0 15), (8, .f 1 20), (12, .f (5 / 10000) (5 / 100)), (16, .f 0 (1 / 100)), (20, .f 1 60), (24, .f (fAt p 20) 80), (28, .f 0 100), (32, .f (1 / 10) 1), (36, .f 1 1000),
      (40, .f (1 / 100) 1), (44, .f (5 / 100) 5), (48, .u 0 3), (52, .u 1 60), (56, .f (1 / 1000) (1 / 10)), (60, .u 1 12), (64, .u 0 12), (68, .i (-65535) 65535), (72, .i (-65535) 65535),
      (76, if inst = 0 then .zero else .i (-65535) 65535), (80, .f 1 500), (84, .f (1 / 100) 1), (88, .f (1 / 10) (fAt p 32)), (92, .f 6 16), (96, .u 0 24)]
    && ainOk c 0x78 inst p

/-! ## Safety (R398, R399) -/

def okSi (c : RecCtx) (inst : Nat) (p : List Byte) : Bool :=
  if uAt p 0 4 = 0 then decide (6 ≤ inst) && fieldsOk p (zeros [4, 8, 12, 16, 20, 24, 28])
  else fieldsOk p [(0, .u 1 1), (4, .u 2 1000), (8, .u 1 500), (12, .u 0 1), (16, .u 0 0x6F), (20, .u 0 0x6F), (24, .u 0 0x3F)]
    && decide (uAt p 28 4 ≤ 4 ∨ uAt p 28 4 = 0xFF) && c.domOk (uAt p 16 4) && c.domOk (uAt p 20 4)

/-! ## Fabric and pair (R467, R472) -/

def okFab (p : List Byte) : Bool :=
  fieldsOk p [(0, .u 1 15), (4, .u 0 32), (8, .f (2 / 10) 10), (12, .f (1 / 1000000) (1 / 1000)), (16, .u 1 12), (20, .zero)]

def okPair (c : RecCtx) (p : List Byte) : Bool :=
  fieldsOk p [(8, .f (2 / 1000) (2 / 100)), (12, .f (5 / 10000) (5 / 1000)), (16, .f 0 (c.least 0x31 3 0)), (20, .u 0 1), (24, .f (1 / 10) 50), (32, .f (5 / 100) (1 / 2))]
    && (fieldOk p (28, .f 0 0) || fieldOk p (28, .f 5 600)) && decide (uAt p 0 8 ≠ c.ident)

/-! ## Vehicle interfaces and messages (R497 to R499) -/

def okVif (inst : Nat) (p : List Byte) : Bool :=
  if inst < 2 then
    fieldsOk p [(0, .u 125000 1000000), (24, .u 10 1000), (28, .zero)]
      && (fieldOk p (4, .zero) || fieldOk p (4, .u 1000000 8000000)) && (fieldOk p (8, .zero) || fieldOk p (8, .u 2000000 10000000))
  else (fieldOk p (0, .u 100 100) || fieldOk p (0, .u 1000 1000)) && fieldsOk p [(8, .u 8 30), (12, .u 0 4094), (16, .u 0 0x0DFF), (28, .zero)]

/-- The functions of the message set. -/
def msgFuncs : List Nat := [0x01, 0x02, 0x03, 0x04, 0x05, 0x20, 0x21, 0x22, 0x23, 0x24]

/-- The function is telemetry: without E2E. -/
def telemetry (func : Nat) : Bool := decide (0x21 ≤ func)

/-- Two messages clash: a function, a CAN identifier on one controller, a UDP port or a data ID in common. -/
def msgClash (a b : List Byte) : Bool :=
  let both := Nat.land (uAt a 4 4) (uAt b 4 4)
  decide (uAt a 0 4 = uAt b 0 4)
    || ((both.testBit 0 || both.testBit 1) && decide (uAt a 8 4 % 2 ^ 30 = uAt b 8 4 % 2 ^ 30 ∧ uAt a 8 4 / 2 ^ 31 = uAt b 8 4 / 2 ^ 31))
    || (both.testBit 2 && decide (uAt a 12 4 = uAt b 12 4))
    || (!telemetry (uAt a 0 4) && !telemetry (uAt b 0 4) && decide (uAt a 24 4 = uAt b 24 4))

def okMsg (c : RecCtx) (inst : Nat) (p : List Byte) : Bool :=
  let func := uAt p 0 4
  let mask := uAt p 4 4
  let id := uAt p 8 4
  msgFuncs.contains func && fieldsOk p [(4, .u 1 7), (16, .f (1 / 1000) 1)]
    && [0, 1, 2].all (fun k => !mask.testBit k || c.has 0xA0 k)
    && (if mask % 4 = 0 then decide (id = 0) else decide (id % 2 ^ 30 < (if id / 2 ^ 31 = 1 then 2 ^ 29 else 2 ^ 11)))
    && (if mask.testBit 2 then fieldOk p (12, .u 1024 65535) else fieldOk p (12, .zero))
    && (if telemetry func then fieldsOk p [(20, .f 0 0), (24, .zero)] else fieldsOk p [(20, .f (2 * fAt p 16) 1), (24, .u 0 0xFFFF)])
    && c.recs.all (fun r => decide (r.ty ≠ 0xA1) || decide (r.inst = inst) || !msgClash p r.data)

/-! ## Security policy (R514) -/

/-- One entry of ROOT. -/
def rootOk (used : Bool) (e : List Byte) : Bool :=
  if used then decide (300 ≤ uAt e 0 4 ∧ uAt e 0 4 ≤ 1020) else e.all (fun b => decide (b = 0))

def okSec (c : RecCtx) (p : List Byte) : Bool :=
  let add := uAt p 68 4
  let roots (k : Nat) : List Byte := bytesAt p (212 + 1024 * k) 1024
  fieldsOk p [(64, .u 0 15), (68, .u 0 15), (200, .u 0 2), (204, .u 0 31), (208, .u 0 4)]
    && !(uAt p 64 4).testBit c.oemKey
    && [0, 1, 2, 3].all (fun k => add.testBit k || (bytesAt p (72 + 32 * k) 32).all (fun b => decide (b = 0)))
    && [0, 1, 2, 3].all (fun k => rootOk (decide (k < uAt p 208 4)) (roots k))

/-! ## The table of R102 -/

/-- The payload length of a record; none for a TYPE or INSTANCE outside the table. An image of another FORMAT that the firmware accepts
is checked by these rules too, the only ones the spec gives: the model's choice (R102, log entry 20). -/
def recLen (ty inst : Nat) : Option Nat :=
  let one (hi len : Nat) : Option Nat := if inst ≤ hi then some len else none
  if ty = 0x01 then one 0 16
  else if ty = 0x02 then one 0 4
  else if ty = 0x03 then one 0 16
  else if ty = 0x10 then one 54 72
  else if ty = 0x20 then one 9 64
  else if ty = 0x30 then one 1 156
  else if ty = 0x31 then one 5 16400
  else if ty = 0x38 then one 0 132
  else if ty = 0x40 then one 11 64
  else if ty = 0x50 then one 1 (if inst = 0 then 108 else 84)
  else if ty = 0x58 then one 1 (if inst = 0 then 32 else 88)
  else if ty = 0x60 then one 0 100
  else if ty = 0x70 then one 54 3152
  else if ty = 0x71 then one 0 20
  else if ty = 0x78 then one 1 100
  else if ty = 0x80 then one 7 32
  else if ty = 0x81 then one 0 8
  else if ty = 0x90 then one 0 24
  else if ty = 0x98 then one 0 36
  else if ty = 0xA0 then one 2 32
  else if ty = 0xA1 then one 255 28
  else if ty = 0xB0 then one 0 4
  else if ty = 0xC0 then one 0 4308
  else none

/-- The record's channel, function or interface is present (R104). -/
def RecCtx.owned (c : RecCtx) (ty inst : Nat) : Bool :=
  let ch (lo n : Nat) : Bool := (List.range n).any (fun k => c.chMask.testBit (lo + k))
  if ty = 0x10 ∨ ty = 0x70 then c.chMask.testBit inst
  else if ty = 0x20 then ch (nth [0, 6, 12, 13, 19, 27, 29, 31, 43, 49] inst 0) (nth [6, 6, 1, 6, 8, 2, 2, 12, 6, 6] inst 0)
  else if ty = 0x30 then c.fn inst
  else if ty = 0x31 then c.fn (inst / 3)
  else if ty = 0x38 then c.fn 0 || c.fn 1
  else if ty = 0x50 then c.fn 3
  else if ty = 0x58 then c.fn (5 + inst)
  else if ty = 0x60 then c.fn 9
  else if ty = 0x78 then c.fn (7 + inst)
  else if ty = 0x90 then c.fn 10
  else if ty = 0x98 then c.fn 11
  else true

/-- A record passes R102 to R104 and the rules of its owner chapter. -/
def recOk (c : RecCtx) (r : Rec) : Bool :=
  decide (recLen r.ty r.inst = some r.data.length) && c.owned r.ty r.inst &&
  (if r.ty = 0x01 then okDevice c r.data
   else if r.ty = 0x02 then fieldOk r.data (0, .f (22 / 10000) (22 / 1000))
   else if r.ty = 0x03 then okMode c r.data
   else if r.ty = 0x10 then okGate r.inst r.data
   else if r.ty = 0x20 then okPwm c r.inst r.data
   else if r.ty = 0x30 then okOrr c r.inst r.data
   else if r.ty = 0x31 then okMap c r.inst r.data
   else if r.ty = 0x38 then okTm c r.data
   else if r.ty = 0x40 then okPos c r.inst r.data
   else if r.ty = 0x50 then (if r.inst = 0 then okPfc c r.data else okDab c r.data)
   else if r.ty = 0x58 then okLvc c r.inst r.data
   else if r.ty = 0x60 then okChg c r.data
   else if r.ty = 0x70 then okTh c r.inst r.data
   else if r.ty = 0x71 then fieldsOk r.data [(0, .f 100 1000000), (4, .f 1000 6000), (8, .f 50 150), (12, .f 0 10), (16, .f (1 / 1000) 1)]
   else if r.ty = 0x78 then okAct c r.inst r.data
   else if r.ty = 0x80 then okSi c r.inst r.data
   else if r.ty = 0x81 then fieldsOk r.data [(0, .u 0 0x6F), (4, .u 0 3)] && c.domOk (uAt r.data 0 4)
   else if r.ty = 0x90 then okFab r.data
   else if r.ty = 0x98 then okPair c r.data
   else if r.ty = 0xA0 then okVif r.inst r.data
   else if r.ty = 0xA1 then okMsg c r.inst r.data
   else if r.ty = 0xB0 then fieldOk r.data (0, .u 0 0xFF)
   else if r.ty = 0xC0 then okSec c r.data
   else false)

/-- The records that R102 requires. -/
def RecCtx.required (c : RecCtx) : List (Nat × Nat) :=
  let owned (ty n : Nat) : List (Nat × Nat) := ((List.range n).filter (c.owned ty)).map (fun k => (ty, k))
  [(1, 0), (2, 0), (3, 0), (0x71, 0), (0x81, 0), (0xB0, 0), (0xC0, 0)] ++ (List.range 8).map (fun k => (0x80, k))
    ++ owned 0x10 55 ++ owned 0x20 10 ++ owned 0x30 2 ++ owned 0x31 6 ++ owned 0x38 1 ++ owned 0x50 2 ++ owned 0x58 2 ++ owned 0x60 1 ++ owned 0x70 55 ++ owned 0x78 2 ++ owned 0x90 1 ++ owned 0x98 1
    ++ (if c.fn 7 then [(0x40, 8)] else []) ++ (if c.fn 8 then [(0x40, 9)] else [])

/-- The received functions that must be mapped (R498). -/
def RecCtx.mapped (c : RecCtx) : Bool :=
  let m (f : Nat) : Bool := c.recs.any (fun r => decide (r.ty = 0xA1) && decide (uAt r.data 0 4 = f))
  m 2 && (!(c.fn 0 || c.fn 1) || m 1) && (!c.fn 9 || m 4)

/-- The first record that breaks a rule. -/
def firstBadRec (c : RecCtx) : Nat → List Rec → Option Nat
  | _, [] => none
  | k, r :: rest => if recOk c r then firstBadRec c (k + 1) rest else some k

/-- Step 7 of R106: none on a pass, else the cause and the record it names. RECORD_COUNT counts END. -/
def checkRecords (c : RecCtx) (count : Nat) : Option (Nat × Option Nat) :=
  if c.recs.length + 1 ≠ count then some (0x19, none)
  else
    match firstBadRec c 0 c.recs with
    | some k => some (0x1A, some k)
    | none => if c.required.all (fun k => c.has k.1 k.2) && c.mapped then none else some (0x1A, none)

end Sys2Proof.Machine
end

