-- ==== Sys2Proof/Machine/Ecc.lean ====
section
/-! DEFINITION. The comparator of a lockstep pair, the check bits of the shared memories and the start-up checks (R405, R408, R412, R414). -/

namespace Sys2Proof.Machine

/-! ## The comparator (R405, R408) -/

/-- The nibbles that the 28 leaf cells take of what a core drives: address, write data, control, interrupt acknowledge (R405). -/
def boundNibbles (x : Bound) : List (BitVec 4) :=
  (List.range 8).map (fun i => x.addr.extractLsb' (4 * i) 4) ++ (List.range 16).map (fun i => x.data.extractLsb' (4 * i) 4) ++
    (List.range 2).map (fun i => x.ctrl.extractLsb' (4 * i) 4) ++ (List.range 2).map (fun i => x.iack.extractLsb' (4 * i) 4)

/-- The 28 rail pairs: 1 equal, 2 differ, or the code a failed cell drives (R405, R408). -/
def cellRails (rails : List (Nat × BitVec 2)) (x y : Bound) : List (BitVec 2) :=
  (List.range 28).map (fun n =>
    match rails.find? (fun r => decide (r.1 = n)) with
    | some r => r.2
    | none => if (boundNibbles x)[n]? = (boundNibbles y)[n]? then 1 else 2)

/-- The rail pairs of the tree's nodes that drive a code of their own; the others follow the cells (R405). -/
def nodeRails (rails : List (Nat × BitVec 2)) : List (BitVec 2) := (rails.filter (fun r => decide (28 ≤ r.1))).map Prod.snd

/-- The KIND of a difference by the first cell that sees it. -/
def cellKind (n : Nat) : Nat := if n < 8 then 1 else if n < 24 then 2 else if n < 26 then 3 else 4

/-- What the comparator sees: none if every rail pair says equal; else the KIND, 6 for an invalid code (R405, R408). A node alone that says
differ shows a kind that is free (log entry 48). -/
def compared (rails : List (Nat × BitVec 2)) (x y : Bound) (free : Nat) : Option Nat :=
  if rails = [] ∧ x = y then none
  else
    let cells := cellRails rails x y
    let all := cells ++ nodeRails rails
    if all.all (fun r => decide (r = 1)) = true then none
    else if all.any (fun r => decide (r = 0 ∨ r = 3)) = true then some 6
    else
      match cells.findIdx? (fun r => decide (r = 2)) with
      | some n => some (cellKind n)
      | none => some (1 + free % 4)

/-! ## Check bits (R414, R417) -/

/-- How many bits of a column are set. -/
def colWeight (c : BitVec 8) : Nat := ((List.range 8).filter (fun i => c.getLsbD i)).length

/-- Columns that R414 allows: 64 distinct data columns of odd weight, none that of a check bit; 21 distinct non-zero address columns of even
weight. -/
def eccAllowed (data addr : List (BitVec 8)) : Bool :=
  decide (data.length = 64) && decide data.Nodup && data.all (fun c => decide (colWeight c % 2 = 1) && decide (colWeight c ≠ 1)) &&
    decide (addr.length = 21) && decide addr.Nodup && addr.all (fun c => decide (colWeight c % 2 = 0) && decide (c ≠ 0))

/-- The columns of weight `n`, ascending. -/
def colsOf (n : Nat) : List (BitVec 8) := ((List.range 256).map (BitVec.ofNat 8)).filter (fun c => decide (colWeight c = n))

/-- The code's columns, of the data and of the address (b, w): any that R414 allows (log entry 48). -/
def eccColumns : List (BitVec 8) × List (BitVec 8) :=
  if eccAllowed Config.eccData Config.eccAddr then (Config.eccData, Config.eccAddr) else (colsOf 3 ++ (colsOf 5).take 8, (colsOf 2).take 21)

/-- The sum of the columns that a choice of indices takes. -/
def xorCols (cols : List (BitVec 8)) (sel : Nat → Bool) : Nat → BitVec 8
  | 0 => 0
  | n + 1 => if sel n then xorCols cols sel n ^^^ cols.getD n 0 else xorCols cols sel n

/-- The 21-bit address (b, w) of a word (R414). -/
def eccAddress (b : Fin 9) (w : Nat) : Nat := b.val * 2 ^ 17 + w

/-- The 8 check bits of a word over its data and its address (R414). -/
def checkBits (b : Fin 9) (w : Nat) (data : BitVec 64) : BitVec 8 :=
  xorCols eccColumns.1 (fun i => data.getLsbD i) 64 ^^^ xorCols eccColumns.2 (fun i => (eccAddress b w).testBit i) 21

/-- The syndrome of a word read. -/
def syndrome (r : MemRead) : BitVec 8 := checkBits r.bank r.word r.data ^^^ r.check

/-- What the check bits say of a word read. -/
inductive EccResult where
  | clean
  | corrected (data : BitVec 64)
  | uncorrectable
  deriving DecidableEq, Repr

/-- The verdict of a syndrome: 0 is clean; that of one check bit or of one data column is corrected; any other is uncorrectable (R414). -/
def verdict (r : MemRead) : EccResult :=
  let y := syndrome r
  if y = 0 then .clean
  else if colWeight y % 2 = 0 then .uncorrectable
  else if colWeight y = 1 then .corrected r.data
  else
    match eccColumns.1.findIdx? (fun c => decide (c = y)) with
    | some i => .corrected (r.data ^^^ (1#64 <<< i))
    | none => .uncorrectable

/-- The syndrome of a poisoned word: non-zero and even, so it always decodes as uncorrectable (R417). -/
def poisonSyndrome : BitVec 8 := if Config.eccPoison ≠ 0 ∧ colWeight Config.eccPoison % 2 = 0 then Config.eccPoison else 3

/-! ## The start-up checks (R412) -/

/-- Every bit of the boundary. -/
def allOnes : Bound := { addr := BitVec.allOnes 32, data := BitVec.allOnes 64, ctrl := BitVec.allOnes 8, iack := BitVec.allOnes 8 }

/-- The boundary with one bit of a leaf cell flipped. -/
def flipCell (cell bit : Nat) (x : Bound) : Bound :=
  if cell < 8 then { x with addr := x.addr ^^^ (1#32 <<< (4 * cell + bit)) }
  else if cell < 24 then { x with data := x.data ^^^ (1#64 <<< (4 * (cell - 8) + bit)) }
  else if cell < 26 then { x with ctrl := x.ctrl ^^^ (1#8 <<< (4 * (cell - 24) + bit)) }
  else { x with iack := x.iack ^^^ (1#8 <<< (4 * (cell - 26) + bit)) }

/-- The comparator under test: two stages on the main side, two on the checker's, and whether its alarm has come. -/
structure Taps where
  m1 : Bound
  m2 : Bound
  c1 : Bound
  c2 : Bound
  alarm : Bool
  deriving DecidableEq, Repr

/-- Before the first transfer of a test. -/
def Taps.start : Taps := { m1 := .idle, m2 := .idle, c1 := .idle, c2 := .idle, alarm := false }

/-- One transfer of a test through both sides, whose words change with every transfer. Registers that are held keep what they hold; `flip`
changes what stands in the stages before the comparator looks. -/
def Taps.next (held : List DelayReg) (rails : List (Nat × BitVec 2)) (flip : Taps → Taps) (n : Nat) (x : Taps) : Taps :=
  let w := if n % 2 = 0 then Bound.idle else allOnes
  let y := flip { x with m1 := if held.contains .main1 then x.m1 else w, m2 := if held.contains .main2 then x.m2 else x.m1,
                         c1 := if held.contains .checker1 then x.c1 else w, c2 := if held.contains .checker2 then x.c2 else x.c1 }
  { y with alarm := y.alarm || (compared rails y.m2 y.c2 0).isSome }

/-- A code forced on a node, where no defect holds it at another. -/
def forced (n : Nat) (code : BitVec 2) (rails : List (Nat × BitVec 2)) : List (Nat × BitVec 2) :=
  if rails.any (fun r => decide (r.1 = n)) then rails else (n, code) :: rails

/-- The codes that pattern `k` forces: on the first node of the tree, or on the final one. -/
def patternRails (k : Nat) (rails : List (Nat × BitVec 2)) : List (Nat × BitVec 2) :=
  if k = 56 then forced 28 0 rails else if k = 57 then forced 28 3 rails
  else if k = 58 then forced 54 0 rails else if k = 59 then forced 54 3 rails else rails

/-- The register that pattern `k` holds for one transfer. -/
def patternHeld (k : Nat) : List DelayReg :=
  if k = 60 then [.main1] else if k = 61 then [.main2] else if k = 62 then [.checker1] else if k = 63 then [.checker2] else []

/-- The bit that pattern `k` flips. -/
def patternFlip (k : Nat) (x : Taps) : Taps :=
  if k < 28 then { x with m1 := flipCell k 0 x.m1 } else if k < 56 then { x with c2 := flipCell (k - 28) 3 x.c2 } else x

/-- Pattern `k` raises the alarm of a pair with these defects: after two plain transfers it is injected with the third, and the alarm comes
within 200 ns, four transfers at 50 ns. -/
def patternAlarms (d : PairDefect) (k : Nat) : Bool :=
  let x := [0, 1].foldl (fun x n => x.next d.held d.rails id n) Taps.start
  let x := { x with alarm := false }.next (d.held ++ patternHeld k) (patternRails k d.rails) (patternFlip k) 2
  ([3, 4, 5].foldl (fun x n => x.next d.held (patternRails k d.rails) id n) x).alarm

/-- Transfers without injection, `n` of them, raise no alarm. -/
def quietRun (d : PairDefect) : Nat → Taps → Bool
  | 0, x => !x.alarm
  | n + 1, x => quietRun d n (x.next d.held d.rails id n)

/-- The defects of a pair, none where none is listed. -/
def defectOf (l : List PairDefect) (p : LPair) : PairDefect :=
  match l.find? (fun d => decide (d.p = p)) with
  | some d => d
  | none => { p := p, held := [], rails := [] }

/-- Step 2: of the test reads brought, each word with one flipped bit is corrected to the 0 that was written and each with two is
uncorrectable. Those of a bank not brought come back so. -/
def eccTestOk (reads : List (MemRead × MemRead)) : Bool :=
  reads.all (fun r => decide (verdict r.1 = .corrected 0) && decide (verdict r.2 = .uncorrectable))

/-- Step 3: the first pair and pattern without its alarm. -/
def patternFail (l : List PairDefect) : Option StartCheck :=
  pairAll.findSome? (fun p =>
    match (List.range 64).find? (fun k => !patternAlarms (defectOf l p) k) with
    | some k => some { step := 3, pair := p.num, pattern := k }
    | none => none)

/-- Step 4: the first pair that raises an alarm in 1,000 transfers. -/
def quietFail (l : List PairDefect) : Option StartCheck :=
  match pairAll.find? (fun p => !quietRun (defectOf l p) 1000 Taps.start) with
  | some p => some { step := 4, pair := p.num, pattern := 0 }
  | none => none

/-- The start-up checks in their order: the first that fails. -/
def startCheck (reads : List (MemRead × MemRead)) (defects : List PairDefect) : Option StartCheck :=
  if eccTestOk reads = false then some { step := 2, pair := 0, pattern := 0 }
  else
    match patternFail defects with
    | some f => some f
    | none => quietFail defects

end Sys2Proof.Machine
end

