-- ==== Sys2Proof/Machine/Actuator.lean ====
section
/-! DEFINITION. Gearbox actuator drives (14_actuators.md): commutation, moves, sequences and their ends. -/

namespace Sys2Proof.Machine

/-! ## Positions (R367, R370, R371) -/

/-- COUNT of an actuator's Hall set. -/
def actCount (s : State) (a : Act) : Int := (s.pos.get a.ifc).count

/-- COUNT − C_ref, or COUNT while REF is clear. -/
def actPos (s : State) (a : Act) : Int := actCount s a - ((s.act.get a).ref).getD 0

/-- The Catalogue position of index 0 (A), 1 (B) or 2 (C). -/
def posOf (s : State) (a : Act) (k : Nat) : Int := s.pi 0x78 a.num (68 + 4 * k)

/-- A position lies within POS_TOL of a target. -/
def within (s : State) (a : Act) (x t : Int) : Bool := decide ((x - t).natAbs ≤ s.pu 0x78 a.num 64)

/-- The direction of a stroke to a position: by COUNT once REF is set, else toward the target end of the sequence, which for a shift to N is the
end A (R368, log entry 11). -/
def strokeNeg (s : State) (a : Act) (k : Nat) : Bool :=
  match (s.act.get a).ref with
  | some _ => decide (posOf s a k < actPos s a)
  | none =>
    match a with
    | .park => if k = 0 then decide (posOf s a 0 < posOf s a 1) else decide (posOf s a 1 < posOf s a 0)
    | .shift => if (s.act.get .shift).seq = 3 then decide (posOf s a 2 < posOf s a 0) else decide (posOf s a 0 < posOf s a 2)

/-- Braking: all three low sides on, all high sides off, for T_BRAKE (R369). -/
def brake (a : Act) (why : BrakeWhy) (s : State) : State :=
  { s with act := s.act.upd a (fun x => { x with phase := .braking, why := why, d := 0, dTgt := 0, ilim := false }) }

/-- A move whose position is within POS_TOL of its target brakes, wherever it began (R369). -/
def arrive (a : Act) (s : State) : State :=
  let x := s.act.get a
  if x.phase = .moving ∧ x.ref.isSome = true ∧ within s a (actPos s a) x.target = true then brake a .reached s else s

/-- Start a stroke toward a target relative to C_ref: d = 0 and d_tgt = 0 (R365). -/
def stroke (a : Act) (neg : Bool) (target : Int) (phase : ActPhase) (s : State) : State :=
  arrive a { s with act := s.act.upd a (fun x => { x with phase := phase, neg := neg, fwd := neg, target := target, crossed := false, d := 0, dTgt := 0, ilim := false, peakRun := 0, cut := false }) }

/-- The back-off of a stalled move, against the move's direction (R372). -/
def backOff (a : Act) (s : State) : State :=
  { s with act := s.act.upd a (fun x => { x with phase := .backing, neg := !x.fwd, backAt := actCount s a, d := 0, dTgt := 0, ilim := false, peakRun := 0, cut := false }) }

/-- The phase a move starts in: diagnostics when the bridge is due one (R262, R369). -/
def firstPhase (s : State) (a : Act) : ActPhase := if s.diagDue a.stage then .diag else .moving

/-! ## Moves (R369, R372) -/

/-- The direction to a move's target: by COUNT once REF is set, else that of the move before (R368, R372). -/
def moveNeg (a : Act) (s : State) : Bool :=
  let x := s.act.get a
  if x.ref.isSome then decide (x.target < actPos s a) else x.fwd

/-- The actuator follows its COUNT: within POS_TOL of the target it brakes; a back-off of BACK_CNT counts ends and the
move is repeated (R369, R372). -/
def actOnCount (i : Ifc) (s : State) : State :=
  if i.val = 8 ∨ i.val = 9 then
    let a : Act := if i.val = 8 then .park else .shift
    let x := s.act.get a
    if x.phase = .backing then
      if s.pu 0x78 a.num 52 ≤ (actCount s a - x.backAt).natAbs then stroke a (moveNeg a s) x.target .moving s else s
    else arrive a s
  else s

/-- The index latch as reference: the first becomes C_ref, and the move goes on to its target from there; a later one beyond REF_TOL raises
0x5005 and replaces it. The direction is that of COUNT (R367, R368). -/
def actOnIndex (i : Ifc) (s : State) : State :=
  if i.val = 8 ∨ i.val = 9 then
    let a : Act := if i.val = 8 then .park else .shift
    let x := s.act.get a
    let latch := (s.pos.get i).idx
    let r : Int := if (s.edge.get i).dir < 0 then latch - s.pu 0x78 a.num 96 else latch
    match x.ref with
    | none =>
      let s := { s with act := s.act.put a { x with ref := some r, crossed := true } }
      if x.phase = .moving then
        let neg := moveNeg a s
        arrive a { s with act := s.act.upd a (fun y => { y with neg := neg, fwd := neg }) }
      else s
    | some c =>
      if s.pu 0x78 a.num 60 < (r - c).natAbs then raise 0x5005 a.num 0 { s with act := s.act.put a { x with ref := some r, crossed := true } }
      else { s with act := s.act.put a { x with crossed := true } }
  else s

/-- A sequence completes (R373, R374). -/
def completeSeq (a : Act) (s : State) : State :=
  let x := s.act.get a
  let ms := (s.mer.ns - x.reqNs) / 1000000
  { s with act := s.act.put a { x with phase := .idle, seq := 0, held := if a = .park then (if x.seq = 1 then 2 else 1) else 0, seqs := wrapInc 8 x.seqs, lastMs := min ms 65535 } }

/-- SI3 confirms what the running park sequence waits for (R371, R373). -/
def si3Confirms (s : State) : Bool :=
  match (s.act.get .park).seq with
  | 1 => s.si3Eng
  | 2 => s.si3Rel
  | _ => false

/-- A park sequence whose outputs are off completes when SI3 confirms within T_CONF of that (R373). -/
def parkConfirm (s : State) : State :=
  let x := s.act.get .park
  if x.phase = .awaiting ∧ si3Confirms s = true ∧ ((s.mer.ns - x.offNs : Nat) : Q) ≤ s.pf 0x78 0 84 * 1000000000 then completeSeq .park s else s

/-- The outputs turn off after braking at the target: a correction move, the wait for SI3, the dwell in N, or the end of
the shift (R369, R373, R374). -/
def afterBrake (a : Act) (s : State) : State :=
  let x := s.act.get a
  let s := stopGroup a.grp s
  if within s a (actPos s a) x.target = false then
    if s.pu 0x78 a.num 48 ≤ x.retries then actStop a 0x5001 s
    else
      let s := { s with act := s.act.upd a (fun y => { y with retries := y.retries + 1 }) }
      stroke a (moveNeg a s) x.target .moving s
  else
    match a with
    | .park =>
      parkConfirm { s with act := s.act.upd a (fun y => { y with phase := .awaiting, offNs := s.mer.ns }) }
    | .shift => if x.second then completeSeq a s else { s with act := s.act.upd a (fun y => { y with phase := .awaiting }) }

/-- BRAKE_END: T_BRAKE ends, the outputs turn off or the next move starts (R369, R372, R375). -/
def execBrakeEnd (a : Act) (elapsedMs : Nat) (s : State) : Host.Outcome State Fault Refusal :=
  let x := s.act.get a
  if x.phase ≠ .braking ∨ (elapsedMs : Q) < s.pf 0x78 a.num 56 * 1000 then .next s
  else
    match x.why with
    | .reached => .next (afterBrake a s)
    | .stall => .next (backOff a s)
    | .supersede => .next (stroke a (strokeNeg s a 1) (posOf s a 1) (firstPhase s a) s)
    | .hall => .next (stopGroup a.grp { s with act := s.act.put a { x with phase := .stopped, seq := 0 } })
    | .giveUp code => .next (actStop a code s)

/-- STALL_DETECTED: COUNT unchanged for T_STALL with d above 0: the bridge brakes; then, without the index in a referencing stroke it stops with
0x5004, after N_RETRY retries with 0x5001, else it backs off and retries (R368, R372). -/
def execStallDetected (a : Act) (sinceMs : Nat) (s : State) : Host.Outcome State Fault Refusal :=
  let x := s.act.get a
  if (x.phase = .moving ∨ x.phase = .backing) ∧ 0 < x.d ∧ s.pf 0x78 a.num 40 * 1000 ≤ sinceMs then
    let s := { s with act := s.act.put a { x with stalls := satInc 8 x.stalls } }
    if x.ref = none ∧ x.crossed = false then .next (brake a (.giveUp 0x5004) s)
    else if s.pu 0x78 a.num 48 ≤ x.retries then .next (brake a (.giveUp 0x5001) s)
    else .next (brake a .stall { s with act := s.act.upd a (fun y => { y with retries := y.retries + 1 }) })
  else .next s

/-- SEQUENCE_TIMEOUT: a sequence longer than T_SEQ stops with 0x5002 (R372). -/
def execSequenceTimeout (a : Act) (elapsedMs : Nat) (s : State) : Host.Outcome State Fault Refusal :=
  if (s.act.get a).seq ≠ 0 ∧ s.pf 0x78 a.num 44 * 1000 < elapsedMs then .next (actStop a 0x5002 s) else .next s

/-- The high-side channel of a bridge leg. -/
def highSide (a : Act) (leg : Nat) : Chan := ⟨(a.base + 2 * leg) % 55, Nat.mod_lt _ (by decide)⟩

/-- PEAK_CURRENT_CUT: the driving leg's high side turns off for the rest of the period, and PEAK counts it; eight in a row stop with
0x5003 (R366). -/
def execPeakCurrentCut (a : Act) (amps : Q) (s : State) : Host.Outcome State Fault Refusal :=
  let x := s.act.get a
  match x.comm with
  | .drive h _ =>
    if (s.pwm.get a.grp).running = true ∧ s.pf 0x78 a.num 24 < amps ∧ x.cut = false then
      let s := turnOff (highSide a h) { s with act := s.act.put a { x with cut := true, peakRun := x.peakRun + 1, peak := satInc 8 x.peak } }
      .next (if x.peakRun + 1 = 8 then actStop a 0x5003 s else s)
    else .next s
  | _ => .next s

/-- BRIDGE_SUPPLY_LOW: V_S below VS_MIN for 10 ms during a sequence stops the bridge with 0x5009 (R375). -/
def execBridgeSupplyLow (a : Act) (volts : Q) (heldMs : Nat) (s : State) : Host.Outcome State Fault Refusal :=
  if (s.act.get a).seq ≠ 0 ∧ volts < s.pf 0x78 a.num 92 ∧ 10 ≤ heldMs then .next (actStop a 0x5009 s) else .next s

/-! ## Sequences (R373 to R376) -/

/-- |ω_m| of every present set is below W_GATE. -/
def belowGate (s : State) (a : Act) : Bool :=
  (!s.fn 0 || decide (absQ (s.omegaM .a) < s.pf 0x78 a.num 80)) && (!s.fn 1 || decide (absQ (s.omegaM .b) < s.pf 0x78 a.num 80))

/-- A refusal: 0x5007, and negative response 0x22 to a UDS request (R374). -/
def refuseSeq (a : Act) (src : ReqSrc) (s : State) : State :=
  let s := raise 0x5007 a.num 0 s
  match src with
  | .msg => noteRefuse 7 s
  | .uds p => udsNeg p 0x31 0x22 s

/-- The routine option of R499 lets the source start the sequence. -/
def srcAllowed (s : State) (src : ReqSrc) (rid : Nat) : Bool :=
  match src with
  | .msg => true
  | .uds p => s.routineAllowed p rid

/-- A request of the mode message waits for Io (R500, R501); a UDS request is there with its service. -/
def srcWaits (src : ReqSrc) (waits : Bool) : Bool :=
  match src with
  | .msg => waits
  | .uds _ => true

/-- The waiting request of the mode message is taken. -/
def takePark (src : ReqSrc) (s : State) : State :=
  match src with
  | .msg => { s with veh := { s.veh with parkNew := 0 } }
  | .uds _ => s

/-- The waiting shift request of the mode message is taken. -/
def takeShift (src : ReqSrc) (s : State) : State :=
  match src with
  | .msg => { s with veh := { s.veh with shiftNew := 0 } }
  | .uds _ => s

/-- A UDS request that its access conditions turn away (R499, R506). -/
def denySeq (src : ReqSrc) (rid : Nat) (s : State) : State :=
  match src with
  | .msg => s
  | .uds p => udsNeg p 0x31 (s.routineNrc p rid) s

/-- The positive answer to a UDS start. -/
def answerSeq (src : ReqSrc) (rid : Nat) (s : State) : State :=
  match src with
  | .msg => s
  | .uds p => udsPos p [0x71, 0x01, BitVec.ofNat 8 (rid / 256), BitVec.ofNat 8 rid] s

/-- An accepted request: the actuator faults of the chapter clear, and the sequence begins (R376). -/
def acceptSeq (a : Act) (seq : Nat) (s : State) : State :=
  let s := [0x5001, 0x5002, 0x5003, 0x5004, 0x5005, 0x5006, 0x5007, 0x5008, 0x5009].foldl (fun s c => clearF c a.num s) s
  { s with act := s.act.upd a (fun x => { x with seq := seq, retries := 0, second := false, held := 0, reqNs := s.mer.ns }) }

/-- PARK_ENGAGE: accepted in READY, CONVERT and DRIVE below W_GATE with no shift running; during a release the bridge
brakes first (R373, R375). -/
def execParkEngage (src : ReqSrc) (s : State) : Host.Outcome State Fault Refusal :=
  if srcWaits src (decide (s.veh.parkNew = 1)) = false then .next s
  else if s.fn 7 = false then .next (refuseSeq .park src (takePark src s))
  else if srcAllowed s src 0xF400 = false then .next (denySeq src 0xF400 s)
  else
    let s := takePark src s
    let x := s.act.get .park
    let modeOk := decide (s.sys.mode = .ready ∨ s.sys.mode = .convert ∨ s.sys.mode = .drive)
    if modeOk && belowGate s .park && !s.shiftRunning && decide (x.seq ≠ 1) && decide (s.pf 0x78 0 92 ≤ x.vs) then
      let s := answerSeq src 0xF400 (acceptSeq .park 1 s)
      if x.seq = 2 then .next (brake .park .supersede s)
      else .next (stroke .park (strokeNeg s .park 1) (posOf s .park 1) (firstPhase s .park) s)
    else .next (refuseSeq .park src s)

/-- PARK_RELEASE: accepted in DRIVE while SI3 confirms engaged or the position is unknown (R373, R375). -/
def execParkRelease (src : ReqSrc) (s : State) : Host.Outcome State Fault Refusal :=
  if srcWaits src (decide (s.veh.parkNew = 2)) = false then .next s
  else if s.fn 7 = false then .next (refuseSeq .park src (takePark src s))
  else if srcAllowed s src 0xF401 = false then .next (denySeq src 0xF401 s)
  else
    let s := takePark src s
    let x := s.act.get .park
    if s.sys.mode = .drive ∧ (s.si3Eng = true ∨ s.actPosCode .park = 0) ∧ x.seq = 0 ∧ s.shiftRunning = false ∧ s.pf 0x78 0 92 ≤ x.vs then
      let s := answerSeq src 0xF401 (acceptSeq .park 2 s)
      .next (stroke .park (strokeNeg s .park 0) (posOf s .park 0) (firstPhase s .park) s)
    else .next (refuseSeq .park src s)

/-- SHIFT: accepted in DRIVE with the park lock confirmed released, no park-lock sequence and below W_GATE; the first
move runs to N (R374). -/
def execShift (src : ReqSrc) (target : Nat) (s : State) : Host.Outcome State Fault Refusal :=
  if srcWaits src (decide (s.veh.shiftNew = target)) = false then .next s
  else if s.fn 8 = false ∨ target = 0 ∨ 3 < target then .next (refuseSeq .shift src (takeShift src s))
  else if srcAllowed s src 0xF402 = false then .next (denySeq src 0xF402 s)
  else
    let s := takeShift src s
    let x := s.act.get .shift
    if s.sys.mode = .drive ∧ s.si3Rel = true ∧ s.siDemand 3 = false ∧ s.parkRunning = false ∧ belowGate s .shift = true ∧ x.seq = 0 ∧ s.pf 0x78 1 92 ≤ x.vs then
      let s := answerSeq src 0xF402 (acceptSeq .shift target s)
      .next (stroke .shift (strokeNeg s .shift 1) (posOf s .shift 1) (firstPhase s .shift) s)
    else .next (refuseSeq .shift src s)

/-- SHIFT_DWELL_END: the dwell of T_CONF in N ends: the second move starts, or the sequence to N is complete (R374). -/
def execShiftDwellEnd (elapsedMs : Nat) (s : State) : Host.Outcome State Fault Refusal :=
  let x := s.act.get .shift
  if x.phase = .awaiting ∧ x.seq ≠ 0 ∧ s.pf 0x78 1 84 * 1000 ≤ elapsedMs then
    if x.seq = 2 then .next (completeSeq .shift s)
    else
      let k := if x.seq = 1 then 0 else 2
      .next (stroke .shift (strokeNeg s .shift k) (posOf s .shift k) .moving { s with act := s.act.put .shift { x with second := true } })
  else .next s

/-- CONFIRMATION_TIMEOUT: SI3 missing after the outputs turned off, or lost after completion, for T_CONF: 0x5006 (R373). -/
def execConfirmationTimeout (elapsedMs : Nat) (s : State) : Host.Outcome State Fault Refusal :=
  let x := s.act.get .park
  let missing := decide (x.phase = .awaiting) && decide (x.seq ≠ 0) && !si3Confirms s
  let lost := decide (x.phase = .idle) && ((decide (x.held = 2) && !s.si3Eng) || (decide (x.held = 1) && !s.si3Rel))
  if (missing && decide (s.pf 0x78 0 84 * 1000 ≤ elapsedMs)) || (lost && decide (s.pf 0x78 0 84 * 1000 < elapsedMs)) then
    .next (actStop .park 0x5006 { s with act := s.act.put .park { x with held := 0 } })
  else .next s

/-! ## Commutation and duty (R363 to R366) -/

/-- The low-side channel of a bridge leg. -/
def lowSide (a : Act) (leg : Nat) : Chan := ⟨(a.base + 2 * leg + 1) % 55, Nat.mod_lt _ (by decide)⟩

/-- The bridge current of R364 from the sinking leg's switch-node voltage. -/
def bridgeCurrent (s : State) (a : Act) (sink : Nat) (vSw : Q) : Q :=
  -(divQ vSw (s.pf 0x78 a.num 12 * (1 + s.pf 0x78 a.num 16 * (s.tj (lowSide a sink) - 25))))

/-- The bridge current of the ending period: its sinking leg was measured (R364). -/
def measuredCurrent (s : State) (a : Act) (vSw : Q) : Q :=
  match (s.act.get a).comm with
  | .drive _ l => bridgeCurrent s a l vSw
  | _ => 0

/-- One period's duty by R365, from the current of the period that ends. -/
def formDuty (a : Act) (vSw : Q) (s : State) (x : ActSt) : ActSt :=
  let i := measuredCurrent s a vSw
  let lim := match s.thmLimit (6 + a.num) with
    | some l => minQ (s.pf 0x78 a.num 20) l
    | none => s.pf 0x78 a.num 20
  let t : Q := ((s.pwm.get a.grp).period : Q) / 10240000000
  let dt := stepToward (s.pf 0x78 a.num 36 * t) x.dTgt (s.pf 0x78 a.num 88)
  let di := x.d + s.pf 0x78 a.num 28 * t * (lim - i)
  { x with d := clampQ 0 (s.pf 0x78 a.num 32) (minQ dt di), dTgt := dt, ilim := decide (di < dt), iAct := i, iLimUse := lim }

/-- The duty of one period, its commutation and the value of its driving leg (R363, R365, R369); with an impossible Hall code the duty is formed
all the same, and all six outputs are off. -/
def actLatch (a : Act) (vSw : Q) (s : State) : State :=
  let x := s.act.get a
  let code := (s.pos.get a.ifc).code
  let x := { x with cut := false, peakRun := if x.cut then x.peakRun else 0 }
  let put (y : ActSt) (e : List Nat) : State := { s with act := s.act.put a y, pwm := s.pwm.upd a.grp (fun gr => { gr with next := some e }) }
  if x.phase = .moving ∨ x.phase = .backing then
    let y := formDuty a vSw s x
    if code = 0 ∨ code = 7 then put { y with comm := .off } [0, 0, 0]
    else
      let lg := commLegs s a code x.neg
      put { y with comm := .drive lg.1 lg.2 } ([0, 1, 2].map (fun k => if k = lg.1 then roundN (y.d * (s.pwm.get a.grp).period) else 0))
  else if x.phase = .braking then put { x with comm := .brake } [0, 0, 0]
  else { s with act := s.act.put a x }

end Sys2Proof.Machine
end

