-- ==== Sys2Proof/Machine/Edges.lean ====
section
/-! DEFINITION. The ideal switching functions of the PWM groups and the gate edges they command (R128 to R137, R139, R363). -/

namespace Sys2Proof.Machine

/-! ## Ideal high-side intervals -/

/-- The high-side interval of one half or period of length `len` with the value `e`, counted from its start; `full` is P/2, or P
in MODE 1 (R131, R136). A value at or above `full` is on throughout. -/
def onSpan (rising : Bool) (full len e : Nat) : Int × Int :=
  let on := if full ≤ e then len else min e len
  if rising then (0, on) else ((len : Int) - on, len)

/-- The 50 % interval of a DAB leg whose rising edge lies `phi` after the period start (R137). Half of an odd P is rounded down: the model's
choice, no rule rounds it (log entry 56). -/
def squareSpan (p phi : Nat) : Int × Int := (phi, (phi : Int) + p / 2)

/-- Two intervals in turn as one list: empty ones are dropped, touching ones are one (R131). -/
def joinSpans (a b : Int × Int) : List (Int × Int) :=
  if b.2 ≤ b.1 then (if a.2 ≤ a.1 then [] else [a])
  else if a.2 ≤ a.1 then [b]
  else if b.1 ≤ a.2 then [(a.1, b.2)] else [a, b]

/-- An interval of the half or period before, counted from the start of the running one. -/
def shiftSpan (by' : Nat) (a : Int × Int) : Int × Int := (a.1 - by', a.2 - by')

/-- The 50 % intervals of a DAB leg in the running period (R137). An offset that has moved down through 0 has its next rising edge in the end of
the period before: that pulse too is placed, not before the latch 1,024 ft ahead of the period, the model's choice (log entry 56). One
that has moved up through P - 1 stretches the pulse that runs, which `joinSpans` gives. -/
def squareSpans (p e0 e : Nat) : List (Int × Int) :=
  (if e0 + p / 2 < e then [(max ((e : Int) - p) (-1024), (e : Int) - p + p / 2)] else []) ++ [squareSpan p e]

/-- The ideal high-side intervals of leg `n` of a group in the running half or period and the one before it, in ft from the start of
the running one (R131, R136, R137). -/
def legSpans (mode : Nat) (gr : PwmGrp) (n : Nat) : List (Int × Int) :=
  let e := gr.e.getD n 0
  let e0 := gr.ePrev.getD n 0
  let p2 := gr.period / 2
  let prev : Int × Int :=
    if gr.first then (0, 0)
    else if mode = 0 then shiftSpan gr.spanPrev (onSpan (!gr.rising) p2 gr.spanPrev e0)
    else if mode = 1 then shiftSpan gr.spanPrev (onSpan true gr.period gr.spanPrev e0)
    else shiftSpan gr.spanPrev (squareSpan gr.period e0)
  if mode = 0 then joinSpans prev (onSpan gr.rising p2 gr.span e)
  else if mode = 1 then joinSpans prev (onSpan true gr.period gr.span e)
  else
    match squareSpans gr.period (if gr.first then e else e0) e with
    | [x] => joinSpans prev x
    | xs => prev :: xs

/-! ## Edges of one output (R133, R139, R363) -/

/-- The leg of a channel in its group. -/
def legIdx (c : Chan) : Nat :=
  if c.val < 6 then c.val / 2 else if c.val < 12 then (c.val - 6) / 2 else if c.val < 13 then 0 else if c.val < 19 then (c.val - 13) / 2
  else if c.val < 27 then (c.val - 19) / 2 else if c.val < 43 then 0 else if c.val < 49 then (c.val - 43) / 2 else (c.val - 49) / 2

/-- What a leg does in the running period: it switches, it holds its low side on, or it holds both sides off (R363). -/
inductive LegUse where
  | switching | lowOn | bothOff
  deriving DecidableEq, Repr

/-- The use of a channel's leg; only the actuator bridges hold legs (R363, R369). -/
def State.legUse (s : State) (c : Chan) : LegUse :=
  let of' (a : Act) : LegUse :=
    match (s.act.get a).comm with
    | .off => .bothOff
    | .brake => .lowOn
    | .drive h l => if legIdx c = h then .switching else if legIdx c = l then .lowOn else .bothOff
  if c.val < 43 then .switching else if c.val < 49 then of' .park else of' .shift

/-- The instants at which an output is commanded on and off, ft from the start of the running half or period: dead time delays
every turn-on, both sides turn off at the ideal edge (R133); BC_L follows its ideal function with DT_L (R136). A leg whose first period
begins with its ideal high side off has its low side on from DT_L, in MODE 2 up to the first rising edge: there the model's choice, R137
gives no level before that edge (log entry 56). -/
def State.edgesOf (s : State) (c : Chan) : List Int × List Int :=
  let g := grpOf c
  let gr := s.pwm.get g
  let dh : Int := s.pu 0x20 g 16
  let dl : Int := s.pu 0x20 g 20
  let sp := legSpans (s.pu 0x20 g 0) gr (legIdx c)
  match s.legUse c with
  | .bothOff => ([], [0])
  | .lowOn => if isLow c then ([dl], []) else ([], [0])
  | .switching =>
    if c.val = 12 then (sp.map (fun a => a.1 + dl), sp.map (·.2))
    else if isLow c then
      let start := if (gr.first || decide (43 ≤ c.val)) && !sp.any (fun a => decide (a.1 ≤ 0 ∧ 0 < a.2)) then [dl] else []
      (start ++ sp.map (fun a => a.2 + dl), sp.map (·.1))
    else (sp.map (fun a => a.1 + dh), sp.map (·.2))

/-- The group places edges: it runs, its bootstrap pre-charge is over (R258), and its first latch is taken (R139). The groups of MODE 3 take theirs from the LV converter. -/
def State.placesEdges (s : State) (c : Chan) : Bool :=
  let gr := s.pwm.get (grpOf c)
  gr.running && decide (gr.preLeft = 0) && (gr.latched || decide (s.pu 0x20 (grpOf c) 0 = 3))

/-! ## Bootstrap: pre-charge and refresh (R258 to R261) -/

/-- The bootstrap readings of high sides are stored (GD_Cn_RAILS). -/
def readBoot (boot : List (Chan × Q)) (s : State) : State :=
  boot.foldl (fun s p => if isHighSide p.1 && s.chPresent p.1 then s.updCh p.1 (fun x => { x with hi := p.2 }) else s) s

/-- The high side's bootstrap voltage is below BST_UV + 0.5 V. -/
def bootLow (s : State) (c : Chan) : Bool := isHighSide c && s.chPresent c && decide ((s.gd.ch.get c).hi < s.pf 0x10 c 44 + 1 / 2)

/-- A stage with bootstrapped high sides pre-charges at its start: of `cs`, each leg whose bootstrap voltage is too low turns its low side on
for 20 µs, and the group's first edge waits (R258). -/
def precharge (g : Grp) (cs : List Chan) (boot : List (Chan × Q)) (s : State) : State :=
  let s := readBoot boot s
  let low := cs.filter (bootLow s)
  let s := { s with pwm := s.pwm.upd g (fun gr => { gr with precharged := low, preLeft := if low = [] then 0 else 800 }) }
  low.foldl (fun s c => turnOn (legLow c) s) s

/-- One tick of a pre-charge: at its end the low sides turn off, and the group may place edges (R258). -/
def prechargeTick (s : State) (g : Grp) : State :=
  let gr := s.pwm.get g
  if gr.preLeft = 0 then s
  else
    let s := { s with pwm := s.pwm.put g { gr with preLeft := gr.preLeft - 1 } }
    if gr.preLeft = 1 then gr.precharged.foldl (fun s c => turnOff (legLow c) s) s else s

/-- A refresh of the leg of a high side begins: the high side turns off, its command stays (R259). -/
def startRefresh (c : Chan) (s : State) : State :=
  if s.inRefresh c || s.legHeld c then s
  else
    let s := if (s.gd.ch.get c).out = .on then
        s.updCh c (fun x => { x with out := .off, drive := sinkSeq s c, acc := x.acc + s.offEnergy c (s.onNs c) })
      else s
    s.updCh c (fun x => { x with refr := some 0, refresh := satInc 16 x.refresh })

/-- The low side's interval of a refresh, ft: 400 ns, or MIN_PULSE where that is longer (R259). -/
def State.refreshLen (s : State) (c : Chan) : Nat := max 4096 (s.minPulse (grpOf c))

/-- One tick of a refresh: the low side turns on after DT_L, off after its interval unless it is commanded on, and DT_H later the high side
turns on again where it is still commanded on and R20 allows it (R259). What falls between two ticks is taken at the second (log
entry 58). -/
def refreshTick (s : State) (c : Chan) : State :=
  let x := s.gd.ch.get c
  let s := if 0 < x.hold then s.updCh c (fun x => { x with hold := x.hold - 256 }) else s
  match x.refr with
  | none => s
  | some t =>
    let l := legLow c
    let on := s.pu 0x20 (grpOf c) 20
    let off := on + s.refreshLen c
    let done := off + s.pu 0x20 (grpOf c) 16
    let now := t + 256
    let past (at' : Nat) : Bool := decide (t < at' ∨ t = 0) && decide (at' ≤ now)
    let s := s.updCh c (fun x => { x with refr := if done ≤ now then none else some now })
    let s := if past on && mayTurnOn s l && decide ((s.gd.ch.get l).out = .off) then drvOn l s else s
    let s := if past off && !(s.gd.ch.get l).cmd then turnOff l s else s
    if past done && x.cmd && !x.needEdge && mayTurnOn s c && decide (x.out = .off) && decide ((s.gd.ch.get l).out = .off) then drvOn c s else s

/-- One tick of every refresh, hold and pre-charge that runs. -/
def bootTicks (s : State) : State := ([7, 8, 9] : List Grp).foldl prechargeTick ((allChans.filter isHighSide).foldl refreshTick s)

/-! ## Edges of the LV converter (R295, R298, R299, R302, R306, R312 to R314) -/

/-- A time in s as whole ft. -/
def ftOf (x : Q) : Int := roundN (x * 10240000000)

/-- The phase of a buck output. -/
def phaseOf (c : Chan) : Fin 6 := ⟨(c.val - 31) / 2 % 6, Nat.mod_lt _ (by decide)⟩

/-- An all-phase response of the buck runs. -/
def State.inResponse (s : State) : Bool := decide (s.lvc.resp = 1) || decide (s.lvc.resp = 2)

/-- The dead time that delays a turn-on of the channel, ft (R295). -/
def State.deadTime (s : State) (c : Chan) : Int := s.pu 0x20 (grpOf c) (if isLow c then 20 else 16)

/-- Half a DCX period, ft (R298). -/
def State.dcxHalf (s : State) : Int := ftOf (divQ 1 (2 * s.lvc.freq))

/-- The on-time that is commanded for a rectifier, ft: from SR_DLY after its primary switch turns on to SR_ADV before that turns off (R299). -/
def State.srSpan (s : State) (c : Chan) : Int := s.dcxHalf - s.deadTime (chanAt (c.val - 2)) - s.pu 0x58 0 20 - s.pu 0x58 0 24

/-- A commanded pulse of a group of MODE 3 is long enough to be emitted; a shorter one leaves its side as it was (R295). -/
def State.emits (s : State) (c : Chan) (len : Int) : Bool := decide (0 < len) && decide ((s.minPulse (grpOf c) : Int) ≤ len)

/-- The on-time of a buck phase and what is left of its period, ft (R301, R302). -/
def State.buckOn (s : State) (n : Fin 6) : Int := ftOf (s.lvc.ton.get n)

/-- The low-side time of a buck phase's period, ft. -/
def State.buckRest (s : State) (n : Fin 6) : Int := ftOf s.lvc.tPer - s.buckOn n

/-- A turn-on of an LV converter output at `ft`, counted for a DCX primary from the start of its half-period, for a rectifier from the turn-on
of its primary switch, for a buck output from the phase's slot. DX_H and DX_L take turns; a phase that waits for its next slot turns nothing
on. -/
def State.lvOnDue (s : State) (c : Chan) (ft : Int) : Bool :=
  if c.val < 29 then decide (ft = s.deadTime c) && s.emits c s.dcxHalf && (s.lvc.dxLow == decide (c.val = 28)) && decide ((s.gd.ch.get (chanAt (55 - c.val))).out ≠ .on)
  else if c.val < 31 then s.lvc.srOn && decide ((s.gd.ch.get (chanAt (c.val - 2))).out = .on) && s.emits c (s.srSpan c) && decide (ft = s.pu 0x58 0 20 + s.deadTime c)
  else
    let n := phaseOf c
    let at' := s.lvc.delay.get n + s.deadTime c
    s.lvc.act.contains n && !s.lvc.ovHold && !s.inResponse && !s.lvc.waiting.contains n &&
      (if isLow c then s.emits c (s.buckRest n) && decide (ft = s.buckOn n + at')
       else !s.lvc.held.contains n && s.emits c (s.buckOn n) && decide (ft = at'))

/-- A turn-off of an LV converter output at `ft`, counted as for the turn-on, for a rectifier from the turn-off of its primary switch, in
a response from its start. -/
def State.lvOffDue (s : State) (c : Chan) (ft : Int) : Bool :=
  if c.val < 29 then decide (ft = s.dcxHalf) && (s.gd.ch.get c).cmd
  else if c.val < 31 then decide (ft = -(s.pu 0x58 0 24 : Int))
  else
    let n := phaseOf c
    if s.inResponse then decide (s.lvc.resp = if isLow c then 2 else 1) && decide (ft = ftOf (s.pf 0x58 1 80))
    else if isLow c then !s.lvc.held.contains n && s.emits (buckHigh n) (s.buckOn n) && decide (ft = 0)
    else decide (0 < s.buckRest n) && decide (ft = s.buckOn n + s.lvc.delay.get n)

/-- A commanded turn-on edge is due at `ft`; the groups of MODE 3 take theirs from the LV converter (R128, R133). -/
def State.onEdgeDue (s : State) (c : Chan) (ft : Int) : Bool :=
  s.placesEdges c && !s.inAsc (stageOf c) &&
    (if s.pu 0x20 (grpOf c) 0 = 3 then s.lvOnDue c ft else (s.edgesOf c).1.contains ft)

/-- A commanded turn-off edge is due at `ft`. -/
def State.offEdgeDue (s : State) (c : Chan) (ft : Int) : Bool :=
  s.placesEdges c && !s.inAsc (stageOf c) &&
    (if s.pu 0x20 (grpOf c) 0 = 3 then s.lvOffDue c ft else (s.edgesOf c).2.contains ft)

end Sys2Proof.Machine
end

