-- ==== Sys2Proof/Machine/Gate.lean ====
section
/-! DEFINITION. Gate drive and power-stage protection (09_gate_drive.md). -/

namespace Sys2Proof.Machine

/-! ## Rails (R245) -/

/-- The rail flags of R245: VCC_UV, VCC_OV, VEE_UV, VEE_OV against the fixed and the Catalogue limits. -/
def railFlags (s : State) (c : Chan) (vcc vee : Q) : Bool × Bool × Bool × Bool :=
  (decide (vcc < 27 / 2 ∨ vcc < s.pf 0x10 c 44), decide (26 < vcc ∨ s.pf 0x10 c 48 < vcc),
   decide (1 / 2 < vee ∨ s.pf 0x10 c 56 < vee), decide (vee < -9 ∨ vee < s.pf 0x10 c 52))

/-- RAIL_OUT_OF_WINDOW: a rail out of its window for 500 ns sets its flag, and the output turns off with SINK and is held off; while
the stage runs 0x2804 or 0x2805 is raised. A rail inside its window clears no flag here (R245). -/
def execRailOutOfWindow (c : Chan) (vcc2 vee2 : Q) (vccNs veeNs : Nat) (s : State) : Host.Outcome State Fault Refusal :=
  let f := railFlags s c vcc2 vee2
  let vc := decide (500 ≤ vccNs) && (f.1 || f.2.1)
  let ve := decide (500 ≤ veeNs) && (f.2.2.1 || f.2.2.2)
  if s.chPresent c = true ∧ c.val < 29 ∧ (vc || ve) = true then
    let run := s.stageRuns (stageOf c)
    let s := s.updCh c (fun x => { x with hi := vcc2, lo := vee2, vccUv := x.vccUv || (vc && f.1), vccOv := x.vccOv || (vc && f.2.1), veeUv := x.veeUv || (ve && f.2.2.1), veeOv := x.veeOv || (ve && f.2.2.2) })
    let s := offSink c s
    let s := if run && vc then raise 0x2804 c.val 0 s else s
    .next (if run && ve then raise 0x2805 c.val 0 s else s)
  else .next s

/-- RAIL_FLAG_CLEAR: the flags of a rail inside both sets for 1 ms and their fault clear; the output waits for a new edge (R245). -/
def execRailFlagClear (c : Chan) (vcc2 vee2 : Q) (vccUs veeUs : Nat) (s : State) : Host.Outcome State Fault Refusal :=
  let f := railFlags s c vcc2 vee2
  if s.chPresent c = true ∧ c.val < 29 then
    let vc := f.1 || f.2.1 || decide (vccUs < 1000)
    let ve := f.2.2.1 || f.2.2.2 || decide (veeUs < 1000)
    let s := s.updCh c (fun x => { x with hi := vcc2, lo := vee2, vccUv := if vc then x.vccUv else false, vccOv := if vc then x.vccOv else false, veeUv := if ve then x.veeUv else false, veeOv := if ve then x.veeOv else false })
    let s := if vc then s else clearF 0x2804 c.val s
    .next (if ve then s else clearF 0x2805 c.val s)
  else .next s

/-! ## Edges (R20, R247, R248, R254, R261) -/

/-- GATE_TURN_ON: a turn-on edge that the group's ideal switching function places at `ft` reaches a present channel (R131 to R137). It turns the output on where R20 allows it, with the
two-level source current (R247); a running soft turn-off is not changed (R248); with the other side of a non-isolated leg
on, both turn off (R261). The switching energy joins the accumulator (R353). -/
def execGateTurnOn (c : Chan) (ft : Int) (s : State) : Host.Outcome State Fault Refusal :=
  if s.onEdgeDue c ft then .next (turnOn c s) else .next s

/-- The half-period of a DCX primary ends: the other primary has the next one (R298). -/
def nextHalf (c : Chan) (s : State) : State :=
  if c.val = 27 ∨ c.val = 28 then { s with lvc := { s.lvc with dxLow := decide (c.val = 27) } } else s

/-- GATE_TURN_OFF: a commanded turn-off, placed at `ft`, sinks SINK and engages the clamp (R247); with DSN above DESAT_V after blanking it is soft, RACE
counts and 0x2809 is raised (R254). A low side that a refresh holds on goes off at the end of that interval (R259). Conduction and switching energy join the accumulator (R353). -/
def execGateTurnOff (c : Chan) (ft : Int) (dsnVolts : Q) (onNs : Nat) (s : State) : Host.Outcome State Fault Refusal :=
  if s.chPresent c = false ∨ s.offEdgeDue c ft = false then .next s
  else
    let x := s.gd.ch.get c
    let s := nextHalf c (s.updCh c (fun x => { x with cmd := false }))
    if x.out ≠ .on ∨ s.inRefresh c = true then .next s
    else
      let s := s.updCh c (fun x => { x with acc := x.acc + s.offEnergy c onNs })
      if c.val < 29 ∧ s.blankNs c ≤ onNs ∧ s.pf 0x10 c 28 < dsnVolts then
        let s := s.updCh c (fun x => { x with out := .soft, drive := softSeq s c, softT := 0, race := satInc 8 x.race })
        .next (raise 0x2809 c.val 0 s)
      else .next (s.updCh c (fun x => { x with out := .off, clamp := s.clampOn c, drive := sinkSeq s c }))

/-- PERMIT_REMOVAL_TURN_OFF: every channel of the domain whose permit bits are not both set begins its turn-off (R249), but for a set in ASC, whose bits come from Custodian (R250);
the function takes its safe state (R382, R391). -/
def execPermitRemovalTurnOff (d : Fin 7) (s : State) : Host.Outcome State Fault Refusal :=
  let cs := (chansOf d).filter (fun c => s.chPresent c && !s.inAsc (stageOf c) && !((s.permit c).1 && (s.permit c).2))
  if cs = [] then .next s
  else
    let s := cs.foldl (fun s c => (offSink c s).updCh c (fun x => { x with refr := none })) s
    .next (domainReaction d s)

/-! ## Links and readback (R21, R251, R255) -/

/-- SECONDARY_LINK_LOSS: no valid frame for 2 µs: the secondary turns off softly and holds the output clamped (R21). -/
def execSecondaryLinkLoss (c : Chan) (ns : Nat) (s : State) : Host.Outcome State Fault Refusal :=
  if s.chPresent c = true ∧ c.val < 29 ∧ 2000 ≤ ns then
    .next ((offSoft c s).updCh c (fun x => { x with linkOk := false, needEdge := true, clamp := x.clamp || decide (x.out = .off) }))
  else .next s

/-- STATUS_FRAME_LOSS: no valid status frame for 2 µs latches LINK and raises 0x2807; the secondary turns off as R21 gives, softly and
then clamped (R251, R255). -/
def execStatusFrameLoss (c : Chan) (ns : Nat) (s : State) : Host.Outcome State Fault Refusal :=
  if s.chPresent c = true ∧ c.val < 29 ∧ 2000 ≤ ns then
    .next (raise 0x2807 c.val 0 (stamp c ((offSoft c s).updCh c (fun x => { x with link := true, needEdge := true }))))
  else .next s

/-- READBACK_MISMATCH: reported and commanded state differ for more than 500 ns outside the 500 ns after an edge: RB and
0x2806 (R251, R255). -/
def execReadbackMismatch (c : Chan) (reportedOn : Bool) (heldNs sinceEdgeNs : Nat) (s : State) : Host.Outcome State Fault Refusal :=
  if s.chPresent c = true ∧ reportedOn ≠ (s.gd.ch.get c).cmd ∧ 500 < heldNs ∧ 500 < sinceEdgeNs then
    .next (raise 0x2806 c.val 0 (stamp c ((offSink c s).updCh c (fun x => { x with rb := true }))))
  else .next s

/-! ## Short circuits (R252, R253, R256) -/

/-- DESATURATION: after blanking, DSN above DESAT_V for DESAT_FLT: soft turn-off, DESAT, SHORTS, 0x2801 (R252, R255). -/
def execDesaturation (c : Chan) (dsnVolts : Q) (onNs heldNs : Nat) (s : State) : Host.Outcome State Fault Refusal :=
  if s.chPresent c = true ∧ c.val < 29 ∧ (s.gd.ch.get c).out = .on ∧ s.pf 0x10 c 28 < dsnVolts ∧ s.pu 0x10 c 32 ≤ heldNs ∧ s.blankNs c + heldNs ≤ onNs then
    .next (raise 0x2801 c.val 0 (stamp c ((offSoftAt onNs c s).updCh c (fun x => { x with desat := true, shorts := satInc 8 x.shorts }))))
  else .next s

/-- The programmed source current integrated over `ns` from the start of a turn-on, C: SRC_1 for T_TL, then SRC_2 (R247, R253). -/
def gateCharge (s : State) (c : Chan) (ns : Nat) : Q :=
  let amp (code : Nat) : Q := ((code + 1 : Nat) : Q) / 2
  let t1 := min ns (s.pu 0x10 c 8)
  (amp (s.pu 0x10 c 0) * t1 + amp (s.pu 0x10 c 4) * (ns - t1 : Nat)) / 1000000000

/-- When ch_OUT − ch_COM2 first exceeds GC_LEVEL in blanking, ns from the start of the turn-on (R253). -/
def gcCross (s : State) (c : Chan) (chOut : List (Nat × Q)) : Option Nat :=
  (chOut.find? (fun p => decide (s.pf 0x10 c 36 < p.2) && decide (p.1 ≤ s.blankNs c))).map (·.1)

/-- The gate-charge check of a turn-on, on ch_OUT with the ns since it began: at the crossing of GC_LEVEL Q_gc is recorded; below GC_QMIN:
soft turn-off, GC, SHORTS, 0x2802. No crossing in blanking reads 0xFFF and decides nothing (R253, R255). -/
def gcCheck (c : Chan) (chOut : List (Nat × Q)) (s : State) : State :=
  match gcCross s c chOut with
  | none => s.updCh c (fun x => { x with qgc := 0xFFF })
  | some t =>
    let q := gateCharge s c t
    let s := s.updCh c (fun x => { x with qgc := min (roundN (q * 1000000000)) 0xFFF })
    if q < s.pf 0x10 c 40 then
      raise 0x2802 c.val 0 (stamp c ((offSoftAt t c s).updCh c (fun x => { x with gc := true, shorts := satInc 8 x.shorts })))
    else s

/-- The gate-charge check of an output that a turn-on has just turned on. -/
def gcOn (c : Chan) (chOut : List (Nat × Q)) (s : State) : State := if (s.gd.ch.get c).out = .on then gcCheck c chOut s else s

/-- GATE_CHARGE_SHORT: the gate-charge check of a switch that turns on (R253). -/
def execGateChargeShort (c : Chan) (chOut : List (Nat × Q)) (s : State) : Host.Outcome State Fault Refusal :=
  if s.chPresent c = false ∨ 29 ≤ c.val ∨ (s.gd.ch.get c).out ≠ .on then .next s else .next (gcCheck c chOut s)

/-- SHORT_REPORT: the first report of a stage opens its watch window; a second one in it turns the stage off softly and
raises 0x2803. A set in ASC opens none (R256, R203). -/
def execShortReport (c : Chan) (s : State) : Host.Outcome State Fault Refusal :=
  let x := s.gd.ch.get c
  let g := stageOf c
  if s.chPresent c = false ∨ (x.desat || x.gc) = false ∨ s.inAsc g = true then .next s
  else
    match (s.gd.st.get g).watch with
    | none => .next { s with gd := { s.gd with st := s.gd.st.upd g (fun y => { y with watch := some c }) } }
    | some c0 =>
      if c0 = c then .next s
      else
        let s := { s with gd := { s.gd with st := s.gd.st.upd g (fun y => { y with watch := none }) } }
        let s := (stageChans g).foldl (fun s k => if (s.gd.ch.get k).out = .on then offSoft k s else s) s
        .next (stopStage g (raise 0x2803 c.val 0 s))

/-- WATCH_WINDOW_END: without a second short every remaining channel of the stage turns off with SINK; the function
stops (R256). -/
def execWatchWindowEnd (g : Stage) (s : State) : Host.Outcome State Fault Refusal :=
  match (s.gd.st.get g).watch with
  | none => .next s
  | some _ =>
    let s := { s with gd := { s.gd with st := s.gd.st.upd g (fun y => { y with watch := none }) } }
    let s := (stageChans g).foldl (fun s k => offSink k s) s
    .next (stopStage g s)

/-! ## Bootstrap (R259, R260) -/

/-- BOOTSTRAP_REFRESH: no low-side interval of 400 ns for 50 µs: a refresh is inserted, never into a commanded high-side pulse
shorter than 50 µs (R259). -/
def execBootstrapRefresh (c : Chan) (sinceUs pulseUs : Nat) (s : State) : Host.Outcome State Fault Refusal :=
  if s.chPresent c = true ∧ isHighSide c = true ∧ s.stageRuns (stageOf c) = true ∧ 50 ≤ sinceUs ∧ ((s.gd.ch.get c).cmd = true → 50 ≤ pulseUs) then
    .next (startRefresh c s)
  else .next s

/-- BOOTSTRAP_UNDERVOLTAGE: below BST_UV for 1 µs with the high side on or commanded on: a refresh at once, BST_UV sets
(R260). -/
def execBootstrapUndervoltage (c : Chan) (volts : Q) (heldNs : Nat) (s : State) : Host.Outcome State Fault Refusal :=
  let x := s.gd.ch.get c
  if s.chPresent c = true ∧ isHighSide c = true ∧ volts < s.pf 0x10 c 44 ∧ 1000 ≤ heldNs ∧ (x.cmd = true ∨ x.out = .on) then
    .next (startRefresh c (s.updCh c (fun x => { x with hi := volts, bstUv := true })))
  else .next s

/-- BOOTSTRAP_OFF: still below BST_UV 10 µs after the refresh: the high side turns off and is held off, BST_OFF latches,
0x2808 is raised (R260). -/
def execBootstrapOff (c : Chan) (volts : Q) (afterUs : Nat) (s : State) : Host.Outcome State Fault Refusal :=
  if s.chPresent c = true ∧ isHighSide c = true ∧ (s.gd.ch.get c).bstUv = true ∧ s.inRefresh c = false ∧ volts < s.pf 0x10 c 44 ∧ 10 ≤ afterUs then
    .next (raise 0x2808 c.val 0 (stamp c ((offSink c s).updCh c (fun x => { x with hi := volts, bstOff := true }))))
  else .next s

/-- BOOTSTRAP_UV_CLEAR: above BST_UV + 0.5 V for 1 ms clears BST_UV (R260). -/
def execBootstrapUvClear (c : Chan) (volts : Q) (heldUs : Nat) (s : State) : Host.Outcome State Fault Refusal :=
  if s.chPresent c = true ∧ isHighSide c = true ∧ s.pf 0x10 c 44 + 1 / 2 < volts ∧ 1000 ≤ heldUs then
    .next (s.updCh c (fun x => { x with hi := volts, bstUv := false }))
  else .next s

/-! ## Off-state diagnostics (R262, R263) -/

/-- A stage's GD_OSD result. -/
def setOsd (g : Stage) (r : Nat) (s : State) : State := { s with gd := { s.gd with st := s.gd.st.upd g (fun y => { y with osd := r }) } }

/-- The test current that a high side's OSD_I gives is applied (R244, R262). -/
def testCurrent (g : Stage) (high : Chan) (s : State) : State :=
  { s with gd := { s.gd with st := s.gd.st.upd g (fun y => { y with testUa := osdMicroAmp (s.pu 0x10 high 60) }) } }

/-- The decision for one buck switch node: 0 pass, else the fault; 1 is "not tested" (R262). -/
def buckNode (sink source vBus : Q) : Nat :=
  if vBus < 5 then (if vBus + 2 ≤ sink then 0x280B else 1)
  else if absQ (sink - vBus) ≤ 1 / 2 ∧ absQ (source - vBus) ≤ 1 / 2 then 0
  else if vBus + 2 ≤ sink then 0x280B
  else if source ≤ 3 / 10 then 0x280A
  else 0x280C

/-- The decision for one leg pair of a bridge (R262). -/
def legPair (vS : Q) (p : Q × Q) : Nat :=
  let ok (v : Q) := decide (3 / 10 ≤ v ∧ v ≤ vS - 1)
  if ok p.1 && ok p.2 && decide (0 ≤ p.1 - p.2 ∧ p.1 - p.2 ≤ 1 / 2) then 0
  else if vS - 1 ≤ p.1 ∨ vS - 1 ≤ p.2 then 0x280B
  else if p.1 ≤ 3 / 10 ∨ p.2 ≤ 3 / 10 then 0x280A
  else 0x280C

/-- The leg of a failed pair that the fault names: the node that is shorted, else the sourcing leg. -/
def failedLeg (vS : Q) (x y : Chan) (p : Q × Q) (k : Nat) : Chan :=
  if k = 0x280B then (if vS - 1 ≤ p.1 then x else y) else if k = 0x280A then (if p.1 ≤ 3 / 10 then x else y) else x

/-- The bridge's diagnostics pass: its sequence moves on (R369). -/
def diagPassed (a : Act) (s : State) : State :=
  if (s.act.get a).phase = .diag then arrive a { s with act := s.act.upd a (fun x => { x with phase := .moving }) } else s

/-- OFF_STATE_DIAGNOSTICS: a stopped buck phase or bridge with OSD_I is tested with its current, and each reading, settled for 2 ms, is
classified (R262). -/
def execOffStateDiagnostics (g : Stage) (r : OsdReading) (s : State) : Host.Outcome State Fault Refusal :=
  match g, r with
  | .buck n, .buck settledUs sink source vBus =>
    let c : Chan := ⟨(31 + 2 * n.val) % 55, Nat.mod_lt _ (by decide)⟩
    if s.chPresent c = false ∨ s.pu 0x10 c 60 % 4 = 0 ∨ (s.gd.ch.get c).out ≠ .off ∨ (s.gd.ch.get (buckLow n)).out ≠ .off ∨ settledUs < 2000 then .next s
    else
      let s := testCurrent (.buck n) c s
      let k := buckNode sink source vBus
      if k = 0 then .next (setOsd g 1 s)
      else if k = 1 then .next (setOsd g 3 s)
      else .next (raise k c.val 0 (setOsd g 2 s))
  | .park, .bridge t uv vw wu vS => .next (if t < 2000 then s else bridgeDiag .park uv vw wu vS s)
  | .shift, .bridge t uv vw wu vS => .next (if t < 2000 then s else bridgeDiag .shift uv vw wu vS s)
  | _, _ => .next s
where
  /-- The leg pairs of a bridge whose sourcing leg has a test current, U into V, V into W, W into U; every pair that fails is raised with its
  leg's high side (R262, R265). -/
  bridgeDiag (a : Act) (uv vw wu : Q × Q) (vS : Q) (s : State) : State :=
    let u := chanAt a.base
    let v := chanAt (a.base + 2)
    let w := chanAt (a.base + 4)
    let tested := [(u, v, uv), (v, w, vw), (w, u, wu)].filter (fun p => s.chPresent p.1 && decide (s.pu 0x10 p.1 60 % 4 ≠ 0))
    match tested with
    | [] => s
    | p :: _ =>
      if (s.pwm.get a.grp).running then s
      else
        let s := testCurrent a.stage p.1 s
        let bad := tested.filter (fun p => decide (legPair vS p.2.2 ≠ 0))
        if bad = [] then diagPassed a (setOsd a.stage 1 s)
        else bad.foldl (fun s p => raise (legPair vS p.2.2) (failedLeg vS p.1 p.2.1 p.2.2 (legPair vS p.2.2)).val 0 s) (setOsd a.stage 2 s)

/-- A pulse of steps 4 and 5 of R263: i_x inside the window of the low side y and |i_x + i_y| at most SUM_LIM. -/
def pulseOk (s : State) (t : TSet) (low : Chan) (vDc : Q) (x : PairPulse) : Bool :=
  decide (s.pf 0x10 low 64 * vDc ≤ x.ix ∧ x.ix ≤ s.pf 0x10 low 68 * vDc ∧ absQ (x.ix + x.iy) ≤ s.pf 0x30 t.num 116)

/-- One pulse of 200 ns on an output: its edges pass the permits and the short protection as any other edge does (R263). -/
def testPulse (s : State) (p : Chan × List (Nat × Q)) : State := turnOffAt 200 p.1 (gcOn p.1 p.2 (turnOn p.1 s))

/-- A short is latched on some channel of the set. -/
def shortLatched (t : TSet) (s : State) : Bool := (t.lows ++ t.highs).any (fun c => (s.gd.ch.get c).desat || (s.gd.ch.get c).gc)

/-- QUIET takes the largest and PULSE the smallest current so far. -/
def notePulse (t : TSet) (quiet pulse : Option Q) (s : State) : State :=
  match t with
  | .a => { s with gd := { s.gd with quietA := quiet.getD s.gd.quietA, pulseA := pulse.getD s.gd.pulseA } }
  | .b => { s with gd := { s.gd with quietB := quiet.getD s.gd.quietB, pulseB := pulse.getD s.gd.pulseB } }

/-- Steps 2 and 3: the low-side pulses in turn; the first that fails ends the test, with its leg. -/
def lowPulses (t : TSet) (fs : Q) : List (Chan × Q × List (Nat × Q)) → Q → State → State
  | [], _, s => s
  | p :: rest, m, s =>
    let m := maxQ m (absQ p.2.1)
    let s := notePulse t (some (divQ m fs)) none (testPulse s (p.1, p.2.2))
    if fs / 10 < absQ p.2.1 ∨ shortLatched t s = true then raise 0x280E p.1.val 0 (setOsd t.stage 2 s) else lowPulses t fs rest m s

/-- Steps 4 and 5: the pulses on a high and a low side in turn; the first that fails ends the test, with its low side, and the last that
passes ends it with a pass. -/
def pairPulses (t : TSet) (fs : Q) : List (Chan × Chan × PairPulse) → Option Q → State → State
  | [], _, s => setOsd t.stage 1 s
  | p :: rest, m, s =>
    let m := match m with
      | some v => minQ v p.2.2.ix
      | none => p.2.2.ix
    let s := notePulse t none (some (divQ m fs)) (turnOffAt 200 p.1 (turnOffAt 200 p.2.1 (gcOn p.2.1 p.2.2.low (gcOn p.1 p.2.2.high (turnOn p.2.1 (turnOn p.1 s))))))
    if pulseOk s t p.2.1 s.dc.dclT p.2.2 = false then raise 0x280F p.2.1.val 0 (setOsd t.stage 2 s)
    else if shortLatched t s then setOsd t.stage 2 s
    else pairPulses t fs rest (some m) s

/-- TRACTION_START_TEST: a set whose low sides carry PT_EN, in DRIVE at standstill, with the link in its window and both
permits, is tested; moving, the result is pending. Step 1 suspects a high-side short at every phase that reads half of V_dc, and then no pulse is run; the
pulses of steps 2 to 5 follow one another (R263). A fault names the high side of step 1's phase, the low side of steps 2 and 3, and the low side
of steps 4 and 5, whose record gives the window (R265). -/
def execTractionStartTest (t : TSet) (r : StartTest) (s : State) : Host.Outcome State Fault Refusal :=
  let g := t.stage
  if s.ptEnabled t = false ∨ s.sys.mode ≠ .drive ∨ s.sys.dcInside = false ∨ s.setPermit t = false ∨ (s.pwm.get t.grp).running = true ∨ s.startAsked t = false then .next s
  else if s.pf 3 0 8 ≤ absQ (s.omegaM t) then .next (setOsd g 3 s)
  else
    let fs := iFsOf s t
    let shorted := (List.zip t.highs r.phases.toList).filter (fun p => decide (s.dc.dclT / 2 ≤ p.2))
    if shorted ≠ [] then .next (shorted.foldl (fun s p => raise 0x280D p.1.val 0 s) (setOsd g 2 s))
    else
      let s := lowPulses t fs (List.zip t.lows r.low.toList) 0 (setOsd g 0 s)
      if (s.gd.st.get g).osd = 2 then .next s
      else
        let lows := [t.lows.getD 1 0, t.lows.getD 2 0, t.lows.getD 0 0]
        .next (pairPulses t fs (List.zip t.highs (List.zip lows r.pair.toList)) none s)

/-! ## Clearing latched flags (R264) -/

/-- One channel of the routine: refused at its third short with 0x2810, else its flags, its stage's off-state result and their
faults clear. -/
def clearChan (s : State) (c : Chan) : State :=
  let x := s.gd.ch.get c
  if 3 ≤ x.shorts then raise 0x2810 c.val 0 s
  else
    let s := s.updCh c (fun x => { x with desat := false, gc := false, rb := false, link := false, bstOff := false })
    let s := setOsd (stageOf c) 0 s
    let s := [0x2801, 0x2802, 0x2803, 0x2806, 0x2807, 0x2808].foldl (fun s k => clearF k c.val s) s
    (stageChans (stageOf c)).foldl (fun s d => [0x280A, 0x280B, 0x280C, 0x280D, 0x280E, 0x280F].foldl (fun s k => clearF k d.val s) s) s

/-- A set in ASC on its high sides goes back to the low sides once none of them carries a flag: the high sides are used only while one
does (R203). -/
def ascSides (s : State) (t : TSet) : State :=
  if (s.ss.get t).st = 3 ∧ s.sideFlagged t.lows = false then goAsc t s else s

/-- CLEAR_LATCHED_FLAGS: routine 0xF300 with a channel index or 0xFF (R264). -/
def execClearLatchedFlags (p : UPath) (opt : Nat) (s : State) : Host.Outcome State Fault Refusal :=
  let cs := if opt = 0xFF then (allChans.filter s.chPresent) else (allChans.filter (fun c => c.val = opt && s.chPresent c))
  if s.routineAllowed p 0xF300 = false then .next (udsNeg p 0x31 (s.routineNrc p 0xF300) s)
  else if cs = [] then .next (udsNeg p 0x31 0x31 s)
  else if ¬(s.sys.mode = .ready ∨ s.sys.mode = .convert ∨ s.sys.mode = .safe) ∨ cs.any (fun c => s.stageRuns (stageOf c)) = true then .next (udsNeg p 0x31 0x22 s)
  else .next (udsPos p [0x71, 0x01, 0xF3, 0x00] ([.a, .b].foldl ascSides (cs.foldl clearChan s)))

end Sys2Proof.Machine
end

