-- ==== Sys2Proof/Machine/Ports.lean ====
section
/-! DEFINITION. The fabric ports and what a change of one does: transmitter, adverts, reference, link down (R450, R451, R453 to R458). -/

namespace Sys2Proof.Machine

/-! ## Headers (R444) -/

/-- The 16 header bytes. -/
def hdrBytes (h : FabHeader) : List Byte :=
  natLe 1 (h.version * 16 + h.type) ++ natLe 1 (h.cls + 8 * b2n h.e2e + 16 * b2n h.bcast + 32 * h.rsv1) ++ natLe 1 h.dst ++ natLe 1 h.dep
    ++ natLe 1 h.src ++ natLe 1 h.sep ++ natLe 2 h.len ++ natLe 1 h.hop ++ natLe 1 h.rsv9 ++ natLe 2 h.seq ++ natLe 2 h.link ++ natLe 2 h.rsv14

/-! ## The transmitter (R450) -/

/-- A frame with its link sequence in bytes 12 to 13. -/
def withLink (n : Nat) (bytes : List Byte) : List Byte := bytes.take 12 ++ natLe 2 n ++ bytes.drop 14

/-- A frame sent on an UP port: it takes the next link sequence and a place of the 8-frame replay buffer, or waits. -/
def transmit (p : Port) (ty : Nat) (bytes : List Byte) (s : State) : State :=
  let q := s.fab.ports.get p
  if q.st ≠ 4 then s
  else if 8 ≤ q.replay.length then updPort p (fun q => { q with waiting := q.waiting ++ [(ty, bytes)] }) s
  else
    let b := withLink q.txLink bytes
    send (.fab p ty b) (updPort p (fun q => { q with txLink := wrapInc 16 q.txLink, tx := wrapInc 16 q.tx, replay := q.replay ++ [{ link := q.txLink, resends := 0, ty := ty, bytes := b }] }) s)

/-- A type 2 frame to the far end of a port's link (R444); before admission its source reads 0xFF. -/
def linkFrame (s : State) (body : List Byte) : List Byte :=
  hdrBytes { version := 1, type := 2, cls := 7, e2e := false, bcast := false, rsv1 := 0, dst := 0xFE, dep := 0, src := if s.fab.admitted then s.fab.addr else 0xFF, sep := 0, len := body.length, hop := 0, rsv9 := 0, seq := 0, link := 0, rsv14 := 0 } ++ body

/-- Bytes whose layout the spec does not give (log entry 25). -/
def freeBytes (s : State) : List Byte × State := (Config.layout s.freeIx, { s with freeIx := s.freeIx + 1 })

/-! ## Adverts and the reference (R453 to R458) -/

/-- The node's own advert leaves every UP port under a new advert sequence; its bytes are free (log entry 25). -/
def floodOwn (s : State) : State :=
  let f := freeBytes { s with fab := { s.fab with advSeq := s.fab.advSeq + 1 } }
  portAll.foldl (fun s p => transmit p 2 (linkFrame s f.1) s) f.2

/-- The addresses of the admitted nodes that cannot be reached now. -/
def unreachableAddrs (s : State) : List Nat :=
  let r := reachable s
  ((admittedIds s).filter (fun i => !r.contains i)).filterMap (addrOf s)

/-- The reference in use: it stays while it is reachable, except that a reachable lower address that has locked takes over. Whether
another node has locked is not visible here, so that is a free either-or (R458, log entry 35). -/
def chooseRef (s : State) : State :=
  match ((reachable s).filterMap (addrOf s)).foldl (fun m a => match m with
      | none => some a
      | some b => some (min a b)) none with
  | none => s
  | some low =>
    let cur := s.fab.timeRef
    let here := match idAt s cur with
      | some i => (reachable s).contains i
      | none => false
    if here = false then { s with fab := { s.fab with timeRef := low } }
    else if low < cur then
      if low = s.fab.addr then (if s.fab.lock then { s with fab := { s.fab with timeRef := low } } else s)
      else
        let c := takeChoice s
        if c.1 then { c.2 with fab := { c.2.fab with timeRef := low } } else c.2
    else s

/-- A node that is the reference is locked: its time is its own Meridian count, or continues from its copy (R458). -/
def beRef (s : State) : State :=
  if s.fab.admitted = true ∧ s.fab.timeRef = s.fab.addr then
    { s with fab := { s.fab with time := if s.fab.timeSet then s.fab.time else (s.mer.ct : Q) * 25, timeSet := true, lock := true, rate := 0, badRun := 0 } }
  else s

/-- The port toward the reference is the parent; every port shows its neighbour's address. -/
def markPorts (s : State) : State :=
  let par := (idAt s s.fab.timeRef).bind (egress s)
  { s with fab := { s.fab with ports := s.fab.ports.updAll portAll (fun p x => { x with parent := decide (par = some p), nbrAddr := (addrOf s x.nbrId).getD 0 }) } }

/-- What follows a change of the topology: unreachable nodes are reported once (0x6802), a large diameter too (0x6809), the reference
and the parent are chosen anew. -/
def retopo (s : State) : State :=
  if s.fab.admitted = false then s
  else
    let gone := unreachableAddrs s
    let new := gone.filter (fun a => !s.fab.gone.contains a)
    let s := { s with fab := { s.fab with gone := gone } }
    let s := new.foldl (fun s a => raise 0x6802 a 0 s) s
    let s := if s.maxDiam < diameter s then raise 0x6809 noInst (diameter s) s else s
    markPorts (beRef (chooseRef s))

/-- A port changed: a new advert, new routes. -/
def portChanged (s : State) : State := retopo (floodOwn s)

/-- A change that has taken a port out of UP is one of the topology (R451, R457). -/
def settlePorts (old s : State) : State :=
  if portAll.any (fun p => decide ((old.fab.ports.get p).st = 4 ∧ (s.fab.ports.get p).st ≠ 4)) then portChanged s else s

/-- The link goes down: the replay buffer is discarded, DOWNS counts it, 0x6801 (R451). -/
def dropLink (p : Port) (s : State) : State :=
  portChanged (raise 0x6801 p.val 0 (updPort p (fun x => { x with downs := satInc 8 x.downs }) (closePort 1 p s)))

end Sys2Proof.Machine
end

