-- ==== Sys2Proof/Machine/Queues.lean ====
section
/-! DEFINITION. The priority queues (17_priority_queues.md): push, commit, rewind, pop, marks and resets. -/

namespace Sys2Proof.Machine

/-! ## The table of queues (R439) -/

/-- D, words per chain. -/
def qDepth (q : QId) : Nat := if q.val < 8 then 136 else if q.val < 12 then 264 else if q.val < 14 then 200 else if q.val < 26 then 40 else 64

/-- L, the largest packet. -/
def qMax (q : QId) : Nat := if q.val < 8 then 130 else if q.val < 12 then 258 else if q.val < 14 then 192 else if q.val < 26 then 32 else 4

/-- The writer is an interface receiver, which never waits (R430). -/
def qReceiver (q : QId) : Bool := decide (q.val < 4) || decide (q.val = 9) || decide (q.val = 11) || decide (q.val = 13)

/-- A pair works: no transfer of a halted one reaches the bus (R409). -/
def State.pairOn (s : State) (p : LPair) : Bool := decide ((s.lks.pairs.get p).st = 1)

/-- The writer of a queue can write: the pair of a mailbox, Ganymede for FAB_OUT, Io or Ganymede for an interface's TX queue (R409, R439). -/
def qWriterOn (s : State) (q : QId) : Bool :=
  if 14 ≤ q.val ∧ q.val < 26 then s.pairOn (pairAt ((q.val - 14) / 3))
  else if q.val = 8 ∨ q.val = 10 ∨ q.val = 12 then s.pairOn .io || s.pairOn .ganymede
  else if 4 ≤ q.val ∧ q.val < 8 then s.pairOn .ganymede
  else true

/-- The reader of a queue can read: the other pair of a mailbox, in their order, Ganymede for FAB_IN and LOG, Io or Ganymede for an
interface's RX queue. -/
def qReaderOn (s : State) (q : QId) : Bool :=
  if 14 ≤ q.val ∧ q.val < 26 then
    let x := (q.val - 14) / 3
    let k := (q.val - 14) % 3
    s.pairOn (pairAt (if k < x then k else k + 1))
  else if q.val = 9 ∨ q.val = 11 ∨ q.val = 13 then s.pairOn .io || s.pairOn .ganymede
  else if q.val < 4 ∨ q.val = 26 then s.pairOn .ganymede
  else true

/-! ## Chains and marks (R432, R433) -/

/-- The marks of a chain as an update writes both copies of them. -/
def Chain.remark (c : Chain) : Chain :=
  let o := c.words.length + c.opn.length
  { c with marks := { o := o, c := c.words.length, u := c.opn.length, oN := o, cN := c.words.length, uN := c.opn.length } }

/-- CAUSE of PQ_Qq_RESET: bit 0 the O copies differ, bit 1 the C copies, bit 2 the U copies, bit 3 O ≠ C + U. -/
def markCause (m : Marks) : Nat :=
  b2n (decide (m.o ≠ m.oN)) + 2 * b2n (decide (m.c ≠ m.cN)) + 4 * b2n (decide (m.u ≠ m.uN)) + 8 * b2n (decide (m.o ≠ m.c + m.u))

/-- One of the six counts of a chain replaced. -/
def upsetMark (k : Fin 6) (v : Nat) (m : Marks) : Marks :=
  match k.val with
  | 0 => { m with o := v }
  | 1 => { m with oN := v }
  | 2 => { m with c := v }
  | 3 => { m with cN := v }
  | 4 => { m with u := v }
  | _ => { m with uN := v }

/-- The first chain whose marks disagree. -/
def badChain (q : PQueue) : Option (Fin 8) := clsAll.find? (fun c => decide (markCause (q.chains.get c).marks ≠ 0))

/-- The open packet is removed from its chain (R424). -/
def PQueue.rewind (q : PQueue) : PQueue :=
  match q.opened with
  | some c => { q with opened := none, chains := q.chains.upd c (fun x => { x with opn := [] }.remark) }
  | none => q

/-- A chain's occupancy counts toward HWM. -/
def PQueue.seen (q : PQueue) (c : Fin 8) : PQueue := { q with hwm := max q.hwm (q.chains.get c).occ }

/-- The change of one queue. -/
def updQ (q : QId) (f : PQueue → PQueue) (s : State) : State := { s with pq := s.pq.upd q f }

/-! ## Reset (R434 to R436) -/

/-- Items lost at a reset: FIRST-tagged words in the chains, 1 for an open packet, 1 for a started one (R435). -/
def lostItems (q : PQueue) : Nat :=
  let firsts (c : Chain) : Nat := ((c.words ++ c.opn).filter (·.first)).length
  let waits := match q.wait with
    | some w => w.2.first
    | none => false
  clsAll.foldl (fun n c => n + firsts (q.chains.get c)) 0 + b2n (q.opened.isSome || waits) + b2n q.reading.isSome

/-- Every chain emptied, the open packet and the started packet lost. -/
def PQueue.cleared (q : PQueue) (lost chain cause time nowMs : Nat) : PQueue :=
  { q with chains := Tab.fill Chain.empty, opened := none,
           -- the words of a lost open packet that are still to come are discarded up to LAST, a word lost while it waited counted in
           discard := (match q.wait with
             | some w => !w.2.last
             | none => q.opened.isSome || q.discard),
           aborted := q.aborted || q.reading.isSome, reading := none, wait := none, popped := none,
           resets := satInc 8 q.resets, lostLast := min lost 0xFFFF, chain := chain, cause := cause, time := time, resetMs := (nowMs :: q.resetMs).take 3 }

/-- The reset of a queue at a mismatch, with 0x7001 and at the third within 1 s 0x7002 (R434 to R436). -/
def resetQueue (q : QId) (c : Fin 8) (nowMs : Nat) (s : State) : State :=
  let x := s.pq.get q
  let lost := lostItems x
  let y := x.cleared lost c.val (markCause (x.chains.get c).marks) (s.timeNs % 2 ^ 32) nowMs
  let s := { s with pq := s.pq.put q y, pqSeen := if s.pqSeen.contains q then s.pqSeen else q :: s.pqSeen }
  let s := raise 0x7001 q.val lost s
  let third := match y.resetMs with
    | [a, _, b] => decide (a < b + 1000)
    | _ => false
  if third then settlePorts s (raise 0x7002 q.val lost s) else s

/-- The time of an update's own check (R433): the ms of the time base, not before the last reset. -/
def resetTime (q : QId) (s : State) : Nat := max (s.timeNs / 1000000) ((s.pq.get q).resetMs.headD 0)

/-! ## Push (R423, R424, R430, R431) -/

/-- A refused received message (R496): RXDROP of the interface and 0x7806. -/
def rxRefused (q : QId) (s : State) : State :=
  if q.val = 9 ∨ q.val = 11 then
    let n : Fin 2 := if q.val = 9 then 0 else 1
    raise 0x7806 n.val 0 { s with vif := { s.vif with can := s.vif.can.upd n (fun c => { c with rxdrop := satInc 8 c.rxdrop }) } }
  else if q.val = 13 then raise 0x7806 2 0 { s with vif := { s.vif with ethDrop := satInc 8 s.vif.ethDrop } }
  else s

/-- A word of the open packet (or the first of a new one) enters its chain, waits, or ends its packet. -/
def enterWord (q : QId) (c : Fin 8) (w : Item) (s : State) : State :=
  let x := s.pq.get q
  let ch := x.chains.get c
  if qMax q < ch.opn.length + 1 then
    raise 0x7003 q.val 0 { s with pq := s.pq.put q { x.rewind with opened := none, discard := !w.last, overlong := satInc 8 x.overlong } }
  else if ch.occ < qDepth q then
    let ch := if w.last then { ch with words := ch.words ++ ch.opn ++ [w], opn := [] } else { ch with opn := ch.opn ++ [w] }
    let y := { x with chains := x.chains.put c ch.remark, opened := if w.last then none else some c, packets := if w.last then wrapInc 16 x.packets else x.packets }
    { s with pq := s.pq.put q (y.seen c) }
  else if qReceiver q then
    rxRefused q { s with pq := s.pq.put q { x.rewind with opened := none, discard := !w.last, full := satInc 8 x.full } }
  else { s with pq := s.pq.put q { x with opened := some c, wait := some (c, w) } }

/-- A malformed word is counted and raises 0x7004 (R423). -/
def malformed (q : QId) (s : State) : State := raise 0x7004 q.val 0 (updQ q (fun x => { x with malf := satInc 8 x.malf }) s)

/-- A word pushed by the writer. -/
def pushWord (q : QId) (c : Fin 8) (w : Item) (s : State) : State :=
  let x := s.pq.get q
  if x.discard then updQ q (fun x => { x with discard := !w.last }) s
  else
    match x.opened with
    | none => if w.first then enterWord q c w s else malformed q s
    | some o =>
      if w.first then enterWord q c w (malformed q (updQ q PQueue.rewind s))
      else if c = o then enterWord q c w s
      else malformed q (updQ q (fun x => { x.rewind with discard := !w.last }) s)

/-- QUEUE_PUSH: a tagged word is written; a push that found no room keeps the writer waiting until a pop or its limit
(R423, R424, R430, R431). A halted pair writes nothing (R409). -/
def execQueuePush (q : QId) (word : BitVec 64) (first last : Bool) (cls : Fin 8) (s : State) : Host.Outcome State Fault Refusal :=
  if qPresent s q = false ∨ qWriterOn s q = false then .next s
  else
    match badChain (s.pq.get q) with
    | some c => .next (resetQueue q c (resetTime q s) (updQ q (fun x => { x with wait := some (cls, { word := word, first := first, last := last }) }) s))
    | none =>
      if (s.pq.get q).wait.isSome then .next s
      else .next (pushWord q cls { word := word, first := first, last := last } s)

/-- QUEUE_PUSH_TIMEOUT: after 100 µs a pair's waiting push is refused and its packet rewound (R430). -/
def execQueuePushTimeout (q : QId) (waitUs : Nat) (s : State) : Host.Outcome State Fault Refusal :=
  let x := s.pq.get q
  if x.wait.isSome = true ∧ 100 ≤ waitUs then
    .next { s with pq := s.pq.put q { x.rewind with opened := none, wait := none, full := satInc 8 x.full } }
  else .next s

/-- QUEUE_ABORT: the open packet's words are removed; ABORT counts it (R424). -/
def execQueueAbort (q : QId) (s : State) : Host.Outcome State Fault Refusal :=
  let x := s.pq.get q
  if x.opened.isNone = true ∨ qWriterOn s q = false then .next s
  else
    match badChain x with
    | some c => .next (resetQueue q c (resetTime q s) s)
    | none => .next { s with pq := s.pq.put q { x.rewind with wait := none, abort := satInc 8 x.abort } }

/-- ZERO_LENGTH_COMMIT: with no word since the last commit or rewind only ZCOMMIT counts it (R425). -/
def execZeroLengthCommit (q : QId) (s : State) : Host.Outcome State Fault Refusal :=
  let x := s.pq.get q
  if qPresent s q = true ∧ qWriterOn s q = true ∧ x.opened.isNone = true then .next { s with pq := s.pq.put q { x with zcommit := satInc 16 x.zcommit } }
  else .next s

/-! ## Pop (R427 to R429) -/

/-- The chain the next pop reads: the started packet's, else the highest class with a committed packet. -/
def readChain (q : PQueue) : Option (Fin 8) :=
  match q.reading with
  | some c => some c
  | none => clsAll.reverse.find? (fun c => (q.chains.get c).ready)

/-- The head of the chain is taken; a waiting push may then enter (R437). -/
def popWord (q : QId) (s : State) : State :=
  let x := s.pq.get q
  match readChain x with
  | none => s
  | some c =>
    match (x.chains.get c).words with
    | [] => s
    | w :: rest =>
      let ch := { x.chains.get c with words := rest }.remark
      let y := { x with chains := x.chains.put c ch, popped := some w, reading := if w.last then none else some c }
      match y.wait with
      | some v => if (y.chains.get v.1).occ < qDepth q then enterWord q v.1 v.2 { s with pq := s.pq.put q { y with wait := none } } else { s with pq := s.pq.put q y }
      | none => { s with pq := s.pq.put q y }

/-- A queue whose marks disagree at an update resets first (R433, R437). -/
def checkQueue (q : QId) (s : State) : State :=
  match badChain (s.pq.get q) with
  | some c => resetQueue q c (resetTime q s) s
  | none => s

/-- A whole packet that its writer puts in at once; one that finds no room is refused and FULL counts it (R430). -/
def pushPacket (q : QId) (c : Fin 8) (ws : List (BitVec 64)) (s : State) : State :=
  let s := checkQueue q s
  let x := s.pq.get q
  let ch := x.chains.get c
  let n := ws.length
  if ch.occ + n ≤ qDepth q then
    let items := ws.mapIdx (fun i w => ({ word := w, first := decide (i = 0), last := decide (i + 1 = n) } : Item))
    let y := { x with chains := x.chains.put c { ch with words := ch.words ++ items }.remark, packets := wrapInc 16 x.packets }
    { s with pq := s.pq.put q (y.seen c) }
  else updQ q (fun x => { x with full := satInc 8 x.full }) s

/-- A packet that its reader takes as soon as it is in: it needs room in its chain, else FULL counts it; none of it stays (R430). -/
def passQueue (q : QId) (c : Fin 8) (n : Nat) (s : State) : Bool × State :=
  let s := checkQueue q s
  let x := s.pq.get q
  let o := (x.chains.get c).occ + n
  if o ≤ qDepth q then (true, { s with pq := s.pq.put q { x with packets := wrapInc 16 x.packets, hwm := max x.hwm o } })
  else (false, { s with pq := s.pq.put q { x with full := satInc 8 x.full } })

/-! ## Marks (R433) -/

/-- MARK_CHECK: every chain's copies and O = C + U are compared, after the upset that the command brings, if any; a
difference resets the queue (R433 to R436). -/
def execMarkCheck (q : QId) (upset : Option (Fin 8 × Fin 6 × Nat)) (nowMs : Nat) (s : State) : Host.Outcome State Fault Refusal :=
  if qPresent s q = false then .next s
  else
    let s := match upset with
      | some u => updQ q (fun x => { x with chains := x.chains.upd u.1 (fun ch => { ch with marks := upsetMark u.2.1 u.2.2 ch.marks }) }) s
      | none => s
    match badChain (s.pq.get q) with
    | some c => .next (resetQueue q c nowMs s)
    | none => .next s

end Sys2Proof.Machine
end

