-- ==== Sys2Proof/Machine/Link.lean ====
section
/-! DEFINITION. How frames leave a node (R442 to R452): trailers, queues, routed sends. -/

namespace Sys2Proof.Machine

/-! ## Frames (R444, R448) -/

/-- The bytes that the CRC-32C of a trailer covers: header bytes 0 to 7, 9 to 11 and 14 to 15, then the payload up to the CRC. -/
def e2eCover (h : FabHeader) (body : List Byte) : List Byte :=
  let b := hdrBytes h
  b.take 8 ++ bytesAt b 9 3 ++ bytesAt b 14 2 ++ body

/-- The data ID of a control frame. -/
def dataId (h : FabHeader) : Nat := h.type * 0x1000 + h.dep * 0x100 + h.sep

/-- The words of a frame as a packet: 2 + payload length / 8, the last padded with zero bytes. -/
def frameWords : Nat → List Byte → List (BitVec 64)
  | 0, _ => []
  | n + 1, bs => if bs = [] then [] else BitVec.ofNat 64 (leNat (bs.take 8)) :: frameWords n (bs.drop 8)

/-- The bytes of a packet's words: header and payload. -/
def wordBytes (ws : List (BitVec 64)) : List Byte :=
  let bs := ws.flatMap (fun w => natLe 8 w.toNat)
  bs.take (16 + uAt bs 6 2)

/-- The frames that waited take the freed places. -/
def drainWaiting (p : Port) : Nat → State → State
  | 0, s => s
  | n + 1, s =>
    let q := s.fab.ports.get p
    match q.waiting with
    | [] => s
    | w :: rest => if 8 ≤ q.replay.length then s else drainWaiting p n (transmit p w.1 w.2 (updPort p (fun q => { q with waiting := rest }) s))

/-- FAB_OUT of a port. -/
def outQ (p : Port) : QId := ⟨4 + p.val, by omega⟩

/-- FAB_IN of a port. -/
def inQ (p : Port) : QId := ⟨p.val, by omega⟩

/-- A class as a chain. -/
def clsFin (c : Nat) : Fin 8 := ⟨c % 8, Nat.mod_lt _ (by decide)⟩

/-- A frame put into FAB_OUT of a port as one committed packet. -/
def queueOut (p : Port) (cls : Nat) (bytes : List Byte) (s : State) : State := pushPacket (outQ p) (clsFin cls) (frameWords 130 bytes) s

/-! ## Routed sends (R448, R449, R456) -/
/-- The value of a key in a list of counts. -/
def countOf {κ : Type} [DecidableEq κ] (k : κ) (xs : List (κ × Nat)) : Nat := (Tab.find k xs).getD 0

/-- A count of a key replaced. -/
def setCount {κ : Type} [DecidableEq κ] (k : κ) (v : Nat) (xs : List (κ × Nat)) : List (κ × Nat) := (k, v) :: Tab.drop k xs

/-- A frame of this node to one node or to every node: into FAB_OUT of its egress, or of each tree port; one to an
unreachable node is discarded and counted (R456). -/
def route (dst : Option Nat) (cls : Nat) (bytes : List Byte) (s : State) : State :=
  match dst with
  | some a =>
    match (idAt s a).bind (egress s) with
    | some p => queueOut p cls bytes s
    | none => { s with fab := { s.fab with unreach := satInc 8 s.fab.unreach } }
  | none => (treePorts s s.ident).foldl (fun s p => queueOut p cls bytes s) s

/-- A control frame with its E2E trailer; the counter of its stream rises by 1 (R448). Nothing is sent before FAB_READY. -/
def sendCtl (ty cls : Nat) (dst : Option Nat) (dep sep : Nat) (body : List Byte) (s : State) : State :=
  if s.fabReady = false then s
  else
    let key := (dep, dst.getD 0xFF)
    let cnt := (countOf key s.fab.txCnt + 1) % 2 ^ 16
    let h : FabHeader := { version := 1, type := ty, cls := cls, e2e := true, bcast := dst.isNone, rsv1 := 0, dst := dst.getD 0xFF, dep := dep, src := s.fab.addr, sep := sep, len := body.length + 8, hop := 0, rsv9 := 0, seq := cnt, link := 0, rsv14 := 0 }
    let b := body ++ natLe 2 cnt ++ natLe 2 (dataId h)
    let crc := crc32c (e2eCover h b)
    route dst cls (hdrBytes h ++ b ++ natLe 4 crc) { s with fab := { s.fab with txCnt := setCount key cnt s.fab.txCnt } }

/-- A data frame; the sequence of its destination rises by 1 (R449). -/
def sendData (cls dst dep sep : Nat) (body : List Byte) (s : State) : State :=
  if s.fabReady = false then s
  else
    let n := (countOf dst s.fab.txData + 1) % 2 ^ 16
    let h : FabHeader := { version := 1, type := 0, cls := cls, e2e := false, bcast := false, rsv1 := 0, dst := dst, dep := dep, src := s.fab.addr, sep := sep, len := body.length, hop := 0, rsv9 := 0, seq := n, link := 0, rsv14 := 0 }
    route (some dst) cls (hdrBytes h ++ body) { s with fab := { s.fab with txData := setCount dst n s.fab.txData } }

/-- A frame of `len` payload bytes to a node finds room in FAB_OUT of its egress, or is discarded there. -/
def roomFor (s : State) (cls dst len : Nat) : Bool :=
  match (idAt s dst).bind (egress s) with
  | some p => decide (((s.pq.get (outQ p)).chains.get (clsFin cls)).occ + 2 + (len + 7) / 8 ≤ qDepth (outQ p))
  | none => true

/-- The frames of long answers that find room are sent, in order (log entry 33). -/
def drainBulk : Nat → State → State
  | 0, s => s
  | n + 1, s =>
    match s.fab.bulk with
    | [] => s
    | (cls, dst, dep, sep, b) :: rest =>
      if s.fabReady = true ∧ roomFor s cls dst b.length = true then drainBulk n (sendData cls dst dep sep b { s with fab := { s.fab with bulk := rest } })
      else s

/-- The data frames of a long answer: sent as FAB_OUT has room. -/
def sendBulk (cls dst dep sep : Nat) (bodies : List (List Byte)) (s : State) : State :=
  drainBulk (s.fab.bulk.length + bodies.length) { s with fab := { s.fab with bulk := s.fab.bulk ++ bodies.map (fun b => (cls, dst, dep, sep, b)) } }

/-- A frame is being forwarded out of the port as it arrives at another (R452). -/
def cutInto (s : State) (p : Port) : Bool :=
  portAll.any (fun i => match (s.fab.ports.get i).rx with
    | some (_, .cut e) => decide (e = p)
    | _ => false)

/-- QUEUE_POP: one word leaves in the order of R427; with the last word of a FAB_OUT packet the port's transmitter, busy while it forwards
another frame as that arrives, sends its frame (R450, R452). -/
def execQueuePop (q : QId) (s : State) : Host.Outcome State Fault Refusal :=
  if qPresent s q = false ∨ qReaderOn s q = false then .next s
  else
    match badChain (s.pq.get q) with
    | some c => .next (resetQueue q c (resetTime q s) s)
    | none =>
      if (s.pq.get q).aborted then
        let s := updQ q (fun x => { x with aborted := false, popped := none }) s
        .next (if 4 ≤ q.val ∧ q.val < 8 then updPort ⟨q.val % 4, Nat.mod_lt _ (by decide)⟩ (fun x => { x with txWords := [] }) s else s)
      else if 4 ≤ q.val ∧ q.val < 8 then
        let p : Port := ⟨q.val % 4, Nat.mod_lt _ (by decide)⟩
        if (s.fab.ports.get p).st ≠ 4 ∨ cutInto s p = true ∨ (readChain (s.pq.get q)).isNone = true then .next s
        else
          let s := popWord q s
          match (s.pq.get q).popped with
          | none => .next s
          | some w =>
            let ws := w.word :: (s.fab.ports.get p).txWords
            if w.last then
              let b := wordBytes ws.reverse
              .next (drainBulk s.fab.bulk.length (transmit p (uAt b 0 1 % 16) b (updPort p (fun x => { x with txWords := [] }) s)))
            else .next (updPort p (fun x => { x with txWords := ws }) s)
      else .next (popWord q s)

/-- A control frame of the pair to its partner: the content is recorded, its bytes are free (log entry 25). -/
def sendPair (cls dep : Nat) (c : CtlContent) (s : State) : State :=
  match partnerAddr s with
  | none => s
  | some a =>
    if s.fabReady = false then s
    else
      let b := freeBytes s
      let s := sendCtl 1 cls (some a) dep dep b.1 b.2
      send (.ctl a dep (countOf (dep, a) s.fab.txCnt) c) s

/-- A management reply: a control frame of class 5 from an endpoint, with bit 7 of OP set (R465). -/
def mgmtReply (node ep sep op tag status : Nat) (args : List Byte) (s : State) : State :=
  sendCtl 1 5 (some node) ep sep ([BitVec.ofNat 8 (op % 128 + 128), BitVec.ofNat 8 tag, BitVec.ofNat 8 status, 0] ++ args) s

/-! ## End-to-end counters (R448, R504) -/

/-- What a receiver makes of a counter. -/
inductive Verdict where
  /-- Accepted, with so many messages missing before it. -/
  | accept (lost : Nat)
  | again
  | reject
  /-- Discarded while the stream resynchronises. -/
  | hold
  deriving DecidableEq, Repr

/-- The judgement of a counter whose data ID and CRC fit: the first of a stream, one of a stream that resynchronises, or one
against the last accepted counter (log entry 34). -/
def judgeCounter (started resync : Bool) (lastGood : Option Nat) (last cnt : Nat) : Verdict :=
  if started = false then .accept 0
  else if resync then
    match lastGood with
    | some g => if cnt % 2 ^ 16 = (g + 1) % 2 ^ 16 then .accept 0 else .hold
    | none => .hold
  else
    let d := (cnt + 2 ^ 16 - last % 2 ^ 16) % 2 ^ 16
    if d = 0 then .again else if d ≤ 8 then .accept (d - 1) else .reject

end Sys2Proof.Machine
end

