-- ==== Sys2Proof/Machine/PairOps.lean ====
section
/-! DEFINITION. Axle-lead pairs (19_pair_redundancy.md): heartbeats, roles, arbitration, handover and swap. -/

namespace Sys2Proof.Machine

/-! ## The pair record and what a unit reports (R472 to R475) -/

/-- Pair operation is present. -/
def pairOn (s : State) : Bool := s.fn 11 && s.hasRec 0x98 0

/-- The instance of a pair fault: the partner's address (R492). -/
def pairInst (s : State) : Nat := (partnerAddr s).getD noInst

/-- Every vehicle interface that a message record names is up. -/
def msgIfsUp (s : State) : Bool :=
  (List.finRange 256).all (fun m =>
    let mask := s.pu 0xA1 m 4
    !s.hasRec 0xA1 m || ((!mask.testBit 0 || (s.canOn 0 && decide ((s.vif.can.get 0).st ≠ 2))) && (!mask.testBit 1 || (s.canOn 1 && decide ((s.vif.can.get 1).st ≠ 2)))
      && (!mask.testBit 2 || (s.ethOn && s.vif.ethUp))))

/-- LEAD_OK (R473). -/
def leadOk (s : State) : Bool := !activeClass 4 s && pairRunning s .io && pairRunning s .ganymede && msgIfsUp s

/-- Heartbeats are sent (R473). -/
def heartbeatOn (s : State) : Bool := pairOn s && pairRunning s .ganymede && !activeClass 4 s

/-- The counters of the vehicle messages that the present computation uses. -/
def usedCounters (s : State) : List (Nat × Nat) :=
  [1, 2, 3, 4, 5].filterMap (fun f => (msgOf s f).map (fun m => (f, (s.vif.streams.get m).lastCnt)))

/-- The vehicle's request: T_ax and ΔT, 0 while none is valid (R192). -/
def vehRequest (s : State) : Q × Q := if s.tm.reqValid then (s.tm.tAx, s.tm.dT) else (0, 0)

/-- The partner's motor is unavailable (R478). -/
def partnerOut (s : State) : Bool :=
  s.pair.declared || !s.pair.partnerAvail || (match s.pair.hb with
    | some h => decide (h.role = 3)
    | none => false)

/-- The unit's own motor is available to the split: no F3 of traction and no F4 (R478). -/
def motorAvailable (s : State) : Bool := !s.tractionBlocked && !activeClass 4 s

/-- The motor of the lead (1) or of the partner (2) is unavailable (R478). -/
def motorOut (s : State) (k : Nat) : Bool := if decide (k = 1) == decide (s.pair.role = 1) then !motorAvailable s else partnerOut s

/-- The role computation's request for the lead (1) or the partner (2): while one motor is unavailable, REDIST gives the whole to the other
(R475, R478). No rule states the split of a request (log entry 24); one that is taken as 0 is 0 for both (R192). -/
def shareOf (s : State) (k : Nat) : Q × Q :=
  let r := vehRequest s
  if s.tm.reqValid = false then (0, 0)
  else if s.pu 0x98 0 20 = 1 ∧ motorOut s k ≠ motorOut s (3 - k) then (if motorOut s k then (0, 0) else r)
  else (Config.roleSplit k r.1, Config.roleSplit (k + 2) r.2)

/-- T_ax and ΔT at step 2 of R186 (R185, R192, R476); after a timeout the request is 0 in every role. -/
def takenRequest (s : State) : Q × Q :=
  if s.tm.lostMs.isSome then (0, 0)
  else if pairOn s = false then vehRequest s
  else if s.pair.role = 2 then
    match s.pair.leadReq with
    | some r => if s.pair.fabHb then r else shareOf s 2
    | none => shareOf s 2
  else if s.pair.role = 3 then
    let r := shareOf s 2
    let l := s.pf 0x98 0 16
    (clampQ (-l) l r.1, r.2)
  else shareOf s 1

/-! ## The LV bus (R490) -/

/-- V_STBY_OFS in mV. -/
def standbyMv (s : State) : Nat := roundN (s.pf 0x98 0 32 * 1000)

/-- The new LV-bus master writes the full setpoint at its slew. -/
def lvFull (s : State) : State :=
  match s.lvc.cmd with
  | some c => lvcWrite (c.1 * 65536 + min (c.2 + standbyMv s) 65535) s
  | none => s

/-- A unit that is no longer master writes the setpoint less V_STBY_OFS. -/
def lvStandby (s : State) : State :=
  match s.lvc.cmd with
  | some c => lvcWrite (c.1 * 65536 + (c.2 - standbyMv s)) s
  | none => s

/-! ## Roles (R479 to R484, R489) -/

/-- The unit takes a role: a new lead becomes LV-bus master, one that loses the lead goes to standby and its session ends
with cause 8; an entry into SOLO is counted. -/
def setRole (r : Nat) (s : State) : State :=
  let was := s.pair.role
  if was = r then s
  else
    let s := { s with pair := { s.pair with role := r, holdoff := false, swapped := s.pair.swapped && decide (r ≠ 3), solos := if r = 3 then satInc 8 s.pair.solos else s.pair.solos } }
    if r = 1 then lvFull s
    else if was = 1 then lvStandby (if s.pair.handover.isSome then s else sessionEnd 8 s)
    else s

/-- A lead taken under R479 or R480, `t` × 10 µs after the declaration. -/
def takeLead (t : Nat) (s : State) : State :=
  if s.pair.role = 1 then s else setRole 1 { s with pair := { s.pair with takeovers := satInc 8 s.pair.takeovers, take := t, swapped := false } }

/-- The declaration of a failed partner: both paths have failed (R474). A swap ends without a result (R489). The senior
pulls ARB and keeps or takes the lead; the junior pulls ARB and arbitrates (R479, R480). -/
def declare (s : State) : State :=
  if activeCode 0x9001 s && activeCode 0x9002 s && !s.pair.declared then
    let s := { s with pair := { s.pair with declared := true, swapped := false, handover := none, arbOut := true } }
    if actsSenior s then takeLead 0 s else { s with pair := { s.pair with arbWait := true } }
  else s

/-! ## Handover (R485, R488) -/

/-- The first Io task boundary at least 3 ms ahead on fabric time. -/
def handoverAt (s : State) : Nat := (s.timeNs + 3000000 + 999999) / 1000000 * 1000000

/-- The last Status counter that the giving unit sends before an instant. -/
def lastCounters (s : State) (t : Nat) : List (Nat × Nat) :=
  match msgOf s 0x20 with
  | some m => [(0x20, (s.vif.txCnt + floorN (divQ ((t - s.timeNs : Nat) : Q) (s.pf 0xA1 m 16 * 1000000000))) % 2 ^ 16)]
  | none => []

/-- An actuator sequence or a charging session of this unit runs. -/
def pairBusy (s : State) : Bool := s.parkRunning || s.shiftRunning || inSession s

/-- A handover waits for an actuator sequence on either unit and for a charging session (R489). -/
def handoverDeferred (s : State) : Bool := pairBusy s || s.pair.partnerBusy

/-- Step 1 of R485 on the giving unit. -/
def startHandover (t : Nat) (swap : Bool) (s : State) : State :=
  let c := lastCounters s t
  sendPair 7 5 (.handover t c swap) { s with pair := { s.pair with handover := some { give := true, at_ := t, acked := false, counters := c, swap := swap } } }

/-- A handover that has not reached its instant is abandoned: 0x9009 (R485). -/
def abandon (s : State) : State :=
  if s.pair.handover.isSome then raise 0x9009 (pairInst s) 0 { s with pair := { s.pair with handover := none } } else s

/-- Both heartbeat paths of the partner are valid. -/
def bothPaths (s : State) : Bool := s.pair.fabHb && s.pair.phbHb

/-! ## The pair's part of each Io task period (R475 to R477, R482) -/

/-- The partner's heartbeat is in and does not lead: it has lost LEAD_OK, or this unit is the designated lead and neither leads (R471, R482,
log entry 51). -/
def leadIsFree (s : State) : Bool :=
  s.pair.fabHb && (match s.pair.hb with
    | some h => !h.leadOk || (actsSenior s && decide (h.role = 2) && decide (s.pair.handover = none))
    | none => false)

/-- In each period a lead without LEAD_OK releases, a partner to whom the lead is free takes it, and the results and the report are sent
(R475, R482). -/
def pairTask (s : State) : State :=
  if pairOn s = false then s
  else
    let s := if s.pair.role = 1 ∧ leadOk s = false then setRole 2 s
      else if s.pair.role = 2 ∧ leadOk s = true ∧ leadIsFree s = true then setRole 1 s
      else s
    let s := sendPair 6 2 (.report (motorAvailable s) (pairBusy s)) s
    if s.pair.role = 1 then
      let s := sendPair 6 2 (.leadRequest (shareOf s 1) (shareOf s 2) (usedCounters s)) s
      let s := sendPair 5 3 (.charge s.chg.phase s.obcT.iBat s.obcT.vBat) s
      match s.lvc.cmd with
      | some c => sendPair 5 3 (.lvSetpoint c.2 c.1) s
      | none => s
    else s

/-- The lead's frame serves one period; a partner's period without one is not compared (R476, R477). -/
def endPairPeriod (s : State) : State :=
  { s with pair := { s.pair with leadReq := none, skip := if s.pair.role = 2 ∧ s.pair.leadReq = none then satInc 16 s.pair.skip else s.pair.skip } }

/-- The value of largest magnitude, the first of equal ones. -/
def largestOf (x : Q) (xs : List Q) : Q := xs.foldl (fun m y => if absQ m < absQ y then y else m) x

/-- The shadow comparison of R477 on the lead's frame of a period: every request of both units. -/
def shadowCompare (lead partner : Q × Q) (counters : List (Nat × Nat)) (s : State) : State :=
  if counters = usedCounters s then
    let d := largestOf (lead.1 - (shareOf s 1).1) [lead.2 - (shareOf s 1).2, partner.1 - (shareOf s 2).1, partner.2 - (shareOf s 2).2]
    let bad := decide (s.pf 0x98 0 24 < absQ d)
    let run := if bad then s.pair.shadowRun + 1 else 0
    let s := { s with pair := { s.pair with diff := roundQ (d * 100), shadowRun := min run 3, shadowMm := if bad then satInc 8 s.pair.shadowMm else s.pair.shadowMm } }
    if 3 ≤ run then raise 0x9005 (pairInst s) 0 { s with pair := { s.pair with swapBad := s.pair.swapBad || s.pair.swapped } } else s
  else { s with pair := { s.pair with skip := satInc 16 s.pair.skip } }

/-- What an accepted control frame of the partner does (R473 to R477, R485, R490). -/
def pairFrame (c : CtlContent) (s : State) : State :=
  if pairOn s = false then s
  else
    match c with
    | .other => s
    | .heartbeat h =>
      let s := clearCode 0x9001 { s with pair := { s.pair with fabHb := true, declared := false, hb := some h } }
      -- the senior judges the swap, and its frame tells the junior (R480, R488)
      let s := if actsSenior s then s else { s with pair := { s.pair with partnerFit := h.partnerFit } }
      if h.senior = s.mer.senior then raise 0x9008 (pairInst s) 0 s else s
    | .leadRequest lead partner counters =>
      if s.pair.role = 2 then
        let s := shadowCompare lead partner counters s
        { s with pair := { s.pair with leadReq := some partner } }
      else s
    | .report available busy => { s with pair := { s.pair with partnerAvail := available, partnerBusy := busy } }
    | .charge phase iBat vBat => if s.pair.role = 2 then { s with pair := { s.pair with leadCharge := some (phase, iBat, vBat) } } else s
    | .arbReading pass =>
      if pass then s
      else
        let swapping := match s.pair.handover with
          | some h => h.swap
          | none => false
        raise 0x9007 (pairInst s) 0 { s with pair := { s.pair with arbFit := false, swapDue := false, handover := if swapping then none else s.pair.handover } }
    | .lvSetpoint vset slew => if s.pair.role = 2 then lvcWrite (slew % 4096 * 65536 + (vset % 65536 - standbyMv s)) s else s
    | .handover t counters swap =>
      if s.pair.role = 2 ∧ bothPaths s = true then
        sendPair 7 5 .handoverAck { s with pair := { s.pair with handover := some { give := false, at_ := t, acked := true, counters := counters, swap := swap } } }
      else s
    | .handoverAck =>
      match s.pair.handover with
      | some h => { s with pair := { s.pair with handover := some { h with acked := h.acked || h.give } } }
      | none => s

/-! ## Commands -/

/-- HEARTBEAT_SEND: the heartbeat frame to the partner's endpoint 5 (R473). -/
def execHeartbeatSend (s : State) : Host.Outcome State Fault Refusal :=
  if heartbeatOn s then
    .next (sendPair 7 5 (.heartbeat { role := s.pair.role, leadOk := leadOk s, mode := s.sys.mode.code, cycles := s.pair.cycles, arbFit := s.pair.arbFit, partnerFit := s.pair.partnerFit, senior := s.mer.senior, request := (shareOf s 1, shareOf s 2), counters := usedCounters s }) s)
  else .next s

/-- PHB_OUT_TOGGLE: every 250 µs while Ganymede runs and no F4 is active (R473). -/
def execPhbOutToggle (s : State) : Host.Outcome State Fault Refusal :=
  if heartbeatOn s then .next { s with pair := { s.pair with phbOut := !s.pair.phbOut } } else .next s

/-- PHB_IN_EDGE: the PHB path is valid again at its first edge (R474). -/
def execPhbInEdge (s : State) : Host.Outcome State Fault Refusal :=
  if pairOn s then .next (clearCode 0x9002 { s with pair := { s.pair with phbHb := true, declared := false } }) else .next s

/-- FABRIC_HEARTBEAT_TIMEOUT: no heartbeat frame for HB_TOUT_F, or FAB_READY 0: the path fails with 0x9001, and a pending handover
is abandoned (R474, R485). -/
def execFabricHeartbeatTimeout (sinceUs : Nat) (s : State) : Host.Outcome State Fault Refusal :=
  if pairOn s = true ∧ (s.pf 0x98 0 8 * 1000000 ≤ sinceUs ∨ s.fabReady = false) then
    .next (declare (abandon (raise 0x9001 (pairInst s) 0 { s with pair := { s.pair with fabHb := false, leadReq := none, swapBad := s.pair.swapBad || s.pair.swapped } })))
  else .next s

/-- PHB_HEARTBEAT_TIMEOUT: no PHB edge for HB_TOUT_P: the path fails with 0x9002, and a pending handover is
abandoned (R474, R485). -/
def execPhbHeartbeatTimeout (sinceUs : Nat) (s : State) : Host.Outcome State Fault Refusal :=
  if pairOn s = true ∧ s.pf 0x98 0 12 * 1000000 ≤ sinceUs then
    .next (declare (abandon (raise 0x9002 (pairInst s) 0 { s with pair := { s.pair with phbHb := false, swapBad := s.pair.swapBad || s.pair.swapped } })))
  else .next s

/-- ARB_SAMPLE: a low line that this unit does not pull: the senior pulls it and keeps or takes the lead, the junior enters
SOLO (R479, R480). While the test of R487 is due the line is only read. -/
def execArbSample (high : Bool) (s : State) : Host.Outcome State Fault Refusal :=
  if pairOn s = false then .next s
  else
    let s := { s with pair := { s.pair with arbIn := high } }
    if high = true ∨ s.pair.arbOut = true ∨ s.pair.testDue = true then .next s
    else if actsSenior s then .next (takeLead 0 { s with pair := { s.pair with arbOut := true } })
    else .next (setRole 3 s)

/-- ARB_RELEASE: the senior releases ARB once both paths have been valid for 2 s (R479); the junior ends its pull of 1 ms
(R480 step 2). -/
def execArbRelease (heldMs : Nat) (s : State) : Host.Outcome State Fault Refusal :=
  if s.pair.arbOut = true ∧ ((actsSenior s = true ∧ bothPaths s = true ∧ 2000 ≤ heldMs) ∨ (actsSenior s = false ∧ s.pair.arbWait = true ∧ 1 ≤ heldMs)) then
    .next { s with pair := { s.pair with arbOut := false } }
  else .next s

/-- ARBITRATION_SAMPLE: 2 ms after the declaration a low line means SOLO with 0x9004; a high one gives the lead to a unit with
PARTNER_FIT, in force at most 5 ms after the declaration (R480, R481). -/
def execArbitrationSample (high : Bool) (sinceUs : Nat) (s : State) : Host.Outcome State Fault Refusal :=
  if s.pair.arbWait = true ∧ 2000 ≤ sinceUs then
    let s := { s with pair := { s.pair with arbWait := false, arbOut := false, arbIn := high } }
    if high = false then .next (raise 0x9004 (pairInst s) 0 (setRole 3 s))
    else if s.pair.partnerFit then
      let f := takeFree s
      .next (takeLead (clampN (min (sinceUs / 10) 500) 500 f.1) f.2)
    else .next (setRole 3 s)
  else .next s

/-- LEAD_RELEASE: a lead without LEAD_OK, a halted Ganymede included, releases the lead (R482). -/
def execLeadRelease (s : State) : Host.Outcome State Fault Refusal :=
  if pairOn s = true ∧ s.pair.role = 1 ∧ leadOk s = false then .next (setRole 2 s) else .next s

/-- TWO_LEADS_SEEN: the partner's heartbeat shows the lead too: the junior releases, 0x900A (R484). -/
def execTwoLeadsSeen (s : State) : Host.Outcome State Fault Refusal :=
  match s.pair.hb with
  | some h =>
    if s.pair.role = 1 ∧ h.role = 1 then
      .next (raise 0x900A (pairInst s) 0 (if actsSenior s then s else setRole 2 s))
    else .next s
  | none => .next s

/-- HANDOVER_REQUEST: a lead with both paths valid names T_h, the first Io task boundary at least 3 ms ahead; a swap is the
senior's, after a passed test of this drive cycle; one that an actuator sequence has deferred for 5 s is skipped (R485, R488, R489). -/
def execHandoverRequest (at_ : Nat) (swap : Bool) (waitedMs : Nat) (s : State) : Host.Outcome State Fault Refusal :=
  if swap = true ∧ 5000 ≤ waitedMs ∧ inSession s = false then .next { s with pair := { s.pair with swapDue := false } }
  else if pairOn s = true ∧ s.pair.role = 1 ∧ bothPaths s = true ∧ s.pair.handover = none ∧ handoverDeferred s = false ∧ at_ = handoverAt s
      ∧ (swap = true → s.pair.swapDue = true ∧ actsSenior s = true ∧ s.pair.arbFit = true ∧ s.pf 0x98 0 28 ≠ 0) then
    .next (startHandover at_ swap { s with pair := { s.pair with swapDue := s.pair.swapDue && !swap } })
  else .next s

/-- HANDOVER_INSTANT: at T_h, or once what defers it has ended, the giving unit suppresses its role outputs and the taking one enables its own; the counters
continue (R485, R489). -/
def execHandoverInstant (s : State) : Host.Outcome State Fault Refusal :=
  match s.pair.handover with
  | some h =>
    if h.acked = true ∧ h.at_ ≤ s.timeNs ∧ bothPaths s = true ∧ handoverDeferred s = false then
      let s := setRole (if h.give then 2 else 1) s
      let junior := if h.give then actsSenior s else !actsSenior s
      let s := { s with pair := { s.pair with handover := none, handovers := wrapInc 8 s.pair.handovers, swapped := h.swap && junior, swapBad := false } }
      if h.give then .next s
      else
        match h.counters.find? (fun p => decide (p.1 = 0x20)) with
        | some c => .next { s with vif := { s.vif with txCnt := c.2 % 2 ^ 16 } }
        | none => .next s
    else .next s
  | none => .next s

/-- HANDOVER_ABANDON: no acknowledgement within 2 ms, or a path has failed: 0x9009 (R485). -/
def execHandoverAbandon (sinceUs : Nat) (s : State) : Host.Outcome State Fault Refusal :=
  match s.pair.handover with
  | some h =>
    if (h.acked = false ∧ 2000 ≤ sinceUs) ∨ bothPaths s = false then
      .next (abandon s)
    else .next s
  | none => .next s

/-- LEAD_RETURN: a junior that leads other than under a swap hands the lead back once the senior has been healthy for 2 s
(R486, R489). -/
def execLeadReturn (heldMs : Nat) (s : State) : Host.Outcome State Fault Refusal :=
  let ok := pairOn s && decide (s.pair.role = 1) && !actsSenior s && !s.pair.swapped && bothPaths s && (match s.pair.hb with
    | some h => h.leadOk
    | none => false)
  if ok = true ∧ 2000 ≤ heldMs ∧ s.pair.handover = none ∧ handoverDeferred s = false then
    .next (startHandover (handoverAt s) false { s with pair := { s.pair with holdoff := false } })
  else .next { s with pair := { s.pair with holdoff := ok && decide (heldMs < 2000) } }

/-- ARB_TEST: low during each pull and high between them passes; anything else clears ARB_FIT with 0x9007, on both units by what each reports.
A passed test makes the swap of a senior that leads due, and starts it unless it is deferred (R487 to R489). -/
def execArbTest (pull1 between pull2 : Bool) (healthyMs : Nat) (s : State) : Host.Outcome State Fault Refusal :=
  if pairOn s = false ∨ s.pair.testDue = false then .next s
  else
    let s := { s with pair := { s.pair with testDue := false } }
    if healthyMs < 2000 then .next s
    else if pull1 = false ∧ between = true ∧ pull2 = false then
      let s := sendPair 7 5 (.arbReading true) { s with pair := { s.pair with arbFit := true } }
      if s.pair.role = 1 ∧ actsSenior s = true ∧ s.pf 0x98 0 28 ≠ 0 then
        if bothPaths s = true ∧ s.pair.handover = none ∧ handoverDeferred s = false then .next (startHandover (handoverAt s) true s)
        else .next { s with pair := { s.pair with swapDue := true } }
      else .next s
    else .next (raise 0x9007 (pairInst s) 0 (sendPair 7 5 (.arbReading false) { s with pair := { s.pair with arbFit := false, swapDue := false } }))

/-- SWAP_END: T_SWAP ends with every check passed and the lead returns by handover, or a check fails and the senior takes it
at once (R488). The junior, which gives the lead, starts the handover. -/
def execSwapEnd (elapsedMs : Nat) (streamsOk : Bool) (s : State) : Host.Outcome State Fault Refusal :=
  if pairOn s = false ∨ s.pair.swapped = false ∨ s.pair.handover.isSome = true ∨ inSession s = true then .next s
  else
    let ok := streamsOk && !s.pair.swapBad && bothPaths s
    let done := decide (s.pf 0x98 0 28 * 1000 ≤ elapsedMs)
    if actsSenior s then
      if ok = false then
        .next (raise 0x9006 (pairInst s) 0 (setRole 1 { s with pair := { s.pair with swapped := false, partnerFit := false, failed := satInc 8 s.pair.failed } }))
      else if done then
        .next { s with pair := { s.pair with partnerFit := true, passed := satInc 8 s.pair.passed, handover := some { give := false, at_ := handoverAt s, acked := true, counters := [], swap := true } } }
      else .next s
    else if ok = true ∧ done = true ∧ s.pair.role = 1 then .next (startHandover (handoverAt s) true s)
    else .next s

/-- SOLO_EXIT: both heartbeat paths have been valid for 2 s: PARTNER again (R483). -/
def execSoloExit (heldMs : Nat) (s : State) : Host.Outcome State Fault Refusal :=
  if pairOn s = true ∧ s.pair.role = 3 ∧ bothPaths s = true ∧ 2000 ≤ heldMs then .next (clearCode 0x9004 (setRole 2 s)) else .next s

end Sys2Proof.Machine
end

