-- ==== Sys2Proof/Machine/Modes.lean ====
section
/-! DEFINITION. Mode evaluation and the DC-link window (01_architecture.md, R32 to R37; ship requests, R80). -/

namespace Sys2Proof.Machine

/-- DC_LINK_WINDOW_CHANGE: the window is left once a bound has been broken for 10 ms and is inside again once both have held
for 10 ms (R37). -/
def execDcLinkWindowChange (heldMs : Nat) (s : State) : Host.Outcome State Fault Refusal :=
  if s.hasRec 3 0 = true ∧ 10 ≤ heldMs then
    .next { s with sys := { s.sys with dcInside := decide (s.pf 3 0 0 ≤ s.vMin ∧ s.vMax ≤ s.pf 3 0 4) } }
  else .next s

/-! ## Conditions -/

/-- The DC link is below the HV-off threshold (R37). -/
def hvOff (s : State) : Bool := decide (s.vMax < s.pf 3 0 12)

/-- A cause that stays latched until it is cleared: crystal loss, Callisto's watch, a discrepancy latch (R33, R122, R28, R387). -/
def latchedCause (s : State) : Bool :=
  s.saf.xtalLatch || s.saf.watchLatch || siAll.any (fun n => s.siUsed n && (s.saf.si.get n).disc)

/-- SAFE may be left: no F4 active, no latched cause, not entered from ACCESSION (R33). -/
def safeMayLeave (s : State) : Bool := !activeClass 4 s && !latchedCause s && !s.sys.safeFromAcc

/-- SVC is released: the pin's level, which every mode evaluation reads (R76, R80). -/
def svcReleased (s : State) : Bool := !s.sup.svc.low

/-- The ship-mode conditions of R80, with the service option of R499. -/
def shipOk (s : State) : Bool :=
  decide (s.sys.mode = .ready) && s.svcEn 6 && !s.cat.recovery && hvOff s && !s.connected && !s.sup.acPresent && !s.sys.wake && svcReleased s && decide (s.sup.ship = .none)

/-! ## Requests (R33, R501, R502) -/

/-- Step 1 of R80: the request is accepted; with nothing waiting the entry goes on at once. -/
def shipBegin (s : State) : State := shipProceed { s with sup := { s.sup with ship := .writes } }

/-- A request of DRIVE from READY or CONVERT: the first condition that fails names the refusal. -/
def requestDrive (s : State) : State :=
  if s.sys.dcInside = false then noteRefuse 1 s
  else if s.siTestPending 0 then noteRefuse 2 s
  else if s.connected || s.siDemand 4 then noteRefuse 3 s
  else enterMode .drive s

/-- A request to leave DRIVE or CHARGE for READY or CONVERT. -/
def requestLeave (m : Mode) (s : State) : State :=
  if s.sys.mode = .drive ∧ s.standstill = false then noteRefuse 4 s
  else if s.sys.mode = .charge then enterMode m (sessionEnd 5 s)
  else enterMode m s

/-- The vehicle's mode request: a level that differs from the present mode. -/
def modeRequest (s : State) : State :=
  match s.veh.mode with
  | none => s
  | some r =>
    let m := s.sys.mode
    if r = m.code ∨ s.sup.ship ≠ .none then s
    else if r = 1 then (if shipOk s then shipBegin s else noteRefuse 6 s)
    else if r = 3 then
      match m with
      | .convert => enterMode .ready s
      | .drive => requestLeave .ready s
      | .charge => requestLeave .ready s
      | .safe => if safeMayLeave s && s.sys.readyReqFresh then enterMode .ready s else noteRefuse 1 s
      | _ => noteRefuse 1 s
    else if r = 4 then
      match m with
      | .ready => if s.sys.dcInside then enterMode .convert s else noteRefuse 1 s
      | .drive => requestLeave .convert s
      | .charge => requestLeave .convert s
      | _ => noteRefuse 1 s
    else if r = 5 then
      match m with
      | .ready => requestDrive s
      | .convert => requestDrive s
      | _ => noteRefuse 1 s
    else s

/-! ## Lost preconditions (R36) -/

/-- The loss of a precondition of the present mode; none where none is lost. The END_CAUSE of a session that ends for a lost park
lock is stated nowhere: a free value (log entry 27). -/
def lostPrecondition (s : State) : Option State :=
  match s.sys.mode with
  | .drive =>
    if s.sys.dcInside = false then some (stopTraction (enterMode .ready s))
    else if s.sys.waitStill || s.connected || s.siDemand 4 then
      (if s.standstill then some (enterMode .ready s) else some { s with sys := { s.sys with waitStill := true } })
    else none
  | .charge =>
    if s.si3Eng then none
    else
      let f := takeFree s
      some (enterMode .convert (sessionEnd (1 + f.1 % 8) f.2))
  | _ => none

/-- The ages of the millisecond task: REFUSE shows for 1 s (R502), and a request of READY made before the last cause cleared
does not count (R33). SVC is read (R80). -/
def ageTask (svcLow : Bool) (s : State) : State :=
  let ms := s.veh.refuseMs - 1
  { s with veh := { s.veh with refuseMs := ms, refuse := if ms = 0 then 0 else s.veh.refuse },
           sup := { s.sup with svc := { s.sup.svc with low := svcLow } },
           sys := { s.sys with readyReqFresh := s.sys.readyReqFresh && safeMayLeave s } }

/-- MODE_EVALUATION: once per 1 ms the first of a class F4 fault, a lost precondition and the vehicle's request decides; a
reset comes as its own command (R34). While Io does not run only a class F4 fault acts, through Callisto (R34, R420). In ACCESSION Io
evaluates from its start on, and only a class F4 fault acts (R33). -/
def execModeEvaluation (svcLow : Bool) (s : State) : Host.Outcome State Fault Refusal :=
  let s := ageTask svcLow s
  match s.sys.mode with
  | .off => .next s
  | .ship => .next s
  | .accession => .next (if activeClass 4 s = true ∧ ioHalted s = false then safeByF4 s else s)
  | _ =>
    if activeClass 4 s = true ∧ s.sys.mode ≠ .safe then .next (safeByF4 s)
    else if ioHalted s then .next s
    else
      match lostPrecondition s with
      | some t => .next t
      | none => .next (modeRequest s)

end Sys2Proof.Machine
end

