-- ==== Sys2Proof/Machine/Supply.lean ====
section
/-! DEFINITION. Feeds, start-up, reset and ship mode (03_supply_startup.md). -/

namespace Sys2Proof.Machine

/-! ## Reset (R73 to R75, R49, R65) -/

/-- The supply faults whose condition a reset does not end: a feed that is lost or in overvoltage, both feeds lost (R61, R62, R534). -/
def keptFaults (s : State) : List ActiveFault :=
  s.faults.filter (fun f => (decide (f.code = 0x0010) && s.sup.feedA.lost) || (decide (f.code = 0x0011) && s.sup.feedB.lost)
    || (decide (f.code = 0x0012) && s.sup.feedA.ov) || (decide (f.code = 0x0013) && s.sup.feedB.ov) || (decide (f.code = 0x0014) && s.sup.holdup))

/-- The flash once the operation that runs has ended: the last page of a descriptor write that has started lands (R88). -/
def endedFlash (s : State) : Flash :=
  match s.ops.running, s.cat.descDue with
  | some (.bootProgram k true), some (j, d) => if k = j then (setCopy k (some d) s).flash else s.flash
  | _, _ => s.flash

/-- What a reset, a wake or a power-up leaves: the state at the start of ACCESSION. Flash, OTP, the KA register, the feeds,
LVD and the levels of the pins, and a flash operation that runs are kept; waiting operations are lost (R73, R49). -/
def restart (c : StartCause) (s : State) : State :=
  let z := State.reset
  { z with
    flash := endedFlash s, otp := s.otp, ka := s.ka, out := s.out, freeIx := s.freeIx, pending := s.pending,
    ops := { waiting := [], running := s.ops.running, orphan := s.ops.running.isSome },
    sys := { z.sys with prev := s.sys.mode, wake := s.sys.wake },
    faults := keptFaults s,
    sup := { z.sup with feedA := s.sup.feedA, feedB := s.sup.feedB, hold := s.sup.hold, holdMv := s.sup.holdMv, holdup := s.sup.holdup, biasA := s.sup.biasA, biasB := s.sup.biasB, railsOut := s.sup.railsOut, nRst := s.sup.nRst, acPresent := s.sup.acPresent, lvd := s.sup.lvd, svc := { z.sup.svc with low := s.sup.svc.low }, cause := c },
    cat := { z.cat with desc := newestDesc (endedFlash s) } }

/-- The causes of two resets that coincide (R92). -/
def StartCause.both (c d : StartCause) : StartCause :=
  { wkFeed := c.wkFeed || d.wkFeed, wkAc := c.wkAc || d.wkAc, wkCp := c.wkCp || d.wkCp, wkWake := c.wkWake || d.wkWake, wkSvc := c.wkSvc || d.wkSvc, rail := c.rail || d.rail, fabric := c.fabric || d.fabric, uds := c.uds || d.uds, svcRst := c.svcRst || d.svcRst, nrst := c.nrst || d.nrst, power := c.power || d.power }

/-- A reset named in R33, in a mode that it acts in (R75). One that comes while another still holds the N9 in reset coincides with
it, and both causes show (R64, R74, R92). -/
def resetN9 (c : StartCause) (s : State) : State :=
  if s.sys.mode = .off ∨ s.sys.mode = .ship then s
  else restart (if s.sup.nRst = false ∨ s.sup.railsOut ≠ [] then c.both s.sup.cause else c) s

/-- Everything but the KA domain is off (R65, R80 step 7): volatile state is lost. An OTP program that runs has ended (R88). LVD is
high in OFF, also where a ship entry had drawn it low: no rule says it, and a feed can return only through a closed switch (log
entry 41). -/
def unpowered (m : Mode) (s : State) : State :=
  let otp := match s.ops.running with
    | some (.otpWord w b) => s.otp.put w (s.otp.get w ||| b)
    | _ => s.otp
  let t := restart StartCause.none { s with otp := otp }
  let off (f : FeedSt) : FeedSt := { f with present := false, lost := false, ov := false, mosfet := false }
  { t with ops := { waiting := [], running := none, orphan := false }, sys := { t.sys with mode := m, prev := s.sys.mode, readyPin := false, faultPin := false },
           faults := [],
           sup := { t.sup with lvd := true, holdup := false, biasA := false, biasB := false, railsOut := [], feedA := off s.sup.feedA, feedB := off s.sup.feedB, hold := 0, holdMv := 0 } }

/-! ## Feeds (R59 to R62, R89 to R91) -/

/-- The state of a feed. -/
def feedOf (s : State) (f : Feed) : FeedSt := match f with
  | .a => s.sup.feedA
  | .b => s.sup.feedB

/-- A feed's state replaced. -/
def setFeed (f : Feed) (x : FeedSt) (s : State) : State := match f with
  | .a => { s with sup := { s.sup with feedA := x } }
  | .b => { s with sup := { s.sup with feedB := x } }

/-- The loss and the overvoltage fault of a feed (R93). -/
def lossCode (f : Feed) : Nat := match f with
  | .a => 0x0010
  | .b => 0x0011

def ovCode (f : Feed) : Nat := match f with
  | .a => 0x0012
  | .b => 0x0013

/-- The comparators run: outside OFF; in SHIP the wake logic judges the feeds. -/
def feedsJudged (s : State) : Bool := decide (s.sys.mode ≠ .off ∧ s.sys.mode ≠ .ship)

/-- The loss of a feed is judged where the comparators run, but for the ship entry's step 6: once LVD is low both feeds fall by the entry
itself, and the N9 is in READY until they are below 3.0 V (R80, R81, log entry 53). -/
def lossJudged (s : State) : Bool := feedsJudged s && decide (s.sup.ship ≠ .falling)

/-- The OR-ing controllers drive their MOSFETs: not once the ship entry has put IDA and IDB low (R80 step 4). -/
def State.orDriven (s : State) : Bool := decide (s.sup.ship ≠ .falling)

/-- FEED_PRESENT: above 5.8 V a feed is present; one that was lost after 1 ms, and its loss fault clears (R60, R61). Its ideal diode
conducts, also that of a present feed which had blocked below HOLD (R59, R62). -/
def execFeedPresent (f : Feed) (volts : Q) (heldUs : Nat) (s : State) : Host.Outcome State Fault Refusal :=
  let x := feedOf s f
  if feedsJudged s = true ∧ 29 / 5 < volts ∧ s.sup.holdup = false ∧ (x.lost = false ∨ 1000 ≤ heldUs) then
    .next (clearF (lossCode f) noInst (setFeed f { x with present := true, lost := false, mosfet := s.orDriven && mayConduct x (feedOf s f.other), volts := volts } s))
  else .next s

/-- The gate of an output's driver is off and so is everything that runs on a permit: what R89 turns off. -/
def allOff (s : State) : State :=
  let s := [0, 1, 2, 3, 4, 5, 6, 7, 8, 9].foldl (fun s k => stopGroup k s) s
  let s := stopLv false (stopCharger s)
  abortAct .shift (abortAct .park s)

/-- Both feeds have qualified as lost: 0x0014, SAFE, and within 50 µs the bias drive, both permits, the outputs and the interfaces
are off; the hold-up state begins (R89, R90). -/
def bothLost (s : State) : State :=
  let s := raise 0x0014 noInst 0 s
  let s := safeByF4 s
  let s := { s with saf := { s.saf with held := true, lvC := false, lvP := false } }
  let s := ascLost (bankOff 0 29 (allOff s))
  { s with sup := { s.sup with biasA := false, biasB := false, ifaces := false, holdup := true } }

/-- A feed is lost (R61); an overvoltage feed whose MOSFET is off comes back on when the other is lost (R62). -/
def loseFeed (f : Feed) (volts : Q) (s : State) : State :=
  let x := feedOf s f
  let s := raise (lossCode f) noInst 0 (setFeed f { x with present := false, lost := true, mosfet := false, volts := volts } s)
  let y := feedOf s f.other
  if y.present = true ∧ y.ov = true then setFeed f.other { y with mosfet := true } s else s

/-- FEED_LOST: below 5.5 V for 20 µs the feed is lost; no mode or output changes (R61). The loss of the second feed is R89's. -/
def execFeedLost (f : Feed) (volts : Q) (heldUs : Nat) (s : State) : Host.Outcome State Fault Refusal :=
  if lossJudged s = true ∧ volts < 11 / 2 ∧ 20 ≤ heldUs ∧ (feedOf s f).present = true then
    let s := loseFeed f volts s
    .next (if (feedOf s f.other).present then s else bothLost s)
  else .next s

/-- BOTH_FEEDS_LOST: the second feed qualifies as lost (R89). -/
def execBothFeedsLost (f : Feed) (volts : Q) (heldUs : Nat) (s : State) : Host.Outcome State Fault Refusal :=
  if lossJudged s = true ∧ volts < 11 / 2 ∧ 20 ≤ heldUs ∧ (feedOf s f.other).present = false ∧ s.sup.holdup = false then
    .next (bothLost (loseFeed f volts s))
  else .next s

/-- FEED_OVERVOLTAGE: above 38.0 V for 20 µs; the MOSFET turns off while the other feed is present and not in overvoltage (R62). -/
def execFeedOvervoltage (f : Feed) (volts : Q) (heldUs : Nat) (s : State) : Host.Outcome State Fault Refusal :=
  if feedsJudged s = true ∧ 38 < volts ∧ 20 ≤ heldUs then
    let x := feedOf s f
    let y := feedOf s f.other
    let off := y.present && !y.ov
    .next (raise (ovCode f) noInst 0 (setFeed f { x with ov := true, mosfet := x.mosfet && !off, volts := volts } s))
  else .next s

/-- FEED_OVERVOLTAGE_CLEARED: below 36.0 V for 1 ms (R60). -/
def execFeedOvervoltageCleared (f : Feed) (volts : Q) (heldUs : Nat) (s : State) : Host.Outcome State Fault Refusal :=
  let x := feedOf s f
  if feedsJudged s = true ∧ volts < 36 ∧ 1000 ≤ heldUs ∧ x.ov = true then
    .next (clearF (ovCode f) noInst (setFeed f { x with ov := false, mosfet := s.orDriven && x.present, volts := volts } s))
  else .next s

/-- IDEAL_DIODE_TURN_OFF: the controller compares the feed with HOLD: more than 10 mV below it the MOSFET is off, else it
regulates, so that a present feed conducts again (R59, R62). -/
def execIdealDiodeTurnOff (f : Feed) (feedVolts holdVolts : Q) (s : State) : Host.Outcome State Fault Refusal :=
  if feedsJudged s = true then
    let x := feedOf s f
    let on := s.orDriven && decide (holdVolts - 1 / 100 ≤ feedVolts) && x.present && mayConduct x (feedOf s f.other)
    .next (measureHold holdVolts (setFeed f { x with mosfet := on, volts := feedVolts } s))
  else .next s

/-- FEED_RETURN_IN_HOLDUP: a feed above 5.8 V for 1 ms with HOLD at least V_min: 0x0014 clears, SAFE stays, the bias drive and
the LV permit pair return, the handshakes repeat (R91). A permit that another cause still holds off does not return: no Catalogue is
loaded, in ACCESSION or after a failed one, or the start-up check failed (R109, R383, R413). What KA has counted as unwritten is taken back, since those operations wait
in RAM again: the model's choice, R90 and R91 do not say it (log entry 42). In an ACCESSION that a reset has begun in the hold-up
state the start goes on by R69. -/
def execFeedReturnInHoldup (f : Feed) (volts holdVolts : Q) (heldUs : Nat) (s : State) : Host.Outcome State Fault Refusal :=
  if s.sup.holdup = true ∧ 29 / 5 < volts ∧ 1000 ≤ heldUs ∧ 5 ≤ holdVolts then
    let x := feedOf s f
    let s := setFeed f { x with present := true, lost := false, mosfet := mayConduct x (feedOf s f.other), volts := volts } s
    let s := clearF 0x0014 noInst (clearF (lossCode f) noInst s)
    let s := measureHold holdVolts s
    let s := { s with sup := { s.sup with holdup := false } }
    let s := if s.sys.mode = .accession ∧ s.sup.step < 6 then s else startBias s
    let s := if s.sys.mode = .accession then s else { s with ka := { s.ka with lostWrites := 0 } }
    let s := if s.cat.locked = true ∨ s.cat.recovery = true then { s with sup := { s.sup with ifaces := true } } else s
    if s.cat.locked = false then .next s
    else
      .next { s with
        saf := { s.saf with held := false, lvC := !s.lvc.f3Stop, lvP := !s.lvc.f3Stop },
        gd := { s.gd with ch := s.gd.ch.map (fun x => { x with hsOk := false }), hsFailed := [] } }
  else .next s

/-- HOLD_BELOW_VMIN: every rail but KA stops: OFF (R65, R91). Operations still unwritten are what KA keeps (R90). -/
def execHoldBelowVmin (holdVolts : Q) (s : State) : Host.Outcome State Fault Refusal :=
  if s.sys.mode ≠ .off ∧ s.sys.mode ≠ .ship ∧ holdVolts < 5 then
    let s := { s with ka := { s.ka with lostWrites := max s.ka.lostWrites (min (pendingOps s) 255) } }
    .next (unpowered .off s)
  else .next s

/-! ## Rails and bias (R64, R68) -/

/-- A rail lies outside its monitor window (R64). -/
def railOut (r : Rail) (v : Q) : Bool :=
  match r with
  | .saf => decide (v < 165 / 100 ∨ 195 / 100 < v)
  | .vcore => decide (v < 72 / 100 ∨ 88 / 100 < v)
  | .vio => decide (v < 3 ∨ 36 / 10 < v)
  | .va => decide (v < 475 / 100 ∨ 525 / 100 < v)

/-- RAIL_MONITOR_RESET: a rail outside its window removes both permits and holds the N9 in reset (R64). -/
def execRailMonitorReset (r : Rail) (volts : Q) (s : State) : Host.Outcome State Fault Refusal :=
  if feedsJudged s = true ∧ railOut r volts = true then
    let t := resetN9 { StartCause.none with rail := true } s
    .next { t with sup := { t.sup with railsOut := if t.sup.railsOut.contains r then t.sup.railsOut else r :: t.sup.railsOut } }
  else .next s

/-- RAIL_MONITOR_RELEASE: a rail is back inside; with the last one the reset ends and the sequence starts again (R64). -/
def execRailMonitorRelease (r : Rail) (volts : Q) (s : State) : Host.Outcome State Fault Refusal :=
  if railOut r volts = false ∧ s.sup.railsOut.contains r = true then
    let rest := s.sup.railsOut.filter (fun x => decide (x ≠ r))
    .next { s with sup := { s.sup with railsOut := rest, step := if rest = [] ∧ s.sup.nRst = true then 3 else s.sup.step } }
  else .next s

/-- BIAS_CURRENT_LIMIT: above 0.20 V the switch's present on-time ends at once (R68). -/
def execBiasCurrentLimit (bank : Bank) (sw : Fin 2) (shuntVolts : Q) (s : State) : Host.Outcome State Fault Refusal :=
  let on := match bank with
    | .a => s.sup.biasA
    | .b => s.sup.biasB
  if on = true ∧ 1 / 5 < shuntVolts then
    .next { s with sup := { s.sup with biasCut := (bank, sw) :: s.sup.biasCut.filter (fun p => decide (p.1 ≠ bank)) } }
  else .next s

/-- BIAS_BANK_STOP: limiting for 1 ms stops the bank until the next ACCESSION: bank A is 0x0015 (F4) and traction freewheels; bank
B is 0x0016 (R68). -/
def execBiasBankStop (bank : Bank) (limitUs : Nat) (s : State) : Host.Outcome State Fault Refusal :=
  if limitUs < 1000 then .next s
  else
    match bank with
    | .a =>
      if s.sup.biasA = false then .next s
      else
        let s := { s with sup := { s.sup with biasA := false, biasStopA := true } }
        .next (ascLost (bankOff 0 13 (raise 0x0015 noInst 0 s)))
    | .b =>
      if s.sup.biasB = false then .next s
      else
        let s := { s with sup := { s.sup with biasB := false, biasStopB := true } }
        .next (bankOff 13 16 (stopDcx (raise 0x0016 noInst 0 s)))

/-! ## Power-up (R69, R70, R79, R122) -/

/-- POWER_UP: from OFF a feed above 5.8 V with nRST high begins ACCESSION (R69 step 1). -/
def execPowerUp (f : Feed) (volts : Q) (nRst : Bool) (s : State) : Host.Outcome State Fault Refusal :=
  if s.sys.mode = .off ∧ 29 / 5 < volts ∧ nRst = true then
    let t := restart { StartCause.none with power := true } s
    .next (setFeed f { feedOf t f with present := true, mosfet := true, volts := volts } { t with sup := { t.sup with nRst := true, lvd := s.sup.lvd } })
  else .next s

/-- KA_FIRST_APPLICATION: KA comes back into its range with no retained state: LVD is high, and the register is one that fails its test:
no lost writes, no record of a failed check, the unlock failures at 3 with their delay, so that removing KA never shortens it (R79,
R557). -/
def execKaFirstApplication (kaVolts : Q) (s : State) : Host.Outcome State Fault Refusal :=
  if 6 ≤ kaVolts ∧ kaVolts ≤ 36 then
    .next { s with ka := { valid := true, lostWrites := 0, unlockFails := 3, unlockDelay := true, startFail := none }, sup := { s.sup with lvd := true } }
  else .next s

/-- CRYSTAL_ACCEPTED: every 2 µs window of a continuous 1 ms holds 70 to 90 edges: the coarse-tick counter starts at 0 and SENIOR
is read: tied to GND is senior (R122, R51, R69 step 4). -/
def execCrystalAccepted (minEdges maxEdges windowUs : Nat) (seniorToGnd : Bool) (s : State) : Host.Outcome State Fault Refusal :=
  if s.sys.mode = .accession ∧ s.sup.step < 4 ∧ s.sup.nRst = true ∧ s.sup.railsOut = [] ∧ 70 ≤ minEdges ∧ maxEdges ≤ 90 ∧ 1000 ≤ windowUs then
    .next { s with mer := { s.mer with xtalAcc := true, ct := 0, ns := 0, senior := seniorToGnd }, sup := { s.sup with step := 4 } }
  else .next s

/-- A declared secondary has completed its handshake (R70). -/
def handshakeOk (s : State) (c : Chan) (h : Handshake) : Bool :=
  let f := railFlags s c h.vcc2 h.vee2
  decide (h.chan = c) && decide (3 ≤ h.frames) && decide (h.index = c.val) && !f.1 && !f.2.1 && !f.2.2.1 && !f.2.2.2 && h.outputOff

/-- HANDSHAKE_JUDGEMENT: every declared secondary is judged; a failure raises 0x0017 for its function. With step 8 complete the N9
then enters READY (R69 step 9, R70), or SAFE with a class F4 fault active (R33); after a feed's return in hold-up the mode stays SAFE (R91). -/
def execHandshakeJudgement (reports : List Handshake) (s : State) : Host.Outcome State Fault Refusal :=
  if s.cat.locked = false ∨ (s.sys.mode = .accession ∧ s.sup.step < 8) then .next s
  else
    let chans := (chanRange 0 29).filter (fun c => s.chPresent c)
    let ok (c : Chan) : Bool := reports.any (handshakeOk s c)
    let s := chans.foldl (fun s c => s.updCh c (fun x => { x with hsOk := ok c })) s
    let bad := chans.filter (fun c => !ok c)
    let s := { s with gd := { s.gd with hsFailed := bad } }
    let s := bad.foldl (fun s c => raise 0x0017 c.val 0 s) s
    if s.sys.mode = .accession then
      let s := { s with sup := { s.sup with step := 9 } }
      .next (if activeClass 4 s then safeByF4 s else enterMode .ready s)
    else .next s

/-! ## nRST, SVC and WAKE (R72 to R78) -/

/-- NRST_RESET: a low of at least 5 µs resets, one shorter than 1 µs is ignored, between them either happens (R72); in SHIP and
OFF nothing does (R75). -/
def execNrstReset (lowNs : Nat) (s : State) : Host.Outcome State Fault Refusal :=
  if s.sys.mode = .ship ∨ s.sys.mode = .off ∨ lowNs < 1000 then .next s
  else
    let go := decide (5000 ≤ lowNs) || Config.nrstShortResets s.freeIx
    let s := if lowNs < 5000 then { s with freeIx := s.freeIx + 1 } else s
    if go then
      let t := resetN9 { StartCause.none with nrst := true } s
      .next { t with sup := { t.sup with nRst := false } }
    else .next s

/-- NRST_RELEASE: nRST rises and the sequence restarts at step 2 of R69 (R74). -/
def execNrstRelease (s : State) : Host.Outcome State Fault Refusal :=
  if s.sup.nRst = true then .next s
  else .next { s with sup := { s.sup with nRst := true, step := if s.sys.mode = .accession ∧ s.sup.railsOut = [] then 3 else s.sup.step } }

/-- SVC is judged: outside SHIP and OFF (R76). -/
def svcJudged (s : State) : Bool := decide (s.sys.mode ≠ .ship ∧ s.sys.mode ≠ .off)

/-- SVC_ACKNOWLEDGE: the release of a press, which ends it: one of 50 ms to less than 8 s that counts gives one acknowledge event (R76,
R77). -/
def execSvcAcknowledge (pressMs : Nat) (s : State) : Host.Outcome State Fault Refusal :=
  let b := s.sup.svc
  if svcJudged s then
    .next { s with sys := { s.sys with ackCnt := if b.armed = true ∧ 50 ≤ pressMs ∧ pressMs < 8000 then wrapInc 8 s.sys.ackCnt else s.sys.ackCnt },
                   sup := { s.sup with svc := { b with asked := false, refused := false, low := false } } }
  else .next s

/-- SVC_RESET_REQUEST: the instant at which a press reaches 8 s, judged once per press: a reset is granted with the DC link and the speed
low, or with no Catalogue loaded; otherwise refused with 0x001D (R76). -/
def execSvcResetRequest (pressMs : Nat) (s : State) : Host.Outcome State Fault Refusal :=
  let b := s.sup.svc
  if svcJudged s = true ∧ b.armed = true ∧ b.asked = false ∧ 8000 ≤ pressMs then
    let s := { s with sup := { s.sup with svc := { b with asked := true, low := true } } }
    if s.cat.locked = false ∨ (hvOff s = true ∧ s.standstill = true) then .next (resetN9 { StartCause.none with svcRst := true } s)
    else .next (raise 0x001D noInst 0 { s with sup := { s.sup with svc := { s.sup.svc with refused := true } } })
  else .next s

/-- SVC_STUCK: low for 30 s: stuck with 0x0018, ignored until a release of 1 s (R76, R77). -/
def execSvcStuck (lowMs : Nat) (s : State) : Host.Outcome State Fault Refusal :=
  if svcJudged s = true ∧ 30000 ≤ lowMs then
    .next (raise 0x0018 noInst 0 { s with sup := { s.sup with svc := { s.sup.svc with stuck := true, armed := false, low := true } } })
  else .next s

/-- SVC_RELEASED_1S: released for 1 s: a press counts again and a stuck declaration ends (R77). -/
def execSvcReleased1s (releasedMs : Nat) (s : State) : Host.Outcome State Fault Refusal :=
  if svcJudged s = true ∧ 1000 ≤ releasedMs then
    .next (clearF 0x0018 noInst { s with sup := { s.sup with svc := { armed := true, stuck := false, refused := false, asked := false, low := false } } })
  else .next s

/-- WAKE_LEVEL_CHANGE: the KA domain holds the pin's level; outside SHIP it is reported and changes no mode (R78). -/
def execWakeLevelChange (level : Bool) (s : State) : Host.Outcome State Fault Refusal := .next { s with sys := { s.sys with wake := level } }

/-- AC_PRESENT_CHANGE: any AC input above 85 V RMS sets the bit, all at or below clears it (R82). -/
def execAcPresentChange (rms1 rms2 rms3 : Q) (s : State) : Host.Outcome State Fault Refusal :=
  .next { s with sup := { s.sup with acPresent := decide (85 < rms1 ∨ 85 < rms2 ∨ 85 < rms3) } }

/-! ## Ship mode (R80 to R83) -/

/-- SHIP_WRITES_TIMEOUT: the waiting writes take more than 1 s: the entry is abandoned in READY (R80); so the model takes an entry
record that cannot be written, for which the rule gives a bound and no consequence (log entry 30). -/
def execShipWritesTimeout (elapsedMs : Nat) (s : State) : Host.Outcome State Fault Refusal :=
  if (s.sup.ship = .writes ∨ s.sup.ship = .record) ∧ 1000 < elapsedMs then .next { s with sup := { s.sup with ship := .none } } else .next s

/-- SHIP_FEEDS_DOWN: both feeds below 3.0 V within 500 ms of LVD low: mode SHIP (R80 steps 6 and 7). -/
def execShipFeedsDown (voltsA voltsB : Q) (elapsedMs : Nat) (s : State) : Host.Outcome State Fault Refusal :=
  if s.sup.ship = .falling ∧ voltsA < 3 ∧ voltsB < 3 ∧ elapsedMs ≤ 500 then
    let t := unpowered .ship s
    .next { t with sup := { t.sup with lvd := false, ship := .ship } }
  else .next s

/-- SHIP_SWITCH_TIMEOUT: the feeds have not fallen: LVD high, the bias drive restarts, READY stays, 0x0019 (R81). -/
def execShipSwitchTimeout (elapsedMs : Nat) (s : State) : Host.Outcome State Fault Refusal :=
  if s.sup.ship = .falling ∧ 500 ≤ elapsedMs then
    .next (raise 0x0019 noInst 0 (shipAbandon s))
  else .next s

/-- FEED_RISE_WAKE_ARMED: both feeds below 3.0 V for 100 ms in SHIP (R80 step 8). -/
def execFeedRiseWakeArmed (voltsA voltsB : Q) (heldMs : Nat) (s : State) : Host.Outcome State Fault Refusal :=
  if s.sup.ship = .ship ∧ voltsA < 3 ∧ voltsB < 3 ∧ 100 ≤ heldMs then .next { s with sup := { s.sup with riseArmed := true } } else .next s

/-- The sources of R82 that qualify, recorded with those that have. R82 records two that qualify together; that one which qualifies while an
earlier wake still waits for a feed is recorded too is the model's choice (log entry 55). -/
def wakeFlags (s : State) (o : WakeObs) : StartCause :=
  let w := s.sup.wakes
  { w with
    wkSvc := w.wkSvc || decide (100 ≤ o.svcLowMs), wkWake := w.wkWake || decide (10 ≤ o.wakeHighMs),
    wkCp := w.wkCp || (decide (3 < o.pilotVolts) && decide (1 ≤ o.pilotMs)), wkAc := w.wkAc || o.acPresent,
    wkFeed := w.wkFeed || (s.sup.riseArmed && decide (29 / 5 < o.feedVolts) && decide (1 ≤ o.feedMs)) }

/-- WAKE_SOURCE_QUALIFIED: a source of R82 qualifies in SHIP: it is recorded and LVD goes high (R83). -/
def execWakeSourceQualified (obs : WakeObs) (s : State) : Host.Outcome State Fault Refusal :=
  let w := wakeFlags s obs
  if (s.sup.ship = .ship ∨ s.sup.ship = .waking) ∧ s.sys.mode = .ship ∧ w ≠ s.sup.wakes then
    .next { s with
      sup := { s.sup with wakes := w, lvd := true, ship := .waking, acPresent := s.sup.acPresent || obs.acPresent, svc := { s.sup.svc with low := decide (0 < obs.svcLowMs) } },
      sys := { s.sys with wake := s.sys.wake || decide (0 < obs.wakeHighMs) } }
  else .next s

/-- SHIP_EXIT: after a wake a feed above 5.8 V with nRST high leads to ACCESSION (R83). -/
def execShipExit (f : Feed) (volts : Q) (nRst : Bool) (s : State) : Host.Outcome State Fault Refusal :=
  if s.sup.ship = .waking ∧ 29 / 5 < volts ∧ nRst = true then
    let t := restart { s.sup.wakes with power := true } s
    .next (setFeed f { feedOf t f with present := true, mosfet := true, volts := volts } { t with sup := { t.sup with nRst := true } })
  else .next s

/-- SHIP_WAKE_TIMEOUT: no feed within 500 ms of LVD high: LVD low again, SHIP stays, the sources are evaluated afresh (R83). -/
def execShipWakeTimeout (elapsedMs : Nat) (s : State) : Host.Outcome State Fault Refusal :=
  if s.sup.ship = .waking ∧ 500 ≤ elapsedMs then .next { s with sup := { s.sup with ship := .ship, lvd := false, wakes := StartCause.none } } else .next s

end Sys2Proof.Machine
end

