-- ==== Sys2Proof/Machine/Accession.lean ====
section
/-! DEFINITION. Accession (04_catalogue_accession.md, R94 to R112): block reads, the checks of a slot, the slot order, the load, the
log's rebuild, the outcomes, and the checks on the loaded stores. -/

namespace Sys2Proof.Machine

/-! ## Block reads (R95, R107) -/

/-- The re-reads that a block needs before it passes. -/
def failsOf (fs : List ReadFail) (sl : Slot) (catalogue : Bool) (block : Nat) : Nat :=
  match fs.find? (fun f => decide (f.slot = sl) && decide (f.catalogue = catalogue) && decide (f.block = block)) with
  | some f => f.fails
  | none => 0

/-- The blocks `k`, `k + 1`, … of a region, `n` of them: the first that fails after three re-reads, and the blocks that passed on
a re-read. -/
def scanBlocks (bs : List (Nat × FlashBlk)) (fails : Nat → Nat) : Nat → Nat → Nat → Option Nat × Nat
  | 0, _, rr => (none, rr)
  | n + 1, k, rr =>
    if blkGood bs k = false ∨ 3 < fails k then (some k, rr)
    else scanBlocks bs fails n (k + 1) (if fails k = 0 then rr else rr + 1)

/-- The data bytes of the first `n` blocks of a region. -/
def imgBytes (bs : List (Nat × FlashBlk)) : Nat → Nat → List Byte
  | 0, _ => []
  | n + 1, k => padTo 4092 0xFF ((blkAt bs k).map (·.data) |>.getD []) ++ imgBytes bs n (k + 1)

/-- IMAGE_LEN keeps its rule (R98). -/
def lenOk (l : Nat) : Bool := decide (l % 4 = 0) && decide (72 ≤ l) && decide (l ≤ 2067352)

/-- The blocks that a Catalogue image of IMAGE_LEN bytes occupies with its signature block; with a length that breaks its rule
only the block of the header is read (log entry 20). -/
def catBlocks (l : Nat) : Nat := if lenOk l then min 514 ((l + 29800 + 4091) / 4092) else 1

/-! ## The header and the signature block (R98, R99) -/

/-- The header is checked in the order of its offsets; the cause of the first rule broken. -/
def headerCause (sl : Slot) (fw : FwFacts) (counter : Nat) (h : List Byte) : Option Nat :=
  if h.take 4 ≠ [0x4E, 0x52, 0x54, 0x43] then some 0x12
  else if fw.formats.contains (uAt h 4 2) = false then some 0x17
  else if uAt h 6 2 ≠ 9 then some 0x12
  else if lenOk (uAt h 8 4) = false then some 0x12
  else if 2 < uAt h 0x0C 1 then some 0x12
  else if uAt h 0x0C 1 ≠ 0 ∧ uAt h 0x0C 1 ≠ sl.num + 1 then some 0x18
  else if 3 < uAt h 0x0D 1 then some 0x12
  else if 64 < uAt h 0x0E 1 then some 0x12
  else if uAt h 0x0E 1 < counter then some 0x16
  else if uAt h 0x0F 1 ≠ 0 then some 0x12
  else if uAt h 0x10 4 < 1 ∨ 16384 < uAt h 0x10 4 then some 0x12
  else if fw.version < uAt h 0x1C 4 then some 0x17
  else if (bytesAt h 0x20 32).all (fun b => decide (b = 0)) = false then some 0x12
  else none

/-- The signature block begins at IMAGE_LEN with its four bytes and its length. -/
def sigBlockOk (img : List Byte) (l : Nat) : Bool := decide (bytesAt img l 8 = [0x4E, 0x52, 0x54, 0x53, 0x60, 0x74, 0x00, 0x00])

/-! ## The key (R510, R515) -/

/-- The key hash of a public key as four OTP words (log entry 21). -/
def keyHash (pub : List Byte) : List Nat :=
  let h := Config.shake256 pub 32
  [0, 1, 2, 3].map (fun j => uAt h (8 * j) 8)

/-- The OEM slot takes the key: not revoked, and in Workshop empty, or of the same hash. -/
def keyOk (s : State) (k : Nat) (pub : List Byte) : Bool :=
  !s.revoked k && ((decide (s.life = 0) && s.oemEmpty k) || decide (keyHash pub = s.oemHash k))

/-! ## One slot (R106) -/

/-- A Catalogue that passes steps 5 to 7. -/
structure Loaded where
  recs : List Rec
  oemKey : Nat
  arb : Nat
  count : Nat
  buildLo : Nat
  buildHi : Nat
  imageLen : Nat
  deriving DecidableEq, Repr

/-- The outcome of one attempt. -/
inductive Tried where
  /-- Steps 3 or 4 fail: the cause, and the block of cause 0x11. -/
  | noFw (cause : Nat) (block : Option Nat)
  /-- The firmware passes and steps 5 to 7 fail: the cause, the block, the record. -/
  | noCat (cause : Nat) (block : Option Nat) (record : Option Nat)
  /-- The firmware passes and the lifecycle reads no Catalogue (R108). -/
  | fwOnly
  | ok (c : Loaded)
  deriving DecidableEq, Repr

/-- Steps 6 and 7 on an image whose blocks passed. -/
def checkImage (s : State) (sl : Slot) (fw : FwFacts) (sigOk : Bool) (img : List Byte) : Tried :=
  let h := img.take 64
  let l := uAt h 8 4
  match headerCause sl fw s.arbCount h with
  | some c => .noCat c none none
  | none =>
    if sigBlockOk img l = false then .noCat 0x12 none none
    else
      match walkImage img l with
      | .bad k => .noCat 0x19 none k
      | .recs rs =>
        let key := uAt h 0x0D 1
        if anyRec 0xC0 0 rs = false then .noCat 0x1A none none
        else if keyOk s key ((findRec 0xC0 0 rs).take 64) = false then .noCat 0x15 none none
        else if sigOk = false then .noCat 0x14 none none
        else
          match checkRecords { recs := rs, oemKey := key, ident := s.ident } (uAt h 0x10 4) with
          | some c => .noCat c.1 none c.2
          | none => .ok { recs := rs, oemKey := key, arb := uAt h 0x0E 1, count := uAt h 0x10 4, buildLo := uAt h 0x14 4, buildHi := uAt h 0x18 4, imageLen := l }

/-- Steps 5 to 7: the Catalogue's blocks, the image, and the blocks that passed on a re-read. -/
def tryCat (s : State) (sl : Slot) (fw : FwFacts) (sigOk : Bool) (fs : List ReadFail) : Tried × Nat :=
  let bs := s.flash.region sl 2
  let fails := failsOf fs sl true
  let first := scanBlocks bs fails 1 0 0
  match first.1 with
  | some k => (.noCat 0x11 (some k) none, first.2)
  | none =>
    let l := uAt ((blkAt bs 0).map (·.data) |>.getD []) 8 4
    let all := scanBlocks bs fails (catBlocks l) 0 0
    match all.1 with
    | some k => (.noCat 0x11 (some k) none, all.2)
    | none => (checkImage s sl fw sigOk (imgBytes bs (if lenOk l then min 514 ((l + 8 + 4091) / 4092) else 1) 0), all.2)

/-- Steps 3 to 7 of R106 for one slot, with the blocks that passed on a re-read. -/
def trySlot (s : State) (sl : Slot) (fw : FwFacts) (sigOk : Bool) (fs : List ReadFail) : Tried × Nat :=
  let r := scanBlocks (s.flash.region sl 1) (failsOf fs sl false) (min 1028 (max 1 fw.blocks)) 0 0
  match r.1 with
  | some k => (.noFw 0x11 (some k), r.2)
  | none =>
    if fw.sigOk = false then (.noFw 0x13 none, r.2)
    else if fw.arb < s.arbCount then (.noFw 0x16 none, r.2)
    else if 3 ≤ s.life then (.fwOnly, r.2)
    else
      let c := tryCat s sl fw sigOk fs
      (c.1, r.2 + c.2)

/-! ## The slot order (R105) -/

/-- A slot may be tried first or at all. -/
def isTrial (d : BootDesc) (x : Slot) : Bool := decide (d.st x = 3)

def isCandidate (d : BootDesc) (x : Slot) : Bool := decide (d.st x = 3 ∨ d.st x = 4)

/-- The slots to try, in order, from the newer valid copy; A then B where neither is valid. -/
def slotOrder : Option BootDesc → List Slot
  | none => [.a, .b]
  | some d =>
    let p := d.pref
    let o := p.other
    let order := if isTrial d p = false ∧ isTrial d o = true then [o, p] else [p, o]
    order.filter (isCandidate d)

/-! ## The log at Accession (R538, R539, R541) -/

/-- Blocks in falling order of SEQ. -/
def insertBlk (b : Nat × LogBlk) : List (Nat × LogBlk) → List (Nat × LogBlk)
  | [] => [b]
  | c :: rest => if c.2.seq ≤ b.2.seq then b :: c :: rest else c :: insertBlk b rest

/-- A slot is bad. -/
def isBadSlot : LogSlot → Bool
  | .bad => true
  | .good _ => false

/-- The good records of a block, newest first. -/
def goodRecs (b : LogBlk) : List LogRec := b.slots.reverse.filterMap (fun x => match x with
  | .good r => some r
  | .bad => none)

/-- The log state of a region is rebuilt from the flash. -/
def rebuildFrom (s : State) : State :=
  let bs := (s.flash.logR.blocks.filter (acceptedBlk s)).foldr insertBlk []
  match bs with
  | [] =>
    let s := { s with log := { s.log with ready := true, boot := 1, openSeq := 0, nextSlot := 0, oldestSeq := 0, wrapped := false, nextErased := false } }
    raise 0x8803 noInst 0 (enqueue (.logErase (physOf s (nextSeq s))) s)
  | b :: _ =>
    let bad := (bs.flatMap (fun x => x.2.slots.filter isBadSlot)).length
    let oldest := bs.foldl (fun m x => min m x.2.seq) b.2.seq
    let boot := bs.foldl (fun m x => max m x.2.boot) 0
    let s := { s with log := { s.log with ready := true, badSlots := min bad 0xFFFF, boot := (boot + 1) % 2 ^ 32, openSeq := b.2.seq, nextSlot := b.2.slots.length, oldestSeq := oldest, wrapped := decide (0 < oldest), window := ((bs.flatMap (fun x => goodRecs x.2)).take 64) } }
    let nxt := physOf s (nextSeq s)
    let erased := (logAt s nxt).isNone
    let s := { s with log := { s.log with nextErased := erased } }
    let s := if erased then s else enqueue (.logErase nxt) s
    (List.range bad).foldl (fun s _ => raise 0x8801 noInst 0 s) s

/-- The blocks of the log region, which reaches to the end of the flash (R538). -/
def logRegion (density : Nat) : Nat := (density - 0xC0E000) / 4096

/-- The log state is rebuilt from the flash. -/
def rebuildLog (density : Nat) (s : State) : State := rebuildFrom { s with log := { s.log with region := logRegion density } }

/-! ## The KA register and step 1 (R92, R412, R413, R557) -/

/-- The check code of the KA register: a failed test clears it, with the unlock count at 3 and its delay running. -/
def testKa (ok : Bool) (s : State) : State :=
  if ok then s else { s with ka := { s.ka with lostWrites := 0, startFail := none, unlockFails := 3, unlockDelay := true } }

/-- Step 1 of the start-up checks: every word of the shared SRAM and of the map store is 0, with valid check bits (R412). -/
def zeroMemories (s : State) : State :=
  { s with lks := { s.lks with sram := [], poisoned := [] }, cat := { s.cat with params := [], map := [], crcs := [] } }

/-- What an Accession that passes step 1 logs of the past: the failed start-up check, the writes lost, a rail reset (R413, R90, R64). -/
def logPast (s : State) : State :=
  let s := { s with lks := { s.lks with startOk := true } }
  let s := match s.ka.startFail with
    | some f => raise 0x6007 f.pair 0 { s with lks := { s.lks with fail := some f }, ka := { s.ka with startFail := none } }
    | none => s
  let n := s.ka.lostWrites
  let s := { s with sup := { s.sup with lostWrites := n }, ka := { s.ka with lostWrites := 0 } }
  let s := if 0 < n then raise 0x001B noInst n s else s
  if s.sup.cause.rail then raise 0x001C noInst 0 s else s

/-! ## The identity key (R520) -/

/-- The 17 words of an identity slot. -/
def idWords (s : State) (k : Nat) : List Nat := (List.range 17).map (fun j => (s.otp.get (24 + 17 * k + j)).toNat)

/-- The check word of 128 key bytes. -/
def idCheck (key : List Byte) : Nat := uAt (Config.shake256 key 128) 0 8

/-- Every word of the slot reads 0. -/
def idFree (s : State) (k : Nat) : Bool := (idWords s k).all (fun w => decide (w = 0))

/-- The slot's check word matches. -/
def idValid (s : State) (k : Nat) : Bool :=
  !idFree s k && decide (idCheck (((idWords s k).take 16).flatMap (natLe 8)) = (s.otp.get (24 + 17 * k + 16)).toNat)

/-- The slot in use at this Accession; with none valid and none free 0x8013. -/
def selectId (s : State) : State :=
  if idValid s 0 then { s with sec := { s.sec with idSlot := some 0 } }
  else if idValid s 1 then { s with sec := { s.sec with idSlot := some 1 } }
  else if idFree s 0 || idFree s 1 then { s with sec := { s.sec with idSlot := none } }
  else raise 0x8013 noInst 0 { s with sec := { s.sec with idSlot := none } }

/-! ## Step 8: the load (R110, R111, R177, R183, R384, R389) -/

/-- The cells of a map's entries: bytes other than 0, ascending (R183). -/
def mapCellsFrom : Nat → List Byte → List Host.Cell
  | _, [] => []
  | a, b :: rest => if b = 0 then mapCellsFrom (a + 1) rest else (a, b) :: mapCellsFrom (a + 1) rest

/-- The map store of the loaded maps. -/
def mapCells (rs : List Rec) : List Host.Cell :=
  (List.range 6).flatMap (fun k => mapCellsFrom (0x4000 * k) (((findRec 0x31 k rs).drop 16).take 0x4000))

/-- What runs once the firmware runs: the pairs and the interfaces; CAN transceivers leave standby where they are used. -/
def startPairs (s : State) : State :=
  let up (x : PairSt) : PairSt := { x with st := 1 }
  { s with lks := { s.lks with pairs := (((s.lks.pairs.upd .io up).upd .europa up).upd .ganymede up).upd .callisto up }, sup := { s.sup with ifaces := true } }

/-- Fabric ports leave DISABLED where PORT_EN enables them (R443). -/
def startPorts (s : State) : State :=
  if s.fn 10 then { s with fab := { s.fab with ports := s.fab.ports.updAll portAll (fun p x => { x with st := if s.portEn.testBit p.val then 1 else 0 }) } } else s

/-- Channels of a safety input count as demanding until Callisto has read them (R389, R390). -/
def startInputs (s : State) : State :=
  { s with saf := { s.saf with evaluating := true, si := s.saf.si.updAll siAll (fun n x => { x with a := { accepted := false, demand := s.siUsed n }, b := { accepted := false, demand := s.siUsed n }, callA := s.siUsed n, callB := s.siUsed n, testDone := decide (s.pu 0x80 n 12 = 0) }) } }

/-- The learned values begin at the record's (R177, R214), the pair at its role (R479, R487, R488), the CAN pins at theirs. -/
def startValues (s : State) : State :=
  let t0 (t : TSet) (c : OrrCtl) : OrrCtl := { c with tcomp := s.pf 0x30 t.num 96 * 10240000000 }
  let s := { s with
    octl := (s.octl.upd .a (t0 .a)).upd .b (t0 .b),
    res := s.res.updAll [0, 1] (fun i r => { r with sdly := s.pu 0x40 i 56, exc := s.mer.ct }),
    pos := s.pos.updAll [4, 5] (fun i p => { p with aid := decide (s.pu 0x40 i 24 ≠ 0) }),
    vif := { s.vif with can := s.vif.can.updAll [0, 1] (fun n c => { c with stb := !s.hasRec 0xA0 n.val }) } }
  { s with pair := { s.pair with partnerFit := true, arbFit := true, role := if s.fn 11 then (if s.mer.senior then 1 else 2) else 0 } }

/-- The bytes of the map store from an address, `n` of them: the cells in one pass, 0 where none is listed. -/
def expandCells : Nat → Nat → List Host.Cell → List Byte
  | _, 0, _ => []
  | a, n + 1, [] => 0 :: expandCells (a + 1) n []
  | a, n + 1, c :: rest => if c.1 = a then c.2 :: expandCells (a + 1) n rest else 0 :: expandCells (a + 1) n (c :: rest)

/-- The loaded copy of a record: a map's entries stand in the map store, everything else in the parameter store (R110, R111, R183). -/
def loadedCopy (m : List Host.Cell) (r : Rec) : List Byte :=
  if r.ty = 0x31 then r.data.take 16 ++ expandCells (0x4000 * r.inst) (r.data.length - 16) (m.filter (fun c => decide (0x4000 * r.inst ≤ c.1))) else r.data

/-- The CRC-32 of each record's loaded copy. -/
def loadedCrcs (m : List Host.Cell) (rs : List Rec) : List Nat := rs.map (fun r => crc32 (loadedCopy m r))

/-- Custodian's registers take their configuration (R397). -/
def loadCust (s : State) : State :=
  { s with saf := { s.saf with cust := { si := s.saf.cust.si.updAll siAll (fun n _ => s.payload 0x80 n.val), safety := s.payload 0x81 0, ov := s.custOv } } }

/-- Step 8 for a Catalogue that passed: loaded, checked, locked. The permits return unless both feeds are still lost (R89, R383). -/
def loadCat (sl : Slot) (fw : FwFacts) (c : Loaded) (s : State) : State :=
  let s := { s with
    cat := { s.cat with slotRun := sl, locked := true, arb := c.arb, oemKey := c.oemKey, records := c.count, buildLo := c.buildLo, buildHi := c.buildHi, params := c.recs, crcs := loadedCrcs (mapCells c.recs) c.recs, map := mapCells c.recs, fwArb := fw.arb, recovery := false },
    sys := { s.sys with version := fw.version },
    saf := { s.saf with held := s.sup.holdup, lvC := !s.sup.holdup, lvP := !s.sup.holdup },
    sup := { s.sup with step := 8 } }
  startPorts (startValues (startInputs (loadCust (startPairs s))))

/-- The permit path test (R384): a present channel of completed handshake whose status frame does not report a change raises 0x5805 for its
domain (R401), and SAFE takes the place of READY. Only an isolated channel has a secondary and status frames (R70, R245). -/
def permitTest (bad : List Chan) (reports : List Handshake) (s : State) : State :=
  let bad := bad.filter (fun c => s.chPresent c && decide (c.val < 29) && reports.any (handshakeOk s c))
  if bad = [] then { s with saf := { s.saf with ptestOk := true } }
  else enterMode .safe (bad.foldl (fun s c => raise 0x5805 (domOf c).val 0 s) s)

/-! ## The outcomes (R97, R108, R109) -/

/-- A failure is noted in SEC_ACC_DETAIL. -/
def noteFail (t : Tried) (s : State) : State :=
  let put (cat : Bool) (b r : Option Nat) : State :=
    { s with cat := { s.cat with failBlock := b.getD 0xFFFF, recValid := r.isSome, failRecord := r.getD 0 % 16384, regionCat := cat } }
  match t with
  | .noFw _ b => put false b none
  | .noCat _ b r => put true b r
  | .fwOnly => s
  | .ok _ => s

/-- The cause code of an attempt. -/
def causeOf : Tried → Nat
  | .noFw c _ => c
  | .noCat c _ _ => c
  | .fwOnly => 1
  | .ok _ => 1

/-- A slot's cause. -/
def setCause (sl : Slot) (c : Nat) (s : State) : State :=
  match sl with
  | .a => { s with cat := { s.cat with causeA := c } }
  | .b => { s with cat := { s.cat with causeB := c } }

/-- The facts of a slot's firmware. -/
def fwOf (x : AccIn) : Slot → FwFacts
  | .a => x.fwA
  | .b => x.fwB

/-- The signature verdict of a slot's Catalogue. -/
def sigOf (x : AccIn) : Slot → Bool
  | .a => x.sigA
  | .b => x.sigB

/-- The blocks that passed on a re-read, each with 0x8005. -/
def raiseReads (n : Nat) (s : State) : State := (List.range n).foldl (fun s _ => raise 0x8005 noInst 0 s) s

/-- The verifications that an attempt asks of the engine. -/
def verifs : Tried → Nat
  | .noFw 0x11 _ => 0
  | .noFw _ _ => 1
  | .noCat 0x14 _ _ => 2
  | .noCat 0x1A _ (some _) => 2
  | .noCat _ _ _ => 1
  | .fwOnly => 1
  | .ok _ => 2

/-- Step 8 checks the loaded copies: where the check fails the attempt ends as at any other step, with a cause that the table does not
give, a free value (R106, log entry 20). -/
def loadChecked (bad : Bool) (t : Tried) : Tried :=
  match t with
  | .ok c => if bad then .noCat (Config.freeNat 1 % 256) none none else .ok c
  | _ => t

/-- One attempt: its outcome is noted; a firmware that passed is locked at step 4 (R406). -/
def attempt (x : AccIn) (sl : Slot) (s : State) : Tried × State :=
  let r0 := trySlot s sl (fwOf x sl) (sigOf x sl) x.readFails
  let r := (loadChecked (x.loadBad.contains sl) r0.1, r0.2)
  let s := raiseReads r.2 (setCause sl (causeOf r.1) (noteFail r.1 s))
  let s := { s with sec := { s.sec with ops := (s.sec.ops + verifs r0.1) % 2 ^ 16 } }
  match r.1 with
  | .noFw _ _ => (r.1, s)
  | _ => (r.1, { s with cat := { s.cat with slotRun := sl, fwArb := (fwOf x sl).arb, codeLocked := true }, sys := { s.sys with version := (fwOf x sl).version } })

/-- SAFE with the recovery settings: UDS on CAN1, every output off, the permits held off (R109). -/
def recover (result : Nat) (s : State) : State :=
  let s := { s with cat := { s.cat with result := result, recovery := true } }
  let s := startPorts (startPairs { s with vif := { s.vif with can := s.vif.can.upd 0 (fun c => { c with stb := false }) } })
  let s := if result = 3 then raise 0x8003 noInst 0 s else if result = 4 then raise 0x8004 noInst 0 s else s
  enterMode .safe s

/-- The descriptor after an Accession in which `sl` runs: with no valid copy it is written anew (R97), after a fallback the failed
slot is BAD (R108). -/
def settleDesc (sl : Slot) (failed : Bool) (s : State) : State :=
  match s.cat.desc with
  | none => changeDesc (fun d => ({ d with pref := sl }.setSt sl 4).setSt sl.other (if failed then 5 else 4)) s
  | some _ => if failed then changeDesc (fun d => { d.setSt sl.other 5 with pref := sl }) s else s

/-- The end of an Accession in which slot `sl` runs. -/
def finish (x : AccIn) (sl : Slot) (failed : Bool) (t : Tried) (s : State) : State :=
  let s := if failed then raise 0x8001 noInst 0 s else s
  match t with
  | .ok c =>
    let s := loadCat sl (fwOf x sl) c { s with cat := { s.cat with result := if failed then 2 else 1 } }
    permitTest x.permitFail x.handshakes (selectId (settleDesc sl failed s))
  | _ => selectId (recover 5 (if failed then settleDesc sl failed s else s))

/-- The attempts in the order of R105, at most two; with none that passes SAFE (R108). `fwOk` says that some firmware passed. -/
def attempts (x : AccIn) : List Slot → Bool → Bool → State → State
  | [], _, fwOk, s => selectId (recover (if fwOk then 3 else 4) s)
  | sl :: rest, failed, fwOk, s =>
    let r := attempt x sl s
    match r.1 with
    | .noFw _ _ => attempts x rest true fwOk r.2
    | .noCat _ _ _ => attempts x rest true true r.2
    | .fwOnly => finish x sl failed r.1 r.2
    | .ok _ => finish x sl failed r.1 r.2

/-- Step 2: the descriptor is read in 1S-1S-1S mode, and the flash interface then switches to 8D-8D-8D (R94); slots that are no candidates carry cause 0x10; 0x8002 with no valid copy (R105). -/
def chooseOrder (s : State) : State :=
  let s := { s with cat := { s.cat with desc := newestDesc s.flash, xspi8d := true } }
  let order := slotOrder s.cat.desc
  let mark (sl : Slot) (s : State) : State := if order.contains sl then s else setCause sl 0x10 s
  let s := mark .b (mark .a s)
  if s.cat.desc.isNone then raise 0x8002 noInst 0 s else s

/-- ACCESSION: steps 1 to 8 of R106 with their outcomes. A failed start-up check keeps the N9 in ACCESSION with no pair running (R413). -/
def execAccession (x : AccIn) (s : State) : Host.Outcome State Fault Refusal :=
  if s.sys.mode ≠ .accession ∨ s.sup.step < 5 ∨ 8 ≤ s.sup.step ∨ s.lks.dead = true then .next s
  else
    let s := testKa x.kaCheckOk (zeroMemories s)
    match startCheck x.eccReads x.defects with
    | some f => .next { s with lks := { s.lks with dead := true }, ka := { s.ka with startFail := some f } }
    | none =>
      let s := chooseOrder (logPast (rebuildLog x.density s))
      .next (attempts x ((slotOrder s.cat.desc).take 2) false false s)

/-! ## The loaded stores (R110, R111) -/

/-- The map store's cells with one byte replaced, in canonical form. -/
def putCell (a : Nat) (b : Byte) : List Host.Cell → List Host.Cell
  | [] => if b = 0 then [] else [(a, b)]
  | c :: rest =>
    if a < c.1 then (if b = 0 then c :: rest else (a, b) :: c :: rest)
    else if a = c.1 then (if b = 0 then rest else (a, b) :: rest)
    else c :: putCell a b rest

/-- A word written to the map store. -/
def putMapWord (a v : Nat) (m : List Host.Cell) : List Host.Cell :=
  let b (k : Nat) : Byte := BitVec.ofNat 8 (v / 256 ^ k)
  putCell (a + 3) (b 3) (putCell (a + 2) (b 2) (putCell (a + 1) (b 1) (putCell a (b 0) m)))

/-- A 64-bit word written to a memory at a byte address. -/
def putWord (a v : Nat) (m : List Host.Cell) : List Host.Cell := putMapWord (a + 4) (v / 2 ^ 32) (putMapWord a (v % 2 ^ 32) m)

/-- The lock of a region is set: the stores' at the end of step 8, the code region's at step 4 (R110, R406). -/
def regionLocked (r : StoreRegion) (s : State) : Bool :=
  match r with
  | .code => s.cat.codeLocked
  | .params => s.cat.locked
  | .map => s.cat.locked

/-- A write to a store or to the code region by a pair's firmware or JTAG: blocked with 0x8006 once it is locked; before that a write to the
map store lands (R110, R406). -/
def storeWrite (r : StoreRegion) (addr value : Nat) (s : State) : State :=
  if regionLocked r s then raise 0x8006 noInst 0 s
  else if r = .map ∧ inMapStore addr = true ∧ addr % 4 = 0 then
    { s with cat := { s.cat with map := putMapWord (addr - 0x51000000) (value % 2 ^ 32) s.cat.map } }
  else s

/-- LOCKED_STORE_WRITE. -/
def execLockedStoreWrite (region : StoreRegion) (addr value : Nat) (s : State) : Host.Outcome State Fault Refusal := .next (storeWrite region addr value s)

/-- One byte of a loaded copy changed by an upset: the record by its index, the byte by its offset. -/
def upsetRec : List Rec → Nat → Nat → List Rec
  | [], _, _ => []
  | r :: rest, 0, off => { r with data := r.data.mapIdx (fun i b => if i = off then b ^^^ 1 else b) } :: rest
  | r :: rest, k + 1, off => r :: upsetRec rest k off

/-- An upset of a loaded copy: of a byte in the map store, or of one in the parameter store. -/
def upsetStore (rs : List Rec) (m : List Host.Cell) (u : Nat × Nat) : List Rec × List Host.Cell :=
  match rs[u.1]? with
  | some r =>
    if r.ty = 0x31 ∧ 16 ≤ u.2 then
      let a := 0x4000 * r.inst + (u.2 - 16)
      (rs, putCell a (BitVec.ofNat 8 (mapByte m a) ^^^ 1) m)
    else (upsetRec rs u.1 u.2, m)
  | none => (rs, m)

/-- LOADED_STORE_CRC_CHECK: the CRCs of the loaded copies, after the upsets that the command brings, against those of step 8; a
mismatch is 0x8007 (R111). -/
def execLoadedStoreCrcCheck (upset : List (Nat × Nat)) (s : State) : Host.Outcome State Fault Refusal :=
  if s.cat.locked = false ∨ (s.lks.pairs.get .ganymede).st ≠ 1 then .next s
  else
    let r := upset.foldl (fun r u => upsetStore r.1 r.2 u) (s.cat.params, s.cat.map)
    let s := { s with cat := { s.cat with params := r.1, map := r.2 } }
    if loadedCrcs s.cat.map s.cat.params = s.cat.crcs then .next s
    else .next (raise 0x8007 noInst 0 s)

end Sys2Proof.Machine
end

