-- ==== Sys2Proof/Machine/Orrery.lean ====
section
/-! DEFINITION. The Orrery (06_orrery_current_control.md): samples, offset trim, the update, late results. -/

namespace Sys2Proof.Machine

/-! ## Samples (R156 to R162) -/

/-- A code of 24 bits, saturated (R157). -/
def sat24 (x : Int) : Int := if x < -(2 ^ 23) then -(2 ^ 23) else if 2 ^ 23 - 1 < x then 2 ^ 23 - 1 else x

/-- A normalised value times GAIN as a code, before the offset (R157). -/
def gainCode (s : State) (t : TSet) (off : Nat) (norm : Q) : Int := roundQ (norm * s.pf 0x30 t.num off * 2 ^ 23)

/-- The full scale of a set, A. -/
def iFs (s : State) (t : TSet) : Q := s.pf 0x30 t.num 24

/-- A run-time code in A (R8). -/
def codeA (s : State) (t : TSet) (c : Int) : Q := (c : Q) / 2 ^ 23 * iFs s t

/-- A current in A as a run-time code. -/
def codeOf (s : State) (t : TSet) (a : Q) : Int := sat24 (roundQ (divQ (a * 2 ^ 23) (iFs s t)))

/-- A current step in A as an offset code. -/
def ofsCode (s : State) (t : TSet) (off : Nat) : Int := roundQ (divQ (s.pf 0x30 t.num off * 2 ^ 23) (iFs s t))

/-- An offset limited to ±OFS_LIM, and whether it reached the limit (R162). -/
def limitOfs (lim x : Int) : Int × Bool :=
  if x ≤ -lim then (-lim, true) else if lim ≤ x then (lim, true) else (x, false)

/-- Offset trim is enabled (FF_EN bit 4). -/
def trimEnabled (s : State) (t : TSet) : Bool := (s.pu 0x30 t.num 92).testBit 4

/-- The end of the start trim: each offset is the mean of the 64 samples (R160). -/
def endTrim (t : TSet) (s : State) : State :=
  let o := s.orr.get t
  let lim := ofsCode s t 112
  let m (x : Int) := limitOfs lim (roundQ ((x : Q) / 64))
  let u := m o.sumU
  let v := m o.sumV
  let w := m o.sumW
  let x := if s.pu 0x30 t.num 16 = 1 then m o.sumX else (0, false)
  let s := { s with orr := s.orr.put t { o with ofsU := u.1, ofsV := v.1, ofsW := w.1, ofsX := x.1, trimLeft := 0, trimStart := true } }
  if u.2 || v.2 || w.2 || x.2 then raise 0x1804 t.num 0 s else s

/-- The overcurrent check of one phase value in A (R159). -/
def overOc (s : State) (t : TSet) (a : Q) : Bool := decide (s.pf 0x30 t.num 48 < absQ a)

/-- The checks of R159 on a set's latest samples. -/
def checkSamples (t : TSet) (s : State) : State :=
  let o := s.orr.get t
  let a := codeA s t o.iu
  let b := codeA s t o.iv
  let c := codeA s t o.iw
  let big := decide (s.pf 0x30 t.num 116 < absQ (a + b + c))
  let run := if big then o.sumRun + 1 else 0
  let s := { s with orr := s.orr.put t { o with sumRun := run, sumErr := if big then satInc 16 o.sumErr else o.sumErr } }
  let s := if overOc s t a || overOc s t b || overOc s t c then raise 0x1802 t.num 0 s else s
  if run = 8 then raise 0x1803 t.num 0 s else s

/-- Take a set of normalised samples: during the start trim they are summed, else scaled, corrected and checked. -/
def takeSamples (t : TSet) (nu nv nw nx : Q) (s : State) : State :=
  let o := s.orr.get t
  let u := gainCode s t 28 nu
  let v := gainCode s t 32 nv
  let w := gainCode s t 36 nw
  let x := if s.pu 0x30 t.num 16 = 1 then gainCode s t 40 nx else 0
  let o1 := { o with iu := sat24 (u - o.ofsU), iv := sat24 (v - o.ofsV), iw := sat24 (w - o.ofsW), ix := sat24 (x - o.ofsX) }
  let s1 := checkSamples t { s with orr := s.orr.put t o1 }
  if o.trimLeft = 0 then s1
  else
    let o2 := s1.orr.get t
    let s2 := { s1 with orr := s1.orr.put t { o2 with trimLeft := o.trimLeft - 1, sumU := o.sumU + u, sumV := o.sumV + v, sumW := o.sumW + w, sumX := o.sumX + x } }
    if o.trimLeft = 1 then endTrim t s2 else s2

/-- A trigger of a running group fires now (R129, R141): TRIG_EN enables it, and its instant lies in the running half or, ahead of the
extremum by more than the 100 ns of the latch, in the half before. Before the first latch of a run every enabled trigger fires. -/
def trigFires (s : State) (g : Grp) (tr : Trig) : Bool :=
  let gr := s.pwm.get g
  let en := (s.pu 0x20 g 36).testBit (match tr with | .valley => 0 | .peak => 1)
  let off : Int := match tr with | .valley => s.pi 0x20 g 28 | .peak => s.pi 0x20 g 32
  let half := decide (tr = .valley) == gr.rising
  gr.running && en && (!gr.latched || (half == decide (-1024 ≤ off)))

/-- SAR_SAMPLE: an enabled trigger of a running group samples its cluster's four inputs; a code c gives c / 32,768 (R141, R157, R159,
R160). -/
def execSarSample (t : TSet) (tr : Trig) (u v w x : Int) (s : State) : Host.Outcome State Fault Refusal :=
  if trigFires s t.grp tr = true ∧ s.pu 0x30 t.num 8 = 0 then
    .next (takeSamples t ((u : Q) / 32768) ((v : Q) / 32768) ((w : Q) / 32768) ((x : Q) / 32768) s)
  else .next s

/-! ## ΣΔ filters (R144 to R147) -/

/-- The sums of every run of `n` neighbours in a list. -/
def movingSum (n : Nat) (xs : List Int) : List Int := (List.range (xs.length + 1 - n)).map (fun i => ((xs.drop i).take n).foldl (· + ·) 0)

/-- The output of a sinc filter of an order and ratio over modulator bits, as a fraction of the modulator's ±1 range: the order times
moving sum (R145, R146). A window of another length gives none. -/
def sincOut (order osr : Nat) (bits : List Bool) : Option Q :=
  if bits.length = order * osr - (order - 1) ∧ 0 < osr then
    ((List.range order).foldl (fun xs _ => movingSum osr xs) (bits.map (fun b => if b then (1 : Int) else -1))).head?.map (fun x => (x : Q) / (osr ^ order : Nat))
  else none

/-- The divider of SDC_A (1) or SDC_B (2): that of the lowest-numbered present group that names the clock; a clock that none names
stays low (R144). -/
def State.sdcDiv (s : State) (k : Nat) : Option Nat :=
  (([0, 1, 2, 3, 4, 5, 6, 7, 8, 9] : List Grp).find? (fun g => s.grpPresent g && decide (s.pu 0x20 g 52 = k))).map (fun g => s.pu 0x20 g 56)

/-- The clock of an SDD input: SDC_A for 0 to 3, SDC_B for 4 to 7 (R143). -/
def sddClock (n : Nat) : Nat := if n < 4 then 1 else 2

/-- A sinc3 sample of a group: its clock runs, and its window is centred within half a modulator clock of the instant (R145). -/
def sdSample (s : State) (g : Grp) (w : SdWindow) : Option Q :=
  match s.sdcDiv (s.pu 0x20 g 52) with
  | some d => if absQ w.off ≤ (d : Q) * 25 / 2 then sincOut 3 (s.pu 0x20 g 60) w.bits else none
  | none => none

/-- The phase channel of a set that SD_MAP gives an SDD input, if SRC is the ΣΔ path. -/
def sddServes (s : State) (t : TSet) (sdd : Fin 8) (ch : Nat) : Bool :=
  decide (s.fn t.num = true ∧ s.pu 0x30 t.num 8 = 1 ∧ s.pb 0x30 t.num (12 + ch) 1 = sdd.val)

/-- The overcurrent check of a sinc2 output by one set (R146, R159). -/
def sinc2Set (t : TSet) (sdd : Fin 8) (value : Q) (s : State) : State :=
  let o := s.orr.get t
  let chk (ch gain : Nat) (ofs : Int) : Bool :=
    sddServes s t sdd ch && overOc s t (codeA s t (sat24 (gainCode s t gain value - ofs)))
  if chk 0 28 o.ofsU || chk 1 32 o.ofsV || chk 2 36 o.ofsW then raise 0x1802 t.num 0 s else s

/-- SINC2_OUTPUT: the sinc2 output of ratio 16 over the last 31 bits of an input whose clock runs is compared with the trip levels of
every owner of the input (R144, R146, R159, R288). -/
def execSinc2Output (sdd : Fin 8) (bits : List Bool) (s : State) : Host.Outcome State Fault Refusal :=
  match s.sdcDiv (sddClock sdd.val), sincOut 2 16 bits with
  | some _, some v => .next (chargerSinc2 sdd v (sinc2Set .b sdd v (sinc2Set .a sdd v s)))
  | _, _ => .next s

/-! ## The zero-vector window (R161) -/

/-- The state of a leg at `t` (1 high side on, 0 low side on, 2 neither), dead time included, and whether one of its sides switches in the
500 ns before or the 250 ns after. -/
def legAt (gr : PwmGrp) (dh dl : Nat) (n : Nat) (t : Int) : Nat × Bool :=
  let sp := legSpans 0 gr n
  let startsLow := gr.first && !sp.any (fun a => decide (a.1 ≤ 0 ∧ 0 < a.2))
  let es := sp.flatMap (fun a => [a.1, a.1 + (dh : Int), a.2, a.2 + (dl : Int)]) ++ (if startsLow then [0, (dl : Int)] else [])
  let near (e : Int) : Bool := (gr.first || decide (-(gr.spanPrev : Int) < e)) && decide (e < gr.span ∧ t - 5120 ≤ e ∧ e ≤ t + 2560)
  let high := sp.any (fun a => decide (a.1 + (dh : Int) ≤ t ∧ t < a.2))
  let low := sp.all (fun a => decide (t < a.1 ∨ a.2 + (dl : Int) ≤ t)) && (!gr.first || decide ((dl : Int) ≤ t))
  (if high then 1 else if low then 0 else 2, es.any near)

/-- The sample instant of the running half is a zero-vector window, judged on the latched values (R161). -/
def zeroWindow (s : State) (t : TSet) : Bool :=
  let gr := s.pwm.get t.grp
  let off : Int := if gr.rising then s.pi 0x20 t.grp 28 else s.pi 0x20 t.grp 32
  let legs := [0, 1, 2].map (fun n => legAt gr (s.pu 0x20 t.grp 16) (s.pu 0x20 t.grp 20) n off)
  legs == [(0, false), (0, false), (0, false)] || legs == [(1, false), (1, false), (1, false)]

/-- The continuous offset trim of a zero-vector window (R161, R162). -/
def trimWindow (t : TSet) (s : State) : State :=
  let o := s.orr.get t
  let step := ofsCode s t 108
  let lim := ofsCode s t 112
  let cl (x : Int) : Int := if x < -step then -step else if step < x then step else x
  let c := cl (roundQ (((o.iu + o.iv + o.iw : Int) : Q) / 3))
  let u := limitOfs lim (o.ofsU + c)
  let v := limitOfs lim (o.ofsV + c)
  let w := limitOfs lim (o.ofsW + c)
  let x := if s.pu 0x30 t.num 16 = 1 then limitOfs lim (o.ofsX + cl o.ix) else (o.ofsX, false)
  let s := { s with orr := s.orr.put t { o with ofsU := u.1, ofsV := v.1, ofsW := w.1, ofsX := x.1, trims := wrapInc 16 o.trims } }
  if u.2 || v.2 || w.2 || x.2 then raise 0x1804 t.num 0 s else s

/-! ## References from the maps (R169 to R173) -/

/-- The band selected from V_dc with hysteresis (R170), or without it at a start. -/
def selectBand (s : State) (t : TSet) (c : OrrCtl) (vdc : Q) : Nat :=
  let b01 := s.pf 0x30 t.num 140
  let b12 := s.pf 0x30 t.num 144
  let h := if c.fresh then 0 else s.pf 0x30 t.num 148 / 2
  let up (b : Nat) : Nat := if b = 0 ∧ b01 + h < vdc then 1 else b
  let up2 (b : Nat) : Nat := if b = 1 ∧ b12 + h < vdc then 2 else b
  let dn (b : Nat) : Nat := if b = 2 ∧ vdc < b12 - h then 1 else b
  let dn2 (b : Nat) : Nat := if b = 1 ∧ vdc < b01 - h then 0 else b
  dn2 (dn (up2 (up (if c.fresh then 0 else c.band))))

/-- The three weights moved toward the selected band (R171); at a start its weight is 1. -/
def moveWeights (blend : Nat) (fresh : Bool) (b : Nat) (c : OrrCtl) : Q × Q × Q :=
  if fresh then (if b = 0 then 1 else 0, if b = 1 then 1 else 0, if b = 2 then 1 else 0)
  else
    let w := if b = 0 then c.w0 else if b = 1 then c.w1 else c.w2
    if w = 1 then (c.w0, c.w1, c.w2)
    else
      let w' := w + minQ (1 / max blend 1) (1 - w)
      let k := (1 - w') / (1 - w)
      (if b = 0 then w' else c.w0 * k, if b = 1 then w' else c.w1 * k, if b = 2 then w' else c.w2 * k)

/-- A map entry's i_d* and i_q* as fractions of I_FS (R182, R183). -/
def mapEntry (s : State) (m j k : Nat) : Q × Q :=
  let a := 0x4000 * m + 4 * (64 * j + k)
  let d := s.mapHalf a
  let q := s.mapHalf (a + 2)
  ((d : Q) / 32768, (q : Q) / 32768)

/-- The bilinear value of one map (R169), fractions of I_FS. -/
def mapValue (s : State) (m j k : Nat) (fu fv : Q) : Q × Q :=
  let e00 := mapEntry s m j k
  let e10 := mapEntry s m (j + 1) k
  let e01 := mapEntry s m j (k + 1)
  let e11 := mapEntry s m (j + 1) (k + 1)
  let f (a b c d : Q) := (1 - fu) * (1 - fv) * a + fu * (1 - fv) * b + (1 - fu) * fv * c + fu * fv * d
  (f e00.1 e10.1 e01.1 e11.1, f e00.2 e10.2 e01.2 e11.2)

/-- What the map lookup of R169 gives: i_d,map and i_q,map in A, TCLIP and WCLIP. -/
structure MapRef where
  d : Q
  q : Q
  tclip : Bool
  wclip : Bool
  deriving DecidableEq, Repr

/-- R169 for a torque target in N·m. -/
def mapReference (s : State) (t : TSet) (torque we : Q) (w : Q × Q × Q) : MapRef :=
  let tMax := s.pf 0x31 (3 * t.num) 0
  let wMax := s.pf 0x31 (3 * t.num) 4
  let sg : Q := if 0 ≤ we then 1 else -1
  let tt := sg * (if s.pu 0x30 t.num 0 = 2 then torque / 2 else torque)
  let u0 := divQ ((tt + tMax) * 63) (2 * tMax)
  let v0 := divQ (absQ we * 63) wMax
  let u := clampQ 0 63 u0
  let v := clampQ 0 63 v0
  let j := min (floorN u) 62
  let k := min (floorN v) 62
  let r (b : Nat) (wb : Q) : Q × Q := if wb = 0 then (0, 0) else
    let e := mapValue s (3 * t.num + b) j k (u - j) (v - k)
    (wb * e.1, wb * e.2)
  let a := r 0 w.1
  let b := r 1 w.2.1
  let c := r 2 w.2.2
  { d := (a.1 + b.1 + c.1) * iFs s t, q := sg * (a.2 + b.2 + c.2) * iFs s t, tclip := decide (u0 ≠ u), wclip := decide (v0 ≠ v) }

/-- I_lim of R173. -/
def iLimit (s : State) (t : TSet) : Q :=
  let a := s.pf 0x30 t.num 44
  let b := match (s.otgt.get t).limit with
    | some l => minQ a l
    | none => a
  match s.thmLimit t.num with
  | some l => minQ b l
  | none => b

/-! ## Modulation (R175, R176) -/

/-- √3. -/
def sqrt3 : Q := sqrtQ 3

/-- The nearest binary32 to 1.1027, the largest M_MAX (R181). -/
def mSixStep : Q := (f32? 0x3F8D2546).getD 0

/-- The region of R176. -/
def regionOf (m : Q) : Nat := if m ≤ 1 then 0 else if m ≤ 10494 / 10000 then 1 else if m < mSixStep then 2 else 3

/-- The largest and the smallest of three. -/
def spread (a b c : Q) : Q × Q := (maxQ a (maxQ b c), minQ a (minQ b c))

/-- The phase voltages of a vector (R175). -/
def phases (va vb : Q) : Q × Q × Q := (va, -va / 2 + sqrt3 / 2 * vb, -va / 2 - sqrt3 / 2 * vb)

/-- A hexagon vertex as a unit vector, k times 60°. -/
def vertex (k : Nat) : Q × Q :=
  match k % 6 with
  | 0 => (1, 0)
  | 1 => (1 / 2, sqrt3 / 2)
  | 2 => (-1 / 2, sqrt3 / 2)
  | 3 => (-1, 0)
  | 4 => (-1 / 2, -sqrt3 / 2)
  | _ => (1 / 2, -sqrt3 / 2)

/-- The vertex whose direction is nearest to a vector. -/
def nearestVertex (va vb : Q) : Q × Q :=
  let dot (v : Q × Q) := v.1 * va + v.2 * vb
  (List.range 6).foldl (fun best k => if dot best < dot (vertex k) then vertex k else best) (vertex 0)

/-- The least argument in `lo` to `hi` at which a rising function reaches a level, by 24 halvings. -/
def solveRising (f : Q → Q) (y : Q) : Nat → Q → Q → Q
  | 0, lo, _ => lo
  | n + 1, lo, hi => let m := (lo + hi) / 2; if f m < y then solveRising f y n m hi else solveRising f y n lo m

/-- The fundamental, in V_dc / √3, of a vector of magnitude `g` (same unit, 1 to 2/√3) clipped to the hexagon. -/
def clippedFund (g : Q) : Q :=
  let r := sqrtC (g * g - 1)
  6 / piC * (lnC (g + r) + g * (piC / 6 - atanC r))

/-- The fundamental of a vector that follows the hexagon and is held at each vertex for `h` radians on either side. -/
def heldFund (h : Q) : Q :=
  let u := piC / 6 - h
  6 / piC * (lnC ((1 + sinC u) / cosC u) + 2 / sqrtC 3 * sinC h)

/-- The raised magnitude of overmodulation in V_dc / √3. The curve itself is not given: it is free inside the band in which the fundamental
equals m to within 0.5 % (R176, log entry 7). -/
def gainOf (m : Q) : Q :=
  let top := 2 / sqrtC 3
  if 10494 / 10000 < m then top
  else
    let lo := solveRising clippedFund (m - 1 / 200) 24 1 top
    let hi := solveRising clippedFund (m + 1 / 200) 24 1 top
    lo + clampQ 0 1 (Config.overmodGain m) * (hi - lo)

/-- The share of the hold angle's rise that is done at a modulation index: a free curve that rises from 0 to 1 over region II. -/
def holdShare (m : Q) : Q :=
  let x := clampQ 0 1 (divQ (m - 10494 / 10000) (mSixStep - 10494 / 10000)) * 1000
  let k := floorN x
  let w (i : Nat) : Q := (Config.holdRise i : Q) + 1
  let sum (n : Nat) : Q := ((List.range n).map w).foldl (· + ·) 0
  divQ (sum k + (if k < 1000 then w k * (x - k) else 0)) (sum 1000)

/-- The hold angle in radians: it rises from 0° to 30° with m and keeps the fundamental equal to m to within 0.5 % (R176). -/
def holdOf (m : Q) : Q :=
  let lo := solveRising heldFund (m - 1 / 200) 24 0 (piC / 6)
  let hi := solveRising heldFund (m + 1 / 200) 24 0 (piC / 6)
  clampQ lo hi (holdShare m * piC / 6)

/-- The vector that overmodulation applies (R176): raised, clipped to the hexagon, and in region II held at the nearest vertex
(log entry 7). -/
def overmod (m vdc va vb : Q) : Q × Q :=
  if m ≤ 1 then (va, vb)
  else
    let mag := sqrtQ (va * va + vb * vb)
    let g := divQ (gainOf m * vdc) (sqrt3 * mag)
    let a := va * g
    let b := vb * g
    let p := phases a b
    let sp := spread p.1 p.2.1 p.2.2
    let k := if vdc < sp.1 - sp.2 then divQ vdc (sp.1 - sp.2) else 1
    let v := nearestVertex va vb
    if 10494 / 10000 < m ∧ cosRad (holdOf m) * mag ≤ v.1 * va + v.2 * vb then (v.1 * vdc * 2 / 3, v.2 * vdc * 2 / 3)
    else (a * k, b * k)

/-- E of one leg (R175), clamped to 0 to T_s,ft. -/
def legE (tsFt : Nat) (vdc vx v0 comp : Q) : Nat :=
  let e := roundQ ((1 / 2 + divQ (vx + v0) vdc) * tsFt + comp)
  if e < 0 then 0 else min e.toNat tsFt

/-- The three E values of an update (R175, R176). -/
def modulate (tsFt : Nat) (vdc m va vb : Q) (cu cv cw tcomp : Q) : List Nat :=
  if regionOf m = 3 then
    let p := phases va vb
    [p.1, p.2.1, p.2.2].map (fun v => if 0 < v then tsFt else 0)
  else
    let w := overmod m vdc va vb
    let p := phases w.1 w.2
    let sp := spread p.1 p.2.1 p.2.2
    let v0 := -(sp.1 + sp.2) / 2
    [legE tsFt vdc p.1 v0 (cu * tcomp / 2), legE tsFt vdc p.2.1 v0 (cv * tcomp / 2), legE tsFt vdc p.2.2 v0 (cw * tcomp / 2)]

/-! ## The update (R163 to R177) -/

/-- Park of Clarke of three phase values (R164). -/
def dq (u v w : Q) (th : Nat) : Q × Q :=
  let a := (2 * u - v - w) / 3
  let b := (v - w) / sqrt3
  (a * cosA th + b * sinA th, -a * sinA th + b * cosA th)

/-- One first-order low-pass step (R177; the discrete form is log entry 8). -/
def lpStep (ts tau lp x : Q) : Q := lp + ts / tau * (x - lp)

/-- The electrical angle and speed a set uses at an instant `dt` after the interface's last update (R154, R155, R163). In SIXPHASE set B's
record says WIND_SHIFT; R181 asks only MODE to be equal in both records, so that this one counts is the model's choice, as is that
ORR_MODE shows set A's (log entry 57). -/
def setAngle (s : State) (t : TSet) (dt : Q) : Nat × Q :=
  let a := s.posAt (s.setIfc t) dt
  if t = .b ∧ s.pu 0x30 1 0 = 2 ∧ s.pu 0x30 1 4 = 1 then (ang ((a.1 : Int) - 0x15555555), a.2) else a

/-- The learning step of T_COMP (R177): the new T_COMP and the four low-passes. -/
def learnStep (kdt ts vdc : Q) (c : OrrCtl) (sd sq : Q) : OrrCtl :=
  let a := lpStep ts (1 / 500) c.lpXd c.xd
  let b := lpStep ts (1 / 500) c.lpXq c.xq
  let d := lpStep ts (1 / 500) c.lpSd sd
  let e := lpStep ts (1 / 500) c.lpSq sq
  let g := divQ ((c.xd - a) * (sd - d) + (c.xq - b) * (sq - e)) vdc
  { c with lpXd := a, lpXq := b, lpSd := d, lpSq := e, tcomp := clampQ 0 51200 (c.tcomp + clampQ (-1) 1 (kdt * g * ts)) }

/-- One axis of R167: the clamped voltage and the integrator that goes with it. -/
def axisLimit (lim v kp e x ff : Q) : Q × Q := if v < -lim then (-lim, -lim - kp * e - ff) else if lim < v then (lim, lim - kp * e - ff) else (v, x)

/-- The committed update with valid inputs: steps 2 to 10 of R163. T_s is the length of the half that runs, also where R138 or R150 makes it
longer or shorter (R165); T_s,ft is half of the period in use, also where a period change is due at the next valley, on which R175 is
silent (log entry 57). -/
def updateCore (t : TSet) (vdc : Q) (dt : Q) (s : State) : State :=
  let gr := s.pwm.get t.grp
  let n := t.num
  let o := s.orr.get t
  let c := s.octl.get t
  let tg := s.otgt.get t
  let pr := s.oview.get t
  let ffEn := s.pu 0x30 n 92
  let p2 := gr.period / 2
  let ts : Q := ((if gr.span = 0 then p2 else gr.span : Nat) : Q) / 10240000000
  let aw := setAngle s t dt
  let th := aw.1
  let we := aw.2
  let iu := codeA s t o.iu
  let iv := codeA s t o.iv
  let iw := codeA s t o.iw
  let i := dq iu iv iw th
  -- step 3: references
  let band := selectBand s t c vdc
  let w := moveWeights (s.pu 0x30 n 152) c.fresh band c
  let mr := if tg.current then { d := tg.id, q := tg.iq, tclip := false, wclip := false } else mapReference s t tg.torque we w
  -- step 4: field weakening and the current limit
  let lim := iLimit s t
  let d0 := if tg.current then mr.d else mr.d + c.xfw
  let idr := clampQ (-lim) lim d0
  let ql := sqrtQ (lim * lim - idr * idr)
  let iqr := clampQ (-ql) ql mr.q
  -- step 5: the controllers
  let ed := idr - i.1
  let eq := iqr - i.2
  let xd := c.xd + s.pf 0x30 n 80 * ts * ed
  let xq := c.xq + s.pf 0x30 n 88 * ts * eq
  let six := decide (s.pu 0x30 n 0 = 2)
  let ov := s.oview.get t.other
  let id2 := if six then ov.id else 0
  let iq2 := if six then ov.iq else 0
  let cr := ffEn.testBit 0
  let be := ffEn.testBit 1
  let ffd := s.pf 0x30 n 52 * idr - (if cr then we * (s.pf 0x30 n 60 * i.2 + s.pf 0x30 n 72 * iq2) else 0)
  let ffq := s.pf 0x30 n 52 * iqr + (if cr then we * (s.pf 0x30 n 56 * i.1 + s.pf 0x30 n 68 * id2) else 0) + (if be then we * s.pf 0x30 n 64 else 0)
  let vd0 := s.pf 0x30 n 76 * ed + xd + ffd
  let vq0 := s.pf 0x30 n 84 * eq + xq + ffq
  let mCmd := divQ (sqrtQ (3 * (vd0 * vd0 + vq0 * vq0))) vdc
  let mMax := s.pf 0x30 n 120
  let vlim := mMax * vdc / sqrt3
  let d := axisLimit vlim vd0 (s.pf 0x30 n 76) ed xd ffd
  let q := axisLimit (sqrtQ (vlim * vlim - d.1 * d.1)) vq0 (s.pf 0x30 n 84) eq xq ffq
  let m := minQ mCmd mMax
  -- step 6: field weakening and learning
  let fwOn := ffEn.testBit 5 && !tg.current
  let xfw := if fwOn then clampQ (-(s.pf 0x30 n 132)) 0 (c.xfw + s.pf 0x30 n 128 * ts * (s.pf 0x30 n 124 - mCmd)) else c.xfw
  let idb := s.pf 0x30 n 104
  let learn := ffEn.testBit 3 && !tg.current && decide (m ≤ 1) && !belowTwoPi (absQ we) 20 && decide (16 * idb * idb ≤ i.1 * i.1 + i.2 * i.2)
  let sgn3 := dq (sgnQ iu) (sgnQ iv) (sgnQ iw) th
  let c1 := { c with xd := d.2, xq := q.2, xfw := xfw, w0 := w.1, w1 := w.2.1, w2 := w.2.2, band := band, fresh := false, vdc := vdc, staleRun := c.staleRun }
  let c2 := if learn then learnStep (s.pf 0x30 n 100) ts vdc c1 sgn3.1 sgn3.2 else c1
  -- steps 7 and 8: inverse transform and modulation
  let off : Q := ((if gr.rising then s.pi 0x20 t.grp 28 else s.pi 0x20 t.grp 32 : Int) : Q) / 10240000000
  let thO := ang ((th : Int) + roundQ (we * (3 / 2 * ts - off) * 2 ^ 31 / piQ))
  let va := d.1 * cosA thO - q.1 * sinA thO
  let vb := d.1 * sinA thO + q.1 * cosA thO
  let comp := ffEn.testBit 2 && decide (m ≤ 1)
  let cx (x : Q) : Q := if comp then clampQ (-1) 1 (divQ x idb) else 0
  let es := modulate p2 vdc m va vb (cx iu) (cx iv) (cx iw) c2.tcomp
  -- steps 9 and 10: latch register and commit
  let view := { pr with id := i.1, iq := i.2, idRef := idr, iqRef := iqr, vd := d.1, vq := q.1, mCmd := mCmd, m := m, ovm := regionOf m, fwAct := decide (xfw < 0), ilimAct := decide (d0 ≠ idr ∨ mr.q ≠ iqr), tclip := mr.tclip, wclip := mr.wclip, learn := learn, theta := th, we := we, lateLast := false, lateRun := 0 }
  let s := { s with octl := s.octl.put t c2, oview := s.oview.put t view, pwm := s.pwm.put t.grp { gr with next := some es } }
  let s := if (mr.tclip && !pr.tclip) || (mr.wclip && !pr.wclip) then raise 0x1806 n 0 s else s
  if aboveTwoPi (absQ we) (s.pf 0x30 n 136) then raise 0x1807 n 0 s else s

/-- The V_dc of an update: the sample, or the last valid one while it is stale, with 0x1805 at the third (R158). -/
def takeVdc (t : TSet) (v : Option Q) (s : State) : Q × State :=
  let c := s.octl.get t
  match v with
  | some x => (x, { s with octl := s.octl.put t { c with staleRun := 0 } })
  | none =>
    let s := { s with octl := s.octl.put t { c with staleRun := c.staleRun + 1 } }
    (c.vdc, if c.staleRun + 1 = 3 then raise 0x1805 t.num 0 s else s)

/-- The ΣΔ samples that the update's own trigger brings (R143, R145, R157): taken when the trigger of the running half is enabled and every
used channel has its window. -/
def takeSd (t : TSet) (ws : List SdWindow) (s : State) : State :=
  let gr := s.pwm.get t.grp
  let en := s.pu 0x20 t.grp 36
  let fires := if gr.latched then en.testBit (if gr.rising then 0 else 1) else decide (en % 4 ≠ 0)
  let v (k : Nat) : Option Q := ws[k]?.bind (sdSample s t.grp)
  let x : Option Q := if s.pu 0x30 t.num 16 = 1 then v 3 else some 0
  match v 0, v 1, v 2, x with
  | some u, some v, some w, some x => if fires then takeSamples t u v w x s else s
  | _, _, _, _ => s

/-- ORRERY_UPDATE: the steps of R163 in order for a running set whose start trim is complete. -/
def execOrreryUpdate (t : TSet) (x : OrrIn) (s : State) : Host.Outcome State Fault Refusal :=
  if (s.orr.get t).running = false then .next s
  else
    let s := if s.pu 0x30 t.num 8 = 1 then takeSd t x.sd s else s
    if (s.orr.get t).trimLeft ≠ 0 then .next s
    else
      let vs := takeVdc t (if s.dieStale .one then none else x.vdc) s
      let win := zeroWindow vs.2 t && trimEnabled vs.2 t
      let s := updateCore t vs.1 x.dt vs.2
      .next (if win then trimWindow t s else s)

/-- A late update: the previous E values are held, LATE_RUN and LATE_TOTAL count, LATE_LAST is set, and a run of three raises 0x1801
(R27, R164, R179). -/
def orrLate (t : TSet) (s : State) : State :=
  if (s.orr.get t).running = false then s
  else
    let v := s.oview.get t
    let s := { s with oview := s.oview.put t { v with lateLast := true, lateRun := satInc 8 v.lateRun, lateTotal := satInc 16 v.lateTotal }, pwm := s.pwm.upd t.grp (fun g => { g with next := none, lateLast := true }) }
    if v.lateRun + 1 = 3 then raise 0x1801 t.num 0 s else s

/-- ORRERY_DEADLINE_MISS: the update is late (R27). -/
def execOrreryDeadlineMiss (t : TSet) (s : State) : Host.Outcome State Fault Refusal := .next (orrLate t s)

end Sys2Proof.Machine
end

