-- ==== Sys2Proof/Machine/Charger.lean ====
section
/-! DEFINITION. Charger stage control (10_charger_stages.md). -/

namespace Sys2Proof.Machine

/-! ## Grid sensing (R270, R271) -/

/-- The input wiring (INPUT of the PFC record). -/
def obcInput (s : State) : Nat := s.pu 0x50 0 0

/-- One set of PFC samples: voltages in V, currents as fractions of the modulator's range (R266). -/
structure PfcVals where
  v1 : Q
  v2 : Q
  v3 : Q
  i1 : Q
  i2 : Q
  i3 : Q
  deriving DecidableEq, Repr

/-- Single-phase operation. -/
def singlePhase (s : State) : Bool := decide (obcInput s = 2)

/-- The time between PFC updates, s: half a carrier period of group 3, or a whole one where TRIG_EN enables one trigger (R129, R268). -/
def pfcTs (s : State) : Q := ((if s.pu 0x20 3 36 = 3 then s.pu 0x20 3 12 / 2 else s.pu 0x20 3 12 : Nat) : Q) / 10240000000

/-- Samples in a quarter of the measured line period. -/
def quarter (s : State) : Nat :=
  if s.grid.w = 0 then 0 else roundN (divQ (piQ / 2) (s.grid.w * pfcTs s))

/-- α and β of the grid voltage: the transform of R164, or α and its quarter-period delay, where the newest sample stands first (R271). -/
def gridAB (s : State) (x : PfcVals) : Q × Q :=
  if singlePhase s then (x.v1, s.grid.histV.getD (quarter s) 0)
  else ((2 * x.v1 - x.v2 - x.v3) / 3, if x.v2 = x.v3 then 0 else (x.v2 - x.v3) / sqrt3)

/-- The mean of the used phase RMS values. -/
def vRms (s : State) : Q := if singlePhase s then s.grid.rms1 else (s.grid.rms1 + s.grid.rms2 + s.grid.rms3) / 3

/-- Every used phase RMS lies in the window. -/
def rmsOk (s : State) : Bool :=
  let ok (v : Q) := decide (s.pf 0x50 0 52 ≤ v ∧ v ≤ s.pf 0x50 0 56)
  ok s.grid.rms1 && (singlePhase s || (ok s.grid.rms2 && ok s.grid.rms3))

/-- The grid frequency lies in the window. -/
def freqOk (s : State) : Bool := !belowTwoPi s.grid.w (s.pf 0x50 0 60) && !aboveTwoPi s.grid.w (s.pf 0x50 0 64)

/-- The samples of an update join what single-phase operation looks back on: a half line period has at most 3,112 of them (R271, R272). -/
def noteHist (x : PfcVals) (s : State) : State :=
  let keep (l : List Q) (v : Q) := if singlePhase s then (v :: l).take 3200 else []
  { s with grid := { s.grid with histV := keep s.grid.histV x.v1, histI := keep s.grid.histI ((x.i1 + x.i2) * s.pf 0x50 0 8), histB := keep s.grid.histB s.dab.vbus } }

/-- The charger runs. -/
def chargerRuns (s : State) : Bool := decide (s.pfc.st ≠ 0 ∨ s.dab.st ≠ 0)

/-- The end of a line cycle: the RMS values, the target of R283 and the two-cycle rule of GRID_OK on the grid window, RMS and
frequency (R271, R290). -/
def endCycle (s : State) : State :=
  let g := s.grid
  let n : Q := max g.n 1
  let s := { s with grid := { g with rms1 := sqrtQ (g.q1 / n), rms2 := sqrtQ (g.q2 / n), rms3 := sqrtQ (g.q3 / n), n := 0, q1 := 0, q2 := 0, q3 := 0 } }
  if rmsOk s && freqOk s then { s with grid := { s.grid with badCycles := 0 } }
  else
    let b := s.grid.badCycles + 1
    let s := { s with grid := { s.grid with badCycles := b, okT := 0 } }
    if b = 2 ∧ s.grid.ok = true then
      let s := { s with grid := { s.grid with ok := false } }
      if chargerRuns s then raise 0x3004 0 0 s else s
    else s

/-- The faults 0x3004 and 0x3005 clear once GRID_OK and PLL_LOCK are set again (R289). -/
def gridRecovered (s : State) : State := if s.grid.ok && s.grid.lock then clearF 0x3005 0 (clearF 0x3004 0 s) else s

/-- The PLL step of one PFC update: type II, 30 Hz, damping 0.7, and the flags of R271. -/
def pllStep (x : PfcVals) (s : State) : State :=
  let ab := gridAB s x
  let g := s.grid
  let ts := pfcTs s
  let mag := sqrtQ (ab.1 * ab.1 + ab.2 * ab.2)
  let eps := divQ (ab.2 * cosA g.theta - ab.1 * sinA g.theta) mag
  let ahead := decide (0 < ab.1 * cosA g.theta + ab.2 * sinA g.theta)
  let wn := if eps = 0 then 0 else 60 * piQ
  let w := g.w + wn * wn * ts * eps
  let th := (g.theta : Int) + radToAng (ts * (w + 14 / 10 * wn * eps))
  let wrap := decide (th < 0 ∨ 2 ^ 32 ≤ th)
  let inF := !belowTwoPi w (s.pf 0x50 0 60) && !aboveTwoPi w (s.pf 0x50 0 64)
  let fine := inF && ahead && decide (absQ eps < sinA 23860929)
  let lockT := if fine then g.lockT + ts else 0
  let errT := if ahead = false ∨ sinA 119304647 < absQ eps then g.errT + ts else 0
  let lost := g.lock && decide (1 / 200 ≤ errT)
  let lock := if lost then false else g.lock || decide (1 / 5 ≤ lockT)
  let s := { s with grid := { g with theta := ang th, w := w, lock := lock, lockT := lockT, errT := errT, n := g.n + 1, q1 := g.q1 + x.v1 * x.v1, q2 := g.q2 + x.v2 * x.v2, q3 := g.q3 + x.v3 * x.v3 } }
  let s := if wrap then endCycle s else s
  let okT := if s.grid.lock && rmsOk s then s.grid.okT + ts else 0
  let s := { s with grid := { s.grid with okT := okT, ok := s.grid.ok || decide (1 ≤ okT) } }
  let s := if lost && chargerRuns s then raise 0x3005 0 0 s else s
  gridRecovered s

/-! ## PFC control (R272 to R275, R283, R286) -/

/-- The bus target of R283. -/
def busTarget (s : State) : Q :=
  let v := vRms s
  let k : Q := if singlePhase s then 121 / 50 else 363 / 50
  maxQ (s.pf 0x50 0 32) (sqrtQ (k * v * v))

/-- I_lim of R273 forward; in reverse I_REV_SC and the current of P_REV_MAX (R286), with the terms of R273 that no grid or vehicle-role session
gives: I_AC_MAX and the Conservator's limit (log entry 64). -/
def acLimit (s : State) : Q :=
  let m (o : Option Q) (x : Q) := match o with
    | some l => minQ x l
    | none => x
  if s.pfc.dir = 1 then
    let v := s.pf 0x50 0 80
    minQ (minQ (s.pf 0x50 0 100) (m (s.thmLimit 3) (s.pf 0x50 0 40))) (divQ (sqrtQ 2 * s.pf 0x50 0 88) ((if singlePhase s then 1 else 3) * v))
  else
    let a := m (s.thmLimit 3) (m s.obcT.iAc (s.pf 0x50 0 40))
    minQ a (divQ (sqrtQ 2 * s.pf 0x50 0 76) ((if singlePhase s then 1 else 3) * vRms s))

/-- The E values of a PFC update from the converter vector (R274), or those of single-phase operation (R275; the duty of
a leg against leg 3 is log entry 13). -/
def pfcValues (s : State) (vca vcb i1 i2 : Q) (leg3 : Bool) : List Nat :=
  let p2 := s.pu 0x20 3 12 / 2
  let vb := s.dab.vbus
  if singlePhase s then
    let k := s.pf 0x50 0 16 * (i1 - i2) / 2
    let e (v : Q) : Nat := let d := clampQ 0 1 (divQ v vb + (if leg3 then 1 else 0)); roundN (d * p2)
    [e (vca - k), e (vca + k), if leg3 then p2 else 0]
  else
    let p := phases vca vcb
    let sp := spread p.1 p.2.1 p.2.2
    let v0 := -(sp.1 + sp.2) / 2
    [legE p2 vb p.1 v0 0, legE p2 vb p.2.1 v0 0, legE p2 vb p.2.2 v0 0]

/-- Leg 3 of single-phase operation changes state at the first update with |v_1| below 10 V after a zero crossing. -/
def leg3Next (s : State) (v1 : Q) : Bool := if absQ v1 < 10 then decide (v1 < 0) else s.pfc.leg3

/-- Steps 1 to 8 of R272 forward, or the voltage loop of R286 and steps 4 to 8 in reverse. -/
def pfcCore (x : PfcVals) (s : State) : State :=
  let p := s.pfc
  let ts := pfcTs s
  let rev := decide (p.dir = 1)
  let i1 := x.i1 * s.pf 0x50 0 8
  let i2 := x.i2 * s.pf 0x50 0 8
  let i3 := x.i3 * s.pf 0x50 0 8
  let th := s.grid.theta
  let wg := s.grid.w
  let iab : Q × Q := if singlePhase s then (i1 + i2, s.grid.histI.getD (quarter s) 0) else ((2 * i1 - i2 - i3) / 3, if i2 = i3 then 0 else (i2 - i3) / sqrt3)
  let i := (iab.1 * cosA th + iab.2 * sinA th, -iab.1 * sinA th + iab.2 * cosA th)
  let ab := gridAB s x
  let v := (ab.1 * cosA th + ab.2 * sinA th, -ab.1 * sinA th + ab.2 * cosA th)
  let lim := acLimit s
  -- the bus loop, or the AC voltage loop
  let vb := if singlePhase s then meanQ (s.grid.histB.take (2 * quarter s)) else s.dab.vbus
  let tgt := if rev then p.busRef else if p.st = 2 then stepToward (s.pf 0x50 0 36 * ts) p.busRef (busTarget s) else busTarget s
  let ev := tgt - vb
  let xv0 := p.xv + s.pf 0x50 0 28 * ts * ev
  let ff := divQ (2 / 3 * s.dab.pBat) v.1
  let vdRef := stepToward (divQ (sqrtQ 2 * s.pf 0x50 0 80 * ts) (1 / 10)) p.vdRef (sqrtQ 2 * s.pf 0x50 0 80)
  let xvd := p.xvd + s.pf 0x50 0 96 * ts * (vdRef - v.1)
  let xvq := p.xvq + s.pf 0x50 0 96 * ts * (0 - v.2)
  let id0 := if rev then s.pf 0x50 0 92 * (vdRef - v.1) + xvd else s.pf 0x50 0 24 * ev + xv0 + ff
  let iq0 := if rev then s.pf 0x50 0 92 * (0 - v.2) + xvq else s.obcT.reactive
  let idr := clampQ (-lim) lim id0
  let xv := if rev then p.xv else if id0 = idr then xv0 else idr - s.pf 0x50 0 24 * ev - ff
  let ql := sqrtQ (lim * lim - idr * idr)
  let iqr := clampQ (-ql) ql iq0
  -- the current loops and the vector limit
  let kp := s.pf 0x50 0 16
  let ki := s.pf 0x50 0 20
  let l := s.pf 0x50 0 12
  let xd0 := p.xd + ki * ts * (idr - i.1)
  let xq0 := p.xq + ki * ts * (iqr - i.2)
  let cd0 := v.1 - (kp * (idr - i.1) + xd0) + wg * l * i.2
  let cq0 := v.2 - (kp * (iqr - i.2) + xq0) - wg * l * i.1
  let vl := s.dab.vbus / sqrt3
  let cd := clampQ (-vl) vl cd0
  let xd := if cd = cd0 then xd0 else v.1 + wg * l * i.2 - cd - kp * (idr - i.1)
  let vq := sqrtQ (vl * vl - cd * cd)
  let cq := clampQ (-vq) vq cq0
  let xq := if cq = cq0 then xq0 else v.2 - wg * l * i.1 - cq - kp * (iqr - i.2)
  let l3 := leg3Next s x.v1
  let es := pfcValues s (cd * cosA th - cq * sinA th) (cd * sinA th + cq * cosA th) i1 i2 l3
  { s with pfc := { p with busRef := tgt, xv := xv, xd := xd, xq := xq, xvd := if rev then xvd else p.xvd, xvq := if rev then xvq else p.xvq, id := i.1, iq := i.2, vd := v.1, ilim := decide (id0 ≠ idr ∨ iq0 ≠ iqr), vdRef := if rev then vdRef else p.vdRef, outReady := rev && decide (vdRef = sqrtQ 2 * s.pf 0x50 0 80), leg3 := l3 },
           pwm := s.pwm.upd 3 (fun g => { g with next := some es }) }

/-- A stale sample of sense die 2 at a trigger; the third in a row raises 0x300F for the stage of the update, 0 the PFC and 1 the DAB, while
the charger `runs` (R287, R291). -/
def staleDie2 (stage : Nat) (runs : Bool) (s : State) : State :=
  if s.dc.stale2 then
    let n := s.pfc.stale + 1
    let s := { s with pfc := { s.pfc with stale := n } }
    if 3 ≤ n ∧ runs = true then raise 0x300F stage 0 s else s
  else { s with pfc := { s.pfc with stale := 0 } }

/-- A charger ΣΔ sample of a group: its sinc3 output, or the value before it while the window gives none (R145, R266). -/
def sdOr (s : State) (g : Grp) (w : SdWindow) (old : Q) : Q := (sdSample s g w).getD old

/-- The samples of a PFC update; a leg current without a window keeps its value, and without an input i_3 is −i_1 − i_2 (R267). -/
def pfcVals (s : State) (x : PfcIn) : PfcVals :=
  let fs := s.pf 0x50 0 8
  let v : PfcVals := { v1 := x.v1, v2 := x.v2, v3 := x.v3, i1 := sdOr s 3 x.i1 (divQ s.pfc.ia fs), i2 := sdOr s 3 x.i2 (divQ s.pfc.ib fs), i3 := sdOr s 3 x.i3 (divQ s.pfc.ic fs) }
  if s.pb 0x50 0 6 1 = 0xFF then { v with i3 := -v.i1 - v.i2 } else v

/-- A trigger of group 3 fires: while the carrier runs as for any group, else wherever TRIG_EN enables it, for the grid is tracked before
a start too (R129, R143, R271, R282). -/
def pfcFires (s : State) (tr : Trig) : Bool :=
  if (s.pwm.get 3).running then trigFires s 3 tr else (s.pu 0x20 3 36).testBit (match tr with | .valley => 0 | .peak => 1)

/-- While the PFC does not switch, leg 3 of single-phase operation is set to start on the side that the sign of v_1 asks for (R275). -/
def leg3Idle (x : PfcVals) (s : State) : State := { s with pfc := { s.pfc with leg3 := decide (x.v1 < 0) } }

/-- PFC_UPDATE: the samples of a trigger that TRIG_EN enables; every update steps the PLL (in reverse the angle advances at 2π × F_REV); while the PFC switches the
control of R272 or R286 runs and the leg values are written. -/
def execPfcUpdate (tr : Trig) (x : PfcIn) (s : State) : Host.Outcome State Fault Refusal :=
  if s.fn 3 = false ∨ pfcFires s tr = false then .next s
  else
    let fs := s.pf 0x50 0 8
    let x := pfcVals s x
    let s := noteHist x (staleDie2 0 (chargerRuns s) { s with pfc := { s.pfc with ia := x.i1 * fs, ib := x.i2 * fs, ic := x.i3 * fs, lateRun := 0 } })
    let s := if s.pfc.dir = 1 ∧ chargerRuns s = true then
        { s with grid := { s.grid with theta := ang ((s.grid.theta : Int) + roundQ (s.pf 0x50 0 84 * pfcTs s * 2 ^ 32)), w := 2 * piQ * s.pf 0x50 0 84 } }
      else pllStep x s
    if (s.pfc.dir = 0 ∧ (s.pfc.st = 2 ∨ s.pfc.st = 3)) ∨ s.pfc.st = 4 then .next (pfcCore x s) else .next (leg3Idle x s)

/-! ## DAB control (R276 to R279, R285, R288) -/

/-- δ_ff of R277. -/
def deltaFf (s : State) (preq : Q) : Q :=
  let f := divQ 10240000000 (s.pu 0x20 4 12)
  let arg := 1 - divQ (8 * f * s.pf 0x50 1 20 * absQ preq) (s.dab.vbus * s.pf 0x50 1 16 * s.vMax)
  let d := (1 - sqrtQ arg) / 2
  let m := s.pf 0x50 1 48
  clampQ (-m) m (d * sgnQ preq)

/-- The inner shifts D_p and D_s (R276). -/
def innerShifts (s : State) : Nat × Nat :=
  if s.pu 0x50 1 52 = 0 then (0, 0)
  else
    let p := s.pu 0x20 4 12
    let a := s.dab.vbus
    let b := s.pf 0x50 1 16 * s.vMax
    let d (lo hi : Q) : Nat := min (roundN ((p : Q) / 2 * (1 - divQ lo hi))) (p / 4)
    if b < a then (d b a, 0) else if a < b then (0, d a b) else (0, 0)

/-- The leg offsets of R276 for an outer shift. -/
def dabOffsets (p : Nat) (phi : Int) (dp ds : Nat) : List Nat :=
  let m (x : Int) : Nat := (x % (max p 1 : Nat)).toNat
  [0, p / 2 - dp, m phi, m (phi + (p / 2 : Nat) - ds)]

/-- Write the offsets of a δ and commit it. -/
def writeDelta (d : Q) (s : State) : State :=
  let p := s.pu 0x20 4 12
  let phi := roundQ (d * p / 2)
  let sh := innerShifts s
  { s with dab := { s.dab with delta := d, phi := phi, dp := sh.1, ds := sh.2, pBat := s.vMax * s.dab.ibat }, pwm := s.pwm.upd 4 (fun g => { g with next := some (dabOffsets p phi sh.1 sh.2) }) }

/-- One forward DAB update (R278): Europa's target moves at the rate it writes (R282, R332), the Conservator's limit acts at once (R357). The one that ends the ramp of a stop on request turns both groups off (R281). -/
def dabForward (s : State) : State :=
  let b := s.dab
  let t : Q := (s.pu 0x20 4 12 : Q) / 10240000000
  let g := clampQ 0 1 ((b.vbus - (s.pf 0x50 0 32 - 60)) / 40)
  let now := match b.stopRamp with
    | some r => stepToward (r * t) b.iCmd 0
    | none => minQ (stepToward (s.obcT.rate * t) b.iCmd s.obcT.iBat) (maxQ 0 s.chg.iReq)
  let cap := match s.thmLimit 4 with
    | some l => minQ now l
    | none => now
  let iCmd := cap * g
  let ev := s.obcT.vBat - s.vMax
  let xvb0 := b.xvb + s.pf 0x50 1 36 * t * ev
  let iv0 := s.pf 0x50 1 32 * ev + xvb0
  let xvb := if iCmd < iv0 then iCmd - s.pf 0x50 1 32 * ev else xvb0
  let iv := minQ iv0 iCmd
  let iRef := minQ iCmd iv
  let ei := iRef - b.ibat
  let xc0 := b.xc + s.pf 0x50 1 28 * t * ei
  let ff := deltaFf s (s.vMax * iRef)
  let d0 := ff + s.pf 0x50 1 24 * ei + xc0
  let m := s.pf 0x50 1 48
  let d := clampQ (-m) m d0
  let xc := if d = d0 then xc0 else d - ff - s.pf 0x50 1 24 * ei
  let s := writeDelta d { s with dab := { b with st := if iv < iCmd then 3 else 2, xvb := xvb, xc := xc, sag := decide (g < 1), iCmd := now } }
  if b.stopRamp.isSome && decide (now = 0) then stopCharger s else s

/-- One reverse DAB update in bus mode (R285): a discharge limit bounds the shift by that of R277 at the limit (log entry 13). -/
def dabReverse (s : State) : State :=
  let b := s.dab
  let t : Q := (s.pu 0x20 4 12 : Q) / 10240000000
  let tgt := stepToward (s.pf 0x50 0 36 * t) s.pfc.busRef (s.pf 0x50 0 32)
  let e := tgt - b.vbus
  let x0 := b.xc + s.pf 0x50 1 44 * t * e
  let ff := deltaFf s (3 / 2 * s.pfc.vd * s.pfc.id)
  let m0 := ff + s.pf 0x50 1 40 * e + x0
  let lim := s.pf 0x50 1 48
  let m1 := clampQ (-lim) lim m0
  let m2 := match s.obcT.iDis with
    | some l => minQ m1 (deltaFf s (s.vMax * l))
    | none => m1
  let x := if m2 = m0 then x0 else m2 - ff - s.pf 0x50 1 40 * e
  writeDelta (-m2) { s with dab := { b with st := 4, xc := x }, pfc := { s.pfc with busRef := tgt } }

/-- r of R288 over the last 16 updates, once the window is full. -/
def lossRate (s : State) : Option Q :=
  match s.dab.win.head?, s.dab.win.getD 16 (0, 0), decide (17 ≤ s.dab.win.length) with
  | some a, b, true =>
    let tw : Q := 16 * (s.pu 0x20 4 12 : Q) / 10240000000
    some (divQ (a.1 - b.1 - s.pf 0x50 1 64 * (a.2 - b.2)) tw)
  | _, _, _ => none

/-- The battery-loss decision of R288 and the reverse-current check of R287 after an update's samples. -/
def dabProtect (s : State) : State :=
  let b := s.dab
  let t : Q := (s.pu 0x20 4 12 : Q) / 10240000000
  let win := ((s.vMax, b.ibat) :: b.win).take 17
  let s := { s with dab := { b with win := win } }
  let r := lossRate s
  let rev := decide (s.pfc.dir = 1)
  let revT := if !rev && decide (b.ibat < -(s.pf 0x50 1 76)) then b.revT + t else 0
  let s := { s with dab := { s.dab with loss := r.getD 0, revT := revT } }
  let lost := match r with
    | some r => if rev then decide (r < -(s.pf 0x50 1 60) ∧ b.ibat < -(s.pf 0x50 1 68)) else decide (s.pf 0x50 1 60 < r ∧ s.pf 0x50 1 68 < b.ibat)
    | none => false
  let s := if lost then raise 0x300A 1 0 s else s
  if 1 / 1000 ≤ revT then raise 0x300C 1 0 s else s

/-- DAB_UPDATE: the samples, then while the DAB switches the protections of R287 and R288, every cause found in the update being raised
(R280), and the loops of R278 or R285. -/
def execDabUpdate (vBus iBat : SdWindow) (s : State) : Host.Outcome State Fault Refusal :=
  if s.fn 4 = false then .next s
  else
    let vb := match sdSample s 4 vBus with
      | some v => v * s.pf 0x50 1 12
      | none => s.dab.vbus
    let ib := match sdSample s 4 iBat with
      | some v => v * s.pf 0x50 1 4
      | none => s.dab.ibat
    let s := { s with dab := { s.dab with vbus := vb, ibat := ib, lateRun := 0 } }
    let runs := chargerRuns s
    let s := if 2 ≤ s.dab.st then dabProtect s else s
    let s := staleDie2 1 runs s
    if s.dab.st = 2 ∨ s.dab.st = 3 then .next (dabForward s)
    else if s.dab.st = 4 then .next (dabReverse s)
    else .next s

/-- CHARGER_DEADLINE_MISS: a late stage keeps its previous value; three in a row stop the charger with 0x300E (R269). -/
def execChargerDeadlineMiss (dab : Bool) (s : State) : Host.Outcome State Fault Refusal :=
  if chargerRuns s = false then .next s
  else if dab then
    let n := s.dab.lateRun + 1
    let s := { s with dab := { s.dab with lateRun := min n 255, lateTotal := satInc 8 s.dab.lateTotal }, pwm := s.pwm.upd 4 (fun g => { g with next := none, lateLast := true }) }
    .next (if 3 ≤ n then raise 0x300E 1 0 s else s)
  else
    let n := s.pfc.lateRun + 1
    let s := { s with pfc := { s.pfc with lateRun := min n 255, lateTotal := satInc 8 s.pfc.lateTotal }, pwm := s.pwm.upd 3 (fun g => { g with next := none, lateLast := true }) }
    .next (if 3 ≤ n then raise 0x300E 0 0 s else s)

/-! ## Stops and starts (R280 to R284, R289) -/

/-- CHARGER_FAULT_STOP: a charger fault of R291 is raised; its reaction turns every output of groups 3 and 4 off (R281). -/
def execChargerFaultStop (code : Nat) (s : State) : Host.Outcome State Fault Refusal :=
  if 0x3001 ≤ code ∧ code ≤ 0x3010 ∧ s.fn 3 = true then
    .next (stopCharger (raise code (if code = 0x3008 ∨ code = 0x3009 ∨ code = 0x300A ∨ code = 0x300B ∨ code = 0x300C then 1 else 0) 0 s))
  else .next s

/-- CHARGER_STOP_REQUEST: the DAB current is ramped to 0, both groups turn off, the relays open as for a fault (R281). -/
def execChargerStopRequest (s : State) : Host.Outcome State Fault Refusal :=
  if chargerRuns s then .next (requestStop s) else .next s

/-- The HSO output of the precharge or main relay (HSO_SEL). -/
def relayHso (s : State) (main : Bool) : Fin 6 := ⟨s.pb 0x50 0 (if main then 69 else 68) 1 % 6, Nat.mod_lt _ (by decide)⟩

/-- Command a charger relay: its HSO output follows (R282). -/
def cmdRelay (main close : Bool) (s : State) : State :=
  let s := { s with saf := { s.saf with hso := s.saf.hso.put (relayHso s main) close } }
  if main then { s with pfc := { s.pfc with mainCmd := close } } else { s with pfc := { s.pfc with preCmd := close } }

/-- MAIN_RELAY_OPEN: after a stop, with every current below 1 A or after 20 ms, the relays are commanded open; never
while a PFC leg switches (R281). -/
def execMainRelayOpen (iMax : Q) (elapsedMs : Nat) (s : State) : Host.Outcome State Fault Refusal :=
  if s.pfc.st = 5 ∧ (s.pwm.get 3).running = false ∧ (iMax < 1 ∨ 20 ≤ elapsedMs) then
    let s := cmdRelay false false (cmdRelay true false s)
    .next { s with pfc := { s.pfc with st := 0 } }
  else .next s

/-- The faults that a start request of Europa clears (R289). -/
def clearStartFaults (s : State) : State :=
  [0x3001, 0x3002, 0x3003, 0x3006, 0x3007, 0x3008, 0x3009, 0x300A, 0x300B, 0x300C, 0x300D, 0x300E, 0x300F, 0x3010].foldl (fun s c => clearF c 1 (clearF c 0 s)) s

/-- Groups 3 and 4 start their carriers with every leg off (R139, R282); group 3 with ANCHOR 1 waits for its own start at a t_k (R150). -/
def startCarriers (s : State) : State :=
  let on (g : Grp) (s : State) : State :=
    let s := (grpChans g).foldl stopChan s
    { s with pwm := s.pwm.put g { PwmGrp.reset with running := true, period := s.pu 0x20 g 12, e := List.replicate (if g = 3 then 3 else 4) 0, target := List.replicate (if g = 3 then 3 else 4) 0, minp := (s.pwm.get g).minp, clip := (s.pwm.get g).clip } }
  let s := on 4 (if s.pu 0x20 3 40 = 1 then (grpChans 3).foldl stopChan s else on 3 s)
  { s with pfc := { s.pfc with lateRun := 0, stale := 0 }, dab := { s.dab with lateRun := 0, stopRamp := none } }

/-- FORWARD_START: Europa's request clears the faults of R289 and, in CHARGE with GRID_OK, starts: carriers with the legs
off, precharge relay commanded closed (R282). -/
def execForwardStart (s : State) : Host.Outcome State Fault Refusal :=
  if s.fn 3 = false then .next s
  else
    let s := clearStartFaults s
    if s.sys.mode = .charge ∧ s.grid.ok = true ∧ chargerRuns s = false ∧ s.chargerBlocked = false then
      let s := startCarriers s
      .next (cmdRelay false true { s with pfc := { s.pfc with st := 1, dir := 0, busOk := false, vStart := vRms s, xv := 0, xd := 0, xq := 0 }, dab := { s.dab with st := 1, xvb := 0, xc := 0, delta := 0, phi := 0, iCmd := 0, win := [], loss := 0, revT := 0 } })
    else .next s

/-- REVERSE_START: refused while V_AC_REV, F_REV or P_REV_MAX is 0; with V_dc,max inside the DC-link window the carriers start and the
DAB brings the bus up in bus mode (R284). -/
def execReverseStart (s : State) : Host.Outcome State Fault Refusal :=
  if s.fn 3 = false then .next s
  else
    let s := clearStartFaults s
    if s.sys.mode = .charge ∧ s.pf 0x50 0 80 ≠ 0 ∧ s.pf 0x50 0 84 ≠ 0 ∧ s.pf 0x50 0 88 ≠ 0 ∧ s.pf 3 0 0 ≤ s.vMax ∧ s.vMax ≤ s.pf 3 0 4 ∧ chargerRuns s = false ∧ s.chargerBlocked = false
        ∧ (s.chg.role ≠ 3 ∨ (s.chg.cp = 1 ∧ s.chg.pilot = 1) ∨ (s.chg.cp = 2 ∧ s.chg.pilot = 2)) then
      let s := startCarriers s
      .next { s with pfc := { s.pfc with st := 2, dir := 1, busOk := false, busRef := s.dab.vbus, ramp0 := s.dab.vbus, xd := 0, xq := 0, xvd := 0, xvq := 0, vdRef := 0, outReady := false }, dab := { s.dab with st := 4, xvb := 0, xc := 0, delta := 0, phi := 0, win := [], loss := 0, revT := 0 } }
    else .next s

/-- I_PP of a cable code, A. -/
def ppAmps : Nat → Q
  | 1 => 13
  | 2 => 20
  | 3 => 32
  | 4 => 63
  | _ => 0

/-- The number of used phases. -/
def nPhase (s : State) : Q := if singlePhase s then 1 else 3

/-- The reverse output current per phase, P_REV_MAX / (n × V_AC_REV). -/
def revAmps (s : State) : Q := divQ (s.pf 0x50 0 88) (nPhase s * s.pf 0x50 0 80)

/-- I_off of R341. -/
def offerAmps (s : State) : Q := minQ (s.pf 0x60 0 72) (minQ (ppAmps s.chg.pp) (revAmps s))

/-- R341 step 4: the pilot oscillates at 1 kHz with D = I_off / 0.6 A, rounded down to 0.1 %. -/
def pilotOscillate (s : State) : State := { s with chg := { s.chg with pilot := 2, pilotDuty := floorN (offerAmps s * 50 / 3) } }

/-- Step 4 of R284: the main relay closes unless AC is present, which raises 0x3010 and stops the charger. -/
def reverseMain (s : State) : State :=
  if s.sup.acPresent then stopCharger (raise 0x3010 0 0 s) else cmdRelay true true s

/-- The next step of a start after a confirmed relay (R282, R284). -/
def relayStep (s : State) : State :=
  let p := s.pfc
  if p.dir = 0 ∧ p.st = 1 ∧ p.mainCmd = true ∧ p.main = true ∧ p.preCmd = true then cmdRelay false false s
  else if p.dir = 0 ∧ p.st = 1 ∧ p.mainCmd = true ∧ p.main = true ∧ p.pre = false ∧ p.preCmd = false then { s with pfc := { p with st := 2, busRef := s.dab.vbus, ramp0 := s.dab.vbus } }
  else if p.dir = 1 ∧ p.st = 2 ∧ p.busOk = true ∧ p.mainCmd = true ∧ p.main = true then { s with pfc := { p with st := 4, vdRef := 0 } }
  else s

/-- The HSO output of the role relay (R319); none where ROLE_HSO is 0xFF. -/
def roleHso (s : State) : Option (Fin 6) :=
  let n := s.pu 0x60 0 0
  if h : n < 6 then (if s.fn 9 then some ⟨n, h⟩ else none) else none

/-- The feedback of the role relay: a confirmed energised relay starts the static +12 V pilot of the supply role (R319, R341). -/
def roleRelayFeedback (h : Fin 6) (closed : Bool) (s : State) : State :=
  if roleHso s = some h ∧ s.chg.roleCmd = closed then
    { s with chg := { s.chg with roleOk := closed, pilot := if closed = true ∧ s.chg.pilot = 0 then 1 else s.chg.pilot } }
  else s

/-- A role relay not confirmed within 50 ms (R319): 0x400D. -/
def roleRelayTimeout (h : Fin 6) (s : State) : State :=
  if roleHso s = some h ∧ s.chg.roleCmd ≠ s.chg.roleOk then raise 0x400D noInst 0 s else s

/-- RELAY_CONFIRMED: the HFB input of a relay confirms its command and the sequence proceeds (R282, R284, R319). -/
def execRelayConfirmed (h : Fin 6) (closed : Bool) (s : State) : Host.Outcome State Fault Refusal :=
  let s := roleRelayFeedback h closed s
  if s.fn 3 = false then .next s
  else if h = relayHso s true ∧ s.pfc.mainCmd = closed then .next (relayStep { s with pfc := { s.pfc with main := closed } })
  else if h = relayHso s false ∧ s.pfc.preCmd = closed then .next (relayStep { s with pfc := { s.pfc with pre := closed } })
  else .next s

/-- RELAY_FEEDBACK_TIMEOUT: a command not confirmed within 50 ms raises 0x3007 (R282). -/
def execRelayFeedbackTimeout (h : Fin 6) (elapsedMs : Nat) (s : State) : Host.Outcome State Fault Refusal :=
  if elapsedMs < 50 then .next s
  else if s.fn 3 = true ∧ ((h = relayHso s true ∧ s.pfc.mainCmd ≠ s.pfc.main) ∨ (h = relayHso s false ∧ s.pfc.preCmd ≠ s.pfc.pre)) then
    .next (stopCharger (raise 0x3007 0 0 s))
  else .next (roleRelayTimeout h s)

/-- The level of step 3 of R282, squared: (0.9 × √2 × V_LL)² or with V_1N, measured at step 1. -/
def prechargeLevel2 (s : State) : Q := (if singlePhase s then 81 / 50 else 243 / 50) * s.pfc.vStart * s.pfc.vStart

/-- PRECHARGE_COMPLETE: v_bus reaches its level with the precharge relay confirmed: the main relay is closed (R282). -/
def execPrechargeComplete (vBus : Q) (s : State) : Host.Outcome State Fault Refusal :=
  if s.pfc.st = 1 ∧ s.pfc.dir = 0 ∧ s.pfc.pre = true ∧ s.pfc.mainCmd = false ∧ 0 ≤ vBus ∧ prechargeLevel2 s ≤ vBus * vBus then
    .next (cmdRelay true true { s with dab := { s.dab with vbus := vBus } })
  else .next s

/-- PRECHARGE_TIMEOUT: the level is not reached within T_PRE_MAX: 0x3006 (R282). -/
def execPrechargeTimeout (elapsedMs : Nat) (s : State) : Host.Outcome State Fault Refusal :=
  if s.pfc.st = 1 ∧ s.pfc.dir = 0 ∧ s.pfc.mainCmd = false ∧ s.pf 0x50 0 72 * 1000 ≤ elapsedMs then .next (stopCharger (raise 0x3006 0 0 s)) else .next s

/-- BUS_OK_REACHED: v_bus within ±10 V of V_bus* for 10 ms: BUS_OK; forward the DAB starts with δ = 0; in reverse the
main relay closes unless AC is present, which raises 0x3010 (R282, R284). -/
def execBusOkReached (vBus : Q) (heldMs : Nat) (s : State) : Host.Outcome State Fault Refusal :=
  if s.pfc.st = 2 ∧ s.pfc.busOk = false ∧ 10 ≤ heldMs ∧ absQ (vBus - s.pfc.busRef) ≤ 10
      ∧ s.pfc.busRef = (if s.pfc.dir = 0 then busTarget s else s.pf 0x50 0 32) then
    let s := { s with pfc := { s.pfc with busOk := true }, dab := { s.dab with vbus := vBus } }
    if s.pfc.dir = 0 then
      .next { s with pfc := { s.pfc with st := 3 }, dab := { s.dab with st := 2, delta := 0, phi := 0, xc := 0, xvb := 0, iCmd := 0, win := [] } }
    else if s.chg.role = 3 ∧ s.chg.phase = 3 ∧ s.chg.pilot ≠ 2 then .next (pilotOscillate s)
    else .next (reverseMain s)
  else .next s

/-- The ramp time of the bus from v_bus at its start to its target at RAMP_BUS, ms. -/
def busRampMs (s : State) : Q :=
  divQ (absQ ((if s.pfc.dir = 0 then busTarget s else s.pf 0x50 0 32) - s.pfc.ramp0) * 1000) (s.pf 0x50 0 36)

/-- BUS_RAMP_TIMEOUT: BUS_OK not reached within the ramp time plus 100 ms: 0x3003 (R282, R284). -/
def execBusRampTimeout (elapsedMs : Nat) (s : State) : Host.Outcome State Fault Refusal :=
  if s.pfc.st = 2 ∧ s.pfc.busOk = false ∧ busRampMs s + 100 ≤ elapsedMs then .next (stopCharger (raise 0x3003 0 0 s)) else .next s

/-- BUS_UNDERVOLTAGE: forward, after BUS_OK, v_bus below V_BUS_REF − 100 V for 10 ms: 0x3003 (R283). -/
def execBusUndervoltage (vBus : Q) (heldMs : Nat) (s : State) : Host.Outcome State Fault Refusal :=
  if s.pfc.dir = 0 ∧ s.pfc.busOk = true ∧ 10 ≤ heldMs ∧ vBus < s.pf 0x50 0 32 - 100 then .next (stopCharger (raise 0x3003 0 0 { s with dab := { s.dab with vbus := vBus } })) else .next s

/-- REVERSE_OVERLOAD: the reverse current limit acts for T_REV_SC without a break: 0x300D (R286). -/
def execReverseOverload (heldMs : Nat) (s : State) : Host.Outcome State Fault Refusal :=
  if s.pfc.st = 4 ∧ s.pfc.ilim = true ∧ s.pf 0x50 0 104 * 1000 ≤ heldMs then .next (stopCharger (raise 0x300D 0 0 s)) else .next s

/-- BATTERY_CONTACTOR_OPEN: HFB of HSO_BAT reads open for 1 ms while commanded closed: 0x300B (R287). -/
def execBatteryContactorOpen (heldMs : Nat) (s : State) : Host.Outcome State Fault Refusal :=
  let h : Fin 6 := ⟨s.pu 0x50 1 80 % 6, Nat.mod_lt _ (by decide)⟩
  if chargerRuns s = true ∧ s.pu 0x50 1 80 ≠ 0xFF ∧ s.saf.hso.get h = true ∧ 1 ≤ heldMs then .next (stopCharger (raise 0x300B 1 0 s)) else .next s

end Sys2Proof.Machine
end

