-- ==== Sys2Proof/Machine/Charging.lean ====
section
/-! DEFINITION. Charging and power-transfer services (12_charging_services.md). -/

namespace Sys2Proof.Machine

/-! ## Pilot and proximity (R320 to R324) -/

/-- The pilot state of R320 for a level. -/
def pilotLevel (v : Q) (static : Bool) : Nat :=
  if 11 ≤ v ∧ v ≤ 13 then 0
  else if 8 ≤ v ∧ v ≤ 10 then 1
  else if 5 ≤ v ∧ v ≤ 7 then 2
  else if 2 ≤ v ∧ v ≤ 4 then 3
  else if static = true ∧ -1 ≤ v ∧ v ≤ 1 then 4
  else if static = true ∧ -13 ≤ v ∧ v ≤ -11 then 5
  else 6

/-- The samples of CP_IN of one period: the high interval, until a level change takes it below −2.0 V, and the low one, until a level
change takes it above +2.0 V; without a level change the low one is empty (R320). -/
def pilotSplit (x : List Q) : List Q × List Q :=
  let hi := x.takeWhile (fun v => !decide (v < -2))
  let rest := x.dropWhile (fun v => !decide (v < -2))
  if hi = [] then (x, []) else (hi, rest.takeWhile (fun v => !decide (2 < v)))

/-- The mean of the middle half of an interval (R320). -/
def midMean (l : List Q) : Q :=
  let m := (l.drop (l.length / 4)).take (l.length - 2 * (l.length / 4))
  m.foldl (· + ·) 0 / (max m.length 1 : Nat)

/-- The high plateau, or the static level. -/
def pilotHi (x : List Q) : Q := midMean (pilotSplit x).1

/-- The low plateau; 0 for a static line. -/
def pilotLo (x : List Q) : Q := midMean (pilotSplit x).2

/-- The frequency, Hz; 0 for a line that makes no level change. -/
def pilotFreq (x : List Q) : Q :=
  let p := pilotSplit x
  if p.2 = [] then 0 else 1000000 / ((p.1.length + p.2.length : Nat) : Q)

/-- The duty in % with its resolution of 0.1 %. -/
def pilotDuty (x : List Q) : Q :=
  let p := pilotSplit x
  (roundN (((1000 * p.1.length : Nat) : Q) / (max (p.1.length + p.2.length) 1 : Nat)) : Q) / 10

/-- The pilot state of the samples: a frequency outside 980 Hz to 1,020 Hz, or an oscillating line's low plateau above −11 V, is Invalid; none while
the line has made no level change but not yet for the 2 ms of a static line (R320). -/
def pilotState (x : List Q) : Option Nat :=
  if pilotFreq x = 0 then (if x.length < 2000 then none else some (pilotLevel (pilotHi x) true))
  else if pilotFreq x < 980 ∨ 1020 < pilotFreq x ∨ -11 < pilotLo x then some 6
  else some (pilotLevel (pilotHi x) false)

/-- The cable code of R323. -/
def ppCode (v : Q) : Nat :=
  if 23 / 5 < v then 0
  else if 19 / 5 ≤ v ∧ v ≤ 22 / 5 then 1
  else if 31 / 10 ≤ v ∧ v ≤ 18 / 5 then 2
  else if 7 / 4 ≤ v ∧ v ≤ 23 / 10 then 3
  else if 19 / 20 ≤ v ∧ v ≤ 7 / 5 then 4
  else 7

/-- I_CP of R322 for a duty in %; none where there is no charging. -/
def pilotAmps (d : Q) : Option Q :=
  if 8 ≤ d ∧ d ≤ 10 then some 6
  else if 10 < d ∧ d ≤ 85 then some (d * 3 / 5)
  else if 85 < d ∧ d ≤ 96 then some ((d - 64) * 5 / 2)
  else if 96 < d ∧ d ≤ 97 then some 80
  else none

/-- The duty asks for digital communication. -/
def digitalDuty (d : Q) : Bool := decide (3 ≤ d ∧ d ≤ 7)

/-- The reaction of the EV role to an accepted pilot state (R346). -/
def evPilot (k : Nat) (s : State) : State :=
  if k = 0 ∧ 1 ≤ s.chg.pp ∧ s.chg.pp ≤ 4 then raise 0x400C noInst 0 s
  else if k = 0 ∨ k = 4 ∨ k = 5 ∨ k = 6 then raise 0x4001 noInst 0 s
  else if k = 3 then raise 0x4002 noInst 0 s
  else if k = 1 ∧ (s.chg.phase = 4 ∨ s.chg.phase = 5 ∨ s.chg.phase = 6) then chargePause s
  else if k = 2 ∧ s.chg.phase = 7 ∧ s.chg.restartFor = none then { s with chg := { s.chg with phase := 3 } }
  else s

/-- The supply role's reaction (R341 steps 2 and 5, R342): before state B has been accepted the session waits. -/
def supplyPilot (old k : Nat) (s : State) : State :=
  if k = 2 then
    if s.pfc.dir = 1 ∧ s.pfc.busOk = true ∧ s.pfc.st = 2 ∧ s.chg.pilot = 2 then reverseMain { s with chg := { s.chg with phase := 3 } }
    else if s.chg.phase = 7 ∧ s.chg.restartFor = none then { s with chg := { s.chg with phase := 3 } }
    else s
  else if k = 1 then
    if old = 2 then chargePause s else s
  else if s.chg.pilot = 0 ∨ (old ≠ 1 ∧ old ≠ 2 ∧ s.chg.pilot = 1 ∧ chargerRuns s = false) then s
  else raise 0x4001 noInst 0 s

/-- With no session and no connection, or no request, a set request may start a new session (R326). -/
def freeRequest (s : State) : State :=
  if s.connected = false ∧ inSession s = false then { s with chg := { s.chg with used := false } } else s

/-- The role's reaction to an accepted pilot state other than the one before. -/
def pilotReact (old k : Nat) (s : State) : State :=
  if k = old ∨ inSession s = false then s
  else if s.chg.role = 1 then evPilot k s
  else if s.chg.role = 3 then supplyPilot old k s
  else s

/-- PILOT_STATE_CHANGE: outside SHIP the readings are formed from the samples (R320); a state held for 1 ms (E, F, Invalid) or 3 ms is accepted, with the
role's reaction (R321). -/
def execPilotStateChange (x : List Q) (heldUs : Nat) (s : State) : Host.Outcome State Fault Refusal :=
  if s.fn 9 = false ∨ s.sys.mode = .ship ∨ s.sys.mode = .off then .next s
  else
    let s := { s with chg := { s.chg with hi := pilotHi x, lo := pilotLo x, freq := pilotFreq x } }
    match pilotState x with
    | none => .next (freeRequest s)
    | some k =>
      if (if k = 4 ∨ k = 5 ∨ k = 6 then 1000 else 3000) ≤ heldUs then
        .next (pilotReact s.chg.cp k (freeRequest { s with chg := { s.chg with cp := k } }))
      else .next (freeRequest s)

/-- PILOT_DUTY_ACCEPTED: three consecutive periods that agree within 0.5 % (R321). -/
def execPilotDutyAccepted (x1 x2 x3 : List Q) (s : State) : Host.Outcome State Fault Refusal :=
  let ok (a b : List Q) := decide (absQ (pilotDuty a - pilotDuty b) ≤ 1 / 2)
  if s.fn 9 = true ∧ (ok x1 x2 && ok x2 x3 && ok x1 x3) = true ∧ pilotFreq x3 ≠ 0 then .next { s with chg := { s.chg with duty := some (pilotDuty x3) } } else .next s

/-- PROXIMITY_CODE_CHANGE: a code held for 3 ms, Open for 1 ms; in a session Open, or Invalid in the EV role, is a fault
stop with 0x4003 (R323, R340, R342, R346). -/
def execProximityCodeChange (volts : Q) (heldUs : Nat) (s : State) : Host.Outcome State Fault Refusal :=
  let k := ppCode volts
  let need := if k = 0 then 1000 else 3000
  if s.fn 9 = true ∧ need ≤ heldUs then
    let s := freeRequest { s with chg := { s.chg with pp := k } }
    if inSession s = true ∧ (k = 0 ∨ (k = 7 ∧ s.chg.role = 1)) then
      .next (raise 0x4003 noInst 0 s)
    else .next s
  else .next s

/-! ## The evaluation (R325 to R345) -/

/-- The role that the request bits ask for: charge, V2L, V2V in the order of their bits. -/
def requestedRole (s : State) : Nat :=
  let b := s.vehReq
  if b % 2 = 1 then 1 else if b / 2 % 2 = 1 then 2 else if b / 4 % 2 = 1 then 3 else 0

/-- The conditions of R325 that every role needs. -/
def startOk (s : State) : Bool :=
  decide (s.sys.mode = .ready ∨ s.sys.mode = .convert) && s.standstill && s.si3Eng && decide (1 ≤ s.chg.pp ∧ s.chg.pp ≤ 4)

/-- A session's registers at its start. -/
def newSession (role : Nat) (s : State) : State :=
  { s with chg := { s.chg with phase := if role = 1 then 1 else 3, role := role, path := 0, s2 := false, throt := false, lvLost := false, cause := 0, causes := [], restarts := 0, restartFor := none, iCc := 0, timer := 0, real := 0, pulses := 0, below := 0, iEnd := 0, pulsing := false, endMs := 0, used := true, isoStep := 0, isoMax := none, isoStart := false, isoStop := false, isoTarget := 0, hlcFailed := false, pulseEnd := false } }

/-- The start of a session: mode CHARGE, in the EV role the LV charging setpoint, the role relay of V2V (R343: only that role reaches CC; log entry 47). -/
def startSession (role : Nat) (s : State) : State :=
  let s := enterMode .charge (newSession role s)
  let s := if s.pu 0x60 0 76 = 1 ∧ role = 1 then lvCharge (s.pf 0x60 0 80) { s with chg := { s.chg with lvChg := true } } else s
  if role = 3 then
    let h : Fin 6 := ⟨s.pu 0x60 0 0 % 6, Nat.mod_lt _ (by decide)⟩
    { s with chg := { s.chg with roleCmd := true, roleOk := false }, saf := { s.saf with hso := s.saf.hso.put h true } }
  else s

/-- A request that is set and has had no session is started or refused (R325, R326, R340, R341). -/
def trySession (s : State) : State :=
  let r := requestedRole s
  if r = 0 ∨ s.chg.used = true then s
  else if startOk s = false then noteRefuse 8 s
  else if r = 1 then (if s.chg.cp = 1 ∧ s.bmsValid = true then startSession 1 s else noteRefuse 8 s)
  else if r = 2 then
    if s.chg.cp ≠ 4 then noteRefuse 8 s
    else if ppAmps s.chg.pp < revAmps s then noteRefuse 8 (raise 0x400A noInst 0 s)
    else startSession 2 s
  else if s.pu 0x60 0 0 = 0xFF then noteRefuse 8 s
  else if s.pf 0x60 0 72 = 0 ∨ offerAmps s < 6 then noteRefuse 8 (raise 0x400A noInst 0 s)
  else startSession 3 s

/-- The bound that the accepted duty sets: I_CP of R322, none in the row of digital communication once that path is taken, and no current in a
row marked "no charging". -/
def dutyCap (s : State) (x : Q) : Q :=
  match s.chg.duty with
  | none => 0
  | some d =>
    if digitalDuty d = true ∧ s.chg.path ≠ 1 then x
    else
      match pilotAmps d with
      | some i => minQ i x
      | none => 0

/-- I_AC of R332. -/
def acSide (s : State) : Q :=
  let base := minQ (ppAmps s.chg.pp) (s.pf 0x60 0 8)
  dutyCap s (if s.chg.path = 1 then base
    else
      match s.chg.isoMax with
      | some i => minQ i base
      | none => 0)

/-- I_ACDC of R332 for an AC current. -/
def acdc (s : State) (iAc : Q) : Q := divQ (s.pf 0x60 0 20 * nPhase s * vRms s * iAc) s.vMax

/-- The limits of an evaluation: I_AC, I_req, the voltage target, L_th and THROT (R332, R334). -/
def writeLimits (s : State) : State :=
  let bms := s.bmsLimits
  let iAc := acSide s
  let iReq := minQ bms.1 (minQ (s.pf 0x60 0 12) (acdc s iAc))
  let a := (s.thmLimit 4).getD (s.pf 0x60 0 12)
  let lTh := match s.thmLimit 3 with
    | some l => minQ a (acdc s (divQ l (sqrtQ 2)))
    | none => a
  { s with chg := { s.chg with iAc := iAc, iReq := iReq, lTh := lTh, throt := decide (lTh < iReq / 2) },
           obcT := { s.obcT with iAc := some (sqrtQ 2 * iAc), vBat := minQ bms.2.1 (s.pf 0x60 0 16), rate := s.pf 0x60 0 24 } }

/-- The clamp of R329 on a negative target. -/
def disClamp (s : State) : Q := minQ (9 / 10 * s.pf 0x50 1 76) (divQ (s.pf 0x60 0 68) s.vMax)

/-- What Europa writes to the charger beside these limits, a reactive target and a battery discharge limit: no rule says which values, so they
are free at each evaluation (R272, R285, log entry 59). -/
def europaFree (s : State) : State :=
  { s with freeIx := s.freeIx + 3,
           obcT := { s.obcT with reactive := Config.freeQ s.freeIx, iDis := if Config.choice (s.freeIx + 2) then some (absQ (Config.freeQ (s.freeIx + 1))) else none } }

/-- The DAB current target of the present phase (R329, R335, R337). -/
def phaseTarget (s : State) : Q :=
  let c := s.chg
  if c.phase = 4 ∨ c.phase = 5 then (if c.path = 3 ∧ c.isoTarget < 0 then maxQ c.isoTarget (-(disClamp s)) else c.iReq)
  else if c.phase = 6 then (if c.pulsing then minQ (s.pf 0x60 0 40) c.iReq else 0)
  else 0

/-- R330: the AC-side limit is at least 6 A and the charger is ready to start: nothing but the faults that the start request itself clears
keeps it from starting (R289). -/
def s2Ready (s : State) : Bool := decide (6 ≤ s.chg.iAc) && !chargerRuns s && !(clearStartFaults s).chargerBlocked

/-- S2 closes and the start begins. -/
def closeS2 (s : State) : State := if s2Ready s then { s with chg := { s.chg with phase := 3, s2 := true } } else s

/-- The path choice of R327 and the closing of S2 of R330, at the first start and again at every later one. -/
def choosePath (s : State) : State :=
  let c := s.chg
  if c.phase = 1 then
    match c.duty with
    | none => s
    | some d =>
      if digitalDuty d then
        if s.pu 0x60 0 4 % 4 ≠ 0 ∧ c.hlcFailed = false then { s with chg := { c with phase := 2, path := 2, isoStep := 0 } } else s
      else if (pilotAmps d).isSome then closeS2 (writeLimits { s with chg := { c with path := 1 } })
      else s
  else if c.phase = 2 ∧ c.isoStart = true then closeS2 s
  else if c.phase = 3 ∧ c.role = 1 ∧ c.s2 = false ∧ (c.path = 1 ∨ c.isoStart = true) then closeS2 s
  else s

/-- The phase moves that follow the stages: START to CC or REVERSE, CC and CV by STATE_DAB, STOPPING to ENDED. -/
def followStages (s : State) : State :=
  let c := s.chg
  if c.phase = 3 ∧ c.role = 1 ∧ (s.dab.st = 2 ∨ s.dab.st = 3) ∧ s.dab.stopRamp = none then { s with chg := { c with phase := 4 } }
  else if c.phase = 3 ∧ c.role ≠ 1 ∧ s.pfc.st = 4 ∧ s.pfc.outReady = true then { s with chg := { c with phase := 8 } }
  else if c.phase = 4 ∧ s.dab.st = 3 then { s with chg := { c with phase := 5, iCc := c.iReq, endMs := 0 } }
  else if c.phase = 5 ∧ s.dab.st = 2 then { s with chg := { c with phase := 4 } }
  else if c.phase = 9 ∧ (s.pwm.get 3).running = false ∧ (s.pwm.get 4).running = false then sessionOff { s with chg := { c with phase := 10 } }
  else s

/-- The safety timer of one evaluation (R339). -/
def countTimer (s : State) : State :=
  let c := s.chg
  if c.phase = 4 ∨ c.phase = 5 ∨ c.phase = 6 then { s with chg := { c with timer := c.timer + (if c.throt then 50 else 100), real := c.real + 100 } } else s

/-- The end check of R336: the charge ends, or PULSE begins. -/
def cvCheck (meanBat : Q) (s : State) : State × Bool :=
  let c := s.chg
  if c.phase ≠ 5 then (s, false)
  else if s.pf 0x60 0 28 * c.iCc ≤ meanBat then ({ s with chg := { c with endMs := 0 } }, false)
  else
    let ms := c.endMs + 100
    if (ms : Q) < s.pf 0x60 0 32 * 1000 then ({ s with chg := { c with endMs := ms } }, false)
    else if s.pu 0x60 0 36 = 0 then ({ s with chg := { c with endMs := ms } }, true)
    else ({ s with chg := { c with phase := 6, pulsing := true, pulses := min (c.pulses + 1) 255, below := 0, endMs := 0 } }, false)

/-- The causes of R338 that hold, in their order; `cv` is the end check's. -/
def endCauses (s : State) (cv : Bool) : List Nat :=
  let c := s.chg
  let ev := decide (c.role = 1)
  (if ev && decide (s.pf 0x60 0 52 * 1000 ≤ c.timer) then [4] else [])
    ++ (if ev && s.bmsLimits.2.2 then [3] else [])
    ++ (if cv then [1] else [])
    ++ (if c.pulseEnd then [2] else [])
    ++ (if s.veh.req.testBit (c.role - 1) then [] else [5])
    ++ (if s.connected then [] else [6])
    ++ (if c.isoStop then [7] else [])

/-- Every end cause that holds goes to the Provenance log, the timer's by its fault (R338, R339). The spec gives such a record no code: a free
value, class F0, with the cause as its measured value (log entry 61). -/
def logCauses (cs : List Nat) (s : State) : State :=
  (cs.filter (fun k => decide (k ≠ 4))).foldl (fun s k => offerRec (mkRec s 8 (Config.freeNat 2 % 0x10000) noInst 0 k 0 false) s) s

/-- The causes decide: the first is END_CAUSE, the charger stops on request; the timer also raises 0x4005. -/
def judgeEnd (cv : Bool) (s : State) : State :=
  let cs := endCauses s cv
  match cs with
  | [] => s
  | k :: _ =>
    let s := logCauses cs (sessionEnd k { s with chg := { s.chg with causes := cs } })
    if k = 4 then raise 0x4005 noInst 0 s else s

/-- SESSION_EVALUATION: Europa's 100 ms evaluation: starts and refusals, the path, the limits, the phases, the safety
timer and the end causes (R325 to R343). -/
def execSessionEvaluation (meanBat : Q) (s : State) : Host.Outcome State Fault Refusal :=
  if s.fn 9 = false ∨ pairRunning s .europa = false then .next s
  else
    let s := if s.veh.req.testBit (s.chg.role - 1) = false ∨ s.connected = false then { s with chg := { s.chg with used := s.chg.used && inSession s } } else s
    if s.chg.phase = 0 ∨ s.chg.phase = 10 then .next (trySession s)
    else if s.chg.phase = 9 then .next (followStages s)
    else
      let s := europaFree (if s.chg.role = 1 then writeLimits s else s)
      let s := followStages (choosePath s)
      let s := countTimer s
      let r := cvCheck meanBat s
      let s := judgeEnd r.2 r.1
      .next (if s.chg.role = 1 then { s with obcT := { s.obcT with iBat := phaseTarget s } } else s)

/-- PULSE_PHASE_END: the end of a pulse judges i_end, and the evaluation that follows ends the charge; the end of a rest begins the next pulse (R337,
R338). -/
def execPulsePhaseEnd (iEnd : Q) (elapsedMs : Nat) (s : State) : Host.Outcome State Fault Refusal :=
  let c := s.chg
  if c.phase ≠ 6 then .next s
  else if c.pulsing = true then
    if (elapsedMs : Q) < s.pf 0x60 0 44 * 1000 then .next s
    else
      let below := if iEnd < s.pf 0x60 0 28 * s.pf 0x60 0 40 then min (c.below + 1) 255 else 0
      let s := { s with chg := { c with pulsing := false, below := below, iEnd := iEnd }, obcT := { s.obcT with iBat := 0 } }
      if 2 ≤ below ∨ s.pu 0x60 0 36 ≤ c.pulses then .next { s with chg := { s.chg with pulseEnd := true } } else .next s
  else if (elapsedMs : Q) < s.pf 0x60 0 48 * 1000 ∨ c.pulseEnd = true then .next s
  else
    let s := { s with chg := { c with pulsing := true, pulses := min (c.pulses + 1) 255 } }
    .next { s with obcT := { s.obcT with iBat := phaseTarget s } }

/-! ## ISO 15118-20 (R328, R329) -/

/-- HLC_SETUP_TIMEOUT: matching, discovery and TLS not complete within T_HLC: 0x4006; the session waits (R327, R328). -/
def execHlcSetupTimeout (elapsedMs : Nat) (s : State) : Host.Outcome State Fault Refusal :=
  if s.chg.phase = 2 ∧ s.chg.isoStep < 3 ∧ s.pf 0x60 0 64 * 1000 ≤ elapsedMs then
    .next (raise 0x4006 noInst 0 { s with chg := { s.chg with phase := 1, path := 0, hlcFailed := true } })
  else .next s

/-- How far the setup of the digital path is after a message: matching, discovery, TLS. -/
def isoOrder : IsoMsg → Nat
  | .slacMatched => 1
  | .sdpFound _ => 2
  | .tlsUp _ _ => 3
  | _ => 0

/-- The part or option that a message needs is supported and offered; everything not listed is refused (R328). The roots of the policy record
anchor TLS (R514). -/
def isoOffered (s : State) (m : IsoMsg) : Bool :=
  let en := s.pu 0x60 0 4
  match m with
  | .sdpFound secured => secured
  | .tlsUp v13 root => v13 && decide (root < s.pu 0xC0 0 208)
  | .authorization eim => eim
  | .serviceSelection service vas =>
    !vas && (match service with
      | .ac => en.testBit 0
      | .acBpt => en.testBit 1
      | _ => false)
  | .scheduleExchange dynamic => if dynamic then en.testBit 3 else en.testBit 2
  | .other => false
  | _ => true

/-- A message is accepted: what it needs is offered, and the messages travel on the TLS connection, which discovery and matching precede
(R328). -/
def isoAccepts (s : State) (m : IsoMsg) : Bool :=
  isoOffered s m && (if isoOrder m = 0 then decide (3 ≤ s.chg.isoStep) else decide (isoOrder m ≤ s.chg.isoStep + 1))

/-- What an accepted message changes. -/
def isoEffect (m : IsoMsg) (s : State) : State :=
  let c := s.chg
  match m with
  | .serviceSelection service _ => { s with chg := { c with path := if service = .acBpt then 3 else 2 } }
  | .chargeParameterDiscovery i => { s with chg := { c with isoMax := some i } }
  | .chargeLoop i t => { s with chg := { c with isoMax := some i, isoTarget := t } }
  | .powerDeliveryStart =>
    if c.phase = 7 ∧ c.restartFor = none then { s with chg := { c with isoStart := true, phase := 3 } }
    else { s with chg := { c with isoStart := true } }
  | .powerDeliveryStandby _ => if c.phase = 9 then s else chargePause { s with chg := { c with isoStart := false } }
  | .powerDeliveryStop => { s with chg := { c with isoStop := true } }
  | .sessionStop => { s with chg := { c with isoStop := true } }
  | _ => s

/-- The maximum discharge power that an AC_BPT exchange reports (R329). -/
def bptPower (m : IsoMsg) (s : State) : Option Q :=
  if s.chg.path ≠ 3 then none
  else
    match m with
    | .chargeParameterDiscovery _ => some (minQ (s.pf 0x60 0 68) (disClamp s * s.vMax))
    | .chargeLoop _ _ => some (minQ (s.pf 0x60 0 68) (disClamp s * s.vMax))
    | _ => none

/-- ISO15118_MESSAGE: a message of the digital path is accepted and answered, or refused (R328). -/
def execIso15118Message (m : IsoMsg) (s : State) : Host.Outcome State Fault Refusal :=
  let c := s.chg
  if ¬(c.path = 2 ∨ c.path = 3) ∨ inSession s = false then .next s
  else if isoAccepts s m = false then .next (send (.iso false none) s)
  else .next (send (.iso true (bptPower m s)) (isoEffect m { s with chg := { c with isoStep := max c.isoStep (isoOrder m) } }))

/-! ## Faults, restarts and the LV battery (R329, R330, R343, R345) -/

/-- GRID_WAIT_TIMEOUT: GRID_OK not set within 10 s of S2 closing: 0x4004 (R330). -/
def execGridWaitTimeout (elapsedMs : Nat) (s : State) : Host.Outcome State Fault Refusal :=
  if s.chg.phase = 3 ∧ s.chg.s2 = true ∧ s.grid.ok = false ∧ 10000 ≤ elapsedMs then .next (raise 0x4004 noInst 0 s) else .next s

/-- DISCHARGE_DC_LINK_CHECK: V_dc,min below the window's lower edge while the current is negative: 0x400B (R329). -/
def execDischargeDcLinkCheck (s : State) : Host.Outcome State Fault Refusal :=
  if s.chg.path = 3 ∧ s.dab.ibat < 0 ∧ inSession s = true ∧ s.vMin < s.pf 3 0 0 then .next (raise 0x400B noInst 0 s) else .next s

/-- SESSION_RESTART: after T_RST, with the cause's condition met, the start is repeated and RESTARTS counts; S2 closes again under R330 (R344, R345). -/
def execSessionRestart (elapsedMs : Nat) (s : State) : Host.Outcome State Fault Refusal :=
  match s.chg.restartFor with
  | none => .next s
  | some code =>
    let ready := if code = 0x3004 ∨ code = 0x3005 then s.grid.ok && s.grid.lock else s.bmsValid
    if s.chg.phase = 7 ∧ s.pf 0x60 0 60 * 1000 ≤ elapsedMs ∧ ready = true then
      .next { s with chg := { s.chg with phase := 3, restartFor := none, restarts := min (s.chg.restarts + 1) 15 } }
    else .next s

/-- LV_FLOAT_SWITCH: T_LV_ABS after the session's start Europa writes V_LV_FLOAT (R343). -/
def execLvFloatSwitch (sinceMs : Nat) (s : State) : Host.Outcome State Fault Refusal :=
  if s.chg.lvChg = true ∧ s.pf 0x60 0 88 * 1000 ≤ sinceMs ∧ 4 ≤ s.chg.phase ∧ s.chg.phase ≤ 7 then .next (lvCharge (s.pf 0x60 0 84) s) else .next s

end Sys2Proof.Machine
end

