-- ==== Sys2Proof/Machine/Staging.lean ====
section
/-! DEFINITION. Staging a new image (R113 to R118) and the OTP operations after READY (R112, R517, R520). -/

namespace Sys2Proof.Machine

/-! ## The session (R113, R114, R116) -/

/-- The modes that accept a staging session. -/
def stageMode (s : State) : Bool :=
  decide (s.sys.mode = .ready ∨ s.sys.mode = .convert ∨ s.sys.mode = .drive ∨ s.sys.mode = .charge ∨ s.sys.mode = .safe)

/-- The modes that accept a commit or a confirmation. -/
def commitMode (s : State) : Bool := decide (s.sys.mode = .ready ∨ s.sys.mode = .convert ∨ s.sys.mode = .safe)

/-- The session belongs to someone else. -/
def stageOther (s : State) (src : StageSrc) : Bool := decide (s.cat.stage.src ≠ .none ∧ s.cat.stage.src ≠ src)

/-- No session. -/
def noStage : Staging := { src := .none, region := 0, next := 0, left := 0, block := none, seq := 1, marked := false, last := 0 }

/-- A region opens at a block: 0 accepted, 1 a condition fails, 2 out of range. Where no firmware runs, slot A counts as the one that
runs, so slot B is staged; and the owner's second open before it has closed the region fails a condition (0x22, STATUS 4): choices of
the model, on which R113 and R114 are silent (log entry 43). -/
def openStage (src : StageSrc) (region first size : Nat) (s : State) : Nat × State :=
  if stageMode s = false ∨ stageOther s src = true ∨ 3 ≤ s.life ∨ s.cat.stage.region ≠ 0 then (1, s)
  else if ¬(region = 1 ∨ region = 2) ∨ size = 0 ∨ size % 4096 ≠ 0 ∨ regionBlocks region < first + size / 4096 then (2, s)
  else (0, { s with cat := { s.cat with stage := { src := src, region := region, next := first, left := size / 4096, block := none, seq := 1, marked := s.cat.stage.marked, last := region } } })

/-- The session ends and with it its waiting operations, since no block of it is left to write; a ship entry that waited for them goes on
(R80). That they are dropped is the model's choice: R87 drops none in RAM, and R116 is silent on the one that waits (log entry 54). -/
def endStage (s : State) : State :=
  shipProceed { s with cat := { s.cat with stage := { noStage with last := s.cat.stage.last } }, ops := { s.ops with waiting := s.ops.waiting.filter (fun o => !isStagingOp o) } }

/-- A block of 4,096 bytes for number `n` is taken: its CRC is checked, the first block of the session sets the slot to STAGING, the erase is
queued (R115): 0 accepted, 1 the CRC fails. -/
def takeBlock (n : Nat) (data : List Byte) (s : State) : Nat × State :=
  let body := data.take 4092
  if uAt data 4092 4 ≠ crc32 body then (1, s)
  else
    let st := s.cat.stage
    let s := if st.marked then s else changeDesc (BootDesc.setSt s.cat.slotRun.other 1) s
    (0, enqueue .stageErase { s with cat := { s.cat with stage := { s.cat.stage with block := some (n, body), marked := true } } })

/-- REQUEST_DOWNLOAD: opens a region of the inactive slot (R113, R114). Bits 15:8 of memoryAddress, which R114 does not name, are ignored
(log entry 43). -/
def execRequestDownload (p : UPath) (addr size : Nat) (s : State) : Host.Outcome State Fault Refusal :=
  .next (udsServe p 0x34 [2] 3 (fun s =>
    if s.svcEn 3 = false then udsNeg p 0x34 0x22 s
    else
      let r := openStage (.uds p) (addr % 256) (addr / 65536 % 65536) size s
      if r.1 = 0 then udsPos p [0x74, 0x20, 0x10, 0x02] r.2
      else udsNeg p 0x34 (if r.1 = 1 then 0x22 else 0x31) s) s)

/-- TRANSFER_DATA: exactly one block; its answer comes when the block is written (R114, R115). -/
def execTransferData (p : UPath) (seq : Nat) (data : List Byte) (s : State) : Host.Outcome State Fault Refusal :=
  .next (udsServe p 0x36 [2] 3 (fun s =>
    let st := s.cat.stage
    if s.svcEn 3 = false ∨ stageOther s (.uds p) = true then udsNeg p 0x36 0x22 s
    else if st.src ≠ .uds p ∨ st.region = 0 ∨ st.left = 0 then udsNeg p 0x36 0x24 s
    else if st.block.isSome then udsNeg p 0x36 0x21 s
    else if seq ≠ st.seq then udsNeg p 0x36 0x73 s
    else if data.length ≠ 4096 then udsNeg p 0x36 0x13 s
    else
      let r := takeBlock st.next data s
      if r.1 = 0 then r.2 else udsNeg p 0x36 0x72 s) s)

/-- REQUEST_TRANSFER_EXIT: closes the region while no block is being written; the session stays open for the other region (R114, log
entry 23). -/
def execRequestTransferExit (p : UPath) (s : State) : Host.Outcome State Fault Refusal :=
  .next (udsServe p 0x37 [2] 3 (fun s =>
    let st := s.cat.stage
    if s.svcEn 3 = false ∨ stageOther s (.uds p) = true then udsNeg p 0x37 0x22 s
    else if st.src ≠ .uds p ∨ st.region = 0 ∨ st.block.isSome = true then udsNeg p 0x37 0x24 s
    else udsPos p [0x77] { s with cat := { s.cat with stage := { st with region := 0 } } }) s)

/-- BLOCK_DONE to the fabric owner of the session; its TAG is stated nowhere, a free value (R465, R466, log entry 23). -/
def blockDone (node block status : Nat) (s : State) : State :=
  let f := takeFree s
  mgmtReply node 0 0 0x13 (f.1 % 256) status (natLe 4 block) f.2

/-- STAGING_BLOCK_WRITTEN: the block's erase and its sixteen pages are done and it is verified; over UDS the next block is due, over
the fabric BLOCK_DONE answers (R115, R466). A block that fails its verify is answered as one that fails its CRC, 0x72 or STATUS 6, and is
held as one without a valid CRC: the model's choice, R115 states no answer (log entry 43). -/
def execStagingBlockWritten (verifyOk : Bool) (s : State) : Host.Outcome State Fault Refusal :=
  let st := s.cat.stage
  match st.block with
  | none => .next s
  | some (k, d) =>
    if stageIdle s = false then .next s
    else
      let s := putStage (some { data := d, crcGood := verifyOk }) s
      match st.src with
      | .uds p =>
        let t : Staging := if verifyOk then { st with block := none, next := st.next + 1, left := st.left - 1, seq := (st.seq + 1) % 256 } else { st with block := none }
        let s := { s with cat := { s.cat with stage := t } }
        .next (if verifyOk then udsPos p [0x76, BitVec.ofNat 8 st.seq] s else udsNeg p 0x36 0x72 s)
      | .fabric node => .next (blockDone node k (if verifyOk then 0 else 6) { s with cat := { s.cat with stage := { st with block := none } } })
      | .none => .next { s with cat := { s.cat with stage := { st with block := none } } }

/-- STAGING_SESSION_TIMEOUT: 30 s without a request abort the session with 0x8008 (R116). -/
def execStagingSessionTimeout (idleS : Nat) (s : State) : Host.Outcome State Fault Refusal :=
  if s.cat.stage.src ≠ .none ∧ 30 ≤ idleS then .next (raise 0x8008 noInst 0 (endStage s)) else .next s

/-! ## The routines (R117, R118) -/

/-- The state of a slot in the descriptor in force; EMPTY with none. -/
def slotInForce (s : State) (sl : Slot) : Nat :=
  match s.cat.desc with
  | some d => d.st sl
  | none => 0

/-- The slot that runs is a TRIAL. In SAFE with no Catalogue passed (RESULT 3) the N9 counts as not running from a slot, so that Commit is
accepted there and Confirm and Reject are not: the model's choice (R117, log entry 43). -/
def onTrial (s : State) : Bool := decide (slotInForce s s.cat.slotRun = 3) && decide (s.cat.result = 1 ∨ s.cat.result = 2)

/-- The conditions of a staging routine that hold for either path (R113, R117). R117 names none for Check: the model accepts it while the
inactive slot reads STAGING or STAGED and no block is being written, and a Check that fails leaves a STAGED slot STAGED (log entry
43). -/
def stageRoutineOk (src : StageSrc) (rid : Nat) (s : State) : Bool :=
  let other := s.cat.slotRun.other
  decide (s.life < 3) && !stageOther s src &&
  (if rid = 0xF100 then decide (slotState s other = 1 ∨ slotState s other = 2) && s.cat.stage.block.isNone
   else if rid = 0xF101 then commitMode s && decide (slotInForce s other = 2) && !onTrial s
   else if rid = 0xF102 then commitMode s && onTrial s
   else onTrial s)

/-- Check: steps 3 to 7 of R106 on the inactive slot; its cause code, 1 on a pass. A pass ends the staging session: the model's choice, no
rule says what but an abort ends one (log entry 43). -/
def runCheck (fw : FwFacts) (sigOk : Bool) (fs : List ReadFail) (s : State) : Nat × State :=
  let sl := s.cat.slotRun.other
  let r := trySlot s sl fw sigOk fs
  let s := raiseReads r.2 s
  let s := { s with sec := { s.sec with ops := (s.sec.ops + verifs r.1) % 2 ^ 16 } }
  match r.1 with
  | .ok _ => (1, endStage (changeDesc (BootDesc.setSt sl 2) s))
  | t => (causeOf t, raise 0x8009 noInst (causeOf t) s)

/-- Commit: the slot becomes TRIAL. -/
def runCommit (s : State) : State := changeDesc (BootDesc.setSt s.cat.slotRun.other 3) s

/-- The anti-rollback value of the running slot (R516). -/
def slotArb (s : State) : Nat := max s.cat.arb s.cat.fwArb

/-- The lowest bit of a word that reads 0. -/
def lowZero (w : BitVec 64) : BitVec 64 := lowBit (~~~w)

/-- The OTP operations that raise the counter by `n`, one bit each (R112, R512). -/
def raiseOps : Nat → BitVec 64 → List FlashOp
  | 0, _ => []
  | n + 1, w => .otpWord 6 (lowZero w) :: raiseOps n (w ||| lowZero w)

/-- Confirm: the counter's operations are queued, then the slot becomes CONFIRMED and PREF names it. -/
def runConfirm (s : State) : State :=
  let s := (raiseOps (slotArb s - s.arbCount) (s.otp.get 6)).foldl (fun s o => enqueue o s) s
  changeDesc (fun d => { d.setSt s.cat.slotRun 4 with pref := s.cat.slotRun }) s

/-- Reject: the slot becomes BAD. -/
def runReject (s : State) : State := changeDesc (BootDesc.setSt s.cat.slotRun 5) s

/-- A staging routine over UDS: the checks of R506 and R499, its own conditions, its effect, its answer and result. -/
def stageRoutine (p : UPath) (rid : Nat) (run : State → List Byte × State) (s : State) : State :=
  if s.udsServed p = false then s
  else
    let s := { s with uds := { s.uds with tester := some p } }
    let n := s.routineNrc p rid
    if n ≠ 0 then udsNeg p 0x31 n s
    else if stageRoutineOk (.uds p) rid s = false then udsNeg p 0x31 0x22 s
    else
      let r := run s
      udsPos p ([0x71, 0x01] ++ natBe 2 rid ++ r.1) (setResult rid r.1 r.2)

/-- STAGE_CHECK (routine 0xF100). -/
def execStageCheck (p : UPath) (fw : FwFacts) (sigOk : Bool) (readFails : List ReadFail) (s : State) : Host.Outcome State Fault Refusal :=
  .next (stageRoutine p 0xF100 (fun s => let r := runCheck fw sigOk readFails s; ([BitVec.ofNat 8 r.1], r.2)) s)

/-- STAGE_COMMIT (routine 0xF101). -/
def execStageCommit (p : UPath) (s : State) : Host.Outcome State Fault Refusal := .next (stageRoutine p 0xF101 (fun s => ([], runCommit s)) s)

/-- STAGE_CONFIRM (routine 0xF102). -/
def execStageConfirm (p : UPath) (s : State) : Host.Outcome State Fault Refusal := .next (stageRoutine p 0xF102 (fun s => ([], runConfirm s)) s)

/-- STAGE_REJECT (routine 0xF103). -/
def execStageReject (p : UPath) (s : State) : Host.Outcome State Fault Refusal := .next (stageRoutine p 0xF103 (fun s => ([], runReject s)) s)

/-! ## The end of a flash or OTP operation -/

/-- A lifecycle change by key resets once none of its OTP words waits (R519). -/
def lifecycleEnds (s : State) : State :=
  if s.sec.lcReset = true ∧ otpWaits s = false then resetN9 { StartCause.none with uds := true } s else s

/-- FLASH_OPERATION_COMPLETE: the started operation ends and is verified; what it opens the way for joins the waiting ones
(R88, R97, R115, R540). -/
def execFlashOperationComplete (verifyOk : Bool) (s : State) : Host.Outcome State Fault Refusal :=
  match s.ops.running with
  | none => .next s
  | some o =>
    let s' := { s with ops := { s.ops with running := none, orphan := false } }
    .next (if s.ops.orphan then orphanEnds o verifyOk s' else lifecycleEnds (shipProceed (afterOp o verifyOk s')))

/-! ## OTP operations after READY (R517, R520) -/

/-- A sequence of OTP programs: how many of the next ones fail their verify, the measurements of HOLD still to come, one before each
word (R88), whether a check has failed, and the state. -/
structure OtpRun where
  fails : Nat
  volts : List Q
  stopped : Bool
  st : State

/-- OTP words programmed in order, each after its own check on its own measurement (R84, R88). The first `fails` programs fail their
verify, each with 0x8017 and one bit still 0. A word whose check fails, and those after it, join the waiting operations (R87); without
a measurement nothing starts. In the hold-up state a failed check ends all starts (R90). -/
def program : List (Nat × BitVec 64) → OtpRun → OtpRun
  | [], r => r
  | (w, b) :: rest, r =>
    if r.stopped then
      let s := enqueue (.otpWord w b) r.st
      program rest { r with st := if startsOver s then holdupFail s else s }
    else
      match r.volts with
      | [] => program rest { r with stopped := true, st := enqueue (.otpWord w b) r.st }
      | v :: vs =>
        let s := measureHold v r.st
        if holdOk s v (.otpWord w b) = false then program rest { r with volts := vs, stopped := true, st := holdupFail (enqueue (.otpWord w b) s) }
        else if r.fails = 0 then
          let t := { s with otp := s.otp.put w (s.otp.get w ||| b) }
          program rest { r with volts := vs, st := if w = 5 ∨ w = 7 then otpDone w b t else t }
        else program rest { r with fails := r.fails - 1, volts := vs, st := raise 0x8017 noInst 0 { s with otp := s.otp.put w (otpFailed (s.otp.get w) b) } }

/-- The state of a sequence changed by a function, unless a check has stopped the sequence. -/
def onState (f : State → State) (r : OtpRun) : OtpRun := if r.stopped then r else { r with st := f r.st }

/-- 32 bytes as four OTP words from `w`. -/
def hashWords (w : Nat) (ns : List Nat) : List (Nat × BitVec 64) := ns.mapIdx (fun j n => (w + j, BitVec.ofNat 64 n))

/-- 1: the identity key, in Workshop while none is valid; a failed entropy test stops it until the next Accession. -/
def otpIdentity (entropyOk : Bool) (r : OtpRun) : OtpRun :=
  let s := r.st
  if r.stopped = true ∨ s.sec.keyTried = true ∨ s.life ≠ 0 ∨ idValid s 0 = true ∨ idValid s 1 = true ∨ (idFree s 0 = false ∧ idFree s 1 = false) then r
  else
    let s := { s with sec := { s.sec with entOk := entropyOk } }
    if entropyOk = false then { r with st := raise 0x8012 noInst 0 { s with sec := { s.sec with keyTried := true } } }
    else
      let k := if idFree s 0 then 0 else 1
      let key := (padTo 128 0 (Config.identityKey s.sec.nKey)).take 128
      let words := (List.range 16).map (fun j => (24 + 17 * k + j, BitVec.ofNat 64 (uAt key (8 * j) 8))) ++ [(24 + 17 * k + 16, BitVec.ofNat 64 (idCheck key))]
      let t := program words { r with st := { s with sec := { s.sec with nKey := s.sec.nKey + 1 } } }
      onState logDone (onState selectId t)

/-- 2: the counter is raised to the slot's ARB. -/
def otpCounter (r : OtpRun) : OtpRun :=
  let s := r.st
  if r.stopped = true ∨ slotArb s ≤ s.arbCount then r
  else
    let words := (raiseOps (slotArb s - s.arbCount) (s.otp.get 6)).filterMap (fun o => match o with
      | .otpWord w b => some (w, b)
      | _ => none)
    onState logDone (program words r)

/-- 3: the slot OEM_KEY takes the key hash of PUBKEY. -/
def otpOemKey (r : OtpRun) : OtpRun :=
  let s := r.st
  if r.stopped = false ∧ s.life = 0 ∧ s.oemEmpty s.cat.oemKey = true then
    onState logDone (program (hashWords (8 + 4 * s.cat.oemKey) (keyHash ((s.payload 0xC0 0).take 64))) r)
  else r

/-- 4: one slot of ADD_MASK. -/
def otpAdd (r : OtpRun) (k : Nat) : OtpRun :=
  let s := r.st
  let h := [0, 1, 2, 3].map (fun j => s.pb 0xC0 0 (72 + 32 * k + 8 * j) 8)
  if r.stopped = true ∨ (s.pu 0xC0 0 68).testBit k = false then r
  else if s.oemEmpty k then onState logDone (program (hashWords (8 + 4 * k) h) r)
  else if s.oemHash k = h then r
  else { r with st := raise 0x8014 noInst k { s with sec := { s.sec with skipped := s.sec.skipped ||| 2 ^ k } } }

/-- 5: one slot of REVOKE. -/
def otpRevoke (r : OtpRun) (k : Nat) : OtpRun :=
  let s := r.st
  if r.stopped = true ∨ (s.pu 0xC0 0 64).testBit k = false ∨ s.revoked k = true then r
  else program [(7, BitVec.ofNat 64 (15 * 2 ^ (4 * k)))] r

/-- 6: the lifecycle. -/
def otpLifecycle (r : OtpRun) : OtpRun :=
  let s := r.st
  let t := s.pu 0xC0 0 200
  if r.stopped = false ∧ s.life = 0 ∧ (idValid s 0 = true ∨ idValid s 1 = true) ∧ (t = 1 ∨ t = 2) then
    program [(5, BitVec.ofNat 64 (255 * 256 ^ (t - 1)))] r
  else r

/-- POST_READY_OTP_OPERATIONS: after READY, from a CONFIRMED slot, the operations of R517 in the order of its table, each while its
condition holds; each word is programmed after its own hold-up check, on its own measurement of HOLD (R84, R88). -/
def execPostReadyOtpOperations (holdVolts : List Q) (entropyOk : Bool) (verifyFails : Nat) (s : State) : Host.Outcome State Fault Refusal :=
  if s.cat.locked = false ∨ s.sys.mode = .off ∨ s.sys.mode = .ship ∨ s.sys.mode = .accession ∨ s.sup.step < 9 ∨ slotInForce s s.cat.slotRun ≠ 4 ∨ s.ops.running.isSome = true ∨ otpWaits s = true ∨ startsOver s = true then .next s
  else
    let r := otpOemKey (otpCounter (otpIdentity entropyOk { fails := verifyFails, volts := holdVolts, stopped := false, st := s }))
    .next (otpLifecycle ([0, 1, 2, 3].foldl otpRevoke ([0, 1, 2, 3].foldl otpAdd r))).st

end Sys2Proof.Machine
end

