-- ==== Sys2Proof/Machine/Lockstep.lean ====
section
/-! DEFINITION. Lockstep pairs, register export, the check bits of the shared memories and debug (16_lockstep_memory.md). -/

namespace Sys2Proof.Machine

/-! ## Mismatches and restarts (R405 to R411) -/

/-- A pair changed by a function. -/
def updPair (p : LPair) (f : PairSt → PairSt) (s : State) : State := { s with lks := { s.lks with pairs := s.lks.pairs.upd p f } }

/-- The mailboxes a pair writes, in the order of the queue table (R406). -/
def mailboxes (p : LPair) : List QId := (List.finRange 27).filter (fun q => decide (14 + 3 * p.num ≤ q.val) && decide (q.val < 17 + 3 * p.num))

/-- A pair halts: what it saw is kept, and its uncommitted mailbox packets are rewound (R406, R409). -/
def haltPair (p : LPair) (st kind word : Nat) (s : State) : State :=
  let s := updPair p (fun x => { x with st := st, mismatches := satInc 8 x.mismatches, kind := kind, lastWord := if kind = 5 then word else x.lastWord, time := s.timeNs % 2 ^ 32, replay := [], exportDue := false }) s
  (mailboxes p).foldl (fun s q => updQ q (fun x => { x.rewind with wait := none }) s) s

/-- The reaction of the pair (R409, R410). -/
def pairReaction (p : LPair) (first : Bool) (s : State) : State :=
  match p with
  | .io => raise 0x6001 0 0 s
  | .callisto => raise 0x6004 3 0 { s with saf := { s.saf with safeReq := true } }
  | .europa => if first then raise 0x6002 1 0 (sessionFail (stopCharger s)) else raise 0x6005 1 0 s
  | .ganymede => if first then raise 0x6003 2 0 (endStage s) else raise 0x6005 2 0 s

/-- A mismatch of a running pair. -/
def mismatch (p : LPair) (kind word : Nat) (s : State) : State :=
  let x := s.lks.pairs.get p
  if x.st ≠ 1 then s
  else
    let first := decide (x.mismatches = 0)
    let restarts := first && (decide (p = .europa) || decide (p = .ganymede))
    let s := haltPair p (if restarts then 3 else 2) kind word s
    let s := if kind = 6 then raise 0x6006 (p.num) 0 s else s
    pairReaction p first s

/-! ## Delay registers and comparator (R403 to R408) -/

/-- One advance of the delay registers: what the main copy drives goes to the bus and into the first stage, what the bus gives it into the
first stage to the checker (R403). A register that fails keeps its contents (R408). -/
def advance (held : List DelayReg) (m : Bound) (b : BusIn) (x : PairSt) : PairSt :=
  { x with bus := m,
           out1 := if held.contains .main1 then x.out1 else m, out2 := if held.contains .main2 then x.out2 else x.out1,
           in1 := if held.contains .checker1 then x.in1 else b, in2 := if held.contains .checker2 then x.in2 else x.in1 }

/-- One step of a running pair: the second stage meets the checker's outputs; a difference is a mismatch, else the registers advance. -/
def pairStep (p : LPair) (c : CoreStep) (m : Bound) (b : BusIn) (chk : Bound) (s : State) : State :=
  let x := s.lks.pairs.get p
  if x.st ≠ 1 then s
  else
    match compared c.rails x.out2 chk (Config.freeNat s.freeIx) with
    | some k => mismatch p k 0 { s with freeIx := s.freeIx + 1 }
    | none => updPair p (advance c.held m b) s

/-- A word that a pair writes: blocked with 0x8006 where a lock protects it (R406), else it lands and clears the word's poison (R417). -/
def pairWrite (region : Option StoreRegion) (w : Fin 9 × Nat) (data : BitVec 64) (s : State) : State :=
  let r := if w.1 = 8 then some .map else region
  if r.any (fun r => regionLocked r s) then raise 0x8006 noInst 0 s
  else
    let s := { s with lks := { s.lks with poisoned := s.lks.poisoned.filter (fun v => decide (v ≠ w)) } }
    if w.1 = 8 then { s with cat := { s.cat with map := putWord (8 * w.2) data.toNat s.cat.map } }
    else { s with lks := { s.lks with sram := putWord (8 * eccAddress w.1 w.2) data.toNat s.lks.sram } }

/-- A stretch of a pair's work: an idle token for every 50 ns without a transfer, then the transfer, whose write has reached the memory before
its comparison (R404, R406). -/
def pairRun (p : LPair) (s : State) (c : CoreStep) : State :=
  let n := c.gapNs / 50
  let s := (List.range n).foldl (fun s i => pairStep p c .idle .idle (c.checker.getD i .idle) s) s
  match c.main with
  | none => s
  | some m =>
    let s := pairStep p c m c.bus (c.checker.getD n .idle) s
    match c.writes with
    | some w => if (s.lks.pairs.get p).st = 1 then pairWrite c.region w m.data s else s
    | none => s

/-- LOCKSTEP_MISMATCH: the pair's steps run through the delay registers; where the comparator sees a difference, both copies halt and the
pair's reaction follows. -/
def execLockstepMismatch (p : LPair) (steps : List CoreStep) (s : State) : Host.Outcome State Fault Refusal := .next (steps.foldl (pairRun p) s)

/-- The data region of a restarted pair is zero again, with valid check bits (R410): the words of shared memory that lie in it, and what the
model holds of it elsewhere: Ganymede's diagnostic sessions, unlocks and results, Europa's ISO 15118 session and restart (log entry 66). -/
def zeroRegion (p : LPair) (region : List (Fin 9 × Nat)) (s : State) : State :=
  let s := { s with lks := { s.lks with
    poisoned := s.lks.poisoned.filter (fun v => !region.contains v),
    sram := region.foldl (fun m w => if w.1 = 8 then m else putWord (8 * eccAddress w.1 w.2) 0 m) s.lks.sram } }
  match p with
  | .ganymede => { s with uds := { session := Tab.fill 1, tester := none, unlocks := [], results := [], dtcClr := [] }, sec := { s.sec with challenge := none, jobs := [], pend := [] } }
  | .europa => { s with chg := { s.chg with isoStep := 0, isoMax := none, isoStart := false, isoStop := false, isoTarget := 0, restartFor := none, pulsing := false, endMs := 0, below := 0, pulseEnd := false } }
  | .io => s
  | .callisto => s

/-- PAIR_RESTART_COMPLETE: the pair runs again (R410). -/
def execPairRestartComplete (p : LPair) (region : List (Fin 9 × Nat)) (s : State) : Host.Outcome State Fault Refusal :=
  if (s.lks.pairs.get p).st = 3 then .next (zeroRegion p region (updPair p (fun x => { x with st := 1, restarts := satInc 8 x.restarts, bus := .idle, out1 := .idle, out2 := .idle, in1 := .idle, in2 := .idle }) s)) else .next s

/-- An export is complete. -/
def exported (p : LPair) (s : State) : State := updPair p (fun x => { x with exports := wrapInc 16 x.exports, exportDue := false }) s

/-- The first word in which two exports differ (R407). -/
def firstDiff (main checker : List (BitVec 64)) : Option Nat :=
  (List.range (max main.length checker.length)).find? (fun n => decide (main[n]? ≠ checker[n]?))

/-- The export period in coarse ticks: 10 ms for Callisto, the start of every 100th of its cycles, 100 ms for the others (R402, R407). -/
def exportTicks (p : LPair) : Nat := if p = .callisto then 400000 else 4000000

/-- The copies' words are compared; a difference is a mismatch of KIND 5 (R407). -/
def compareExport (p : LPair) (main checker : List (BitVec 64)) (s : State) : State :=
  match firstDiff main checker with
  | none => exported p s
  | some w => mismatch p 5 w s

/-- REGISTER_EXPORT: at an instant that is a multiple of the pair's period the export takes place; a halted pair skips it, one halted for debug
does it at resume (R407). -/
def execRegisterExport (p : LPair) (main checker : List (BitVec 64)) (s : State) : Host.Outcome State Fault Refusal :=
  if s.mer.ct % exportTicks p ≠ 0 then .next s
  else match (s.lks.pairs.get p).st with
  | 1 => .next (compareExport p main checker s)
  | 4 => .next (updPair p (fun x => { x with exportDue := true }) s)
  | _ => .next s

/-! ## Check bits (R414 to R417) -/

/-- A correctable error: the data is corrected in what the read returns, the error counted and noted, 0x6008; more than 16 of a bank within
1 s raise 0x6009 (R415). -/
def correctable (r : MemRead) (data : BitVec 64) (source nowMs : Nat) (s : State) : State :=
  let b := r.bank
  let times := (b, nowMs) :: s.lks.ceTimes.filter (fun t => decide (nowMs < t.2 + 1000))
  let s := { s with lks := { s.lks with ce := s.lks.ce.upd b (satInc 16), last := (b.val, 1, source, r.word), syn := (syndrome r).toNat, returned := data, ceTimes := times } }
  let s := raise 0x6008 b.val 0 s
  if 16 < (times.filter (fun t => decide (t.1 = b))).length then raise 0x6009 b.val 0 s else s

/-- CORRECTABLE_ERROR: found on a read other than the scrubber's; a word whose check bits say otherwise is no correctable error. -/
def execCorrectableError (r : MemRead) (reader : MemReader) (nowMs : Nat) (s : State) : Host.Outcome State Fault Refusal :=
  match verdict r with
  | .corrected d => if s.lks.startOk = true ∧ s.lks.poisoned.contains (r.bank, r.word) = false then .next (correctable r d reader.num nowMs s) else .next s
  | _ => .next s

/-- The word index a bank's scrubber reads now, and its pass. -/
def scrubAt (s : State) (b : Fin 9) : Nat × Nat := if b.val = 8 then (s.lks.wMap, s.lks.mapPasses) else (s.lks.wSram, s.lks.passes)

/-- A word that the scrubber corrected: at two passes in a row it raises 0x6009 (R415). -/
def writtenBack (b : Fin 9) (s : State) : State :=
  let a := scrubAt s b
  let again := s.lks.corrected.any (fun c => decide (c.1 = b ∧ c.2.1 = a.1 ∧ (c.2.2 + 1) % 2 ^ 16 = a.2))
  let s := { s with lks := { s.lks with corrected := (b, a.1, a.2) :: s.lks.corrected.filter (fun c => !(decide (c.1 = b) && (decide (c.2.1 = a.1) || (decide (c.2.2 ≠ a.2) && decide ((c.2.2 + 1) % 2 ^ 16 ≠ a.2))))) } }
  if again then raise 0x6009 b.val 0 s else s

/-- What a scrubber does with a word it read: a correctable one is counted, once if a reader finds it too, and written back. The write of a pair
in between stands, drops the write-back, and clears a poison (R416, R417). -/
def scrubbed (nowMs : Nat) (s : State) (x : ScrubWord) : State :=
  let r : MemRead := { bank := x.bank, word := (scrubAt s x.bank).1, data := x.data, check := x.check }
  let s :=
    match verdict r with
    | .corrected d =>
      if s.lks.poisoned.contains (r.bank, r.word) then s
      else
        let s := if x.shared then s else correctable r d 0 nowMs s
        if x.raced then s else writtenBack x.bank s
    | _ => s
  if x.raced then { s with lks := { s.lks with poisoned := s.lks.poisoned.filter (fun v => decide (v ≠ (r.bank, r.word))) } } else s

/-- Each scrubber moves to its next word; a pass ends behind the last (R416). -/
def scrubNext (s : State) : State :=
  let l := s.lks
  { s with lks := { l with
      wSram := if l.wSram + 1 < 98304 then l.wSram + 1 else 0, passes := if l.wSram + 1 < 98304 then l.passes else wrapInc 16 l.passes,
      wMap := if l.wMap + 1 < 32768 then l.wMap + 1 else 0, mapPasses := if l.wMap + 1 < 32768 then l.mapPasses else wrapInc 16 l.mapPasses } }

/-- SCRUB_READ: every 2 µs one word of each bank and of the map store is read; corrected ones are written back. The words not brought are
clean. -/
def execScrubRead (words : List ScrubWord) (nowMs : Nat) (s : State) : Host.Outcome State Fault Refusal :=
  if s.lks.startOk then .next (scrubNext (words.foldl (scrubbed nowMs) s)) else .next s

/-- An uncorrectable error, of a poisoned word or of any other: in a locked store or the code region 0x600B, and an Orrery update that read
the word is late; elsewhere the word is poisoned, 0x600A; a pair's read is a mismatch of KIND 7 (R417). -/
def uncorrectable (r : MemRead) (reader : MemReader) (locked : Bool) (s : State) : State :=
  let b := r.bank
  let poisoned := s.lks.poisoned.contains (b, r.word)
  let s := { s with lks := { s.lks with ue := s.lks.ue.upd b (satInc 8), last := (b.val, if poisoned then 3 else 2, reader.num, r.word), syn := if poisoned then poisonSyndrome.toNat else (syndrome r).toNat } }
  let s :=
    if locked = true ∨ (b = 8 ∧ s.cat.locked = true) then raise 0x600B b.val 0 s
    else if poisoned then s
    else raise 0x600A b.val 0 { s with lks := { s.lks with poisoned := (b, r.word) :: s.lks.poisoned } }
  match reader with
  | .pair p => mismatch p 7 0 s
  | .orrery t => if locked = true ∨ (b = 8 ∧ s.cat.locked = true) then orrLate t s else s
  | _ => s

/-- UNCORRECTABLE_ERROR: a word read that the check bits call uncorrectable, or a poisoned one. -/
def execUncorrectableError (r : MemRead) (reader : MemReader) (locked : Bool) (s : State) : Host.Outcome State Fault Refusal :=
  if s.lks.startOk = true ∧ (s.lks.poisoned.contains (r.bank, r.word) = true ∨ verdict r = .uncorrectable) then .next (uncorrectable r reader locked s) else .next s

/-! ## Debug (R418 to R420) -/

/-- Debug access is open: Study, unlocked (R418, R524). -/
def debugOpen (s : State) : Bool := s.tapOn && decide (s.life = 1) && s.sec.jtagOpen

/-- DEBUG_HALT: the checker runs on to the main copy's transfer boundary, through the two steps still in the delay registers, which are
compared as any others, and stops there (R418). `main` and `checker` are the copies' architectural states at the boundary. -/
def execDebugHalt (p : LPair) (tail : CoreStep) (main checker : List (BitVec 64)) (s : State) : Host.Outcome State Fault Refusal :=
  if debugOpen s = true ∧ (s.lks.pairs.get p).st = 1 then
    let s := [0, 1].foldl (fun s i => pairStep p tail .idle .idle (tail.checker.getD i .idle) s) s
    .next (if (s.lks.pairs.get p).st = 1 then updPair p (fun x => { x with st := 4, regs := main, chkRegs := checker }) s else s)
  else .next s

/-- A register of a copy written. -/
def putReg (rs : List (BitVec 64)) (w : Nat × Nat) : List (BitVec 64) := rs.set w.1 (BitVec.ofNat 64 w.2)

/-- DEBUG_REGISTER_WRITE: into the main copy and the replay queue of 256; a full queue refuses it with an error status on JTAG and
0x600D. -/
def execDebugRegisterWrite (p : LPair) (reg value : Nat) (s : State) : Host.Outcome State Fault Refusal :=
  let x := s.lks.pairs.get p
  if debugOpen s = false ∨ x.st ≠ 4 then .next s
  else if x.replay.length < 256 then .next (updPair p (fun x => { x with regs := putReg x.regs (reg, value), replay := x.replay ++ [(reg, value)] }) s)
  else .next (send .jtagError (raise 0x600D p.num 0 s))

/-- DEBUG_RESUME: the checker applies the queue in order, then both copies run and are compared from the first transfer on, with the export
that was due at a resume; after a single step both stand halted again (R407, R419). -/
def execDebugResume (p : LPair) (single : Bool) (steps : List CoreStep) (main checker : List (BitVec 64)) (s : State) : Host.Outcome State Fault Refusal :=
  let x := s.lks.pairs.get p
  if debugOpen s = false ∨ x.st ≠ 4 then .next s
  else
    let s := updPair p (fun x => { x with chkRegs := x.replay.foldl putReg x.chkRegs, replay := [], st := 1 }) s
    let s := if single = false ∧ x.exportDue = true then compareExport p main checker s else s
    let s := steps.foldl (pairRun p) s
    .next (if single = true ∧ (s.lks.pairs.get p).st = 1 then updPair p (fun x => { x with st := 4, regs := main, chkRegs := checker }) s else s)

end Sys2Proof.Machine
end

