-- ==== Sys2Proof/Machine/Security.lean ====
section
/-! DEFINITION. Unlocks by signed challenge, lifecycle changes by key, attestation and the JTAG unlock (21_security.md, R518 to R524). -/

namespace Sys2Proof.Machine

/-! ## Challenges (R522, R523) -/

/-- The 48 bytes of a seed: "NRCH", the level, the lifecycle, two zeros, the identity, the nonce. -/
def seedBytes (s : State) (level : Nat) : List Byte :=
  [0x4E, 0x52, 0x43, 0x48, BitVec.ofNat 8 level, BitVec.ofNat 8 s.life, 0, 0] ++ natLe 8 s.ident ++ (padTo 32 0 (Config.nonce s.sec.nNonce)).take 32

/-- A new challenge takes the place of the outstanding one. -/
def newChallenge (p : Option UPath) (level : Nat) (s : State) : State :=
  { s with sec := { s.sec with challenge := some { path := p, level := level, seed := seedBytes s level, seg := 0, key := 0 }, nNonce := s.sec.nNonce + 1 } }

/-- A key may be used for a level: 0x63 by the Tabath root key, 0x65 by it or a key of UNLOCK_MASK, the others by a key of
UNLOCK_MASK. Without a loaded policy only the root key may (log entry 31). -/
def keyAllowed (s : State) (level key : Nat) : Bool :=
  let mask := if s.cat.recovery then 16 else s.pu 0xC0 0 204
  let named := (decide (key < 4) && mask.testBit key) || (decide (key = 0xFF) && mask.testBit 4)
  if level = 0x63 then decide (key = 0xFF)
  else if level = 0x65 then decide (key = 0xFF) || named
  else named

/-- A lifecycle change is refused here: in DRIVE and CHARGE, and where R518 allows no such transition. -/
def lifeRefused (s : State) (level : Nat) : Bool :=
  decide (s.sys.mode = .drive ∨ s.sys.mode = .charge) || (decide (level = 0x63) && decide (s.life ≠ 2))

/-- A requestSeed during the delay: 0x37 and 0x8011 (R523). -/
def delayed (p : UPath) (s : State) : State := udsNeg p 0x27 0x37 (raise 0x8011 noInst 0 s)

/-- REQUEST_SEED: a new challenge for the path and level; any outstanding one is discarded (R522, R523). -/
def execRequestSeed (p : UPath) (level : Nat) (s : State) : Host.Outcome State Fault Refusal :=
  .next (udsServe p 0x27 [2, 3] 0 (fun s =>
    if [1, 3, 0x63, 0x65].contains level = false then udsNeg p 0x27 (if level = 0x61 then 0x13 else 0x12) s
    else if s.life = 4 then udsNeg p 0x27 0x12 s
    else if s.ka.unlockDelay then delayed p s
    else if 0x63 ≤ level ∧ lifeRefused s level = true then udsNeg p 0x27 0x22 s
    else
      let t := newChallenge (some p) level s
      udsPos p ([0x67, BitVec.ofNat 8 level] ++ seedBytes s level) t) s)

/-- SEND_KEY: one of the eight segments; with the last the verification is asked of the engine (R522, R523). `level` is the level of
the challenge, `len` the signature bytes of the segment. -/
def execSendKey (p : UPath) (level seg : Nat) (key : Nat) (len : Nat) (s : State) : Host.Outcome State Fault Refusal :=
  .next (udsServe p 0x27 [2, 3] 0 (fun s =>
    match s.sec.challenge with
    | none => udsNeg p 0x27 0x24 s
    | some c =>
      if c.path ≠ some p ∨ c.level ≠ level ∨ seg ≠ c.seg then udsNeg p 0x27 0x24 s
      else if len ≠ 3724 then udsNeg p 0x27 0x13 s
      else
        let c := { c with seg := c.seg + 1, key := if seg = 0 then key else c.key }
        if seg < 7 then udsPos p [0x67, BitVec.ofNat 8 (level + 1)] { s with sec := { s.sec with challenge := some c } }
        else { s with sec := { s.sec with challenge := none, jobs := s.sec.jobs ++ [.key c], pend := s.sec.pend ++ [(p, s.mer.ns + 50000000)] } }) s)

/-- A failed key: the count in KA, 0x8010; the third in a row starts the 10 s delay with 0x8011 (R523). The negative response code. -/
def keyFailed (s : State) : Nat × State :=
  let n := s.ka.unlockFails + 1
  let s := raise 0x8010 noInst n { s with ka := { s.ka with unlockFails := min n 255 } }
  if 3 ≤ n then (0x36, raise 0x8011 noInst 0 { s with ka := { s.ka with unlockDelay := true } }) else (0x35, s)

/-- The OTP programs of a lifecycle change: the byte, and for Deaccessioned every bit of both identity slots (R519). -/
def lifeWords (level : Nat) : List (Nat × BitVec 64) :=
  if level = 0x63 then [(5, BitVec.ofNat 64 (255 * 256 ^ 2))]
  else (5, BitVec.ofNat 64 (255 * 256 ^ 3)) :: (List.range 34).map (fun j => (24 + j, BitVec.ofNat 64 (2 ^ 64 - 1)))

/-- A lifecycle change by key: each OTP word after its own hold-up check, then the reset; while an operation runs, or a check has failed, the
words wait as others do and the reset follows the last of them (R84, R87, R519). -/
def changeLife (level : Nat) (holdVolts : List Q) (verifyFails : Nat) (s : State) : State :=
  let s := { s with sec := { s.sec with lcReset := true } }
  let volts := if s.ops.running.isSome = true ∨ otpWaits s = true ∨ startsOver s = true then [] else holdVolts
  lifecycleEnds (program (lifeWords level) { fails := verifyFails, volts := volts, stopped := false, st := s }).st

/-- What a valid key grants: an unlock of its path, while that path's session is not the default one, a lifecycle change that resets, or JTAG
(R519, R522 to R524). -/
def grant (c : Challenge) (holdVolts : List Q) (verifyFails : Nat) (s : State) : State :=
  let s := { s with ka := { s.ka with unlockFails := 0 } }
  match c.path with
  | none => { s with sec := { s.sec with jtagOpen := true } }
  | some p =>
    if c.level < 0x60 then
      if s.uds.session.get p = 1 then udsPos p [0x67, BitVec.ofNat 8 (c.level + 1)] s
      else udsPos p [0x67, BitVec.ofNat 8 (c.level + 1)] { s with uds := { s.uds with unlocks := (p, c.level) :: s.uds.unlocks.filter (fun x => decide (x ≠ (p, c.level))) } }
    else if lifeRefused s c.level then udsNeg p 0x27 0x22 s
    else
      let s := udsPos p [0x67, BitVec.ofNat 8 (c.level + 1)] s
      changeLife c.level holdVolts verifyFails s

/-- The UDS request that waits for an operation of the engine (R511). -/
def EngJob.asker : EngJob → Option UPath
  | .key c => c.path
  | .sign (.uds p) => some p
  | .sign (.fabric _ _ _) => none

/-- The engine completes an operation: its UDS request waits no more. -/
def jobDone (s : State) : State :=
  let asker := s.sec.jobs.head?.bind EngJob.asker
  { s with sec := { s.sec with jobs := s.sec.jobs.tail, ops := (s.sec.ops + 1) % 2 ^ 16, pend := s.sec.pend.eraseP (fun x => decide (some x.1 = asker)) } }

/-- KEY_VERIFICATION_DONE: the running verification ends against the challenge it was issued for (R523). -/
def execKeyVerificationDone (sigOk : Bool) (holdVolts : List Q) (verifyFails : Nat) (s : State) : Host.Outcome State Fault Refusal :=
  match s.sec.jobs with
  | .key c :: _ =>
    let s := jobDone s
    if sigOk = true ∧ keyAllowed s c.level c.key = true then .next (grant c holdVolts verifyFails s)
    else
      let r := keyFailed s
      match c.path with
      | some p => .next (udsNeg p 0x27 r.1 r.2)
      | none => .next r.2
  | _ => .next s

/-- CHALLENGE_TIMEOUT: 60 s without a sendKey discard the challenge (R523). -/
def execChallengeTimeout (idleS : Nat) (s : State) : Host.Outcome State Fault Refusal :=
  if 60 ≤ idleS then .next { s with sec := { s.sec with challenge := none } } else .next s

/-- UNLOCK_DELAY_END: the 10 s delay ends and the count of failures begins anew (R523, log entry 32). -/
def execUnlockDelayEnd (elapsedMs : Nat) (s : State) : Host.Outcome State Fault Refusal :=
  if s.ka.unlockDelay = true ∧ 10000 ≤ elapsedMs then .next { s with ka := { s.ka with unlockDelay := false, unlockFails := 0 } }
  else .next s

/-! ## Attestation (R521) -/

/-- The bytes 64 to 127 of the identity key in use: PK.seed and PK.root. -/
def idPublic (s : State) : List Byte :=
  match s.sec.idSlot with
  | some k => (List.range 8).flatMap (fun j => natLe 8 (s.otp.get (24 + 17 * k.val + 8 + j)).toNat)
  | none => List.replicate 64 0

/-- SHAKE256 of the Catalogue bytes 0 to IMAGE_LEN − 1 of the running slot; zeros with none. -/
def catHash (s : State) : List Byte :=
  if s.cat.locked then
    let bs := s.flash.region s.cat.slotRun 2
    let l := uAt ((blkAt bs 0).map (·.data) |>.getD []) 8 4
    (padTo 32 0 (Config.shake256 ((imgBytes bs ((l + 4091) / 4092) 0).take l) 32)).take 32
  else List.replicate 32 0

/-- The bytes 0 to 207 of a report. The hash of the firmware image, whose layout is not documented, is free (log entry 25). -/
def reportBody (nonce : List Byte) (s : State) : List Byte × State :=
  let f := freeBytes s
  let slots := maskOf ((List.range 4).map (fun k => !s.oemEmpty k) ++ (List.range 4).map s.revoked)
  ([0x4E, 0x52, 0x41, 0x54, 0x01, 0x00, BitVec.ofNat 8 s.life, if s.cat.locked then BitVec.ofNat 8 s.cat.oemKey else 0xFF] ++ natLe 8 s.ident ++ nonce
    ++ natLe 8 s.timeNs ++ natLe 4 s.sys.version ++ [BitVec.ofNat 8 s.arbCount, BitVec.ofNat 8 slots, 0, 0] ++ natLe 4 s.cat.buildLo ++ natLe 4 s.cat.buildHi
    ++ natLe 4 (vitSec s 0x100) ++ natLe 4 (vitSec s 0x114) ++ idPublic s ++ (padTo 32 0 f.1).take 32 ++ catHash s, f.2)

/-- The 50,064 bytes of a signed report. -/
def reportBytes (r : List Byte × Nat) : List Byte := r.1 ++ (padTo 49856 0 (Config.attestSignature r.2)).take 49856

/-- A report is built and its signature asked of the engine; it takes the place of an older one. -/
def startReport (req : AttReq) (nonce : List Byte) (s : State) : State :=
  let b := reportBody nonce s
  let wait := (EngJob.asker (.sign req)).toList.map (fun p => (p, s.mer.ns + 50000000))
  { b.2 with sec := { b.2.sec with report := some (b.1, none), jobs := b.2.sec.jobs ++ [.sign req], pend := b.2.sec.pend ++ wait } }

/-- Segment `k` of the signed report, if there is one. -/
def reportSegment (s : State) (k : Nat) : Option (List Byte) :=
  match s.sec.report with
  | some (b, some n) => some (bytesAt (reportBytes (b, n)) (3584 * k) 3584)
  | _ => none

/-- ATTESTATION_REQUEST: requestSeed at level 0x61: index 0 builds a report, which is answered once signed; a higher index reads a
segment (R521). As a requestSeed it discards the outstanding challenge and waits out the delay (R523). -/
def execAttestationRequest (p : UPath) (index : Nat) (nonce : List Byte) (s : State) : Host.Outcome State Fault Refusal :=
  .next (udsServe p 0x27 [2, 3] 0 (fun s =>
    if s.ka.unlockDelay then delayed p s
    else
      let s := { s with sec := { s.sec with challenge := none } }
      if 13 < index then udsNeg p 0x27 0x31 s
      else if index = 0 then
        if nonce.length ≠ 32 then udsNeg p 0x27 0x13 s
        else if s.sec.idSlot = none then udsNeg p 0x27 0x22 s
        else startReport (.uds p) nonce s
      else
        match reportSegment s index with
        | some b => udsPos p ([0x67, 0x61] ++ b) s
        | none => udsNeg p 0x27 0x24 s) s)

/-- The parts of a report for data frames: OFFSET, LENGTH, then at most 1,016 bytes (R465). -/
def reportParts : Nat → Nat → List Byte → List (List Byte)
  | 0, _, _ => []
  | n + 1, off, b => if b = [] then [] else (natLe 4 off ++ natLe 4 (min 1016 b.length) ++ b.take 1016) :: reportParts n (off + 1016) (b.drop 1016)

/-- ATTESTATION_SIGNED: the running signature is done: the UDS requester gets segment 0, a fabric requester the whole report in data
frames (R521). A report that a newer one has replaced is answered 0x24. -/
def execAttestationSigned (s : State) : Host.Outcome State Fault Refusal :=
  match s.sec.jobs with
  | .sign r :: rest =>
    let s := jobDone s
    let newer := rest.any (fun j => match j with
      | .sign _ => true
      | .key _ => false)
    match s.sec.report with
    | none => .next s
    | some b =>
      if newer then
        match r with
        | .uds p => .next (udsNeg p 0x27 0x24 s)
        | .fabric node tag ep => .next (mgmtReply node ep 0 0x31 tag 4 [] s)
      else
        let n := s.sec.nSig
        let s := { s with sec := { s.sec with nSig := n + 1, report := some (b.1, some n) } }
        match r with
        | .uds p => .next (udsPos p ([0x67, 0x61] ++ bytesAt (reportBytes (b.1, n)) 0 3584) s)
        | .fabric node tag ep => .next (sendBulk 2 node 0 0 (reportParts 50 0 (reportBytes (b.1, n))) (mgmtReply node ep 0 0x31 tag 0 [] s))
  | _ => .next s

/-! ## JTAG (R524) -/

/-- JTAG_CHAL: in Study, until the TAP is unlocked, CHAL returns a new seed of level byte 0x00. -/
def execJtagChal (s : State) : Host.Outcome State Fault Refusal :=
  if s.tapOn = false ∨ s.life ≠ 1 ∨ s.sec.jtagOpen = true then .next s
  else if s.ka.unlockDelay then .next (raise 0x8011 noInst 0 s)
  else .next (send (.jtag (seedBytes s 0)) (newChallenge none 0 s))

/-- JTAG_KEY: a valid signature by a key of UNLOCK_MASK opens debug access until the next reset; a failed one counts (R524). -/
def execJtagKey (key : Nat) (sigOk : Bool) (s : State) : Host.Outcome State Fault Refusal :=
  match s.sec.challenge with
  | some c =>
    if s.tapOn = true ∧ s.life = 1 ∧ c.path = none ∧ s.sec.jtagOpen = false then
      let s := { s with sec := { s.sec with challenge := none, ops := (s.sec.ops + 1) % 2 ^ 16 } }
      if sigOk = true ∧ keyAllowed s 0 key = true then .next (grant c [] 0 s) else .next (keyFailed s).2
    else .next s
  | none => .next s

end Sys2Proof.Machine
end

