-- ==== Sys2Proof/Machine/Fabric.lean ====
section
/-! DEFINITION. The Ryfawen fabric (18_ryfawen_fabric.md): ports, per-hop delivery, discovery, time, E2E checks, global operations and
the management endpoint. -/

namespace Sys2Proof.Machine

/-- The fabric's hardware runs: the function is present and the interfaces run (R49, R89). -/
def fabOn (s : State) : Bool := s.fn 10 && s.sup.ifaces

/-- Its services run: Ganymede's do too. -/
def fabServes (s : State) : Bool := fabOn s && s.ganyOn

/-! ## Port states (R443) -/

/-- PORT_DOWN_EXPIRY: 1 ms after it entered DOWN the port enters TRAIN, unless a fault of class F3 keeps it stopped. Every change of a port is
advertised (R453). -/
def execPortDownExpiry (p : Port) (elapsedUs : Nat) (s : State) : Host.Outcome State Fault Refusal :=
  if fabOn s = true ∧ s.portOn p.val = true ∧ (s.fab.ports.get p).st = 1 ∧ 1000 ≤ elapsedUs then .next (portChanged (updPort p (fun x => { x with st := 2 }) s))
  else .next s

/-- PORT_TRAINED: 64 symbols without a violation: HELLO. -/
def execPortTrained (p : Port) (symbols : Nat) (s : State) : Host.Outcome State Fault Refusal :=
  if fabOn s = true ∧ (s.fab.ports.get p).st = 2 ∧ 64 ≤ symbols then .next (portChanged (updPort p (fun x => { x with st := 3, hello := 0, helloId := 0 }) s))
  else .next s

/-- HELLO_SEND: in HELLO the port sends one HELLO frame every 100 µs; its payload bytes are free (log entry 25). -/
def execHelloSend (p : Port) (s : State) : Host.Outcome State Fault Refusal :=
  if fabOn s = true ∧ (s.fab.ports.get p).st = 3 then
    let f := freeBytes s
    .next (send (.fab p 2 (linkFrame f.2 f.1)) (updPort p (fun x => { x with tx := wrapInc 16 x.tx }) f.2))
  else .next s

/-- HELLO_FRAME: the third HELLO frame in a row with one identity, echoing this node's: UP, with both link sequences anew. -/
def execHelloFrame (p : Port) (ident echo : Nat) (s : State) : Host.Outcome State Fault Refusal :=
  let x := s.fab.ports.get p
  if fabOn s = false ∨ x.st ≠ 3 then .next s
  else
    let n := if 0 < x.hello ∧ x.helloId = ident then x.hello + 1 else 1
    if 3 ≤ n ∧ echo = s.ident then
      .next (portChanged (updPort p (fun x => { x with st := 4, nbrId := ident, hello := 0, helloId := 0, txLink := 0, rxLink := 0, replay := [], waiting := [], rx := none, delays := [] }) s))
    else .next (updPort p (fun x => { x with hello := min n 3, helloId := ident }) s)

/-- ALIGNMENT_LOSS: four code violations within 64 symbols: DOWN at once; from UP it is a link down (R443, R451). -/
def execAlignmentLoss (p : Port) (violations : Nat) (s : State) : Host.Outcome State Fault Refusal :=
  let x := s.fab.ports.get p
  if fabOn s = false ∨ x.st < 2 ∨ 4 < x.st then .next s
  else
    let s := updPort p (fun x => { x with codev := satAdd 8 x.codev violations }) s
    if violations < 4 then .next s
    else if x.st = 4 then .next (dropLink p s)
    else .next (portChanged (closePort 1 p s))

/-! ## Per-hop delivery (R444, R445, R450 to R452) -/

/-- A header breaks a rule of R445. -/
def headerBroken (s : State) (h : FabHeader) : Bool :=
  let wantsE2e := decide (h.type = 1 ∨ h.type = 3 ∨ h.type = 4)
  let mine := decide (h.type = 2) || (s.fab.admitted && decide (h.dst = s.fab.addr))
  decide (h.version ≠ 1) || decide (4 < h.type) || (h.e2e != wantsE2e) || (h.bcast != decide (h.dst = 0xFF))
    || decide (h.rsv1 ≠ 0 ∨ h.rsv9 ≠ 0 ∨ h.rsv14 ≠ 0) || decide (1024 < h.len ∨ h.len % 4 ≠ 0) || (decide (12 ≤ h.hop) && !mine)

/-- An egress port is idle and holds no committed packet in FAB_OUT. -/
def egressIdle (s : State) (p : Port) : Bool :=
  let q := s.pq.get (outQ p)
  decide ((s.fab.ports.get p).txWords = []) && decide ((s.fab.ports.get p).replay.length < 8) && !clsAll.any (fun c => (q.chains.get c).ready)
    && !cutInto s p

/-- Where a frame with a sound header goes. -/
def rxWay (s : State) (h : FabHeader) : RxWay :=
  if h.type = 2 then .here
  else if h.type ≠ 3 ∧ s.fabReady = false then .drop
  else if h.bcast = true ∨ (s.fab.admitted = true ∧ h.dst = s.fab.addr) then .here
  else if s.fab.admitted = false then .drop
  else
    match (idAt s h.dst).bind (egress s) with
    | some p => if egressIdle s p then .cut p else .store p
    | none => .drop

/-- FRAME_HEADER_RECEIVED: the header is checked; HDR counts one that breaks a rule, UNREACH one without a route; a frame in sequence is
kept, cut through or stored (R445, R452, R456). -/
def execFrameHeaderReceived (p : Port) (h : FabHeader) (s : State) : Host.Outcome State Fault Refusal :=
  let x := s.fab.ports.get p
  if fabOn s = false ∨ x.st ≠ 4 then .next s
  else if h.link ≠ x.rxLink then .next (updPort p (fun x => { x with rx := some (h, .drop) }) s)
  else if headerBroken s h then
    .next { (updPort p (fun x => { x with rx := some (h, .drop) }) s) with fab := { (updPort p (fun x => { x with rx := some (h, .drop) }) s).fab with hdr := satInc 8 s.fab.hdr } }
  else
    let w := rxWay s h
    let lost := decide (w = .drop) && s.fab.admitted && s.fabReady
    let s := updPort p (fun x => { x with rx := some (h, w) }) s
    .next (if lost then { s with fab := { s.fab with unreach := satInc 8 s.fab.unreach } } else s)

/-- A frame that ends in EOB or fails its CRC is rewound where it was being written (R424, R452). -/
def rewindRx (p : Port) (s : State) : State :=
  let count (q : QId) (s : State) : State := updQ q (fun x => { x with abort := satInc 8 x.abort }) s
  match (s.fab.ports.get p).rx with
  | some (h, .here) => if h.type = 2 then s else count (inQ p) s
  | some (_, .store e) => count (outQ e) s
  | _ => s

/-- The bytes of a frame as it leaves again: one more hop. -/
def hopped (h : FabHeader) (payload : List Byte) : List Byte := hdrBytes { h with hop := h.hop + 1 } ++ payload

/-- A whole frame in sequence goes its way; a broadcast is also forwarded down its source's tree (R456). -/
def takeFrame (p : Port) (h : FabHeader) (w : RxWay) (payload : List Byte) (s : State) : State :=
  match w with
  | .drop => s
  | .here =>
    if h.type = 2 then s
    else
      let s := pushPacket (inQ p) (clsFin h.cls) (frameWords 130 (hdrBytes h ++ payload)) s
      if h.bcast then
        match idAt s h.src with
        | some i => (treePorts s i).foldl (fun s e => queueOut e h.cls (hopped h payload) s) s
        | none => s
      else s
  | .cut e => transmit e h.type (hopped h payload) s
  | .store e => queueOut e h.cls (hopped h payload) s

/-- The answer to a passing frame out of sequence: ACK again for a link sequence already received, the 2^15 before the expected one, else NAK
with the expected one (R450, log entry 49). -/
def answerTo (expected got : Nat) : LaneSym :=
  if (expected + 2 ^ 16 - got % 2 ^ 16) % 2 ^ 16 ≤ 2 ^ 15 then .ack ((expected + 2 ^ 16 - 1) % 2 ^ 16) else .nak expected

/-- FRAME_END_RECEIVED: at EOF a frame that passes in sequence is taken and ACKed; one that fails is rewound, NAKed, and ends in EOB where it
was being forwarded; a repeat is only ACKed again (R450, R452). -/
def execFrameEndReceived (p : Port) (crcOk : Bool) (payload : List Byte) (s : State) : Host.Outcome State Fault Refusal :=
  let x := s.fab.ports.get p
  match x.rx with
  | none => .next s
  | some (h, w) =>
    if fabOn s = false ∨ x.st ≠ 4 then .next s
    else if crcOk = false then .next (send (.sym p (.nak x.rxLink)) (updPort p (fun x => { x with rx := none, crc := satInc 8 x.crc }) (rewindRx p (eobOut p s))))
    else if h.link ≠ x.rxLink then .next (send (.sym p (answerTo x.rxLink h.link)) (updPort p (fun x => { x with rx := none, rxN := wrapInc 16 x.rxN }) s))
    else .next (takeFrame p h w payload (send (.sym p (.ack h.link)) (updPort p (fun x => { x with rx := none, rxN := wrapInc 16 x.rxN, rxLink := wrapInc 16 x.rxLink }) s)))

/-- EOB_RECEIVED: an aborted frame is rewound, and ends in EOB where it was being forwarded; it consumes no link sequence (R450, R452). -/
def execEobReceived (p : Port) (s : State) : Host.Outcome State Fault Refusal :=
  if fabOn s = true ∧ (s.fab.ports.get p).st = 4 then .next (updPort p (fun x => { x with rx := none }) (rewindRx p (eobOut p s))) else .next s

/-- ACK_RECEIVED: the frames up to and including a link sequence leave the replay buffer; a frame that waited takes the place. -/
def execAckReceived (p : Port) (link : Nat) (s : State) : Host.Outcome State Fault Refusal :=
  let x := s.fab.ports.get p
  if fabOn s = false ∨ x.st ≠ 4 then .next s
  else
    match x.replay.findIdx? (fun f => decide (f.link = link)) with
    | some k => .next (drainWaiting p x.waiting.length (updPort p (fun x => { x with replay := x.replay.drop (k + 1) }) s))
    | none => .next s

/-- The frames of the replay buffer from the `k`-th on are sent again; a frame resent four times already takes the link down (R450,
R451). -/
def resendFrom (p : Port) (k : Nat) (s : State) : State :=
  let x := s.fab.ports.get p
  let fs := x.replay.drop k
  match fs with
  | [] => s
  | f :: _ =>
    if 4 ≤ f.resends then dropLink p s
    else
      let s := updPort p (fun x => { x with replay := x.replay.take k ++ fs.map (fun g => { g with resends := g.resends + 1 }), resends := satAdd 8 x.resends fs.length }) s
      fs.foldl (fun s g => send (.fab p g.ty g.bytes) s) s

/-- NAK_RECEIVED: resends from the NAKed frame onward. -/
def execNakReceived (p : Port) (link : Nat) (s : State) : Host.Outcome State Fault Refusal :=
  let x := s.fab.ports.get p
  if fabOn s = false ∨ x.st ≠ 4 then .next s
  else
    match x.replay.findIdx? (fun f => decide (f.link = link)) with
    | some k => .next (resendFrom p k s)
    | none => .next s

/-- REPLAY_TIMEOUT: no ACK covers the oldest frame 2 µs after its EOF: it and the following are sent again. -/
def execReplayTimeout (p : Port) (sinceNs : Nat) (s : State) : Host.Outcome State Fault Refusal :=
  if fabOn s = true ∧ (s.fab.ports.get p).st = 4 ∧ 2000 ≤ sinceNs then .next (resendFrom p 0 s) else .next s

/-- LINK_DOWN: a frame's fourth resend has failed (R451). -/
def execLinkDown (p : Port) (s : State) : Host.Outcome State Fault Refusal :=
  let x := s.fab.ports.get p
  if fabOn s = true ∧ x.st = 4 ∧ x.replay.any (fun f => decide (4 ≤ f.resends)) = true then .next (dropLink p s) else .next s

/-! ## End-to-end checks (R446, R448, R449) -/

/-- A stream of the list replaced. -/
def putStream (x : FabStream) (xs : List FabStream) : List FabStream :=
  x :: xs.filter (fun y => !(decide (y.src = x.src) && decide (y.sep = x.sep) && decide (y.dep = x.dep) && (y.bcast == x.bcast)))

/-- A control frame is rejected: 0x6806 with the source node. -/
def rejectCtl (x : FabStream) (s : State) : State :=
  raise 0x6806 x.src 0 { s with fab := { s.fab with streams := putStream x s.fab.streams, e2e := satInc 8 s.fab.e2e } }

/-- CONTROL_FRAME_RECEIVED: the trailer of a frame for an endpoint of this node is checked; an accepted frame goes to its owner: endpoints
2, 3 and 5 to the pair, the others by commands of their own (R446, R448). -/
def execControlFrameReceived (h : FabHeader) (payload : List Byte) (c : CtlContent) (s : State) : Host.Outcome State Fault Refusal :=
  if fabServes s = false ∨ h.e2e = false ∨ (h.type ≠ 3 ∧ s.fabReady = false) then .next s
  else if payload.length < 8 then .next (raise 0x6807 h.src 0 { s with fab := { s.fab with zctl := satInc 8 s.fab.zctl } })
  else
    let n := payload.length - 8
    let cnt := uAt payload n 2
    let found := s.fab.streams.find? (fun y => decide (y.src = h.src) && decide (y.sep = h.sep) && decide (y.dep = h.dep) && (y.bcast == h.bcast))
    let x : FabStream := found.getD { src := h.src, sep := h.sep, dep := h.dep, bcast := h.bcast, last := 0, resync := false, lastGood := none }
    if uAt payload (n + 2) 2 ≠ dataId h ∨ uAt payload (n + 4) 4 ≠ crc32c (e2eCover h (payload.take (n + 4))) then
      .next (if found.isSome then rejectCtl { x with resync := true, lastGood := none } s
        else raise 0x6806 h.src 0 { s with fab := { s.fab with e2e := satInc 8 s.fab.e2e } })
    else
      match judgeCounter found.isSome x.resync x.lastGood x.last cnt with
      | .accept k =>
        let s := { s with fab := { s.fab with streams := putStream { x with last := cnt, resync := false, lastGood := none } s.fab.streams, lostc := satAdd 16 s.fab.lostc k } }
        .next (if (h.dep = 2 ∨ h.dep = 3 ∨ h.dep = 5) ∧ partnerAddr s = some h.src then pairFrame c s else s)
      | .again => .next s
      | .hold => .next { s with fab := { s.fab with streams := putStream { x with lastGood := some cnt } s.fab.streams } }
      | .reject => .next (rejectCtl { x with resync := true, lastGood := some cnt } s)

/-- DATA_FRAME_RECEIVED: a gap in the source's sequence is added to GAPS; an empty frame counts in EMPTY (R446, R449). -/
def execDataFrameReceived (h : FabHeader) (s : State) : Host.Outcome State Fault Refusal :=
  if fabServes s = false ∨ h.type ≠ 0 ∨ s.fabReady = false then .next s
  else
    let gap := match Tab.find h.src s.fab.rxData with
      | some l => ((h.seq + 2 ^ 16 - l % 2 ^ 16) % 2 ^ 16) - 1
      | none => 0
    .next { s with fab := { s.fab with rxData := setCount h.src (h.seq % 2 ^ 16) s.fab.rxData, gaps := satAdd 16 s.fab.gaps gap, empties := if h.len = 0 then wrapInc 16 s.fab.empties else s.fab.empties } }

/-! ## Discovery (R453 to R455) -/

/-- Discovery runs from the end of Accession. -/
def discovers (s : State) : Bool := fabServes s && (s.cat.locked || s.cat.recovery)

/-- ADVERT_SEND: every 100 ms the node floods its advert. -/
def execAdvertSend (s : State) : Host.Outcome State Fault Refusal := if discovers s then .next (floodOwn s) else .next s

/-- An identity in a sorted list. -/
def insertId (x : Nat) : List Nat → List Nat
  | [] => [x]
  | y :: ys => if x < y then x :: y :: ys else if x = y then y :: ys else y :: insertId x ys

/-- A port leaves service until a reset: EXCLUDED (R453, R454). -/
def excludePort (p : Port) (s : State) : State := closePort 5 p s

/-- The list closes, or a closed one is adopted: admitted among the 32 lowest, with its rank as address; a node beyond them stands outside the
fabric, its links EXCLUDED (R453 to R455). -/
def closeList (ids : List Nat) (s : State) : State :=
  let s := { s with fab := { s.fab with epoch := ids, closed := true } }
  match addrOf s s.ident with
  | some a =>
    let s := { s with fab := { s.fab with admitted := true, addr := a } }
    let low := ((reachable s).filterMap (addrOf s)).foldl min a
    portChanged { s with fab := { s.fab with timeRef := low } }
  | none => portAll.foldl (fun s p => if (s.fab.ports.get p).st = 0 then s else excludePort p s) (floodOwn s)

/-- The neighbour list of an advert: its ports with their neighbours' identities. -/
def nbrList (a : Advert) : List (Nat × Nat) := a.ports.map (fun p => (p.1, p.2.2))

/-- Two adverts of one identity, boot and sequence with different neighbour lists: 0x680A and every port EXCLUDED (R454). -/
def collide (a : Advert) (s : State) : State :=
  portAll.foldl (fun s p => if (s.fab.ports.get p).st = 0 then s else excludePort p s) (raise 0x680A ((addrOf s a.id).getD noInst) 0 s)

/-- The list work of a new advert from port `p`. -/
def mergeList (p : Port) (a : Advert) (s : State) : State :=
  let nbr := decide ((s.fab.ports.get p).nbrId = a.id)
  let inst := (addrOf s a.id).getD noInst
  if s.fab.closed then
    if s.fab.epoch.contains a.id = true ∧ (admittedIds s).contains a.id = true then s
    else
      let s := raise 0x6804 inst 0 s
      if nbr then portChanged (excludePort p s) else s
  else if nbr = true ∧ a.closed = true then
    if a.list.contains s.ident then closeList a.list s
    else portChanged (raise 0x6804 p.val 0 (excludePort p s))
  else
    let ids := (s.ident :: a.id :: (if a.closed then [] else a.list)).foldl (fun l x => insertId x l) s.fab.epoch
    if ids = s.fab.epoch then s else floodOwn { s with fab := { s.fab with epoch := ids } }

/-- A new advert is kept; a new boot number of an admitted source starts its streams anew (R448). -/
def learnBase (a : Advert) (newBoot : Bool) (s : State) : State :=
  let streams :=
    if newBoot then
      match addrOf s a.id with
      | some n => s.fab.streams.filter (fun y => decide (y.src ≠ n))
      | none => s.fab.streams
    else s.fab.streams
  { s with fab := { s.fab with adverts := a :: s.fab.adverts.filter (fun b => decide (b.id ≠ a.id)), streams := streams } }

/-- It leaves every other UP port; its bytes are free (log entry 25). -/
def learnFlood (p : Port) (s : State) : State :=
  let f := freeBytes s
  (portAll.filter (fun q => decide (q ≠ p))).foldl (fun t q => transmit q 2 (linkFrame s f.1) t) f.2

/-- A new advert is taken in. -/
def learnAdvert (p : Port) (a : Advert) (newBoot : Bool) (s : State) : State := retopo (mergeList p a (learnFlood p (learnBase a newBoot s)))

/-- LINK_STATE_ADVERT: a new advert is kept, forwarded out of every other UP port, and its identities merged; a new boot number starts
that source's streams anew (R448, R453). An older sequence of one boot is a repeat. -/
def execLinkStateAdvert (p : Port) (a : Advert) (s : State) : Host.Outcome State Fault Refusal :=
  if discovers s = false ∨ (s.fab.ports.get p).st ≠ 4 then .next s
  else
    match advertOf s a.id with
    | some k =>
      if k.boot = a.boot ∧ k.seq = a.seq ∧ nbrList k ≠ nbrList a then .next (collide a s)
      else if a.id = s.ident ∨ (k.boot = a.boot ∧ a.seq ≤ k.seq) then .next s
      else .next (learnAdvert p a (decide (k.boot ≠ a.boot)) s)
    | none => .next (learnAdvert p a false s)

/-- EPOCH_LIST_CLOSE: unchanged for 20 ms with at least NODES identities, or T_JOIN after Accession; then with fewer 0x6803 (R453). -/
def execEpochListClose (unchangedMs sinceMs : Nat) (s : State) : Host.Outcome State Fault Refusal :=
  if discovers s = false ∨ s.fab.closed = true then .next s
  else
    let ids := insertId s.ident s.fab.epoch
    let enough := decide (s.fabNodes ≤ ids.length)
    let late := decide (s.tJoin * 1000 ≤ sinceMs)
    if (20 ≤ unchangedMs ∧ enough = true) ∨ late = true then
      .next (if enough then closeList ids s else raise 0x6803 noInst ids.length (closeList ids s))
    else .next s

/-! ## Fabric time (R459, R460) -/

/-- DELAY_MEASUREMENT: the link delay of four instants; one more than 20 ns from the mean in use is discarded (R459). -/
def execDelayMeasurement (p : Port) (t1 t2 t3 t4 : Nat) (s : State) : Host.Outcome State Fault Refusal :=
  let x := s.fab.ports.get p
  if fabOn s = false ∨ x.st ≠ 4 then .next s
  else
    let d : Q := (((t4 : Int) - t1 - ((t3 : Int) - t2) : Int) : Q) / 2
    if x.delays ≠ [] ∧ 1024 / 5 < absQ (d - linkDelay x) then .next s
    else .next (updPort p (fun x => { x with delays := (d :: x.delays).take 8 }) s)

/-- Lock is lost: 0x6805; the copy runs on (R460). -/
def loseLock (s : State) : State :=
  if s.fab.lock then anchorsHold (raise 0x6805 noInst 0 { s with fab := { s.fab with lock := false, goodRun := 0, badRun := 0 } }) else s

/-- TIME_FRAME: from the parent: the first sets the copy, each later one sets a rate that removes the error over 1 ms within ±200 ppm;
eight in a row within 20 ns lock, three in a row above 1 µs lose lock (R460). -/
def execTimeFrame (p : Port) (carried : Nat) (s : State) : Host.Outcome State Fault Refusal :=
  let x := s.fab.ports.get p
  if fabServes s = false ∨ x.st ≠ 4 ∨ x.parent = false ∨ s.fab.admitted = false ∨ s.fab.timeRef = s.fab.addr then .next s
  else
    let truth : Q := carried + linkDelay x * 25 / 256
    let e := if s.fab.timeSet then s.fab.time - truth else 0
    let good := decide (absQ e ≤ 20)
    let bad := decide (1000 < absQ e)
    let g := if good then min (s.fab.goodRun + 1) 8 else 0
    let b := if bad then min (s.fab.badRun + 1) 3 else 0
    let s := { s with fab := { s.fab with time := if s.fab.timeSet then s.fab.time else truth, timeSet := true, rate := clampQ (-200) 200 (-e), goodRun := g, badRun := b, lock := s.fab.lock || decide (8 ≤ g) },
                      mer := { s.mer with ftErr := roundQ (e * 256 / 25) } }
    .next (if 3 ≤ b then loseLock s else s)

/-- TIME_FRAME_TIMEOUT: 5 ms without a valid time frame (R460). -/
def execTimeFrameTimeout (sinceUs : Nat) (s : State) : Host.Outcome State Fault Refusal :=
  if fabOn s = true ∧ 5000 ≤ sinceUs ∧ s.fab.timeRef ≠ s.fab.addr then .next (loseLock s) else .next s

/-- A time frame to the neighbour of a port: type 3, class 7, endpoint 1, the sender's fabric time (R444, R460). -/
def sendTime (p : Port) (s : State) : State :=
  let a := (s.fab.ports.get p).nbrAddr
  let cnt := (countOf (1, a) s.fab.txCnt + 1) % 2 ^ 16
  let h : FabHeader := { version := 1, type := 3, cls := 7, e2e := true, bcast := false, rsv1 := 0, dst := a, dep := 1, src := s.fab.addr, sep := 1, len := 16, hop := 0, rsv9 := 0, seq := cnt, link := 0, rsv14 := 0 }
  let b := natLe 8 s.timeNs ++ natLe 2 cnt ++ natLe 2 (dataId h)
  transmit p 3 (hdrBytes h ++ b ++ natLe 4 (crc32c (e2eCover h b))) { s with fab := { s.fab with txCnt := setCount (1, a) cnt s.fab.txCnt } }

/-- TIME_FRAME_SEND: every 1 ms on each UP port that leads away from the reference (R460). -/
def execTimeFrameSend (s : State) : Host.Outcome State Fault Refusal :=
  if fabServes s = true ∧ s.fab.admitted = true ∧ s.fab.timeSet = true then
    match idAt s s.fab.timeRef with
    | some i => .next ((treePorts s i).foldl (fun s p => sendTime p s) s)
    | none => .next s
  else .next s

/-! ## Management (R465, R466, R528, R529) -/

/-- A request is served: FAB_READY and Ganymede runs. -/
def mgmtOn (s : State) : Bool := fabServes s && s.fabReady

/-- The reply to a request from endpoint 0. -/
def reply (r : FabReq) (op status : Nat) (args : List Byte) (s : State) : State := mgmtReply r.node r.ep 0 op r.tag status args s

/-- A management request of type 1: what it earns before its arguments are looked at, then its effect. -/
def serve (r : FabReq) (op : Nat) (bit : Option Nat) (k : State → State) (s : State) : State :=
  if mgmtOn s = false then s
  else if r.short then reply r op 8 [] s
  else
    match bit with
    | some b => if s.svcEn b then k s else reply r op 7 [] s
    | none => k s

/-- An address that UDS and the fabric can read: the Vitrine or the map store (R526). -/
def readable (a : Nat) : Bool := inVitrine a || inMapStore a

/-- Words read in ascending order, each clearing its RC fields before the next (R11, R12, R527). -/
def readWords : Nat → Nat → State → List Byte × State
  | 0, _, s => ([], s)
  | n + 1, a, s =>
    let r := readWords n (a + 4) (vitClear s a)
    (natLe 4 (vitRead s a) ++ r.1, r.2)

/-- LVC_CMD, the only register that takes a write (R303, R529). -/
def lvcCmdAddr : Nat := 0x50007004

/-- READ: COUNT words; without a Catalogue it is not offered (R109, R465). -/
def execRead (r : FabReq) (addr count : Nat) (s : State) : Host.Outcome State Fault Refusal :=
  .next (serve r 1 (some 5) (fun s =>
    if s.cat.recovery then reply r 1 4 [] s
    else if count < 1 ∨ 64 < count then reply r 1 8 [] s
    else if addr % 4 ≠ 0 ∨ (List.range count).all (fun k => readable (addr + 4 * k)) = false then reply r 1 2 [] s
    else
      let w := readWords count addr s
      reply r 1 0 w.1 w.2) s)

/-- WRITE: LVC_CMD takes it; any other field is not writable, a locked store included (R110, R465, R529). -/
def execWrite (r : FabReq) (addr value : Nat) (s : State) : Host.Outcome State Fault Refusal :=
  .next (serve r 2 (some 5) (fun s =>
    if s.cat.recovery then reply r 2 4 [] s
    else if addr % 4 ≠ 0 ∨ readable addr = false then reply r 2 2 [] s
    else if addr = lvcCmdAddr ∧ s.fn 5 = true then reply r 2 0 [] (lvcWrite (value % 2 ^ 32) s)
    else reply r 2 3 [] s) s)

/-- STAGE_OPEN. -/
def execStageOpen (r : FabReq) (region first size : Nat) (s : State) : Host.Outcome State Fault Refusal :=
  .next (serve r 0x10 (some 4) (fun s =>
    if stageOther s (.fabric r.node) then reply r 0x10 5 [] s
    else
      let t := openStage (.fabric r.node) region first size s
      if t.1 = 0 then reply r 0x10 0 [] t.2 else reply r 0x10 (if t.1 = 1 then 4 else 8) [] s) s)

/-- STAGE_EXIT: answered with NEXT_BLOCK of SEC_STAGE. -/
def execStageExit (r : FabReq) (s : State) : Host.Outcome State Fault Refusal :=
  .next (serve r 0x11 (some 4) (fun s =>
    let st := s.cat.stage
    if stageOther s (.fabric r.node) then reply r 0x11 5 [] s
    else if st.region = 0 ∨ st.block.isSome = true then reply r 0x11 4 [] s
    else reply r 0x11 0 (natLe 4 (vitSec s 0x118 % 65536)) { s with cat := { s.cat with stage := { st with region := 0 } } }) s)

/-- ROUTINE: one of the routines of R117. -/
def execRoutine (r : FabReq) (id : Nat) (fw : FwFacts) (sigOk : Bool) (readFails : List ReadFail) (s : State) : Host.Outcome State Fault Refusal :=
  .next (serve r 0x12 (some 4) (fun s =>
    if id < 0xF100 ∨ 0xF103 < id then reply r 0x12 8 [] s
    else if stageOther s (.fabric r.node) then reply r 0x12 5 [] s
    else if stageRoutineOk (.fabric r.node) id s = false then reply r 0x12 4 [] s
    else if id = 0xF100 then
      let t := runCheck fw sigOk readFails s
      reply r 0x12 0 (natLe 4 t.1) t.2
    else reply r 0x12 0 (natLe 4 0) (if id = 0xF101 then runCommit s else if id = 0xF102 then runConfirm s else runReject s)) s)

/-- OP_UNKNOWN: an operation code outside the table; a reply is no request (R465). -/
def execOpUnknown (r : FabReq) (code : Nat) (s : State) : Host.Outcome State Fault Refusal :=
  if mgmtOn s = false ∨ 128 ≤ code % 256 ∨ [0x01, 0x02, 0x10, 0x11, 0x12, 0x20, 0x21, 0x22, 0x30, 0x31].contains code then .next s
  else .next (reply r code 1 [] s)

/-- The parts held for a block, a new one in place of an older copy. -/
def addPart (node block part : Nat) (data : List Byte) : Option Parts → Parts
  | some x =>
    if x.node = node ∧ x.block = block then { x with parts := (part, data) :: x.parts.filter (fun q => decide (q.1 ≠ part)) }
    else { node := node, block := block, parts := [(part, data)] }
  | none => { node := node, block := block, parts := [(part, data)] }

/-- The 4,096 bytes of the eight parts. -/
def joinParts (x : Parts) : List Byte := (List.range 8).flatMap (fun k => ((x.parts.find? (fun q => decide (q.1 = k))).map (·.2)).getD [])

/-- IMAGE_BLOCK_PART: the eight parts of a block of the open region are assembled in any order; the whole block is handled as R115 gives
(R466). Parts of no open session, or that complete a block while another is written, are discarded. -/
def execImageBlockPart (node block part : Nat) (data : List Byte) (s : State) : Host.Outcome State Fault Refusal :=
  let st := s.cat.stage
  if mgmtOn s = false ∨ st.src ≠ .fabric node ∨ st.region = 0 ∨ block < st.next ∨ st.next + st.left ≤ block ∨ 7 < part ∨ data.length ≠ 512 then .next s
  else
    let x := addPart node block part data s.fab.parts
    if x.parts.length < 8 then .next { s with fab := { s.fab with parts := some x } }
    else
      let s := { s with fab := { s.fab with parts := none } }
      if st.block.isSome then .next s
      else
        let t := takeBlock block (joinParts x) s
        .next (if t.1 = 0 then t.2 else blockDone node block 6 s)

/-- BLOCK_PART_TIMEOUT: 1 s after its first part an incomplete block is discarded (R466). -/
def execBlockPartTimeout (elapsedMs : Nat) (s : State) : Host.Outcome State Fault Refusal :=
  if 1000 ≤ elapsedMs then .next { s with fab := { s.fab with parts := none } } else .next s

/-! ## The log and attestation over the fabric (R521, R542) -/

/-- The good records of numbers `start` on, at most `count` numbers, with the numbers. -/
def logRange (s : State) (start count : Nat) : List (Nat × LogRec) :=
  (List.range count).filterMap (fun k =>
    let n := start + k
    match logAt s (physOf s (n / 127)) with
    | some b =>
      if b.magicOk = true ∧ b.seq = n / 127 ∧ 127 * s.log.oldestSeq ≤ n then
        match b.slots[n % 127]? with
        | some (.good r) => some (n, r)
        | _ => none
      else none
    | none => none)

/-- Frames of records in a row, at most 31 each, with the first number and the count. -/
def logFrames : Nat → List (Nat × LogRec) → List (List Byte)
  | 0, _ => []
  | k + 1, rs =>
    match rs with
    | [] => []
    | (n, _) :: _ =>
      let run := (rs.zipIdx.takeWhile (fun x => decide (x.1.1 = n + x.2) && decide (x.2 < 31))).map (·.1)
      (natLe 4 n ++ natLe 4 run.length ++ run.flatMap (fun x => recBytes x.2)) :: logFrames k (rs.drop run.length)

/-- LOG_READ: the records follow in data frames of class 1 to endpoint 4 of the requester; reading removes nothing. -/
def execLogRead (r : FabReq) (start count : Nat) (s : State) : Host.Outcome State Fault Refusal :=
  .next (serve r 0x30 none (fun s =>
    if count < 1 ∨ 4096 < count then reply r 0x30 8 [] s
    else sendBulk 1 r.node 4 4 (logFrames count (logRange s start count)) (reply r 0x30 0 [] s)) s)

/-- ATTEST: the report of R521; its reply and data frames follow the signature. -/
def execAttest (r : FabReq) (nonce : List Byte) (s : State) : Host.Outcome State Fault Refusal :=
  .next (serve r 0x31 none (fun s =>
    if nonce.length ≠ 32 then reply r 0x31 8 [] s
    else if s.sec.idSlot = none then reply r 0x31 4 [] s
    else startReport (.fabric r.node r.tag r.ep) nonce s) s)

/-! ## Global operations (R462 to R464) -/

/-- T keeps the lead of R462 over the present time. -/
def leadOkAt (s : State) (t : Nat) : Bool := decide (((s.timeNs + 10000 * diameter s : Nat) : Q) + s.leadMargin * 1000000000 ≤ t)

/-- The last global operation and its state (FAB_GOP). -/
def setGop (kind st : Nat) (s : State) : State := { s with fab := { s.fab with gopKind := kind, gopState := st } }

/-- A request whose instant has passed: MISSED, 0x6808 (R462). -/
def missed (r : FabReq) (kind op : Nat) (s : State) : State :=
  let s := setGop kind 3 { s with fab := { s.fab with missed := satInc 8 s.fab.missed } }
  mgmtReply r.node r.ep (if op = 0x22 then 6 else 0) op r.tag 9 [] (raise 0x6808 noInst 0 s)

/-- This node originates the request. -/
def originates (s : State) (r : FabReq) : Bool := decide (r.node = s.fab.addr)

/-- RESET: a scheduled reset: refused in DRIVE and CHARGE; the originating node broadcasts it (R462, R463). -/
def execReset (r : FabReq) (at_ : Nat) (s : State) : Host.Outcome State Fault Refusal :=
  .next (serve r 0x20 none (fun s =>
    if s.sys.mode = .drive ∨ s.sys.mode = .charge then reply r 0x20 4 [] (setGop 4 3 s)
    else if originates s r = true ∧ leadOkAt s at_ = false then setGop 4 3 s
    else if at_ < s.timeNs then missed r 4 0x20 s
    else
      let s := setGop 4 1 { s with fab := { s.fab with resetAt := some (r, at_), gopT := at_ % 2 ^ 64 } }
      if originates s r then sendCtl 4 6 none 0 r.ep ([0x20, BitVec.ofNat 8 r.tag, 0, 0] ++ natLe 8 at_) s else s) s)

/-- SCHEDULED_RESET_INSTANT: at T a node outside DRIVE and CHARGE resets, FABRIC set in SYS_START_CAUSE; one in them replies with its refusal
and runs on (R463). -/
def execScheduledResetInstant (s : State) : Host.Outcome State Fault Refusal :=
  match s.fab.resetAt with
  | some (r, t) =>
    if s.timeNs < t then .next s
    else if s.sys.mode = .drive ∨ s.sys.mode = .charge then .next (reply r 0x20 4 [] (setGop 4 3 { s with fab := { s.fab with resetAt := none } }))
    else .next (resetN9 { StartCause.none with fabric := true } s)
  | none => .next s

/-- BARRIER: an ARRIVE with a number; this node's own arrival is broadcast (R464). -/
def execBarrier (node number : Nat) (s : State) : Host.Outcome State Fault Refusal :=
  if mgmtOn s = false then .next s
  else
    let k := number % 2 ^ 16
    let held := ((s.fab.barriers.find? (fun b => decide (b.1 = k))).map (·.2)).getD []
    let s := setGop 2 1 { s with fab := { s.fab with barriers := (k, insertId node held) :: s.fab.barriers.filter (fun b => decide (b.1 ≠ k)) } }
    .next (if node = s.fab.addr then sendCtl 4 6 none 0 0 ([0x21, 0, 0, 0] ++ natLe 4 k) s else s)

/-- BARRIER_COMPLETE: ARRIVE is held from every reachable admitted node, itself included (R464). -/
def execBarrierComplete (number : Nat) (s : State) : Host.Outcome State Fault Refusal :=
  let k := number % 2 ^ 16
  match s.fab.barriers.find? (fun b => decide (b.1 = k)) with
  | some b =>
    if s.fabReady = true ∧ ((reachable s).filterMap (addrOf s)).all (fun a => b.2.contains a) = true then
      .next (setGop 2 2 { s with fab := { s.fab with barriers := s.fab.barriers.filter (fun b => decide (b.1 ≠ k)), gopOps := wrapInc 16 s.fab.gopOps } })
    else .next s
  | none => .next s

/-- SNAPSHOT: up to 32 register addresses to be read at T (R462, R463). -/
def execSnapshot (r : FabReq) (at_ : Nat) (addrs : List Nat) (s : State) : Host.Outcome State Fault Refusal :=
  if mgmtOn s = false then .next s
  else if r.short = true ∨ addrs.length < 1 ∨ 32 < addrs.length then .next (mgmtReply r.node r.ep 6 0x22 r.tag 8 [] s)
  else if addrs.all (fun a => decide (a % 4 = 0) && inVitrine a) = false then .next (mgmtReply r.node r.ep 6 0x22 r.tag 2 [] s)
  else if originates s r = true ∧ leadOkAt s at_ = false then .next (setGop 3 3 s)
  else if at_ < s.timeNs then .next (missed r 3 0x22 s)
  else
    let s := setGop 3 1 { s with fab := { s.fab with snapshot := some (r.node, r.tag, at_, addrs), gopT := at_ % 2 ^ 64 } }
    .next (if originates s r then sendCtl 4 6 none 6 r.ep ([0x22, BitVec.ofNat 8 r.tag, 0, 0] ++ natLe 8 at_ ++ natLe 4 addrs.length ++ addrs.flatMap (natLe 4)) s else s)

/-- The words of a list of addresses, read in order. -/
def readList : List Nat → State → List Byte × State
  | [], s => ([], s)
  | a :: rest, s =>
    let r := readList rest (vitClear s a)
    (natLe 4 (vitRead s a) ++ r.1, r.2)

/-- SNAPSHOT_CAPTURE: at T the registers are read and returned with the address and T to endpoint 6 of the requester (R463). -/
def execSnapshotCapture (s : State) : Host.Outcome State Fault Refusal :=
  match s.fab.snapshot with
  | some (node, _, t, addrs) =>
    if fabServes s = false ∨ s.timeNs < t then .next s
    else
      let w := readList addrs s
      let s := setGop 3 2 { w.2 with fab := { w.2.fab with snapshot := none, gopOps := wrapInc 16 w.2.fab.gopOps } }
      .next (if node = s.fab.addr then s else sendBulk 2 node 6 6 [natLe 4 s.fab.addr ++ natLe 8 t ++ natLe 4 addrs.length ++ w.1] s)
  | none => .next s

end Sys2Proof.Machine
end

