-- ==== Sys2Proof/Machine/Vehicle.lean ====
section
/-! DEFINITION. Vehicle interfaces, the message set, and the diagnostic services that no other file holds (20_vehicle_interfaces.md). -/

namespace Sys2Proof.Machine

/-! ## CAN, Ethernet and the modem (R493 to R495, R508) -/

/-- A CAN controller is in use: its record, or CAN1 with the recovery settings (R493). -/
def canUsed (s : State) (n : Fin 2) : Bool := s.sup.ifaces && (s.hasRec 0xA0 n || (s.cat.recovery && decide (n = 0)))

/-- A CAN controller changed by a function. -/
def updCan (n : Fin 2) (f : CanSt → CanSt) (s : State) : State := { s with vif := { s.vif with can := s.vif.can.upd n f } }

/-- BUS_OFF: counted, 0x7801. -/
def execBusOff (n : Fin 2) (s : State) : Host.Outcome State Fault Refusal :=
  if canUsed s n then .next (raise 0x7801 n.val 0 (updCan n (fun c => { c with st := 2, tec := 0xFF, busoff := satInc 8 c.busoff }) s)) else .next s

/-- BUS_OFF_REJOIN: after the recovery sequence and BUSOFF_WAIT, with the counters at 0 (log entry 38). -/
def execBusOffRejoin (n : Fin 2) (waitMs : Nat) (s : State) : Host.Outcome State Fault Refusal :=
  if canUsed s n = true ∧ (s.vif.can.get n).st = 2 ∧ s.pu 0xA0 n 24 ≤ waitMs then .next (updCan n (fun c => { c with st := 0, tec := 0, recn := 0 }) s) else .next s

/-- ETH_LINK_CHANGE: a loss raises 0x7803, a return clears it. -/
def execEthLinkChange (up : Bool) (s : State) : Host.Outcome State Fault Refusal :=
  if s.sup.ifaces = false ∨ s.hasRec 0xA0 2 = false ∨ s.vif.ethRst = false ∨ s.vif.ethUp = up then .next s
  else if up then .next (clearF 0x7803 2 { s with vif := { s.vif with ethUp := true } })
  else .next (raise 0x7803 2 0 { s with vif := { s.vif with ethUp := false, linkdown := satInc 8 s.vif.linkdown } })

/-- PHY_RESET_RELEASE: 10 ms after the end of Accession the PHY leaves reset, and with charging services the modem (R495, R508). -/
def execPhyResetRelease (sinceMs : Nat) (s : State) : Host.Outcome State Fault Refusal :=
  if s.cat.locked = true ∧ s.sup.ifaces = true ∧ 10 ≤ sinceMs then
    .next { s with vif := { s.vif with ethRst := s.hasRec 0xA0 2, plcRst := s.fn 9, modem := if s.fn 9 then 0 else s.vif.modem } }
  else .next s

/-- MODEM_STATUS_READ: every 100 ms, so a reset of 10 ms has ended before it; a valid reply shows the modem running. -/
def execModemStatusRead (reply : Bool) (s : State) : Host.Outcome State Fault Refusal :=
  if s.cat.locked = true ∧ s.sup.ifaces = true ∧ s.fn 9 = true then
    .next { s with vif := { s.vif with plcRst := true, modem := if reply then 0 else s.vif.modem } }
  else .next s

/-- MODEM_LINK_LOSS: no valid reply for 500 ms: 0x7807, the modem is reset; a session on the digital path ends with cause 8. -/
def execModemLinkLoss (silentMs : Nat) (s : State) : Host.Outcome State Fault Refusal :=
  if s.cat.locked = true ∧ s.sup.ifaces = true ∧ s.fn 9 = true ∧ s.vif.plcRst = true ∧ 500 ≤ silentMs then
    let s := raise 0x7807 noInst 0 { s with vif := { s.vif with plcRst := false, modem := 1 } }
    .next (if s.chg.path = 2 ∨ s.chg.path = 3 then sessionEnd 8 s else s)
  else .next s

/-- MODEM_FRAME_RECEIVE: PLC_IRQ_N low: the frame is read; what it carries to the session is a command of its own. -/
def execModemFrameReceive (type len : Nat) (s : State) : Host.Outcome State Fault Refusal :=
  if s.cat.locked = true ∧ s.sup.ifaces = true ∧ s.fn 9 = true ∧ s.vif.plcRst = true ∧ len ≤ 1522 then
    .next { s with vif := { s.vif with plcLast := some (type % 2 ^ 16, len) } }
  else .next s

/-! ## Received messages (R500, R501, R504, R505) -/

/-- The payload length of a control function; none for a code that is none. -/
def payloadLen (func : Nat) : Option Nat :=
  match func with
  | 1 => some 12
  | 2 => some 4
  | 3 => some 8
  | 4 => some 8
  | 5 => some 4
  | _ => none

/-- The owner of a function runs: Europa of the charging messages, Io of the others. -/
def ownerRuns (s : State) (func : Nat) : Bool :=
  pairRunning s (if func = 4 ∨ func = 5 ∨ func = 0x22 ∨ func = 0x23 then .europa else .io)

/-- An interface carries messages now: 0 CAN1, 1 CAN2, 2 Ethernet. -/
def ifcUp (s : State) (i : Fin 3) : Bool :=
  s.sup.ifaces && (match i.val with
    | 0 => s.canOn 0 && s.hasRec 0xA0 0 && !(s.vif.can.get 0).stb && decide ((s.vif.can.get 0).st ≠ 2)
    | 1 => s.canOn 1 && s.hasRec 0xA0 1 && !(s.vif.can.get 1).stb && decide ((s.vif.can.get 1).st ≠ 2)
    | _ => s.ethOn && s.hasRec 0xA0 2 && s.vif.ethUp)

/-- The receive queue of an interface. -/
def rxQ (i : Fin 3) : QId := if i.val = 0 then 9 else if i.val = 1 then 11 else 13

/-- The transmit queue of an interface. -/
def txQ (i : Fin 3) : QId := if i.val = 0 then 8 else if i.val = 1 then 10 else 12

/-- The words of an item: two descriptor words and the data of a CAN frame; one and the Ethernet, IPv4 and UDP headers and the data of an
Ethernet frame, with its VLAN tag (R439, R495). -/
def itemWords (s : State) (i : Fin 3) (len : Nat) : Nat :=
  if i.val < 2 then 2 + (len + 7) / 8 else 1 + (len + 42 + (if s.pu 0xA0 2 12 = 0 then 0 else 4) + 7) / 8

/-- A message of a record can arrive on an interface and has an owner that runs. -/
def msgTaken (s : State) (m : Fin 256) (ifc : Fin 3) : Bool :=
  s.hasRec 0xA1 m && (s.pu 0xA1 m 4).testBit ifc.val && ifcUp s ifc && (payloadLen (s.pu 0xA1 m 0)).isSome && ownerRuns s (s.pu 0xA1 m 0)

/-- The trailer fits: length, data ID, CRC-32C over all before it (R504). -/
def trailerOk (s : State) (m : Fin 256) (bytes : List Byte) : Bool :=
  match payloadLen (s.pu 0xA1 m 0) with
  | none => false
  | some n => decide (bytes.length = n + 8) && decide (uAt bytes (n + 2) 2 = s.pu 0xA1 m 24) && decide (uAt bytes (n + 4) 4 = crc32c (bytes.take (n + 4)))

/-- COUNTER of a message. -/
def msgCounter (s : State) (m : Fin 256) (bytes : List Byte) : Nat := uAt bytes ((payloadLen (s.pu 0xA1 m 0)).getD 0) 2

/-- A stream changed by a function. -/
def updStream (m : Fin 256) (f : Stream → Stream) (s : State) : State := { s with vif := { s.vif with streams := s.vif.streams.upd m f } }

/-- The mode request (R501): PARK and SHIFT act on a change from 0; a request of READY in SAFE counts once every cause has cleared
(R33). -/
def modeMessage (b : List Byte) (s : State) : State :=
  let mode := uAt b 0 1
  let park := uAt b 1 1
  let shift := uAt b 2 1
  let v := s.veh
  let s := { s with veh := { v with
    mode := some mode, park := park, shift := shift, req := uAt b 3 1 % 16,
    parkNew := if v.park = 0 ∧ park ≠ 0 ∧ park ≤ 2 then park else v.parkNew,
    shiftNew := if v.shift = 0 ∧ shift ≠ 0 ∧ shift ≤ 3 then shift else v.shiftNew } }
  if mode = 3 ∧ s.sys.mode = .safe ∧ safeMayLeave s = true then { s with sys := { s.sys with readyReqFresh := true } } else s

/-- The fields of an accepted message reach their owner (R500). -/
def applyMessage (func : Nat) (b : List Byte) (s : State) : State :=
  match func with
  | 1 => { s with tm := { s.tm with tAx := (sAt b 0 4 : Q) / 100, dT := (sAt b 4 4 : Q) / 100, hold := (uAt b 8 4).testBit 0, reqValid := true, lostMs := none } }
  | 2 => modeMessage b s
  | 3 => { s with tm := { s.tm with pLim := some (uAt b 0 4, uAt b 4 4) } }
  | 4 => { s with veh := { s.veh with bms := some ((uAt b 0 2 : Q) / 10, (uAt b 2 2 : Q) / 10, (uAt b 4 4).testBit 0) } }
  | 5 =>
    -- in CHARGE Europa does not forward it; a partner takes the lead's setpoint (R343, R475)
    if s.sys.mode = .charge ∨ s.pair.role = 2 then s else lvcWrite (min (uAt b 2 2) 4095 * 65536 + uAt b 0 2) (europaLimit s)
  | _ => s

/-- A rejected message: counted, 0x7804; the stream resynchronises (R504). -/
def rejectMsg (m : Fin 256) (good : Option Nat) (s : State) : State :=
  raise 0x7804 m.val 0 (updStream m (fun x => { x with reject := satInc 8 x.reject, resync := true, lastGood := good }) s)

/-- An accepted message: the stream is valid, its timeout clears, the fields act (R505). -/
def acceptMsg (m : Fin 256) (ifc : Fin 3) (cnt lost : Nat) (bytes : List Byte) (s : State) : State :=
  let s := updStream m (fun x => { x with valid := true, timeout := false, started := true, resync := false, lastGood := none, lastCnt := cnt, lastIf := ifc.val, lost := satAdd 8 x.lost lost }) s
  applyMessage (s.pu 0xA1 m 0) bytes (clearF 0x7805 m.val s)

/-- A message out of its queue: the trailer and the counter decide (R504). -/
def judgeMessage (m : Fin 256) (ifc : Fin 3) (bytes : List Byte) (s : State) : State :=
  if trailerOk s m bytes = false then rejectMsg m none s
  else
    let x := s.vif.streams.get m
    let cnt := msgCounter s m bytes
    match judgeCounter x.started x.resync x.lastGood x.lastCnt cnt with
    | .accept lost => acceptMsg m ifc cnt lost bytes s
    | .again => updStream m (fun x => { x with repeats := satInc 8 x.repeats }) s
    | .reject => rejectMsg m (some cnt) s
    | .hold => updStream m (fun x => { x with lastGood := some cnt }) s

/-- A unit of a pair that does not lead observes the lead's Status messages, to continue their counter (R481). -/
def observesStatus (s : State) (m : Fin 256) (ifc : Fin 3) (bytes : List Byte) : Bool :=
  pairOn s && decide (s.pair.role ≠ 1) && s.hasRec 0xA1 m && decide (s.pu 0xA1 m 0 = 0x20) && (s.pu 0xA1 m 4).testBit ifc.val && ifcUp s ifc && pairRunning s .io &&
    decide (bytes.length = 16) && decide (uAt bytes 10 2 = s.pu 0xA1 m 24) && decide (uAt bytes 12 4 = crc32c (bytes.take 12))

/-- CONTROL_MESSAGE_RECEIVED: the message enters the interface's receive queue in class 6, where one that finds no room is lost (R496), and its
owner takes it. -/
def execControlMessageReceived (m : Fin 256) (ifc : Fin 3) (bytes : List Byte) (s : State) : Host.Outcome State Fault Refusal :=
  let r := passQueue (rxQ ifc) 6 (itemWords s ifc bytes.length) s
  if observesStatus s m ifc bytes then
    .next (if r.1 then { r.2 with vif := { r.2.vif with txCnt := uAt bytes 8 2 } } else rxRefused (rxQ ifc) r.2)
  else if msgTaken s m ifc = false then .next s
  else .next (if r.1 then judgeMessage m ifc bytes r.2 else rxRefused (rxQ ifc) r.2)

/-- The reaction to a timed-out stream (R505, R192, R333). Without the mode request no new request is taken; the bits last accepted stay, so a
session that runs is not withdrawn. -/
def lostMessage (func : Nat) (s : State) : State :=
  match func with
  | 1 => { s with tm := { s.tm with reqValid := false, lostMs := some 0 } }
  | 2 => { s with veh := { s.veh with mode := none, parkNew := 0, shiftNew := 0 } }
  | 3 => { s with tm := { s.tm with pLim := none } }
  | 4 =>
    let s := { s with veh := { s.veh with bms := none } }
    if inSession s then raise 0x4007 noInst 0 s else s
  | _ => s

/-- STREAM_TIMEOUT: no message of a valid stream for TIMEOUT: 0x7805 with the function (R505). -/
def execStreamTimeout (m : Fin 256) (sinceMs : Nat) (s : State) : Host.Outcome State Fault Refusal :=
  let func := s.pu 0xA1 m 0
  if s.hasRec 0xA1 m = true ∧ (payloadLen func).isSome = true ∧ (s.vif.streams.get m).valid = true ∧ s.pf 0xA1 m 20 * 1000 ≤ sinceMs then
    let s := updStream m (fun x => { x with valid := false, timeout := true, touts := satInc 8 x.touts }) s
    .next (lostMessage func (raise 0x7805 m.val func s))
  else .next s

/-! ## Transmitted messages (R499, R502, R503) -/

/-- Only the unit that holds the lead transmits, one in SOLO does not; without pair operation always (R483, R503). -/
def transmits (s : State) : Bool := !s.fn 11 || decide (s.pair.role = 1)

/-- The fabric address of the lead; 0xFF without a pair. -/
def leadAddr (s : State) : Nat :=
  if s.fn 11 = false then 0xFF else if s.pair.role = 1 then s.fab.addr % 256 else (partnerAddr s).getD 0xFF % 256

/-- FLAGS of the Status message. -/
def statusFlags (s : State) : Nat :=
  b2n s.sys.wake + 2 * b2n s.connected + 4 * b2n (activeClass 3 s) + 8 * b2n (activeClass 4 s) + 16 * b2n s.tm.reqValid

/-- The payload of the Status message. -/
def statusPayload (s : State) : List Byte :=
  natLe 1 s.sys.mode.code ++ natLe 1 s.veh.refuse ++ natLe 1 (statusFlags s) ++ natLe 1 s.sys.ackCnt ++ natLe 1 (leadAddr s)
    ++ natLe 1 (s.actPosCode .park) ++ natLe 1 (s.actPosCode .shift) ++ natLe 1 s.chg.phase

/-- The registers that a telemetry message copies. -/
def telemetryRegs (s : State) (func : Nat) : List Nat :=
  match func with
  | 0x21 => [0x50003204, 0x50003208, 0x50004108 + 0x40 * (s.setIfc .a).val, 0x50004108 + 0x40 * (s.setIfc .b).val, 0x50003200, 0x5000320C]
  | 0x22 => [0x50008000, 0x5000800C, 0x5000601C, 0x50008014]
  | 0x23 => [0x50007000, 0x50007008, 0x5000700C, 0x50007010]
  | 0x24 => [0x50009040, 0x50009044, 0x50009048, 0x5000904C, 0x50009050, 0x50009054, 0x50009058, 0x5000905C]
  | _ => []

/-- The interfaces of a record that carry messages now. -/
def liveMask (s : State) (m : Fin 256) : Nat :=
  let mask := s.pu 0xA1 m 4
  b2n (mask.testBit 0 && ifcUp s 0) + 2 * b2n (mask.testBit 1 && ifcUp s 1) + 4 * b2n (mask.testBit 2 && ifcUp s 2)

/-- A control message with its trailer. -/
def withTrailer (cnt id : Nat) (payload : List Byte) : List Byte :=
  let b := payload ++ natLe 2 cnt ++ natLe 2 id
  b ++ natLe 4 (crc32c b)

/-- One interface's part of a transmission: through its transmit queue, where a message without room is refused (R430, R496). The bit of the
interface if it leaves. -/
def sendOn (mask len : Nat) (c : Fin 8) (r : Nat × State) (i : Fin 3) : Nat × State :=
  if mask.testBit i.val = false then r
  else
    let t := passQueue (txQ i) c (itemWords r.2 i len) r.2
    (if t.1 then r.1 + 2 ^ i.val else r.1, t.2)

/-- A message of a record leaves on the live interfaces whose transmit queue has room: control messages in class 6, telemetry in class 2. -/
def sendMessage (m : Fin 256) (mask : Nat) (c : Fin 8) (bytes : List Byte) (s : State) : State :=
  let r := [0, 1, 2].foldl (sendOn mask bytes.length c) (0, s)
  if r.1 = 0 then r.2 else send (.msg (s.pu 0xA1 m 0) r.1 (s.pu 0xA1 m 8) (s.pu 0xA1 m 12) bytes) r.2

/-- MESSAGE_TRANSMIT: at its period a record's message is sent; Status carries the trailer with COUNTER one higher. -/
def execMessageTransmit (m : Fin 256) (s : State) : Host.Outcome State Fault Refusal :=
  let func := s.pu 0xA1 m 0
  let mask := liveMask s m
  if s.hasRec 0xA1 m = false ∨ transmits s = false ∨ ownerRuns s func = false ∨ mask = 0 then .next s
  else if func = 0x20 then
    let cnt := wrapInc 16 s.vif.txCnt
    .next (sendMessage m mask 6 (withTrailer cnt (s.pu 0xA1 m 24) (statusPayload s)) { s with vif := { s.vif with txCnt := cnt } })
  else if 0x21 ≤ func ∧ func ≤ 0x24 then .next (sendMessage m mask 2 ((telemetryRegs s func).flatMap (fun a => natLe 4 (vitRead s a))) s)
  else .next s

/-! ## Diagnostic sessions (R506, R523) -/

/-- A session change: an outstanding challenge is discarded; a return to default drops the path's unlocks. -/
def setSession (p : UPath) (n : Nat) (s : State) : State :=
  let changed := decide (s.uds.session.get p ≠ n)
  let s := { s with uds := { s.uds with session := s.uds.session.put p n, unlocks := if n = 1 then s.uds.unlocks.filter (fun u => decide (u.1 ≠ p)) else s.uds.unlocks } }
  if changed then { s with sec := { s.sec with challenge := none } } else s

/-- A request to the identifier it came on is accepted: a functional one only where the path has a functional identifier (R506). -/
def addressed (s : State) (p : UPath) (functional : Bool) : Bool := !functional || decide ((s.udsIds p).2.2 ≠ 0xFFFFFFFF)

/-- DIAGNOSTIC_SESSION_CONTROL: default, programming or extended; the answer carries P2 and P2* (R506). -/
def execDiagnosticSessionControl (p : UPath) (sub : Nat) (functional : Bool) (s : State) : Host.Outcome State Fault Refusal :=
  if addressed s p functional = false then .next s
  else .next (udsServe p 0x10 [] 0 (fun s =>
    if sub = 1 ∨ sub = 2 ∨ sub = 3 then udsPos p [0x50, BitVec.ofNat 8 sub, 0x00, 0x32, 0x01, 0xF4] (setSession p sub s) else udsNeg p 0x10 0x12 s) s)

/-- S3_SESSION_TIMEOUT: no request for 5 s: back to default. -/
def execS3SessionTimeout (p : UPath) (idleMs : Nat) (s : State) : Host.Outcome State Fault Refusal :=
  if 5000 ≤ idleMs ∧ s.uds.session.get p ≠ 1 then .next (setSession p 1 s) else .next s

/-- ECU_RESET: answered, then the N9 resets; refused in DRIVE and CHARGE. -/
def execEcuReset (p : UPath) (sub : Nat) (s : State) : Host.Outcome State Fault Refusal :=
  .next (udsServe p 0x11 [2, 3] 0 (fun s =>
    if sub ≠ 1 then udsNeg p 0x11 0x12 s
    else if s.sys.mode = .drive ∨ s.sys.mode = .charge then udsNeg p 0x11 0x22 s
    else resetN9 { StartCause.none with uds := true } (udsPos p [0x51, 0x01] s)) s)

/-- TESTER_PRESENT: 0x00 is answered, 0x80 is not. -/
def execTesterPresent (p : UPath) (sub : Nat) (functional : Bool) (s : State) : Host.Outcome State Fault Refusal :=
  if addressed s p functional = false then .next s
  else .next (udsServe p 0x3E [] 0 (fun s => if sub = 0 then udsPos p [0x7E, 0x00] s else if sub = 0x80 then s else udsNeg p 0x3E 0x12 s) s)

/-! ## DTCs (R507) -/

/-- The codes of class F3 for some instance. -/
def codesF3 : List Nat :=
  [0x0016, 0x0017, 0x1801, 0x1802, 0x1803, 0x1804, 0x1805, 0x1807, 0x1810, 0x1811, 0x1812, 0x2001, 0x2002, 0x2004, 0x2005, 0x2006, 0x2007, 0x2008, 0x200A]
    ++ [0x2801, 0x2802, 0x2803, 0x2804, 0x2805, 0x2806, 0x2807, 0x2808, 0x280A, 0x280B, 0x280C, 0x280D, 0x280E, 0x280F]
    ++ (List.range 16).map (fun k => 0x3001 + k) ++ [0x3801, 0x3802, 0x3805, 0x3807, 0x3809, 0x380A, 0x4001, 0x4002, 0x4003, 0x4004, 0x4005, 0x4007, 0x4008, 0x400B, 0x400C, 0x400D]
    ++ [0x4803, 0x4805, 0x4807, 0x5001, 0x5002, 0x5003, 0x5004, 0x5006, 0x5009, 0x6002, 0x6003, 0x680A, 0x7002]

/-- The DTCs the N9 supports: each code with each class it can have. -/
def allDtcs (s : State) : List (Nat × Nat) :=
  codesF0.map (fun c => (c, 0)) ++ codesF1.map (fun c => (c, 1)) ++ codesF2.map (fun c => (c, 2)) ++ (List.range 12).map (fun k => (0x2801 + k, 2))
    ++ codesF3.map (fun c => (c, 3)) ++ codesF4.map (fun c => (c, 4)) ++ [(0x7002, 1), (0x7002, 4)]
    ++ [0x2001, 0x2002, 0x2004, 0x2005, 0x2006, 0x2007, 0x2008, 0x200A].map (fun c => (c, 1)) ++ (if activeCode missCode s then [(shownCode missCode, 3)] else [])
    ++ siAll.filterMap (fun n => if s.siUsed n && decide (s.pu 0x80 n 28 ≤ 4) then some (0x5810 + n.val, s.pu 0x80 n 28) else none)

/-- The records of the Provenance log: those of its blocks and those that wait. -/
def loggedRecs (s : State) : List LogRec :=
  (s.flash.logR.blocks.filter (acceptedBlk s)).flatMap (fun b => b.2.slots.filterMap (fun x => match x with
    | .good r => some r
    | .bad => none)) ++ s.log.store

/-- The status of a DTC: bit 0 while the fault is active, bit 3 while a record of it is in the log and not cleared. -/
def dtcStatus (s : State) (d : Nat × Nat) : Nat :=
  b2n (s.faults.any (fun f => decide (shownCode f.code = d.1 ∧ f.cls = d.2)))
    + 8 * b2n ((loggedRecs s).any (fun r => decide (r.code = d.1 ∧ r.cls = d.2)) && !s.uds.dtcClr.contains d.1)

/-- A DTC with its status, as bytes. -/
def dtcBytes (s : State) (d : Nat × Nat) : List Byte := natBe 2 d.1 ++ natBe 1 d.2 ++ natBe 1 (dtcStatus s d)

/-- The DTCs whose status meets a mask. -/
def dtcsBy (s : State) (mask : Nat) : List (Nat × Nat) := (allDtcs s).filter (fun d => decide (Nat.land (dtcStatus s d) mask ≠ 0))

/-- READ_DTC_INFORMATION: 0x01 the number, 0x02 the DTCs by status mask, 0x0A every DTC; the availability mask is 0x09. -/
def execReadDtcInformation (p : UPath) (sub mask : Nat) (s : State) : Host.Outcome State Fault Refusal :=
  .next (udsServe p 0x19 [] 0 (fun s =>
    if sub = 1 then udsPos p ([0x59, 0x01, 0x09, 0x01] ++ natBe 2 (dtcsBy s mask).length) s
    else if sub = 2 then udsPos p ([0x59, 0x02, 0x09] ++ (dtcsBy s mask).flatMap (dtcBytes s)) s
    else if sub = 0x0A then udsPos p ([0x59, 0x0A, 0x09] ++ (allDtcs s).flatMap (dtcBytes s)) s
    else udsNeg p 0x19 0x12 s) s)

/-- CLEAR_DIAGNOSTIC_INFORMATION: bit 3 of inactive faults only; no latch, flag or record. -/
def execClearDiagnosticInformation (p : UPath) (group : Nat) (s : State) : Host.Outcome State Fault Refusal :=
  .next (udsServe p 0x14 [3] 0 (fun s =>
    if group ≠ 0xFFFFFF then udsNeg p 0x14 0x31 s
    else
      let codes := (((loggedRecs s).map (·.code)).filter (fun c => !activeCode c s)).dedup
      udsPos p [0x54] { s with uds := { s.uds with dtcClr := codes ++ s.uds.dtcClr.filter (fun c => !codes.contains c) } }) s)

/-! ## Reads and writes (R506, R527 to R529) -/

/-- The registers of a data identifier. -/
def didRegs (did : Nat) : List Nat :=
  match did with
  | 0xF18C => [0x5000D008, 0x5000D004]
  | 0xF195 => [0x50000008]
  | 0xF1A0 => [0x50010110, 0x5001010C]
  | 0xF1A1 => [0x50010100, 0x50010114]
  | 0xF1A2 => [0x50000044, 0x50000040]
  | 0xFE00 => [lvcCmdAddr]
  | _ => []

/-- READ_DATA_BY_IDENTIFIER: the registers of the identifier in their order, words little-endian; in Deaccessioned the identity alone
(R518, R527). -/
def execReadDataByIdentifier (p : UPath) (did : Nat) (s : State) : Host.Outcome State Fault Refusal :=
  .next (udsServe p 0x22 [] 0 (fun s =>
    if didRegs did = [] ∨ (s.life = 4 ∧ did ≠ 0xF18C) then udsNeg p 0x22 0x31 s
    else udsPos p ([0x62] ++ natBe 2 did ++ (didRegs did).flatMap (fun a => natLe 4 (vitRead s a))) s) s)

/-- READ_MEMORY_BY_ADDRESS: words of the Vitrine or the map store, RC fields cleared as they are read (R11, R12, R528). -/
def execReadMemoryByAddress (p : UPath) (format addr len : Nat) (s : State) : Host.Outcome State Fault Refusal :=
  .next (udsServe p 0x23 [3] 0 (fun s =>
    if format ≠ 0x14 ∨ len = 0 ∨ 256 < len ∨ len % 4 ≠ 0 ∨ addr % 4 ≠ 0 ∨ (List.range (len / 4)).all (fun k => readable (addr + 4 * k)) = false then udsNeg p 0x23 0x31 s
    else
      let w := readWords (len / 4) addr s
      udsPos p ([0x63] ++ w.1) w.2) s)

/-- WRITE_DATA_BY_IDENTIFIER: LVC_CMD by 0xFE00; any other identifier is out of range (R303, R529). -/
def execWriteDataByIdentifier (p : UPath) (did value : Nat) (s : State) : Host.Outcome State Fault Refusal :=
  .next (udsServe p 0x2E [3] 1 (fun s =>
    if did ≠ 0xFE00 then udsNeg p 0x2E 0x31 s
    else udsPos p [0x6E, 0xFE, 0x00] (if s.fn 5 then lvcWrite (value % 2 ^ 32) s else s)) s)

/-- The routines of R117, R194, R264 and the actuators. -/
def routineIds : List Nat := [0xF100, 0xF101, 0xF102, 0xF103, 0xF200, 0xF201, 0xF300, 0xF400, 0xF401, 0xF402]

/-- ROUTINE_RESULTS: the result kept of a routine; 0x24 when it has not run. -/
def execRoutineResults (p : UPath) (rid : Nat) (s : State) : Host.Outcome State Fault Refusal :=
  .next (udsServe p 0x31 [] 0 (fun s =>
    if routineIds.contains rid = false then udsNeg p 0x31 0x31 s
    else if s.routineNrc p rid ≠ 0 then udsNeg p 0x31 (s.routineNrc p rid) s
    else
      match (s.uds.results.find? (fun r => decide (r.1 = rid))).map (·.2) with
      | some b => udsPos p ([0x71, 0x03] ++ natBe 2 rid ++ b) s
      | none => udsNeg p 0x31 0x24 s) s)

/-- The sub-functions of a service that has them (R506). -/
def subFunctions (sid : Nat) : List Nat :=
  match sid with
  | 0x10 => [1, 2, 3]
  | 0x11 => [1]
  | 0x19 => [1, 2, 0x0A]
  | 0x27 => [0x01, 0x02, 0x03, 0x04, 0x61, 0x63, 0x64, 0x65, 0x66]
  | 0x31 => [1, 3]
  | 0x3E => [0, 0x80]
  | _ => []

/-- The services of R506. -/
def serviceIds : List Nat := [0x10, 0x11, 0x14, 0x19, 0x22, 0x23, 0x27, 0x2E, 0x31, 0x34, 0x36, 0x37, 0x3E]

/-- UNSUPPORTED_SERVICE: a service outside the subset receives 0x11, a sub-function outside its table 0x12; a request inside both is
another command. Of the requests to the functional identifier only those for 0x10 and 0x3E are accepted (R506). -/
def execUnsupportedService (p : UPath) (sid : Nat) (sub : Option Nat) (functional : Bool) (s : State) : Host.Outcome State Fault Refusal :=
  if s.udsServed p = false ∨ addressed s p functional = false ∨ (functional = true ∧ sid ≠ 0x10 ∧ sid ≠ 0x3E) then .next s
  else
    let s := { s with uds := { s.uds with tester := some p } }
    if serviceIds.contains sid = false ∨ s.udsOffered sid = false then .next (udsNeg p sid 0x11 s)
    else
      match sub with
      | some k => if subFunctions sid ≠ [] ∧ (subFunctions sid).contains k = false then .next (udsNeg p sid 0x12 s) else .next s
      | none => .next s

end Sys2Proof.Machine
end

