-- ==== Sys2Proof/Machine/Collector.lean ====
section
/-! DEFINITION. The fault collector's own commands and the reads and writes of registers (22_status_faults_log.md). -/

namespace Sys2Proof.Machine

/-- The codes whose owner gives a clearing condition, or whose cause stays latched until a reset (R534): these do not expire. -/
def ownClear (code : Nat) : Bool :=
  decide (0x0010 ≤ code ∧ code ≤ 0x0016) || decide (0x2001 ≤ code ∧ code ≤ 0x200B) || (decide (0x2801 ≤ code ∧ code ≤ 0x2810) && decide (code ≠ 0x2809))
    || decide (0x3001 ≤ code ∧ code ≤ 0x3010) || decide (0x3801 ≤ code ∧ code ≤ 0x380A) || decide (0x5001 ≤ code ∧ code ≤ 0x5009)
    || [0x0018, 0x0801, 0x1001, 0x1811, 0x4801, 0x4802, 0x4803, 0x4805, 0x4806, 0x4807, 0x5801, 0x5805, 0x5809, 0x6001, 0x6004, 0x6005, 0x7803, 0x7805, 0x8003, 0x8004, 0x9001, 0x9002, 0x9004].contains code

/-- FAULT_RAISE: a block raises a fault of R533; a code that is not used raises nothing. -/
def execFaultRaise (code inst meas : Nat) (s : State) : Host.Outcome State Fault Refusal :=
  if codeKnown code then .next (settlePorts s (raise code inst meas s)) else .next s

/-- The latched flag of a gate channel that a code of block 5 stands for (R264). -/
def gateFlagHeld (code : Nat) (x : GdChan) : Bool :=
  match code with
  | 0x2801 => x.desat
  | 0x2802 => x.gc
  | 0x2804 => x.vccUv || x.vccOv
  | 0x2805 => x.veeUv || x.veeOv
  | 0x2806 => x.rb
  | 0x2807 => x.link
  | 0x2808 => x.bstOff
  | _ => false

/-- The fault's cause still stands, so its clearing condition cannot hold (R534): the codes that only a reset clears (R196, R264, R384,
R409, R410), the charger's, which the grid or the next start request clears (R289), and the causes that State holds latched: the crystal (R122), the watch on Callisto (R28), a lost or overvoltage feed (R61, R62),
a gate flag, an SO line that reads other than driven (R392), registers of Custodian that differ (R397), a failed heartbeat path (R474), a safety input's discrepancy (R387). -/
def causeHeld (code inst : Nat) (s : State) : Bool :=
  [0x1811, 0x2810, 0x5805, 0x6001, 0x6004, 0x6005].contains code
    || (decide (code = 0x0801) && s.saf.xtalLatch) || (decide (code = 0x5809) && s.saf.watchLatch)
    || (decide (code = 0x3004 ∨ code = 0x3005) && !(s.grid.ok && s.grid.lock)) || (decide (0x3001 ≤ code ∧ code ≤ 0x3010) && decide (code ≠ 0x3004 ∧ code ≠ 0x3005))
    || [Feed.a, Feed.b].any (fun f => (decide (code = lossCode f) && (feedOf s f).lost) || (decide (code = ovCode f) && (feedOf s f).ov))
    || (decide (inst < 55) && gateFlagHeld code (s.gd.ch.get (chanAt inst)))
    || (decide (code = 0x9001) && !s.pair.fabHb) || (decide (code = 0x9002) && !s.pair.phbHb)
    || (decide (code = 0x5804) && (if inst = 0 then s.saf.soDiffA else s.saf.soDiffB)) || (decide (code = 0x5806) && s.custDiffers)
    || (decide (code = 0x5801 ∧ inst < 8) && (s.saf.si.get ⟨inst % 8, Nat.mod_lt _ (by decide)⟩).disc)

/-- FAULT_CLEAR: the fault's clearing condition holds, which it cannot while the cause stands (R534, R537). -/
def execFaultClear (code inst : Nat) (s : State) : Host.Outcome State Fault Refusal :=
  if causeHeld code inst s = true then .next s else .next (clearF code inst s)

/-- FAULT_EXPIRY: a fault whose owner gives no clearing condition is inactive 1 s after its latest raise (R534). -/
def execFaultExpiry (code inst elapsedMs : Nat) (s : State) : Host.Outcome State Fault Refusal :=
  if ownClear code = false ∧ 1000 ≤ elapsedMs then .next (clearF code inst s) else .next s

/-- What a JTAG access finds: no path outside Study or before the unlock, a bus error at an address that is not mapped, else the access
(R5, R524, R528). -/
def jtagAccess (addr : Nat) (act : State → State) (s : State) : State :=
  if debugOpen s = false then s
  else if inVitrine addr = false ∧ inMapStore addr = false then send .jtagError s
  else act s

/-- RC_REGISTER_READ: the RC fields of the word read are cleared; the value read is `vitRead` before the command (R11, R12). JTAG returns it
here; over UDS and the fabric the answer is that of the request's own command, READ_MEMORY_BY_ADDRESS or READ. -/
def execRcRegisterRead (path : RegPath) (addr : Nat) (s : State) : Host.Outcome State Fault Refusal :=
  match path with
  | .jtag => .next (jtagAccess addr (fun s => send (.jtag (natLe 4 (vitRead s addr))) (vitClear s addr)) s)
  | .uds => .next (vitClear s addr)
  | .fabric => .next (vitClear s addr)

/-- A register write that has reached the register: LVC_CMD is the only one with RW fields; a write to any other field has no effect
(R11, R303, R529). -/
def fieldWrite (addr value : Nat) (s : State) : State :=
  if addr / 4 * 4 = lvcCmdAddr ∧ s.fn 5 = true then lvcWrite (value % 2 ^ 32) s else s

/-- REGISTER_WRITE: over JTAG only in Study after the unlock, where a write to the map store meets the lock of R110; over UDS and the fabric a
write to the map store is refused without effect (R110, R528, R529). -/
def execRegisterWrite (path : RegPath) (addr value : Nat) (s : State) : Host.Outcome State Fault Refusal :=
  match path with
  | .jtag => .next (jtagAccess addr (fun s => if inMapStore addr then storeWrite .map addr value s else fieldWrite addr value s) s)
  | .uds => .next (fieldWrite addr value s)
  | .fabric => .next (fieldWrite addr value s)

end Sys2Proof.Machine
end

