-- ==== Sys2Proof/Machine/Meridian.lean ====
section
/-! DEFINITION. Meridian and the PWM groups (05_meridian_pwm.md): calibration, latches, group start and stop. -/

namespace Sys2Proof.Machine

/-! ## Calibration (R123 to R126) -/

/-- The tap codes of R123 for N_e in 1/16 element: tap(j) = round(j × N_e / 256). -/
def tapCodes (ne16 : Nat) : List Nat := (List.range 256).map (fun j => roundN ((j * ne16 : Nat) / 4096 : Q))

/-- R124: a new code within 1 element of the code in use. -/
def limitTap (inUse new : Nat) : Nat := if inUse + 1 < new then inUse + 1 else if new + 1 < inUse then inUse - 1 else new

/-- All 16 counts lie in 300 to 480 elements (R126). -/
def countsOk (counts : List Nat) : Bool := counts.length == 16 && counts.all (fun c => decide (300 ≤ c) && decide (c ≤ 480))

/-- CALIBRATION_MEASUREMENT: the first one ends step 5 of R69 without the step limit (R127); a later one fills the
shadow table (R123, R124). A count out of range discards it (R126). -/
def execCalibrationMeasurement (counts : List Nat) (s : State) : Host.Outcome State Fault Refusal :=
  if !s.xtalOk then .next s
  else if !countsOk counts then .next { s with mer := { s.mer with shadow := none, shadowLim := false, discarded := true } }
  else
    let ne := counts.foldl (· + ·) 0
    let codes := tapCodes ne
    if !s.mer.firstCal then
      let s := { s with mer := { s.mer with taps := codes, ne := ne, firstCal := true, discarded := false, discRun := 0 } }
      if s.sup.step = 4 then .next (startBias { s with sup := { s.sup with step := 6 } }) else .next s
    else
      let lim := List.zipWith limitTap s.mer.taps codes
      .next { s with mer := { s.mer with shadow := some (lim, ne), shadowLim := decide (lim ≠ codes), discarded := false, discRun := 0 } }

/-- TAP_SWAP: at an edge-free coarse tick from 2,000 on, the ready shadow table is taken into use at once (R125). -/
def execTapSwap (tick : Nat) (edgeFree : Bool) (s : State) : Host.Outcome State Fault Refusal :=
  match s.mer.shadow with
  | some (codes, ne) =>
    if 2000 ≤ tick ∧ tick < 4000 ∧ edgeFree = true ∧ s.xtalOk = true then
      .next { s with mer := { s.mer with taps := codes, ne := ne, shadow := none, shadowLim := false, missRun := 0, swaps := wrapInc 16 s.mer.swaps, limited := if s.mer.shadowLim then satInc 16 s.mer.limited else s.mer.limited } }
    else .next s
  | none => .next s

/-- CALIBRATION_MISSED: the run of missed periods grows; faults 0x0802, 0x0803 and 0x0804 as R125 and R126 give. -/
def execCalibrationMissed (s : State) : Host.Outcome State Fault Refusal :=
  if !s.xtalOk then .next s
  else
    let run := s.mer.missRun + 1
    let disc := if s.mer.discarded then s.mer.discRun + 1 else 0
    let s := { s with mer := { s.mer with missRun := min run 255, discRun := disc, discarded := false, shadow := none, shadowLim := false } }
    let s := if run = 4 then raise 0x0802 noInst 0 s else s
    let s := if run = 20 then raise 0x0803 noInst 0 s else s
    .next (if disc = 3 then raise 0x0804 noInst 0 s else s)

/-- CRYSTAL_LOSS: a 2 µs window outside 70 to 90 periods after acceptance latches the loss, raises 0x0801, removes
PERMIT_C and stops the bias drive: every isolated channel loses its rails and switches off, traction freewheels, the DCX stops
(R122, R67, R31). -/
def execCrystalLoss (edges : Nat) (s : State) : Host.Outcome State Fault Refusal :=
  if s.xtalOk = true ∧ (edges < 70 ∨ 90 < edges) then
    let s := { s with saf := { s.saf with xtalLatch := true }, sup := { s.sup with biasA := false, biasB := false } }
    .next (ascLost (bankOff 0 29 (raise 0x0801 noInst 0 (stopDcx s))))
  else .next s

/-! ## The latch (R131 to R138, R150) -/

/-- The minimum-pulse steps of R134, `p2` being the half-period (the period in MODE 1). -/
def minPulse (tmin p2 prev e : Nat) : Nat :=
  let h := (tmin + 1) / 2
  let q := (tmin + 3) / 4
  let e := if e < q then 0 else if e < h then h else e
  let e := if p2 - q < e then p2 else if p2 - h < e then p2 - h else e
  let e := if 0 < prev ∧ prev + e < tmin then min (tmin - prev) p2 else e
  if prev = 0 ∧ 0 < e ∧ e < tmin then 0 else e

/-- R134 at a valley (on high-side intervals) or at a peak (on low-side intervals). -/
def minPulseHalf (valley : Bool) (tmin p2 prev e : Nat) : Nat :=
  if valley then minPulse tmin p2 prev e else p2 - minPulse tmin p2 (p2 - prev) (p2 - e)

/-- R136: the steps on the high-side interval, then on the low-side (or off) interval. -/
def minPulseEdge (tmin p prev e : Nat) : Nat :=
  let e := minPulse tmin p (if prev = p then p else 0) e
  p - minPulse tmin p 0 (p - e)

/-- t_min of R134 for a group, ft. -/
def tMin (s : State) (g : Grp) : Nat := s.pu 0x20 g 24 + max (s.pu 0x20 g 16) (s.pu 0x20 g 20)

/-- The period request at a valley or period start: clipped into PERIOD_MIN to PERIOD_MAX with 0x1002 (R135). -/
def takePeriod (g : Grp) (s : State) : State :=
  let gr := s.pwm.get g
  match gr.reqPeriod with
  | none => s
  | some r =>
    let lo := s.pu 0x20 g 4
    let hi := s.pu 0x20 g 8
    if r < lo ∨ hi < r then
      raise 0x1002 g.val 0 { s with pwm := s.pwm.put g { gr with period := if r < lo then lo else hi, reqPeriod := none, clip := satInc 16 gr.clip } }
    else { s with pwm := s.pwm.put g { gr with period := r, reqPeriod := none } }

/-- `x` limited to ±`lim`. -/
def clampI (lim x : Int) : Int := if x < -lim then -lim else if lim < x then lim else x

/-- The valleys of group 1 behind those of group 0 for a period, ft: SHIFT × P / 65,536 (R138). -/
def shiftTarget (s : State) (p : Nat) : Int := roundQ ((s.pu 0x20 1 44 * p : Nat) / 65536 : Q)

/-- Group 1 with ANCHOR 2 at its valley: it takes group 0's period, and the period that starts is longer or shorter by what the
shift still lacks, by at most P/4 (R138). `phase` is the offset of this valley. While group 0 has no period group 1 keeps its own: the
spec is silent on a stopped group 0 (DESIGN CHOICE, log entry 44). -/
def followShift (s : State) : State :=
  let g1 := s.pwm.get 1
  let p := if (s.pwm.get 0).period = 0 then g1.period else (s.pwm.get 0).period
  let ph := g1.phase + g1.stretch
  let d := shiftTarget s p - ph
  { s with pwm := s.pwm.put 1 { g1 with period := p, reqPeriod := none, phase := ph, stretch := clampI (p / 4 : Nat) d, runB := decide (d = 0) } }

/-- An anchored group at its valley: the measured phase error `err` (positive when the valley is late) shortens the period that
starts by at most P/4,096 ft (R150); 0x1001 clears within ±2 ft once lock has returned. Without lock the last period and phase stay
(R151). -/
def followAnchor (g : Grp) (err : Int) (s : State) : State :=
  let gr := s.pwm.get g
  if !s.fabLocked then s
  else
    let good := decide (-2 ≤ err ∧ err ≤ 2)
    let s := { s with pwm := s.pwm.put g { gr with phase := err, stretch := -clampI (gr.period / 4096 : Nat) err, anchHold := false, anchLock := good } }
    if good then clearF 0x1001 g.val s else s

/-- One leg's offset moved toward its target by at most P/4, the nearer way round modulo P (R137, R279). -/
def stepPhi (p cur tgt : Nat) : Nat :=
  let half : Int := (p / 2 : Nat)
  let d : Int := ((tgt : Int) - cur + half) % max p 1 - half
  (((cur : Int) + clampI (p / 4 : Nat) d) % max p 1).toNat

/-- The values of a MODE 0 latch (R131, R132, R134). A group places edges from the first latch that has values on (R139). -/
def latchCentre (g : Grp) (s : State) : State :=
  let gr := s.pwm.get g
  let valley := !gr.rising
  let p2 := gr.period / 2
  let want := (gr.next.getD gr.e).map (fun e => min e p2)
  let got := zipLegs (minPulseHalf valley (tMin s g) p2) gr.e want
  { s with pwm := s.pwm.put g { gr with e := got, ePrev := gr.e, next := none, rising := valley, first := !gr.latched, latched := gr.latched || gr.next.isSome, spanPrev := gr.span, span := ((p2 : Int) + (if valley then 0 else gr.stretch)).toNat, lateLast := gr.next.isNone, minp := if got = want then gr.minp else satInc 16 gr.minp } }

/-- The values of a MODE 1 latch (R136). -/
def latchEdge (g : Grp) (s : State) : State :=
  let gr := s.pwm.get g
  let p := gr.period
  let want := (gr.next.getD gr.e).map (fun e => min e p)
  let got := zipLegs (minPulseEdge (tMin s g) p) gr.e want
  { s with pwm := s.pwm.put g { gr with e := got, ePrev := gr.e, next := none, first := !gr.latched, latched := gr.latched || gr.next.isSome, spanPrev := gr.span, span := ((p : Int) + gr.stretch).toNat, lateLast := gr.next.isNone, minp := if got = want then gr.minp else satInc 16 gr.minp } }

/-- The values of a MODE 2 latch (R137); the first latch of a run sets the offsets as they are (R139). -/
def latchShift (g : Grp) (s : State) : State :=
  let gr := s.pwm.get g
  let tgt := gr.next.getD gr.target
  { s with pwm := s.pwm.put g { gr with target := tgt, e := if gr.latched then zipLegs (stepPhi gr.period) gr.e tgt else tgt, ePrev := gr.e, next := none, first := !gr.latched, latched := gr.latched || gr.next.isSome, spanPrev := gr.span, span := ((gr.period : Int) + gr.stretch).toNat, lateLast := gr.next.isNone } }

/-- The chopper at its latch (R197, R198, R357): the energy of the ending period, then the activity and the duty of the
next from V_dc,max. -/
def chopperLatch (s : State) : State :=
  let gr := s.pwm.get 2
  let x := s.dc
  let v := s.vMax
  let p : Q := gr.period
  let e : Q := gr.e.headD 0
  let en := maxQ 0 (x.bcEnergy + divQ (v * v) (s.pf 0x38 0 100) * e / 10240000000 - s.pf 0x38 0 108 * p / 10240000000)
  let big := decide (s.pf 0x38 0 104 < en)
  let stop := if big then true else if en < s.pf 0x38 0 104 / 2 then false else x.bcStop
  let act := if s.pf 0x38 0 88 < v then true else if v < s.pf 0x38 0 92 then false else x.bcActive
  let duty0 := clampQ 0 1 (divQ (v - s.pf 0x38 0 92) (s.pf 0x38 0 96 - s.pf 0x38 0 92))
  let duty1 := match s.thmLimit 2 with
    | some f => minQ duty0 f
    | none => duty0
  let duty := if act && !stop then duty1 else 0
  let s := { s with dc := { x with bcEnergy := en, bcStop := stop, bcActive := act, bcDuty := duty }, pwm := s.pwm.put 2 { gr with next := some [roundN (duty * p)] } }
  if big && !x.bcStop then raise 0x1814 noInst 0 s else s

/-- PWM_LATCH: 100 ns before an extremum or period start the whole value set is latched (R132, R136, R137), with any
period change due at a valley or period start (R135), the shift of R138 and the slew of R150. `aux` is the anchor phase error in
ft, or the sinking leg's switch-node voltage of an actuator bridge (R364). A set that started from ASC leaves it here (R206). -/
def execPwmLatch (g : Grp) (aux : Q) (s : State) : Host.Outcome State Fault Refusal :=
  let gr := s.pwm.get g
  if gr.running = false ∨ s.trimPending g = true ∨ 0 < gr.preLeft then .next s
  else
    let mode := s.pu 0x20 g 0
    let anchor := s.pu 0x20 g 40
    let atStart := decide (mode ≠ 0) || !gr.rising
    let s := if atStart then takePeriod g s else s
    let s := if atStart = true ∧ anchor = 2 then followShift s else s
    let s := if atStart = true ∧ anchor = 1 then followAnchor g (roundQ aux) s else s
    let s := if g = 2 then chopperLatch s else if g = 8 then actLatch .park aux s else if g = 9 then actLatch .shift aux s else s
    if mode = 0 then .next (leaveAsc g (latchCentre g s))
    else if mode = 1 then .next (latchEdge g s)
    else if mode = 2 then .next (latchShift g s)
    else .next s

/-! ## Start and stop (R139, R140, R149, R150, R258) -/

/-- The number of legs of a group. -/
def legsOf (g : Grp) : Nat := if g = 2 then 1 else if g = 4 then 4 else if g = 7 then 6 else if g = 5 ∨ g = 6 then 1 else 3

/-- Every output of a group turns off before it starts (R139), but for a set that is started out of ASC: its outputs hold until the first
latch (R206). -/
def startOff (g : Grp) (s : State) : State :=
  match grpSet g with
  | some t => if 2 ≤ (s.ss.get t).st then s else (grpChans g).foldl stopChan s
  | none => (grpChans g).foldl stopChan s

/-- A group set running at PERIOD_INIT with every output off (R139). Group 1 with ANCHOR 2 starts with its valleys at SHIFT behind
those of group 0, at group 0's period (R138). -/
def startGroup (g : Grp) (s : State) : State :=
  let s := startOff g s
  let gr := s.pwm.get g
  let follows := decide (g = 1 ∧ s.pu 0x20 g 40 = 2)
  let p := if follows = true ∧ (s.pwm.get 0).period ≠ 0 then (s.pwm.get 0).period else s.pu 0x20 g 12
  { s with pwm := s.pwm.put g { PwmGrp.reset with running := true, period := p, phase := if follows then shiftTarget s p else 0, runB := follows, e := List.replicate (legsOf g) 0, target := List.replicate (legsOf g) 0, minp := gr.minp, clip := gr.clip } }

/-- GROUP_START: a present group whose function is not stopped starts with every output off (R139), but for the low sides of a bootstrap
pre-charge (R258). -/
def execGroupStart (g : Grp) (bootstrap : List (Chan × Q)) (s : State) : Host.Outcome State Fault Refusal :=
  if s.grpPresent g = true ∧ (s.pwm.get g).running = false ∧ s.pu 0x20 g 40 ≠ 1 ∧ s.grpMayStart g = true then
    .next (orrStart g (precharge g (grpChans g) bootstrap (startGroup g s)))
  else .next s

/-- GROUP_STOP: every output of the group turns off at once (R140), but those that Custodian holds in ASC (R250); of the charger's two
groups no cause stops one alone (R280). -/
def execGroupStop (g : Grp) (s : State) : Host.Outcome State Fault Refusal :=
  .next (if g = 3 ∨ g = 4 then stopCharger s else if (match grpSet g with
    | some t => decide (2 ≤ (s.ss.get t).st)
    | none => false) then haltGroup g s else stopGroup g s)

/-- `t` is one of the instants t_k of R149. -/
def isAnchorInstant (g : Grp) (t : Q) (s : State) : Bool :=
  let p : Q := (s.pu 0x20 g 12 : Q) * 25 / 256
  let k := (t - s.pu 0x20 g 48) / p
  decide (p ≠ 0 ∧ 0 ≤ k ∧ k = k.floor)

/-- ANCHORED_GROUP_START: with fabric time locked, at the first t_k at least one period after the request (R150). -/
def execAnchoredGroupStart (g : Grp) (requestNs startNs : Q) (bootstrap : List (Chan × Q)) (s : State) : Host.Outcome State Fault Refusal :=
  let p : Q := (s.pu 0x20 g 12 : Q) * 25 / 256
  if s.grpPresent g = true ∧ (s.pwm.get g).running = false ∧ s.pu 0x20 g 40 = 1 ∧ s.grpMayStart g = true ∧ s.fabLocked = true
      ∧ isAnchorInstant g startNs s = true ∧ requestNs + p ≤ startNs ∧ startNs < requestNs + 2 * p then
    let s := orrStart g (precharge g (grpChans g) bootstrap (startGroup g s))
    .next { s with pwm := s.pwm.upd g (fun gr => { gr with anchLock := true }) }
  else .next s

/-! ## The tick of an idle block (log entry 1) -/

/-- A UDS request whose operation of the engine waits or runs beyond P2 is answered 0x78, again after each P2* (R506, R511). -/
def pendTicks (s : State) : State :=
  let due (x : UPath × Nat) : Bool := decide (x.2 ≤ s.mer.ns)
  let t := (s.sec.pend.filter due).foldl (fun s x => udsNeg x.1 0x27 0x78 s) s
  { t with sec := { t.sec with pend := s.sec.pend.map (fun x => if due x then (x.1, x.2 + 5000000000) else x) } }

/-- One coarse tick of 25 ns with nothing commanded: the coarse-tick counter and the time counts advance while the crystal runs, the
local copy of fabric time at its own rate, UDS requests that wait are answered 0x78, and what the gate drive times goes on: pre-charges,
refreshes and, in the secondary without the crystal too, soft turn-offs (R21, R121, R248, R258, R259, R459, R511, R535). -/
def idleTick (s : State) : State :=
  let s := softTicks s
  if s.xtalOk then
    let s := pendTicks (bootTicks s)
    { s with
      mer := { s.mer with ct := s.mer.ct + 1, ns := s.mer.ns + 25 },
      fab := { s.fab with time := if s.fab.timeSet then s.fab.time + 25 * (1 + s.fab.rate / 1000000) else s.fab.time } }
  else s

end Sys2Proof.Machine
end

