-- ==== Sys2Proof/Machine/LvConv.lean ====
section
/-! DEFINITION. The LV converter: 48 V DCX and 14 V multiphase buck (11_lv_converter.md). -/

namespace Sys2Proof.Machine

/-! ## Start and stop (R293, R300, R307) -/

/-- The buck is present with its DCX (R292). -/
def buckPresent (s : State) : Bool := s.fn 6

/-- The V48 level of step 2: 0.9 × V_dc,min / 16. -/
def v48Level (s : State) : Q := 9 / 160 * s.vMin

/-- The present phases of the buck (R292). -/
def phases6 (s : State) : List (Fin 6) := [0, 1, 2, 3, 4, 5].filter (fun n => decide (n.val < s.pu 0x58 1 0))

/-- A phase is held off by a latched gate-drive flag or a failed diagnosis (R255, R262). -/
def phaseBad (s : State) (n : Fin 6) : Bool :=
  (s.gd.ch.get (buckHigh n)).latched || (s.gd.ch.get (buckLow n)).latched || decide ((s.gd.st.get (.buck n)).osd = 2)

/-- A phase whose off-state diagnostics are due before a start (R262). -/
def phaseDue (s : State) (n : Fin 6) : Bool := s.diagDue (.buck n)

/-- S of R303 in volts per microsecond; SLEW_INIT is a binary32 in V/s. -/
def slewStep (s : State) : Q :=
  match s.lvc.cmd with
  | some c => (clampN 1 500 c.1 : Q) / 10000
  | none => s.pf 0x58 1 20 / 1000000

/-- R311: feedback on the local reading, V_ref set to it, 0x3803. -/
def senseFallback (s : State) : State :=
  raise 0x3803 noInst 0 { s with lvc := { s.lvc with senseLost := true, fbLocal := true, vref := s.lvc.ls } }

/-- Steps 4 to 6 of R307: sense check, bootstrap pre-charge (R258), V_ref at the local reading, soft start. -/
def buckSoftStart (rs ls : Q) (boot : List (Chan × Q)) (s : State) : State :=
  let act := (phases6 s).filter (fun n => !phaseBad s n)
  if act = [] then raise 0x3809 noInst 0 (stopBuck 0 s)
  else
    let s := { s with lvc := { s.lvc with rs := rs, ls := ls, senseLost := false, fbLocal := !s.remotePresent, act := act, held := [], delay := Tab.fill 0, waiting := [], slots := act, slotD := 0, tPer := 0, resp := 0, xv := 0, xi := 0, ph := Tab.fill 0, ton := Tab.fill 0, ovHold := false } }
    let s := if s.remotePresent && decide (s.pf 0x58 1 72 < absQ (rs - ls)) then senseFallback s else s
    let s := { s with lvc := { s.lvc with vref := ls, buck := 2, ssRate := divQ (vSet s) (s.pf 0x58 1 24) / 1000000 }, pwm := s.pwm.upd 7 (fun g => { g with running := true }) }
    let s := precharge 7 (act.map buckHigh) boot s
    if ls = vSet s then { s with lvc := { s.lvc with buck := 3 } } else s

/-- Step 3 of R307: off-state diagnostics where due; without any the start goes on. -/
def buckDiag (rs ls : Q) (boot : List (Chan × Q)) (s : State) : State :=
  if (phases6 s).any (fun n => !phaseBad s n && phaseDue s n) then { s with lvc := { s.lvc with buck := 1 } } else buckSoftStart rs ls boot s

/-- The DCX frequency: from 2 × F_DCX linearly to F_DCX over DCX_SS (R300); the ring holds it within ±3 % (R298). -/
def dcxFreq (s : State) (sinceUs : Nat) (ring : Q) : Q :=
  s.pf 0x58 0 0 * (2 - minQ 1 (divQ ((sinceUs : Q) / 1000000) (s.pf 0x58 0 4))) * (1 + clampQ (-3 / 100) (3 / 100) ring)

/-- LV_CONVERTER_START: the steps of R307 that the readings allow: a due start begins the DCX once its rails, its handshakes and the
crystal are there (R31, R67, R70); V48 at its level ends step 2 and the buck's steps follow; a buck in diagnostics goes on once none is
due. -/
def execLvConverterStart (v48 rs ls : Q) (sinceUs : Nat) (ring : Q) (boot : List (Chan × Q)) (s : State) : Host.Outcome State Fault Refusal :=
  if s.fn 5 = false then .next s
  else if s.lvc.due then (if s.lvReady then .next (lvBegin { s with lvc := { s.lvc with v48 := v48 } }) else .next s)
  else if s.lvc.dcx = 0 then .next s
  else
    let s := { s with lvc := { s.lvc with v48 := v48, freq := dcxFreq s sinceUs ring } }
    if s.lvc.dcx = 1 ∧ v48Level s ≤ v48 then
      let s := { s with lvc := { s.lvc with dcx := 2 } }
      .next (if buckPresent s then buckDiag rs ls boot s else s)
    else if s.lvc.dcx = 2 ∧ s.lvc.buck = 1 then .next (buckDiag rs ls boot s)
    else .next s

/-- LV_CONVERTER_STOP: an entry into READY, or an F3 fault of the converter, stops it (R293). -/
def execLvConverterStop (s : State) : Host.Outcome State Fault Refusal :=
  if s.sys.mode = .ready ∨ active 0x3801 noInst s = true ∨ active 0x3802 noInst s = true ∨ active 0x380A noInst s = true then
    .next (stopLv (decide (s.sys.mode ≠ .ready)) s)
  else .next s

/-- The conditions of R293 for a start inside SAFE: stores locked, the link in its window, bank B runs. -/
def lvSafeOk (s : State) : Bool := s.cat.locked && s.sys.dcInside && s.sup.biasB

/-- The SAFE that runs was entered from a mode in which the converter runs, and a class F3 fault of its own has stopped it: R293 sets
no conditions for its restart. -/
def lvFaultStop (s : State) : Bool := s.lvc.f3Stop && decide (s.sys.prev = .convert ∨ s.sys.prev = .drive ∨ s.sys.prev = .charge)

/-- A restart request of R293: the stopped converter starts; with only the buck stopped its steps repeat. -/
def lvRestart (s : State) : State :=
  let modeOk := decide (s.sys.mode = .convert ∨ s.sys.mode = .drive ∨ s.sys.mode = .charge) || (decide (s.sys.mode = .safe) && (lvFaultStop s || lvSafeOk s))
  if s.fn 5 = false ∨ modeOk = false ∨ s.lvReady = false then s
  else if s.lvc.dcx = 0 then lvBegin s
  else if s.lvc.dcx = 2 ∧ buckPresent s = true ∧ (s.lvc.buck = 0 ∨ s.lvc.buck = 5) then
    let s := clearLvFaults s
    { s with lvc := { s.lvc with retries := 0, f3Stop := false, buck := 1 } }
  else s

/-- LV_RESTART_REQUEST: the vehicle's request to start the stopped converter (R293). -/
def execLvRestartRequest (s : State) : Host.Outcome State Fault Refusal := .next (lvRestart s)

/-- DCX_START_TIMEOUT: V48 not at its level by DCX_SS + 5 ms: 0x380A (R300). -/
def execDcxStartTimeout (v48 : Q) (elapsedMs : Nat) (s : State) : Host.Outcome State Fault Refusal :=
  if s.lvc.dcx = 1 ∧ v48 < v48Level s ∧ s.pf 0x58 0 4 * 1000 + 5 ≤ elapsedMs then
    .next (raise 0x380A noInst 0 { s with lvc := { s.lvc with v48 := v48 } })
  else .next s

/-- V48_OVERVOLTAGE: above V48_OV for 50 µs while the DCX runs: 0x3801 (R300). -/
def execV48Overvoltage (v48 : Q) (heldUs : Nat) (s : State) : Host.Outcome State Fault Refusal :=
  if s.lvc.dcx = 2 ∧ s.pf 0x58 0 16 < v48 ∧ 50 ≤ heldUs then
    .next (raise 0x3801 noInst (roundN (v48 * 100)) { s with lvc := { s.lvc with v48 := v48 } })
  else .next s

/-- V48_UNDERVOLTAGE: below V48_UV for 50 µs while the DCX runs: 0x3802 (R300). -/
def execV48Undervoltage (v48 : Q) (heldUs : Nat) (s : State) : Host.Outcome State Fault Refusal :=
  if s.lvc.dcx = 2 ∧ v48 < s.pf 0x58 0 12 ∧ 50 ≤ heldUs then
    .next (raise 0x3802 noInst (roundN (v48 * 100)) { s with lvc := { s.lvc with v48 := v48 } })
  else .next s

/-! ## The loop (R297, R299, R301, R302, R305, R306) -/

/-- The phase current of R297 from the switch node. -/
def phaseCurrent (s : State) (n : Fin 6) (vSw : Q) : Q :=
  divQ (-vSw) (s.pf 0x58 1 28 * (1 + s.pf 0x58 1 32 * (s.tj (buckLow n) - 25)))

/-- f(x) of R305. -/
def foldBack (x : Q) : Q := if 7 / 10 ≤ x then 1 else if 1 / 5 < x then 1 / 4 + 3 / 4 * (x - 1 / 5) / (1 / 2) else 1 / 4

/-- I_base of R305. -/
def iBase (s : State) : Q :=
  let m (o : Option Q) (x : Q) := match o with
    | some l => minQ x l
    | none => x
  m (s.thmLimit 5) (m s.lvc.limit (divQ (s.pf 0x58 1 36 * s.lvc.act.length) (s.pu 0x58 1 0)))

/-- The triangle of the spread spectrum, from −1 to +1 and back in one period (R301). -/
def triangle (phase : Q) : Q := 1 - 4 * absQ (phase - 1 / 2)

/-- T of R301: the ring's period with its spread spectrum, the ring held within ±3 % (R298). -/
def buckPeriod (s : State) (x : SlotIn) : Q :=
  divQ 1 (s.pf 0x58 1 4 * (1 + s.pf 0x58 1 8 * triangle s.lvc.ssPhase) * (1 + clampQ (-3 / 100) (3 / 100) x.ring))

/-- The first active phase's slot begins a period; so does the first slot since the start of the buck (R301). -/
def beginsPeriod (s : State) (n : Fin 6) : Bool := decide (s.lvc.act.head? = some n) || decide (s.lvc.tPer = 0)

/-- A period begins: the triangle has moved on at SS_RATE by the period that ends, and T is formed for every slot of the new one, so that
they move together (R301). Where the triangle starts no rule says: at its lowest point, the model's choice (log entry 60). -/
def newPeriod (x : SlotIn) (s : State) : State :=
  let ph := s.lvc.ssPhase + s.pf 0x58 1 12 * s.lvc.tPer
  let s := { s with lvc := { s.lvc with ssPhase := ph - ph.floor } }
  { s with lvc := { s.lvc with tPer := buckPeriod s x } }

/-- The place of a phase in a list. -/
def placeOf (n : Fin 6) : List (Fin 6) → Nat
  | [] => 0
  | k :: rest => if k = n then 0 else placeOf n rest + 1

/-- The slot of a phase as a part of T (R301). -/
def slotPart (l : List (Fin 6)) (n : Fin 6) : Q := divQ (placeOf n l) l.length

/-- At a period start the spacing follows the active phases; the period is stretched so that no slot comes earlier than its old
position (R301). -/
def respace (s : State) : State :=
  let d := s.lvc.act.foldl (fun d n => maxQ d (slotPart s.lvc.slots n - slotPart s.lvc.act n)) 0
  { s with lvc := { s.lvc with slots := s.lvc.act, slotD := d } }

/-- The readings of a slot are stored: the phase's current, the sense readings, V48; the phase's turn-on is not delayed yet, and it waits for no
slot any more (R306, R312). -/
def slotRead (n : Fin 6) (x : SlotIn) (s : State) : State :=
  { s with lvc := { s.lvc with ph := s.lvc.ph.put n (phaseCurrent s n x.vSw), rs := x.rs, ls := x.ls, v48 := x.v48, delay := s.lvc.delay.put n 0, waiting := s.lvc.waiting.filter (· ≠ n) } }

/-- The loop of R302 at a slot of an active phase, on the readings that the slot has stored. The on-time it commands meets the minimum pulse
at the edges (R295). -/
def slotLoop (n : Fin 6) (s : State) : State :=
  let l := s.lvc
  let nAct : Q := l.act.length
  let t := l.tPer
  let tu := t / nAct
  let iout := s.iOut
  let vfb := s.vFb
  let f := foldBack (divQ vfb (vSet s))
  let ifold := iBase s * f
  let ev := l.vref - vfb
  let xv := l.xv + s.pf 0x58 1 52 * tu * ev
  let dv := divQ l.vref l.v48 + s.pf 0x58 1 48 * ev + xv
  let ei := ifold - iout
  let xi := l.xi + s.pf 0x58 1 60 * tu * ei
  let di := divQ vfb l.v48 + s.pf 0x58 1 56 * ei + xi
  let d := minQ dv di
  let xv := if di < dv then d - divQ l.vref l.v48 - s.pf 0x58 1 48 * ev else xv
  let ton := clampQ 0 t (d * t + clampQ (-t / 20) (t / 20) (s.pf 0x58 1 64 * (iout / nAct - l.ph.get n)))
  { s with lvc := { l with xv := xv, xi := xi, ilim := decide (di < dv), fold := decide (f < 1), iFold := ifold, ton := l.ton.put n ton } }

/-- A slot of an active phase: readings, loop, rectifiers. -/
def slotCore (n : Fin 6) (x : SlotIn) (s : State) : State := setSr (slotLoop n (slotRead n x s))

/-- The response has lasted US_ON and 1 µs more at a slot, so the slot acts; the outputs the response had turned on are off, and the
other phases go on waiting for their own slots (R312, R313). -/
def endResponse (s : State) : State :=
  if s.inResponse then
    let s := s.lvc.act.foldl (fun s n => turnOff (if s.lvc.resp = 1 then buckHigh n else buckLow n) s) s
    { s with lvc := { s.lvc with resp := 3 } }
  else s

/-- A slot is skipped in a response and until 1 µs after it (R312, R313). -/
def slotSkipped (s : State) (x : SlotIn) : Bool :=
  s.inResponse && !(match x.sinceNs with
    | some ns => decide (s.pf 0x58 1 80 + 1 / 1000000 ≤ (ns : Q) / 1000000000)
    | none => false)

/-- BUCK_TURN_ON_SLOT: at the phase's slot of R301 the loop forms the duty and the on-time of the phase; no slot acts in an
overvoltage hold, in a response or until 1 µs after it (R302, R312 to R314). -/
def execBuckTurnOnSlot (n : Fin 6) (x : SlotIn) (s : State) : Host.Outcome State Fault Refusal :=
  if (s.lvc.buck = 2 ∨ s.lvc.buck = 3) ∧ n ∈ s.lvc.act then
    let s := if beginsPeriod s n then newPeriod x (respace s) else s
    if s.lvc.ovHold = false ∧ slotSkipped s x = false ∧ x.off = (slotPart s.lvc.slots n + s.lvc.slotD) * s.lvc.tPer then .next (slotCore n x (endResponse s)) else .next s
  else .next s

/-- A held phase's current has fallen to I_PH_MAX at `ft` of its slot: past the slot the low side turns off there, and the phase's turn-on comes
later by as much (R306). -/
def releaseHeld (n : Fin 6) (ft : Int) (s : State) : State :=
  if s.lvc.held.contains n then
    let s := { s with lvc := { s.lvc with held := s.lvc.held.filter (· ≠ n), delay := if 0 < ft then s.lvc.delay.put n ft else s.lvc.delay } }
    if 0 < ft then turnOff (buckLow n) s else s
  else s

/-- PHASE_CURRENT_LIMIT: in its low-side interval, at `ft` of its slot, above I_PH_MAX the low side stays on until the current falls to it and the
phase's next turn-on waits; at −I_NEG_MAX (0 in soft start) the low side turns off for the rest of its interval (R306). -/
def execPhaseCurrentLimit (n : Fin 6) (ft : Int) (amps : Q) (s : State) : Host.Outcome State Fault Refusal :=
  if (s.lvc.buck = 2 ∨ s.lvc.buck = 3) ∧ n ∈ s.lvc.act ∧ (s.gd.ch.get (buckLow n)).out = .on then
    let neg := if s.lvc.buck = 2 then 0 else s.pf 0x58 1 44
    if s.pf 0x58 1 40 < amps then .next { s with lvc := { s.lvc with held := n :: s.lvc.held.filter (· ≠ n) } }
    else
      let s := releaseHeld n ft s
      if amps ≤ -neg then .next (turnOff (buckLow n) s) else .next s
  else .next s

/-! ## Setpoint and reference (R303, R304, R307) -/

/-- LVC_CMD_WRITE: setpoint and slew taken as one set; a value out of range is clipped with 0x3808 (R303). -/
def execLvcCmdWrite (value : Word) (s : State) : Host.Outcome State Fault Refusal := .next (lvcWrite value.toNat s)

/-- REFERENCE_STEP: in soft start V_ref rises at V_set / T_SS, in running it steps at S; it stops on V_set (R304, R307). -/
def execReferenceStep (s : State) : Host.Outcome State Fault Refusal :=
  if s.lvc.buck = 2 then
    let v := stepToward s.lvc.ssRate s.lvc.vref (vSet s)
    .next { s with lvc := { s.lvc with vref := v, buck := if v = vSet s then 3 else 2 } }
  else if s.lvc.buck = 3 then .next { s with lvc := { s.lvc with vref := stepToward (slewStep s) s.lvc.vref (vSet s) } }
  else .next s

/-! ## Shorts and hiccup (R308) -/

/-- SHORT_CHECK: the local reading below 0.2 × V_set for 5 ms: hiccup with 0x3804; after the fifth retry the buck latches
off with 0x3805 (R308). -/
def execShortCheck (ls : Q) (heldMs : Nat) (s : State) : Host.Outcome State Fault Refusal :=
  if s.lvc.buck = 3 ∧ ls < vSet s / 5 ∧ 5 ≤ heldMs then
    let s := { s with lvc := { s.lvc with ls := ls } }
    if 5 ≤ s.lvc.retries then .next (raise 0x3805 noInst 0 (stopBuck 5 s))
    else
      let s := stopBuck 4 s
      .next (raise 0x3804 noInst 0 { s with lvc := { s.lvc with retries := s.lvc.retries + 1, hiccups := satInc 8 s.lvc.hiccups } })
  else .next s

/-- HICCUP_RETRY: after 200 ms off the buck repeats steps 4 to 8 (R308). -/
def execHiccupRetry (rs ls : Q) (boot : List (Chan × Q)) (offMs : Nat) (s : State) : Host.Outcome State Fault Refusal :=
  if s.lvc.buck = 4 ∧ 200 ≤ offMs then .next (buckSoftStart rs ls boot s) else .next s

/-- RETRIES_RESET: at or above 0.7 × V_set for 1 s returns RETRIES to 0 (R308). -/
def execRetriesReset (ls : Q) (heldMs : Nat) (s : State) : Host.Outcome State Fault Refusal :=
  if s.lvc.buck = 3 ∧ 7 / 10 * vSet s ≤ ls ∧ 1000 ≤ heldMs then .next { s with lvc := { s.lvc with ls := ls, retries := 0 } } else .next s

/-! ## Sense loss, transients, overvoltage (R311 to R315) -/

/-- REMOTE_SENSE_LOSS: |V_rs − V_ls| above SENSE_WIN for 20 µs (R311). -/
def execRemoteSenseLoss (rs ls : Q) (heldUs : Nat) (s : State) : Host.Outcome State Fault Refusal :=
  if (s.lvc.buck = 2 ∨ s.lvc.buck = 3) ∧ s.remotePresent = true ∧ s.lvc.fbLocal = false ∧ s.pf 0x58 1 72 < absQ (rs - ls) ∧ 20 ≤ heldUs then
    .next (senseFallback { s with lvc := { s.lvc with rs := rs, ls := ls } })
  else .next s

/-- A transient is judged: running, no overvoltage hold, no response since the start or 20 µs after the end of the last one (R312,
R315). -/
def judged (s : State) (sinceUs : Option Nat) : Bool :=
  decide (s.lvc.buck = 3) && !s.lvc.ovHold && (match sinceUs with
    | some u => decide (20 ≤ u) && !s.inResponse
    | none => decide (s.lvc.resp = 0))

/-- UNDERSHOOT_RESPONSE: more than 4 % of V_ref below the highest recent sample: every active phase turns its low side
off and its high side on for US_ON; ALLPH counts (R312). -/
def execUndershootResponse (ls highest : Q) (sinceUs : Option Nat) (s : State) : Host.Outcome State Fault Refusal :=
  if judged s sinceUs = true ∧ ls < highest - s.lvc.vref / 25 then
    let s := s.lvc.act.foldl (fun s n => turnOn (buckHigh n) (turnOff (buckLow n) s)) s
    .next { s with lvc := { s.lvc with ls := ls, held := [], delay := Tab.fill 0, waiting := s.lvc.act, resp := 1, allph := satInc 8 s.lvc.allph } }
  else .next s

/-- RELEASE_RESPONSE: more than 4 % above the lowest recent sample: the high sides turn off, the low sides turn on for
US_ON; RELEASE counts, 0x3806 (R313). -/
def execReleaseResponse (ls lowest : Q) (sinceUs : Option Nat) (s : State) : Host.Outcome State Fault Refusal :=
  if judged s sinceUs = true ∧ lowest + s.lvc.vref / 25 < ls then
    let s := s.lvc.act.foldl (fun s n => turnOn (buckLow n) (turnOff (buckHigh n) s)) s
    .next (lvRelease (raise 0x3806 noInst 0 { s with lvc := { s.lvc with ls := ls, held := [], delay := Tab.fill 0, waiting := s.lvc.act, resp := 2, release := satInc 8 s.lvc.release } }))
  else .next s

/-- OVERVOLTAGE_HOLD: above V_OV for 5 µs both sides of every phase are held off, OV_HOLD, 0x3806 (R314). -/
def execOvervoltageHold (ls : Q) (heldUs : Nat) (s : State) : Host.Outcome State Fault Refusal :=
  if (s.lvc.buck = 2 ∨ s.lvc.buck = 3) ∧ s.lvc.ovHold = false ∧ s.pf 0x58 1 84 < ls ∧ 5 ≤ heldUs then
    let s := s.lvc.act.foldl (fun s n => turnOff (buckLow n) (turnOff (buckHigh n) s)) s
    .next (raise 0x3806 noInst 0 { s with lvc := { s.lvc with ls := ls, ovHold := true, resp := if s.inResponse then 3 else s.lvc.resp, held := [], waiting := s.lvc.act, ovh := satInc 8 s.lvc.ovh } })
  else .next s

/-- OVERVOLTAGE_HOLD_END: below V_OV − 0.5 V the buck resumes at its next slots (R314). -/
def execOvervoltageHoldEnd (ls : Q) (s : State) : Host.Outcome State Fault Refusal :=
  if s.lvc.ovHold = true ∧ ls < s.pf 0x58 1 84 - 1 / 2 then .next { s with lvc := { s.lvc with ls := ls, ovHold := false } } else .next s

/-- OVERVOLTAGE_HOLD_TIMEOUT: a hold of 10 ms stops the buck with 0x3807 (R314). -/
def execOvervoltageHoldTimeout (elapsedMs : Nat) (s : State) : Host.Outcome State Fault Refusal :=
  if s.lvc.ovHold = true ∧ 10 ≤ elapsedMs then .next (raise 0x3807 noInst 0 s) else .next s

/-- PHASE_STOP: a phase that a gate-drive fault stops leaves the active set; with none left 0x3809 (R316). -/
def execPhaseStop (n : Fin 6) (s : State) : Host.Outcome State Fault Refusal :=
  if n ∈ s.lvc.act ∧ phaseBad s n = true then
    .next (lastPhase s.lvc.buck (stopPhase n s))
  else .next s

end Sys2Proof.Machine
end

