-- ==== Sys2Proof/Machine/Position.lean ====
section
/-! DEFINITION. Position and speed feedback (08_position_speed.md): resolvers, SENT, edges, emulation. -/

namespace Sys2Proof.Machine

/-! ## VALID and the error window (R212, R224, R227, R232) -/

/-- An interface is VALID: as it becomes so again, the faults of the chapter that it raised clear (R212); one that stays VALID clears
none (log entry 46). -/
def posOk (i : Ifc) (s : State) : State :=
  if (s.pos.get i).valid then s
  else
    let s := { s with pos := s.pos.upd i (fun p => { p with valid := true, bad := false }) }
    [0x2001, 0x2002, 0x2003, 0x2004, 0x2005, 0x2006, 0x2007, 0x2008, 0x2009, 0x200A, 0x200B].foldl (fun s c => clearF c i.val s) s

/-- A level of the input stage is accepted after FILT equal samples, one a coarse tick (R225). -/
def filtered (s : State) (i : Ifc) (heldCt : Nat) : Bool := decide (s.pu 0x40 i 12 ≤ heldCt)

/-- COUNT is a signed 32-bit value that wraps (R226). -/
def wrap32 (x : Int) : Int := angSigned (ang x)

/-- An interface loses VALID, an encoder until its next index event; while its user runs the fault of the cause is raised (R212). -/
def posLose (i : Ifc) (code : Nat) (s : State) : State :=
  let run := s.posUserRuns i
  let s := { s with pos := s.pos.upd i (fun p => { p with valid := false, bad := true }) }
  if run then raise code i.val 0 s else s

/-- One more error at a time: counted, and the times older than ERR_WIN dropped. -/
def addError (i : Ifc) (tFt : Nat) (s : State) : State :=
  let w := s.pf 0x40 i 48 * 10240000000
  { s with pos := s.pos.upd i (fun p => { p with errTotal := satInc 16 p.errTotal, errTimes := tFt :: p.errTimes.filter (fun u => decide ((tFt : Q) - u ≤ w)) }) }

/-- Fewer than ERR_MAX errors lie in the window that ends at a time: a Hall set may be VALID again (R212). -/
def belowErr (s : State) (i : Ifc) (tFt : Nat) : Bool :=
  decide (((s.pos.get i).errTimes.filter (fun u => decide ((tFt : Q) - u ≤ s.pf 0x40 i 48 * 10240000000))).length < s.pu 0x40 i 44)

/-- More than ERR_MAX errors lie in the window. -/
def overErr (s : State) (i : Ifc) : Bool := decide (s.pu 0x40 i 44 < (s.pos.get i).errTimes.length)

/-! ## Encoder emulation (R238 to R240) -/

/-- Output steps per mechanical turn (R238). -/
def outTurn (s : State) (i : Ifc) : Nat :=
  let src : Ifc := ⟨s.pu 0x40 i 20 % 12, Nat.mod_lt _ (by decide)⟩
  let inTurn := if src.val < 2 then 65536 * s.pu 0x40 src 28 else if src.val < 4 then 65536 * s.pu 0x40 src 52
    else if src.val < 6 then 4 * s.pu 0x40 src 20 else 6 * s.pu 0x40 src 0
  inTurn * s.pu 0x40 i 24 / max (s.pu 0x40 i 28) 1

/-- An emulation stands at the output count of a source position, with nothing left to emit; A and B follow while the source is VALID (R239,
R240). -/
def emAt (src : Ifc) (i : Ifc) (out acc : Int) (s : State) : State :=
  { s with em := s.em.upd i (fun e => { e with started := true, acc := acc, want := out, out := out, shown := if s.posValid src then out else e.shown }),
           pos := s.pos.upd i (fun p => { p with count := wrap32 out }) }

/-- The output count and the rest of R238 at a source position. -/
def emCount (s : State) (i : Ifc) (pos : Int) : Int × Int :=
  let n : Int := s.pu 0x40 i 24
  let m : Int := max (s.pu 0x40 i 28) 1
  let c := Int.tdiv (pos * n) m
  (c, pos * n - c * m)

/-- The input steps of R238 fed to one emulation, from the source's first VALID position on; a backlog above 1,024 steps is discarded
with 0x200B, and the output count is set without its states being emitted (R239). -/
def feedOne (src : Ifc) (pos delta : Int) (i : Ifc) (s : State) : State :=
  if s.hasRec 0x40 i = true ∧ s.pu 0x40 i 20 = src.val ∧ (s.posValid src = true ∨ (s.em.get i).started = true) then
    let n : Int := s.pu 0x40 i 24
    let m : Int := max (s.pu 0x40 i 28) 1
    let e := s.em.get i
    if e.started = false then
      let c := emCount s i pos
      emAt src i c.1 c.2 s
    else
      let tot := e.acc + n * delta
      let k := Int.tdiv tot m
      let want := e.want + k
      let s := { s with em := s.em.put i { e with acc := tot - k * m, want := want } }
      if 1024 < (want - e.out).natAbs then
        let s := emAt src i want (tot - k * m) s
        raise 0x200B i.val 0 { s with em := s.em.upd i (fun e => { e with sync := false }), pos := s.pos.upd i (fun p => { p with errTotal := satInc 16 p.errTotal }) }
      else s
  else s

/-- Feed both emulations from a source's new position and change, in input steps. -/
def feedEmulation (src : Ifc) (pos delta : Int) (s : State) : State := feedOne src pos delta 11 (feedOne src pos delta 10 s)

/-- An encoder's first index event gives its counts their angle: the emulations of it stand at the output count of that angle from then on,
and SYNC clears as it does at any change that emits no states (R230, R239, R240, log entry 46). -/
def rebaseEm (src : Ifc) (pos : Int) (s : State) : State :=
  ([10, 11] : List Ifc).foldl (fun (s : State) (i : Ifc) =>
    if s.hasRec 0x40 i = true ∧ s.pu 0x40 i 20 = src.val ∧ ((s.em.get i).started = true ∨ s.posValid src = true) then
      let c := emCount s i pos
      let s := emAt src i c.1 c.2 s
      { s with em := s.em.upd i (fun e => { e with sync := false }) }
    else s) s

/-- EMULATION_STEP: one waiting step is emitted at least EM_SPACE after the previous one, while the source is VALID;
SYNC sets as the output passes count 0 (R239, R240). -/
def execEmulationStep (i : Ifc) (sinceCt : Nat) (s : State) : Host.Outcome State Fault Refusal :=
  let e := s.em.get i
  let src : Ifc := ⟨s.pu 0x40 i 20 % 12, Nat.mod_lt _ (by decide)⟩
  if 10 ≤ i.val ∧ s.hasRec 0x40 i = true ∧ e.want ≠ e.out ∧ s.pu 0x40 i 32 ≤ sinceCt ∧ s.posValid src = true then
    let out := if e.out < e.want then e.out + 1 else e.out - 1
    let zero := decide (out % (max (outTurn s i) 1 : Nat) = 0)
    .next { s with em := s.em.put i { e with out := out, shown := out, sync := e.sync || zero }, pos := s.pos.upd i (fun p => { p with count := wrap32 out }) }
  else .next s

/-- The levels of EMx_A, EMx_B and EMx_Z: count 0 is the state A = 1, B = 1, A leads B upwards; Z is high in the states whose count is 0
modulo OUT_TURN while EM_Z_EN is 1, SYNC is 1 and the source is VALID; without VALID A and B hold (R239, R240). -/
def State.emPins (s : State) (i : Ifc) : Bool × Bool × Bool :=
  let e := s.em.get i
  let src : Ifc := ⟨s.pu 0x40 i 20 % 12, Nat.mod_lt _ (by decide)⟩
  let q := (if s.posValid src then e.out else e.shown) % 4
  if s.hasRec 0x40 i = false then (false, false, false)
  else (decide (q = 0 ∨ q = 3), decide (q = 0 ∨ q = 1), decide (s.pu 0x40 i 36 = 1) && e.sync && s.posValid src && decide (e.out % (max (outTurn s i) 1 : Nat) = 0))

/-! ## Resolvers (R213 to R220) -/

/-- The excitation period, a whole number of ft (R148, R213). -/
def excPeriod (s : State) (i : Ifc) : Nat := max 1 (roundN (divQ 10240000000 (s.pf 0x40 i 20)))

/-- RSx_EXP − RSx_EXN at the present coarse tick: a sine of peak EXC_AMP from the load of the Catalogue on; before it both pins hold VA/2
(R213). -/
def State.excitation (s : State) (i : Ifc) : Q :=
  if s.hasRec 0x40 i = false ∨ s.cat.locked = false then 0
  else s.pf 0x40 i 24 * sinA (((s.mer.ct - (s.res.get i).exc) * 256 % excPeriod s i) * 2 ^ 32 / excPeriod s i)

/-- The sign of DIR applied to a quantity. -/
def dirI (s : State) (i : Ifc) (x : Int) : Int := if s.pu 0x40 i 8 = 1 then -x else x

/-- The sign of DIR applied to a speed. -/
def dirQ (s : State) (i : Ifc) (x : Q) : Q := if s.pu 0x40 i 8 = 1 then -x else x

/-- The pole-pair ratio of a resolver or SENT sensor. -/
def ppRatio (s : State) (i : Ifc) (off : Nat) : Nat := s.pu 0x40 i 0 / max (s.pu 0x40 i off) 1

/-- One correction moved toward its estimate by at most a step, held within ±lim; and whether the limit held it (R218). -/
def moveCal (step lim cur est : Q) : Q × Bool :=
  let e := clampQ (-lim) lim est
  (stepToward step cur e, decide (e ≠ est))

/-- The corrections at the end of a complete turn (R218). -/
def endTurn (i : Ifc) (c : CalTurn) (s : State) : State :=
  let r := s.res.get i
  let en := s.pu 0x40 i 48
  let n : Q := max c.n 1
  let ms := c.sumS / n
  let mc := c.sumC / n
  let vs := c.sumSS / n - ms * ms
  let vc := c.sumCC / n - mc * mc
  let os := if en.testBit 0 then moveCal (r.amp / 2048) (1 / 20) r.os ms else (r.os, false)
  let oc := if en.testBit 0 then moveCal (r.amp / 2048) (1 / 20) r.oc mc else (r.oc, false)
  let k := if en.testBit 1 then moveCal (1 / 4096) (1 / 10) r.k (sqrtQ (divQ vs vc) - 1) else (r.k, false)
  let ph := if en.testBit 2 then moveCal (1 / 4096) (1 / 10) r.phi (asinQ (-(divQ (c.sumS1C / n - mc * (c.sumS1 / n)) vc))) else (r.phi, false)
  let s := { s with res := s.res.put i { r with os := os.1, oc := oc.1, k := k.1, phi := ph.1 } }
  if os.2 || oc.2 || k.2 || ph.2 then raise 0x2003 i.val 0 s else s

/-- One update added to the calibration turn; a turn that breaks a condition is discarded (R218). -/
def calStep (i : Ifc) (sm cm s1 : Q) (dth : Int) (s : State) : State :=
  let r := s.res.get i
  let c := s.cal.get i
  if s.pu 0x40 i 48 % 8 = 0 ∨ active 0x2001 i.val s = true ∨ absQ r.w < s.pf 0x40 i 52 then { s with cal := s.cal.put i CalTurn.empty }
  else
    let c := if c.n ≠ 0 ∧ absQ c.w0 / 10 < absQ (r.w - c.w0) then CalTurn.empty else c
    let c := { n := c.n + 1, travel := c.travel + dth, w0 := if c.n = 0 then r.w else c.w0, sumS := c.sumS + sm, sumC := c.sumC + cm,
               sumSS := c.sumSS + sm * sm, sumCC := c.sumCC + cm * cm, sumS1 := c.sumS1 + s1, sumS1C := c.sumS1C + s1 * cm : CalTurn }
    if 2 ^ 32 ≤ c.travel.natAbs then endTurn i c { s with cal := s.cal.put i CalTurn.empty }
    else { s with cal := s.cal.put i c }

/-- The carrier-phase step of SDLY once per excitation period (R219); it pauses while 0x2001 is active (R220). -/
def sdlyStep (i : Ifc) (sm cm sq cq : Q) (s : State) : State :=
  let r := s.res.get i
  if (s.pu 0x40 i 48).testBit 3 = true ∧ active 0x2001 i.val s = false then
    let pExc : Q := excPeriod s i
    let rho := divQ (sm * sq + cm * cq) (sm * sm + cm * cm)
    let d0 := if rho = 0 then 0 else roundQ (rho * pExc / (2 * piQ))
    let d : Int := if d0 < -16 then -16 else if 16 < d0 then 16 else d0
    let x := (r.sdly : Int) - d
    { s with res := s.res.put i { r with sdly := if x < 0 then 0 else min x.toNat (floorN (pExc / 2)) } }
  else s

/-- The checks of R220 and the VALID row of R212 after an update. -/
def resCheck (i : Ifc) (eps : Q) (s : State) : State :=
  let r := s.res.get i
  let ampOk := decide (s.pf 0x40 i 36 ≤ r.amp ∧ r.amp ≤ s.pf 0x40 i 40)
  let lim := s.pu 0x40 i 44
  let trkBad := decide (sinA lim < absQ eps)
  let fine := decide (absQ eps < sinA (lim / 2))
  let r := { r with ampRun := if ampOk then 0 else r.ampRun + 1, trkRun := if trkBad then r.trkRun + 1 else 0, good := if fine then r.good + 1 else 0 }
  let s := { s with res := s.res.put i r, pos := s.pos.upd i (fun p => { p with errTotal := if trkBad then satInc 16 p.errTotal else p.errTotal, errTimes := if trkBad then 0 :: p.errTimes.take 254 else p.errTimes }) }
  let s := if ampOk = true ∧ s.pf 0x40 i 20 / 50 ≤ (r.good : Q) then posOk i s else s
  let s := if r.ampRun = 4 then posLose i 0x2001 s else s
  if r.trkRun = 3 then posLose i 0x2002 s else s

/-- RESOLVER_UPDATE: after a 90° or 270° sample the envelope is formed (R214), corrected (R215) and tracked (R216); the
output follows R217, calibration R218 and R219, the checks R220. -/
def execResolverUpdate (i : Ifc) (at270 : Bool) (sQuad cQuad sEnv cEnv : Q) (s : State) : Host.Outcome State Fault Refusal :=
  if 2 ≤ i.val ∨ s.hasRec 0x40 i = false ∨ s.cat.locked = false then .next s
  else
    let r := s.res.get i
    let r := if at270 then { r with s180 := sQuad, c180 := cQuad, s270 := sEnv, c270 := cEnv } else { r with s0 := sQuad, c0 := cQuad, s90 := sEnv, c90 := cEnv }
    let sm := (r.s90 - r.s270) / 2
    let cm := (r.c90 - r.c270) / 2
    let sq := (r.s0 - r.s180) / 2
    let cq := (r.c0 - r.c180) / 2
    let s1 := divQ (sm - r.os) (1 + r.k)
    let c1 := divQ (cm - r.oc + s1 * sinRad r.phi) (cosRad r.phi)
    let a := sqrtQ (s1 * s1 + c1 * c1)
    let hold := active 0x2001 i.val s
    let eps := if hold then 0 else divQ (s1 * cosA r.th - c1 * sinA r.th) a
    let t := divQ 1 (2 * s.pf 0x40 i 20)
    let wn := if eps = 0 then 0 else 2 * piQ * s.pf 0x40 i 32
    let w := r.w + wn * wn * t * eps
    let dth := radToAng (t * (w + 2 * wn * eps))
    let th := ang ((r.th : Int) + dth)
    let k := ppRatio s i 28
    let ofs : Int := s.pu 0x40 i 4
    let out := ang (ofs + dirI s i ((k * th : Nat) : Int))
    let we := dirQ s i ((k : Q) * w)
    let oldP : Int := r.th / 65536
    let s := { s with res := s.res.put i { r with th := th, w := w, amp := a },
                      pos := s.pos.upd i (fun p => { p with angle := out, speed := we, neg := decide (we < 0), still := decide (we = 0) }) }
    let s := resCheck i eps s
    let s := calStep i sm cm s1 dth s
    let s := if at270 = true ∧ s.pf 0x40 i 36 ≤ a ∧ a ≤ s.pf 0x40 i 40 then sdlyStep i sm cm sq cq s else s
    let d := angSigned (ang (((th / 65536 : Nat) : Int) * 65536 - oldP * 65536)) / 65536
    .next (feedEmulation i ((th / 65536 : Nat) : Int) d s)

/-! ## SENT (R221 to R224) -/

/-- The CRC-4 of SAE J2716 by its recommended method: seed 0b0101 (log entry 10). -/
def sentCrc (nibs : List Nat) : Nat :=
  let tab := [0, 13, 7, 10, 14, 3, 9, 4, 1, 12, 6, 11, 15, 2, 8, 5]
  let c := nibs.foldl (fun c n => Nat.xor (tab.getD c 0) n) 5
  tab.getD c 0

/-- The value of a nibble pulse in ticks of the frame's own calibration; none outside 12 to 27 ticks (R222). -/
def nibble (cal pulse : Q) : Option Nat :=
  let n := roundN (divQ (pulse * 56) cal)
  if 12 ≤ n ∧ n ≤ 27 then some (n - 12) else none

/-- All nibbles of a list, or none. -/
def nibbles (cal : Q) : List Q → Option (List Nat)
  | [] => some []
  | p :: ps => match nibble cal p, nibbles cal ps with
    | some n, some ns => some (n :: ns)
    | _, _ => none

/-- A pulse lies in 56 × TICK ± 20 % (R222). -/
def calPulse (s : State) (i : Ifc) (p : Q) : Bool :=
  let c := 56 * s.pf 0x40 i 20
  decide (4 / 5 * c ≤ p ∧ p ≤ 6 / 5 * c)

/-- Two calibration pulses differ by at most 1/64. -/
def calClose (a b : Q) : Bool := decide (absQ (a - b) ≤ a / 64)

/-- The sensor angle of a frame's data nibbles (R223). -/
def sentRaw (s : State) (i : Ifc) (nibs : List Nat) : Nat :=
  let v := nibs.foldl (fun a n => a * 16 + n) 0
  v / 2 ^ (4 * s.pu 0x40 i 24 - s.pu 0x40 i 28) * 2 ^ (32 - s.pu 0x40 i 28)

/-- The electrical angle of a frame's data nibbles with DIR and ANGLE_OFS (R223). -/
def sentAngle (s : State) (i : Ifc) (nibs : List Nat) : Nat :=
  ang ((s.pu 0x40 i 4 : Int) + dirI s i ((ppRatio s i 52 * sentRaw s i nibs : Nat) : Int))

/-- The frame's status and data nibbles if it passes every check of R222. -/
def sentAccept (s : State) (i : Ifc) (f : SentFrame) : Option (Nat × List Nat) :=
  let x := s.sent.get i
  let prevOk := match x.prevCal with
    | some c => calClose c f.cal
    | none => true
  let pauseOk := if s.pu 0x40 i 32 = 1 then
      let n := divQ (f.after * 56) f.cal
      decide (12 ≤ n ∧ n ≤ 768)
    else calPulse s i f.after
  let nextOk := !x.first || calClose f.cal f.nextCal
  match nibble f.cal f.status, nibbles f.cal f.data, nibble f.cal f.crc with
  | some st, some ds, some c =>
    let th := sentAngle s i ds
    let p := s.pos.get i
    let extra := match x.frames with
      | (t0, a0) :: _ :: _ => ang ((a0 : Int) + radToAng (p.speed * (((f.tFt : Q) - t0) / 10240000000)))
      | _ => th
    if calPulse s i f.cal && prevOk && decide (ds.length = s.pu 0x40 i 24) && decide (sentCrc ds = c) && pauseOk && nextOk
        && decide ((angSigned (ang ((th : Int) - extra))).natAbs ≤ 2 ^ 32 / 12) then some (st, ds) else none
  | _, _, _ => none

/-- The speed over the last frames, at most four (R223). -/
def sentSpeed (frames : List (Nat × Nat)) : Q :=
  let rec go (acc : Int) : List (Nat × Nat) → Int
    | (t1, a1) :: (t0, a0) :: rest => go (acc + angSigned (ang ((a1 : Int) - a0))) ((t0, a0) :: rest)
    | _ => acc
  match frames with
  | (t1, _) :: rest@(_ :: _) =>
    let t0 := (rest.getLast?.map (·.1)).getD t1
    divQ (angToRad (go 0 frames)) (((t1 : Q) - t0) / 10240000000)
  | _ => 0

/-- SENT_FRAME: a frame is checked and, if accepted, yields angle and speed; a rejection counts (R222 to R224). -/
def execSentFrame (i : Ifc) (f : SentFrame) (s : State) : Host.Outcome State Fault Refusal :=
  if i.val < 2 ∨ 4 ≤ i.val ∨ s.hasRec 0x40 i = false then .next s
  else
    let x := s.sent.get i
    match sentAccept s i f with
    | some (st, ds) =>
      let th := sentAngle s i ds
      let frames := ((f.tFt, th) :: x.frames).take 4
      let we := sentSpeed frames
      let raw := sentRaw s i ds
      let old := if x.frames = [] then raw else x.raw
      let s := { s with sent := s.sent.put i { frames := frames, prevCal := some f.cal, first := false, accRun := x.accRun + 1, raw := raw },
                        pos := s.pos.upd i (fun p => { p with angle := th, speed := we, neg := decide (we < 0), still := decide (we = 0), code := st }) }
      let s := if 2 ≤ x.accRun + 1 then posOk i s else s
      .next (feedEmulation i ((raw / 65536 : Nat) : Int) (angSigned (ang (((raw / 65536 : Nat) : Int) * 65536 - ((old / 65536 : Nat) : Int) * 65536)) / 65536) s)
    | none =>
      let s := addError i f.tFt { s with sent := s.sent.put i { x with first := true, accRun := 0, prevCal := some f.cal } }
      .next (if overErr s i then posLose i 0x2005 s else s)

/-- SENT_TIMEOUT: no accepted frame for SENT_TOUT raises 0x2004 (R224). -/
def execSentTimeout (i : Ifc) (sinceUs : Nat) (s : State) : Host.Outcome State Fault Refusal :=
  if 2 ≤ i.val ∧ i.val < 4 ∧ s.hasRec 0x40 i = true ∧ s.pf 0x40 i 40 * 1000000 ≤ sinceUs then
    .next (posLose i 0x2004 { s with sent := s.sent.upd i (fun x => { x with first := true, accRun := 0 }) })
  else .next s

/-! ## Speed from edges (R235 to R237) -/

/-- The direction that NEG shows: COUNT's own for an encoder, whose count DIR inverts, and the angle's for a Hall set (R226, R233). -/
def shownNeg (s : State) (i : Ifc) (d : Int) : Bool := decide ((if i.val < 6 then d else dirI s i d) < 0)

/-- A timed edge in a direction: a reversal discards its time, else it joins the run (R235, R237). -/
def timedEdge (i : Ifc) (d : Int) (tFt step mMax : Nat) (theta : List Nat → Nat → Q) (s : State) : State :=
  let e := s.edge.get i
  if e.dir ≠ 0 ∧ e.dir ≠ d then
    { s with edge := s.edge.put i { e with dir := d, times := [], steps := [], n := 0 }, pos := s.pos.upd i (fun p => { p with speed := 0, neg := shownNeg s i d, still := false }) }
  else
    let times := (tFt :: e.times).take 7
    let steps := (step :: e.steps).take 7
    let n := e.n + 1
    let m := min (n - 1) mMax
    let t0 := times.getD m tFt
    let dt : Q := ((tFt : Q) - t0) / 10240000000
    let we := if n < 2 then (s.pos.get i).speed else (d : Q) * divQ (theta steps m) dt
    let we := if 6 ≤ i.val ∧ 2 ≤ n then dirQ s i we else we
    { s with edge := s.edge.put i { e with dir := d, times := times, steps := steps, n := n, mean := if n < 2 then e.mean else dt / m },
             pos := s.pos.upd i (fun p => { p with speed := we, neg := shownNeg s i d, still := false }) }

/-- An illegal transition or a skip restarts the timing; the speed keeps its last value (R237). -/
def restartTiming (i : Ifc) (s : State) : State :=
  { s with edge := s.edge.upd i (fun e => { e with times := [], steps := [], n := 0 }) }

/-- STANDSTILL_TIMEOUT: with no edge for τ the speed is limited to one count over τ; at T_STILL it is 0 (R236). -/
def execStandstillTimeout (i : Ifc) (tauUs : Nat) (s : State) : Host.Outcome State Fault Refusal :=
  if i.val < 4 ∨ 10 ≤ i.val ∨ s.hasRec 0x40 i = false then .next s
  else
    let tau : Q := (tauUs : Q) / 1000000
    let e := s.edge.get i
    let p := s.pos.get i
    if s.pf 0x40 i 16 ≤ tau then
      .next { s with edge := s.edge.put i { e with dir := 0, times := [], steps := [], n := 0 }, pos := s.pos.put i { p with speed := 0, still := true } }
    else if e.mean < tau ∧ 0 < tau then
      let one := if i.val < 6 then divQ (s.pu 0x40 i 0 * 2 * piQ) (4 * s.pu 0x40 i 20) else angToRad (s.hallWidth i e.lastCode)
      let l := one / tau
      .next { s with pos := s.pos.put i { p with speed := if l < absQ p.speed then l * sgnQ p.speed else p.speed } }
    else .next s

/-! ## ABZ (R226 to R230) -/

/-- The quadrature phase of an A, B state in the direction A leads B. -/
def quadPhase (a b : Bool) : Nat := match a, b with
  | false, false => 0
  | true, false => 1
  | true, true => 2
  | false, true => 3

/-- The electrical angle of a count after the first index (R230). -/
def abzAngle (s : State) (i : Ifc) (n cref : Int) : Nat :=
  ang ((s.pu 0x40 i 4 : Int) + roundQ (divQ (((s.pu 0x40 i 0 : Int) * wrap32 (n - cref) * 2 ^ 32 : Int) : Q) (4 * s.pu 0x40 i 20)))

/-- The drift of a latch against the reference, in −turn/2 to turn/2 − 1 (R229). -/
def driftOf (latch cref : Int) (turn : Nat) : Int :=
  let d := wrap32 (latch - cref) % (max turn 1 : Nat)
  if d < turn / 2 then d else d - turn

/-- A drift or missing-index fault: an encoder loses VALID by it, a Hall set keeps its own (R212, R229, R234, log entry 46). -/
def indexFault (i : Ifc) (code : Nat) (s : State) : State :=
  if i.val < 6 then posLose i code s else if s.posUserRuns i then raise code i.val 0 s else s

/-- An index event of an interface with so many counts per turn: latch, reference, drift (R228, R229, R234). -/
def indexEvent (i : Ifc) (turn : Nat) (s : State) : State :=
  let p := s.pos.get i
  let e := s.edge.get i
  let base := { p with idx := p.count, idxNum := wrapInc 16 p.idxNum, idxSeen := true, aid := false, drift := 0 }
  match e.cref with
  | none => { s with edge := s.edge.put i { e with cref := some p.count }, pos := s.pos.put i base }
  | some c =>
    let d := driftOf p.count c turn
    let s := { s with pos := s.pos.put i { base with drift := d } }
    if s.pu 0x40 i 60 < d.natAbs then indexFault i 0x2007 s else s

/-- An index event within the tolerance: an encoder is VALID from it on; the index faults of a Hall set clear, as its VALID does not
follow its index (R212, R229, R234, log entry 46). -/
def indexGood (i : Ifc) (s : State) : State :=
  if s.pu 0x40 i 60 < (s.pos.get i).drift.natAbs then s
  else if i.val < 6 then posOk i s
  else clearF 0x2008 i.val (clearF 0x2007 i.val s)

/-- COUNT more than one and a half turns from the last latch without an index event (R229). -/
def indexMissing (i : Ifc) (turn : Nat) (s : State) : State :=
  let p := s.pos.get i
  if p.idxSeen = true ∧ 3 * turn < 2 * (wrap32 (p.count - p.idx)).natAbs then indexFault i 0x2008 s else s

/-- An index event of an encoder: the state A = 1, B = 1 reached while Z is high (R228); any other accepted state may show the index to
be missing (R229). -/
def abzIndex (i : Ifc) (ev : Bool) (s : State) : State :=
  let turn := 4 * s.pu 0x40 i 20
  if ev then indexGood i (indexEvent i turn s) else indexMissing i turn s

/-- After the first index event the angle follows COUNT (R230). -/
def abzFollow (i : Ifc) (s : State) : State :=
  match (s.edge.get i).cref with
  | some c => { s with pos := s.pos.upd i (fun p => { p with angle := abzAngle s i p.count c }) }
  | none => s

/-- The position of an encoder in counts from its angle 0: from the index on its own, before it that of the angle which its Hall aid gives
(R230, R240, log entry 46). -/
def abzPos (s : State) (i : Ifc) : Int :=
  match (s.edge.get i).cref with
  | some c => wrap32 ((s.pos.get i).count - c)
  | none => roundQ (divQ ((ang (((s.posAt i 0).1 : Int) - s.pu 0x40 i 4) * (4 * s.pu 0x40 i 20) : Nat) : Q) (2 ^ 32 * s.pu 0x40 i 0))

/-- An index event and the angle that follows it; the first one gives the emulations their reference. -/
def abzSettle (i : Ifc) (ev : Bool) (s : State) : State :=
  let first := ev && (s.edge.get i).cref.isNone
  let s := abzFollow i (abzIndex i ev s)
  if first then rebaseEm i (abzPos s i) s else s

/-- ABZ_EDGE: an accepted A, B or Z level (R225); one A or B edge counts and is timed, both together are illegal (R226 to R230,
R235, R237). -/
def execAbzEdge (i : Ifc) (a b z : Bool) (heldCt tFt : Nat) (s : State) : Host.Outcome State Fault Refusal :=
  if i.val < 4 ∨ 6 ≤ i.val ∨ s.hasRec 0x40 i = false ∨ filtered s i heldCt = false then .next s
  else
    let e := s.edge.get i
    let d := (quadPhase a b + 4 - quadPhase e.a e.b) % 4
    let ev := a && b && z && decide (d ≠ 0)
    let s := { s with edge := s.edge.put i { e with a := a, b := b, z := z }, pos := s.pos.upd i (fun p => { p with idxLvl := z }) }
    if d = 2 then
      let s := addError i tFt (restartTiming i s)
      let s := if overErr s i then posLose i 0x2006 s else s
      .next (if ev then abzSettle i ev s else s)
    else if d = 0 then .next s
    else
      let sg : Int := if d = 1 then dirI s i 1 else dirI s i (-1)
      let s := { s with pos := s.pos.upd i (fun p => { p with count := wrap32 (p.count + sg) }) }
      let s := timedEdge i sg tFt 0 4 (fun _ m => divQ (m * s.pu 0x40 i 0 * 2 * piQ) (4 * s.pu 0x40 i 20)) s
      let s := feedEmulation i (abzPos s i) sg s
      .next (abzSettle i ev s)

/-! ## Halls (R231 to R234) -/

/-- The step in positive codes from one valid Hall code to another: 1 adjacent forward, 5 adjacent backward (R232). -/
def hallSteps (s : State) (i : Ifc) (c c' : Nat) : Nat :=
  let angs := [1, 2, 3, 4, 5, 6].map (fun k => ang ((s.hallAng i k : Int) - s.hallAng i c))
  let tgt := ang ((s.hallAng i c' : Int) - s.hallAng i c)
  (angs.filter (fun x => decide (x < tgt))).length

/-- The position of a Hall set in sectors from its angle 0, within one electrical turn (R238, R240). -/
def hallPos (s : State) (i : Ifc) (c : Nat) : Int :=
  (([1, 2, 3, 4, 5, 6].filter (fun k => decide (s.hallAng i k < s.hallAng i c))).length : Nat)

/-- A valid edge between adjacent codes: COUNT, angle and speed (R232, R233, R235); the step crossed is the sector that is left. -/
def hallAdjacent (i : Ifc) (c c' : Nat) (fwd : Bool) (tFt : Nat) (s : State) : State :=
  let sg : Int := if fwd then 1 else -1
  let raw := if fwd then s.hallAng i c' else s.hallAng i c
  let width := s.hallWidth i c
  let s := { s with pos := s.pos.upd i (fun p => { p with count := wrap32 (p.count + sg), angle := s.hallOut i raw }), edge := s.edge.upd i (fun e => { e with mid := false }) }
  let s := timedEdge i sg tFt width 6 (fun st m => angToRad ((st.take m).foldl (· + ·) 0 : Nat)) s
  feedEmulation i (hallPos s i c') sg (actOnCount i s)

/-- The angle in the middle of the sector of a code (R232). -/
def hallMiddle (i : Ifc) (c : Nat) (s : State) : State :=
  { s with pos := s.pos.upd i (fun p => { p with angle := s.hallMid i c }), edge := s.edge.upd i (fun e => { e with lastCode := c, mid := true }) }

/-- HALL_EDGE: an accepted code change (R225) updates COUNT, angle and speed, or counts a skip or an impossible code (R231 to
R233); the actuator of instances 8 and 9 follows its COUNT (R363, R369, R370). -/
def execHallEdge (i : Ifc) (code : Nat) (heldCt tFt : Nat) (s : State) : Host.Outcome State Fault Refusal :=
  if i.val < 6 ∨ 10 ≤ i.val ∨ s.hasRec 0x40 i = false ∨ filtered s i heldCt = false then .next s
  else
    let c := (s.edge.get i).lastCode
    let s := { s with pos := s.pos.upd i (fun p => { p with code := code % 8 }) }
    if code % 8 = 0 ∨ code % 8 = 7 then
      let s := addError i tFt (raise 0x2009 i.val 0 s)
      .next (if overErr s i then posLose i 0x200A s else s)
    else if c = 0 then .next (posOk i (hallMiddle i (code % 8) s))
    else if c = code % 8 then .next s
    else
      let k := hallSteps s i c (code % 8)
      if k = 1 ∨ k = 5 then
        let s := hallAdjacent i c (code % 8) (decide (k = 1)) tFt { s with edge := s.edge.upd i (fun e => { e with lastCode := code % 8 }) }
        let s := if s.pu 0x40 i 60 ≠ 0 ∧ i.val < 8 then indexMissing i (6 * s.pu 0x40 i 0) s else s
        .next (if belowErr s i tFt then posOk i s else s)
      else
        let s := addError i tFt (restartTiming i (hallMiddle i (code % 8) s))
        .next (if overErr s i then posLose i 0x200A s else s)

/-- INDEX_RISING_EDGE: an accepted level of an index input (R225). Its rising edge latches COUNT: a traction Hall set with a tolerance
checks its reference, an actuator Hall set serves as end stop (R234, R367). -/
def execIndexRisingEdge (i : Ifc) (level : Bool) (heldCt : Nat) (s : State) : Host.Outcome State Fault Refusal :=
  if i.val < 6 ∨ 10 ≤ i.val ∨ s.hasRec 0x40 i = false ∨ filtered s i heldCt = false then .next s
  else
    let was := (s.pos.get i).idxLvl
    let s := { s with pos := s.pos.upd i (fun p => { p with idxLvl := level }) }
    if level = false ∨ was = true then .next s
    else if i.val < 8 then
      if s.pu 0x40 i 60 = 0 then .next s else .next (indexGood i (indexEvent i (6 * s.pu 0x40 i 0) s))
    else
      let s := { s with pos := s.pos.upd i (fun p => { p with idx := p.count, idxNum := wrapInc 16 p.idxNum, idxSeen := true }) }
      .next (actOnIndex i s)

end Sys2Proof.Machine
end

