-- ==== Sys2Proof/Machine/SafetyIn.lean ====
section
/-! DEFINITION. The safety inputs in both views, Callisto's cycle, its watch and the external permit lines (15_safety.md, R27, R28). -/

namespace Sys2Proof.Machine

/-! ## Custodian's filter, disagreements and the start-up test (R385 to R390) -/

/-- T_DISC of an input in coarse ticks. -/
def discTicks (s : State) (n : SiN) : Nat := s.cu n 8 * 40000

/-- The level is held for a time at which the filter may accept it or not: from 0.8 × FILT to FILT, and only on a channel that has an
accepted level, for a provisional demand lasts until a level has held for FILT (R385, R389). -/
def filterOpen (s : State) (n : SiN) (accepted : Bool) (heldUs : Q) : Bool :=
  accepted && decide (4 / 5 * (s.cu n 4 : Q) ≤ heldUs) && decide (heldUs < (s.cu n 4 : Q))

/-- The filter accepts a level held so long: from FILT always, below 0.8 × FILT never, between them as it happens (R385). -/
def filterAccepts (s : State) (n : SiN) (accepted : Bool) (heldUs : Q) : Bool :=
  decide ((s.cu n 4 : Q) ≤ heldUs) || (filterOpen s n accepted heldUs && Config.siShortAccepted s.freeIx)

/-- A level accepted on one channel. -/
def SiSt.accept (ch : Side) (demand : Bool) (x : SiSt) : SiSt :=
  match ch with
  | .a => { x with a := { accepted := true, demand := demand } }
  | .b => { x with b := { accepted := true, demand := demand } }

/-- Both channels have an accepted level and they differ. -/
def SiSt.differ (x : SiSt) : Bool := x.a.accepted && x.b.accepted && (x.a.demand != x.b.demand)

/-- An accepted channel demands, or the latch is set (R386, R387). -/
def SiSt.demanding (x : SiSt) : Bool := (x.a.accepted && x.a.demand) || (x.b.accepted && x.b.demand) || x.disc

/-- Both channels are accepted in demand. -/
def SiSt.bothDemand (x : SiSt) : Bool := x.a.accepted && x.a.demand && x.b.accepted && x.b.demand

/-- Both channels are accepted as released. -/
def SiSt.bothFree (x : SiSt) : Bool := x.a.accepted && !x.a.demand && x.b.accepted && !x.b.demand

/-- The disagreement that an accepted edge opens or closes, and MAX_DISC of one that was tolerated (R387). -/
def SiSt.disagree (at_ tDisc : Nat) (x : SiSt) : SiSt :=
  if x.differ then (if x.openAt.isSome then x else { x with openAt := some at_ })
  else
    match x.openAt with
    | none => x
    | some t0 => { x with openAt := none, maxDisc := if at_ - t0 ≤ tDisc then max x.maxDisc ((at_ - t0) / 4000) else x.maxDisc }

/-- The sequence of R388: both in demand, then both released no more than T_DISC apart. The answer says that it completed. -/
def SiSt.sequence (at_ tDisc : Nat) (x : SiSt) : Bool × SiSt :=
  if x.bothDemand then (false, { x with both := true, firstRel := none })
  else if x.bothFree then
    (x.both && (match x.firstRel with
      | some t => decide (at_ - t ≤ tDisc)
      | none => false), { x with both := false, firstRel := none })
  else if x.both && x.firstRel.isNone then (false, { x with firstRel := some at_ })
  else (false, x)

/-- A completed sequence clears the latch and passes the test (R388, R390). -/
def SiSt.cleared (x : SiSt) : SiSt := { x with disc := false, testDone := true }

/-- The input changed by a function. -/
def updSi (n : SiN) (f : SiSt → SiSt) (s : State) : State := { s with saf := { s.saf with si := s.saf.si.upd n f } }

/-- An input's entry into demand, counted and with the fault of its class, or its leaving (R386, R389). -/
def siEntry (n : SiN) (s : State) : State :=
  let x := s.saf.si.get n
  if x.demanding = true ∧ x.inDemand = false then
    let s := updSi n (fun x => { x with inDemand := true, demands := wrapInc 8 x.demands }) s
    if s.pu 0x80 n 28 = 0xFF then s else raise (0x5810 + n.val) n.val 0 s
  else if x.demanding = false ∧ x.inDemand = true then updSi n (fun x => { x with inDemand := false }) s
  else s

/-- The latch of an input: counted, 0x5801 (R387). -/
def siLatch (n : SiN) (s : State) : State :=
  if (s.saf.si.get n).disc then s
  else siEntry n (raise 0x5801 n.val 0 (updSi n (fun x => { x with disc := true, discs := satInc 8 x.discs }) s))

/-- An accepted edge: the disagreement, the sequence, the demand. -/
def siEdge (n : SiN) (ch : Side) (demand : Bool) (at_ : Nat) (s : State) : State :=
  let x0 := s.saf.si.get n
  let td := discTicks s n
  -- an edge stamped after T_DISC comes after the latch
  let late := match x0.openAt with
    | some t0 => decide (td < at_ - t0)
    | none => false
  let s := if late then siLatch n s else s
  let x := ((s.saf.si.get n).accept ch demand).disagree at_ td
  let r := x.sequence at_ td
  let s := updSi n (fun _ => if r.1 then r.2.cleared else r.2) s
  let s := if r.1 then clearF 0x5801 n.val s else s
  siEntry n (if n = 3 then parkConfirm s else s)

/-- SAFETY_INPUT_EDGE: Custodian's filter judges a level held on one channel, since the end of step 8 at the longest (R389); an accepted change is stamped with
a coarse tick. -/
def execSafetyInputEdge (n : SiN) (ch : Side) (demand : Bool) (heldUs : Q) (at_ : Nat) (s : State) : Host.Outcome State Fault Refusal :=
  let l := match ch with
    | .a => (s.saf.si.get n).a
    | .b => (s.saf.si.get n).b
  if s.saf.evaluating = false ∨ s.cuUsed n = false ∨ (l.accepted = true ∧ l.demand = demand) then .next s
  else
    let ok := filterAccepts s n l.accepted heldUs
    let s := if filterOpen s n l.accepted heldUs then { s with freeIx := s.freeIx + 1 } else s
    .next (if ok then siEdge n ch demand at_ s else s)

/-- DISCREPANCY_LATCH: the coarse tick at which the length of the open disagreement exceeds T_DISC (R387). -/
def execDiscrepancyLatch (n : SiN) (at_ : Nat) (s : State) : Host.Outcome State Fault Refusal :=
  match (s.saf.si.get n).openAt with
  | none => .next s
  | some t0 => if s.saf.evaluating = true ∧ s.cuUsed n = true ∧ discTicks s n < at_ - t0 then .next (siLatch n s) else .next s

/-- INPUT_VIEW_MISMATCH: the two filtered levels of a channel have differed for more than FILT + 500 µs: 0x5803 (R380). -/
def execInputViewMismatch (n : SiN) (ch : Side) (heldUs : Nat) (s : State) : Host.Outcome State Fault Refusal :=
  let x := s.saf.si.get n
  let differs := match ch with
    | .a => x.a.accepted && decide (x.callA ≠ x.a.demand)
    | .b => x.b.accepted && decide (x.callB ≠ x.b.demand)
  if s.saf.evaluating = true ∧ s.siUsed n = true ∧ differs = true ∧ s.pu 0x80 n 4 + 500 < heldUs then .next (raise 0x5803 n.val 0 s) else .next s

/-! ## Callisto's cycle and its watch (R27, R28) -/

/-- Callisto runs: its pair runs from an accepted crystal. -/
def callistoRuns (s : State) : Bool := decide ((s.lks.pairs.get .callisto).st = 1) && s.xtalOk

/-- One sample of Callisto's firmware filter: the level and the run of samples that differ from it; `need` of them in a row change it
(R380). -/
def callSample (need : Nat) (x : Bool × Nat) (v : Bool) : Bool × Nat :=
  if v = x.1 then (x.1, 0) else if need ≤ x.2 + 1 then (v, 0) else (x.1, x.2 + 1)

/-- The samples of a channel since the last cycle, one every 10 µs, in Callisto's filter: FILT rounded up to whole samples (R380). -/
def callLevel (s : State) (l : SiN × Side × List Bool) : State :=
  let need := (s.pu 0x80 l.1 4 + 9) / 10
  if s.siUsed l.1 then
    updSi l.1 (fun x => match l.2.1 with
      | .a =>
        let r := l.2.2.foldl (callSample need) (x.callA, x.runA)
        { x with callA := r.1, runA := r.2 }
      | .b =>
        let r := l.2.2.foldl (callSample need) (x.callB, x.runB)
        { x with callB := r.1, runB := r.2 }) s
  else s

/-- CALLISTO_CYCLE: a cycle in time: the samples pass Callisto's filter, from which its permits follow, and the cycle-complete mark is
delivered. -/
def execCallistoCycle (samples : List (SiN × Side × List Bool)) (s : State) : Host.Outcome State Fault Refusal :=
  if callistoRuns s then
    let s := if s.saf.evaluating then samples.foldl callLevel s else s
    .next { s with saf := { s.saf with cycles := wrapInc 16 s.saf.cycles, lastOverrun := false } }
  else .next s

/-- CALLISTO_OVERRUN: one overrun leaves the permits as they are, 0x5807; the second in a row removes the global permit, 0x5808. -/
def execCallistoOverrun (s : State) : Host.Outcome State Fault Refusal :=
  if callistoRuns s then
    let again := s.saf.lastOverrun
    let s := { s with saf := { s.saf with overruns := satInc 16 s.saf.overruns, lastOverrun := true } }
    .next (raise (if again then 0x5808 else 0x5807) noInst 0 s)
  else .next s

/-- CALLISTO_WATCH_EXPIRY: no mark for 300 µs, once Callisto has been started: Custodian's global permit is removed and latched, 0x5809 (R28). -/
def execCallistoWatchExpiry (sinceUs : Nat) (s : State) : Host.Outcome State Fault Refusal :=
  if (s.lks.pairs.get .callisto).st ≠ 0 ∧ 300 ≤ sinceUs ∧ s.saf.watchLatch = false then
    .next (raise 0x5809 noInst 0 { s with saf := { s.saf with watchLatch := true } })
  else .next s

/-- SAFE_STATE_REQUEST: Callisto asserts its request; both global permits are removed with it (R394). -/
def execSafeStateRequest (s : State) : Host.Outcome State Fault Refusal :=
  if callistoRuns s then .next { s with saf := { s.saf with safeReq := true } } else .next s

/-! ## SO lines and Custodian's configuration (R392, R397) -/

/-- SO_READBACK_MISMATCH: the level read back of a line in use has differed from the driven one for more than 10 µs: 0x5804.
Callisto reads SO_A back and Custodian SO_B, each by its own SO_EN. -/
def execSoReadbackMismatch (line : Side) (level : Bool) (heldUs : Nat) (s : State) : Host.Outcome State Fault Refusal :=
  let b := decide (line = .b)
  let bad := soDriven s b != level
  if (if b then s.cuSafety 4 else s.pu 0x81 0 4).testBit (b2n b) = false then .next s
  else
    let s := { s with saf := if b then { s.saf with soDiffB := bad } else { s.saf with soDiffA := bad } }
    .next (if bad = true ∧ 10 < heldUs then raise 0x5804 (b2n b) 0 s else s)

/-- One bit of Custodian's registers has flipped. -/
def Custodian.upset (c : Custodian) (u : CustReg × Nat) : Custodian :=
  match u.1 with
  | .input n => { c with si := c.si.upd n (flipBit u.2) }
  | .safety => { c with safety := flipBit u.2 c.safety }
  | .torque => { c with ov := flipBit u.2 c.ov }

/-- CUSTODIAN_CONFIG_CHECK: the upsets that Custodian's registers have suffered since the last check stand in them; registers that then
differ from the parameter store raise 0x5806 (R397). -/
def execCustodianConfigCheck (upsets : List (CustReg × Nat)) (s : State) : Host.Outcome State Fault Refusal :=
  if s.cat.locked = true then
    let s := { s with saf := { s.saf with cust := upsets.foldl Custodian.upset s.saf.cust } }
    .next (if callistoRuns s && s.custDiffers then raise 0x5806 noInst 0 s else s)
  else .next s

end Sys2Proof.Machine
end

