-- ==== Sys2Proof/Machine/Thermal.lean ====
section
/-! DEFINITION. The Conservator and the housekeeping round (13_thermal.md). -/

namespace Sys2Proof.Machine

/-! ## Readings (R349, R350) -/

/-- The temperature of a TSN resistance; none for one that is no resistance (R350). -/
def tsnTemp (s : State) (ohms : Q) : Option Q :=
  if ohms ≤ 0 then none
  else some (divQ 1 (1 / (29815 / 100) + divQ (lnQ (divQ ohms (s.pf 0x71 0 0))) (s.pf 0x71 0 4)) - 27315 / 100)

/-- A reading is valid between −50 °C and 200 °C (R350). -/
def inRange (t : Q) : Bool := decide (-50 ≤ t) && decide (t ≤ 200)

/-- The housekeeping slot of an anchor: a TSN slot, or the slot of an AIN input. -/
def ancSlot (src : Nat) : Fin 96 := ⟨(if src < 0x100 then src % 29 else 29 + src % 16) % 96, Nat.mod_lt _ (by decide)⟩

/-- The modelled switches: present with a record. -/
def modelled (s : State) : List Chan := allChans.filter (fun c => s.chPresent c && s.hasRec 0x70 c)

/-- The switches of an anchor group. -/
def ancGroup (s : State) (src : Nat) : List Chan := (modelled s).filter (fun c => decide (ancSrc s c = src))

/-- The anchor groups in use. -/
def ancSrcs (s : State) : List Nat := ((modelled s).map (fun c => ancSrc s c)).dedup

/-- A slot was taken in this round and the reference checks passed. -/
def fresh (s : State) (n : Fin 96) (taken : List HkReading) : Bool := taken.any (fun r => decide (r.slot = n)) && !(s.thm.slots.get n).stale

/-- The reading of a switch's anchor, when it is valid: the TSN, or the AIN input by the switch's own ANC_GAIN and ANC_OFS (R350, R356). -/
def ancReading (s : State) (c : Chan) : Option Q :=
  let a := (s.thm.slots.get (ancSlot (ancSrc s c))).a
  let t := if ancSrc s c < 0x100 then tsnTemp s a else some (s.pf 0x70 c 4 * a + s.pf 0x70 c 8)
  t.bind (fun t => if inRange t then some t else none)

/-! ## One round (R349 to R351) -/

/-- What a round takes: an AIN input in sense mode has left it, and its slot reports the converter's reading (R296, R349). -/
def withSense (s : State) (read : List HkReading) : List HkReading :=
  slotAll.filterMap (fun n => (s.senseReading n).map (fun v => ({ slot := n, a := v, b := 0 } : HkReading)))
    ++ read.filter (fun r => (s.senseReading r.slot).isNone)

/-- The values a round takes; unless its reference checks failed they end their slots' runs of stale rounds. -/
def takeSlots (failed : Bool) (taken : List HkReading) (s : State) : State :=
  { s with thm := { s.thm with counted := failed, slots := taken.foldl (fun t r => t.put r.slot { a := r.a, b := r.b, stale := false, run := if failed then (t.get r.slot).run else 0 }) s.thm.slots } }

/-- Mark slots stale, count the round, and raise 0x4808 for every slot stale in three rounds in a row (R27, R351). -/
def markStale (ns : List (Fin 96)) (s : State) : State :=
  if ns = [] then s
  else
    let s := { s with thm := { s.thm with missed := satInc 8 s.thm.missed, slots := s.thm.slots.updAll ns (fun _ x => { x with stale := true, run := satInc 8 x.run }) } }
    (ns.filter (fun n => decide (3 ≤ (s.thm.slots.get n).run))).foldl (fun s n => raise 0x4808 n.val 0 s) s

/-- The reference slots of this round that differ from their nominal values by more than 2 % (R350). -/
def refBad (taken : List HkReading) : List (Fin 96) :=
  (taken.filter (fun r => decide (91 ≤ r.slot.val) && decide (1 / 50 * absQ (Config.refNominal r.slot.val) < absQ (r.a - Config.refNominal r.slot.val)))).map (·.slot)

/-- The bridge supplies, from the AIN inputs their records name (R364). -/
def takeSupply (taken : List HkReading) (a : Act) (s : State) : State :=
  let n : Fin 96 := ⟨(29 + s.pu 0x78 a.num 4 % 16) % 96, Nat.mod_lt _ (by decide)⟩
  if s.hasRec 0x78 a.num = true ∧ fresh s n taken = true then
    { s with act := s.act.upd a (fun x => { x with vs := s.pf 0x78 a.num 8 * (s.thm.slots.get n).a }) }
  else s

/-! ## The Conservator step (R354 to R358) -/

/-- e^(−1 ms / TAU). -/
def decay (tau : Q) : Q := expQ (-(divQ (1 / 1000) tau))

/-- The accumulator of a switch is read and cleared at the start of a step, so that what the step's own reactions switch counts
for the next one (R354). -/
def readEnergy (s : State) (c : Chan) : State :=
  { s.updCh c (fun x => { x with acc := 0 }) with thm := { s.thm with sw := s.thm.sw.upd c (fun x => { x with e := (s.gd.ch.get c).acc }) } }

/-- The power of a switch over the last step, from the energy read at the start of the step (R354). -/
def swPower (s : State) (c : Chan) : Q := (s.thm.sw.get c).e * 1000

/-- The anchor of one switch: dn follows the losses of the group that names the anchor; a valid reading moves T_a, and without one T_a is held
10 K up. A stale round brings no reading, so it is no invalid one (R356). -/
def nextAnchor (taken : List HkReading) (s : State) (c : Chan) : Anchor :=
  let an := decay (s.pf 0x70 c 16)
  let pg := ((ancGroup s (ancSrc s c)).map (swPower s)).foldl (· + ·) 0
  let x := s.thm.anchors.get c
  let dn := x.dn * an + s.pf 0x70 c 12 * (1 - an) * pg
  let hold (bad : Nat) : Anchor := { ta := if x.held then x.ta else x.ta.map (· + 10), dn := dn, bad := bad, held := true }
  if fresh s (ancSlot (ancSrc s c)) taken then
    match ancReading s c with
    | some t =>
      let ta := match x.ta with
        | none => t
        | some ta => ta + clampQ (-(s.pf 0x71 0 16)) (s.pf 0x71 0 16) (s.pf 0x71 0 12 * (1 / 1000) * (t - (ta + dn)))
      { ta := some ta, dn := dn, bad := 0, held := false }
    | none => hold (x.bad + 1)
  else hold 0

/-- Every switch's anchor steps. -/
def stepAnchors (taken : List HkReading) (s : State) : State :=
  { s with thm := { s.thm with anchors := s.thm.anchors.updAll (modelled s) (fun c _ => nextAnchor taken s c) } }

/-- An anchor whose readings have been invalid for three rounds in a row: 0x4804, as long as they are (R356). -/
def anchorFault (s : State) (src : Nat) : State :=
  if (ancGroup s src).any (fun c => decide (3 ≤ (s.thm.anchors.get c).bad)) then raise 0x4804 (ancSlot src).val 0 s else s

/-- f_k (R357). -/
def throttle (s : State) (c : Chan) (tj : Q) : Q := clampQ 0 1 (divQ (s.pf 0x70 c 60 - tj) (s.pf 0x70 c 60 - s.pf 0x70 c 56))

/-- The runs of one flag at a threshold: the run at or above it, and the run 5 K below it (R358). -/
def runs (tj thr : Q) (hi lo : Nat) : Nat × Nat := (if thr ≤ tj then satInc 8 hi else 0, if tj < thr - 5 then satInc 8 lo else 0)

/-- A flag after a step: set by the tenth step of the upper run, cleared by the tenth of the lower one. -/
def flagNext (old : Bool) (r : Nat × Nat) : Bool := if 10 ≤ r.1 then true else if 10 ≤ r.2 then false else old

/-- A flag's fault follows the flag. -/
def flagFault (code : Nat) (c : Chan) (old new : Bool) (s : State) : State :=
  if new = true ∧ old = false then raise code c.val 0 s else if new = false ∧ old = true then clearF code c.val s else s

/-- One switch: power, Foster network, estimate, factor and flags (R354, R355, R357, R358). The anchor that has not had a valid
reading gives a free T_a (log entry 36). -/
def stepSwitch (s : State) (c : Chan) : State :=
  let x := s.thm.sw.get c
  let p := swPower s c
  let next (d : Q) (k : Nat) : Q :=
    let a := decay (s.pf 0x70 c (36 + 4 * k))
    d * a + s.pf 0x70 c (20 + 4 * k) * (1 - a) * p
  let ta := ((s.thm.anchors.get c).ta).getD (Config.freeQ s.freeIx)
  let d1 := next x.d1 0
  let d2 := next x.d2 1
  let d3 := next x.d3 2
  let d4 := next x.d4 3
  let tj := ta + d1 + d2 + d3 + d4
  let w := runs tj (s.pf 0x70 c 52) x.hiW x.loW
  let t := runs tj (s.pf 0x70 c 56) x.hiT x.loT
  let k := runs tj (s.pf 0x70 c 60) x.hiC x.loC
  let y : SwTh := { e := x.e, d1 := d1, d2 := d2, d3 := d3, d4 := d4, tj := tj, p := p, f := throttle s c tj, warn := flagNext x.warn w, throt := flagNext x.throt t, cut := flagNext x.cut k, hiW := w.1, loW := w.2, hiT := t.1, loT := t.2, hiC := k.1, loC := k.2 }
  let s := { s with thm := { s.thm with sw := s.thm.sw.put c y }, freeIx := s.freeIx + 1 }
  flagFault 0x4803 c x.cut y.cut (flagFault 0x4802 c x.throt y.throt (flagFault 0x4801 c x.warn y.warn s))

/-- The switches of a consumer and its I_max (R357). -/
def consumer (s : State) (k : Fin 8) : List Chan × Q :=
  match k.val with
  | 0 => (chanRange 0 6, s.pf 0x30 0 44)
  | 1 => (chanRange 6 6, s.pf 0x30 1 44)
  | 2 => (chanRange 12 1, 1)
  | 3 => (chanRange 13 6, s.pf 0x50 0 40)
  | 4 => (chanRange 19 8, s.pf 0x50 1 4)
  | 5 => (chanRange 27 16, s.pf 0x58 1 36)
  | 6 => (chanRange 43 6, s.pf 0x78 0 20)
  | _ => (chanRange 49 6, s.pf 0x78 1 20)

/-- I_max × the smallest factor of a consumer's modelled switches; none where it has none. -/
def newLimit (s : State) (k : Fin 8) : Option Q :=
  let c := consumer s k
  let cs := c.1.filter (fun x => s.chPresent x && s.hasRec 0x70 x)
  if cs = [] then none else some (c.2 * minOfQ 1 (cs.map (fun x => (s.thm.sw.get x).f)))

/-- The limit that is published: while 0x4808 is active no more than the last complete round's (R27, R351). -/
def heldLimit (s : State) (k : Fin 8) (x : Option Q) : Option Q :=
  if activeCode 0x4808 s then
    match x, s.thm.lastFull.get k with
    | some a, some b => some (minQ a b)
    | a, _ => a
  else x

/-- The limits after a step. -/
def publish (complete : Bool) (s : State) : State :=
  let ks : List (Fin 8) := List.finRange 8
  let s := { s with thm := { s.thm with limits := s.thm.limits.updAll ks (fun k _ => heldLimit s k (newLimit s k)) } }
  if complete then { s with thm := { s.thm with lastFull := s.thm.limits } } else s

/-! ## Measured temperatures (R359) -/

/-- The runs of a guarded temperature: above its level, and 5 K below it. An invalid reading breaks both. -/
def guardRuns (t : Option Q) (lvl : Q) (hi lo : Nat) : Nat × Nat :=
  match t with
  | none => (0, 0)
  | some t => (if lvl < t then satInc 8 hi else 0, if t ≤ lvl - 5 then satInc 8 lo else 0)

/-- The fault of a guarded temperature: raised at the third round above, cleared at the tenth below. -/
def guardFault (code inst : Nat) (r : Nat × Nat) (s : State) : State :=
  if r.1 = 3 then raise code inst 0 s else if r.2 = 10 then clearF code inst s else s

/-- A secondary's die and TSN temperatures. -/
def guardSecondary (s : State) (k : Fin 29) : State :=
  if s.chPresent (chanAt k.val) = false then s
  else
    let x := s.thm.slots.get ⟨k.val % 96, Nat.mod_lt _ (by decide)⟩
    let d := guardRuns (some x.b) 150 (s.thm.dieHi.get k) (s.thm.dieLo.get k)
    let t := guardRuns ((tsnTemp s x.a).bind (fun t => if inRange t then some t else none)) (s.pf 0x71 0 8) (s.thm.tsnHi.get k) (s.thm.tsnLo.get k)
    let s := { s with thm := { s.thm with dieHi := s.thm.dieHi.put k d.1, dieLo := s.thm.dieLo.put k d.2, tsnHi := s.thm.tsnHi.put k t.1, tsnLo := s.thm.tsnLo.put k t.2 } }
    guardFault 0x4805 k.val t (guardFault 0x4807 k.val d s)

/-- A die sensor of the primary. -/
def guardPrimary (s : State) (k : Fin 8) : State :=
  let n : Fin 96 := ⟨(68 + k.val) % 96, Nat.mod_lt _ (by decide)⟩
  let r := guardRuns (some (s.thm.slots.get n).a) 150 (s.thm.priHi.get k) (s.thm.priLo.get k)
  guardFault 0x4806 n.val r { s with thm := { s.thm with priHi := s.thm.priHi.put k r.1, priLo := s.thm.priLo.put k r.2 } }

/-! ## The commands -/

/-- The Conservator's step of a round: the accumulators, anchors, switches, limits, guarded temperatures. -/
def conservator (taken : List HkReading) (complete : Bool) (s : State) : State :=
  let s := (modelled s).foldl readEnergy s
  let s := stepAnchors taken s
  let s := (ancSrcs s).foldl anchorFault s
  let s := (modelled s).foldl stepSwitch s
  let s := publish complete s
  let s := { s with thm := { s.thm with rounds := wrapInc 16 s.thm.rounds } }
  (List.finRange 8).foldl guardPrimary ((List.finRange 29).foldl guardSecondary s)

/-- HOUSEKEEPING_ROUND: the slots are taken; a failed reference check marks all of them stale; the Conservator steps, with the records of a loaded
Catalogue, before which it has no switch and only the primary's own temperature is guarded (R349 to R359). -/
def execHousekeepingRound (read : List HkReading) (s : State) : Host.Outcome State Fault Refusal :=
  if s.xtalOk = false then .next s
  else
    let taken := withSense s read
    let bad := refBad taken
    let s := takeSlots (decide (bad ≠ [])) taken s
    let s := if bad = [] then s else markStale slotAll (bad.foldl (fun s n => raise 0x4809 n.val 0 s) s)
    if s.cat.locked = false then .next ((List.finRange 8).foldl guardPrimary s)
    else
      let s := takeSupply taken .shift (takeSupply taken .park s)
      .next (conservator taken (decide (slotAll.all (fun n => fresh s n taken))) s)

/-- HOUSEKEEPING_STALE: slots that the next round's start finds not taken keep their values and are marked stale; after a round that has failed
its reference check all of them are (R27, R350, R351). -/
def execHousekeepingStale (slots : List (Fin 96)) (s : State) : Host.Outcome State Fault Refusal :=
  if s.xtalOk = false ∨ s.thm.counted = true then .next s else .next (markStale (slots.dedup.filter (fun n => (s.senseReading n).isNone)) s)

end Sys2Proof.Machine
end

