-- ==== Sys2Proof/Machine/Torque.lean ====
section
/-! DEFINITION. Torque management and traction safe states (07_torque_management.md). -/

namespace Sys2Proof.Machine

/-! ## DC-link samples (R22, R196, R199) -/

/-- DC_LINK_SAMPLE: a sense die's latest DC-link sample; a valid trigger ends staleness (R22, R196).
V_dc,max above V_OUT_MAX stops a running charger with 0x3009 (R287). -/
def execDcLinkSample (d : Die) (volts : Q) (s : State) : Host.Outcome State Fault Refusal :=
  match d with
  | .one => .next (chargerOutMax { s with dc := { s.dc with dclT := volts, stale1 := false } })
  | .two => .next (chargerOutMax { s with dc := { s.dc with dclC := volts, stale2 := false } })

/-- SENSE_DIE_TRIGGER_LOSS: no valid trigger for 2 µs marks the die's samples stale (R22). -/
def execSenseDieTriggerLoss (d : Die) (ns : Nat) (s : State) : Host.Outcome State Fault Refusal :=
  if 2000 ≤ ns then
    match d with
    | .one => .next { s with dc := { s.dc with stale1 := true } }
    | .two => .next { s with dc := { s.dc with stale2 := true } }
  else .next s

/-- DC_LINK_DISAGREE: a difference above V_DISAGREE for 1 ms raises 0x1811, which stays until the next reset (R196). -/
def execDcLinkDisagree (heldUs : Nat) (s : State) : Host.Outcome State Fault Refusal :=
  if s.hasRec 0x38 0 = true ∧ 1000 ≤ heldUs ∧ s.pf 0x38 0 120 < absQ (s.dc.dclT - s.dc.dclC) then
    .next (raise 0x1811 noInst 0 s)
  else .next s

/-- DC_OVERVOLTAGE_ASC: a path above Custodian's V_OV_ASC forces ASC on every present set without a window; 0x1813 (R199). -/
def execDcOvervoltageAsc (d : Die) (volts : Q) (s : State) : Host.Outcome State Fault Refusal :=
  if s.saf.cust.ov ≠ [] ∧ s.cuOv 0 < volts then
    let s := match d with
      | .one => { s with dc := { s.dc with dclT := volts } }
      | .two => { s with dc := { s.dc with dclC := volts } }
    let s := { s with saf := { s.saf with ovHold := true } }
    let s := forceAsc .b (forceAsc .a s)
    .next (raiseBy 11 0x1813 noInst 0 s)
  else .next s

/-- OV_ASC_RELEASE: neither path above V_OV_ASC − V_OV_HYS ends the forced hold (R199). -/
def execOvAscRelease (voltsT voltsC : Q) (s : State) : Host.Outcome State Fault Refusal :=
  let lvl := s.cuOv 0 - s.cuOv 4
  if s.saf.ovHold = true ∧ voltsT ≤ lvl ∧ voltsC ≤ lvl then
    .next { s with saf := { s.saf with ovHold := false }, dc := { s.dc with dclT := voltsT, dclC := voltsC } }
  else .next s

/-! ## Safe states (R200 to R206) -/

/-- SAFE_STATE_ENTRY: a present set goes to freewheel and its selection window opens (R200, R201). -/
def execSafeStateEntry (t : TSet) (s : State) : Host.Outcome State Fault Refusal := .next (enterSafe t s)

/-- E_ll of one sample of the three phase-voltage senses: √3 × √(v_α² + v_β²). -/
def eLl (p : Q × Q × Q) : Q :=
  let a := 2 * p.1 - p.2.1 - p.2.2
  let b := p.2.1 - p.2.2
  sqrtQ (a * a / 3 + b * b)

/-- R205: Custodian's choice contradicts what Callisto expects from E_est = √3 × PSI_PM × |ω_e|, compared by squares.
An invalid position gives no expectation. -/
def choiceDisagrees (s : State) (t : TSet) (asc : Bool) : Bool :=
  let e2 := s.eEst2 t
  let v := s.vMax
  s.posValid (s.setIfc t) && ((decide (v * v ≤ e2) && !asc) || (decide (e2 ≤ 16 / 25 * v * v) && asc))

/-- SAFE_STATE_CHOICE: once the window has lasted T_SEL, ASC when the mean E_ll of the last 5 µs is at least 0.9 × V_dc,max or R199 holds ASC, else
freewheel; the side by R203; Callisto's check by R205; a trial that ends in ASC counts (R201 to R205). -/
def execSafeStateChoice (t : TSet) (sinceUs : Q) (samples : List (Q × Q × Q)) (s : State) : Host.Outcome State Fault Refusal :=
  let x := s.ss.get t
  if x.window = false ∨ sinceUs < s.cuOv 8 * 1000000 then .next s
  else
    let e := meanQ (samples.map eLl)
    let asc := s.saf.ovHold || decide (9 / 10 * s.vMax ≤ e)
    let bad := choiceDisagrees s t asc
    let s := { s with ss := s.ss.put t { x with window := false, trial := false, ell := e, st := 1 }, ssDisagree := bad,
                      ssTrials := if x.trial && asc then satInc 16 s.ssTrials else s.ssTrials }
    let s := if asc then goAsc t s else s
    .next (if bad then raise 0x1815 t.num 0 s else s)

/-- ASC_SIDE_FAULT: a channel of the side in use has latched a flag: the other side is used if it carries none and the
low sides were in use, else the set freewheels with 0x1816 (R203). -/
def execAscSideFault (t : TSet) (c : Chan) (s : State) : Host.Outcome State Fault Refusal :=
  let x := s.ss.get t
  let low := decide (x.st = 2) && (t.lows).contains c
  let high := decide (x.st = 3) && (t.highs).contains c
  if (low || high) && (s.gd.ch.get c).latched then
    if low && !s.sideFlagged (t.highs) then .next (driveAsc t 3 s)
    else .next (raiseBy 11 0x1816 t.num 0 (driveFreewheel t s))
  else .next s

/-- ASC_TRIAL_REQUEST: with E_est below 0.8 × V_dc,max for 10 ms, or an invalid position for 100 ms, and no hold of
R199, the window of R201 runs as a trial (R204). -/
def execAscTrialRequest (t : TSet) (elapsedMs : Nat) (s : State) : Host.Outcome State Fault Refusal :=
  let x := s.ss.get t
  let v := s.posValid (s.setIfc t)
  let due := (v && decide (s.eEst2 t < 16 / 25 * s.vMax * s.vMax) && decide (10 ≤ elapsedMs)) || (!v && decide (100 ≤ elapsedMs))
  if 2 ≤ x.st ∧ x.window = false ∧ s.saf.ovHold = false ∧ due = true then
    let s := driveFreewheel t s
    .next { s with ss := s.ss.put t { x with st := 1, window := true, trial := true } }
  else .next s

/-! ## The Io torque task (R185 to R195) -/

/-- The split of R185 with ΔT clamped to ±DT_MAX. -/
def splitRequest (mode : Nat) (dtMax : Q) (r : Q × Q) : Q × Q :=
  let d := clampQ (-dtMax) dtMax r.2
  if mode = 1 then (r.1 / 2 + d / 2, r.1 / 2 - d / 2) else if mode = 2 then (r.1, r.1) else (r.1, 0)

/-- The park lock is confirmed released (R186). -/
def parkReleased (s : State) : Bool := s.si3Rel && !s.siDemand 3 && !(s.fn 7 && s.parkRunning)

/-- Step 1 of R186 on the request. -/
def gateRequest (s : State) (r : Q × Q) : Q × Q :=
  if !parkReleased s then (0, 0)
  else if s.shiftRunning then
    let l := s.pf 0x38 0 76
    (clampQ (-l) l r.1, clampQ (-l) l r.2)
  else r

/-- Step 3: the ramp of one set (R186, R192). -/
def rampStep (s : State) (lost : Bool) (p r : Q) : Q :=
  let rate :=
    if lost then s.pf 0x38 0 20
    else if absQ p < s.pf 0x38 0 12 then s.pf 0x38 0 16
    else if absQ p < absQ r ∧ 0 ≤ p * r then s.pf 0x38 0 4
    else s.pf 0x38 0 8
  stepToward (rate / 1000) p r

/-- The factor of the speed limit (R187). -/
def speedFactor (s : State) (w t : Q) : Q :=
  let wl := s.pf 0x38 0 40
  let wt := s.pf 0x38 0 44
  if wl < absQ w ∧ 0 < t * w then clampQ 0 1 (divQ (wl + wt - absQ w) wt) else 1

/-- The factor of the DC-link limit (R188). -/
def linkFactor (s : State) (w t : Q) : Q :=
  if t * w < 0 then clampQ 0 1 (divQ (s.pf 0x38 0 56 - s.vMax) (s.pf 0x38 0 56 - s.pf 0x38 0 52))
  else clampQ 0 1 (divQ (s.vMinTm - s.pf 0x38 0 64) (s.pf 0x38 0 60 - s.pf 0x38 0 64))

/-- A target reduced toward zero by an amount. -/
def towardZero (d t : Q) : Q := if absQ t ≤ d then 0 else t - d * sgnQ t

/-- The name of the step that reduced a set most, the later of equals; each entry is a code and an amount. The redistribution is named
where it changed the target and no step reduced it by more (R189, R191). -/
def nameLim (steps : List (Nat × Q)) (redist : Q) : Nat :=
  let b := steps.foldl (fun (b : Nat × Q) x => if 0 < x.2 ∧ b.2 ≤ x.2 then x else b) (0, 0)
  if redist ≠ 0 ∧ b.2 ≤ absQ redist then 6 else b.1

/-- The battery factor of one direction (R190). -/
def batteryFactor (lim total : Q) : Q := if lim < total then lim / total else 1

/-- What the task computes for both sets. -/
structure TorqueOut where
  tA : Q
  tB : Q
  limA : Nat
  limB : Nat
  deriving DecidableEq, Repr

/-- Steps 1 to 5 of R186 with the redistribution of R189 and the names of R191. -/
def torqueSteps (s : State) (switchA switchB : Bool) : TorqueOut :=
  let mode := s.pu 0x30 0 0
  let dual := decide (mode = 1)
  let lost := s.tm.lostMs.isSome
  let r0 := takenRequest s
  let r1 := gateRequest s r0
  let m := s.pf 0x38 0 0
  let r2 := (clampQ (-m) m r1.1, r1.2)
  let dm := s.pf 0x38 0 28
  let p0 := splitRequest mode (maxQ dm (absQ r0.2)) r0
  let p1 := splitRequest mode (maxQ dm (absQ r1.2)) r1
  let p2 := splitRequest mode dm r2
  let wA := s.omegaM .a
  let wB := if mode = 2 then wA else s.omegaM .b
  let a3 := if switchA then rampStep s lost s.tm.tA p2.1 else 0
  let b3 := if switchB then rampStep s lost s.tm.tB p2.2 else 0
  let a4 := a3 * speedFactor s wA a3
  let b4 := b3 * speedFactor s wB b3
  let a5 := a4 * linkFactor s wA a4
  let b5 := b4 * linkFactor s wB b4
  let lim (w t : Q) : Q := t * speedFactor s w t * linkFactor s w t
  let rA := a3 - a5
  let rB := b3 - b5
  let keep := decide (s.pu 0x38 0 24 = 0)
  let a6 := if switchA = false then 0 else if dual = true ∧ rB ≠ 0 then (if keep then lim wA (a3 + rB) else towardZero (absQ rB) a5) else a5
  let b6 := if switchB = false then 0 else if dual = true ∧ rA ≠ 0 then (if keep then lim wB (b3 + rA) else towardZero (absQ rA) b5) else b5
  let pl := s.tm.pLim.getD (s.pf 0x38 0 68, s.pf 0x38 0 72)
  let pA := a6 * wA
  let pB := if mode = 1 then b6 * wB else 0
  let kM := batteryFactor pl.1 (maxQ 0 pA + maxQ 0 pB)
  let kG := batteryFactor pl.2 (maxQ 0 (-pA) + maxQ 0 (-pB))
  let a7 := a6 * (if 0 < pA then kM else if pA < 0 then kG else 1)
  let b7 := if mode = 1 then b6 * (if 0 < pB then kM else if pB < 0 then kG else 1) else b6
  let fall (x y : Q) : Q := absQ x - absQ y
  let la := nameLim [(2, fall p0.1 p1.1), (1, fall p1.1 p2.1), (3, fall a3 a4), (4, fall a4 a5), (5, fall a6 a7)] (a6 - a5)
  let lb := nameLim [(2, fall p0.2 p1.2), (1, fall p1.2 p2.2), (3, fall b3 b4), (4, fall b4 b5), (5, fall b6 b7)] (b6 - b5)
  { tA := a7, tB := if mode = 2 then a7 else b7, limA := if lost then 7 else la, limB := if lost then 7 else if mode = 2 then la else lb }

/-- The largest even number of ft that does not exceed one fifteenth of the electrical period (R195). -/
def p15 (we : Q) : Option Nat :=
  if we = 0 then none
  else
    let x := 2 * piQ * 10240000000 / (15 * absQ we)
    some (floorN x / 2 * 2)

/-- The carrier request of one running traction group (R195). -/
def requestPeriod (t : TSet) (s : State) : State :=
  let g := t.grp
  let gr := s.pwm.get g
  let lo := s.pu 0x20 g 4
  let hi := s.pu 0x20 g 8
  let ini := s.pu 0x20 g 12
  if gr.running = true ∧ lo < hi ∧ s.pu 0x20 g 40 = 0 then
    let p := match p15 (s.omegaE t) with
      | none => ini
      | some x => min ini x
    let p := if p < lo then lo else if hi < p then hi else p
    { s with pwm := s.pwm.put g { gr with reqPeriod := if p = gr.period then none else some p } }
  else s

/-- The set stopped under R193 and has not entered its safe state since. -/
def State.idleStopped (s : State) (t : TSet) : Bool :=
  (match t with
    | .a => s.tm.idleA
    | .b => s.tm.idleB) && decide ((s.ss.get t).st = 0)

/-- The conditions under which a set starts in a task period: a request, and but for a set that stopped as idle no F3 of traction and a
VALID position (R193, R206); never while Custodian holds ASC (R199). -/
def startDue (s : State) (t : TSet) : Bool :=
  let want := decide (s.pf 0x38 0 80 ≤ absQ (takenRequest s).1) || (s.tm.reqValid && s.tm.hold)
  decide (s.sys.mode = .drive) && s.fn t.num && !(s.pwm.get t.grp).running && want && !s.saf.ovHold && s.setPermit t
    && (s.idleStopped t || (!s.tractionBlocked && s.posValid (s.setIfc t)))

/-- A set that does not switch is asked to start in a task period that meets the conditions; in any other period the request is
withdrawn (R193, R206). -/
def maybeStart (t : TSet) (s : State) : State :=
  let due := startDue s t
  match t with
  | .a => { s with tm := { s.tm with startA := due, idleA := s.tm.idleA && !due } }
  | .b => { s with tm := { s.tm with startB := due, idleB := s.tm.idleB && !due } }

/-- Overspeed of a running set (R187). -/
def checkOverspeed (t : TSet) (s : State) : State :=
  if s.fn t.num = true ∧ s.pf 0x38 0 48 < absQ (s.omegaM t) then raise 0x1812 noInst 0 s else s

/-- A service routine runs on the set. -/
def svcOn (s : State) (t : TSet) : Bool :=
  match s.tm.svc with
  | some x => decide (x.2 = t)
  | none => false

/-- Write a set's torque target to the Orrery unless a service routine holds a current target of this set (R172, R186). With a torque
target Io writes no current limit: no rule gives one (log entry 45). -/
def writeTorque (t : TSet) (x : Q) (s : State) : State :=
  if svcOn s t then s else { s with otgt := s.otgt.upd t (fun o => { o with current := false, torque := x, limit := none }) }

/-- The conditions of R194: DRIVE, standstill, the park lock confirmed on SI3 (R371), no request above T_IDLE. -/
def svcAllowed (s : State) : Bool :=
  decide (s.sys.mode = .drive) && s.standstill && s.si3Eng && decide (absQ (takenRequest s).1 ≤ s.pf 0x38 0 80)

/-- The end of a routine: the set returns to a torque target of 0 without a limit. -/
def endSvc (t : TSet) (s : State) : State :=
  { s with tm := { s.tm with svc := none }, otgt := s.otgt.put t { current := false, torque := 0, id := 0, iq := 0, limit := none } }

/-- A running routine whose conditions no longer hold aborts with 0x1817 (R194). -/
def abortSvc (s : State) : State :=
  match s.tm.svc with
  | some x => if svcAllowed s then s else raise 0x1817 noInst 0 (endSvc x.2 s)
  | none => s

/-- What the task does in every mode: overspeed (R187), the end of a service routine (R194), start requests (R206), the time since a
lost request (R192). -/
def torqueCommon (s : State) : State :=
  let s := maybeStart .b (maybeStart .a (checkOverspeed .b (checkOverspeed .a (abortSvc s))))
  { s with tm := { s.tm with lostMs := s.tm.lostMs.map (· + 1) } }

/-- Outside DRIVE both targets are 0 (R185); LIM still names a lost request (R191). -/
def torqueIdle (s : State) : State :=
  let lim := if s.tm.lostMs.isSome then 7 else 0
  writeTorque .b 0 (writeTorque .a 0 { s with tm := { s.tm with tA := 0, tB := 0, limA := lim, limB := lim } })

/-- The set switches: its group runs and its start trim is over. -/
def switches (s : State) (t : TSet) : Bool := (s.pwm.get t.grp).running && (s.orr.get t).trimLeft == 0

/-- In DRIVE the targets are formed and written, and carrier periods requested (R186 to R195). -/
def torqueDrive (s : State) : State :=
  let o := torqueSteps s (switches s .a) (if s.pu 0x30 0 0 = 2 then switches s .a else switches s .b)
  let s := { s with tm := { s.tm with tA := o.tA, tB := o.tB, limA := o.limA, limB := o.limB } }
  requestPeriod .b (requestPeriod .a (writeTorque .b o.tB (writeTorque .a o.tA s)))

/-- The whole torque part of one task period. -/
def torquePeriod (s : State) : State := if s.sys.mode ≠ .drive ∨ s.hasRec 0x38 0 = false then torqueIdle s else torqueDrive s

/-- IO_TORQUE_TASK: once per 1 ms Io gates, splits, ramps and limits the request and writes each set's target
(R185 to R192), requests carrier periods (R195), starts sets (R193, R206), ends a service routine whose conditions are gone (R194), checks
the speed in every mode (R187) and forms the pair roles (R475). -/
def execIoTorqueTask (s : State) : Host.Outcome State Fault Refusal :=
  if pairRunning s .io = false then .next s
  else .next (endPairPeriod (torquePeriod (torqueCommon (pairTask { s with tm := { s.tm with missRun := 0 } }))))

/-- TORQUE_LOSS_FAULT: after a timeout, once both targets are 0 or 500 ms have passed, 0x1810 is raised (R192). -/
def execTorqueLossFault (sinceMs : Nat) (s : State) : Host.Outcome State Fault Refusal :=
  if s.tm.lostMs.isSome = true ∧ ((s.tm.tA = 0 ∧ s.tm.tB = 0) ∨ 500 ≤ sinceMs) then
    .next (raise 0x1810 noInst 0 s)
  else .next s

/-- IO_TASK_DEADLINE_MISS: the previous targets stay; five consecutive misses are a class F3 fault of traction (R27), to which no table
gives a code (log entry 9). -/
def execIoTaskDeadlineMiss (s : State) : Host.Outcome State Fault Refusal :=
  let s := { s with tm := { s.tm with missRun := satInc 8 s.tm.missRun } }
  if 5 ≤ s.tm.missRun then .next (raise missCode noInst 0 s) else .next s

/-- IDLE_STOP: standstill, a request below T_IDLE and HOLD 0 for T_IDLE_TIME stop the set's switching (R193). -/
def execIdleStop (t : TSet) (heldMs : Nat) (s : State) : Host.Outcome State Fault Refusal :=
  if (s.pwm.get t.grp).running = true ∧ s.pf 0x38 0 84 * 1000 ≤ heldMs ∧ absQ (s.omegaM t) < s.pf 3 0 8
      ∧ absQ (takenRequest s).1 < s.pf 0x38 0 80 ∧ ¬(s.tm.reqValid = true ∧ s.tm.hold = true) then
    let s := stopGroup t.grp s
    match t with
    | .a => .next (writeTorque .a 0 { s with tm := { s.tm with idleA := true, tA := 0 } })
    | .b => .next (writeTorque .b 0 { s with tm := { s.tm with idleB := true, tB := 0 } })
  else .next s

/-! ## Service routines (R194) -/

/-- One instant of a routine: a start is refused with 0x22 where R194 forbids it, a running one aborts with 0x1817, else
i_d* is written, limited to I_SVC, and the routine ends at its length with its result. -/
def runSvc (rid : Nat) (p : UPath) (t : TSet) (elapsedMs len : Nat) (idNow : Q) (result : List Byte) (s : State) : State :=
  if s.tm.svc = none ∧ (svcAllowed s = false ∨ s.routineAllowed p rid = false ∨ (s.pwm.get t.grp).running = false) then udsNeg p 0x31 (if s.routineNrc p rid = 0 then 0x22 else s.routineNrc p rid) s
  else if svcAllowed s = false then abortSvc s
  else if s.tm.svc ≠ none ∧ s.tm.svc ≠ some (rid, t) then udsNeg p 0x31 0x22 s
  else
    let first := s.tm.svc.isNone
    let s := { s with tm := { s.tm with svc := some (rid, t) }, otgt := s.otgt.put t { s.otgt.get t with current := true, id := idNow, iq := 0, limit := some (s.pf 0x38 0 128) } }
    let s := if first then udsPos p [0x71, 0x01, BitVec.ofNat 8 (rid / 256), BitVec.ofNat 8 rid] s else s
    if len ≤ elapsedMs then setResult rid result (endSvc t s) else s

/-- ROTOR_ANGLE_OFFSET: i_d* is stepped to I_SVC over 100 ms and held for 500 ms; the result is the angle error in the
R8 angle format (R194). -/
def execRotorAngleOffset (p : UPath) (t : TSet) (elapsedMs angle : Nat) (s : State) : Host.Outcome State Fault Refusal :=
  let isvc := s.pf 0x38 0 128
  .next (runSvc 0xF200 p t elapsedMs 600 (isvc * min elapsedMs 100 / 100) (natBe 4 angle) s)

/-- WINDING_RESISTANCE: i_d* = I_SVC for 500 ms; the result is v_d / i_d over the last 250 ms, in mΩ (R194). -/
def execWindingResistance (p : UPath) (t : TSet) (elapsedMs : Nat) (vd id : Q) (s : State) : Host.Outcome State Fault Refusal :=
  .next (runSvc 0xF201 p t elapsedMs 500 (s.pf 0x38 0 128) (natBe 4 (roundN (divQ (vd * 1000) id))) s)

end Sys2Proof.Machine
end

