-- ==== Sys2Proof/Machine/Dispatch.lean ====
section
/-! DEFINITION. One arm per command: each calls its own meaning. -/

namespace Sys2Proof.Machine

/-- The effect of a command on everything but the queue. -/
def exec (i : Instr) (s : State) : Host.Outcome State Fault Refusal :=
  match i with
  | .feedPresent f volts heldUs => Sys2Proof.Machine.execFeedPresent f volts heldUs s
  | .feedLost f volts heldUs => Sys2Proof.Machine.execFeedLost f volts heldUs s
  | .feedOvervoltage f volts heldUs => Sys2Proof.Machine.execFeedOvervoltage f volts heldUs s
  | .feedOvervoltageCleared f volts heldUs => Sys2Proof.Machine.execFeedOvervoltageCleared f volts heldUs s
  | .idealDiodeTurnOff f feedVolts holdVolts => Sys2Proof.Machine.execIdealDiodeTurnOff f feedVolts holdVolts s
  | .bothFeedsLost f volts heldUs => Sys2Proof.Machine.execBothFeedsLost f volts heldUs s
  | .feedReturnInHoldup f volts holdVolts heldUs => Sys2Proof.Machine.execFeedReturnInHoldup f volts holdVolts heldUs s
  | .holdBelowVmin holdVolts => Sys2Proof.Machine.execHoldBelowVmin holdVolts s
  | .railMonitorReset r volts => Sys2Proof.Machine.execRailMonitorReset r volts s
  | .biasCurrentLimit bank sw shuntVolts => Sys2Proof.Machine.execBiasCurrentLimit bank sw shuntVolts s
  | .biasBankStop bank limitUs => Sys2Proof.Machine.execBiasBankStop bank limitUs s
  | .powerUp f volts nRst => Sys2Proof.Machine.execPowerUp f volts nRst s
  | .crystalAccepted minEdges maxEdges windowUs seniorToGnd => Sys2Proof.Machine.execCrystalAccepted minEdges maxEdges windowUs seniorToGnd s
  | .handshakeJudgement reports => Sys2Proof.Machine.execHandshakeJudgement reports s
  | .accession x => Sys2Proof.Machine.execAccession x s
  | .bootDescriptorWrite holdVolts verifyOk => Sys2Proof.Machine.execBootDescriptorWrite holdVolts verifyOk s
  | .postReadyOtpOperations holdVolts entropyOk verifyFails => Sys2Proof.Machine.execPostReadyOtpOperations holdVolts entropyOk verifyFails s
  | .lockedStoreWrite region addr value => Sys2Proof.Machine.execLockedStoreWrite region addr value s
  | .loadedStoreCrcCheck upset => Sys2Proof.Machine.execLoadedStoreCrcCheck upset s
  | .nrstReset lowNs => Sys2Proof.Machine.execNrstReset lowNs s
  | .nrstRelease => Sys2Proof.Machine.execNrstRelease s
  | .svcAcknowledge pressMs => Sys2Proof.Machine.execSvcAcknowledge pressMs s
  | .svcResetRequest pressMs => Sys2Proof.Machine.execSvcResetRequest pressMs s
  | .svcStuck lowMs => Sys2Proof.Machine.execSvcStuck lowMs s
  | .svcReleased1s releasedMs => Sys2Proof.Machine.execSvcReleased1s releasedMs s
  | .wakeLevelChange level => Sys2Proof.Machine.execWakeLevelChange level s
  | .shipWritesTimeout elapsedMs => Sys2Proof.Machine.execShipWritesTimeout elapsedMs s
  | .shipFeedsDown voltsA voltsB elapsedMs => Sys2Proof.Machine.execShipFeedsDown voltsA voltsB elapsedMs s
  | .shipSwitchTimeout elapsedMs => Sys2Proof.Machine.execShipSwitchTimeout elapsedMs s
  | .feedRiseWakeArmed voltsA voltsB heldMs => Sys2Proof.Machine.execFeedRiseWakeArmed voltsA voltsB heldMs s
  | .wakeSourceQualified obs => Sys2Proof.Machine.execWakeSourceQualified obs s
  | .shipExit f volts nRst => Sys2Proof.Machine.execShipExit f volts nRst s
  | .shipWakeTimeout elapsedMs => Sys2Proof.Machine.execShipWakeTimeout elapsedMs s
  | .acPresentChange rms1 rms2 rms3 => Sys2Proof.Machine.execAcPresentChange rms1 rms2 rms3 s
  | .flashOperationStart o holdVolts ageUs => Sys2Proof.Machine.execFlashOperationStart o holdVolts ageUs s
  | .pendingOperationRecheck holdVolts => Sys2Proof.Machine.execPendingOperationRecheck holdVolts s
  | .flashOperationComplete verifyOk => Sys2Proof.Machine.execFlashOperationComplete verifyOk s
  | .requestDownload p addr size => Sys2Proof.Machine.execRequestDownload p addr size s
  | .transferData p seq data => Sys2Proof.Machine.execTransferData p seq data s
  | .requestTransferExit p => Sys2Proof.Machine.execRequestTransferExit p s
  | .stagingBlockWritten verifyOk => Sys2Proof.Machine.execStagingBlockWritten verifyOk s
  | .stagingSessionTimeout idleS => Sys2Proof.Machine.execStagingSessionTimeout idleS s
  | .stageCheck p fw sigOk readFails => Sys2Proof.Machine.execStageCheck p fw sigOk readFails s
  | .stageCommit p => Sys2Proof.Machine.execStageCommit p s
  | .stageConfirm p => Sys2Proof.Machine.execStageConfirm p s
  | .stageReject p => Sys2Proof.Machine.execStageReject p s
  | .calibrationMeasurement counts => Sys2Proof.Machine.execCalibrationMeasurement counts s
  | .tapSwap tick edgeFree => Sys2Proof.Machine.execTapSwap tick edgeFree s
  | .calibrationMissed => Sys2Proof.Machine.execCalibrationMissed s
  | .crystalLoss edges => Sys2Proof.Machine.execCrystalLoss edges s
  | .pwmLatch g aux => Sys2Proof.Machine.execPwmLatch g aux s
  | .groupStart g bootstrap => Sys2Proof.Machine.execGroupStart g bootstrap s
  | .groupStop g => Sys2Proof.Machine.execGroupStop g s
  | .anchoredGroupStart g requestNs startNs bootstrap => Sys2Proof.Machine.execAnchoredGroupStart g requestNs startNs bootstrap s
  | .sarSample t tr u v w x => Sys2Proof.Machine.execSarSample t tr u v w x s
  | .sinc2Output sdd value => Sys2Proof.Machine.execSinc2Output sdd value s
  | .dcLinkSample d volts => Sys2Proof.Machine.execDcLinkSample d volts s
  | .senseDieTriggerLoss d ns => Sys2Proof.Machine.execSenseDieTriggerLoss d ns s
  | .orreryUpdate t x => Sys2Proof.Machine.execOrreryUpdate t x s
  | .orreryDeadlineMiss t => Sys2Proof.Machine.execOrreryDeadlineMiss t s
  | .chargerDeadlineMiss dab => Sys2Proof.Machine.execChargerDeadlineMiss dab s
  | .ioTaskDeadlineMiss => Sys2Proof.Machine.execIoTaskDeadlineMiss s
  | .modeEvaluation svcLow => Sys2Proof.Machine.execModeEvaluation svcLow s
  | .dcLinkWindowChange heldMs => Sys2Proof.Machine.execDcLinkWindowChange heldMs s
  | .ioTorqueTask => Sys2Proof.Machine.execIoTorqueTask s
  | .torqueLossFault sinceMs => Sys2Proof.Machine.execTorqueLossFault sinceMs s
  | .idleStop t heldMs => Sys2Proof.Machine.execIdleStop t heldMs s
  | .rotorAngleOffset p t elapsedMs angle => Sys2Proof.Machine.execRotorAngleOffset p t elapsedMs angle s
  | .windingResistance p t elapsedMs vd id => Sys2Proof.Machine.execWindingResistance p t elapsedMs vd id s
  | .dcLinkDisagree heldUs => Sys2Proof.Machine.execDcLinkDisagree heldUs s
  | .dcOvervoltageAsc d volts => Sys2Proof.Machine.execDcOvervoltageAsc d volts s
  | .ovAscRelease voltsT voltsC => Sys2Proof.Machine.execOvAscRelease voltsT voltsC s
  | .safeStateEntry t => Sys2Proof.Machine.execSafeStateEntry t s
  | .safeStateChoice t sinceUs samples => Sys2Proof.Machine.execSafeStateChoice t sinceUs samples s
  | .ascSideFault t c => Sys2Proof.Machine.execAscSideFault t c s
  | .ascTrialRequest t elapsedMs => Sys2Proof.Machine.execAscTrialRequest t elapsedMs s
  | .resolverUpdate ifc at270 sQuad cQuad sEnv cEnv => Sys2Proof.Machine.execResolverUpdate ifc at270 sQuad cQuad sEnv cEnv s
  | .sentFrame ifc f => Sys2Proof.Machine.execSentFrame ifc f s
  | .sentTimeout ifc sinceUs => Sys2Proof.Machine.execSentTimeout ifc sinceUs s
  | .abzEdge ifc a b z heldCt tFt => Sys2Proof.Machine.execAbzEdge ifc a b z heldCt tFt s
  | .hallEdge ifc code heldCt tFt => Sys2Proof.Machine.execHallEdge ifc code heldCt tFt s
  | .indexRisingEdge ifc level heldCt => Sys2Proof.Machine.execIndexRisingEdge ifc level heldCt s
  | .standstillTimeout ifc tauUs => Sys2Proof.Machine.execStandstillTimeout ifc tauUs s
  | .emulationStep ifc sinceCt => Sys2Proof.Machine.execEmulationStep ifc sinceCt s
  | .railOutOfWindow c vcc2 vee2 vccNs veeNs => Sys2Proof.Machine.execRailOutOfWindow c vcc2 vee2 vccNs veeNs s
  | .railFlagClear c vcc2 vee2 vccUs veeUs => Sys2Proof.Machine.execRailFlagClear c vcc2 vee2 vccUs veeUs s
  | .gateTurnOn c ft => Sys2Proof.Machine.execGateTurnOn c ft s
  | .gateTurnOff c ft dsnVolts onNs => Sys2Proof.Machine.execGateTurnOff c ft dsnVolts onNs s
  | .permitRemovalTurnOff d => Sys2Proof.Machine.execPermitRemovalTurnOff d s
  | .secondaryLinkLoss c ns => Sys2Proof.Machine.execSecondaryLinkLoss c ns s
  | .statusFrameLoss c ns => Sys2Proof.Machine.execStatusFrameLoss c ns s
  | .readbackMismatch c reportedOn heldNs sinceEdgeNs => Sys2Proof.Machine.execReadbackMismatch c reportedOn heldNs sinceEdgeNs s
  | .desaturation c dsnVolts onNs heldNs => Sys2Proof.Machine.execDesaturation c dsnVolts onNs heldNs s
  | .gateChargeShort c chOut => Sys2Proof.Machine.execGateChargeShort c chOut s
  | .shortReport c => Sys2Proof.Machine.execShortReport c s
  | .watchWindowEnd g => Sys2Proof.Machine.execWatchWindowEnd g s
  | .bootstrapRefresh c sinceUs pulseUs => Sys2Proof.Machine.execBootstrapRefresh c sinceUs pulseUs s
  | .bootstrapUndervoltage c volts heldNs => Sys2Proof.Machine.execBootstrapUndervoltage c volts heldNs s
  | .bootstrapOff c volts afterUs => Sys2Proof.Machine.execBootstrapOff c volts afterUs s
  | .bootstrapUvClear c volts heldUs => Sys2Proof.Machine.execBootstrapUvClear c volts heldUs s
  | .offStateDiagnostics g r => Sys2Proof.Machine.execOffStateDiagnostics g r s
  | .tractionStartTest t r => Sys2Proof.Machine.execTractionStartTest t r s
  | .clearLatchedFlags p opt => Sys2Proof.Machine.execClearLatchedFlags p opt s
  | .pfcUpdate tr x => Sys2Proof.Machine.execPfcUpdate tr x s
  | .dabUpdate vBus iBat => Sys2Proof.Machine.execDabUpdate vBus iBat s
  | .chargerFaultStop code => Sys2Proof.Machine.execChargerFaultStop code s
  | .chargerStopRequest => Sys2Proof.Machine.execChargerStopRequest s
  | .mainRelayOpen iMax elapsedMs => Sys2Proof.Machine.execMainRelayOpen iMax elapsedMs s
  | .forwardStart => Sys2Proof.Machine.execForwardStart s
  | .relayConfirmed h closed => Sys2Proof.Machine.execRelayConfirmed h closed s
  | .relayFeedbackTimeout h elapsedMs => Sys2Proof.Machine.execRelayFeedbackTimeout h elapsedMs s
  | .prechargeComplete vBus => Sys2Proof.Machine.execPrechargeComplete vBus s
  | .prechargeTimeout elapsedMs => Sys2Proof.Machine.execPrechargeTimeout elapsedMs s
  | .busOkReached vBus heldMs => Sys2Proof.Machine.execBusOkReached vBus heldMs s
  | .busRampTimeout elapsedMs => Sys2Proof.Machine.execBusRampTimeout elapsedMs s
  | .busUndervoltage vBus heldMs => Sys2Proof.Machine.execBusUndervoltage vBus heldMs s
  | .reverseStart => Sys2Proof.Machine.execReverseStart s
  | .reverseOverload heldMs => Sys2Proof.Machine.execReverseOverload heldMs s
  | .batteryContactorOpen heldMs => Sys2Proof.Machine.execBatteryContactorOpen heldMs s
  | .lvConverterStart v48 rs ls sinceUs ring boot => Sys2Proof.Machine.execLvConverterStart v48 rs ls sinceUs ring boot s
  | .lvConverterStop => Sys2Proof.Machine.execLvConverterStop s
  | .lvRestartRequest => Sys2Proof.Machine.execLvRestartRequest s
  | .dcxStartTimeout v48 elapsedMs => Sys2Proof.Machine.execDcxStartTimeout v48 elapsedMs s
  | .v48Overvoltage v48 heldUs => Sys2Proof.Machine.execV48Overvoltage v48 heldUs s
  | .v48Undervoltage v48 heldUs => Sys2Proof.Machine.execV48Undervoltage v48 heldUs s
  | .buckTurnOnSlot n x => Sys2Proof.Machine.execBuckTurnOnSlot n x s
  | .phaseCurrentLimit n ft amps => Sys2Proof.Machine.execPhaseCurrentLimit n ft amps s
  | .lvcCmdWrite value => Sys2Proof.Machine.execLvcCmdWrite value s
  | .referenceStep => Sys2Proof.Machine.execReferenceStep s
  | .shortCheck ls heldMs => Sys2Proof.Machine.execShortCheck ls heldMs s
  | .hiccupRetry rs ls boot offMs => Sys2Proof.Machine.execHiccupRetry rs ls boot offMs s
  | .retriesReset ls heldMs => Sys2Proof.Machine.execRetriesReset ls heldMs s
  | .remoteSenseLoss rs ls heldUs => Sys2Proof.Machine.execRemoteSenseLoss rs ls heldUs s
  | .undershootResponse ls highest sinceUs => Sys2Proof.Machine.execUndershootResponse ls highest sinceUs s
  | .releaseResponse ls lowest sinceUs => Sys2Proof.Machine.execReleaseResponse ls lowest sinceUs s
  | .overvoltageHold ls heldUs => Sys2Proof.Machine.execOvervoltageHold ls heldUs s
  | .overvoltageHoldEnd ls => Sys2Proof.Machine.execOvervoltageHoldEnd ls s
  | .overvoltageHoldTimeout elapsedMs => Sys2Proof.Machine.execOvervoltageHoldTimeout elapsedMs s
  | .phaseStop n => Sys2Proof.Machine.execPhaseStop n s
  | .pilotStateChange x heldUs => Sys2Proof.Machine.execPilotStateChange x heldUs s
  | .pilotDutyAccepted x1 x2 x3 => Sys2Proof.Machine.execPilotDutyAccepted x1 x2 x3 s
  | .proximityCodeChange volts heldUs => Sys2Proof.Machine.execProximityCodeChange volts heldUs s
  | .sessionEvaluation meanBat => Sys2Proof.Machine.execSessionEvaluation meanBat s
  | .pulsePhaseEnd iEnd elapsedMs => Sys2Proof.Machine.execPulsePhaseEnd iEnd elapsedMs s
  | .hlcSetupTimeout elapsedMs => Sys2Proof.Machine.execHlcSetupTimeout elapsedMs s
  | .iso15118Message m => Sys2Proof.Machine.execIso15118Message m s
  | .gridWaitTimeout elapsedMs => Sys2Proof.Machine.execGridWaitTimeout elapsedMs s
  | .dischargeDcLinkCheck => Sys2Proof.Machine.execDischargeDcLinkCheck s
  | .sessionRestart elapsedMs => Sys2Proof.Machine.execSessionRestart elapsedMs s
  | .lvFloatSwitch sinceMs => Sys2Proof.Machine.execLvFloatSwitch sinceMs s
  | .housekeepingRound taken => Sys2Proof.Machine.execHousekeepingRound taken s
  | .housekeepingStale slots => Sys2Proof.Machine.execHousekeepingStale slots s
  | .parkEngage src => Sys2Proof.Machine.execParkEngage src s
  | .parkRelease src => Sys2Proof.Machine.execParkRelease src s
  | .shift src target => Sys2Proof.Machine.execShift src target s
  | .peakCurrentCut a amps => Sys2Proof.Machine.execPeakCurrentCut a amps s
  | .stallDetected a sinceMs => Sys2Proof.Machine.execStallDetected a sinceMs s
  | .brakeEnd a elapsedMs => Sys2Proof.Machine.execBrakeEnd a elapsedMs s
  | .shiftDwellEnd elapsedMs => Sys2Proof.Machine.execShiftDwellEnd elapsedMs s
  | .sequenceTimeout a elapsedMs => Sys2Proof.Machine.execSequenceTimeout a elapsedMs s
  | .confirmationTimeout elapsedMs => Sys2Proof.Machine.execConfirmationTimeout elapsedMs s
  | .bridgeSupplyLow a volts heldMs => Sys2Proof.Machine.execBridgeSupplyLow a volts heldMs s
  | .safetyInputEdge n ch demand heldUs at_ => Sys2Proof.Machine.execSafetyInputEdge n ch demand heldUs at_ s
  | .discrepancyLatch n at_ => Sys2Proof.Machine.execDiscrepancyLatch n at_ s
  | .inputViewMismatch n ch heldUs => Sys2Proof.Machine.execInputViewMismatch n ch heldUs s
  | .callistoCycle samples => Sys2Proof.Machine.execCallistoCycle samples s
  | .callistoOverrun => Sys2Proof.Machine.execCallistoOverrun s
  | .callistoWatchExpiry sinceUs => Sys2Proof.Machine.execCallistoWatchExpiry sinceUs s
  | .safeStateRequest => Sys2Proof.Machine.execSafeStateRequest s
  | .soReadbackMismatch line level heldUs => Sys2Proof.Machine.execSoReadbackMismatch line level heldUs s
  | .custodianConfigCheck upsets => Sys2Proof.Machine.execCustodianConfigCheck upsets s
  | .lockstepMismatch p steps => Sys2Proof.Machine.execLockstepMismatch p steps s
  | .pairRestartComplete p region => Sys2Proof.Machine.execPairRestartComplete p region s
  | .registerExport p main checker => Sys2Proof.Machine.execRegisterExport p main checker s
  | .scrubRead words nowMs => Sys2Proof.Machine.execScrubRead words nowMs s
  | .uncorrectableError r reader locked => Sys2Proof.Machine.execUncorrectableError r reader locked s
  | .correctableError r reader nowMs => Sys2Proof.Machine.execCorrectableError r reader nowMs s
  | .debugHalt p tail main checker => Sys2Proof.Machine.execDebugHalt p tail main checker s
  | .debugRegisterWrite p reg value => Sys2Proof.Machine.execDebugRegisterWrite p reg value s
  | .debugResume p single steps main checker => Sys2Proof.Machine.execDebugResume p single steps main checker s
  | .queuePush q word first last cls => Sys2Proof.Machine.execQueuePush q word first last cls s
  | .queuePushTimeout q waitUs => Sys2Proof.Machine.execQueuePushTimeout q waitUs s
  | .queueAbort q => Sys2Proof.Machine.execQueueAbort q s
  | .zeroLengthCommit q => Sys2Proof.Machine.execZeroLengthCommit q s
  | .queuePop q => Sys2Proof.Machine.execQueuePop q s
  | .markCheck q upset nowMs => Sys2Proof.Machine.execMarkCheck q upset nowMs s
  | .portDownExpiry p elapsedUs => Sys2Proof.Machine.execPortDownExpiry p elapsedUs s
  | .portTrained p symbols => Sys2Proof.Machine.execPortTrained p symbols s
  | .helloFrame p ident echo => Sys2Proof.Machine.execHelloFrame p ident echo s
  | .alignmentLoss p violations => Sys2Proof.Machine.execAlignmentLoss p violations s
  | .frameHeaderReceived p h => Sys2Proof.Machine.execFrameHeaderReceived p h s
  | .frameEndReceived p crcOk payload => Sys2Proof.Machine.execFrameEndReceived p crcOk payload s
  | .ackReceived p link => Sys2Proof.Machine.execAckReceived p link s
  | .nakReceived p link => Sys2Proof.Machine.execNakReceived p link s
  | .replayTimeout p sinceNs => Sys2Proof.Machine.execReplayTimeout p sinceNs s
  | .linkDown p => Sys2Proof.Machine.execLinkDown p s
  | .controlFrameReceived h payload c => Sys2Proof.Machine.execControlFrameReceived h payload c s
  | .dataFrameReceived h => Sys2Proof.Machine.execDataFrameReceived h s
  | .advertSend => Sys2Proof.Machine.execAdvertSend s
  | .linkStateAdvert p a => Sys2Proof.Machine.execLinkStateAdvert p a s
  | .epochListClose unchangedMs sinceMs => Sys2Proof.Machine.execEpochListClose unchangedMs sinceMs s
  | .delayMeasurement p t1 t2 t3 t4 => Sys2Proof.Machine.execDelayMeasurement p t1 t2 t3 t4 s
  | .timeFrame p carried => Sys2Proof.Machine.execTimeFrame p carried s
  | .timeFrameTimeout sinceUs => Sys2Proof.Machine.execTimeFrameTimeout sinceUs s
  | .read r addr count => Sys2Proof.Machine.execRead r addr count s
  | .write r addr value => Sys2Proof.Machine.execWrite r addr value s
  | .stageOpen r region first size => Sys2Proof.Machine.execStageOpen r region first size s
  | .stageExit r => Sys2Proof.Machine.execStageExit r s
  | .routine r id fw sigOk readFails => Sys2Proof.Machine.execRoutine r id fw sigOk readFails s
  | .imageBlockPart node block part data => Sys2Proof.Machine.execImageBlockPart node block part data s
  | .blockPartTimeout elapsedMs => Sys2Proof.Machine.execBlockPartTimeout elapsedMs s
  | .reset r at_ => Sys2Proof.Machine.execReset r at_ s
  | .scheduledResetInstant => Sys2Proof.Machine.execScheduledResetInstant s
  | .barrier node number => Sys2Proof.Machine.execBarrier node number s
  | .barrierComplete number => Sys2Proof.Machine.execBarrierComplete number s
  | .snapshot r at_ addrs => Sys2Proof.Machine.execSnapshot r at_ addrs s
  | .snapshotCapture => Sys2Proof.Machine.execSnapshotCapture s
  | .logRead r start count => Sys2Proof.Machine.execLogRead r start count s
  | .attest r nonce => Sys2Proof.Machine.execAttest r nonce s
  | .heartbeatSend => Sys2Proof.Machine.execHeartbeatSend s
  | .fabricHeartbeatTimeout sinceUs => Sys2Proof.Machine.execFabricHeartbeatTimeout sinceUs s
  | .phbHeartbeatTimeout sinceUs => Sys2Proof.Machine.execPhbHeartbeatTimeout sinceUs s
  | .arbSample high => Sys2Proof.Machine.execArbSample high s
  | .arbitrationSample high sinceUs => Sys2Proof.Machine.execArbitrationSample high sinceUs s
  | .leadRelease => Sys2Proof.Machine.execLeadRelease s
  | .twoLeadsSeen => Sys2Proof.Machine.execTwoLeadsSeen s
  | .handoverRequest at_ swap waitedMs => Sys2Proof.Machine.execHandoverRequest at_ swap waitedMs s
  | .handoverInstant => Sys2Proof.Machine.execHandoverInstant s
  | .handoverAbandon sinceUs => Sys2Proof.Machine.execHandoverAbandon sinceUs s
  | .leadReturn heldMs => Sys2Proof.Machine.execLeadReturn heldMs s
  | .arbTest pull1 between pull2 healthyMs => Sys2Proof.Machine.execArbTest pull1 between pull2 healthyMs s
  | .swapEnd elapsedMs streamsOk => Sys2Proof.Machine.execSwapEnd elapsedMs streamsOk s
  | .soloExit heldMs => Sys2Proof.Machine.execSoloExit heldMs s
  | .busOff n => Sys2Proof.Machine.execBusOff n s
  | .busOffRejoin n waitMs => Sys2Proof.Machine.execBusOffRejoin n waitMs s
  | .ethLinkChange up => Sys2Proof.Machine.execEthLinkChange up s
  | .controlMessageReceived m ifc bytes => Sys2Proof.Machine.execControlMessageReceived m ifc bytes s
  | .streamTimeout m sinceMs => Sys2Proof.Machine.execStreamTimeout m sinceMs s
  | .messageTransmit m => Sys2Proof.Machine.execMessageTransmit m s
  | .diagnosticSessionControl p sub functional => Sys2Proof.Machine.execDiagnosticSessionControl p sub functional s
  | .s3SessionTimeout p idleMs => Sys2Proof.Machine.execS3SessionTimeout p idleMs s
  | .ecuReset p sub => Sys2Proof.Machine.execEcuReset p sub s
  | .clearDiagnosticInformation p group => Sys2Proof.Machine.execClearDiagnosticInformation p group s
  | .readDtcInformation p sub mask => Sys2Proof.Machine.execReadDtcInformation p sub mask s
  | .readDataByIdentifier p did => Sys2Proof.Machine.execReadDataByIdentifier p did s
  | .readMemoryByAddress p format addr len => Sys2Proof.Machine.execReadMemoryByAddress p format addr len s
  | .writeDataByIdentifier p did value => Sys2Proof.Machine.execWriteDataByIdentifier p did value s
  | .routineResults p rid => Sys2Proof.Machine.execRoutineResults p rid s
  | .testerPresent p sub functional => Sys2Proof.Machine.execTesterPresent p sub functional s
  | .requestSeed p level => Sys2Proof.Machine.execRequestSeed p level s
  | .sendKey p level seg key len => Sys2Proof.Machine.execSendKey p level seg key len s
  | .keyVerificationDone sigOk holdVolts verifyFails => Sys2Proof.Machine.execKeyVerificationDone sigOk holdVolts verifyFails s
  | .challengeTimeout idleS => Sys2Proof.Machine.execChallengeTimeout idleS s
  | .unlockDelayEnd elapsedMs => Sys2Proof.Machine.execUnlockDelayEnd elapsedMs s
  | .attestationRequest p index nonce => Sys2Proof.Machine.execAttestationRequest p index nonce s
  | .jtagChal => Sys2Proof.Machine.execJtagChal s
  | .jtagKey key sigOk => Sys2Proof.Machine.execJtagKey key sigOk s
  | .modemStatusRead reply => Sys2Proof.Machine.execModemStatusRead reply s
  | .modemLinkLoss silentMs => Sys2Proof.Machine.execModemLinkLoss silentMs s
  | .modemFrameReceive type len => Sys2Proof.Machine.execModemFrameReceive type len s
  | .faultRaise code inst meas => Sys2Proof.Machine.execFaultRaise code inst meas s
  | .faultClear code inst => Sys2Proof.Machine.execFaultClear code inst s
  | .faultExpiry code inst elapsedMs => Sys2Proof.Machine.execFaultExpiry code inst elapsedMs s
  | .logBlockClose => Sys2Proof.Machine.execLogBlockClose s
  | .rcRegisterRead path addr => Sys2Proof.Machine.execRcRegisterRead path addr s
  | .registerWrite path addr value => Sys2Proof.Machine.execRegisterWrite path addr value s
  | .railMonitorRelease r volts => Sys2Proof.Machine.execRailMonitorRelease r volts s
  | .kaFirstApplication kaVolts => Sys2Proof.Machine.execKaFirstApplication kaVolts s
  | .phbInEdge => Sys2Proof.Machine.execPhbInEdge s
  | .phbOutToggle => Sys2Proof.Machine.execPhbOutToggle s
  | .arbRelease heldMs => Sys2Proof.Machine.execArbRelease heldMs s
  | .timeFrameSend => Sys2Proof.Machine.execTimeFrameSend s
  | .helloSend p => Sys2Proof.Machine.execHelloSend p s
  | .eobReceived p => Sys2Proof.Machine.execEobReceived p s
  | .phyResetRelease sinceMs => Sys2Proof.Machine.execPhyResetRelease sinceMs s
  | .attestationSigned => Sys2Proof.Machine.execAttestationSigned s
  | .unsupportedService p sid sub functional => Sys2Proof.Machine.execUnsupportedService p sid sub functional s
  | .opUnknown r code => Sys2Proof.Machine.execOpUnknown r code s

end Sys2Proof.Machine
end

