-- ==== Sys2Proof/Safety.lean ====
section
/-! DEFINITION. The words the statements are made of: what a command answers, and which part of the state it leaves alone. -/

namespace Sys2Proof.Machine

/-- A command answers a next state, and that state has the property. -/
def Answers (o : Host.Outcome State Fault Refusal) (P : State → Prop) : Prop := ∃ t, o = .next t ∧ P t

/-! ## The collector (R532 to R537) -/

/-- `t` is `s` but for what the collector writes: the active faults, the log, bit 3 of the DTCs and the two pins. -/
def SameButFaults (s t : State) : Prop :=
  t = { s with sys := { s.sys with readyPin := t.sys.readyPin, faultPin := t.sys.faultPin }, faults := t.faults, log := t.log, uds := { s.uds with dtcClr := t.uds.dtcClr } }

/-- Every fault that is active in `s` is active in `t`. -/
def Grows (s t : State) : Prop := ∀ c i, active c i s = true → active c i t = true

/-! ## What a fault may touch at all (R15, R16, R33, R394) -/

/-- `FeedSt` but for what a fault, its reaction, a clear or a change of mode may touch. -/
def FeedSt.fixed (x : FeedSt) : Bool × Bool × Bool × Q := (x.present, x.lost, x.ov, x.volts)

/-- `DcLink` but for what a fault, its reaction, a clear or a change of mode may touch. -/
def DcLink.fixed (x : DcLink) : Q × Q × Bool × Bool × Bool × Q := (x.dclT, x.dclC, x.stale1, x.stale2, x.bcStop, x.bcEnergy)

/-- `Supply` but for what a fault, its reaction, a clear or a change of mode may touch. -/
def Supply.fixed (x : Supply) : (Bool × Bool × Bool × Q) × (Bool × Bool × Bool × Q) × Q × Nat × Bool × Bool × Bool × (List (Bank × Fin 2)) × (List Rail) × Nat × Bool × SvcSt × Bool × Bool × StartCause × StartCause × Nat := (x.feedA.fixed, x.feedB.fixed, x.hold, x.holdMv, x.holdup, x.biasStopA, x.biasStopB, x.biasCut, x.railsOut, x.step, x.nRst, x.svc, x.acPresent, x.riseArmed, x.wakes, x.cause, x.lostWrites)

/-- `Tm` but for what a fault, its reaction, a clear or a change of mode may touch. -/
def Tm.fixed (x : Tm) : Nat × Nat × Q × Q × Bool × Bool × (Option Nat) × Bool × Bool × Nat × (Option (Q × Q)) := (x.limA, x.limB, x.tAx, x.dT, x.hold, x.reqValid, x.lostMs, x.idleA, x.idleB, x.missRun, x.pLim)

/-- `Saf` but for what a fault, its reaction, a clear or a change of mode may touch. -/
def Saf.fixed (x : Saf) : Bool × Bool × Bool × Bool × Bool × Bool × Bool × Bool × Nat × Nat × Bool × (Tab SiN SiSt) × Custodian := (x.evaluating, x.xtalLatch, x.watchLatch, x.ovHold, x.ptestOk, x.held, x.soDiffA, x.soDiffB, x.cycles, x.overruns, x.lastOverrun, x.si, x.cust)

/-- `ObcTgt` but for what a fault, its reaction, a clear or a change of mode may touch. -/
def ObcTgt.fixed (x : ObcTgt) : (Option Q) × Q × Q × Q × (Option Q) := (x.iAc, x.reactive, x.rate, x.vBat, x.iDis)

/-- `PairOp` but for what a fault, its reaction, a clear or a change of mode may touch. -/
def PairOp.fixed (x : PairOp) : Nat × Bool × Bool × Bool × Bool × Bool × Bool × Bool × Bool × Bool × Bool × Bool × (Option PartnerHb) × (Option (Q × Q)) × Bool × (Option Handover) × Nat × Nat × Nat × Nat × Nat × Nat × Nat × Nat × Nat × Int × Bool × Bool × Bool × (Option (Nat × Q × Q)) := (x.role, x.fabHb, x.phbHb, x.declared, x.arbOut, x.arbIn, x.phbOut, x.arbWait, x.partnerFit, x.swapped, x.holdoff, x.arbFit, x.hb, x.leadReq, x.partnerAvail, x.handover, x.takeovers, x.handovers, x.solos, x.shadowMm, x.shadowRun, x.take, x.passed, x.failed, x.skip, x.diff, x.swapDue, x.swapBad, x.partnerBusy, x.leadCharge)

/-- `Uds` but for what a fault, its reaction, a clear or a change of mode may touch. -/
def Uds.fixed (x : Uds) : (Tab UPath Nat) × (Option UPath) × (List (UPath × Nat)) × (List (Nat × List Byte)) := (x.session, x.tester, x.unlocks, x.results)

/-- The views of the two sets but for the flags that a set without an update shows at 0 (R169, R173, R177). -/
def viewsFixed (x : Tab TSet OrrView) : OrrView × OrrView := ((x.get .a).still, (x.get .b).still)

/-- What no fault, reaction to a fault, clear or change of mode may touch, but for the fabric's ports, the output and the staging session, which
0x680A and 0x7002 stop (R439, R454). -/
structure Beyond where
  mer : Mer
  octl : Tab TSet OrrCtl
  oview : OrrView × OrrView
  pos : Tab Ifc PosSt
  edge : Tab Ifc EdgeSt
  res : Tab Ifc ResSt
  cal : Tab Ifc CalTurn
  sent : Tab Ifc SentSt
  em : Tab Ifc EmSt
  grid : Grid
  ka : Retained
  flash : Flash
  ops : Ops
  cat : Cat
  thm : Thm
  lks : Lks
  pq : Tab QId PQueue
  pqSeen : List QId
  fab : Fab
  vif : Vif
  veh : Veh
  out : List Emit
  sec : Sec
  otp : Tab Nat (BitVec 64)
  freeIx : Nat
  pending : List Instr
  ssDisagree : Bool
  ssTrials : Nat
  dc : Q × Q × Bool × Bool × Bool × Q
  sup : (Bool × Bool × Bool × Q) × (Bool × Bool × Bool × Q) × Q × Nat × Bool × Bool × Bool × (List (Bank × Fin 2)) × (List Rail) × Nat × Bool × SvcSt × Bool × Bool × StartCause × StartCause × Nat
  tm : Nat × Nat × Q × Q × Bool × Bool × (Option Nat) × Bool × Bool × Nat × (Option (Q × Q))
  saf : Bool × Bool × Bool × Bool × Bool × Bool × Bool × Bool × Nat × Nat × Bool × (Tab SiN SiSt) × Custodian
  obcT : (Option Q) × Q × Q × Q × (Option Q)
  pair : Nat × Bool × Bool × Bool × Bool × Bool × Bool × Bool × Bool × Bool × Bool × Bool × (Option PartnerHb) × (Option (Q × Q)) × Bool × (Option Handover) × Nat × Nat × Nat × Nat × Nat × Nat × Nat × Nat × Nat × Int × Bool × Bool × Bool × (Option (Nat × Q × Q))
  uds : (Tab UPath Nat) × (Option UPath) × (List (UPath × Nat)) × (List (Nat × List Byte))

/-- The part of a state that no fault, reaction to a fault, clear or change of mode may touch, but for 0x680A and 0x7002. -/
def State.beyond (s : State) : Beyond :=
  ⟨s.mer, s.octl, viewsFixed s.oview, s.pos, s.edge, s.res, s.cal, s.sent, s.em, s.grid, s.ka, s.flash, s.ops, s.cat, s.thm, s.lks, s.pq, s.pqSeen, s.fab, s.vif, s.veh, s.out, s.sec, s.otp, s.freeIx, s.pending, s.ssDisagree, s.ssTrials, s.dc.fixed, s.sup.fixed, s.tm.fixed, s.saf.fixed, s.obcT.fixed, s.pair.fixed, s.uds.fixed⟩

/-! ## Gate channels (R245, R252 to R255) -/

/-- The flags, counts and readings of a channel: all but its command, its output, how far a soft turn-off or a refresh is, and what the output's
edges charge to its switch. -/
def GdChan.flags (x : GdChan) : GdChan := { x with cmd := false, out := .off, needEdge := false, clamp := false, drive := [], acc := 0, since := 0, softT := 0, refr := none }

/-! ## The charger (R281) -/

/-- Every stage of the charger is stopped and no carrier of it runs. -/
def ChgrOff (s : State) : Prop := (s.pfc.st = 0 ∨ s.pfc.st = 5) ∧ s.dab.st = 0 ∧ (s.pwm.get 3).running = false ∧ (s.pwm.get 4).running = false

/-! ## What every step keeps (R183, R512) -/

/-- The map store has its one canonical form: addresses rise and no listed byte is 0. -/
abbrev State.mapOk (s : State) : Prop := Memory.wf s.cat.map = true

/-- No OTP bit has returned from 1 to 0 between two states (R512). -/
def OtpStays (s t : State) : Prop := ∀ w i, (s.otp.get w).getLsbD i = true → (t.otp.get w).getLsbD i = true

/-! ## What other statements name -/

/-- A running group anchored to fabric time (R149 to R151). -/
abbrev anchored (s : State) (g : Grp) : Prop := (s.pwm.get g).running = true ∧ s.pu 0x20 g 40 = 1 ∧ s.pu 0x20 g 0 ≠ 3

/-- `y` is the state of a switch after a step of the Conservator from `s` whose anchors are `an` (R354, R355, R357). -/
def Stepped (s : State) (an : Tab Chan Anchor) (c : Chan) (y : SwTh) : Prop :=
  y.e = (s.gd.ch.get c).acc ∧ y.p = (s.gd.ch.get c).acc * 1000 ∧
    y.d1 = (s.thm.sw.get c).d1 * decay (s.pf 0x70 c 36) + s.pf 0x70 c 20 * (1 - decay (s.pf 0x70 c 36)) * ((s.gd.ch.get c).acc * 1000) ∧
    y.d2 = (s.thm.sw.get c).d2 * decay (s.pf 0x70 c 40) + s.pf 0x70 c 24 * (1 - decay (s.pf 0x70 c 40)) * ((s.gd.ch.get c).acc * 1000) ∧
    y.d3 = (s.thm.sw.get c).d3 * decay (s.pf 0x70 c 44) + s.pf 0x70 c 28 * (1 - decay (s.pf 0x70 c 44)) * ((s.gd.ch.get c).acc * 1000) ∧
    y.d4 = (s.thm.sw.get c).d4 * decay (s.pf 0x70 c 48) + s.pf 0x70 c 32 * (1 - decay (s.pf 0x70 c 48)) * ((s.gd.ch.get c).acc * 1000) ∧
    (∀ ta, (an.get c).ta = some ta → y.tj = ta + y.d1 + y.d2 + y.d3 + y.d4) ∧ y.f = throttle s c y.tj

/-- The fault of a pair's reaction, for a first halt and a later one (R408 to R411). -/
def pairFault (p : LPair) (first : Bool) : Nat :=
  match p with
  | .io => 0x6001
  | .callisto => 0x6004
  | .europa => if first then 0x6002 else 0x6005
  | .ganymede => if first then 0x6003 else 0x6005

/-- The pair's own state once a role is in force: a change of role ends the hold-off, and a turn to SOLO ends a swap and counts (R483, R486). -/
def inRole (r : Nat) (p : PairOp) : PairOp := if p.role = r then p else { p with role := r, holdoff := false, swapped := p.swapped && decide (r ≠ 3), solos := if r = 3 then satInc 8 p.solos else p.solos }

/-- The pair's own state once the lead is taken `t` tenths of a millisecond after the declaration: the takeover counts (R480, R481). -/
def inLead (t : Nat) (p : PairOp) : PairOp := if p.role = 1 then p else { p with role := 1, holdoff := false, swapped := false, takeovers := satInc 8 p.takeovers, take := t }

end Sys2Proof.Machine
end

