-- ==== Sys2Proof/Certificates/Slice0/Obligations.lean ====
section
/-! DEFINITION. The statements for the provers, family by family of the commands. -/

open Sys2Proof Sys2Proof.Machine

/-- For every command and every state, a step of the state with that command at the front of the queue is exec of the command on the state with the rest of the queue; with no command waiting it is one coarse tick of 25 ns (the model's choice, log entry 1): every soft turn-off goes on, or ends with the clamp on at a moment that is free (log entry 58), and while the crystal runs the pre-charges, refreshes and holds of the bootstrapped legs and the 0x78 answers of the engine's jobs move on, and the coarse-tick counter, the time counts and the local copy of fabric time advance; where nothing of that kind runs, only the counters and the time change. -/
def Obligations.StepRunsTheFrontCommand : Prop :=
  (∀ (c : Instr) (rest : List Instr) (s : State),
   step { s with pending := c :: rest } = exec c { s with pending := rest }) ∧
  (∀ (s : State),
   s.pending = [] → 
   (s.xtalOk = true → step s = .next { pendTicks (bootTicks (softTicks s)) with mer := { s.mer with ct := s.mer.ct + 1, ns := s.mer.ns + 25 }, fab := { s.fab with time := if s.fab.timeSet then s.fab.time + 25 * (1 + s.fab.rate / 1000000) else s.fab.time } }) ∧ (s.xtalOk = false → step s = .next (softTicks s))) ∧
  (∀ (s : State) (c : Chan),
   softTicks s = { s with gd := (softTicks s).gd } ∧ (softTicks s).gd.ch.get c = if (s.gd.ch.get c).out = .soft then (if Config.softDone c.val (s.gd.ch.get c).since (s.gd.ch.get c).softT then { s.gd.ch.get c with out := .off, clamp := true, drive := [], softT := 0 } else { s.gd.ch.get c with softT := (s.gd.ch.get c).softT + 1 }) else s.gd.ch.get c) ∧
  (∀ (s : State),
   ((∀ c : Chan, (s.gd.ch.get c).refr = none ∧ (s.gd.ch.get c).hold = 0) → (∀ g : Grp, (s.pwm.get g).preLeft = 0) → bootTicks s = s) ∧ ((∀ x ∈ s.sec.pend, s.mer.ns < x.2) → pendTicks s = s))

/-- Right after reset the N9 is in ACCESSION with READY low and FAULT_N low, no fault active, no command waiting, every gate output off, both global permits removed and every queue empty; the map store lists nothing and is in canonical form; and the registers read the reset values of their tables: SYS_MODE, SYS_FAULT, the status of every position interface, gate channel and queue, the charger, the LV converter, charging, both actuators, the export words of the pairs, VIF_STATUS, SEC_LIFECYCLE and SEC_ACC_DETAIL, as those that are not 0. SYS_START_CAUSE reads POWER, which step 1 sets: that this state stands after step 1 of a power-up is the model's choice (log entry 2). -/
def Obligations.ResetLeaves : Prop :=
  (State.reset.sys.mode = .accession ∧ State.reset.sys.readyPin = false ∧ State.reset.sys.faultPin = true ∧ State.reset.faults = [] ∧ State.reset.pending = [] ∧ State.reset.mapOk ∧ State.reset.cat.map = [] ∧
        State.reset.globalC = false ∧ State.reset.globalP = false ∧ (∀ c : Chan, (State.reset.gd.ch.get c).out = .off) ∧ (∀ q : QId, ∀ k : Fin 8, ((State.reset.pq.get q).chains.get k).words = [] ∧ ((State.reset.pq.get q).chains.get k).opn = [])) ∧
  (vitRead State.reset 0x50000000 = 0x20400000 ∧ vitRead State.reset 0x50000004 = 0xE0000000 ∧ vitRead State.reset 0x50000044 = 1 ∧ (∀ i : Ifc, vitRead State.reset (0x50004100 + 0x40 * i.val) = 0xF0000000) ∧
        (∀ c : Chan, vitRead State.reset (0x50005000 + 0x40 * c.val) = 0xC0000000) ∧ vitRead State.reset 0x50006000 = 0xFC000000 ∧ vitRead State.reset 0x50007000 = 0xFC000000 ∧ vitRead State.reset 0x50008000 = 0x00400000 ∧
        vitRead State.reset 0x5000A100 = 0xE0000000 ∧ vitRead State.reset 0x5000A140 = 0xE0000000 ∧ (∀ k : Fin 4, vitRead State.reset (0x5000C104 + 0x40 * k.val) = 0x0000FFFF) ∧ (∀ q : QId, vitRead State.reset (0x5000E100 + 0x20 * q.val) = 0xC0000000) ∧
        vitRead State.reset 0x5000F000 = 0xFF010000 ∧ vitRead State.reset 0x50010000 = 0x0C000000 ∧ vitRead State.reset 0x50010104 = 0xFFFF0000)

/-- For every command of the table, with every operand, and every state, exec answers a next state, never a fault or a refusal, and leaves the commands that wait untouched; a step therefore answers a next state from every state and takes exactly the front command from the queue. -/
def Obligations.EveryCommandCompletes : Prop :=
  (∀ (c : Instr) (s : State),
   Answers (exec c s) fun t => t.pending = s.pending) ∧
  (∀ (s : State),
   Answers (step s) fun t => t.pending = s.pending.tail)

/-- From every state, whatever command waits in front, a step leads to a state in which no OTP bit has returned from 1 to 0; and if the map store was in its canonical form, with addresses rising and no listed byte 0, it still is. -/
def Obligations.MapAndOtpAreKept : Prop :=
  ∀ (s t : State),
  step s = .next t → 
  OtpStays s t ∧ (s.mapOk → t.mapOk)

/-- The window is judged on both bounds once they have held for 10 ms; an evaluation in READY grants CONVERT inside the window, and DRIVE where no test of SI0 is pending, nothing is connected and SI4 is not in demand; a request it cannot grant names the first condition that fails; an active class F4 fault leads to SAFE from every operating mode, whether Io runs or not, from ACCESSION once Io runs, and gives up a ship entry, with LVD high where it was low, but for a reset that holds the N9 and a failed start-up check, under which an evaluation enters no mode; leaving the window leads from DRIVE to READY with every set in a safe state, and the park lock's confirmation lost leads from CHARGE to CONVERT; DRIVE is not left for READY before standstill. -/
def Obligations.ModeChanges : Prop :=
  (∀ (s : State) (heldMs : Nat),
   s.hasRec 3 0 = true → 10 ≤ heldMs → 
   Answers (exec (.dcLinkWindowChange heldMs) s) fun t => (t.sys.dcInside = true ↔ s.pf 3 0 0 ≤ s.vMin ∧ s.vMax ≤ s.pf 3 0 4) ∧ t = { s with sys := { s.sys with dcInside := t.sys.dcInside } }) ∧
  (∀ (s : State) (low : Bool),
   s.sys.mode = .ready → (s.lks.pairs.get .io).st = 1 → activeClass 4 s = false → s.veh.mode = some 4 → s.sys.dcInside = true → s.sup.ship = .none → 
   Answers (exec (.modeEvaluation low) s) fun t => t.sys.mode = .convert ∧ (s.fn 5 = true → t.lvc.due = true) ∧ Grows s t ∧ t.beyond = (ageTask low s).beyond) ∧
  (∀ (s : State) (low : Bool),
   s.sys.mode = .ready ∨ s.sys.mode = .convert → (s.lks.pairs.get .io).st = 1 → activeClass 4 s = false → s.veh.mode = some 5 → s.sys.dcInside = true → s.siTestPending 0 = false → s.connected = false → s.siDemand 4 = false → s.sup.ship = .none → 
   Answers (exec (.modeEvaluation low) s) fun t => t.sys.mode = .drive ∧ (s.sys.mode = .ready → s.fn 5 = true → t.lvc.due = true) ∧ Grows s t ∧ t.beyond = (ageTask low s).beyond) ∧
  (∀ (s : State) (low : Bool),
   s.sys.mode = .ready → (s.lks.pairs.get .io).st = 1 → activeClass 4 s = false → s.veh.mode = some 5 → s.sup.ship = .none → s.sys.dcInside = false ∨ s.siTestPending 0 = true ∨ s.connected = true ∨ s.siDemand 4 = true → 
   exec (.modeEvaluation low) s = .next (noteRefuse (if s.sys.dcInside = false then 1 else if s.siTestPending 0 = true then 2 else 3) (ageTask low s))) ∧
  (∀ (s : State) (low : Bool),
   s.sys.mode ≠ .off ∧ s.sys.mode ≠ .ship ∧ s.sys.mode ≠ .safe → (s.sys.mode = .accession → (s.lks.pairs.get .io).st = 1) → s.inReset = false → s.lks.dead = false → activeClass 4 s = true → 
   Answers (exec (.modeEvaluation low) s) fun t => t.sys.mode = .safe ∧ (s.sup.ship = .falling → t.sup.lvd = true ∧ t.sup.ifaces = true) ∧ (s.sup.ship ≠ .ship → s.sup.ship ≠ .waking → t.sup.ship = .none) ∧ Grows s t ∧ t.beyond = (ageTask low s).beyond) ∧
  (∀ (s : State) (low : Bool),
   s.inReset = true ∨ s.lks.dead = true → activeClass 4 s = true → s.sys.mode ≠ .safe → exec (.modeEvaluation low) s = .next (ageTask low s)) ∧
  (∀ (s : State) (low : Bool),
   s.sys.mode = .drive → (s.lks.pairs.get .io).st = 1 → activeClass 4 s = false → s.sys.dcInside = false → 
   Answers (exec (.modeEvaluation low) s) fun t => t.sys.mode = .ready ∧ (∀ x : TSet, s.fn x.num = true → 1 ≤ (t.ss.get x).st) ∧ Grows s t ∧ t.beyond = (ageTask low s).beyond) ∧
  (∀ (s : State) (low : Bool),
   s.sys.mode = .charge → (s.lks.pairs.get .io).st = 1 → activeClass 4 s = false → s.si3Eng = false → 
   Answers (exec (.modeEvaluation low) s) fun t => t.sys.mode = .convert ∧ Grows s t) ∧
  (∀ (s : State) (low : Bool),
   s.sys.mode = .drive → (s.lks.pairs.get .io).st = 1 → activeClass 4 s = false → s.sys.dcInside = true → s.connected = false → s.siDemand 4 = false → s.sys.waitStill = false → s.veh.mode = some 3 → s.standstill = false → s.sup.ship = .none → 
   exec (.modeEvaluation low) s = .next (noteRefuse 4 (ageTask low s)))

/-- A feed above 5.8 V (after 1 ms if it was lost) is present, its loss fault ends and its MOSFET conducts unless it is in overvoltage beside a feed that is present and not; below 5.5 V for 20 µs with the other feed present, outside step 6 of a ship entry, it is lost with its loss fault, its MOSFET off and the mode unchanged; above 38.0 V for 20 µs it is in overvoltage with its fault, its MOSFET off exactly when the other feed is present and not in overvoltage; below 36.0 V for 1 ms the overvoltage ends; more than 10 mV below HOLD its MOSFET is off, and else that of a present feed conducts. From step 5 of a ship entry on no MOSFET is turned on. Each completes, and touches nothing but the feed and the collector (the last one: the feed and the HOLD measurement). -/
def Obligations.FeedLevels : Prop :=
  (∀ (s : State) (f : Feed) (volts : Q) (heldUs : Nat),
   feedsJudged s = true → 29 / 5 < volts → s.sup.holdup = false → (feedOf s f).lost = false ∨ 1000 ≤ heldUs → 
   Answers (exec (.feedPresent f volts heldUs) s) fun t => active (lossCode f) noInst t = false ∧
        SameButFaults (setFeed f { feedOf s f with present := true, lost := false, mosfet := decide (s.sup.ship ≠ .falling) && (!(feedOf s f).ov || !((feedOf s f.other).present && !(feedOf s f.other).ov)), volts := volts } s) t) ∧
  (∀ (s : State) (f : Feed) (volts : Q) (heldUs : Nat),
   feedsJudged s = true → s.sup.ship ≠ .falling → volts < 11 / 2 → 20 ≤ heldUs → (feedOf s f).present = true → (feedOf s f.other).present = true → 
   Answers (exec (.feedLost f volts heldUs) s) fun t => active (lossCode f) noInst t = true ∧ t.sys.mode = s.sys.mode ∧
        feedOf t f = { feedOf s f with present := false, lost := true, mosfet := false, volts := volts } ∧
        feedOf t f.other = { feedOf s f.other with mosfet := (feedOf s f.other).ov || (feedOf s f.other).mosfet } ∧
        SameButFaults (setFeed f.other (feedOf t f.other) (setFeed f (feedOf t f) s)) t) ∧
  (∀ (s : State) (f : Feed) (volts : Q) (heldUs : Nat),
   feedsJudged s = true → 38 < volts → 20 ≤ heldUs → 
   Answers (exec (.feedOvervoltage f volts heldUs) s) fun t => active (ovCode f) noInst t = true ∧
        SameButFaults (setFeed f { feedOf s f with ov := true, mosfet := (feedOf s f).mosfet && !((feedOf s f.other).present && !(feedOf s f.other).ov), volts := volts } s) t) ∧
  (∀ (s : State) (f : Feed) (volts : Q) (heldUs : Nat),
   feedsJudged s = true → volts < 36 → 1000 ≤ heldUs → (feedOf s f).ov = true → 
   Answers (exec (.feedOvervoltageCleared f volts heldUs) s) fun t => active (ovCode f) noInst t = false ∧
        SameButFaults (setFeed f { feedOf s f with ov := false, mosfet := decide (s.sup.ship ≠ .falling) && (feedOf s f).present, volts := volts } s) t) ∧
  (∀ (s : State) (f : Feed) (feedVolts holdVolts : Q),
   feedsJudged s = true → 
   exec (.idealDiodeTurnOff f feedVolts holdVolts) s = .next (measureHold holdVolts (setFeed f { feedOf s f with mosfet := if feedVolts < holdVolts - 1 / 100 ∨ s.sup.ship = .falling then false else (feedOf s f).present && (!(feedOf s f).ov || !((feedOf s f.other).present && !(feedOf s f.other).ov)), volts := feedVolts } s))) ∧
  (∀ (s : State) (f : Feed),
   classOf s (lossCode f) noInst = 1)

/-- When the second feed qualifies as lost, outside step 6 of a ship entry, the N9 is in SAFE with 0x0014 active, READY low and FAULT_N low, both permits held off, every isolated channel off, traction in freewheel, both bias banks and the interfaces off and hold-up begun; under a reset that holds it or after a failed start-up check the same ends with the mode unchanged. A feed above 5.8 V for 1 ms with HOLD at 5 V or more ends hold-up and clears 0x0014 and the loss, restores the banks that no limit has stopped, while the crystal runs and from step 6 of the sequence on, and, with a Catalogue loaded, the permits, and repeats the handshakes; HOLD below 5 V leads to OFF with the unwritten operations counted in the keep-alive register and flash kept, but for the last page of a descriptor write that has started, which lands; a rail outside its window resets the N9 with the RAIL cause, beside the cause of a reset that still holds it, and a rail that is back inside leaves the list. That the count in the keep-alive register is taken back with the feed, and that LVD is high in OFF, are the model's choices (log entries 42 and 41). -/
def Obligations.HoldUp : Prop :=
  (∀ (s : State) (f : Feed) (volts : Q) (heldUs : Nat),
   feedsJudged s = true → s.sup.ship ≠ .falling → volts < 11 / 2 → 20 ≤ heldUs → (feedOf s f.other).present = false → s.sup.holdup = false → s.inReset = false → s.lks.dead = false → 
   Answers (exec (.bothFeedsLost f volts heldUs) s) fun t =>
        t.sys.mode = .safe ∧ active 0x0014 noInst t = true ∧ t.saf.held = true ∧ t.saf.lvC = false ∧ t.saf.lvP = false ∧
        feedOf t f = { feedOf s f with present := false, lost := true, mosfet := false, volts := volts } ∧
        t.sup = { (setFeed f (feedOf t f) s).sup with biasA := false, biasB := false, ifaces := false, holdup := true, ship := if s.sup.ship = .writes ∨ s.sup.ship = .record then .none else s.sup.ship } ∧
        t.sys.readyPin = false ∧ t.sys.faultPin = true ∧ (∀ c : Chan, c.val < 29 → (t.gd.ch.get c).out ≠ .on) ∧ (∀ x, (t.ss.get x).st < 2) ∧ Grows s t ∧
        t.flash = s.flash ∧ t.otp = s.otp ∧ t.cat = s.cat ∧ t.ka = s.ka) ∧
  (∀ (s : State) (f : Feed) (volts : Q) (heldUs : Nat),
   feedsJudged s = true → s.sup.ship ≠ .falling → volts < 11 / 2 → 20 ≤ heldUs → (feedOf s f.other).present = false → s.sup.holdup = false → s.inReset = true ∨ s.lks.dead = true → 
   Answers (exec (.bothFeedsLost f volts heldUs) s) fun t =>
        t.sys.mode = s.sys.mode ∧ active 0x0014 noInst t = true ∧ t.saf.held = true ∧ t.sup.holdup = true ∧ t.sup.biasA = false ∧ t.sup.biasB = false ∧ t.sup.ifaces = false ∧ (∀ c : Chan, c.val < 29 → (t.gd.ch.get c).out ≠ .on) ∧ Grows s t) ∧
  (∀ (s : State) (f : Feed) (volts holdVolts : Q) (heldUs : Nat),
   s.sup.holdup = true → 29 / 5 < volts → 1000 ≤ heldUs → 5 ≤ holdVolts → 
   Answers (exec (.feedReturnInHoldup f volts holdVolts heldUs) s) fun t =>
        active 0x0014 noInst t = false ∧ active (lossCode f) noInst t = false ∧ t.ka = (if s.sys.mode = .accession then s.ka else { s.ka with lostWrites := 0 }) ∧
        t.sup = { (measureHold holdVolts (setFeed f { feedOf s f with present := true, lost := false, mosfet := !(feedOf s f).ov || !((feedOf s f.other).present && !(feedOf s f.other).ov), volts := volts } s)).sup with
          holdup := false, ifaces := s.sup.ifaces || s.cat.locked || s.cat.recovery, biasA := if s.xtalOk = true ∧ (s.sys.mode = .accession → 6 ≤ s.sup.step) then !s.sup.biasStopA else s.sup.biasA, biasB := if s.xtalOk = true ∧ (s.sys.mode = .accession → 6 ≤ s.sup.step) then !s.sup.biasStopB else s.sup.biasB } ∧
        (s.cat.locked = true → t.saf = { s.saf with held := false, lvC := !s.lvc.f3Stop, lvP := !s.lvc.f3Stop } ∧ t.gd = { s.gd with ch := t.gd.ch, hsFailed := [] } ∧ ∀ c, t.gd.ch.get c = { s.gd.ch.get c with hsOk := false }) ∧
        (s.cat.locked = false → t.saf = s.saf ∧ t.gd = s.gd) ∧
        SameButFaults { s with sup := t.sup, ka := t.ka, saf := t.saf, gd := t.gd } t) ∧
  (∀ (s : State) (holdVolts : Q),
   s.sys.mode ≠ .off → s.sys.mode ≠ .ship → holdVolts < 5 → 
   Answers (exec (.holdBelowVmin holdVolts) s) fun t =>
        t.sys.mode = .off ∧ t.sys.prev = s.sys.mode ∧ t.ka = { s.ka with lostWrites := max s.ka.lostWrites (min (pendingOps s) 255) } ∧
        t.flash = endedFlash s ∧ OtpStays s t ∧ t.ops = { waiting := [], running := none, orphan := false } ∧ t.sup.lvd = true ∧ t.faults = [] ∧ t.cat.params = [] ∧ t.pending = s.pending) ∧
  (∀ (s : State) (r : Rail) (volts : Q),
   feedsJudged s = true → railOut r volts = true → 
   Answers (exec (.railMonitorReset r volts) s) fun t =>
        t.sys.mode = .accession ∧ t.sup.cause = (if s.sup.nRst = false ∨ s.sup.railsOut ≠ [] then StartCause.both { StartCause.none with rail := true } s.sup.cause else { StartCause.none with rail := true }) ∧ t.saf.held = true ∧ r ∈ t.sup.railsOut ∧
        t.faults = keptFaults s ∧ t.cat.params = [] ∧ t.flash = endedFlash s ∧ t.otp = s.otp ∧ t.ka = s.ka ∧ t.pending = s.pending) ∧
  (∀ (s : State) (r : Rail) (volts : Q),
   railOut r volts = false → r ∈ s.sup.railsOut → 
   Answers (exec (.railMonitorRelease r volts) s) fun t =>
        r ∉ t.sup.railsOut ∧ (∀ q, q ≠ r → (q ∈ t.sup.railsOut ↔ q ∈ s.sup.railsOut)) ∧
        t = { s with sup := { s.sup with railsOut := t.sup.railsOut, step := if t.sup.railsOut = [] ∧ s.sup.nRst = true then 3 else s.sup.step } })

/-- A bias shunt above 0.20 V ends the on-time of that switch alone; limiting for 1 ms stops bank A with 0x0015, every output of channels 0 to 12 off and no set left in ASC, bank B with 0x0016, the DCX stopped and channels 13 to 28 off; a feed above 5.8 V with nRST high takes the N9 from OFF to ACCESSION with only the POWER cause; KA in its range after a removal leaves a register that counts as failed, with 3 unlock failures and their delay, and LVD high; 70 to 90 edges in every window of 1 ms accept the crystal, start the tick counter at 0 and read SENIOR; the judgement with every declared secondary reporting leads to READY, with a class F4 fault active to SAFE, and one that does not report raises 0x0017 for its channel. -/
def Obligations.BiasAndPowerUp : Prop :=
  (∀ (s : State) (bank : Bank) (sw : Fin 2) (shuntVolts : Q),
   (match bank with | .a => s.sup.biasA | .b => s.sup.biasB) = true → 1 / 5 < shuntVolts → 
   Answers (exec (.biasCurrentLimit bank sw shuntVolts) s) fun t => (bank, sw) ∈ t.sup.biasCut ∧
        (∀ b n, b ≠ bank → ((b, n) ∈ t.sup.biasCut ↔ (b, n) ∈ s.sup.biasCut)) ∧ t = { s with sup := { s.sup with biasCut := t.sup.biasCut } }) ∧
  (∀ (s : State) (limitUs : Nat),
   1000 ≤ limitUs → s.sup.biasA = true → 
   Answers (exec (.biasBankStop .a limitUs) s) fun t => active 0x0015 noInst t = true ∧ (∀ c : Chan, c.val < 13 → (t.gd.ch.get c).out ≠ .on) ∧
        t.sup.biasA = false ∧ t.beyond = { s with sup := { s.sup with biasA := false, biasStopA := true } }.beyond ∧ ∀ x, (t.ss.get x).st < 2) ∧
  (∀ (s : State) (limitUs : Nat),
   1000 ≤ limitUs → s.sup.biasB = true → 
   Answers (exec (.biasBankStop .b limitUs) s) fun t => active 0x0016 noInst t = true ∧ t.lvc.dcx = 0 ∧ (∀ c : Chan, 13 ≤ c.val → c.val < 29 → (t.gd.ch.get c).out ≠ .on) ∧
        t.sup.biasB = false ∧ t.beyond = { s with sup := { s.sup with biasB := false, biasStopB := true } }.beyond) ∧
  (∀ (s : State) (f : Feed) (volts : Q),
   s.sys.mode = .off → 29 / 5 < volts → 
   Answers (exec (.powerUp f volts true) s) fun t => t.sys.mode = .accession ∧ t.sup.cause = { StartCause.none with power := true } ∧ t.sup.step = 1 ∧
        feedOf t f = { feedOf s f with present := true, mosfet := true, volts := volts } ∧ feedOf t f.other = feedOf s f.other ∧
        t.sup.lvd = s.sup.lvd ∧ t.flash = endedFlash s ∧ t.otp = s.otp ∧ t.ka = s.ka ∧ t.faults = keptFaults s ∧ t.cat.params = [] ∧ t.pending = s.pending) ∧
  (∀ (s : State) (kaVolts : Q),
   6 ≤ kaVolts → kaVolts ≤ 36 → 
   exec (.kaFirstApplication kaVolts) s = .next { s with ka := { valid := true, lostWrites := 0, unlockFails := 3, unlockDelay := true, startFail := none }, sup := { s.sup with lvd := true } }) ∧
  (∀ (s : State) (minEdges maxEdges windowUs : Nat) (seniorToGnd : Bool),
   s.sys.mode = .accession → s.sup.step < 4 → s.sup.nRst = true → s.sup.railsOut = [] → 70 ≤ minEdges → maxEdges ≤ 90 → 1000 ≤ windowUs → 
   exec (.crystalAccepted minEdges maxEdges windowUs seniorToGnd) s =
        .next { s with mer := { s.mer with xtalAcc := true, ct := 0, ns := 0, senior := seniorToGnd }, sup := { s.sup with step := 4 } }) ∧
  (∀ (s : State) (reports : List Handshake),
   s.cat.locked = true → s.sys.mode = .accession → 8 ≤ s.sup.step → (∀ c : Chan, c.val < 29 → s.chPresent c = true → (reports.any (handshakeOk s c)) = true) → (activeClass 4 s = true → s.inReset = false ∧ s.lks.dead = false) → 
   Answers (exec (.handshakeJudgement reports) s) fun t => t.sys.mode = (if activeClass 4 s then .safe else .ready) ∧ t.gd.hsFailed = [] ∧ Grows s t ∧ t.beyond = { s with sup := { s.sup with step := 9 } }.beyond) ∧
  (∀ (s : State) (reports : List Handshake) (c : Chan),
   s.cat.locked = true → s.sys.mode ≠ .accession ∨ 8 ≤ s.sup.step → c.val < 29 → s.chPresent c = true → (reports.any (handshakeOk s c)) = false → 
   Answers (exec (.handshakeJudgement reports) s) fun t => active 0x0017 c.val t = true ∧ c ∈ t.gd.hsFailed ∧ (t.gd.ch.get c).hsOk = false ∧ (s.sys.mode = .accession → activeClass 4 s = false → t.sys.mode = .ready) ∧ Grows s t)

/-- A low of 5 µs or more on nRST resets the N9 (mode ACCESSION, cause NRST beside that of a reset that still holds it; OTP, keep-alive register, LVD, the WAKE level, the supply faults whose condition stands and the flash kept, but for the last page of a descriptor write that has started, which lands) and nothing restarts until it rises; an SVC press of 50 ms to 8 s counts one acknowledgement, also after a refused one; one of 8 s is judged once: it resets when no Catalogue is loaded or the DC link and the speed are low and, with a loaded Catalogue and the DC link or the speed high, is refused with 0x001D; low for 30 s is stuck with 0x0018 until a release of 1 s; the WAKE level and the AC-present bit are reported and change nothing else. -/
def Obligations.ResetPins : Prop :=
  (∀ (s : State) (lowNs : Nat),
   s.sys.mode ≠ .ship → s.sys.mode ≠ .off → 5000 ≤ lowNs → 
   Answers (exec (.nrstReset lowNs) s) fun t => t.sys.mode = .accession ∧ t.sys.prev = s.sys.mode ∧ t.sup.nRst = false ∧ t.sup.cause = (if s.sup.nRst = false ∨ s.sup.railsOut ≠ [] then StartCause.both { StartCause.none with nrst := true } s.sup.cause else { StartCause.none with nrst := true }) ∧
        t.saf.held = true ∧ t.faults = keptFaults s ∧ t.cat.params = [] ∧ t.ops = { waiting := [], running := s.ops.running, orphan := s.ops.running.isSome } ∧ t.sup.lvd = s.sup.lvd ∧ t.sys.wake = s.sys.wake ∧ t.flash = endedFlash s ∧ t.otp = s.otp ∧ t.ka = s.ka ∧ t.pending = s.pending) ∧
  (∀ (s : State),
   s.sup.nRst = false → 
   exec .nrstRelease s = .next { s with sup := { s.sup with nRst := true, step := if s.sys.mode = .accession ∧ s.sup.railsOut = [] then 3 else s.sup.step } }) ∧
  (∀ (s : State) (pressMs : Nat),
   svcJudged s = true → s.sup.svc.armed = true → 50 ≤ pressMs → pressMs < 8000 → 
   exec (.svcAcknowledge pressMs) s = .next { s with sys := { s.sys with ackCnt := wrapInc 8 s.sys.ackCnt }, sup := { s.sup with svc := { s.sup.svc with asked := false, refused := false, low := false } } }) ∧
  (∀ (s : State) (pressMs : Nat),
   svcJudged s = true → s.sup.svc.armed = true → s.sup.svc.asked = false → 8000 ≤ pressMs → s.cat.locked = false ∨ hvOff s = true ∧ s.standstill = true → 
   Answers (exec (.svcResetRequest pressMs) s) fun t => t.sys.mode = .accession ∧ t.sup.cause = (if s.sup.nRst = false ∨ s.sup.railsOut ≠ [] then StartCause.both { StartCause.none with svcRst := true } s.sup.cause else { StartCause.none with svcRst := true }) ∧
        t.saf.held = true ∧ t.faults = keptFaults s ∧ t.cat.params = [] ∧ t.flash = endedFlash s ∧ t.otp = s.otp ∧ t.ka = s.ka) ∧
  (∀ (s : State) (pressMs : Nat),
   (s.sup.svc.asked = true → exec (.svcResetRequest pressMs) s = .next s)) ∧
  (∀ (s : State) (pressMs : Nat),
   svcJudged s = true → s.sup.svc.armed = true → s.sup.svc.asked = false → 8000 ≤ pressMs → s.cat.locked = true → hvOff s = false ∨ s.standstill = false → 
   Answers (exec (.svcResetRequest pressMs) s) fun t => active 0x001D noInst t = true ∧
        SameButFaults { s with sup := { s.sup with svc := { s.sup.svc with asked := true, refused := true, low := true } } } t) ∧
  (∀ (s : State) (lowMs : Nat),
   svcJudged s = true → 30000 ≤ lowMs → 
   Answers (exec (.svcStuck lowMs) s) fun t => active 0x0018 noInst t = true ∧ SameButFaults { s with sup := { s.sup with svc := { s.sup.svc with stuck := true, armed := false, low := true } } } t) ∧
  (∀ (s : State) (releasedMs : Nat),
   svcJudged s = true → 1000 ≤ releasedMs → 
   Answers (exec (.svcReleased1s releasedMs) s) fun t => active 0x0018 noInst t = false ∧
        SameButFaults { s with sup := { s.sup with svc := { armed := true, stuck := false, refused := false, asked := false, low := false } } } t) ∧
  (∀ (s : State) (level : Bool),
   exec (.wakeLevelChange level) s = .next { s with sys := { s.sys with wake := level } }) ∧
  (∀ (s : State) (rms1 rms2 rms3 : Q),
   exec (.acPresentChange rms1 rms2 rms3) s = .next { s with sup := { s.sup with acPresent := decide (85 < rms1 ∨ 85 < rms2 ∨ 85 < rms3) } })

/-- Waiting writes or an entry record longer than 1 s abandon the entry; feeds below 3.0 V within 500 ms of LVD low lead to SHIP with the volatile state lost and flash and keep-alive register kept; feeds that stay up for 500 ms end the entry with LVD high, the bias drive restarted, 0x0019, and each present feed conducting again but for one that its overvoltage keeps off beside a good one; feeds low for 100 ms arm the feed-rise wake; a source that qualifies is recorded and drives LVD high; a feed above 5.8 V with nRST high then leads to ACCESSION with the recorded causes and POWER; none within 500 ms leaves SHIP with no source recorded. -/
def Obligations.ShipMode : Prop :=
  (∀ (s : State) (elapsedMs : Nat),
   s.sup.ship = .writes ∨ s.sup.ship = .record → 1000 < elapsedMs → 
   exec (.shipWritesTimeout elapsedMs) s = .next { s with sup := { s.sup with ship := .none } }) ∧
  (∀ (s : State) (voltsA voltsB : Q) (elapsedMs : Nat),
   s.sup.ship = .falling → voltsA < 3 → voltsB < 3 → elapsedMs ≤ 500 → 
   Answers (exec (.shipFeedsDown voltsA voltsB elapsedMs) s) fun t => t.sys.mode = .ship ∧ t.sys.prev = s.sys.mode ∧ t.sup.ship = .ship ∧ t.sup.lvd = false ∧
        t.sup.hold = 0 ∧ t.sup.riseArmed = false ∧ t.faults = [] ∧ t.cat.params = [] ∧ t.ops = { waiting := [], running := none, orphan := false } ∧ t.flash = endedFlash s ∧ OtpStays s t ∧ t.ka = s.ka) ∧
  (∀ (s : State) (elapsedMs : Nat),
   s.sup.ship = .falling → 500 ≤ elapsedMs → 
   Answers (exec (.shipSwitchTimeout elapsedMs) s) fun t => active 0x0019 noInst t = true ∧
        SameButFaults { s with sup := { s.sup with ship := .none, lvd := true, ifaces := true, biasA := if s.xtalOk = true ∧ s.sup.holdup = false then !s.sup.biasStopA else s.sup.biasA, biasB := if s.xtalOk = true ∧ s.sup.holdup = false then !s.sup.biasStopB else s.sup.biasB, feedA := { s.sup.feedA with mosfet := s.sup.feedA.present && mayConduct s.sup.feedA s.sup.feedB }, feedB := { s.sup.feedB with mosfet := s.sup.feedB.present && mayConduct s.sup.feedB s.sup.feedA } } } t) ∧
  (∀ (s : State) (voltsA voltsB : Q) (heldMs : Nat),
   s.sup.ship = .ship → voltsA < 3 → voltsB < 3 → 100 ≤ heldMs → 
   exec (.feedRiseWakeArmed voltsA voltsB heldMs) s = .next { s with sup := { s.sup with riseArmed := true } }) ∧
  (∀ (s : State) (obs : WakeObs),
   s.sup.ship = .ship ∨ s.sup.ship = .waking → s.sys.mode = .ship → (100 ≤ obs.svcLowMs ∧ s.sup.wakes.wkSvc = false) ∨ (10 ≤ obs.wakeHighMs ∧ s.sup.wakes.wkWake = false) ∨ (obs.acPresent = true ∧ s.sup.wakes.wkAc = false) ∨
        (3 < obs.pilotVolts ∧ 1 ≤ obs.pilotMs ∧ s.sup.wakes.wkCp = false) ∨ (s.sup.riseArmed = true ∧ 29 / 5 < obs.feedVolts ∧ 1 ≤ obs.feedMs ∧ s.sup.wakes.wkFeed = false) → 
   exec (.wakeSourceQualified obs) s = .next { s with sup := { s.sup with wakes := wakeFlags s obs, lvd := true, ship := .waking, acPresent := s.sup.acPresent || obs.acPresent, svc := { s.sup.svc with low := decide (0 < obs.svcLowMs) } }, sys := { s.sys with wake := s.sys.wake || decide (0 < obs.wakeHighMs) } }) ∧
  (∀ (s : State) (f : Feed) (volts : Q),
   s.sup.ship = .waking → 29 / 5 < volts → 
   Answers (exec (.shipExit f volts true) s) fun t => t.sys.mode = .accession ∧ t.sup.cause = { s.sup.wakes with power := true } ∧ t.sup.ship = .none ∧
        feedOf t f = { feedOf s f with present := true, mosfet := true, volts := volts } ∧ t.sys.wake = s.sys.wake ∧ t.flash = endedFlash s ∧ t.otp = s.otp ∧ t.ka = s.ka ∧ t.cat.params = []) ∧
  (∀ (s : State) (elapsedMs : Nat),
   s.sup.ship = .waking → 500 ≤ elapsedMs → 
   exec (.shipWakeTimeout elapsedMs) s = .next { s with sup := { s.sup with ship := .ship, lvd := false, wakes := StartCause.none } }) ∧
  (∀ (s : State),
   classOf s 0x0019 noInst = 1)

/-- A waiting operation whose hold-up check passes on a measurement at most 10 µs old starts and is the one that runs; of several that wait the recheck starts the first that may start; nothing but the flash, the log's place in it and the operations is touched. A verified completion ends the operation: an OTP program sets exactly its bits in its word, a block erase of staging is followed by its first page and a page by the next, an erase of a descriptor copy by its pages, and the last page puts the waiting content into its copy and into force, with the erase for a change that came in the meantime behind it; one that a reset has outlived ends and nothing follows it; an OTP program whose verify fails raises 0x8017 and leaves its lowest bit 0 (which one, is the model's choice, log entry 22). A full log block is closed and the next one opened or erased first. BOOT_DESCRIPTOR_WRITE carries out the next operation of the descriptor write on its own check. -/
def Obligations.FlashOperations : Prop :=
  (∀ (s : State) (o : FlashOp) (holdVolts : Q) (ageUs : Nat),
   s.ops.running = none → (waitingOps s).contains o = true → ageUs ≤ 10 → startsOver s = false → isStagingOp o = false ∨ (waitingOps s).contains .logPage = false → bootMayStart s o = true → logPaused s o = false → holdOk s holdVolts o = true → 
   Answers (exec (.flashOperationStart o holdVolts ageUs) s) fun t => t.ops.running = some o ∧ t.sup.hold = holdVolts ∧
        t = { measureHold holdVolts s with flash := t.flash, log := t.log, ops := t.ops }) ∧
  (∀ (s : State) (o : FlashOp) (holdVolts : Q),
   s.ops.running = none → s.sup.holdup = false → (waitingOps s).find? (fun q => holdOk s holdVolts q && bootMayStart s q && !logPaused s q) = some o → 
   Answers (exec (.pendingOperationRecheck holdVolts) s) fun t => t.ops.running = some o ∧ t.sup.hold = holdVolts ∧
        t = { measureHold holdVolts s with flash := t.flash, log := t.log, ops := t.ops }) ∧
  (∀ (s : State) (o : FlashOp),
   s.ops.running = some o → s.ops.orphan = false → s.sup.ship ≠ .writes → s.sup.ship ≠ .record → s.sec.lcReset = false → (∀ w b, o ≠ .otpWord w b) → (∀ j, o ≠ .bootProgram j true) → 
   Answers (exec (.flashOperationComplete true) s) fun t => t = { s with ops := { waiting := t.ops.waiting, running := none, orphan := false } } ∧ (∀ q, q ∈ s.ops.waiting → q ∈ t.ops.waiting) ∧
        (o = .stageErase → .stagePage 0 ∈ t.ops.waiting) ∧ (∀ n, o = .stagePage n → n < 15 → .stagePage (n + 1) ∈ t.ops.waiting) ∧
        (∀ j, o = .bootErase j → s.cat.descDue.isSome = true → .bootProgram j false ∈ t.ops.waiting) ∧ (∀ j, o = .bootProgram j false → .bootProgram j true ∈ t.ops.waiting)) ∧
  (∀ (s : State) (w : Nat) (b : BitVec 64),
   s.ops.running = some (.otpWord w b) → s.ops.orphan = false → s.sup.ship ≠ .writes → s.sup.ship ≠ .record → s.sec.lcReset = false → 
   Answers (exec (.flashOperationComplete true) s) fun t => (∀ v, t.otp.get v = if v = w then s.otp.get w ||| b else s.otp.get v) ∧ (w = 5 → active 0x8015 noInst t = true) ∧ (w = 7 → active 0x8016 (Nat.log2 b.toNat / 4) t = true) ∧
        SameButFaults { s with ops := { s.ops with running := none, orphan := false }, otp := t.otp, freeIx := t.freeIx } t) ∧
  (∀ (s : State) (j : Fin 2) (d : BootDesc),
   s.ops.running = some (.bootProgram j true) → s.ops.orphan = false → s.sup.ship ≠ .writes → s.sup.ship ≠ .record → s.sec.lcReset = false → s.cat.descDue = some (j, d) → s.cat.descNext = none → 
   Answers (exec (.flashOperationComplete true) s) fun t => t.cat = { s.cat with desc := some d, descDue := none } ∧ t.flash = (if j = 0 then { s.flash with boot0 := some d } else { s.flash with boot1 := some d }) ∧
        t = { s with flash := t.flash, cat := t.cat, ops := { waiting := t.ops.waiting, running := none, orphan := false } }) ∧
  (∀ (s : State) (j : Fin 2) (d e : BootDesc),
   s.ops.running = some (.bootProgram j true) → s.ops.orphan = false → s.sup.ship ≠ .writes → s.sup.ship ≠ .record → s.sec.lcReset = false → s.cat.descDue = some (j, d) → s.cat.descNext = some e → 
   Answers (exec (.flashOperationComplete true) s) fun t => (∃ g, t.cat = { s.cat with desc := some d, descDue := some (descTarget t.flash, { e with gen := g }), descNext := none }) ∧ .bootErase (descTarget t.flash) ∈ t.ops.waiting ∧
        t.flash = (if j = 0 then { s.flash with boot0 := some d } else { s.flash with boot1 := some d }) ∧
        t = { s with flash := t.flash, cat := t.cat, ops := { waiting := t.ops.waiting, running := none, orphan := false } }) ∧
  (∀ (s : State) (o : FlashOp),
   s.ops.running = some o → s.ops.orphan = true → (∀ w b, o ≠ .otpWord w b) → 
   exec (.flashOperationComplete true) s = .next { s with ops := { s.ops with running := none, orphan := false } }) ∧
  (∀ (s : State) (w : Nat) (b : BitVec 64),
   s.ops.running = some (.otpWord w b) → s.sup.ship ≠ .writes → s.sup.ship ≠ .record → s.sec.lcReset = false → 
   Answers (exec (.flashOperationComplete false) s) fun t => active 0x8017 noInst t = true ∧ t.otp.get w = s.otp.get w ||| (b &&& ~~~(lowBit b)) ∧ (∀ v, v ≠ w → t.otp.get v = s.otp.get v) ∧
        SameButFaults { s with ops := { s.ops with running := none, orphan := false }, otp := t.otp } t) ∧
  (∀ (s : State),
   s.log.ready = true → 127 ≤ s.log.nextSlot → 
   Answers (exec .logBlockClose s) fun t => t = { s with ops := { s.ops with waiting := t.ops.waiting } } ∧
        (∀ b, logAt s (physOf s s.log.openSeq) = some b → b.closed = false → .logClose (physOf s s.log.openSeq) ∈ t.ops.waiting) ∧
        (if s.log.nextErased then .logOpen (physOf s (nextSeq s)) else .logErase (physOf s (nextSeq s))) ∈ t.ops.waiting) ∧
  (∀ (s : State) (k : Fin 2) (d : BootDesc) (holdVolts : Q),
   s.cat.descDue = some (k, d) → s.ops.running = none → startsOver s = false → otpWaits s = false → s.flash.boot0.isSome = true ∨ s.flash.boot1.isSome = true ∨ s.sup.step = 9 ∨ s.cat.recovery = true → s.sup.ship ≠ .writes → s.sup.ship ≠ .record → s.ops.waiting.find? isBootOp = some (.bootErase k) → holdOk s holdVolts (.bootErase k) = true → 
   Answers (exec (.bootDescriptorWrite holdVolts true) s) fun t => t.flash = (if k = 0 then { s.flash with boot0 := none } else { s.flash with boot1 := none }) ∧ .bootProgram k false ∈ t.ops.waiting ∧
        t = { measureHold holdVolts s with flash := t.flash, ops := { waiting := t.ops.waiting, running := none, orphan := false } }) ∧
  (∀ (s : State) (k : Fin 2) (d : BootDesc) (holdVolts : Q),
   s.cat.descDue = some (k, d) → s.ops.running = none → startsOver s = false → otpWaits s = false → s.flash.boot0.isSome = true ∨ s.flash.boot1.isSome = true ∨ s.sup.step = 9 ∨ s.cat.recovery = true → s.sup.ship ≠ .writes → s.sup.ship ≠ .record → s.cat.descNext = none → s.ops.waiting.find? isBootOp = some (.bootProgram k true) → holdOk s holdVolts (.bootProgram k true) = true → 
   Answers (exec (.bootDescriptorWrite holdVolts true) s) fun t => t.cat = { s.cat with desc := some d, descDue := none } ∧
        t.flash = (if k = 0 then { s.flash with boot0 := some d } else { s.flash with boot1 := some d }) ∧
        t = { measureHold holdVolts s with flash := t.flash, cat := t.cat, ops := { waiting := t.ops.waiting, running := none, orphan := false } })

/-- On a served path in the programming session with level 3 unlocked and staging enabled: RequestDownload of whole blocks inside a region opens it at its first block with sequence counter 1 and answers 74 20 10 02; TransferData with the due counter, 4,096 bytes and a matching CRC takes the block, marks the slot STAGING once, queues its erase and answers nothing yet; the block written and verified counts on and answers 76 with its counter; RequestTransferExit closes the region; 30 s without a request end the session with 0x8008 and drop what it had waiting. Nothing else changes. -/
def Obligations.StagingTransfer : Prop :=
  (∀ (s : State) (p : UPath) (addr size : Nat),
   s.udsServed p = true → s.udsNrc p 0x34 [2] 3 = 0 → s.svcEn 3 = true → stageMode s = true → stageOther s (.uds p) = false → s.life < 3 → s.cat.stage.region = 0 → addr % 256 = 1 ∨ addr % 256 = 2 → 0 < size → size % 4096 = 0 → addr / 65536 % 65536 + size / 4096 ≤ regionBlocks (addr % 256) → 
   exec (.requestDownload p addr size) s = .next { s with uds := { s.uds with tester := some p }, cat := { s.cat with stage := { src := .uds p, region := addr % 256, next := addr / 65536 % 65536, left := size / 4096, block := none, seq := 1, marked := s.cat.stage.marked, last := addr % 256 } }, out := .uds p (s.udsResp p) [0x74, 0x20, 0x10, 0x02] :: s.out }) ∧
  (∀ (s : State) (p : UPath) (data : List Byte),
   s.udsServed p = true → s.udsNrc p 0x36 [2] 3 = 0 → s.svcEn 3 = true → s.cat.stage.src = .uds p → s.cat.stage.region ≠ 0 → s.cat.stage.left ≠ 0 → s.cat.stage.block = none → data.length = 4096 → uAt data 4092 4 = crc32 (data.take 4092) → 
   Answers (exec (.transferData p s.cat.stage.seq data) s) fun t =>
        t.cat.stage = { s.cat.stage with block := some (s.cat.stage.next, data.take 4092), marked := true } ∧ .stageErase ∈ t.ops.waiting ∧
        (s.cat.stage.marked = true → t.cat = { s.cat with stage := t.cat.stage }) ∧ (s.cat.stage.marked = false → slotState t s.cat.slotRun.other = 1) ∧
        t = { s with uds := { s.uds with tester := some p }, cat := { s.cat with stage := t.cat.stage, descDue := t.cat.descDue, descNext := t.cat.descNext }, ops := { s.ops with waiting := t.ops.waiting } }) ∧
  (∀ (s : State) (p : UPath),
   s.udsServed p = true → s.udsNrc p 0x37 [2] 3 = 0 → s.svcEn 3 = true → s.cat.stage.src = .uds p → s.cat.stage.region ≠ 0 → s.cat.stage.block = none → 
   exec (.requestTransferExit p) s = .next { s with uds := { s.uds with tester := some p }, cat := { s.cat with stage := { s.cat.stage with region := 0 } }, out := .uds p (s.udsResp p) [0x77] :: s.out }) ∧
  (∀ (s : State) (p : UPath) (k : Nat) (d : List Byte),
   s.cat.stage.src = .uds p → s.cat.stage.block = some (k, d) → stageIdle s = true → s.udsServed p = true → 
   Answers (exec (.stagingBlockWritten true) s) fun t =>
        t.cat.stage = { s.cat.stage with block := none, next := s.cat.stage.next + 1, left := s.cat.stage.left - 1, seq := (s.cat.stage.seq + 1) % 256 } ∧
        (s.cat.stage.region = 1 ∨ s.cat.stage.region = 2 → blkAt (t.flash.region s.cat.slotRun.other s.cat.stage.region) k = some { data := d, crcGood := true }) ∧
        t = { s with flash := t.flash, cat := { s.cat with stage := t.cat.stage }, out := .uds p (s.udsResp p) [0x76, BitVec.ofNat 8 s.cat.stage.seq] :: s.out }) ∧
  (∀ (s : State) (idleS : Nat),
   s.cat.stage.src ≠ .none → 30 ≤ idleS → s.sup.ship ≠ .writes → s.sup.ship ≠ .record → 
   Answers (exec (.stagingSessionTimeout idleS) s) fun t => active 0x8008 noInst t = true ∧ t.cat.stage = { noStage with last := s.cat.stage.last } ∧ (∀ o, o ∈ t.ops.waiting ↔ o ∈ s.ops.waiting ∧ isStagingOp o = false) ∧
        SameButFaults { s with cat := { s.cat with stage := { noStage with last := s.cat.stage.last } }, ops := { s.ops with waiting := t.ops.waiting } } t)

/-- Accession, from step 5 with the start-up check passed and the first slot of the order passing steps 3 to 8, ends with that slot's records, the CRCs of their loaded copies and its maps loaded and locked, result 1, every pair running, the log ready, and flash and OTP unchanged. A write to the parameter store or the map store once the Catalogue is locked, or to the code region once the firmware is, is blocked with 0x8006 and changes no byte; before the lock an aligned word of the map store takes the four bytes, lowest first, and no other byte changes. Loaded copies, of the parameters and of the maps, whose CRCs fit change nothing; an upset that breaks one raises 0x8007. -/
def Obligations.LoadedStores : Prop :=
  (∀ (s : State) (x : AccIn) (sl : Slot) (c : Loaded),
   s.sys.mode = .accession → 5 ≤ s.sup.step → s.sup.step < 8 → s.lks.dead = false → startCheck x.eccReads x.defects = none → (slotOrder (newestDesc s.flash)).head? = some sl → (trySlot s sl (fwOf x sl) (sigOf x sl) x.readFails).1 = .ok c → sl ∉ x.loadBad → 
   Answers (exec (.accession x) s) fun t => t.cat.locked = true ∧ t.cat.result = 1 ∧ t.cat.slotRun = sl ∧ t.cat.recovery = false ∧ t.cat.params = c.recs ∧
        t.cat.crcs = loadedCrcs (mapCells c.recs) c.recs ∧ t.cat.map = mapCells c.recs ∧ t.cat.oemKey = c.oemKey ∧ t.cat.arb = c.arb ∧ t.sup.step = 8 ∧ t.log.ready = true ∧
        (∀ p, (t.lks.pairs.get p).st = 1) ∧ t.flash = s.flash ∧ t.otp = s.otp) ∧
  (∀ (s : State) (r : StoreRegion) (addr value : Nat),
   (r = .code ∧ s.cat.codeLocked = true) ∨ (r ≠ .code ∧ s.cat.locked = true) → 
   Answers (exec (.lockedStoreWrite r addr value) s) fun t => active 0x8006 noInst t = true ∧ t.cat = s.cat ∧ t.beyond = s.beyond) ∧
  (∀ (s : State) (addr value : Nat),
   s.cat.locked = false → 0x51000000 ≤ addr → addr < 0x51040000 → addr % 4 = 0 → s.mapOk → 
   Answers (exec (.lockedStoreWrite .map addr value) s) fun t => t.mapOk ∧ (∀ k, k < 4 → mapByte t.cat.map (addr - 0x51000000 + k) = value / 256 ^ k % 256) ∧
        (∀ b, b < addr - 0x51000000 ∨ addr - 0x51000000 + 4 ≤ b → mapByte t.cat.map b = mapByte s.cat.map b) ∧ t = { s with cat := { s.cat with map := t.cat.map } }) ∧
  (∀ (s : State) (upset : List (Nat × Nat)) (r : List Rec × List Host.Cell),
   s.cat.locked = true → (s.lks.pairs.get .ganymede).st = 1 → r = upset.foldl (fun r u => upsetStore r.1 r.2 u) (s.cat.params, s.cat.map) → loadedCrcs r.2 r.1 = s.cat.crcs → 
   exec (.loadedStoreCrcCheck upset) s = .next { s with cat := { s.cat with params := r.1, map := r.2 } }) ∧
  (∀ (s : State) (upset : List (Nat × Nat)) (r : List Rec × List Host.Cell),
   s.cat.locked = true → (s.lks.pairs.get .ganymede).st = 1 → r = upset.foldl (fun r u => upsetStore r.1 r.2 u) (s.cat.params, s.cat.map) → loadedCrcs r.2 r.1 ≠ s.cat.crcs → 
   Answers (exec (.loadedStoreCrcCheck upset) s) fun t => active 0x8007 noInst t = true ∧
        t.cat = { s.cat with params := r.1, map := r.2 } ∧ t.beyond = { s with cat := t.cat }.beyond)

/-- A staging routine that access and its own conditions allow answers 71 01 with its identifier and result, keeps the result, and sets the slot's next descriptor state: a check that passes makes the inactive slot STAGED and ends the session (the end is the model's choice, log entry 43), a commit makes it TRIAL, a confirm makes the running slot CONFIRMED and queues the counter's OTP programs, a reject makes it BAD. After READY, with a CONFIRMED slot running, the counter one behind takes exactly one more bit, and a revocation sets the four bits of its slot with 0x8016, each on its own measurement of HOLD; no other OTP word changes. -/
def Obligations.StagingRoutines : Prop :=
  (∀ (s : State) (p : UPath) (fw : FwFacts) (sigOk : Bool) (readFails : List ReadFail) (c : Loaded),
   s.udsServed p = true → s.routineNrc p 0xF100 = 0 → stageRoutineOk (.uds p) 0xF100 s = true → s.sup.ship ≠ .writes → s.sup.ship ≠ .record → (trySlot s s.cat.slotRun.other fw sigOk readFails).1 = .ok c → 
   Answers (exec (.stageCheck p fw sigOk readFails) s) fun t => slotState t s.cat.slotRun.other = 2 ∧ t.cat.stage = { noStage with last := s.cat.stage.last } ∧ t.out = .uds p (s.udsResp p) [0x71, 0x01, 0xF1, 0x00, 0x01] :: s.out ∧
        (0xF100, [1]) ∈ t.uds.results ∧ SameButFaults { s with uds := { s.uds with tester := t.uds.tester, results := t.uds.results }, sec := { s.sec with ops := t.sec.ops }, cat := { s.cat with stage := { noStage with last := s.cat.stage.last }, descDue := t.cat.descDue, descNext := t.cat.descNext }, ops := { s.ops with waiting := t.ops.waiting }, out := t.out } t) ∧
  (∀ (s : State) (p : UPath),
   s.udsServed p = true → s.routineNrc p 0xF101 = 0 → stageRoutineOk (.uds p) 0xF101 s = true → 
   Answers (exec (.stageCommit p) s) fun t => slotState t s.cat.slotRun.other = 3 ∧ (0xF101, []) ∈ t.uds.results ∧
        t = { s with uds := { s.uds with tester := some p, results := t.uds.results }, cat := { s.cat with descDue := t.cat.descDue, descNext := t.cat.descNext }, ops := { s.ops with waiting := t.ops.waiting }, out := .uds p (s.udsResp p) [0x71, 0x01, 0xF1, 0x01] :: s.out }) ∧
  (∀ (s : State) (p : UPath),
   s.udsServed p = true → s.routineNrc p 0xF102 = 0 → stageRoutineOk (.uds p) 0xF102 s = true → 
   Answers (exec (.stageConfirm p) s) fun t => slotState t s.cat.slotRun = 4 ∧ ((t.cat.descNext.or (t.cat.descDue.map (·.2))).map (·.pref)) = some s.cat.slotRun ∧
        (∀ o ∈ raiseOps (slotArb s - s.arbCount) (s.otp.get 6), o ∈ t.ops.waiting) ∧ (0xF102, []) ∈ t.uds.results ∧
        t = { s with uds := { s.uds with tester := some p, results := t.uds.results }, cat := { s.cat with descDue := t.cat.descDue, descNext := t.cat.descNext }, ops := { s.ops with waiting := t.ops.waiting }, out := .uds p (s.udsResp p) [0x71, 0x01, 0xF1, 0x02] :: s.out }) ∧
  (∀ (s : State) (p : UPath),
   s.udsServed p = true → s.routineNrc p 0xF103 = 0 → stageRoutineOk (.uds p) 0xF103 s = true → 
   Answers (exec (.stageReject p) s) fun t => slotState t s.cat.slotRun = 5 ∧ (0xF103, []) ∈ t.uds.results ∧
        t = { s with uds := { s.uds with tester := some p, results := t.uds.results }, cat := { s.cat with descDue := t.cat.descDue, descNext := t.cat.descNext }, ops := { s.ops with waiting := t.ops.waiting }, out := .uds p (s.udsResp p) [0x71, 0x01, 0xF1, 0x03] :: s.out }) ∧
  (∀ (s : State) (v : Q) (holdVolts : List Q) (entropyOk : Bool),
   s.cat.locked = true → s.sys.mode = .ready ∨ s.sys.mode = .convert ∨ s.sys.mode = .drive ∨ s.sys.mode = .charge ∨ s.sys.mode = .safe → slotInForce s s.cat.slotRun = 4 → s.ops.running = none → s.sup.step = 9 → otpWaits s = false → startsOver s = false → holdOk s v (.otpWord 6 1) = true → s.life ≠ 0 → slotArb s = s.arbCount + 1 → s.pu 0xC0 0 64 = 0 → s.pu 0xC0 0 68 = 0 → 
   Answers (exec (.postReadyOtpOperations (v :: holdVolts) entropyOk 0) s) fun t => t.otp.get 6 = s.otp.get 6 ||| lowZero (s.otp.get 6) ∧ (∀ w, w ≠ 6 → t.otp.get w = s.otp.get w) ∧
        SameButFaults { measureHold v s with otp := t.otp, freeIx := s.freeIx + 1 } t) ∧
  (∀ (s : State) (v : Q) (holdVolts : List Q) (entropyOk : Bool),
   s.cat.locked = true → s.sys.mode = .ready ∨ s.sys.mode = .convert ∨ s.sys.mode = .drive ∨ s.sys.mode = .charge ∨ s.sys.mode = .safe → slotInForce s s.cat.slotRun = 4 → s.ops.running = none → s.sup.step = 9 → otpWaits s = false → startsOver s = false → holdOk s v (.otpWord 6 1) = true → s.life ≠ 0 → slotArb s ≤ s.arbCount → s.pu 0xC0 0 64 = 1 → s.pu 0xC0 0 68 = 0 → s.revoked 0 = false → 
   Answers (exec (.postReadyOtpOperations (v :: holdVolts) entropyOk 0) s) fun t => t.otp.get 7 = s.otp.get 7 ||| 15 ∧ (∀ w, w ≠ 7 → t.otp.get w = s.otp.get w) ∧ active 0x8016 0 t = true ∧
        SameButFaults { measureHold v s with otp := t.otp } t)

/-- A measurement with all 16 counts in range fills the shadow table with codes at most one element from the codes in use, one out of range discards it, and the first one puts its codes straight into use and, with a feed, starts the bias drive of the banks that no limit has stopped; the swap takes the whole shadow table into use and clears the run of missed periods; the fourth missed period raises 0x0802, the twentieth 0x0803 and the third discarded one 0x0804; a window outside 70 to 90 periods latches the loss of the crystal, raises 0x0801 and stops the bias drive and the DCX, with every channel from 0 to 28 off and no set left in ASC. -/
def Obligations.MeridianCalibration : Prop :=
  (∀ (s : State) (counts : List Nat),
   s.xtalOk = true → s.mer.firstCal = true → counts.length = 16 → (∀ c ∈ counts, 300 ≤ c ∧ c ≤ 480) → 
   Answers (exec (.calibrationMeasurement counts) s) fun t => (∃ l, t.mer.shadow = some (l, counts.foldl (· + ·) 0) ∧ l.length = min s.mer.taps.length 256 ∧
        ∀ (j x y : Nat), s.mer.taps[j]? = some x → l[j]? = some y → y ≤ x + 1 ∧ x ≤ y + 1 ∧
          (x ≤ roundN ((j * counts.foldl (· + ·) 0 : Nat) / 4096 : Q) + 1 → roundN ((j * counts.foldl (· + ·) 0 : Nat) / 4096 : Q) ≤ x + 1 → y = roundN ((j * counts.foldl (· + ·) 0 : Nat) / 4096 : Q))) ∧
        t = { s with mer := { s.mer with shadow := t.mer.shadow, shadowLim := t.mer.shadowLim, discarded := false, discRun := 0 } }) ∧
  (∀ (s : State) (counts : List Nat) (c : Nat),
   s.xtalOk = true → c ∈ counts → c < 300 ∨ 480 < c → 
   exec (.calibrationMeasurement counts) s = .next { s with mer := { s.mer with shadow := none, shadowLim := false, discarded := true } }) ∧
  (∀ (s : State) (counts : List Nat),
   s.xtalOk = true → s.mer.firstCal = false → counts.length = 16 → (∀ c ∈ counts, 300 ≤ c ∧ c ≤ 480) → s.sup.step = 4 → 
   exec (.calibrationMeasurement counts) s = .next { s with mer := { s.mer with taps := (List.range 256).map (fun j => roundN ((j * counts.foldl (· + ·) 0 : Nat) / 4096 : Q)), ne := counts.foldl (· + ·) 0, firstCal := true, discarded := false, discRun := 0 }, sup := { s.sup with step := 6, biasA := if s.sup.holdup = false then !s.sup.biasStopA else s.sup.biasA, biasB := if s.sup.holdup = false then !s.sup.biasStopB else s.sup.biasB } }) ∧
  (∀ (s : State) (tick ne : Nat) (codes : List Nat),
   s.mer.shadow = some (codes, ne) → s.xtalOk = true → 2000 ≤ tick → tick < 4000 → 
   Answers (exec (.tapSwap tick true) s) fun t => t.mer.taps = codes ∧ t.mer.ne = ne ∧ t.mer.shadow = none ∧ t.mer.missRun = 0 ∧ t.mer.swaps = (s.mer.swaps + 1) % 2 ^ 16 ∧
        t.mer.limited = (if s.mer.shadowLim then min (s.mer.limited + 1) (2 ^ 16 - 1) else s.mer.limited) ∧
        t = { s with mer := { s.mer with taps := t.mer.taps, ne := t.mer.ne, shadow := t.mer.shadow, shadowLim := false, missRun := t.mer.missRun, swaps := t.mer.swaps, limited := t.mer.limited } }) ∧
  (∀ (s : State),
   s.xtalOk = true → s.mer.missRun ≠ 19 → ¬(s.mer.discarded = true ∧ s.mer.discRun = 2) → 
   Answers (exec .calibrationMissed s) fun t => (s.mer.missRun = 3 → active 0x0802 noInst t = true) ∧ (s.mer.missRun ≠ 3 → t.faults = s.faults) ∧
        SameButFaults { s with mer := { s.mer with missRun := min (s.mer.missRun + 1) 255, discRun := (if s.mer.discarded then s.mer.discRun + 1 else 0), discarded := false, shadow := none, shadowLim := false } } t) ∧
  (∀ (s : State),
   s.xtalOk = true → s.mer.missRun = 19 ∨ (s.mer.discarded = true ∧ s.mer.discRun = 2) → 
   Answers (exec .calibrationMissed s) fun t => (s.mer.missRun = 19 → active 0x0803 noInst t = true) ∧ (s.mer.discarded = true → s.mer.discRun = 2 → active 0x0804 noInst t = true) ∧
        t.beyond = { s with mer := { s.mer with missRun := min (s.mer.missRun + 1) 255, discRun := (if s.mer.discarded then s.mer.discRun + 1 else 0), discarded := false, shadow := none, shadowLim := false } }.beyond) ∧
  (∀ (s : State) (edges : Nat),
   s.xtalOk = true → edges < 70 ∨ 90 < edges → 
   Answers (exec (.crystalLoss edges) s) fun t => active 0x0801 noInst t = true ∧ t.xtalOk = false ∧ t.sup.biasA = false ∧ t.sup.biasB = false ∧ t.lvc.dcx = 0 ∧ (∀ c : Chan, c.val < 29 → (t.gd.ch.get c).out ≠ .on) ∧ (∀ x, (t.ss.get x).st < 2) ∧ Grows s t ∧
        t.beyond = { s with saf := { s.saf with xtalLatch := true } }.beyond) ∧
  (∀ (s : State),
   classOf s 0x0802 noInst = 1 ∧ classOf s 0x0803 noInst = 4 ∧ classOf s 0x0804 noInst = 4)

/-- A latch takes the whole value set that was written before it, after the minimum-pulse steps, and nothing of any other group, and the first latch of a set that started from its safe state ends that state unless an overvoltage holds it; with nothing written it repeats the set and notes the late update; in MODE 2 each offset moves by at most a quarter of the period towards its value along the shorter way around the period, from the second latch on; a group that may start starts at PERIOD_INIT, group 1 with ANCHOR 2 at the period and SHIFT of group 0, with every value 0, nothing pending, the low sides of the legs whose bootstrap reads low commanded on for the 20 µs of the pre-charge (800 coarse ticks), and, but for these and for a set in ASC, every output off; a group stop turns every output of the group off but those of a set in ASC, and latches nothing more; a stop of group 3 or 4 stops both charger stages and opens S2. That group 1 keeps its own period where group 0 has none is the model's choice (log entry 44). -/
def Obligations.PwmGroups : Prop :=
  (∀ (s : State) (g : Grp) (aux : Q),
   (s.pwm.get g).running = true → s.trimPending g = false → (s.pwm.get g).preLeft = 0 → g ≠ 2 ∧ g ≠ 8 ∧ g ≠ 9 → s.pu 0x20 g 0 = 0 → (s.pwm.get g).rising = true ∨ (s.pu 0x20 g 40 = 0 ∧ (s.pwm.get g).reqPeriod = none) → 
   Answers (exec (.pwmLatch g aux) s) fun t =>
        (t.pwm.get g).e = zipLegs (minPulseHalf (!(s.pwm.get g).rising) (s.pu 0x20 g 24 + max (s.pu 0x20 g 16) (s.pu 0x20 g 20)) ((s.pwm.get g).period / 2)) (s.pwm.get g).e (((s.pwm.get g).next.getD (s.pwm.get g).e).map (fun e => min e ((s.pwm.get g).period / 2))) ∧
        (t.pwm.get g).period = (s.pwm.get g).period ∧ (t.pwm.get g).ePrev = (s.pwm.get g).e ∧ (t.pwm.get g).next = none ∧ (t.pwm.get g).rising = !(s.pwm.get g).rising ∧ (t.pwm.get g).lateLast = (s.pwm.get g).next.isNone ∧
        (t.pwm.get g).latched = ((s.pwm.get g).latched || (s.pwm.get g).next.isSome) ∧ (t.pwm.get g).running = true ∧
        (s.saf.ovHold = false → ∀ x, grpSet g = some x → (t.ss.get x).st = 0) ∧ (s.saf.ovHold = true → t.ss = s.ss) ∧ (∀ x, grpSet g ≠ some x → t.ss.get x = s.ss.get x) ∧
        (∀ k, k ≠ g → t.pwm.get k = s.pwm.get k) ∧ t = { s with pwm := t.pwm, ss := t.ss }) ∧
  (∀ (s : State) (g : Grp) (aux : Q),
   (s.pwm.get g).running = true → s.trimPending g = false → (s.pwm.get g).preLeft = 0 → g ≠ 2 ∧ g ≠ 8 ∧ g ≠ 9 → s.pu 0x20 g 0 = 1 → s.pu 0x20 g 40 = 0 → (s.pwm.get g).reqPeriod = none → 
   Answers (exec (.pwmLatch g aux) s) fun t =>
        (t.pwm.get g).e = zipLegs (minPulseEdge (s.pu 0x20 g 24 + max (s.pu 0x20 g 16) (s.pu 0x20 g 20)) (s.pwm.get g).period) (s.pwm.get g).e (((s.pwm.get g).next.getD (s.pwm.get g).e).map (fun e => min e (s.pwm.get g).period)) ∧
        (t.pwm.get g).period = (s.pwm.get g).period ∧ (t.pwm.get g).ePrev = (s.pwm.get g).e ∧ (t.pwm.get g).next = none ∧ (t.pwm.get g).lateLast = (s.pwm.get g).next.isNone ∧
        (∀ k, k ≠ g → t.pwm.get k = s.pwm.get k) ∧ t = { s with pwm := t.pwm }) ∧
  (∀ (s : State) (g : Grp) (aux : Q),
   (s.pwm.get g).running = true → s.trimPending g = false → (s.pwm.get g).preLeft = 0 → g ≠ 2 ∧ g ≠ 8 ∧ g ≠ 9 → s.pu 0x20 g 0 = 2 → s.pu 0x20 g 40 = 0 → (s.pwm.get g).reqPeriod = none → 
   exec (.pwmLatch g aux) s = .next { s with pwm := s.pwm.put g { s.pwm.get g with target := (s.pwm.get g).next.getD (s.pwm.get g).target, e := if (s.pwm.get g).latched then zipLegs (stepPhi (s.pwm.get g).period) (s.pwm.get g).e ((s.pwm.get g).next.getD (s.pwm.get g).target) else (s.pwm.get g).next.getD (s.pwm.get g).target, ePrev := (s.pwm.get g).e, next := none, lateLast := (s.pwm.get g).next.isNone, latched := (s.pwm.get g).latched || (s.pwm.get g).next.isSome, first := !(s.pwm.get g).latched, spanPrev := (s.pwm.get g).span, span := (((s.pwm.get g).period : Int) + (s.pwm.get g).stretch).toNat } }) ∧
  (∀ (s : State) (g : Grp) (bootstrap : List (Chan × Q)),
   s.grpPresent g = true → (s.pwm.get g).running = false → s.pu 0x20 g 40 ≠ 1 → s.grpMayStart g = true → 
   Answers (exec (.groupStart g bootstrap) s) fun t => (t.pwm.get g).running = true ∧ (t.pwm.get g).latched = false ∧ (∀ e ∈ (t.pwm.get g).e, e = 0) ∧ (t.pwm.get g).next = none ∧
        (t.pwm.get g).period = (if g = 1 ∧ s.pu 0x20 g 40 = 2 ∧ (s.pwm.get 0).period ≠ 0 then (s.pwm.get 0).period else s.pu 0x20 g 12) ∧
        (t.pwm.get g).phase = (if g = 1 ∧ s.pu 0x20 g 40 = 2 then shiftTarget s (t.pwm.get g).period else 0) ∧
        (t.pwm.get g).precharged = (grpChans g).filter (bootLow (readBoot bootstrap s)) ∧ (t.pwm.get g).preLeft = (if (t.pwm.get g).precharged = [] then 0 else 800) ∧ (∀ c ∈ (t.pwm.get g).precharged, s.chPresent (legLow c) = true → (t.gd.ch.get (legLow c)).cmd = true) ∧
        ((∀ x, grpSet g = some x → (s.ss.get x).st < 2) → ∀ c ∈ grpChans g, isHighSide c = true ∨ (t.pwm.get g).precharged = [] → (t.gd.ch.get c).out ≠ .on) ∧ (∀ c, c ∉ grpChans g → t.gd.ch.get c = (readBoot bootstrap s).gd.ch.get c) ∧
        (∀ k, k ≠ g → t.pwm.get k = s.pwm.get k) ∧
        (grpSet g = none → t = { s with pwm := t.pwm, gd := t.gd }) ∧ t = { s with pwm := t.pwm, gd := t.gd, orr := t.orr, octl := t.octl, oview := t.oview, tm := t.tm }) ∧
  (∀ (s : State) (g : Grp),
   g ≠ 3 → g ≠ 4 → 
   Answers (exec (.groupStop g) s) fun t => (t.pwm.get g).running = false ∧ (t.pwm.get g).latched = false ∧ (t.pwm.get g).next = none ∧ ((∀ x, grpSet g = some x → (s.ss.get x).st < 2) → ∀ c ∈ grpChans g, (t.gd.ch.get c).out ≠ .on) ∧
        ((∃ x, grpSet g = some x ∧ 2 ≤ (s.ss.get x).st) → t.gd = s.gd) ∧ (∀ c, c ∉ grpChans g → t.gd.ch.get c = s.gd.ch.get c) ∧
        t.dc = (if g = 2 then { s.dc with bcActive := false, bcDuty := 0 } else s.dc) ∧ (∀ a, t.act.get a = { s.act.get a with comm := (t.act.get a).comm }) ∧ (g ≠ 8 → g ≠ 9 → t.act = s.act) ∧
        (∀ k, k ≠ g → t.pwm.get k = s.pwm.get k) ∧ t = { s with pwm := t.pwm, orr := t.orr, oview := t.oview, gd := t.gd, dc := t.dc, act := t.act }) ∧
  (∀ (s : State) (g : Grp),
   g = 3 ∨ g = 4 → 
   Answers (exec (.groupStop g) s) fun t => (t.pwm.get 3).running = false ∧ (t.pwm.get 4).running = false ∧ t.chg = { s.chg with s2 := false } ∧
        ((s.pwm.get g).running = true → t.pfc.st = 5 ∧ t.dab.st = 0 ∧ ∀ c, c ∈ grpChans 3 ∨ c ∈ grpChans 4 → (t.gd.ch.get c).out ≠ .on) ∧
        (∀ c, c ∉ grpChans 3 → c ∉ grpChans 4 → t.gd.ch.get c = s.gd.ch.get c) ∧ (∀ k, k ≠ 3 → k ≠ 4 → t.pwm.get k = s.pwm.get k) ∧ t = { s with pwm := t.pwm, gd := t.gd, chg := t.chg, pfc := t.pfc, dab := t.dab }) ∧
  (∀ (s : State) (g : Grp) (requestNs startNs : Q) (bootstrap : List (Chan × Q)),
   s.grpPresent g = true → (s.pwm.get g).running = false → s.pu 0x20 g 40 = 1 → s.grpMayStart g = true → s.fabLocked = true → isAnchorInstant g startNs s = true → requestNs + (s.pu 0x20 g 12 : Q) * 25 / 256 ≤ startNs → startNs < requestNs + 2 * ((s.pu 0x20 g 12 : Q) * 25 / 256) → 
   Answers (exec (.anchoredGroupStart g requestNs startNs bootstrap) s) fun t => (t.pwm.get g).running = true ∧ (t.pwm.get g).anchLock = true ∧ (t.pwm.get g).latched = false ∧ (t.pwm.get g).period = s.pu 0x20 g 12 ∧
        (t.pwm.get g).precharged = (grpChans g).filter (bootLow (readBoot bootstrap s)) ∧ (t.pwm.get g).preLeft = (if (t.pwm.get g).precharged = [] then 0 else 800) ∧ 
        ((∀ x, grpSet g = some x → (s.ss.get x).st < 2) → ∀ c ∈ grpChans g, isHighSide c = true ∨ (t.pwm.get g).precharged = [] → (t.gd.ch.get c).out ≠ .on) ∧ (∀ c, c ∉ grpChans g → t.gd.ch.get c = (readBoot bootstrap s).gd.ch.get c) ∧
        (∀ k, k ≠ g → t.pwm.get k = s.pwm.get k) ∧ t = { s with pwm := t.pwm, gd := t.gd, orr := t.orr, octl := t.octl, oview := t.oview, tm := t.tm })

/-- At an enabled trigger the codes of a running set are the gained samples less their offsets, saturated to 24 bits, and nothing else changes while no check fails; a trigger that TRIG_EN does not enable takes nothing; a phase value above its limit raises 0x1802 for its set, from a sample and from the sinc2 output of the last 31 modulator bits alike; a sample during the start trim is summed. -/
def Obligations.OrrerySamples : Prop :=
  (∀ (s : State) (x : TSet) (tr : Trig) (u v w z : Int) (o : OrrSet),
   trigFires s x.grp tr = true → s.pu 0x30 x.num 8 = 0 → (s.orr.get x).trimLeft = 0 → o = { s.orr.get x with iu := sat24 (roundQ ((u : Q) / 32768 * s.pf 0x30 x.num 28 * 2 ^ 23) - (s.orr.get x).ofsU), iv := sat24 (roundQ ((v : Q) / 32768 * s.pf 0x30 x.num 32 * 2 ^ 23) - (s.orr.get x).ofsV), iw := sat24 (roundQ ((w : Q) / 32768 * s.pf 0x30 x.num 36 * 2 ^ 23) - (s.orr.get x).ofsW), ix := sat24 ((if s.pu 0x30 x.num 16 = 1 then roundQ ((z : Q) / 32768 * s.pf 0x30 x.num 40 * 2 ^ 23) else 0) - (s.orr.get x).ofsX), sumRun := 0 } → absQ (codeA s x o.iu) ≤ s.pf 0x30 x.num 48 → absQ (codeA s x o.iv) ≤ s.pf 0x30 x.num 48 → absQ (codeA s x o.iw) ≤ s.pf 0x30 x.num 48 → absQ (codeA s x o.iu + codeA s x o.iv + codeA s x o.iw) ≤ s.pf 0x30 x.num 116 → 
   exec (.sarSample x tr u v w z) s = .next { s with orr := s.orr.put x o }) ∧
  (∀ (s : State) (x : TSet) (tr : Trig) (u v w z : Int),
   trigFires s x.grp tr = true → s.pu 0x30 x.num 8 = 0 → s.pf 0x30 x.num 48 < absQ (codeA s x (sat24 (roundQ ((u : Q) / 32768 * s.pf 0x30 x.num 28 * 2 ^ 23) - (s.orr.get x).ofsU))) → 
   Answers (exec (.sarSample x tr u v w z) s) fun t => active 0x1802 x.num t = true ∧ Grows s t ∧ t.beyond = s.beyond) ∧
  (∀ (s : State) (x : TSet) (tr : Trig) (u v w z : Int) (o : OrrSet) (n : Nat),
   trigFires s x.grp tr = true → s.pu 0x30 x.num 8 = 0 → s.pu 0x30 x.num 16 = 0 → (s.orr.get x).trimLeft = n + 2 → o = { s.orr.get x with iu := sat24 (roundQ ((u : Q) / 32768 * s.pf 0x30 x.num 28 * 2 ^ 23) - (s.orr.get x).ofsU), iv := sat24 (roundQ ((v : Q) / 32768 * s.pf 0x30 x.num 32 * 2 ^ 23) - (s.orr.get x).ofsV), iw := sat24 (roundQ ((w : Q) / 32768 * s.pf 0x30 x.num 36 * 2 ^ 23) - (s.orr.get x).ofsW), ix := sat24 (0 - (s.orr.get x).ofsX), sumRun := 0 } → absQ (codeA s x o.iu) ≤ s.pf 0x30 x.num 48 → absQ (codeA s x o.iv) ≤ s.pf 0x30 x.num 48 → absQ (codeA s x o.iw) ≤ s.pf 0x30 x.num 48 → absQ (codeA s x o.iu + codeA s x o.iv + codeA s x o.iw) ≤ s.pf 0x30 x.num 116 → 
   exec (.sarSample x tr u v w z) s = .next { s with orr := s.orr.put x { o with trimLeft := n + 1, sumU := o.sumU + roundQ ((u : Q) / 32768 * s.pf 0x30 x.num 28 * 2 ^ 23), sumV := o.sumV + roundQ ((v : Q) / 32768 * s.pf 0x30 x.num 32 * 2 ^ 23), sumW := o.sumW + roundQ ((w : Q) / 32768 * s.pf 0x30 x.num 36 * 2 ^ 23) } }) ∧
  (∀ (s : State) (sdd : Fin 8) (bits : List Bool) (value : Q),
   (s.sdcDiv (sddClock sdd.val)).isSome = true → sincOut 2 16 bits = some value → s.fn 3 = false → sddServes s .b sdd 1 = true → s.pf 0x30 1 48 < absQ (codeA s .b (sat24 (roundQ (value * s.pf 0x30 1 32 * 2 ^ 23) - (s.orr.get .b).ofsV))) → sddServes s .a sdd 0 = false ∧ sddServes s .a sdd 1 = false ∧ sddServes s .a sdd 2 = false → 
   Answers (exec (.sinc2Output sdd bits) s) fun t => active 0x1802 1 t = true ∧ Grows s t ∧ t.beyond = s.beyond) ∧
  (∀ (s : State) (sdd : Fin 8) (bits : List Bool) (value : Q),
   (s.sdcDiv (sddClock sdd.val)).isSome = true → sincOut 2 16 bits = some value → (∀ ch < 3, sddServes s .a sdd ch = false ∧ sddServes s .b sdd ch = false) → s.fn 3 = true → s.pb 0x50 1 1 1 = sdd.val → chargerOn s = false → 
   exec (.sinc2Output sdd bits) s = .next { s with dab := { s.dab with tank := value * s.pf 0x50 1 8 } }) ∧
  (∀ (s : State) (x : TSet) (tr : Trig) (u v w z : Int),
   (s.pu 0x20 x.grp 36).testBit (match tr with | .valley => 0 | .peak => 1) = false → 
   exec (.sarSample x tr u v w z) s = .next s)

/-- An update of a running set with a valid DC-link sample and no offset trim, below its trip speed, after the samples that a ΣΔ set takes with it, hands three values between 0 and the half-period to the set's carrier, keeps M at most M_MAX and i_d* within the current limit, and leaves every other group alone and everything outside the Orrery but 0x1806; a late update counts, keeps the values in use, and the third in a row raises 0x1801; the third update in a row on a stale DC-link sample raises 0x1805 and uses the last valid one. -/
def Obligations.OrreryUpdate : Prop :=
  (∀ (s u : State) (x : TSet) (dt v : Q) (sd : List SdWindow),
   u = (if s.pu 0x30 x.num 8 = 1 then takeSd x sd s else s) → (s.orr.get x).running = true → (u.orr.get x).trimLeft = 0 → s.dc.stale1 = false → (s.pu 0x30 x.num 92).testBit 4 = false → aboveTwoPi (absQ (setAngle s x dt).2) (s.pf 0x30 x.num 136) = false → 
   Answers (exec (.orreryUpdate x { dt := dt, vdc := some v, sd := sd }) s) fun t =>
        (∃ es, t.pwm.get x.grp = { u.pwm.get x.grp with next := some es } ∧ es.length = 3 ∧ ∀ e ∈ es, e ≤ (u.pwm.get x.grp).period / 2) ∧
        (t.oview.get x).m ≤ s.pf 0x30 x.num 120 ∧ (0 ≤ iLimit u x → absQ (t.oview.get x).idRef ≤ iLimit u x) ∧ (t.oview.get x).lateRun = 0 ∧ (t.octl.get x).vdc = v ∧
        (∀ k, k ≠ x.grp → t.pwm.get k = u.pwm.get k) ∧ (∀ y, y ≠ x → t.oview.get y = u.oview.get y ∧ t.octl.get y = u.octl.get y) ∧
        SameButFaults { u with pwm := t.pwm, octl := t.octl, oview := t.oview } t) ∧
  (∀ (s : State) (x : TSet),
   (s.orr.get x).running = true → (s.oview.get x).lateRun ≠ 2 → 
   exec (.orreryDeadlineMiss x) s = .next { s with oview := s.oview.put x { s.oview.get x with lateLast := true, lateRun := min ((s.oview.get x).lateRun + 1) 255, lateTotal := min ((s.oview.get x).lateTotal + 1) 65535 }, pwm := s.pwm.upd x.grp (fun g => { g with next := none, lateLast := true }) }) ∧
  (∀ (s : State) (x : TSet),
   (s.orr.get x).running = true → (s.oview.get x).lateRun = 2 → 
   Answers (exec (.orreryDeadlineMiss x) s) fun t => active 0x1801 x.num t = true ∧ Grows s t ∧ t.beyond = { s with oview := s.oview.put x { s.oview.get x with lateLast := true, lateRun := 3, lateTotal := min ((s.oview.get x).lateTotal + 1) 65535 } }.beyond) ∧
  (∀ (s : State) (x : TSet) (dt : Q) (v : Option Q),
   (s.orr.get x).running = true → (s.orr.get x).trimLeft = 0 → s.pu 0x30 x.num 8 = 0 → s.dc.stale1 = true ∨ v = none → (s.octl.get x).staleRun = 2 → 
   Answers (exec (.orreryUpdate x { dt := dt, vdc := v, sd := [] }) s) fun t => active 0x1805 x.num t = true ∧ Grows s t ∧ (t.octl.get x).vdc = (s.octl.get x).vdc ∧ (t.octl.get x).staleRun = 3 ∧
        t.beyond = { s with octl := t.octl, oview := t.oview }.beyond)

/-- A sample becomes the die's latest DC-link value and ends its staleness, and changes nothing else unless the charger runs and it lies above V_OUT_MAX, which raises 0x3009; 2 us without a trigger makes the die's samples stale; a difference above V_DISAGREE for 1 ms raises 0x1811, after which torque management uses V_dc,max for both; a path above the V_OV_ASC that Custodian holds makes Custodian hold ASC, raises 0x1813 and, with bias bank A on, puts each present set whose low sides carry no flag into ASC on the low sides without a window; neither path above V_OV_ASC - V_OV_HYS ends the hold. -/
def Obligations.SafeStateInputs : Prop :=
  (∀ (s : State) (volts : Q),
   chargerOn s = false → 
   exec (.dcLinkSample .one volts) s = .next { s with dc := { s.dc with dclT := volts, stale1 := false } }) ∧
  (∀ (s : State) (volts : Q),
   chargerOn s = false → 
   exec (.dcLinkSample .two volts) s = .next { s with dc := { s.dc with dclC := volts, stale2 := false } }) ∧
  (∀ (s : State) (ns : Nat),
   2000 ≤ ns → 
   exec (.senseDieTriggerLoss .one ns) s = .next { s with dc := { s.dc with stale1 := true } } ∧ exec (.senseDieTriggerLoss .two ns) s = .next { s with dc := { s.dc with stale2 := true } }) ∧
  (∀ (s : State) (heldUs : Nat),
   s.hasRec 0x38 0 = true → 1000 ≤ heldUs → s.pf 0x38 0 120 < absQ (s.dc.dclT - s.dc.dclC) → 
   Answers (exec (.dcLinkDisagree heldUs) s) fun t => active 0x1811 noInst t = true ∧ Grows s t ∧ t.vMinTm = t.vMax ∧ t.beyond = s.beyond) ∧
  (∀ (s : State) (volts : Q),
   s.saf.cust.ov ≠ [] → s.cuOv 0 < volts → 
   Answers (exec (.dcOvervoltageAsc .one volts) s) fun t => active 0x1813 noInst t = true ∧ t.beyond = { s with dc := { s.dc with dclT := volts }, saf := { s.saf with ovHold := true } }.beyond ∧
        (s.sup.biasA = true → ioHalted s = false → ∀ x : TSet, s.fn x.num = true → s.sideFlagged x.lows = false → (t.ss.get x).st = 2 ∧ (t.ss.get x).window = false)) ∧
  (∀ (s : State) (voltsT voltsC : Q),
   s.saf.ovHold = true → voltsT ≤ s.cuOv 0 - s.cuOv 4 → voltsC ≤ s.cuOv 0 - s.cuOv 4 → 
   exec (.ovAscRelease voltsT voltsC) s = .next { s with saf := { s.saf with ovHold := false }, dc := { s.dc with dclT := voltsT, dclC := voltsC } }) ∧
  (∀ (s : State) (d : Die) (volts : Q),
   chargerOn s = true → s.pf 0x50 1 56 < volts → 
   Answers (exec (.dcLinkSample d volts) s) fun t => active 0x3009 1 t = true ∧ Grows s t ∧
        t.beyond = { s with dc := (match d with | .one => { s.dc with dclT := volts, stale1 := false } | .two => { s.dc with dclC := volts, stale2 := false }) }.beyond)

/-- Entry stops the set's switching, turns off every output of the set and opens the selection window with a torque target of 0; a set that is in its safe state keeps it; the choice, which is made once T_SEL is over, is ASC when the mean E_ll reaches 0.9 of V_dc,max or an overvoltage holds it, and freewheel else, with 0x1815 where Callisto's check contradicts it; in ASC each present channel of the side whose rails are in and that is not in a soft turn-off is on; with bias bank A off the set freewheels whatever is chosen; a flag on the low sides in use moves ASC to unflagged high sides, and without any unflagged side the set freewheels with 0x1816; a trial opens the window again from freewheel. -/
def Obligations.SafeStateChoice : Prop :=
  (∀ (s : State) (x : TSet),
   s.fn x.num = true → (s.ss.get x).st = 0 → 
   Answers (exec (.safeStateEntry x) s) fun t => (t.pwm.get x.grp).running = false ∧ (∀ c ∈ x.lows ++ x.highs, (t.gd.ch.get c).out ≠ .on) ∧ (t.ss.get x).st = 1 ∧ (t.ss.get x).window = true ∧
        (t.otgt.get x).torque = 0 ∧ (t.otgt.get x).limit = none ∧ (∀ v, t.tm.svc = some v → v.2 ≠ x) ∧ (∀ y, y ≠ x → t.ss.get y = s.ss.get y ∧ t.otgt.get y = s.otgt.get y) ∧ (∀ k, k ≠ x.grp → t.pwm.get k = s.pwm.get k) ∧
        t = { s with pwm := t.pwm, orr := t.orr, oview := t.oview, gd := t.gd, ss := t.ss, otgt := t.otgt, tm := { s.tm with startA := t.tm.startA, startB := t.tm.startB, tA := t.tm.tA, tB := t.tm.tB, svc := t.tm.svc } }) ∧
  (∀ (s : State) (x : TSet),
   s.fn x.num = true → (s.ss.get x).st ≠ 0 → 
   Answers (exec (.safeStateEntry x) s) fun t => (t.pwm.get x.grp).running = false ∧ (t.otgt.get x).torque = 0 ∧ (∀ k, k ≠ x.grp → t.pwm.get k = s.pwm.get k) ∧
        t = { s with pwm := t.pwm, orr := t.orr, oview := t.oview, otgt := t.otgt, tm := { s.tm with startA := t.tm.startA, startB := t.tm.startB, tA := t.tm.tA, tB := t.tm.tB, svc := t.tm.svc } }) ∧
  (∀ (s : State) (x : TSet) (sinceUs : Q) (samples : List (Q × Q × Q)),
   (s.ss.get x).window = true → s.cuOv 8 * 1000000 ≤ sinceUs → s.saf.ovHold = false → meanQ (samples.map eLl) < 9 / 10 * s.vMax → choiceDisagrees s x false = false → 
   exec (.safeStateChoice x sinceUs samples) s = .next { s with ss := s.ss.put x { window := false, trial := false, ell := meanQ (samples.map eLl), st := 1 }, ssDisagree := false }) ∧
  (∀ (s : State) (x : TSet) (sinceUs : Q) (samples : List (Q × Q × Q)),
   (s.ss.get x).window = true → s.cuOv 8 * 1000000 ≤ sinceUs → 9 / 10 * s.vMax ≤ meanQ (samples.map eLl) → choiceDisagrees s x true = false → s.sideFlagged x.lows = false → s.sup.biasA = true → 
   Answers (exec (.safeStateChoice x sinceUs samples) s) fun t => (t.ss.get x).st = 2 ∧ (t.ss.get x).window = false ∧ (t.ss.get x).ell = meanQ (samples.map eLl) ∧ t.ssDisagree = false ∧
        (∀ c ∈ x.lows, s.chPresent c = true → s.railsOk c = true → (s.gd.ch.get c).out ≠ .soft → (t.gd.ch.get c).out = .on) ∧ (∀ c ∈ x.highs, (t.gd.ch.get c).out ≠ .on) ∧ (∀ y, y ≠ x → t.ss.get y = s.ss.get y) ∧
        t = { s with ss := t.ss, gd := t.gd, ssDisagree := false, ssTrials := (if (s.ss.get x).trial then min (s.ssTrials + 1) (2 ^ 16 - 1) else s.ssTrials) }) ∧
  (∀ (s : State) (x : TSet) (sinceUs : Q) (samples : List (Q × Q × Q)),
   (s.ss.get x).window = true → s.cuOv 8 * 1000000 ≤ sinceUs → s.saf.ovHold = false → meanQ (samples.map eLl) < 9 / 10 * s.vMax → choiceDisagrees s x false = true → 
   Answers (exec (.safeStateChoice x sinceUs samples) s) fun t => active 0x1815 x.num t = true ∧ (t.ss.get x).st = 1 ∧ SameButFaults { s with ss := s.ss.put x { window := false, trial := false, ell := meanQ (samples.map eLl), st := 1 }, ssDisagree := true } t) ∧
  (∀ (s : State) (x : TSet) (c : Chan),
   (s.ss.get x).st = 2 → c ∈ x.lows → (s.gd.ch.get c).latched = true → s.sideFlagged x.highs = false → 
   Answers (exec (.ascSideFault x c) s) fun t => (t.ss.get x).st = 3 ∧ (∀ d ∈ x.lows, (t.gd.ch.get d).out ≠ .on) ∧ (∀ d ∈ x.highs, s.chPresent d = true → s.railsOk d = true → (s.gd.ch.get d).out ≠ .soft → (t.gd.ch.get d).out = .on) ∧
        (∀ y, y ≠ x → t.ss.get y = s.ss.get y) ∧ t = { s with ss := t.ss, gd := t.gd }) ∧
  (∀ (s : State) (x : TSet) (c : Chan),
   (s.ss.get x).st = 3 → c ∈ x.highs → (s.gd.ch.get c).latched = true → 
   Answers (exec (.ascSideFault x c) s) fun t => active 0x1816 x.num t = true ∧ Grows s t ∧ t.beyond = s.beyond ∧ ∀ d ∈ x.lows ++ x.highs, ioHalted s = false → (t.gd.ch.get d).out ≠ .on) ∧
  (∀ (s : State) (x : TSet),
   2 ≤ (s.ss.get x).st → (s.ss.get x).window = false → s.saf.ovHold = false → s.posValid (s.setIfc x) = false → 
   Answers (exec (.ascTrialRequest x 100) s) fun t => t.ss.get x = { s.ss.get x with st := 1, window := true, trial := true } ∧ (∀ c ∈ x.lows ++ x.highs, (t.gd.ch.get c).out ≠ .on) ∧
        (∀ y, y ≠ x → t.ss.get y = s.ss.get y) ∧ t = { s with ss := t.ss, gd := t.gd }) ∧
  (∀ (s : State) (x : TSet) (sinceUs : Q) (samples : List (Q × Q × Q)),
   (s.ss.get x).window = true → s.cuOv 8 * 1000000 ≤ sinceUs → s.saf.ovHold = true ∨ 9 / 10 * s.vMax ≤ meanQ (samples.map eLl) → choiceDisagrees s x true = false → s.sup.biasA = false → 
   Answers (exec (.safeStateChoice x sinceUs samples) s) fun t => (t.ss.get x).st = 1 ∧ (∀ c ∈ x.lows ++ x.highs, (t.gd.ch.get c).out ≠ .on) ∧ (∀ y, y ≠ x → t.ss.get y = s.ss.get y)) ∧
  (∀ (s : State) (x : TSet) (sinceUs : Q) (samples : List (Q × Q × Q)),
   (s.ss.get x).window = false ∨ sinceUs < s.cuOv 8 * 1000000 → 
   exec (.safeStateChoice x sinceUs samples) s = .next s)

/-- Outside DRIVE the task writes a torque target of 0 to both sets, with LIM 7 while the request is taken as 0 for a loss and else 0; in DRIVE with both sets switching and no overspeed it keeps and writes the limited targets with the names of their limits and asks for carrier periods alone; a set that does not switch and meets the conditions, which after an idle stop are the request, the permit and no overvoltage hold alone, is asked to start; overspeed raises 0x1812 in every mode; a timeout whose targets reached 0 or that lasted 500 ms raises 0x1810; a missed task keeps the previous targets and the fifth in a row is a class F3 fault of traction that sends the sets to their safe states (its code is free, log entry 9); standstill without a request stops a set's switching; a service routine that is allowed answers and holds its current under the limit I_SVC, at its length keeps its result and returns the set to torque 0, and aborts with 0x1817 once its conditions are gone. -/
def Obligations.TorqueTask : Prop :=
  (∀ (s : State),
   pairRunning s .io = true → pairOn s = false → s.sys.mode ≠ .drive → s.tm.svc = none → (∀ x : TSet, s.fn x.num = true → absQ (s.omegaM x) ≤ s.pf 0x38 0 48) → 
   exec .ioTorqueTask s = .next { s with tm := { s.tm with missRun := 0, tA := 0, tB := 0, limA := if s.tm.lostMs.isSome then 7 else 0, limB := if s.tm.lostMs.isSome then 7 else 0, startA := false, startB := false, lostMs := s.tm.lostMs.map (· + 1) }, otgt := (s.otgt.upd .a (fun o => { o with current := false, torque := 0, limit := none })).upd .b (fun o => { o with current := false, torque := 0, limit := none }), pair := (endPairPeriod s).pair }) ∧
  (∀ (s : State) (o : TorqueOut),
   pairRunning s .io = true → pairOn s = false → s.sys.mode = .drive → s.hasRec 0x38 0 = true → (s.pwm.get 0).running = true → (s.pwm.get 1).running = true → (∀ x : TSet, s.fn x.num = true → absQ (s.omegaM x) ≤ s.pf 0x38 0 48) → s.tm.svc = none → o = torqueSteps s (switches s .a) (if s.pu 0x30 0 0 = 2 then switches s .a else switches s .b) → 
   Answers (exec .ioTorqueTask s) fun t => t = { s with tm := { s.tm with missRun := 0, tA := o.tA, tB := o.tB, limA := o.limA, limB := o.limB, startA := false, startB := false, lostMs := s.tm.lostMs.map (· + 1) }, otgt := (s.otgt.upd .a (fun x => { x with current := false, torque := o.tA, limit := none })).upd .b (fun x => { x with current := false, torque := o.tB, limit := none }), pwm := t.pwm, pair := (endPairPeriod s).pair } ∧
        ∀ k, { t.pwm.get k with reqPeriod := none } = { s.pwm.get k with reqPeriod := none }) ∧
  (∀ (s : State) (x : TSet),
   pairRunning s .io = true → pairOn s = false → s.tm.svc = none → s.fn x.num = true → s.pf 0x38 0 48 < absQ (s.omegaM x) → 
   Answers (exec .ioTorqueTask s) fun t => active 0x1812 noInst t = true ∧ Grows s t) ∧
  (∀ (s : State) (x : TSet),
   pairRunning s .io = true → pairOn s = false → s.sys.mode = .drive → s.hasRec 0x38 0 = true → s.tm.svc = none → (∀ y : TSet, s.fn y.num = true → absQ (s.omegaM y) ≤ s.pf 0x38 0 48) → s.fn x.num = true → (s.pwm.get x.grp).running = false → s.pf 0x38 0 80 ≤ absQ (takenRequest s).1 → s.saf.ovHold = false → s.idleStopped x = true ∨ (s.tractionBlocked = false ∧ s.posValid (s.setIfc x) = true) → s.setPermit x = true → 
   Answers (exec .ioTorqueTask s) fun t => t.startAsked x = true) ∧
  (∀ (s : State) (sinceMs : Nat),
   s.tm.lostMs.isSome = true → (s.tm.tA = 0 ∧ s.tm.tB = 0) ∨ 500 ≤ sinceMs → 
   Answers (exec (.torqueLossFault sinceMs) s) fun t => active 0x1810 noInst t = true ∧ Grows s t ∧ t.beyond = s.beyond ∧ t.sys.mode = s.sys.mode) ∧
  (∀ (s : State),
   s.tm.missRun < 4 → 
   exec .ioTaskDeadlineMiss s = .next { s with tm := { s.tm with missRun := s.tm.missRun + 1 } }) ∧
  (∀ (s : State),
   4 ≤ s.tm.missRun → 
   Answers (exec .ioTaskDeadlineMiss s) fun t => (∀ x : TSet, s.fn x.num = true → 1 ≤ (t.ss.get x).st ∧ (t.pwm.get x.grp).running = false) ∧ t.tractionBlocked = true ∧ Grows s t ∧
        t.beyond = { s with tm := { s.tm with missRun := min (s.tm.missRun + 1) 255 } }.beyond) ∧
  (∀ (s : State) (x : TSet) (heldMs : Nat),
   (s.pwm.get x.grp).running = true → s.pf 0x38 0 84 * 1000 ≤ heldMs → absQ (s.omegaM x) < s.pf 3 0 8 → absQ (takenRequest s).1 < s.pf 0x38 0 80 → s.tm.reqValid = false ∨ s.tm.hold = false → s.tm.svc = none → 
   Answers (exec (.idleStop x heldMs) s) fun t => (t.pwm.get x.grp).running = false ∧ (∀ c ∈ grpChans x.grp, (t.gd.ch.get c).out ≠ .on) ∧ (∀ c, c ∉ grpChans x.grp → t.gd.ch.get c = s.gd.ch.get c) ∧ (∀ k, k ≠ x.grp → t.pwm.get k = s.pwm.get k) ∧
        t = { s with pwm := t.pwm, orr := t.orr, oview := t.oview, gd := t.gd, tm := (match x with | .a => { s.tm with idleA := true, tA := 0 } | .b => { s.tm with idleB := true, tB := 0 }), otgt := s.otgt.upd x (fun o => { o with current := false, torque := 0, limit := none }) }) ∧
  (∀ (s : State) (p : UPath) (x : TSet) (angle : Nat),
   s.tm.svc = none → svcAllowed s = true → s.routineNrc p 0xF200 = 0 → (s.pwm.get x.grp).running = true → s.udsServed p = true → 
   exec (.rotorAngleOffset p x 0 angle) s = .next { s with tm := { s.tm with svc := some (0xF200, x) }, otgt := s.otgt.put x { s.otgt.get x with current := true, id := s.pf 0x38 0 128 * 0 / 100, iq := 0, limit := some (s.pf 0x38 0 128) }, out := .uds p (s.udsResp p) [0x71, 0x01, 0xF2, 0x00] :: s.out }) ∧
  (∀ (s : State) (p : UPath) (x : TSet) (elapsedMs angle : Nat),
   s.tm.svc = some (0xF200, x) → svcAllowed s = true → 600 ≤ elapsedMs → 
   exec (.rotorAngleOffset p x elapsedMs angle) s = .next { s with tm := { s.tm with svc := none }, otgt := s.otgt.put x { current := false, torque := 0, id := 0, iq := 0, limit := none }, uds := { s.uds with results := (0xF200, natBe 4 angle) :: s.uds.results.filter (fun r => decide (r.1 ≠ 0xF200)) } }) ∧
  (∀ (s : State) (p : UPath) (x : TSet) (vd id : Q),
   s.tm.svc = some (0xF201, x) → svcAllowed s = true → 
   exec (.windingResistance p x 500 vd id) s = .next { s with tm := { s.tm with svc := none }, otgt := s.otgt.put x { current := false, torque := 0, id := 0, iq := 0, limit := none }, uds := { s.uds with results := (0xF201, natBe 4 (roundN (divQ (vd * 1000) id))) :: s.uds.results.filter (fun r => decide (r.1 ≠ 0xF201)) } }) ∧
  (∀ (s : State) (p : UPath) (x : TSet) (elapsedMs : Nat) (vd id : Q),
   s.tm.svc = some (0xF201, x) → svcAllowed s = false → 
   Answers (exec (.windingResistance p x elapsedMs vd id) s) fun t => t.tm.svc = none ∧ t.otgt.get x = { current := false, torque := 0, id := 0, iq := 0, limit := none } ∧ active 0x1817 noInst t = true ∧
        SameButFaults { s with tm := { s.tm with svc := none }, otgt := t.otgt } t)

/-- At either of its instants a resolver update of a loaded interface takes the sample pair of that instant, corrects the demodulated pair by the offsets, the gain and the phase in use, steps the tracker of bandwidth f_BW by the error signal, which is 0 while 0x2001 is active, and gives the output angle and speed of the tracked angle; the amplitude and the error are judged, the fourth amplitude out of its window or the third error in a row ends VALID, the former with 0x2001 where a user runs; nothing outside the interface's own position state, the emulation and what a fault touches changes. An emulation step that is due, with its source VALID, moves the output one count toward the wanted count, shows it, and gives SYNC once the output stands at a multiple of its turn; one that is not due changes nothing. -/
def Obligations.Resolvers : Prop :=
  (∀ (s : State) (i : Ifc) (at270 : Bool) (sQuad cQuad sEnv cEnv s1 c1 a eps : Q) (r : ResSt),
   i.val < 2 → s.hasRec 0x40 i = true → s.cat.locked = true → r = (if at270 then { s.res.get i with s180 := sQuad, c180 := cQuad, s270 := sEnv, c270 := cEnv } else { s.res.get i with s0 := sQuad, c0 := cQuad, s90 := sEnv, c90 := cEnv }) → 
   s1 = divQ ((r.s90 - r.s270) / 2 - r.os) (1 + r.k) → c1 = divQ ((r.c90 - r.c270) / 2 - r.oc + s1 * sinRad r.phi) (cosRad r.phi) → a = sqrtQ (s1 * s1 + c1 * c1) → eps = (if active 0x2001 i.val s = true then 0 else divQ (s1 * cosA r.th - c1 * sinA r.th) a) → 
   Answers (exec (.resolverUpdate i at270 sQuad cQuad sEnv cEnv) s) fun t => (t.res.get i).amp = a ∧ (t.res.get i).w = r.w + (2 * piQ * s.pf 0x40 i 32) * (2 * piQ * s.pf 0x40 i 32) * divQ 1 (2 * s.pf 0x40 i 20) * eps ∧
        (t.res.get i).th = ang ((r.th : Int) + radToAng (divQ 1 (2 * s.pf 0x40 i 20) * ((t.res.get i).w + 2 * (2 * piQ * s.pf 0x40 i 32) * eps))) ∧
        (t.res.get i).s0 = r.s0 ∧ (t.res.get i).c0 = r.c0 ∧ (t.res.get i).s90 = r.s90 ∧ (t.res.get i).c90 = r.c90 ∧ (t.res.get i).s180 = r.s180 ∧ (t.res.get i).c180 = r.c180 ∧ (t.res.get i).s270 = r.s270 ∧ (t.res.get i).c270 = r.c270 ∧
        (t.pos.get i).angle = ang ((s.pu 0x40 i 4 : Int) + dirI s i ((ppRatio s i 28 * (t.res.get i).th : Nat) : Int)) ∧ (t.pos.get i).speed = dirQ s i ((ppRatio s i 28 : Q) * (t.res.get i).w) ∧
        (t.res.get i).ampRun = (if s.pf 0x40 i 36 ≤ a ∧ a ≤ s.pf 0x40 i 40 then 0 else r.ampRun + 1) ∧ (t.res.get i).trkRun = (if sinA (s.pu 0x40 i 44) < absQ eps then r.trkRun + 1 else 0) ∧
        ((t.res.get i).ampRun = 4 ∨ (t.res.get i).trkRun = 3 → (t.pos.get i).valid = false) ∧ ((t.res.get i).ampRun = 4 → s.posUserRuns i = true → active 0x2001 i.val t = true) ∧
        t.beyond = { s with res := t.res, pos := t.pos, cal := t.cal, em := t.em }.beyond) ∧
  (∀ (s : State) (i : Ifc) (sinceCt : Nat) (out : Int),
   10 ≤ i.val → s.hasRec 0x40 i = true → (s.em.get i).want ≠ (s.em.get i).out → s.pu 0x40 i 32 ≤ sinceCt → s.posValid ⟨s.pu 0x40 i 20 % 12, Nat.mod_lt _ (by decide)⟩ = true → out = (if (s.em.get i).out < (s.em.get i).want then (s.em.get i).out + 1 else (s.em.get i).out - 1) → 
   exec (.emulationStep i sinceCt) s = .next { s with em := s.em.put i { s.em.get i with out := out, shown := out, sync := (s.em.get i).sync || decide (out % (max (outTurn s i) 1 : Nat) = 0) }, pos := s.pos.upd i (fun p => { p with count := wrap32 out }) }) ∧
  (∀ (s : State) (i : Ifc) (sinceCt : Nat),
   i.val < 10 ∨ s.hasRec 0x40 i = false ∨ (s.em.get i).want = (s.em.get i).out ∨ sinceCt < s.pu 0x40 i 32 ∨ s.posValid ⟨s.pu 0x40 i 20 % 12, Nat.mod_lt _ (by decide)⟩ = false → 
   exec (.emulationStep i sinceCt) s = .next s)


/-- An accepted frame gives the angle and status of its nibbles, starts or extends the run of accepted frames and makes the interface VALID from the second on; a rejected one counts an error, and more than ERR_MAX of them in the window end VALID with 0x2005; no accepted frame for SENT_TOUT ends VALID, with 0x2004 while a user runs; at T_STILL an edge interface reads speed 0 and standstill. -/
def Obligations.SentSensors : Prop :=
  (∀ (s : State) (i : Ifc) (f : SentFrame) (st : Nat) (ds : List Nat),
   2 ≤ i.val → i.val < 4 → s.hasRec 0x40 i = true → sentAccept s i f = some (st, ds) → 
   Answers (exec (.sentFrame i f) s) fun t => (t.pos.get i).angle = sentAngle s i ds ∧ (t.pos.get i).code = st ∧ (t.sent.get i).accRun = (s.sent.get i).accRun + 1 ∧ (t.sent.get i).first = false ∧ (t.sent.get i).frames.head? = some (f.tFt, sentAngle s i ds) ∧
        ((s.pos.get i).valid = true ∨ 1 ≤ (s.sent.get i).accRun → (t.pos.get i).valid = true) ∧ t.beyond = { s with sent := t.sent, pos := t.pos, em := t.em }.beyond) ∧
  (∀ (s : State) (i : Ifc) (f : SentFrame),
   2 ≤ i.val → i.val < 4 → s.hasRec 0x40 i = true → sentAccept s i f = none → 
   Answers (exec (.sentFrame i f) s) fun t => (t.sent.get i).first = true ∧ (t.sent.get i).accRun = 0 ∧ (t.pos.get i).errTotal = min ((s.pos.get i).errTotal + 1) 65535 ∧ (t.pos.get i).angle = (s.pos.get i).angle ∧
        ((t.pos.get i).valid = true ↔ (s.pos.get i).valid = true ∧ (t.pos.get i).errTimes.length ≤ s.pu 0x40 i 44) ∧ Grows s t ∧ t.beyond = { s with sent := t.sent, pos := t.pos }.beyond) ∧
  (∀ (s : State) (i : Ifc) (sinceUs : Nat),
   2 ≤ i.val → i.val < 4 → s.hasRec 0x40 i = true → s.pf 0x40 i 40 * 1000000 ≤ sinceUs → 
   Answers (exec (.sentTimeout i sinceUs) s) fun t => (t.pos.get i).valid = false ∧ (s.posUserRuns i = true → active 0x2004 i.val t = true) ∧ (s.posUserRuns i = false → t.faults = s.faults) ∧ Grows s t ∧
        t.beyond = { s with sent := s.sent.upd i (fun x => { x with first := true, accRun := 0 }), pos := s.pos.upd i (fun p => { p with valid := false, bad := true }) }.beyond) ∧
  (∀ (s : State) (i : Ifc) (tauUs : Nat),
   4 ≤ i.val → i.val < 10 → s.hasRec 0x40 i = true → s.pf 0x40 i 16 ≤ (tauUs : Q) / 1000000 → 
   exec (.standstillTimeout i tauUs) s = .next { s with edge := s.edge.put i { s.edge.get i with dir := 0, times := [], steps := [], n := 0 }, pos := s.pos.put i { s.pos.get i with speed := 0, still := true } })

/-- A level that has not held for FILT coarse ticks changes nothing. One accepted A or B edge counts one step in the sense of DIR, COUNT wrapping at 32 bits; both levels together count nothing but an error, and more than ERR_MAX errors in the window end VALID, unless the state that is reached is an index event; the first valid Hall code gives its mid-sector angle and makes the interface VALID, an impossible code raises 0x2009 and counts an error; the first index of a traction Hall set becomes its reference, an actuator Hall set latches COUNT, and the level of an index input is shown. -/
def Obligations.EdgeSensors : Prop :=
  (∀ (s : State) (i : Ifc) (a b z : Bool) (heldCt tFt : Nat),
   4 ≤ i.val → i.val < 6 → s.hasRec 0x40 i = true → s.pu 0x40 i 12 ≤ heldCt → (quadPhase a b + 4 - quadPhase (s.edge.get i).a (s.edge.get i).b) % 4 = 1 ∨ (quadPhase a b + 4 - quadPhase (s.edge.get i).a (s.edge.get i).b) % 4 = 3 → 
   Answers (exec (.abzEdge i a b z heldCt tFt) s) fun t => (t.pos.get i).count = wrap32 ((s.pos.get i).count + dirI s i (if (quadPhase a b + 4 - quadPhase (s.edge.get i).a (s.edge.get i).b) % 4 = 1 then 1 else -1)) ∧ (t.pos.get i).idxLvl = z ∧ (t.edge.get i).a = a ∧ (t.edge.get i).b = b ∧ (t.edge.get i).z = z ∧
        t.beyond = { s with edge := t.edge, pos := t.pos, em := t.em }.beyond) ∧
  (∀ (s : State) (i : Ifc) (a b z : Bool) (heldCt tFt : Nat),
   4 ≤ i.val → i.val < 6 → s.hasRec 0x40 i = true → s.pu 0x40 i 12 ≤ heldCt → (quadPhase a b + 4 - quadPhase (s.edge.get i).a (s.edge.get i).b) % 4 = 2 → 
   Answers (exec (.abzEdge i a b z heldCt tFt) s) fun t => (t.pos.get i).count = (s.pos.get i).count ∧ (t.pos.get i).errTotal = min ((s.pos.get i).errTotal + 1) 65535 ∧ (t.edge.get i).n = 0 ∧ (t.edge.get i).a = a ∧ (t.edge.get i).b = b ∧
        ((a && b && z) = false → ((t.pos.get i).valid = true ↔ (s.pos.get i).valid = true ∧ (t.pos.get i).errTimes.length ≤ s.pu 0x40 i 44) ∧ Grows s t ∧ t.em = s.em) ∧ t.beyond = { s with edge := t.edge, pos := t.pos, em := t.em }.beyond) ∧
  (∀ (s : State) (i : Ifc) (a b z : Bool) (heldCt tFt : Nat),
   heldCt < s.pu 0x40 i 12 → 
   exec (.abzEdge i a b z heldCt tFt) s = .next s) ∧
  (∀ (s : State) (i : Ifc) (code heldCt tFt : Nat),
   6 ≤ i.val → i.val < 10 → s.hasRec 0x40 i = true → s.pu 0x40 i 12 ≤ heldCt → code % 8 ≠ 0 → code % 8 ≠ 7 → (s.edge.get i).lastCode = 0 → 
   Answers (exec (.hallEdge i code heldCt tFt) s) fun t => (t.pos.get i).valid = true ∧ (t.pos.get i).code = code % 8 ∧ (t.pos.get i).angle = s.hallMid i (code % 8) ∧ (t.pos.get i).count = (s.pos.get i).count ∧ (t.edge.get i).lastCode = code % 8 ∧
        (∀ k, k ≠ i → t.pos.get k = s.pos.get k ∧ t.edge.get k = s.edge.get k) ∧ SameButFaults { s with edge := t.edge, pos := t.pos } t) ∧
  (∀ (s : State) (i : Ifc) (code heldCt tFt : Nat),
   6 ≤ i.val → i.val < 10 → s.hasRec 0x40 i = true → s.pu 0x40 i 12 ≤ heldCt → code % 8 = 0 ∨ code % 8 = 7 → 
   Answers (exec (.hallEdge i code heldCt tFt) s) fun t => active 0x2009 i.val t = true ∧ (t.pos.get i).errTotal = min ((s.pos.get i).errTotal + 1) 65535 ∧ (t.pos.get i).count = (s.pos.get i).count ∧
        ((t.pos.get i).valid = true ↔ (s.pos.get i).valid = true ∧ (t.pos.get i).errTimes.length ≤ s.pu 0x40 i 44) ∧ Grows s t ∧ t.beyond = { s with pos := t.pos }.beyond) ∧
  (∀ (s : State) (i : Ifc) (heldCt : Nat),
   6 ≤ i.val → i.val < 8 → s.hasRec 0x40 i = true → s.pu 0x40 i 12 ≤ heldCt → (s.pos.get i).idxLvl = false → s.pu 0x40 i 60 ≠ 0 → (s.edge.get i).cref = none → 
   Answers (exec (.indexRisingEdge i true heldCt) s) fun t => (t.edge.get i).cref = some (s.pos.get i).count ∧ (t.pos.get i).idx = (s.pos.get i).count ∧ (t.pos.get i).idxNum = ((s.pos.get i).idxNum + 1) % 65536 ∧ (t.pos.get i).idxSeen = true ∧ (t.pos.get i).idxLvl = true ∧ (t.pos.get i).count = (s.pos.get i).count ∧
        (∀ k, k ≠ i → t.pos.get k = s.pos.get k ∧ t.edge.get k = s.edge.get k) ∧ SameButFaults { s with edge := t.edge, pos := t.pos } t) ∧
  (∀ (s : State) (i : Ifc) (heldCt : Nat),
   i.val = 8 → s.hasRec 0x40 i = true → s.pu 0x40 i 12 ≤ heldCt → (s.pos.get i).idxLvl = false → (s.act.get .park).ref = none → 
   Answers (exec (.indexRisingEdge i true heldCt) s) fun t => (t.pos.get i).idx = (s.pos.get i).count ∧ (t.pos.get i).idxLvl = true ∧ (t.act.get .park).crossed = true ∧ (t.act.get .park).ref = some (if (s.edge.get i).dir < 0 then (s.pos.get i).count - s.pu 0x78 0 96 else (s.pos.get i).count) ∧
        (∀ k, k ≠ i → t.pos.get k = s.pos.get k) ∧ t.act.get .shift = s.act.get .shift ∧ t = { s with pos := t.pos, act := t.act }) ∧
  (∀ (s : State) (i : Ifc) (heldCt : Nat),
   6 ≤ i.val → i.val < 10 → s.hasRec 0x40 i = true → s.pu 0x40 i 12 ≤ heldCt → 
   exec (.indexRisingEdge i false heldCt) s = .next { s with pos := s.pos.upd i (fun p => { p with idxLvl := false }) })

/-- Each detector that a present channel's reading trips, after its blanking time where it has one, latches its own flag and the time, counts SHORTS where the table of events does, turns the output off and raises its own fault for that channel; the charge of a turn-on is the programmed source current up to the first reading above GC_LEVEL within the blanking time, and reads 0xFFF without one; no other channel's flags, and nothing beyond the fault's reaction, changes, and no active fault ends. A secondary that loses its link turns off softly. -/
def Obligations.GateShorts : Prop :=
  (∀ (s : State) (c : Chan) (v : Q) (onNs ns : Nat),
   s.chPresent c = true → c.val < 29 → (s.gd.ch.get c).out = .on → s.pf 0x10 c 28 < v → s.pu 0x10 c 32 ≤ ns → s.blankNs c + ns ≤ onNs → 
   Answers (exec (.desaturation c v onNs ns) s) fun t => (∀ d, (t.gd.ch.get d).flags = if d = c then { (s.gd.ch.get c).flags with desat := true, shorts := satInc 8 (s.gd.ch.get c).shorts, last := s.timeNs % 2 ^ 32 } else (s.gd.ch.get d).flags) ∧
        (t.gd.ch.get c).out ≠ .on ∧ active 0x2801 c.val t = true ∧ Grows s t ∧ t.beyond = s.beyond) ∧
  (∀ (s : State) (c : Chan) (chOut : List (Nat × Q)) (crossNs : Nat) (q : Q),
   s.chPresent c = true → c.val < 29 → (s.gd.ch.get c).out = .on → gcCross s c chOut = some crossNs → q = gateCharge s c crossNs → q < s.pf 0x10 c 40 → 
   Answers (exec (.gateChargeShort c chOut) s) fun t => (∀ d, (t.gd.ch.get d).flags = if d = c then { (s.gd.ch.get c).flags with gc := true, shorts := satInc 8 (s.gd.ch.get c).shorts, qgc := min (roundN (q * 1000000000)) 0xFFF, last := s.timeNs % 2 ^ 32 } else (s.gd.ch.get d).flags) ∧
        (t.gd.ch.get c).out ≠ .on ∧ active 0x2802 c.val t = true ∧ Grows s t ∧ t.beyond = s.beyond) ∧
  (∀ (s : State) (c : Chan) (chOut : List (Nat × Q)),
   s.chPresent c = true → c.val < 29 → (s.gd.ch.get c).out = .on → (∀ p ∈ chOut, s.pf 0x10 c 36 < p.2 → s.blankNs c < p.1) → 
   exec (.gateChargeShort c chOut) s = .next (s.updCh c (fun x => { x with qgc := 0xFFF }))) ∧
  (∀ (s : State) (c : Chan) (rep : Bool) (h e : Nat),
   s.chPresent c = true → rep ≠ (s.gd.ch.get c).cmd → 500 < h → 500 < e → 
   Answers (exec (.readbackMismatch c rep h e) s) fun t => (∀ d, (t.gd.ch.get d).flags = if d = c then { (s.gd.ch.get c).flags with rb := true, last := s.timeNs % 2 ^ 32 } else (s.gd.ch.get d).flags) ∧
        (t.gd.ch.get c).out ≠ .on ∧ active 0x2806 c.val t = true ∧ Grows s t ∧ t.beyond = s.beyond) ∧
  (∀ (s : State) (c : Chan) (ns : Nat),
   s.chPresent c = true → c.val < 29 → 2000 ≤ ns → 
   Answers (exec (.statusFrameLoss c ns) s) fun t => (∀ d, (t.gd.ch.get d).flags = if d = c then { (s.gd.ch.get c).flags with link := true, last := s.timeNs % 2 ^ 32 } else (s.gd.ch.get d).flags) ∧
        (t.gd.ch.get c).out ≠ .on ∧ active 0x2807 c.val t = true ∧ Grows s t ∧ t.beyond = s.beyond) ∧
  (∀ (s : State) (c : Chan) (v : Q) (us : Nat),
   s.chPresent c = true → isHighSide c = true → (s.gd.ch.get c).bstUv = true → s.inRefresh c = false → v < s.pf 0x10 c 44 → 10 ≤ us → 
   Answers (exec (.bootstrapOff c v us) s) fun t => (∀ d, (t.gd.ch.get d).flags = if d = c then { (s.gd.ch.get c).flags with hi := v, bstOff := true, last := s.timeNs % 2 ^ 32 } else (s.gd.ch.get d).flags) ∧
        (t.gd.ch.get c).out ≠ .on ∧ active 0x2808 c.val t = true ∧ Grows s t ∧ t.beyond = s.beyond) ∧
  (∀ (s : State) (c : Chan) (ns : Nat),
   s.chPresent c = true → c.val < 29 → 2000 ≤ ns → (s.gd.ch.get c).out = .on → 
   exec (.secondaryLinkLoss c ns) s = .next ((offSoft c s).updCh c (fun x => { x with linkOk := false, needEdge := true })) ∧ ((offSoft c s).gd.ch.get c).out = .soft ∧ ((offSoft c s).gd.ch.get c).drive = softSeq s c)

/-- A rail out of its window for 500 ns sets its own live flags, turns the output off and, while the stage runs, raises 0x2804 or 0x2805; the flags and their fault end when that rail has been inside both sets for 1 ms, not before; a turn-on edge acts only where the group's latched values place it, and there an allowed one gives the source currents, a forbidden one waits for a new edge, one that meets the other side on or commanded on turns both off and holds the leg off for the dead time, and one on a leg in a refresh waits for its end; a commanded turn-off sinks SINK, or SOFT with RACE and 0x2809 while the drain sense is high after blanking, the energy of the pulse joins the accumulator, and a DCX side's turn-off makes the other side the next; a permit that is missing turns every channel of its domain off but those of a set in ASC. -/
def Obligations.GateEdges : Prop :=
  (∀ (s : State) (c : Chan) (hi lo : Q) (vns ens : Nat),
   s.chPresent c = true → c.val < 29 → (500 ≤ vns ∧ (hi < 27 / 2 ∨ hi < s.pf 0x10 c 44 ∨ 26 < hi ∨ s.pf 0x10 c 48 < hi)) ∨ (500 ≤ ens ∧ (1 / 2 < lo ∨ s.pf 0x10 c 56 < lo ∨ lo < -9 ∨ lo < s.pf 0x10 c 52)) → 
   Answers (exec (.railOutOfWindow c hi lo vns ens) s) fun t =>
        (∀ d, (t.gd.ch.get d).flags = if d = c then { (s.gd.ch.get c).flags with hi := hi, lo := lo, vccUv := (s.gd.ch.get c).vccUv || decide (500 ≤ vns ∧ (hi < 27 / 2 ∨ hi < s.pf 0x10 c 44)), vccOv := (s.gd.ch.get c).vccOv || decide (500 ≤ vns ∧ (26 < hi ∨ s.pf 0x10 c 48 < hi)), veeUv := (s.gd.ch.get c).veeUv || decide (500 ≤ ens ∧ (1 / 2 < lo ∨ s.pf 0x10 c 56 < lo)), veeOv := (s.gd.ch.get c).veeOv || decide (500 ≤ ens ∧ (lo < -9 ∨ lo < s.pf 0x10 c 52)) } else (s.gd.ch.get d).flags) ∧
        (t.gd.ch.get c).out ≠ .on ∧ (s.stageRuns (stageOf c) = true → 500 ≤ vns → (hi < 27 / 2 ∨ hi < s.pf 0x10 c 44 ∨ 26 < hi ∨ s.pf 0x10 c 48 < hi) → active 0x2804 c.val t = true) ∧
        (s.stageRuns (stageOf c) = true → 500 ≤ ens → (1 / 2 < lo ∨ s.pf 0x10 c 56 < lo ∨ lo < -9 ∨ lo < s.pf 0x10 c 52) → active 0x2805 c.val t = true) ∧
        (s.stageRuns (stageOf c) = false → t.faults = s.faults) ∧ Grows s t ∧ t.beyond = s.beyond) ∧
  (∀ (s : State) (c : Chan) (hi lo : Q) (vus eus : Nat),
   s.chPresent c = true → c.val < 29 → 1000 ≤ vus → 1000 ≤ eus → 27 / 2 ≤ hi ∧ s.pf 0x10 c 44 ≤ hi ∧ hi ≤ 26 ∧ hi ≤ s.pf 0x10 c 48 → lo ≤ 1 / 2 ∧ lo ≤ s.pf 0x10 c 56 ∧ -9 ≤ lo ∧ s.pf 0x10 c 52 ≤ lo → 
   Answers (exec (.railFlagClear c hi lo vus eus) s) fun t =>
        SameButFaults (s.updCh c (fun x => { x with hi := hi, lo := lo, vccUv := false, vccOv := false, veeUv := false, veeOv := false })) t ∧ active 0x2804 c.val t = false ∧ active 0x2805 c.val t = false) ∧
  (∀ (s : State) (c : Chan) (hi lo : Q) (vus eus : Nat),
   s.chPresent c = true → c.val < 29 → vus < 1000 → eus < 1000 → 
   exec (.railFlagClear c hi lo vus eus) s = .next (s.updCh c (fun x => { x with hi := hi, lo := lo }))) ∧
  (∀ (s : State) (c : Chan) (ft : Int),
   s.onEdgeDue c ft = false → 
   exec (.gateTurnOn c ft) s = .next s) ∧
  (∀ (s : State) (c : Chan) (ft : Int),
   s.onEdgeDue c ft = true → s.chPresent c = true → (s.gd.ch.get c).out = .off → mayTurnOn s c = true → s.legHeld c = false → s.inRefresh c = false → (∀ p, partner c = some p → (s.gd.ch.get p).out ≠ .on ∧ (s.gd.ch.get p).cmd = false) → 
   exec (.gateTurnOn c ft) s = .next (s.updCh c (fun x => { x with cmd := true, linkOk := true, out := .on, needEdge := false, clamp := false, drive := sourceSeq s c, acc := x.acc + s.onEnergy c, since := s.mer.ns }))) ∧
  (∀ (s : State) (c : Chan) (ft : Int),
   s.onEdgeDue c ft = true → s.chPresent c = true → (s.gd.ch.get c).out ≠ .on → (s.gd.ch.get c).out = .soft ∨ mayTurnOn s c = false ∨ s.legHeld c = true → 
   exec (.gateTurnOn c ft) s = .next (s.updCh c (fun x => { x with cmd := true, linkOk := true, needEdge := true }))) ∧
  (∀ (s : State) (c p : Chan) (ft : Int),
   s.onEdgeDue c ft = true → s.chPresent c = true → (s.gd.ch.get c).out = .off → mayTurnOn s c = true → s.legHeld c = false → partner c = some p → (s.gd.ch.get p).out = .on ∨ (s.gd.ch.get p).cmd = true → 
   Answers (exec (.gateTurnOn c ft) s) fun t => (t.gd.ch.get c).out ≠ .on ∧ (t.gd.ch.get p).out ≠ .on ∧ (t.gd.ch.get (legHigh c)).hold = max (s.pu 0x20 (grpOf c) 16) (s.pu 0x20 (grpOf c) 20) ∧ t = { s with gd := t.gd }) ∧
  (∀ (s : State) (c p : Chan) (ft : Int),
   s.onEdgeDue c ft = true → s.chPresent c = true → (s.gd.ch.get c).out = .off → mayTurnOn s c = true → s.legHeld c = false → s.inRefresh c = true → partner c = some p → (s.gd.ch.get p).out ≠ .on → (s.gd.ch.get p).cmd = false → 
   exec (.gateTurnOn c ft) s = .next (s.updCh c (fun x => { x with cmd := true, linkOk := true, needEdge := false }))) ∧
  (∀ (s : State) (c : Chan) (ft : Int) (v : Q) (ns : Nat),
   s.offEdgeDue c ft = true → s.chPresent c = true → (s.gd.ch.get c).out ≠ .on ∨ s.inRefresh c = true → 
   exec (.gateTurnOff c ft v ns) s = .next (nextHalf c (s.updCh c (fun x => { x with cmd := false })))) ∧
  (∀ (s : State) (c : Chan) (ft : Int) (v : Q) (ns : Nat),
   s.offEdgeDue c ft = true → s.chPresent c = true → (s.gd.ch.get c).out = .on → s.inRefresh c = false → 29 ≤ c.val ∨ ns < s.blankNs c ∨ v ≤ s.pf 0x10 c 28 → 
   exec (.gateTurnOff c ft v ns) s = .next (nextHalf c (s.updCh c (fun x => { x with cmd := false, out := .off, clamp := s.clampOn c, drive := sinkSeq s c, acc := x.acc + s.offEnergy c ns })))) ∧
  (∀ (s : State) (c : Chan) (ft : Int) (v : Q) (ns : Nat),
   s.offEdgeDue c ft = true → s.chPresent c = true → c.val < 29 → (s.gd.ch.get c).out = .on → s.blankNs c ≤ ns → s.pf 0x10 c 28 < v → 
   Answers (exec (.gateTurnOff c ft v ns) s) fun t => (t.gd.ch.get c).out = .soft ∧ (t.gd.ch.get c).race = satInc 8 (s.gd.ch.get c).race ∧ (t.gd.ch.get c).desat = (s.gd.ch.get c).desat ∧ active 0x2809 c.val t = true ∧ SameButFaults (nextHalf c (s.updCh c (fun x => { x with cmd := false, out := .soft, drive := softSeq s c, softT := 0, race := satInc 8 x.race, acc := x.acc + s.offEnergy c ns }))) t) ∧
  (∀ (s : State) (d : Fin 7) (c : Chan),
   domOf c = d → s.chPresent c = true → s.inAsc (stageOf c) = false → s.permit c ≠ (true, true) → 
   Answers (exec (.permitRemovalTurnOff d) s) fun t => (∀ k, domOf k = d → s.chPresent k = true → s.inAsc (stageOf k) = false → s.permit k ≠ (true, true) → (t.gd.ch.get k).out ≠ .on) ∧ (∀ k, (s.gd.ch.get k).out ≠ .on → (t.gd.ch.get k).out ≠ .on) ∧ (∀ k, (t.gd.ch.get k).flags = (s.gd.ch.get k).flags) ∧ Grows s t ∧ t.beyond = s.beyond)

/-- The first short of a stage opens its watch window and changes nothing else; a second channel's short in it turns every output of the stage off and raises 0x2803, and the window's end turns them off without a fault; a refresh that is due, and one that an undervoltage inserts at once, turns the high side off, begins the refresh of its leg and is counted; the off-state tests, with their test current applied and settled for 2 ms, give the result and the fault of their table, for a bridge pair by pair of the legs with a test current and named by the leg that failed, and a bridge that passes lets its sequence move on; a traction set that passes its start test reads so with every output off again, and one that fails raises 0x280D or 0x280E for the output that shows it; routine 0xF300 clears a channel's latched flags and its stage's result, and moves a set in ASC on its high sides back to low sides that carry no flag any more, but raises 0x2810 for a channel with three shorts. -/
def Obligations.GateStages : Prop :=
  (∀ (s : State) (c : Chan),
   s.chPresent c = true → (s.gd.ch.get c).desat = true ∨ (s.gd.ch.get c).gc = true → s.inAsc (stageOf c) = false → (s.gd.st.get (stageOf c)).watch = none → 
   exec (.shortReport c) s = .next { s with gd := { s.gd with st := s.gd.st.upd (stageOf c) (fun y => { y with watch := some c }) } }) ∧
  (∀ (s : State) (c k : Chan),
   s.chPresent c = true → (s.gd.ch.get c).desat = true ∨ (s.gd.ch.get c).gc = true → s.inAsc (stageOf c) = false → (s.gd.st.get (stageOf c)).watch = some k → k ≠ c → 
   Answers (exec (.shortReport c) s) fun t => (∀ d, stageOf d = stageOf c → (t.gd.ch.get d).out ≠ .on) ∧ (∀ d, (t.gd.ch.get d).flags = (s.gd.ch.get d).flags) ∧ (t.gd.st.get (stageOf c)).watch = none ∧ active 0x2803 c.val t = true ∧ Grows s t ∧ t.beyond = s.beyond) ∧
  (∀ (s : State) (g : Stage) (k : Chan),
   (s.gd.st.get g).watch = some k → 
   Answers (exec (.watchWindowEnd g) s) fun t => (∀ d, stageOf d = g → (t.gd.ch.get d).out ≠ .on) ∧ (∀ d, (t.gd.ch.get d).flags = (s.gd.ch.get d).flags) ∧ (t.gd.st.get g).watch = none ∧ Grows s t ∧ t.beyond = s.beyond) ∧
  (∀ (s : State) (c : Chan) (since pulse : Nat),
   s.chPresent c = true → isHighSide c = true → s.stageRuns (stageOf c) = true → 50 ≤ since → ((s.gd.ch.get c).cmd = true → 50 ≤ pulse) → s.inRefresh c = false → s.legHeld c = false → 
   exec (.bootstrapRefresh c since pulse) s = .next (s.updCh c (fun x => { x with out := if x.out = .on then .off else x.out, drive := if x.out = .on then sinkSeq s c else x.drive, acc := if x.out = .on then x.acc + s.offEnergy c (s.onNs c) else x.acc, refr := some 0, refresh := satInc 16 x.refresh }))) ∧
  (∀ (s : State) (c : Chan) (v : Q) (ns : Nat),
   s.chPresent c = true → isHighSide c = true → v < s.pf 0x10 c 44 → 1000 ≤ ns → (s.gd.ch.get c).cmd = true ∨ (s.gd.ch.get c).out = .on → s.inRefresh c = false → s.legHeld c = false → 
   exec (.bootstrapUndervoltage c v ns) s = .next (s.updCh c (fun x => { x with hi := v, bstUv := true, out := if x.out = .on then .off else x.out, drive := if x.out = .on then sinkSeq s c else x.drive, acc := if x.out = .on then x.acc + s.offEnergy c (s.onNs c) else x.acc, refr := some 0, refresh := satInc 16 x.refresh }))) ∧
  (∀ (s : State) (c : Chan) (v : Q) (us : Nat),
   s.chPresent c = true → isHighSide c = true → s.pf 0x10 c 44 + 1 / 2 < v → 1000 ≤ us → 
   exec (.bootstrapUvClear c v us) s = .next (s.updCh c (fun x => { x with hi := v, bstUv := false }))) ∧
  (∀ (s : State) (n : Fin 6) (c : Chan) (us : Nat) (sink source vBus : Q),
   c.val = 31 + 2 * n.val → s.chPresent c = true → s.pu 0x10 c 60 % 4 ≠ 0 → (s.gd.ch.get c).out = .off → (s.gd.ch.get (buckLow n)).out = .off → 2000 ≤ us → 
   (5 ≤ vBus → absQ (sink - vBus) ≤ 1 / 2 → absQ (source - vBus) ≤ 1 / 2 → exec (.offStateDiagnostics (.buck n) (.buck us sink source vBus)) s = .next (setOsd (.buck n) 1 (testCurrent (.buck n) c s))) ∧
        (vBus < 5 → sink < vBus + 2 → exec (.offStateDiagnostics (.buck n) (.buck us sink source vBus)) s = .next (setOsd (.buck n) 3 (testCurrent (.buck n) c s))) ∧
        (vBus + 2 ≤ sink → Answers (exec (.offStateDiagnostics (.buck n) (.buck us sink source vBus)) s) fun t => active 0x280B c.val t = true ∧ (t.gd.st.get (.buck n)).osd = 2 ∧ (∀ d, (t.gd.ch.get d).out = .on → (s.gd.ch.get d).out = .on) ∧ Grows s t ∧ t.beyond = s.beyond) ∧
        (5 ≤ vBus → sink < vBus + 2 → source ≤ 3 / 10 → Answers (exec (.offStateDiagnostics (.buck n) (.buck us sink source vBus)) s) fun t => active 0x280A c.val t = true ∧ (t.gd.st.get (.buck n)).osd = 2 ∧ (∀ d, (t.gd.ch.get d).out = .on → (s.gd.ch.get d).out = .on) ∧ Grows s t ∧ t.beyond = s.beyond) ∧
        (5 ≤ vBus → 1 / 2 < absQ (sink - vBus) → sink < vBus + 2 → 3 / 10 < source → Answers (exec (.offStateDiagnostics (.buck n) (.buck us sink source vBus)) s) fun t => active 0x280C c.val t = true ∧ (t.gd.st.get (.buck n)).osd = 2 ∧ (∀ d, (t.gd.ch.get d).out = .on → (s.gd.ch.get d).out = .on) ∧ Grows s t ∧ t.beyond = s.beyond)) ∧
  (∀ (s : State) (t : TSet) (r : StartTest),
   s.ptEnabled t = true → s.sys.mode = .drive → s.sys.dcInside = true → s.setPermit t = true → (s.pwm.get t.grp).running = false → s.startAsked t = true → 
   (s.pf 3 0 8 ≤ absQ (s.omegaM t) → exec (.tractionStartTest t r) s = .next (setOsd t.stage 3 s)) ∧
        (absQ (s.omegaM t) < s.pf 3 0 8 → (∃ k : Fin 3, s.dc.dclT / 2 ≤ r.phases[k]) → Answers (exec (.tractionStartTest t r) s) fun u => (u.gd.st.get t.stage).osd = 2 ∧ (∀ k : Fin 3, s.dc.dclT / 2 ≤ r.phases[k] → active 0x280D (t.highs.getD k.val 0).val u = true) ∧ Grows s u ∧ u.beyond = s.beyond) ∧
        (absQ (s.omegaM t) < s.pf 3 0 8 → (∀ k : Fin 3, r.phases[k] < s.dc.dclT / 2) → (∃ k : Fin 3, iFsOf s t / 10 < absQ r.low[k].1) → Answers (exec (.tractionStartTest t r) s) fun u => (u.gd.st.get t.stage).osd = 2 ∧ (∃ c ∈ t.lows, active 0x280E c.val u = true) ∧ (iFsOf s t / 10 < absQ r.low[0].1 → active 0x280E (t.lows.getD 0 0).val u = true) ∧ Grows s u ∧ u.beyond = s.beyond) ∧
        (absQ (s.omegaM t) < s.pf 3 0 8 → (∀ k : Fin 3, r.phases[k] < s.dc.dclT / 2) → (∀ k : Fin 3, absQ r.low[k].1 ≤ iFsOf s t / 10) → (∀ c, c ∈ t.lows ++ t.highs → (s.gd.ch.get c).desat = false ∧ (s.gd.ch.get c).gc = false ∧ (s.gd.ch.get c).out ≠ .on) →
          (∀ c, c ∈ t.lows ++ t.highs → ∀ ch, (∃ k : Fin 3, ch = r.low[k].2 ∨ ch = r.pair[k].high ∨ ch = r.pair[k].low) → ∀ n, gcCross s c ch = some n → s.pf 0x10 c 40 ≤ gateCharge s c n) →
          (∀ k : Fin 3, pulseOk s t (t.lows.getD ((k.val + 1) % 3) 0) s.dc.dclT r.pair[k] = true) →
          Answers (exec (.tractionStartTest t r) s) fun u => (u.gd.st.get t.stage).osd = 1 ∧ (∀ c, c ∈ t.lows ++ t.highs → (u.gd.ch.get c).out ≠ .on) ∧ (∀ c, c ∉ t.lows ++ t.highs → u.gd.ch.get c = s.gd.ch.get c) ∧ u = { s with gd := u.gd })) ∧
  (∀ (s : State) (p : UPath) (c : Chan),
   s.routineNrc p 0xF300 = 0 → s.chPresent c = true → s.sys.mode = .ready ∨ s.sys.mode = .convert ∨ s.sys.mode = .safe → s.stageRuns (stageOf c) = false → (∀ x, (s.ss.get x).st ≠ 3) → 
   ((s.gd.ch.get c).shorts < 3 → Answers (exec (.clearLatchedFlags p c.val) s) fun t => (t.gd.ch.get c).latched = false ∧ (t.gd.st.get (stageOf c)).osd = 0 ∧ (∀ d, d ≠ c → t.gd.ch.get d = s.gd.ch.get d) ∧
          (t.gd.ch.get c).shorts = (s.gd.ch.get c).shorts ∧ active 0x2801 c.val t = false ∧ t.out = .uds p (s.udsResp p) [0x71, 0x01, 0xF3, 0x00] :: s.out ∧ SameButFaults { s with gd := t.gd, out := t.out } t) ∧
        (3 ≤ (s.gd.ch.get c).shorts → Answers (exec (.clearLatchedFlags p c.val) s) fun t => active 0x2810 c.val t = true ∧ SameButFaults { s with out := .uds p (s.udsResp p) [0x71, 0x01, 0xF3, 0x00] :: s.out } t)) ∧
  (∀ (s : State) (p : UPath) (c : Chan) (x : TSet),
   s.routineNrc p 0xF300 = 0 → s.chPresent c = true → s.sys.mode = .ready ∨ s.sys.mode = .convert ∨ s.sys.mode = .safe → s.stageRuns (stageOf c) = false → (s.gd.ch.get c).shorts < 3 → (s.ss.get x).st = 3 → s.sup.biasA = true → c ∈ x.lows → (∀ d ∈ x.lows, (d ≠ c → (s.gd.ch.get d).latched = false) ∧ s.gd.hsFailed.contains d = false) → 
   Answers (exec (.clearLatchedFlags p c.val) s) fun t => (t.gd.ch.get c).latched = false ∧ (t.ss.get x).st = 2) ∧
  (∀ (s : State) (g : Stage) (a : Act) (us : Nat) (uv vw wu : Q × Q) (vS : Q) (tested : List (Chan × Chan × (Q × Q))),
   g = a.stage → tested = [(chanAt a.base, chanAt (a.base + 2), uv), (chanAt (a.base + 2), chanAt (a.base + 4), vw), (chanAt (a.base + 4), chanAt a.base, wu)].filter (fun p => s.chPresent p.1 && decide (s.pu 0x10 p.1 60 % 4 ≠ 0)) → tested ≠ [] → (s.pwm.get a.grp).running = false → 2000 ≤ us → 
   ((∀ p ∈ tested, legPair vS p.2.2 = 0) → Answers (exec (.offStateDiagnostics g (.bridge us uv vw wu vS)) s) fun t => (t.gd.st.get g).osd = 1 ∧ (t.act.get a).phase = (if (s.act.get a).phase = .diag then (if (s.act.get a).ref.isSome = true ∧ within s a (actPos s a) (s.act.get a).target = true then .braking else .moving) else (s.act.get a).phase) ∧ t.gd.ch = s.gd.ch ∧ t = { s with gd := t.gd, act := t.act }) ∧
        (∀ p ∈ tested, legPair vS p.2.2 ≠ 0 → Answers (exec (.offStateDiagnostics g (.bridge us uv vw wu vS)) s) fun t => (t.gd.st.get g).osd = 2 ∧ active (legPair vS p.2.2) (failedLeg vS p.1 p.2.1 p.2.2 (legPair vS p.2.2)).val t = true ∧ Grows s t))


/-- Each condition that the charger's rules give raises its own fault and leaves both stages stopped with no carrier running; no active fault ends and nothing outside the reactions of a fault changes. A stop on request while the DAB charges ramps its current to 0 in 100 ms; else it turns every output of groups 3 and 4 off without a fault; the relays are then commanded open once the currents are below 1 A or after 20 ms. A late stage keeps its values, and from the third miss in a row on each raises 0x300E. -/
def Obligations.ChargerStops : Prop :=
  (∀ (s : State) (code : Nat),
   s.fn 3 = true → 0x3001 ≤ code → code ≤ 0x3010 → 
   Answers (exec (.chargerFaultStop code) s) fun t => ChgrOff t ∧ active code (if code = 0x3008 ∨ code = 0x3009 ∨ code = 0x300A ∨ code = 0x300B ∨ code = 0x300C then 1 else 0) t = true ∧ Grows s t ∧ t.beyond = s.beyond) ∧
  (∀ (s : State) (h : Fin 6) (ms : Nat),
   s.fn 3 = true → 50 ≤ ms → (h = relayHso s true ∧ s.pfc.mainCmd ≠ s.pfc.main) ∨ (h = relayHso s false ∧ s.pfc.preCmd ≠ s.pfc.pre) → 
   Answers (exec (.relayFeedbackTimeout h ms) s) fun t => ChgrOff t ∧ active 0x3007 0 t = true ∧ Grows s t ∧ t.beyond = s.beyond) ∧
  (∀ (s : State) (h : Fin 6) (ms : Nat),
   50 ≤ ms → ¬(s.fn 3 = true ∧ ((h = relayHso s true ∧ s.pfc.mainCmd ≠ s.pfc.main) ∨ (h = relayHso s false ∧ s.pfc.preCmd ≠ s.pfc.pre))) → roleHso s = some h → s.chg.roleCmd ≠ s.chg.roleOk → 
   Answers (exec (.relayFeedbackTimeout h ms) s) fun t => active 0x400D noInst t = true ∧ Grows s t ∧ t.beyond = s.beyond) ∧
  (∀ (s : State) (ms : Nat),
   s.pfc.st = 1 → s.pfc.dir = 0 → s.pfc.mainCmd = false → s.pf 0x50 0 72 * 1000 ≤ ms → 
   Answers (exec (.prechargeTimeout ms) s) fun t => ChgrOff t ∧ active 0x3006 0 t = true ∧ Grows s t ∧ t.beyond = s.beyond) ∧
  (∀ (s : State) (ms : Nat),
   s.pfc.st = 2 → s.pfc.busOk = false → busRampMs s + 100 ≤ ms → 
   Answers (exec (.busRampTimeout ms) s) fun t => ChgrOff t ∧ active 0x3003 0 t = true ∧ Grows s t ∧ t.beyond = s.beyond) ∧
  (∀ (s : State) (v : Q) (ms : Nat),
   s.pfc.dir = 0 → s.pfc.busOk = true → 10 ≤ ms → v < s.pf 0x50 0 32 - 100 → 
   Answers (exec (.busUndervoltage v ms) s) fun t => ChgrOff t ∧ active 0x3003 0 t = true ∧ Grows s t ∧ t.beyond = s.beyond) ∧
  (∀ (s : State) (ms : Nat),
   s.pfc.st = 4 → s.pfc.ilim = true → s.pf 0x50 0 104 * 1000 ≤ ms → 
   Answers (exec (.reverseOverload ms) s) fun t => ChgrOff t ∧ active 0x300D 0 t = true ∧ Grows s t ∧ t.beyond = s.beyond) ∧
  (∀ (s : State) (ms : Nat),
   s.pfc.st ≠ 0 ∨ s.dab.st ≠ 0 → s.pu 0x50 1 80 < 6 → (∀ h : Fin 6, h.val = s.pu 0x50 1 80 → s.saf.hso.get h = true) → 1 ≤ ms → 
   Answers (exec (.batteryContactorOpen ms) s) fun t => ChgrOff t ∧ active 0x300B 1 t = true ∧ Grows s t ∧ t.beyond = s.beyond) ∧
  (∀ (s : State) (v : Q) (ms : Nat),
   s.pfc.st = 2 → s.pfc.busOk = false → 10 ≤ ms → absQ (v - s.pfc.busRef) ≤ 10 → s.pfc.dir = 1 → s.pfc.busRef = s.pf 0x50 0 32 → ¬(s.chg.role = 3 ∧ s.chg.phase = 3 ∧ s.chg.pilot ≠ 2) → s.sup.acPresent = true → 
   Answers (exec (.busOkReached v ms) s) fun t => ChgrOff t ∧ active 0x3010 0 t = true ∧ Grows s t ∧ t.beyond = s.beyond) ∧
  (∀ (s : State),
   s.pfc.st ≠ 0 ∨ s.dab.st ≠ 0 → (s.dab.st ≠ 2 ∧ s.dab.st ≠ 3) ∨ s.dab.iCmd = 0 → s.dab.stopRamp = none → 
   Answers (exec .chargerStopRequest s) fun t => ChgrOff t ∧ (∀ d, grpOf d = 3 ∨ grpOf d = 4 → (t.gd.ch.get d).out ≠ .on) ∧ t.chg.s2 = false ∧ t.faults = s.faults ∧ t.beyond = s.beyond) ∧
  (∀ (s : State),
   s.dab.st = 2 ∨ s.dab.st = 3 → s.dab.iCmd ≠ 0 → s.dab.stopRamp = none → 
   exec .chargerStopRequest s = .next { s with dab := { s.dab with stopRamp := some (10 * absQ s.dab.iCmd) } }) ∧
  (∀ (s : State) (i : Q) (ms : Nat),
   s.pfc.st = 5 → (s.pwm.get 3).running = false → i < 1 ∨ 20 ≤ ms → 
   exec (.mainRelayOpen i ms) s = .next { s with saf := { s.saf with hso := (s.saf.hso.put (relayHso s true) false).put (relayHso s false) false }, pfc := { s.pfc with st := 0, mainCmd := false, preCmd := false } }) ∧
  (∀ (s : State),
   s.pfc.st ≠ 0 ∨ s.dab.st ≠ 0 → 
   (s.dab.lateRun < 2 → exec (.chargerDeadlineMiss true) s = .next { s with dab := { s.dab with lateRun := min (s.dab.lateRun + 1) 255, lateTotal := satInc 8 s.dab.lateTotal }, pwm := s.pwm.upd 4 (fun g => { g with next := none, lateLast := true }) }) ∧
        (2 ≤ s.dab.lateRun → Answers (exec (.chargerDeadlineMiss true) s) fun t => active 0x300E 1 t = true ∧ Grows s t ∧ t.beyond = s.beyond) ∧
        (s.pfc.lateRun < 2 → exec (.chargerDeadlineMiss false) s = .next { s with pfc := { s.pfc with lateRun := min (s.pfc.lateRun + 1) 255, lateTotal := satInc 8 s.pfc.lateTotal }, pwm := s.pwm.upd 3 (fun g => { g with next := none, lateLast := true }) }) ∧
        (2 ≤ s.pfc.lateRun → Answers (exec (.chargerDeadlineMiss false) s) fun t => active 0x300E 0 t = true ∧ Grows s t ∧ t.beyond = s.beyond))

/-- A start request in CHARGE ends the faults that R289 gives to it, starts both carriers with every output off, that of group 3 only where it is not anchored, which waits for its anchored start, and commands the precharge relay (forward, noting the grid voltage of that moment) or brings the bus up in bus mode (reverse, with the DC link between V_dc,min and V_dc,max by its upper bound); each confirmed relay and each bus level takes the sequence to its next step and changes nothing else. -/
def Obligations.ChargerStarts : Prop :=
  (∀ (s : State),
   s.fn 3 = true → s.sys.mode = .charge → s.grid.ok = true → s.pfc.st = 0 → s.dab.st = 0 → (clearStartFaults s).chargerBlocked = false → 
   Answers (exec .forwardStart s) fun t => t.pfc.st = 1 ∧ t.pfc.dir = 0 ∧ t.pfc.busOk = false ∧ t.pfc.preCmd = true ∧ t.dab.st = 1 ∧ t.dab.delta = 0 ∧ (s.pu 0x20 3 40 ≠ 1 → (t.pwm.get 3).running = true) ∧ (s.pu 0x20 3 40 = 1 → t.pwm.get 3 = s.pwm.get 3) ∧ (t.pwm.get 4).running = true ∧
        t.pfc.vStart = vRms s ∧ (∀ d, grpOf d = 3 ∨ grpOf d = 4 → (t.gd.ch.get d).out ≠ .on) ∧
        t.saf.hso.get (relayHso s false) = true ∧ (∀ c j, c ∈ [0x3001, 0x3002, 0x3003, 0x3006, 0x3007, 0x3008, 0x3009, 0x300A, 0x300B, 0x300C, 0x300D, 0x300E, 0x300F, 0x3010] → j < 2 → active c j t = false) ∧
        SameButFaults { s with pfc := t.pfc, dab := t.dab, pwm := t.pwm, gd := t.gd, saf := t.saf } t) ∧
  (∀ (s : State),
   s.fn 3 = true → s.sys.mode = .charge → s.pf 0x50 0 80 ≠ 0 ∧ s.pf 0x50 0 84 ≠ 0 ∧ s.pf 0x50 0 88 ≠ 0 → s.pf 3 0 0 ≤ s.vMax → s.vMax ≤ s.pf 3 0 4 → s.pfc.st = 0 → s.dab.st = 0 → (clearStartFaults s).chargerBlocked = false → s.chg.role ≠ 3 ∨ (s.chg.cp = 1 ∧ s.chg.pilot = 1) ∨ (s.chg.cp = 2 ∧ s.chg.pilot = 2) → 
   Answers (exec .reverseStart s) fun t => t.pfc.st = 2 ∧ t.pfc.dir = 1 ∧ t.pfc.busOk = false ∧ t.pfc.busRef = s.dab.vbus ∧ (∀ d, grpOf d = 3 ∨ grpOf d = 4 → (t.gd.ch.get d).out ≠ .on) ∧ t.dab.st = 4 ∧ t.pfc.outReady = false ∧ (s.pu 0x20 3 40 ≠ 1 → (t.pwm.get 3).running = true) ∧ (s.pu 0x20 3 40 = 1 → t.pwm.get 3 = s.pwm.get 3) ∧ (t.pwm.get 4).running = true ∧
        (∀ c j, c ∈ [0x3001, 0x3002, 0x3003, 0x3006, 0x3007, 0x3008, 0x3009, 0x300A, 0x300B, 0x300C, 0x300D, 0x300E, 0x300F, 0x3010] → j < 2 → active c j t = false) ∧
        SameButFaults { s with pfc := t.pfc, dab := t.dab, pwm := t.pwm, gd := t.gd } t) ∧
  (∀ (s : State) (h : Fin 6),
   s.fn 3 = true → roleHso s ≠ some h → h = relayHso s false → h ≠ relayHso s true → s.pfc.st = 1 → s.pfc.dir = 0 → 
   (s.pfc.preCmd = true → s.pfc.main = false → exec (.relayConfirmed h true) s = .next { s with pfc := { s.pfc with pre := true } }) ∧
        (s.pfc.preCmd = false → s.pfc.mainCmd = true → s.pfc.main = true → exec (.relayConfirmed h false) s = .next { s with pfc := { s.pfc with pre := false, st := 2, busRef := s.dab.vbus, ramp0 := s.dab.vbus } })) ∧
  (∀ (s : State) (h : Fin 6),
   s.fn 3 = true → roleHso s ≠ some h → h = relayHso s true → s.pfc.mainCmd = true → 
   (s.pfc.st = 1 → s.pfc.dir = 0 → s.pfc.preCmd = true → exec (.relayConfirmed h true) s = .next { s with pfc := { s.pfc with main := true, preCmd := false }, saf := { s.saf with hso := s.saf.hso.put (relayHso s false) false } }) ∧
        (s.pfc.st = 2 → s.pfc.dir = 1 → s.pfc.busOk = true → exec (.relayConfirmed h true) s = .next { s with pfc := { s.pfc with main := true, st := 4, vdRef := 0 } })) ∧
  (∀ (s : State) (h : Fin 6) (closed : Bool),
   roleHso s = some h → s.chg.roleCmd = closed → (s.fn 3 = true → h ≠ relayHso s true ∧ h ≠ relayHso s false) → 
   exec (.relayConfirmed h closed) s = .next { s with chg := { s.chg with roleOk := closed, pilot := if closed = true ∧ s.chg.pilot = 0 then 1 else s.chg.pilot } }) ∧
  (∀ (s : State) (v : Q),
   s.pfc.st = 1 → s.pfc.dir = 0 → s.pfc.pre = true → s.pfc.mainCmd = false → 0 ≤ v → (if singlePhase s then 81 / 50 else 243 / 50) * s.pfc.vStart * s.pfc.vStart ≤ v * v → 
   exec (.prechargeComplete v) s = .next { s with dab := { s.dab with vbus := v }, pfc := { s.pfc with mainCmd := true }, saf := { s.saf with hso := s.saf.hso.put (relayHso s true) true } }) ∧
  (∀ (s : State) (v : Q) (ms : Nat),
   s.pfc.st = 2 → s.pfc.busOk = false → 10 ≤ ms → absQ (v - s.pfc.busRef) ≤ 10 → 
   (s.pfc.dir = 0 → s.pfc.busRef = busTarget s → exec (.busOkReached v ms) s = .next { s with pfc := { s.pfc with busOk := true, st := 3 }, dab := { s.dab with vbus := v, st := 2, delta := 0, phi := 0, xc := 0, xvb := 0, iCmd := 0, win := [] } }) ∧
        (s.pfc.dir = 1 → s.pfc.busRef = s.pf 0x50 0 32 → ¬(s.chg.role = 3 ∧ s.chg.phase = 3 ∧ s.chg.pilot ≠ 2) → s.sup.acPresent = false →
          exec (.busOkReached v ms) s = .next { s with pfc := { s.pfc with busOk := true, mainCmd := true }, dab := { s.dab with vbus := v }, saf := { s.saf with hso := s.saf.hso.put (relayHso s true) true } }))

/-- A PFC update at a trigger that group 3 enables stores the three inductor currents, each from its ΣΔ window or, without one, the value before it, and the third as the negated sum of the others where the record names no input for it, and steps the grid loop by its angle error, or in reverse by F_REV; while the PFC switches and nothing stops it, the update writes the three values of the legs; at another trigger nothing happens. A DAB update stores the bus voltage and the battery current in the same way; while the DAB switches and nothing stops it, the shift it commits stays within DELTA_MAX and its four offsets are those of that shift. An update that is made ends the run of missed ones of its stage. Nothing outside the charger, the grid loop and the reactions of a fault changes, and but for 0x3004 and 0x3005 no active fault ends. -/
def Obligations.ChargerUpdates : Prop :=
  (∀ (s : State) (tr : Trig) (x : PfcIn) (y : PfcVals) (e : Q),
   s.fn 3 = true → pfcFires s tr = true → s.pfc.st = 0 → s.dab.st = 0 → y = pfcVals s x → e = divQ ((gridAB (noteHist y s) y).2 * cosA s.grid.theta - (gridAB (noteHist y s) y).1 * sinA s.grid.theta) (sqrtQ ((gridAB (noteHist y s) y).1 * (gridAB (noteHist y s) y).1 + (gridAB (noteHist y s) y).2 * (gridAB (noteHist y s) y).2)) → 
   Answers (exec (.pfcUpdate tr x) s) fun t => t.pfc.ia = y.i1 * s.pf 0x50 0 8 ∧ t.pfc.ib = y.i2 * s.pf 0x50 0 8 ∧ t.pfc.ic = y.i3 * s.pf 0x50 0 8 ∧
        t.grid.w = s.grid.w + (if e = 0 then 0 else 60 * piQ) * (if e = 0 then 0 else 60 * piQ) * pfcTs s * e ∧ SameButFaults { s with pfc := t.pfc, grid := t.grid } t) ∧
  (∀ (s : State) (tr : Trig) (x : PfcIn) (y : PfcVals),
   s.fn 3 = true → pfcFires s tr = true → y = pfcVals s x → (s.pfc.dir = 0 ∧ (s.pfc.st = 2 ∨ s.pfc.st = 3)) ∨ s.pfc.st = 4 → 
   Answers (exec (.pfcUpdate tr x) s) fun t => (ChgrOff t ∨ ((∃ es, es.length = 3 ∧ (t.pwm.get 3).next = some es) ∧ t.pfc.ia = y.i1 * s.pf 0x50 0 8 ∧ t.pfc.ib = y.i2 * s.pf 0x50 0 8 ∧ t.pfc.ic = y.i3 * s.pf 0x50 0 8 ∧ t.pfc.st = s.pfc.st ∧ t.pfc.lateRun = 0 ∧
          (s.pfc.dir = 1 → s.pfc.st = 4 → t.grid = { (noteHist y s).grid with theta := ang ((s.grid.theta : Int) + roundQ (s.pf 0x50 0 84 * pfcTs s * 2 ^ 32)), w := 2 * piQ * s.pf 0x50 0 84 }))) ∧
        t.beyond = { s with grid := t.grid }.beyond) ∧
  (∀ (s : State) (tr : Trig) (x : PfcIn),
   s.fn 3 = false ∨ pfcFires s tr = false → 
   exec (.pfcUpdate tr x) s = .next s) ∧
  (∀ (s : State) (vw iw : SdWindow) (v i : Q),
   v = (match sdSample s 4 vw with | some u => u * s.pf 0x50 1 12 | none => s.dab.vbus) → i = (match sdSample s 4 iw with | some u => u * s.pf 0x50 1 4 | none => s.dab.ibat) → 
   s.fn 4 = true → s.dab.st < 2 → s.dc.stale2 = false → 
   exec (.dabUpdate vw iw) s = .next { s with dab := { s.dab with vbus := v, ibat := i, lateRun := 0 }, pfc := { s.pfc with stale := 0 } }) ∧
  (∀ (s : State) (vw iw : SdWindow) (v i : Q),
   v = (match sdSample s 4 vw with | some u => u * s.pf 0x50 1 12 | none => s.dab.vbus) → i = (match sdSample s 4 iw with | some u => u * s.pf 0x50 1 4 | none => s.dab.ibat) → 
   s.fn 4 = true → s.dab.st = 2 ∨ s.dab.st = 3 ∨ s.dab.st = 4 → 0 ≤ s.pf 0x50 1 48 → 
   Answers (exec (.dabUpdate vw iw) s) fun t => (ChgrOff t ∨ (t.dab.vbus = v ∧ t.dab.ibat = i ∧ t.dab.lateRun = 0 ∧ absQ t.dab.delta ≤ s.pf 0x50 1 48 ∧ t.dab.phi = roundQ (t.dab.delta * s.pu 0x20 4 12 / 2) ∧
          (t.pwm.get 4).next = some (dabOffsets (s.pu 0x20 4 12) t.dab.phi t.dab.dp t.dab.ds) ∧ (s.dab.st = 4 ↔ t.dab.st = 4))) ∧ Grows s t ∧ t.beyond = s.beyond)

/-- A due start, or a restart request in a mode that runs the converter, once its rails, its handshakes and the crystal are there, ends the converter's faults, returns the LV permits and begins the DCX at twice its frequency; V48 at its level ends the DCX's start and begins the buck's steps; a retry begins the soft start from the local reading with the pre-charge of the legs whose bootstrap reads low; a stop turns every output of groups 5 to 7 off and, for a fault of the converter, removes the LV permits. -/
def Obligations.LvStartStop : Prop :=
  (∀ (s : State) (v48 rs ls : Q) (us : Nat) (ring : Q) (boot : List (Chan × Q)),
   s.fn 5 = true → s.lvc.due = true → s.lvReady = true → 
   Answers (exec (.lvConverterStart v48 rs ls us ring boot) s) fun t => SameButFaults { s with lvc := { s.lvc with v48 := v48, due := false, f3Stop := false, dcx := 1, buck := 0, retries := 0, freq := 2 * s.pf 0x58 0 0, srOn := t.lvc.srOn }, saf := { s.saf with lvC := true, lvP := true }, pwm := t.pwm, gd := t.gd } t ∧ (∀ k, k ≠ 5 → k ≠ 6 → t.pwm.get k = s.pwm.get k) ∧ (t.pwm.get 5).running = true ∧ (∀ d : Chan, d.val ≠ 29 → d.val ≠ 30 → t.gd.ch.get d = s.gd.ch.get d) ∧
        ∀ c, 0x3801 ≤ c → c ≤ 0x380A → active c noInst t = false) ∧
  (∀ (s : State) (v48 rs ls : Q) (us : Nat) (ring : Q) (boot : List (Chan × Q)),
   s.fn 5 = true → s.lvc.due = false → s.lvc.dcx = 1 → 9 / 160 * s.vMin ≤ v48 → 
   (buckPresent s = false → exec (.lvConverterStart v48 rs ls us ring boot) s = .next { s with lvc := { s.lvc with dcx := 2, v48 := v48, freq := dcxFreq s us ring } }) ∧
        (buckPresent s = true → (phases6 s).any (fun n => !phaseBad s n && phaseDue s n) = true → exec (.lvConverterStart v48 rs ls us ring boot) s = .next { s with lvc := { s.lvc with dcx := 2, v48 := v48, freq := dcxFreq s us ring, buck := 1 } })) ∧
  (∀ (s : State) (rs ls : Q) (boot : List (Chan × Q)) (ms : Nat),
   s.lvc.buck = 4 → 200 ≤ ms → (phases6 s).filter (fun n => !phaseBad s n) ≠ [] → s.remotePresent = false ∨ absQ (rs - ls) ≤ s.pf 0x58 1 72 → 
   Answers (exec (.hiccupRetry rs ls boot ms) s) fun t => t.lvc.vref = ls ∧ t.lvc.act = (phases6 s).filter (fun n => !phaseBad s n) ∧ t.lvc.held = [] ∧ t.lvc.fbLocal = !s.remotePresent ∧ t.lvc.senseLost = false ∧ t.lvc.ovHold = false ∧ (t.lvc.buck = 3 ∧ ls = vSet t ∨ t.lvc.buck = 2 ∧ ls ≠ vSet t) ∧
        (t.pwm.get 7).running = true ∧ (t.pwm.get 7).precharged = (t.lvc.act.map buckHigh).filter (bootLow (readBoot boot s)) ∧ (t.pwm.get 7).preLeft = (if (t.pwm.get 7).precharged = [] then 0 else 800) ∧ (∀ k, k ≠ 7 → t.pwm.get k = s.pwm.get k) ∧ t = { s with lvc := t.lvc, pwm := t.pwm, gd := t.gd }) ∧
  (∀ (s : State) (rs ls : Q) (boot : List (Chan × Q)) (ms : Nat),
   s.lvc.buck = 4 → 200 ≤ ms → (phases6 s).filter (fun n => !phaseBad s n) = [] → 
   Answers (exec (.hiccupRetry rs ls boot ms) s) fun t => active 0x3809 noInst t = true ∧ Grows s t ∧ t.beyond = s.beyond) ∧
  (∀ (s : State),
   s.sys.mode = .ready ∨ active 0x3801 noInst s = true ∨ active 0x3802 noInst s = true ∨ active 0x380A noInst s = true → 
   Answers (exec .lvConverterStop s) fun t => t.lvc.dcx = 0 ∧ t.lvc.buck = 0 ∧ t.lvc.due = false ∧ (∀ d : Chan, 27 ≤ d.val → d.val < 43 → (t.gd.ch.get d).out ≠ .on) ∧
        (s.sys.mode ≠ .ready → t.saf.lvC = false ∧ t.saf.lvP = false) ∧ (s.sys.mode = .ready → t.saf = s.saf) ∧ t = { s with gd := t.gd, lvc := t.lvc, pwm := t.pwm, saf := t.saf }) ∧
  (∀ (s : State),
   s.fn 5 = true → s.sys.mode = .convert ∨ s.sys.mode = .drive ∨ s.sys.mode = .charge ∨ (s.sys.mode = .safe ∧ (lvFaultStop s = true ∨ (s.cat.locked = true ∧ s.sys.dcInside = true ∧ s.sup.biasB = true))) → s.lvReady = true → 
   (s.lvc.dcx = 0 → Answers (exec .lvRestartRequest s) fun t => SameButFaults { s with lvc := { s.lvc with due := false, f3Stop := false, dcx := 1, buck := 0, retries := 0, freq := 2 * s.pf 0x58 0 0, srOn := t.lvc.srOn }, saf := { s.saf with lvC := true, lvP := true }, pwm := t.pwm, gd := t.gd } t ∧ (∀ k, k ≠ 5 → k ≠ 6 → t.pwm.get k = s.pwm.get k) ∧ (t.pwm.get 5).running = true ∧ (∀ d : Chan, d.val ≠ 29 → d.val ≠ 30 → t.gd.ch.get d = s.gd.ch.get d) ∧ ∀ c, 0x3801 ≤ c → c ≤ 0x380A → active c noInst t = false) ∧
        (s.lvc.dcx = 2 → s.fn 6 = true → s.lvc.buck = 0 ∨ s.lvc.buck = 5 → Answers (exec .lvRestartRequest s) fun t => SameButFaults { s with lvc := { s.lvc with retries := 0, f3Stop := false, buck := 1 } } t ∧ ∀ c, 0x3801 ≤ c → c ≤ 0x380A → active c noInst t = false)) ∧
  (∀ (s : State) (v48 : Q) (k : Nat),
   (s.lvc.dcx = 1 → v48 < 9 / 160 * s.vMin → s.pf 0x58 0 4 * 1000 + 5 ≤ k → Answers (exec (.dcxStartTimeout v48 k) s) fun t => active 0x380A noInst t = true ∧ (active 0x380A noInst s = false → t.lvc.dcx = 0 ∧ t.lvc.buck = 0 ∧ t.saf.lvC = false ∧ t.saf.lvP = false) ∧ Grows s t ∧ t.beyond = s.beyond) ∧
        (s.lvc.dcx = 2 → s.pf 0x58 0 16 < v48 → 50 ≤ k → Answers (exec (.v48Overvoltage v48 k) s) fun t => active 0x3801 noInst t = true ∧ (active 0x3801 noInst s = false → t.lvc.dcx = 0 ∧ t.lvc.buck = 0 ∧ t.saf.lvC = false ∧ t.saf.lvP = false) ∧ Grows s t ∧ t.beyond = s.beyond) ∧
        (s.lvc.dcx = 2 → v48 < s.pf 0x58 0 12 → 50 ≤ k → Answers (exec (.v48Undervoltage v48 k) s) fun t => active 0x3802 noInst t = true ∧ (active 0x3802 noInst s = false → t.lvc.dcx = 0 ∧ t.lvc.buck = 0 ∧ t.saf.lvC = false ∧ t.saf.lvP = false) ∧ Grows s t ∧ t.beyond = s.beyond))

/-- A turn-on slot of an active phase, at its place in the period, stores the phase's current and the readings, folds the current limit back by the feedback voltage and gives the phase an on-time between 0 and its period; the first slot of a period takes the active phases' order and a period of 1 / F_SW spread by the triangle of SS_RATE, whose phase advances by the period before it; only the rectifiers follow; a slot in an all-phase response or until 1 us after it does no more than begin its period. A phase whose low side is on above its limit is held, one at or below it is released, which turns its low side off and delays its turn-on by the time that its hold took of the period, and at the negative limit its low side turns off. A write of the setpoint is taken whole, 0x3808 marks one outside its range; the reference moves toward the setpoint by at most its step. A lost remote sense switches the feedback to the local reading and the reference with it. -/
def Obligations.LvLoop : Prop :=
  (∀ (s u : State) (n : Fin 6) (x : SlotIn),
   s.lvc.buck = 2 ∨ s.lvc.buck = 3 → n ∈ s.lvc.act → s.lvc.ovHold = false → s.inResponse = false → u = (if beginsPeriod s n then newPeriod x (respace s) else s) → x.off = (slotPart u.lvc.slots n + u.lvc.slotD) * u.lvc.tPer → 0 ≤ u.lvc.tPer → 
   Answers (exec (.buckTurnOnSlot n x) s) fun t => t.lvc.ph = s.lvc.ph.put n (phaseCurrent s n x.vSw) ∧ t.lvc.rs = x.rs ∧ t.lvc.ls = x.ls ∧ t.lvc.v48 = x.v48 ∧
        (beginsPeriod s n = false → t.lvc.tPer = s.lvc.tPer) ∧ (beginsPeriod s n = true → t.lvc.slots = s.lvc.act ∧ t.lvc.ssPhase = (s.lvc.ssPhase + s.pf 0x58 1 12 * s.lvc.tPer) - ((s.lvc.ssPhase + s.pf 0x58 1 12 * s.lvc.tPer).floor : Q) ∧
          t.lvc.tPer = divQ 1 (s.pf 0x58 1 4 * (1 + s.pf 0x58 1 8 * (1 - 4 * absQ (t.lvc.ssPhase - 1 / 2))) * (1 + clampQ (-3 / 100) (3 / 100) x.ring))) ∧
        t.lvc.iFold = iBase s * foldBack (divQ (if s.lvc.fbLocal then x.ls else x.rs) (vSet s)) ∧ t.lvc.fold = decide (foldBack (divQ (if s.lvc.fbLocal then x.ls else x.rs) (vSet s)) < 1) ∧
        (∃ q, t.lvc.ton = s.lvc.ton.put n q ∧ 0 ≤ q ∧ q ≤ t.lvc.tPer) ∧ (∀ k, k ≠ 6 → t.pwm.get k = s.pwm.get k) ∧ (∀ d : Chan, d.val ≠ 29 → d.val ≠ 30 → t.gd.ch.get d = s.gd.ch.get d) ∧
        t = { u with gd := t.gd, pwm := t.pwm, lvc := { u.lvc with ph := t.lvc.ph, rs := t.lvc.rs, ls := t.lvc.ls, v48 := t.lvc.v48, delay := s.lvc.delay.put n 0, waiting := s.lvc.waiting.filter (· ≠ n), xv := t.lvc.xv, xi := t.lvc.xi, ilim := t.lvc.ilim, fold := t.lvc.fold, iFold := t.lvc.iFold, srOn := t.lvc.srOn, ton := t.lvc.ton } }) ∧
  (∀ (s : State) (n : Fin 6) (x : SlotIn),
   s.lvc.buck = 2 ∨ s.lvc.buck = 3 → n ∈ s.lvc.act → s.inResponse = true → (∀ ns, x.sinceNs = some ns → (ns : Q) / 1000000000 < s.pf 0x58 1 80 + 1 / 1000000) → 
   exec (.buckTurnOnSlot n x) s = .next (if beginsPeriod s n then newPeriod x (respace s) else s)) ∧
  (∀ (s : State) (n : Fin 6) (ft : Int) (i : Q),
   s.lvc.buck = 2 ∨ s.lvc.buck = 3 → n ∈ s.lvc.act → (s.gd.ch.get (buckLow n)).out = .on → 
   (s.pf 0x58 1 40 < i → exec (.phaseCurrentLimit n ft i) s = .next { s with lvc := { s.lvc with held := n :: s.lvc.held.filter (· ≠ n) } }) ∧
        (i ≤ s.pf 0x58 1 40 → (if s.lvc.buck = 2 then 0 else -(s.pf 0x58 1 44)) < i → n ∉ s.lvc.held → exec (.phaseCurrentLimit n ft i) s = .next s) ∧
        (i ≤ s.pf 0x58 1 40 → (if s.lvc.buck = 2 then 0 else -(s.pf 0x58 1 44)) < i → n ∈ s.lvc.held → ft ≤ 0 → exec (.phaseCurrentLimit n ft i) s = .next { s with lvc := { s.lvc with held := s.lvc.held.filter (· ≠ n) } }) ∧
        (i ≤ s.pf 0x58 1 40 → (if s.lvc.buck = 2 then 0 else -(s.pf 0x58 1 44)) < i → n ∈ s.lvc.held → 0 < ft → Answers (exec (.phaseCurrentLimit n ft i) s) fun t => (t.gd.ch.get (buckLow n)).out ≠ .on ∧ (t.gd.ch.get (buckLow n)).cmd = false ∧ t = { s with gd := t.gd, lvc := { s.lvc with held := s.lvc.held.filter (· ≠ n), delay := s.lvc.delay.put n ft } }) ∧
        (i ≤ s.pf 0x58 1 40 → i ≤ (if s.lvc.buck = 2 then 0 else -(s.pf 0x58 1 44)) → Answers (exec (.phaseCurrentLimit n ft i) s) fun t => (t.gd.ch.get (buckLow n)).out ≠ .on ∧ (t.gd.ch.get (buckLow n)).cmd = false ∧ t = { s with gd := t.gd, lvc := { s.lvc with held := s.lvc.held.filter (· ≠ n), delay := t.lvc.delay } })) ∧
  (∀ (s : State) (v : Word),
   (10000 ≤ v.toNat % 65536 → v.toNat % 65536 ≤ 16000 → 1 ≤ v.toNat / 65536 % 4096 → v.toNat / 65536 % 4096 ≤ 500 → exec (.lvcCmdWrite v) s = .next { s with lvc := { s.lvc with cmd := some (v.toNat / 65536 % 4096, v.toNat % 65536) } }) ∧
        (v.toNat % 65536 < 10000 ∨ 16000 < v.toNat % 65536 ∨ v.toNat / 65536 % 4096 < 1 ∨ 500 < v.toNat / 65536 % 4096 → Answers (exec (.lvcCmdWrite v) s) fun t => active 0x3808 noInst t = true ∧ SameButFaults { s with lvc := { s.lvc with cmd := some (v.toNat / 65536 % 4096, v.toNat % 65536) } } t)) ∧
  (∀ (s : State),
   (s.lvc.buck = 3 → exec .referenceStep s = .next { s with lvc := { s.lvc with vref := stepToward (slewStep s) s.lvc.vref (vSet s) } }) ∧
        (s.lvc.buck = 2 → exec .referenceStep s = .next { s with lvc := { s.lvc with vref := stepToward s.lvc.ssRate s.lvc.vref (vSet s), buck := if stepToward s.lvc.ssRate s.lvc.vref (vSet s) = vSet s then 3 else 2 } }) ∧
        (∀ d, 0 ≤ d → absQ (stepToward d s.lvc.vref (vSet s) - s.lvc.vref) ≤ d ∧ absQ (vSet s - stepToward d s.lvc.vref (vSet s)) ≤ absQ (vSet s - s.lvc.vref))) ∧
  (∀ (s : State) (rs ls : Q) (us : Nat),
   s.lvc.buck = 2 ∨ s.lvc.buck = 3 → s.remotePresent = true → s.lvc.fbLocal = false → s.pf 0x58 1 72 < absQ (rs - ls) → 20 ≤ us → 
   Answers (exec (.remoteSenseLoss rs ls us) s) fun t => active 0x3803 noInst t = true ∧ SameButFaults { s with lvc := { s.lvc with rs := rs, ls := ls, senseLost := true, fbLocal := true, vref := ls } } t) ∧
  (∀ (s : State) (ls : Q) (ms : Nat),
   s.lvc.buck = 3 → 7 / 10 * vSet s ≤ ls → 1000 ≤ ms → 
   exec (.retriesReset ls ms) s = .next { s with lvc := { s.lvc with ls := ls, retries := 0 } })

/-- A short sends the buck into hiccup with every output off and 0x3804, after the fifth retry it latches off with 0x3805; an undershoot turns every active low side off and counts, a release turns the high sides off with 0x3806 and ends LV charging with 0x4009, an overvoltage holds both sides off with 0x3806 until it ends or, after 10 ms, 0x3807; a phase with a latched flag leaves the active set and the last one raises 0x3809. -/
def Obligations.LvTransients : Prop :=
  (∀ (s : State) (ls : Q) (ms : Nat),
   s.lvc.buck = 3 → ls < vSet s / 5 → 5 ≤ ms → 
   (s.lvc.retries < 5 → Answers (exec (.shortCheck ls ms) s) fun t => t.lvc.buck = 4 ∧ t.lvc.retries = s.lvc.retries + 1 ∧ t.lvc.hiccups = satInc 8 s.lvc.hiccups ∧ t.lvc.act = [] ∧ (∀ d, grpOf d = 7 → (t.gd.ch.get d).out ≠ .on) ∧ active 0x3804 noInst t = true ∧
          SameButFaults { s with gd := t.gd, lvc := t.lvc, pwm := t.pwm } t ∧ (t.pwm.get 7).running = false ∧ ∀ k, k ≠ 6 → k ≠ 7 → t.pwm.get k = s.pwm.get k) ∧
        (5 ≤ s.lvc.retries → Answers (exec (.shortCheck ls ms) s) fun t => (∀ d, grpOf d = 7 → (t.gd.ch.get d).out ≠ .on) ∧ active 0x3805 noInst t = true ∧ Grows s t ∧ t.beyond = s.beyond)) ∧
  (∀ (s : State) (ls top : Q) (since : Option Nat),
   judged s since = true → ls < top - s.lvc.vref / 25 → 
   Answers (exec (.undershootResponse ls top since) s) fun t => (∀ n ∈ s.lvc.act, (t.gd.ch.get (buckLow n)).out ≠ .on) ∧ t = { s with gd := t.gd, lvc := { s.lvc with ls := ls, held := [], delay := Tab.fill 0, waiting := s.lvc.act, resp := 1, allph := satInc 8 s.lvc.allph } }) ∧
  (∀ (s : State) (ls low : Q) (since : Option Nat),
   judged s since = true → low + s.lvc.vref / 25 < ls → 
   (s.chg.lvChg = false → Answers (exec (.releaseResponse ls low since) s) fun t => (∀ n ∈ s.lvc.act, (t.gd.ch.get (buckHigh n)).out ≠ .on) ∧ active 0x3806 noInst t = true ∧ SameButFaults { s with gd := t.gd, lvc := { s.lvc with ls := ls, held := [], delay := Tab.fill 0, waiting := s.lvc.act, resp := 2, release := satInc 8 s.lvc.release } } t) ∧
        (s.chg.lvChg = true → Answers (exec (.releaseResponse ls low since) s) fun t => t.chg.lvChg = false ∧ t.chg.lvLost = true ∧ active 0x3806 noInst t = true ∧ active 0x4009 noInst t = true)) ∧
  (∀ (s : State) (ls : Q) (us : Nat),
   s.lvc.buck = 2 ∨ s.lvc.buck = 3 → s.lvc.ovHold = false → s.pf 0x58 1 84 < ls → 5 ≤ us → 
   Answers (exec (.overvoltageHold ls us) s) fun t => (∀ n ∈ s.lvc.act, (t.gd.ch.get (buckLow n)).out ≠ .on ∧ (t.gd.ch.get (buckHigh n)).out ≠ .on) ∧ active 0x3806 noInst t = true ∧ SameButFaults { s with gd := t.gd, lvc := { s.lvc with ls := ls, ovHold := true, resp := if s.inResponse then 3 else s.lvc.resp, held := [], waiting := s.lvc.act, ovh := satInc 8 s.lvc.ovh } } t) ∧
  (∀ (s : State) (ls : Q),
   s.lvc.ovHold = true → ls < s.pf 0x58 1 84 - 1 / 2 → 
   exec (.overvoltageHoldEnd ls) s = .next { s with lvc := { s.lvc with ls := ls, ovHold := false } }) ∧
  (∀ (s : State) (ms : Nat),
   s.lvc.ovHold = true → 10 ≤ ms → 
   Answers (exec (.overvoltageHoldTimeout ms) s) fun t => active 0x3807 noInst t = true ∧ Grows s t ∧ t.beyond = s.beyond) ∧
  (∀ (s : State) (n : Fin 6),
   n ∈ s.lvc.act → phaseBad s n = true → 
   Answers (exec (.phaseStop n) s) fun t => (t.gd.ch.get (buckLow n)).out ≠ .on ∧ (t.gd.ch.get (buckHigh n)).out ≠ .on ∧ (s.lvc.buck = 2 ∨ s.lvc.buck = 3 → s.lvc.act.filter (· ≠ n) = [] → active 0x3809 noInst t = true) ∧
        (s.lvc.act.filter (· ≠ n) ≠ [] → t = { s with gd := t.gd, lvc := { s.lvc with act := s.lvc.act.filter (· ≠ n), held := s.lvc.held.filter (· ≠ n), delay := s.lvc.delay.put n 0, waiting := s.lvc.waiting.filter (· ≠ n) } }) ∧ Grows s t)

/-- A pilot state that the samples give and that has held for its time is accepted with its readings, and a free connector lets a request start again; in a session of the EV role a state that forbids charging raises 0x4001, 0x4002 or 0x400C, State B while charging pauses the session and stops the charger on request, and an open connector or an invalid code raises 0x4003; three duties that agree are taken; the setup, the grid and the DC link of a discharge have their own faults. A message of the exchange before the secured connection stands, or one that offers what the record or the profile does not (no TLS, Plug and Charge, another service, anything unlisted), is refused and changes nothing else; a standby from either side pauses the session; an accepted one of a bidirectional session reports its discharge power. -/
def Obligations.ChargingInputs : Prop :=
  (∀ (s : State) (x : List Q) (us k : Nat),
   s.fn 9 = true → s.sys.mode ≠ .ship → s.sys.mode ≠ .off → pilotState x = some k → (if k = 4 ∨ k = 5 ∨ k = 6 then 1000 else 3000) ≤ us → s.chg.phase = 0 ∨ s.chg.phase = 10 ∨ k = s.chg.cp → 
   Answers (exec (.pilotStateChange x us) s) fun t => t = { s with chg := { s.chg with cp := k, hi := pilotHi x, lo := pilotLo x, freq := pilotFreq x, used := t.chg.used } } ∧ (t.chg.used = true → s.chg.used = true)) ∧
  (∀ (s : State) (x : List Q) (us : Nat),
   s.fn 9 = true → s.sys.mode ≠ .ship → s.sys.mode ≠ .off → (∀ k, pilotState x = some k → us < (if k = 4 ∨ k = 5 ∨ k = 6 then 1000 else 3000)) → 
   Answers (exec (.pilotStateChange x us) s) fun t => t = { s with chg := { s.chg with hi := pilotHi x, lo := pilotLo x, freq := pilotFreq x, used := t.chg.used } } ∧ (t.chg.used = true → s.chg.used = true)) ∧
  (∀ (s : State) (x : List Q) (us k : Nat),
   s.fn 9 = true → s.sys.mode ≠ .ship → s.sys.mode ≠ .off → pilotState x = some k → (if k = 4 ∨ k = 5 ∨ k = 6 then 1000 else 3000) ≤ us → s.chg.phase ≠ 0 → s.chg.phase ≠ 10 → s.chg.role = 1 → k ≠ s.chg.cp → 
   (k = 0 → 1 ≤ s.chg.pp → s.chg.pp ≤ 4 → Answers (exec (.pilotStateChange x us) s) fun t => active 0x400C noInst t = true ∧ Grows s t ∧ t.beyond = s.beyond) ∧
        (k = 4 ∨ k = 5 ∨ k = 6 → Answers (exec (.pilotStateChange x us) s) fun t => active 0x4001 noInst t = true ∧ Grows s t ∧ t.beyond = s.beyond) ∧
        (k = 3 → Answers (exec (.pilotStateChange x us) s) fun t => active 0x4002 noInst t = true ∧ Grows s t ∧ t.beyond = s.beyond) ∧
        (k = 1 → s.chg.phase = 4 ∨ s.chg.phase = 5 ∨ s.chg.phase = 6 → Answers (exec (.pilotStateChange x us) s) fun t => t.chg.phase = 7 ∧ t.faults = s.faults ∧ t.beyond = s.beyond ∧
          (s.dab.st = 2 ∨ s.dab.st = 3 → s.dab.iCmd ≠ 0 → s.dab.stopRamp = none → t.dab.stopRamp = some (10 * absQ s.dab.iCmd)) ∧
          ((s.dab.st ≠ 2 ∧ s.dab.st ≠ 3) ∨ s.dab.iCmd = 0 → s.dab.stopRamp = none → t.chg.s2 = false ∧ ChgrOff t))) ∧
  (∀ (s : State) (x1 x2 x3 : List Q),
   s.fn 9 = true → pilotFreq x3 ≠ 0 → absQ (pilotDuty x1 - pilotDuty x2) ≤ 1 / 2 → absQ (pilotDuty x2 - pilotDuty x3) ≤ 1 / 2 → absQ (pilotDuty x1 - pilotDuty x3) ≤ 1 / 2 → 
   exec (.pilotDutyAccepted x1 x2 x3) s = .next { s with chg := { s.chg with duty := some (pilotDuty x3) } }) ∧
  (∀ (s : State) (v : Q) (us : Nat),
   s.fn 9 = true → (if ppCode v = 0 then 1000 else 3000) ≤ us → 
   (s.chg.phase = 0 ∨ s.chg.phase = 10 ∨ (ppCode v ≠ 0 ∧ (ppCode v ≠ 7 ∨ s.chg.role ≠ 1)) → Answers (exec (.proximityCodeChange v us) s) fun t => t = { s with chg := { s.chg with pp := ppCode v, used := t.chg.used } } ∧ (t.chg.used = true → s.chg.used = true)) ∧
        (s.chg.phase ≠ 0 → s.chg.phase ≠ 10 → ppCode v = 0 ∨ (ppCode v = 7 ∧ s.chg.role = 1) → Answers (exec (.proximityCodeChange v us) s) fun t => active 0x4003 noInst t = true ∧ Grows s t ∧ t.beyond = s.beyond)) ∧
  (∀ (s : State) (ms : Nat),
   (s.chg.phase = 2 → s.chg.isoStep < 3 → s.pf 0x60 0 64 * 1000 ≤ ms → Answers (exec (.hlcSetupTimeout ms) s) fun t => active 0x4006 noInst t = true ∧ SameButFaults { s with chg := { s.chg with phase := 1, path := 0, hlcFailed := true } } t) ∧
        (s.chg.phase = 3 → s.chg.s2 = true → s.grid.ok = false → 10000 ≤ ms → Answers (exec (.gridWaitTimeout ms) s) fun t => active 0x4004 noInst t = true ∧ Grows s t ∧ t.beyond = s.beyond) ∧
        (s.chg.path = 3 → s.dab.ibat < 0 → s.chg.phase ≠ 0 → s.chg.phase ≠ 10 → s.vMin < s.pf 3 0 0 → Answers (exec .dischargeDcLinkCheck s) fun t => active 0x400B noInst t = true ∧ Grows s t ∧ t.beyond = s.beyond)) ∧
  (∀ (s : State) (m : IsoMsg),
   s.chg.path = 2 ∨ s.chg.path = 3 → s.chg.phase ≠ 0 → s.chg.phase ≠ 10 → 
   (isoOffered s m = false ∨ (isoOrder m ≠ 0 ∧ s.chg.isoStep + 1 < isoOrder m) ∨ (isoOrder m = 0 ∧ s.chg.isoStep < 3) → exec (.iso15118Message m) s = .next { s with out := .iso false none :: s.out }) ∧
        (exec (.iso15118Message (.sdpFound false)) s = .next { s with out := .iso false none :: s.out }) ∧ (exec (.iso15118Message (.authorization false)) s = .next { s with out := .iso false none :: s.out }) ∧ (exec (.iso15118Message .other) s = .next { s with out := .iso false none :: s.out }) ∧
        (exec (.iso15118Message .slacMatched) s = .next { s with out := .iso true none :: s.out, chg := { s.chg with isoStep := max s.chg.isoStep 1 } }) ∧
        (3 ≤ s.chg.isoStep → exec (.iso15118Message .sessionSetup) s = .next { s with out := .iso true none :: s.out }) ∧
        (∀ i, 3 ≤ s.chg.isoStep → exec (.iso15118Message (.chargeParameterDiscovery i)) s = .next { s with out := .iso true (bptPower (.chargeParameterDiscovery i) s) :: s.out, chg := { s.chg with isoMax := some i } }) ∧
        (∀ own, 3 ≤ s.chg.isoStep → s.chg.phase ≠ 9 → Answers (exec (.iso15118Message (.powerDeliveryStandby own)) s) fun t => t.chg.phase = 7 ∧ t.chg.isoStart = false ∧ t.obcT.iBat = 0 ∧ t.faults = s.faults) ∧
        (∀ i t, 3 ≤ s.chg.isoStep → exec (.iso15118Message (.chargeLoop i t)) s = .next { s with out := .iso true (bptPower (.chargeLoop i t) s) :: s.out, chg := { s.chg with isoMax := some i, isoTarget := t } }))

/-- An evaluation without a request and without a session changes only the note that a request was served, which ends once the request that the last session served is withdrawn or the connector is free; a request whose conditions hold starts the session and takes the N9 to CHARGE; in the constant-current phase it writes the limits of the pilot, the cable, the BMS and the Conservator and counts the safety timer, at half speed while throttled (Europa's reactive target and discharge limit are free values, log entry 59); a pulse that ends below its threshold twice ends the charge at the next evaluation with cause 2; the pulses, a restart and the switch to the float voltage do what their rules give and nothing else. -/
def Obligations.ChargingSessions : Prop :=
  (∀ (s : State) (m : Q),
   s.fn 9 = true → pairRunning s .europa = true → requestedRole s = 0 → s.chg.phase = 0 ∨ s.chg.phase = 10 → 
   exec (.sessionEvaluation m) s = .next { s with chg := { s.chg with used := s.chg.used && s.veh.req.testBit (s.chg.role - 1) && s.connected } }) ∧
  (∀ (s : State) (m : Q),
   s.fn 9 = true → pairRunning s .europa = true → requestedRole s = 1 → s.connected = true → s.chg.phase = 0 ∨ s.chg.phase = 10 → s.chg.used = false → startOk s = true → s.chg.cp = 1 → s.bmsValid = true → 
   Answers (exec (.sessionEvaluation m) s) fun t => t.sys.mode = .charge ∧ t.chg.phase = 1 ∧ t.chg.role = 1 ∧ t.chg.used = true ∧ t.chg.timer = 0 ∧ t.chg.restarts = 0 ∧ t.chg.lvChg = (if s.pu 0x60 0 76 = 1 then true else s.chg.lvChg) ∧ Grows s t ∧ t.beyond = s.beyond) ∧
  (∀ (s : State) (m : Q),
   s.fn 9 = true → pairRunning s .europa = true → requestedRole s = 1 → s.connected = true → s.chg.phase = 4 → s.chg.role = 1 → s.chg.path = 1 → s.chg.isoStop = false → s.dab.st = 2 → s.bmsLimits.2.2 = false → s.chg.pulseEnd = false → s.veh.req.testBit 0 = true → ((s.chg.timer + 100 : Nat) : Q) < s.pf 0x60 0 52 * 1000 → 
   Answers (exec (.sessionEvaluation m) s) fun t => t.chg.iAc = acSide s ∧ t.chg.iReq = minQ s.bmsLimits.1 (minQ (s.pf 0x60 0 12) (acdc s (acSide s))) ∧ t.chg.throt = decide (t.chg.lTh < t.chg.iReq / 2) ∧
        t.chg.timer = s.chg.timer + (if t.chg.throt then 50 else 100) ∧ t.chg.real = s.chg.real + 100 ∧
        t.obcT = { t.obcT with iAc := some (sqrtQ 2 * t.chg.iAc), vBat := minQ s.bmsLimits.2.1 (s.pf 0x60 0 16), rate := s.pf 0x60 0 24, iBat := t.chg.iReq } ∧
        t = { s with chg := { s.chg with iAc := t.chg.iAc, iReq := t.chg.iReq, lTh := t.chg.lTh, throt := t.chg.throt, timer := t.chg.timer, real := t.chg.real }, obcT := t.obcT, freeIx := t.freeIx }) ∧
  (∀ (s : State) (i : Q) (ms : Nat),
   s.chg.phase = 6 → s.chg.pulsing = true → s.pf 0x60 0 44 * 1000 ≤ ms → s.chg.pulses < s.pu 0x60 0 36 → 
   (s.pf 0x60 0 28 * s.pf 0x60 0 40 ≤ i → exec (.pulsePhaseEnd i ms) s = .next { s with chg := { s.chg with pulsing := false, below := 0, iEnd := i }, obcT := { s.obcT with iBat := 0 } }) ∧
        (i < s.pf 0x60 0 28 * s.pf 0x60 0 40 → s.chg.below = 0 → exec (.pulsePhaseEnd i ms) s = .next { s with chg := { s.chg with pulsing := false, below := 1, iEnd := i }, obcT := { s.obcT with iBat := 0 } }) ∧
        (i < s.pf 0x60 0 28 * s.pf 0x60 0 40 → 1 ≤ s.chg.below → exec (.pulsePhaseEnd i ms) s = .next { s with chg := { s.chg with pulsing := false, below := min (s.chg.below + 1) 255, iEnd := i, pulseEnd := true }, obcT := { s.obcT with iBat := 0 } })) ∧
  (∀ (s : State) (i : Q) (ms : Nat),
   s.chg.phase = 6 → s.chg.pulsing = false → s.chg.pulseEnd = false → s.pf 0x60 0 48 * 1000 ≤ ms → 
   exec (.pulsePhaseEnd i ms) s = .next { s with chg := { s.chg with pulsing := true, pulses := min (s.chg.pulses + 1) 255 }, obcT := { s.obcT with iBat := minQ (s.pf 0x60 0 40) s.chg.iReq } }) ∧
  (∀ (s : State) (code ms : Nat),
   s.chg.restartFor = some code → s.chg.phase = 7 → s.pf 0x60 0 60 * 1000 ≤ ms → (if code = 0x3004 ∨ code = 0x3005 then s.grid.ok && s.grid.lock else s.bmsValid) = true → 
   exec (.sessionRestart ms) s = .next { s with chg := { s.chg with phase := 3, restartFor := none, restarts := min (s.chg.restarts + 1) 15 } }) ∧
  (∀ (s : State) (ms : Nat),
   s.chg.lvChg = true → s.pf 0x60 0 88 * 1000 ≤ ms → 4 ≤ s.chg.phase ∧ s.chg.phase ≤ 7 → 
   Answers (exec (.lvFloatSwitch ms) s) fun t => SameButFaults { s with lvc := { s.lvc with cmd := some (min (roundN (s.pf 0x60 0 96 / 100)) 4095, min (roundN (s.pf 0x60 0 84 * 1000)) 65535) } } t ∧ Grows s t) ∧
  (∀ (s : State) (m : Q),
   s.fn 9 = true → pairRunning s .europa = true → requestedRole s = 1 → s.connected = true → s.chg.phase = 6 → s.chg.role = 1 → s.bmsLimits.2.2 = false → s.chg.pulseEnd = true → ((s.chg.timer + 100 : Nat) : Q) < s.pf 0x60 0 52 * 1000 → 
   Answers (exec (.sessionEvaluation m) s) fun t => t.chg.phase = 9 ∧ t.chg.cause = 2 ∧ t.obcT.iBat = 0 ∧ t.faults = s.faults)

/-- The end of braking turns the outputs off at the target and completes the sequence, waits for SI3 or dwells in N, starts a correction or a back-off opposite to the move, the superseding engage with the diagnostics first when they are due, or stops on a Hall fault or with the fault of a stall that gave up; a move whose position is already at its target brakes at once. A stall brakes for a retry, or before it stops with 0x5004 without a reference or with 0x5001 after the last retry. A peak above its level turns the driving leg's high side off for the rest of the period, and the eighth such period in a row stops with 0x5003; T_SEQ stops with 0x5002, a missing or lost SI3 with 0x5006, a low bridge supply with 0x5009; a stop turns every output of the bridge off and leaves every other fault active. -/
def Obligations.ActuatorMoves : Prop :=
  (∀ (s : State) (a : Act) (ms : Nat),
   (s.act.get a).phase = .braking → (s.act.get a).why = .reached → s.pf 0x78 a.num 56 * 1000 ≤ (ms : Q) → 
   (within s a (actPos s a) (s.act.get a).target = false → (s.act.get a).retries < s.pu 0x78 a.num 48 → Answers (exec (.brakeEnd a ms) s) fun t => (t.act.get a).phase = .moving ∧ (t.act.get a).neg = (if (s.act.get a).ref.isSome then decide ((s.act.get a).target < actPos s a) else (s.act.get a).fwd) ∧ (t.act.get a).retries = (s.act.get a).retries + 1 ∧ (t.act.get a).target = (s.act.get a).target ∧ (t.act.get a).d = 0 ∧ t.beyond = s.beyond ∧ t.faults = s.faults) ∧
        (within s a (actPos s a) (s.act.get a).target = false → s.pu 0x78 a.num 48 ≤ (s.act.get a).retries → Answers (exec (.brakeEnd a ms) s) fun t => (∀ d, grpOf d = a.grp → (t.gd.ch.get d).out ≠ .on) ∧ active 0x5001 a.num t = true ∧ Grows s t ∧ t.beyond = s.beyond) ∧
        (within s a (actPos s a) (s.act.get a).target = true → a = .park → 0 ≤ s.pf 0x78 0 84 → Answers (exec (.brakeEnd a ms) s) fun t => (∀ d, grpOf d = a.grp → (t.gd.ch.get d).out ≠ .on) ∧ (t.act.get a).phase = (if si3Confirms s then .idle else .awaiting) ∧ (t.act.get a).seq = (if si3Confirms s then 0 else (s.act.get a).seq) ∧ t = { s with act := t.act, gd := t.gd, pwm := t.pwm, orr := t.orr }) ∧
        (within s a (actPos s a) (s.act.get a).target = true → a = .shift → Answers (exec (.brakeEnd a ms) s) fun t => (∀ d, grpOf d = a.grp → (t.gd.ch.get d).out ≠ .on) ∧ (t.act.get a).phase = (if (s.act.get a).second then .idle else .awaiting) ∧ (t.act.get a).seq = (if (s.act.get a).second then 0 else (s.act.get a).seq) ∧ t = { s with act := t.act, gd := t.gd, pwm := t.pwm, orr := t.orr })) ∧
  (∀ (s : State) (a : Act) (ms : Nat),
   (s.act.get a).phase = .braking → s.pf 0x78 a.num 56 * 1000 ≤ (ms : Q) → 
   ((s.act.get a).why = .stall → Answers (exec (.brakeEnd a ms) s) fun t => (t.act.get a).phase = .backing ∧ (t.act.get a).neg = !(s.act.get a).fwd ∧ (t.act.get a).backAt = actCount s a ∧ (t.act.get a).d = 0 ∧ (t.act.get a).dTgt = 0 ∧ t = { s with act := t.act }) ∧
        ((s.act.get a).why = .supersede → Answers (exec (.brakeEnd a ms) s) fun t => (t.act.get a).phase = (if firstPhase s a = .moving ∧ (s.act.get a).ref.isSome = true ∧ within s a (actPos s a) (posOf s a 1) = true then .braking else firstPhase s a) ∧ (t.act.get a).target = posOf s a 1 ∧ (t.act.get a).d = 0 ∧ t = { s with act := t.act }) ∧
        ((s.act.get a).why = .hall → Answers (exec (.brakeEnd a ms) s) fun t => (∀ d, grpOf d = a.grp → (t.gd.ch.get d).out ≠ .on) ∧ (t.act.get a).comm = .off ∧ (t.act.get a).phase = .stopped ∧ (t.act.get a).seq = 0 ∧ t = { s with act := t.act, gd := t.gd, pwm := t.pwm, orr := t.orr }) ∧
        (∀ code, code = 0x5001 ∨ code = 0x5004 → (s.act.get a).why = .giveUp code → Answers (exec (.brakeEnd a ms) s) fun t => (∀ d, grpOf d = a.grp → (t.gd.ch.get d).out ≠ .on) ∧ active code a.num t = true ∧ Grows s t ∧ t.beyond = s.beyond)) ∧
  (∀ (s : State) (a : Act) (ms : Nat),
   (s.act.get a).phase = .moving ∨ (s.act.get a).phase = .backing → 0 < (s.act.get a).d → s.pf 0x78 a.num 40 * 1000 ≤ (ms : Q) → 
   (((s.act.get a).ref = none ∧ (s.act.get a).crossed = false) → Answers (exec (.stallDetected a ms) s) fun t => t.act.get a = { s.act.get a with phase := .braking, why := .giveUp 0x5004, d := 0, dTgt := 0, ilim := false, stalls := satInc 8 (s.act.get a).stalls } ∧ t = { s with act := t.act }) ∧
        (¬((s.act.get a).ref = none ∧ (s.act.get a).crossed = false) → s.pu 0x78 a.num 48 ≤ (s.act.get a).retries → Answers (exec (.stallDetected a ms) s) fun t => t.act.get a = { s.act.get a with phase := .braking, why := .giveUp 0x5001, d := 0, dTgt := 0, ilim := false, stalls := satInc 8 (s.act.get a).stalls } ∧ t = { s with act := t.act }) ∧
        (¬((s.act.get a).ref = none ∧ (s.act.get a).crossed = false) → (s.act.get a).retries < s.pu 0x78 a.num 48 → Answers (exec (.stallDetected a ms) s) fun t => t.act.get a = { s.act.get a with phase := .braking, why := .stall, d := 0, dTgt := 0, ilim := false, stalls := satInc 8 (s.act.get a).stalls, retries := (s.act.get a).retries + 1 } ∧ t = { s with act := t.act })) ∧
  (∀ (s : State) (a : Act) (ms : Nat),
   (s.act.get a).seq ≠ 0 → s.pf 0x78 a.num 44 * 1000 < (ms : Q) → 
   Answers (exec (.sequenceTimeout a ms) s) fun t => (∀ d, grpOf d = a.grp → (t.gd.ch.get d).out ≠ .on) ∧ active 0x5002 a.num t = true ∧ Grows s t ∧ t.beyond = s.beyond) ∧
  (∀ (s : State) (a : Act) (v : Q) (ms : Nat),
   (s.act.get a).seq ≠ 0 → v < s.pf 0x78 a.num 92 → 10 ≤ ms → 
   Answers (exec (.bridgeSupplyLow a v ms) s) fun t => (∀ d, grpOf d = a.grp → (t.gd.ch.get d).out ≠ .on) ∧ active 0x5009 a.num t = true ∧ Grows s t ∧ t.beyond = s.beyond) ∧
  (∀ (s : State) (a : Act) (i : Q) (h l : Nat),
   (s.act.get a).comm = .drive h l → (s.pwm.get a.grp).running = true → s.pf 0x78 a.num 24 < i → (s.act.get a).cut = false → 
   ((s.act.get a).peakRun ≠ 7 → Answers (exec (.peakCurrentCut a i) s) fun t => (t.gd.ch.get (highSide a h)).out ≠ .on ∧ (t.gd.ch.get (highSide a h)).cmd = false ∧ (∀ d, d ≠ highSide a h → t.gd.ch.get d = s.gd.ch.get d) ∧ t = { s with gd := t.gd, act := s.act.put a { s.act.get a with cut := true, peakRun := (s.act.get a).peakRun + 1, peak := satInc 8 (s.act.get a).peak } }) ∧
        ((s.act.get a).peakRun = 7 → Answers (exec (.peakCurrentCut a i) s) fun t => (∀ d, grpOf d = a.grp → (t.gd.ch.get d).out ≠ .on) ∧ active 0x5003 a.num t = true ∧ Grows s t ∧ t.beyond = s.beyond)) ∧
  (∀ (s : State) (ms : Nat),
   (s.act.get .shift).phase = .awaiting → (s.act.get .shift).seq ≠ 0 → s.pf 0x78 1 84 * 1000 ≤ (ms : Q) → 
   ((s.act.get .shift).seq = 2 → Answers (exec (.shiftDwellEnd ms) s) fun t => (t.act.get .shift).phase = .idle ∧ (t.act.get .shift).seq = 0 ∧ (t.act.get .shift).seqs = wrapInc 8 (s.act.get .shift).seqs ∧ t = { s with act := t.act }) ∧
        ((s.act.get .shift).seq ≠ 2 → Answers (exec (.shiftDwellEnd ms) s) fun t => (t.act.get .shift).phase = (if (s.act.get .shift).ref.isSome = true ∧ within s .shift (actPos s .shift) (posOf s .shift (if (s.act.get .shift).seq = 1 then 0 else 2)) = true then .braking else .moving) ∧ (t.act.get .shift).second = true ∧ (t.act.get .shift).target = posOf s .shift (if (s.act.get .shift).seq = 1 then 0 else 2) ∧ (t.act.get .shift).d = 0 ∧ t = { s with act := t.act })) ∧
  (∀ (s : State) (ms : Nat),
   ((s.act.get .park).phase = .awaiting ∧ (s.act.get .park).seq ≠ 0 ∧ si3Confirms s = false ∧ s.pf 0x78 0 84 * 1000 ≤ (ms : Q)) ∨ ((s.act.get .park).phase = .idle ∧ ((s.act.get .park).held = 2 ∧ s.si3Eng = false ∨ (s.act.get .park).held = 1 ∧ s.si3Rel = false) ∧ s.pf 0x78 0 84 * 1000 < (ms : Q)) → 
   Answers (exec (.confirmationTimeout ms) s) fun t => (∀ d, grpOf d = 8 → (t.gd.ch.get d).out ≠ .on) ∧ active 0x5006 0 t = true ∧ Grows s t ∧ t.beyond = s.beyond)

/-- An accepted request clears the actuator faults of its bridge, sets SEQ, and starts the first move toward its target, with the diagnostics of the stage first when they are due and braking at once where the position is already at the target; an engage during a release brakes first. Any other request is refused with 0x5007, reported in REFUSE of the Status message or answered 0x22; a UDS request without access gets its response code and changes nothing else. -/
def Obligations.ActuatorRequests : Prop :=
  (∀ (s : State) (src : ReqSrc),
   srcWaits src (decide (s.veh.parkNew = 1)) = true → s.fn 7 = true → srcAllowed s src 0xF400 = true → s.sys.mode = .ready ∨ s.sys.mode = .convert ∨ s.sys.mode = .drive → belowGate s .park = true → s.shiftRunning = false → (s.act.get .park).seq ≠ 1 → s.pf 0x78 0 92 ≤ (s.act.get .park).vs → 
   ((s.act.get .park).seq ≠ 2 → Answers (exec (.parkEngage src) s) fun t => (t.act.get .park).seq = 1 ∧ (t.act.get .park).phase = (if firstPhase s .park = .moving ∧ (s.act.get .park).ref.isSome = true ∧ within s .park (actPos s .park) (posOf s .park 1) = true then .braking else firstPhase s .park) ∧ (t.act.get .park).target = posOf s .park 1 ∧ (t.act.get .park).neg = strokeNeg s .park 1 ∧ (t.act.get .park).retries = 0 ∧ (t.act.get .park).d = 0 ∧
          (∀ c, 0x5001 ≤ c → c ≤ 0x5009 → active c 0 t = false) ∧
          SameButFaults (match src with | .msg => { s with act := t.act, veh := { s.veh with parkNew := 0 } } | .uds p => { s with act := t.act, out := .uds p (s.udsResp p) [0x71, 0x01, 0xF4, 0x00] :: s.out }) t) ∧
        ((s.act.get .park).seq = 2 → Answers (exec (.parkEngage src) s) fun t => (t.act.get .park).seq = 1 ∧ (t.act.get .park).phase = .braking ∧ (t.act.get .park).why = .supersede ∧ (t.act.get .park).d = 0 ∧
          (∀ c, 0x5001 ≤ c → c ≤ 0x5009 → active c 0 t = false) ∧
          SameButFaults (match src with | .msg => { s with act := t.act, veh := { s.veh with parkNew := 0 } } | .uds p => { s with act := t.act, out := .uds p (s.udsResp p) [0x71, 0x01, 0xF4, 0x00] :: s.out }) t)) ∧
  (∀ (s : State) (src : ReqSrc),
   srcWaits src (decide (s.veh.parkNew = 2)) = true → s.fn 7 = true → srcAllowed s src 0xF401 = true → s.sys.mode = .drive → s.si3Eng = true ∨ s.actPosCode .park = 0 → (s.act.get .park).seq = 0 → s.shiftRunning = false → s.pf 0x78 0 92 ≤ (s.act.get .park).vs → 
   Answers (exec (.parkRelease src) s) fun t => (t.act.get .park).seq = 2 ∧ (t.act.get .park).phase = (if firstPhase s .park = .moving ∧ (s.act.get .park).ref.isSome = true ∧ within s .park (actPos s .park) (posOf s .park 0) = true then .braking else firstPhase s .park) ∧ (t.act.get .park).target = posOf s .park 0 ∧ (t.act.get .park).neg = strokeNeg s .park 0 ∧ (t.act.get .park).retries = 0 ∧ (t.act.get .park).d = 0 ∧
          (∀ c, 0x5001 ≤ c → c ≤ 0x5009 → active c 0 t = false) ∧
          SameButFaults (match src with | .msg => { s with act := t.act, veh := { s.veh with parkNew := 0 } } | .uds p => { s with act := t.act, out := .uds p (s.udsResp p) [0x71, 0x01, 0xF4, 0x01] :: s.out }) t) ∧
  (∀ (s : State) (src : ReqSrc) (n : Nat),
   srcWaits src (decide (s.veh.shiftNew = n)) = true → s.fn 8 = true → 1 ≤ n ∧ n ≤ 3 → srcAllowed s src 0xF402 = true → s.sys.mode = .drive → s.si3Rel = true → s.siDemand 3 = false → s.parkRunning = false → belowGate s .shift = true → (s.act.get .shift).seq = 0 → s.pf 0x78 1 92 ≤ (s.act.get .shift).vs → 
   Answers (exec (.shift src n) s) fun t => (t.act.get .shift).seq = n ∧ (t.act.get .shift).phase = (if firstPhase s .shift = .moving ∧ (s.act.get .shift).ref.isSome = true ∧ within s .shift (actPos s .shift) (posOf s .shift 1) = true then .braking else firstPhase s .shift) ∧ (t.act.get .shift).target = posOf s .shift 1 ∧ (t.act.get .shift).neg = strokeNeg { s with act := s.act.upd .shift (fun x => { x with seq := n }) } .shift 1 ∧ (t.act.get .shift).retries = 0 ∧ (t.act.get .shift).d = 0 ∧
          (∀ c, 0x5001 ≤ c → c ≤ 0x5009 → active c 1 t = false) ∧
          SameButFaults (match src with | .msg => { s with act := t.act, veh := { s.veh with shiftNew := 0 } } | .uds p => { s with act := t.act, out := .uds p (s.udsResp p) [0x71, 0x01, 0xF4, 0x02] :: s.out }) t) ∧
  (∀ (s : State) (src : ReqSrc),
   srcWaits src (decide (s.veh.parkNew = 1)) = true → 
   (s.fn 7 = false ∨ (srcAllowed s src 0xF400 = true ∧ (belowGate s .park = false ∨ s.shiftRunning = true ∨ (s.act.get .park).seq = 1 ∨ (s.act.get .park).vs < s.pf 0x78 0 92 ∨ (s.sys.mode ≠ .ready ∧ s.sys.mode ≠ .convert ∧ s.sys.mode ≠ .drive))) →
          Answers (exec (.parkEngage src) s) fun t => active 0x5007 0 t = true ∧ SameButFaults (match src with | .msg => noteRefuse 7 (takePark src s) | .uds p => udsNeg p 0x31 0x22 s) t) ∧
        (∀ p, src = .uds p → s.fn 7 = true → s.udsServed p = true → s.routineNrc p 0xF400 ≠ 0 → exec (.parkEngage src) s = .next { s with out := .uds p (s.udsResp p) [0x7F, 0x31, BitVec.ofNat 8 (s.routineNrc p 0xF400)] :: s.out })) ∧
  (∀ (s : State) (src : ReqSrc) (n : Nat),
   (srcWaits src (decide (s.veh.parkNew = 2)) = true → s.fn 7 = true → srcAllowed s src 0xF401 = true → (s.sys.mode ≠ .drive ∨ (s.act.get .park).seq ≠ 0 ∨ s.shiftRunning = true ∨ (s.act.get .park).vs < s.pf 0x78 0 92) →
          Answers (exec (.parkRelease src) s) fun t => active 0x5007 0 t = true ∧ SameButFaults (match src with | .msg => noteRefuse 7 (takePark src s) | .uds p => udsNeg p 0x31 0x22 s) t) ∧
        (srcWaits src (decide (s.veh.shiftNew = n)) = true → s.fn 8 = true → 1 ≤ n ∧ n ≤ 3 → srcAllowed s src 0xF402 = true → (s.sys.mode ≠ .drive ∨ s.si3Rel = false ∨ s.siDemand 3 = true ∨ s.parkRunning = true ∨ belowGate s .shift = false ∨ (s.act.get .shift).vs < s.pf 0x78 1 92) →
          Answers (exec (.shift src n) s) fun t => active 0x5007 1 t = true ∧ SameButFaults (match src with | .msg => noteRefuse 7 (takeShift src s) | .uds p => udsNeg p 0x31 0x22 s) t))

/-- A round stores the slots it took, the converter's reading for those of an AIN input in sense mode; with a Catalogue locked it steps every modelled switch (its energy is read before anything of the step can switch it, the four Foster terms step, the estimate is their sum over the anchor's temperature, the factor follows), publishes for each consumer the new limit or the smaller of it and the last complete round's, and counts itself; without one it does none of this. Every reference slot off its nominal value raises 0x4809, and one such slot marks all 96 slots stale and counts the round for each. Slots not taken keep their values, are marked stale and counted, but for those of an input in sense mode and once per round, and every slot at its third round in a row raises 0x4808. -/
def Obligations.ThermalRounds : Prop :=
  (∀ (s : State) (l : List HkReading),
   s.xtalOk = true → s.cat.locked = true → refBad (withSense s l) = [] → ((withSense s l).map (·.slot)).Nodup → 
   Answers (exec (.housekeepingRound l) s) fun t => t.thm.rounds = wrapInc 16 s.thm.rounds ∧ t.thm.missed = s.thm.missed ∧ (∀ r ∈ withSense s l, t.thm.slots.get r.slot = { a := r.a, b := r.b, stale := false, run := 0 }) ∧ (∀ n, (∀ r ∈ withSense s l, r.slot ≠ n) → t.thm.slots.get n = s.thm.slots.get n) ∧
        (∀ c ∈ modelled s, Stepped s t.thm.anchors c (t.thm.sw.get c)) ∧ (∀ c, c ∉ modelled s → t.thm.sw.get c = s.thm.sw.get c) ∧
        (∀ k, t.thm.limits.get k = newLimit t k ∨ ∃ x y, newLimit t k = some x ∧ s.thm.lastFull.get k = some y ∧ t.thm.limits.get k = some (minQ x y)) ∧ t.beyond = { s.beyond with thm := t.thm, freeIx := t.freeIx }) ∧
  (∀ (s : State) (l : List HkReading),
   s.xtalOk = true → s.cat.locked = true → refBad (withSense s l) ≠ [] → 
   Answers (exec (.housekeepingRound l) s) fun t => (∀ n ∈ refBad (withSense s l), active 0x4809 n.val t = true) ∧ (∀ k, (t.thm.slots.get k).stale = true ∧ (t.thm.slots.get k).run = satInc 8 (s.thm.slots.get k).run ∧ (2 ≤ (s.thm.slots.get k).run → active 0x4808 k.val t = true)) ∧ t.thm.counted = true ∧ t.thm.missed = satInc 8 s.thm.missed ∧ t.thm.rounds = wrapInc 16 s.thm.rounds ∧ t.beyond = { s.beyond with thm := t.thm, freeIx := t.freeIx }) ∧
  (∀ (s : State) (l : List (Fin 96)),
   s.xtalOk = true → s.thm.counted = false → (∃ n ∈ l, s.senseReading n = none) → 
   Answers (exec (.housekeepingStale l) s) fun t => (∀ n, t.thm.slots.get n = if n ∈ l ∧ s.senseReading n = none then { s.thm.slots.get n with stale := true, run := satInc 8 (s.thm.slots.get n).run } else s.thm.slots.get n) ∧ t.thm.missed = satInc 8 s.thm.missed ∧
        (∀ n ∈ l, s.senseReading n = none → 2 ≤ (s.thm.slots.get n).run → active 0x4808 n.val t = true) ∧ SameButFaults { s with thm := t.thm } t) ∧
  (∀ (s : State) (l : List HkReading) (ns : List (Fin 96)),
   (s.xtalOk = false → exec (.housekeepingRound l) s = .next s) ∧ (s.xtalOk = false ∨ s.thm.counted = true → exec (.housekeepingStale ns) s = .next s)) ∧
  (∀ (s : State) (l : List HkReading),
   s.xtalOk = true → s.cat.locked = false → refBad (withSense s l) = [] → ((withSense s l).map (·.slot)).Nodup → 
   Answers (exec (.housekeepingRound l) s) fun t => (∀ r ∈ withSense s l, t.thm.slots.get r.slot = { a := r.a, b := r.b, stale := false, run := 0 }) ∧ (∀ n, (∀ r ∈ withSense s l, r.slot ≠ n) → t.thm.slots.get n = s.thm.slots.get n) ∧
        t.thm.sw = s.thm.sw ∧ t.thm.limits = s.thm.limits ∧ t.thm.rounds = s.thm.rounds ∧ t.thm.missed = s.thm.missed) ∧
  (∀ (s : State) (ns : List (Fin 96)),
   (∀ n ∈ ns, s.senseReading n ≠ none) → exec (.housekeepingStale ns) s = .next s)

/-- A level held for the filter time that Custodian's register gives is accepted on its channel and on nothing else, one held below 0.8 of it, or the first one of a channel held for less than all of it, is not; an accepted demand brings the input into demand, counted once and with the fault of its class; a disagreement longer than T_DISC latches with 0x5801; the release of both channels within T_DISC after both demanded clears the latch and the fault and completes the test. A level that both views have filtered differently for longer than FILT plus 500 us raises 0x5803. -/
def Obligations.SafetyInputs : Prop :=
  (∀ (s : State) (n : SiN) (ch : Side) (d : Bool) (us : Q) (at_ : Nat),
   s.saf.evaluating = true → s.cuUsed n = true → (match ch with | .a => (s.saf.si.get n).a | .b => (s.saf.si.get n).b) ≠ { accepted := true, demand := d } → (s.cu n 4 : Q) ≤ us → (match (s.saf.si.get n).openAt with | some t => decide (at_ - t ≤ discTicks s n) | none => true) = true → 
   Answers (exec (.safetyInputEdge n ch d us at_) s) fun t => (match ch with | .a => (t.saf.si.get n).a | .b => (t.saf.si.get n).b) = { accepted := true, demand := d } ∧ (match ch with | .a => (t.saf.si.get n).b | .b => (t.saf.si.get n).a) = (match ch with | .a => (s.saf.si.get n).b | .b => (s.saf.si.get n).a) ∧
        (∀ m, m ≠ n → t.saf.si.get m = s.saf.si.get m) ∧ t.beyond = ({ s with saf := { s.saf with si := t.saf.si } } : State).beyond ∧
        (d = true → (t.saf.si.get n).inDemand = true ∧ (t.saf.si.get n).demands = (if (s.saf.si.get n).inDemand then (s.saf.si.get n).demands else wrapInc 8 (s.saf.si.get n).demands) ∧ Grows s t ∧
          ((s.saf.si.get n).inDemand = false → s.pu 0x80 n 28 ≠ 0xFF → active (0x5810 + n.val) n.val t = true)) ∧
        (d = false → ∀ f, (s.saf.si.get n).both = true → (s.saf.si.get n).firstRel = some f → at_ - f ≤ discTicks s n → (match ch with | .a => (s.saf.si.get n).b | .b => (s.saf.si.get n).a) = { accepted := true, demand := false } →
          (t.saf.si.get n).disc = false ∧ (t.saf.si.get n).testDone = true ∧ (t.saf.si.get n).inDemand = false ∧ active 0x5801 n.val t = false)) ∧
  (∀ (s : State) (n : SiN) (ch : Side) (d : Bool) (us : Q) (at_ : Nat),
   s.saf.evaluating = false ∨ s.cuUsed n = false ∨ (match ch with | .a => (s.saf.si.get n).a | .b => (s.saf.si.get n).b) = { accepted := true, demand := d } ∨ us < 4 / 5 * (s.cu n 4 : Q) ∨ (us < (s.cu n 4 : Q) ∧ (match ch with | .a => (s.saf.si.get n).a.accepted | .b => (s.saf.si.get n).b.accepted) = false) → 
   Answers (exec (.safetyInputEdge n ch d us at_) s) fun t => t = s) ∧
  (∀ (s : State) (n : SiN) (at_ : Nat) (t0 : Nat),
   (s.saf.si.get n).openAt = some t0 → s.saf.evaluating = true → s.cuUsed n = true → discTicks s n < at_ - t0 → (s.saf.si.get n).disc = false → 
   Answers (exec (.discrepancyLatch n at_) s) fun t => (t.saf.si.get n).disc = true ∧ (t.saf.si.get n).discs = satInc 8 (s.saf.si.get n).discs ∧ (t.saf.si.get n).inDemand = true ∧ active 0x5801 n.val t = true ∧ Grows s t ∧ (∀ m, m ≠ n → t.saf.si.get m = s.saf.si.get m) ∧ t.beyond = ({ s with saf := { s.saf with si := t.saf.si } } : State).beyond) ∧
  (∀ (s : State) (n : SiN) (ch : Side) (us : Nat),
   s.saf.evaluating = true → s.siUsed n = true → (match ch with | .a => (s.saf.si.get n).a.accepted && decide ((s.saf.si.get n).callA ≠ (s.saf.si.get n).a.demand) | .b => (s.saf.si.get n).b.accepted && decide ((s.saf.si.get n).callB ≠ (s.saf.si.get n).b.demand)) = true → s.pu 0x80 n 4 + 500 < us → 
   Answers (exec (.inputViewMismatch n ch us) s) fun t => active 0x5803 n.val t = true ∧ Grows s t ∧ t.beyond = s.beyond)

/-- A cycle in time passes the samples of the inputs in use through Callisto's filter, in which FILT rounded up to whole samples of a level in a row change it and fewer do not, and delivers its mark; one overrun raises 0x5807, the second in a row 0x5808; 300 us without a mark once Callisto's pair has been started removes Custodian's global permit with 0x5809 and latches it; the safe-state request removes both global permits; an SO line read back wrong for more than 10 us raises 0x5804; the check of Custodian's configuration registers, with what an upset has done to them, raises 0x5806 once one differs from the record that Callisto holds, and changes nothing else. -/
def Obligations.SafetyWatch : Prop :=
  (∀ (s : State) (l : List (SiN × Side × List Bool)),
   callistoRuns s = true → 
   (Answers (exec (.callistoCycle l) s) fun t => t = { s with saf := { s.saf with si := t.saf.si, cycles := wrapInc 16 s.saf.cycles, lastOverrun := false } }) ∧
        (∀ n d, s.saf.evaluating = true → s.siUsed n = true → Answers (exec (.callistoCycle [(n, .a, d)]) s) fun t => t.saf.si = s.saf.si.upd n (fun x => { x with callA := (d.foldl (callSample ((s.pu 0x80 n 4 + 9) / 10)) (x.callA, x.runA)).1, runA := (d.foldl (callSample ((s.pu 0x80 n 4 + 9) / 10)) (x.callA, x.runA)).2 })) ∧
        (∀ n d, s.saf.evaluating = true → s.siUsed n = true → Answers (exec (.callistoCycle [(n, .b, d)]) s) fun t => t.saf.si = s.saf.si.upd n (fun x => { x with callB := (d.foldl (callSample ((s.pu 0x80 n 4 + 9) / 10)) (x.callB, x.runB)).1, runB := (d.foldl (callSample ((s.pu 0x80 n 4 + 9) / 10)) (x.callB, x.runB)).2 })) ∧
        (∀ (need : Nat) (lvl : Bool) (k : Nat), 1 ≤ need → k < need → (List.replicate k (!lvl)).foldl (callSample need) (lvl, 0) = (lvl, k)) ∧
        (∀ (need : Nat) (lvl : Bool), 1 ≤ need → (List.replicate need (!lvl)).foldl (callSample need) (lvl, 0) = (!lvl, 0))) ∧
  (∀ (s : State),
   callistoRuns s = true → 
   (s.saf.lastOverrun = false → Answers (exec .callistoOverrun s) fun t => active 0x5807 noInst t = true ∧ SameButFaults { s with saf := { s.saf with overruns := satInc 16 s.saf.overruns, lastOverrun := true } } t) ∧
        (s.saf.lastOverrun = true → Answers (exec .callistoOverrun s) fun t => active 0x5808 noInst t = true ∧ Grows s t ∧ t.beyond = ({ s with saf := { s.saf with overruns := satInc 16 s.saf.overruns } } : State).beyond)) ∧
  (∀ (s : State) (us : Nat),
   (s.lks.pairs.get .callisto).st ≠ 0 → 300 ≤ us → s.saf.watchLatch = false → 
   Answers (exec (.callistoWatchExpiry us) s) fun t => active 0x5809 noInst t = true ∧ t.globalC = false ∧ t.saf.watchLatch = true ∧ Grows s t ∧ t.beyond = ({ s with saf := { s.saf with watchLatch := true } } : State).beyond) ∧
  (∀ (s : State),
   callistoRuns s = true → 
   exec .safeStateRequest s = .next { s with saf := { s.saf with safeReq := true } } ∧ ({ s with saf := { s.saf with safeReq := true } } : State).globalC = false ∧ ({ s with saf := { s.saf with safeReq := true } } : State).globalP = false) ∧
  (∀ (s : State) (a : Side) (lvl : Bool) (us : Nat),
   (if a = .b then s.cuSafety 4 else s.pu 0x81 0 4).testBit (b2n (decide (a = .b))) = true → 
   (soDriven s (decide (a = .b)) = lvl ∨ us ≤ 10 → exec (.soReadbackMismatch a lvl us) s = .next { s with saf := if a = .b then { s.saf with soDiffB := soDriven s true != lvl } else { s.saf with soDiffA := soDriven s false != lvl } }) ∧
        (soDriven s (decide (a = .b)) ≠ lvl → 10 < us → Answers (exec (.soReadbackMismatch a lvl us) s) fun t => active 0x5804 (if a = .b then 1 else 0) t = true ∧ (if a = .b then t.saf.soDiffB else t.saf.soDiffA) = true ∧ Grows s t)) ∧
  (∀ (s : State) (l : List (CustReg × Nat)) (c : Custodian),
   s.cat.locked = true → c = l.foldl Custodian.upset s.saf.cust → 
   (callistoRuns s = true → ({ s with saf := { s.saf with cust := c } } : State).custDiffers = true → Answers (exec (.custodianConfigCheck l) s) fun t => active 0x5806 noInst t = true ∧ t.saf.cust = c ∧ Grows s t ∧ t.beyond = ({ s with saf := { s.saf with cust := c } } : State).beyond) ∧
        (({ s with saf := { s.saf with cust := c } } : State).custDiffers = false → exec (.custodianConfigCheck l) s = .next { s with saf := { s.saf with cust := c } }) ∧
        ((∃ n, c.si.get n ≠ s.payload 0x80 n.val) ∨ c.safety ≠ s.payload 0x81 0 → ({ s with saf := { s.saf with cust := c } } : State).custDiffers = true))


/-- Each step of a running pair compares what the main copy drove two advances before with what the checker drives, and with no difference the four delay registers advance, by an idle token where 50 ns pass without a transfer, and a word that the core writes reaches the shared SRAM or the map store, but for a locked region, where it is blocked with 0x8006; a difference in the address is kind 1, else in the data kind 2, else in the control kind 3, and an invalid code of a cell kind 6. A difference halts the pair or, the first time for Europa or Ganymede, restarts it; it counts, keeps what it saw, rewinds the uncommitted packets of the pair's mailboxes and raises the pair's fault. A restart that ends lets the pair run again with empty registers and its data region filled with zeros (which fields of the model stand for it is the model's choice, log entry 66). An export, which acts only at a multiple of the pair's period, of equal words is counted, one whose word w is the first to differ is a mismatch of kind 5 at w, and one due in a debug halt waits for the resume and compares then. Debug acts only while it is open: a halt, before which the checker runs on through what is under way, a register write into the main copy and the queue of 256 for the checker (a full one answers with an error status and 0x600D), a resume and a single step. -/
def Obligations.LockstepPairs : Prop :=
  (∀ (s : State) (p : LPair) (c : CoreStep) (m : Bound) (k : Nat),
   (s.lks.pairs.get p).st = 1 → c.gapNs < 50 → c.main = some m → compared c.rails (s.lks.pairs.get p).out2 (c.checker.getD 0 .idle) (Config.freeNat s.freeIx) = some k → p ≠ .ganymede ∨ (s.lks.pairs.get p).mismatches ≠ 0 ∨ s.sup.ship = .none → 
   Answers (exec (.lockstepMismatch p [c]) s) fun t => t.lks.pairs.get p = { s.lks.pairs.get p with st := if (s.lks.pairs.get p).mismatches = 0 ∧ (p = .europa ∨ p = .ganymede) then 3 else 2, mismatches := satInc 8 (s.lks.pairs.get p).mismatches, kind := k, time := s.timeNs % 2 ^ 32, replay := [], exportDue := false } ∧
        (∀ r, r ≠ p → t.lks.pairs.get r = s.lks.pairs.get r) ∧ (∀ q, t.pq.get q = if q ∈ mailboxes p then { (s.pq.get q).rewind with wait := none } else s.pq.get q) ∧ active (pairFault p (decide ((s.lks.pairs.get p).mismatches = 0))) p.num t = true ∧ (k = 6 → active 0x6006 p.num t = true) ∧ Grows s t ∧
        t.beyond = { s.beyond with lks := { s.lks with pairs := t.lks.pairs }, pq := t.pq, cat := t.cat, ops := t.ops, freeIx := s.freeIx + 1 }) ∧
  (∀ (s : State) (p : LPair) (c : CoreStep) (m : Bound),
   (s.lks.pairs.get p).st = 1 → c.gapNs < 50 → c.main = some m → compared c.rails (s.lks.pairs.get p).out2 (c.checker.getD 0 .idle) (Config.freeNat s.freeIx) = none → 
   (c.writes = none → exec (.lockstepMismatch p [c]) s = .next { s with lks := { s.lks with pairs := s.lks.pairs.upd p (advance c.held m c.bus) } }) ∧
        (∀ w : Fin 9 × Nat, c.writes = some w → w.1 ≠ 8 → (∀ r, c.region = some r → regionLocked r s = false) → exec (.lockstepMismatch p [c]) s = .next { s with lks := { s.lks with pairs := s.lks.pairs.upd p (advance c.held m c.bus), poisoned := s.lks.poisoned.filter (fun v => decide (v ≠ w)), sram := putWord (8 * eccAddress w.1 w.2) m.data.toNat s.lks.sram } }) ∧
        (∀ w : Fin 9 × Nat, c.writes = some w → w.1 = 8 → s.cat.locked = false → exec (.lockstepMismatch p [c]) s = .next { s with lks := { s.lks with pairs := s.lks.pairs.upd p (advance c.held m c.bus), poisoned := s.lks.poisoned.filter (fun v => decide (v ≠ w)) }, cat := { s.cat with map := putWord (8 * w.2) m.data.toNat s.cat.map } }) ∧
        (∀ w : Fin 9 × Nat, c.writes = some w → (w.1 = 8 ∧ s.cat.locked = true) ∨ (w.1 ≠ 8 ∧ ∃ r, c.region = some r ∧ regionLocked r s = true) → Answers (exec (.lockstepMismatch p [c]) s) fun t => active 0x8006 noInst t = true ∧ t.lks = { s.lks with pairs := s.lks.pairs.upd p (advance c.held m c.bus) } ∧ t.cat = s.cat)) ∧
  (∀ (s : State) (p : LPair) (c : CoreStep),
   (s.lks.pairs.get p).st = 1 → 50 ≤ c.gapNs → c.gapNs < 100 → c.main = none → compared c.rails (s.lks.pairs.get p).out2 (c.checker.getD 0 .idle) (Config.freeNat s.freeIx) = none → 
   exec (.lockstepMismatch p [c]) s = .next { s with lks := { s.lks with pairs := s.lks.pairs.upd p (advance c.held .idle .idle) } }) ∧
  (∀ (s : State) (p : LPair) (l : List CoreStep), (s.lks.pairs.get p).st ≠ 1 → exec (.lockstepMismatch p l) s = .next s) ∧
  (∀ (x : PairSt) (m1 m2 : Bound) (b1 b2 : BusIn), (advance [] m2 b2 (advance [] m1 b1 x)).out2 = m1 ∧ (advance [] m2 b2 (advance [] m1 b1 x)).in2 = b1 ∧ (advance [] m1 b1 x).bus = m1) ∧
  (∀ (x y : Bound) (f : Nat), (compared [] x y f = none ↔ x = y) ∧
        (x.addr ≠ y.addr → compared [] x y f = some 1) ∧ (x.addr = y.addr → x.data ≠ y.data → compared [] x y f = some 2) ∧
        (x.addr = y.addr → x.data = y.data → x.ctrl ≠ y.ctrl → compared [] x y f = some 3) ∧
        (∀ n, n < 28 → compared [(n, 0)] x y f = some 6 ∧ compared [(n, 3)] x y f = some 6)) ∧
  (∀ (s : State) (p : LPair) (region : List (Fin 9 × Nat)),
   ((s.lks.pairs.get p).st = 3 → Answers (exec (.pairRestartComplete p region) s) fun t => t.lks = { s.lks with pairs := s.lks.pairs.upd p (fun x => { x with st := 1, restarts := satInc 8 x.restarts, bus := .idle, out1 := .idle, out2 := .idle, in1 := .idle, in2 := .idle }), poisoned := s.lks.poisoned.filter (fun v => !region.contains v), sram := region.foldl (fun m w => if w.1 = 8 then m else putWord (8 * eccAddress w.1 w.2) 0 m) s.lks.sram } ∧
          (p = .io ∨ p = .callisto → t = { s with lks := t.lks }) ∧ (p = .europa → t = { s with lks := t.lks, chg := t.chg } ∧ t.chg.isoStep = 0 ∧ t.chg.isoStart = false ∧ t.chg.restartFor = none) ∧
          (p = .ganymede → t = { s with lks := t.lks, uds := t.uds, sec := { s.sec with challenge := none, jobs := [], pend := [] } } ∧ t.uds.unlocks = [] ∧ (∀ c, t.uds.session.get c = 1))) ∧
        ((s.lks.pairs.get p).st ≠ 3 → exec (.pairRestartComplete p region) s = .next s)) ∧
  (∀ (s : State) (p : LPair) (l l' : List (BitVec 64)) (w : Nat),
   (s.mer.ct % (if p = .callisto then 400000 else 4000000) ≠ 0 → exec (.registerExport p l l') s = .next s) ∧
        (s.mer.ct % (if p = .callisto then 400000 else 4000000) = 0 → (s.lks.pairs.get p).st = 1 → exec (.registerExport p l l) s = .next { s with lks := { s.lks with pairs := s.lks.pairs.upd p (fun x => { x with exports := wrapInc 16 x.exports, exportDue := false }) } }) ∧
        (s.mer.ct % (if p = .callisto then 400000 else 4000000) = 0 → (s.lks.pairs.get p).st = 1 → l.take w = l'.take w → l[w]? ≠ l'[w]? → 
          Answers (exec (.registerExport p l l') s) fun t => (t.lks.pairs.get p).kind = 5 ∧ (t.lks.pairs.get p).lastWord = w ∧ (t.lks.pairs.get p).st ≠ 1 ∧ (t.lks.pairs.get p).mismatches = satInc 8 (s.lks.pairs.get p).mismatches ∧ active (pairFault p (decide ((s.lks.pairs.get p).mismatches = 0))) p.num t = true) ∧
        (s.mer.ct % (if p = .callisto then 400000 else 4000000) = 0 → (s.lks.pairs.get p).st = 4 → exec (.registerExport p l l') s = .next { s with lks := { s.lks with pairs := s.lks.pairs.upd p (fun x => { x with exportDue := true }) } }) ∧
        ((s.lks.pairs.get p).st = 2 ∨ (s.lks.pairs.get p).st = 3 → exec (.registerExport p l l') s = .next s)) ∧
  (∀ (s : State) (p : LPair) (reg v : Nat) (b : Bool) (tail : CoreStep) (steps : List CoreStep) (main checker : List (BitVec 64)),
   (debugOpen s = false → exec (.debugHalt p tail main checker) s = .next s ∧ exec (.debugRegisterWrite p reg v) s = .next s ∧ exec (.debugResume p b steps main checker) s = .next s) ∧
        (debugOpen s = true → (s.lks.pairs.get p).st = 1 → tail.held = [] → tail.rails = [] → tail.checker = [(s.lks.pairs.get p).out2, (s.lks.pairs.get p).out1] → exec (.debugHalt p tail main checker) s = .next { s with lks := { s.lks with pairs := s.lks.pairs.upd p (fun x => { x with st := 4, regs := main, chkRegs := checker, bus := .idle, out1 := .idle, out2 := .idle, in1 := .idle, in2 := .idle }) } }) ∧
        (∀ k, debugOpen s = true → (s.lks.pairs.get p).st = 1 → compared tail.rails (s.lks.pairs.get p).out2 (tail.checker.getD 0 .idle) (Config.freeNat s.freeIx) = some k → Answers (exec (.debugHalt p tail main checker) s) fun t => (t.lks.pairs.get p).kind = k ∧ (t.lks.pairs.get p).st ≠ 1 ∧ (t.lks.pairs.get p).st ≠ 4) ∧
        (debugOpen s = true → (s.lks.pairs.get p).st = 4 → (s.lks.pairs.get p).replay.length < 256 → exec (.debugRegisterWrite p reg v) s = .next { s with lks := { s.lks with pairs := s.lks.pairs.upd p (fun x => { x with regs := x.regs.set reg (BitVec.ofNat 64 v), replay := x.replay ++ [(reg, v)] }) } }) ∧
        (debugOpen s = true → (s.lks.pairs.get p).st = 4 → 256 ≤ (s.lks.pairs.get p).replay.length → Answers (exec (.debugRegisterWrite p reg v) s) fun t => active 0x600D p.num t = true ∧ t.out = .jtagError :: s.out ∧ SameButFaults { s with out := t.out } t) ∧
        (debugOpen s = true → (s.lks.pairs.get p).st = 4 → exec (.debugResume p true [] main checker) s = .next { s with lks := { s.lks with pairs := s.lks.pairs.upd p (fun x => { x with replay := [], st := 4, regs := main, chkRegs := checker }) } }) ∧
        (debugOpen s = true → (s.lks.pairs.get p).st = 4 → (s.lks.pairs.get p).exportDue = false → exec (.debugResume p false [] main checker) s = .next { s with lks := { s.lks with pairs := s.lks.pairs.upd p (fun x => { x with replay := [], st := 1, chkRegs := x.replay.foldl (fun rs w => rs.set w.1 (BitVec.ofNat 64 w.2)) x.chkRegs }) } }) ∧
        (debugOpen s = true → (s.lks.pairs.get p).st = 4 → (s.lks.pairs.get p).exportDue = true → exec (.debugResume p false [] main main) s = .next { s with lks := { s.lks with pairs := s.lks.pairs.upd p (fun x => { x with replay := [], st := 1, exports := wrapInc 16 x.exports, exportDue := false, chkRegs := x.replay.foldl (fun rs w => rs.set w.1 (BitVec.ofNat 64 w.2)) x.chkRegs }) } }) ∧
        (∀ w, debugOpen s = true → (s.lks.pairs.get p).st = 4 → (s.lks.pairs.get p).exportDue = true → main.take w = checker.take w → main[w]? ≠ checker[w]? → Answers (exec (.debugResume p false [] main checker) s) fun t => (t.lks.pairs.get p).kind = 5 ∧ (t.lks.pairs.get p).lastWord = w))



/-- A word read with its own check bits is clean, and one with one data or check bit changed is corrected. After the start-up check, a correctable error is counted for its bank, noted with its syndrome and raises 0x6008, the seventeenth of a bank within one second 0x6009; the reader gets the corrected data. A scrub read moves each scrubber to its next word and counts a pass behind the last word; a word it corrects is counted unless a reader finds the same error at once, and one that it corrected in the pass before too raises 0x6009; a write of a pair in between drops the write-back. An uncorrectable error or a poisoned word is counted and noted; in a locked store or the code region it raises 0x600B, elsewhere it poisons the word with 0x600A, and the pair that read it mismatches with kind 7. Before the check none of them acts. -/
def Obligations.MemoryChecks : Prop :=
  (∀ (s : State) (r : MemRead) (reader : MemReader) (now : Nat) (d : BitVec 64),
   s.lks.startOk = true → (r.bank, r.word) ∉ s.lks.poisoned → verdict r = .corrected d → 
   Answers (exec (.correctableError r reader now) s) fun t => active 0x6008 r.bank.val t = true ∧ t.lks = { s.lks with ce := s.lks.ce.upd r.bank (satInc 16), last := (r.bank.val, 1, reader.num, r.word), syn := (syndrome r).toNat, returned := d, ceTimes := (r.bank, now) :: s.lks.ceTimes.filter (fun t => decide (now < t.2 + 1000)) } ∧
        (16 ≤ ((s.lks.ceTimes.filter (fun t => decide (now < t.2 + 1000))).filter (fun t => decide (t.1 = r.bank))).length → active 0x6009 r.bank.val t = true) ∧ SameButFaults { s with lks := t.lks } t) ∧
  (∀ (b : Fin 9) (w : Nat) (d : BitVec 64) (i : Fin 64) (j : Fin 8),
   verdict { bank := b, word := w, data := d, check := checkBits b w d } = .clean ∧
        verdict { bank := b, word := w, data := d ^^^ (1#64 <<< i.val), check := checkBits b w d } = .corrected d ∧
        verdict { bank := b, word := w, data := d, check := checkBits b w d ^^^ (1#8 <<< j.val) } = .corrected d) ∧
  (∀ (s : State) (l : List ScrubWord) (now : Nat),
   s.lks.startOk = true → 
   Answers (exec (.scrubRead l now) s) fun t => 
        t.lks.wSram = (if s.lks.wSram + 1 < 98304 then s.lks.wSram + 1 else 0) ∧ t.lks.passes = (if s.lks.wSram + 1 < 98304 then s.lks.passes else wrapInc 16 s.lks.passes) ∧ t.lks.wMap = (if s.lks.wMap + 1 < 32768 then s.lks.wMap + 1 else 0) ∧ t.lks.mapPasses = (if s.lks.wMap + 1 < 32768 then s.lks.mapPasses else wrapInc 16 s.lks.mapPasses) ∧
        t.lks.pairs = s.lks.pairs ∧ (∀ v, v ∈ t.lks.poisoned → v ∈ s.lks.poisoned) ∧ t.lks.ue = s.lks.ue ∧ SameButFaults { s with lks := t.lks } t) ∧
  (∀ (s : State) (x : ScrubWord) (now : Nat) (d : BitVec 64),
   s.lks.startOk = true → (x.bank, (scrubAt s x.bank).1) ∉ s.lks.poisoned → verdict { bank := x.bank, word := (scrubAt s x.bank).1, data := x.data, check := x.check } = .corrected d → 
   Answers (exec (.scrubRead [x] now) s) fun t => 
        (x.shared = false → active 0x6008 x.bank.val t = true ∧ t.lks.ce = s.lks.ce.upd x.bank (satInc 16) ∧ t.lks.last = (x.bank.val, 1, 0, (scrubAt s x.bank).1) ∧ t.lks.returned = d) ∧ (x.shared = true → t.lks.ce = s.lks.ce) ∧
        (x.raced = false → (x.bank, scrubAt s x.bank) ∈ t.lks.corrected ∧ ((∃ n, (x.bank, (scrubAt s x.bank).1, n) ∈ s.lks.corrected ∧ (n + 1) % 2 ^ 16 = (scrubAt s x.bank).2) → active 0x6009 x.bank.val t = true)) ∧
        (x.raced = true → t.lks.corrected = s.lks.corrected)) ∧
  (∀ (s : State) (r : MemRead) (reader : MemReader) (k : Bool),
   s.lks.startOk = true → (r.bank, r.word) ∈ s.lks.poisoned ∨ verdict r = .uncorrectable → 
   Answers (exec (.uncorrectableError r reader k) s) fun t => t.lks.ue.get r.bank = satInc 8 (s.lks.ue.get r.bank) ∧ t.lks.last = (r.bank.val, if (r.bank, r.word) ∈ s.lks.poisoned then 3 else 2, reader.num, r.word) ∧ t.lks.syn = (if (r.bank, r.word) ∈ s.lks.poisoned then poisonSyndrome else syndrome r).toNat ∧ Grows s t ∧
        (k = true ∨ (r.bank = 8 ∧ s.cat.locked = true) → active 0x600B r.bank.val t = true ∧ t.lks.poisoned = s.lks.poisoned) ∧ (k = false → ¬(r.bank = 8 ∧ s.cat.locked = true) → (r.bank, r.word) ∉ s.lks.poisoned → active 0x600A r.bank.val t = true) ∧ (k = false → ¬(r.bank = 8 ∧ s.cat.locked = true) → (r.bank, r.word) ∈ t.lks.poisoned) ∧
        (∀ p, reader = .pair p → (s.lks.pairs.get p).st = 1 → (t.lks.pairs.get p).kind = 7 ∧ (t.lks.pairs.get p).st ≠ 1 ∧ active (pairFault p (decide ((s.lks.pairs.get p).mismatches = 0))) p.num t = true) ∧
        ((∀ p, reader ≠ .pair p) → t.lks.pairs = s.lks.pairs)) ∧
  (∀ (s : State) (r : MemRead) (reader : MemReader) (k : Bool) (now : Nat) (l : List ScrubWord),
   s.lks.startOk = false → 
   exec (.correctableError r reader now) s = .next s ∧ exec (.scrubRead l now) s = .next s ∧ exec (.uncorrectableError r reader k) s = .next s)


/-- A word of a writer whose pair runs that fits enters its chain, a LAST word commits its packet behind the committed words and no other queue or chain changes. With the chain full a pair's word waits, and after 100 us its packet is rewound and refused; a receiver's packet is rewound, discarded up to LAST and counted. An over-long packet is rewound with 0x7003, a malformed word counted with 0x7004. An abort removes the open packet, a zero-length commit is only counted. A pair that is halted or restarting writes nothing. -/
def Obligations.QueueWriter : Prop :=
  (∀ (s : State) (q : QId) (v : BitVec 64) (f l : Bool) (c : Fin 8),
   qPresent s q = true → qWriterOn s q = true → badChain (s.pq.get q) = none → (s.pq.get q).wait = none → (s.pq.get q).discard = false → ((s.pq.get q).opened = none ∧ f = true) ∨ ((s.pq.get q).opened = some c ∧ f = false) → 
   (((s.pq.get q).chains.get c).opn.length < qMax q → ((s.pq.get q).chains.get c).occ < qDepth q → Answers (exec (.queuePush q v f l c) s) fun t => t = { s with pq := t.pq } ∧ (∀ r, r ≠ q → t.pq.get r = s.pq.get r) ∧
          ((t.pq.get q).chains.get c).words = (if l then ((s.pq.get q).chains.get c).words ++ ((s.pq.get q).chains.get c).opn ++ [{ word := v, first := f, last := l }] else ((s.pq.get q).chains.get c).words) ∧
          ((t.pq.get q).chains.get c).opn = (if l then [] else ((s.pq.get q).chains.get c).opn ++ [{ word := v, first := f, last := l }]) ∧ (∀ d, d ≠ c → (t.pq.get q).chains.get d = (s.pq.get q).chains.get d) ∧
          (t.pq.get q).opened = (if l then none else some c) ∧ (t.pq.get q).packets = (if l then wrapInc 16 (s.pq.get q).packets else (s.pq.get q).packets) ∧ markCause ((t.pq.get q).chains.get c).marks = 0 ∧ (t.pq.get q).reading = (s.pq.get q).reading) ∧
        (((s.pq.get q).chains.get c).opn.length < qMax q → qDepth q ≤ ((s.pq.get q).chains.get c).occ → qReceiver q = false → exec (.queuePush q v f l c) s = .next { s with pq := s.pq.put q { s.pq.get q with opened := some c, wait := some (c, { word := v, first := f, last := l }) } }) ∧
        (((s.pq.get q).chains.get c).opn.length < qMax q → qDepth q ≤ ((s.pq.get q).chains.get c).occ → qReceiver q = true → Answers (exec (.queuePush q v f l c) s) fun t => t.pq = s.pq.put q { (s.pq.get q).rewind with opened := none, discard := !l, full := satInc 8 (s.pq.get q).full } ∧ SameButFaults { s with pq := t.pq, vif := t.vif } t) ∧
        (qMax q ≤ ((s.pq.get q).chains.get c).opn.length → Answers (exec (.queuePush q v f l c) s) fun t => active 0x7003 q.val t = true ∧ t.pq = s.pq.put q { (s.pq.get q).rewind with opened := none, discard := !l, overlong := satInc 8 (s.pq.get q).overlong } ∧ SameButFaults { s with pq := t.pq } t)) ∧
  (∀ (s : State) (q : QId) (v : BitVec 64) (l : Bool) (c : Fin 8),
   qPresent s q = true → qWriterOn s q = true → badChain (s.pq.get q) = none → (s.pq.get q).wait = none → (s.pq.get q).discard = false → 
   ((s.pq.get q).opened = none → Answers (exec (.queuePush q v false l c) s) fun t => active 0x7004 q.val t = true ∧ t.pq = s.pq.upd q (fun x => { x with malf := satInc 8 x.malf }) ∧ SameButFaults { s with pq := t.pq } t) ∧
        (∀ o, (s.pq.get q).opened = some o → c ≠ o → Answers (exec (.queuePush q v false l c) s) fun t => active 0x7004 q.val t = true ∧ t.pq.get q = { (s.pq.get q).rewind with discard := !l, malf := satInc 8 (s.pq.get q).rewind.malf } ∧ SameButFaults { s with pq := t.pq } t)) ∧
  (∀ (s : State) (q : QId) (us : Nat),
   ((s.pq.get q).wait.isSome = true → 100 ≤ us → exec (.queuePushTimeout q us) s = .next { s with pq := s.pq.put q { (s.pq.get q).rewind with opened := none, wait := none, full := satInc 8 (s.pq.get q).full } }) ∧
        ((s.pq.get q).opened.isSome = true → qWriterOn s q = true → badChain (s.pq.get q) = none → exec (.queueAbort q) s = .next { s with pq := s.pq.put q { (s.pq.get q).rewind with wait := none, abort := satInc 8 (s.pq.get q).abort } }) ∧
        ((s.pq.get q).opened.isSome = true → (s.pq.get q).rewind.opened = none ∧ ∀ c, ((s.pq.get q).rewind.chains.get c).words = ((s.pq.get q).chains.get c).words ∧ ((s.pq.get q).opened = some c → ((s.pq.get q).rewind.chains.get c).opn = [])) ∧
        (qPresent s q = true → qWriterOn s q = true → (s.pq.get q).opened = none → exec (.zeroLengthCommit q) s = .next { s with pq := s.pq.put q { s.pq.get q with zcommit := satInc 16 (s.pq.get q).zcommit } })) ∧
  (∀ (s : State) (q : QId) (v : BitVec 64) (f l : Bool) (c : Fin 8),
   qWriterOn s q = false → 
   exec (.queuePush q v f l c) s = .next s ∧ exec (.queueAbort q) s = .next s ∧ exec (.zeroLengthCommit q) s = .next s) ∧
  (∀ (s : State) (q : QId),
   (14 ≤ q.val → q.val < 26 → (qWriterOn s q = true ↔ (s.lks.pairs.get (pairAt ((q.val - 14) / 3))).st = 1)) ∧ (26 ≤ q.val → qWriterOn s q = true)) ∧
  (∀ (s : State) (q : QId),
   classOf s 0x7003 q.val = 0 ∧ classOf s 0x7004 q.val = 0)

/-- A pop of a reader whose pair runs takes the head of the highest class with a committed packet, or of the packet it has started, and nothing else moves; with no committed packet it changes nothing. Marks that agree leave the queue alone; a difference, also one that an upset of one count makes or that a pop finds, empties every chain, keeps the lost-item count, ends the started packet with the abort indication and raises 0x7001, at the third reset within one second also 0x7002 with the class of the table of queues. -/
def Obligations.QueueReader : Prop :=
  (∀ (s : State) (q : QId) (c : Fin 8) (w : Item) (r : List Item),
   qPresent s q = true → qReaderOn s q = true → badChain (s.pq.get q) = none → (s.pq.get q).aborted = false → q.val < 4 ∨ 8 ≤ q.val → readChain (s.pq.get q) = some c → ((s.pq.get q).chains.get c).words = w :: r → (s.pq.get q).wait = none → 
   (exec (.queuePop q) s = .next { s with pq := s.pq.put q { s.pq.get q with chains := (s.pq.get q).chains.put c ({ (s.pq.get q).chains.get c with words := r } : Chain).remark, popped := some w, reading := if w.last then none else some c } }) ∧
        ((s.pq.get q).reading = none → ((s.pq.get q).chains.get c).ready = true ∧ ∀ d, c < d → ((s.pq.get q).chains.get d).ready = false) ∧ (∀ d, (s.pq.get q).reading = some d → c = d)) ∧
  (∀ (s : State) (q : QId),
   qPresent s q = true → badChain (s.pq.get q) = none → 
   ((s.pq.get q).aborted = false → (∀ c, ((s.pq.get q).chains.get c).ready = false) → (s.pq.get q).reading = none → exec (.queuePop q) s = .next s) ∧
        ((s.pq.get q).aborted = true → qReaderOn s q = true → (q.val < 4 ∨ 8 ≤ q.val) → exec (.queuePop q) s = .next { s with pq := s.pq.upd q (fun x => { x with aborted := false, popped := none }) }) ∧ (∀ ms, exec (.markCheck q none ms) s = .next s)) ∧
  (∀ (s : State) (q : QId) (ms : Nat) (c : Fin 8),
   qPresent s q = true → badChain (s.pq.get q) = some c → 
   Answers (exec (.markCheck q none ms) s) fun t => (∀ d, (t.pq.get q).chains.get d = Chain.empty) ∧ (t.pq.get q).resets = satInc 8 (s.pq.get q).resets ∧ (t.pq.get q).lostLast = min (lostItems (s.pq.get q)) 0xFFFF ∧ (t.pq.get q).aborted = ((s.pq.get q).aborted || (s.pq.get q).reading.isSome) ∧ (t.pq.get q).discard = (match (s.pq.get q).wait with | some w => !w.2.last | none => (s.pq.get q).opened.isSome || (s.pq.get q).discard) ∧ (t.pq.get q).opened = none ∧ (t.pq.get q).chain = c.val ∧
        (∀ r, r ≠ q → t.pq.get r = s.pq.get r) ∧ active 0x7001 q.val t = true ∧ Grows s t ∧
        ((s.pq.get q).resetMs.length < 2 → SameButFaults { s with pq := t.pq, pqSeen := t.pqSeen } t) ∧
        (∀ a b l, (s.pq.get q).resetMs = a :: b :: l → ms < b + 1000 → active 0x7002 q.val t = true)) ∧
  (∀ (s : State) (q : QId) (c : Fin 8) (k : Fin 6) (v ms : Nat),
   qPresent s q = true → badChain (s.pq.get q) = none → 
   (markCause (upsetMark k v ((s.pq.get q).chains.get c).marks) ≠ 0 → Answers (exec (.markCheck q (some (c, k, v)) ms) s) fun t => (∀ d, (t.pq.get q).chains.get d = Chain.empty) ∧ (t.pq.get q).resets = satInc 8 (s.pq.get q).resets ∧ (t.pq.get q).chain = c.val ∧ (t.pq.get q).cause = markCause (upsetMark k v ((s.pq.get q).chains.get c).marks) ∧ active 0x7001 q.val t = true ∧ Grows s t) ∧
        (upsetMark k v ((s.pq.get q).chains.get c).marks = ((s.pq.get q).chains.get c).marks → Answers (exec (.markCheck q (some (c, k, v)) ms) s) fun t => (∀ r, t.pq.get r = s.pq.get r ∨ r = q) ∧ (∀ d, (t.pq.get q).chains.get d = (s.pq.get q).chains.get d) ∧ t = { s with pq := s.pq.put q { s.pq.get q with chains := (t.pq.get q).chains } })) ∧
  (∀ (s : State) (q : QId) (c : Fin 8),
   qPresent s q = true → qReaderOn s q = true → badChain (s.pq.get q) = some c → 
   Answers (exec (.queuePop q) s) fun t => (∀ d, (t.pq.get q).chains.get d = Chain.empty) ∧ (t.pq.get q).resets = satInc 8 (s.pq.get q).resets ∧ active 0x7001 q.val t = true ∧ Grows s t) ∧
  (∀ (s : State) (q : QId),
   qReaderOn s q = false → exec (.queuePop q) s = .next s) ∧
  (∀ (s : State) (q : QId),
   classOf s 0x7002 q.val = if q.val = 26 then 1 else if 14 ≤ q.val ∧ q.val ≠ 18 ∧ q.val ≠ 21 then 4 else 3)

/-- PORT_DOWN_EXPIRY 1 ms after DOWN enters TRAIN unless a fault of the port keeps it stopped; PORT_TRAINED after 64 symbols enters HELLO; HELLO_SEND sends one type 2 frame to the far end; HELLO_FRAME counts frames in a row with one identity and, at the third that echoes this node, enters UP with that neighbour; ALIGNMENT_LOSS with four violations enters DOWN, from UP as a link down; LINK_DOWN takes the port DOWN once a frame of its replay buffer has been resent four times. A link down discards the replay buffer, counts DOWNS and raises 0x6801; a frame that was being cut through from the port ends in EOB at its egress. Every change of a port floods a new advert and changes no port's state otherwise. Only the fabric, the outbox, the free index and what a fault touches change. -/
def Obligations.PortStates : Prop :=
  (∀ (s : State) (p : Port) (n : Nat),
   fabOn s = true → 
   ((s.fab.ports.get p).st = 1 → s.portOn p.val = true → 1000 ≤ n → exec (.portDownExpiry p n) s = .next (portChanged { s with fab := { s.fab with ports := s.fab.ports.upd p (fun x => { x with st := 2 }) } })) ∧
        ((s.fab.ports.get p).st ≠ 1 ∨ s.portOn p.val = false ∨ n < 1000 → exec (.portDownExpiry p n) s = .next s) ∧
        ((s.fab.ports.get p).st = 2 → 64 ≤ n → exec (.portTrained p n) s = .next (portChanged { s with fab := { s.fab with ports := s.fab.ports.upd p (fun x => { x with st := 3, hello := 0, helloId := 0 }) } }))) ∧
  (∀ (s : State),
   (∀ q, ((portChanged s).fab.ports.get q).st = (s.fab.ports.get q).st) ∧ (portChanged s).fab.advSeq = s.fab.advSeq + 1 ∧ ((portChanged s).fab.epoch, (portChanged s).fab.closed, (portChanged s).fab.admitted, (portChanged s).fab.addr, (portChanged s).fab.adverts) = (s.fab.epoch, s.fab.closed, s.fab.admitted, s.fab.addr, s.fab.adverts) ∧
        (∀ q, (s.fab.ports.get q).st ≠ 4 → (portChanged s).fab.ports.get q = { s.fab.ports.get q with parent := ((portChanged s).fab.ports.get q).parent, nbrAddr := ((portChanged s).fab.ports.get q).nbrAddr }) ∧
        Grows s (portChanged s) ∧ SameButFaults { s with fab := (portChanged s).fab, out := (portChanged s).out, freeIx := (portChanged s).freeIx } (portChanged s)) ∧
  (∀ (s : State) (p : Port),
   fabOn s = true → (s.fab.ports.get p).st = 3 → 
   ∃ body, exec (.helloSend p) s = .next { s with fab := { s.fab with ports := s.fab.ports.upd p (fun x => { x with tx := wrapInc 16 x.tx }) }, freeIx := s.freeIx + 1, out := .fab p 2 (linkFrame s body) :: s.out }) ∧
  (∀ (s : State) (p : Port) (id echo : Nat),
   fabOn s = true → (s.fab.ports.get p).st = 3 → 
   let n := if 0 < (s.fab.ports.get p).hello ∧ (s.fab.ports.get p).helloId = id then (s.fab.ports.get p).hello + 1 else 1;
        (n < 3 ∨ echo ≠ s.ident → exec (.helloFrame p id echo) s = .next { s with fab := { s.fab with ports := s.fab.ports.upd p (fun x => { x with hello := min n 3, helloId := id }) } }) ∧
        (3 ≤ n → echo = s.ident → Answers (exec (.helloFrame p id echo) s) fun t => (t.fab.ports.get p).st = 4 ∧ (t.fab.ports.get p).nbrId = id ∧ (∀ q, q ≠ p → (t.fab.ports.get q).st = (s.fab.ports.get q).st) ∧
          Grows s t ∧ SameButFaults { s with fab := t.fab, pq := t.pq, out := t.out, freeIx := t.freeIx } t)) ∧
  (∀ (s : State) (p : Port) (n : Nat),
   fabOn s = true → 2 ≤ (s.fab.ports.get p).st ∧ (s.fab.ports.get p).st ≤ 4 → 
   let u : State := { s with fab := { s.fab with ports := s.fab.ports.upd p (fun x => { x with codev := satAdd 8 x.codev n }) } };
        (n < 4 → exec (.alignmentLoss p n) s = .next u) ∧
        (4 ≤ n → (s.fab.ports.get p).st < 4 → exec (.alignmentLoss p n) s = .next (portChanged (closePort 1 p u))) ∧
        (4 ≤ n → (s.fab.ports.get p).st = 4 → Answers (exec (.alignmentLoss p n) s) fun t => (t.fab.ports.get p).st = 1 ∧ (t.fab.ports.get p).replay = [] ∧ (t.fab.ports.get p).downs = satInc 8 (s.fab.ports.get p).downs ∧ active 0x6801 p.val t = true ∧
          (∀ q, q ≠ p → (t.fab.ports.get q).st = (s.fab.ports.get q).st) ∧ Grows s t ∧ SameButFaults { s with fab := t.fab, pq := t.pq, out := t.out, freeIx := t.freeIx } t)) ∧
  (∀ (s : State) (p : Port) (k : Nat),
   closePort k p s = { s with out := (closePort k p s).out, fab := { s.fab with ports := s.fab.ports.upd p (fun x => { x with st := k, hello := 0, helloId := 0, replay := [], waiting := [], rx := none, txWords := [], delays := [], parent := false }) } } ∧
        (∀ h e, (s.fab.ports.get p).rx = some (h, .cut e) → (closePort k p s).out = .sym e .eob :: s.out) ∧ ((∀ h e, (s.fab.ports.get p).rx ≠ some (h, .cut e)) → (closePort k p s).out = s.out)) ∧
  (∀ (s : State) (p : Port),
   fabOn s = true → (s.fab.ports.get p).st = 4 → 
   ((s.fab.ports.get p).replay.any (fun f => decide (4 ≤ f.resends)) = true → Answers (exec (.linkDown p) s) fun t => (t.fab.ports.get p).st = 1 ∧ (t.fab.ports.get p).replay = [] ∧ (t.fab.ports.get p).downs = satInc 8 (s.fab.ports.get p).downs ∧ active 0x6801 p.val t = true ∧
          (∀ q, q ≠ p → (t.fab.ports.get q).st = (s.fab.ports.get q).st) ∧ Grows s t ∧ SameButFaults { s with fab := t.fab, pq := t.pq, out := t.out, freeIx := t.freeIx } t))

/-- FRAME_HEADER_RECEIVED on an UP port keeps a frame out of sequence only to be acknowledged again, discards one whose header breaks a rule of R445 and counts HDR, and otherwise keeps the way the frame takes, UNREACH counting one that finds none; FRAME_END_RECEIVED rewinds, counts and answers with NAK a frame that fails its CRC, and ends it in EOB where it was being cut through; it answers a frame out of sequence with ACK again if it was received before, else with NAK (log entry 49 gives the window), and takes a frame in sequence with ACK to FAB_IN, to the egress transmitter or to FAB_OUT, advancing the expected link sequence; EOB_RECEIVED rewinds and ends a frame cut through in EOB; ACK_RECEIVED frees the replay buffer up to the acknowledged frame; NAK_RECEIVED and REPLAY_TIMEOUT send the frames from the named, or the oldest, frame on again, each with one more resend, and take the link down where that frame has been resent four times. Nothing but the fabric, its queues, the outbox, the free index and what a fault touches changes. -/
def Obligations.FrameDelivery : Prop :=
  (∀ (s : State) (h : FabHeader),
   headerBroken s h = true ↔ (h.version ≠ 1 ∨ 4 < h.type ∨ (h.e2e = true ∧ (h.type = 0 ∨ h.type = 2 ∨ 4 < h.type)) ∨ (h.e2e = false ∧ (h.type = 1 ∨ h.type = 3 ∨ h.type = 4)) ∨ (h.bcast = true ∧ h.dst ≠ 0xFF) ∨ (h.bcast = false ∧ h.dst = 0xFF) ∨
        h.rsv1 ≠ 0 ∨ h.rsv9 ≠ 0 ∨ h.rsv14 ≠ 0 ∨ 1024 < h.len ∨ h.len % 4 ≠ 0 ∨ (12 ≤ h.hop ∧ h.type ≠ 2 ∧ ¬(s.fab.admitted = true ∧ h.dst = s.fab.addr)))) ∧
  (∀ (s : State) (p : Port) (h : FabHeader),
   fabOn s = true → (s.fab.ports.get p).st = 4 → 
   (h.link ≠ (s.fab.ports.get p).rxLink → exec (.frameHeaderReceived p h) s = .next { s with fab := { s.fab with ports := s.fab.ports.upd p (fun x => { x with rx := some (h, .drop) }) } }) ∧
        (h.link = (s.fab.ports.get p).rxLink → headerBroken s h = true → exec (.frameHeaderReceived p h) s = .next { s with fab := { s.fab with ports := s.fab.ports.upd p (fun x => { x with rx := some (h, .drop) }), hdr := satInc 8 s.fab.hdr } }) ∧
        (h.link = (s.fab.ports.get p).rxLink → headerBroken s h = false → exec (.frameHeaderReceived p h) s = .next { s with fab := { s.fab with ports := s.fab.ports.upd p (fun x => { x with rx := some (h, rxWay s h) }), unreach := if rxWay s h = .drop ∧ s.fab.admitted = true ∧ s.fabReady = true then satInc 8 s.fab.unreach else s.fab.unreach } })) ∧
  (∀ (s : State) (p : Port) (h : FabHeader) (w : RxWay) (pl : List Byte) (crc : Bool),
   fabOn s = true → (s.fab.ports.get p).st = 4 → (s.fab.ports.get p).rx = some (h, w) → 
   let u : State := { s with fab := { s.fab with ports := s.fab.ports.upd p (fun x => { x with rx := none, rxN := wrapInc 16 x.rxN, rxLink := wrapInc 16 x.rxLink }) }, out := .sym p (.ack h.link) :: s.out };
        (crc = false → Answers (exec (.frameEndReceived p crc pl) s) fun t => t = { s with fab := { s.fab with ports := s.fab.ports.upd p (fun x => { x with rx := none, crc := satInc 8 x.crc }) }, pq := t.pq, out := t.out } ∧ ((∀ e, w ≠ .cut e) → t.out = .sym p (.nak (s.fab.ports.get p).rxLink) :: s.out) ∧ (∀ e, w = .cut e → t.out = .sym p (.nak (s.fab.ports.get p).rxLink) :: .sym e .eob :: s.out) ∧
          (∀ q, q ≠ inQ p → (∀ e, w = .store e → q ≠ outQ e) → t.pq.get q = s.pq.get q) ∧ (w = .here → h.type ≠ 2 → t.pq = s.pq.upd (inQ p) (fun x => { x with abort := satInc 8 x.abort }))) ∧
        (crc = true → h.link ≠ (s.fab.ports.get p).rxLink → exec (.frameEndReceived p crc pl) s = .next { s with fab := { s.fab with ports := s.fab.ports.upd p (fun x => { x with rx := none, rxN := wrapInc 16 x.rxN }) }, out := .sym p (answerTo (s.fab.ports.get p).rxLink h.link) :: s.out }) ∧
        (crc = true → h.link = (s.fab.ports.get p).rxLink → Answers (exec (.frameEndReceived p crc pl) s) fun t => Grows s t ∧ SameButFaults { s with fab := t.fab, pq := t.pq, pqSeen := t.pqSeen, out := t.out, freeIx := t.freeIx } t ∧
          (w = .drop ∨ (w = .here ∧ h.type = 2) → t = u) ∧ (w = .here → h.type ≠ 2 → (h.bcast = false ∨ idAt s h.src = none) → t = pushPacket (inQ p) (clsFin h.cls) (frameWords 130 (hdrBytes h ++ pl)) u) ∧
          (∀ e, w = .cut e → t = transmit e h.type (hdrBytes { h with hop := h.hop + 1 } ++ pl) u) ∧ (∀ e, w = .store e → t = pushPacket (outQ e) (clsFin h.cls) (frameWords 130 (hdrBytes { h with hop := h.hop + 1 } ++ pl)) u))) ∧
  (∀ (s : State) (p : Port),
   fabOn s = true → (s.fab.ports.get p).st = 4 → 
   Answers (exec (.eobReceived p) s) fun t => t = { s with fab := { s.fab with ports := s.fab.ports.upd p (fun x => { x with rx := none }) }, pq := t.pq, out := t.out } ∧ (∀ h e, (s.fab.ports.get p).rx = some (h, .cut e) → t.out = .sym e .eob :: s.out ∧ t.pq = s.pq) ∧
        (∀ h, (s.fab.ports.get p).rx = some (h, .here) → h.type ≠ 2 → t.pq = s.pq.upd (inQ p) (fun x => { x with abort := satInc 8 x.abort })) ∧ (∀ h e, (s.fab.ports.get p).rx = some (h, .store e) → t.pq = s.pq.upd (outQ e) (fun x => { x with abort := satInc 8 x.abort }))) ∧
  (∀ (s : State) (p : Port) (link k : Nat),
   fabOn s = true → (s.fab.ports.get p).st = 4 → (s.fab.ports.get p).replay.findIdx? (fun f => decide (f.link = link)) = some k → 
   let u : State := { s with fab := { s.fab with ports := s.fab.ports.upd p (fun x => { x with replay := x.replay.drop (k + 1) }) } };
        ((s.fab.ports.get p).waiting = [] → exec (.ackReceived p link) s = .next u) ∧ exec (.ackReceived p link) s = .next (drainWaiting p (s.fab.ports.get p).waiting.length u)) ∧
  (∀ (expected d : Nat),
   expected < 2 ^ 16 → 1 ≤ d → (d ≤ 2 ^ 15 → answerTo expected ((expected + 2 ^ 16 - d) % 2 ^ 16) = .ack ((expected + 2 ^ 16 - 1) % 2 ^ 16)) ∧ (d < 2 ^ 15 → answerTo expected ((expected + d) % 2 ^ 16) = .nak expected)) ∧
  (∀ (s : State) (p : Port) (link k ns : Nat) (f : Sent) (r : List Sent),
   fabOn s = true → (s.fab.ports.get p).st = 4 → (s.fab.ports.get p).replay.drop k = f :: r → 
   let u : State := { s with fab := { s.fab with ports := s.fab.ports.upd p (fun x => { x with replay := x.replay.take k ++ (f :: r).map (fun g => { g with resends := g.resends + 1 }), resends := satAdd 8 x.resends (f :: r).length }) }, out := ((f :: r).map (fun g => Emit.fab p g.ty g.bytes)).reverse ++ s.out };
        (f.resends < 4 → ((s.fab.ports.get p).replay.findIdx? (fun g => decide (g.link = link)) = some k → exec (.nakReceived p link) s = .next u) ∧ (k = 0 → 2000 ≤ ns → exec (.replayTimeout p ns) s = .next u)) ∧
        (4 ≤ f.resends → ((s.fab.ports.get p).replay.findIdx? (fun g => decide (g.link = link)) = some k → Answers (exec (.nakReceived p link) s) fun t => (t.fab.ports.get p).st = 1 ∧ (t.fab.ports.get p).replay = [] ∧ active 0x6801 p.val t = true ∧ SameButFaults { s with fab := t.fab, pq := t.pq, out := t.out, freeIx := t.freeIx } t) ∧
          (k = 0 → 2000 ≤ ns → Answers (exec (.replayTimeout p ns) s) fun t => (t.fab.ports.get p).st = 1 ∧ (t.fab.ports.get p).replay = [] ∧ active 0x6801 p.val t = true ∧ SameButFaults { s with fab := t.fab, pq := t.pq, out := t.out, freeIx := t.freeIx } t)))

/-- While discovery runs, ADVERT_SEND raises the advert sequence and sends one type 2 frame on every port that is UP (it waits while eight frames are unacknowledged); LINK_STATE_ADVERT discards the node's own and a repeat, keeps a new advert in place of the former one of its identity and sends it on every other UP port, extends an open list by the identities it carries, adopts a neighbour's closed list that holds this node, and takes a port to EXCLUDED with 0x6804 where that list does not hold it; two adverts of one identity, boot and sequence with different neighbour lists raise 0x680A and take every enabled port to EXCLUDED; EPOCH_LIST_CLOSE closes the list after 20 ms unchanged with NODES identities, or T_JOIN after Accession, with 0x6803 where NODES are missing, and the node whose identity is among the 32 lowest is admitted with its rank as address. Apart from the case of 0x680A nothing but the fabric, its queues, the outbox, the free index and what a fault touches changes; where discovery does not run nothing changes. -/
def Obligations.Discovery : Prop :=
  (∀ (s : State),
   discovers s = true → 
   Answers (exec .advertSend s) fun t => t.fab.advSeq = s.fab.advSeq + 1 ∧ (∀ q, (t.fab.ports.get q).st = (s.fab.ports.get q).st) ∧
        (∀ q, (s.fab.ports.get q).st = 4 → (s.fab.ports.get q).replay.length < 8 → ∃ b, (t.fab.ports.get q).replay = (s.fab.ports.get q).replay ++ [{ link := (s.fab.ports.get q).txLink, resends := 0, ty := 2, bytes := b }] ∧ Emit.fab q 2 b ∈ t.out) ∧
        (∀ q, (s.fab.ports.get q).st = 4 → 8 ≤ (s.fab.ports.get q).replay.length → ∃ b, (t.fab.ports.get q).waiting = (s.fab.ports.get q).waiting ++ [(2, b)]) ∧
        (∀ q, (s.fab.ports.get q).st ≠ 4 → t.fab.ports.get q = s.fab.ports.get q) ∧ (t.fab.epoch, t.fab.closed, t.fab.admitted, t.fab.addr, t.fab.adverts) = (s.fab.epoch, s.fab.closed, s.fab.admitted, s.fab.addr, s.fab.adverts) ∧ Grows s t ∧ SameButFaults { s with fab := t.fab, pq := t.pq, out := t.out, freeIx := t.freeIx } t) ∧
  (∀ (s : State) (p : Port) (a : Advert) (u ms : Nat),
   discovers s = false → exec .advertSend s = .next s ∧ exec (.linkStateAdvert p a) s = .next s ∧ exec (.epochListClose u ms) s = .next s) ∧
  (∀ (s : State) (p : Port) (a k : Advert),
   discovers s = true → (s.fab.ports.get p).st = 4 → advertOf s a.id = some k → k.boot = a.boot → 
   (k.seq = a.seq → nbrList k ≠ nbrList a → Answers (exec (.linkStateAdvert p a) s) fun t => active 0x680A ((addrOf s a.id).getD noInst) t = true ∧ (∀ q, (t.fab.ports.get q).st = if (s.fab.ports.get q).st = 0 then 0 else 5) ∧
          t.fab = { s.fab with ports := t.fab.ports } ∧ t.beyond = { s.beyond with fab := t.fab, out := t.out }) ∧
        (a.seq ≤ k.seq ∨ a.id = s.ident → ¬(k.seq = a.seq ∧ nbrList k ≠ nbrList a) → exec (.linkStateAdvert p a) s = .next s)) ∧
  (∀ (s : State) (p : Port) (a : Advert),
   discovers s = true → (s.fab.ports.get p).st = 4 → a.id ≠ s.ident → (advertOf s a.id = none ∨ ∃ k, advertOf s a.id = some k ∧ (k.boot ≠ a.boot ∨ k.seq < a.seq)) → 
   Answers (exec (.linkStateAdvert p a) s) fun t => t.fab.adverts = a :: s.fab.adverts.filter (fun b => decide (b.id ≠ a.id)) ∧ (∀ q, q ≠ p → (s.fab.ports.get q).st = 4 → (s.fab.ports.get q).replay.length < 8 → ∃ b, Emit.fab q 2 b ∈ t.out) ∧ Grows s t ∧ SameButFaults { s with fab := t.fab, pq := t.pq, out := t.out, freeIx := t.freeIx } t ∧
        (s.fab.closed = false → ((s.fab.ports.get p).nbrId ≠ a.id ∨ a.closed = false) → t.fab.epoch = (s.ident :: a.id :: (if a.closed then [] else a.list)).foldl (fun l x => insertId x l) s.fab.epoch ∧ t.fab.closed = false) ∧
        (s.fab.closed = false → (s.fab.ports.get p).nbrId = a.id → a.closed = true → a.list.contains s.ident = true → t.fab.epoch = a.list ∧ t.fab.closed = true) ∧
        (s.fab.closed = false → (s.fab.ports.get p).nbrId = a.id → a.closed = true → a.list.contains s.ident = false → (t.fab.ports.get p).st = 5 ∧ active 0x6804 p.val t = true ∧ t.fab.admitted = s.fab.admitted)) ∧
  (∀ (s : State) (u ms : Nat) (ids : List Nat),
   discovers s = true → s.fab.closed = false → ids = insertId s.ident s.fab.epoch → (20 ≤ u ∧ s.fabNodes ≤ ids.length) ∨ s.tJoin * 1000 ≤ ms → 
   Answers (exec (.epochListClose u ms) s) fun t => t.fab.epoch = ids ∧ t.fab.closed = true ∧ (ids.length < s.fabNodes → active 0x6803 noInst t = true) ∧
          (∀ a, (ids.take 32).findIdx? (fun x => decide (x = s.ident)) = some a → t.fab.admitted = true ∧ t.fab.addr = a) ∧ ((ids.take 32).findIdx? (fun x => decide (x = s.ident)) = none → t.fab.admitted = s.fab.admitted ∧ t.fab.addr = s.fab.addr ∧ ∀ q, (t.fab.ports.get q).st = if (s.fab.ports.get q).st = 0 then 0 else 5) ∧
          Grows s t ∧ SameButFaults { s with fab := t.fab, pq := t.pq, out := t.out, freeIx := t.freeIx } t) ∧
  (∀ (s : State) (u ms : Nat),
   s.fab.closed = true ∨ ¬((20 ≤ u ∧ s.fabNodes ≤ (insertId s.ident s.fab.epoch).length) ∨ s.tJoin * 1000 ≤ ms) → exec (.epochListClose u ms) s = .next s)

/-- DELAY_MEASUREMENT takes ((t4 - t1) - (t3 - t2)) / 2 among the last eight unless it is more than 20 ns (204.8 ft) from the mean in use; TIME_FRAME from the parent sets an unset copy to the carried time plus the link delay and otherwise leaves the copy and sets the rate that removes the error over 1 ms within 200 ppm, eight frames in a row within 20 ns lock, and three in a row above 1 us lose lock with 0x6805; TIME_FRAME_TIMEOUT after 5 ms loses lock with 0x6805 on every node but the reference; with the lock each running anchored group holds its last period and phase with 0x1001; TIME_FRAME_SEND of an admitted node whose copy is set sends on every port of the reference's tree with room one type 3 frame to endpoint 1 of its neighbour, with the time, the E2E counter, the data identity and the CRC-32C, and changes nothing else; otherwise nothing changes. -/
def Obligations.FabricTime : Prop :=
  (∀ (s : State) (p : Port) (t1 t2 t3 t4 : Nat),
   fabOn s = true → (s.fab.ports.get p).st = 4 → 
   let d : Q := (((t4 : Int) - t1 - ((t3 : Int) - t2) : Int) : Q) / 2;
        ((s.fab.ports.get p).delays ≠ [] → 1024 / 5 < absQ (d - linkDelay (s.fab.ports.get p)) → exec (.delayMeasurement p t1 t2 t3 t4) s = .next s) ∧
        ((s.fab.ports.get p).delays = [] ∨ absQ (d - linkDelay (s.fab.ports.get p)) ≤ 1024 / 5 → exec (.delayMeasurement p t1 t2 t3 t4) s = .next { s with fab := { s.fab with ports := s.fab.ports.upd p (fun x => { x with delays := (d :: x.delays).take 8 }) } })) ∧
  (∀ (s : State) (p : Port) (carried : Nat),
   fabServes s = true → (s.fab.ports.get p).st = 4 → (s.fab.ports.get p).parent = true → s.fab.admitted = true → s.fab.timeRef ≠ s.fab.addr → 
   let truth : Q := carried + linkDelay (s.fab.ports.get p) * 25 / 256;
        let e : Q := if s.fab.timeSet then s.fab.time - truth else 0;
        let g := if absQ e ≤ 20 then min (s.fab.goodRun + 1) 8 else 0;
        let b := if 1000 < absQ e then min (s.fab.badRun + 1) 3 else 0;
        let u : State := { s with fab := { s.fab with time := if s.fab.timeSet then s.fab.time else truth, timeSet := true, rate := clampQ (-200) 200 (-e), goodRun := g, badRun := b, lock := s.fab.lock || decide (8 ≤ g) }, mer := { s.mer with ftErr := roundQ (e * 256 / 25) } };
        (b < 3 ∨ u.fab.lock = false → exec (.timeFrame p carried) s = .next u) ∧
        (3 ≤ b → u.fab.lock = true → Answers (exec (.timeFrame p carried) s) fun t => active 0x6805 noInst t = true ∧ t.fab = { u.fab with lock := false, goodRun := 0, badRun := 0 } ∧ t.mer = u.mer ∧ (∀ g, t.pwm.get g = if anchored s g then { s.pwm.get g with anchHold := true, anchLock := false, stretch := 0 } else s.pwm.get g) ∧ (∀ g, anchored s g → active 0x1001 g.val t = true) ∧ Grows s t ∧ SameButFaults { s with fab := t.fab, mer := t.mer, pwm := t.pwm } t)) ∧
  (∀ (s : State) (us : Nat),
   fabOn s = true → s.fab.timeRef ≠ s.fab.addr → 5000 ≤ us → 
   (s.fab.lock = false → exec (.timeFrameTimeout us) s = .next s) ∧
        (s.fab.lock = true → Answers (exec (.timeFrameTimeout us) s) fun t => active 0x6805 noInst t = true ∧ t.fab = { s.fab with lock := false, goodRun := 0, badRun := 0 } ∧ (∀ g, t.pwm.get g = if anchored s g then { s.pwm.get g with anchHold := true, anchLock := false, stretch := 0 } else s.pwm.get g) ∧ (∀ g, anchored s g → active 0x1001 g.val t = true) ∧ Grows s t ∧ SameButFaults { s with fab := t.fab, pwm := t.pwm } t)) ∧
  (∀ (s : State) (i : Nat),
   fabServes s = true → s.fab.admitted = true → s.fab.timeSet = true → idAt s s.fab.timeRef = some i → 
   Answers (exec .timeFrameSend s) fun t =>
        (∀ p, p ∈ treePorts s i → (s.fab.ports.get p).replay.length < 8 → ∃ (h : FabHeader) (cnt : Nat) (b : List Byte),
          h.type = 3 ∧ h.e2e = true ∧ h.dst = (s.fab.ports.get p).nbrAddr ∧ h.src = s.fab.addr ∧ h.dep = 1 ∧ h.sep = 1 ∧ h.len = 16 ∧ h.seq = cnt ∧
          b = withLink (s.fab.ports.get p).txLink (hdrBytes h ++ (natLe 8 s.timeNs ++ natLe 2 cnt ++ natLe 2 (dataId h)) ++ natLe 4 (crc32c (e2eCover h (natLe 8 s.timeNs ++ natLe 2 cnt ++ natLe 2 (dataId h))))) ∧
          (t.fab.ports.get p).replay = (s.fab.ports.get p).replay ++ [{ link := (s.fab.ports.get p).txLink, resends := 0, ty := 3, bytes := b }] ∧ Emit.fab p 3 b ∈ t.out) ∧
        (∀ p, p ∉ treePorts s i → t.fab.ports.get p = s.fab.ports.get p) ∧
        t = { s with fab := { s.fab with ports := t.fab.ports, txCnt := t.fab.txCnt }, out := t.out }) ∧
  (∀ (s : State),
   fabServes s = false ∨ s.fab.admitted = false ∨ s.fab.timeSet = false ∨ idAt s s.fab.timeRef = none → exec .timeFrameSend s = .next s)

/-- CONTROL_FRAME_RECEIVED discards a payload shorter than its trailer with ZCTL and 0x6807, rejects a wrong data ID or CRC-32C with 0x6806 and a stream that resynchronises, takes the first frame of a stream whatever its counter, discards a repeat, takes a counter 1 to 8 ahead with d - 1 lost, rejects any other, and after a rejection takes the second of two consecutive counters; an accepted frame of endpoint 2, 3 or 5 from the partner goes to the pair. DATA_FRAME_RECEIVED adds the gap to GAPS, counts an empty message, and rejects nothing. -/
def Obligations.EndToEnd : Prop :=
  (∀ (s : State) (h : FabHeader) (pl : List Byte) (c : CtlContent),
   fabServes s = true → h.e2e = true → h.type = 3 ∨ s.fabReady = true → pl.length < 8 → 
   Answers (exec (.controlFrameReceived h pl c) s) fun t => active 0x6807 h.src t = true ∧ t.fab = { s.fab with zctl := satInc 8 s.fab.zctl } ∧ Grows s t ∧ SameButFaults { s with fab := t.fab } t) ∧
  (∀ (s : State) (h : FabHeader) (pl : List Byte) (c : CtlContent) (o : Option FabStream),
   fabServes s = true → h.e2e = true → h.type = 3 ∨ s.fabReady = true → 8 ≤ pl.length → s.fab.streams.find? (fun y => decide (y.src = h.src) && decide (y.sep = h.sep) && decide (y.dep = h.dep) && (y.bcast == h.bcast)) = o → 
   let n := pl.length - 8;
        let cnt := uAt pl n 2;
        let ok := uAt pl (n + 2) 2 = dataId h ∧ uAt pl (n + 4) 4 = crc32c (e2eCover h (pl.take (n + 4)));
        let x := o.getD { src := h.src, sep := h.sep, dep := h.dep, bcast := h.bcast, last := 0, resync := false, lastGood := none };
        let d := (cnt + 2 ^ 16 - x.last % 2 ^ 16) % 2 ^ 16;
        let took (k : Nat) : State := { s with fab := { s.fab with streams := putStream { x with last := cnt, resync := false, lastGood := none } s.fab.streams, lostc := satAdd 16 s.fab.lostc k } };
        let given (k : Nat) : Prop := exec (.controlFrameReceived h pl c) s = .next (if (h.dep = 2 ∨ h.dep = 3 ∨ h.dep = 5) ∧ partnerAddr s = some h.src then pairFrame c (took k) else took k);
        let rejected (f : Fab) : Prop := Answers (exec (.controlFrameReceived h pl c) s) fun t => active 0x6806 h.src t = true ∧ t.fab = f ∧ Grows s t ∧ SameButFaults { s with fab := t.fab } t;
        (¬ok → o = none → rejected { s.fab with e2e := satInc 8 s.fab.e2e }) ∧
        (¬ok → o.isSome = true → rejected { s.fab with streams := putStream { x with resync := true, lastGood := none } s.fab.streams, e2e := satInc 8 s.fab.e2e }) ∧
        (ok → o = none → given 0) ∧
        (ok → o.isSome = true → x.resync = false → d = 0 → exec (.controlFrameReceived h pl c) s = .next s) ∧
        (ok → o.isSome = true → x.resync = false → 1 ≤ d → d ≤ 8 → given (d - 1)) ∧
        (ok → o.isSome = true → x.resync = false → 8 < d → rejected { s.fab with streams := putStream { x with resync := true, lastGood := some cnt } s.fab.streams, e2e := satInc 8 s.fab.e2e }) ∧
        (ok → o.isSome = true → x.resync = true → (∃ g, x.lastGood = some g ∧ cnt % 2 ^ 16 = (g + 1) % 2 ^ 16) → given 0) ∧
        (ok → o.isSome = true → x.resync = true → (∀ g, x.lastGood = some g → cnt % 2 ^ 16 ≠ (g + 1) % 2 ^ 16) → exec (.controlFrameReceived h pl c) s = .next { s with fab := { s.fab with streams := putStream { x with lastGood := some cnt } s.fab.streams } })) ∧
  (∀ (s : State) (h : FabHeader),
   fabServes s = true → h.type = 0 → s.fabReady = true → 
   exec (.dataFrameReceived h) s = .next { s with fab := { s.fab with rxData := (h.src, h.seq % 2 ^ 16) :: Tab.drop h.src s.fab.rxData, empties := if h.len = 0 then wrapInc 16 s.fab.empties else s.fab.empties, gaps := satAdd 16 s.fab.gaps (match Tab.find h.src s.fab.rxData with
        | some l => ((h.seq + 2 ^ 16 - l % 2 ^ 16) % 2 ^ 16) - 1
        | none => 0) } })

/-- Before FAB_READY no request is served; one shorter than its arguments is answered 0x08, one that the service options disable 0x07. READ answers the words in ascending order, each read before its RC fields clear; WRITE reaches LVC_CMD alone and is answered 0x03 for any other mapped address; STAGE_OPEN, STAGE_EXIT and ROUTINE are answered 0x05 while another path owns the session, 0x04 or 0x08 where a condition or an argument fails, and otherwise have the effect they have over UDS; an unknown operation is answered 0x01; IMAGE_BLOCK_PART assembles eight parts in any order, and a part of no open session is discarded; LOG_READ and ATTEST answer with data frames, the second once its report is signed. A reply changes only the fabric, its queues, the outbox and the free index. -/
def Obligations.Management : Prop :=
  (∀ (s : State) (r : FabReq) (op st code n m k : Nat) (l : List Byte) (fw : FwFacts) (ok : Bool) (fs : List ReadFail),
   (Grows s (reply r op st l s) ∧ SameButFaults { s with fab := (reply r op st l s).fab, pq := (reply r op st l s).pq, pqSeen := (reply r op st l s).pqSeen, out := (reply r op st l s).out, freeIx := (reply r op st l s).freeIx } (reply r op st l s)) ∧
        (mgmtOn s = false → exec (.read r n m) s = .next s ∧ exec (.write r n m) s = .next s ∧ exec (.stageOpen r n m k) s = .next s ∧ exec (.stageExit r) s = .next s ∧ exec (.routine r n fw ok fs) s = .next s ∧ exec (.logRead r n m) s = .next s ∧ exec (.attest r l) s = .next s ∧ exec (.opUnknown r code) s = .next s ∧ exec (.imageBlockPart n m k l) s = .next s) ∧
        (mgmtOn s = true → r.short = true → exec (.read r n m) s = .next (reply r 0x01 8 [] s) ∧ exec (.write r n m) s = .next (reply r 0x02 8 [] s) ∧ exec (.stageOpen r n m k) s = .next (reply r 0x10 8 [] s) ∧ exec (.stageExit r) s = .next (reply r 0x11 8 [] s) ∧ exec (.routine r n fw ok fs) s = .next (reply r 0x12 8 [] s) ∧ exec (.logRead r n m) s = .next (reply r 0x30 8 [] s) ∧ exec (.attest r l) s = .next (reply r 0x31 8 [] s)) ∧
        (mgmtOn s = true → r.short = false → (s.svcEn 5 = false → exec (.read r n m) s = .next (reply r 0x01 7 [] s) ∧ exec (.write r n m) s = .next (reply r 0x02 7 [] s)) ∧ (s.svcEn 4 = false → exec (.stageOpen r n m k) s = .next (reply r 0x10 7 [] s) ∧ exec (.stageExit r) s = .next (reply r 0x11 7 [] s) ∧ exec (.routine r n fw ok fs) s = .next (reply r 0x12 7 [] s))) ∧
        (mgmtOn s = true → code < 128 → [0x01, 0x02, 0x10, 0x11, 0x12, 0x20, 0x21, 0x22, 0x30, 0x31].contains code = false → exec (.opUnknown r code) s = .next (reply r code 1 [] s))) ∧
  (∀ (s : State) (r : FabReq) (a n v : Nat),
   mgmtOn s = true → r.short = false → s.svcEn 5 = true → s.cat.recovery = false → 
   (n < 1 ∨ 64 < n → exec (.read r a n) s = .next (reply r 0x01 8 [] s)) ∧
        (1 ≤ n → n ≤ 64 → (a % 4 ≠ 0 ∨ (List.range n).all (fun k => readable (a + 4 * k)) = false) → exec (.read r a n) s = .next (reply r 0x01 2 [] s)) ∧
        (1 ≤ n → n ≤ 64 → a % 4 = 0 → (List.range n).all (fun k => readable (a + 4 * k)) = true → exec (.read r a n) s = .next (reply r 0x01 0 (readWords n a s).1 (readWords n a s).2)) ∧
        (a % 4 = 0 → readable a = true → exec (.read r a 1) s = .next (reply r 0x01 0 (natLe 4 (vitRead s a)) (vitClear s a))) ∧
        (a % 4 ≠ 0 ∨ readable a = false → exec (.write r a v) s = .next (reply r 0x02 2 [] s)) ∧
        (a % 4 = 0 → readable a = true → ¬(a = lvcCmdAddr ∧ s.fn 5 = true) → exec (.write r a v) s = .next (reply r 0x02 3 [] s)) ∧
        (a = lvcCmdAddr → s.fn 5 = true → exec (.write r a v) s = .next (reply r 0x02 0 [] (lvcWrite (v % 2 ^ 32) s)))) ∧
  (∀ (s : State) (r : FabReq) (region first size id : Nat) (fw : FwFacts) (ok : Bool) (fs : List ReadFail),
   mgmtOn s = true → r.short = false → s.svcEn 4 = true → 
   (stageOther s (.fabric r.node) = true → exec (.stageOpen r region first size) s = .next (reply r 0x10 5 [] s) ∧ exec (.stageExit r) s = .next (reply r 0x11 5 [] s) ∧ (0xF100 ≤ id → id ≤ 0xF103 → exec (.routine r id fw ok fs) s = .next (reply r 0x12 5 [] s))) ∧
        (stageOther s (.fabric r.node) = false → stageMode s = true → s.life < 3 → s.cat.stage.region = 0 → 
          ((region = 1 ∨ region = 2) → size ≠ 0 → size % 4096 = 0 → first + size / 4096 ≤ regionBlocks region → exec (.stageOpen r region first size) s = .next (reply r 0x10 0 [] { s with cat := { s.cat with stage := { src := .fabric r.node, region := region, next := first, left := size / 4096, block := none, seq := 1, marked := s.cat.stage.marked, last := region } } })) ∧
          (¬(region = 1 ∨ region = 2) ∨ size = 0 ∨ size % 4096 ≠ 0 ∨ regionBlocks region < first + size / 4096 → exec (.stageOpen r region first size) s = .next (reply r 0x10 8 [] s)) ∧
          exec (.stageExit r) s = .next (reply r 0x11 4 [] s)) ∧
        (stageOther s (.fabric r.node) = false → (stageMode s = false ∨ 3 ≤ s.life ∨ s.cat.stage.region ≠ 0) → exec (.stageOpen r region first size) s = .next (reply r 0x10 4 [] s)) ∧
        (stageOther s (.fabric r.node) = false → s.cat.stage.region ≠ 0 → s.cat.stage.block = none → exec (.stageExit r) s = .next (reply r 0x11 0 (natLe 4 (vitSec s 0x118 % 65536)) { s with cat := { s.cat with stage := { s.cat.stage with region := 0 } } })) ∧
        (id < 0xF100 ∨ 0xF103 < id → exec (.routine r id fw ok fs) s = .next (reply r 0x12 8 [] s)) ∧
        (stageOther s (.fabric r.node) = false → 0xF100 ≤ id → id ≤ 0xF103 → stageRoutineOk (.fabric r.node) id s = false → exec (.routine r id fw ok fs) s = .next (reply r 0x12 4 [] s)) ∧
        (stageOther s (.fabric r.node) = false → stageRoutineOk (.fabric r.node) id s = true → (id = 0xF100 → exec (.routine r id fw ok fs) s = .next (reply r 0x12 0 (natLe 4 (runCheck fw ok fs s).1) (runCheck fw ok fs s).2)) ∧
          (id = 0xF101 → exec (.routine r id fw ok fs) s = .next (reply r 0x12 0 (natLe 4 0) (runCommit s))) ∧ (id = 0xF102 → exec (.routine r id fw ok fs) s = .next (reply r 0x12 0 (natLe 4 0) (runConfirm s))) ∧ (id = 0xF103 → exec (.routine r id fw ok fs) s = .next (reply r 0x12 0 (natLe 4 0) (runReject s))))) ∧
  (∀ (s : State) (node block part ms : Nat) (data : List Byte),
   (1000 ≤ ms → exec (.blockPartTimeout ms) s = .next { s with fab := { s.fab with parts := none } }) ∧
        (mgmtOn s = true → (s.cat.stage.src ≠ .fabric node ∨ s.cat.stage.region = 0 ∨ block < s.cat.stage.next ∨ s.cat.stage.next + s.cat.stage.left ≤ block ∨ 7 < part ∨ data.length ≠ 512) → exec (.imageBlockPart node block part data) s = .next s) ∧
        (mgmtOn s = true → s.cat.stage.src = .fabric node → s.cat.stage.region ≠ 0 → s.cat.stage.next ≤ block → block < s.cat.stage.next + s.cat.stage.left → part ≤ 7 → data.length = 512 →
          ((addPart node block part data s.fab.parts).parts.length < 8 → exec (.imageBlockPart node block part data) s = .next { s with fab := { s.fab with parts := some (addPart node block part data s.fab.parts) } }) ∧
          (¬(addPart node block part data s.fab.parts).parts.length < 8 → s.cat.stage.block = none → let t := takeBlock block (joinParts (addPart node block part data s.fab.parts)) { s with fab := { s.fab with parts := none } };
            exec (.imageBlockPart node block part data) s = .next (if t.1 = 0 then t.2 else blockDone node block 6 { s with fab := { s.fab with parts := none } })))) ∧
  (∀ (s : State) (r : FabReq) (start count : Nat) (nonce : List Byte),
   mgmtOn s = true → r.short = false → 
   (count < 1 ∨ 4096 < count → exec (.logRead r start count) s = .next (reply r 0x30 8 [] s)) ∧
        (1 ≤ count → count ≤ 4096 → Answers (exec (.logRead r start count) s) fun t => t = sendBulk 1 r.node 4 4 (logFrames count (logRange s start count)) (reply r 0x30 0 [] s) ∧ Grows s t ∧ SameButFaults { s with fab := t.fab, pq := t.pq, pqSeen := t.pqSeen, out := t.out, freeIx := t.freeIx } t) ∧
        (nonce.length ≠ 32 → exec (.attest r nonce) s = .next (reply r 0x31 8 [] s)) ∧
        (nonce.length = 32 → s.sec.idSlot = none → exec (.attest r nonce) s = .next (reply r 0x31 4 [] s)) ∧
        (nonce.length = 32 → s.sec.idSlot ≠ none → exec (.attest r nonce) s = .next (startReport (.fabric r.node r.tag r.ep) nonce s) ∧ (startReport (.fabric r.node r.tag r.ep) nonce s).sec.jobs = s.sec.jobs ++ [.sign (.fabric r.node r.tag r.ep)] ∧ (startReport (.fabric r.node r.tag r.ep) nonce s).sec.report = some ((reportBody nonce s).1, none)))

/-- RESET is refused in DRIVE and CHARGE with a reply 0x04; the originating node refuses one inside the lead of R462; a node whose time has passed T reports MISSED with 0x6808; any other keeps the request and T, and at T a node outside DRIVE and CHARGE resets with FABRIC in SYS_START_CAUSE, while one in them replies 0x04 to the request it kept and runs on. BARRIER holds the arrival, and BARRIER_COMPLETE ends the barrier once every reachable admitted node has arrived. SNAPSHOT takes 1 to 32 mapped, word-aligned addresses under the same rules for T, and SNAPSHOT_CAPTURE reads them in order and answers with address and T. -/
def Obligations.GlobalOperations : Prop :=
  (∀ (s : State) (r : FabReq) (t : Nat),
   mgmtOn s = true → r.short = false → 
   ((s.sys.mode = .drive ∨ s.sys.mode = .charge) → exec (.reset r t) s = .next (reply r 0x20 4 [] { s with fab := { s.fab with gopKind := 4, gopState := 3 } })) ∧
        (s.sys.mode ≠ .drive → s.sys.mode ≠ .charge → r.node = s.fab.addr → ¬(((s.timeNs + 10000 * diameter s : Nat) : Q) + s.leadMargin * 1000000000 ≤ t) → exec (.reset r t) s = .next { s with fab := { s.fab with gopKind := 4, gopState := 3 } }) ∧
        (s.sys.mode ≠ .drive → s.sys.mode ≠ .charge → r.node ≠ s.fab.addr → t < s.timeNs → Answers (exec (.reset r t) s) fun u => active 0x6808 noInst u = true ∧ u.fab.gopKind = 4 ∧ u.fab.gopState = 3 ∧ u.fab.resetAt = s.fab.resetAt ∧ u.fab.missed = satInc 8 s.fab.missed ∧
          Grows s u ∧ SameButFaults { s with fab := u.fab, pq := u.pq, pqSeen := u.pqSeen, out := u.out, freeIx := u.freeIx } u) ∧
        (s.sys.mode ≠ .drive → s.sys.mode ≠ .charge → s.timeNs ≤ t → (r.node = s.fab.addr → ((s.timeNs + 10000 * diameter s : Nat) : Q) + s.leadMargin * 1000000000 ≤ t) → Answers (exec (.reset r t) s) fun u => u.fab.gopKind = 4 ∧ u.fab.gopState = 1 ∧ u.fab.resetAt = some (r, t) ∧ u.fab.gopT = t % 2 ^ 64 ∧
          Grows s u ∧ SameButFaults { s with fab := u.fab, pq := u.pq, pqSeen := u.pqSeen, out := u.out, freeIx := u.freeIx } u)) ∧
  (∀ (s : State) (r : FabReq) (t : Nat),
   s.fab.resetAt = some (r, t) → 
   (s.timeNs < t → exec .scheduledResetInstant s = .next s) ∧
        (t ≤ s.timeNs → (s.sys.mode = .drive ∨ s.sys.mode = .charge) → exec .scheduledResetInstant s = .next (reply r 0x20 4 [] { s with fab := { s.fab with resetAt := none, gopKind := 4, gopState := 3 } })) ∧
        (t ≤ s.timeNs → s.sys.mode ≠ .drive → s.sys.mode ≠ .charge → exec .scheduledResetInstant s = .next (resetN9 { StartCause.none with fabric := true } s)) ∧
        (t ≤ s.timeNs → s.sys.mode = .ready → Answers (exec .scheduledResetInstant s) fun u => u.sys.mode = .accession ∧ u.sup.cause.fabric = true)) ∧
  (∀ (s : State) (node number : Nat),
   mgmtOn s = true → 
   Answers (exec (.barrier node number) s) fun u => u.fab.gopKind = 2 ∧ u.fab.gopState = 1 ∧ u.fab.barriers = (number % 2 ^ 16, insertId node (((s.fab.barriers.find? (fun b => decide (b.1 = number % 2 ^ 16))).map (·.2)).getD [])) :: s.fab.barriers.filter (fun b => decide (b.1 ≠ number % 2 ^ 16)) ∧
        Grows s u ∧ SameButFaults { s with fab := u.fab, pq := u.pq, pqSeen := u.pqSeen, out := u.out, freeIx := u.freeIx } u ∧ (node ≠ s.fab.addr → u = { s with fab := { s.fab with gopKind := 2, gopState := 1, barriers := u.fab.barriers } })) ∧
  (∀ (s : State) (number : Nat) (l : List Nat),
   s.fab.barriers.find? (fun b => decide (b.1 = number % 2 ^ 16)) = some (number % 2 ^ 16, l) → 
   (s.fabReady = true → (∀ i ∈ reachable s, ∀ a, addrOf s i = some a → a ∈ l) → exec (.barrierComplete number) s = .next { s with fab := { s.fab with barriers := s.fab.barriers.filter (fun b => decide (b.1 ≠ number % 2 ^ 16)), gopOps := wrapInc 16 s.fab.gopOps, gopKind := 2, gopState := 2 } }) ∧
        ((∃ i ∈ reachable s, ∃ a, addrOf s i = some a ∧ a ∉ l) → exec (.barrierComplete number) s = .next s)) ∧
  (∀ (s : State) (r : FabReq) (t : Nat) (l : List Nat),
   mgmtOn s = true → 
   (r.short = true ∨ l.length < 1 ∨ 32 < l.length → exec (.snapshot r t l) s = .next (mgmtReply r.node r.ep 6 0x22 r.tag 8 [] s)) ∧
        (r.short = false → 1 ≤ l.length → l.length ≤ 32 → l.all (fun a => decide (a % 4 = 0) && inVitrine a) = false → exec (.snapshot r t l) s = .next (mgmtReply r.node r.ep 6 0x22 r.tag 2 [] s)) ∧
        (r.short = false → 1 ≤ l.length → l.length ≤ 32 → l.all (fun a => decide (a % 4 = 0) && inVitrine a) = true →
          (r.node = s.fab.addr → ¬(((s.timeNs + 10000 * diameter s : Nat) : Q) + s.leadMargin * 1000000000 ≤ t) → exec (.snapshot r t l) s = .next { s with fab := { s.fab with gopKind := 3, gopState := 3 } }) ∧
          (r.node ≠ s.fab.addr → t < s.timeNs → Answers (exec (.snapshot r t l) s) fun u => active 0x6808 noInst u = true ∧ u.fab.gopKind = 3 ∧ u.fab.gopState = 3 ∧ u.fab.snapshot = s.fab.snapshot ∧ u.fab.missed = satInc 8 s.fab.missed ∧
            Grows s u ∧ SameButFaults { s with fab := u.fab, pq := u.pq, pqSeen := u.pqSeen, out := u.out, freeIx := u.freeIx } u) ∧
          (s.timeNs ≤ t → (r.node = s.fab.addr → ((s.timeNs + 10000 * diameter s : Nat) : Q) + s.leadMargin * 1000000000 ≤ t) → Answers (exec (.snapshot r t l) s) fun u => u.fab.gopKind = 3 ∧ u.fab.gopState = 1 ∧ u.fab.snapshot = some (r.node, r.tag, t, l) ∧ u.fab.gopT = t % 2 ^ 64 ∧
            Grows s u ∧ SameButFaults { s with fab := u.fab, pq := u.pq, pqSeen := u.pqSeen, out := u.out, freeIx := u.freeIx } u))) ∧
  (∀ (s : State) (node tag t : Nat) (l : List Nat),
   s.fab.snapshot = some (node, tag, t, l) → 
   (s.timeNs < t → exec .snapshotCapture s = .next s) ∧
        (fabServes s = true → t ≤ s.timeNs → let w := readList l s; let u : State := { w.2 with fab := { w.2.fab with snapshot := none, gopOps := wrapInc 16 w.2.fab.gopOps, gopKind := 3, gopState := 2 } };
          w.2 = { s with mer := w.2.mer, pwm := w.2.pwm, orr := w.2.orr, oview := w.2.oview, ssTrials := w.2.ssTrials, pos := w.2.pos, gd := w.2.gd, pfc := w.2.pfc, dab := w.2.dab, lvc := w.2.lvc, thm := w.2.thm, act := w.2.act, saf := w.2.saf, lks := w.2.lks, fab := w.2.fab, pq := w.2.pq, pqSeen := w.2.pqSeen, vif := w.2.vif, log := w.2.log, pair := w.2.pair } ∧
          exec .snapshotCapture s = .next (if node = s.fab.addr then u else sendBulk 2 node 6 6 [natLe 4 u.fab.addr ++ natLe 8 t ++ natLe 4 l.length ++ w.1] u)))

/-- While Ganymede runs without an F4, HEARTBEAT_SEND sends the unit's heartbeat, with the requests of its latest computation for both units, to its partner and PHB_OUT_TOGGLE toggles the output. PHB_IN_EDGE makes the PHB path valid and ends 0x9002. A fabric path without a heartbeat for HB_TOUT_F, or with FAB_READY 0, fails with 0x9001 and a PHB path without an edge for HB_TOUT_P with 0x9002, a pending handover is abandoned with 0x9009 and a swap that runs fails; with both failed the partner is declared failed, ARB is pulled, and the senior leads while the junior waits to sample. A low line that the unit does not pull makes the senior pull and lead and the junior SOLO; ARB_RELEASE ends a pull after 2 s of both paths, or the junior's after 1 ms; ARBITRATION_SAMPLE 2 ms after the declaration gives SOLO with 0x9004 on a low line, the lead on a high one with PARTNER_FIT and SOLO without. Only the pair's state, what a heartbeat sends, and what a fault or a role may touch change. -/
def Obligations.PairPaths : Prop :=
  (∀ (s : State),
   heartbeatOn s = true → 
   exec .phbOutToggle s = .next { s with pair := { s.pair with phbOut := !s.pair.phbOut } } ∧
        (Answers (exec .heartbeatSend s) fun t => Grows s t ∧ SameButFaults { s with fab := t.fab, pq := t.pq, pqSeen := t.pqSeen, out := t.out, freeIx := t.freeIx } t ∧ (partnerAddr s = none ∨ s.fabReady = false → t = s) ∧
          (∀ a, partnerAddr s = some a → s.fabReady = true → ∃ k, t.out.head? = some (.ctl a 5 k (.heartbeat { role := s.pair.role, leadOk := leadOk s, mode := s.sys.mode.code, cycles := s.pair.cycles, arbFit := s.pair.arbFit, partnerFit := s.pair.partnerFit, senior := s.mer.senior, request := (shareOf s 1, shareOf s 2), counters := usedCounters s }))))) ∧
  (∀ (s : State),
   pairOn s = true → 
   Answers (exec .phbInEdge s) fun t => (∀ i, active 0x9002 i t = false) ∧ (∀ d i, d ≠ 0x9002 → d ≠ 0x001A → active d i t = active d i s) ∧ SameButFaults { s with pair := { s.pair with phbHb := true, declared := false } } t) ∧
  (∀ (s : State) (us : Nat),
   pairOn s = true → s.pf 0x98 0 8 * 1000000 ≤ us ∨ s.fabReady = false → 
   Answers (exec (.fabricHeartbeatTimeout us) s) fun t => active 0x9001 (pairInst s) t = true ∧ Grows s t ∧
        (s.pair.handover.isSome = true → active 0x9009 (pairInst s) t = true) ∧
        (activeCode 0x9002 s = false ∨ s.pair.declared = true → SameButFaults { s with pair := { s.pair with fabHb := false, leadReq := none, handover := none, swapBad := s.pair.swapBad || s.pair.swapped } } t) ∧
        (activeCode 0x9002 s = true → s.pair.declared = false → (actsSenior s = true → t.beyond = { s.beyond with pair := (inLead 0 { s.pair with fabHb := false, leadReq := none, swapBad := s.pair.swapBad || s.pair.swapped, declared := true, swapped := false, handover := none, arbOut := true }).fixed }) ∧
          (actsSenior s = false → t.beyond = { s.beyond with pair := ({ s.pair with fabHb := false, leadReq := none, swapBad := s.pair.swapBad || s.pair.swapped, declared := true, swapped := false, handover := none, arbOut := true, arbWait := true } : PairOp).fixed }))) ∧
  (∀ (s : State) (us : Nat),
   pairOn s = true → s.pf 0x98 0 12 * 1000000 ≤ us → 
   Answers (exec (.phbHeartbeatTimeout us) s) fun t => active 0x9002 (pairInst s) t = true ∧ Grows s t ∧
        (s.pair.handover.isSome = true → active 0x9009 (pairInst s) t = true) ∧
        (activeCode 0x9001 s = false ∨ s.pair.declared = true → SameButFaults { s with pair := { s.pair with phbHb := false, handover := none, swapBad := s.pair.swapBad || s.pair.swapped } } t) ∧
        (activeCode 0x9001 s = true → s.pair.declared = false → (actsSenior s = true → t.beyond = { s.beyond with pair := (inLead 0 { s.pair with phbHb := false, swapBad := s.pair.swapBad || s.pair.swapped, declared := true, swapped := false, handover := none, arbOut := true }).fixed }) ∧
          (actsSenior s = false → t.beyond = { s.beyond with pair := ({ s.pair with phbHb := false, swapBad := s.pair.swapBad || s.pair.swapped, declared := true, swapped := false, handover := none, arbOut := true, arbWait := true } : PairOp).fixed }))) ∧
  (∀ (s : State) (high : Bool),
   pairOn s = true → 
   (high = true ∨ s.pair.arbOut = true ∨ s.pair.testDue = true → exec (.arbSample high) s = .next { s with pair := { s.pair with arbIn := high } }) ∧
        (high = false → s.pair.arbOut = false → s.pair.testDue = false → Answers (exec (.arbSample high) s) fun t =>
          (actsSenior s = true → t.beyond = { s.beyond with pair := (inLead 0 { s.pair with arbIn := false, arbOut := true }).fixed }) ∧ (actsSenior s = false → t.beyond = { s.beyond with pair := (inRole 3 { s.pair with arbIn := false }).fixed }))) ∧
  (∀ (s : State) (ms : Nat),
   s.pair.arbOut = true → 
   ((actsSenior s = true ∧ bothPaths s = true ∧ 2000 ≤ ms) ∨ (actsSenior s = false ∧ s.pair.arbWait = true ∧ 1 ≤ ms) → exec (.arbRelease ms) s = .next { s with pair := { s.pair with arbOut := false } }) ∧
        (¬((actsSenior s = true ∧ bothPaths s = true ∧ 2000 ≤ ms) ∨ (actsSenior s = false ∧ s.pair.arbWait = true ∧ 1 ≤ ms)) → exec (.arbRelease ms) s = .next s)) ∧
  (∀ (s : State) (high : Bool) (us : Nat),
   s.pair.arbWait = true → 2000 ≤ us → 
   Answers (exec (.arbitrationSample high us) s) fun t =>
        (high = false → active 0x9004 (pairInst s) t = true ∧ t.beyond = { s.beyond with pair := (inRole 3 { s.pair with arbWait := false, arbOut := false, arbIn := high }).fixed }) ∧
        (high = true → s.pair.partnerFit = false → t.beyond = { s.beyond with pair := (inRole 3 { s.pair with arbWait := false, arbOut := false, arbIn := high }).fixed }) ∧
        (high = true → s.pair.partnerFit = true → ∃ n ≤ 500, t.beyond = { s.beyond with freeIx := s.freeIx + 1, pair := (inLead n { s.pair with arbWait := false, arbOut := false, arbIn := high }).fixed }))

/-- A lead without LEAD_OK releases and its LV setpoint drops by V_STBY_OFS; two leads raise 0x900A and the junior releases; HANDOVER_REQUEST names an instant and sends the handover, a swap only once it is due, and skips a swap that an actuator sequence has deferred for 5 s; from the instant on, once what defers it has ended, the roles pass with the counters, the new lead writes the full setpoint and the old one the standby setpoint; a handover without acknowledgement for 2 ms, or with a path failed, is abandoned with 0x9009; a junior lead hands back after 2 s of a healthy senior and shows the hold-off before; ARB_TEST passes on low, high, low and otherwise clears ARB_FIT with 0x9007, each unit sends its reading, and a passed test of a leading senior starts its swap or leaves it due; SWAP_END ends a swap as passed or as failed with 0x9006; SOLO_EXIT returns to PARTNER after 2 s and ends 0x9004. -/
def Obligations.PairLead : Prop :=
  (∀ (s : State),
   pairOn s = true → s.pair.role = 1 → leadOk s = false → 
   Answers (exec .leadRelease s) fun t => t.beyond = { s.beyond with pair := (inRole 2 s.pair).fixed } ∧ Grows s t ∧ (∀ sl v, s.lvc.cmd = some (sl, v) → sl < 4096 → v < 65536 → inSession s = false → t.lvc.cmd = some (sl, v - standbyMv s))) ∧
  (∀ (s : State) (h : PartnerHb),
   s.pair.hb = some h → 
   (s.pair.role = 1 → h.role = 1 → Answers (exec .twoLeadsSeen s) fun t => active 0x900A (pairInst s) t = true ∧ Grows s t ∧ (actsSenior s = true → SameButFaults s t) ∧ (actsSenior s = false → t.beyond = { s.beyond with pair := (inRole 2 s.pair).fixed })) ∧
        (¬(s.pair.role = 1 ∧ h.role = 1) → exec .twoLeadsSeen s = .next s)) ∧
  (∀ (s : State) (n ms : Nat) (w : Bool),
   pairOn s = true → s.pair.role = 1 → bothPaths s = true → s.pair.handover = none → handoverDeferred s = false → n = handoverAt s → (w = true → ms < 5000 ∧ s.pair.swapDue = true ∧ actsSenior s = true ∧ s.pair.arbFit = true ∧ s.pf 0x98 0 28 ≠ 0) → 
   Answers (exec (.handoverRequest n w ms) s) fun t => t.pair = { s.pair with swapDue := s.pair.swapDue && !w, handover := some { give := true, at_ := n, acked := false, counters := lastCounters s n, swap := w } } ∧ Grows s t ∧ SameButFaults { s with pair := t.pair, fab := t.fab, pq := t.pq, pqSeen := t.pqSeen, out := t.out, freeIx := t.freeIx } t ∧
        (∀ a, partnerAddr s = some a → s.fabReady = true → ∃ k, t.out.head? = some (.ctl a 5 k (.handover n (lastCounters s n) w)))) ∧
  (∀ (s : State) (n ms : Nat), 5000 ≤ ms → inSession s = false → exec (.handoverRequest n true ms) s = .next { s with pair := { s.pair with swapDue := false } }) ∧
  (∀ (s : State) (h : Handover),
   s.pair.handover = some h → 
   (h.acked = true → h.at_ ≤ s.timeNs → bothPaths s = true → handoverDeferred s = false → Answers (exec .handoverInstant s) fun t => Grows s t ∧
          t.beyond = { s.beyond with pair := ({ inRole (if h.give then 2 else 1) s.pair with handover := none, handovers := wrapInc 8 s.pair.handovers, swapped := h.swap && (h.give == actsSenior s), swapBad := false } : PairOp).fixed, vif := t.vif } ∧
          (h.give = true ∨ h.counters.find? (fun p => decide (p.1 = 0x20)) = none → t.vif = s.vif) ∧ (∀ c, h.give = false → h.counters.find? (fun p => decide (p.1 = 0x20)) = some c → t.vif = { s.vif with txCnt := c.2 % 2 ^ 16 }) ∧
          (∀ sl v, s.lvc.cmd = some (sl, v) → sl < 4096 → v < 65536 → h.give = false → s.pair.role ≠ 1 → t.lvc.cmd = some (sl, min (v + standbyMv s) 65535)) ∧
          (∀ sl v, s.lvc.cmd = some (sl, v) → sl < 4096 → v < 65536 → h.give = true → s.pair.role = 1 → t.lvc.cmd = some (sl, v - standbyMv s))) ∧
        (¬(h.acked = true ∧ h.at_ ≤ s.timeNs ∧ bothPaths s = true ∧ handoverDeferred s = false) → exec .handoverInstant s = .next s)) ∧
  (∀ (s : State) (us : Nat) (h : Handover),
   s.pair.handover = some h → 
   ((h.acked = false ∧ 2000 ≤ us) ∨ bothPaths s = false → Answers (exec (.handoverAbandon us) s) fun t => active 0x9009 (pairInst s) t = true ∧ Grows s t ∧ SameButFaults { s with pair := { s.pair with handover := none } } t) ∧
        (¬((h.acked = false ∧ 2000 ≤ us) ∨ bothPaths s = false) → exec (.handoverAbandon us) s = .next s)) ∧
  (∀ (s : State) (ms : Nat) (h : PartnerHb),
   pairOn s = true → s.pair.role = 1 → actsSenior s = false → s.pair.swapped = false → bothPaths s = true → s.pair.hb = some h → h.leadOk = true → 
   (2000 ≤ ms → s.pair.handover = none → handoverDeferred s = false → Answers (exec (.leadReturn ms) s) fun t => t.pair = { s.pair with holdoff := false, handover := some { give := true, at_ := handoverAt s, acked := false, counters := lastCounters s (handoverAt s), swap := false } } ∧
          Grows s t ∧ SameButFaults { s with pair := t.pair, fab := t.fab, pq := t.pq, pqSeen := t.pqSeen, out := t.out, freeIx := t.freeIx } t) ∧
        (ms < 2000 → exec (.leadReturn ms) s = .next { s with pair := { s.pair with holdoff := true } })) ∧
  (∀ (s : State) (p1 b p2 : Bool) (ms : Nat),
   pairOn s = true → s.pair.testDue = true → 
   (ms < 2000 → exec (.arbTest p1 b p2 ms) s = .next { s with pair := { s.pair with testDue := false } }) ∧
        (2000 ≤ ms → ¬(p1 = false ∧ b = true ∧ p2 = false) → Answers (exec (.arbTest p1 b p2 ms) s) fun t => active 0x9007 (pairInst s) t = true ∧ Grows s t ∧ t.pair = { s.pair with testDue := false, arbFit := false, swapDue := false } ∧ SameButFaults { s with pair := t.pair, fab := t.fab, pq := t.pq, pqSeen := t.pqSeen, out := t.out, freeIx := t.freeIx } t) ∧
        (2000 ≤ ms → ¬(s.pair.role = 1 ∧ actsSenior s = true ∧ s.pf 0x98 0 28 ≠ 0 ∧ bothPaths s = true ∧ s.pair.handover = none ∧ handoverDeferred s = false) → Answers (exec (.arbTest false true false ms) s) fun t => t.pair = { s.pair with testDue := false, arbFit := true, swapDue := s.pair.swapDue || (decide (s.pair.role = 1 ∧ s.pf 0x98 0 28 ≠ 0) && actsSenior s) } ∧
          (∀ a, partnerAddr s = some a → s.fabReady = true → ∃ k, t.out.head? = some (.ctl a 5 k (.arbReading true))) ∧ Grows s t ∧ SameButFaults { s with pair := t.pair, fab := t.fab, pq := t.pq, pqSeen := t.pqSeen, out := t.out, freeIx := t.freeIx } t) ∧
        (2000 ≤ ms → (∀ q, badChain (s.pq.get q) = none) → s.pair.role = 1 → actsSenior s = true → s.pf 0x98 0 28 ≠ 0 → bothPaths s = true → s.pair.handover = none → handoverDeferred s = false → Answers (exec (.arbTest false true false ms) s) fun t =>
          t.pair = { s.pair with testDue := false, arbFit := true, handover := some { give := true, at_ := handoverAt s, acked := false, counters := lastCounters s (handoverAt s), swap := true } } ∧ Grows s t ∧ SameButFaults { s with pair := t.pair, fab := t.fab, pq := t.pq, pqSeen := t.pqSeen, out := t.out, freeIx := t.freeIx } t)) ∧
  (∀ (s : State) (ms : Nat) (ok : Bool),
   pairOn s = true → s.pair.swapped = true → s.pair.handover = none → inSession s = false → actsSenior s = true → 
   (¬(ok = true ∧ s.pair.swapBad = false ∧ bothPaths s = true) → Answers (exec (.swapEnd ms ok) s) fun t => active 0x9006 (pairInst s) t = true ∧ Grows s t ∧ t.beyond = { s.beyond with pair := (inRole 1 { s.pair with swapped := false, partnerFit := false, failed := satInc 8 s.pair.failed }).fixed }) ∧
        (ok = true → s.pair.swapBad = false → bothPaths s = true → (s.pf 0x98 0 28 * 1000 ≤ ms → exec (.swapEnd ms ok) s = .next { s with pair := { s.pair with partnerFit := true, passed := satInc 8 s.pair.passed, handover := some { give := false, at_ := handoverAt s, acked := true, counters := [], swap := true } } }) ∧
          ((ms : Q) < s.pf 0x98 0 28 * 1000 → exec (.swapEnd ms ok) s = .next s))) ∧
  (∀ (s : State) (ms : Nat),
   pairOn s = true → s.pair.swapped = true → s.pair.handover = none → inSession s = false → actsSenior s = false → s.pair.role = 1 → s.pair.swapBad = false → bothPaths s = true → s.pf 0x98 0 28 * 1000 ≤ ms → 
   Answers (exec (.swapEnd ms true) s) fun t => t.pair = { s.pair with handover := some { give := true, at_ := handoverAt s, acked := false, counters := lastCounters s (handoverAt s), swap := true } } ∧ Grows s t ∧ SameButFaults { s with pair := t.pair, fab := t.fab, pq := t.pq, pqSeen := t.pqSeen, out := t.out, freeIx := t.freeIx } t) ∧
  (∀ (s : State) (ms : Nat),
   pairOn s = true → s.pair.role = 3 → bothPaths s = true → 2000 ≤ ms → 
   Answers (exec (.soloExit ms) s) fun t => t.beyond = { s.beyond with pair := (inRole 2 s.pair).fixed } ∧ (∀ i, active 0x9004 i t = false))

/-- A bus-off of a controller in use counts, marks it and raises 0x7801; after BUSOFF_WAIT it rejoins. The Ethernet link raises 0x7803 when it goes down and clears it when it returns. The PHY and the modem leave reset 10 ms after Accession. The modem's status read keeps it out of reset; its silence of 500 ms raises 0x7807, holds it in reset and, on the digital path, ends the session with cause 8: the charging current ramps down, or with no current the charger stops at once. A modem frame of at most 1,522 bytes is read. That a rejoined controller's counters are 0 and that TEC reads 0xFF at bus-off are the model's (log entry 38). -/
def Obligations.VehicleInterfaces : Prop :=
  (∀ (s : State) (n : Fin 2),
   canUsed s n = true → 
   Answers (exec (.busOff n) s) fun t => active 0x7801 n.val t = true ∧ Grows s t ∧
        SameButFaults { s with vif := { s.vif with can := s.vif.can.upd n (fun c => { c with st := 2, tec := 0xFF, busoff := satInc 8 c.busoff }) } } t) ∧
  (∀ (s : State) (n : Fin 2) (ms : Nat),
   canUsed s n = true → (s.vif.can.get n).st = 2 → 
   (s.pu 0xA0 n 24 ≤ ms → exec (.busOffRejoin n ms) s = .next { s with vif := { s.vif with can := s.vif.can.upd n (fun c => { c with st := 0, tec := 0, recn := 0 }) } }) ∧
        (ms < s.pu 0xA0 n 24 → exec (.busOffRejoin n ms) s = .next s)) ∧
  (∀ (s : State),
   s.sup.ifaces = true → s.hasRec 0xA0 2 = true → s.vif.ethRst = true → 
   (s.vif.ethUp = true → Answers (exec (.ethLinkChange false) s) fun t => active 0x7803 2 t = true ∧ Grows s t ∧ SameButFaults { s with vif := { s.vif with ethUp := false, linkdown := satInc 8 s.vif.linkdown } } t) ∧
        (s.vif.ethUp = false → Answers (exec (.ethLinkChange true) s) fun t => active 0x7803 2 t = false ∧ (∀ c i, c ≠ 0x001A → ¬(c = 0x7803 ∧ i = 2) → active c i t = active c i s) ∧
          SameButFaults { s with vif := { s.vif with ethUp := true } } t) ∧
        exec (.ethLinkChange s.vif.ethUp) s = .next s) ∧
  (∀ (s : State) (ms : Nat),
   s.cat.locked = true → s.sup.ifaces = true → 
   (10 ≤ ms → exec (.phyResetRelease ms) s = .next { s with vif := { s.vif with ethRst := s.hasRec 0xA0 2, plcRst := s.fn 9, modem := if s.fn 9 then 0 else s.vif.modem } }) ∧
        (ms < 10 → exec (.phyResetRelease ms) s = .next s)) ∧
  (∀ (s : State) (reply : Bool),
   s.cat.locked = true → s.sup.ifaces = true → s.fn 9 = true → 
   exec (.modemStatusRead reply) s = .next { s with vif := { s.vif with plcRst := true, modem := if reply then 0 else s.vif.modem } }) ∧
  (∀ (s : State) (ms : Nat),
   s.cat.locked = true → s.sup.ifaces = true → s.fn 9 = true → s.vif.plcRst = true → 500 ≤ ms → 
   let u : State := { s with vif := { s.vif with plcRst := false, modem := 1 } };
        Answers (exec (.modemLinkLoss ms) s) fun t => active 0x7807 noInst t = true ∧ Grows s t ∧ t.beyond = u.beyond ∧
          (inSession s = false ∨ ¬(s.chg.path = 2 ∨ s.chg.path = 3) → SameButFaults u t) ∧
          (inSession s = true → s.chg.path = 2 ∨ s.chg.path = 3 → t.chg.phase = 9 ∧ (s.chg.phase ≠ 9 → t.chg.cause = 8 ∧ t.obcT.iBat = 0 ∧
            ((s.dab.st = 2 ∨ s.dab.st = 3) → s.dab.iCmd ≠ 0 → t.dab.stopRamp.isSome = true) ∧ (¬(s.dab.st = 2 ∨ s.dab.st = 3) ∨ s.dab.iCmd = 0 → s.dab.stopRamp = none → t.chg.s2 = false ∧ ChgrOff t)))) ∧
  (∀ (s : State) (ms : Nat),
   ms < 500 → 
   exec (.modemLinkLoss ms) s = .next s) ∧
  (∀ (s : State) (type len : Nat),
   s.cat.locked = true → s.sup.ifaces = true → s.fn 9 = true → s.vif.plcRst = true → len ≤ 1522 → 
   exec (.modemFrameReceive type len) s = .next { s with vif := { s.vif with plcLast := some (type % 2 ^ 16, len) } })

/-- A control message of a record, on an interface that carries it and to an owner that runs, enters the interface's receive queue in class 6, where one without room is refused, counted and raises 0x7806; one with room is judged by its trailer and its counter: the first of a stream, one 1 to 8 ahead, and the second of two consecutive ones after a rejection are accepted, count the gap, make the stream valid, clear 0x7805 and reach their owner by function; the same counter is a repeat; any other is rejected with 0x7804 and starts a resynchronisation, in which a first good counter is kept. A unit of a pair that does not lead takes the counter of the lead's Status messages. A stream that is valid times out after TIMEOUT with 0x7805 and the reaction of its function. The unit that holds the lead transmits Status with its counter one higher and the trailer, and telemetry as the registers it copies, with the record's identifier and port, on the live interfaces whose transmit queue has room; another unit, one in SOLO too, transmits nothing. -/
def Obligations.MessageStreams : Prop :=
  (∀ (s : State) (m : Fin 256) (ifc : Fin 3) (b : List Byte) (n : Nat),
   msgTaken s m ifc = true → (passQueue (rxQ ifc) 6 (itemWords s ifc b.length) s).1 = true → trailerOk s m b = true → judgeCounter (s.vif.streams.get m).started (s.vif.streams.get m).resync (s.vif.streams.get m).lastGood (s.vif.streams.get m).lastCnt (msgCounter s m b) = .accept n → 
   let u : State := (passQueue (rxQ ifc) 6 (itemWords s ifc b.length) s).2;
   Answers (exec (.controlMessageReceived m ifc b) s) fun t => ∃ v, t = applyMessage (s.pu 0xA1 m 0) b v ∧ active 0x7805 m.val v = false ∧ (∀ c i, c ≠ 0x001A → ¬(c = 0x7805 ∧ i = m.val) → active c i v = active c i u) ∧
        SameButFaults { u with vif := { s.vif with streams := s.vif.streams.upd m (fun x => { x with valid := true, timeout := false, started := true, resync := false, lastGood := none, lastCnt := msgCounter s m b, lastIf := ifc.val, lost := satAdd 8 x.lost n }) } } v) ∧
  (∀ (started resync : Bool) (good : Option Nat) (last cnt : Nat),
   let d := (cnt + 2 ^ 16 - last % 2 ^ 16) % 2 ^ 16;
        (started = false → judgeCounter started resync good last cnt = .accept 0) ∧
        (started = true → resync = false → d = 0 → judgeCounter started resync good last cnt = .again) ∧
        (started = true → resync = false → 1 ≤ d → d ≤ 8 → judgeCounter started resync good last cnt = .accept (d - 1)) ∧
        (started = true → resync = false → 8 < d → judgeCounter started resync good last cnt = .reject) ∧
        (started = true → resync = true → (∃ g, good = some g ∧ cnt % 2 ^ 16 = (g + 1) % 2 ^ 16) → judgeCounter started resync good last cnt = .accept 0) ∧
        (started = true → resync = true → (∀ g, good = some g → cnt % 2 ^ 16 ≠ (g + 1) % 2 ^ 16) → judgeCounter started resync good last cnt = .hold)) ∧
  (∀ (s : State) (m : Fin 256) (ifc : Fin 3) (b : List Byte),
   msgTaken s m ifc = true → (passQueue (rxQ ifc) 6 (itemWords s ifc b.length) s).1 = true → 
   let u : State := (passQueue (rxQ ifc) 6 (itemWords s ifc b.length) s).2;
   let x := s.vif.streams.get m;
        let v := judgeCounter x.started x.resync x.lastGood x.lastCnt (msgCounter s m b);
        (trailerOk s m b = true → v = .again → exec (.controlMessageReceived m ifc b) s = .next { u with vif := { s.vif with streams := s.vif.streams.upd m (fun x => { x with repeats := satInc 8 x.repeats }) } }) ∧
        (trailerOk s m b = true → v = .hold → exec (.controlMessageReceived m ifc b) s = .next { u with vif := { s.vif with streams := s.vif.streams.upd m (fun x => { x with lastGood := some (msgCounter s m b) }) } }) ∧
        (trailerOk s m b = false ∨ v = .reject → Answers (exec (.controlMessageReceived m ifc b) s) fun t => active 0x7804 m.val t = true ∧ Grows s t ∧
          SameButFaults { u with vif := { s.vif with streams := s.vif.streams.upd m (fun x => { x with reject := satInc 8 x.reject, resync := true, lastGood := if trailerOk s m b then some (msgCounter s m b) else none }) } } t)) ∧
  (∀ (s : State) (m : Fin 256) (ifc : Fin 3) (b : List Byte),
   (msgTaken s m ifc = false → observesStatus s m ifc b = false → exec (.controlMessageReceived m ifc b) s = .next s) ∧
        (observesStatus s m ifc b = true → (passQueue (rxQ ifc) 6 (itemWords s ifc b.length) s).1 = true → exec (.controlMessageReceived m ifc b) s = .next { (passQueue (rxQ ifc) 6 (itemWords s ifc b.length) s).2 with vif := { s.vif with txCnt := uAt b 8 2 } }) ∧
        ((msgTaken s m ifc = true ∨ observesStatus s m ifc b = true) → (passQueue (rxQ ifc) 6 (itemWords s ifc b.length) s).1 = false → Answers (exec (.controlMessageReceived m ifc b) s) fun t => active 0x7806 ifc.val t = true ∧ Grows s t ∧ t.vif.streams = s.vif.streams ∧ t.vif.txCnt = s.vif.txCnt ∧
          (ifc = 0 → (t.vif.can.get 0).rxdrop = satInc 8 (s.vif.can.get 0).rxdrop) ∧ (ifc = 1 → (t.vif.can.get 1).rxdrop = satInc 8 (s.vif.can.get 1).rxdrop) ∧ (ifc = 2 → t.vif.ethDrop = satInc 8 s.vif.ethDrop))) ∧
  (∀ (s : State) (q : QId) (c : Fin 8) (n : Nat),
   badChain (s.pq.get q) = none → 
   (((s.pq.get q).chains.get c).occ + n ≤ qDepth q → passQueue q c n s = (true, { s with pq := s.pq.put q { s.pq.get q with packets := wrapInc 16 (s.pq.get q).packets, hwm := max (s.pq.get q).hwm (((s.pq.get q).chains.get c).occ + n) } })) ∧
        (qDepth q < ((s.pq.get q).chains.get c).occ + n → passQueue q c n s = (false, { s with pq := s.pq.put q { s.pq.get q with full := satInc 8 (s.pq.get q).full } }))) ∧
  (∀ (b : List Byte) (s : State),
   applyMessage 1 b s = { s with tm := { s.tm with tAx := (sAt b 0 4 : Q) / 100, dT := (sAt b 4 4 : Q) / 100, hold := (uAt b 8 4).testBit 0, reqValid := true, lostMs := none } } ∧
        applyMessage 3 b s = { s with tm := { s.tm with pLim := some (uAt b 0 4, uAt b 4 4) } } ∧
        applyMessage 4 b s = { s with veh := { s.veh with bms := some ((uAt b 0 2 : Q) / 10, (uAt b 2 2 : Q) / 10, (uAt b 4 4).testBit 0) } } ∧
        (s.sys.mode = .charge ∨ s.pair.role = 2 → applyMessage 5 b s = s) ∧
        (s.sys.mode ≠ .charge → s.pair.role ≠ 2 → SameButFaults { s with freeIx := s.freeIx + 1, lvc := { s.lvc with limit := (applyMessage 5 b s).lvc.limit, cmd := some (min (uAt b 2 2) 4095, uAt b 0 2) }, faults := (applyMessage 5 b s).faults } (applyMessage 5 b s)) ∧
        (let p := uAt b 1 1; let h := uAt b 2 1;
          let u : State := { s with veh := { s.veh with mode := some (uAt b 0 1), park := p, shift := h, req := uAt b 3 1 % 16, parkNew := if s.veh.park = 0 ∧ p ≠ 0 ∧ p ≤ 2 then p else s.veh.parkNew, shiftNew := if s.veh.shift = 0 ∧ h ≠ 0 ∧ h ≤ 3 then h else s.veh.shiftNew } };
          applyMessage 2 b s = if uAt b 0 1 = 3 ∧ s.sys.mode = .safe ∧ safeMayLeave u = true then { u with sys := { s.sys with readyReqFresh := true } } else u)) ∧
  (∀ (s : State) (m : Fin 256) (ms : Nat),
   s.hasRec 0xA1 m = true → (payloadLen (s.pu 0xA1 m 0)).isSome = true → (s.vif.streams.get m).valid = true → 
   let f := s.pu 0xA1 m 0;
        (s.pf 0xA1 m 20 * 1000 ≤ ms → Answers (exec (.streamTimeout m ms) s) fun t => ∃ v, active 0x7805 m.val v = true ∧ Grows s v ∧ SameButFaults { s with vif := { s.vif with streams := s.vif.streams.upd m (fun x => { x with valid := false, timeout := true, touts := satInc 8 x.touts }) } } v ∧
          (f = 1 → t = { v with tm := { s.tm with reqValid := false, lostMs := some 0 } }) ∧ (f = 2 → t = { v with veh := { s.veh with mode := none, parkNew := 0, shiftNew := 0 } }) ∧ (f = 3 → t = { v with tm := { s.tm with pLim := none } }) ∧ (f = 5 → t = v) ∧
          (f = 4 → inSession s = false → t = { v with veh := { s.veh with bms := none } }) ∧ (f = 4 → inSession s = true → t = raise 0x4007 noInst 0 { v with veh := { s.veh with bms := none } })) ∧
        ((ms : Q) < s.pf 0xA1 m 20 * 1000 → exec (.streamTimeout m ms) s = .next s)) ∧
  (∀ (s : State) (m : Fin 256),
   s.hasRec 0xA1 m = true → ownerRuns s (s.pu 0xA1 m 0) = true → liveMask s m ≠ 0 → 
   let f := s.pu 0xA1 m 0;
        let c := wrapInc 16 s.vif.txCnt;
        (s.fn 11 = true → s.pair.role ≠ 1 → exec (.messageTransmit m) s = .next s) ∧
        (s.fn 11 = false ∨ s.pair.role = 1 →
          (f = 0x20 → exec (.messageTransmit m) s = .next (sendMessage m (liveMask s m) 6 (withTrailer c (s.pu 0xA1 m 24) (statusPayload s)) { s with vif := { s.vif with txCnt := c } })) ∧
          (0x21 ≤ f → f ≤ 0x24 → exec (.messageTransmit m) s = .next (sendMessage m (liveMask s m) 2 ((telemetryRegs s f).flatMap (fun a => natLe 4 (vitRead s a))) s)))) ∧
  (∀ (s : State) (m : Fin 256) (mask : Nat) (c : Fin 8) (b : List Byte),
   (∀ q, badChain (s.pq.get q) = none) → 0 < mask → mask < 8 → 
   let t := sendMessage m mask c b s;
        ((∀ i : Fin 3, mask.testBit i.val = true → ((s.pq.get (txQ i)).chains.get c).occ + itemWords s i b.length ≤ qDepth (txQ i)) → t = { s with pq := t.pq, out := .msg (s.pu 0xA1 m 0) mask (s.pu 0xA1 m 8) (s.pu 0xA1 m 12) b :: s.out }) ∧
        ((∀ i : Fin 3, mask.testBit i.val = true → qDepth (txQ i) < ((s.pq.get (txQ i)).chains.get c).occ + itemWords s i b.length) → t = { s with pq := t.pq }))


/-- On a served path DiagnosticSessionControl answers with P2 and P2* and changes the session, discarding an outstanding challenge if the session is new and the path's unlocks on a return to default; 5 s without a request return it to default; ECUReset is answered and restarts the N9, and is refused with 0x22 in DRIVE and CHARGE; TesterPresent answers 0x00 and not 0x80; ReadDTCInformation answers the count, the DTCs by mask or all; ClearDiagnosticInformation clears bit 3 of the logged faults that are inactive and nothing else. A sub-function outside the table earns 0x12, a group that is not 0xFFFFFF 0x31, and what the checks of service and session refuse earns their code; the codes 0x31, 0x33 and 0x7F are those of ISO 14229-1 (log entry 15). A path that is not served changes nothing, nor does a functionally addressed request for session control or TesterPresent on a path whose record names no functional identifier. -/
def Obligations.DiagnosticSessions : Prop :=
  (∀ (s : State) (p : UPath) (sub : Nat) (fn : Bool),
   s.udsServed p = true → addressed s p fn = true → s.udsNrc p 0x10 [] 0 = 0 → 
   let u : State := { s with uds := { s.uds with tester := some p } };
        (sub = 1 ∨ sub = 2 ∨ sub = 3 → exec (.diagnosticSessionControl p sub fn) s = .next { s with uds := { s.uds with tester := some p, session := s.uds.session.put p sub, unlocks := if sub = 1 then s.uds.unlocks.filter (fun x => decide (x.1 ≠ p)) else s.uds.unlocks }, sec := { s.sec with challenge := if s.uds.session.get p ≠ sub then none else s.sec.challenge }, out := .uds p (s.udsResp p) [0x50, BitVec.ofNat 8 sub, 0x00, 0x32, 0x01, 0xF4] :: s.out }) ∧
        (sub = 0 ∨ 3 < sub → exec (.diagnosticSessionControl p sub fn) s = .next { u with out := .uds p (s.udsResp p) [0x7F, 0x10, 0x12] :: s.out })) ∧
  (∀ (s : State) (p : UPath) (ms : Nat),
   s.uds.session.get p ≠ 1 → 
   (5000 ≤ ms → exec (.s3SessionTimeout p ms) s = .next { s with uds := { s.uds with session := s.uds.session.put p 1, unlocks := s.uds.unlocks.filter (fun x => decide (x.1 ≠ p)) }, sec := { s.sec with challenge := none } }) ∧
        (ms < 5000 → exec (.s3SessionTimeout p ms) s = .next s)) ∧
  (∀ (s : State) (p : UPath) (sub : Nat),
   s.udsServed p = true → s.udsNrc p 0x11 [2, 3] 0 = 0 → 
   let u : State := { s with uds := { s.uds with tester := some p } };
        (sub ≠ 1 → exec (.ecuReset p sub) s = .next { u with out := .uds p (s.udsResp p) [0x7F, 0x11, 0x12] :: s.out }) ∧
        (sub = 1 → s.sys.mode = .drive ∨ s.sys.mode = .charge → exec (.ecuReset p sub) s = .next { u with out := .uds p (s.udsResp p) [0x7F, 0x11, 0x22] :: s.out }) ∧
        (sub = 1 → s.sys.mode ≠ .drive → s.sys.mode ≠ .charge → s.sys.mode ≠ .off → s.sys.mode ≠ .ship →
          Answers (exec (.ecuReset p sub) s) fun t => (s.sup.nRst = true → s.sup.railsOut = [] → t = restart { StartCause.none with uds := true } { u with out := .uds p (s.udsResp p) [0x51, 0x01] :: s.out } ∧ t.sup.cause = { StartCause.none with uds := true }) ∧ t.sys.mode = .accession ∧ t.sup.cause.uds = true ∧ t.out = .uds p (s.udsResp p) [0x51, 0x01] :: s.out ∧ t.otp = s.otp ∧ t.flash = endedFlash s ∧ t.pending = s.pending)) ∧
  (∀ (s : State) (p : UPath) (sub : Nat) (fn : Bool),
   s.udsServed p = true → addressed s p fn = true → s.udsNrc p 0x3E [] 0 = 0 → 
   let u : State := { s with uds := { s.uds with tester := some p } };
        (sub = 0 → exec (.testerPresent p sub fn) s = .next { u with out := .uds p (s.udsResp p) [0x7E, 0x00] :: s.out }) ∧
        (sub = 0x80 → exec (.testerPresent p sub fn) s = .next u) ∧
        (sub ≠ 0 → sub ≠ 0x80 → exec (.testerPresent p sub fn) s = .next { u with out := .uds p (s.udsResp p) [0x7F, 0x3E, 0x12] :: s.out })) ∧
  (∀ (s : State) (p : UPath) (sub mask : Nat),
   s.udsServed p = true → s.udsNrc p 0x19 [] 0 = 0 → 
   let a (b : List Byte) : State := { s with uds := { s.uds with tester := some p }, out := .uds p (s.udsResp p) b :: s.out };
        let l := (allDtcs s).filter (fun d => decide (Nat.land (dtcStatus s d) mask ≠ 0));
        let one (d : Nat × Nat) : List Byte := natBe 2 d.1 ++ natBe 1 d.2 ++ natBe 1 (dtcStatus s d);
        (sub = 1 → exec (.readDtcInformation p sub mask) s = .next (a ([0x59, 0x01, 0x09, 0x01] ++ natBe 2 l.length))) ∧
        (sub = 2 → exec (.readDtcInformation p sub mask) s = .next (a ([0x59, 0x02, 0x09] ++ l.flatMap one))) ∧
        (sub = 0x0A → exec (.readDtcInformation p sub mask) s = .next (a ([0x59, 0x0A, 0x09] ++ (allDtcs s).flatMap one))) ∧
        (sub ≠ 1 → sub ≠ 2 → sub ≠ 0x0A → exec (.readDtcInformation p sub mask) s = .next (a [0x7F, 0x19, 0x12]))) ∧
  (∀ (s : State) (d : Nat × Nat),
   dtcStatus s d < 16 ∧ ((dtcStatus s d).testBit 0 = true ↔ ∃ f ∈ s.faults, shownCode f.code = d.1 ∧ f.cls = d.2) ∧
        ((dtcStatus s d).testBit 3 = true ↔ (∃ r ∈ loggedRecs s, r.code = d.1 ∧ r.cls = d.2) ∧ d.1 ∉ s.uds.dtcClr) ∧ (dtcStatus s d).testBit 1 = false ∧ (dtcStatus s d).testBit 2 = false) ∧
  (∀ (s : State) (p : UPath) (group : Nat),
   s.udsServed p = true → s.udsNrc p 0x14 [3] 0 = 0 → 
   let u : State := { s with uds := { s.uds with tester := some p } };
        (group ≠ 0xFFFFFF → exec (.clearDiagnosticInformation p group) s = .next { u with out := .uds p (s.udsResp p) [0x7F, 0x14, 0x31] :: s.out }) ∧
        (group = 0xFFFFFF → ∃ l, exec (.clearDiagnosticInformation p group) s = .next { s with uds := { s.uds with tester := some p, dtcClr := l }, out := .uds p (s.udsResp p) [0x54] :: s.out } ∧
          ∀ c, c ∈ l ↔ c ∈ s.uds.dtcClr ∨ (activeCode c s = false ∧ ∃ r ∈ loggedRecs s, r.code = c))) ∧
  (∀ (s : State) (p : UPath) (sub : Nat),
   (s.udsIds p).2.2 = 0xFFFFFFFF → exec (.diagnosticSessionControl p sub true) s = .next s ∧ exec (.testerPresent p sub true) s = .next s) ∧
  (∀ (s : State) (p : UPath) (sub mask : Nat) (fn : Bool),
   (s.udsServed p = false → ∀ c ∈ [Instr.diagnosticSessionControl p sub fn, .ecuReset p sub, .testerPresent p sub fn, .readDtcInformation p sub mask, .clearDiagnosticInformation p mask], exec c s = .next s) ∧
        (s.udsServed p = true → addressed s p fn = true → ∀ c n ss, (c, n, ss) ∈ [(Instr.diagnosticSessionControl p sub fn, 0x10, []), (.ecuReset p sub, 0x11, [2, 3]), (.testerPresent p sub fn, 0x3E, []), (.readDtcInformation p sub mask, 0x19, []), (.clearDiagnosticInformation p mask, 0x14, [3])] →
          s.udsNrc p n ss 0 ≠ 0 → exec c s = .next { s with uds := { s.uds with tester := some p }, out := .uds p (s.udsResp p) [0x7F, BitVec.ofNat 8 n, BitVec.ofNat 8 (s.udsNrc p n ss 0)] :: s.out })) ∧
  (∀ (s : State) (p : UPath) (n : Nat) (ss : List Nat) (l : Nat),
   (s.udsOffered n = false → s.udsNrc p n ss l = 0x11) ∧ (s.udsOffered n = true → ss ≠ [] → s.uds.session.get p ∉ ss → s.udsNrc p n ss l = 0x7F) ∧
        (s.udsOffered n = true → ss = [] ∨ s.uds.session.get p ∈ ss → l ≠ 0 → (p, l) ∉ s.uds.unlocks → s.udsNrc p n ss l = 0x33) ∧
        (s.udsOffered n = true → ss = [] ∨ s.uds.session.get p ∈ ss → l = 0 ∨ (p, l) ∈ s.uds.unlocks → s.udsNrc p n ss l = 0))

/-- On a served path ReadDataByIdentifier answers the registers of a listed identifier, words little-endian, and in Deaccessioned the identity alone; ReadMemoryByAddress answers up to 64 aligned words of the Vitrine or the map store and clears what their reads clear; WriteDataByIdentifier writes LVC_CMD by 0xFE00 where the converter is present; routine results answer what is kept of a routine. Anything else earns 0x31, a result that is not there 0x24, a service outside the subset 0x11 and a sub-function outside its table 0x12. A path that is not served changes nothing, nor does a functionally addressed request for any service but session control and TesterPresent, or on a path whose record names no functional identifier. The codes 0x24, 0x31 and 0x7F are those of ISO 14229-1 (log entry 15). -/
def Obligations.DiagnosticData : Prop :=
  (∀ (s : State) (p : UPath) (did : Nat),
   s.udsServed p = true → s.udsNrc p 0x22 [] 0 = 0 → 
   let a (b : List Byte) : State := { s with uds := { s.uds with tester := some p }, out := .uds p (s.udsResp p) b :: s.out };
        let w (k : Nat) : List Byte := natLe 4 (vitRead { s with uds := { s.uds with tester := some p } } k);
        (did = 0xF18C → exec (.readDataByIdentifier p did) s = .next (a ([0x62, 0xF1, 0x8C] ++ w 0x5000D008 ++ w 0x5000D004))) ∧
        (s.life ≠ 4 → (did = 0xF195 → exec (.readDataByIdentifier p did) s = .next (a ([0x62, 0xF1, 0x95] ++ w 0x50000008))) ∧
          (did = 0xF1A0 → exec (.readDataByIdentifier p did) s = .next (a ([0x62, 0xF1, 0xA0] ++ w 0x50010110 ++ w 0x5001010C))) ∧
          (did = 0xF1A1 → exec (.readDataByIdentifier p did) s = .next (a ([0x62, 0xF1, 0xA1] ++ w 0x50010100 ++ w 0x50010114))) ∧
          (did = 0xF1A2 → exec (.readDataByIdentifier p did) s = .next (a ([0x62, 0xF1, 0xA2] ++ w 0x50000044 ++ w 0x50000040))) ∧
          (did = 0xFE00 → exec (.readDataByIdentifier p did) s = .next (a ([0x62, 0xFE, 0x00] ++ w 0x50007004)))) ∧
        (did ∉ [0xF18C, 0xF195, 0xF1A0, 0xF1A1, 0xF1A2, 0xFE00] ∨ (s.life = 4 ∧ did ≠ 0xF18C) → exec (.readDataByIdentifier p did) s = .next (a [0x7F, 0x22, 0x31]))) ∧
  (∀ (s : State) (p : UPath) (f a n : Nat),
   s.udsServed p = true → s.udsNrc p 0x23 [3] 0 = 0 → 
   let u : State := { s with uds := { s.uds with tester := some p } };
        let r := readWords (n / 4) a u;
        let bad : Prop := f ≠ 0x14 ∨ n = 0 ∨ 256 < n ∨ n % 4 ≠ 0 ∨ a % 4 ≠ 0 ∨ ∃ k < n / 4, readable (a + 4 * k) = false;
        (bad → exec (.readMemoryByAddress p f a n) s = .next { u with out := .uds p (s.udsResp p) [0x7F, 0x23, 0x31] :: s.out }) ∧
        (¬bad → exec (.readMemoryByAddress p f a n) s = .next { r.2 with out := .uds p (s.udsResp p) ([0x63] ++ r.1) :: s.out } ∧ r.1.length = n ∧
          r.2 = { u with mer := r.2.mer, pwm := r.2.pwm, orr := r.2.orr, oview := r.2.oview, ssTrials := r.2.ssTrials, pos := r.2.pos, gd := r.2.gd, pfc := r.2.pfc, dab := r.2.dab, lvc := r.2.lvc, thm := r.2.thm, act := r.2.act, saf := r.2.saf, lks := r.2.lks, fab := r.2.fab, pq := r.2.pq, pqSeen := r.2.pqSeen, vif := r.2.vif, log := r.2.log, pair := r.2.pair }) ∧
        (¬bad → n = 4 → exec (.readMemoryByAddress p f a n) s = .next { vitClear u a with out := .uds p (s.udsResp p) ([0x63] ++ natLe 4 (vitRead u a)) :: s.out })) ∧
  (∀ (s : State) (p : UPath) (did v : Nat),
   s.udsServed p = true → s.udsNrc p 0x2E [3] 1 = 0 → 
   let u : State := { s with uds := { s.uds with tester := some p } };
        (did ≠ 0xFE00 → exec (.writeDataByIdentifier p did v) s = .next { u with out := .uds p (s.udsResp p) [0x7F, 0x2E, 0x31] :: s.out }) ∧
        (did = 0xFE00 → s.fn 5 = false → exec (.writeDataByIdentifier p did v) s = .next { u with out := .uds p (s.udsResp p) [0x6E, 0xFE, 0x00] :: s.out }) ∧
        (did = 0xFE00 → s.fn 5 = true → Answers (exec (.writeDataByIdentifier p did v) s) fun t => Grows s t ∧ SameButFaults { u with lvc := { s.lvc with cmd := some (v % 2 ^ 32 / 65536 % 4096, v % 65536) }, out := .uds p (s.udsResp p) [0x6E, 0xFE, 0x00] :: s.out } t)) ∧
  (∀ (s : State) (p : UPath) (rid : Nat),
   s.udsServed p = true → s.udsNrc p 0x31 [] 0 = 0 → 
   let a (b : List Byte) : State := { s with uds := { s.uds with tester := some p }, out := .uds p (s.udsResp p) b :: s.out };
        let n := s.routineNrc p rid;
        (rid ∉ [0xF100, 0xF101, 0xF102, 0xF103, 0xF200, 0xF201, 0xF300, 0xF400, 0xF401, 0xF402] → exec (.routineResults p rid) s = .next (a [0x7F, 0x31, 0x31])) ∧
        (rid ∈ [0xF100, 0xF101, 0xF102, 0xF103, 0xF200, 0xF201, 0xF300, 0xF400, 0xF401, 0xF402] →
          (n ≠ 0 → exec (.routineResults p rid) s = .next (a [0x7F, 0x31, BitVec.ofNat 8 n])) ∧
          (∀ x, n = 0 → s.uds.results.find? (fun r => decide (r.1 = rid)) = some x → exec (.routineResults p rid) s = .next (a ([0x71, 0x03] ++ natBe 2 rid ++ x.2))) ∧
          (n = 0 → s.uds.results.find? (fun r => decide (r.1 = rid)) = none → exec (.routineResults p rid) s = .next (a [0x7F, 0x31, 0x24])))) ∧
  (∀ (s : State) (p : UPath) (rid : Nat),
   let st : Bool := decide (rid / 256 = 0xF1);
        let bit := if rid / 256 = 0xF1 then 3 else if rid / 256 = 0xF2 then 0 else if rid / 256 = 0xF3 then 1 else 2;
        (s.routineNrc p rid = 0 ↔ s.udsOffered 0x31 = true ∧ s.uds.session.get p = (if st then 2 else 3) ∧ (p, if st then 3 else 1) ∈ s.uds.unlocks ∧ s.svcEn bit = true ∧ s.udsServed p = true ∧ (s.cat.recovery = true → st = true))) ∧
  (∀ (s : State) (p : UPath) (sid : Nat) (sub : Option Nat),
   (s.udsIds p).2.2 = 0xFFFFFFFF ∨ (sid ≠ 0x10 ∧ sid ≠ 0x3E) → exec (.unsupportedService p sid sub true) s = .next s) ∧
  (∀ (s : State) (p : UPath) (sid : Nat) (sub : Option Nat) (fn : Bool),
   s.udsServed p = true → fn = false ∨ ((s.udsIds p).2.2 ≠ 0xFFFFFFFF ∧ (sid = 0x10 ∨ sid = 0x3E)) → 
   let u : State := { s with uds := { s.uds with tester := some p } };
        (sid ∉ [0x10, 0x11, 0x14, 0x19, 0x22, 0x23, 0x27, 0x2E, 0x31, 0x34, 0x36, 0x37, 0x3E] ∨ s.udsOffered sid = false → exec (.unsupportedService p sid sub fn) s = .next { u with out := .uds p (s.udsResp p) [0x7F, BitVec.ofNat 8 sid, 0x11] :: s.out }) ∧
        (∀ k l, s.udsOffered sid = true → (sid, l) ∈ [(0x10, [1, 2, 3]), (0x11, [1]), (0x19, [1, 2, 0x0A]), (0x27, [0x01, 0x02, 0x03, 0x04, 0x61, 0x63, 0x64, 0x65, 0x66]), (0x31, [1, 3]), (0x3E, [0, 0x80])] → sub = some k → k ∉ l →
          exec (.unsupportedService p sid sub fn) s = .next { u with out := .uds p (s.udsResp p) [0x7F, BitVec.ofNat 8 sid, 0x12] :: s.out })) ∧
  (∀ (s : State) (p : UPath) (f a n v : Nat) (sub : Option Nat) (fn : Bool),
   (s.udsServed p = false → ∀ c ∈ [Instr.readDataByIdentifier p a, .readMemoryByAddress p f a n, .writeDataByIdentifier p a v, .routineResults p a, .unsupportedService p a sub fn], exec c s = .next s) ∧
        (s.udsServed p = true → ∀ c k ss l, (c, k, ss, l) ∈ [(Instr.readDataByIdentifier p a, 0x22, [], 0), (.readMemoryByAddress p f a n, 0x23, [3], 0), (.writeDataByIdentifier p a v, 0x2E, [3], 1), (.routineResults p a, 0x31, [], 0)] →
          s.udsNrc p k ss l ≠ 0 → exec c s = .next { s with uds := { s.uds with tester := some p }, out := .uds p (s.udsResp p) [0x7F, BitVec.ofNat 8 k, BitVec.ofNat 8 (s.udsNrc p k ss l)] :: s.out })) ∧
  (∀ (s : State) (a : Nat),
   (readable a = true ↔ (0x50000000 ≤ a ∧ a ≤ 0x50012FFF) ∨ (0x51000000 ≤ a ∧ a ≤ 0x5103FFFF)) ∧
        (0x50000000 ≤ a → a ≤ 0x50012FFF → vitRead s a = vitWord s ((a - 0x50000000) / 4096) (a / 4 * 4 % 4096) % 2 ^ 32 ∧ (a - 0x50000000) / 4096 < 19) ∧ (readable a = false → vitRead s a = 0))

/-- On a served path in a session that offers SecurityAccess: REQUEST_SEED for an unknown level is refused, in Deaccessioned refused, during the delay answered 0x37 with 0x8011, for a refused lifecycle change 0x22, and otherwise answers a new seed that replaces the outstanding challenge; SEND_KEY of the due segment is taken, the eighth asks the engine and lets the first response 0x78 fall due 50 ms later, and any other earns 0x24, 0x13 by its length; KEY_VERIFICATION_DONE with a valid signature of an allowed key unlocks the path's level while its session is not the default one, and otherwise counts the failure with 0x8010, the third starting the delay with 0x8011; a lifecycle change programs its OTP words, each after a passing hold-up check, and resets, and without a check its words wait and no reset comes; a challenge ends after 60 s, the delay after 10 s. -/
def Obligations.Unlocks : Prop :=
  (∀ (s : State) (p : UPath) (lv : Nat),
   s.udsServed p = true → s.udsNrc p 0x27 [2, 3] 0 = 0 → 
   let u : State := { s with uds := { s.uds with tester := some p } };
        let neg (n : Nat) : State := { u with out := .uds p (s.udsResp p) [0x7F, 0x27, BitVec.ofNat 8 n] :: s.out };
        ([1, 3, 0x63, 0x65].contains lv = false → exec (.requestSeed p lv) s = .next (neg (if lv = 0x61 then 0x13 else 0x12))) ∧
        ([1, 3, 0x63, 0x65].contains lv = true → s.life = 4 → exec (.requestSeed p lv) s = .next (neg 0x12)) ∧
        ([1, 3, 0x63, 0x65].contains lv = true → s.life ≠ 4 → s.ka.unlockDelay = true → Answers (exec (.requestSeed p lv) s) fun t => active 0x8011 noInst t = true ∧ Grows s t ∧ SameButFaults (neg 0x37) t) ∧
        ([1, 3, 0x63, 0x65].contains lv = true → s.life ≠ 4 → s.ka.unlockDelay = false → 0x63 ≤ lv → (s.sys.mode = .drive ∨ s.sys.mode = .charge ∨ (lv = 0x63 ∧ s.life ≠ 2)) → exec (.requestSeed p lv) s = .next (neg 0x22)) ∧
        ([1, 3, 0x63, 0x65].contains lv = true → s.life ≠ 4 → s.ka.unlockDelay = false → (lv < 0x63 ∨ (s.sys.mode ≠ .drive ∧ s.sys.mode ≠ .charge ∧ (lv = 0x63 → s.life = 2))) →
          exec (.requestSeed p lv) s = .next { u with sec := { s.sec with challenge := some { path := some p, level := lv, seed := seedBytes s lv, seg := 0, key := 0 }, nNonce := s.sec.nNonce + 1 }, out := .uds p (s.udsResp p) ([0x67, BitVec.ofNat 8 lv] ++ seedBytes s lv) :: s.out })) ∧
  (∀ (s : State) (p : UPath) (lv seg key len : Nat) (c : Challenge),
   s.udsServed p = true → s.udsNrc p 0x27 [2, 3] 0 = 0 → s.sec.challenge = some c → 
   let u : State := { s with uds := { s.uds with tester := some p } };
        let d : Challenge := { c with seg := c.seg + 1, key := if seg = 0 then key else c.key };
        (c.path ≠ some p ∨ c.level ≠ lv ∨ seg ≠ c.seg → exec (.sendKey p lv seg key len) s = .next { u with out := .uds p (s.udsResp p) [0x7F, 0x27, 0x24] :: s.out }) ∧
        (c.path = some p → c.level = lv → seg = c.seg → (len ≠ 3724 → exec (.sendKey p lv seg key len) s = .next { u with out := .uds p (s.udsResp p) [0x7F, 0x27, 0x13] :: s.out }) ∧
          (len = 3724 → seg < 7 → exec (.sendKey p lv seg key len) s = .next { u with sec := { s.sec with challenge := some d }, out := .uds p (s.udsResp p) [0x67, BitVec.ofNat 8 (lv + 1)] :: s.out }) ∧
          (len = 3724 → 7 ≤ seg → exec (.sendKey p lv seg key len) s = .next { u with sec := { s.sec with challenge := none, jobs := s.sec.jobs ++ [.key d], pend := s.sec.pend ++ [(p, s.mer.ns + 50000000)] } }))) ∧
  (∀ (s : State) (p : UPath) (lv seg key len : Nat),
   s.udsServed p = true → s.udsNrc p 0x27 [2, 3] 0 = 0 → s.sec.challenge = none → 
   exec (.sendKey p lv seg key len) s = .next { s with uds := { s.uds with tester := some p }, out := .uds p (s.udsResp p) [0x7F, 0x27, 0x24] :: s.out }) ∧
  (∀ (s : State) (ok : Bool) (hv : List Q) (vf : Nat) (c : Challenge) (r : List EngJob) (p : UPath),
   s.sec.jobs = .key c :: r → c.path = some p → s.udsServed p = true → 
   let u : State := { s with sec := { s.sec with jobs := r, ops := (s.sec.ops + 1) % 2 ^ 16, pend := s.sec.pend.eraseP (fun x => decide (some x.1 = some p)) } };
        (ok = true → keyAllowed s c.level c.key = true → c.level < 0x60 → s.uds.session.get p ≠ 1 → exec (.keyVerificationDone ok hv vf) s = .next { u with ka := { s.ka with unlockFails := 0 }, uds := { s.uds with unlocks := (p, c.level) :: s.uds.unlocks.filter (fun x => decide (x ≠ (p, c.level))) }, out := .uds p (s.udsResp p) [0x67, BitVec.ofNat 8 (c.level + 1)] :: s.out }) ∧
        (ok = true → keyAllowed s c.level c.key = true → c.level < 0x60 → s.uds.session.get p = 1 → exec (.keyVerificationDone ok hv vf) s = .next { u with ka := { s.ka with unlockFails := 0 }, out := .uds p (s.udsResp p) [0x67, BitVec.ofNat 8 (c.level + 1)] :: s.out }) ∧
        (¬(ok = true ∧ keyAllowed s c.level c.key = true) → s.ka.unlockFails < 2 → Answers (exec (.keyVerificationDone ok hv vf) s) fun t => active 0x8010 noInst t = true ∧ Grows s t ∧ SameButFaults { u with ka := { s.ka with unlockFails := s.ka.unlockFails + 1 }, out := .uds p (s.udsResp p) [0x7F, 0x27, 0x35] :: s.out } t) ∧
        (¬(ok = true ∧ keyAllowed s c.level c.key = true) → 2 ≤ s.ka.unlockFails → Answers (exec (.keyVerificationDone ok hv vf) s) fun t => active 0x8010 noInst t = true ∧ active 0x8011 noInst t = true ∧ Grows s t ∧ SameButFaults { u with ka := { s.ka with unlockFails := min (s.ka.unlockFails + 1) 255, unlockDelay := true }, out := .uds p (s.udsResp p) [0x7F, 0x27, 0x36] :: s.out } t)) ∧
  (∀ (s : State) (n : Nat),
   (60 ≤ n → exec (.challengeTimeout n) s = .next { s with sec := { s.sec with challenge := none } }) ∧ (n < 60 → exec (.challengeTimeout n) s = .next s) ∧
        (s.ka.unlockDelay = true → 10000 ≤ n → exec (.unlockDelayEnd n) s = .next { s with ka := { s.ka with unlockDelay := false, unlockFails := 0 } }) ∧ (s.ka.unlockDelay = false ∨ n < 10000 → exec (.unlockDelayEnd n) s = .next s)) ∧
  (∀ (s : State) (hv : List Q) (vf : Nat) (c : Challenge) (r : List EngJob) (p : UPath),
   s.sec.jobs = .key c :: r → c.path = some p → keyAllowed s c.level c.key = true → 0x60 ≤ c.level → s.sys.mode ≠ .off ∧ s.sys.mode ≠ .ship → 
   (s.sys.mode = .drive ∨ s.sys.mode = .charge ∨ (c.level = 0x63 ∧ s.life ≠ 2) → s.udsServed p = true → exec (.keyVerificationDone true hv vf) s = .next { s with sec := { s.sec with jobs := r, ops := (s.sec.ops + 1) % 2 ^ 16, pend := s.sec.pend.eraseP (fun x => decide (some x.1 = some p)) }, ka := { s.ka with unlockFails := 0 }, out := .uds p (s.udsResp p) [0x7F, 0x27, 0x22] :: s.out }) ∧
        (s.sys.mode ≠ .drive → s.sys.mode ≠ .charge → (c.level = 0x63 → s.life = 2) → s.ops.running = none → otpWaits s = false → startsOver s = false → vf = 0 → (lifeWords c.level).length ≤ hv.length → (∀ v ∈ hv, holdOk s v (.otpWord 5 0) = true) → Answers (exec (.keyVerificationDone true hv vf) s) fun t => t.sys.mode = .accession ∧ t.sup.cause.uds = true ∧ t.flash = s.flash ∧
          t.otp.get 5 = s.otp.get 5 ||| (if c.level = 0x63 then 0x0000000000FF0000 else 0x00000000FF000000) ∧ (c.level ≠ 0x63 → ∀ w, 24 ≤ w → w < 58 → t.otp.get w = 0xFFFFFFFFFFFFFFFF) ∧ (∀ w, w ≠ 5 → (c.level = 0x63 ∨ w < 24 ∨ 58 ≤ w) → t.otp.get w = s.otp.get w)) ∧
        (s.sys.mode ≠ .drive → s.sys.mode ≠ .charge → (c.level = 0x63 → s.life = 2) → Answers (exec (.keyVerificationDone true [] vf) s) fun t => t.otp = s.otp ∧ t.sys = s.sys ∧ t.sec.lcReset = true ∧ ∀ x ∈ lifeWords c.level, .otpWord x.1 x.2 ∈ t.ops.waiting))


/-- On a served path ATTESTATION_REQUEST waits out the delay with 0x37 and 0x8011, discards the outstanding challenge, refuses an index above 13, a nonce of another length than 32 and a unit without an identity key, builds a report for index 0 and reads a segment of the signed report otherwise; ATTESTATION_SIGNED answers the UDS requester with segment 0, or a fabric requester with the whole report, unless a newer report has replaced it. In Study, while the TAP is out of reset, JTAG_CHAL returns a new seed until the TAP is unlocked, and JTAG_KEY opens debug access on a valid signature of an allowed key and counts a failure otherwise. -/
def Obligations.AttestationAndJtag : Prop :=
  (∀ (s : State) (p : UPath) (k : Nat) (nonce : List Byte),
   s.udsServed p = true → s.udsNrc p 0x27 [2, 3] 0 = 0 → 
   let u : State := { s with uds := { s.uds with tester := some p }, sec := { s.sec with challenge := none } };
        let neg (n : Nat) : State := { u with out := .uds p (s.udsResp p) [0x7F, 0x27, BitVec.ofNat 8 n] :: s.out };
        (s.ka.unlockDelay = true → Answers (exec (.attestationRequest p k nonce) s) fun t => active 0x8011 noInst t = true ∧ Grows s t ∧ SameButFaults { s with uds := { s.uds with tester := some p }, out := .uds p (s.udsResp p) [0x7F, 0x27, 0x37] :: s.out } t) ∧
        (s.ka.unlockDelay = false → (13 < k → exec (.attestationRequest p k nonce) s = .next (neg 0x31)) ∧
          (k = 0 → nonce.length ≠ 32 → exec (.attestationRequest p k nonce) s = .next (neg 0x13)) ∧ (k = 0 → nonce.length = 32 → s.sec.idSlot = none → exec (.attestationRequest p k nonce) s = .next (neg 0x22)) ∧
          (k = 0 → nonce.length = 32 → s.sec.idSlot ≠ none → exec (.attestationRequest p k nonce) s = .next { u with sec := { u.sec with report := some ((reportBody nonce u).1, none), jobs := s.sec.jobs ++ [.sign (.uds p)], pend := s.sec.pend ++ [(p, s.mer.ns + 50000000)] }, freeIx := s.freeIx + 1 }) ∧
          (1 ≤ k → k ≤ 13 → (∀ b, reportSegment s k = some b → exec (.attestationRequest p k nonce) s = .next { u with out := .uds p (s.udsResp p) ([0x67, 0x61] ++ b) :: s.out }) ∧ (reportSegment s k = none → exec (.attestationRequest p k nonce) s = .next (neg 0x24))))) ∧
  (∀ (s : State) (q : AttReq) (r : List EngJob) (b : List Byte × Option Nat),
   s.sec.jobs = .sign q :: r → s.sec.report = some b → r.any (fun j => match j with
        | .sign _ => true
        | .key _ => false) = false → 
   let u : State := { s with sec := { s.sec with jobs := r, ops := (s.sec.ops + 1) % 2 ^ 16, pend := s.sec.pend.eraseP (fun x => decide (some x.1 = EngJob.asker (.sign q))), nSig := s.sec.nSig + 1, report := some (b.1, some s.sec.nSig) } };
        (∀ p, q = .uds p → s.udsServed p = true → exec .attestationSigned s = .next { u with out := .uds p (s.udsResp p) ([0x67, 0x61] ++ bytesAt (reportBytes (b.1, s.sec.nSig)) 0 3584) :: s.out }) ∧
        (∀ n tag ep, q = .fabric n tag ep → exec .attestationSigned s = .next (sendBulk 2 n 0 0 (reportParts 50 0 (reportBytes (b.1, s.sec.nSig))) (mgmtReply n ep 0 0x31 tag 0 [] u)))) ∧
  (∀ (s : State) (q : AttReq) (r : List EngJob) (b : List Byte × Option Nat),
   s.sec.jobs = .sign q :: r → s.sec.report = some b → r.any (fun j => match j with
        | .sign _ => true
        | .key _ => false) = true → 
   let u : State := { s with sec := { s.sec with jobs := r, ops := (s.sec.ops + 1) % 2 ^ 16, pend := s.sec.pend.eraseP (fun x => decide (some x.1 = EngJob.asker (.sign q))) } };
        (∀ p, q = .uds p → s.udsServed p = true → exec .attestationSigned s = .next { u with out := .uds p (s.udsResp p) [0x7F, 0x27, 0x24] :: s.out }) ∧
        (∀ n tag ep, q = .fabric n tag ep → exec .attestationSigned s = .next (mgmtReply n ep 0 0x31 tag 4 [] u))) ∧
  (∀ (s : State),
   (s.tapOn = false ∨ s.life ≠ 1 ∨ s.sec.jtagOpen = true → exec .jtagChal s = .next s) ∧
        (s.tapOn = true → s.life = 1 → s.sec.jtagOpen = false → s.ka.unlockDelay = false → exec .jtagChal s = .next { s with sec := { s.sec with challenge := some { path := none, level := 0, seed := seedBytes s 0, seg := 0, key := 0 }, nNonce := s.sec.nNonce + 1 }, out := .jtag (seedBytes s 0) :: s.out }) ∧
        (s.tapOn = true → s.life = 1 → s.sec.jtagOpen = false → s.ka.unlockDelay = true → Answers (exec .jtagChal s) fun t => active 0x8011 noInst t = true ∧ Grows s t ∧ SameButFaults s t)) ∧
  (∀ (s : State) (key : Nat) (ok : Bool), s.tapOn = false → exec (.jtagKey key ok) s = .next s) ∧
  (∀ (s : State) (key : Nat) (ok : Bool) (c : Challenge),
   s.tapOn = true → s.life = 1 → s.sec.jtagOpen = false → s.sec.challenge = some c → c.path = none → 
   let u : State := { s with sec := { s.sec with challenge := none, ops := (s.sec.ops + 1) % 2 ^ 16 } };
        (ok = true → keyAllowed s 0 key = true → exec (.jtagKey key ok) s = .next { u with ka := { s.ka with unlockFails := 0 }, sec := { u.sec with jtagOpen := true } }) ∧
        (¬(ok = true ∧ keyAllowed s 0 key = true) → s.ka.unlockFails < 2 → Answers (exec (.jtagKey key ok) s) fun t => active 0x8010 noInst t = true ∧ Grows s t ∧ SameButFaults { u with ka := { s.ka with unlockFails := s.ka.unlockFails + 1 } } t))

/-- A raise of a known code makes it active with an entry of its class and stores one record while the store has room; a raise of an active fault only counts; a gate fault of a buck output stops its phase; a fault of class F4 asserts the safe-state request and removes Callisto's global permit, and with Io halted leads to SAFE unless the N9 is in reset, off or dead; 0x680A takes every enabled fabric port to EXCLUDED, and a check-word fault of a port's queue takes that port DOWN. A clear ends exactly that fault, unless its cause still stands, so does the expiry after one second of a fault without a clearing condition of its own. A read over UDS or the fabric clears the RC fields of the word it reads and nothing else; a write reaches LVC_CMD alone. Over JTAG neither acts before the unlock in Study; then a read returns the word, an address that is not mapped answers a bus error, and a write to the map store meets its lock. -/
def Obligations.FaultCollector : Prop :=
  (∀ (s : State) (c i m : Nat),
   codeKnown c = true → 
   (Answers (exec (.faultRaise c i m) s) fun t => active c i t = true ∧ Grows s t ∧ (c ≠ 0x680A → c ≠ 0x7002 → t.beyond = s.beyond)) ∧
        (c = 0x680A → active c i s = false → Answers (exec (.faultRaise c i m) s) fun t => (∀ q, (t.fab.ports.get q).st = if (s.fab.ports.get q).st = 0 then 0 else 5) ∧
          t.beyond = { s.beyond with fab := t.fab, pq := t.pq, pqSeen := t.pqSeen, cat := t.cat, out := t.out, freeIx := t.freeIx }) ∧
        (c = 0x7002 → i < 8 → active c i s = false → Answers (exec (.faultRaise c i m) s) fun t => (∀ q, (t.fab.ports.get q).st = if q.val = i % 4 ∧ 2 ≤ (s.fab.ports.get q).st ∧ (s.fab.ports.get q).st ≤ 4 then 1 else (s.fab.ports.get q).st) ∧
          t.beyond = { s.beyond with fab := t.fab, pq := t.pq, pqSeen := t.pqSeen, cat := t.cat, out := t.out, freeIx := t.freeIx }) ∧
        (classOf s c i < 2 ∨ (classOf s c i = 2 ∧ ¬(0x2803 ≤ c ∧ c ≤ 0x280C)) → Answers (exec (.faultRaise c i m) s) fun t => SameButFaults s t) ∧
        (classOf s c i < 2 ∨ (classOf s c i = 2 ∧ ¬(0x2803 ≤ c ∧ c ≤ 0x280C)) → active c i s = false → s.log.store.length < 64 → Answers (exec (.faultRaise c i m) s) fun t => t.faults = { code := c, inst := i, cls := classOf s c i, raises := 1, suppressed := 0 } :: s.faults ∧
          ∃ r, t.log.store = s.log.store ++ [r] ∧ r.code = c ∧ r.inst = i ∧ r.cls = classOf s c i ∧ r.clear = false ∧ r.block = c / 2048 ∧ r.meas = m) ∧
        (∀ n, 0x2803 ≤ c → c ≤ 0x280C → c ≠ 0x2809 → stageOf (chanAt i) = .buck n → i < 55 → active c i s = false → Answers (exec (.faultRaise c i m) s) fun t => classOf s c i = 2 ∧ n ∉ t.lvc.act ∧ (t.gd.ch.get (buckHigh n)).out ≠ .on ∧ (t.gd.ch.get (buckLow n)).out ≠ .on) ∧
        (active c i s = true → Answers (exec (.faultRaise c i m) s) fun t => SameButFaults s t ∧ t.log.store = s.log.store ∧ t.log.suppressed = satInc 16 s.log.suppressed ∧ ∀ c' i', active c' i' t = active c' i' s) ∧
        (classOf s c i = 4 → active c i s = false → ioHalted s = false → c ≠ 0x0801 → c ≠ 0x5809 → Answers (exec (.faultRaise c i m) s) fun t => t.saf.safeReq = true ∧ t.globalC = false ∧ SameButFaults { s with saf := { s.saf with safeReq := true } } t) ∧
        (classOf s c i = 4 → active c i s = false → ioHalted s = true → s.noSafe = false → Answers (exec (.faultRaise c i m) s) fun t => t.sys.mode = .safe)) ∧
  (∀ (s : State) (c i m : Nat),
   (codeKnown c = false → exec (.faultRaise c i m) s = .next s) ∧
        (c ≠ 0x001A → causeHeld c i s = false → Answers (exec (.faultClear c i) s) fun t => active c i t = false ∧ SameButFaults s t ∧ ∀ c' i', c' ≠ 0x001A → ¬(c' = c ∧ i' = i) → active c' i' t = active c' i' s) ∧
        (causeHeld c i s = true → exec (.faultClear c i) s = .next s) ∧
        (c ≠ 0x001A → ownClear c = false → 1000 ≤ m → Answers (exec (.faultExpiry c i m) s) fun t => active c i t = false ∧ SameButFaults s t ∧ ∀ c' i', c' ≠ 0x001A → ¬(c' = c ∧ i' = i) → active c' i' t = active c' i' s) ∧
        (ownClear c = true ∨ m < 1000 → exec (.faultExpiry c i m) s = .next s)) ∧
  (∀ (s : State) (a v : Nat) (w : RegPath),
   (w ≠ .jtag → Answers (exec (.rcRegisterRead w a) s) fun t => t = { s with mer := t.mer, pwm := t.pwm, orr := t.orr, oview := t.oview, ssTrials := t.ssTrials, pos := t.pos, gd := t.gd, pfc := t.pfc, dab := t.dab, lvc := t.lvc, thm := t.thm, act := t.act, saf := t.saf, lks := t.lks, fab := t.fab, pq := t.pq, pqSeen := t.pqSeen, vif := t.vif, log := t.log, pair := t.pair }) ∧
        (w ≠ .jtag → inVitrine a = false → exec (.rcRegisterRead w a) s = .next s) ∧
        (w ≠ .jtag → a / 4 = 0x50011014 / 4 → exec (.rcRegisterRead w a) s = .next { s with log := { s.log with dropped := 0, suppressed := 0 } }) ∧
        (w ≠ .jtag → a / 4 = 0x5000B010 / 4 → exec (.rcRegisterRead w a) s = .next { s with saf := { s.saf with overruns := 0 } }) ∧
        (w ≠ .jtag → a / 4 = 0x50009000 / 4 → exec (.rcRegisterRead w a) s = .next { s with thm := { s.thm with missed := 0 } }) ∧
        (w ≠ .jtag → a / 4 = 0x50007004 / 4 → s.fn 5 = true → exec (.registerWrite w a v) s = exec (.lvcCmdWrite (BitVec.ofNat 32 v)) s) ∧
        (w ≠ .jtag → a / 4 ≠ 0x50007004 / 4 ∨ s.fn 5 = false → exec (.registerWrite w a v) s = .next s)) ∧
  (∀ (s : State) (a v : Nat),
   (debugOpen s = false → exec (.rcRegisterRead .jtag a) s = .next s ∧ exec (.registerWrite .jtag a v) s = .next s) ∧
        (debugOpen s = true → inVitrine a = false → inMapStore a = false → exec (.rcRegisterRead .jtag a) s = .next { s with out := .jtagError :: s.out } ∧ exec (.registerWrite .jtag a v) s = .next { s with out := .jtagError :: s.out }) ∧
        (debugOpen s = true → inVitrine a = true ∨ inMapStore a = true → exec (.rcRegisterRead .jtag a) s = .next { vitClear s a with out := .jtag (natLe 4 (vitRead s a)) :: s.out }) ∧
        (debugOpen s = true → inVitrine a = true → exec (.registerWrite .jtag a v) s = exec (.registerWrite .uds a v) s) ∧
        (debugOpen s = true → inMapStore a = true → exec (.registerWrite .jtag a v) s = .next (storeWrite .map a v s)))
end

