-- ==== Sys2Proof/Laws/State.lean ====
section
/-! SUPPORT. What a table reads as after each operation on it, and each field of the state after each named update of it. -/

namespace Sys2Proof

/-! ## Tables -/

theorem Tab.find_drop {κ α : Type} [DecidableEq κ] (k j : κ) (l : List (κ × α)) : Tab.find j (Tab.drop k l) = if j = k then none else Tab.find j l := by
  induction l with
  | nil => simp [Tab.drop, Tab.find]
  | cons p l ih =>
    obtain ⟨a, v⟩ := p
    simp only [Tab.drop, Tab.find]
    split
    · subst_vars
      rw [ih]
      split
      · rfl
      · rename_i h; simp [Ne.symm h]
    · simp only [Tab.find, ih]
      split
      · subst_vars; simp_all
      · rfl

/-- A value put at a key reads back there, and every other key reads as before. -/
theorem Tab.get_put {κ α : Type} [DecidableEq κ] (t : Tab κ α) (k j : κ) (v : α) : (t.put k v).get j = if j = k then v else t.get j := by
  simp only [Tab.get, Tab.put, Tab.find, Tab.find_drop]
  by_cases h : j = k
  · subst h; simp
  · simp [h, Ne.symm h]

@[simp] theorem Tab.get_put_same {κ α : Type} [DecidableEq κ] (t : Tab κ α) (k : κ) (v : α) : (t.put k v).get k = v := by simp [Tab.get_put]

theorem Tab.get_put_other {κ α : Type} [DecidableEq κ] (t : Tab κ α) (k j : κ) (v : α) (h : j ≠ k) : (t.put k v).get j = t.get j := by
  simp [Tab.get_put, h]

theorem Tab.get_upd {κ α : Type} [DecidableEq κ] (t : Tab κ α) (k j : κ) (f : α → α) : (t.upd k f).get j = if j = k then f (t.get k) else t.get j := by
  simp [Tab.upd, Tab.get_put]

@[simp] theorem Tab.get_upd_same {κ α : Type} [DecidableEq κ] (t : Tab κ α) (k : κ) (f : α → α) : (t.upd k f).get k = f (t.get k) := by
  simp [Tab.get_upd]

theorem Tab.get_upd_other {κ α : Type} [DecidableEq κ] (t : Tab κ α) (k j : κ) (f : α → α) (h : j ≠ k) : (t.upd k f).get j = t.get j := by
  simp [Tab.get_upd, h]

@[simp] theorem Tab.get_fill {κ α : Type} [DecidableEq κ] (k : κ) (v : α) : (Tab.fill v : Tab κ α).get k = v := rfl

@[simp] theorem Tab.get_map {κ α : Type} [DecidableEq κ] (t : Tab κ α) (f : α → α) (k : κ) : (t.map f).get k = f (t.get k) := by
  obtain ⟨d, l⟩ := t
  unfold Tab.map Tab.get
  dsimp only
  induction l with
  | nil => rfl
  | cons p l ih =>
    obtain ⟨j, v⟩ := p
    simp only [List.map, Tab.find]
    split
    · rfl
    · exact ih

/-! ## Counts -/

theorem satInc_le (bits n : Nat) : satInc bits n ≤ 2 ^ bits - 1 := Nat.min_le_right _ _

theorem satAdd_le (bits n k : Nat) : satAdd bits n k ≤ 2 ^ bits - 1 := Nat.min_le_right _ _

theorem wrapInc_lt (bits n : Nat) : wrapInc bits n < 2 ^ bits := Nat.mod_lt _ (Nat.two_pow_pos bits)

end Sys2Proof

namespace Sys2Proof.Machine

/-! ## updCh -/

@[simp] theorem updCh_mer (c : Chan) (f : GdChan → GdChan) (s : State) : (s.updCh c f).mer = s.mer := rfl
@[simp] theorem updCh_pwm (c : Chan) (f : GdChan → GdChan) (s : State) : (s.updCh c f).pwm = s.pwm := rfl
@[simp] theorem updCh_orr (c : Chan) (f : GdChan → GdChan) (s : State) : (s.updCh c f).orr = s.orr := rfl
@[simp] theorem updCh_octl (c : Chan) (f : GdChan → GdChan) (s : State) : (s.updCh c f).octl = s.octl := rfl
@[simp] theorem updCh_oview (c : Chan) (f : GdChan → GdChan) (s : State) : (s.updCh c f).oview = s.oview := rfl
@[simp] theorem updCh_otgt (c : Chan) (f : GdChan → GdChan) (s : State) : (s.updCh c f).otgt = s.otgt := rfl
@[simp] theorem updCh_tm (c : Chan) (f : GdChan → GdChan) (s : State) : (s.updCh c f).tm = s.tm := rfl
@[simp] theorem updCh_dc (c : Chan) (f : GdChan → GdChan) (s : State) : (s.updCh c f).dc = s.dc := rfl
@[simp] theorem updCh_ss (c : Chan) (f : GdChan → GdChan) (s : State) : (s.updCh c f).ss = s.ss := rfl
@[simp] theorem updCh_ssDisagree (c : Chan) (f : GdChan → GdChan) (s : State) : (s.updCh c f).ssDisagree = s.ssDisagree := rfl
@[simp] theorem updCh_ssTrials (c : Chan) (f : GdChan → GdChan) (s : State) : (s.updCh c f).ssTrials = s.ssTrials := rfl
@[simp] theorem updCh_pos (c : Chan) (f : GdChan → GdChan) (s : State) : (s.updCh c f).pos = s.pos := rfl
@[simp] theorem updCh_edge (c : Chan) (f : GdChan → GdChan) (s : State) : (s.updCh c f).edge = s.edge := rfl
@[simp] theorem updCh_res (c : Chan) (f : GdChan → GdChan) (s : State) : (s.updCh c f).res = s.res := rfl
@[simp] theorem updCh_cal (c : Chan) (f : GdChan → GdChan) (s : State) : (s.updCh c f).cal = s.cal := rfl
@[simp] theorem updCh_sent (c : Chan) (f : GdChan → GdChan) (s : State) : (s.updCh c f).sent = s.sent := rfl
@[simp] theorem updCh_em (c : Chan) (f : GdChan → GdChan) (s : State) : (s.updCh c f).em = s.em := rfl
@[simp] theorem updCh_gd (c : Chan) (f : GdChan → GdChan) (s : State) : (s.updCh c f).gd = { s.gd with ch := s.gd.ch.upd c f } := rfl
@[simp] theorem updCh_grid (c : Chan) (f : GdChan → GdChan) (s : State) : (s.updCh c f).grid = s.grid := rfl
@[simp] theorem updCh_pfc (c : Chan) (f : GdChan → GdChan) (s : State) : (s.updCh c f).pfc = s.pfc := rfl
@[simp] theorem updCh_dab (c : Chan) (f : GdChan → GdChan) (s : State) : (s.updCh c f).dab = s.dab := rfl
@[simp] theorem updCh_obcT (c : Chan) (f : GdChan → GdChan) (s : State) : (s.updCh c f).obcT = s.obcT := rfl
@[simp] theorem updCh_sys (c : Chan) (f : GdChan → GdChan) (s : State) : (s.updCh c f).sys = s.sys := rfl
@[simp] theorem updCh_sup (c : Chan) (f : GdChan → GdChan) (s : State) : (s.updCh c f).sup = s.sup := rfl
@[simp] theorem updCh_ka (c : Chan) (f : GdChan → GdChan) (s : State) : (s.updCh c f).ka = s.ka := rfl
@[simp] theorem updCh_faults (c : Chan) (f : GdChan → GdChan) (s : State) : (s.updCh c f).faults = s.faults := rfl
@[simp] theorem updCh_log (c : Chan) (f : GdChan → GdChan) (s : State) : (s.updCh c f).log = s.log := rfl
@[simp] theorem updCh_flash (c : Chan) (f : GdChan → GdChan) (s : State) : (s.updCh c f).flash = s.flash := rfl
@[simp] theorem updCh_ops (c : Chan) (f : GdChan → GdChan) (s : State) : (s.updCh c f).ops = s.ops := rfl
@[simp] theorem updCh_cat (c : Chan) (f : GdChan → GdChan) (s : State) : (s.updCh c f).cat = s.cat := rfl
@[simp] theorem updCh_lvc (c : Chan) (f : GdChan → GdChan) (s : State) : (s.updCh c f).lvc = s.lvc := rfl
@[simp] theorem updCh_chg (c : Chan) (f : GdChan → GdChan) (s : State) : (s.updCh c f).chg = s.chg := rfl
@[simp] theorem updCh_thm (c : Chan) (f : GdChan → GdChan) (s : State) : (s.updCh c f).thm = s.thm := rfl
@[simp] theorem updCh_act (c : Chan) (f : GdChan → GdChan) (s : State) : (s.updCh c f).act = s.act := rfl
@[simp] theorem updCh_saf (c : Chan) (f : GdChan → GdChan) (s : State) : (s.updCh c f).saf = s.saf := rfl
@[simp] theorem updCh_lks (c : Chan) (f : GdChan → GdChan) (s : State) : (s.updCh c f).lks = s.lks := rfl
@[simp] theorem updCh_pq (c : Chan) (f : GdChan → GdChan) (s : State) : (s.updCh c f).pq = s.pq := rfl
@[simp] theorem updCh_pqSeen (c : Chan) (f : GdChan → GdChan) (s : State) : (s.updCh c f).pqSeen = s.pqSeen := rfl
@[simp] theorem updCh_fab (c : Chan) (f : GdChan → GdChan) (s : State) : (s.updCh c f).fab = s.fab := rfl
@[simp] theorem updCh_pair (c : Chan) (f : GdChan → GdChan) (s : State) : (s.updCh c f).pair = s.pair := rfl
@[simp] theorem updCh_vif (c : Chan) (f : GdChan → GdChan) (s : State) : (s.updCh c f).vif = s.vif := rfl
@[simp] theorem updCh_veh (c : Chan) (f : GdChan → GdChan) (s : State) : (s.updCh c f).veh = s.veh := rfl
@[simp] theorem updCh_uds (c : Chan) (f : GdChan → GdChan) (s : State) : (s.updCh c f).uds = s.uds := rfl
@[simp] theorem updCh_out (c : Chan) (f : GdChan → GdChan) (s : State) : (s.updCh c f).out = s.out := rfl
@[simp] theorem updCh_sec (c : Chan) (f : GdChan → GdChan) (s : State) : (s.updCh c f).sec = s.sec := rfl
@[simp] theorem updCh_otp (c : Chan) (f : GdChan → GdChan) (s : State) : (s.updCh c f).otp = s.otp := rfl
@[simp] theorem updCh_freeIx (c : Chan) (f : GdChan → GdChan) (s : State) : (s.updCh c f).freeIx = s.freeIx := rfl
@[simp] theorem updCh_pending (c : Chan) (f : GdChan → GdChan) (s : State) : (s.updCh c f).pending = s.pending := rfl

/-! ## setSs -/

@[simp] theorem setSs_mer (t : TSet) (k : Nat) (s : State) : (setSs t k s).mer = s.mer := rfl
@[simp] theorem setSs_pwm (t : TSet) (k : Nat) (s : State) : (setSs t k s).pwm = s.pwm := rfl
@[simp] theorem setSs_orr (t : TSet) (k : Nat) (s : State) : (setSs t k s).orr = s.orr := rfl
@[simp] theorem setSs_octl (t : TSet) (k : Nat) (s : State) : (setSs t k s).octl = s.octl := rfl
@[simp] theorem setSs_oview (t : TSet) (k : Nat) (s : State) : (setSs t k s).oview = s.oview := rfl
@[simp] theorem setSs_otgt (t : TSet) (k : Nat) (s : State) : (setSs t k s).otgt = s.otgt := rfl
@[simp] theorem setSs_tm (t : TSet) (k : Nat) (s : State) : (setSs t k s).tm = s.tm := rfl
@[simp] theorem setSs_dc (t : TSet) (k : Nat) (s : State) : (setSs t k s).dc = s.dc := rfl
@[simp] theorem setSs_ss (t : TSet) (k : Nat) (s : State) : (setSs t k s).ss = s.ss.upd t (fun x => { x with st := k }) := rfl
@[simp] theorem setSs_ssDisagree (t : TSet) (k : Nat) (s : State) : (setSs t k s).ssDisagree = s.ssDisagree := rfl
@[simp] theorem setSs_ssTrials (t : TSet) (k : Nat) (s : State) : (setSs t k s).ssTrials = s.ssTrials := rfl
@[simp] theorem setSs_pos (t : TSet) (k : Nat) (s : State) : (setSs t k s).pos = s.pos := rfl
@[simp] theorem setSs_edge (t : TSet) (k : Nat) (s : State) : (setSs t k s).edge = s.edge := rfl
@[simp] theorem setSs_res (t : TSet) (k : Nat) (s : State) : (setSs t k s).res = s.res := rfl
@[simp] theorem setSs_cal (t : TSet) (k : Nat) (s : State) : (setSs t k s).cal = s.cal := rfl
@[simp] theorem setSs_sent (t : TSet) (k : Nat) (s : State) : (setSs t k s).sent = s.sent := rfl
@[simp] theorem setSs_em (t : TSet) (k : Nat) (s : State) : (setSs t k s).em = s.em := rfl
@[simp] theorem setSs_gd (t : TSet) (k : Nat) (s : State) : (setSs t k s).gd = s.gd := rfl
@[simp] theorem setSs_grid (t : TSet) (k : Nat) (s : State) : (setSs t k s).grid = s.grid := rfl
@[simp] theorem setSs_pfc (t : TSet) (k : Nat) (s : State) : (setSs t k s).pfc = s.pfc := rfl
@[simp] theorem setSs_dab (t : TSet) (k : Nat) (s : State) : (setSs t k s).dab = s.dab := rfl
@[simp] theorem setSs_obcT (t : TSet) (k : Nat) (s : State) : (setSs t k s).obcT = s.obcT := rfl
@[simp] theorem setSs_sys (t : TSet) (k : Nat) (s : State) : (setSs t k s).sys = s.sys := rfl
@[simp] theorem setSs_sup (t : TSet) (k : Nat) (s : State) : (setSs t k s).sup = s.sup := rfl
@[simp] theorem setSs_ka (t : TSet) (k : Nat) (s : State) : (setSs t k s).ka = s.ka := rfl
@[simp] theorem setSs_faults (t : TSet) (k : Nat) (s : State) : (setSs t k s).faults = s.faults := rfl
@[simp] theorem setSs_log (t : TSet) (k : Nat) (s : State) : (setSs t k s).log = s.log := rfl
@[simp] theorem setSs_flash (t : TSet) (k : Nat) (s : State) : (setSs t k s).flash = s.flash := rfl
@[simp] theorem setSs_ops (t : TSet) (k : Nat) (s : State) : (setSs t k s).ops = s.ops := rfl
@[simp] theorem setSs_cat (t : TSet) (k : Nat) (s : State) : (setSs t k s).cat = s.cat := rfl
@[simp] theorem setSs_lvc (t : TSet) (k : Nat) (s : State) : (setSs t k s).lvc = s.lvc := rfl
@[simp] theorem setSs_chg (t : TSet) (k : Nat) (s : State) : (setSs t k s).chg = s.chg := rfl
@[simp] theorem setSs_thm (t : TSet) (k : Nat) (s : State) : (setSs t k s).thm = s.thm := rfl
@[simp] theorem setSs_act (t : TSet) (k : Nat) (s : State) : (setSs t k s).act = s.act := rfl
@[simp] theorem setSs_saf (t : TSet) (k : Nat) (s : State) : (setSs t k s).saf = s.saf := rfl
@[simp] theorem setSs_lks (t : TSet) (k : Nat) (s : State) : (setSs t k s).lks = s.lks := rfl
@[simp] theorem setSs_pq (t : TSet) (k : Nat) (s : State) : (setSs t k s).pq = s.pq := rfl
@[simp] theorem setSs_pqSeen (t : TSet) (k : Nat) (s : State) : (setSs t k s).pqSeen = s.pqSeen := rfl
@[simp] theorem setSs_fab (t : TSet) (k : Nat) (s : State) : (setSs t k s).fab = s.fab := rfl
@[simp] theorem setSs_pair (t : TSet) (k : Nat) (s : State) : (setSs t k s).pair = s.pair := rfl
@[simp] theorem setSs_vif (t : TSet) (k : Nat) (s : State) : (setSs t k s).vif = s.vif := rfl
@[simp] theorem setSs_veh (t : TSet) (k : Nat) (s : State) : (setSs t k s).veh = s.veh := rfl
@[simp] theorem setSs_uds (t : TSet) (k : Nat) (s : State) : (setSs t k s).uds = s.uds := rfl
@[simp] theorem setSs_out (t : TSet) (k : Nat) (s : State) : (setSs t k s).out = s.out := rfl
@[simp] theorem setSs_sec (t : TSet) (k : Nat) (s : State) : (setSs t k s).sec = s.sec := rfl
@[simp] theorem setSs_otp (t : TSet) (k : Nat) (s : State) : (setSs t k s).otp = s.otp := rfl
@[simp] theorem setSs_freeIx (t : TSet) (k : Nat) (s : State) : (setSs t k s).freeIx = s.freeIx := rfl
@[simp] theorem setSs_pending (t : TSet) (k : Nat) (s : State) : (setSs t k s).pending = s.pending := rfl

/-! ## send -/

@[simp] theorem send_mer (e : Emit) (s : State) : (send e s).mer = s.mer := rfl
@[simp] theorem send_pwm (e : Emit) (s : State) : (send e s).pwm = s.pwm := rfl
@[simp] theorem send_orr (e : Emit) (s : State) : (send e s).orr = s.orr := rfl
@[simp] theorem send_octl (e : Emit) (s : State) : (send e s).octl = s.octl := rfl
@[simp] theorem send_oview (e : Emit) (s : State) : (send e s).oview = s.oview := rfl
@[simp] theorem send_otgt (e : Emit) (s : State) : (send e s).otgt = s.otgt := rfl
@[simp] theorem send_tm (e : Emit) (s : State) : (send e s).tm = s.tm := rfl
@[simp] theorem send_dc (e : Emit) (s : State) : (send e s).dc = s.dc := rfl
@[simp] theorem send_ss (e : Emit) (s : State) : (send e s).ss = s.ss := rfl
@[simp] theorem send_ssDisagree (e : Emit) (s : State) : (send e s).ssDisagree = s.ssDisagree := rfl
@[simp] theorem send_ssTrials (e : Emit) (s : State) : (send e s).ssTrials = s.ssTrials := rfl
@[simp] theorem send_pos (e : Emit) (s : State) : (send e s).pos = s.pos := rfl
@[simp] theorem send_edge (e : Emit) (s : State) : (send e s).edge = s.edge := rfl
@[simp] theorem send_res (e : Emit) (s : State) : (send e s).res = s.res := rfl
@[simp] theorem send_cal (e : Emit) (s : State) : (send e s).cal = s.cal := rfl
@[simp] theorem send_sent (e : Emit) (s : State) : (send e s).sent = s.sent := rfl
@[simp] theorem send_em (e : Emit) (s : State) : (send e s).em = s.em := rfl
@[simp] theorem send_gd (e : Emit) (s : State) : (send e s).gd = s.gd := rfl
@[simp] theorem send_grid (e : Emit) (s : State) : (send e s).grid = s.grid := rfl
@[simp] theorem send_pfc (e : Emit) (s : State) : (send e s).pfc = s.pfc := rfl
@[simp] theorem send_dab (e : Emit) (s : State) : (send e s).dab = s.dab := rfl
@[simp] theorem send_obcT (e : Emit) (s : State) : (send e s).obcT = s.obcT := rfl
@[simp] theorem send_sys (e : Emit) (s : State) : (send e s).sys = s.sys := rfl
@[simp] theorem send_sup (e : Emit) (s : State) : (send e s).sup = s.sup := rfl
@[simp] theorem send_ka (e : Emit) (s : State) : (send e s).ka = s.ka := rfl
@[simp] theorem send_faults (e : Emit) (s : State) : (send e s).faults = s.faults := rfl
@[simp] theorem send_log (e : Emit) (s : State) : (send e s).log = s.log := rfl
@[simp] theorem send_flash (e : Emit) (s : State) : (send e s).flash = s.flash := rfl
@[simp] theorem send_ops (e : Emit) (s : State) : (send e s).ops = s.ops := rfl
@[simp] theorem send_cat (e : Emit) (s : State) : (send e s).cat = s.cat := rfl
@[simp] theorem send_lvc (e : Emit) (s : State) : (send e s).lvc = s.lvc := rfl
@[simp] theorem send_chg (e : Emit) (s : State) : (send e s).chg = s.chg := rfl
@[simp] theorem send_thm (e : Emit) (s : State) : (send e s).thm = s.thm := rfl
@[simp] theorem send_act (e : Emit) (s : State) : (send e s).act = s.act := rfl
@[simp] theorem send_saf (e : Emit) (s : State) : (send e s).saf = s.saf := rfl
@[simp] theorem send_lks (e : Emit) (s : State) : (send e s).lks = s.lks := rfl
@[simp] theorem send_pq (e : Emit) (s : State) : (send e s).pq = s.pq := rfl
@[simp] theorem send_pqSeen (e : Emit) (s : State) : (send e s).pqSeen = s.pqSeen := rfl
@[simp] theorem send_fab (e : Emit) (s : State) : (send e s).fab = s.fab := rfl
@[simp] theorem send_pair (e : Emit) (s : State) : (send e s).pair = s.pair := rfl
@[simp] theorem send_vif (e : Emit) (s : State) : (send e s).vif = s.vif := rfl
@[simp] theorem send_veh (e : Emit) (s : State) : (send e s).veh = s.veh := rfl
@[simp] theorem send_uds (e : Emit) (s : State) : (send e s).uds = s.uds := rfl
@[simp] theorem send_out (e : Emit) (s : State) : (send e s).out = e :: s.out := rfl
@[simp] theorem send_sec (e : Emit) (s : State) : (send e s).sec = s.sec := rfl
@[simp] theorem send_otp (e : Emit) (s : State) : (send e s).otp = s.otp := rfl
@[simp] theorem send_freeIx (e : Emit) (s : State) : (send e s).freeIx = s.freeIx := rfl
@[simp] theorem send_pending (e : Emit) (s : State) : (send e s).pending = s.pending := rfl

/-! ## noteRefuse -/

@[simp] theorem noteRefuse_mer (k : Nat) (s : State) : (noteRefuse k s).mer = s.mer := rfl
@[simp] theorem noteRefuse_pwm (k : Nat) (s : State) : (noteRefuse k s).pwm = s.pwm := rfl
@[simp] theorem noteRefuse_orr (k : Nat) (s : State) : (noteRefuse k s).orr = s.orr := rfl
@[simp] theorem noteRefuse_octl (k : Nat) (s : State) : (noteRefuse k s).octl = s.octl := rfl
@[simp] theorem noteRefuse_oview (k : Nat) (s : State) : (noteRefuse k s).oview = s.oview := rfl
@[simp] theorem noteRefuse_otgt (k : Nat) (s : State) : (noteRefuse k s).otgt = s.otgt := rfl
@[simp] theorem noteRefuse_tm (k : Nat) (s : State) : (noteRefuse k s).tm = s.tm := rfl
@[simp] theorem noteRefuse_dc (k : Nat) (s : State) : (noteRefuse k s).dc = s.dc := rfl
@[simp] theorem noteRefuse_ss (k : Nat) (s : State) : (noteRefuse k s).ss = s.ss := rfl
@[simp] theorem noteRefuse_ssDisagree (k : Nat) (s : State) : (noteRefuse k s).ssDisagree = s.ssDisagree := rfl
@[simp] theorem noteRefuse_ssTrials (k : Nat) (s : State) : (noteRefuse k s).ssTrials = s.ssTrials := rfl
@[simp] theorem noteRefuse_pos (k : Nat) (s : State) : (noteRefuse k s).pos = s.pos := rfl
@[simp] theorem noteRefuse_edge (k : Nat) (s : State) : (noteRefuse k s).edge = s.edge := rfl
@[simp] theorem noteRefuse_res (k : Nat) (s : State) : (noteRefuse k s).res = s.res := rfl
@[simp] theorem noteRefuse_cal (k : Nat) (s : State) : (noteRefuse k s).cal = s.cal := rfl
@[simp] theorem noteRefuse_sent (k : Nat) (s : State) : (noteRefuse k s).sent = s.sent := rfl
@[simp] theorem noteRefuse_em (k : Nat) (s : State) : (noteRefuse k s).em = s.em := rfl
@[simp] theorem noteRefuse_gd (k : Nat) (s : State) : (noteRefuse k s).gd = s.gd := rfl
@[simp] theorem noteRefuse_grid (k : Nat) (s : State) : (noteRefuse k s).grid = s.grid := rfl
@[simp] theorem noteRefuse_pfc (k : Nat) (s : State) : (noteRefuse k s).pfc = s.pfc := rfl
@[simp] theorem noteRefuse_dab (k : Nat) (s : State) : (noteRefuse k s).dab = s.dab := rfl
@[simp] theorem noteRefuse_obcT (k : Nat) (s : State) : (noteRefuse k s).obcT = s.obcT := rfl
@[simp] theorem noteRefuse_sys (k : Nat) (s : State) : (noteRefuse k s).sys = s.sys := rfl
@[simp] theorem noteRefuse_sup (k : Nat) (s : State) : (noteRefuse k s).sup = s.sup := rfl
@[simp] theorem noteRefuse_ka (k : Nat) (s : State) : (noteRefuse k s).ka = s.ka := rfl
@[simp] theorem noteRefuse_faults (k : Nat) (s : State) : (noteRefuse k s).faults = s.faults := rfl
@[simp] theorem noteRefuse_log (k : Nat) (s : State) : (noteRefuse k s).log = s.log := rfl
@[simp] theorem noteRefuse_flash (k : Nat) (s : State) : (noteRefuse k s).flash = s.flash := rfl
@[simp] theorem noteRefuse_ops (k : Nat) (s : State) : (noteRefuse k s).ops = s.ops := rfl
@[simp] theorem noteRefuse_cat (k : Nat) (s : State) : (noteRefuse k s).cat = s.cat := rfl
@[simp] theorem noteRefuse_lvc (k : Nat) (s : State) : (noteRefuse k s).lvc = s.lvc := rfl
@[simp] theorem noteRefuse_chg (k : Nat) (s : State) : (noteRefuse k s).chg = s.chg := rfl
@[simp] theorem noteRefuse_thm (k : Nat) (s : State) : (noteRefuse k s).thm = s.thm := rfl
@[simp] theorem noteRefuse_act (k : Nat) (s : State) : (noteRefuse k s).act = s.act := rfl
@[simp] theorem noteRefuse_saf (k : Nat) (s : State) : (noteRefuse k s).saf = s.saf := rfl
@[simp] theorem noteRefuse_lks (k : Nat) (s : State) : (noteRefuse k s).lks = s.lks := rfl
@[simp] theorem noteRefuse_pq (k : Nat) (s : State) : (noteRefuse k s).pq = s.pq := rfl
@[simp] theorem noteRefuse_pqSeen (k : Nat) (s : State) : (noteRefuse k s).pqSeen = s.pqSeen := rfl
@[simp] theorem noteRefuse_fab (k : Nat) (s : State) : (noteRefuse k s).fab = s.fab := rfl
@[simp] theorem noteRefuse_pair (k : Nat) (s : State) : (noteRefuse k s).pair = s.pair := rfl
@[simp] theorem noteRefuse_vif (k : Nat) (s : State) : (noteRefuse k s).vif = s.vif := rfl
@[simp] theorem noteRefuse_veh (k : Nat) (s : State) : (noteRefuse k s).veh = { s.veh with refuse := k, refuseMs := 1000 } := rfl
@[simp] theorem noteRefuse_uds (k : Nat) (s : State) : (noteRefuse k s).uds = s.uds := rfl
@[simp] theorem noteRefuse_out (k : Nat) (s : State) : (noteRefuse k s).out = s.out := rfl
@[simp] theorem noteRefuse_sec (k : Nat) (s : State) : (noteRefuse k s).sec = s.sec := rfl
@[simp] theorem noteRefuse_otp (k : Nat) (s : State) : (noteRefuse k s).otp = s.otp := rfl
@[simp] theorem noteRefuse_freeIx (k : Nat) (s : State) : (noteRefuse k s).freeIx = s.freeIx := rfl
@[simp] theorem noteRefuse_pending (k : Nat) (s : State) : (noteRefuse k s).pending = s.pending := rfl

/-! ## setResult -/

@[simp] theorem setResult_mer (k : Nat) (b : List Byte) (s : State) : (setResult k b s).mer = s.mer := rfl
@[simp] theorem setResult_pwm (k : Nat) (b : List Byte) (s : State) : (setResult k b s).pwm = s.pwm := rfl
@[simp] theorem setResult_orr (k : Nat) (b : List Byte) (s : State) : (setResult k b s).orr = s.orr := rfl
@[simp] theorem setResult_octl (k : Nat) (b : List Byte) (s : State) : (setResult k b s).octl = s.octl := rfl
@[simp] theorem setResult_oview (k : Nat) (b : List Byte) (s : State) : (setResult k b s).oview = s.oview := rfl
@[simp] theorem setResult_otgt (k : Nat) (b : List Byte) (s : State) : (setResult k b s).otgt = s.otgt := rfl
@[simp] theorem setResult_tm (k : Nat) (b : List Byte) (s : State) : (setResult k b s).tm = s.tm := rfl
@[simp] theorem setResult_dc (k : Nat) (b : List Byte) (s : State) : (setResult k b s).dc = s.dc := rfl
@[simp] theorem setResult_ss (k : Nat) (b : List Byte) (s : State) : (setResult k b s).ss = s.ss := rfl
@[simp] theorem setResult_ssDisagree (k : Nat) (b : List Byte) (s : State) : (setResult k b s).ssDisagree = s.ssDisagree := rfl
@[simp] theorem setResult_ssTrials (k : Nat) (b : List Byte) (s : State) : (setResult k b s).ssTrials = s.ssTrials := rfl
@[simp] theorem setResult_pos (k : Nat) (b : List Byte) (s : State) : (setResult k b s).pos = s.pos := rfl
@[simp] theorem setResult_edge (k : Nat) (b : List Byte) (s : State) : (setResult k b s).edge = s.edge := rfl
@[simp] theorem setResult_res (k : Nat) (b : List Byte) (s : State) : (setResult k b s).res = s.res := rfl
@[simp] theorem setResult_cal (k : Nat) (b : List Byte) (s : State) : (setResult k b s).cal = s.cal := rfl
@[simp] theorem setResult_sent (k : Nat) (b : List Byte) (s : State) : (setResult k b s).sent = s.sent := rfl
@[simp] theorem setResult_em (k : Nat) (b : List Byte) (s : State) : (setResult k b s).em = s.em := rfl
@[simp] theorem setResult_gd (k : Nat) (b : List Byte) (s : State) : (setResult k b s).gd = s.gd := rfl
@[simp] theorem setResult_grid (k : Nat) (b : List Byte) (s : State) : (setResult k b s).grid = s.grid := rfl
@[simp] theorem setResult_pfc (k : Nat) (b : List Byte) (s : State) : (setResult k b s).pfc = s.pfc := rfl
@[simp] theorem setResult_dab (k : Nat) (b : List Byte) (s : State) : (setResult k b s).dab = s.dab := rfl
@[simp] theorem setResult_obcT (k : Nat) (b : List Byte) (s : State) : (setResult k b s).obcT = s.obcT := rfl
@[simp] theorem setResult_sys (k : Nat) (b : List Byte) (s : State) : (setResult k b s).sys = s.sys := rfl
@[simp] theorem setResult_sup (k : Nat) (b : List Byte) (s : State) : (setResult k b s).sup = s.sup := rfl
@[simp] theorem setResult_ka (k : Nat) (b : List Byte) (s : State) : (setResult k b s).ka = s.ka := rfl
@[simp] theorem setResult_faults (k : Nat) (b : List Byte) (s : State) : (setResult k b s).faults = s.faults := rfl
@[simp] theorem setResult_log (k : Nat) (b : List Byte) (s : State) : (setResult k b s).log = s.log := rfl
@[simp] theorem setResult_flash (k : Nat) (b : List Byte) (s : State) : (setResult k b s).flash = s.flash := rfl
@[simp] theorem setResult_ops (k : Nat) (b : List Byte) (s : State) : (setResult k b s).ops = s.ops := rfl
@[simp] theorem setResult_cat (k : Nat) (b : List Byte) (s : State) : (setResult k b s).cat = s.cat := rfl
@[simp] theorem setResult_lvc (k : Nat) (b : List Byte) (s : State) : (setResult k b s).lvc = s.lvc := rfl
@[simp] theorem setResult_chg (k : Nat) (b : List Byte) (s : State) : (setResult k b s).chg = s.chg := rfl
@[simp] theorem setResult_thm (k : Nat) (b : List Byte) (s : State) : (setResult k b s).thm = s.thm := rfl
@[simp] theorem setResult_act (k : Nat) (b : List Byte) (s : State) : (setResult k b s).act = s.act := rfl
@[simp] theorem setResult_saf (k : Nat) (b : List Byte) (s : State) : (setResult k b s).saf = s.saf := rfl
@[simp] theorem setResult_lks (k : Nat) (b : List Byte) (s : State) : (setResult k b s).lks = s.lks := rfl
@[simp] theorem setResult_pq (k : Nat) (b : List Byte) (s : State) : (setResult k b s).pq = s.pq := rfl
@[simp] theorem setResult_pqSeen (k : Nat) (b : List Byte) (s : State) : (setResult k b s).pqSeen = s.pqSeen := rfl
@[simp] theorem setResult_fab (k : Nat) (b : List Byte) (s : State) : (setResult k b s).fab = s.fab := rfl
@[simp] theorem setResult_pair (k : Nat) (b : List Byte) (s : State) : (setResult k b s).pair = s.pair := rfl
@[simp] theorem setResult_vif (k : Nat) (b : List Byte) (s : State) : (setResult k b s).vif = s.vif := rfl
@[simp] theorem setResult_veh (k : Nat) (b : List Byte) (s : State) : (setResult k b s).veh = s.veh := rfl
@[simp] theorem setResult_uds (k : Nat) (b : List Byte) (s : State) : (setResult k b s).uds = { s.uds with results := (k, b) :: s.uds.results.filter (fun r => decide (r.1 ≠ k)) } := rfl
@[simp] theorem setResult_out (k : Nat) (b : List Byte) (s : State) : (setResult k b s).out = s.out := rfl
@[simp] theorem setResult_sec (k : Nat) (b : List Byte) (s : State) : (setResult k b s).sec = s.sec := rfl
@[simp] theorem setResult_otp (k : Nat) (b : List Byte) (s : State) : (setResult k b s).otp = s.otp := rfl
@[simp] theorem setResult_freeIx (k : Nat) (b : List Byte) (s : State) : (setResult k b s).freeIx = s.freeIx := rfl
@[simp] theorem setResult_pending (k : Nat) (b : List Byte) (s : State) : (setResult k b s).pending = s.pending := rfl

/-! ## updSi -/

@[simp] theorem updSi_mer (n : SiN) (f : SiSt → SiSt) (s : State) : (updSi n f s).mer = s.mer := rfl
@[simp] theorem updSi_pwm (n : SiN) (f : SiSt → SiSt) (s : State) : (updSi n f s).pwm = s.pwm := rfl
@[simp] theorem updSi_orr (n : SiN) (f : SiSt → SiSt) (s : State) : (updSi n f s).orr = s.orr := rfl
@[simp] theorem updSi_octl (n : SiN) (f : SiSt → SiSt) (s : State) : (updSi n f s).octl = s.octl := rfl
@[simp] theorem updSi_oview (n : SiN) (f : SiSt → SiSt) (s : State) : (updSi n f s).oview = s.oview := rfl
@[simp] theorem updSi_otgt (n : SiN) (f : SiSt → SiSt) (s : State) : (updSi n f s).otgt = s.otgt := rfl
@[simp] theorem updSi_tm (n : SiN) (f : SiSt → SiSt) (s : State) : (updSi n f s).tm = s.tm := rfl
@[simp] theorem updSi_dc (n : SiN) (f : SiSt → SiSt) (s : State) : (updSi n f s).dc = s.dc := rfl
@[simp] theorem updSi_ss (n : SiN) (f : SiSt → SiSt) (s : State) : (updSi n f s).ss = s.ss := rfl
@[simp] theorem updSi_ssDisagree (n : SiN) (f : SiSt → SiSt) (s : State) : (updSi n f s).ssDisagree = s.ssDisagree := rfl
@[simp] theorem updSi_ssTrials (n : SiN) (f : SiSt → SiSt) (s : State) : (updSi n f s).ssTrials = s.ssTrials := rfl
@[simp] theorem updSi_pos (n : SiN) (f : SiSt → SiSt) (s : State) : (updSi n f s).pos = s.pos := rfl
@[simp] theorem updSi_edge (n : SiN) (f : SiSt → SiSt) (s : State) : (updSi n f s).edge = s.edge := rfl
@[simp] theorem updSi_res (n : SiN) (f : SiSt → SiSt) (s : State) : (updSi n f s).res = s.res := rfl
@[simp] theorem updSi_cal (n : SiN) (f : SiSt → SiSt) (s : State) : (updSi n f s).cal = s.cal := rfl
@[simp] theorem updSi_sent (n : SiN) (f : SiSt → SiSt) (s : State) : (updSi n f s).sent = s.sent := rfl
@[simp] theorem updSi_em (n : SiN) (f : SiSt → SiSt) (s : State) : (updSi n f s).em = s.em := rfl
@[simp] theorem updSi_gd (n : SiN) (f : SiSt → SiSt) (s : State) : (updSi n f s).gd = s.gd := rfl
@[simp] theorem updSi_grid (n : SiN) (f : SiSt → SiSt) (s : State) : (updSi n f s).grid = s.grid := rfl
@[simp] theorem updSi_pfc (n : SiN) (f : SiSt → SiSt) (s : State) : (updSi n f s).pfc = s.pfc := rfl
@[simp] theorem updSi_dab (n : SiN) (f : SiSt → SiSt) (s : State) : (updSi n f s).dab = s.dab := rfl
@[simp] theorem updSi_obcT (n : SiN) (f : SiSt → SiSt) (s : State) : (updSi n f s).obcT = s.obcT := rfl
@[simp] theorem updSi_sys (n : SiN) (f : SiSt → SiSt) (s : State) : (updSi n f s).sys = s.sys := rfl
@[simp] theorem updSi_sup (n : SiN) (f : SiSt → SiSt) (s : State) : (updSi n f s).sup = s.sup := rfl
@[simp] theorem updSi_ka (n : SiN) (f : SiSt → SiSt) (s : State) : (updSi n f s).ka = s.ka := rfl
@[simp] theorem updSi_faults (n : SiN) (f : SiSt → SiSt) (s : State) : (updSi n f s).faults = s.faults := rfl
@[simp] theorem updSi_log (n : SiN) (f : SiSt → SiSt) (s : State) : (updSi n f s).log = s.log := rfl
@[simp] theorem updSi_flash (n : SiN) (f : SiSt → SiSt) (s : State) : (updSi n f s).flash = s.flash := rfl
@[simp] theorem updSi_ops (n : SiN) (f : SiSt → SiSt) (s : State) : (updSi n f s).ops = s.ops := rfl
@[simp] theorem updSi_cat (n : SiN) (f : SiSt → SiSt) (s : State) : (updSi n f s).cat = s.cat := rfl
@[simp] theorem updSi_lvc (n : SiN) (f : SiSt → SiSt) (s : State) : (updSi n f s).lvc = s.lvc := rfl
@[simp] theorem updSi_chg (n : SiN) (f : SiSt → SiSt) (s : State) : (updSi n f s).chg = s.chg := rfl
@[simp] theorem updSi_thm (n : SiN) (f : SiSt → SiSt) (s : State) : (updSi n f s).thm = s.thm := rfl
@[simp] theorem updSi_act (n : SiN) (f : SiSt → SiSt) (s : State) : (updSi n f s).act = s.act := rfl
@[simp] theorem updSi_saf (n : SiN) (f : SiSt → SiSt) (s : State) : (updSi n f s).saf = { s.saf with si := s.saf.si.upd n f } := rfl
@[simp] theorem updSi_lks (n : SiN) (f : SiSt → SiSt) (s : State) : (updSi n f s).lks = s.lks := rfl
@[simp] theorem updSi_pq (n : SiN) (f : SiSt → SiSt) (s : State) : (updSi n f s).pq = s.pq := rfl
@[simp] theorem updSi_pqSeen (n : SiN) (f : SiSt → SiSt) (s : State) : (updSi n f s).pqSeen = s.pqSeen := rfl
@[simp] theorem updSi_fab (n : SiN) (f : SiSt → SiSt) (s : State) : (updSi n f s).fab = s.fab := rfl
@[simp] theorem updSi_pair (n : SiN) (f : SiSt → SiSt) (s : State) : (updSi n f s).pair = s.pair := rfl
@[simp] theorem updSi_vif (n : SiN) (f : SiSt → SiSt) (s : State) : (updSi n f s).vif = s.vif := rfl
@[simp] theorem updSi_veh (n : SiN) (f : SiSt → SiSt) (s : State) : (updSi n f s).veh = s.veh := rfl
@[simp] theorem updSi_uds (n : SiN) (f : SiSt → SiSt) (s : State) : (updSi n f s).uds = s.uds := rfl
@[simp] theorem updSi_out (n : SiN) (f : SiSt → SiSt) (s : State) : (updSi n f s).out = s.out := rfl
@[simp] theorem updSi_sec (n : SiN) (f : SiSt → SiSt) (s : State) : (updSi n f s).sec = s.sec := rfl
@[simp] theorem updSi_otp (n : SiN) (f : SiSt → SiSt) (s : State) : (updSi n f s).otp = s.otp := rfl
@[simp] theorem updSi_freeIx (n : SiN) (f : SiSt → SiSt) (s : State) : (updSi n f s).freeIx = s.freeIx := rfl
@[simp] theorem updSi_pending (n : SiN) (f : SiSt → SiSt) (s : State) : (updSi n f s).pending = s.pending := rfl

/-! ## updPair -/

@[simp] theorem updPair_mer (p : LPair) (f : PairSt → PairSt) (s : State) : (updPair p f s).mer = s.mer := rfl
@[simp] theorem updPair_pwm (p : LPair) (f : PairSt → PairSt) (s : State) : (updPair p f s).pwm = s.pwm := rfl
@[simp] theorem updPair_orr (p : LPair) (f : PairSt → PairSt) (s : State) : (updPair p f s).orr = s.orr := rfl
@[simp] theorem updPair_octl (p : LPair) (f : PairSt → PairSt) (s : State) : (updPair p f s).octl = s.octl := rfl
@[simp] theorem updPair_oview (p : LPair) (f : PairSt → PairSt) (s : State) : (updPair p f s).oview = s.oview := rfl
@[simp] theorem updPair_otgt (p : LPair) (f : PairSt → PairSt) (s : State) : (updPair p f s).otgt = s.otgt := rfl
@[simp] theorem updPair_tm (p : LPair) (f : PairSt → PairSt) (s : State) : (updPair p f s).tm = s.tm := rfl
@[simp] theorem updPair_dc (p : LPair) (f : PairSt → PairSt) (s : State) : (updPair p f s).dc = s.dc := rfl
@[simp] theorem updPair_ss (p : LPair) (f : PairSt → PairSt) (s : State) : (updPair p f s).ss = s.ss := rfl
@[simp] theorem updPair_ssDisagree (p : LPair) (f : PairSt → PairSt) (s : State) : (updPair p f s).ssDisagree = s.ssDisagree := rfl
@[simp] theorem updPair_ssTrials (p : LPair) (f : PairSt → PairSt) (s : State) : (updPair p f s).ssTrials = s.ssTrials := rfl
@[simp] theorem updPair_pos (p : LPair) (f : PairSt → PairSt) (s : State) : (updPair p f s).pos = s.pos := rfl
@[simp] theorem updPair_edge (p : LPair) (f : PairSt → PairSt) (s : State) : (updPair p f s).edge = s.edge := rfl
@[simp] theorem updPair_res (p : LPair) (f : PairSt → PairSt) (s : State) : (updPair p f s).res = s.res := rfl
@[simp] theorem updPair_cal (p : LPair) (f : PairSt → PairSt) (s : State) : (updPair p f s).cal = s.cal := rfl
@[simp] theorem updPair_sent (p : LPair) (f : PairSt → PairSt) (s : State) : (updPair p f s).sent = s.sent := rfl
@[simp] theorem updPair_em (p : LPair) (f : PairSt → PairSt) (s : State) : (updPair p f s).em = s.em := rfl
@[simp] theorem updPair_gd (p : LPair) (f : PairSt → PairSt) (s : State) : (updPair p f s).gd = s.gd := rfl
@[simp] theorem updPair_grid (p : LPair) (f : PairSt → PairSt) (s : State) : (updPair p f s).grid = s.grid := rfl
@[simp] theorem updPair_pfc (p : LPair) (f : PairSt → PairSt) (s : State) : (updPair p f s).pfc = s.pfc := rfl
@[simp] theorem updPair_dab (p : LPair) (f : PairSt → PairSt) (s : State) : (updPair p f s).dab = s.dab := rfl
@[simp] theorem updPair_obcT (p : LPair) (f : PairSt → PairSt) (s : State) : (updPair p f s).obcT = s.obcT := rfl
@[simp] theorem updPair_sys (p : LPair) (f : PairSt → PairSt) (s : State) : (updPair p f s).sys = s.sys := rfl
@[simp] theorem updPair_sup (p : LPair) (f : PairSt → PairSt) (s : State) : (updPair p f s).sup = s.sup := rfl
@[simp] theorem updPair_ka (p : LPair) (f : PairSt → PairSt) (s : State) : (updPair p f s).ka = s.ka := rfl
@[simp] theorem updPair_faults (p : LPair) (f : PairSt → PairSt) (s : State) : (updPair p f s).faults = s.faults := rfl
@[simp] theorem updPair_log (p : LPair) (f : PairSt → PairSt) (s : State) : (updPair p f s).log = s.log := rfl
@[simp] theorem updPair_flash (p : LPair) (f : PairSt → PairSt) (s : State) : (updPair p f s).flash = s.flash := rfl
@[simp] theorem updPair_ops (p : LPair) (f : PairSt → PairSt) (s : State) : (updPair p f s).ops = s.ops := rfl
@[simp] theorem updPair_cat (p : LPair) (f : PairSt → PairSt) (s : State) : (updPair p f s).cat = s.cat := rfl
@[simp] theorem updPair_lvc (p : LPair) (f : PairSt → PairSt) (s : State) : (updPair p f s).lvc = s.lvc := rfl
@[simp] theorem updPair_chg (p : LPair) (f : PairSt → PairSt) (s : State) : (updPair p f s).chg = s.chg := rfl
@[simp] theorem updPair_thm (p : LPair) (f : PairSt → PairSt) (s : State) : (updPair p f s).thm = s.thm := rfl
@[simp] theorem updPair_act (p : LPair) (f : PairSt → PairSt) (s : State) : (updPair p f s).act = s.act := rfl
@[simp] theorem updPair_saf (p : LPair) (f : PairSt → PairSt) (s : State) : (updPair p f s).saf = s.saf := rfl
@[simp] theorem updPair_lks (p : LPair) (f : PairSt → PairSt) (s : State) : (updPair p f s).lks = { s.lks with pairs := s.lks.pairs.upd p f } := rfl
@[simp] theorem updPair_pq (p : LPair) (f : PairSt → PairSt) (s : State) : (updPair p f s).pq = s.pq := rfl
@[simp] theorem updPair_pqSeen (p : LPair) (f : PairSt → PairSt) (s : State) : (updPair p f s).pqSeen = s.pqSeen := rfl
@[simp] theorem updPair_fab (p : LPair) (f : PairSt → PairSt) (s : State) : (updPair p f s).fab = s.fab := rfl
@[simp] theorem updPair_pair (p : LPair) (f : PairSt → PairSt) (s : State) : (updPair p f s).pair = s.pair := rfl
@[simp] theorem updPair_vif (p : LPair) (f : PairSt → PairSt) (s : State) : (updPair p f s).vif = s.vif := rfl
@[simp] theorem updPair_veh (p : LPair) (f : PairSt → PairSt) (s : State) : (updPair p f s).veh = s.veh := rfl
@[simp] theorem updPair_uds (p : LPair) (f : PairSt → PairSt) (s : State) : (updPair p f s).uds = s.uds := rfl
@[simp] theorem updPair_out (p : LPair) (f : PairSt → PairSt) (s : State) : (updPair p f s).out = s.out := rfl
@[simp] theorem updPair_sec (p : LPair) (f : PairSt → PairSt) (s : State) : (updPair p f s).sec = s.sec := rfl
@[simp] theorem updPair_otp (p : LPair) (f : PairSt → PairSt) (s : State) : (updPair p f s).otp = s.otp := rfl
@[simp] theorem updPair_freeIx (p : LPair) (f : PairSt → PairSt) (s : State) : (updPair p f s).freeIx = s.freeIx := rfl
@[simp] theorem updPair_pending (p : LPair) (f : PairSt → PairSt) (s : State) : (updPair p f s).pending = s.pending := rfl

/-! ## updQ -/

@[simp] theorem updQ_mer (q : QId) (f : PQueue → PQueue) (s : State) : (updQ q f s).mer = s.mer := rfl
@[simp] theorem updQ_pwm (q : QId) (f : PQueue → PQueue) (s : State) : (updQ q f s).pwm = s.pwm := rfl
@[simp] theorem updQ_orr (q : QId) (f : PQueue → PQueue) (s : State) : (updQ q f s).orr = s.orr := rfl
@[simp] theorem updQ_octl (q : QId) (f : PQueue → PQueue) (s : State) : (updQ q f s).octl = s.octl := rfl
@[simp] theorem updQ_oview (q : QId) (f : PQueue → PQueue) (s : State) : (updQ q f s).oview = s.oview := rfl
@[simp] theorem updQ_otgt (q : QId) (f : PQueue → PQueue) (s : State) : (updQ q f s).otgt = s.otgt := rfl
@[simp] theorem updQ_tm (q : QId) (f : PQueue → PQueue) (s : State) : (updQ q f s).tm = s.tm := rfl
@[simp] theorem updQ_dc (q : QId) (f : PQueue → PQueue) (s : State) : (updQ q f s).dc = s.dc := rfl
@[simp] theorem updQ_ss (q : QId) (f : PQueue → PQueue) (s : State) : (updQ q f s).ss = s.ss := rfl
@[simp] theorem updQ_ssDisagree (q : QId) (f : PQueue → PQueue) (s : State) : (updQ q f s).ssDisagree = s.ssDisagree := rfl
@[simp] theorem updQ_ssTrials (q : QId) (f : PQueue → PQueue) (s : State) : (updQ q f s).ssTrials = s.ssTrials := rfl
@[simp] theorem updQ_pos (q : QId) (f : PQueue → PQueue) (s : State) : (updQ q f s).pos = s.pos := rfl
@[simp] theorem updQ_edge (q : QId) (f : PQueue → PQueue) (s : State) : (updQ q f s).edge = s.edge := rfl
@[simp] theorem updQ_res (q : QId) (f : PQueue → PQueue) (s : State) : (updQ q f s).res = s.res := rfl
@[simp] theorem updQ_cal (q : QId) (f : PQueue → PQueue) (s : State) : (updQ q f s).cal = s.cal := rfl
@[simp] theorem updQ_sent (q : QId) (f : PQueue → PQueue) (s : State) : (updQ q f s).sent = s.sent := rfl
@[simp] theorem updQ_em (q : QId) (f : PQueue → PQueue) (s : State) : (updQ q f s).em = s.em := rfl
@[simp] theorem updQ_gd (q : QId) (f : PQueue → PQueue) (s : State) : (updQ q f s).gd = s.gd := rfl
@[simp] theorem updQ_grid (q : QId) (f : PQueue → PQueue) (s : State) : (updQ q f s).grid = s.grid := rfl
@[simp] theorem updQ_pfc (q : QId) (f : PQueue → PQueue) (s : State) : (updQ q f s).pfc = s.pfc := rfl
@[simp] theorem updQ_dab (q : QId) (f : PQueue → PQueue) (s : State) : (updQ q f s).dab = s.dab := rfl
@[simp] theorem updQ_obcT (q : QId) (f : PQueue → PQueue) (s : State) : (updQ q f s).obcT = s.obcT := rfl
@[simp] theorem updQ_sys (q : QId) (f : PQueue → PQueue) (s : State) : (updQ q f s).sys = s.sys := rfl
@[simp] theorem updQ_sup (q : QId) (f : PQueue → PQueue) (s : State) : (updQ q f s).sup = s.sup := rfl
@[simp] theorem updQ_ka (q : QId) (f : PQueue → PQueue) (s : State) : (updQ q f s).ka = s.ka := rfl
@[simp] theorem updQ_faults (q : QId) (f : PQueue → PQueue) (s : State) : (updQ q f s).faults = s.faults := rfl
@[simp] theorem updQ_log (q : QId) (f : PQueue → PQueue) (s : State) : (updQ q f s).log = s.log := rfl
@[simp] theorem updQ_flash (q : QId) (f : PQueue → PQueue) (s : State) : (updQ q f s).flash = s.flash := rfl
@[simp] theorem updQ_ops (q : QId) (f : PQueue → PQueue) (s : State) : (updQ q f s).ops = s.ops := rfl
@[simp] theorem updQ_cat (q : QId) (f : PQueue → PQueue) (s : State) : (updQ q f s).cat = s.cat := rfl
@[simp] theorem updQ_lvc (q : QId) (f : PQueue → PQueue) (s : State) : (updQ q f s).lvc = s.lvc := rfl
@[simp] theorem updQ_chg (q : QId) (f : PQueue → PQueue) (s : State) : (updQ q f s).chg = s.chg := rfl
@[simp] theorem updQ_thm (q : QId) (f : PQueue → PQueue) (s : State) : (updQ q f s).thm = s.thm := rfl
@[simp] theorem updQ_act (q : QId) (f : PQueue → PQueue) (s : State) : (updQ q f s).act = s.act := rfl
@[simp] theorem updQ_saf (q : QId) (f : PQueue → PQueue) (s : State) : (updQ q f s).saf = s.saf := rfl
@[simp] theorem updQ_lks (q : QId) (f : PQueue → PQueue) (s : State) : (updQ q f s).lks = s.lks := rfl
@[simp] theorem updQ_pq (q : QId) (f : PQueue → PQueue) (s : State) : (updQ q f s).pq = s.pq.upd q f := rfl
@[simp] theorem updQ_pqSeen (q : QId) (f : PQueue → PQueue) (s : State) : (updQ q f s).pqSeen = s.pqSeen := rfl
@[simp] theorem updQ_fab (q : QId) (f : PQueue → PQueue) (s : State) : (updQ q f s).fab = s.fab := rfl
@[simp] theorem updQ_pair (q : QId) (f : PQueue → PQueue) (s : State) : (updQ q f s).pair = s.pair := rfl
@[simp] theorem updQ_vif (q : QId) (f : PQueue → PQueue) (s : State) : (updQ q f s).vif = s.vif := rfl
@[simp] theorem updQ_veh (q : QId) (f : PQueue → PQueue) (s : State) : (updQ q f s).veh = s.veh := rfl
@[simp] theorem updQ_uds (q : QId) (f : PQueue → PQueue) (s : State) : (updQ q f s).uds = s.uds := rfl
@[simp] theorem updQ_out (q : QId) (f : PQueue → PQueue) (s : State) : (updQ q f s).out = s.out := rfl
@[simp] theorem updQ_sec (q : QId) (f : PQueue → PQueue) (s : State) : (updQ q f s).sec = s.sec := rfl
@[simp] theorem updQ_otp (q : QId) (f : PQueue → PQueue) (s : State) : (updQ q f s).otp = s.otp := rfl
@[simp] theorem updQ_freeIx (q : QId) (f : PQueue → PQueue) (s : State) : (updQ q f s).freeIx = s.freeIx := rfl
@[simp] theorem updQ_pending (q : QId) (f : PQueue → PQueue) (s : State) : (updQ q f s).pending = s.pending := rfl

/-! ## updPort -/

@[simp] theorem updPort_mer (p : Port) (f : FabPort → FabPort) (s : State) : (updPort p f s).mer = s.mer := rfl
@[simp] theorem updPort_pwm (p : Port) (f : FabPort → FabPort) (s : State) : (updPort p f s).pwm = s.pwm := rfl
@[simp] theorem updPort_orr (p : Port) (f : FabPort → FabPort) (s : State) : (updPort p f s).orr = s.orr := rfl
@[simp] theorem updPort_octl (p : Port) (f : FabPort → FabPort) (s : State) : (updPort p f s).octl = s.octl := rfl
@[simp] theorem updPort_oview (p : Port) (f : FabPort → FabPort) (s : State) : (updPort p f s).oview = s.oview := rfl
@[simp] theorem updPort_otgt (p : Port) (f : FabPort → FabPort) (s : State) : (updPort p f s).otgt = s.otgt := rfl
@[simp] theorem updPort_tm (p : Port) (f : FabPort → FabPort) (s : State) : (updPort p f s).tm = s.tm := rfl
@[simp] theorem updPort_dc (p : Port) (f : FabPort → FabPort) (s : State) : (updPort p f s).dc = s.dc := rfl
@[simp] theorem updPort_ss (p : Port) (f : FabPort → FabPort) (s : State) : (updPort p f s).ss = s.ss := rfl
@[simp] theorem updPort_ssDisagree (p : Port) (f : FabPort → FabPort) (s : State) : (updPort p f s).ssDisagree = s.ssDisagree := rfl
@[simp] theorem updPort_ssTrials (p : Port) (f : FabPort → FabPort) (s : State) : (updPort p f s).ssTrials = s.ssTrials := rfl
@[simp] theorem updPort_pos (p : Port) (f : FabPort → FabPort) (s : State) : (updPort p f s).pos = s.pos := rfl
@[simp] theorem updPort_edge (p : Port) (f : FabPort → FabPort) (s : State) : (updPort p f s).edge = s.edge := rfl
@[simp] theorem updPort_res (p : Port) (f : FabPort → FabPort) (s : State) : (updPort p f s).res = s.res := rfl
@[simp] theorem updPort_cal (p : Port) (f : FabPort → FabPort) (s : State) : (updPort p f s).cal = s.cal := rfl
@[simp] theorem updPort_sent (p : Port) (f : FabPort → FabPort) (s : State) : (updPort p f s).sent = s.sent := rfl
@[simp] theorem updPort_em (p : Port) (f : FabPort → FabPort) (s : State) : (updPort p f s).em = s.em := rfl
@[simp] theorem updPort_gd (p : Port) (f : FabPort → FabPort) (s : State) : (updPort p f s).gd = s.gd := rfl
@[simp] theorem updPort_grid (p : Port) (f : FabPort → FabPort) (s : State) : (updPort p f s).grid = s.grid := rfl
@[simp] theorem updPort_pfc (p : Port) (f : FabPort → FabPort) (s : State) : (updPort p f s).pfc = s.pfc := rfl
@[simp] theorem updPort_dab (p : Port) (f : FabPort → FabPort) (s : State) : (updPort p f s).dab = s.dab := rfl
@[simp] theorem updPort_obcT (p : Port) (f : FabPort → FabPort) (s : State) : (updPort p f s).obcT = s.obcT := rfl
@[simp] theorem updPort_sys (p : Port) (f : FabPort → FabPort) (s : State) : (updPort p f s).sys = s.sys := rfl
@[simp] theorem updPort_sup (p : Port) (f : FabPort → FabPort) (s : State) : (updPort p f s).sup = s.sup := rfl
@[simp] theorem updPort_ka (p : Port) (f : FabPort → FabPort) (s : State) : (updPort p f s).ka = s.ka := rfl
@[simp] theorem updPort_faults (p : Port) (f : FabPort → FabPort) (s : State) : (updPort p f s).faults = s.faults := rfl
@[simp] theorem updPort_log (p : Port) (f : FabPort → FabPort) (s : State) : (updPort p f s).log = s.log := rfl
@[simp] theorem updPort_flash (p : Port) (f : FabPort → FabPort) (s : State) : (updPort p f s).flash = s.flash := rfl
@[simp] theorem updPort_ops (p : Port) (f : FabPort → FabPort) (s : State) : (updPort p f s).ops = s.ops := rfl
@[simp] theorem updPort_cat (p : Port) (f : FabPort → FabPort) (s : State) : (updPort p f s).cat = s.cat := rfl
@[simp] theorem updPort_lvc (p : Port) (f : FabPort → FabPort) (s : State) : (updPort p f s).lvc = s.lvc := rfl
@[simp] theorem updPort_chg (p : Port) (f : FabPort → FabPort) (s : State) : (updPort p f s).chg = s.chg := rfl
@[simp] theorem updPort_thm (p : Port) (f : FabPort → FabPort) (s : State) : (updPort p f s).thm = s.thm := rfl
@[simp] theorem updPort_act (p : Port) (f : FabPort → FabPort) (s : State) : (updPort p f s).act = s.act := rfl
@[simp] theorem updPort_saf (p : Port) (f : FabPort → FabPort) (s : State) : (updPort p f s).saf = s.saf := rfl
@[simp] theorem updPort_lks (p : Port) (f : FabPort → FabPort) (s : State) : (updPort p f s).lks = s.lks := rfl
@[simp] theorem updPort_pq (p : Port) (f : FabPort → FabPort) (s : State) : (updPort p f s).pq = s.pq := rfl
@[simp] theorem updPort_pqSeen (p : Port) (f : FabPort → FabPort) (s : State) : (updPort p f s).pqSeen = s.pqSeen := rfl
@[simp] theorem updPort_fab (p : Port) (f : FabPort → FabPort) (s : State) : (updPort p f s).fab = { s.fab with ports := s.fab.ports.upd p f } := rfl
@[simp] theorem updPort_pair (p : Port) (f : FabPort → FabPort) (s : State) : (updPort p f s).pair = s.pair := rfl
@[simp] theorem updPort_vif (p : Port) (f : FabPort → FabPort) (s : State) : (updPort p f s).vif = s.vif := rfl
@[simp] theorem updPort_veh (p : Port) (f : FabPort → FabPort) (s : State) : (updPort p f s).veh = s.veh := rfl
@[simp] theorem updPort_uds (p : Port) (f : FabPort → FabPort) (s : State) : (updPort p f s).uds = s.uds := rfl
@[simp] theorem updPort_out (p : Port) (f : FabPort → FabPort) (s : State) : (updPort p f s).out = s.out := rfl
@[simp] theorem updPort_sec (p : Port) (f : FabPort → FabPort) (s : State) : (updPort p f s).sec = s.sec := rfl
@[simp] theorem updPort_otp (p : Port) (f : FabPort → FabPort) (s : State) : (updPort p f s).otp = s.otp := rfl
@[simp] theorem updPort_freeIx (p : Port) (f : FabPort → FabPort) (s : State) : (updPort p f s).freeIx = s.freeIx := rfl
@[simp] theorem updPort_pending (p : Port) (f : FabPort → FabPort) (s : State) : (updPort p f s).pending = s.pending := rfl

/-! ## updStream -/

@[simp] theorem updStream_mer (m : Fin 256) (f : Stream → Stream) (s : State) : (updStream m f s).mer = s.mer := rfl
@[simp] theorem updStream_pwm (m : Fin 256) (f : Stream → Stream) (s : State) : (updStream m f s).pwm = s.pwm := rfl
@[simp] theorem updStream_orr (m : Fin 256) (f : Stream → Stream) (s : State) : (updStream m f s).orr = s.orr := rfl
@[simp] theorem updStream_octl (m : Fin 256) (f : Stream → Stream) (s : State) : (updStream m f s).octl = s.octl := rfl
@[simp] theorem updStream_oview (m : Fin 256) (f : Stream → Stream) (s : State) : (updStream m f s).oview = s.oview := rfl
@[simp] theorem updStream_otgt (m : Fin 256) (f : Stream → Stream) (s : State) : (updStream m f s).otgt = s.otgt := rfl
@[simp] theorem updStream_tm (m : Fin 256) (f : Stream → Stream) (s : State) : (updStream m f s).tm = s.tm := rfl
@[simp] theorem updStream_dc (m : Fin 256) (f : Stream → Stream) (s : State) : (updStream m f s).dc = s.dc := rfl
@[simp] theorem updStream_ss (m : Fin 256) (f : Stream → Stream) (s : State) : (updStream m f s).ss = s.ss := rfl
@[simp] theorem updStream_ssDisagree (m : Fin 256) (f : Stream → Stream) (s : State) : (updStream m f s).ssDisagree = s.ssDisagree := rfl
@[simp] theorem updStream_ssTrials (m : Fin 256) (f : Stream → Stream) (s : State) : (updStream m f s).ssTrials = s.ssTrials := rfl
@[simp] theorem updStream_pos (m : Fin 256) (f : Stream → Stream) (s : State) : (updStream m f s).pos = s.pos := rfl
@[simp] theorem updStream_edge (m : Fin 256) (f : Stream → Stream) (s : State) : (updStream m f s).edge = s.edge := rfl
@[simp] theorem updStream_res (m : Fin 256) (f : Stream → Stream) (s : State) : (updStream m f s).res = s.res := rfl
@[simp] theorem updStream_cal (m : Fin 256) (f : Stream → Stream) (s : State) : (updStream m f s).cal = s.cal := rfl
@[simp] theorem updStream_sent (m : Fin 256) (f : Stream → Stream) (s : State) : (updStream m f s).sent = s.sent := rfl
@[simp] theorem updStream_em (m : Fin 256) (f : Stream → Stream) (s : State) : (updStream m f s).em = s.em := rfl
@[simp] theorem updStream_gd (m : Fin 256) (f : Stream → Stream) (s : State) : (updStream m f s).gd = s.gd := rfl
@[simp] theorem updStream_grid (m : Fin 256) (f : Stream → Stream) (s : State) : (updStream m f s).grid = s.grid := rfl
@[simp] theorem updStream_pfc (m : Fin 256) (f : Stream → Stream) (s : State) : (updStream m f s).pfc = s.pfc := rfl
@[simp] theorem updStream_dab (m : Fin 256) (f : Stream → Stream) (s : State) : (updStream m f s).dab = s.dab := rfl
@[simp] theorem updStream_obcT (m : Fin 256) (f : Stream → Stream) (s : State) : (updStream m f s).obcT = s.obcT := rfl
@[simp] theorem updStream_sys (m : Fin 256) (f : Stream → Stream) (s : State) : (updStream m f s).sys = s.sys := rfl
@[simp] theorem updStream_sup (m : Fin 256) (f : Stream → Stream) (s : State) : (updStream m f s).sup = s.sup := rfl
@[simp] theorem updStream_ka (m : Fin 256) (f : Stream → Stream) (s : State) : (updStream m f s).ka = s.ka := rfl
@[simp] theorem updStream_faults (m : Fin 256) (f : Stream → Stream) (s : State) : (updStream m f s).faults = s.faults := rfl
@[simp] theorem updStream_log (m : Fin 256) (f : Stream → Stream) (s : State) : (updStream m f s).log = s.log := rfl
@[simp] theorem updStream_flash (m : Fin 256) (f : Stream → Stream) (s : State) : (updStream m f s).flash = s.flash := rfl
@[simp] theorem updStream_ops (m : Fin 256) (f : Stream → Stream) (s : State) : (updStream m f s).ops = s.ops := rfl
@[simp] theorem updStream_cat (m : Fin 256) (f : Stream → Stream) (s : State) : (updStream m f s).cat = s.cat := rfl
@[simp] theorem updStream_lvc (m : Fin 256) (f : Stream → Stream) (s : State) : (updStream m f s).lvc = s.lvc := rfl
@[simp] theorem updStream_chg (m : Fin 256) (f : Stream → Stream) (s : State) : (updStream m f s).chg = s.chg := rfl
@[simp] theorem updStream_thm (m : Fin 256) (f : Stream → Stream) (s : State) : (updStream m f s).thm = s.thm := rfl
@[simp] theorem updStream_act (m : Fin 256) (f : Stream → Stream) (s : State) : (updStream m f s).act = s.act := rfl
@[simp] theorem updStream_saf (m : Fin 256) (f : Stream → Stream) (s : State) : (updStream m f s).saf = s.saf := rfl
@[simp] theorem updStream_lks (m : Fin 256) (f : Stream → Stream) (s : State) : (updStream m f s).lks = s.lks := rfl
@[simp] theorem updStream_pq (m : Fin 256) (f : Stream → Stream) (s : State) : (updStream m f s).pq = s.pq := rfl
@[simp] theorem updStream_pqSeen (m : Fin 256) (f : Stream → Stream) (s : State) : (updStream m f s).pqSeen = s.pqSeen := rfl
@[simp] theorem updStream_fab (m : Fin 256) (f : Stream → Stream) (s : State) : (updStream m f s).fab = s.fab := rfl
@[simp] theorem updStream_pair (m : Fin 256) (f : Stream → Stream) (s : State) : (updStream m f s).pair = s.pair := rfl
@[simp] theorem updStream_vif (m : Fin 256) (f : Stream → Stream) (s : State) : (updStream m f s).vif = { s.vif with streams := s.vif.streams.upd m f } := rfl
@[simp] theorem updStream_veh (m : Fin 256) (f : Stream → Stream) (s : State) : (updStream m f s).veh = s.veh := rfl
@[simp] theorem updStream_uds (m : Fin 256) (f : Stream → Stream) (s : State) : (updStream m f s).uds = s.uds := rfl
@[simp] theorem updStream_out (m : Fin 256) (f : Stream → Stream) (s : State) : (updStream m f s).out = s.out := rfl
@[simp] theorem updStream_sec (m : Fin 256) (f : Stream → Stream) (s : State) : (updStream m f s).sec = s.sec := rfl
@[simp] theorem updStream_otp (m : Fin 256) (f : Stream → Stream) (s : State) : (updStream m f s).otp = s.otp := rfl
@[simp] theorem updStream_freeIx (m : Fin 256) (f : Stream → Stream) (s : State) : (updStream m f s).freeIx = s.freeIx := rfl
@[simp] theorem updStream_pending (m : Fin 256) (f : Stream → Stream) (s : State) : (updStream m f s).pending = s.pending := rfl

/-! ## updCan -/

@[simp] theorem updCan_mer (n : Fin 2) (f : CanSt → CanSt) (s : State) : (updCan n f s).mer = s.mer := rfl
@[simp] theorem updCan_pwm (n : Fin 2) (f : CanSt → CanSt) (s : State) : (updCan n f s).pwm = s.pwm := rfl
@[simp] theorem updCan_orr (n : Fin 2) (f : CanSt → CanSt) (s : State) : (updCan n f s).orr = s.orr := rfl
@[simp] theorem updCan_octl (n : Fin 2) (f : CanSt → CanSt) (s : State) : (updCan n f s).octl = s.octl := rfl
@[simp] theorem updCan_oview (n : Fin 2) (f : CanSt → CanSt) (s : State) : (updCan n f s).oview = s.oview := rfl
@[simp] theorem updCan_otgt (n : Fin 2) (f : CanSt → CanSt) (s : State) : (updCan n f s).otgt = s.otgt := rfl
@[simp] theorem updCan_tm (n : Fin 2) (f : CanSt → CanSt) (s : State) : (updCan n f s).tm = s.tm := rfl
@[simp] theorem updCan_dc (n : Fin 2) (f : CanSt → CanSt) (s : State) : (updCan n f s).dc = s.dc := rfl
@[simp] theorem updCan_ss (n : Fin 2) (f : CanSt → CanSt) (s : State) : (updCan n f s).ss = s.ss := rfl
@[simp] theorem updCan_ssDisagree (n : Fin 2) (f : CanSt → CanSt) (s : State) : (updCan n f s).ssDisagree = s.ssDisagree := rfl
@[simp] theorem updCan_ssTrials (n : Fin 2) (f : CanSt → CanSt) (s : State) : (updCan n f s).ssTrials = s.ssTrials := rfl
@[simp] theorem updCan_pos (n : Fin 2) (f : CanSt → CanSt) (s : State) : (updCan n f s).pos = s.pos := rfl
@[simp] theorem updCan_edge (n : Fin 2) (f : CanSt → CanSt) (s : State) : (updCan n f s).edge = s.edge := rfl
@[simp] theorem updCan_res (n : Fin 2) (f : CanSt → CanSt) (s : State) : (updCan n f s).res = s.res := rfl
@[simp] theorem updCan_cal (n : Fin 2) (f : CanSt → CanSt) (s : State) : (updCan n f s).cal = s.cal := rfl
@[simp] theorem updCan_sent (n : Fin 2) (f : CanSt → CanSt) (s : State) : (updCan n f s).sent = s.sent := rfl
@[simp] theorem updCan_em (n : Fin 2) (f : CanSt → CanSt) (s : State) : (updCan n f s).em = s.em := rfl
@[simp] theorem updCan_gd (n : Fin 2) (f : CanSt → CanSt) (s : State) : (updCan n f s).gd = s.gd := rfl
@[simp] theorem updCan_grid (n : Fin 2) (f : CanSt → CanSt) (s : State) : (updCan n f s).grid = s.grid := rfl
@[simp] theorem updCan_pfc (n : Fin 2) (f : CanSt → CanSt) (s : State) : (updCan n f s).pfc = s.pfc := rfl
@[simp] theorem updCan_dab (n : Fin 2) (f : CanSt → CanSt) (s : State) : (updCan n f s).dab = s.dab := rfl
@[simp] theorem updCan_obcT (n : Fin 2) (f : CanSt → CanSt) (s : State) : (updCan n f s).obcT = s.obcT := rfl
@[simp] theorem updCan_sys (n : Fin 2) (f : CanSt → CanSt) (s : State) : (updCan n f s).sys = s.sys := rfl
@[simp] theorem updCan_sup (n : Fin 2) (f : CanSt → CanSt) (s : State) : (updCan n f s).sup = s.sup := rfl
@[simp] theorem updCan_ka (n : Fin 2) (f : CanSt → CanSt) (s : State) : (updCan n f s).ka = s.ka := rfl
@[simp] theorem updCan_faults (n : Fin 2) (f : CanSt → CanSt) (s : State) : (updCan n f s).faults = s.faults := rfl
@[simp] theorem updCan_log (n : Fin 2) (f : CanSt → CanSt) (s : State) : (updCan n f s).log = s.log := rfl
@[simp] theorem updCan_flash (n : Fin 2) (f : CanSt → CanSt) (s : State) : (updCan n f s).flash = s.flash := rfl
@[simp] theorem updCan_ops (n : Fin 2) (f : CanSt → CanSt) (s : State) : (updCan n f s).ops = s.ops := rfl
@[simp] theorem updCan_cat (n : Fin 2) (f : CanSt → CanSt) (s : State) : (updCan n f s).cat = s.cat := rfl
@[simp] theorem updCan_lvc (n : Fin 2) (f : CanSt → CanSt) (s : State) : (updCan n f s).lvc = s.lvc := rfl
@[simp] theorem updCan_chg (n : Fin 2) (f : CanSt → CanSt) (s : State) : (updCan n f s).chg = s.chg := rfl
@[simp] theorem updCan_thm (n : Fin 2) (f : CanSt → CanSt) (s : State) : (updCan n f s).thm = s.thm := rfl
@[simp] theorem updCan_act (n : Fin 2) (f : CanSt → CanSt) (s : State) : (updCan n f s).act = s.act := rfl
@[simp] theorem updCan_saf (n : Fin 2) (f : CanSt → CanSt) (s : State) : (updCan n f s).saf = s.saf := rfl
@[simp] theorem updCan_lks (n : Fin 2) (f : CanSt → CanSt) (s : State) : (updCan n f s).lks = s.lks := rfl
@[simp] theorem updCan_pq (n : Fin 2) (f : CanSt → CanSt) (s : State) : (updCan n f s).pq = s.pq := rfl
@[simp] theorem updCan_pqSeen (n : Fin 2) (f : CanSt → CanSt) (s : State) : (updCan n f s).pqSeen = s.pqSeen := rfl
@[simp] theorem updCan_fab (n : Fin 2) (f : CanSt → CanSt) (s : State) : (updCan n f s).fab = s.fab := rfl
@[simp] theorem updCan_pair (n : Fin 2) (f : CanSt → CanSt) (s : State) : (updCan n f s).pair = s.pair := rfl
@[simp] theorem updCan_vif (n : Fin 2) (f : CanSt → CanSt) (s : State) : (updCan n f s).vif = { s.vif with can := s.vif.can.upd n f } := rfl
@[simp] theorem updCan_veh (n : Fin 2) (f : CanSt → CanSt) (s : State) : (updCan n f s).veh = s.veh := rfl
@[simp] theorem updCan_uds (n : Fin 2) (f : CanSt → CanSt) (s : State) : (updCan n f s).uds = s.uds := rfl
@[simp] theorem updCan_out (n : Fin 2) (f : CanSt → CanSt) (s : State) : (updCan n f s).out = s.out := rfl
@[simp] theorem updCan_sec (n : Fin 2) (f : CanSt → CanSt) (s : State) : (updCan n f s).sec = s.sec := rfl
@[simp] theorem updCan_otp (n : Fin 2) (f : CanSt → CanSt) (s : State) : (updCan n f s).otp = s.otp := rfl
@[simp] theorem updCan_freeIx (n : Fin 2) (f : CanSt → CanSt) (s : State) : (updCan n f s).freeIx = s.freeIx := rfl
@[simp] theorem updCan_pending (n : Fin 2) (f : CanSt → CanSt) (s : State) : (updCan n f s).pending = s.pending := rfl

/-! ## setOsd -/

@[simp] theorem setOsd_mer (g : Stage) (k : Nat) (s : State) : (setOsd g k s).mer = s.mer := rfl
@[simp] theorem setOsd_pwm (g : Stage) (k : Nat) (s : State) : (setOsd g k s).pwm = s.pwm := rfl
@[simp] theorem setOsd_orr (g : Stage) (k : Nat) (s : State) : (setOsd g k s).orr = s.orr := rfl
@[simp] theorem setOsd_octl (g : Stage) (k : Nat) (s : State) : (setOsd g k s).octl = s.octl := rfl
@[simp] theorem setOsd_oview (g : Stage) (k : Nat) (s : State) : (setOsd g k s).oview = s.oview := rfl
@[simp] theorem setOsd_otgt (g : Stage) (k : Nat) (s : State) : (setOsd g k s).otgt = s.otgt := rfl
@[simp] theorem setOsd_tm (g : Stage) (k : Nat) (s : State) : (setOsd g k s).tm = s.tm := rfl
@[simp] theorem setOsd_dc (g : Stage) (k : Nat) (s : State) : (setOsd g k s).dc = s.dc := rfl
@[simp] theorem setOsd_ss (g : Stage) (k : Nat) (s : State) : (setOsd g k s).ss = s.ss := rfl
@[simp] theorem setOsd_ssDisagree (g : Stage) (k : Nat) (s : State) : (setOsd g k s).ssDisagree = s.ssDisagree := rfl
@[simp] theorem setOsd_ssTrials (g : Stage) (k : Nat) (s : State) : (setOsd g k s).ssTrials = s.ssTrials := rfl
@[simp] theorem setOsd_pos (g : Stage) (k : Nat) (s : State) : (setOsd g k s).pos = s.pos := rfl
@[simp] theorem setOsd_edge (g : Stage) (k : Nat) (s : State) : (setOsd g k s).edge = s.edge := rfl
@[simp] theorem setOsd_res (g : Stage) (k : Nat) (s : State) : (setOsd g k s).res = s.res := rfl
@[simp] theorem setOsd_cal (g : Stage) (k : Nat) (s : State) : (setOsd g k s).cal = s.cal := rfl
@[simp] theorem setOsd_sent (g : Stage) (k : Nat) (s : State) : (setOsd g k s).sent = s.sent := rfl
@[simp] theorem setOsd_em (g : Stage) (k : Nat) (s : State) : (setOsd g k s).em = s.em := rfl
@[simp] theorem setOsd_gd (g : Stage) (k : Nat) (s : State) : (setOsd g k s).gd = { s.gd with st := s.gd.st.upd g (fun y => { y with osd := k }) } := rfl
@[simp] theorem setOsd_grid (g : Stage) (k : Nat) (s : State) : (setOsd g k s).grid = s.grid := rfl
@[simp] theorem setOsd_pfc (g : Stage) (k : Nat) (s : State) : (setOsd g k s).pfc = s.pfc := rfl
@[simp] theorem setOsd_dab (g : Stage) (k : Nat) (s : State) : (setOsd g k s).dab = s.dab := rfl
@[simp] theorem setOsd_obcT (g : Stage) (k : Nat) (s : State) : (setOsd g k s).obcT = s.obcT := rfl
@[simp] theorem setOsd_sys (g : Stage) (k : Nat) (s : State) : (setOsd g k s).sys = s.sys := rfl
@[simp] theorem setOsd_sup (g : Stage) (k : Nat) (s : State) : (setOsd g k s).sup = s.sup := rfl
@[simp] theorem setOsd_ka (g : Stage) (k : Nat) (s : State) : (setOsd g k s).ka = s.ka := rfl
@[simp] theorem setOsd_faults (g : Stage) (k : Nat) (s : State) : (setOsd g k s).faults = s.faults := rfl
@[simp] theorem setOsd_log (g : Stage) (k : Nat) (s : State) : (setOsd g k s).log = s.log := rfl
@[simp] theorem setOsd_flash (g : Stage) (k : Nat) (s : State) : (setOsd g k s).flash = s.flash := rfl
@[simp] theorem setOsd_ops (g : Stage) (k : Nat) (s : State) : (setOsd g k s).ops = s.ops := rfl
@[simp] theorem setOsd_cat (g : Stage) (k : Nat) (s : State) : (setOsd g k s).cat = s.cat := rfl
@[simp] theorem setOsd_lvc (g : Stage) (k : Nat) (s : State) : (setOsd g k s).lvc = s.lvc := rfl
@[simp] theorem setOsd_chg (g : Stage) (k : Nat) (s : State) : (setOsd g k s).chg = s.chg := rfl
@[simp] theorem setOsd_thm (g : Stage) (k : Nat) (s : State) : (setOsd g k s).thm = s.thm := rfl
@[simp] theorem setOsd_act (g : Stage) (k : Nat) (s : State) : (setOsd g k s).act = s.act := rfl
@[simp] theorem setOsd_saf (g : Stage) (k : Nat) (s : State) : (setOsd g k s).saf = s.saf := rfl
@[simp] theorem setOsd_lks (g : Stage) (k : Nat) (s : State) : (setOsd g k s).lks = s.lks := rfl
@[simp] theorem setOsd_pq (g : Stage) (k : Nat) (s : State) : (setOsd g k s).pq = s.pq := rfl
@[simp] theorem setOsd_pqSeen (g : Stage) (k : Nat) (s : State) : (setOsd g k s).pqSeen = s.pqSeen := rfl
@[simp] theorem setOsd_fab (g : Stage) (k : Nat) (s : State) : (setOsd g k s).fab = s.fab := rfl
@[simp] theorem setOsd_pair (g : Stage) (k : Nat) (s : State) : (setOsd g k s).pair = s.pair := rfl
@[simp] theorem setOsd_vif (g : Stage) (k : Nat) (s : State) : (setOsd g k s).vif = s.vif := rfl
@[simp] theorem setOsd_veh (g : Stage) (k : Nat) (s : State) : (setOsd g k s).veh = s.veh := rfl
@[simp] theorem setOsd_uds (g : Stage) (k : Nat) (s : State) : (setOsd g k s).uds = s.uds := rfl
@[simp] theorem setOsd_out (g : Stage) (k : Nat) (s : State) : (setOsd g k s).out = s.out := rfl
@[simp] theorem setOsd_sec (g : Stage) (k : Nat) (s : State) : (setOsd g k s).sec = s.sec := rfl
@[simp] theorem setOsd_otp (g : Stage) (k : Nat) (s : State) : (setOsd g k s).otp = s.otp := rfl
@[simp] theorem setOsd_freeIx (g : Stage) (k : Nat) (s : State) : (setOsd g k s).freeIx = s.freeIx := rfl
@[simp] theorem setOsd_pending (g : Stage) (k : Nat) (s : State) : (setOsd g k s).pending = s.pending := rfl

/-! ## measureHold -/

@[simp] theorem measureHold_mer (v : Q) (s : State) : (measureHold v s).mer = s.mer := rfl
@[simp] theorem measureHold_pwm (v : Q) (s : State) : (measureHold v s).pwm = s.pwm := rfl
@[simp] theorem measureHold_orr (v : Q) (s : State) : (measureHold v s).orr = s.orr := rfl
@[simp] theorem measureHold_octl (v : Q) (s : State) : (measureHold v s).octl = s.octl := rfl
@[simp] theorem measureHold_oview (v : Q) (s : State) : (measureHold v s).oview = s.oview := rfl
@[simp] theorem measureHold_otgt (v : Q) (s : State) : (measureHold v s).otgt = s.otgt := rfl
@[simp] theorem measureHold_tm (v : Q) (s : State) : (measureHold v s).tm = s.tm := rfl
@[simp] theorem measureHold_dc (v : Q) (s : State) : (measureHold v s).dc = s.dc := rfl
@[simp] theorem measureHold_ss (v : Q) (s : State) : (measureHold v s).ss = s.ss := rfl
@[simp] theorem measureHold_ssDisagree (v : Q) (s : State) : (measureHold v s).ssDisagree = s.ssDisagree := rfl
@[simp] theorem measureHold_ssTrials (v : Q) (s : State) : (measureHold v s).ssTrials = s.ssTrials := rfl
@[simp] theorem measureHold_pos (v : Q) (s : State) : (measureHold v s).pos = s.pos := rfl
@[simp] theorem measureHold_edge (v : Q) (s : State) : (measureHold v s).edge = s.edge := rfl
@[simp] theorem measureHold_res (v : Q) (s : State) : (measureHold v s).res = s.res := rfl
@[simp] theorem measureHold_cal (v : Q) (s : State) : (measureHold v s).cal = s.cal := rfl
@[simp] theorem measureHold_sent (v : Q) (s : State) : (measureHold v s).sent = s.sent := rfl
@[simp] theorem measureHold_em (v : Q) (s : State) : (measureHold v s).em = s.em := rfl
@[simp] theorem measureHold_gd (v : Q) (s : State) : (measureHold v s).gd = s.gd := rfl
@[simp] theorem measureHold_grid (v : Q) (s : State) : (measureHold v s).grid = s.grid := rfl
@[simp] theorem measureHold_pfc (v : Q) (s : State) : (measureHold v s).pfc = s.pfc := rfl
@[simp] theorem measureHold_dab (v : Q) (s : State) : (measureHold v s).dab = s.dab := rfl
@[simp] theorem measureHold_obcT (v : Q) (s : State) : (measureHold v s).obcT = s.obcT := rfl
@[simp] theorem measureHold_sys (v : Q) (s : State) : (measureHold v s).sys = s.sys := rfl
@[simp] theorem measureHold_sup (v : Q) (s : State) : (measureHold v s).sup = { s.sup with hold := v, holdMv := min (roundN (v * 1000)) 0xFFFF } := rfl
@[simp] theorem measureHold_ka (v : Q) (s : State) : (measureHold v s).ka = s.ka := rfl
@[simp] theorem measureHold_faults (v : Q) (s : State) : (measureHold v s).faults = s.faults := rfl
@[simp] theorem measureHold_log (v : Q) (s : State) : (measureHold v s).log = s.log := rfl
@[simp] theorem measureHold_flash (v : Q) (s : State) : (measureHold v s).flash = s.flash := rfl
@[simp] theorem measureHold_ops (v : Q) (s : State) : (measureHold v s).ops = s.ops := rfl
@[simp] theorem measureHold_cat (v : Q) (s : State) : (measureHold v s).cat = s.cat := rfl
@[simp] theorem measureHold_lvc (v : Q) (s : State) : (measureHold v s).lvc = s.lvc := rfl
@[simp] theorem measureHold_chg (v : Q) (s : State) : (measureHold v s).chg = s.chg := rfl
@[simp] theorem measureHold_thm (v : Q) (s : State) : (measureHold v s).thm = s.thm := rfl
@[simp] theorem measureHold_act (v : Q) (s : State) : (measureHold v s).act = s.act := rfl
@[simp] theorem measureHold_saf (v : Q) (s : State) : (measureHold v s).saf = s.saf := rfl
@[simp] theorem measureHold_lks (v : Q) (s : State) : (measureHold v s).lks = s.lks := rfl
@[simp] theorem measureHold_pq (v : Q) (s : State) : (measureHold v s).pq = s.pq := rfl
@[simp] theorem measureHold_pqSeen (v : Q) (s : State) : (measureHold v s).pqSeen = s.pqSeen := rfl
@[simp] theorem measureHold_fab (v : Q) (s : State) : (measureHold v s).fab = s.fab := rfl
@[simp] theorem measureHold_pair (v : Q) (s : State) : (measureHold v s).pair = s.pair := rfl
@[simp] theorem measureHold_vif (v : Q) (s : State) : (measureHold v s).vif = s.vif := rfl
@[simp] theorem measureHold_veh (v : Q) (s : State) : (measureHold v s).veh = s.veh := rfl
@[simp] theorem measureHold_uds (v : Q) (s : State) : (measureHold v s).uds = s.uds := rfl
@[simp] theorem measureHold_out (v : Q) (s : State) : (measureHold v s).out = s.out := rfl
@[simp] theorem measureHold_sec (v : Q) (s : State) : (measureHold v s).sec = s.sec := rfl
@[simp] theorem measureHold_otp (v : Q) (s : State) : (measureHold v s).otp = s.otp := rfl
@[simp] theorem measureHold_freeIx (v : Q) (s : State) : (measureHold v s).freeIx = s.freeIx := rfl
@[simp] theorem measureHold_pending (v : Q) (s : State) : (measureHold v s).pending = s.pending := rfl

/-! ## setGop -/

@[simp] theorem setGop_mer (k n : Nat) (s : State) : (setGop k n s).mer = s.mer := rfl
@[simp] theorem setGop_pwm (k n : Nat) (s : State) : (setGop k n s).pwm = s.pwm := rfl
@[simp] theorem setGop_orr (k n : Nat) (s : State) : (setGop k n s).orr = s.orr := rfl
@[simp] theorem setGop_octl (k n : Nat) (s : State) : (setGop k n s).octl = s.octl := rfl
@[simp] theorem setGop_oview (k n : Nat) (s : State) : (setGop k n s).oview = s.oview := rfl
@[simp] theorem setGop_otgt (k n : Nat) (s : State) : (setGop k n s).otgt = s.otgt := rfl
@[simp] theorem setGop_tm (k n : Nat) (s : State) : (setGop k n s).tm = s.tm := rfl
@[simp] theorem setGop_dc (k n : Nat) (s : State) : (setGop k n s).dc = s.dc := rfl
@[simp] theorem setGop_ss (k n : Nat) (s : State) : (setGop k n s).ss = s.ss := rfl
@[simp] theorem setGop_ssDisagree (k n : Nat) (s : State) : (setGop k n s).ssDisagree = s.ssDisagree := rfl
@[simp] theorem setGop_ssTrials (k n : Nat) (s : State) : (setGop k n s).ssTrials = s.ssTrials := rfl
@[simp] theorem setGop_pos (k n : Nat) (s : State) : (setGop k n s).pos = s.pos := rfl
@[simp] theorem setGop_edge (k n : Nat) (s : State) : (setGop k n s).edge = s.edge := rfl
@[simp] theorem setGop_res (k n : Nat) (s : State) : (setGop k n s).res = s.res := rfl
@[simp] theorem setGop_cal (k n : Nat) (s : State) : (setGop k n s).cal = s.cal := rfl
@[simp] theorem setGop_sent (k n : Nat) (s : State) : (setGop k n s).sent = s.sent := rfl
@[simp] theorem setGop_em (k n : Nat) (s : State) : (setGop k n s).em = s.em := rfl
@[simp] theorem setGop_gd (k n : Nat) (s : State) : (setGop k n s).gd = s.gd := rfl
@[simp] theorem setGop_grid (k n : Nat) (s : State) : (setGop k n s).grid = s.grid := rfl
@[simp] theorem setGop_pfc (k n : Nat) (s : State) : (setGop k n s).pfc = s.pfc := rfl
@[simp] theorem setGop_dab (k n : Nat) (s : State) : (setGop k n s).dab = s.dab := rfl
@[simp] theorem setGop_obcT (k n : Nat) (s : State) : (setGop k n s).obcT = s.obcT := rfl
@[simp] theorem setGop_sys (k n : Nat) (s : State) : (setGop k n s).sys = s.sys := rfl
@[simp] theorem setGop_sup (k n : Nat) (s : State) : (setGop k n s).sup = s.sup := rfl
@[simp] theorem setGop_ka (k n : Nat) (s : State) : (setGop k n s).ka = s.ka := rfl
@[simp] theorem setGop_faults (k n : Nat) (s : State) : (setGop k n s).faults = s.faults := rfl
@[simp] theorem setGop_log (k n : Nat) (s : State) : (setGop k n s).log = s.log := rfl
@[simp] theorem setGop_flash (k n : Nat) (s : State) : (setGop k n s).flash = s.flash := rfl
@[simp] theorem setGop_ops (k n : Nat) (s : State) : (setGop k n s).ops = s.ops := rfl
@[simp] theorem setGop_cat (k n : Nat) (s : State) : (setGop k n s).cat = s.cat := rfl
@[simp] theorem setGop_lvc (k n : Nat) (s : State) : (setGop k n s).lvc = s.lvc := rfl
@[simp] theorem setGop_chg (k n : Nat) (s : State) : (setGop k n s).chg = s.chg := rfl
@[simp] theorem setGop_thm (k n : Nat) (s : State) : (setGop k n s).thm = s.thm := rfl
@[simp] theorem setGop_act (k n : Nat) (s : State) : (setGop k n s).act = s.act := rfl
@[simp] theorem setGop_saf (k n : Nat) (s : State) : (setGop k n s).saf = s.saf := rfl
@[simp] theorem setGop_lks (k n : Nat) (s : State) : (setGop k n s).lks = s.lks := rfl
@[simp] theorem setGop_pq (k n : Nat) (s : State) : (setGop k n s).pq = s.pq := rfl
@[simp] theorem setGop_pqSeen (k n : Nat) (s : State) : (setGop k n s).pqSeen = s.pqSeen := rfl
@[simp] theorem setGop_fab (k n : Nat) (s : State) : (setGop k n s).fab = { s.fab with gopKind := k, gopState := n } := rfl
@[simp] theorem setGop_pair (k n : Nat) (s : State) : (setGop k n s).pair = s.pair := rfl
@[simp] theorem setGop_vif (k n : Nat) (s : State) : (setGop k n s).vif = s.vif := rfl
@[simp] theorem setGop_veh (k n : Nat) (s : State) : (setGop k n s).veh = s.veh := rfl
@[simp] theorem setGop_uds (k n : Nat) (s : State) : (setGop k n s).uds = s.uds := rfl
@[simp] theorem setGop_out (k n : Nat) (s : State) : (setGop k n s).out = s.out := rfl
@[simp] theorem setGop_sec (k n : Nat) (s : State) : (setGop k n s).sec = s.sec := rfl
@[simp] theorem setGop_otp (k n : Nat) (s : State) : (setGop k n s).otp = s.otp := rfl
@[simp] theorem setGop_freeIx (k n : Nat) (s : State) : (setGop k n s).freeIx = s.freeIx := rfl
@[simp] theorem setGop_pending (k n : Nat) (s : State) : (setGop k n s).pending = s.pending := rfl

end Sys2Proof.Machine
end

