-- ==== Sys2Proof/Laws/Faults.lean ====
section
/-! SUPPORT. What a fault does: a raise makes it active and ends no other, a clear ends it; what the collector writes, and what no fault or
reaction touches. -/

namespace Sys2Proof.Machine

/-! ## What no fault touches -/

@[simp ↓] theorem FeedSt.fixed_mk (xpresent xlost xov xmosfet xvolts) : FeedSt.fixed (FeedSt.mk xpresent xlost xov xmosfet xvolts) = (xpresent, xlost, xov, xvolts) := rfl
@[simp] theorem FeedSt.fixed_fold (x : FeedSt) : (x.present, x.lost, x.ov, x.volts) = x.fixed := rfl
@[simp ↓] theorem DcLink.fixed_mk (xdclT xdclC xstale1 xstale2 xbcActive xbcStop xbcDuty xbcEnergy) : DcLink.fixed (DcLink.mk xdclT xdclC xstale1 xstale2 xbcActive xbcStop xbcDuty xbcEnergy) = (xdclT, xdclC, xstale1, xstale2, xbcStop, xbcEnergy) := rfl
@[simp] theorem DcLink.fixed_fold (x : DcLink) : (x.dclT, x.dclC, x.stale1, x.stale2, x.bcStop, x.bcEnergy) = x.fixed := rfl
@[simp ↓] theorem Supply.fixed_mk (xfeedA xfeedB xhold xholdMv xholdup xbiasA xbiasB xbiasStopA xbiasStopB xbiasCut xrailsOut xstep xnRst xsvc xacPresent xlvd xship xriseArmed xwakes xcause xlostWrites xifaces) : Supply.fixed (Supply.mk xfeedA xfeedB xhold xholdMv xholdup xbiasA xbiasB xbiasStopA xbiasStopB xbiasCut xrailsOut xstep xnRst xsvc xacPresent xlvd xship xriseArmed xwakes xcause xlostWrites xifaces) = (xfeedA.fixed, xfeedB.fixed, xhold, xholdMv, xholdup, xbiasStopA, xbiasStopB, xbiasCut, xrailsOut, xstep, xnRst, xsvc, xacPresent, xriseArmed, xwakes, xcause, xlostWrites) := rfl
@[simp] theorem Supply.fixed_fold (x : Supply) : (x.feedA.fixed, x.feedB.fixed, x.hold, x.holdMv, x.holdup, x.biasStopA, x.biasStopB, x.biasCut, x.railsOut, x.step, x.nRst, x.svc, x.acPresent, x.riseArmed, x.wakes, x.cause, x.lostWrites) = x.fixed := rfl
@[simp ↓] theorem Tm.fixed_mk (xlimA xlimB xtAx xdT xhold xreqValid xlostMs xidleA xidleB xtA xtB xstartA xstartB xsvc xmissRun xpLim) : Tm.fixed (Tm.mk xlimA xlimB xtAx xdT xhold xreqValid xlostMs xidleA xidleB xtA xtB xstartA xstartB xsvc xmissRun xpLim) = (xlimA, xlimB, xtAx, xdT, xhold, xreqValid, xlostMs, xidleA, xidleB, xmissRun, xpLim) := rfl
@[simp] theorem Tm.fixed_fold (x : Tm) : (x.limA, x.limB, x.tAx, x.dT, x.hold, x.reqValid, x.lostMs, x.idleA, x.idleB, x.missRun, x.pLim) = x.fixed := rfl
@[simp ↓] theorem Saf.fixed_mk (xevaluating xsafeReq xxtalLatch xwatchLatch xovHold xptestOk xheld xlvC xlvP xsoDiffA xsoDiffB xcycles xoverruns xlastOverrun xsi xhso xcust) : Saf.fixed (Saf.mk xevaluating xsafeReq xxtalLatch xwatchLatch xovHold xptestOk xheld xlvC xlvP xsoDiffA xsoDiffB xcycles xoverruns xlastOverrun xsi xhso xcust) = (xevaluating, xxtalLatch, xwatchLatch, xovHold, xptestOk, xheld, xsoDiffA, xsoDiffB, xcycles, xoverruns, xlastOverrun, xsi, xcust) := rfl
@[simp] theorem Saf.fixed_fold (x : Saf) : (x.evaluating, x.xtalLatch, x.watchLatch, x.ovHold, x.ptestOk, x.held, x.soDiffA, x.soDiffB, x.cycles, x.overruns, x.lastOverrun, x.si, x.cust) = x.fixed := rfl
@[simp ↓] theorem ObcTgt.fixed_mk (xiAc xreactive xiBat xrate xvBat xiDis) : ObcTgt.fixed (ObcTgt.mk xiAc xreactive xiBat xrate xvBat xiDis) = (xiAc, xreactive, xrate, xvBat, xiDis) := rfl
@[simp] theorem ObcTgt.fixed_fold (x : ObcTgt) : (x.iAc, x.reactive, x.rate, x.vBat, x.iDis) = x.fixed := rfl
@[simp ↓] theorem PairOp.fixed_mk (xrole xfabHb xphbHb xdeclared xarbOut xarbIn xphbOut xarbWait xpartnerFit xswapped xholdoff xarbFit xhb xleadReq xpartnerAvail xhandover xtakeovers xhandovers xsolos xshadowMm xshadowRun xtake xcycles xpassed xfailed xskip xdiff xtestDue xswapDue xswapBad xpartnerBusy xleadCharge) : PairOp.fixed (PairOp.mk xrole xfabHb xphbHb xdeclared xarbOut xarbIn xphbOut xarbWait xpartnerFit xswapped xholdoff xarbFit xhb xleadReq xpartnerAvail xhandover xtakeovers xhandovers xsolos xshadowMm xshadowRun xtake xcycles xpassed xfailed xskip xdiff xtestDue xswapDue xswapBad xpartnerBusy xleadCharge) = (xrole, xfabHb, xphbHb, xdeclared, xarbOut, xarbIn, xphbOut, xarbWait, xpartnerFit, xswapped, xholdoff, xarbFit, xhb, xleadReq, xpartnerAvail, xhandover, xtakeovers, xhandovers, xsolos, xshadowMm, xshadowRun, xtake, xpassed, xfailed, xskip, xdiff, xswapDue, xswapBad, xpartnerBusy, xleadCharge) := rfl
@[simp] theorem PairOp.fixed_fold (x : PairOp) : (x.role, x.fabHb, x.phbHb, x.declared, x.arbOut, x.arbIn, x.phbOut, x.arbWait, x.partnerFit, x.swapped, x.holdoff, x.arbFit, x.hb, x.leadReq, x.partnerAvail, x.handover, x.takeovers, x.handovers, x.solos, x.shadowMm, x.shadowRun, x.take, x.passed, x.failed, x.skip, x.diff, x.swapDue, x.swapBad, x.partnerBusy, x.leadCharge) = x.fixed := rfl
@[simp ↓] theorem Uds.fixed_mk (xsession xtester xunlocks xresults xdtcClr) : Uds.fixed (Uds.mk xsession xtester xunlocks xresults xdtcClr) = (xsession, xtester, xunlocks, xresults) := rfl
@[simp] theorem Uds.fixed_fold (x : Uds) : (x.session, x.tester, x.unlocks, x.results) = x.fixed := rfl
/-- The flags of a set without an update are no part of it. -/
@[simp] theorem viewsFixed_still (x : Tab TSet OrrView) (t : TSet) : viewsFixed (x.upd t OrrView.still) = viewsFixed x := by
  cases t <;> simp [viewsFixed, Tab.get_upd, OrrView.still]
@[simp ↓] theorem beyond_mk (xmer xpwm xorr xoctl xoview xotgt xtm xdc xss xssDisagree xssTrials xpos xedge xres xcal xsent xem xgd xgrid xpfc xdab xobcT xsys xsup xka xfaults xlog xflash xops xcat xlvc xchg xthm xact xsaf xlks xpq xpqSeen xfab xpair xvif xveh xuds xout xsec xotp xfreeIx xpending) : State.beyond (State.mk xmer xpwm xorr xoctl xoview xotgt xtm xdc xss xssDisagree xssTrials xpos xedge xres xcal xsent xem xgd xgrid xpfc xdab xobcT xsys xsup xka xfaults xlog xflash xops xcat xlvc xchg xthm xact xsaf xlks xpq xpqSeen xfab xpair xvif xveh xuds xout xsec xotp xfreeIx xpending) = ⟨xmer, xoctl, viewsFixed xoview, xpos, xedge, xres, xcal, xsent, xem, xgrid, xka, xflash, xops, xcat, xthm, xlks, xpq, xpqSeen, xfab, xvif, xveh, xout, xsec, xotp, xfreeIx, xpending, xssDisagree, xssTrials, xdc.fixed, xsup.fixed, xtm.fixed, xsaf.fixed, xobcT.fixed, xpair.fixed, xuds.fixed⟩ := rfl
@[simp] theorem beyond_fold (s : State) : (⟨s.mer, s.octl, viewsFixed s.oview, s.pos, s.edge, s.res, s.cal, s.sent, s.em, s.grid, s.ka, s.flash, s.ops, s.cat, s.thm, s.lks, s.pq, s.pqSeen, s.fab, s.vif, s.veh, s.out, s.sec, s.otp, s.freeIx, s.pending, s.ssDisagree, s.ssTrials, s.dc.fixed, s.sup.fixed, s.tm.fixed, s.saf.fixed, s.obcT.fixed, s.pair.fixed, s.uds.fixed⟩ : Beyond) = s.beyond := rfl
@[simp ↓] theorem beyond_ite (c : Prop) [Decidable c] (a b : State) : (if c then a else b).beyond = if c then a.beyond else b.beyond := by split <;> rfl
@[simp] theorem beyond_foldl {α : Type} (f : State → α → State) (h : ∀ s a, (f s a).beyond = s.beyond) (xs : List α) (s : State) : (xs.foldl f s).beyond = s.beyond := by
  induction xs generalizing s with
  | nil => rfl
  | cons a xs ih => simp [List.foldl, ih, h]

@[simp] theorem updCh_beyond (s : State) (c : Chan) (f : GdChan → GdChan) : (State.updCh s c f).beyond = s.beyond := by
  unfold State.updCh
  repeat' (first | (simp; done) | split)
@[simp] theorem stamp_beyond (c : Chan) (s : State) : (stamp c s).beyond = s.beyond := by unfold stamp; simp
@[simp] theorem offSinkAt_beyond (ns : Nat) (c : Chan) (s : State) : (offSinkAt ns c s).beyond = s.beyond := by unfold offSinkAt; simp
@[simp] theorem offSoftAt_beyond (ns : Nat) (c : Chan) (s : State) : (offSoftAt ns c s).beyond = s.beyond := by unfold offSoftAt; simp
@[simp] theorem offSink_beyond (c : Chan) (s : State) : (offSink c s).beyond = s.beyond := by
  unfold offSink
  repeat' (first | (simp; done) | split)
@[simp] theorem offSoft_beyond (c : Chan) (s : State) : (offSoft c s).beyond = s.beyond := by
  unfold offSoft
  repeat' (first | (simp; done) | split)
@[simp] theorem drvOn_beyond (c : Chan) (s : State) : (drvOn c s).beyond = s.beyond := by
  unfold drvOn
  repeat' (first | (simp; done) | split)
@[simp] theorem legOff_beyond (c p : Chan) (s : State) : (legOff c p s).beyond = s.beyond := by
  unfold legOff
  dsimp only
  repeat' (first | (simp; done) | split)
@[simp] theorem turnOn_beyond (c : Chan) (s : State) : (turnOn c s).beyond = s.beyond := by
  unfold turnOn
  repeat' (first | (simp; done) | split)
@[simp] theorem turnOffAt_beyond (ns : Nat) (c : Chan) (s : State) : (turnOffAt ns c s).beyond = s.beyond := by
  unfold turnOffAt
  repeat' (first | (simp; done) | split)
@[simp] theorem turnOff_beyond (c : Chan) (s : State) : (turnOff c s).beyond = s.beyond := by unfold turnOff; simp
@[simp] theorem stopChan_beyond (s : State) (c : Chan) : (stopChan s c).beyond = s.beyond := by
  unfold stopChan
  repeat' (first | (simp; done) | split)
@[simp] theorem haltOwner_beyond (g : Grp) (s : State) : (haltOwner g s).beyond = s.beyond := by unfold haltOwner; simp
@[simp] theorem haltGroup_beyond (g : Grp) (s : State) : (haltGroup g s).beyond = s.beyond := by
  unfold haltGroup
  repeat' (first | (simp; done) | split)
@[simp] theorem stopGroup_beyond (g : Grp) (s : State) : (stopGroup g s).beyond = s.beyond := by
  unfold stopGroup
  repeat' (first | (simp; done) | split)
@[simp] theorem leaveAsc_beyond (g : Grp) (s : State) : (leaveAsc g s).beyond = s.beyond := by
  unfold leaveAsc
  repeat' (first | (simp; done) | split)
@[simp] theorem setSs_beyond (t : TSet) (st : Nat) (s : State) : (setSs t st s).beyond = s.beyond := by
  unfold setSs
  repeat' (first | (simp; done) | split)
@[simp] theorem driveFreewheel_beyond (t : TSet) (s : State) : (driveFreewheel t s).beyond = s.beyond := by
  unfold driveFreewheel
  repeat' (first | (simp; done) | split)
@[simp] theorem ascOn_beyond (s : State) (c : Chan) : (ascOn s c).beyond = s.beyond := by unfold ascOn; simp
@[simp] theorem driveAsc_beyond (t : TSet) (side : Nat) (s : State) : (driveAsc t side s).beyond = s.beyond := by
  unfold driveAsc
  repeat' (first | (simp; done) | split)
@[simp] theorem dropTarget_beyond (t : TSet) (s : State) : (dropTarget t s).beyond = s.beyond := by
  unfold dropTarget
  repeat' (first | (simp; done) | split)
@[simp] theorem enterSafe_beyond (t : TSet) (s : State) : (enterSafe t s).beyond = s.beyond := by
  unfold enterSafe
  repeat' (first | (simp; done) | split)
@[simp] theorem stopTraction_beyond (s : State) : (stopTraction s).beyond = s.beyond := by
  unfold stopTraction
  repeat' (first | (simp; done) | split)
@[simp] theorem stopSetF3_beyond (t : TSet) (s : State) : (stopSetF3 t s).beyond = s.beyond := by unfold stopSetF3; simp
@[simp] theorem startBias_beyond (s : State) : (startBias s).beyond = s.beyond := by unfold startBias; simp
@[simp] theorem railLost_beyond (s : State) (c : Chan) : (railLost s c).beyond = s.beyond := by unfold railLost; simp
@[simp] theorem bankOff_beyond (lo n : Nat) (s : State) : (bankOff lo n s).beyond = s.beyond := by unfold bankOff; simp
@[simp] theorem ascLost_beyond (s : State) : (ascLost s).beyond = s.beyond := by unfold ascLost; simp
@[simp] theorem stopCharger_beyond (s : State) : (stopCharger s).beyond = s.beyond := by
  unfold stopCharger
  repeat' (first | (simp; done) | split)
@[simp] theorem requestStop_beyond (s : State) : (requestStop s).beyond = s.beyond := by unfold requestStop; simp
@[simp] theorem stopDcx_beyond (s : State) : (stopDcx s).beyond = s.beyond := by
  unfold stopDcx
  repeat' (first | (simp; done) | split)
@[simp] theorem setSr_beyond (s : State) : (setSr s).beyond = s.beyond := by unfold setSr; simp
@[simp] theorem stopBuck_beyond (k : Nat) (s : State) : (stopBuck k s).beyond = s.beyond := by
  unfold stopBuck
  repeat' (first | (simp; done) | split)
@[simp] theorem stopPhase_beyond (n : Fin 6) (s : State) : (stopPhase n s).beyond = s.beyond := by unfold stopPhase; simp
@[simp] theorem stopLv_beyond (f3 : Bool) (s : State) : (stopLv f3 s).beyond = s.beyond := by
  unfold stopLv
  repeat' (first | (simp; done) | split)
@[simp] theorem pins_beyond (s : State) : (pins s).beyond = s.beyond := by
  unfold pins
  repeat' (first | (simp; done) | split)
@[simp] theorem acceptRec_beyond (r : LogRec) (store : List LogRec) (s : State) : (acceptRec r store s).beyond = s.beyond := by
  unfold acceptRec
  repeat' (first | (simp; done) | split)
@[simp] theorem storeRec_beyond (r : LogRec) (s : State) : (storeRec r s).2.beyond = s.beyond := by
  unfold storeRec
  repeat' (first | (simp; done) | split)
@[simp] theorem takeSupp_beyond (code inst : Nat) (s : State) : (takeSupp code inst s).2.beyond = s.beyond := by
  unfold takeSupp
  repeat' (first | (simp; done) | split)
@[simp] theorem raiseEntry_beyond (blk code inst meas : Nat) (s : State) : (raiseEntry blk code inst meas s).2.beyond = s.beyond := by
  unfold raiseEntry
  repeat' (first | (simp; done) | split)
@[simp] theorem noteDrop_beyond (r : Bool × State) : (noteDrop r).beyond = r.2.beyond := by unfold noteDrop; simp
@[simp] theorem offerRec_beyond (r : LogRec) (s : State) : (offerRec r s).beyond = s.beyond := by unfold offerRec; simp
@[simp] theorem raiseBaseBy_beyond (blk code inst meas : Nat) (s : State) : (raiseBaseBy blk code inst meas s).beyond = s.beyond := by
  unfold raiseBaseBy
  repeat' (first | (simp; done) | split)
@[simp] theorem raiseBase_beyond (code inst meas : Nat) (s : State) : (raiseBase code inst meas s).beyond = s.beyond := by
  unfold raiseBase
  repeat' (first | (simp; done) | split)
@[simp] theorem clearF_beyond (code inst : Nat) (s : State) : (clearF code inst s).beyond = s.beyond := by
  unfold clearF
  repeat' (first | (simp; done) | split)
@[simp] theorem clearCode_beyond (code : Nat) (s : State) : (clearCode code s).beyond = s.beyond := by
  unfold clearCode
  repeat' (first | (simp; done) | split)
@[simp] theorem lvcWrite_beyond (v : Nat) (s : State) : (lvcWrite v s).beyond = s.beyond := by
  unfold lvcWrite
  repeat' (first | (simp; done) | split)
@[simp] theorem lvCharge_beyond (volts : Q) (s : State) : (lvCharge volts s).beyond = s.beyond := by
  unfold lvCharge
  repeat' (first | (simp; done) | split)
@[simp] theorem lvRelease_beyond (s : State) : (lvRelease s).beyond = s.beyond := by
  unfold lvRelease
  repeat' (first | (simp; done) | split)
@[simp] theorem clearLvFaults_beyond (s : State) : (clearLvFaults s).beyond = s.beyond := by
  unfold clearLvFaults
  repeat' (first | (simp; done) | split)
@[simp] theorem lvBegin_beyond (s : State) : (lvBegin s).beyond = s.beyond := by
  unfold lvBegin
  repeat' (first | (simp; done) | split)
@[simp] theorem actHalt_beyond (a : Act) (s : State) : (actHalt a s).beyond = s.beyond := by
  unfold actHalt
  repeat' (first | (simp; done) | split)
@[simp] theorem abortAct_beyond (a : Act) (s : State) : (abortAct a s).beyond = s.beyond := by
  unfold abortAct
  repeat' (first | (simp; done) | split)
@[simp] theorem sessionOff_beyond (s : State) : (sessionOff s).beyond = s.beyond := by
  unfold sessionOff
  repeat' (first | (simp; done) | split)
@[simp] theorem sessionOffBy_beyond (code : Nat) (s : State) : (sessionOffBy code s).beyond = s.beyond := by
  unfold sessionOffBy
  dsimp only
  repeat' (first | (simp; done) | split)
@[simp] theorem roleOff_beyond  (s : State) : (roleOff s).beyond = s.beyond := by
  unfold roleOff
  dsimp only
  repeat' (first | (simp; done) | split)
@[simp] theorem sessionEnd_beyond (cause : Nat) (s : State) : (sessionEnd cause s).beyond = s.beyond := by
  unfold sessionEnd
  repeat' (first | (simp; done) | split)
@[simp] theorem sessionFailBy_beyond (code : Nat) (s : State) : (sessionFailBy code s).beyond = s.beyond := by
  unfold sessionFailBy
  dsimp only
  repeat' (first | (simp; done) | split)
@[simp] theorem sessionFail_beyond (s : State) : (sessionFail s).beyond = s.beyond := by
  unfold sessionFail
  repeat' (first | (simp; done) | split)
@[simp] theorem chargePause_beyond (s : State) : (chargePause s).beyond = s.beyond := by
  unfold chargePause
  repeat' (first | (simp; done) | split)
@[simp] theorem chgOnFault_beyond (code : Nat) (s : State) : (chgOnFault code s).beyond = s.beyond := by
  unfold chgOnFault
  repeat' (first | (simp; done) | split)
@[simp] theorem stopSet_beyond (t : TSet) (s : State) : (stopSet t s).beyond = s.beyond := by
  unfold stopSet
  repeat' (first | (simp; done) | split)
@[simp] theorem modeOutputs_beyond (m : Mode) (s : State) : (modeOutputs m s).beyond = s.beyond := by
  unfold modeOutputs
  repeat' (first | (simp; done) | split)
@[simp] theorem shipAbandon_beyond (s : State) : (shipAbandon s).beyond = s.beyond := by unfold shipAbandon; simp
@[simp] theorem enterMode_beyond (m : Mode) (s : State) : (enterMode m s).beyond = s.beyond := by
  unfold enterMode
  repeat' (first | (simp; done) | split)
@[simp] theorem lastPhase_beyond (buck : Nat) (s : State) : (lastPhase buck s).beyond = s.beyond := by unfold lastPhase; simp
@[simp] theorem stageFault_beyond (code : Nat) (g : Stage) (s : State) : (stageFault code g s).beyond = s.beyond := by
  unfold stageFault
  repeat' (first | (simp; done) | split)
@[simp] theorem userFault_beyond (inst : Nat) (s : State) : (userFault inst s).beyond = s.beyond := by
  unfold userFault
  repeat' (first | (simp; done) | split)
@[simp] theorem reactF3_beyond (code inst : Nat) (s : State) (hf : code ≠ 0x680A) (hq : code ≠ 0x7002) : (reactF3 code inst s).beyond = s.beyond := by
  unfold reactF3
  simp [hf, hq]
/-- Of what a fault may not touch, `t` differs from `s` in the fabric, the output and the catalogue at most: what 0x680A and 0x7002 stop. -/
def Around (s t : State) : Prop := t.beyond = { s.beyond with fab := t.fab, out := t.out, cat := t.cat }
theorem Around.of_beyond {s t : State} (h : t.beyond = s.beyond) : Around s t := by
  show t.beyond = { s.beyond with fab := t.beyond.fab, out := t.beyond.out, cat := t.beyond.cat }
  rw [h]
theorem Around.refl (s : State) : Around s s := .of_beyond rfl
theorem Around.trans {s t u : State} (a : Around s t) (b : Around t u) : Around s u := by
  unfold Around at a b ⊢
  rw [b, a]
theorem closePort_around (st : Nat) (p : Port) (s : State) : Around s (closePort st p s) := by
  unfold closePort eobOut
  split <;> rfl
theorem queueStop_around (q : Nat) (s : State) : Around s (queueStop q s) := by
  unfold queueStop
  dsimp only
  repeat' split
  all_goals first | exact closePort_around _ _ _ | rfl
theorem fabricStop_around (s : State) : Around s (fabricStop s) := by
  unfold fabricStop
  generalize portAll = l
  induction l generalizing s with
  | nil => rfl
  | cons p l ih =>
    refine Around.trans ?_ (ih _)
    dsimp only
    split
    · rfl
    · exact closePort_around _ _ _
/-- The two faults of class F3 that stop the fabric, a port or a staging session touch the ports, what they send and the session only. -/
theorem reactF3_around (code inst : Nat) (s : State) : Around s (reactF3 code inst s) := by
  by_cases hf : code = 0x680A
  · subst hf; exact fabricStop_around s
  · by_cases hq : code = 0x7002
    · subst hq
      by_cases hi : inst = 21
      · subst hi; exact .of_beyond (by simp [reactF3, missCode])
      · have e : reactF3 0x7002 inst s = queueStop inst s := by simp [reactF3, missCode, hi]
        rw [e]; exact queueStop_around inst s
    · exact .of_beyond (reactF3_beyond code inst s hf hq)
@[simp] theorem safeByF4_beyond (s : State) : (safeByF4 s).beyond = s.beyond := by unfold safeByF4; simp
@[simp] theorem reactF4_beyond (code : Nat) (s : State) : (reactF4 code s).beyond = s.beyond := by
  unfold reactF4
  repeat' (first | (simp; done) | split)
@[simp] theorem reactF2_beyond (code inst : Nat) (s : State) : (reactF2 code inst s).beyond = s.beyond := by
  unfold reactF2
  repeat' (first | (simp; done) | split)
@[simp] theorem raiseBy_beyond (blk code inst meas : Nat) (s : State) (hf : code ≠ 0x680A := by decide) (hq : code ≠ 0x7002 := by decide) : (raiseBy blk code inst meas s).beyond = s.beyond := by
  unfold raiseBy
  dsimp only
  repeat' (first | (simp [hf, hq]; done) | split)
@[simp] theorem raise_beyond (code inst meas : Nat) (s : State) (hf : code ≠ 0x680A := by decide) (hq : code ≠ 0x7002 := by decide) : (raise code inst meas s).beyond = s.beyond :=
  raiseBy_beyond _ _ _ _ _ hf hq
theorem raiseBy_around (blk code inst meas : Nat) (s : State) : Around s (raiseBy blk code inst meas s) := by
  unfold raiseBy
  dsimp only
  have k : Around s (raiseBaseBy blk code inst meas s) := .of_beyond (by simp)
  split
  · split
    · exact k.trans ((reactF3_around code inst _).trans (.of_beyond (pins_beyond _)))
    · exact .of_beyond (by simp)
    · exact .of_beyond (by simp)
    · exact k
  · exact k
theorem raise_around (code inst meas : Nat) (s : State) : Around s (raise code inst meas s) := raiseBy_around _ _ _ _ _
@[simp] theorem actStop_beyond (a : Act) (code : Nat) (s : State) (hf : code ≠ 0x680A := by decide) (hq : code ≠ 0x7002 := by decide) : (actStop a code s).beyond = s.beyond := by
  unfold actStop
  simp [hf, hq]
@[simp] theorem stopStage_beyond (g : Stage) (s : State) : (stopStage g s).beyond = s.beyond := by
  unfold stopStage
  repeat' (first | (simp; done) | split)
@[simp] theorem domainReaction_beyond (d : Fin 7) (s : State) : (domainReaction d s).beyond = s.beyond := by
  unfold domainReaction
  repeat' (first | (simp; done) | split)
@[simp] theorem goAsc_beyond (t : TSet) (s : State) : (goAsc t s).beyond = s.beyond := by
  unfold goAsc
  repeat' (first | (simp; done) | split)
@[simp] theorem forceAsc_beyond (t : TSet) (s : State) : (forceAsc t s).beyond = s.beyond := by
  unfold forceAsc
  repeat' (first | (simp; done) | split)
@[simp] theorem chargerOutMax_beyond (s : State) : (chargerOutMax s).beyond = s.beyond := by unfold chargerOutMax; simp
@[simp] theorem anchorsHold_beyond (s : State) : (anchorsHold s).beyond = s.beyond := by unfold anchorsHold; simp

/-! ## The collector alone -/

theorem SameButFaults.refl (s : State) : SameButFaults s s := rfl
theorem SameButFaults.trans {s t u : State} (a : SameButFaults s t) (b : SameButFaults t u) : SameButFaults s u := by
  unfold SameButFaults at a b ⊢
  rw [b, a]
theorem pins_same (s : State) : SameButFaults s (pins s) := by unfold pins; split <;> rfl
theorem storeRec_same (r : LogRec) (s : State) : SameButFaults s (storeRec r s).2 := by
  unfold storeRec
  dsimp only
  split
  · rfl
  · split
    · rfl
    · split <;> rfl
theorem takeSupp_same (c i : Nat) (s : State) : SameButFaults s (takeSupp c i s).2 := by unfold takeSupp; split <;> rfl
theorem raiseEntry_same (b c i m : Nat) (s : State) : SameButFaults s (raiseEntry b c i m s).2 := by
  unfold raiseEntry
  split
  · rfl
  · dsimp only
    refine SameButFaults.trans ?_ (storeRec_same _ _)
    exact (takeSupp_same c i s).trans rfl
theorem noteDrop_same (r : Bool × State) : SameButFaults r.2 (noteDrop r) := by
  unfold noteDrop
  refine SameButFaults.trans ?_ (pins_same _)
  split
  · exact raiseEntry_same _ _ _ _ _
  · exact .refl _
theorem offerRec_same (r : LogRec) (s : State) : SameButFaults s (offerRec r s) := (storeRec_same r s).trans (noteDrop_same _)
theorem raiseBaseBy_same (b c i m : Nat) (s : State) : SameButFaults s (raiseBaseBy b c i m s) := (raiseEntry_same b c i m s).trans (noteDrop_same _)
theorem raiseBase_same (c i m : Nat) (s : State) : SameButFaults s (raiseBase c i m s) := raiseBaseBy_same _ _ _ _ _
theorem clearF_same (c i : Nat) (s : State) : SameButFaults s (clearF c i s) := by
  unfold clearF
  split
  · rfl
  · dsimp only
    split
    · refine SameButFaults.trans ?_ (pins_same _)
      split <;> rfl
    · exact SameButFaults.trans (t := { s with faults := dropFault c i s.faults }) rfl (offerRec_same _ _)

/-! ## Active faults -/

@[simp] theorem pins_faults (s : State) : (pins s).faults = s.faults := by unfold pins; split <;> rfl
@[simp] theorem storeRec_faults (r : LogRec) (s : State) : (storeRec r s).2.faults = s.faults := by
  unfold storeRec
  dsimp only
  split
  · rfl
  · split
    · rfl
    · split <;> rfl

theorem Grows.refl (s : State) : Grows s s := fun _ _ h => h
theorem Grows.trans {s t u : State} (a : Grows s t) (b : Grows t u) : Grows s u := fun c i h => b c i (a c i h)
theorem Grows.of_eq {s t : State} (h : t.faults = s.faults) : Grows s t := fun c i k => by unfold active at k ⊢; rw [h]; exact k
theorem Grows.ite {s a b : State} {c : Prop} [Decidable c] (x : Grows s a) (y : Grows s b) : Grows s (if c then a else b) := by split <;> assumption

theorem findFault_again (c i c' i' : Nat) (l : List ActiveFault) : (findFault c i (againFault c' i' l)).isSome = (findFault c i l).isSome := by
  induction l with
  | nil => rfl
  | cons f l ih =>
    unfold againFault
    split
    · simp only [findFault]; split <;> rfl
    · simp only [findFault]; split
      · rfl
      · exact ih

theorem raiseEntry_grows (b c i m : Nat) (s : State) : Grows s (raiseEntry b c i m s).2 := by
  intro c' i' h
  unfold raiseEntry
  split
  · unfold active at h ⊢
    dsimp only
    rw [findFault_again]; exact h
  · have e : ∀ r x, (storeRec r { (takeSupp c i s).2 with faults := x :: (takeSupp c i s).2.faults }).2.faults = x :: s.faults := by
      intro r x
      rw [storeRec_faults]
      unfold takeSupp
      split <;> rfl
    unfold active at h ⊢
    dsimp only
    rw [e]
    unfold findFault
    split
    · rfl
    · exact h

theorem raiseEntry_active (b c i m : Nat) (s : State) : active c i (raiseEntry b c i m s).2 = true := by
  unfold raiseEntry
  split
  · rename_i h
    unfold active at h ⊢
    dsimp only
    rw [findFault_again]; exact h
  · unfold active
    dsimp only
    rw [storeRec_faults]
    simp [findFault]

theorem noteDrop_grows (r : Bool × State) : Grows r.2 (noteDrop r) :=
  Grows.trans (.ite (raiseEntry_grows _ _ _ _ _) (.refl _)) (.of_eq (pins_faults _))
theorem raiseBaseBy_grows (b c i m : Nat) (s : State) : Grows s (raiseBaseBy b c i m s) := (raiseEntry_grows b c i m s).trans (noteDrop_grows _)
theorem raiseBaseBy_active (b c i m : Nat) (s : State) : active c i (raiseBaseBy b c i m s) = true := noteDrop_grows _ c i (raiseEntry_active b c i m s)
theorem raiseBase_grows (c i m : Nat) (s : State) : Grows s (raiseBase c i m s) := raiseBaseBy_grows _ _ _ _ _
theorem raiseBase_active (c i m : Nat) (s : State) : active c i (raiseBase c i m s) = true := raiseBaseBy_active _ _ _ _ _

@[simp ↓] theorem faults_ite (c : Prop) [Decidable c] (a b : State) : (if c then a else b).faults = if c then a.faults else b.faults := by split <;> rfl
@[simp] theorem faults_foldl {α : Type} (f : State → α → State) (h : ∀ s a, (f s a).faults = s.faults) (l : List α) (s : State) : (l.foldl f s).faults = s.faults := by
  induction l generalizing s with
  | nil => rfl
  | cons a l ih => rw [List.foldl_cons, ih, h]

@[simp] theorem stamp_faults (c : Chan) (s : State) : (stamp c s).faults = s.faults := by unfold stamp; simp
@[simp] theorem offSinkAt_faults (ns : Nat) (c : Chan) (s : State) : (offSinkAt ns c s).faults = s.faults := by unfold offSinkAt; simp
@[simp] theorem offSoftAt_faults (ns : Nat) (c : Chan) (s : State) : (offSoftAt ns c s).faults = s.faults := by unfold offSoftAt; simp
@[simp] theorem offSink_faults (c : Chan) (s : State) : (offSink c s).faults = s.faults := by unfold offSink; simp
@[simp] theorem offSoft_faults (c : Chan) (s : State) : (offSoft c s).faults = s.faults := by unfold offSoft; simp
@[simp] theorem drvOn_faults (c : Chan) (s : State) : (drvOn c s).faults = s.faults := by
  unfold drvOn
  repeat' (first | (simp; done) | split)
@[simp] theorem legOff_faults (c p : Chan) (s : State) : (legOff c p s).faults = s.faults := by
  unfold legOff
  dsimp only
  repeat' (first | (simp; done) | split)
@[simp] theorem turnOn_faults (c : Chan) (s : State) : (turnOn c s).faults = s.faults := by
  unfold turnOn
  repeat' (first | (simp; done) | split)
@[simp] theorem turnOffAt_faults (ns : Nat) (c : Chan) (s : State) : (turnOffAt ns c s).faults = s.faults := by
  unfold turnOffAt
  repeat' (first | (simp; done) | split)
@[simp] theorem turnOff_faults (c : Chan) (s : State) : (turnOff c s).faults = s.faults := by unfold turnOff; simp
@[simp] theorem stopChan_faults (s : State) (c : Chan) : (stopChan s c).faults = s.faults := by unfold stopChan; simp
@[simp] theorem haltOwner_faults (g : Grp) (s : State) : (haltOwner g s).faults = s.faults := by unfold haltOwner; simp
@[simp] theorem haltGroup_faults (g : Grp) (s : State) : (haltGroup g s).faults = s.faults := by
  unfold haltGroup
  repeat' (first | (simp; done) | split)
@[simp] theorem stopGroup_faults (g : Grp) (s : State) : (stopGroup g s).faults = s.faults := by unfold stopGroup; simp
@[simp] theorem orrStart_faults (g : Grp) (s : State) : (orrStart g s).faults = s.faults := by
  unfold orrStart
  repeat' (first | (simp; done) | split)
@[simp] theorem leaveAsc_faults (g : Grp) (s : State) : (leaveAsc g s).faults = s.faults := by
  unfold leaveAsc
  repeat' (first | (simp; done) | split)
@[simp] theorem driveFreewheel_faults (t : TSet) (s : State) : (driveFreewheel t s).faults = s.faults := by unfold driveFreewheel; simp
@[simp] theorem ascOn_faults (s : State) (c : Chan) : (ascOn s c).faults = s.faults := by unfold ascOn; simp
@[simp] theorem driveAsc_faults (t : TSet) (side : Nat) (s : State) : (driveAsc t side s).faults = s.faults := by unfold driveAsc; simp
@[simp] theorem dropTarget_faults (t : TSet) (s : State) : (dropTarget t s).faults = s.faults := by
  unfold dropTarget
  repeat' (first | (simp; done) | split)
@[simp] theorem enterSafe_faults (t : TSet) (s : State) : (enterSafe t s).faults = s.faults := by unfold enterSafe; simp
@[simp] theorem stopTraction_faults (s : State) : (stopTraction s).faults = s.faults := by unfold stopTraction; simp
@[simp] theorem stopSetF3_faults (t : TSet) (s : State) : (stopSetF3 t s).faults = s.faults := by unfold stopSetF3; simp
@[simp] theorem startBias_faults (s : State) : (startBias s).faults = s.faults := by unfold startBias; simp
@[simp] theorem railLost_faults (s : State) (c : Chan) : (railLost s c).faults = s.faults := by unfold railLost; simp
@[simp] theorem bankOff_faults (lo n : Nat) (s : State) : (bankOff lo n s).faults = s.faults := by unfold bankOff; simp
@[simp] theorem ascLost_faults (s : State) : (ascLost s).faults = s.faults := by unfold ascLost; simp
@[simp] theorem stopCharger_faults (s : State) : (stopCharger s).faults = s.faults := by unfold stopCharger; simp
@[simp] theorem requestStop_faults (s : State) : (requestStop s).faults = s.faults := by unfold requestStop; simp
@[simp] theorem stopDcx_faults (s : State) : (stopDcx s).faults = s.faults := by unfold stopDcx; simp
@[simp] theorem setSr_faults (s : State) : (setSr s).faults = s.faults := by unfold setSr; simp
@[simp] theorem stopBuck_faults (k : Nat) (s : State) : (stopBuck k s).faults = s.faults := by unfold stopBuck; simp
@[simp] theorem stopPhase_faults (n : Fin 6) (s : State) : (stopPhase n s).faults = s.faults := by unfold stopPhase; simp
@[simp] theorem stopLv_faults (f3 : Bool) (s : State) : (stopLv f3 s).faults = s.faults := by unfold stopLv; simp
@[simp] theorem actHalt_faults (a : Act) (s : State) : (actHalt a s).faults = s.faults := by unfold actHalt; simp
@[simp] theorem roleOff_faults  (s : State) : (roleOff s).faults = s.faults := by
  unfold roleOff
  dsimp only
  repeat' (first | (simp; done) | split)
@[simp] theorem sessionEnd_faults (cause : Nat) (s : State) : (sessionEnd cause s).faults = s.faults := by unfold sessionEnd; simp
@[simp] theorem chargePause_faults (s : State) : (chargePause s).faults = s.faults := by unfold chargePause; simp
@[simp] theorem stopSet_faults (t : TSet) (s : State) : (stopSet t s).faults = s.faults := by unfold stopSet; simp
@[simp] theorem shipAbandon_faults (s : State) : (shipAbandon s).faults = s.faults := by unfold shipAbandon; simp
@[simp] theorem eobOut_faults (p : Port) (s : State) : (eobOut p s).faults = s.faults := by
  unfold eobOut
  repeat' (first | (simp; done) | split)
@[simp] theorem closePort_faults (st : Nat) (p : Port) (s : State) : (closePort st p s).faults = s.faults := by
  unfold closePort
  repeat' (first | (simp; done) | split)
@[simp] theorem queueStop_faults (q : Nat) (s : State) : (queueStop q s).faults = s.faults := by
  unfold queueStop
  dsimp only
  repeat' (first | (simp; done) | split)
@[simp] theorem fabricStop_faults (s : State) : (fabricStop s).faults = s.faults := by
  unfold fabricStop
  exact faults_foldl _ (fun s p => by split <;> simp) _ _
@[simp] theorem userFault_faults (inst : Nat) (s : State) : (userFault inst s).faults = s.faults := by unfold userFault; simp

theorem lvcWrite_grows (v : Nat) (s : State) : Grows s (lvcWrite v s) :=
  .ite (Grows.trans (t := { s with lvc := { s.lvc with cmd := some (v / 65536 % 4096, v % 65536) } }) (.of_eq rfl) (raiseBase_grows _ _ _ _)) (.of_eq rfl)
theorem lvCharge_grows (v : Q) (s : State) : Grows s (lvCharge v s) := lvcWrite_grows _ s
theorem sessionOff_grows (s : State) : Grows s (sessionOff s) := by
  unfold sessionOff
  refine (Grows.ite (c := (s.chg.lvChg && pairRunning s .europa) = true) (lvCharge_grows (s.pf 0x60 0 92) s) (.refl s)).trans (.of_eq ?_)
  dsimp only
  split <;> split <;> rfl
theorem sessionOffBy_grows (code : Nat) (s : State) : Grows s (sessionOffBy code s) := by
  unfold sessionOffBy
  dsimp only
  split
  · exact (Grows.trans (t := { s with chg := { s.chg with roleCmd := false } }) (.of_eq rfl) (sessionOff_grows _)).trans (.of_eq rfl)
  · exact sessionOff_grows s
theorem abortAct_grows (a : Act) (s : State) : Grows s (abortAct a s) :=
  .ite (.refl s) ((Grows.of_eq (by simp)).trans (raiseBase_grows _ _ _ _))
theorem sessionFailBy_grows (c : Nat) (s : State) : Grows s (sessionFailBy c s) := .ite (.refl s) ((sessionOffBy_grows c s).trans (.of_eq rfl))
theorem sessionFail_grows (s : State) : Grows s (sessionFail s) := sessionFailBy_grows 0 s
theorem chgOnFault_grows (c : Nat) (s : State) : Grows s (chgOnFault c s) :=
  .ite (.refl s) (.ite (.of_eq (sessionEnd_faults _ _)) (.ite (.ite (.refl s) (.ite ((raiseBase_grows _ _ _ s).trans ((Grows.of_eq (stopCharger_faults _)).trans (sessionFail_grows _))) (.of_eq rfl))) (sessionFailBy_grows c s)))
theorem lastPhase_grows (b : Nat) (s : State) : Grows s (lastPhase b s) := .ite ((raiseBase_grows _ _ _ s).trans (.of_eq (stopBuck_faults _ _))) (.refl s)
theorem modeOutputs_grows (m : Mode) (s : State) : Grows s (modeOutputs m s) := by
  have k1 (u : State) : Grows u (if m = .drive then u else stopGroup 2 u) := .ite (.refl u) (.of_eq (stopGroup_faults 2 u))
  have k2 (u : State) : Grows u (if m = .drive then u else if m = .safe then stopTraction u else stopSet .b (stopSet .a u)) := .of_eq (by simp)
  have k3 (u : State) : Grows u (if m = .charge then u else roleOff (stopCharger u)) := .of_eq (by simp)
  have k4 (u : State) : Grows u (if m = .drive then u else abortAct .shift u) := .ite (.refl u) (abortAct_grows _ u)
  have k5 (u : State) : Grows u (if m = .drive then u else if m = .ready ∨ m = .convert then (if (u.act.get .park).seq = 2 then abortAct .park u else u) else abortAct .park u) :=
    .ite (.refl u) (.ite (.ite (abortAct_grows _ u) (.refl u)) (abortAct_grows _ u))
  exact (k1 s).trans ((k2 _).trans ((k3 _).trans ((k4 _).trans (k5 _))))
theorem enterMode_grows (m : Mode) (s : State) : Grows s (enterMode m s) := by
  unfold enterMode
  refine .ite (.refl s) ?_
  refine Grows.trans ?_ (.of_eq (pins_faults _))
  refine Grows.trans ?_ (.ite (.of_eq rfl) (.refl _))
  refine Grows.trans ?_ (.ite (.of_eq rfl) (.refl _))
  refine Grows.trans ?_ (.ite (Grows.trans (.of_eq rfl) (sessionFail_grows _)) (.refl _))
  refine Grows.trans ?_ (.ite (.of_eq (stopLv_faults _ _)) (.ite (.of_eq rfl) (.refl _)))
  refine Grows.trans ?_ (modeOutputs_grows _ _)
  exact .of_eq rfl
theorem stageFault_grows (c : Nat) (g : Stage) (s : State) : Grows s (stageFault c g s) := by
  unfold stageFault
  split
  all_goals first
    | exact .of_eq (by simp)
    | exact (Grows.of_eq (stopCharger_faults s)).trans (chgOnFault_grows _ _)
    | exact (Grows.of_eq (stopPhase_faults _ s)).trans (lastPhase_grows _ _)
theorem reactF3_grows (c i : Nat) (s : State) : Grows s (reactF3 c i s) := by
  have stop (u : State) (h : u.faults = s.faults) : Grows s (chgOnFault c u) := (Grows.of_eq h).trans (chgOnFault_grows _ _)
  unfold reactF3
  iterate 15 (refine .ite ?_ ?_; rotate_left)
  all_goals first
    | with_reducible exact .refl s
    | with_reducible exact stageFault_grows _ _ s
    | with_reducible exact stop _ (stopCharger_faults s)
    | with_reducible exact stop _ (requestStop_faults s)
    | with_reducible exact (stop _ (stopCharger_faults s)).trans (.of_eq (stopLv_faults _ _))
    | with_reducible exact .ite (.refl s) (.of_eq (actHalt_faults _ s))
    | exact .of_eq (by simp)
theorem safeByF4_grows (s : State) : Grows s (safeByF4 s) := .ite (.refl s) ((Grows.of_eq (shipAbandon_faults s)).trans (enterMode_grows _ _))
theorem reactF4_grows (c : Nat) (s : State) : Grows s (reactF4 c s) :=
  (Grows.ite (c := c = 0x0801 ∨ c = 0x5809) (.refl s) (b := { s with saf := { s.saf with safeReq := true } }) (.of_eq rfl)).trans (.ite (safeByF4_grows _) (.refl _))
theorem reactF2_grows (c i : Nat) (s : State) : Grows s (reactF2 c i s) := by
  unfold reactF2
  refine .ite ?_ (.refl s)
  split
  · exact (Grows.of_eq (stopPhase_faults _ s)).trans (lastPhase_grows _ _)
  · exact .refl s
theorem raiseBy_grows_base (b c i m : Nat) (s : State) : Grows (raiseBaseBy b c i m s) (raiseBy b c i m s) := by
  unfold raiseBy
  refine .ite ?_ (.refl _)
  split
  · exact (reactF3_grows _ _ _).trans (.of_eq (pins_faults _))
  · exact (reactF4_grows _ _).trans (.of_eq (pins_faults _))
  · exact reactF2_grows _ _ _
  · exact .refl _
/-- A raise ends no other fault. -/
theorem raiseBy_grows (b c i m : Nat) (s : State) : Grows s (raiseBy b c i m s) := (raiseBaseBy_grows b c i m s).trans (raiseBy_grows_base b c i m s)
/-- A fault that is raised is active. -/
theorem raiseBy_active (b c i m : Nat) (s : State) : active c i (raiseBy b c i m s) = true := raiseBy_grows_base b c i m s c i (raiseBaseBy_active b c i m s)
theorem raise_grows (c i m : Nat) (s : State) : Grows s (raise c i m s) := raiseBy_grows _ _ _ _ _
theorem raise_active (c i m : Nat) (s : State) : active c i (raise c i m s) = true := raiseBy_active _ _ _ _ _

/-- A fault of class F0 or F1 has no reaction. -/
theorem raiseBy_low (b c i m : Nat) (s : State) (h : classOf (raiseBaseBy b c i m s) c i < 2) : raiseBy b c i m s = raiseBaseBy b c i m s := by
  unfold raiseBy
  dsimp only
  split
  · split <;> first | omega | rfl
  · rfl
/-- Nor has one of class F2 that is no gate-drive fault. -/
theorem raiseBy_f2 (b c i m : Nat) (s : State) (h : classOf (raiseBaseBy b c i m s) c i < 3) (g : ¬(0x2803 ≤ c ∧ c ≤ 0x280C)) : raiseBy b c i m s = raiseBaseBy b c i m s := by
  unfold raiseBy reactF2
  dsimp only
  split
  · split <;> first | omega | rw [if_neg g] | rfl
  · rfl
theorem raise_low_same (c i m : Nat) (s : State) (h : ∀ s, classOf s c i < 3) (g : ¬(0x2803 ≤ c ∧ c ≤ 0x280C)) : SameButFaults s (raise c i m s) := by
  unfold raise
  rw [raiseBy_f2 _ _ _ _ _ (h _) g]
  exact raiseBaseBy_same _ _ _ _ _

theorem findFault_drop (c i : Nat) (l : List ActiveFault) (c' i' : Nat) :
    findFault c' i' (dropFault c i l) = if c' = c ∧ i' = i then none else findFault c' i' l := by
  induction l with
  | nil => simp [dropFault, findFault]
  | cons f l ih =>
    unfold dropFault
    split
    · rw [ih]
      simp only [findFault]
      split
      · rfl
      · split
        · omega
        · rfl
    · simp only [findFault, ih]
      split
      · split
        · omega
        · rfl
      · rfl

/-- A full store makes no fault active but 0x001A. -/
theorem noteDrop_none (c i : Nat) (r : Bool × State) (h : c ≠ 0x001A) (k : findFault c i r.2.faults = none) : findFault c i (noteDrop r).faults = none := by
  unfold noteDrop
  rw [pins_faults]
  split
  · unfold raiseEntry
    split
    · have := findFault_again c i 0x001A noInst r.2.faults
      rw [k] at this
      simpa using this
    · dsimp only
      rw [storeRec_faults]
      have e : (takeSupp 0x001A noInst r.2).2.faults = r.2.faults := by unfold takeSupp; split <;> rfl
      simp only [findFault, e, k]
      simp; omega
  · exact k
/-- A fault that is cleared is not active. -/
theorem clearF_inactive (c i : Nat) (s : State) (h : c ≠ 0x001A) : active c i (clearF c i s) = false := by
  unfold clearF
  split
  · rename_i e; unfold active; rw [e]; rfl
  · dsimp only
    split
    · unfold active
      rw [pins_faults]
      split <;> simp [findFault_drop]
    · unfold active offerRec
      rw [noteDrop_none c i _ h]
      · rfl
      · rw [storeRec_faults]; simp [findFault_drop]

/-! ## The mode -/

@[simp ↓] theorem mode_ite (c : Prop) [Decidable c] (a b : State) : (if c then a else b).sys.mode = if c then a.sys.mode else b.sys.mode := by split <;> rfl
@[simp] theorem mode_foldl {α : Type} (f : State → α → State) (h : ∀ s a, (f s a).sys.mode = s.sys.mode) (xs : List α) (s : State) : (xs.foldl f s).sys.mode = s.sys.mode := by
  induction xs generalizing s with
  | nil => rfl
  | cons a xs ih => simp [List.foldl, ih, h]

@[simp] theorem updCh_mode (s : State) (c : Chan) (f : GdChan → GdChan) : (State.updCh s c f).sys.mode = s.sys.mode := by
  unfold State.updCh
  repeat' (first | (simp; done) | split)
@[simp] theorem stamp_mode (c : Chan) (s : State) : (stamp c s).sys.mode = s.sys.mode := by unfold stamp; simp
@[simp] theorem offSinkAt_mode (ns : Nat) (c : Chan) (s : State) : (offSinkAt ns c s).sys.mode = s.sys.mode := by unfold offSinkAt; simp
@[simp] theorem offSoftAt_mode (ns : Nat) (c : Chan) (s : State) : (offSoftAt ns c s).sys.mode = s.sys.mode := by unfold offSoftAt; simp
@[simp] theorem offSink_mode (c : Chan) (s : State) : (offSink c s).sys.mode = s.sys.mode := by
  unfold offSink
  repeat' (first | (simp; done) | split)
@[simp] theorem offSoft_mode (c : Chan) (s : State) : (offSoft c s).sys.mode = s.sys.mode := by
  unfold offSoft
  repeat' (first | (simp; done) | split)
@[simp] theorem drvOn_mode (c : Chan) (s : State) : (drvOn c s).sys.mode = s.sys.mode := by
  unfold drvOn
  repeat' (first | (simp; done) | split)
@[simp] theorem legOff_mode (c p : Chan) (s : State) : (legOff c p s).sys.mode = s.sys.mode := by
  unfold legOff
  dsimp only
  repeat' (first | (simp; done) | split)
@[simp] theorem turnOn_mode (c : Chan) (s : State) : (turnOn c s).sys.mode = s.sys.mode := by
  unfold turnOn
  repeat' (first | (simp; done) | split)
@[simp] theorem turnOffAt_mode (ns : Nat) (c : Chan) (s : State) : (turnOffAt ns c s).sys.mode = s.sys.mode := by
  unfold turnOffAt
  repeat' (first | (simp; done) | split)
@[simp] theorem turnOff_mode (c : Chan) (s : State) : (turnOff c s).sys.mode = s.sys.mode := by unfold turnOff; simp
@[simp] theorem stopChan_mode (s : State) (c : Chan) : (stopChan s c).sys.mode = s.sys.mode := by
  unfold stopChan
  repeat' (first | (simp; done) | split)
@[simp] theorem haltOwner_mode (g : Grp) (s : State) : (haltOwner g s).sys.mode = s.sys.mode := by unfold haltOwner; simp
@[simp] theorem haltGroup_mode (g : Grp) (s : State) : (haltGroup g s).sys.mode = s.sys.mode := by
  unfold haltGroup
  repeat' (first | (simp; done) | split)
@[simp] theorem stopGroup_mode (g : Grp) (s : State) : (stopGroup g s).sys.mode = s.sys.mode := by
  unfold stopGroup
  repeat' (first | (simp; done) | split)
@[simp] theorem orrStart_mode (g : Grp) (s : State) : (orrStart g s).sys.mode = s.sys.mode := by
  unfold orrStart
  repeat' (first | (simp; done) | split)
@[simp] theorem leaveAsc_mode (g : Grp) (s : State) : (leaveAsc g s).sys.mode = s.sys.mode := by
  unfold leaveAsc
  repeat' (first | (simp; done) | split)
@[simp] theorem setSs_mode (t : TSet) (st : Nat) (s : State) : (setSs t st s).sys.mode = s.sys.mode := by
  unfold setSs
  repeat' (first | (simp; done) | split)
@[simp] theorem driveFreewheel_mode (t : TSet) (s : State) : (driveFreewheel t s).sys.mode = s.sys.mode := by
  unfold driveFreewheel
  repeat' (first | (simp; done) | split)
@[simp] theorem ascOn_mode (s : State) (c : Chan) : (ascOn s c).sys.mode = s.sys.mode := by unfold ascOn; simp
@[simp] theorem driveAsc_mode (t : TSet) (side : Nat) (s : State) : (driveAsc t side s).sys.mode = s.sys.mode := by
  unfold driveAsc
  repeat' (first | (simp; done) | split)
@[simp] theorem dropTarget_mode (t : TSet) (s : State) : (dropTarget t s).sys.mode = s.sys.mode := by
  unfold dropTarget
  repeat' (first | (simp; done) | split)
@[simp] theorem enterSafe_mode (t : TSet) (s : State) : (enterSafe t s).sys.mode = s.sys.mode := by
  unfold enterSafe
  repeat' (first | (simp; done) | split)
@[simp] theorem stopTraction_mode (s : State) : (stopTraction s).sys.mode = s.sys.mode := by
  unfold stopTraction
  repeat' (first | (simp; done) | split)
@[simp] theorem stopSetF3_mode (t : TSet) (s : State) : (stopSetF3 t s).sys.mode = s.sys.mode := by unfold stopSetF3; simp
@[simp] theorem startBias_mode (s : State) : (startBias s).sys.mode = s.sys.mode := by unfold startBias; simp
@[simp] theorem railLost_mode (s : State) (c : Chan) : (railLost s c).sys.mode = s.sys.mode := by unfold railLost; simp
@[simp] theorem bankOff_mode (lo n : Nat) (s : State) : (bankOff lo n s).sys.mode = s.sys.mode := by unfold bankOff; simp
@[simp] theorem ascLost_mode (s : State) : (ascLost s).sys.mode = s.sys.mode := by unfold ascLost; simp
@[simp] theorem stopCharger_mode (s : State) : (stopCharger s).sys.mode = s.sys.mode := by
  unfold stopCharger
  repeat' (first | (simp; done) | split)
@[simp] theorem requestStop_mode (s : State) : (requestStop s).sys.mode = s.sys.mode := by unfold requestStop; simp
@[simp] theorem stopDcx_mode (s : State) : (stopDcx s).sys.mode = s.sys.mode := by
  unfold stopDcx
  repeat' (first | (simp; done) | split)
@[simp] theorem setSr_mode (s : State) : (setSr s).sys.mode = s.sys.mode := by unfold setSr; simp
@[simp] theorem stopBuck_mode (k : Nat) (s : State) : (stopBuck k s).sys.mode = s.sys.mode := by
  unfold stopBuck
  repeat' (first | (simp; done) | split)
@[simp] theorem stopPhase_mode (n : Fin 6) (s : State) : (stopPhase n s).sys.mode = s.sys.mode := by unfold stopPhase; simp
@[simp] theorem stopLv_mode (f3 : Bool) (s : State) : (stopLv f3 s).sys.mode = s.sys.mode := by
  unfold stopLv
  repeat' (first | (simp; done) | split)
@[simp] theorem udsPos_mode (p : UPath) (bytes : List Byte) (s : State) : (udsPos p bytes s).sys.mode = s.sys.mode := by unfold udsPos; simp
@[simp] theorem udsNeg_mode (p : UPath) (sid nrc : Nat) (s : State) : (udsNeg p sid nrc s).sys.mode = s.sys.mode := by unfold udsNeg; simp
@[simp] theorem setResult_mode (rid : Nat) (bytes : List Byte) (s : State) : (setResult rid bytes s).sys.mode = s.sys.mode := by unfold setResult; simp
@[simp] theorem noteRefuse_mode (code : Nat) (s : State) : (noteRefuse code s).sys.mode = s.sys.mode := by unfold noteRefuse; simp
@[simp] theorem takeFree_mode (s : State) : (takeFree s).2.sys.mode = s.sys.mode := by unfold takeFree; simp
@[simp] theorem takeChoice_mode (s : State) : (takeChoice s).2.sys.mode = s.sys.mode := by unfold takeChoice; simp
@[simp] theorem pins_mode (s : State) : (pins s).sys.mode = s.sys.mode := by
  unfold pins
  repeat' (first | (simp; done) | split)
@[simp] theorem acceptRec_mode (r : LogRec) (store : List LogRec) (s : State) : (acceptRec r store s).sys.mode = s.sys.mode := by unfold acceptRec; simp
@[simp] theorem storeRec_mode (r : LogRec) (s : State) : (storeRec r s).2.sys.mode = s.sys.mode := by have h := storeRec_same r s; unfold SameButFaults at h; rw [h]
@[simp] theorem takeSupp_mode (code inst : Nat) (s : State) : (takeSupp code inst s).2.sys.mode = s.sys.mode := by
  unfold takeSupp
  repeat' (first | (simp; done) | split)
@[simp] theorem raiseEntry_mode (blk code inst meas : Nat) (s : State) : (raiseEntry blk code inst meas s).2.sys.mode = s.sys.mode := by
  unfold raiseEntry
  repeat' (first | (simp; done) | split)
@[simp] theorem noteDrop_mode (r : Bool × State) : (noteDrop r).sys.mode = r.2.sys.mode := by unfold noteDrop; simp
@[simp] theorem offerRec_mode (r : LogRec) (s : State) : (offerRec r s).sys.mode = s.sys.mode := by unfold offerRec; simp
@[simp] theorem raiseBaseBy_mode (blk code inst meas : Nat) (s : State) : (raiseBaseBy blk code inst meas s).sys.mode = s.sys.mode := by
  unfold raiseBaseBy
  repeat' (first | (simp; done) | split)
@[simp] theorem raiseBase_mode (code inst meas : Nat) (s : State) : (raiseBase code inst meas s).sys.mode = s.sys.mode := by
  unfold raiseBase
  repeat' (first | (simp; done) | split)
@[simp] theorem clearF_mode (code inst : Nat) (s : State) : (clearF code inst s).sys.mode = s.sys.mode := by
  unfold clearF
  repeat' (first | (simp; done) | split)
@[simp] theorem clearCode_mode (code : Nat) (s : State) : (clearCode code s).sys.mode = s.sys.mode := by
  unfold clearCode
  repeat' (first | (simp; done) | split)
@[simp] theorem lvcWrite_mode (v : Nat) (s : State) : (lvcWrite v s).sys.mode = s.sys.mode := by
  unfold lvcWrite
  repeat' (first | (simp; done) | split)
@[simp] theorem lvCharge_mode (volts : Q) (s : State) : (lvCharge volts s).sys.mode = s.sys.mode := by
  unfold lvCharge
  repeat' (first | (simp; done) | split)
@[simp] theorem lvRelease_mode (s : State) : (lvRelease s).sys.mode = s.sys.mode := by
  unfold lvRelease
  repeat' (first | (simp; done) | split)
@[simp] theorem clearLvFaults_mode (s : State) : (clearLvFaults s).sys.mode = s.sys.mode := by
  unfold clearLvFaults
  repeat' (first | (simp; done) | split)
@[simp] theorem lvBegin_mode (s : State) : (lvBegin s).sys.mode = s.sys.mode := by
  unfold lvBegin
  repeat' (first | (simp; done) | split)
@[simp] theorem actHalt_mode (a : Act) (s : State) : (actHalt a s).sys.mode = s.sys.mode := by
  unfold actHalt
  repeat' (first | (simp; done) | split)
@[simp] theorem abortAct_mode (a : Act) (s : State) : (abortAct a s).sys.mode = s.sys.mode := by
  unfold abortAct
  repeat' (first | (simp; done) | split)
@[simp] theorem sessionOff_mode (s : State) : (sessionOff s).sys.mode = s.sys.mode := by
  unfold sessionOff
  repeat' (first | (simp; done) | split)
@[simp] theorem sessionOffBy_mode (code : Nat) (s : State) : (sessionOffBy code s).sys.mode = s.sys.mode := by
  unfold sessionOffBy
  dsimp only
  repeat' (first | (simp; done) | split)
@[simp] theorem roleOff_mode  (s : State) : (roleOff s).sys.mode = s.sys.mode := by
  unfold roleOff
  dsimp only
  repeat' (first | (simp; done) | split)
@[simp] theorem sessionEnd_mode (cause : Nat) (s : State) : (sessionEnd cause s).sys.mode = s.sys.mode := by
  unfold sessionEnd
  repeat' (first | (simp; done) | split)
@[simp] theorem sessionFailBy_mode (code : Nat) (s : State) : (sessionFailBy code s).sys.mode = s.sys.mode := by
  unfold sessionFailBy
  dsimp only
  repeat' (first | (simp; done) | split)
@[simp] theorem sessionFail_mode (s : State) : (sessionFail s).sys.mode = s.sys.mode := by
  unfold sessionFail
  repeat' (first | (simp; done) | split)
@[simp] theorem chargePause_mode (s : State) : (chargePause s).sys.mode = s.sys.mode := by
  unfold chargePause
  repeat' (first | (simp; done) | split)
@[simp] theorem chgOnFault_mode (code : Nat) (s : State) : (chgOnFault code s).sys.mode = s.sys.mode := by
  unfold chgOnFault
  repeat' (first | (simp; done) | split)
@[simp] theorem stopSet_mode (t : TSet) (s : State) : (stopSet t s).sys.mode = s.sys.mode := by
  unfold stopSet
  repeat' (first | (simp; done) | split)
@[simp] theorem modeOutputs_mode (m : Mode) (s : State) : (modeOutputs m s).sys.mode = s.sys.mode := by
  unfold modeOutputs
  repeat' (first | (simp; done) | split)
@[simp] theorem shipAbandon_mode (s : State) : (shipAbandon s).sys.mode = s.sys.mode := by unfold shipAbandon; simp
@[simp] theorem lastPhase_mode (buck : Nat) (s : State) : (lastPhase buck s).sys.mode = s.sys.mode := by unfold lastPhase; simp
@[simp] theorem stageFault_mode (code : Nat) (g : Stage) (s : State) : (stageFault code g s).sys.mode = s.sys.mode := by
  unfold stageFault
  repeat' (first | (simp; done) | split)
@[simp] theorem send_mode (e : Emit) (s : State) : (send e s).sys.mode = s.sys.mode := rfl
@[simp] theorem updPort_mode (p : Port) (f : FabPort → FabPort) (s : State) : (updPort p f s).sys.mode = s.sys.mode := by
  unfold updPort
  repeat' (first | (simp; done) | split)
@[simp] theorem eobOut_mode (p : Port) (s : State) : (eobOut p s).sys.mode = s.sys.mode := by
  unfold eobOut
  repeat' (first | (simp; done) | split)
@[simp] theorem closePort_mode (st : Nat) (p : Port) (s : State) : (closePort st p s).sys.mode = s.sys.mode := by
  unfold closePort
  repeat' (first | (simp; done) | split)
@[simp] theorem queueStop_mode (q : Nat) (s : State) : (queueStop q s).sys.mode = s.sys.mode := by
  unfold queueStop
  dsimp only
  repeat' (first | (simp; done) | split)
@[simp] theorem fabricStop_mode (s : State) : (fabricStop s).sys.mode = s.sys.mode := by
  unfold fabricStop
  exact mode_foldl _ (fun s p => by split <;> simp) _ _
@[simp] theorem userFault_mode (inst : Nat) (s : State) : (userFault inst s).sys.mode = s.sys.mode := by
  unfold userFault
  repeat' (first | (simp; done) | split)
@[simp] theorem reactF3_mode (code inst : Nat) (s : State) : (reactF3 code inst s).sys.mode = s.sys.mode := by
  unfold reactF3
  repeat' (first | (simp; done) | split)
@[simp] theorem reactF2_mode (code inst : Nat) (s : State) : (reactF2 code inst s).sys.mode = s.sys.mode := by
  unfold reactF2
  repeat' (first | (simp; done) | split)
@[simp] theorem stopStage_mode (g : Stage) (s : State) : (stopStage g s).sys.mode = s.sys.mode := by
  unfold stopStage
  repeat' (first | (simp; done) | split)
@[simp] theorem domainReaction_mode (d : Fin 7) (s : State) : (domainReaction d s).sys.mode = s.sys.mode := by
  unfold domainReaction
  repeat' (first | (simp; done) | split)

/-- A change of mode leads to the mode. -/
@[simp] theorem enterMode_mode (m : Mode) (s : State) : (enterMode m s).sys.mode = m := by
  unfold enterMode
  split
  · assumption
  · dsimp only
    repeat' (first | (simp; done) | split)
/-- A fault of class F3 or below changes no mode. -/
theorem raiseBy_mode (b c i m : Nat) (s : State) (h : ∀ s, classOf s c i ≠ 4) : (raiseBy b c i m s).sys.mode = s.sys.mode := by
  unfold raiseBy
  dsimp only
  split
  · split
    · simp
    · rename_i e; exact absurd e (h _)
    · simp
    · simp
  · simp
theorem raise_mode (c i m : Nat) (s : State) (h : ∀ s, classOf s c i ≠ 4) : (raise c i m s).sys.mode = s.sys.mode := raiseBy_mode _ _ _ _ _ h

/-! ## Outputs that stop -/

theorem stopChan_get (s : State) (c d : Chan) : ((stopChan s c).gd.ch.get d) = if d = c then (stopChan s c).gd.ch.get c else s.gd.ch.get d := by
  by_cases h : d = c
  · simp [h]
  · rw [if_neg h]
    unfold stopChan offSink offSinkAt
    split <;> simp [State.updCh, Tab.get_upd, h]
theorem stopChan_off (s : State) (c : Chan) : ((stopChan s c).gd.ch.get c).out ≠ .on := by
  unfold stopChan offSink offSinkAt
  split <;> simp_all [State.updCh]
theorem stopChan_stays (s : State) (c d : Chan) (h : (s.gd.ch.get d).out ≠ .on) : ((stopChan s c).gd.ch.get d).out ≠ .on := by
  rw [stopChan_get]
  split
  · exact stopChan_off s c
  · exact h
theorem stopChans_stays (l : List Chan) (s : State) (d : Chan) (h : (s.gd.ch.get d).out ≠ .on) : ((l.foldl stopChan s).gd.ch.get d).out ≠ .on := by
  induction l generalizing s with
  | nil => exact h
  | cons c l ih => exact ih _ (stopChan_stays s c d h)
/-- Every channel of a list that stops is not on. -/
theorem stopChans_off (l : List Chan) (s : State) (d : Chan) (h : d ∈ l) : ((l.foldl stopChan s).gd.ch.get d).out ≠ .on := by
  induction l generalizing s with
  | nil => cases h
  | cons c l ih =>
    by_cases e : d = c
    · subst e; exact stopChans_stays l _ d (stopChan_off s d)
    · exact ih _ (by simpa [e] using h)
theorem haltOwner_gd (g : Grp) (s : State) : (haltOwner g s).gd = s.gd := by by_cases a : g = 2 <;> by_cases b : g = 8 <;> by_cases c : g = 9 <;> simp [haltOwner, a, b, c]
theorem haltGroup_gd (g : Grp) (s : State) : (haltGroup g s).gd = s.gd := by
  unfold haltGroup
  split <;> simp [haltOwner_gd]
theorem stopGroup_gd (g : Grp) (s : State) : (stopGroup g s).gd = ((grpChans g).foldl stopChan s).gd := haltGroup_gd g _
theorem grpChans_mem (c : Chan) (g : Grp) : c ∈ grpChans g ↔ grpOf c = g := by simp [grpChans, allChans]
/-- No output of a group that has stopped is on. -/
theorem stopGroup_off (g : Grp) (s : State) (c : Chan) (h : grpOf c = g) : ((stopGroup g s).gd.ch.get c).out ≠ .on := by
  rw [stopGroup_gd]; exact stopChans_off _ _ _ ((grpChans_mem c g).2 h)
theorem stopGroup_stays (g : Grp) (s : State) (c : Chan) (h : (s.gd.ch.get c).out ≠ .on) : ((stopGroup g s).gd.ch.get c).out ≠ .on := by
  rw [stopGroup_gd]; exact stopChans_stays _ _ _ h
@[simp] theorem haltOwner_pwm (g : Grp) (s : State) : (haltOwner g s).pwm = s.pwm := by by_cases a : g = 2 <;> by_cases b : g = 8 <;> by_cases c : g = 9 <;> simp [haltOwner, a, b, c]
@[simp] theorem haltGroup_running (g : Grp) (s : State) : ((haltGroup g s).pwm.get g).running = false := by
  unfold haltGroup
  split <;> simp
@[simp] theorem stopGroup_running (g : Grp) (s : State) : ((stopGroup g s).pwm.get g).running = false := haltGroup_running g _

end Sys2Proof.Machine
end

