-- ==== Sys2Proof/Laws/Parts.lean ====
section
/-! SUPPORT. The parts of the state that the common fault operations leave alone, one by one. -/

namespace Sys2Proof.Machine

@[simp] theorem raise_mer (c i m : Nat) (s : State) : (raise c i m s).mer = s.mer := congrArg Beyond.mer (raise_around c i m s)
@[simp] theorem raise_octl (c i m : Nat) (s : State) : (raise c i m s).octl = s.octl := congrArg Beyond.octl (raise_around c i m s)
@[simp] theorem raise_oview (c i m : Nat) (s : State) : viewsFixed (raise c i m s).oview = viewsFixed s.oview := congrArg Beyond.oview (raise_around c i m s)
@[simp] theorem raise_dc (c i m : Nat) (s : State) : (raise c i m s).dc.fixed = s.dc.fixed := congrArg Beyond.dc (raise_around c i m s)
@[simp] theorem raise_pos (c i m : Nat) (s : State) : (raise c i m s).pos = s.pos := congrArg Beyond.pos (raise_around c i m s)
@[simp] theorem raise_edge (c i m : Nat) (s : State) : (raise c i m s).edge = s.edge := congrArg Beyond.edge (raise_around c i m s)
@[simp] theorem raise_res (c i m : Nat) (s : State) : (raise c i m s).res = s.res := congrArg Beyond.res (raise_around c i m s)
@[simp] theorem raise_cal (c i m : Nat) (s : State) : (raise c i m s).cal = s.cal := congrArg Beyond.cal (raise_around c i m s)
@[simp] theorem raise_sent (c i m : Nat) (s : State) : (raise c i m s).sent = s.sent := congrArg Beyond.sent (raise_around c i m s)
@[simp] theorem raise_em (c i m : Nat) (s : State) : (raise c i m s).em = s.em := congrArg Beyond.em (raise_around c i m s)
@[simp] theorem raise_grid (c i m : Nat) (s : State) : (raise c i m s).grid = s.grid := congrArg Beyond.grid (raise_around c i m s)
@[simp] theorem raise_ka (c i m : Nat) (s : State) : (raise c i m s).ka = s.ka := congrArg Beyond.ka (raise_around c i m s)
@[simp] theorem raise_flash (c i m : Nat) (s : State) : (raise c i m s).flash = s.flash := congrArg Beyond.flash (raise_around c i m s)
@[simp] theorem raise_ops (c i m : Nat) (s : State) : (raise c i m s).ops = s.ops := congrArg Beyond.ops (raise_around c i m s)
@[simp] theorem raise_cat (c i m : Nat) (s : State) (hf : c ≠ 0x680A := by decide) (hq : c ≠ 0x7002 := by decide) : (raise c i m s).cat = s.cat := congrArg Beyond.cat (raise_beyond c i m s hf hq)
@[simp] theorem raise_thm (c i m : Nat) (s : State) : (raise c i m s).thm = s.thm := congrArg Beyond.thm (raise_around c i m s)
@[simp] theorem raise_lks (c i m : Nat) (s : State) : (raise c i m s).lks = s.lks := congrArg Beyond.lks (raise_around c i m s)
@[simp] theorem raise_pq (c i m : Nat) (s : State) : (raise c i m s).pq = s.pq := congrArg Beyond.pq (raise_around c i m s)
@[simp] theorem raise_pqSeen (c i m : Nat) (s : State) : (raise c i m s).pqSeen = s.pqSeen := congrArg Beyond.pqSeen (raise_around c i m s)
@[simp] theorem raise_fab (c i m : Nat) (s : State) (hf : c ≠ 0x680A := by decide) (hq : c ≠ 0x7002 := by decide) : (raise c i m s).fab = s.fab := congrArg Beyond.fab (raise_beyond c i m s hf hq)
@[simp] theorem raise_vif (c i m : Nat) (s : State) : (raise c i m s).vif = s.vif := congrArg Beyond.vif (raise_around c i m s)
@[simp] theorem raise_veh (c i m : Nat) (s : State) : (raise c i m s).veh = s.veh := congrArg Beyond.veh (raise_around c i m s)
@[simp] theorem raise_out (c i m : Nat) (s : State) (hf : c ≠ 0x680A := by decide) (hq : c ≠ 0x7002 := by decide) : (raise c i m s).out = s.out := congrArg Beyond.out (raise_beyond c i m s hf hq)
@[simp] theorem raise_sec (c i m : Nat) (s : State) : (raise c i m s).sec = s.sec := congrArg Beyond.sec (raise_around c i m s)
@[simp] theorem raise_otp (c i m : Nat) (s : State) : (raise c i m s).otp = s.otp := congrArg Beyond.otp (raise_around c i m s)
@[simp] theorem raise_freeIx (c i m : Nat) (s : State) : (raise c i m s).freeIx = s.freeIx := congrArg Beyond.freeIx (raise_around c i m s)
@[simp] theorem raise_pending (c i m : Nat) (s : State) : (raise c i m s).pending = s.pending := congrArg Beyond.pending (raise_around c i m s)
@[simp] theorem raise_sup (c i m : Nat) (s : State) : (raise c i m s).sup.fixed = s.sup.fixed := congrArg Beyond.sup (raise_around c i m s)
@[simp] theorem raise_ssDisagree (c i m : Nat) (s : State) : (raise c i m s).ssDisagree = s.ssDisagree := congrArg Beyond.ssDisagree (raise_around c i m s)
@[simp] theorem raise_ssTrials (c i m : Nat) (s : State) : (raise c i m s).ssTrials = s.ssTrials := congrArg Beyond.ssTrials (raise_around c i m s)
@[simp] theorem clearF_mer (c i : Nat) (s : State) : (clearF c i s).mer = s.mer := congrArg Beyond.mer (clearF_beyond c i s)
@[simp] theorem clearF_octl (c i : Nat) (s : State) : (clearF c i s).octl = s.octl := congrArg Beyond.octl (clearF_beyond c i s)
@[simp] theorem clearF_oview (c i : Nat) (s : State) : viewsFixed (clearF c i s).oview = viewsFixed s.oview := congrArg Beyond.oview (clearF_beyond c i s)
@[simp] theorem clearF_dc (c i : Nat) (s : State) : (clearF c i s).dc.fixed = s.dc.fixed := congrArg Beyond.dc (clearF_beyond c i s)
@[simp] theorem clearF_pos (c i : Nat) (s : State) : (clearF c i s).pos = s.pos := congrArg Beyond.pos (clearF_beyond c i s)
@[simp] theorem clearF_edge (c i : Nat) (s : State) : (clearF c i s).edge = s.edge := congrArg Beyond.edge (clearF_beyond c i s)
@[simp] theorem clearF_res (c i : Nat) (s : State) : (clearF c i s).res = s.res := congrArg Beyond.res (clearF_beyond c i s)
@[simp] theorem clearF_cal (c i : Nat) (s : State) : (clearF c i s).cal = s.cal := congrArg Beyond.cal (clearF_beyond c i s)
@[simp] theorem clearF_sent (c i : Nat) (s : State) : (clearF c i s).sent = s.sent := congrArg Beyond.sent (clearF_beyond c i s)
@[simp] theorem clearF_em (c i : Nat) (s : State) : (clearF c i s).em = s.em := congrArg Beyond.em (clearF_beyond c i s)
@[simp] theorem clearF_grid (c i : Nat) (s : State) : (clearF c i s).grid = s.grid := congrArg Beyond.grid (clearF_beyond c i s)
@[simp] theorem clearF_ka (c i : Nat) (s : State) : (clearF c i s).ka = s.ka := congrArg Beyond.ka (clearF_beyond c i s)
@[simp] theorem clearF_flash (c i : Nat) (s : State) : (clearF c i s).flash = s.flash := congrArg Beyond.flash (clearF_beyond c i s)
@[simp] theorem clearF_ops (c i : Nat) (s : State) : (clearF c i s).ops = s.ops := congrArg Beyond.ops (clearF_beyond c i s)
@[simp] theorem clearF_cat (c i : Nat) (s : State) : (clearF c i s).cat = s.cat := congrArg Beyond.cat (clearF_beyond c i s)
@[simp] theorem clearF_thm (c i : Nat) (s : State) : (clearF c i s).thm = s.thm := congrArg Beyond.thm (clearF_beyond c i s)
@[simp] theorem clearF_lks (c i : Nat) (s : State) : (clearF c i s).lks = s.lks := congrArg Beyond.lks (clearF_beyond c i s)
@[simp] theorem clearF_pq (c i : Nat) (s : State) : (clearF c i s).pq = s.pq := congrArg Beyond.pq (clearF_beyond c i s)
@[simp] theorem clearF_pqSeen (c i : Nat) (s : State) : (clearF c i s).pqSeen = s.pqSeen := congrArg Beyond.pqSeen (clearF_beyond c i s)
@[simp] theorem clearF_fab (c i : Nat) (s : State) : (clearF c i s).fab = s.fab := congrArg Beyond.fab (clearF_beyond c i s)
@[simp] theorem clearF_vif (c i : Nat) (s : State) : (clearF c i s).vif = s.vif := congrArg Beyond.vif (clearF_beyond c i s)
@[simp] theorem clearF_veh (c i : Nat) (s : State) : (clearF c i s).veh = s.veh := congrArg Beyond.veh (clearF_beyond c i s)
@[simp] theorem clearF_out (c i : Nat) (s : State) : (clearF c i s).out = s.out := congrArg Beyond.out (clearF_beyond c i s)
@[simp] theorem clearF_sec (c i : Nat) (s : State) : (clearF c i s).sec = s.sec := congrArg Beyond.sec (clearF_beyond c i s)
@[simp] theorem clearF_otp (c i : Nat) (s : State) : (clearF c i s).otp = s.otp := congrArg Beyond.otp (clearF_beyond c i s)
@[simp] theorem clearF_freeIx (c i : Nat) (s : State) : (clearF c i s).freeIx = s.freeIx := congrArg Beyond.freeIx (clearF_beyond c i s)
@[simp] theorem clearF_pending (c i : Nat) (s : State) : (clearF c i s).pending = s.pending := congrArg Beyond.pending (clearF_beyond c i s)
@[simp] theorem clearF_sup (c i : Nat) (s : State) : (clearF c i s).sup.fixed = s.sup.fixed := congrArg Beyond.sup (clearF_beyond c i s)
@[simp] theorem clearF_ssDisagree (c i : Nat) (s : State) : (clearF c i s).ssDisagree = s.ssDisagree := congrArg Beyond.ssDisagree (clearF_beyond c i s)
@[simp] theorem clearF_ssTrials (c i : Nat) (s : State) : (clearF c i s).ssTrials = s.ssTrials := congrArg Beyond.ssTrials (clearF_beyond c i s)
@[simp] theorem enterMode_mer (m : Mode) (s : State) : (enterMode m s).mer = s.mer := congrArg Beyond.mer (enterMode_beyond m s)
@[simp] theorem enterMode_octl (m : Mode) (s : State) : (enterMode m s).octl = s.octl := congrArg Beyond.octl (enterMode_beyond m s)
@[simp] theorem enterMode_oview (m : Mode) (s : State) : viewsFixed (enterMode m s).oview = viewsFixed s.oview := congrArg Beyond.oview (enterMode_beyond m s)
@[simp] theorem enterMode_dc (m : Mode) (s : State) : (enterMode m s).dc.fixed = s.dc.fixed := congrArg Beyond.dc (enterMode_beyond m s)
@[simp] theorem enterMode_pos (m : Mode) (s : State) : (enterMode m s).pos = s.pos := congrArg Beyond.pos (enterMode_beyond m s)
@[simp] theorem enterMode_edge (m : Mode) (s : State) : (enterMode m s).edge = s.edge := congrArg Beyond.edge (enterMode_beyond m s)
@[simp] theorem enterMode_res (m : Mode) (s : State) : (enterMode m s).res = s.res := congrArg Beyond.res (enterMode_beyond m s)
@[simp] theorem enterMode_cal (m : Mode) (s : State) : (enterMode m s).cal = s.cal := congrArg Beyond.cal (enterMode_beyond m s)
@[simp] theorem enterMode_sent (m : Mode) (s : State) : (enterMode m s).sent = s.sent := congrArg Beyond.sent (enterMode_beyond m s)
@[simp] theorem enterMode_em (m : Mode) (s : State) : (enterMode m s).em = s.em := congrArg Beyond.em (enterMode_beyond m s)
@[simp] theorem enterMode_grid (m : Mode) (s : State) : (enterMode m s).grid = s.grid := congrArg Beyond.grid (enterMode_beyond m s)
@[simp] theorem enterMode_ka (m : Mode) (s : State) : (enterMode m s).ka = s.ka := congrArg Beyond.ka (enterMode_beyond m s)
@[simp] theorem enterMode_flash (m : Mode) (s : State) : (enterMode m s).flash = s.flash := congrArg Beyond.flash (enterMode_beyond m s)
@[simp] theorem enterMode_ops (m : Mode) (s : State) : (enterMode m s).ops = s.ops := congrArg Beyond.ops (enterMode_beyond m s)
@[simp] theorem enterMode_cat (m : Mode) (s : State) : (enterMode m s).cat = s.cat := congrArg Beyond.cat (enterMode_beyond m s)
@[simp] theorem enterMode_thm (m : Mode) (s : State) : (enterMode m s).thm = s.thm := congrArg Beyond.thm (enterMode_beyond m s)
@[simp] theorem enterMode_lks (m : Mode) (s : State) : (enterMode m s).lks = s.lks := congrArg Beyond.lks (enterMode_beyond m s)
@[simp] theorem enterMode_pq (m : Mode) (s : State) : (enterMode m s).pq = s.pq := congrArg Beyond.pq (enterMode_beyond m s)
@[simp] theorem enterMode_pqSeen (m : Mode) (s : State) : (enterMode m s).pqSeen = s.pqSeen := congrArg Beyond.pqSeen (enterMode_beyond m s)
@[simp] theorem enterMode_fab (m : Mode) (s : State) : (enterMode m s).fab = s.fab := congrArg Beyond.fab (enterMode_beyond m s)
@[simp] theorem enterMode_vif (m : Mode) (s : State) : (enterMode m s).vif = s.vif := congrArg Beyond.vif (enterMode_beyond m s)
@[simp] theorem enterMode_veh (m : Mode) (s : State) : (enterMode m s).veh = s.veh := congrArg Beyond.veh (enterMode_beyond m s)
@[simp] theorem enterMode_out (m : Mode) (s : State) : (enterMode m s).out = s.out := congrArg Beyond.out (enterMode_beyond m s)
@[simp] theorem enterMode_sec (m : Mode) (s : State) : (enterMode m s).sec = s.sec := congrArg Beyond.sec (enterMode_beyond m s)
@[simp] theorem enterMode_otp (m : Mode) (s : State) : (enterMode m s).otp = s.otp := congrArg Beyond.otp (enterMode_beyond m s)
@[simp] theorem enterMode_freeIx (m : Mode) (s : State) : (enterMode m s).freeIx = s.freeIx := congrArg Beyond.freeIx (enterMode_beyond m s)
@[simp] theorem enterMode_pending (m : Mode) (s : State) : (enterMode m s).pending = s.pending := congrArg Beyond.pending (enterMode_beyond m s)
@[simp] theorem enterMode_sup (m : Mode) (s : State) : (enterMode m s).sup.fixed = s.sup.fixed := congrArg Beyond.sup (enterMode_beyond m s)
@[simp] theorem enterMode_ssDisagree (m : Mode) (s : State) : (enterMode m s).ssDisagree = s.ssDisagree := congrArg Beyond.ssDisagree (enterMode_beyond m s)
@[simp] theorem enterMode_ssTrials (m : Mode) (s : State) : (enterMode m s).ssTrials = s.ssTrials := congrArg Beyond.ssTrials (enterMode_beyond m s)
@[simp] theorem stopGroup_mer (g : Grp) (s : State) : (stopGroup g s).mer = s.mer := congrArg Beyond.mer (stopGroup_beyond g s)
@[simp] theorem stopGroup_octl (g : Grp) (s : State) : (stopGroup g s).octl = s.octl := congrArg Beyond.octl (stopGroup_beyond g s)
@[simp] theorem stopGroup_oview (g : Grp) (s : State) : viewsFixed (stopGroup g s).oview = viewsFixed s.oview := congrArg Beyond.oview (stopGroup_beyond g s)
@[simp] theorem stopGroup_dc (g : Grp) (s : State) : (stopGroup g s).dc.fixed = s.dc.fixed := congrArg Beyond.dc (stopGroup_beyond g s)
@[simp] theorem stopGroup_pos (g : Grp) (s : State) : (stopGroup g s).pos = s.pos := congrArg Beyond.pos (stopGroup_beyond g s)
@[simp] theorem stopGroup_edge (g : Grp) (s : State) : (stopGroup g s).edge = s.edge := congrArg Beyond.edge (stopGroup_beyond g s)
@[simp] theorem stopGroup_res (g : Grp) (s : State) : (stopGroup g s).res = s.res := congrArg Beyond.res (stopGroup_beyond g s)
@[simp] theorem stopGroup_cal (g : Grp) (s : State) : (stopGroup g s).cal = s.cal := congrArg Beyond.cal (stopGroup_beyond g s)
@[simp] theorem stopGroup_sent (g : Grp) (s : State) : (stopGroup g s).sent = s.sent := congrArg Beyond.sent (stopGroup_beyond g s)
@[simp] theorem stopGroup_em (g : Grp) (s : State) : (stopGroup g s).em = s.em := congrArg Beyond.em (stopGroup_beyond g s)
@[simp] theorem stopGroup_grid (g : Grp) (s : State) : (stopGroup g s).grid = s.grid := congrArg Beyond.grid (stopGroup_beyond g s)
@[simp] theorem stopGroup_ka (g : Grp) (s : State) : (stopGroup g s).ka = s.ka := congrArg Beyond.ka (stopGroup_beyond g s)
@[simp] theorem stopGroup_flash (g : Grp) (s : State) : (stopGroup g s).flash = s.flash := congrArg Beyond.flash (stopGroup_beyond g s)
@[simp] theorem stopGroup_ops (g : Grp) (s : State) : (stopGroup g s).ops = s.ops := congrArg Beyond.ops (stopGroup_beyond g s)
@[simp] theorem stopGroup_cat (g : Grp) (s : State) : (stopGroup g s).cat = s.cat := congrArg Beyond.cat (stopGroup_beyond g s)
@[simp] theorem stopGroup_thm (g : Grp) (s : State) : (stopGroup g s).thm = s.thm := congrArg Beyond.thm (stopGroup_beyond g s)
@[simp] theorem stopGroup_lks (g : Grp) (s : State) : (stopGroup g s).lks = s.lks := congrArg Beyond.lks (stopGroup_beyond g s)
@[simp] theorem stopGroup_pq (g : Grp) (s : State) : (stopGroup g s).pq = s.pq := congrArg Beyond.pq (stopGroup_beyond g s)
@[simp] theorem stopGroup_pqSeen (g : Grp) (s : State) : (stopGroup g s).pqSeen = s.pqSeen := congrArg Beyond.pqSeen (stopGroup_beyond g s)
@[simp] theorem stopGroup_fab (g : Grp) (s : State) : (stopGroup g s).fab = s.fab := congrArg Beyond.fab (stopGroup_beyond g s)
@[simp] theorem stopGroup_vif (g : Grp) (s : State) : (stopGroup g s).vif = s.vif := congrArg Beyond.vif (stopGroup_beyond g s)
@[simp] theorem stopGroup_veh (g : Grp) (s : State) : (stopGroup g s).veh = s.veh := congrArg Beyond.veh (stopGroup_beyond g s)
@[simp] theorem stopGroup_out (g : Grp) (s : State) : (stopGroup g s).out = s.out := congrArg Beyond.out (stopGroup_beyond g s)
@[simp] theorem stopGroup_sec (g : Grp) (s : State) : (stopGroup g s).sec = s.sec := congrArg Beyond.sec (stopGroup_beyond g s)
@[simp] theorem stopGroup_otp (g : Grp) (s : State) : (stopGroup g s).otp = s.otp := congrArg Beyond.otp (stopGroup_beyond g s)
@[simp] theorem stopGroup_freeIx (g : Grp) (s : State) : (stopGroup g s).freeIx = s.freeIx := congrArg Beyond.freeIx (stopGroup_beyond g s)
@[simp] theorem stopGroup_pending (g : Grp) (s : State) : (stopGroup g s).pending = s.pending := congrArg Beyond.pending (stopGroup_beyond g s)
@[simp] theorem stopGroup_sup (g : Grp) (s : State) : (stopGroup g s).sup.fixed = s.sup.fixed := congrArg Beyond.sup (stopGroup_beyond g s)
@[simp] theorem stopGroup_ssDisagree (g : Grp) (s : State) : (stopGroup g s).ssDisagree = s.ssDisagree := congrArg Beyond.ssDisagree (stopGroup_beyond g s)
@[simp] theorem stopGroup_ssTrials (g : Grp) (s : State) : (stopGroup g s).ssTrials = s.ssTrials := congrArg Beyond.ssTrials (stopGroup_beyond g s)
@[simp] theorem raiseBase_mer (c i m : Nat) (s : State) : (raiseBase c i m s).mer = s.mer := congrArg Beyond.mer (raiseBase_beyond c i m s)
@[simp] theorem raiseBase_octl (c i m : Nat) (s : State) : (raiseBase c i m s).octl = s.octl := congrArg Beyond.octl (raiseBase_beyond c i m s)
@[simp] theorem raiseBase_oview (c i m : Nat) (s : State) : viewsFixed (raiseBase c i m s).oview = viewsFixed s.oview := congrArg Beyond.oview (raiseBase_beyond c i m s)
@[simp] theorem raiseBase_dc (c i m : Nat) (s : State) : (raiseBase c i m s).dc.fixed = s.dc.fixed := congrArg Beyond.dc (raiseBase_beyond c i m s)
@[simp] theorem raiseBase_pos (c i m : Nat) (s : State) : (raiseBase c i m s).pos = s.pos := congrArg Beyond.pos (raiseBase_beyond c i m s)
@[simp] theorem raiseBase_edge (c i m : Nat) (s : State) : (raiseBase c i m s).edge = s.edge := congrArg Beyond.edge (raiseBase_beyond c i m s)
@[simp] theorem raiseBase_res (c i m : Nat) (s : State) : (raiseBase c i m s).res = s.res := congrArg Beyond.res (raiseBase_beyond c i m s)
@[simp] theorem raiseBase_cal (c i m : Nat) (s : State) : (raiseBase c i m s).cal = s.cal := congrArg Beyond.cal (raiseBase_beyond c i m s)
@[simp] theorem raiseBase_sent (c i m : Nat) (s : State) : (raiseBase c i m s).sent = s.sent := congrArg Beyond.sent (raiseBase_beyond c i m s)
@[simp] theorem raiseBase_em (c i m : Nat) (s : State) : (raiseBase c i m s).em = s.em := congrArg Beyond.em (raiseBase_beyond c i m s)
@[simp] theorem raiseBase_grid (c i m : Nat) (s : State) : (raiseBase c i m s).grid = s.grid := congrArg Beyond.grid (raiseBase_beyond c i m s)
@[simp] theorem raiseBase_ka (c i m : Nat) (s : State) : (raiseBase c i m s).ka = s.ka := congrArg Beyond.ka (raiseBase_beyond c i m s)
@[simp] theorem raiseBase_flash (c i m : Nat) (s : State) : (raiseBase c i m s).flash = s.flash := congrArg Beyond.flash (raiseBase_beyond c i m s)
@[simp] theorem raiseBase_ops (c i m : Nat) (s : State) : (raiseBase c i m s).ops = s.ops := congrArg Beyond.ops (raiseBase_beyond c i m s)
@[simp] theorem raiseBase_cat (c i m : Nat) (s : State) : (raiseBase c i m s).cat = s.cat := congrArg Beyond.cat (raiseBase_beyond c i m s)
@[simp] theorem raiseBase_thm (c i m : Nat) (s : State) : (raiseBase c i m s).thm = s.thm := congrArg Beyond.thm (raiseBase_beyond c i m s)
@[simp] theorem raiseBase_lks (c i m : Nat) (s : State) : (raiseBase c i m s).lks = s.lks := congrArg Beyond.lks (raiseBase_beyond c i m s)
@[simp] theorem raiseBase_pq (c i m : Nat) (s : State) : (raiseBase c i m s).pq = s.pq := congrArg Beyond.pq (raiseBase_beyond c i m s)
@[simp] theorem raiseBase_pqSeen (c i m : Nat) (s : State) : (raiseBase c i m s).pqSeen = s.pqSeen := congrArg Beyond.pqSeen (raiseBase_beyond c i m s)
@[simp] theorem raiseBase_fab (c i m : Nat) (s : State) : (raiseBase c i m s).fab = s.fab := congrArg Beyond.fab (raiseBase_beyond c i m s)
@[simp] theorem raiseBase_vif (c i m : Nat) (s : State) : (raiseBase c i m s).vif = s.vif := congrArg Beyond.vif (raiseBase_beyond c i m s)
@[simp] theorem raiseBase_veh (c i m : Nat) (s : State) : (raiseBase c i m s).veh = s.veh := congrArg Beyond.veh (raiseBase_beyond c i m s)
@[simp] theorem raiseBase_out (c i m : Nat) (s : State) : (raiseBase c i m s).out = s.out := congrArg Beyond.out (raiseBase_beyond c i m s)
@[simp] theorem raiseBase_sec (c i m : Nat) (s : State) : (raiseBase c i m s).sec = s.sec := congrArg Beyond.sec (raiseBase_beyond c i m s)
@[simp] theorem raiseBase_otp (c i m : Nat) (s : State) : (raiseBase c i m s).otp = s.otp := congrArg Beyond.otp (raiseBase_beyond c i m s)
@[simp] theorem raiseBase_freeIx (c i m : Nat) (s : State) : (raiseBase c i m s).freeIx = s.freeIx := congrArg Beyond.freeIx (raiseBase_beyond c i m s)
@[simp] theorem raiseBase_pending (c i m : Nat) (s : State) : (raiseBase c i m s).pending = s.pending := congrArg Beyond.pending (raiseBase_beyond c i m s)
@[simp] theorem raiseBase_sup (c i m : Nat) (s : State) : (raiseBase c i m s).sup.fixed = s.sup.fixed := congrArg Beyond.sup (raiseBase_beyond c i m s)
@[simp] theorem raiseBase_ssDisagree (c i m : Nat) (s : State) : (raiseBase c i m s).ssDisagree = s.ssDisagree := congrArg Beyond.ssDisagree (raiseBase_beyond c i m s)
@[simp] theorem raiseBase_ssTrials (c i m : Nat) (s : State) : (raiseBase c i m s).ssTrials = s.ssTrials := congrArg Beyond.ssTrials (raiseBase_beyond c i m s)
@[simp] theorem raiseBy_mer (b c i m : Nat) (s : State) : (raiseBy b c i m s).mer = s.mer := congrArg Beyond.mer (raiseBy_around b c i m s)
@[simp] theorem raiseBy_octl (b c i m : Nat) (s : State) : (raiseBy b c i m s).octl = s.octl := congrArg Beyond.octl (raiseBy_around b c i m s)
@[simp] theorem raiseBy_oview (b c i m : Nat) (s : State) : viewsFixed (raiseBy b c i m s).oview = viewsFixed s.oview := congrArg Beyond.oview (raiseBy_around b c i m s)
@[simp] theorem raiseBy_dc (b c i m : Nat) (s : State) : (raiseBy b c i m s).dc.fixed = s.dc.fixed := congrArg Beyond.dc (raiseBy_around b c i m s)
@[simp] theorem raiseBy_pos (b c i m : Nat) (s : State) : (raiseBy b c i m s).pos = s.pos := congrArg Beyond.pos (raiseBy_around b c i m s)
@[simp] theorem raiseBy_edge (b c i m : Nat) (s : State) : (raiseBy b c i m s).edge = s.edge := congrArg Beyond.edge (raiseBy_around b c i m s)
@[simp] theorem raiseBy_res (b c i m : Nat) (s : State) : (raiseBy b c i m s).res = s.res := congrArg Beyond.res (raiseBy_around b c i m s)
@[simp] theorem raiseBy_cal (b c i m : Nat) (s : State) : (raiseBy b c i m s).cal = s.cal := congrArg Beyond.cal (raiseBy_around b c i m s)
@[simp] theorem raiseBy_sent (b c i m : Nat) (s : State) : (raiseBy b c i m s).sent = s.sent := congrArg Beyond.sent (raiseBy_around b c i m s)
@[simp] theorem raiseBy_em (b c i m : Nat) (s : State) : (raiseBy b c i m s).em = s.em := congrArg Beyond.em (raiseBy_around b c i m s)
@[simp] theorem raiseBy_grid (b c i m : Nat) (s : State) : (raiseBy b c i m s).grid = s.grid := congrArg Beyond.grid (raiseBy_around b c i m s)
@[simp] theorem raiseBy_ka (b c i m : Nat) (s : State) : (raiseBy b c i m s).ka = s.ka := congrArg Beyond.ka (raiseBy_around b c i m s)
@[simp] theorem raiseBy_flash (b c i m : Nat) (s : State) : (raiseBy b c i m s).flash = s.flash := congrArg Beyond.flash (raiseBy_around b c i m s)
@[simp] theorem raiseBy_ops (b c i m : Nat) (s : State) : (raiseBy b c i m s).ops = s.ops := congrArg Beyond.ops (raiseBy_around b c i m s)
@[simp] theorem raiseBy_cat (b c i m : Nat) (s : State) (hf : c ≠ 0x680A := by decide) (hq : c ≠ 0x7002 := by decide) : (raiseBy b c i m s).cat = s.cat := congrArg Beyond.cat (raiseBy_beyond b c i m s hf hq)
@[simp] theorem raiseBy_thm (b c i m : Nat) (s : State) : (raiseBy b c i m s).thm = s.thm := congrArg Beyond.thm (raiseBy_around b c i m s)
@[simp] theorem raiseBy_lks (b c i m : Nat) (s : State) : (raiseBy b c i m s).lks = s.lks := congrArg Beyond.lks (raiseBy_around b c i m s)
@[simp] theorem raiseBy_pq (b c i m : Nat) (s : State) : (raiseBy b c i m s).pq = s.pq := congrArg Beyond.pq (raiseBy_around b c i m s)
@[simp] theorem raiseBy_pqSeen (b c i m : Nat) (s : State) : (raiseBy b c i m s).pqSeen = s.pqSeen := congrArg Beyond.pqSeen (raiseBy_around b c i m s)
@[simp] theorem raiseBy_fab (b c i m : Nat) (s : State) (hf : c ≠ 0x680A := by decide) (hq : c ≠ 0x7002 := by decide) : (raiseBy b c i m s).fab = s.fab := congrArg Beyond.fab (raiseBy_beyond b c i m s hf hq)
@[simp] theorem raiseBy_vif (b c i m : Nat) (s : State) : (raiseBy b c i m s).vif = s.vif := congrArg Beyond.vif (raiseBy_around b c i m s)
@[simp] theorem raiseBy_veh (b c i m : Nat) (s : State) : (raiseBy b c i m s).veh = s.veh := congrArg Beyond.veh (raiseBy_around b c i m s)
@[simp] theorem raiseBy_out (b c i m : Nat) (s : State) (hf : c ≠ 0x680A := by decide) (hq : c ≠ 0x7002 := by decide) : (raiseBy b c i m s).out = s.out := congrArg Beyond.out (raiseBy_beyond b c i m s hf hq)
@[simp] theorem raiseBy_sec (b c i m : Nat) (s : State) : (raiseBy b c i m s).sec = s.sec := congrArg Beyond.sec (raiseBy_around b c i m s)
@[simp] theorem raiseBy_otp (b c i m : Nat) (s : State) : (raiseBy b c i m s).otp = s.otp := congrArg Beyond.otp (raiseBy_around b c i m s)
@[simp] theorem raiseBy_freeIx (b c i m : Nat) (s : State) : (raiseBy b c i m s).freeIx = s.freeIx := congrArg Beyond.freeIx (raiseBy_around b c i m s)
@[simp] theorem raiseBy_pending (b c i m : Nat) (s : State) : (raiseBy b c i m s).pending = s.pending := congrArg Beyond.pending (raiseBy_around b c i m s)
@[simp] theorem raiseBy_sup (b c i m : Nat) (s : State) : (raiseBy b c i m s).sup.fixed = s.sup.fixed := congrArg Beyond.sup (raiseBy_around b c i m s)
@[simp] theorem raiseBy_ssDisagree (b c i m : Nat) (s : State) : (raiseBy b c i m s).ssDisagree = s.ssDisagree := congrArg Beyond.ssDisagree (raiseBy_around b c i m s)
@[simp] theorem raiseBy_ssTrials (b c i m : Nat) (s : State) : (raiseBy b c i m s).ssTrials = s.ssTrials := congrArg Beyond.ssTrials (raiseBy_around b c i m s)
@[simp] theorem stopCharger_mer (s : State) : (stopCharger s).mer = s.mer := congrArg Beyond.mer (stopCharger_beyond s)
@[simp] theorem stopCharger_octl (s : State) : (stopCharger s).octl = s.octl := congrArg Beyond.octl (stopCharger_beyond s)
@[simp] theorem stopCharger_oview (s : State) : viewsFixed (stopCharger s).oview = viewsFixed s.oview := congrArg Beyond.oview (stopCharger_beyond s)
@[simp] theorem stopCharger_dc (s : State) : (stopCharger s).dc.fixed = s.dc.fixed := congrArg Beyond.dc (stopCharger_beyond s)
@[simp] theorem stopCharger_pos (s : State) : (stopCharger s).pos = s.pos := congrArg Beyond.pos (stopCharger_beyond s)
@[simp] theorem stopCharger_edge (s : State) : (stopCharger s).edge = s.edge := congrArg Beyond.edge (stopCharger_beyond s)
@[simp] theorem stopCharger_res (s : State) : (stopCharger s).res = s.res := congrArg Beyond.res (stopCharger_beyond s)
@[simp] theorem stopCharger_cal (s : State) : (stopCharger s).cal = s.cal := congrArg Beyond.cal (stopCharger_beyond s)
@[simp] theorem stopCharger_sent (s : State) : (stopCharger s).sent = s.sent := congrArg Beyond.sent (stopCharger_beyond s)
@[simp] theorem stopCharger_em (s : State) : (stopCharger s).em = s.em := congrArg Beyond.em (stopCharger_beyond s)
@[simp] theorem stopCharger_grid (s : State) : (stopCharger s).grid = s.grid := congrArg Beyond.grid (stopCharger_beyond s)
@[simp] theorem stopCharger_ka (s : State) : (stopCharger s).ka = s.ka := congrArg Beyond.ka (stopCharger_beyond s)
@[simp] theorem stopCharger_flash (s : State) : (stopCharger s).flash = s.flash := congrArg Beyond.flash (stopCharger_beyond s)
@[simp] theorem stopCharger_ops (s : State) : (stopCharger s).ops = s.ops := congrArg Beyond.ops (stopCharger_beyond s)
@[simp] theorem stopCharger_cat (s : State) : (stopCharger s).cat = s.cat := congrArg Beyond.cat (stopCharger_beyond s)
@[simp] theorem stopCharger_thm (s : State) : (stopCharger s).thm = s.thm := congrArg Beyond.thm (stopCharger_beyond s)
@[simp] theorem stopCharger_lks (s : State) : (stopCharger s).lks = s.lks := congrArg Beyond.lks (stopCharger_beyond s)
@[simp] theorem stopCharger_pq (s : State) : (stopCharger s).pq = s.pq := congrArg Beyond.pq (stopCharger_beyond s)
@[simp] theorem stopCharger_pqSeen (s : State) : (stopCharger s).pqSeen = s.pqSeen := congrArg Beyond.pqSeen (stopCharger_beyond s)
@[simp] theorem stopCharger_fab (s : State) : (stopCharger s).fab = s.fab := congrArg Beyond.fab (stopCharger_beyond s)
@[simp] theorem stopCharger_vif (s : State) : (stopCharger s).vif = s.vif := congrArg Beyond.vif (stopCharger_beyond s)
@[simp] theorem stopCharger_veh (s : State) : (stopCharger s).veh = s.veh := congrArg Beyond.veh (stopCharger_beyond s)
@[simp] theorem stopCharger_out (s : State) : (stopCharger s).out = s.out := congrArg Beyond.out (stopCharger_beyond s)
@[simp] theorem stopCharger_sec (s : State) : (stopCharger s).sec = s.sec := congrArg Beyond.sec (stopCharger_beyond s)
@[simp] theorem stopCharger_otp (s : State) : (stopCharger s).otp = s.otp := congrArg Beyond.otp (stopCharger_beyond s)
@[simp] theorem stopCharger_freeIx (s : State) : (stopCharger s).freeIx = s.freeIx := congrArg Beyond.freeIx (stopCharger_beyond s)
@[simp] theorem stopCharger_pending (s : State) : (stopCharger s).pending = s.pending := congrArg Beyond.pending (stopCharger_beyond s)
@[simp] theorem stopCharger_sup (s : State) : (stopCharger s).sup.fixed = s.sup.fixed := congrArg Beyond.sup (stopCharger_beyond s)
@[simp] theorem stopCharger_ssDisagree (s : State) : (stopCharger s).ssDisagree = s.ssDisagree := congrArg Beyond.ssDisagree (stopCharger_beyond s)
@[simp] theorem stopCharger_ssTrials (s : State) : (stopCharger s).ssTrials = s.ssTrials := congrArg Beyond.ssTrials (stopCharger_beyond s)
@[simp] theorem enterSafe_mer (t : TSet) (s : State) : (enterSafe t s).mer = s.mer := congrArg Beyond.mer (enterSafe_beyond t s)
@[simp] theorem enterSafe_octl (t : TSet) (s : State) : (enterSafe t s).octl = s.octl := congrArg Beyond.octl (enterSafe_beyond t s)
@[simp] theorem enterSafe_oview (t : TSet) (s : State) : viewsFixed (enterSafe t s).oview = viewsFixed s.oview := congrArg Beyond.oview (enterSafe_beyond t s)
@[simp] theorem enterSafe_dc (t : TSet) (s : State) : (enterSafe t s).dc.fixed = s.dc.fixed := congrArg Beyond.dc (enterSafe_beyond t s)
@[simp] theorem enterSafe_pos (t : TSet) (s : State) : (enterSafe t s).pos = s.pos := congrArg Beyond.pos (enterSafe_beyond t s)
@[simp] theorem enterSafe_edge (t : TSet) (s : State) : (enterSafe t s).edge = s.edge := congrArg Beyond.edge (enterSafe_beyond t s)
@[simp] theorem enterSafe_res (t : TSet) (s : State) : (enterSafe t s).res = s.res := congrArg Beyond.res (enterSafe_beyond t s)
@[simp] theorem enterSafe_cal (t : TSet) (s : State) : (enterSafe t s).cal = s.cal := congrArg Beyond.cal (enterSafe_beyond t s)
@[simp] theorem enterSafe_sent (t : TSet) (s : State) : (enterSafe t s).sent = s.sent := congrArg Beyond.sent (enterSafe_beyond t s)
@[simp] theorem enterSafe_em (t : TSet) (s : State) : (enterSafe t s).em = s.em := congrArg Beyond.em (enterSafe_beyond t s)
@[simp] theorem enterSafe_grid (t : TSet) (s : State) : (enterSafe t s).grid = s.grid := congrArg Beyond.grid (enterSafe_beyond t s)
@[simp] theorem enterSafe_ka (t : TSet) (s : State) : (enterSafe t s).ka = s.ka := congrArg Beyond.ka (enterSafe_beyond t s)
@[simp] theorem enterSafe_flash (t : TSet) (s : State) : (enterSafe t s).flash = s.flash := congrArg Beyond.flash (enterSafe_beyond t s)
@[simp] theorem enterSafe_ops (t : TSet) (s : State) : (enterSafe t s).ops = s.ops := congrArg Beyond.ops (enterSafe_beyond t s)
@[simp] theorem enterSafe_cat (t : TSet) (s : State) : (enterSafe t s).cat = s.cat := congrArg Beyond.cat (enterSafe_beyond t s)
@[simp] theorem enterSafe_thm (t : TSet) (s : State) : (enterSafe t s).thm = s.thm := congrArg Beyond.thm (enterSafe_beyond t s)
@[simp] theorem enterSafe_lks (t : TSet) (s : State) : (enterSafe t s).lks = s.lks := congrArg Beyond.lks (enterSafe_beyond t s)
@[simp] theorem enterSafe_pq (t : TSet) (s : State) : (enterSafe t s).pq = s.pq := congrArg Beyond.pq (enterSafe_beyond t s)
@[simp] theorem enterSafe_pqSeen (t : TSet) (s : State) : (enterSafe t s).pqSeen = s.pqSeen := congrArg Beyond.pqSeen (enterSafe_beyond t s)
@[simp] theorem enterSafe_fab (t : TSet) (s : State) : (enterSafe t s).fab = s.fab := congrArg Beyond.fab (enterSafe_beyond t s)
@[simp] theorem enterSafe_vif (t : TSet) (s : State) : (enterSafe t s).vif = s.vif := congrArg Beyond.vif (enterSafe_beyond t s)
@[simp] theorem enterSafe_veh (t : TSet) (s : State) : (enterSafe t s).veh = s.veh := congrArg Beyond.veh (enterSafe_beyond t s)
@[simp] theorem enterSafe_out (t : TSet) (s : State) : (enterSafe t s).out = s.out := congrArg Beyond.out (enterSafe_beyond t s)
@[simp] theorem enterSafe_sec (t : TSet) (s : State) : (enterSafe t s).sec = s.sec := congrArg Beyond.sec (enterSafe_beyond t s)
@[simp] theorem enterSafe_otp (t : TSet) (s : State) : (enterSafe t s).otp = s.otp := congrArg Beyond.otp (enterSafe_beyond t s)
@[simp] theorem enterSafe_freeIx (t : TSet) (s : State) : (enterSafe t s).freeIx = s.freeIx := congrArg Beyond.freeIx (enterSafe_beyond t s)
@[simp] theorem enterSafe_pending (t : TSet) (s : State) : (enterSafe t s).pending = s.pending := congrArg Beyond.pending (enterSafe_beyond t s)
@[simp] theorem enterSafe_sup (t : TSet) (s : State) : (enterSafe t s).sup.fixed = s.sup.fixed := congrArg Beyond.sup (enterSafe_beyond t s)
@[simp] theorem enterSafe_ssDisagree (t : TSet) (s : State) : (enterSafe t s).ssDisagree = s.ssDisagree := congrArg Beyond.ssDisagree (enterSafe_beyond t s)
@[simp] theorem enterSafe_ssTrials (t : TSet) (s : State) : (enterSafe t s).ssTrials = s.ssTrials := congrArg Beyond.ssTrials (enterSafe_beyond t s)
@[simp] theorem actHalt_mer (a : Act) (s : State) : (actHalt a s).mer = s.mer := congrArg Beyond.mer (actHalt_beyond a s)
@[simp] theorem actHalt_octl (a : Act) (s : State) : (actHalt a s).octl = s.octl := congrArg Beyond.octl (actHalt_beyond a s)
@[simp] theorem actHalt_oview (a : Act) (s : State) : viewsFixed (actHalt a s).oview = viewsFixed s.oview := congrArg Beyond.oview (actHalt_beyond a s)
@[simp] theorem actHalt_dc (a : Act) (s : State) : (actHalt a s).dc.fixed = s.dc.fixed := congrArg Beyond.dc (actHalt_beyond a s)
@[simp] theorem actHalt_pos (a : Act) (s : State) : (actHalt a s).pos = s.pos := congrArg Beyond.pos (actHalt_beyond a s)
@[simp] theorem actHalt_edge (a : Act) (s : State) : (actHalt a s).edge = s.edge := congrArg Beyond.edge (actHalt_beyond a s)
@[simp] theorem actHalt_res (a : Act) (s : State) : (actHalt a s).res = s.res := congrArg Beyond.res (actHalt_beyond a s)
@[simp] theorem actHalt_cal (a : Act) (s : State) : (actHalt a s).cal = s.cal := congrArg Beyond.cal (actHalt_beyond a s)
@[simp] theorem actHalt_sent (a : Act) (s : State) : (actHalt a s).sent = s.sent := congrArg Beyond.sent (actHalt_beyond a s)
@[simp] theorem actHalt_em (a : Act) (s : State) : (actHalt a s).em = s.em := congrArg Beyond.em (actHalt_beyond a s)
@[simp] theorem actHalt_grid (a : Act) (s : State) : (actHalt a s).grid = s.grid := congrArg Beyond.grid (actHalt_beyond a s)
@[simp] theorem actHalt_ka (a : Act) (s : State) : (actHalt a s).ka = s.ka := congrArg Beyond.ka (actHalt_beyond a s)
@[simp] theorem actHalt_flash (a : Act) (s : State) : (actHalt a s).flash = s.flash := congrArg Beyond.flash (actHalt_beyond a s)
@[simp] theorem actHalt_ops (a : Act) (s : State) : (actHalt a s).ops = s.ops := congrArg Beyond.ops (actHalt_beyond a s)
@[simp] theorem actHalt_cat (a : Act) (s : State) : (actHalt a s).cat = s.cat := congrArg Beyond.cat (actHalt_beyond a s)
@[simp] theorem actHalt_thm (a : Act) (s : State) : (actHalt a s).thm = s.thm := congrArg Beyond.thm (actHalt_beyond a s)
@[simp] theorem actHalt_lks (a : Act) (s : State) : (actHalt a s).lks = s.lks := congrArg Beyond.lks (actHalt_beyond a s)
@[simp] theorem actHalt_pq (a : Act) (s : State) : (actHalt a s).pq = s.pq := congrArg Beyond.pq (actHalt_beyond a s)
@[simp] theorem actHalt_pqSeen (a : Act) (s : State) : (actHalt a s).pqSeen = s.pqSeen := congrArg Beyond.pqSeen (actHalt_beyond a s)
@[simp] theorem actHalt_fab (a : Act) (s : State) : (actHalt a s).fab = s.fab := congrArg Beyond.fab (actHalt_beyond a s)
@[simp] theorem actHalt_vif (a : Act) (s : State) : (actHalt a s).vif = s.vif := congrArg Beyond.vif (actHalt_beyond a s)
@[simp] theorem actHalt_veh (a : Act) (s : State) : (actHalt a s).veh = s.veh := congrArg Beyond.veh (actHalt_beyond a s)
@[simp] theorem actHalt_out (a : Act) (s : State) : (actHalt a s).out = s.out := congrArg Beyond.out (actHalt_beyond a s)
@[simp] theorem actHalt_sec (a : Act) (s : State) : (actHalt a s).sec = s.sec := congrArg Beyond.sec (actHalt_beyond a s)
@[simp] theorem actHalt_otp (a : Act) (s : State) : (actHalt a s).otp = s.otp := congrArg Beyond.otp (actHalt_beyond a s)
@[simp] theorem actHalt_freeIx (a : Act) (s : State) : (actHalt a s).freeIx = s.freeIx := congrArg Beyond.freeIx (actHalt_beyond a s)
@[simp] theorem actHalt_pending (a : Act) (s : State) : (actHalt a s).pending = s.pending := congrArg Beyond.pending (actHalt_beyond a s)
@[simp] theorem actHalt_sup (a : Act) (s : State) : (actHalt a s).sup.fixed = s.sup.fixed := congrArg Beyond.sup (actHalt_beyond a s)
@[simp] theorem actHalt_ssDisagree (a : Act) (s : State) : (actHalt a s).ssDisagree = s.ssDisagree := congrArg Beyond.ssDisagree (actHalt_beyond a s)
@[simp] theorem actHalt_ssTrials (a : Act) (s : State) : (actHalt a s).ssTrials = s.ssTrials := congrArg Beyond.ssTrials (actHalt_beyond a s)

end Sys2Proof.Machine
end

