-- ==== Sys2Proof/Laws/Gates.lean ====
section
/-! SUPPORT. What a fault, its reaction and a change of mode leave of the gate channels: every flag and count, and no output that was
off comes on. -/

namespace Sys2Proof.Machine

/-- The flags, counts and readings of every channel, and what the gate drive holds beside its channels. -/
def Gd.flags (g : Gd) : (Chan → GdChan) × Gd := (fun c => (g.ch.get c).flags, { g with ch := Tab.fill GdChan.reset })

theorem Gd.flags_get {g h : Gd} (e : g.flags = h.flags) (c : Chan) : (g.ch.get c).flags = (h.ch.get c).flags := congrFun (congrArg Prod.fst e) c

@[simp ↓] theorem gd_ite (c : Prop) [Decidable c] (a b : State) : (if c then a else b).gd = if c then a.gd else b.gd := by split <;> rfl
@[simp] theorem flags_ite (c : Prop) [Decidable c] (a b : Gd) : (if c then a else b).flags = if c then a.flags else b.flags := by split <;> rfl
@[simp] theorem flags_foldl {α : Type} (f : State → α → State) (h : ∀ s a, (f s a).gd.flags = s.gd.flags) (xs : List α) (s : State) : (xs.foldl f s).gd.flags = s.gd.flags := by
  induction xs generalizing s with
  | nil => rfl
  | cons a xs ih => simp [List.foldl, ih, h]
theorem updCh_flags (s : State) (c : Chan) (f : GdChan → GdChan) (h : ∀ x, (f x).flags = x.flags) : (s.updCh c f).gd.flags = s.gd.flags := by
  unfold Gd.flags State.updCh
  refine Prod.ext (funext fun d => ?_) rfl
  show ((s.gd.ch.upd c f).get d).flags = _
  rw [Tab.get_upd]
  split
  · rename_i e; rw [h, e]
  · rfl
@[simp] theorem offSinkAt_flags (ns : Nat) (c : Chan) (s : State) : (offSinkAt ns c s).gd.flags = s.gd.flags := by
  unfold offSinkAt
  split
  · exact updCh_flags _ _ _ (fun _ => rfl)
  · rfl
@[simp] theorem offSoftAt_flags (ns : Nat) (c : Chan) (s : State) : (offSoftAt ns c s).gd.flags = s.gd.flags := by
  unfold offSoftAt
  split
  · exact updCh_flags _ _ _ (fun _ => rfl)
  · rfl
@[simp] theorem offSink_flags (c : Chan) (s : State) : (offSink c s).gd.flags = s.gd.flags := offSinkAt_flags _ c s
@[simp] theorem offSoft_flags (c : Chan) (s : State) : (offSoft c s).gd.flags = s.gd.flags := offSoftAt_flags _ c s
@[simp] theorem stopChan_flags (s : State) (c : Chan) : (stopChan s c).gd.flags = s.gd.flags := by
  unfold stopChan
  exact (updCh_flags (offSink c s) c (fun x => { x with cmd := false, needEdge := false, refr := none }) (fun _ => rfl)).trans (offSink_flags c s)
@[simp] theorem railLost_flags (s : State) (c : Chan) : (railLost s c).gd.flags = s.gd.flags := by
  unfold railLost
  exact (updCh_flags (stopChan s c) c (fun x => { x with out := .off, clamp := false, drive := [] }) (fun _ => rfl)).trans (stopChan_flags s c)
@[simp] theorem closePort_gd (st : Nat) (p : Port) (s : State) : (closePort st p s).gd = s.gd := by
  unfold closePort eobOut
  split <;> rfl
@[simp] theorem queueStop_gd (q : Nat) (s : State) : (queueStop q s).gd = s.gd := by
  unfold queueStop
  dsimp only
  repeat' split
  all_goals first | exact closePort_gd _ _ _ | rfl
@[simp] theorem fabricStop_gd (s : State) : (fabricStop s).gd = s.gd := by
  unfold fabricStop
  generalize portAll = l
  induction l generalizing s with
  | nil => rfl
  | cons p l ih =>
    refine (ih _).trans ?_
    dsimp only
    split <;> simp
@[simp] theorem haltGroup_flags (g : Grp) (s : State) : (haltGroup g s).gd.flags = s.gd.flags := by rw [haltGroup_gd]
@[simp] theorem pins_gd (s : State) : (pins s).gd = s.gd := by have h := pins_same s; unfold SameButFaults at h; rw [h]
@[simp] theorem storeRec_gd (r : LogRec) (s : State) : ((storeRec r s).2).gd = s.gd := by have h := storeRec_same r s; unfold SameButFaults at h; rw [h]
@[simp] theorem takeSupp_gd (c i : Nat) (s : State) : ((takeSupp c i s).2).gd = s.gd := by have h := takeSupp_same c i s; unfold SameButFaults at h; rw [h]
@[simp] theorem noteDrop_gd (r : Bool × State) : (noteDrop r).gd = r.2.gd := by have h := noteDrop_same r; unfold SameButFaults at h; rw [h]
@[simp] theorem offerRec_gd (r : LogRec) (s : State) : (offerRec r s).gd = s.gd := by have h := offerRec_same r s; unfold SameButFaults at h; rw [h]
@[simp] theorem raiseEntry_gd (b c i m : Nat) (s : State) : ((raiseEntry b c i m s).2).gd = s.gd := by have h := raiseEntry_same b c i m s; unfold SameButFaults at h; rw [h]
@[simp] theorem raiseBaseBy_gd (b c i m : Nat) (s : State) : (raiseBaseBy b c i m s).gd = s.gd := by have h := raiseBaseBy_same b c i m s; unfold SameButFaults at h; rw [h]
@[simp] theorem raiseBase_gd (c i m : Nat) (s : State) : (raiseBase c i m s).gd = s.gd := by have h := raiseBase_same c i m s; unfold SameButFaults at h; rw [h]
@[simp] theorem clearF_gd (c i : Nat) (s : State) : (clearF c i s).gd = s.gd := by have h := clearF_same c i s; unfold SameButFaults at h; rw [h]
@[simp] theorem haltOwner_flags (g : Grp) (s : State) : (haltOwner g s).gd.flags = s.gd.flags := by unfold haltOwner; simp
@[simp] theorem stopGroup_flags (g : Grp) (s : State) : (stopGroup g s).gd.flags = s.gd.flags := by
  unfold stopGroup
  repeat' (first | (simp; done) | split)
@[simp] theorem setSs_flags (t : TSet) (st : Nat) (s : State) : (setSs t st s).gd.flags = s.gd.flags := by
  unfold setSs
  repeat' (first | (simp; done) | split)
@[simp] theorem driveFreewheel_flags (t : TSet) (s : State) : (driveFreewheel t s).gd.flags = s.gd.flags := by
  unfold driveFreewheel
  repeat' (first | (simp; done) | split)
@[simp] theorem dropTarget_flags (t : TSet) (s : State) : (dropTarget t s).gd.flags = s.gd.flags := by
  unfold dropTarget
  repeat' (first | (simp; done) | split)
@[simp] theorem enterSafe_flags (t : TSet) (s : State) : (enterSafe t s).gd.flags = s.gd.flags := by
  unfold enterSafe
  repeat' (first | (simp; done) | split)
@[simp] theorem stopTraction_flags (s : State) : (stopTraction s).gd.flags = s.gd.flags := by
  unfold stopTraction
  repeat' (first | (simp; done) | split)
@[simp] theorem stopSetF3_flags (t : TSet) (s : State) : (stopSetF3 t s).gd.flags = s.gd.flags := by unfold stopSetF3; simp
@[simp] theorem startBias_flags (s : State) : (startBias s).gd.flags = s.gd.flags := by unfold startBias; simp
@[simp] theorem bankOff_flags (lo n : Nat) (s : State) : (bankOff lo n s).gd.flags = s.gd.flags := by unfold bankOff; simp
@[simp] theorem ascLost_flags (s : State) : (ascLost s).gd.flags = s.gd.flags := by unfold ascLost; simp
@[simp] theorem stopCharger_flags (s : State) : (stopCharger s).gd.flags = s.gd.flags := by
  unfold stopCharger
  repeat' (first | (simp; done) | split)
@[simp] theorem requestStop_flags (s : State) : (requestStop s).gd.flags = s.gd.flags := by unfold requestStop; simp
@[simp] theorem stopDcx_flags (s : State) : (stopDcx s).gd.flags = s.gd.flags := by
  unfold stopDcx
  repeat' (first | (simp; done) | split)
@[simp] theorem setSr_flags (s : State) : (setSr s).gd.flags = s.gd.flags := by unfold setSr; simp
@[simp] theorem stopBuck_flags (k : Nat) (s : State) : (stopBuck k s).gd.flags = s.gd.flags := by
  unfold stopBuck
  repeat' (first | (simp; done) | split)
@[simp] theorem stopPhase_flags (n : Fin 6) (s : State) : (stopPhase n s).gd.flags = s.gd.flags := by unfold stopPhase; simp
@[simp] theorem stopLv_flags (f3 : Bool) (s : State) : (stopLv f3 s).gd.flags = s.gd.flags := by
  unfold stopLv
  repeat' (first | (simp; done) | split)
@[simp] theorem clearCode_flags (code : Nat) (s : State) : (clearCode code s).gd.flags = s.gd.flags := by
  unfold clearCode
  repeat' (first | (simp; done) | split)
@[simp] theorem lvcWrite_flags (v : Nat) (s : State) : (lvcWrite v s).gd.flags = s.gd.flags := by
  unfold lvcWrite
  repeat' (first | (simp; done) | split)
@[simp] theorem lvCharge_flags (volts : Q) (s : State) : (lvCharge volts s).gd.flags = s.gd.flags := by
  unfold lvCharge
  repeat' (first | (simp; done) | split)
@[simp] theorem lvRelease_flags (s : State) : (lvRelease s).gd.flags = s.gd.flags := by
  unfold lvRelease
  repeat' (first | (simp; done) | split)
@[simp] theorem clearLvFaults_flags (s : State) : (clearLvFaults s).gd.flags = s.gd.flags := by
  unfold clearLvFaults
  repeat' (first | (simp; done) | split)
@[simp] theorem lvBegin_flags (s : State) : (lvBegin s).gd.flags = s.gd.flags := by
  unfold lvBegin
  repeat' (first | (simp; done) | split)
@[simp] theorem actHalt_flags (a : Act) (s : State) : (actHalt a s).gd.flags = s.gd.flags := by
  unfold actHalt
  repeat' (first | (simp; done) | split)
@[simp] theorem abortAct_flags (a : Act) (s : State) : (abortAct a s).gd.flags = s.gd.flags := by
  unfold abortAct
  repeat' (first | (simp; done) | split)
@[simp] theorem sessionOff_flags (s : State) : (sessionOff s).gd.flags = s.gd.flags := by
  unfold sessionOff
  repeat' (first | (simp; done) | split)
@[simp] theorem sessionOffBy_flags (code : Nat) (s : State) : (sessionOffBy code s).gd.flags = s.gd.flags := by
  unfold sessionOffBy
  dsimp only
  repeat' (first | (simp; done) | split)
@[simp] theorem roleOff_flags (s : State) : (roleOff s).gd.flags = s.gd.flags := by
  unfold roleOff
  dsimp only
  repeat' (first | (simp; done) | split)
@[simp] theorem sessionEnd_flags (cause : Nat) (s : State) : (sessionEnd cause s).gd.flags = s.gd.flags := by
  unfold sessionEnd
  repeat' (first | (simp; done) | split)
@[simp] theorem sessionFailBy_flags (code : Nat) (s : State) : (sessionFailBy code s).gd.flags = s.gd.flags := by
  unfold sessionFailBy
  repeat' (first | (simp; done) | split)
@[simp] theorem sessionFail_flags (s : State) : (sessionFail s).gd.flags = s.gd.flags := by
  unfold sessionFail
  repeat' (first | (simp; done) | split)
@[simp] theorem chargePause_flags (s : State) : (chargePause s).gd.flags = s.gd.flags := by
  unfold chargePause
  repeat' (first | (simp; done) | split)
@[simp] theorem chgOnFault_flags (code : Nat) (s : State) : (chgOnFault code s).gd.flags = s.gd.flags := by
  unfold chgOnFault
  repeat' (first | (simp; done) | split)
@[simp] theorem stopSet_flags (t : TSet) (s : State) : (stopSet t s).gd.flags = s.gd.flags := by
  unfold stopSet
  repeat' (first | (simp; done) | split)
@[simp] theorem modeOutputs_flags (m : Mode) (s : State) : (modeOutputs m s).gd.flags = s.gd.flags := by
  unfold modeOutputs
  repeat' (first | (simp; done) | split)
@[simp] theorem shipAbandon_flags (s : State) : (shipAbandon s).gd.flags = s.gd.flags := by unfold shipAbandon; simp
@[simp] theorem enterMode_flags (m : Mode) (s : State) : (enterMode m s).gd.flags = s.gd.flags := by
  unfold enterMode
  repeat' (first | (simp; done) | split)
@[simp] theorem lastPhase_flags (buck : Nat) (s : State) : (lastPhase buck s).gd.flags = s.gd.flags := by unfold lastPhase; simp
@[simp] theorem stageFault_flags (code : Nat) (g : Stage) (s : State) : (stageFault code g s).gd.flags = s.gd.flags := by
  unfold stageFault
  repeat' (first | (simp; done) | split)
@[simp] theorem userFault_flags (inst : Nat) (s : State) : (userFault inst s).gd.flags = s.gd.flags := by
  unfold userFault
  repeat' (first | (simp; done) | split)
@[simp] theorem reactF3_flags (code inst : Nat) (s : State) : (reactF3 code inst s).gd.flags = s.gd.flags := by
  unfold reactF3
  repeat' (first | (simp; done) | split)
@[simp] theorem safeByF4_flags (s : State) : (safeByF4 s).gd.flags = s.gd.flags := by unfold safeByF4; simp
@[simp] theorem reactF4_flags (code : Nat) (s : State) : (reactF4 code s).gd.flags = s.gd.flags := by
  unfold reactF4
  repeat' (first | (simp; done) | split)
@[simp] theorem reactF2_flags (code inst : Nat) (s : State) : (reactF2 code inst s).gd.flags = s.gd.flags := by
  unfold reactF2
  repeat' (first | (simp; done) | split)
@[simp] theorem stopStage_flags (g : Stage) (s : State) : (stopStage g s).gd.flags = s.gd.flags := by
  unfold stopStage
  repeat' (first | (simp; done) | split)
@[simp] theorem domainReaction_flags (d : Fin 7) (s : State) : (domainReaction d s).gd.flags = s.gd.flags := by
  unfold domainReaction
  repeat' (first | (simp; done) | split)

@[simp] theorem raiseBy_flags (b c i m : Nat) (s : State) : (raiseBy b c i m s).gd.flags = s.gd.flags := by
  unfold raiseBy
  dsimp only
  split
  · split
    · rw [pins_gd, reactF3_flags, raiseBaseBy_gd]
    · rw [pins_gd, reactF4_flags, raiseBaseBy_gd]
    · rw [reactF2_flags, raiseBaseBy_gd]
    · rw [raiseBaseBy_gd]
  · rw [raiseBaseBy_gd]
@[simp] theorem raise_flags (c i m : Nat) (s : State) : (raise c i m s).gd.flags = s.gd.flags := raiseBy_flags _ _ _ _ _

/-! ## Outputs that are off stay off -/

/-- The output of a channel is not on. -/
def Gd.offAt (g : Gd) (d : Chan) : Prop := (g.ch.get d).out ≠ .on

@[simp] theorem offAt_ite (c : Prop) [Decidable c] (a b : Gd) (d : Chan) : (if c then a else b).offAt d = if c then a.offAt d else b.offAt d := by split <;> rfl
theorem offAt_site {p : Prop} [Decidable p] {a b : State} {d : Chan} (ha : a.gd.offAt d) (hb : b.gd.offAt d) : (if p then a else b).gd.offAt d := by split <;> assumption
theorem offAt_foldl {α : Type} {f : State → α → State} {d : Chan} (h : ∀ s a, s.gd.offAt d → (f s a).gd.offAt d) (xs : List α) {s : State} (k : s.gd.offAt d) : (xs.foldl f s).gd.offAt d := by
  induction xs generalizing s with
  | nil => exact k
  | cons a xs ih => exact ih (h s a k)
theorem updCh_offAt (s : State) (c : Chan) (f : GdChan → GdChan) (d : Chan) (h : ∀ x, x.out ≠ .on → (f x).out ≠ .on) (k : s.gd.offAt d) : (s.updCh c f).gd.offAt d := by
  unfold State.updCh
  show ((s.gd.ch.upd c f).get d).out ≠ .on
  rw [Tab.get_upd]
  split
  · rename_i e; exact h _ (e ▸ k)
  · exact k
@[simp] theorem offSinkAt_offAt (ns : Nat) (c : Chan) (s : State) (d : Chan) (k : s.gd.offAt d) : (offSinkAt ns c s).gd.offAt d := by
  unfold offSinkAt
  split
  · exact updCh_offAt _ _ _ _ (fun _ _ => by simp) k
  · exact k
@[simp] theorem offSoftAt_offAt (ns : Nat) (c : Chan) (s : State) (d : Chan) (k : s.gd.offAt d) : (offSoftAt ns c s).gd.offAt d := by
  unfold offSoftAt
  split
  · exact updCh_offAt _ _ _ _ (fun _ _ => by simp) k
  · exact k
@[simp] theorem offSink_offAt (c : Chan) (s : State) (d : Chan) (k : s.gd.offAt d) : (offSink c s).gd.offAt d := offSinkAt_offAt _ c s d k
@[simp] theorem offSoft_offAt (c : Chan) (s : State) (d : Chan) (k : s.gd.offAt d) : (offSoft c s).gd.offAt d := offSoftAt_offAt _ c s d k
@[simp] theorem offSink_self (c : Chan) (s : State) : (offSink c s).gd.offAt c := by
  unfold offSink offSinkAt
  split
  · simp [State.updCh, Gd.offAt]
  · assumption
@[simp] theorem offSoft_self (c : Chan) (s : State) : (offSoft c s).gd.offAt c := by
  unfold offSoft offSoftAt
  split
  · simp [State.updCh, Gd.offAt]
  · assumption
@[simp] theorem stopChan_offAt (s : State) (c d : Chan) (k : s.gd.offAt d) : (stopChan s c).gd.offAt d := stopChan_stays s c d k
@[simp] theorem railLost_offAt (s : State) (c d : Chan) (k : s.gd.offAt d) : (railLost s c).gd.offAt d :=
  updCh_offAt _ _ _ _ (fun _ _ => by simp) (stopChan_stays s c d k)
@[simp] theorem stopChans_offAt (l : List Chan) (s : State) (d : Chan) (k : s.gd.offAt d) : (l.foldl stopChan s).gd.offAt d := stopChans_stays l s d k
@[simp] theorem stopChansAt_offAt (l : List Nat) (s : State) (d : Chan) (k : s.gd.offAt d) : (l.foldl (fun s k => stopChan s (chanAt k)) s).gd.offAt d := offAt_foldl (fun s a h => stopChan_stays s _ d h) l k
@[simp] theorem stopGroup_offAt (g : Grp) (s : State) (d : Chan) (k : s.gd.offAt d) : (stopGroup g s).gd.offAt d := stopGroup_stays g s d k
@[simp] theorem haltGroup_offAt (g : Grp) (s : State) (d : Chan) (k : s.gd.offAt d) : (haltGroup g s).gd.offAt d := by rw [haltGroup_gd]; exact k
@[simp] theorem haltOwner_offAt (g : Grp) (s : State) (d : Chan) (hd : s.gd.offAt d) : (haltOwner g s).gd.offAt d := by
  unfold haltOwner
  repeat' (first | (simp [hd]; done) | split)
@[simp] theorem setSs_offAt (t : TSet) (st : Nat) (s : State) (d : Chan) (hd : s.gd.offAt d) : (setSs t st s).gd.offAt d := by
  unfold setSs
  repeat' (first | (simp [hd]; done) | split)
@[simp] theorem driveFreewheel_offAt (t : TSet) (s : State) (d : Chan) (hd : s.gd.offAt d) : (driveFreewheel t s).gd.offAt d := by
  unfold driveFreewheel
  repeat' (first | (simp [hd]; done) | split)
@[simp] theorem dropTarget_offAt (t : TSet) (s : State) (d : Chan) (hd : s.gd.offAt d) : (dropTarget t s).gd.offAt d := by
  unfold dropTarget
  repeat' (first | (simp [hd]; done) | split)
@[simp] theorem enterSafe_offAt (t : TSet) (s : State) (d : Chan) (hd : s.gd.offAt d) : (enterSafe t s).gd.offAt d := by
  unfold enterSafe
  split
  · exact hd
  · split
    · exact dropTarget_offAt t _ d (driveFreewheel_offAt t _ d (stopGroup_offAt _ _ d hd))
    · exact dropTarget_offAt t _ d (haltGroup_offAt _ _ d hd)
@[simp] theorem stopTraction_offAt (s : State) (d : Chan) (hd : s.gd.offAt d) : (stopTraction s).gd.offAt d := by
  unfold stopTraction
  repeat' (first | (simp [hd]; done) | split)
@[simp] theorem stopSetF3_offAt (t : TSet) (s : State) (d : Chan) (hd : s.gd.offAt d) : (stopSetF3 t s).gd.offAt d := by
  unfold stopSetF3
  repeat' (first | (simp [hd]; done) | split)
@[simp] theorem startBias_offAt (s : State) (d : Chan) (hd : s.gd.offAt d) : (startBias s).gd.offAt d := by
  unfold startBias
  repeat' (first | (simp [hd]; done) | split)
@[simp] theorem bankOff_offAt (lo n : Nat) (s : State) (d : Chan) (hd : s.gd.offAt d) : (bankOff lo n s).gd.offAt d := offAt_foldl (fun s c h => railLost_offAt s c d h) _ hd
@[simp] theorem ascLost_offAt (s : State) (d : Chan) (hd : s.gd.offAt d) : (ascLost s).gd.offAt d := by
  unfold ascLost
  repeat' (first | (simp [hd]; done) | split)
@[simp] theorem stopCharger_offAt (s : State) (d : Chan) (hd : s.gd.offAt d) : (stopCharger s).gd.offAt d := by
  unfold stopCharger
  repeat' (first | (simp [hd]; done) | split)
@[simp] theorem requestStop_offAt (s : State) (d : Chan) (hd : s.gd.offAt d) : (requestStop s).gd.offAt d := by
  unfold requestStop
  repeat' (first | (simp [hd]; done) | split)
@[simp] theorem stopDcx_offAt (s : State) (d : Chan) (hd : s.gd.offAt d) : (stopDcx s).gd.offAt d := by
  unfold stopDcx
  have h := stopChansAt_offAt [27, 28, 29, 30] s d hd
  dsimp only
  exact h
@[simp] theorem setSr_offAt (s : State) (d : Chan) (hd : s.gd.offAt d) : (setSr s).gd.offAt d := by
  unfold setSr
  repeat' (first | (simp [hd]; done) | split)
@[simp] theorem stopBuck_offAt (k : Nat) (s : State) (d : Chan) (hd : s.gd.offAt d) : (stopBuck k s).gd.offAt d := by
  unfold stopBuck
  repeat' (first | (simp [hd]; done) | split)
@[simp] theorem stopPhase_offAt (n : Fin 6) (s : State) (d : Chan) (hd : s.gd.offAt d) : (stopPhase n s).gd.offAt d := by
  unfold stopPhase
  repeat' (first | (simp [hd]; done) | split)
@[simp] theorem stopLv_offAt (f3 : Bool) (s : State) (d : Chan) (hd : s.gd.offAt d) : (stopLv f3 s).gd.offAt d := by
  unfold stopLv
  repeat' (first | (simp [hd]; done) | split)
@[simp] theorem lvcWrite_offAt (v : Nat) (s : State) (d : Chan) (hd : s.gd.offAt d) : (lvcWrite v s).gd.offAt d := by
  unfold lvcWrite
  repeat' (first | (simp [hd]; done) | split)
@[simp] theorem lvCharge_offAt (volts : Q) (s : State) (d : Chan) (hd : s.gd.offAt d) : (lvCharge volts s).gd.offAt d := by
  unfold lvCharge
  repeat' (first | (simp [hd]; done) | split)
@[simp] theorem lvRelease_offAt (s : State) (d : Chan) (hd : s.gd.offAt d) : (lvRelease s).gd.offAt d := by
  unfold lvRelease
  repeat' (first | (simp [hd]; done) | split)
@[simp] theorem clearLvFaults_offAt (s : State) (d : Chan) (hd : s.gd.offAt d) : (clearLvFaults s).gd.offAt d := by
  unfold clearLvFaults
  repeat' (first | (simp [hd]; done) | split)
@[simp] theorem lvBegin_offAt (s : State) (d : Chan) (hd : s.gd.offAt d) : (lvBegin s).gd.offAt d := by
  unfold lvBegin
  repeat' (first | (simp [hd]; done) | split)
@[simp] theorem actHalt_offAt (a : Act) (s : State) (d : Chan) (hd : s.gd.offAt d) : (actHalt a s).gd.offAt d := by
  unfold actHalt
  repeat' (first | (simp [hd]; done) | split)
@[simp] theorem abortAct_offAt (a : Act) (s : State) (d : Chan) (hd : s.gd.offAt d) : (abortAct a s).gd.offAt d := by
  unfold abortAct
  repeat' (first | (simp [hd]; done) | split)
@[simp] theorem sessionOff_offAt (s : State) (d : Chan) (hd : s.gd.offAt d) : (sessionOff s).gd.offAt d := by
  unfold sessionOff
  repeat' (first | (simp [hd]; done) | split)
@[simp] theorem sessionOffBy_offAt (code : Nat) (s : State) (d : Chan) (hd : s.gd.offAt d) : (sessionOffBy code s).gd.offAt d := by
  unfold sessionOffBy
  dsimp only
  repeat' (first | (simp [hd]; done) | split)
@[simp] theorem roleOff_offAt (s : State) (d : Chan) (hd : s.gd.offAt d) : (roleOff s).gd.offAt d := by
  unfold roleOff
  dsimp only
  repeat' (first | (simp [hd]; done) | split)
@[simp] theorem sessionEnd_offAt (cause : Nat) (s : State) (d : Chan) (hd : s.gd.offAt d) : (sessionEnd cause s).gd.offAt d := by
  unfold sessionEnd
  repeat' (first | (simp [hd]; done) | split)
@[simp] theorem sessionFailBy_offAt (code : Nat) (s : State) (d : Chan) (hd : s.gd.offAt d) : (sessionFailBy code s).gd.offAt d := by
  unfold sessionFailBy
  repeat' (first | (simp [hd]; done) | split)
@[simp] theorem sessionFail_offAt (s : State) (d : Chan) (hd : s.gd.offAt d) : (sessionFail s).gd.offAt d := by
  unfold sessionFail
  repeat' (first | (simp [hd]; done) | split)
@[simp] theorem chargePause_offAt (s : State) (d : Chan) (hd : s.gd.offAt d) : (chargePause s).gd.offAt d := by
  unfold chargePause
  repeat' (first | (simp [hd]; done) | split)
@[simp] theorem chgOnFault_offAt (code : Nat) (s : State) (d : Chan) (hd : s.gd.offAt d) : (chgOnFault code s).gd.offAt d := by
  unfold chgOnFault
  repeat' (first | (simp [hd]; done) | split)
@[simp] theorem stopSet_offAt (t : TSet) (s : State) (d : Chan) (hd : s.gd.offAt d) : (stopSet t s).gd.offAt d := by
  unfold stopSet
  repeat' (first | (simp [hd]; done) | split)
@[simp] theorem modeOutputs_offAt (m : Mode) (s : State) (d : Chan) (hd : s.gd.offAt d) : (modeOutputs m s).gd.offAt d := by
  unfold modeOutputs
  repeat' (first | (simp [hd]; done) | split)
@[simp] theorem shipAbandon_offAt (s : State) (d : Chan) (hd : s.gd.offAt d) : (shipAbandon s).gd.offAt d := by
  unfold shipAbandon
  repeat' (first | (simp [hd]; done) | split)
@[simp] theorem enterMode_offAt (m : Mode) (s : State) (d : Chan) (hd : s.gd.offAt d) : (enterMode m s).gd.offAt d := by
  unfold enterMode
  repeat' (first | (simp [hd]; done) | split | (simp_all; done))
@[simp] theorem lastPhase_offAt (buck : Nat) (s : State) (d : Chan) (hd : s.gd.offAt d) : (lastPhase buck s).gd.offAt d := by
  unfold lastPhase
  repeat' (first | (simp [hd]; done) | split)
@[simp] theorem stageFault_offAt (code : Nat) (g : Stage) (s : State) (d : Chan) (hd : s.gd.offAt d) : (stageFault code g s).gd.offAt d := by
  unfold stageFault
  repeat' (first | (simp [hd]; done) | split)
@[simp] theorem userFault_offAt (inst : Nat) (s : State) (d : Chan) (hd : s.gd.offAt d) : (userFault inst s).gd.offAt d := by
  unfold userFault
  repeat' (first | (simp [hd]; done) | split)
@[simp] theorem reactF3_offAt (code inst : Nat) (s : State) (d : Chan) (hd : s.gd.offAt d) : (reactF3 code inst s).gd.offAt d := by
  unfold reactF3
  iterate 17 (refine offAt_site ?_ ?_; rotate_left)
  all_goals first
    | with_reducible exact hd
    | with_reducible exact stageFault_offAt _ _ _ _ hd
    | with_reducible exact stopLv_offAt _ _ _ (chgOnFault_offAt _ _ _ (stopCharger_offAt _ _ hd))
    | with_reducible exact chgOnFault_offAt _ _ _ (stopCharger_offAt _ _ hd)
    | with_reducible exact chgOnFault_offAt _ _ _ (requestStop_offAt _ _ hd)
    | (simp [hd]; done)
    | (split <;> simp [hd])
@[simp] theorem safeByF4_offAt (s : State) (d : Chan) (hd : s.gd.offAt d) : (safeByF4 s).gd.offAt d := by
  unfold safeByF4
  repeat' (first | (simp [hd]; done) | split)
@[simp] theorem reactF4_offAt (code : Nat) (s : State) (d : Chan) (hd : s.gd.offAt d) : (reactF4 code s).gd.offAt d := by
  unfold reactF4
  repeat' (first | (simp [hd]; done) | split)
@[simp] theorem reactF2_offAt (code inst : Nat) (s : State) (d : Chan) (hd : s.gd.offAt d) : (reactF2 code inst s).gd.offAt d := by
  unfold reactF2
  repeat' (first | (simp [hd]; done) | split)
@[simp] theorem stopStage_offAt (g : Stage) (s : State) (d : Chan) (hd : s.gd.offAt d) : (stopStage g s).gd.offAt d := by
  unfold stopStage
  repeat' (first | (simp [hd]; done) | split)
@[simp] theorem domainReaction_offAt (d0 : Fin 7) (s : State) (d : Chan) (hd : s.gd.offAt d) : (domainReaction d0 s).gd.offAt d := by
  unfold domainReaction
  repeat' (first | (simp [hd]; done) | split)
@[simp] theorem raiseBy_offAt (b c i m : Nat) (s : State) (d : Chan) (hd : s.gd.offAt d) : (raiseBy b c i m s).gd.offAt d := by
  have h : (raiseBaseBy b c i m s).gd.offAt d := by rw [raiseBaseBy_gd]; exact hd
  unfold raiseBy
  dsimp only
  split
  · split
    · rw [pins_gd]; exact reactF3_offAt _ _ _ _ h
    · rw [pins_gd]; exact reactF4_offAt _ _ _ h
    · exact reactF2_offAt _ _ _ _ h
    · exact h
  · exact h
@[simp] theorem raise_offAt (c i m : Nat) (s : State) (d : Chan) (hd : s.gd.offAt d) : (raise c i m s).gd.offAt d := raiseBy_offAt _ _ _ _ _ _ hd

end Sys2Proof.Machine
end

