-- ==== Sys2Proof/Laws/Kept.lean ====
section
/-! SUPPORT. What each operation and each meaning leaves as it is: the queue of commands, the map store, the OTP words and the shared SRAM. One lemma per
definition that gives a state; the few that do write them are in `Laws/Keeps.lean`. -/

namespace Sys2Proof.Machine

/-- What no command but a few may touch: the queue of commands, the map store, the OTP words and the shared SRAM. -/
structure KeptPart where
  pending : List Instr
  map : List Host.Cell
  otp : Tab Nat (BitVec 64)
  sram : List Host.Cell

/-- That part of a state. -/
def State.kept (s : State) : KeptPart := ⟨s.pending, s.cat.map, s.otp, s.lks.sram⟩
@[simp ↓] theorem kept_mk (xmer xpwm xorr xoctl xoview xotgt xtm xdc xss xssDisagree xssTrials xpos xedge xres xcal xsent xem xgd xgrid xpfc xdab xobcT xsys xsup xka xfaults xlog xflash xops xcat xlvc xchg xthm xact xsaf xlks xpq xpqSeen xfab xpair xvif xveh xuds xout xsec xotp xfreeIx xpending) : State.kept (State.mk xmer xpwm xorr xoctl xoview xotgt xtm xdc xss xssDisagree xssTrials xpos xedge xres xcal xsent xem xgd xgrid xpfc xdab xobcT xsys xsup xka xfaults xlog xflash xops xcat xlvc xchg xthm xact xsaf xlks xpq xpqSeen xfab xpair xvif xveh xuds xout xsec xotp xfreeIx xpending) = ⟨xpending, xcat.map, xotp, xlks.sram⟩ := by unfold State.kept; rfl
@[simp] theorem kept_fold (s : State) : KeptPart.mk s.pending s.cat.map s.otp s.lks.sram = s.kept := by unfold State.kept; rfl
@[simp ↓] theorem kept_ite (c : Prop) [Decidable c] (a b : State) : (if c then a else b).kept = if c then a.kept else b.kept := by split <;> rfl
@[simp] theorem kept_foldl {α : Type} (f : State → α → State) (h : ∀ s a, (f s a).kept = s.kept) (xs : List α) (s : State) : (xs.foldl f s).kept = s.kept := by
  induction xs generalizing s with
  | nil => rfl
  | cons a xs ih => simp [List.foldl, ih, h]

/-- The same of a next state. -/
def okept : Host.Outcome State Fault Refusal → Option KeptPart
  | .next t => some t.kept
  | _ => none
@[simp] theorem okept_next (t : State) : okept (.next t) = some t.kept := rfl
@[simp ↓] theorem okept_ite (c : Prop) [Decidable c] (a b : Host.Outcome State Fault Refusal) : okept (if c then a else b) = if c then okept a else okept b := by split <;> rfl

/-! ## Ops -/

@[simp] theorem State_updCh_kept (s : State) (c : Chan) (f : GdChan → GdChan) : (State.updCh s c f).kept = s.kept := by unfold State.updCh; simp
@[simp] theorem stamp_kept (c : Chan) (s : State) : (stamp c s).kept = s.kept := by unfold stamp; simp
@[simp] theorem offSinkAt_kept (ns : Nat) (c : Chan) (s : State) : (offSinkAt ns c s).kept = s.kept := by unfold offSinkAt; simp
@[simp] theorem offSoftAt_kept (ns : Nat) (c : Chan) (s : State) : (offSoftAt ns c s).kept = s.kept := by unfold offSoftAt; simp
@[simp] theorem offSink_kept (c : Chan) (s : State) : (offSink c s).kept = s.kept := by unfold offSink; simp
@[simp] theorem offSoft_kept (c : Chan) (s : State) : (offSoft c s).kept = s.kept := by unfold offSoft; simp
@[simp] theorem softTick_kept (s : State) (c : Chan) : (softTick s c).kept = s.kept := by unfold softTick; simp
@[simp] theorem softTicks_kept (s : State) : (softTicks s).kept = s.kept := by unfold softTicks; simp
@[simp] theorem drvOn_kept (c : Chan) (s : State) : (drvOn c s).kept = s.kept := by unfold drvOn; simp
@[simp] theorem legOff_kept (c p : Chan) (s : State) : (legOff c p s).kept = s.kept := by unfold legOff; simp
@[simp] theorem turnOn_kept (c : Chan) (s : State) : (turnOn c s).kept = s.kept := by
  unfold turnOn
  repeat' (first | (simp; done) | split)
@[simp] theorem turnOffAt_kept (ns : Nat) (c : Chan) (s : State) : (turnOffAt ns c s).kept = s.kept := by unfold turnOffAt; simp
@[simp] theorem turnOff_kept (c : Chan) (s : State) : (turnOff c s).kept = s.kept := by unfold turnOff; simp
@[simp] theorem stopChan_kept (s : State) (c : Chan) : (stopChan s c).kept = s.kept := by unfold stopChan; simp
@[simp] theorem haltOwner_kept (g : Grp) (s : State) : (haltOwner g s).kept = s.kept := by unfold haltOwner; simp
@[simp] theorem haltGroup_kept (g : Grp) (s : State) : (haltGroup g s).kept = s.kept := by
  unfold haltGroup
  repeat' (first | (simp; done) | split)
@[simp] theorem stopGroup_kept (g : Grp) (s : State) : (stopGroup g s).kept = s.kept := by
  unfold stopGroup
  repeat' (first | (simp; done) | split)
@[simp] theorem orrStart_kept (g : Grp) (s : State) : (orrStart g s).kept = s.kept := by
  unfold orrStart
  repeat' (first | (simp; done) | split)
@[simp] theorem leaveAsc_kept (g : Grp) (s : State) : (leaveAsc g s).kept = s.kept := by
  unfold leaveAsc
  repeat' (first | (simp; done) | split)
@[simp] theorem setSs_kept (t : TSet) (st : Nat) (s : State) : (setSs t st s).kept = s.kept := by unfold setSs; simp
@[simp] theorem driveFreewheel_kept (t : TSet) (s : State) : (driveFreewheel t s).kept = s.kept := by unfold driveFreewheel; simp
@[simp] theorem ascOn_kept (s : State) (c : Chan) : (ascOn s c).kept = s.kept := by unfold ascOn; simp
@[simp] theorem driveAsc_kept (t : TSet) (side : Nat) (s : State) : (driveAsc t side s).kept = s.kept := by unfold driveAsc; simp
@[simp] theorem dropTarget_kept (t : TSet) (s : State) : (dropTarget t s).kept = s.kept := by
  unfold dropTarget
  repeat' (first | (simp; done) | split)
@[simp] theorem enterSafe_kept (t : TSet) (s : State) : (enterSafe t s).kept = s.kept := by
  unfold enterSafe
  repeat' (first | (simp; done) | split)
@[simp] theorem stopTraction_kept (s : State) : (stopTraction s).kept = s.kept := by unfold stopTraction; simp
@[simp] theorem stopSetF3_kept (t : TSet) (s : State) : (stopSetF3 t s).kept = s.kept := by unfold stopSetF3; simp
@[simp] theorem startBias_kept (s : State) : (startBias s).kept = s.kept := by unfold startBias; simp
@[simp] theorem railLost_kept (s : State) (c : Chan) : (railLost s c).kept = s.kept := by unfold railLost; simp
@[simp] theorem bankOff_kept (lo n : Nat) (s : State) : (bankOff lo n s).kept = s.kept := by unfold bankOff; simp
@[simp] theorem ascLost_kept (s : State) : (ascLost s).kept = s.kept := by unfold ascLost; simp
@[simp] theorem stopCharger_kept (s : State) : (stopCharger s).kept = s.kept := by unfold stopCharger; simp
@[simp] theorem requestStop_kept (s : State) : (requestStop s).kept = s.kept := by unfold requestStop; simp
@[simp] theorem stopDcx_kept (s : State) : (stopDcx s).kept = s.kept := by unfold stopDcx; simp
@[simp] theorem setSr_kept (s : State) : (setSr s).kept = s.kept := by unfold setSr; simp
@[simp] theorem stopBuck_kept (k : Nat) (s : State) : (stopBuck k s).kept = s.kept := by unfold stopBuck; simp
@[simp] theorem stopPhase_kept (n : Fin 6) (s : State) : (stopPhase n s).kept = s.kept := by unfold stopPhase; simp
@[simp] theorem stopLv_kept (f3 : Bool) (s : State) : (stopLv f3 s).kept = s.kept := by unfold stopLv; simp
@[simp] theorem send_kept (e : Emit) (s : State) : (send e s).kept = s.kept := by unfold send; simp
@[simp] theorem udsPos_kept (p : UPath) (bytes : List Byte) (s : State) : (udsPos p bytes s).kept = s.kept := by unfold udsPos; simp
@[simp] theorem udsNeg_kept (p : UPath) (sid nrc : Nat) (s : State) : (udsNeg p sid nrc s).kept = s.kept := by unfold udsNeg; simp
@[simp] theorem setResult_kept (rid : Nat) (bytes : List Byte) (s : State) : (setResult rid bytes s).kept = s.kept := by unfold setResult; simp
@[simp] theorem noteRefuse_kept (code : Nat) (s : State) : (noteRefuse code s).kept = s.kept := by unfold noteRefuse; simp
@[simp] theorem takeFree_kept (s : State) : (takeFree s).2.kept = s.kept := by unfold takeFree; simp
@[simp] theorem takeChoice_kept (s : State) : (takeChoice s).2.kept = s.kept := by unfold takeChoice; simp

/-! ## Vitrine -/

@[simp] theorem vitClearAt_kept (s : State) (blk off : Nat) : (vitClearAt s blk off).kept = s.kept := by
  unfold vitClearAt
  repeat' (first | (simp; done) | split)
@[simp] theorem vitClear_kept (s : State) (addr : Nat) : (vitClear s addr).kept = s.kept := by unfold vitClear; simp

/-! ## Flags -/

@[simp] theorem pins_kept (s : State) : (pins s).kept = s.kept := by
  unfold pins
  repeat' (first | (simp; done) | split)
@[simp] theorem acceptRec_kept (r : LogRec) (store : List LogRec) (s : State) : (acceptRec r store s).kept = s.kept := by unfold acceptRec; simp
@[simp] theorem storeRec_kept (r : LogRec) (s : State) : (storeRec r s).2.kept = s.kept := by
  unfold storeRec
  repeat' (first | (simp; done) | split)
@[simp] theorem takeSupp_kept (code inst : Nat) (s : State) : (takeSupp code inst s).2.kept = s.kept := by
  unfold takeSupp
  repeat' (first | (simp; done) | split)
@[simp] theorem raiseEntry_kept (blk code inst meas : Nat) (s : State) : (raiseEntry blk code inst meas s).2.kept = s.kept := by
  unfold raiseEntry
  repeat' (first | (simp; done) | split)
@[simp] theorem noteDrop_kept (r : Bool × State) : (noteDrop r).kept = r.2.kept := by unfold noteDrop; simp
@[simp] theorem offerRec_kept (r : LogRec) (s : State) : (offerRec r s).kept = s.kept := by unfold offerRec; simp
@[simp] theorem raiseBaseBy_kept (blk code inst meas : Nat) (s : State) : (raiseBaseBy blk code inst meas s).kept = s.kept := by unfold raiseBaseBy; simp
@[simp] theorem raiseBase_kept (code inst meas : Nat) (s : State) : (raiseBase code inst meas s).kept = s.kept := by unfold raiseBase; simp
@[simp] theorem clearF_kept (code inst : Nat) (s : State) : (clearF code inst s).kept = s.kept := by
  unfold clearF
  repeat' (first | (simp; done) | split)
@[simp] theorem clearCode_kept (code : Nat) (s : State) : (clearCode code s).kept = s.kept := by unfold clearCode; simp
@[simp] theorem lvcWrite_kept (v : Nat) (s : State) : (lvcWrite v s).kept = s.kept := by unfold lvcWrite; simp
@[simp] theorem europaLimit_kept (s : State) : (europaLimit s).kept = s.kept := by unfold europaLimit; simp
@[simp] theorem lvCharge_kept (volts : Q) (s : State) : (lvCharge volts s).kept = s.kept := by unfold lvCharge; simp
@[simp] theorem lvRelease_kept (s : State) : (lvRelease s).kept = s.kept := by unfold lvRelease; simp
@[simp] theorem clearLvFaults_kept (s : State) : (clearLvFaults s).kept = s.kept := by unfold clearLvFaults; simp
@[simp] theorem lvBegin_kept (s : State) : (lvBegin s).kept = s.kept := by unfold lvBegin; simp
@[simp] theorem actHalt_kept (a : Act) (s : State) : (actHalt a s).kept = s.kept := by unfold actHalt; simp
@[simp] theorem abortAct_kept (a : Act) (s : State) : (abortAct a s).kept = s.kept := by unfold abortAct; simp
@[simp] theorem sessionOff_kept (s : State) : (sessionOff s).kept = s.kept := by unfold sessionOff; simp
@[simp] theorem sessionOffBy_kept (code : Nat) (s : State) : (sessionOffBy code s).kept = s.kept := by unfold sessionOffBy; simp
@[simp] theorem roleOff_kept (s : State) : (roleOff s).kept = s.kept := by unfold roleOff; simp
@[simp] theorem sessionEnd_kept (cause : Nat) (s : State) : (sessionEnd cause s).kept = s.kept := by unfold sessionEnd; simp
@[simp] theorem sessionFailBy_kept (code : Nat) (s : State) : (sessionFailBy code s).kept = s.kept := by unfold sessionFailBy; simp
@[simp] theorem sessionFail_kept (s : State) : (sessionFail s).kept = s.kept := by unfold sessionFail; simp
@[simp] theorem chargePause_kept (s : State) : (chargePause s).kept = s.kept := by unfold chargePause; simp
@[simp] theorem chgOnFault_kept (code : Nat) (s : State) : (chgOnFault code s).kept = s.kept := by unfold chgOnFault; simp
@[simp] theorem stopSet_kept (t : TSet) (s : State) : (stopSet t s).kept = s.kept := by unfold stopSet; simp
@[simp] theorem modeOutputs_kept (m : Mode) (s : State) : (modeOutputs m s).kept = s.kept := by unfold modeOutputs; simp
@[simp] theorem shipAbandon_kept (s : State) : (shipAbandon s).kept = s.kept := by unfold shipAbandon; simp
@[simp] theorem enterMode_kept (m : Mode) (s : State) : (enterMode m s).kept = s.kept := by unfold enterMode; simp
@[simp] theorem updPort_kept (p : Port) (f : FabPort → FabPort) (s : State) : (updPort p f s).kept = s.kept := by unfold updPort; simp
@[simp] theorem eobOut_kept (p : Port) (s : State) : (eobOut p s).kept = s.kept := by
  unfold eobOut
  repeat' (first | (simp; done) | split)
@[simp] theorem closePort_kept (st : Nat) (p : Port) (s : State) : (closePort st p s).kept = s.kept := by unfold closePort; simp
@[simp] theorem queueStop_kept (q : Nat) (s : State) : (queueStop q s).kept = s.kept := by unfold queueStop; simp
@[simp] theorem fabricStop_kept (s : State) : (fabricStop s).kept = s.kept := by unfold fabricStop; simp
@[simp] theorem lastPhase_kept (buck : Nat) (s : State) : (lastPhase buck s).kept = s.kept := by unfold lastPhase; simp
@[simp] theorem stageFault_kept (code : Nat) (g : Stage) (s : State) : (stageFault code g s).kept = s.kept := by
  unfold stageFault
  repeat' (first | (simp; done) | split)
@[simp] theorem userFault_kept (inst : Nat) (s : State) : (userFault inst s).kept = s.kept := by unfold userFault; simp
@[simp] theorem reactF3_kept (code inst : Nat) (s : State) : (reactF3 code inst s).kept = s.kept := by unfold reactF3; simp
@[simp] theorem safeByF4_kept (s : State) : (safeByF4 s).kept = s.kept := by unfold safeByF4; simp
@[simp] theorem reactF4_kept (code : Nat) (s : State) : (reactF4 code s).kept = s.kept := by unfold reactF4; simp
@[simp] theorem reactF2_kept (code inst : Nat) (s : State) : (reactF2 code inst s).kept = s.kept := by
  unfold reactF2
  repeat' (first | (simp; done) | split)
@[simp] theorem raiseBy_kept (blk code inst meas : Nat) (s : State) : (raiseBy blk code inst meas s).kept = s.kept := by
  unfold raiseBy
  dsimp only
  repeat' (first | (simp; done) | split)
@[simp] theorem raise_kept (code inst meas : Nat) (s : State) : (raise code inst meas s).kept = s.kept := by unfold raise; simp
@[simp] theorem actStop_kept (a : Act) (code : Nat) (s : State) : (actStop a code s).kept = s.kept := by unfold actStop; simp
@[simp] theorem stopStage_kept (g : Stage) (s : State) : (stopStage g s).kept = s.kept := by
  unfold stopStage
  repeat' (first | (simp; done) | split)
@[simp] theorem domainReaction_kept (d : Fin 7) (s : State) : (domainReaction d s).kept = s.kept := by
  unfold domainReaction
  repeat' (first | (simp; done) | split)
@[simp] theorem goAsc_kept (t : TSet) (s : State) : (goAsc t s).kept = s.kept := by unfold goAsc; simp
@[simp] theorem forceAsc_kept (t : TSet) (s : State) : (forceAsc t s).kept = s.kept := by unfold forceAsc; simp
@[simp] theorem chargerOutMax_kept (s : State) : (chargerOutMax s).kept = s.kept := by unfold chargerOutMax; simp
@[simp] theorem chargerSinc2_kept (sdd : Fin 8) (value : Q) (s : State) : (chargerSinc2 sdd value s).kept = s.kept := by unfold chargerSinc2; simp
@[simp] theorem udsServe_kept (p : UPath) (sid : Nat) (sessions : List Nat) (level : Nat) (k : State → State) (s : State) (hk : ∀ s, (k s).kept = s.kept) : (udsServe p sid sessions level k s).kept = s.kept := by
  unfold udsServe
  simp [hk]
@[simp] theorem anchorsHold_kept (s : State) : (anchorsHold s).kept = s.kept := by unfold anchorsHold; simp

/-! ## FlashOps -/

@[simp] theorem measureHold_kept (v : Q) (s : State) : (measureHold v s).kept = s.kept := by unfold measureHold; simp
@[simp] theorem enqueue_kept (o : FlashOp) (s : State) : (enqueue o s).kept = s.kept := by unfold enqueue; simp
@[simp] theorem startDesc_kept (f : BootDesc → BootDesc) (s : State) : (startDesc f s).kept = s.kept := by unfold startDesc; simp
@[simp] theorem changeDesc_kept (f : BootDesc → BootDesc) (s : State) : (changeDesc f s).kept = s.kept := by
  unfold changeDesc
  repeat' (first | (simp; done) | split)
@[simp] theorem setCopy_kept (k : Fin 2) (d : Option BootDesc) (s : State) : (setCopy k d s).kept = s.kept := by unfold setCopy; simp
@[simp] theorem landDesc_kept (s : State) : (landDesc s).kept = s.kept := by
  unfold landDesc
  dsimp only
  repeat' (first | (simp; done) | split)
@[simp] theorem putLog_kept (phys : Nat) (b : Option LogBlk) (s : State) : (putLog phys b s).kept = s.kept := by unfold putLog; simp
@[simp] theorem writePage_kept (s : State) : (writePage s).kept = s.kept := by
  unfold writePage
  dsimp only
  repeat' (first | (simp; done) | split)
@[simp] theorem openBlock_kept (phys : Nat) (s : State) : (openBlock phys s).kept = s.kept := by unfold openBlock; simp
@[simp] theorem eraseLog_kept (phys : Nat) (s : State) : (eraseLog phys s).kept = s.kept := by
  unfold eraseLog
  dsimp only
  repeat' (first | (simp; done) | split)
@[simp] theorem putStage_kept (b : Option FlashBlk) (s : State) : (putStage b s).kept = s.kept := by
  unfold putStage
  repeat' (first | (simp; done) | split)
@[simp] theorem applyOp_kept (o : FlashOp) (s : State) : (applyOp o s).kept = s.kept := by
  unfold applyOp
  repeat' (first | (simp; done) | split)
@[simp] theorem beginOp_kept (o : FlashOp) (s : State) : (beginOp o s).kept = s.kept := by unfold beginOp; simp
@[simp] theorem holdupFail_kept (s : State) : (holdupFail s).kept = s.kept := by unfold holdupFail; simp
theorem execFlashOperationStart_kept (o : FlashOp) (holdVolts : Q) (ageUs : Nat) (s : State) : okept (execFlashOperationStart o holdVolts ageUs s) = some s.kept := by unfold execFlashOperationStart; simp
theorem execPendingOperationRecheck_kept (holdVolts : Q) (s : State) : okept (execPendingOperationRecheck holdVolts s) = some s.kept := by
  unfold execPendingOperationRecheck
  dsimp only
  repeat' (first | (simp; done) | split)
@[simp] theorem retireOpen_kept (page : Bool) (s : State) : (retireOpen page s).kept = s.kept := by unfold retireOpen; simp
@[simp] theorem retireNext_kept (p : Nat) (s : State) : (retireNext p s).kept = s.kept := by unfold retireNext; simp
@[simp] theorem logDone_kept (s : State) : (logDone s).kept = s.kept := by unfold logDone; simp
@[simp] theorem otpDone_kept (w : Nat) (b : BitVec 64) (s : State) : (otpDone w b s).kept = s.kept := by unfold otpDone; simp
@[simp] theorem entryRecord_kept (s : State) : (entryRecord s).kept = s.kept := by unfold entryRecord; simp
@[simp] theorem shipProceed_kept (s : State) : (shipProceed s).kept = s.kept := by unfold shipProceed; simp
theorem execLogBlockClose_kept (s : State) : okept (execLogBlockClose s) = some s.kept := by
  unfold execLogBlockClose
  dsimp only
  repeat' (first | (simp; done) | split)

/-! ## Ports -/

@[simp] theorem transmit_kept (p : Port) (ty : Nat) (bytes : List Byte) (s : State) : (transmit p ty bytes s).kept = s.kept := by unfold transmit; simp
@[simp] theorem freeBytes_kept (s : State) : (freeBytes s).2.kept = s.kept := by unfold freeBytes; simp
@[simp] theorem floodOwn_kept (s : State) : (floodOwn s).kept = s.kept := by unfold floodOwn; simp
@[simp] theorem chooseRef_kept (s : State) : (chooseRef s).kept = s.kept := by
  unfold chooseRef
  repeat' (first | (simp; done) | split)
@[simp] theorem beRef_kept (s : State) : (beRef s).kept = s.kept := by unfold beRef; simp
@[simp] theorem markPorts_kept (s : State) : (markPorts s).kept = s.kept := by unfold markPorts; simp
@[simp] theorem retopo_kept (s : State) : (retopo s).kept = s.kept := by unfold retopo; simp
@[simp] theorem portChanged_kept (s : State) : (portChanged s).kept = s.kept := by unfold portChanged; simp
@[simp] theorem settlePorts_kept (old s : State) : (settlePorts old s).kept = s.kept := by unfold settlePorts; split <;> simp
@[simp] theorem dropLink_kept (p : Port) (s : State) : (dropLink p s).kept = s.kept := by unfold dropLink; simp

/-! ## Queues -/

@[simp] theorem updQ_kept (q : QId) (f : PQueue → PQueue) (s : State) : (updQ q f s).kept = s.kept := by unfold updQ; simp
@[simp] theorem resetQueue_kept (q : QId) (c : Fin 8) (nowMs : Nat) (s : State) : (resetQueue q c nowMs s).kept = s.kept := by unfold resetQueue; simp
@[simp] theorem rxRefused_kept (q : QId) (s : State) : (rxRefused q s).kept = s.kept := by unfold rxRefused; simp
@[simp] theorem enterWord_kept (q : QId) (c : Fin 8) (w : Item) (s : State) : (enterWord q c w s).kept = s.kept := by unfold enterWord; simp
@[simp] theorem malformed_kept (q : QId) (s : State) : (malformed q s).kept = s.kept := by unfold malformed; simp
@[simp] theorem pushWord_kept (q : QId) (c : Fin 8) (w : Item) (s : State) : (pushWord q c w s).kept = s.kept := by
  unfold pushWord
  dsimp only
  repeat' (first | (simp; done) | split)
theorem execQueuePush_kept (q : QId) (word : BitVec 64) (first last : Bool) (cls : Fin 8) (s : State) : okept (execQueuePush q word first last cls s) = some s.kept := by
  unfold execQueuePush
  repeat' (first | (simp; done) | split)
theorem execQueuePushTimeout_kept (q : QId) (waitUs : Nat) (s : State) : okept (execQueuePushTimeout q waitUs s) = some s.kept := by unfold execQueuePushTimeout; simp
theorem execQueueAbort_kept (q : QId) (s : State) : okept (execQueueAbort q s) = some s.kept := by
  unfold execQueueAbort
  dsimp only
  repeat' (first | (simp; done) | split)
theorem execZeroLengthCommit_kept (q : QId) (s : State) : okept (execZeroLengthCommit q s) = some s.kept := by unfold execZeroLengthCommit; simp
@[simp] theorem popWord_kept (q : QId) (s : State) : (popWord q s).kept = s.kept := by
  unfold popWord
  dsimp only
  repeat' (first | (simp; done) | split)
@[simp] theorem checkQueue_kept (q : QId) (s : State) : (checkQueue q s).kept = s.kept := by
  unfold checkQueue
  repeat' (first | (simp; done) | split)
@[simp] theorem pushPacket_kept (q : QId) (c : Fin 8) (ws : List (BitVec 64)) (s : State) : (pushPacket q c ws s).kept = s.kept := by unfold pushPacket; simp
@[simp] theorem passQueue_kept (q : QId) (c : Fin 8) (n : Nat) (s : State) : (passQueue q c n s).2.kept = s.kept := by
  unfold passQueue
  dsimp only
  repeat' (first | (simp; done) | split)
theorem execMarkCheck_kept (q : QId) (upset : Option (Fin 8 × Fin 6 × Nat)) (nowMs : Nat) (s : State) : okept (execMarkCheck q upset nowMs s) = some s.kept := by
  unfold execMarkCheck
  dsimp only
  repeat' (first | (simp; done) | split)

/-! ## Link -/

@[simp] theorem drainWaiting_kept (p : Port) (n : Nat) (s : State) : (drainWaiting p n s).kept = s.kept := by
  induction n generalizing s with
  | zero => rfl
  | succ n ih =>
    unfold drainWaiting
    dsimp only
    repeat' (first | (simp [ih]; done) | split)
@[simp] theorem queueOut_kept (p : Port) (cls : Nat) (bytes : List Byte) (s : State) : (queueOut p cls bytes s).kept = s.kept := by unfold queueOut; simp
@[simp] theorem route_kept (dst : Option Nat) (cls : Nat) (bytes : List Byte) (s : State) : (route dst cls bytes s).kept = s.kept := by
  unfold route
  repeat' (first | (simp; done) | split)
@[simp] theorem sendCtl_kept (ty cls : Nat) (dst : Option Nat) (dep sep : Nat) (body : List Byte) (s : State) : (sendCtl ty cls dst dep sep body s).kept = s.kept := by unfold sendCtl; simp
@[simp] theorem sendData_kept (cls dst dep sep : Nat) (body : List Byte) (s : State) : (sendData cls dst dep sep body s).kept = s.kept := by unfold sendData; simp
@[simp] theorem drainBulk_kept (n : Nat) (s : State) : (drainBulk n s).kept = s.kept := by
  induction n generalizing s with
  | zero => rfl
  | succ n ih =>
    unfold drainBulk
    split
    · rfl
    · split
      · simp [ih]
      · rfl
@[simp] theorem sendBulk_kept (cls dst dep sep : Nat) (bodies : List (List Byte)) (s : State) : (sendBulk cls dst dep sep bodies s).kept = s.kept := by unfold sendBulk; simp
theorem execQueuePop_kept (q : QId) (s : State) : okept (execQueuePop q s) = some s.kept := by
  unfold execQueuePop
  dsimp only
  repeat' (first | (simp; done) | split)
@[simp] theorem sendPair_kept (cls dep : Nat) (c : CtlContent) (s : State) : (sendPair cls dep c s).kept = s.kept := by
  unfold sendPair
  repeat' (first | (simp; done) | split)
@[simp] theorem mgmtReply_kept (node ep sep op tag status : Nat) (args : List Byte) (s : State) : (mgmtReply node ep sep op tag status args s).kept = s.kept := by unfold mgmtReply; simp

/-! ## PairOps -/

@[simp] theorem lvFull_kept (s : State) : (lvFull s).kept = s.kept := by
  unfold lvFull
  repeat' (first | (simp; done) | split)
@[simp] theorem lvStandby_kept (s : State) : (lvStandby s).kept = s.kept := by
  unfold lvStandby
  repeat' (first | (simp; done) | split)
@[simp] theorem setRole_kept (r : Nat) (s : State) : (setRole r s).kept = s.kept := by unfold setRole; simp
@[simp] theorem takeLead_kept (t : Nat) (s : State) : (takeLead t s).kept = s.kept := by unfold takeLead; simp
@[simp] theorem declare_kept (s : State) : (declare s).kept = s.kept := by unfold declare; simp
@[simp] theorem startHandover_kept (t : Nat) (swap : Bool) (s : State) : (startHandover t swap s).kept = s.kept := by unfold startHandover; simp
@[simp] theorem abandon_kept (s : State) : (abandon s).kept = s.kept := by unfold abandon; simp
@[simp] theorem pairTask_kept (s : State) : (pairTask s).kept = s.kept := by
  unfold pairTask
  dsimp only
  repeat' (first | (simp; done) | split)
@[simp] theorem endPairPeriod_kept (s : State) : (endPairPeriod s).kept = s.kept := by unfold endPairPeriod; simp
@[simp] theorem shadowCompare_kept (lead partner : Q × Q) (counters : List (Nat × Nat)) (s : State) : (shadowCompare lead partner counters s).kept = s.kept := by unfold shadowCompare; simp
@[simp] theorem pairFrame_kept (c : CtlContent) (s : State) : (pairFrame c s).kept = s.kept := by
  unfold pairFrame
  repeat' (first | (simp; done) | split)
theorem execHeartbeatSend_kept (s : State) : okept (execHeartbeatSend s) = some s.kept := by unfold execHeartbeatSend; simp
theorem execPhbOutToggle_kept (s : State) : okept (execPhbOutToggle s) = some s.kept := by unfold execPhbOutToggle; simp
theorem execPhbInEdge_kept (s : State) : okept (execPhbInEdge s) = some s.kept := by unfold execPhbInEdge; simp
theorem execFabricHeartbeatTimeout_kept (sinceUs : Nat) (s : State) : okept (execFabricHeartbeatTimeout sinceUs s) = some s.kept := by unfold execFabricHeartbeatTimeout; simp
theorem execPhbHeartbeatTimeout_kept (sinceUs : Nat) (s : State) : okept (execPhbHeartbeatTimeout sinceUs s) = some s.kept := by unfold execPhbHeartbeatTimeout; simp
theorem execArbSample_kept (high : Bool) (s : State) : okept (execArbSample high s) = some s.kept := by unfold execArbSample; simp
theorem execArbRelease_kept (heldMs : Nat) (s : State) : okept (execArbRelease heldMs s) = some s.kept := by unfold execArbRelease; simp
theorem execArbitrationSample_kept (high : Bool) (sinceUs : Nat) (s : State) : okept (execArbitrationSample high sinceUs s) = some s.kept := by unfold execArbitrationSample; simp
theorem execLeadRelease_kept (s : State) : okept (execLeadRelease s) = some s.kept := by unfold execLeadRelease; simp
theorem execTwoLeadsSeen_kept (s : State) : okept (execTwoLeadsSeen s) = some s.kept := by
  unfold execTwoLeadsSeen
  repeat' (first | (simp; done) | split)
theorem execHandoverRequest_kept (at_ : Nat) (swap : Bool) (waitedMs : Nat) (s : State) : okept (execHandoverRequest at_ swap waitedMs s) = some s.kept := by unfold execHandoverRequest; simp
theorem execHandoverInstant_kept (s : State) : okept (execHandoverInstant s) = some s.kept := by
  unfold execHandoverInstant
  repeat' (first | (simp; done) | split)
theorem execHandoverAbandon_kept (sinceUs : Nat) (s : State) : okept (execHandoverAbandon sinceUs s) = some s.kept := by
  unfold execHandoverAbandon
  repeat' (first | (simp; done) | split)
theorem execLeadReturn_kept (heldMs : Nat) (s : State) : okept (execLeadReturn heldMs s) = some s.kept := by unfold execLeadReturn; simp
theorem execArbTest_kept (pull1 between pull2 : Bool) (healthyMs : Nat) (s : State) : okept (execArbTest pull1 between pull2 healthyMs s) = some s.kept := by unfold execArbTest; simp
theorem execSwapEnd_kept (elapsedMs : Nat) (streamsOk : Bool) (s : State) : okept (execSwapEnd elapsedMs streamsOk s) = some s.kept := by unfold execSwapEnd; simp
theorem execSoloExit_kept (heldMs : Nat) (s : State) : okept (execSoloExit heldMs s) = some s.kept := by unfold execSoloExit; simp

/-! ## Modes -/

theorem execDcLinkWindowChange_kept (heldMs : Nat) (s : State) : okept (execDcLinkWindowChange heldMs s) = some s.kept := by unfold execDcLinkWindowChange; simp
@[simp] theorem shipBegin_kept (s : State) : (shipBegin s).kept = s.kept := by unfold shipBegin; simp
@[simp] theorem requestDrive_kept (s : State) : (requestDrive s).kept = s.kept := by unfold requestDrive; simp
@[simp] theorem requestLeave_kept (m : Mode) (s : State) : (requestLeave m s).kept = s.kept := by unfold requestLeave; simp
@[simp] theorem modeRequest_kept (s : State) : (modeRequest s).kept = s.kept := by
  unfold modeRequest
  dsimp only
  repeat' (first | (simp; done) | split)
theorem lostPrecondition_kept (s t : State) (h : lostPrecondition s = some t) : t.kept = s.kept := by
  unfold lostPrecondition at h
  revert h
  dsimp only
  repeat' split
  all_goals (intro h; first | (injection h with h; subst h; simp; done) | (cases h))
@[simp] theorem ageTask_kept (svcLow : Bool) (s : State) : (ageTask svcLow s).kept = s.kept := by unfold ageTask; simp
theorem execModeEvaluation_kept (svcLow : Bool) (s : State) : okept (execModeEvaluation svcLow s) = some s.kept := by
  unfold execModeEvaluation
  dsimp only
  split
  · simp
  · simp
  · simp
  · split
    · simp
    · split
      · simp
      · split
        · rename_i t h
          simp [lostPrecondition_kept _ _ h]
        · simp

/-! ## Actuator -/

@[simp] theorem brake_kept (a : Act) (why : BrakeWhy) (s : State) : (brake a why s).kept = s.kept := by unfold brake; simp
@[simp] theorem arrive_kept (a : Act) (s : State) : (arrive a s).kept = s.kept := by unfold arrive; simp
@[simp] theorem stroke_kept (a : Act) (neg : Bool) (target : Int) (phase : ActPhase) (s : State) : (stroke a neg target phase s).kept = s.kept := by unfold stroke; simp
@[simp] theorem backOff_kept (a : Act) (s : State) : (backOff a s).kept = s.kept := by unfold backOff; simp
@[simp] theorem actOnCount_kept (i : Ifc) (s : State) : (actOnCount i s).kept = s.kept := by
  unfold actOnCount
  dsimp only
  repeat' (first | (simp; done) | split)
@[simp] theorem actOnIndex_kept (i : Ifc) (s : State) : (actOnIndex i s).kept = s.kept := by
  unfold actOnIndex
  dsimp only
  repeat' (first | (simp; done) | split)
@[simp] theorem completeSeq_kept (a : Act) (s : State) : (completeSeq a s).kept = s.kept := by unfold completeSeq; simp
@[simp] theorem parkConfirm_kept (s : State) : (parkConfirm s).kept = s.kept := by unfold parkConfirm; simp
@[simp] theorem afterBrake_kept (a : Act) (s : State) : (afterBrake a s).kept = s.kept := by
  unfold afterBrake
  repeat' (first | (simp; done) | split)
theorem execBrakeEnd_kept (a : Act) (elapsedMs : Nat) (s : State) : okept (execBrakeEnd a elapsedMs s) = some s.kept := by
  unfold execBrakeEnd
  dsimp only
  repeat' (first | (simp; done) | split)
theorem execStallDetected_kept (a : Act) (sinceMs : Nat) (s : State) : okept (execStallDetected a sinceMs s) = some s.kept := by unfold execStallDetected; simp
theorem execSequenceTimeout_kept (a : Act) (elapsedMs : Nat) (s : State) : okept (execSequenceTimeout a elapsedMs s) = some s.kept := by unfold execSequenceTimeout; simp
theorem execPeakCurrentCut_kept (a : Act) (amps : Q) (s : State) : okept (execPeakCurrentCut a amps s) = some s.kept := by
  unfold execPeakCurrentCut
  dsimp only
  repeat' (first | (simp; done) | split)
theorem execBridgeSupplyLow_kept (a : Act) (volts : Q) (heldMs : Nat) (s : State) : okept (execBridgeSupplyLow a volts heldMs s) = some s.kept := by unfold execBridgeSupplyLow; simp
@[simp] theorem refuseSeq_kept (a : Act) (src : ReqSrc) (s : State) : (refuseSeq a src s).kept = s.kept := by
  unfold refuseSeq
  repeat' (first | (simp; done) | split)
@[simp] theorem takePark_kept (src : ReqSrc) (s : State) : (takePark src s).kept = s.kept := by
  unfold takePark
  repeat' (first | (simp; done) | split)
@[simp] theorem takeShift_kept (src : ReqSrc) (s : State) : (takeShift src s).kept = s.kept := by
  unfold takeShift
  repeat' (first | (simp; done) | split)
@[simp] theorem denySeq_kept (src : ReqSrc) (rid : Nat) (s : State) : (denySeq src rid s).kept = s.kept := by
  unfold denySeq
  repeat' (first | (simp; done) | split)
@[simp] theorem answerSeq_kept (src : ReqSrc) (rid : Nat) (s : State) : (answerSeq src rid s).kept = s.kept := by
  unfold answerSeq
  repeat' (first | (simp; done) | split)
@[simp] theorem acceptSeq_kept (a : Act) (seq : Nat) (s : State) : (acceptSeq a seq s).kept = s.kept := by unfold acceptSeq; simp
theorem execParkEngage_kept (src : ReqSrc) (s : State) : okept (execParkEngage src s) = some s.kept := by unfold execParkEngage; simp
theorem execParkRelease_kept (src : ReqSrc) (s : State) : okept (execParkRelease src s) = some s.kept := by unfold execParkRelease; simp
theorem execShift_kept (src : ReqSrc) (target : Nat) (s : State) : okept (execShift src target s) = some s.kept := by unfold execShift; simp
theorem execShiftDwellEnd_kept (elapsedMs : Nat) (s : State) : okept (execShiftDwellEnd elapsedMs s) = some s.kept := by unfold execShiftDwellEnd; simp
theorem execConfirmationTimeout_kept (elapsedMs : Nat) (s : State) : okept (execConfirmationTimeout elapsedMs s) = some s.kept := by unfold execConfirmationTimeout; simp
@[simp] theorem actLatch_kept (a : Act) (vSw : Q) (s : State) : (actLatch a vSw s).kept = s.kept := by unfold actLatch; simp

/-! ## Edges -/

@[simp] theorem readBoot_kept (boot : List (Chan × Q)) (s : State) : (readBoot boot s).kept = s.kept := by unfold readBoot; simp
@[simp] theorem precharge_kept (g : Grp) (cs : List Chan) (boot : List (Chan × Q)) (s : State) : (precharge g cs boot s).kept = s.kept := by unfold precharge; simp
@[simp] theorem prechargeTick_kept (s : State) (g : Grp) : (prechargeTick s g).kept = s.kept := by unfold prechargeTick; simp
@[simp] theorem startRefresh_kept (c : Chan) (s : State) : (startRefresh c s).kept = s.kept := by unfold startRefresh; simp
@[simp] theorem refreshTick_kept (s : State) (c : Chan) : (refreshTick s c).kept = s.kept := by
  unfold refreshTick
  dsimp only
  repeat' (first | (simp; done) | split)
@[simp] theorem bootTicks_kept (s : State) : (bootTicks s).kept = s.kept := by unfold bootTicks; simp

/-! ## Gate -/

theorem execRailOutOfWindow_kept (c : Chan) (vcc2 vee2 : Q) (vccNs veeNs : Nat) (s : State) : okept (execRailOutOfWindow c vcc2 vee2 vccNs veeNs s) = some s.kept := by unfold execRailOutOfWindow; simp
theorem execRailFlagClear_kept (c : Chan) (vcc2 vee2 : Q) (vccUs veeUs : Nat) (s : State) : okept (execRailFlagClear c vcc2 vee2 vccUs veeUs s) = some s.kept := by unfold execRailFlagClear; simp
theorem execGateTurnOn_kept (c : Chan) (ft : Int) (s : State) : okept (execGateTurnOn c ft s) = some s.kept := by unfold execGateTurnOn; simp
@[simp] theorem nextHalf_kept (c : Chan) (s : State) : (nextHalf c s).kept = s.kept := by unfold nextHalf; simp
theorem execGateTurnOff_kept (c : Chan) (ft : Int) (dsnVolts : Q) (onNs : Nat) (s : State) : okept (execGateTurnOff c ft dsnVolts onNs s) = some s.kept := by unfold execGateTurnOff; simp
theorem execPermitRemovalTurnOff_kept (d : Fin 7) (s : State) : okept (execPermitRemovalTurnOff d s) = some s.kept := by unfold execPermitRemovalTurnOff; simp
theorem execSecondaryLinkLoss_kept (c : Chan) (ns : Nat) (s : State) : okept (execSecondaryLinkLoss c ns s) = some s.kept := by unfold execSecondaryLinkLoss; simp
theorem execStatusFrameLoss_kept (c : Chan) (ns : Nat) (s : State) : okept (execStatusFrameLoss c ns s) = some s.kept := by unfold execStatusFrameLoss; simp
theorem execReadbackMismatch_kept (c : Chan) (reportedOn : Bool) (heldNs sinceEdgeNs : Nat) (s : State) : okept (execReadbackMismatch c reportedOn heldNs sinceEdgeNs s) = some s.kept := by unfold execReadbackMismatch; simp
theorem execDesaturation_kept (c : Chan) (dsnVolts : Q) (onNs heldNs : Nat) (s : State) : okept (execDesaturation c dsnVolts onNs heldNs s) = some s.kept := by unfold execDesaturation; simp
@[simp] theorem gcCheck_kept (c : Chan) (chOut : List (Nat × Q)) (s : State) : (gcCheck c chOut s).kept = s.kept := by
  unfold gcCheck
  repeat' (first | (simp; done) | split)
@[simp] theorem gcOn_kept (c : Chan) (chOut : List (Nat × Q)) (s : State) : (gcOn c chOut s).kept = s.kept := by unfold gcOn; simp
theorem execGateChargeShort_kept (c : Chan) (chOut : List (Nat × Q)) (s : State) : okept (execGateChargeShort c chOut s) = some s.kept := by
  unfold execGateChargeShort
  repeat' (first | (simp; done) | split)
theorem execShortReport_kept (c : Chan) (s : State) : okept (execShortReport c s) = some s.kept := by
  unfold execShortReport
  dsimp only
  repeat' (first | (simp; done) | split)
theorem execWatchWindowEnd_kept (g : Stage) (s : State) : okept (execWatchWindowEnd g s) = some s.kept := by
  unfold execWatchWindowEnd
  repeat' (first | (simp; done) | split)
theorem execBootstrapRefresh_kept (c : Chan) (sinceUs pulseUs : Nat) (s : State) : okept (execBootstrapRefresh c sinceUs pulseUs s) = some s.kept := by unfold execBootstrapRefresh; simp
theorem execBootstrapUndervoltage_kept (c : Chan) (volts : Q) (heldNs : Nat) (s : State) : okept (execBootstrapUndervoltage c volts heldNs s) = some s.kept := by unfold execBootstrapUndervoltage; simp
theorem execBootstrapOff_kept (c : Chan) (volts : Q) (afterUs : Nat) (s : State) : okept (execBootstrapOff c volts afterUs s) = some s.kept := by unfold execBootstrapOff; simp
theorem execBootstrapUvClear_kept (c : Chan) (volts : Q) (heldUs : Nat) (s : State) : okept (execBootstrapUvClear c volts heldUs s) = some s.kept := by unfold execBootstrapUvClear; simp
@[simp] theorem setOsd_kept (g : Stage) (r : Nat) (s : State) : (setOsd g r s).kept = s.kept := by unfold setOsd; simp
@[simp] theorem testCurrent_kept (g : Stage) (high : Chan) (s : State) : (testCurrent g high s).kept = s.kept := by unfold testCurrent; simp
@[simp] theorem diagPassed_kept (a : Act) (s : State) : (diagPassed a s).kept = s.kept := by unfold diagPassed; simp
@[simp] theorem bridgeDiag_kept (a : Act) (uv vw wu : Q × Q) (vS : Q) (s : State) : (execOffStateDiagnostics.bridgeDiag a uv vw wu vS s).kept = s.kept := by
  unfold execOffStateDiagnostics.bridgeDiag
  dsimp only
  repeat' (first | (simp; done) | split)
theorem execOffStateDiagnostics_kept (g : Stage) (r : OsdReading) (s : State) : okept (execOffStateDiagnostics g r s) = some s.kept := by
  unfold execOffStateDiagnostics
  dsimp only
  repeat' (first | (simp; done) | split)
@[simp] theorem testPulse_kept (s : State) (p : Chan × List (Nat × Q)) : (testPulse s p).kept = s.kept := by unfold testPulse; simp
@[simp] theorem notePulse_kept (t : TSet) (quiet pulse : Option Q) (s : State) : (notePulse t quiet pulse s).kept = s.kept := by
  unfold notePulse
  repeat' (first | (simp; done) | split)
@[simp] theorem lowPulses_kept (t : TSet) (fs : Q) (l : List (Chan × Q × List (Nat × Q))) (m : Q) (s : State) : (lowPulses t fs l m s).kept = s.kept := by
  induction l generalizing m s with
  | nil => rfl
  | cons p l ih => unfold lowPulses; dsimp only; split <;> simp [ih]
@[simp] theorem pairPulses_kept (t : TSet) (fs : Q) (l : List (Chan × Chan × PairPulse)) (m : Option Q) (s : State) : (pairPulses t fs l m s).kept = s.kept := by
  induction l generalizing m s with
  | nil => simp [pairPulses]
  | cons p l ih => unfold pairPulses; repeat' split; all_goals simp [ih]
theorem execTractionStartTest_kept (t : TSet) (r : StartTest) (s : State) : okept (execTractionStartTest t r s) = some s.kept := by
  unfold execTractionStartTest
  dsimp only
  repeat' (first | (simp; done) | split)
@[simp] theorem clearChan_kept (s : State) (c : Chan) : (clearChan s c).kept = s.kept := by
  unfold clearChan
  repeat' (first | (simp; done) | split)
@[simp] theorem ascSides_kept (s : State) (t : TSet) : (ascSides s t).kept = s.kept := by unfold ascSides; simp
theorem execClearLatchedFlags_kept (p : UPath) (opt : Nat) (s : State) : okept (execClearLatchedFlags p opt s) = some s.kept := by unfold execClearLatchedFlags; simp

/-! ## Supply -/

@[simp] theorem setFeed_kept (f : Feed) (x : FeedSt) (s : State) : (setFeed f x s).kept = s.kept := by
  unfold setFeed
  repeat' (first | (simp; done) | split)
theorem execFeedPresent_kept (f : Feed) (volts : Q) (heldUs : Nat) (s : State) : okept (execFeedPresent f volts heldUs s) = some s.kept := by unfold execFeedPresent; simp
@[simp] theorem allOff_kept (s : State) : (allOff s).kept = s.kept := by unfold allOff; simp
@[simp] theorem bothLost_kept (s : State) : (bothLost s).kept = s.kept := by unfold bothLost; simp
@[simp] theorem loseFeed_kept (f : Feed) (volts : Q) (s : State) : (loseFeed f volts s).kept = s.kept := by unfold loseFeed; simp
theorem execFeedLost_kept (f : Feed) (volts : Q) (heldUs : Nat) (s : State) : okept (execFeedLost f volts heldUs s) = some s.kept := by unfold execFeedLost; simp
theorem execBothFeedsLost_kept (f : Feed) (volts : Q) (heldUs : Nat) (s : State) : okept (execBothFeedsLost f volts heldUs s) = some s.kept := by unfold execBothFeedsLost; simp
theorem execFeedOvervoltage_kept (f : Feed) (volts : Q) (heldUs : Nat) (s : State) : okept (execFeedOvervoltage f volts heldUs s) = some s.kept := by unfold execFeedOvervoltage; simp
theorem execFeedOvervoltageCleared_kept (f : Feed) (volts : Q) (heldUs : Nat) (s : State) : okept (execFeedOvervoltageCleared f volts heldUs s) = some s.kept := by unfold execFeedOvervoltageCleared; simp
theorem execIdealDiodeTurnOff_kept (f : Feed) (feedVolts holdVolts : Q) (s : State) : okept (execIdealDiodeTurnOff f feedVolts holdVolts s) = some s.kept := by unfold execIdealDiodeTurnOff; simp
theorem execFeedReturnInHoldup_kept (f : Feed) (volts holdVolts : Q) (heldUs : Nat) (s : State) : okept (execFeedReturnInHoldup f volts holdVolts heldUs s) = some s.kept := by unfold execFeedReturnInHoldup; simp
theorem execRailMonitorRelease_kept (r : Rail) (volts : Q) (s : State) : okept (execRailMonitorRelease r volts s) = some s.kept := by unfold execRailMonitorRelease; simp
theorem execBiasCurrentLimit_kept (bank : Bank) (sw : Fin 2) (shuntVolts : Q) (s : State) : okept (execBiasCurrentLimit bank sw shuntVolts s) = some s.kept := by unfold execBiasCurrentLimit; simp
theorem execBiasBankStop_kept (bank : Bank) (limitUs : Nat) (s : State) : okept (execBiasBankStop bank limitUs s) = some s.kept := by
  unfold execBiasBankStop
  repeat' (first | (simp; done) | split)
theorem execKaFirstApplication_kept (kaVolts : Q) (s : State) : okept (execKaFirstApplication kaVolts s) = some s.kept := by unfold execKaFirstApplication; simp
theorem execCrystalAccepted_kept (minEdges maxEdges windowUs : Nat) (seniorToGnd : Bool) (s : State) : okept (execCrystalAccepted minEdges maxEdges windowUs seniorToGnd s) = some s.kept := by unfold execCrystalAccepted; simp
theorem execHandshakeJudgement_kept (reports : List Handshake) (s : State) : okept (execHandshakeJudgement reports s) = some s.kept := by unfold execHandshakeJudgement; simp
theorem execNrstRelease_kept (s : State) : okept (execNrstRelease s) = some s.kept := by unfold execNrstRelease; simp
theorem execSvcAcknowledge_kept (pressMs : Nat) (s : State) : okept (execSvcAcknowledge pressMs s) = some s.kept := by unfold execSvcAcknowledge; simp
theorem execSvcStuck_kept (lowMs : Nat) (s : State) : okept (execSvcStuck lowMs s) = some s.kept := by unfold execSvcStuck; simp
theorem execSvcReleased1s_kept (releasedMs : Nat) (s : State) : okept (execSvcReleased1s releasedMs s) = some s.kept := by unfold execSvcReleased1s; simp
theorem execWakeLevelChange_kept (level : Bool) (s : State) : okept (execWakeLevelChange level s) = some s.kept := by unfold execWakeLevelChange; simp
theorem execAcPresentChange_kept (rms1 rms2 rms3 : Q) (s : State) : okept (execAcPresentChange rms1 rms2 rms3 s) = some s.kept := by unfold execAcPresentChange; simp
theorem execShipWritesTimeout_kept (elapsedMs : Nat) (s : State) : okept (execShipWritesTimeout elapsedMs s) = some s.kept := by unfold execShipWritesTimeout; simp
theorem execShipSwitchTimeout_kept (elapsedMs : Nat) (s : State) : okept (execShipSwitchTimeout elapsedMs s) = some s.kept := by unfold execShipSwitchTimeout; simp
theorem execFeedRiseWakeArmed_kept (voltsA voltsB : Q) (heldMs : Nat) (s : State) : okept (execFeedRiseWakeArmed voltsA voltsB heldMs s) = some s.kept := by unfold execFeedRiseWakeArmed; simp
theorem execWakeSourceQualified_kept (obs : WakeObs) (s : State) : okept (execWakeSourceQualified obs s) = some s.kept := by unfold execWakeSourceQualified; simp
theorem execShipWakeTimeout_kept (elapsedMs : Nat) (s : State) : okept (execShipWakeTimeout elapsedMs s) = some s.kept := by unfold execShipWakeTimeout; simp

/-! ## Accession -/

@[simp] theorem rebuildFrom_kept (s : State) : (rebuildFrom s).kept = s.kept := by
  unfold rebuildFrom
  dsimp only
  repeat' (first | (simp; done) | split)
@[simp] theorem rebuildLog_kept (density : Nat) (s : State) : (rebuildLog density s).kept = s.kept := by unfold rebuildLog; simp
@[simp] theorem testKa_kept (ok : Bool) (s : State) : (testKa ok s).kept = s.kept := by unfold testKa; simp
@[simp] theorem logPast_kept (s : State) : (logPast s).kept = s.kept := by
  unfold logPast
  dsimp only
  repeat' (first | (simp; done) | split)
@[simp] theorem selectId_kept (s : State) : (selectId s).kept = s.kept := by unfold selectId; simp
@[simp] theorem startPairs_kept (s : State) : (startPairs s).kept = s.kept := by unfold startPairs; simp
@[simp] theorem startPorts_kept (s : State) : (startPorts s).kept = s.kept := by unfold startPorts; simp
@[simp] theorem startInputs_kept (s : State) : (startInputs s).kept = s.kept := by unfold startInputs; simp
@[simp] theorem startValues_kept (s : State) : (startValues s).kept = s.kept := by unfold startValues; simp
@[simp] theorem loadCust_kept (s : State) : (loadCust s).kept = s.kept := by unfold loadCust; simp
@[simp] theorem permitTest_kept (bad : List Chan) (reports : List Handshake) (s : State) : (permitTest bad reports s).kept = s.kept := by unfold permitTest; simp
@[simp] theorem noteFail_kept (t : Tried) (s : State) : (noteFail t s).kept = s.kept := by
  unfold noteFail
  repeat' (first | (simp; done) | split)
@[simp] theorem setCause_kept (sl : Slot) (c : Nat) (s : State) : (setCause sl c s).kept = s.kept := by
  unfold setCause
  repeat' (first | (simp; done) | split)
@[simp] theorem raiseReads_kept (n : Nat) (s : State) : (raiseReads n s).kept = s.kept := by unfold raiseReads; simp
@[simp] theorem attempt_kept (x : AccIn) (sl : Slot) (s : State) : (attempt x sl s).2.kept = s.kept := by
  unfold attempt
  dsimp only
  repeat' (first | (simp; done) | split)
@[simp] theorem recover_kept (result : Nat) (s : State) : (recover result s).kept = s.kept := by unfold recover; simp
@[simp] theorem settleDesc_kept (sl : Slot) (failed : Bool) (s : State) : (settleDesc sl failed s).kept = s.kept := by
  unfold settleDesc
  repeat' (first | (simp; done) | split)
@[simp] theorem chooseOrder_kept (s : State) : (chooseOrder s).kept = s.kept := by unfold chooseOrder; simp

/-! ## Orrery -/

@[simp] theorem endTrim_kept (t : TSet) (s : State) : (endTrim t s).kept = s.kept := by unfold endTrim; simp
@[simp] theorem checkSamples_kept (t : TSet) (s : State) : (checkSamples t s).kept = s.kept := by unfold checkSamples; simp
@[simp] theorem takeSamples_kept (t : TSet) (nu nv nw nx : Q) (s : State) : (takeSamples t nu nv nw nx s).kept = s.kept := by unfold takeSamples; simp
theorem execSarSample_kept (t : TSet) (tr : Trig) (u v w x : Int) (s : State) : okept (execSarSample t tr u v w x s) = some s.kept := by unfold execSarSample; simp
@[simp] theorem sinc2Set_kept (t : TSet) (sdd : Fin 8) (value : Q) (s : State) : (sinc2Set t sdd value s).kept = s.kept := by unfold sinc2Set; simp
theorem execSinc2Output_kept (sdd : Fin 8) (bits : List Bool) (s : State) : okept (execSinc2Output sdd bits s) = some s.kept := by
  unfold execSinc2Output
  repeat' (first | (simp; done) | split)
@[simp] theorem trimWindow_kept (t : TSet) (s : State) : (trimWindow t s).kept = s.kept := by unfold trimWindow; simp
@[simp] theorem updateCore_kept (t : TSet) (vdc : Q) (dt : Q) (s : State) : (updateCore t vdc dt s).kept = s.kept := by unfold updateCore; simp
@[simp] theorem takeVdc_kept (t : TSet) (v : Option Q) (s : State) : (takeVdc t v s).2.kept = s.kept := by
  unfold takeVdc
  repeat' (first | (simp; done) | split)
@[simp] theorem takeSd_kept (t : TSet) (ws : List SdWindow) (s : State) : (takeSd t ws s).kept = s.kept := by
  unfold takeSd
  dsimp only
  repeat' (first | (simp; done) | split)
theorem execOrreryUpdate_kept (t : TSet) (x : OrrIn) (s : State) : okept (execOrreryUpdate t x s) = some s.kept := by unfold execOrreryUpdate; simp
@[simp] theorem orrLate_kept (t : TSet) (s : State) : (orrLate t s).kept = s.kept := by unfold orrLate; simp
theorem execOrreryDeadlineMiss_kept (t : TSet) (s : State) : okept (execOrreryDeadlineMiss t s) = some s.kept := by unfold execOrreryDeadlineMiss; simp

/-! ## Charger -/

@[simp] theorem noteHist_kept (x : PfcVals) (s : State) : (noteHist x s).kept = s.kept := by unfold noteHist; simp
@[simp] theorem endCycle_kept (s : State) : (endCycle s).kept = s.kept := by unfold endCycle; simp
@[simp] theorem gridRecovered_kept (s : State) : (gridRecovered s).kept = s.kept := by unfold gridRecovered; simp
@[simp] theorem pllStep_kept (x : PfcVals) (s : State) : (pllStep x s).kept = s.kept := by unfold pllStep; simp
@[simp] theorem pfcCore_kept (x : PfcVals) (s : State) : (pfcCore x s).kept = s.kept := by unfold pfcCore; simp
@[simp] theorem staleDie2_kept (stage : Nat) (runs : Bool) (s : State) : (staleDie2 stage runs s).kept = s.kept := by unfold staleDie2; simp
@[simp] theorem leg3Idle_kept (x : PfcVals) (s : State) : (leg3Idle x s).kept = s.kept := by unfold leg3Idle; simp
theorem execPfcUpdate_kept (tr : Trig) (x : PfcIn) (s : State) : okept (execPfcUpdate tr x s) = some s.kept := by unfold execPfcUpdate; simp
@[simp] theorem writeDelta_kept (d : Q) (s : State) : (writeDelta d s).kept = s.kept := by unfold writeDelta; simp
@[simp] theorem dabForward_kept (s : State) : (dabForward s).kept = s.kept := by unfold dabForward; simp
@[simp] theorem dabReverse_kept (s : State) : (dabReverse s).kept = s.kept := by unfold dabReverse; simp
@[simp] theorem dabProtect_kept (s : State) : (dabProtect s).kept = s.kept := by unfold dabProtect; simp
theorem execDabUpdate_kept (vBus iBat : SdWindow) (s : State) : okept (execDabUpdate vBus iBat s) = some s.kept := by unfold execDabUpdate; simp
theorem execChargerDeadlineMiss_kept (dab : Bool) (s : State) : okept (execChargerDeadlineMiss dab s) = some s.kept := by unfold execChargerDeadlineMiss; simp
theorem execChargerFaultStop_kept (code : Nat) (s : State) : okept (execChargerFaultStop code s) = some s.kept := by unfold execChargerFaultStop; simp
theorem execChargerStopRequest_kept (s : State) : okept (execChargerStopRequest s) = some s.kept := by unfold execChargerStopRequest; simp
@[simp] theorem cmdRelay_kept (main close : Bool) (s : State) : (cmdRelay main close s).kept = s.kept := by unfold cmdRelay; simp
theorem execMainRelayOpen_kept (iMax : Q) (elapsedMs : Nat) (s : State) : okept (execMainRelayOpen iMax elapsedMs s) = some s.kept := by unfold execMainRelayOpen; simp
@[simp] theorem clearStartFaults_kept (s : State) : (clearStartFaults s).kept = s.kept := by unfold clearStartFaults; simp
@[simp] theorem startCarriers_kept (s : State) : (startCarriers s).kept = s.kept := by unfold startCarriers; simp
theorem execForwardStart_kept (s : State) : okept (execForwardStart s) = some s.kept := by unfold execForwardStart; simp
theorem execReverseStart_kept (s : State) : okept (execReverseStart s) = some s.kept := by unfold execReverseStart; simp
@[simp] theorem pilotOscillate_kept (s : State) : (pilotOscillate s).kept = s.kept := by unfold pilotOscillate; simp
@[simp] theorem reverseMain_kept (s : State) : (reverseMain s).kept = s.kept := by unfold reverseMain; simp
@[simp] theorem relayStep_kept (s : State) : (relayStep s).kept = s.kept := by unfold relayStep; simp
@[simp] theorem roleRelayFeedback_kept (h : Fin 6) (closed : Bool) (s : State) : (roleRelayFeedback h closed s).kept = s.kept := by unfold roleRelayFeedback; simp
@[simp] theorem roleRelayTimeout_kept (h : Fin 6) (s : State) : (roleRelayTimeout h s).kept = s.kept := by unfold roleRelayTimeout; simp
theorem execRelayConfirmed_kept (h : Fin 6) (closed : Bool) (s : State) : okept (execRelayConfirmed h closed s) = some s.kept := by unfold execRelayConfirmed; simp
theorem execRelayFeedbackTimeout_kept (h : Fin 6) (elapsedMs : Nat) (s : State) : okept (execRelayFeedbackTimeout h elapsedMs s) = some s.kept := by unfold execRelayFeedbackTimeout; simp
theorem execPrechargeComplete_kept (vBus : Q) (s : State) : okept (execPrechargeComplete vBus s) = some s.kept := by unfold execPrechargeComplete; simp
theorem execPrechargeTimeout_kept (elapsedMs : Nat) (s : State) : okept (execPrechargeTimeout elapsedMs s) = some s.kept := by unfold execPrechargeTimeout; simp
theorem execBusOkReached_kept (vBus : Q) (heldMs : Nat) (s : State) : okept (execBusOkReached vBus heldMs s) = some s.kept := by unfold execBusOkReached; simp
theorem execBusRampTimeout_kept (elapsedMs : Nat) (s : State) : okept (execBusRampTimeout elapsedMs s) = some s.kept := by unfold execBusRampTimeout; simp
theorem execBusUndervoltage_kept (vBus : Q) (heldMs : Nat) (s : State) : okept (execBusUndervoltage vBus heldMs s) = some s.kept := by unfold execBusUndervoltage; simp
theorem execReverseOverload_kept (heldMs : Nat) (s : State) : okept (execReverseOverload heldMs s) = some s.kept := by unfold execReverseOverload; simp
theorem execBatteryContactorOpen_kept (heldMs : Nat) (s : State) : okept (execBatteryContactorOpen heldMs s) = some s.kept := by unfold execBatteryContactorOpen; simp

/-! ## Charging -/

@[simp] theorem evPilot_kept (k : Nat) (s : State) : (evPilot k s).kept = s.kept := by unfold evPilot; simp
@[simp] theorem supplyPilot_kept (old k : Nat) (s : State) : (supplyPilot old k s).kept = s.kept := by unfold supplyPilot; simp
@[simp] theorem freeRequest_kept (s : State) : (freeRequest s).kept = s.kept := by unfold freeRequest; simp
@[simp] theorem pilotReact_kept (old k : Nat) (s : State) : (pilotReact old k s).kept = s.kept := by unfold pilotReact; simp
theorem execPilotStateChange_kept (x : List Q) (heldUs : Nat) (s : State) : okept (execPilotStateChange x heldUs s) = some s.kept := by
  unfold execPilotStateChange
  repeat' (first | (simp; done) | split)
theorem execPilotDutyAccepted_kept (x1 x2 x3 : List Q) (s : State) : okept (execPilotDutyAccepted x1 x2 x3 s) = some s.kept := by unfold execPilotDutyAccepted; simp
theorem execProximityCodeChange_kept (volts : Q) (heldUs : Nat) (s : State) : okept (execProximityCodeChange volts heldUs s) = some s.kept := by unfold execProximityCodeChange; simp
@[simp] theorem newSession_kept (role : Nat) (s : State) : (newSession role s).kept = s.kept := by unfold newSession; simp
@[simp] theorem startSession_kept (role : Nat) (s : State) : (startSession role s).kept = s.kept := by unfold startSession; simp
@[simp] theorem trySession_kept (s : State) : (trySession s).kept = s.kept := by unfold trySession; simp
@[simp] theorem writeLimits_kept (s : State) : (writeLimits s).kept = s.kept := by unfold writeLimits; simp
@[simp] theorem europaFree_kept (s : State) : (europaFree s).kept = s.kept := by unfold europaFree; simp
@[simp] theorem closeS2_kept (s : State) : (closeS2 s).kept = s.kept := by unfold closeS2; simp
@[simp] theorem choosePath_kept (s : State) : (choosePath s).kept = s.kept := by
  unfold choosePath
  dsimp only
  repeat' (first | (simp; done) | split)
@[simp] theorem followStages_kept (s : State) : (followStages s).kept = s.kept := by unfold followStages; simp
@[simp] theorem countTimer_kept (s : State) : (countTimer s).kept = s.kept := by unfold countTimer; simp
@[simp] theorem cvCheck_kept (meanBat : Q) (s : State) : (cvCheck meanBat s).1.kept = s.kept := by
  unfold cvCheck
  dsimp only
  repeat' (first | (simp; done) | split)
@[simp] theorem logCauses_kept (cs : List Nat) (s : State) : (logCauses cs s).kept = s.kept := by unfold logCauses; simp
@[simp] theorem judgeEnd_kept (cv : Bool) (s : State) : (judgeEnd cv s).kept = s.kept := by
  unfold judgeEnd
  dsimp only
  repeat' (first | (simp; done) | split)
theorem execSessionEvaluation_kept (meanBat : Q) (s : State) : okept (execSessionEvaluation meanBat s) = some s.kept := by unfold execSessionEvaluation; simp
theorem execPulsePhaseEnd_kept (iEnd : Q) (elapsedMs : Nat) (s : State) : okept (execPulsePhaseEnd iEnd elapsedMs s) = some s.kept := by unfold execPulsePhaseEnd; simp
theorem execHlcSetupTimeout_kept (elapsedMs : Nat) (s : State) : okept (execHlcSetupTimeout elapsedMs s) = some s.kept := by unfold execHlcSetupTimeout; simp
@[simp] theorem isoEffect_kept (m : IsoMsg) (s : State) : (isoEffect m s).kept = s.kept := by
  unfold isoEffect
  repeat' (first | (simp; done) | split)
theorem execIso15118Message_kept (m : IsoMsg) (s : State) : okept (execIso15118Message m s) = some s.kept := by unfold execIso15118Message; simp
theorem execGridWaitTimeout_kept (elapsedMs : Nat) (s : State) : okept (execGridWaitTimeout elapsedMs s) = some s.kept := by unfold execGridWaitTimeout; simp
theorem execDischargeDcLinkCheck_kept (s : State) : okept (execDischargeDcLinkCheck s) = some s.kept := by unfold execDischargeDcLinkCheck; simp
theorem execSessionRestart_kept (elapsedMs : Nat) (s : State) : okept (execSessionRestart elapsedMs s) = some s.kept := by
  unfold execSessionRestart
  repeat' (first | (simp; done) | split)
theorem execLvFloatSwitch_kept (sinceMs : Nat) (s : State) : okept (execLvFloatSwitch sinceMs s) = some s.kept := by unfold execLvFloatSwitch; simp

/-! ## Staging -/

@[simp] theorem openStage_kept (src : StageSrc) (region first size : Nat) (s : State) : (openStage src region first size s).2.kept = s.kept := by
  unfold openStage
  repeat' (first | (simp; done) | split)
@[simp] theorem endStage_kept (s : State) : (endStage s).kept = s.kept := by unfold endStage; simp
@[simp] theorem takeBlock_kept (n : Nat) (data : List Byte) (s : State) : (takeBlock n data s).2.kept = s.kept := by
  unfold takeBlock
  dsimp only
  repeat' (first | (simp; done) | split)
theorem execRequestDownload_kept (p : UPath) (addr size : Nat) (s : State) : okept (execRequestDownload p addr size s) = some s.kept := by unfold execRequestDownload; simp
theorem execTransferData_kept (p : UPath) (seq : Nat) (data : List Byte) (s : State) : okept (execTransferData p seq data s) = some s.kept := by unfold execTransferData; simp
theorem execRequestTransferExit_kept (p : UPath) (s : State) : okept (execRequestTransferExit p s) = some s.kept := by unfold execRequestTransferExit; simp
@[simp] theorem blockDone_kept (node block status : Nat) (s : State) : (blockDone node block status s).kept = s.kept := by unfold blockDone; simp
theorem execStagingBlockWritten_kept (verifyOk : Bool) (s : State) : okept (execStagingBlockWritten verifyOk s) = some s.kept := by
  unfold execStagingBlockWritten
  dsimp only
  repeat' (first | (simp; done) | split)
theorem execStagingSessionTimeout_kept (idleS : Nat) (s : State) : okept (execStagingSessionTimeout idleS s) = some s.kept := by unfold execStagingSessionTimeout; simp
@[simp] theorem runCheck_kept (fw : FwFacts) (sigOk : Bool) (fs : List ReadFail) (s : State) : (runCheck fw sigOk fs s).2.kept = s.kept := by
  unfold runCheck
  dsimp only
  repeat' (first | (simp; done) | split)
@[simp] theorem runCommit_kept (s : State) : (runCommit s).kept = s.kept := by unfold runCommit; simp
@[simp] theorem runConfirm_kept (s : State) : (runConfirm s).kept = s.kept := by unfold runConfirm; simp
@[simp] theorem runReject_kept (s : State) : (runReject s).kept = s.kept := by unfold runReject; simp
@[simp] theorem stageRoutine_kept (p : UPath) (rid : Nat) (run : State → List Byte × State) (s : State) (hrun : ∀ s, (run s).2.kept = s.kept) : (stageRoutine p rid run s).kept = s.kept := by
  unfold stageRoutine
  simp [hrun]
theorem execStageCheck_kept (p : UPath) (fw : FwFacts) (sigOk : Bool) (readFails : List ReadFail) (s : State) : okept (execStageCheck p fw sigOk readFails s) = some s.kept := by unfold execStageCheck; simp
theorem execStageCommit_kept (p : UPath) (s : State) : okept (execStageCommit p s) = some s.kept := by unfold execStageCommit; simp
theorem execStageConfirm_kept (p : UPath) (s : State) : okept (execStageConfirm p s) = some s.kept := by unfold execStageConfirm; simp
theorem execStageReject_kept (p : UPath) (s : State) : okept (execStageReject p s) = some s.kept := by unfold execStageReject; simp

/-! ## Security -/

@[simp] theorem newChallenge_kept (p : Option UPath) (level : Nat) (s : State) : (newChallenge p level s).kept = s.kept := by unfold newChallenge; simp
@[simp] theorem delayed_kept (p : UPath) (s : State) : (delayed p s).kept = s.kept := by unfold delayed; simp
theorem execRequestSeed_kept (p : UPath) (level : Nat) (s : State) : okept (execRequestSeed p level s) = some s.kept := by unfold execRequestSeed; simp
theorem execSendKey_kept (p : UPath) (level seg : Nat) (key : Nat) (len : Nat) (s : State) : okept (execSendKey p level seg key len s) = some s.kept := by
  unfold execSendKey
  rw [okept_next, udsServe_kept]
  intro s
  dsimp only
  repeat' (first | (simp; done) | split)
@[simp] theorem keyFailed_kept (s : State) : (keyFailed s).2.kept = s.kept := by
  unfold keyFailed
  dsimp only
  repeat' (first | (simp; done) | split)
@[simp] theorem jobDone_kept (s : State) : (jobDone s).kept = s.kept := by unfold jobDone; simp
theorem execChallengeTimeout_kept (idleS : Nat) (s : State) : okept (execChallengeTimeout idleS s) = some s.kept := by unfold execChallengeTimeout; simp
theorem execUnlockDelayEnd_kept (elapsedMs : Nat) (s : State) : okept (execUnlockDelayEnd elapsedMs s) = some s.kept := by unfold execUnlockDelayEnd; simp
@[simp] theorem reportBody_kept (nonce : List Byte) (s : State) : (reportBody nonce s).2.kept = s.kept := by unfold reportBody; simp
@[simp] theorem startReport_kept (req : AttReq) (nonce : List Byte) (s : State) : (startReport req nonce s).kept = s.kept := by unfold startReport; simp
theorem execAttestationRequest_kept (p : UPath) (index : Nat) (nonce : List Byte) (s : State) : okept (execAttestationRequest p index nonce s) = some s.kept := by
  unfold execAttestationRequest
  rw [okept_next, udsServe_kept]
  intro s
  dsimp only
  repeat' (first | (simp; done) | split)
theorem execAttestationSigned_kept (s : State) : okept (execAttestationSigned s) = some s.kept := by
  unfold execAttestationSigned
  dsimp only
  repeat' (first | (simp; done) | split)
theorem execJtagChal_kept (s : State) : okept (execJtagChal s) = some s.kept := by unfold execJtagChal; simp

/-! ## Fabric -/

theorem execPortDownExpiry_kept (p : Port) (elapsedUs : Nat) (s : State) : okept (execPortDownExpiry p elapsedUs s) = some s.kept := by unfold execPortDownExpiry; simp
theorem execPortTrained_kept (p : Port) (symbols : Nat) (s : State) : okept (execPortTrained p symbols s) = some s.kept := by unfold execPortTrained; simp
theorem execHelloSend_kept (p : Port) (s : State) : okept (execHelloSend p s) = some s.kept := by unfold execHelloSend; simp
theorem execHelloFrame_kept (p : Port) (ident echo : Nat) (s : State) : okept (execHelloFrame p ident echo s) = some s.kept := by unfold execHelloFrame; simp
theorem execAlignmentLoss_kept (p : Port) (violations : Nat) (s : State) : okept (execAlignmentLoss p violations s) = some s.kept := by unfold execAlignmentLoss; simp
theorem execFrameHeaderReceived_kept (p : Port) (h : FabHeader) (s : State) : okept (execFrameHeaderReceived p h s) = some s.kept := by unfold execFrameHeaderReceived; simp
@[simp] theorem rewindRx_kept (p : Port) (s : State) : (rewindRx p s).kept = s.kept := by
  unfold rewindRx
  repeat' (first | (simp; done) | split)
@[simp] theorem takeFrame_kept (p : Port) (h : FabHeader) (w : RxWay) (payload : List Byte) (s : State) : (takeFrame p h w payload s).kept = s.kept := by
  unfold takeFrame
  dsimp only
  repeat' (first | (simp; done) | split)
theorem execFrameEndReceived_kept (p : Port) (crcOk : Bool) (payload : List Byte) (s : State) : okept (execFrameEndReceived p crcOk payload s) = some s.kept := by
  unfold execFrameEndReceived
  dsimp only
  repeat' (first | (simp; done) | split)
theorem execEobReceived_kept (p : Port) (s : State) : okept (execEobReceived p s) = some s.kept := by unfold execEobReceived; simp
theorem execAckReceived_kept (p : Port) (link : Nat) (s : State) : okept (execAckReceived p link s) = some s.kept := by
  unfold execAckReceived
  dsimp only
  repeat' (first | (simp; done) | split)
@[simp] theorem resendFrom_kept (p : Port) (k : Nat) (s : State) : (resendFrom p k s).kept = s.kept := by
  unfold resendFrom
  dsimp only
  repeat' (first | (simp; done) | split)
theorem execNakReceived_kept (p : Port) (link : Nat) (s : State) : okept (execNakReceived p link s) = some s.kept := by
  unfold execNakReceived
  dsimp only
  repeat' (first | (simp; done) | split)
theorem execReplayTimeout_kept (p : Port) (sinceNs : Nat) (s : State) : okept (execReplayTimeout p sinceNs s) = some s.kept := by unfold execReplayTimeout; simp
theorem execLinkDown_kept (p : Port) (s : State) : okept (execLinkDown p s) = some s.kept := by unfold execLinkDown; simp
@[simp] theorem rejectCtl_kept (x : FabStream) (s : State) : (rejectCtl x s).kept = s.kept := by unfold rejectCtl; simp
theorem execControlFrameReceived_kept (h : FabHeader) (payload : List Byte) (c : CtlContent) (s : State) : okept (execControlFrameReceived h payload c s) = some s.kept := by
  unfold execControlFrameReceived
  dsimp only
  repeat' (first | (simp; done) | split)
theorem execDataFrameReceived_kept (h : FabHeader) (s : State) : okept (execDataFrameReceived h s) = some s.kept := by unfold execDataFrameReceived; simp
theorem execAdvertSend_kept (s : State) : okept (execAdvertSend s) = some s.kept := by unfold execAdvertSend; simp
@[simp] theorem excludePort_kept (p : Port) (s : State) : (excludePort p s).kept = s.kept := by unfold excludePort; simp
@[simp] theorem closeList_kept (ids : List Nat) (s : State) : (closeList ids s).kept = s.kept := by
  unfold closeList
  dsimp only
  repeat' (first | (simp; done) | split)
@[simp] theorem collide_kept (a : Advert) (s : State) : (collide a s).kept = s.kept := by unfold collide; simp
@[simp] theorem mergeList_kept (p : Port) (a : Advert) (s : State) : (mergeList p a s).kept = s.kept := by unfold mergeList; simp
@[simp] theorem learnBase_kept (a : Advert) (newBoot : Bool) (s : State) : (learnBase a newBoot s).kept = s.kept := by unfold learnBase; simp
@[simp] theorem learnFlood_kept (p : Port) (s : State) : (learnFlood p s).kept = s.kept := by unfold learnFlood; simp
@[simp] theorem learnAdvert_kept (p : Port) (a : Advert) (newBoot : Bool) (s : State) : (learnAdvert p a newBoot s).kept = s.kept := by unfold learnAdvert; simp
theorem execLinkStateAdvert_kept (p : Port) (a : Advert) (s : State) : okept (execLinkStateAdvert p a s) = some s.kept := by
  unfold execLinkStateAdvert
  repeat' (first | (simp; done) | split)
theorem execEpochListClose_kept (unchangedMs sinceMs : Nat) (s : State) : okept (execEpochListClose unchangedMs sinceMs s) = some s.kept := by unfold execEpochListClose; simp
theorem execDelayMeasurement_kept (p : Port) (t1 t2 t3 t4 : Nat) (s : State) : okept (execDelayMeasurement p t1 t2 t3 t4 s) = some s.kept := by unfold execDelayMeasurement; simp
@[simp] theorem loseLock_kept (s : State) : (loseLock s).kept = s.kept := by unfold loseLock; simp
theorem execTimeFrame_kept (p : Port) (carried : Nat) (s : State) : okept (execTimeFrame p carried s) = some s.kept := by unfold execTimeFrame; simp
theorem execTimeFrameTimeout_kept (sinceUs : Nat) (s : State) : okept (execTimeFrameTimeout sinceUs s) = some s.kept := by unfold execTimeFrameTimeout; simp
@[simp] theorem sendTime_kept (p : Port) (s : State) : (sendTime p s).kept = s.kept := by unfold sendTime; simp
theorem execTimeFrameSend_kept (s : State) : okept (execTimeFrameSend s) = some s.kept := by
  unfold execTimeFrameSend
  repeat' (first | (simp; done) | split)
@[simp] theorem reply_kept (r : FabReq) (op status : Nat) (args : List Byte) (s : State) : (reply r op status args s).kept = s.kept := by unfold reply; simp
@[simp] theorem serve_kept (r : FabReq) (op : Nat) (bit : Option Nat) (k : State → State) (s : State) (hk : ∀ s, (k s).kept = s.kept) : (serve r op bit k s).kept = s.kept := by
  unfold serve
  first | (simp [hk]; done) | (repeat' (first | (simp [hk]; done) | split))
@[simp] theorem readWords_kept (n a : Nat) (s : State) : (readWords n a s).2.kept = s.kept := by
  induction n generalizing a s with
  | zero => rfl
  | succ n ih => simp [readWords, ih]
theorem execRead_kept (r : FabReq) (addr count : Nat) (s : State) : okept (execRead r addr count s) = some s.kept := by
  unfold execRead
  rw [okept_next, serve_kept]
  intro s
  dsimp only
  repeat' (first | (simp; done) | split)
theorem execWrite_kept (r : FabReq) (addr value : Nat) (s : State) : okept (execWrite r addr value s) = some s.kept := by unfold execWrite; simp
theorem execStageOpen_kept (r : FabReq) (region first size : Nat) (s : State) : okept (execStageOpen r region first size s) = some s.kept := by unfold execStageOpen; simp
theorem execStageExit_kept (r : FabReq) (s : State) : okept (execStageExit r s) = some s.kept := by unfold execStageExit; simp
theorem execRoutine_kept (r : FabReq) (id : Nat) (fw : FwFacts) (sigOk : Bool) (readFails : List ReadFail) (s : State) : okept (execRoutine r id fw sigOk readFails s) = some s.kept := by unfold execRoutine; simp
theorem execOpUnknown_kept (r : FabReq) (code : Nat) (s : State) : okept (execOpUnknown r code s) = some s.kept := by unfold execOpUnknown; simp
theorem execImageBlockPart_kept (node block part : Nat) (data : List Byte) (s : State) : okept (execImageBlockPart node block part data s) = some s.kept := by unfold execImageBlockPart; simp
theorem execBlockPartTimeout_kept (elapsedMs : Nat) (s : State) : okept (execBlockPartTimeout elapsedMs s) = some s.kept := by unfold execBlockPartTimeout; simp
theorem execLogRead_kept (r : FabReq) (start count : Nat) (s : State) : okept (execLogRead r start count s) = some s.kept := by unfold execLogRead; simp
theorem execAttest_kept (r : FabReq) (nonce : List Byte) (s : State) : okept (execAttest r nonce s) = some s.kept := by unfold execAttest; simp
@[simp] theorem setGop_kept (kind st : Nat) (s : State) : (setGop kind st s).kept = s.kept := by unfold setGop; simp
@[simp] theorem missed_kept (r : FabReq) (kind op : Nat) (s : State) : (missed r kind op s).kept = s.kept := by unfold missed; simp
theorem execReset_kept (r : FabReq) (at_ : Nat) (s : State) : okept (execReset r at_ s) = some s.kept := by unfold execReset; simp
theorem execBarrier_kept (node number : Nat) (s : State) : okept (execBarrier node number s) = some s.kept := by unfold execBarrier; simp
theorem execBarrierComplete_kept (number : Nat) (s : State) : okept (execBarrierComplete number s) = some s.kept := by
  unfold execBarrierComplete
  dsimp only
  repeat' (first | (simp; done) | split)
theorem execSnapshot_kept (r : FabReq) (at_ : Nat) (addrs : List Nat) (s : State) : okept (execSnapshot r at_ addrs s) = some s.kept := by unfold execSnapshot; simp
@[simp] theorem readList_kept (l : List Nat) (s : State) : (readList l s).2.kept = s.kept := by
  induction l generalizing s with
  | nil => rfl
  | cons a l ih => simp [readList, ih]
theorem execSnapshotCapture_kept (s : State) : okept (execSnapshotCapture s) = some s.kept := by
  unfold execSnapshotCapture
  dsimp only
  repeat' (first | (simp; done) | split)

/-! ## Vehicle -/

@[simp] theorem updCan_kept (n : Fin 2) (f : CanSt → CanSt) (s : State) : (updCan n f s).kept = s.kept := by unfold updCan; simp
theorem execBusOff_kept (n : Fin 2) (s : State) : okept (execBusOff n s) = some s.kept := by unfold execBusOff; simp
theorem execBusOffRejoin_kept (n : Fin 2) (waitMs : Nat) (s : State) : okept (execBusOffRejoin n waitMs s) = some s.kept := by unfold execBusOffRejoin; simp
theorem execEthLinkChange_kept (up : Bool) (s : State) : okept (execEthLinkChange up s) = some s.kept := by unfold execEthLinkChange; simp
theorem execPhyResetRelease_kept (sinceMs : Nat) (s : State) : okept (execPhyResetRelease sinceMs s) = some s.kept := by unfold execPhyResetRelease; simp
theorem execModemStatusRead_kept (reply : Bool) (s : State) : okept (execModemStatusRead reply s) = some s.kept := by unfold execModemStatusRead; simp
theorem execModemLinkLoss_kept (silentMs : Nat) (s : State) : okept (execModemLinkLoss silentMs s) = some s.kept := by unfold execModemLinkLoss; simp
theorem execModemFrameReceive_kept (type len : Nat) (s : State) : okept (execModemFrameReceive type len s) = some s.kept := by unfold execModemFrameReceive; simp
@[simp] theorem updStream_kept (m : Fin 256) (f : Stream → Stream) (s : State) : (updStream m f s).kept = s.kept := by unfold updStream; simp
@[simp] theorem modeMessage_kept (b : List Byte) (s : State) : (modeMessage b s).kept = s.kept := by unfold modeMessage; simp
@[simp] theorem applyMessage_kept (func : Nat) (b : List Byte) (s : State) : (applyMessage func b s).kept = s.kept := by
  unfold applyMessage
  repeat' (first | (simp; done) | split)
@[simp] theorem rejectMsg_kept (m : Fin 256) (good : Option Nat) (s : State) : (rejectMsg m good s).kept = s.kept := by unfold rejectMsg; simp
@[simp] theorem acceptMsg_kept (m : Fin 256) (ifc : Fin 3) (cnt lost : Nat) (bytes : List Byte) (s : State) : (acceptMsg m ifc cnt lost bytes s).kept = s.kept := by unfold acceptMsg; simp
@[simp] theorem judgeMessage_kept (m : Fin 256) (ifc : Fin 3) (bytes : List Byte) (s : State) : (judgeMessage m ifc bytes s).kept = s.kept := by
  unfold judgeMessage
  dsimp only
  repeat' (first | (simp; done) | split)
theorem execControlMessageReceived_kept (m : Fin 256) (ifc : Fin 3) (bytes : List Byte) (s : State) : okept (execControlMessageReceived m ifc bytes s) = some s.kept := by
  unfold execControlMessageReceived
  dsimp only
  repeat' (first | (simp; done) | split)
@[simp] theorem lostMessage_kept (func : Nat) (s : State) : (lostMessage func s).kept = s.kept := by
  unfold lostMessage
  repeat' (first | (simp; done) | split)
theorem execStreamTimeout_kept (m : Fin 256) (sinceMs : Nat) (s : State) : okept (execStreamTimeout m sinceMs s) = some s.kept := by unfold execStreamTimeout; simp
@[simp] theorem sendOn_kept (mask len : Nat) (c : Fin 8) (r : Nat × State) (i : Fin 3) : (sendOn mask len c r i).2.kept = r.2.kept := by
  unfold sendOn
  repeat' (first | (simp; done) | split)
@[simp] theorem sendMessage_kept (m : Fin 256) (mask : Nat) (c : Fin 8) (bytes : List Byte) (s : State) : (sendMessage m mask c bytes s).kept = s.kept := by unfold sendMessage; simp
theorem execMessageTransmit_kept (m : Fin 256) (s : State) : okept (execMessageTransmit m s) = some s.kept := by unfold execMessageTransmit; simp
@[simp] theorem setSession_kept (p : UPath) (n : Nat) (s : State) : (setSession p n s).kept = s.kept := by unfold setSession; simp
theorem execDiagnosticSessionControl_kept (p : UPath) (sub : Nat) (functional : Bool) (s : State) : okept (execDiagnosticSessionControl p sub functional s) = some s.kept := by unfold execDiagnosticSessionControl; simp
theorem execS3SessionTimeout_kept (p : UPath) (idleMs : Nat) (s : State) : okept (execS3SessionTimeout p idleMs s) = some s.kept := by unfold execS3SessionTimeout; simp
theorem execTesterPresent_kept (p : UPath) (sub : Nat) (functional : Bool) (s : State) : okept (execTesterPresent p sub functional s) = some s.kept := by unfold execTesterPresent; simp
theorem execReadDtcInformation_kept (p : UPath) (sub mask : Nat) (s : State) : okept (execReadDtcInformation p sub mask s) = some s.kept := by unfold execReadDtcInformation; simp
theorem execClearDiagnosticInformation_kept (p : UPath) (group : Nat) (s : State) : okept (execClearDiagnosticInformation p group s) = some s.kept := by unfold execClearDiagnosticInformation; simp
theorem execReadDataByIdentifier_kept (p : UPath) (did : Nat) (s : State) : okept (execReadDataByIdentifier p did s) = some s.kept := by unfold execReadDataByIdentifier; simp
theorem execReadMemoryByAddress_kept (p : UPath) (format addr len : Nat) (s : State) : okept (execReadMemoryByAddress p format addr len s) = some s.kept := by
  unfold execReadMemoryByAddress
  rw [okept_next, udsServe_kept]
  intro s
  dsimp only
  repeat' (first | (simp; done) | split)
theorem execWriteDataByIdentifier_kept (p : UPath) (did value : Nat) (s : State) : okept (execWriteDataByIdentifier p did value s) = some s.kept := by unfold execWriteDataByIdentifier; simp
theorem execRoutineResults_kept (p : UPath) (rid : Nat) (s : State) : okept (execRoutineResults p rid s) = some s.kept := by
  unfold execRoutineResults
  rw [okept_next, udsServe_kept]
  intro s
  repeat' (first | (simp; done) | split)
theorem execUnsupportedService_kept (p : UPath) (sid : Nat) (sub : Option Nat) (functional : Bool) (s : State) : okept (execUnsupportedService p sid sub functional s) = some s.kept := by
  unfold execUnsupportedService
  repeat' (first | (simp; done) | split)

/-! ## Lockstep -/

@[simp] theorem updPair_kept (p : LPair) (f : PairSt → PairSt) (s : State) : (updPair p f s).kept = s.kept := by unfold updPair; simp
@[simp] theorem haltPair_kept (p : LPair) (st kind word : Nat) (s : State) : (haltPair p st kind word s).kept = s.kept := by unfold haltPair; simp
@[simp] theorem pairReaction_kept (p : LPair) (first : Bool) (s : State) : (pairReaction p first s).kept = s.kept := by
  unfold pairReaction
  repeat' (first | (simp; done) | split)
@[simp] theorem mismatch_kept (p : LPair) (kind word : Nat) (s : State) : (mismatch p kind word s).kept = s.kept := by unfold mismatch; simp
@[simp] theorem pairStep_kept (p : LPair) (c : CoreStep) (m : Bound) (b : BusIn) (chk : Bound) (s : State) : (pairStep p c m b chk s).kept = s.kept := by
  unfold pairStep
  dsimp only
  repeat' (first | (simp; done) | split)
@[simp] theorem exported_kept (p : LPair) (s : State) : (exported p s).kept = s.kept := by unfold exported; simp
@[simp] theorem compareExport_kept (p : LPair) (main checker : List (BitVec 64)) (s : State) : (compareExport p main checker s).kept = s.kept := by
  unfold compareExport
  repeat' (first | (simp; done) | split)
theorem execRegisterExport_kept (p : LPair) (main checker : List (BitVec 64)) (s : State) : okept (execRegisterExport p main checker s) = some s.kept := by
  unfold execRegisterExport
  repeat' (first | (simp; done) | split)
@[simp] theorem correctable_kept (r : MemRead) (data : BitVec 64) (source nowMs : Nat) (s : State) : (correctable r data source nowMs s).kept = s.kept := by unfold correctable; simp
theorem execCorrectableError_kept (r : MemRead) (reader : MemReader) (nowMs : Nat) (s : State) : okept (execCorrectableError r reader nowMs s) = some s.kept := by
  unfold execCorrectableError
  repeat' (first | (simp; done) | split)
@[simp] theorem writtenBack_kept (b : Fin 9) (s : State) : (writtenBack b s).kept = s.kept := by unfold writtenBack; simp
@[simp] theorem scrubbed_kept (nowMs : Nat) (s : State) (x : ScrubWord) : (scrubbed nowMs s x).kept = s.kept := by
  unfold scrubbed
  dsimp only
  repeat' (first | (simp; done) | split)
@[simp] theorem scrubNext_kept (s : State) : (scrubNext s).kept = s.kept := by unfold scrubNext; simp
theorem execScrubRead_kept (words : List ScrubWord) (nowMs : Nat) (s : State) : okept (execScrubRead words nowMs s) = some s.kept := by unfold execScrubRead; simp
@[simp] theorem uncorrectable_kept (r : MemRead) (reader : MemReader) (locked : Bool) (s : State) : (uncorrectable r reader locked s).kept = s.kept := by
  unfold uncorrectable
  repeat' (first | (simp; done) | split)
theorem execUncorrectableError_kept (r : MemRead) (reader : MemReader) (locked : Bool) (s : State) : okept (execUncorrectableError r reader locked s) = some s.kept := by
  unfold execUncorrectableError
  repeat' (first | (simp; done) | split)
theorem execDebugHalt_kept (p : LPair) (tail : CoreStep) (main checker : List (BitVec 64)) (s : State) : okept (execDebugHalt p tail main checker s) = some s.kept := by unfold execDebugHalt; simp
theorem execDebugRegisterWrite_kept (p : LPair) (reg value : Nat) (s : State) : okept (execDebugRegisterWrite p reg value s) = some s.kept := by unfold execDebugRegisterWrite; simp

/-! ## Collector -/

theorem execFaultRaise_kept (code inst meas : Nat) (s : State) : okept (execFaultRaise code inst meas s) = some s.kept := by unfold execFaultRaise; simp
theorem execFaultClear_kept (code inst : Nat) (s : State) : okept (execFaultClear code inst s) = some s.kept := by unfold execFaultClear; simp
theorem execFaultExpiry_kept (code inst elapsedMs : Nat) (s : State) : okept (execFaultExpiry code inst elapsedMs s) = some s.kept := by unfold execFaultExpiry; simp
@[simp] theorem jtagAccess_kept (addr : Nat) (act : State → State) (s : State) (h : ∀ s, (act s).kept = s.kept) : (jtagAccess addr act s).kept = s.kept := by
  unfold jtagAccess
  simp [h]
theorem execRcRegisterRead_kept (path : RegPath) (addr : Nat) (s : State) : okept (execRcRegisterRead path addr s) = some s.kept := by
  unfold execRcRegisterRead
  split <;> simp
@[simp] theorem fieldWrite_kept (addr value : Nat) (s : State) : (fieldWrite addr value s).kept = s.kept := by unfold fieldWrite; simp

/-! ## Meridian -/

theorem execCalibrationMeasurement_kept (counts : List Nat) (s : State) : okept (execCalibrationMeasurement counts s) = some s.kept := by unfold execCalibrationMeasurement; simp
theorem execTapSwap_kept (tick : Nat) (edgeFree : Bool) (s : State) : okept (execTapSwap tick edgeFree s) = some s.kept := by
  unfold execTapSwap
  repeat' (first | (simp; done) | split)
theorem execCalibrationMissed_kept (s : State) : okept (execCalibrationMissed s) = some s.kept := by unfold execCalibrationMissed; simp
theorem execCrystalLoss_kept (edges : Nat) (s : State) : okept (execCrystalLoss edges s) = some s.kept := by unfold execCrystalLoss; simp
@[simp] theorem takePeriod_kept (g : Grp) (s : State) : (takePeriod g s).kept = s.kept := by
  unfold takePeriod
  dsimp only
  repeat' (first | (simp; done) | split)
@[simp] theorem followShift_kept (s : State) : (followShift s).kept = s.kept := by unfold followShift; simp
@[simp] theorem followAnchor_kept (g : Grp) (err : Int) (s : State) : (followAnchor g err s).kept = s.kept := by unfold followAnchor; simp
@[simp] theorem latchCentre_kept (g : Grp) (s : State) : (latchCentre g s).kept = s.kept := by unfold latchCentre; simp
@[simp] theorem latchEdge_kept (g : Grp) (s : State) : (latchEdge g s).kept = s.kept := by unfold latchEdge; simp
@[simp] theorem latchShift_kept (g : Grp) (s : State) : (latchShift g s).kept = s.kept := by unfold latchShift; simp
@[simp] theorem chopperLatch_kept (s : State) : (chopperLatch s).kept = s.kept := by unfold chopperLatch; simp
theorem execPwmLatch_kept (g : Grp) (aux : Q) (s : State) : okept (execPwmLatch g aux s) = some s.kept := by unfold execPwmLatch; simp
@[simp] theorem startOff_kept (g : Grp) (s : State) : (startOff g s).kept = s.kept := by
  unfold startOff
  repeat' (first | (simp; done) | split)
@[simp] theorem startGroup_kept (g : Grp) (s : State) : (startGroup g s).kept = s.kept := by unfold startGroup; simp
theorem execGroupStart_kept (g : Grp) (bootstrap : List (Chan × Q)) (s : State) : okept (execGroupStart g bootstrap s) = some s.kept := by unfold execGroupStart; simp
theorem execGroupStop_kept (g : Grp) (s : State) : okept (execGroupStop g s) = some s.kept := by unfold execGroupStop; simp
theorem execAnchoredGroupStart_kept (g : Grp) (requestNs startNs : Q) (bootstrap : List (Chan × Q)) (s : State) : okept (execAnchoredGroupStart g requestNs startNs bootstrap s) = some s.kept := by unfold execAnchoredGroupStart; simp
@[simp] theorem pendTicks_kept (s : State) : (pendTicks s).kept = s.kept := by unfold pendTicks; simp
@[simp] theorem idleTick_kept (s : State) : (idleTick s).kept = s.kept := by unfold idleTick; simp

/-! ## LvConv -/

@[simp] theorem senseFallback_kept (s : State) : (senseFallback s).kept = s.kept := by unfold senseFallback; simp
@[simp] theorem buckSoftStart_kept (rs ls : Q) (boot : List (Chan × Q)) (s : State) : (buckSoftStart rs ls boot s).kept = s.kept := by unfold buckSoftStart; simp
@[simp] theorem buckDiag_kept (rs ls : Q) (boot : List (Chan × Q)) (s : State) : (buckDiag rs ls boot s).kept = s.kept := by unfold buckDiag; simp
theorem execLvConverterStart_kept (v48 rs ls : Q) (sinceUs : Nat) (ring : Q) (boot : List (Chan × Q)) (s : State) : okept (execLvConverterStart v48 rs ls sinceUs ring boot s) = some s.kept := by unfold execLvConverterStart; simp
theorem execLvConverterStop_kept (s : State) : okept (execLvConverterStop s) = some s.kept := by unfold execLvConverterStop; simp
@[simp] theorem lvRestart_kept (s : State) : (lvRestart s).kept = s.kept := by unfold lvRestart; simp
theorem execLvRestartRequest_kept (s : State) : okept (execLvRestartRequest s) = some s.kept := by unfold execLvRestartRequest; simp
theorem execDcxStartTimeout_kept (v48 : Q) (elapsedMs : Nat) (s : State) : okept (execDcxStartTimeout v48 elapsedMs s) = some s.kept := by unfold execDcxStartTimeout; simp
theorem execV48Overvoltage_kept (v48 : Q) (heldUs : Nat) (s : State) : okept (execV48Overvoltage v48 heldUs s) = some s.kept := by unfold execV48Overvoltage; simp
theorem execV48Undervoltage_kept (v48 : Q) (heldUs : Nat) (s : State) : okept (execV48Undervoltage v48 heldUs s) = some s.kept := by unfold execV48Undervoltage; simp
@[simp] theorem newPeriod_kept (x : SlotIn) (s : State) : (newPeriod x s).kept = s.kept := by unfold newPeriod; simp
@[simp] theorem respace_kept (s : State) : (respace s).kept = s.kept := by unfold respace; simp
@[simp] theorem slotRead_kept (n : Fin 6) (x : SlotIn) (s : State) : (slotRead n x s).kept = s.kept := by unfold slotRead; simp
@[simp] theorem slotLoop_kept (n : Fin 6) (s : State) : (slotLoop n s).kept = s.kept := by unfold slotLoop; simp
@[simp] theorem slotCore_kept (n : Fin 6) (x : SlotIn) (s : State) : (slotCore n x s).kept = s.kept := by unfold slotCore; simp
@[simp] theorem endResponse_kept (s : State) : (endResponse s).kept = s.kept := by unfold endResponse; simp
theorem execBuckTurnOnSlot_kept (n : Fin 6) (x : SlotIn) (s : State) : okept (execBuckTurnOnSlot n x s) = some s.kept := by unfold execBuckTurnOnSlot; simp
@[simp] theorem releaseHeld_kept (n : Fin 6) (ft : Int) (s : State) : (releaseHeld n ft s).kept = s.kept := by unfold releaseHeld; simp
theorem execPhaseCurrentLimit_kept (n : Fin 6) (ft : Int) (amps : Q) (s : State) : okept (execPhaseCurrentLimit n ft amps s) = some s.kept := by unfold execPhaseCurrentLimit; simp
theorem execLvcCmdWrite_kept (value : Word) (s : State) : okept (execLvcCmdWrite value s) = some s.kept := by unfold execLvcCmdWrite; simp
theorem execReferenceStep_kept (s : State) : okept (execReferenceStep s) = some s.kept := by unfold execReferenceStep; simp
theorem execShortCheck_kept (ls : Q) (heldMs : Nat) (s : State) : okept (execShortCheck ls heldMs s) = some s.kept := by unfold execShortCheck; simp
theorem execHiccupRetry_kept (rs ls : Q) (boot : List (Chan × Q)) (offMs : Nat) (s : State) : okept (execHiccupRetry rs ls boot offMs s) = some s.kept := by unfold execHiccupRetry; simp
theorem execRetriesReset_kept (ls : Q) (heldMs : Nat) (s : State) : okept (execRetriesReset ls heldMs s) = some s.kept := by unfold execRetriesReset; simp
theorem execRemoteSenseLoss_kept (rs ls : Q) (heldUs : Nat) (s : State) : okept (execRemoteSenseLoss rs ls heldUs s) = some s.kept := by unfold execRemoteSenseLoss; simp
theorem execUndershootResponse_kept (ls highest : Q) (sinceUs : Option Nat) (s : State) : okept (execUndershootResponse ls highest sinceUs s) = some s.kept := by unfold execUndershootResponse; simp
theorem execReleaseResponse_kept (ls lowest : Q) (sinceUs : Option Nat) (s : State) : okept (execReleaseResponse ls lowest sinceUs s) = some s.kept := by unfold execReleaseResponse; simp
theorem execOvervoltageHold_kept (ls : Q) (heldUs : Nat) (s : State) : okept (execOvervoltageHold ls heldUs s) = some s.kept := by unfold execOvervoltageHold; simp
theorem execOvervoltageHoldEnd_kept (ls : Q) (s : State) : okept (execOvervoltageHoldEnd ls s) = some s.kept := by unfold execOvervoltageHoldEnd; simp
theorem execOvervoltageHoldTimeout_kept (elapsedMs : Nat) (s : State) : okept (execOvervoltageHoldTimeout elapsedMs s) = some s.kept := by unfold execOvervoltageHoldTimeout; simp
theorem execPhaseStop_kept (n : Fin 6) (s : State) : okept (execPhaseStop n s) = some s.kept := by unfold execPhaseStop; simp

/-! ## Position -/

@[simp] theorem posOk_kept (i : Ifc) (s : State) : (posOk i s).kept = s.kept := by unfold posOk; simp
@[simp] theorem posLose_kept (i : Ifc) (code : Nat) (s : State) : (posLose i code s).kept = s.kept := by unfold posLose; simp
@[simp] theorem addError_kept (i : Ifc) (tFt : Nat) (s : State) : (addError i tFt s).kept = s.kept := by unfold addError; simp
@[simp] theorem emAt_kept (src : Ifc) (i : Ifc) (out acc : Int) (s : State) : (emAt src i out acc s).kept = s.kept := by unfold emAt; simp
@[simp] theorem feedOne_kept (src : Ifc) (pos delta : Int) (i : Ifc) (s : State) : (feedOne src pos delta i s).kept = s.kept := by unfold feedOne; simp
@[simp] theorem feedEmulation_kept (src : Ifc) (pos delta : Int) (s : State) : (feedEmulation src pos delta s).kept = s.kept := by unfold feedEmulation; simp
@[simp] theorem rebaseEm_kept (src : Ifc) (pos : Int) (s : State) : (rebaseEm src pos s).kept = s.kept := by unfold rebaseEm; simp
theorem execEmulationStep_kept (i : Ifc) (sinceCt : Nat) (s : State) : okept (execEmulationStep i sinceCt s) = some s.kept := by unfold execEmulationStep; simp
@[simp] theorem endTurn_kept (i : Ifc) (c : CalTurn) (s : State) : (endTurn i c s).kept = s.kept := by unfold endTurn; simp
@[simp] theorem calStep_kept (i : Ifc) (sm cm s1 : Q) (dth : Int) (s : State) : (calStep i sm cm s1 dth s).kept = s.kept := by unfold calStep; simp
@[simp] theorem sdlyStep_kept (i : Ifc) (sm cm sq cq : Q) (s : State) : (sdlyStep i sm cm sq cq s).kept = s.kept := by unfold sdlyStep; simp
@[simp] theorem resCheck_kept (i : Ifc) (eps : Q) (s : State) : (resCheck i eps s).kept = s.kept := by unfold resCheck; simp
theorem execResolverUpdate_kept (i : Ifc) (at270 : Bool) (sQuad cQuad sEnv cEnv : Q) (s : State) : okept (execResolverUpdate i at270 sQuad cQuad sEnv cEnv s) = some s.kept := by unfold execResolverUpdate; simp
theorem execSentFrame_kept (i : Ifc) (f : SentFrame) (s : State) : okept (execSentFrame i f s) = some s.kept := by
  unfold execSentFrame
  repeat' (first | (simp; done) | split)
theorem execSentTimeout_kept (i : Ifc) (sinceUs : Nat) (s : State) : okept (execSentTimeout i sinceUs s) = some s.kept := by unfold execSentTimeout; simp
@[simp] theorem timedEdge_kept (i : Ifc) (d : Int) (tFt step mMax : Nat) (theta : List Nat → Nat → Q) (s : State) : (timedEdge i d tFt step mMax theta s).kept = s.kept := by unfold timedEdge; simp
@[simp] theorem restartTiming_kept (i : Ifc) (s : State) : (restartTiming i s).kept = s.kept := by unfold restartTiming; simp
theorem execStandstillTimeout_kept (i : Ifc) (tauUs : Nat) (s : State) : okept (execStandstillTimeout i tauUs s) = some s.kept := by unfold execStandstillTimeout; simp
@[simp] theorem indexFault_kept (i : Ifc) (code : Nat) (s : State) : (indexFault i code s).kept = s.kept := by unfold indexFault; simp
@[simp] theorem indexEvent_kept (i : Ifc) (turn : Nat) (s : State) : (indexEvent i turn s).kept = s.kept := by
  unfold indexEvent
  dsimp only
  repeat' (first | (simp; done) | split)
@[simp] theorem indexGood_kept (i : Ifc) (s : State) : (indexGood i s).kept = s.kept := by unfold indexGood; simp
@[simp] theorem indexMissing_kept (i : Ifc) (turn : Nat) (s : State) : (indexMissing i turn s).kept = s.kept := by unfold indexMissing; simp
@[simp] theorem abzIndex_kept (i : Ifc) (ev : Bool) (s : State) : (abzIndex i ev s).kept = s.kept := by unfold abzIndex; simp
@[simp] theorem abzFollow_kept (i : Ifc) (s : State) : (abzFollow i s).kept = s.kept := by
  unfold abzFollow
  repeat' (first | (simp; done) | split)
@[simp] theorem abzSettle_kept (i : Ifc) (ev : Bool) (s : State) : (abzSettle i ev s).kept = s.kept := by unfold abzSettle; simp
theorem execAbzEdge_kept (i : Ifc) (a b z : Bool) (heldCt tFt : Nat) (s : State) : okept (execAbzEdge i a b z heldCt tFt s) = some s.kept := by
  unfold execAbzEdge
  simp
  repeat' (split <;> (try simp))
@[simp] theorem hallAdjacent_kept (i : Ifc) (c c' : Nat) (fwd : Bool) (tFt : Nat) (s : State) : (hallAdjacent i c c' fwd tFt s).kept = s.kept := by unfold hallAdjacent; simp
@[simp] theorem hallMiddle_kept (i : Ifc) (c : Nat) (s : State) : (hallMiddle i c s).kept = s.kept := by unfold hallMiddle; simp
theorem execHallEdge_kept (i : Ifc) (code : Nat) (heldCt tFt : Nat) (s : State) : okept (execHallEdge i code heldCt tFt s) = some s.kept := by unfold execHallEdge; simp
theorem execIndexRisingEdge_kept (i : Ifc) (level : Bool) (heldCt : Nat) (s : State) : okept (execIndexRisingEdge i level heldCt s) = some s.kept := by unfold execIndexRisingEdge; simp

/-! ## SafetyIn -/

@[simp] theorem updSi_kept (n : SiN) (f : SiSt → SiSt) (s : State) : (updSi n f s).kept = s.kept := by unfold updSi; simp
@[simp] theorem siEntry_kept (n : SiN) (s : State) : (siEntry n s).kept = s.kept := by unfold siEntry; simp
@[simp] theorem siLatch_kept (n : SiN) (s : State) : (siLatch n s).kept = s.kept := by unfold siLatch; simp
@[simp] theorem siEdge_kept (n : SiN) (ch : Side) (demand : Bool) (at_ : Nat) (s : State) : (siEdge n ch demand at_ s).kept = s.kept := by unfold siEdge; simp
theorem execSafetyInputEdge_kept (n : SiN) (ch : Side) (demand : Bool) (heldUs : Q) (at_ : Nat) (s : State) : okept (execSafetyInputEdge n ch demand heldUs at_ s) = some s.kept := by unfold execSafetyInputEdge; simp
theorem execDiscrepancyLatch_kept (n : SiN) (at_ : Nat) (s : State) : okept (execDiscrepancyLatch n at_ s) = some s.kept := by
  unfold execDiscrepancyLatch
  repeat' (first | (simp; done) | split)
theorem execInputViewMismatch_kept (n : SiN) (ch : Side) (heldUs : Nat) (s : State) : okept (execInputViewMismatch n ch heldUs s) = some s.kept := by unfold execInputViewMismatch; simp
@[simp] theorem callLevel_kept (s : State) (l : SiN × Side × List Bool) : (callLevel s l).kept = s.kept := by unfold callLevel; simp
theorem execCallistoCycle_kept (samples : List (SiN × Side × List Bool)) (s : State) : okept (execCallistoCycle samples s) = some s.kept := by unfold execCallistoCycle; simp
theorem execCallistoOverrun_kept (s : State) : okept (execCallistoOverrun s) = some s.kept := by unfold execCallistoOverrun; simp
theorem execCallistoWatchExpiry_kept (sinceUs : Nat) (s : State) : okept (execCallistoWatchExpiry sinceUs s) = some s.kept := by unfold execCallistoWatchExpiry; simp
theorem execSafeStateRequest_kept (s : State) : okept (execSafeStateRequest s) = some s.kept := by unfold execSafeStateRequest; simp
theorem execSoReadbackMismatch_kept (line : Side) (level : Bool) (heldUs : Nat) (s : State) : okept (execSoReadbackMismatch line level heldUs s) = some s.kept := by unfold execSoReadbackMismatch; simp
theorem execCustodianConfigCheck_kept (upsets : List (CustReg × Nat)) (s : State) : okept (execCustodianConfigCheck upsets s) = some s.kept := by unfold execCustodianConfigCheck; simp

/-! ## Thermal -/

@[simp] theorem takeSlots_kept (failed : Bool) (taken : List HkReading) (s : State) : (takeSlots failed taken s).kept = s.kept := by unfold takeSlots; simp
@[simp] theorem markStale_kept (ns : List (Fin 96)) (s : State) : (markStale ns s).kept = s.kept := by
  unfold markStale
  dsimp only
  repeat' (first | (simp; done) | split)
@[simp] theorem takeSupply_kept (taken : List HkReading) (a : Act) (s : State) : (takeSupply taken a s).kept = s.kept := by unfold takeSupply; simp
@[simp] theorem readEnergy_kept (s : State) (c : Chan) : (readEnergy s c).kept = s.kept := by unfold readEnergy; rfl
@[simp] theorem stepAnchors_kept (taken : List HkReading) (s : State) : (stepAnchors taken s).kept = s.kept := by unfold stepAnchors; simp
@[simp] theorem anchorFault_kept (s : State) (src : Nat) : (anchorFault s src).kept = s.kept := by unfold anchorFault; simp
@[simp] theorem flagFault_kept (code : Nat) (c : Chan) (old new : Bool) (s : State) : (flagFault code c old new s).kept = s.kept := by unfold flagFault; simp
@[simp] theorem stepSwitch_kept (s : State) (c : Chan) : (stepSwitch s c).kept = s.kept := by unfold stepSwitch; simp
@[simp] theorem publish_kept (complete : Bool) (s : State) : (publish complete s).kept = s.kept := by unfold publish; simp
@[simp] theorem guardFault_kept (code inst : Nat) (r : Nat × Nat) (s : State) : (guardFault code inst r s).kept = s.kept := by unfold guardFault; simp
@[simp] theorem guardSecondary_kept (s : State) (k : Fin 29) : (guardSecondary s k).kept = s.kept := by unfold guardSecondary; simp
@[simp] theorem guardPrimary_kept (s : State) (k : Fin 8) : (guardPrimary s k).kept = s.kept := by unfold guardPrimary; simp
@[simp] theorem conservator_kept (taken : List HkReading) (complete : Bool) (s : State) : (conservator taken complete s).kept = s.kept := by unfold conservator; simp
theorem execHousekeepingRound_kept (read : List HkReading) (s : State) : okept (execHousekeepingRound read s) = some s.kept := by
  unfold execHousekeepingRound
  dsimp only
  repeat' (first | (simp; done) | split)
theorem execHousekeepingStale_kept (slots : List (Fin 96)) (s : State) : okept (execHousekeepingStale slots s) = some s.kept := by unfold execHousekeepingStale; simp

/-! ## Torque -/

theorem execDcLinkSample_kept (d : Die) (volts : Q) (s : State) : okept (execDcLinkSample d volts s) = some s.kept := by
  unfold execDcLinkSample
  repeat' (first | (simp; done) | split)
theorem execSenseDieTriggerLoss_kept (d : Die) (ns : Nat) (s : State) : okept (execSenseDieTriggerLoss d ns s) = some s.kept := by
  unfold execSenseDieTriggerLoss
  repeat' (first | (simp; done) | split)
theorem execDcLinkDisagree_kept (heldUs : Nat) (s : State) : okept (execDcLinkDisagree heldUs s) = some s.kept := by unfold execDcLinkDisagree; simp
theorem execDcOvervoltageAsc_kept (d : Die) (volts : Q) (s : State) : okept (execDcOvervoltageAsc d volts s) = some s.kept := by
  unfold execDcOvervoltageAsc
  repeat' (first | (simp; done) | split)
theorem execOvAscRelease_kept (voltsT voltsC : Q) (s : State) : okept (execOvAscRelease voltsT voltsC s) = some s.kept := by unfold execOvAscRelease; simp
theorem execSafeStateEntry_kept (t : TSet) (s : State) : okept (execSafeStateEntry t s) = some s.kept := by unfold execSafeStateEntry; simp
theorem execSafeStateChoice_kept (t : TSet) (sinceUs : Q) (samples : List (Q × Q × Q)) (s : State) : okept (execSafeStateChoice t sinceUs samples s) = some s.kept := by unfold execSafeStateChoice; simp
theorem execAscSideFault_kept (t : TSet) (c : Chan) (s : State) : okept (execAscSideFault t c s) = some s.kept := by unfold execAscSideFault; simp
theorem execAscTrialRequest_kept (t : TSet) (elapsedMs : Nat) (s : State) : okept (execAscTrialRequest t elapsedMs s) = some s.kept := by unfold execAscTrialRequest; simp
@[simp] theorem requestPeriod_kept (t : TSet) (s : State) : (requestPeriod t s).kept = s.kept := by unfold requestPeriod; simp
@[simp] theorem maybeStart_kept (t : TSet) (s : State) : (maybeStart t s).kept = s.kept := by
  unfold maybeStart
  repeat' (first | (simp; done) | split)
@[simp] theorem checkOverspeed_kept (t : TSet) (s : State) : (checkOverspeed t s).kept = s.kept := by unfold checkOverspeed; simp
@[simp] theorem writeTorque_kept (t : TSet) (x : Q) (s : State) : (writeTorque t x s).kept = s.kept := by
  unfold writeTorque
  repeat' (first | (simp; done) | split)
@[simp] theorem endSvc_kept (t : TSet) (s : State) : (endSvc t s).kept = s.kept := by unfold endSvc; simp
@[simp] theorem abortSvc_kept (s : State) : (abortSvc s).kept = s.kept := by
  unfold abortSvc
  repeat' (first | (simp; done) | split)
@[simp] theorem torqueCommon_kept (s : State) : (torqueCommon s).kept = s.kept := by unfold torqueCommon; simp
@[simp] theorem torqueIdle_kept (s : State) : (torqueIdle s).kept = s.kept := by unfold torqueIdle; simp
@[simp] theorem torqueDrive_kept (s : State) : (torqueDrive s).kept = s.kept := by unfold torqueDrive; simp
@[simp] theorem torquePeriod_kept (s : State) : (torquePeriod s).kept = s.kept := by unfold torquePeriod; simp
theorem execIoTorqueTask_kept (s : State) : okept (execIoTorqueTask s) = some s.kept := by unfold execIoTorqueTask; simp
theorem execTorqueLossFault_kept (sinceMs : Nat) (s : State) : okept (execTorqueLossFault sinceMs s) = some s.kept := by unfold execTorqueLossFault; simp
theorem execIoTaskDeadlineMiss_kept (s : State) : okept (execIoTaskDeadlineMiss s) = some s.kept := by unfold execIoTaskDeadlineMiss; simp
theorem execIdleStop_kept (t : TSet) (heldMs : Nat) (s : State) : okept (execIdleStop t heldMs s) = some s.kept := by
  unfold execIdleStop
  repeat' (first | (simp; done) | split)
@[simp] theorem runSvc_kept (rid : Nat) (p : UPath) (t : TSet) (elapsedMs len : Nat) (idNow : Q) (result : List Byte) (s : State) : (runSvc rid p t elapsedMs len idNow result s).kept = s.kept := by unfold runSvc; simp
theorem execRotorAngleOffset_kept (p : UPath) (t : TSet) (elapsedMs angle : Nat) (s : State) : okept (execRotorAngleOffset p t elapsedMs angle s) = some s.kept := by unfold execRotorAngleOffset; simp
theorem execWindingResistance_kept (p : UPath) (t : TSet) (elapsedMs : Nat) (vd id : Q) (s : State) : okept (execWindingResistance p t elapsedMs vd id s) = some s.kept := by unfold execWindingResistance; simp

end Sys2Proof.Machine
end

