-- ==== Sys2Proof/Laws/Memory.lean ====
section
/-! SUPPORT. The map store as memory: every operation keeps its canonical form, and a byte reads as it was last written. -/

namespace Sys2Proof.Machine

theorem Memory.wfFrom_mono {a b : Nat} (h : a ≤ b) (m : List Host.Cell) (k : Memory.wfFrom b m = true) : Memory.wfFrom a m = true := by
  cases m with
  | nil => rfl
  | cons c m =>
    simp only [Memory.wfFrom, Bool.and_eq_true, decide_eq_true_eq] at k ⊢
    exact ⟨⟨h.trans k.1.1, k.1.2⟩, k.2⟩

theorem putCell_wfFrom (a : Nat) (b : Byte) (m : List Host.Cell) (lo : Nat) (hl : lo ≤ a) (h : Memory.wfFrom lo m = true) : Memory.wfFrom lo (putCell a b m) = true := by
  induction m generalizing lo with
  | nil =>
    unfold putCell
    split
    · rfl
    · simp_all [Memory.wfFrom]
  | cons c m ih =>
    have h0 := h
    simp only [Memory.wfFrom, Bool.and_eq_true, decide_eq_true_eq] at h
    unfold putCell
    split
    · rename_i hlt
      split
      · exact h0
      · rename_i hb
        simp only [Memory.wfFrom, Bool.and_eq_true, decide_eq_true_eq]
        exact ⟨⟨hl, hb⟩, ⟨⟨hlt, h.1.2⟩, h.2⟩⟩
    · split
      · rename_i heq
        split
        · exact Memory.wfFrom_mono (h.1.1.trans (Nat.le_succ _)) _ h.2
        · rename_i hb
          simp only [Memory.wfFrom, Bool.and_eq_true, decide_eq_true_eq]
          exact ⟨⟨hl, hb⟩, heq ▸ h.2⟩
      · rename_i h1 h2
        simp only [Memory.wfFrom, Bool.and_eq_true, decide_eq_true_eq]
        exact ⟨h.1, ih _ (by omega) h.2⟩

theorem putCell_wf (a : Nat) (b : Byte) (m : List Host.Cell) (h : Memory.wf m = true) : Memory.wf (putCell a b m) = true :=
  putCell_wfFrom a b m 0 (Nat.zero_le _) h

theorem putMapWord_wf (a v : Nat) (m : List Host.Cell) (h : Memory.wf m = true) : Memory.wf (putMapWord a v m) = true := by
  unfold putMapWord
  exact putCell_wf _ _ _ (putCell_wf _ _ _ (putCell_wf _ _ _ (putCell_wf _ _ _ h)))

theorem mapByte_putCell (a : Nat) (b : Byte) (m : List Host.Cell) (lo : Nat) (h : Memory.wfFrom lo m = true) (x : Nat) :
    mapByte (putCell a b m) x = if x = a then b.toNat else mapByte m x := by
  have low : ∀ (m : List Host.Cell) (lo x : Nat), Memory.wfFrom lo m = true → x < lo → mapByte m x = 0 := by
    intro m
    induction m with
    | nil => intros; rfl
    | cons c m ih =>
      intro lo x h hx
      simp only [Memory.wfFrom, Bool.and_eq_true, decide_eq_true_eq] at h
      simp only [mapByte]
      rw [if_neg (by omega)]
      exact ih _ _ h.2 (by omega)
  induction m generalizing lo with
  | nil =>
    unfold putCell
    split
    · subst_vars; simp [mapByte]
    · simp only [mapByte, eq_comm]
  | cons c m ih =>
    simp only [Memory.wfFrom, Bool.and_eq_true, decide_eq_true_eq] at h
    unfold putCell
    split
    · rename_i hlt
      split
      · subst_vars
        simp only [mapByte]
        split
        · split
          · omega
          · rfl
        · split
          · subst_vars; exact low m _ _ h.2 (by omega)
          · rfl
      · simp only [mapByte, eq_comm]
    · split
      · rename_i heq
        split
        · subst_vars
          simp only [mapByte]
          by_cases hx : x = c.1
          · subst hx; simp; exact low m _ _ h.2 (by omega)
          · simp [hx, Ne.symm hx]
        · subst_vars
          simp only [mapByte]
          by_cases hx : x = c.1
          · simp [hx]
          · simp [hx, Ne.symm hx]
      · rename_i h1 h2
        simp only [mapByte, ih _ h.2]
        split
        · split
          · omega
          · rfl
        · rfl

theorem mapCellsFrom_wf (a : Nat) (bs : List Byte) (tl : List Host.Cell) (h : Memory.wfFrom (a + bs.length) tl = true) :
    Memory.wfFrom a (mapCellsFrom a bs ++ tl) = true := by
  induction bs generalizing a with
  | nil => simpa [mapCellsFrom] using h
  | cons b bs ih =>
    have := ih (a + 1) (by simpa [Nat.add_assoc, Nat.add_comm 1] using h)
    unfold mapCellsFrom
    split
    · exact Memory.wfFrom_mono (Nat.le_succ _) _ this
    · rename_i hb
      simp only [List.cons_append, Memory.wfFrom, Bool.and_eq_true, decide_eq_true_eq]
      exact ⟨⟨Nat.le_refl _, hb⟩, this⟩

theorem mapCells_wf (rs : List Rec) : Memory.wf (mapCells rs) = true := by
  have step (k : Nat) (tl : List Host.Cell) (h : Memory.wfFrom (0x4000 * (k + 1)) tl = true) :
      Memory.wfFrom (0x4000 * k) (mapCellsFrom (0x4000 * k) (((findRec 0x31 k rs).drop 16).take 0x4000) ++ tl) = true := by
    apply mapCellsFrom_wf
    refine Memory.wfFrom_mono ?_ _ h
    have : (((findRec 0x31 k rs).drop 16).take 0x4000).length ≤ 0x4000 := by simp
    omega
  have e : mapCells rs = mapCellsFrom (0x4000 * 0) (((findRec 0x31 0 rs).drop 16).take 0x4000) ++ (mapCellsFrom (0x4000 * 1) (((findRec 0x31 1 rs).drop 16).take 0x4000) ++ (mapCellsFrom (0x4000 * 2) (((findRec 0x31 2 rs).drop 16).take 0x4000) ++ (mapCellsFrom (0x4000 * 3) (((findRec 0x31 3 rs).drop 16).take 0x4000) ++ (mapCellsFrom (0x4000 * 4) (((findRec 0x31 4 rs).drop 16).take 0x4000) ++ (mapCellsFrom (0x4000 * 5) (((findRec 0x31 5 rs).drop 16).take 0x4000) ++ []))))) := by
    unfold mapCells
    rw [show List.range 6 = [0, 1, 2, 3, 4, 5] from by decide]
    simp only [List.flatMap_cons, List.flatMap_nil]
  unfold Memory.wf
  rw [e]
  exact step 0 _ (step 1 _ (step 2 _ (step 3 _ (step 4 _ (step 5 _ rfl)))))

/-- The map store at reset lists nothing. -/
theorem reset_map_wf : Memory.wf State.reset.cat.map = true := by decide

end Sys2Proof.Machine
end

