-- ==== Sys2Proof/Laws/Keeps.lean ====
section
/-! SUPPORT. The commands that do write the map store, the shared SRAM or the OTP words keep both memories canonical and clear no OTP bit; what any outcome
keeps follows from `oKeeps_of_okept`. -/

namespace Sys2Proof.Machine

/-- What one step may do to the queue of commands, the map store, the OTP words and the shared SRAM. -/
structure KeptLe (k l : KeptPart) : Prop where
  pending : l.pending = k.pending
  map : Memory.wf k.map = true → Memory.wf l.map = true
  otp : ∀ w, k.otp.get w &&& l.otp.get w = k.otp.get w
  sram : Memory.wf k.sram = true → Memory.wf l.sram = true

@[simp] theorem KeptLe.refl (k : KeptPart) : KeptLe k k := ⟨rfl, id, fun w => by simp, id⟩

theorem KeptLe.trans {k l m : KeptPart} (a : KeptLe k l) (b : KeptLe l m) : KeptLe k m := by
  refine ⟨b.1.trans a.1, fun h => b.2 (a.2 h), fun w => ?_, fun h => b.4 (a.4 h)⟩
  have h1 := a.3 w
  have h2 := b.3 w
  rw [← h1, BitVec.and_assoc, h2]

/-- A state and a later one. -/
abbrev State.Keeps (s t : State) : Prop := KeptLe s.kept t.kept

/-- A state with the same kept part may stand for the first. -/
theorem KeptLe.after {s t u : State} (a : KeptLe t.kept u.kept) (h : t.kept = s.kept) : KeptLe s.kept u.kept := h ▸ a

theorem otp_put_keeps {s : State} (w : Nat) (b : BitVec 64) : s.Keeps { s with otp := s.otp.put w (s.otp.get w ||| b) } := by
  refine ⟨rfl, id, fun j => ?_, id⟩
  change s.otp.get j &&& (s.otp.put w (s.otp.get w ||| b)).get j = s.otp.get j
  rw [Tab.get_put]
  split
  · subst_vars
    ext i
    simp
    intro h
    exact Or.inl h
  · simp

theorem program_keeps (l : List (Nat × BitVec 64)) (r : OtpRun) : r.st.Keeps (program l r).st := by
  induction l generalizing r with
  | nil => exact .refl _
  | cons p l ih =>
    obtain ⟨w, b⟩ := p
    unfold program
    split
    · exact (ih _).after (by simp)
    · split
      · exact (ih _).after (by simp)
      · rename_i v vs h
        dsimp only
        have m : (measureHold v r.st).kept = r.st.kept := by simp
        split
        · exact (ih _).after (by simp)
        · split
          · refine (KeptLe.trans (otp_put_keeps (s := measureHold v r.st) w b) ((ih _).after ?_)).after m
            dsimp only
            split <;> simp
          · refine (KeptLe.trans (otp_put_keeps (s := measureHold v r.st) w (b &&& ~~~(lowBit b))) ((ih _).after ?_)).after m
            simp [otpFailed]

/-! ## Restarts and OTP -/

@[simp] theorem restart_keeps (c : StartCause) (s : State) : KeptLe s.kept (restart c s).kept := ⟨rfl, fun _ => rfl, fun _ => BitVec.and_self, fun _ => rfl⟩

@[simp] theorem resetN9_keeps (c : StartCause) (s : State) : KeptLe s.kept (resetN9 c s).kept := by
  unfold resetN9
  split <;> simp

@[simp] theorem unpowered_keeps (m : Mode) (s : State) : KeptLe s.kept (unpowered m s).kept := by
  refine ⟨rfl, fun _ => rfl, fun w => ?_, fun _ => rfl⟩
  have h : (unpowered m s).kept.otp = (match s.ops.running with
    | some (.otpWord w b) => s.otp.put w (s.otp.get w ||| b)
    | _ => s.otp) := rfl
  rw [h]
  split
  · exact (otp_put_keeps (s := s) _ _).3 w
  · exact BitVec.and_self

@[simp] theorem afterOp_keeps (o : FlashOp) (ok : Bool) (s : State) : KeptLe s.kept (afterOp o ok s).kept := by
  unfold afterOp
  split
  case h_9 w b =>
    split
    · exact (otp_put_keeps (s := s) w b).trans (by simp)
    · refine KeptLe.trans (otp_put_keeps (s := s) w (b &&& ~~~(lowBit b))) ?_
      simp [otpFailed]
  all_goals (repeat' split)
  all_goals simp

@[simp] theorem orphanEnds_keeps (o : FlashOp) (ok : Bool) (s : State) : KeptLe s.kept (orphanEnds o ok s).kept := by
  unfold orphanEnds
  repeat' (first | (simp; done) | split)

@[simp] theorem lifecycleEnds_keeps (s : State) : KeptLe s.kept (lifecycleEnds s).kept := by
  unfold lifecycleEnds
  split <;> simp

/-- The outcome is a next state that keeps. -/
def oKeeps (s : State) (o : Host.Outcome State Fault Refusal) : Prop := ∃ t, o = .next t ∧ s.Keeps t

theorem oKeeps_of_okept {s : State} {o : Host.Outcome State Fault Refusal} (h : okept o = some s.kept) : oKeeps s o := by
  cases o with
  | next t =>
    refine ⟨t, rfl, ?_⟩
    have e : t.kept = s.kept := Option.some.inj h
    show KeptLe s.kept t.kept
    exact e ▸ KeptLe.refl s.kept
  | fault r => cases h
  | refused r => cases h

@[simp] theorem oKeeps_next (s t : State) : oKeeps s (.next t) ↔ KeptLe s.kept t.kept := by
  constructor
  · rintro ⟨u, h, k⟩
    injection h with h
    exact h ▸ k
  · exact fun h => ⟨t, rfl, h⟩

theorem execRailMonitorReset_keeps (r : Rail) (v : Q) (s : State) : oKeeps s (execRailMonitorReset r v s) := by
  unfold execRailMonitorReset
  split <;> simp

theorem execPowerUp_keeps (f : Feed) (v : Q) (n : Bool) (s : State) : oKeeps s (execPowerUp f v n s) := by
  unfold execPowerUp
  split <;> simp

theorem execShipFeedsDown_keeps (a b : Q) (n : Nat) (s : State) : oKeeps s (execShipFeedsDown a b n s) := by
  unfold execShipFeedsDown
  split <;> simp

theorem execShipExit_keeps (f : Feed) (v : Q) (n : Bool) (s : State) : oKeeps s (execShipExit f v n s) := by
  unfold execShipExit
  split <;> simp

theorem execFlashOperationComplete_keeps (ok : Bool) (s : State) : oKeeps s (execFlashOperationComplete ok s) := by
  unfold execFlashOperationComplete
  split
  · simp
  · dsimp only
    rw [oKeeps_next]
    split
    · exact (orphanEnds_keeps _ _ _).after (by simp)
    · rename_i o h k
      have b := afterOp_keeps o ok { s with ops := { s.ops with running := none, orphan := false } }
      exact (b.after (by simp)).trans ((lifecycleEnds_keeps _).after (by simp))

theorem execBootDescriptorWrite_keeps (v : Q) (ok : Bool) (s : State) : oKeeps s (execBootDescriptorWrite v ok s) := by
  unfold execBootDescriptorWrite
  split
  · simp
  · dsimp only
    split
    · simp
    · split
      · simp
      · rw [oKeeps_next]
        rw [shipProceed_kept]
        exact (afterOp_keeps _ _ _).after (by simp)

theorem execHoldBelowVmin_keeps (v : Q) (s : State) : oKeeps s (execHoldBelowVmin v s) := by
  unfold execHoldBelowVmin
  split
  · simp only [oKeeps_next]
    exact (unpowered_keeps _ _).after (by rfl)
  · simp

theorem execNrstReset_keeps (n : Nat) (s : State) : oKeeps s (execNrstReset n s) := by
  unfold execNrstReset
  dsimp only
  split
  · simp
  · split
    · rw [oKeeps_next]
      refine ((resetN9_keeps { StartCause.none with nrst := true } (if n < 5000 then { s with freeIx := s.freeIx + 1 } else s)).after ?_).trans (.refl _)
      split <;> simp
    · split <;> simp

theorem execSvcResetRequest_keeps (n : Nat) (s : State) : oKeeps s (execSvcResetRequest n s) := by
  unfold execSvcResetRequest
  dsimp only
  split
  · split
    · simp only [oKeeps_next]
      exact (resetN9_keeps _ _).after (by simp)
    · simp
  · simp

@[simp] theorem loadCat_keeps (sl : Slot) (fw : FwFacts) (c : Loaded) (s : State) : KeptLe s.kept (loadCat sl fw c s).kept := by
  have h : (loadCat sl fw c s).kept = ⟨s.pending, mapCells c.recs, s.otp, s.lks.sram⟩ := by simp [loadCat]
  rw [h]
  exact ⟨rfl, fun _ => mapCells_wf _, fun _ => BitVec.and_self, id⟩

@[simp] theorem finish_keeps (x : AccIn) (sl : Slot) (failed : Bool) (t : Tried) (s : State) : KeptLe s.kept (finish x sl failed t s).kept := by
  unfold finish
  dsimp only
  split
  · simp only [permitTest_kept, selectId_kept, settleDesc_kept]
    exact (loadCat_keeps _ _ _ _).after (by simp)
  · simp

@[simp] theorem attempts_keeps (x : AccIn) (l : List Slot) (a b : Bool) (s : State) : KeptLe s.kept (attempts x l a b s).kept := by
  induction l generalizing a b s with
  | nil => simp [attempts]
  | cons sl l ih =>
    unfold attempts
    dsimp only
    split
    · exact (ih _ _ _).after (attempt_kept x sl s)
    · exact (ih _ _ _).after (attempt_kept x sl s)
    · exact (finish_keeps _ _ _ _ _).after (attempt_kept x sl s)
    · exact (finish_keeps _ _ _ _ _).after (attempt_kept x sl s)

@[simp] theorem zeroMemories_keeps (s : State) : KeptLe s.kept (zeroMemories s).kept :=
  ⟨rfl, fun _ => rfl, fun _ => BitVec.and_self, fun _ => rfl⟩

theorem execAccession_keeps (x : AccIn) (s : State) : oKeeps s (execAccession x s) := by
  unfold execAccession
  dsimp only
  split
  · simp
  · split
    · simp
    · simp only [oKeeps_next]
      exact (zeroMemories_keeps s).trans ((attempts_keeps _ _ _ _ _).after (by simp))

theorem putWord_wf (a v : Nat) (m : List Host.Cell) (h : Memory.wf m = true) : Memory.wf (putWord a v m) = true :=
  putMapWord_wf _ _ _ (putMapWord_wf _ _ _ h)

theorem storeWrite_keeps (r : StoreRegion) (a v : Nat) (s : State) : KeptLe s.kept (storeWrite r a v s).kept := by
  unfold storeWrite
  split
  · simp
  · split
    · exact ⟨rfl, fun h => putMapWord_wf _ _ _ h, fun _ => BitVec.and_self, id⟩
    · simp

theorem execLockedStoreWrite_keeps (r : StoreRegion) (a v : Nat) (s : State) : oKeeps s (execLockedStoreWrite r a v s) := by
  unfold execLockedStoreWrite
  rw [oKeeps_next]
  exact storeWrite_keeps r a v s

/-! ## The pairs' writes (R406, R410) -/

theorem pairWrite_keeps (r : Option StoreRegion) (w : Fin 9 × Nat) (d : BitVec 64) (s : State) : KeptLe s.kept (pairWrite r w d s).kept := by
  unfold pairWrite
  dsimp only
  generalize (Option.any (fun r => regionLocked r s) (if w.1 = 8 then some StoreRegion.map else r)) = b
  split
  · simp
  · split
    · exact ⟨rfl, fun h => putWord_wf _ _ _ h, fun _ => BitVec.and_self, id⟩
    · exact ⟨rfl, id, fun _ => BitVec.and_self, fun h => putWord_wf _ _ _ h⟩

theorem pairSteps_kept (p : LPair) (c : CoreStep) (l : List Nat) (s : State) :
    (l.foldl (fun s i => pairStep p c .idle .idle (c.checker.getD i .idle) s) s).kept = s.kept := by simp

theorem pairRun_keeps (p : LPair) (c : CoreStep) (s : State) : KeptLe s.kept (pairRun p s c).kept := by
  unfold pairRun
  dsimp only
  split
  · simp
  · split
    · split
      · exact (pairWrite_keeps _ _ _ _).after (by simp)
      · simp
    · simp

theorem pairRuns_keeps (p : LPair) (l : List CoreStep) (s : State) : KeptLe s.kept (l.foldl (pairRun p) s).kept := by
  induction l generalizing s with
  | nil => exact .refl _
  | cons c l ih => exact (pairRun_keeps p c s).trans (ih _)

theorem execLockstepMismatch_keeps (p : LPair) (l : List CoreStep) (s : State) : oKeeps s (execLockstepMismatch p l s) := by
  unfold execLockstepMismatch
  rw [oKeeps_next]
  exact pairRuns_keeps p l s

theorem zeroWords_wf (l : List (Fin 9 × Nat)) (m : List Host.Cell) (h : Memory.wf m = true) :
    Memory.wf (l.foldl (fun m w => if w.1 = 8 then m else putWord (8 * eccAddress w.1 w.2) 0 m) m) = true := by
  induction l generalizing m with
  | nil => exact h
  | cons w l ih =>
    refine ih _ ?_
    dsimp only
    split
    · exact h
    · exact putWord_wf _ _ _ h

theorem zeroRegion_keeps (p : LPair) (l : List (Fin 9 × Nat)) (s : State) : KeptLe s.kept (zeroRegion p l s).kept := by
  cases p <;> exact ⟨rfl, id, fun _ => BitVec.and_self, zeroWords_wf l _⟩

theorem execPairRestartComplete_keeps (p : LPair) (l : List (Fin 9 × Nat)) (s : State) : oKeeps s (execPairRestartComplete p l s) := by
  unfold execPairRestartComplete
  split
  · rw [oKeeps_next]
    exact (zeroRegion_keeps _ _ _).after (by simp)
  · simp

theorem execDebugResume_keeps (p : LPair) (b : Bool) (l : List CoreStep) (m c : List (BitVec 64)) (s : State) : oKeeps s (execDebugResume p b l m c s) := by
  unfold execDebugResume
  dsimp only
  split
  · simp
  · rw [oKeeps_next]
    have key : ∀ t : State, t.kept = s.kept → KeptLe s.kept (if b = true ∧ ((l.foldl (pairRun p) t).lks.pairs.get p).st = 1 then
        updPair p (fun x => { x with st := 4, regs := m, chkRegs := c }) (l.foldl (pairRun p) t) else l.foldl (pairRun p) t).kept := by
      intro t h
      have k := (pairRuns_keeps p l t).after h
      split
      · simpa using k
      · exact k
    refine key _ ?_
    split <;> simp

theorem execRegisterWrite_keeps (path : RegPath) (a v : Nat) (s : State) : oKeeps s (execRegisterWrite path a v s) := by
  unfold execRegisterWrite
  split
  · rw [oKeeps_next]
    unfold jtagAccess
    repeat' split
    all_goals first | exact storeWrite_keeps _ _ _ _ | simp
  · simp
  · simp

theorem upsetStore_wf (rs : List Rec) (m : List Host.Cell) (u : Nat × Nat) (h : Memory.wf m = true) : Memory.wf (upsetStore rs m u).2 = true := by
  unfold upsetStore
  split
  · dsimp only
    split
    · exact putCell_wf _ _ _ h
    · exact h
  · exact h

theorem upsetStores_wf (l : List (Nat × Nat)) (r : List Rec × List Host.Cell) (h : Memory.wf r.2 = true) :
    Memory.wf (l.foldl (fun r u => upsetStore r.1 r.2 u) r).2 = true := by
  induction l generalizing r with
  | nil => exact h
  | cons u l ih => exact ih _ (upsetStore_wf _ _ _ h)

theorem execLoadedStoreCrcCheck_keeps (l : List (Nat × Nat)) (s : State) : oKeeps s (execLoadedStoreCrcCheck l s) := by
  unfold execLoadedStoreCrcCheck
  split
  · simp
  · dsimp only
    split
    · exact ⟨_, rfl, rfl, fun h => upsetStores_wf l _ h, fun _ => BitVec.and_self, id⟩
    · rw [oKeeps_next]
      simp only [raise_kept]
      exact ⟨rfl, fun h => upsetStores_wf l (s.cat.params, s.cat.map) h, fun _ => BitVec.and_self, id⟩

theorem onState_keeps {k : KeptPart} (f : State → State) (r : OtpRun) (h : ∀ s, (f s).kept = s.kept) (a : KeptLe k r.st.kept) : KeptLe k (onState f r).st.kept := by
  unfold onState
  split
  · exact a
  · simpa [h] using a

theorem otpIdentity_keeps (e : Bool) (r : OtpRun) : KeptLe r.st.kept (otpIdentity e r).st.kept := by
  unfold otpIdentity
  dsimp only
  split
  · simp
  · split
    · simp
    · exact onState_keeps _ _ (by simp) (onState_keeps _ _ (by simp) ((program_keeps _ _).after (by simp)))

theorem otpCounter_keeps (r : OtpRun) : KeptLe r.st.kept (otpCounter r).st.kept := by
  unfold otpCounter
  dsimp only
  split
  · simp
  · exact onState_keeps _ _ (by simp) (program_keeps _ _)

theorem otpOemKey_keeps (r : OtpRun) : KeptLe r.st.kept (otpOemKey r).st.kept := by
  unfold otpOemKey
  dsimp only
  split
  · exact onState_keeps _ _ (by simp) (program_keeps _ _)
  · simp

theorem otpAdd_keeps (r : OtpRun) (k : Nat) : KeptLe r.st.kept (otpAdd r k).st.kept := by
  unfold otpAdd
  dsimp only
  split
  · simp
  · split
    · exact onState_keeps _ _ (by simp) (program_keeps _ _)
    · split <;> simp

theorem otpRevoke_keeps (r : OtpRun) (k : Nat) : KeptLe r.st.kept (otpRevoke r k).st.kept := by
  unfold otpRevoke
  dsimp only
  split
  · simp
  · exact program_keeps _ _

theorem otpLifecycle_keeps (r : OtpRun) : KeptLe r.st.kept (otpLifecycle r).st.kept := by
  unfold otpLifecycle
  dsimp only
  split
  · exact program_keeps _ _
  · simp

theorem foldl_keeps (f : OtpRun → Nat → OtpRun) (h : ∀ (r : OtpRun) k, KeptLe r.st.kept (f r k).st.kept) (l : List Nat) (r : OtpRun) :
    KeptLe r.st.kept (l.foldl f r).st.kept := by
  induction l generalizing r with
  | nil => exact .refl _
  | cons k l ih => exact (h r k).trans (ih _)

theorem execPostReadyOtpOperations_keeps (v : List Q) (e : Bool) (n : Nat) (s : State) : oKeeps s (execPostReadyOtpOperations v e n s) := by
  unfold execPostReadyOtpOperations
  dsimp only
  split
  · simp
  · rw [oKeeps_next]
    exact (otpIdentity_keeps e ⟨n, v, false, s⟩).trans ((otpCounter_keeps _).trans ((otpOemKey_keeps _).trans ((foldl_keeps _ otpAdd_keeps _ _).trans ((foldl_keeps _ otpRevoke_keeps _ _).trans (otpLifecycle_keeps _)))))

@[simp] theorem changeLife_keeps (level : Nat) (v : List Q) (n : Nat) (s : State) : KeptLe s.kept (changeLife level v n s).kept := by
  unfold changeLife
  dsimp only
  exact KeptLe.trans ((program_keeps _ _).after (by simp)) (lifecycleEnds_keeps _)

@[simp] theorem grant_keeps (c : Challenge) (v : List Q) (n : Nat) (s : State) : KeptLe s.kept (grant c v n s).kept := by
  unfold grant
  dsimp only
  split
  · simp
  · split
    · split <;> simp
    · split
      · simp
      · exact (changeLife_keeps _ _ _ _).after (by simp)

theorem execKeyVerificationDone_keeps (b : Bool) (v : List Q) (n : Nat) (s : State) : oKeeps s (execKeyVerificationDone b v n s) := by
  unfold execKeyVerificationDone
  split
  · dsimp only
    split
    · rw [oKeeps_next]
      exact (grant_keeps _ _ _ _).after (by simp)
    · split <;> simp
  · simp

theorem execJtagKey_keeps (k : Nat) (b : Bool) (s : State) : oKeeps s (execJtagKey k b s) := by
  unfold execJtagKey
  split
  · dsimp only
    split
    · split
      · rw [oKeeps_next]
        exact (grant_keeps _ _ _ _).after (by simp)
      · simp
    · simp
  · simp

theorem execScheduledResetInstant_keeps (s : State) : oKeeps s (execScheduledResetInstant s) := by
  unfold execScheduledResetInstant
  split
  · split
    · simp
    · split <;> simp
  · simp

theorem udsServe_keeps (p : UPath) (sid : Nat) (l : List Nat) (n : Nat) (k : State → State) (s : State) (h : ∀ s : State, KeptLe s.kept (k s).kept) :
    KeptLe s.kept (udsServe p sid l n k s).kept := by
  unfold udsServe
  dsimp only
  repeat' split
  all_goals first | (simp; done) | exact (h _).after (by simp)

theorem execEcuReset_keeps (p : UPath) (sub : Nat) (s : State) : oKeeps s (execEcuReset p sub s) := by
  unfold execEcuReset
  rw [oKeeps_next]
  refine udsServe_keeps _ _ _ _ _ _ fun s => ?_
  split
  · simp
  · split
    · simp
    · exact (resetN9_keeps _ _).after (by simp)
end Sys2Proof.Machine
end

