-- ==== Sys2Proof/Laws/Operations.lean ====
section
/-! SUPPORT. The registers a fault, an operation of the flash and a tester's service leave alone, and what they write. -/

namespace Sys2Proof.Machine
@[simp] theorem offSink_saf (c : Chan) (s : State) : (offSink c s).saf = s.saf := by unfold offSink offSinkAt; split <;> rfl
@[simp] theorem stopChan_saf (s : State) (c : Chan) : (stopChan s c).saf = s.saf := offSink_saf c s
@[simp] theorem stopChans_saf (l : List Chan) (s : State) : (l.foldl stopChan s).saf = s.saf := by
  induction l generalizing s with
  | nil => rfl
  | cons c l ih => rw [List.foldl_cons, ih, stopChan_saf]
@[simp] theorem haltOwner_saf (g : Grp) (s : State) : (haltOwner g s).saf = s.saf := by by_cases a : g = 2 <;> by_cases b : g = 8 <;> by_cases c : g = 9 <;> simp [haltOwner, a, b, c]
@[simp] theorem haltGroup_saf (g : Grp) (s : State) : (haltGroup g s).saf = s.saf := by unfold haltGroup; split <;> simp
@[simp] theorem stopGroup_saf (g : Grp) (s : State) : (stopGroup g s).saf = s.saf := by unfold stopGroup; simp
@[simp] theorem raiseBase_saf (c i m : Nat) (s : State) : (raiseBase c i m s).saf = s.saf := by have := raiseBase_same c i m s; unfold SameButFaults at this; rw [this]
@[simp] theorem abortAct_saf (a : Act) (s : State) : (abortAct a s).saf = s.saf := by unfold abortAct; split <;> simp
@[simp] theorem stopCharger_saf (s : State) : (stopCharger s).saf = s.saf := by unfold stopCharger; dsimp only; split <;> simp
@[simp] theorem setSr_saf (s : State) : (setSr s).saf = s.saf := by unfold setSr; split <;> simp
@[simp] theorem stopDcx_saf (s : State) : (stopDcx s).saf = s.saf := by unfold stopDcx; simp
@[simp] theorem stopBuck_saf (k : Nat) (s : State) : (stopBuck k s).saf = s.saf := by unfold stopBuck; simp
@[simp] theorem stopLv_saf (s : State) : (stopLv false s).saf = s.saf := by unfold stopLv; simp
@[simp] theorem allOff_saf (s : State) : (allOff s).saf = s.saf := by unfold allOff; simp
@[simp] theorem allOff_mode (s : State) : (allOff s).sys.mode = s.sys.mode := by unfold allOff; simp
@[simp] theorem allOff_beyond (s : State) : (allOff s).beyond = s.beyond := by unfold allOff; simp
theorem allOff_grows (s : State) : Grows s (allOff s) := by
  unfold allOff
  refine Grows.trans ?_ (abortAct_grows _ _)
  refine Grows.trans ?_ (abortAct_grows _ _)
  exact .of_eq (by simp)
theorem by_beyond {α : Type} {s t : State} (h : s.beyond = t.beyond) (f : Beyond → α) : f s.beyond = f t.beyond := by rw [h]

theorem reactF4_mode_or (c : Nat) (s : State) : (reactF4 c s).sys.mode = s.sys.mode ∨ (reactF4 c s).sys.mode = .safe := by
  unfold reactF4 safeByF4
  by_cases hc : c = 0x0801 ∨ c = 0x5809 <;> simp only [hc, if_true, if_false] <;> (split <;> [skip; exact Or.inl rfl]) <;> (split <;> [exact Or.inl rfl; exact Or.inr (enterMode_mode _ _)])
/-- A raise leaves the mode or leads to SAFE. -/
theorem raise_mode_or (c i m : Nat) (s : State) : (raise c i m s).sys.mode = s.sys.mode ∨ (raise c i m s).sys.mode = .safe := by
  unfold raise raiseBy
  dsimp only
  split
  · split
    · simp
    · rw [pins_mode]
      have := reactF4_mode_or c (raiseBaseBy (c / 2048) c i m s)
      rwa [raiseBaseBy_mode] at this
    · simp
    · simp
  · simp

@[simp] theorem enqueue_beyond_cat (o : FlashOp) (s : State) : (enqueue o s).cat = s.cat := by unfold enqueue; split <;> rfl
theorem enqueue_eq (o : FlashOp) (s : State) : enqueue o s = { s with ops := { s.ops with waiting := if s.ops.waiting.contains o then s.ops.waiting else s.ops.waiting ++ [o] } } := by
  unfold enqueue; split <;> rfl
theorem enqueue_mem (o : FlashOp) (s : State) : o ∈ (enqueue o s).ops.waiting := by
  unfold enqueue
  split
  · rename_i h; simpa using h
  · simp
theorem changeDesc_eq (f : BootDesc → BootDesc) (s : State) :
    changeDesc f s = { s with ops := (changeDesc f s).ops, cat := { s.cat with descDue := (changeDesc f s).cat.descDue, descNext := (changeDesc f s).cat.descNext } } := by
  unfold changeDesc
  split
  · split
    · rfl
    · split <;> rfl
  · unfold startDesc
    dsimp only
    rw [enqueue_eq]
theorem changeDesc_running (f : BootDesc → BootDesc) (s : State) : (changeDesc f s).ops.running = s.ops.running := by
  unfold changeDesc
  split
  · split
    · rfl
    · split <;> rfl
  · unfold startDesc
    dsimp only
    rw [enqueue_eq]
/-- What is to be written after a change of the descriptor, with no write under way: the change of the newest valid copy with GEN one higher. -/
theorem changeDesc_due (f : BootDesc → BootDesc) (s : State) (h : s.cat.descDue = none) : (changeDesc f s).cat.descDue =
    some (descTarget s.flash, { f ((newestDesc s.flash).getD { gen := 0, pref := s.cat.slotRun, stA := 0, stB := 0 }) with gen := (((newestDesc s.flash).getD { gen := 0, pref := s.cat.slotRun, stA := 0, stB := 0 }).gen + 1) % 2 ^ 32 }) := by
  unfold changeDesc
  split
  · simp_all
  · simp [startDesc]
/-- With a write under way the change joins what waits for a write of its own, else the write while its fields page has not started. -/
theorem changeDesc_joins (f : BootDesc → BootDesc) (s : State) (k : Fin 2) (d : BootDesc) (h : s.cat.descDue = some (k, d)) :
    (∀ e, s.cat.descNext = some e → (changeDesc f s).cat.descNext = some (f e)) ∧
    (s.cat.descNext = none → fieldsBegun s = true → (changeDesc f s).cat.descNext = some (f d)) ∧
    (s.cat.descNext = none → fieldsBegun s = false → (changeDesc f s).cat.descDue = some (k, f d)) := by
  unfold changeDesc
  rw [h]
  dsimp only
  refine ⟨fun e he => ?_, fun hn hb => ?_, fun hn hb => ?_⟩ <;> split <;> simp_all
theorem selectId_same (s : State) : SameButFaults { s with sec := { s.sec with idSlot := (selectId s).sec.idSlot } } (selectId s) := by
  unfold selectId
  split
  · rfl
  · split
    · rfl
    · split
      · rfl
      · have h := raise_low_same 0x8013 noInst 0 { s with sec := { s.sec with idSlot := none } } (by intro s; simp [classOf, codesF0, codesF1]) (by decide)
        have e : (raise 0x8013 noInst 0 { s with sec := { s.sec with idSlot := none } }).sec.idSlot = none := by rw [h]
        rw [e]
        exact h
theorem foldl_raise_beyond (l : List Chan) (code : Nat) (s : State) (hf : code ≠ 0x680A := by decide) (hq : code ≠ 0x7002 := by decide) : (l.foldl (fun s c => raise code (domOf c).val 0 s) s).beyond = s.beyond := by
  induction l generalizing s with
  | nil => rfl
  | cons a l ih => rw [List.foldl_cons, ih, raise_beyond _ _ _ _ hf hq]
theorem raiseReads_beyond (n : Nat) (s : State) : (raiseReads n s).beyond = s.beyond := by unfold raiseReads; simp
/-- A measurement of HOLD changes no check of R84. -/
@[simp] theorem measureHold_holdOk (v w : Q) (o : FlashOp) (s : State) : holdOk (measureHold w s) v o = holdOk s v o := rfl
@[simp] theorem measureHold_waitingOps (v : Q) (s : State) : waitingOps (measureHold v s) = waitingOps s := rfl
theorem putLog_eq (p : Nat) (b : Option LogBlk) (s : State) : putLog p b s = { s with flash := (putLog p b s).flash } := rfl
theorem putStage_eq (b : Option FlashBlk) (s : State) : putStage b s = { s with flash := (putStage b s).flash } := by
  unfold putStage
  split
  · rfl
  · dsimp only
    split <;> rfl
theorem setCopy_eq (k : Fin 2) (d : Option BootDesc) (s : State) : setCopy k d s = { s with flash := (setCopy k d s).flash } := by unfold setCopy; split <;> rfl
theorem landDesc_eq (s : State) : landDesc s = { s with flash := (landDesc s).flash, cat := { s.cat with desc := (landDesc s).cat.desc, descDue := (landDesc s).cat.descDue, descNext := (landDesc s).cat.descNext }, ops := { s.ops with waiting := (landDesc s).ops.waiting } } := by
  unfold landDesc
  split
  · dsimp only
    unfold setCopy
    split <;> split <;> first | rfl | (unfold startDesc; dsimp only; rw [enqueue_eq])
  · rfl
theorem writePage_eq (s : State) : writePage s = { s with flash := (writePage s).flash, log := (writePage s).log } := by
  unfold writePage
  split
  · dsimp only
    split <;> rfl
  · rfl
theorem openBlock_eq (p : Nat) (s : State) : openBlock p s = { s with flash := (openBlock p s).flash, log := (openBlock p s).log, ops := { s.ops with waiting := (openBlock p s).ops.waiting } } := by
  unfold openBlock
  dsimp only
  split
  · rfl
  · rw [enqueue_eq]; rfl
theorem eraseLog_eq (p : Nat) (s : State) : eraseLog p s = { s with flash := (eraseLog p s).flash, log := (eraseLog p s).log } := by
  unfold eraseLog
  dsimp only
  split <;> rfl
/-- A started operation touches the flash, the log's place in it, the descriptor and the operations that wait. -/
theorem applyOp_eq (o : FlashOp) (s : State) : applyOp o s = { s with flash := (applyOp o s).flash, log := (applyOp o s).log, cat := { s.cat with desc := (applyOp o s).cat.desc, descDue := (applyOp o s).cat.descDue, descNext := (applyOp o s).cat.descNext }, ops := { s.ops with waiting := (applyOp o s).ops.waiting } } := by
  unfold applyOp
  split
  · rw [writePage_eq]
  · rw [eraseLog_eq]
  · rw [openBlock_eq]
  · split <;> rfl
  · rw [putStage_eq]
  · split
    · rw [putStage_eq]
    · rfl
  · rw [setCopy_eq]
  · rfl
  · rfl
theorem beginOp_eq (o : FlashOp) (s : State) : beginOp o s = { s with flash := (beginOp o s).flash, log := (beginOp o s).log, cat := { s.cat with desc := (beginOp o s).cat.desc, descDue := (beginOp o s).cat.descDue, descNext := (beginOp o s).cat.descNext }, ops := { waiting := (beginOp o s).ops.waiting, running := some o, orphan := false } } := by
  unfold beginOp
  dsimp only
  rw [applyOp_eq]

theorem udsPos_eq {p : UPath} {b : List Byte} {s : State} (h : s.udsServed p = true) : udsPos p b s = { s with out := .uds p (s.udsResp p) b :: s.out } := by
  unfold udsPos; rw [if_pos h]; rfl
theorem udsNeg_eq {p : UPath} {sid nrc : Nat} {s : State} (h : s.udsServed p = true) : udsNeg p sid nrc s = { s with out := .uds p (s.udsResp p) [0x7F, BitVec.ofNat 8 sid, BitVec.ofNat 8 nrc] :: s.out } := by
  unfold udsNeg; rw [if_pos h]; rfl
/-- A request that no check refuses is carried out. -/
theorem udsServe_ok {p : UPath} {sid : Nat} {ss : List Nat} {lv : Nat} {k : State → State} {s : State} (h : s.udsServed p = true) (n : s.udsNrc p sid ss lv = 0) :
    udsServe p sid ss lv k s = k { s with uds := { s.uds with tester := some p } } := by
  unfold udsServe
  rw [if_neg (by simp [h])]
  exact if_pos n
@[simp] theorem setSt_st (x : Slot) (v : Nat) (d : BootDesc) : (BootDesc.setSt x v d).st x = v := by cases x <;> rfl
/-- A change of a slot's state is the state that the next descriptor gives it. -/
theorem changeDesc_state (x : Slot) (v : Nat) (s : State) : slotState (changeDesc (BootDesc.setSt x v) s) x = v := by
  unfold changeDesc
  split
  · split
    · simp [slotState]
    · split <;> simp_all [slotState]
  · simp only [slotState, startDesc, enqueue_beyond_cat]
    cases x <;> rfl
theorem slotState_of {s t : State} (x : Slot) (h1 : t.cat.descDue = s.cat.descDue) (h2 : t.cat.desc = s.cat.desc) (h3 : t.cat.descNext = s.cat.descNext) : slotState t x = slotState s x := by
  unfold slotState; rw [h1, h2, h3]

theorem blk_region (s u : State) (h : u.flash = s.flash) (sl : Slot) (r : Nat) : u.flash.region sl r = s.flash.region sl r := by rw [h]
/-- What a slot's attempt gives depends on the flash and the OTP alone. -/
theorem trySlot_congr {s u : State} (h1 : u.flash = s.flash) (h2 : u.otp = s.otp) (sl : Slot) (fw : FwFacts) (g : Bool) (fs : List ReadFail) :
    trySlot u sl fw g fs = trySlot s sl fw g fs := by
  have e : ∀ v : State, trySlot v sl fw g fs = trySlot { State.reset with flash := v.flash, otp := v.otp } sl fw g fs := fun v => rfl
  rw [e u, e s, h1, h2]
@[simp] theorem setCause_beyond_flash (sl : Slot) (c : Nat) (s : State) : (setCause sl c s).flash = s.flash := by unfold setCause; split <;> rfl
theorem rebuildLog_flash (d : Nat) (s : State) : (rebuildLog d s).flash = s.flash ∧ (rebuildLog d s).otp = s.otp ∧ (rebuildLog d s).log.ready = true := by
  have key (s : State) : (rebuildFrom s).flash = s.flash ∧ (rebuildFrom s).otp = s.otp ∧ (rebuildFrom s).log.ready = true := by
    have rl (c i m : Nat) (h : ∀ s, classOf s c i < 2) (u : State) : (raise c i m u).log.ready = u.log.ready := by
      unfold raise
      rw [raiseBy_low _ _ _ _ _ (h _)]
      have pr (v : State) : (pins v).log = v.log := by unfold pins; split <;> rfl
      have sr (r : LogRec) (v : State) : (storeRec r v).2.log.ready = v.log.ready := by
        unfold storeRec; dsimp only; split
        · rfl
        · split
          · rfl
          · split <;> rfl
      have er (b c i m : Nat) (v : State) : (raiseEntry b c i m v).2.log.ready = v.log.ready := by
        unfold raiseEntry
        split
        · rfl
        · dsimp only
          rw [sr]
          unfold takeSupp
          split <;> rfl
      unfold raiseBaseBy noteDrop
      rw [pr]
      split <;> simp [er]
    have fold (n : List Nat) (u : State) : (n.foldl (fun s _ => raise 0x8801 noInst 0 s) u).log.ready = u.log.ready := by
      induction n generalizing u with
      | nil => rfl
      | cons a n ih => rw [List.foldl_cons, ih, rl _ _ _ (by intro s; simp [classOf, codesF0])]
    unfold rebuildFrom
    dsimp only
    split
    · refine ⟨?_, ?_, ?_⟩
      · exact (by_beyond (raise_beyond _ _ _ _) Beyond.flash).trans (by rw [enqueue_eq]; rfl)
      · exact (by_beyond (raise_beyond _ _ _ _) Beyond.otp).trans (by rw [enqueue_eq]; rfl)
      · rw [rl _ _ _ (by intro s; simp [classOf, codesF0, codesF1]), enqueue_eq]
    · refine ⟨?_, ?_, ?_⟩
      · refine (by_beyond (beyond_foldl _ (fun s a => raise_beyond _ _ _ s) _ _) Beyond.flash).trans ?_
        show (ite _ _ _ : State).flash = _
        split
        · rfl
        · rw [enqueue_eq]
      · refine (by_beyond (beyond_foldl _ (fun s a => raise_beyond _ _ _ s) _ _) Beyond.otp).trans ?_
        show (ite _ _ _ : State).otp = _
        split
        · rfl
        · rw [enqueue_eq]
      · rw [fold]
        split
        · rfl
        · rw [enqueue_eq]
  exact key _
theorem logPast_flash (s : State) : (logPast s).flash = s.flash ∧ (logPast s).otp = s.otp := by
  unfold logPast
  dsimp only
  cases s.ka.startFail <;> dsimp only <;> (constructor <;> (split <;> split) <;> simp)

@[simp] theorem raiseReads_parts (n : Nat) (s : State) : (raiseReads n s).flash = s.flash ∧ (raiseReads n s).otp = s.otp ∧ (raiseReads n s).cat = s.cat ∧ (raiseReads n s).lks = s.lks :=
  ⟨congrArg Beyond.flash (raiseReads_beyond n s), congrArg Beyond.otp (raiseReads_beyond n s), congrArg Beyond.cat (raiseReads_beyond n s), congrArg Beyond.lks (raiseReads_beyond n s)⟩
theorem chooseOrder_parts (s : State) : (chooseOrder s).flash = s.flash ∧ (chooseOrder s).otp = s.otp ∧ (chooseOrder s).cat.desc = newestDesc s.flash := by
  unfold chooseOrder setCause
  dsimp only
  split <;> split <;> split <;> simp
theorem selectId_parts (s : State) : (selectId s).cat = s.cat ∧ (selectId s).flash = s.flash ∧ (selectId s).otp = s.otp ∧ (selectId s).lks = s.lks ∧ (selectId s).sup = s.sup ∧ (selectId s).saf = s.saf := by
  have h := selectId_same s
  unfold SameButFaults at h
  rw [h]
  exact ⟨rfl, rfl, rfl, rfl, rfl, rfl⟩
theorem permitTest_beyond (bad : List Chan) (r : List Handshake) (s : State) : (permitTest bad r s).cat = s.cat ∧ (permitTest bad r s).flash = s.flash ∧ (permitTest bad r s).otp = s.otp ∧ (permitTest bad r s).lks = s.lks ∧ (permitTest bad r s).sup.fixed = s.sup.fixed := by
  unfold permitTest
  dsimp only
  split
  · exact ⟨rfl, rfl, rfl, rfl, rfl⟩
  · have h := (enterMode_beyond .safe (List.foldl (fun s (c : Chan) => raise 0x5805 (domOf c).val 0 s) s (List.filter (fun c => s.chPresent c && decide (c.val < 29) && r.any (handshakeOk s c)) bad))).trans (foldl_raise_beyond _ _ _)
    exact ⟨congrArg Beyond.cat h, congrArg Beyond.flash h, congrArg Beyond.otp h, congrArg Beyond.lks h, congrArg Beyond.sup h⟩
theorem loadCat_parts (sl : Slot) (fw : FwFacts) (c : Loaded) (s : State) : (loadCat sl fw c s).flash = s.flash ∧ (loadCat sl fw c s).otp = s.otp ∧ (loadCat sl fw c s).sup.step = 8 ∧
    (loadCat sl fw c s).cat = { s.cat with slotRun := sl, locked := true, arb := c.arb, oemKey := c.oemKey, records := c.count, buildLo := c.buildLo, buildHi := c.buildHi, params := c.recs, crcs := loadedCrcs (mapCells c.recs) c.recs, map := mapCells c.recs, fwArb := fw.arb, recovery := false } ∧
    ∀ p, ((loadCat sl fw c s).lks.pairs.get p).st = 1 := by
  have e : ∀ u : State, (startPorts u).flash = u.flash ∧ (startPorts u).otp = u.otp ∧ (startPorts u).sup = u.sup ∧ (startPorts u).cat = u.cat ∧ (startPorts u).lks = u.lks := by
    intro u; unfold startPorts; split <;> exact ⟨rfl, rfl, rfl, rfl, rfl⟩
  unfold loadCat
  dsimp only
  simp only [e]
  refine ⟨rfl, rfl, rfl, rfl, ?_⟩
  intro p
  simp only [startValues, startInputs, startPairs, loadCust]
  cases p <;> simp [Tab.get_upd]

theorem raiseReads_same (n : Nat) (s : State) : SameButFaults s (raiseReads n s) := by
  unfold raiseReads
  generalize List.range n = l
  induction l generalizing s with
  | nil => rfl
  | cons a l ih => exact (raise_low_same _ _ _ s (by intro s; simp [classOf, codesF0]) (by decide)).trans (ih _)
/-- A staging routine that nothing refuses runs, keeps its result and answers. -/
theorem stageRoutine_ok {p : UPath} {rid : Nat} {run : State → List Byte × State} {s : State} (h : s.udsServed p = true) (n : s.routineNrc p rid = 0) (k : stageRoutineOk (.uds p) rid s = true) :
    stageRoutine p rid run s = udsPos p ([0x71, 0x01] ++ natBe 2 rid ++ (run { s with uds := { s.uds with tester := some p } }).1) (setResult rid (run { s with uds := { s.uds with tester := some p } }).1 (run { s with uds := { s.uds with tester := some p } }).2) := by
  unfold stageRoutine
  rw [if_neg (by simp [h])]
  have e1 : ({ s with uds := { s.uds with tester := some p } } : State).routineNrc p rid = 0 := n
  have e2 : stageRoutineOk (.uds p) rid { s with uds := { s.uds with tester := some p } } = true := k
  dsimp only
  rw [e1, e2]
  simp
theorem enqueues_eq (l : List FlashOp) (s : State) : l.foldl (fun s o => enqueue o s) s = { s with ops := { s.ops with waiting := (l.foldl (fun s o => enqueue o s) s).ops.waiting } } ∧ ∀ o, o ∈ l ∨ o ∈ s.ops.waiting → o ∈ (l.foldl (fun s o => enqueue o s) s).ops.waiting := by
  induction l generalizing s with
  | nil => exact ⟨rfl, by simp⟩
  | cons a l ih =>
    obtain ⟨h1, h2⟩ := ih (enqueue a s)
    rw [List.foldl_cons]
    refine ⟨?_, ?_⟩
    · generalize (List.foldl (fun s o => enqueue o s) (enqueue a s) l).ops.waiting = w at h1 ⊢
      rw [h1, enqueue_eq]
    · intro o ho
      refine h2 o ?_
      rcases ho with ho | ho
      · rcases List.mem_cons.1 ho with e | e
        · subst e; exact Or.inr (enqueue_mem _ _)
        · exact Or.inl e
      · right; rw [enqueue_eq]; dsimp only; split <;> simp [ho]

theorem updCh_only (s : State) (c : Chan) (f : GdChan → GdChan) : s.updCh c f = { s with gd := (s.updCh c f).gd } := rfl
theorem offSink_only (c : Chan) (s : State) : offSink c s = { s with gd := (offSink c s).gd } := by unfold offSink offSinkAt; split <;> rfl
theorem stopChan_only (s : State) (c : Chan) : stopChan s c = { s with gd := (stopChan s c).gd } := by
  unfold stopChan
  rw [updCh_only, offSink_only]
/-- Channels that stop change nothing but the gate channels. -/
theorem stopChans_only (l : List Chan) (s : State) : l.foldl stopChan s = { s with gd := (l.foldl stopChan s).gd } := by
  induction l generalizing s with
  | nil => rfl
  | cons c l ih =>
    rw [List.foldl_cons]
    generalize hg : (List.foldl stopChan (stopChan s c) l).gd = g
    rw [ih, hg, stopChan_only]
theorem haltOwner_only (g : Grp) (s : State) : haltOwner g s = { s with dc := (haltOwner g s).dc, act := (haltOwner g s).act } := by
  by_cases a : g = 2 <;> by_cases b : g = 8 <;> by_cases c : g = 9 <;> simp [haltOwner, a, b, c]
theorem haltGroup_only (g : Grp) (s : State) : haltGroup g s = { s with pwm := (haltGroup g s).pwm, orr := (haltGroup g s).orr, oview := (haltGroup g s).oview, dc := (haltGroup g s).dc, act := (haltGroup g s).act } := by
  unfold haltGroup
  dsimp only
  rw [haltOwner_only]
  split <;> rfl
theorem stopGroup_only (g : Grp) (s : State) : stopGroup g s = { s with gd := (stopGroup g s).gd, pwm := (stopGroup g s).pwm, orr := (stopGroup g s).orr, oview := (stopGroup g s).oview, dc := (stopGroup g s).dc, act := (stopGroup g s).act } := by
  unfold stopGroup
  rw [haltGroup_only, stopChans_only]
@[simp] theorem haltGroup_pwm (g : Grp) (s : State) : (haltGroup g s).pwm = s.pwm.upd g (fun x => { x with running := false, latched := false, next := none, reqPeriod := none, stretch := 0, preLeft := 0 }) := by
  unfold haltGroup
  split <;> simp
theorem stopGroup_pwm (g : Grp) (s : State) : (stopGroup g s).pwm = s.pwm.upd g (fun x => { x with running := false, latched := false, next := none, reqPeriod := none, stretch := 0, preLeft := 0 }) := by
  unfold stopGroup
  rw [haltGroup_pwm, stopChans_only]
theorem orrStart_only (g : Grp) (s : State) : orrStart g s = { s with orr := (orrStart g s).orr, octl := (orrStart g s).octl, oview := (orrStart g s).oview, tm := (orrStart g s).tm } := by
  unfold orrStart
  split
  · rfl
  · dsimp only
    split <;> rfl
theorem stopDcx_parts (s : State) : stopDcx s = { s with gd := (stopDcx s).gd, lvc := { s.lvc with dcx := 0, srOn := false }, pwm := (s.pwm.upd 5 (fun g => { g with running := false })).upd 6 (fun g => { g with running := false }) } := by
  unfold stopDcx
  generalize hl : [27, 28, 29, 30].foldl (fun s k => stopChan s (chanAt k)) s = u
  have e : u = [chanAt 27, chanAt 28, chanAt 29, chanAt 30].foldl stopChan s := hl.symm
  rw [stopChans_only] at e
  dsimp only
  rw [e]
theorem updCh_gets (s : State) (c d : Chan) (f : GdChan → GdChan) : (s.updCh c f).gd.ch.get d = if d = c then f (s.gd.ch.get c) else s.gd.ch.get d := by
  unfold State.updCh
  simp only [Tab.get_upd]

/-- A class F4 fault while Io runs: the safe-state request and nothing else beyond the collector. -/
theorem raiseBy_f4_same (b c i m : Nat) (s : State) (h : ∀ s, classOf s c i = 4) (k : ioHalted s = false) :
    SameButFaults s (raiseBy b c i m s) ∨ SameButFaults { s with saf := { s.saf with safeReq := true } } (raiseBy b c i m s) := by
  have hb := raiseBaseBy_same b c i m s
  unfold raiseBy
  dsimp only
  split
  · rw [h]
    generalize raiseBaseBy b c i m s = u at hb ⊢
    have ku : ioHalted u = false := by rw [hb]; exact k
    unfold reactF4
    dsimp only
    by_cases hc : c = 0x0801 ∨ c = 0x5809
    · left
      rw [if_pos hc, ku]
      simp only [Bool.false_eq_true, false_and, if_false]
      exact hb.trans (pins_same u)
    · right
      rw [if_neg hc]
      have kv : ioHalted { u with saf := { u.saf with safeReq := true } } = false := ku
      rw [kv]
      simp only [Bool.false_eq_true, false_and, if_false]
      refine SameButFaults.trans ?_ (pins_same _)
      unfold SameButFaults at hb ⊢
      rw [hb]
  · left; exact hb
end Sys2Proof.Machine
end

