-- ==== Sys2Proof/Laws/Traction.lean ====
section
/-! SUPPORT. The gates, the modulator, the torque controller and the position chain: what stops them, and what each of their operations
leaves. -/

namespace Sys2Proof.Machine
theorem ascOn_only (s : State) (c : Chan) : ascOn s c = { s with gd := (ascOn s c).gd } := by
  unfold ascOn
  dsimp only
  repeat' split
  all_goals rfl
theorem ascOn_get (s : State) (c d : Chan) (h : d ≠ c) : (ascOn s c).gd.ch.get d = s.gd.ch.get d := by
  unfold ascOn
  dsimp only
  repeat' split
  · rfl
  · rw [updCh_gets, if_neg h]
  · rw [updCh_gets, if_neg h]
theorem stopChans_get (l : List Chan) (s : State) (d : Chan) (h : d ∉ l) : (l.foldl stopChan s).gd.ch.get d = s.gd.ch.get d := by
  induction l generalizing s with
  | nil => rfl
  | cons c l ih => rw [List.foldl_cons, ih _ (fun k => h (List.mem_cons_of_mem _ k)), stopChan_get, if_neg (by rintro rfl; exact h List.mem_cons_self)]
theorem ascOns_only (l : List Chan) (s : State) : l.foldl ascOn s = { s with gd := (l.foldl ascOn s).gd } := by
  induction l generalizing s with
  | nil => rfl
  | cons c l ih =>
    rw [List.foldl_cons]
    generalize hg : (List.foldl ascOn (ascOn s c) l).gd = g
    rw [ih, hg, ascOn_only]
theorem ascOns_other (l : List Chan) (s : State) (d : Chan) (h : d ∉ l) : (l.foldl ascOn s).gd.ch.get d = s.gd.ch.get d := by
  induction l generalizing s with
  | nil => rfl
  | cons c l ih =>
    rw [List.foldl_cons, ih _ (fun k => h (List.mem_cons_of_mem _ k)), ascOn_get _ _ _ (by rintro rfl; exact h List.mem_cons_self)]
/-- The command turns a present channel on whose rails are inside, that carries no flag and no soft turn-off (R20, R250). -/
theorem ascOn_on (s : State) (c : Chan) (p : s.chPresent c = true) (r : s.railsOk c = true) (l : (s.gd.ch.get c).latched = false) (q : (s.gd.ch.get c).out ≠ .soft) :
    ((ascOn s c).gd.ch.get c).out = .on := by
  unfold ascOn
  dsimp only
  rw [if_neg (by rw [p]; decide), if_pos ⟨r, l, q⟩, updCh_gets, if_pos rfl]
theorem ascOn_latched (s : State) (c d : Chan) : ((ascOn s c).gd.ch.get d).latched = (s.gd.ch.get d).latched := by
  by_cases h : d = c
  · subst h
    unfold ascOn
    dsimp only
    repeat' split
    · rfl
    · rw [updCh_gets, if_pos rfl]; simp [GdChan.latched]
    · rw [updCh_gets, if_pos rfl]; simp [GdChan.latched]
  · rw [ascOn_get _ _ _ h]
theorem ascOns_on (l : List Chan) (s : State) (d : Chan) (h : d ∈ l) (p : s.chPresent d = true) (r : s.railsOk d = true) (f : (s.gd.ch.get d).latched = false) (q : (s.gd.ch.get d).out ≠ .soft) :
    ((l.foldl ascOn s).gd.ch.get d).out = .on := by
  induction l generalizing s with
  | nil => cases h
  | cons c l ih =>
    rw [List.foldl_cons]
    by_cases e : d = c
    · subst e
      have on := ascOn_on s d p r f q
      have hp : (ascOn s d).chPresent d = true := by rw [ascOn_only]; exact p
      have hr : (ascOn s d).railsOk d = true := by
        unfold ascOn
        dsimp only
        rw [if_neg (by rw [p]; decide), if_pos ⟨r, f, q⟩]
        unfold State.railsOk State.biasOn State.updCh at *
        simpa using r
      by_cases k : d ∈ l
      · exact ih _ k hp hr (by rw [ascOn_latched]; exact f) (by rw [on]; decide)
      · rw [ascOns_other _ _ _ k]; exact on
    · have k : d ∈ l := (List.mem_cons.1 h).resolve_left e
      have g := ascOn_get s c d e
      refine ih _ k (by rw [ascOn_only]; exact p) ?_ (by rw [g]; exact f) (by rw [g]; exact q)
      have b : (ascOn s c).sup = s.sup := by rw [ascOn_only]
      unfold State.railsOk State.biasOn at r ⊢
      rw [g, b]; exact r
theorem driveAsc_eq (x : TSet) (n : Nat) (s : State) : driveAsc x n s = { (if n = 2 then x.lows else x.highs).foldl ascOn ((if n = 2 then x.highs else x.lows).foldl stopChan s) with ss := s.ss.upd x (fun y => { y with st := n }) } := by
  unfold driveAsc setSs
  dsimp only
  have e : ((if n = 2 then x.lows else x.highs).foldl ascOn ((if n = 2 then x.highs else x.lows).foldl stopChan s)).ss = s.ss := by rw [ascOns_only, stopChans_only]
  rw [← e]
/-- A set that ASC is driven on: the gate channels and its safe-state code. -/
theorem driveAsc_parts (x : TSet) (n : Nat) (s : State) : driveAsc x n s = { s with gd := (driveAsc x n s).gd, ss := s.ss.upd x (fun y => { y with st := n }) } := by
  generalize hg : (driveAsc x n s).gd = g
  rw [driveAsc_eq] at hg ⊢
  rw [ascOns_only, stopChans_only] at hg ⊢
  dsimp only at hg ⊢
  rw [hg]
theorem driveAsc_on (x : TSet) (n : Nat) (s : State) (d : Chan) (h : d ∈ (if n = 2 then x.lows else x.highs)) (p : s.chPresent d = true) (r : s.railsOk d = true) (f : (s.gd.ch.get d).latched = false) (q : (s.gd.ch.get d).out ≠ .soft) :
    ((driveAsc x n s).gd.ch.get d).out = .on := by
  rw [driveAsc_eq]
  have k : d ∉ (if n = 2 then x.highs else x.lows) := by
    clear p r f q
    split at h <;> (rename_i e; simp only [e, if_true, if_false]; revert h; revert d; cases x <;> decide)
  have g : ((List.foldl stopChan s (if n = 2 then x.highs else x.lows)).gd.ch.get d) = s.gd.ch.get d := stopChans_get _ _ _ k
  refine ascOns_on _ _ d h ?_ ?_ (by rw [g]; exact f) (by rw [g]; exact q)
  · rw [stopChans_only]; exact p
  · have b : (List.foldl stopChan s (if n = 2 then x.highs else x.lows)).sup = s.sup := by rw [stopChans_only]
    unfold State.railsOk State.biasOn at r ⊢
    rw [g, b]; exact r
theorem driveAsc_off (x : TSet) (n : Nat) (s : State) (d : Chan) (h : d ∈ (if n = 2 then x.highs else x.lows)) : ((driveAsc x n s).gd.ch.get d).out ≠ .on := by
  rw [driveAsc_eq]
  show ((List.foldl ascOn _ _).gd.ch.get d).out ≠ .on
  rw [ascOns_other]
  · exact stopChans_off _ _ _ h
  · split at h <;> (rename_i e; simp only [e, if_true, if_false]; revert h; revert d; cases x <;> decide)
theorem driveFreewheel_parts (x : TSet) (s : State) : driveFreewheel x s = { s with gd := (driveFreewheel x s).gd, ss := s.ss.upd x (fun y => { y with st := 1 }) } := by
  unfold driveFreewheel setSs
  dsimp only
  rw [stopChans_only]
theorem driveFreewheel_off (x : TSet) (s : State) (d : Chan) (h : d ∈ x.lows ++ x.highs) : ((driveFreewheel x s).gd.ch.get d).out ≠ .on := by
  unfold driveFreewheel setSs
  exact stopChans_off _ _ _ h

theorem stopChan_latched (s : State) (c d : Chan) : ((stopChan s c).gd.ch.get d).latched = (s.gd.ch.get d).latched := by
  by_cases h : d = c
  · subst h
    unfold stopChan offSink offSinkAt
    split <;> simp [State.updCh, GdChan.latched]
  · rw [stopChan_get, if_neg h]
theorem stopChan_hsFailed (s : State) (c : Chan) : (stopChan s c).gd.hsFailed = s.gd.hsFailed := by unfold stopChan offSink offSinkAt; split <;> rfl
@[simp] theorem stopChans_flagged (l : List Chan) (s : State) (cs : List Chan) : (l.foldl stopChan s).sideFlagged cs = s.sideFlagged cs := by
  induction l generalizing s with
  | nil => rfl
  | cons c l ih => rw [List.foldl_cons, ih]; unfold State.sideFlagged; simp only [stopChan_latched, stopChan_hsFailed]
@[simp] theorem stopGroup_flagged (g : Grp) (s : State) (cs : List Chan) : (stopGroup g s).sideFlagged cs = s.sideFlagged cs := by
  unfold State.sideFlagged
  rw [stopGroup_gd]
  exact stopChans_flagged _ s cs
/-- R199 on a present set whose low sides carry no flag. -/
theorem forceAsc_low (x : TSet) (s : State) (h : s.fn x.num = true) (b : s.sup.biasA = true) (k : s.sideFlagged x.lows = false) :
    ((forceAsc x s).ss.get x).st = 2 ∧ ((forceAsc x s).ss.get x).window = false := by
  unfold forceAsc
  rw [if_pos h]
  dsimp only
  unfold goAsc
  have b' : (stopGroup x.grp s).sup = s.sup := by rw [stopGroup_only]
  rw [if_neg (show ¬(stopGroup x.grp s).sup.biasA = false by rw [b', b]; decide), if_pos (by rw [← k]; exact stopGroup_flagged x.grp s x.lows)]
  rw [driveAsc_parts]
  simp
theorem driveAsc_flagged (x : TSet) (n : Nat) (s : State) (cs : List Chan) : (driveAsc x n s).sideFlagged cs = s.sideFlagged cs := by
  rw [driveAsc_eq]
  have h (l : List Chan) (u : State) : (l.foldl ascOn u).sideFlagged cs = u.sideFlagged cs := by
    induction l generalizing u with
    | nil => rfl
    | cons c l ih =>
      rw [List.foldl_cons, ih]
      unfold State.sideFlagged
      have b : (ascOn u c).gd.hsFailed = u.gd.hsFailed := by
        unfold ascOn
        dsimp only
        repeat' split
        all_goals rfl
      simp only [ascOn_latched, b]
  show (List.foldl ascOn _ _).sideFlagged cs = _
  rw [h, stopChans_flagged]

/-- ASC forced on one set leaves the other's safe state and every latched flag, while Io runs. -/
theorem forceAsc_other (y : TSet) (s : State) (hi : ioHalted s = false) :
    (∀ x, x ≠ y → (forceAsc y s).ss.get x = s.ss.get x) ∧ ∀ cs, (forceAsc y s).sideFlagged cs = s.sideFlagged cs := by
  unfold forceAsc
  split
  · dsimp only
    generalize hu : ({ stopGroup y.grp s with ss := (stopGroup y.grp s).ss.upd y (fun x => { x with window := false, trial := false }), otgt := (stopGroup y.grp s).otgt.upd y (fun o => { o with current := false, torque := 0 }) } : State) = u
    have us : ∀ x, x ≠ y → u.ss.get x = s.ss.get x := by
      intro x hx
      rw [← hu, stopGroup_only]
      simp [Tab.get_upd, hx]
    have uf : ∀ cs, u.sideFlagged cs = s.sideFlagged cs := by
      intro cs
      rw [← hu]
      exact stopGroup_flagged y.grp s cs
    have ui : ioHalted u = false := by rw [← hu, stopGroup_only]; exact hi
    have hj : ioHalted (driveFreewheel y u) = false := by rw [driveFreewheel_parts]; exact ui
    have fs : ∀ x, x ≠ y → (driveFreewheel y u).ss.get x = s.ss.get x := by
      intro x hx; rw [driveFreewheel_parts]; simp [Tab.get_upd, hx, us x hx]
    have ff : ∀ cs, (driveFreewheel y u).sideFlagged cs = s.sideFlagged cs := by
      intro cs
      unfold driveFreewheel setSs
      have := stopChans_flagged (y.lows ++ y.highs) u cs
      rw [uf] at this
      exact this
    unfold goAsc
    split
    · exact ⟨fs, ff⟩
    split
    · exact ⟨fun x hx => by rw [driveAsc_parts]; simp [Tab.get_upd, hx, us x hx], fun cs => by rw [driveAsc_flagged, uf]⟩
    split
    · exact ⟨fun x hx => by rw [driveAsc_parts]; simp [Tab.get_upd, hx, us x hx], fun cs => by rw [driveAsc_flagged, uf]⟩
    · rcases raiseBy_f4_same 11 0x1816 y.num 0 (driveFreewheel y u) (by intro s; simp [classOf, codesF0, codesF1, codesF2, codesF4]) hj with e | e
      · rw [e]; exact ⟨fs, ff⟩
      · rw [e]; exact ⟨fs, ff⟩
  · exact ⟨fun _ _ => rfl, fun _ => rfl⟩

/-- What is read from the loaded records depends on nothing but them. -/
theorem fn_cat {s t : State} (h : t.cat = s.cat) (k : Nat) : t.fn k = s.fn k := by unfold State.fn State.pu State.pb State.payload; rw [h]
theorem pu_cat {s t : State} (h : t.cat = s.cat) (a b c : Nat) : t.pu a b c = s.pu a b c := by unfold State.pu State.pb State.payload; rw [h]
theorem pf_cat {s t : State} (h : t.cat = s.cat) (a b c : Nat) : t.pf a b c = s.pf a b c := by unfold State.pf State.payload; rw [h]
theorem hasRec_cat {s t : State} (h : t.cat = s.cat) (a b : Nat) : t.hasRec a b = s.hasRec a b := by unfold State.hasRec; rw [h]
end Sys2Proof.Machine
namespace Sys2Proof
theorem Tab.drop_drop {κ α : Type} [DecidableEq κ] (k : κ) (l : List (κ × α)) : Tab.drop k (Tab.drop k l) = Tab.drop k l := by
  induction l with
  | nil => rfl
  | cons p l ih =>
    obtain ⟨a, b⟩ := p
    by_cases h : a = k
    · simp only [Tab.drop, h, if_true]; exact ih
    · simp only [Tab.drop, h, if_false]; rw [ih]
/-- Of two writes of one entry the second stays. -/
@[simp] theorem Tab.put_put {κ α : Type} [DecidableEq κ] (t : Tab κ α) (k : κ) (v w : α) : (t.put k v).put k w = t.put k w := by
  unfold Tab.put
  simp [Tab.drop, Tab.drop_drop]
theorem Tab.upd_eq {κ α : Type} [DecidableEq κ] (t : Tab κ α) (k : κ) (f : α → α) : t.upd k f = t.put k (f (t.get k)) := rfl
end Sys2Proof
namespace Sys2Proof.Machine
theorem requestPeriod_only (x : TSet) (s : State) : requestPeriod x s = { s with pwm := (requestPeriod x s).pwm } := by
  unfold requestPeriod
  dsimp only
  split <;> rfl
theorem requestPeriod_pwm (x : TSet) (s : State) (k : Grp) : ({ (requestPeriod x s).pwm.get k with reqPeriod := none } : PwmGrp) = { s.pwm.get k with reqPeriod := none } := by
  unfold requestPeriod
  dsimp only
  split
  · simp only [Tab.get_put]
    by_cases h : k = x.grp
    · subst h; simp
    · simp [h]
  · rfl
/-- The carrier requests of a task without an overspeed change nothing but the requested periods. -/
theorem requests_eq (v : State) (ha : absQ (v.omegaM .a) ≤ v.pf 0x38 0 48) (hb : absQ (v.omegaM .b) ≤ v.pf 0x38 0 48) :
    checkOverspeed .b (checkOverspeed .a (requestPeriod .b (requestPeriod .a v))) = { v with pwm := (requestPeriod .b (requestPeriod .a v)).pwm } := by
  have r1 := requestPeriod_only .a v
  generalize requestPeriod .a v = w at r1
  have r2 := requestPeriod_only .b w
  generalize requestPeriod .b w = y at r2
  have ey : y = { v with pwm := y.pwm } := by rw [r2, r1]
  have c1 : checkOverspeed .a y = y := by
    unfold checkOverspeed
    rw [if_neg (by rintro ⟨-, a⟩; rw [ey] at a; exact absurd a (not_lt.2 ha))]
  have c2 : checkOverspeed .b y = y := by
    unfold checkOverspeed
    rw [if_neg (by rintro ⟨-, a⟩; rw [ey] at a; exact absurd a (not_lt.2 hb))]
  rw [c1, c2]
  exact ey

theorem codeA_cat {s t : State} (h : t.cat = s.cat) (x : TSet) (c : Int) : codeA t x c = codeA s x c := by unfold codeA iFs; rw [pf_cat h]
theorem overOc_cat {s t : State} (h : t.cat = s.cat) (x : TSet) (a : Q) : overOc t x a = overOc s x a := by unfold overOc; rw [pf_cat h]
/-- Samples whose checks of R159 all pass change only the run of large sums. -/
theorem checkSamples_ok (x : TSet) (s : State) (a : absQ (codeA s x (s.orr.get x).iu) ≤ s.pf 0x30 x.num 48) (b : absQ (codeA s x (s.orr.get x).iv) ≤ s.pf 0x30 x.num 48)
    (c : absQ (codeA s x (s.orr.get x).iw) ≤ s.pf 0x30 x.num 48) (d : absQ (codeA s x (s.orr.get x).iu + codeA s x (s.orr.get x).iv + codeA s x (s.orr.get x).iw) ≤ s.pf 0x30 x.num 116) :
    checkSamples x s = { s with orr := s.orr.put x { s.orr.get x with sumRun := 0 } } := by
  have ov (o) (g : Q) (k : absQ g ≤ s.pf 0x30 x.num 48) : overOc { s with orr := o } x g = false := decide_eq_false (not_lt.2 k)
  unfold checkSamples
  dsimp only
  rw [decide_eq_false (not_lt.2 d)]
  simp only [Bool.false_eq_true, if_false]
  simp only [ov _ _ a, ov _ _ b, ov _ _ c]
  simp only [Bool.or_self, Bool.false_eq_true, if_false]
  rw [if_neg (by decide)]
theorem raise_ite_active {c i c' i' m : Nat} {p : Prop} [Decidable p] {u : State} (h : active c i u = true) : active c i (if p then raise c' i' m u else u) = true := by
  split
  · exact raise_grows _ _ _ _ _ _ h
  · exact h
theorem raise_ite_grows {c i m : Nat} {p : Prop} [Decidable p] {s u : State} (h : Grows s u) : Grows s (if p then raise c i m u else u) := by
  split
  · exact h.trans (raise_grows _ _ _ _)
  · exact h
theorem checkSamples_over (x : TSet) (s : State) (a : s.pf 0x30 x.num 48 < absQ (codeA s x (s.orr.get x).iu)) : active 0x1802 x.num (checkSamples x s) = true := by
  have ov (o) : overOc { s with orr := o } x (codeA s x (s.orr.get x).iu) = true := decide_eq_true a
  unfold checkSamples
  dsimp only
  refine raise_ite_active ?_
  rw [if_pos (by rw [ov]; rfl)]
  exact raise_active _ _ _ _
theorem checkSamples_grows (x : TSet) (s : State) : Grows s (checkSamples x s) := by
  unfold checkSamples
  dsimp only
  exact raise_ite_grows (raise_ite_grows (.of_eq rfl))
@[simp] theorem checkSamples_beyond (x : TSet) (s : State) : (checkSamples x s).beyond = s.beyond := by
  unfold checkSamples
  dsimp only
  simp
theorem orr_grows {s u : State} (h : Grows s u) (o : Tab TSet OrrSet) : Grows s { u with orr := o } := h
theorem endTrim_grows (x : TSet) (s : State) : Grows s (endTrim x s) := by
  unfold endTrim
  dsimp only
  exact raise_ite_grows (.of_eq rfl)
@[simp] theorem endTrim_beyond (x : TSet) (s : State) : (endTrim x s).beyond = s.beyond := by
  unfold endTrim
  dsimp only
  simp

theorem minQ_le_right (a b : Q) : minQ a b ≤ b := by unfold minQ; split; · exact le_refl _
                                                     · exact not_lt.1 ‹_›
theorem clampQ_abs (l x : Q) (h : 0 ≤ l) : absQ (clampQ (-l) l x) ≤ l := by
  unfold clampQ absQ
  repeat' split
  all_goals linarith
/-- The modulator gives three values, none above the half-period (R131, R175). -/
theorem modulate_ok (n : Nat) (a b c d e f g h : Q) : (modulate n a b c d e f g h).length = 3 ∧ ∀ x ∈ modulate n a b c d e f g h, x ≤ n := by
  unfold modulate
  dsimp only
  split
  · refine ⟨rfl, ?_⟩
    intro x hx
    simp only [List.map_cons, List.map_nil, List.mem_cons, List.not_mem_nil, or_false] at hx
    rcases hx with hx | hx | hx <;> (rw [hx]; split <;> omega)
  · refine ⟨rfl, ?_⟩
    have l (t : Nat) (p q r s : Q) : legE t p q r s ≤ t := by unfold legE; dsimp only; split <;> omega
    intro x hx
    simp only [List.mem_cons, List.not_mem_nil, or_false] at hx
    rcases hx with hx | hx | hx <;> (rw [hx]; exact l _ _ _ _ _)
/-- Everything an update writes: one entry of each of the three tables, then 0x1806 and 0x1807 where they are due (R163). -/
theorem updateCore_spec (x : TSet) (v dt : Q) (s : State) :
    ∃ es view c, updateCore x v dt s =
      (let u := { s with octl := s.octl.put x c, oview := s.oview.put x view, pwm := s.pwm.put x.grp { s.pwm.get x.grp with next := some es } };
       let b : State := if (view.tclip && !(s.oview.get x).tclip) || (view.wclip && !(s.oview.get x).wclip) then raise 0x1806 x.num 0 u else u;
       if aboveTwoPi (absQ (setAngle s x dt).2) (b.pf 0x30 x.num 136) then raise 0x1807 x.num 0 b else b) ∧ es.length = 3 ∧ (∀ e ∈ es, e ≤ (s.pwm.get x.grp).period / 2) ∧
      view.m ≤ s.pf 0x30 x.num 120 ∧ (0 ≤ iLimit s x → absQ view.idRef ≤ iLimit s x) ∧ view.lateRun = 0 ∧ c.vdc = v := by
  delta updateCore
  lift_lets
  intro gr n o c tg pr ffEn p2 ts aw th we iu iv iw i band w mr lim d0 idr ql iqr ed eq xd xq six ov id2 iq2 cr be ffd ffq vd0 vq0 mCmd mMax vlim d q m fwOn xfw idb learn sgn3 c1 c2 off thO va vb comp cx es view s1 s2
  refine ⟨es, view, c2, rfl, (modulate_ok _ _ _ _ _ _ _ _ _).1, (modulate_ok _ _ _ _ _ _ _ _ _).2, minQ_le_right _ _, clampQ_abs _ _, rfl, ?_⟩
  show c2.vdc = v
  simp only [c2]
  split <;> rfl

/-- An evaluation that no class F4 fault decides: a lost precondition first, then the request (R34). -/
theorem modeEval_eq (l : Bool) (s : State) (hi : (s.lks.pairs.get .io).st = 1) (h4 : activeClass 4 s = false) (hm : s.sys.mode ≠ .off ∧ s.sys.mode ≠ .ship ∧ s.sys.mode ≠ .accession) :
    execModeEvaluation l s = (match lostPrecondition (ageTask l s) with
      | some t => .next t
      | none => .next (modeRequest (ageTask l s))) := by
  obtain ⟨a, b, c⟩ := hm
  unfold execModeEvaluation
  dsimp only
  have e : (ageTask l s).sys.mode = s.sys.mode := rfl
  have i : ((ageTask l s).lks.pairs.get .io).st = 1 := hi
  have j : ioHalted (ageTask l s) = false := by unfold ioHalted; rw [i]; decide
  have k : activeClass 4 (ageTask l s) = false := h4
  rw [e]
  cases hs : s.sys.mode
  all_goals first | exact absurd hs a | exact absurd hs b | exact absurd hs c | (dsimp only; rw [if_neg (by rintro ⟨x, -⟩; exact Bool.noConfusion (k.symm.trans x)), if_neg (by rw [j]; decide)]; try rfl)
/-- From READY, an operating mode that feeds the LV converter makes its start due (R33, R293). -/
theorem enterMode_due (m : Mode) (s : State) (h : s.sys.mode = .ready) (hm : m = .convert ∨ m = .drive ∨ m = .charge) (f : s.fn 5 = true) : (enterMode m s).lvc.due = true := by
  unfold enterMode
  have n1 : m ≠ .ready := by rcases hm with e | e | e <;> (rw [e]; decide)
  have n2 : m ≠ .safe := by rcases hm with e | e | e <;> (rw [e]; decide)
  rw [if_neg (by rw [h]; exact fun e => n1 e.symm)]
  dsimp only
  rw [if_neg n2, if_neg n1]
  have pl (u : State) : (pins u).lvc = u.lvc := by have := pins_same u; unfold SameButFaults at this; rw [this]
  rw [pl]
  have fc : (modeOutputs m { s with sys := { s.sys with mode := m, prev := s.sys.mode, waitStill := false } }).fn 5 = true := by
    rw [fn_cat (s := s) (congrArg Beyond.cat (show (modeOutputs m { s with sys := { s.sys with mode := m, prev := s.sys.mode, waitStill := false } }).beyond = s.beyond by simp))]
    exact f
  rw [if_neg (by rintro ⟨e, -⟩; exact n1 e)]
  have lv {p : Prop} [Decidable p] (u v : State) (k : u.lvc = v.lvc) : (if p then u else v).lvc = v.lvc := by split; · exact k
                                                                                                              · rfl
  rw [lv _ _ (by rfl)]
  rw [if_pos ⟨h, hm, fc⟩]

theorem clearFs_same (i : Nat) (l : List Nat) (s : State) : SameButFaults s (l.foldl (fun s c => clearF c i s) s) := by
  induction l generalizing s with
  | nil => rfl
  | cons c l ih => exact (clearF_same c i s).trans (ih _)
/-- VALID and nothing else beyond the collector (R212). -/
theorem posOk_same (i : Ifc) (s : State) : SameButFaults { s with pos := (posOk i s).pos } (posOk i s) ∧ ((posOk i s).pos.get i = { s.pos.get i with valid := true } ∨ (posOk i s).pos.get i = { s.pos.get i with valid := true, bad := false }) ∧ ∀ k, k ≠ i → (posOk i s).pos.get k = s.pos.get k := by
  unfold posOk
  split
  · rename_i h
    exact ⟨rfl, .inl (by rw [← h]), fun _ _ => rfl⟩
  · have h := clearFs_same i.val [0x2001, 0x2002, 0x2003, 0x2004, 0x2005, 0x2006, 0x2007, 0x2008, 0x2009, 0x200A, 0x200B] { s with pos := s.pos.upd i (fun p => { p with valid := true, bad := false }) }
    dsimp only
    generalize [0x2001, 0x2002, 0x2003, 0x2004, 0x2005, 0x2006, 0x2007, 0x2008, 0x2009, 0x200A, 0x200B].foldl (fun s c => clearF c i.val s) { s with pos := s.pos.upd i (fun p => { p with valid := true, bad := false }) } = t at h
    have e : t.pos = s.pos.upd i (fun p => { p with valid := true, bad := false }) := by rw [h]
    refine ⟨by rw [e]; exact h, .inr (by rw [e]; simp), ?_⟩
    intro k hk
    rw [e, Tab.get_upd_other _ _ _ _ hk]
theorem posLose_pos (i : Ifc) (c : Nat) (s : State) : (posLose i c s).pos = s.pos.upd i (fun p => { p with valid := false, bad := true }) := by
  unfold posLose
  dsimp only
  split <;> simp
theorem posLose_grows (i : Ifc) (c : Nat) (s : State) : Grows s (posLose i c s) := by
  unfold posLose
  dsimp only
  split
  · exact Grows.trans (t := { s with pos := s.pos.upd i (fun p => { p with valid := false, bad := true }) }) (.of_eq rfl) (raise_grows _ _ _ _)
  · exact .of_eq rfl
theorem posLose_beyond' (i : Ifc) (c : Nat) (s : State) (hf : c ≠ 0x680A := by decide) (hq : c ≠ 0x7002 := by decide) : (posLose i c s).beyond = ({ s with pos := s.pos.upd i (fun p => { p with valid := false, bad := true }) } : State).beyond := by
  unfold posLose
  dsimp only
  split <;> simp [hf, hq]
/-- The emulation writes its counts and its errors, and raises nothing above class F1. -/
theorem feedOne_parts (src : Ifc) (p d : Int) (i : Ifc) (s : State) :
    SameButFaults { s with em := (feedOne src p d i s).em, pos := (feedOne src p d i s).pos } (feedOne src p d i s) ∧ (∀ k, k ≠ i → (feedOne src p d i s).pos.get k = s.pos.get k) ∧
      ∃ e n, (feedOne src p d i s).pos.get i = { s.pos.get i with errTotal := e, count := n } := by
  unfold feedOne
  split
  · dsimp only
    split
    · refine ⟨rfl, fun k hk => ?_, (s.pos.get i).errTotal, wrap32 (emCount s i p).1, ?_⟩
      · simp [emAt, Tab.get_upd, hk]
      · simp [emAt]
    · split
      · refine ⟨?_, ?_, ?_⟩
        · rw [raise_em, raise_pos]
          exact raise_low_same 0x200B i.val 0 _ (by intro s; simp [classOf, codesF0, codesF1]) (by decide)
        · intro k hk; rw [raise_pos]; simp [emAt, Tab.get_upd, hk]
        · refine ⟨satInc 16 (s.pos.get i).errTotal, wrap32 ((s.em.get i).want + Int.tdiv ((s.em.get i).acc + (s.pu 0x40 i 24 : Int) * d) (max (s.pu 0x40 i 28 : Int) 1)), ?_⟩
          rw [raise_pos]
          simp [emAt]
      · exact ⟨rfl, fun _ _ => rfl, _, _, rfl⟩
  · exact ⟨rfl, fun _ _ => rfl, _, _, rfl⟩
theorem feedEmulation_parts (src : Ifc) (p d : Int) (s : State) :
    SameButFaults { s with em := (feedEmulation src p d s).em, pos := (feedEmulation src p d s).pos } (feedEmulation src p d s) ∧ ∀ k, k.val < 10 → (feedEmulation src p d s).pos.get k = s.pos.get k := by
  unfold feedEmulation
  obtain ⟨h1, h2, -⟩ := feedOne_parts src p d 10 s
  generalize feedOne src p d 10 s = u at h1 h2
  obtain ⟨h3, h4, -⟩ := feedOne_parts src p d 11 u
  generalize feedOne src p d 11 u = v at h3 h4
  refine ⟨?_, ?_⟩
  · unfold SameButFaults at h1 h3 ⊢
    dsimp only at h1 h3 ⊢
    conv_lhs => rw [h3, h1]
  · intro k hk
    rw [h4 k (by rintro rfl; exact absurd hk (by decide)), h2 k (by rintro rfl; exact absurd hk (by decide))]
theorem SameButFaults.beyond {s t : State} (h : SameButFaults s t) : t.beyond = s.beyond := by rw [h]; rfl

/-- The window of errors decides VALID (R224, R227, R232). -/
theorem errStep_parts (i : Ifc) (c : Nat) (s : State) (hf : c ≠ 0x680A := by decide) (hq : c ≠ 0x7002 := by decide) :
    (if overErr s i = true then posLose i c s else s).pos = (if overErr s i = true then s.pos.upd i (fun p => { p with valid := false, bad := true }) else s.pos) ∧
    (if overErr s i = true then posLose i c s else s).beyond = ({ s with pos := (if overErr s i = true then posLose i c s else s).pos } : State).beyond ∧
    Grows s (if overErr s i = true then posLose i c s else s) := by
  split
  · exact ⟨posLose_pos _ _ _, by rw [posLose_beyond' _ _ _ hf hq, posLose_pos], posLose_grows _ _ _⟩
  · exact ⟨rfl, rfl, Grows.refl _⟩

theorem SameButFaults.beyond_pe {s t : State} (h : SameButFaults s t) (p : Tab Ifc PosSt) (e : Tab Ifc EmSt) : ({ t with pos := p, em := e } : State).beyond = ({ s with pos := p, em := e } : State).beyond := by rw [h]; rfl

/-- One more error and what the window makes of it (R224, R227, R232). -/
def errStep (i : Ifc) (c t : Nat) (s : State) : State := if overErr (addError i t s) i = true then posLose i c (addError i t s) else addError i t s
theorem errStep_ok (i : Ifc) (c t : Nat) (s : State) (hf : c ≠ 0x680A := by decide) (hq : c ≠ 0x7002 := by decide) :
    (∃ v b l, (errStep i c t s).pos.get i = { s.pos.get i with valid := v, bad := b, errTotal := satInc 16 (s.pos.get i).errTotal, errTimes := l } ∧ (v = true ↔ (s.pos.get i).valid = true ∧ l.length ≤ s.pu 0x40 i 44)) ∧
    (∀ k, k ≠ i → (errStep i c t s).pos.get k = s.pos.get k) ∧ Grows s (errStep i c t s) ∧ (errStep i c t s).beyond = ({ s with pos := (errStep i c t s).pos } : State).beyond := by
  obtain ⟨q1, q2, q3⟩ := errStep_parts i c (addError i t s) hf hq
  have ho : overErr (addError i t s) i = decide (s.pu 0x40 i 44 < ((addError i t s).pos.get i).errTimes.length) := rfl
  refine ⟨?_, ?_, ?_, ?_⟩
  · unfold errStep
    rw [q1, ho]
    by_cases h : s.pu 0x40 i 44 < ((addError i t s).pos.get i).errTimes.length
    · rw [if_pos (decide_eq_true h)]
      refine ⟨false, true, ((addError i t s).pos.get i).errTimes, by simp [addError], ?_⟩
      constructor
      · intro a; cases a
      · intro a; exact absurd a.2 (not_le.2 h)
    · rw [if_neg (by simpa using h)]
      refine ⟨(s.pos.get i).valid, (s.pos.get i).bad, ((addError i t s).pos.get i).errTimes, by simp [addError], ?_⟩
      exact ⟨fun a => ⟨a, not_lt.1 h⟩, fun a => a.1⟩
  · intro k hk
    unfold errStep
    rw [q1]
    split <;> simp [addError, Tab.get_upd, hk]
  · exact Grows.trans (t := addError i t s) (.of_eq rfl) q3
  · unfold errStep
    rw [q2]; rfl

/-- Nothing beyond the position state, the emulation and what faults touch has changed. -/
def PosOnly (s t : State) : Prop := t.beyond = ({ s with edge := t.edge, pos := t.pos, em := t.em } : State).beyond
theorem PosOnly.trans {s t u : State} (a : PosOnly s t) (b : PosOnly t u) : PosOnly s u := by
  unfold PosOnly at a b ⊢
  rw [b]
  exact congrArg (fun x : Beyond => { x with edge := u.edge, pos := u.pos, em := u.em }) a
theorem PosOnly.refl (s : State) : PosOnly s s := rfl
theorem PosOnly.of_pos (s : State) (p : Tab Ifc PosSt) : PosOnly s { s with pos := p } := rfl
theorem PosOnly.ite {p : Prop} [Decidable p] {s t u : State} (a : PosOnly s t) (b : PosOnly s u) : PosOnly s (if p then t else u) := by split <;> assumption
theorem SameButFaults.posOnly {s t : State} {p : Tab Ifc PosSt} (h : SameButFaults { s with pos := p } t) : PosOnly s t := by
  unfold PosOnly
  rw [h]; rfl
theorem posOk_only (i : Ifc) (s : State) : PosOnly s (posOk i s) := (posOk_same i s).1.posOnly
theorem posLose_only (i : Ifc) (c : Nat) (s : State) (hf : c ≠ 0x680A := by decide) (hq : c ≠ 0x7002 := by decide) : PosOnly s (posLose i c s) := by
  have h := posLose_beyond' i c s hf hq
  have p : (posLose i c s).pos = _ := posLose_pos i c s
  have e : (posLose i c s).edge = s.edge := congrArg Beyond.edge h
  have m : (posLose i c s).em = s.em := congrArg Beyond.em h
  unfold PosOnly
  rw [h, p, e, m]
/-- What an index fault does: an encoder loses VALID, a Hall set keeps it (R229, R234). -/
theorem indexFault_parts (i : Ifc) (c : Nat) (s : State) (hf : c ≠ 0x680A := by decide) (hq : c ≠ 0x7002 := by decide) : PosOnly s (indexFault i c s) ∧ (indexFault i c s).edge = s.edge ∧ (indexFault i c s).pos = if i.val < 6 then s.pos.upd i (fun p => { p with valid := false, bad := true }) else s.pos := by
  unfold indexFault
  split
  · exact ⟨posLose_only _ _ _ hf hq, congrArg Beyond.edge (posLose_beyond' i c s hf hq), posLose_pos _ _ _⟩
  · split
    · exact ⟨(by unfold PosOnly; simp [hf, hq]), by simp, by simp⟩
    · exact ⟨rfl, rfl, rfl⟩
theorem feedEmulation_only (src : Ifc) (p d : Int) (s : State) : PosOnly s (feedEmulation src p d s) := by
  have h := (feedEmulation_parts src p d s).1
  unfold PosOnly
  generalize feedEmulation src p d s = t at h
  rw [h]; rfl
theorem timedEdge_only (i : Ifc) (d : Int) (t a b : Nat) (f : List Nat → Nat → Q) (s : State) : PosOnly s (timedEdge i d t a b f s) := by
  unfold timedEdge
  dsimp only
  split <;> rfl
theorem timedEdge_count (i : Ifc) (d : Int) (t a b : Nat) (f : List Nat → Nat → Q) (s : State) :
    ((timedEdge i d t a b f s).pos.get i).count = (s.pos.get i).count ∧ ((timedEdge i d t a b f s).pos.get i).idxLvl = (s.pos.get i).idxLvl ∧ ((timedEdge i d t a b f s).pos.get i).code = (s.pos.get i).code ∧
    ((timedEdge i d t a b f s).edge.get i).a = (s.edge.get i).a ∧ ((timedEdge i d t a b f s).edge.get i).b = (s.edge.get i).b ∧ ((timedEdge i d t a b f s).edge.get i).z = (s.edge.get i).z ∧ ((timedEdge i d t a b f s).edge.get i).lastCode = (s.edge.get i).lastCode := by
  unfold timedEdge
  dsimp only
  split <;> simp
theorem indexEvent_only (i : Ifc) (n : Nat) (s : State) : PosOnly s (indexEvent i n s) := by
  unfold indexEvent
  dsimp only
  split
  · rfl
  · split
    · exact (PosOnly.of_pos s _).trans (indexFault_parts _ _ _).1
    · rfl
theorem indexEvent_count (i : Ifc) (n : Nat) (s : State) :
    ((indexEvent i n s).pos.get i).count = (s.pos.get i).count ∧ ((indexEvent i n s).pos.get i).idxLvl = (s.pos.get i).idxLvl ∧
    ((indexEvent i n s).edge.get i).a = (s.edge.get i).a ∧ ((indexEvent i n s).edge.get i).b = (s.edge.get i).b ∧ ((indexEvent i n s).edge.get i).z = (s.edge.get i).z := by
  unfold indexEvent
  dsimp only
  split
  · simp
  · split
    · rw [(indexFault_parts _ _ _).2.2, (indexFault_parts _ _ _).2.1]
      split <;> simp
    · simp
theorem indexMissing_only (i : Ifc) (n : Nat) (s : State) : PosOnly s (indexMissing i n s) := by
  unfold indexMissing
  dsimp only
  split
  · exact (indexFault_parts _ _ _).1
  · exact .refl _
theorem indexMissing_count (i : Ifc) (n : Nat) (s : State) :
    ((indexMissing i n s).pos.get i).count = (s.pos.get i).count ∧ ((indexMissing i n s).pos.get i).idxLvl = (s.pos.get i).idxLvl ∧ (indexMissing i n s).edge = s.edge := by
  unfold indexMissing
  dsimp only
  split
  · rw [(indexFault_parts _ _ _).2.2, (indexFault_parts _ _ _).2.1]
    split <;> simp
  · simp

/-- Nothing beyond the resolver, its calibration, the positions, the emulation and what faults touch has changed. -/
def ResOnly (s t : State) : Prop := t.beyond = ({ s with res := t.res, pos := t.pos, cal := t.cal, em := t.em } : State).beyond
theorem ResOnly.trans {s t u : State} (a : ResOnly s t) (b : ResOnly t u) : ResOnly s u := by
  unfold ResOnly at a b ⊢
  rw [b]
  exact congrArg (fun x : Beyond => { x with res := u.res, pos := u.pos, cal := u.cal, em := u.em }) a
/-- What a step of the checks and of the calibration leaves alone in a resolver. -/
def ResKept (i : Ifc) (s t : State) : Prop :=
  (t.res.get i).th = (s.res.get i).th ∧ (t.res.get i).w = (s.res.get i).w ∧ (t.res.get i).s0 = (s.res.get i).s0 ∧ (t.res.get i).c0 = (s.res.get i).c0 ∧ (t.res.get i).s90 = (s.res.get i).s90 ∧ (t.res.get i).c90 = (s.res.get i).c90 ∧
  (t.res.get i).s180 = (s.res.get i).s180 ∧ (t.res.get i).c180 = (s.res.get i).c180 ∧ (t.res.get i).s270 = (s.res.get i).s270 ∧ (t.res.get i).c270 = (s.res.get i).c270 ∧
  (t.pos.get i).angle = (s.pos.get i).angle ∧ (t.pos.get i).speed = (s.pos.get i).speed
theorem ResKept.refl (i : Ifc) (s : State) : ResKept i s s := ⟨rfl, rfl, rfl, rfl, rfl, rfl, rfl, rfl, rfl, rfl, rfl, rfl⟩
theorem ResKept.trans {i : Ifc} {s t u : State} (a : ResKept i s t) (b : ResKept i t u) : ResKept i s u := by
  obtain ⟨a1, a2, a3, a4, a5, a6, a7, a8, a9, a10, a11, a12⟩ := a
  obtain ⟨b1, b2, b3, b4, b5, b6, b7, b8, b9, b10, b11, b12⟩ := b
  exact ⟨b1.trans a1, b2.trans a2, b3.trans a3, b4.trans a4, b5.trans a5, b6.trans a6, b7.trans a7, b8.trans a8, b9.trans a9, b10.trans a10, b11.trans a11, b12.trans a12⟩
theorem posLose_res (i : Ifc) (c : Nat) (s : State) (hf : c ≠ 0x680A := by decide) (hq : c ≠ 0x7002 := by decide) : ResOnly s (posLose i c s) ∧ ResKept i s (posLose i c s) := by
  have h := posLose_beyond' i c s hf hq
  have p := posLose_pos i c s
  have r : (posLose i c s).res = s.res := congrArg Beyond.res h
  have m : (posLose i c s).em = s.em := congrArg Beyond.em h
  have k : (posLose i c s).cal = s.cal := congrArg Beyond.cal h
  constructor
  · unfold ResOnly; rw [h, p, r, m, k]
  · unfold ResKept; rw [r, p]; simp
theorem posOk_res (i : Ifc) (s : State) : ResOnly s (posOk i s) ∧ ResKept i s (posOk i s) := by
  obtain ⟨h, q, -⟩ := posOk_same i s
  generalize posOk i s = t at h q
  constructor
  · unfold ResOnly; rw [h]; rfl
  · have e : t.res = s.res := by rw [h]
    unfold ResKept
    rcases q with q | q <;> (rw [q, e]; simp)
theorem ResStep.ite {p : Prop} [Decidable p] {i : Ifc} {s t u : State} (a : ResOnly s t ∧ ResKept i s t) (b : ResOnly s u ∧ ResKept i s u) : ResOnly s (if p then t else u) ∧ ResKept i s (if p then t else u) := by split <;> assumption
theorem ResStep.trans {i : Ifc} {s t u : State} (a : ResOnly s t ∧ ResKept i s t) (b : ResOnly t u ∧ ResKept i t u) : ResOnly s u ∧ ResKept i s u := ⟨a.1.trans b.1, a.2.trans b.2⟩
theorem ResStep.refl (i : Ifc) (s : State) : ResOnly s s ∧ ResKept i s s := ⟨rfl, .refl _ _⟩
theorem endTurn_res (i : Ifc) (c : CalTurn) (s : State) : ResOnly s (endTurn i c s) ∧ ResKept i s (endTurn i c s) := by
  unfold endTurn
  lift_lets
  intro r en n ms mc vs vc os oc k ph u
  have hu : ResOnly s u ∧ ResKept i s u := ⟨rfl, by simp [ResKept, u, r]⟩
  refine ResStep.ite ?_ hu
  refine ResStep.trans hu ?_
  have h := raise_low_same 0x2003 i.val 0 u (by intro s; simp [classOf, codesF0, codesF1]) (by decide)
  generalize raise 0x2003 i.val 0 u = w at h
  exact ⟨by unfold ResOnly; rw [h]; rfl, by unfold ResKept; rw [h]; simp⟩
theorem calStep_res (i : Ifc) (a b c : Q) (d : Int) (s : State) : ResOnly s (calStep i a b c d s) ∧ ResKept i s (calStep i a b c d s) := by
  unfold calStep
  dsimp only
  refine ResStep.ite ⟨rfl, .refl _ _⟩ (ResStep.ite ?_ ⟨rfl, .refl _ _⟩)
  exact ResStep.trans (t := { s with cal := s.cal.put i CalTurn.empty }) ⟨rfl, .refl _ _⟩ (endTurn_res _ _ _)
theorem sdlyStep_res (i : Ifc) (a b c d : Q) (s : State) : ResOnly s (sdlyStep i a b c d s) ∧ ResKept i s (sdlyStep i a b c d s) := by
  unfold sdlyStep
  dsimp only
  refine ResStep.ite ⟨rfl, ?_⟩ (ResStep.refl _ _)
  simp [ResKept]
theorem resCheck_res (i : Ifc) (e : Q) (s : State) : ResOnly s (resCheck i e s) ∧ ResKept i s (resCheck i e s) := by
  unfold resCheck
  lift_lets
  intro r ampOk lim trkBad fine r2 u1 u2 u3
  have h1 : ResOnly s u1 ∧ ResKept i s u1 := ⟨rfl, by simp [ResKept, u1, r2, r]⟩
  have h2 : ResOnly s u2 ∧ ResKept i s u2 := ResStep.ite (ResStep.trans h1 (posOk_res _ _)) h1
  have h3 : ResOnly s u3 ∧ ResKept i s u3 := ResStep.ite (ResStep.trans h2 (posLose_res _ _ _)) h2
  exact ResStep.ite (ResStep.trans h3 (posLose_res _ _ _)) h3
theorem feedEmulation_res (src : Ifc) (p d : Int) (s : State) : ResOnly s (feedEmulation src p d s) := by
  have h := (feedEmulation_parts src p d s).1
  generalize feedEmulation src p d s = t at h
  unfold ResOnly; rw [h]; rfl
end Sys2Proof.Machine
end

