-- ==== Sys2Proof/Laws/Outputs.lean ====
section
/-! SUPPORT. How gate channels turn off, one by one and in groups, and what they leave of the rest. -/

/-! ### Gate channels -/
namespace Sys2Proof.Machine

theorem updCh_beyond' (s : State) (c : Chan) (f : GdChan → GdChan) : (s.updCh c f).beyond = s.beyond := rfl

theorem stampUpd_faults (c : Chan) (f : GdChan → GdChan) (w : State) : (stamp c (w.updCh c f)).faults = w.faults := rfl
theorem stampUpd_beyond (c : Chan) (f : GdChan → GdChan) (w : State) : (stamp c (w.updCh c f)).beyond = w.beyond := rfl
theorem updCh_time (c : Chan) (f : GdChan → GdChan) (w : State) : (w.updCh c f).timeNs = w.timeNs := rfl
/-- A latched flag's fault: what it leaves of every channel's flags and of the rest. -/
theorem stamp_raise (c : Chan) (code i m : Nat) (f : GdChan → GdChan) (w : State) (h1 : code ≠ 0x680A := by decide) (h2 : code ≠ 0x7002 := by decide) :
    (∀ d, ((raise code i m (stamp c (w.updCh c f))).gd.ch.get d).flags = if d = c then ({ f (w.gd.ch.get c) with last := w.timeNs % 2 ^ 32 } : GdChan).flags else (w.gd.ch.get d).flags) ∧
    active code i (raise code i m (stamp c (w.updCh c f))) = true ∧ Grows w (raise code i m (stamp c (w.updCh c f))) ∧ (raise code i m (stamp c (w.updCh c f))).beyond = w.beyond := by
  refine ⟨fun d => ?_, raise_active _ _ _ _, (Grows.of_eq (stampUpd_faults c f w)).trans (raise_grows _ _ _ _), ?_⟩
  · rw [Gd.flags_get (raise_flags _ _ _ _)]
    unfold stamp
    rw [updCh_time, updCh_gets, updCh_gets]
    by_cases h : d = c
    · simp only [h, if_true]; rfl
    · simp only [h, if_false]; rw [updCh_gets]; simp only [h, if_false]
  · rw [raise_beyond _ _ _ _ h1 h2, stampUpd_beyond]
theorem offSoft_only (c : Chan) (s : State) : offSoft c s = { s with gd := (offSoft c s).gd } := by unfold offSoft offSoftAt; split <;> rfl
theorem offSoft_get (c d : Chan) (s : State) : ((offSoft c s).gd.ch.get d).flags = (s.gd.ch.get d).flags := Gd.flags_get (offSoft_flags c s) d
theorem offSink_get (c d : Chan) (s : State) : ((offSink c s).gd.ch.get d).flags = (s.gd.ch.get d).flags := Gd.flags_get (offSink_flags c s) d
theorem flags_eq {x y : GdChan} (h : x.flags = y.flags) {α : Type} (f : GdChan → α) : f x.flags = f y.flags := by rw [h]

/-- A latched flag on an output that is off: what `stamp_raise` leaves, in terms of an earlier state's flags. -/
theorem latch_raise (c : Chan) (code m : Nat) (f : GdChan → GdChan) (w : State) (fl : Chan → GdChan) (hw : ∀ d, (w.gd.ch.get d).flags = fl d)
    (hf : ∀ x, (f x).flags = f x.flags) (hl : ∀ x n, ({ f x with last := n } : GdChan).flags = { (f x).flags with last := n }) (ho : ∀ x : GdChan, x.out ≠ .on → (f x).out ≠ .on) (off : w.gd.offAt c)
    (h1 : code ≠ 0x680A := by decide) (h2 : code ≠ 0x7002 := by decide) :
    (∀ d, ((raise code c.val m (stamp c (w.updCh c f))).gd.ch.get d).flags = if d = c then { f (fl c) with last := w.timeNs % 2 ^ 32 } else fl d) ∧
    ((raise code c.val m (stamp c (w.updCh c f))).gd.ch.get c).out ≠ .on ∧ active code c.val (raise code c.val m (stamp c (w.updCh c f))) = true ∧
    Grows w (raise code c.val m (stamp c (w.updCh c f))) ∧ (raise code c.val m (stamp c (w.updCh c f))).beyond = w.beyond := by
  obtain ⟨a, b, g, k⟩ := stamp_raise c code c.val m f w h1 h2
  refine ⟨fun d => ?_, ?_, b, g, k⟩
  · rw [a d]
    split
    · rw [hl, hf, hw]
    · exact hw d
  · apply raise_offAt
    unfold stamp
    refine updCh_offAt _ _ _ _ (fun x h => h) ?_
    exact updCh_offAt _ _ _ _ ho off

theorem domainReaction_grows (d : Fin 7) (s : State) : Grows s (domainReaction d s) := by
  unfold domainReaction
  split <;> first | exact Grows.of_eq (by simp) | exact abortAct_grows _ _
theorem offSinks_off (l : List Chan) (s : State) (d : Chan) (h : d ∈ l) : (l.foldl (fun s c => offSink c s) s).gd.offAt d := by
  induction l generalizing s with
  | nil => cases h
  | cons a l ih =>
    rw [List.foldl_cons]
    rcases List.mem_cons.1 h with rfl | h
    · exact offAt_foldl (fun s a k => by simp [k]) l (offSink_self _ s)
    · exact ih _ h
theorem offSinks_only (l : List Chan) (s : State) : l.foldl (fun s c => offSink c s) s = { s with gd := (l.foldl (fun s c => offSink c s) s).gd } := by
  induction l generalizing s with
  | nil => rfl
  | cons a l ih => rw [List.foldl_cons, ih, offSink_only]

/-- A raise's entry makes no other fault active or inactive (R533). -/
theorem raiseEntry_other (b c' i' m c i : Nat) (s : State) (h : ¬(c = c' ∧ i = i')) : active c i (raiseEntry b c' i' m s).2 = active c i s := by
  unfold active raiseEntry
  split
  · exact findFault_again _ _ _ _ _
  · dsimp only
    rw [storeRec_faults]
    have e : (takeSupp c' i' s).2.faults = s.faults := by unfold takeSupp; split <;> rfl
    simp only [findFault, e]
    rw [if_neg (fun k => h ⟨k.1.symm, k.2.symm⟩)]
/-- A full store concerns 0x001A alone (R87). -/
theorem noteDrop_other (c i : Nat) (r : Bool × State) (h : c ≠ 0x001A) : active c i (noteDrop r) = active c i r.2 := by
  unfold noteDrop
  have p (u : State) : active c i (pins u) = active c i u := by unfold active; rw [pins_faults]
  rw [p]
  split
  · exact raiseEntry_other _ _ _ _ _ _ _ (fun k => h k.1)
  · rfl
/-- A raise of class F0 to F2 leaves every other fault as it is, but for 0x001A. -/
theorem raise_low_other (c' i' m c i : Nat) (s : State) (l : ∀ s, classOf s c' i' < 3) (g : ¬(0x2803 ≤ c' ∧ c' ≤ 0x280C)) (h : c ≠ 0x001A) (n : ¬(c = c' ∧ i = i')) : active c i (raise c' i' m s) = active c i s := by
  unfold raise
  rw [raiseBy_f2 _ _ _ _ _ (l _) g]
  exact (noteDrop_other _ _ _ h).trans (raiseEntry_other _ _ _ _ _ _ _ n)
/-- Clearing a fault leaves every other fault as it is, but for 0x001A, which a full log may raise (R533). -/
theorem clearF_other (c' i' c i : Nat) (s : State) (h : c ≠ 0x001A) (n : ¬(c = c' ∧ i = i')) : active c i (clearF c' i' s) = active c i s := by
  unfold clearF
  split
  · rfl
  · rename_i f _
    dsimp only
    split
    · unfold active
      rw [pins_faults]
      split <;> simp [findFault_drop, n]
    · refine (noteDrop_other _ _ _ h).trans ?_
      unfold active
      rw [storeRec_faults]
      simp [findFault_drop, n]
/-- A code is active when it is so with some instance. -/
theorem activeCode_iff (c : Nat) (s : State) : activeCode c s = true ↔ ∃ i, active c i s = true := by
  unfold activeCode active
  induction s.faults with
  | nil => simp [findFault]
  | cons f l ih =>
    simp only [List.any_cons, Bool.or_eq_true, decide_eq_true_eq, ih, findFault]
    constructor
    · rintro (rfl | ⟨i, k⟩)
      · exact ⟨f.inst, by simp⟩
      · refine ⟨i, ?_⟩
        split
        · rfl
        · exact k
    · rintro ⟨i, k⟩
      split at k
      · rename_i e; exact .inl e.1
      · exact .inr ⟨i, k⟩
theorem activeCode_congr {c : Nat} {s t : State} (h : ∀ i, active c i t = active c i s) : activeCode c t = activeCode c s := by
  rw [Bool.eq_iff_iff, activeCode_iff, activeCode_iff]
  simp only [h]
/-- What decides whether a path is served, of the vehicle interfaces. -/
def vifServe (v : Vif) : Bool × Nat × Bool × Nat × Bool := ((v.can.get 0).stb, (v.can.get 0).st, (v.can.get 1).stb, (v.can.get 1).st, v.ethUp)
/-- What decides whether a path is served: the supply, the cores, the Catalogue, the interfaces and their faults (R109, R506). -/
theorem served_congr {s t : State} (h1 : t.sup = s.sup) (h2 : t.lks.pairs = s.lks.pairs) (h3 : t.cat = s.cat) (h4 : vifServe t.vif = vifServe s.vif)
    (h5 : ∀ c i, c = 0x6003 ∨ c = 0x7002 → active c i t = active c i s) (p : UPath) : t.udsServed p = s.udsServed p := by
  unfold vifServe at h4
  injection h4 with a h4; injection h4 with b h4; injection h4 with c h4; injection h4 with d e
  have f (i : Nat) : active 0x7002 i t = active 0x7002 i s := h5 _ i (.inr rfl)
  have g : activeCode 0x6003 t = activeCode 0x6003 s := activeCode_congr (fun i => h5 _ i (.inl rfl))
  unfold State.udsServed State.ganyOn State.canOn State.ethOn
  rw [h1, h2, h3, a, b, c, d, e, g, hasRec_cat h3, hasRec_cat h3, hasRec_cat h3, pu_cat h3, pu_cat h3, pu_cat h3]
  simp only [f]
theorem SameButFaults.served {s t : State} (h : SameButFaults s t) (h5 : ∀ c i, c = 0x6003 ∨ c = 0x7002 → active c i t = active c i s) (p : UPath) : t.udsServed p = s.udsServed p :=
  served_congr (by rw [h]) (by rw [h]) (by rw [h]) (by rw [h]) h5 p
theorem raise_low_gd (c i m : Nat) (s : State) (h : ∀ s, classOf s c i < 3) (g : ¬(0x2803 ≤ c ∧ c ≤ 0x280C)) : (raise c i m s).gd = s.gd := by rw [raise_low_same c i m s h g]

theorem gd_st {u v : State} (h : u.gd.flags = v.gd.flags) : u.gd.st = v.gd.st := congrArg (fun x => x.2.st) h
theorem offSoft_offAt' (c : Chan) (s : State) (d : Chan) (h : s.gd.offAt d) : (offSoft c s).gd.offAt d := by simp [h]
theorem softAll_off (l : List Chan) (s : State) (d : Chan) (h : d ∈ l) : (l.foldl (fun s k => if (s.gd.ch.get k).out = .on then offSoft k s else s) s).gd.offAt d := by
  have st : ∀ (s : State) (a : Chan), s.gd.offAt d → (if (s.gd.ch.get a).out = .on then offSoft a s else s).gd.offAt d := fun s a k => offAt_site (offSoft_offAt' a s d k) k
  induction l generalizing s with
  | nil => cases h
  | cons a l ih =>
    rw [List.foldl_cons]
    rcases List.mem_cons.1 h with rfl | h
    · refine offAt_foldl st l ?_
      split
      · exact offSoft_self _ _
      · assumption
    · exact ih _ h
theorem softAll_frame (l : List Chan) (s : State) : (l.foldl (fun s k => if (s.gd.ch.get k).out = .on then offSoft k s else s) s).gd.flags = s.gd.flags ∧
    (l.foldl (fun s k => if (s.gd.ch.get k).out = .on then offSoft k s else s) s).beyond = s.beyond ∧ (l.foldl (fun s k => if (s.gd.ch.get k).out = .on then offSoft k s else s) s).faults = s.faults := by
  refine ⟨flags_foldl _ (fun s a => ?_) _ _, beyond_foldl _ (fun s a => ?_) _ _, faults_foldl _ (fun s a => ?_) _ _⟩
  · split
    · exact offSoft_flags _ _
    · rfl
  · split
    · exact offSoft_beyond _ _
    · rfl
  · split
    · rw [offSoft_only]
    · rfl
theorem stopStage_grows (g : Stage) (s : State) : Grows s (stopStage g s) := by
  unfold stopStage
  split
  all_goals first
    | exact Grows.of_eq (by simp)
    | exact (Grows.of_eq (stopCharger_faults s)).trans (chgOnFault_grows _ _)
    | exact (Grows.of_eq (stopPhase_faults _ s)).trans (lastPhase_grows _ _)

theorem routine_served {p : UPath} {rid : Nat} {s : State} (h : s.routineNrc p rid = 0) : s.udsServed p = true := by
  by_contra k
  have k : s.udsServed p = false := by simpa using k
  unfold State.routineNrc at h
  rw [k] at h
  dsimp only at h
  split_ifs at h <;> simp_all
theorem clearFs_other (l : List Nat) (i c j : Nat) (s : State) (h : c ≠ 0x001A) (n : c ∉ l) : active c j (l.foldl (fun s k => clearF k i s) s) = active c j s := by
  induction l generalizing s with
  | nil => rfl
  | cons a l ih =>
    rw [List.foldl_cons, ih _ (fun k => n (List.mem_cons_of_mem _ k))]
    exact clearF_other _ _ _ _ _ h (fun k => n (by rw [k.1]; exact List.mem_cons_self))
/-- Clearing codes on every channel of a list changes the collector alone. -/
theorem clearAll_same (ds : List Chan) (l : List Nat) (s : State) : SameButFaults s (ds.foldl (fun s d => l.foldl (fun s k => clearF k d.val s) s) s) := by
  induction ds generalizing s with
  | nil => rfl
  | cons d ds ih => exact (clearFs_same d.val l s).trans (ih _)
theorem clearAll_other (ds : List Chan) (l : List Nat) (c j : Nat) (s : State) (h : c ≠ 0x001A) (n : c ∉ l) :
    active c j (ds.foldl (fun s d => l.foldl (fun s k => clearF k d.val s) s) s) = active c j s := by
  induction ds generalizing s with
  | nil => rfl
  | cons d ds ih => rw [List.foldl_cons, ih, clearFs_other _ _ _ _ _ h n]
/-- The routine of R264 on a channel that it clears. -/
theorem clearChan_ok (s : State) (c : Chan) (h : (s.gd.ch.get c).shorts < 3) :
    SameButFaults (setOsd (stageOf c) 0 (s.updCh c (fun x => { x with desat := false, gc := false, rb := false, link := false, bstOff := false }))) (clearChan s c) ∧ active 0x2801 c.val (clearChan s c) = false := by
  unfold clearChan
  dsimp only
  rw [if_neg (by omega)]
  generalize setOsd (stageOf c) 0 (s.updCh c (fun x => { x with desat := false, gc := false, rb := false, link := false, bstOff := false })) = u
  have a := clearFs_same c.val [0x2801, 0x2802, 0x2803, 0x2806, 0x2807, 0x2808] u
  have b : active 0x2801 c.val ([0x2801, 0x2802, 0x2803, 0x2806, 0x2807, 0x2808].foldl (fun s k => clearF k c.val s) u) = false := by
    rw [List.foldl_cons, clearFs_other _ _ _ _ _ (by decide) (by decide)]
    exact clearF_inactive _ _ _ (by decide)
  exact ⟨a.trans (clearAll_same _ _ _), (clearAll_other _ _ _ _ _ (by decide) (by decide)).trans b⟩
theorem allChans_only (c : Chan) (p : Chan → Bool) (h : p c = true) : allChans.filter (fun k => k.val = c.val && p k) = [c] := by
  have : allChans.filter (fun k => k.val = c.val && p k) = (allChans.filter (fun k => k.val = c.val)).filter p := by rw [List.filter_filter]; congr 1; funext k; exact Bool.and_comm _ _
  rw [this]
  have e : ∀ c : Chan, allChans.filter (fun k => k.val = c.val) = [c] := by decide
  rw [e c]
  simp [h]
end Sys2Proof.Machine
end

