-- ==== Sys2Proof/Laws/ChargerStages.lean ====
section
/-! SUPPORT. What stops and starts the charger, its grid cycle and its stages, and what a charging session does. -/

/-! ### The charger -/
namespace Sys2Proof.Machine

/-- The charger's own state: its stages and its carriers. -/
def chgr (s : State) : Pfc × Dab × Tab Grp PwmGrp := (s.pfc, s.dab, s.pwm)
theorem chgr_off {s t : State} (h : chgr s = chgr t) (o : ChgrOff t) : ChgrOff s := by
  unfold chgr at h; injection h with h1 h2; injection h2 with h2 h3
  unfold ChgrOff; rw [h1, h2, h3]; exact o
theorem SameButFaults.chgr {s t : State} (h : SameButFaults s t) : chgr t = chgr s := by rw [h]; rfl
theorem stopCharger_off (s : State) : ChgrOff (stopCharger s) := by
  unfold stopCharger
  dsimp only
  split
  · rename_i h; exact ⟨.inl h.1, h.2.1, h.2.2.1, h.2.2.2⟩
  · have p (u : State) : (stopGroup 4 (stopGroup 3 u)).pwm = _ := (stopGroup_pwm 4 _).trans (by rw [stopGroup_pwm 3 u])
    refine ⟨.inr rfl, rfl, ?_, ?_⟩ <;> dsimp only <;> rw [p] <;> simp [Tab.get_upd]
theorem sessionOff_chgr (s : State) : chgr (sessionOff s) = chgr s := by
  have a : ∀ v u, chgr (lvCharge v u) = chgr u := fun v u => by
    unfold lvCharge lvcWrite
    dsimp only
    split
    · exact (raiseBase_same _ _ _ _).chgr
    · rfl
  unfold sessionOff
  dsimp only
  split <;> split <;> first | rfl | exact a _ _
theorem sessionOffBy_chgr (c : Nat) (s : State) : chgr (sessionOffBy c s) = chgr s := by
  unfold sessionOffBy
  split
  · exact sessionOff_chgr _
  · exact sessionOff_chgr s
theorem sessionFailBy_chgr (c : Nat) (s : State) : chgr (sessionFailBy c s) = chgr s := by
  unfold sessionFailBy
  split
  · rfl
  · exact sessionOffBy_chgr c s
/-- A session's response to a fault leaves the charger, or stops it (R344). -/
theorem chgOnFault_chgr (c : Nat) (s : State) (h : c ≠ 0x4005) : chgr (chgOnFault c s) = chgr s ∨ ChgrOff (chgOnFault c s) := by
  unfold chgOnFault
  split_ifs
  · exact .inl rfl
  · exact .inl rfl
  · exact .inr (chgr_off (sessionFailBy_chgr _ _) (stopCharger_off _))
  · exact .inl rfl
  · exact .inl (sessionFailBy_chgr c s)
/-- What a fault 0x3001 to 0x3010 makes of the machine (R268 to R290). -/
theorem reactF3_charger (code i : Nat) (s : State) (a : 0x3001 ≤ code) (b : code ≤ 0x3010) : reactF3 code i s = chgOnFault code (stopCharger s) := by
  have n (k : Nat) (h : k < 0x3001 ∨ 0x3010 < k) : code ≠ k := by omega
  unfold reactF3
  simp only [missCode, n 0x10000 (.inr (by decide)), if_false]
  simp only [show ¬(0x1801 ≤ code ∧ code ≤ 0x1807) by omega, show ¬(0x1810 ≤ code ∧ code ≤ 0x1812) by omega, show ¬(0x2001 ≤ code ∧ code ≤ 0x200B) by omega, show ¬(code = 0x2801 ∨ code = 0x2802) by omega,
    show ¬(0x280D ≤ code ∧ code ≤ 0x280F) by omega, show ¬((code = 0x4803 ∨ code = 0x4805 ∨ code = 0x4807) ∧ 27 ≤ i ∧ i < 43) by omega,
    show ¬((0x2803 ≤ code ∧ code ≤ 0x280C) ∨ code = 0x4803 ∨ code = 0x4805 ∨ code = 0x4807 ∨ code = 0x0017) by omega, show ¬(code = 0x0016) by omega,
    show ¬(code = 0x4005 ∨ code = 0x4007) by omega, show (0x3001 ≤ code ∧ code ≤ 0x3010) ∨ (0x4001 ≤ code ∧ code ≤ 0x400D) ∨ code = 0x6002 ∨ (code = 0x7002 ∧ i = 21) from .inl ⟨a, b⟩, if_true, if_false]
/-- A fault of the charger: its stages stop, or nothing of them changes. -/
theorem raise_chgr (code i m : Nat) (s : State) (a : 0x3001 ≤ code) (b : code ≤ 0x3010) (h : ∀ s, classOf s code i = 3) :
    chgr (raise code i m s) = chgr s ∨ ChgrOff (raise code i m s) := by
  unfold raise raiseBy
  dsimp only
  split
  · simp only [h]
    right
    refine chgr_off (pins_same _).chgr ?_
    rw [reactF3_charger _ _ _ a b]
    exact (chgOnFault_chgr code (stopCharger _) (by omega)).elim (fun e => chgr_off e (stopCharger_off _)) id
  · exact .inl (raiseBaseBy_same _ _ _ _ _).chgr
theorem offGroup (g : Grp) (s : State) (d : Chan) (h : grpOf d = g) : (stopGroup g s).gd.offAt d := by
  have st : ∀ (s : State) (l : List Chan), d ∈ l → (l.foldl stopChan s).gd.offAt d := by
    intro s l m
    induction l generalizing s with
    | nil => cases m
    | cons a l ih =>
      rw [List.foldl_cons]
      rcases List.mem_cons.1 m with rfl | m
      · exact offAt_foldl (fun s a k => stopChan_offAt _ _ _ k) l (by unfold stopChan; exact updCh_offAt _ _ _ _ (fun _ h => h) (offSink_self _ _))
      · exact ih _ m
  have m : d ∈ grpChans g := List.mem_filter.2 ⟨by unfold allChans; simp, by simp [h]⟩
  unfold stopGroup
  exact haltGroup_offAt _ _ _ (st s _ m)
theorem stopCharger_outputs (s : State) (h : s.pfc.st ≠ 0 ∨ s.dab.st ≠ 0) (d : Chan) (k : grpOf d = 3 ∨ grpOf d = 4) : (stopCharger s).gd.offAt d := by
  have k (u : State) : (stopGroup 4 (stopGroup 3 u)).gd.offAt d := by
    rcases k with k | k
    · exact stopGroup_offAt _ _ _ (offGroup 3 u d k)
    · exact offGroup 4 _ d k
  unfold stopCharger
  generalize e : ({ s with chg := { s.chg with s2 := false } } : State) = w
  have p : w.pfc.st = s.pfc.st := by rw [← e]
  have q : w.dab.st = s.dab.st := by rw [← e]
  dsimp only
  rw [if_neg (by rw [p, q]; rintro ⟨a, b, -⟩; exact h.elim (fun x => x a) (fun x => x b))]
  have k := k w
  generalize stopGroup 4 (stopGroup 3 w) = v at k
  exact k

/-- A fault that stops the charger (R280, R281). -/
theorem stopRaise (code i : Nat) (u : State) (hf : code ≠ 0x680A := by decide) (hq : code ≠ 0x7002 := by decide) : ChgrOff (stopCharger (raise code i 0 u)) ∧ active code i (stopCharger (raise code i 0 u)) = true ∧ Grows u (stopCharger (raise code i 0 u)) ∧ (stopCharger (raise code i 0 u)).beyond = u.beyond :=
  have g : Grows (raise code i 0 u) (stopCharger (raise code i 0 u)) := Grows.of_eq (stopCharger_faults _)
  ⟨stopCharger_off _, g _ _ (raise_active _ _ _ _), (raise_grows _ _ _ _).trans g, by rw [stopCharger_beyond, raise_beyond _ _ _ _ hf hq]⟩
theorem ans_stop {c : Prop} [Decidable c] (h : c) {code i : Nat} {s u : State} {o : Host.Outcome State Fault Refusal} (f : u.faults = s.faults) (b : u.beyond = s.beyond)
    (hf : code ≠ 0x680A := by decide) (hq : code ≠ 0x7002 := by decide) :
    Answers (if c then .next (stopCharger (raise code i 0 u)) else o) fun t => ChgrOff t ∧ active code i t = true ∧ Grows s t ∧ t.beyond = s.beyond := by
  rw [if_pos h]
  obtain ⟨a1, a2, a3, a4⟩ := stopRaise code i u hf hq
  exact ⟨_, rfl, a1, a2, (Grows.of_eq f).trans a3, a4.trans b⟩

/-- A raise after a change that leaves the faults. -/
theorem ans_raised {code i m : Nat} {s u : State} (f : u.faults = s.faults) {b : Beyond} (k : u.beyond = b)
    (hf : code ≠ 0x680A := by decide) (hq : code ≠ 0x7002 := by decide) :
    Answers (.next (raise code i m u)) fun t => active code i t = true ∧ Grows s t ∧ t.beyond = b :=
  ⟨_, rfl, raise_active _ _ _ _, (Grows.of_eq f).trans (raise_grows _ _ _ _), (raise_beyond _ _ _ _ hf hq).trans k⟩

theorem clear2_keep (l : List Nat) (c j : Nat) (s : State) (h : c ≠ 0x001A) (k : active c j s = false) : active c j (l.foldl (fun s c => clearF c 1 (clearF c 0 s)) s) = false := by
  have one : ∀ c' i' (s : State), active c j s = false → active c j (clearF c' i' s) = false := by
    intro c' i' s k
    by_cases e : c = c' ∧ j = i'
    · obtain ⟨rfl, rfl⟩ := e; exact clearF_inactive _ _ _ h
    · rw [clearF_other _ _ _ _ _ h e]; exact k
  induction l generalizing s with
  | nil => exact k
  | cons a l ih => exact ih _ (one _ _ _ (one _ _ _ k))
theorem clear2_off (l : List Nat) (c j : Nat) (s : State) (h : c ≠ 0x001A) (m : c ∈ l) (j2 : j < 2) : active c j (l.foldl (fun s c => clearF c 1 (clearF c 0 s)) s) = false := by
  induction l generalizing s with
  | nil => cases m
  | cons a l ih =>
    rw [List.foldl_cons]
    rcases List.mem_cons.1 m with rfl | m
    · refine clear2_keep l c j _ h ?_
      rcases Nat.lt_or_ge j 1 with q | q
      · rw [clearF_other _ _ _ _ _ h (by omega)]
        have : j = 0 := by omega
        subst this; exact clearF_inactive _ _ _ h
      · have : j = 1 := by omega
        subst this; exact clearF_inactive _ _ _ h
    · exact ih _ m
theorem clear2_same (l : List Nat) (s : State) : SameButFaults s (l.foldl (fun s c => clearF c 1 (clearF c 0 s)) s) := by
  induction l generalizing s with
  | nil => exact .refl _
  | cons a l ih => exact ((clearF_same _ _ _).trans (clearF_same _ _ _)).trans (ih _)
theorem clearStart_same (s : State) : SameButFaults s (clearStartFaults s) := clear2_same _ s
theorem clearStart_off (s : State) (c j : Nat) (m : c ∈ [0x3001, 0x3002, 0x3003, 0x3006, 0x3007, 0x3008, 0x3009, 0x300A, 0x300B, 0x300C, 0x300D, 0x300E, 0x300F, 0x3010]) (h : j < 2) : active c j (clearStartFaults s) = false :=
  clear2_off _ c j s (by rintro rfl; simp at m) m h
theorem active_of {s t : State} (h : t.faults = s.faults) (c i : Nat) : active c i t = active c i s := by unfold active; rw [h]

theorem staleDie2_spec (g : Nat) (r : Bool) (s : State) : (staleDie2 g r s).beyond = s.beyond ∧ Grows s (staleDie2 g r s) ∧ ((chgr (staleDie2 g r s) = ({ s.pfc with stale := if s.dc.stale2 then s.pfc.stale + 1 else 0 }, s.dab, s.pwm)) ∨ ChgrOff (staleDie2 g r s)) := by
  unfold staleDie2
  split
  · have hf : ({ s with pfc := { s.pfc with stale := s.pfc.stale + 1 } } : State).faults = s.faults := rfl
    dsimp only
    split
    · refine ⟨(raise_beyond _ _ _ _).trans rfl, (Grows.of_eq hf).trans (raise_grows _ _ _ _), ?_⟩
      rcases raise_chgr 0x300F g 0 ({ s with pfc := { s.pfc with stale := s.pfc.stale + 1 } } : State) (by decide) (by decide) (fun s => by simp [classOf, codesF0, codesF1, codesF2, codesF4, lossCode, ovCode, noInst, queueClass]) with k | k
      · left; rw [k]; rfl
      · exact .inr k
    · exact ⟨rfl, .of_eq rfl, .inl rfl⟩
  · rename_i h
    exact ⟨rfl, .of_eq rfl, .inl rfl⟩
theorem chgr_ite {c : Prop} [Decidable c] {code i : Nat} {s : State} (a : 0x3001 ≤ code) (b : code ≤ 0x3010) (h : ∀ s, classOf s code i = 3) :
    chgr (if c then raise code i 0 s else s) = chgr s ∨ ChgrOff (if c then raise code i 0 s else s) := by
  split
  · exact raise_chgr _ _ _ _ a b h
  · exact .inl rfl
theorem dabProtect_spec (s : State) : (dabProtect s).beyond = s.beyond ∧ Grows s (dabProtect s) ∧
    (((dabProtect s).dab.st = s.dab.st ∧ (dabProtect s).dab.vbus = s.dab.vbus ∧ (dabProtect s).dab.ibat = s.dab.ibat ∧ (dabProtect s).dab.delta = s.dab.delta ∧ (dabProtect s).pwm = s.pwm) ∨ ChgrOff (dabProtect s)) := by
  unfold dabProtect
  lift_lets
  intro b t win u1 r rev revT d2 u2 lost u3
  have c1 : u3.beyond = s.beyond := by
    simp only [u3]; split
    · exact (raise_beyond _ _ _ _).trans rfl
    · rfl
  have c2 : Grows s u3 := by
    simp only [u3]; exact raise_ite_grows (Grows.of_eq rfl)
  refine ⟨?_, raise_ite_grows c2, ?_⟩
  · split
    · exact (raise_beyond _ _ _ _).trans c1
    · exact c1
  · rcases chgr_ite (c := 1 / 1000 ≤ revT) (code := 0x300C) (i := 1) (s := u3) (by decide) (by decide) (fun s => by simp [classOf, codesF0, codesF1, codesF2, codesF4, lossCode, ovCode, noInst, queueClass]) with k | k
    · rcases chgr_ite (c := lost = true) (code := 0x300A) (i := 1) (s := u2) (by decide) (by decide) (fun s => by simp [classOf, codesF0, codesF1, codesF2, codesF4, lossCode, ovCode, noInst, queueClass]) with q | q
      · have q : chgr u3 = chgr u2 := q
        have e := k.trans q
        unfold chgr at e
        injection e with e1 e2
        injection e2 with e2 e3
        left
        rw [e2, e3]
        exact ⟨rfl, rfl, rfl, rfl, rfl⟩
      · exact .inr (chgr_off k q)
    · exact .inr k
theorem minQ_both {a b l : Q} (ha : absQ a ≤ l) (hb : absQ b ≤ l) : absQ (minQ a b) ≤ l := by unfold minQ; split <;> assumption
theorem absQ_nonneg (a : Q) : 0 ≤ absQ a := by unfold absQ; split <;> linarith
theorem absQ_neg (a : Q) : absQ (-a) = absQ a := by unfold absQ; split <;> split <;> linarith

/-- What a step of grid sensing leaves: only the grid and, while the charger runs, a fault and its stop. -/
structure GridStep (s t : State) : Prop where
  beyond : t.beyond = ({ s with grid := t.grid } : State).beyond
  chgr : chgr t = chgr s ∨ ChgrOff t
  idle : chargerRuns s = false → SameButFaults { s with grid := t.grid } t
theorem SameButFaults.grid {s t : State} (h : SameButFaults s t) : t.grid = s.grid := by rw [h]
theorem runs_chgr {s t : State} (h : chgr t = chgr s) : chargerRuns t = chargerRuns s := by
  unfold Machine.chgr at h; injection h with h1 h2; injection h2 with h2 h3
  unfold chargerRuns; rw [h1, h2]
theorem runs_off {s : State} (h : ChgrOff s) (k : s.pfc.st = 0) : chargerRuns s = false := by unfold chargerRuns; simp [h.2.1, k]
theorem GridStep.grid (s : State) (g : Grid) : GridStep s { s with grid := g } := ⟨rfl, .inl rfl, fun _ => rfl⟩
theorem GridStep.raise (code i : Nat) (s : State) (a : 0x3001 ≤ code) (b : code ≤ 0x3010) (h : ∀ s, classOf s code i = 3) (p : Bool) (hf : code ≠ 0x680A := by decide) (hq : code ≠ 0x7002 := by decide) : GridStep s (if (p && chargerRuns s) = true then raise code i 0 s else s) := by
  split
  · rename_i k
    have e : (Machine.raise code i 0 s).grid = s.grid := congrArg Beyond.grid (raise_beyond code i 0 s hf hq)
    refine ⟨?_, raise_chgr _ _ _ _ a b h, fun q => ?_⟩
    · rw [raise_beyond _ _ _ _ hf hq, e]
    · rw [q] at k; simp at k
  · exact ⟨rfl, .inl rfl, fun _ => rfl⟩
theorem GridStep.trans {s t u : State} (a : GridStep s t) (b : GridStep t u) : GridStep s u := by
  have gt : ∀ (x y : State) (g : Grid), x.beyond = y.beyond → ({ x with grid := g } : State).beyond = ({ y with grid := g } : State).beyond := by
    intro x y g h
    have : ({ x.beyond with grid := g } : Beyond) = { y.beyond with grid := g } := by rw [h]
    exact this
  refine ⟨?_, ?_, fun q => ?_⟩
  · rw [b.beyond, gt _ _ u.grid a.beyond]
  · rcases b.chgr with k | k
    · rcases a.chgr with l | l
      · exact .inl (k.trans l)
      · exact .inr (chgr_off k l)
    · exact .inr k
  · have st := a.idle q
    have ru : chargerRuns t = false := by rw [runs_chgr st.chgr]; exact q
    have tu := b.idle ru
    unfold SameButFaults at st tu ⊢
    generalize t.grid = tg at st
    generalize u.grid = ug at tu ⊢
    generalize u.sys.readyPin = b1 at tu ⊢
    generalize u.sys.faultPin = b2 at tu ⊢
    generalize u.faults = b3 at tu ⊢
    generalize u.log = b4 at tu ⊢
    generalize u.uds.dtcClr = b5 at tu ⊢
    rw [tu, st]
theorem GridStep.same {s t : State} (h : SameButFaults s t) : GridStep s t := by
  have e := h.grid
  refine ⟨?_, .inl h.chgr, fun _ => ?_⟩
  · rw [h.beyond, e]
  · rw [e]; exact h
theorem GridStep.ite {p : Prop} [Decidable p] {s t u : State} (a : GridStep s t) (b : GridStep s u) : GridStep s (if p then t else u) := by split <;> assumption
theorem gridRecovered_same (s : State) : SameButFaults s (gridRecovered s) := by
  unfold gridRecovered
  split
  · exact (clearF_same _ _ _).trans (clearF_same _ _ _)
  · exact .refl _
theorem grid_ite {p : Prop} [Decidable p] {s t : State} : (if p then s else t).grid = if p then s.grid else t.grid := by split <;> rfl
theorem endCycle_step (s : State) : GridStep s (endCycle s) := by
  unfold endCycle
  lift_lets
  intro g n u1 b x2 u2 x3 u3
  have e1 : GridStep s u1 := GridStep.grid s _
  have e2 : GridStep s u2 := GridStep.grid s _
  have e3 : GridStep s u3 := GridStep.grid s _
  have k := GridStep.raise 0x3004 0 u3 (by decide) (by decide) (fun s => by simp [classOf, codesF0, codesF1, codesF2, codesF4]) true
  rw [Bool.true_and] at k
  exact GridStep.ite (GridStep.grid s _) (GridStep.ite (e3.trans k) e2)
theorem endCycle_w (s : State) : (endCycle s).grid.w = s.grid.w ∧ (endCycle s).grid.theta = s.grid.theta := by
  unfold endCycle
  dsimp only
  split
  · exact ⟨rfl, rfl⟩
  · split
    · split
      · rw [raise_grid]; exact ⟨rfl, rfl⟩
      · exact ⟨rfl, rfl⟩
    · exact ⟨rfl, rfl⟩
theorem pllStep_step (x : PfcVals) (s : State) : GridStep s (pllStep x s) := by
  unfold pllStep
  lift_lets
  intro ab g ts mag eps ahead wn w th wrap inF fine lockT errT lost lock u1 u2 okT g3 u3 u4
  have e1 : GridStep s u1 := GridStep.grid s _
  have e2 : GridStep u1 u2 := GridStep.ite (endCycle_step u1) (GridStep.same (.refl _))
  have e3 : GridStep u2 u3 := GridStep.grid u2 _
  have e4 : GridStep u3 u4 := GridStep.raise 0x3005 0 u3 (by decide) (by decide) (fun s => by simp [classOf, codesF0, codesF1, codesF2, codesF4]) lost
  exact ((e1.trans e2).trans (e3.trans e4)).trans (GridStep.same (gridRecovered_same u4))
theorem pllStep_w (x : PfcVals) (s : State) (e : Q) (he : e = divQ ((gridAB s x).2 * cosA s.grid.theta - (gridAB s x).1 * sinA s.grid.theta) (sqrtQ ((gridAB s x).1 * (gridAB s x).1 + (gridAB s x).2 * (gridAB s x).2))) :
    (pllStep x s).grid.w = s.grid.w + (if e = 0 then 0 else 60 * piQ) * (if e = 0 then 0 else 60 * piQ) * pfcTs s * e := by
  unfold pllStep
  lift_lets
  intro ab g ts mag eps ahead wn w th wrap inF fine lockT errT lost lock u1 u2 okT g3 u3 u4
  rw [(gridRecovered_same u4).grid]
  have h4 : u4.grid = u3.grid := by simp only [u4]; rw [grid_ite, raise_grid, ite_self]
  have h2 : u2.grid.w = w := by
    simp only [u2]
    rw [grid_ite]
    split
    · rw [(endCycle_w u1).1]
    · rfl
  rw [h4]
  show u2.grid.w = _
  rw [h2]
  simp only [w, wn, ts, eps, mag, ab, g, he]

theorem pfcCore_spec (x : PfcVals) (s : State) : (∃ es, es.length = 3 ∧ ((pfcCore x s).pwm.get 3).next = some es) ∧ (pfcCore x s).pfc.ia = s.pfc.ia ∧ (pfcCore x s).pfc.ib = s.pfc.ib ∧ (pfcCore x s).pfc.ic = s.pfc.ic ∧
    (pfcCore x s).pfc.st = s.pfc.st ∧ (pfcCore x s).pfc.lateRun = s.pfc.lateRun ∧ (pfcCore x s).grid = s.grid ∧ (pfcCore x s).beyond = s.beyond ∧ (pfcCore x s).faults = s.faults ∧ (pfcCore x s).dab = s.dab := by
  have len : ∀ a b c d e, (pfcValues s a b c d e).length = 3 := by
    intro a b c d e
    unfold pfcValues
    dsimp only
    split <;> rfl
  have ex : ∃ es, es.length = 3 ∧ ((pfcCore x s).pwm.get 3).next = some es := by
    have : ∃ a b c d e, (pfcCore x s).pwm = s.pwm.upd 3 (fun g => { g with next := some (pfcValues s a b c d e) }) := ⟨_, _, _, _, _, rfl⟩
    obtain ⟨a, b, c, d, e, h⟩ := this
    exact ⟨_, len a b c d e, by rw [h]; simp⟩
  refine ⟨ex, ?_⟩
  unfold pfcCore
  exact ⟨rfl, rfl, rfl, rfl, rfl, rfl, rfl, rfl, rfl⟩
/-- A DAB update that writes a shift (R276 to R279): within DELTA_MAX, its offsets committed. -/
theorem dabWrite_spec (d : Q) (u : State) : (writeDelta d u).dab.delta = d ∧ (writeDelta d u).dab.phi = roundQ (d * u.pu 0x20 4 12 / 2) ∧
    ((writeDelta d u).pwm.get 4).next = some (dabOffsets (u.pu 0x20 4 12) (roundQ (d * u.pu 0x20 4 12 / 2)) (writeDelta d u).dab.dp (writeDelta d u).dab.ds) ∧
    (writeDelta d u).dab.vbus = u.dab.vbus ∧ (writeDelta d u).dab.ibat = u.dab.ibat ∧ (writeDelta d u).beyond = u.beyond ∧ (writeDelta d u).faults = u.faults ∧ (writeDelta d u).dab.st = u.dab.st := by
  unfold writeDelta
  refine ⟨rfl, rfl, ?_, rfl, rfl, rfl, rfl, rfl⟩
  simp only [Tab.get_upd, if_true]
/-- A forward update commits a shift within DELTA_MAX in state 2 or 3; the one that ends a stop's ramp then turns both groups off (R278, R281). -/
theorem dabForward_spec (s : State) : ∃ d u, (dabForward s = writeDelta d u ∨ dabForward s = stopCharger (writeDelta d u)) ∧ (0 ≤ s.pf 0x50 1 48 → absQ d ≤ s.pf 0x50 1 48) ∧ u.beyond = s.beyond ∧ u.faults = s.faults ∧
    u.dab.vbus = s.dab.vbus ∧ u.dab.ibat = s.dab.ibat ∧ (u.dab.st = 2 ∨ u.dab.st = 3) := by
  delta dabForward
  lift_lets
  intro b t g now cap iCmd ev xvb0 iv0 xvb iv iRef ei xc0 ff d0 m d xc u
  refine ⟨d, { s with dab := { b with st := if iv < iCmd then 3 else 2, xvb := xvb, xc := xc, sag := decide (g < 1), iCmd := now } }, ?_, fun h => clampQ_abs _ _ h, rfl, rfl, rfl, rfl, ?_⟩
  · split
    · exact .inr rfl
    · exact .inl rfl
  · dsimp only
    split
    · exact .inr rfl
    · exact .inl rfl
theorem dabReverse_spec (s : State) : ∃ d u, dabReverse s = writeDelta d u ∧ (0 ≤ s.pf 0x50 1 48 → absQ d ≤ s.pf 0x50 1 48) ∧ u.beyond = s.beyond ∧ u.faults = s.faults ∧ u.dab.vbus = s.dab.vbus ∧ u.dab.ibat = s.dab.ibat ∧ u.dab.st = 4 := by
  unfold dabReverse
  refine ⟨_, _, rfl, fun h => ?_, rfl, rfl, rfl, rfl, rfl⟩
  rw [absQ_neg]
  cases s.obcT.iDis with
  | none => exact clampQ_abs _ _ h
  | some l =>
    dsimp only
    exact minQ_both (clampQ_abs _ _ h) (clampQ_abs _ _ h)
end Sys2Proof.Machine

/-! ### Charging sessions -/
namespace Sys2Proof.Machine
theorem SameButFaults.chg {s t : State} (h : SameButFaults s t) : t.chg = s.chg := by rw [h]
theorem SameButFaults.mode {s t : State} (h : SameButFaults s t) : t.sys.mode = s.sys.mode := by rw [h]
theorem stopGroup_chg (g : Grp) (s : State) : (stopGroup g s).chg = s.chg := by rw [stopGroup_only]
theorem stopSet_chg (t : TSet) (s : State) : (stopSet t s).chg = s.chg := by
  unfold stopSet
  split
  · exact stopGroup_chg _ _
  · rw [haltGroup_only]
theorem abortAct_chg (a : Act) (s : State) : (abortAct a s).chg = s.chg := by
  unfold abortAct
  split
  · rfl
  · rw [(raiseBase_same _ _ _ _).chg, stopGroup_chg]
theorem enterCharge_chg (s : State) : (enterMode .charge s).chg = s.chg := by
  unfold enterMode
  split
  · rfl
  · dsimp only
    rw [(pins_same _).chg]
    simp only [reduceCtorEq, false_and, if_false]
    have e : ∀ (c : Prop) [Decidable c] (u : State) (l : Lvc), (if c then ({ u with lvc := l } : State) else u).chg = u.chg := by intro c _ u l; split <;> rfl
    rw [e]
    unfold modeOutputs
    simp only [reduceCtorEq, if_false, if_true, true_or]
    simp only [or_false, if_false]
    rw [abortAct_chg, abortAct_chg, stopSet_chg, stopSet_chg, stopGroup_chg]
theorem lvCharge_spec (v : Q) (s : State) : SameButFaults { s with lvc := { s.lvc with cmd := some (min (roundN (s.pf 0x60 0 96 / 100)) 4095, min (roundN (v * 1000)) 65535) } } (lvCharge v s) := by
  have a : (min (roundN (s.pf 0x60 0 96 / 100)) 4095 * 65536 + min (roundN (v * 1000)) 65535) / 65536 % 4096 = min (roundN (s.pf 0x60 0 96 / 100)) 4095 := by omega
  have b : (min (roundN (s.pf 0x60 0 96 / 100)) 4095 * 65536 + min (roundN (v * 1000)) 65535) % 65536 = min (roundN (v * 1000)) 65535 := by omega
  unfold lvCharge lvcWrite
  dsimp only
  rw [a, b]
  split
  · exact raiseBase_same _ _ _ _
  · exact .refl _

theorem endCauses_nil (s : State) (h1 : s.chg.role = 1) (h2 : (s.chg.timer : Q) < s.pf 0x60 0 52 * 1000) (h3 : s.bmsLimits.2.2 = false) (h4 : s.veh.req.testBit (s.chg.role - 1) = true) (h7 : s.chg.pulseEnd = false) (h5 : s.connected = true) (h6 : s.chg.isoStop = false) : endCauses s false = [] := by
  have h2 : ¬(s.pf 0x60 0 52 * 1000 ≤ (s.chg.timer : Q)) := not_le.2 h2
  unfold endCauses
  rw [h1] at h4
  simp only [h1, h3, h4, h7, h5, h6, h2, decide_true, decide_false, Bool.and_false, Bool.true_and, Bool.false_eq_true, if_false, if_true, ne_eq, not_true_eq_false, List.append_nil]
end Sys2Proof.Machine
end

