-- ==== Sys2Proof/Laws/LvStages.lean ====
section
/-! SUPPORT. What starts and stops the LV converter, its phases and the actuators. -/

/-! ### The LV converter -/
namespace Sys2Proof.Machine
theorem clearFs_off (l : List Nat) (i c : Nat) (s : State) (h : c ≠ 0x001A) (m : c ∈ l) : active c i (l.foldl (fun s k => clearF k i s) s) = false := by
  have keep : ∀ (l : List Nat) (s : State), active c i s = false → active c i (l.foldl (fun s k => clearF k i s) s) = false := by
    intro l
    induction l with
    | nil => intro s k; exact k
    | cons a l ih =>
      intro s k
      refine ih _ ?_
      by_cases e : c = a
      · subst e; exact clearF_inactive _ _ _ h
      · rw [clearF_other _ _ _ _ _ h (fun x => e x.1)]; exact k
  induction l generalizing s with
  | nil => cases m
  | cons a l ih =>
    rw [List.foldl_cons]
    rcases List.mem_cons.1 m with rfl | m
    · exact keep _ _ (clearF_inactive _ _ _ h)
    · exact ih _ m
theorem clearLv_same (s : State) : SameButFaults s (clearLvFaults s) := clearFs_same noInst _ s
theorem clearLv_off (s : State) (c : Nat) (m : 0x3801 ≤ c ∧ c ≤ 0x380A) : active c noInst (clearLvFaults s) = false := by
  refine clearFs_off _ noInst c s (by omega) ?_
  obtain ⟨a, b⟩ := m
  have : c = 0x3801 ∨ c = 0x3802 ∨ c = 0x3803 ∨ c = 0x3804 ∨ c = 0x3805 ∨ c = 0x3806 ∨ c = 0x3807 ∨ c = 0x3808 ∨ c = 0x3809 ∨ c = 0x380A := by omega
  simp only [List.mem_cons, List.not_mem_nil, or_false]
  exact this
/-- The rectifiers that follow the load estimate change their outputs, their carrier and SR_ON alone (R299). -/
theorem setSr_parts (s : State) : setSr s = { s with gd := (setSr s).gd, pwm := (setSr s).pwm, lvc := { s.lvc with srOn := (setSr s).lvc.srOn } } := by
  unfold setSr
  split
  · rfl
  · dsimp only
    rw [stopChan_only, stopChan_only]
/-- Step 1 of R307: the DCX runs at twice F_DCX, the LV permits are back, no fault of the converter is active. -/
theorem lvBegin_spec (s : State) : SameButFaults { s with gd := (lvBegin s).gd, pwm := (lvBegin s).pwm, lvc := { s.lvc with due := false, f3Stop := false, dcx := 1, buck := 0, retries := 0, freq := 2 * s.pf 0x58 0 0, srOn := (lvBegin s).lvc.srOn }, saf := { s.saf with lvC := true, lvP := true } } (lvBegin s) ∧
    ∀ c, 0x3801 ≤ c → c ≤ 0x380A → active c noInst (lvBegin s) = false := by
  have sm := clearLv_same s
  have of := clearLv_off s
  unfold lvBegin
  generalize clearLvFaults s = u at sm of ⊢
  have sp := setSr_parts { u with lvc := { u.lvc with due := false, f3Stop := false, dcx := 1, buck := 0, retries := 0, freq := 2 * u.pf 0x58 0 0, srOn := false }, saf := { u.saf with lvC := true, lvP := true }, pwm := u.pwm.upd 5 (fun g => { g with running := true }) }
  dsimp only
  generalize setSr { u with lvc := { u.lvc with due := false, f3Stop := false, dcx := 1, buck := 0, retries := 0, freq := 2 * u.pf 0x58 0 0, srOn := false }, saf := { u.saf with lvC := true, lvP := true }, pwm := u.pwm.upd 5 (fun g => { g with running := true }) } = v at sp ⊢
  have vf : v.faults = u.faults := by rw [sp]
  refine ⟨?_, fun c a b => (active_of vf c noInst).trans (of c ⟨a, b⟩)⟩
  generalize v.gd = b1 at sp ⊢
  generalize v.pwm = b2 at sp ⊢
  generalize v.lvc.srOn = b3 at sp ⊢
  rw [sp]
  unfold SameButFaults at sm ⊢
  dsimp only
  generalize u.sys.readyPin = a1 at sm ⊢
  generalize u.sys.faultPin = a2 at sm ⊢
  generalize u.faults = a3 at sm ⊢
  generalize u.log = a4 at sm ⊢
  generalize u.uds.dtcClr = a5 at sm ⊢
  rw [sm]
  rfl
/-- The buck stops: its phases leave no work behind, and the rectifiers follow (R299, R310). -/
theorem stopBuck_parts (k : Nat) (s : State) : stopBuck k s = { s with gd := (stopBuck k s).gd, pwm := (stopBuck k s).pwm, lvc := { s.lvc with buck := k, act := [], held := [], delay := Tab.fill 0, waiting := [], slots := [], resp := 0, ilim := false, fold := false, ovHold := false, ssRate := 0, srOn := (stopBuck k s).lvc.srOn } } := by
  unfold stopBuck
  dsimp only
  conv_lhs => rw [setSr_parts]
  rw [stopChans_only]
theorem stopLv_parts (f : Bool) (s : State) : stopLv f s = { s with gd := (stopLv f s).gd, lvc := (stopLv f s).lvc, pwm := (stopLv f s).pwm, saf := (stopLv f s).saf } ∧ (stopLv f s).lvc.dcx = 0 ∧ (stopLv f s).lvc.buck = 0 ∧ (stopLv f s).lvc.due = false ∧ (stopLv f s).lvc.act = [] ∧
    (f = true → (stopLv f s).saf.lvC = false ∧ (stopLv f s).saf.lvP = false) ∧ (f = false → (stopLv f s).saf = s.saf) := by
  have h1 := stopDcx_parts (stopBuck 0 s)
  have h2 := stopBuck_parts 0 s
  unfold stopLv
  generalize stopBuck 0 s = u at h1 h2 ⊢
  generalize stopDcx u = v at h1 ⊢
  generalize u.gd = ug at h2
  generalize u.pwm = up at h1 h2
  generalize u.lvc.srOn = us at h2
  generalize v.gd = vg at h1
  rw [h1, h2]
  cases f <;> refine ⟨rfl, rfl, rfl, rfl, rfl, fun h => ?_, fun h => ?_⟩ <;> first | rfl | exact ⟨rfl, rfl⟩ | cases h
/-- Every output of the buck is off once it stops (R310). -/
theorem stopBuck_outputs (k : Nat) (s : State) (d : Chan) (h : grpOf d = 7) : (stopBuck k s).gd.offAt d := by
  have q := stopChans_off (grpChans 7) s d (List.mem_filter.2 ⟨by unfold allChans; simp, by simp [h]⟩)
  unfold stopBuck
  dsimp only
  refine setSr_offAt _ _ ?_
  generalize List.foldl stopChan s (grpChans 7) = w at q ⊢
  exact q
theorem stopLv_outputs (f : Bool) (s : State) (d : Chan) (h : grpOf d = 7 ∨ (27 ≤ d.val ∧ d.val < 31)) : (stopLv f s).gd.offAt d := by
  have b : (stopDcx (stopBuck 0 s)).gd.offAt d := by
    rcases h with h | h
    · exact stopDcx_offAt _ _ (stopBuck_outputs 0 s d h)
    · generalize stopBuck 0 s = u
      have st : ∀ (l : List Nat) (u : State), d.val ∈ l → (∀ k ∈ l, k < 55) → (l.foldl (fun s k => stopChan s (chanAt k)) u).gd.offAt d := by
        intro l
        induction l with
        | nil => intro u m; cases m
        | cons a l ih =>
          intro u m q
          rw [List.foldl_cons]
          rcases List.mem_cons.1 m with e | m
          · refine offAt_foldl (fun s a k => stopChan_offAt _ _ _ k) l ?_
            have : chanAt a = d := by
              apply Fin.ext
              have := q a List.mem_cons_self
              unfold chanAt
              show a % 55 = _
              omega
            rw [this]
            unfold stopChan; exact updCh_offAt _ _ _ _ (fun _ h => h) (offSink_self _ _)
          · exact ih _ m (fun k hk => q k (List.mem_cons_of_mem _ hk))
      have := st [27, 28, 29, 30] u (by simp; omega) (by decide)
      unfold stopDcx
      exact this
  unfold stopLv
  dsimp only
  split <;> exact b
/-- A fault of the converter that stops it whole, at its first detection (R300). -/
theorem raise_stopLv (code m : Nat) (s : State) (h : code = 0x3801 ∨ code = 0x3802 ∨ code = 0x380A) (k : active code noInst s = false) :
    (raise code noInst m s).lvc.dcx = 0 ∧ (raise code noInst m s).lvc.buck = 0 ∧ (raise code noInst m s).saf.lvC = false ∧ (raise code noInst m s).saf.lvP = false := by
  have cl : ∀ s, classOf s code noInst = 3 := by rcases h with rfl | rfl | rfl <;> intro s <;> simp [classOf, codesF0, codesF1, codesF2, codesF4]
  unfold raise raiseBy
  simp only [k, Bool.not_false, if_true, cl]
  have e : ∀ u, (pins u).lvc = u.lvc ∧ (pins u).saf = u.saf := fun u => by have := pins_same u; unfold SameButFaults at this; rw [this]; exact ⟨rfl, rfl⟩
  rw [(e _).1, (e _).2]
  have rf (u : State) : reactF3 code noInst u = stopLv true u := by
    rcases h with rfl | rfl | rfl <;> rfl
  rw [rf]
  obtain ⟨-, b, c, -, -, f, -⟩ := stopLv_parts true (raiseBaseBy (code / 2048) code noInst m s)
  exact ⟨b, c, (f rfl).1, (f rfl).2⟩

theorem turnOff_only (c : Chan) (s : State) : turnOff c s = { s with gd := (turnOff c s).gd } := by
  unfold turnOff turnOffAt
  split <;> rfl
theorem drvOn_only (c : Chan) (s : State) : drvOn c s = { s with gd := (drvOn c s).gd } := rfl
/-- Changes of the gate drive alone follow each other. -/
theorem gd_trans {s t u : State} (a : t = { s with gd := t.gd }) (b : u = { t with gd := u.gd }) : u = { s with gd := u.gd } := by rw [b, a]
theorem gdOnly_ite {p : Prop} [Decidable p] {s t u : State} (a : t = { s with gd := t.gd }) (b : u = { s with gd := u.gd }) : (if p then t else u) = { s with gd := (if p then t else u).gd } := by
  split <;> assumption
theorem legOff_only (c p : Chan) (s : State) : legOff c p s = { s with gd := (legOff c p s).gd } :=
  gd_trans (gd_trans (gd_trans (gd_trans (offSink_only p s) (offSink_only c _)) (updCh_only _ _ _)) (updCh_only _ _ _)) (updCh_only _ _ _)
theorem turnOn_only (c : Chan) (s : State) : turnOn c s = { s with gd := (turnOn c s).gd } := by
  have d (w : State) : drvOn c w = { w with gd := (drvOn c w).gd } := drvOn_only c w
  unfold turnOn
  refine gdOnly_ite rfl ?_
  dsimp only
  have u := updCh_only s c (fun x => { x with cmd := true, linkOk := true })
  generalize s.updCh c (fun x => { x with cmd := true, linkOk := true }) = v at u ⊢
  refine gdOnly_ite u (gdOnly_ite (gd_trans u (updCh_only _ _ _)) ?_)
  cases partner c with
  | none => exact gd_trans u (d v)
  | some p => exact gdOnly_ite (gd_trans u (legOff_only c p v)) (gdOnly_ite (gd_trans u (updCh_only _ _ _)) (gd_trans u (d v)))
theorem turnOff_gd (c : Chan) (s : State) : (turnOff c s).gd = if (s.gd.ch.get c).out = .on then (s.updCh c (fun x => { x with cmd := false, out := .off, clamp := s.clampOn c, drive := sinkSeq s c, acc := x.acc + s.offEnergy c (s.onNs c) })).gd else (s.updCh c (fun x => { x with cmd := false })).gd := by
  unfold turnOff turnOffAt
  split <;> rfl
theorem turnOff_self (c : Chan) (s : State) : (turnOff c s).gd.offAt c := by
  unfold Gd.offAt
  rw [turnOff_gd]
  split
  · rw [updCh_gets, if_pos rfl]; simp
  · rename_i h; rw [updCh_gets, if_pos rfl]; exact h
theorem turnOff_offAt (c d : Chan) (s : State) (h : s.gd.offAt d) : (turnOff c s).gd.offAt d := by
  unfold Gd.offAt
  rw [turnOff_gd]
  split
  · rw [updCh_gets]; split
    · simp
    · exact h
  · rw [updCh_gets]; split
    · rename_i e; rw [← e]; exact h
    · exact h
theorem turnOn_offAt (c d : Chan) (s : State) (n : d ≠ c) (h : s.gd.offAt d) : (turnOn c s).gd.offAt d := by
  have u : ∀ (s : State) f, s.gd.offAt d → (s.updCh c f).gd.offAt d := by
    intro s f k; unfold Gd.offAt; rw [updCh_gets, if_neg n]; exact k
  have l : ∀ p (s : State), s.gd.offAt d → (legOff c p s).gd.offAt d := by
    intro p s k
    unfold legOff
    refine updCh_offAt _ _ _ _ (fun x h => h) ?_
    refine updCh_offAt _ _ _ _ (fun x h => h) ?_
    exact updCh_offAt _ _ _ _ (fun x h => h) (offSink_offAt _ _ _ (offSink_offAt _ _ _ k))
  unfold turnOn
  split
  · exact h
  · dsimp only
    split
    · exact u _ _ h
    · split
      · exact u _ _ (u _ _ h)
      · split
        · split
          · exact l _ _ (u _ _ h)
          · split
            · exact u _ _ (u _ _ h)
            · exact u _ _ (u _ _ h)
        · exact u _ _ (u _ _ h)
theorem buck_ne (n m : Fin 6) : buckLow n ≠ buckHigh m := by revert n m; decide
/-- Every phase of a list switches one side off and the other on: the first sides are off, nothing but the gate drive changes (R312, R313). -/
theorem phases_switch (off on : Fin 6 → Chan) (ne : ∀ n m, off n ≠ on m) (l : List (Fin 6)) (s : State) :
    (∀ n ∈ l, (l.foldl (fun s n => turnOn (on n) (turnOff (off n) s)) s).gd.offAt (off n)) ∧
    l.foldl (fun s n => turnOn (on n) (turnOff (off n) s)) s = { s with gd := (l.foldl (fun s n => turnOn (on n) (turnOff (off n) s)) s).gd } := by
  have keep : ∀ (l : List (Fin 6)) (s : State) n, s.gd.offAt (off n) → (l.foldl (fun s n => turnOn (on n) (turnOff (off n) s)) s).gd.offAt (off n) := by
    intro l s n h
    exact offAt_foldl (fun s a k => turnOn_offAt _ _ _ (ne n a) (turnOff_offAt _ _ _ k)) l h
  refine ⟨?_, ?_⟩
  · induction l generalizing s with
    | nil => intro n m; cases m
    | cons a l ih =>
      intro n m
      rw [List.foldl_cons]
      rcases List.mem_cons.1 m with rfl | m
      · exact keep l _ _ (turnOn_offAt _ _ _ (ne _ _) (turnOff_self _ _))
      · exact ih _ n m
  · induction l generalizing s with
    | nil => rfl
    | cons a l ih =>
      rw [List.foldl_cons, ih, turnOn_only, turnOff_only]
theorem phases_off (l : List (Fin 6)) (s : State) :
    (∀ n ∈ l, (l.foldl (fun s n => turnOff (buckLow n) (turnOff (buckHigh n) s)) s).gd.offAt (buckLow n) ∧ (l.foldl (fun s n => turnOff (buckLow n) (turnOff (buckHigh n) s)) s).gd.offAt (buckHigh n)) ∧
    l.foldl (fun s n => turnOff (buckLow n) (turnOff (buckHigh n) s)) s = { s with gd := (l.foldl (fun s n => turnOff (buckLow n) (turnOff (buckHigh n) s)) s).gd } := by
  have keep : ∀ (l : List (Fin 6)) (s : State) d, s.gd.offAt d → (l.foldl (fun s n => turnOff (buckLow n) (turnOff (buckHigh n) s)) s).gd.offAt d := by
    intro l s d h
    exact offAt_foldl (fun s a k => turnOff_offAt _ _ _ (turnOff_offAt _ _ _ k)) l h
  refine ⟨?_, ?_⟩
  · induction l generalizing s with
    | nil => intro n m; cases m
    | cons a l ih =>
      intro n m
      rw [List.foldl_cons]
      rcases List.mem_cons.1 m with rfl | m
      · exact ⟨keep l _ _ (turnOff_self _ _), keep l _ _ (turnOff_offAt _ _ _ (turnOff_self _ _))⟩
      · exact ih _ n m
  · induction l generalizing s with
    | nil => rfl
    | cons a l ih =>
      rw [List.foldl_cons, ih, turnOff_only, turnOff_only]

theorem SameButFaults.of_eq {s t : State} (h : t = s) : SameButFaults s t := by rw [h]; exact .refl _
theorem raise_low' {code i m : Nat} {u v : State} (cl : ∀ s, classOf s code i < 3) (g : ¬(0x2803 ≤ code ∧ code ≤ 0x280C)) (h : u = v) : SameButFaults v (raise code i m u) := by rw [h]; exact raise_low_same _ _ _ _ cl g
theorem clampQ_mem (lo hi x : Q) (h : lo ≤ hi) : lo ≤ clampQ lo hi x ∧ clampQ lo hi x ≤ hi := by
  unfold clampQ
  split
  · exact ⟨le_refl _, h⟩
  · split
    · exact ⟨h, le_refl _⟩
    · exact ⟨not_lt.1 ‹_›, not_lt.1 ‹_›⟩

theorem actHalt_off (a : Act) (s : State) (d : Chan) (h : grpOf d = a.grp) : (actHalt a s).gd.offAt d := offGroup a.grp _ d h
/-- A bridge that stops: outputs off, the fault active, every other fault still active. -/
theorem actStop_spec (a : Act) (code : Nat) (s u : State) (f : u.faults = s.faults) (b : u.beyond = s.beyond)
    (hf : code ≠ 0x680A := by decide) (hq : code ≠ 0x7002 := by decide) :
    (∀ d, grpOf d = a.grp → ((actStop a code u).gd.ch.get d).out ≠ .on) ∧ active code a.num (actStop a code u) = true ∧ Grows s (actStop a code u) ∧ (actStop a code u).beyond = s.beyond := by
  have h1 : (actHalt a u).faults = s.faults := (actHalt_faults a u).trans f
  have h2 : (actHalt a u).beyond = s.beyond := (actHalt_beyond a u).trans b
  have h3 := actHalt_off a u
  unfold actStop
  generalize actHalt a u = v at h1 h2 h3 ⊢
  exact ⟨fun d hd => raise_offAt _ _ _ _ _ (h3 d hd), raise_active _ _ _ _, (Grows.of_eq h1).trans (raise_grows _ _ _ _), (raise_beyond _ _ _ _ hf hq).trans h2⟩

theorem acceptSeq_spec (a : Act) (q : Nat) (s : State) :
    (∀ c i, c ≠ 0x001A → ¬(0x5001 ≤ c ∧ c ≤ 0x5009) → active c i (acceptSeq a q s) = active c i s) ∧ SameButFaults { s with act := s.act.upd a (fun x => { x with seq := q, retries := 0, second := false, held := 0, reqNs := s.mer.ns }) } (acceptSeq a q s) ∧
    (∀ c, 0x5001 ≤ c → c ≤ 0x5009 → active c a.num (acceptSeq a q s) = false) ∧ (acceptSeq a q s).act = s.act.upd a (fun x => { x with seq := q, retries := 0, second := false, held := 0, reqNs := s.mer.ns }) := by
  have sm := clearFs_same a.num [0x5001, 0x5002, 0x5003, 0x5004, 0x5005, 0x5006, 0x5007, 0x5008, 0x5009] s
  have of : ∀ c, 0x5001 ≤ c → c ≤ 0x5009 → active c a.num ([0x5001, 0x5002, 0x5003, 0x5004, 0x5005, 0x5006, 0x5007, 0x5008, 0x5009].foldl (fun s c => clearF c a.num s) s) = false := by
    intro c x y
    refine clearFs_off _ _ _ _ (by omega) ?_
    simp only [List.mem_cons, List.not_mem_nil, or_false]
    omega
  have ot : ∀ c i, c ≠ 0x001A → ¬(0x5001 ≤ c ∧ c ≤ 0x5009) → active c i ([0x5001, 0x5002, 0x5003, 0x5004, 0x5005, 0x5006, 0x5007, 0x5008, 0x5009].foldl (fun s c => clearF c a.num s) s) = active c i s := by
    intro c i x y
    refine clearFs_other _ _ _ _ _ x ?_
    simp only [List.mem_cons, List.not_mem_nil, or_false]
    omega
  unfold acceptSeq
  dsimp only
  generalize ([0x5001, 0x5002, 0x5003, 0x5004, 0x5005, 0x5006, 0x5007, 0x5008, 0x5009] : List Nat).foldl (fun s c => clearF c a.num s) s = u at sm of ot ⊢
  have ua : u.act = s.act := by rw [sm]
  have um : u.mer = s.mer := by rw [sm]
  refine ⟨fun c i x y => ot c i x y, ?_, fun c x y => of c x y, by rw [ua, um]⟩
  rw [ua, um]
  unfold SameButFaults at sm ⊢
  generalize u.sys.readyPin = a1 at sm ⊢
  generalize u.sys.faultPin = a2 at sm ⊢
  generalize u.faults = a3 at sm ⊢
  generalize u.log = a4 at sm ⊢
  generalize u.uds.dtcClr = a5 at sm ⊢
  rw [sm]
/-- What an accepted request leaves, after any last change of the actuator. -/
theorem accepted (a : Act) (q rid : Nat) (src : ReqSrc) (s : State) (f : Tab Act ActSt → Tab Act ActSt) (h : srcAllowed s src rid = true) :
    SameButFaults (match src with | .msg => { s with act := f (acceptSeq a q s).act } | .uds p => { s with act := f (acceptSeq a q s).act, out := .uds p (s.udsResp p) [0x71, 0x01, BitVec.ofNat 8 (rid / 256), BitVec.ofNat 8 rid] :: s.out }) { answerSeq src rid (acceptSeq a q s) with act := f (answerSeq src rid (acceptSeq a q s)).act } ∧
    (answerSeq src rid (acceptSeq a q s)).act = (acceptSeq a q s).act ∧ (answerSeq src rid (acceptSeq a q s)).cat = s.cat ∧ (answerSeq src rid (acceptSeq a q s)).pos = s.pos ∧ (answerSeq src rid (acceptSeq a q s)).gd = s.gd ∧
    ∀ c, 0x5001 ≤ c → c ≤ 0x5009 → active c a.num (answerSeq src rid (acceptSeq a q s)) = false := by
  obtain ⟨ot, sm, of, ac⟩ := acceptSeq_spec a q s
  generalize acceptSeq a q s = u at ot sm of ac ⊢
  cases src with
  | msg =>
    refine ⟨?_, rfl, (by rw [sm] : u.cat = s.cat), (by rw [sm] : u.pos = s.pos), (by rw [sm] : u.gd = s.gd), of⟩
    unfold answerSeq
    dsimp only
    unfold SameButFaults at sm ⊢
    generalize u.act = a0 at sm ⊢
    generalize u.sys.readyPin = a1 at sm ⊢
    generalize u.sys.faultPin = a2 at sm ⊢
    generalize u.faults = a3 at sm ⊢
    generalize u.log = a4 at sm ⊢
    generalize u.uds.dtcClr = a5 at sm ⊢
    rw [sm]
  | uds p =>
    have sv : u.udsServed p = true := by
      have k : s.routineNrc p rid = 0 := by simpa [srcAllowed, State.routineAllowed] using h
      exact ((SameButFaults.served sm (fun c i x => ot c i (by omega) (by omega)) p).trans rfl).trans (routine_served k)
    unfold answerSeq
    dsimp only
    rw [udsPos_eq sv]
    refine ⟨?_, rfl, (by rw [sm] : u.cat = s.cat), (by rw [sm] : u.pos = s.pos), (by rw [sm] : u.gd = s.gd), of⟩
    have uo : u.out = s.out := by rw [sm]
    have ur : u.udsResp p = s.udsResp p := by rw [sm]; rfl
    dsimp only
    rw [ur]
    unfold SameButFaults at sm ⊢
    dsimp only
    rw [uo]
    generalize u.act = a0 at sm ⊢
    generalize u.sys.readyPin = a1 at sm ⊢
    generalize u.sys.faultPin = a2 at sm ⊢
    generalize u.faults = a3 at sm ⊢
    generalize u.log = a4 at sm ⊢
    generalize u.uds.dtcClr = a5 at sm ⊢
    rw [sm]
theorem refuseSeq_spec (a : Act) (src : ReqSrc) (s : State) :
    active 0x5007 a.num (refuseSeq a src s) = true ∧ SameButFaults (match src with | .msg => noteRefuse 7 s | .uds p => udsNeg p 0x31 0x22 s) (refuseSeq a src s) := by
  have sm := raise_low_same 0x5007 a.num 0 s (fun s => by simp [classOf, codesF0]) (by decide)
  have ac := raise_active 0x5007 a.num 0 s
  have ot : ∀ c i, c = 0x6003 ∨ c = 0x7002 → active c i (raise 0x5007 a.num 0 s) = active c i s := fun c i x => raise_low_other _ _ _ _ _ _ (fun s => by simp [classOf, codesF0]) (by decide) (by omega) (by omega)
  unfold refuseSeq
  generalize raise 0x5007 a.num 0 s = u at sm ac ot ⊢
  dsimp only
  cases src with
  | msg =>
    refine ⟨ac, ?_⟩
    unfold noteRefuse
    have uv : u.veh = s.veh := by rw [sm]
    rw [uv]
    unfold SameButFaults at sm ⊢
    dsimp only
    generalize u.sys.readyPin = a1 at sm ⊢
    generalize u.sys.faultPin = a2 at sm ⊢
    generalize u.faults = a3 at sm ⊢
    generalize u.log = a4 at sm ⊢
    generalize u.uds.dtcClr = a5 at sm ⊢
    rw [sm]
  | uds p =>
    have sv : u.udsServed p = s.udsServed p := SameButFaults.served sm (fun c i x => ot c i x) p
    have ur : u.udsResp p = s.udsResp p := by rw [sm]; rfl
    have uo : u.out = s.out := by rw [sm]
    unfold udsNeg send
    dsimp only
    rw [sv, uo, ur]
    by_cases k : s.udsServed p = true
    · rw [if_pos k, if_pos k]
      refine ⟨ac, ?_⟩
      unfold SameButFaults at sm ⊢
      dsimp only
      generalize u.sys.readyPin = a1 at sm ⊢
      generalize u.sys.faultPin = a2 at sm ⊢
      generalize u.faults = a3 at sm ⊢
      generalize u.log = a4 at sm ⊢
      generalize u.uds.dtcClr = a5 at sm ⊢
      rw [sm]
    · rw [if_neg k, if_neg k]; exact ⟨ac, sm⟩

/-- A move starts: toward its target, in its first phase, or braking where it is already within POS_TOL of the target (R369). -/
theorem stroke_spec (a : Act) (neg : Bool) (tgt : Int) (ph : ActPhase) (u : State) :
    stroke a neg tgt ph u = { u with act := (stroke a neg tgt ph u).act } ∧
    ((stroke a neg tgt ph u).act.get a).seq = (u.act.get a).seq ∧ ((stroke a neg tgt ph u).act.get a).target = tgt ∧ ((stroke a neg tgt ph u).act.get a).neg = neg ∧
    ((stroke a neg tgt ph u).act.get a).retries = (u.act.get a).retries ∧ ((stroke a neg tgt ph u).act.get a).d = 0 ∧
    ((stroke a neg tgt ph u).act.get a).phase = if ph = .moving ∧ (u.act.get a).ref.isSome = true ∧ within u a (actPos u a) tgt = true then .braking else ph := by
  unfold stroke arrive
  have pa : ∀ x : ActSt, x.ref = (u.act.get a).ref → actPos ({ u with act := u.act.put a x } : State) a = actPos u a := fun x h => by
    unfold actPos actCount; simp [h]
  dsimp only
  generalize hx : (u.act.upd a (fun x => { x with phase := ph, neg := neg, fwd := neg, target := tgt, crossed := false, d := 0, dTgt := 0, ilim := false, peakRun := 0, cut := false })) = T
  have g : T.get a = { u.act.get a with phase := ph, neg := neg, fwd := neg, target := tgt, crossed := false, d := 0, dTgt := 0, ilim := false, peakRun := 0, cut := false } := by rw [← hx]; simp
  have ps : actPos ({ u with act := T } : State) a = actPos u a := by unfold actPos actCount; rw [g]
  have wi : within ({ u with act := T } : State) a (actPos u a) tgt = within u a (actPos u a) tgt := rfl
  rw [ps, g]
  dsimp only
  rw [wi]
  split
  · exact ⟨rfl, by simp [brake, g], by simp [brake, g], by simp [brake, g], by simp [brake, g], by simp [brake], by simp [brake]⟩
  · exact ⟨rfl, by simp [g], by simp [g], by simp [g], by simp [g], by simp [g], by simp [g]⟩
/-- An accepted request starts its first move. -/
theorem stroke_accepted (a : Act) (q rid k : Nat) (src : ReqSrc) (s : State) (h : srcAllowed s src rid = true) :
    let u := answerSeq src rid (acceptSeq a q s)
    let t := stroke a (strokeNeg u a k) (posOf u a k) (firstPhase u a) u
    (t.act.get a).seq = q ∧ (t.act.get a).phase = (if firstPhase s a = .moving ∧ (s.act.get a).ref.isSome = true ∧ within s a (actPos s a) (posOf s a k) = true then .braking else firstPhase s a) ∧
    (t.act.get a).target = posOf s a k ∧ (t.act.get a).neg = strokeNeg { s with act := s.act.upd a (fun x => { x with seq := q }) } a k ∧ (t.act.get a).retries = 0 ∧ (t.act.get a).d = 0 ∧
    (∀ c, 0x5001 ≤ c → c ≤ 0x5009 → active c a.num t = false) ∧
    SameButFaults (match src with | .msg => { s with act := t.act } | .uds p => { s with act := t.act, out := .uds p (s.udsResp p) [0x71, 0x01, BitVec.ofNat 8 (rid / 256), BitVec.ofNat 8 rid] :: s.out }) t := by
  obtain ⟨-, -, -, ac⟩ := acceptSeq_spec a q s
  have ha : ∀ f : Tab Act ActSt → Tab Act ActSt, _ := fun f => accepted a q rid src s f h
  generalize hv : acceptSeq a q s = v at ha ac
  generalize hu : answerSeq src rid v = u at ha
  have uact : u.act = v.act := (ha id).2.1
  have ucat : u.cat = s.cat := (ha id).2.2.1
  have upos : u.pos = s.pos := (ha id).2.2.2.1
  have ugd : u.gd = s.gd := (ha id).2.2.2.2.1
  have of := (ha id).2.2.2.2.2
  have pz : ∀ j, posOf u a j = posOf s a j := fun j => by unfold posOf State.pi State.payload; rw [ucat]
  have p2 : firstPhase u a = firstPhase s a := by unfold firstPhase State.diagDue State.pu State.pb State.payload; rw [ucat, ugd]
  have rf : (u.act.get a).ref = (s.act.get a).ref := by rw [uact, ac]; simp
  have pa : actPos u a = actPos s a := by unfold actPos actCount; rw [upos, rf]
  have wi : within u a (actPos s a) (posOf s a k) = within s a (actPos s a) (posOf s a k) := by unfold within State.pu State.pb State.payload; rw [ucat]
  have p3 : strokeNeg u a k = strokeNeg { s with act := s.act.upd a (fun x => { x with seq := q }) } a k := by
    have pa' : actPos ({ s with act := s.act.upd a (fun x => { x with seq := q }) } : State) a = actPos s a := by unfold actPos actCount; simp
    have ps : ∀ j, posOf ({ s with act := s.act.upd a (fun x => { x with seq := q }) } : State) a j = posOf s a j := fun j => rfl
    have sq : (u.act.get a).seq = q := by rw [uact, ac]; simp
    unfold strokeNeg
    rw [rf, pa]
    simp only [pa', ps, pz, Tab.get_upd, if_true]
    cases a
    · rfl
    · have sq' : (u.act.get Act.shift).seq = q := sq
      simp only [sq']
      rfl
  obtain ⟨e1, e2, e3, e4, e5, e6, e7⟩ := stroke_spec a (strokeNeg u a k) (posOf u a k) (firstPhase u a) u
  rw [pz, p2, p3] at e1 e2 e3 e4 e5 e6 e7
  rw [pa, rf, wi] at e7
  dsimp only
  rw [pz, p2, p3]
  refine ⟨e2.trans (by rw [uact, ac]; simp), e7, e3, e4, e5.trans (by rw [uact, ac]; simp), e6, ?_, ?_⟩
  · intro c x y
    rw [e1]
    exact of c x y
  · generalize stroke a (strokeNeg { s with act := s.act.upd a (fun x => { x with seq := q }) } a k) (posOf s a k) (firstPhase s a) u = w at e1 ⊢
    have sm := (ha (fun _ => w.act)).1
    rw [e1]
    dsimp only
    subst hv
    exact sm
end Sys2Proof.Machine
end

