-- ==== Sys2Proof/Laws/Conservator.lean ====
section
/-! SUPPORT. What a step of the Conservator writes, and what an edge of a safety input does. -/

namespace Sys2Proof.Machine
/-- Only the thermal state, the free index and what a fault touches have changed. -/
def ThmStep (s t : State) : Prop := t.beyond = { s.beyond with thm := t.thm, freeIx := t.freeIx }
theorem ThmStep.refl (s : State) : ThmStep s s := rfl
theorem ThmStep.trans {s t u : State} (a : ThmStep s t) (b : ThmStep t u) : ThmStep s u := by unfold ThmStep at *; rw [a] at b; exact b
theorem ThmStep.of_beyond {s t : State} (h : t.beyond = s.beyond) : ThmStep s t := by
  have h1 : t.thm = s.thm := congrArg Beyond.thm h
  have h2 : t.freeIx = s.freeIx := congrArg Beyond.freeIx h
  unfold ThmStep; rw [h1, h2, h]; rfl
theorem ThmStep.cat {s t : State} (h : ThmStep s t) : t.cat = s.cat := congrArg Beyond.cat h
theorem ThmStep.foldl {α : Type} {f : State → α → State} (h : ∀ s a, ThmStep s (f s a)) (l : List α) (s : State) : ThmStep s (l.foldl f s) := by
  induction l generalizing s with
  | nil => exact .refl s
  | cons a l ih => exact (h s a).trans (ih _)
theorem foldl_part {α β : Type} {f : State → α → State} (g : State → β) (h : ∀ s a, g (f s a) = g s) (l : List α) (s : State) : g (l.foldl f s) = g s := by
  induction l generalizing s with
  | nil => rfl
  | cons a l ih => rw [List.foldl_cons, ih, h]
theorem Tab.get_updAll {κ α : Type} [DecidableEq κ] (ks : List κ) (f : κ → α → α) (t : Tab κ α) (h : ks.Nodup) (k : κ) : (t.updAll ks f).get k = if k ∈ ks then f k (t.get k) else t.get k := by
  unfold Tab.updAll
  induction ks generalizing t with
  | nil => simp
  | cons a l ih =>
    rw [List.foldl_cons, ih _ h.of_cons, Tab.get_upd]
    have na : a ∉ l := (List.nodup_cons.1 h).1
    by_cases e : k = a
    · subst e; simp [na]
    · simp [e]
theorem flagFault_beyond (code : Nat) (c : Chan) (o n : Bool) (s : State) (hf : code ≠ 0x680A := by decide) (hq : code ≠ 0x7002 := by decide) : (flagFault code c o n s).beyond = s.beyond := by
  unfold flagFault; split <;> [exact raise_beyond _ _ _ _ hf hq; (split <;> simp)]
theorem guardFault_beyond (code i : Nat) (r : Nat × Nat) (s : State) (hf : code ≠ 0x680A := by decide) (hq : code ≠ 0x7002 := by decide) : (guardFault code i r s).beyond = s.beyond := by
  unfold guardFault; split <;> [exact raise_beyond _ _ _ _ hf hq; (split <;> simp)]
/-- The thermal state without the runs of the guarded temperatures. -/
def Thm.main (x : Thm) : Nat × Nat × Tab (Fin 96) HkSlot × Tab Chan SwTh × Tab Chan Anchor × Tab (Fin 8) (Option Q) × Tab (Fin 8) (Option Q) := (x.rounds, x.missed, x.slots, x.sw, x.anchors, x.limits, x.lastFull)
theorem ThmStep.after {s u v : State} (h : v.beyond = u.beyond) (a : ThmStep s u) : ThmStep s v := a.trans (.of_beyond h)
theorem main_of {u v : State} (h : v.beyond = u.beyond) : v.thm.main = u.thm.main := by rw [show v.thm = u.thm from congrArg Beyond.thm h]
theorem guardPrimary_spec (s : State) (k : Fin 8) : ThmStep s (guardPrimary s k) ∧ (guardPrimary s k).thm.main = s.thm.main := by
  unfold guardPrimary
  dsimp only
  exact ⟨ThmStep.after (guardFault_beyond _ _ _ _) rfl, (main_of (guardFault_beyond _ _ _ _)).trans rfl⟩
theorem guardSecondary_spec (s : State) (k : Fin 29) : ThmStep s (guardSecondary s k) ∧ (guardSecondary s k).thm.main = s.thm.main := by
  unfold guardSecondary
  split
  · exact ⟨.refl s, rfl⟩
  · dsimp only
    exact ⟨ThmStep.after ((guardFault_beyond _ _ _ _).trans (guardFault_beyond _ _ _ _)) rfl, (main_of ((guardFault_beyond _ _ _ _).trans (guardFault_beyond _ _ _ _))).trans rfl⟩
/-- An anchor's fault leaves the thermal state, and every fault that is active. -/
theorem anchorFault_beyond (s : State) (k : Nat) : (anchorFault s k).beyond = s.beyond := by
  unfold anchorFault
  split
  · exact raise_beyond _ _ _ _
  · rfl
theorem anchorFault_grows (s : State) (k : Nat) : Grows s (anchorFault s k) := .ite (raise_grows _ _ _ _) (.refl s)
/-- `y` is what a step of the Conservator makes of a switch's state `x`, whose energy is read (R354, R355, R357). -/
def StepOf (s : State) (an : Tab Chan Anchor) (c : Chan) (x y : SwTh) : Prop :=
  y.e = x.e ∧ y.p = x.e * 1000 ∧
    y.d1 = x.d1 * decay (s.pf 0x70 c 36) + s.pf 0x70 c 20 * (1 - decay (s.pf 0x70 c 36)) * (x.e * 1000) ∧
    y.d2 = x.d2 * decay (s.pf 0x70 c 40) + s.pf 0x70 c 24 * (1 - decay (s.pf 0x70 c 40)) * (x.e * 1000) ∧
    y.d3 = x.d3 * decay (s.pf 0x70 c 44) + s.pf 0x70 c 28 * (1 - decay (s.pf 0x70 c 44)) * (x.e * 1000) ∧
    y.d4 = x.d4 * decay (s.pf 0x70 c 48) + s.pf 0x70 c 32 * (1 - decay (s.pf 0x70 c 48)) * (x.e * 1000) ∧
    (∀ ta, (an.get c).ta = some ta → y.tj = ta + y.d1 + y.d2 + y.d3 + y.d4) ∧ y.f = throttle s c y.tj
theorem StepOf.stepped {s : State} {an : Tab Chan Anchor} {c : Chan} {y : SwTh} (h : StepOf s an c { s.thm.sw.get c with e := (s.gd.ch.get c).acc } y) : Stepped s an c y := h
theorem StepOf.congr {s u : State} {an : Tab Chan Anchor} {c : Chan} {x y : SwTh} (hc : u.cat = s.cat) (h : StepOf u an c x y) : StepOf s an c x y := by
  unfold StepOf at *
  have p : ∀ o, u.pf 0x70 c o = s.pf 0x70 c o := fun o => pf_cat hc _ _ _
  have t : throttle u c y.tj = throttle s c y.tj := by unfold throttle; rw [p, p]
  simp only [p, t] at h
  exact h
/-- What a step of the Conservator makes of one switch. -/
theorem stepSwitch_spec (s : State) (c : Chan) : ThmStep s (stepSwitch s c) ∧ ∃ y : SwTh, (stepSwitch s c).thm = { s.thm with sw := s.thm.sw.put c y } ∧ StepOf s s.thm.anchors c (s.thm.sw.get c) y := by
  have h := fun (u : State) (a b d : Bool × Bool) => (flagFault_beyond 0x4803 c a.1 a.2 (flagFault 0x4802 c b.1 b.2 (flagFault 0x4801 c d.1 d.2 u))).trans ((flagFault_beyond 0x4802 c b.1 b.2 (flagFault 0x4801 c d.1 d.2 u)).trans (flagFault_beyond 0x4801 c d.1 d.2 u))
  have h' := fun (u : State) (a b d e f g : Bool) => h u (a, b) (d, e) (f, g)
  dsimp only at h'
  unfold stepSwitch
  dsimp only
  refine ⟨ThmStep.after (h' _ _ _ _ _ _ _) rfl, _, (congrArg Beyond.thm (h' _ _ _ _ _ _ _)), rfl, rfl, rfl, rfl, rfl, rfl, fun ta k => ?_, rfl⟩
  simp only [k, Option.getD_some]

/-- The accumulators of the modelled switches are read and cleared (R354). -/
theorem readEnergies_spec (l : List Chan) (h : l.Nodup) (s : State) : ThmStep s (l.foldl readEnergy s) ∧ (l.foldl readEnergy s).thm = { s.thm with sw := (l.foldl readEnergy s).thm.sw } ∧ (l.foldl readEnergy s).faults = s.faults ∧
    (∀ c, c ∉ l → (l.foldl readEnergy s).thm.sw.get c = s.thm.sw.get c ∧ (l.foldl readEnergy s).gd.ch.get c = s.gd.ch.get c) ∧
    ∀ c ∈ l, (l.foldl readEnergy s).thm.sw.get c = { s.thm.sw.get c with e := (s.gd.ch.get c).acc } ∧ ((l.foldl readEnergy s).gd.ch.get c).acc = 0 := by
  induction l generalizing s with
  | nil => exact ⟨.refl s, rfl, rfl, fun _ _ => ⟨rfl, rfl⟩, fun c m => absurd m (by simp)⟩
  | cons a l ih =>
    obtain ⟨na, nl⟩ := List.nodup_cons.1 h
    obtain ⟨i1, i2, i3, i4, i5⟩ := ih nl (readEnergy s a)
    have ot : ∀ c, c ≠ a → (readEnergy s a).thm.sw.get c = s.thm.sw.get c ∧ (readEnergy s a).gd.ch.get c = s.gd.ch.get c := fun c n =>
      ⟨Tab.get_upd_other _ _ _ _ n, Tab.get_upd_other _ _ _ _ n⟩
    rw [List.foldl_cons]
    refine ⟨(show ThmStep s (readEnergy s a) from rfl).trans i1, by rw [i2]; rfl, i3.trans rfl, fun c m => ?_, fun c m => ?_⟩
    · have n : c ≠ a := by rintro rfl; simp at m
      obtain ⟨x, y⟩ := i4 c (fun q => m (by simp [q]))
      exact ⟨x.trans (ot c n).1, y.trans (ot c n).2⟩
    · rcases List.mem_cons.1 m with rfl | m2
      · obtain ⟨x, y⟩ := i4 c na
        rw [x, y]
        exact ⟨by simp [readEnergy], by simp [readEnergy, State.updCh]⟩
      · have n : c ≠ a := by rintro rfl; exact na m2
        obtain ⟨x, y⟩ := i5 c m2
        rw [x, (ot c n).1, (ot c n).2]
        exact ⟨rfl, y⟩
theorem switches_spec (l : List Chan) (h : l.Nodup) (s : State) : ThmStep s (l.foldl stepSwitch s) ∧ (l.foldl stepSwitch s).thm = { s.thm with sw := (l.foldl stepSwitch s).thm.sw } ∧
    (∀ c, c ∉ l → (l.foldl stepSwitch s).thm.sw.get c = s.thm.sw.get c) ∧ ∀ c ∈ l, StepOf s s.thm.anchors c (s.thm.sw.get c) ((l.foldl stepSwitch s).thm.sw.get c) := by
  induction l generalizing s with
  | nil => exact ⟨.refl s, rfl, fun _ _ => rfl, fun c m => absurd m (by simp)⟩
  | cons a l ih =>
    obtain ⟨k, y, ty, y1⟩ := stepSwitch_spec s a
    obtain ⟨na, nl⟩ := List.nodup_cons.1 h
    obtain ⟨i1, i2, i3, i4⟩ := ih nl (stepSwitch s a)
    rw [List.foldl_cons]
    have hc := k.cat
    refine ⟨k.trans i1, ?_, fun c m => ?_, fun c m => ?_⟩
    · rw [i2, ty]
    · rw [i3 c (by intro q; exact m (by simp [q])), ty]
      exact Tab.get_put_other _ _ _ _ (by rintro rfl; simp at m)
    · rcases List.mem_cons.1 m with rfl | m2
      · rw [i3 c na, ty]
        rw [Tab.get_put_same]
        exact y1
      · have ne : c ≠ a := by rintro rfl; exact na m2
        have w := i4 c m2
        have an : (stepSwitch s a).thm.anchors = s.thm.anchors := by rw [ty]
        rw [an] at w
        have e : (stepSwitch s a).thm.sw.get c = s.thm.sw.get c := by rw [ty]; exact Tab.get_put_other _ _ _ _ ne
        rw [e] at w
        exact w.congr hc
/-- The anchors step and their faults follow: of the thermal state the anchors alone change (R356). -/
theorem anchors_spec (taken : List HkReading) (s : State) : ThmStep s ((ancSrcs (stepAnchors taken s)).foldl anchorFault (stepAnchors taken s)) ∧
    ((ancSrcs (stepAnchors taken s)).foldl anchorFault (stepAnchors taken s)).thm = { s.thm with anchors := ((ancSrcs (stepAnchors taken s)).foldl anchorFault (stepAnchors taken s)).thm.anchors } := by
  have t := foldl_part (fun s : State => s.thm) (fun s a => congrArg Beyond.thm (anchorFault_beyond s a)) (ancSrcs (stepAnchors taken s)) (stepAnchors taken s)
  refine ⟨(show ThmStep s (stepAnchors taken s) from rfl).trans (.foldl (fun s a => .of_beyond (anchorFault_beyond s a)) _ _), ?_⟩
  rw [t]
  rfl
theorem newLimit_eq {s t : State} (hc : t.cat = s.cat) (hs : t.thm.sw = s.thm.sw) (k : Fin 8) : newLimit t k = newLimit s k := by
  have e : consumer t k = consumer s k := by unfold consumer; simp only [pf_cat hc]
  have p : ∀ c, t.chPresent c = s.chPresent c := fun c => by unfold State.chPresent State.pb State.payload; rw [hc]
  have r : ∀ c : Chan, t.hasRec 0x70 c = s.hasRec 0x70 c := fun c => by unfold State.hasRec; rw [hc]
  unfold newLimit
  simp only [e, p, r, hs]
theorem publish_spec (b : Bool) (s : State) : ThmStep s (publish b s) ∧ (publish b s).thm = { s.thm with limits := (publish b s).thm.limits, lastFull := (publish b s).thm.lastFull } ∧
    ∀ k, (publish b s).thm.limits.get k = newLimit s k ∨ ∃ x y, newLimit s k = some x ∧ s.thm.lastFull.get k = some y ∧ (publish b s).thm.limits.get k = some (minQ x y) := by
  have e : (publish b s).thm.limits = s.thm.limits.updAll (List.finRange 8) (fun k _ => heldLimit s k (newLimit s k)) := by unfold publish; dsimp only; split <;> rfl
  refine ⟨?_, ?_, fun k => ?_⟩
  · unfold publish; dsimp only; split <;> rfl
  · unfold publish; dsimp only; split <;> rfl
  · rw [e, Tab.get_updAll _ _ _ (List.nodup_finRange 8), if_pos (by simp)]
    unfold heldLimit
    split
    · generalize newLimit s k = a
      generalize s.thm.lastFull.get k = c
      cases a <;> cases c <;> simp
    · exact .inl rfl
theorem guards_spec (s : State) : ThmStep s ((List.finRange 8).foldl guardPrimary ((List.finRange 29).foldl guardSecondary s)) ∧ ((List.finRange 8).foldl guardPrimary ((List.finRange 29).foldl guardSecondary s)).thm.main = s.thm.main :=
  ⟨(ThmStep.foldl (fun s k => (guardSecondary_spec s k).1) _ _).trans (.foldl (fun s k => (guardPrimary_spec s k).1) _ _),
   (foldl_part (fun s => s.thm.main) (fun s k => (guardPrimary_spec s k).2) _ _).trans (foldl_part (fun s => s.thm.main) (fun s k => (guardSecondary_spec s k).2) _ _)⟩
/-- One step of the Conservator. -/
theorem conservator_spec (taken : List HkReading) (b : Bool) (s : State) : ThmStep s (conservator taken b s) ∧ (conservator taken b s).thm.rounds = wrapInc 16 s.thm.rounds ∧ (conservator taken b s).thm.slots = s.thm.slots ∧ (conservator taken b s).thm.missed = s.thm.missed ∧
    (∀ c, c ∉ modelled s → (conservator taken b s).thm.sw.get c = s.thm.sw.get c) ∧ (∀ c ∈ modelled s, Stepped s (conservator taken b s).thm.anchors c ((conservator taken b s).thm.sw.get c)) ∧
    ∀ k, (conservator taken b s).thm.limits.get k = newLimit (conservator taken b s) k ∨ ∃ x y, newLimit (conservator taken b s) k = some x ∧ s.thm.lastFull.get k = some y ∧ (conservator taken b s).thm.limits.get k = some (minQ x y) := by
  have mo {t : State} (hc : t.cat = s.cat) : modelled t = modelled s := by
    have p : ∀ c, t.chPresent c = s.chPresent c := fun c => by unfold State.chPresent State.pb State.payload; rw [hc]
    have r : ∀ c : Chan, t.hasRec 0x70 c = s.hasRec 0x70 c := fun c => by unfold State.hasRec; rw [hc]
    unfold modelled
    simp only [p, r]
  have nd : (modelled s).Nodup := (List.nodup_finRange 55).filter _
  unfold conservator
  obtain ⟨r1, r2, -, r4, r5⟩ := readEnergies_spec (modelled s) nd s
  dsimp only
  generalize (modelled s).foldl readEnergy s = q at r1 r2 r4 r5 ⊢
  obtain ⟨a1, a2⟩ := anchors_spec taken q
  generalize (ancSrcs (stepAnchors taken q)).foldl anchorFault (stepAnchors taken q) = u at a1 a2 ⊢
  rw [mo (a1.cat.trans r1.cat)]
  obtain ⟨b1, b2, b3, b4⟩ := switches_spec (modelled s) nd u
  generalize (modelled s).foldl stepSwitch u = v at b1 b2 b3 b4 ⊢
  obtain ⟨c1, c2, c3⟩ := publish_spec b v
  generalize publish b v = w at c1 c2 c3 ⊢
  obtain ⟨d1, d2⟩ := guards_spec { w with thm := { w.thm with rounds := wrapInc 16 w.thm.rounds } }
  generalize (List.finRange 8).foldl guardPrimary ((List.finRange 29).foldl guardSecondary { w with thm := { w.thm with rounds := wrapInc 16 w.thm.rounds } }) = z at d1 d2 ⊢
  have zw : ThmStep w z := (show ThmStep w { w with thm := { w.thm with rounds := wrapInc 16 w.thm.rounds } } from rfl).trans d1
  have st : ThmStep s z := (r1.trans a1).trans (b1.trans (c1.trans zw))
  unfold Thm.main at d2
  simp only [Prod.mk.injEq] at d2
  obtain ⟨e1, e2, e3, e4, e5, e6, e7⟩ := d2
  have wv : w.thm.sw = v.thm.sw := by rw [c2]
  have zs : z.thm.sw = v.thm.sw := e4.trans wv
  have ua : u.thm.sw = q.thm.sw := by rw [a2]
  have va : v.thm.anchors = u.thm.anchors := by rw [b2]
  have wa : w.thm.anchors = v.thm.anchors := by rw [c2]
  have za : z.thm.anchors = u.thm.anchors := e5.trans (wa.trans va)
  have zc : z.cat = v.cat := (c1.trans zw).cat
  have lf : v.thm.lastFull = s.thm.lastFull := by rw [b2, a2, r2]
  refine ⟨st, ?_, ?_, ?_, fun c k => ?_, fun c k => ?_, fun k => ?_⟩
  · rw [e1, c2, b2, a2, r2]
  · rw [e3, c2, b2, a2, r2]
  · rw [e2, c2, b2, a2, r2]
  · rw [zs, b3 c k, ua, (r4 c k).1]
  · rw [zs, za]
    have w := b4 c k
    rw [ua, (r5 c k).1] at w
    exact (w.congr (a1.cat.trans r1.cat)).stepped
  · rw [newLimit_eq zc zs, e6]
    have w3 := c3 k
    rw [lf] at w3
    exact w3

theorem flagFault_keeps (code : Nat) (c : Chan) (o n : Bool) (s : State) (k i : Nat) (h1 : k ≠ 0x001A) (h2 : k ≠ code) (h : active k i s = true) : active k i (flagFault code c o n s) = true := by
  unfold flagFault
  split
  · exact raise_grows _ _ _ _ _ _ h
  · split
    · rw [clearF_other _ _ _ _ _ h1 (by tauto)]; exact h
    · exact h
theorem guardFault_keeps (code j : Nat) (r : Nat × Nat) (s : State) (k i : Nat) (h1 : k ≠ 0x001A) (h2 : k ≠ code) (h : active k i s = true) : active k i (guardFault code j r s) = true := by
  unfold guardFault
  split
  · exact raise_grows _ _ _ _ _ _ h
  · split
    · rw [clearF_other _ _ _ _ _ h1 (by tauto)]; exact h
    · exact h
theorem foldl_inv {α : Type} {f : State → α → State} {P : State → Prop} (h : ∀ s a, P s → P (f s a)) (l : List α) (s : State) (p : P s) : P (l.foldl f s) := by
  induction l generalizing s with
  | nil => exact p
  | cons a l ih => exact ih _ (h _ _ p)
theorem conservator_keeps (taken : List HkReading) (b : Bool) (s : State) (k i : Nat) (h1 : k ≠ 0x001A) (h2 : k < 0x4801 ∨ 0x4807 < k) (h : active k i s = true) : active k i (conservator taken b s) = true := by
  unfold conservator
  dsimp only
  refine foldl_inv (P := fun s => active k i s = true) (fun s a q => ?_) _ _ (foldl_inv (P := fun s => active k i s = true) (fun s a q => ?_) _ _ ?_)
  · unfold guardPrimary; dsimp only; exact guardFault_keeps _ _ _ _ _ _ h1 (by omega) q
  · unfold guardSecondary; split
    · exact q
    · dsimp only; exact guardFault_keeps _ _ _ _ _ _ h1 (by omega) (guardFault_keeps _ _ _ _ _ _ h1 (by omega) q)
  · have pk : ∀ u, active k i u = true → active k i (publish b u) = true := by intro u q; unfold publish; dsimp only; split <;> exact q
    show active k i (publish b _) = true
    refine pk _ (foldl_inv (P := fun s => active k i s = true) (fun s a q => ?_) _ _ (foldl_inv (P := fun s => active k i s = true) (fun s a q => ?_) _ _ (foldl_inv (f := readEnergy) (P := fun s => active k i s = true) (fun s a q => by unfold readEnergy; exact q) _ _ h)))
    · unfold stepSwitch; dsimp only; exact flagFault_keeps _ _ _ _ _ _ _ h1 (by omega) (flagFault_keeps _ _ _ _ _ _ _ h1 (by omega) (flagFault_keeps _ _ _ _ _ _ _ h1 (by omega) q))
    · exact anchorFault_grows s a _ _ q
/-- Raises of one F0 or F1 code with a list of instances. -/
theorem raises_spec (code m : Nat) (l : List (Fin 96)) (s : State) (cl : ∀ i s, classOf s code i < 3) (g : ¬(0x2803 ≤ code ∧ code ≤ 0x280C)) :
    SameButFaults s (l.foldl (fun s n => raise code n.val m s) s) ∧ Grows s (l.foldl (fun s n => raise code n.val m s) s) ∧ ∀ n ∈ l, active code n.val (l.foldl (fun s n => raise code n.val m s) s) = true := by
  induction l generalizing s with
  | nil => exact ⟨.refl s, .refl s, fun n k => absurd k (by simp)⟩
  | cons a l ih =>
    obtain ⟨i1, i2, i3⟩ := ih (raise code a.val m s)
    rw [List.foldl_cons]
    refine ⟨(raise_low_same _ _ _ s (cl a.val) g).trans i1, (raise_grows _ _ _ s).trans i2, fun n k => ?_⟩
    rcases List.mem_cons.1 k with rfl | k
    · exact i2 _ _ (raise_active _ _ _ _)
    · exact i3 n k
/-- Slots that are marked stale. -/
theorem markStale_spec (ns : List (Fin 96)) (nd : ns.Nodup) (ne : ns ≠ []) (s : State) :
    (∀ n, (markStale ns s).thm.slots.get n = if n ∈ ns then { s.thm.slots.get n with stale := true, run := satInc 8 (s.thm.slots.get n).run } else s.thm.slots.get n) ∧
    (markStale ns s).thm.missed = satInc 8 s.thm.missed ∧ (∀ n ∈ ns, 2 ≤ (s.thm.slots.get n).run → active 0x4808 n.val (markStale ns s) = true) ∧
    SameButFaults { s with thm := (markStale ns s).thm } (markStale ns s) ∧ Grows s (markStale ns s) ∧ (markStale ns s).thm = { s.thm with slots := (markStale ns s).thm.slots, missed := (markStale ns s).thm.missed } := by
  have g := fun n => Tab.get_updAll ns (fun (_ : Fin 96) (x : HkSlot) => { x with stale := true, run := satInc 8 x.run }) s.thm.slots nd n
  unfold markStale
  rw [if_neg ne]
  dsimp only
  generalize s.thm.slots.updAll ns (fun (_ : Fin 96) (x : HkSlot) => { x with stale := true, run := satInc 8 x.run }) = T at g ⊢
  have fl : ∀ n ∈ ns, 2 ≤ (s.thm.slots.get n).run → n ∈ ns.filter (fun n => decide (3 ≤ (T.get n).run)) := fun n m q => List.mem_filter.2 ⟨m, by
    have gn := g n
    rw [if_pos m] at gn
    simp only [gn, decide_eq_true_eq]
    simp [satInc]
    omega⟩
  generalize ns.filter (fun n => decide (3 ≤ (T.get n).run)) = L at fl ⊢
  obtain ⟨u, hu⟩ : ∃ u : State, u = { s with thm := { s.thm with missed := satInc 8 s.thm.missed, slots := T } } := ⟨_, rfl⟩
  rw [← hu]
  have ut : u.thm = { s.thm with missed := satInc 8 s.thm.missed, slots := T } := by rw [hu]
  have uf : u.faults = s.faults := by rw [hu]
  have ue : { s with thm := u.thm } = u := by rw [hu]
  obtain ⟨r1, r2, r3⟩ := raises_spec 0x4808 0 L u (fun i s => by simp [classOf, codesF0, codesF1, codesF2]) (by decide)
  have rt := show (L.foldl (fun s n => raise 0x4808 n.val 0 s) u).thm = u.thm by rw [r1]
  refine ⟨fun j => ?_, ?_, fun n m q => r3 n (fl n m q), ?_, (Grows.of_eq uf).trans r2, ?_⟩
  · rw [rt, ut]; exact g j
  · rw [rt, ut]
  · rw [rt, ue]; exact r1
  · rw [rt, ut]
theorem takeSlots_get (taken : List HkReading) (s : State) (nd : (taken.map (·.slot)).Nodup) :
    (∀ n, (∀ r ∈ taken, r.slot ≠ n) → (takeSlots false taken s).thm.slots.get n = s.thm.slots.get n) ∧ ∀ r ∈ taken, (takeSlots false taken s).thm.slots.get r.slot = { a := r.a, b := r.b, stale := false, run := 0 } := by
  unfold takeSlots
  simp only [Bool.false_eq_true, if_false]
  generalize s.thm.slots = T
  induction taken generalizing T with
  | nil => exact ⟨fun _ _ => rfl, fun r m => absurd m (by simp)⟩
  | cons a l ih =>
    rw [List.map_cons, List.nodup_cons] at nd
    obtain ⟨na, nl⟩ := nd
    obtain ⟨i1, i2⟩ := ih nl (T.put a.slot { a := a.a, b := a.b, stale := false, run := 0 })
    rw [List.foldl_cons]
    refine ⟨fun n h => ?_, fun r m => ?_⟩
    · rw [i1 n (fun r m => h r (by simp [m]))]
      exact Tab.get_put_other _ _ _ _ (fun q => h a (by simp) q.symm)
    · rcases List.mem_cons.1 m with rfl | m2
      · rw [i1 _ (fun r2 m3 q => na (by rw [← q]; exact List.mem_map_of_mem (f := (·.slot)) m3))]
        simp
      · exact i2 r m2
theorem takeSupply_step (taken : List HkReading) (a : Act) (s : State) : takeSupply taken a s = { s with act := (takeSupply taken a s).act } := by unfold takeSupply; dsimp only; split <;> rfl

/-- A round whose reference check fails: every slot is stale, 0x4809 is active for each bad one, the Conservator steps all the same (R350,
R351). -/
theorem round_bad {l : List HkReading} {s : State} {b : List (Fin 96)} (h1 : s.xtalOk = true) (h2 : s.cat.locked = true) (h3 : refBad (withSense s l) = b) (h4 : b ≠ []) :
    ∃ c : Bool, execHousekeepingRound l s = .next (conservator (withSense s l) c (takeSupply (withSense s l) .shift (takeSupply (withSense s l) .park (markStale slotAll (b.foldl (fun s n => raise 0x4809 n.val 0 s) (takeSlots true (withSense s l) s)))))) := by
  obtain ⟨q1, -, -⟩ := raises_spec 0x4809 0 b (takeSlots true (withSense s l) s) (fun i s => by simp [classOf, codesF0, codesF1, codesF2]) (by decide)
  obtain ⟨-, -, -, q2, -, -⟩ := markStale_spec slotAll (List.nodup_finRange 96) (by decide) (b.foldl (fun s n => raise 0x4809 n.val 0 s) (takeSlots true (withSense s l) s))
  unfold execHousekeepingRound
  rw [if_neg (by rw [h1]; decide)]
  dsimp only
  rw [h3, if_neg h4, decide_eq_true h4]
  generalize markStale slotAll (b.foldl (fun s n => raise 0x4809 n.val 0 s) (takeSlots true (withSense s l) s)) = w at q2 ⊢
  generalize b.foldl (fun s n => raise 0x4809 n.val 0 s) (takeSlots true (withSense s l) s) = v at q1 q2
  have lk : w.cat.locked = true := by rw [q2, q1]; exact h2
  rw [if_neg (by rw [lk]; decide)]
  exact ⟨_, rfl⟩

def Beyond.setSi (b : Beyond) (x : Tab SiN SiSt) : Beyond := { b with saf := (b.saf.1, b.saf.2.1, b.saf.2.2.1, b.saf.2.2.2.1, b.saf.2.2.2.2.1, b.saf.2.2.2.2.2.1, b.saf.2.2.2.2.2.2.1, b.saf.2.2.2.2.2.2.2.1, b.saf.2.2.2.2.2.2.2.2.1, b.saf.2.2.2.2.2.2.2.2.2.1, b.saf.2.2.2.2.2.2.2.2.2.2.1, x, b.saf.2.2.2.2.2.2.2.2.2.2.2.2) }
theorem setSi_eq (s : State) (x : Tab SiN SiSt) : ({ s with saf := { s.saf with si := x } } : State).beyond = s.beyond.setSi x := rfl
theorem si_of {s t : State} (h : t.beyond = s.beyond) : t.saf.si = s.saf.si := congrArg (fun b => b.saf.2.2.2.2.2.2.2.2.2.2.2.1) h
/-- Only the safety inputs and what a fault touches have changed. -/
def SiStep (s t : State) : Prop := t.beyond = s.beyond.setSi t.saf.si
theorem SiStep.refl (s : State) : SiStep s s := rfl
theorem SiStep.trans {s t u : State} (a : SiStep s t) (b : SiStep t u) : SiStep s u := by unfold SiStep at *; rw [a] at b; exact b
theorem SiStep.after {s t u : State} (h : u.beyond = t.beyond) (a : SiStep s t) : SiStep s u := by unfold SiStep at *; rw [si_of h, h]; exact a
/-- The entry of an input into demand, or its leaving. -/
def SiSt.entered (x : SiSt) : SiSt :=
  if x.demanding = true ∧ x.inDemand = false then { x with inDemand := true, demands := wrapInc 8 x.demands } else if x.demanding = false ∧ x.inDemand = true then { x with inDemand := false } else x
theorem Tab.upd_self {κ α : Type} [DecidableEq κ] (t : Tab κ α) (k : κ) (x : α) (f : α → α) (h : t.get k = x) (j : κ) : (t.upd k f).get j = if j = k then f x else t.get j := by rw [Tab.get_upd, h]
theorem siEntry_spec (n : SiN) (s : State) : SiStep s (siEntry n s) ∧ Grows s (siEntry n s) ∧ (∀ m, (siEntry n s).saf.si.get m = if m = n then (s.saf.si.get n).entered else s.saf.si.get m) ∧
    ((s.saf.si.get n).demanding = true → (s.saf.si.get n).inDemand = false → s.pu 0x80 n 28 ≠ 0xFF → active (0x5810 + n.val) n.val (siEntry n s) = true) := by
  unfold siEntry SiSt.entered
  dsimp only
  by_cases a : (s.saf.si.get n).demanding = true ∧ (s.saf.si.get n).inDemand = false
  · rw [if_pos a, if_pos a]
    obtain ⟨u, hu⟩ : ∃ u, u = updSi n (fun x => { x with inDemand := true, demands := wrapInc 8 x.demands }) s := ⟨_, rfl⟩
    have us : SiStep s u := by rw [hu]; rfl
    have ug : ∀ m, u.saf.si.get m = if m = n then { s.saf.si.get n with inDemand := true, demands := wrapInc 8 (s.saf.si.get n).demands } else s.saf.si.get m := fun m => by rw [hu]; exact Tab.get_upd _ _ _ _
    have up : u.pu 0x80 n 28 = s.pu 0x80 n 28 := by rw [hu]; rfl
    have uf : u.faults = s.faults := by rw [hu]; rfl
    rw [← hu, up]
    by_cases c : s.pu 0x80 n 28 = 0xFF
    · rw [if_pos c]; exact ⟨us, .of_eq uf, ug, fun _ _ k => absurd c k⟩
    · rw [if_neg c]
      exact ⟨us.after (raise_beyond _ _ _ _ (by omega) (by omega)), (Grows.of_eq uf).trans (raise_grows _ _ _ _), fun m => by rw [si_of (raise_beyond _ _ _ _ (by omega) (by omega))]; exact ug m, fun _ _ _ => raise_active _ _ _ _⟩
  · rw [if_neg a, if_neg a]
    by_cases b : (s.saf.si.get n).demanding = false ∧ (s.saf.si.get n).inDemand = true
    · rw [if_pos b, if_pos b]
      exact ⟨rfl, .of_eq rfl, fun m => Tab.get_upd _ _ _ _, fun k l => absurd ⟨k, l⟩ a⟩
    · rw [if_neg b, if_neg b]
      refine ⟨.refl s, .refl s, fun m => ?_, fun k l => absurd ⟨k, l⟩ a⟩
      by_cases e : m = n
      · subst e; simp
      · rw [if_neg e]
theorem siLatch_spec (n : SiN) (s : State) (h : (s.saf.si.get n).disc = false) : SiStep s (siLatch n s) ∧ Grows s (siLatch n s) ∧ active 0x5801 n.val (siLatch n s) = true ∧
    ∀ m, (siLatch n s).saf.si.get m = if m = n then ({ s.saf.si.get n with disc := true, discs := satInc 8 (s.saf.si.get n).discs } : SiSt).entered else s.saf.si.get m := by
  unfold siLatch
  rw [if_neg (by rw [h]; decide)]
  obtain ⟨u, hu⟩ : ∃ u, u = updSi n (fun x => { x with disc := true, discs := satInc 8 x.discs }) s := ⟨_, rfl⟩
  have us : SiStep s u := by rw [hu]; rfl
  have ug : ∀ m, u.saf.si.get m = if m = n then { s.saf.si.get n with disc := true, discs := satInc 8 (s.saf.si.get n).discs } else s.saf.si.get m := fun m => by rw [hu]; exact Tab.get_upd _ _ _ _
  have uf : u.faults = s.faults := by rw [hu]; rfl
  rw [← hu]
  have rb : (raise 0x5801 n.val 0 u).beyond = u.beyond := raise_beyond _ _ _ _
  have ra : active 0x5801 n.val (raise 0x5801 n.val 0 u) = true := raise_active _ _ _ _
  have rg : Grows u (raise 0x5801 n.val 0 u) := raise_grows _ _ _ _
  generalize raise 0x5801 n.val 0 u = v at rb ra rg ⊢
  obtain ⟨e1, e2, e3, -⟩ := siEntry_spec n v
  refine ⟨(us.after rb).trans e1, ((Grows.of_eq uf).trans rg).trans e2, e2 _ _ ra, fun m => ?_⟩
  rw [e3, si_of rb, ug, ug]
  by_cases k : m = n
  · rw [if_pos k, if_pos k, if_pos rfl]
  · rw [if_neg k, if_neg k, if_neg k]
theorem sequence_fst (t d : Nat) (x : SiSt) : ((x.sequence t d).1 = true → x.bothFree = true ∧ x.both = true ∧ ∃ f, x.firstRel = some f ∧ t - f ≤ d) := by
  unfold SiSt.sequence
  split
  · intro h; cases h
  · split
    · rename_i k
      intro h
      simp only [Bool.and_eq_true] at h
      obtain ⟨a, b⟩ := h
      refine ⟨k, a, ?_⟩
      cases e : x.firstRel with
      | none => rw [e] at b; simp at b
      | some f => rw [e] at b; exact ⟨f, rfl, by simpa using b⟩
    · split <;> (intro h; cases h)
theorem sequence_same (t d : Nat) (x : SiSt) : (x.sequence t d).2 = { x with both := (x.sequence t d).2.both, firstRel := (x.sequence t d).2.firstRel } := by
  unfold SiSt.sequence
  split
  · rfl
  · split
    · rfl
    · split <;> rfl
theorem disagree_same (t d : Nat) (x : SiSt) : x.disagree t d = { x with openAt := (x.disagree t d).openAt, maxDisc := (x.disagree t d).maxDisc } := by
  unfold SiSt.disagree
  split
  · split <;> rfl
  · split <;> rfl
/-- What an accepted edge makes of the input, when no disagreement is older than T_DISC. -/
def SiSt.edged (ch : Side) (demand : Bool) (t d : Nat) (x : SiSt) : SiSt :=
  let y := (x.accept ch demand).disagree t d
  (if (y.sequence t d).1 then (y.sequence t d).2.cleared else (y.sequence t d).2).entered
/-- SI3's confirmation changes the actuator alone (R373). -/
theorem parkConfirm_only (s : State) : parkConfirm s = { s with act := (parkConfirm s).act } := by
  unfold parkConfirm
  dsimp only
  split <;> rfl
theorem siConfirm_only (n : SiN) (s : State) : (if n = 3 then parkConfirm s else s) = { s with act := (if n = 3 then parkConfirm s else s).act } := by
  split
  · exact parkConfirm_only s
  · rfl
theorem siEdge_early (n : SiN) (ch : Side) (d : Bool) (at_ : Nat) (s : State) (h : ∀ t, (s.saf.si.get n).openAt = some t → at_ - t ≤ discTicks s n) :
    siEdge n ch d at_ s =
      (let r := (((s.saf.si.get n).accept ch d).disagree at_ (discTicks s n)).sequence at_ (discTicks s n)
       let u := updSi n (fun _ => if r.1 then r.2.cleared else r.2) s
       let v := if r.1 then clearF 0x5801 n.val u else u
       siEntry n (if n = 3 then parkConfirm v else v)) := by
  unfold siEdge
  dsimp only
  cases e : (s.saf.si.get n).openAt with
  | none => rfl
  | some t =>
    have late : decide (discTicks s n < at_ - t) = false := by simpa using h t e
    dsimp only
    have ite : (if decide (discTicks s n < at_ - t) = true then siLatch n s else s) = s := if_neg (by rw [late]; decide)
    rw [ite]
theorem siEdge_spec (n : SiN) (ch : Side) (d : Bool) (at_ : Nat) (s : State) (h : ∀ t, (s.saf.si.get n).openAt = some t → at_ - t ≤ discTicks s n) :
    SiStep s (siEdge n ch d at_ s) ∧ (∀ m, (siEdge n ch d at_ s).saf.si.get m = if m = n then (s.saf.si.get n).edged ch d at_ (discTicks s n) else s.saf.si.get m) ∧
    (d = true → Grows s (siEdge n ch d at_ s) ∧ ((s.saf.si.get n).inDemand = false → s.pu 0x80 n 28 ≠ 0xFF → active (0x5810 + n.val) n.val (siEdge n ch d at_ s) = true)) ∧
    (((((s.saf.si.get n).accept ch d).disagree at_ (discTicks s n)).sequence at_ (discTicks s n)).1 = true → active 0x5801 n.val (siEdge n ch d at_ s) = false) := by
  rw [siEdge_early n ch d at_ s h]
  unfold SiSt.edged
  dsimp only
  have dis := disagree_same at_ (discTicks s n) ((s.saf.si.get n).accept ch d)
  generalize ((s.saf.si.get n).accept ch d).disagree at_ (discTicks s n) = y at dis ⊢
  have sq := sequence_same at_ (discTicks s n) y
  have sf := sequence_fst at_ (discTicks s n) y
  obtain ⟨u, hu⟩ : ∃ u, u = updSi n (fun _ => if (y.sequence at_ (discTicks s n)).1 then (y.sequence at_ (discTicks s n)).2.cleared else (y.sequence at_ (discTicks s n)).2) s := ⟨_, rfl⟩
  rw [← hu]
  generalize y.sequence at_ (discTicks s n) = r at sq sf hu ⊢
  have us : SiStep s u := by rw [hu]; rfl
  have ug : ∀ m, u.saf.si.get m = if m = n then (if r.1 then r.2.cleared else r.2) else s.saf.si.get m := fun m => by rw [hu]; exact Tab.get_upd _ _ _ _
  have uf : u.faults = s.faults := by rw [hu]; rfl
  have up : u.pu 0x80 n 28 = s.pu 0x80 n 28 := by rw [hu]; rfl
  have demandIn : d = true → y.demanding = true ∧ y.bothFree = false ∧ y.inDemand = (s.saf.si.get n).inDemand := by
    intro k
    rw [dis, k]
    cases ch <;> refine ⟨by simp [SiSt.demanding, SiSt.accept], by simp [SiSt.bothFree, SiSt.accept], rfl⟩
  by_cases c : r.1 = true
  · rw [if_pos c]
    have cb : (clearF 0x5801 n.val u).beyond = u.beyond := clearF_beyond _ _ _
    have ca : active 0x5801 n.val (clearF 0x5801 n.val u) = false := clearF_inactive _ _ _ (by decide)
    generalize clearF 0x5801 n.val u = v' at cb ca ⊢
    have wo := siConfirm_only n v'
    generalize (if n = 3 then parkConfirm v' else v') = v at wo ⊢
    have wb : v.beyond = v'.beyond := by rw [wo]; rfl
    have wf : v.faults = v'.faults := by rw [wo]
    replace cb := wb.trans cb
    replace ca := (active_of wf 0x5801 n.val).trans ca
    obtain ⟨e1, e2, e3, -⟩ := siEntry_spec n v
    obtain ⟨bf, -⟩ := sf c
    have vn : v.saf.si.get n = r.2.cleared := by rw [si_of cb, ug, if_pos rfl, if_pos c]
    have nd : r.2.cleared.demanding = false := by
      rw [sq]
      unfold SiSt.bothFree at bf
      simp only [Bool.and_eq_true, Bool.not_eq_true'] at bf
      simp [SiSt.cleared, SiSt.demanding, bf.1.1.2, bf.2]
    refine ⟨(us.after cb).trans e1, fun m => ?_, fun k => ?_, fun _ => ?_⟩
    · rw [e3, vn]
      by_cases k : m = n
      · rw [if_pos k, if_pos k, if_pos c]
      · rw [if_neg k, if_neg k, si_of cb, ug, if_neg k]
    · rw [(demandIn k).2.1] at bf; cases bf
    · unfold siEntry
      dsimp only
      rw [vn, if_neg (by rw [nd]; simp)]
      split
      · exact ca
      · exact ca
  · rw [if_neg c]
    have wo := siConfirm_only n u
    generalize (if n = 3 then parkConfirm u else u) = v at wo ⊢
    have wb : v.beyond = u.beyond := by rw [wo]; rfl
    have vf : v.faults = s.faults := by rw [wo]; exact uf
    have vp : v.pu 0x80 n 28 = s.pu 0x80 n 28 := by rw [wo]; exact up
    replace us := us.after wb
    replace ug := fun m => (congrArg (fun x => x.get m) (si_of wb)).trans (ug m)
    clear hu uf up wb wo
    obtain ⟨e1, e2, e3, e4⟩ := siEntry_spec n v
    have un : v.saf.si.get n = r.2 := by rw [ug, if_pos rfl, if_neg c]
    refine ⟨us.trans e1, fun m => ?_, fun k => ⟨(Grows.of_eq vf).trans e2, fun l q => ?_⟩, fun k => absurd k c⟩
    · rw [e3, un]
      by_cases k : m = n
      · rw [if_pos k, if_pos k, if_neg c]
      · rw [if_neg k, if_neg k, ug, if_neg k]
    · refine e4 ?_ ?_ (by rw [vp]; exact q)
      · rw [un, sq]; exact (demandIn k).1
      · rw [un, sq]; exact (demandIn k).2.2.trans l

theorem entered_same (x : SiSt) : x.entered = { x with inDemand := x.entered.inDemand, demands := x.entered.demands } := by
  unfold SiSt.entered; split
  · rfl
  · split <;> rfl
theorem edged_level (ch : Side) (d : Bool) (t td : Nat) (x : SiSt) : (x.edged ch d t td).a = (x.accept ch d).a ∧ (x.edged ch d t td).b = (x.accept ch d).b := by
  unfold SiSt.edged
  dsimp only
  rw [entered_same]
  have dis := disagree_same t td (x.accept ch d)
  generalize (x.accept ch d).disagree t td = y at dis ⊢
  have sq := sequence_same t td y
  generalize y.sequence t td = r at sq ⊢
  split
  · unfold SiSt.cleared; rw [sq, dis]; exact ⟨rfl, rfl⟩
  · rw [sq, dis]; exact ⟨rfl, rfl⟩
theorem edged_demand (ch : Side) (t td : Nat) (x : SiSt) : (x.edged ch true t td).inDemand = true ∧ (x.edged ch true t td).demands = (if x.inDemand then x.demands else wrapInc 8 x.demands) := by
  unfold SiSt.edged
  dsimp only
  have dis := disagree_same t td (x.accept ch true)
  generalize (x.accept ch true).disagree t td = y at dis ⊢
  have sq := sequence_same t td y
  have sf := sequence_fst t td y
  have nf : y.bothFree = false := by rw [dis]; cases ch <;> simp [SiSt.bothFree, SiSt.accept]
  have yd : y.demanding = true := by rw [dis]; cases ch <;> simp [SiSt.demanding, SiSt.accept]
  have yi : y.inDemand = x.inDemand := by rw [dis]; cases ch <;> rfl
  have ym : y.demands = x.demands := by rw [dis]; cases ch <;> rfl
  generalize y.sequence t td = r at sq sf ⊢
  rw [if_neg (by intro k; rw [(sf k).1] at nf; cases nf)]
  have rd : r.2.demanding = true := by rw [sq]; exact yd
  have ri : r.2.inDemand = x.inDemand := by rw [sq]; exact yi
  have rm : r.2.demands = x.demands := by rw [sq]; exact ym
  unfold SiSt.entered
  rw [rd, ri, rm]
  cases h : x.inDemand
  · simp
  · simp [ri, h, rm]
theorem edged_done (ch : Side) (t td f : Nat) (x : SiSt) (h1 : x.both = true) (h2 : x.firstRel = some f) (h3 : t - f ≤ td) (h4 : (match ch with | .a => x.b | .b => x.a) = { accepted := true, demand := false }) :
    (((x.accept ch false).disagree t td).sequence t td).1 = true ∧ (x.edged ch false t td).disc = false ∧ (x.edged ch false t td).testDone = true ∧ (x.edged ch false t td).inDemand = false := by
  unfold SiSt.edged
  dsimp only
  have dis := disagree_same t td (x.accept ch false)
  generalize (x.accept ch false).disagree t td = y at dis ⊢
  have bf : y.bothFree = true := by rw [dis]; cases ch <;> (dsimp only at h4; simp [SiSt.bothFree, SiSt.accept, h4])
  have bd : y.bothDemand = false := by rw [dis]; cases ch <;> (dsimp only at h4; simp [SiSt.bothDemand, SiSt.accept])
  have yb : y.both = true := by rw [dis]; cases ch <;> exact h1
  have yf : y.firstRel = some f := by rw [dis]; cases ch <;> exact h2
  have sq : y.sequence t td = (true, { y with both := false, firstRel := none }) := by
    unfold SiSt.sequence
    rw [if_neg (by rw [bd]; decide), if_pos bf, yb, yf]
    simp [h3]
  rw [sq]
  dsimp only
  rw [if_pos rfl]
  have nd : ({ y with both := false, firstRel := none } : SiSt).cleared.demanding = false := by
    unfold SiSt.bothFree at bf
    simp only [Bool.and_eq_true, Bool.not_eq_true'] at bf
    simp [SiSt.cleared, SiSt.demanding, bf.1.1.2, bf.2]
  refine ⟨rfl, ?_, ?_, ?_⟩
  · rw [entered_same]; rfl
  · rw [entered_same]; rfl
  · unfold SiSt.entered
    rw [if_neg (by rw [nd]; simp)]
    split
    · rfl
    · rename_i k
      rw [nd] at k
      simpa using k

theorem grows_raise {c i m : Nat} {s u : State} (f : u.faults = s.faults) : Grows s (raise c i m u) := (Grows.of_eq f).trans (raise_grows _ _ _ _)
end Sys2Proof.Machine
end

