-- ==== Sys2Proof/Laws/PairLaws.lean ====
section
/-! SUPPORT. What the reaction of a lockstep pair, a scrub, a fault record and a clear do. -/

namespace Sys2Proof.Machine
/-- Only the pairs, the queues, the staging session and what a fault touches have changed. -/
def PairStep (s t : State) : Prop := t.beyond = { s.beyond with lks := t.lks, pq := t.pq, cat := t.cat, ops := t.ops }
theorem PairStep.refl (s : State) : PairStep s s := rfl
theorem PairStep.trans {s t u : State} (a : PairStep s t) (b : PairStep t u) : PairStep s u := by unfold PairStep at *; rw [a] at b; exact b
theorem PairStep.after {s t u : State} (h : u.beyond = t.beyond) (a : PairStep s t) : PairStep s u := by
  unfold PairStep at *
  rw [show u.lks = t.lks from congrArg Beyond.lks h, show u.pq = t.pq from congrArg Beyond.pq h, show u.cat = t.cat from congrArg Beyond.cat h, show u.ops = t.ops from congrArg Beyond.ops h, h]
  exact a
theorem rewinds_spec (f : PQueue → PQueue) (l : List QId) (nd : l.Nodup) (s : State) : l.foldl (fun s q => updQ q f s) s = { s with pq := (l.foldl (fun s q => updQ q f s) s).pq } ∧
    ∀ q, (l.foldl (fun s q => updQ q f s) s).pq.get q = if q ∈ l then f (s.pq.get q) else s.pq.get q := by
  induction l generalizing s with
  | nil => exact ⟨rfl, fun q => by simp⟩
  | cons a l ih =>
    obtain ⟨na, nl⟩ := List.nodup_cons.1 nd
    obtain ⟨i1, i2⟩ := ih nl (updQ a f s)
    rw [List.foldl_cons]
    refine ⟨i1, fun q => ?_⟩
    rw [i2]
    show (if q ∈ l then f ((s.pq.upd a f).get q) else (s.pq.upd a f).get q) = _
    rw [Tab.get_upd]
    by_cases e : q = a
    · subst e; simp [na]
    · simp [e]
/-- What a mismatch leaves of the pair that halts. -/
theorem haltPair_spec (p : LPair) (st kind word : Nat) (s : State) : PairStep s (haltPair p st kind word s) ∧ (haltPair p st kind word s).faults = s.faults ∧ (haltPair p st kind word s).cat = s.cat ∧ (haltPair p st kind word s).ops = s.ops ∧
    (haltPair p st kind word s).lks.pairs.get p = { s.lks.pairs.get p with st := st, mismatches := satInc 8 (s.lks.pairs.get p).mismatches, kind := kind, lastWord := if kind = 5 then word else (s.lks.pairs.get p).lastWord, time := s.timeNs % 2 ^ 32, replay := [], exportDue := false } ∧
    (∀ r, r ≠ p → (haltPair p st kind word s).lks.pairs.get r = s.lks.pairs.get r) ∧ (haltPair p st kind word s).lks = { s.lks with pairs := (haltPair p st kind word s).lks.pairs } ∧
    ∀ q, (haltPair p st kind word s).pq.get q = if q ∈ mailboxes p then { (s.pq.get q).rewind with wait := none } else s.pq.get q := by
  unfold haltPair
  dsimp only
  obtain ⟨u, hu⟩ : ∃ u, u = updPair p (fun x => { x with st := st, mismatches := satInc 8 x.mismatches, kind := kind, lastWord := if kind = 5 then word else x.lastWord, time := s.timeNs % 2 ^ 32, replay := [], exportDue := false }) s := ⟨_, rfl⟩
  rw [← hu]
  have us : u = { s with lks := u.lks } := by rw [hu]; rfl
  have uq : u.pq = s.pq := by rw [us]
  have ul : u.lks = { s.lks with pairs := s.lks.pairs.upd p (fun x => { x with st := st, mismatches := satInc 8 x.mismatches, kind := kind, lastWord := if kind = 5 then word else x.lastWord, time := s.timeNs % 2 ^ 32, replay := [], exportDue := false }) } := by rw [hu]; rfl
  obtain ⟨r1, r2⟩ := rewinds_spec (fun x => { x.rewind with wait := none }) (mailboxes p) ((List.nodup_finRange 27).filter _) u
  generalize (mailboxes p).foldl (fun s q => updQ q (fun x => { x.rewind with wait := none }) s) u = v at r1 r2 ⊢
  have vl : v.lks = u.lks := by rw [r1]
  refine ⟨?_, by rw [r1, us], by rw [r1, us], by rw [r1, us], ?_, fun r k => ?_, ?_, fun q => by rw [r2, uq]⟩
  · unfold PairStep; rw [r1, us]; rfl
  · rw [vl, ul]; simp
  · rw [vl, ul]; exact Tab.get_upd_other _ _ _ _ k
  · rw [vl, ul]
theorem haltPair_ship (p : LPair) (st kind word : Nat) (s : State) : (haltPair p st kind word s).sup.ship = s.sup.ship := by
  unfold haltPair
  dsimp only
  rw [(rewinds_spec _ (mailboxes p) ((List.nodup_finRange 27).filter _) _).1]
  rfl
/-- No ship entry is under way, so a staging session that ends changes the session and the queue alone (R80, R116). -/
theorem endStage_still (s : State) (h : s.sup.ship = .none) :
    endStage s = { s with cat := { s.cat with stage := { noStage with last := s.cat.stage.last } }, ops := { s.ops with waiting := s.ops.waiting.filter (fun o => !isStagingOp o) } } := by
  unfold endStage shipProceed
  dsimp only
  rw [h]
  split
  · rfl
  · rfl
/-- The reaction of a pair, while no ship entry waits on what Ganymede's first halt ends (R408 to R411). -/
theorem pairReaction_spec (p : LPair) (first : Bool) (s : State) (h : p = .ganymede → first = true → s.sup.ship = .none) : PairStep s (pairReaction p first s) ∧ Grows s (pairReaction p first s) ∧ active (pairFault p first) p.num (pairReaction p first s) = true ∧
    (pairReaction p first s).lks = s.lks ∧ (pairReaction p first s).pq = s.pq ∧ (¬(p = .ganymede ∧ first = true) → (pairReaction p first s).beyond = s.beyond) := by
  have go : ∀ (c i : Nat) (u : State), c ≠ 0x680A → c ≠ 0x7002 → PairStep s u → Grows s u → u.lks = s.lks → u.pq = s.pq → PairStep s (raise c i 0 u) ∧ Grows s (raise c i 0 u) ∧ active c i (raise c i 0 u) = true ∧ (raise c i 0 u).lks = s.lks ∧ (raise c i 0 u).pq = s.pq := by
    intro c i u hf hq a b k l
    exact ⟨a.after (raise_beyond _ _ _ _ hf hq), b.trans (raise_grows _ _ _ _), raise_active _ _ _ _, (raise_lks _ _ _ _).trans k, (raise_pq _ _ _ _).trans l⟩
  have fin : ∀ (c i : Nat) (u : State), c ≠ 0x680A → c ≠ 0x7002 → PairStep s u → Grows s u → u.beyond = s.beyond → PairStep s (raise c i 0 u) ∧ Grows s (raise c i 0 u) ∧ active c i (raise c i 0 u) = true ∧ (raise c i 0 u).lks = s.lks ∧ (raise c i 0 u).pq = s.pq ∧ (raise c i 0 u).beyond = s.beyond := by
    intro c i u hf hq a b k
    obtain ⟨x1, x2, x3, x4, x5⟩ := go c i u hf hq a b (congrArg Beyond.lks k) (congrArg Beyond.pq k)
    exact ⟨x1, x2, x3, x4, x5, (raise_beyond _ _ _ _ hf hq).trans k⟩
  cases p with
  | io => obtain ⟨x1, x2, x3, x4, x5, x6⟩ := fin 0x6001 0 s (by decide) (by decide) (.refl s) (.refl s) rfl; exact ⟨x1, x2, x3, x4, x5, fun _ => x6⟩
  | callisto => obtain ⟨x1, x2, x3, x4, x5, x6⟩ := fin 0x6004 3 { s with saf := { s.saf with safeReq := true } } (by decide) (by decide) rfl (.of_eq rfl) rfl; exact ⟨x1, x2, x3, x4, x5, fun _ => x6⟩
  | europa =>
    cases first with
    | false => obtain ⟨x1, x2, x3, x4, x5, x6⟩ := fin 0x6005 1 s (by decide) (by decide) (.refl s) (.refl s) rfl; exact ⟨x1, x2, x3, x4, x5, fun _ => x6⟩
    | true =>
      have b : (sessionFail (stopCharger s)).beyond = s.beyond := (sessionFail_beyond _).trans (stopCharger_beyond _)
      obtain ⟨x1, x2, x3, x4, x5, x6⟩ := fin 0x6002 1 (sessionFail (stopCharger s)) (by decide) (by decide) (.after b (.refl s)) ((Grows.of_eq (stopCharger_faults s)).trans (sessionFail_grows _)) b
      exact ⟨x1, x2, x3, x4, x5, fun _ => x6⟩
  | ganymede =>
    cases first with
    | false => obtain ⟨x1, x2, x3, x4, x5, x6⟩ := fin 0x6005 2 s (by decide) (by decide) (.refl s) (.refl s) rfl; exact ⟨x1, x2, x3, x4, x5, fun _ => x6⟩
    | true => obtain ⟨x1, x2, x3, x4, x5⟩ := go 0x6003 2 (endStage s) (by decide) (by decide) (by rw [endStage_still s (h rfl rfl)]; rfl) (.of_eq (by rw [endStage_still s (h rfl rfl)])) (by rw [endStage_still s (h rfl rfl)]) (by rw [endStage_still s (h rfl rfl)]); exact ⟨x1, x2, x3, x4, x5, fun k => absurd ⟨rfl, rfl⟩ k⟩
/-- What a mismatch of a running pair does. -/
theorem mismatch_spec (p : LPair) (kind word : Nat) (s : State) (h : (s.lks.pairs.get p).st = 1) (hs : p = .ganymede → (s.lks.pairs.get p).mismatches = 0 → s.sup.ship = .none) :
    PairStep s (mismatch p kind word s) ∧ Grows s (mismatch p kind word s) ∧ active (pairFault p (decide ((s.lks.pairs.get p).mismatches = 0))) p.num (mismatch p kind word s) = true ∧
    (kind = 6 → active 0x6006 p.num (mismatch p kind word s) = true) ∧
    (mismatch p kind word s).lks.pairs.get p = { s.lks.pairs.get p with st := if (s.lks.pairs.get p).mismatches = 0 ∧ (p = .europa ∨ p = .ganymede) then 3 else 2, mismatches := satInc 8 (s.lks.pairs.get p).mismatches, kind := kind, lastWord := if kind = 5 then word else (s.lks.pairs.get p).lastWord, time := s.timeNs % 2 ^ 32, replay := [], exportDue := false } ∧
    (∀ r, r ≠ p → (mismatch p kind word s).lks.pairs.get r = s.lks.pairs.get r) ∧ (mismatch p kind word s).lks = { s.lks with pairs := (mismatch p kind word s).lks.pairs } ∧
    ∀ q, (mismatch p kind word s).pq.get q = if q ∈ mailboxes p then { (s.pq.get q).rewind with wait := none } else s.pq.get q := by
  unfold mismatch
  dsimp only
  rw [if_neg (by rw [h]; decide)]
  have es : (if (decide ((s.lks.pairs.get p).mismatches = 0) && (decide (p = .europa) || decide (p = .ganymede))) = true then 3 else 2) = (if (s.lks.pairs.get p).mismatches = 0 ∧ (p = .europa ∨ p = .ganymede) then 3 else 2) := by simp
  rw [es]
  generalize (if (s.lks.pairs.get p).mismatches = 0 ∧ (p = .europa ∨ p = .ganymede) then 3 else 2) = st
  obtain ⟨a1, a2, -, -, a3, a4, a5, a6⟩ := haltPair_spec p st kind word s
  have us : (haltPair p st kind word s).sup.ship = s.sup.ship := haltPair_ship p st kind word s
  generalize haltPair p st kind word s = u at a1 a2 a3 a4 a5 a6 us ⊢
  have hs' : p = .ganymede → decide ((s.lks.pairs.get p).mismatches = 0) = true → s.sup.ship = .none := fun a b => hs a (of_decide_eq_true b)
  generalize decide ((s.lks.pairs.get p).mismatches = 0) = f at hs' ⊢
  obtain ⟨v, hv⟩ : ∃ v, v = if kind = 6 then raise 0x6006 p.num 0 u else u := ⟨_, rfl⟩
  rw [← hv]
  have vb : v.beyond = u.beyond := by rw [hv]; split <;> simp
  have vg : Grows u v := by rw [hv]; exact .ite (raise_grows _ _ _ _) (.refl u)
  have v6 : kind = 6 → active 0x6006 p.num v = true := fun k => by rw [hv, if_pos k]; exact raise_active _ _ _ _
  have vs : v.sup.ship = s.sup.ship := by
    rw [hv]
    refine Eq.trans ?_ us
    split
    · rw [raise_low_same 0x6006 p.num 0 u (fun s => by simp [classOf, codesF0, codesF1, codesF2]) (by decide)]
    · rfl
  obtain ⟨b1, b2, b3, b4, b5, -⟩ := pairReaction_spec p f v (fun a b => vs.trans (hs' a b))
  have vl : v.lks = u.lks := congrArg Beyond.lks vb
  have vq : v.pq = u.pq := congrArg Beyond.pq vb
  refine ⟨(a1.after vb).trans b1, ((Grows.of_eq a2).trans vg).trans b2, b3, fun k => b2 _ _ (v6 k), ?_, fun r k => ?_, ?_, fun q => ?_⟩
  · rw [b4, vl, a3]
  · rw [b4, vl, a4 r k]
  · rw [b4, vl, a5]
  · rw [b5, vq, a6]

/-- A correctable error of a bank: counted, noted, and the corrected data is what the read returns (R415). -/
theorem correctable_spec (x : MemRead) (data : BitVec 64) (source nowMs : Nat) (s : State) :
    SameButFaults { s with lks := (correctable x data source nowMs s).lks } (correctable x data source nowMs s) ∧ active 0x6008 x.bank.val (correctable x data source nowMs s) = true ∧ Grows s (correctable x data source nowMs s) ∧
    (correctable x data source nowMs s).lks = { s.lks with ce := s.lks.ce.upd x.bank (satInc 16), last := (x.bank.val, 1, source, x.word), syn := (syndrome x).toNat, returned := data, ceTimes := (x.bank, nowMs) :: s.lks.ceTimes.filter (fun t => decide (nowMs < t.2 + 1000)) } ∧
    (16 ≤ ((s.lks.ceTimes.filter (fun t => decide (nowMs < t.2 + 1000))).filter (fun t => decide (t.1 = x.bank))).length → active 0x6009 x.bank.val (correctable x data source nowMs s) = true) := by
  unfold correctable
  dsimp only
  generalize x.bank = b
  obtain ⟨u, hu⟩ : ∃ u : State, u = { s with lks := { s.lks with ce := s.lks.ce.upd b (satInc 16), last := (b.val, 1, source, x.word), syn := (syndrome x).toNat, returned := data, ceTimes := (b, nowMs) :: s.lks.ceTimes.filter (fun t => decide (nowMs < t.2 + 1000)) } } := ⟨_, rfl⟩
  rw [← hu]
  have us : { s with lks := u.lks } = u := by rw [hu]
  have ul : u.lks = { s.lks with ce := s.lks.ce.upd b (satInc 16), last := (b.val, 1, source, x.word), syn := (syndrome x).toNat, returned := data, ceTimes := (b, nowMs) :: s.lks.ceTimes.filter (fun t => decide (nowMs < t.2 + 1000)) } := by rw [hu]
  have uf : u.faults = s.faults := by rw [hu]
  have sm := raise_low_same 0x6008 b.val 0 u (fun s => by simp [classOf, codesF0]) (by decide)
  have ac := raise_active 0x6008 b.val 0 u
  have gr := raise_grows 0x6008 b.val 0 u
  have vl : (raise 0x6008 b.val 0 u).lks = u.lks := raise_lks _ _ _ _
  generalize raise 0x6008 b.val 0 u = v at sm ac gr vl ⊢
  have sm2 := raise_low_same 0x6009 b.val 0 v (fun s => by simp [classOf, codesF0, codesF1]) (by decide)
  split
  · refine ⟨?_, raise_grows _ _ _ _ _ _ ac, ((Grows.of_eq uf).trans gr).trans (raise_grows _ _ _ _), ?_, fun _ => raise_active _ _ _ _⟩
    · rw [raise_lks, vl, us]; exact sm.trans sm2
    · rw [raise_lks, vl, ul]
  · rename_i k
    refine ⟨?_, ac, (Grows.of_eq uf).trans gr, ?_, fun q => ?_⟩
    · rw [vl, us]; exact sm
    · rw [vl, ul]
    · simp only [List.filter_cons, decide_true, if_true, List.length_cons] at k
      omega
/-- Only the check-bit state and what a fault of class F0 to F2 touches have changed; the scrubbers, the pairs and the uncorrectable counts have
not. -/
structure EccStep (s t : State) : Prop where
  same : SameButFaults { s with lks := t.lks } t
  grows : Grows s t
  at_sram : t.lks.wSram = s.lks.wSram
  at_map : t.lks.wMap = s.lks.wMap
  passes : t.lks.passes = s.lks.passes
  mapPasses : t.lks.mapPasses = s.lks.mapPasses
  pairs : t.lks.pairs = s.lks.pairs
  ue : t.lks.ue = s.lks.ue
theorem EccStep.refl (s : State) : EccStep s s := ⟨.refl s, .refl s, rfl, rfl, rfl, rfl, rfl, rfl⟩
theorem EccStep.trans {s u v : State} (a : EccStep s u) (b : EccStep u v) : EccStep s v := by
  refine ⟨?_, a.grows.trans b.grows, b.at_sram.trans a.at_sram, b.at_map.trans a.at_map, b.passes.trans a.passes, b.mapPasses.trans a.mapPasses, b.pairs.trans a.pairs, b.ue.trans a.ue⟩
  have a := a.same
  have b := b.same
  unfold SameButFaults at *
  generalize u.lks = l at a
  generalize u.sys.readyPin = a1 at a
  generalize u.sys.faultPin = a2 at a
  generalize u.faults = a3 at a
  generalize u.log = a4 at a
  generalize u.uds.dtcClr = a5 at a
  rw [a] at b
  exact b
theorem EccStep.raised {s : State} (c i : Nat) (l : ∀ s, classOf s c i < 3) (g : ¬(0x2803 ≤ c ∧ c ≤ 0x280C)) : EccStep s (raise c i 0 s) := by
  have e : (raise c i 0 s).lks = s.lks := raise_lks _ _ _ _
  exact ⟨by rw [e]; exact raise_low_same c i 0 s l g, raise_grows _ _ _ _, by rw [e], by rw [e], by rw [e], by rw [e], by rw [e], by rw [e]⟩
theorem correctable_step (x : MemRead) (data : BitVec 64) (source nowMs : Nat) (s : State) : EccStep s (correctable x data source nowMs s) := by
  obtain ⟨a, -, c, d, -⟩ := correctable_spec x data source nowMs s
  exact ⟨a, c, by rw [d], by rw [d], by rw [d], by rw [d], by rw [d], by rw [d]⟩
theorem writtenBack_step (b : Fin 9) (s : State) : EccStep s (writtenBack b s) := by
  unfold writtenBack
  dsimp only
  have k (x : Lks) (h : x = { s.lks with corrected := x.corrected }) : EccStep s { s with lks := x } := by rw [h]; exact ⟨rfl, .of_eq rfl, rfl, rfl, rfl, rfl, rfl, rfl⟩
  split
  · exact (k _ rfl).trans (.raised 0x6009 b.val (fun s => by simp [classOf, codesF0, codesF1]) (by decide))
  · exact k _ rfl
/-- What a scrubber does with one word, and with all the words of a read (R416). -/
theorem scrubbed_step (now : Nat) (s : State) (x : ScrubWord) : EccStep s (scrubbed now s x) := by
  unfold scrubbed
  dsimp only
  have k (u : State) (l : List (Fin 9 × Nat)) (h : EccStep s u) : EccStep s { u with lks := { u.lks with poisoned := l } } := h.trans ⟨rfl, .of_eq rfl, rfl, rfl, rfl, rfl, rfl, rfl⟩
  have it {p : Prop} [Decidable p] {u v : State} (a : EccStep s u) (b : EccStep s v) : EccStep s (if p then u else v) := by split <;> assumption
  have m : EccStep s (match verdict { bank := x.bank, word := (scrubAt s x.bank).1, data := x.data, check := x.check } with
      | .corrected d => if s.lks.poisoned.contains (x.bank, (scrubAt s x.bank).1) = true then s
          else if x.raced = true then (if x.shared = true then s else correctable { bank := x.bank, word := (scrubAt s x.bank).1, data := x.data, check := x.check } d 0 now s)
          else writtenBack x.bank (if x.shared = true then s else correctable { bank := x.bank, word := (scrubAt s x.bank).1, data := x.data, check := x.check } d 0 now s)
      | _ => s) := by
    split
    · refine it (.refl s) (it ?_ (EccStep.trans ?_ (writtenBack_step _ _))) <;> exact it (.refl s) (correctable_step _ _ _ _ _)
    · exact .refl s
  exact it (k _ _ m) m
theorem scrubs_step (now : Nat) (l : List ScrubWord) (s : State) : EccStep s (l.foldl (scrubbed now) s) := by
  induction l generalizing s with
  | nil => exact .refl s
  | cons a l ih => exact (scrubbed_step now s a).trans (ih _)

theorem pins_log (s : State) : (pins s).log = s.log := by unfold pins; split <;> rfl
theorem takeSupp_store (c i : Nat) (s : State) : (takeSupp c i s).2.log.store = s.log.store := by unfold takeSupp; split <;> rfl
/-- The record and the entry of a fault that becomes active, while the store has room. -/
theorem raiseEntry_store (b c i m : Nat) (s : State) (h : active c i s = false) (k : s.log.store.length < 64) :
    (raiseEntry b c i m s).1 = false ∧ (∃ r, (raiseEntry b c i m s).2.log.store = s.log.store ++ [r] ∧ r.code = shownCode c ∧ r.inst = i ∧ r.cls = classOf s c i ∧ r.clear = false ∧ r.block = b ∧ r.meas = m) ∧
    (raiseEntry b c i m s).2.faults = { code := c, inst := i, cls := classOf s c i, raises := 1, suppressed := 0 } :: s.faults := by
  unfold raiseEntry
  rw [if_neg (by rw [h]; decide)]
  dsimp only
  have ts := takeSupp_store c i s
  have tf : (takeSupp c i s).2.faults = s.faults := by unfold takeSupp; split <;> rfl
  unfold storeRec
  dsimp only
  rw [if_pos (by rw [ts]; exact k)]
  exact ⟨rfl, ⟨_, by unfold acceptRec; dsimp only; rw [ts], rfl, rfl, rfl, rfl, rfl, rfl⟩, by unfold acceptRec; dsimp only; rw [tf]⟩
theorem raise_store (c i m : Nat) (s : State) (cl : classOf s c i < 3) (g : ¬(0x2803 ≤ c ∧ c ≤ 0x280C)) (h : active c i s = false) (k : s.log.store.length < 64) :
    (∃ r, (raise c i m s).log.store = s.log.store ++ [r] ∧ r.code = shownCode c ∧ r.inst = i ∧ r.cls = classOf s c i ∧ r.clear = false ∧ r.block = c / 2048 ∧ r.meas = m) ∧
    (raise c i m s).faults = { code := c, inst := i, cls := classOf s c i, raises := 1, suppressed := 0 } :: s.faults := by
  obtain ⟨a, b, d⟩ := raiseEntry_store (c / 2048) c i m s h k
  have sb := raiseBaseBy_same (c / 2048) c i m s
  have e : raise c i m s = raiseBaseBy (c / 2048) c i m s := by
    have cc : classOf (raiseBaseBy (c / 2048) c i m s) c i = classOf s c i := by rw [sb]; rfl
    exact raiseBy_f2 _ _ _ _ _ (by rw [cc]; exact cl) g
  rw [e]
  unfold raiseBaseBy noteDrop
  rw [a, if_neg (by decide), pins_log, pins_faults]
  exact ⟨b, d⟩
theorem raise_again (c i m : Nat) (s : State) (h : active c i s = true) : SameButFaults s (raise c i m s) ∧ (raise c i m s).log.store = s.log.store ∧ (raise c i m s).log.suppressed = satInc 16 s.log.suppressed ∧ (∀ c' i', active c' i' (raise c i m s) = active c' i' s) := by
  have e : raise c i m s = raiseBaseBy (c / 2048) c i m s := by
    unfold raise raiseBy
    dsimp only
    rw [h]
    rfl
  have en : raiseEntry (c / 2048) c i m s = (false, { s with faults := againFault c i s.faults, log := { s.log with suppressed := satInc 16 s.log.suppressed } }) := by unfold raiseEntry; rw [if_pos h]
  rw [e]
  refine ⟨raiseBaseBy_same _ _ _ _ _, ?_, ?_, fun c' i' => ?_⟩
  · unfold raiseBaseBy noteDrop; rw [en, if_neg (by simp), pins_log]
  · unfold raiseBaseBy noteDrop; rw [en, if_neg (by simp), pins_log]
  · unfold raiseBaseBy noteDrop; rw [en, if_neg (by simp)]
    unfold active
    rw [pins_faults]
    dsimp only
    rw [findFault_again]
/-- Only what a read may clear has changed. -/
def ClearOnly (s t : State) : Prop := t = { s with mer := t.mer, pwm := t.pwm, orr := t.orr, oview := t.oview, ssTrials := t.ssTrials, pos := t.pos, gd := t.gd, pfc := t.pfc, dab := t.dab, lvc := t.lvc, thm := t.thm, act := t.act, saf := t.saf, lks := t.lks, fab := t.fab, pq := t.pq, pqSeen := t.pqSeen, vif := t.vif, log := t.log, pair := t.pair }
theorem ClearOnly.ite {s : State} {p : Prop} [Decidable p] {a b : State} (x : ClearOnly s a) (y : ClearOnly s b) : ClearOnly s (if p then a else b) := by split <;> assumption
theorem vitClearAt_frame (s : State) (b o : Nat) : ClearOnly s (vitClearAt s b o) := by
  unfold vitClearAt
  split <;> (try dsimp only) <;> repeat' (first | with_reducible (refine ClearOnly.ite ?_ ?_) | rfl)
theorem vitClear_frame (s : State) (a : Nat) : ClearOnly s (vitClear s a) := by
  unfold vitClear
  exact .ite rfl (vitClearAt_frame _ _ _)
end Sys2Proof.Machine
end

