-- ==== Sys2Proof/Laws/FabricLaws.lean ====
section
/-! SUPPORT. What the operations of the fabric leave of its ports, its identity, its lists and the rest of the state. -/

namespace Sys2Proof.Machine
/-- Only the fabric, the queues, the outbox, the free index and what a fault of a low class touches have changed, and no fault has ended. -/
def FabStep (s t : State) : Prop := SameButFaults { s with fab := t.fab, pq := t.pq, out := t.out, freeIx := t.freeIx } t ∧ Grows s t
theorem FabStep.one {s t : State} (h : SameButFaults { s with fab := t.fab, pq := t.pq, out := t.out, freeIx := t.freeIx } t) (f : t.faults = s.faults) : FabStep s t := ⟨h, .of_eq f⟩
theorem FabStep.refl (s : State) : FabStep s s := .one rfl rfl
theorem FabStep.trans {s t u : State} (a : FabStep s t) (b : FabStep t u) : FabStep s u := by
  obtain ⟨a, g⟩ := a
  obtain ⟨b, k⟩ := b
  refine ⟨?_, g.trans k⟩
  clear g k
  unfold SameButFaults at *
  generalize t.fab = l1 at a
  generalize t.pq = l2 at a
  generalize t.out = l3 at a
  generalize t.freeIx = l4 at a
  generalize t.sys.readyPin = a1 at a
  generalize t.sys.faultPin = a2 at a
  generalize t.faults = a3 at a
  generalize t.log = a4 at a
  generalize t.uds.dtcClr = a5 at a
  rw [a] at b
  exact b
theorem FabStep.via {s t u : State} (b : FabStep t u) (a : FabStep s t) : FabStep s u := a.trans b
theorem FabStep.of_same {s t : State} (h : SameButFaults s t) (g : Grows s t) : FabStep s t := by
  have h1 : t.fab = s.fab := by rw [h]
  have h2 : t.pq = s.pq := by rw [h]
  have h3 : t.out = s.out := by rw [h]
  have h4 : t.freeIx = s.freeIx := by rw [h]
  refine ⟨?_, g⟩
  rw [h1, h2, h3, h4]; exact h
theorem FabStep.raise {c i m : Nat} {s t : State} (a : FabStep s t) (h : ∀ s, classOf s c i < 3) (g : ¬(0x2803 ≤ c ∧ c ≤ 0x280C) := by decide) : FabStep s (raise c i m t) := a.trans (.of_same (raise_low_same c i m t h g) (raise_grows _ _ _ _))
theorem FabStep.ite {s : State} {p : Prop} [Decidable p] {a b : State} (x : FabStep s a) (y : FabStep s b) : FabStep s (if p then a else b) := by split <;> assumption
theorem FabStep.foldl {α : Type} {f : State → α → State} (h : ∀ s a, FabStep s (f s a)) (l : List α) (s : State) : FabStep s (l.foldl f s) := by
  induction l generalizing s with
  | nil => exact .refl s
  | cons a l ih => exact (h s a).trans (ih _)
theorem updPort_step (p : Port) (f : FabPort → FabPort) (s : State) : FabStep s (updPort p f s) := (.one rfl rfl)
theorem transmit_fab (p : Port) (ty : Nat) (b : List Byte) (s : State) : FabStep s (transmit p ty b s) := by
  unfold transmit
  dsimp only
  exact .ite (.refl s) (.ite (.one rfl rfl) (.one rfl rfl))
theorem drainWaiting_fab (p : Port) (n : Nat) (s : State) : FabStep s (drainWaiting p n s) := by
  induction n generalizing s with
  | zero => exact .refl s
  | succ n ih =>
    unfold drainWaiting
    dsimp only
    split
    · exact .refl s
    · exact .ite (.refl s) (FabStep.via (ih _) (FabStep.via (transmit_fab _ _ _ _) (.one rfl rfl)))
theorem floodOwn_fab (s : State) : FabStep s (floodOwn s) := by
  unfold floodOwn
  dsimp only
  exact FabStep.via (.foldl (fun s p => transmit_fab _ _ _ _) _ _) (.one rfl rfl)
theorem chooseRef_fab (s : State) : FabStep s (chooseRef s) := by
  unfold chooseRef
  split
  · exact .refl s
  · dsimp only
    exact .ite (.one rfl rfl) (.ite (.ite (.ite (.one rfl rfl) (.refl s)) (.ite (.one rfl rfl) (.one rfl rfl))) (.refl s))
theorem beRef_fab (s : State) : FabStep s (beRef s) := by unfold beRef; exact .ite (.one rfl rfl) (.refl s)
theorem markPorts_fab (s : State) : FabStep s (markPorts s) := (.one rfl rfl)
theorem retopo_fab (s : State) : FabStep s (retopo s) := by
  unfold retopo
  refine .ite (.refl s) ?_
  dsimp only
  have h1 : FabStep s { s with fab := { s.fab with gone := unreachableAddrs s } } := (.one rfl rfl)
  have h2 : ∀ (l : List Nat) (u : State), FabStep u (l.foldl (fun s a => raise 0x6802 a 0 s) u) := fun l u => .foldl (fun s a => (FabStep.refl s).raise (fun s => by simp [classOf, codesF0, codesF1])) l u
  have h3 := h1.trans (h2 ((unreachableAddrs s).filter (fun a => !s.fab.gone.contains a)) _)
  generalize ((unreachableAddrs s).filter (fun a => !s.fab.gone.contains a)).foldl (fun s a => raise 0x6802 a 0 s) { s with fab := { s.fab with gone := unreachableAddrs s } } = u at h3 ⊢
  have h4 : FabStep s (if u.maxDiam < diameter u then raise 0x6809 noInst (diameter u) u else u) := .ite (h3.raise (fun s => by simp [classOf, codesF0, codesF1])) h3
  exact h4.trans ((chooseRef_fab _).trans ((beRef_fab _).trans (markPorts_fab _)))
theorem portChanged_fab (s : State) : FabStep s (portChanged s) := (floodOwn_fab s).trans (retopo_fab _)
/-- A port that closes changes the fabric and the outbox alone. -/
theorem closePort_fab (k : Nat) (p : Port) (s : State) : FabStep s (closePort k p s) := by
  unfold closePort eobOut
  split <;> exact .one rfl rfl
theorem dropLink_fab (p : Port) (s : State) : FabStep s (dropLink p s) :=
  FabStep.via (portChanged_fab _) (FabStep.raise ((closePort_fab 1 p s).trans (updPort_step p _ _)) (fun s => by simp [classOf, codesF0, codesF1]))

/-- What no send and no new topology changes of a port; the replay buffer of a port that is not UP as well. -/
def portCore (x : FabPort) : Nat × Nat × Nat × Nat × List Sent := (x.st, x.nbrId, x.downs, x.codev, if x.st = 4 then [] else x.replay)
def PortsKept (s t : State) : Prop := ∀ q, portCore (t.fab.ports.get q) = portCore (s.fab.ports.get q)
theorem PortsKept.refl (s : State) : PortsKept s s := fun _ => rfl
theorem PortsKept.trans {s t u : State} (a : PortsKept s t) (b : PortsKept t u) : PortsKept s u := fun q => (b q).trans (a q)
theorem PortsKept.of_eq {s t : State} (h : t.fab.ports = s.fab.ports) : PortsKept s t := fun q => by rw [h]
theorem PortsKept.of_upd {s t : State} (p : Port) (f : FabPort → FabPort) (h : t.fab.ports = s.fab.ports.upd p f) (k : portCore (f (s.fab.ports.get p)) = portCore (s.fab.ports.get p)) : PortsKept s t := fun q => by
  rw [h, Tab.get_upd]
  split
  · rename_i e; subst e; exact k
  · rfl
theorem PortsKept.foldl {α : Type} {f : State → α → State} (h : ∀ s a, PortsKept s (f s a)) (l : List α) (s : State) : PortsKept s (l.foldl f s) := by
  induction l generalizing s with
  | nil => exact .refl s
  | cons a l ih => exact (h s a).trans (ih _)
theorem transmit_ports (p : Port) (ty : Nat) (b : List Byte) (s : State) : PortsKept s (transmit p ty b s) := by
  unfold transmit
  dsimp only
  split
  · exact .refl s
  · rename_i h
    have h : (s.fab.ports.get p).st = 4 := by omega
    split
    · exact .of_upd p (fun q => { q with waiting := q.waiting ++ [(ty, b)] }) rfl (by simp [portCore])
    · exact .of_upd p (fun q => { q with txLink := wrapInc 16 q.txLink, tx := wrapInc 16 q.tx, replay := q.replay ++ [{ link := (s.fab.ports.get p).txLink, resends := 0, ty := ty, bytes := withLink (s.fab.ports.get p).txLink b }] }) rfl (by simp [portCore, h])
theorem floodOwn_ports (s : State) : PortsKept s (floodOwn s) := by
  unfold floodOwn
  dsimp only
  exact PortsKept.trans (t := (freeBytes { s with fab := { s.fab with advSeq := s.fab.advSeq + 1 } }).2) (.of_eq rfl) (.foldl (fun s p => transmit_ports _ _ _ _) _ _)
theorem chooseRef_ports (s : State) : (chooseRef s).fab.ports = s.fab.ports := by
  unfold chooseRef
  split
  · rfl
  · dsimp only
    repeat' split
    all_goals rfl
theorem retopo_ports (s : State) : PortsKept s (retopo s) := by
  unfold retopo
  split
  · exact .refl s
  · dsimp only
    have h2 : ∀ (l : List Nat) (u : State), (l.foldl (fun s a => raise 0x6802 a 0 s) u).fab = u.fab := by
      intro l
      induction l with
      | nil => intro u; rfl
      | cons a l ih => intro u; rw [List.foldl_cons, ih]; exact raise_fab _ _ _ _
    have h3 := h2 ((unreachableAddrs s).filter (fun a => !s.fab.gone.contains a)) { s with fab := { s.fab with gone := unreachableAddrs s } }
    generalize ((unreachableAddrs s).filter (fun a => !s.fab.gone.contains a)).foldl (fun s a => raise 0x6802 a 0 s) { s with fab := { s.fab with gone := unreachableAddrs s } } = u at h3 ⊢
    have h4 : (if u.maxDiam < diameter u then raise 0x6809 noInst (diameter u) u else u).fab = u.fab := by split <;> simp
    generalize (if u.maxDiam < diameter u then raise 0x6809 noInst (diameter u) u else u) = v at h4 ⊢
    have b1 : (beRef (chooseRef v)).fab.ports = s.fab.ports := by
      have : (beRef (chooseRef v)).fab.ports = (chooseRef v).fab.ports := by unfold beRef; split <;> rfl
      rw [this, chooseRef_ports, h4, h3]
    generalize beRef (chooseRef v) = w at b1 ⊢
    intro q
    unfold markPorts
    dsimp only
    rw [Tab.get_updAll _ _ _ (by decide), if_pos (by revert q; decide), b1]
    rfl
theorem portChanged_ports (s : State) : PortsKept s (portChanged s) := (floodOwn_ports s).trans (retopo_ports _)
/-- What a port that closes leaves of the ports. -/
theorem closePort_ports (k : Nat) (p : Port) (s : State) : (closePort k p s).fab = { s.fab with ports := s.fab.ports.upd p (fun x => { x with st := k, hello := 0, helloId := 0, replay := [], waiting := [], rx := none, txWords := [], delays := [], parent := false }) } ∧ (closePort k p s).faults = s.faults := by
  unfold closePort eobOut
  split <;> exact ⟨rfl, rfl⟩
theorem dropLink_spec (p : Port) (s : State) : ((dropLink p s).fab.ports.get p).st = 1 ∧ ((dropLink p s).fab.ports.get p).replay = [] ∧ ((dropLink p s).fab.ports.get p).downs = satInc 8 (s.fab.ports.get p).downs ∧
    (∀ q, q ≠ p → ((dropLink p s).fab.ports.get q).st = (s.fab.ports.get q).st) ∧ active 0x6801 p.val (dropLink p s) = true := by
  unfold dropLink
  have c := (closePort_ports 1 p s).1
  generalize closePort 1 p s = c1 at c ⊢
  have up : ∀ q, portCore ((updPort p (fun x => { x with downs := satInc 8 x.downs }) c1).fab.ports.get q) = if q = p then (1, (s.fab.ports.get p).nbrId, satInc 8 (s.fab.ports.get p).downs, (s.fab.ports.get p).codev, []) else portCore (s.fab.ports.get q) := by
    intro q
    unfold updPort
    dsimp only
    rw [c]
    simp only [Tab.get_upd]
    by_cases e : q = p
    · simp [e, portCore]
    · simp [e]
  generalize updPort p (fun x => { x with downs := satInc 8 x.downs }) c1 = u at up ⊢
  have ra : active 0x6801 p.val (raise 0x6801 p.val 0 u) = true := raise_active _ _ _ _
  have rf : (raise 0x6801 p.val 0 u).fab = u.fab := raise_fab _ _ _ _
  generalize raise 0x6801 p.val 0 u = v at ra rf ⊢
  have k := portChanged_ports v
  have a := (portChanged_fab v).2 _ _ ra
  generalize portChanged v = w at k a ⊢
  have kp := k p
  rw [rf, up, if_pos rfl] at kp
  unfold portCore at kp
  simp only [Prod.mk.injEq] at kp
  refine ⟨kp.1, ?_, kp.2.2.1, fun q n => ?_, a⟩
  · have := kp.2.2.2.2
    rw [if_neg (by rw [kp.1]; decide)] at this
    exact this
  · have kq := k q
    rw [rf, up, if_neg n] at kq
    exact congrArg Prod.fst kq

theorem sends_eq (p : Port) (l : List Sent) (s : State) : l.foldl (fun s g => send (.fab p g.ty g.bytes) s) s = { s with out := (l.map (fun g => Emit.fab p g.ty g.bytes)).reverse ++ s.out } := by
  induction l generalizing s with
  | nil => rfl
  | cons a l ih => rw [List.foldl_cons, ih]; simp [send]
/-- Frames sent again from the `k`-th of the replay buffer on, while the first of them has been resent fewer than four times. -/
theorem resendFrom_eq (p : Port) (k : Nat) (s : State) (f : Sent) (r : List Sent) (h : (s.fab.ports.get p).replay.drop k = f :: r) (n : f.resends < 4) :
    resendFrom p k s = { s with
      fab := { s.fab with ports := s.fab.ports.upd p (fun x => { x with replay := x.replay.take k ++ (f :: r).map (fun g => { g with resends := g.resends + 1 }), resends := satAdd 8 x.resends (f :: r).length }) }
      out := ((f :: r).map (fun g => Emit.fab p g.ty g.bytes)).reverse ++ s.out } := by
  unfold resendFrom
  dsimp only
  rw [h]
  dsimp only
  rw [if_neg (by omega), sends_eq]
  rfl
theorem resendFrom_down (p : Port) (k : Nat) (s : State) (f : Sent) (r : List Sent) (h : (s.fab.ports.get p).replay.drop k = f :: r) (n : 4 ≤ f.resends) : resendFrom p k s = dropLink p s := by
  unfold resendFrom
  dsimp only
  rw [h]
  dsimp only
  rw [if_pos n]
/-- What no send and no new topology changes of the fabric. -/
def fabId (f : Fab) : List Nat × Bool × Bool × Nat × List Advert × List FabStream := (f.epoch, f.closed, f.admitted, f.addr, f.adverts, f.streams)
/-- The same identity part means the same list, the same closing of it, the same admission and the same adverts. -/
theorem fabId_parts {f g : Fab} (h : fabId f = fabId g) : f.epoch = g.epoch ∧ f.closed = g.closed ∧ f.admitted = g.admitted ∧ f.adverts = g.adverts := by
  unfold fabId at h
  simp only [Prod.mk.injEq] at h
  exact ⟨h.1, h.2.1, h.2.2.1, h.2.2.2.2.1⟩
/-- What no frame of this node's own and no topology changes of the fabric's operations. -/
def fabGop (f : Fab) : Nat × Nat × Nat × Option (FabReq × Nat) × Option (Nat × Nat × Nat × List Nat) × List (Nat × List Nat) × Nat × Nat := (f.gopKind, f.gopState, f.gopT, f.resetAt, f.snapshot, f.barriers, f.missed, f.gopOps)
/-- Both. -/
def fabCore (f : Fab) : (List Nat × Bool × Bool × Nat × List Advert × List FabStream) × (Nat × Nat × Nat × Option (FabReq × Nat) × Option (Nat × Nat × Nat × List Nat) × List (Nat × List Nat) × Nat × Nat) := (fabId f, fabGop f)
theorem fabId_of_core {f g : Fab} (h : fabCore f = fabCore g) : fabId f = fabId g := congrArg Prod.fst h
theorem foldl_core {α : Type} {f : State → α → State} (h : ∀ s a, fabCore (f s a).fab = fabCore s.fab) (l : List α) (s : State) : fabCore (l.foldl f s).fab = fabCore s.fab := by
  induction l generalizing s with
  | nil => rfl
  | cons a l ih => rw [List.foldl_cons, ih, h]
theorem transmit_core (p : Port) (ty : Nat) (b : List Byte) (s : State) : fabCore (transmit p ty b s).fab = fabCore s.fab := by
  unfold transmit
  dsimp only
  split
  · rfl
  · split <;> rfl
theorem floodOwn_core (s : State) : fabCore (floodOwn s).fab = fabCore s.fab := by
  unfold floodOwn
  dsimp only
  exact (foldl_core (fun s p => transmit_core _ _ _ _) _ _).trans rfl
theorem chooseRef_core (s : State) : fabCore (chooseRef s).fab = fabCore s.fab := by
  unfold chooseRef
  split
  · rfl
  · dsimp only
    repeat' split
    all_goals rfl
theorem retopo_core (s : State) : fabCore (retopo s).fab = fabCore s.fab := by
  unfold retopo
  split
  · rfl
  · dsimp only
    have h2 : ∀ (l : List Nat) (u : State), fabCore (l.foldl (fun s a => raise 0x6802 a 0 s) u).fab = fabCore u.fab := fun l u => foldl_core (fun s a => congrArg fabCore (raise_fab _ _ _ _)) l u
    have h3 := h2 ((unreachableAddrs s).filter (fun a => !s.fab.gone.contains a)) { s with fab := { s.fab with gone := unreachableAddrs s } }
    generalize ((unreachableAddrs s).filter (fun a => !s.fab.gone.contains a)).foldl (fun s a => raise 0x6802 a 0 s) { s with fab := { s.fab with gone := unreachableAddrs s } } = u at h3 ⊢
    have h4 : (if u.maxDiam < diameter u then raise 0x6809 noInst (diameter u) u else u).fab = u.fab := by split <;> simp
    generalize (if u.maxDiam < diameter u then raise 0x6809 noInst (diameter u) u else u) = v at h4 ⊢
    have b0 : fabCore (beRef (chooseRef v)).fab = fabCore (chooseRef v).fab := by unfold beRef; split <;> rfl
    exact Eq.trans (b := fabCore (beRef (chooseRef v)).fab) rfl (b0.trans ((chooseRef_core v).trans ((congrArg fabCore h4).trans h3)))
theorem portChanged_core (s : State) : fabCore (portChanged s).fab = fabCore s.fab := (retopo_core _).trans (floodOwn_core _)
theorem transmit_fabId (p : Port) (ty : Nat) (b : List Byte) (s : State) : fabId (transmit p ty b s).fab = fabId s.fab := fabId_of_core (transmit_core p ty b s)
theorem floodOwn_fabId (s : State) : fabId (floodOwn s).fab = fabId s.fab := fabId_of_core (floodOwn_core s)
theorem retopo_fabId (s : State) : fabId (retopo s).fab = fabId s.fab := fabId_of_core (retopo_core s)
theorem foldl_fabId {α : Type} {f : State → α → State} (h : ∀ s a, fabId (f s a).fab = fabId s.fab) (l : List α) (s : State) : fabId (l.foldl f s).fab = fabId s.fab := foldl_part (fun s => fabId s.fab) h l s
theorem portChanged_fabId (s : State) : fabId (portChanged s).fab = fabId s.fab := (retopo_fabId _).trans (floodOwn_fabId _)
theorem excludePort_fab (p : Port) (s : State) : FabStep s (excludePort p s) := closePort_fab _ _ _
theorem excludePort_eq (p : Port) (s : State) : excludePort p s = { s with fab := { s.fab with ports := (excludePort p s).fab.ports }, out := (excludePort p s).out } := by
  unfold excludePort closePort eobOut
  split <;> rfl
theorem excludePort_st (p q : Port) (s : State) : ((excludePort p s).fab.ports.get q).st = if q = p then 5 else (s.fab.ports.get q).st := by
  unfold excludePort
  rw [(closePort_ports 5 p s).1]
  dsimp only
  rw [Tab.get_upd]
  split <;> rfl
/-- Every enabled port of a list is EXCLUDED, and nothing else changes but what left the ports. -/
theorem exclude_fold (l : List Port) (s : State) : ∃ (P : Tab Port FabPort) (O : List Emit), l.foldl (fun s p => if (s.fab.ports.get p).st = 0 then s else excludePort p s) s = { s with fab := { s.fab with ports := P }, out := O } ∧
    ∀ q, (P.get q).st = if (s.fab.ports.get q).st = 0 then 0 else if q ∈ l then 5 else (s.fab.ports.get q).st := by
  induction l generalizing s with
  | nil => exact ⟨s.fab.ports, s.out, rfl, fun q => by split <;> simp_all⟩
  | cons a l ih =>
    rw [List.foldl_cons]
    have h : ∃ (Q : Tab Port FabPort) (O : List Emit), (if (s.fab.ports.get a).st = 0 then s else excludePort a s) = { s with fab := { s.fab with ports := Q }, out := O } ∧ ∀ q, (Q.get q).st = if q = a ∧ (s.fab.ports.get q).st ≠ 0 then 5 else (s.fab.ports.get q).st := by
      split
      · rename_i z
        exact ⟨s.fab.ports, s.out, rfl, fun q => by split; rename_i y; exact absurd (y.1 ▸ z) y.2; rfl⟩
      · rename_i z
        refine ⟨_, _, excludePort_eq a s, fun q => ?_⟩
        rw [excludePort_st]
        by_cases y : q = a
        · rw [if_pos y, if_pos ⟨y, by rw [y]; exact z⟩]
        · rw [if_neg y, if_neg (by simp [y])]
    obtain ⟨Q, O, h1, h2⟩ := h
    rw [h1]
    obtain ⟨P, O2, g1, g2⟩ := ih { s with fab := { s.fab with ports := Q }, out := O }
    refine ⟨P, O2, g1, fun q => ?_⟩
    rw [g2, h2]
    by_cases y : q = a <;> by_cases z : (s.fab.ports.get q).st = 0 <;> simp [y, z]
    all_goals (subst y; simp [z])
theorem closeList_fab (ids : List Nat) (s : State) : FabStep s (closeList ids s) := by
  unfold closeList
  generalize hu : ({ s with fab := { s.fab with epoch := ids, closed := true } } : State) = u
  have a : FabStep s u := by rw [← hu]; exact .one rfl rfl
  dsimp only
  split
  · rename_i n _
    have key : ∀ k : Nat, FabStep u (portChanged { u with fab := { u.fab with admitted := true, addr := n, timeRef := k } }) := fun k => FabStep.trans (t := { u with fab := { u.fab with admitted := true, addr := n, timeRef := k } }) (.one rfl rfl) (portChanged_fab _)
    exact a.trans (key _)
  · have b := a.trans (floodOwn_fab u)
    generalize floodOwn u = w at b ⊢
    obtain ⟨P, O, e, -⟩ := exclude_fold portAll w
    rw [e]
    exact b.trans (.one rfl rfl)
/-- The node takes the list and, where its identity is among the 32 lowest, its rank as address. -/
theorem closeList_id (ids : List Nat) (s : State) : fabId (closeList ids s).fab = match (ids.take 32).findIdx? (fun x => decide (x = s.ident)) with
    | some a => (ids, true, true, a, s.fab.adverts, s.fab.streams)
    | none => (ids, true, s.fab.admitted, s.fab.addr, s.fab.adverts, s.fab.streams) := by
  unfold closeList
  generalize hu : ({ s with fab := { s.fab with epoch := ids, closed := true } } : State) = u
  have e : addrOf u u.ident = (ids.take 32).findIdx? (fun x => decide (x = s.ident)) := by rw [← hu]; rfl
  have i : fabId u.fab = (ids, true, s.fab.admitted, s.fab.addr, s.fab.adverts, s.fab.streams) := by rw [← hu]; rfl
  dsimp only
  rw [e]
  generalize (ids.take 32).findIdx? (fun x => decide (x = s.ident)) = o
  cases o with
  | none =>
    dsimp only
    have b := (floodOwn_fabId u).trans i
    generalize floodOwn u = w at b ⊢
    obtain ⟨P, O, e, -⟩ := exclude_fold portAll w
    rw [e]
    exact b
  | some a =>
    dsimp only
    have key : ∀ k : Nat, fabId (portChanged { u with fab := { u.fab with admitted := true, addr := a, timeRef := k } }).fab = (ids, true, true, a, s.fab.adverts, s.fab.streams) := by
      intro k
      rw [portChanged_fabId]
      unfold fabId at i ⊢
      simp only [Prod.mk.injEq] at i
      obtain ⟨i1, i2, -, -, i5, i6⟩ := i
      dsimp only
      rw [i1, i2, i5, i6]
    exact key _
/-- 0x680A excludes every enabled port (R454). -/
theorem raise_stop (i m : Nat) (s : State) : ∃ (P : Tab Port FabPort) (O : List Emit), (raise 0x680A i m s).beyond = ({ s with fab := { s.fab with ports := P }, out := O } : State).beyond ∧
    ∀ q, (P.get q).st = 0 ↔ (s.fab.ports.get q).st = 0 := by
  have b : (raiseBaseBy (0x680A / 2048) 0x680A i m s).beyond = s.beyond := (raiseBaseBy_same _ _ _ _ _).beyond
  have k : ∃ (P : Tab Port FabPort) (O : List Emit), (raiseBaseBy (0x680A / 2048) 0x680A i m s).beyond = ({ s with fab := { s.fab with ports := P }, out := O } : State).beyond ∧ ∀ q, (P.get q).st = 0 ↔ (s.fab.ports.get q).st = 0 :=
    ⟨s.fab.ports, s.out, b, fun q => Iff.rfl⟩
  unfold raise raiseBy
  dsimp only
  generalize raiseBaseBy (0x680A / 2048) 0x680A i m s = v at b k ⊢
  have c : classOf v 0x680A i = 3 := by simp [classOf, codesF0, codesF1, codesF2, codesF4]
  split
  · rw [c]
    obtain ⟨P, O, e, g⟩ := exclude_fold portAll v
    have r : reactF3 0x680A i v = { v with fab := { v.fab with ports := P }, out := O } := (show reactF3 0x680A i v = fabricStop v from rfl).trans e
    refine ⟨P, O, ?_, fun q => ?_⟩
    · refine (pins_beyond _).trans ?_
      rw [r]
      show { v.beyond with fab := { v.fab with ports := P }, out := O } = _
      rw [show v.fab = s.fab from congrArg Beyond.fab b, b]
      rfl
    · rw [g q, show v.fab = s.fab from congrArg Beyond.fab b]
      by_cases z : (s.fab.ports.get q).st = 0
      · simp [z]
      · simp only [z, if_false, iff_false]
        split <;> omega
  · exact k
/-- A port that closes, and a fault's reaction, leave the operations and the identity of the fabric. -/
theorem closePort_core (k : Nat) (p : Port) (s : State) : fabCore (closePort k p s).fab = fabCore s.fab := by rw [(closePort_ports k p s).1]; rfl
theorem reactF3_core (c i : Nat) (s : State) : fabCore (reactF3 c i s).fab = fabCore s.fab := by
  by_cases hf : c = 0x680A
  · subst hf
    refine foldl_core (fun s p => ?_) portAll s
    split
    · rfl
    · exact closePort_core _ _ _
  · by_cases hq : c = 0x7002
    · subst hq
      by_cases hi : i = 21
      · subst hi; exact congrArg (fun b => fabCore b.fab) (show (reactF3 0x7002 21 s).beyond = s.beyond by simp [reactF3, missCode])
      · have e : reactF3 0x7002 i s = queueStop i s := by simp [reactF3, missCode, hi]
        rw [e]
        unfold queueStop
        dsimp only
        repeat' split
        all_goals first | exact closePort_core _ _ _ | rfl
    · exact congrArg (fun b => fabCore b.fab) (reactF3_beyond c i s hf hq)
theorem raise_core (c i m : Nat) (s : State) : fabCore (raise c i m s).fab = fabCore s.fab := by
  have k : fabCore (raiseBaseBy (c / 2048) c i m s).fab = fabCore s.fab := congrArg (fun b => fabCore b.fab) (raiseBaseBy_same _ _ _ _ _).beyond
  unfold raise raiseBy
  dsimp only
  generalize raiseBaseBy (c / 2048) c i m s = v at k ⊢
  refine Eq.trans ?_ k
  have pb : ∀ u : State, fabCore (pins u).fab = fabCore u.fab := fun u => congrArg (fun b => fabCore b.fab) (pins_beyond u)
  split
  · split
    · rw [pb]; exact reactF3_core _ _ _
    · exact congrArg (fun b : Beyond => fabCore b.fab) ((pins_beyond _).trans (reactF4_beyond _ _))
    · exact congrArg (fun b : Beyond => fabCore b.fab) (reactF2_beyond _ _ _)
    · rfl
  · rfl
/-- Two adverts that contradict each other. -/
theorem collide_spec (a : Advert) (s : State) : active 0x680A ((addrOf s a.id).getD noInst) (collide a s) = true ∧ (∀ q, ((collide a s).fab.ports.get q).st = if (s.fab.ports.get q).st = 0 then 0 else 5) ∧
    (collide a s).fab = { s.fab with ports := (collide a s).fab.ports } ∧ (collide a s).beyond = { s.beyond with fab := (collide a s).fab, out := (collide a s).out } := by
  unfold collide
  have r1 : active 0x680A ((addrOf s a.id).getD noInst) (raise 0x680A ((addrOf s a.id).getD noInst) 0 s) = true := raise_active _ _ _ _
  obtain ⟨Q, N, r2, r4⟩ := raise_stop ((addrOf s a.id).getD noInst) 0 s
  generalize raise 0x680A ((addrOf s a.id).getD noInst) 0 s = u at r1 r2 ⊢
  have r3 : u.fab = { s.fab with ports := Q } := congrArg Beyond.fab r2
  obtain ⟨P, O, g1, g2⟩ := exclude_fold portAll u
  rw [g1]
  refine ⟨r1, fun q => ?_, by rw [r3], ?_⟩
  · dsimp only
    rw [g2, r3, if_pos (c := q ∈ portAll) (by revert q; decide)]
    by_cases z : (s.fab.ports.get q).st = 0
    · rw [if_pos z, if_pos ((r4 q).2 z)]
    · rw [if_neg z, if_neg (fun k => z ((r4 q).1 k))]
  · rw [show ({ u with fab := { u.fab with ports := P }, out := O } : State).beyond = { u.beyond with fab := { u.fab with ports := P }, out := O } from rfl, r2]; rfl
theorem mergeList_fab (p : Port) (a : Advert) (s : State) : FabStep s (mergeList p a s) := by
  unfold mergeList
  refine .ite (.ite (.refl s) ?_) (.ite (.ite (closeList_fab _ _) ?_) (.ite (.refl s) ?_))
  · exact .ite (FabStep.via (portChanged_fab _) (FabStep.via (excludePort_fab _ _) ((FabStep.refl s).raise (fun s => by simp [classOf, codesF0, codesF1])))) ((FabStep.refl s).raise (fun s => by simp [classOf, codesF0, codesF1]))
  · exact FabStep.via (portChanged_fab _) ((excludePort_fab p s).raise (fun s => by simp [classOf, codesF0, codesF1]))
  · exact FabStep.via (floodOwn_fab _) (.one rfl rfl)
/-- Fabric time loses lock: 0x6805 is active, and only the anchored carriers change beyond the fabric (R151, R460). -/
theorem loseLock_spec (s : State) (h : s.fab.lock = true) : (loseLock s).beyond = { s.beyond with fab := { s.fab with lock := false, goodRun := 0, badRun := 0 } } ∧ active 0x6805 noInst (loseLock s) = true := by
  unfold loseLock
  rw [if_pos h]
  refine ⟨(anchorsHold_beyond _).trans ((raise_beyond _ _ _ _).trans rfl), ?_⟩
  unfold anchorsHold
  refine foldl_inv (P := fun s => active 0x6805 noInst s = true) (fun s g q => ?_) _ _ (raise_active _ _ _ _)
  split
  · exact raise_grows _ _ _ _ _ _ (by exact q)
  · exact q
theorem sendTime_fab (p : Port) (s : State) : FabStep s (sendTime p s) := by
  unfold sendTime
  dsimp only
  exact FabStep.via (transmit_fab _ _ _ _) (.one rfl rfl)

theorem mergeList_adverts (p : Port) (a : Advert) (s : State) : (mergeList p a s).fab.adverts = s.fab.adverts := by
  have pc : ∀ u, (portChanged u).fab.adverts = u.fab.adverts := fun u => (fabId_parts (portChanged_fabId u)).2.2.2
  have rc : ∀ c i m u, (raise c i m u).fab.adverts = u.fab.adverts := fun c i m u => (fabId_parts (fabId_of_core (raise_core c i m u))).2.2.2
  have fo : ∀ u, (floodOwn u).fab.adverts = u.fab.adverts := fun u => (fabId_parts (floodOwn_fabId u)).2.2.2
  have cl : ∀ l u, (closeList l u).fab.adverts = u.fab.adverts := fun l u => by
    have := congrArg (fun x => x.2.2.2.2.1) (closeList_id l u)
    revert this
    split <;> exact id
  unfold mergeList
  dsimp only
  split
  · split
    · rfl
    · split
      · rw [pc, excludePort_eq]; dsimp only; rw [rc]
      · rw [rc]
  · split
    · split
      · exact cl _ _
      · rw [pc, rc, excludePort_eq]
    · generalize (s.ident :: a.id :: (if a.closed then [] else a.list)).foldl (fun l x => insertId x l) s.fab.epoch = ids
      split
      · rfl
      · rw [fo]
/-- What a list that is still open becomes, and what a neighbour's closed list does. -/
theorem mergeList_open (p : Port) (a : Advert) (s : State) (h : s.fab.closed = false) :
    (((s.fab.ports.get p).nbrId ≠ a.id ∨ a.closed = false) → (mergeList p a s).fab.epoch = (s.ident :: a.id :: (if a.closed then [] else a.list)).foldl (fun l x => insertId x l) s.fab.epoch ∧ (mergeList p a s).fab.closed = false) ∧
    ((s.fab.ports.get p).nbrId = a.id → a.closed = true → a.list.contains s.ident = true → (mergeList p a s).fab.epoch = a.list ∧ (mergeList p a s).fab.closed = true) ∧
    ((s.fab.ports.get p).nbrId = a.id → a.closed = true → a.list.contains s.ident = false → ((mergeList p a s).fab.ports.get p).st = 5 ∧ active 0x6804 p.val (mergeList p a s) = true ∧ (mergeList p a s).fab.admitted = s.fab.admitted) := by
  have fo : ∀ u, (floodOwn u).fab.epoch = u.fab.epoch ∧ (floodOwn u).fab.closed = u.fab.closed := fun u => ⟨(fabId_parts (floodOwn_fabId u)).1, (fabId_parts (floodOwn_fabId u)).2.1⟩
  unfold mergeList
  dsimp only
  rw [if_neg (by rw [h]; decide)]
  refine ⟨fun k => ?_, fun k1 k2 k3 => ?_, fun k1 k2 k3 => ?_⟩
  · rw [if_neg (by rintro ⟨x, y⟩; rcases k with k | k; exact k (of_decide_eq_true x); rw [k] at y; cases y)]
    generalize (s.ident :: a.id :: (if a.closed then [] else a.list)).foldl (fun l x => insertId x l) s.fab.epoch = ids
    split
    · rename_i e; exact ⟨e.symm, h⟩
    · rw [(fo _).1, (fo _).2]; exact ⟨rfl, h⟩
  · rw [if_pos ⟨decide_eq_true k1, k2⟩, if_pos k3]
    have := closeList_id a.list s
    revert this
    split <;> exact fun e => ⟨congrArg (fun x => x.1) e, congrArg (fun x => x.2.1) e⟩
  · rw [if_pos ⟨decide_eq_true k1, k2⟩, if_neg (by rw [k3]; decide)]
    have x5 : ((excludePort p s).fab.ports.get p).st = 5 := by rw [excludePort_st, if_pos rfl]
    have xa : (excludePort p s).fab.admitted = s.fab.admitted := by rw [excludePort_eq]
    generalize excludePort p s = u at x5 xa ⊢
    have ra : active 0x6804 p.val (raise 0x6804 p.val 0 u) = true := raise_active _ _ _ _
    have rf : (raise 0x6804 p.val 0 u).fab = u.fab := raise_fab _ _ _ _
    generalize raise 0x6804 p.val 0 u = v at ra rf ⊢
    have y1 := portChanged_ports v p
    have y2 := portChanged_fab v
    have y3 := portChanged_fabId v
    generalize portChanged v = w at y1 y2 y3 ⊢
    rw [rf] at y1 y3
    have z1 : (w.fab.ports.get p).st = (u.fab.ports.get p).st := congrArg Prod.fst y1
    have z3 : w.fab.admitted = u.fab.admitted := congrArg (fun x => x.2.2.1) y3
    exact ⟨z1.trans x5, y2.2 _ _ ra, z3.trans xa⟩
theorem learnFlood_spec (p : Port) (v : State) : FabStep v (learnFlood p v) ∧ fabId (learnFlood p v).fab = fabId v.fab ∧ PortsKept v (learnFlood p v) := by
  unfold learnFlood
  dsimp only
  have f : FabStep v (freeBytes v).2 := .one rfl rfl
  have f2 : (freeBytes v).2.fab = v.fab := rfl
  generalize (freeBytes v).2 = w at f f2 ⊢
  generalize linkFrame v (freeBytes v).1 = lf
  generalize portAll.filter (fun q => decide (q ≠ p)) = l
  exact ⟨f.trans (.foldl (fun s q => transmit_fab _ _ _ _) _ _), (foldl_fabId (fun s q => transmit_fabId _ _ _ _) l w).trans (congrArg fabId f2), (PortsKept.of_eq (congrArg Fab.ports f2)).trans (.foldl (fun s q => transmit_ports _ _ _ _) _ _)⟩
theorem learnBase_fab (a : Advert) (b : Bool) (s : State) : FabStep s (learnBase a b s) := .one rfl rfl
theorem learnAdvert_fab (p : Port) (a : Advert) (b : Bool) (s : State) : FabStep s (learnAdvert p a b s) :=
  (learnBase_fab a b s).trans ((learnFlood_spec p _).1.trans ((mergeList_fab _ _ _).trans (retopo_fab _)))
/-- What a new advert leaves: itself in place of the node's former one, the open list grown, a closed list adopted, or the port out of service. -/
theorem learnAdvert_spec (p : Port) (a : Advert) (b : Bool) (s : State) :
    (learnAdvert p a b s).fab.adverts = a :: s.fab.adverts.filter (fun b => decide (b.id ≠ a.id)) ∧
    (s.fab.closed = false → ((s.fab.ports.get p).nbrId ≠ a.id ∨ a.closed = false) → (learnAdvert p a b s).fab.epoch = (s.ident :: a.id :: (if a.closed then [] else a.list)).foldl (fun l x => insertId x l) s.fab.epoch ∧ (learnAdvert p a b s).fab.closed = false) ∧
    (s.fab.closed = false → (s.fab.ports.get p).nbrId = a.id → a.closed = true → a.list.contains s.ident = true → (learnAdvert p a b s).fab.epoch = a.list ∧ (learnAdvert p a b s).fab.closed = true) ∧
    (s.fab.closed = false → (s.fab.ports.get p).nbrId = a.id → a.closed = true → a.list.contains s.ident = false → ((learnAdvert p a b s).fab.ports.get p).st = 5 ∧ active 0x6804 p.val (learnAdvert p a b s) = true ∧ (learnAdvert p a b s).fab.admitted = s.fab.admitted) := by
  obtain ⟨l1, l2, l3⟩ := learnFlood_spec p (learnBase a b s)
  have i0 : (learnFlood p (learnBase a b s)).ident = s.ident := by
    have : (learnFlood p (learnBase a b s)).otp = (learnBase a b s).otp := by rw [l1.1]
    unfold State.ident; rw [this]; rfl
  unfold learnAdvert
  generalize learnFlood p (learnBase a b s) = u at l1 l2 l3 i0 ⊢
  have u1 : u.fab.adverts = a :: s.fab.adverts.filter (fun b => decide (b.id ≠ a.id)) := congrArg (fun x => x.2.2.2.2.1) l2
  have u2 : u.fab.closed = s.fab.closed := congrArg (fun x => x.2.1) l2
  have u3 : u.fab.epoch = s.fab.epoch := congrArg (fun x => x.1) l2
  have u4 : u.fab.admitted = s.fab.admitted := congrArg (fun x => x.2.2.1) l2
  have u5 : (u.fab.ports.get p).nbrId = (s.fab.ports.get p).nbrId := congrArg (fun x => x.2.1) (l3 p)
  have m1 := mergeList_adverts p a u
  have m2 := mergeList_open p a u
  generalize mergeList p a u = v at m1 m2 ⊢
  have r1 := retopo_fabId v
  have r2 := retopo_ports v p
  have r3 := (retopo_fab v).2
  generalize retopo v = w at r1 r2 r3 ⊢
  have w1 : w.fab.adverts = v.fab.adverts := congrArg (fun x => x.2.2.2.2.1) r1
  have w2 : w.fab.closed = v.fab.closed := congrArg (fun x => x.2.1) r1
  have w3 : w.fab.epoch = v.fab.epoch := congrArg (fun x => x.1) r1
  have w4 : w.fab.admitted = v.fab.admitted := congrArg (fun x => x.2.2.1) r1
  have w5 : (w.fab.ports.get p).st = (v.fab.ports.get p).st := congrArg Prod.fst r2
  rw [i0, u2, u3, u4, u5] at m2
  rw [w1, w2, w3, w4, w5, m1]
  refine ⟨u1, fun h => (m2 h).1, fun h => (m2 h).2.1, fun h k1 k2 k3 => ?_⟩
  obtain ⟨x1, x2, x3⟩ := (m2 h).2.2 k1 k2 k3
  exact ⟨x1, r3 _ _ x2, x3⟩

/-- Only the fabric, the queues, a staging session, the outbox, the free index and what a fault touches have changed, no fault has ended, and the
operations and the identity of the fabric stand. -/
def FabSent (s t : State) : Prop := t.beyond = { s.beyond with fab := t.fab, pq := t.pq, pqSeen := t.pqSeen, cat := t.cat, out := t.out, freeIx := t.freeIx } ∧ Grows s t ∧ fabCore t.fab = fabCore s.fab
theorem FabSent.refl (s : State) : FabSent s s := ⟨rfl, .refl s, rfl⟩
theorem FabSent.trans {s t u : State} (a : FabSent s t) (b : FabSent t u) : FabSent s u := by
  obtain ⟨a1, a2, a3⟩ := a
  obtain ⟨b1, b2, b3⟩ := b
  exact ⟨by rw [b1, a1], a2.trans b2, b3.trans a3⟩
theorem FabSent.of_step {s t : State} (h : FabStep s t) (c : fabCore t.fab = fabCore s.fab) : FabSent s t := by
  obtain ⟨h, g⟩ := h
  refine ⟨?_, g, c⟩
  rw [show t.pqSeen = s.pqSeen by rw [h], show t.cat = s.cat by rw [h]]
  exact h.beyond
theorem FabSent.of_beyond {s t : State} (h : t.beyond = s.beyond) (g : Grows s t) : FabSent s t := by
  refine ⟨?_, g, congrArg (fun b => fabCore b.fab) h⟩
  rw [show t.fab = s.fab from congrArg Beyond.fab h, show t.pq = s.pq from congrArg Beyond.pq h, show t.pqSeen = s.pqSeen from congrArg Beyond.pqSeen h, show t.cat = s.cat from congrArg Beyond.cat h,
    show t.out = s.out from congrArg Beyond.out h, show t.freeIx = s.freeIx from congrArg Beyond.freeIx h]
  exact h
theorem FabSent.raise (c i m : Nat) (s : State) : FabSent s (raise c i m s) := by
  have a := raise_around c i m s
  refine ⟨?_, raise_grows _ _ _ _, raise_core c i m s⟩
  rw [raise_pq, show (Machine.raise c i m s).pqSeen = s.pqSeen from congrArg Beyond.pqSeen a, show (Machine.raise c i m s).freeIx = s.freeIx from congrArg Beyond.freeIx a]
  exact a
theorem FabSent.fab (s : State) (f : Fab) (h : fabCore f = fabCore s.fab) : FabSent s { s with fab := f } := ⟨rfl, .of_eq rfl, h⟩
theorem FabSent.ite {s : State} {p : Prop} [Decidable p] {a b : State} (x : FabSent s a) (y : FabSent s b) : FabSent s (if p then a else b) := by split <;> assumption
theorem FabSent.foldl {α : Type} {f : State → α → State} (h : ∀ s a, FabSent s (f s a)) (l : List α) (s : State) : FabSent s (l.foldl f s) := by
  induction l generalizing s with
  | nil => exact .refl s
  | cons a l ih => exact (h s a).trans (ih _)
/-- Ports that have left UP are settled (R451, R457). -/
theorem settlePorts_sent (o s : State) : FabSent s (settlePorts o s) := by
  unfold settlePorts
  exact .ite (.of_step (portChanged_fab _) (portChanged_core _)) (.refl s)
/-- A queue that resets (R434 to R439). -/
theorem resetQueue_sent (q : QId) (c : Fin 8) (n : Nat) (s : State) : FabSent s (resetQueue q c n s) := by
  unfold resetQueue
  dsimp only
  generalize lostItems (s.pq.get q) = lost
  generalize (s.pq.get q).cleared lost c.val (markCause ((s.pq.get q).chains.get c).marks) (s.timeNs % 2 ^ 32) n = y
  generalize (if s.pqSeen.contains q = true then s.pqSeen else q :: s.pqSeen) = l
  generalize hu : ({ s with pq := s.pq.put q y, pqSeen := l } : State) = u
  have a : FabSent s u := by rw [← hu]; exact ⟨rfl, .of_eq rfl, rfl⟩
  have b := a.trans (FabSent.raise 0x7001 q.val lost u)
  generalize Machine.raise 0x7001 q.val lost u = v at b
  have d := b.trans (FabSent.raise 0x7002 q.val lost v)
  generalize Machine.raise 0x7002 q.val lost v = w at d
  exact .ite (d.trans (settlePorts_sent v w)) b
theorem checkQueue_sent (q : QId) (s : State) : FabSent s (checkQueue q s) := by
  unfold checkQueue
  split
  · exact resetQueue_sent _ _ _ _
  · exact .refl s
theorem pushPacket_sent (q : QId) (c : Fin 8) (ws : List (BitVec 64)) (s : State) : FabSent s (pushPacket q c ws s) := by
  unfold pushPacket
  have h := checkQueue_sent q s
  generalize checkQueue q s = u at h ⊢
  dsimp only
  exact h.trans (.ite ⟨rfl, .of_eq rfl, rfl⟩ ⟨rfl, .of_eq rfl, rfl⟩)
theorem queueOut_sent (p : Port) (c : Nat) (b : List Byte) (s : State) : FabSent s (queueOut p c b s) := pushPacket_sent _ _ _ _
theorem route_sent (d : Option Nat) (c : Nat) (b : List Byte) (s : State) : FabSent s (route d c b s) := by
  unfold route
  split
  · split
    · exact queueOut_sent _ _ _ _
    · exact ⟨rfl, .of_eq rfl, rfl⟩
  · exact .foldl (fun s p => queueOut_sent _ _ _ _) _ _
theorem sendCtl_sent (ty cls : Nat) (d : Option Nat) (x y : Nat) (b : List Byte) (s : State) : FabSent s (sendCtl ty cls d x y b s) := by
  have k (x : List ((Nat × Nat) × Nat)) : FabSent s { s with fab := { s.fab with txCnt := x } } := .fab s _ rfl
  unfold sendCtl
  dsimp only
  exact .ite (.refl s) ((k _).trans (route_sent _ _ _ _))
theorem sendData_sent (c d x y : Nat) (b : List Byte) (s : State) : FabSent s (sendData c d x y b s) := by
  have k (x : List (Nat × Nat)) : FabSent s { s with fab := { s.fab with txData := x } } := .fab s _ rfl
  unfold sendData
  dsimp only
  exact .ite (.refl s) ((k _).trans (route_sent _ _ _ _))
theorem bulk_sent (s : State) (x : List (Nat × Nat × Nat × Nat × List Byte)) : FabSent s { s with fab := { s.fab with bulk := x } } := .fab s _ rfl
theorem drainBulk_sent (n : Nat) (s : State) : FabSent s (drainBulk n s) := by
  induction n generalizing s with
  | zero => exact .refl s
  | succ n ih =>
    unfold drainBulk
    split
    · exact .refl s
    · exact .ite (((bulk_sent s _).trans (sendData_sent _ _ _ _ _ _)).trans (ih _)) (.refl s)
theorem sendBulk_sent (c d x y : Nat) (l : List (List Byte)) (s : State) : FabSent s (sendBulk c d x y l s) := by
  unfold sendBulk
  exact (bulk_sent s _).trans (drainBulk_sent _ _)
theorem mgmtReply_sent (a b c d e f : Nat) (l : List Byte) (s : State) : FabSent s (mgmtReply a b c d e f l s) := sendCtl_sent _ _ _ _ _ _ _
theorem reply_sent (r : FabReq) (op st : Nat) (l : List Byte) (s : State) : FabSent s (reply r op st l s) := mgmtReply_sent _ _ _ _ _ _ _ _
theorem takeFrame_sent (p : Port) (h : FabHeader) (w : RxWay) (b : List Byte) (s : State) : FabSent s (takeFrame p h w b s) := by
  unfold takeFrame
  split
  · exact .refl s
  · refine .ite (.refl s) ?_
    dsimp only
    refine .ite ?_ (pushPacket_sent _ _ _ _)
    split
    · exact (pushPacket_sent _ _ _ _).trans (.foldl (fun s e => queueOut_sent _ _ _ _) _ _)
    · exact pushPacket_sent _ _ _ _
  · exact .of_step (transmit_fab _ _ _ _) (transmit_core _ _ _ _)
  · exact queueOut_sent _ _ _ _

/-- A request whose instant has passed: MISSED counts it, GOP shows it, 0x6808 is active (R462). -/
theorem missed_spec (r : FabReq) (kind op : Nat) (s : State) : active 0x6808 noInst (missed r kind op s) = true ∧ Grows s (missed r kind op s) ∧
    fabGop (missed r kind op s).fab = (kind, 3, s.fab.gopT, s.fab.resetAt, s.fab.snapshot, s.fab.barriers, satInc 8 s.fab.missed, s.fab.gopOps) := by
  unfold missed setGop
  dsimp only
  generalize hu : ({ s with fab := { s.fab with missed := satInc 8 s.fab.missed, gopKind := kind, gopState := 3 } } : State) = u
  have uf : u.faults = s.faults := by rw [← hu]
  have ug : fabGop u.fab = (kind, 3, s.fab.gopT, s.fab.resetAt, s.fab.snapshot, s.fab.barriers, satInc 8 s.fab.missed, s.fab.gopOps) := by rw [← hu]; rfl
  obtain ⟨-, b, c⟩ := mgmtReply_sent r.node r.ep (if op = 0x22 then 6 else 0) op r.tag 9 [] (raise 0x6808 noInst 0 u)
  refine ⟨b _ _ (raise_active _ _ _ _), ((Grows.of_eq uf).trans (raise_grows _ _ _ _)).trans b, ?_⟩
  have c := congrArg Prod.snd c
  exact (c.trans (congrArg Prod.snd (raise_core _ _ _ _))).trans ug
theorem readList_frame (l : List Nat) (s : State) : ClearOnly s (readList l s).2 := by
  induction l generalizing s with
  | nil => rfl
  | cons a l ih =>
    unfold readList
    dsimp only
    have h1 := vitClear_frame s a
    have h2 := ih (vitClear s a)
    unfold ClearOnly at *
    generalize (readList l (vitClear s a)).2 = u at h2 ⊢
    rw [h2, h1]

theorem vitClear_addr (s : State) (a : Nat) : (vitClear s a).fab.addr = s.fab.addr := by
  unfold vitClear
  have it : ∀ {p : Prop} [Decidable p] {a b : State}, a.fab.addr = s.fab.addr → b.fab.addr = s.fab.addr → (if p then a else b).fab.addr = s.fab.addr := by intro p _ a b x y; split <;> assumption
  refine it rfl ?_
  unfold vitClearAt
  split <;> (try dsimp only) <;> repeat' (first | with_reducible (refine it ?_ ?_) | rfl)
theorem readList_addr (l : List Nat) (s : State) : (readList l s).2.fab.addr = s.fab.addr := by
  induction l generalizing s with
  | nil => rfl
  | cons a l ih => unfold readList; dsimp only; rw [ih, vitClear_addr]
end Sys2Proof.Machine
end

