-- ==== Sys2Proof/Laws/PartnerLaws.lean ====
section
/-! SUPPORT. What a change of role, a handover, a permit routine and a request on a vehicle interface do. -/

namespace Sys2Proof.Machine
theorem findFault_mem {c i : Nat} {l : List ActiveFault} (h : (findFault c i l).isSome = true) : ∃ f ∈ l, f.code = c ∧ f.inst = i := by
  induction l with
  | nil => cases h
  | cons a l ih =>
    unfold findFault at h
    split at h
    · rename_i e; exact ⟨a, List.mem_cons_self, e⟩
    · obtain ⟨f, m, e⟩ := ih h; exact ⟨f, List.mem_cons_of_mem _ m, e⟩
theorem clearCodes_off (c : Nat) (h : c ≠ 0x001A) (l : List ActiveFault) (i : Nat) (s : State) :
    active c i (l.foldl (fun s f => clearF c f.inst s) s) = if i ∈ l.map (·.inst) then false else active c i s := by
  induction l generalizing s with
  | nil => rfl
  | cons a l ih =>
    rw [List.foldl_cons, ih]
    by_cases m : i ∈ l.map (·.inst)
    · rw [if_pos m, if_pos (by simp only [List.map_cons]; exact List.mem_cons_of_mem _ m)]
    · rw [if_neg m]
      by_cases e : i = a.inst
      · rw [e, clearF_inactive c _ s h, if_pos (by simp)]
      · rw [clearF_other _ _ _ _ _ h (by rintro ⟨_, x⟩; exact e x), if_neg (by simp only [List.map_cons, List.mem_cons]; rintro (x | x); exact e x; exact m x)]
/-- Every instance of the code is inactive, and every other fault is as before. -/
theorem clearCode_spec (c : Nat) (h : c ≠ 0x001A) (s : State) : (∀ i, active c i (clearCode c s) = false) ∧ (∀ d i, d ≠ c → d ≠ 0x001A → active d i (clearCode c s) = active d i s) ∧ SameButFaults s (clearCode c s) := by
  refine ⟨fun i => ?_, fun d i n n2 => ?_, ?_⟩
  · unfold clearCode
    rw [clearCodes_off c h]
    split
    · rfl
    · rename_i m
      by_contra k
      obtain ⟨f, fm, e1, e2⟩ := findFault_mem (c := c) (i := i) (l := s.faults) (by have := Bool.eq_true_of_not_eq_false k; unfold active at this; exact this)
      exact m (List.mem_map.2 ⟨f, List.mem_filter.2 ⟨fm, decide_eq_true e1⟩, e2⟩)
  · unfold clearCode
    generalize s.faults.filter (fun f => decide (f.code = c)) = l
    induction l generalizing s with
    | nil => rfl
    | cons a l ih => rw [List.foldl_cons, ih, clearF_other _ _ _ _ _ n2 (by rintro ⟨x, _⟩; exact n x)]
  · unfold clearCode
    generalize s.faults.filter (fun f => decide (f.code = c)) = l
    induction l generalizing s with
    | nil => exact .of_eq rfl
    | cons a l ih => rw [List.foldl_cons]; exact (clearF_same _ _ _).trans (ih _)
theorem lvFull_beyond (s : State) : (lvFull s).beyond = s.beyond := by unfold lvFull; split <;> simp
theorem lvStandby_beyond (s : State) : (lvStandby s).beyond = s.beyond := by unfold lvStandby; split <;> simp
theorem setRole_beyond (r : Nat) (s : State) : (setRole r s).beyond = { s.beyond with pair := (inRole r s.pair).fixed } := by
  unfold setRole inRole
  dsimp only
  split
  · rfl
  · rename_i n
    split
    · rw [lvFull_beyond]; rfl
    · split
      · rw [lvStandby_beyond]
        split
        · rfl
        · rw [sessionEnd_beyond]; rfl
      · rfl
theorem takeLead_beyond (t : Nat) (s : State) : (takeLead t s).beyond = { s.beyond with pair := (inLead t s.pair).fixed } := by
  unfold takeLead inLead
  split
  · rfl
  · rename_i n
    rw [setRole_beyond]
    unfold inRole
    rw [if_neg n]
    rfl
theorem sendPair_sent (cls dep : Nat) (c : CtlContent) (s : State) : FabSent s (sendPair cls dep c s) := by
  unfold sendPair
  split
  · exact .refl s
  · refine .ite (.refl s) ?_
    dsimp only
    have a : FabSent s (freeBytes s).2 := ⟨rfl, .of_eq rfl, rfl⟩
    have b := a.trans (sendCtl_sent 1 cls (some ‹Nat›) dep dep (freeBytes s).1 (freeBytes s).2)
    generalize sendCtl 1 cls (some ‹Nat›) dep dep (freeBytes s).1 (freeBytes s).2 = u at b ⊢
    exact b.trans ⟨rfl, .of_eq rfl, rfl⟩
/-- A frame to the partner leaves last of what its sending sends. -/
theorem sendPair_out (cls dep : Nat) (c : CtlContent) (s : State) (a : Nat) (h : partnerAddr s = some a) (r : s.fabReady = true) : ∃ k, (sendPair cls dep c s).out.head? = some (.ctl a dep k c) := by
  unfold sendPair
  rw [h]
  dsimp only
  rw [if_neg (by rw [r]; decide)]
  exact ⟨_, rfl⟩
theorem sendPair_none (cls dep : Nat) (c : CtlContent) (s : State) (h : partnerAddr s = none ∨ s.fabReady = false) : sendPair cls dep c s = s := by
  unfold sendPair
  cases p : partnerAddr s with
  | none => rfl
  | some a => rcases h with h | h; rw [p] at h; cases h; exact if_pos h

theorem active_activeCode {c i : Nat} {s : State} (h : active c i s = true) : activeCode c s = true := (activeCode_iff c s).2 ⟨i, h⟩
theorem lvFull_grows (s : State) : Grows s (lvFull s) := by unfold lvFull; split; exact lvcWrite_grows _ _; exact .refl s
theorem lvStandby_grows (s : State) : Grows s (lvStandby s) := by unfold lvStandby; split; exact lvcWrite_grows _ _; exact .refl s
theorem sessionEnd_grows (n : Nat) (s : State) : Grows s (sessionEnd n s) := by
  unfold sessionEnd
  refine .ite (.refl s) ?_
  exact Grows.of_eq ((requestStop_faults { s with obcT := { s.obcT with iBat := 0 } }).trans rfl)
theorem setRole_grows (r : Nat) (s : State) : Grows s (setRole r s) := by
  unfold setRole
  dsimp only
  refine .ite (.refl s) ?_
  have key : ∀ u, Grows s u → Grows s (if r = 1 then lvFull u else if s.pair.role = 1 then lvStandby (if s.pair.handover.isSome then u else sessionEnd 8 u) else u) := fun u f =>
    .ite (f.trans (lvFull_grows _)) (.ite (f.trans (Grows.trans (.ite (.refl u) (sessionEnd_grows _ _)) (lvStandby_grows _))) f)
  exact key { s with pair := { s.pair with role := r, holdoff := false, swapped := s.pair.swapped && decide (r ≠ 3), solos := if r = 3 then satInc 8 s.pair.solos else s.pair.solos } } (.of_eq rfl)
theorem takeLead_grows (t : Nat) (s : State) : Grows s (takeLead t s) := by
  unfold takeLead
  split
  · exact .refl s
  · exact Grows.trans (t := { s with pair := { s.pair with takeovers := satInc 8 s.pair.takeovers, take := t, swapped := false } }) (.of_eq rfl) (setRole_grows _ _)
theorem wait_beyond (u : State) : ({ u with pair := { u.pair with arbWait := true } } : State).beyond = { u.beyond with pair := ({ u.pair with arbWait := true } : PairOp).fixed } := rfl
/-- What follows a failed path: the declaration once both have failed. -/
theorem declare_spec (s : State) : Grows s (declare s) ∧
    (activeCode 0x9001 s = false ∨ activeCode 0x9002 s = false ∨ s.pair.declared = true → declare s = s) ∧
    (activeCode 0x9001 s = true → activeCode 0x9002 s = true → s.pair.declared = false → actsSenior s = true → (declare s).beyond = { s.beyond with pair := (inLead 0 { s.pair with declared := true, swapped := false, handover := none, arbOut := true }).fixed }) ∧
    (activeCode 0x9001 s = true → activeCode 0x9002 s = true → s.pair.declared = false → actsSenior s = false → (declare s).beyond = { s.beyond with pair := ({ s.pair with declared := true, swapped := false, handover := none, arbOut := true, arbWait := true } : PairOp).fixed }) := by
  obtain ⟨u, hu⟩ : ∃ u : State, u = { s with pair := { s.pair with declared := true, swapped := false, handover := none, arbOut := true } } := ⟨_, rfl⟩
  have e : declare s = if activeCode 0x9001 s && activeCode 0x9002 s && !s.pair.declared then (if actsSenior u then takeLead 0 u else { u with pair := { u.pair with arbWait := true } }) else s := by rw [hu]; rfl
  rw [e]
  have ub : u.beyond = { s.beyond with pair := ({ s.pair with declared := true, swapped := false, handover := none, arbOut := true } : PairOp).fixed } := by rw [hu]; rfl
  have up : u.pair = { s.pair with declared := true, swapped := false, handover := none, arbOut := true } := by rw [hu]
  have us : actsSenior u = actsSenior s := by rw [hu]; rfl
  have uf : Grows s u := .of_eq (by rw [hu])
  refine ⟨?_, fun k => ?_, fun a b c d => ?_, fun a b c d => ?_⟩
  · have uw : Grows u { u with pair := { u.pair with arbWait := true } } := .of_eq rfl
    exact .ite (.ite (uf.trans (takeLead_grows _ _)) (uf.trans uw)) (.refl s)
  · rw [if_neg]
    rcases k with k | k | k <;> rw [k] <;> simp
  · rw [a, b, c, us, d]
    exact (takeLead_beyond 0 u).trans (by rw [ub, up])
  · rw [a, b, c, us, d, if_pos (by rfl), if_neg (by decide)]
    exact (wait_beyond u).trans (by rw [ub, up])
theorem clampN_le (lo hi n : Nat) (h : lo ≤ hi) : clampN lo hi n ≤ hi := by unfold clampN; split; exact h; split; exact Nat.le_refl _; omega

theorem raise_other (c i m d j : Nat) (s : State) (n : d ≠ c) (k : d ≠ 0x001A) (h : ∀ s, classOf s c i < 3) (g : ¬(0x2803 ≤ c ∧ c ≤ 0x280C) := by decide) : active d j (raise c i m s) = active d j s :=
  raise_low_other c i m d j s h g k (fun x => n x.1)
theorem raise_activeCode (c i m d : Nat) (s : State) (n : d ≠ c ∧ d ≠ 0x001A) (h : ∀ s, classOf s c i < 3) (g : ¬(0x2803 ≤ c ∧ c ≤ 0x280C) := by decide) : activeCode d (raise c i m s) = activeCode d s := by
  rw [Bool.eq_iff_iff, activeCode_iff, activeCode_iff]
  simp only [raise_other c i m d _ s n.1 n.2 h g]

theorem actsSenior_congr {s t : State} (h1 : t.pair.hb = s.pair.hb) (h2 : t.mer = s.mer) (h3 : t.fab = s.fab) (h4 : t.cat = s.cat) : actsSenior t = actsSenior s := by
  have hp : partnerAddr t = partnerAddr s := by
    have hi : partnerId t = partnerId s := by
      unfold partnerId
      unfold State.pb State.payload
      rw [h4]
    unfold partnerAddr addrOf admittedIds
    rw [hi, h3]
  unfold actsSenior
  rw [h1, hp, h2, h3]
theorem setRole_pair (r : Nat) (s : State) : (setRole r s).pair.fixed = (inRole r s.pair).fixed := congrArg Beyond.pair (setRole_beyond r s)
theorem setRole_senior (r : Nat) (s : State) : actsSenior (setRole r s) = actsSenior s := by
  have b := setRole_beyond r s
  have p := setRole_pair r s
  refine actsSenior_congr ?_ (congrArg Beyond.mer b) (congrArg Beyond.fab b) (congrArg Beyond.cat b)
  have q : (setRole r s).pair.hb = (inRole r s.pair).hb := congrArg (fun x => x.2.2.2.2.2.2.2.2.2.2.2.2.1) p
  rw [q]
  unfold inRole
  split <;> rfl
/-- The first step of a handover on the unit that gives the lead. -/
theorem startHandover_spec (t : Nat) (w : Bool) (s : State) : ∃ u, u = { s with pair := { s.pair with handover := some { give := true, at_ := t, acked := false, counters := lastCounters s t, swap := w } } } ∧ FabSent u (startHandover t w s) ∧
    (∀ a, partnerAddr s = some a → s.fabReady = true → ∃ k, (startHandover t w s).out.head? = some (.ctl a 5 k (.handover t (lastCounters s t) w))) := by
  refine ⟨_, rfl, ?_, fun a h r => ?_⟩
  · unfold startHandover; exact sendPair_sent _ _ _ _
  · unfold startHandover
    exact sendPair_out 7 5 _ { s with pair := { s.pair with handover := some { give := true, at_ := t, acked := false, counters := lastCounters s t, swap := w } } } a h r
theorem lvStandby_cmd (s : State) (sl v : Nat) (h : s.lvc.cmd = some (sl, v)) (a : sl < 4096) (b : v < 65536) : (lvStandby s).lvc.cmd = some (sl, v - standbyMv s) := by
  unfold lvStandby lvcWrite
  rw [h]
  dsimp only
  have e1 : (sl * 65536 + (v - standbyMv s)) / 65536 % 4096 = sl := by omega
  have e2 : (sl * 65536 + (v - standbyMv s)) % 65536 = v - standbyMv s := by omega
  rw [e1, e2]
  split
  · have := raiseBase_same 0x3808 noInst 0 { s with lvc := { s.lvc with cmd := some (sl, v - standbyMv s) } }
    rw [this]
  · rfl
theorem lvFull_cmd (s : State) (sl v : Nat) (h : s.lvc.cmd = some (sl, v)) (a : sl < 4096) : (lvFull s).lvc.cmd = some (sl, min (v + standbyMv s) 65535) := by
  unfold lvFull lvcWrite
  rw [h]
  dsimp only
  have e1 : (sl * 65536 + min (v + standbyMv s) 65535) / 65536 % 4096 = sl := by omega
  have e2 : (sl * 65536 + min (v + standbyMv s) 65535) % 65536 = min (v + standbyMv s) 65535 := by omega
  rw [e1, e2]
  split
  · have := raiseBase_same 0x3808 noInst 0 { s with lvc := { s.lvc with cmd := some (sl, min (v + standbyMv s) 65535) } }
    rw [this]
  · rfl
theorem setRole_lv (s : State) (sl v : Nat) (h : s.lvc.cmd = some (sl, v)) (a : sl < 4096) (b : v < 65536) :
    (s.pair.role = 1 → inSession s = false → ∀ r, r ≠ 1 → (setRole r s).lvc.cmd = some (sl, v - standbyMv s)) ∧ (s.pair.role ≠ 1 → (setRole 1 s).lvc.cmd = some (sl, min (v + standbyMv s) 65535)) := by
  refine ⟨fun c d r n => ?_, fun c => ?_⟩
  · unfold setRole
    dsimp only
    rw [if_neg (by rw [c]; exact fun x => n x.symm), if_neg n, if_pos c]
    have e : ∀ u : State, inSession u = false → (if s.pair.handover.isSome then u else sessionEnd 8 u) = u := fun u k => by
      split
      · rfl
      · unfold sessionEnd; rw [if_pos (.inl k)]
    exact Eq.trans (congrArg (fun u => (lvStandby u).lvc.cmd) (e _ d)) (lvStandby_cmd _ sl v h a b)
  · unfold setRole
    dsimp only
    rw [if_neg c, if_pos rfl]
    exact lvFull_cmd _ sl v h a

/-- The handover has passed. -/
def passed (h : Handover) (s : State) : State := { s with pair := { s.pair with handover := none, handovers := wrapInc 8 s.pair.handovers, swapped := h.swap && (if h.give then actsSenior s else !actsSenior s) } }
theorem passed_spec (h : Handover) (s : State) : (h.swap && (if h.give then actsSenior s else !actsSenior s)) = (h.swap && (h.give == actsSenior s)) ∧
    (passed h s).beyond = { s.beyond with pair := ({ s.pair with handover := none, handovers := wrapInc 8 s.pair.handovers, swapped := h.swap && (if h.give then actsSenior s else !actsSenior s) } : PairOp).fixed } ∧ Grows s (passed h s) ∧ (passed h s).lvc = s.lvc ∧ (passed h s).vif = s.vif := by
  refine ⟨?_, rfl, .of_eq rfl, rfl, rfl⟩
  cases h.give <;> cases actsSenior s <;> rfl
theorem fixed_handover (p q : PairOp) (h : p.fixed = q.fixed) (a : Option Handover) (n : Nat) (b : Bool) : ({ p with handover := a, handovers := n, swapped := b } : PairOp).fixed = ({ q with handover := a, handovers := n, swapped := b } : PairOp).fixed := by
  unfold PairOp.fixed at *
  simp only [Prod.mk.injEq] at h ⊢
  tauto

/-- An OTP word that waits; in a hold-up that has ended all starts its check counts as failed (R87, R90). -/
def leftWaiting (s : State) (q : Nat × BitVec 64) : State :=
  let u := enqueue (.otpWord q.1 q.2) s
  if startsOver u then holdupFail u else u
/-- OTP words behind a failed check join the waiting operations in order (R87). -/
theorem program_stopped (l : List (Nat × BitVec 64)) (x : OtpRun) (h : x.stopped = true) : (program l x).st = l.foldl leftWaiting x.st := by
  induction l generalizing x with
  | nil => rfl
  | cons a l ih =>
    obtain ⟨w, b⟩ := a
    unfold program
    rw [if_pos h, List.foldl_cons]
    dsimp only
    rw [ih]
    · rfl
    · exact h

/-- What the requester of a signed report is answered. -/
def signed (q : AttReq) (b : List Byte × Option Nat) (u : State) (n : Nat) : Host.Outcome State Fault Refusal :=
  match q with
  | .uds p => .next (udsPos p ([0x67, 0x61] ++ bytesAt (reportBytes (b.1, n)) 0 3584) u)
  | .fabric node tag ep => .next (sendBulk 2 node 0 0 (reportParts 50 0 (reportBytes (b.1, n))) (mgmtReply node ep 0 0x31 tag 0 [] u))
/-- What the requester of a replaced report is answered. -/
def replaced (q : AttReq) (u : State) : Host.Outcome State Fault Refusal :=
  match q with
  | .uds p => .next (udsNeg p 0x27 0x24 u)
  | .fabric node tag ep => .next (mgmtReply node ep 0 0x31 tag 4 [] u)

/-- What a key grants at a level that changes the lifecycle. -/
theorem grant_life {c : Challenge} {p : UPath} {s : State} (v : List Q) (f : Nat) (h : c.path = some p) (n : 0x60 ≤ c.level) : grant c v f s =
    (if lifeRefused { s with ka := { s.ka with unlockFails := 0 } } c.level then udsNeg p 0x27 0x22 { s with ka := { s.ka with unlockFails := 0 } }
    else changeLife c.level v f (udsPos p [0x67, BitVec.ofNat 8 (c.level + 1)] { s with ka := { s.ka with unlockFails := 0 } })) := by
  obtain ⟨path, level, seed, seg, key⟩ := c
  dsimp only at h n ⊢
  subst h
  unfold grant
  dsimp only
  rw [if_neg (by omega)]
end Sys2Proof.Machine

/-! ### The vehicle interfaces -/
namespace Sys2Proof.Machine
/-- An end on request of a session that runs: the charger stops, S2 opens, and no collector entry goes. -/
theorem sessionEnd_spec (n : Nat) (s : State) (h : inSession s = true) (k : s.chg.phase ≠ 9) :
    (sessionEnd n s).chg.phase = 9 ∧ (sessionEnd n s).chg.cause = n ∧ ((s.dab.st ≠ 2 ∧ s.dab.st ≠ 3 ∨ s.dab.iCmd = 0) → s.dab.stopRamp = none → (sessionEnd n s).chg.s2 = false ∧ ChgrOff (sessionEnd n s)) := by
  unfold sessionEnd
  rw [if_neg (by rw [h]; rintro (x | x); exact Bool.noConfusion x; exact k x)]
  refine ⟨rfl, rfl, fun a b => ?_⟩
  have e (u : State) (ud : u.dab = s.dab) : requestStop u = stopCharger u := by
    unfold requestStop
    rw [ud, b]
    rw [if_neg (by rintro ⟨x, y, -⟩; rcases a with ⟨a1, a2⟩ | a; rcases x with x | x; exact a1 x; exact a2 x; exact y a)]
    rfl
  dsimp only
  rw [e { s with obcT := { s.obcT with iBat := 0 } } rfl]
  have o := stopCharger_off { s with obcT := { s.obcT with iBat := 0 } }
  have c : (stopCharger { s with obcT := { s.obcT with iBat := 0 } }).chg.s2 = false := by
    unfold stopCharger
    dsimp only
    split
    · rfl
    · have d (g : Grp) (u : State) : (stopGroup g u).chg = u.chg := by rw [stopGroup_only]
      rw [d, d]
  generalize stopCharger { s with obcT := { s.obcT with iBat := 0 } } = v at o c
  exact ⟨c, o⟩

theorem leNat_lt (l : List Byte) : leNat l < 256 ^ l.length := by
  induction l with
  | nil => simp [leNat]
  | cons a l ih =>
    have := a.isLt
    simp only [leNat, List.length_cons, Nat.pow_succ]
    omega
theorem uAt_lt (bs : List Byte) (o n : Nat) : uAt bs o n < 256 ^ n := by
  unfold uAt bytesAt
  refine Nat.lt_of_lt_of_le (leNat_lt _) (Nat.pow_le_pow_right (by decide) ?_)
  simp

/-- A request on a path that is not served changes nothing. -/
theorem udsServe_off {p : UPath} {sid : Nat} {ss : List Nat} {lv : Nat} {k : State → State} {s : State} (h : s.udsServed p = false) : udsServe p sid ss lv k s = s := by
  unfold udsServe; rw [if_pos h]
/-- A request that a check refuses is answered with the check's code. -/
theorem udsServe_refused {p : UPath} {sid : Nat} {ss : List Nat} {lv : Nat} {k : State → State} {s : State} (h : s.udsServed p = true) (n : s.udsNrc p sid ss lv ≠ 0) :
    udsServe p sid ss lv k s = { s with uds := { s.uds with tester := some p }, out := .uds p (s.udsResp p) [0x7F, BitVec.ofNat 8 sid, BitVec.ofNat 8 (s.udsNrc p sid ss lv)] :: s.out } := by
  unfold udsServe
  rw [if_neg (by simp [h])]
  dsimp only
  have n' : State.udsNrc { s with uds := { s.uds with tester := some p } } p sid ss lv = s.udsNrc p sid ss lv := rfl
  rw [n', if_neg n]
  exact udsNeg_eq h

theorem vitClear_serve (s : State) (a : Nat) : vifServe (vitClear s a).vif = vifServe s.vif ∧ (vitClear s a).lks.pairs = s.lks.pairs := by
  unfold vitClear
  have it : ∀ {p : Prop} [Decidable p] {a b : State}, (vifServe a.vif = vifServe s.vif ∧ a.lks.pairs = s.lks.pairs) → (vifServe b.vif = vifServe s.vif ∧ b.lks.pairs = s.lks.pairs) → (vifServe (if p then a else b).vif = vifServe s.vif ∧ (if p then a else b).lks.pairs = s.lks.pairs) := by
    intro p _ a b x y; split <;> assumption
  refine it ⟨rfl, rfl⟩ ?_
  unfold vitClearAt
  have can : ∀ n : Fin 2, vifServe ({ s.vif with can := s.vif.can.upd n (fun c => { c with rxdrop := 0 }) } : Vif) = vifServe s.vif := by
    intro n
    unfold vifServe
    dsimp only
    simp only [Tab.get_upd]
    congr 1
    · split <;> rename_i h <;> [(rw [← h]); rfl]
    · congr 1
      · split <;> rename_i h <;> [(rw [← h]); rfl]
      · congr 1
        · split <;> rename_i h <;> [(rw [← h]); rfl]
        · congr 1
          split <;> rename_i h <;> [(rw [← h]); rfl]
  split <;> (try dsimp only) <;> repeat' (first | with_reducible (refine it ?_ ?_) | exact ⟨rfl, rfl⟩ | exact ⟨can _, rfl⟩)
theorem readWords_frame (n a : Nat) (s : State) : ClearOnly s (readWords n a s).2 ∧ (readWords n a s).1.length = 4 * n ∧ ∀ p, (readWords n a s).2.udsServed p = s.udsServed p := by
  induction n generalizing a s with
  | zero => exact ⟨rfl, rfl, fun _ => rfl⟩
  | succ n ih =>
    unfold readWords
    dsimp only
    obtain ⟨h2, h3, h4⟩ := ih (a + 4) (vitClear s a)
    have h1 := vitClear_frame s a
    have hs := vitClear_serve s a
    refine ⟨?_, ?_, fun p => ?_⟩
    · unfold ClearOnly at *
      generalize (readWords n (a + 4) (vitClear s a)).2 = u at h2 ⊢
      rw [h2, h1]
    · rw [List.length_append, h3]
      simp [natLe]
      omega
    · rw [h4]
      exact served_congr (by rw [h1]) hs.2 (by rw [h1]) hs.1 (fun c i _ => active_of (by rw [h1]) c i) p
end Sys2Proof.Machine
end

