-- ==== Sys2Proof/Machine/Pins.lean ====
section
/-! DEFINITION. The LV pins: what the N9 drives on each output of R49, read off the state. -/

namespace Sys2Proof.Machine

/-- What an output pin does. -/
inductive PinDrive where
  | low
  | high
  | hiZ
  /-- Held by a passive pull-down: a gate output without its supply. -/
  | pullDown
  /-- A differential analogue output about VA/2, volts. -/
  | sine (volts : Q)
  /-- A square wave: the bias drive, a modulator clock of this divider, the pilot of this duty in 0.1 %, a lane that is not idle. -/
  | wave
  | clock (divider : Nat)
  | pilot (duty : Nat)
  /-- A CML output in electrical idle. -/
  | idle
  deriving DecidableEq, Repr

/-- The outputs of the pin table. -/
inductive PinName where
  | id (f : Feed)
  | bias (f : Feed)
  | rsEx (b : Bool)
  | sdc (b : Bool)
  | em (b : Bool) (line : Fin 3)
  | so (b : Bool)
  | hso (n : Fin 6)
  | cpOut
  | fpTx (p : Port)
  | canTxd (n : Fin 2)
  | canStb (n : Fin 2)
  | ethTx
  | plcSpi
  | xspiClk
  | ethPhyRst
  | plcRst
  | plcCs
  | xspiCs
  | ethMdio
  | xspiDq
  | tdo
  | lvd
  | faultN
  | ready
  | phbOut
  | arb
  | gate (c : Chan)
  deriving DecidableEq, Repr

/-- A digital output at a level. -/
def PinDrive.level (b : Bool) : PinDrive := if b then .high else .low

/-- The outputs whose state the KA and FEED domains keep in every mode (R49), and a gate whose rails its bank does not supply (R43). -/
def pinAlways (s : State) : PinName → Option PinDrive
  | .lvd => some (.level s.sup.lvd)
  | .arb => some (if s.pair.arbOut && !pinsInReset s && !pinsInShip s then .low else .hiZ)
  | .id .a => some (.level (s.sup.feedA.mosfet && !pinsInShip s))
  | .id .b => some (.level (s.sup.feedB.mosfet && !pinsInShip s))
  | .bias .a => some (if s.sup.biasA && !pinsInShip s then .wave else .low)
  | .bias .b => some (if s.sup.biasB && !pinsInShip s then .wave else .low)
  | .hso n => some (.level (s.hsoOn n && !pinsInReset s && !pinsInShip s))
  | .so b => some (.level (soDriven s b && !pinsInReset s && !pinsInShip s))
  | .gate c => if s.biasOn c then none else some .pullDown
  | _ => none

/-- The column "In SHIP" of the other outputs (R49). -/
def pinShip : PinName → PinDrive
  | .gate _ => .pullDown
  | _ => .hiZ

/-- The column "In reset" of the other outputs (R49). -/
def pinReset : PinName → PinDrive
  | .rsEx _ => .sine 0
  | .fpTx _ => .idle
  | .canTxd _ => .high
  | .canStb _ => .high
  | .plcCs => .high
  | .xspiCs => .high
  | .ethMdio => .hiZ
  | .xspiDq => .hiZ
  | .tdo => .hiZ
  | _ => .low

/-- CP_OUT: S2 in the vehicle role, the pilot driver in the supply role (R319, R321). -/
def pilotPin (s : State) : PinDrive :=
  if s.chg.s2 then .high
  else match s.chg.pilot with
    | 0 => .low
    | 1 => .high
    | _ => .pilot s.chg.pilotDuty

/-- The configured function of the other outputs: between two commands no CAN frame, SPI or flash access is under way. -/
def pinRun (s : State) : PinName → PinDrive
  | .rsEx b => .sine (s.excitation (if b then 1 else 0))
  | .sdc b => match s.sdcDiv (if b then 2 else 1) with
    | some d => .clock d
    | none => .low
  | .em b line =>
    let e := s.emPins (if b then 11 else 10)
    .level (match line.val with
      | 0 => e.1
      | 1 => e.2.1
      | _ => e.2.2)
  | .cpOut => pilotPin s
  | .fpTx p => if (s.fab.ports.get p).st = 0 then .idle else .wave
  | .canStb n => .level (s.vif.can.get n).stb
  | .ethTx => if s.hasRec 0xA0 2 then .wave else .low
  | .ethPhyRst => .level s.vif.ethRst
  | .plcRst => .level s.vif.plcRst
  | .faultN => if s.sys.faultPin then .low else .hiZ
  | .ready => .level s.sys.readyPin
  | .phbOut => .level s.pair.phbOut
  | .gate c => .level (decide ((s.gd.ch.get c).out = .on))
  | p => pinReset p

/-- What the N9 drives on an output pin (R49, R531). -/
def State.pin (s : State) (p : PinName) : PinDrive :=
  match pinAlways s p with
  | some d => d
  | none => if pinsInShip s then pinShip p else if pinsInReset s then pinReset p else pinRun s p

end Sys2Proof.Machine
end

