-- ==== Sys2Proof/WellFormed.lean ====
section
/-! DEFINITION. Which commands are well formed: operands that stand for a field of fixed width lie in its range. -/

namespace Sys2Proof

/-- The words of a memory bank (R414): eight SRAM banks, and the map store as bank 8. -/
def bankWords (b : Fin 9) : Nat := if b.val = 8 then 32768 else 98304

/-- A word read lies in its bank. -/
def MemRead.ok (r : MemRead) : Bool := decide (r.word < bankWords r.bank)

/-- A list rises strictly by a key. -/
def rising {α : Type} (f : α → Nat) : List α → Bool
  | x :: y :: rest => decide (f x < f y) && rising f (y :: rest)
  | _ => true

/-- A step of a pair's cores names cells and nodes that exist, and a word of its bank (R405). -/
def CoreStep.ok (x : CoreStep) : Bool :=
  x.rails.all (fun r => decide (r.1 < 55)) && (match x.writes with
    | some w => decide (w.2 < bankWords w.1)
    | none => true)

/-- The fields of a frame header fit their widths (R445). -/
def FabHeader.ok (h : FabHeader) : Bool := decide (h.version < 16) && decide (h.type < 16) && decide (h.cls < 8) && decide (h.rsv1 < 8) && decide (h.dst < 256) && decide (h.dep < 256) && decide (h.src < 256)
    && decide (h.sep < 256) && decide (h.len < 2 ^ 16) && decide (h.hop < 256) && decide (h.rsv9 < 256) && decide (h.seq < 2 ^ 16) && decide (h.link < 2 ^ 16) && decide (h.rsv14 < 2 ^ 16)

/-- The fields of a management request fit theirs (R465). -/
def FabReq.ok (r : FabReq) : Bool := decide (r.node < 32) && decide (r.ep < 16) && decide (r.tag < 2 ^ 16)

/-- The operands of a command lie in the ranges of the fields they stand for. -/
def Instr.wellFormed (i : Instr) : Bool :=
  match i with
  | .feedPresent .. => true
  | .feedLost .. => true
  | .feedOvervoltage .. => true
  | .feedOvervoltageCleared .. => true
  | .idealDiodeTurnOff .. => true
  | .bothFeedsLost .. => true
  | .feedReturnInHoldup .. => true
  | .holdBelowVmin .. => true
  | .railMonitorReset .. => true
  | .biasCurrentLimit .. => true
  | .biasBankStop .. => true
  | .powerUp .. => true
  | .crystalAccepted .. => true
  | .handshakeJudgement .. => true
  | .accession .. => true
  | .bootDescriptorWrite .. => true
  | .postReadyOtpOperations .. => true
  | .lockedStoreWrite _ addr value => decide (addr < 2 ^ 32) && decide (value < 2 ^ 32)
  | .loadedStoreCrcCheck .. => true
  | .nrstReset .. => true
  | .nrstRelease => true
  | .svcAcknowledge .. => true
  | .svcResetRequest .. => true
  | .svcStuck .. => true
  | .svcReleased1s .. => true
  | .wakeLevelChange .. => true
  | .shipWritesTimeout .. => true
  | .shipFeedsDown .. => true
  | .shipSwitchTimeout .. => true
  | .feedRiseWakeArmed .. => true
  | .wakeSourceQualified .. => true
  | .shipExit .. => true
  | .shipWakeTimeout .. => true
  | .acPresentChange .. => true
  | .flashOperationStart .. => true
  | .pendingOperationRecheck .. => true
  | .flashOperationComplete .. => true
  | .requestDownload _ addr size => decide (addr < 2 ^ 32) && decide (size < 2 ^ 32)
  | .transferData _ seq data => decide (seq < 256) && decide (data.length ≤ 4104)
  | .requestTransferExit .. => true
  | .stagingBlockWritten .. => true
  | .stagingSessionTimeout .. => true
  | .stageCheck .. => true
  | .stageCommit .. => true
  | .stageConfirm .. => true
  | .stageReject .. => true
  | .calibrationMeasurement .. => true
  | .tapSwap .. => true
  | .calibrationMissed => true
  | .crystalLoss .. => true
  | .pwmLatch .. => true
  | .groupStart .. => true
  | .groupStop .. => true
  | .anchoredGroupStart .. => true
  | .sarSample .. => true
  | .sinc2Output .. => true
  | .dcLinkSample .. => true
  | .senseDieTriggerLoss .. => true
  | .orreryUpdate .. => true
  | .orreryDeadlineMiss .. => true
  | .chargerDeadlineMiss .. => true
  | .ioTaskDeadlineMiss => true
  | .modeEvaluation .. => true
  | .dcLinkWindowChange .. => true
  | .ioTorqueTask => true
  | .torqueLossFault .. => true
  | .idleStop .. => true
  | .rotorAngleOffset _ _ _ angle => decide (angle < 2 ^ 32)
  | .windingResistance .. => true
  | .dcLinkDisagree .. => true
  | .dcOvervoltageAsc .. => true
  | .ovAscRelease .. => true
  | .safeStateEntry .. => true
  | .safeStateChoice .. => true
  | .ascSideFault .. => true
  | .ascTrialRequest .. => true
  | .resolverUpdate .. => true
  | .sentFrame .. => true
  | .sentTimeout .. => true
  | .abzEdge .. => true
  | .hallEdge _ code .. => decide (code < 8)
  | .indexRisingEdge .. => true
  | .standstillTimeout .. => true
  | .emulationStep .. => true
  | .railOutOfWindow .. => true
  | .railFlagClear .. => true
  | .gateTurnOn .. => true
  | .gateTurnOff .. => true
  | .permitRemovalTurnOff .. => true
  | .secondaryLinkLoss .. => true
  | .statusFrameLoss .. => true
  | .readbackMismatch .. => true
  | .desaturation .. => true
  | .gateChargeShort .. => true
  | .shortReport .. => true
  | .watchWindowEnd .. => true
  | .bootstrapRefresh .. => true
  | .bootstrapUndervoltage .. => true
  | .bootstrapOff .. => true
  | .bootstrapUvClear .. => true
  | .offStateDiagnostics .. => true
  | .tractionStartTest .. => true
  | .clearLatchedFlags _ opt => decide (opt < 256)
  | .pfcUpdate .. => true
  | .dabUpdate .. => true
  | .chargerFaultStop code => decide (code < 2 ^ 16)
  | .chargerStopRequest => true
  | .mainRelayOpen .. => true
  | .forwardStart => true
  | .relayConfirmed .. => true
  | .relayFeedbackTimeout .. => true
  | .prechargeComplete .. => true
  | .prechargeTimeout .. => true
  | .busOkReached .. => true
  | .busRampTimeout .. => true
  | .busUndervoltage .. => true
  | .reverseStart => true
  | .reverseOverload .. => true
  | .batteryContactorOpen .. => true
  | .lvConverterStart .. => true
  | .lvConverterStop => true
  | .lvRestartRequest => true
  | .dcxStartTimeout .. => true
  | .v48Overvoltage .. => true
  | .v48Undervoltage .. => true
  | .buckTurnOnSlot .. => true
  | .phaseCurrentLimit .. => true
  | .lvcCmdWrite .. => true
  | .referenceStep => true
  | .shortCheck .. => true
  | .hiccupRetry .. => true
  | .retriesReset .. => true
  | .remoteSenseLoss .. => true
  | .undershootResponse .. => true
  | .releaseResponse .. => true
  | .overvoltageHold .. => true
  | .overvoltageHoldEnd .. => true
  | .overvoltageHoldTimeout .. => true
  | .phaseStop .. => true
  | .pilotStateChange .. => true
  | .pilotDutyAccepted .. => true
  | .proximityCodeChange .. => true
  | .sessionEvaluation .. => true
  | .pulsePhaseEnd .. => true
  | .hlcSetupTimeout .. => true
  | .iso15118Message .. => true
  | .gridWaitTimeout .. => true
  | .dischargeDcLinkCheck => true
  | .sessionRestart .. => true
  | .lvFloatSwitch .. => true
  | .housekeepingRound taken => rising (fun x => x.slot.val) taken
  | .housekeepingStale .. => true
  | .parkEngage .. => true
  | .parkRelease .. => true
  | .shift _ target => decide (target ≤ 3)
  | .peakCurrentCut .. => true
  | .stallDetected .. => true
  | .brakeEnd .. => true
  | .shiftDwellEnd .. => true
  | .sequenceTimeout .. => true
  | .confirmationTimeout .. => true
  | .bridgeSupplyLow .. => true
  | .safetyInputEdge .. => true
  | .discrepancyLatch .. => true
  | .inputViewMismatch .. => true
  | .callistoCycle .. => true
  | .callistoOverrun => true
  | .callistoWatchExpiry .. => true
  | .safeStateRequest => true
  | .soReadbackMismatch .. => true
  | .custodianConfigCheck .. => true
  | .lockstepMismatch _ steps => steps.all CoreStep.ok
  | .pairRestartComplete _ region => region.all (fun w => decide (w.2 < bankWords w.1))
  | .registerExport _ main checker => decide (main.length ≤ 128) && decide (checker.length = main.length)
  | .scrubRead words _ => rising (fun w => w.bank.val) words
  | .uncorrectableError r .. => r.ok
  | .correctableError r .. => r.ok
  | .debugHalt _ tail main checker => tail.ok && decide (main.length ≤ 128) && decide (checker.length = main.length)
  | .debugRegisterWrite _ reg value => decide (reg < 128) && decide (value < 2 ^ 64)
  | .debugResume _ _ steps main checker => steps.all CoreStep.ok && decide (main.length ≤ 128) && decide (checker.length = main.length)
  | .queuePush .. => true
  | .queuePushTimeout .. => true
  | .queueAbort .. => true
  | .zeroLengthCommit .. => true
  | .queuePop .. => true
  | .markCheck .. => true
  | .portDownExpiry .. => true
  | .portTrained .. => true
  | .helloFrame _ ident echo => decide (ident < 2 ^ 64) && decide (echo < 2 ^ 64)
  | .alignmentLoss .. => true
  | .frameHeaderReceived _ h => h.ok
  | .frameEndReceived _ _ payload => decide (payload.length ≤ 1024)
  | .ackReceived _ link => decide (link < 2 ^ 16)
  | .nakReceived _ link => decide (link < 2 ^ 16)
  | .replayTimeout .. => true
  | .linkDown .. => true
  | .controlFrameReceived h payload _ => h.ok && decide (payload.length ≤ 1024)
  | .dataFrameReceived h => h.ok
  | .advertSend => true
  | .linkStateAdvert .. => true
  | .epochListClose .. => true
  | .delayMeasurement .. => true
  | .timeFrame .. => true
  | .timeFrameTimeout .. => true
  | .read r addr count => r.ok && decide (addr < 2 ^ 32) && decide (count < 2 ^ 32)
  | .write r addr value => r.ok && decide (addr < 2 ^ 32) && decide (value < 2 ^ 32)
  | .stageOpen r region _ _ => r.ok && decide (region < 256)
  | .stageExit r => r.ok
  | .routine r id _ _ _ => r.ok && decide (id < 2 ^ 16)
  | .imageBlockPart node _ part data => decide (node < 32) && decide (part < 8) && decide (data.length = 512)
  | .blockPartTimeout .. => true
  | .reset r at_ => r.ok && decide (at_ < 2 ^ 64)
  | .scheduledResetInstant => true
  | .barrier node _ => decide (node < 32)
  | .barrierComplete .. => true
  | .snapshot r at_ _ => r.ok && decide (at_ < 2 ^ 64)
  | .snapshotCapture => true
  | .logRead r start _ => r.ok && decide (start < 2 ^ 32)
  | .attest r nonce => r.ok && decide (nonce.length = 32)
  | .heartbeatSend => true
  | .fabricHeartbeatTimeout .. => true
  | .phbHeartbeatTimeout .. => true
  | .arbSample .. => true
  | .arbitrationSample .. => true
  | .leadRelease => true
  | .twoLeadsSeen => true
  | .handoverRequest .. => true
  | .handoverInstant => true
  | .handoverAbandon .. => true
  | .leadReturn .. => true
  | .arbTest .. => true
  | .swapEnd .. => true
  | .soloExit .. => true
  | .busOff .. => true
  | .busOffRejoin .. => true
  | .ethLinkChange .. => true
  | .controlMessageReceived _ _ bytes => decide (bytes.length ≤ 2048)
  | .streamTimeout .. => true
  | .messageTransmit .. => true
  | .diagnosticSessionControl _ sub _ => decide (sub < 256)
  | .s3SessionTimeout .. => true
  | .ecuReset _ sub => decide (sub < 256)
  | .clearDiagnosticInformation _ group => decide (group < 2 ^ 24)
  | .readDtcInformation _ sub mask => decide (sub < 256) && decide (mask < 256)
  | .readDataByIdentifier _ did => decide (did < 2 ^ 16)
  | .readMemoryByAddress _ format addr _ => decide (format < 256) && decide (addr < 2 ^ 32)
  | .writeDataByIdentifier _ did value => decide (did < 2 ^ 16) && decide (value < 2 ^ 32)
  | .routineResults _ rid => decide (rid < 2 ^ 16)
  | .testerPresent _ sub _ => decide (sub < 256)
  | .requestSeed _ level => decide (level < 256)
  | .sendKey _ level seg key _ => decide (level < 256) && decide (seg < 256) && decide (key < 256)
  | .keyVerificationDone .. => true
  | .challengeTimeout .. => true
  | .unlockDelayEnd .. => true
  | .attestationRequest _ index _ => decide (index < 256)
  | .jtagChal => true
  | .jtagKey key _ => decide (key < 256)
  | .modemStatusRead .. => true
  | .modemLinkLoss .. => true
  | .modemFrameReceive type len => decide (type < 2 ^ 16) && decide (len < 2 ^ 16)
  | .faultRaise code inst meas => decide (code < 2 ^ 16) && decide (inst < 2 ^ 16) && decide (meas < 2 ^ 32)
  | .faultClear code inst => decide (code < 2 ^ 16) && decide (inst < 2 ^ 16)
  | .faultExpiry code inst _ => decide (code < 2 ^ 16) && decide (inst < 2 ^ 16)
  | .logBlockClose => true
  | .rcRegisterRead _ addr => decide (addr < 2 ^ 32)
  | .registerWrite _ addr value => decide (addr < 2 ^ 32) && decide (value < 2 ^ 32)
  | .railMonitorRelease .. => true
  | .kaFirstApplication .. => true
  | .phbInEdge => true
  | .phbOutToggle => true
  | .arbRelease .. => true
  | .timeFrameSend => true
  | .helloSend .. => true
  | .eobReceived .. => true
  | .phyResetRelease .. => true
  | .attestationSigned => true
  | .unsupportedService _ sid _ _ => decide (sid < 256)
  | .opUnknown r code => r.ok && decide (code < 256)

end Sys2Proof
end

