-- ==== Sys2Proof/Tests/Slice0.lean ====
section
/-! SUPPORT. Fixtures, the smoke test of WellFormed, the witnesses that the hypotheses of every obligation can be met, and checks of single
commands against the worked examples of the spec. -/

/- Each kernel check below waits for the declarations before it; run one at a time, so that no thread is held by each. -/
set_option Elab.async false

namespace Sys2Proof.Tests
open Sys2Proof.Machine

/-- One byte of a payload whose little-endian words stand at the listed offsets. -/
def byteAt (fs : List (Nat × Nat)) (i : Nat) : Byte :=
  match fs.find? (fun p => decide (p.1 ≤ i) && decide (i < p.1 + 4)) with
  | some p => BitVec.ofNat 8 (p.2 / 256 ^ (i - p.1))
  | none => 0

/-- A record of `n` payload bytes that holds the listed words. -/
def recFix (ty inst n : Nat) (fs : List (Nat × Nat)) : Rec := { ty := ty, inst := inst, data := (List.range n).map (byteAt fs) }

/-- The state at reset with the listed records loaded and locked. -/
def withRecs (rs : List Rec) : State := { State.reset with cat := { State.reset.cat with params := rs, locked := true } }

/-- Every function and every gate channel present. -/
def recAll : Rec := recFix 1 0 16 [(0, 0xFFFFFFFF), (4, 0x007FFFFF), (8, 0xFFF)]

/-- A Catalogue that declares every function and nothing else, in a mode. -/
def inMode (m : Mode) : State := { withRecs [recAll] with sys := { State.reset.sys with mode := m } }

/-- A pair that runs. -/
def pairUp : PairSt := { PairSt.reset with st := 1 }

/-- A Catalogue that declares every function and the listed records, in a mode, with the crystal accepted, every pair running and no
permit taken away. -/
def live (m : Mode) (rs : List Rec) : State :=
  let s := withRecs (recAll :: rs)
  { s with
    sys := { s.sys with mode := m }, mer := { s.mer with xtalAcc := true }, lks := { s.lks with pairs := Tab.fill pairUp },
    saf := { s.saf with held := false, safeReq := false, lvC := true, lvP := true } }

/-- A tester on CAN1 in a session with a level unlocked, every pair running, every service enabled. -/
def udsIn (m : Mode) (sess lvl : Nat) (rs : List Rec) : State :=
  let s := withRecs ([recAll, recFix 0xA0 0 32 [(12, 0x700)], recFix 0xB0 0 4 [(0, 0xFF)]] ++ rs)
  { s with
    sys := { s.sys with mode := m }, sup := { s.sup with ifaces := true }, lks := { s.lks with pairs := Tab.fill pairUp },
    vif := { s.vif with can := Tab.fill { st := 0, tec := 0, recn := 0, busoff := 0, rxdrop := 0, stb := false } },
    uds := { s.uds with session := Tab.fill sess, unlocks := [(.can1, lvl)] } }

/-- The same with a staging session of the tester in one region. -/
def stagingIn (sess : Nat) (st : Staging) : State :=
  let s := udsIn .ready sess 3 []
  { s with cat := { s.cat with stage := st } }

/-- SI3 in accepted demand on both channels: the park lock is engaged. -/
def parked (s : State) : State :=
  { s with saf := { s.saf with si := s.saf.si.upd 3 (fun x => { x with a := { x.a with accepted := true, demand := true }, b := { x.b with accepted := true, demand := true } }) } }

/-- Both traction sets switch. -/
def switching (s : State) : State := { s with pwm := (s.pwm.upd 0 (fun g => { g with running := true })).upd 1 (fun g => { g with running := true }) }

/-- The records under which a tester's service routine may run. -/
def svcRecs : List Rec := [recFix 3 0 16 [(8, 0x3F800000)], recFix 0x38 0 132 [(80, 0x3F800000)], recFix 0x80 3 32 [(0, 1)]]

/-- A SENT frame of three data nibbles of 0 at a tick of 1 s, and the record that accepts it. -/
def sentGood : SentFrame := { cal := 56, status := 12, data := [12, 12, 12], crc := 21, after := 56, nextCal := 56, tFt := 0 }
def sentRec : Rec := recFix 0x40 2 64 [(20, 0x3F800000), (24, 3), (28, 12)]

/-! A Catalogue that declares no function, and what it takes to load it -/

/-- The records of R102 for a unit without a function. -/
def plainRecs : List Rec :=
  [recFix 1 0 16 [], recFix 2 0 4 [(0, 0x3C23D70A)], recFix 3 0 16 [(0, 0x43C80000), (4, 0x44480000), (8, 0x3F800000), (12, 0x42700000)],
   recFix 0x71 0 20 [(0, 0x447A0000), (4, 0x4576E000), (8, 0x42C80000), (16, 0x3F000000)]]
  ++ (List.range 8).map (fun k => recFix 0x80 k 32 (if k < 6 then [(0, 1), (4, 20), (8, 10)] else []))
  ++ [recFix 0x81 0 8 [], recFix 0xA0 0 32 [(0, 500000), (12, 0x700), (24, 100)],
   recFix 0xA1 0 28 [(0, 2), (4, 1), (8, 0x100), (16, 0x3DCCCCCD), (20, 0x3F000000)], recFix 0xB0 0 4 [(0, 0xFF)], recFix 0xC0 0 4308 []]

/-- An image of records with its header and the head of its signature block. -/
def imageOf (rs : List Rec) : List Byte :=
  let body := rs.flatMap (fun r => natLe 2 r.ty ++ natLe 2 r.inst ++ natLe 4 r.data.length ++ r.data) ++ natLe 2 0xFFFF ++ natLe 2 0 ++ natLe 4 0
  [0x4E, 0x52, 0x54, 0x43] ++ natLe 2 1 ++ natLe 2 9 ++ natLe 4 (64 + body.length) ++ natLe 4 0 ++ natLe 4 (rs.length + 1) ++ List.replicate 44 0 ++ body
    ++ [0x4E, 0x52, 0x54, 0x53, 0x60, 0x74, 0x00, 0x00]

/-- A flash with a firmware block and that Catalogue in both slots and no boot descriptor. -/
def plainFlash : Flash :=
  let good (d : List Byte) : FlashBlk := { data := d, crcGood := true }
  let img := imageOf plainRecs
  let cat := [(0, good (img.take 4092)), (1, good (img.drop 4092))] ++ [2, 3, 4, 5, 6, 7, 8].map (fun k => (k, good []))
  { State.reset.flash with fwA := [(0, good [])], fwB := [(0, good [])], catA := cat, catB := cat }

/-- The facts of that firmware. -/
def plainFw : FwFacts := { blocks := 1, sigOk := true, version := 0, formats := [1], arb := 0 }

/-- What Accession meets there. -/
def plainAcc : AccIn := { eccReads := [], defects := [], handshakes := [], fwA := plainFw, fwB := plainFw, sigA := true, sigB := true, readFails := [], permitFail := [], density := 0x1000000, loadBad := [], kaCheckOk := true }

/-- The start-up check passes there. -/
theorem plainAcc_check : startCheck plainAcc.eccReads plainAcc.defects = none := by decide +kernel

/-- What it loads. -/
def plainLoaded : Loaded := { recs := plainRecs, oemKey := 0, arb := 0, count := 18, buildLo := 0, buildHi := 0, imageLen := 4900 }

/-- 4,092 bytes of 0 and their CRC-32. -/
def zeroBlock : List Byte := List.replicate 4092 0 ++ natLe 4 (crc32 (List.replicate 4092 0))

/-- The fabric's hardware runs and every port is in one state. -/
def fabPorts (st : Nat) : State :=
  let s := live .drive []
  { s with sup := { s.sup with ifaces := true }, fab := { s.fab with ports := Tab.fill { FabPort.reset with st := st } } }

/-- A node that is alone in a closed list, admitted at address 0 and locked. -/
def fabUp (st : Nat) : State :=
  let s := fabPorts st
  { s with fab := { s.fab with epoch := [s.ident], closed := true, admitted := true, lock := true, timeSet := true } }

/-- A control frame's header from node 1, and a payload that is only its trailer. -/
def hdrFix : FabHeader := ⟨1, 1, 5, true, false, 0, 0, 0, 1, 0, 8, 1, 0, 0, 0, 0⟩
def trailed (h : FabHeader) (cnt : Nat) : List Byte := natLe 2 cnt ++ natLe 2 (dataId h) ++ natLe 4 (crc32c (e2eCover h (natLe 2 cnt ++ natLe 2 (dataId h))))

/-- The node holds a stream from node 1. -/
def streamed (last : Nat) (resync : Bool) (good : Option Nat) : State :=
  let s := fabUp 4
  { s with fab := { s.fab with streams := [⟨1, 0, 0, false, last, resync, good⟩] } }

/-- The node's services run in READY with every service option set. -/
def fabSvc : State :=
  let s := fabUp 4
  { s with sys := { s.sys with mode := .ready }, cat := { s.cat with params := [recFix 0xB0 0 4 [(0, 0xFF)], recFix 0x90 0 20 [(12, 0x38D1B717)]] ++ s.cat.params } }

/-- A junior unit of a pair, admitted beside its partner at address 1, both paths valid. -/
def pairFix : State :=
  let s := fabSvc
  { s with
    cat := { s.cat with params := [recFix 0x98 0 40 [(0, 5), (8, 0x3B83126F), (12, 0x3B83126F), (24, 0x3F800000), (28, 0x41200000), (32, 0x3E4CCCCD)]] ++ s.cat.params },
    fab := { s.fab with epoch := [s.ident, 5] }
    pair := { s.pair with role := 2, fabHb := true, phbHb := true } }

/-- A heartbeat of a junior partner that leads. -/
def hbFix : PartnerHb := { role := 1, leadOk := true, mode := 3, cycles := 0, arbFit := false, partnerFit := false, senior := false, request := (0, 0), counters := [] }

/-- A challenge of level 1 on CAN1 with so many segments taken, one outstanding, and one that the engine verifies after so many
failures, with an unlock mask. -/
def chalFix (seg : Nat) : Challenge := { path := some .can1, level := 1, seed := [], seg := seg, key := 0 }
def challenged (seg : Nat) : State :=
  let s := udsIn .ready 2 3 []
  { s with sec := { s.sec with challenge := some (chalFix seg) } }
def unlocking (fails mask : Nat) (q : Nat) : State :=
  let s := udsIn .ready 2 3 [recFix 0xC0 0 256 [(204, mask), (208, q)]]
  { s with sec := { s.sec with jobs := [.key (chalFix 8)] }, ka := { s.ka with unlockFails := fails } }

/-- A PWM group in the first half after its start, its legs on until ft 500, with the gate outputs in one state. -/
def gated (g : Grp) (o : OutSt) : State :=
  let s := live .drive []
  { s with
    sup := { s.sup with biasA := true, biasB := true },
    pwm := s.pwm.upd g (fun x => { x with running := true, latched := true, rising := true, first := true, period := 2000, span := 1000, e := [500, 500, 500] }),
    gd := { s.gd with ch := Tab.fill { GdChan.reset with out := o, hsOk := true } } }

/-- The LV converter may start. -/
def lvUp (rs : List Rec) : State :=
  let s := live .convert rs
  { s with sup := { s.sup with biasB := true } }

/-- The inputs of a slot and of a PFC update, all 0. -/
def slotFix : SlotIn := { vSw := 0, rs := 0, ls := 0, v48 := 0, sinceNs := none, ring := 0, off := 0 }
def pfcFix : PfcIn := { v1 := 0, v2 := 0, v3 := 0, i1 := ⟨0, []⟩, i2 := ⟨0, []⟩, i3 := ⟨0, []⟩ }

/-- A start-up test whose readings are all 0. -/
def testFix : StartTest := { phases := #v[0, 0, 0], low := #v[(0, []), (0, []), (0, [])], pair := Vector.replicate 3 { ix := 0, iy := 0, high := [], low := [] } }

/-- SI3 accepted as released on both channels: the park lock is released. -/
def released (s : State) : State :=
  { s with saf := { s.saf with si := s.saf.si.upd 3 (fun x => { x with a := { accepted := true, demand := false }, b := { accepted := true, demand := false } }) } }

/-- One period of an oscillating pilot line at 50 %. -/
def pwmLine : List Q := List.replicate 500 12 ++ List.replicate 500 (-12)

/-! ## WellFormed refuses -/

/-- A step of a pair's cores with no boundary output. -/
def stepFix : CoreStep := { gapNs := 0, main := none, bus := .idle, checker := [], held := [], rails := [], writes := none, region := none }

/-- A management request in range. -/
def reqFix : FabReq := ⟨31, 15, 0xFFFF, false⟩

/-- One command for each check on a field, one above its range, is refused. -/
theorem test_wellFormed_badFields : List.all (α := Instr)
  [.lockedStoreWrite .params 0x100000000 0,
   .lockedStoreWrite .map 0 0x100000000,
   .requestDownload .can1 0x100000000 0,
   .requestDownload .can1 0 0x100000000,
   .transferData .can1 256 [],
   .transferData .can1 0 (List.replicate 4105 0),
   .rotorAngleOffset .can1 .a 0 0x100000000,
   .hallEdge 0 8 0 0,
   .clearLatchedFlags .can1 256,
   .chargerFaultStop 0x10000,
   .shift (.uds .can1) 4,
   .lockstepMismatch .io [{ stepFix with rails := [(55, 0)] }],
   .lockstepMismatch .io [{ stepFix with writes := some (8, 32768) }],
   .registerExport .io (List.replicate 129 0) (List.replicate 129 0),
   .registerExport .io [0] [],
   .scrubRead [⟨1, 0, 0, false, false⟩, ⟨1, 0, 0, false, false⟩] 0,
   .housekeepingRound [⟨3, 0, 0⟩, ⟨2, 0, 0⟩],
   .uncorrectableError ⟨8, 32768, 0, 0⟩ .scrubber false,
   .uncorrectableError ⟨0, 98304, 0, 0⟩ .scrubber false,
   .correctableError ⟨8, 32768, 0, 0⟩ .scrubber 0,
   .correctableError ⟨0, 98304, 0, 0⟩ .scrubber 0,
   .pairRestartComplete .io [(8, 32768)],
   .debugHalt .io { stepFix with writes := some (8, 32768) } [] [],
   .debugHalt .io stepFix [0] [],
   .debugResume .io false [{ stepFix with rails := [(55, 0)] }] [] [],
   .debugResume .io false [] (List.replicate 129 0) (List.replicate 129 0),
   .debugRegisterWrite .io 128 0,
   .debugRegisterWrite .io 0 0x10000000000000000,
   .helloFrame 0 0x10000000000000000 0,
   .helloFrame 0 0 0x10000000000000000,
   .frameEndReceived 0 true (List.replicate 1025 0),
   .ackReceived 0 0x10000,
   .nakReceived 0 0x10000,
   .controlFrameReceived hdrFix (List.replicate 1025 0) .other] (fun i => !i.wellFormed) = true := by decide +kernel

/-- Frame headers with one field above its width are refused. -/
theorem test_wellFormed_badHeaders : List.all (α := Instr)
  [.frameHeaderReceived 0 { hdrFix with version := 16 },
   .frameHeaderReceived 0 { hdrFix with type := 16 },
   .frameHeaderReceived 0 { hdrFix with cls := 8 },
   .frameHeaderReceived 0 { hdrFix with rsv1 := 8 },
   .frameHeaderReceived 0 { hdrFix with dst := 256 },
   .frameHeaderReceived 0 { hdrFix with dep := 256 },
   .frameHeaderReceived 0 { hdrFix with src := 256 },
   .frameHeaderReceived 0 { hdrFix with sep := 256 },
   .frameHeaderReceived 0 { hdrFix with len := 65536 },
   .frameHeaderReceived 0 { hdrFix with hop := 256 },
   .frameHeaderReceived 0 { hdrFix with rsv9 := 256 },
   .frameHeaderReceived 0 { hdrFix with seq := 65536 },
   .frameHeaderReceived 0 { hdrFix with link := 65536 },
   .frameHeaderReceived 0 { hdrFix with rsv14 := 65536 },
   .controlFrameReceived { hdrFix with cls := 8 } [] .other,
   .dataFrameReceived { hdrFix with dep := 256 }] (fun i => !i.wellFormed) = true := by decide +kernel

/-- Management requests out of range are refused. -/
theorem test_wellFormed_badRequests : List.all (α := Instr)
  [.read { reqFix with node := 32 } 0 1,
   .read { reqFix with ep := 16 } 0 1,
   .read { reqFix with tag := 65536 } 0 1,
   .read reqFix 0x100000000 1,
   .read reqFix 0 0x100000000,
   .write { reqFix with node := 32 } 0 0,
   .write reqFix 0x100000000 0,
   .write reqFix 0 0x100000000,
   .stageOpen { reqFix with node := 32 } 0 0 0,
   .stageOpen reqFix 256 0 0,
   .stageExit { reqFix with ep := 16 },
   .routine { reqFix with node := 32 } 0 plainFw true [],
   .routine reqFix 0x10000 plainFw true [],
   .imageBlockPart 32 0 0 (List.replicate 512 0),
   .imageBlockPart 0 0 8 (List.replicate 512 0),
   .imageBlockPart 0 0 0 [],
   .reset { reqFix with node := 32 } 0,
   .reset reqFix 0x10000000000000000,
   .barrier 32 0,
   .snapshot { reqFix with node := 32 } 0 [],
   .snapshot reqFix 0x10000000000000000 [],
   .logRead { reqFix with node := 32 } 0 0,
   .logRead reqFix 0x100000000 0,
   .attest { reqFix with node := 32 } (List.replicate 32 0),
   .attest reqFix [],
   .opUnknown { reqFix with node := 32 } 0,
   .opUnknown reqFix 256] (fun i => !i.wellFormed) = true := by decide +kernel

/-- Services, faults and register accesses out of range are refused. -/
theorem test_wellFormed_badServices : List.all (α := Instr)
  [.controlMessageReceived 0 0 (List.replicate 2049 0),
   .diagnosticSessionControl .can1 256 false,
   .ecuReset .can1 256,
   .clearDiagnosticInformation .can1 0x1000000,
   .readDtcInformation .can1 256 0,
   .readDtcInformation .can1 0 256,
   .readDataByIdentifier .can1 0x10000,
   .readMemoryByAddress .can1 256 0 0,
   .readMemoryByAddress .can1 0 0x100000000 0,
   .writeDataByIdentifier .can1 0x10000 0,
   .writeDataByIdentifier .can1 0 0x100000000,
   .routineResults .can1 0x10000,
   .testerPresent .can1 256 true,
   .requestSeed .can1 256,
   .sendKey .can1 256 0 0 0,
   .sendKey .can1 0 256 0 0,
   .sendKey .can1 0 0 256 0,
   .attestationRequest .can1 256 [],
   .jtagKey 256 true,
   .modemFrameReceive 0x10000 0,
   .modemFrameReceive 0 0x10000,
   .faultRaise 0x10000 0 0,
   .faultRaise 0 0x10000 0,
   .faultRaise 0 0 0x100000000,
   .faultClear 0x10000 0,
   .faultClear 0 0x10000,
   .faultExpiry 0x10000 0 0,
   .faultExpiry 0 0x10000 0,
   .rcRegisterRead .uds 0x100000000,
   .registerWrite .jtag 0x100000000 0,
   .registerWrite .jtag 0 0x100000000,
   .unsupportedService .can1 256 none false] (fun i => !i.wellFormed) = true := by decide +kernel

/-- Fields at the top of their ranges are accepted. -/
theorem test_wellFormed_goodFields : List.all (α := Instr)
  [.lockedStoreWrite .code 0xFFFFFFFF 0xFFFFFFFF,
   .transferData .can1 255 (List.replicate 4104 0),
   .hallEdge 0 7 0 0,
   .shift (.uds .can1) 3,
   .lockstepMismatch .io [{ stepFix with rails := [(54, 3)], writes := some (8, 32767) }],
   .registerExport .io (List.replicate 128 0) (List.replicate 128 0),
   .housekeepingRound [⟨2, 0, 0⟩, ⟨3, 0, 0⟩],
   .pairRestartComplete .io [(8, 32767)],
   .debugHalt .io stepFix (List.replicate 128 0) (List.replicate 128 0),
   .uncorrectableError ⟨8, 32767, 0, 0⟩ .other false,
   .correctableError ⟨7, 98303, 0, 0⟩ .other 0,
   .debugRegisterWrite .io 127 0xFFFFFFFFFFFFFFFF,
   .frameHeaderReceived 0 hdrFix,
   .read reqFix 0xFFFFFFFF 1,
   .imageBlockPart 31 0 7 (List.replicate 512 0),
   .faultRaise 0xFFFF 0xFFFF 0xFFFFFFFF] Instr.wellFormed = true := by decide +kernel

end Sys2Proof.Tests

namespace Sys2Proof.Machine
open Sys2Proof Sys2Proof.Tests Host

/-! ## Central values, against the decimal expansions of the constants -/

theorem test_sqrt_two : absQ (sqrtC 2 - 14142135623730950488016887 / 10 ^ 25) < 1 / 2 ^ 48 := by decide +kernel
theorem test_sine_of_thirty_degrees : absQ (sinC (piC / 6) - 1 / 2) < 1 / 2 ^ 48 := by decide +kernel
theorem test_cosine_of_one : absQ (cosC 1 - 5403023058681397174009366 / 10 ^ 25) < 1 / 2 ^ 48 := by decide +kernel
theorem test_exponential_of_minus_one : absQ (expC (-1) - 3678794411714423215955238 / 10 ^ 25) < 1 / 2 ^ 48 := by decide +kernel
theorem test_logarithm_of_ten : absQ (lnC 10 - 23025850929940456840179915 / 10 ^ 25) < 1 / 2 ^ 48 := by decide +kernel
theorem test_arc_sine_of_half : absQ (asinC (1 / 2) - piC / 6) < 1 / 2 ^ 48 := by decide +kernel

/-! ## Words of memory and pins -/

/-- Two changed check bits are no correctable error (R414). -/
theorem test_two_bits_uncorrectable : verdict ⟨0, 0, 0, 3⟩ = .uncorrectable := by decide +kernel
/-- A gate output is pulled down and READY high-impedance in SHIP (R49). -/
theorem test_pins_in_ship : (inMode .ship).pin (.gate 3) = .pullDown ∧ (inMode .ship).pin .ready = .hiZ := by decide +kernel
/-- FAULT_N is open drain, low with a fault (R49, R531). -/
theorem test_fault_pin : (inMode .drive).pin .faultN = (if (inMode .drive).sys.faultPin then .low else .hiZ) := by decide +kernel

/-! ## Worked examples of the spec -/

/-- With 10,000 µF and 8.0 V the page program passes and the erase does not; at 13.5 V it does, and HOLD_MV reads 0x34BC (R88). -/
theorem test_hold_energy :
    holdOk (withRecs [recFix 2 0 4 [(0, 0x3C23D70A)]]) 8 .logPage = true ∧ holdOk (withRecs [recFix 2 0 4 [(0, 0x3C23D70A)]]) 8 .stageErase = false ∧
      holdOk (withRecs [recFix 2 0 4 [(0, 0x3C23D70A)]]) (27 / 2) .stageErase = true ∧ (measureHold (27 / 2) State.reset).sup.holdMv = 0x34BC := by decide +kernel
/-- The lowest V_HOLD of an erase there is 10.04 V (R88). -/
theorem test_hold_erase_level :
    holdOk (withRecs [recFix 2 0 4 [(0, 0x3C23D70A)]]) (1003 / 100) .stageErase = false ∧ holdOk (withRecs [recFix 2 0 4 [(0, 0x3C23D70A)]]) (1004 / 100) .stageErase = true := by decide +kernel
/-- A phase current of +150 A with a 600 A full scale is the code 0x20_0000, one of −150 A 0xE0_0000 (R8). -/
theorem test_current_code :
    codeOf (withRecs [recFix 0x30 0 156 [(24, 0x44160000)]]) .a 150 = 0x200000 ∧ codeOf (withRecs [recFix 0x30 0 156 [(24, 0x44160000)]]) .a (-150) % 2 ^ 24 = 0xE00000 := by decide +kernel

/-! ## Witnesses -/

/-- The hypotheses of StepRunsTheFrontCommand can be met. -/
theorem witness_StepRunsTheFrontCommand :
    (∃ (s : State), (s.pending = [])) ∧
    (∃ (s : State), (s.pending = []) ∧ s.xtalOk = true) ∧
    (∃ (s : State), (s.pending = []) ∧ s.xtalOk = false) :=
  ⟨⟨live .ready [], by decide +kernel⟩,
   ⟨live .ready [], by decide +kernel⟩,
   ⟨State.reset, by decide +kernel⟩⟩

/-- The hypotheses of MapAndOtpAreKept can be met. -/
theorem witness_MapAndOtpAreKept :
    (∃ (s t : State), (step s = .next t)) :=
  ⟨{ State.reset with otp := State.reset.otp.put 0 1, cat := { State.reset.cat with map := [⟨1, 2⟩] } }, _, rfl⟩

/-- The hypotheses of ModeChanges can be met. -/
theorem witness_ModeChanges :
    (∃ (s : State) (heldMs : Nat), (s.hasRec 3 0 = true) ∧ (10 ≤ heldMs)) ∧
    (∃ (s : State) (low : Bool), (s.sys.mode = .ready) ∧ ((s.lks.pairs.get .io).st = 1) ∧ (activeClass 4 s = false) ∧ (s.veh.mode = some 4) ∧ (s.sys.dcInside = true) ∧ (s.sup.ship = .none)) ∧
    (∃ (s : State) (low : Bool), (s.sys.mode = .ready ∨ s.sys.mode = .convert) ∧ ((s.lks.pairs.get .io).st = 1) ∧ (activeClass 4 s = false) ∧ (s.veh.mode = some 5) ∧ (s.sys.dcInside = true) ∧ (s.siTestPending 0 = false) ∧ (s.connected = false) ∧ (s.siDemand 4 = false) ∧ (s.sup.ship = .none)) ∧
    (∃ (s : State) (low : Bool), (s.sys.mode = .ready) ∧ ((s.lks.pairs.get .io).st = 1) ∧ (activeClass 4 s = false) ∧ (s.veh.mode = some 5) ∧ (s.sup.ship = .none) ∧ (s.sys.dcInside = false ∨ s.siTestPending 0 = true ∨ s.connected = true ∨ s.siDemand 4 = true)) ∧
    (∃ (s : State) (low : Bool), (s.sys.mode ≠ .off ∧ s.sys.mode ≠ .ship ∧ s.sys.mode ≠ .safe) ∧ ((s.sys.mode = .accession → (s.lks.pairs.get .io).st = 1)) ∧ (s.inReset = false) ∧ (s.lks.dead = false) ∧ (activeClass 4 s = true)) ∧
    (∃ (s : State) (low : Bool), (s.sys.mode = .drive) ∧ ((s.lks.pairs.get .io).st = 1) ∧ (activeClass 4 s = false) ∧ (s.sys.dcInside = false)) ∧
    (∃ (s : State) (low : Bool), (s.sys.mode = .charge) ∧ ((s.lks.pairs.get .io).st = 1) ∧ (activeClass 4 s = false) ∧ (s.si3Eng = false)) ∧
    (∃ (s : State) (low : Bool), (s.sys.mode = .drive) ∧ ((s.lks.pairs.get .io).st = 1) ∧ (activeClass 4 s = false) ∧ (s.sys.dcInside = true) ∧ (s.connected = false) ∧ (s.siDemand 4 = false) ∧ (s.sys.waitStill = false) ∧ (s.veh.mode = some 3) ∧ (s.standstill = false) ∧ (s.sup.ship = .none)) ∧
    (∃ (s : State) (low : Bool), (s.sys.mode = .ready) ∧ ((s.lks.pairs.get .io).st = 1) ∧ (activeClass 4 s = false) ∧ (s.veh.mode = some 4) ∧ (s.sys.dcInside = true) ∧ (s.sup.ship = .none) ∧ (s.fn 5 = true)) ∧
    (∃ (s : State) (low : Bool), (s.sys.mode = .ready ∨ s.sys.mode = .convert) ∧ ((s.lks.pairs.get .io).st = 1) ∧ (activeClass 4 s = false) ∧ (s.veh.mode = some 5) ∧ (s.sys.dcInside = true) ∧ (s.siTestPending 0 = false) ∧ (s.connected = false) ∧ (s.siDemand 4 = false) ∧ (s.sup.ship = .none) ∧ (s.sys.mode = .ready) ∧ (s.fn 5 = true)) ∧
    (∃ (s : State) (low : Bool), (s.sys.mode ≠ .off ∧ s.sys.mode ≠ .ship ∧ s.sys.mode ≠ .safe) ∧ ((s.sys.mode = .accession → (s.lks.pairs.get .io).st = 1)) ∧ (s.inReset = false) ∧ (s.lks.dead = false) ∧ (activeClass 4 s = true) ∧ (s.sup.ship = .falling)) ∧
    (∃ (s : State) (low : Bool), (s.sys.mode ≠ .off ∧ s.sys.mode ≠ .ship ∧ s.sys.mode ≠ .safe) ∧ ((s.sys.mode = .accession → (s.lks.pairs.get .io).st = 1)) ∧ (s.inReset = false) ∧ (s.lks.dead = false) ∧ (activeClass 4 s = true) ∧ (s.sup.ship ≠ .ship) ∧ (s.sup.ship ≠ .waking) ∧ (s.sup.ship ≠ .falling)) ∧
    (∃ (s : State) (low : Bool), (s.sys.mode = .drive) ∧ ((s.lks.pairs.get .io).st = 1) ∧ (activeClass 4 s = false) ∧ (s.sys.dcInside = false) ∧ (s.fn 1 = true)) ∧
    (∃ (s : State) (low : Bool), (s.inReset = true) ∧ (activeClass 4 s = true) ∧ (s.sys.mode ≠ .safe)) ∧
    (∃ (s : State) (low : Bool), (s.inReset = false) ∧ (s.lks.dead = true) ∧ (activeClass 4 s = true) ∧ (s.sys.mode ≠ .safe)) :=
  ⟨⟨withRecs [recFix 3 0 16 []], 10, by decide +kernel⟩,
   ⟨{ live .ready [] with veh := { State.reset.veh with mode := some 4 }, sys := { (live .ready []).sys with dcInside := true } }, false, by decide +kernel⟩,
   ⟨{ live .ready [] with veh := { State.reset.veh with mode := some 5 }, sys := { (live .ready []).sys with dcInside := true } }, false, by decide +kernel⟩,
   ⟨{ live .ready [] with veh := { State.reset.veh with mode := some 5 }, sys := { (live .ready []).sys with dcInside := false } }, true, by decide +kernel⟩,
   ⟨{ live .drive [] with faults := [{ code := 0x5803, inst := 0, cls := 4, raises := 1, suppressed := 0 }] }, false, by decide +kernel⟩,
   ⟨{ live .drive [] with sys := { (live .drive []).sys with dcInside := false } }, false, by decide +kernel⟩,
   ⟨live .charge [], false, by decide +kernel⟩,
   ⟨{ live .drive [recFix 3 0 16 []] with veh := { State.reset.veh with mode := some 3 }, sys := { (live .drive []).sys with dcInside := true } }, false, by decide +kernel⟩,
   ⟨{ live .ready [] with veh := { State.reset.veh with mode := some 4 }, sys := { (live .ready []).sys with dcInside := true } }, false, by decide +kernel⟩,
   ⟨{ live .ready [] with veh := { State.reset.veh with mode := some 5 }, sys := { (live .ready []).sys with dcInside := true } }, false, by decide +kernel⟩,
   ⟨{ live .drive [] with faults := [{ code := 0x5803, inst := 0, cls := 4, raises := 1, suppressed := 0 }], sup := { State.reset.sup with ship := .falling } }, false, by decide +kernel⟩,
   ⟨{ live .accession [] with faults := [{ code := 0x5803, inst := 0, cls := 4, raises := 1, suppressed := 0 }] }, true, by decide +kernel⟩,
   ⟨{ live .drive [] with sys := { (live .drive []).sys with dcInside := false } }, false, by decide +kernel⟩,
   ⟨{ live .drive [] with faults := [{ code := 0x5803, inst := 0, cls := 4, raises := 1, suppressed := 0 }], sup := { State.reset.sup with nRst := false } }, true, by decide +kernel⟩,
   ⟨{ live .accession [] with faults := [{ code := 0x5803, inst := 0, cls := 4, raises := 1, suppressed := 0 }], lks := { (live .accession []).lks with dead := true } }, true, by decide +kernel⟩⟩

/-- The hypotheses of FeedLevels can be met. -/
theorem witness_FeedLevels :
    (∃ (s : State) (f : Feed) (volts : Q) (heldUs : Nat), (feedsJudged s = true) ∧ (29 / 5 < volts) ∧ (s.sup.holdup = false) ∧ ((feedOf s f).lost = false ∨ 1000 ≤ heldUs)) ∧
    (∃ (s : State) (f : Feed) (volts : Q) (heldUs : Nat), (feedsJudged s = true) ∧ (s.sup.ship ≠ .falling) ∧ (volts < 11 / 2) ∧ (20 ≤ heldUs) ∧ ((feedOf s f).present = true) ∧ ((feedOf s f.other).present = true)) ∧
    (∃ (s : State) (f : Feed) (volts : Q) (heldUs : Nat), (feedsJudged s = true) ∧ (38 < volts) ∧ (20 ≤ heldUs)) ∧
    (∃ (s : State) (f : Feed) (volts : Q) (heldUs : Nat), (feedsJudged s = true) ∧ (volts < 36) ∧ (1000 ≤ heldUs) ∧ ((feedOf s f).ov = true)) ∧
    (∃ (s : State) (f : Feed) (feedVolts holdVolts : Q), (feedsJudged s = true)) ∧
    (∃ (s : State) (f : Feed) (volts : Q) (heldUs : Nat), (feedsJudged s = true) ∧ (29 / 5 < volts) ∧ ((feedOf s f).present = false) ∧ (s.sup.holdup = false) ∧ ((feedOf s f).lost = false ∨ 1000 ≤ heldUs)) ∧
    (∃ (s : State) (f : Feed) (feedVolts holdVolts : Q), (feedsJudged s = true) ∧ (feedVolts < holdVolts - 1 / 100)) :=
  ⟨⟨inMode .ready, .a, 6, 0, by decide +kernel⟩,
   ⟨{ inMode .ready with sup := { State.reset.sup with feedA := { State.reset.sup.feedA with present := true }, feedB := { State.reset.sup.feedB with present := true } } }, .a, 5, 20, by decide +kernel⟩,
   ⟨inMode .ready, .a, 39, 20, by decide +kernel⟩,
   ⟨{ inMode .ready with sup := { State.reset.sup with feedA := { State.reset.sup.feedA with ov := true } } }, .a, 35, 1000, by decide +kernel⟩,
   ⟨inMode .ready, .a, 11, 12, by decide +kernel⟩,
   ⟨inMode .ready, .a, 6, 0, by decide +kernel⟩,
   ⟨inMode .ready, .a, 11, 12, by decide +kernel⟩⟩

/-- The hypotheses of HoldUp can be met. -/
theorem witness_HoldUp :
    (∃ (s : State) (f : Feed) (volts : Q) (heldUs : Nat), (feedsJudged s = true) ∧ (s.sup.ship ≠ .falling) ∧ (volts < 11 / 2) ∧ (20 ≤ heldUs) ∧ ((feedOf s f.other).present = false) ∧ (s.sup.holdup = false) ∧ (s.inReset = false) ∧ (s.lks.dead = false)) ∧
    (∃ (s : State) (f : Feed) (volts : Q) (heldUs : Nat), (feedsJudged s = true) ∧ (s.sup.ship ≠ .falling) ∧ (volts < 11 / 2) ∧ (20 ≤ heldUs) ∧ ((feedOf s f.other).present = false) ∧ (s.sup.holdup = false) ∧ (s.inReset = true ∨ s.lks.dead = true)) ∧
    (∃ (s : State) (f : Feed) (volts holdVolts : Q) (heldUs : Nat), (s.sup.holdup = true) ∧ (29 / 5 < volts) ∧ (1000 ≤ heldUs) ∧ (5 ≤ holdVolts)) ∧
    (∃ (s : State) (holdVolts : Q), (s.sys.mode ≠ .off) ∧ (s.sys.mode ≠ .ship) ∧ (holdVolts < 5)) ∧
    (∃ (s : State) (r : Rail) (volts : Q), (feedsJudged s = true) ∧ (railOut r volts = true)) ∧
    (∃ (s : State) (r : Rail) (volts : Q), (railOut r volts = false) ∧ (r ∈ s.sup.railsOut)) ∧
    (∃ (s : State) (f : Feed) (volts holdVolts : Q) (heldUs : Nat), (s.sup.holdup = true) ∧ (29 / 5 < volts) ∧ (1000 ≤ heldUs) ∧ (5 ≤ holdVolts) ∧ (s.cat.locked = true)) ∧
    (∃ (s : State) (f : Feed) (volts holdVolts : Q) (heldUs : Nat), (s.sup.holdup = true) ∧ (29 / 5 < volts) ∧ (1000 ≤ heldUs) ∧ (5 ≤ holdVolts) ∧ (s.cat.locked = false)) ∧
    (∃ (s : State) (f : Feed) (volts holdVolts : Q) (heldUs : Nat), (s.sup.holdup = true) ∧ (s.sys.mode = .accession) ∧ (29 / 5 < volts) ∧ (1000 ≤ heldUs) ∧ (5 ≤ holdVolts)) :=
  ⟨⟨inMode .ready, .a, 5, 20, by decide +kernel⟩,
   ⟨{ inMode .ready with sup := { State.reset.sup with nRst := false } }, .a, 5, 20, by decide +kernel⟩,
   ⟨{ inMode .safe with sup := { State.reset.sup with holdup := true } }, .a, 6, 8, 1000, by decide +kernel⟩,
   ⟨inMode .ready, 4, by decide +kernel⟩,
   ⟨inMode .ready, .vcore, 1, by decide +kernel⟩,
   ⟨{ inMode .accession with sup := { State.reset.sup with railsOut := [.vcore] } }, .vcore, 8 / 10, by decide +kernel⟩,
   ⟨{ inMode .safe with sup := { State.reset.sup with holdup := true } }, .a, 6, 8, 1000, by decide +kernel⟩,
   ⟨{ State.reset with sup := { State.reset.sup with holdup := true } }, .a, 6, 8, 1000, by decide +kernel⟩,
   ⟨{ inMode .accession with sup := { State.reset.sup with holdup := true } }, .a, 6, 8, 1000, by decide +kernel⟩⟩

/-- The hypotheses of BiasAndPowerUp can be met. -/
theorem witness_BiasAndPowerUp :
    (∃ (s : State) (bank : Bank) (sw : Fin 2) (shuntVolts : Q), ((match bank with | .a => s.sup.biasA | .b => s.sup.biasB) = true) ∧ (1 / 5 < shuntVolts)) ∧
    (∃ (s : State) (limitUs : Nat), (1000 ≤ limitUs) ∧ (s.sup.biasA = true)) ∧
    (∃ (s : State) (limitUs : Nat), (1000 ≤ limitUs) ∧ (s.sup.biasB = true)) ∧
    (∃ (s : State) (f : Feed) (volts : Q), (s.sys.mode = .off) ∧ (29 / 5 < volts)) ∧
    (∃ (s : State) (kaVolts : Q), (6 ≤ kaVolts) ∧ (kaVolts ≤ 36)) ∧
    (∃ (s : State) (minEdges maxEdges windowUs : Nat) (seniorToGnd : Bool), (s.sys.mode = .accession) ∧ (s.sup.step < 4) ∧ (s.sup.nRst = true) ∧ (s.sup.railsOut = []) ∧ (70 ≤ minEdges) ∧ (maxEdges ≤ 90) ∧ (1000 ≤ windowUs)) ∧
    (∃ (s : State) (reports : List Handshake), (s.cat.locked = true) ∧ (s.sys.mode = .accession) ∧ (8 ≤ s.sup.step) ∧ ((∀ c : Chan, c.val < 29 → s.chPresent c = true → (reports.any (handshakeOk s c)) = true)) ∧ ((activeClass 4 s = true → s.inReset = false ∧ s.lks.dead = false))) ∧
    (∃ (s : State) (reports : List Handshake) (c : Chan), (s.cat.locked = true) ∧ (s.sys.mode ≠ .accession ∨ 8 ≤ s.sup.step) ∧ (c.val < 29) ∧ (s.chPresent c = true) ∧ ((reports.any (handshakeOk s c)) = false)) ∧
    (∃ (s : State) (reports : List Handshake) (c : Chan), (s.cat.locked = true) ∧ (s.sys.mode ≠ .accession ∨ 8 ≤ s.sup.step) ∧ (c.val < 29) ∧ (s.chPresent c = true) ∧ ((reports.any (handshakeOk s c)) = false) ∧ (s.sys.mode = .accession) ∧ (activeClass 4 s = false)) ∧
    (∃ (s : State) (kaVolts : Q), (s.ka.valid = false) ∧ (6 ≤ kaVolts) ∧ (kaVolts ≤ 36)) :=
  ⟨⟨{ inMode .ready with sup := { State.reset.sup with biasA := true } }, .a, 0, 1, by decide +kernel⟩,
   ⟨{ inMode .ready with sup := { State.reset.sup with biasA := true } }, 1000, by decide +kernel⟩,
   ⟨{ inMode .ready with sup := { State.reset.sup with biasB := true } }, 1000, by decide +kernel⟩,
   ⟨{ State.reset with sys := { State.reset.sys with mode := .off } }, .a, 12, by decide +kernel⟩,
   ⟨{ State.reset with ka := { State.reset.ka with valid := false } }, 12, by decide +kernel⟩,
   ⟨State.reset, 80, 80, 1000, true, by decide +kernel⟩,
   ⟨{ withRecs [recFix 1 0 16 []] with sup := { State.reset.sup with step := 8 } }, [], by decide +kernel⟩,
   ⟨{ inMode .accession with sup := { State.reset.sup with step := 8 } }, [], 3, by decide +kernel⟩,
   ⟨{ withRecs [recAll] with sup := { State.reset.sup with step := 8 } }, [], 2, by decide +kernel⟩,
   ⟨{ State.reset with ka := { State.reset.ka with valid := false } }, 12, by decide +kernel⟩⟩

/-- The hypotheses of ResetPins can be met. -/
theorem witness_ResetPins :
    (∃ (s : State) (lowNs : Nat), (s.sys.mode ≠ .ship) ∧ (s.sys.mode ≠ .off) ∧ (5000 ≤ lowNs)) ∧
    (∃ (s : State), (s.sup.nRst = false)) ∧
    (∃ (s : State) (pressMs : Nat), (svcJudged s = true) ∧ (s.sup.svc.armed = true) ∧ (50 ≤ pressMs) ∧ (pressMs < 8000)) ∧
    (∃ (s : State) (pressMs : Nat), (svcJudged s = true) ∧ (s.sup.svc.armed = true) ∧ (s.sup.svc.asked = false) ∧ (8000 ≤ pressMs) ∧ (s.cat.locked = false ∨ hvOff s = true ∧ s.standstill = true)) ∧
    (∃ (s : State) (pressMs : Nat), (svcJudged s = true) ∧ (s.sup.svc.armed = true) ∧ (s.sup.svc.asked = false) ∧ (8000 ≤ pressMs) ∧ (s.cat.locked = true) ∧ (hvOff s = false ∨ s.standstill = false)) ∧
    (∃ (s : State) (lowMs : Nat), (svcJudged s = true) ∧ (30000 ≤ lowMs)) ∧
    (∃ (s : State) (releasedMs : Nat), (svcJudged s = true) ∧ (1000 ≤ releasedMs)) ∧
    (∃ (s : State) (pressMs : Nat), (s.sup.svc.asked = true)) ∧
    (∃ (s : State) (pressMs : Nat), (svcJudged s = true) ∧ (s.sup.svc.armed = true) ∧ (8000 ≤ pressMs) ∧ (s.cat.locked = false ∨ hvOff s = true ∧ s.standstill = true)) ∧
    (∃ (s : State) (pressMs : Nat), (svcJudged s = true) ∧ (s.sup.svc.armed = true) ∧ (8000 ≤ pressMs) ∧ (s.cat.locked = true) ∧ (hvOff s = false ∨ s.standstill = false)) :=
  ⟨⟨inMode .ready, 5000, by decide +kernel⟩,
   ⟨{ State.reset with sup := { State.reset.sup with nRst := false } }, by decide +kernel⟩,
   ⟨{ inMode .ready with sup := { State.reset.sup with svc := { armed := true, stuck := false, refused := false, asked := false, low := false } } }, 50, by decide +kernel⟩,
   ⟨{ State.reset with sup := { State.reset.sup with svc := { armed := true, stuck := false, refused := false, asked := false, low := false } } }, 8000, by decide +kernel⟩,
   ⟨{ inMode .ready with sup := { State.reset.sup with svc := { armed := true, stuck := false, refused := false, asked := false, low := false } } }, 8000, by decide +kernel⟩,
   ⟨inMode .ready, 30000, by decide +kernel⟩,
   ⟨inMode .ready, 1000, by decide +kernel⟩,
   ⟨{ inMode .ready with sup := { State.reset.sup with svc := { armed := true, stuck := false, refused := false, asked := true, low := false } } }, 8000, by decide +kernel⟩,
   ⟨{ State.reset with sup := { State.reset.sup with svc := { armed := true, stuck := false, refused := false, asked := false, low := false } } }, 8000, by decide +kernel⟩,
   ⟨{ inMode .ready with sup := { State.reset.sup with svc := { armed := true, stuck := false, refused := false, asked := false, low := false } } }, 8000, by decide +kernel⟩⟩

/-- The hypotheses of ShipMode can be met. -/
theorem witness_ShipMode :
    (∃ (s : State) (elapsedMs : Nat), (s.sup.ship = .writes ∨ s.sup.ship = .record) ∧ (1000 < elapsedMs)) ∧
    (∃ (s : State) (voltsA voltsB : Q) (elapsedMs : Nat), (s.sup.ship = .falling) ∧ (voltsA < 3) ∧ (voltsB < 3) ∧ (elapsedMs ≤ 500)) ∧
    (∃ (s : State) (elapsedMs : Nat), (s.sup.ship = .falling) ∧ (500 ≤ elapsedMs)) ∧
    (∃ (s : State) (voltsA voltsB : Q) (heldMs : Nat), (s.sup.ship = .ship) ∧ (voltsA < 3) ∧ (voltsB < 3) ∧ (100 ≤ heldMs)) ∧
    (∃ (s : State) (obs : WakeObs), (s.sup.ship = .ship ∨ s.sup.ship = .waking) ∧ (s.sys.mode = .ship) ∧ ((100 ≤ obs.svcLowMs ∧ s.sup.wakes.wkSvc = false) ∨ (10 ≤ obs.wakeHighMs ∧ s.sup.wakes.wkWake = false) ∨ (obs.acPresent = true ∧ s.sup.wakes.wkAc = false) ∨ (3 < obs.pilotVolts ∧ 1 ≤ obs.pilotMs ∧ s.sup.wakes.wkCp = false) ∨ (s.sup.riseArmed = true ∧ 29 / 5 < obs.feedVolts ∧ 1 ≤ obs.feedMs ∧ s.sup.wakes.wkFeed = false))) ∧
    (∃ (s : State) (f : Feed) (volts : Q), (s.sup.ship = .waking) ∧ (29 / 5 < volts)) ∧
    (∃ (s : State) (elapsedMs : Nat), (s.sup.ship = .waking) ∧ (500 ≤ elapsedMs)) :=
  ⟨⟨{ inMode .ready with sup := { State.reset.sup with ship := .writes } }, 1001, by decide +kernel⟩,
   ⟨{ inMode .ready with sup := { State.reset.sup with ship := .falling } }, 2, 1, 500, by decide +kernel⟩,
   ⟨{ inMode .ready with sup := { State.reset.sup with ship := .falling } }, 500, by decide +kernel⟩,
   ⟨{ State.reset with sup := { State.reset.sup with ship := .ship } }, 2, 1, 100, by decide +kernel⟩,
   ⟨{ State.reset with sup := { State.reset.sup with ship := .ship }, sys := { State.reset.sys with mode := .ship } }, { svcLowMs := 100, wakeHighMs := 0, pilotVolts := 0, pilotMs := 0, acPresent := false, feedVolts := 0, feedMs := 0 }, by decide +kernel⟩,
   ⟨{ State.reset with sup := { State.reset.sup with ship := .waking } }, .b, 12, by decide +kernel⟩,
   ⟨{ State.reset with sup := { State.reset.sup with ship := .waking } }, 500, by decide +kernel⟩⟩

/-- The hypotheses of FlashOperations can be met. -/
theorem witness_FlashOperations :
    (∃ (s : State) (o : FlashOp) (holdVolts : Q) (ageUs : Nat), (s.ops.running = none) ∧ ((waitingOps s).contains o = true) ∧ (ageUs ≤ 10) ∧ (startsOver s = false) ∧ (isStagingOp o = false ∨ (waitingOps s).contains .logPage = false) ∧ (bootMayStart s o = true) ∧ (logPaused s o = false) ∧ (holdOk s holdVolts o = true)) ∧
    (∃ (s : State) (o : FlashOp) (holdVolts : Q), (s.ops.running = none) ∧ (s.sup.holdup = false) ∧ ((waitingOps s).find? (fun q => holdOk s holdVolts q && bootMayStart s q && !logPaused s q) = some o)) ∧
    (∃ (s : State) (o : FlashOp), (s.ops.running = some o) ∧ (s.ops.orphan = false) ∧ (s.sup.ship ≠ .writes) ∧ (s.sup.ship ≠ .record) ∧ (s.sec.lcReset = false) ∧ ((∀ w b, o ≠ .otpWord w b)) ∧ ((∀ j, o ≠ .bootProgram j true))) ∧
    (∃ (s : State) (w : Nat) (b : BitVec 64), (s.ops.running = some (.otpWord w b)) ∧ (s.ops.orphan = false) ∧ (s.sup.ship ≠ .writes) ∧ (s.sup.ship ≠ .record) ∧ (s.sec.lcReset = false)) ∧
    (∃ (s : State) (j : Fin 2) (d : BootDesc), (s.ops.running = some (.bootProgram j true)) ∧ (s.ops.orphan = false) ∧ (s.sup.ship ≠ .writes) ∧ (s.sup.ship ≠ .record) ∧ (s.sec.lcReset = false) ∧ (s.cat.descDue = some (j, d)) ∧ (s.cat.descNext = none)) ∧
    (∃ (s : State) (j : Fin 2) (d e : BootDesc), (s.ops.running = some (.bootProgram j true)) ∧ (s.ops.orphan = false) ∧ (s.sup.ship ≠ .writes) ∧ (s.sup.ship ≠ .record) ∧ (s.sec.lcReset = false) ∧ (s.cat.descDue = some (j, d)) ∧ (s.cat.descNext = some e)) ∧
    (∃ (s : State) (o : FlashOp), (s.ops.running = some o) ∧ (s.ops.orphan = true) ∧ ((∀ w b, o ≠ .otpWord w b))) ∧
    (∃ (s : State) (w : Nat) (b : BitVec 64), (s.ops.running = some (.otpWord w b)) ∧ (s.sup.ship ≠ .writes) ∧ (s.sup.ship ≠ .record) ∧ (s.sec.lcReset = false)) ∧
    (∃ (s : State), (s.log.ready = true) ∧ (127 ≤ s.log.nextSlot)) ∧
    (∃ (s : State) (k : Fin 2) (d : BootDesc) (holdVolts : Q), (s.cat.descDue = some (k, d)) ∧ (s.ops.running = none) ∧ (startsOver s = false) ∧ (otpWaits s = false) ∧ (s.flash.boot0.isSome = true ∨ s.flash.boot1.isSome = true ∨ s.sup.step = 9 ∨ s.cat.recovery = true) ∧ (s.sup.ship ≠ .writes) ∧ (s.sup.ship ≠ .record) ∧ (s.ops.waiting.find? isBootOp = some (.bootErase k)) ∧ (holdOk s holdVolts (.bootErase k) = true)) ∧
    (∃ (s : State) (k : Fin 2) (d : BootDesc) (holdVolts : Q), (s.cat.descDue = some (k, d)) ∧ (s.ops.running = none) ∧ (startsOver s = false) ∧ (otpWaits s = false) ∧ (s.flash.boot0.isSome = true ∨ s.flash.boot1.isSome = true ∨ s.sup.step = 9 ∨ s.cat.recovery = true) ∧ (s.sup.ship ≠ .writes) ∧ (s.sup.ship ≠ .record) ∧ (s.cat.descNext = none) ∧ (s.ops.waiting.find? isBootOp = some (.bootProgram k true)) ∧ (holdOk s holdVolts (.bootProgram k true) = true)) :=
  ⟨⟨{ inMode .ready with ops := { waiting := [.otpWord 6 1], running := none, orphan := false } }, .otpWord 6 1, 12, 10, by decide +kernel⟩,
   ⟨{ inMode .ready with ops := { waiting := [.otpWord 6 1], running := none, orphan := false } }, .otpWord 6 1, 12, by decide +kernel⟩,
   ⟨{ inMode .ready with ops := { waiting := [], running := some .stageErase, orphan := false } }, .stageErase, rfl, rfl, by decide +kernel, by decide +kernel, rfl, fun _ _ => by simp, fun _ => by simp⟩,
   ⟨{ inMode .ready with ops := { waiting := [], running := some (.otpWord 6 3), orphan := false } }, 6, 3, by decide +kernel⟩,
   ⟨{ inMode .ready with ops := { (inMode .ready).ops with running := some (.bootProgram 1 true) }, cat := { (inMode .ready).cat with descDue := some (1, { gen := 1, pref := .a, stA := 4, stB := 4 }), descNext := none } }, 1, { gen := 1, pref := .a, stA := 4, stB := 4 }, by decide +kernel⟩,
   ⟨{ inMode .ready with ops := { (inMode .ready).ops with running := some (.bootProgram 1 true) }, cat := { (inMode .ready).cat with descDue := some (1, { gen := 1, pref := .a, stA := 4, stB := 4 }), descNext := some { gen := 1, pref := .a, stA := 4, stB := 4 } } }, 1, { gen := 1, pref := .a, stA := 4, stB := 4 }, { gen := 1, pref := .a, stA := 4, stB := 4 }, by decide +kernel⟩,
   ⟨{ inMode .ready with ops := { waiting := [], running := some .stageErase, orphan := true } }, .stageErase, rfl, rfl, fun _ _ h => by cases h⟩,
   ⟨{ inMode .ready with ops := { waiting := [], running := some (.otpWord 6 3), orphan := true } }, 6, 3, by decide +kernel⟩,
   ⟨{ inMode .ready with log := { State.reset.log with ready := true, nextSlot := 127 } }, by decide +kernel⟩,
   ⟨{ inMode .ready with sup := { State.reset.sup with step := 9 }, ops := { (inMode .ready).ops with waiting := [.bootErase 1] }, cat := { (inMode .ready).cat with descDue := some (1, { gen := 1, pref := .a, stA := 4, stB := 4 }), descNext := none } }, 1, { gen := 1, pref := .a, stA := 4, stB := 4 }, 30, by decide +kernel⟩,
   ⟨{ inMode .ready with sup := { State.reset.sup with step := 9 }, ops := { (inMode .ready).ops with waiting := [.bootProgram 1 true] }, cat := { (inMode .ready).cat with descDue := some (1, { gen := 1, pref := .a, stA := 4, stB := 4 }), descNext := none } }, 1, { gen := 1, pref := .a, stA := 4, stB := 4 }, 30, by decide +kernel⟩⟩

/-- The hypotheses of StagingTransfer can be met. -/
theorem witness_StagingTransfer :
    (∃ (s : State) (p : UPath) (addr size : Nat), (s.udsServed p = true) ∧ (s.udsNrc p 0x34 [2] 3 = 0) ∧ (s.svcEn 3 = true) ∧ (stageMode s = true) ∧ (stageOther s (.uds p) = false) ∧ (s.life < 3) ∧ (s.cat.stage.region = 0) ∧ (addr % 256 = 1 ∨ addr % 256 = 2) ∧ (0 < size) ∧ (size % 4096 = 0) ∧ (addr / 65536 % 65536 + size / 4096 ≤ regionBlocks (addr % 256))) ∧
    (∃ (s : State) (p : UPath) (data : List Byte), (s.udsServed p = true) ∧ (s.udsNrc p 0x36 [2] 3 = 0) ∧ (s.svcEn 3 = true) ∧ (s.cat.stage.src = .uds p) ∧ (s.cat.stage.region ≠ 0) ∧ (s.cat.stage.left ≠ 0) ∧ (s.cat.stage.block = none) ∧ (data.length = 4096) ∧ (uAt data 4092 4 = crc32 (data.take 4092))) ∧
    (∃ (s : State) (p : UPath), (s.udsServed p = true) ∧ (s.udsNrc p 0x37 [2] 3 = 0) ∧ (s.svcEn 3 = true) ∧ (s.cat.stage.src = .uds p) ∧ (s.cat.stage.region ≠ 0) ∧ (s.cat.stage.block = none)) ∧
    (∃ (s : State) (p : UPath) (k : Nat) (d : List Byte), (s.cat.stage.src = .uds p) ∧ (s.cat.stage.block = some (k, d)) ∧ (stageIdle s = true) ∧ (s.udsServed p = true)) ∧
    (∃ (s : State) (idleS : Nat), (s.cat.stage.src ≠ .none) ∧ (30 ≤ idleS) ∧ (s.sup.ship ≠ .writes) ∧ (s.sup.ship ≠ .record)) :=
  ⟨⟨udsIn .ready 2 3 [], .can1, 0x00010002, 8192, by decide +kernel⟩,
   ⟨stagingIn 2 { src := .uds .can1, region := 1, next := 3, left := 1, block := none, seq := 7, marked := false, last := 1 }, .can1, zeroBlock, by decide +kernel⟩,
   ⟨stagingIn 2 { src := .uds .can1, region := 1, next := 3, left := 1, block := none, seq := 7, marked := false, last := 1 }, .can1, by decide +kernel⟩,
   ⟨stagingIn 2 { src := .uds .can1, region := 2, next := 3, left := 1, block := some (3, []), seq := 7, marked := true, last := 2 }, .can1, 3, [], by decide +kernel⟩,
   ⟨stagingIn 2 { src := .uds .can1, region := 2, next := 3, left := 1, block := none, seq := 7, marked := true, last := 2 }, 30, by decide +kernel⟩⟩

/-- The hypotheses of LoadedStores can be met. -/
theorem witness_LoadedStores :
    (∃ (s : State) (x : AccIn) (sl : Slot) (c : Loaded), (s.sys.mode = .accession) ∧ (5 ≤ s.sup.step) ∧ (s.sup.step < 8) ∧ (s.lks.dead = false) ∧ (startCheck x.eccReads x.defects = none) ∧ ((slotOrder (newestDesc s.flash)).head? = some sl) ∧ ((trySlot s sl (fwOf x sl) (sigOf x sl) x.readFails).1 = .ok c) ∧ (sl ∉ x.loadBad)) ∧
    (∃ (s : State) (r : StoreRegion) (addr value : Nat), ((r = .code ∧ s.cat.codeLocked = true) ∨ (r ≠ .code ∧ s.cat.locked = true))) ∧
    (∃ (s : State) (addr value : Nat), (s.cat.locked = false) ∧ (0x51000000 ≤ addr) ∧ (addr < 0x51040000) ∧ (addr % 4 = 0) ∧ (s.mapOk)) ∧
    (∃ (s : State) (upset : List (Nat × Nat)) (r : List Rec × List Host.Cell), (s.cat.locked = true) ∧ ((s.lks.pairs.get .ganymede).st = 1) ∧ (r = upset.foldl (fun r u => upsetStore r.1 r.2 u) (s.cat.params, s.cat.map)) ∧ (loadedCrcs r.2 r.1 = s.cat.crcs)) ∧
    (∃ (s : State) (upset : List (Nat × Nat)) (r : List Rec × List Host.Cell), (s.cat.locked = true) ∧ ((s.lks.pairs.get .ganymede).st = 1) ∧ (r = upset.foldl (fun r u => upsetStore r.1 r.2 u) (s.cat.params, s.cat.map)) ∧ (loadedCrcs r.2 r.1 ≠ s.cat.crcs)) ∧
    (∃ (s : State) (r : StoreRegion) (addr value : Nat), ((r = .code ∧ s.cat.codeLocked = true) ∨ (r ≠ .code ∧ s.cat.locked = true)) ∧ (r = .code)) :=
  ⟨(by
      have h : (match (trySlot { State.reset with flash := plainFlash, sup := { State.reset.sup with step := 5 } } .a plainFw true []).1 with | .ok _ => true | _ => false) = true := by decide +kernel
      revert h
      cases e : (trySlot { State.reset with flash := plainFlash, sup := { State.reset.sup with step := 5 } } .a plainFw true []).1 with
      | ok c => exact fun _ => ⟨{ State.reset with flash := plainFlash, sup := { State.reset.sup with step := 5 } }, plainAcc, .a, c, by decide, by decide, by decide, by decide, plainAcc_check, by decide +kernel, e, by decide⟩
      | noFw => exact fun h => by cases h
      | noCat => exact fun h => by cases h
      | fwOnly => exact fun h => by cases h),
   ⟨inMode .ready, .map, 0x51000010, 7, by decide +kernel⟩,
   ⟨State.reset, 0x51000010, 0x01020304, by decide +kernel⟩,
   ⟨{ inMode .ready with lks := { State.reset.lks with pairs := Tab.fill pairUp }, cat := { (inMode .ready).cat with crcs := [crc32 recAll.data] } }, [], _, by decide +kernel, by decide +kernel, rfl, by decide +kernel⟩,
   ⟨{ inMode .ready with lks := { State.reset.lks with pairs := Tab.fill pairUp }, cat := { (inMode .ready).cat with crcs := [crc32 recAll.data] } }, [(0, 3)], _, by decide +kernel, by decide +kernel, rfl, by decide +kernel⟩,
   ⟨{ inMode .ready with cat := { (inMode .ready).cat with codeLocked := true } }, .code, 0x51000010, 7, by decide +kernel⟩⟩

/-- The hypotheses of StagingRoutines can be met. -/
theorem witness_StagingRoutines :
    (∃ (s : State) (p : UPath) (fw : FwFacts) (sigOk : Bool) (readFails : List ReadFail) (c : Loaded), (s.udsServed p = true) ∧ (s.routineNrc p 0xF100 = 0) ∧ (stageRoutineOk (.uds p) 0xF100 s = true) ∧ (s.sup.ship ≠ .writes) ∧ (s.sup.ship ≠ .record) ∧ ((trySlot s s.cat.slotRun.other fw sigOk readFails).1 = .ok c)) ∧
    (∃ (s : State) (p : UPath), (s.udsServed p = true) ∧ (s.routineNrc p 0xF101 = 0) ∧ (stageRoutineOk (.uds p) 0xF101 s = true)) ∧
    (∃ (s : State) (p : UPath), (s.udsServed p = true) ∧ (s.routineNrc p 0xF102 = 0) ∧ (stageRoutineOk (.uds p) 0xF102 s = true)) ∧
    (∃ (s : State) (p : UPath), (s.udsServed p = true) ∧ (s.routineNrc p 0xF103 = 0) ∧ (stageRoutineOk (.uds p) 0xF103 s = true)) ∧
    (∃ (s : State) (v : Q) (holdVolts : List Q) (entropyOk : Bool), (s.cat.locked = true) ∧ (s.sys.mode = .ready ∨ s.sys.mode = .convert ∨ s.sys.mode = .drive ∨ s.sys.mode = .charge ∨ s.sys.mode = .safe) ∧ (slotInForce s s.cat.slotRun = 4) ∧ (s.ops.running = none) ∧ (s.sup.step = 9) ∧ (otpWaits s = false) ∧ (startsOver s = false) ∧ (holdOk s v (.otpWord 6 1) = true) ∧ (s.life ≠ 0) ∧ (slotArb s = s.arbCount + 1) ∧ (s.pu 0xC0 0 64 = 0) ∧ (s.pu 0xC0 0 68 = 0)) ∧
    (∃ (s : State) (v : Q) (holdVolts : List Q) (entropyOk : Bool), (s.cat.locked = true) ∧ (s.sys.mode = .ready ∨ s.sys.mode = .convert ∨ s.sys.mode = .drive ∨ s.sys.mode = .charge ∨ s.sys.mode = .safe) ∧ (slotInForce s s.cat.slotRun = 4) ∧ (s.ops.running = none) ∧ (s.sup.step = 9) ∧ (otpWaits s = false) ∧ (startsOver s = false) ∧ (holdOk s v (.otpWord 6 1) = true) ∧ (s.life ≠ 0) ∧ (slotArb s ≤ s.arbCount) ∧ (s.pu 0xC0 0 64 = 1) ∧ (s.pu 0xC0 0 68 = 0) ∧ (s.revoked 0 = false)) :=
  ⟨(by
      have h : (match (trySlot ({ udsIn .ready 2 3 [] with flash := plainFlash, cat := { (udsIn .ready 2 3 []).cat with desc := some { gen := 1, pref := .a, stA := 4, stB := 1 } } }) .b plainFw true []).1 with | .ok _ => true | _ => false) = true := by decide +kernel
      revert h
      cases e : (trySlot ({ udsIn .ready 2 3 [] with flash := plainFlash, cat := { (udsIn .ready 2 3 []).cat with desc := some { gen := 1, pref := .a, stA := 4, stB := 1 } } }) .b plainFw true []).1 with
      | ok c => exact fun _ => ⟨_, .can1, plainFw, true, [], c, by decide +kernel, by decide +kernel, by decide +kernel, by decide +kernel, by decide +kernel, e⟩
      | noFw => exact fun h => by cases h
      | noCat => exact fun h => by cases h
      | fwOnly => exact fun h => by cases h),
   ⟨{ udsIn .ready 2 3 [] with cat := { (udsIn .ready 2 3 []).cat with desc := some { gen := 1, pref := .a, stA := 4, stB := 2 } } }, .can1, by decide +kernel⟩,
   ⟨{ udsIn .ready 2 3 [] with cat := { (udsIn .ready 2 3 []).cat with desc := some { gen := 1, pref := .a, stA := 3, stB := 4 }, result := 1 } }, .can1, by decide +kernel⟩,
   ⟨{ udsIn .ready 2 3 [] with cat := { (udsIn .ready 2 3 []).cat with desc := some { gen := 1, pref := .a, stA := 3, stB := 4 }, result := 1 } }, .can1, by decide +kernel⟩,
   ⟨{ inMode .ready with sup := { State.reset.sup with step := 9 }, otp := Tab.put (Tab.fill 0) 5 0xFF, cat := { (inMode .ready).cat with desc := some { gen := 1, pref := .a, stA := 4, stB := 4 }, arb := 1 } }, 12, [12], true, by decide +kernel⟩,
   ⟨{ withRecs [recFix 0xC0 0 256 [(64, 1)]] with sup := { State.reset.sup with step := 9 }, sys := { State.reset.sys with mode := .ready }, otp := Tab.put (Tab.fill 0) 5 0xFF, cat := { (withRecs [recFix 0xC0 0 256 [(64, 1)]]).cat with desc := some { gen := 1, pref := .a, stA := 4, stB := 4 } } }, 12, [12], true, by decide +kernel⟩⟩

/-- The hypotheses of MeridianCalibration can be met. -/
theorem witness_MeridianCalibration :
    (∃ (s : State) (counts : List Nat), (s.xtalOk = true) ∧ (s.mer.firstCal = true) ∧ (counts.length = 16) ∧ ((∀ c ∈ counts, 300 ≤ c ∧ c ≤ 480))) ∧
    (∃ (s : State) (counts : List Nat) (c : Nat), (s.xtalOk = true) ∧ (c ∈ counts) ∧ (c < 300 ∨ 480 < c)) ∧
    (∃ (s : State) (counts : List Nat), (s.xtalOk = true) ∧ (s.mer.firstCal = false) ∧ (counts.length = 16) ∧ ((∀ c ∈ counts, 300 ≤ c ∧ c ≤ 480)) ∧ (s.sup.step = 4)) ∧
    (∃ (s : State) (tick ne : Nat) (codes : List Nat), (s.mer.shadow = some (codes, ne)) ∧ (s.xtalOk = true) ∧ (2000 ≤ tick) ∧ (tick < 4000)) ∧
    (∃ (s : State), (s.xtalOk = true) ∧ (s.mer.missRun ≠ 19) ∧ (¬(s.mer.discarded = true ∧ s.mer.discRun = 2))) ∧
    (∃ (s : State), (s.xtalOk = true) ∧ (s.mer.missRun = 19 ∨ (s.mer.discarded = true ∧ s.mer.discRun = 2))) ∧
    (∃ (s : State) (edges : Nat), (s.xtalOk = true) ∧ (edges < 70 ∨ 90 < edges)) :=
  ⟨⟨{ inMode .ready with mer := { State.reset.mer with xtalAcc := true, firstCal := true } }, List.replicate 16 400, by decide +kernel⟩,
   ⟨{ inMode .ready with mer := { State.reset.mer with xtalAcc := true, firstCal := true } }, [299], 299, by decide +kernel⟩,
   ⟨{ inMode .accession with mer := { State.reset.mer with xtalAcc := true, firstCal := false }, sup := { State.reset.sup with step := 4 } }, List.replicate 16 400, by decide +kernel⟩,
   ⟨{ inMode .ready with mer := { State.reset.mer with xtalAcc := true, shadow := some ([1], 2) } }, 2000, 2, [1], by decide +kernel⟩,
   ⟨{ inMode .ready with mer := { State.reset.mer with xtalAcc := true, missRun := 3 } }, by decide +kernel⟩,
   ⟨{ inMode .ready with mer := { State.reset.mer with xtalAcc := true, missRun := 19, discarded := true, discRun := 2 } }, by decide +kernel⟩,
   ⟨{ inMode .ready with mer := { State.reset.mer with xtalAcc := true } }, 69, by decide +kernel⟩⟩

/-- The hypotheses of PwmGroups can be met. -/
theorem witness_PwmGroups :
    (∃ (s : State) (g : Grp) (aux : Q), ((s.pwm.get g).running = true) ∧ (s.trimPending g = false) ∧ ((s.pwm.get g).preLeft = 0) ∧ (g ≠ 2 ∧ g ≠ 8 ∧ g ≠ 9) ∧ (s.pu 0x20 g 0 = 0) ∧ ((s.pwm.get g).rising = true ∨ (s.pu 0x20 g 40 = 0 ∧ (s.pwm.get g).reqPeriod = none))) ∧
    (∃ (s : State) (g : Grp) (aux : Q), ((s.pwm.get g).running = true) ∧ (s.trimPending g = false) ∧ ((s.pwm.get g).preLeft = 0) ∧ (g ≠ 2 ∧ g ≠ 8 ∧ g ≠ 9) ∧ (s.pu 0x20 g 0 = 1) ∧ (s.pu 0x20 g 40 = 0) ∧ ((s.pwm.get g).reqPeriod = none)) ∧
    (∃ (s : State) (g : Grp) (aux : Q), ((s.pwm.get g).running = true) ∧ (s.trimPending g = false) ∧ ((s.pwm.get g).preLeft = 0) ∧ (g ≠ 2 ∧ g ≠ 8 ∧ g ≠ 9) ∧ (s.pu 0x20 g 0 = 2) ∧ (s.pu 0x20 g 40 = 0) ∧ ((s.pwm.get g).reqPeriod = none)) ∧
    (∃ (s : State) (g : Grp) (bootstrap : List (Chan × Q)), (s.grpPresent g = true) ∧ ((s.pwm.get g).running = false) ∧ (s.pu 0x20 g 40 ≠ 1) ∧ (s.grpMayStart g = true)) ∧
    (∃ (s : State) (g : Grp), (g ≠ 3) ∧ (g ≠ 4)) ∧
    (∃ (s : State) (g : Grp), (g = 3 ∨ g = 4)) ∧
    (∃ (s : State) (g : Grp) (requestNs startNs : Q) (bootstrap : List (Chan × Q)), (s.grpPresent g = true) ∧ ((s.pwm.get g).running = false) ∧ (s.pu 0x20 g 40 = 1) ∧ (s.grpMayStart g = true) ∧ (s.fabLocked = true) ∧ (isAnchorInstant g startNs s = true) ∧ (requestNs + (s.pu 0x20 g 12 : Q) * 25 / 256 ≤ startNs) ∧ (startNs < requestNs + 2 * ((s.pu 0x20 g 12 : Q) * 25 / 256))) ∧
    (∃ (s : State) (g : Grp) (aux : Q), ((s.pwm.get g).running = true) ∧ (s.trimPending g = false) ∧ ((s.pwm.get g).preLeft = 0) ∧ (g ≠ 2 ∧ g ≠ 8 ∧ g ≠ 9) ∧ (s.pu 0x20 g 0 = 0) ∧ ((s.pwm.get g).rising = true ∨ (s.pu 0x20 g 40 = 0 ∧ (s.pwm.get g).reqPeriod = none)) ∧ (s.saf.ovHold = false) ∧ (grpSet g = some .a)) ∧
    (∃ (s : State) (g : Grp) (aux : Q), ((s.pwm.get g).running = true) ∧ (s.trimPending g = false) ∧ ((s.pwm.get g).preLeft = 0) ∧ (g ≠ 2 ∧ g ≠ 8 ∧ g ≠ 9) ∧ (s.pu 0x20 g 0 = 0) ∧ ((s.pwm.get g).rising = true ∨ (s.pu 0x20 g 40 = 0 ∧ (s.pwm.get g).reqPeriod = none)) ∧ (s.saf.ovHold = true)) ∧
    (∃ (s : State) (g : Grp), (g = 3 ∨ g = 4) ∧ ((s.pwm.get g).running = true)) ∧
    (∃ (s : State) (g : Grp), (g ≠ 3) ∧ (g ≠ 4) ∧ ((∃ x, grpSet g = some x ∧ (s.ss.get x).st < 2))) ∧
    (∃ (s : State) (g : Grp), (g ≠ 3) ∧ (g ≠ 4) ∧ ((∃ x, grpSet g = some x ∧ 2 ≤ (s.ss.get x).st))) :=
  ⟨⟨switching (live .drive []), 0, 0, by decide +kernel⟩,
   ⟨{ withRecs [recFix 0x20 3 64 [(0, 1)]] with pwm := Tab.put State.reset.pwm 3 { State.reset.pwm.get 3 with running := true } }, 3, 0, by decide +kernel⟩,
   ⟨{ withRecs [recFix 0x20 4 64 [(0, 2)]] with pwm := Tab.put State.reset.pwm 4 { State.reset.pwm.get 4 with running := true } }, 4, 0, by decide +kernel⟩,
   ⟨{ live .drive [] with tm := { State.reset.tm with startA := true }, pos := State.reset.pos.upd 0 (fun p => { p with valid := true }) }, 0, [(1, 3)], by decide +kernel⟩,
   ⟨State.reset, 8, by decide +kernel⟩,
   ⟨State.reset, 3, by decide +kernel⟩,
   ⟨{ live .drive [recFix 0x20 0 64 [(12, 1024), (40, 1)]] with pos := State.reset.pos.upd 0 (fun p => { p with valid := true }), tm := { State.reset.tm with startA := true }, fab := { State.reset.fab with lock := true } }, 0, 0, 100, [], by decide +kernel⟩,
   ⟨switching (live .drive []), 0, 0, by decide +kernel⟩,
   ⟨{ switching (live .drive []) with saf := { (live .drive []).saf with ovHold := true } }, 0, 0, by decide +kernel⟩,
   ⟨{ State.reset with pwm := Tab.put State.reset.pwm 3 { State.reset.pwm.get 3 with running := true } }, 3, by decide +kernel⟩,
   ⟨State.reset, 0, by decide, by decide, .a, by decide +kernel⟩,
   ⟨{ State.reset with ss := Tab.put State.reset.ss .a { State.reset.ss.get .a with st := 3 } }, 0, by decide, by decide, .a, by decide +kernel⟩⟩

/-- The hypotheses of OrrerySamples can be met. -/
theorem witness_OrrerySamples :
    (∃ (s : State) (x : TSet) (tr : Trig) (u v w z : Int) (o : OrrSet), (trigFires s x.grp tr = true) ∧ (s.pu 0x30 x.num 8 = 0) ∧ ((s.orr.get x).trimLeft = 0) ∧ (o = { s.orr.get x with iu := sat24 (roundQ ((u : Q) / 32768 * s.pf 0x30 x.num 28 * 2 ^ 23) - (s.orr.get x).ofsU), iv := sat24 (roundQ ((v : Q) / 32768 * s.pf 0x30 x.num 32 * 2 ^ 23) - (s.orr.get x).ofsV), iw := sat24 (roundQ ((w : Q) / 32768 * s.pf 0x30 x.num 36 * 2 ^ 23) - (s.orr.get x).ofsW), ix := sat24 ((if s.pu 0x30 x.num 16 = 1 then roundQ ((z : Q) / 32768 * s.pf 0x30 x.num 40 * 2 ^ 23) else 0) - (s.orr.get x).ofsX), sumRun := 0 }) ∧ (absQ (codeA s x o.iu) ≤ s.pf 0x30 x.num 48) ∧ (absQ (codeA s x o.iv) ≤ s.pf 0x30 x.num 48) ∧ (absQ (codeA s x o.iw) ≤ s.pf 0x30 x.num 48) ∧ (absQ (codeA s x o.iu + codeA s x o.iv + codeA s x o.iw) ≤ s.pf 0x30 x.num 116)) ∧
    (∃ (s : State) (x : TSet) (tr : Trig) (u v w z : Int), (trigFires s x.grp tr = true) ∧ (s.pu 0x30 x.num 8 = 0) ∧ (s.pf 0x30 x.num 48 < absQ (codeA s x (sat24 (roundQ ((u : Q) / 32768 * s.pf 0x30 x.num 28 * 2 ^ 23) - (s.orr.get x).ofsU))))) ∧
    (∃ (s : State) (x : TSet) (tr : Trig) (u v w z : Int) (o : OrrSet) (n : Nat), (trigFires s x.grp tr = true) ∧ (s.pu 0x30 x.num 8 = 0) ∧ (s.pu 0x30 x.num 16 = 0) ∧ ((s.orr.get x).trimLeft = n + 2) ∧ (o = { s.orr.get x with iu := sat24 (roundQ ((u : Q) / 32768 * s.pf 0x30 x.num 28 * 2 ^ 23) - (s.orr.get x).ofsU), iv := sat24 (roundQ ((v : Q) / 32768 * s.pf 0x30 x.num 32 * 2 ^ 23) - (s.orr.get x).ofsV), iw := sat24 (roundQ ((w : Q) / 32768 * s.pf 0x30 x.num 36 * 2 ^ 23) - (s.orr.get x).ofsW), ix := sat24 (0 - (s.orr.get x).ofsX), sumRun := 0 }) ∧ (absQ (codeA s x o.iu) ≤ s.pf 0x30 x.num 48) ∧ (absQ (codeA s x o.iv) ≤ s.pf 0x30 x.num 48) ∧ (absQ (codeA s x o.iw) ≤ s.pf 0x30 x.num 48) ∧ (absQ (codeA s x o.iu + codeA s x o.iv + codeA s x o.iw) ≤ s.pf 0x30 x.num 116)) ∧
    (∃ (s : State) (sdd : Fin 8) (bits : List Bool) (value : Q), ((s.sdcDiv (sddClock sdd.val)).isSome = true) ∧ (sincOut 2 16 bits = some value) ∧ (s.fn 3 = false) ∧ (sddServes s .b sdd 1 = true) ∧ (s.pf 0x30 1 48 < absQ (codeA s .b (sat24 (roundQ (value * s.pf 0x30 1 32 * 2 ^ 23) - (s.orr.get .b).ofsV)))) ∧ (sddServes s .a sdd 0 = false ∧ sddServes s .a sdd 1 = false ∧ sddServes s .a sdd 2 = false)) ∧
    (∃ (s : State) (sdd : Fin 8) (bits : List Bool) (value : Q), ((s.sdcDiv (sddClock sdd.val)).isSome = true) ∧ (sincOut 2 16 bits = some value) ∧ ((∀ ch < 3, sddServes s .a sdd ch = false ∧ sddServes s .b sdd ch = false)) ∧ (s.fn 3 = true) ∧ (s.pb 0x50 1 1 1 = sdd.val) ∧ (chargerOn s = false)) ∧
    (∃ (s : State) (x : TSet) (tr : Trig) (u v w z : Int), ((s.pu 0x20 x.grp 36).testBit (match tr with | .valley => 0 | .peak => 1) = false)) :=
  ⟨⟨switching (live .drive [recFix 0x20 0 64 [(36, 3)]]), .a, .valley, 1, 2, 3, 4, _, by decide +kernel, by decide +kernel, by decide +kernel, rfl, by decide +kernel, by decide +kernel, by decide +kernel, by decide +kernel⟩,
   ⟨switching (live .drive [recFix 0x20 0 64 [(36, 3)], recFix 0x30 0 156 [(24, 0x3F800000), (28, 0x3F800000)]]), .a, .peak, 1, 2, 3, 4, by decide +kernel⟩,
   ⟨{ switching (live .drive [recFix 0x20 0 64 [(36, 3)]]) with orr := State.reset.orr.upd .a (fun o => { o with running := true, trimLeft := 64 }) }, .a, .valley, 1, 2, 3, 4, _, 62, by decide +kernel, by decide +kernel, by decide +kernel, by decide +kernel, rfl, by decide +kernel, by decide +kernel, by decide +kernel, by decide +kernel⟩,
   ⟨withRecs [recFix 1 0 16 [(8, 3)], recFix 0x20 0 64 [(52, 1), (56, 2)], recFix 0x30 1 156 [(8, 1), (12, 0x020100), (24, 0x3F800000), (32, 0x3F800000)], recFix 0x30 0 156 []], 1, List.replicate 31 true, 1, by decide +kernel⟩,
   ⟨withRecs [recFix 1 0 16 [(8, 8)], recFix 0x20 3 64 [(52, 1), (56, 2)], recFix 0x50 1 80 [(0, 0x100)]], 1, List.replicate 31 true, 1, by decide +kernel⟩,
   ⟨switching (live .drive []), .a, .valley, 1, 2, 3, 4, by decide +kernel⟩⟩

/-- The hypotheses of OrreryUpdate can be met. -/
theorem witness_OrreryUpdate :
    (∃ (s u : State) (x : TSet) (dt v : Q) (sd : List SdWindow), (u = (if s.pu 0x30 x.num 8 = 1 then takeSd x sd s else s)) ∧ ((s.orr.get x).running = true) ∧ ((u.orr.get x).trimLeft = 0) ∧ (s.dc.stale1 = false) ∧ ((s.pu 0x30 x.num 92).testBit 4 = false) ∧ (aboveTwoPi (absQ (setAngle s x dt).2) (s.pf 0x30 x.num 136) = false)) ∧
    (∃ (s : State) (x : TSet), ((s.orr.get x).running = true) ∧ ((s.oview.get x).lateRun ≠ 2)) ∧
    (∃ (s : State) (x : TSet), ((s.orr.get x).running = true) ∧ ((s.oview.get x).lateRun = 2)) ∧
    (∃ (s : State) (x : TSet) (dt : Q) (v : Option Q), ((s.orr.get x).running = true) ∧ ((s.orr.get x).trimLeft = 0) ∧ (s.pu 0x30 x.num 8 = 0) ∧ (s.dc.stale1 = true ∨ v = none) ∧ ((s.octl.get x).staleRun = 2)) :=
  ⟨⟨{ live .drive [] with orr := State.reset.orr.upd .a (fun o => { o with running := true }) }, _, .a, 0, 400, [], rfl, by decide +kernel, by decide +kernel, by decide +kernel, by decide +kernel, by decide +kernel⟩,
   ⟨{ live .drive [] with orr := State.reset.orr.upd .a (fun o => { o with running := true }) }, .a, by decide +kernel⟩,
   ⟨{ live .drive [] with orr := State.reset.orr.upd .a (fun o => { o with running := true }), oview := State.reset.oview.upd .a (fun o => { o with lateRun := 2 }) }, .a, by decide +kernel⟩,
   ⟨{ live .drive [] with orr := State.reset.orr.upd .a (fun o => { o with running := true }), octl := State.reset.octl.upd .a (fun o => { o with staleRun := 2 }) }, .a, 0, none, by decide +kernel⟩⟩

/-- The hypotheses of SafeStateInputs can be met. -/
theorem witness_SafeStateInputs :
    (∃ (s : State) (volts : Q), (chargerOn s = false)) ∧
    (∃ (s : State) (ns : Nat), (2000 ≤ ns)) ∧
    (∃ (s : State) (heldUs : Nat), (s.hasRec 0x38 0 = true) ∧ (1000 ≤ heldUs) ∧ (s.pf 0x38 0 120 < absQ (s.dc.dclT - s.dc.dclC))) ∧
    (∃ (s : State) (volts : Q), (s.saf.cust.ov ≠ []) ∧ (s.cuOv 0 < volts)) ∧
    (∃ (s : State) (voltsT voltsC : Q), (s.saf.ovHold = true) ∧ (voltsT ≤ s.cuOv 0 - s.cuOv 4) ∧ (voltsC ≤ s.cuOv 0 - s.cuOv 4)) ∧
    (∃ (s : State) (d : Die) (volts : Q), (chargerOn s = true) ∧ (s.pf 0x50 1 56 < volts)) ∧
    (∃ (s : State) (volts : Q), (s.saf.cust.ov ≠ []) ∧ (s.cuOv 0 < volts) ∧ (s.sup.biasA = true) ∧ (ioHalted s = false) ∧ (s.fn 1 = true) ∧ (s.sideFlagged TSet.a.lows = false)) :=
  ⟨⟨inMode .ready, 400, by decide +kernel⟩,
   ⟨inMode .ready, 2000, by decide +kernel⟩,
   ⟨{ inMode .drive with cat := { (withRecs [recAll, recFix 0x38 0 132 []]).cat with locked := true }, dc := { State.reset.dc with dclT := 400 } }, 1000, by decide +kernel⟩,
   ⟨loadCust { inMode .drive with cat := { (withRecs [recAll, recFix 0x38 0 132 []]).cat with locked := true } }, 900, by decide +kernel⟩,
   ⟨loadCust { withRecs [recAll, recFix 0x38 0 132 [(112, 0x44480000)]] with saf := { State.reset.saf with ovHold := true } }, 700, 700, by decide +kernel⟩,
   ⟨{ live .charge [] with dab := { State.reset.dab with st := 2 } }, .two, 900, by decide +kernel⟩,
   ⟨loadCust { live .drive [recFix 0x38 0 132 []] with sup := { State.reset.sup with biasA := true } }, 900, by decide +kernel⟩⟩

/-- The hypotheses of SafeStateChoice can be met. -/
theorem witness_SafeStateChoice :
    (∃ (s : State) (x : TSet), (s.fn x.num = true) ∧ ((s.ss.get x).st = 0)) ∧
    (∃ (s : State) (x : TSet), (s.fn x.num = true) ∧ ((s.ss.get x).st ≠ 0)) ∧
    (∃ (s : State) (x : TSet) (sinceUs : Q) (samples : List (Q × Q × Q)), ((s.ss.get x).window = true) ∧ (s.cuOv 8 * 1000000 ≤ sinceUs) ∧ (s.saf.ovHold = false) ∧ (meanQ (samples.map eLl) < 9 / 10 * s.vMax) ∧ (choiceDisagrees s x false = false)) ∧
    (∃ (s : State) (x : TSet) (sinceUs : Q) (samples : List (Q × Q × Q)), ((s.ss.get x).window = true) ∧ (s.cuOv 8 * 1000000 ≤ sinceUs) ∧ (9 / 10 * s.vMax ≤ meanQ (samples.map eLl)) ∧ (choiceDisagrees s x true = false) ∧ (s.sideFlagged x.lows = false) ∧ (s.sup.biasA = true)) ∧
    (∃ (s : State) (x : TSet) (sinceUs : Q) (samples : List (Q × Q × Q)), ((s.ss.get x).window = true) ∧ (s.cuOv 8 * 1000000 ≤ sinceUs) ∧ (s.saf.ovHold = false) ∧ (meanQ (samples.map eLl) < 9 / 10 * s.vMax) ∧ (choiceDisagrees s x false = true)) ∧
    (∃ (s : State) (x : TSet) (c : Chan), ((s.ss.get x).st = 2) ∧ (c ∈ x.lows) ∧ ((s.gd.ch.get c).latched = true) ∧ (s.sideFlagged x.highs = false)) ∧
    (∃ (s : State) (x : TSet) (c : Chan), ((s.ss.get x).st = 3) ∧ (c ∈ x.highs) ∧ ((s.gd.ch.get c).latched = true)) ∧
    (∃ (s : State) (x : TSet), (2 ≤ (s.ss.get x).st) ∧ ((s.ss.get x).window = false) ∧ (s.saf.ovHold = false) ∧ (s.posValid (s.setIfc x) = false)) ∧
    (∃ (s : State) (x : TSet) (sinceUs : Q) (samples : List (Q × Q × Q)), ((s.ss.get x).window = true) ∧ (s.cuOv 8 * 1000000 ≤ sinceUs) ∧ (s.saf.ovHold = true ∨ 9 / 10 * s.vMax ≤ meanQ (samples.map eLl)) ∧ (choiceDisagrees s x true = false) ∧ (s.sup.biasA = false)) ∧
    (∃ (s : State) (x : TSet) (sinceUs : Q) (samples : List (Q × Q × Q)), ((s.ss.get x).window = false ∨ sinceUs < s.cuOv 8 * 1000000)) ∧
    (∃ (s : State) (x : TSet) (sinceUs : Q) (samples : List (Q × Q × Q)), ((s.ss.get x).window = false ∨ sinceUs < s.cuOv 8 * 1000000) ∧ (sinceUs < s.cuOv 8 * 1000000)) :=
  ⟨⟨inMode .drive, .b, by decide +kernel⟩,
   ⟨{ inMode .drive with ss := State.reset.ss.upd .b (fun x => { x with st := 1 }) }, .b, by decide +kernel⟩,
   ⟨{ inMode .drive with ss := Tab.put State.reset.ss .a { State.reset.ss.get .a with window := true }, dc := { State.reset.dc with dclT := 400 } }, .a, 0, [], by decide +kernel⟩,
   ⟨{ inMode .drive with ss := Tab.put State.reset.ss .a { State.reset.ss.get .a with window := true }, sup := { State.reset.sup with biasA := true } }, .a, 0, [], by decide +kernel⟩,
   ⟨{ live .drive [recFix 0x30 0 156 [(64, 0x3F800000)]] with ss := Tab.put State.reset.ss .a { State.reset.ss.get .a with window := true }, dc := { State.reset.dc with dclT := 1, dclC := 1 }, pos := Tab.put State.reset.pos 0 { State.reset.pos.get 0 with valid := true, speed := 1 } }, .a, 0, [], by decide +kernel⟩,
   ⟨{ inMode .drive with ss := Tab.put State.reset.ss .a { State.reset.ss.get .a with st := 2 }, gd := { State.reset.gd with ch := Tab.put State.reset.gd.ch 1 { State.reset.gd.ch.get 1 with rb := true } } }, .a, 1, by decide +kernel⟩,
   ⟨{ inMode .drive with ss := Tab.put State.reset.ss .a { State.reset.ss.get .a with st := 3 }, gd := { State.reset.gd with ch := Tab.put State.reset.gd.ch 0 { State.reset.gd.ch.get 0 with rb := true } } }, .a, 0, by decide +kernel⟩,
   ⟨{ inMode .drive with ss := Tab.put State.reset.ss .a { State.reset.ss.get .a with st := 2 } }, .a, by decide +kernel⟩,
   ⟨{ inMode .drive with ss := Tab.put State.reset.ss .a { State.reset.ss.get .a with window := true } }, .a, 0, [], by decide +kernel⟩,
   ⟨State.reset, .a, 0, [], by decide +kernel⟩,
   ⟨{ loadCust (live .drive [recFix 0x38 0 132 [(124, 0x3F800000)]]) with ss := Tab.put State.reset.ss .a { State.reset.ss.get .a with window := true } }, .a, 0, [], by decide +kernel⟩⟩

/-- The hypotheses of TorqueTask can be met. -/
theorem witness_TorqueTask :
    (∃ (s : State), (pairRunning s .io = true) ∧ (pairOn s = false) ∧ (s.sys.mode ≠ .drive) ∧ (s.tm.svc = none) ∧ ((∀ x : TSet, s.fn x.num = true → absQ (s.omegaM x) ≤ s.pf 0x38 0 48))) ∧
    (∃ (s : State) (o : TorqueOut), (pairRunning s .io = true) ∧ (pairOn s = false) ∧ (s.sys.mode = .drive) ∧ (s.hasRec 0x38 0 = true) ∧ ((s.pwm.get 0).running = true) ∧ ((s.pwm.get 1).running = true) ∧ ((∀ x : TSet, s.fn x.num = true → absQ (s.omegaM x) ≤ s.pf 0x38 0 48)) ∧ (s.tm.svc = none) ∧ (o = torqueSteps s (switches s .a) (if s.pu 0x30 0 0 = 2 then switches s .a else switches s .b))) ∧
    (∃ (s : State) (x : TSet), (pairRunning s .io = true) ∧ (pairOn s = false) ∧ (s.tm.svc = none) ∧ (s.fn x.num = true) ∧ (s.pf 0x38 0 48 < absQ (s.omegaM x))) ∧
    (∃ (s : State) (x : TSet), (pairRunning s .io = true) ∧ (pairOn s = false) ∧ (s.sys.mode = .drive) ∧ (s.hasRec 0x38 0 = true) ∧ (s.tm.svc = none) ∧ ((∀ y : TSet, s.fn y.num = true → absQ (s.omegaM y) ≤ s.pf 0x38 0 48)) ∧ (s.fn x.num = true) ∧ ((s.pwm.get x.grp).running = false) ∧ (s.pf 0x38 0 80 ≤ absQ (takenRequest s).1) ∧ (s.saf.ovHold = false) ∧ (s.idleStopped x = true ∨ (s.tractionBlocked = false ∧ s.posValid (s.setIfc x) = true)) ∧ (s.setPermit x = true)) ∧
    (∃ (s : State) (sinceMs : Nat), (s.tm.lostMs.isSome = true) ∧ ((s.tm.tA = 0 ∧ s.tm.tB = 0) ∨ 500 ≤ sinceMs)) ∧
    (∃ (s : State), (s.tm.missRun < 4)) ∧
    (∃ (s : State), (4 ≤ s.tm.missRun)) ∧
    (∃ (s : State) (x : TSet) (heldMs : Nat), ((s.pwm.get x.grp).running = true) ∧ (s.pf 0x38 0 84 * 1000 ≤ heldMs) ∧ (absQ (s.omegaM x) < s.pf 3 0 8) ∧ (absQ (takenRequest s).1 < s.pf 0x38 0 80) ∧ (s.tm.reqValid = false ∨ s.tm.hold = false) ∧ (s.tm.svc = none)) ∧
    (∃ (s : State) (p : UPath) (x : TSet) (angle : Nat), (s.tm.svc = none) ∧ (svcAllowed s = true) ∧ (s.routineNrc p 0xF200 = 0) ∧ ((s.pwm.get x.grp).running = true) ∧ (s.udsServed p = true)) ∧
    (∃ (s : State) (p : UPath) (x : TSet) (elapsedMs angle : Nat), (s.tm.svc = some (0xF200, x)) ∧ (svcAllowed s = true) ∧ (600 ≤ elapsedMs)) ∧
    (∃ (s : State) (p : UPath) (x : TSet) (vd id : Q), (s.tm.svc = some (0xF201, x)) ∧ (svcAllowed s = true)) ∧
    (∃ (s : State) (p : UPath) (x : TSet) (elapsedMs : Nat) (vd id : Q), (s.tm.svc = some (0xF201, x)) ∧ (svcAllowed s = false)) ∧
    (∃ (s : State) (sinceMs : Nat), (s.sys.mode = .drive) ∧ (s.tm.lostMs.isSome = true) ∧ ((s.tm.tA = 0 ∧ s.tm.tB = 0) ∨ 500 ≤ sinceMs)) :=
  ⟨⟨{ live .ready [] with cat := { (withRecs []).cat with locked := true } }, by decide +kernel, by decide +kernel, by decide +kernel, by decide +kernel, fun x => by cases x <;> decide +kernel⟩,
   ⟨switching (live .drive [recFix 0x38 0 132 []]), _, by decide +kernel, by decide +kernel, by decide +kernel, by decide +kernel, by decide +kernel, by decide +kernel, fun x => by cases x <;> decide +kernel, by decide +kernel, rfl⟩,
   ⟨live .ready [recFix 0x38 0 132 [(48, 0xBF800000)]], .a, by decide +kernel⟩,
   ⟨{ live .drive [recFix 0x38 0 132 []] with pos := State.reset.pos.upd 0 (fun p => { p with valid := true }) }, .a, by decide +kernel, by decide +kernel, by decide +kernel, by decide +kernel, by decide +kernel, fun x => by cases x <;> decide +kernel, by decide +kernel, by decide +kernel, by decide +kernel, by decide +kernel, by decide +kernel, by decide +kernel⟩,
   ⟨{ inMode .drive with tm := { State.reset.tm with lostMs := some 3 } }, 0, by decide +kernel⟩,
   ⟨inMode .drive, by decide +kernel⟩,
   ⟨{ inMode .drive with tm := { State.reset.tm with missRun := 4 } }, by decide +kernel⟩,
   ⟨{ live .drive [recFix 3 0 16 [(8, 0x3F800000)], recFix 0x38 0 132 [(80, 0x3F800000)]] with pwm := State.reset.pwm.upd 1 (fun g => { g with running := true }) }, .b, 10, by decide +kernel⟩,
   ⟨switching (parked (udsIn .drive 3 1 svcRecs)), .can1, .a, 0, by decide +kernel⟩,
   ⟨{ parked (udsIn .drive 3 1 svcRecs) with tm := { State.reset.tm with svc := some (0xF200, .a) } }, .can1, .a, 600, 0, by decide +kernel⟩,
   ⟨{ parked (udsIn .drive 3 1 svcRecs) with tm := { State.reset.tm with svc := some (0xF201, .a) } }, .can1, .a, 1, 1, by decide +kernel⟩,
   ⟨{ udsIn .ready 3 1 svcRecs with tm := { State.reset.tm with svc := some (0xF201, .a) } }, .can1, .a, 5, 1, 1, by decide +kernel⟩,
   ⟨{ inMode .drive with tm := { State.reset.tm with lostMs := some 3 } }, 0, by decide +kernel⟩⟩

/-- The hypotheses of Resolvers can be met. -/
theorem witness_Resolvers :
    (∃ (s : State) (i : Ifc) (at270 : Bool) (sQuad cQuad sEnv cEnv s1 c1 a eps : Q) (r : ResSt), (i.val < 2) ∧ (s.hasRec 0x40 i = true) ∧ (s.cat.locked = true) ∧ (r = (if at270 then { s.res.get i with s180 := sQuad, c180 := cQuad, s270 := sEnv, c270 := cEnv } else { s.res.get i with s0 := sQuad, c0 := cQuad, s90 := sEnv, c90 := cEnv })) ∧ (s1 = divQ ((r.s90 - r.s270) / 2 - r.os) (1 + r.k)) ∧ (c1 = divQ ((r.c90 - r.c270) / 2 - r.oc + s1 * sinRad r.phi) (cosRad r.phi)) ∧ (a = sqrtQ (s1 * s1 + c1 * c1)) ∧ (eps = (if active 0x2001 i.val s = true then 0 else divQ (s1 * cosA r.th - c1 * sinA r.th) a))) ∧
    (∃ (s : State) (i : Ifc) (sinceCt : Nat) (out : Int), (10 ≤ i.val) ∧ (s.hasRec 0x40 i = true) ∧ ((s.em.get i).want ≠ (s.em.get i).out) ∧ (s.pu 0x40 i 32 ≤ sinceCt) ∧ (s.posValid ⟨s.pu 0x40 i 20 % 12, Nat.mod_lt _ (by decide)⟩ = true) ∧ (out = (if (s.em.get i).out < (s.em.get i).want then (s.em.get i).out + 1 else (s.em.get i).out - 1))) ∧
    (∃ (s : State) (i : Ifc) (sinceCt : Nat), (i.val < 10 ∨ s.hasRec 0x40 i = false ∨ (s.em.get i).want = (s.em.get i).out ∨ sinceCt < s.pu 0x40 i 32 ∨ s.posValid ⟨s.pu 0x40 i 20 % 12, Nat.mod_lt _ (by decide)⟩ = false)) ∧
    (∃ (s : State) (i : Ifc) (sinceCt : Nat), (i.val < 10 ∨ s.hasRec 0x40 i = false ∨ (s.em.get i).want = (s.em.get i).out ∨ sinceCt < s.pu 0x40 i 32 ∨ s.posValid ⟨s.pu 0x40 i 20 % 12, Nat.mod_lt _ (by decide)⟩ = false) ∧ (10 ≤ i.val) ∧ (s.hasRec 0x40 i = true) ∧ ((s.em.get i).want ≠ (s.em.get i).out) ∧ (s.posValid ⟨s.pu 0x40 i 20 % 12, Nat.mod_lt _ (by decide)⟩ = false)) ∧
    (∃ (s : State) (i : Ifc) (at270 : Bool) (sQuad cQuad sEnv cEnv s1 c1 a eps : Q) (r : ResSt), (i.val < 2) ∧ (s.hasRec 0x40 i = true) ∧ (s.cat.locked = true) ∧ (r = (if at270 then { s.res.get i with s180 := sQuad, c180 := cQuad, s270 := sEnv, c270 := cEnv } else { s.res.get i with s0 := sQuad, c0 := cQuad, s90 := sEnv, c90 := cEnv })) ∧ (s1 = divQ ((r.s90 - r.s270) / 2 - r.os) (1 + r.k)) ∧ (c1 = divQ ((r.c90 - r.c270) / 2 - r.oc + s1 * sinRad r.phi) (cosRad r.phi)) ∧ (a = sqrtQ (s1 * s1 + c1 * c1)) ∧ (eps = (if active 0x2001 i.val s = true then 0 else divQ (s1 * cosA r.th - c1 * sinA r.th) a)) ∧ (r.ampRun = 3) ∧ ((s.res.get i).ampRun = 3) ∧ (¬(s.pf 0x40 i 36 ≤ a ∧ a ≤ s.pf 0x40 i 40))) :=
  ⟨⟨withRecs [recFix 0x40 0 64 []], 0, false, 1, 1, 1, 1, _, _, _, _, _, by decide +kernel, by decide +kernel, by decide +kernel, rfl, rfl, rfl, rfl, rfl⟩,
   ⟨{ withRecs [recFix 0x40 10 64 []] with em := State.reset.em.upd 10 (fun e => { e with want := 3 }), pos := State.reset.pos.upd 0 (fun p => { p with valid := true }) }, 10, 5, _, by decide +kernel, by decide +kernel, by decide +kernel, by decide +kernel, by decide +kernel, rfl⟩,
   ⟨State.reset, 10, 5, by decide +kernel⟩,
   ⟨{ withRecs [recFix 0x40 10 64 []] with em := State.reset.em.upd 10 (fun e => { e with want := 3 }) }, 10, 5, by decide +kernel⟩,
   ⟨{ withRecs [recFix 0x40 0 64 [(36, 0x42C80000), (40, 0x43480000)]] with res := State.reset.res.upd 0 (fun x => { x with ampRun := 3 }) }, 0, false, 1, 1, 6, 8, _, _, _, _, _, by decide +kernel, by decide +kernel, by decide +kernel, rfl, rfl, rfl, rfl, rfl, by decide +kernel, by decide +kernel, by decide +kernel⟩⟩

/-- The hypotheses of SentSensors can be met. -/
theorem witness_SentSensors :
    (∃ (s : State) (i : Ifc) (f : SentFrame) (st : Nat) (ds : List Nat), (2 ≤ i.val) ∧ (i.val < 4) ∧ (s.hasRec 0x40 i = true) ∧ (sentAccept s i f = some (st, ds))) ∧
    (∃ (s : State) (i : Ifc) (f : SentFrame), (2 ≤ i.val) ∧ (i.val < 4) ∧ (s.hasRec 0x40 i = true) ∧ (sentAccept s i f = none)) ∧
    (∃ (s : State) (i : Ifc) (sinceUs : Nat), (2 ≤ i.val) ∧ (i.val < 4) ∧ (s.hasRec 0x40 i = true) ∧ (s.pf 0x40 i 40 * 1000000 ≤ sinceUs)) ∧
    (∃ (s : State) (i : Ifc) (tauUs : Nat), (4 ≤ i.val) ∧ (i.val < 10) ∧ (s.hasRec 0x40 i = true) ∧ (s.pf 0x40 i 16 ≤ (tauUs : Q) / 1000000)) :=
  ⟨⟨withRecs [sentRec], 2, sentGood, 0, [0, 0, 0], by decide +kernel⟩,
   ⟨withRecs [sentRec], 2, { sentGood with crc := 23 }, by decide +kernel⟩,
   ⟨withRecs [recFix 0x40 2 64 []], 2, 1, by decide +kernel⟩,
   ⟨withRecs [recFix 0x40 4 64 []], 4, 1, by decide +kernel⟩⟩

/-- The hypotheses of EdgeSensors can be met. -/
theorem witness_EdgeSensors :
    (∃ (s : State) (i : Ifc) (a b z : Bool) (heldCt tFt : Nat), (4 ≤ i.val) ∧ (i.val < 6) ∧ (s.hasRec 0x40 i = true) ∧ (s.pu 0x40 i 12 ≤ heldCt) ∧ ((quadPhase a b + 4 - quadPhase (s.edge.get i).a (s.edge.get i).b) % 4 = 1 ∨ (quadPhase a b + 4 - quadPhase (s.edge.get i).a (s.edge.get i).b) % 4 = 3)) ∧
    (∃ (s : State) (i : Ifc) (a b z : Bool) (heldCt tFt : Nat), (4 ≤ i.val) ∧ (i.val < 6) ∧ (s.hasRec 0x40 i = true) ∧ (s.pu 0x40 i 12 ≤ heldCt) ∧ ((quadPhase a b + 4 - quadPhase (s.edge.get i).a (s.edge.get i).b) % 4 = 2)) ∧
    (∃ (s : State) (i : Ifc) (a b z : Bool) (heldCt tFt : Nat), (heldCt < s.pu 0x40 i 12)) ∧
    (∃ (s : State) (i : Ifc) (code heldCt tFt : Nat), (6 ≤ i.val) ∧ (i.val < 10) ∧ (s.hasRec 0x40 i = true) ∧ (s.pu 0x40 i 12 ≤ heldCt) ∧ (code % 8 ≠ 0) ∧ (code % 8 ≠ 7) ∧ ((s.edge.get i).lastCode = 0)) ∧
    (∃ (s : State) (i : Ifc) (code heldCt tFt : Nat), (6 ≤ i.val) ∧ (i.val < 10) ∧ (s.hasRec 0x40 i = true) ∧ (s.pu 0x40 i 12 ≤ heldCt) ∧ (code % 8 = 0 ∨ code % 8 = 7)) ∧
    (∃ (s : State) (i : Ifc) (heldCt : Nat), (6 ≤ i.val) ∧ (i.val < 8) ∧ (s.hasRec 0x40 i = true) ∧ (s.pu 0x40 i 12 ≤ heldCt) ∧ ((s.pos.get i).idxLvl = false) ∧ (s.pu 0x40 i 60 ≠ 0) ∧ ((s.edge.get i).cref = none)) ∧
    (∃ (s : State) (i : Ifc) (heldCt : Nat), (i.val = 8) ∧ (s.hasRec 0x40 i = true) ∧ (s.pu 0x40 i 12 ≤ heldCt) ∧ ((s.pos.get i).idxLvl = false) ∧ ((s.act.get .park).ref = none)) ∧
    (∃ (s : State) (i : Ifc) (heldCt : Nat), (6 ≤ i.val) ∧ (i.val < 10) ∧ (s.hasRec 0x40 i = true) ∧ (s.pu 0x40 i 12 ≤ heldCt)) :=
  ⟨⟨withRecs [recFix 0x40 4 64 []], 4, true, false, false, 1, 1, by decide +kernel⟩,
   ⟨withRecs [recFix 0x40 4 64 []], 4, true, true, false, 1, 1, by decide +kernel⟩,
   ⟨withRecs [recFix 0x40 4 64 [(12, 4)]], 4, true, false, false, 3, 1, by decide +kernel⟩,
   ⟨withRecs [recFix 0x40 6 64 []], 6, 5, 1, 1, by decide +kernel⟩,
   ⟨withRecs [recFix 0x40 6 64 []], 6, 7, 1, 1, by decide +kernel⟩,
   ⟨withRecs [recFix 0x40 6 64 [(60, 1)]], 6, 1, by decide +kernel⟩,
   ⟨withRecs [recFix 0x40 8 64 []], 8, 1, by decide +kernel⟩,
   ⟨withRecs [recFix 0x40 6 64 [(60, 1)]], 6, 1, by decide +kernel⟩⟩

/-- The hypotheses of GateShorts can be met. -/
theorem witness_GateShorts :
    (∃ (s : State) (c : Chan) (v : Q) (onNs ns : Nat), (s.chPresent c = true) ∧ (c.val < 29) ∧ ((s.gd.ch.get c).out = .on) ∧ (s.pf 0x10 c 28 < v) ∧ (s.pu 0x10 c 32 ≤ ns) ∧ (s.blankNs c + ns ≤ onNs)) ∧
    (∃ (s : State) (c : Chan) (chOut : List (Nat × Q)) (crossNs : Nat) (q : Q), (s.chPresent c = true) ∧ (c.val < 29) ∧ ((s.gd.ch.get c).out = .on) ∧ (gcCross s c chOut = some crossNs) ∧ (q = gateCharge s c crossNs) ∧ (q < s.pf 0x10 c 40)) ∧
    (∃ (s : State) (c : Chan) (chOut : List (Nat × Q)), (s.chPresent c = true) ∧ (c.val < 29) ∧ ((s.gd.ch.get c).out = .on) ∧ ((∀ p ∈ chOut, s.pf 0x10 c 36 < p.2 → s.blankNs c < p.1))) ∧
    (∃ (s : State) (c : Chan) (rep : Bool) (h e : Nat), (s.chPresent c = true) ∧ (rep ≠ (s.gd.ch.get c).cmd) ∧ (500 < h) ∧ (500 < e)) ∧
    (∃ (s : State) (c : Chan) (ns : Nat), (s.chPresent c = true) ∧ (c.val < 29) ∧ (2000 ≤ ns)) ∧
    (∃ (s : State) (c : Chan) (v : Q) (us : Nat), (s.chPresent c = true) ∧ (isHighSide c = true) ∧ ((s.gd.ch.get c).bstUv = true) ∧ (s.inRefresh c = false) ∧ (v < s.pf 0x10 c 44) ∧ (10 ≤ us)) ∧
    (∃ (s : State) (c : Chan) (ns : Nat), (s.chPresent c = true) ∧ (c.val < 29) ∧ (2000 ≤ ns) ∧ ((s.gd.ch.get c).out = .on)) :=
  ⟨⟨{ (live .drive []) with gd := { (live .drive []).gd with ch := (live .drive []).gd.ch.upd 2 (fun x => { x with out := .on }) } }, 2, 1, 100, 0, by decide +kernel⟩,
   ⟨{ live .drive [recFix 0x10 2 64 [(40, 0x3F800000)]] with gd := { (live .drive []).gd with ch := (live .drive []).gd.ch.upd 2 (fun x => { x with out := .on }) } }, 2, [(0, 1)], 0, _, by decide +kernel, by decide +kernel, by decide +kernel, by decide +kernel, rfl, by decide +kernel⟩,
   ⟨{ live .drive [] with gd := { (live .drive []).gd with ch := (live .drive []).gd.ch.upd 2 (fun x => { x with out := .on }) } }, 2, [], by decide +kernel, by decide +kernel, by decide +kernel, fun _ h => by cases h⟩,
   ⟨live .drive [], 30, true, 501, 501, by decide +kernel⟩,
   ⟨live .drive [], 28, 2000, by decide +kernel⟩,
   ⟨{ live .drive [recFix 0x10 31 64 [(44, 0x3F800000)]] with gd := { (live .drive []).gd with ch := (live .drive []).gd.ch.upd 31 (fun x => { x with bstUv := true }) } }, 31, 0, 10, by decide +kernel⟩,
   ⟨{ (live .drive []) with gd := { (live .drive []).gd with ch := (live .drive []).gd.ch.upd 2 (fun x => { x with out := .on }) } }, 2, 2000, by decide +kernel⟩⟩

/-- The hypotheses of GateEdges can be met. -/
theorem witness_GateEdges :
    (∃ (s : State) (c : Chan) (hi lo : Q) (vns ens : Nat), (s.chPresent c = true) ∧ (c.val < 29) ∧ ((500 ≤ vns ∧ (hi < 27 / 2 ∨ hi < s.pf 0x10 c 44 ∨ 26 < hi ∨ s.pf 0x10 c 48 < hi)) ∨ (500 ≤ ens ∧ (1 / 2 < lo ∨ s.pf 0x10 c 56 < lo ∨ lo < -9 ∨ lo < s.pf 0x10 c 52)))) ∧
    (∃ (s : State) (c : Chan) (hi lo : Q) (vus eus : Nat), (s.chPresent c = true) ∧ (c.val < 29) ∧ (1000 ≤ vus) ∧ (1000 ≤ eus) ∧ (27 / 2 ≤ hi ∧ s.pf 0x10 c 44 ≤ hi ∧ hi ≤ 26 ∧ hi ≤ s.pf 0x10 c 48) ∧ (lo ≤ 1 / 2 ∧ lo ≤ s.pf 0x10 c 56 ∧ -9 ≤ lo ∧ s.pf 0x10 c 52 ≤ lo)) ∧
    (∃ (s : State) (c : Chan) (hi lo : Q) (vus eus : Nat), (s.chPresent c = true) ∧ (c.val < 29) ∧ (vus < 1000) ∧ (eus < 1000)) ∧
    (∃ (s : State) (c : Chan) (ft : Int), (s.onEdgeDue c ft = false)) ∧
    (∃ (s : State) (c : Chan) (ft : Int), (s.onEdgeDue c ft = true) ∧ (s.chPresent c = true) ∧ ((s.gd.ch.get c).out = .off) ∧ (mayTurnOn s c = true) ∧ (s.legHeld c = false) ∧ (s.inRefresh c = false) ∧ ((∀ p, partner c = some p → (s.gd.ch.get p).out ≠ .on ∧ (s.gd.ch.get p).cmd = false))) ∧
    (∃ (s : State) (c : Chan) (ft : Int), (s.onEdgeDue c ft = true) ∧ (s.chPresent c = true) ∧ ((s.gd.ch.get c).out ≠ .on) ∧ ((s.gd.ch.get c).out = .soft ∨ mayTurnOn s c = false ∨ s.legHeld c = true)) ∧
    (∃ (s : State) (c p : Chan) (ft : Int), (s.onEdgeDue c ft = true) ∧ (s.chPresent c = true) ∧ ((s.gd.ch.get c).out = .off) ∧ (mayTurnOn s c = true) ∧ (s.legHeld c = false) ∧ (partner c = some p) ∧ ((s.gd.ch.get p).out = .on ∨ (s.gd.ch.get p).cmd = true)) ∧
    (∃ (s : State) (c p : Chan) (ft : Int), (s.onEdgeDue c ft = true) ∧ (s.chPresent c = true) ∧ ((s.gd.ch.get c).out = .off) ∧ (mayTurnOn s c = true) ∧ (s.legHeld c = false) ∧ (s.inRefresh c = true) ∧ (partner c = some p) ∧ ((s.gd.ch.get p).out ≠ .on) ∧ ((s.gd.ch.get p).cmd = false)) ∧
    (∃ (s : State) (c : Chan) (ft : Int) (v : Q) (ns : Nat), (s.offEdgeDue c ft = true) ∧ (s.chPresent c = true) ∧ ((s.gd.ch.get c).out ≠ .on ∨ s.inRefresh c = true)) ∧
    (∃ (s : State) (c : Chan) (ft : Int) (v : Q) (ns : Nat), (s.offEdgeDue c ft = true) ∧ (s.chPresent c = true) ∧ ((s.gd.ch.get c).out = .on) ∧ (s.inRefresh c = false) ∧ (29 ≤ c.val ∨ ns < s.blankNs c ∨ v ≤ s.pf 0x10 c 28)) ∧
    (∃ (s : State) (c : Chan) (ft : Int) (v : Q) (ns : Nat), (s.offEdgeDue c ft = true) ∧ (s.chPresent c = true) ∧ (c.val < 29) ∧ ((s.gd.ch.get c).out = .on) ∧ (s.blankNs c ≤ ns) ∧ (s.pf 0x10 c 28 < v)) ∧
    (∃ (s : State) (d : Fin 7) (c : Chan), (domOf c = d) ∧ (s.chPresent c = true) ∧ (s.inAsc (stageOf c) = false) ∧ (s.permit c ≠ (true, true))) ∧
    (∃ (s : State) (c p : Chan) (ft : Int), (s.onEdgeDue c ft = true) ∧ (s.chPresent c = true) ∧ ((s.gd.ch.get c).out = .off) ∧ (mayTurnOn s c = true) ∧ (s.legHeld c = false) ∧ (partner c = some p) ∧ ((s.gd.ch.get p).out = .on ∨ (s.gd.ch.get p).cmd = true) ∧ ((s.gd.ch.get p).cmd = true)) ∧
    (∃ (s : State) (c : Chan) (ft : Int), (s.onEdgeDue c ft = true) ∧ (s.chPresent c = true) ∧ ((s.gd.ch.get c).out ≠ .on) ∧ ((s.gd.ch.get c).out = .soft ∨ mayTurnOn s c = false ∨ s.legHeld c = true) ∧ (s.legHeld c = true)) :=
  ⟨⟨live .drive [], 3, 1, 0, 500, 0, by decide +kernel⟩,
   ⟨live .drive [recFix 0x10 3 64 [(48, 0x43C80000)]], 3, 15, 0, 1000, 1000, by decide +kernel⟩,
   ⟨live .drive [], 3, 1, 0, 0, 0, by decide +kernel⟩,
   ⟨live .drive [], 2, 0, by decide +kernel⟩,
   ⟨gated 0 .off, 2, 0, by decide +kernel, by decide +kernel, by decide +kernel, by decide +kernel, by decide +kernel, by decide +kernel, fun p h => by rw [show partner 2 = none from by decide] at h; cases h⟩,
   ⟨gated 0 .soft, 2, 0, by decide +kernel⟩,
   ⟨{ gated 7 .off with gd := { (gated 7 .off).gd with ch := (gated 7 .off).gd.ch.upd 32 (fun x => { x with out := .on }) } }, 31, 32, 0, by decide +kernel⟩,
   ⟨{ gated 7 .off with gd := { (gated 7 .off).gd with ch := (gated 7 .off).gd.ch.upd 31 (fun x => { x with refr := some 0 }) } }, 31, 32, 0, by decide +kernel⟩,
   ⟨gated 0 .off, 2, 500, 0, 0, by decide +kernel⟩,
   ⟨gated 0 .on, 2, 500, 0, 0, by decide +kernel⟩,
   ⟨gated 0 .on, 2, 500, 1, 100, by decide +kernel⟩,
   ⟨inMode .drive, 0, 2, by decide +kernel⟩,
   ⟨{ gated 7 .off with gd := { (gated 7 .off).gd with ch := (gated 7 .off).gd.ch.upd 32 (fun x => { x with cmd := true }) } }, 31, 32, 0, by decide +kernel⟩,
   ⟨{ gated 7 .off with gd := { (gated 7 .off).gd with ch := (gated 7 .off).gd.ch.upd 31 (fun x => { x with hold := 5 }) } }, 31, 0, by decide +kernel⟩⟩

/-- The hypotheses of GateStages can be met. -/
theorem witness_GateStages :
    (∃ (s : State) (c : Chan), (s.chPresent c = true) ∧ ((s.gd.ch.get c).desat = true ∨ (s.gd.ch.get c).gc = true) ∧ (s.inAsc (stageOf c) = false) ∧ ((s.gd.st.get (stageOf c)).watch = none)) ∧
    (∃ (s : State) (c k : Chan), (s.chPresent c = true) ∧ ((s.gd.ch.get c).desat = true ∨ (s.gd.ch.get c).gc = true) ∧ (s.inAsc (stageOf c) = false) ∧ ((s.gd.st.get (stageOf c)).watch = some k) ∧ (k ≠ c)) ∧
    (∃ (s : State) (g : Stage) (k : Chan), ((s.gd.st.get g).watch = some k)) ∧
    (∃ (s : State) (c : Chan) (since pulse : Nat), (s.chPresent c = true) ∧ (isHighSide c = true) ∧ (s.stageRuns (stageOf c) = true) ∧ (50 ≤ since) ∧ (((s.gd.ch.get c).cmd = true → 50 ≤ pulse)) ∧ (s.inRefresh c = false) ∧ (s.legHeld c = false)) ∧
    (∃ (s : State) (c : Chan) (v : Q) (ns : Nat), (s.chPresent c = true) ∧ (isHighSide c = true) ∧ (v < s.pf 0x10 c 44) ∧ (1000 ≤ ns) ∧ ((s.gd.ch.get c).cmd = true ∨ (s.gd.ch.get c).out = .on) ∧ (s.inRefresh c = false) ∧ (s.legHeld c = false)) ∧
    (∃ (s : State) (c : Chan) (v : Q) (us : Nat), (s.chPresent c = true) ∧ (isHighSide c = true) ∧ (s.pf 0x10 c 44 + 1 / 2 < v) ∧ (1000 ≤ us)) ∧
    (∃ (s : State) (n : Fin 6) (c : Chan) (us : Nat) (sink source vBus : Q), (c.val = 31 + 2 * n.val) ∧ (s.chPresent c = true) ∧ (s.pu 0x10 c 60 % 4 ≠ 0) ∧ ((s.gd.ch.get c).out = .off) ∧ ((s.gd.ch.get (buckLow n)).out = .off) ∧ (2000 ≤ us)) ∧
    (∃ (s : State) (t : TSet) (r : StartTest), (s.ptEnabled t = true) ∧ (s.sys.mode = .drive) ∧ (s.sys.dcInside = true) ∧ (s.setPermit t = true) ∧ ((s.pwm.get t.grp).running = false) ∧ (s.startAsked t = true)) ∧
    (∃ (s : State) (p : UPath) (c : Chan), (s.routineNrc p 0xF300 = 0) ∧ (s.chPresent c = true) ∧ (s.sys.mode = .ready ∨ s.sys.mode = .convert ∨ s.sys.mode = .safe) ∧ (s.stageRuns (stageOf c) = false) ∧ ((∀ x, (s.ss.get x).st ≠ 3))) ∧
    (∃ (s : State) (p : UPath) (c : Chan) (x : TSet), (s.routineNrc p 0xF300 = 0) ∧ (s.chPresent c = true) ∧ (s.sys.mode = .ready ∨ s.sys.mode = .convert ∨ s.sys.mode = .safe) ∧ (s.stageRuns (stageOf c) = false) ∧ ((s.gd.ch.get c).shorts < 3) ∧ ((s.ss.get x).st = 3) ∧ (s.sup.biasA = true) ∧ (c ∈ x.lows) ∧ ((∀ d ∈ x.lows, (d ≠ c → (s.gd.ch.get d).latched = false) ∧ s.gd.hsFailed.contains d = false))) ∧
    (∃ (s : State) (g : Stage) (a : Act) (us : Nat) (uv vw wu : Q × Q) (vS : Q) (tested : List (Chan × Chan × (Q × Q))), (g = a.stage) ∧ (tested = [(chanAt a.base, chanAt (a.base + 2), uv), (chanAt (a.base + 2), chanAt (a.base + 4), vw), (chanAt (a.base + 4), chanAt a.base, wu)].filter (fun p => s.chPresent p.1 && decide (s.pu 0x10 p.1 60 % 4 ≠ 0))) ∧ (tested ≠ []) ∧ ((s.pwm.get a.grp).running = false) ∧ (2000 ≤ us)) ∧
    (∃ (s : State) (t : TSet) (r : StartTest), (s.ptEnabled t = true) ∧ (s.sys.mode = .drive) ∧ (s.sys.dcInside = true) ∧ (s.setPermit t = true) ∧ ((s.pwm.get t.grp).running = false) ∧ (s.startAsked t = true) ∧ (s.pf 3 0 8 ≤ absQ (s.omegaM t))) ∧
    (∃ (s : State) (t : TSet) (r : StartTest), (s.ptEnabled t = true) ∧ (s.sys.mode = .drive) ∧ (s.sys.dcInside = true) ∧ (s.setPermit t = true) ∧ ((s.pwm.get t.grp).running = false) ∧ (s.startAsked t = true) ∧ (absQ (s.omegaM t) < s.pf 3 0 8) ∧ (s.dc.dclT / 2 ≤ r.phases[1])) ∧
    (∃ (s : State) (t : TSet) (r : StartTest), (s.ptEnabled t = true) ∧ (s.sys.mode = .drive) ∧ (s.sys.dcInside = true) ∧ (s.setPermit t = true) ∧ ((s.pwm.get t.grp).running = false) ∧ (s.startAsked t = true) ∧ (absQ (s.omegaM t) < s.pf 3 0 8) ∧ ((∀ k : Fin 3, r.phases[k] < s.dc.dclT / 2)) ∧ (iFsOf s t / 10 < absQ r.low[0].1)) ∧
    (∃ (s : State) (t : TSet) (r : StartTest), (s.ptEnabled t = true) ∧ (s.sys.mode = .drive) ∧ (s.sys.dcInside = true) ∧ (s.setPermit t = true) ∧ ((s.pwm.get t.grp).running = false) ∧ (s.startAsked t = true) ∧ (absQ (s.omegaM t) < s.pf 3 0 8) ∧ ((∀ k : Fin 3, r.phases[k] < s.dc.dclT / 2)) ∧ ((∀ k : Fin 3, absQ r.low[k].1 ≤ iFsOf s t / 10))) ∧
    (∃ (s : State) (p : UPath) (c : Chan), (s.routineNrc p 0xF300 = 0) ∧ (s.chPresent c = true) ∧ (s.sys.mode = .ready ∨ s.sys.mode = .convert ∨ s.sys.mode = .safe) ∧ (s.stageRuns (stageOf c) = false) ∧ ((∀ x, (s.ss.get x).st ≠ 3)) ∧ ((s.gd.ch.get c).shorts < 3)) ∧
    (∃ (s : State) (p : UPath) (c : Chan), (s.routineNrc p 0xF300 = 0) ∧ (s.chPresent c = true) ∧ (s.sys.mode = .ready ∨ s.sys.mode = .convert ∨ s.sys.mode = .safe) ∧ (s.stageRuns (stageOf c) = false) ∧ ((∀ x, (s.ss.get x).st ≠ 3)) ∧ (3 ≤ (s.gd.ch.get c).shorts)) ∧
    (∃ (s : State) (g : Stage) (a : Act) (us : Nat) (uv vw wu : Q × Q) (vS : Q) (tested : List (Chan × Chan × (Q × Q))), (g = a.stage) ∧ (tested = [(chanAt a.base, chanAt (a.base + 2), uv), (chanAt (a.base + 2), chanAt (a.base + 4), vw), (chanAt (a.base + 4), chanAt a.base, wu)].filter (fun p => s.chPresent p.1 && decide (s.pu 0x10 p.1 60 % 4 ≠ 0))) ∧ (tested ≠ []) ∧ ((s.pwm.get a.grp).running = false) ∧ (2000 ≤ us) ∧ ((∀ p ∈ tested, legPair vS p.2.2 = 0))) ∧
    (∃ (s : State) (g : Stage) (a : Act) (us : Nat) (uv vw wu : Q × Q) (vS : Q) (tested : List (Chan × Chan × (Q × Q))), (g = a.stage) ∧ (tested = [(chanAt a.base, chanAt (a.base + 2), uv), (chanAt (a.base + 2), chanAt (a.base + 4), vw), (chanAt (a.base + 4), chanAt a.base, wu)].filter (fun p => s.chPresent p.1 && decide (s.pu 0x10 p.1 60 % 4 ≠ 0))) ∧ (tested ≠ []) ∧ ((s.pwm.get a.grp).running = false) ∧ (2000 ≤ us) ∧ ((chanAt a.base, chanAt (a.base + 2), uv) ∈ tested) ∧ (legPair vS uv ≠ 0)) ∧
    (∃ (s : State) (n : Fin 6) (c : Chan) (us : Nat) (sink source vBus : Q), (c.val = 31 + 2 * n.val) ∧ (s.chPresent c = true) ∧ (s.pu 0x10 c 60 % 4 ≠ 0) ∧ ((s.gd.ch.get c).out = .off) ∧ ((s.gd.ch.get (buckLow n)).out = .off) ∧ (2000 ≤ us) ∧ (5 ≤ vBus) ∧ (absQ (sink - vBus) ≤ 1 / 2) ∧ (absQ (source - vBus) ≤ 1 / 2)) ∧
    (∃ (s : State) (n : Fin 6) (c : Chan) (us : Nat) (sink source vBus : Q), (c.val = 31 + 2 * n.val) ∧ (s.chPresent c = true) ∧ (s.pu 0x10 c 60 % 4 ≠ 0) ∧ ((s.gd.ch.get c).out = .off) ∧ ((s.gd.ch.get (buckLow n)).out = .off) ∧ (2000 ≤ us) ∧ (vBus < 5) ∧ (sink < vBus + 2)) ∧
    (∃ (s : State) (n : Fin 6) (c : Chan) (us : Nat) (sink source vBus : Q), (c.val = 31 + 2 * n.val) ∧ (s.chPresent c = true) ∧ (s.pu 0x10 c 60 % 4 ≠ 0) ∧ ((s.gd.ch.get c).out = .off) ∧ ((s.gd.ch.get (buckLow n)).out = .off) ∧ (2000 ≤ us) ∧ (vBus + 2 ≤ sink)) ∧
    (∃ (s : State) (n : Fin 6) (c : Chan) (us : Nat) (sink source vBus : Q), (c.val = 31 + 2 * n.val) ∧ (s.chPresent c = true) ∧ (s.pu 0x10 c 60 % 4 ≠ 0) ∧ ((s.gd.ch.get c).out = .off) ∧ ((s.gd.ch.get (buckLow n)).out = .off) ∧ (2000 ≤ us) ∧ (5 ≤ vBus) ∧ (sink < vBus + 2) ∧ (source ≤ 3 / 10)) ∧
    (∃ (s : State) (n : Fin 6) (c : Chan) (us : Nat) (sink source vBus : Q), (c.val = 31 + 2 * n.val) ∧ (s.chPresent c = true) ∧ (s.pu 0x10 c 60 % 4 ≠ 0) ∧ ((s.gd.ch.get c).out = .off) ∧ ((s.gd.ch.get (buckLow n)).out = .off) ∧ (2000 ≤ us) ∧ (5 ≤ vBus) ∧ (1 / 2 < absQ (sink - vBus)) ∧ (sink < vBus + 2) ∧ (3 / 10 < source)) :=
  ⟨⟨{ (live .drive []) with gd := { (live .drive []).gd with ch := Tab.fill { GdChan.reset with desat := true } } }, 2, by decide +kernel⟩,
   ⟨{ (live .drive []) with gd := { (live .drive []).gd with ch := Tab.fill { GdChan.reset with desat := true }, st := (live .drive []).gd.st.upd .setA (fun y => { y with watch := some 1 }) } }, 2, 1, by decide +kernel⟩,
   ⟨{ (live .drive []) with gd := { (live .drive []).gd with st := (live .drive []).gd.st.upd .dab (fun y => { y with watch := some 20 }) } }, .dab, 20, by decide +kernel⟩,
   ⟨{ live .drive [] with pwm := (live .drive []).pwm.upd 8 (fun g => { g with running := true }) }, 43, 50, 50, by decide +kernel⟩,
   ⟨{ live .drive [recFix 0x10 43 64 [(44, 0x41000000)]] with gd := { (live .drive []).gd with ch := Tab.fill { GdChan.reset with cmd := true } } }, 43, 7, 1000, by decide +kernel⟩,
   ⟨live .drive [recFix 0x10 43 64 [(44, 0x41000000)]], 43, 9, 1000, by decide +kernel⟩,
   ⟨live .ready [recFix 0x10 33 64 [(60, 1)]], 1, 33, 2000, 12, 12, 12, by decide +kernel⟩,
   ⟨{ live .drive [recFix 3 0 16 [(8, 0)], recFix 0x10 1 64 [(60, 4)]] with sys := { (live .drive []).sys with dcInside := true }, tm := { (live .drive []).tm with startA := true }, dc := { State.reset.dc with dclT := 400 } }, .a, testFix, by decide +kernel⟩,
   ⟨udsIn .ready 3 1 [], .can1, 2, by decide +kernel, by decide +kernel, by decide +kernel, by decide +kernel, fun x => by cases x <;> decide +kernel⟩,
   ⟨{ udsIn .safe 3 1 [] with sup := { (udsIn .safe 3 1 []).sup with biasA := true }, ss := Tab.put State.reset.ss .a { State.reset.ss.get .a with st := 3 } }, .can1, ⟨3, by decide⟩, .a, by decide +kernel, by decide +kernel, by decide +kernel, by decide +kernel, by decide +kernel, by decide +kernel, by decide +kernel, by decide +kernel, by decide +kernel⟩,
   ⟨live .drive [recFix 0x10 43 64 [(60, 1)]], .park, .park, 2000, (5, 5), (5, 5), (5, 5), 12, _, by decide +kernel, rfl, by decide +kernel, by decide +kernel, by decide +kernel⟩,
   ⟨{ live .drive [recFix 3 0 16 [(8, 0)], recFix 0x10 1 64 [(60, 4)]] with sys := { (live .drive []).sys with dcInside := true }, tm := { (live .drive []).tm with startA := true }, dc := { State.reset.dc with dclT := 400 } }, .a, testFix, by decide +kernel⟩,
   ⟨{ live .drive [recFix 3 0 16 [(8, 0x3F800000)], recFix 0x10 1 64 [(60, 4)]] with sys := { (live .drive []).sys with dcInside := true }, tm := { (live .drive []).tm with startA := true }, dc := { State.reset.dc with dclT := 400 } }, .a, { testFix with phases := #v[0, 200, 0] }, by decide +kernel⟩,
   ⟨{ live .drive [recFix 3 0 16 [(8, 0x3F800000)], recFix 0x10 1 64 [(60, 4)]] with sys := { (live .drive []).sys with dcInside := true }, tm := { (live .drive []).tm with startA := true }, dc := { State.reset.dc with dclT := 400 } }, .a, { testFix with low := #v[(1, []), (0, []), (0, [])] }, by decide +kernel⟩,
   ⟨{ live .drive [recFix 3 0 16 [(8, 0x3F800000)], recFix 0x10 1 64 [(60, 4)]] with sys := { (live .drive []).sys with dcInside := true }, tm := { (live .drive []).tm with startA := true }, dc := { State.reset.dc with dclT := 400 } }, .a, testFix, by decide +kernel⟩,
   ⟨{ udsIn .ready 3 1 [] with gd := { State.reset.gd with ch := Tab.fill { GdChan.reset with shorts := 2 } } }, .can1, 2, by decide +kernel, by decide +kernel, by decide +kernel, by decide +kernel, fun x => by cases x <;> decide +kernel, by decide +kernel⟩,
   ⟨{ udsIn .ready 3 1 [] with gd := { State.reset.gd with ch := Tab.fill { GdChan.reset with shorts := 3 } } }, .can1, 2, by decide +kernel, by decide +kernel, by decide +kernel, by decide +kernel, fun x => by cases x <;> decide +kernel, by decide +kernel⟩,
   ⟨live .drive [recFix 0x10 43 64 [(60, 1)]], .park, .park, 2000, (6, 6), (5, 5), (5, 5), 12, _, by decide +kernel, rfl, by decide +kernel, by decide +kernel, by decide +kernel, by decide +kernel⟩,
   ⟨live .drive [recFix 0x10 43 64 [(60, 1)]], .park, .park, 2000, (0, 0), (5, 5), (5, 5), 12, _, by decide +kernel, rfl, by decide +kernel, by decide +kernel, by decide +kernel, by decide +kernel, by decide +kernel⟩,
   ⟨live .ready [recFix 0x10 33 64 [(60, 1)]], 1, 33, 2000, 11 / 2, 9 / 2, 5, by decide +kernel⟩,
   ⟨live .ready [recFix 0x10 33 64 [(60, 1)]], 1, 33, 2000, 0, 0, 4, by decide +kernel⟩,
   ⟨live .ready [recFix 0x10 33 64 [(60, 1)]], 1, 33, 2000, 7, 5, 5, by decide +kernel⟩,
   ⟨live .ready [recFix 0x10 33 64 [(60, 1)]], 1, 33, 2000, 5, 3 / 10, 5, by decide +kernel⟩,
   ⟨live .ready [recFix 0x10 33 64 [(60, 1)]], 1, 33, 2000, 6, 1, 5, by decide +kernel⟩⟩

/-- The hypotheses of ChargerStops can be met. -/
theorem witness_ChargerStops :
    (∃ (s : State) (code : Nat), (s.fn 3 = true) ∧ (0x3001 ≤ code) ∧ (code ≤ 0x3010)) ∧
    (∃ (s : State) (h : Fin 6) (ms : Nat), (s.fn 3 = true) ∧ (50 ≤ ms) ∧ ((h = relayHso s true ∧ s.pfc.mainCmd ≠ s.pfc.main) ∨ (h = relayHso s false ∧ s.pfc.preCmd ≠ s.pfc.pre))) ∧
    (∃ (s : State) (h : Fin 6) (ms : Nat), (50 ≤ ms) ∧ (¬(s.fn 3 = true ∧ ((h = relayHso s true ∧ s.pfc.mainCmd ≠ s.pfc.main) ∨ (h = relayHso s false ∧ s.pfc.preCmd ≠ s.pfc.pre)))) ∧ (roleHso s = some h) ∧ (s.chg.roleCmd ≠ s.chg.roleOk)) ∧
    (∃ (s : State) (ms : Nat), (s.pfc.st = 1) ∧ (s.pfc.dir = 0) ∧ (s.pfc.mainCmd = false) ∧ (s.pf 0x50 0 72 * 1000 ≤ ms)) ∧
    (∃ (s : State) (ms : Nat), (s.pfc.st = 2) ∧ (s.pfc.busOk = false) ∧ (busRampMs s + 100 ≤ ms)) ∧
    (∃ (s : State) (v : Q) (ms : Nat), (s.pfc.dir = 0) ∧ (s.pfc.busOk = true) ∧ (10 ≤ ms) ∧ (v < s.pf 0x50 0 32 - 100)) ∧
    (∃ (s : State) (ms : Nat), (s.pfc.st = 4) ∧ (s.pfc.ilim = true) ∧ (s.pf 0x50 0 104 * 1000 ≤ ms)) ∧
    (∃ (s : State) (ms : Nat), (s.pfc.st ≠ 0 ∨ s.dab.st ≠ 0) ∧ (s.pu 0x50 1 80 < 6) ∧ ((∀ h : Fin 6, h.val = s.pu 0x50 1 80 → s.saf.hso.get h = true)) ∧ (1 ≤ ms)) ∧
    (∃ (s : State) (v : Q) (ms : Nat), (s.pfc.st = 2) ∧ (s.pfc.busOk = false) ∧ (10 ≤ ms) ∧ (absQ (v - s.pfc.busRef) ≤ 10) ∧ (s.pfc.dir = 1) ∧ (s.pfc.busRef = s.pf 0x50 0 32) ∧ (¬(s.chg.role = 3 ∧ s.chg.phase = 3 ∧ s.chg.pilot ≠ 2)) ∧ (s.sup.acPresent = true)) ∧
    (∃ (s : State), (s.pfc.st ≠ 0 ∨ s.dab.st ≠ 0) ∧ ((s.dab.st ≠ 2 ∧ s.dab.st ≠ 3) ∨ s.dab.iCmd = 0) ∧ (s.dab.stopRamp = none)) ∧
    (∃ (s : State), (s.dab.st = 2 ∨ s.dab.st = 3) ∧ (s.dab.iCmd ≠ 0) ∧ (s.dab.stopRamp = none)) ∧
    (∃ (s : State) (i : Q) (ms : Nat), (s.pfc.st = 5) ∧ ((s.pwm.get 3).running = false) ∧ (i < 1 ∨ 20 ≤ ms)) ∧
    (∃ (s : State), (s.pfc.st ≠ 0 ∨ s.dab.st ≠ 0)) ∧
    (∃ (s : State), (s.pfc.st ≠ 0 ∨ s.dab.st ≠ 0) ∧ s.dab.lateRun ≠ 2 ∧ s.pfc.lateRun ≠ 2) ∧
    (∃ (s : State), (s.pfc.st ≠ 0 ∨ s.dab.st ≠ 0) ∧ s.dab.lateRun = 2 ∧ s.pfc.lateRun = 2) :=
  ⟨⟨inMode .charge, 0x3008, by decide +kernel⟩,
   ⟨{ (inMode .charge) with pfc := { (inMode .charge).pfc with mainCmd := true } }, 0, 50, by decide +kernel⟩,
   ⟨{ (inMode .charge) with chg := { (inMode .charge).chg with roleCmd := true } }, 0, 50, by decide +kernel⟩,
   ⟨{ (inMode .charge) with pfc := { (inMode .charge).pfc with st := 1 } }, 0, by decide +kernel⟩,
   ⟨{ (live .charge [recFix 0x50 0 128 [(36, 0x447A0000)]]) with pfc := { (inMode .charge).pfc with st := 2 } }, 1000, by decide +kernel⟩,
   ⟨{ (live .charge [recFix 0x50 0 128 [(32, 0x44480000)]]) with pfc := { (inMode .charge).pfc with st := 3, busOk := true } }, 500, 10, by decide +kernel⟩,
   ⟨{ (inMode .charge) with pfc := { (inMode .charge).pfc with st := 4, ilim := true } }, 0, by decide +kernel⟩,
   ⟨{ (inMode .charge) with pfc := { (inMode .charge).pfc with st := 3 }, saf := { (inMode .charge).saf with hso := Tab.fill true } }, 1, by decide +kernel⟩,
   ⟨{ (inMode .charge) with pfc := { (inMode .charge).pfc with st := 2, dir := 1 }, sup := { (inMode .charge).sup with acPresent := true } }, 10, 10, by decide +kernel⟩,
   ⟨{ (inMode .charge) with pfc := { (inMode .charge).pfc with st := 3, lateRun := 1 }, dab := { (inMode .charge).dab with st := 2, lateRun := 1 } }, by decide +kernel⟩,
   ⟨{ (inMode .charge) with dab := { (inMode .charge).dab with st := 2, iCmd := 1 } }, by decide +kernel⟩,
   ⟨{ (inMode .charge) with pfc := { (inMode .charge).pfc with st := 5 } }, 5, 20, by decide +kernel⟩,
   ⟨{ (inMode .charge) with pfc := { (inMode .charge).pfc with st := 3 } }, by decide +kernel⟩,
   ⟨{ (inMode .charge) with pfc := { (inMode .charge).pfc with st := 3, lateRun := 1 }, dab := { (inMode .charge).dab with st := 2, lateRun := 1 } }, by decide +kernel⟩,
   ⟨{ (inMode .charge) with pfc := { (inMode .charge).pfc with st := 3, lateRun := 2 }, dab := { (inMode .charge).dab with st := 2, lateRun := 2 } }, by decide +kernel⟩⟩

/-- The hypotheses of ChargerStarts can be met. -/
theorem witness_ChargerStarts :
    (∃ (s : State), (s.fn 3 = true) ∧ (s.sys.mode = .charge) ∧ (s.grid.ok = true) ∧ (s.pfc.st = 0) ∧ (s.dab.st = 0) ∧ ((clearStartFaults s).chargerBlocked = false)) ∧
    (∃ (s : State), (s.fn 3 = true) ∧ (s.sys.mode = .charge) ∧ (s.pf 0x50 0 80 ≠ 0 ∧ s.pf 0x50 0 84 ≠ 0 ∧ s.pf 0x50 0 88 ≠ 0) ∧ (s.pf 3 0 0 ≤ s.vMax) ∧ (s.vMax ≤ s.pf 3 0 4) ∧ (s.pfc.st = 0) ∧ (s.dab.st = 0) ∧ ((clearStartFaults s).chargerBlocked = false) ∧ (s.chg.role ≠ 3 ∨ (s.chg.cp = 1 ∧ s.chg.pilot = 1) ∨ (s.chg.cp = 2 ∧ s.chg.pilot = 2))) ∧
    (∃ (s : State) (h : Fin 6), (s.fn 3 = true) ∧ (roleHso s ≠ some h) ∧ (h = relayHso s false) ∧ (h ≠ relayHso s true) ∧ (s.pfc.st = 1) ∧ (s.pfc.dir = 0)) ∧
    (∃ (s : State) (h : Fin 6), (s.fn 3 = true) ∧ (roleHso s ≠ some h) ∧ (h = relayHso s true) ∧ (s.pfc.mainCmd = true)) ∧
    (∃ (s : State) (h : Fin 6) (closed : Bool), (roleHso s = some h) ∧ (s.chg.roleCmd = closed) ∧ ((s.fn 3 = true → h ≠ relayHso s true ∧ h ≠ relayHso s false))) ∧
    (∃ (s : State) (v : Q), (s.pfc.st = 1) ∧ (s.pfc.dir = 0) ∧ (s.pfc.pre = true) ∧ (s.pfc.mainCmd = false) ∧ (0 ≤ v) ∧ ((if singlePhase s then 81 / 50 else 243 / 50) * s.pfc.vStart * s.pfc.vStart ≤ v * v)) ∧
    (∃ (s : State) (v : Q) (ms : Nat), (s.pfc.st = 2) ∧ (s.pfc.busOk = false) ∧ (10 ≤ ms) ∧ (absQ (v - s.pfc.busRef) ≤ 10)) ∧
    (∃ (s : State), (s.fn 3 = true) ∧ (s.sys.mode = .charge) ∧ (s.pf 0x50 0 80 ≠ 0 ∧ s.pf 0x50 0 84 ≠ 0 ∧ s.pf 0x50 0 88 ≠ 0) ∧ (s.pf 3 0 0 ≤ s.vMax) ∧ (s.vMax ≤ s.pf 3 0 4) ∧ (s.pfc.st = 0) ∧ (s.dab.st = 0) ∧ ((clearStartFaults s).chargerBlocked = false) ∧ (s.chg.role ≠ 3 ∨ (s.chg.cp = 1 ∧ s.chg.pilot = 1) ∨ (s.chg.cp = 2 ∧ s.chg.pilot = 2)) ∧ (s.pu 0x20 3 40 ≠ 1)) ∧
    (∃ (s : State), (s.fn 3 = true) ∧ (s.sys.mode = .charge) ∧ (s.pf 0x50 0 80 ≠ 0 ∧ s.pf 0x50 0 84 ≠ 0 ∧ s.pf 0x50 0 88 ≠ 0) ∧ (s.pf 3 0 0 ≤ s.vMax) ∧ (s.vMax ≤ s.pf 3 0 4) ∧ (s.pfc.st = 0) ∧ (s.dab.st = 0) ∧ ((clearStartFaults s).chargerBlocked = false) ∧ (s.chg.role ≠ 3 ∨ (s.chg.cp = 1 ∧ s.chg.pilot = 1) ∨ (s.chg.cp = 2 ∧ s.chg.pilot = 2)) ∧ (s.pu 0x20 3 40 = 1)) ∧
    (∃ (s : State), (s.fn 3 = true) ∧ (s.sys.mode = .charge) ∧ (s.grid.ok = true) ∧ (s.pfc.st = 0) ∧ (s.dab.st = 0) ∧ ((clearStartFaults s).chargerBlocked = false) ∧ (s.pu 0x20 3 40 ≠ 1)) ∧
    (∃ (s : State), (s.fn 3 = true) ∧ (s.sys.mode = .charge) ∧ (s.grid.ok = true) ∧ (s.pfc.st = 0) ∧ (s.dab.st = 0) ∧ ((clearStartFaults s).chargerBlocked = false) ∧ (s.pu 0x20 3 40 = 1)) ∧
    (∃ (s : State) (h : Fin 6), (s.fn 3 = true) ∧ (roleHso s ≠ some h) ∧ (h = relayHso s false) ∧ (h ≠ relayHso s true) ∧ (s.pfc.st = 1) ∧ (s.pfc.dir = 0) ∧ (s.pfc.preCmd = false) ∧ (s.pfc.mainCmd = true) ∧ (s.pfc.main = true)) ∧
    (∃ (s : State) (h : Fin 6), (s.fn 3 = true) ∧ (roleHso s ≠ some h) ∧ (h = relayHso s false) ∧ (h ≠ relayHso s true) ∧ (s.pfc.st = 1) ∧ (s.pfc.dir = 0) ∧ s.pfc.preCmd = true ∧ s.pfc.main = false) ∧
    (∃ (s : State) (h : Fin 6), (s.fn 3 = true) ∧ (roleHso s ≠ some h) ∧ (h = relayHso s false) ∧ (h ≠ relayHso s true) ∧ (s.pfc.st = 1) ∧ (s.pfc.dir = 0) ∧ s.pfc.preCmd = false ∧ s.pfc.main = true) ∧
    (∃ (s : State) (h : Fin 6), (s.fn 3 = true) ∧ (roleHso s ≠ some h) ∧ (h = relayHso s true) ∧ (s.pfc.mainCmd = true) ∧ s.pfc.st = 1 ∧ s.pfc.dir = 0 ∧ s.pfc.preCmd = true) ∧
    (∃ (s : State) (h : Fin 6), (s.fn 3 = true) ∧ (roleHso s ≠ some h) ∧ (h = relayHso s true) ∧ (s.pfc.mainCmd = true) ∧ s.pfc.st = 2 ∧ s.pfc.dir = 1 ∧ s.pfc.busOk = true) ∧
    (∃ (s : State) (v : Q) (ms : Nat), (s.pfc.st = 2) ∧ (s.pfc.busOk = false) ∧ (10 ≤ ms) ∧ (absQ (v - s.pfc.busRef) ≤ 10) ∧ s.pfc.dir = 0 ∧ s.pfc.busRef = busTarget s) ∧
    (∃ (s : State) (v : Q) (ms : Nat), (s.pfc.st = 2) ∧ (s.pfc.busOk = false) ∧ (10 ≤ ms) ∧ (absQ (v - s.pfc.busRef) ≤ 10) ∧ s.pfc.dir = 1 ∧ s.pfc.busRef = s.pf 0x50 0 32 ∧ ¬(s.chg.role = 3 ∧ s.chg.phase = 3) ∧ s.sup.acPresent = false) :=
  ⟨⟨{ (live .charge []) with grid := { (live .charge []).grid with ok := true } }, by decide +kernel⟩,
   ⟨live .charge [recFix 0x50 0 128 [(80, 0x3F800000), (84, 0x3F800000), (88, 0x3F800000)], recFix 3 0 16 [(4, 0x3F800000)]], by decide +kernel⟩,
   ⟨{ (live .charge [recFix 0x50 0 128 [(68, 0x0100)], recFix 0x60 0 108 [(0, 0xFF)]]) with pfc := { (inMode .charge).pfc with st := 1 } }, 0, by decide +kernel⟩,
   ⟨{ (live .charge [recFix 0x50 0 128 [(68, 0x0100)]]) with pfc := { (inMode .charge).pfc with st := 1, mainCmd := true } }, 1, by decide +kernel⟩,
   ⟨{ (live .charge [recFix 0x60 0 108 [(0, 3)]]) with chg := { (inMode .charge).chg with roleCmd := true } }, 3, true, by decide +kernel⟩,
   ⟨{ (inMode .charge) with pfc := { (inMode .charge).pfc with st := 1, pre := true } }, 0, by decide +kernel⟩,
   ⟨{ (inMode .charge) with pfc := { (inMode .charge).pfc with st := 2 } }, 0, 10, by decide +kernel⟩,
   ⟨live .charge [recFix 0x50 0 128 [(80, 0x3F800000), (84, 0x3F800000), (88, 0x3F800000)], recFix 3 0 16 [(4, 0x3F800000)]], by decide +kernel⟩,
   ⟨live .charge [recFix 0x50 0 128 [(80, 0x3F800000), (84, 0x3F800000), (88, 0x3F800000)], recFix 3 0 16 [(4, 0x3F800000)], recFix 0x20 3 64 [(40, 1)]], by decide +kernel⟩,
   ⟨{ (live .charge []) with grid := { (live .charge []).grid with ok := true } }, by decide +kernel⟩,
   ⟨{ (live .charge [recFix 0x20 3 64 [(40, 1)]]) with grid := { (live .charge []).grid with ok := true } }, by decide +kernel⟩,
   ⟨{ (live .charge [recFix 0x50 0 128 [(68, 0x0100)], recFix 0x60 0 108 [(0, 0xFF)]]) with pfc := { (inMode .charge).pfc with st := 1, mainCmd := true, main := true } }, 0, by decide +kernel⟩,
   ⟨{ (live .charge [recFix 0x50 0 128 [(68, 0x0100)], recFix 0x60 0 108 [(0, 0xFF)]]) with pfc := { (inMode .charge).pfc with st := 1, preCmd := true } }, 0, by decide +kernel⟩,
   ⟨{ (live .charge [recFix 0x50 0 128 [(68, 0x0100)], recFix 0x60 0 108 [(0, 0xFF)]]) with pfc := { (inMode .charge).pfc with st := 1, main := true } }, 0, by decide +kernel⟩,
   ⟨{ (live .charge [recFix 0x50 0 128 [(68, 0x0100)]]) with pfc := { (inMode .charge).pfc with mainCmd := true, st := 1, dir := 0, preCmd := true } }, 1, by decide +kernel⟩,
   ⟨{ (live .charge [recFix 0x50 0 128 [(68, 0x0100)]]) with pfc := { (inMode .charge).pfc with mainCmd := true, st := 2, dir := 1, busOk := true } }, 1, by decide +kernel⟩,
   ⟨{ (inMode .charge) with pfc := { (inMode .charge).pfc with st := 2 } }, 0, 10, by decide +kernel⟩,
   ⟨{ (inMode .charge) with pfc := { (inMode .charge).pfc with st := 2, dir := 1 } }, 0, 10, by decide +kernel⟩⟩

/-- The hypotheses of ChargerUpdates can be met. -/
theorem witness_ChargerUpdates :
    (∃ (s : State) (tr : Trig) (x : PfcIn) (y : PfcVals) (e : Q), (s.fn 3 = true) ∧ (pfcFires s tr = true) ∧ (s.pfc.st = 0) ∧ (s.dab.st = 0) ∧ (y = pfcVals s x) ∧ (e = divQ ((gridAB (noteHist y s) y).2 * cosA s.grid.theta - (gridAB (noteHist y s) y).1 * sinA s.grid.theta) (sqrtQ ((gridAB (noteHist y s) y).1 * (gridAB (noteHist y s) y).1 + (gridAB (noteHist y s) y).2 * (gridAB (noteHist y s) y).2)))) ∧
    (∃ (s : State) (tr : Trig) (x : PfcIn) (y : PfcVals), (s.fn 3 = true) ∧ (pfcFires s tr = true) ∧ (y = pfcVals s x) ∧ ((s.pfc.dir = 0 ∧ (s.pfc.st = 2 ∨ s.pfc.st = 3)) ∨ s.pfc.st = 4)) ∧
    (∃ (s : State) (tr : Trig) (x : PfcIn), (s.fn 3 = false ∨ pfcFires s tr = false)) ∧
    (∃ (s : State) (vw iw : SdWindow) (v i : Q), (v = (match sdSample s 4 vw with | some u => u * s.pf 0x50 1 12 | none => s.dab.vbus)) ∧ (i = (match sdSample s 4 iw with | some u => u * s.pf 0x50 1 4 | none => s.dab.ibat)) ∧ (s.fn 4 = true) ∧ (s.dab.st < 2) ∧ (s.dc.stale2 = false)) ∧
    (∃ (s : State) (vw iw : SdWindow) (v i : Q), (v = (match sdSample s 4 vw with | some u => u * s.pf 0x50 1 12 | none => s.dab.vbus)) ∧ (i = (match sdSample s 4 iw with | some u => u * s.pf 0x50 1 4 | none => s.dab.ibat)) ∧ (s.fn 4 = true) ∧ (s.dab.st = 2 ∨ s.dab.st = 3 ∨ s.dab.st = 4) ∧ (0 ≤ s.pf 0x50 1 48)) :=
  ⟨⟨live .charge [recFix 0x20 3 64 [(36, 1)]], .valley, pfcFix, _, _, by decide +kernel, by decide +kernel, by decide +kernel, by decide +kernel, rfl, rfl⟩,
   ⟨{ (live .charge [recFix 0x20 3 64 [(36, 1)]]) with pfc := { (live .charge []).pfc with st := 4, dir := 1 } }, .valley, pfcFix, _, by decide +kernel, by decide +kernel, rfl, by decide +kernel⟩,
   ⟨State.reset, .peak, pfcFix, by decide +kernel⟩,
   ⟨live .charge [], ⟨0, []⟩, ⟨0, []⟩, _, _, rfl, rfl, by decide +kernel, by decide +kernel, by decide +kernel⟩,
   ⟨{ (live .charge []) with dab := { (live .charge []).dab with st := 2 } }, ⟨0, []⟩, ⟨0, []⟩, _, _, rfl, rfl, by decide +kernel, by decide +kernel, by decide +kernel⟩⟩

/-- The hypotheses of LvStartStop can be met. -/
theorem witness_LvStartStop :
    (∃ (s : State) (v48 rs ls : Q) (us : Nat) (ring : Q) (boot : List (Chan × Q)), (s.fn 5 = true) ∧ (s.lvc.due = true) ∧ (s.lvReady = true)) ∧
    (∃ (s : State) (v48 rs ls : Q) (us : Nat) (ring : Q) (boot : List (Chan × Q)), (s.fn 5 = true) ∧ (s.lvc.due = false) ∧ (s.lvc.dcx = 1) ∧ (9 / 160 * s.vMin ≤ v48)) ∧
    (∃ (s : State) (rs ls : Q) (boot : List (Chan × Q)) (ms : Nat), (s.lvc.buck = 4) ∧ (200 ≤ ms) ∧ ((phases6 s).filter (fun n => !phaseBad s n) ≠ []) ∧ (s.remotePresent = false ∨ absQ (rs - ls) ≤ s.pf 0x58 1 72)) ∧
    (∃ (s : State) (rs ls : Q) (boot : List (Chan × Q)) (ms : Nat), (s.lvc.buck = 4) ∧ (200 ≤ ms) ∧ ((phases6 s).filter (fun n => !phaseBad s n) = [])) ∧
    (∃ (s : State), (s.sys.mode = .ready ∨ active 0x3801 noInst s = true ∨ active 0x3802 noInst s = true ∨ active 0x380A noInst s = true)) ∧
    (∃ (s : State), (s.fn 5 = true) ∧ (s.sys.mode = .convert ∨ s.sys.mode = .drive ∨ s.sys.mode = .charge ∨ (s.sys.mode = .safe ∧ (lvFaultStop s = true ∨ (s.cat.locked = true ∧ s.sys.dcInside = true ∧ s.sup.biasB = true)))) ∧ (s.lvReady = true)) ∧
    (∃ (s : State), (s.sys.mode = .ready ∨ active 0x3801 noInst s = true ∨ active 0x3802 noInst s = true ∨ active 0x380A noInst s = true) ∧ s.sys.mode = .ready) ∧
    (∃ (s : State), (s.sys.mode = .ready ∨ active 0x3801 noInst s = true ∨ active 0x3802 noInst s = true ∨ active 0x380A noInst s = true) ∧ s.sys.mode ≠ .ready) ∧
    (∃ (s : State) (v48 : Q) (k : Nat), s.lvc.dcx = 1 ∧ v48 < 9 / 160 * s.vMin ∧ s.pf 0x58 0 4 * 1000 + 5 ≤ k ∧ active 0x380A noInst s = false) ∧
    (∃ (s : State) (v48 : Q) (k : Nat), s.lvc.dcx = 2 ∧ s.pf 0x58 0 16 < v48 ∧ 50 ≤ k ∧ active 0x3801 noInst s = false) ∧
    (∃ (s : State) (v48 : Q) (k : Nat), s.lvc.dcx = 2 ∧ v48 < s.pf 0x58 0 12 ∧ 50 ≤ k ∧ active 0x3802 noInst s = false) :=
  ⟨⟨{ lvUp [] with lvc := { (lvUp []).lvc with due := true } }, 0, 0, 0, 0, 0, [], by decide +kernel⟩,
   ⟨{ lvUp [] with lvc := { (lvUp []).lvc with dcx := 1 } }, 0, 0, 0, 0, 0, [], by decide +kernel⟩,
   ⟨{ lvUp [recFix 0x58 1 92 [(0, 2), (68, 0xFFFF)]] with lvc := { (lvUp []).lvc with buck := 4 } }, 0, 0, [], 200, by decide +kernel⟩,
   ⟨{ lvUp [] with lvc := { (lvUp []).lvc with buck := 4 } }, 0, 0, [], 200, by decide +kernel⟩,
   ⟨live .ready [], by decide +kernel⟩,
   ⟨lvUp [], by decide +kernel⟩,
   ⟨live .ready [], by decide +kernel⟩,
   ⟨{ live .convert [] with faults := [{ code := 0x3801, inst := noInst, cls := 3, raises := 1, suppressed := 0 }] }, by decide +kernel⟩,
   ⟨{ live .convert [] with lvc := { (live .convert []).lvc with dcx := 1 }, dc := { (live .convert []).dc with dclT := 400, dclC := 400 } }, 1, 5, by decide +kernel⟩,
   ⟨{ live .convert [recFix 0x58 0 40 [(12, 0x42000000), (16, 0x42600000)]] with lvc := { (live .convert []).lvc with dcx := 2 } }, 60, 50, by decide +kernel⟩,
   ⟨{ live .convert [recFix 0x58 0 40 [(12, 0x42000000), (16, 0x42600000)]] with lvc := { (live .convert []).lvc with dcx := 2 } }, 10, 50, by decide +kernel⟩⟩

/-- The hypotheses of LvLoop can be met. -/
theorem witness_LvLoop :
    (∃ (s u : State) (n : Fin 6) (x : SlotIn), (s.lvc.buck = 2 ∨ s.lvc.buck = 3) ∧ (n ∈ s.lvc.act) ∧ (s.lvc.ovHold = false) ∧ (s.inResponse = false) ∧ (u = (if beginsPeriod s n then newPeriod x (respace s) else s)) ∧ (x.off = (slotPart u.lvc.slots n + u.lvc.slotD) * u.lvc.tPer) ∧ (0 ≤ u.lvc.tPer)) ∧
    (∃ (s : State) (n : Fin 6) (x : SlotIn), (s.lvc.buck = 2 ∨ s.lvc.buck = 3) ∧ (n ∈ s.lvc.act) ∧ (s.inResponse = true) ∧ ((∀ ns, x.sinceNs = some ns → (ns : Q) / 1000000000 < s.pf 0x58 1 80 + 1 / 1000000))) ∧
    (∃ (s : State) (n : Fin 6) (ft : Int) (i : Q), (s.lvc.buck = 2 ∨ s.lvc.buck = 3) ∧ (n ∈ s.lvc.act) ∧ ((s.gd.ch.get (buckLow n)).out = .on)) ∧
    (∃ (s : State) (rs ls : Q) (us : Nat), (s.lvc.buck = 2 ∨ s.lvc.buck = 3) ∧ (s.remotePresent = true) ∧ (s.lvc.fbLocal = false) ∧ (s.pf 0x58 1 72 < absQ (rs - ls)) ∧ (20 ≤ us)) ∧
    (∃ (s : State) (ls : Q) (ms : Nat), (s.lvc.buck = 3) ∧ (7 / 10 * vSet s ≤ ls) ∧ (1000 ≤ ms)) ∧
    (∃ (s u : State) (n : Fin 6) (x : SlotIn), (s.lvc.buck = 2 ∨ s.lvc.buck = 3) ∧ (n ∈ s.lvc.act) ∧ (s.lvc.ovHold = false) ∧ (s.inResponse = false) ∧ (u = (if beginsPeriod s n then newPeriod x (respace s) else s)) ∧ (x.off = (slotPart u.lvc.slots n + u.lvc.slotD) * u.lvc.tPer) ∧ (0 ≤ u.lvc.tPer) ∧ (beginsPeriod s n = true)) ∧
    (∃ (s u : State) (n : Fin 6) (x : SlotIn), (s.lvc.buck = 2 ∨ s.lvc.buck = 3) ∧ (n ∈ s.lvc.act) ∧ (s.lvc.ovHold = false) ∧ (s.inResponse = false) ∧ (u = (if beginsPeriod s n then newPeriod x (respace s) else s)) ∧ (x.off = (slotPart u.lvc.slots n + u.lvc.slotD) * u.lvc.tPer) ∧ (0 ≤ u.lvc.tPer) ∧ (beginsPeriod s n = false)) ∧
    (∃ (s : State) (n : Fin 6) (ft : Int) (i : Q), (s.lvc.buck = 2 ∨ s.lvc.buck = 3) ∧ (n ∈ s.lvc.act) ∧ ((s.gd.ch.get (buckLow n)).out = .on) ∧ (s.pf 0x58 1 40 < i)) ∧
    (∃ (s : State) (n : Fin 6) (ft : Int) (i : Q), (s.lvc.buck = 2 ∨ s.lvc.buck = 3) ∧ (n ∈ s.lvc.act) ∧ ((s.gd.ch.get (buckLow n)).out = .on) ∧ (i ≤ s.pf 0x58 1 40) ∧ ((if s.lvc.buck = 2 then 0 else -(s.pf 0x58 1 44)) < i) ∧ (n ∉ s.lvc.held)) ∧
    (∃ (s : State) (n : Fin 6) (ft : Int) (i : Q), (s.lvc.buck = 2 ∨ s.lvc.buck = 3) ∧ (n ∈ s.lvc.act) ∧ ((s.gd.ch.get (buckLow n)).out = .on) ∧ (i ≤ s.pf 0x58 1 40) ∧ ((if s.lvc.buck = 2 then 0 else -(s.pf 0x58 1 44)) < i) ∧ (n ∈ s.lvc.held) ∧ (ft ≤ 0)) ∧
    (∃ (s : State) (n : Fin 6) (ft : Int) (i : Q), (s.lvc.buck = 2 ∨ s.lvc.buck = 3) ∧ (n ∈ s.lvc.act) ∧ ((s.gd.ch.get (buckLow n)).out = .on) ∧ (i ≤ s.pf 0x58 1 40) ∧ ((if s.lvc.buck = 2 then 0 else -(s.pf 0x58 1 44)) < i) ∧ (n ∈ s.lvc.held) ∧ (0 < ft)) ∧
    (∃ (s : State) (n : Fin 6) (ft : Int) (i : Q), (s.lvc.buck = 2 ∨ s.lvc.buck = 3) ∧ (n ∈ s.lvc.act) ∧ ((s.gd.ch.get (buckLow n)).out = .on) ∧ (i ≤ s.pf 0x58 1 40) ∧ (i ≤ (if s.lvc.buck = 2 then 0 else -(s.pf 0x58 1 44)))) ∧
    (∃ (s : State) (v : Word), 10000 ≤ v.toNat % 65536 ∧ v.toNat % 65536 ≤ 16000 ∧ 1 ≤ v.toNat / 65536 % 4096 ∧ v.toNat / 65536 % 4096 ≤ 500) ∧
    (∃ (s : State) (v : Word), (v.toNat % 65536 < 10000 ∨ 16000 < v.toNat % 65536 ∨ v.toNat / 65536 % 4096 < 1 ∨ 500 < v.toNat / 65536 % 4096)) ∧
    (∃ (s : State), s.lvc.buck = 3) ∧
    (∃ (s : State), s.lvc.buck = 2) :=
  ⟨⟨{ lvUp [recFix 0x58 1 92 [(4, 0x3F800000)]] with lvc := { (lvUp []).lvc with buck := 3, act := [0], slots := [0] } }, _, 0, slotFix, by decide +kernel, by decide +kernel, by decide +kernel, by decide +kernel, rfl, by decide +kernel, by decide +kernel⟩,
   ⟨{ lvUp [recFix 0x58 1 92 [(80, 0x3F800000)]] with lvc := { (lvUp []).lvc with buck := 3, act := [0], resp := 1 } }, 0, { slotFix with sinceNs := some 1000000000 }, by decide +kernel, by decide +kernel, by decide +kernel, fun ns h => by cases h; decide +kernel⟩,
   ⟨{ lvUp [] with lvc := { (lvUp []).lvc with buck := 2, act := [0] }, gd := { State.reset.gd with ch := Tab.fill { GdChan.reset with out := .on } } }, 0, 5, 1, by decide +kernel⟩,
   ⟨{ live .convert [] with lvc := { (live .convert []).lvc with buck := 3 } }, 3, 1, 20, by decide +kernel⟩,
   ⟨{ live .convert [] with lvc := { (live .convert []).lvc with buck := 3 } }, 16, 1000, by decide +kernel⟩,
   ⟨{ lvUp [recFix 0x58 1 92 [(4, 0x3F800000)]] with lvc := { (lvUp []).lvc with buck := 3, act := [0], slots := [0] } }, _, 0, slotFix, by decide +kernel, by decide +kernel, by decide +kernel, by decide +kernel, rfl, by decide +kernel, by decide +kernel, by decide +kernel⟩,
   ⟨{ lvUp [recFix 0x58 1 92 [(4, 0x3F800000)]] with lvc := { (lvUp []).lvc with buck := 3, act := [0, 1], slots := [0, 1], tPer := 1 } }, _, 1, { slotFix with off := 1 / 2 }, by decide +kernel, by decide +kernel, by decide +kernel, by decide +kernel, rfl, by decide +kernel, by decide +kernel, by decide +kernel⟩,
   ⟨{ lvUp [] with lvc := { (lvUp []).lvc with buck := 2, act := [0] }, gd := { State.reset.gd with ch := Tab.fill { GdChan.reset with out := .on } } }, 0, 5, 1, by decide +kernel⟩,
   ⟨{ lvUp [recFix 0x58 1 92 [(40, 0x3F800000)]] with lvc := { (lvUp []).lvc with buck := 2, act := [0] }, gd := { State.reset.gd with ch := Tab.fill { GdChan.reset with out := .on } } }, 0, 5, 1, by decide +kernel⟩,
   ⟨{ lvUp [recFix 0x58 1 92 [(40, 0x3F800000)]] with lvc := { (lvUp []).lvc with buck := 2, act := [0], held := [0] }, gd := { State.reset.gd with ch := Tab.fill { GdChan.reset with out := .on } } }, 0, 0, 1, by decide +kernel⟩,
   ⟨{ lvUp [recFix 0x58 1 92 [(40, 0x3F800000)]] with lvc := { (lvUp []).lvc with buck := 2, act := [0], held := [0] }, gd := { State.reset.gd with ch := Tab.fill { GdChan.reset with out := .on } } }, 0, 1, 1, by decide +kernel⟩,
   ⟨{ lvUp [] with lvc := { (lvUp []).lvc with buck := 2, act := [0] }, gd := { State.reset.gd with ch := Tab.fill { GdChan.reset with out := .on } } }, 0, 5, 0, by decide +kernel⟩,
   ⟨live .convert [], 0x000A36B0#32, by decide +kernel⟩,
   ⟨live .convert [], 0x000A0000#32, by decide +kernel⟩,
   ⟨{ live .convert [] with lvc := { (live .convert []).lvc with buck := 3 } }, by decide +kernel⟩,
   ⟨{ live .convert [] with lvc := { (live .convert []).lvc with buck := 2 } }, by decide +kernel⟩⟩

/-- The hypotheses of LvTransients can be met. -/
theorem witness_LvTransients :
    (∃ (s : State) (ls : Q) (ms : Nat), (s.lvc.buck = 3) ∧ (ls < vSet s / 5) ∧ (5 ≤ ms)) ∧
    (∃ (s : State) (ls top : Q) (since : Option Nat), (judged s since = true) ∧ (ls < top - s.lvc.vref / 25)) ∧
    (∃ (s : State) (ls low : Q) (since : Option Nat), (judged s since = true) ∧ (low + s.lvc.vref / 25 < ls)) ∧
    (∃ (s : State) (ls : Q) (us : Nat), (s.lvc.buck = 2 ∨ s.lvc.buck = 3) ∧ (s.lvc.ovHold = false) ∧ (s.pf 0x58 1 84 < ls) ∧ (5 ≤ us)) ∧
    (∃ (s : State) (ls : Q), (s.lvc.ovHold = true) ∧ (ls < s.pf 0x58 1 84 - 1 / 2)) ∧
    (∃ (s : State) (ms : Nat), (s.lvc.ovHold = true) ∧ (10 ≤ ms)) ∧
    (∃ (s : State) (n : Fin 6), (n ∈ s.lvc.act) ∧ (phaseBad s n = true)) ∧
    (∃ (s : State) (ls : Q) (ms : Nat), (s.lvc.buck = 3) ∧ (ls < vSet s / 5) ∧ (5 ≤ ms) ∧ s.lvc.retries < 5) ∧
    (∃ (s : State) (ls : Q) (ms : Nat), (s.lvc.buck = 3) ∧ (ls < vSet s / 5) ∧ (5 ≤ ms) ∧ 5 ≤ s.lvc.retries) :=
  ⟨⟨{ live .convert [] with lvc := { (live .convert []).lvc with buck := 3, cmd := some (1, 14000) } }, 1, 5, by decide +kernel⟩,
   ⟨{ live .convert [] with lvc := { (live .convert []).lvc with buck := 3, act := [0, 1] } }, 1, 2, none, by decide +kernel⟩,
   ⟨{ live .convert [] with lvc := { (live .convert []).lvc with buck := 3, act := [0, 1] }, chg := { (live .convert []).chg with lvChg := true } }, 2, 1, none, by decide +kernel⟩,
   ⟨{ live .convert [] with lvc := { (live .convert []).lvc with buck := 3, act := [0, 1] } }, 1, 5, by decide +kernel⟩,
   ⟨{ live .convert [] with lvc := { (live .convert []).lvc with ovHold := true } }, -1, by decide +kernel⟩,
   ⟨{ live .convert [] with lvc := { (live .convert []).lvc with ovHold := true } }, 10, by decide +kernel⟩,
   ⟨{ live .convert [] with lvc := { (live .convert []).lvc with act := [0, 1] }, gd := { (live .convert []).gd with ch := Tab.fill { GdChan.reset with rb := true } } }, 1, by decide +kernel⟩,
   ⟨{ live .convert [] with lvc := { (live .convert []).lvc with buck := 3, cmd := some (1, 14000) } }, 1, 5, by decide +kernel⟩,
   ⟨{ live .convert [] with lvc := { (live .convert []).lvc with buck := 3, cmd := some (1, 14000), retries := 5 } }, 1, 5, by decide +kernel⟩⟩

/-- The hypotheses of ChargingInputs can be met. -/
theorem witness_ChargingInputs :
    (∃ (s : State) (x : List Q) (us k : Nat), (s.fn 9 = true) ∧ (s.sys.mode ≠ .ship) ∧ (s.sys.mode ≠ .off) ∧ (pilotState x = some k) ∧ ((if k = 4 ∨ k = 5 ∨ k = 6 then 1000 else 3000) ≤ us) ∧ (s.chg.phase = 0 ∨ s.chg.phase = 10 ∨ k = s.chg.cp)) ∧
    (∃ (s : State) (x : List Q) (us : Nat), (s.fn 9 = true) ∧ (s.sys.mode ≠ .ship) ∧ (s.sys.mode ≠ .off) ∧ ((∀ k, pilotState x = some k → us < (if k = 4 ∨ k = 5 ∨ k = 6 then 1000 else 3000)))) ∧
    (∃ (s : State) (x : List Q) (us k : Nat), (s.fn 9 = true) ∧ (s.sys.mode ≠ .ship) ∧ (s.sys.mode ≠ .off) ∧ (pilotState x = some k) ∧ ((if k = 4 ∨ k = 5 ∨ k = 6 then 1000 else 3000) ≤ us) ∧ (s.chg.phase ≠ 0) ∧ (s.chg.phase ≠ 10) ∧ (s.chg.role = 1) ∧ (k ≠ s.chg.cp)) ∧
    (∃ (s : State) (x1 x2 x3 : List Q), (s.fn 9 = true) ∧ (pilotFreq x3 ≠ 0) ∧ (absQ (pilotDuty x1 - pilotDuty x2) ≤ 1 / 2) ∧ (absQ (pilotDuty x2 - pilotDuty x3) ≤ 1 / 2) ∧ (absQ (pilotDuty x1 - pilotDuty x3) ≤ 1 / 2)) ∧
    (∃ (s : State) (v : Q) (us : Nat), (s.fn 9 = true) ∧ ((if ppCode v = 0 then 1000 else 3000) ≤ us)) ∧
    (∃ (s : State) (m : IsoMsg), (s.chg.path = 2 ∨ s.chg.path = 3) ∧ (s.chg.phase ≠ 0) ∧ (s.chg.phase ≠ 10)) ∧
    (∃ (s : State) (m : IsoMsg), (s.chg.path = 2 ∨ s.chg.path = 3) ∧ (s.chg.phase ≠ 0) ∧ (s.chg.phase ≠ 10) ∧ (isoOffered s m = false ∨ (isoOrder m ≠ 0 ∧ s.chg.isoStep + 1 < isoOrder m) ∨ (isoOrder m = 0 ∧ s.chg.isoStep < 3))) ∧
    (∃ (s : State) (m : IsoMsg), (s.chg.path = 2 ∨ s.chg.path = 3) ∧ (s.chg.phase ≠ 0) ∧ (s.chg.phase ≠ 10) ∧ (3 ≤ s.chg.isoStep)) ∧
    (∃ (s : State) (m : IsoMsg), (s.chg.path = 2 ∨ s.chg.path = 3) ∧ (s.chg.phase ≠ 0) ∧ (s.chg.phase ≠ 10) ∧ (3 ≤ s.chg.isoStep) ∧ (s.chg.phase ≠ 9)) ∧
    (∃ (s : State) (ms : Nat), (s.chg.phase = 2) ∧ (s.chg.isoStep < 3) ∧ (s.pf 0x60 0 64 * 1000 ≤ ms)) ∧
    (∃ (s : State) (ms : Nat), (s.chg.path = 3) ∧ (s.dab.ibat < 0) ∧ (s.chg.phase ≠ 0) ∧ (s.chg.phase ≠ 10) ∧ (s.vMin < s.pf 3 0 0)) ∧
    (∃ (s : State) (x : List Q) (us k : Nat), (s.fn 9 = true) ∧ (s.sys.mode ≠ .ship) ∧ (s.sys.mode ≠ .off) ∧ (pilotState x = some k) ∧ ((if k = 4 ∨ k = 5 ∨ k = 6 then 1000 else 3000) ≤ us) ∧ (s.chg.phase ≠ 0) ∧ (s.chg.phase ≠ 10) ∧ (s.chg.role = 1) ∧ (k ≠ s.chg.cp) ∧ (k = 0) ∧ (1 ≤ s.chg.pp) ∧ (s.chg.pp ≤ 4)) ∧
    (∃ (s : State) (x : List Q) (us k : Nat), (s.fn 9 = true) ∧ (s.sys.mode ≠ .ship) ∧ (s.sys.mode ≠ .off) ∧ (pilotState x = some k) ∧ ((if k = 4 ∨ k = 5 ∨ k = 6 then 1000 else 3000) ≤ us) ∧ (s.chg.phase ≠ 0) ∧ (s.chg.phase ≠ 10) ∧ (s.chg.role = 1) ∧ (k ≠ s.chg.cp) ∧ (k = 4 ∨ k = 5 ∨ k = 6)) ∧
    (∃ (s : State) (x : List Q) (us k : Nat), (s.fn 9 = true) ∧ (s.sys.mode ≠ .ship) ∧ (s.sys.mode ≠ .off) ∧ (pilotState x = some k) ∧ ((if k = 4 ∨ k = 5 ∨ k = 6 then 1000 else 3000) ≤ us) ∧ (s.chg.phase ≠ 0) ∧ (s.chg.phase ≠ 10) ∧ (s.chg.role = 1) ∧ (k ≠ s.chg.cp) ∧ (k = 3)) ∧
    (∃ (s : State) (x : List Q) (us k : Nat), (s.fn 9 = true) ∧ (s.sys.mode ≠ .ship) ∧ (s.sys.mode ≠ .off) ∧ (pilotState x = some k) ∧ ((if k = 4 ∨ k = 5 ∨ k = 6 then 1000 else 3000) ≤ us) ∧ (s.chg.phase ≠ 0) ∧ (s.chg.phase ≠ 10) ∧ (s.chg.role = 1) ∧ (k ≠ s.chg.cp) ∧ (k = 1) ∧ (s.chg.phase = 4 ∨ s.chg.phase = 5 ∨ s.chg.phase = 6)) ∧
    (∃ (s : State) (v : Q) (us : Nat), (s.fn 9 = true) ∧ ((if ppCode v = 0 then 1000 else 3000) ≤ us) ∧ (s.chg.phase = 0 ∨ s.chg.phase = 10 ∨ (ppCode v ≠ 0 ∧ (ppCode v ≠ 7 ∨ s.chg.role ≠ 1)))) ∧
    (∃ (s : State) (v : Q) (us : Nat), (s.fn 9 = true) ∧ ((if ppCode v = 0 then 1000 else 3000) ≤ us) ∧ s.chg.phase ≠ 0 ∧ s.chg.phase ≠ 10 ∧ (ppCode v = 0 ∨ (ppCode v = 7 ∧ s.chg.role = 1))) ∧
    (∃ (s : State) (ms : Nat), s.chg.phase = 3 ∧ s.chg.s2 = true ∧ s.grid.ok = false ∧ 10000 ≤ ms) :=
  ⟨⟨live .ready [], List.replicate 2000 9, 3000, 1, by decide +kernel⟩,
   ⟨live .ready [], List.replicate 1999 9, 3000, by decide +kernel, by decide +kernel, by decide +kernel, fun k h => by rw [show pilotState (List.replicate 1999 9) = none from by decide +kernel] at h; cases h⟩,
   ⟨{ live .charge [] with chg := { (live .charge []).chg with phase := 4, role := 1, pp := 1, cp := 2 } }, List.replicate 2000 12, 3000, 0, by decide +kernel⟩,
   ⟨live .ready [], pwmLine, pwmLine, pwmLine, by decide +kernel⟩,
   ⟨live .ready [], 2, 3000, by decide +kernel⟩,
   ⟨{ live .charge [] with chg := { (live .charge []).chg with phase := 4, role := 1, path := 2 } }, .sessionSetup, by decide +kernel⟩,
   ⟨{ live .charge [] with chg := { (live .charge []).chg with phase := 4, role := 1, path := 2, isoStep := 0 } }, .tlsUp true 0, by decide +kernel⟩,
   ⟨{ live .charge [] with chg := { (live .charge []).chg with phase := 4, role := 1, path := 2, isoStep := 3 } }, .powerDeliveryStart, by decide +kernel⟩,
   ⟨{ live .charge [] with chg := { (live .charge []).chg with phase := 4, role := 1, path := 3, isoStep := 3 } }, .powerDeliveryStart, by decide +kernel⟩,
   ⟨{ live .charge [] with chg := { (live .charge []).chg with phase := 2 } }, 0, by decide +kernel⟩,
   ⟨{ live .charge [recFix 3 0 16 [(0, 0x43C80000)]] with chg := { (live .charge []).chg with phase := 4, path := 3 }, dab := { (live .charge []).dab with ibat := -1 } }, 0, by decide +kernel⟩,
   ⟨{ live .charge [] with chg := { (live .charge []).chg with phase := 4, role := 1, pp := 1, cp := 2 } }, List.replicate 2000 12, 3000, 0, by decide +kernel⟩,
   ⟨{ live .charge [] with chg := { (live .charge []).chg with phase := 4, role := 1, pp := 1, cp := 2 } }, List.replicate 2000 0, 1000, 4, by decide +kernel⟩,
   ⟨{ live .charge [] with chg := { (live .charge []).chg with phase := 4, role := 1, pp := 1, cp := 2 } }, List.replicate 2000 3, 3000, 3, by decide +kernel⟩,
   ⟨{ live .charge [] with chg := { (live .charge []).chg with phase := 4, role := 1, pp := 1, cp := 2 } }, List.replicate 2000 9, 3000, 1, by decide +kernel⟩,
   ⟨live .ready [], 2, 3000, by decide +kernel⟩,
   ⟨{ live .charge [] with chg := { (live .charge []).chg with phase := 4, role := 1 } }, 5, 3000, by decide +kernel⟩,
   ⟨{ live .charge [] with chg := { (live .charge []).chg with phase := 3, s2 := true } }, 10000, by decide +kernel⟩⟩

/-- The hypotheses of ChargingSessions can be met. -/
theorem witness_ChargingSessions :
    (∃ (s : State) (m : Q), (s.fn 9 = true) ∧ (pairRunning s .europa = true) ∧ (requestedRole s = 0) ∧ (s.chg.phase = 0 ∨ s.chg.phase = 10)) ∧
    (∃ (s : State) (m : Q), (s.fn 9 = true) ∧ (pairRunning s .europa = true) ∧ (requestedRole s = 1) ∧ (s.connected = true) ∧ (s.chg.phase = 0 ∨ s.chg.phase = 10) ∧ (s.chg.used = false) ∧ (startOk s = true) ∧ (s.chg.cp = 1) ∧ (s.bmsValid = true)) ∧
    (∃ (s : State) (m : Q), (s.fn 9 = true) ∧ (pairRunning s .europa = true) ∧ (requestedRole s = 1) ∧ (s.connected = true) ∧ (s.chg.phase = 4) ∧ (s.chg.role = 1) ∧ (s.chg.path = 1) ∧ (s.chg.isoStop = false) ∧ (s.dab.st = 2) ∧ (s.bmsLimits.2.2 = false) ∧ (s.chg.pulseEnd = false) ∧ (s.veh.req.testBit 0 = true) ∧ (((s.chg.timer + 100 : Nat) : Q) < s.pf 0x60 0 52 * 1000)) ∧
    (∃ (s : State) (i : Q) (ms : Nat), (s.chg.phase = 6) ∧ (s.chg.pulsing = true) ∧ (s.pf 0x60 0 44 * 1000 ≤ ms) ∧ (s.chg.pulses < s.pu 0x60 0 36)) ∧
    (∃ (s : State) (i : Q) (ms : Nat), (s.chg.phase = 6) ∧ (s.chg.pulsing = false) ∧ (s.chg.pulseEnd = false) ∧ (s.pf 0x60 0 48 * 1000 ≤ ms)) ∧
    (∃ (s : State) (code ms : Nat), (s.chg.restartFor = some code) ∧ (s.chg.phase = 7) ∧ (s.pf 0x60 0 60 * 1000 ≤ ms) ∧ ((if code = 0x3004 ∨ code = 0x3005 then s.grid.ok && s.grid.lock else s.bmsValid) = true)) ∧
    (∃ (s : State) (ms : Nat), (s.chg.lvChg = true) ∧ (s.pf 0x60 0 88 * 1000 ≤ ms) ∧ (4 ≤ s.chg.phase ∧ s.chg.phase ≤ 7)) ∧
    (∃ (s : State) (m : Q), (s.fn 9 = true) ∧ (pairRunning s .europa = true) ∧ (requestedRole s = 1) ∧ (s.connected = true) ∧ (s.chg.phase = 6) ∧ (s.chg.role = 1) ∧ (s.bmsLimits.2.2 = false) ∧ (s.chg.pulseEnd = true) ∧ (((s.chg.timer + 100 : Nat) : Q) < s.pf 0x60 0 52 * 1000)) ∧
    (∃ (s : State) (i : Q) (ms : Nat), (s.chg.phase = 6) ∧ (s.chg.pulsing = true) ∧ (s.pf 0x60 0 44 * 1000 ≤ ms) ∧ (s.chg.pulses < s.pu 0x60 0 36) ∧ s.pf 0x60 0 28 * s.pf 0x60 0 40 ≤ i) ∧
    (∃ (s : State) (i : Q) (ms : Nat), (s.chg.phase = 6) ∧ (s.chg.pulsing = true) ∧ (s.pf 0x60 0 44 * 1000 ≤ ms) ∧ (s.chg.pulses < s.pu 0x60 0 36) ∧ i < s.pf 0x60 0 28 * s.pf 0x60 0 40 ∧ s.chg.below = 0) ∧
    (∃ (s : State) (i : Q) (ms : Nat), (s.chg.phase = 6) ∧ (s.chg.pulsing = true) ∧ (s.pf 0x60 0 44 * 1000 ≤ ms) ∧ (s.chg.pulses < s.pu 0x60 0 36) ∧ i < s.pf 0x60 0 28 * s.pf 0x60 0 40 ∧ 1 ≤ s.chg.below) :=
  ⟨⟨live .ready [], 0, by decide +kernel⟩,
   ⟨parked { live .ready [recFix 3 0 16 [(8, 0x3F800000)], recFix 0x80 3 32 [(0, 1)]] with chg := { (live .ready []).chg with pp := 1, cp := 1 }, veh := { (live .ready []).veh with mode := some 0, req := 1, bms := some (1, 1, false) } }, 0, by decide +kernel⟩,
   ⟨{ live .charge [recFix 0x60 0 108 [(52, 0x461C4000)]] with chg := { (live .charge []).chg with phase := 4, role := 1, path := 1, pp := 1, duty := some 50 }, dab := { (live .charge []).dab with st := 2 }, veh := { (live .charge []).veh with mode := some 0, req := 1, bms := some (1, 1, false) } }, 0, by decide +kernel⟩,
   ⟨{ live .charge [recFix 0x60 0 108 [(28, 0x3F800000), (36, 3), (40, 0x3F800000)]] with chg := { (live .charge []).chg with phase := 6, pulsing := true } }, 2, 0, by decide +kernel⟩,
   ⟨{ live .charge [] with chg := { (live .charge []).chg with phase := 6 } }, 0, 0, by decide +kernel⟩,
   ⟨{ live .charge [] with chg := { (live .charge []).chg with phase := 7, role := 2, restartFor := some 0x3001 }, veh := { (live .charge []).veh with bms := some (0, 0, false) } }, 0x3001, 0, by decide +kernel⟩,
   ⟨{ live .charge [] with chg := { (live .charge []).chg with phase := 4, lvChg := true } }, 0, by decide +kernel⟩,
   ⟨{ live .charge [recFix 0x60 0 108 [(52, 0x461C4000)]] with chg := { (live .charge []).chg with phase := 6, role := 1, pulseEnd := true, path := 1, pp := 1, duty := some 50 }, dab := { (live .charge []).dab with st := 2 }, veh := { (live .charge []).veh with mode := some 0, req := 1, bms := some (1, 1, false) } }, 0, by decide +kernel⟩,
   ⟨{ live .charge [recFix 0x60 0 108 [(28, 0x3F800000), (36, 3), (40, 0x3F800000)]] with chg := { (live .charge []).chg with phase := 6, pulsing := true } }, 2, 0, by decide +kernel⟩,
   ⟨{ live .charge [recFix 0x60 0 108 [(28, 0x3F800000), (36, 3), (40, 0x3F800000)]] with chg := { (live .charge []).chg with phase := 6, pulsing := true } }, 0, 0, by decide +kernel⟩,
   ⟨{ live .charge [recFix 0x60 0 108 [(28, 0x3F800000), (36, 3), (40, 0x3F800000)]] with chg := { (live .charge []).chg with phase := 6, pulsing := true, below := 1 } }, 0, 0, by decide +kernel⟩⟩

/-- The hypotheses of ActuatorMoves can be met. -/
theorem witness_ActuatorMoves :
    (∃ (s : State) (a : Act) (ms : Nat), ((s.act.get a).phase = .braking) ∧ ((s.act.get a).why = .reached) ∧ (s.pf 0x78 a.num 56 * 1000 ≤ (ms : Q))) ∧
    (∃ (s : State) (a : Act) (ms : Nat), ((s.act.get a).phase = .braking) ∧ (s.pf 0x78 a.num 56 * 1000 ≤ (ms : Q))) ∧
    (∃ (s : State) (a : Act) (ms : Nat), ((s.act.get a).phase = .moving ∨ (s.act.get a).phase = .backing) ∧ (0 < (s.act.get a).d) ∧ (s.pf 0x78 a.num 40 * 1000 ≤ (ms : Q))) ∧
    (∃ (s : State) (a : Act) (ms : Nat), ((s.act.get a).seq ≠ 0) ∧ (s.pf 0x78 a.num 44 * 1000 < (ms : Q))) ∧
    (∃ (s : State) (a : Act) (v : Q) (ms : Nat), ((s.act.get a).seq ≠ 0) ∧ (v < s.pf 0x78 a.num 92) ∧ (10 ≤ ms)) ∧
    (∃ (s : State) (a : Act) (i : Q) (h l : Nat), ((s.act.get a).comm = .drive h l) ∧ ((s.pwm.get a.grp).running = true) ∧ (s.pf 0x78 a.num 24 < i) ∧ ((s.act.get a).cut = false)) ∧
    (∃ (s : State) (ms : Nat), ((s.act.get .shift).phase = .awaiting) ∧ ((s.act.get .shift).seq ≠ 0) ∧ (s.pf 0x78 1 84 * 1000 ≤ (ms : Q))) ∧
    (∃ (s : State) (ms : Nat), (((s.act.get .park).phase = .awaiting ∧ (s.act.get .park).seq ≠ 0 ∧ si3Confirms s = false ∧ s.pf 0x78 0 84 * 1000 ≤ (ms : Q)) ∨ ((s.act.get .park).phase = .idle ∧ ((s.act.get .park).held = 2 ∧ s.si3Eng = false ∨ (s.act.get .park).held = 1 ∧ s.si3Rel = false) ∧ s.pf 0x78 0 84 * 1000 < (ms : Q)))) ∧
    (∃ (s : State) (a : Act) (ms : Nat), ((s.act.get a).phase = .braking) ∧ ((s.act.get a).why = .reached) ∧ (s.pf 0x78 a.num 56 * 1000 ≤ (ms : Q)) ∧ (within s a (actPos s a) (s.act.get a).target = true) ∧ (a = .park) ∧ (0 ≤ s.pf 0x78 0 84)) ∧
    (∃ (s : State) (a : Act) (ms : Nat), ((s.act.get a).phase = .braking) ∧ (s.pf 0x78 a.num 56 * 1000 ≤ (ms : Q)) ∧ ((s.act.get a).why = .giveUp 0x5001)) ∧
    (∃ (s : State) (a : Act) (ms : Nat), ((s.act.get a).phase = .braking) ∧ ((s.act.get a).why = .reached) ∧ (s.pf 0x78 a.num 56 * 1000 ≤ (ms : Q)) ∧ within s a (actPos s a) (s.act.get a).target = false ∧ (s.act.get a).retries < s.pu 0x78 a.num 48) ∧
    (∃ (s : State) (a : Act) (ms : Nat), ((s.act.get a).phase = .braking) ∧ ((s.act.get a).why = .reached) ∧ (s.pf 0x78 a.num 56 * 1000 ≤ (ms : Q)) ∧ within s a (actPos s a) (s.act.get a).target = false ∧ s.pu 0x78 a.num 48 ≤ (s.act.get a).retries) ∧
    (∃ (s : State) (a : Act) (ms : Nat), ((s.act.get a).phase = .braking) ∧ ((s.act.get a).why = .reached) ∧ (s.pf 0x78 a.num 56 * 1000 ≤ (ms : Q)) ∧ within s a (actPos s a) (s.act.get a).target = true ∧ a = .park) ∧
    (∃ (s : State) (a : Act) (ms : Nat), ((s.act.get a).phase = .braking) ∧ ((s.act.get a).why = .reached) ∧ (s.pf 0x78 a.num 56 * 1000 ≤ (ms : Q)) ∧ within s a (actPos s a) (s.act.get a).target = true ∧ a = .shift) ∧
    (∃ (s : State) (a : Act) (ms : Nat), ((s.act.get a).phase = .braking) ∧ (s.pf 0x78 a.num 56 * 1000 ≤ (ms : Q)) ∧ (s.act.get a).why = .stall) ∧
    (∃ (s : State) (a : Act) (ms : Nat), ((s.act.get a).phase = .braking) ∧ (s.pf 0x78 a.num 56 * 1000 ≤ (ms : Q)) ∧ (s.act.get a).why = .supersede) ∧
    (∃ (s : State) (a : Act) (ms : Nat), ((s.act.get a).phase = .braking) ∧ (s.pf 0x78 a.num 56 * 1000 ≤ (ms : Q)) ∧ (s.act.get a).why = .hall) ∧
    (∃ (s : State) (a : Act) (ms : Nat), ((s.act.get a).phase = .moving ∨ (s.act.get a).phase = .backing) ∧ (0 < (s.act.get a).d) ∧ (s.pf 0x78 a.num 40 * 1000 ≤ (ms : Q)) ∧ ((s.act.get a).ref = none ∧ (s.act.get a).crossed = false)) ∧
    (∃ (s : State) (a : Act) (ms : Nat), ((s.act.get a).phase = .moving ∨ (s.act.get a).phase = .backing) ∧ (0 < (s.act.get a).d) ∧ (s.pf 0x78 a.num 40 * 1000 ≤ (ms : Q)) ∧ ¬((s.act.get a).ref = none ∧ (s.act.get a).crossed = false) ∧ s.pu 0x78 a.num 48 ≤ (s.act.get a).retries) ∧
    (∃ (s : State) (a : Act) (ms : Nat), ((s.act.get a).phase = .moving ∨ (s.act.get a).phase = .backing) ∧ (0 < (s.act.get a).d) ∧ (s.pf 0x78 a.num 40 * 1000 ≤ (ms : Q)) ∧ ¬((s.act.get a).ref = none ∧ (s.act.get a).crossed = false) ∧ (s.act.get a).retries < s.pu 0x78 a.num 48) ∧
    (∃ (s : State) (ms : Nat), ((s.act.get .shift).phase = .awaiting) ∧ ((s.act.get .shift).seq ≠ 0) ∧ (s.pf 0x78 1 84 * 1000 ≤ (ms : Q)) ∧ (s.act.get .shift).seq = 2) ∧
    (∃ (s : State) (ms : Nat), ((s.act.get .shift).phase = .awaiting) ∧ ((s.act.get .shift).seq ≠ 0) ∧ (s.pf 0x78 1 84 * 1000 ≤ (ms : Q)) ∧ (s.act.get .shift).seq ≠ 2) :=
  ⟨⟨{ live .drive [] with act := Tab.fill { (State.reset.act.get .park) with phase := .braking, why := .reached } }, .park, 0, by decide +kernel⟩,
   ⟨{ live .drive [] with act := Tab.fill { (State.reset.act.get .park) with phase := .braking, why := .hall } }, .park, 0, by decide +kernel⟩,
   ⟨{ live .drive [] with act := Tab.fill { (State.reset.act.get .park) with phase := .moving, d := 1 } }, .park, 0, by decide +kernel⟩,
   ⟨{ live .drive [] with act := Tab.fill { (State.reset.act.get .park) with seq := 1 } }, .shift, 1, by decide +kernel⟩,
   ⟨{ live .drive [] with act := Tab.fill { (State.reset.act.get .park) with seq := 1 } }, .shift, -1, 10, by decide +kernel⟩,
   ⟨{ live .drive [] with pwm := Tab.fill { (State.reset.pwm.get 8) with running := true }, act := Tab.fill { State.reset.act.get .park with comm := .drive 0 1 } }, .park, 1, 0, 1, by decide +kernel⟩,
   ⟨{ live .drive [] with act := Tab.fill { (State.reset.act.get .park) with phase := .awaiting, seq := 2 } }, 0, by decide +kernel⟩,
   ⟨{ live .drive [] with act := Tab.fill { (State.reset.act.get .park) with held := 2 } }, 1, by decide +kernel⟩,
   ⟨{ live .drive [] with act := Tab.fill { (State.reset.act.get .park) with phase := .braking, why := .reached, ref := some 0 } }, .park, 0, by decide +kernel⟩,
   ⟨{ live .drive [] with act := Tab.fill { (State.reset.act.get .park) with phase := .braking, why := .giveUp 0x5001 } }, .park, 0, by decide +kernel⟩,
   ⟨{ live .drive [recFix 0x78 0 100 [(48, 1)]] with act := Tab.fill { (State.reset.act.get .park) with phase := .braking, why := .reached, target := 5 } }, .park, 0, by decide +kernel⟩,
   ⟨{ live .drive [] with act := Tab.fill { (State.reset.act.get .park) with phase := .braking, why := .reached, target := 5 } }, .park, 0, by decide +kernel⟩,
   ⟨{ live .drive [] with act := Tab.fill { (State.reset.act.get .park) with phase := .braking, why := .reached } }, .park, 0, by decide +kernel⟩,
   ⟨{ live .drive [] with act := Tab.fill { (State.reset.act.get .park) with phase := .braking, why := .reached } }, .shift, 0, by decide +kernel⟩,
   ⟨{ live .drive [] with act := Tab.fill { (State.reset.act.get .park) with phase := .braking, why := .stall } }, .park, 0, by decide +kernel⟩,
   ⟨{ live .drive [] with act := Tab.fill { (State.reset.act.get .park) with phase := .braking, why := .supersede } }, .park, 0, by decide +kernel⟩,
   ⟨{ live .drive [] with act := Tab.fill { (State.reset.act.get .park) with phase := .braking, why := .hall } }, .park, 0, by decide +kernel⟩,
   ⟨{ live .drive [] with act := Tab.fill { (State.reset.act.get .park) with phase := .moving, d := 1 } }, .park, 0, by decide +kernel⟩,
   ⟨{ live .drive [] with act := Tab.fill { (State.reset.act.get .park) with phase := .moving, d := 1, ref := some 0 } }, .park, 0, by decide +kernel⟩,
   ⟨{ live .drive [recFix 0x78 0 100 [(48, 1)]] with act := Tab.fill { (State.reset.act.get .park) with phase := .moving, d := 1, ref := some 0 } }, .park, 0, by decide +kernel⟩,
   ⟨{ live .drive [] with act := Tab.fill { (State.reset.act.get .park) with phase := .awaiting, seq := 2 } }, 0, by decide +kernel⟩,
   ⟨{ live .drive [] with act := Tab.fill { (State.reset.act.get .park) with phase := .awaiting, seq := 3 } }, 0, by decide +kernel⟩⟩

/-- The hypotheses of ActuatorRequests can be met. -/
theorem witness_ActuatorRequests :
    (∃ (s : State) (src : ReqSrc), (srcWaits src (decide (s.veh.parkNew = 1)) = true) ∧ (s.fn 7 = true) ∧ (srcAllowed s src 0xF400 = true) ∧ (s.sys.mode = .ready ∨ s.sys.mode = .convert ∨ s.sys.mode = .drive) ∧ (belowGate s .park = true) ∧ (s.shiftRunning = false) ∧ ((s.act.get .park).seq ≠ 1) ∧ (s.pf 0x78 0 92 ≤ (s.act.get .park).vs)) ∧
    (∃ (s : State) (src : ReqSrc), (srcWaits src (decide (s.veh.parkNew = 2)) = true) ∧ (s.fn 7 = true) ∧ (srcAllowed s src 0xF401 = true) ∧ (s.sys.mode = .drive) ∧ (s.si3Eng = true ∨ s.actPosCode .park = 0) ∧ ((s.act.get .park).seq = 0) ∧ (s.shiftRunning = false) ∧ (s.pf 0x78 0 92 ≤ (s.act.get .park).vs)) ∧
    (∃ (s : State) (src : ReqSrc) (n : Nat), (srcWaits src (decide (s.veh.shiftNew = n)) = true) ∧ (s.fn 8 = true) ∧ (1 ≤ n ∧ n ≤ 3) ∧ (srcAllowed s src 0xF402 = true) ∧ (s.sys.mode = .drive) ∧ (s.si3Rel = true) ∧ (s.siDemand 3 = false) ∧ (s.parkRunning = false) ∧ (belowGate s .shift = true) ∧ ((s.act.get .shift).seq = 0) ∧ (s.pf 0x78 1 92 ≤ (s.act.get .shift).vs)) ∧
    (∃ (s : State) (src : ReqSrc), (srcWaits src (decide (s.veh.parkNew = 1)) = true)) ∧
    (∃ (s : State) (src : ReqSrc), (srcWaits src (decide (s.veh.parkNew = 1)) = true) ∧ (s.fn 7 = true) ∧ (srcAllowed s src 0xF400 = true) ∧ (s.sys.mode = .ready ∨ s.sys.mode = .convert ∨ s.sys.mode = .drive) ∧ (belowGate s .park = true) ∧ (s.shiftRunning = false) ∧ ((s.act.get .park).seq ≠ 1) ∧ (s.pf 0x78 0 92 ≤ (s.act.get .park).vs) ∧ ((s.act.get .park).seq = 2)) ∧
    (∃ (s : State) (src : ReqSrc), (srcWaits src (decide (s.veh.parkNew = 1)) = true) ∧ (s.fn 7 = true) ∧ (srcAllowed s src 0xF400 = true) ∧ (s.sys.mode = .ready ∨ s.sys.mode = .convert ∨ s.sys.mode = .drive) ∧ (belowGate s .park = true) ∧ (s.shiftRunning = false) ∧ ((s.act.get .park).seq ≠ 1) ∧ (s.pf 0x78 0 92 ≤ (s.act.get .park).vs) ∧ ((s.act.get .park).seq ≠ 2)) ∧
    (∃ (s : State) (src : ReqSrc), (srcWaits src (decide (s.veh.parkNew = 1)) = true) ∧ (s.fn 7 = false ∨ (srcAllowed s src 0xF400 = true ∧ (belowGate s .park = false ∨ s.shiftRunning = true ∨ (s.act.get .park).seq = 1 ∨ (s.act.get .park).vs < s.pf 0x78 0 92 ∨ (s.sys.mode ≠ .ready ∧ s.sys.mode ≠ .convert ∧ s.sys.mode ≠ .drive))))) ∧
    (∃ (s : State) (src : ReqSrc), (srcWaits src (decide (s.veh.parkNew = 1)) = true) ∧ s.fn 7 = true ∧ s.udsServed .can1 = true ∧ s.routineNrc .can1 0xF400 ≠ 0) ∧
    (∃ (s : State) (src : ReqSrc) (n : Nat), srcWaits src (decide (s.veh.parkNew = 2)) = true ∧ s.fn 7 = true ∧ srcAllowed s src 0xF401 = true ∧ (s.sys.mode ≠ .drive ∨ (s.act.get .park).seq ≠ 0 ∨ s.shiftRunning = true ∨ (s.act.get .park).vs < s.pf 0x78 0 92)) ∧
    (∃ (s : State) (src : ReqSrc) (n : Nat), srcWaits src (decide (s.veh.shiftNew = n)) = true ∧ s.fn 8 = true ∧ (1 ≤ n ∧ n ≤ 3) ∧ srcAllowed s src 0xF402 = true ∧ (s.sys.mode ≠ .drive ∨ s.siDemand 3 = true ∨ s.parkRunning = true ∨ belowGate s .shift = false ∨ (s.act.get .shift).vs < s.pf 0x78 1 92)) :=
  ⟨⟨{ live .ready [recFix 0x78 0 100 [(80, 0x3F800000)]] with veh := { (live .ready []).veh with parkNew := 1 } }, .msg, by decide +kernel⟩,
   ⟨parked { live .drive [recFix 1 0 16 [(8, 0x80)]] with veh := { (live .ready []).veh with parkNew := 2 } }, .msg, by decide +kernel⟩,
   ⟨released { live .drive [recFix 0x78 1 100 [(80, 0x3F800000)]] with veh := { (live .ready []).veh with shiftNew := 1 } }, .msg, 1, by decide +kernel⟩,
   ⟨udsIn .ready 1 0 [recFix 1 0 16 [(8, 0x80)], recFix 0xA0 0 32 [(12, 0x7E0)]], .uds .can1, by decide +kernel⟩,
   ⟨{ live .ready [recFix 0x78 0 100 [(80, 0x3F800000)]] with veh := { (live .ready []).veh with parkNew := 1 }, act := State.reset.act.upd .park (fun x => { x with seq := 2 }) }, .msg, by decide +kernel⟩,
   ⟨{ live .ready [recFix 0x78 0 100 [(80, 0x3F800000)]] with veh := { (live .ready []).veh with parkNew := 1 } }, .msg, by decide +kernel⟩,
   ⟨{ live .ready [] with veh := { (live .ready []).veh with parkNew := 1 } }, .msg, by decide +kernel⟩,
   ⟨udsIn .ready 1 0 [recFix 1 0 16 [(8, 0x80)], recFix 0xA0 0 32 [(12, 0x7E0)]], .uds .can1, by decide +kernel⟩,
   ⟨{ live .ready [recFix 1 0 16 [(8, 0x80)]] with veh := { (live .ready []).veh with parkNew := 2 } }, .msg, 0, by decide +kernel⟩,
   ⟨{ live .ready [recFix 1 0 16 [(8, 0x100)]] with veh := { (live .ready []).veh with shiftNew := 1 } }, .msg, 1, by decide +kernel⟩⟩

/-- The hypotheses of ThermalRounds can be met. -/
theorem witness_ThermalRounds :
    (∃ (s : State) (l : List HkReading), (s.xtalOk = true) ∧ (s.cat.locked = true) ∧ (refBad (withSense s l) = []) ∧ (((withSense s l).map (·.slot)).Nodup)) ∧
    (∃ (s : State) (l : List HkReading), (s.xtalOk = true) ∧ (s.cat.locked = true) ∧ (refBad (withSense s l) ≠ [])) ∧
    (∃ (s : State) (l : List (Fin 96)), (s.xtalOk = true) ∧ (s.thm.counted = false) ∧ ((∃ n ∈ l, s.senseReading n = none))) ∧
    (∃ (s : State) (l : List HkReading), (s.xtalOk = true) ∧ (s.cat.locked = false) ∧ (refBad (withSense s l) = []) ∧ (((withSense s l).map (·.slot)).Nodup)) ∧
    (∃ (s : State) (l : List HkReading) (ns : List (Fin 96)), (s.xtalOk = false)) ∧
    (∃ (s : State) (l : List HkReading) (ns : List (Fin 96)), (s.xtalOk = true) ∧ (s.thm.counted = true)) ∧
    (∃ (s : State) (l : List (Fin 96)), (s.xtalOk = true) ∧ (s.thm.counted = false) ∧ ((∃ n ∈ l, s.senseReading n = none)) ∧ (5 ∈ l) ∧ (s.senseReading 5 = none) ∧ (2 ≤ (s.thm.slots.get 5).run)) :=
  ⟨⟨live .drive [recFix 0x70 0 64 []], [{ slot := 5, a := 1, b := 2 }], by decide +kernel⟩,
   ⟨{ withRecs [] with mer := { State.reset.mer with xtalAcc := true } }, [{ slot := 95, a := Config.refNominal 95 + absQ (Config.refNominal 95) + 1, b := 2 }], by decide +kernel, by decide +kernel, by
    have h : (1 : Q) / 50 * absQ (Config.refNominal 95) < absQ (Config.refNominal 95 + absQ (Config.refNominal 95) + 1 - Config.refNominal 95) := by
      unfold absQ
      split <;> split <;> linarith
    have r : withSense { withRecs [] with mer := { State.reset.mer with xtalAcc := true } } [{ slot := 95, a := Config.refNominal 95 + absQ (Config.refNominal 95) + 1, b := 2 }] = [{ slot := 95, a := Config.refNominal 95 + absQ (Config.refNominal 95) + 1, b := 2 }] := by rfl
    rw [r]
    unfold refBad
    rw [List.filter_cons_of_pos (by simp only [Bool.and_eq_true, decide_eq_true_eq]; exact ⟨by decide, h⟩)]
    simp⟩,
   ⟨live .drive [], [5], by decide +kernel⟩,
   ⟨{ State.reset with mer := { State.reset.mer with xtalAcc := true } }, [{ slot := 5, a := 1, b := 2 }], by decide +kernel⟩,
   ⟨State.reset, [], [], by decide +kernel⟩,
   ⟨{ live .drive [] with thm := { (live .drive []).thm with counted := true } }, [], [], by decide +kernel⟩,
   ⟨{ live .drive [] with thm := { (live .drive []).thm with slots := (live .drive []).thm.slots.upd 5 (fun x => { x with run := 2 }) } }, [5], by decide +kernel⟩⟩

/-- The hypotheses of SafetyInputs can be met. -/
theorem witness_SafetyInputs :
    (∃ (s : State) (n : SiN) (ch : Side) (d : Bool) (us : Q) (at_ : Nat), (s.saf.evaluating = true) ∧ (s.cuUsed n = true) ∧ ((match ch with | .a => (s.saf.si.get n).a | .b => (s.saf.si.get n).b) ≠ { accepted := true, demand := d }) ∧ ((s.cu n 4 : Q) ≤ us) ∧ ((match (s.saf.si.get n).openAt with | some t => decide (at_ - t ≤ discTicks s n) | none => true) = true)) ∧
    (∃ (s : State) (n : SiN) (ch : Side) (d : Bool) (us : Q) (at_ : Nat), (s.saf.evaluating = false ∨ s.cuUsed n = false ∨ (match ch with | .a => (s.saf.si.get n).a | .b => (s.saf.si.get n).b) = { accepted := true, demand := d } ∨ us < 4 / 5 * (s.cu n 4 : Q) ∨ (us < (s.cu n 4 : Q) ∧ (match ch with | .a => (s.saf.si.get n).a.accepted | .b => (s.saf.si.get n).b.accepted) = false))) ∧
    (∃ (s : State) (n : SiN) (at_ : Nat) (t0 : Nat), ((s.saf.si.get n).openAt = some t0) ∧ (s.saf.evaluating = true) ∧ (s.cuUsed n = true) ∧ (discTicks s n < at_ - t0) ∧ ((s.saf.si.get n).disc = false)) ∧
    (∃ (s : State) (n : SiN) (ch : Side) (us : Nat), (s.saf.evaluating = true) ∧ (s.siUsed n = true) ∧ ((match ch with | .a => (s.saf.si.get n).a.accepted && decide ((s.saf.si.get n).callA ≠ (s.saf.si.get n).a.demand) | .b => (s.saf.si.get n).b.accepted && decide ((s.saf.si.get n).callB ≠ (s.saf.si.get n).b.demand)) = true) ∧ (s.pu 0x80 n 4 + 500 < us)) ∧
    (∃ (s : State) (n : SiN) (ch : Side) (d : Bool) (us : Q) (at_ : Nat), (s.saf.evaluating = true) ∧ (s.cuUsed n = true) ∧ ((match ch with | .a => (s.saf.si.get n).a | .b => (s.saf.si.get n).b) ≠ { accepted := true, demand := d }) ∧ ((s.cu n 4 : Q) ≤ us) ∧ ((match (s.saf.si.get n).openAt with | some t => decide (at_ - t ≤ discTicks s n) | none => true) = true) ∧ (d = true) ∧ ((s.saf.si.get n).inDemand = false) ∧ (s.pu 0x80 n 28 ≠ 0xFF)) ∧
    (∃ (s : State) (n : SiN) (ch : Side) (d : Bool) (us : Q) (at_ : Nat), (s.saf.evaluating = true) ∧ (s.cuUsed n = true) ∧ ((match ch with | .a => (s.saf.si.get n).a | .b => (s.saf.si.get n).b) ≠ { accepted := true, demand := d }) ∧ ((s.cu n 4 : Q) ≤ us) ∧ ((match (s.saf.si.get n).openAt with | some t => decide (at_ - t ≤ discTicks s n) | none => true) = true) ∧ (d = false) ∧ ((s.saf.si.get n).both = true) ∧ ((s.saf.si.get n).firstRel = some 0) ∧ (at_ - 0 ≤ discTicks s n) ∧ ((match ch with | .a => (s.saf.si.get n).b | .b => (s.saf.si.get n).a) = { accepted := true, demand := false })) :=
  ⟨⟨loadCust { live .drive [recFix 0x80 3 32 [(0, 1)]] with saf := { (live .drive []).saf with evaluating := true } }, 3, .a, true, 0, 0, by decide +kernel⟩,
   ⟨State.reset, 0, .a, true, 0, 0, by decide +kernel⟩,
   ⟨loadCust { live .drive [recFix 0x80 3 32 [(0, 1)]] with saf := { (live .drive []).saf with evaluating := true, si := Tab.fill { SiSt.reset with openAt := some 0 } } }, 3, 1, 0, by decide +kernel⟩,
   ⟨{ live .drive [recFix 0x80 3 32 [(0, 1)]] with saf := { (live .drive []).saf with evaluating := true, si := Tab.fill { SiSt.reset with callA := true, a := { accepted := true, demand := false } } } }, 3, .a, 501, by decide +kernel⟩,
   ⟨loadCust { live .drive [recFix 0x80 3 32 [(0, 1)]] with saf := { (live .drive []).saf with evaluating := true } }, 3, .a, true, 0, 0, by decide +kernel⟩,
   ⟨loadCust { live .drive [recFix 0x80 3 32 [(0, 1)]] with saf := { (live .drive []).saf with evaluating := true, si := Tab.fill { SiSt.reset with both := true, firstRel := some 0, a := { accepted := true, demand := true }, b := { accepted := true, demand := false } } } }, 3, .a, false, 0, 0, by decide +kernel⟩⟩

/-- The hypotheses of SafetyWatch can be met. -/
theorem witness_SafetyWatch :
    (∃ (s : State) (l : List (SiN × Side × List Bool)), (callistoRuns s = true)) ∧
    (∃ (s : State), (callistoRuns s = true)) ∧
    (∃ (s : State) (us : Nat), ((s.lks.pairs.get .callisto).st ≠ 0) ∧ (300 ≤ us) ∧ (s.saf.watchLatch = false)) ∧
    (∃ (s : State) (a : Side) (lvl : Bool) (us : Nat), ((if a = .b then s.cuSafety 4 else s.pu 0x81 0 4).testBit (b2n (decide (a = .b))) = true)) ∧
    (∃ (s : State) (l : List (CustReg × Nat)) (c : Custodian), (s.cat.locked = true) ∧ (c = l.foldl Custodian.upset s.saf.cust)) ∧
    (∃ (s : State) (a : Side) (lvl : Bool) (us : Nat), ((if a = .b then s.cuSafety 4 else s.pu 0x81 0 4).testBit (b2n (decide (a = .b))) = true) ∧ (soDriven s (decide (a = .b)) = lvl ∨ us ≤ 10)) ∧
    (∃ (s : State) (a : Side) (lvl : Bool) (us : Nat), ((if a = .b then s.cuSafety 4 else s.pu 0x81 0 4).testBit (b2n (decide (a = .b))) = true) ∧ (soDriven s (decide (a = .b)) ≠ lvl) ∧ (10 < us)) ∧
    (∃ (s : State) (l : List (CustReg × Nat)) (c : Custodian), (s.cat.locked = true) ∧ (c = l.foldl Custodian.upset s.saf.cust) ∧ (callistoRuns s = true) ∧ (({ s with saf := { s.saf with cust := c } } : State).custDiffers = true)) ∧
    (∃ (s : State) (l : List (CustReg × Nat)) (c : Custodian), (s.cat.locked = true) ∧ (c = l.foldl Custodian.upset s.saf.cust) ∧ (({ s with saf := { s.saf with cust := c } } : State).custDiffers = false)) ∧
    (∃ (s : State) (l : List (CustReg × Nat)) (c : Custodian), (s.cat.locked = true) ∧ (c = l.foldl Custodian.upset s.saf.cust) ∧ ((∃ n, c.si.get n ≠ s.payload 0x80 n.val) ∨ c.safety ≠ s.payload 0x81 0)) ∧
    (∃ (s : State), (callistoRuns s = true) ∧ s.saf.lastOverrun = false) ∧
    (∃ (s : State), (callistoRuns s = true) ∧ s.saf.lastOverrun = true) :=
  ⟨⟨live .drive [], [], by decide +kernel⟩,
   ⟨live .drive [], by decide +kernel⟩,
   ⟨live .drive [], 300, by decide +kernel⟩,
   ⟨loadCust (live .drive [recFix 0x81 0 8 [(4, 3)]]), .b, true, 10, by decide +kernel⟩,
   ⟨loadCust (live .drive [recFix 0x81 0 8 []]), [], _, by decide +kernel, rfl⟩,
   ⟨loadCust (live .drive [recFix 0x81 0 8 [(4, 3)]]), .b, true, 10, by decide +kernel⟩,
   ⟨loadCust (live .drive [recFix 0x81 0 8 [(4, 3)]]), .a, false, 11, by decide +kernel⟩,
   ⟨loadCust (live .drive [recFix 0x81 0 8 []]), [(.safety, 0)], _, by decide +kernel, rfl, by decide +kernel, by decide +kernel⟩,
   ⟨loadCust (live .drive [recFix 0x81 0 8 []]), [(.safety, 0), (.safety, 0)], _, by decide +kernel, rfl, by decide +kernel⟩,
   ⟨loadCust (live .drive [recFix 0x81 0 8 []]), [(.safety, 7)], _, by decide +kernel, rfl, by decide +kernel⟩,
   ⟨live .drive [], by decide +kernel⟩,
   ⟨{ live .drive [] with saf := { (live .drive []).saf with lastOverrun := true } }, by decide +kernel⟩⟩

/-- The hypotheses of LockstepPairs can be met. -/
theorem witness_LockstepPairs :
    (∃ (s : State) (p : LPair) (c : CoreStep) (m : Bound) (k : Nat), ((s.lks.pairs.get p).st = 1) ∧ (c.gapNs < 50) ∧ (c.main = some m) ∧ (compared c.rails (s.lks.pairs.get p).out2 (c.checker.getD 0 .idle) (Config.freeNat s.freeIx) = some k) ∧ (p ≠ .ganymede ∨ (s.lks.pairs.get p).mismatches ≠ 0 ∨ s.sup.ship = .none)) ∧
    (∃ (s : State) (p : LPair) (c : CoreStep) (m : Bound), ((s.lks.pairs.get p).st = 1) ∧ (c.gapNs < 50) ∧ (c.main = some m) ∧ (compared c.rails (s.lks.pairs.get p).out2 (c.checker.getD 0 .idle) (Config.freeNat s.freeIx) = none)) ∧
    (∃ (s : State) (p : LPair) (c : CoreStep), ((s.lks.pairs.get p).st = 1) ∧ (50 ≤ c.gapNs) ∧ (c.gapNs < 100) ∧ (c.main = none) ∧ (compared c.rails (s.lks.pairs.get p).out2 (c.checker.getD 0 .idle) (Config.freeNat s.freeIx) = none)) ∧
    (∃ (s : State) (p : LPair) (c : CoreStep) (m : Bound) (k : Nat), ((s.lks.pairs.get p).st = 1) ∧ (c.gapNs < 50) ∧ (c.main = some m) ∧ (compared c.rails (s.lks.pairs.get p).out2 (c.checker.getD 0 .idle) (Config.freeNat s.freeIx) = some k) ∧ (p ≠ .ganymede ∨ (s.lks.pairs.get p).mismatches ≠ 0 ∨ s.sup.ship = .none) ∧ (k = 6)) ∧
    (∃ (s : State) (p : LPair) (c : CoreStep) (m : Bound) (k : Nat), ((s.lks.pairs.get p).st = 1) ∧ (c.gapNs < 50) ∧ (c.main = some m) ∧ (compared c.rails (s.lks.pairs.get p).out2 (c.checker.getD 0 .idle) (Config.freeNat s.freeIx) = some k) ∧ (p ≠ .ganymede ∨ (s.lks.pairs.get p).mismatches ≠ 0 ∨ s.sup.ship = .none) ∧ (k = 1)) ∧
    (∃ (s : State) (p : LPair) (c : CoreStep) (m : Bound) (k : Nat), ((s.lks.pairs.get p).st = 1) ∧ (c.gapNs < 50) ∧ (c.main = some m) ∧ (compared c.rails (s.lks.pairs.get p).out2 (c.checker.getD 0 .idle) (Config.freeNat s.freeIx) = some k) ∧ (p ≠ .ganymede ∨ (s.lks.pairs.get p).mismatches ≠ 0 ∨ s.sup.ship = .none) ∧ (k = 2)) ∧
    (∃ (s : State) (p : LPair) (c : CoreStep) (m : Bound) (k : Nat), ((s.lks.pairs.get p).st = 1) ∧ (c.gapNs < 50) ∧ (c.main = some m) ∧ (compared c.rails (s.lks.pairs.get p).out2 (c.checker.getD 0 .idle) (Config.freeNat s.freeIx) = some k) ∧ (p ≠ .ganymede ∨ (s.lks.pairs.get p).mismatches ≠ 0 ∨ s.sup.ship = .none) ∧ (k = 3)) ∧
    (∃ (s : State) (p : LPair) (region : List (Fin 9 × Nat)), ((s.lks.pairs.get p).st = 3) ∧ (p = .io ∨ p = .callisto)) ∧
    (∃ (s : State) (p : LPair) (region : List (Fin 9 × Nat)), ((s.lks.pairs.get p).st = 3) ∧ (p = .europa)) ∧
    (∃ (s : State) (p : LPair) (region : List (Fin 9 × Nat)), ((s.lks.pairs.get p).st = 3) ∧ (p = .ganymede)) ∧
    (∃ (s : State) (p : LPair) (l l' : List (BitVec 64)) (w : Nat), (s.mer.ct % (if p = .callisto then 400000 else 4000000) ≠ 0)) ∧
    (∃ (s : State) (p : LPair) (l l' : List (BitVec 64)) (w : Nat), (s.mer.ct % (if p = .callisto then 400000 else 4000000) = 0) ∧ ((s.lks.pairs.get p).st = 1) ∧ (l.take w = l'.take w) ∧ (l[w]? ≠ l'[w]?)) ∧
    (∃ (s : State) (p : LPair) (l l' : List (BitVec 64)) (w : Nat), (s.mer.ct % (if p = .callisto then 400000 else 4000000) = 0) ∧ ((s.lks.pairs.get p).st = 4)) ∧
    (∃ (s : State) (p : LPair) (reg v : Nat) (b : Bool) (tail : CoreStep) (steps : List CoreStep) (main checker : List (BitVec 64)), (debugOpen s = false)) ∧
    (∃ (s : State) (p : LPair) (reg v : Nat) (b : Bool) (tail : CoreStep) (steps : List CoreStep) (main checker : List (BitVec 64)), (debugOpen s = true) ∧ ((s.lks.pairs.get p).st = 1) ∧ (tail.held = []) ∧ (tail.rails = []) ∧ (tail.checker = [(s.lks.pairs.get p).out2, (s.lks.pairs.get p).out1])) ∧
    (∃ (s : State) (p : LPair) (reg v : Nat) (b : Bool) (tail : CoreStep) (steps : List CoreStep) (main checker : List (BitVec 64)), (debugOpen s = true) ∧ ((s.lks.pairs.get p).st = 1) ∧ (compared tail.rails (s.lks.pairs.get p).out2 (tail.checker.getD 0 .idle) (Config.freeNat s.freeIx) = some 6)) ∧
    (∃ (s : State) (p : LPair) (reg v : Nat) (b : Bool) (tail : CoreStep) (steps : List CoreStep) (main checker : List (BitVec 64)), (debugOpen s = true) ∧ ((s.lks.pairs.get p).st = 4) ∧ ((s.lks.pairs.get p).replay.length < 256) ∧ ((s.lks.pairs.get p).exportDue = false)) ∧
    (∃ (s : State) (p : LPair) (reg v : Nat) (b : Bool) (tail : CoreStep) (steps : List CoreStep) (main checker : List (BitVec 64)), (debugOpen s = true) ∧ ((s.lks.pairs.get p).st = 4) ∧ (256 ≤ (s.lks.pairs.get p).replay.length)) ∧
    (∃ (s : State) (p : LPair) (reg v : Nat) (b : Bool) (tail : CoreStep) (steps : List CoreStep) (main checker : List (BitVec 64)), (debugOpen s = true) ∧ ((s.lks.pairs.get p).st = 4) ∧ ((s.lks.pairs.get p).exportDue = true) ∧ (main.take 0 = checker.take 0) ∧ (main[0]? ≠ checker[0]?)) ∧
    (∃ (s : State) (p : LPair) (c : CoreStep) (m : Bound), ((s.lks.pairs.get p).st = 1) ∧ (c.gapNs < 50) ∧ (c.main = some m) ∧ (compared c.rails (s.lks.pairs.get p).out2 (c.checker.getD 0 .idle) (Config.freeNat s.freeIx) = none) ∧ (c.writes = some (0, 5)) ∧ ((∀ r, c.region = some r → regionLocked r s = false))) ∧
    (∃ (s : State) (p : LPair) (c : CoreStep) (m : Bound), ((s.lks.pairs.get p).st = 1) ∧ (c.gapNs < 50) ∧ (c.main = some m) ∧ (compared c.rails (s.lks.pairs.get p).out2 (c.checker.getD 0 .idle) (Config.freeNat s.freeIx) = none) ∧ (c.writes = some (8, 5)) ∧ (s.cat.locked = false)) ∧
    (∃ (s : State) (p : LPair) (c : CoreStep) (m : Bound), ((s.lks.pairs.get p).st = 1) ∧ (c.gapNs < 50) ∧ (c.main = some m) ∧ (compared c.rails (s.lks.pairs.get p).out2 (c.checker.getD 0 .idle) (Config.freeNat s.freeIx) = none) ∧ (c.writes = some (8, 5)) ∧ (s.cat.locked = true)) ∧
    (∃ (s : State) (p : LPair) (c : CoreStep) (m : Bound), ((s.lks.pairs.get p).st = 1) ∧ (c.gapNs < 50) ∧ (c.main = some m) ∧ (compared c.rails (s.lks.pairs.get p).out2 (c.checker.getD 0 .idle) (Config.freeNat s.freeIx) = none) ∧ (c.writes = some (0, 5)) ∧ (c.region = some .code) ∧ (regionLocked .code s = true)) ∧
    (∃ (s : State) (p : LPair) (region : List (Fin 9 × Nat)), ((s.lks.pairs.get p).st ≠ 3)) ∧
    (∃ (s : State) (p : LPair) (c : CoreStep) (m : Bound), ((s.lks.pairs.get p).st = 1) ∧ (c.gapNs < 50) ∧ (c.main = some m) ∧ (compared c.rails (s.lks.pairs.get p).out2 (c.checker.getD 0 .idle) (Config.freeNat s.freeIx) = none) ∧ (c.writes = some (8, 32767))) ∧
    (∃ (s : State) (p : LPair) (c : CoreStep), ((s.lks.pairs.get p).st = 1) ∧ (50 ≤ c.gapNs) ∧ (c.gapNs < 100) ∧ (c.main = none) ∧ (compared c.rails (s.lks.pairs.get p).out2 (c.checker.getD 0 .idle) (Config.freeNat s.freeIx) = none) ∧ (c.gapNs = 99)) :=
  ⟨⟨live .drive [], .io, { stepFix with main := some .idle, rails := [(0, 0)] }, .idle, 6, by decide +kernel⟩,
   ⟨live .drive [], .io, { stepFix with main := some .idle }, .idle, by decide +kernel⟩,
   ⟨live .drive [], .io, { stepFix with gapNs := 50 }, by decide +kernel⟩,
   ⟨live .drive [], .io, { stepFix with main := some .idle, rails := [(0, 0)] }, .idle, 6, by decide +kernel⟩,
   ⟨live .drive [], .io, { stepFix with main := some .idle, checker := [{ Bound.idle with addr := 1 }] }, .idle, 1, by decide +kernel⟩,
   ⟨live .drive [], .io, { stepFix with main := some .idle, gapNs := 49, checker := [{ Bound.idle with data := 1 }] }, .idle, 2, by decide +kernel⟩,
   ⟨live .drive [], .io, { stepFix with main := some .idle, checker := [{ Bound.idle with ctrl := 1 }] }, .idle, 3, by decide +kernel⟩,
   ⟨{ live .drive [] with lks := { (live .drive []).lks with pairs := Tab.fill { PairSt.reset with st := 3 } } }, .callisto, [(0, 5)], by decide +kernel⟩,
   ⟨{ live .drive [] with lks := { (live .drive []).lks with pairs := Tab.fill { PairSt.reset with st := 3 } } }, .europa, [(0, 5)], by decide +kernel⟩,
   ⟨{ live .drive [] with lks := { (live .drive []).lks with pairs := Tab.fill { PairSt.reset with st := 3 } } }, .ganymede, [(0, 5)], by decide +kernel⟩,
   ⟨{ live .drive [] with mer := { (live .drive []).mer with ct := 1 } }, .io, [1], [2], 0, by decide +kernel⟩,
   ⟨live .drive [], .io, [1, 2], [1, 3], 1, by decide +kernel⟩,
   ⟨{ live .drive [] with lks := { (live .drive []).lks with pairs := Tab.fill { PairSt.reset with st := 4 } } }, .callisto, [1], [2], 0, by decide +kernel⟩,
   ⟨State.reset, .io, 0, 0, true, stepFix, [], [], [], by decide +kernel⟩,
   ⟨{ live .drive [] with otp := Tab.fill 0xFF, sec := { State.reset.sec with jtagOpen := true } }, .io, 0, 0, true, { stepFix with checker := [(pairUp).out2, (pairUp).out1] }, [], [], [], by decide +kernel⟩,
   ⟨{ live .drive [] with otp := Tab.fill 0xFF, sec := { State.reset.sec with jtagOpen := true } }, .io, 0, 0, true, { stepFix with rails := [(0, 0)] }, [], [], [], by decide +kernel⟩,
   ⟨{ live .drive [] with otp := Tab.fill 0xFF, sec := { State.reset.sec with jtagOpen := true }, lks := { State.reset.lks with pairs := Tab.fill { PairSt.reset with st := 4 } } }, .io, 0, 0, true, stepFix, [], [], [], by decide +kernel⟩,
   ⟨{ live .drive [] with otp := Tab.fill 0xFF, sec := { State.reset.sec with jtagOpen := true }, lks := { State.reset.lks with pairs := Tab.fill { PairSt.reset with st := 4, replay := List.replicate 256 (0, 0) } } }, .io, 0, 0, true, stepFix, [], [], [], by decide +kernel⟩,
   ⟨{ live .drive [] with otp := Tab.fill 0xFF, sec := { State.reset.sec with jtagOpen := true }, lks := { State.reset.lks with pairs := Tab.fill { PairSt.reset with st := 4, exportDue := true } } }, .io, 0, 0, true, stepFix, [], [1], [2], by decide +kernel⟩,
   ⟨live .drive [], .io, { stepFix with main := some .idle, writes := some (0, 5) }, .idle, by decide +kernel, by decide +kernel, by decide +kernel, by decide +kernel, by decide +kernel, fun _ h => by cases h⟩,
   ⟨{ live .drive [] with cat := { (live .drive []).cat with locked := false } }, .io, { stepFix with main := some .idle, writes := some (8, 5), region := none }, .idle, by decide +kernel⟩,
   ⟨live .drive [], .io, { stepFix with main := some .idle, writes := some (8, 5), region := none }, .idle, by decide +kernel⟩,
   ⟨{ live .drive [] with cat := { (live .drive []).cat with codeLocked := true } }, .io, { stepFix with main := some .idle, writes := some (0, 5), region := some .code }, .idle, by decide +kernel⟩,
   ⟨live .drive [], .io, [], by decide +kernel⟩,
   ⟨live .drive [], .io, { stepFix with main := some .idle, writes := some (8, 32767) }, .idle, by decide +kernel⟩,
   ⟨live .drive [], .io, { stepFix with gapNs := 99 }, by decide +kernel⟩⟩

/-- The hypotheses of MemoryChecks can be met. -/
theorem witness_MemoryChecks :
    (∃ (s : State) (r : MemRead) (reader : MemReader) (now : Nat) (d : BitVec 64), (s.lks.startOk = true) ∧ ((r.bank, r.word) ∉ s.lks.poisoned) ∧ (verdict r = .corrected d)) ∧
    (∃ (s : State) (l : List ScrubWord) (now : Nat), (s.lks.startOk = true)) ∧
    (∃ (s : State) (x : ScrubWord) (now : Nat) (d : BitVec 64), (s.lks.startOk = true) ∧ ((x.bank, (scrubAt s x.bank).1) ∉ s.lks.poisoned) ∧ (verdict { bank := x.bank, word := (scrubAt s x.bank).1, data := x.data, check := x.check } = .corrected d)) ∧
    (∃ (s : State) (r : MemRead) (reader : MemReader) (k : Bool), (s.lks.startOk = true) ∧ ((r.bank, r.word) ∈ s.lks.poisoned ∨ verdict r = .uncorrectable)) ∧
    (∃ (s : State) (r : MemRead) (reader : MemReader) (k : Bool) (now : Nat) (l : List ScrubWord), (s.lks.startOk = false)) ∧
    (∃ (s : State) (r : MemRead) (reader : MemReader) (now : Nat) (d : BitVec 64), (s.lks.startOk = true) ∧ ((r.bank, r.word) ∉ s.lks.poisoned) ∧ (verdict r = .corrected d) ∧ (16 ≤ ((s.lks.ceTimes.filter (fun t => decide (now < t.2 + 1000))).filter (fun t => decide (t.1 = r.bank))).length)) ∧
    (∃ (s : State) (x : ScrubWord) (now : Nat) (d : BitVec 64), (s.lks.startOk = true) ∧ ((x.bank, (scrubAt s x.bank).1) ∉ s.lks.poisoned) ∧ (verdict { bank := x.bank, word := (scrubAt s x.bank).1, data := x.data, check := x.check } = .corrected d) ∧ (x.raced = false) ∧ ((∃ n, (x.bank, (scrubAt s x.bank).1, n) ∈ s.lks.corrected ∧ (n + 1) % 2 ^ 16 = (scrubAt s x.bank).2))) ∧
    (∃ (s : State) (x : ScrubWord) (now : Nat) (d : BitVec 64), (s.lks.startOk = true) ∧ ((x.bank, (scrubAt s x.bank).1) ∉ s.lks.poisoned) ∧ (verdict { bank := x.bank, word := (scrubAt s x.bank).1, data := x.data, check := x.check } = .corrected d) ∧ (x.shared = true) ∧ (x.raced = true)) ∧
    (∃ (s : State) (r : MemRead) (reader : MemReader) (k : Bool), (s.lks.startOk = true) ∧ ((r.bank, r.word) ∈ s.lks.poisoned ∨ verdict r = .uncorrectable) ∧ (k = false) ∧ (¬(r.bank = 8 ∧ s.cat.locked = true)) ∧ ((r.bank, r.word) ∉ s.lks.poisoned) ∧ (reader = .pair .europa) ∧ ((s.lks.pairs.get .europa).st = 1)) ∧
    (∃ (s : State) (r : MemRead) (reader : MemReader) (k : Bool), (s.lks.startOk = true) ∧ ((r.bank, r.word) ∈ s.lks.poisoned ∨ verdict r = .uncorrectable) ∧ (k = false) ∧ ((r.bank = 8 ∧ s.cat.locked = true))) ∧
    (∃ (s : State) (r : MemRead) (reader : MemReader) (k : Bool), (s.lks.startOk = true) ∧ ((r.bank, r.word) ∈ s.lks.poisoned ∨ verdict r = .uncorrectable) ∧ ((r.bank, r.word) ∈ s.lks.poisoned)) :=
  ⟨⟨{ live .drive [] with lks := { (live .drive []).lks with startOk := true } }, ⟨0, 0, 0, 1⟩, .scrubber, 10, 0, by decide +kernel⟩,
   ⟨{ live .drive [] with lks := { (live .drive []).lks with startOk := true, wSram := 98303 } }, [], 10, by decide +kernel⟩,
   ⟨{ live .drive [] with lks := { (live .drive []).lks with startOk := true } }, ⟨0, 0, 1, false, false⟩, 10, 0, by decide +kernel⟩,
   ⟨{ live .drive [] with lks := { (live .drive []).lks with startOk := true } }, ⟨0, 0, 0, 3⟩, .pair .europa, true, by decide +kernel⟩,
   ⟨State.reset, ⟨0, 0, 0, 3⟩, .other, false, 0, [], by decide +kernel⟩,
   ⟨{ live .drive [] with lks := { (live .drive []).lks with startOk := true, ceTimes := List.replicate 16 (0, 5) } }, ⟨0, 0, 0, 1⟩, .other, 1004, 0, by decide +kernel⟩,
   ⟨{ live .drive [] with lks := { (live .drive []).lks with startOk := true, passes := 1, corrected := [(0, 0, 0)] } }, ⟨0, 0, 1, false, false⟩, 10, 0, by decide +kernel, by decide +kernel, by decide +kernel, by decide +kernel, 0, by decide +kernel, by decide +kernel⟩,
   ⟨{ live .drive [] with lks := { (live .drive []).lks with startOk := true } }, ⟨0, 0, 1, true, true⟩, 10, 0, by decide +kernel⟩,
   ⟨{ live .drive [] with lks := { (live .drive []).lks with startOk := true } }, ⟨0, 0, 0, 3⟩, .pair .europa, false, by decide +kernel⟩,
   ⟨{ live .drive [] with lks := { (live .drive []).lks with startOk := true, poisoned := [(8, 0)] } }, ⟨8, 0, 0, 0⟩, .other, false, by decide +kernel⟩,
   ⟨{ live .drive [] with lks := { (live .drive []).lks with startOk := true, poisoned := [(0, 0)] } }, ⟨0, 0, 0, 0⟩, .other, false, by decide +kernel⟩⟩

/-- The hypotheses of QueueWriter can be met. -/
theorem witness_QueueWriter :
    (∃ (s : State) (q : QId) (v : BitVec 64) (f l : Bool) (c : Fin 8), (qPresent s q = true) ∧ (qWriterOn s q = true) ∧ (badChain (s.pq.get q) = none) ∧ ((s.pq.get q).wait = none) ∧ ((s.pq.get q).discard = false) ∧ (((s.pq.get q).opened = none ∧ f = true) ∨ ((s.pq.get q).opened = some c ∧ f = false))) ∧
    (∃ (s : State) (q : QId) (v : BitVec 64) (l : Bool) (c : Fin 8), (qPresent s q = true) ∧ (qWriterOn s q = true) ∧ (badChain (s.pq.get q) = none) ∧ ((s.pq.get q).wait = none) ∧ ((s.pq.get q).discard = false)) ∧
    (∃ (s : State) (q : QId) (v : BitVec 64) (f l : Bool) (c : Fin 8), (qWriterOn s q = false)) ∧
    (∃ (s : State) (q : QId) (v : BitVec 64) (f l : Bool) (c : Fin 8), (qPresent s q = true) ∧ (qWriterOn s q = true) ∧ (badChain (s.pq.get q) = none) ∧ ((s.pq.get q).wait = none) ∧ ((s.pq.get q).discard = false) ∧ (((s.pq.get q).opened = none ∧ f = true) ∨ ((s.pq.get q).opened = some c ∧ f = false)) ∧ (((s.pq.get q).chains.get c).opn.length < qMax q) ∧ (((s.pq.get q).chains.get c).occ < qDepth q)) ∧
    (∃ (s : State) (q : QId) (v : BitVec 64) (f l : Bool) (c : Fin 8), (qPresent s q = true) ∧ (qWriterOn s q = true) ∧ (badChain (s.pq.get q) = none) ∧ ((s.pq.get q).wait = none) ∧ ((s.pq.get q).discard = false) ∧ (((s.pq.get q).opened = none ∧ f = true) ∨ ((s.pq.get q).opened = some c ∧ f = false)) ∧ (((s.pq.get q).chains.get c).opn.length < qMax q) ∧ (qDepth q ≤ ((s.pq.get q).chains.get c).occ) ∧ (qReceiver q = false)) ∧
    (∃ (s : State) (q : QId) (v : BitVec 64) (f l : Bool) (c : Fin 8), (qPresent s q = true) ∧ (qWriterOn s q = true) ∧ (badChain (s.pq.get q) = none) ∧ ((s.pq.get q).wait = none) ∧ ((s.pq.get q).discard = false) ∧ (((s.pq.get q).opened = none ∧ f = true) ∨ ((s.pq.get q).opened = some c ∧ f = false)) ∧ (((s.pq.get q).chains.get c).opn.length < qMax q) ∧ (qDepth q ≤ ((s.pq.get q).chains.get c).occ) ∧ (qReceiver q = true)) ∧
    (∃ (s : State) (q : QId) (v : BitVec 64) (f l : Bool) (c : Fin 8), (qPresent s q = true) ∧ (qWriterOn s q = true) ∧ (badChain (s.pq.get q) = none) ∧ ((s.pq.get q).wait = none) ∧ ((s.pq.get q).discard = false) ∧ (((s.pq.get q).opened = none ∧ f = true) ∨ ((s.pq.get q).opened = some c ∧ f = false)) ∧ (qMax q ≤ ((s.pq.get q).chains.get c).opn.length)) ∧
    (∃ (s : State) (q : QId) (v : BitVec 64) (l : Bool) (c : Fin 8), (qPresent s q = true) ∧ (qWriterOn s q = true) ∧ (badChain (s.pq.get q) = none) ∧ ((s.pq.get q).wait = none) ∧ ((s.pq.get q).discard = false) ∧ ((s.pq.get q).opened = none)) ∧
    (∃ (s : State) (q : QId) (v : BitVec 64) (l : Bool) (c : Fin 8), (qPresent s q = true) ∧ (qWriterOn s q = true) ∧ (badChain (s.pq.get q) = none) ∧ ((s.pq.get q).wait = none) ∧ ((s.pq.get q).discard = false) ∧ ((s.pq.get q).opened = some 3) ∧ (c ≠ 3)) ∧
    (∃ (s : State) (q : QId) (us : Nat), ((s.pq.get q).wait.isSome = true) ∧ (100 ≤ us) ∧ ((s.pq.get q).opened.isSome = true) ∧ (qWriterOn s q = true) ∧ (badChain (s.pq.get q) = none)) ∧
    (∃ (s : State) (q : QId) (us : Nat), (qPresent s q = true) ∧ (qWriterOn s q = true) ∧ ((s.pq.get q).opened = none)) ∧
    (∃ (s : State) (q : QId) (us : Nat), (s.pq.get q).wait.isSome = true ∧ 100 ≤ us ∧ (s.pq.get q).opened.isSome = true) ∧
    (∃ (s : State) (q : QId) (us : Nat), qPresent s q = true ∧ (s.pq.get q).opened = none) :=
  ⟨⟨{ live .drive [] with pq := Tab.fill { PQueue.reset with opened := some 3, chains := Tab.fill ({ Chain.empty with opn := List.replicate 4 { word := 0, first := true, last := true } } : Chain).remark } }, 26, 7, false, true, 3, by decide +kernel⟩,
   ⟨live .drive [], 26, 7, true, 3, by decide +kernel⟩,
   ⟨State.reset, 14, 7, false, true, 3, by decide +kernel⟩,
   ⟨live .drive [], 26, 7, true, true, 3, by decide +kernel⟩,
   ⟨{ live .drive [] with pq := Tab.fill { PQueue.reset with opened := some 3, chains := Tab.fill ({ Chain.empty with words := List.replicate 64 { word := 0, first := true, last := true } } : Chain).remark } }, 26, 7, false, true, 3, by decide +kernel⟩,
   ⟨{ live .drive [] with pq := Tab.fill { PQueue.reset with chains := Tab.fill ({ Chain.empty with words := List.replicate 136 { word := 0, first := true, last := true } } : Chain).remark } }, 0, 7, true, true, 3, by decide +kernel⟩,
   ⟨{ live .drive [] with pq := Tab.fill { PQueue.reset with opened := some 3, chains := Tab.fill ({ Chain.empty with opn := List.replicate 4 { word := 0, first := true, last := true } } : Chain).remark } }, 26, 7, false, true, 3, by decide +kernel⟩,
   ⟨live .drive [], 26, 7, true, 3, by decide +kernel⟩,
   ⟨{ live .drive [] with pq := Tab.fill { PQueue.reset with opened := some 3 } }, 26, 7, true, 4, by decide +kernel⟩,
   ⟨{ live .drive [] with pq := Tab.fill { PQueue.reset with opened := some 3, wait := some (3, { word := 0, first := true, last := true }) } }, 26, 100, by decide +kernel⟩,
   ⟨live .drive [], 26, 0, by decide +kernel⟩,
   ⟨{ live .drive [] with pq := Tab.fill { PQueue.reset with opened := some 3, wait := some (3, { word := 0, first := true, last := true }) } }, 26, 100, by decide +kernel⟩,
   ⟨live .drive [], 26, 0, by decide +kernel⟩⟩

/-- The hypotheses of QueueReader can be met. -/
theorem witness_QueueReader :
    (∃ (s : State) (q : QId) (c : Fin 8) (w : Item) (r : List Item), (qPresent s q = true) ∧ (qReaderOn s q = true) ∧ (badChain (s.pq.get q) = none) ∧ ((s.pq.get q).aborted = false) ∧ (q.val < 4 ∨ 8 ≤ q.val) ∧ (readChain (s.pq.get q) = some c) ∧ (((s.pq.get q).chains.get c).words = w :: r) ∧ ((s.pq.get q).wait = none)) ∧
    (∃ (s : State) (q : QId), (qPresent s q = true) ∧ (badChain (s.pq.get q) = none)) ∧
    (∃ (s : State) (q : QId) (ms : Nat) (c : Fin 8), (qPresent s q = true) ∧ (badChain (s.pq.get q) = some c)) ∧
    (∃ (s : State) (q : QId) (c : Fin 8) (k : Fin 6) (v ms : Nat), (qPresent s q = true) ∧ (badChain (s.pq.get q) = none)) ∧
    (∃ (s : State) (q : QId) (c : Fin 8), (qPresent s q = true) ∧ (qReaderOn s q = true) ∧ (badChain (s.pq.get q) = some c)) ∧
    (∃ (s : State) (q : QId) (c : Fin 8) (w : Item) (r : List Item), (qPresent s q = true) ∧ (qReaderOn s q = true) ∧ (badChain (s.pq.get q) = none) ∧ ((s.pq.get q).aborted = false) ∧ (q.val < 4 ∨ 8 ≤ q.val) ∧ (readChain (s.pq.get q) = some c) ∧ (((s.pq.get q).chains.get c).words = w :: r) ∧ ((s.pq.get q).wait = none) ∧ ((s.pq.get q).reading = none)) ∧
    (∃ (s : State) (q : QId) (c : Fin 8) (w : Item) (r : List Item), (qPresent s q = true) ∧ (qReaderOn s q = true) ∧ (badChain (s.pq.get q) = none) ∧ ((s.pq.get q).aborted = false) ∧ (q.val < 4 ∨ 8 ≤ q.val) ∧ (readChain (s.pq.get q) = some c) ∧ (((s.pq.get q).chains.get c).words = w :: r) ∧ ((s.pq.get q).wait = none) ∧ ((s.pq.get q).reading = some 2)) ∧
    (∃ (s : State) (q : QId), (qPresent s q = true) ∧ (badChain (s.pq.get q) = none) ∧ ((s.pq.get q).aborted = true) ∧ (qReaderOn s q = true) ∧ (q.val < 4 ∨ 8 ≤ q.val)) ∧
    (∃ (s : State) (q : QId), (qReaderOn s q = false)) ∧
    (∃ (s : State) (q : QId), (qPresent s q = true) ∧ (badChain (s.pq.get q) = none) ∧ (s.pq.get q).aborted = false ∧ (∀ c, ((s.pq.get q).chains.get c).ready = false) ∧ (s.pq.get q).reading = none) ∧
    (∃ (s : State) (q : QId), (qPresent s q = true) ∧ (badChain (s.pq.get q) = none) ∧ (s.pq.get q).aborted = true ∧ (q.val < 4 ∨ 8 ≤ q.val)) ∧
    (∃ (s : State) (q : QId) (ms : Nat) (c : Fin 8), (qPresent s q = true) ∧ (badChain (s.pq.get q) = some c) ∧ (s.pq.get q).resetMs.length < 2) ∧
    (∃ (s : State) (q : QId) (ms : Nat) (c : Fin 8), (qPresent s q = true) ∧ (badChain (s.pq.get q) = some c) ∧ (s.pq.get q).resetMs = [3, 2] ∧ ms < 2 + 1000) :=
  ⟨⟨{ live .drive [] with pq := Tab.fill { PQueue.reset with chains := Tab.fill ({ Chain.empty with words := [{ word := 0, first := true, last := true }] } : Chain).remark } }, 26, 7, { word := 0, first := true, last := true }, [], by decide +kernel⟩,
   ⟨{ live .drive [] with pq := Tab.fill { PQueue.reset with aborted := true } }, 26, by decide +kernel⟩,
   ⟨{ live .drive [] with pq := Tab.fill { PQueue.reset with chains := Tab.fill { Chain.empty with words := [{ word := 0, first := true, last := true }], marks := { Chain.empty.marks with o := 1 } } } }, 26, 5, 0, by decide +kernel⟩,
   ⟨live .drive [], 26, 5, 0, 0, 0, by decide +kernel⟩,
   ⟨{ live .drive [] with pq := Tab.fill { PQueue.reset with chains := Tab.fill { Chain.empty with words := [{ word := 0, first := true, last := true }], marks := { Chain.empty.marks with o := 1 } } } }, 26, 0, by decide +kernel⟩,
   ⟨{ live .drive [] with pq := Tab.fill { PQueue.reset with chains := Tab.fill ({ Chain.empty with words := [{ word := 0, first := true, last := true }] } : Chain).remark } }, 26, 7, { word := 0, first := true, last := true }, [], by decide +kernel⟩,
   ⟨{ live .drive [] with pq := Tab.fill { PQueue.reset with reading := some 2, chains := Tab.fill ({ Chain.empty with words := [{ word := 0, first := true, last := true }] } : Chain).remark } }, 26, 2, { word := 0, first := true, last := true }, [], by decide +kernel⟩,
   ⟨{ live .drive [] with pq := Tab.fill { PQueue.reset with aborted := true } }, 26, by decide +kernel⟩,
   ⟨State.reset, 14, by decide +kernel⟩,
   ⟨live .drive [], 26, by decide +kernel⟩,
   ⟨{ live .drive [] with pq := Tab.fill { PQueue.reset with aborted := true } }, 26, by decide +kernel⟩,
   ⟨{ live .drive [] with pq := Tab.fill { PQueue.reset with chains := Tab.fill { Chain.empty with words := [{ word := 0, first := true, last := true }], marks := { Chain.empty.marks with o := 1 } } } }, 26, 5, 0, by decide +kernel⟩,
   ⟨{ live .drive [] with pq := Tab.fill { PQueue.reset with resetMs := [3, 2], chains := Tab.fill { Chain.empty with words := [{ word := 0, first := true, last := true }], marks := { Chain.empty.marks with o := 1 } } } }, 26, 5, 0, by decide +kernel⟩⟩

/-- The hypotheses of PortStates can be met. -/
theorem witness_PortStates :
    (∃ (s : State) (p : Port) (n : Nat), (fabOn s = true)) ∧
    (∃ (s : State) (p : Port), (fabOn s = true) ∧ ((s.fab.ports.get p).st = 3)) ∧
    (∃ (s : State) (p : Port) (id echo : Nat), (fabOn s = true) ∧ ((s.fab.ports.get p).st = 3)) ∧
    (∃ (s : State) (p : Port) (n : Nat), (fabOn s = true) ∧ (2 ≤ (s.fab.ports.get p).st ∧ (s.fab.ports.get p).st ≤ 4)) ∧
    (∃ (s : State) (p : Port), (fabOn s = true) ∧ ((s.fab.ports.get p).st = 4)) ∧
    (∃ (s : State) (p : Port) (n : Nat), (fabOn s = true) ∧ (s.fab.ports.get p).st = 1 ∧ 1000 ≤ n) ∧
    (∃ (s : State) (p : Port) (n : Nat), (fabOn s = true) ∧ (s.fab.ports.get p).st = 2 ∧ 64 ≤ n) ∧
    (∃ (s : State) (p : Port) (id echo : Nat), (fabOn s = true) ∧ ((s.fab.ports.get p).st = 3) ∧ (s.fab.ports.get p).hello = 0) ∧
    (∃ (s : State) (p : Port) (id echo : Nat), (fabOn s = true) ∧ ((s.fab.ports.get p).st = 3) ∧ (s.fab.ports.get p).hello = 2 ∧ (s.fab.ports.get p).helloId = id ∧ echo = s.ident) ∧
    (∃ (s : State) (p : Port) (n : Nat), (fabOn s = true) ∧ (2 ≤ (s.fab.ports.get p).st ∧ (s.fab.ports.get p).st ≤ 4) ∧ n < 4) ∧
    (∃ (s : State) (p : Port) (n : Nat), (fabOn s = true) ∧ (2 ≤ (s.fab.ports.get p).st ∧ (s.fab.ports.get p).st ≤ 4) ∧ 4 ≤ n ∧ (s.fab.ports.get p).st < 4) ∧
    (∃ (s : State) (p : Port) (n : Nat), (fabOn s = true) ∧ (2 ≤ (s.fab.ports.get p).st ∧ (s.fab.ports.get p).st ≤ 4) ∧ 4 ≤ n ∧ (s.fab.ports.get p).st = 4) ∧
    (∃ (s : State) (p : Port), (fabOn s = true) ∧ ((s.fab.ports.get p).st = 4) ∧ (s.fab.ports.get p).replay.any (fun f => decide (4 ≤ f.resends)) = true) :=
  ⟨⟨fabPorts 2, 2, 64, by decide +kernel⟩,
   ⟨fabPorts 3, 1, by decide +kernel⟩,
   ⟨fabPorts 3, 1, 0, 0, by decide +kernel⟩,
   ⟨fabPorts 2, 1, 3, by decide +kernel⟩,
   ⟨fabPorts 4, 1, by decide +kernel⟩,
   ⟨fabPorts 1, 2, 1000, by decide +kernel⟩,
   ⟨fabPorts 2, 2, 64, by decide +kernel⟩,
   ⟨fabPorts 3, 1, 7, 0, by decide +kernel⟩,
   ⟨{ fabPorts 3 with fab := { (fabPorts 3).fab with ports := Tab.fill { FabPort.reset with st := 3, hello := 2, helloId := 7 } } }, 1, 7, (fabPorts 3).ident, by decide +kernel⟩,
   ⟨fabPorts 2, 1, 3, by decide +kernel⟩,
   ⟨fabPorts 3, 1, 4, by decide +kernel⟩,
   ⟨fabPorts 4, 1, 4, by decide +kernel⟩,
   ⟨{ fabPorts 4 with fab := { (fabPorts 4).fab with ports := Tab.fill { FabPort.reset with st := 4, replay := [{ link := 0, resends := 4, ty := 1, bytes := [] }] } } }, 1, by decide +kernel⟩⟩

/-- The hypotheses of FrameDelivery can be met. -/
theorem witness_FrameDelivery :
    (∃ (s : State) (p : Port) (h : FabHeader), (fabOn s = true) ∧ ((s.fab.ports.get p).st = 4)) ∧
    (∃ (s : State) (p : Port) (h : FabHeader) (w : RxWay) (pl : List Byte) (crc : Bool), (fabOn s = true) ∧ ((s.fab.ports.get p).st = 4) ∧ ((s.fab.ports.get p).rx = some (h, w))) ∧
    (∃ (s : State) (p : Port), (fabOn s = true) ∧ ((s.fab.ports.get p).st = 4)) ∧
    (∃ (s : State) (p : Port) (link k : Nat), (fabOn s = true) ∧ ((s.fab.ports.get p).st = 4) ∧ ((s.fab.ports.get p).replay.findIdx? (fun f => decide (f.link = link)) = some k)) ∧
    (∃ (s : State) (p : Port) (link k ns : Nat) (f : Sent) (r : List Sent), (fabOn s = true) ∧ ((s.fab.ports.get p).st = 4) ∧ ((s.fab.ports.get p).replay.drop k = f :: r)) ∧
    (∃ (s : State) (p : Port) (h : FabHeader), (fabOn s = true) ∧ ((s.fab.ports.get p).st = 4) ∧ h.link ≠ (s.fab.ports.get p).rxLink) ∧
    (∃ (s : State) (p : Port) (h : FabHeader), (fabOn s = true) ∧ ((s.fab.ports.get p).st = 4) ∧ h.link = (s.fab.ports.get p).rxLink ∧ headerBroken s h = true) ∧
    (∃ (s : State) (p : Port) (h : FabHeader), (fabOn s = true) ∧ ((s.fab.ports.get p).st = 4) ∧ h.link = (s.fab.ports.get p).rxLink ∧ headerBroken s h = false ∧ rxWay s h = .drop) ∧
    (∃ (s : State) (p : Port) (h : FabHeader) (w : RxWay) (pl : List Byte) (crc : Bool), (fabOn s = true) ∧ ((s.fab.ports.get p).st = 4) ∧ ((s.fab.ports.get p).rx = some (h, w)) ∧ crc = false ∧ w = .here ∧ h.type ≠ 2) ∧
    (∃ (s : State) (p : Port) (h : FabHeader) (w : RxWay) (pl : List Byte) (crc : Bool), (fabOn s = true) ∧ ((s.fab.ports.get p).st = 4) ∧ ((s.fab.ports.get p).rx = some (h, w)) ∧ crc = true ∧ h.link ≠ (s.fab.ports.get p).rxLink) ∧
    (∃ (s : State) (p : Port) (h : FabHeader) (w : RxWay) (pl : List Byte) (crc : Bool), (fabOn s = true) ∧ ((s.fab.ports.get p).st = 4) ∧ ((s.fab.ports.get p).rx = some (h, w)) ∧ crc = true ∧ h.link = (s.fab.ports.get p).rxLink ∧ h.type ≠ 2 ∧ h.bcast = false) ∧
    (∃ (s : State) (p : Port) (h : FabHeader) (w : RxWay) (pl : List Byte) (crc : Bool), (fabOn s = true) ∧ ((s.fab.ports.get p).st = 4) ∧ ((s.fab.ports.get p).rx = some (h, w)) ∧ crc = true ∧ h.link = (s.fab.ports.get p).rxLink ∧ w = .cut 2) ∧
    (∃ (s : State) (p : Port) (h : FabHeader) (w : RxWay) (pl : List Byte) (crc : Bool), (fabOn s = true) ∧ ((s.fab.ports.get p).st = 4) ∧ ((s.fab.ports.get p).rx = some (h, w)) ∧ crc = true ∧ h.link = (s.fab.ports.get p).rxLink ∧ w = .store 2) ∧
    (∃ (s : State) (p : Port), (fabOn s = true) ∧ ((s.fab.ports.get p).st = 4) ∧ (s.fab.ports.get p).rx = none) ∧
    (∃ (s : State) (p : Port) (link k : Nat), (fabOn s = true) ∧ ((s.fab.ports.get p).st = 4) ∧ ((s.fab.ports.get p).replay.findIdx? (fun f => decide (f.link = link)) = some k) ∧ (s.fab.ports.get p).waiting = []) ∧
    (∃ (s : State) (p : Port) (link k ns : Nat) (f : Sent) (r : List Sent), (fabOn s = true) ∧ ((s.fab.ports.get p).st = 4) ∧ ((s.fab.ports.get p).replay.drop k = f :: r) ∧ f.resends < 4 ∧ (s.fab.ports.get p).replay.findIdx? (fun g => decide (g.link = link)) = some k ∧ k = 0 ∧ 2000 ≤ ns) ∧
    (∃ (s : State) (p : Port) (link k ns : Nat) (f : Sent) (r : List Sent), (fabOn s = true) ∧ ((s.fab.ports.get p).st = 4) ∧ ((s.fab.ports.get p).replay.drop k = f :: r) ∧ 4 ≤ f.resends ∧ (s.fab.ports.get p).replay.findIdx? (fun g => decide (g.link = link)) = some k ∧ k = 0 ∧ 2000 ≤ ns) :=
  ⟨⟨fabUp 4, 1, ⟨1, 0, 0, false, false, 0, 5, 0, 1, 0, 8, 1, 0, 0, 3, 0⟩, by decide +kernel⟩,
   ⟨{ fabUp 4 with fab := { (fabUp 4).fab with ports := Tab.fill { FabPort.reset with st := 4, rx := some (⟨1, 0, 0, false, false, 0, 0, 0, 1, 0, 8, 1, 0, 0, 0, 0⟩, .here) } } }, 1, ⟨1, 0, 0, false, false, 0, 0, 0, 1, 0, 8, 1, 0, 0, 0, 0⟩, .here, [], false, by decide +kernel⟩,
   ⟨fabUp 4, 1, by decide +kernel⟩,
   ⟨{ fabUp 4 with fab := { (fabUp 4).fab with ports := Tab.fill { FabPort.reset with st := 4, replay := [{ link := 7, resends := 0, ty := 1, bytes := [] }] } } }, 1, 7, 0, by decide +kernel⟩,
   ⟨{ fabUp 4 with fab := { (fabUp 4).fab with ports := Tab.fill { FabPort.reset with st := 4, replay := [⟨0, 0, 1, []⟩] } } }, 1, 0, 0, 0, ⟨0, 0, 1, []⟩, [], by decide +kernel⟩,
   ⟨fabUp 4, 1, ⟨1, 0, 0, false, false, 0, 5, 0, 1, 0, 8, 1, 0, 0, 3, 0⟩, by decide +kernel⟩,
   ⟨fabUp 4, 1, ⟨1, 0, 0, false, false, 0, 5, 0, 1, 0, 6, 1, 0, 0, 0, 0⟩, by decide +kernel⟩,
   ⟨fabUp 4, 1, ⟨1, 0, 0, false, false, 0, 5, 0, 1, 0, 8, 1, 0, 0, 0, 0⟩, by decide +kernel⟩,
   ⟨{ fabUp 4 with fab := { (fabUp 4).fab with ports := Tab.fill { FabPort.reset with st := 4, rx := some (⟨1, 0, 0, false, false, 0, 0, 0, 1, 0, 8, 1, 0, 0, 0, 0⟩, .here) } } }, 1, ⟨1, 0, 0, false, false, 0, 0, 0, 1, 0, 8, 1, 0, 0, 0, 0⟩, .here, [], false, by decide +kernel⟩,
   ⟨{ fabUp 4 with fab := { (fabUp 4).fab with ports := Tab.fill { FabPort.reset with st := 4, rx := some (⟨1, 0, 0, false, false, 0, 0, 0, 1, 0, 8, 1, 0, 0, 9, 0⟩, .drop) } } }, 1, ⟨1, 0, 0, false, false, 0, 0, 0, 1, 0, 8, 1, 0, 0, 9, 0⟩, .drop, [], true, by decide +kernel⟩,
   ⟨{ fabUp 4 with fab := { (fabUp 4).fab with ports := Tab.fill { FabPort.reset with st := 4, rx := some (⟨1, 0, 0, false, false, 0, 0, 0, 1, 0, 8, 1, 0, 0, 0, 0⟩, .here) } } }, 1, ⟨1, 0, 0, false, false, 0, 0, 0, 1, 0, 8, 1, 0, 0, 0, 0⟩, .here, [], true, by decide +kernel⟩,
   ⟨{ fabUp 4 with fab := { (fabUp 4).fab with ports := Tab.fill { FabPort.reset with st := 4, rx := some (⟨1, 0, 0, false, false, 0, 3, 0, 1, 0, 8, 1, 0, 0, 0, 0⟩, .cut 2) } } }, 1, ⟨1, 0, 0, false, false, 0, 3, 0, 1, 0, 8, 1, 0, 0, 0, 0⟩, .cut 2, [], true, by decide +kernel⟩,
   ⟨{ fabUp 4 with fab := { (fabUp 4).fab with ports := Tab.fill { FabPort.reset with st := 4, rx := some (⟨1, 0, 0, false, false, 0, 3, 0, 1, 0, 8, 1, 0, 0, 0, 0⟩, .store 2) } } }, 1, ⟨1, 0, 0, false, false, 0, 3, 0, 1, 0, 8, 1, 0, 0, 0, 0⟩, .store 2, [], true, by decide +kernel⟩,
   ⟨fabUp 4, 1, by decide +kernel⟩,
   ⟨{ fabUp 4 with fab := { (fabUp 4).fab with ports := Tab.fill { FabPort.reset with st := 4, replay := [{ link := 7, resends := 0, ty := 1, bytes := [] }] } } }, 1, 7, 0, by decide +kernel⟩,
   ⟨{ fabUp 4 with fab := { (fabUp 4).fab with ports := Tab.fill { FabPort.reset with st := 4, replay := [{ link := 7, resends := 0, ty := 1, bytes := [] }] } } }, 1, 7, 0, 2000, ⟨7, 0, 1, []⟩, [], by decide +kernel⟩,
   ⟨{ fabUp 4 with fab := { (fabUp 4).fab with ports := Tab.fill { FabPort.reset with st := 4, replay := [{ link := 7, resends := 4, ty := 1, bytes := [] }] } } }, 1, 7, 0, 2000, ⟨7, 4, 1, []⟩, [], by decide +kernel⟩⟩

/-- The hypotheses of Discovery can be met. -/
theorem witness_Discovery :
    (∃ (s : State), (discovers s = true)) ∧
    (∃ (s : State) (p : Port) (a k : Advert), (discovers s = true) ∧ ((s.fab.ports.get p).st = 4) ∧ (advertOf s a.id = some k) ∧ (k.boot = a.boot)) ∧
    (∃ (s : State) (p : Port) (a : Advert), (discovers s = true) ∧ ((s.fab.ports.get p).st = 4) ∧ (a.id ≠ s.ident) ∧ ((advertOf s a.id = none ∨ ∃ k, advertOf s a.id = some k ∧ (k.boot ≠ a.boot ∨ k.seq < a.seq)))) ∧
    (∃ (s : State) (u ms : Nat) (ids : List Nat), (discovers s = true) ∧ (s.fab.closed = false) ∧ (ids = insertId s.ident s.fab.epoch) ∧ ((20 ≤ u ∧ s.fabNodes ≤ ids.length) ∨ s.tJoin * 1000 ≤ ms)) ∧
    (∃ (s : State) (u ms : Nat) (ids : List Nat), (discovers s = true) ∧ (s.fab.closed = false) ∧ (ids = insertId s.ident s.fab.epoch) ∧ ((20 ≤ u ∧ s.fabNodes ≤ ids.length) ∨ s.tJoin * 1000 ≤ ms) ∧ (ids.length < s.fabNodes)) ∧
    (∃ (s : State) (u ms : Nat) (ids : List Nat), (discovers s = true) ∧ (s.fab.closed = false) ∧ (ids = insertId s.ident s.fab.epoch) ∧ ((20 ≤ u ∧ s.fabNodes ≤ ids.length) ∨ s.tJoin * 1000 ≤ ms) ∧ ((ids.take 32).findIdx? (fun x => decide (x = s.ident)) = none)) ∧
    (∃ (s : State) (p : Port) (a k : Advert), (discovers s = true) ∧ ((s.fab.ports.get p).st = 4) ∧ (advertOf s a.id = some k) ∧ (k.boot = a.boot) ∧ (k.seq = a.seq) ∧ (nbrList k ≠ nbrList a)) ∧
    (∃ (s : State) (p : Port) (a k : Advert), (discovers s = true) ∧ ((s.fab.ports.get p).st = 4) ∧ (advertOf s a.id = some k) ∧ (k.boot = a.boot) ∧ (a.seq ≤ k.seq ∨ a.id = s.ident) ∧ (¬(k.seq = a.seq ∧ nbrList k ≠ nbrList a))) ∧
    (∃ (s : State) (p : Port) (a k : Advert), (discovers s = true) ∧ ((s.fab.ports.get p).st = 4) ∧ (advertOf s a.id = some k) ∧ (k.boot = a.boot) ∧ (a.seq > k.seq) ∧ (a.id = s.ident) ∧ (¬(k.seq = a.seq ∧ nbrList k ≠ nbrList a))) ∧
    (∃ (s : State), (discovers s = true) ∧ ((s.fab.ports.get 1).st = 4) ∧ (8 ≤ (s.fab.ports.get 1).replay.length)) ∧
    (∃ (s : State), (discovers s = true) ∧ ((s.fab.ports.get 1).st = 4) ∧ ((s.fab.ports.get 1).replay.length < 8)) ∧
    (∃ (s : State) (p : Port) (a : Advert) (u ms : Nat), (discovers s = false)) ∧
    (∃ (s : State) (u ms : Nat), (s.fab.closed = true)) ∧
    (∃ (s : State) (p : Port) (a : Advert), (discovers s = true) ∧ ((s.fab.ports.get p).st = 4) ∧ (a.id ≠ s.ident) ∧ ((advertOf s a.id = none ∨ ∃ k, advertOf s a.id = some k ∧ (k.boot ≠ a.boot ∨ k.seq < a.seq))) ∧ ((s.fab.ports.get 2).st = 4) ∧ (2 ≠ p) ∧ ((s.fab.ports.get 2).replay.length < 8)) ∧
    (∃ (s : State) (u ms : Nat), (discovers s = true) ∧ (s.fab.closed = false)) ∧
    (∃ (s : State) (p : Port) (a : Advert), (discovers s = true) ∧ ((s.fab.ports.get p).st = 4) ∧ (a.id ≠ s.ident) ∧ (advertOf s a.id = none ∨ ∃ k, advertOf s a.id = some k ∧ (k.boot ≠ a.boot ∨ k.seq < a.seq)) ∧ s.fab.closed = false ∧ (s.fab.ports.get p).nbrId ≠ a.id) ∧
    (∃ (s : State) (u ms : Nat), (discovers s = true) ∧ (s.fab.closed = false) ∧ 20 ≤ u ∧ s.fabNodes ≤ (insertId s.ident s.fab.epoch).length) ∧
    (∃ (s : State) (u ms : Nat), (discovers s = true) ∧ (s.fab.closed = false) ∧ (insertId s.ident s.fab.epoch).length < s.fabNodes ∧ s.tJoin * 1000 ≤ ms ∧ ((insertId s.ident s.fab.epoch).take 32).findIdx? (fun x => decide (x = s.ident)) = some 0) :=
  ⟨⟨fabUp 4, by decide +kernel⟩,
   ⟨{ fabUp 4 with fab := { (fabUp 4).fab with adverts := [⟨9, 1, 5, [], [], false⟩] } }, 1, ⟨9, 1, 5, [(0, 4, 7)], [], false⟩, ⟨9, 1, 5, [], [], false⟩, by decide +kernel⟩,
   ⟨{ fabPorts 4 with cat := { (fabPorts 4).cat with locked := true } }, 1, ⟨9, 1, 5, [], [], false⟩, by decide +kernel, by decide +kernel, by decide +kernel, Or.inl (by decide +kernel)⟩,
   ⟨{ fabPorts 4 with cat := { (fabPorts 4).cat with locked := true, params := [recFix 0x90 0 20 [(4, 1), (8, 3)]] ++ (fabPorts 4).cat.params } }, 20, 0, _, by decide +kernel, by decide +kernel, rfl, by decide +kernel⟩,
   ⟨{ fabPorts 4 with cat := { (fabPorts 4).cat with locked := true, params := [recFix 0x90 0 20 [(4, 5), (8, 3)]] ++ (fabPorts 4).cat.params } }, 0, 3000000, _, by decide +kernel, by decide +kernel, rfl, by decide +kernel, by decide +kernel⟩,
   ⟨{ fabPorts 4 with cat := { (fabPorts 4).cat with locked := true, params := [recFix 0x90 0 20 [(4, 1), (8, 3)]] ++ (fabPorts 4).cat.params }, fab := { (fabPorts 4).fab with epoch := (List.range 33).map (fun n => n) }, otp := Tab.put State.reset.otp 4 99 }, 20, 0, _, by decide +kernel, by decide +kernel, rfl, by decide +kernel, by decide +kernel⟩,
   ⟨{ fabUp 4 with fab := { (fabUp 4).fab with adverts := [⟨9, 1, 5, [], [], false⟩] } }, 1, ⟨9, 1, 5, [(0, 4, 7)], [], false⟩, ⟨9, 1, 5, [], [], false⟩, by decide +kernel⟩,
   ⟨{ fabUp 4 with fab := { (fabUp 4).fab with adverts := [⟨9, 1, 5, [], [], false⟩] } }, 1, ⟨9, 1, 5, [], [], false⟩, ⟨9, 1, 5, [], [], false⟩, by decide +kernel⟩,
   ⟨fabUp 4, 1, ⟨0, 0, 9, [], [], false⟩, ownAdvert (fabUp 4), by decide +kernel⟩,
   ⟨{ fabUp 4 with fab := { (fabUp 4).fab with ports := Tab.fill { FabPort.reset with st := 4, replay := List.replicate 8 { link := 0, resends := 0, ty := 2, bytes := [] } } } }, by decide +kernel⟩,
   ⟨fabUp 4, by decide +kernel⟩,
   ⟨State.reset, 1, ⟨9, 1, 5, [], [], false⟩, 20, 0, by decide +kernel⟩,
   ⟨fabUp 4, 20, 0, by decide +kernel⟩,
   ⟨{ fabPorts 4 with cat := { (fabPorts 4).cat with locked := true } }, 1, ⟨9, 1, 5, [], [], false⟩, by decide +kernel, by decide +kernel, by decide +kernel, Or.inl (by decide +kernel), by decide +kernel, by decide +kernel, by decide +kernel⟩,
   ⟨{ fabPorts 4 with cat := { (fabPorts 4).cat with locked := true, params := [recFix 0x90 0 20 [(4, 1), (8, 3)]] ++ (fabPorts 4).cat.params } }, 20, 0, by decide +kernel⟩,
   ⟨{ fabPorts 4 with cat := { (fabPorts 4).cat with locked := true } }, 1, ⟨9, 1, 5, [], [], false⟩, by decide +kernel⟩,
   ⟨{ fabPorts 4 with cat := { (fabPorts 4).cat with locked := true, params := [recFix 0x90 0 20 [(4, 1), (8, 3)]] ++ (fabPorts 4).cat.params } }, 20, 0, by decide +kernel⟩,
   ⟨{ fabPorts 4 with cat := { (fabPorts 4).cat with locked := true, params := [recFix 0x90 0 20 [(4, 5), (8, 3)]] ++ (fabPorts 4).cat.params } }, 0, 3000000, by decide +kernel⟩⟩

/-- The hypotheses of FabricTime can be met. -/
theorem witness_FabricTime :
    (∃ (s : State) (p : Port) (t1 t2 t3 t4 : Nat), (fabOn s = true) ∧ ((s.fab.ports.get p).st = 4)) ∧
    (∃ (s : State) (p : Port) (carried : Nat), (fabServes s = true) ∧ ((s.fab.ports.get p).st = 4) ∧ ((s.fab.ports.get p).parent = true) ∧ (s.fab.admitted = true) ∧ (s.fab.timeRef ≠ s.fab.addr)) ∧
    (∃ (s : State) (us : Nat), (fabOn s = true) ∧ (s.fab.timeRef ≠ s.fab.addr) ∧ (5000 ≤ us)) ∧
    (∃ (s : State) (i : Nat), (fabServes s = true) ∧ (s.fab.admitted = true) ∧ (s.fab.timeSet = true) ∧ (idAt s s.fab.timeRef = some i)) ∧
    (∃ (s : State) (i : Nat), (fabServes s = true) ∧ (s.fab.admitted = true) ∧ (s.fab.timeSet = true) ∧ (idAt s s.fab.timeRef = some i) ∧ (1 ∈ treePorts s i) ∧ ((s.fab.ports.get 1).replay.length < 8)) ∧
    (∃ (s : State) (i : Nat), (fabServes s = true) ∧ (s.fab.admitted = true) ∧ (s.fab.timeSet = true) ∧ (idAt s s.fab.timeRef = some i) ∧ (1 ∉ treePorts s i)) ∧
    (∃ (s : State), (fabServes s = true) ∧ (s.fab.admitted = true) ∧ (s.fab.timeSet = false)) ∧
    (∃ (s : State) (p : Port) (t1 t2 t3 t4 : Nat), (fabOn s = true) ∧ ((s.fab.ports.get p).st = 4) ∧ (s.fab.ports.get p).delays = []) ∧
    (∃ (s : State) (p : Port) (t1 t2 t3 t4 : Nat), (fabOn s = true) ∧ ((s.fab.ports.get p).st = 4) ∧ (s.fab.ports.get p).delays ≠ [] ∧ 1024 / 5 < absQ (((((t4 : Int) - t1 - ((t3 : Int) - t2) : Int) : Q) / 2) - linkDelay (s.fab.ports.get p))) ∧
    (∃ (s : State) (p : Port) (carried : Nat), (fabServes s = true) ∧ ((s.fab.ports.get p).st = 4) ∧ ((s.fab.ports.get p).parent = true) ∧ (s.fab.admitted = true) ∧ (s.fab.timeRef ≠ s.fab.addr) ∧ s.fab.timeSet = true ∧ s.fab.lock = true ∧ s.fab.badRun = 2 ∧ 1000 < absQ (s.fab.time - (carried + linkDelay (s.fab.ports.get p) * 25 / 256))) ∧
    (∃ (s : State) (p : Port) (carried : Nat), (fabServes s = true) ∧ ((s.fab.ports.get p).st = 4) ∧ ((s.fab.ports.get p).parent = true) ∧ (s.fab.admitted = true) ∧ (s.fab.timeRef ≠ s.fab.addr) ∧ s.fab.timeSet = false) ∧
    (∃ (s : State) (us : Nat), (fabOn s = true) ∧ (s.fab.timeRef ≠ s.fab.addr) ∧ (5000 ≤ us) ∧ s.fab.lock = true) :=
  ⟨⟨fabUp 4, 1, 0, 10, 20, 30, by decide +kernel⟩,
   ⟨{ fabUp 4 with fab := { (fabUp 4).fab with timeRef := 1, ports := Tab.fill { FabPort.reset with st := 4, parent := true } } }, 1, 77, by decide +kernel, by decide +kernel, by decide +kernel, by decide +kernel, by decide +kernel⟩,
   ⟨{ fabUp 4 with fab := { (fabUp 4).fab with timeRef := 1 } }, 5000, by decide +kernel⟩,
   ⟨fabUp 4, 0, by decide +kernel⟩,
   ⟨{ fabUp 4 with fab := { (fabUp 4).fab with epoch := [0, 7], adverts := [⟨7, 1, 5, [(0, 4, 0)], [], true⟩], ports := Tab.fill { FabPort.reset with st := 4, nbrId := 7, nbrAddr := 1 } } }, 0, by decide +kernel⟩,
   ⟨fabUp 4, 0, by decide +kernel⟩,
   ⟨{ fabUp 4 with fab := { (fabUp 4).fab with timeSet := false } }, by decide +kernel⟩,
   ⟨fabUp 4, 1, 0, 10, 20, 30, by decide +kernel⟩,
   ⟨{ fabUp 4 with fab := { (fabUp 4).fab with ports := Tab.fill { FabPort.reset with st := 4, delays := [5000] } } }, 1, 0, 10, 20, 30, by decide +kernel⟩,
   ⟨{ fabUp 4 with fab := { (fabUp 4).fab with timeRef := 1, time := 5000, badRun := 2, ports := Tab.fill { FabPort.reset with st := 4, parent := true } } }, 1, 77, by decide +kernel⟩,
   ⟨{ fabUp 4 with fab := { (fabUp 4).fab with timeRef := 1, timeSet := false, lock := false, ports := Tab.fill { FabPort.reset with st := 4, parent := true } } }, 1, 77, by decide +kernel⟩,
   ⟨{ fabUp 4 with fab := { (fabUp 4).fab with timeRef := 1 } }, 5000, by decide +kernel⟩⟩

/-- The hypotheses of EndToEnd can be met. -/
theorem witness_EndToEnd :
    (∃ (s : State) (h : FabHeader) (pl : List Byte) (c : CtlContent), (fabServes s = true) ∧ (h.e2e = true) ∧ (h.type = 3 ∨ s.fabReady = true) ∧ (pl.length < 8)) ∧
    (∃ (s : State) (h : FabHeader) (pl : List Byte) (c : CtlContent) (o : Option FabStream), (fabServes s = true) ∧ (h.e2e = true) ∧ (h.type = 3 ∨ s.fabReady = true) ∧ (8 ≤ pl.length) ∧ (s.fab.streams.find? (fun y => decide (y.src = h.src) && decide (y.sep = h.sep) && decide (y.dep = h.dep) && (y.bcast == h.bcast)) = o)) ∧
    (∃ (s : State) (h : FabHeader), (fabServes s = true) ∧ (h.type = 0) ∧ (s.fabReady = true)) ∧
    (∃ (s : State) (h : FabHeader) (pl : List Byte) (c : CtlContent) (o : Option FabStream), (fabServes s = true) ∧ (h.e2e = true) ∧ (h.type = 3 ∨ s.fabReady = true) ∧ (8 ≤ pl.length) ∧ (s.fab.streams.find? (fun y => decide (y.src = h.src) && decide (y.sep = h.sep) && decide (y.dep = h.dep) && (y.bcast == h.bcast)) = o) ∧ uAt pl (pl.length - 8 + 2) 2 ≠ dataId h) ∧
    (∃ (s : State) (h : FabHeader) (pl : List Byte) (c : CtlContent) (o : Option FabStream), (fabServes s = true) ∧ (h.e2e = true) ∧ (h.type = 3 ∨ s.fabReady = true) ∧ (8 ≤ pl.length) ∧ (s.fab.streams.find? (fun y => decide (y.src = h.src) && decide (y.sep = h.sep) && decide (y.dep = h.dep) && (y.bcast == h.bcast)) = o) ∧ uAt pl (pl.length - 8 + 2) 2 = dataId h ∧ uAt pl (pl.length - 8 + 4) 4 = crc32c (e2eCover h (pl.take (pl.length - 8 + 4)))) ∧
    (∃ (s : State) (h : FabHeader) (pl : List Byte) (c : CtlContent) (o : Option FabStream), (fabServes s = true) ∧ (h.e2e = true) ∧ (h.type = 3 ∨ s.fabReady = true) ∧ (8 ≤ pl.length) ∧ (s.fab.streams.find? (fun y => decide (y.src = h.src) && decide (y.sep = h.sep) && decide (y.dep = h.dep) && (y.bcast == h.bcast)) = o) ∧ uAt pl (pl.length - 8 + 2) 2 = dataId h ∧ uAt pl (pl.length - 8) 2 = 5) ∧
    (∃ (s : State) (h : FabHeader) (pl : List Byte) (c : CtlContent) (o : Option FabStream), (fabServes s = true) ∧ (h.e2e = true) ∧ (h.type = 3 ∨ s.fabReady = true) ∧ (8 ≤ pl.length) ∧ (s.fab.streams.find? (fun y => decide (y.src = h.src) && decide (y.sep = h.sep) && decide (y.dep = h.dep) && (y.bcast == h.bcast)) = o) ∧ uAt pl (pl.length - 8 + 2) 2 = dataId h ∧ uAt pl (pl.length - 8) 2 = 5 + 8) ∧
    (∃ (s : State) (h : FabHeader) (pl : List Byte) (c : CtlContent) (o : Option FabStream), (fabServes s = true) ∧ (h.e2e = true) ∧ (h.type = 3 ∨ s.fabReady = true) ∧ (8 ≤ pl.length) ∧ (s.fab.streams.find? (fun y => decide (y.src = h.src) && decide (y.sep = h.sep) && decide (y.dep = h.dep) && (y.bcast == h.bcast)) = o) ∧ uAt pl (pl.length - 8 + 2) 2 = dataId h ∧ uAt pl (pl.length - 8) 2 = 5 + 9) ∧
    (∃ (s : State) (h : FabHeader) (pl : List Byte) (c : CtlContent) (o : Option FabStream), (fabServes s = true) ∧ (h.e2e = true) ∧ (h.type = 3 ∨ s.fabReady = true) ∧ (8 ≤ pl.length) ∧ (s.fab.streams.find? (fun y => decide (y.src = h.src) && decide (y.sep = h.sep) && decide (y.dep = h.dep) && (y.bcast == h.bcast)) = o) ∧ uAt pl (pl.length - 8 + 2) 2 = dataId h ∧ uAt pl (pl.length - 8) 2 = 6 + 1) ∧
    (∃ (s : State) (h : FabHeader) (pl : List Byte) (c : CtlContent) (o : Option FabStream), (fabServes s = true) ∧ (h.e2e = true) ∧ (h.type = 3 ∨ s.fabReady = true) ∧ (8 ≤ pl.length) ∧ (s.fab.streams.find? (fun y => decide (y.src = h.src) && decide (y.sep = h.sep) && decide (y.dep = h.dep) && (y.bcast == h.bcast)) = o) ∧ uAt pl (pl.length - 8 + 2) 2 = dataId h ∧ uAt pl (pl.length - 8) 2 ≠ 6 + 1) :=
  ⟨⟨fabUp 4, ⟨1, 1, 5, true, false, 0, 0, 0, 1, 0, 4, 1, 0, 0, 0, 0⟩, [], .other, by decide +kernel⟩,
   ⟨fabUp 4, ⟨1, 1, 5, true, false, 0, 0, 0, 1, 0, 8, 1, 0, 0, 0, 0⟩, List.replicate 8 0, .other, none, by decide +kernel⟩,
   ⟨fabUp 4, ⟨1, 0, 2, false, false, 0, 0, 0, 1, 0, 8, 1, 0, 7, 0, 0⟩, by decide +kernel⟩,
   ⟨fabUp 4, ⟨1, 1, 5, true, false, 0, 0, 0, 1, 0, 8, 1, 0, 0, 0, 0⟩, List.replicate 8 0, .other, none, by decide +kernel⟩,
   ⟨fabUp 4, hdrFix, trailed hdrFix 5, .other, none, by decide +kernel⟩,
   ⟨streamed 5 false none, hdrFix, trailed hdrFix 5, .other, some ⟨1, 0, 0, false, 5, false, none⟩, by decide +kernel⟩,
   ⟨streamed 5 false none, hdrFix, trailed hdrFix 13, .other, some ⟨1, 0, 0, false, 5, false, none⟩, by decide +kernel⟩,
   ⟨streamed 5 false none, hdrFix, trailed hdrFix 14, .other, some ⟨1, 0, 0, false, 5, false, none⟩, by decide +kernel⟩,
   ⟨streamed 5 true (some 6), hdrFix, trailed hdrFix 7, .other, some ⟨1, 0, 0, false, 5, true, some 6⟩, by decide +kernel⟩,
   ⟨streamed 5 true (some 6), hdrFix, trailed hdrFix 8, .other, some ⟨1, 0, 0, false, 5, true, some 6⟩, by decide +kernel⟩⟩

/-- The hypotheses of Management can be met. -/
theorem witness_Management :
    (∃ (s : State) (r : FabReq) (a n v : Nat), (mgmtOn s = true) ∧ (r.short = false) ∧ (s.svcEn 5 = true) ∧ (s.cat.recovery = false)) ∧
    (∃ (s : State) (r : FabReq) (region first size id : Nat) (fw : FwFacts) (ok : Bool) (fs : List ReadFail), (mgmtOn s = true) ∧ (r.short = false) ∧ (s.svcEn 4 = true)) ∧
    (∃ (s : State) (r : FabReq) (start count : Nat) (nonce : List Byte), (mgmtOn s = true) ∧ (r.short = false)) ∧
    (∃ (s : State) (r : FabReq) (op st code n m k : Nat) (l : List Byte) (fw : FwFacts) (ok : Bool) (fs : List ReadFail), mgmtOn s = true ∧ r.short = false ∧ s.svcEn 5 = false ∧ s.svcEn 4 = false) ∧
    (∃ (s : State) (r : FabReq) (a n v : Nat), (mgmtOn s = true) ∧ (r.short = false) ∧ (s.svcEn 5 = true) ∧ (s.cat.recovery = false) ∧ a % 4 = 0 ∧ (List.range n).all (fun k => readable (a + 4 * k)) = true ∧ readable a = true ∧ s.fn 5 = true) ∧
    (∃ (s : State) (r : FabReq) (a n v : Nat), (mgmtOn s = true) ∧ (r.short = false) ∧ (s.svcEn 5 = true) ∧ (s.cat.recovery = false) ∧ readable a = false ∧ 64 < n) ∧
    (∃ (s : State) (r : FabReq) (a n v : Nat), (mgmtOn s = true) ∧ (r.short = false) ∧ (s.svcEn 5 = true) ∧ (s.cat.recovery = false) ∧ a % 4 = 0 ∧ readable a = true ∧ ¬(a = lvcCmdAddr ∧ s.fn 5 = true)) ∧
    (∃ (s : State) (r : FabReq) (region first size id : Nat) (fw : FwFacts) (ok : Bool) (fs : List ReadFail), (mgmtOn s = true) ∧ (r.short = false) ∧ (s.svcEn 4 = true) ∧ stageOther s (.fabric r.node) = false ∧ stageMode s = true ∧ s.life < 3 ∧ s.cat.stage.region = 0 ∧ first + size / 4096 ≤ regionBlocks region ∧ stageRoutineOk (.fabric r.node) id s = false) ∧
    (∃ (s : State) (r : FabReq) (region first size id : Nat) (fw : FwFacts) (ok : Bool) (fs : List ReadFail), (mgmtOn s = true) ∧ (r.short = false) ∧ (s.svcEn 4 = true) ∧ stageOther s (.fabric r.node) = false ∧ s.cat.stage.region ≠ 0 ∧ s.cat.stage.block = none ∧ 0xF103 < id) ∧
    (∃ (s : State) (r : FabReq) (region first size id : Nat) (fw : FwFacts) (ok : Bool) (fs : List ReadFail), (mgmtOn s = true) ∧ (r.short = false) ∧ (s.svcEn 4 = true) ∧ stageOther s (.fabric r.node) = true ∧ 0xF100 ≤ id ∧ id ≤ 0xF103) ∧
    (∃ (s : State) (r : FabReq) (region first size id : Nat) (fw : FwFacts) (ok : Bool) (fs : List ReadFail), (mgmtOn s = true) ∧ (r.short = false) ∧ (s.svcEn 4 = true) ∧ stageOther s (.fabric r.node) = false ∧ stageRoutineOk (.fabric r.node) id s = true) ∧
    (∃ (s : State) (r : FabReq) (start count : Nat) (nonce : List Byte), (mgmtOn s = true) ∧ (r.short = false) ∧ nonce.length ≠ 32 ∧ count ≤ 4096) ∧
    (∃ (s : State) (r : FabReq) (start count : Nat) (nonce : List Byte), (mgmtOn s = true) ∧ (r.short = false) ∧ nonce.length = 32 ∧ s.sec.idSlot = none) ∧
    (∃ (s : State) (r : FabReq) (start count : Nat) (nonce : List Byte), (mgmtOn s = true) ∧ (r.short = false) ∧ nonce.length = 32 ∧ s.sec.idSlot ≠ none) ∧
    (∃ (s : State) (r : FabReq) (op st code n m k : Nat) (l : List Byte) (fw : FwFacts) (ok : Bool) (fs : List ReadFail), mgmtOn s = true ∧ r.short = true ∧ code < 128 ∧ [0x01, 0x02, 0x10, 0x11, 0x12, 0x20, 0x21, 0x22, 0x30, 0x31].contains code = false) ∧
    (∃ (s : State) (node block part ms : Nat) (data : List Byte), mgmtOn s = true ∧ 1000 ≤ ms ∧ s.cat.stage.src = .fabric node ∧ (addPart node block part data s.fab.parts).parts.length < 8) ∧
    (∃ (s : State) (node block part ms : Nat) (data : List Byte), mgmtOn s = true ∧ s.cat.stage.src = .fabric node ∧ ¬(addPart node block part data s.fab.parts).parts.length < 8 ∧ s.cat.stage.block = none) ∧
    (∃ (s : State) (node block part ms : Nat) (data : List Byte), mgmtOn s = true ∧ 7 < part) :=
  ⟨⟨fabSvc, ⟨1, 0, 7, false⟩, 0x50013000, 65, 5, by decide +kernel⟩,
   ⟨{ fabSvc with cat := { fabSvc.cat with stage := { noStage with src := .fabric 2, region := 1 } } }, ⟨1, 0, 7, false⟩, 1, 0, 4096, 0xF103, plainFw, true, [], by decide +kernel⟩,
   ⟨fabSvc, ⟨1, 0, 7, false⟩, 0, 4096, [], by decide +kernel⟩,
   ⟨fabUp 4, ⟨1, 0, 7, false⟩, 0, 0, 0x55, 0, 0, 0, [], plainFw, true, [], by decide +kernel⟩,
   ⟨fabSvc, ⟨1, 0, 7, false⟩, 0x50007004, 2, 5, by decide +kernel⟩,
   ⟨fabSvc, ⟨1, 0, 7, false⟩, 0x50013000, 65, 5, by decide +kernel⟩,
   ⟨fabSvc, ⟨1, 0, 7, false⟩, 0x50000000, 64, 5, by decide +kernel⟩,
   ⟨fabSvc, ⟨1, 0, 7, false⟩, 1, 0, 4096, 0xF100, plainFw, true, [], by decide +kernel⟩,
   ⟨{ fabSvc with cat := { fabSvc.cat with stage := { noStage with src := .fabric 1, region := 1 } } }, ⟨1, 0, 7, false⟩, 1, 0, 4096, 0xF104, plainFw, true, [], by decide +kernel⟩,
   ⟨{ fabSvc with cat := { fabSvc.cat with stage := { noStage with src := .fabric 2, region := 1 } } }, ⟨1, 0, 7, false⟩, 1, 0, 4096, 0xF103, plainFw, true, [], by decide +kernel⟩,
   ⟨{ fabSvc with cat := { fabSvc.cat with desc := some { gen := 1, pref := .a, stA := 3, stB := 4 }, result := 1 } }, ⟨1, 0, 7, false⟩, 1, 0, 4096, 0xF103, plainFw, true, [], by decide +kernel⟩,
   ⟨fabSvc, ⟨1, 0, 7, false⟩, 0, 4096, [], by decide +kernel⟩,
   ⟨fabSvc, ⟨1, 0, 7, false⟩, 0, 0, List.replicate 32 0, by decide +kernel⟩,
   ⟨{ fabSvc with sec := { fabSvc.sec with idSlot := some 0 } }, ⟨1, 0, 7, false⟩, 0, 0, List.replicate 32 0, by decide +kernel⟩,
   ⟨fabUp 4, ⟨1, 0, 7, true⟩, 0, 0, 0x55, 0, 0, 0, [], plainFw, true, [], by decide +kernel⟩,
   ⟨{ fabSvc with cat := { fabSvc.cat with stage := { noStage with src := .fabric 1, region := 1, next := 3, left := 1 } } }, 1, 3, 7, 1000, List.replicate 512 0, by decide +kernel⟩,
   ⟨{ fabSvc with cat := { fabSvc.cat with stage := { noStage with src := .fabric 1, region := 1, next := 3, left := 1 } }, fab := { fabSvc.fab with parts := some ⟨1, 3, (List.range 7).map (fun k => (k, []))⟩ } }, 1, 3, 7, 0, List.replicate 512 0, by decide +kernel⟩,
   ⟨fabSvc, 1, 3, 8, 0, [], by decide +kernel⟩⟩

/-- The hypotheses of GlobalOperations can be met. -/
theorem witness_GlobalOperations :
    (∃ (s : State) (r : FabReq) (t : Nat), (mgmtOn s = true) ∧ (r.short = false)) ∧
    (∃ (s : State) (r : FabReq) (t : Nat), (s.fab.resetAt = some (r, t))) ∧
    (∃ (s : State) (node number : Nat), (mgmtOn s = true)) ∧
    (∃ (s : State) (number : Nat) (l : List Nat), (s.fab.barriers.find? (fun b => decide (b.1 = number % 2 ^ 16)) = some (number % 2 ^ 16, l))) ∧
    (∃ (s : State) (r : FabReq) (t : Nat) (l : List Nat), (mgmtOn s = true)) ∧
    (∃ (s : State) (node tag t : Nat) (l : List Nat), (s.fab.snapshot = some (node, tag, t, l))) ∧
    (∃ (s : State) (r : FabReq) (t : Nat), (s.fab.resetAt = some (r, t)) ∧ (s.timeNs < t)) ∧
    (∃ (s : State) (r : FabReq) (t : Nat), (s.fab.resetAt = some (r, t)) ∧ (t ≤ s.timeNs) ∧ (s.sys.mode = .drive ∨ s.sys.mode = .charge)) ∧
    (∃ (s : State) (r : FabReq) (t : Nat), (s.fab.resetAt = some (r, t)) ∧ (t ≤ s.timeNs) ∧ (s.sys.mode = .ready)) ∧
    (∃ (s : State) (r : FabReq) (t : Nat), (mgmtOn s = true) ∧ (r.short = false) ∧ s.sys.mode = .drive) ∧
    (∃ (s : State) (r : FabReq) (t : Nat), (mgmtOn s = true) ∧ (r.short = false) ∧ s.sys.mode ≠ .drive ∧ s.sys.mode ≠ .charge ∧ r.node = s.fab.addr ∧ (t : Q) < ((s.timeNs + 10000 * diameter s : Nat) : Q) + s.leadMargin * 1000000000) ∧
    (∃ (s : State) (r : FabReq) (t : Nat), (mgmtOn s = true) ∧ (r.short = false) ∧ s.sys.mode ≠ .drive ∧ s.sys.mode ≠ .charge ∧ r.node ≠ s.fab.addr ∧ t < s.timeNs) ∧
    (∃ (s : State) (r : FabReq) (t : Nat), (mgmtOn s = true) ∧ (r.short = false) ∧ s.sys.mode ≠ .drive ∧ s.sys.mode ≠ .charge ∧ s.timeNs ≤ t ∧ ((s.timeNs + 10000 * diameter s : Nat) : Q) + s.leadMargin * 1000000000 ≤ t) ∧
    (∃ (s : State) (number : Nat) (l : List Nat), (s.fab.barriers.find? (fun b => decide (b.1 = number % 2 ^ 16)) = some (number % 2 ^ 16, l)) ∧ s.fabReady = true ∧ (reachable s).all (fun i => match addrOf s i with   | some a => l.contains a   | none => true) = true) ∧
    (∃ (s : State) (number : Nat) (l : List Nat), (s.fab.barriers.find? (fun b => decide (b.1 = number % 2 ^ 16)) = some (number % 2 ^ 16, l)) ∧ (reachable s).any (fun i => match addrOf s i with   | some a => !l.contains a   | none => false) = true) ∧
    (∃ (s : State) (r : FabReq) (t : Nat) (l : List Nat), (mgmtOn s = true) ∧ l.length < 1) ∧
    (∃ (s : State) (r : FabReq) (t : Nat) (l : List Nat), (mgmtOn s = true) ∧ r.short = false ∧ l.all (fun a => decide (a % 4 = 0) && inVitrine a) = false) ∧
    (∃ (s : State) (r : FabReq) (t : Nat) (l : List Nat), (mgmtOn s = true) ∧ r.short = false ∧ l.all (fun a => decide (a % 4 = 0) && inVitrine a) = true ∧ r.node = s.fab.addr ∧ (t : Q) < ((s.timeNs + 10000 * diameter s : Nat) : Q) + s.leadMargin * 1000000000) ∧
    (∃ (s : State) (r : FabReq) (t : Nat) (l : List Nat), (mgmtOn s = true) ∧ r.short = false ∧ l.length = 32 ∧ l.all (fun a => decide (a % 4 = 0) && inVitrine a) = true ∧ r.node ≠ s.fab.addr ∧ t < s.timeNs) ∧
    (∃ (s : State) (r : FabReq) (t : Nat) (l : List Nat), (mgmtOn s = true) ∧ r.short = false ∧ l.all (fun a => decide (a % 4 = 0) && inVitrine a) = true ∧ s.timeNs ≤ t ∧ ((s.timeNs + 10000 * diameter s : Nat) : Q) + s.leadMargin * 1000000000 ≤ t) ∧
    (∃ (s : State) (node tag t : Nat) (l : List Nat), (s.fab.snapshot = some (node, tag, t, l)) ∧ fabServes s = true ∧ t ≤ s.timeNs) ∧
    (∃ (s : State) (node tag t : Nat) (l : List Nat), (s.fab.snapshot = some (node, tag, t, l)) ∧ s.timeNs < t) :=
  ⟨⟨fabUp 4, ⟨0, 0, 7, false⟩, 5, by decide +kernel⟩,
   ⟨{ fabUp 4 with fab := { fabSvc.fab with resetAt := some (reqFix, 9) } }, reqFix, 9, by decide +kernel⟩,
   ⟨fabSvc, 0, 7, by decide +kernel⟩,
   ⟨{ fabSvc with fab := { fabSvc.fab with barriers := [(7, [])] } }, 7, [], by decide +kernel⟩,
   ⟨fabSvc, ⟨0, 0, 7, false⟩, 5, [], by decide +kernel⟩,
   ⟨{ fabSvc with fab := { fabSvc.fab with snapshot := some (1, 7, 1, [0x50000000]) } }, 1, 7, 1, [0x50000000], by decide +kernel⟩,
   ⟨{ fabUp 4 with fab := { fabSvc.fab with resetAt := some (reqFix, 9) } }, reqFix, 9, by decide +kernel⟩,
   ⟨{ fabUp 4 with fab := { fabSvc.fab with resetAt := some (reqFix, 0) } }, reqFix, 0, by decide +kernel⟩,
   ⟨{ fabSvc with fab := { fabSvc.fab with resetAt := some (reqFix, 0) } }, reqFix, 0, by decide +kernel⟩,
   ⟨fabUp 4, ⟨0, 0, 7, false⟩, 5, by decide +kernel⟩,
   ⟨fabSvc, ⟨0, 0, 7, false⟩, 5, by decide +kernel⟩,
   ⟨{ fabSvc with fab := { fabSvc.fab with time := 6 } }, ⟨1, 0, 7, false⟩, 5, by decide +kernel⟩,
   ⟨fabSvc, ⟨0, 0, 7, false⟩, 1000000000, by decide +kernel⟩,
   ⟨{ fabSvc with fab := { fabSvc.fab with barriers := [(7, [0])] } }, 7, [0], by decide +kernel⟩,
   ⟨{ fabSvc with fab := { fabSvc.fab with barriers := [(7, [])] } }, 7, [], by decide +kernel⟩,
   ⟨fabSvc, ⟨0, 0, 7, false⟩, 5, [], by decide +kernel⟩,
   ⟨fabSvc, ⟨0, 0, 7, false⟩, 5, [0x50013000], by decide +kernel⟩,
   ⟨fabSvc, ⟨0, 0, 7, false⟩, 5, [0x50000000], by decide +kernel⟩,
   ⟨{ fabSvc with fab := { fabSvc.fab with time := 6 } }, ⟨1, 0, 7, false⟩, 5, List.replicate 32 0x50000000, by decide +kernel⟩,
   ⟨fabSvc, ⟨0, 0, 7, false⟩, 1000000000, [0x50000000], by decide +kernel⟩,
   ⟨{ fabSvc with fab := { fabSvc.fab with snapshot := some (1, 7, 0, [0x50000000]) } }, 1, 7, 0, [0x50000000], by decide +kernel⟩,
   ⟨{ fabSvc with fab := { fabSvc.fab with snapshot := some (1, 7, 1, [0x50000000]) } }, 1, 7, 1, [0x50000000], by decide +kernel⟩⟩

/-- The hypotheses of PairPaths can be met. -/
theorem witness_PairPaths :
    (∃ (s : State), (heartbeatOn s = true)) ∧
    (∃ (s : State), (pairOn s = true)) ∧
    (∃ (s : State) (us : Nat), (pairOn s = true) ∧ (s.pf 0x98 0 8 * 1000000 ≤ us ∨ s.fabReady = false)) ∧
    (∃ (s : State) (us : Nat), (pairOn s = true) ∧ (s.pf 0x98 0 12 * 1000000 ≤ us)) ∧
    (∃ (s : State) (high : Bool), (pairOn s = true)) ∧
    (∃ (s : State) (ms : Nat), (s.pair.arbOut = true)) ∧
    (∃ (s : State) (high : Bool) (us : Nat), (s.pair.arbWait = true) ∧ (2000 ≤ us)) ∧
    (∃ (s : State), (heartbeatOn s = true) ∧ partnerAddr s = some 1 ∧ s.fabReady = true) ∧
    (∃ (s : State) (us : Nat), (pairOn s = true) ∧ (s.pf 0x98 0 8 * 1000000 ≤ us ∨ s.fabReady = false) ∧ activeCode 0x9002 s = false) ∧
    (∃ (s : State) (us : Nat), (pairOn s = true) ∧ (s.pf 0x98 0 8 * 1000000 ≤ us ∨ s.fabReady = false) ∧ activeCode 0x9002 s = true ∧ s.pair.declared = false ∧ actsSenior s = false) ∧
    (∃ (s : State) (us : Nat), (pairOn s = true) ∧ (s.pf 0x98 0 8 * 1000000 ≤ us ∨ s.fabReady = false) ∧ activeCode 0x9002 s = true ∧ s.pair.declared = false ∧ actsSenior s = true) ∧
    (∃ (s : State) (us : Nat), (pairOn s = true) ∧ (s.pf 0x98 0 12 * 1000000 ≤ us) ∧ activeCode 0x9001 s = false) ∧
    (∃ (s : State) (us : Nat), (pairOn s = true) ∧ (s.pf 0x98 0 12 * 1000000 ≤ us) ∧ activeCode 0x9001 s = true ∧ s.pair.declared = false ∧ actsSenior s = false) ∧
    (∃ (s : State) (us : Nat), (pairOn s = true) ∧ (s.pf 0x98 0 12 * 1000000 ≤ us) ∧ activeCode 0x9001 s = true ∧ s.pair.declared = false ∧ actsSenior s = true) ∧
    (∃ (s : State) (high : Bool), (pairOn s = true) ∧ high = true) ∧
    (∃ (s : State) (high : Bool), (pairOn s = true) ∧ s.pair.arbOut = false ∧ s.pair.testDue = false ∧ actsSenior s = false) ∧
    (∃ (s : State) (high : Bool), (pairOn s = true) ∧ s.pair.arbOut = false ∧ s.pair.testDue = false ∧ actsSenior s = true) ∧
    (∃ (s : State) (ms : Nat), (s.pair.arbOut = true) ∧ actsSenior s = false ∧ s.pair.arbWait = true ∧ 1 ≤ ms) ∧
    (∃ (s : State) (high : Bool) (us : Nat), (s.pair.arbWait = true) ∧ (2000 ≤ us) ∧ high = false) ∧
    (∃ (s : State) (high : Bool) (us : Nat), (s.pair.arbWait = true) ∧ (2000 ≤ us) ∧ high = true ∧ s.pair.partnerFit = false) ∧
    (∃ (s : State) (high : Bool) (us : Nat), (s.pair.arbWait = true) ∧ (2000 ≤ us) ∧ high = true ∧ s.pair.partnerFit = true) :=
  ⟨⟨pairFix, by decide +kernel⟩,
   ⟨pairFix, by decide +kernel⟩,
   ⟨pairFix, 1000000, by decide +kernel⟩,
   ⟨pairFix, 1000000, by decide +kernel⟩,
   ⟨pairFix, true, by decide +kernel⟩,
   ⟨{ pairFix with pair := { pairFix.pair with arbOut := true } }, 0, by decide +kernel⟩,
   ⟨{ pairFix with pair := { pairFix.pair with arbWait := true } }, false, 2000, by decide +kernel⟩,
   ⟨pairFix, by decide +kernel⟩,
   ⟨pairFix, 1000000, by decide +kernel⟩,
   ⟨raise 0x9002 1 0 pairFix, 1000000, by decide +kernel⟩,
   ⟨raise 0x9002 1 0 { pairFix with mer := { pairFix.mer with senior := true } }, 1000000, by decide +kernel⟩,
   ⟨pairFix, 1000000, by decide +kernel⟩,
   ⟨raise 0x9001 1 0 pairFix, 1000000, by decide +kernel⟩,
   ⟨raise 0x9001 1 0 { pairFix with mer := { pairFix.mer with senior := true } }, 1000000, by decide +kernel⟩,
   ⟨pairFix, true, by decide +kernel⟩,
   ⟨pairFix, false, by decide +kernel⟩,
   ⟨{ pairFix with mer := { pairFix.mer with senior := true } }, false, by decide +kernel⟩,
   ⟨{ pairFix with pair := { pairFix.pair with arbOut := true, arbWait := true } }, 1, by decide +kernel⟩,
   ⟨{ pairFix with pair := { pairFix.pair with arbWait := true } }, false, 2000, by decide +kernel⟩,
   ⟨{ pairFix with pair := { pairFix.pair with arbWait := true } }, true, 2000, by decide +kernel⟩,
   ⟨{ pairFix with pair := { pairFix.pair with arbWait := true, partnerFit := true } }, true, 2000, by decide +kernel⟩⟩

/-- The hypotheses of PairLead can be met. -/
theorem witness_PairLead :
    (∃ (s : State), (pairOn s = true) ∧ (s.pair.role = 1) ∧ (leadOk s = false)) ∧
    (∃ (s : State) (h : PartnerHb), (s.pair.hb = some h)) ∧
    (∃ (s : State) (n ms : Nat) (w : Bool), (pairOn s = true) ∧ (s.pair.role = 1) ∧ (bothPaths s = true) ∧ (s.pair.handover = none) ∧ (handoverDeferred s = false) ∧ (n = handoverAt s) ∧ ((w = true → ms < 5000 ∧ s.pair.swapDue = true ∧ actsSenior s = true ∧ s.pair.arbFit = true ∧ s.pf 0x98 0 28 ≠ 0))) ∧
    (∃ (s : State) (h : Handover), (s.pair.handover = some h)) ∧
    (∃ (s : State) (us : Nat) (h : Handover), (s.pair.handover = some h)) ∧
    (∃ (s : State) (ms : Nat) (h : PartnerHb), (pairOn s = true) ∧ (s.pair.role = 1) ∧ (actsSenior s = false) ∧ (s.pair.swapped = false) ∧ (bothPaths s = true) ∧ (s.pair.hb = some h) ∧ (h.leadOk = true)) ∧
    (∃ (s : State) (p1 b p2 : Bool) (ms : Nat), (pairOn s = true) ∧ (s.pair.testDue = true)) ∧
    (∃ (s : State) (ms : Nat) (ok : Bool), (pairOn s = true) ∧ (s.pair.swapped = true) ∧ (s.pair.handover = none) ∧ (inSession s = false) ∧ (actsSenior s = true)) ∧
    (∃ (s : State) (ms : Nat), (pairOn s = true) ∧ (s.pair.swapped = true) ∧ (s.pair.handover = none) ∧ (inSession s = false) ∧ (actsSenior s = false) ∧ (s.pair.role = 1) ∧ (s.pair.swapBad = false) ∧ (bothPaths s = true) ∧ (s.pf 0x98 0 28 * 1000 ≤ ms)) ∧
    (∃ (s : State) (ms : Nat), (pairOn s = true) ∧ (s.pair.role = 3) ∧ (bothPaths s = true) ∧ (2000 ≤ ms)) ∧
    (∃ (s : State) (h : Handover), (s.pair.handover = some h) ∧ (h.acked = true) ∧ (h.at_ ≤ s.timeNs) ∧ (bothPaths s = true) ∧ (handoverDeferred s = false) ∧ (h.give = true)) ∧
    (∃ (s : State) (h : Handover), (s.pair.handover = some h) ∧ (h.acked = true) ∧ (h.at_ ≤ s.timeNs) ∧ (bothPaths s = true) ∧ (handoverDeferred s = false) ∧ (h.give = false) ∧ (h.counters.find? (fun p => decide (p.1 = 0x20)) = some (0x20, 9)) ∧ (s.lvc.cmd = some (5, 14000)) ∧ (s.pair.role ≠ 1)) ∧
    (∃ (s : State) (h : Handover), (s.pair.handover = some h) ∧ (h.acked = true) ∧ (h.at_ ≤ s.timeNs) ∧ (bothPaths s = true) ∧ (handoverDeferred s = false) ∧ (h.give = true) ∧ (s.lvc.cmd = some (5, 14000)) ∧ (s.pair.role = 1)) ∧
    (∃ (s : State) (h : Handover), (s.pair.handover = some h) ∧ (h.acked = true) ∧ (s.timeNs < h.at_) ∧ (bothPaths s = true) ∧ (handoverDeferred s = false)) ∧
    (∃ (s : State), (pairOn s = true) ∧ (s.pair.role = 1) ∧ (leadOk s = false) ∧ inSession s = false ∧ s.lvc.cmd = some (5, 14000)) ∧
    (∃ (s : State) (h : PartnerHb), (s.pair.hb = some h) ∧ s.pair.role = 1 ∧ h.role = 1 ∧ actsSenior s = true) ∧
    (∃ (s : State) (h : PartnerHb), (s.pair.hb = some h) ∧ s.pair.role = 1 ∧ h.role = 1 ∧ actsSenior s = false) ∧
    (∃ (s : State) (h : Handover), (s.pair.handover = some h) ∧ bothPaths s = true ∧ s.pair.role ≠ 1 ∧ s.lvc.cmd = some (5, 14000)) ∧
    (∃ (s : State) (h : Handover), (s.pair.handover = some h) ∧ bothPaths s = true) ∧
    (∃ (s : State) (us : Nat) (h : Handover), (s.pair.handover = some h) ∧ h.acked = false ∧ 2000 ≤ us) ∧
    (∃ (s : State) (ms : Nat) (h : PartnerHb), (pairOn s = true) ∧ (s.pair.role = 1) ∧ (actsSenior s = false) ∧ (s.pair.swapped = false) ∧ (bothPaths s = true) ∧ (s.pair.hb = some h) ∧ (h.leadOk = true) ∧ 2000 ≤ ms ∧ s.pair.handover = none ∧ handoverDeferred s = false) ∧
    (∃ (s : State) (ms : Nat) (h : PartnerHb), (pairOn s = true) ∧ (s.pair.role = 1) ∧ (actsSenior s = false) ∧ (s.pair.swapped = false) ∧ (bothPaths s = true) ∧ (s.pair.hb = some h) ∧ (h.leadOk = true) ∧ ms < 2000) ∧
    (∃ (s : State) (p1 b p2 : Bool) (ms : Nat), (pairOn s = true) ∧ (s.pair.testDue = true) ∧ ¬(p1 = false ∧ b = true ∧ p2 = false) ∧ s.pair.role ≠ 1) ∧
    (∃ (s : State) (p1 b p2 : Bool) (ms : Nat), (pairOn s = true) ∧ (s.pair.testDue = true) ∧ ms < 2000) ∧
    (∃ (s : State) (p1 b p2 : Bool) (ms : Nat), (pairOn s = true) ∧ (s.pair.testDue = true) ∧ s.pair.role = 1 ∧ actsSenior s = true ∧ s.pf 0x98 0 28 ≠ 0 ∧ bothPaths s = true ∧ s.pair.handover = none ∧ handoverDeferred s = false) ∧
    (∃ (s : State) (ms : Nat) (ok : Bool), (pairOn s = true) ∧ (s.pair.swapped = true) ∧ (s.pair.handover = none) ∧ (inSession s = false) ∧ (actsSenior s = true) ∧ ok = false) ∧
    (∃ (s : State) (ms : Nat) (ok : Bool), (pairOn s = true) ∧ (s.pair.swapped = true) ∧ (s.pair.handover = none) ∧ (inSession s = false) ∧ (actsSenior s = true) ∧ ok = true ∧ activeCode 0x9005 s = false ∧ bothPaths s = true ∧ s.pf 0x98 0 28 * 1000 ≤ ms) :=
  ⟨⟨{ pairFix with pair := { pairFix.pair with role := 1 }, lvc := { pairFix.lvc with cmd := some (5, 14000) }, lks := { pairFix.lks with pairs := Tab.fill PairSt.reset } }, by decide +kernel⟩,
   ⟨{ pairFix with pair := { pairFix.pair with role := 1, hb := some hbFix } }, hbFix, by decide +kernel⟩,
   ⟨{ pairFix with pair := { pairFix.pair with role := 1 } }, 3000000, 0, false, by decide +kernel⟩,
   ⟨{ pairFix with pair := { pairFix.pair with role := 1, handover := some ⟨true, 5, true, [], true⟩ } }, ⟨true, 5, true, [], true⟩, by decide +kernel⟩,
   ⟨{ pairFix with pair := { pairFix.pair with role := 1, handover := some ⟨true, 5, false, [], true⟩ } }, 2000, ⟨true, 5, false, [], true⟩, by decide +kernel⟩,
   ⟨{ pairFix with pair := { pairFix.pair with role := 1, hb := some { hbFix with senior := true } } }, 1999, { hbFix with senior := true }, by decide +kernel⟩,
   ⟨{ pairFix with pair := { pairFix.pair with testDue := true } }, false, true, false, 1999, by decide +kernel⟩,
   ⟨{ pairFix with pair := { pairFix.pair with swapped := true }, mer := { pairFix.mer with senior := true } }, 0, false, by decide +kernel⟩,
   ⟨{ pairFix with pair := { pairFix.pair with swapped := true, role := 1 } }, 100000, by decide +kernel⟩,
   ⟨{ pairFix with pair := { pairFix.pair with role := 3 } }, 2000, by decide +kernel⟩,
   ⟨{ pairFix with pair := { pairFix.pair with role := 1, handover := some ⟨true, 5, true, [], false⟩ }, lvc := { pairFix.lvc with cmd := some (5, 14000) }, fab := { pairFix.fab with time := 6 } }, ⟨true, 5, true, [], false⟩, by decide +kernel⟩,
   ⟨{ pairFix with pair := { pairFix.pair with role := 2, handover := some ⟨false, 6, true, [(0x20, 9)], false⟩ }, lvc := { pairFix.lvc with cmd := some (5, 14000) }, fab := { pairFix.fab with time := 6 } }, ⟨false, 6, true, [(0x20, 9)], false⟩, by decide +kernel⟩,
   ⟨{ pairFix with pair := { pairFix.pair with role := 1, handover := some ⟨true, 5, true, [], false⟩ }, lvc := { pairFix.lvc with cmd := some (5, 14000) }, fab := { pairFix.fab with time := 6 } }, ⟨true, 5, true, [], false⟩, by decide +kernel⟩,
   ⟨{ pairFix with pair := { pairFix.pair with role := 1, handover := some ⟨true, 7, true, [], false⟩ }, lvc := { pairFix.lvc with cmd := some (5, 14000) }, fab := { pairFix.fab with time := 6 } }, ⟨true, 7, true, [], false⟩, by decide +kernel⟩,
   ⟨{ pairFix with pair := { pairFix.pair with role := 1 }, lvc := { pairFix.lvc with cmd := some (5, 14000) }, lks := { pairFix.lks with pairs := Tab.fill PairSt.reset } }, by decide +kernel⟩,
   ⟨{ pairFix with pair := { pairFix.pair with role := 1, hb := some hbFix } }, hbFix, by decide +kernel⟩,
   ⟨{ pairFix with pair := { pairFix.pair with role := 1, hb := some { hbFix with senior := true } } }, { hbFix with senior := true }, by decide +kernel⟩,
   ⟨{ pairFix with pair := { pairFix.pair with handover := some ⟨false, 5, true, [(0x20, 9)], false⟩ }, lvc := { pairFix.lvc with cmd := some (5, 14000) } }, ⟨false, 5, true, [(0x20, 9)], false⟩, by decide +kernel⟩,
   ⟨{ pairFix with pair := { pairFix.pair with role := 1, handover := some ⟨true, 5, true, [], true⟩ } }, ⟨true, 5, true, [], true⟩, by decide +kernel⟩,
   ⟨{ pairFix with pair := { pairFix.pair with role := 1, handover := some ⟨true, 5, false, [], true⟩ } }, 2000, ⟨true, 5, false, [], true⟩, by decide +kernel⟩,
   ⟨{ pairFix with pair := { pairFix.pair with role := 1, hb := some { hbFix with senior := true } } }, 2000, { hbFix with senior := true }, by decide +kernel⟩,
   ⟨{ pairFix with pair := { pairFix.pair with role := 1, hb := some { hbFix with senior := true } } }, 1999, { hbFix with senior := true }, by decide +kernel⟩,
   ⟨{ pairFix with pair := { pairFix.pair with testDue := true } }, true, true, false, 2000, by decide +kernel⟩,
   ⟨{ pairFix with pair := { pairFix.pair with testDue := true } }, false, true, false, 1999, by decide +kernel⟩,
   ⟨{ pairFix with pair := { pairFix.pair with testDue := true, role := 1 }, mer := { pairFix.mer with senior := true } }, false, true, false, 2000, by decide +kernel⟩,
   ⟨{ pairFix with pair := { pairFix.pair with swapped := true }, mer := { pairFix.mer with senior := true } }, 0, false, by decide +kernel⟩,
   ⟨{ pairFix with pair := { pairFix.pair with swapped := true }, mer := { pairFix.mer with senior := true } }, 100000, true, by decide +kernel⟩⟩

/-- The hypotheses of VehicleInterfaces can be met. -/
theorem witness_VehicleInterfaces :
    (∃ (s : State) (n : Fin 2), (canUsed s n = true)) ∧
    (∃ (s : State) (n : Fin 2) (ms : Nat), (canUsed s n = true) ∧ ((s.vif.can.get n).st = 2)) ∧
    (∃ (s : State), (s.sup.ifaces = true) ∧ (s.hasRec 0xA0 2 = true) ∧ (s.vif.ethRst = true)) ∧
    (∃ (s : State) (ms : Nat), (s.cat.locked = true) ∧ (s.sup.ifaces = true)) ∧
    (∃ (s : State) (reply : Bool), (s.cat.locked = true) ∧ (s.sup.ifaces = true) ∧ (s.fn 9 = true)) ∧
    (∃ (s : State) (ms : Nat), (s.cat.locked = true) ∧ (s.sup.ifaces = true) ∧ (s.fn 9 = true) ∧ (s.vif.plcRst = true) ∧ (500 ≤ ms)) ∧
    (∃ (s : State) (ms : Nat), (ms < 500)) ∧
    (∃ (s : State) (type len : Nat), (s.cat.locked = true) ∧ (s.sup.ifaces = true) ∧ (s.fn 9 = true) ∧ (s.vif.plcRst = true) ∧ (len ≤ 1522)) ∧
    (∃ (s : State) (n : Fin 2) (ms : Nat), (canUsed s n = true) ∧ ((s.vif.can.get n).st = 2) ∧ s.pu 0xA0 n 24 ≤ ms) ∧
    (∃ (s : State) (n : Fin 2) (ms : Nat), (canUsed s n = true) ∧ ((s.vif.can.get n).st = 2) ∧ ms < s.pu 0xA0 n 24) ∧
    (∃ (s : State), (s.sup.ifaces = true) ∧ (s.hasRec 0xA0 2 = true) ∧ (s.vif.ethRst = true) ∧ s.vif.ethUp = true) ∧
    (∃ (s : State), (s.sup.ifaces = true) ∧ (s.hasRec 0xA0 2 = true) ∧ (s.vif.ethRst = true) ∧ s.vif.ethUp = false) ∧
    (∃ (s : State) (ms : Nat), (s.cat.locked = true) ∧ (s.sup.ifaces = true) ∧ 10 ≤ ms) ∧
    (∃ (s : State) (ms : Nat), (s.cat.locked = true) ∧ (s.sup.ifaces = true) ∧ ms < 10) ∧
    (∃ (s : State) (ms : Nat), (s.cat.locked = true) ∧ (s.sup.ifaces = true) ∧ (s.fn 9 = true) ∧ (s.vif.plcRst = true) ∧ (500 ≤ ms) ∧ inSession s = true ∧ s.chg.path = 2) ∧
    (∃ (s : State) (ms : Nat), (s.cat.locked = true) ∧ (s.sup.ifaces = true) ∧ (s.fn 9 = true) ∧ (s.vif.plcRst = true) ∧ (500 ≤ ms) ∧ inSession s = false) :=
  ⟨⟨udsIn .ready 1 0 [], 0, by decide +kernel⟩,
   ⟨{ withRecs [recFix 0xA0 0 32 [(24, 100)]] with sup := { State.reset.sup with ifaces := true }, vif := { State.reset.vif with can := Tab.fill { st := 2, tec := 255, recn := 0, busoff := 1, rxdrop := 0, stb := false } } }, 0, 100, by decide +kernel⟩,
   ⟨{ withRecs [recFix 0xA0 2 32 []] with sup := { State.reset.sup with ifaces := true }, vif := { State.reset.vif with ethRst := true, ethUp := true } }, by decide +kernel⟩,
   ⟨udsIn .ready 1 0 [], 10, by decide +kernel⟩,
   ⟨udsIn .ready 1 0 [], true, by decide +kernel⟩,
   ⟨{ udsIn .ready 1 0 [] with vif := { (udsIn .ready 1 0 []).vif with plcRst := true } }, 500, by decide +kernel⟩,
   ⟨State.reset, 499, by decide +kernel⟩,
   ⟨{ udsIn .ready 1 0 [] with vif := { (udsIn .ready 1 0 []).vif with plcRst := true } }, 1, 1522, by decide +kernel⟩,
   ⟨{ withRecs [recFix 0xA0 0 32 [(24, 100)]] with sup := { State.reset.sup with ifaces := true }, vif := { State.reset.vif with can := Tab.fill { st := 2, tec := 255, recn := 0, busoff := 1, rxdrop := 0, stb := false } } }, 0, 100, by decide +kernel⟩,
   ⟨{ withRecs [recFix 0xA0 0 32 [(24, 100)]] with sup := { State.reset.sup with ifaces := true }, vif := { State.reset.vif with can := Tab.fill { st := 2, tec := 255, recn := 0, busoff := 1, rxdrop := 0, stb := false } } }, 0, 99, by decide +kernel⟩,
   ⟨{ withRecs [recFix 0xA0 2 32 []] with sup := { State.reset.sup with ifaces := true }, vif := { State.reset.vif with ethRst := true, ethUp := true } }, by decide +kernel⟩,
   ⟨{ withRecs [recFix 0xA0 2 32 []] with sup := { State.reset.sup with ifaces := true }, vif := { State.reset.vif with ethRst := true, ethUp := false } }, by decide +kernel⟩,
   ⟨udsIn .ready 1 0 [], 10, by decide +kernel⟩,
   ⟨udsIn .ready 1 0 [], 9, by decide +kernel⟩,
   ⟨{ udsIn .charge 1 0 [] with vif := { (udsIn .charge 1 0 []).vif with plcRst := true }, chg := { State.reset.chg with phase := 3, path := 2 } }, 500, by decide +kernel⟩,
   ⟨{ udsIn .ready 1 0 [] with vif := { (udsIn .ready 1 0 []).vif with plcRst := true } }, 500, by decide +kernel⟩⟩

/-- The hypotheses of MessageStreams can be met. -/
theorem witness_MessageStreams :
    (∃ (s : State) (m : Fin 256) (ifc : Fin 3) (b : List Byte) (n : Nat), (msgTaken s m ifc = true) ∧ ((passQueue (rxQ ifc) 6 (itemWords s ifc b.length) s).1 = true) ∧ (trailerOk s m b = true) ∧ (judgeCounter (s.vif.streams.get m).started (s.vif.streams.get m).resync (s.vif.streams.get m).lastGood (s.vif.streams.get m).lastCnt (msgCounter s m b) = .accept n)) ∧
    (∃ (s : State) (m : Fin 256) (ifc : Fin 3) (b : List Byte), (msgTaken s m ifc = true) ∧ ((passQueue (rxQ ifc) 6 (itemWords s ifc b.length) s).1 = true)) ∧
    (∃ (s : State) (q : QId) (c : Fin 8) (n : Nat), (badChain (s.pq.get q) = none)) ∧
    (∃ (s : State) (m : Fin 256) (ms : Nat), (s.hasRec 0xA1 m = true) ∧ ((payloadLen (s.pu 0xA1 m 0)).isSome = true) ∧ ((s.vif.streams.get m).valid = true)) ∧
    (∃ (s : State) (m : Fin 256), (s.hasRec 0xA1 m = true) ∧ (ownerRuns s (s.pu 0xA1 m 0) = true) ∧ (liveMask s m ≠ 0)) ∧
    (∃ (s : State) (m : Fin 256) (mask : Nat) (c : Fin 8) (b : List Byte), ((∀ q, badChain (s.pq.get q) = none)) ∧ (0 < mask) ∧ (mask < 8)) ∧
    (∃ (s : State) (m : Fin 256) (ms : Nat), (s.hasRec 0xA1 m = true) ∧ ((payloadLen (s.pu 0xA1 m 0)).isSome = true) ∧ ((s.vif.streams.get m).valid = true) ∧ s.pu 0xA1 m 0 = 2 ∧ s.pf 0xA1 m 20 * 1000 ≤ ms) ∧
    (∃ (s : State) (m : Fin 256) (ms : Nat), (s.hasRec 0xA1 m = true) ∧ ((payloadLen (s.pu 0xA1 m 0)).isSome = true) ∧ ((s.vif.streams.get m).valid = true) ∧ s.pu 0xA1 m 0 = 4 ∧ inSession s = true) ∧
    (∃ (s : State) (m : Fin 256) (ms : Nat), (s.hasRec 0xA1 m = true) ∧ ((payloadLen (s.pu 0xA1 m 0)).isSome = true) ∧ ((s.vif.streams.get m).valid = true) ∧ (ms : Q) < s.pf 0xA1 m 20 * 1000) ∧
    (∃ (s : State) (m : Fin 256), (s.hasRec 0xA1 m = true) ∧ (ownerRuns s (s.pu 0xA1 m 0) = true) ∧ (liveMask s m ≠ 0) ∧ s.pu 0xA1 m 0 = 0x20 ∧ s.pair.role = 1) ∧
    (∃ (s : State) (m : Fin 256), (s.hasRec 0xA1 m = true) ∧ (ownerRuns s (s.pu 0xA1 m 0) = true) ∧ (liveMask s m ≠ 0) ∧ s.pu 0xA1 m 0 = 0x24 ∧ s.pair.role = 1) ∧
    (∃ (s : State) (m : Fin 256), (s.hasRec 0xA1 m = true) ∧ (ownerRuns s (s.pu 0xA1 m 0) = true) ∧ (liveMask s m ≠ 0) ∧ s.fn 11 = true ∧ s.pair.role = 2) ∧
    (∃ (started resync : Bool) (good : Option Nat) (last cnt : Nat), (cnt + 2 ^ 16 - last % 2 ^ 16) % 2 ^ 16 = 0) ∧
    (∃ (started resync : Bool) (good : Option Nat) (last cnt : Nat), (cnt + 2 ^ 16 - last % 2 ^ 16) % 2 ^ 16 = 8) ∧
    (∃ (started resync : Bool) (good : Option Nat) (last cnt : Nat), 8 < (cnt + 2 ^ 16 - last % 2 ^ 16) % 2 ^ 16) ∧
    (∃ (started resync : Bool) (good : Option Nat) (last cnt : Nat), good = some 65535 ∧ cnt % 2 ^ 16 = (65535 + 1) % 2 ^ 16) ∧
    (∃ (s : State) (m : Fin 256) (ifc : Fin 3) (b : List Byte), (msgTaken s m ifc = true) ∧ trailerOk s m b = false) ∧
    (∃ (s : State) (m : Fin 256) (ifc : Fin 3) (b : List Byte), (msgTaken s m ifc = true) ∧ trailerOk s m b = true ∧ judgeCounter true false none 5 (msgCounter s m b) = .again) ∧
    (∃ (s : State) (m : Fin 256) (ifc : Fin 3) (b : List Byte), (msgTaken s m ifc = true) ∧ trailerOk s m b = true ∧ judgeCounter true false none 5 (msgCounter s m b) = .reject) ∧
    (∃ (s : State) (m : Fin 256) (ifc : Fin 3) (b : List Byte), (msgTaken s m ifc = true) ∧ trailerOk s m b = true ∧ judgeCounter true true none 5 (msgCounter s m b) = .hold) ∧
    (∃ (s : State) (m : Fin 256) (ifc : Fin 3) (b : List Byte), (msgTaken s m ifc = false)) ∧
    (∃ (b : List Byte) (s : State), s.sys.mode = .charge) ∧
    (∃ (b : List Byte) (s : State), s.sys.mode ≠ .charge ∧ s.pair.role ≠ 2) ∧
    (∃ (b : List Byte) (s : State), uAt b 0 1 = 3 ∧ s.sys.mode = .safe) :=
  ⟨⟨{ udsIn .ready 1 0 [recFix 0xA1 0 28 [(0, 2), (4, 1)]] with pending := [] }, 0, 0, withTrailer 5 0 (natLe 4 3), 0, by decide +kernel⟩,
   ⟨{ udsIn .ready 1 0 [recFix 0xA1 0 28 [(0, 2), (4, 1)]] with pending := [] }, 0, 0, [], by decide +kernel⟩,
   ⟨State.reset, 0, 0, 0, by decide +kernel⟩,
   ⟨{ withRecs [recFix 0xA1 0 28 [(0, 2), (20, 0x3F000000)]] with vif := { State.reset.vif with streams := Tab.fill { Stream.reset with valid := true } } }, 0, 499, by decide +kernel⟩,
   ⟨{ udsIn .ready 1 0 [recFix 0xA1 0 28 [(0, 0x20), (4, 1)]] with pair := { State.reset.pair with role := 2 } }, 0, by decide +kernel⟩,
   ⟨State.reset, 0, 1, 0, [], by decide +kernel⟩,
   ⟨{ withRecs [recFix 0xA1 0 28 [(0, 2), (20, 0x3F000000)]] with vif := { State.reset.vif with streams := Tab.fill { Stream.reset with valid := true } } }, 0, 500, by decide +kernel⟩,
   ⟨{ withRecs [recFix 0xA1 0 28 [(0, 4), (20, 0x3F000000)]] with vif := { State.reset.vif with streams := Tab.fill { Stream.reset with valid := true } }, chg := { State.reset.chg with phase := 3 } }, 0, 500, by decide +kernel⟩,
   ⟨{ withRecs [recFix 0xA1 0 28 [(0, 2), (20, 0x3F000000)]] with vif := { State.reset.vif with streams := Tab.fill { Stream.reset with valid := true } } }, 0, 499, by decide +kernel⟩,
   ⟨{ udsIn .ready 1 0 [recFix 0xA1 0 28 [(0, 0x20), (4, 1)]] with pair := { State.reset.pair with role := 1 } }, 0, by decide +kernel⟩,
   ⟨{ udsIn .ready 1 0 [recFix 0xA1 0 28 [(0, 0x24), (4, 1)]] with pair := { State.reset.pair with role := 1 } }, 0, by decide +kernel⟩,
   ⟨{ udsIn .ready 1 0 [recFix 0xA1 0 28 [(0, 0x20), (4, 1)]] with pair := { State.reset.pair with role := 2 } }, 0, by decide +kernel⟩,
   ⟨true, false, none, 7, 7, by decide +kernel⟩,
   ⟨true, false, none, 7, 15, by decide +kernel⟩,
   ⟨true, false, none, 7, 16, by decide +kernel⟩,
   ⟨true, true, some 65535, 7, 0, by decide +kernel⟩,
   ⟨udsIn .ready 1 0 [recFix 0xA1 0 28 [(0, 2), (4, 1)]], 0, 0, [], by decide +kernel⟩,
   ⟨{ udsIn .ready 1 0 [recFix 0xA1 0 28 [(0, 2), (4, 1)]] with vif := { (udsIn .ready 1 0 []).vif with streams := Tab.fill { Stream.reset with started := true, lastCnt := 5 } } }, 0, 0, withTrailer 5 0 (natLe 4 3), by decide +kernel⟩,
   ⟨{ udsIn .ready 1 0 [recFix 0xA1 0 28 [(0, 2), (4, 1)]] with vif := { (udsIn .ready 1 0 []).vif with streams := Tab.fill { Stream.reset with started := true, lastCnt := 5 } } }, 0, 0, withTrailer 14 0 (natLe 4 3), by decide +kernel⟩,
   ⟨{ udsIn .ready 1 0 [recFix 0xA1 0 28 [(0, 2), (4, 1)]] with vif := { (udsIn .ready 1 0 []).vif with streams := Tab.fill { Stream.reset with started := true, lastCnt := 5, resync := true } } }, 0, 0, withTrailer 6 0 (natLe 4 3), by decide +kernel⟩,
   ⟨State.reset, 0, 0, [], by decide +kernel⟩,
   ⟨[], live .charge [], by decide +kernel⟩,
   ⟨[], live .ready [], by decide +kernel⟩,
   ⟨[3, 1, 2, 0], { live .safe [] with saf := State.reset.saf }, by decide +kernel⟩⟩

/-- The hypotheses of DiagnosticSessions can be met. -/
theorem witness_DiagnosticSessions :
    (∃ (s : State) (p : UPath) (sub : Nat) (fn : Bool), (s.udsServed p = true) ∧ (addressed s p fn = true) ∧ (s.udsNrc p 0x10 [] 0 = 0)) ∧
    (∃ (s : State) (p : UPath) (ms : Nat), (s.uds.session.get p ≠ 1)) ∧
    (∃ (s : State) (p : UPath) (sub : Nat), (s.udsServed p = true) ∧ (s.udsNrc p 0x11 [2, 3] 0 = 0)) ∧
    (∃ (s : State) (p : UPath) (sub : Nat) (fn : Bool), (s.udsServed p = true) ∧ (addressed s p fn = true) ∧ (s.udsNrc p 0x3E [] 0 = 0)) ∧
    (∃ (s : State) (p : UPath) (sub mask : Nat), (s.udsServed p = true) ∧ (s.udsNrc p 0x19 [] 0 = 0)) ∧
    (∃ (s : State) (p : UPath) (group : Nat), (s.udsServed p = true) ∧ (s.udsNrc p 0x14 [3] 0 = 0)) ∧
    (∃ (s : State) (p : UPath) (sub : Nat) (fn : Bool), (s.udsServed p = true) ∧ (addressed s p fn = true) ∧ (s.udsNrc p 0x10 [] 0 = 0) ∧ (sub = 2)) ∧
    (∃ (s : State) (p : UPath) (sub : Nat) (fn : Bool), (s.udsServed p = true) ∧ (addressed s p fn = true) ∧ (s.udsNrc p 0x10 [] 0 = 0) ∧ (sub = 1) ∧ (s.uds.unlocks ≠ [])) ∧
    (∃ (s : State) (p : UPath) (sub : Nat) (fn : Bool), (s.udsServed p = true) ∧ (addressed s p fn = true) ∧ (s.udsNrc p 0x10 [] 0 = 0) ∧ (3 < sub)) ∧
    (∃ (s : State) (p : UPath) (sub : Nat) (fn : Bool), (s.udsServed p = true) ∧ (addressed s p fn = true) ∧ (s.udsNrc p 0x3E [] 0 = 0) ∧ (sub = 0)) ∧
    (∃ (s : State) (p : UPath) (sub : Nat) (fn : Bool), (s.udsServed p = true) ∧ (addressed s p fn = true) ∧ (s.udsNrc p 0x3E [] 0 = 0) ∧ (sub = 0x80)) ∧
    (∃ (s : State) (p : UPath) (sub : Nat) (fn : Bool), (s.udsServed p = true) ∧ (addressed s p fn = true) ∧ (s.udsNrc p 0x3E [] 0 = 0) ∧ (sub ≠ 0) ∧ (sub ≠ 0x80)) ∧
    (∃ (s : State) (p : UPath) (sub : Nat), (s.udsServed p = true) ∧ ((s.udsIds p).2.2 = 0xFFFFFFFF)) ∧
    (∃ (s : State) (p : UPath) (sub mask : Nat) (fn : Bool), (s.udsServed p = false)) ∧
    (∃ (s : State) (p : UPath) (sub mask : Nat) (fn : Bool), (s.udsServed p = true) ∧ (addressed s p fn = true) ∧ (s.udsNrc p 0x11 [2, 3] 0 ≠ 0)) ∧
    (∃ (s : State) (p : UPath) (sub : Nat), (s.udsServed p = true) ∧ (s.udsNrc p 0x10 [] 0 = 0)) ∧
    (∃ (s : State) (p : UPath) (sub : Nat), (s.udsServed p = true) ∧ (s.udsNrc p 0x3E [] 0 = 0)) ∧
    (∃ (s : State) (p : UPath) (sub : Nat), (s.udsServed p = true) ∧ (s.udsNrc p 0x10 [] 0 = 0) ∧ sub = 2) ∧
    (∃ (s : State) (p : UPath) (sub : Nat), (s.udsServed p = true) ∧ (s.udsNrc p 0x10 [] 0 = 0) ∧ sub = 1 ∧ s.uds.unlocks ≠ []) ∧
    (∃ (s : State) (p : UPath) (sub : Nat), (s.udsServed p = true) ∧ (s.udsNrc p 0x10 [] 0 = 0) ∧ 3 < sub) ∧
    (∃ (s : State) (p : UPath) (ms : Nat), (s.uds.session.get p ≠ 1) ∧ 5000 ≤ ms) ∧
    (∃ (s : State) (p : UPath) (ms : Nat), (s.uds.session.get p ≠ 1) ∧ ms < 5000) ∧
    (∃ (s : State) (p : UPath) (sub : Nat), (s.udsServed p = true) ∧ (s.udsNrc p 0x11 [2, 3] 0 = 0) ∧ s.sys.mode = .ready) ∧
    (∃ (s : State) (p : UPath) (sub : Nat), (s.udsServed p = true) ∧ (s.udsNrc p 0x11 [2, 3] 0 = 0) ∧ s.sys.mode = .drive) ∧
    (∃ (s : State) (p : UPath) (sub : Nat), (s.udsServed p = true) ∧ (s.udsNrc p 0x11 [2, 3] 0 = 0) ∧ sub ≠ 1) ∧
    (∃ (s : State) (p : UPath) (sub : Nat), (s.udsServed p = true) ∧ (s.udsNrc p 0x3E [] 0 = 0) ∧ sub = 0) ∧
    (∃ (s : State) (p : UPath) (sub : Nat), (s.udsServed p = true) ∧ (s.udsNrc p 0x3E [] 0 = 0) ∧ sub = 0x80) ∧
    (∃ (s : State) (p : UPath) (sub : Nat), (s.udsServed p = true) ∧ (s.udsNrc p 0x3E [] 0 = 0) ∧ sub ≠ 0 ∧ sub ≠ 0x80) ∧
    (∃ (s : State) (p : UPath) (sub mask : Nat), (s.udsServed p = true) ∧ (s.udsNrc p 0x19 [] 0 = 0) ∧ sub = 2) ∧
    (∃ (s : State) (p : UPath) (sub mask : Nat), (s.udsServed p = true) ∧ (s.udsNrc p 0x19 [] 0 = 0) ∧ sub ≠ 1 ∧ sub ≠ 2 ∧ sub ≠ 0x0A) ∧
    (∃ (s : State) (p : UPath) (group : Nat), (s.udsServed p = true) ∧ (s.udsNrc p 0x14 [3] 0 = 0) ∧ group = 0xFFFFFF) ∧
    (∃ (s : State) (p : UPath) (group : Nat), (s.udsServed p = true) ∧ (s.udsNrc p 0x14 [3] 0 = 0) ∧ group ≠ 0xFFFFFF) ∧
    (∃ (s : State) (p : UPath) (n : Nat) (ss : List Nat) (l : Nat), s.uds.session.get p ∉ ss) ∧
    (∃ (s : State) (p : UPath) (n : Nat) (ss : List Nat) (l : Nat), s.udsNrc p n ss l = 0) :=
  ⟨⟨udsIn .ready 3 1 [], .can1, 1, true, by decide +kernel⟩,
   ⟨udsIn .ready 3 1 [], .can1, 5000, by decide +kernel⟩,
   ⟨udsIn .ready 3 1 [], .can1, 3, by decide +kernel⟩,
   ⟨udsIn .ready 3 1 [], .can1, 0, true, by decide +kernel⟩,
   ⟨udsIn .ready 1 1 [], .can1, 2, 9, by decide +kernel⟩,
   ⟨udsIn .ready 3 1 [], .can1, 0xFFFFFF, by decide +kernel⟩,
   ⟨udsIn .ready 1 3 [], .can1, 2, false, by decide +kernel⟩,
   ⟨udsIn .ready 3 1 [], .can1, 1, false, by decide +kernel⟩,
   ⟨udsIn .ready 3 1 [], .can1, 4, false, by decide +kernel⟩,
   ⟨udsIn .ready 3 1 [], .can1, 0, false, by decide +kernel⟩,
   ⟨udsIn .ready 3 1 [], .can1, 0x80, false, by decide +kernel⟩,
   ⟨udsIn .ready 3 1 [], .can1, 1, false, by decide +kernel⟩,
   ⟨{ udsIn .ready 3 1 [] with cat := { (udsIn .ready 3 1 []).cat with params := [recFix 0xA0 0 32 [(12, 0x700), (20, 0xFFFFFFFF)]] ++ (udsIn .ready 3 1 []).cat.params } }, .can1, 1, by decide +kernel⟩,
   ⟨State.reset, .can1, 1, 0, true, by decide +kernel⟩,
   ⟨udsIn .ready 1 1 [], .can1, 1, 0, true, by decide +kernel⟩,
   ⟨udsIn .ready 1 3 [], .can1, 2, by decide +kernel⟩,
   ⟨udsIn .ready 3 1 [], .can1, 0, by decide +kernel⟩,
   ⟨udsIn .ready 1 3 [], .can1, 2, by decide +kernel⟩,
   ⟨udsIn .ready 3 1 [], .can1, 1, by decide +kernel⟩,
   ⟨udsIn .ready 3 1 [], .can1, 4, by decide +kernel⟩,
   ⟨udsIn .ready 3 1 [], .can1, 5000, by decide +kernel⟩,
   ⟨udsIn .ready 3 1 [], .can1, 4999, by decide +kernel⟩,
   ⟨udsIn .ready 3 1 [], .can1, 1, by decide +kernel⟩,
   ⟨udsIn .drive 3 1 [], .can1, 1, by decide +kernel⟩,
   ⟨udsIn .ready 3 1 [], .can1, 3, by decide +kernel⟩,
   ⟨udsIn .ready 3 1 [], .can1, 0, by decide +kernel⟩,
   ⟨udsIn .ready 3 1 [], .can1, 0x80, by decide +kernel⟩,
   ⟨udsIn .ready 3 1 [], .can1, 1, by decide +kernel⟩,
   ⟨udsIn .ready 1 1 [], .can1, 2, 9, by decide +kernel⟩,
   ⟨udsIn .ready 1 1 [], .can1, 3, 9, by decide +kernel⟩,
   ⟨udsIn .ready 3 1 [], .can1, 0xFFFFFF, by decide +kernel⟩,
   ⟨udsIn .ready 3 1 [], .can1, 0, by decide +kernel⟩,
   ⟨udsIn .ready 1 1 [], .can1, 0x11, [2, 3], 0, by decide +kernel⟩,
   ⟨udsIn .ready 3 1 [], .can1, 0x2E, [3], 1, by decide +kernel⟩⟩

/-- The hypotheses of DiagnosticData can be met. -/
theorem witness_DiagnosticData :
    (∃ (s : State) (p : UPath) (did : Nat), (s.udsServed p = true) ∧ (s.udsNrc p 0x22 [] 0 = 0)) ∧
    (∃ (s : State) (p : UPath) (f a n : Nat), (s.udsServed p = true) ∧ (s.udsNrc p 0x23 [3] 0 = 0)) ∧
    (∃ (s : State) (p : UPath) (did v : Nat), (s.udsServed p = true) ∧ (s.udsNrc p 0x2E [3] 1 = 0)) ∧
    (∃ (s : State) (p : UPath) (rid : Nat), (s.udsServed p = true) ∧ (s.udsNrc p 0x31 [] 0 = 0)) ∧
    (∃ (s : State) (p : UPath) (sid : Nat) (sub : Option Nat) (fn : Bool), (s.udsServed p = true) ∧ (fn = false ∨ ((s.udsIds p).2.2 ≠ 0xFFFFFFFF ∧ (sid = 0x10 ∨ sid = 0x3E)))) ∧
    (∃ (s : State) (p : UPath) (sid : Nat) (sub : Option Nat) (fn : Bool), (s.udsServed p = true) ∧ (fn = false ∨ ((s.udsIds p).2.2 ≠ 0xFFFFFFFF ∧ (sid = 0x10 ∨ sid = 0x3E))) ∧ (sid ∉ [0x10, 0x11, 0x14, 0x19, 0x22, 0x23, 0x27, 0x2E, 0x31, 0x34, 0x36, 0x37, 0x3E])) ∧
    (∃ (s : State) (p : UPath) (sid : Nat) (sub : Option Nat) (fn : Bool), (s.udsServed p = true) ∧ (fn = false ∨ ((s.udsIds p).2.2 ≠ 0xFFFFFFFF ∧ (sid = 0x10 ∨ sid = 0x3E))) ∧ (s.udsOffered sid = true)) ∧
    (∃ (s : State) (p : UPath) (sid : Nat) (sub : Option Nat), (s.udsServed p = true) ∧ (sid ≠ 0x10 ∧ sid ≠ 0x3E)) ∧
    (∃ (s : State) (p : UPath) (f a n v : Nat) (sub : Option Nat) (fn : Bool), (s.udsServed p = false)) ∧
    (∃ (s : State) (p : UPath) (f a n v : Nat) (sub : Option Nat) (fn : Bool), (s.udsServed p = true) ∧ (s.udsNrc p 0x2E [3] 1 ≠ 0)) ∧
    (∃ (s : State) (p : UPath) (sid : Nat) (sub : Option Nat), (s.udsServed p = true)) ∧
    (∃ (s : State) (p : UPath) (did : Nat), (s.udsServed p = true) ∧ (s.udsNrc p 0x22 [] 0 = 0) ∧ did = 0xF18C) ∧
    (∃ (s : State) (p : UPath) (did : Nat), (s.udsServed p = true) ∧ (s.udsNrc p 0x22 [] 0 = 0) ∧ s.life ≠ 4) ∧
    (∃ (s : State) (p : UPath) (did : Nat), (s.udsServed p = true) ∧ (s.udsNrc p 0x22 [] 0 = 0) ∧ did ∉ [0xF18C, 0xF195, 0xF1A0, 0xF1A1, 0xF1A2, 0xFE00]) ∧
    (∃ (s : State) (p : UPath) (f a n : Nat), (s.udsServed p = true) ∧ (s.udsNrc p 0x23 [3] 0 = 0) ∧ (List.range 1).all (fun k => readable (a + 4 * k)) = true) ∧
    (∃ (s : State) (p : UPath) (f a n : Nat), (s.udsServed p = true) ∧ (s.udsNrc p 0x23 [3] 0 = 0) ∧ 256 < n) ∧
    (∃ (s : State) (p : UPath) (f a n : Nat), (s.udsServed p = true) ∧ (s.udsNrc p 0x23 [3] 0 = 0) ∧ a % 4 ≠ 0) ∧
    (∃ (s : State) (p : UPath) (did v : Nat), (s.udsServed p = true) ∧ (s.udsNrc p 0x2E [3] 1 = 0) ∧ s.fn 5 = true) ∧
    (∃ (s : State) (p : UPath) (did v : Nat), (s.udsServed p = true) ∧ (s.udsNrc p 0x2E [3] 1 = 0) ∧ did ≠ 0xFE00) ∧
    (∃ (s : State) (p : UPath) (rid : Nat), (s.udsServed p = true) ∧ (s.udsNrc p 0x31 [] 0 = 0) ∧ s.routineNrc p rid = 0) ∧
    (∃ (s : State) (p : UPath) (rid : Nat), (s.udsServed p = true) ∧ (s.udsNrc p 0x31 [] 0 = 0) ∧ s.routineNrc p rid = 0 ∧ (s.uds.results.find? (fun r => decide (r.1 = rid))).isSome = true) ∧
    (∃ (s : State) (p : UPath) (rid : Nat), (s.udsServed p = true) ∧ (s.udsNrc p 0x31 [] 0 = 0) ∧ s.routineNrc p rid ≠ 0) ∧
    (∃ (s : State) (p : UPath) (rid : Nat), (s.udsServed p = true) ∧ (s.udsNrc p 0x31 [] 0 = 0) ∧ rid ∉ [0xF100, 0xF101, 0xF102, 0xF103, 0xF200, 0xF201, 0xF300, 0xF400, 0xF401, 0xF402]) ∧
    (∃ (s : State) (p : UPath) (sid : Nat) (sub : Option Nat), (s.udsServed p = true) ∧ sid ∉ [0x10, 0x11, 0x14, 0x19, 0x22, 0x23, 0x27, 0x2E, 0x31, 0x34, 0x36, 0x37, 0x3E]) ∧
    (∃ (s : State) (p : UPath) (sid : Nat) (sub : Option Nat), (s.udsServed p = true) ∧ s.udsOffered sid = true) ∧
    (∃ (s : State) (a : Nat), 0x50000000 ≤ a ∧ a ≤ 0x50012FFF) ∧
    (∃ (s : State) (a : Nat), readable a = false) :=
  ⟨⟨udsIn .ready 1 1 [], .can1, 0xFE00, by decide +kernel⟩,
   ⟨udsIn .ready 3 1 [], .can1, 0x14, 0x50007004, 257, by decide +kernel⟩,
   ⟨udsIn .ready 3 1 [], .can1, 0xFE00, 0x006438A4, by decide +kernel⟩,
   ⟨udsIn .ready 1 1 [], .can1, 0xFE00, by decide +kernel⟩,
   ⟨udsIn .ready 3 1 [], .can1, 0x3E, some 7, true, by decide +kernel⟩,
   ⟨udsIn .ready 3 1 [], .can1, 0x85, some 1, false, by decide +kernel⟩,
   ⟨udsIn .ready 3 1 [], .can1, 0x31, some 2, false, by decide +kernel⟩,
   ⟨udsIn .ready 3 1 [], .can1, 0x22, none, by decide +kernel⟩,
   ⟨State.reset, .can1, 1, 0, 0, 0, none, false, by decide +kernel⟩,
   ⟨udsIn .ready 1 1 [], .can1, 1, 0, 0, 0, none, false, by decide +kernel⟩,
   ⟨udsIn .ready 1 0 [], .can1, 1, none, by decide +kernel⟩,
   ⟨udsIn .ready 1 1 [], .can1, 0xF18C, by decide +kernel⟩,
   ⟨udsIn .ready 1 1 [], .can1, 0xFE00, by decide +kernel⟩,
   ⟨udsIn .ready 1 1 [], .can1, 0xF190, by decide +kernel⟩,
   ⟨udsIn .ready 3 1 [], .can1, 0x14, 0x50007004, 4, by decide +kernel⟩,
   ⟨udsIn .ready 3 1 [], .can1, 0x14, 0x50007004, 257, by decide +kernel⟩,
   ⟨udsIn .ready 3 1 [], .can1, 0x14, 0x50007002, 4, by decide +kernel⟩,
   ⟨udsIn .ready 3 1 [], .can1, 0xFE00, 0x006438A4, by decide +kernel⟩,
   ⟨udsIn .ready 3 1 [], .can1, 0xFE01, 0, by decide +kernel⟩,
   ⟨udsIn .ready 3 1 [], .can1, 0xF400, by decide +kernel⟩,
   ⟨{ udsIn .ready 3 1 [] with uds := { (udsIn .ready 3 1 []).uds with results := [(0xF400, [1])] } }, .can1, 0xF400, by decide +kernel⟩,
   ⟨udsIn .ready 3 1 [], .can1, 0xF100, by decide +kernel⟩,
   ⟨udsIn .ready 3 1 [], .can1, 0xF104, by decide +kernel⟩,
   ⟨udsIn .ready 3 1 [], .can1, 0x85, some 1, by decide +kernel⟩,
   ⟨udsIn .ready 3 1 [], .can1, 0x31, some 2, by decide +kernel⟩,
   ⟨State.reset, 0x50012FFC, by decide +kernel⟩,
   ⟨State.reset, 0x50013000, by decide +kernel⟩⟩

/-- The hypotheses of Unlocks can be met. -/
theorem witness_Unlocks :
    (∃ (s : State) (p : UPath) (lv : Nat), (s.udsServed p = true) ∧ (s.udsNrc p 0x27 [2, 3] 0 = 0)) ∧
    (∃ (s : State) (p : UPath) (lv seg key len : Nat) (c : Challenge), (s.udsServed p = true) ∧ (s.udsNrc p 0x27 [2, 3] 0 = 0) ∧ (s.sec.challenge = some c)) ∧
    (∃ (s : State) (p : UPath) (lv seg key len : Nat), (s.udsServed p = true) ∧ (s.udsNrc p 0x27 [2, 3] 0 = 0) ∧ (s.sec.challenge = none)) ∧
    (∃ (s : State) (ok : Bool) (hv : List Q) (vf : Nat) (c : Challenge) (r : List EngJob) (p : UPath), (s.sec.jobs = .key c :: r) ∧ (c.path = some p) ∧ (s.udsServed p = true)) ∧
    (∃ (s : State) (hv : List Q) (vf : Nat) (c : Challenge) (r : List EngJob) (p : UPath), (s.sec.jobs = .key c :: r) ∧ (c.path = some p) ∧ (keyAllowed s c.level c.key = true) ∧ (0x60 ≤ c.level) ∧ (s.sys.mode ≠ .off ∧ s.sys.mode ≠ .ship)) ∧
    (∃ (s : State) (p : UPath) (lv : Nat), (s.udsServed p = true) ∧ (s.udsNrc p 0x27 [2, 3] 0 = 0) ∧ [1, 3, 0x63, 0x65].contains lv = false) ∧
    (∃ (s : State) (p : UPath) (lv : Nat), (s.udsServed p = true) ∧ (s.udsNrc p 0x27 [2, 3] 0 = 0) ∧ s.life = 4) ∧
    (∃ (s : State) (p : UPath) (lv : Nat), (s.udsServed p = true) ∧ (s.udsNrc p 0x27 [2, 3] 0 = 0) ∧ s.life ≠ 4 ∧ s.ka.unlockDelay = true) ∧
    (∃ (s : State) (p : UPath) (lv : Nat), (s.udsServed p = true) ∧ (s.udsNrc p 0x27 [2, 3] 0 = 0) ∧ s.life ≠ 4 ∧ s.ka.unlockDelay = false ∧ s.life ≠ 2) ∧
    (∃ (s : State) (p : UPath) (lv : Nat), (s.udsServed p = true) ∧ (s.udsNrc p 0x27 [2, 3] 0 = 0) ∧ s.life ≠ 4 ∧ s.ka.unlockDelay = false ∧ lv < 0x63) ∧
    (∃ (s : State) (p : UPath) (lv : Nat), (s.udsServed p = true) ∧ (s.udsNrc p 0x27 [2, 3] 0 = 0) ∧ s.sys.mode ≠ .drive ∧ s.sys.mode ≠ .charge ∧ lv ≠ 0x63) ∧
    (∃ (s : State) (p : UPath) (lv seg key len : Nat) (c : Challenge), (s.udsServed p = true) ∧ (s.udsNrc p 0x27 [2, 3] 0 = 0) ∧ (s.sec.challenge = some c) ∧ seg ≠ c.seg) ∧
    (∃ (s : State) (p : UPath) (lv seg key len : Nat) (c : Challenge), (s.udsServed p = true) ∧ (s.udsNrc p 0x27 [2, 3] 0 = 0) ∧ (s.sec.challenge = some c) ∧ c.path = some p ∧ c.level = lv ∧ seg = c.seg ∧ len ≠ 3724) ∧
    (∃ (s : State) (p : UPath) (lv seg key len : Nat) (c : Challenge), (s.udsServed p = true) ∧ (s.udsNrc p 0x27 [2, 3] 0 = 0) ∧ (s.sec.challenge = some c) ∧ c.path = some p ∧ c.level = lv ∧ seg = c.seg ∧ seg < 7) ∧
    (∃ (s : State) (p : UPath) (lv seg key len : Nat) (c : Challenge), (s.udsServed p = true) ∧ (s.udsNrc p 0x27 [2, 3] 0 = 0) ∧ (s.sec.challenge = some c) ∧ c.path = some p ∧ c.level = lv ∧ seg = c.seg ∧ 7 ≤ seg) ∧
    (∃ (s : State) (n : Nat), s.ka.unlockDelay = true ∧ 60 ≤ n ∧ 10000 ≤ n) ∧
    (∃ (s : State) (n : Nat), n < 60 ∧ n < 10000) :=
  ⟨⟨{ udsIn .ready 2 1 [] with otp := Tab.put (Tab.fill 0) 5 0xFF000000 }, .can1, 1, by decide +kernel⟩,
   ⟨challenged 0, .can1, 1, 1, 0, 3724, chalFix 0, by decide +kernel⟩,
   ⟨udsIn .ready 2 1 [], .can1, 1, 0, 0, 3724, by decide +kernel⟩,
   ⟨unlocking 2 0 0, false, [12], 0, chalFix 8, [], .can1, by decide +kernel⟩,
   ⟨{ unlocking 0 0x10 0 with sec := { (unlocking 0 0x10 0).sec with jobs := [.key { chalFix 8 with level := 0x65, key := 0xFF }] } }, [12], 0, { chalFix 8 with level := 0x65, key := 0xFF }, [], .can1, by decide +kernel⟩,
   ⟨udsIn .ready 2 1 [], .can1, 0x61, by decide +kernel⟩,
   ⟨{ udsIn .ready 2 1 [] with otp := Tab.put (Tab.fill 0) 5 0xFF000000 }, .can1, 1, by decide +kernel⟩,
   ⟨{ udsIn .ready 2 1 [] with ka := { (udsIn .ready 2 1 []).ka with unlockDelay := true } }, .can1, 1, by decide +kernel⟩,
   ⟨udsIn .ready 2 1 [], .can1, 0x63, by decide +kernel⟩,
   ⟨udsIn .ready 2 1 [], .can1, 1, by decide +kernel⟩,
   ⟨udsIn .ready 2 1 [], .can1, 0x65, by decide +kernel⟩,
   ⟨challenged 0, .can1, 1, 1, 0, 3724, chalFix 0, by decide +kernel⟩,
   ⟨challenged 0, .can1, 1, 0, 0, 3723, chalFix 0, by decide +kernel⟩,
   ⟨challenged 6, .can1, 1, 6, 0, 3724, chalFix 6, by decide +kernel⟩,
   ⟨challenged 7, .can1, 1, 7, 0, 3724, chalFix 7, by decide +kernel⟩,
   ⟨{ State.reset with ka := { State.reset.ka with unlockDelay := true } }, 10000, by decide +kernel⟩,
   ⟨State.reset, 59, by decide +kernel⟩⟩

/-- The hypotheses of AttestationAndJtag can be met. -/
theorem witness_AttestationAndJtag :
    (∃ (s : State) (p : UPath) (k : Nat) (nonce : List Byte), (s.udsServed p = true) ∧ (s.udsNrc p 0x27 [2, 3] 0 = 0)) ∧
    (∃ (s : State) (q : AttReq) (r : List EngJob) (b : List Byte × Option Nat), (s.sec.jobs = .sign q :: r) ∧ (s.sec.report = some b) ∧ (r.any (fun j => match j with | .sign _ => true | .key _ => false) = false)) ∧
    (∃ (s : State) (q : AttReq) (r : List EngJob) (b : List Byte × Option Nat), (s.sec.jobs = .sign q :: r) ∧ (s.sec.report = some b) ∧ (r.any (fun j => match j with | .sign _ => true | .key _ => false) = true)) ∧
    (∃ (s : State) (key : Nat) (ok : Bool) (c : Challenge), (s.tapOn = true) ∧ (s.life = 1) ∧ (s.sec.jtagOpen = false) ∧ (s.sec.challenge = some c) ∧ (c.path = none)) ∧
    (∃ (s : State) (key : Nat) (ok : Bool) (c : Challenge), (s.tapOn = true) ∧ (s.life = 1) ∧ (s.sec.jtagOpen = false) ∧ (s.sec.challenge = some c) ∧ (c.path = none) ∧ (keyAllowed s 0 key = true)) ∧
    (∃ (s : State) (key : Nat) (ok : Bool) (c : Challenge), (s.tapOn = true) ∧ (s.life = 1) ∧ (s.sec.jtagOpen = false) ∧ (s.sec.challenge = some c) ∧ (c.path = none) ∧ (s.ka.unlockFails < 2)) ∧
    (∃ (s : State), (s.tapOn = true) ∧ (s.life = 1) ∧ (s.sec.jtagOpen = false) ∧ (s.ka.unlockDelay = false)) ∧
    (∃ (s : State), (s.tapOn = true) ∧ (s.life = 1) ∧ (s.sec.jtagOpen = false) ∧ (s.ka.unlockDelay = true)) ∧
    (∃ (s : State) (key : Nat) (ok : Bool), (s.tapOn = false)) ∧
    (∃ (s : State) (key : Nat) (ok : Bool) (c : Challenge), (s.tapOn = true) ∧ (s.life = 1) ∧ (s.sec.jtagOpen = false) ∧ (s.sec.challenge = some c) ∧ (c.path = none) ∧ (ok = false) ∧ (s.ka.unlockFails < 2)) ∧
    (∃ (s : State) (p : UPath) (k : Nat) (nonce : List Byte), (s.udsServed p = true) ∧ (s.udsNrc p 0x27 [2, 3] 0 = 0) ∧ s.ka.unlockDelay = false ∧ 13 < k) ∧
    (∃ (s : State) (p : UPath) (k : Nat) (nonce : List Byte), (s.udsServed p = true) ∧ (s.udsNrc p 0x27 [2, 3] 0 = 0) ∧ s.ka.unlockDelay = false ∧ nonce.length = 32 ∧ s.sec.idSlot = none) ∧
    (∃ (s : State) (p : UPath) (k : Nat) (nonce : List Byte), (s.udsServed p = true) ∧ (s.udsNrc p 0x27 [2, 3] 0 = 0) ∧ s.ka.unlockDelay = false ∧ nonce.length = 32 ∧ s.sec.idSlot ≠ none) ∧
    (∃ (s : State) (p : UPath) (k : Nat) (nonce : List Byte), (s.udsServed p = true) ∧ (s.udsNrc p 0x27 [2, 3] 0 = 0) ∧ s.ka.unlockDelay = false ∧ reportSegment s k = none) ∧
    (∃ (s : State) (p : UPath) (k : Nat) (nonce : List Byte), (s.udsServed p = true) ∧ (s.udsNrc p 0x27 [2, 3] 0 = 0) ∧ s.ka.unlockDelay = false ∧ (s.sec.report).isSome = true) ∧
    (∃ (s : State) (p : UPath) (k : Nat) (nonce : List Byte), (s.udsServed p = true) ∧ (s.udsNrc p 0x27 [2, 3] 0 = 0) ∧ s.ka.unlockDelay = true) ∧
    (∃ (s : State) (q : AttReq) (r : List EngJob) (b : List Byte × Option Nat), (s.sec.jobs = .sign q :: r) ∧ (s.sec.report = some b) ∧ (r.any (fun j => match j with
        | .sign _ => true
        | .key _ => false) = false) ∧ s.udsServed .can1 = true) ∧
    (∃ (s : State) (q : AttReq) (r : List EngJob) (b : List Byte × Option Nat), (s.sec.jobs = .sign q :: r) ∧ (s.sec.report = some b) ∧ (r.any (fun j => match j with
        | .sign _ => true
        | .key _ => false) = false) ∧ q = .fabric 1 2 0) ∧
    (∃ (s : State) (q : AttReq) (r : List EngJob) (b : List Byte × Option Nat), (s.sec.jobs = .sign q :: r) ∧ (s.sec.report = some b) ∧ (r.any (fun j => match j with
        | .sign _ => true
        | .key _ => false) = true) ∧ s.udsServed .can1 = true) ∧
    (∃ (s : State), s.life = 1 ∧ s.sec.jtagOpen = false ∧ s.ka.unlockDelay = false) ∧
    (∃ (s : State), s.life = 1 ∧ s.sec.jtagOpen = false ∧ s.ka.unlockDelay = true) :=
  ⟨⟨{ udsIn .ready 2 1 [] with ka := { (udsIn .ready 2 1 []).ka with unlockDelay := true } }, .can1, 1, [], by decide +kernel⟩,
   ⟨{ udsIn .ready 2 1 [] with sec := { (udsIn .ready 2 1 []).sec with report := some ([], none), jobs := [.sign (.fabric 1 2 0)] } }, .fabric 1 2 0, [], ([], none), by decide +kernel⟩,
   ⟨{ udsIn .ready 2 1 [] with sec := { (udsIn .ready 2 1 []).sec with report := some ([], none), jobs := [.sign (.fabric 1 2 0), .sign (.uds .can1)] } }, .fabric 1 2 0, [.sign (.uds .can1)], ([], none), by decide +kernel⟩,
   ⟨{ live .drive [] with otp := Tab.fill 0xFF, sec := { State.reset.sec with challenge := some { path := none, level := 0, seed := [], seg := 0, key := 0 } } }, 0, true, { path := none, level := 0, seed := [], seg := 0, key := 0 }, by decide +kernel⟩,
   ⟨{ unlocking 0 1 0 with otp := Tab.put (Tab.fill 0) 5 0xFF, sec := { (unlocking 0 1 0).sec with jobs := [], challenge := some { chalFix 0 with path := none, level := 0 } } }, 0, true, { chalFix 0 with path := none, level := 0 }, by decide +kernel⟩,
   ⟨{ unlocking 0 1 0 with otp := Tab.put (Tab.fill 0) 5 0xFF, sec := { (unlocking 0 1 0).sec with jobs := [], challenge := some { chalFix 0 with path := none, level := 0 } } }, 0, false, { chalFix 0 with path := none, level := 0 }, by decide +kernel⟩,
   ⟨{ live .drive [] with otp := Tab.fill 0xFF, sec := { State.reset.sec with jtagOpen := false } }, by decide +kernel⟩,
   ⟨{ live .drive [] with otp := Tab.fill 0xFF, sec := { State.reset.sec with jtagOpen := false }, ka := { State.reset.ka with unlockDelay := true } }, by decide +kernel⟩,
   ⟨State.reset, 0, true, by decide +kernel⟩,
   ⟨{ live .drive [] with otp := Tab.fill 0xFF, sec := { State.reset.sec with challenge := some { path := none, level := 0, seed := [], seg := 0, key := 0 } } }, 0, false, { path := none, level := 0, seed := [], seg := 0, key := 0 }, by decide +kernel⟩,
   ⟨udsIn .ready 2 1 [], .can1, 14, [], by decide +kernel⟩,
   ⟨udsIn .ready 2 1 [], .can1, 0, List.replicate 32 0, by decide +kernel⟩,
   ⟨{ udsIn .ready 2 1 [] with sec := { (udsIn .ready 2 1 []).sec with idSlot := some 1 } }, .can1, 0, List.replicate 32 0, by decide +kernel⟩,
   ⟨udsIn .ready 2 1 [], .can1, 13, [], by decide +kernel⟩,
   ⟨{ udsIn .ready 2 1 [] with sec := { (udsIn .ready 2 1 []).sec with report := some ([], some 0) } }, .can1, 1, [], by decide +kernel⟩,
   ⟨{ udsIn .ready 2 1 [] with ka := { (udsIn .ready 2 1 []).ka with unlockDelay := true } }, .can1, 1, [], by decide +kernel⟩,
   ⟨{ udsIn .ready 2 1 [] with sec := { (udsIn .ready 2 1 []).sec with report := some ([], none), jobs := [.sign (.uds .can1)] } }, .uds .can1, [], ([], none), by decide +kernel⟩,
   ⟨{ udsIn .ready 2 1 [] with sec := { (udsIn .ready 2 1 []).sec with report := some ([], none), jobs := [.sign (.fabric 1 2 0)] } }, .fabric 1 2 0, [], ([], none), by decide +kernel⟩,
   ⟨{ udsIn .ready 2 1 [] with sec := { (udsIn .ready 2 1 []).sec with report := some ([], none), jobs := [.sign (.uds .can1), .sign (.uds .can1)] } }, .uds .can1, [.sign (.uds .can1)], ([], none), by decide +kernel⟩,
   ⟨{ udsIn .ready 2 1 [] with otp := Tab.put (Tab.fill 0) 5 0xFF }, by decide +kernel⟩,
   ⟨{ udsIn .ready 2 1 [] with otp := Tab.put (Tab.fill 0) 5 0xFF, ka := { (udsIn .ready 2 1 []).ka with unlockDelay := true } }, by decide +kernel⟩⟩

/-- The hypotheses of FaultCollector can be met. -/
theorem witness_FaultCollector :
    (∃ (s : State) (c i m : Nat), (codeKnown c = true)) ∧
    (∃ (s : State) (c i m : Nat), (codeKnown c = true) ∧ (c = 0x680A) ∧ (active c i s = false)) ∧
    (∃ (s : State) (c i m : Nat), (codeKnown c = true) ∧ (c = 0x7002) ∧ (i < 8) ∧ (active c i s = false)) ∧
    (∃ (s : State) (c i m : Nat), (codeKnown c = true) ∧ (classOf s c i = 4) ∧ (active c i s = false) ∧ (ioHalted s = true) ∧ (s.noSafe = false)) ∧
    (∃ (s : State) (c i m : Nat), (codeKnown c = true) ∧ classOf s c i < 3 ∧ active c i s = false ∧ s.log.store.length < 64) ∧
    (∃ (s : State) (c i m : Nat), (codeKnown c = true) ∧ active c i s = true) ∧
    (∃ (s : State) (c i m : Nat), (codeKnown c = true) ∧ classOf s c i = 4 ∧ active c i s = false ∧ ioHalted s = false ∧ c ≠ 0x0801 ∧ c ≠ 0x5809) ∧
    (∃ (s : State) (c i m : Nat), c ≠ 0x001A ∧ ownClear c = false ∧ 1000 ≤ m) ∧
    (∃ (s : State) (c i m : Nat), ownClear c = true) ∧
    (∃ (s : State) (c i m : Nat), codeKnown c = false) ∧
    (∃ (s : State) (a v : Nat), inVitrine a = false) ∧
    (∃ (s : State) (a v : Nat), a / 4 = 0x50011014 / 4) ∧
    (∃ (s : State) (a v : Nat), a / 4 = 0x5000B010 / 4) ∧
    (∃ (s : State) (a v : Nat), a / 4 = 0x50009000 / 4) ∧
    (∃ (s : State) (a v : Nat), a / 4 = 0x50007004 / 4 ∧ s.fn 5 = true) ∧
    (∃ (s : State) (a v : Nat), (a / 4 ≠ 0x50007004 / 4 ∨ s.fn 5 = false)) :=
  ⟨⟨live .drive [], 0x5007, 0, 0, by decide +kernel⟩,
   ⟨live .drive [], 0x680A, 0, 0, by decide +kernel⟩,
   ⟨live .drive [], 0x7002, 5, 0, by decide +kernel⟩,
   ⟨inMode .drive, 0x5803, 0, 0, by decide +kernel⟩,
   ⟨live .drive [], 0x5007, 0, 0, by decide +kernel⟩,
   ⟨{ live .drive [] with faults := [{ code := 0x5007, inst := 0, cls := 0, raises := 1, suppressed := 0 }] }, 0x5007, 0, 0, by decide +kernel⟩,
   ⟨live .drive [], 0x5803, 0, 0, by decide +kernel⟩,
   ⟨live .drive [], 0x5806, 0, 1000, by decide +kernel⟩,
   ⟨live .drive [], 0x5801, 0, 999, by decide +kernel⟩,
   ⟨live .drive [], 0x9999, 0, 999, by decide +kernel⟩,
   ⟨live .drive [], 0, 0, by decide +kernel⟩,
   ⟨live .drive [], 0x50011014, 0, by decide +kernel⟩,
   ⟨live .drive [], 0x5000B010, 0, by decide +kernel⟩,
   ⟨live .drive [], 0x50009003, 0, by decide +kernel⟩,
   ⟨live .drive [], 0x50007004, 0, by decide +kernel⟩,
   ⟨live .drive [], 0x50007008, 0, by decide +kernel⟩⟩

end Sys2Proof.Machine
end

section
/-! SUPPORT. What a raise does after a write, and Callisto's filter, cycle and lines (15_safety.md, R27, R28, R380, R392, R397). -/

namespace Sys2Proof.Machine

/-! ## A fault after a write -/

/-- Where a raise follows a write that ends no fault, it makes the fault active, ends none and keeps what no fault touches. -/
theorem raise_after {s u : State} (c i m : Nat) (f : u.faults = s.faults) (hf : c ≠ 0x680A := by decide) (hq : c ≠ 0x7002 := by decide) :
    active c i (raise c i m u) = true ∧ Grows s (raise c i m u) ∧ (raise c i m u).beyond = u.beyond :=
  ⟨raise_active _ _ _ _, grows_raise f, raise_beyond _ _ _ _ hf hq⟩

/-! ## Callisto's cycle (R27, R380) -/

/-- The samples of a channel touch the inputs only. -/
theorem callLevel_only (s : State) (x : SiN × Side × List Bool) : callLevel s x = { s with saf := { s.saf with si := (callLevel s x).saf.si } } := by
  unfold callLevel
  dsimp only
  split <;> rfl

theorem callLevels_only (l : List (SiN × Side × List Bool)) (s : State) : l.foldl callLevel s = { s with saf := { s.saf with si := (l.foldl callLevel s).saf.si } } := by
  induction l generalizing s with
  | nil => rfl
  | cons x l ih =>
    rw [List.foldl_cons]
    generalize hi : (l.foldl callLevel (callLevel s x)).saf.si = si
    rw [ih, hi, callLevel_only]

/-- A cycle in time writes the inputs, while they are evaluated, the count of cycles and the mark of an overrun. -/
theorem execCallistoCycle_eq (l : List (SiN × Side × List Bool)) (s : State) (h : callistoRuns s = true) :
    execCallistoCycle l s = .next { s with saf := { s.saf with si := if s.saf.evaluating then (l.foldl callLevel s).saf.si else s.saf.si, cycles := wrapInc 16 s.saf.cycles, lastOverrun := false } } := by
  unfold execCallistoCycle
  rw [if_pos h]
  dsimp only
  split
  · rw [callLevels_only]
  · rfl

/-- Samples that differ from the level, too few for a change, lengthen the run. -/
theorem callSamples_short (need : Nat) (lvl : Bool) (k j : Nat) (h : j + k < need) : (List.replicate k (!lvl)).foldl (callSample need) (lvl, j) = (lvl, j + k) := by
  induction k generalizing j with
  | zero => rfl
  | succ k ih =>
    have one : callSample need (lvl, j) (!lvl) = (lvl, j + 1) := by
      unfold callSample
      rw [if_neg (by simp), if_neg (by dsimp only; omega)]
    rw [List.replicate_succ, List.foldl_cons, one, ih (j + 1) (by omega), show j + 1 + k = j + (k + 1) by omega]

/-- As many samples in a row as are needed change the level. -/
theorem callSamples_change (need : Nat) (lvl : Bool) (h : 1 ≤ need) : (List.replicate need (!lvl)).foldl (callSample need) (lvl, 0) = (!lvl, 0) := by
  obtain ⟨k, rfl⟩ : ∃ k, need = k + 1 := ⟨need - 1, by omega⟩
  rw [List.replicate_succ', List.foldl_append, callSamples_short (k + 1) lvl k 0 (by omega), List.foldl_cons, List.foldl_nil]
  unfold callSample
  rw [if_neg (by simp), if_pos (by dsimp only; omega)]

/-! ## What no fault touches of the safety state (R28, R392, R397) -/

theorem Saf.watchLatch_congr {x y : Saf} (h : x.fixed = y.fixed) : x.watchLatch = y.watchLatch := congrArg (fun z => z.2.2.1) h
theorem Saf.soDiffA_congr {x y : Saf} (h : x.fixed = y.fixed) : x.soDiffA = y.soDiffA := congrArg (fun z => z.2.2.2.2.2.2.1) h
theorem Saf.soDiffB_congr {x y : Saf} (h : x.fixed = y.fixed) : x.soDiffB = y.soDiffB := congrArg (fun z => z.2.2.2.2.2.2.2.1) h
theorem Saf.cust_congr {x y : Saf} (h : x.fixed = y.fixed) : x.cust = y.cust := congrArg (fun z => z.2.2.2.2.2.2.2.2.2.2.2.2) h
theorem saf_of_beyond {s t : State} (h : t.beyond = s.beyond) : t.saf.fixed = s.saf.fixed := congrArg Beyond.saf h

/-- Custodian's latch of Callisto's watch removes its global permit (R28). -/
theorem globalC_of_watchLatch {s : State} (h : s.saf.watchLatch = true) : s.globalC = false := by unfold State.globalC; rw [h]; simp
/-- Callisto's request removes both global permits (R394). -/
theorem global_of_safeReq {s : State} (h : s.saf.safeReq = true) : s.globalC = false ∧ s.globalP = false := by
  unfold State.globalC State.globalP
  rw [h]
  simp

/-! ## The SO lines (R392) -/

/-- The state that shows whether a line reads back as it is driven. -/
def soNoted (line : Side) (lvl : Bool) (s : State) : State :=
  { s with saf := if line = .b then { s.saf with soDiffB := soDriven s true != lvl } else { s.saf with soDiffA := soDriven s false != lvl } }

/-- What a line in use does: the difference shows, and once it has lasted for more than 10 µs it is a fault. -/
theorem execSoReadbackMismatch_used (line : Side) (lvl : Bool) (us : Nat) (s : State) (u : (if line = .b then s.cuSafety 4 else s.pu 0x81 0 4).testBit (b2n (decide (line = .b))) = true) :
    execSoReadbackMismatch line lvl us s = .next (if (soDriven s (decide (line = .b)) != lvl) = true ∧ 10 < us then raise 0x5804 (b2n (decide (line = .b))) 0 (soNoted line lvl s) else soNoted line lvl s) := by
  unfold execSoReadbackMismatch
  dsimp only
  cases line
  all_goals exact if_neg (fun k => Bool.noConfusion (u.symm.trans k))

/-- A line of SO_A or SO_B that is noted as different stays so through the fault. -/
theorem soNoted_differs (line : Side) (lvl : Bool) (s : State) {x : Saf} (h : soDriven s (decide (line = .b)) ≠ lvl) (e : x.fixed = (soNoted line lvl s).saf.fixed) :
    (if line = .b then x.soDiffB else x.soDiffA) = true := by
  cases line
  case a => exact (Saf.soDiffA_congr e).trans (bne_iff_ne.2 h)
  case b => exact (Saf.soDiffB_congr e).trans (bne_iff_ne.2 h)

/-! ## Custodian's registers (R397) -/

/-- Registers of an input or the global ones that differ from their records are a difference. -/
theorem custDiffers_of {s : State} (h : (∃ n, s.saf.cust.si.get n ≠ s.payload 0x80 n.val) ∨ s.saf.cust.safety ≠ s.payload 0x81 0) : s.custDiffers = true := by
  unfold State.custDiffers
  rcases h with ⟨n, h⟩ | h
  · have m : siAll.any (fun n => decide (s.saf.cust.si.get n ≠ s.payload 0x80 n.val)) = true := List.any_eq_true.2 ⟨n, List.mem_finRange n, decide_eq_true h⟩
    rw [m]; rfl
  · rw [decide_eq_true h]; simp

end Sys2Proof.Machine
end

section
/-! SUPPORT. A change of mode and a forced ASC leave the supply; a sample above V_OUT_MAX (01_architecture.md, R33; 07_torque_management.md, R196 and
R199; 10_charger_stages.md, R287). -/

namespace Sys2Proof.Machine

/-! ## The supply through a change of mode (R33, R80) -/

theorem SameButFaults.supply {s t : State} (h : SameButFaults s t) : t.sup = s.sup := by rw [h]
theorem supply_ite {c : Prop} [Decidable c] {s a b : State} (x : a.sup = s.sup) (y : b.sup = s.sup) : (if c then a else b).sup = s.sup := by split <;> assumption

@[simp] theorem pins_supply (s : State) : (pins s).sup = s.sup := (pins_same s).supply
@[simp] theorem raiseBase_supply (c i m : Nat) (s : State) : (raiseBase c i m s).sup = s.sup := (raiseBase_same c i m s).supply
@[simp] theorem stopGroup_supply (g : Grp) (s : State) : (stopGroup g s).sup = s.sup := by rw [stopGroup_only]
@[simp] theorem haltGroup_supply (g : Grp) (s : State) : (haltGroup g s).sup = s.sup := by rw [haltGroup_only]
@[simp] theorem stopSet_supply (x : TSet) (s : State) : (stopSet x s).sup = s.sup := supply_ite (stopGroup_supply _ _) (haltGroup_supply _ _)
@[simp] theorem dropTarget_supply (x : TSet) (s : State) : (dropTarget x s).sup = s.sup := by cases x <;> rfl
@[simp] theorem driveFreewheel_supply (x : TSet) (s : State) : (driveFreewheel x s).sup = s.sup := by rw [driveFreewheel_parts]
@[simp] theorem enterSafe_supply (x : TSet) (s : State) : (enterSafe x s).sup = s.sup :=
  supply_ite rfl (supply_ite (by simp) (by simp))
@[simp] theorem stopTraction_supply (s : State) : (stopTraction s).sup = s.sup := (enterSafe_supply .b _).trans (enterSafe_supply .a s)
@[simp] theorem stopCharger_supply (s : State) : (stopCharger s).sup = s.sup := by
  unfold stopCharger
  exact supply_ite rfl (by simp)
@[simp] theorem roleOff_supply (s : State) : (roleOff s).sup = s.sup := by
  unfold roleOff
  dsimp only
  exact supply_ite rfl rfl
@[simp] theorem abortAct_supply (a : Act) (s : State) : (abortAct a s).sup = s.sup := supply_ite rfl (by simp)
@[simp] theorem stopLv_supply (f3 : Bool) (s : State) : (stopLv f3 s).sup = s.sup := by rw [(stopLv_parts f3 s).1]
@[simp] theorem lvCharge_supply (v : Q) (s : State) : (lvCharge v s).sup = s.sup := by
  unfold lvCharge lvcWrite
  exact supply_ite (by simp) rfl
@[simp] theorem sessionOff_supply (s : State) : (sessionOff s).sup = s.sup := by
  unfold sessionOff
  extract_lets u _ v
  have charge : u.sup = s.sup := supply_ite (lvCharge_supply _ s) rfl
  have role : v.sup = u.sup := supply_ite rfl rfl
  exact role.trans charge
@[simp] theorem sessionOffBy_supply (c : Nat) (s : State) : (sessionOffBy c s).sup = s.sup := by
  unfold sessionOffBy
  exact supply_ite (by simp) (sessionOff_supply s)
@[simp] theorem sessionFail_supply (s : State) : (sessionFail s).sup = s.sup := supply_ite rfl (sessionOffBy_supply 0 s)

@[simp] theorem modeOutputs_supply (m : Mode) (s : State) : (modeOutputs m s).sup = s.sup := by
  unfold modeOutputs
  have chopper (u : State) : (if m = .drive then u else stopGroup 2 u).sup = u.sup := supply_ite rfl (by simp)
  have sets (u : State) : (if m = .drive then u else if m = .safe then stopTraction u else stopSet .b (stopSet .a u)).sup = u.sup := supply_ite rfl (supply_ite (by simp) (by simp))
  have charger (u : State) : (if m = .charge then u else roleOff (stopCharger u)).sup = u.sup := supply_ite rfl (by simp)
  have shift (u : State) : (if m = .drive then u else abortAct .shift u).sup = u.sup := supply_ite rfl (by simp)
  have park (u : State) : (if m = .drive then u else if m = .ready ∨ m = .convert then (if (u.act.get .park).seq = 2 then abortAct .park u else u) else abortAct .park u).sup = u.sup :=
    supply_ite rfl (supply_ite (supply_ite (by simp) rfl) (by simp))
  exact (park _).trans ((shift _).trans ((charger _).trans ((sets _).trans (chopper s))))

/-- A change of mode leaves the supply alone. -/
theorem enterMode_supply (m : Mode) (s : State) : (enterMode m s).sup = s.sup := by
  unfold enterMode
  refine supply_ite rfl ?_
  extract_lets _ _ entered out _ lv _ sess _ cyc _ req
  have outputs : out.sup = s.sup := modeOutputs_supply m entered
  have converter : lv.sup = out.sup := supply_ite (stopLv_supply false out) (supply_ite rfl rfl)
  have session : sess.sup = lv.sup := supply_ite (sessionFail_supply _) rfl
  have cycle : cyc.sup = sess.sup := supply_ite rfl rfl
  have request : req.sup = cyc.sup := supply_ite rfl rfl
  rw [pins_supply, request, cycle, session, converter, outputs]

/-! ## ASC forced by Custodian (R199) -/

/-- A fault of class F4 that is raised while Io runs leaves the supply and the safe states to the next evaluation. -/
theorem raiseBy_f4_parts (b c i m : Nat) (s : State) (h : ∀ s, classOf s c i = 4) (k : ioHalted s = false) :
    (raiseBy b c i m s).sup = s.sup ∧ (raiseBy b c i m s).ss = s.ss := by
  rcases raiseBy_f4_same b c i m s h k with e | e <;> exact ⟨by rw [e], by rw [e]⟩

theorem classOf_ascSide (x : TSet) (s : State) : classOf s 0x1816 x.num = 4 := by simp [classOf, codesF0, codesF1, codesF2, codesF4]
theorem classOf_overvoltage (s : State) : classOf s 0x1813 noInst = 4 := by simp [classOf, codesF0, codesF1, codesF2, codesF4]

theorem goAsc_supply (x : TSet) (s : State) (hi : ioHalted s = false) : (goAsc x s).sup = s.sup := by
  have run : ioHalted (driveFreewheel x s) = false := by rw [driveFreewheel_parts]; exact hi
  unfold goAsc
  split_ifs
  · exact driveFreewheel_supply x s
  · rw [driveAsc_parts]
  · rw [driveAsc_parts]
  · rw [(raiseBy_f4_parts 11 0x1816 x.num 0 _ (classOf_ascSide x) run).1, driveFreewheel_supply]

theorem forceAsc_supply (x : TSet) (s : State) (hi : ioHalted s = false) : (forceAsc x s).sup = s.sup := by
  unfold forceAsc
  split
  · rw [goAsc_supply]
    · exact stopGroup_supply _ _
    · rw [stopGroup_only]; exact hi
  · rfl

theorem forceAsc_ioHalted (x : TSet) (s : State) : ioHalted (forceAsc x s) = ioHalted s := by
  unfold ioHalted
  rw [show (forceAsc x s).lks = s.lks from congrArg Beyond.lks (forceAsc_beyond x s)]

/-- ASC forced on both sets: each present one whose low sides carry no flag is in ASC on them. -/
theorem forceAsc_both (s : State) (x : TSet) (bias : s.sup.biasA = true) (hi : ioHalted s = false) (f : s.fn x.num = true) (k : s.sideFlagged x.lows = false) :
    ((forceAsc .b (forceAsc .a s)).ss.get x).st = 2 ∧ ((forceAsc .b (forceAsc .a s)).ss.get x).window = false := by
  have run : ioHalted (forceAsc .a s) = false := by rw [forceAsc_ioHalted]; exact hi
  cases x
  case a =>
    rw [(forceAsc_other .b _ run).1 .a (by decide)]
    exact forceAsc_low .a s f bias k
  case b =>
    refine forceAsc_low .b _ ?_ ?_ ?_
    · rw [fn_cat (congrArg Beyond.cat (forceAsc_beyond .a s))]; exact f
    · rw [forceAsc_supply .a s hi]; exact bias
    · rw [(forceAsc_other .a s hi).2]; exact k

/-! ## Samples of the DC link (R196, R287) -/

/-- A charger that does not run has no output limit to keep. -/
theorem chargerOutMax_off {s : State} (h : chargerOn s = false) : chargerOutMax s = s := if_neg (fun k => by rw [h] at k; exact Bool.noConfusion k.1)
theorem chargerOutMax_over {s : State} (h : chargerOn s = true) (k : s.pf 0x50 1 56 < s.vMax) : chargerOutMax s = raise 0x3009 1 0 s := if_pos ⟨h, k⟩

theorem le_maxQ_left (a b : Q) : a ≤ maxQ a b := by unfold maxQ; split <;> linarith
theorem le_maxQ_right (a b : Q) : b ≤ maxQ a b := by unfold maxQ; split <;> linarith

end Sys2Proof.Machine
end

section
/-! SUPPORT. What a set's safe-state entry writes, and what a mode evaluation does, condition by condition (01_architecture.md, R33 to R37;
20_vehicle_interfaces.md, R502). -/

namespace Sys2Proof.Machine

/-! ## A ship entry that is given up (R80, R81) -/

/-- What the start of the bias drive leaves of the supply. -/
theorem startBias_ship (s : State) : (startBias s).sup.ship = s.sup.ship ∧ (startBias s).sup.lvd = s.sup.lvd ∧ (startBias s).sup.ifaces = s.sup.ifaces := by
  unfold startBias
  split <;> exact ⟨rfl, rfl, rfl⟩

theorem shipAbandon_falling {s : State} (h : s.sup.ship = .falling) : (shipAbandon s).sup.ship = .none ∧ (shipAbandon s).sup.lvd = true ∧ (shipAbandon s).sup.ifaces = true := by
  unfold shipAbandon
  rw [if_pos h]
  exact startBias_ship _

/-- No entry that has not reached SHIP is left. -/
theorem shipAbandon_none {s : State} (h : s.sup.ship ≠ .ship) (w : s.sup.ship ≠ .waking) : (shipAbandon s).sup.ship = .none := by
  cases e : s.sup.ship with
  | none => unfold shipAbandon; simp [e]
  | writes => unfold shipAbandon; simp [e]
  | record => unfold shipAbandon; simp [e]
  | falling => exact (shipAbandon_falling e).1
  | ship => exact absurd e h
  | waking => exact absurd e w

/-! ## A set's safe state (R200, R201) -/

theorem dropTarget_ss (x : TSet) (s : State) : (dropTarget x s).ss = s.ss := by cases x <;> rfl

/-- An entry writes the safe state of a present set that was in none: freewheel, with the selection window open. -/
theorem enterSafe_ss (x : TSet) (s : State) :
    (enterSafe x s).ss = if s.fn x.num = false ∨ (s.ss.get x).st ≠ 0 then s.ss else (s.ss.upd x (fun y => { y with st := 1 })).upd x (fun y => { y with window := true, trial := false }) := by
  unfold enterSafe
  by_cases f : s.fn x.num = false
  · rw [if_pos f, if_pos (.inl f)]
  · rw [if_neg f]
    by_cases z : (s.ss.get x).st = 0
    · rw [if_pos z, if_neg (not_or.2 ⟨f, not_not.2 z⟩)]
      dsimp only
      rw [dropTarget_ss, driveFreewheel_parts, stopGroup_only]
    · rw [if_neg z, if_pos (.inr z), dropTarget_ss, haltGroup_only]

/-- After the entry a present set is in a safe state. -/
theorem enterSafe_in (x : TSet) (s : State) (f : s.fn x.num = true) : 1 ≤ ((enterSafe x s).ss.get x).st := by
  rw [enterSafe_ss]
  split
  · rename_i h
    rcases h with h | h
    · rw [f] at h; cases h
    · omega
  · simp

theorem enterSafe_other (x y : TSet) (s : State) (h : y ≠ x) : (enterSafe x s).ss.get y = s.ss.get y := by
  rw [enterSafe_ss]
  split
  · rfl
  · simp [Tab.get_upd, h]

/-- Every present set is in a safe state once traction has stopped. -/
theorem stopTraction_in (s : State) (x : TSet) (f : s.fn x.num = true) : 1 ≤ ((stopTraction s).ss.get x).st := by
  unfold stopTraction
  cases x
  case a => rw [enterSafe_other .b .a _ (by decide)]; exact enterSafe_in .a s f
  case b => exact enterSafe_in .b _ ((fn_cat (congrArg Beyond.cat (enterSafe_beyond .a s)) 1).trans f)

/-! ## An evaluation under a class F4 fault (R33, R34) -/

/-- The fault acts in every mode but OFF, SHIP and SAFE, in ACCESSION from the start of Io on. -/
theorem modeEval_f4 (l : Bool) (s : State) (hm : s.sys.mode ≠ .off ∧ s.sys.mode ≠ .ship ∧ s.sys.mode ≠ .safe) (ha : s.sys.mode = .accession → (s.lks.pairs.get .io).st = 1) (h4 : activeClass 4 s = true) :
    execModeEvaluation l s = .next (safeByF4 (ageTask l s)) := by
  obtain ⟨off, ship, safe⟩ := hm
  have k : activeClass 4 (ageTask l s) = true := h4
  have mode : (ageTask l s).sys.mode = s.sys.mode := rfl
  unfold execModeEvaluation
  dsimp only
  rw [mode]
  cases hs : s.sys.mode
  case off => exact absurd hs off
  case ship => exact absurd hs ship
  case safe => exact absurd hs safe
  case accession =>
    have io : ioHalted (ageTask l s) = false := decide_eq_false (not_not.2 (ha hs))
    dsimp only
    rw [if_pos ⟨k, io⟩]
  all_goals
    dsimp only
    rw [if_pos ⟨k, by decide⟩]

theorem noSafe_iff (s : State) : s.noSafe = true ↔ (s.sys.mode = .off ∨ s.sys.mode = .ship) ∨ s.inReset = true ∨ s.lks.dead = true := by
  unfold State.noSafe
  simp [or_assoc]

theorem safeByF4_held {s : State} (h : s.noSafe = true) : safeByF4 s = s := if_pos h

/-- SAFE, with a ship entry given up and every other supply field as `shipAbandon` leaves it. -/
theorem safeByF4_enters {s : State} (h : s.noSafe = false) : (safeByF4 s).sys.mode = .safe ∧ (safeByF4 s).sup = (shipAbandon s).sup := by
  unfold safeByF4
  rw [if_neg (by rw [h]; decide)]
  exact ⟨enterMode_mode _ _, enterMode_supply _ _⟩

/-- A reset that holds the N9 and a failed start-up check rank before the fault. -/
theorem modeEval_held (l : Bool) (s : State) (h : s.inReset = true ∨ s.lks.dead = true) (h4 : activeClass 4 s = true) (hm : s.sys.mode ≠ .safe) :
    execModeEvaluation l s = .next (ageTask l s) := by
  have k : activeClass 4 (ageTask l s) = true := h4
  have mode : (ageTask l s).sys.mode = s.sys.mode := rfl
  have held : safeByF4 (ageTask l s) = ageTask l s := safeByF4_held ((noSafe_iff (ageTask l s)).2 (.inr h))
  unfold execModeEvaluation
  dsimp only
  rw [mode]
  cases hs : s.sys.mode
  case off => rfl
  case ship => rfl
  case safe => exact absurd hs hm
  case accession =>
    dsimp only
    rw [held, ite_self]
  all_goals
    dsimp only
    rw [if_pos ⟨k, by decide⟩, held]

/-! ## An evaluation that no class F4 fault decides (R34, R36) -/

theorem modeEval_lost {l : Bool} {s t : State} (hi : (s.lks.pairs.get .io).st = 1) (h4 : activeClass 4 s = false) (hm : s.sys.mode = .drive ∨ s.sys.mode = .charge)
    (h : lostPrecondition (ageTask l s) = some t) : execModeEvaluation l s = .next t := by
  rw [modeEval_eq l s hi h4 (by rcases hm with e | e <;> (rw [e]; decide)), h]

theorem modeEval_request {l : Bool} {s : State} (hi : (s.lks.pairs.get .io).st = 1) (h4 : activeClass 4 s = false) (hm : s.sys.mode = .ready ∨ s.sys.mode = .convert ∨ s.sys.mode = .drive)
    (h : lostPrecondition (ageTask l s) = none) : execModeEvaluation l s = .next (modeRequest (ageTask l s)) := by
  rw [modeEval_eq l s hi h4 (by rcases hm with e | e | e <;> (rw [e]; decide)), h]

/-- READY and CONVERT have no precondition to lose. -/
theorem lostPrecondition_idle {s : State} (h : s.sys.mode = .ready ∨ s.sys.mode = .convert) : lostPrecondition s = none := by
  unfold lostPrecondition
  rcases h with e | e <;> rw [e]

theorem lostPrecondition_window {s : State} (h : s.sys.mode = .drive) (w : s.sys.dcInside = false) : lostPrecondition s = some (stopTraction (enterMode .ready s)) := by
  unfold lostPrecondition
  rw [h]
  exact if_pos w

/-- DRIVE with the window held, nothing waiting for standstill, nothing connected and SI4 not in demand has lost nothing. -/
theorem lostPrecondition_drive {s : State} (h : s.sys.mode = .drive) (w : s.sys.dcInside = true) (still : s.sys.waitStill = false) (c : s.connected = false) (d : s.siDemand 4 = false) :
    lostPrecondition s = none := by
  unfold lostPrecondition
  rw [h]
  dsimp only
  rw [if_neg (by rw [w]; decide), still, c, d]
  rfl

theorem lostPrecondition_charge {s : State} (h : s.sys.mode = .charge) (e : s.si3Eng = false) :
    lostPrecondition s = some (enterMode .convert (sessionEnd (1 + (takeFree s).1 % 8) (takeFree s).2)) := by
  unfold lostPrecondition
  rw [h]
  exact if_neg (by rw [e]; decide)

/-! ## The vehicle's request (R33, R502) -/

theorem modeRequest_convert {s : State} (h : s.sys.mode = .ready) (r : s.veh.mode = some 4) (ship : s.sup.ship = .none) (w : s.sys.dcInside = true) : modeRequest s = enterMode .convert s := by
  unfold modeRequest
  simp [h, r, ship, w, Mode.code]

theorem modeRequest_drive {s : State} (h : s.sys.mode = .ready ∨ s.sys.mode = .convert) (r : s.veh.mode = some 5) (ship : s.sup.ship = .none) : modeRequest s = requestDrive s := by
  unfold modeRequest
  rcases h with h | h <;> simp [h, r, ship, Mode.code]

/-- A request to leave DRIVE for READY while the vehicle moves. -/
theorem modeRequest_moving {s : State} (h : s.sys.mode = .drive) (r : s.veh.mode = some 3) (ship : s.sup.ship = .none) (still : s.standstill = false) : modeRequest s = noteRefuse 4 s := by
  unfold modeRequest
  simp [h, r, ship, Mode.code, requestLeave, still]

theorem requestDrive_grant {s : State} (w : s.sys.dcInside = true) (test : s.siTestPending 0 = false) (c : s.connected = false) (d : s.siDemand 4 = false) : requestDrive s = enterMode .drive s := by
  unfold requestDrive
  rw [if_neg (by rw [w]; decide), if_neg (by rw [test]; decide), if_neg (by rw [c, d]; decide)]

/-- The refusal names the first condition that fails. -/
theorem requestDrive_refuse {s : State} (h : s.sys.dcInside = false ∨ s.siTestPending 0 = true ∨ s.connected = true ∨ s.siDemand 4 = true) :
    requestDrive s = noteRefuse (if s.sys.dcInside = false then 1 else if s.siTestPending 0 = true then 2 else 3) s := by
  unfold requestDrive
  split_ifs with window test plug
  · rfl
  · rfl
  · rfl
  · simp_all

end Sys2Proof.Machine
end

section
/-! The DC-link window and the evaluation of the operating mode. -/

namespace Sys2Proof.Machine

/-- The clause on the window. -/
theorem dcLinkWindow_clause (s : State) (heldMs : Nat) (h : s.hasRec 3 0 = true) (k : 10 ≤ heldMs) :
    Answers (exec (.dcLinkWindowChange heldMs) s) fun t => (t.sys.dcInside = true ↔ s.pf 3 0 0 ≤ s.vMin ∧ s.vMax ≤ s.pf 3 0 4) ∧ t = { s with sys := { s.sys with dcInside := t.sys.dcInside } } :=
  ⟨_, if_pos ⟨h, k⟩, decide_eq_true_iff, rfl⟩

/-- What a granted request shares: the mode, a start of the LV converter that is due from READY, and the frame. -/
theorem enterMode_granted (m : Mode) (s : State) (low : Bool) (hm : m = .convert ∨ m = .drive ∨ m = .charge) :
    (enterMode m (ageTask low s)).sys.mode = m ∧ (s.sys.mode = .ready → s.fn 5 = true → (enterMode m (ageTask low s)).lvc.due = true) ∧ Grows s (enterMode m (ageTask low s)) ∧ (enterMode m (ageTask low s)).beyond = (ageTask low s).beyond :=
  ⟨enterMode_mode _ _, fun r f => enterMode_due m (ageTask low s) r hm f, (Grows.of_eq (t := ageTask low s) rfl).trans (enterMode_grows _ _), enterMode_beyond _ _⟩

/-- The clause on CONVERT. -/
theorem grantConvert_clause (s : State) (low : Bool) (h : s.sys.mode = .ready) (hi : (s.lks.pairs.get .io).st = 1) (h4 : activeClass 4 s = false) (r : s.veh.mode = some 4) (w : s.sys.dcInside = true) (ship : s.sup.ship = .none) :
    Answers (exec (.modeEvaluation low) s) fun t => t.sys.mode = .convert ∧ (s.fn 5 = true → t.lvc.due = true) ∧ Grows s t ∧ t.beyond = (ageTask low s).beyond := by
  obtain ⟨mode, due, g, b⟩ := enterMode_granted .convert s low (.inl rfl)
  refine ⟨_, (modeEval_request hi h4 (.inl h) (lostPrecondition_idle (.inl h))).trans ?_, mode, due h, g, b⟩
  exact congrArg Host.Outcome.next (modeRequest_convert (s := ageTask low s) h r ship w)

/-- The clause on DRIVE. -/
theorem grantDrive_clause (s : State) (low : Bool) (h : s.sys.mode = .ready ∨ s.sys.mode = .convert) (hi : (s.lks.pairs.get .io).st = 1) (h4 : activeClass 4 s = false) (r : s.veh.mode = some 5) (w : s.sys.dcInside = true)
    (test : s.siTestPending 0 = false) (c : s.connected = false) (d : s.siDemand 4 = false) (ship : s.sup.ship = .none) :
    Answers (exec (.modeEvaluation low) s) fun t => t.sys.mode = .drive ∧ (s.sys.mode = .ready → s.fn 5 = true → t.lvc.due = true) ∧ Grows s t ∧ t.beyond = (ageTask low s).beyond := by
  refine ⟨_, (modeEval_request hi h4 (h.imp_right .inl) (lostPrecondition_idle h)).trans ?_, enterMode_granted .drive s low (.inr (.inl rfl))⟩
  exact congrArg Host.Outcome.next ((modeRequest_drive (s := ageTask low s) h r ship).trans (requestDrive_grant (s := ageTask low s) w test c d))

/-- The clause on a refused request of DRIVE. -/
theorem refuseDrive_clause (s : State) (low : Bool) (h : s.sys.mode = .ready) (hi : (s.lks.pairs.get .io).st = 1) (h4 : activeClass 4 s = false) (r : s.veh.mode = some 5) (ship : s.sup.ship = .none)
    (bad : s.sys.dcInside = false ∨ s.siTestPending 0 = true ∨ s.connected = true ∨ s.siDemand 4 = true) :
    exec (.modeEvaluation low) s = .next (noteRefuse (if s.sys.dcInside = false then 1 else if s.siTestPending 0 = true then 2 else 3) (ageTask low s)) :=
  (modeEval_request hi h4 (.inl h) (lostPrecondition_idle (.inl h))).trans
    (congrArg Host.Outcome.next ((modeRequest_drive (s := ageTask low s) (.inl h) r ship).trans (requestDrive_refuse (s := ageTask low s) bad)))

/-- The clause on a class F4 fault. -/
theorem modeF4_clause (s : State) (low : Bool) (hm : s.sys.mode ≠ .off ∧ s.sys.mode ≠ .ship ∧ s.sys.mode ≠ .safe) (ha : s.sys.mode = .accession → (s.lks.pairs.get .io).st = 1) (hr : s.inReset = false) (hd : s.lks.dead = false) (h4 : activeClass 4 s = true) :
    Answers (exec (.modeEvaluation low) s) fun t => t.sys.mode = .safe ∧ (s.sup.ship = .falling → t.sup.lvd = true ∧ t.sup.ifaces = true) ∧ (s.sup.ship ≠ .ship → s.sup.ship ≠ .waking → t.sup.ship = .none) ∧ Grows s t ∧ t.beyond = (ageTask low s).beyond := by
  have free : (ageTask low s).noSafe = false := by
    rw [Bool.eq_false_iff]
    intro k
    rcases (noSafe_iff (ageTask low s)).1 k with (k | k) | k | k
    · exact hm.1 k
    · exact hm.2.1 k
    · exact Bool.noConfusion (hr.symm.trans k)
    · exact Bool.noConfusion (hd.symm.trans k)
  obtain ⟨mode, sup⟩ := safeByF4_enters free
  refine ⟨_, modeEval_f4 low s hm ha h4, mode, fun f => ?_, fun n w => ?_, (Grows.of_eq (t := ageTask low s) rfl).trans (safeByF4_grows _), safeByF4_beyond _⟩
  · rw [sup]; exact (shipAbandon_falling (s := ageTask low s) f).2
  · rw [sup]; exact shipAbandon_none (s := ageTask low s) n w

/-- The clause on DRIVE left for a lost window. -/
theorem lostWindow_clause (s : State) (low : Bool) (h : s.sys.mode = .drive) (hi : (s.lks.pairs.get .io).st = 1) (h4 : activeClass 4 s = false) (w : s.sys.dcInside = false) :
    Answers (exec (.modeEvaluation low) s) fun t => t.sys.mode = .ready ∧ (∀ x : TSet, s.fn x.num = true → 1 ≤ (t.ss.get x).st) ∧ Grows s t ∧ t.beyond = (ageTask low s).beyond := by
  have cat : (enterMode .ready (ageTask low s)).cat = s.cat := enterMode_cat _ _
  refine ⟨_, modeEval_lost hi h4 (.inl h) (lostPrecondition_window (s := ageTask low s) h w), by simp, ?_, ?_, by simp⟩
  · exact fun x f => stopTraction_in _ x ((fn_cat cat x.num).trans f)
  · exact (Grows.of_eq (t := ageTask low s) rfl).trans ((enterMode_grows _ _).trans (.of_eq (stopTraction_faults _)))

/-- The clause on CHARGE left for a park lock that is not confirmed. -/
theorem lostPark_clause (s : State) (low : Bool) (h : s.sys.mode = .charge) (hi : (s.lks.pairs.get .io).st = 1) (h4 : activeClass 4 s = false) (e : s.si3Eng = false) :
    Answers (exec (.modeEvaluation low) s) fun t => t.sys.mode = .convert ∧ Grows s t := by
  have ended : Grows s (sessionEnd (1 + (takeFree (ageTask low s)).1 % 8) (takeFree (ageTask low s)).2) := .of_eq ((sessionEnd_faults _ _).trans rfl)
  exact ⟨_, modeEval_lost hi h4 (.inr h) (lostPrecondition_charge (s := ageTask low s) h e), enterMode_mode _ _, ended.trans (enterMode_grows _ _)⟩

/-- The clause on DRIVE kept before standstill. -/
theorem refuseLeave_clause (s : State) (low : Bool) (h : s.sys.mode = .drive) (hi : (s.lks.pairs.get .io).st = 1) (h4 : activeClass 4 s = false) (w : s.sys.dcInside = true) (c : s.connected = false) (d : s.siDemand 4 = false)
    (still : s.sys.waitStill = false) (r : s.veh.mode = some 3) (moving : s.standstill = false) (ship : s.sup.ship = .none) :
    exec (.modeEvaluation low) s = .next (noteRefuse 4 (ageTask low s)) :=
  (modeEval_request hi h4 (.inr (.inr h)) (lostPrecondition_drive (s := ageTask low s) h w still c d)).trans
    (congrArg Host.Outcome.next (modeRequest_moving (s := ageTask low s) h r ship moving))

/-- Settles O5, clause by clause: the window, what is granted and refused in READY, class F4 faults, lost preconditions and DRIVE before
standstill. -/
theorem modeChanges : Obligations.ModeChanges := by
  unfold Obligations.ModeChanges
  exact ⟨dcLinkWindow_clause, grantConvert_clause, grantDrive_clause, refuseDrive_clause, modeF4_clause, fun s low => modeEval_held low s, lostWindow_clause, lostPark_clause, refuseLeave_clause⟩

end Sys2Proof.Machine
end

section
/-! The DC-link samples, their staleness and disagreement, and the overvoltage hold. -/

namespace Sys2Proof.Machine

/-- The clause on a disagreement: 0x1811 decides which value torque management takes. -/
theorem dcLinkDisagree_clause (s : State) (us : Nat) (h : s.hasRec 0x38 0 = true) (k : 1000 ≤ us) (d : s.pf 0x38 0 120 < absQ (s.dc.dclT - s.dc.dclC)) :
    Answers (exec (.dcLinkDisagree us) s) fun t => active 0x1811 noInst t = true ∧ Grows s t ∧ t.vMinTm = t.vMax ∧ t.beyond = s.beyond := by
  obtain ⟨a, g, b⟩ := raise_after (s := s) 0x1811 noInst 0 (u := s) rfl
  exact ⟨_, if_pos ⟨h, k, d⟩, a, g, if_pos a, b⟩

/-- The clause on an overvoltage: both sets are forced before the fault, which leaves their safe states to Io. -/
theorem dcOvervoltage_clause (s : State) (volts : Q) (h : s.saf.cust.ov ≠ []) (k : s.cuOv 0 < volts) :
    Answers (exec (.dcOvervoltageAsc .one volts) s) fun t => active 0x1813 noInst t = true ∧ t.beyond = { s with dc := { s.dc with dclT := volts }, saf := { s.saf with ovHold := true } }.beyond ∧
      (s.sup.biasA = true → ioHalted s = false → ∀ x : TSet, s.fn x.num = true → s.sideFlagged x.lows = false → (t.ss.get x).st = 2 ∧ (t.ss.get x).window = false) := by
  generalize hu : ({ s with dc := { s.dc with dclT := volts }, saf := { s.saf with ovHold := true } } : State) = u
  have run : exec (.dcOvervoltageAsc .one volts) s = .next (raiseBy 11 0x1813 noInst 0 (forceAsc .b (forceAsc .a u))) := by rw [← hu]; exact if_pos ⟨h, k⟩
  refine ⟨_, run, raiseBy_active _ _ _ _ _, by simp, ?_⟩
  intro bias hi x f flag
  have io : ioHalted (forceAsc .b (forceAsc .a u)) = false := by rw [forceAsc_ioHalted, forceAsc_ioHalted, ← hu]; exact hi
  rw [(raiseBy_f4_parts 11 0x1813 noInst 0 _ classOf_overvoltage io).2]
  subst hu
  exact forceAsc_both _ x bias hi f flag

/-- The clause on a sample above V_OUT_MAX while the charger runs. -/
theorem dcLinkSample_over (s : State) (d : Die) (volts : Q) (h : chargerOn s = true) (k : s.pf 0x50 1 56 < volts) :
    Answers (exec (.dcLinkSample d volts) s) fun t => active 0x3009 1 t = true ∧ Grows s t ∧
      t.beyond = { s with dc := (match d with | .one => { s.dc with dclT := volts, stale1 := false } | .two => { s.dc with dclC := volts, stale2 := false }) }.beyond := by
  cases d
  case one =>
    have run := chargerOutMax_over (s := { s with dc := { s.dc with dclT := volts, stale1 := false } }) h (lt_of_lt_of_le k (le_maxQ_left _ _))
    exact ⟨_, congrArg Host.Outcome.next run, raise_after 0x3009 1 0 rfl⟩
  case two =>
    have run := chargerOutMax_over (s := { s with dc := { s.dc with dclC := volts, stale2 := false } }) h (lt_of_lt_of_le k (le_maxQ_right _ _))
    exact ⟨_, congrArg Host.Outcome.next run, raise_after 0x3009 1 0 rfl⟩

/-- Settles O19, clause by clause: samples with the charger off, staleness, disagreement, the hold and its end, and a sample above V_OUT_MAX. -/
theorem safeStateInputs : Obligations.SafeStateInputs := by
  unfold Obligations.SafeStateInputs
  refine ⟨?one, ?two, ?stale, dcLinkDisagree_clause, dcOvervoltage_clause, ?release, dcLinkSample_over⟩
  case one => exact fun s volts h => congrArg Host.Outcome.next (chargerOutMax_off (s := { s with dc := { s.dc with dclT := volts, stale1 := false } }) h)
  case two => exact fun s volts h => congrArg Host.Outcome.next (chargerOutMax_off (s := { s with dc := { s.dc with dclC := volts, stale2 := false } }) h)
  case stale => exact fun s ns h => ⟨if_pos h, if_pos h⟩
  case release => exact fun s vT vC h hT hC => if_pos ⟨h, hT, hC⟩

end Sys2Proof.Machine
end

section
/-! Callisto's cycle, its watch, the safe-state request, the SO lines and Custodian's configuration. -/

namespace Sys2Proof.Machine

/-- The clause on a cycle: what it writes, the filter of one channel, and how many samples change a level. -/
theorem callistoCycle_clause (s : State) (l : List (SiN × Side × List Bool)) (h : callistoRuns s = true) :
    (Answers (exec (.callistoCycle l) s) fun t => t = { s with saf := { s.saf with si := t.saf.si, cycles := wrapInc 16 s.saf.cycles, lastOverrun := false } }) ∧
    (∀ n d, s.saf.evaluating = true → s.siUsed n = true → Answers (exec (.callistoCycle [(n, .a, d)]) s) fun t => t.saf.si = s.saf.si.upd n (fun x => { x with callA := (d.foldl (callSample ((s.pu 0x80 n 4 + 9) / 10)) (x.callA, x.runA)).1, runA := (d.foldl (callSample ((s.pu 0x80 n 4 + 9) / 10)) (x.callA, x.runA)).2 })) ∧
    (∀ n d, s.saf.evaluating = true → s.siUsed n = true → Answers (exec (.callistoCycle [(n, .b, d)]) s) fun t => t.saf.si = s.saf.si.upd n (fun x => { x with callB := (d.foldl (callSample ((s.pu 0x80 n 4 + 9) / 10)) (x.callB, x.runB)).1, runB := (d.foldl (callSample ((s.pu 0x80 n 4 + 9) / 10)) (x.callB, x.runB)).2 })) := by
  refine ⟨⟨_, execCallistoCycle_eq l s h, rfl⟩, ?_, ?_⟩
  all_goals
    intro n d e u
    refine ⟨_, execCallistoCycle_eq _ s h, ?_⟩
    simp [e, callLevel, u]

/-- The clause on an overrun: 0x5807 has no reaction, the second in a row is a fault of class F4. -/
theorem callistoOverrun_clause (s : State) (h : callistoRuns s = true) :
    (s.saf.lastOverrun = false → Answers (exec .callistoOverrun s) fun t => active 0x5807 noInst t = true ∧ SameButFaults { s with saf := { s.saf with overruns := satInc 16 s.saf.overruns, lastOverrun := true } } t) ∧
    (s.saf.lastOverrun = true → Answers (exec .callistoOverrun s) fun t => active 0x5808 noInst t = true ∧ Grows s t ∧ t.beyond = ({ s with saf := { s.saf with overruns := satInc 16 s.saf.overruns } } : State).beyond) := by
  have run : exec .callistoOverrun s = .next (raise (if s.saf.lastOverrun then 0x5808 else 0x5807) noInst 0 { s with saf := { s.saf with overruns := satInc 16 s.saf.overruns, lastOverrun := true } }) := if_pos h
  constructor <;> intro o
  · rw [o] at run
    exact ⟨_, run, raise_active _ _ _ _, raise_low_same 0x5807 noInst 0 _ (by intro s; simp [classOf, codesF0, codesF1]) (by decide)⟩
  · rw [o] at run
    obtain ⟨a, g, b⟩ := raise_after (s := s) 0x5808 noInst 0 (u := { s with saf := { s.saf with overruns := satInc 16 s.saf.overruns, lastOverrun := true } }) rfl
    exact ⟨_, run, a, g, b.trans (by rw [← o])⟩

/-- The clause on the watch: the latch stays through the fault. -/
theorem callistoWatch_clause (s : State) (us : Nat) (h : (s.lks.pairs.get .callisto).st ≠ 0) (k : 300 ≤ us) (l : s.saf.watchLatch = false) :
    Answers (exec (.callistoWatchExpiry us) s) fun t => active 0x5809 noInst t = true ∧ t.globalC = false ∧ t.saf.watchLatch = true ∧ Grows s t ∧ t.beyond = ({ s with saf := { s.saf with watchLatch := true } } : State).beyond := by
  obtain ⟨a, g, b⟩ := raise_after (s := s) 0x5809 noInst 0 (u := { s with saf := { s.saf with watchLatch := true } }) rfl
  have w := Saf.watchLatch_congr (saf_of_beyond b)
  exact ⟨_, if_pos ⟨h, k, l⟩, a, globalC_of_watchLatch w, w, g, b⟩

/-- The clause on a line read back. -/
theorem soReadback_clause (s : State) (line : Side) (lvl : Bool) (us : Nat) (u : (if line = .b then s.cuSafety 4 else s.pu 0x81 0 4).testBit (b2n (decide (line = .b))) = true) :
    (soDriven s (decide (line = .b)) = lvl ∨ us ≤ 10 → exec (.soReadbackMismatch line lvl us) s = .next { s with saf := if line = .b then { s.saf with soDiffB := soDriven s true != lvl } else { s.saf with soDiffA := soDriven s false != lvl } }) ∧
    (soDriven s (decide (line = .b)) ≠ lvl → 10 < us → Answers (exec (.soReadbackMismatch line lvl us) s) fun t => active 0x5804 (if line = .b then 1 else 0) t = true ∧ (if line = .b then t.saf.soDiffB else t.saf.soDiffA) = true ∧ Grows s t) := by
  have run : exec (.soReadbackMismatch line lvl us) s = _ := execSoReadbackMismatch_used line lvl us s u
  refine ⟨fun h => ?_, fun h l => ?_⟩
  · have quiet : ¬((soDriven s (decide (line = .b)) != lvl) = true ∧ 10 < us) := fun k => h.elim (bne_iff_ne.1 k.1) (by omega)
    rw [run, if_neg quiet]
    rfl
  · rw [if_pos ⟨bne_iff_ne.2 h, l⟩] at run
    obtain ⟨act, g, b⟩ := raise_after (s := s) 0x5804 (b2n (decide (line = .b))) 0 (u := soNoted line lvl s) rfl
    have code : b2n (decide (line = .b)) = if line = .b then 1 else 0 := by cases line <;> rfl
    exact ⟨_, run, by rw [← code]; exact act, soNoted_differs line lvl s h (saf_of_beyond b), g⟩

/-- The clause on the check of Custodian's registers. -/
theorem custodianCheck_clause (s : State) (l : List (CustReg × Nat)) (c : Custodian) (k : s.cat.locked = true) (e : c = l.foldl Custodian.upset s.saf.cust) :
    (callistoRuns s = true → ({ s with saf := { s.saf with cust := c } } : State).custDiffers = true → Answers (exec (.custodianConfigCheck l) s) fun t => active 0x5806 noInst t = true ∧ t.saf.cust = c ∧ Grows s t ∧ t.beyond = ({ s with saf := { s.saf with cust := c } } : State).beyond) ∧
    (({ s with saf := { s.saf with cust := c } } : State).custDiffers = false → exec (.custodianConfigCheck l) s = .next { s with saf := { s.saf with cust := c } }) ∧
    ((∃ n, c.si.get n ≠ s.payload 0x80 n.val) ∨ c.safety ≠ s.payload 0x81 0 → ({ s with saf := { s.saf with cust := c } } : State).custDiffers = true) := by
  subst e
  generalize hu : ({ s with saf := { s.saf with cust := l.foldl Custodian.upset s.saf.cust } } : State) = u
  have run : exec (.custodianConfigCheck l) s = .next (if (callistoRuns u && u.custDiffers) = true then raise 0x5806 noInst 0 u else u) := by rw [← hu]; exact if_pos k
  have runs : callistoRuns u = callistoRuns s := by rw [← hu]; rfl
  refine ⟨fun r d => ?_, fun d => ?_, fun d => ?_⟩
  · rw [if_pos (by rw [runs, r, d]; rfl)] at run
    obtain ⟨a, g, b⟩ := raise_after (s := s) 0x5806 noInst 0 (u := u) (by rw [← hu])
    exact ⟨_, run, a, (Saf.cust_congr (saf_of_beyond b)).trans (by rw [← hu]), g, b⟩
  · rw [run, if_neg (by rw [d]; simp)]
  · exact custDiffers_of (by rw [← hu]; exact d)

/-- Settles O40, clause by clause: the cycle, the overrun, the watch, the request, the SO lines and Custodian's registers. -/
theorem safetyWatch : Obligations.SafetyWatch := by
  unfold Obligations.SafetyWatch
  refine ⟨fun s l h => ?_, callistoOverrun_clause, callistoWatch_clause, fun s h => ⟨if_pos h, global_of_safeReq rfl⟩, soReadback_clause, custodianCheck_clause⟩
  obtain ⟨cycle, chA, chB⟩ := callistoCycle_clause s l h
  exact ⟨cycle, chA, chB, fun need lvl k _ hk => by simpa using callSamples_short need lvl k 0 (by omega), callSamples_change⟩

end Sys2Proof.Machine
end

section
/-! SUPPORT. The feeds as tables: what a change of one feed's state reads as, what the collector leaves of it, and the classes of the supply
faults (03_supply_startup.md, R60 to R62, R93). -/

namespace Sys2Proof.Machine

/-! ## One feed (R60) -/

@[simp] theorem feedOf_setFeed (f : Feed) (x : FeedSt) (s : State) : feedOf (setFeed f x s) f = x := by cases f <;> rfl
@[simp] theorem feedOf_setFeed_other (f : Feed) (x : FeedSt) (s : State) : feedOf (setFeed f x s) f.other = feedOf s f.other := by cases f <;> rfl
@[simp] theorem feedOf_setFeed_of_other (f : Feed) (x : FeedSt) (s : State) : feedOf (setFeed f.other x s) f = feedOf s f := by cases f <;> rfl
@[simp] theorem setFeed_faults (f : Feed) (x : FeedSt) (s : State) : (setFeed f x s).faults = s.faults := by cases f <;> rfl
@[simp] theorem setFeed_mode (f : Feed) (x : FeedSt) (s : State) : (setFeed f x s).sys.mode = s.sys.mode := by cases f <;> rfl
/-- A feed's own state written back is no change. -/
@[simp] theorem setFeed_self (f : Feed) (s : State) : setFeed f (feedOf s f) s = s := by cases f <;> rfl

theorem feedOf_congr {s t : State} (h : t.sup = s.sup) (f : Feed) : feedOf t f = feedOf s f := by cases f <;> simp [feedOf, h]
theorem SameButFaults.feed {s t : State} (h : SameButFaults s t) (f : Feed) : feedOf t f = feedOf s f := feedOf_congr h.supply f
theorem SameButFaults.setFeed {s t : State} (h : SameButFaults s t) (f : Feed) (x : FeedSt) : SameButFaults (setFeed f x s) (setFeed f x t) := by
  unfold SameButFaults at h ⊢
  cases f <;> rw [h] <;> rfl

/-! ## The faults of a feed (R93) -/

theorem lossCode_ne_drop (f : Feed) : lossCode f ≠ 0x001A := by cases f <;> decide
theorem ovCode_ne_drop (f : Feed) : ovCode f ≠ 0x001A := by cases f <;> decide
theorem classOf_lossCode (f : Feed) (s : State) : classOf s (lossCode f) noInst = 1 := by cases f <;> simp [lossCode, classOf, codesF0, codesF1]
theorem classOf_ovCode (f : Feed) (s : State) : classOf s (ovCode f) noInst = 1 := by cases f <;> simp [ovCode, classOf, codesF0, codesF1]

/-- A loss fault that is raised is the collector's matter alone. -/
theorem raise_lossCode_same (f : Feed) (s : State) : SameButFaults s (raise (lossCode f) noInst 0 s) :=
  raise_low_same _ _ _ s (fun u => by rw [classOf_lossCode]; decide) (by cases f <;> decide)
theorem raise_ovCode_same (f : Feed) (s : State) : SameButFaults s (raise (ovCode f) noInst 0 s) :=
  raise_low_same _ _ _ s (fun u => by rw [classOf_ovCode]; decide) (by cases f <;> decide)

end Sys2Proof.Machine
end

section
/-! The feed comparators and the ideal diodes. -/

namespace Sys2Proof.Machine

/-- The clause on a feed that is present. -/
theorem feedPresent_clause (s : State) (f : Feed) (volts : Q) (heldUs : Nat) (j : feedsJudged s = true) (v : 29 / 5 < volts) (h : s.sup.holdup = false) (k : (feedOf s f).lost = false ∨ 1000 ≤ heldUs) :
    Answers (exec (.feedPresent f volts heldUs) s) fun t => active (lossCode f) noInst t = false ∧
      SameButFaults (setFeed f { feedOf s f with present := true, lost := false, mosfet := decide (s.sup.ship ≠ .falling) && (!(feedOf s f).ov || !((feedOf s f.other).present && !(feedOf s f.other).ov)), volts := volts } s) t :=
  ⟨_, if_pos ⟨j, v, h, k⟩, clearF_inactive _ _ _ (lossCode_ne_drop f), clearF_same _ _ _⟩

/-- What a feed that is lost leaves: its own state, and the other's MOSFET where that one had blocked for its overvoltage (R61, R62). -/
theorem loseFeed_same (f : Feed) (volts : Q) (s : State) :
    SameButFaults (setFeed f.other { feedOf s f.other with mosfet := ((feedOf s f.other).present && (feedOf s f.other).ov) || (feedOf s f.other).mosfet }
      (setFeed f { feedOf s f with present := false, lost := true, mosfet := false, volts := volts } s)) (loseFeed f volts s) := by
  have raised := raise_lossCode_same f (setFeed f { feedOf s f with present := false, lost := true, mosfet := false, volts := volts } s)
  have other := raised.feed f.other
  rw [feedOf_setFeed_other] at other
  unfold loseFeed
  dsimp only
  rw [other]
  by_cases y : (feedOf s f.other).present = true ∧ (feedOf s f.other).ov = true
  · rw [if_pos y, y.1, y.2]
    exact raised.setFeed _ _
  · have keeps : ((feedOf s f.other).present && (feedOf s f.other).ov) = false := by simpa using y
    have self := setFeed_self f.other (setFeed f { feedOf s f with present := false, lost := true, mosfet := false, volts := volts } s)
    rw [feedOf_setFeed_other] at self
    rw [if_neg y, keeps, Bool.false_or]
    exact self.symm ▸ raised

/-- The loss is a fault from then on. -/
theorem loseFeed_active (f : Feed) (volts : Q) (s : State) : active (lossCode f) noInst (loseFeed f volts s) = true := by
  unfold loseFeed
  dsimp only
  split
  · unfold active
    rw [setFeed_faults]
    exact raise_active _ _ _ _
  · exact raise_active _ _ _ _

/-- The mode outlives the loss of a feed (R61). -/
theorem loseFeed_mode (f : Feed) (volts : Q) (s : State) : (loseFeed f volts s).sys.mode = s.sys.mode := by
  rw [(loseFeed_same f volts s).mode, setFeed_mode, setFeed_mode]

theorem lossJudged_of {s : State} (j : feedsJudged s = true) (ship : s.sup.ship ≠ .falling) : lossJudged s = true := by
  unfold lossJudged
  rw [j, decide_eq_true ship]
  rfl

/-- The clause on the loss of one feed. -/
theorem feedLost_clause (s : State) (f : Feed) (volts : Q) (heldUs : Nat) (j : feedsJudged s = true) (ship : s.sup.ship ≠ .falling) (v : volts < 11 / 2) (k : 20 ≤ heldUs) (p : (feedOf s f).present = true) (o : (feedOf s f.other).present = true) :
    Answers (exec (.feedLost f volts heldUs) s) fun t => active (lossCode f) noInst t = true ∧ t.sys.mode = s.sys.mode ∧
      feedOf t f = { feedOf s f with present := false, lost := true, mosfet := false, volts := volts } ∧
      feedOf t f.other = { feedOf s f.other with mosfet := (feedOf s f.other).ov || (feedOf s f.other).mosfet } ∧
      SameButFaults (setFeed f.other (feedOf t f.other) (setFeed f (feedOf t f) s)) t := by
  have same := loseFeed_same f volts s
  have own := same.feed f
  have other := same.feed f.other
  rw [feedOf_setFeed_of_other, feedOf_setFeed] at own
  rw [feedOf_setFeed, o, Bool.true_and] at other
  have single : (feedOf (loseFeed f volts s) f.other).present = true := by rw [other]; exact o
  have run : exec (.feedLost f volts heldUs) s = .next (if (feedOf (loseFeed f volts s) f.other).present then loseFeed f volts s else bothLost (loseFeed f volts s)) :=
    if_pos ⟨lossJudged_of j ship, v, k, p⟩
  rw [if_pos single] at run
  refine ⟨_, run, loseFeed_active f volts s, loseFeed_mode f volts s, own, other, ?_⟩
  rw [own, other]
  rwa [o, Bool.true_and] at same

/-- The clause on an overvoltage. -/
theorem feedOvervoltage_clause (s : State) (f : Feed) (volts : Q) (heldUs : Nat) (j : feedsJudged s = true) (v : 38 < volts) (k : 20 ≤ heldUs) :
    Answers (exec (.feedOvervoltage f volts heldUs) s) fun t => active (ovCode f) noInst t = true ∧
      SameButFaults (setFeed f { feedOf s f with ov := true, mosfet := (feedOf s f).mosfet && !((feedOf s f.other).present && !(feedOf s f.other).ov), volts := volts } s) t :=
  ⟨_, if_pos ⟨j, v, k⟩, raise_active _ _ _ _, raise_ovCode_same f _⟩

/-- The clause on the end of an overvoltage. -/
theorem feedOvervoltageCleared_clause (s : State) (f : Feed) (volts : Q) (heldUs : Nat) (j : feedsJudged s = true) (v : volts < 36) (k : 1000 ≤ heldUs) (o : (feedOf s f).ov = true) :
    Answers (exec (.feedOvervoltageCleared f volts heldUs) s) fun t => active (ovCode f) noInst t = false ∧
      SameButFaults (setFeed f { feedOf s f with ov := false, mosfet := decide (s.sup.ship ≠ .falling) && (feedOf s f).present, volts := volts } s) t :=
  ⟨_, if_pos ⟨j, v, k, o⟩, clearF_inactive _ _ _ (ovCode_ne_drop f), clearF_same _ _ _⟩

/-- The clause on the ideal diode: the controller's conditions are those of a MOSFET that is driven, and not more than 10 mV below HOLD. -/
theorem idealDiode_clause (s : State) (f : Feed) (feedVolts holdVolts : Q) (j : feedsJudged s = true) :
    exec (.idealDiodeTurnOff f feedVolts holdVolts) s = .next (measureHold holdVolts (setFeed f { feedOf s f with mosfet := if feedVolts < holdVolts - 1 / 100 ∨ s.sup.ship = .falling then false else (feedOf s f).present && (!(feedOf s f).ov || !((feedOf s f.other).present && !(feedOf s f.other).ov)), volts := feedVolts } s)) := by
  have on : (s.orDriven && decide (holdVolts - 1 / 100 ≤ feedVolts) && (feedOf s f).present && mayConduct (feedOf s f) (feedOf s f.other)) =
      if feedVolts < holdVolts - 1 / 100 ∨ s.sup.ship = .falling then false else (feedOf s f).present && (!(feedOf s f).ov || !((feedOf s f.other).present && !(feedOf s f.other).ov)) := by
    unfold State.orDriven mayConduct
    split_ifs with off
    · rcases off with low | ship
      · rw [decide_eq_false (not_le.2 low), Bool.and_false]
        rfl
      · rw [ship]
        rfl
    · obtain ⟨high, driven⟩ := not_or.1 off
      rw [decide_eq_true driven, decide_eq_true (not_lt.1 high)]
      rfl
  rw [← on]
  exact if_pos j

/-- Settles O6, clause by clause: a feed present, lost, in overvoltage and out of it, the ideal diode, and the class of the loss faults. -/
theorem feedLevels : Obligations.FeedLevels := by
  unfold Obligations.FeedLevels
  exact ⟨feedPresent_clause, feedLost_clause, feedOvervoltage_clause, feedOvervoltageCleared_clause, idealDiode_clause, fun s f => classOf_lossCode f s⟩

end Sys2Proof.Machine
end

section
/-! SUPPORT. What a reset, a power-up and the loss of HOLD leave: the start of ACCESSION, or a machine without power, and the part of the state
that outlives them (03_supply_startup.md, R64, R65, R72 to R75, R88, R92). -/

namespace Sys2Proof.Machine

/-! ## The flash through a reset (R88) -/

theorem setCopy_flash (k : Fin 2) (d : Option BootDesc) (s : State) : (setCopy k d s).flash = if k = 0 then { s.flash with boot0 := d } else { s.flash with boot1 := d } := by
  unfold setCopy
  split <;> rfl

/-- The flash at the end of what runs depends on the flash, the operation that runs and the descriptor that is due. -/
theorem endedFlash_congr {s t : State} (f : t.flash = s.flash) (o : t.ops = s.ops) (c : t.cat = s.cat) : endedFlash t = endedFlash s := by
  unfold endedFlash
  simp only [setCopy_flash, f, o, c]

/-! ## Resets (R73 to R75, R92) -/

/-- What outlives a reset named in R33, and where it leads. -/
def ResetFrom (c : StartCause) (s t : State) : Prop :=
  t.sys.mode = .accession ∧ t.sys.prev = s.sys.mode ∧ t.sys.wake = s.sys.wake ∧
    t.sup.cause = (if s.sup.nRst = false ∨ s.sup.railsOut ≠ [] then StartCause.both c s.sup.cause else c) ∧
    t.saf.held = true ∧ t.faults = keptFaults s ∧ t.cat.params = [] ∧
    t.ops = { waiting := [], running := s.ops.running, orphan := s.ops.running.isSome } ∧
    t.sup.lvd = s.sup.lvd ∧ t.sup.railsOut = s.sup.railsOut ∧ t.flash = endedFlash s ∧ t.otp = s.otp ∧ t.ka = s.ka ∧ t.pending = s.pending

/-- A reset acts in every mode but OFF and SHIP. -/
theorem resetN9_from (c : StartCause) (s : State) (off : s.sys.mode ≠ .off) (ship : s.sys.mode ≠ .ship) : ResetFrom c s (resetN9 c s) := by
  unfold resetN9
  rw [if_neg (not_or.2 ⟨off, ship⟩)]
  exact ⟨rfl, rfl, rfl, rfl, rfl, rfl, rfl, rfl, rfl, rfl, rfl, rfl, rfl, rfl⟩

/-! ## No power (R65, R80 step 7) -/

/-- What a machine without power keeps: the flash, the KA register, the OTP words but for a program that had started, and the commands that
wait. -/
def Unpowered (m : Mode) (s t : State) : Prop :=
  t.sys.mode = m ∧ t.sys.prev = s.sys.mode ∧ t.sup.lvd = true ∧ t.sup.hold = 0 ∧ t.sup.riseArmed = false ∧ t.faults = [] ∧ t.cat.params = [] ∧
    t.ops = { waiting := [], running := none, orphan := false } ∧ t.flash = endedFlash s ∧ OtpStays s t ∧ t.ka = s.ka ∧ t.pending = s.pending

theorem otpStays_put (s : State) (w : Nat) (b : BitVec 64) (v : Nat) (i : Nat) (h : (s.otp.get v).getLsbD i = true) : ((s.otp.put w (s.otp.get w ||| b)).get v).getLsbD i = true := by
  rw [Tab.get_put]
  split
  next e =>
    subst e
    rw [BitVec.getLsbD_or, h, Bool.true_or]
  next => exact h

/-- An OTP program that runs ends with its bits set; no bit returns (R88, R512). -/
theorem unpowered_otp (m : Mode) (s : State) : OtpStays s (unpowered m s) := by
  intro v i h
  unfold unpowered
  cases s.ops.running with
  | none => exact h
  | some o =>
    cases o with
    | otpWord w b => exact otpStays_put s w b v i h
    | _ => exact h

theorem unpowered_from (m : Mode) (s : State) : Unpowered m s (unpowered m s) :=
  ⟨rfl, rfl, rfl, rfl, rfl, rfl, rfl, rfl, endedFlash_congr rfl rfl rfl, unpowered_otp m s, rfl, rfl⟩

/-! ## When the pins are judged -/

theorem feedsJudged_iff (s : State) : feedsJudged s = true ↔ s.sys.mode ≠ .off ∧ s.sys.mode ≠ .ship := decide_eq_true_iff
theorem svcJudged_iff (s : State) : svcJudged s = true ↔ s.sys.mode ≠ .ship ∧ s.sys.mode ≠ .off := decide_eq_true_iff

end Sys2Proof.Machine
end

section
/-! The reset pin, the service button, WAKE and the AC-present bit. -/

namespace Sys2Proof.Machine

/-- The clause on a low of nRST that is long enough. -/
theorem nrstReset_clause (s : State) (lowNs : Nat) (ship : s.sys.mode ≠ .ship) (off : s.sys.mode ≠ .off) (k : 5000 ≤ lowNs) :
    Answers (exec (.nrstReset lowNs) s) fun t => t.sys.mode = .accession ∧ t.sys.prev = s.sys.mode ∧ t.sup.nRst = false ∧ t.sup.cause = (if s.sup.nRst = false ∨ s.sup.railsOut ≠ [] then StartCause.both { StartCause.none with nrst := true } s.sup.cause else { StartCause.none with nrst := true }) ∧
      t.saf.held = true ∧ t.faults = keptFaults s ∧ t.cat.params = [] ∧ t.ops = { waiting := [], running := s.ops.running, orphan := s.ops.running.isSome } ∧ t.sup.lvd = s.sup.lvd ∧ t.sys.wake = s.sys.wake ∧ t.flash = endedFlash s ∧ t.otp = s.otp ∧ t.ka = s.ka ∧ t.pending = s.pending := by
  obtain ⟨mode, prev, wake, cause, held, faults, params, ops, lvd, -, flash, otp, ka, pending⟩ := resetN9_from { StartCause.none with nrst := true } s off ship
  have run : exec (.nrstReset lowNs) s = .next { resetN9 { StartCause.none with nrst := true } s with sup := { (resetN9 { StartCause.none with nrst := true } s).sup with nRst := false } } := by
    show execNrstReset lowNs s = _
    unfold execNrstReset
    have acts : ¬(s.sys.mode = .ship ∨ s.sys.mode = .off ∨ lowNs < 1000) := by
      simp only [ship, off, false_or]
      omega
    rw [if_neg acts]
    dsimp only
    rw [if_neg (show ¬lowNs < 5000 by omega), decide_eq_true k, Bool.true_or]
    rfl
  exact ⟨_, run, mode, prev, rfl, cause, held, faults, params, ops, lvd, wake, flash, otp, ka, pending⟩

/-- The clause on the rise of nRST. -/
theorem nrstRelease_clause (s : State) (h : s.sup.nRst = false) :
    exec .nrstRelease s = .next { s with sup := { s.sup with nRst := true, step := if s.sys.mode = .accession ∧ s.sup.railsOut = [] then 3 else s.sup.step } } :=
  if_neg (by rw [h]; decide)

/-- The clause on a press of 50 ms to 8 s. -/
theorem svcAcknowledge_clause (s : State) (pressMs : Nat) (j : svcJudged s = true) (a : s.sup.svc.armed = true) (lo : 50 ≤ pressMs) (hi : pressMs < 8000) :
    exec (.svcAcknowledge pressMs) s = .next { s with sys := { s.sys with ackCnt := wrapInc 8 s.sys.ackCnt }, sup := { s.sup with svc := { s.sup.svc with asked := false, refused := false, low := false } } } := by
  have counts : (if s.sup.svc.armed = true ∧ 50 ≤ pressMs ∧ pressMs < 8000 then wrapInc 8 s.sys.ackCnt else s.sys.ackCnt) = wrapInc 8 s.sys.ackCnt := if_pos ⟨a, lo, hi⟩
  rw [← counts]
  exact if_pos j

/-- What the instant at 8 s decides on a press that it judges: the reset, or the refusal (R76). -/
theorem execSvcResetRequest_judged (s : State) (pressMs : Nat) (j : svcJudged s = true) (a : s.sup.svc.armed = true) (q : s.sup.svc.asked = false) (k : 8000 ≤ pressMs) :
    exec (.svcResetRequest pressMs) s = if s.cat.locked = false ∨ hvOff s = true ∧ s.standstill = true
      then .next (resetN9 { StartCause.none with svcRst := true } { s with sup := { s.sup with svc := { s.sup.svc with asked := true, low := true } } })
      else .next (raise 0x001D noInst 0 { s with sup := { s.sup with svc := { s.sup.svc with asked := true, refused := true, low := true } } }) :=
  if_pos ⟨j, a, q, k⟩

/-- The clause on a request that is granted. -/
theorem svcResetGranted_clause (s : State) (pressMs : Nat) (j : svcJudged s = true) (a : s.sup.svc.armed = true) (q : s.sup.svc.asked = false) (k : 8000 ≤ pressMs) (g : s.cat.locked = false ∨ hvOff s = true ∧ s.standstill = true) :
    Answers (exec (.svcResetRequest pressMs) s) fun t => t.sys.mode = .accession ∧ t.sup.cause = (if s.sup.nRst = false ∨ s.sup.railsOut ≠ [] then StartCause.both { StartCause.none with svcRst := true } s.sup.cause else { StartCause.none with svcRst := true }) ∧
      t.saf.held = true ∧ t.faults = keptFaults s ∧ t.cat.params = [] ∧ t.flash = endedFlash s ∧ t.otp = s.otp ∧ t.ka = s.ka := by
  obtain ⟨ship, off⟩ := (svcJudged_iff s).1 j
  have run := execSvcResetRequest_judged s pressMs j a q k
  rw [if_pos g] at run
  obtain ⟨mode, -, -, cause, held, faults, params, -, -, -, flash, otp, ka, -⟩ := resetN9_from { StartCause.none with svcRst := true } { s with sup := { s.sup with svc := { s.sup.svc with asked := true, low := true } } } off ship
  exact ⟨_, run, mode, cause, held, faults, params, flash.trans (endedFlash_congr rfl rfl rfl), otp, ka⟩

/-- The clause on a press that has been judged. -/
theorem svcResetOnce_clause (s : State) (pressMs : Nat) (q : s.sup.svc.asked = true) : exec (.svcResetRequest pressMs) s = .next s :=
  if_neg (fun h => Bool.noConfusion (q.symm.trans h.2.2.1))

/-- The clause on a request that is refused. -/
theorem svcResetRefused_clause (s : State) (pressMs : Nat) (j : svcJudged s = true) (a : s.sup.svc.armed = true) (q : s.sup.svc.asked = false) (k : 8000 ≤ pressMs) (l : s.cat.locked = true) (g : hvOff s = false ∨ s.standstill = false) :
    Answers (exec (.svcResetRequest pressMs) s) fun t => active 0x001D noInst t = true ∧
      SameButFaults { s with sup := { s.sup with svc := { s.sup.svc with asked := true, refused := true, low := true } } } t := by
  have run := execSvcResetRequest_judged s pressMs j a q k
  have refused : ¬(s.cat.locked = false ∨ hvOff s = true ∧ s.standstill = true) := by
    rcases g with g | g <;> simp [l, g]
  rw [if_neg refused] at run
  exact ⟨_, run, raise_active _ _ _ _, raise_low_same _ _ _ _ (by simp [classOf, codesF0]) (by decide)⟩

/-- The clause on a button that is stuck. -/
theorem svcStuck_clause (s : State) (lowMs : Nat) (j : svcJudged s = true) (k : 30000 ≤ lowMs) :
    Answers (exec (.svcStuck lowMs) s) fun t => active 0x0018 noInst t = true ∧ SameButFaults { s with sup := { s.sup with svc := { s.sup.svc with stuck := true, armed := false, low := true } } } t :=
  ⟨_, if_pos ⟨j, k⟩, raise_active _ _ _ _, raise_low_same _ _ _ _ (by simp [classOf, codesF0, codesF1]) (by decide)⟩

/-- The clause on a button released for 1 s. -/
theorem svcReleased_clause (s : State) (releasedMs : Nat) (j : svcJudged s = true) (k : 1000 ≤ releasedMs) :
    Answers (exec (.svcReleased1s releasedMs) s) fun t => active 0x0018 noInst t = false ∧
      SameButFaults { s with sup := { s.sup with svc := { armed := true, stuck := false, refused := false, asked := false, low := false } } } t :=
  ⟨_, if_pos ⟨j, k⟩, clearF_inactive _ _ _ (by decide), clearF_same _ _ _⟩

/-- Settles O9, clause by clause: nRST low and high, the presses of SVC by their length, WAKE and the AC-present bit. -/
theorem resetPins : Obligations.ResetPins := by
  unfold Obligations.ResetPins
  exact ⟨nrstReset_clause, nrstRelease_clause, svcAcknowledge_clause, svcResetGranted_clause, svcResetOnce_clause, svcResetRefused_clause, svcStuck_clause, svcReleased_clause, fun _ _ => rfl, fun _ _ _ _ => rfl⟩

end Sys2Proof.Machine
end

section
/-! The ship entry from its writes on, the wake sources and the way out of SHIP. -/

namespace Sys2Proof.Machine

/-- The clause on an entry that takes too long. -/
theorem shipWrites_clause (s : State) (elapsedMs : Nat) (h : s.sup.ship = .writes ∨ s.sup.ship = .record) (k : 1000 < elapsedMs) :
    exec (.shipWritesTimeout elapsedMs) s = .next { s with sup := { s.sup with ship := .none } } := if_pos ⟨h, k⟩

/-- The clause on feeds that have fallen. -/
theorem shipFeedsDown_clause (s : State) (voltsA voltsB : Q) (elapsedMs : Nat) (h : s.sup.ship = .falling) (a : voltsA < 3) (b : voltsB < 3) (k : elapsedMs ≤ 500) :
    Answers (exec (.shipFeedsDown voltsA voltsB elapsedMs) s) fun t => t.sys.mode = .ship ∧ t.sys.prev = s.sys.mode ∧ t.sup.ship = .ship ∧ t.sup.lvd = false ∧
      t.sup.hold = 0 ∧ t.sup.riseArmed = false ∧ t.faults = [] ∧ t.cat.params = [] ∧ t.ops = { waiting := [], running := none, orphan := false } ∧ t.flash = endedFlash s ∧ OtpStays s t ∧ t.ka = s.ka := by
  obtain ⟨mode, prev, -, hold, rise, faults, params, ops, flash, otp, ka, -⟩ := unpowered_from .ship s
  exact ⟨_, if_pos ⟨h, a, b, k⟩, mode, prev, rfl, rfl, hold, rise, faults, params, ops, flash, otp, ka⟩

/-- What an entry given up in its step 6 leaves of the supply (R81). -/
theorem shipAbandon_eq (s : State) (h : s.sup.ship = .falling) :
    shipAbandon s = { s with sup := { s.sup with ship := .none, lvd := true, ifaces := true, biasA := if s.xtalOk = true ∧ s.sup.holdup = false then !s.sup.biasStopA else s.sup.biasA, biasB := if s.xtalOk = true ∧ s.sup.holdup = false then !s.sup.biasStopB else s.sup.biasB, feedA := { s.sup.feedA with mosfet := s.sup.feedA.present && mayConduct s.sup.feedA s.sup.feedB }, feedB := { s.sup.feedB with mosfet := s.sup.feedB.present && mayConduct s.sup.feedB s.sup.feedA } } } := by
  unfold shipAbandon startBias
  rw [if_pos h]
  by_cases runs : s.xtalOk = true ∧ s.sup.holdup = false
  · rw [if_pos runs, if_pos runs]
    exact if_pos runs
  · rw [if_neg runs, if_neg runs]
    exact if_neg runs

/-- The clause on feeds that stay up. -/
theorem shipSwitch_clause (s : State) (elapsedMs : Nat) (h : s.sup.ship = .falling) (k : 500 ≤ elapsedMs) :
    Answers (exec (.shipSwitchTimeout elapsedMs) s) fun t => active 0x0019 noInst t = true ∧
      SameButFaults { s with sup := { s.sup with ship := .none, lvd := true, ifaces := true, biasA := if s.xtalOk = true ∧ s.sup.holdup = false then !s.sup.biasStopA else s.sup.biasA, biasB := if s.xtalOk = true ∧ s.sup.holdup = false then !s.sup.biasStopB else s.sup.biasB, feedA := { s.sup.feedA with mosfet := s.sup.feedA.present && mayConduct s.sup.feedA s.sup.feedB }, feedB := { s.sup.feedB with mosfet := s.sup.feedB.present && mayConduct s.sup.feedB s.sup.feedA } } } t := by
  refine ⟨_, if_pos ⟨h, k⟩, raise_active _ _ _ _, ?_⟩
  have raised := raise_low_same 0x0019 noInst 0 (shipAbandon s) (by simp [classOf, codesF0, codesF1]) (by decide)
  rwa [shipAbandon_eq s h] at raised ⊢

/-- The clause on the feed-rise wake. -/
theorem feedRise_clause (s : State) (voltsA voltsB : Q) (heldMs : Nat) (h : s.sup.ship = .ship) (a : voltsA < 3) (b : voltsB < 3) (k : 100 ≤ heldMs) :
    exec (.feedRiseWakeArmed voltsA voltsB heldMs) s = .next { s with sup := { s.sup with riseArmed := true } } := if_pos ⟨h, a, b, k⟩

/-- A source that qualifies and is not recorded yet changes the recorded ones (R82). -/
theorem wakeFlags_ne (s : State) (obs : WakeObs) (h : (100 ≤ obs.svcLowMs ∧ s.sup.wakes.wkSvc = false) ∨ (10 ≤ obs.wakeHighMs ∧ s.sup.wakes.wkWake = false) ∨ (obs.acPresent = true ∧ s.sup.wakes.wkAc = false) ∨
      (3 < obs.pilotVolts ∧ 1 ≤ obs.pilotMs ∧ s.sup.wakes.wkCp = false) ∨ (s.sup.riseArmed = true ∧ 29 / 5 < obs.feedVolts ∧ 1 ≤ obs.feedMs ∧ s.sup.wakes.wkFeed = false)) :
    wakeFlags s obs ≠ s.sup.wakes := by
  intro e
  rcases h with ⟨q, n⟩ | ⟨q, n⟩ | ⟨q, n⟩ | ⟨q, ms, n⟩ | ⟨armed, q, ms, n⟩
  · exact absurd (congrArg StartCause.wkSvc e) (by simp [wakeFlags, q, n])
  · exact absurd (congrArg StartCause.wkWake e) (by simp [wakeFlags, q, n])
  · exact absurd (congrArg StartCause.wkAc e) (by simp [wakeFlags, q, n])
  · exact absurd (congrArg StartCause.wkCp e) (by simp [wakeFlags, q, ms, n])
  · exact absurd (congrArg StartCause.wkFeed e) (by simp [wakeFlags, armed, q, ms, n])

/-- The clause on a wake source. -/
theorem wakeSource_clause (s : State) (obs : WakeObs) (h : s.sup.ship = .ship ∨ s.sup.ship = .waking) (m : s.sys.mode = .ship)
    (q : (100 ≤ obs.svcLowMs ∧ s.sup.wakes.wkSvc = false) ∨ (10 ≤ obs.wakeHighMs ∧ s.sup.wakes.wkWake = false) ∨ (obs.acPresent = true ∧ s.sup.wakes.wkAc = false) ∨
      (3 < obs.pilotVolts ∧ 1 ≤ obs.pilotMs ∧ s.sup.wakes.wkCp = false) ∨ (s.sup.riseArmed = true ∧ 29 / 5 < obs.feedVolts ∧ 1 ≤ obs.feedMs ∧ s.sup.wakes.wkFeed = false)) :
    exec (.wakeSourceQualified obs) s = .next { s with sup := { s.sup with wakes := wakeFlags s obs, lvd := true, ship := .waking, acPresent := s.sup.acPresent || obs.acPresent, svc := { s.sup.svc with low := decide (0 < obs.svcLowMs) } }, sys := { s.sys with wake := s.sys.wake || decide (0 < obs.wakeHighMs) } } :=
  if_pos ⟨h, m, wakeFlags_ne s obs q⟩

/-- The clause on a feed that rises after a wake. -/
theorem shipExit_clause (s : State) (f : Feed) (volts : Q) (h : s.sup.ship = .waking) (v : 29 / 5 < volts) :
    Answers (exec (.shipExit f volts true) s) fun t => t.sys.mode = .accession ∧ t.sup.cause = { s.sup.wakes with power := true } ∧ t.sup.ship = .none ∧
      feedOf t f = { feedOf s f with present := true, mosfet := true, volts := volts } ∧ t.sys.wake = s.sys.wake ∧ t.flash = endedFlash s ∧ t.otp = s.otp ∧ t.ka = s.ka ∧ t.cat.params = [] := by
  refine ⟨_, if_pos ⟨h, v, rfl⟩, ?_⟩
  cases f <;> exact ⟨rfl, rfl, rfl, rfl, rfl, rfl, rfl, rfl, rfl⟩

/-- The clause on a wake without a feed. -/
theorem shipWake_clause (s : State) (elapsedMs : Nat) (h : s.sup.ship = .waking) (k : 500 ≤ elapsedMs) :
    exec (.shipWakeTimeout elapsedMs) s = .next { s with sup := { s.sup with ship := .ship, lvd := false, wakes := StartCause.none } } := if_pos ⟨h, k⟩

/-- Settles O10, clause by clause: the entry's bounds, SHIP, a switch that fails, the sources of a wake, the way out and the wake that ends. -/
theorem shipMode : Obligations.ShipMode := by
  unfold Obligations.ShipMode
  exact ⟨shipWrites_clause, shipFeedsDown_clause, shipSwitch_clause, feedRise_clause, wakeSource_clause, shipExit_clause, shipWake_clause, by simp [classOf, codesF0, codesF1]⟩

end Sys2Proof.Machine
end

section
/-! SUPPORT. The flash and OTP operations: what a started one and a completed one touch, and what follows it (03_supply_startup.md, R84 to R88;
04_catalogue_accession.md, R97; 22_status_faults_log.md, R540). -/

namespace Sys2Proof.Machine

/-! ## Starts -/

/-- A started operation leaves the descriptor in force and the one that is due: they change at its end (R118). -/
@[simp] theorem applyOp_cat (o : FlashOp) (s : State) : (applyOp o s).cat = s.cat := by
  cases o with
  | logPage => exact (congrArg State.cat (writePage_eq s) :)
  | logErase p => exact (congrArg State.cat (eraseLog_eq p s) :)
  | logOpen p => exact (congrArg State.cat (openBlock_eq p s) :)
  | logClose p =>
    unfold applyOp
    dsimp only
    split <;> rfl
  | stageErase => exact (congrArg State.cat (putStage_eq none s) :)
  | stagePage n =>
    unfold applyOp
    dsimp only
    split
    · exact (congrArg State.cat (putStage_eq _ s) :)
    · rfl
  | bootErase k => exact (congrArg State.cat (setCopy_eq k none s) :)
  | bootProgram k last => rfl
  | otpWord w b => rfl
@[simp] theorem beginOp_cat (o : FlashOp) (s : State) : (beginOp o s).cat = s.cat := applyOp_cat o _

/-- A started operation touches the flash, the log's place in it and the operations. -/
theorem beginOp_only (o : FlashOp) (s : State) : beginOp o s = { s with flash := (beginOp o s).flash, log := (beginOp o s).log, ops := (beginOp o s).ops } := by
  have parts := beginOp_eq o s
  rw [beginOp_cat] at parts
  generalize beginOp o s = t at parts ⊢
  rw [parts]

/-- The operation that has started is the one that runs. -/
theorem beginOp_running (o : FlashOp) (s : State) : (beginOp o s).ops.running = some o := congrArg (fun t : State => t.ops.running) (beginOp_eq o s)

/-! ## Completions -/

theorem enqueue_keeps (o q : FlashOp) (s : State) (h : q ∈ s.ops.waiting) : q ∈ (enqueue o s).ops.waiting := by
  rw [enqueue_eq]
  dsimp only
  split
  · exact h
  · exact List.mem_append_left _ h

/-- Outside its steps 2 and 3 a ship entry waits for no operation (R80). -/
theorem shipProceed_idle {s : State} (w : s.sup.ship ≠ .writes) (r : s.sup.ship ≠ .record) : shipProceed s = s := by
  unfold shipProceed
  rw [if_neg w, if_neg r, ite_self]

theorem lifecycleEnds_idle {s : State} (h : s.sec.lcReset = false) : lifecycleEnds s = s := if_neg (fun k => Bool.noConfusion (h.symm.trans k.1))

/-- The operation that ran has ended. -/
def opEnded (s : State) : State := { s with ops := { s.ops with running := none, orphan := false } }

theorem execFlashOperationComplete_eq {s : State} {o : FlashOp} (ok : Bool) (run : s.ops.running = some o) :
    exec (.flashOperationComplete ok) s = .next (if s.ops.orphan then orphanEnds o ok (opEnded s) else lifecycleEnds (shipProceed (afterOp o ok (opEnded s)))) := by
  show execFlashOperationComplete ok s = _
  unfold execFlashOperationComplete
  rw [run]
  rfl

/-- The end of an operation is what follows it, where neither a ship entry nor a change of the lifecycle waits for it. -/
theorem execFlashOperationComplete_follows {s t : State} {o : FlashOp} {ok : Bool} (run : s.ops.running = some o) (orphan : s.ops.orphan = false) (w : s.sup.ship ≠ .writes) (r : s.sup.ship ≠ .record) (lc : s.sec.lcReset = false)
    (after : afterOp o ok (opEnded s) = t) (sup : t.sup = s.sup) (sec : t.sec = s.sec) :
    exec (.flashOperationComplete ok) s = .next t := by
  have ship : shipProceed t = t := shipProceed_idle (by rwa [sup]) (by rwa [sup])
  have life : lifecycleEnds t = t := lifecycleEnds_idle (by rwa [sec])
  rw [execFlashOperationComplete_eq ok run, orphan, after, ship, life]
  rfl

/-- Nothing has changed but the operations that wait, and none of those is gone. -/
def MoreWaits (s t : State) : Prop := t = { s with ops := { s.ops with waiting := t.ops.waiting } } ∧ ∀ q, q ∈ s.ops.waiting → q ∈ t.ops.waiting

theorem MoreWaits.refl (s : State) : MoreWaits s s := ⟨rfl, fun _ h => h⟩
theorem MoreWaits.enqueue (o : FlashOp) (s : State) : MoreWaits s (enqueue o s) := ⟨by rw [enqueue_eq], fun q h => enqueue_keeps o q s h⟩
theorem MoreWaits.trans {s t u : State} (a : MoreWaits s t) (b : MoreWaits t u) : MoreWaits s u := ⟨by rw [b.1, a.1], fun q h => b.2 q (a.2 q h)⟩
theorem MoreWaits.ite {s a b : State} {p : Prop} [Decidable p] (x : MoreWaits s a) (y : MoreWaits s b) : MoreWaits s (if p then a else b) := by split <;> assumption

/-- A verified operation that writes no OTP word and no last page of a descriptor only makes the next one wait. -/
theorem afterOp_verified (o : FlashOp) (s : State) (otp : ∀ w b, o ≠ .otpWord w b) (last : ∀ j, o ≠ .bootProgram j true) : MoreWaits s (afterOp o true s) := by
  cases o with
  | logPage => exact .refl s
  | logErase p => exact .ite (.enqueue _ s) (.refl s)
  | logOpen p => exact .refl s
  | logClose p => exact .refl s
  | stageErase => exact .enqueue _ s
  | stagePage n => exact .ite (.enqueue _ s) (.refl s)
  | bootErase k => exact .ite (.refl s) (.enqueue _ s)
  | bootProgram k l =>
    cases l with
    | false => exact .enqueue _ s
    | true => exact absurd rfl (last k)
  | otpWord w b => exact absurd rfl (otp w b)

/-! ## The last page of a descriptor (R97, R118) -/

/-- The flash with a copy of the descriptor written. -/
def copyWritten (j : Fin 2) (d : BootDesc) (f : Flash) : Flash := if j = 0 then { f with boot0 := some d } else { f with boot1 := some d }

/-- The content that was due is in its copy and in force, and nothing of its write waits any more. -/
def descLanded (j : Fin 2) (d : BootDesc) (s : State) : State :=
  { s with flash := copyWritten j d s.flash, cat := { s.cat with desc := some d, descDue := none }, ops := { s.ops with waiting := s.ops.waiting.filter (fun o => decide (o ≠ .bootErase j ∧ o ≠ .bootProgram j false ∧ o ≠ .bootProgram j true)) } }

theorem landDesc_last {s : State} {j : Fin 2} {d : BootDesc} (due : s.cat.descDue = some (j, d)) (next : s.cat.descNext = none) :
    landDesc s = descLanded j d s := by
  unfold landDesc
  rw [due]
  dsimp only
  unfold descLanded copyWritten
  rw [setCopy_eq, setCopy_flash]
  dsimp only
  rw [next]
/-- A change that came in the meantime begins its own write. -/
theorem landDesc_again {s : State} {j : Fin 2} {d e : BootDesc} (due : s.cat.descDue = some (j, d)) (next : s.cat.descNext = some e) :
    landDesc s = startDesc (fun _ => e) (descLanded j d s) := by
  unfold landDesc
  rw [due]
  dsimp only
  unfold descLanded copyWritten
  rw [setCopy_eq, setCopy_flash]
  dsimp only
  rw [next]

/-- What a descriptor write that begins makes due, over the copy that R97 names (R97). -/
def nextDue (f : BootDesc → BootDesc) (s : State) : Fin 2 × BootDesc :=
  (descTarget s.flash, { f ((newestDesc s.flash).getD { gen := 0, pref := s.cat.slotRun, stA := 0, stB := 0 }) with gen := (((newestDesc s.flash).getD { gen := 0, pref := s.cat.slotRun, stA := 0, stB := 0 }).gen + 1) % 2 ^ 32 })

theorem startDesc_parts (f : BootDesc → BootDesc) (s : State) :
    (startDesc f s).cat = { s.cat with descDue := some (nextDue f s), descNext := none } ∧ .bootErase (descTarget s.flash) ∈ (startDesc f s).ops.waiting ∧
      startDesc f s = { s with cat := (startDesc f s).cat, ops := { s.ops with waiting := (startDesc f s).ops.waiting } } := by
  refine ⟨enqueue_beyond_cat _ _, enqueue_mem _ _, ?_⟩
  unfold startDesc
  dsimp only
  rw [enqueue_eq]

/-- The verify of the last page of the write that is due lands it. -/
theorem afterOp_lastPage {s : State} {j : Fin 2} {d : BootDesc} (due : s.cat.descDue = some (j, d)) : afterOp (.bootProgram j true) true s = landDesc s :=
  if_pos ⟨rfl, by rw [due]; rfl⟩

/-! ## BOOT_DESCRIPTOR_WRITE (R88, R97) -/

/-- Where a copy is valid, READY has been reached or the Accession has failed, an operation of the descriptor waits for OTP words only (R97, R117). -/
theorem bootMayStart_of {s : State} (o : FlashOp) (otp : otpWaits s = false) (h : s.flash.boot0.isSome = true ∨ s.flash.boot1.isSome = true ∨ s.sup.step = 9 ∨ s.cat.recovery = true) : bootMayStart s o = true := by
  unfold bootMayStart
  rcases h with h | h | h | h <;> simp [otp, h]

/-- An operation of the write that is due and whose check passes runs to its verify within the command. -/
theorem execBootDescriptorWrite_eq {s : State} {k : Fin 2} {d : BootDesc} {o : FlashOp} {v : Q} (due : s.cat.descDue = some (k, d)) (r : s.ops.running = none) (starts : startsOver s = false) (may : bootMayStart s o = true)
    (waits : s.ops.waiting.find? isBootOp = some o) (ok : holdOk s v o = true) :
    exec (.bootDescriptorWrite v true) s = .next (shipProceed (afterOp o true { beginOp o (measureHold v s) with ops := { (beginOp o (measureHold v s)).ops with running := none } })) := by
  have free : ¬((measureHold v s).ops.running.isSome = true ∨ startsOver (measureHold v s) = true ∨ bootMayStart (measureHold v s) o = false) := by
    rintro (h | h | h)
    · rw [show (measureHold v s).ops.running = none from r] at h
      cases h
    · exact Bool.noConfusion (starts.symm.trans h)
    · exact Bool.noConfusion (may.symm.trans h)
  have first : ((measureHold v s).ops.waiting.find? isBootOp).getD (.bootErase k) = o := by rw [show (measureHold v s).ops.waiting.find? isBootOp = some o from waits]; rfl
  have passes : ¬holdOk (measureHold v s) v o = false := by rw [measureHold_holdOk, ok]; decide
  show execBootDescriptorWrite v true s = _
  unfold execBootDescriptorWrite
  rw [due]
  dsimp only
  rw [first, if_neg free, if_neg passes]

/-- The erase of a descriptor copy has started. -/
theorem beginOp_bootErase (k : Fin 2) (s : State) :
    beginOp (.bootErase k) s = { s with flash := if k = 0 then { s.flash with boot0 := none } else { s.flash with boot1 := none }, ops := { waiting := s.ops.waiting.filter (fun p => decide (p ≠ .bootErase k)), running := some (.bootErase k), orphan := false } } := by
  show setCopy k none { s with ops := { waiting := s.ops.waiting.filter (fun p => decide (p ≠ .bootErase k)), running := some (.bootErase k), orphan := false } } = _
  rw [setCopy_eq, setCopy_flash]

/-! ## A full log block (R540) -/

/-- The open block of the log waits to be closed. -/
def closeOpen (s : State) : State :=
  match logAt s (physOf s s.log.openSeq) with
  | some b => if b.closed then s else enqueue (.logClose (physOf s s.log.openSeq)) s
  | none => s

theorem closeOpen_more (s : State) : MoreWaits s (closeOpen s) := by
  unfold closeOpen
  split
  · exact .ite (.refl s) (.enqueue _ s)
  · exact .refl s

theorem closeOpen_waits {s : State} {b : LogBlk} (h : logAt s (physOf s s.log.openSeq) = some b) (o : b.closed = false) : .logClose (physOf s s.log.openSeq) ∈ (closeOpen s).ops.waiting := by
  unfold closeOpen
  rw [h]
  dsimp only
  rw [o]
  exact enqueue_mem _ _

/-- The close of a full block makes its own close wait, and the opening or the erase of the next one behind it. -/
theorem execLogBlockClose_eq {s : State} (ready : s.log.ready = true) (full : 127 ≤ s.log.nextSlot) :
    exec .logBlockClose s = .next (enqueue (if s.log.nextErased then .logOpen (physOf s (nextSeq s)) else .logErase (physOf s (nextSeq s))) (closeOpen s)) := by
  have run : exec .logBlockClose s = .next (if (closeOpen s).log.nextErased then enqueue (.logOpen (physOf (closeOpen s) (nextSeq (closeOpen s)))) (closeOpen s) else enqueue (.logErase (physOf (closeOpen s) (nextSeq (closeOpen s)))) (closeOpen s)) := if_pos ⟨ready, full⟩
  have log : (closeOpen s).log = s.log := by rw [(closeOpen_more s).1]
  have next : physOf (closeOpen s) (nextSeq (closeOpen s)) = physOf s (nextSeq s) := by rw [(closeOpen_more s).1]; rfl
  rw [run, log, next]
  split <;> rfl

/-! ## OTP words (R512, R513, R517) -/

/-- The record of a word that has been programmed is the collector's matter, with a free code where no fault names it (log entry 30). -/
theorem otpDone_same (w : Nat) (b : BitVec 64) (s : State) : SameButFaults { s with freeIx := (otpDone w b s).freeIx } (otpDone w b s) := by
  unfold otpDone
  split_ifs
  · rw [raise_freeIx]
    exact raise_low_same _ _ _ s (by simp [classOf, codesF0]) (by decide)
  · rw [raise_freeIx]
    exact raise_low_same _ _ _ s (by simp [classOf, codesF0]) (by decide)
  · exact .refl s
  · have record := offerRec_same (mkRec (takeFree s).2 16 ((takeFree s).1 % 2 ^ 16) noInst 0 0 0 false) (takeFree s).2
    have free : (logDone s).freeIx = s.freeIx + 1 := by
      unfold logDone
      rw [record]
      rfl
    rw [free]
    exact record

theorem otpDone_life (b : BitVec 64) (s : State) : active 0x8015 noInst (otpDone 5 b s) = true := raise_active _ _ _ _
theorem otpDone_revoked (b : BitVec 64) (s : State) : active 0x8016 (Nat.log2 b.toNat / 4) (otpDone 7 b s) = true := raise_active _ _ _ _

end Sys2Proof.Machine
end

section
/-! The flash and OTP operations, from their hold-up check to what follows them. -/

namespace Sys2Proof.Machine

/-- What a start answers where the check passes: the operation runs, on the measurement that was taken. -/
theorem begins (o : FlashOp) (v : Q) (s : State) : (beginOp o (measureHold v s)).ops.running = some o ∧ (beginOp o (measureHold v s)).sup.hold = v ∧
    beginOp o (measureHold v s) = { measureHold v s with flash := (beginOp o (measureHold v s)).flash, log := (beginOp o (measureHold v s)).log, ops := (beginOp o (measureHold v s)).ops } :=
  ⟨beginOp_running _ _, congrArg (fun t : State => t.sup.hold) (beginOp_only o (measureHold v s)), beginOp_only _ _⟩

/-- The clause on the start of one operation. -/
theorem flashStart_clause (s : State) (o : FlashOp) (holdVolts : Q) (ageUs : Nat) (r : s.ops.running = none) (w : (waitingOps s).contains o = true) (age : ageUs ≤ 10) (starts : startsOver s = false)
    (stage : isStagingOp o = false ∨ (waitingOps s).contains .logPage = false) (boot : bootMayStart s o = true) (log : logPaused s o = false) (ok : holdOk s holdVolts o = true) :
    Answers (exec (.flashOperationStart o holdVolts ageUs) s) fun t => t.ops.running = some o ∧ t.sup.hold = holdVolts ∧
      t = { measureHold holdVolts s with flash := t.flash, log := t.log, ops := t.ops } := by
  have free : ¬(s.ops.running.isSome = true ∨ (waitingOps s).contains o = false ∨ 10 < ageUs ∨ startsOver s = true ∨ (isStagingOp o = true ∧ (waitingOps s).contains .logPage = true) ∨ bootMayStart s o = false ∨ logPaused s o = true) := by
    rw [r, w, starts, boot, log]
    rcases stage with h | h
    · rw [h]
      simpa using age
    · rw [h]
      simpa using age
  have run : exec (.flashOperationStart o holdVolts ageUs) s = if holdOk (measureHold holdVolts s) holdVolts o then .next (beginOp o (measureHold holdVolts s)) else .next (holdupFail (measureHold holdVolts s)) := if_neg free
  exact ⟨_, run.trans (if_pos ok), begins o holdVolts s⟩

/-- The clause on the recheck. -/
theorem recheck_clause (s : State) (o : FlashOp) (holdVolts : Q) (r : s.ops.running = none) (h : s.sup.holdup = false) (find : (waitingOps s).find? (fun q => holdOk s holdVolts q && bootMayStart s q && !logPaused s q) = some o) :
    Answers (exec (.pendingOperationRecheck holdVolts) s) fun t => t.ops.running = some o ∧ t.sup.hold = holdVolts ∧
      t = { measureHold holdVolts s with flash := t.flash, log := t.log, ops := t.ops } := by
  refine ⟨beginOp o (measureHold holdVolts s), ?_, begins o holdVolts s⟩
  have free : ¬((measureHold holdVolts s).ops.running.isSome = true ∨ startsOver (measureHold holdVolts s) = true) := by
    unfold startsOver
    simp [measureHold, r, h]
  show execPendingOperationRecheck holdVolts s = _
  unfold execPendingOperationRecheck
  dsimp only
  rw [if_neg free, measureHold_waitingOps]
  cases ws : waitingOps s with
  | nil =>
    rw [ws] at find
    cases find
  | cons q rest =>
    rw [ws] at find
    dsimp only
    rw [if_neg (fun k => Bool.noConfusion (h.symm.trans k.1)), show (q :: rest).find? (fun q => holdOk (measureHold holdVolts s) holdVolts q && bootMayStart (measureHold holdVolts s) q && !logPaused (measureHold holdVolts s) q) = some o from find]

/-- The clause on a verified operation that writes no OTP word and puts no descriptor into force. -/
theorem flashComplete_clause (s : State) (o : FlashOp) (r : s.ops.running = some o) (orphan : s.ops.orphan = false) (w : s.sup.ship ≠ .writes) (rec : s.sup.ship ≠ .record) (lc : s.sec.lcReset = false) (otp : ∀ w b, o ≠ .otpWord w b) (last : ∀ j, o ≠ .bootProgram j true) :
    Answers (exec (.flashOperationComplete true) s) fun t => t = { s with ops := { waiting := t.ops.waiting, running := none, orphan := false } } ∧ (∀ q, q ∈ s.ops.waiting → q ∈ t.ops.waiting) ∧
      (o = .stageErase → .stagePage 0 ∈ t.ops.waiting) ∧ (∀ n, o = .stagePage n → n < 15 → .stagePage (n + 1) ∈ t.ops.waiting) ∧
      (∀ j, o = .bootErase j → s.cat.descDue.isSome = true → .bootProgram j false ∈ t.ops.waiting) ∧ (∀ j, o = .bootProgram j false → .bootProgram j true ∈ t.ops.waiting) := by
  obtain ⟨only, keeps⟩ := afterOp_verified o (opEnded s) otp last
  refine ⟨afterOp o true (opEnded s), ?_, only, keeps, ?_, ?_, ?_, ?_⟩
  · exact execFlashOperationComplete_follows r orphan w rec lc rfl (by rw [only]; rfl) (by rw [only]; rfl)
  · rintro rfl
    exact enqueue_mem _ _
  · rintro n rfl h
    rw [show afterOp (.stagePage n) true (opEnded s) = enqueue (.stagePage (n + 1)) (opEnded s) from if_pos h]
    exact enqueue_mem _ _
  · rintro j rfl h
    have due : ¬s.cat.descDue.isNone = true := by rw [Option.isNone_eq_false_iff.2 h]; decide
    rw [show afterOp (.bootErase j) true (opEnded s) = enqueue (.bootProgram j false) (opEnded s) from if_neg due]
    exact enqueue_mem _ _
  · rintro j rfl
    exact enqueue_mem _ _

/-- The clause on a verified OTP word. -/
theorem otpComplete_clause (s : State) (w : Nat) (b : BitVec 64) (r : s.ops.running = some (.otpWord w b)) (orphan : s.ops.orphan = false) (wr : s.sup.ship ≠ .writes) (rec : s.sup.ship ≠ .record) (lc : s.sec.lcReset = false) :
    Answers (exec (.flashOperationComplete true) s) fun t => (∀ v, t.otp.get v = if v = w then s.otp.get w ||| b else s.otp.get v) ∧ (w = 5 → active 0x8015 noInst t = true) ∧ (w = 7 → active 0x8016 (Nat.log2 b.toNat / 4) t = true) ∧
      SameButFaults { s with ops := { s.ops with running := none, orphan := false }, otp := t.otp, freeIx := t.freeIx } t := by
  generalize hu : ({ opEnded s with otp := s.otp.put w (s.otp.get w ||| b) } : State) = u
  have same := otpDone_same w b u
  have otp : (otpDone w b u).otp = s.otp.put w (s.otp.get w ||| b) := by rw [same, ← hu]
  have run : exec (.flashOperationComplete true) s = .next (otpDone w b u) :=
    execFlashOperationComplete_follows r orphan wr rec lc (by rw [← hu]; rfl) (by rw [same.supply, ← hu]; rfl) (by rw [same, ← hu]; rfl)
  refine ⟨_, run, fun v => ?_, ?_, ?_, ?_⟩
  · rw [otp, Tab.get_put]
  · rintro rfl
    exact otpDone_life b u
  · rintro rfl
    exact otpDone_revoked b u
  · rw [otp]
    subst hu
    exact same

/-- The clause on the last page of a descriptor with nothing behind it. -/
theorem descriptorComplete_clause (s : State) (j : Fin 2) (d : BootDesc) (r : s.ops.running = some (.bootProgram j true)) (orphan : s.ops.orphan = false) (w : s.sup.ship ≠ .writes) (rec : s.sup.ship ≠ .record) (lc : s.sec.lcReset = false)
    (due : s.cat.descDue = some (j, d)) (next : s.cat.descNext = none) :
    Answers (exec (.flashOperationComplete true) s) fun t => t.cat = { s.cat with desc := some d, descDue := none } ∧ t.flash = (if j = 0 then { s.flash with boot0 := some d } else { s.flash with boot1 := some d }) ∧
      t = { s with flash := t.flash, cat := t.cat, ops := { waiting := t.ops.waiting, running := none, orphan := false } } := by
  have lands : afterOp (.bootProgram j true) true (opEnded s) = descLanded j d (opEnded s) := by
    rw [afterOp_lastPage (s := opEnded s) due, landDesc_last (s := opEnded s) due next]
  exact ⟨_, execFlashOperationComplete_follows r orphan w rec lc lands rfl rfl, rfl, rfl, rfl⟩

/-- The clause on the last page of a descriptor with a change behind it. -/
theorem descriptorAgain_clause (s : State) (j : Fin 2) (d e : BootDesc) (r : s.ops.running = some (.bootProgram j true)) (orphan : s.ops.orphan = false) (w : s.sup.ship ≠ .writes) (rec : s.sup.ship ≠ .record) (lc : s.sec.lcReset = false)
    (due : s.cat.descDue = some (j, d)) (next : s.cat.descNext = some e) :
    Answers (exec (.flashOperationComplete true) s) fun t => (∃ g, t.cat = { s.cat with desc := some d, descDue := some (descTarget t.flash, { e with gen := g }), descNext := none }) ∧ .bootErase (descTarget t.flash) ∈ t.ops.waiting ∧
      t.flash = (if j = 0 then { s.flash with boot0 := some d } else { s.flash with boot1 := some d }) ∧
      t = { s with flash := t.flash, cat := t.cat, ops := { waiting := t.ops.waiting, running := none, orphan := false } } := by
  have lands : afterOp (.bootProgram j true) true (opEnded s) = startDesc (fun _ => e) (descLanded j d (opEnded s)) := by
    rw [afterOp_lastPage (s := opEnded s) due, landDesc_again (s := opEnded s) due next]
  obtain ⟨cat, erase, only⟩ := startDesc_parts (fun _ => e) (descLanded j d (opEnded s))
  generalize startDesc (fun _ => e) (descLanded j d (opEnded s)) = t at lands cat erase only
  have flash : t.flash = copyWritten j d s.flash := by rw [only]; rfl
  refine ⟨t, execFlashOperationComplete_follows r orphan w rec lc lands (by rw [only]; rfl) (by rw [only]; rfl), ⟨(nextDue (fun _ => e) (descLanded j d (opEnded s))).2.gen, ?_⟩, ?_, flash, ?_⟩
  · rw [cat, flash]
    rfl
  · rw [flash]
    exact erase
  · rw [flash]
    exact only

/-- The clause on an operation that a reset has outlived. -/
theorem orphanComplete_clause (s : State) (o : FlashOp) (r : s.ops.running = some o) (orphan : s.ops.orphan = true) (otp : ∀ w b, o ≠ .otpWord w b) :
    exec (.flashOperationComplete true) s = .next { s with ops := { s.ops with running := none, orphan := false } } := by
  have ends : orphanEnds o true (opEnded s) = opEnded s := by
    cases o with
    | otpWord w b => exact absurd rfl (otp w b)
    | _ => rfl
  rw [execFlashOperationComplete_eq true r, if_pos orphan, ends]
  rfl

/-- The clause on an OTP program whose verify fails: it ends alike for one that a reset has outlived. -/
theorem otpFailed_clause (s : State) (w : Nat) (b : BitVec 64) (r : s.ops.running = some (.otpWord w b)) (wr : s.sup.ship ≠ .writes) (rec : s.sup.ship ≠ .record) (lc : s.sec.lcReset = false) :
    Answers (exec (.flashOperationComplete false) s) fun t => active 0x8017 noInst t = true ∧ t.otp.get w = s.otp.get w ||| (b &&& ~~~(lowBit b)) ∧ (∀ v, v ≠ w → t.otp.get v = s.otp.get v) ∧
      SameButFaults { s with ops := { s.ops with running := none, orphan := false }, otp := t.otp } t := by
  generalize hu : ({ opEnded s with otp := s.otp.put w (otpFailed (s.otp.get w) b) } : State) = u
  have same : SameButFaults u (raise 0x8017 noInst 0 u) := raise_low_same _ _ _ u (by simp [classOf, codesF0, codesF1]) (by decide)
  have otp : (raise 0x8017 noInst 0 u).otp = s.otp.put w (otpFailed (s.otp.get w) b) := by rw [raise_otp, ← hu]
  have after : afterOp (.otpWord w b) false (opEnded s) = raise 0x8017 noInst 0 u := by rw [← hu]; rfl
  have run : exec (.flashOperationComplete false) s = .next (raise 0x8017 noInst 0 u) := by
    cases orphan : s.ops.orphan with
    | false => exact execFlashOperationComplete_follows r orphan wr rec lc after (by rw [same.supply, ← hu]; rfl) (by rw [raise_sec, ← hu]; rfl)
    | true => rw [execFlashOperationComplete_eq false r, if_pos orphan, ← after]; rfl
  refine ⟨_, run, raise_active _ _ _ _, ?_, fun v h => ?_, ?_⟩
  · rw [otp, Tab.get_put_same]
    rfl
  · rw [otp, Tab.get_put_other _ _ _ _ h]
  · rw [otp]
    subst hu
    exact same

/-- The clause on a full log block. -/
theorem logBlockClose_clause (s : State) (ready : s.log.ready = true) (full : 127 ≤ s.log.nextSlot) :
    Answers (exec .logBlockClose s) fun t => t = { s with ops := { s.ops with waiting := t.ops.waiting } } ∧
      (∀ b, logAt s (physOf s s.log.openSeq) = some b → b.closed = false → .logClose (physOf s s.log.openSeq) ∈ t.ops.waiting) ∧
      (if s.log.nextErased then .logOpen (physOf s (nextSeq s)) else .logErase (physOf s (nextSeq s))) ∈ t.ops.waiting := by
  refine ⟨_, execLogBlockClose_eq ready full, ((closeOpen_more s).trans (.enqueue _ _)).1, fun b h o => ?_, enqueue_mem _ _⟩
  exact enqueue_keeps _ _ _ (closeOpen_waits h o)

/-- The clause on the erase of a descriptor copy. -/
theorem bootErase_clause (s : State) (k : Fin 2) (d : BootDesc) (holdVolts : Q) (due : s.cat.descDue = some (k, d)) (r : s.ops.running = none) (starts : startsOver s = false) (otp : otpWaits s = false)
    (boot : s.flash.boot0.isSome = true ∨ s.flash.boot1.isSome = true ∨ s.sup.step = 9 ∨ s.cat.recovery = true) (w : s.sup.ship ≠ .writes) (rec : s.sup.ship ≠ .record) (waits : s.ops.waiting.find? isBootOp = some (.bootErase k)) (ok : holdOk s holdVolts (.bootErase k) = true) :
    Answers (exec (.bootDescriptorWrite holdVolts true) s) fun t => t.flash = (if k = 0 then { s.flash with boot0 := none } else { s.flash with boot1 := none }) ∧ .bootProgram k false ∈ t.ops.waiting ∧
      t = { measureHold holdVolts s with flash := t.flash, ops := { waiting := t.ops.waiting, running := none, orphan := false } } := by
  have run := execBootDescriptorWrite_eq due r starts (bootMayStart_of _ otp boot) waits ok
  rw [beginOp_bootErase] at run
  generalize hu : ({ measureHold holdVolts s with flash := if k = 0 then { (measureHold holdVolts s).flash with boot0 := none } else { (measureHold holdVolts s).flash with boot1 := none }, ops := { waiting := (measureHold holdVolts s).ops.waiting.filter (fun p => decide (p ≠ .bootErase k)), running := none, orphan := false } } : State) = u
  have pages : afterOp (.bootErase k) true u = enqueue (.bootProgram k false) u := if_neg (by rw [← hu, show (measureHold holdVolts s).cat.descDue = some (k, d) from due]; exact Bool.false_ne_true)
  have idle : shipProceed (enqueue (.bootProgram k false) u) = enqueue (.bootProgram k false) u := by
    rw [enqueue_eq, ← hu]
    exact shipProceed_idle w rec
  refine ⟨enqueue (.bootProgram k false) u, run.trans ?_, ?_, enqueue_mem _ _, ?_⟩
  · rw [← idle, ← pages, ← hu]
  · rw [enqueue_eq, ← hu]
    rfl
  · rw [enqueue_eq, ← hu]

/-- The clause on the last page of a descriptor copy. -/
theorem bootLast_clause (s : State) (k : Fin 2) (d : BootDesc) (holdVolts : Q) (due : s.cat.descDue = some (k, d)) (r : s.ops.running = none) (starts : startsOver s = false) (otp : otpWaits s = false)
    (boot : s.flash.boot0.isSome = true ∨ s.flash.boot1.isSome = true ∨ s.sup.step = 9 ∨ s.cat.recovery = true) (w : s.sup.ship ≠ .writes) (rec : s.sup.ship ≠ .record) (next : s.cat.descNext = none) (waits : s.ops.waiting.find? isBootOp = some (.bootProgram k true)) (ok : holdOk s holdVolts (.bootProgram k true) = true) :
    Answers (exec (.bootDescriptorWrite holdVolts true) s) fun t => t.cat = { s.cat with desc := some d, descDue := none } ∧
      t.flash = (if k = 0 then { s.flash with boot0 := some d } else { s.flash with boot1 := some d }) ∧
      t = { measureHold holdVolts s with flash := t.flash, cat := t.cat, ops := { waiting := t.ops.waiting, running := none, orphan := false } } := by
  have run := execBootDescriptorWrite_eq due r starts (bootMayStart_of _ otp boot) waits ok
  generalize hu : ({ beginOp (.bootProgram k true) (measureHold holdVolts s) with ops := { (beginOp (.bootProgram k true) (measureHold holdVolts s)).ops with running := none } } : State) = u at run
  have dueU : u.cat.descDue = some (k, d) := by rw [← hu]; exact due
  have lands : afterOp (.bootProgram k true) true u = descLanded k d u := by
    rw [afterOp_lastPage dueU, landDesc_last dueU (by rw [← hu]; exact next)]
  have idle : shipProceed (descLanded k d u) = descLanded k d u := by
    subst hu
    exact shipProceed_idle w rec
  rw [lands, idle] at run
  subst hu
  exact ⟨_, run, rfl, rfl, rfl⟩

/-- Settles O11, clause by clause: the starts, the completions by kind of operation, a full log block and the descriptor write. -/
theorem flashOperations : Obligations.FlashOperations := by
  unfold Obligations.FlashOperations
  exact ⟨flashStart_clause, recheck_clause, flashComplete_clause, otpComplete_clause, descriptorComplete_clause, descriptorAgain_clause, orphanComplete_clause, otpFailed_clause, logBlockClose_clause, bootErase_clause, bootLast_clause⟩

end Sys2Proof.Machine
end

section
/-! SUPPORT. A fault of class F4 that leads to SAFE: the supply it leaves, the two pins, and what the loss of both feeds turns off
(01_architecture.md, R33; 03_supply_startup.md, R89; 22_status_faults_log.md, R531). -/

namespace Sys2Proof.Machine

/-! ## The reaction to a fault of class F4 (R33, R34, R394) -/

theorem noSafe_congr {s t : State} (m : t.sys.mode = s.sys.mode) (u : t.sup = s.sup) (l : t.lks = s.lks) : t.noSafe = s.noSafe := by
  unfold State.noSafe State.inReset
  rw [m, u, l]

/-- Beyond the collector and the safe-state request, a fault of class F4 enters SAFE or leaves the rest to the next evaluation. -/
theorem raise_f4 (c i m : Nat) (s : State) (h : ∀ s, classOf s c i = 4) :
    ∃ u, (SameButFaults s u ∨ SameButFaults { s with saf := { s.saf with safeReq := true } } u) ∧ (raise c i m s = u ∨ raise c i m s = pins (safeByF4 u)) := by
  have base := raiseBaseBy_same (c / 2048) c i m s
  by_cases io : ioHalted s = true
  · by_cases a : active c i s = true
    · refine ⟨_, .inl base, .inl ?_⟩
      unfold raise raiseBy
      dsimp only
      rw [a]
      rfl
    · generalize hu : raiseBaseBy (c / 2048) c i m s = u at base
      have run : raise c i m s = pins (reactF4 c u) := by
        unfold raise raiseBy
        dsimp only
        rw [hu, Bool.eq_false_iff.2 a, h]
        rfl
      have halted : ioHalted u = true := by rw [base]; exact io
      by_cases own : c = 0x0801 ∨ c = 0x5809
      · refine ⟨u, .inl base, .inr (run.trans ?_)⟩
        unfold reactF4
        dsimp only
        rw [if_pos own, if_pos halted]
      · refine ⟨{ u with saf := { u.saf with safeReq := true } }, .inr ?_, .inr (run.trans ?_)⟩
        · unfold SameButFaults at base ⊢
          rw [base]
        · unfold reactF4
          dsimp only
          rw [if_neg own]
          exact congrArg pins (if_pos halted)
  · exact ⟨_, raiseBy_f4_same (c / 2048) c i m s h (Bool.eq_false_iff.2 io), .inl rfl⟩

/-- What the collector and the safe-state request leave alone. -/
theorem SameButFaults.or_request {s u : State} (h : SameButFaults s u ∨ SameButFaults { s with saf := { s.saf with safeReq := true } } u) :
    u.sup = s.sup ∧ u.xtalOk = s.xtalOk ∧ u.sys.mode = s.sys.mode ∧ u.lks = s.lks := by
  rcases h with h | h <;> rw [h] <;> exact ⟨rfl, rfl, rfl, rfl⟩

theorem shipAbandon_congr {s t : State} (u : t.sup = s.sup) (x : t.xtalOk = s.xtalOk) : (shipAbandon t).sup = (shipAbandon s).sup := by
  have runs (p : Supply) : ({ t with sup := p } : State).xtalOk = ({ s with sup := p } : State).xtalOk := x
  unfold shipAbandon startBias
  simp only [u, runs]
  split_ifs <;> simp [u]

/-- A fault of class F4 gives up a ship entry, and leaves the supply alone beyond that. -/
theorem raise_f4_supply (c i m : Nat) (s : State) (h : ∀ s, classOf s c i = 4) : (raise c i m s).sup = s.sup ∨ (raise c i m s).sup = (shipAbandon s).sup := by
  obtain ⟨u, same, run⟩ := raise_f4 c i m s h
  obtain ⟨sup, xtal, -, -⟩ := SameButFaults.or_request same
  rcases run with run | run
  · exact .inl (run ▸ sup)
  · rw [run, pins_supply]
    cases ns : u.noSafe with
    | false => exact .inr ((safeByF4_enters ns).2.trans (shipAbandon_congr sup xtal))
    | true => exact .inl (by rw [safeByF4_held ns, sup])

/-- Where no SAFE is entered, the fault leaves the mode and the supply. -/
theorem raise_f4_held (c i m : Nat) (s : State) (h : ∀ s, classOf s c i = 4) (ns : s.noSafe = true) : (raise c i m s).sup = s.sup ∧ (raise c i m s).sys.mode = s.sys.mode := by
  obtain ⟨u, same, run⟩ := raise_f4 c i m s h
  obtain ⟨sup, -, mode, lks⟩ := SameButFaults.or_request same
  rcases run with run | run
  · exact run ▸ ⟨sup, mode⟩
  · rw [run, safeByF4_held ((noSafe_congr mode sup lks).trans ns), pins_supply, pins_mode]
    exact ⟨sup, mode⟩

theorem inReset_congr {s t : State} (h : t.sup.fixed = s.sup.fixed) : t.inReset = s.inReset := by
  simp only [Supply.fixed, Prod.mk.injEq] at h
  unfold State.inReset
  simp only [h]

/-- Nothing that holds SAFE off comes by a fault. -/
theorem raise_noSafe (c i m : Nat) (s : State) (ns : s.noSafe = false) : (raise c i m s).noSafe = false := by
  have mode := raise_mode_or c i m s
  unfold State.noSafe at ns ⊢
  rw [inReset_congr (raise_sup c i m s), raise_lks]
  simp only [Bool.or_eq_false_iff, decide_eq_false_iff_not] at ns ⊢
  obtain ⟨⟨off, reset⟩, dead⟩ := ns
  refine ⟨⟨?_, reset⟩, dead⟩
  rcases mode with mode | mode <;> rw [mode]
  · exact off
  · decide

/-! ## READY and FAULT_N in SAFE (R531) -/

/-- SAFE, with the two pins as R531 drives them there. -/
def SafePins (s : State) : Prop := s.sys.mode = .safe ∧ s.sys.readyPin = false ∧ s.sys.faultPin = true

theorem SafePins.of_sys {s t : State} (k : SafePins s) (h : t.sys = s.sys) : SafePins t := by
  unfold SafePins
  rw [h]
  exact k
theorem safePins_pins {s : State} (h : s.sys.mode = .safe) : SafePins (pins s) := by
  unfold pins
  rw [h]
  exact ⟨h, rfl, rfl⟩
theorem safePins_raiseBase (c i m : Nat) {s : State} (h : s.sys.mode = .safe) : SafePins (raiseBase c i m s) :=
  safePins_pins (by
    have same := raiseEntry_same (c / 2048) c i m s
    split
    · rw [((same.trans (raiseEntry_same _ _ _ _ _)).mode), h]
    · rw [same.mode, h])
/-- A mode that is entered from another one drives the pins. -/
theorem enterMode_pins {m : Mode} {s : State} (h : s.sys.mode ≠ m) : ∃ v, enterMode m s = pins v := ⟨_, if_neg h⟩
theorem safePins_enter {s : State} (h : s.sys.mode = .safe → SafePins s) : SafePins (enterMode .safe s) := by
  by_cases k : s.sys.mode = .safe
  · rw [show enterMode .safe s = s from if_pos k]
    exact h k
  · obtain ⟨v, e⟩ := enterMode_pins k
    rw [e]
    exact safePins_pins (by rw [← pins_mode, ← e, enterMode_mode])

/-- Every raise drives the pins. -/
theorem raise_f4_pins (c i m : Nat) (s : State) (h : ∀ s, classOf s c i = 4) : ∃ v, raise c i m s = pins v := by
  unfold raise raiseBy
  dsimp only
  split
  · rw [h]
    exact ⟨_, rfl⟩
  · exact ⟨_, rfl⟩
theorem safePins_raise (c i m : Nat) (s : State) (h : ∀ s, classOf s c i = 4) (k : (raise c i m s).sys.mode = .safe) : SafePins (raise c i m s) := by
  obtain ⟨v, e⟩ := raise_f4_pins c i m s h
  rw [e] at k ⊢
  exact safePins_pins (by rw [← pins_mode]; exact k)

/-! ## What R89 turns off -/

theorem railLost_only (s : State) (c : Chan) : railLost s c = { s with gd := (railLost s c).gd } := by
  unfold railLost
  rw [updCh_only, stopChan_only]
/-- Channels that lose their rails change nothing but the gate channels. -/
theorem railsLost_only (l : List Chan) (s : State) : l.foldl railLost s = { s with gd := (l.foldl railLost s).gd } := by
  induction l generalizing s with
  | nil => rfl
  | cons c l ih =>
    rw [List.foldl_cons]
    generalize hg : (List.foldl railLost (railLost s c) l).gd = g
    rw [ih, hg, railLost_only]
theorem bankOff_only (lo n : Nat) (s : State) : bankOff lo n s = { s with gd := (bankOff lo n s).gd } := railsLost_only _ s

theorem railLost_self (s : State) (c : Chan) : (railLost s c).gd.offAt c := by
  unfold railLost Gd.offAt
  rw [updCh_gets, if_pos rfl]
  exact OutSt.noConfusion
theorem railsLost_off (l : List Chan) (s : State) {c : Chan} (h : c ∈ l) : (l.foldl railLost s).gd.offAt c := by
  induction l generalizing s with
  | nil => cases h
  | cons d l ih =>
    rcases List.mem_cons.1 h with e | m
    · subst e
      exact offAt_foldl (fun s a k => railLost_offAt s a c k) l (railLost_self s c)
    · exact ih _ m
/-- No output of a bank without rails is on (R68). -/
theorem bankOff_off (lo n : Nat) (s : State) {c : Chan} (h : lo ≤ c.val) (k : c.val < lo + n) : (bankOff lo n s).gd.offAt c :=
  railsLost_off _ s (List.mem_filter.2 ⟨List.mem_finRange c, by simp [h, k]⟩)

theorem ascLost_only (s : State) : ascLost s = { s with ss := (ascLost s).ss } := rfl
/-- No set is left in ASC (R68, R89). -/
theorem ascLost_freewheels (s : State) (x : TSet) : ((ascLost s).ss.get x).st < 2 := by
  have one (y : SafeSet) : (if y.st = 0 then y else { y with st := 1 }).st < 2 := by
    split
    next h => exact h ▸ Nat.zero_lt_two
    next => exact Nat.one_lt_two
  unfold ascLost
  dsimp only
  cases x
  case a =>
    rw [Tab.get_upd, if_neg (by decide), Tab.get_upd, if_pos rfl]
    exact one _
  case b =>
    rw [Tab.get_upd, if_pos rfl]
    exact one _

theorem stopCharger_sys (s : State) : (stopCharger s).sys = s.sys := by
  unfold stopCharger
  dsimp only
  split
  · rfl
  · rw [stopGroup_only, stopGroup_only]
theorem stopLv_sys (f : Bool) (s : State) : (stopLv f s).sys = s.sys := by rw [(stopLv_parts f s).1]
theorem stopGroup_sys (g : Grp) (s : State) : (stopGroup g s).sys = s.sys := by rw [stopGroup_only]
theorem safePins_abortAct (a : Act) {s : State} (h : SafePins s) : SafePins (abortAct a s) := by
  unfold abortAct
  split
  · exact h
  · exact safePins_raiseBase _ _ _ (by rw [stopGroup_sys]; exact h.1)
theorem safePins_allOff {s : State} (h : SafePins s) : SafePins (allOff s) := by
  unfold allOff
  refine safePins_abortAct _ (safePins_abortAct _ (h.of_sys ?_))
  rw [stopLv_sys, stopCharger_sys]
  simp only [List.foldl_cons, List.foldl_nil, stopGroup_sys]
@[simp] theorem allOff_supply (s : State) : (allOff s).sup = s.sup := by unfold allOff; simp

/-- Both permits held off (R89). -/
def permitsOff (u : State) : State := { u with saf := { u.saf with held := true, lvC := false, lvP := false } }
/-- Both permits held off, and every output with them (R89). -/
def outputsOff (u : State) : State := ascLost (bankOff 0 29 (allOff (permitsOff u)))
/-- What R89 turns off, once 0x0014 and SAFE are there. -/
def holdUpOff (u : State) : State := { outputsOff u with sup := { (outputsOff u).sup with biasA := false, biasB := false, ifaces := false, holdup := true } }

theorem bothLost_eq (s : State) : bothLost s = holdUpOff (safeByF4 (raise 0x0014 noInst 0 s)) := by
  unfold bothLost holdUpOff outputsOff permitsOff
  dsimp only

theorem outputsOff_only (u : State) : outputsOff u = { allOff (permitsOff u) with gd := (outputsOff u).gd, ss := (outputsOff u).ss } := by
  unfold outputsOff
  rw [ascLost_only, bankOff_only]
theorem outputsOff_supply (u : State) : (outputsOff u).sup = u.sup := by
  rw [outputsOff_only]
  dsimp only
  rw [allOff_supply]
  rfl
theorem outputsOff_sys (u : State) : (outputsOff u).sys = (allOff (permitsOff u)).sys := by rw [outputsOff_only]
theorem outputsOff_beyond (u : State) : (outputsOff u).beyond = (permitsOff u).beyond := by unfold outputsOff; simp
theorem outputsOff_off (u : State) {c : Chan} (h : c.val < 29) : (outputsOff u).gd.offAt c :=
  ascLost_offAt _ c (bankOff_off 0 29 _ (Nat.zero_le _) (by omega))
theorem outputsOff_freewheels (u : State) (x : TSet) : ((outputsOff u).ss.get x).st < 2 := by
  unfold outputsOff
  exact ascLost_freewheels _ x
theorem outputsOff_grows (u : State) : Grows u (outputsOff u) := by
  have off : Grows (permitsOff u) (allOff (permitsOff u)) := allOff_grows _
  refine Grows.trans (Grows.of_eq rfl) (off.trans (.of_eq ?_))
  unfold outputsOff
  rw [ascLost_faults, bankOff_faults]

theorem holdUpOff_supply (u : State) : (holdUpOff u).sup = { u.sup with biasA := false, biasB := false, ifaces := false, holdup := true } := by
  unfold holdUpOff
  rw [outputsOff_supply]
theorem holdUpOff_saf (u : State) : (holdUpOff u).saf = { u.saf with held := true, lvC := false, lvP := false } := by
  unfold holdUpOff
  rw [outputsOff_only]
  dsimp only
  rw [allOff_saf]
  rfl
theorem holdUpOff_mode (u : State) : (holdUpOff u).sys.mode = u.sys.mode := by
  unfold holdUpOff
  dsimp only
  rw [outputsOff_sys, allOff_mode]
  rfl
theorem holdUpOff_off (u : State) {c : Chan} (h : c.val < 29) : ((holdUpOff u).gd.ch.get c).out ≠ .on := by
  unfold holdUpOff
  exact outputsOff_off u h
theorem holdUpOff_freewheels (u : State) (x : TSet) : ((holdUpOff u).ss.get x).st < 2 := by
  unfold holdUpOff
  exact outputsOff_freewheels u x
theorem holdUpOff_grows (u : State) : Grows u (holdUpOff u) := by
  unfold holdUpOff
  have off := outputsOff_grows u
  generalize outputsOff u = v at off
  exact off.trans (.of_eq rfl)
theorem holdUpOff_stored (u : State) : (holdUpOff u).flash = u.flash ∧ (holdUpOff u).otp = u.otp ∧ (holdUpOff u).cat = u.cat ∧ (holdUpOff u).ka = u.ka := by
  have b := outputsOff_beyond u
  unfold holdUpOff
  dsimp only
  generalize outputsOff u = v at b
  exact ⟨congrArg Beyond.flash b, congrArg Beyond.otp b, congrArg Beyond.cat b, congrArg Beyond.ka b⟩
theorem holdUpOff_safePins {u : State} (h : SafePins u) : SafePins (holdUpOff u) := by
  have off : SafePins (allOff (permitsOff u)) := safePins_allOff (h.of_sys rfl)
  unfold holdUpOff
  have sys := outputsOff_sys u
  generalize outputsOff u = v at sys
  exact off.of_sys sys

/-! ## The loss of both feeds (R89) -/

theorem classOf_bothLost (s : State) : classOf s 0x0014 noInst = 4 := by simp [classOf, codesF0, codesF1, codesF2, codesF4]

theorem startBias_sys (s : State) : (startBias s).sys = s.sys := by
  unfold startBias
  split <;> rfl
theorem shipAbandon_sys (s : State) : (shipAbandon s).sys = s.sys := by
  unfold shipAbandon
  dsimp only
  split
  · exact startBias_sys _
  · split <;> rfl

/-- What is left of a ship entry that is given up before its step 6 (R80). -/
theorem shipAbandon_idle {s : State} (h : s.sup.ship ≠ .falling) :
    (shipAbandon s).sup = { s.sup with ship := if s.sup.ship = .writes ∨ s.sup.ship = .record then .none else s.sup.ship } := by
  unfold shipAbandon
  rw [if_neg h]
  split <;> rfl

/-- 0x0014 and SAFE: SAFE is entered, and a ship entry given up. -/
theorem bothLost_enters {s : State} (ns : s.noSafe = false) (ship : s.sup.ship ≠ .falling) :
    SafePins (safeByF4 (raise 0x0014 noInst 0 s)) ∧
      (safeByF4 (raise 0x0014 noInst 0 s)).sup = { s.sup with ship := if s.sup.ship = .writes ∨ s.sup.ship = .record then .none else s.sup.ship } := by
  have none := raise_noSafe 0x0014 noInst 0 s ns
  have pinsOf := safePins_raise 0x0014 noInst 0 s classOf_bothLost
  have sup := raise_f4_supply 0x0014 noInst 0 s classOf_bothLost
  generalize raise 0x0014 noInst 0 s = u at none pinsOf sup ⊢
  obtain ⟨-, given⟩ := safeByF4_enters none
  constructor
  · unfold safeByF4
    rw [if_neg (by rw [none]; decide)]
    refine safePins_enter fun k => ?_
    rw [shipAbandon_mode] at k
    exact (pinsOf k).of_sys (shipAbandon_sys u)
  · rw [given]
    rcases sup with sup | sup
    · rw [shipAbandon_idle (sup ▸ ship), sup]
    · rw [shipAbandon_idle ship] at sup
      have idle : u.sup.ship ≠ .falling ∧ ¬(u.sup.ship = .writes ∨ u.sup.ship = .record) := by
        rw [sup]
        dsimp only
        split
        next => decide
        next k => exact ⟨ship, k⟩
      rw [shipAbandon_idle idle.1, if_neg idle.2, sup]

/-- Where a reset or a failed start-up check keeps SAFE off, the mode and the supply stay. -/
theorem bothLost_held {s : State} (ns : s.noSafe = true) :
    (safeByF4 (raise 0x0014 noInst 0 s)).sup = s.sup ∧ (safeByF4 (raise 0x0014 noInst 0 s)).sys.mode = s.sys.mode := by
  obtain ⟨sup, mode⟩ := raise_f4_held 0x0014 noInst 0 s classOf_bothLost ns
  rw [safeByF4_held ((noSafe_congr mode sup (raise_lks _ _ _ _)).trans ns)]
  exact ⟨sup, mode⟩

theorem bothLost_active (s : State) : active 0x0014 noInst (bothLost s) = true := by
  rw [bothLost_eq]
  exact holdUpOff_grows _ _ _ (safeByF4_grows _ _ _ (raise_active _ _ _ _))
theorem bothLost_grows (s : State) : Grows s (bothLost s) := by
  rw [bothLost_eq]
  exact (raise_grows _ _ _ s).trans ((safeByF4_grows _).trans (holdUpOff_grows _))
theorem bothLost_stored (s : State) : (bothLost s).flash = s.flash ∧ (bothLost s).otp = s.otp ∧ (bothLost s).cat = s.cat ∧ (bothLost s).ka = s.ka := by
  have b := (safeByF4_beyond (raise 0x0014 noInst 0 s)).trans (raise_beyond 0x0014 noInst 0 s)
  obtain ⟨flash, otp, cat, ka⟩ := holdUpOff_stored (safeByF4 (raise 0x0014 noInst 0 s))
  rw [bothLost_eq]
  exact ⟨flash.trans (congrArg Beyond.flash b), otp.trans (congrArg Beyond.otp b), cat.trans (congrArg Beyond.cat b), ka.trans (congrArg Beyond.ka b)⟩

/-- The second feed that is lost turns no MOSFET on. -/
theorem loseFeed_last {f : Feed} (volts : Q) {s : State} (o : (feedOf s f.other).present = false) :
    SameButFaults (setFeed f { feedOf s f with present := false, lost := true, mosfet := false, volts := volts } s) (loseFeed f volts s) := by
  have same := loseFeed_same f volts s
  have self := setFeed_self f.other (setFeed f { feedOf s f with present := false, lost := true, mosfet := false, volts := volts } s)
  rw [feedOf_setFeed_other] at self
  rw [o, Bool.false_and, Bool.false_or] at same
  rwa [self] at same

end Sys2Proof.Machine
end

section
/-! The loss of both feeds, hold-up and the rail monitors. -/

namespace Sys2Proof.Machine

theorem setFeed_noSafe (f : Feed) (x : FeedSt) (s : State) : (setFeed f x s).noSafe = s.noSafe := by cases f <;> rfl
theorem setFeed_ship (f : Feed) (x : FeedSt) (s : State) : (setFeed f x s).sup.ship = s.sup.ship := by cases f <;> rfl
theorem setFeed_stored (f : Feed) (x : FeedSt) (s : State) : (setFeed f x s).flash = s.flash ∧ (setFeed f x s).otp = s.otp ∧ (setFeed f x s).cat = s.cat ∧ (setFeed f x s).ka = s.ka := by cases f <;> exact ⟨rfl, rfl, rfl, rfl⟩

/-- What the loss of the second feed leaves to the step into hold-up. -/
theorem loseFeed_last_keeps {f : Feed} (volts : Q) {s : State} (o : (feedOf s f.other).present = false) :
    (loseFeed f volts s).sup = (setFeed f { feedOf s f with present := false, lost := true, mosfet := false, volts := volts } s).sup ∧
      (loseFeed f volts s).noSafe = s.noSafe ∧ (loseFeed f volts s).sup.ship = s.sup.ship := by
  have same := loseFeed_last volts o
  have lks : (loseFeed f volts s).lks = (setFeed f { feedOf s f with present := false, lost := true, mosfet := false, volts := volts } s).lks := by rw [same]
  exact ⟨same.supply, (noSafe_congr same.mode same.supply lks).trans (setFeed_noSafe _ _ _), (congrArg Supply.ship same.supply).trans (setFeed_ship _ _ _)⟩

theorem loseFeed_grows (f : Feed) (volts : Q) (s : State) : Grows s (loseFeed f volts s) := by
  have raised := raise_grows (lossCode f) noInst 0 (setFeed f { feedOf s f with present := false, lost := true, mosfet := false, volts := volts } s)
  refine (Grows.of_eq (setFeed_faults _ _ _)).trans (raised.trans ?_)
  unfold loseFeed
  exact .ite (.of_eq (setFeed_faults _ _ _)) (.refl _)

theorem bothFeedsLost_run {s : State} {f : Feed} {volts : Q} {heldUs : Nat} (j : feedsJudged s = true) (ship : s.sup.ship ≠ .falling) (v : volts < 11 / 2) (k : 20 ≤ heldUs) (o : (feedOf s f.other).present = false) (h : s.sup.holdup = false) :
    exec (.bothFeedsLost f volts heldUs) s = .next (bothLost (loseFeed f volts s)) := if_pos ⟨lossJudged_of j ship, v, k, o, h⟩

/-- The clause on the loss of both feeds. -/
theorem bothFeedsLost_clause (s : State) (f : Feed) (volts : Q) (heldUs : Nat) (j : feedsJudged s = true) (ship : s.sup.ship ≠ .falling) (v : volts < 11 / 2) (k : 20 ≤ heldUs) (o : (feedOf s f.other).present = false) (h : s.sup.holdup = false) (r : s.inReset = false) (d : s.lks.dead = false) :
    Answers (exec (.bothFeedsLost f volts heldUs) s) fun t =>
      t.sys.mode = .safe ∧ active 0x0014 noInst t = true ∧ t.saf.held = true ∧ t.saf.lvC = false ∧ t.saf.lvP = false ∧
      feedOf t f = { feedOf s f with present := false, lost := true, mosfet := false, volts := volts } ∧
      t.sup = { (setFeed f (feedOf t f) s).sup with biasA := false, biasB := false, ifaces := false, holdup := true, ship := if s.sup.ship = .writes ∨ s.sup.ship = .record then .none else s.sup.ship } ∧
      t.sys.readyPin = false ∧ t.sys.faultPin = true ∧ (∀ c : Chan, c.val < 29 → (t.gd.ch.get c).out ≠ .on) ∧ (∀ x, (t.ss.get x).st < 2) ∧ Grows s t ∧
      t.flash = s.flash ∧ t.otp = s.otp ∧ t.cat = s.cat ∧ t.ka = s.ka := by
  obtain ⟨off, shipped⟩ := (feedsJudged_iff s).1 j
  have none : s.noSafe = false := by
    unfold State.noSafe
    rw [r, d, decide_eq_false (not_or.2 ⟨off, shipped⟩)]
    rfl
  obtain ⟨sup, noSafe, kept⟩ := loseFeed_last_keeps (f := f) volts o
  have grows := (loseFeed_grows f volts s).trans (bothLost_grows _)
  have same := loseFeed_last (f := f) volts o
  obtain ⟨flashOf, otpOf, catOf, kaOf⟩ : (loseFeed f volts s).flash = s.flash ∧ (loseFeed f volts s).otp = s.otp ∧ (loseFeed f volts s).cat = s.cat ∧ (loseFeed f volts s).ka = s.ka := by
    rw [same]
    exact setFeed_stored _ _ _
  refine ⟨_, bothFeedsLost_run j ship v k o h, ?_⟩
  generalize loseFeed f volts s = u at sup noSafe kept grows flashOf otpOf catOf kaOf
  obtain ⟨pinsOf, supOf⟩ := bothLost_enters (noSafe.trans none) (kept ▸ ship)
  obtain ⟨mode, ready, fault⟩ := holdUpOff_safePins pinsOf
  have act := bothLost_active u
  obtain ⟨flash, otp, cat, ka⟩ := bothLost_stored u
  rw [bothLost_eq] at act flash otp cat ka grows ⊢
  generalize safeByF4 (raise 0x0014 noInst 0 u) = w at *
  have after := holdUpOff_supply w
  rw [supOf, sup] at after
  have own : feedOf (holdUpOff w) f = { feedOf s f with present := false, lost := true, mosfet := false, volts := volts } := by
    cases f <;> simp [feedOf, after, setFeed]
  rw [own, holdUpOff_saf]
  refine ⟨mode, act, rfl, rfl, rfl, rfl, ?_, ready, fault, fun c h => holdUpOff_off w h, holdUpOff_freewheels w, grows, flash.trans flashOf, otp.trans otpOf, cat.trans catOf, ka.trans kaOf⟩
  rw [after, setFeed_ship]

/-- The clause on the loss of both feeds while no SAFE is entered. -/
theorem bothFeedsLostHeld_clause (s : State) (f : Feed) (volts : Q) (heldUs : Nat) (j : feedsJudged s = true) (ship : s.sup.ship ≠ .falling) (v : volts < 11 / 2) (k : 20 ≤ heldUs) (o : (feedOf s f.other).present = false) (h : s.sup.holdup = false) (r : s.inReset = true ∨ s.lks.dead = true) :
    Answers (exec (.bothFeedsLost f volts heldUs) s) fun t =>
      t.sys.mode = s.sys.mode ∧ active 0x0014 noInst t = true ∧ t.saf.held = true ∧ t.sup.holdup = true ∧ t.sup.biasA = false ∧ t.sup.biasB = false ∧ t.sup.ifaces = false ∧ (∀ c : Chan, c.val < 29 → (t.gd.ch.get c).out ≠ .on) ∧ Grows s t := by
  obtain ⟨-, noSafe, -⟩ := loseFeed_last_keeps (f := f) volts o
  have mode := loseFeed_mode f volts s
  have grows := (loseFeed_grows f volts s).trans (bothLost_grows _)
  refine ⟨_, bothFeedsLost_run j ship v k o h, ?_⟩
  generalize loseFeed f volts s = u at noSafe mode grows
  obtain ⟨-, modeOf⟩ := bothLost_held (noSafe.trans ((noSafe_iff s).2 (.inr r)))
  have act := bothLost_active u
  rw [bothLost_eq] at act grows ⊢
  generalize safeByF4 (raise 0x0014 noInst 0 u) = w at *
  have after := holdUpOff_supply w
  rw [holdUpOff_mode, holdUpOff_saf, after]
  exact ⟨modeOf.trans mode, act, rfl, rfl, rfl, rfl, rfl, fun c h => holdUpOff_off w h, grows⟩

/-! ## A feed that returns (R91) -/

/-- The end of the hold-up state, with the bias drive. -/
def biasEnd (holdVolts : Q) (s : State) : State :=
  let s := measureHold holdVolts s
  let s := { s with sup := { s.sup with holdup := false } }
  if s.sys.mode = .accession ∧ s.sup.step < 6 then s else startBias s
/-- The count of unwritten operations taken back (log entry 42). -/
def writesEnd (s : State) : State := if s.sys.mode = .accession then s else { s with ka := { s.ka with lostWrites := 0 } }
/-- The interfaces of a Catalogue or of recovery. -/
def ifacesEnd (s : State) : State := if s.cat.locked = true ∨ s.cat.recovery = true then { s with sup := { s.sup with ifaces := true } } else s
/-- The permits and the repeated handshakes of a Catalogue. -/
def permitsEnd (s : State) : State :=
  if s.cat.locked = false then s
  else { s with saf := { s.saf with held := false, lvC := !s.lvc.f3Stop, lvP := !s.lvc.f3Stop },
                gd := { s.gd with ch := s.gd.ch.map (fun x => { x with hsOk := false }), hsFailed := [] } }
/-- What the return of a feed restores, once the faults are cleared. -/
def holdUpEnd (holdVolts : Q) (s : State) : State := permitsEnd (ifacesEnd (writesEnd (biasEnd holdVolts s)))

theorem biasEnd_eq (v : Q) (s : State) : biasEnd v s = { s with sup := { (measureHold v s).sup with
    holdup := false,
    biasA := if s.xtalOk = true ∧ (s.sys.mode = .accession → 6 ≤ s.sup.step) then !s.sup.biasStopA else s.sup.biasA,
    biasB := if s.xtalOk = true ∧ (s.sys.mode = .accession → 6 ≤ s.sup.step) then !s.sup.biasStopB else s.sup.biasB } } := by
  have start : startBias { measureHold v s with sup := { (measureHold v s).sup with holdup := false } } = if s.xtalOk = true
      then { s with sup := { (measureHold v s).sup with holdup := false, biasA := !s.sup.biasStopA, biasB := !s.sup.biasStopB } }
      else { s with sup := { (measureHold v s).sup with holdup := false } } := by
    by_cases x : s.xtalOk = true
    · rw [if_pos x]
      exact if_pos ⟨x, rfl⟩
    · rw [if_neg x]
      exact if_neg (fun k => x k.1)
  have late : (s.sys.mode = .accession → 6 ≤ s.sup.step) ↔ ¬(s.sys.mode = .accession ∧ s.sup.step < 6) := by
    rw [not_and, not_lt]
  unfold biasEnd
  dsimp only
  rw [start]
  simp only [late]
  by_cases early : s.sys.mode = .accession ∧ s.sup.step < 6
  · refine (if_pos early).trans ?_
    rw [if_neg (fun k => k.2 early), if_neg (fun k => k.2 early)]
    rfl
  · refine (if_neg early).trans ?_
    by_cases x : s.xtalOk = true
    · rw [if_pos x, if_pos ⟨x, early⟩, if_pos ⟨x, early⟩]
    · rw [if_neg x, if_neg (fun k => x k.1), if_neg (fun k => x k.1)]
      rfl
theorem writesEnd_eq (s : State) : writesEnd s = { s with ka := if s.sys.mode = .accession then s.ka else { s.ka with lostWrites := 0 } } := by
  unfold writesEnd
  split <;> rfl
theorem ifacesEnd_eq (s : State) : ifacesEnd s = { s with sup := { s.sup with ifaces := s.sup.ifaces || s.cat.locked || s.cat.recovery } } := by
  unfold ifacesEnd
  split
  next on => rw [Bool.or_assoc, show (s.cat.locked || s.cat.recovery) = true from (Bool.or_eq_true _ _).mpr on, Bool.or_true]
  next off =>
    obtain ⟨l, r⟩ := not_or.1 off
    rw [Bool.eq_false_iff.2 l, Bool.eq_false_iff.2 r, Bool.or_false, Bool.or_false]
theorem permitsEnd_only (s : State) : permitsEnd s = { s with saf := (permitsEnd s).saf, gd := (permitsEnd s).gd } := by
  unfold permitsEnd
  split <;> rfl

/-- Before the permits, the return of a feed writes the supply and the KA register alone. -/
theorem holdUpEnd_eq (v : Q) (s : State) : holdUpEnd v s = permitsEnd { s with
    ka := if s.sys.mode = .accession then s.ka else { s.ka with lostWrites := 0 },
    sup := { (measureHold v s).sup with
      holdup := false, ifaces := s.sup.ifaces || s.cat.locked || s.cat.recovery,
      biasA := if s.xtalOk = true ∧ (s.sys.mode = .accession → 6 ≤ s.sup.step) then !s.sup.biasStopA else s.sup.biasA,
      biasB := if s.xtalOk = true ∧ (s.sys.mode = .accession → 6 ≤ s.sup.step) then !s.sup.biasStopB else s.sup.biasB } } := by
  unfold holdUpEnd
  rw [biasEnd_eq, writesEnd_eq, ifacesEnd_eq]
  rfl

theorem feedReturn_run {s : State} {f : Feed} {volts holdVolts : Q} {heldUs : Nat} (h : s.sup.holdup = true) (v : 29 / 5 < volts) (k : 1000 ≤ heldUs) (w : 5 ≤ holdVolts) :
    exec (.feedReturnInHoldup f volts holdVolts heldUs) s = .next (holdUpEnd holdVolts (clearF 0x0014 noInst (clearF (lossCode f) noInst
      (setFeed f { feedOf s f with present := true, lost := false, mosfet := !(feedOf s f).ov || !((feedOf s f.other).present && !(feedOf s f.other).ov), volts := volts } s)))) := by
  refine Eq.trans (if_pos ⟨h, v, k, w⟩) ?_
  unfold holdUpEnd permitsEnd ifacesEnd writesEnd biasEnd mayConduct
  dsimp only
  split_ifs <;> rfl

theorem holdUpEnd_only (v : Q) (s : State) : holdUpEnd v s = { s with sup := (holdUpEnd v s).sup, ka := (holdUpEnd v s).ka, saf := (holdUpEnd v s).saf, gd := (holdUpEnd v s).gd } := by
  rw [holdUpEnd_eq, permitsEnd_only]
theorem holdUpEnd_supply (v : Q) (s : State) : (holdUpEnd v s).sup = { (measureHold v s).sup with
    holdup := false, ifaces := s.sup.ifaces || s.cat.locked || s.cat.recovery,
    biasA := if s.xtalOk = true ∧ (s.sys.mode = .accession → 6 ≤ s.sup.step) then !s.sup.biasStopA else s.sup.biasA,
    biasB := if s.xtalOk = true ∧ (s.sys.mode = .accession → 6 ≤ s.sup.step) then !s.sup.biasStopB else s.sup.biasB } := by
  rw [holdUpEnd_eq, permitsEnd_only]
theorem holdUpEnd_ka (v : Q) (s : State) : (holdUpEnd v s).ka = if s.sys.mode = .accession then s.ka else { s.ka with lostWrites := 0 } := by
  rw [holdUpEnd_eq, permitsEnd_only]
theorem holdUpEnd_loaded (v : Q) {s : State} (h : s.cat.locked = true) :
    (holdUpEnd v s).saf = { s.saf with held := false, lvC := !s.lvc.f3Stop, lvP := !s.lvc.f3Stop } ∧
      (holdUpEnd v s).gd = { s.gd with ch := s.gd.ch.map (fun x => { x with hsOk := false }), hsFailed := [] } := by
  rw [holdUpEnd_eq]
  unfold permitsEnd
  dsimp only
  rw [if_neg (by rw [h]; decide)]
  exact ⟨rfl, rfl⟩
theorem holdUpEnd_empty (v : Q) {s : State} (h : s.cat.locked = false) : (holdUpEnd v s).saf = s.saf ∧ (holdUpEnd v s).gd = s.gd := by
  rw [holdUpEnd_eq]
  unfold permitsEnd
  dsimp only
  rw [if_pos h]
  exact ⟨rfl, rfl⟩

/-- What the fields that the return of a feed reads are through the feed and the collector. -/
theorem feed_reads {f : Feed} {x : FeedSt} {s u : State} (h : SameButFaults (setFeed f x s) u) :
    u.sys.mode = s.sys.mode ∧ u.xtalOk = s.xtalOk ∧ u.cat = s.cat ∧ u.ka = s.ka ∧ u.saf = s.saf ∧ u.lvc = s.lvc ∧ u.gd = s.gd := by
  rw [h]
  cases f <;> exact ⟨rfl, rfl, rfl, rfl, rfl, rfl, rfl⟩

/-- A feed that returns keeps what the collector, the supply, the KA register, the permits and the gate drive do not name. -/
theorem holdUpEnd_same {f : Feed} {x : FeedSt} (v : Q) {s u : State} (h : SameButFaults (setFeed f x s) u) :
    SameButFaults { s with sup := (holdUpEnd v u).sup, ka := (holdUpEnd v u).ka, saf := (holdUpEnd v u).saf, gd := (holdUpEnd v u).gd } (holdUpEnd v u) := by
  have only := holdUpEnd_only v u
  unfold SameButFaults at h ⊢
  generalize holdUpEnd v u = t at only ⊢
  generalize t.sup = sup, t.ka = ka, t.saf = saf, t.gd = gd at only ⊢
  subst only
  dsimp only
  generalize u.sys.readyPin = ready, u.sys.faultPin = fault, u.faults = faults, u.log = log, u.uds.dtcClr = clr at h ⊢
  subst h
  cases f <;> rfl

/-- The clause on a feed that returns in hold-up. -/
theorem feedReturn_clause (s : State) (f : Feed) (volts holdVolts : Q) (heldUs : Nat) (h : s.sup.holdup = true) (v : 29 / 5 < volts) (k : 1000 ≤ heldUs) (w : 5 ≤ holdVolts) :
    Answers (exec (.feedReturnInHoldup f volts holdVolts heldUs) s) fun t =>
      active 0x0014 noInst t = false ∧ active (lossCode f) noInst t = false ∧ t.ka = (if s.sys.mode = .accession then s.ka else { s.ka with lostWrites := 0 }) ∧
      t.sup = { (measureHold holdVolts (setFeed f { feedOf s f with present := true, lost := false, mosfet := !(feedOf s f).ov || !((feedOf s f.other).present && !(feedOf s f.other).ov), volts := volts } s)).sup with
        holdup := false, ifaces := s.sup.ifaces || s.cat.locked || s.cat.recovery, biasA := if s.xtalOk = true ∧ (s.sys.mode = .accession → 6 ≤ s.sup.step) then !s.sup.biasStopA else s.sup.biasA, biasB := if s.xtalOk = true ∧ (s.sys.mode = .accession → 6 ≤ s.sup.step) then !s.sup.biasStopB else s.sup.biasB } ∧
      (s.cat.locked = true → t.saf = { s.saf with held := false, lvC := !s.lvc.f3Stop, lvP := !s.lvc.f3Stop } ∧ t.gd = { s.gd with ch := t.gd.ch, hsFailed := [] } ∧ ∀ c, t.gd.ch.get c = { s.gd.ch.get c with hsOk := false }) ∧
      (s.cat.locked = false → t.saf = s.saf ∧ t.gd = s.gd) ∧
      SameButFaults { s with sup := t.sup, ka := t.ka, saf := t.saf, gd := t.gd } t := by
  refine ⟨_, feedReturn_run h v k w, ?_⟩
  generalize ({ feedOf s f with present := true, lost := false, mosfet := !(feedOf s f).ov || !((feedOf s f.other).present && !(feedOf s f.other).ov), volts := volts } : FeedSt) = x
  have same := (clearF_same (lossCode f) noInst (setFeed f x s)).trans (clearF_same 0x0014 noInst (clearF (lossCode f) noInst (setFeed f x s)))
  have hold : active 0x0014 noInst (clearF 0x0014 noInst (clearF (lossCode f) noInst (setFeed f x s))) = false := clearF_inactive _ _ _ (by decide)
  have lost : active (lossCode f) noInst (clearF 0x0014 noInst (clearF (lossCode f) noInst (setFeed f x s))) = false := by
    rw [clearF_other _ _ _ _ _ (lossCode_ne_drop f) (by cases f <;> decide)]
    exact clearF_inactive _ _ _ (lossCode_ne_drop f)
  generalize clearF 0x0014 noInst (clearF (lossCode f) noInst (setFeed f x s)) = u at same hold lost ⊢
  obtain ⟨mode, xtal, cat, ka, saf, lvc, gd⟩ := feed_reads same
  have faults : (holdUpEnd holdVolts u).faults = u.faults := by rw [holdUpEnd_only]
  refine ⟨(active_of faults _ _).trans hold, (active_of faults _ _).trans lost, ?_, ?_, fun l => ?_, fun l => ?_, holdUpEnd_same holdVolts same⟩
  · rw [holdUpEnd_ka, mode, ka]
  · rw [holdUpEnd_supply, mode, xtal, cat]
    unfold measureHold
    rw [same.supply]
    cases f <;> rfl
  · obtain ⟨safOf, gdOf⟩ := holdUpEnd_loaded holdVolts (s := u) (cat ▸ l)
    rw [safOf, gdOf, saf, lvc, gd]
    refine ⟨rfl, rfl, fun c => ?_⟩
    rw [Tab.get_map]
  · obtain ⟨safOf, gdOf⟩ := holdUpEnd_empty holdVolts (s := u) (cat ▸ l)
    exact ⟨safOf.trans saf, gdOf.trans gd⟩

/-- The clause on HOLD below V_min. -/
theorem holdBelow_clause (s : State) (holdVolts : Q) (off : s.sys.mode ≠ .off) (ship : s.sys.mode ≠ .ship) (v : holdVolts < 5) :
    Answers (exec (.holdBelowVmin holdVolts) s) fun t =>
      t.sys.mode = .off ∧ t.sys.prev = s.sys.mode ∧ t.ka = { s.ka with lostWrites := max s.ka.lostWrites (min (pendingOps s) 255) } ∧
      t.flash = endedFlash s ∧ OtpStays s t ∧ t.ops = { waiting := [], running := none, orphan := false } ∧ t.sup.lvd = true ∧ t.faults = [] ∧ t.cat.params = [] ∧ t.pending = s.pending := by
  obtain ⟨mode, prev, lvd, -, -, faults, params, ops, flash, otp, ka, pending⟩ := unpowered_from .off { s with ka := { s.ka with lostWrites := max s.ka.lostWrites (min (pendingOps s) 255) } }
  exact ⟨_, if_pos ⟨off, ship, v⟩, mode, prev, ka, flash.trans (endedFlash_congr rfl rfl rfl), otp, ops, lvd, faults, params, pending⟩

/-- The clause on a rail that leaves its window. -/
theorem railReset_clause (s : State) (r : Rail) (volts : Q) (j : feedsJudged s = true) (out : railOut r volts = true) :
    Answers (exec (.railMonitorReset r volts) s) fun t =>
      t.sys.mode = .accession ∧ t.sup.cause = (if s.sup.nRst = false ∨ s.sup.railsOut ≠ [] then StartCause.both { StartCause.none with rail := true } s.sup.cause else { StartCause.none with rail := true }) ∧ t.saf.held = true ∧ r ∈ t.sup.railsOut ∧
      t.faults = keptFaults s ∧ t.cat.params = [] ∧ t.flash = endedFlash s ∧ t.otp = s.otp ∧ t.ka = s.ka ∧ t.pending = s.pending := by
  obtain ⟨off, ship⟩ := (feedsJudged_iff s).1 j
  obtain ⟨mode, -, -, cause, held, faults, params, -, -, -, flash, otp, ka, pending⟩ := resetN9_from { StartCause.none with rail := true } s off ship
  refine ⟨_, if_pos ⟨j, out⟩, mode, cause, held, ?_, faults, params, flash, otp, ka, pending⟩
  dsimp only
  split
  next listed => exact List.contains_iff_mem.1 listed
  next => exact List.mem_cons_self

/-- The clause on a rail that is back inside. -/
theorem railRelease_clause (s : State) (r : Rail) (volts : Q) (out : railOut r volts = false) (m : r ∈ s.sup.railsOut) :
    Answers (exec (.railMonitorRelease r volts) s) fun t =>
      r ∉ t.sup.railsOut ∧ (∀ q, q ≠ r → (q ∈ t.sup.railsOut ↔ q ∈ s.sup.railsOut)) ∧
      t = { s with sup := { s.sup with railsOut := t.sup.railsOut, step := if t.sup.railsOut = [] ∧ s.sup.nRst = true then 3 else s.sup.step } } := by
  refine ⟨_, if_pos ⟨out, List.contains_iff_mem.2 m⟩, fun k => ?_, fun q n => ?_, rfl⟩
  · exact of_decide_eq_true (List.mem_filter.1 k).2 rfl
  · exact ⟨fun k => (List.mem_filter.1 k).1, fun k => List.mem_filter.2 ⟨k, decide_eq_true n⟩⟩

/-- Settles O7, clause by clause: the loss of both feeds with and without SAFE, the return of a feed, HOLD below V_min and the rail monitors. -/
theorem holdUp : Obligations.HoldUp := by
  unfold Obligations.HoldUp
  exact ⟨bothFeedsLost_clause, bothFeedsLostHeld_clause, feedReturn_clause, holdBelow_clause, railReset_clause, railRelease_clause⟩

end Sys2Proof.Machine
end

section
/-! SUPPORT. The class F4 faults that are active outlast a fault of class F3 and what it stops; the fault of a handshake
(03_supply_startup.md, R70; 22_status_faults_log.md, R532 to R537). -/

namespace Sys2Proof.Machine

/-! ## The active faults of class F4 -/

/-- A class F4 fault is active in `t` exactly if one is in `s`. -/
def KeepsF4 (s t : State) : Prop := activeClass 4 t = activeClass 4 s

theorem KeepsF4.refl (s : State) : KeepsF4 s s := rfl
theorem KeepsF4.trans {s t u : State} (a : KeepsF4 s t) (b : KeepsF4 t u) : KeepsF4 s u := Eq.trans b a
theorem KeepsF4.of_eq {s t : State} (h : t.faults = s.faults) : KeepsF4 s t := by
  unfold KeepsF4 activeClass
  rw [h]
theorem KeepsF4.ite {s a b : State} {p : Prop} [Decidable p] (x : KeepsF4 s a) (y : KeepsF4 s b) : KeepsF4 s (if p then a else b) := by split <;> assumption

theorem againFault_class (c i cls : Nat) (l : List ActiveFault) : (againFault c i l).any (fun f => decide (f.cls = cls)) = l.any (fun f => decide (f.cls = cls)) := by
  induction l with
  | nil => rfl
  | cons f l ih =>
    unfold againFault
    split
    · rfl
    · rw [List.any_cons, List.any_cons, ih]
theorem takeSupp_faults (c i : Nat) (s : State) : (takeSupp c i s).2.faults = s.faults := by
  unfold takeSupp
  split <;> rfl
theorem raiseEntry_keepsF4 (b c i m : Nat) (s : State) (h : classOf s c i ≠ 4) : KeepsF4 s (raiseEntry b c i m s).2 := by
  unfold raiseEntry
  split
  · exact againFault_class c i 4 s.faults
  · unfold KeepsF4 activeClass
    rw [storeRec_faults]
    dsimp only
    rw [List.any_cons, decide_eq_false h, Bool.false_or, takeSupp_faults]
theorem noteDrop_keepsF4 (r : Bool × State) : KeepsF4 r.2 (noteDrop r) := by
  unfold noteDrop
  refine KeepsF4.trans ?_ (.of_eq (pins_faults _))
  exact .ite (raiseEntry_keepsF4 0 0x001A noInst 0 r.2 (by simp [classOf, codesF0])) (.refl _)
theorem raiseBaseBy_keepsF4 (b c i m : Nat) (s : State) (h : classOf s c i ≠ 4) : KeepsF4 s (raiseBaseBy b c i m s) :=
  (raiseEntry_keepsF4 b c i m s h).trans (noteDrop_keepsF4 _)
theorem raiseBase_keepsF4 (c i m : Nat) (s : State) (h : classOf s c i ≠ 4) : KeepsF4 s (raiseBase c i m s) := raiseBaseBy_keepsF4 _ c i m s h

/-! ## What a fault of class F3 stops -/

theorem lvCharge_keepsF4 (v : Q) (s : State) : KeepsF4 s (lvCharge v s) := by
  unfold lvCharge lvcWrite
  exact .ite (KeepsF4.trans (.of_eq rfl) (raiseBase_keepsF4 0x3808 noInst 0 _ (by simp [classOf, codesF0]))) (.of_eq rfl)
theorem sessionOff_keepsF4 (s : State) : KeepsF4 s (sessionOff s) := by
  unfold sessionOff
  extract_lets u _ v
  have charge : KeepsF4 s u := .ite (lvCharge_keepsF4 _ s) (.refl s)
  have role : KeepsF4 u v := .ite (.of_eq rfl) (.refl u)
  exact (charge.trans role).trans (.of_eq rfl)
theorem sessionOffBy_keepsF4 (c : Nat) (s : State) : KeepsF4 s (sessionOffBy c s) := by
  unfold sessionOffBy
  exact .ite (KeepsF4.trans (t := sessionOff { s with chg := { s.chg with roleCmd := false } }) (sessionOff_keepsF4 _) (.of_eq rfl)) (sessionOff_keepsF4 s)
theorem sessionFailBy_keepsF4 (c : Nat) (s : State) : KeepsF4 s (sessionFailBy c s) := .ite (.refl s) ((sessionOffBy_keepsF4 c s).trans (.of_eq rfl))
theorem lastPhase_keepsF4 (b : Nat) (s : State) : KeepsF4 s (lastPhase b s) :=
  .ite ((raiseBase_keepsF4 0x3809 noInst 0 s (by simp [classOf, codesF0, codesF1, codesF2, codesF4])).trans (.of_eq (stopBuck_faults _ _))) (.refl s)

/-- The end of a session that no code of its own ends. -/
theorem chgOnFault_handshake (s : State) : chgOnFault 0x0017 s = sessionFailBy 0x0017 s := by
  unfold chgOnFault
  split
  next idle => exact (if_pos idle).symm
  next => rfl
theorem stageFault_keepsF4 (g : Stage) (s : State) : KeepsF4 s (stageFault 0x0017 g s) := by
  have charger : KeepsF4 s (chgOnFault 0x0017 (stopCharger s)) := by
    rw [chgOnFault_handshake]
    exact (KeepsF4.of_eq (stopCharger_faults s)).trans (sessionFailBy_keepsF4 _ _)
  have converter : KeepsF4 s (stopLv true s) := .of_eq (stopLv_faults true s)
  cases g with
  | setA => exact .of_eq (stopSetF3_faults _ _)
  | setB => exact .of_eq (stopSetF3_faults _ _)
  | chopper => exact .of_eq (stopGroup_faults _ _)
  | pfc => exact charger
  | dab => exact charger
  | dcx => exact converter
  | sr => exact converter
  | buck n => exact (KeepsF4.of_eq (stopPhase_faults n s)).trans (lastPhase_keepsF4 _ _)
  | park => exact .of_eq (actHalt_faults _ _)
  | shift => exact .of_eq (actHalt_faults _ _)

/-! ## The fault of a handshake (R70) -/

theorem classOf_handshake (i : Nat) (s : State) : classOf s 0x0017 i = 3 := by simp [classOf, codesF0, codesF1, codesF2, codesF4]
theorem reactF3_handshake (i : Nat) (s : State) : reactF3 0x0017 i s = stageFault 0x0017 (stageOf (chanAt i)) s := rfl
theorem raise_handshake_keepsF4 (i : Nat) (s : State) : KeepsF4 s (raise 0x0017 i 0 s) := by
  have base := raiseBaseBy_keepsF4 (0x0017 / 2048) 0x0017 i 0 s (by rw [classOf_handshake]; decide)
  have react (u : State) : KeepsF4 u (reactF3 0x0017 i u) := by
    rw [reactF3_handshake]
    exact stageFault_keepsF4 _ u
  unfold raise raiseBy
  dsimp only
  rw [classOf_handshake]
  exact .ite (base.trans ((react _).trans (.of_eq (pins_faults _)))) base

/-- A fault for each of some channels. -/
def handshakeFaults (l : List Chan) (s : State) : State := l.foldl (fun s c => raise 0x0017 c.val 0 s) s

theorem handshakeFaults_grows (l : List Chan) (s : State) : Grows s (handshakeFaults l s) := by
  induction l generalizing s with
  | nil => exact .refl s
  | cons c l ih => exact (raise_grows _ _ _ s).trans (ih _)
theorem handshakeFaults_active {l : List Chan} {c : Chan} (h : c ∈ l) (s : State) : active 0x0017 c.val (handshakeFaults l s) = true := by
  induction l generalizing s with
  | nil => cases h
  | cons d l ih =>
    rcases List.mem_cons.1 h with e | m
    · subst e
      exact handshakeFaults_grows l _ _ _ (raise_active _ _ _ _)
    · exact ih m _
theorem handshakeFaults_mode (l : List Chan) (s : State) : (handshakeFaults l s).sys.mode = s.sys.mode :=
  mode_foldl (fun s (c : Chan) => raise 0x0017 c.val 0 s) (fun s c => raise_mode 0x0017 c.val 0 s (fun u => by rw [classOf_handshake]; decide)) l s
theorem handshakeFaults_flags (l : List Chan) (s : State) : (handshakeFaults l s).gd.flags = s.gd.flags :=
  flags_foldl (fun s (c : Chan) => raise 0x0017 c.val 0 s) (fun s c => raise_flags 0x0017 c.val 0 s) l s
theorem handshakeFaults_keepsF4 (l : List Chan) (s : State) : KeepsF4 s (handshakeFaults l s) := by
  induction l generalizing s with
  | nil => exact .refl s
  | cons c l ih => exact (raise_handshake_keepsF4 c.val s).trans (ih _)

end Sys2Proof.Machine
end

section
/-! Bias limiting, power-up, the crystal and the judgement of the handshakes. -/

namespace Sys2Proof.Machine

/-- The clause on an on-time that the shunt ends. -/
theorem biasCurrent_clause (s : State) (bank : Bank) (sw : Fin 2) (shuntVolts : Q) (on : (match bank with | .a => s.sup.biasA | .b => s.sup.biasB) = true) (v : 1 / 5 < shuntVolts) :
    Answers (exec (.biasCurrentLimit bank sw shuntVolts) s) fun t => (bank, sw) ∈ t.sup.biasCut ∧
      (∀ side n, side ≠ bank → ((side, n) ∈ t.sup.biasCut ↔ (side, n) ∈ s.sup.biasCut)) ∧ t = { s with sup := { s.sup with biasCut := t.sup.biasCut } } := by
  refine ⟨{ s with sup := { s.sup with biasCut := (bank, sw) :: s.sup.biasCut.filter (fun p => decide (p.1 ≠ bank)) } }, ?_, List.mem_cons_self, fun side n k => ?_, rfl⟩
  · cases bank
    case a => exact if_pos ⟨on, v⟩
    case b => exact if_pos ⟨on, v⟩
  · have other : (side, n) ≠ (bank, sw) := fun e => k (congrArg Prod.fst e)
    rw [List.mem_cons, or_iff_right other]
    exact ⟨fun m => (List.mem_filter.1 m).1, fun m => List.mem_filter.2 ⟨m, decide_eq_true k⟩⟩

theorem classOf_bankA (s : State) : classOf s 0x0015 noInst = 4 := by simp [classOf, codesF0, codesF1, codesF2, codesF4]
theorem classOf_bankB (s : State) : classOf s 0x0016 noInst = 3 := by simp [classOf, codesF0, codesF1, codesF2, codesF4]

/-- A bank that R68 has stopped stays off while a ship entry is given up. -/
theorem shipAbandon_biasA {s : State} (off : s.sup.biasA = false) (stop : s.sup.biasStopA = true) : (shipAbandon s).sup.biasA = false := by
  have start (u : State) (off : u.sup.biasA = false) (stop : u.sup.biasStopA = true) : (startBias u).sup.biasA = false := by
    unfold startBias
    split
    · dsimp only
      rw [stop]
      rfl
    · exact off
  unfold shipAbandon
  dsimp only
  split
  · exact start _ off stop
  · split <;> exact off

/-- The clause on bank A. -/
theorem bankA_clause (s : State) (limitUs : Nat) (k : 1000 ≤ limitUs) (on : s.sup.biasA = true) :
    Answers (exec (.biasBankStop .a limitUs) s) fun t => active 0x0015 noInst t = true ∧ (∀ c : Chan, c.val < 13 → (t.gd.ch.get c).out ≠ .on) ∧
      t.sup.biasA = false ∧ t.beyond = { s with sup := { s.sup with biasA := false, biasStopA := true } }.beyond ∧ ∀ x, (t.ss.get x).st < 2 := by
  generalize hu : ({ s with sup := { s.sup with biasA := false, biasStopA := true } } : State) = u
  have run : exec (.biasBankStop .a limitUs) s = .next (ascLost (bankOff 0 13 (raise 0x0015 noInst 0 u))) := by
    show execBiasBankStop .a limitUs s = _
    unfold execBiasBankStop
    rw [if_neg (not_lt.2 k)]
    dsimp only
    rw [if_neg (by rw [on]; decide), hu]
  refine ⟨_, run, ?_, fun c h => ascLost_offAt _ c (bankOff_off 0 13 _ (Nat.zero_le _) (by omega)), ?_, ?_, ascLost_freewheels _⟩
  · exact (active_of ((ascLost_faults _).trans (bankOff_faults _ _ _)) _ _).trans (raise_active _ _ _ _)
  · rw [ascLost_only, bankOff_only]
    dsimp only
    rcases raise_f4_supply 0x0015 noInst 0 u classOf_bankA with e | e
    · rw [e, ← hu]
    · rw [e]
      exact shipAbandon_biasA (by rw [← hu]) (by rw [← hu])
  · rw [ascLost_beyond, bankOff_beyond, raise_beyond 0x0015 noInst 0 u]

/-- The charger and the LV converter stop with bank B (R68). -/
theorem reactF3_bankB (s : State) : reactF3 0x0016 noInst s = stopLv true (chgOnFault 0x0016 (stopCharger s)) := rfl

theorem chgOnFault_bankB_supply (s : State) : (chgOnFault 0x0016 s).sup = s.sup := by
  unfold chgOnFault sessionFailBy
  refine supply_ite rfl ?_
  rw [if_neg (by decide), if_neg (by decide)]
  exact supply_ite rfl (sessionOffBy_supply _ s)
theorem raise_bankB_supply (s : State) : (raise 0x0016 noInst 0 s).sup = s.sup := by
  have base := (raiseBaseBy_same (0x0016 / 2048) 0x0016 noInst 0 s).supply
  unfold raise raiseBy
  dsimp only
  split
  · rw [classOf_bankB]
    show (pins (reactF3 0x0016 noInst (raiseBaseBy (0x0016 / 2048) 0x0016 noInst 0 s))).sup = s.sup
    rw [pins_supply, reactF3_bankB, stopLv_supply, chgOnFault_bankB_supply, stopCharger_supply, base]
  · exact base

/-- The clause on bank B. -/
theorem bankB_clause (s : State) (limitUs : Nat) (k : 1000 ≤ limitUs) (on : s.sup.biasB = true) :
    Answers (exec (.biasBankStop .b limitUs) s) fun t => active 0x0016 noInst t = true ∧ t.lvc.dcx = 0 ∧ (∀ c : Chan, 13 ≤ c.val → c.val < 29 → (t.gd.ch.get c).out ≠ .on) ∧
      t.sup.biasB = false ∧ t.beyond = { s with sup := { s.sup with biasB := false, biasStopB := true } }.beyond := by
  generalize hu : ({ s with sup := { s.sup with biasB := false, biasStopB := true } } : State) = u
  have run : exec (.biasBankStop .b limitUs) s = .next (bankOff 13 16 (stopDcx (raise 0x0016 noInst 0 u))) := by
    show execBiasBankStop .b limitUs s = _
    unfold execBiasBankStop
    rw [if_neg (not_lt.2 k)]
    dsimp only
    rw [if_neg (by rw [on]; decide), hu]
  refine ⟨_, run, ?_, ?_, fun c h l => bankOff_off 13 16 _ h (by omega), ?_, ?_⟩
  · exact (active_of ((bankOff_faults _ _ _).trans (stopDcx_faults _)) _ _).trans (raise_active _ _ _ _)
  · rw [bankOff_only, stopDcx_parts]
  · rw [bankOff_only, stopDcx_parts]
    dsimp only
    rw [raise_bankB_supply, ← hu]
  · rw [bankOff_beyond, stopDcx_beyond, raise_beyond 0x0016 noInst 0 u]

/-- The clause on a feed that rises in OFF. -/
theorem powerUp_clause (s : State) (f : Feed) (volts : Q) (off : s.sys.mode = .off) (v : 29 / 5 < volts) :
    Answers (exec (.powerUp f volts true) s) fun t => t.sys.mode = .accession ∧ t.sup.cause = { StartCause.none with power := true } ∧ t.sup.step = 1 ∧
      feedOf t f = { feedOf s f with present := true, mosfet := true, volts := volts } ∧ feedOf t f.other = feedOf s f.other ∧
      t.sup.lvd = s.sup.lvd ∧ t.flash = endedFlash s ∧ t.otp = s.otp ∧ t.ka = s.ka ∧ t.faults = keptFaults s ∧ t.cat.params = [] ∧ t.pending = s.pending := by
  refine ⟨_, if_pos ⟨off, v, rfl⟩, ?_⟩
  cases f <;> exact ⟨rfl, rfl, rfl, rfl, rfl, rfl, rfl, rfl, rfl, rfl, rfl, rfl⟩

/-- The clause on KA that comes into its range. -/
theorem kaFirst_clause (s : State) (kaVolts : Q) (lo : 6 ≤ kaVolts) (hi : kaVolts ≤ 36) :
    exec (.kaFirstApplication kaVolts) s = .next { s with ka := { valid := true, lostWrites := 0, unlockFails := 3, unlockDelay := true, startFail := none }, sup := { s.sup with lvd := true } } :=
  if_pos ⟨lo, hi⟩

/-- The clause on a crystal that is accepted. -/
theorem crystalAccepted_clause (s : State) (minEdges maxEdges windowUs : Nat) (seniorToGnd : Bool) (m : s.sys.mode = .accession) (st : s.sup.step < 4) (n : s.sup.nRst = true) (r : s.sup.railsOut = []) (lo : 70 ≤ minEdges) (hi : maxEdges ≤ 90) (k : 1000 ≤ windowUs) :
    exec (.crystalAccepted minEdges maxEdges windowUs seniorToGnd) s =
      .next { s with mer := { s.mer with xtalAcc := true, ct := 0, ns := 0, senior := seniorToGnd }, sup := { s.sup with step := 4 } } :=
  if_pos ⟨m, st, n, r, lo, hi, k⟩

/-! ## The judgement of the handshakes (R69 step 9, R70) -/

/-- The declared secondaries. -/
def declared (s : State) : List Chan := (chanRange 0 29).filter (fun c => s.chPresent c)
/-- The declared secondaries that do not report. -/
def unreported (reports : List Handshake) (s : State) : List Chan := (declared s).filter (fun c => !reports.any (handshakeOk s c))
/-- Every declared secondary marked by its report. -/
def marked (reports : List Handshake) (s : State) : State := (declared s).foldl (fun u c => u.updCh c (fun x => { x with hsOk := reports.any (handshakeOk s c) })) s
/-- The judgement before its faults. -/
def handshakesJudged (reports : List Handshake) (s : State) : State := { marked reports s with gd := { (marked reports s).gd with hsFailed := unreported reports s } }
/-- Step 9 is reached. -/
def atNine (s : State) : State := { s with sup := { s.sup with step := 9 } }
/-- Step 9 with what follows it (R33, R69). -/
def stepNine (s : State) : State := if activeClass 4 (atNine s) then safeByF4 (atNine s) else enterMode .ready (atNine s)

theorem mem_declared {s : State} {c : Chan} : c ∈ declared s ↔ c.val < 29 ∧ s.chPresent c = true := by
  unfold declared chanRange allChans
  rw [List.mem_filter, List.mem_filter]
  simp

theorem updChs_only (l : List Chan) (f : Chan → GdChan → GdChan) (s : State) : l.foldl (fun u c => u.updCh c (f c)) s = { s with gd := (l.foldl (fun u c => u.updCh c (f c)) s).gd } := by
  induction l generalizing s with
  | nil => rfl
  | cons c l ih =>
    rw [List.foldl_cons]
    generalize hg : (List.foldl (fun u c => u.updCh c (f c)) (s.updCh c (f c)) l).gd = g
    rw [ih, hg, updCh_only]
theorem handshakesJudged_only (reports : List Handshake) (s : State) : handshakesJudged reports s = { s with gd := (handshakesJudged reports s).gd } := by
  unfold handshakesJudged marked
  rw [updChs_only]

/-- A channel's mark is its own report's, and no other channel's changes it. -/
theorem updChs_hsOk (l : List Chan) (ok : Chan → Bool) (s : State) {c : Chan} (h : c ∈ l ∨ (s.gd.ch.get c).hsOk = ok c) :
    ((l.foldl (fun u c => u.updCh c (fun x => { x with hsOk := ok c })) s).gd.ch.get c).hsOk = ok c := by
  induction l generalizing s with
  | nil => exact h.resolve_left List.not_mem_nil
  | cons d l ih =>
    refine ih _ ?_
    rw [updCh_gets]
    by_cases e : c = d
    · rw [if_pos e, e]
      exact .inr rfl
    · rw [if_neg e]
      exact h.imp_left fun m => (List.mem_cons.1 m).resolve_left e

theorem unreported_hsOk {reports : List Handshake} {s : State} {c : Chan} (m : c ∈ declared s) (r : reports.any (handshakeOk s c) = false) : ((handshakesJudged reports s).gd.ch.get c).hsOk = false :=
  (updChs_hsOk (declared s) (fun c => reports.any (handshakeOk s c)) s (.inl m)).trans r

theorem Gd.flags_hsFailed {g h : Gd} (e : g.flags = h.flags) : g.hsFailed = h.hsFailed := congrArg (fun x => x.2.hsFailed) e
theorem Gd.flags_hsOk {g h : Gd} (e : g.flags = h.flags) (c : Chan) : (g.ch.get c).hsOk = (h.ch.get c).hsOk := (congrArg GdChan.hsOk (Gd.flags_get e c) :)

theorem stepNine_safe {s : State} (h : activeClass 4 s = true) : stepNine s = safeByF4 (atNine s) := if_pos h
theorem stepNine_ready {s : State} (h : activeClass 4 s = false) : stepNine s = enterMode .ready (atNine s) := if_neg (fun k => Bool.noConfusion (h.symm.trans k))
theorem stepNine_flags (s : State) : (stepNine s).gd.flags = s.gd.flags := by
  cases h : activeClass 4 s with
  | true => rw [stepNine_safe h, safeByF4_flags]; rfl
  | false => rw [stepNine_ready h, enterMode_flags]; rfl
theorem stepNine_grows (s : State) : Grows s (stepNine s) := by
  have nine : Grows s (atNine s) := .of_eq rfl
  cases h : activeClass 4 s with
  | true => rw [stepNine_safe h]; exact nine.trans (safeByF4_grows _)
  | false => rw [stepNine_ready h]; exact nine.trans (enterMode_grows _ _)
theorem stepNine_beyond (s : State) : (stepNine s).beyond = (atNine s).beyond := by
  cases h : activeClass 4 s with
  | true => rw [stepNine_safe h, safeByF4_beyond]
  | false => rw [stepNine_ready h, enterMode_beyond]
/-- A class F4 fault leads to SAFE, and none to READY. -/
theorem stepNine_mode {s : State} (ns : activeClass 4 s = true → s.noSafe = false) : (stepNine s).sys.mode = if activeClass 4 s then .safe else .ready := by
  cases h : activeClass 4 s with
  | true => rw [stepNine_safe h]; exact (safeByF4_enters (s := atNine s) (ns h)).1
  | false => rw [stepNine_ready h]; exact enterMode_mode _ _

theorem execHandshakeJudgement_eq {s : State} (reports : List Handshake) (l : s.cat.locked = true) (h : s.sys.mode ≠ .accession ∨ 8 ≤ s.sup.step) :
    exec (.handshakeJudgement reports) s = .next (if s.sys.mode = .accession then stepNine (handshakeFaults (unreported reports s) (handshakesJudged reports s)) else handshakeFaults (unreported reports s) (handshakesJudged reports s)) := by
  have due : ¬(s.cat.locked = false ∨ s.sys.mode = .accession ∧ s.sup.step < 8) := by
    rintro (n | ⟨m, st⟩)
    · exact Bool.noConfusion (l.symm.trans n)
    · exact h.elim (fun k => k m) (not_le.2 st)
  have mode : (handshakeFaults (unreported reports s) (handshakesJudged reports s)).sys.mode = s.sys.mode := by rw [handshakeFaults_mode, handshakesJudged_only]
  have run : exec (.handshakeJudgement reports) s = if (handshakeFaults (unreported reports s) (handshakesJudged reports s)).sys.mode = .accession
      then .next (stepNine (handshakeFaults (unreported reports s) (handshakesJudged reports s))) else .next (handshakeFaults (unreported reports s) (handshakesJudged reports s)) := if_neg due
  rw [run, mode]
  split <;> rfl

/-- The clause on a judgement in which every declared secondary reports. -/
theorem handshakesPass_clause (s : State) (reports : List Handshake) (l : s.cat.locked = true) (m : s.sys.mode = .accession) (st : 8 ≤ s.sup.step) (ok : ∀ c : Chan, c.val < 29 → s.chPresent c = true → (reports.any (handshakeOk s c)) = true) (f4 : activeClass 4 s = true → s.inReset = false ∧ s.lks.dead = false) :
    Answers (exec (.handshakeJudgement reports) s) fun t => t.sys.mode = (if activeClass 4 s then .safe else .ready) ∧ t.gd.hsFailed = [] ∧ Grows s t ∧ t.beyond = { s with sup := { s.sup with step := 9 } }.beyond := by
  have none : unreported reports s = [] := by
    refine List.filter_eq_nil_iff.2 fun c k => ?_
    obtain ⟨low, present⟩ := mem_declared.1 k
    rw [ok c low present]
    decide
  have run := execHandshakeJudgement_eq reports l (.inr st)
  rw [if_pos m, none] at run
  have only := handshakesJudged_only reports s
  have failed : (handshakesJudged reports s).gd.hsFailed = [] := none
  refine ⟨_, run, ?_⟩
  show (stepNine (handshakesJudged reports s)).sys.mode = _ ∧ (stepNine (handshakesJudged reports s)).gd.hsFailed = [] ∧ Grows s (stepNine (handshakesJudged reports s)) ∧ (stepNine (handshakesJudged reports s)).beyond = _
  generalize handshakesJudged reports s = u at only failed ⊢
  refine ⟨?_, (Gd.flags_hsFailed (stepNine_flags u)).trans failed, ?_, ?_⟩
  · have faults : activeClass 4 u = activeClass 4 s := by rw [only]; rfl
    have free (k : activeClass 4 u = true) : u.noSafe = false := by
      obtain ⟨reset, dead⟩ := f4 (faults ▸ k)
      rw [only]
      show (decide (s.sys.mode = .off ∨ s.sys.mode = .ship) || s.inReset || s.lks.dead) = false
      rw [m, reset, dead]
      rfl
    rw [stepNine_mode free, faults]
  · exact Grows.trans (.of_eq (by rw [only])) (stepNine_grows u)
  · rw [stepNine_beyond, only]
    rfl

/-- The clause on a declared secondary that does not report. -/
theorem handshakesFail_clause (s : State) (reports : List Handshake) (c : Chan) (l : s.cat.locked = true) (h : s.sys.mode ≠ .accession ∨ 8 ≤ s.sup.step) (low : c.val < 29) (present : s.chPresent c = true) (r : (reports.any (handshakeOk s c)) = false) :
    Answers (exec (.handshakeJudgement reports) s) fun t => active 0x0017 c.val t = true ∧ c ∈ t.gd.hsFailed ∧ (t.gd.ch.get c).hsOk = false ∧ (s.sys.mode = .accession → activeClass 4 s = false → t.sys.mode = .ready) ∧ Grows s t := by
  have decl : c ∈ declared s := mem_declared.2 ⟨low, present⟩
  have bad : c ∈ unreported reports s := List.mem_filter.2 ⟨decl, by rw [r]; rfl⟩
  have failed : c ∈ (handshakesJudged reports s).gd.hsFailed := bad
  have mark := unreported_hsOk decl r
  have faults : (handshakesJudged reports s).faults = s.faults := by rw [handshakesJudged_only]
  refine ⟨_, execHandshakeJudgement_eq reports l h, ?_⟩
  have flags := handshakeFaults_flags (unreported reports s) (handshakesJudged reports s)
  have act := handshakeFaults_active bad (handshakesJudged reports s)
  have grows := (Grows.of_eq faults).trans (handshakeFaults_grows (unreported reports s) (handshakesJudged reports s))
  have keeps := (KeepsF4.of_eq faults).trans (handshakeFaults_keepsF4 (unreported reports s) (handshakesJudged reports s))
  rw [← Gd.flags_hsFailed flags] at failed
  rw [← Gd.flags_hsOk flags c] at mark
  generalize handshakeFaults (unreported reports s) (handshakesJudged reports s) = u at act grows keeps failed mark ⊢
  by_cases m : s.sys.mode = .accession
  · rw [if_pos m]
    refine ⟨stepNine_grows u _ _ act, ?_, ?_, fun _ f4 => ?_, grows.trans (stepNine_grows u)⟩
    · rw [Gd.flags_hsFailed (stepNine_flags u)]
      exact failed
    · rw [Gd.flags_hsOk (stepNine_flags u)]
      exact mark
    · rw [stepNine_ready (Eq.trans keeps f4)]
      exact enterMode_mode _ _
  · rw [if_neg m]
    exact ⟨act, failed, mark, fun k => absurd k m, grows⟩

/-- Settles O8, clause by clause: the limited switch, both banks, the way out of OFF, KA, the crystal and the judgement with and without a
secondary that does not report. -/
theorem biasAndPowerUp : Obligations.BiasAndPowerUp := by
  unfold Obligations.BiasAndPowerUp
  exact ⟨biasCurrent_clause, bankA_clause, bankB_clause, powerUp_clause, kaFirst_clause, crystalAccepted_clause, handshakesPass_clause, handshakesFail_clause⟩

end Sys2Proof.Machine
end

section
/-! SUPPORT. The staging session and the boot descriptor: what a request opens, what a block taken and a block written leave, and what a change of
the descriptor makes due (04_catalogue_accession.md, R97, R113 to R118). -/

namespace Sys2Proof.Machine

/-! ## Requests over UDS (R506) -/

/-- A served request names its path as the tester. -/
def askedBy (p : UPath) (s : State) : State := { s with uds := { s.uds with tester := some p } }

theorem udsServe_asked {p : UPath} {sid lv : Nat} {ss : List Nat} {k : State → State} {s : State} (served : s.udsServed p = true) (nrc : s.udsNrc p sid ss lv = 0) :
    udsServe p sid ss lv k s = k (askedBy p s) := udsServe_ok served nrc

theorem stageOther_owner {s : State} {src : StageSrc} (own : s.cat.stage.src = src) : stageOther s src = false :=
  decide_eq_false (fun k => k.2 own)

/-- With staging enabled, the owner of the session is refused for neither reason (R113, R114). -/
theorem owner_allowed {s : State} {src : StageSrc} (svc : s.svcEn 3 = true) (own : s.cat.stage.src = src) : ¬(s.svcEn 3 = false ∨ stageOther s src = true) := by
  rw [svc, stageOther_owner own]
  decide

/-! ## A change of the descriptor (R97, R118) -/

/-- The descriptor that waits to be written: the change that comes last. -/
def waitingDesc (s : State) : Option BootDesc := s.cat.descNext.or (s.cat.descDue.map (·.2))

theorem slotState_waiting {s : State} {d : BootDesc} (h : waitingDesc s = some d) (x : Slot) : slotState s x = d.st x := by
  unfold waitingDesc at h
  unfold slotState
  cases next : s.cat.descNext with
  | some e =>
    rw [next] at h
    obtain rfl : e = d := Option.some.inj h
    rfl
  | none =>
    rw [next] at h
    cases due : s.cat.descDue with
    | some q =>
      rw [due] at h
      obtain rfl : q.2 = d := Option.some.inj h
      rfl
    | none =>
      rw [due] at h
      cases h

/-- A change waits to be written, with whatever GEN its write takes. -/
theorem changeDesc_waiting (f : BootDesc → BootDesc) (s : State) : ∃ d g, waitingDesc (changeDesc f s) = some { f d with gen := g } := by
  unfold changeDesc
  split
  · next k d _ =>
    split
    · next e _ => exact ⟨e, (f e).gen, rfl⟩
    · next none =>
      split
      · exact ⟨d, (f d).gen, rfl⟩
      · refine ⟨d, (f d).gen, ?_⟩
        unfold waitingDesc
        rw [none]
        rfl
  · refine ⟨(newestDesc s.flash).getD { gen := 0, pref := s.cat.slotRun, stA := 0, stB := 0 }, (nextDue f s).2.gen, ?_⟩
    unfold waitingDesc
    rw [(startDesc_parts f s).1]
    rfl

/-- A change of the descriptor touches what is to be written and the operations that wait, of which none goes. -/
theorem changeDesc_frame (f : BootDesc → BootDesc) (s : State) :
    changeDesc f s = { s with cat := { s.cat with descDue := (changeDesc f s).cat.descDue, descNext := (changeDesc f s).cat.descNext }, ops := { s.ops with waiting := (changeDesc f s).ops.waiting } } ∧
      ∀ o ∈ s.ops.waiting, o ∈ (changeDesc f s).ops.waiting := by
  unfold changeDesc
  split
  · split
    · exact ⟨rfl, fun _ h => h⟩
    · split <;> exact ⟨rfl, fun _ h => h⟩
  · unfold startDesc
    refine ⟨?_, fun o h => enqueue_keeps _ _ _ h⟩
    dsimp only
    rw [enqueue_eq]

/-! ## Regions and blocks (R113 to R115) -/

/-- The session's region stands open at a block. -/
def regionOpened (src : StageSrc) (region first size : Nat) (s : State) : State :=
  { s with cat := { s.cat with stage := { src := src, region := region, next := first, left := size / 4096, block := none, seq := 1, marked := s.cat.stage.marked, last := region } } }

theorem openStage_accepts {src : StageSrc} {region first size : Nat} {s : State} (mode : stageMode s = true) (other : stageOther s src = false) (life : s.life < 3) (closed : s.cat.stage.region = 0)
    (which : region = 1 ∨ region = 2) (blocks : 0 < size) (whole : size % 4096 = 0) (fits : first + size / 4096 ≤ regionBlocks region) :
    openStage src region first size s = (0, regionOpened src region first size s) := by
  have accepted : ¬(stageMode s = false ∨ stageOther s src = true ∨ 3 ≤ s.life ∨ s.cat.stage.region ≠ 0) := by simp [mode, other, life, closed]
  unfold openStage
  rw [if_neg accepted, if_neg (by omega)]
  rfl

/-- The first block of a session makes its slot STAGING. -/
def slotMarked (s : State) : State := if s.cat.stage.marked then s else changeDesc (BootDesc.setSt s.cat.slotRun.other 1) s

theorem slotMarked_frame (s : State) :
    slotMarked s = { s with cat := { s.cat with descDue := (slotMarked s).cat.descDue, descNext := (slotMarked s).cat.descNext }, ops := { s.ops with waiting := (slotMarked s).ops.waiting } } := by
  unfold slotMarked
  split
  · rfl
  · exact (changeDesc_frame _ s).1

/-- A block is held for its write. -/
def blockHeld (n : Nat) (body : List Byte) (s : State) : State := { s with cat := { s.cat with stage := { s.cat.stage with block := some (n, body), marked := true } } }

theorem takeBlock_accepts {n : Nat} {data : List Byte} {s : State} (crc : uAt data 4092 4 = crc32 (data.take 4092)) :
    takeBlock n data s = (0, enqueue .stageErase (blockHeld n (data.take 4092) (slotMarked s))) := if_neg (not_not_intro crc)

/-- A verified block stands in the region that is staged, at its number (R115). -/
theorem putStage_region {s : State} {k : Nat} {d : List Byte} {b : FlashBlk} (held : s.cat.stage.block = some (k, d)) (which : s.cat.stage.region = 1 ∨ s.cat.stage.region = 2) :
    blkAt ((putStage (some b) s).flash.region s.cat.slotRun.other s.cat.stage.region) k = some b := by
  unfold putStage
  rw [held]
  rcases which with which | which <;> rw [which] <;> cases s.cat.slotRun.other <;> simp [Flash.region, blkAt]

/-! ## The end of a session (R116) -/

/-- No session runs, and nothing of one waits. -/
def sessionEnded (s : State) : State :=
  { s with cat := { s.cat with stage := { noStage with last := s.cat.stage.last } }, ops := { s.ops with waiting := s.ops.waiting.filter (fun o => !isStagingOp o) } }

/-- Outside steps 2 and 3 of a ship entry nothing but the session ends. -/
theorem endStage_idle {s : State} (w : s.sup.ship ≠ .writes) (r : s.sup.ship ≠ .record) : endStage s = sessionEnded s := shipProceed_idle (s := sessionEnded s) w r

end Sys2Proof.Machine
end

section
/-! The staging transfer over UDS (04_catalogue_accession.md, R113 to R116). -/

namespace Sys2Proof.Machine

theorem requestDownload_clause (s : State) (p : UPath) (addr size : Nat) (served : s.udsServed p = true) (nrc : s.udsNrc p 0x34 [2] 3 = 0) (svc : s.svcEn 3 = true) (mode : stageMode s = true)
    (other : stageOther s (.uds p) = false) (life : s.life < 3) (closed : s.cat.stage.region = 0) (which : addr % 256 = 1 ∨ addr % 256 = 2) (blocks : 0 < size) (whole : size % 4096 = 0)
    (fits : addr / 65536 % 65536 + size / 4096 ≤ regionBlocks (addr % 256)) :
    exec (.requestDownload p addr size) s = .next { s with uds := { s.uds with tester := some p }, cat := { s.cat with stage := { src := .uds p, region := addr % 256, next := addr / 65536 % 65536, left := size / 4096, block := none, seq := 1, marked := s.cat.stage.marked, last := addr % 256 } }, out := .uds p (s.udsResp p) [0x74, 0x20, 0x10, 0x02] :: s.out } := by
  have enabled : ¬(askedBy p s).svcEn 3 = false := ne_false_of_eq_true svc
  have opens : openStage (.uds p) (addr % 256) (addr / 65536 % 65536) size (askedBy p s) = (0, regionOpened (.uds p) (addr % 256) (addr / 65536 % 65536) size (askedBy p s)) :=
    openStage_accepts mode other life closed which blocks whole fits
  have still : (regionOpened (.uds p) (addr % 256) (addr / 65536 % 65536) size (askedBy p s)).udsServed p = true := served
  show execRequestDownload p addr size s = _
  unfold execRequestDownload
  rw [udsServe_asked served nrc, if_neg enabled, opens]
  dsimp only
  rw [if_pos rfl, udsPos_eq still]
  rfl

theorem transferData_clause (s : State) (p : UPath) (data : List Byte) (served : s.udsServed p = true) (nrc : s.udsNrc p 0x36 [2] 3 = 0) (svc : s.svcEn 3 = true) (own : s.cat.stage.src = .uds p)
    (opened : s.cat.stage.region ≠ 0) (left : s.cat.stage.left ≠ 0) (free : s.cat.stage.block = none) (len : data.length = 4096) (crc : uAt data 4092 4 = crc32 (data.take 4092)) :
    Answers (exec (.transferData p s.cat.stage.seq data) s) fun t =>
      t.cat.stage = { s.cat.stage with block := some (s.cat.stage.next, data.take 4092), marked := true } ∧ .stageErase ∈ t.ops.waiting ∧
      (s.cat.stage.marked = true → t.cat = { s.cat with stage := t.cat.stage }) ∧ (s.cat.stage.marked = false → slotState t s.cat.slotRun.other = 1) ∧
      t = { s with uds := { s.uds with tester := some p }, cat := { s.cat with stage := t.cat.stage, descDue := t.cat.descDue, descNext := t.cat.descNext }, ops := { s.ops with waiting := t.ops.waiting } } := by
  have allowed : ¬((askedBy p s).svcEn 3 = false ∨ stageOther (askedBy p s) (.uds p) = true) := owner_allowed svc own
  have due : ¬((askedBy p s).cat.stage.src ≠ .uds p ∨ (askedBy p s).cat.stage.region = 0 ∨ (askedBy p s).cat.stage.left = 0) := by
    rintro (h | h | h)
    exacts [h own, opened h, left h]
  have idle : ¬(askedBy p s).cat.stage.block.isSome = true := by
    rw [show (askedBy p s).cat.stage.block = none from free]
    decide
  have next : ¬s.cat.stage.seq ≠ (askedBy p s).cat.stage.seq := not_not_intro rfl
  have run : exec (.transferData p s.cat.stage.seq data) s = .next (enqueue .stageErase (blockHeld s.cat.stage.next (data.take 4092) (slotMarked (askedBy p s)))) := by
    show execTransferData p s.cat.stage.seq data s = _
    unfold execTransferData
    rw [udsServe_asked served nrc]
    dsimp only
    rw [if_neg allowed, if_neg due, if_neg idle, if_neg next, if_neg (not_not_intro len), takeBlock_accepts crc]
    rfl
  have frame := slotMarked_frame (askedBy p s)
  refine ⟨_, run, ?_, enqueue_mem _ _, fun h => ?_, fun h => ?_, ?_⟩
  · rw [enqueue_beyond_cat]
    unfold blockHeld
    rw [frame]
    rfl
  · have marked : slotMarked (askedBy p s) = askedBy p s := if_pos h
    rw [enqueue_beyond_cat, marked]
    rfl
  · have change : slotMarked (askedBy p s) = changeDesc (BootDesc.setSt s.cat.slotRun.other 1) (askedBy p s) := if_neg (by rw [show (askedBy p s).cat.stage.marked = false from h]; decide)
    rw [slotState_of (s := slotMarked (askedBy p s)) _ (by rw [enqueue_beyond_cat]; rfl) (by rw [enqueue_beyond_cat]; rfl) (by rw [enqueue_beyond_cat]; rfl), change]
    exact changeDesc_state _ _ _
  · rw [enqueue_eq]
    unfold blockHeld
    generalize slotMarked (askedBy p s) = u at frame ⊢
    rw [frame]
    rfl

theorem transferExit_clause (s : State) (p : UPath) (served : s.udsServed p = true) (nrc : s.udsNrc p 0x37 [2] 3 = 0) (svc : s.svcEn 3 = true) (own : s.cat.stage.src = .uds p)
    (opened : s.cat.stage.region ≠ 0) (free : s.cat.stage.block = none) :
    exec (.requestTransferExit p) s = .next { s with uds := { s.uds with tester := some p }, cat := { s.cat with stage := { s.cat.stage with region := 0 } }, out := .uds p (s.udsResp p) [0x77] :: s.out } := by
  have allowed : ¬((askedBy p s).svcEn 3 = false ∨ stageOther (askedBy p s) (.uds p) = true) := owner_allowed svc own
  have closes : ¬((askedBy p s).cat.stage.src ≠ .uds p ∨ (askedBy p s).cat.stage.region = 0 ∨ (askedBy p s).cat.stage.block.isSome = true) := by
    rintro (h | h | h)
    · exact h own
    · exact opened h
    · rw [show (askedBy p s).cat.stage.block = none from free] at h
      cases h
  have still : ({ askedBy p s with cat := { s.cat with stage := { s.cat.stage with region := 0 } } } : State).udsServed p = true := served
  show execRequestTransferExit p s = _
  unfold execRequestTransferExit
  rw [udsServe_asked served nrc]
  dsimp only
  rw [if_neg allowed, if_neg closes]
  exact congrArg Host.Outcome.next (udsPos_eq still)

theorem blockWritten_clause (s : State) (p : UPath) (k : Nat) (d : List Byte) (own : s.cat.stage.src = .uds p) (held : s.cat.stage.block = some (k, d)) (idle : stageIdle s = true) (served : s.udsServed p = true) :
    Answers (exec (.stagingBlockWritten true) s) fun t =>
      t.cat.stage = { s.cat.stage with block := none, next := s.cat.stage.next + 1, left := s.cat.stage.left - 1, seq := (s.cat.stage.seq + 1) % 256 } ∧
      (s.cat.stage.region = 1 ∨ s.cat.stage.region = 2 → blkAt (t.flash.region s.cat.slotRun.other s.cat.stage.region) k = some { data := d, crcGood := true }) ∧
      t = { s with flash := t.flash, cat := { s.cat with stage := t.cat.stage }, out := .uds p (s.udsResp p) [0x76, BitVec.ofNat 8 s.cat.stage.seq] :: s.out } := by
  have ends : ¬stageIdle s = false := ne_false_of_eq_true idle
  have written := putStage_eq (some { data := d, crcGood := true }) s
  refine ⟨{ s with flash := (putStage (some { data := d, crcGood := true }) s).flash, cat := { s.cat with stage := { s.cat.stage with block := none, next := s.cat.stage.next + 1, left := s.cat.stage.left - 1, seq := (s.cat.stage.seq + 1) % 256 } }, out := .uds p (s.udsResp p) [0x76, BitVec.ofNat 8 s.cat.stage.seq] :: s.out }, ?_, rfl, putStage_region held, rfl⟩
  show execStagingBlockWritten true s = _
  unfold execStagingBlockWritten
  dsimp only
  rw [held]
  dsimp only
  rw [if_neg ends, own]
  dsimp only
  generalize putStage (some { data := d, crcGood := true }) s = u at written ⊢
  rw [written]
  exact congrArg Host.Outcome.next (udsPos_eq served)

theorem classOf_sessionTimeout (s : State) : classOf s 0x8008 noInst < 3 := by simp [classOf, codesF0]

theorem sessionTimeout_clause (s : State) (idleS : Nat) (runs : s.cat.stage.src ≠ .none) (late : 30 ≤ idleS) (w : s.sup.ship ≠ .writes) (r : s.sup.ship ≠ .record) :
    Answers (exec (.stagingSessionTimeout idleS) s) fun t =>
      active 0x8008 noInst t = true ∧ t.cat.stage = { noStage with last := s.cat.stage.last } ∧ (∀ o, o ∈ t.ops.waiting ↔ o ∈ s.ops.waiting ∧ isStagingOp o = false) ∧
      SameButFaults { s with cat := { s.cat with stage := { noStage with last := s.cat.stage.last } }, ops := { s.ops with waiting := t.ops.waiting } } t := by
  have run : exec (.stagingSessionTimeout idleS) s = .next (raise 0x8008 noInst 0 (sessionEnded s)) := by
    rw [← endStage_idle w r]
    exact if_pos ⟨runs, late⟩
  have same : SameButFaults (sessionEnded s) (raise 0x8008 noInst 0 (sessionEnded s)) := raise_low_same _ _ _ _ classOf_sessionTimeout (by decide)
  have cat : (raise 0x8008 noInst 0 (sessionEnded s)).cat = (sessionEnded s).cat := by rw [same]
  have ops : (raise 0x8008 noInst 0 (sessionEnded s)).ops = (sessionEnded s).ops := by rw [same]
  refine ⟨_, run, raise_active _ _ _ _, by rw [cat]; rfl, fun o => ?_, ?_⟩
  · rw [ops]
    unfold sessionEnded
    simp
  · rw [ops]
    exact same

/-- Settles O12, clause by clause: a region opened, a block taken, the region closed, a block written, and 30 s without a request. -/
theorem stagingTransfer : Obligations.StagingTransfer := by
  unfold Obligations.StagingTransfer
  exact ⟨requestDownload_clause, transferData_clause, transferExit_clause, blockWritten_clause, sessionTimeout_clause⟩

end Sys2Proof.Machine
end

section
/-! SUPPORT. The staging routines over UDS (04_catalogue_accession.md, R117, R118). -/

namespace Sys2Proof.Machine

/-! ## A routine's answer -/

/-- A routine that changes nothing of what decides whether its path is served answers there and keeps its result. -/
theorem routineAnswer {p : UPath} {rid : Nat} {bytes result : List Byte} {s : State} (served : s.udsServed p = true) :
    udsPos p bytes (setResult rid result s) = { s with uds := { s.uds with results := (rid, result) :: s.uds.results.filter (fun r => decide (r.1 ≠ rid)) }, out := .uds p (s.udsResp p) bytes :: s.out } :=
  udsPos_eq (s := setResult rid result s) served

/-! ## Check (R117) -/

theorem classOf_reRead (s : State) : classOf s 0x8005 noInst < 3 := by simp [classOf, codesF0]

/-- Blocks that passed on a re-read leave the faults that stop a service as they are. -/
theorem raiseReads_other (n d j : Nat) (s : State) (re : d ≠ 0x8005) (drop : d ≠ 0x001A) : active d j (raiseReads n s) = active d j s := by
  unfold raiseReads
  generalize List.range n = l
  induction l generalizing s with
  | nil => rfl
  | cons a l ih =>
    rw [List.foldl_cons, ih]
    exact raise_other _ _ _ _ _ s re drop classOf_reRead

theorem raiseReads_served (n : Nat) (p : UPath) (s : State) : (raiseReads n s).udsServed p = s.udsServed p :=
  (raiseReads_same n s).served (fun c i h => raiseReads_other n c i s (by rcases h with rfl | rfl <;> decide) (by rcases h with rfl | rfl <;> decide)) p

/-- What a Check that passes has done before the session ends: its reads, the two verifications, and the slot STAGED. -/
def slotChecked (n : Nat) (s : State) : State :=
  changeDesc (BootDesc.setSt s.cat.slotRun.other 2) { raiseReads n s with sec := { (raiseReads n s).sec with ops := ((raiseReads n s).sec.ops + 2) % 2 ^ 16 } }

theorem slotChecked_frame (n : Nat) (s : State) :
    slotChecked n s = { raiseReads n s with
      sec := { (raiseReads n s).sec with ops := (slotChecked n s).sec.ops }
      cat := { (raiseReads n s).cat with descDue := (slotChecked n s).cat.descDue, descNext := (slotChecked n s).cat.descNext }
      ops := { (raiseReads n s).ops with waiting := (slotChecked n s).ops.waiting } } := by
  have frame := (changeDesc_frame (BootDesc.setSt s.cat.slotRun.other 2) { raiseReads n s with sec := { (raiseReads n s).sec with ops := ((raiseReads n s).sec.ops + 2) % 2 ^ 16 } }).1
  unfold slotChecked
  generalize changeDesc _ _ = t at frame ⊢
  rw [frame]

theorem runCheck_passes {s : State} {sl : Slot} {fw : FwFacts} {sigOk : Bool} {fs : List ReadFail} {c : Loaded} (slot : s.cat.slotRun.other = sl) (pass : (trySlot s sl fw sigOk fs).1 = .ok c) (w : s.sup.ship ≠ .writes)
    (r : s.sup.ship ≠ .record) : runCheck fw sigOk fs s = (1, sessionEnded (slotChecked (trySlot s sl fw sigOk fs).2 s)) := by
  subst slot
  have supply : (slotChecked (trySlot s s.cat.slotRun.other fw sigOk fs).2 s).sup = s.sup := by
    rw [slotChecked_frame]
    exact (raiseReads_same _ s).supply
  unfold runCheck
  dsimp only
  rw [pass]
  exact congrArg (Prod.mk 1) (endStage_idle (s := slotChecked _ s) (by rwa [supply]) (by rwa [supply]))

theorem stageCheck_run {s : State} {p : UPath} {fw : FwFacts} {sigOk : Bool} {fs : List ReadFail} {c : Loaded} (served : s.udsServed p = true) (nrc : s.routineNrc p 0xF100 = 0)
    (ok : stageRoutineOk (.uds p) 0xF100 s = true) (w : s.sup.ship ≠ .writes) (r : s.sup.ship ≠ .record) (pass : (trySlot s s.cat.slotRun.other fw sigOk fs).1 = .ok c) :
    exec (.stageCheck p fw sigOk fs) s =
      .next (udsPos p [0x71, 0x01, 0xF1, 0x00, 0x01] (setResult 0xF100 [1] (sessionEnded (slotChecked (trySlot s s.cat.slotRun.other fw sigOk fs).2 (askedBy p s))))) := by
  have asked : trySlot (askedBy p s) s.cat.slotRun.other fw sigOk fs = trySlot s s.cat.slotRun.other fw sigOk fs := trySlot_congr (s := s) (u := askedBy p s) rfl rfl _ _ _ _
  have check : runCheck fw sigOk fs (askedBy p s) = (1, sessionEnded (slotChecked (trySlot (askedBy p s) s.cat.slotRun.other fw sigOk fs).2 (askedBy p s))) :=
    runCheck_passes rfl (by rw [asked]; exact pass) w r
  rw [asked] at check
  show execStageCheck p fw sigOk fs s = _
  unfold execStageCheck
  rw [stageRoutine_ok served nrc ok]
  dsimp only
  rw [show ({ s with uds := { s.uds with tester := some p } } : State) = askedBy p s from rfl, check]
  rfl

theorem stageCheck_clause (s : State) (p : UPath) (fw : FwFacts) (sigOk : Bool) (readFails : List ReadFail) (c : Loaded) (served : s.udsServed p = true) (nrc : s.routineNrc p 0xF100 = 0)
    (ok : stageRoutineOk (.uds p) 0xF100 s = true) (w : s.sup.ship ≠ .writes) (r : s.sup.ship ≠ .record) (pass : (trySlot s s.cat.slotRun.other fw sigOk readFails).1 = .ok c) :
    Answers (exec (.stageCheck p fw sigOk readFails) s) fun t =>
      slotState t s.cat.slotRun.other = 2 ∧ t.cat.stage = { noStage with last := s.cat.stage.last } ∧ t.out = .uds p (s.udsResp p) [0x71, 0x01, 0xF1, 0x00, 0x01] :: s.out ∧
      (0xF100, [1]) ∈ t.uds.results ∧ SameButFaults { s with uds := { s.uds with tester := t.uds.tester, results := t.uds.results }, sec := { s.sec with ops := t.sec.ops }, cat := { s.cat with stage := { noStage with last := s.cat.stage.last }, descDue := t.cat.descDue, descNext := t.cat.descNext }, ops := { s.ops with waiting := t.ops.waiting }, out := t.out } t := by
  have run := stageCheck_run served nrc ok w r pass
  generalize (trySlot s s.cat.slotRun.other fw sigOk readFails).2 = n at run
  have staged : slotState (slotChecked n (askedBy p s)) s.cat.slotRun.other = 2 := changeDesc_state _ _ _
  have frame := slotChecked_frame n (askedBy p s)
  have same := raiseReads_same n (askedBy p s)
  have reads : (raiseReads n (askedBy p s)).udsServed p = true := (raiseReads_served n p _).trans served
  generalize raiseReads n (askedBy p s) = u at frame same reads
  generalize slotChecked n (askedBy p s) = v at frame staged run
  have still : (sessionEnded v).udsServed p = true := by
    rw [frame]
    exact reads
  refine ⟨_, run.trans (congrArg Host.Outcome.next (routineAnswer still)), staged, ?_⟩
  generalize v.sec.ops = jobs, v.cat.descDue = due, v.cat.descNext = next, v.ops.waiting = waiting at frame
  subst frame
  refine ⟨?_, ?_, List.mem_cons_self, ?_⟩
  · rw [same]
    rfl
  · rw [same]
    rfl
  · unfold SameButFaults at same ⊢
    rw [same]
    rfl

/-! ## Commit, Confirm and Reject (R117, R118) -/

/-- The answer of a routine that only changes the descriptor and makes operations wait. -/
theorem descRoutine {s u : State} {p : UPath} {rid : Nat} {bytes : List Byte} (served : s.udsServed p = true)
    (frame : u = { askedBy p s with cat := { s.cat with descDue := u.cat.descDue, descNext := u.cat.descNext }, ops := { s.ops with waiting := u.ops.waiting } }) :
    ∃ t, udsPos p bytes (setResult rid [] u) = t ∧ t.cat = u.cat ∧ t.ops = u.ops ∧ (rid, []) ∈ t.uds.results ∧
      t = { s with uds := { s.uds with tester := some p, results := t.uds.results }, cat := { s.cat with descDue := t.cat.descDue, descNext := t.cat.descNext }, ops := { s.ops with waiting := t.ops.waiting }, out := .uds p (s.udsResp p) bytes :: s.out } := by
  have still : u.udsServed p = true := by
    rw [frame]
    exact served
  refine ⟨_, routineAnswer still, rfl, rfl, List.mem_cons_self, ?_⟩
  generalize u.cat.descDue = due, u.cat.descNext = next, u.ops.waiting = waiting at frame
  rw [frame]
  rfl

theorem slotState_congr {s t : State} (h : t.cat = s.cat) (x : Slot) : slotState t x = slotState s x :=
  slotState_of x (by rw [h]) (by rw [h]) (by rw [h])

theorem stageCommit_clause (s : State) (p : UPath) (served : s.udsServed p = true) (nrc : s.routineNrc p 0xF101 = 0) (ok : stageRoutineOk (.uds p) 0xF101 s = true) :
    Answers (exec (.stageCommit p) s) fun t => slotState t s.cat.slotRun.other = 3 ∧ (0xF101, []) ∈ t.uds.results ∧
      t = { s with uds := { s.uds with tester := some p, results := t.uds.results }, cat := { s.cat with descDue := t.cat.descDue, descNext := t.cat.descNext }, ops := { s.ops with waiting := t.ops.waiting }, out := .uds p (s.udsResp p) [0x71, 0x01, 0xF1, 0x01] :: s.out } := by
  obtain ⟨t, answer, cat, -, result, frame⟩ := descRoutine (rid := 0xF101) (bytes := [0x71, 0x01, 0xF1, 0x01]) served (changeDesc_frame (BootDesc.setSt s.cat.slotRun.other 3) (askedBy p s)).1
  have run : exec (.stageCommit p) s = .next t := by
    rw [← answer]
    exact congrArg Host.Outcome.next (stageRoutine_ok served nrc ok)
  exact ⟨t, run, (slotState_congr cat _).trans (changeDesc_state _ _ _), result, frame⟩

theorem stageReject_clause (s : State) (p : UPath) (served : s.udsServed p = true) (nrc : s.routineNrc p 0xF103 = 0) (ok : stageRoutineOk (.uds p) 0xF103 s = true) :
    Answers (exec (.stageReject p) s) fun t => slotState t s.cat.slotRun = 5 ∧ (0xF103, []) ∈ t.uds.results ∧
      t = { s with uds := { s.uds with tester := some p, results := t.uds.results }, cat := { s.cat with descDue := t.cat.descDue, descNext := t.cat.descNext }, ops := { s.ops with waiting := t.ops.waiting }, out := .uds p (s.udsResp p) [0x71, 0x01, 0xF1, 0x03] :: s.out } := by
  obtain ⟨t, answer, cat, -, result, frame⟩ := descRoutine (rid := 0xF103) (bytes := [0x71, 0x01, 0xF1, 0x03]) served (changeDesc_frame (BootDesc.setSt s.cat.slotRun 5) (askedBy p s)).1
  have run : exec (.stageReject p) s = .next t := by
    rw [← answer]
    exact congrArg Host.Outcome.next (stageRoutine_ok served nrc ok)
  exact ⟨t, run, (slotState_congr cat _).trans (changeDesc_state _ _ _), result, frame⟩

/-- The operations that raise the counter wait, before the descriptor of the confirmed slot (R117). -/
def counterQueued (s : State) : State := (raiseOps (slotArb s - s.arbCount) (s.otp.get 6)).foldl (fun s o => enqueue o s) s

theorem counterQueued_frame (s : State) : counterQueued s = { s with ops := { s.ops with waiting := (counterQueued s).ops.waiting } } :=
  (enqueues_eq (raiseOps (slotArb s - s.arbCount) (s.otp.get 6)) s).1

/-- The descriptor in which a slot is CONFIRMED and preferred. -/
def confirmedIn (x : Slot) (d : BootDesc) : BootDesc := { d.setSt x 4 with pref := x }

theorem runConfirm_eq (s : State) : runConfirm s = changeDesc (confirmedIn s.cat.slotRun) (counterQueued s) := by
  have slot : (counterQueued s).cat.slotRun = s.cat.slotRun := by rw [counterQueued_frame]
  rw [← slot]
  rfl

theorem runConfirm_parts (s : State) :
    runConfirm s = { s with cat := { s.cat with descDue := (runConfirm s).cat.descDue, descNext := (runConfirm s).cat.descNext }, ops := { s.ops with waiting := (runConfirm s).ops.waiting } } ∧
      (∀ o ∈ raiseOps (slotArb s - s.arbCount) (s.otp.get 6), o ∈ (runConfirm s).ops.waiting) ∧
      ∃ d g, waitingDesc (runConfirm s) = some { confirmedIn s.cat.slotRun d with gen := g } := by
  obtain ⟨frame, stays⟩ := changeDesc_frame (confirmedIn s.cat.slotRun) (counterQueued s)
  rw [runConfirm_eq]
  refine ⟨?_, fun o h => stays o ((enqueues_eq _ s).2 o (.inl h)), changeDesc_waiting _ _⟩
  generalize changeDesc _ _ = t at frame ⊢
  rw [frame, counterQueued_frame]

theorem stageConfirm_clause (s : State) (p : UPath) (served : s.udsServed p = true) (nrc : s.routineNrc p 0xF102 = 0) (ok : stageRoutineOk (.uds p) 0xF102 s = true) :
    Answers (exec (.stageConfirm p) s) fun t => slotState t s.cat.slotRun = 4 ∧ ((t.cat.descNext.or (t.cat.descDue.map (·.2))).map (·.pref)) = some s.cat.slotRun ∧
      (∀ o ∈ raiseOps (slotArb s - s.arbCount) (s.otp.get 6), o ∈ t.ops.waiting) ∧ (0xF102, []) ∈ t.uds.results ∧
      t = { s with uds := { s.uds with tester := some p, results := t.uds.results }, cat := { s.cat with descDue := t.cat.descDue, descNext := t.cat.descNext }, ops := { s.ops with waiting := t.ops.waiting }, out := .uds p (s.udsResp p) [0x71, 0x01, 0xF1, 0x02] :: s.out } := by
  obtain ⟨parts, queued, d, g, next⟩ := runConfirm_parts (askedBy p s)
  obtain ⟨t, answer, cat, ops, result, frame⟩ := descRoutine (rid := 0xF102) (bytes := [0x71, 0x01, 0xF1, 0x02]) served parts
  have run : exec (.stageConfirm p) s = .next t := by
    rw [← answer]
    exact congrArg Host.Outcome.next (stageRoutine_ok served nrc ok)
  have confirmed : slotState t s.cat.slotRun = 4 := (slotState_congr cat _).trans ((slotState_waiting next _).trans (setSt_st s.cat.slotRun 4 d))
  have preferred : (t.cat.descNext.or (t.cat.descDue.map (·.2))).map (·.pref) = some s.cat.slotRun := by
    rw [cat]
    exact congrArg (Option.map (·.pref)) next
  exact ⟨t, run, confirmed, preferred, fun o h => by rw [ops]; exact queued o h, result, frame⟩

end Sys2Proof.Machine
end

section
/-! The OTP operations after READY: one word after its own check, and the operations whose condition does not hold
(04_catalogue_accession.md, R112; 21_security.md, R512, R517). -/

namespace Sys2Proof.Machine

/-! ## One word (R84, R88) -/

/-- A word programmed on a measurement of HOLD. -/
def wordProgrammed (v : Q) (w : Nat) (b : BitVec 64) (s : State) : State := { measureHold v s with otp := s.otp.put w (s.otp.get w ||| b) }

/-- One word whose check passes is programmed on its own measurement, with its record where it is a word of the lifecycle or of revocations. -/
theorem program_word (v : Q) (vs : List Q) (w : Nat) (b : BitVec 64) (s : State) (ok : holdOk s v (.otpWord w b) = true) :
    program [(w, b)] { fails := 0, volts := v :: vs, stopped := false, st := s } =
      { fails := 0, volts := vs, stopped := false, st := if w = 5 ∨ w = 7 then otpDone w b (wordProgrammed v w b s) else wordProgrammed v w b s } := by
  have passes : ¬holdOk (measureHold v s) v (.otpWord w b) = false := ne_false_of_eq_true ok
  unfold program
  dsimp only
  rw [if_neg Bool.false_ne_true, if_neg passes, if_pos rfl]
  rfl

theorem life_congr {s t : State} (h : t.otp.get 5 = s.otp.get 5) : t.life = s.life := by
  unfold State.life State.lcSet
  rw [h]

/-! ## Operations whose condition does not hold (R517) -/

theorem otpIdentity_idle (entropyOk : Bool) {r : OtpRun} (life : r.st.life ≠ 0) : otpIdentity entropyOk r = r := if_pos (.inr (.inr (.inl life)))
theorem otpCounter_idle {r : OtpRun} (raised : slotArb r.st ≤ r.st.arbCount) : otpCounter r = r := if_pos (.inr raised)
theorem otpOemKey_idle {r : OtpRun} (life : r.st.life ≠ 0) : otpOemKey r = r := if_neg (fun k => life k.2.1)
theorem otpAdd_idle {r : OtpRun} {k : Nat} (add : (r.st.pu 0xC0 0 68).testBit k = false) : otpAdd r k = r := if_pos (.inr add)
theorem otpRevoke_idle {r : OtpRun} {k : Nat} (revoke : (r.st.pu 0xC0 0 64).testBit k = false) : otpRevoke r k = r := if_pos (.inr (.inl revoke))
theorem otpLifecycle_idle {r : OtpRun} (life : r.st.life ≠ 0) : otpLifecycle r = r := if_neg (fun k => life k.2.1)

theorem otpAdds_idle {r : OtpRun} (add : r.st.pu 0xC0 0 68 = 0) (l : List Nat) : l.foldl otpAdd r = r := by
  induction l with
  | nil => rfl
  | cons k l ih => rw [List.foldl_cons, otpAdd_idle (by rw [add]; exact Nat.zero_testBit k), ih]
theorem otpRevokes_idle {r : OtpRun} (l : List Nat) (revoke : ∀ k ∈ l, (r.st.pu 0xC0 0 64).testBit k = false) : l.foldl otpRevoke r = r := by
  induction l with
  | nil => rfl
  | cons k l ih => rw [List.foldl_cons, otpRevoke_idle (revoke k List.mem_cons_self), ih (fun j h => revoke j (List.mem_cons_of_mem _ h))]

/-! ## The sequence -/

/-- The sequence as it begins: no word has failed, no check has stopped it. -/
def otpBegun (volts : List Q) (s : State) : OtpRun := { fails := 0, volts := volts, stopped := false, st := s }

/-- After READY, with a CONFIRMED slot and nothing under way, the operations run in the order of R517. -/
theorem execPostReadyOtp_runs {s : State} (volts : List Q) (entropyOk : Bool) (locked : s.cat.locked = true) (mode : s.sys.mode = .ready ∨ s.sys.mode = .convert ∨ s.sys.mode = .drive ∨ s.sys.mode = .charge ∨ s.sys.mode = .safe)
    (slot : slotInForce s s.cat.slotRun = 4) (idle : s.ops.running = none) (step : s.sup.step = 9) (otp : otpWaits s = false) (starts : startsOver s = false) :
    exec (.postReadyOtpOperations volts entropyOk 0) s =
      .next (otpLifecycle ([0, 1, 2, 3].foldl otpRevoke ([0, 1, 2, 3].foldl otpAdd (otpOemKey (otpCounter (otpIdentity entropyOk (otpBegun volts s))))))).st := by
  have begins : ¬(s.cat.locked = false ∨ s.sys.mode = .off ∨ s.sys.mode = .ship ∨ s.sys.mode = .accession ∨ s.sup.step < 9 ∨ slotInForce s s.cat.slotRun ≠ 4 ∨ s.ops.running.isSome = true ∨ otpWaits s = true ∨ startsOver s = true) := by
    rcases mode with mode | mode | mode | mode | mode <;> simp [locked, mode, slot, idle, step, otp, starts]
  exact if_neg begins

/-- The counter one behind takes one more bit, and its record. -/
theorem otpCounter_one {s : State} {v : Q} {volts : List Q} (behind : slotArb s = s.arbCount + 1) (ok : holdOk s v (.otpWord 6 1) = true) :
    otpCounter (otpBegun (v :: volts) s) = otpBegun volts (logDone (wordProgrammed v 6 (lowZero (s.otp.get 6)) s)) := by
  have due : ¬((otpBegun (v :: volts) s).stopped = true ∨ slotArb s ≤ s.arbCount) := by
    rw [behind]
    simp [otpBegun]
  have one : slotArb s - s.arbCount = 1 := by omega
  unfold otpCounter
  dsimp only
  rw [show (otpBegun (v :: volts) s).st = s from rfl, if_neg due, one]
  exact congrArg (onState logDone) (program_word v volts 6 (lowZero (s.otp.get 6)) s ok)

/-- The record of an OTP operation is the collector's matter, with a free code (R517, log entry 30). -/
theorem logDone_same (s : State) : SameButFaults { s with freeIx := s.freeIx + 1 } (logDone s) :=
  offerRec_same (mkRec (takeFree s).2 16 ((takeFree s).1 % 2 ^ 16) noInst 0 0 0 false) (takeFree s).2

theorem counterOtp_clause (s : State) (v : Q) (holdVolts : List Q) (entropyOk : Bool) (locked : s.cat.locked = true) (mode : s.sys.mode = .ready ∨ s.sys.mode = .convert ∨ s.sys.mode = .drive ∨ s.sys.mode = .charge ∨ s.sys.mode = .safe)
    (slot : slotInForce s s.cat.slotRun = 4) (idle : s.ops.running = none) (step : s.sup.step = 9) (otp : otpWaits s = false) (starts : startsOver s = false) (ok : holdOk s v (.otpWord 6 1) = true)
    (life : s.life ≠ 0) (behind : slotArb s = s.arbCount + 1) (revoke : s.pu 0xC0 0 64 = 0) (add : s.pu 0xC0 0 68 = 0) :
    Answers (exec (.postReadyOtpOperations (v :: holdVolts) entropyOk 0) s) fun t => t.otp.get 6 = s.otp.get 6 ||| lowZero (s.otp.get 6) ∧ (∀ w, w ≠ 6 → t.otp.get w = s.otp.get w) ∧
      SameButFaults { measureHold v s with otp := t.otp, freeIx := s.freeIx + 1 } t := by
  have same := logDone_same (wordProgrammed v 6 (lowZero (s.otp.get 6)) s)
  have raised := otpCounter_one (volts := holdVolts) behind ok
  generalize logDone (wordProgrammed v 6 (lowZero (s.otp.get 6)) s) = t at same raised
  have words : t.otp = s.otp.put 6 (s.otp.get 6 ||| lowZero (s.otp.get 6)) := by rw [same]; rfl
  have cat : t.cat = s.cat := by rw [same]; rfl
  have lived : t.life ≠ 0 := by
    rw [life_congr (s := s) (by rw [words]; exact Tab.get_put_other _ _ _ _ (by decide))]
    exact life
  have noAdd : t.pu 0xC0 0 68 = 0 := (pu_cat cat _ _ _).trans add
  have noRevoke : t.pu 0xC0 0 64 = 0 := (pu_cat cat _ _ _).trans revoke
  refine ⟨t, ?_, ?_, fun w h => ?_, ?_⟩
  · rw [execPostReadyOtp_runs _ _ locked mode slot idle step otp starts, otpIdentity_idle _ (r := otpBegun _ s) life, raised, otpOemKey_idle (r := otpBegun _ t) lived, otpAdds_idle (r := otpBegun _ t) noAdd,
      otpRevokes_idle (r := otpBegun _ t) _ (fun k _ => by rw [show (otpBegun holdVolts t).st.pu 0xC0 0 64 = 0 from noRevoke]; exact Nat.zero_testBit k), otpLifecycle_idle (r := otpBegun _ t) lived]
    rfl
  · rw [words, Tab.get_put_same]
  · rw [words, Tab.get_put_other _ _ _ _ h]
  · rw [words]
    exact same

/-- A revocation of slot 0 that has not been written sets its four bits, with 0x8016. -/
theorem otpRevoke_first {s : State} {v : Q} {volts : List Q} (due : (s.pu 0xC0 0 64).testBit 0 = true) (unrevoked : s.revoked 0 = false) (ok : holdOk s v (.otpWord 6 1) = true) :
    otpRevoke (otpBegun (v :: volts) s) 0 = otpBegun volts (raise 0x8016 0 0 (wordProgrammed v 7 15 s)) := by
  have revokes : ¬((otpBegun (v :: volts) s).stopped = true ∨ (s.pu 0xC0 0 64).testBit 0 = false ∨ s.revoked 0 = true) := by simp [otpBegun, due, unrevoked]
  exact (if_neg revokes).trans (program_word v volts 7 15 s ok)

theorem classOf_revocation (s : State) : classOf s 0x8016 0 < 3 := by simp [classOf, codesF0]

theorem revocationOtp_clause (s : State) (v : Q) (holdVolts : List Q) (entropyOk : Bool) (locked : s.cat.locked = true) (mode : s.sys.mode = .ready ∨ s.sys.mode = .convert ∨ s.sys.mode = .drive ∨ s.sys.mode = .charge ∨ s.sys.mode = .safe)
    (slot : slotInForce s s.cat.slotRun = 4) (idle : s.ops.running = none) (step : s.sup.step = 9) (otp : otpWaits s = false) (starts : startsOver s = false) (ok : holdOk s v (.otpWord 6 1) = true)
    (life : s.life ≠ 0) (raised : slotArb s ≤ s.arbCount) (revoke : s.pu 0xC0 0 64 = 1) (add : s.pu 0xC0 0 68 = 0) (unrevoked : s.revoked 0 = false) :
    Answers (exec (.postReadyOtpOperations (v :: holdVolts) entropyOk 0) s) fun t => t.otp.get 7 = s.otp.get 7 ||| 15 ∧ (∀ w, w ≠ 7 → t.otp.get w = s.otp.get w) ∧ active 0x8016 0 t = true ∧
      SameButFaults { measureHold v s with otp := t.otp } t := by
  have same : SameButFaults (wordProgrammed v 7 15 s) (raise 0x8016 0 0 (wordProgrammed v 7 15 s)) := raise_low_same _ _ _ _ classOf_revocation (by decide)
  have act := raise_active 0x8016 0 0 (wordProgrammed v 7 15 s)
  have revoked := otpRevoke_first (volts := holdVolts) (by rw [revoke]; decide) unrevoked ok
  generalize raise 0x8016 0 0 (wordProgrammed v 7 15 s) = t at same act revoked
  have words : t.otp = s.otp.put 7 (s.otp.get 7 ||| 15) := by rw [same]; rfl
  have cat : t.cat = s.cat := by rw [same]; rfl
  have lived : t.life ≠ 0 := by
    rw [life_congr (s := s) (by rw [words]; exact Tab.get_put_other _ _ _ _ (by decide))]
    exact life
  have others : ∀ k ∈ [1, 2, 3], (t.pu 0xC0 0 64).testBit k = false := by
    rw [pu_cat cat, revoke]
    decide
  refine ⟨t, ?_, ?_, fun w h => ?_, act, ?_⟩
  · rw [execPostReadyOtp_runs _ _ locked mode slot idle step otp starts, otpIdentity_idle _ (r := otpBegun _ s) life, otpCounter_idle (r := otpBegun _ s) raised, otpOemKey_idle (r := otpBegun _ s) life,
      otpAdds_idle (r := otpBegun _ s) add, List.foldl_cons, revoked, otpRevokes_idle (r := otpBegun _ t) _ others, otpLifecycle_idle (r := otpBegun _ t) lived]
    rfl
  · rw [words, Tab.get_put_same]
  · rw [words, Tab.get_put_other _ _ _ _ h]
  · rw [words]
    exact same

/-- Settles O14, clause by clause: the four routines, and after READY the counter and a revocation. -/
theorem stagingRoutines : Obligations.StagingRoutines := by
  unfold Obligations.StagingRoutines
  exact ⟨stageCheck_clause, stageCommit_clause, stageConfirm_clause, stageReject_clause, counterOtp_clause, revocationOtp_clause⟩

end Sys2Proof.Machine
end

section
/-! SUPPORT. Accession loads what passed, and the loaded stores are locked and watched (04_catalogue_accession.md, R105, R106, R108, R110, R111;
06_orrery_current_control.md, R183). -/

namespace Sys2Proof.Machine

/-! ## The map store's words (R183) -/

theorem mapByte_put {a x : Nat} {b : Byte} {m : List Host.Cell} (wf : Memory.wf m = true) : mapByte (putCell a b m) x = if x = a then b.toNat else mapByte m x :=
  mapByte_putCell a b m 0 wf x

/-- A word lands in its four bytes, lowest first, and nowhere else. -/
theorem mapByte_putMapWord (a v x : Nat) {m : List Host.Cell} (wf : Memory.wf m = true) :
    mapByte (putMapWord a v m) x = if a ≤ x ∧ x < a + 4 then v / 256 ^ (x - a) % 256 else mapByte m x := by
  have wf0 := putCell_wf a (BitVec.ofNat 8 (v / 256 ^ 0)) m wf
  have wf1 := putCell_wf (a + 1) (BitVec.ofNat 8 (v / 256 ^ 1)) _ wf0
  have wf2 := putCell_wf (a + 2) (BitVec.ofNat 8 (v / 256 ^ 2)) _ wf1
  unfold putMapWord
  dsimp only
  rw [mapByte_put wf2, mapByte_put wf1, mapByte_put wf0, mapByte_put wf]
  simp only [BitVec.toNat_ofNat]
  by_cases inside : a ≤ x ∧ x < a + 4
  · rw [if_pos inside]
    obtain h | h | h | h : x = a ∨ x = a + 1 ∨ x = a + 2 ∨ x = a + 3 := by omega
    all_goals simp [h]
  · rw [if_neg inside, if_neg (by omega), if_neg (by omega), if_neg (by omega), if_neg (by omega)]

/-! ## The lock (R110) -/

theorem blockedWrite_clause (s : State) (r : StoreRegion) (addr value : Nat) (locked : (r = .code ∧ s.cat.codeLocked = true) ∨ (r ≠ .code ∧ s.cat.locked = true)) :
    Answers (exec (.lockedStoreWrite r addr value) s) fun t => active 0x8006 noInst t = true ∧ t.cat = s.cat ∧ t.beyond = s.beyond := by
  have closed : regionLocked r s = true := by
    cases r <;> simpa [regionLocked] using locked
  have kept := raise_beyond 0x8006 noInst 0 s
  refine ⟨raise 0x8006 noInst 0 s, congrArg Host.Outcome.next (if_pos closed), raise_active _ _ _ _, congrArg Beyond.cat kept, kept⟩

theorem openWrite_clause (s : State) (addr value : Nat) (unlocked : s.cat.locked = false) (lo : 0x51000000 ≤ addr) (hi : addr < 0x51040000) (aligned : addr % 4 = 0) (ok : s.mapOk) :
    Answers (exec (.lockedStoreWrite .map addr value) s) fun t => t.mapOk ∧ (∀ k, k < 4 → mapByte t.cat.map (addr - 0x51000000 + k) = value / 256 ^ k % 256) ∧
      (∀ b, b < addr - 0x51000000 ∨ addr - 0x51000000 + 4 ≤ b → mapByte t.cat.map b = mapByte s.cat.map b) ∧ t = { s with cat := { s.cat with map := t.cat.map } } := by
  have free : ¬regionLocked .map s = true := ne_true_of_eq_false unlocked
  have lands : StoreRegion.map = .map ∧ inMapStore addr = true ∧ addr % 4 = 0 := ⟨rfl, decide_eq_true ⟨lo, hi⟩, aligned⟩
  have run : exec (.lockedStoreWrite .map addr value) s = .next { s with cat := { s.cat with map := putMapWord (addr - 0x51000000) (value % 2 ^ 32) s.cat.map } } :=
    congrArg Host.Outcome.next ((if_neg free).trans (if_pos lands))
  refine ⟨_, run, putMapWord_wf _ _ _ ok, fun k h => ?_, fun b h => ?_, rfl⟩
  · have byte : value % 2 ^ 32 / 256 ^ k % 256 = value / 256 ^ k % 256 := by
      obtain rfl | rfl | rfl | rfl : k = 0 ∨ k = 1 ∨ k = 2 ∨ k = 3 := by omega
      all_goals omega
    rw [show ∀ m : List Host.Cell, ({ s with cat := { s.cat with map := m } } : State).cat.map = m from fun _ => rfl, mapByte_putMapWord _ _ _ ok, if_pos (by omega), Nat.add_sub_cancel_left, byte]
  · exact (mapByte_putMapWord _ _ _ ok).trans (if_neg (by omega))

/-! ## The check of the loaded copies (R111) -/

/-- The loaded stores after the upsets that a check finds. -/
def storesUpset (upset : List (Nat × Nat)) (s : State) : List Rec × List Host.Cell := upset.foldl (fun r u => upsetStore r.1 r.2 u) (s.cat.params, s.cat.map)

/-- The state with the loaded stores as they are found. -/
def storesFound (r : List Rec × List Host.Cell) (s : State) : State := { s with cat := { s.cat with params := r.1, map := r.2 } }

theorem loadedCheck_runs {s : State} (upset : List (Nat × Nat)) (locked : s.cat.locked = true) (runs : (s.lks.pairs.get .ganymede).st = 1) :
    exec (.loadedStoreCrcCheck upset) s =
      if loadedCrcs (storesUpset upset s).2 (storesUpset upset s).1 = s.cat.crcs then .next (storesFound (storesUpset upset s) s) else .next (raise 0x8007 noInst 0 (storesFound (storesUpset upset s) s)) :=
  if_neg (by simp [locked, runs])

theorem loadedFits_clause (s : State) (upset : List (Nat × Nat)) (r : List Rec × List Host.Cell) (locked : s.cat.locked = true) (runs : (s.lks.pairs.get .ganymede).st = 1)
    (after : r = upset.foldl (fun r u => upsetStore r.1 r.2 u) (s.cat.params, s.cat.map)) (fits : loadedCrcs r.2 r.1 = s.cat.crcs) :
    exec (.loadedStoreCrcCheck upset) s = .next { s with cat := { s.cat with params := r.1, map := r.2 } } := by
  obtain rfl : r = storesUpset upset s := after
  exact (loadedCheck_runs upset locked runs).trans (if_pos fits)

theorem loadedBroken_clause (s : State) (upset : List (Nat × Nat)) (r : List Rec × List Host.Cell) (locked : s.cat.locked = true) (runs : (s.lks.pairs.get .ganymede).st = 1)
    (after : r = upset.foldl (fun r u => upsetStore r.1 r.2 u) (s.cat.params, s.cat.map)) (broken : loadedCrcs r.2 r.1 ≠ s.cat.crcs) :
    Answers (exec (.loadedStoreCrcCheck upset) s) fun t => active 0x8007 noInst t = true ∧ t.cat = { s.cat with params := r.1, map := r.2 } ∧ t.beyond = { s with cat := t.cat }.beyond := by
  obtain rfl : r = storesUpset upset s := after
  have kept := raise_beyond 0x8007 noInst 0 (storesFound (storesUpset upset s) s)
  have cat : (raise 0x8007 noInst 0 (storesFound (storesUpset upset s) s)).cat = (storesFound (storesUpset upset s) s).cat := congrArg Beyond.cat kept
  refine ⟨_, (loadedCheck_runs upset locked runs).trans (if_neg broken), raise_active _ _ _ _, cat, ?_⟩
  rw [kept, cat]
  rfl

end Sys2Proof.Machine
end

section
/-! SUPPORT. The log stays ready through faults and a change of mode (01_architecture.md, R33; 22_status_faults_log.md, R538). -/

namespace Sys2Proof.Machine

/-! ## The collector -/

@[simp] theorem ready_ite (c : Prop) [Decidable c] (a b : State) : (if c then a else b).log.ready = if c then a.log.ready else b.log.ready := by split <;> rfl

@[simp] theorem pins_ready (s : State) : (pins s).log.ready = s.log.ready := by unfold pins; split <;> rfl
@[simp] theorem storeRec_ready (r : LogRec) (s : State) : (storeRec r s).2.log.ready = s.log.ready := by
  unfold storeRec
  dsimp only
  split
  · rfl
  · split
    · rfl
    · split <;> rfl
@[simp] theorem takeSupp_ready (c i : Nat) (s : State) : (takeSupp c i s).2.log.ready = s.log.ready := by unfold takeSupp; split <;> rfl
@[simp] theorem raiseEntry_ready (b c i m : Nat) (s : State) : (raiseEntry b c i m s).2.log.ready = s.log.ready := by
  unfold raiseEntry
  split
  · rfl
  · simp
@[simp] theorem noteDrop_ready (r : Bool × State) : (noteDrop r).log.ready = r.2.log.ready := by unfold noteDrop; simp
@[simp] theorem raiseBaseBy_ready (b c i m : Nat) (s : State) : (raiseBaseBy b c i m s).log.ready = s.log.ready := by unfold raiseBaseBy; simp
@[simp] theorem raiseBase_ready (c i m : Nat) (s : State) : (raiseBase c i m s).log.ready = s.log.ready := raiseBaseBy_ready _ _ _ _ _

/-! ## A change of mode (R33) -/

@[simp] theorem stopGroup_ready (g : Grp) (s : State) : (stopGroup g s).log.ready = s.log.ready := by rw [stopGroup_only]
@[simp] theorem haltGroup_ready (g : Grp) (s : State) : (haltGroup g s).log.ready = s.log.ready := by rw [haltGroup_only]
@[simp] theorem stopSet_ready (x : TSet) (s : State) : (stopSet x s).log.ready = s.log.ready := by unfold stopSet; simp
@[simp] theorem dropTarget_ready (x : TSet) (s : State) : (dropTarget x s).log.ready = s.log.ready := by cases x <;> rfl
@[simp] theorem driveFreewheel_ready (x : TSet) (s : State) : (driveFreewheel x s).log.ready = s.log.ready := by rw [driveFreewheel_parts]
@[simp] theorem enterSafe_ready (x : TSet) (s : State) : (enterSafe x s).log.ready = s.log.ready := by unfold enterSafe; simp
@[simp] theorem stopTraction_ready (s : State) : (stopTraction s).log.ready = s.log.ready := by unfold stopTraction; simp
@[simp] theorem stopCharger_ready (s : State) : (stopCharger s).log.ready = s.log.ready := by unfold stopCharger; simp
@[simp] theorem roleOff_ready (s : State) : (roleOff s).log.ready = s.log.ready := by unfold roleOff; simp
@[simp] theorem abortAct_ready (a : Act) (s : State) : (abortAct a s).log.ready = s.log.ready := by unfold abortAct; simp
@[simp] theorem stopLv_ready (f3 : Bool) (s : State) : (stopLv f3 s).log.ready = s.log.ready := by rw [(stopLv_parts f3 s).1]
@[simp] theorem lvcWrite_ready (v : Nat) (s : State) : (lvcWrite v s).log.ready = s.log.ready := by unfold lvcWrite; simp
@[simp] theorem lvCharge_ready (v : Q) (s : State) : (lvCharge v s).log.ready = s.log.ready := lvcWrite_ready _ s
@[simp] theorem sessionOff_ready (s : State) : (sessionOff s).log.ready = s.log.ready := by unfold sessionOff; simp
@[simp] theorem sessionOffBy_ready (c : Nat) (s : State) : (sessionOffBy c s).log.ready = s.log.ready := by unfold sessionOffBy; simp
@[simp] theorem sessionFail_ready (s : State) : (sessionFail s).log.ready = s.log.ready := by unfold sessionFail sessionFailBy; simp
@[simp] theorem modeOutputs_ready (m : Mode) (s : State) : (modeOutputs m s).log.ready = s.log.ready := by unfold modeOutputs; simp

/-- A change of mode leaves the log ready or not. -/
@[simp] theorem enterMode_ready (m : Mode) (s : State) : (enterMode m s).log.ready = s.log.ready := by unfold enterMode; simp

/-! ## Faults (R33, R394) -/

@[simp] theorem startBias_ready (s : State) : (startBias s).log.ready = s.log.ready := by unfold startBias; simp
@[simp] theorem shipAbandon_ready (s : State) : (shipAbandon s).log.ready = s.log.ready := by unfold shipAbandon; simp
@[simp] theorem safeByF4_ready (s : State) : (safeByF4 s).log.ready = s.log.ready := by unfold safeByF4; simp
@[simp] theorem reactF4_ready (c : Nat) (s : State) : (reactF4 c s).log.ready = s.log.ready := by unfold reactF4; simp

/-- A raise of class F0, F1 or F4 leaves the log ready or not. -/
theorem raise_ready (c i m : Nat) (s : State) (h : ∀ s, classOf s c i < 2 ∨ classOf s c i = 4) : (raise c i m s).log.ready = s.log.ready := by
  rcases h (raiseBaseBy (c / 2048) c i m s) with low | f4
  · unfold raise
    rw [raiseBy_low _ _ _ _ _ low, raiseBaseBy_ready]
  · unfold raise raiseBy
    dsimp only
    rw [f4]
    simp

end Sys2Proof.Machine
end

section
/-! Accession from the start-up check to the load: the first slot of the order that passes is loaded and locked
(04_catalogue_accession.md, R105, R106, R108, R110). -/

namespace Sys2Proof.Machine

/-! ## The log through Accession (R538) -/

theorem foldl_ready {α : Type} {f : State → α → State} (h : ∀ s a, (f s a).log.ready = s.log.ready) (l : List α) (s : State) : (l.foldl f s).log.ready = s.log.ready := by
  induction l generalizing s with
  | nil => rfl
  | cons a l ih => rw [List.foldl_cons, ih, h]

theorem raiseReads_ready (n : Nat) (s : State) : (raiseReads n s).log.ready = s.log.ready :=
  foldl_ready (fun s _ => raise_ready _ _ _ s (by simp [classOf, codesF0])) _ _
@[simp] theorem setCause_ready (sl : Slot) (c : Nat) (s : State) : (setCause sl c s).log.ready = s.log.ready := by cases sl <;> rfl
theorem logPast_ready (s : State) : (logPast s).log.ready = s.log.ready := by
  have startFail (i : Nat) (u : State) : (raise 0x6007 i 0 u).log.ready = u.log.ready := raise_ready _ _ _ u (by simp [classOf, codesF0, codesF1, codesF2, codesF4])
  have writesLost (n : Nat) (u : State) : (raise 0x001B noInst n u).log.ready = u.log.ready := raise_ready _ _ _ u (by simp [classOf, codesF0, codesF1])
  have railReset (u : State) : (raise 0x001C noInst 0 u).log.ready = u.log.ready := raise_ready _ _ _ u (by simp [classOf, codesF0, codesF1])
  unfold logPast
  dsimp only
  cases s.ka.startFail <;> simp [startFail, writesLost, railReset]
theorem chooseOrder_ready (s : State) : (chooseOrder s).log.ready = s.log.ready := by
  have noCopy (u : State) : (raise 0x8002 noInst 0 u).log.ready = u.log.ready := raise_ready _ _ _ u (by simp [classOf, codesF0, codesF1])
  unfold chooseOrder
  simp [noCopy]
theorem selectId_ready (s : State) : (selectId s).log.ready = s.log.ready := by
  have noSlot (u : State) : (raise 0x8013 noInst 0 u).log.ready = u.log.ready := raise_ready _ _ _ u (by simp [classOf, codesF0, codesF1])
  unfold selectId
  simp [noSlot]
theorem permitTest_ready (bad : List Chan) (r : List Handshake) (s : State) : (permitTest bad r s).log.ready = s.log.ready := by
  have path (c : Chan) (u : State) : (raise 0x5805 (domOf c).val 0 u).log.ready = u.log.ready := raise_ready _ _ _ u (by simp [classOf, codesF0, codesF1, codesF2, codesF4])
  unfold permitTest
  simp [foldl_ready (fun s c => path c s)]
theorem loadCat_ready (sl : Slot) (fw : FwFacts) (c : Loaded) (s : State) : (loadCat sl fw c s).log.ready = s.log.ready := by
  unfold loadCat startPorts
  exact (ready_ite _ _ _).trans (ite_self _)

/-! ## The slot that passes (R106) -/

/-- An attempt that passes steps 3 to 8 gives the Catalogue, and leaves the flash, the OTP words and the log's rebuild. -/
theorem attempt_passes {x : AccIn} {sl : Slot} {c : Loaded} {s : State} (pass : (trySlot s sl (fwOf x sl) (sigOf x sl) x.readFails).1 = .ok c) (load : sl ∉ x.loadBad) :
    (attempt x sl s).1 = .ok c ∧ (attempt x sl s).2.flash = s.flash ∧ (attempt x sl s).2.otp = s.otp ∧ (attempt x sl s).2.log.ready = s.log.ready := by
  have good : x.loadBad.contains sl = false := by simpa using load
  have marked (n k : Nat) : (raiseReads n (setCause sl k s)).flash = s.flash ∧ (raiseReads n (setCause sl k s)).otp = s.otp ∧ (raiseReads n (setCause sl k s)).log.ready = s.log.ready := by
    obtain ⟨flash, otp, -, -⟩ := raiseReads_parts n (setCause sl k s)
    refine ⟨flash.trans ?_, otp.trans ?_, (raiseReads_ready n _).trans (setCause_ready sl k s)⟩ <;> cases sl <;> rfl
  unfold attempt
  dsimp only
  rw [pass, good]
  exact ⟨rfl, marked _ _⟩

/-! ## The end of an Accession (R108, R110) -/

/-- Without a failed slot the descriptor is at most written anew. -/
theorem settleDesc_frame (sl : Slot) (s : State) :
    settleDesc sl false s = { s with cat := { s.cat with descDue := (settleDesc sl false s).cat.descDue, descNext := (settleDesc sl false s).cat.descNext }, ops := { s.ops with waiting := (settleDesc sl false s).ops.waiting } } := by
  unfold settleDesc
  split
  · exact (changeDesc_frame _ s).1
  · rfl

theorem Supply.step_congr {x y : Supply} (h : x.fixed = y.fixed) : x.step = y.step := congrArg (fun z => z.2.2.2.2.2.2.2.2.2.1) h

/-- The Catalogue of the first slot is loaded and locked, with the pairs started; nothing stored changes. -/
def CatalogueLoaded (sl : Slot) (c : Loaded) (s t : State) : Prop :=
  t.cat.locked = true ∧ t.cat.result = 1 ∧ t.cat.slotRun = sl ∧ t.cat.recovery = false ∧ t.cat.params = c.recs ∧
    t.cat.crcs = loadedCrcs (mapCells c.recs) c.recs ∧ t.cat.map = mapCells c.recs ∧ t.cat.oemKey = c.oemKey ∧ t.cat.arb = c.arb ∧ t.sup.step = 8 ∧ t.log.ready = s.log.ready ∧
    (∀ p, (t.lks.pairs.get p).st = 1) ∧ t.flash = s.flash ∧ t.otp = s.otp

theorem finish_loads (x : AccIn) (sl : Slot) (c : Loaded) (s : State) : CatalogueLoaded sl c s (finish x sl false (.ok c) s) := by
  obtain ⟨loadFlash, loadOtp, loadStep, loadedCat, pairs⟩ := loadCat_parts sl (fwOf x sl) c { s with cat := { s.cat with result := 1 } }
  have loadReady := loadCat_ready sl (fwOf x sl) c { s with cat := { s.cat with result := 1 } }
  rw [show finish x sl false (.ok c) s = permitTest x.permitFail x.handshakes (selectId (settleDesc sl false (loadCat sl (fwOf x sl) c { s with cat := { s.cat with result := 1 } }))) from rfl]
  generalize loadCat sl (fwOf x sl) c { s with cat := { s.cat with result := 1 } } = u at *
  have settled := settleDesc_frame sl u
  generalize settleDesc sl false u = v at settled ⊢
  obtain ⟨idCat, idFlash, idOtp, idLks, idSup, -⟩ := selectId_parts v
  obtain ⟨permCat, permFlash, permOtp, permLks, permSup⟩ := permitTest_beyond x.permitFail x.handshakes (selectId v)
  have ready := (permitTest_ready x.permitFail x.handshakes (selectId v)).trans (selectId_ready v)
  generalize permitTest x.permitFail x.handshakes (selectId v) = t at *
  have cat : t.cat = { u.cat with descDue := v.cat.descDue, descNext := v.cat.descNext } := by rw [permCat, idCat, settled]
  have lks : t.lks = u.lks := by rw [permLks, idLks, settled]
  have flash : t.flash = s.flash := by rw [permFlash, idFlash, settled, loadFlash]
  have otp : t.otp = s.otp := by rw [permOtp, idOtp, settled, loadOtp]
  have step : t.sup.step = 8 := by rw [Supply.step_congr permSup, idSup, settled, loadStep]
  have log : t.log.ready = s.log.ready := by rw [ready, settled, loadReady]
  unfold CatalogueLoaded
  rw [cat, loadedCat, lks]
  exact ⟨rfl, rfl, rfl, rfl, rfl, rfl, rfl, rfl, rfl, step, log, pairs, flash, otp⟩

/-! ## From step 1 (R94, R105, R412) -/

/-- The state in which the first slot is tried: the memories cleared, the log rebuilt, the past logged, the order chosen. -/
def orderChosen (x : AccIn) (s : State) : State := chooseOrder (logPast (rebuildLog x.density (testKa x.kaCheckOk (zeroMemories s))))

theorem orderChosen_parts (x : AccIn) (s : State) :
    (orderChosen x s).flash = s.flash ∧ (orderChosen x s).otp = s.otp ∧ (orderChosen x s).cat.desc = newestDesc s.flash ∧ (orderChosen x s).log.ready = true := by
  have cleared : (testKa x.kaCheckOk (zeroMemories s)).flash = s.flash ∧ (testKa x.kaCheckOk (zeroMemories s)).otp = s.otp := by
    unfold testKa
    split <;> exact ⟨rfl, rfl⟩
  obtain ⟨logFlash, logOtp, logReady⟩ := rebuildLog_flash x.density (testKa x.kaCheckOk (zeroMemories s))
  obtain ⟨pastFlash, pastOtp⟩ := logPast_flash (rebuildLog x.density (testKa x.kaCheckOk (zeroMemories s)))
  obtain ⟨flash, otp, desc⟩ := chooseOrder_parts (logPast (rebuildLog x.density (testKa x.kaCheckOk (zeroMemories s))))
  have stored : (logPast (rebuildLog x.density (testKa x.kaCheckOk (zeroMemories s)))).flash = s.flash := pastFlash.trans (logFlash.trans cleared.1)
  exact ⟨flash.trans stored, otp.trans (pastOtp.trans (logOtp.trans cleared.2)), by rw [← stored]; exact desc, (chooseOrder_ready _).trans ((logPast_ready _).trans logReady)⟩

theorem execAccession_tries {s : State} {x : AccIn} (mode : s.sys.mode = .accession) (started : 5 ≤ s.sup.step) (unloaded : s.sup.step < 8) (dead : s.lks.dead = false) (check : startCheck x.eccReads x.defects = none) :
    exec (.accession x) s = .next (attempts x ((slotOrder (newestDesc s.flash)).take 2) false false (orderChosen x s)) := by
  have runs : ¬(s.sys.mode ≠ .accession ∨ s.sup.step < 5 ∨ 8 ≤ s.sup.step ∨ s.lks.dead = true) := by
    rintro (h | h | h | h)
    · exact h mode
    · omega
    · omega
    · exact Bool.noConfusion (dead.symm.trans h)
  show execAccession x s = _
  unfold execAccession
  rw [if_neg runs, check, ← (orderChosen_parts x s).2.2.1]
  rfl

theorem accession_clause (s : State) (x : AccIn) (sl : Slot) (c : Loaded) (mode : s.sys.mode = .accession) (started : 5 ≤ s.sup.step) (unloaded : s.sup.step < 8) (dead : s.lks.dead = false)
    (check : startCheck x.eccReads x.defects = none) (first : (slotOrder (newestDesc s.flash)).head? = some sl) (pass : (trySlot s sl (fwOf x sl) (sigOf x sl) x.readFails).1 = .ok c) (load : sl ∉ x.loadBad) :
    Answers (exec (.accession x) s) fun t => t.cat.locked = true ∧ t.cat.result = 1 ∧ t.cat.slotRun = sl ∧ t.cat.recovery = false ∧ t.cat.params = c.recs ∧
      t.cat.crcs = loadedCrcs (mapCells c.recs) c.recs ∧ t.cat.map = mapCells c.recs ∧ t.cat.oemKey = c.oemKey ∧ t.cat.arb = c.arb ∧ t.sup.step = 8 ∧ t.log.ready = true ∧
      (∀ p, (t.lks.pairs.get p).st = 1) ∧ t.flash = s.flash ∧ t.otp = s.otp := by
  obtain ⟨flash, otp, -, ready⟩ := orderChosen_parts x s
  obtain ⟨rest, order⟩ := List.head?_eq_some_iff.1 first
  have again : (trySlot (orderChosen x s) sl (fwOf x sl) (sigOf x sl) x.readFails).1 = .ok c := by
    rw [trySlot_congr flash otp]
    exact pass
  obtain ⟨ok, triedFlash, triedOtp, triedReady⟩ := attempt_passes again load
  have ends : attempts x ((slotOrder (newestDesc s.flash)).take 2) false false (orderChosen x s) = finish x sl false (.ok c) (attempt x sl (orderChosen x s)).2 := by
    rw [order, List.take_succ_cons]
    unfold attempts
    dsimp only
    rw [ok]
  have loaded := finish_loads x sl c (attempt x sl (orderChosen x s)).2
  refine ⟨_, (execAccession_tries mode started unloaded dead check).trans (congrArg Host.Outcome.next ends), ?_⟩
  unfold CatalogueLoaded at loaded
  rw [triedFlash, triedOtp, triedReady, flash, otp, ready] at loaded
  exact loaded

/-- Settles O13, clause by clause: the load, the blocked and the open write, and the check of the loaded copies with its two outcomes. -/
theorem loadedStores : Obligations.LoadedStores := by
  unfold Obligations.LoadedStores
  exact ⟨accession_clause, blockedWrite_clause, openWrite_clause, loadedFits_clause, loadedBroken_clause⟩

end Sys2Proof.Machine
end

section
/-! SUPPORT. A trigger of the Orrery: the codes it takes, their checks, the start trim, and the sinc2 output of an input (05_meridian_pwm.md, R146;
06_orrery_current_control.md, R157, R159, R160). -/

namespace Sys2Proof.Machine

/-! ## The codes of a trigger (R157) -/

/-- A set with the codes of a trigger: each sample gained, less its offset and saturated. -/
def gained (s : State) (x : TSet) (u v w z : Q) : OrrSet :=
  { s.orr.get x with
    iu := sat24 (gainCode s x 28 u - (s.orr.get x).ofsU), iv := sat24 (gainCode s x 32 v - (s.orr.get x).ofsV),
    iw := sat24 (gainCode s x 36 w - (s.orr.get x).ofsW), ix := sat24 ((if s.pu 0x30 x.num 16 = 1 then gainCode s x 40 z else 0) - (s.orr.get x).ofsX) }

/-- The state whose samples are checked. -/
def withCodes (s : State) (x : TSet) (o : OrrSet) : State := { s with orr := s.orr.put x o }

theorem withCodes_get (s : State) (x : TSet) (o : OrrSet) : (withCodes s x o).orr.get x = o := Tab.get_put_same _ _ _
theorem withCodes_withCodes (s : State) (x : TSet) (o p : OrrSet) : withCodes (withCodes s x o) x p = withCodes s x p := by
  unfold withCodes
  dsimp only
  rw [Tab.put_put]

/-- An enabled trigger of a set with SAR samples takes them (R141, R157). -/
theorem execSarSample_fires {s : State} {x : TSet} {tr : Trig} (u v w z : Int) (fires : trigFires s x.grp tr = true) (sar : s.pu 0x30 x.num 8 = 0) :
    exec (.sarSample x tr u v w z) s = .next (takeSamples x ((u : Q) / 32768) ((v : Q) / 32768) ((w : Q) / 32768) ((z : Q) / 32768) s) :=
  if_pos ⟨fires, sar⟩

/-- A trigger that TRIG_EN does not enable never fires (R141). -/
theorem trigFires_disabled {s : State} {g : Grp} {tr : Trig} (off : (s.pu 0x20 g 36).testBit (match tr with | .valley => 0 | .peak => 1) = false) : trigFires s g tr = false := by
  unfold trigFires
  dsimp only
  rw [Bool.and_assoc]
  cases tr <;> (dsimp only at off ⊢; rw [off]; simp)

/-- Outside the start trim a trigger's codes are checked, and that is all (R159). -/
theorem takeSamples_run {s : State} {x : TSet} (u v w z : Q) (run : (s.orr.get x).trimLeft = 0) :
    takeSamples x u v w z s = checkSamples x (withCodes s x (gained s x u v w z)) := if_pos run

/-- A set whose last checks are written into it counts down its start trim and adds the samples to its sums (R160). -/
def summed (s : State) (x : TSet) (u v w z : Q) (o : OrrSet) : OrrSet :=
  { o with
    trimLeft := (s.orr.get x).trimLeft - 1, sumU := (s.orr.get x).sumU + gainCode s x 28 u, sumV := (s.orr.get x).sumV + gainCode s x 32 v,
    sumW := (s.orr.get x).sumW + gainCode s x 36 w, sumX := (s.orr.get x).sumX + if s.pu 0x30 x.num 16 = 1 then gainCode s x 40 z else 0 }

/-- During the start trim the samples are checked and summed; the last ones end it (R160). -/
theorem takeSamples_trim {s : State} {x : TSet} (u v w z : Q) (trim : (s.orr.get x).trimLeft ≠ 0) :
    takeSamples x u v w z s =
      (let t := checkSamples x (withCodes s x (gained s x u v w z))
       let t := withCodes t x (summed s x u v w z (t.orr.get x))
       if (s.orr.get x).trimLeft = 1 then endTrim x t else t) := if_neg trim

/-! ## The checks (R159) -/

/-- No phase of a set lies above its limit, nor does their sum. -/
def CodesInside (s : State) (x : TSet) (o : OrrSet) : Prop :=
  absQ (codeA s x o.iu) ≤ s.pf 0x30 x.num 48 ∧ absQ (codeA s x o.iv) ≤ s.pf 0x30 x.num 48 ∧ absQ (codeA s x o.iw) ≤ s.pf 0x30 x.num 48 ∧
    absQ (codeA s x o.iu + codeA s x o.iv + codeA s x o.iw) ≤ s.pf 0x30 x.num 116

/-- Codes whose checks all pass end the run of large sums. -/
theorem checkSamples_pass {s : State} {x : TSet} {o : OrrSet} (inside : CodesInside s x o) : checkSamples x (withCodes s x o) = withCodes s x { o with sumRun := 0 } := by
  obtain ⟨first, second, third, sum⟩ := inside
  have e := withCodes_get s x o
  have ok := checkSamples_ok x (withCodes s x o) (by rw [e]; exact first) (by rw [e]; exact second) (by rw [e]; exact third) (by rw [e]; exact sum)
  rw [e] at ok
  exact ok.trans (withCodes_withCodes s x o _)

/-- A first phase above its limit raises 0x1802, in the start trim as after it. -/
theorem takeSamples_over {s : State} {x : TSet} (u v w z : Q) (high : s.pf 0x30 x.num 48 < absQ (codeA s x (gained s x u v w z).iu)) :
    active 0x1802 x.num (takeSamples x u v w z s) = true ∧ Grows s (takeSamples x u v w z s) ∧ (takeSamples x u v w z s).beyond = s.beyond := by
  generalize hc : checkSamples x (withCodes s x (gained s x u v w z)) = t
  have act : active 0x1802 x.num t = true := hc ▸ checkSamples_over x _ (by rw [withCodes_get]; exact high)
  have grows : Grows s t := hc ▸ checkSamples_grows x (withCodes s x (gained s x u v w z))
  have kept : t.beyond = s.beyond := hc ▸ checkSamples_beyond x (withCodes s x (gained s x u v w z))
  by_cases run : (s.orr.get x).trimLeft = 0
  · rw [takeSamples_run u v w z run, hc]
    exact ⟨act, grows, kept⟩
  · rw [takeSamples_trim u v w z run, hc]
    dsimp only
    generalize hw : withCodes t x (summed s x u v w z (t.orr.get x)) = y
    have act : active 0x1802 x.num y = true := hw ▸ act
    have grows : Grows s y := hw ▸ grows
    have kept : y.beyond = s.beyond := hw ▸ kept
    split
    · exact ⟨endTrim_grows x y _ _ act, grows.trans (endTrim_grows x y), (endTrim_beyond x y).trans kept⟩
    · exact ⟨act, grows, kept⟩

/-! ## The sinc2 output (R146) -/

/-- An output that its input gives goes to the two sets and to the charger. -/
theorem execSinc2Output_runs {s : State} {sdd : Fin 8} {bits : List Bool} {value : Q} (clock : (s.sdcDiv (sddClock sdd.val)).isSome = true) (out : sincOut 2 16 bits = some value) :
    exec (.sinc2Output sdd bits) s = .next (chargerSinc2 sdd value (sinc2Set .b sdd value (sinc2Set .a sdd value s))) := by
  obtain ⟨d, hd⟩ := Option.isSome_iff_exists.1 clock
  show execSinc2Output sdd bits s = _
  unfold execSinc2Output
  rw [hd, out]

/-- A set that the input serves with none of its phases takes no part. -/
theorem sinc2Set_idle {s : State} {x : TSet} {sdd : Fin 8} (value : Q) (idle : ∀ ch < 3, sddServes s x sdd ch = false) : sinc2Set x sdd value s = s := by
  unfold sinc2Set
  dsimp only
  simp only [idle 0 (by decide), idle 1 (by decide), idle 2 (by decide)]
  rfl

/-- A second phase whose output lies above its limit raises 0x1802 (R159). -/
theorem sinc2Set_over {s : State} {x : TSet} {sdd : Fin 8} {value : Q} (serves : sddServes s x sdd 1 = true)
    (high : s.pf 0x30 x.num 48 < absQ (codeA s x (sat24 (gainCode s x 32 value - (s.orr.get x).ofsV)))) : sinc2Set x sdd value s = raise 0x1802 x.num 0 s := by
  unfold sinc2Set
  dsimp only
  rw [if_pos]
  rw [serves, show overOc s x _ = true from decide_eq_true high]
  simp

/-- Without the charger an output is the sets' alone. -/
theorem chargerSinc2_absent {s : State} (sdd : Fin 8) (value : Q) (absent : s.fn 3 = false) : chargerSinc2 sdd value s = s := if_pos absent

/-- A charger that does not run keeps the tank current of its input, and judges nothing (R287). -/
theorem chargerSinc2_stopped {s : State} {sdd : Fin 8} (value : Q) (present : s.fn 3 = true) (own : s.pb 0x50 1 1 1 = sdd.val) (off : chargerOn s = false) :
    chargerSinc2 sdd value s = { s with dab := { s.dab with tank := value * s.pf 0x50 1 8 } } := by
  generalize hu : ({ s with dab := { s.dab with tank := value * s.pf 0x50 1 8 } } : State) = u
  have still : chargerOn u = false := hu ▸ off
  unfold chargerSinc2
  dsimp only
  rw [if_neg (by rw [present]; decide), if_pos (decide_eq_true own), hu]
  simp [still]

/-! ## The clauses -/

theorem sample_clause {s : State} {x : TSet} {tr : Trig} {u v w z : Int} {o : OrrSet} (fires : trigFires s x.grp tr = true) (sar : s.pu 0x30 x.num 8 = 0) (run : (s.orr.get x).trimLeft = 0)
    (ho : o = { gained s x ((u : Q) / 32768) ((v : Q) / 32768) ((w : Q) / 32768) ((z : Q) / 32768) with sumRun := 0 }) (inside : CodesInside s x o) :
    exec (.sarSample x tr u v w z) s = .next { s with orr := s.orr.put x o } := by
  have codes : CodesInside s x (gained s x ((u : Q) / 32768) ((v : Q) / 32768) ((w : Q) / 32768) ((z : Q) / 32768)) := by
    subst ho
    exact inside
  rw [execSarSample_fires u v w z fires sar, takeSamples_run _ _ _ _ run, checkSamples_pass codes, ho]
  rfl

theorem overcurrent_clause (s : State) (x : TSet) (tr : Trig) (u v w z : Int) (fires : trigFires s x.grp tr = true) (sar : s.pu 0x30 x.num 8 = 0)
    (high : s.pf 0x30 x.num 48 < absQ (codeA s x (gained s x ((u : Q) / 32768) ((v : Q) / 32768) ((w : Q) / 32768) ((z : Q) / 32768)).iu)) :
    Answers (exec (.sarSample x tr u v w z) s) fun t => active 0x1802 x.num t = true ∧ Grows s t ∧ t.beyond = s.beyond :=
  ⟨_, execSarSample_fires u v w z fires sar, takeSamples_over _ _ _ _ high⟩

theorem trimSum_clause {s : State} {x : TSet} {tr : Trig} {u v w z : Int} {o : OrrSet} {n : Nat} (fires : trigFires s x.grp tr = true) (sar : s.pu 0x30 x.num 8 = 0) (three : s.pu 0x30 x.num 16 = 0)
    (trim : (s.orr.get x).trimLeft = n + 2)
    (ho : o = { gained s x ((u : Q) / 32768) ((v : Q) / 32768) ((w : Q) / 32768) ((z : Q) / 32768) with ix := sat24 (0 - (s.orr.get x).ofsX), sumRun := 0 }) (inside : CodesInside s x o) :
    exec (.sarSample x tr u v w z) s = .next { s with orr := s.orr.put x { o with trimLeft := n + 1, sumU := o.sumU + gainCode s x 28 ((u : Q) / 32768), sumV := o.sumV + gainCode s x 32 ((v : Q) / 32768), sumW := o.sumW + gainCode s x 36 ((w : Q) / 32768) } } := by
  have fourth (y : Int) : (if s.pu 0x30 x.num 16 = 1 then y else 0) = 0 := if_neg (by rw [three]; decide)
  have same : { gained s x ((u : Q) / 32768) ((v : Q) / 32768) ((w : Q) / 32768) ((z : Q) / 32768) with sumRun := 0 } = o := by
    rw [ho]
    unfold gained
    rw [fourth]
  have codes : CodesInside s x (gained s x ((u : Q) / 32768) ((v : Q) / 32768) ((w : Q) / 32768) ((z : Q) / 32768)) := by
    subst ho
    exact inside
  rw [execSarSample_fires u v w z fires sar, takeSamples_trim _ _ _ _ (by omega), checkSamples_pass codes, same]
  dsimp only
  rw [if_neg (by omega), withCodes_get, withCodes_withCodes]
  unfold summed withCodes
  rw [fourth, trim, Int.add_zero]
  subst ho
  rfl

theorem sinc2Over_clause (s : State) (sdd : Fin 8) (bits : List Bool) (value : Q) (clock : (s.sdcDiv (sddClock sdd.val)).isSome = true) (out : sincOut 2 16 bits = some value) (absent : s.fn 3 = false)
    (serves : sddServes s .b sdd 1 = true) (high : s.pf 0x30 1 48 < absQ (codeA s .b (sat24 (gainCode s .b 32 value - (s.orr.get .b).ofsV))))
    (idle : sddServes s .a sdd 0 = false ∧ sddServes s .a sdd 1 = false ∧ sddServes s .a sdd 2 = false) :
    Answers (exec (.sinc2Output sdd bits) s) fun t => active 0x1802 1 t = true ∧ Grows s t ∧ t.beyond = s.beyond := by
  have run : exec (.sinc2Output sdd bits) s = .next (raise 0x1802 1 0 s) := by
    have idleA : ∀ ch < 3, sddServes s .a sdd ch = false := by
      intro ch h
      interval_cases ch
      · exact idle.1
      · exact idle.2.1
      · exact idle.2.2
    rw [execSinc2Output_runs clock out, sinc2Set_idle value idleA, sinc2Set_over serves high, chargerSinc2_absent]
    · rfl
    · rw [fn_cat (raise_cat _ _ _ s)]
      exact absent
  exact ⟨_, run, raise_active _ _ _ _, raise_grows _ _ _ _, raise_beyond _ _ _ s⟩

theorem tank_clause (s : State) (sdd : Fin 8) (bits : List Bool) (value : Q) (clock : (s.sdcDiv (sddClock sdd.val)).isSome = true) (out : sincOut 2 16 bits = some value)
    (idle : ∀ ch < 3, sddServes s .a sdd ch = false ∧ sddServes s .b sdd ch = false) (present : s.fn 3 = true) (own : s.pb 0x50 1 1 1 = sdd.val) (off : chargerOn s = false) :
    exec (.sinc2Output sdd bits) s = .next { s with dab := { s.dab with tank := value * s.pf 0x50 1 8 } } := by
  rw [execSinc2Output_runs clock out, sinc2Set_idle value (fun ch h => (idle ch h).1), sinc2Set_idle value (fun ch h => (idle ch h).2), chargerSinc2_stopped value present own off]

theorem disabledTrigger_clause (s : State) (x : TSet) (tr : Trig) (u v w z : Int) (off : (s.pu 0x20 x.grp 36).testBit (match tr with | .valley => 0 | .peak => 1) = false) :
    exec (.sarSample x tr u v w z) s = .next s :=
  if_neg fun k => Bool.noConfusion ((trigFires_disabled off).symm.trans k.1)

/-- Settles O17, clause by clause: a trigger's codes, a phase above its limit, the sums of the start trim, a sinc2 output for the second set and for the charger, and a disabled trigger. -/
theorem orrerySamples : Obligations.OrrerySamples := by
  unfold Obligations.OrrerySamples
  exact ⟨fun s x tr u v w z o fires sar run ho a b c d => sample_clause fires sar run ho ⟨a, b, c, d⟩, overcurrent_clause,
    fun s x tr u v w z o n fires sar three trim ho a b c d => trimSum_clause fires sar three trim ho ⟨a, b, c, d⟩, sinc2Over_clause, tank_clause, disabledTrigger_clause⟩

end Sys2Proof.Machine
end

section
/-! SUPPORT. The Orrery's update: what decides it, its DC-link sample, the late one and the stale one (01_architecture.md, R27; 05_meridian_pwm.md,
R131; 06_orrery_current_control.md, R158, R163, R173, R179). -/

namespace Sys2Proof.Machine

/-! ## What an update reads -/

theorem dc_of_beyond {s t : State} (h : t.beyond = s.beyond) : t.dc.fixed = s.dc.fixed := congrArg Beyond.dc h
theorem cat_of_beyond {s t : State} (h : t.beyond = s.beyond) : t.cat = s.cat := congrArg Beyond.cat h

/-- Whether die 1's sample is stale, no fault changes. -/
theorem stale_of_beyond {s t : State} (h : t.beyond = s.beyond) : t.dc.stale1 = s.dc.stale1 := by
  have fixed := dc_of_beyond h
  simp only [DcLink.fixed, Prod.mk.injEq] at fixed
  exact fixed.2.2.1

/-- The angle and the speed of a set depend on the records, the positions and the edges (R154, R217). -/
theorem setAngle_of_beyond {s t : State} (h : t.beyond = s.beyond) (x : TSet) (dt : Q) : setAngle t x dt = setAngle s x dt := by
  have reads (u : State) : setAngle u x dt = setAngle { State.reset with pos := u.pos, edge := u.edge, cat := u.cat } x dt := rfl
  rw [reads t, reads s, show t.pos = s.pos from congrArg Beyond.pos h, show t.edge = s.edge from congrArg Beyond.edge h, cat_of_beyond h]

theorem takeSamples_beyond (x : TSet) (u v w z : Q) (s : State) : (takeSamples x u v w z s).beyond = s.beyond := by
  unfold takeSamples
  simp

/-- The samples of an update's own trigger are taken whole or not at all (R145, R157). -/
theorem takeSd_cases (x : TSet) (ws : List SdWindow) (s : State) : takeSd x ws s = s ∨ ∃ u v w z, takeSd x ws s = takeSamples x u v w z s := by
  have one (p : Bool) (u v w z : Q) : (if p then takeSamples x u v w z s else s) = s ∨ ∃ u' v' w' z', (if p then takeSamples x u v w z s else s) = takeSamples x u' v' w' z' s := by
    cases p
    · exact .inl rfl
    · exact .inr ⟨u, v, w, z, rfl⟩
  unfold takeSd
  extract_lets gr en fires v z
  split
  · exact one fires _ _ _ _
  · exact .inl rfl

theorem takeSd_beyond (x : TSet) (ws : List SdWindow) (s : State) : (takeSd x ws s).beyond = s.beyond := by
  rcases takeSd_cases x ws s with none | ⟨u, v, w, z, taken⟩
  · rw [none]
  · rw [taken, takeSamples_beyond]

/-! ## The update (R163) -/

/-- The end of an update: its own result, and the offset trim where the sample lay in a zero-vector window (R161). -/
def trimmed (x : TSet) (v dt : Q) (s : State) : State :=
  if zeroWindow s x && trimEnabled s x then trimWindow x (updateCore x v dt s) else updateCore x v dt s

/-- A running set whose start trim is over updates (R163). -/
theorem execOrreryUpdate_runs {s u : State} {x : TSet} (y : OrrIn) (hu : u = if s.pu 0x30 x.num 8 = 1 then takeSd x y.sd s else s) (running : (s.orr.get x).running = true) (trim : (u.orr.get x).trimLeft = 0) :
    exec (.orreryUpdate x y) s = .next (trimmed x (takeVdc x (if u.dc.stale1 then none else y.vdc) u).1 y.dt (takeVdc x (if u.dc.stale1 then none else y.vdc) u).2) := by
  show execOrreryUpdate x y s = _
  unfold execOrreryUpdate
  dsimp only
  rw [if_neg (by rw [running]; decide), ← hu, if_neg (not_not.2 trim)]
  rfl

/-- Without FF_EN bit 4 no window trims the offsets. -/
theorem trimmed_disabled {x : TSet} (v dt : Q) {s : State} (off : (s.pu 0x30 x.num 92).testBit 4 = false) : trimmed x v dt s = updateCore x v dt s := by
  unfold trimmed
  rw [show trimEnabled s x = false from off, Bool.and_false]
  exact if_neg Bool.false_ne_true

theorem classOf_clip (x : TSet) (s : State) : classOf s 0x1806 x.num = 0 := by simp [classOf, codesF0]

/-- What an update below the trip speed writes: one entry of each of its three tables, and 0x1806 at most (R163). -/
theorem updateCore_below {x : TSet} {v dt : Q} {s : State} (below : aboveTwoPi (absQ (setAngle s x dt).2) (s.pf 0x30 x.num 136) = false) :
    ∃ es view c, SameButFaults { s with octl := s.octl.put x c, oview := s.oview.put x view, pwm := s.pwm.put x.grp { s.pwm.get x.grp with next := some es } } (updateCore x v dt s) ∧
      es.length = 3 ∧ (∀ e ∈ es, e ≤ (s.pwm.get x.grp).period / 2) ∧ view.m ≤ s.pf 0x30 x.num 120 ∧ (0 ≤ iLimit s x → absQ view.idRef ≤ iLimit s x) ∧ view.lateRun = 0 ∧ c.vdc = v := by
  obtain ⟨es, view, c, run, values⟩ := updateCore_spec x v dt s
  refine ⟨es, view, c, ?_, values⟩
  rw [run]
  dsimp only
  generalize hu : ({ s with octl := s.octl.put x c, oview := s.oview.put x view, pwm := s.pwm.put x.grp { s.pwm.get x.grp with next := some es } } : State) = u
  have speed : aboveTwoPi (absQ (setAngle s x dt).2) (u.pf 0x30 x.num 136) = false := by
    rw [← hu]
    exact below
  split
  · rw [pf_cat (raise_cat _ _ _ u), if_neg (by rw [speed]; decide)]
    exact raise_low_same 0x1806 x.num 0 u (fun s => by rw [classOf_clip]; decide) (by decide)
  · rw [if_neg (by rw [speed]; decide)]
    exact .refl u

theorem update_clause (s u : State) (x : TSet) (dt v : Q) (sd : List SdWindow) (hu : u = if s.pu 0x30 x.num 8 = 1 then takeSd x sd s else s) (running : (s.orr.get x).running = true) (trim : (u.orr.get x).trimLeft = 0)
    (valid : s.dc.stale1 = false) (off : (s.pu 0x30 x.num 92).testBit 4 = false) (below : aboveTwoPi (absQ (setAngle s x dt).2) (s.pf 0x30 x.num 136) = false) :
    Answers (exec (.orreryUpdate x { dt := dt, vdc := some v, sd := sd }) s) fun t =>
      (∃ es, t.pwm.get x.grp = { u.pwm.get x.grp with next := some es } ∧ es.length = 3 ∧ ∀ e ∈ es, e ≤ (u.pwm.get x.grp).period / 2) ∧
      (t.oview.get x).m ≤ s.pf 0x30 x.num 120 ∧ (0 ≤ iLimit u x → absQ (t.oview.get x).idRef ≤ iLimit u x) ∧ (t.oview.get x).lateRun = 0 ∧ (t.octl.get x).vdc = v ∧
      (∀ k, k ≠ x.grp → t.pwm.get k = u.pwm.get k) ∧ (∀ y, y ≠ x → t.oview.get y = u.oview.get y ∧ t.octl.get y = u.octl.get y) ∧
      SameButFaults { u with pwm := t.pwm, octl := t.octl, oview := t.oview } t := by
  have kept : u.beyond = s.beyond := by
    rw [hu]
    split
    · exact takeSd_beyond x sd s
    · rfl
  generalize hw : ({ u with octl := u.octl.put x { u.octl.get x with staleRun := 0 } } : State) = w
  have run : exec (.orreryUpdate x { dt := dt, vdc := some v, sd := sd }) s = .next (updateCore x v dt w) := by
    rw [execOrreryUpdate_runs { dt := dt, vdc := some v, sd := sd } hu running trim, stale_of_beyond kept, valid]
    refine congrArg Host.Outcome.next ?_
    show trimmed x v dt { u with octl := u.octl.put x { u.octl.get x with staleRun := 0 } } = _
    rw [hw]
    refine trimmed_disabled v dt ?_
    rw [← hw]
    exact (congrArg (fun n => n.testBit 4) (pu_cat (cat_of_beyond kept) _ _ _)).trans off
  have speed : aboveTwoPi (absQ (setAngle w x dt).2) (w.pf 0x30 x.num 136) = false := by
    rw [← hw]
    show aboveTwoPi (absQ (setAngle u x dt).2) (u.pf 0x30 x.num 136) = false
    rw [setAngle_of_beyond kept, pf_cat (cat_of_beyond kept)]
    exact below
  obtain ⟨es, view, c, same, three, inside, m, idRef, late, vdc⟩ := updateCore_below (v := v) speed
  have pwm : (updateCore x v dt w).pwm = u.pwm.put x.grp { u.pwm.get x.grp with next := some es } := by rw [same, ← hw]
  have oview : (updateCore x v dt w).oview = u.oview.put x view := by rw [same, ← hw]
  have octl : (updateCore x v dt w).octl = u.octl.put x c := by
    rw [same, ← hw]
    exact Tab.put_put _ _ _ _
  refine ⟨_, run, ⟨es, ?_, three, ?_⟩, ?_, ?_, ?_, ?_, ?_, ?_, ?_⟩
  · rw [pwm, Tab.get_put_same]
  · rw [← hw] at inside
    exact inside
  · rw [oview, Tab.get_put_same, ← pf_cat (cat_of_beyond kept)]
    rw [← hw] at m
    exact m
  · rw [oview, Tab.get_put_same]
    rw [← hw] at idRef
    exact idRef
  · rw [oview, Tab.get_put_same]
    exact late
  · rw [octl, Tab.get_put_same]
    exact vdc
  · intro k hk
    rw [pwm, Tab.get_put_other _ _ _ _ hk]
  · intro y hy
    rw [oview, octl, Tab.get_put_other _ _ _ _ hy, Tab.get_put_other _ _ _ _ hy]
    exact ⟨rfl, rfl⟩
  · rw [pwm, oview, octl]
    rw [← hw] at same ⊢
    dsimp only at same
    rw [Tab.put_put] at same
    exact same

/-! ## The late update (R27, R179) -/

/-- A set whose update is late: it counts, and the values in use stay. -/
def lateNoted (x : TSet) (s : State) : State :=
  { s with
    oview := s.oview.put x { s.oview.get x with lateLast := true, lateRun := min ((s.oview.get x).lateRun + 1) 255, lateTotal := min ((s.oview.get x).lateTotal + 1) 65535 }
    pwm := s.pwm.upd x.grp (fun g => { g with next := none, lateLast := true }) }

theorem execOrreryDeadlineMiss_runs {s : State} {x : TSet} (running : (s.orr.get x).running = true) :
    exec (.orreryDeadlineMiss x) s = .next (if (s.oview.get x).lateRun + 1 = 3 then raise 0x1801 x.num 0 (lateNoted x s) else lateNoted x s) := by
  show Host.Outcome.next (orrLate x s) = _
  unfold orrLate
  rw [if_neg (by rw [running]; decide)]
  rfl

theorem late_clause (s : State) (x : TSet) (running : (s.orr.get x).running = true) (few : (s.oview.get x).lateRun ≠ 2) : exec (.orreryDeadlineMiss x) s = .next (lateNoted x s) := by
  rw [execOrreryDeadlineMiss_runs running, if_neg (by omega)]

theorem thirdLate_clause (s : State) (x : TSet) (running : (s.orr.get x).running = true) (third : (s.oview.get x).lateRun = 2) :
    Answers (exec (.orreryDeadlineMiss x) s) fun t => active 0x1801 x.num t = true ∧ Grows s t ∧
      t.beyond = { s with oview := s.oview.put x { s.oview.get x with lateLast := true, lateRun := 3, lateTotal := min ((s.oview.get x).lateTotal + 1) 65535 } }.beyond := by
  refine ⟨_, execOrreryDeadlineMiss_runs running, ?_⟩
  rw [if_pos (by omega)]
  obtain ⟨act, grows, kept⟩ := raise_after (s := s) (u := lateNoted x s) 0x1801 x.num 0 rfl
  refine ⟨act, grows, kept.trans ?_⟩
  unfold lateNoted
  rw [third]
  rfl

/-! ## A stale DC-link sample (R158) -/

/-- Nothing beyond the Orrery's control state, its view and what faults touch has changed. -/
def OrrOnly (s t : State) : Prop := t.beyond = ({ s with octl := t.octl, oview := t.oview } : State).beyond

theorem OrrOnly.trans {s t u : State} (a : OrrOnly s t) (b : OrrOnly t u) : OrrOnly s u := by
  unfold OrrOnly at a b ⊢
  rw [b]
  exact congrArg (fun x : Beyond => { x with octl := u.octl, oview := viewsFixed u.oview }) a
/-- What no fault tells from a state has changed no more than that state. -/
theorem OrrOnly.of_beyond {s t u : State} (a : OrrOnly s t) (h : u.beyond = t.beyond) : OrrOnly s u := by
  have octl : u.octl = t.octl := congrArg Beyond.octl h
  have oview : viewsFixed u.oview = viewsFixed t.oview := congrArg Beyond.oview h
  unfold OrrOnly at a ⊢
  rw [h, a]
  exact congrArg₂ (fun c v => ({ s.beyond with octl := c, oview := v } : Beyond)) octl.symm oview.symm

theorem trimWindow_beyond (x : TSet) (s : State) : (trimWindow x s).beyond = s.beyond := by
  unfold trimWindow
  dsimp only
  simp
theorem trimWindow_grows (x : TSet) (s : State) : Grows s (trimWindow x s) := by
  unfold trimWindow
  exact raise_ite_grows (.of_eq rfl)

theorem OrrOnly.raise_ite {c i m : Nat} {p : Prop} [Decidable p] {s u : State} (a : OrrOnly s u) (hf : c ≠ 0x680A := by decide) (hq : c ≠ 0x7002 := by decide) : OrrOnly s (if p then raise c i m u else u) := by
  split
  · exact a.of_beyond (raise_beyond c i m u hf hq)
  · exact a
theorem raise_ite_octl {c i m : Nat} {p : Prop} [Decidable p] (u : State) : (if p then raise c i m u else u).octl = u.octl := by
  split
  · exact raise_octl c i m u
  · rfl

/-- An update leaves the count of stale samples (R158). -/
theorem updateCore_staleRun (x : TSet) (v dt : Q) (s : State) : ((updateCore x v dt s).octl.get x).staleRun = (s.octl.get x).staleRun := by
  delta updateCore
  lift_lets
  intro gr n o c tg pr ffEn p2 ts aw th we iu iv iw i band w mr lim d0 idr ql iqr ed eq xd xq six ov id2 iq2 cr be ffd ffq vd0 vq0 mCmd mMax vlim d q m fwOn xfw idb learn sgn3 c1 c2 off thO va vb comp cx es view s1 s2
  rw [raise_ite_octl, raise_ite_octl]
  show ((s.octl.put x c2).get x).staleRun = _
  rw [Tab.get_put_same]
  simp only [c2]
  split <;> rfl

/-- What every update leaves: the faults that are active, and all but the Orrery's own state; its DC-link value is the one it was given. -/
theorem updateCore_only (x : TSet) (v dt : Q) (s : State) : Grows s (updateCore x v dt s) ∧ OrrOnly s (updateCore x v dt s) ∧ ((updateCore x v dt s).octl.get x).vdc = v := by
  obtain ⟨es, view, c, run, -, -, -, -, -, vdc⟩ := updateCore_spec x v dt s
  rw [run]
  dsimp only
  generalize hu : ({ s with octl := s.octl.put x c, oview := s.oview.put x view, pwm := s.pwm.put x.grp { s.pwm.get x.grp with next := some es } } : State) = u
  have grows : Grows s u := .of_eq (by rw [← hu])
  have only : OrrOnly s u := by
    rw [← hu]
    rfl
  have value : (u.octl.get x).vdc = v := by
    rw [← hu]
    dsimp only
    rw [Tab.get_put_same]
    exact vdc
  refine ⟨raise_ite_grows (raise_ite_grows grows), only.raise_ite.raise_ite, ?_⟩
  rw [raise_ite_octl, raise_ite_octl]
  exact value

theorem trimmed_only (x : TSet) (v dt : Q) (s : State) :
    Grows s (trimmed x v dt s) ∧ OrrOnly s (trimmed x v dt s) ∧ ((trimmed x v dt s).octl.get x).vdc = v ∧ ((trimmed x v dt s).octl.get x).staleRun = (s.octl.get x).staleRun := by
  obtain ⟨grows, only, vdc⟩ := updateCore_only x v dt s
  have stale := updateCore_staleRun x v dt s
  unfold trimmed
  split
  · have kept := trimWindow_beyond x (updateCore x v dt s)
    have octl : (trimWindow x (updateCore x v dt s)).octl = (updateCore x v dt s).octl := congrArg Beyond.octl kept
    rw [octl]
    exact ⟨grows.trans (trimWindow_grows _ _), only.of_beyond kept, vdc, stale⟩
  · exact ⟨grows, only, vdc, stale⟩

theorem thirdStale_clause (s : State) (x : TSet) (dt : Q) (v : Option Q) (running : (s.orr.get x).running = true) (trim : (s.orr.get x).trimLeft = 0) (sar : s.pu 0x30 x.num 8 = 0)
    (stale : s.dc.stale1 = true ∨ v = none) (third : (s.octl.get x).staleRun = 2) :
    Answers (exec (.orreryUpdate x { dt := dt, vdc := v, sd := [] }) s) fun t => active 0x1805 x.num t = true ∧ Grows s t ∧ (t.octl.get x).vdc = (s.octl.get x).vdc ∧ (t.octl.get x).staleRun = 3 ∧
      t.beyond = { s with octl := t.octl, oview := t.oview }.beyond := by
  generalize hc : ({ s with octl := s.octl.put x { s.octl.get x with staleRun := 3 } } : State) = c
  have gone : (if s.dc.stale1 then none else v) = none := by
    rcases stale with stale | stale <;> rw [stale]
    · rfl
    · exact ite_self _
  have taken : takeVdc x (if s.dc.stale1 then none else v) s = ((s.octl.get x).vdc, raise 0x1805 x.num 0 c) := by
    rw [gone, ← hc]
    unfold takeVdc
    dsimp only
    rw [third, if_pos rfl]
  have run := execOrreryUpdate_runs { dt := dt, vdc := v, sd := [] } (u := s) (if_neg (by rw [sar]; decide)).symm running trim
  dsimp only at run
  rw [taken] at run
  obtain ⟨act, grows, kept⟩ := raise_after (s := s) (u := c) 0x1805 x.num 0 (by rw [← hc])
  have only : OrrOnly s (raise 0x1805 x.num 0 c) := OrrOnly.of_beyond (by rw [← hc]; rfl) kept
  have count : ((raise 0x1805 x.num 0 c).octl.get x).staleRun = 3 := by
    rw [raise_octl, ← hc]
    dsimp only
    rw [Tab.get_put_same]
  generalize raise 0x1805 x.num 0 c = w at act grows only count run
  obtain ⟨more, after, vdc, same⟩ := trimmed_only x (s.octl.get x).vdc dt w
  exact ⟨_, run, more _ _ act, grows.trans more, vdc, same.trans count, only.trans after⟩

/-- Settles O18, clause by clause: an update with a valid sample, a late one, the third late one in a row and the third on a stale sample. -/
theorem orreryUpdate : Obligations.OrreryUpdate := by
  unfold Obligations.OrreryUpdate
  exact ⟨update_clause, late_clause, thirdLate_clause, thirdStale_clause⟩

end Sys2Proof.Machine
end

section
/-! SUPPORT. Delay-line calibration: a measurement, the swap, a missed period and the loss of the crystal (05_meridian_pwm.md, R122 to R127). -/

namespace Sys2Proof.Machine

/-! ## A measurement (R123, R124, R126, R127) -/

/-- A new code is within one element of the code in use, and is the measured one wherever that is (R124). -/
theorem limitTap_near (inUse new : Nat) :
    limitTap inUse new ≤ inUse + 1 ∧ inUse ≤ limitTap inUse new + 1 ∧ (inUse ≤ new + 1 → new ≤ inUse + 1 → limitTap inUse new = new) := by
  unfold limitTap
  split_ifs <;> omega

theorem tapCodes_length (ne : Nat) : (tapCodes ne).length = 256 := by simp [tapCodes]
theorem tapCodes_get {ne j code : Nat} (h : (tapCodes ne)[j]? = some code) : code = roundN ((j * ne : Nat) / 4096 : Q) := by
  unfold tapCodes at h
  rw [List.getElem?_map] at h
  obtain ⟨k, range, measured⟩ := Option.map_eq_some_iff.1 h
  obtain ⟨short, same⟩ := List.getElem?_eq_some_iff.1 range
  rw [← measured, ← same, List.getElem_range]

theorem countsOk_of {counts : List Nat} (n : counts.length = 16) (inside : ∀ c ∈ counts, 300 ≤ c ∧ c ≤ 480) : countsOk counts = true := by
  unfold countsOk
  rw [n]
  simpa using inside
theorem countsOk_not {counts : List Nat} {c : Nat} (m : c ∈ counts) (out : c < 300 ∨ 480 < c) : countsOk counts = false := by
  unfold countsOk
  have bad : counts.all (fun c => decide (300 ≤ c) && decide (c ≤ 480)) = false := List.all_eq_false.2 ⟨c, m, by simp; omega⟩
  rw [bad, Bool.and_false]

/-- A later measurement fills the shadow table with the limited codes (R124). -/
theorem execCalibration_later {s : State} {counts : List Nat} (run : s.xtalOk = true) (later : s.mer.firstCal = true) (ok : countsOk counts = true) :
    ∃ lim, exec (.calibrationMeasurement counts) s =
      .next { s with mer := { s.mer with shadow := some (List.zipWith limitTap s.mer.taps (tapCodes (counts.foldl (· + ·) 0)), counts.foldl (· + ·) 0), shadowLim := lim, discarded := false, discRun := 0 } } := by
  refine ⟨decide (List.zipWith limitTap s.mer.taps (tapCodes (counts.foldl (· + ·) 0)) ≠ tapCodes (counts.foldl (· + ·) 0)), ?_⟩
  show execCalibrationMeasurement counts s = _
  unfold execCalibrationMeasurement
  simp only [run, later, ok, Bool.not_true, Bool.false_eq_true, if_false]

theorem measured_clause (s : State) (counts : List Nat) (run : s.xtalOk = true) (later : s.mer.firstCal = true) (n : counts.length = 16) (inside : ∀ c ∈ counts, 300 ≤ c ∧ c ≤ 480) :
    Answers (exec (.calibrationMeasurement counts) s) fun t => (∃ l, t.mer.shadow = some (l, counts.foldl (· + ·) 0) ∧ l.length = min s.mer.taps.length 256 ∧
      ∀ (j x y : Nat), s.mer.taps[j]? = some x → l[j]? = some y → y ≤ x + 1 ∧ x ≤ y + 1 ∧
        (x ≤ roundN ((j * counts.foldl (· + ·) 0 : Nat) / 4096 : Q) + 1 → roundN ((j * counts.foldl (· + ·) 0 : Nat) / 4096 : Q) ≤ x + 1 → y = roundN ((j * counts.foldl (· + ·) 0 : Nat) / 4096 : Q))) ∧
      t = { s with mer := { s.mer with shadow := t.mer.shadow, shadowLim := t.mer.shadowLim, discarded := false, discRun := 0 } } := by
  obtain ⟨lim, answer⟩ := execCalibration_later run later (countsOk_of n inside)
  refine ⟨_, answer, ⟨_, rfl, ?_, fun j x y inUse shadow => ?_⟩, rfl⟩
  · rw [List.length_zipWith, tapCodes_length]
  · obtain ⟨x', code, at', measured, rfl⟩ := List.getElem?_zipWith_eq_some.1 shadow
    obtain rfl : x = x' := Option.some.inj (inUse.symm.trans at')
    rw [← tapCodes_get measured]
    exact limitTap_near x code

theorem discarded_clause (s : State) (counts : List Nat) (c : Nat) (run : s.xtalOk = true) (m : c ∈ counts) (out : c < 300 ∨ 480 < c) :
    exec (.calibrationMeasurement counts) s = .next { s with mer := { s.mer with shadow := none, shadowLim := false, discarded := true } } := by
  show execCalibrationMeasurement counts s = _
  unfold execCalibrationMeasurement
  simp only [run, countsOk_not m out, Bool.not_true, Bool.not_false, Bool.false_eq_true, if_false, if_true]

/-- The bias drive starts where a feed is there, and the crystal runs (R67). -/
theorem startBias_eq {s : State} (run : s.xtalOk = true) :
    startBias s = { s with sup := { s.sup with biasA := if s.sup.holdup = false then !s.sup.biasStopA else s.sup.biasA, biasB := if s.sup.holdup = false then !s.sup.biasStopB else s.sup.biasB } } := by
  unfold startBias
  by_cases feed : s.sup.holdup = false
  · rw [if_pos ⟨run, feed⟩, if_pos feed, if_pos feed]
  · rw [if_neg (fun k => feed k.2), if_neg feed, if_neg feed]

theorem first_clause (s : State) (counts : List Nat) (run : s.xtalOk = true) (first : s.mer.firstCal = false) (n : counts.length = 16) (inside : ∀ c ∈ counts, 300 ≤ c ∧ c ≤ 480) (waits : s.sup.step = 4) :
    exec (.calibrationMeasurement counts) s = .next { s with
      mer := { s.mer with taps := (List.range 256).map (fun j => roundN ((j * counts.foldl (· + ·) 0 : Nat) / 4096 : Q)), ne := counts.foldl (· + ·) 0, firstCal := true, discarded := false, discRun := 0 }
      sup := { s.sup with step := 6, biasA := if s.sup.holdup = false then !s.sup.biasStopA else s.sup.biasA, biasB := if s.sup.holdup = false then !s.sup.biasStopB else s.sup.biasB } } := by
  show execCalibrationMeasurement counts s = _
  unfold execCalibrationMeasurement
  simp only [run, first, countsOk_of n inside, waits, Bool.not_true, Bool.not_false, Bool.false_eq_true, if_false, if_true]
  rw [startBias_eq (by exact run)]
  rfl

/-! ## The swap (R125) -/

theorem swap_clause (s : State) (tick ne : Nat) (codes : List Nat) (ready : s.mer.shadow = some (codes, ne)) (run : s.xtalOk = true) (late : 2000 ≤ tick) (inside : tick < 4000) :
    Answers (exec (.tapSwap tick true) s) fun t => t.mer.taps = codes ∧ t.mer.ne = ne ∧ t.mer.shadow = none ∧ t.mer.missRun = 0 ∧ t.mer.swaps = (s.mer.swaps + 1) % 2 ^ 16 ∧
      t.mer.limited = (if s.mer.shadowLim then min (s.mer.limited + 1) (2 ^ 16 - 1) else s.mer.limited) ∧
      t = { s with mer := { s.mer with taps := t.mer.taps, ne := t.mer.ne, shadow := t.mer.shadow, shadowLim := false, missRun := t.mer.missRun, swaps := t.mer.swaps, limited := t.mer.limited } } := by
  refine ⟨{ s with mer := { s.mer with taps := codes, ne := ne, shadow := none, shadowLim := false, missRun := 0, swaps := wrapInc 16 s.mer.swaps, limited := if s.mer.shadowLim then satInc 16 s.mer.limited else s.mer.limited } }, ?_, rfl, rfl, rfl, rfl, rfl, rfl, rfl⟩
  show execTapSwap tick true s = _
  unfold execTapSwap
  rw [ready]
  exact if_pos ⟨late, inside, rfl, run⟩

/-! ## A missed period (R125, R126) -/

/-- A period without a swap: the runs of missed periods and of discarded measurements go on, and no shadow table is left. -/
def missNoted (s : State) : State :=
  { s with mer := { s.mer with missRun := min (s.mer.missRun + 1) 255, discRun := (if s.mer.discarded then s.mer.discRun + 1 else 0), discarded := false, shadow := none, shadowLim := false } }

theorem execCalibrationMissed_runs {s : State} (run : s.xtalOk = true) :
    exec .calibrationMissed s = .next
      (let fourth := if s.mer.missRun = 3 then raise 0x0802 noInst 0 (missNoted s) else missNoted s
       let twentieth := if s.mer.missRun = 19 then raise 0x0803 noInst 0 fourth else fourth
       if s.mer.discarded = true ∧ s.mer.discRun = 2 then raise 0x0804 noInst 0 twentieth else twentieth) := by
  have third : (if s.mer.discarded then s.mer.discRun + 1 else 0) = 3 ↔ s.mer.discarded = true ∧ s.mer.discRun = 2 := by
    cases s.mer.discarded <;> simp
  have four : s.mer.missRun + 1 = 4 ↔ s.mer.missRun = 3 := by omega
  have twenty : s.mer.missRun + 1 = 20 ↔ s.mer.missRun = 19 := by omega
  show execCalibrationMissed s = _
  unfold execCalibrationMissed
  simp only [run, third, four, twenty, Bool.not_true, Bool.false_eq_true, if_false]
  rfl

theorem classOf_missed (s : State) : classOf s 0x0802 noInst = 1 := by simp [classOf, codesF0, codesF1]
theorem classOf_lost (s : State) : classOf s 0x0803 noInst = 4 := by simp [classOf, codesF0, codesF1, codesF2, codesF4]
theorem classOf_discards (s : State) : classOf s 0x0804 noInst = 4 := by simp [classOf, codesF0, codesF1, codesF2, codesF4]

theorem missed_clause (s : State) (run : s.xtalOk = true) (few : s.mer.missRun ≠ 19) (kept : ¬(s.mer.discarded = true ∧ s.mer.discRun = 2)) :
    Answers (exec .calibrationMissed s) fun t => (s.mer.missRun = 3 → active 0x0802 noInst t = true) ∧ (s.mer.missRun ≠ 3 → t.faults = s.faults) ∧ SameButFaults (missNoted s) t := by
  refine ⟨_, execCalibrationMissed_runs run, ?_⟩
  dsimp only
  rw [if_neg kept, if_neg few]
  by_cases four : s.mer.missRun = 3
  · rw [if_pos four]
    exact ⟨fun _ => raise_active _ _ _ _, fun k => absurd four k, raise_low_same _ _ _ _ (fun s => by rw [classOf_missed]; decide) (by decide)⟩
  · rw [if_neg four]
    exact ⟨fun k => absurd k four, fun _ => rfl, .refl _⟩

theorem missedLong_clause (s : State) (run : s.xtalOk = true) (_ : s.mer.missRun = 19 ∨ (s.mer.discarded = true ∧ s.mer.discRun = 2)) :
    Answers (exec .calibrationMissed s) fun t => (s.mer.missRun = 19 → active 0x0803 noInst t = true) ∧ (s.mer.discarded = true → s.mer.discRun = 2 → active 0x0804 noInst t = true) ∧
      t.beyond = (missNoted s).beyond := by
  refine ⟨_, execCalibrationMissed_runs run, fun twenty => ?_, fun out third => ?_, ?_⟩
  · refine raise_ite_active ?_
    rw [if_pos twenty]
    exact raise_active _ _ _ _
  · dsimp only
    rw [if_pos ⟨out, third⟩]
    exact raise_active _ _ _ _
  · dsimp only
    simp

/-! ## The loss of the crystal (R31, R67, R122) -/

theorem dcx_ite {c : Prop} [Decidable c] {s a b : State} (x : a.lvc.dcx = s.lvc.dcx) (y : b.lvc.dcx = s.lvc.dcx) : (if c then a else b).lvc.dcx = s.lvc.dcx := by split <;> assumption
theorem SameButFaults.dcx {s t : State} (h : SameButFaults s t) : t.lvc.dcx = s.lvc.dcx := by rw [h]
theorem stopGroup_dcx (g : Grp) (s : State) : (stopGroup g s).lvc.dcx = s.lvc.dcx := by rw [stopGroup_only]
theorem haltGroup_dcx (g : Grp) (s : State) : (haltGroup g s).lvc.dcx = s.lvc.dcx := by rw [haltGroup_only]
theorem dropTarget_dcx (x : TSet) (s : State) : (dropTarget x s).lvc.dcx = s.lvc.dcx := by cases x <;> rfl
theorem enterSafe_dcx (x : TSet) (s : State) : (enterSafe x s).lvc.dcx = s.lvc.dcx := by
  unfold enterSafe
  refine dcx_ite rfl (dcx_ite ?_ ?_)
  · rw [dropTarget_dcx]
    dsimp only
    rw [driveFreewheel_parts]
    exact stopGroup_dcx _ s
  · rw [dropTarget_dcx, haltGroup_dcx]
theorem stopTraction_dcx (s : State) : (stopTraction s).lvc.dcx = s.lvc.dcx := (enterSafe_dcx .b _).trans (enterSafe_dcx .a s)
theorem stopCharger_dcx (s : State) : (stopCharger s).lvc.dcx = s.lvc.dcx := by
  unfold stopCharger
  refine dcx_ite rfl ?_
  dsimp only
  rw [stopGroup_dcx, stopGroup_dcx]
theorem roleOff_dcx (s : State) : (roleOff s).lvc.dcx = s.lvc.dcx := by
  unfold roleOff
  dsimp only
  exact dcx_ite rfl rfl
theorem abortAct_dcx (a : Act) (s : State) : (abortAct a s).lvc.dcx = s.lvc.dcx := by
  unfold abortAct
  refine dcx_ite rfl ?_
  dsimp only
  rw [(raiseBase_same _ _ _ _).dcx, stopGroup_dcx]
theorem sessionOff_dcx (s : State) : (sessionOff s).lvc.dcx = s.lvc.dcx := by
  unfold sessionOff
  extract_lets u _ v
  have charge : u.lvc.dcx = s.lvc.dcx := dcx_ite (lvCharge_spec _ s).dcx rfl
  have role : v.lvc.dcx = u.lvc.dcx := dcx_ite rfl rfl
  exact role.trans charge
theorem sessionFail_dcx (s : State) : (sessionFail s).lvc.dcx = s.lvc.dcx := by
  unfold sessionFail sessionFailBy sessionOffBy
  refine dcx_ite rfl ?_
  exact dcx_ite (sessionOff_dcx _) (sessionOff_dcx s)

/-- SAFE leaves the DCX as it is: the LV converter goes on where it runs (R32). -/
theorem enterSafeMode_dcx (s : State) : (enterMode .safe s).lvc.dcx = s.lvc.dcx := by
  have outputs (u : State) : (modeOutputs .safe u).lvc.dcx = u.lvc.dcx := by
    unfold modeOutputs
    simp only [reduceCtorEq, or_self, if_false, if_true]
    rw [abortAct_dcx, abortAct_dcx, roleOff_dcx, stopCharger_dcx, stopTraction_dcx, stopGroup_dcx]
  unfold enterMode
  refine dcx_ite rfl ?_
  extract_lets _ _ entered out _ lv _ sess _ cyc _ req
  have off : out.lvc.dcx = s.lvc.dcx := outputs entered
  have converter : lv.lvc.dcx = out.lvc.dcx := by
    show (if Mode.safe = .ready then _ else _ : State).lvc.dcx = _
    rw [if_neg (by decide)]
    exact dcx_ite rfl rfl
  have session : sess.lvc.dcx = lv.lvc.dcx := dcx_ite (sessionFail_dcx _) rfl
  have cycle : cyc.lvc.dcx = sess.lvc.dcx := dcx_ite rfl rfl
  have request : req.lvc.dcx = cyc.lvc.dcx := dcx_ite rfl rfl
  rw [(pins_same _).dcx, request, cycle, session, converter, off]

theorem shipAbandon_dcx (s : State) : (shipAbandon s).lvc.dcx = s.lvc.dcx := by
  have start (u : State) : (startBias u).lvc.dcx = u.lvc.dcx := dcx_ite rfl rfl
  unfold shipAbandon
  exact dcx_ite (start _) (dcx_ite rfl rfl)

/-- A fault of class F4 leaves the DCX as it is. -/
theorem raise_f4_dcx (c i m : Nat) (s : State) (h : ∀ s, classOf s c i = 4) : (raise c i m s).lvc.dcx = s.lvc.dcx := by
  obtain ⟨u, same, run⟩ := raise_f4 c i m s h
  have dcx : u.lvc.dcx = s.lvc.dcx := by rcases same with same | same <;> rw [same.dcx]
  rcases run with run | run
  · rw [run, dcx]
  · rw [run, (pins_same _).dcx]
    exact (dcx_ite rfl ((enterSafeMode_dcx _).trans (shipAbandon_dcx u))).trans dcx

/-- Without the crystal a ship entry that is given up starts no bias drive (R67). -/
theorem shipAbandon_noCrystal {s : State} (lost : s.xtalOk = false) : (shipAbandon s).sup.biasA = s.sup.biasA ∧ (shipAbandon s).sup.biasB = s.sup.biasB := by
  have still (u : State) (k : u.xtalOk = false) : startBias u = u := if_neg fun h => Bool.noConfusion (k.symm.trans h.1)
  unfold shipAbandon
  split
  · dsimp only
    rw [still _ (by exact lost)]
    exact ⟨rfl, rfl⟩
  · split <;> exact ⟨rfl, rfl⟩

theorem Saf.xtalLatch_congr {x y : Saf} (h : x.fixed = y.fixed) : x.xtalLatch = y.xtalLatch := congrArg (fun z => z.2.1) h
/-- The latch of the loss ends the crystal's use for good. -/
theorem xtalOk_latched {s : State} (h : s.saf.xtalLatch = true) : s.xtalOk = false := by
  unfold State.xtalOk
  rw [h]
  exact Bool.and_false _

theorem classOf_crystal (s : State) : classOf s 0x0801 noInst = 4 := by simp [classOf, codesF0, codesF1, codesF2, codesF4]

/-- The state in which 0x0801 is raised: the loss latched, the bias drive and the DCX stopped. -/
def crystalGone (s : State) : State := stopDcx { s with saf := { s.saf with xtalLatch := true }, sup := { s.sup with biasA := false, biasB := false } }

theorem crystalGone_parts (s : State) :
    (crystalGone s).saf.xtalLatch = true ∧ (crystalGone s).sup.biasA = false ∧ (crystalGone s).sup.biasB = false ∧ (crystalGone s).lvc.dcx = 0 := by
  unfold crystalGone
  rw [stopDcx_parts]
  exact ⟨rfl, rfl, rfl, rfl⟩

theorem crystal_clause (s : State) (edges : Nat) (run : s.xtalOk = true) (out : edges < 70 ∨ 90 < edges) :
    Answers (exec (.crystalLoss edges) s) fun t => active 0x0801 noInst t = true ∧ t.xtalOk = false ∧ t.sup.biasA = false ∧ t.sup.biasB = false ∧ t.lvc.dcx = 0 ∧
      (∀ c : Chan, c.val < 29 → (t.gd.ch.get c).out ≠ .on) ∧ (∀ x, (t.ss.get x).st < 2) ∧ Grows s t ∧ t.beyond = { s with saf := { s.saf with xtalLatch := true } }.beyond := by
  obtain ⟨latched, biasA, biasB, dcx⟩ := crystalGone_parts s
  have grows : Grows s (crystalGone s) := .of_eq (stopDcx_faults _)
  have gone : (crystalGone s).beyond = ({ s with saf := { s.saf with xtalLatch := true } } : State).beyond := stopDcx_beyond _
  have runs : exec (.crystalLoss edges) s = .next (ascLost (bankOff 0 29 (raise 0x0801 noInst 0 (crystalGone s)))) := if_pos ⟨run, out⟩
  generalize crystalGone s = u at latched biasA biasB dcx grows gone runs
  have kept : (ascLost (bankOff 0 29 (raise 0x0801 noInst 0 u))).beyond = u.beyond := by
    rw [ascLost_beyond, bankOff_beyond, raise_beyond 0x0801 noInst 0 u]
  have faults : (ascLost (bankOff 0 29 (raise 0x0801 noInst 0 u))).faults = (raise 0x0801 noInst 0 u).faults := (ascLost_faults _).trans (bankOff_faults _ _ _)
  have bias : (raise 0x0801 noInst 0 u).sup.biasA = false ∧ (raise 0x0801 noInst 0 u).sup.biasB = false := by
    obtain ⟨a, b⟩ := shipAbandon_noCrystal (xtalOk_latched latched)
    rcases raise_f4_supply 0x0801 noInst 0 u classOf_crystal with e | e <;> rw [e]
    · exact ⟨biasA, biasB⟩
    · exact ⟨a.trans biasA, b.trans biasB⟩
  refine ⟨_, runs, ?_, ?_, ?_, ?_, ?_, fun c h => ascLost_offAt _ c (bankOff_off 0 29 _ (Nat.zero_le _) (by omega)), ascLost_freewheels _, ?_, kept.trans gone⟩
  · exact (active_of faults _ _).trans (raise_active _ _ _ _)
  · exact xtalOk_latched ((Saf.xtalLatch_congr (saf_of_beyond kept)).trans latched)
  · rw [ascLost_only, bankOff_only]
    exact bias.1
  · rw [ascLost_only, bankOff_only]
    exact bias.2
  · rw [ascLost_only, bankOff_only]
    exact (raise_f4_dcx 0x0801 noInst 0 u classOf_crystal).trans dcx
  · exact grows.trans ((raise_grows _ _ _ u).trans (.of_eq faults))

/-- Settles O15, clause by clause: a measurement in range, one that is discarded and the first one, the swap, a missed period without and with a fault of class F4, the loss of the crystal and the three classes. -/
theorem meridianCalibration : Obligations.MeridianCalibration := by
  unfold Obligations.MeridianCalibration
  exact ⟨measured_clause, discarded_clause, first_clause, swap_clause, missed_clause, missedLong_clause, crystal_clause, fun s => ⟨classOf_missed s, classOf_lost s, classOf_discards s⟩⟩

end Sys2Proof.Machine
end

section
/-! SUPPORT. The latch of a PWM group in each of its modes (05_meridian_pwm.md, R131 to R139; 07_torque_management.md, R206). -/

namespace Sys2Proof.Machine

/-! ## What a latch does before it takes its values (R135, R138, R150) -/

/-- Nothing is due at this latch beside its values: it lies within a period, or no period is asked for and the group follows no other. -/
def LatchQuiet (s : State) (g : Grp) : Prop :=
  (s.pu 0x20 g 0 = 0 ∧ (s.pwm.get g).rising = true) ∨ (s.pu 0x20 g 40 = 0 ∧ (s.pwm.get g).reqPeriod = none)

/-- A latch of a running group that has no task of its own takes the values by its mode. -/
theorem execPwmLatch_quiet {s : State} {g : Grp} (aux : Q) (running : (s.pwm.get g).running = true) (trim : s.trimPending g = false) (pre : (s.pwm.get g).preLeft = 0) (own : g ≠ 2 ∧ g ≠ 8 ∧ g ≠ 9) (quiet : LatchQuiet s g) :
    exec (.pwmLatch g aux) s =
      if s.pu 0x20 g 0 = 0 then .next (leaveAsc g (latchCentre g s)) else if s.pu 0x20 g 0 = 1 then .next (latchEdge g s) else if s.pu 0x20 g 0 = 2 then .next (latchShift g s) else .next s := by
  obtain ⟨chopper, park, shift⟩ := own
  show execPwmLatch g aux s = _
  unfold execPwmLatch
  extract_lets gr mode anchor atStart s1 s2 s3 s4
  rw [if_neg (by
    rintro (k | k | k)
    · exact Bool.noConfusion (running.symm.trans k)
    · exact Bool.noConfusion (trim.symm.trans k)
    · exact absurd pre (Nat.pos_iff_ne_zero.1 k))]
  have e1 : s1 = s := by
    rcases quiet with ⟨centre, rising⟩ | ⟨-, request⟩
    · exact if_neg (by simp [atStart, mode, gr, centre, rising])
    · have take : takePeriod g s = s := by
        unfold takePeriod
        dsimp only
        rw [request]
      show (if atStart then takePeriod g s else s) = s
      rw [take, ite_self]
  have follows (k : Nat) (hk : k ≠ 0) : ¬(atStart = true ∧ anchor = k) := by
    rintro ⟨start, at'⟩
    rcases quiet with ⟨centre, rising⟩ | ⟨free, -⟩
    · simp [atStart, mode, gr, centre, rising] at start
    · exact hk (at'.symm.trans free)
  have e2 : s2 = s := (if_neg (follows 2 (by decide))).trans e1
  have e3 : s3 = s := (if_neg (follows 1 (by decide))).trans e2
  have e4 : s4 = s := by
    show (if g = 2 then _ else if g = 8 then _ else if g = 9 then _ else s3) = s
    rw [if_neg chopper, if_neg park, if_neg shift, e3]
  rw [e4]

/-! ## The end of a set's safe state (R199, R206) -/

theorem leaveAsc_only (g : Grp) (s : State) : leaveAsc g s = { s with ss := (leaveAsc g s).ss } := by
  unfold leaveAsc
  split
  · rfl
  · split <;> rfl
/-- While Custodian holds ASC no latch ends it. -/
theorem leaveAsc_held {g : Grp} {s : State} (held : s.saf.ovHold = true) : leaveAsc g s = s := by
  unfold leaveAsc
  split
  · rfl
  · exact if_pos (.inr held)
theorem leaveAsc_ends {g : Grp} {s : State} (free : s.saf.ovHold = false) {x : TSet} (set : grpSet g = some x) : ((leaveAsc g s).ss.get x).st = 0 := by
  unfold leaveAsc
  rw [set]
  dsimp only
  split
  · rename_i k
    exact k.resolve_right (by rw [free]; decide)
  · rw [Tab.get_upd_same]
theorem leaveAsc_other {g : Grp} {s : State} {x : TSet} (other : grpSet g ≠ some x) : (leaveAsc g s).ss.get x = s.ss.get x := by
  unfold leaveAsc
  split
  · rfl
  · rename_i y set
    split
    · rfl
    · exact Tab.get_upd_other _ _ _ _ (by rintro rfl; exact other set)

/-! ## The clauses -/

theorem latchCentre_clause (s : State) (g : Grp) (aux : Q) (running : (s.pwm.get g).running = true) (trim : s.trimPending g = false) (pre : (s.pwm.get g).preLeft = 0) (own : g ≠ 2 ∧ g ≠ 8 ∧ g ≠ 9) (centre : s.pu 0x20 g 0 = 0)
    (quiet : (s.pwm.get g).rising = true ∨ (s.pu 0x20 g 40 = 0 ∧ (s.pwm.get g).reqPeriod = none)) :
    Answers (exec (.pwmLatch g aux) s) fun t =>
      (t.pwm.get g).e = zipLegs (minPulseHalf (!(s.pwm.get g).rising) (s.pu 0x20 g 24 + max (s.pu 0x20 g 16) (s.pu 0x20 g 20)) ((s.pwm.get g).period / 2)) (s.pwm.get g).e (((s.pwm.get g).next.getD (s.pwm.get g).e).map (fun e => min e ((s.pwm.get g).period / 2))) ∧
      (t.pwm.get g).period = (s.pwm.get g).period ∧ (t.pwm.get g).ePrev = (s.pwm.get g).e ∧ (t.pwm.get g).next = none ∧ (t.pwm.get g).rising = !(s.pwm.get g).rising ∧ (t.pwm.get g).lateLast = (s.pwm.get g).next.isNone ∧
      (t.pwm.get g).latched = ((s.pwm.get g).latched || (s.pwm.get g).next.isSome) ∧ (t.pwm.get g).running = true ∧
      (s.saf.ovHold = false → ∀ x, grpSet g = some x → (t.ss.get x).st = 0) ∧ (s.saf.ovHold = true → t.ss = s.ss) ∧ (∀ x, grpSet g ≠ some x → t.ss.get x = s.ss.get x) ∧
      (∀ k, k ≠ g → t.pwm.get k = s.pwm.get k) ∧ t = { s with pwm := t.pwm, ss := t.ss } := by
  have run := execPwmLatch_quiet aux running trim pre own (quiet.imp (fun k => ⟨centre, k⟩) id)
  rw [if_pos centre] at run
  have leaves := leaveAsc_only g (latchCentre g s)
  have pwm : (leaveAsc g (latchCentre g s)).pwm = (latchCentre g s).pwm := by rw [leaves]
  have self : (latchCentre g s).pwm.get g = _ := Tab.get_put_same _ _ _
  refine ⟨_, run, ?_⟩
  beta_reduce
  rw [pwm, self]
  refine ⟨rfl, rfl, rfl, rfl, rfl, rfl, rfl, running, fun free x set => leaveAsc_ends (s := latchCentre g s) free set, fun held => ?_,
    fun x other => leaveAsc_other (s := latchCentre g s) other, fun k hk => Tab.get_put_other _ _ _ _ hk, ?_⟩
  · rw [leaveAsc_held (s := latchCentre g s) held]
    rfl
  · rw [leaves]
    rfl

theorem latchEdge_clause (s : State) (g : Grp) (aux : Q) (running : (s.pwm.get g).running = true) (trim : s.trimPending g = false) (pre : (s.pwm.get g).preLeft = 0) (own : g ≠ 2 ∧ g ≠ 8 ∧ g ≠ 9) (edge : s.pu 0x20 g 0 = 1)
    (free : s.pu 0x20 g 40 = 0) (request : (s.pwm.get g).reqPeriod = none) :
    Answers (exec (.pwmLatch g aux) s) fun t =>
      (t.pwm.get g).e = zipLegs (minPulseEdge (s.pu 0x20 g 24 + max (s.pu 0x20 g 16) (s.pu 0x20 g 20)) (s.pwm.get g).period) (s.pwm.get g).e (((s.pwm.get g).next.getD (s.pwm.get g).e).map (fun e => min e (s.pwm.get g).period)) ∧
      (t.pwm.get g).period = (s.pwm.get g).period ∧ (t.pwm.get g).ePrev = (s.pwm.get g).e ∧ (t.pwm.get g).next = none ∧ (t.pwm.get g).lateLast = (s.pwm.get g).next.isNone ∧
      (∀ k, k ≠ g → t.pwm.get k = s.pwm.get k) ∧ t = { s with pwm := t.pwm } := by
  have run := execPwmLatch_quiet aux running trim pre own (.inr ⟨free, request⟩)
  rw [if_neg (by rw [edge]; decide), if_pos edge] at run
  have self : (latchEdge g s).pwm.get g = _ := Tab.get_put_same _ _ _
  refine ⟨_, run, ?_⟩
  beta_reduce
  rw [self]
  exact ⟨rfl, rfl, rfl, rfl, rfl, fun k hk => Tab.get_put_other _ _ _ _ hk, rfl⟩

theorem latchShift_clause (s : State) (g : Grp) (aux : Q) (running : (s.pwm.get g).running = true) (trim : s.trimPending g = false) (pre : (s.pwm.get g).preLeft = 0) (own : g ≠ 2 ∧ g ≠ 8 ∧ g ≠ 9) (shift : s.pu 0x20 g 0 = 2)
    (free : s.pu 0x20 g 40 = 0) (request : (s.pwm.get g).reqPeriod = none) : exec (.pwmLatch g aux) s = .next (latchShift g s) := by
  rw [execPwmLatch_quiet aux running trim pre own (.inr ⟨free, request⟩), if_neg (by rw [shift]; decide), if_neg (by rw [shift]; decide), if_pos shift]

end Sys2Proof.Machine
end

section
/-! SUPPORT. Turn-on edges of one channel and of the low sides of a bootstrap pre-charge (09_gate_drive.md, R20, R258, R261). -/

namespace Sys2Proof.Machine

/-! ## One turn-on edge -/

/-- A channel that is commanded on. -/
def commanded (c : Chan) (s : State) : State := s.updCh c (fun x => { x with cmd := true, linkOk := true })

/-- What an edge at a present channel can do: the command alone, the command and the need of a new edge or not, both sides of the leg off, or the output on. -/
theorem turnOn_cases (c : Chan) (s : State) (present : s.chPresent c = true) :
    turnOn c s = commanded c s ∨ (∃ b, turnOn c s = (commanded c s).updCh c (fun x => { x with needEdge := b })) ∨
      (∃ p, partner c = some p ∧ turnOn c s = legOff c p (commanded c s)) ∨ turnOn c s = drvOn c (commanded c s) := by
  generalize hw : commanded c s = w
  have cmd : s.updCh c (fun x => { x with cmd := true, linkOk := true }) = w := hw
  unfold turnOn
  rw [if_neg (by rw [present]; decide)]
  dsimp only
  rw [cmd]
  split
  · exact .inl rfl
  · split
    · exact .inr (.inl ⟨true, rfl⟩)
    · split
      next p leg =>
        split
        · exact .inr (.inr (.inl ⟨p, leg, rfl⟩))
        · split
          · exact .inr (.inl ⟨false, rfl⟩)
          · exact .inr (.inr (.inr rfl))
      next => exact .inr (.inr (.inr rfl))
theorem turnOn_absent {c : Chan} {s : State} (absent : s.chPresent c = false) : turnOn c s = s := if_pos absent

/-! ## Which channels an edge touches -/

theorem updCh_other {s : State} {c d : Chan} (f : GdChan → GdChan) (h : d ≠ c) : (s.updCh c f).gd.ch.get d = s.gd.ch.get d := by rw [updCh_gets, if_neg h]
theorem offSink_other {s : State} {c d : Chan} (h : d ≠ c) : (offSink c s).gd.ch.get d = s.gd.ch.get d := by
  unfold offSink offSinkAt
  split
  · exact updCh_other _ h
  · rfl
/-- An edge touches its channel, the other side of the leg and the high side that holds the leg's refresh, and no other. -/
theorem turnOn_other {c d : Chan} {s : State} (self : d ≠ c) (side : ∀ p, partner c = some p → d ≠ p) (high : d ≠ legHigh c) : (turnOn c s).gd.ch.get d = s.gd.ch.get d := by
  have cmd : (commanded c s).gd.ch.get d = s.gd.ch.get d := updCh_other _ self
  cases present : s.chPresent c with
  | false => rw [turnOn_absent present]
  | true =>
    rcases turnOn_cases c s present with e | ⟨b, e⟩ | ⟨p, leg, e⟩ | e <;> rw [e]
    · exact cmd
    · exact (updCh_other _ self).trans cmd
    · unfold legOff
      dsimp only
      rw [updCh_other _ high, updCh_other _ (side p leg), updCh_other _ self, offSink_other self, offSink_other (side p leg), cmd]
    · exact (updCh_other _ self).trans cmd

/-! ## Commands stay -/

theorem updCh_cmd {s : State} {c d : Chan} {f : GdChan → GdChan} (keeps : ∀ x, (f x).cmd = x.cmd) : ((s.updCh c f).gd.ch.get d).cmd = (s.gd.ch.get d).cmd := by
  rw [updCh_gets]
  split
  next e => rw [keeps, e]
  next => rfl
theorem offSink_cmd (c d : Chan) (s : State) : ((offSink c s).gd.ch.get d).cmd = (s.gd.ch.get d).cmd := by
  unfold offSink offSinkAt
  split
  · exact updCh_cmd fun _ => rfl
  · rfl
theorem legOff_cmd (c p d : Chan) (s : State) : ((legOff c p s).gd.ch.get d).cmd = (s.gd.ch.get d).cmd :=
  Eq.trans (updCh_cmd fun _ => rfl) (Eq.trans (updCh_cmd fun _ => rfl) (Eq.trans (updCh_cmd fun _ => rfl) ((offSink_cmd c d _).trans (offSink_cmd p d s))))
/-- Beyond its own command an edge changes none. -/
theorem turnOn_cmd (c d : Chan) (s : State) (present : s.chPresent c = true) : ((turnOn c s).gd.ch.get d).cmd = ((commanded c s).gd.ch.get d).cmd := by
  rcases turnOn_cases c s present with e | ⟨b, e⟩ | ⟨p, -, e⟩ | e <;> rw [e]
  · exact updCh_cmd fun _ => rfl
  · exact legOff_cmd c p d _
  · exact updCh_cmd fun _ => rfl
theorem turnOn_commands {c : Chan} {s : State} (present : s.chPresent c = true) : ((turnOn c s).gd.ch.get c).cmd = true := by
  rw [turnOn_cmd c c s present]
  unfold commanded
  rw [updCh_gets, if_pos rfl]
theorem turnOn_keeps_cmd {c d : Chan} {s : State} (h : (s.gd.ch.get d).cmd = true) : ((turnOn c s).gd.ch.get d).cmd = true := by
  cases present : s.chPresent c with
  | false => rw [turnOn_absent present, h]
  | true =>
    rw [turnOn_cmd c d s present]
    unfold commanded
    rw [updCh_gets]
    split
    · rfl
    · exact h

/-! ## The low sides of a pre-charge (R258) -/

theorem partner_legLow : ∀ c : Chan, isHighSide c = true → partner (legLow c) = some c := by decide
theorem legHigh_legLow : ∀ c : Chan, isHighSide c = true → legHigh (legLow c) = c := by decide
theorem grpOf_legLow : ∀ c : Chan, isHighSide c = true → grpOf (legLow c) = grpOf c := by decide
theorem isHighSide_legLow : ∀ c : Chan, isHighSide c = true → isHighSide (legLow c) = false := by decide

/-- The low sides of a list of legs are commanded on, one after the other. -/
def lowsOn (l : List Chan) (s : State) : State := l.foldl (fun s c => turnOn (legLow c) s) s

theorem lowsOn_only (l : List Chan) (s : State) : lowsOn l s = { s with gd := (lowsOn l s).gd } := by
  induction l generalizing s with
  | nil => rfl
  | cons c l ih => exact gd_trans (turnOn_only (legLow c) s) (ih _)
theorem lowsOn_offAt {l : List Chan} {s : State} {d : Chan} (n : ∀ c ∈ l, d ≠ legLow c) (h : s.gd.offAt d) : (lowsOn l s).gd.offAt d := by
  induction l generalizing s with
  | nil => exact h
  | cons c l ih => exact ih (fun k m => n k (List.mem_cons_of_mem c m)) (turnOn_offAt _ _ _ (n c List.mem_cons_self) h)
theorem lowsOn_other {l : List Chan} {s : State} {d : Chan} (highs : ∀ c ∈ l, isHighSide c = true) (n : ∀ c ∈ l, d ≠ c ∧ d ≠ legLow c) : (lowsOn l s).gd.ch.get d = s.gd.ch.get d := by
  induction l generalizing s with
  | nil => rfl
  | cons c l ih =>
    have high := highs c List.mem_cons_self
    obtain ⟨top, low⟩ := n c List.mem_cons_self
    refine (ih (fun k m => highs k (List.mem_cons_of_mem c m)) (fun k m => n k (List.mem_cons_of_mem c m))).trans (turnOn_other low (fun p leg => ?_) ?_)
    · rw [partner_legLow c high] at leg
      exact Option.some.inj leg ▸ top
    · rw [legHigh_legLow c high]
      exact top
theorem lowsOn_keeps_cmd {l : List Chan} {s : State} {d : Chan} (h : (s.gd.ch.get d).cmd = true) : ((lowsOn l s).gd.ch.get d).cmd = true := by
  induction l generalizing s with
  | nil => exact h
  | cons c l ih => exact ih (turnOn_keeps_cmd h)
/-- Every present low side of the list is commanded on at the end. -/
theorem lowsOn_commands {l : List Chan} {s : State} {c : Chan} (m : c ∈ l) (present : s.chPresent (legLow c) = true) : ((lowsOn l s).gd.ch.get (legLow c)).cmd = true := by
  induction l generalizing s with
  | nil => cases m
  | cons d l ih =>
    rcases List.mem_cons.1 m with rfl | m
    · exact lowsOn_keeps_cmd (l := l) (turnOn_commands present)
    · exact ih (s := turnOn (legLow d) s) m (by rw [turnOn_only]; exact present)

end Sys2Proof.Machine
end

section
/-! SUPPORT. The start and the stop of a PWM group (05_meridian_pwm.md, R138 to R140, R150; 09_gate_drive.md, R258; 10_charger_stages.md, R281). -/

namespace Sys2Proof.Machine

/-! ## The outputs at a start (R139, R206) -/

theorem startOff_eq (g : Grp) (s : State) : startOff g s = s ∨ startOff g s = (grpChans g).foldl stopChan s := by
  unfold startOff
  split
  · split
    · exact .inl rfl
    · exact .inr rfl
  · exact .inr rfl
theorem startOff_only (g : Grp) (s : State) : startOff g s = { s with gd := (startOff g s).gd } := by
  rcases startOff_eq g s with e | e <;> rw [e]
  exact stopChans_only _ s
theorem startOff_other {g : Grp} {s : State} {c : Chan} (n : c ∉ grpChans g) : (startOff g s).gd.ch.get c = s.gd.ch.get c := by
  rcases startOff_eq g s with e | e <;> rw [e]
  exact stopChans_get _ s c n
/-- Beside a set in ASC every output of the group is off. -/
theorem startOff_off {g : Grp} {s : State} (set : ∀ x, grpSet g = some x → (s.ss.get x).st < 2) {c : Chan} (m : c ∈ grpChans g) : (startOff g s).gd.offAt c := by
  unfold startOff
  split
  next x k =>
    rw [if_neg (not_le.2 (set x k))]
    exact stopChans_off _ s c m
  next => exact stopChans_off _ s c m
/-- A set in ASC keeps its outputs. -/
theorem startOff_asc {g : Grp} {s : State} (asc : ∃ x, grpSet g = some x ∧ 2 ≤ (s.ss.get x).st) : startOff g s = s := by
  obtain ⟨x, set, st⟩ := asc
  unfold startOff
  rw [set]
  exact if_pos st
theorem startOff_hi (g : Grp) (s : State) (c : Chan) : ((startOff g s).gd.ch.get c).hi = (s.gd.ch.get c).hi := by
  have kept : (startOff g s).gd.flags = s.gd.flags := by
    rcases startOff_eq g s with e | e <;> rw [e]
    exact flags_foldl _ stopChan_flags _ s
  have same := congrArg GdChan.hi (Gd.flags_get kept c)
  exact same

/-! ## Bootstrap readings (R258) -/

theorem readBoot_only (boot : List (Chan × Q)) (s : State) : readBoot boot s = { s with gd := (readBoot boot s).gd } := by
  unfold readBoot
  induction boot generalizing s with
  | nil => rfl
  | cons p boot ih => exact gd_trans (gdOnly_ite (updCh_only s p.1 _) rfl) (ih _)
theorem readBoot_offAt (boot : List (Chan × Q)) (s : State) (d : Chan) (h : s.gd.offAt d) : (readBoot boot s).gd.offAt d := by
  unfold readBoot
  exact offAt_foldl (fun s p k => offAt_site (updCh_offAt s p.1 (fun x => { x with hi := p.2 }) d (fun _ k => k) k) k) boot h
/-- A reading looks at no carrier. -/
theorem readBoot_pwm (boot : List (Chan × Q)) (s : State) (p : Tab Grp PwmGrp) : readBoot boot { s with pwm := p } = { readBoot boot s with pwm := p } := by
  unfold readBoot
  induction boot generalizing s with
  | nil => rfl
  | cons b boot ih =>
    rw [List.foldl_cons, List.foldl_cons]
    show List.foldl _ (if isHighSide b.1 && s.chPresent b.1 then ({ s.updCh b.1 (fun x => { x with hi := b.2 }) with pwm := p } : State) else { s with pwm := p }) boot = _
    split
    · exact ih _
    · exact ih _
/-- What two states' channels have in common and a reading keeps, they have in common after the same readings. -/
theorem readBoot_rel {R : GdChan → GdChan → Prop} (keeps : ∀ x y v, R x y → R { x with hi := v } { y with hi := v }) (boot : List (Chan × Q)) {s t : State} (cat : t.cat = s.cat) {c : Chan}
    (h : R (t.gd.ch.get c) (s.gd.ch.get c)) : R ((readBoot boot t).gd.ch.get c) ((readBoot boot s).gd.ch.get c) := by
  unfold readBoot
  induction boot generalizing s t with
  | nil => exact h
  | cons p boot ih =>
    have present : t.chPresent p.1 = s.chPresent p.1 := by
      unfold State.chPresent State.pb State.payload
      rw [cat]
    rw [List.foldl_cons, List.foldl_cons, present]
    split
    · refine ih cat ?_
      rw [updCh_gets, updCh_gets]
      split
      next e => exact keeps _ _ _ (e ▸ h)
      next => exact h
    · exact ih cat h
theorem readBoot_same (boot : List (Chan × Q)) {s t : State} (cat : t.cat = s.cat) {c : Chan} (h : t.gd.ch.get c = s.gd.ch.get c) : (readBoot boot t).gd.ch.get c = (readBoot boot s).gd.ch.get c :=
  readBoot_rel (R := Eq) (fun _ _ _ e => e ▸ rfl) boot cat h
theorem bootLow_congr {s t : State} (cat : t.cat = s.cat) {c : Chan} (hi : (t.gd.ch.get c).hi = (s.gd.ch.get c).hi) : bootLow t c = bootLow s c := by
  unfold bootLow
  rw [hi, pf_cat cat]
  unfold State.chPresent State.pb State.payload
  rw [cat]
theorem isHighSide_of_bootLow {s : State} {c : Chan} (h : bootLow s c = true) : isHighSide c = true := by
  unfold bootLow at h
  exact (Bool.and_eq_true_iff.1 (Bool.and_eq_true_iff.1 h).1).1

/-! ## A group that starts (R139, R138, R150, R258) -/

/-- Group 1 with ANCHOR 2 (R138). -/
abbrev follows (s : State) (g : Grp) : Prop := g = 1 ∧ s.pu 0x20 g 40 = 2
/-- The period that a group starts with (log entry 44). -/
def startPeriod (s : State) (g : Grp) : Nat := if follows s g ∧ (s.pwm.get 0).period ≠ 0 then (s.pwm.get 0).period else s.pu 0x20 g 12
/-- The legs that a start pre-charges. -/
def lowLegs (g : Grp) (boot : List (Chan × Q)) (s : State) : List Chan := (grpChans g).filter (bootLow (readBoot boot s))
/-- What a start makes of a group. -/
def startedGrp (g : Grp) (boot : List (Chan × Q)) (s : State) : PwmGrp :=
  { PwmGrp.reset with
    running := true, period := startPeriod s g, phase := if follows s g then shiftTarget s (startPeriod s g) else 0, runB := decide (follows s g)
    e := List.replicate (legsOf g) 0, target := List.replicate (legsOf g) 0, minp := (s.pwm.get g).minp, clip := (s.pwm.get g).clip
    precharged := lowLegs g boot s, preLeft := if lowLegs g boot s = [] then 0 else 800 }
/-- A start of a group, with its bootstrap readings. -/
def launch (g : Grp) (boot : List (Chan × Q)) (s : State) : State := orrStart g (precharge g (grpChans g) boot (startGroup g s))

theorem startGroup_eq (g : Grp) (s : State) :
    startGroup g s = { startOff g s with pwm := s.pwm.put g { startedGrp g [] s with precharged := [], preLeft := 0 } } := by
  unfold startGroup
  dsimp only
  rw [startOff_only]
  unfold startedGrp startPeriod
  simp only [decide_eq_true_eq]
  rfl

/-- The legs of a start are those that read low where it begins. -/
theorem lowLegs_startGroup (g : Grp) (boot : List (Chan × Q)) (s : State) : lowLegs g boot (startGroup g s) = lowLegs g boot s := by
  have cat : (startGroup g s).cat = s.cat := by rw [startGroup_eq, startOff_only]
  have hi (c : Chan) : ((startGroup g s).gd.ch.get c).hi = (s.gd.ch.get c).hi := by
    rw [startGroup_eq]
    exact startOff_hi g s c
  refine List.filter_congr fun c _ => bootLow_congr ?_ ?_
  · rw [readBoot_only, readBoot_only boot s]
    exact cat
  · exact readBoot_rel (R := fun x y => x.hi = y.hi) (fun _ _ _ _ => rfl) boot cat (hi c)

/-- A pre-charge turns the low sides of the legs that read low on, and the group's first edge waits for it (R258). -/
theorem precharge_eq (g : Grp) (boot : List (Chan × Q)) (s : State) :
    precharge g (grpChans g) boot s =
      { s with
        pwm := s.pwm.upd g (fun gr => { gr with precharged := lowLegs g boot s, preLeft := if lowLegs g boot s = [] then 0 else 800 })
        gd := (lowsOn (lowLegs g boot s) { readBoot boot s with pwm := s.pwm.upd g (fun gr => { gr with precharged := lowLegs g boot s, preLeft := if lowLegs g boot s = [] then 0 else 800 }) }).gd } := by
  have read := readBoot_only boot s
  have pwm : (readBoot boot s).pwm = s.pwm := by rw [read]
  show lowsOn (lowLegs g boot s) { readBoot boot s with pwm := (readBoot boot s).pwm.upd g (fun gr => { gr with precharged := lowLegs g boot s, preLeft := if lowLegs g boot s = [] then 0 else 800 }) } = _
  rw [pwm, lowsOn_only]
  generalize (lowsOn (lowLegs g boot s) _).gd = gd
  rw [read]

/-- The state in which the low sides of a start's pre-charge turn on. -/
def primed (g : Grp) (boot : List (Chan × Q)) (s : State) : State := { readBoot boot (startOff g s) with pwm := s.pwm.put g (startedGrp g boot s) }

/-- What a start writes: the group's carrier, its low sides, and a traction set's share of the Orrery. -/
theorem launch_eq (g : Grp) (boot : List (Chan × Q)) (s : State) :
    launch g boot s = orrStart g { s with pwm := s.pwm.put g (startedGrp g boot s), gd := (lowsOn (lowLegs g boot s) (primed g boot s)).gd } := by
  have carrier : (s.pwm.put g { startedGrp g [] s with precharged := [], preLeft := 0 }).upd g (fun gr => { gr with precharged := lowLegs g boot s, preLeft := if lowLegs g boot s = [] then 0 else 800 }) = s.pwm.put g (startedGrp g boot s) := by
    rw [Tab.upd_eq, Tab.get_put_same, Tab.put_put]
    rfl
  unfold launch
  rw [precharge_eq, lowLegs_startGroup, startGroup_eq, readBoot_pwm]
  dsimp only
  rw [carrier]
  unfold primed
  generalize (lowsOn (lowLegs g boot s) _).gd = gd
  rw [startOff_only]

theorem launch_only (g : Grp) (boot : List (Chan × Q)) (s : State) :
    launch g boot s = { s with pwm := (launch g boot s).pwm, gd := (launch g boot s).gd, orr := (launch g boot s).orr, octl := (launch g boot s).octl, oview := (launch g boot s).oview, tm := (launch g boot s).tm } := by
  rw [launch_eq, orrStart_only]
theorem launch_pwm (g : Grp) (boot : List (Chan × Q)) (s : State) : (launch g boot s).pwm = s.pwm.put g (startedGrp g boot s) := by rw [launch_eq, orrStart_only]
theorem launch_gd (g : Grp) (boot : List (Chan × Q)) (s : State) : (launch g boot s).gd = (lowsOn (lowLegs g boot s) (primed g boot s)).gd := by rw [launch_eq, orrStart_only]
/-- A group that is no traction set starts nothing of the Orrery. -/
theorem launch_plain {g : Grp} (set : grpSet g = none) (boot : List (Chan × Q)) (s : State) : launch g boot s = { s with pwm := (launch g boot s).pwm, gd := (launch g boot s).gd } := by
  rw [launch_eq]
  unfold orrStart
  rw [set]

/-! ## The outputs of a group that starts -/

theorem lowLegs_high {g : Grp} {boot : List (Chan × Q)} {s : State} {c : Chan} (m : c ∈ lowLegs g boot s) : isHighSide c = true ∧ grpOf c = g := by
  obtain ⟨group, low⟩ := List.mem_filter.1 m
  exact ⟨isHighSide_of_bootLow low, (grpChans_mem c g).1 group⟩

/-- The low side of a leg that is pre-charged is commanded on, where it is present. -/
theorem launch_commands {g : Grp} {boot : List (Chan × Q)} {s : State} {c : Chan} (m : c ∈ lowLegs g boot s) (present : s.chPresent (legLow c) = true) : ((launch g boot s).gd.ch.get (legLow c)).cmd = true := by
  rw [launch_gd]
  refine lowsOn_commands m ?_
  unfold primed
  rw [readBoot_only, startOff_only]
  exact present

/-- Beside a set in ASC every high side is off, and every output where nothing is pre-charged. -/
theorem launch_off {g : Grp} {boot : List (Chan × Q)} {s : State} (set : ∀ x, grpSet g = some x → (s.ss.get x).st < 2) {c : Chan} (m : c ∈ grpChans g) (rest : isHighSide c = true ∨ lowLegs g boot s = []) :
    (launch g boot s).gd.offAt c := by
  have off : (primed g boot s).gd.offAt c := readBoot_offAt boot _ c (startOff_off set m)
  rw [launch_gd]
  refine lowsOn_offAt (fun k low => ?_) off
  rcases rest with high | none
  · rintro rfl
    exact Bool.noConfusion (high.symm.trans (isHighSide_legLow k (lowLegs_high low).1))
  · rw [none] at low
    cases low

/-- A channel of another group has its bootstrap reading and nothing else. -/
theorem launch_other {g : Grp} (boot : List (Chan × Q)) (s : State) {c : Chan} (n : c ∉ grpChans g) : (launch g boot s).gd.ch.get c = (readBoot boot s).gd.ch.get c := by
  have group : grpOf c ≠ g := fun k => n ((grpChans_mem c g).2 k)
  rw [launch_gd, lowsOn_other (fun k low => (lowLegs_high low).1)]
  · exact readBoot_same boot (by rw [startOff_only]) (startOff_other n)
  · intro k low
    obtain ⟨high, own⟩ := lowLegs_high low
    constructor <;> rintro rfl
    · exact group own
    · exact group ((grpOf_legLow k high).trans own)

theorem groupStart_clause (s : State) (g : Grp) (bootstrap : List (Chan × Q)) (present : s.grpPresent g = true) (stopped : (s.pwm.get g).running = false) (free : s.pu 0x20 g 40 ≠ 1) (may : s.grpMayStart g = true) :
    Answers (exec (.groupStart g bootstrap) s) fun t => (t.pwm.get g).running = true ∧ (t.pwm.get g).latched = false ∧ (∀ e ∈ (t.pwm.get g).e, e = 0) ∧ (t.pwm.get g).next = none ∧
      (t.pwm.get g).period = (if g = 1 ∧ s.pu 0x20 g 40 = 2 ∧ (s.pwm.get 0).period ≠ 0 then (s.pwm.get 0).period else s.pu 0x20 g 12) ∧
      (t.pwm.get g).phase = (if g = 1 ∧ s.pu 0x20 g 40 = 2 then shiftTarget s (t.pwm.get g).period else 0) ∧
      (t.pwm.get g).precharged = (grpChans g).filter (bootLow (readBoot bootstrap s)) ∧ (t.pwm.get g).preLeft = (if (t.pwm.get g).precharged = [] then 0 else 800) ∧ (∀ c ∈ (t.pwm.get g).precharged, s.chPresent (legLow c) = true → (t.gd.ch.get (legLow c)).cmd = true) ∧
      ((∀ x, grpSet g = some x → (s.ss.get x).st < 2) → ∀ c ∈ grpChans g, isHighSide c = true ∨ (t.pwm.get g).precharged = [] → (t.gd.ch.get c).out ≠ .on) ∧ (∀ c, c ∉ grpChans g → t.gd.ch.get c = (readBoot bootstrap s).gd.ch.get c) ∧
      (∀ k, k ≠ g → t.pwm.get k = s.pwm.get k) ∧
      (grpSet g = none → t = { s with pwm := t.pwm, gd := t.gd }) ∧ t = { s with pwm := t.pwm, gd := t.gd, orr := t.orr, octl := t.octl, oview := t.oview, tm := t.tm } := by
  have run : exec (.groupStart g bootstrap) s = .next (launch g bootstrap s) := if_pos ⟨present, stopped, free, may⟩
  have self : (launch g bootstrap s).pwm.get g = startedGrp g bootstrap s := by rw [launch_pwm, Tab.get_put_same]
  have period : startPeriod s g = if g = 1 ∧ s.pu 0x20 g 40 = 2 ∧ (s.pwm.get 0).period ≠ 0 then (s.pwm.get 0).period else s.pu 0x20 g 12 := if_congr and_assoc rfl rfl
  refine ⟨_, run, ?_⟩
  beta_reduce
  rw [self]
  refine ⟨rfl, rfl, fun e m => List.eq_of_mem_replicate m, rfl, period, rfl, rfl, rfl, fun c m on => launch_commands m on, fun set c m rest => launch_off set m rest, fun c n => launch_other bootstrap s n,
    fun k hk => ?_, fun set => launch_plain set bootstrap s, launch_only g bootstrap s⟩
  rw [launch_pwm]
  exact Tab.get_put_other _ _ _ _ hk

theorem anchoredStart_clause (s : State) (g : Grp) (requestNs startNs : Q) (bootstrap : List (Chan × Q)) (present : s.grpPresent g = true) (stopped : (s.pwm.get g).running = false) (anchor : s.pu 0x20 g 40 = 1) (may : s.grpMayStart g = true)
    (locked : s.fabLocked = true) (instant : isAnchorInstant g startNs s = true) (after : requestNs + (s.pu 0x20 g 12 : Q) * 25 / 256 ≤ startNs) (first : startNs < requestNs + 2 * ((s.pu 0x20 g 12 : Q) * 25 / 256)) :
    Answers (exec (.anchoredGroupStart g requestNs startNs bootstrap) s) fun t => (t.pwm.get g).running = true ∧ (t.pwm.get g).anchLock = true ∧ (t.pwm.get g).latched = false ∧ (t.pwm.get g).period = s.pu 0x20 g 12 ∧
      (t.pwm.get g).precharged = (grpChans g).filter (bootLow (readBoot bootstrap s)) ∧ (t.pwm.get g).preLeft = (if (t.pwm.get g).precharged = [] then 0 else 800) ∧
      ((∀ x, grpSet g = some x → (s.ss.get x).st < 2) → ∀ c ∈ grpChans g, isHighSide c = true ∨ (t.pwm.get g).precharged = [] → (t.gd.ch.get c).out ≠ .on) ∧ (∀ c, c ∉ grpChans g → t.gd.ch.get c = (readBoot bootstrap s).gd.ch.get c) ∧
      (∀ k, k ≠ g → t.pwm.get k = s.pwm.get k) ∧ t = { s with pwm := t.pwm, gd := t.gd, orr := t.orr, octl := t.octl, oview := t.oview, tm := t.tm } := by
  generalize ht : ({ launch g bootstrap s with pwm := (launch g bootstrap s).pwm.upd g (fun gr => { gr with anchLock := true }) } : State) = t
  have run : exec (.anchoredGroupStart g requestNs startNs bootstrap) s = .next t :=
    (if_pos ⟨present, stopped, anchor, may, locked, instant, after, first⟩).trans (congrArg Host.Outcome.next ht)
  have gd : t.gd = (launch g bootstrap s).gd := by rw [← ht]
  have pwm : t.pwm = s.pwm.put g { startedGrp g bootstrap s with anchLock := true } := by
    rw [← ht]
    dsimp only
    rw [launch_pwm, Tab.upd_eq, Tab.get_put_same, Tab.put_put]
  have self : t.pwm.get g = { startedGrp g bootstrap s with anchLock := true } := by rw [pwm, Tab.get_put_same]
  have period : startPeriod s g = s.pu 0x20 g 12 := if_neg fun k => absurd (anchor.symm.trans k.1.2) (by decide)
  refine ⟨t, run, ?_⟩
  beta_reduce
  rw [self, gd]
  refine ⟨rfl, rfl, rfl, period, rfl, rfl, fun set c m rest => launch_off set m rest, fun c n => launch_other bootstrap s n, fun k hk => ?_, ?_⟩
  · rw [pwm]
    exact Tab.get_put_other _ _ _ _ hk
  · rw [← ht]
    dsimp only
    rw [launch_only]

/-! ## A group that stops (R140, R281) -/

/-- A group's carrier stops; its outputs turn off, but those of a set in ASC (R140, R250). -/
theorem execGroupStop_eq {s : State} {g : Grp} (pfc : g ≠ 3) (dab : g ≠ 4) : exec (.groupStop g) s = .next (haltGroup g (startOff g s)) := by
  show execGroupStop g s = _
  unfold execGroupStop startOff
  rw [if_neg (by rintro (k | k); exact pfc k; exact dab k)]
  unfold stopGroup
  cases grpSet g with
  | none => rfl
  | some x =>
    dsimp only
    by_cases asc : 2 ≤ (s.ss.get x).st
    · rw [if_pos asc, if_pos (decide_eq_true asc)]
    · rw [if_neg asc, if_neg (by rw [decide_eq_false asc]; decide)]

/-- What only a running carrier has (R197, R363): the chopper's, a bridge's, or nothing. -/
theorem haltOwner_cases (g : Grp) (s : State) :
    (g = 2 ∧ haltOwner g s = { s with dc := { s.dc with bcActive := false, bcDuty := 0 } }) ∨
      (g ≠ 2 ∧ (g = 8 ∨ g = 9) ∧ ∃ a, haltOwner g s = { s with act := s.act.upd a (fun x => { x with comm := .off }) }) ∨ (g ≠ 2 ∧ haltOwner g s = s) := by
  unfold haltOwner
  by_cases chopper : g = 2
  · exact .inl ⟨chopper, if_pos chopper⟩
  · rw [if_neg chopper]
    by_cases park : g = 8
    · exact .inr (.inl ⟨chopper, .inl park, .park, if_pos park⟩)
    · rw [if_neg park]
      by_cases shift : g = 9
      · exact .inr (.inl ⟨chopper, .inr shift, .shift, if_pos shift⟩)
      · exact .inr (.inr ⟨chopper, if_neg shift⟩)
theorem haltOwner_dc (g : Grp) (s : State) : (haltOwner g s).dc = if g = 2 then { s.dc with bcActive := false, bcDuty := 0 } else s.dc := by
  rcases haltOwner_cases g s with ⟨chopper, e⟩ | ⟨chopper, -, a, e⟩ | ⟨chopper, e⟩ <;> rw [e]
  · exact (if_pos chopper).symm
  · exact (if_neg chopper).symm
  · exact (if_neg chopper).symm
theorem haltOwner_act (g : Grp) (s : State) (a : Act) : (haltOwner g s).act.get a = { s.act.get a with comm := ((haltOwner g s).act.get a).comm } := by
  rcases haltOwner_cases g s with ⟨-, e⟩ | ⟨-, -, b, e⟩ | ⟨-, e⟩ <;> rw [e]
  rw [Tab.get_upd]
  split
  next own => rw [own]
  next => rfl
theorem haltOwner_act_same {g : Grp} (s : State) (park : g ≠ 8) (shift : g ≠ 9) : (haltOwner g s).act = s.act := by
  rcases haltOwner_cases g s with ⟨-, e⟩ | ⟨-, bridge, -⟩ | ⟨-, e⟩
  · rw [e]
  · exact absurd bridge (not_or.2 ⟨park, shift⟩)
  · rw [e]

/-- The carrier of a group that has stopped. -/
def PwmGrp.halted (x : PwmGrp) : PwmGrp := { x with running := false, latched := false, next := none, reqPeriod := none, stretch := 0, preLeft := 0 }

theorem haltGroup_dc (g : Grp) (s : State) : (haltGroup g s).dc = (haltOwner g { s with pwm := s.pwm.upd g PwmGrp.halted }).dc := by
  unfold haltGroup
  cases grpSet g <;> rfl
theorem haltGroup_act (g : Grp) (s : State) : (haltGroup g s).act = (haltOwner g { s with pwm := s.pwm.upd g PwmGrp.halted }).act := by
  unfold haltGroup
  cases grpSet g <;> rfl

theorem groupStop_clause (s : State) (g : Grp) (pfc : g ≠ 3) (dab : g ≠ 4) :
    Answers (exec (.groupStop g) s) fun t => (t.pwm.get g).running = false ∧ (t.pwm.get g).latched = false ∧ (t.pwm.get g).next = none ∧ ((∀ x, grpSet g = some x → (s.ss.get x).st < 2) → ∀ c ∈ grpChans g, (t.gd.ch.get c).out ≠ .on) ∧
      ((∃ x, grpSet g = some x ∧ 2 ≤ (s.ss.get x).st) → t.gd = s.gd) ∧ (∀ c, c ∉ grpChans g → t.gd.ch.get c = s.gd.ch.get c) ∧
      t.dc = (if g = 2 then { s.dc with bcActive := false, bcDuty := 0 } else s.dc) ∧ (∀ a, t.act.get a = { s.act.get a with comm := (t.act.get a).comm }) ∧ (g ≠ 8 → g ≠ 9 → t.act = s.act) ∧
      (∀ k, k ≠ g → t.pwm.get k = s.pwm.get k) ∧ t = { s with pwm := t.pwm, orr := t.orr, oview := t.oview, gd := t.gd, dc := t.dc, act := t.act } := by
  generalize ht : haltGroup g (startOff g s) = t
  have run : exec (.groupStop g) s = .next t := (execGroupStop_eq pfc dab).trans (congrArg Host.Outcome.next ht)
  have gd : t.gd = (startOff g s).gd := by rw [← ht, haltGroup_gd]
  have pwm : t.pwm = s.pwm.upd g PwmGrp.halted := by
    rw [← ht, haltGroup_pwm, startOff_only]
    rfl
  have own : t.pwm.get g = (s.pwm.get g).halted := by rw [pwm, Tab.get_upd, if_pos rfl]
  generalize hw : ({ startOff g s with pwm := (startOff g s).pwm.upd g PwmGrp.halted } : State) = w
  have wdc : w.dc = s.dc := by rw [← hw, startOff_only]
  have wact : w.act = s.act := by rw [← hw, startOff_only]
  have dc : t.dc = (haltOwner g w).dc := by rw [← ht, haltGroup_dc, hw]
  have act : t.act = (haltOwner g w).act := by rw [← ht, haltGroup_act, hw]
  refine ⟨t, run, ?_⟩
  beta_reduce
  rw [own, gd, dc, act]
  refine ⟨rfl, rfl, rfl, fun set c m => startOff_off set m, fun asc => by rw [startOff_asc asc], fun c n => startOff_other n, ?_, fun a => ?_, fun park shift => ?_, fun k hk => ?_, ?_⟩
  · rw [haltOwner_dc, wdc]
  · rw [← wact]
    exact haltOwner_act g w a
  · rw [haltOwner_act_same w park shift, wact]
  · rw [pwm, Tab.get_upd, if_neg hk]
  · rw [← gd, ← dc, ← act, ← ht, haltGroup_only, startOff_only]

/-! ## The charger's stop (R281, R331) -/

/-- A group of the charger has nothing beside its carrier and its outputs. -/
theorem stopGroup_charger {g : Grp} (charger : g = 3 ∨ g = 4) (s : State) : stopGroup g s = { s with pwm := s.pwm.upd g PwmGrp.halted, gd := (stopGroup g s).gd } := by
  rw [stopGroup_gd]
  unfold stopGroup
  rw [stopChans_only]
  rcases charger with rfl | rfl <;> rfl
theorem stopGroup_other {g : Grp} {c : Chan} (s : State) (n : c ∉ grpChans g) : (stopGroup g s).gd.ch.get c = s.gd.ch.get c := by
  rw [stopGroup_gd]
  exact stopChans_get _ s c n

/-- Both groups of the charger stop, one after the other. -/
def stopPair (s : State) : State := stopGroup 4 (stopGroup 3 s)

theorem stopPair_only (s : State) : stopPair s = { s with pwm := (s.pwm.upd 3 PwmGrp.halted).upd 4 PwmGrp.halted, gd := (stopPair s).gd } := by
  unfold stopPair
  rw [stopGroup_charger (.inr rfl) (stopGroup 3 s)]
  generalize (stopGroup 4 (stopGroup 3 s)).gd = gd
  rw [stopGroup_charger (.inl rfl) s]
theorem stopPair_chg (s : State) : (stopPair s).chg = s.chg := by rw [stopPair_only]
theorem stopPair_pwm (s : State) : (stopPair s).pwm = (s.pwm.upd 3 PwmGrp.halted).upd 4 PwmGrp.halted := by rw [stopPair_only]
theorem stopPair_off {s : State} {c : Chan} (m : c ∈ grpChans 3 ∨ c ∈ grpChans 4) : (stopPair s).gd.offAt c := by
  rcases m with m | m
  · exact stopGroup_offAt 4 _ c (offGroup 3 s c ((grpChans_mem c 3).1 m))
  · exact offGroup 4 _ c ((grpChans_mem c 4).1 m)
theorem stopPair_other {s : State} {c : Chan} (pfc : c ∉ grpChans 3) (dab : c ∉ grpChans 4) : (stopPair s).gd.ch.get c = s.gd.ch.get c :=
  (stopGroup_other _ dab).trans (stopGroup_other s pfc)

/-- The charger with S2 open. -/
def s2Open (s : State) : State := { s with chg := { s.chg with s2 := false } }

/-- A stop finds the charger off already, or both its groups stop, the PFC waits for its relays to open (state 5) and the DAB is off. -/
theorem stopCharger_cases (s : State) :
    ((s.pwm.get 3).running = false ∧ (s.pwm.get 4).running = false ∧ stopCharger s = s2Open s) ∨
      ∃ p d, p.st = 5 ∧ d.st = 0 ∧ stopCharger s = { stopPair (s2Open s) with pfc := p, dab := d } := by
  by_cases off : s.pfc.st = 0 ∧ s.dab.st = 0 ∧ (s.pwm.get 3).running = false ∧ (s.pwm.get 4).running = false
  · obtain ⟨-, -, pfc, dab⟩ := id off
    exact .inl ⟨pfc, dab, if_pos off⟩
  · refine .inr ⟨{ (stopPair (s2Open s)).pfc with st := 5, busOk := false, ilim := false, outReady := false },
      { (stopPair (s2Open s)).dab with st := 0, sag := false, iCmd := 0, win := [], revT := 0, stopRamp := none }, rfl, rfl, ?_⟩
    unfold stopPair s2Open stopCharger
    dsimp only
    rw [if_neg off]

theorem chargerStop_clause (s : State) (g : Grp) (charger : g = 3 ∨ g = 4) :
    Answers (exec (.groupStop g) s) fun t => (t.pwm.get 3).running = false ∧ (t.pwm.get 4).running = false ∧ t.chg = { s.chg with s2 := false } ∧
      ((s.pwm.get g).running = true → t.pfc.st = 5 ∧ t.dab.st = 0 ∧ ∀ c, c ∈ grpChans 3 ∨ c ∈ grpChans 4 → (t.gd.ch.get c).out ≠ .on) ∧
      (∀ c, c ∉ grpChans 3 → c ∉ grpChans 4 → t.gd.ch.get c = s.gd.ch.get c) ∧ (∀ k, k ≠ 3 → k ≠ 4 → t.pwm.get k = s.pwm.get k) ∧ t = { s with pwm := t.pwm, gd := t.gd, chg := t.chg, pfc := t.pfc, dab := t.dab } := by
  have run : exec (.groupStop g) s = .next (stopCharger s) := congrArg Host.Outcome.next (if_pos charger)
  obtain ⟨-, -, pfcOff, dabOff⟩ := stopCharger_off s
  refine ⟨_, run, pfcOff, dabOff, ?_⟩
  rcases stopCharger_cases s with ⟨pfc, dab, e⟩ | ⟨p, d, fails, ends, e⟩ <;> rw [e]
  · refine ⟨rfl, fun on => ?_, fun _ _ _ => rfl, fun _ _ _ => rfl, rfl⟩
    rcases charger with rfl | rfl
    · exact Bool.noConfusion (on.symm.trans pfc)
    · exact Bool.noConfusion (on.symm.trans dab)
  · have only := stopPair_only (s2Open s)
    have chg : (stopPair (s2Open s)).chg = { s.chg with s2 := false } := stopPair_chg (s2Open s)
    have off (c : Chan) (m : c ∈ grpChans 3 ∨ c ∈ grpChans 4) : (stopPair (s2Open s)).gd.offAt c := stopPair_off m
    have same (c : Chan) (h3 : c ∉ grpChans 3) (h4 : c ∉ grpChans 4) : (stopPair (s2Open s)).gd.ch.get c = s.gd.ch.get c := stopPair_other h3 h4
    have other (k : Grp) (h3 : k ≠ 3) (h4 : k ≠ 4) : (stopPair (s2Open s)).pwm.get k = s.pwm.get k := by
      rw [stopPair_pwm, Tab.get_upd, if_neg h4, Tab.get_upd, if_neg h3]
      rfl
    generalize stopPair (s2Open s) = w at only chg off same other
    refine ⟨chg, fun _ => ⟨fails, ends, off⟩, same, other, ?_⟩
    rw [only]
    rfl

/-! ## The obligation -/

/-- Settles O16, clause by clause: the latch in each mode, a start at PERIOD_INIT, the stop of a group and of the charger's groups, and an anchored start. -/
theorem pwmGroups : Obligations.PwmGroups := by
  unfold Obligations.PwmGroups
  exact ⟨latchCentre_clause, latchEdge_clause, latchShift_clause, groupStart_clause, groupStop_clause, chargerStop_clause, anchoredStart_clause⟩

end Sys2Proof.Machine
end

section
/-! SUPPORT. Every command, and every step, keeps the map store canonical and returns no OTP bit (06_orrery_current_control.md, R183;
21_security.md, R512). -/

namespace Sys2Proof.Machine

/-! ## The commands -/

/-- Every command answers a next state that keeps. Those that can write a memory or an OTP word, or reset the N9, stand first, each by its own law;
every other leaves the queue, both memories and the OTP words as they are. -/
theorem exec_keeps (c : Instr) (s : State) : oKeeps s (exec c s) := by
  cases c with
  | holdBelowVmin => exact execHoldBelowVmin_keeps ..
  | railMonitorReset => exact execRailMonitorReset_keeps ..
  | powerUp => exact execPowerUp_keeps ..
  | accession => exact execAccession_keeps ..
  | bootDescriptorWrite => exact execBootDescriptorWrite_keeps ..
  | postReadyOtpOperations => exact execPostReadyOtpOperations_keeps ..
  | lockedStoreWrite => exact execLockedStoreWrite_keeps ..
  | loadedStoreCrcCheck => exact execLoadedStoreCrcCheck_keeps ..
  | nrstReset => exact execNrstReset_keeps ..
  | svcResetRequest => exact execSvcResetRequest_keeps ..
  | shipFeedsDown => exact execShipFeedsDown_keeps ..
  | shipExit => exact execShipExit_keeps ..
  | flashOperationComplete => exact execFlashOperationComplete_keeps ..
  | lockstepMismatch => exact execLockstepMismatch_keeps ..
  | pairRestartComplete => exact execPairRestartComplete_keeps ..
  | debugResume => exact execDebugResume_keeps ..
  | scheduledResetInstant => exact execScheduledResetInstant_keeps ..
  | ecuReset => exact execEcuReset_keeps ..
  | keyVerificationDone => exact execKeyVerificationDone_keeps ..
  | jtagKey => exact execJtagKey_keeps ..
  | registerWrite => exact execRegisterWrite_keeps ..
  | feedPresent => exact oKeeps_of_okept (execFeedPresent_kept ..)
  | feedLost => exact oKeeps_of_okept (execFeedLost_kept ..)
  | feedOvervoltage => exact oKeeps_of_okept (execFeedOvervoltage_kept ..)
  | feedOvervoltageCleared => exact oKeeps_of_okept (execFeedOvervoltageCleared_kept ..)
  | idealDiodeTurnOff => exact oKeeps_of_okept (execIdealDiodeTurnOff_kept ..)
  | bothFeedsLost => exact oKeeps_of_okept (execBothFeedsLost_kept ..)
  | feedReturnInHoldup => exact oKeeps_of_okept (execFeedReturnInHoldup_kept ..)
  | biasCurrentLimit => exact oKeeps_of_okept (execBiasCurrentLimit_kept ..)
  | biasBankStop => exact oKeeps_of_okept (execBiasBankStop_kept ..)
  | crystalAccepted => exact oKeeps_of_okept (execCrystalAccepted_kept ..)
  | handshakeJudgement => exact oKeeps_of_okept (execHandshakeJudgement_kept ..)
  | nrstRelease => exact oKeeps_of_okept (execNrstRelease_kept ..)
  | svcAcknowledge => exact oKeeps_of_okept (execSvcAcknowledge_kept ..)
  | svcStuck => exact oKeeps_of_okept (execSvcStuck_kept ..)
  | svcReleased1s => exact oKeeps_of_okept (execSvcReleased1s_kept ..)
  | wakeLevelChange => exact oKeeps_of_okept (execWakeLevelChange_kept ..)
  | shipWritesTimeout => exact oKeeps_of_okept (execShipWritesTimeout_kept ..)
  | shipSwitchTimeout => exact oKeeps_of_okept (execShipSwitchTimeout_kept ..)
  | feedRiseWakeArmed => exact oKeeps_of_okept (execFeedRiseWakeArmed_kept ..)
  | wakeSourceQualified => exact oKeeps_of_okept (execWakeSourceQualified_kept ..)
  | shipWakeTimeout => exact oKeeps_of_okept (execShipWakeTimeout_kept ..)
  | acPresentChange => exact oKeeps_of_okept (execAcPresentChange_kept ..)
  | flashOperationStart => exact oKeeps_of_okept (execFlashOperationStart_kept ..)
  | pendingOperationRecheck => exact oKeeps_of_okept (execPendingOperationRecheck_kept ..)
  | requestDownload => exact oKeeps_of_okept (execRequestDownload_kept ..)
  | transferData => exact oKeeps_of_okept (execTransferData_kept ..)
  | requestTransferExit => exact oKeeps_of_okept (execRequestTransferExit_kept ..)
  | stagingBlockWritten => exact oKeeps_of_okept (execStagingBlockWritten_kept ..)
  | stagingSessionTimeout => exact oKeeps_of_okept (execStagingSessionTimeout_kept ..)
  | stageCheck => exact oKeeps_of_okept (execStageCheck_kept ..)
  | stageCommit => exact oKeeps_of_okept (execStageCommit_kept ..)
  | stageConfirm => exact oKeeps_of_okept (execStageConfirm_kept ..)
  | stageReject => exact oKeeps_of_okept (execStageReject_kept ..)
  | calibrationMeasurement => exact oKeeps_of_okept (execCalibrationMeasurement_kept ..)
  | tapSwap => exact oKeeps_of_okept (execTapSwap_kept ..)
  | calibrationMissed => exact oKeeps_of_okept (execCalibrationMissed_kept ..)
  | crystalLoss => exact oKeeps_of_okept (execCrystalLoss_kept ..)
  | pwmLatch => exact oKeeps_of_okept (execPwmLatch_kept ..)
  | groupStart => exact oKeeps_of_okept (execGroupStart_kept ..)
  | groupStop => exact oKeeps_of_okept (execGroupStop_kept ..)
  | anchoredGroupStart => exact oKeeps_of_okept (execAnchoredGroupStart_kept ..)
  | sarSample => exact oKeeps_of_okept (execSarSample_kept ..)
  | sinc2Output => exact oKeeps_of_okept (execSinc2Output_kept ..)
  | dcLinkSample => exact oKeeps_of_okept (execDcLinkSample_kept ..)
  | senseDieTriggerLoss => exact oKeeps_of_okept (execSenseDieTriggerLoss_kept ..)
  | orreryUpdate => exact oKeeps_of_okept (execOrreryUpdate_kept ..)
  | orreryDeadlineMiss => exact oKeeps_of_okept (execOrreryDeadlineMiss_kept ..)
  | chargerDeadlineMiss => exact oKeeps_of_okept (execChargerDeadlineMiss_kept ..)
  | ioTaskDeadlineMiss => exact oKeeps_of_okept (execIoTaskDeadlineMiss_kept ..)
  | modeEvaluation => exact oKeeps_of_okept (execModeEvaluation_kept ..)
  | dcLinkWindowChange => exact oKeeps_of_okept (execDcLinkWindowChange_kept ..)
  | ioTorqueTask => exact oKeeps_of_okept (execIoTorqueTask_kept ..)
  | torqueLossFault => exact oKeeps_of_okept (execTorqueLossFault_kept ..)
  | idleStop => exact oKeeps_of_okept (execIdleStop_kept ..)
  | rotorAngleOffset => exact oKeeps_of_okept (execRotorAngleOffset_kept ..)
  | windingResistance => exact oKeeps_of_okept (execWindingResistance_kept ..)
  | dcLinkDisagree => exact oKeeps_of_okept (execDcLinkDisagree_kept ..)
  | dcOvervoltageAsc => exact oKeeps_of_okept (execDcOvervoltageAsc_kept ..)
  | ovAscRelease => exact oKeeps_of_okept (execOvAscRelease_kept ..)
  | safeStateEntry => exact oKeeps_of_okept (execSafeStateEntry_kept ..)
  | safeStateChoice => exact oKeeps_of_okept (execSafeStateChoice_kept ..)
  | ascSideFault => exact oKeeps_of_okept (execAscSideFault_kept ..)
  | ascTrialRequest => exact oKeeps_of_okept (execAscTrialRequest_kept ..)
  | resolverUpdate => exact oKeeps_of_okept (execResolverUpdate_kept ..)
  | sentFrame => exact oKeeps_of_okept (execSentFrame_kept ..)
  | sentTimeout => exact oKeeps_of_okept (execSentTimeout_kept ..)
  | abzEdge => exact oKeeps_of_okept (execAbzEdge_kept ..)
  | hallEdge => exact oKeeps_of_okept (execHallEdge_kept ..)
  | indexRisingEdge => exact oKeeps_of_okept (execIndexRisingEdge_kept ..)
  | standstillTimeout => exact oKeeps_of_okept (execStandstillTimeout_kept ..)
  | emulationStep => exact oKeeps_of_okept (execEmulationStep_kept ..)
  | railOutOfWindow => exact oKeeps_of_okept (execRailOutOfWindow_kept ..)
  | railFlagClear => exact oKeeps_of_okept (execRailFlagClear_kept ..)
  | gateTurnOn => exact oKeeps_of_okept (execGateTurnOn_kept ..)
  | gateTurnOff => exact oKeeps_of_okept (execGateTurnOff_kept ..)
  | permitRemovalTurnOff => exact oKeeps_of_okept (execPermitRemovalTurnOff_kept ..)
  | secondaryLinkLoss => exact oKeeps_of_okept (execSecondaryLinkLoss_kept ..)
  | statusFrameLoss => exact oKeeps_of_okept (execStatusFrameLoss_kept ..)
  | readbackMismatch => exact oKeeps_of_okept (execReadbackMismatch_kept ..)
  | desaturation => exact oKeeps_of_okept (execDesaturation_kept ..)
  | gateChargeShort => exact oKeeps_of_okept (execGateChargeShort_kept ..)
  | shortReport => exact oKeeps_of_okept (execShortReport_kept ..)
  | watchWindowEnd => exact oKeeps_of_okept (execWatchWindowEnd_kept ..)
  | bootstrapRefresh => exact oKeeps_of_okept (execBootstrapRefresh_kept ..)
  | bootstrapUndervoltage => exact oKeeps_of_okept (execBootstrapUndervoltage_kept ..)
  | bootstrapOff => exact oKeeps_of_okept (execBootstrapOff_kept ..)
  | bootstrapUvClear => exact oKeeps_of_okept (execBootstrapUvClear_kept ..)
  | offStateDiagnostics => exact oKeeps_of_okept (execOffStateDiagnostics_kept ..)
  | tractionStartTest => exact oKeeps_of_okept (execTractionStartTest_kept ..)
  | clearLatchedFlags => exact oKeeps_of_okept (execClearLatchedFlags_kept ..)
  | pfcUpdate => exact oKeeps_of_okept (execPfcUpdate_kept ..)
  | dabUpdate => exact oKeeps_of_okept (execDabUpdate_kept ..)
  | chargerFaultStop => exact oKeeps_of_okept (execChargerFaultStop_kept ..)
  | chargerStopRequest => exact oKeeps_of_okept (execChargerStopRequest_kept ..)
  | mainRelayOpen => exact oKeeps_of_okept (execMainRelayOpen_kept ..)
  | forwardStart => exact oKeeps_of_okept (execForwardStart_kept ..)
  | relayConfirmed => exact oKeeps_of_okept (execRelayConfirmed_kept ..)
  | relayFeedbackTimeout => exact oKeeps_of_okept (execRelayFeedbackTimeout_kept ..)
  | prechargeComplete => exact oKeeps_of_okept (execPrechargeComplete_kept ..)
  | prechargeTimeout => exact oKeeps_of_okept (execPrechargeTimeout_kept ..)
  | busOkReached => exact oKeeps_of_okept (execBusOkReached_kept ..)
  | busRampTimeout => exact oKeeps_of_okept (execBusRampTimeout_kept ..)
  | busUndervoltage => exact oKeeps_of_okept (execBusUndervoltage_kept ..)
  | reverseStart => exact oKeeps_of_okept (execReverseStart_kept ..)
  | reverseOverload => exact oKeeps_of_okept (execReverseOverload_kept ..)
  | batteryContactorOpen => exact oKeeps_of_okept (execBatteryContactorOpen_kept ..)
  | lvConverterStart => exact oKeeps_of_okept (execLvConverterStart_kept ..)
  | lvConverterStop => exact oKeeps_of_okept (execLvConverterStop_kept ..)
  | lvRestartRequest => exact oKeeps_of_okept (execLvRestartRequest_kept ..)
  | dcxStartTimeout => exact oKeeps_of_okept (execDcxStartTimeout_kept ..)
  | v48Overvoltage => exact oKeeps_of_okept (execV48Overvoltage_kept ..)
  | v48Undervoltage => exact oKeeps_of_okept (execV48Undervoltage_kept ..)
  | buckTurnOnSlot => exact oKeeps_of_okept (execBuckTurnOnSlot_kept ..)
  | phaseCurrentLimit => exact oKeeps_of_okept (execPhaseCurrentLimit_kept ..)
  | lvcCmdWrite => exact oKeeps_of_okept (execLvcCmdWrite_kept ..)
  | referenceStep => exact oKeeps_of_okept (execReferenceStep_kept ..)
  | shortCheck => exact oKeeps_of_okept (execShortCheck_kept ..)
  | hiccupRetry => exact oKeeps_of_okept (execHiccupRetry_kept ..)
  | retriesReset => exact oKeeps_of_okept (execRetriesReset_kept ..)
  | remoteSenseLoss => exact oKeeps_of_okept (execRemoteSenseLoss_kept ..)
  | undershootResponse => exact oKeeps_of_okept (execUndershootResponse_kept ..)
  | releaseResponse => exact oKeeps_of_okept (execReleaseResponse_kept ..)
  | overvoltageHold => exact oKeeps_of_okept (execOvervoltageHold_kept ..)
  | overvoltageHoldEnd => exact oKeeps_of_okept (execOvervoltageHoldEnd_kept ..)
  | overvoltageHoldTimeout => exact oKeeps_of_okept (execOvervoltageHoldTimeout_kept ..)
  | phaseStop => exact oKeeps_of_okept (execPhaseStop_kept ..)
  | pilotStateChange => exact oKeeps_of_okept (execPilotStateChange_kept ..)
  | pilotDutyAccepted => exact oKeeps_of_okept (execPilotDutyAccepted_kept ..)
  | proximityCodeChange => exact oKeeps_of_okept (execProximityCodeChange_kept ..)
  | sessionEvaluation => exact oKeeps_of_okept (execSessionEvaluation_kept ..)
  | pulsePhaseEnd => exact oKeeps_of_okept (execPulsePhaseEnd_kept ..)
  | hlcSetupTimeout => exact oKeeps_of_okept (execHlcSetupTimeout_kept ..)
  | iso15118Message => exact oKeeps_of_okept (execIso15118Message_kept ..)
  | gridWaitTimeout => exact oKeeps_of_okept (execGridWaitTimeout_kept ..)
  | dischargeDcLinkCheck => exact oKeeps_of_okept (execDischargeDcLinkCheck_kept ..)
  | sessionRestart => exact oKeeps_of_okept (execSessionRestart_kept ..)
  | lvFloatSwitch => exact oKeeps_of_okept (execLvFloatSwitch_kept ..)
  | housekeepingRound => exact oKeeps_of_okept (execHousekeepingRound_kept ..)
  | housekeepingStale => exact oKeeps_of_okept (execHousekeepingStale_kept ..)
  | parkEngage => exact oKeeps_of_okept (execParkEngage_kept ..)
  | parkRelease => exact oKeeps_of_okept (execParkRelease_kept ..)
  | shift => exact oKeeps_of_okept (execShift_kept ..)
  | peakCurrentCut => exact oKeeps_of_okept (execPeakCurrentCut_kept ..)
  | stallDetected => exact oKeeps_of_okept (execStallDetected_kept ..)
  | brakeEnd => exact oKeeps_of_okept (execBrakeEnd_kept ..)
  | shiftDwellEnd => exact oKeeps_of_okept (execShiftDwellEnd_kept ..)
  | sequenceTimeout => exact oKeeps_of_okept (execSequenceTimeout_kept ..)
  | confirmationTimeout => exact oKeeps_of_okept (execConfirmationTimeout_kept ..)
  | bridgeSupplyLow => exact oKeeps_of_okept (execBridgeSupplyLow_kept ..)
  | safetyInputEdge => exact oKeeps_of_okept (execSafetyInputEdge_kept ..)
  | discrepancyLatch => exact oKeeps_of_okept (execDiscrepancyLatch_kept ..)
  | inputViewMismatch => exact oKeeps_of_okept (execInputViewMismatch_kept ..)
  | callistoCycle => exact oKeeps_of_okept (execCallistoCycle_kept ..)
  | callistoOverrun => exact oKeeps_of_okept (execCallistoOverrun_kept ..)
  | callistoWatchExpiry => exact oKeeps_of_okept (execCallistoWatchExpiry_kept ..)
  | safeStateRequest => exact oKeeps_of_okept (execSafeStateRequest_kept ..)
  | soReadbackMismatch => exact oKeeps_of_okept (execSoReadbackMismatch_kept ..)
  | custodianConfigCheck => exact oKeeps_of_okept (execCustodianConfigCheck_kept ..)
  | registerExport => exact oKeeps_of_okept (execRegisterExport_kept ..)
  | scrubRead => exact oKeeps_of_okept (execScrubRead_kept ..)
  | uncorrectableError => exact oKeeps_of_okept (execUncorrectableError_kept ..)
  | correctableError => exact oKeeps_of_okept (execCorrectableError_kept ..)
  | debugHalt => exact oKeeps_of_okept (execDebugHalt_kept ..)
  | debugRegisterWrite => exact oKeeps_of_okept (execDebugRegisterWrite_kept ..)
  | queuePush => exact oKeeps_of_okept (execQueuePush_kept ..)
  | queuePushTimeout => exact oKeeps_of_okept (execQueuePushTimeout_kept ..)
  | queueAbort => exact oKeeps_of_okept (execQueueAbort_kept ..)
  | zeroLengthCommit => exact oKeeps_of_okept (execZeroLengthCommit_kept ..)
  | queuePop => exact oKeeps_of_okept (execQueuePop_kept ..)
  | markCheck => exact oKeeps_of_okept (execMarkCheck_kept ..)
  | portDownExpiry => exact oKeeps_of_okept (execPortDownExpiry_kept ..)
  | portTrained => exact oKeeps_of_okept (execPortTrained_kept ..)
  | helloFrame => exact oKeeps_of_okept (execHelloFrame_kept ..)
  | alignmentLoss => exact oKeeps_of_okept (execAlignmentLoss_kept ..)
  | frameHeaderReceived => exact oKeeps_of_okept (execFrameHeaderReceived_kept ..)
  | frameEndReceived => exact oKeeps_of_okept (execFrameEndReceived_kept ..)
  | ackReceived => exact oKeeps_of_okept (execAckReceived_kept ..)
  | nakReceived => exact oKeeps_of_okept (execNakReceived_kept ..)
  | replayTimeout => exact oKeeps_of_okept (execReplayTimeout_kept ..)
  | linkDown => exact oKeeps_of_okept (execLinkDown_kept ..)
  | controlFrameReceived => exact oKeeps_of_okept (execControlFrameReceived_kept ..)
  | dataFrameReceived => exact oKeeps_of_okept (execDataFrameReceived_kept ..)
  | advertSend => exact oKeeps_of_okept (execAdvertSend_kept ..)
  | linkStateAdvert => exact oKeeps_of_okept (execLinkStateAdvert_kept ..)
  | epochListClose => exact oKeeps_of_okept (execEpochListClose_kept ..)
  | delayMeasurement => exact oKeeps_of_okept (execDelayMeasurement_kept ..)
  | timeFrame => exact oKeeps_of_okept (execTimeFrame_kept ..)
  | timeFrameTimeout => exact oKeeps_of_okept (execTimeFrameTimeout_kept ..)
  | read => exact oKeeps_of_okept (execRead_kept ..)
  | write => exact oKeeps_of_okept (execWrite_kept ..)
  | stageOpen => exact oKeeps_of_okept (execStageOpen_kept ..)
  | stageExit => exact oKeeps_of_okept (execStageExit_kept ..)
  | routine => exact oKeeps_of_okept (execRoutine_kept ..)
  | imageBlockPart => exact oKeeps_of_okept (execImageBlockPart_kept ..)
  | blockPartTimeout => exact oKeeps_of_okept (execBlockPartTimeout_kept ..)
  | reset => exact oKeeps_of_okept (execReset_kept ..)
  | barrier => exact oKeeps_of_okept (execBarrier_kept ..)
  | barrierComplete => exact oKeeps_of_okept (execBarrierComplete_kept ..)
  | snapshot => exact oKeeps_of_okept (execSnapshot_kept ..)
  | snapshotCapture => exact oKeeps_of_okept (execSnapshotCapture_kept ..)
  | logRead => exact oKeeps_of_okept (execLogRead_kept ..)
  | attest => exact oKeeps_of_okept (execAttest_kept ..)
  | heartbeatSend => exact oKeeps_of_okept (execHeartbeatSend_kept ..)
  | fabricHeartbeatTimeout => exact oKeeps_of_okept (execFabricHeartbeatTimeout_kept ..)
  | phbHeartbeatTimeout => exact oKeeps_of_okept (execPhbHeartbeatTimeout_kept ..)
  | arbSample => exact oKeeps_of_okept (execArbSample_kept ..)
  | arbitrationSample => exact oKeeps_of_okept (execArbitrationSample_kept ..)
  | leadRelease => exact oKeeps_of_okept (execLeadRelease_kept ..)
  | twoLeadsSeen => exact oKeeps_of_okept (execTwoLeadsSeen_kept ..)
  | handoverRequest => exact oKeeps_of_okept (execHandoverRequest_kept ..)
  | handoverInstant => exact oKeeps_of_okept (execHandoverInstant_kept ..)
  | handoverAbandon => exact oKeeps_of_okept (execHandoverAbandon_kept ..)
  | leadReturn => exact oKeeps_of_okept (execLeadReturn_kept ..)
  | arbTest => exact oKeeps_of_okept (execArbTest_kept ..)
  | swapEnd => exact oKeeps_of_okept (execSwapEnd_kept ..)
  | soloExit => exact oKeeps_of_okept (execSoloExit_kept ..)
  | busOff => exact oKeeps_of_okept (execBusOff_kept ..)
  | busOffRejoin => exact oKeeps_of_okept (execBusOffRejoin_kept ..)
  | ethLinkChange => exact oKeeps_of_okept (execEthLinkChange_kept ..)
  | controlMessageReceived => exact oKeeps_of_okept (execControlMessageReceived_kept ..)
  | streamTimeout => exact oKeeps_of_okept (execStreamTimeout_kept ..)
  | messageTransmit => exact oKeeps_of_okept (execMessageTransmit_kept ..)
  | diagnosticSessionControl => exact oKeeps_of_okept (execDiagnosticSessionControl_kept ..)
  | s3SessionTimeout => exact oKeeps_of_okept (execS3SessionTimeout_kept ..)
  | clearDiagnosticInformation => exact oKeeps_of_okept (execClearDiagnosticInformation_kept ..)
  | readDtcInformation => exact oKeeps_of_okept (execReadDtcInformation_kept ..)
  | readDataByIdentifier => exact oKeeps_of_okept (execReadDataByIdentifier_kept ..)
  | readMemoryByAddress => exact oKeeps_of_okept (execReadMemoryByAddress_kept ..)
  | writeDataByIdentifier => exact oKeeps_of_okept (execWriteDataByIdentifier_kept ..)
  | routineResults => exact oKeeps_of_okept (execRoutineResults_kept ..)
  | testerPresent => exact oKeeps_of_okept (execTesterPresent_kept ..)
  | requestSeed => exact oKeeps_of_okept (execRequestSeed_kept ..)
  | sendKey => exact oKeeps_of_okept (execSendKey_kept ..)
  | challengeTimeout => exact oKeeps_of_okept (execChallengeTimeout_kept ..)
  | unlockDelayEnd => exact oKeeps_of_okept (execUnlockDelayEnd_kept ..)
  | attestationRequest => exact oKeeps_of_okept (execAttestationRequest_kept ..)
  | jtagChal => exact oKeeps_of_okept (execJtagChal_kept ..)
  | modemStatusRead => exact oKeeps_of_okept (execModemStatusRead_kept ..)
  | modemLinkLoss => exact oKeeps_of_okept (execModemLinkLoss_kept ..)
  | modemFrameReceive => exact oKeeps_of_okept (execModemFrameReceive_kept ..)
  | faultRaise => exact oKeeps_of_okept (execFaultRaise_kept ..)
  | faultClear => exact oKeeps_of_okept (execFaultClear_kept ..)
  | faultExpiry => exact oKeeps_of_okept (execFaultExpiry_kept ..)
  | logBlockClose => exact oKeeps_of_okept (execLogBlockClose_kept ..)
  | rcRegisterRead => exact oKeeps_of_okept (execRcRegisterRead_kept ..)
  | railMonitorRelease => exact oKeeps_of_okept (execRailMonitorRelease_kept ..)
  | kaFirstApplication => exact oKeeps_of_okept (execKaFirstApplication_kept ..)
  | phbInEdge => exact oKeeps_of_okept (execPhbInEdge_kept ..)
  | phbOutToggle => exact oKeeps_of_okept (execPhbOutToggle_kept ..)
  | arbRelease => exact oKeeps_of_okept (execArbRelease_kept ..)
  | timeFrameSend => exact oKeeps_of_okept (execTimeFrameSend_kept ..)
  | helloSend => exact oKeeps_of_okept (execHelloSend_kept ..)
  | eobReceived => exact oKeeps_of_okept (execEobReceived_kept ..)
  | phyResetRelease => exact oKeeps_of_okept (execPhyResetRelease_kept ..)
  | attestationSigned => exact oKeeps_of_okept (execAttestationSigned_kept ..)
  | unsupportedService => exact oKeeps_of_okept (execUnsupportedService_kept ..)
  | opUnknown => exact oKeeps_of_okept (execOpUnknown_kept ..)

/-! ## A step -/

/-- With no command in front there is none to take. -/
theorem tail_kept_of_nil {s : State} (idle : s.pending = []) : ({ s with pending := s.pending.tail } : State).kept = s.kept :=
  congrArg (fun l => { s.kept with pending := l }) ((congrArg List.tail idle).trans idle.symm)

/-- A step answers a next state and takes only the front command from the queue: that command keeps what it finds, and an idle tick, with none
in front, leaves it as it is. -/
theorem step_keeps (s : State) : oKeeps { s with pending := s.pending.tail } (step s) := by
  unfold step
  split
  next idle => exact oKeeps_of_okept (congrArg some ((idleTick_kept s).trans (tail_kept_of_nil idle).symm))
  next c rest front =>
    rw [front]
    exact exec_keeps c { s with pending := rest }

end Sys2Proof.Machine
end

section
/-! The map store and the OTP words along every step. -/

namespace Sys2Proof.Machine

/-- A word that holds every bit of an older one has each of its bits. -/
theorem KeptLe.otpStays {s t : State} (h : s.Keeps t) : OtpStays s t := by
  intro w i set
  have both : (s.otp.get w &&& t.otp.get w).getLsbD i = true := (congrArg (·.getLsbD i) (h.otp w)).trans set
  rw [BitVec.getLsbD_and, Bool.and_eq_true] at both
  exact both.2

theorem KeptLe.mapOk {s t : State} (h : s.Keeps t) (ok : s.mapOk) : t.mapOk := h.map ok

/-- Settles O4: a step keeps what it finds (`step_keeps`), and taking the front command from the queue touches neither memory. -/
theorem mapAndOtpAreKept : Obligations.MapAndOtpAreKept := by
  unfold Obligations.MapAndOtpAreKept
  intro s t answers
  obtain ⟨u, answer, keeps⟩ := step_keeps s
  obtain rfl : u = t := Host.Outcome.next.inj (answer.symm.trans answers)
  exact ⟨keeps.otpStays, keeps.mapOk⟩

end Sys2Proof.Machine
end

section
/-! SUPPORT. What a traction set's entry into its safe state writes, and Custodian's choice of the safe state (07_torque_management.md, R200 to R205). -/

namespace Sys2Proof.Machine

/-! ## A set's target and carrier at the entry (R200, R391) -/

/-- Of the targets and the task's registers, a withdrawn target touches the set's own target, its start request, its target of the task and the service
routine. -/
theorem dropTarget_only (x : TSet) (s : State) :
    dropTarget x s = { s with
      otgt := s.otgt.upd x (fun o => { o with current := false, torque := 0, limit := none }),
      tm := { s.tm with startA := (dropTarget x s).tm.startA, startB := (dropTarget x s).tm.startB, tA := (dropTarget x s).tm.tA, tB := (dropTarget x s).tm.tB, svc := s.tm.svc.filter (fun v => decide (v.2 ≠ x)) } } := by
  cases x <;> rfl

/-- No service routine is left on a set whose target is withdrawn. -/
theorem dropTarget_noSvc (x : TSet) (s : State) (v : Nat × TSet) (h : (dropTarget x s).tm.svc = some v) : v.2 ≠ x := by
  rw [dropTarget_only] at h
  exact of_decide_eq_true (Option.filter_eq_some_iff.1 h).2

/-- A traction group has nothing beside its carrier and its set of the Orrery. -/
theorem haltGroup_traction (x : TSet) (s : State) :
    haltGroup x.grp s = { s with pwm := s.pwm.upd x.grp PwmGrp.halted, orr := (haltGroup x.grp s).orr, oview := (haltGroup x.grp s).oview } := by
  cases x <;> rfl

theorem stopGroup_traction (x : TSet) (s : State) :
    stopGroup x.grp s = { s with pwm := s.pwm.upd x.grp PwmGrp.halted, orr := (stopGroup x.grp s).orr, oview := (stopGroup x.grp s).oview, gd := (stopGroup x.grp s).gd } := by
  rw [stopGroup_gd]
  unfold stopGroup
  rw [haltGroup_traction, stopChans_only]

/-! ## The two entries (R200, R201, R204) -/

/-- The entry of a set that is in no safe state, before its target is withdrawn: the group stopped, freewheel, the window open. -/
def windowOpened (x : TSet) (s : State) : State :=
  { driveFreewheel x (stopGroup x.grp s) with ss := (s.ss.upd x (fun y => { y with st := 1 })).upd x (fun y => { y with window := true, trial := false }) }

theorem enterSafe_fresh {x : TSet} {s : State} (present : s.fn x.num = true) (out : (s.ss.get x).st = 0) : enterSafe x s = dropTarget x (windowOpened x s) := by
  unfold enterSafe windowOpened
  rw [if_neg (by rw [present]; decide), if_pos out]
  dsimp only
  rw [driveFreewheel_parts, stopGroup_only]

theorem enterSafe_inside {x : TSet} {s : State} (present : s.fn x.num = true) (inside : (s.ss.get x).st ≠ 0) : enterSafe x s = dropTarget x (haltGroup x.grp s) := by
  unfold enterSafe
  rw [if_neg (by rw [present]; decide), if_neg inside]

theorem windowOpened_only (x : TSet) (s : State) :
    windowOpened x s = { s with
      pwm := s.pwm.upd x.grp PwmGrp.halted, orr := (windowOpened x s).orr, oview := (windowOpened x s).oview, gd := (windowOpened x s).gd,
      ss := (s.ss.upd x (fun y => { y with st := 1 })).upd x (fun y => { y with window := true, trial := false }) } := by
  unfold windowOpened
  rw [driveFreewheel_parts, stopGroup_traction]

/-! ## The choice (R201, R205) -/

/-- The registers of a choice: the window closed, E_ll kept, freewheel until ASC is driven, a trial that ends in ASC counted. -/
def chosen (x : TSet) (e : Q) (asc bad : Bool) (s : State) : State :=
  { s with
    ss := s.ss.put x { window := false, trial := false, ell := e, st := 1 }, ssDisagree := bad,
    ssTrials := if (s.ss.get x).trial && asc then satInc 16 s.ssTrials else s.ssTrials }

/-- ASC is due: R199 holds it, or E_ll reaches 0.9 of V_dc,max. -/
abbrev AscDue (s : State) (samples : List (Q × Q × Q)) : Prop := s.saf.ovHold = true ∨ 9 / 10 * s.vMax ≤ meanQ (samples.map eLl)

section
variable {s : State} {x : TSet} {us : Q} {samples : List (Q × Q × Q)}

theorem choice_early (h : (s.ss.get x).window = false ∨ us < s.cuOv 8 * 1000000) : exec (.safeStateChoice x us samples) s = .next s := if_pos h

theorem choice_eq (window : (s.ss.get x).window = true) (elapsed : s.cuOv 8 * 1000000 ≤ us) {asc : Bool} (due : AscDue s samples ↔ asc = true) :
    exec (.safeStateChoice x us samples) s =
      .next (if choiceDisagrees s x asc then raise 0x1815 x.num 0 (if asc then goAsc x (chosen x (meanQ (samples.map eLl)) asc true s) else chosen x (meanQ (samples.map eLl)) asc true s)
        else if asc then goAsc x (chosen x (meanQ (samples.map eLl)) asc false s) else chosen x (meanQ (samples.map eLl)) asc false s) := by
  have late : ¬((s.ss.get x).window = false ∨ us < s.cuOv 8 * 1000000) := by
    rw [window]
    exact not_or.2 ⟨by decide, not_lt.2 elapsed⟩
  have rule : (s.saf.ovHold || decide (9 / 10 * s.vMax ≤ meanQ (samples.map eLl))) = asc := by
    rw [Bool.eq_iff_iff, ← due, Bool.or_eq_true, decide_eq_true_eq]
  refine (if_neg late).trans ?_
  rw [rule]
  cases choiceDisagrees s x asc <;> rfl

theorem choice_asc (window : (s.ss.get x).window = true) (elapsed : s.cuOv 8 * 1000000 ≤ us) (due : AscDue s samples) (agrees : choiceDisagrees s x true = false) :
    exec (.safeStateChoice x us samples) s = .next (goAsc x (chosen x (meanQ (samples.map eLl)) true false s)) := by
  rw [choice_eq window elapsed (asc := true) (by simp [due]), agrees]
  rfl

theorem choice_freewheel (window : (s.ss.get x).window = true) (elapsed : s.cuOv 8 * 1000000 ≤ us) (free : s.saf.ovHold = false) (low : meanQ (samples.map eLl) < 9 / 10 * s.vMax) :
    exec (.safeStateChoice x us samples) s =
      .next (if choiceDisagrees s x false then raise 0x1815 x.num 0 (chosen x (meanQ (samples.map eLl)) false true s) else chosen x (meanQ (samples.map eLl)) false false s) := by
  have none : AscDue s samples ↔ false = true := by
    rw [AscDue, free]
    exact iff_of_false (not_or.2 ⟨by decide, not_le.2 low⟩) (by decide)
  exact choice_eq window elapsed none

end

theorem chosen_freewheel (x : TSet) (e : Q) (bad : Bool) (s : State) :
    chosen x e false bad s = { s with ss := s.ss.put x { window := false, trial := false, ell := e, st := 1 }, ssDisagree := bad } := by
  unfold chosen
  rw [Bool.and_false]
  rfl

/-- A channel of a side without a flag carries no latched flag. -/
theorem not_latched_of_side {s : State} {cs : List Chan} {c : Chan} (h : s.sideFlagged cs = false) (m : c ∈ cs) : (s.gd.ch.get c).latched = false := by
  have clear := List.any_eq_false.1 h c m
  rw [Bool.or_eq_true, not_or] at clear
  exact Bool.eq_false_iff.2 clear.1

theorem classOf_choice (x : TSet) (s : State) : classOf s 0x1815 x.num = 1 := by simp [classOf, codesF0, codesF1]

end Sys2Proof.Machine
end

section
/-! Entry into a traction safe state, its choice, the change of side and the trial. -/

namespace Sys2Proof.Machine

/-- The clause on the entry of a set that is in no safe state. -/
theorem safeEntry_clause (s : State) (x : TSet) (present : s.fn x.num = true) (out : (s.ss.get x).st = 0) :
    Answers (exec (.safeStateEntry x) s) fun t => (t.pwm.get x.grp).running = false ∧ (∀ c ∈ x.lows ++ x.highs, (t.gd.ch.get c).out ≠ .on) ∧ (t.ss.get x).st = 1 ∧ (t.ss.get x).window = true ∧
      (t.otgt.get x).torque = 0 ∧ (t.otgt.get x).limit = none ∧ (∀ v, t.tm.svc = some v → v.2 ≠ x) ∧ (∀ y, y ≠ x → t.ss.get y = s.ss.get y ∧ t.otgt.get y = s.otgt.get y) ∧ (∀ k, k ≠ x.grp → t.pwm.get k = s.pwm.get k) ∧
      t = { s with pwm := t.pwm, orr := t.orr, oview := t.oview, gd := t.gd, ss := t.ss, otgt := t.otgt, tm := { s.tm with startA := t.tm.startA, startB := t.tm.startB, tA := t.tm.tA, tB := t.tm.tB, svc := t.tm.svc } } := by
  refine ⟨_, congrArg Host.Outcome.next (enterSafe_fresh present out), ?_⟩
  have off : ∀ c ∈ x.lows ++ x.highs, (windowOpened x s).gd.offAt c := fun c m => driveFreewheel_off x _ c m
  have svc := dropTarget_noSvc x (windowOpened x s)
  have opened := windowOpened_only x s
  have only := dropTarget_only x (windowOpened x s)
  generalize windowOpened x s = u at off svc opened only ⊢
  generalize dropTarget x u = t at svc only ⊢
  have pwm : t.pwm = s.pwm.upd x.grp PwmGrp.halted := by rw [only, opened]
  have ss : t.ss = (s.ss.upd x (fun y => { y with st := 1 })).upd x (fun y => { y with window := true, trial := false }) := by rw [only, opened]
  have otgt : t.otgt = s.otgt.upd x (fun o => { o with current := false, torque := 0, limit := none }) := by rw [only, opened]
  refine ⟨by simp [pwm, PwmGrp.halted], fun c m => ?_, by simp [ss], by simp [ss], by simp [otgt], by simp [otgt], svc, fun y hy => ?_, fun k hk => ?_, ?_⟩
  · rw [only]
    exact off c m
  · rw [ss, otgt]
    simp [Tab.get_upd, hy]
  · rw [pwm, Tab.get_upd, if_neg hk]
  · rw [only, opened]

/-- The clause on the entry of a set that is in its safe state: it keeps it. -/
theorem safeEntry_kept_clause (s : State) (x : TSet) (present : s.fn x.num = true) (inside : (s.ss.get x).st ≠ 0) :
    Answers (exec (.safeStateEntry x) s) fun t => (t.pwm.get x.grp).running = false ∧ (t.otgt.get x).torque = 0 ∧ (∀ k, k ≠ x.grp → t.pwm.get k = s.pwm.get k) ∧
      t = { s with pwm := t.pwm, orr := t.orr, oview := t.oview, otgt := t.otgt, tm := { s.tm with startA := t.tm.startA, startB := t.tm.startB, tA := t.tm.tA, tB := t.tm.tB, svc := t.tm.svc } } := by
  refine ⟨_, congrArg Host.Outcome.next (enterSafe_inside present inside), ?_⟩
  have halted := haltGroup_traction x s
  have only := dropTarget_only x (haltGroup x.grp s)
  generalize haltGroup x.grp s = u at halted only ⊢
  generalize dropTarget x u = t at only ⊢
  have pwm : t.pwm = s.pwm.upd x.grp PwmGrp.halted := by rw [only, halted]
  have otgt : t.otgt = s.otgt.upd x (fun o => { o with current := false, torque := 0, limit := none }) := by rw [only, halted]
  refine ⟨by simp [pwm, PwmGrp.halted], by simp [otgt], fun k hk => ?_, ?_⟩
  · rw [pwm, Tab.get_upd, if_neg hk]
  · rw [only, halted]

/-- The clause on a choice of ASC with bias bank A on and no flag on the low sides. -/
theorem choiceAsc_clause (s : State) (x : TSet) (sinceUs : Q) (samples : List (Q × Q × Q)) (window : (s.ss.get x).window = true) (elapsed : s.cuOv 8 * 1000000 ≤ sinceUs)
    (due : 9 / 10 * s.vMax ≤ meanQ (samples.map eLl)) (agrees : choiceDisagrees s x true = false) (clear : s.sideFlagged x.lows = false) (bias : s.sup.biasA = true) :
    Answers (exec (.safeStateChoice x sinceUs samples) s) fun t => (t.ss.get x).st = 2 ∧ (t.ss.get x).window = false ∧ (t.ss.get x).ell = meanQ (samples.map eLl) ∧ t.ssDisagree = false ∧
      (∀ c ∈ x.lows, s.chPresent c = true → s.railsOk c = true → (s.gd.ch.get c).out ≠ .soft → (t.gd.ch.get c).out = .on) ∧ (∀ c ∈ x.highs, (t.gd.ch.get c).out ≠ .on) ∧ (∀ y, y ≠ x → t.ss.get y = s.ss.get y) ∧
      t = { s with ss := t.ss, gd := t.gd, ssDisagree := false, ssTrials := (if (s.ss.get x).trial then min (s.ssTrials + 1) (2 ^ 16 - 1) else s.ssTrials) } := by
  generalize hu : chosen x (meanQ (samples.map eLl)) true false s = u
  have drive : goAsc x u = driveAsc x 2 u := by
    subst hu
    exact (if_neg (by rw [show (chosen x _ true false s).sup.biasA = true from bias]; decide)).trans (if_pos clear)
  refine ⟨_, (choice_asc window elapsed (.inr due) agrees).trans (congrArg Host.Outcome.next ((congrArg (goAsc x) hu).trans drive)), ?_⟩
  have on (c : Chan) (m : c ∈ x.lows) (p : s.chPresent c = true) (r : s.railsOk c = true) (q : (s.gd.ch.get c).out ≠ .soft) : ((driveAsc x 2 u).gd.ch.get c).out = .on := by
    subst hu
    exact driveAsc_on x 2 _ c m p r (not_latched_of_side clear m) q
  have off (c : Chan) (m : c ∈ x.highs) : ((driveAsc x 2 u).gd.ch.get c).out ≠ .on := driveAsc_off x 2 u c m
  have parts := driveAsc_parts x 2 u
  generalize driveAsc x 2 u = t at on off parts ⊢
  have ss : t.ss = (s.ss.put x { window := false, trial := false, ell := meanQ (samples.map eLl), st := 1 }).upd x (fun y => { y with st := 2 }) := by rw [parts, ← hu]; rfl
  refine ⟨by simp [ss], by simp [ss], by simp [ss], by rw [parts, ← hu]; rfl, on, off, fun y hy => ?_, ?_⟩
  · rw [ss, Tab.get_upd, if_neg hy, Tab.get_put_other _ _ _ _ hy]
  · rw [parts, ← hu]
    simp [chosen, satInc]

/-- The clause on a choice of freewheel that Callisto's check contradicts: 0x1815 has no reaction, and Custodian's choice stands. -/
theorem choiceContradicted_clause (s : State) (x : TSet) (sinceUs : Q) (samples : List (Q × Q × Q)) (window : (s.ss.get x).window = true) (elapsed : s.cuOv 8 * 1000000 ≤ sinceUs)
    (free : s.saf.ovHold = false) (low : meanQ (samples.map eLl) < 9 / 10 * s.vMax) (bad : choiceDisagrees s x false = true) :
    Answers (exec (.safeStateChoice x sinceUs samples) s) fun t => active 0x1815 x.num t = true ∧ (t.ss.get x).st = 1 ∧
      SameButFaults { s with ss := s.ss.put x { window := false, trial := false, ell := meanQ (samples.map eLl), st := 1 }, ssDisagree := true } t := by
  have run := choice_freewheel window elapsed free low
  rw [bad, if_pos rfl, chosen_freewheel] at run
  have same := raise_low_same 0x1815 x.num 0 { s with ss := s.ss.put x { window := false, trial := false, ell := meanQ (samples.map eLl), st := 1 }, ssDisagree := true }
    (fun u => by rw [classOf_choice]; decide) (by decide)
  refine ⟨_, run, raise_active _ _ _ _, ?_, same⟩
  rw [same]
  simp

/-- The clause on a choice of ASC with bias bank A off: the set freewheels. -/
theorem choiceNoRails_clause (s : State) (x : TSet) (sinceUs : Q) (samples : List (Q × Q × Q)) (window : (s.ss.get x).window = true) (elapsed : s.cuOv 8 * 1000000 ≤ sinceUs)
    (due : s.saf.ovHold = true ∨ 9 / 10 * s.vMax ≤ meanQ (samples.map eLl)) (agrees : choiceDisagrees s x true = false) (bias : s.sup.biasA = false) :
    Answers (exec (.safeStateChoice x sinceUs samples) s) fun t => (t.ss.get x).st = 1 ∧ (∀ c ∈ x.lows ++ x.highs, (t.gd.ch.get c).out ≠ .on) ∧ (∀ y, y ≠ x → t.ss.get y = s.ss.get y) := by
  have wheel : goAsc x (chosen x (meanQ (samples.map eLl)) true false s) = driveFreewheel x (chosen x (meanQ (samples.map eLl)) true false s) := if_pos bias
  refine ⟨_, (choice_asc window elapsed due agrees).trans (congrArg Host.Outcome.next wheel), ?_, driveFreewheel_off x _, fun y hy => ?_⟩
  · rw [driveFreewheel_parts]
    simp
  · rw [driveFreewheel_parts]
    simp [Tab.get_upd, Tab.get_put, chosen, hy]

/-- The clause on a flag on the low sides in use: the unflagged high sides take over. -/
theorem ascToHigh_clause (s : State) (x : TSet) (c : Chan) (low : (s.ss.get x).st = 2) (m : c ∈ x.lows) (flag : (s.gd.ch.get c).latched = true) (clear : s.sideFlagged x.highs = false) :
    Answers (exec (.ascSideFault x c) s) fun t => (t.ss.get x).st = 3 ∧ (∀ d ∈ x.lows, (t.gd.ch.get d).out ≠ .on) ∧ (∀ d ∈ x.highs, s.chPresent d = true → s.railsOk d = true → (s.gd.ch.get d).out ≠ .soft → (t.gd.ch.get d).out = .on) ∧
      (∀ y, y ≠ x → t.ss.get y = s.ss.get y) ∧ t = { s with ss := t.ss, gd := t.gd } := by
  have run : exec (.ascSideFault x c) s = .next (driveAsc x 3 s) := by
    show execAscSideFault x c s = _
    simp [execAscSideFault, low, m, flag, clear]
  refine ⟨_, run, ?_, driveAsc_off x 3 s, fun d n p r q => driveAsc_on x 3 s d n p r (not_latched_of_side clear n) q, fun y hy => ?_, ?_⟩
  · rw [driveAsc_parts]
    simp
  · rw [driveAsc_parts]
    simp [Tab.get_upd, hy]
  · rw [driveAsc_parts]

/-- The clause on a flag on the high sides in use, which are in use only while a low side carries one: freewheel and 0x1816. -/
theorem ascNoSide_clause (s : State) (x : TSet) (c : Chan) (high : (s.ss.get x).st = 3) (m : c ∈ x.highs) (flag : (s.gd.ch.get c).latched = true) :
    Answers (exec (.ascSideFault x c) s) fun t => active 0x1816 x.num t = true ∧ Grows s t ∧ t.beyond = s.beyond ∧ ∀ d ∈ x.lows ++ x.highs, ioHalted s = false → (t.gd.ch.get d).out ≠ .on := by
  have run : exec (.ascSideFault x c) s = .next (raiseBy 11 0x1816 x.num 0 (driveFreewheel x s)) := by
    show execAscSideFault x c s = _
    simp [execAscSideFault, high, m, flag]
  refine ⟨_, run, raiseBy_active _ _ _ _ _, (Grows.of_eq (driveFreewheel_faults x s)).trans (raiseBy_grows _ _ _ _ _), by simp, fun d n _ => ?_⟩
  exact raiseBy_offAt _ _ _ _ _ d (driveFreewheel_off x s d n)

/-- The clause on a trial for an invalid position. -/
theorem ascTrial_clause (s : State) (x : TSet) (asc : 2 ≤ (s.ss.get x).st) (closed : (s.ss.get x).window = false) (free : s.saf.ovHold = false) (invalid : s.posValid (s.setIfc x) = false) :
    Answers (exec (.ascTrialRequest x 100) s) fun t => t.ss.get x = { s.ss.get x with st := 1, window := true, trial := true } ∧ (∀ c ∈ x.lows ++ x.highs, (t.gd.ch.get c).out ≠ .on) ∧
      (∀ y, y ≠ x → t.ss.get y = s.ss.get y) ∧ t = { s with ss := t.ss, gd := t.gd } := by
  have run : exec (.ascTrialRequest x 100) s = .next { driveFreewheel x s with ss := (driveFreewheel x s).ss.put x { s.ss.get x with st := 1, window := true, trial := true } } :=
    if_pos ⟨asc, closed, free, by rw [invalid]; rfl⟩
  have off := driveFreewheel_off x s
  have parts := driveFreewheel_parts x s
  refine ⟨_, run, ?_, off, fun y hy => ?_, ?_⟩
  · simp
  · rw [parts]
    simp [Tab.get_upd, Tab.get_put, hy]
  · rw [parts]

/-- Settles O20, clause by clause: both entries, the choice with and without ASC, 0x1815, the change of side and its failure, the trial, and what is
no choice yet. -/
theorem safeStateChoice : Obligations.SafeStateChoice := by
  unfold Obligations.SafeStateChoice
  refine ⟨safeEntry_clause, safeEntry_kept_clause, ?agrees, choiceAsc_clause, choiceContradicted_clause, ascToHigh_clause, ascNoSide_clause, ascTrial_clause, choiceNoRails_clause, ?early⟩
  case agrees =>
    intro s x sinceUs samples window elapsed free low agrees
    rw [choice_freewheel window elapsed free low, agrees, if_neg (by decide), chosen_freewheel]
  case early => exact fun s x sinceUs samples h => choice_early h

end Sys2Proof.Machine
end

section
/-! A missed Io torque task whose fault is active already (01_architecture.md, R27; 22_status_faults_log.md, R532). -/

namespace Sys2Proof.Machine

/-- A further missed task after the fifth, while the fault of the fifth is active, counts and has no reaction. -/
theorem deadlineMiss_repeat (s : State) (run : 4 ≤ s.tm.missRun) (raised : active missCode noInst s = true) :
    Answers (exec .ioTaskDeadlineMiss s) fun t => SameButFaults { s with tm := { s.tm with missRun := satInc 8 s.tm.missRun } } t := by
  have fifth : 5 ≤ satInc 8 s.tm.missRun := by unfold satInc; omega
  exact ⟨_, if_pos fifth, (raise_again missCode noInst 0 { s with tm := { s.tm with missRun := satInc 8 s.tm.missRun } } raised).1⟩

/-- Refutes O21 at its clause on the fifth missed task in a row: set A is present and in no safe state, and the fault of the missed tasks is active
already. A raise of an active fault only counts (R532), so the set is not sent to its safe state. -/
theorem not_torqueTask : ¬ Obligations.TorqueTask := by
  unfold Obligations.TorqueTask
  rintro ⟨-, -, -, -, -, -, fifthMiss, -⟩
  let s : State := { State.reset with
    cat := { State.reset.cat with params := [{ ty := 1, inst := 0, data := [0, 0, 0, 0, 0, 0, 0, 0, 1, 0, 0, 0] }], locked := true },
    tm := { State.reset.tm with missRun := 5 },
    faults := [{ code := missCode, inst := noInst, cls := 3, raises := 1, suppressed := 0 }] }
  have present : s.fn TSet.a.num = true := by decide
  have out : (s.ss.get .a).st = 0 := by decide
  obtain ⟨t, run, sets, -⟩ := fifthMiss s (by decide)
  obtain ⟨u, run', same⟩ := deadlineMiss_repeat s (by decide) (by decide)
  obtain rfl : t = u := Host.Outcome.next.inj (run.symm.trans run')
  have kept : t.ss = s.ss := by rw [same]
  have entered : 1 ≤ (t.ss.get .a).st := (sets .a present).1
  rw [kept, out] at entered
  exact absurd entered (by decide)

end Sys2Proof.Machine
end

section
/-! SUPPORT. VALID, the emulations that a source feeds, and what the checks and the calibration of a resolver leave of its update
(08_position_speed.md, R212, R216 to R220, R224, R238 to R240). -/

namespace Sys2Proof.Machine

/-! ## VALID (R212) -/

theorem posLose_valid (i : Ifc) (c : Nat) (s : State) : ((posLose i c s).pos.get i).valid = false := by
  rw [posLose_pos, Tab.get_upd_same]

theorem posLose_raises {i : Ifc} {c : Nat} {s : State} (run : s.posUserRuns i = true) : active c i.val (posLose i c s) = true := by
  unfold posLose
  rw [run]
  exact raise_active _ _ _ _

theorem posLose_idle {i : Ifc} {c : Nat} {s : State} (idle : s.posUserRuns i = false) : (posLose i c s).faults = s.faults := by
  unfold posLose
  rw [idle]
  rfl

/-- A write that leaves the AID bit of an interface as it is changes no interface's users (R212, R230). -/
theorem posUserRuns_upd {s : State} {i k : Ifc} {f : PosSt → PosSt} (aid : ∀ p, (f p).aid = p.aid) :
    ({ s with pos := s.pos.upd k f } : State).posUserRuns i = s.posUserRuns i := by
  have aids (j : Ifc) : ((s.pos.upd k f).get j).aid = (s.pos.get j).aid := by
    rw [Tab.get_upd]
    split
    next same => rw [aid, same]
    next => rfl
  have uses (x : TSet) : ({ s with pos := s.pos.upd k f } : State).setUses x i = s.setUses x i := by
    unfold State.setUses
    rw [show (({ s with pos := s.pos.upd k f } : State).pos.get _).aid = _ from aids _]
    rfl
  unfold State.posUserRuns
  rw [uses, uses]
  rfl

theorem posOk_valid (i : Ifc) (s : State) : ((posOk i s).pos.get i).valid = true := by
  rcases (posOk_same i s).2.1 with kept | gained
  · rw [kept]
  · rw [gained]

/-! ## The emulations (R238, R239) -/

theorem feedOne_grows (src : Ifc) (p d : Int) (i : Ifc) (s : State) : Grows s (feedOne src p d i s) := by
  unfold feedOne
  split
  · dsimp only
    split
    · exact .of_eq rfl
    · split
      · refine Grows.trans ?_ (raise_grows _ _ _ _)
        exact .of_eq rfl
      · exact .of_eq rfl
  · exact .refl _

theorem feedEmulation_grows (src : Ifc) (p d : Int) (s : State) : Grows s (feedEmulation src p d s) :=
  (feedOne_grows _ _ _ _ _).trans (feedOne_grows _ _ _ _ _)

theorem feedEmulation_res_eq (src : Ifc) (p d : Int) (s : State) : (feedEmulation src p d s).res = s.res := by
  rw [(feedEmulation_parts src p d s).1]

theorem feedEmulation_edge (src : Ifc) (p d : Int) (s : State) : (feedEmulation src p d s).edge = s.edge := by
  rw [(feedEmulation_parts src p d s).1]

theorem feedEmulation_sent (src : Ifc) (p d : Int) (s : State) : (feedEmulation src p d s).sent = s.sent := by
  rw [(feedEmulation_parts src p d s).1]

/-! ## Corrections (R218, R219) -/

/-- A resolver but for its corrections. -/
def ResSt.tracked (x : ResSt) : ResSt := { x with os := 0, oc := 0, k := 0, phi := 0, sdly := 0 }

/-- Two resolvers that agree but for the corrections differ in these five fields only. -/
theorem ResSt.eq_of_tracked {x y : ResSt} (h : x.tracked = y.tracked) : ∃ os oc k phi sdly, x = { y with os := os, oc := oc, k := k, phi := phi, sdly := sdly } :=
  ⟨x.os, x.oc, x.k, x.phi, x.sdly, congrArg (fun z : ResSt => { z with os := x.os, oc := x.oc, k := x.k, phi := x.phi, sdly := x.sdly }) h⟩

/-- Of an interface `t` differs from `s` in the corrections only; the calibrations, the emulations and further faults may differ too. -/
structure CorrectionsOnly (i : Ifc) (s t : State) : Prop where
  only : ResOnly s t
  tracked : (t.res.get i).tracked = (s.res.get i).tracked
  pos : t.pos.get i = s.pos.get i
  grows : Grows s t

theorem CorrectionsOnly.refl (i : Ifc) (s : State) : CorrectionsOnly i s s := ⟨rfl, rfl, rfl, .refl _⟩

theorem CorrectionsOnly.trans {i : Ifc} {s t u : State} (a : CorrectionsOnly i s t) (b : CorrectionsOnly i t u) : CorrectionsOnly i s u :=
  ⟨a.only.trans b.only, b.tracked.trans a.tracked, b.pos.trans a.pos, a.grows.trans b.grows⟩

theorem CorrectionsOnly.ite {p : Prop} [Decidable p] {i : Ifc} {s t u : State} (a : CorrectionsOnly i s t) (b : CorrectionsOnly i s u) :
    CorrectionsOnly i s (if p then t else u) := by split <;> assumption

theorem CorrectionsOnly.raised {i : Ifc} {c k m : Nat} {s t : State} (a : CorrectionsOnly i s t) (hf : c ≠ 0x680A := by decide) (hq : c ≠ 0x7002 := by decide) :
    CorrectionsOnly i s (raise c k m t) :=
  a.trans ⟨by unfold ResOnly; simp [hf, hq], by rw [raise_res], by rw [raise_pos], raise_grows _ _ _ _⟩

theorem endTurn_corrections (i : Ifc) (c : CalTurn) (s : State) : CorrectionsOnly i s (endTurn i c s) := by
  unfold endTurn
  lift_lets
  intro r en n ms mc vs vc os oc k ph moved
  have corrected : CorrectionsOnly i s moved := ⟨rfl, by simp [moved, ResSt.tracked, r], rfl, .of_eq rfl⟩
  exact .ite corrected.raised corrected

theorem calStep_corrections (i : Ifc) (sm cm s1 : Q) (dth : Int) (s : State) : CorrectionsOnly i s (calStep i sm cm s1 dth s) := by
  have dropped (c : CalTurn) : CorrectionsOnly i s { s with cal := s.cal.put i c } := ⟨rfl, rfl, rfl, .of_eq rfl⟩
  unfold calStep
  dsimp only
  exact .ite (dropped _) (.ite ((dropped _).trans (endTurn_corrections _ _ _)) (dropped _))

theorem sdlyStep_corrections (i : Ifc) (sm cm sq cq : Q) (s : State) : CorrectionsOnly i s (sdlyStep i sm cm sq cq s) := by
  have moved (x : Nat) : CorrectionsOnly i s { s with res := s.res.put i { s.res.get i with sdly := x } } := ⟨rfl, by simp [ResSt.tracked], rfl, .of_eq rfl⟩
  unfold sdlyStep
  dsimp only
  exact .ite (moved _) (.refl _ _)

theorem feedEmulation_corrections {src : Ifc} (sensor : src.val < 10) (p d : Int) (s : State) : CorrectionsOnly src s (feedEmulation src p d s) :=
  ⟨feedEmulation_res src p d s, by rw [feedEmulation_res_eq], (feedEmulation_parts src p d s).2 src sensor, feedEmulation_grows src p d s⟩

/-! ## The checks (R212, R220) -/

/-- The amplitude lies in its window (R220). -/
def ampInWindow (i : Ifc) (s : State) : Bool := decide (s.pf 0x40 i 36 ≤ (s.res.get i).amp ∧ (s.res.get i).amp ≤ s.pf 0x40 i 40)

/-- The resolver with its runs after the checks of an update: amplitudes out of the window, errors above the limit, updates that meet R212. -/
def resJudged (i : Ifc) (eps : Q) (s : State) : ResSt :=
  { s.res.get i with
    ampRun := if ampInWindow i s then 0 else (s.res.get i).ampRun + 1,
    trkRun := if decide (sinA (s.pu 0x40 i 44) < absQ eps) then (s.res.get i).trkRun + 1 else 0,
    good := if decide (absQ eps < sinA (s.pu 0x40 i 44 / 2)) then (s.res.get i).good + 1 else 0 }

/-- The runs written, and an error above the limit counted. -/
def resCounted (i : Ifc) (eps : Q) (s : State) : State :=
  { s with
    res := s.res.put i (resJudged i eps s),
    pos := s.pos.upd i (fun p => { p with
      errTotal := if decide (sinA (s.pu 0x40 i 44) < absQ eps) then satInc 16 p.errTotal else p.errTotal,
      errTimes := if decide (sinA (s.pu 0x40 i 44) < absQ eps) then 0 :: p.errTimes.take 254 else p.errTimes }) }

/-- VALID once enough updates in a row meet R212. -/
def resRegained (i : Ifc) (eps : Q) (s : State) : State :=
  if ampInWindow i s = true ∧ s.pf 0x40 i 20 / 50 ≤ ((resJudged i eps s).good : Q) then posOk i (resCounted i eps s) else resCounted i eps s

/-- VALID lost by the fourth amplitude out of the window. -/
def resAmpJudged (i : Ifc) (eps : Q) (s : State) : State :=
  if (resJudged i eps s).ampRun = 4 then posLose i 0x2001 (resRegained i eps s) else resRegained i eps s

theorem resCheck_eq (i : Ifc) (eps : Q) (s : State) :
    resCheck i eps s = if (resJudged i eps s).trkRun = 3 then posLose i 0x2002 (resAmpJudged i eps s) else resAmpJudged i eps s := rfl

theorem posOk_res_eq (i : Ifc) (s : State) : (posOk i s).res = s.res := by rw [(posOk_same i s).1]

theorem posLose_res_eq (i : Ifc) (c : Nat) (s : State) (hf : c ≠ 0x680A := by decide) (hq : c ≠ 0x7002 := by decide) : (posLose i c s).res = s.res :=
  congrArg Beyond.res (posLose_beyond' i c s hf hq)

theorem resCheck_judged (i : Ifc) (eps : Q) (s : State) : (resCheck i eps s).res.get i = resJudged i eps s := by
  have regained : (resRegained i eps s).res = (resCounted i eps s).res := by
    unfold resRegained
    split
    · exact posOk_res_eq _ _
    · rfl
  have ampJudged : (resAmpJudged i eps s).res = (resRegained i eps s).res := by
    unfold resAmpJudged
    split
    · exact posLose_res_eq _ _ _
    · rfl
  have checked : (resCheck i eps s).res = (resAmpJudged i eps s).res := by
    rw [resCheck_eq]
    split
    · exact posLose_res_eq _ _ _
    · rfl
  rw [checked, ampJudged, regained]
  exact Tab.get_put_same _ _ _

/-- The fourth amplitude out of its window or the third error in a row ends VALID (R212, R220). -/
theorem resCheck_invalid {i : Ifc} {eps : Q} {s : State} (bad : (resJudged i eps s).ampRun = 4 ∨ (resJudged i eps s).trkRun = 3) :
    ((resCheck i eps s).pos.get i).valid = false := by
  rw [resCheck_eq]
  by_cases third : (resJudged i eps s).trkRun = 3
  · rw [if_pos third]
    exact posLose_valid _ _ _
  · rw [if_neg third, resAmpJudged, if_pos (bad.resolve_right third)]
    exact posLose_valid _ _ _

/-- The amplitude that ends VALID raises 0x2001 where a user runs (R212, R220): none in the window comes before it. -/
theorem resCheck_amplitude {i : Ifc} {eps : Q} {s : State} (fourth : (resJudged i eps s).ampRun = 4) (run : s.posUserRuns i = true) :
    active 0x2001 i.val (resCheck i eps s) = true := by
  have out : ampInWindow i s = false := by
    rw [Bool.eq_false_iff]
    intro inside
    simp [resJudged, inside] at fourth
  have raised : active 0x2001 i.val (resAmpJudged i eps s) = true := by
    rw [resAmpJudged, if_pos fourth, resRegained, out, if_neg (by simp)]
    refine posLose_raises (Eq.trans ?_ run)
    exact posUserRuns_upd (fun _ => rfl)
  rw [resCheck_eq]
  split
  · exact posLose_grows _ _ _ _ _ raised
  · exact raised

/-! ## An update (R214 to R217) -/

/-- The gain of the tracker: 2π times its bandwidth, or 0 for an error of 0. -/
def trackGain (s : State) (i : Ifc) (eps : Q) : Q := if eps = 0 then 0 else 2 * piQ * s.pf 0x40 i 32

theorem trackGain_mul (s : State) (i : Ifc) (eps : Q) : trackGain s i eps * eps = 2 * piQ * s.pf 0x40 i 32 * eps := by
  unfold trackGain
  split
  next zero => simp [zero]
  next => rfl

/-- The tracked speed after an update with an error (R216). -/
def trackedSpeed (s : State) (i : Ifc) (r : ResSt) (eps : Q) : Q :=
  r.w + trackGain s i eps * trackGain s i eps * divQ 1 (2 * s.pf 0x40 i 20) * eps

/-- The tracked angle after an update with an error (R216). -/
def trackedAngle (s : State) (i : Ifc) (r : ResSt) (eps : Q) : Nat :=
  ang ((r.th : Int) + radToAng (divQ 1 (2 * s.pf 0x40 i 20) * (trackedSpeed s i r eps + 2 * trackGain s i eps * eps)))

theorem trackedSpeed_eq (s : State) (i : Ifc) (r : ResSt) (eps : Q) :
    trackedSpeed s i r eps = r.w + (2 * piQ * s.pf 0x40 i 32) * (2 * piQ * s.pf 0x40 i 32) * divQ 1 (2 * s.pf 0x40 i 20) * eps := by
  unfold trackedSpeed trackGain
  split
  next zero => simp [zero]
  next => rfl

theorem trackedAngle_eq (s : State) (i : Ifc) (r : ResSt) (eps : Q) :
    trackedAngle s i r eps = ang ((r.th : Int) + radToAng (divQ 1 (2 * s.pf 0x40 i 20) * (trackedSpeed s i r eps + 2 * (2 * piQ * s.pf 0x40 i 32) * eps))) := by
  unfold trackedAngle
  rw [mul_assoc 2, trackGain_mul, ← mul_assoc 2]

/-- The resolver and its position once the tracker has stepped, before the checks (R216, R217). -/
def resTracked (i : Ifc) (r : ResSt) (a eps : Q) (s : State) : State :=
  { s with
    res := s.res.put i { r with th := trackedAngle s i r eps, w := trackedSpeed s i r eps, amp := a },
    pos := s.pos.upd i (fun p => { p with
      angle := ang ((s.pu 0x40 i 4 : Int) + dirI s i ((ppRatio s i 28 * trackedAngle s i r eps : Nat) : Int)),
      speed := dirQ s i ((ppRatio s i 28 : Q) * trackedSpeed s i r eps),
      neg := decide (dirQ s i ((ppRatio s i 28 : Q) * trackedSpeed s i r eps) < 0),
      still := decide (dirQ s i ((ppRatio s i 28 : Q) * trackedSpeed s i r eps) = 0) }) }

/-- The sample pair of an instant taken into the resolver (R214). -/
def ResSt.sampled (at270 : Bool) (sQuad cQuad sEnv cEnv : Q) (r : ResSt) : ResSt :=
  if at270 then { r with s180 := sQuad, c180 := cQuad, s270 := sEnv, c270 := cEnv } else { r with s0 := sQuad, c0 := cQuad, s90 := sEnv, c90 := cEnv }

theorem resTracked_user (i : Ifc) (r : ResSt) (a eps : Q) (s : State) : (resTracked i r a eps s).posUserRuns i = s.posUserRuns i := by
  unfold resTracked
  exact posUserRuns_upd (s := { s with res := _ }) (fun _ => rfl)

/-- The tracked resolver judged: its amplitude and its error against their limits (R220). -/
theorem resJudged_tracked (i : Ifc) (r : ResSt) (a eps : Q) (s : State) : resJudged i eps (resTracked i r a eps s) =
    { r with
      th := trackedAngle s i r eps, w := trackedSpeed s i r eps, amp := a,
      ampRun := if s.pf 0x40 i 36 ≤ a ∧ a ≤ s.pf 0x40 i 40 then 0 else r.ampRun + 1,
      trkRun := if sinA (s.pu 0x40 i 44) < absQ eps then r.trkRun + 1 else 0,
      good := if absQ eps < sinA (s.pu 0x40 i 44 / 2) then r.good + 1 else 0 } := by
  have own : (resTracked i r a eps s).res.get i = { r with th := trackedAngle s i r eps, w := trackedSpeed s i r eps, amp := a } := Tab.get_put_same _ _ _
  simp only [resJudged, ampInWindow, own, decide_eq_true_eq]
  rfl

/-- What an update answers: the tracked resolver judged, and corrections after it. -/
theorem resolverUpdate_answers {s : State} {i : Ifc} (at270 : Bool) (sQuad cQuad sEnv cEnv : Q) {s1 c1 a eps : Q} {r : ResSt} (resolver : i.val < 2) (present : s.hasRec 0x40 i = true)
    (loaded : s.cat.locked = true) (hr : r = (s.res.get i).sampled at270 sQuad cQuad sEnv cEnv) (hs : s1 = divQ ((r.s90 - r.s270) / 2 - r.os) (1 + r.k))
    (hc : c1 = divQ ((r.c90 - r.c270) / 2 - r.oc + s1 * sinRad r.phi) (cosRad r.phi)) (ha : a = sqrtQ (s1 * s1 + c1 * c1))
    (he : eps = (if active 0x2001 i.val s = true then 0 else divQ (s1 * cosA r.th - c1 * sinA r.th) a)) :
    Answers (exec (.resolverUpdate i at270 sQuad cQuad sEnv cEnv) s) (CorrectionsOnly i (resCheck i eps (resTracked i r a eps s))) := by
  have due : ¬(2 ≤ i.val ∨ s.hasRec 0x40 i = false ∨ s.cat.locked = false) := by
    rw [present, loaded]
    simp [resolver]
  subst hr hs hc ha he
  refine ⟨_, if_neg due, CorrectionsOnly.trans ?_ (feedEmulation_corrections (by omega) _ _ _)⟩
  exact .ite ((calStep_corrections _ _ _ _ _ _).trans (sdlyStep_corrections _ _ _ _ _ _)) (calStep_corrections _ _ _ _ _ _)

end Sys2Proof.Machine
end

section
/-! Resolver updates and emulation steps. -/

namespace Sys2Proof.Machine

/-- The clause on an update. -/
theorem resolverUpdate_clause (s : State) (i : Ifc) (at270 : Bool) (sQuad cQuad sEnv cEnv s1 c1 a eps : Q) (r : ResSt) (resolver : i.val < 2) (present : s.hasRec 0x40 i = true)
    (loaded : s.cat.locked = true)
    (hr : r = (if at270 then { s.res.get i with s180 := sQuad, c180 := cQuad, s270 := sEnv, c270 := cEnv } else { s.res.get i with s0 := sQuad, c0 := cQuad, s90 := sEnv, c90 := cEnv }))
    (hs : s1 = divQ ((r.s90 - r.s270) / 2 - r.os) (1 + r.k)) (hc : c1 = divQ ((r.c90 - r.c270) / 2 - r.oc + s1 * sinRad r.phi) (cosRad r.phi))
    (ha : a = sqrtQ (s1 * s1 + c1 * c1)) (he : eps = (if active 0x2001 i.val s = true then 0 else divQ (s1 * cosA r.th - c1 * sinA r.th) a)) :
    Answers (exec (.resolverUpdate i at270 sQuad cQuad sEnv cEnv) s) fun t => (t.res.get i).amp = a ∧ (t.res.get i).w = r.w + (2 * piQ * s.pf 0x40 i 32) * (2 * piQ * s.pf 0x40 i 32) * divQ 1 (2 * s.pf 0x40 i 20) * eps ∧
      (t.res.get i).th = ang ((r.th : Int) + radToAng (divQ 1 (2 * s.pf 0x40 i 20) * ((t.res.get i).w + 2 * (2 * piQ * s.pf 0x40 i 32) * eps))) ∧
      (t.res.get i).s0 = r.s0 ∧ (t.res.get i).c0 = r.c0 ∧ (t.res.get i).s90 = r.s90 ∧ (t.res.get i).c90 = r.c90 ∧ (t.res.get i).s180 = r.s180 ∧ (t.res.get i).c180 = r.c180 ∧ (t.res.get i).s270 = r.s270 ∧ (t.res.get i).c270 = r.c270 ∧
      (t.pos.get i).angle = ang ((s.pu 0x40 i 4 : Int) + dirI s i ((ppRatio s i 28 * (t.res.get i).th : Nat) : Int)) ∧ (t.pos.get i).speed = dirQ s i ((ppRatio s i 28 : Q) * (t.res.get i).w) ∧
      (t.res.get i).ampRun = (if s.pf 0x40 i 36 ≤ a ∧ a ≤ s.pf 0x40 i 40 then 0 else r.ampRun + 1) ∧ (t.res.get i).trkRun = (if sinA (s.pu 0x40 i 44) < absQ eps then r.trkRun + 1 else 0) ∧
      ((t.res.get i).ampRun = 4 ∨ (t.res.get i).trkRun = 3 → (t.pos.get i).valid = false) ∧ ((t.res.get i).ampRun = 4 → s.posUserRuns i = true → active 0x2001 i.val t = true) ∧
      t.beyond = { s with res := t.res, pos := t.pos, cal := t.cal, em := t.em }.beyond := by
  obtain ⟨t, run, after⟩ := resolverUpdate_answers at270 sQuad cQuad sEnv cEnv resolver present loaded hr hs hc ha he
  refine ⟨t, run, ?_⟩
  have judged := resJudged_tracked i r a eps s
  have invalid := resCheck_invalid (i := i) (eps := eps) (s := resTracked i r a eps s)
  have fault (fourth : (resJudged i eps (resTracked i r a eps s)).ampRun = 4) (user : s.posUserRuns i = true) : active 0x2001 i.val t = true :=
    after.grows _ _ (resCheck_amplitude fourth ((resTracked_user i r a eps s).trans user))
  have frame : ResOnly s t := ResOnly.trans (t := resTracked i r a eps s) rfl ((resCheck_res i eps _).1.trans after.only)
  have tracked : (t.res.get i).tracked = (resJudged i eps (resTracked i r a eps s)).tracked := by rw [after.tracked, resCheck_judged]
  obtain ⟨-, -, -, -, -, -, -, -, -, -, angle, speed⟩ := (resCheck_res i eps (resTracked i r a eps s)).2
  rw [show (resTracked i r a eps s).pos.get i = _ from Tab.get_upd_same _ _ _, ← after.pos] at angle speed
  rw [← after.pos] at invalid
  obtain ⟨os, oc, k, phi, sdly, own⟩ := ResSt.eq_of_tracked tracked
  beta_reduce
  rw [own, angle, speed]
  generalize resJudged i eps (resTracked i r a eps s) = x at judged invalid fault
  subst judged
  exact ⟨rfl, trackedSpeed_eq s i r eps, trackedAngle_eq s i r eps, rfl, rfl, rfl, rfl, rfl, rfl, rfl, rfl, rfl, rfl, rfl, rfl, invalid, fault, frame⟩

/-- The clause on a step that is due. -/
theorem emulationStep_clause (s : State) (i : Ifc) (sinceCt : Nat) (out : Int) (emulation : 10 ≤ i.val) (present : s.hasRec 0x40 i = true)
    (waiting : (s.em.get i).want ≠ (s.em.get i).out) (spaced : s.pu 0x40 i 32 ≤ sinceCt) (valid : s.posValid ⟨s.pu 0x40 i 20 % 12, Nat.mod_lt _ (by decide)⟩ = true)
    (hout : out = (if (s.em.get i).out < (s.em.get i).want then (s.em.get i).out + 1 else (s.em.get i).out - 1)) :
    exec (.emulationStep i sinceCt) s = .next { s with em := s.em.put i { s.em.get i with out := out, shown := out, sync := (s.em.get i).sync || decide (out % (max (outTurn s i) 1 : Nat) = 0) }, pos := s.pos.upd i (fun p => { p with count := wrap32 out }) } := by
  subst hout
  exact if_pos ⟨emulation, present, waiting, spaced, valid⟩

/-- The clause on a step that is not due. -/
theorem emulationStep_idle_clause (s : State) (i : Ifc) (sinceCt : Nat)
    (idle : i.val < 10 ∨ s.hasRec 0x40 i = false ∨ (s.em.get i).want = (s.em.get i).out ∨ sinceCt < s.pu 0x40 i 32 ∨ s.posValid ⟨s.pu 0x40 i 20 % 12, Nat.mod_lt _ (by decide)⟩ = false) :
    exec (.emulationStep i sinceCt) s = .next s := by
  refine if_neg ?_
  rintro ⟨emulation, present, waiting, spaced, valid⟩
  rcases idle with other | absent | done | early | invalid
  · omega
  · simp [absent] at present
  · exact waiting done
  · omega
  · simp [invalid] at valid

/-- Settles O22, clause by clause: an update, a step that is due, and one that is not. -/
theorem resolvers : Obligations.Resolvers := by
  unfold Obligations.Resolvers
  exact ⟨resolverUpdate_clause, emulationStep_clause, emulationStep_idle_clause⟩

end Sys2Proof.Machine
end

section
/-! SUPPORT. What a SENT frame taken writes, and when it makes its interface VALID (08_position_speed.md, R212, R222 to R224). -/

namespace Sys2Proof.Machine

theorem ifc_served {s : State} {i : Ifc} {lo hi : Nat} (low : lo ≤ i.val) (high : i.val < hi) (present : s.hasRec 0x40 i = true) : ¬(i.val < lo ∨ hi ≤ i.val ∨ s.hasRec 0x40 i = false) := by
  rintro (below | above | absent)
  · omega
  · omega
  · simp [present] at absent

/-- An accepted frame taken: its angle, its speed over the last frames, its status (R223). -/
def sentTaken (i : Ifc) (f : SentFrame) (st : Nat) (ds : List Nat) (s : State) : State :=
  { s with
    sent := s.sent.put i { frames := ((f.tFt, sentAngle s i ds) :: (s.sent.get i).frames).take 4, prevCal := some f.cal, first := false, accRun := (s.sent.get i).accRun + 1, raw := sentRaw s i ds },
    pos := s.pos.upd i (fun p => { p with
      angle := sentAngle s i ds, speed := sentSpeed (((f.tFt, sentAngle s i ds) :: (s.sent.get i).frames).take 4),
      neg := decide (sentSpeed (((f.tFt, sentAngle s i ds) :: (s.sent.get i).frames).take 4) < 0),
      still := decide (sentSpeed (((f.tFt, sentAngle s i ds) :: (s.sent.get i).frames).take 4) = 0), code := st }) }

/-- The second accepted frame in a row makes the interface VALID (R212). -/
def sentRegained (i : Ifc) (f : SentFrame) (st : Nat) (ds : List Nat) (s : State) : State :=
  if 2 ≤ (s.sent.get i).accRun + 1 then posOk i (sentTaken i f st ds s) else sentTaken i f st ds s

theorem sentRegained_same (i : Ifc) (f : SentFrame) (st : Nat) (ds : List Nat) (s : State) :
    SameButFaults { sentTaken i f st ds s with pos := (sentRegained i f st ds s).pos } (sentRegained i f st ds s) := by
  unfold sentRegained
  split
  · exact (posOk_same i _).1
  · rfl

theorem sentRegained_sent (i : Ifc) (f : SentFrame) (st : Nat) (ds : List Nat) (s : State) : (sentRegained i f st ds s).sent = (sentTaken i f st ds s).sent := by
  rw [sentRegained_same]

/-- What a taken frame shows, and when it is VALID (R212, R223). -/
theorem sentRegained_pos (i : Ifc) (f : SentFrame) (st : Nat) (ds : List Nat) (s : State) :
    ∃ v b, (sentRegained i f st ds s).pos.get i = { (sentTaken i f st ds s).pos.get i with valid := v, bad := b } ∧
      ((s.pos.get i).valid = true ∨ 1 ≤ (s.sent.get i).accRun → v = true) := by
  unfold sentRegained
  split
  next =>
    rcases (posOk_same i (sentTaken i f st ds s)).2.1 with kept | gained
    · exact ⟨_, _, kept, fun _ => rfl⟩
    · exact ⟨_, _, gained, fun _ => rfl⟩
  next first =>
    refine ⟨_, _, rfl, fun valid => ?_⟩
    rcases valid with valid | run
    · exact (congrArg PosSt.valid (Tab.get_upd_same _ _ _)).trans valid
    · omega

/-- The run of accepted frames starts over (R222, R224). -/
def sentRestarted (i : Ifc) (s : State) : State := { s with sent := s.sent.upd i (fun x => { x with first := true, accRun := 0 }) }

/-- A rejected frame taken: the run starts over, and its calibration pulse is kept (R222). -/
def sentDropped (i : Ifc) (f : SentFrame) (s : State) : State :=
  { s with sent := s.sent.put i { s.sent.get i with first := true, accRun := 0, prevCal := some f.cal } }

end Sys2Proof.Machine
end

section
/-! SENT frames, their loss, and standstill of the edge interfaces. -/

namespace Sys2Proof.Machine

/-- The clause on an accepted frame. -/
theorem sentAccepted_clause (s : State) (i : Ifc) (f : SentFrame) (st : Nat) (ds : List Nat) (low : 2 ≤ i.val) (high : i.val < 4) (present : s.hasRec 0x40 i = true)
    (accepted : sentAccept s i f = some (st, ds)) :
    Answers (exec (.sentFrame i f) s) fun t => (t.pos.get i).angle = sentAngle s i ds ∧ (t.pos.get i).code = st ∧ (t.sent.get i).accRun = (s.sent.get i).accRun + 1 ∧ (t.sent.get i).first = false ∧ (t.sent.get i).frames.head? = some (f.tFt, sentAngle s i ds) ∧
      ((s.pos.get i).valid = true ∨ 1 ≤ (s.sent.get i).accRun → (t.pos.get i).valid = true) ∧ t.beyond = { s with sent := t.sent, pos := t.pos, em := t.em }.beyond := by
  have run : ∃ p d, exec (.sentFrame i f) s = .next (feedEmulation i p d (sentRegained i f st ds s)) := by
    change ∃ p d, execSentFrame i f s = _
    unfold execSentFrame
    rw [if_neg (ifc_served low high present), accepted]
    exact ⟨_, _, rfl⟩
  obtain ⟨p, d, run⟩ := run
  refine ⟨_, run, ?_⟩
  obtain ⟨fed, others⟩ := feedEmulation_parts i p d (sentRegained i f st ds s)
  have own := others i (by omega)
  have sent : (feedEmulation i p d (sentRegained i f st ds s)).sent = (sentTaken i f st ds s).sent := (feedEmulation_sent ..).trans (sentRegained_sent ..)
  have taken : (sentTaken i f st ds s).pos.get i = _ := Tab.get_upd_same _ _ _
  have entry : (sentTaken i f st ds s).sent.get i = _ := Tab.get_put_same _ _ _
  have frame := fed.beyond.trans (SameButFaults.beyond_pe (sentRegained_same i f st ds s) _ _)
  obtain ⟨v, b, pos, valid⟩ := sentRegained_pos i f st ds s
  generalize feedEmulation i p d (sentRegained i f st ds s) = t at own sent frame
  rw [own, pos, sent, entry, taken]
  exact ⟨rfl, rfl, rfl, rfl, rfl, valid, frame⟩

/-- The clause on a rejected frame. -/
theorem sentRejected_clause (s : State) (i : Ifc) (f : SentFrame) (low : 2 ≤ i.val) (high : i.val < 4) (present : s.hasRec 0x40 i = true) (rejected : sentAccept s i f = none) :
    Answers (exec (.sentFrame i f) s) fun t => (t.sent.get i).first = true ∧ (t.sent.get i).accRun = 0 ∧ (t.pos.get i).errTotal = min ((s.pos.get i).errTotal + 1) 65535 ∧ (t.pos.get i).angle = (s.pos.get i).angle ∧
      ((t.pos.get i).valid = true ↔ (s.pos.get i).valid = true ∧ (t.pos.get i).errTimes.length ≤ s.pu 0x40 i 44) ∧ Grows s t ∧ t.beyond = { s with sent := t.sent, pos := t.pos }.beyond := by
  have run : exec (.sentFrame i f) s = .next (errStep i 0x2005 f.tFt (sentDropped i f s)) := by
    refine (if_neg (ifc_served low high present)).trans ?_
    rw [rejected]
    rfl
  refine ⟨_, run, ?_⟩
  obtain ⟨⟨v, b, l, own, window⟩, -, grows, beyond⟩ := errStep_ok i 0x2005 f.tFt (sentDropped i f s)
  have sent : (errStep i 0x2005 f.tFt (sentDropped i f s)).sent = (sentDropped i f s).sent := congrArg Beyond.sent beyond
  generalize errStep i 0x2005 f.tFt (sentDropped i f s) = t at own grows beyond sent
  have entry : t.sent.get i = { s.sent.get i with first := true, accRun := 0, prevCal := some f.cal } := by
    rw [sent]
    exact Tab.get_put_same _ _ _
  rw [own]
  refine ⟨?first, ?run, rfl, rfl, window, grows, ?frame⟩
  case first => exact congrArg SentSt.first entry
  case run => exact congrArg SentSt.accRun entry
  case frame =>
    rw [beyond, sent]
    rfl

/-- The clause on a timeout. -/
theorem sentTimeout_clause (s : State) (i : Ifc) (sinceUs : Nat) (low : 2 ≤ i.val) (high : i.val < 4) (present : s.hasRec 0x40 i = true) (late : s.pf 0x40 i 40 * 1000000 ≤ sinceUs) :
    Answers (exec (.sentTimeout i sinceUs) s) fun t => (t.pos.get i).valid = false ∧ (s.posUserRuns i = true → active 0x2004 i.val t = true) ∧ (s.posUserRuns i = false → t.faults = s.faults) ∧ Grows s t ∧
      t.beyond = { s with sent := s.sent.upd i (fun x => { x with first := true, accRun := 0 }), pos := s.pos.upd i (fun p => { p with valid := false, bad := true }) }.beyond := by
  have grows : Grows s (posLose i 0x2004 (sentRestarted i s)) := Grows.trans (t := sentRestarted i s) (.of_eq rfl) (posLose_grows _ _ _)
  exact ⟨_, if_pos ⟨low, high, present, late⟩, posLose_valid _ _ _, fun user => posLose_raises user, fun idle => posLose_idle (s := sentRestarted i s) idle, grows,
    posLose_beyond' _ _ _⟩

/-- The clause on T_STILL. -/
theorem standstill_clause (s : State) (i : Ifc) (tauUs : Nat) (low : 4 ≤ i.val) (high : i.val < 10) (present : s.hasRec 0x40 i = true) (late : s.pf 0x40 i 16 ≤ (tauUs : Q) / 1000000) :
    exec (.standstillTimeout i tauUs) s = .next { s with edge := s.edge.put i { s.edge.get i with dir := 0, times := [], steps := [], n := 0 }, pos := s.pos.put i { s.pos.get i with speed := 0, still := true } } :=
  (if_neg (ifc_served low high present)).trans (if_pos late)

/-- Settles O23, clause by clause: an accepted frame, a rejected one, the timeout, and T_STILL. -/
theorem sentSensors : Obligations.SentSensors := by
  unfold Obligations.SentSensors
  exact ⟨sentAccepted_clause, sentRejected_clause, sentTimeout_clause, standstill_clause⟩

end Sys2Proof.Machine
end

section
/-! SUPPORT. What an accepted level of an encoder, a Hall set or an index input writes (08_position_speed.md, R225 to R235). -/

namespace Sys2Proof.Machine

theorem edge_served {s : State} {i : Ifc} {heldCt lo hi : Nat} (low : lo ≤ i.val) (high : i.val < hi) (present : s.hasRec 0x40 i = true) (held : s.pu 0x40 i 12 ≤ heldCt) :
    ¬(i.val < lo ∨ hi ≤ i.val ∨ s.hasRec 0x40 i = false ∨ filtered s i heldCt = false) := by
  have accepted : filtered s i heldCt = true := decide_eq_true held
  rintro (below | above | absent | rejected)
  · omega
  · omega
  · simp [present] at absent
  · simp [accepted] at rejected

/-! ## What the index leaves of an encoder (R226, R228 to R230) -/

/-- The levels an encoder has accepted, and the edges it has timed. -/
def EdgeSt.accepted (x : EdgeSt) : Bool × Bool × Bool × Nat := (x.a, x.b, x.z, x.n)

/-- What an encoder has counted, and the level of its index input. -/
def PosSt.counted (p : PosSt) : Int × Bool × Nat := (p.count, p.idxLvl, p.errTotal)

/-- An encoder keeps its levels and its counts, and nothing beyond positions, edges, the emulation and what faults touch changes. -/
structure EncoderKept (i : Ifc) (s t : State) : Prop where
  only : PosOnly s t
  accepted : (t.edge.get i).accepted = (s.edge.get i).accepted
  counted : (t.pos.get i).counted = (s.pos.get i).counted

theorem EncoderKept.refl (i : Ifc) (s : State) : EncoderKept i s s := ⟨rfl, rfl, rfl⟩

theorem EncoderKept.trans {i : Ifc} {s t u : State} (a : EncoderKept i s t) (b : EncoderKept i t u) : EncoderKept i s u :=
  ⟨a.only.trans b.only, b.accepted.trans a.accepted, b.counted.trans a.counted⟩

theorem EncoderKept.levels {i : Ifc} {s t : State} (h : EncoderKept i s t) :
    (t.edge.get i).a = (s.edge.get i).a ∧ (t.edge.get i).b = (s.edge.get i).b ∧ (t.edge.get i).z = (s.edge.get i).z ∧ (t.edge.get i).n = (s.edge.get i).n := by
  simpa only [EdgeSt.accepted, Prod.mk.injEq] using h.accepted

theorem EncoderKept.counts {i : Ifc} {s t : State} (h : EncoderKept i s t) :
    (t.pos.get i).count = (s.pos.get i).count ∧ (t.pos.get i).idxLvl = (s.pos.get i).idxLvl ∧ (t.pos.get i).errTotal = (s.pos.get i).errTotal := by
  simpa only [PosSt.counted, Prod.mk.injEq] using h.counted

theorem EncoderKept.ite {p : Prop} [Decidable p] {i : Ifc} {s t u : State} (a : EncoderKept i s t) (b : EncoderKept i s u) : EncoderKept i s (if p then t else u) := by
  split <;> assumption

theorem EncoderKept.foldl {i : Ifc} {α : Type} {f : State → α → State} {l : List α} (step : ∀ u, ∀ x ∈ l, EncoderKept i u (f u x)) (s : State) : EncoderKept i s (l.foldl f s) := by
  induction l generalizing s with
  | nil => exact .refl _ _
  | cons x l ih => exact (step s x (by simp)).trans (ih (fun u y m => step u y (by simp [m])) _)

theorem posOk_encoder (i : Ifc) (s : State) : EncoderKept i s (posOk i s) := by
  obtain ⟨same, own, -⟩ := posOk_same i s
  refine ⟨posOk_only i s, ?_, ?_⟩
  · rw [same]
  · rcases own with own | own <;> rw [own] <;> rfl

theorem indexFault_encoder (i : Ifc) (c : Nat) (s : State) (hf : c ≠ 0x680A := by decide) (hq : c ≠ 0x7002 := by decide) : EncoderKept i s (indexFault i c s) := by
  obtain ⟨only, edge, pos⟩ := indexFault_parts i c s hf hq
  refine ⟨only, by rw [edge], ?_⟩
  rw [pos]
  split
  · rw [Tab.get_upd_same]
    rfl
  · rfl

theorem indexEvent_encoder (i : Ifc) (turn : Nat) (s : State) : EncoderKept i s (indexEvent i turn s) := by
  unfold indexEvent
  dsimp only
  split
  · exact ⟨rfl, by simp [EdgeSt.accepted], by simp [PosSt.counted]⟩
  next c _ =>
    have latched (p : PosSt) (h : p.counted = (s.pos.get i).counted) : EncoderKept i s { s with pos := s.pos.put i p } := ⟨rfl, rfl, by simpa using h⟩
    refine .ite ((latched _ ?_).trans (indexFault_encoder _ _ _)) (latched _ ?_) <;> rfl

theorem indexGood_encoder {i : Ifc} (encoder : i.val < 6) (s : State) : EncoderKept i s (indexGood i s) := by
  unfold indexGood
  rw [if_pos encoder]
  exact .ite (.refl _ _) (posOk_encoder _ _)

theorem indexMissing_encoder (i : Ifc) (turn : Nat) (s : State) : EncoderKept i s (indexMissing i turn s) :=
  .ite (indexFault_encoder _ _ _) (.refl _ _)

theorem abzIndex_encoder {i : Ifc} (encoder : i.val < 6) (ev : Bool) (s : State) : EncoderKept i s (abzIndex i ev s) :=
  .ite ((indexEvent_encoder _ _ _).trans (indexGood_encoder encoder _)) (indexMissing_encoder _ _ _)

theorem abzFollow_encoder (i : Ifc) (s : State) : EncoderKept i s (abzFollow i s) := by
  unfold abzFollow
  split
  · exact ⟨rfl, rfl, by simp [PosSt.counted]⟩
  · exact .refl _ _

theorem rebaseEm_encoder {i : Ifc} (encoder : i.val < 6) (src : Ifc) (p : Int) (s : State) : EncoderKept i s (rebaseEm src p s) := by
  unfold rebaseEm
  refine EncoderKept.foldl (fun u j m => ?_) s
  have other : i ≠ j := by
    rintro rfl
    simp only [List.mem_cons, List.not_mem_nil, or_false] at m
    rcases m with rfl | rfl <;> exact absurd encoder (by decide)
  split
  · exact ⟨rfl, rfl, by simp [emAt, Tab.get_upd, other]⟩
  · exact .refl _ _

theorem abzSettle_encoder {i : Ifc} (encoder : i.val < 6) (ev : Bool) (s : State) : EncoderKept i s (abzSettle i ev s) :=
  have followed := (abzIndex_encoder encoder ev s).trans (abzFollow_encoder i _)
  .ite (followed.trans (rebaseEm_encoder encoder _ _ _)) followed

theorem feedEmulation_encoder {src : Ifc} (encoder : src.val < 6) (p d : Int) (s : State) : EncoderKept src s (feedEmulation src p d s) :=
  ⟨feedEmulation_only src p d s, by rw [feedEmulation_edge], by rw [(feedEmulation_parts src p d s).2 src (by omega)]⟩

/-! ## Levels of an encoder (R225, R226) -/

/-- The levels of an encoder accepted. -/
def abzAccepted (i : Ifc) (a b z : Bool) (s : State) : State :=
  { s with edge := s.edge.put i { s.edge.get i with a := a, b := b, z := z }, pos := s.pos.upd i (fun p => { p with idxLvl := z }) }

/-- COUNT moved by a step. -/
def abzCounted (i : Ifc) (step : Int) (s : State) : State := { s with pos := s.pos.upd i (fun p => { p with count := wrap32 (p.count + step) }) }

/-- The change of phase that accepted levels make. -/
abbrev phaseChange (s : State) (i : Ifc) (a b : Bool) : Nat := (quadPhase a b + 4 - quadPhase (s.edge.get i).a (s.edge.get i).b) % 4

theorem abzEdge_step {s : State} {i : Ifc} {a b : Bool} (z : Bool) {heldCt : Nat} (tFt : Nat) (low : 4 ≤ i.val) (high : i.val < 6) (present : s.hasRec 0x40 i = true)
    (held : s.pu 0x40 i 12 ≤ heldCt) (one : phaseChange s i a b = 1 ∨ phaseChange s i a b = 3) :
    ∃ ev p theta, exec (.abzEdge i a b z heldCt tFt) s =
      .next (abzSettle i ev (feedEmulation i p (if phaseChange s i a b = 1 then dirI s i 1 else dirI s i (-1))
        (timedEdge i (if phaseChange s i a b = 1 then dirI s i 1 else dirI s i (-1)) tFt 0 4 theta
          (abzCounted i (if phaseChange s i a b = 1 then dirI s i 1 else dirI s i (-1)) (abzAccepted i a b z s))))) := by
  have notBoth : ¬phaseChange s i a b = 2 := by rcases one with h | h <;> rw [h] <;> decide
  have moved : ¬phaseChange s i a b = 0 := by rcases one with h | h <;> rw [h] <;> decide
  exact ⟨_, _, _, (if_neg (edge_served low high present held)).trans ((if_neg notBoth).trans (if_neg moved))⟩

theorem abzEdge_both {s : State} {i : Ifc} {a b : Bool} (z : Bool) {heldCt : Nat} (tFt : Nat) (low : 4 ≤ i.val) (high : i.val < 6) (present : s.hasRec 0x40 i = true)
    (held : s.pu 0x40 i 12 ≤ heldCt) (both : phaseChange s i a b = 2) :
    exec (.abzEdge i a b z heldCt tFt) s =
      .next (if a && b && z && decide (phaseChange s i a b ≠ 0) then abzSettle i (a && b && z && decide (phaseChange s i a b ≠ 0)) (errStep i 0x2006 tFt (restartTiming i (abzAccepted i a b z s)))
        else errStep i 0x2006 tFt (restartTiming i (abzAccepted i a b z s))) :=
  (if_neg (edge_served low high present held)).trans (if_pos both)

/-! ## Hall codes (R231, R232) -/

/-- The code that a Hall set shows. -/
def hallShown (i : Ifc) (code : Nat) (s : State) : State := { s with pos := s.pos.upd i (fun p => { p with code := code % 8 }) }

theorem hallEdge_first {s : State} {i : Ifc} {code heldCt : Nat} (tFt : Nat) (low : 6 ≤ i.val) (high : i.val < 10) (present : s.hasRec 0x40 i = true) (held : s.pu 0x40 i 12 ≤ heldCt)
    (possible : ¬(code % 8 = 0 ∨ code % 8 = 7)) (first : (s.edge.get i).lastCode = 0) :
    exec (.hallEdge i code heldCt tFt) s = .next (posOk i (hallMiddle i (code % 8) (hallShown i code s))) :=
  (if_neg (edge_served low high present held)).trans ((if_neg possible).trans (if_pos first))

theorem hallEdge_impossible {s : State} {i : Ifc} {code heldCt : Nat} (tFt : Nat) (low : 6 ≤ i.val) (high : i.val < 10) (present : s.hasRec 0x40 i = true) (held : s.pu 0x40 i 12 ≤ heldCt)
    (impossible : code % 8 = 0 ∨ code % 8 = 7) :
    exec (.hallEdge i code heldCt tFt) s = .next (errStep i 0x200A tFt (raise 0x2009 i.val 0 (hallShown i code s))) :=
  (if_neg (edge_served low high present held)).trans (if_pos impossible)

/-! ## Index inputs (R229, R234, R367) -/

/-- The level that an index input shows. -/
def levelShown (i : Ifc) (level : Bool) (s : State) : State := { s with pos := s.pos.upd i (fun p => { p with idxLvl := level }) }

theorem indexEdge_traction {s : State} {i : Ifc} {heldCt : Nat} (low : 6 ≤ i.val) (high : i.val < 8) (present : s.hasRec 0x40 i = true) (held : s.pu 0x40 i 12 ≤ heldCt)
    (rising : (s.pos.get i).idxLvl = false) (watched : s.pu 0x40 i 60 ≠ 0) :
    exec (.indexRisingEdge i true heldCt) s = .next (indexGood i (indexEvent i (6 * s.pu 0x40 i 0) (levelShown i true s))) := by
  have edge : ¬(true = false ∨ (s.pos.get i).idxLvl = true) := by simp [rising]
  exact (if_neg (edge_served low (by omega) present held)).trans ((if_neg edge).trans ((if_pos high).trans (if_neg watched)))

/-- The first index event of an interface gives its reference (R229). -/
theorem indexEvent_first {s : State} {i : Ifc} (turn : Nat) (first : (s.edge.get i).cref = none) : indexEvent i turn s =
    { s with
      edge := s.edge.put i { s.edge.get i with cref := some (s.pos.get i).count },
      pos := s.pos.put i { s.pos.get i with idx := (s.pos.get i).count, idxNum := wrapInc 16 (s.pos.get i).idxNum, idxSeen := true, aid := false, drift := 0 } } := by
  unfold indexEvent
  dsimp only
  rw [first]

/-- An index event without drift clears the index faults of a Hall set and nothing else (R212, R229). -/
theorem indexGood_hall {s : State} {i : Ifc} (hall : 6 ≤ i.val) (still : (s.pos.get i).drift = 0) : SameButFaults s (indexGood i s) := by
  unfold indexGood
  rw [still, if_neg (by simp), if_neg (by omega)]
  exact (clearF_same _ _ _).trans (clearF_same _ _ _)

/-- COUNT latched by an index (R234). -/
def indexLatched (i : Ifc) (s : State) : State :=
  { s with pos := s.pos.upd i (fun p => { p with idx := p.count, idxNum := wrapInc 16 p.idxNum, idxSeen := true }) }

theorem indexEdge_actuator {s : State} {i : Ifc} {heldCt : Nat} (low : 8 ≤ i.val) (high : i.val < 10) (present : s.hasRec 0x40 i = true) (held : s.pu 0x40 i 12 ≤ heldCt)
    (rising : (s.pos.get i).idxLvl = false) :
    exec (.indexRisingEdge i true heldCt) s = .next (actOnIndex i (indexLatched i (levelShown i true s))) := by
  have edge : ¬(true = false ∨ (s.pos.get i).idxLvl = true) := by simp [rising]
  exact (if_neg (edge_served (by omega) high present held)).trans ((if_neg edge).trans (if_neg (by omega)))

/-- An arrival brakes the actuator: its reference and what its stroke has crossed stay, and nothing else changes (R369). -/
theorem arrive_parts (a : Act) (s : State) : arrive a s = { s with act := (arrive a s).act } ∧ ((arrive a s).act.get a).ref = (s.act.get a).ref ∧
    ((arrive a s).act.get a).crossed = (s.act.get a).crossed ∧ ∀ b, b ≠ a → (arrive a s).act.get b = s.act.get b := by
  unfold arrive brake
  dsimp only
  split
  · exact ⟨rfl, by simp, by simp, fun b other => Tab.get_upd_other _ _ _ _ other⟩
  · exact ⟨rfl, rfl, rfl, fun _ _ => rfl⟩

/-- The reference that an index gives the park actuator, by the direction of COUNT (R367). -/
def parkReference (s : State) : Int := if (s.edge.get 8).dir < 0 then (s.pos.get 8).idx - s.pu 0x78 0 96 else (s.pos.get 8).idx

/-- The park actuator with its reference, its index crossed. -/
def parkReferenced (s : State) : State := { s with act := s.act.put .park { s.act.get .park with ref := some (parkReference s), crossed := true } }

/-- A move of the park actuator turned toward its target. -/
def parkTurned (s : State) : State := { s with act := s.act.upd .park (fun y => { y with neg := moveNeg .park s, fwd := moveNeg .park s }) }

theorem actOnIndex_first {s : State} (first : (s.act.get .park).ref = none) :
    actOnIndex 8 s = if (s.act.get .park).phase = .moving then arrive .park (parkTurned (parkReferenced s)) else parkReferenced s := by
  have park : (if (8 : Ifc).val = 8 then Act.park else .shift) = .park := rfl
  unfold actOnIndex
  rw [if_pos (.inl rfl)]
  dsimp only
  rw [park, first]
  rfl

/-- The first index becomes the reference of the park actuator, and nothing beyond the actuators changes (R367). -/
theorem actOnIndex_first_parts {s : State} (first : (s.act.get .park).ref = none) :
    actOnIndex 8 s = { s with act := (actOnIndex 8 s).act } ∧ ((actOnIndex 8 s).act.get .park).crossed = true ∧
      ((actOnIndex 8 s).act.get .park).ref = some (parkReference s) ∧ (actOnIndex 8 s).act.get .shift = s.act.get .shift := by
  rw [actOnIndex_first first]
  split
  · obtain ⟨only, ref, crossed, others⟩ := arrive_parts .park (parkTurned (parkReferenced s))
    refine ⟨only, crossed.trans ?_, ref.trans ?_, (others .shift (by decide)).trans ?_⟩ <;> simp [parkTurned, parkReferenced, Tab.get_upd, Tab.get_put]
  · exact ⟨rfl, by simp [parkReferenced], by simp [parkReferenced], by simp [parkReferenced, Tab.get_put]⟩

end Sys2Proof.Machine
end

section
/-! Encoder edges, Hall codes and index inputs. -/

namespace Sys2Proof.Machine

/-- The clause on one accepted edge. -/
theorem abzStep_clause (s : State) (i : Ifc) (a b z : Bool) (heldCt tFt : Nat) (low : 4 ≤ i.val) (high : i.val < 6) (present : s.hasRec 0x40 i = true) (held : s.pu 0x40 i 12 ≤ heldCt)
    (one : phaseChange s i a b = 1 ∨ phaseChange s i a b = 3) :
    Answers (exec (.abzEdge i a b z heldCt tFt) s) fun t => (t.pos.get i).count = wrap32 ((s.pos.get i).count + dirI s i (if phaseChange s i a b = 1 then 1 else -1)) ∧ (t.pos.get i).idxLvl = z ∧ (t.edge.get i).a = a ∧ (t.edge.get i).b = b ∧ (t.edge.get i).z = z ∧
      t.beyond = { s with edge := t.edge, pos := t.pos, em := t.em }.beyond := by
  obtain ⟨ev, p, theta, run⟩ := abzEdge_step z tFt low high present held one
  refine ⟨_, run, ?_⟩
  have step : (if phaseChange s i a b = 1 then dirI s i 1 else dirI s i (-1)) = dirI s i (if phaseChange s i a b = 1 then 1 else -1) := (apply_ite _ _ _ _).symm
  rw [step]
  generalize dirI s i (if phaseChange s i a b = 1 then 1 else -1) = sg
  have timed : PosOnly s (timedEdge i sg tFt 0 4 theta (abzCounted i sg (abzAccepted i a b z s))) :=
    PosOnly.trans (t := abzCounted i sg (abzAccepted i a b z s)) rfl (timedEdge_only ..)
  obtain ⟨count, idxLvl, -, ea, eb, ez, -⟩ := timedEdge_count i sg tFt 0 4 theta (abzCounted i sg (abzAccepted i a b z s))
  generalize timedEdge i sg tFt 0 4 theta (abzCounted i sg (abzAccepted i a b z s)) = u at timed count idxLvl ea eb ez ⊢
  have settled := (feedEmulation_encoder high p sg u).trans (abzSettle_encoder high ev _)
  obtain ⟨la, lb, lz, -⟩ := settled.levels
  obtain ⟨lcount, lidx, -⟩ := settled.counts
  refine ⟨(lcount.trans count).trans ?_, (lidx.trans idxLvl).trans ?_, (la.trans ea).trans ?_, (lb.trans eb).trans ?_, (lz.trans ez).trans ?_, timed.trans settled.only⟩
  all_goals simp [abzCounted, abzAccepted]

/-- The clause on both levels together. -/
theorem abzBoth_clause (s : State) (i : Ifc) (a b z : Bool) (heldCt tFt : Nat) (low : 4 ≤ i.val) (high : i.val < 6) (present : s.hasRec 0x40 i = true) (held : s.pu 0x40 i 12 ≤ heldCt)
    (both : phaseChange s i a b = 2) :
    Answers (exec (.abzEdge i a b z heldCt tFt) s) fun t => (t.pos.get i).count = (s.pos.get i).count ∧ (t.pos.get i).errTotal = min ((s.pos.get i).errTotal + 1) 65535 ∧ (t.edge.get i).n = 0 ∧ (t.edge.get i).a = a ∧ (t.edge.get i).b = b ∧
      ((a && b && z) = false → ((t.pos.get i).valid = true ↔ (s.pos.get i).valid = true ∧ (t.pos.get i).errTimes.length ≤ s.pu 0x40 i 44) ∧ Grows s t ∧ t.em = s.em) ∧ t.beyond = { s with edge := t.edge, pos := t.pos, em := t.em }.beyond := by
  refine ⟨_, abzEdge_both z tFt low high present held both, ?_⟩
  obtain ⟨⟨v, b', l, own, window⟩, -, grows, frame⟩ := errStep_ok i 0x2006 tFt (restartTiming i (abzAccepted i a b z s))
  generalize errStep i 0x2006 tFt (restartTiming i (abzAccepted i a b z s)) = u at own grows frame ⊢
  have before : ((restartTiming i (abzAccepted i a b z s)).pos.get i).valid = (s.pos.get i).valid := by simp [restartTiming, abzAccepted]
  rw [before] at window
  have edge : u.edge = (restartTiming i (abzAccepted i a b z s)).edge := congrArg Beyond.edge frame
  have em : u.em = s.em := congrArg Beyond.em frame
  have only : PosOnly s u := by
    unfold PosOnly
    rw [frame, edge, em]
    rfl
  have noEvent (quiet : (a && b && z) = false) : (a && b && z && decide (phaseChange s i a b ≠ 0)) = false := by rw [quiet]; rfl
  generalize (a && b && z && decide (phaseChange s i a b ≠ 0)) = ev at noEvent ⊢
  have settled : EncoderKept i u (if ev = true then abzSettle i ev u else u) := .ite (abzSettle_encoder high ev u) (.refl _ _)
  have quiet : (a && b && z) = false → (if ev = true then abzSettle i ev u else u) = u := fun h => by rw [noEvent h]; rfl
  generalize (if ev = true then abzSettle i ev u else u) = t at settled quiet ⊢
  obtain ⟨la, lb, -, ln⟩ := settled.levels
  obtain ⟨lcount, -, ltotal⟩ := settled.counts
  rw [edge] at la lb ln
  rw [own] at lcount ltotal
  refine ⟨lcount.trans ?count, ltotal.trans ?total, ln.trans ?timing, la.trans ?a, lb.trans ?b, fun h => ?window, only.trans settled.only⟩
  case window =>
    rw [quiet h, own]
    exact ⟨window, Grows.trans (t := restartTiming i (abzAccepted i a b z s)) (.of_eq rfl) grows, em⟩
  all_goals simp [restartTiming, abzAccepted, satInc]

/-- The clause on a level that has not held for FILT. -/
theorem abzUnfiltered_clause (s : State) (i : Ifc) (a b z : Bool) (heldCt tFt : Nat) (early : heldCt < s.pu 0x40 i 12) : exec (.abzEdge i a b z heldCt tFt) s = .next s :=
  if_pos (.inr (.inr (.inr (decide_eq_false (by omega)))))

/-- The clause on the first valid code. -/
theorem hallFirst_clause (s : State) (i : Ifc) (code heldCt tFt : Nat) (low : 6 ≤ i.val) (high : i.val < 10) (present : s.hasRec 0x40 i = true) (held : s.pu 0x40 i 12 ≤ heldCt)
    (notZero : code % 8 ≠ 0) (notSeven : code % 8 ≠ 7) (first : (s.edge.get i).lastCode = 0) :
    Answers (exec (.hallEdge i code heldCt tFt) s) fun t => (t.pos.get i).valid = true ∧ (t.pos.get i).code = code % 8 ∧ (t.pos.get i).angle = s.hallMid i (code % 8) ∧ (t.pos.get i).count = (s.pos.get i).count ∧ (t.edge.get i).lastCode = code % 8 ∧
      (∀ k, k ≠ i → t.pos.get k = s.pos.get k ∧ t.edge.get k = s.edge.get k) ∧ SameButFaults { s with edge := t.edge, pos := t.pos } t := by
  refine ⟨_, hallEdge_first tFt low high present held (by omega) first, ?_⟩
  have valid := posOk_valid i (hallMiddle i (code % 8) (hallShown i code s))
  obtain ⟨same, own, others⟩ := posOk_same i (hallMiddle i (code % 8) (hallShown i code s))
  have edge : (posOk i (hallMiddle i (code % 8) (hallShown i code s))).edge = (hallMiddle i (code % 8) (hallShown i code s)).edge := by rw [same]
  generalize posOk i (hallMiddle i (code % 8) (hallShown i code s)) = t at valid same own others edge ⊢
  have middle : (hallMiddle i (code % 8) (hallShown i code s)).pos.get i = { s.pos.get i with code := code % 8, angle := s.hallMid i (code % 8) } := by
    simp only [hallMiddle, hallShown, Tab.get_upd_same]
    rfl
  rw [middle] at own
  obtain ⟨b, own⟩ : ∃ b, t.pos.get i = { s.pos.get i with valid := true, bad := b, code := code % 8, angle := s.hallMid i (code % 8) } := by
    rcases own with own | own <;> exact ⟨_, own⟩
  refine ⟨valid, by rw [own], by rw [own], by rw [own], ?_, fun k other => ⟨?_, ?_⟩, ?_⟩
  · rw [edge]
    simp [hallMiddle]
  · rw [others k other]
    simp [hallMiddle, hallShown, Tab.get_upd, other]
  · rw [edge]
    simp [hallMiddle, hallShown, Tab.get_upd, other]
  · rw [edge]
    exact same

/-- The clause on an impossible code. -/
theorem hallImpossible_clause (s : State) (i : Ifc) (code heldCt tFt : Nat) (low : 6 ≤ i.val) (high : i.val < 10) (present : s.hasRec 0x40 i = true) (held : s.pu 0x40 i 12 ≤ heldCt)
    (impossible : code % 8 = 0 ∨ code % 8 = 7) :
    Answers (exec (.hallEdge i code heldCt tFt) s) fun t => active 0x2009 i.val t = true ∧ (t.pos.get i).errTotal = min ((s.pos.get i).errTotal + 1) 65535 ∧ (t.pos.get i).count = (s.pos.get i).count ∧
      ((t.pos.get i).valid = true ↔ (s.pos.get i).valid = true ∧ (t.pos.get i).errTimes.length ≤ s.pu 0x40 i 44) ∧ Grows s t ∧ t.beyond = { s with pos := t.pos }.beyond := by
  refine ⟨_, hallEdge_impossible tFt low high present held impossible, ?_⟩
  have raised := raise_active 0x2009 i.val 0 (hallShown i code s)
  have before : Grows s (raise 0x2009 i.val 0 (hallShown i code s)) := Grows.trans (t := hallShown i code s) (.of_eq rfl) (raise_grows _ _ _ _)
  have shown : (raise 0x2009 i.val 0 (hallShown i code s)).pos.get i = { s.pos.get i with code := code % 8 } := by
    rw [raise_pos]
    exact Tab.get_upd_same _ _ _
  have limit : (raise 0x2009 i.val 0 (hallShown i code s)).pu 0x40 i 44 = s.pu 0x40 i 44 := pu_cat (raise_cat _ _ _ _) _ _ _
  have rest : (raise 0x2009 i.val 0 (hallShown i code s)).beyond = (hallShown i code s).beyond := raise_beyond _ _ _ _
  obtain ⟨⟨v, b, l, own, window⟩, -, grows, frame⟩ := errStep_ok i 0x200A tFt (raise 0x2009 i.val 0 (hallShown i code s))
  rw [shown] at own window
  rw [limit] at window
  generalize errStep i 0x200A tFt (raise 0x2009 i.val 0 (hallShown i code s)) = t at own grows frame ⊢
  refine ⟨grows _ _ raised, by rw [own]; rfl, by rw [own], ?_, before.trans grows, ?_⟩
  · rw [own]
    exact window
  · exact frame.trans (congrArg (fun x : Beyond => { x with pos := t.pos }) rest)

/-- The clause on the first index of a traction Hall set. -/
theorem tractionIndex_clause (s : State) (i : Ifc) (heldCt : Nat) (low : 6 ≤ i.val) (high : i.val < 8) (present : s.hasRec 0x40 i = true) (held : s.pu 0x40 i 12 ≤ heldCt)
    (rising : (s.pos.get i).idxLvl = false) (watched : s.pu 0x40 i 60 ≠ 0) (first : (s.edge.get i).cref = none) :
    Answers (exec (.indexRisingEdge i true heldCt) s) fun t => (t.edge.get i).cref = some (s.pos.get i).count ∧ (t.pos.get i).idx = (s.pos.get i).count ∧ (t.pos.get i).idxNum = ((s.pos.get i).idxNum + 1) % 65536 ∧ (t.pos.get i).idxSeen = true ∧ (t.pos.get i).idxLvl = true ∧ (t.pos.get i).count = (s.pos.get i).count ∧
      (∀ k, k ≠ i → t.pos.get k = s.pos.get k ∧ t.edge.get k = s.edge.get k) ∧ SameButFaults { s with edge := t.edge, pos := t.pos } t := by
  refine ⟨_, indexEdge_traction low high present held rising watched, ?_⟩
  have event := indexEvent_first (6 * s.pu 0x40 i 0) (s := levelShown i true s) first
  generalize indexEvent i (6 * s.pu 0x40 i 0) (levelShown i true s) = u at event ⊢
  have same : SameButFaults u (indexGood i u) := indexGood_hall low (by simp [event])
  have pos : (indexGood i u).pos = u.pos := by rw [same]
  have edge : (indexGood i u).edge = u.edge := by rw [same]
  generalize indexGood i u = t at same pos edge ⊢
  beta_reduce
  rw [pos, edge]
  subst event
  refine ⟨?_, ?_, ?_, ?_, ?_, ?_, fun k other => ?others, same⟩
  case others => simp [levelShown, Tab.get_put, Tab.get_upd, other]
  all_goals simp [levelShown, wrapInc]

/-- The clause on the index of the park actuator, before it has a reference. -/
theorem parkIndex_clause (s : State) (i : Ifc) (heldCt : Nat) (park : i.val = 8) (present : s.hasRec 0x40 i = true) (held : s.pu 0x40 i 12 ≤ heldCt) (rising : (s.pos.get i).idxLvl = false)
    (first : (s.act.get .park).ref = none) :
    Answers (exec (.indexRisingEdge i true heldCt) s) fun t => (t.pos.get i).idx = (s.pos.get i).count ∧ (t.pos.get i).idxLvl = true ∧ (t.act.get .park).crossed = true ∧ (t.act.get .park).ref = some (if (s.edge.get i).dir < 0 then (s.pos.get i).count - s.pu 0x78 0 96 else (s.pos.get i).count) ∧
      (∀ k, k ≠ i → t.pos.get k = s.pos.get k) ∧ t.act.get .shift = s.act.get .shift ∧ t = { s with pos := t.pos, act := t.act } := by
  obtain rfl : i = 8 := Fin.ext park
  refine ⟨_, indexEdge_actuator (by decide) (by decide) present held rising, ?_⟩
  obtain ⟨only, crossed, ref, shift⟩ := actOnIndex_first_parts (s := indexLatched 8 (levelShown 8 true s)) first
  have pos : (actOnIndex 8 (indexLatched 8 (levelShown 8 true s))).pos = (indexLatched 8 (levelShown 8 true s)).pos := by rw [only]
  refine ⟨by rw [pos]; simp [indexLatched, levelShown], by rw [pos]; simp [indexLatched, levelShown], crossed, ref.trans ?_, fun k other => ?_, shift, by rw [pos]; exact only⟩
  · simp only [parkReference, indexLatched, levelShown, Tab.get_upd_same]
    rfl
  · rw [pos]
    simp [indexLatched, levelShown, Tab.get_upd, other]

/-- The clause on a level that falls. -/
theorem indexFall_clause (s : State) (i : Ifc) (heldCt : Nat) (low : 6 ≤ i.val) (high : i.val < 10) (present : s.hasRec 0x40 i = true) (held : s.pu 0x40 i 12 ≤ heldCt) :
    exec (.indexRisingEdge i false heldCt) s = .next { s with pos := s.pos.upd i (fun p => { p with idxLvl := false }) } :=
  (if_neg (edge_served low high present held)).trans (if_pos (.inl rfl))

/-- Settles O24, clause by clause: one edge and both together, a level too short, Hall codes, and the index inputs. -/
theorem edgeSensors : Obligations.EdgeSensors := by
  unfold Obligations.EdgeSensors
  exact ⟨abzStep_clause, abzBoth_clause, abzUnfiltered_clause, hallFirst_clause, hallImpossible_clause, tractionIndex_clause, parkIndex_clause, indexFall_clause⟩

end Sys2Proof.Machine
end

section
/-! SUPPORT. Changes of one gate channel that follow one another, and the latched flag of a detector: the output it turns off, its fault, and
what both leave (09_gate_drive.md, R251 to R255, R260). -/

namespace Sys2Proof

theorem Tab.upd_upd {κ α : Type} [DecidableEq κ] (t : Tab κ α) (k : κ) (f g : α → α) : (t.upd k f).upd k g = t.upd k (fun x => g (f x)) := by
  simp only [Tab.upd_eq, Tab.get_put_same, Tab.put_put]

end Sys2Proof

namespace Sys2Proof.Machine

/-! ## One channel -/

theorem updCh_self (s : State) (c : Chan) (f : GdChan → GdChan) : (s.updCh c f).gd.ch.get c = f (s.gd.ch.get c) := (updCh_gets s c c f).trans (if_pos rfl)
theorem updCh_updCh (s : State) (c : Chan) (f g : GdChan → GdChan) : (s.updCh c f).updCh c g = s.updCh c (fun x => g (f x)) :=
  congrArg (fun t => { s with gd := { s.gd with ch := t } }) (Tab.upd_upd _ _ _ _)
theorem updCh_congr {s : State} {c : Chan} {f g : GdChan → GdChan} (h : f (s.gd.ch.get c) = g (s.gd.ch.get c)) : s.updCh c f = s.updCh c g := by
  unfold State.updCh
  rw [Tab.upd_eq, h, ← Tab.upd_eq]

/-! ## A detector turns an output off and latches its flag -/

/-- `w` is `s` with an output of `c` that is not on: no flag of any channel and nothing but the gate drive has changed. -/
structure TurnedOff (c : Chan) (s w : State) : Prop where
  flags : w.gd.flags = s.gd.flags
  off : w.gd.offAt c
  only : w = { s with gd := w.gd }

theorem offSoftAt_turned (ns : Nat) (c : Chan) (s : State) : TurnedOff c s (offSoftAt ns c s) where
  flags := offSoftAt_flags ns c s
  off := by
    unfold offSoftAt
    split
    next => unfold Gd.offAt; rw [updCh_self]; exact nofun
    next isOff => exact isOff
  only := by unfold offSoftAt; split <;> rfl
theorem offSoft_turned (c : Chan) (s : State) : TurnedOff c s (offSoft c s) := offSoftAt_turned (s.onNs c) c s
theorem offSink_turned (c : Chan) (s : State) : TurnedOff c s (offSink c s) where
  flags := offSink_flags c s
  off := offSink_self c s
  only := offSink_only c s

namespace TurnedOff
variable {c : Chan} {s w : State} (off : TurnedOff c s w)
include off

theorem faults : w.faults = s.faults := by rw [off.only]
theorem beyond : w.beyond = s.beyond := by rw [off.only]; rfl
theorem timeNs : w.timeNs = s.timeNs := by rw [off.only]; rfl
/-- The flag `f` that a detector sets on an output it has turned off, `g` of the channel's flags, and its fault. -/
theorem latch {f g : GdChan → GdChan} (code : Nat) (sets : ∀ x n, ({ f x with last := n } : GdChan).flags = { g x.flags with last := n }) (stays : ∀ x : GdChan, (f x).out = x.out)
    (hf : code ≠ 0x680A := by decide) (hq : code ≠ 0x7002 := by decide) :
    (∀ d, ((raise code c.val 0 (stamp c (w.updCh c f))).gd.ch.get d).flags = if d = c then { g (s.gd.ch.get c).flags with last := s.timeNs % 2 ^ 32 } else (s.gd.ch.get d).flags) ∧
      ((raise code c.val 0 (stamp c (w.updCh c f))).gd.ch.get c).out ≠ .on ∧ active code c.val (raise code c.val 0 (stamp c (w.updCh c f))) = true ∧
      Grows s (raise code c.val 0 (stamp c (w.updCh c f))) ∧ (raise code c.val 0 (stamp c (w.updCh c f))).beyond = s.beyond := by
  obtain ⟨flags, raised, grows, frame⟩ := stamp_raise c code c.val 0 f w hf hq
  refine ⟨fun d => ?_, raise_offAt _ _ _ _ _ ?_, raised, Grows.trans (.of_eq off.faults) grows, frame.trans off.beyond⟩
  · rw [flags d, sets, Gd.flags_get off.flags, Gd.flags_get off.flags, off.timeNs]
  · exact updCh_offAt _ _ _ _ (fun _ h => h) (updCh_offAt _ _ _ _ (fun x h => by rwa [stays]) off.off)

end TurnedOff

end Sys2Proof.Machine
end

section
/-! The detectors of a gate channel: desaturation, the gate charge, readback, the links and the bootstrap. -/

namespace Sys2Proof.Machine

/-- The clause on desaturation. -/
theorem desaturation_clause (s : State) (c : Chan) (v : Q) (onNs ns : Nat) (present : s.chPresent c = true) (isolated : c.val < 29) (on : (s.gd.ch.get c).out = .on)
    (above : s.pf 0x10 c 28 < v) (filtered : s.pu 0x10 c 32 ≤ ns) (blanked : s.blankNs c + ns ≤ onNs) :
    Answers (exec (.desaturation c v onNs ns) s) fun t => (∀ d, (t.gd.ch.get d).flags = if d = c then { (s.gd.ch.get c).flags with desat := true, shorts := satInc 8 (s.gd.ch.get c).shorts, last := s.timeNs % 2 ^ 32 } else (s.gd.ch.get d).flags) ∧
      (t.gd.ch.get c).out ≠ .on ∧ active 0x2801 c.val t = true ∧ Grows s t ∧ t.beyond = s.beyond :=
  ⟨_, if_pos ⟨present, isolated, on, above, filtered, blanked⟩, (offSoftAt_turned onNs c s).latch 0x2801 (g := fun x => { x with desat := true, shorts := satInc 8 x.shorts }) (fun _ _ => rfl) fun _ => rfl⟩

/-- The check of a present isolated channel whose output is on. -/
theorem gateChargeShort_on {s : State} {c : Chan} (chOut : List (Nat × Q)) (present : s.chPresent c = true) (isolated : c.val < 29) (on : (s.gd.ch.get c).out = .on) :
    exec (.gateChargeShort c chOut) s = .next (gcCheck c chOut s) := if_neg <| by
  rintro (absent | nonIsolated | notOn)
  · simp [present] at absent
  · omega
  · exact notOn on

/-- Without a crossing in blanking the charge reads 0xFFF (R253). -/
theorem gcCheck_none {s : State} {c : Chan} {chOut : List (Nat × Q)} (none : gcCross s c chOut = none) : gcCheck c chOut s = s.updCh c (fun x => { x with qgc := 0xFFF }) := by
  unfold gcCheck
  rw [none]
/-- A charge that reaches GC_QMIN is recorded and latches nothing (R253). -/
theorem gcCheck_enough {s : State} {c : Chan} {chOut : List (Nat × Q)} {n : Nat} (cross : gcCross s c chOut = some n) (enough : s.pf 0x10 c 40 ≤ gateCharge s c n) :
    gcCheck c chOut s = s.updCh c (fun x => { x with qgc := min (roundN (gateCharge s c n * 1000000000)) 0xFFF }) := by
  unfold gcCheck
  rw [cross]
  exact if_neg (not_lt.2 enough)
/-- A charge below GC_QMIN is a short (R253). -/
theorem gcCheck_short {s : State} {c : Chan} {chOut : List (Nat × Q)} {n : Nat} (cross : gcCross s c chOut = some n) (short : gateCharge s c n < s.pf 0x10 c 40) :
    gcCheck c chOut s = raise 0x2802 c.val 0 (stamp c ((offSoftAt n c (s.updCh c (fun x => { x with qgc := min (roundN (gateCharge s c n * 1000000000)) 0xFFF }))).updCh c
      (fun x => { x with gc := true, shorts := satInc 8 x.shorts }))) := by
  unfold gcCheck
  rw [cross]
  exact if_pos short

/-- The clause on a charge below GC_QMIN. -/
theorem gateChargeShort_clause (s : State) (c : Chan) (chOut : List (Nat × Q)) (crossNs : Nat) (q : Q) (present : s.chPresent c = true) (isolated : c.val < 29) (on : (s.gd.ch.get c).out = .on)
    (cross : gcCross s c chOut = some crossNs) (charge : q = gateCharge s c crossNs) (short : q < s.pf 0x10 c 40) :
    Answers (exec (.gateChargeShort c chOut) s) fun t => (∀ d, (t.gd.ch.get d).flags = if d = c then { (s.gd.ch.get c).flags with gc := true, shorts := satInc 8 (s.gd.ch.get c).shorts, qgc := min (roundN (q * 1000000000)) 0xFFF, last := s.timeNs % 2 ^ 32 } else (s.gd.ch.get d).flags) ∧
      (t.gd.ch.get c).out ≠ .on ∧ active 0x2802 c.val t = true ∧ Grows s t ∧ t.beyond = s.beyond := by
  subst charge
  refine ⟨_, (gateChargeShort_on chOut present isolated on).trans (congrArg _ (gcCheck_short cross short)), ?_⟩
  have turned := offSoftAt_turned crossNs c (s.updCh c (fun x => { x with qgc := min (roundN (gateCharge s c crossNs * 1000000000)) 0xFFF }))
  obtain ⟨flags, rest⟩ := turned.latch (f := fun x => { x with gc := true, shorts := satInc 8 x.shorts }) 0x2802 (g := fun x => { x with gc := true, shorts := satInc 8 x.shorts }) (fun _ _ => rfl) fun _ => rfl
  refine ⟨fun d => (flags d).trans ?_, rest⟩
  split
  · rw [updCh_self]
    rfl
  next other => rw [updCh_other _ other]

/-- The clause on a turn-on without a crossing in blanking. -/
theorem gateChargeNone_clause (s : State) (c : Chan) (chOut : List (Nat × Q)) (present : s.chPresent c = true) (isolated : c.val < 29) (on : (s.gd.ch.get c).out = .on)
    (late : ∀ p ∈ chOut, s.pf 0x10 c 36 < p.2 → s.blankNs c < p.1) :
    exec (.gateChargeShort c chOut) s = .next (s.updCh c (fun x => { x with qgc := 0xFFF })) := by
  rw [gateChargeShort_on chOut present isolated on, gcCheck_none]
  have crossing : chOut.find? (fun p => decide (s.pf 0x10 c 36 < p.2) && decide (p.1 ≤ s.blankNs c)) = none := by
    rw [List.find?_eq_none]
    intro p m
    have := late p m
    simpa using this
  exact congrArg (Option.map _) crossing

/-- The clause on readback. -/
theorem readback_clause (s : State) (c : Chan) (rep : Bool) (h e : Nat) (present : s.chPresent c = true) (differs : rep ≠ (s.gd.ch.get c).cmd) (held : 500 < h) (settled : 500 < e) :
    Answers (exec (.readbackMismatch c rep h e) s) fun t => (∀ d, (t.gd.ch.get d).flags = if d = c then { (s.gd.ch.get c).flags with rb := true, last := s.timeNs % 2 ^ 32 } else (s.gd.ch.get d).flags) ∧
      (t.gd.ch.get c).out ≠ .on ∧ active 0x2806 c.val t = true ∧ Grows s t ∧ t.beyond = s.beyond :=
  ⟨_, if_pos ⟨present, differs, held, settled⟩, (offSink_turned c s).latch 0x2806 (g := fun x => { x with rb := true }) (fun _ _ => rfl) fun _ => rfl⟩

/-- The clause on status frames that fail to come. -/
theorem statusFrameLoss_clause (s : State) (c : Chan) (ns : Nat) (present : s.chPresent c = true) (isolated : c.val < 29) (late : 2000 ≤ ns) :
    Answers (exec (.statusFrameLoss c ns) s) fun t => (∀ d, (t.gd.ch.get d).flags = if d = c then { (s.gd.ch.get c).flags with link := true, last := s.timeNs % 2 ^ 32 } else (s.gd.ch.get d).flags) ∧
      (t.gd.ch.get c).out ≠ .on ∧ active 0x2807 c.val t = true ∧ Grows s t ∧ t.beyond = s.beyond :=
  ⟨_, if_pos ⟨present, isolated, late⟩, (offSoft_turned c s).latch 0x2807 (g := fun x => { x with link := true }) (fun _ _ => rfl) fun _ => rfl⟩

/-- The clause on a bootstrap that a refresh has not charged. -/
theorem bootstrapOff_clause (s : State) (c : Chan) (v : Q) (us : Nat) (present : s.chPresent c = true) (high : isHighSide c = true) (low : (s.gd.ch.get c).bstUv = true) (ended : s.inRefresh c = false)
    (below : v < s.pf 0x10 c 44) (waited : 10 ≤ us) :
    Answers (exec (.bootstrapOff c v us) s) fun t => (∀ d, (t.gd.ch.get d).flags = if d = c then { (s.gd.ch.get c).flags with hi := v, bstOff := true, last := s.timeNs % 2 ^ 32 } else (s.gd.ch.get d).flags) ∧
      (t.gd.ch.get c).out ≠ .on ∧ active 0x2808 c.val t = true ∧ Grows s t ∧ t.beyond = s.beyond :=
  ⟨_, if_pos ⟨present, high, low, ended, below, waited⟩, (offSink_turned c s).latch 0x2808 (g := fun x => { x with hi := v, bstOff := true }) (fun _ _ => rfl) fun _ => rfl⟩

/-- The clause on a secondary that loses its link. -/
theorem secondaryLinkLoss_clause (s : State) (c : Chan) (ns : Nat) (present : s.chPresent c = true) (isolated : c.val < 29) (late : 2000 ≤ ns) (on : (s.gd.ch.get c).out = .on) :
    exec (.secondaryLinkLoss c ns) s = .next ((offSoft c s).updCh c (fun x => { x with linkOk := false, needEdge := true })) ∧ ((offSoft c s).gd.ch.get c).out = .soft ∧ ((offSoft c s).gd.ch.get c).drive = softSeq s c := by
  have soft : (offSoft c s).gd.ch.get c = { s.gd.ch.get c with out := .soft, needEdge := (s.gd.ch.get c).cmd, drive := softSeq s c, softT := 0, acc := (s.gd.ch.get c).acc + s.offEnergy c (s.onNs c) } := by
    unfold offSoft offSoftAt
    rw [if_pos on, updCh_self]
  refine ⟨(if_pos ⟨present, isolated, late⟩).trans (congrArg _ (updCh_congr ?_)), by rw [soft], by rw [soft]⟩
  rw [soft]
  simp

/-- Settles O25, detector by detector: each latches its flag through the one lemma on a latched flag. -/
theorem gateShorts : Obligations.GateShorts := by
  unfold Obligations.GateShorts
  exact ⟨desaturation_clause, gateChargeShort_clause, gateChargeNone_clause, readback_clause, statusFrameLoss_clause, bootstrapOff_clause, secondaryLinkLoss_clause⟩

end Sys2Proof.Machine
end

section
/-! SUPPORT. The rails of a secondary, and the turn-on and turn-off edges of a channel case by case (09_gate_drive.md, R245, R247 to R249, R254,
R259, R261). -/

namespace Sys2Proof.Machine

/-! ## Rails (R245) -/

/-- VCC2 has been out of its window for 500 ns. -/
def vccOut (s : State) (c : Chan) (hi lo : Q) (ns : Nat) : Bool := decide (500 ≤ ns) && ((railFlags s c hi lo).1 || (railFlags s c hi lo).2.1)
/-- VEE2 has been out of its window for 500 ns. -/
def veeOut (s : State) (c : Chan) (hi lo : Q) (ns : Nat) : Bool := decide (500 ≤ ns) && ((railFlags s c hi lo).2.2.1 || (railFlags s c hi lo).2.2.2)

theorem vccOut_iff (s : State) (c : Chan) (hi lo : Q) (ns : Nat) :
    vccOut s c hi lo ns = true ↔ 500 ≤ ns ∧ (hi < 27 / 2 ∨ hi < s.pf 0x10 c 44 ∨ 26 < hi ∨ s.pf 0x10 c 48 < hi) := by
  simp [vccOut, railFlags, or_assoc]
theorem veeOut_iff (s : State) (c : Chan) (hi lo : Q) (ns : Nat) :
    veeOut s c hi lo ns = true ↔ 500 ≤ ns ∧ (1 / 2 < lo ∨ s.pf 0x10 c 56 < lo ∨ lo < -9 ∨ lo < s.pf 0x10 c 52) := by
  simp [veeOut, railFlags, or_assoc]

/-- The readings and the live flags of the rails that are out of their windows. -/
def railsRead (s : State) (c : Chan) (hi lo : Q) (vns ens : Nat) : State :=
  s.updCh c (fun x => { x with hi := hi, lo := lo, vccUv := x.vccUv || decide (500 ≤ vns ∧ (hi < 27 / 2 ∨ hi < s.pf 0x10 c 44)), vccOv := x.vccOv || decide (500 ≤ vns ∧ (26 < hi ∨ s.pf 0x10 c 48 < hi)),
                                veeUv := x.veeUv || decide (500 ≤ ens ∧ (1 / 2 < lo ∨ s.pf 0x10 c 56 < lo)), veeOv := x.veeOv || decide (500 ≤ ens ∧ (lo < -9 ∨ lo < s.pf 0x10 c 52)) })

/-- A fault that is raised where `b` holds. -/
def raiseIf (b : Bool) (code inst : Nat) (s : State) : State := if b then raise code inst 0 s else s

theorem raiseIf_active {b : Bool} (code inst : Nat) (s : State) (h : b = true) : active code inst (raiseIf b code inst s) = true := by
  unfold raiseIf
  rw [if_pos h]
  exact raise_active _ _ _ _
theorem raiseIf_false {b : Bool} (code inst : Nat) (s : State) (h : b = false) : raiseIf b code inst s = s := if_neg (by simp [h])
theorem raiseIf_grows (b : Bool) (code inst : Nat) (s : State) : Grows s (raiseIf b code inst s) := raise_ite_grows (.refl s)
theorem raiseIf_flags (b : Bool) (code inst : Nat) (s : State) : (raiseIf b code inst s).gd.flags = s.gd.flags := by
  unfold raiseIf
  split
  · exact raise_flags _ _ _ _
  · rfl
theorem raiseIf_offAt {b : Bool} {code inst : Nat} {s : State} {d : Chan} (off : s.gd.offAt d) : (raiseIf b code inst s).gd.offAt d := by
  unfold raiseIf
  split
  · exact raise_offAt _ _ _ _ _ off
  · exact off
theorem raiseIf_beyond (b : Bool) (code inst : Nat) (s : State) (hf : code ≠ 0x680A := by decide) (hq : code ≠ 0x7002 := by decide) : (raiseIf b code inst s).beyond = s.beyond := by
  unfold raiseIf
  split
  · exact raise_beyond _ _ _ _ hf hq
  · rfl

theorem railOutOfWindow_out {s : State} {c : Chan} {hi lo : Q} {vns ens : Nat} (present : s.chPresent c = true) (isolated : c.val < 29)
    (out : (vccOut s c hi lo vns || veeOut s c hi lo ens) = true) :
    exec (.railOutOfWindow c hi lo vns ens) s =
      .next (raiseIf (s.stageRuns (stageOf c) && veeOut s c hi lo ens) 0x2805 c.val (raiseIf (s.stageRuns (stageOf c) && vccOut s c hi lo vns) 0x2804 c.val (offSink c (railsRead s c hi lo vns ens)))) := by
  have flag (a u o : Bool) : ((a && (u || o)) && u) = (a && u) ∧ ((a && (u || o)) && o) = (a && o) := by revert a u o; decide
  have read : railsRead s c hi lo vns ens = s.updCh c (fun x =>
      { x with hi := hi, lo := lo, vccUv := x.vccUv || (vccOut s c hi lo vns && (railFlags s c hi lo).1), vccOv := x.vccOv || (vccOut s c hi lo vns && (railFlags s c hi lo).2.1),
               veeUv := x.veeUv || (veeOut s c hi lo ens && (railFlags s c hi lo).2.2.1), veeOv := x.veeOv || (veeOut s c hi lo ens && (railFlags s c hi lo).2.2.2) }) := by
    simp only [vccOut, veeOut, flag, railFlags, railsRead, Bool.decide_and]
  rw [read]
  exact if_pos ⟨present, isolated, out⟩

/-- VCC2 and VEE2 with every reading inside both sets. -/
theorem railFlags_inside {s : State} {c : Chan} {hi lo : Q} (vcc : 27 / 2 ≤ hi ∧ s.pf 0x10 c 44 ≤ hi ∧ hi ≤ 26 ∧ hi ≤ s.pf 0x10 c 48) (vee : lo ≤ 1 / 2 ∧ lo ≤ s.pf 0x10 c 56 ∧ -9 ≤ lo ∧ s.pf 0x10 c 52 ≤ lo) :
    railFlags s c hi lo = (false, false, false, false) := by
  simp only [railFlags, Prod.mk.injEq, decide_eq_false_iff_not, not_or, not_lt]
  exact ⟨⟨vcc.1, vcc.2.1⟩, vcc.2.2, ⟨vee.1, vee.2.1⟩, vee.2.2⟩

/-! ## What decides an edge -/

theorem updCh_onEnergy (s : State) (c d : Chan) (f : GdChan → GdChan) : (s.updCh c f).onEnergy d = s.onEnergy d := rfl
theorem updCh_offEnergy (s : State) (c d : Chan) (f : GdChan → GdChan) (ns : Nat) : (s.updCh c f).offEnergy d ns = s.offEnergy d ns := rfl
/-- What a change of a channel leaves of its own reads as before on every channel. -/
theorem updCh_part {α : Type} {f : GdChan → GdChan} (part : GdChan → α) (keeps : ∀ x, part (f x) = part x) (s : State) (c d : Chan) :
    part ((s.updCh c f).gd.ch.get d) = part (s.gd.ch.get d) := by
  rw [updCh_gets]
  split
  next same => rw [keeps, same]
  next => rfl
theorem updCh_inRefresh {f : GdChan → GdChan} (keeps : ∀ x, (f x).refr = x.refr) (s : State) (c d : Chan) : (s.updCh c f).inRefresh d = s.inRefresh d :=
  congrArg (fun r : Option Nat => decide (31 ≤ d.val) && r.isSome) (updCh_part GdChan.refr keeps s c _)
theorem updCh_legHeld {f : GdChan → GdChan} (keeps : ∀ x, (f x).hold = x.hold) (s : State) (c d : Chan) : (s.updCh c f).legHeld d = s.legHeld d :=
  congrArg (fun h : Nat => decide (31 ≤ d.val) && decide (0 < h)) (updCh_part GdChan.hold keeps s c _)
/-- A command alone changes nothing that R20 asks for. -/
theorem commanded_mayTurnOn (c : Chan) (s : State) : mayTurnOn (commanded c s) c = mayTurnOn s c := by
  have self : (commanded c s).gd.ch.get c = { s.gd.ch.get c with cmd := true, linkOk := true } := updCh_self _ _ _
  unfold mayTurnOn State.railsOk
  rw [self]
  rfl
theorem partner_ne : ∀ c : Chan, partner c ≠ some c := by decide

/-! ## Turn-on edges (R20, R247, R248, R261) -/

theorem commanded_legHeld (c d : Chan) (s : State) : (commanded c s).legHeld d = s.legHeld d := updCh_legHeld (f := fun x => { x with cmd := true, linkOk := true }) (fun _ => rfl) s c d
theorem commanded_inRefresh (c d : Chan) (s : State) : (commanded c s).inRefresh d = s.inRefresh d := updCh_inRefresh (f := fun x => { x with cmd := true, linkOk := true }) (fun _ => rfl) s c d

/-- An edge that R20, a soft turn-off or the leg's hold forbids waits for a new one. -/
theorem turnOn_forbidden {c : Chan} {s : State} (present : s.chPresent c = true) (notOn : (s.gd.ch.get c).out ≠ .on)
    (forbidden : (s.gd.ch.get c).out = .soft ∨ mayTurnOn s c = false ∨ s.legHeld c = true) : turnOn c s = s.updCh c (fun x => { x with cmd := true, linkOk := true, needEdge := true }) := by
  have cmd : s.updCh c (fun x => { x with cmd := true, linkOk := true }) = commanded c s := rfl
  unfold turnOn
  rw [if_neg (by rw [present]; decide)]
  dsimp only
  rw [cmd, if_neg notOn, if_pos (by rwa [commanded_mayTurnOn, commanded_legHeld]), ← cmd, updCh_updCh]

section allowed
variable {c : Chan} {s : State} (present : s.chPresent c = true) (off : (s.gd.ch.get c).out = .off) (may : mayTurnOn s c = true) (free : s.legHeld c = false)
include off may free

theorem edge_allowed : ¬((s.gd.ch.get c).out = .soft ∨ mayTurnOn s c = false ∨ s.legHeld c = true) := by simp [off, may, free]
include present

/-- An allowed edge at an output with no other side. -/
theorem turnOn_alone (alone : partner c = none) : turnOn c s = drvOn c (commanded c s) := by
  have cmd : s.updCh c (fun x => { x with cmd := true, linkOk := true }) = commanded c s := rfl
  unfold turnOn
  rw [if_neg (by rw [present]; decide)]
  dsimp only
  rw [cmd, if_neg (by rw [off]; decide), if_neg (by rw [commanded_mayTurnOn, commanded_legHeld]; exact edge_allowed off may free), alone]
/-- An allowed edge at a leg: its other side or its refresh decides. -/
theorem turnOn_leg {p : Chan} (leg : partner c = some p) :
    turnOn c s = if (s.gd.ch.get p).out = .on ∨ (s.gd.ch.get p).cmd = true then legOff c p (commanded c s)
      else if s.inRefresh c = true then s.updCh c (fun x => { x with cmd := true, linkOk := true, needEdge := false }) else drvOn c (commanded c s) := by
  have cmd : s.updCh c (fun x => { x with cmd := true, linkOk := true }) = commanded c s := rfl
  have other : (commanded c s).gd.ch.get p = s.gd.ch.get p := updCh_other _ fun same => partner_ne c (same ▸ leg)
  unfold turnOn
  rw [if_neg (by rw [present]; decide)]
  dsimp only
  rw [cmd, if_neg (by rw [off]; decide), if_neg (by rw [commanded_mayTurnOn, commanded_legHeld]; exact edge_allowed off may free), leg]
  dsimp only
  rw [other, commanded_inRefresh, ← cmd, updCh_updCh]

end allowed

/-- The output that an edge turns on. -/
theorem drvOn_commanded (c : Chan) (s : State) : drvOn c (commanded c s) =
    s.updCh c (fun x => { x with cmd := true, linkOk := true, out := .on, needEdge := false, clamp := false, drive := sourceSeq s c, acc := x.acc + s.onEnergy c, since := s.mer.ns }) := by
  unfold drvOn commanded
  rw [updCh_updCh, updCh_onEnergy]
  rfl

/-- A leg whose sides meet is off on both and held off for the dead time (R261). -/
theorem legOff_off (c p : Chan) (s : State) : (legOff c p s).gd.offAt c ∧ (legOff c p s).gd.offAt p ∧ ((legOff c p s).gd.ch.get (legHigh c)).hold = max (s.pu 0x20 (grpOf c) 16) (s.pu 0x20 (grpOf c) 20) := by
  have stays {d : Chan} (off : (offSink c (offSink p s)).gd.offAt d) : (legOff c p s).gd.offAt d := by
    unfold legOff
    exact updCh_offAt _ _ _ _ (fun _ h => h) (updCh_offAt _ _ _ _ (fun _ h => h) (updCh_offAt _ _ _ _ (fun _ h => h) off))
  have store : (offSink c (offSink p s)).cat = s.cat := by rw [offSink_only, offSink_only]
  refine ⟨stays (offSink_self _ _), stays (offSink_offAt _ _ _ (offSink_self _ _)), ?_⟩
  rw [← pu_cat store, ← pu_cat store]
  unfold legOff
  generalize offSink c (offSink p s) = u
  dsimp only
  rw [updCh_self]
  rfl

/-! ## Turn-off edges (R247, R254, R259, R298) -/

theorem nextHalf_updCh (c d : Chan) (f : GdChan → GdChan) (s : State) : nextHalf c (s.updCh d f) = (nextHalf c s).updCh d f := by
  unfold nextHalf
  split <;> rfl
theorem nextHalf_gd (c : Chan) (s : State) : (nextHalf c s).gd = s.gd := by
  unfold nextHalf
  split <;> rfl
theorem nextHalf_offEnergy (c d : Chan) (ns : Nat) (s : State) : (nextHalf c s).offEnergy d ns = s.offEnergy d ns := by
  unfold nextHalf
  split <;> rfl
theorem ended_inRefresh (c : Chan) (s : State) : (nextHalf c (s.updCh c (fun x => { x with cmd := false }))).inRefresh c = s.inRefresh c := by
  unfold State.inRefresh
  rw [nextHalf_gd]
  exact updCh_inRefresh (f := fun x => { x with cmd := false }) (fun _ => rfl) s c c
theorem nextHalf_cat (c : Chan) (s : State) : (nextHalf c s).cat = s.cat := by
  unfold nextHalf
  split <;> rfl

section turnOff
variable {s : State} {c : Chan} {ft : Int} {v : Q} {ns : Nat} (due : s.offEdgeDue c ft = true) (present : s.chPresent c = true)
include due present

theorem edge_taken : ¬(s.chPresent c = false ∨ s.offEdgeDue c ft = false) := by simp [due, present]

/-- Off, or in a refresh of its leg: the command ends and the output stays as it is. -/
theorem gateTurnOff_command (stays : (s.gd.ch.get c).out ≠ .on ∨ s.inRefresh c = true) :
    exec (.gateTurnOff c ft v ns) s = .next (nextHalf c (s.updCh c (fun x => { x with cmd := false }))) := by
  refine (if_neg (edge_taken due present)).trans ?_
  dsimp only
  rw [ended_inRefresh]
  exact if_pos stays
/-- On: the energy of the pulse joins the accumulator, and the drain sense decides between SINK and SOFT. -/
theorem gateTurnOff_on (on : (s.gd.ch.get c).out = .on) (still : s.inRefresh c = false) :
    exec (.gateTurnOff c ft v ns) s =
      if c.val < 29 ∧ s.blankNs c ≤ ns ∧ s.pf 0x10 c 28 < v then
        .next (raise 0x2809 c.val 0 (nextHalf c (s.updCh c (fun x => { x with cmd := false, out := .soft, drive := softSeq s c, softT := 0, race := satInc 8 x.race, acc := x.acc + s.offEnergy c ns }))))
      else .next (nextHalf c (s.updCh c (fun x => { x with cmd := false, out := .off, clamp := s.clampOn c, drive := sinkSeq s c, acc := x.acc + s.offEnergy c ns }))) := by
  have goes : ¬((s.gd.ch.get c).out ≠ .on ∨ s.inRefresh c = true) := by simp [on, still]
  have store (f : GdChan → GdChan) : ((nextHalf c s).updCh c f).cat = s.cat := nextHalf_cat c s
  refine (if_neg (edge_taken due present)).trans ?_
  dsimp only
  rw [ended_inRefresh, if_neg goes]
  simp only [nextHalf_updCh, updCh_updCh, updCh_offEnergy, nextHalf_offEnergy, State.blankNs, State.clampOn, softSeq, sinkSeq, pu_cat (store _), pf_cat (store _)]

end turnOff

/-- A fault of class F0 or F1 changes the collector alone. -/
theorem raise_unreacted (c i m : Nat) (s : State) (h : classOf (raiseBaseBy (c / 2048) c i m s) c i < 2) : SameButFaults s (raise c i m s) := by
  unfold raise
  rw [raiseBy_low _ _ _ _ _ h]
  exact raiseBaseBy_same _ _ _ _ _

/-! ## Permits (R249) -/

/-- The present channels of a domain that a missing permit turns off: all but those of a set in ASC. -/
def unpermitted (d : Fin 7) (s : State) : List Chan := (chansOf d).filter (fun c => s.chPresent c && !s.inAsc (stageOf c) && !((s.permit c).1 && (s.permit c).2))

theorem mem_unpermitted (d : Fin 7) (s : State) (c : Chan) : c ∈ unpermitted d s ↔ domOf c = d ∧ s.chPresent c = true ∧ s.inAsc (stageOf c) = false ∧ s.permit c ≠ (true, true) := by
  have both (p : Bool × Bool) : (p.1 && p.2) = false ↔ p ≠ (true, true) := by revert p; decide
  simp only [unpermitted, chansOf, allChans, List.mem_filter, List.mem_finRange, true_and, decide_eq_true_eq, Bool.and_eq_true, Bool.not_eq_true', both, and_assoc]

/-- A channel turns off with its permit, and a refresh of its leg ends. -/
def permitOff (s : State) (c : Chan) : State := (offSink c s).updCh c (fun x => { x with refr := none })

theorem permitOff_flags (s : State) (c : Chan) : (permitOff s c).gd.flags = s.gd.flags := by
  unfold permitOff
  rw [updCh_flags _ _ _ (by exact fun _ => rfl), offSink_flags]
theorem permitOff_faults (s : State) (c : Chan) : (permitOff s c).faults = s.faults := offSink_faults c s
theorem permitOff_beyond (s : State) (c : Chan) : (permitOff s c).beyond = s.beyond := by
  unfold permitOff
  rw [updCh_beyond', offSink_beyond]
theorem permitOff_offAt {s : State} {c d : Chan} (off : s.gd.offAt d) : (permitOff s c).gd.offAt d := by
  unfold permitOff
  exact updCh_offAt _ _ _ _ (fun _ h => h) (offSink_offAt c s d off)
theorem permitOff_self (s : State) (c : Chan) : (permitOff s c).gd.offAt c := by
  unfold permitOff
  exact updCh_offAt _ _ _ _ (fun _ h => h) (offSink_self c s)
theorem permitOffs_off {l : List Chan} {d : Chan} (m : d ∈ l) (s : State) : (l.foldl permitOff s).gd.offAt d := by
  induction l generalizing s with
  | nil => cases m
  | cons c l ih =>
    rcases List.mem_cons.1 m with rfl | m
    · exact offAt_foldl (fun _ _ => permitOff_offAt) l (permitOff_self s d)
    · exact ih m _

theorem permitRemoval_run {s : State} {d : Fin 7} {c : Chan} (m : c ∈ unpermitted d s) : exec (.permitRemovalTurnOff d) s = .next (domainReaction d ((unpermitted d s).foldl permitOff s)) :=
  if_neg (List.ne_nil_of_mem m)

end Sys2Proof.Machine
end

section
/-! The rails, the edges and the permits of the gate channels. -/

namespace Sys2Proof.Machine

/-- The clause on a rail out of its window. -/
theorem railOutOfWindow_clause (s : State) (c : Chan) (hi lo : Q) (vns ens : Nat) (present : s.chPresent c = true) (isolated : c.val < 29)
    (out : (500 ≤ vns ∧ (hi < 27 / 2 ∨ hi < s.pf 0x10 c 44 ∨ 26 < hi ∨ s.pf 0x10 c 48 < hi)) ∨ (500 ≤ ens ∧ (1 / 2 < lo ∨ s.pf 0x10 c 56 < lo ∨ lo < -9 ∨ lo < s.pf 0x10 c 52))) :
    Answers (exec (.railOutOfWindow c hi lo vns ens) s) fun t =>
      (∀ d, (t.gd.ch.get d).flags = if d = c then { (s.gd.ch.get c).flags with hi := hi, lo := lo, vccUv := (s.gd.ch.get c).vccUv || decide (500 ≤ vns ∧ (hi < 27 / 2 ∨ hi < s.pf 0x10 c 44)), vccOv := (s.gd.ch.get c).vccOv || decide (500 ≤ vns ∧ (26 < hi ∨ s.pf 0x10 c 48 < hi)), veeUv := (s.gd.ch.get c).veeUv || decide (500 ≤ ens ∧ (1 / 2 < lo ∨ s.pf 0x10 c 56 < lo)), veeOv := (s.gd.ch.get c).veeOv || decide (500 ≤ ens ∧ (lo < -9 ∨ lo < s.pf 0x10 c 52)) } else (s.gd.ch.get d).flags) ∧
      (t.gd.ch.get c).out ≠ .on ∧ (s.stageRuns (stageOf c) = true → 500 ≤ vns → (hi < 27 / 2 ∨ hi < s.pf 0x10 c 44 ∨ 26 < hi ∨ s.pf 0x10 c 48 < hi) → active 0x2804 c.val t = true) ∧
      (s.stageRuns (stageOf c) = true → 500 ≤ ens → (1 / 2 < lo ∨ s.pf 0x10 c 56 < lo ∨ lo < -9 ∨ lo < s.pf 0x10 c 52) → active 0x2805 c.val t = true) ∧
      (s.stageRuns (stageOf c) = false → t.faults = s.faults) ∧ Grows s t ∧ t.beyond = s.beyond := by
  have trips : (vccOut s c hi lo vns || veeOut s c hi lo ens) = true := by rwa [Bool.or_eq_true, vccOut_iff, veeOut_iff]
  have turned := offSink_turned c (railsRead s c hi lo vns ens)
  refine ⟨_, railOutOfWindow_out present isolated trips, fun d => ?_, raiseIf_offAt (raiseIf_offAt turned.off), fun runs held out => ?_, fun runs held out => ?_, fun stands => ?_, ?_, ?_⟩
  · rw [Gd.flags_get (raiseIf_flags _ _ _ _), Gd.flags_get (raiseIf_flags _ _ _ _), Gd.flags_get turned.flags, railsRead, updCh_gets]
    split <;> rfl
  · exact raiseIf_grows _ _ _ _ _ _ (raiseIf_active _ _ _ (by rw [runs, (vccOut_iff s c hi lo vns).2 ⟨held, out⟩]; rfl))
  · exact raiseIf_active _ _ _ (by rw [runs, (veeOut_iff s c hi lo ens).2 ⟨held, out⟩]; rfl)
  · rw [raiseIf_false _ _ _ (by rw [stands]; rfl), raiseIf_false _ _ _ (by rw [stands]; rfl)]
    exact turned.faults
  · exact Grows.trans (.of_eq turned.faults) ((raiseIf_grows _ _ _ _).trans (raiseIf_grows _ _ _ _))
  · exact (raiseIf_beyond _ _ _ _).trans ((raiseIf_beyond _ _ _ _).trans turned.beyond)

/-- The clause on rails inside both sets for 1 ms. -/
theorem railFlagClear_clause (s : State) (c : Chan) (hi lo : Q) (vus eus : Nat) (present : s.chPresent c = true) (isolated : c.val < 29) (vccHeld : 1000 ≤ vus) (veeHeld : 1000 ≤ eus)
    (vcc : 27 / 2 ≤ hi ∧ s.pf 0x10 c 44 ≤ hi ∧ hi ≤ 26 ∧ hi ≤ s.pf 0x10 c 48) (vee : lo ≤ 1 / 2 ∧ lo ≤ s.pf 0x10 c 56 ∧ -9 ≤ lo ∧ s.pf 0x10 c 52 ≤ lo) :
    Answers (exec (.railFlagClear c hi lo vus eus) s) fun t =>
      SameButFaults (s.updCh c (fun x => { x with hi := hi, lo := lo, vccUv := false, vccOv := false, veeUv := false, veeOv := false })) t ∧ active 0x2804 c.val t = false ∧ active 0x2805 c.val t = false := by
  have run : exec (.railFlagClear c hi lo vus eus) s = .next (clearF 0x2805 c.val (clearF 0x2804 c.val (s.updCh c (fun x => { x with hi := hi, lo := lo, vccUv := false, vccOv := false, veeUv := false, veeOv := false })))) := by
    have vccLong : decide (vus < 1000) = false := decide_eq_false (by omega)
    have veeLong : decide (eus < 1000) = false := decide_eq_false (by omega)
    refine (if_pos ⟨present, isolated⟩).trans ?_
    rw [railFlags_inside vcc vee, vccLong, veeLong]
    rfl
  refine ⟨_, run, (clearF_same _ _ _).trans (clearF_same _ _ _), ?_, clearF_inactive _ _ _ (by decide)⟩
  exact (clearF_other _ _ _ _ _ (by decide) (by omega)).trans (clearF_inactive _ _ _ (by decide))

/-- The clause on rails that have not been inside for 1 ms. -/
theorem railFlagEarly_clause (s : State) (c : Chan) (hi lo : Q) (vus eus : Nat) (present : s.chPresent c = true) (isolated : c.val < 29) (vccEarly : vus < 1000) (veeEarly : eus < 1000) :
    exec (.railFlagClear c hi lo vus eus) s = .next (s.updCh c (fun x => { x with hi := hi, lo := lo })) := by
  refine (if_pos ⟨present, isolated⟩).trans ?_
  rw [decide_eq_true vccEarly, decide_eq_true veeEarly, Bool.or_true, Bool.or_true]
  rfl

/-- The clause on an edge that the latched values do not place. -/
theorem turnOnUnplaced_clause (s : State) (c : Chan) (ft : Int) (unplaced : s.onEdgeDue c ft = false) : exec (.gateTurnOn c ft) s = .next s := if_neg (by simp [unplaced])

theorem gateTurnOn_due {s : State} {c : Chan} {ft : Int} (due : s.onEdgeDue c ft = true) : exec (.gateTurnOn c ft) s = .next (turnOn c s) := if_pos due

/-- The clause on an allowed edge. -/
theorem turnOnAllowed_clause (s : State) (c : Chan) (ft : Int) (due : s.onEdgeDue c ft = true) (present : s.chPresent c = true) (off : (s.gd.ch.get c).out = .off) (may : mayTurnOn s c = true)
    (free : s.legHeld c = false) (still : s.inRefresh c = false) (other : ∀ p, partner c = some p → (s.gd.ch.get p).out ≠ .on ∧ (s.gd.ch.get p).cmd = false) :
    exec (.gateTurnOn c ft) s = .next (s.updCh c (fun x => { x with cmd := true, linkOk := true, out := .on, needEdge := false, clamp := false, drive := sourceSeq s c, acc := x.acc + s.onEnergy c, since := s.mer.ns })) := by
  rw [gateTurnOn_due due, ← drvOn_commanded]
  cases leg : partner c with
  | none => rw [turnOn_alone present off may free leg]
  | some p =>
    obtain ⟨pOff, pCmd⟩ := other p leg
    rw [turnOn_leg present off may free leg, if_neg (by simp [pOff, pCmd]), if_neg (by simp [still])]

/-- The clause on a forbidden edge. -/
theorem turnOnForbidden_clause (s : State) (c : Chan) (ft : Int) (due : s.onEdgeDue c ft = true) (present : s.chPresent c = true) (notOn : (s.gd.ch.get c).out ≠ .on)
    (forbidden : (s.gd.ch.get c).out = .soft ∨ mayTurnOn s c = false ∨ s.legHeld c = true) :
    exec (.gateTurnOn c ft) s = .next (s.updCh c (fun x => { x with cmd := true, linkOk := true, needEdge := true })) :=
  (gateTurnOn_due due).trans (congrArg _ (turnOn_forbidden present notOn forbidden))

/-- The clause on an edge that meets the other side of its leg on or commanded on. -/
theorem turnOnMeets_clause (s : State) (c p : Chan) (ft : Int) (due : s.onEdgeDue c ft = true) (present : s.chPresent c = true) (off : (s.gd.ch.get c).out = .off) (may : mayTurnOn s c = true)
    (free : s.legHeld c = false) (leg : partner c = some p) (meets : (s.gd.ch.get p).out = .on ∨ (s.gd.ch.get p).cmd = true) :
    Answers (exec (.gateTurnOn c ft) s) fun t => (t.gd.ch.get c).out ≠ .on ∧ (t.gd.ch.get p).out ≠ .on ∧ (t.gd.ch.get (legHigh c)).hold = max (s.pu 0x20 (grpOf c) 16) (s.pu 0x20 (grpOf c) 20) ∧ t = { s with gd := t.gd } := by
  have edge : turnOn c s = legOff c p (commanded c s) := by rw [turnOn_leg present off may free leg, if_pos meets]
  obtain ⟨own, other, hold⟩ := legOff_off c p (commanded c s)
  exact ⟨_, (gateTurnOn_due due).trans (congrArg _ edge), own, other, hold, legOff_only c p (commanded c s)⟩

/-- The clause on an edge in a refresh of its leg. -/
theorem turnOnRefresh_clause (s : State) (c p : Chan) (ft : Int) (due : s.onEdgeDue c ft = true) (present : s.chPresent c = true) (off : (s.gd.ch.get c).out = .off) (may : mayTurnOn s c = true)
    (free : s.legHeld c = false) (refreshed : s.inRefresh c = true) (leg : partner c = some p) (pOff : (s.gd.ch.get p).out ≠ .on) (pCmd : (s.gd.ch.get p).cmd = false) :
    exec (.gateTurnOn c ft) s = .next (s.updCh c (fun x => { x with cmd := true, linkOk := true, needEdge := false })) := by
  rw [gateTurnOn_due due, turnOn_leg present off may free leg, if_neg (by simp [pOff, pCmd]), if_pos refreshed]

/-- The clause on a turn-off of an output that is not on, or whose leg is in a refresh. -/
theorem turnOffStays_clause (s : State) (c : Chan) (ft : Int) (v : Q) (ns : Nat) (due : s.offEdgeDue c ft = true) (present : s.chPresent c = true) (stays : (s.gd.ch.get c).out ≠ .on ∨ s.inRefresh c = true) :
    exec (.gateTurnOff c ft v ns) s = .next (nextHalf c (s.updCh c (fun x => { x with cmd := false }))) := gateTurnOff_command due present stays

/-- The clause on a turn-off with SINK. -/
theorem turnOffSink_clause (s : State) (c : Chan) (ft : Int) (v : Q) (ns : Nat) (due : s.offEdgeDue c ft = true) (present : s.chPresent c = true) (on : (s.gd.ch.get c).out = .on) (still : s.inRefresh c = false)
    (quiet : 29 ≤ c.val ∨ ns < s.blankNs c ∨ v ≤ s.pf 0x10 c 28) :
    exec (.gateTurnOff c ft v ns) s = .next (nextHalf c (s.updCh c (fun x => { x with cmd := false, out := .off, clamp := s.clampOn c, drive := sinkSeq s c, acc := x.acc + s.offEnergy c ns }))) := by
  refine (gateTurnOff_on due present on still).trans (if_neg ?_)
  rintro ⟨isolated, blanked, above⟩
  rcases quiet with nonIsolated | early | below
  · omega
  · omega
  · exact absurd above (not_lt.2 below)

/-- The clause on a turn-off that meets a drain sense above DESAT_V. -/
theorem turnOffRace_clause (s : State) (c : Chan) (ft : Int) (v : Q) (ns : Nat) (due : s.offEdgeDue c ft = true) (present : s.chPresent c = true) (isolated : c.val < 29) (on : (s.gd.ch.get c).out = .on)
    (blanked : s.blankNs c ≤ ns) (above : s.pf 0x10 c 28 < v) :
    Answers (exec (.gateTurnOff c ft v ns) s) fun t => (t.gd.ch.get c).out = .soft ∧ (t.gd.ch.get c).race = satInc 8 (s.gd.ch.get c).race ∧ (t.gd.ch.get c).desat = (s.gd.ch.get c).desat ∧ active 0x2809 c.val t = true ∧
      SameButFaults (nextHalf c (s.updCh c (fun x => { x with cmd := false, out := .soft, drive := softSeq s c, softT := 0, race := satInc 8 x.race, acc := x.acc + s.offEnergy c ns }))) t := by
  have still : s.inRefresh c = false := by simp only [State.inRefresh, decide_eq_false (show ¬31 ≤ c.val by omega), Bool.false_and]
  have same := raise_unreacted 0x2809 c.val 0 (nextHalf c (s.updCh c (fun x => { x with cmd := false, out := .soft, drive := softSeq s c, softT := 0, race := satInc 8 x.race, acc := x.acc + s.offEnergy c ns }))) Nat.zero_lt_two
  refine ⟨_, (gateTurnOff_on due present on still).trans (if_pos ⟨isolated, blanked, above⟩), ?_, ?_, ?_, raise_active _ _ _ _, same⟩
  all_goals rw [same, nextHalf_gd, updCh_self]

/-- The clause on a permit that is missing. -/
theorem permitRemoval_clause (s : State) (d : Fin 7) (c : Chan) (dom : domOf c = d) (present : s.chPresent c = true) (driven : s.inAsc (stageOf c) = false) (missing : s.permit c ≠ (true, true)) :
    Answers (exec (.permitRemovalTurnOff d) s) fun t => (∀ k, domOf k = d → s.chPresent k = true → s.inAsc (stageOf k) = false → s.permit k ≠ (true, true) → (t.gd.ch.get k).out ≠ .on) ∧ (∀ k, (s.gd.ch.get k).out ≠ .on → (t.gd.ch.get k).out ≠ .on) ∧ (∀ k, (t.gd.ch.get k).flags = (s.gd.ch.get k).flags) ∧ Grows s t ∧ t.beyond = s.beyond := by
  refine ⟨_, permitRemoval_run ((mem_unpermitted d s c).2 ⟨dom, present, driven, missing⟩), fun k dom present driven missing => ?_, fun k off => ?_, fun k => ?_, ?_, ?_⟩
  · exact domainReaction_offAt _ _ _ (permitOffs_off ((mem_unpermitted d s k).2 ⟨dom, present, driven, missing⟩) s)
  · exact domainReaction_offAt _ _ _ (offAt_foldl (fun _ _ => permitOff_offAt) _ off)
  · exact (Gd.flags_get (domainReaction_flags _ _) k).trans (Gd.flags_get (flags_foldl permitOff permitOff_flags _ s) k)
  · exact Grows.trans (.of_eq (faults_foldl permitOff permitOff_faults _ s)) (domainReaction_grows _ _)
  · exact (domainReaction_beyond _ _).trans (beyond_foldl permitOff permitOff_beyond _ s)

/-- Settles O26, clause by clause: the rails, the turn-on edges, the turn-off edges and the permits. -/
theorem gateEdges : Obligations.GateEdges := by
  unfold Obligations.GateEdges
  exact ⟨railOutOfWindow_clause, railFlagClear_clause, railFlagEarly_clause, turnOnUnplaced_clause, turnOnAllowed_clause, turnOnForbidden_clause, turnOnMeets_clause, turnOnRefresh_clause,
    turnOffStays_clause, turnOffSink_clause, turnOffRace_clause, permitRemoval_clause⟩

end Sys2Proof.Machine
end

section
/-! SUPPORT. The shorts of a stage, the refresh of a leg and the off-state tests (09_gate_drive.md, R256, R259, R260, R262). -/

namespace Sys2Proof.Machine

/-! ## The watch window (R256) -/

/-- The watch window of a stage stands as `w`. -/
def watched (g : Stage) (w : Option Chan) (s : State) : State := { s with gd := { s.gd with st := s.gd.st.upd g (fun y => { y with watch := w }) } }

theorem mem_stageChans (g : Stage) (d : Chan) : d ∈ stageChans g ↔ stageOf d = g := by simp [stageChans, allChans]
theorem short_reported {s : State} {c : Chan} (present : s.chPresent c = true) (short : (s.gd.ch.get c).desat = true ∨ (s.gd.ch.get c).gc = true) (driven : s.inAsc (stageOf c) = false) :
    ¬(s.chPresent c = false ∨ ((s.gd.ch.get c).desat || (s.gd.ch.get c).gc) = false ∨ s.inAsc (stageOf c) = true) := by
  rcases short with short | short <;> simp [present, short, driven]

/-- A stage that stops from `w`, where its window is shut and its outputs are off: they stay off, and of the gate drive only the window has changed. -/
theorem stopStage_shut {g : Stage} {s w : State} (off : ∀ d, stageOf d = g → w.gd.offAt d) (flags : w.gd.flags = (watched g none s).gd.flags) (grows : Grows s w) (frame : w.beyond = s.beyond) :
    (∀ d, stageOf d = g → ((stopStage g w).gd.ch.get d).out ≠ .on) ∧ (∀ d, ((stopStage g w).gd.ch.get d).flags = (s.gd.ch.get d).flags) ∧ ((stopStage g w).gd.st.get g).watch = none ∧
      Grows s (stopStage g w) ∧ (stopStage g w).beyond = s.beyond := by
  have kept : (stopStage g w).gd.flags = (watched g none s).gd.flags := (stopStage_flags g w).trans flags
  refine ⟨fun d m => stopStage_offAt g w d (off d m), fun d => Gd.flags_get kept d, ?_, grows.trans (stopStage_grows g w), (stopStage_beyond g w).trans frame⟩
  rw [gd_st kept]
  exact congrArg StageSt.watch (Tab.get_upd_same _ _ _)

/-! ## Refresh (R259) -/

/-- What the start of a refresh makes of its high side. -/
def refreshed (s : State) (c : Chan) (x : GdChan) : GdChan :=
  { x with out := if x.out = .on then .off else x.out, drive := if x.out = .on then sinkSeq s c else x.drive, acc := if x.out = .on then x.acc + s.offEnergy c (s.onNs c) else x.acc,
           refr := some 0, refresh := satInc 16 x.refresh }

theorem startRefresh_begins {s : State} {c : Chan} (still : s.inRefresh c = false) (free : s.legHeld c = false) : startRefresh c s = s.updCh c (refreshed s c) := by
  unfold startRefresh
  rw [if_neg (by simp [still, free])]
  dsimp only
  split
  next on =>
    rw [updCh_updCh]
    refine updCh_congr ?_
    simp only [refreshed, on, if_true]
  next off =>
    refine updCh_congr ?_
    simp only [refreshed, off, if_false]

/-! ## Off-state tests (R262) -/

section tests
variable {sink source vBus : Q}

theorem buckNode_pass (bus : 5 ≤ vBus) (sinks : absQ (sink - vBus) ≤ 1 / 2) (sources : absQ (source - vBus) ≤ 1 / 2) : buckNode sink source vBus = 0 := by
  unfold buckNode
  rw [if_neg (not_lt.2 bus), if_pos ⟨sinks, sources⟩]
theorem buckNode_untested (bus : vBus < 5) (sinks : sink < vBus + 2) : buckNode sink source vBus = 1 := by
  unfold buckNode
  rw [if_pos bus, if_neg (not_le.2 sinks)]
/-- A node within 0.5 V of the bus under both currents passes; any other that is neither near the supply nor, as a source, near ground is open. -/
theorem buckNode_fails (bus : 5 ≤ vBus) (fails : ¬(absQ (sink - vBus) ≤ 1 / 2 ∧ absQ (source - vBus) ≤ 1 / 2)) :
    buckNode sink source vBus = if vBus + 2 ≤ sink then 0x280B else if source ≤ 3 / 10 then 0x280A else 0x280C := by
  unfold buckNode
  rw [if_neg (not_lt.2 bus), if_neg fails]
theorem absQ_eq_abs (x : Q) : absQ x = |x| := by
  unfold absQ
  split
  next neg => exact (abs_of_neg neg).symm
  next pos => exact (abs_of_nonneg (not_lt.1 pos)).symm
theorem buckNode_supply (sinks : vBus + 2 ≤ sink) : buckNode sink source vBus = 0x280B := by
  rcases lt_or_ge vBus 5 with bus | bus
  · unfold buckNode
    rw [if_pos bus, if_pos sinks]
  · rw [buckNode_fails bus, if_pos sinks]
    rintro ⟨near, -⟩
    have := (abs_le.1 (absQ_eq_abs _ ▸ near)).2
    linarith
theorem buckNode_ground (bus : 5 ≤ vBus) (sinks : sink < vBus + 2) (sources : source ≤ 3 / 10) : buckNode sink source vBus = 0x280A := by
  rw [buckNode_fails bus, if_neg (not_le.2 sinks), if_pos sources]
  rintro ⟨-, near⟩
  have := (abs_le.1 (absQ_eq_abs _ ▸ near)).1
  linarith
theorem buckNode_open (bus : 5 ≤ vBus) (off : 1 / 2 < absQ (sink - vBus)) (sinks : sink < vBus + 2) (sources : 3 / 10 < source) : buckNode sink source vBus = 0x280C := by
  rw [buckNode_fails bus fun near => absurd near.1 (not_le.2 off), if_neg (not_le.2 sinks), if_neg (not_le.2 sources)]

end tests

/-- The result of a stage whose test current has been applied. -/
theorem setOsd_testCurrent (g : Stage) (r : Nat) (c : Chan) (s : State) : ((setOsd g r (testCurrent g c s)).gd.st.get g).osd = r := congrArg StageSt.osd (Tab.get_upd_same _ _ _)

/-- A test that fails: the result of the stage, the fault, and what both leave. -/
theorem testFailed_spec (g : Stage) (r code i : Nat) (c : Chan) (s : State) (hf : code ≠ 0x680A := by decide) (hq : code ≠ 0x7002 := by decide) :
    active code i (raise code i 0 (setOsd g r (testCurrent g c s))) = true ∧ ((raise code i 0 (setOsd g r (testCurrent g c s))).gd.st.get g).osd = r ∧
      (∀ d, ((raise code i 0 (setOsd g r (testCurrent g c s))).gd.ch.get d).out = .on → (s.gd.ch.get d).out = .on) ∧
      Grows s (raise code i 0 (setOsd g r (testCurrent g c s))) ∧ (raise code i 0 (setOsd g r (testCurrent g c s))).beyond = s.beyond := by
  have frame : (setOsd g r (testCurrent g c s)).beyond = s.beyond := rfl
  refine ⟨raise_active _ _ _ _, ?_, fun d on => ?_, Grows.trans (t := setOsd g r (testCurrent g c s)) (.of_eq rfl) (raise_grows _ _ _ _), (raise_beyond _ _ _ _ hf hq).trans frame⟩
  · rw [gd_st (raise_flags _ _ _ _), setOsd_testCurrent]
  · by_contra off
    exact raise_offAt code i 0 _ d (show (setOsd g r (testCurrent g c s)).gd.offAt d from off) on

/-- A buck phase with a test current whose outputs are off, read after 2 ms. -/
theorem buckTest_run {s : State} {n : Fin 6} {c : Chan} {us : Nat} {sink source vBus : Q} (high : c.val = 31 + 2 * n.val) (present : s.chPresent c = true) (current : s.pu 0x10 c 60 % 4 ≠ 0)
    (off : (s.gd.ch.get c).out = .off) (lowOff : (s.gd.ch.get (buckLow n)).out = .off) (settled : 2000 ≤ us) :
    exec (.offStateDiagnostics (.buck n) (.buck us sink source vBus)) s =
      if buckNode sink source vBus = 0 then .next (setOsd (.buck n) 1 (testCurrent (.buck n) c s))
      else if buckNode sink source vBus = 1 then .next (setOsd (.buck n) 3 (testCurrent (.buck n) c s))
      else .next (raise (buckNode sink source vBus) c.val 0 (setOsd (.buck n) 2 (testCurrent (.buck n) c s))) := by
  obtain rfl : c = ⟨(31 + 2 * n.val) % 55, Nat.mod_lt _ (by decide)⟩ := Fin.ext (by have := n.isLt; simp only; omega)
  refine if_neg ?_
  rintro (absent | noCurrent | on | lowOn | early)
  · simp [present] at absent
  · exact current noCurrent
  · exact on off
  · exact lowOn lowOff
  · omega

end Sys2Proof.Machine
end

section
/-! SUPPORT. The start test of a traction set, pulse by pulse (09_gate_drive.md, R253, R263). -/

namespace Sys2Proof.Machine

/-! ## What a pulse may do at all -/

theorem gcCheck_frame (c : Chan) (chOut : List (Nat × Q)) (s : State) : Grows s (gcCheck c chOut s) ∧ (gcCheck c chOut s).beyond = s.beyond := by
  cases cross : gcCross s c chOut with
  | none => rw [gcCheck_none cross]; exact ⟨.of_eq rfl, updCh_beyond' _ _ _⟩
  | some n =>
    rcases lt_or_ge (gateCharge s c n) (s.pf 0x10 c 40) with short | enough
    · rw [gcCheck_short cross short]
      have turned := offSoftAt_turned n c (s.updCh c (fun x => { x with qgc := min (roundN (gateCharge s c n * 1000000000)) 0xFFF }))
      obtain ⟨-, -, -, grows, frame⟩ := turned.latch (f := fun x => { x with gc := true, shorts := satInc 8 x.shorts }) 0x2802 (g := fun x => { x with gc := true, shorts := satInc 8 x.shorts }) (fun _ _ => rfl) fun _ => rfl
      exact ⟨Grows.trans (.of_eq (updCh_faults _ _ _)) grows, frame.trans (updCh_beyond' _ _ _)⟩
    · rw [gcCheck_enough cross enough]; exact ⟨.of_eq rfl, updCh_beyond' _ _ _⟩
theorem gcOn_frame (c : Chan) (chOut : List (Nat × Q)) (s : State) : Grows s (gcOn c chOut s) ∧ (gcOn c chOut s).beyond = s.beyond := by
  unfold gcOn
  split
  · exact gcCheck_frame c chOut s
  · exact ⟨.refl s, rfl⟩
theorem notePulse_frame (t : TSet) (quiet pulse : Option Q) (s : State) : Grows s (notePulse t quiet pulse s) ∧ (notePulse t quiet pulse s).beyond = s.beyond := by
  cases t <;> exact ⟨.of_eq rfl, rfl⟩
theorem testPulse_frame (p : Chan × List (Nat × Q)) (s : State) : Grows s (testPulse s p) ∧ (testPulse s p).beyond = s.beyond := by
  obtain ⟨grows, frame⟩ := gcOn_frame p.1 p.2 (turnOn p.1 s)
  exact ⟨Grows.trans (.of_eq (turnOn_faults _ _)) (grows.trans (.of_eq (turnOffAt_faults _ _ _))), (turnOffAt_beyond _ _ _).trans (frame.trans (turnOn_beyond _ _))⟩

/-! ## Steps 2 and 3 -/

/-- A low-side pulse: the pulse itself and QUIET. -/
def lowPulsed (t : TSet) (fs m : Q) (p : Chan × Q × List (Nat × Q)) (s : State) : State := notePulse t (some (divQ (maxQ m (absQ p.2.1)) fs)) none (testPulse s (p.1, p.2.2))

theorem lowPulsed_frame (t : TSet) (fs m : Q) (p : Chan × Q × List (Nat × Q)) (s : State) : Grows s (lowPulsed t fs m p s) ∧ (lowPulsed t fs m p s).beyond = s.beyond := by
  obtain ⟨pg, pf⟩ := testPulse_frame (p.1, p.2.2) s
  obtain ⟨ng, nf⟩ := notePulse_frame t (some (divQ (maxQ m (absQ p.2.1)) fs)) none (testPulse s (p.1, p.2.2))
  exact ⟨pg.trans ng, nf.trans pf⟩

section lows
variable {t : TSet} {fs m : Q} {p : Chan × Q × List (Nat × Q)} {rest : List (Chan × Q × List (Nat × Q))} {s : State}

theorem lowPulses_stop (fails : fs / 10 < absQ p.2.1 ∨ shortLatched t (lowPulsed t fs m p s) = true) :
    lowPulses t fs (p :: rest) m s = raise 0x280E p.1.val 0 (setOsd t.stage 2 (lowPulsed t fs m p s)) := if_pos fails
theorem lowPulses_next (passes : ¬(fs / 10 < absQ p.2.1 ∨ shortLatched t (lowPulsed t fs m p s) = true)) :
    lowPulses t fs (p :: rest) m s = lowPulses t fs rest (maxQ m (absQ p.2.1)) (lowPulsed t fs m p s) := if_neg passes

end lows

theorem lowPulses_frame (t : TSet) (fs : Q) (l : List (Chan × Q × List (Nat × Q))) (m : Q) (s : State) : Grows s (lowPulses t fs l m s) ∧ (lowPulses t fs l m s).beyond = s.beyond := by
  induction l generalizing m s with
  | nil => exact ⟨.refl s, rfl⟩
  | cons p rest ih =>
    obtain ⟨grows, frame⟩ := lowPulsed_frame t fs m p s
    by_cases fails : fs / 10 < absQ p.2.1 ∨ shortLatched t (lowPulsed t fs m p s) = true
    · rw [lowPulses_stop fails]
      exact ⟨grows.trans (Grows.trans (t := setOsd t.stage 2 (lowPulsed t fs m p s)) (.of_eq rfl) (raise_grows _ _ _ _)), (raise_beyond _ _ _ _).trans frame⟩
    · rw [lowPulses_next fails]
      obtain ⟨restGrows, restFrame⟩ := ih (maxQ m (absQ p.2.1)) (lowPulsed t fs m p s)
      exact ⟨grows.trans restGrows, restFrame.trans frame⟩
/-- A test that stops at a low-side pulse has failed, and 0x280E names that low side. -/
theorem lowPulses_stopped {t : TSet} {fs m : Q} {p : Chan × Q × List (Nat × Q)} {rest : List (Chan × Q × List (Nat × Q))} {s : State} (fails : fs / 10 < absQ p.2.1 ∨ shortLatched t (lowPulsed t fs m p s) = true) :
    ((lowPulses t fs (p :: rest) m s).gd.st.get t.stage).osd = 2 ∧ active 0x280E p.1.val (lowPulses t fs (p :: rest) m s) = true := by
  rw [lowPulses_stop fails]
  refine ⟨?_, raise_active _ _ _ _⟩
  rw [gd_st (raise_flags _ _ _ _)]
  exact congrArg StageSt.osd (Tab.get_upd_same _ _ _)
/-- One current above a tenth of full scale is enough: the test stops there or before. -/
theorem lowPulses_fails {t : TSet} {fs : Q} {l : List (Chan × Q × List (Nat × Q))} (fails : ∃ p ∈ l, fs / 10 < absQ p.2.1) (m : Q) (s : State) :
    ((lowPulses t fs l m s).gd.st.get t.stage).osd = 2 ∧ ∃ p ∈ l, active 0x280E p.1.val (lowPulses t fs l m s) = true := by
  induction l generalizing m s with
  | nil => obtain ⟨p, mem, -⟩ := fails; cases mem
  | cons q rest ih =>
    by_cases stops : fs / 10 < absQ q.2.1 ∨ shortLatched t (lowPulsed t fs m q s) = true
    · obtain ⟨osd, raised⟩ := lowPulses_stopped (rest := rest) stops
      exact ⟨osd, q, List.mem_cons_self, raised⟩
    · have later : ∃ p ∈ rest, fs / 10 < absQ p.2.1 := by
        obtain ⟨p, mem, above⟩ := fails
        rcases List.mem_cons.1 mem with rfl | mem
        · exact absurd (.inl above) stops
        · exact ⟨p, mem, above⟩
      rw [lowPulses_next stops]
      obtain ⟨osd, p, mem, raised⟩ := ih later (maxQ m (absQ q.2.1)) (lowPulsed t fs m q s)
      exact ⟨osd, p, List.mem_cons_of_mem q mem, raised⟩

/-! ## A test without a failure -/

/-- The channels of a set. -/
def setChans (t : TSet) : List Chan := t.lows ++ t.highs

theorem setChans_isolated : ∀ {t : TSet}, ∀ c ∈ setChans t, c.val < 31
  | .a => by decide
  | .b => by decide
/-- The charge of a turn-on of `c` that reads `chOut` does not fall short of GC_QMIN. -/
def Charged (s : State) (c : Chan) (chOut : List (Nat × Q)) : Prop := ∀ n, gcCross s c chOut = some n → s.pf 0x10 c 40 ≤ gateCharge s c n

/-- `u` is `s` in the midst of a start test of a set that has not failed: of its channels none but those of `on` has its output on, none has
latched a short, no other channel has changed, and nothing beyond the gate drive has. -/
structure InTest (t : TSet) (s : State) (on : List Chan) (u : State) : Prop where
  only : u = { s with gd := u.gd }
  others : ∀ c, c ∉ setChans t → u.gd.ch.get c = s.gd.ch.get c
  clean : ∀ c ∈ setChans t, (u.gd.ch.get c).desat = false ∧ (u.gd.ch.get c).gc = false
  off : ∀ c ∈ setChans t, c ∉ on → u.gd.offAt c
  fresh : (u.gd.st.get t.stage).osd = 0

namespace InTest
variable {t : TSet} {s u : State} {on : List Chan} (test : InTest t s on u)
include test

/-- A change of one channel of the set that latches no short, from an output that may be on to one that may. -/
theorem updCh {c : Chan} {f : GdChan → GdChan} {on' : List Chan} (m : c ∈ setChans t) (keeps : ∀ x, (f x).desat = x.desat ∧ (f x).gc = x.gc)
    (own : c ∉ on' → (f (u.gd.ch.get c)).out ≠ .on) (rest : ∀ d, d ≠ c → d ∉ on' → d ∉ on) : InTest t s on' (u.updCh c f) where
  only := gd_trans test.only (updCh_only u c f)
  others d n := (updCh_other f (fun same : d = c => n (same ▸ m))).trans (test.others d n)
  clean d mem := by
    obtain ⟨desat, gc⟩ := test.clean d mem
    exact ⟨(updCh_part GdChan.desat (fun x => (keeps x).1) u c d).trans desat, (updCh_part GdChan.gc (fun x => (keeps x).2) u c d).trans gc⟩
  off d mem n := by
    unfold Gd.offAt
    rw [updCh_gets]
    split
    next same => exact own (same ▸ n)
    next other => exact test.off d mem (rest d other n)
  fresh := test.fresh
theorem turnOn {c : Chan} (m : c ∈ setChans t) : InTest t s (c :: on) (turnOn c u) := by
  have alone : partner c = none := if_pos (setChans_isolated c m)
  have commands : InTest t s (c :: on) (commanded c u) := test.updCh m (fun _ => ⟨rfl, rfl⟩) (fun n => absurd List.mem_cons_self n) fun d _ n => fun k => n (List.mem_cons_of_mem c k)
  have again {f : GdChan → GdChan} (keeps : ∀ x, (f x).desat = x.desat ∧ (f x).gc = x.gc) : InTest t s (c :: on) ((commanded c u).updCh c f) :=
    commands.updCh m keeps (fun n => absurd List.mem_cons_self n) fun _ _ n => n
  cases present : u.chPresent c with
  | false =>
    rw [turnOn_absent present]
    exact { test with off := fun d mem n => test.off d mem fun k => n (List.mem_cons_of_mem c k) }
  | true =>
    rcases turnOn_cases c u present with e | ⟨b, e⟩ | ⟨p, leg, -⟩ | e
    · rw [e]; exact commands
    · rw [e]; exact again fun _ => ⟨rfl, rfl⟩
    · rw [alone] at leg; cases leg
    · rw [e]; exact again fun _ => ⟨rfl, rfl⟩
theorem gcOn {c : Chan} {chOut : List (Nat × Q)} (m : c ∈ setChans t) (charged : Charged s c chOut) : InTest t s on (gcOn c chOut u) := by
  have reads {f : GdChan → GdChan} (keeps : ∀ x, (f x).desat = x.desat ∧ (f x).gc = x.gc ∧ (f x).out = x.out) : InTest t s on (u.updCh c f) :=
    test.updCh m (fun x => ⟨(keeps x).1, (keeps x).2.1⟩) (fun n => by rw [(keeps _).2.2]; exact test.off c m n) fun _ _ n => n
  have cross (chOut : List (Nat × Q)) : gcCross u c chOut = gcCross s c chOut := by rw [test.only]; rfl
  unfold Machine.gcOn
  split
  · cases crossing : gcCross u c chOut with
    | none => rw [gcCheck_none crossing]; exact reads fun _ => ⟨rfl, rfl, rfl⟩
    | some n =>
      have enough : u.pf 0x10 c 40 ≤ gateCharge u c n := by
        have := charged n ((cross chOut).symm.trans crossing)
        rw [test.only]
        exact this
      rw [gcCheck_enough crossing enough]
      exact reads fun _ => ⟨rfl, rfl, rfl⟩
  · exact test
theorem turnOffAt {c : Chan} {on' : List Chan} (ns : Nat) (m : c ∈ setChans t) (rest : ∀ d ∈ on, d ≠ c → d ∈ on') : InTest t s on' (turnOffAt ns c u) := by
  have left : ∀ d, d ≠ c → d ∉ on' → d ∉ on := fun d other n k => n (rest d k other)
  unfold Machine.turnOffAt
  split
  next => exact test.updCh m (fun _ => ⟨rfl, rfl⟩) (fun _ => nofun) left
  next isOff => exact test.updCh m (fun _ => ⟨rfl, rfl⟩) (fun _ => isOff) left
theorem notePulse (quiet pulse : Option Q) : InTest t s on (notePulse t quiet pulse u) := by
  have only : Machine.notePulse t quiet pulse u = { u with gd := (Machine.notePulse t quiet pulse u).gd } := by cases t <;> rfl
  have ch : (Machine.notePulse t quiet pulse u).gd.ch = u.gd.ch := by cases t <;> rfl
  have st : (Machine.notePulse t quiet pulse u).gd.st = u.gd.st := by cases t <;> rfl
  exact { only := gd_trans test.only only, others := by rw [ch]; exact test.others, clean := by rw [ch]; exact test.clean, off := by unfold Gd.offAt; rw [ch]; exact test.off, fresh := by rw [st]; exact test.fresh }
theorem noShort : shortLatched t u = false := by
  unfold shortLatched
  rw [List.any_eq_false]
  intro c m
  obtain ⟨desat, gc⟩ := test.clean c m
  simp [desat, gc]

end InTest

/-- Low-side pulses without a current above a tenth of full scale, and with their charges, leave the test running. -/
theorem lowPulses_pass {t : TSet} {s : State} {fs : Q} {l : List (Chan × Q × List (Nat × Q))} (pass : ∀ p ∈ l, p.1 ∈ setChans t ∧ absQ p.2.1 ≤ fs / 10 ∧ Charged s p.1 p.2.2) (m : Q) {u : State} (test : InTest t s [] u) :
    InTest t s [] (lowPulses t fs l m u) := by
  induction l generalizing m u with
  | nil => exact test
  | cons p rest ih =>
    obtain ⟨mem, below, charged⟩ := pass p List.mem_cons_self
    have pulsed : InTest t s [] (lowPulsed t fs m p u) :=
      (((test.turnOn mem).gcOn mem charged).turnOffAt 200 mem fun d k other => absurd (List.mem_singleton.1 k) other).notePulse _ _
    have passes : ¬(fs / 10 < absQ p.2.1 ∨ shortLatched t (lowPulsed t fs m p u) = true) := by
      rintro (above | short)
      · exact absurd above (not_lt.2 below)
      · simp [pulsed.noShort] at short
    rw [lowPulses_next passes]
    exact ih (fun q k => pass q (List.mem_cons_of_mem p k)) _ pulsed

/-! ## Steps 4 and 5 -/

/-- PULSE after one more pulse on a high and a low side. -/
def leastPulse (m : Option Q) (x : Q) : Q := (m.map fun v => minQ v x).getD x
/-- A pulse on a high and a low side: the pulse itself and PULSE. -/
def pairPulsed (t : TSet) (fs : Q) (m : Option Q) (p : Chan × Chan × PairPulse) (s : State) : State :=
  notePulse t none (some (divQ (leastPulse m p.2.2.ix) fs)) (turnOffAt 200 p.1 (turnOffAt 200 p.2.1 (gcOn p.2.1 p.2.2.low (gcOn p.1 p.2.2.high (turnOn p.2.1 (turnOn p.1 s))))))

theorem pairPulses_next {t : TSet} {fs : Q} {m : Option Q} {p : Chan × Chan × PairPulse} {rest : List (Chan × Chan × PairPulse)} {s : State}
    (inside : pulseOk (pairPulsed t fs m p s) t p.2.1 (pairPulsed t fs m p s).dc.dclT p.2.2 = true) (clean : shortLatched t (pairPulsed t fs m p s) = false) :
    pairPulses t fs (p :: rest) m s = pairPulses t fs rest (some (leastPulse m p.2.2.ix)) (pairPulsed t fs m p s) := by
  cases m <;> exact (if_neg (fun out => absurd (inside.symm.trans out) (by decide))).trans (if_neg fun short => absurd (clean.symm.trans short) (by decide))

/-- Pulses inside their windows, with their charges, end the test with a pass. -/
theorem pairPulses_pass {t : TSet} {s : State} {fs : Q} {l : List (Chan × Chan × PairPulse)}
    (pass : ∀ p ∈ l, (p.1 ∈ setChans t ∧ p.2.1 ∈ setChans t) ∧ (Charged s p.1 p.2.2.high ∧ Charged s p.2.1 p.2.2.low) ∧ pulseOk s t p.2.1 s.dc.dclT p.2.2 = true) (m : Option Q) {u : State} (test : InTest t s [] u) :
    ∃ w, InTest t s [] w ∧ pairPulses t fs l m u = setOsd t.stage 1 w := by
  induction l generalizing m u with
  | nil => exact ⟨u, test, rfl⟩
  | cons p rest ih =>
    obtain ⟨⟨high, low⟩, ⟨highCharged, lowCharged⟩, inside⟩ := pass p List.mem_cons_self
    have on : InTest t s [p.2.1, p.1] (gcOn p.2.1 p.2.2.low (gcOn p.1 p.2.2.high (turnOn p.2.1 (turnOn p.1 u)))) := (((test.turnOn high).turnOn low).gcOn high highCharged).gcOn low lowCharged
    have off := (on.turnOffAt (on' := [p.1]) 200 low fun d k other => (List.mem_cons.1 k).resolve_left other).turnOffAt (on' := []) 200 high fun d k other => absurd (List.mem_singleton.1 k) other
    have pulsed : InTest t s [] (pairPulsed t fs m p u) := off.notePulse _ _
    have inside' : pulseOk (pairPulsed t fs m p u) t p.2.1 (pairPulsed t fs m p u).dc.dclT p.2.2 = true := by
      rw [pulsed.only]
      exact inside
    rw [pairPulses_next inside' pulsed.noShort]
    exact ih (fun q k => pass q (List.mem_cons_of_mem p k)) _ pulsed

end Sys2Proof.Machine
end

section
/-! SUPPORT. How the start test, the test of a bridge and the routine 0xF300 run (07_torque_management.md, R203; 09_gate_drive.md, R262 to R264). -/

namespace Sys2Proof.Machine

/-! ## Faults raised in turn -/

/-- The faults of a list are active after their raises, none other has ended, and of the gate drive no flag or result has changed. -/
theorem raiseAll_spec {α : Type} (code inst : α → Nat) (l : List α) (s : State) :
    Grows s (l.foldl (fun s a => raise (code a) (inst a) 0 s) s) ∧ (l.foldl (fun s a => raise (code a) (inst a) 0 s) s).gd.flags = s.gd.flags ∧
      ∀ a ∈ l, active (code a) (inst a) (l.foldl (fun s a => raise (code a) (inst a) 0 s) s) = true := by
  induction l generalizing s with
  | nil => exact ⟨.refl s, rfl, fun _ m => nomatch m⟩
  | cons b l ih =>
    obtain ⟨grows, flags, raised⟩ := ih (raise (code b) (inst b) 0 s)
    refine ⟨(raise_grows _ _ _ s).trans grows, flags.trans (raise_flags _ _ _ s), fun a m => ?_⟩
    rcases List.mem_cons.1 m with rfl | m
    · exact grows _ _ (raise_active _ _ _ s)
    · exact raised a m

/-! ## The lists of the start test (R263) -/

theorem toList_three {α : Type} (v : Vector α 3) : v.toList = (List.finRange 3).map fun k => v[k] := by
  apply List.ext_getElem <;> simp
theorem zip_three {α : Type} {l : List Chan} (three : l.length = 3) (f : Fin 3 → α) : List.zip l ((List.finRange 3).map f) = (List.finRange 3).map fun k => (l.getD k.val 0, f k) := by
  apply List.ext_getElem
  · simp [three]
  · intro n h k
    have short : n < l.length := by simpa [three] using k
    simp [List.getD_eq_getElem?_getD, short]
theorem lows_length (t : TSet) : t.lows.length = 3 := by cases t <;> rfl
theorem highs_length (t : TSet) : t.highs.length = 3 := by cases t <;> rfl
theorem low_mem (t : TSet) (k : Fin 3) : t.lows.getD k.val 0 ∈ t.lows := by revert k; cases t <;> decide
theorem high_mem (t : TSet) (k : Fin 3) : t.highs.getD k.val 0 ∈ t.highs := by revert k; cases t <;> decide


/-! ## The start test (R263) -/

/-- The phases of step 1 that read half of V_dc or more, each with its high side. -/
def halfPhases (s : State) (t : TSet) (r : StartTest) : List (Chan × Q) := (List.zip t.highs r.phases.toList).filter (fun p => decide (s.dc.dclT / 2 ≤ p.2))
/-- The low-side pulses of steps 2 and 3. -/
def lowTests (t : TSet) (r : StartTest) : List (Chan × Q × List (Nat × Q)) := List.zip t.lows r.low.toList
/-- The pulses of steps 4 and 5, each on a high side and the low side of the next leg. -/
def pairTests (t : TSet) (r : StartTest) : List (Chan × Chan × PairPulse) := List.zip t.highs (List.zip [t.lows.getD 1 0, t.lows.getD 2 0, t.lows.getD 0 0] r.pair.toList)

theorem mem_halfPhases (s : State) (t : TSet) (r : StartTest) (p : Chan × Q) : p ∈ halfPhases s t r ↔ ∃ k : Fin 3, s.dc.dclT / 2 ≤ r.phases[k] ∧ p = (t.highs.getD k.val 0, r.phases[k]) := by
  unfold halfPhases
  rw [toList_three, zip_three (highs_length t)]
  simp only [List.mem_filter, List.mem_map, List.mem_finRange, true_and, decide_eq_true_eq]
  constructor
  · rintro ⟨⟨k, rfl⟩, half⟩
    exact ⟨k, half, rfl⟩
  · rintro ⟨k, half, rfl⟩
    exact ⟨⟨k, rfl⟩, half⟩
theorem halfPhases_none {s : State} {t : TSet} {r : StartTest} (phases : ∀ k : Fin 3, r.phases[k] < s.dc.dclT / 2) : halfPhases s t r = [] := by
  refine List.eq_nil_iff_forall_not_mem.2 fun p m => ?_
  obtain ⟨k, half, -⟩ := (mem_halfPhases s t r p).1 m
  exact absurd half (not_le.2 (phases k))
theorem lowTests_eq (t : TSet) (r : StartTest) : lowTests t r = (List.finRange 3).map fun k => (t.lows.getD k.val 0, r.low[k]) := by
  unfold lowTests
  rw [toList_three, zip_three (lows_length t)]
theorem pairTests_eq (t : TSet) (r : StartTest) : pairTests t r = (List.finRange 3).map fun k => (t.highs.getD k.val 0, t.lows.getD ((k.val + 1) % 3) 0, r.pair[k]) := by
  have next : ∀ k : Fin 3, [t.lows.getD 1 0, t.lows.getD 2 0, t.lows.getD 0 0].getD k.val 0 = t.lows.getD ((k.val + 1) % 3) 0
    | 0 => rfl
    | 1 => rfl
    | 2 => rfl
  unfold pairTests
  rw [toList_three, zip_three rfl, zip_three (highs_length t)]
  simp only [next]

section startTest
variable {s : State} {t : TSet} {r : StartTest}
variable (enabled : s.ptEnabled t = true) (drive : s.sys.mode = .drive) (link : s.sys.dcInside = true) (permits : s.setPermit t = true) (stands : (s.pwm.get t.grp).running = false) (asked : s.startAsked t = true)
include enabled drive link permits stands asked

theorem startTest_taken : ¬(s.ptEnabled t = false ∨ s.sys.mode ≠ .drive ∨ s.sys.dcInside = false ∨ s.setPermit t = false ∨ (s.pwm.get t.grp).running = true ∨ s.startAsked t = false) := by
  simp only [enabled, drive, link, permits, stands, asked]
  decide
theorem startTest_moving (moves : s.pf 3 0 8 ≤ absQ (s.omegaM t)) : exec (.tractionStartTest t r) s = .next (setOsd t.stage 3 s) :=
  (if_neg (startTest_taken enabled drive link permits stands asked)).trans (if_pos moves)
theorem startTest_shorted (still : absQ (s.omegaM t) < s.pf 3 0 8) (shorted : halfPhases s t r ≠ []) :
    exec (.tractionStartTest t r) s = .next ((halfPhases s t r).foldl (fun s p => raise 0x280D p.1.val 0 s) (setOsd t.stage 2 s)) :=
  (if_neg (startTest_taken enabled drive link permits stands asked)).trans ((if_neg (not_le.2 still)).trans (if_pos shorted))
theorem startTest_low (still : absQ (s.omegaM t) < s.pf 3 0 8) (clear : halfPhases s t r = []) (fails : ((lowPulses t (iFsOf s t) (lowTests t r) 0 (setOsd t.stage 0 s)).gd.st.get t.stage).osd = 2) :
    exec (.tractionStartTest t r) s = .next (lowPulses t (iFsOf s t) (lowTests t r) 0 (setOsd t.stage 0 s)) :=
  (if_neg (startTest_taken enabled drive link permits stands asked)).trans ((if_neg (not_le.2 still)).trans ((if_neg (not_not_intro clear)).trans (if_pos fails)))
theorem startTest_pairs (still : absQ (s.omegaM t) < s.pf 3 0 8) (clear : halfPhases s t r = []) (passes : ((lowPulses t (iFsOf s t) (lowTests t r) 0 (setOsd t.stage 0 s)).gd.st.get t.stage).osd ≠ 2) :
    exec (.tractionStartTest t r) s = .next (pairPulses t (iFsOf s t) (pairTests t r) none (lowPulses t (iFsOf s t) (lowTests t r) 0 (setOsd t.stage 0 s))) :=
  (if_neg (startTest_taken enabled drive link permits stands asked)).trans ((if_neg (not_le.2 still)).trans ((if_neg (not_not_intro clear)).trans (if_neg passes)))

end startTest

/-! ## The test of a bridge (R262) -/

/-- The leg pairs whose sourcing leg has a test current. -/
def testedPairs (s : State) (a : Act) (uv vw wu : Q × Q) : List (Chan × Chan × (Q × Q)) :=
  [(chanAt a.base, chanAt (a.base + 2), uv), (chanAt (a.base + 2), chanAt (a.base + 4), vw), (chanAt (a.base + 4), chanAt a.base, wu)].filter (fun p => s.chPresent p.1 && decide (s.pu 0x10 p.1 60 % 4 ≠ 0))
/-- The tested pairs that fail. -/
def failedPairs (s : State) (a : Act) (uv vw wu : Q × Q) (vS : Q) : List (Chan × Chan × (Q × Q)) := (testedPairs s a uv vw wu).filter (fun p => decide (legPair vS p.2.2 ≠ 0))

theorem bridgeTest_run {s : State} {a : Act} {us : Nat} {uv vw wu : Q × Q} {vS : Q} (tested : testedPairs s a uv vw wu ≠ []) (stands : (s.pwm.get a.grp).running = false) (settled : 2000 ≤ us) :
    ∃ c, exec (.offStateDiagnostics a.stage (.bridge us uv vw wu vS)) s =
      .next (if failedPairs s a uv vw wu vS = [] then diagPassed a (setOsd a.stage 1 (testCurrent a.stage c s))
        else (failedPairs s a uv vw wu vS).foldl (fun s p => raise (legPair vS p.2.2) (failedLeg vS p.1 p.2.1 p.2.2 (legPair vS p.2.2)).val 0 s) (setOsd a.stage 2 (testCurrent a.stage c s))) := by
  have run : exec (.offStateDiagnostics a.stage (.bridge us uv vw wu vS)) s = .next (execOffStateDiagnostics.bridgeDiag a uv vw wu vS s) := by
    cases a <;> exact congrArg _ (if_neg (not_lt.2 settled))
  obtain ⟨p, rest, pairs⟩ := List.exists_cons_of_ne_nil tested
  refine ⟨p.1, run.trans (congrArg _ ?_)⟩
  unfold failedPairs
  rw [pairs]
  unfold testedPairs at pairs
  unfold execOffStateDiagnostics.bridgeDiag
  dsimp only
  rw [pairs]
  exact if_neg (by simp [stands])

theorem arrive_phase (a : Act) (s : State) : ((arrive a s).act.get a).phase =
    if (s.act.get a).phase = .moving ∧ (s.act.get a).ref.isSome = true ∧ within s a (actPos s a) (s.act.get a).target = true then .braking else (s.act.get a).phase := by
  unfold arrive brake
  dsimp only
  split
  next => rw [Tab.get_upd_same]
  next => rfl
/-- The sequence of a bridge moves on. -/
def movesOn (a : Act) (s : State) : State := { s with act := s.act.upd a (fun x => { x with phase := .moving }) }
/-- A bridge that passes: its sequence moves on, or brakes where it stands within POS_TOL of its target, and nothing beyond the actuators changes (R369). -/
theorem diagPassed_spec (a : Act) (s : State) :
    ((diagPassed a s).act.get a).phase = (if (s.act.get a).phase = .diag then (if (s.act.get a).ref.isSome = true ∧ within s a (actPos s a) (s.act.get a).target = true then .braking else .moving) else (s.act.get a).phase) ∧
      diagPassed a s = { s with act := (diagPassed a s).act } := by
  by_cases diag : (s.act.get a).phase = .diag
  · have passes : diagPassed a s = arrive a (movesOn a s) := if_pos diag
    have self : (movesOn a s).act.get a = { s.act.get a with phase := .moving } := Tab.get_upd_same _ _ _
    have pos : actPos (movesOn a s) a = actPos s a := by
      unfold actPos
      rw [self]
      rfl
    have near : within (movesOn a s) a (actPos s a) (s.act.get a).target = within s a (actPos s a) (s.act.get a).target := rfl
    rw [passes, arrive_phase, pos, self, near, if_pos diag]
    simp only [true_and]
    exact (arrive_parts a (movesOn a s)).1
  · have stays : diagPassed a s = s := if_neg diag
    rw [stays, if_neg diag]
    exact ⟨rfl, rfl⟩

/-! ## The routine 0xF300 (R203, R264) -/

/-- The routine's positive response. -/
def clearAnswer : List Byte := [0x71, 0x01, 0xF3, 0x00]

theorem clearLatched_run {s : State} {p : UPath} {c : Chan} (allowed : s.routineNrc p 0xF300 = 0) (present : s.chPresent c = true) (mode : s.sys.mode = .ready ∨ s.sys.mode = .convert ∨ s.sys.mode = .safe)
    (stands : s.stageRuns (stageOf c) = false) : exec (.clearLatchedFlags p c.val) s = .next (udsPos p clearAnswer (ascSides (ascSides (clearChan s c) .a) .b)) := by
  have one : (if c.val = 0xFF then allChans.filter s.chPresent else allChans.filter (fun k => k.val = c.val && s.chPresent k)) = [c] :=
    (if_neg (by have := c.isLt; omega)).trans (allChans_only c s.chPresent present)
  have access : ¬s.routineAllowed p 0xF300 = false := by simp [State.routineAllowed, allowed]
  have quiet : ¬(¬(s.sys.mode = .ready ∨ s.sys.mode = .convert ∨ s.sys.mode = .safe) ∨ [c].any (fun k => s.stageRuns (stageOf k)) = true) := by simp [mode, stands]
  show execClearLatchedFlags p c.val s = _
  unfold execClearLatchedFlags
  dsimp only
  rw [one, if_neg access, if_neg (List.cons_ne_nil c []), if_neg quiet]
  rfl

/-- The flags that the routine clears, and the result of the channel's stage. -/
def unlatched (c : Chan) (s : State) : State := setOsd (stageOf c) 0 (s.updCh c (fun x => { x with desat := false, gc := false, rb := false, link := false, bstOff := false }))

theorem clearChan_refused {s : State} {c : Chan} (shorts : 3 ≤ (s.gd.ch.get c).shorts) : clearChan s c = raise 0x2810 c.val 0 s := if_pos shorts
theorem clearChan_cleared {s : State} {c : Chan} (shorts : (s.gd.ch.get c).shorts < 3) : SameButFaults (unlatched c s) (clearChan s c) := (clearChan_ok s c shorts).1
theorem raise_limit_same (i : Nat) (s : State) : SameButFaults s (raise 0x2810 i 0 s) := raise_low_same _ _ _ _ (fun _ => show 1 < 3 by decide) (by decide)
/-- The routine on a channel changes the gate drive and the collector alone. -/
theorem clearChan_same (s : State) (c : Chan) : SameButFaults { s with gd := (clearChan s c).gd } (clearChan s c) := by
  rcases lt_or_ge (s.gd.ch.get c).shorts 3 with few | three
  · have same := clearChan_cleared few
    have gd : (clearChan s c).gd = (unlatched c s).gd := by rw [same]
    rw [gd]
    exact same
  · have same := raise_limit_same c.val s
    rw [clearChan_refused three]
    have gd : (raise 0x2810 c.val 0 s).gd = s.gd := by rw [same]
    rw [gd]
    exact same
/-- It makes no fault of another table active and ends none, but for 0x001A. -/
theorem clearChan_other {s : State} {c : Chan} {code : Nat} (i : Nat) (full : code ≠ 0x001A) (beyond : code < 0x2801 ∨ 0x2810 < code) : active code i (clearChan s c) = active code i s := by
  unfold clearChan
  dsimp only
  split
  · exact raise_low_other _ _ _ _ _ _ (fun _ => show 1 < 3 by decide) (by decide) full (by omega)
  · rw [clearAll_other _ _ _ _ _ full (by simp; omega), clearFs_other _ _ _ _ _ full (by simp; omega)]
    rfl
theorem clearChan_served (s : State) (c : Chan) (p : UPath) : (clearChan s c).udsServed p = s.udsServed p :=
  (clearChan_same s c).served (fun _ i h => clearChan_other i (by omega) (by omega)) p

theorem udsResp_cat {s u : State} (h : u.cat = s.cat) (p : UPath) : u.udsResp p = s.udsResp p := by
  simp only [State.udsResp, State.udsIds, pu_cat h, h]
/-- The answer of a routine whose channel leaves both sets where they are. -/
theorem clearAnswer_sent {s : State} {p : UPath} {c : Chan} (allowed : s.routineNrc p 0xF300 = 0) :
    udsPos p clearAnswer (clearChan s c) = { clearChan s c with out := .uds p (s.udsResp p) clearAnswer :: s.out } := by
  have same := clearChan_same s c
  rw [udsPos_eq ((clearChan_served s c p).trans (routine_served allowed)), udsResp_cat (s := s) (by rw [same])]
  have out : (clearChan s c).out = s.out := by rw [same]
  rw [out]
theorem udsPos_only (p : UPath) (b : List Byte) (s : State) : udsPos p b s = { s with out := (udsPos p b s).out } := by
  unfold udsPos
  split <;> rfl
theorem SameButFaults.out {s u : State} (h : SameButFaults s u) (o : List Emit) : SameButFaults { s with out := o } { u with out := o } := by
  unfold SameButFaults at h ⊢
  rw [h]

theorem ascSides_stays {s : State} {t : TSet} (side : (s.ss.get t).st ≠ 3) : ascSides s t = s := if_neg fun h => side h.1
/-- A set in ASC on its high sides goes back to low sides that carry no flag, or stays; its flags, the supply and the other set stay as they are (R203). -/
theorem ascSides_spec (s : State) (t : TSet) (bias : s.sup.biasA = true) :
    (ascSides s t).sup = s.sup ∧ (∀ cs, (ascSides s t).sideFlagged cs = s.sideFlagged cs) ∧ (∀ x, x ≠ t → (ascSides s t).ss.get x = s.ss.get x) ∧
      ((s.ss.get t).st = 3 → s.sideFlagged t.lows = false → ((ascSides s t).ss.get t).st = 2) := by
  by_cases back : (s.ss.get t).st = 3 ∧ s.sideFlagged t.lows = false
  · have low : ascSides s t = driveAsc t 2 s := (if_pos back).trans ((if_neg (by simp [bias])).trans (if_pos back.2))
    have parts := driveAsc_parts t 2 s
    rw [low]
    refine ⟨by rw [parts], driveAsc_flagged t 2 s, fun x other => ?_, fun _ _ => ?_⟩
    · rw [parts]
      exact Tab.get_upd_other _ _ _ _ other
    · rw [parts]
      exact congrArg SafeSet.st (Tab.get_upd_same _ _ _)
  · have stays : ascSides s t = s := if_neg back
    rw [stays]
    exact ⟨rfl, fun _ => rfl, fun _ _ => rfl, fun high clean => absurd ⟨high, clean⟩ back⟩

end Sys2Proof.Machine
end

section
/-! The shorts of a stage, the bootstraps, the diagnostics and the clearing of latched flags. -/

namespace Sys2Proof.Machine

/-- The clause on the first short of a stage. -/
theorem firstShort_clause (s : State) (c : Chan) (present : s.chPresent c = true) (short : (s.gd.ch.get c).desat = true ∨ (s.gd.ch.get c).gc = true) (driven : s.inAsc (stageOf c) = false)
    (shut : (s.gd.st.get (stageOf c)).watch = none) :
    exec (.shortReport c) s = .next { s with gd := { s.gd with st := s.gd.st.upd (stageOf c) (fun y => { y with watch := some c }) } } := by
  refine (if_neg (short_reported present short driven)).trans ?_
  rw [shut]

/-- The clause on a second channel's short in the window. -/
theorem secondShort_clause (s : State) (c k : Chan) (present : s.chPresent c = true) (short : (s.gd.ch.get c).desat = true ∨ (s.gd.ch.get c).gc = true) (driven : s.inAsc (stageOf c) = false)
    (opened : (s.gd.st.get (stageOf c)).watch = some k) (other : k ≠ c) :
    Answers (exec (.shortReport c) s) fun t => (∀ d, stageOf d = stageOf c → (t.gd.ch.get d).out ≠ .on) ∧ (∀ d, (t.gd.ch.get d).flags = (s.gd.ch.get d).flags) ∧ (t.gd.st.get (stageOf c)).watch = none ∧ active 0x2803 c.val t = true ∧ Grows s t ∧ t.beyond = s.beyond := by
  have run : exec (.shortReport c) s = .next (stopStage (stageOf c) (raise 0x2803 c.val 0
      ((stageChans (stageOf c)).foldl (fun s k => if (s.gd.ch.get k).out = .on then offSoft k s else s) (watched (stageOf c) none s)))) := by
    refine (if_neg (short_reported present short driven)).trans ?_
    rw [opened]
    exact if_neg other
  obtain ⟨flags, frame, faults⟩ := softAll_frame (stageChans (stageOf c)) (watched (stageOf c) none s)
  obtain ⟨off, own, window, grows, beyond⟩ := stopStage_shut (g := stageOf c) (s := s)
    (fun d m => raise_offAt 0x2803 c.val 0 _ d (softAll_off _ (watched (stageOf c) none s) d ((mem_stageChans _ d).2 m)))
    ((raise_flags _ _ _ _).trans flags) (grows_raise (faults.trans rfl)) ((raise_beyond _ _ _ _).trans (frame.trans rfl))
  exact ⟨_, run, off, own, window, stopStage_grows _ _ _ _ (raise_active _ _ _ _), grows, beyond⟩

/-- The clause on a window that ends. -/
theorem windowEnd_clause (s : State) (g : Stage) (k : Chan) (opened : (s.gd.st.get g).watch = some k) :
    Answers (exec (.watchWindowEnd g) s) fun t => (∀ d, stageOf d = g → (t.gd.ch.get d).out ≠ .on) ∧ (∀ d, (t.gd.ch.get d).flags = (s.gd.ch.get d).flags) ∧ (t.gd.st.get g).watch = none ∧ Grows s t ∧ t.beyond = s.beyond := by
  have run : exec (.watchWindowEnd g) s = .next (stopStage g ((stageChans g).foldl (fun s k => offSink k s) (watched g none s))) := by
    show execWatchWindowEnd g s = _
    unfold execWatchWindowEnd
    rw [opened]
    rfl
  refine ⟨_, run, stopStage_shut (fun d m => offSinks_off _ _ d ((mem_stageChans g d).2 m)) (flags_foldl _ (fun s c => offSink_flags c s) _ _) ?_ ?_⟩
  · exact .of_eq ((faults_foldl _ (fun s c => offSink_faults c s) _ _).trans rfl)
  · exact (beyond_foldl _ (fun s c => offSink_beyond c s) _ _).trans rfl

/-- The clause on a refresh that is due. -/
theorem refreshDue_clause (s : State) (c : Chan) (since pulse : Nat) (present : s.chPresent c = true) (high : isHighSide c = true) (runs : s.stageRuns (stageOf c) = true) (due : 50 ≤ since)
    (long : (s.gd.ch.get c).cmd = true → 50 ≤ pulse) (still : s.inRefresh c = false) (free : s.legHeld c = false) :
    exec (.bootstrapRefresh c since pulse) s = .next (s.updCh c (fun x => { x with out := if x.out = .on then .off else x.out, drive := if x.out = .on then sinkSeq s c else x.drive, acc := if x.out = .on then x.acc + s.offEnergy c (s.onNs c) else x.acc, refr := some 0, refresh := satInc 16 x.refresh })) :=
  (if_pos ⟨present, high, runs, due, long⟩).trans (congrArg _ (startRefresh_begins still free))

/-- The clause on a bootstrap undervoltage. -/
theorem undervoltage_clause (s : State) (c : Chan) (v : Q) (ns : Nat) (present : s.chPresent c = true) (high : isHighSide c = true) (below : v < s.pf 0x10 c 44) (held : 1000 ≤ ns)
    (on : (s.gd.ch.get c).cmd = true ∨ (s.gd.ch.get c).out = .on) (still : s.inRefresh c = false) (free : s.legHeld c = false) :
    exec (.bootstrapUndervoltage c v ns) s = .next (s.updCh c (fun x => { x with hi := v, bstUv := true, out := if x.out = .on then .off else x.out, drive := if x.out = .on then sinkSeq s c else x.drive, acc := if x.out = .on then x.acc + s.offEnergy c (s.onNs c) else x.acc, refr := some 0, refresh := satInc 16 x.refresh })) := by
  have begins := startRefresh_begins (s := s.updCh c (fun x => { x with hi := v, bstUv := true })) (c := c)
    ((updCh_inRefresh (f := fun x => { x with hi := v, bstUv := true }) (fun _ => rfl) s c c).trans still) ((updCh_legHeld (f := fun x => { x with hi := v, bstUv := true }) (fun _ => rfl) s c c).trans free)
  have time : (s.updCh c (fun x => { x with hi := v, bstUv := true })).onNs c = s.onNs c := congrArg (s.mer.ns - ·) (updCh_part (f := fun x => { x with hi := v, bstUv := true }) GdChan.since (fun _ => rfl) s c c)
  refine (if_pos ⟨present, high, below, held, on⟩).trans (congrArg _ (begins.trans ?_))
  rw [updCh_updCh]
  unfold refreshed
  rw [updCh_offEnergy, time]
  rfl

/-- The clause on a bootstrap that has recovered. -/
theorem uvClear_clause (s : State) (c : Chan) (v : Q) (us : Nat) (present : s.chPresent c = true) (high : isHighSide c = true) (above : s.pf 0x10 c 44 + 1 / 2 < v) (held : 1000 ≤ us) :
    exec (.bootstrapUvClear c v us) s = .next (s.updCh c (fun x => { x with hi := v, bstUv := false })) := if_pos ⟨present, high, above, held⟩

/-- The clause on the switch node of a buck phase. -/
theorem buckTest_clause (s : State) (n : Fin 6) (c : Chan) (us : Nat) (sink source vBus : Q) (high : c.val = 31 + 2 * n.val) (present : s.chPresent c = true) (current : s.pu 0x10 c 60 % 4 ≠ 0)
    (off : (s.gd.ch.get c).out = .off) (lowOff : (s.gd.ch.get (buckLow n)).out = .off) (settled : 2000 ≤ us) :
    (5 ≤ vBus → absQ (sink - vBus) ≤ 1 / 2 → absQ (source - vBus) ≤ 1 / 2 → exec (.offStateDiagnostics (.buck n) (.buck us sink source vBus)) s = .next (setOsd (.buck n) 1 (testCurrent (.buck n) c s))) ∧
      (vBus < 5 → sink < vBus + 2 → exec (.offStateDiagnostics (.buck n) (.buck us sink source vBus)) s = .next (setOsd (.buck n) 3 (testCurrent (.buck n) c s))) ∧
      (vBus + 2 ≤ sink → Answers (exec (.offStateDiagnostics (.buck n) (.buck us sink source vBus)) s) fun t => active 0x280B c.val t = true ∧ (t.gd.st.get (.buck n)).osd = 2 ∧ (∀ d, (t.gd.ch.get d).out = .on → (s.gd.ch.get d).out = .on) ∧ Grows s t ∧ t.beyond = s.beyond) ∧
      (5 ≤ vBus → sink < vBus + 2 → source ≤ 3 / 10 → Answers (exec (.offStateDiagnostics (.buck n) (.buck us sink source vBus)) s) fun t => active 0x280A c.val t = true ∧ (t.gd.st.get (.buck n)).osd = 2 ∧ (∀ d, (t.gd.ch.get d).out = .on → (s.gd.ch.get d).out = .on) ∧ Grows s t ∧ t.beyond = s.beyond) ∧
      (5 ≤ vBus → 1 / 2 < absQ (sink - vBus) → sink < vBus + 2 → 3 / 10 < source → Answers (exec (.offStateDiagnostics (.buck n) (.buck us sink source vBus)) s) fun t => active 0x280C c.val t = true ∧ (t.gd.st.get (.buck n)).osd = 2 ∧ (∀ d, (t.gd.ch.get d).out = .on → (s.gd.ch.get d).out = .on) ∧ Grows s t ∧ t.beyond = s.beyond) := by
  have run := buckTest_run (sink := sink) (source := source) (vBus := vBus) high present current off lowOff settled
  refine ⟨fun bus sinks sources => ?_, fun bus sinks => ?_, fun sinks => ?_, fun bus sinks sources => ?_, fun bus far sinks sources => ?_⟩
  · rw [buckNode_pass bus sinks sources] at run
    exact run
  · rw [buckNode_untested bus sinks] at run
    exact run
  · rw [buckNode_supply sinks] at run
    exact ⟨_, run, testFailed_spec (.buck n) 2 0x280B c.val c s⟩
  · rw [buckNode_ground bus sinks sources] at run
    exact ⟨_, run, testFailed_spec (.buck n) 2 0x280A c.val c s⟩
  · rw [buckNode_open bus far sinks sources] at run
    exact ⟨_, run, testFailed_spec (.buck n) 2 0x280C c.val c s⟩

section startTest
variable (s : State) (t : TSet) (r : StartTest)
variable (enabled : s.ptEnabled t = true) (drive : s.sys.mode = .drive) (link : s.sys.dcInside = true) (permits : s.setPermit t = true) (stands : (s.pwm.get t.grp).running = false) (asked : s.startAsked t = true)
variable (still : absQ (s.omegaM t) < s.pf 3 0 8)
include enabled drive link permits stands asked still

/-- Step 1 of the start test: every phase that reads half of V_dc raises 0x280D for its high side. -/
theorem startTest_step1 (half : ∃ k : Fin 3, s.dc.dclT / 2 ≤ r.phases[k]) :
    Answers (exec (.tractionStartTest t r) s) fun u => (u.gd.st.get t.stage).osd = 2 ∧ (∀ k : Fin 3, s.dc.dclT / 2 ≤ r.phases[k] → active 0x280D (t.highs.getD k.val 0).val u = true) ∧ Grows s u ∧ u.beyond = s.beyond := by
  have shorted : halfPhases s t r ≠ [] := by
    obtain ⟨k, half⟩ := half
    exact List.ne_nil_of_mem ((mem_halfPhases s t r _).2 ⟨k, half, rfl⟩)
  obtain ⟨grows, flags, raised⟩ := raiseAll_spec (fun _ => 0x280D) (fun p : Chan × Q => p.1.val) (halfPhases s t r) (setOsd t.stage 2 s)
  refine ⟨_, startTest_shorted enabled drive link permits stands asked still shorted, ?_, fun k half => raised _ ((mem_halfPhases s t r _).2 ⟨k, half, rfl⟩), Grows.trans (t := setOsd t.stage 2 s) (.of_eq rfl) grows, ?_⟩
  · rw [gd_st flags]
    exact congrArg StageSt.osd (Tab.get_upd_same _ _ _)
  · exact beyond_foldl _ (fun _ _ => raise_beyond _ _ _ _) _ (setOsd t.stage 2 s)

variable (phases : ∀ k : Fin 3, r.phases[k] < s.dc.dclT / 2)
include phases

/-- Steps 2 and 3: a current above a tenth of full scale raises 0x280E for a low side, the first pulse's for its own. -/
theorem startTest_steps23 (above : ∃ k : Fin 3, iFsOf s t / 10 < absQ r.low[k].1) :
    Answers (exec (.tractionStartTest t r) s) fun u => (u.gd.st.get t.stage).osd = 2 ∧ (∃ c ∈ t.lows, active 0x280E c.val u = true) ∧ (iFsOf s t / 10 < absQ r.low[0].1 → active 0x280E (t.lows.getD 0 0).val u = true) ∧ Grows s u ∧ u.beyond = s.beyond := by
  have fails : ∃ p ∈ lowTests t r, iFsOf s t / 10 < absQ p.2.1 := by
    obtain ⟨k, above⟩ := above
    exact ⟨(t.lows.getD k.val 0, r.low[k]), by rw [lowTests_eq]; exact List.mem_map.2 ⟨k, List.mem_finRange k, rfl⟩, above⟩
  obtain ⟨osd, p, mem, raised⟩ := lowPulses_fails fails 0 (setOsd t.stage 0 s)
  obtain ⟨grows, frame⟩ := lowPulses_frame t (iFsOf s t) (lowTests t r) 0 (setOsd t.stage 0 s)
  have run := startTest_low enabled drive link permits stands asked still (halfPhases_none phases) osd
  refine ⟨_, run, osd, ⟨p.1, ?_, raised⟩, fun first => ?_, Grows.trans (t := setOsd t.stage 0 s) (.of_eq rfl) grows, frame⟩
  · rw [lowTests_eq] at mem
    obtain ⟨k, -, rfl⟩ := List.mem_map.1 mem
    exact low_mem t k
  · have head : lowTests t r = (t.lows.getD 0 0, r.low[0]) :: [(t.lows.getD 1 0, r.low[1]), (t.lows.getD 2 0, r.low[2])] := lowTests_eq t r
    rw [head]
    exact (lowPulses_stopped (p := (t.lows.getD 0 0, r.low[0])) (.inl first)).2

/-- A test without a failure: the set reads passed, its outputs are off, and no other channel has changed. -/
theorem startTest_passes (below : ∀ k : Fin 3, absQ r.low[k].1 ≤ iFsOf s t / 10)
    (ready : ∀ c, c ∈ t.lows ++ t.highs → (s.gd.ch.get c).desat = false ∧ (s.gd.ch.get c).gc = false ∧ (s.gd.ch.get c).out ≠ .on)
    (charged : ∀ c, c ∈ t.lows ++ t.highs → ∀ ch, (∃ k : Fin 3, ch = r.low[k].2 ∨ ch = r.pair[k].high ∨ ch = r.pair[k].low) → ∀ n, gcCross s c ch = some n → s.pf 0x10 c 40 ≤ gateCharge s c n)
    (inside : ∀ k : Fin 3, pulseOk s t (t.lows.getD ((k.val + 1) % 3) 0) s.dc.dclT r.pair[k] = true) :
    Answers (exec (.tractionStartTest t r) s) fun u => (u.gd.st.get t.stage).osd = 1 ∧ (∀ c, c ∈ t.lows ++ t.highs → (u.gd.ch.get c).out ≠ .on) ∧ (∀ c, c ∉ t.lows ++ t.highs → u.gd.ch.get c = s.gd.ch.get c) ∧ u = { s with gd := u.gd } := by
  have lowIn (k : Fin 3) : t.lows.getD k.val 0 ∈ setChans t := List.mem_append_left _ (low_mem t k)
  have highIn (k : Fin 3) : t.highs.getD k.val 0 ∈ setChans t := List.mem_append_right _ (high_mem t k)
  have start : InTest t s [] (setOsd t.stage 0 s) :=
    { only := rfl, others := fun _ _ => rfl, clean := fun c m => ⟨(ready c m).1, (ready c m).2.1⟩, off := fun c m _ => (ready c m).2.2, fresh := congrArg StageSt.osd (Tab.get_upd_same _ _ _) }
  have lows : InTest t s [] (lowPulses t (iFsOf s t) (lowTests t r) 0 (setOsd t.stage 0 s)) := by
    refine lowPulses_pass (fun p m => ?_) 0 start
    rw [lowTests_eq] at m
    obtain ⟨k, -, rfl⟩ := List.mem_map.1 m
    exact ⟨lowIn k, below k, charged _ (lowIn k) _ ⟨k, .inl rfl⟩⟩
  obtain ⟨u, test, passed⟩ := pairPulses_pass (fs := iFsOf s t) (l := pairTests t r) (fun p m => by
    rw [pairTests_eq] at m
    obtain ⟨k, -, rfl⟩ := List.mem_map.1 m
    have low : t.lows.getD ((k.val + 1) % 3) 0 ∈ setChans t := lowIn ⟨(k.val + 1) % 3, Nat.mod_lt _ (by decide)⟩
    exact ⟨⟨highIn k, low⟩, ⟨charged _ (highIn k) _ ⟨k, .inr (.inl rfl)⟩, charged _ low _ ⟨k, .inr (.inr rfl)⟩⟩, inside k⟩) none lows
  have run := startTest_pairs enabled drive link permits stands asked still (halfPhases_none phases) (by rw [lows.fresh]; decide)
  rw [passed] at run
  exact ⟨_, run, congrArg StageSt.osd (Tab.get_upd_same _ _ _), fun c m => test.off c m List.not_mem_nil, test.others, gd_trans test.only rfl⟩

end startTest

/-- The clause on the start test of a traction set. -/
theorem startTest_clause (s : State) (t : TSet) (r : StartTest) (enabled : s.ptEnabled t = true) (drive : s.sys.mode = .drive) (link : s.sys.dcInside = true) (permits : s.setPermit t = true)
    (stands : (s.pwm.get t.grp).running = false) (asked : s.startAsked t = true) :
    (s.pf 3 0 8 ≤ absQ (s.omegaM t) → exec (.tractionStartTest t r) s = .next (setOsd t.stage 3 s)) ∧
      (absQ (s.omegaM t) < s.pf 3 0 8 → (∃ k : Fin 3, s.dc.dclT / 2 ≤ r.phases[k]) → Answers (exec (.tractionStartTest t r) s) fun u => (u.gd.st.get t.stage).osd = 2 ∧ (∀ k : Fin 3, s.dc.dclT / 2 ≤ r.phases[k] → active 0x280D (t.highs.getD k.val 0).val u = true) ∧ Grows s u ∧ u.beyond = s.beyond) ∧
      (absQ (s.omegaM t) < s.pf 3 0 8 → (∀ k : Fin 3, r.phases[k] < s.dc.dclT / 2) → (∃ k : Fin 3, iFsOf s t / 10 < absQ r.low[k].1) → Answers (exec (.tractionStartTest t r) s) fun u => (u.gd.st.get t.stage).osd = 2 ∧ (∃ c ∈ t.lows, active 0x280E c.val u = true) ∧ (iFsOf s t / 10 < absQ r.low[0].1 → active 0x280E (t.lows.getD 0 0).val u = true) ∧ Grows s u ∧ u.beyond = s.beyond) ∧
      (absQ (s.omegaM t) < s.pf 3 0 8 → (∀ k : Fin 3, r.phases[k] < s.dc.dclT / 2) → (∀ k : Fin 3, absQ r.low[k].1 ≤ iFsOf s t / 10) → (∀ c, c ∈ t.lows ++ t.highs → (s.gd.ch.get c).desat = false ∧ (s.gd.ch.get c).gc = false ∧ (s.gd.ch.get c).out ≠ .on) →
        (∀ c, c ∈ t.lows ++ t.highs → ∀ ch, (∃ k : Fin 3, ch = r.low[k].2 ∨ ch = r.pair[k].high ∨ ch = r.pair[k].low) → ∀ n, gcCross s c ch = some n → s.pf 0x10 c 40 ≤ gateCharge s c n) →
        (∀ k : Fin 3, pulseOk s t (t.lows.getD ((k.val + 1) % 3) 0) s.dc.dclT r.pair[k] = true) →
        Answers (exec (.tractionStartTest t r) s) fun u => (u.gd.st.get t.stage).osd = 1 ∧ (∀ c, c ∈ t.lows ++ t.highs → (u.gd.ch.get c).out ≠ .on) ∧ (∀ c, c ∉ t.lows ++ t.highs → u.gd.ch.get c = s.gd.ch.get c) ∧ u = { s with gd := u.gd }) :=
  ⟨startTest_moving enabled drive link permits stands asked, startTest_step1 s t r enabled drive link permits stands asked, startTest_steps23 s t r enabled drive link permits stands asked, startTest_passes s t r enabled drive link permits stands asked⟩

/-- The clause on the routine, with no set in ASC on its high sides. -/
theorem clearFlags_clause (s : State) (p : UPath) (c : Chan) (allowed : s.routineNrc p 0xF300 = 0) (present : s.chPresent c = true) (mode : s.sys.mode = .ready ∨ s.sys.mode = .convert ∨ s.sys.mode = .safe)
    (stands : s.stageRuns (stageOf c) = false) (sides : ∀ x, (s.ss.get x).st ≠ 3) :
    ((s.gd.ch.get c).shorts < 3 → Answers (exec (.clearLatchedFlags p c.val) s) fun t => (t.gd.ch.get c).latched = false ∧ (t.gd.st.get (stageOf c)).osd = 0 ∧ (∀ d, d ≠ c → t.gd.ch.get d = s.gd.ch.get d) ∧
        (t.gd.ch.get c).shorts = (s.gd.ch.get c).shorts ∧ active 0x2801 c.val t = false ∧ t.out = .uds p (s.udsResp p) [0x71, 0x01, 0xF3, 0x00] :: s.out ∧ SameButFaults { s with gd := t.gd, out := t.out } t) ∧
      (3 ≤ (s.gd.ch.get c).shorts → Answers (exec (.clearLatchedFlags p c.val) s) fun t => active 0x2810 c.val t = true ∧ SameButFaults { s with out := .uds p (s.udsResp p) [0x71, 0x01, 0xF3, 0x00] :: s.out } t) := by
  have same := clearChan_same s c
  have ss : (clearChan s c).ss = s.ss := by rw [same]
  have stays (x : TSet) : ascSides (clearChan s c) x = clearChan s c := ascSides_stays (by rw [ss]; exact sides x)
  have run : exec (.clearLatchedFlags p c.val) s = .next { clearChan s c with out := .uds p (s.udsResp p) clearAnswer :: s.out } := by
    rw [clearLatched_run allowed present mode stands, stays .a, stays .b, clearAnswer_sent allowed]
  refine ⟨fun few => ?_, fun three => ?_⟩
  · have gd : (clearChan s c).gd = (unlatched c s).gd := by rw [clearChan_cleared few]
    have self : (clearChan s c).gd.ch.get c = { s.gd.ch.get c with desat := false, gc := false, rb := false, link := false, bstOff := false } := by
      rw [gd]
      exact updCh_self _ _ _
    refine ⟨_, run, ?_, ?_, fun d other => ?_, ?_, (clearChan_ok s c few).2, rfl, same.out _⟩
    · dsimp only
      rw [self]
      rfl
    · dsimp only
      rw [gd]
      exact congrArg StageSt.osd (Tab.get_upd_same _ _ _)
    · dsimp only
      rw [gd]
      exact updCh_other _ other
    · dsimp only
      rw [self]
  · refine ⟨_, run, ?_, ?_⟩
    · have raised := raise_active 0x2810 c.val 0 s
      rw [← clearChan_refused three] at raised
      exact raised
    · have refused := raise_limit_same c.val s
      rw [← clearChan_refused three] at refused
      exact refused.out _

/-- The clause on the routine, with a set in ASC on its high sides. -/
theorem clearFlagsAsc_clause (s : State) (p : UPath) (c : Chan) (x : TSet) (allowed : s.routineNrc p 0xF300 = 0) (present : s.chPresent c = true) (mode : s.sys.mode = .ready ∨ s.sys.mode = .convert ∨ s.sys.mode = .safe)
    (stands : s.stageRuns (stageOf c) = false) (few : (s.gd.ch.get c).shorts < 3) (high : (s.ss.get x).st = 3) (bias : s.sup.biasA = true) (low : c ∈ x.lows)
    (clean : ∀ d ∈ x.lows, (d ≠ c → (s.gd.ch.get d).latched = false) ∧ s.gd.hsFailed.contains d = false) :
    Answers (exec (.clearLatchedFlags p c.val) s) fun t => (t.gd.ch.get c).latched = false ∧ (t.ss.get x).st = 2 := by
  have same := clearChan_same s c
  have ss : (clearChan s c).ss = s.ss := by rw [same]
  have sup : (clearChan s c).sup = s.sup := by rw [same]
  have gd : (clearChan s c).gd = (unlatched c s).gd := by rw [clearChan_cleared few]
  have bare (cs : List Chan) (m : ∀ d ∈ cs, d ∈ x.lows) : (clearChan s c).sideFlagged cs = false := by
    refine List.any_eq_false.2 fun d k => ?_
    obtain ⟨latch, shaken⟩ := clean d (m d k)
    have latched : ((clearChan s c).gd.ch.get d).latched = false := by
      rw [gd]
      by_cases own : d = c
      · rw [own]
        exact congrArg GdChan.latched (updCh_self _ _ _)
      · exact (congrArg GdChan.latched (updCh_other _ own)).trans (latch own)
    have failed : (clearChan s c).gd.hsFailed.contains d = false := by
      rw [gd]
      exact shaken
    rw [latched, failed]
    decide
  obtain ⟨supA, flagsA, othersA, lowA⟩ := ascSides_spec (clearChan s c) .a (by rw [sup]; exact bias)
  obtain ⟨-, flagsB, othersB, lowB⟩ := ascSides_spec (ascSides (clearChan s c) .a) .b (by rw [supA, sup]; exact bias)
  refine ⟨_, clearLatched_run allowed present mode stands, ?_, ?_⟩
  · rw [udsPos_only]
    have own : (ascSides (ascSides (clearChan s c) .a) .b).sideFlagged [c] = false := (flagsB [c]).trans ((flagsA [c]).trans (bare [c] fun d k => List.mem_singleton.1 k ▸ low))
    simp only [State.sideFlagged, List.any_cons, List.any_nil, Bool.or_false, Bool.or_eq_false_iff] at own
    exact own.1
  · rw [udsPos_only]
    dsimp only
    cases x with
    | a =>
      rw [othersB .a (by decide)]
      exact lowA (by rw [ss]; exact high) (bare _ fun _ k => k)
    | b =>
      refine lowB ?_ ((flagsA _).trans (bare _ fun _ k => k))
      rw [othersA .b (by decide), ss]
      exact high

/-- The clause on the bridge of an actuator. -/
theorem bridgeTest_clause (s : State) (g : Stage) (a : Act) (us : Nat) (uv vw wu : Q × Q) (vS : Q) (tested : List (Chan × Chan × (Q × Q))) (stage : g = a.stage)
    (pairs : tested = [(chanAt a.base, chanAt (a.base + 2), uv), (chanAt (a.base + 2), chanAt (a.base + 4), vw), (chanAt (a.base + 4), chanAt a.base, wu)].filter (fun p => s.chPresent p.1 && decide (s.pu 0x10 p.1 60 % 4 ≠ 0)))
    (nonempty : tested ≠ []) (stands : (s.pwm.get a.grp).running = false) (settled : 2000 ≤ us) :
    ((∀ p ∈ tested, legPair vS p.2.2 = 0) → Answers (exec (.offStateDiagnostics g (.bridge us uv vw wu vS)) s) fun t => (t.gd.st.get g).osd = 1 ∧ (t.act.get a).phase = (if (s.act.get a).phase = .diag then (if (s.act.get a).ref.isSome = true ∧ within s a (actPos s a) (s.act.get a).target = true then .braking else .moving) else (s.act.get a).phase) ∧ t.gd.ch = s.gd.ch ∧ t = { s with gd := t.gd, act := t.act }) ∧
      (∀ p ∈ tested, legPair vS p.2.2 ≠ 0 → Answers (exec (.offStateDiagnostics g (.bridge us uv vw wu vS)) s) fun t => (t.gd.st.get g).osd = 2 ∧ active (legPair vS p.2.2) (failedLeg vS p.1 p.2.1 p.2.2 (legPair vS p.2.2)).val t = true ∧ Grows s t) := by
  subst stage
  obtain rfl : tested = testedPairs s a uv vw wu := pairs
  have failed (p : Chan × Chan × (Q × Q)) : p ∈ failedPairs s a uv vw wu vS ↔ p ∈ testedPairs s a uv vw wu ∧ legPair vS p.2.2 ≠ 0 := by simp only [failedPairs, List.mem_filter, decide_eq_true_eq]
  obtain ⟨c, run⟩ := bridgeTest_run (vS := vS) nonempty stands settled
  refine ⟨fun pass => ?_, fun p mem fails => ?_⟩
  · have clean : failedPairs s a uv vw wu vS = [] := List.eq_nil_iff_forall_not_mem.2 fun p m => ((failed p).1 m).2 (pass p ((failed p).1 m).1)
    rw [if_pos clean] at run
    obtain ⟨phase, only⟩ := diagPassed_spec a (setOsd a.stage 1 (testCurrent a.stage c s))
    refine ⟨_, run, ?_, phase, ?_, only.trans ?_⟩
    · rw [only]
      exact setOsd_testCurrent a.stage 1 c s
    · rw [only]
      rfl
    · rw [only]
      rfl
  · have bad := (failed p).2 ⟨mem, fails⟩
    rw [if_neg (List.ne_nil_of_mem bad)] at run
    obtain ⟨grows, flags, raised⟩ := raiseAll_spec (fun p : Chan × Chan × (Q × Q) => legPair vS p.2.2) (fun p => (failedLeg vS p.1 p.2.1 p.2.2 (legPair vS p.2.2)).val) (failedPairs s a uv vw wu vS)
      (setOsd a.stage 2 (testCurrent a.stage c s))
    refine ⟨_, run, ?_, raised p bad, Grows.trans (t := setOsd a.stage 2 (testCurrent a.stage c s)) (.of_eq rfl) grows⟩
    rw [gd_st flags]
    exact setOsd_testCurrent a.stage 2 c s

/-- Settles O27, clause by clause: the shorts of a stage, the refreshes, the off-state tests, the start test and the routine. -/
theorem gateStages : Obligations.GateStages := by
  unfold Obligations.GateStages
  exact ⟨firstShort_clause, secondShort_clause, windowEnd_clause, refreshDue_clause, undervoltage_clause, uvClear_clause, buckTest_clause, startTest_clause, clearFlags_clause, clearFlagsAsc_clause, bridgeTest_clause⟩

end Sys2Proof.Machine
end

section
/-! SUPPORT. What stops the charger (10_charger_stages.md, R269, R280 to R287; 12_charging_services.md, R319). -/

namespace Sys2Proof.Machine

theorem chargerRuns_iff (s : State) : chargerRuns s = true ↔ s.pfc.st ≠ 0 ∨ s.dab.st ≠ 0 := decide_eq_true_iff
theorem chargerRuns_false (s : State) : chargerRuns s = false ↔ s.pfc.st = 0 ∧ s.dab.st = 0 := by
  unfold chargerRuns
  rw [decide_eq_false_iff_not, not_or, not_not, not_not]

/-! ## A bus at its level (R282 to R284) -/

/-- The bus has reached its level: BUS_OK, with the sample that shows it. -/
def busUp (v : Q) (s : State) : State := { s with pfc := { s.pfc with busOk := true }, dab := { s.dab with vbus := v } }

section
variable {s : State} {v : Q} {ms : Nat} (ramps : s.pfc.st = 2) (waits : s.pfc.busOk = false) (held : 10 ≤ ms) (near : absQ (v - s.pfc.busRef) ≤ 10)
include ramps waits held near

/-- Forward, the DAB starts with no shift (R282). -/
theorem busOkReached_forward (forward : s.pfc.dir = 0) (level : s.pfc.busRef = busTarget s) :
    exec (.busOkReached v ms) s = .next { s with pfc := { s.pfc with busOk := true, st := 3 }, dab := { s.dab with vbus := v, st := 2, delta := 0, phi := 0, xc := 0, xvb := 0, iCmd := 0, win := [] } } := by
  show execBusOkReached v ms s = _
  unfold execBusOkReached
  rw [if_pos ⟨ramps, waits, held, near, level.trans (if_pos forward).symm⟩]
  exact if_pos forward

/-- In reverse, unless the supply role has its pilot to start first, the main relay is next (R284). -/
theorem busOkReached_reverse (reverse : s.pfc.dir = 1) (level : s.pfc.busRef = s.pf 0x50 0 32) (pilot : ¬(s.chg.role = 3 ∧ s.chg.phase = 3 ∧ s.chg.pilot ≠ 2)) :
    exec (.busOkReached v ms) s = .next (reverseMain (busUp v s)) := by
  have backward : s.pfc.dir ≠ 0 := by rw [reverse]; decide
  show execBusOkReached v ms s = _
  unfold execBusOkReached
  rw [if_pos ⟨ramps, waits, held, near, level.trans (if_neg backward).symm⟩]
  exact (if_neg backward).trans (if_neg pilot)

end

/-! ## A stage that misses its deadline (R269) -/

/-- A late DAB update: its shift stays, and the miss counts. -/
def dabLate (s : State) : State := { s with dab := { s.dab with lateRun := min (s.dab.lateRun + 1) 255, lateTotal := satInc 8 s.dab.lateTotal }, pwm := s.pwm.upd 4 (fun g => { g with next := none, lateLast := true }) }
/-- A late PFC update: its leg values stay, and the miss counts. -/
def pfcLate (s : State) : State := { s with pfc := { s.pfc with lateRun := min (s.pfc.lateRun + 1) 255, lateTotal := satInc 8 s.pfc.lateTotal }, pwm := s.pwm.upd 3 (fun g => { g with next := none, lateLast := true }) }

theorem dabMiss_eq {s : State} (runs : chargerRuns s = true) :
    exec (.chargerDeadlineMiss true) s = .next (if 3 ≤ s.dab.lateRun + 1 then raise 0x300E 1 0 (dabLate s) else dabLate s) := if_neg (by rw [runs]; decide)
theorem pfcMiss_eq {s : State} (runs : chargerRuns s = true) :
    exec (.chargerDeadlineMiss false) s = .next (if 3 ≤ s.pfc.lateRun + 1 then raise 0x300E 0 0 (pfcLate s) else pfcLate s) := if_neg (by rw [runs]; decide)

/-! ## The stop (R281) -/

/-- A stop opens S2 and leaves the rest of a session (R331). -/
theorem stopCharger_chg (s : State) : (stopCharger s).chg = { s.chg with s2 := false } := by
  rcases stopCharger_cases s with ⟨-, -, e⟩ | ⟨p, d, -, -, e⟩ <;> rw [e]
  · rfl
  · have chg := stopPair_chg (s2Open s)
    generalize stopPair (s2Open s) = w at chg ⊢
    exact chg

/-! ## The clauses -/

theorem faultStop_clause (s : State) (code : Nat) (pfc : s.fn 3 = true) (first : 0x3001 ≤ code) (last : code ≤ 0x3010) :
    Answers (exec (.chargerFaultStop code) s) fun t => ChgrOff t ∧ active code (if code = 0x3008 ∨ code = 0x3009 ∨ code = 0x300A ∨ code = 0x300B ∨ code = 0x300C then 1 else 0) t = true ∧ Grows s t ∧ t.beyond = s.beyond :=
  ans_stop ⟨first, last, pfc⟩ rfl rfl (by omega) (by omega)

theorem relayTimeout_clause (s : State) (h : Fin 6) (ms : Nat) (pfc : s.fn 3 = true) (late : 50 ≤ ms)
    (differs : (h = relayHso s true ∧ s.pfc.mainCmd ≠ s.pfc.main) ∨ (h = relayHso s false ∧ s.pfc.preCmd ≠ s.pfc.pre)) :
    Answers (exec (.relayFeedbackTimeout h ms) s) fun t => ChgrOff t ∧ active 0x3007 0 t = true ∧ Grows s t ∧ t.beyond = s.beyond := by
  show Answers (execRelayFeedbackTimeout h ms s) _
  unfold execRelayFeedbackTimeout
  rw [if_neg (not_lt.2 late)]
  exact ans_stop ⟨pfc, differs⟩ rfl rfl

theorem roleTimeout_clause (s : State) (h : Fin 6) (ms : Nat) (late : 50 ≤ ms)
    (other : ¬(s.fn 3 = true ∧ ((h = relayHso s true ∧ s.pfc.mainCmd ≠ s.pfc.main) ∨ (h = relayHso s false ∧ s.pfc.preCmd ≠ s.pfc.pre)))) (role : roleHso s = some h) (differs : s.chg.roleCmd ≠ s.chg.roleOk) :
    Answers (exec (.relayFeedbackTimeout h ms) s) fun t => active 0x400D noInst t = true ∧ Grows s t ∧ t.beyond = s.beyond := by
  show Answers (execRelayFeedbackTimeout h ms s) _
  unfold execRelayFeedbackTimeout roleRelayTimeout
  rw [if_neg (not_lt.2 late), if_neg other, if_pos ⟨role, differs⟩]
  exact ans_raised rfl rfl

theorem contactor_clause (s : State) (ms : Nat) (runs : s.pfc.st ≠ 0 ∨ s.dab.st ≠ 0) (fitted : s.pu 0x50 1 80 < 6) (closed : ∀ h : Fin 6, h.val = s.pu 0x50 1 80 → s.saf.hso.get h = true) (held : 1 ≤ ms) :
    Answers (exec (.batteryContactorOpen ms) s) fun t => ChgrOff t ∧ active 0x300B 1 t = true ∧ Grows s t ∧ t.beyond = s.beyond :=
  ans_stop ⟨(chargerRuns_iff s).2 runs, by omega, closed _ (Nat.mod_eq_of_lt fitted), held⟩ rfl rfl

theorem acPresent_clause (s : State) (v : Q) (ms : Nat) (ramps : s.pfc.st = 2) (waits : s.pfc.busOk = false) (held : 10 ≤ ms) (near : absQ (v - s.pfc.busRef) ≤ 10) (reverse : s.pfc.dir = 1)
    (level : s.pfc.busRef = s.pf 0x50 0 32) (pilot : ¬(s.chg.role = 3 ∧ s.chg.phase = 3 ∧ s.chg.pilot ≠ 2)) (ac : s.sup.acPresent = true) :
    Answers (exec (.busOkReached v ms) s) fun t => ChgrOff t ∧ active 0x3010 0 t = true ∧ Grows s t ∧ t.beyond = s.beyond := by
  have run : exec (.busOkReached v ms) s = .next (stopCharger (raise 0x3010 0 0 (busUp v s))) := (busOkReached_reverse ramps waits held near reverse level pilot).trans (congrArg _ (if_pos ac))
  exact ⟨_, run, stopRaise 0x3010 0 (busUp v s)⟩

theorem stopRequest_clause (s : State) (runs : s.pfc.st ≠ 0 ∨ s.dab.st ≠ 0) (still : (s.dab.st ≠ 2 ∧ s.dab.st ≠ 3) ∨ s.dab.iCmd = 0) (fresh : s.dab.stopRamp = none) :
    Answers (exec .chargerStopRequest s) fun t => ChgrOff t ∧ (∀ d, grpOf d = 3 ∨ grpOf d = 4 → (t.gd.ch.get d).out ≠ .on) ∧ t.chg.s2 = false ∧ t.faults = s.faults ∧ t.beyond = s.beyond := by
  have noRamp : ¬((s.dab.st = 2 ∨ s.dab.st = 3) ∧ s.dab.iCmd ≠ 0 ∧ s.dab.stopRamp = none) := by
    rintro ⟨charges, current, -⟩
    rcases still with ⟨n2, n3⟩ | zero
    · exact charges.elim n2 n3
    · exact current zero
  have stops : requestStop s = stopCharger s := (if_neg noRamp).trans (if_neg (by rw [fresh]; decide))
  have run : exec .chargerStopRequest s = .next (stopCharger s) := (if_pos ((chargerRuns_iff s).2 runs)).trans (congrArg _ stops)
  exact ⟨_, run, stopCharger_off s, stopCharger_outputs s runs, congrArg Chg.s2 (stopCharger_chg s), stopCharger_faults s, stopCharger_beyond s⟩

theorem stopRamp_clause (s : State) (charges : s.dab.st = 2 ∨ s.dab.st = 3) (current : s.dab.iCmd ≠ 0) (fresh : s.dab.stopRamp = none) :
    exec .chargerStopRequest s = .next { s with dab := { s.dab with stopRamp := some (10 * absQ s.dab.iCmd) } } := by
  have runs : chargerRuns s = true := (chargerRuns_iff s).2 (.inr (by omega))
  exact (if_pos runs).trans (congrArg _ (if_pos ⟨charges, current, fresh⟩))

theorem relaysOpen_clause (s : State) (i : Q) (ms : Nat) (stops : s.pfc.st = 5) (halted : (s.pwm.get 3).running = false) (due : i < 1 ∨ 20 ≤ ms) :
    exec (.mainRelayOpen i ms) s = .next { s with saf := { s.saf with hso := (s.saf.hso.put (relayHso s true) false).put (relayHso s false) false }, pfc := { s.pfc with st := 0, mainCmd := false, preCmd := false } } :=
  if_pos ⟨stops, halted, due⟩

theorem deadlineMiss_clause (s : State) (runs : s.pfc.st ≠ 0 ∨ s.dab.st ≠ 0) :
    (s.dab.lateRun < 2 → exec (.chargerDeadlineMiss true) s = .next { s with dab := { s.dab with lateRun := min (s.dab.lateRun + 1) 255, lateTotal := satInc 8 s.dab.lateTotal }, pwm := s.pwm.upd 4 (fun g => { g with next := none, lateLast := true }) }) ∧
      (2 ≤ s.dab.lateRun → Answers (exec (.chargerDeadlineMiss true) s) fun t => active 0x300E 1 t = true ∧ Grows s t ∧ t.beyond = s.beyond) ∧
      (s.pfc.lateRun < 2 → exec (.chargerDeadlineMiss false) s = .next { s with pfc := { s.pfc with lateRun := min (s.pfc.lateRun + 1) 255, lateTotal := satInc 8 s.pfc.lateTotal }, pwm := s.pwm.upd 3 (fun g => { g with next := none, lateLast := true }) }) ∧
      (2 ≤ s.pfc.lateRun → Answers (exec (.chargerDeadlineMiss false) s) fun t => active 0x300E 0 t = true ∧ Grows s t ∧ t.beyond = s.beyond) := by
  have runs := (chargerRuns_iff s).2 runs
  rw [dabMiss_eq runs, pfcMiss_eq runs]
  refine ⟨fun few => ?_, fun third => ?_, fun few => ?_, fun third => ?_⟩
  · rw [if_neg (by omega)]
    rfl
  · rw [if_pos (by omega)]
    exact ans_raised rfl rfl
  · rw [if_neg (by omega)]
    rfl
  · rw [if_pos (by omega)]
    exact ans_raised rfl rfl

/-! ## The obligation -/

/-- Settles O28, clause by clause: the faults that stop, the stop on request, the relays after it, and the late updates. -/
theorem chargerStops : Obligations.ChargerStops := by
  unfold Obligations.ChargerStops
  exact ⟨faultStop_clause, relayTimeout_clause, roleTimeout_clause,
    fun _ _ starts forward waits late => ans_stop ⟨starts, forward, waits, late⟩ rfl rfl,
    fun _ _ ramps waits late => ans_stop ⟨ramps, waits, late⟩ rfl rfl,
    fun _ _ _ forward up held low => ans_stop ⟨forward, up, held, low⟩ rfl rfl,
    fun _ _ switches limited held => ans_stop ⟨switches, limited, held⟩ rfl rfl,
    contactor_clause, acPresent_clause, stopRequest_clause, stopRamp_clause, relaysOpen_clause, deadlineMiss_clause⟩

end Sys2Proof.Machine
end

section
/-! SUPPORT. The steps of a forward and a reverse start (10_charger_stages.md, R280 to R284, R289; 12_charging_services.md, R319, R341). -/

namespace Sys2Proof.Machine

/-! ## The carriers of a start (R139, R150, R282) -/

/-- A group's carrier begins with every leg off. -/
def carrierOn (g : Grp) (s : State) : State :=
  let s := (grpChans g).foldl stopChan s
  { s with pwm := s.pwm.put g { PwmGrp.reset with running := true, period := s.pu 0x20 g 12, e := List.replicate (if g = 3 then 3 else 4) 0, target := List.replicate (if g = 3 then 3 else 4) 0, minp := (s.pwm.get g).minp, clip := (s.pwm.get g).clip } }

theorem carrierOn_only (g : Grp) (s : State) : carrierOn g s = { s with pwm := (carrierOn g s).pwm, gd := (carrierOn g s).gd } := by
  unfold carrierOn
  rw [stopChans_only]
@[simp] theorem carrierOn_running (g : Grp) (s : State) : ((carrierOn g s).pwm.get g).running = true := congrArg PwmGrp.running (Tab.get_put_same _ _ _)
theorem carrierOn_other {g k : Grp} (s : State) (h : k ≠ g) : (carrierOn g s).pwm.get k = s.pwm.get k :=
  (Tab.get_put_other _ _ _ _ h).trans (by rw [stopChans_only])
theorem carrierOn_offAt {g : Grp} {s : State} {c : Chan} (h : grpOf c = g ∨ s.gd.offAt c) : (carrierOn g s).gd.offAt c :=
  h.elim (fun own => stopChans_off _ _ _ ((grpChans_mem c g).2 own)) (stopChans_offAt _ s c)

/-- Group 3 begins at once, or with ANCHOR 1 its outputs alone turn off and its carrier waits for its anchored start (R150). -/
def pfcCarrier (s : State) : State := if s.pu 0x20 3 40 = 1 then (grpChans 3).foldl stopChan s else carrierOn 3 s

theorem pfcCarrier_only (s : State) : pfcCarrier s = { s with pwm := (pfcCarrier s).pwm, gd := (pfcCarrier s).gd } := by
  unfold pfcCarrier
  split
  · rw [stopChans_only]
  · exact carrierOn_only 3 s
theorem pfcCarrier_running {s : State} (free : s.pu 0x20 3 40 ≠ 1) : ((pfcCarrier s).pwm.get 3).running = true := by
  unfold pfcCarrier
  rw [if_neg free]
  exact carrierOn_running 3 s
theorem pfcCarrier_anchored {s : State} (anchor : s.pu 0x20 3 40 = 1) : (pfcCarrier s).pwm = s.pwm := by
  unfold pfcCarrier
  rw [if_pos anchor, stopChans_only]
theorem pfcCarrier_offAt {s : State} {c : Chan} (h : grpOf c = 3) : (pfcCarrier s).gd.offAt c := by
  unfold pfcCarrier
  split
  · exact stopChans_off _ _ _ ((grpChans_mem c 3).2 h)
  · exact carrierOn_offAt (.inl h)

/-- Both carriers of a start. -/
def carriersOn (s : State) : State := carrierOn 4 (pfcCarrier s)

theorem carriersOn_only (s : State) : carriersOn s = { s with pwm := (carriersOn s).pwm, gd := (carriersOn s).gd } := by
  unfold carriersOn
  rw [carrierOn_only, pfcCarrier_only]

/-- The counts of late and stale values and a stop's ramp begin anew. -/
def countsAnew (s : State) : State := { s with pfc := { s.pfc with lateRun := 0, stale := 0 }, dab := { s.dab with lateRun := 0, stopRamp := none } }

theorem startCarriers_eq (s : State) : startCarriers s = countsAnew (carriersOn s) := by
  unfold startCarriers countsAnew carriersOn pfcCarrier carrierOn
  dsimp only

/-! ## What every start does (R282, R284, R289) -/

/-- A start from `s` has begun in `t`: the faults of R289 have ended, the carriers run, that of an anchored group 3 excepted, every
output is off, and beside the carriers and the outputs only the counts begin anew. -/
structure Begun (s t : State) : Prop where
  off : ∀ d, grpOf d = 3 ∨ grpOf d = 4 → t.gd.offAt d
  free : s.pu 0x20 3 40 ≠ 1 → (t.pwm.get 3).running = true
  anchored : s.pu 0x20 3 40 = 1 → t.pwm.get 3 = s.pwm.get 3
  dab : (t.pwm.get 4).running = true
  cleared : ∀ c j, c ∈ [0x3001, 0x3002, 0x3003, 0x3006, 0x3007, 0x3008, 0x3009, 0x300A, 0x300B, 0x300C, 0x300D, 0x300E, 0x300F, 0x3010] → j < 2 → active c j t = false
  only : SameButFaults { countsAnew s with pwm := t.pwm, gd := t.gd } t

theorem startCarriers_begun (s : State) : Begun s (startCarriers (clearStartFaults s)) := by
  have same := clearStart_same s
  have cleared := clearStart_off s
  generalize clearStartFaults s = w at same cleared
  have anchor : w.pu 0x20 3 40 = s.pu 0x20 3 40 := by rw [same]; rfl
  have pwm : w.pwm = s.pwm := by rw [same]
  have off (d : Chan) (h : grpOf d = 3 ∨ grpOf d = 4) : (carriersOn w).gd.offAt d := carrierOn_offAt (h.elim (fun h => .inr (pfcCarrier_offAt h)) .inl)
  have free (h : s.pu 0x20 3 40 ≠ 1) : ((carriersOn w).pwm.get 3).running = true :=
    (congrArg PwmGrp.running (carrierOn_other _ (by decide))).trans (pfcCarrier_running (anchor ▸ h))
  have anchored (h : s.pu 0x20 3 40 = 1) : (carriersOn w).pwm.get 3 = s.pwm.get 3 :=
    (carrierOn_other _ (by decide)).trans (by rw [pfcCarrier_anchored (anchor.trans h), pwm])
  have dab : ((carriersOn w).pwm.get 4).running = true := carrierOn_running 4 _
  have only := carriersOn_only w
  rw [startCarriers_eq]
  generalize carriersOn w = v at off free anchored dab only
  have faults : v.faults = w.faults := by rw [only]
  refine ⟨off, free, anchored, dab, fun c j m h => (active_of faults c j).trans (cleared c j m h), ?_⟩
  unfold SameButFaults at same ⊢
  rw [only, same]
  rfl

/-- What a start reads stands as it did: the grid, the store and the bus voltage. -/
theorem Begun.same {s t : State} (h : Begun s t) : t.grid = s.grid ∧ t.cat = s.cat ∧ t.dab.vbus = s.dab.vbus := by
  rw [h.only]
  exact ⟨rfl, rfl, rfl⟩

/-- The charger's own writes after its carriers have begun. -/
theorem Begun.write {s t : State} (h : Begun s t) (p : Pfc) (d : Dab) (f : Saf) :
    SameButFaults { s with pfc := p, dab := d, pwm := t.pwm, gd := t.gd, saf := f } { t with pfc := p, dab := d, saf := f } := by
  have only := h.only
  unfold SameButFaults at only ⊢
  generalize t.pwm = pwm, t.gd = gd, t.sys.readyPin = ready, t.sys.faultPin = fault, t.faults = faults, t.log = log, t.uds.dtcClr = dtc at only ⊢
  rw [only]
  rfl

theorem vRms_congr {s t : State} (grid : t.grid = s.grid) (cat : t.cat = s.cat) : vRms t = vRms s := by
  unfold vRms singlePhase obcInput
  rw [grid, pu_cat cat]
theorem relayHso_cat {s t : State} (cat : t.cat = s.cat) (main : Bool) : relayHso t main = relayHso s main := by simp only [relayHso, State.pb, State.payload, cat]

/-- The charger commands its precharge relay and waits for the bus (R282). -/
def precharging (t : State) : State :=
  cmdRelay false true { t with pfc := { t.pfc with st := 1, dir := 0, busOk := false, vStart := vRms t, xv := 0, xd := 0, xq := 0 }, dab := { t.dab with st := 1, xvb := 0, xc := 0, delta := 0, phi := 0, iCmd := 0, win := [], loss := 0, revT := 0 } }
/-- The charger brings the bus up from the battery (R284). -/
def raisingBus (t : State) : State :=
  { t with pfc := { t.pfc with st := 2, dir := 1, busOk := false, busRef := t.dab.vbus, ramp0 := t.dab.vbus, xd := 0, xq := 0, xvd := 0, xvq := 0, vdRef := 0, outReady := false }, dab := { t.dab with st := 4, xvb := 0, xc := 0, delta := 0, phi := 0, win := [], loss := 0, revT := 0 } }

section
variable {s : State} (pfc : s.fn 3 = true) (mode : s.sys.mode = .charge) (stops : s.pfc.st = 0) (off : s.dab.st = 0) (clear : (clearStartFaults s).chargerBlocked = false)
include pfc mode stops off clear

theorem forwardStart_run (grid : s.grid.ok = true) : exec .forwardStart s = .next (precharging (startCarriers (clearStartFaults s))) := by
  have same := clearStart_same s
  have ready : (clearStartFaults s).sys.mode = .charge ∧ (clearStartFaults s).grid.ok = true ∧ chargerRuns (clearStartFaults s) = false ∧ (clearStartFaults s).chargerBlocked = false :=
    ⟨same.mode.trans mode, (congrArg Grid.ok same.grid).trans grid, (runs_chgr same.chgr).trans ((chargerRuns_false s).2 ⟨stops, off⟩), clear⟩
  exact (if_neg (by rw [pfc]; decide)).trans (if_pos ready)

theorem reverseStart_run (set : s.pf 0x50 0 80 ≠ 0 ∧ s.pf 0x50 0 84 ≠ 0 ∧ s.pf 0x50 0 88 ≠ 0) (least : s.pf 3 0 0 ≤ s.vMax) (most : s.vMax ≤ s.pf 3 0 4)
    (pilot : s.chg.role ≠ 3 ∨ (s.chg.cp = 1 ∧ s.chg.pilot = 1) ∨ (s.chg.cp = 2 ∧ s.chg.pilot = 2)) : exec .reverseStart s = .next (raisingBus (startCarriers (clearStartFaults s))) := by
  have same := clearStart_same s
  have still : chargerRuns (clearStartFaults s) = false := (runs_chgr same.chgr).trans ((chargerRuns_false s).2 ⟨stops, off⟩)
  have charge := same.mode.trans mode
  have chg := same.chg
  have cat : (clearStartFaults s).cat = s.cat := by rw [same]
  have link : (clearStartFaults s).vMax = s.vMax := by
    unfold State.vMax
    rw [same]
  rw [← chg] at pilot
  rw [← link] at least most
  simp only [← pf_cat cat] at set least most
  obtain ⟨volts, freq, power⟩ := set
  exact (if_neg (by rw [pfc]; decide)).trans (if_pos ⟨charge, volts, freq, power, least, most, still, clear, pilot⟩)

end

/-! ## A confirmed relay (R282, R284, R319) -/

/-- The role relay's feedback first, then that of the charger's relays. -/
theorem relayConfirmed_run {s u : State} {h : Fin 6} {closed : Bool} (role : roleRelayFeedback h closed s = u) :
    exec (.relayConfirmed h closed) s =
      if u.fn 3 = false then .next u
      else if h = relayHso u true ∧ u.pfc.mainCmd = closed then .next (relayStep { u with pfc := { u.pfc with main := closed } })
      else if h = relayHso u false ∧ u.pfc.preCmd = closed then .next (relayStep { u with pfc := { u.pfc with pre := closed } })
      else .next u := by
  subst role
  rfl

section
variable {s : State} {h : Fin 6} {closed : Bool} (pfc : s.fn 3 = true) (other : roleHso s ≠ some h)
include pfc other

theorem relayConfirmed_main (main : h = relayHso s true) (asked : s.pfc.mainCmd = closed) : exec (.relayConfirmed h closed) s = .next (relayStep { s with pfc := { s.pfc with main := closed } }) := by
  rw [relayConfirmed_run (if_neg fun k => other k.1)]
  exact (if_neg (by rw [pfc]; decide)).trans (if_pos ⟨main, asked⟩)
theorem relayConfirmed_pre (pre : h = relayHso s false) (only : h ≠ relayHso s true) (asked : s.pfc.preCmd = closed) : exec (.relayConfirmed h closed) s = .next (relayStep { s with pfc := { s.pfc with pre := closed } }) := by
  rw [relayConfirmed_run (if_neg fun k => other k.1)]
  exact (if_neg (by rw [pfc]; decide)).trans ((if_neg fun k => only k.1).trans (if_pos ⟨pre, asked⟩))

end

/-- Before the main relay has closed nothing follows. -/
theorem relayStep_waits {s : State} (still : s.pfc.main = false) : relayStep s = s := by
  unfold relayStep
  simp [still]

section
variable {s : State} (cmd : s.pfc.mainCmd = true) (main : s.pfc.main = true)
include cmd main

/-- The main relay bridges the precharge relay, which then opens. -/
theorem relayStep_opens (forward : s.pfc.dir = 0) (starts : s.pfc.st = 1) (pre : s.pfc.preCmd = true) : relayStep s = cmdRelay false false s :=
  if_pos ⟨forward, starts, cmd, main, pre⟩
/-- With the precharge relay open the bus ramps. -/
theorem relayStep_ramps (forward : s.pfc.dir = 0) (starts : s.pfc.st = 1) (isOpen : s.pfc.pre = false) (pre : s.pfc.preCmd = false) :
    relayStep s = { s with pfc := { s.pfc with st := 2, busRef := s.dab.vbus, ramp0 := s.dab.vbus } } := by
  unfold relayStep
  exact (if_neg (by simp [pre])).trans (if_pos ⟨forward, starts, cmd, main, isOpen, pre⟩)
/-- In reverse the PFC brings its output up. -/
theorem relayStep_supplies (reverse : s.pfc.dir = 1) (ramps : s.pfc.st = 2) (up : s.pfc.busOk = true) : relayStep s = { s with pfc := { s.pfc with st := 4, vdRef := 0 } } := by
  unfold relayStep
  exact (if_neg (by simp [reverse])).trans ((if_neg (by simp [reverse])).trans (if_pos ⟨reverse, ramps, up, cmd, main⟩))

end

/-! ## The clauses -/

theorem forwardStart_clause (s : State) (pfc : s.fn 3 = true) (mode : s.sys.mode = .charge) (grid : s.grid.ok = true) (stops : s.pfc.st = 0) (off : s.dab.st = 0) (clear : (clearStartFaults s).chargerBlocked = false) :
    Answers (exec .forwardStart s) fun t => t.pfc.st = 1 ∧ t.pfc.dir = 0 ∧ t.pfc.busOk = false ∧ t.pfc.preCmd = true ∧ t.dab.st = 1 ∧ t.dab.delta = 0 ∧ (s.pu 0x20 3 40 ≠ 1 → (t.pwm.get 3).running = true) ∧ (s.pu 0x20 3 40 = 1 → t.pwm.get 3 = s.pwm.get 3) ∧ (t.pwm.get 4).running = true ∧
      t.pfc.vStart = vRms s ∧ (∀ d, grpOf d = 3 ∨ grpOf d = 4 → (t.gd.ch.get d).out ≠ .on) ∧
      t.saf.hso.get (relayHso s false) = true ∧ (∀ c j, c ∈ [0x3001, 0x3002, 0x3003, 0x3006, 0x3007, 0x3008, 0x3009, 0x300A, 0x300B, 0x300C, 0x300D, 0x300E, 0x300F, 0x3010] → j < 2 → active c j t = false) ∧
      SameButFaults { s with pfc := t.pfc, dab := t.dab, pwm := t.pwm, gd := t.gd, saf := t.saf } t := by
  have run := forwardStart_run pfc mode stops off clear grid
  have begun := startCarriers_begun s
  generalize startCarriers (clearStartFaults s) = t at begun run
  obtain ⟨sameGrid, cat, -⟩ := begun.same
  have closes : (precharging t).saf.hso.get (relayHso s false) = true := by
    rw [← relayHso_cat cat]
    exact Tab.get_put_same _ _ _
  exact ⟨_, run, rfl, rfl, rfl, rfl, rfl, rfl, begun.free, begun.anchored, begun.dab, vRms_congr sameGrid cat, begun.off, closes, begun.cleared, begun.write _ _ _⟩

theorem reverseStart_clause (s : State) (pfc : s.fn 3 = true) (mode : s.sys.mode = .charge) (set : s.pf 0x50 0 80 ≠ 0 ∧ s.pf 0x50 0 84 ≠ 0 ∧ s.pf 0x50 0 88 ≠ 0) (least : s.pf 3 0 0 ≤ s.vMax) (most : s.vMax ≤ s.pf 3 0 4)
    (stops : s.pfc.st = 0) (off : s.dab.st = 0) (clear : (clearStartFaults s).chargerBlocked = false) (pilot : s.chg.role ≠ 3 ∨ (s.chg.cp = 1 ∧ s.chg.pilot = 1) ∨ (s.chg.cp = 2 ∧ s.chg.pilot = 2)) :
    Answers (exec .reverseStart s) fun t => t.pfc.st = 2 ∧ t.pfc.dir = 1 ∧ t.pfc.busOk = false ∧ t.pfc.busRef = s.dab.vbus ∧ (∀ d, grpOf d = 3 ∨ grpOf d = 4 → (t.gd.ch.get d).out ≠ .on) ∧ t.dab.st = 4 ∧ t.pfc.outReady = false ∧ (s.pu 0x20 3 40 ≠ 1 → (t.pwm.get 3).running = true) ∧ (s.pu 0x20 3 40 = 1 → t.pwm.get 3 = s.pwm.get 3) ∧ (t.pwm.get 4).running = true ∧
      (∀ c j, c ∈ [0x3001, 0x3002, 0x3003, 0x3006, 0x3007, 0x3008, 0x3009, 0x300A, 0x300B, 0x300C, 0x300D, 0x300E, 0x300F, 0x3010] → j < 2 → active c j t = false) ∧
      SameButFaults { s with pfc := t.pfc, dab := t.dab, pwm := t.pwm, gd := t.gd } t := by
  have run := reverseStart_run pfc mode stops off clear set least most pilot
  have begun := startCarriers_begun s
  generalize startCarriers (clearStartFaults s) = t at begun run
  obtain ⟨-, -, vbus⟩ := begun.same
  have saf : t.saf = s.saf := by rw [begun.only]; rfl
  have only : SameButFaults { s with pfc := (raisingBus t).pfc, dab := (raisingBus t).dab, pwm := t.pwm, gd := t.gd, saf := s.saf } (raisingBus t) := by
    rw [← saf]
    exact begun.write _ _ _
  exact ⟨_, run, rfl, rfl, rfl, vbus, begun.off, rfl, rfl, begun.free, begun.anchored, begun.dab, begun.cleared, only⟩

theorem preConfirmed_clause (s : State) (h : Fin 6) (pfc : s.fn 3 = true) (other : roleHso s ≠ some h) (own : h = relayHso s false) (only : h ≠ relayHso s true) (starts : s.pfc.st = 1) (forward : s.pfc.dir = 0) :
    (s.pfc.preCmd = true → s.pfc.main = false → exec (.relayConfirmed h true) s = .next { s with pfc := { s.pfc with pre := true } }) ∧
      (s.pfc.preCmd = false → s.pfc.mainCmd = true → s.pfc.main = true → exec (.relayConfirmed h false) s = .next { s with pfc := { s.pfc with pre := false, st := 2, busRef := s.dab.vbus, ramp0 := s.dab.vbus } }) := by
  refine ⟨fun asked still => ?_, fun asked cmd main => ?_⟩ <;> rw [relayConfirmed_pre pfc other own only asked]
  · exact congrArg _ (relayStep_waits still)
  · exact congrArg _ (relayStep_ramps cmd main forward starts rfl asked)

theorem mainConfirmed_clause (s : State) (h : Fin 6) (pfc : s.fn 3 = true) (other : roleHso s ≠ some h) (own : h = relayHso s true) (asked : s.pfc.mainCmd = true) :
    (s.pfc.st = 1 → s.pfc.dir = 0 → s.pfc.preCmd = true → exec (.relayConfirmed h true) s = .next { s with pfc := { s.pfc with main := true, preCmd := false }, saf := { s.saf with hso := s.saf.hso.put (relayHso s false) false } }) ∧
      (s.pfc.st = 2 → s.pfc.dir = 1 → s.pfc.busOk = true → exec (.relayConfirmed h true) s = .next { s with pfc := { s.pfc with main := true, st := 4, vdRef := 0 } }) := by
  rw [relayConfirmed_main pfc other own asked]
  exact ⟨fun starts forward pre => congrArg _ (relayStep_opens asked rfl forward starts pre), fun ramps reverse up => congrArg _ (relayStep_supplies asked rfl reverse ramps up)⟩

theorem roleConfirmed_clause (s : State) (h : Fin 6) (closed : Bool) (role : roleHso s = some h) (asked : s.chg.roleCmd = closed) (other : s.fn 3 = true → h ≠ relayHso s true ∧ h ≠ relayHso s false) :
    exec (.relayConfirmed h closed) s = .next { s with chg := { s.chg with roleOk := closed, pilot := if closed = true ∧ s.chg.pilot = 0 then 1 else s.chg.pilot } } := by
  rw [relayConfirmed_run (if_pos ⟨role, asked⟩)]
  cases pfc : s.fn 3 with
  | false => exact if_pos pfc
  | true =>
    obtain ⟨notMain, notPre⟩ := other pfc
    exact (if_neg fun k => Bool.noConfusion (k.symm.trans pfc)).trans ((if_neg fun k => notMain k.1).trans (if_neg fun k => notPre k.1))

theorem precharged_clause (s : State) (v : Q) (starts : s.pfc.st = 1) (forward : s.pfc.dir = 0) (pre : s.pfc.pre = true) (still : s.pfc.mainCmd = false) (positive : 0 ≤ v)
    (level : (if singlePhase s then 81 / 50 else 243 / 50) * s.pfc.vStart * s.pfc.vStart ≤ v * v) :
    exec (.prechargeComplete v) s = .next { s with dab := { s.dab with vbus := v }, pfc := { s.pfc with mainCmd := true }, saf := { s.saf with hso := s.saf.hso.put (relayHso s true) true } } :=
  if_pos ⟨starts, forward, pre, still, positive, level⟩

theorem busUp_clause (s : State) (v : Q) (ms : Nat) (ramps : s.pfc.st = 2) (waits : s.pfc.busOk = false) (held : 10 ≤ ms) (near : absQ (v - s.pfc.busRef) ≤ 10) :
    (s.pfc.dir = 0 → s.pfc.busRef = busTarget s → exec (.busOkReached v ms) s = .next { s with pfc := { s.pfc with busOk := true, st := 3 }, dab := { s.dab with vbus := v, st := 2, delta := 0, phi := 0, xc := 0, xvb := 0, iCmd := 0, win := [] } }) ∧
      (s.pfc.dir = 1 → s.pfc.busRef = s.pf 0x50 0 32 → ¬(s.chg.role = 3 ∧ s.chg.phase = 3 ∧ s.chg.pilot ≠ 2) → s.sup.acPresent = false →
        exec (.busOkReached v ms) s = .next { s with pfc := { s.pfc with busOk := true, mainCmd := true }, dab := { s.dab with vbus := v }, saf := { s.saf with hso := s.saf.hso.put (relayHso s true) true } }) := by
  refine ⟨busOkReached_forward ramps waits held near, fun reverse level pilot free => ?_⟩
  have closes : reverseMain (busUp v s) = cmdRelay true true (busUp v s) := if_neg (ne_true_of_eq_false free)
  rw [busOkReached_reverse ramps waits held near reverse level pilot, closes]
  rfl

/-! ## The obligation -/

/-- Settles O29, clause by clause: the two starts, the relays of the charger and of the role, the precharged bus and the bus at its level. -/
theorem chargerStarts : Obligations.ChargerStarts := by
  unfold Obligations.ChargerStarts
  exact ⟨forwardStart_clause, reverseStart_clause, preConfirmed_clause, mainConfirmed_clause, roleConfirmed_clause, precharged_clause, busUp_clause⟩

end Sys2Proof.Machine
end

section
/-! SUPPORT. What the rectifiers, a stop and a start of the LV converter leave of its carriers and outputs (11_lv_converter.md, R293, R294, R299, R300,
R307). -/

namespace Sys2Proof.Machine

/-! ## The rectifiers (R299) -/

theorem setSr_pwm_other {k : Grp} (s : State) (n : k ≠ 6) : (setSr s).pwm.get k = s.pwm.get k := by
  unfold setSr
  split
  · exact Tab.get_upd_other _ _ _ _ n
  · dsimp only
    rw [stopChan_only, stopChan_only]
    exact Tab.get_upd_other _ _ _ _ n
theorem stopChan_other {s : State} {c d : Chan} (n : d ≠ c) : (stopChan s c).gd.ch.get d = s.gd.ch.get d := by rw [stopChan_get, if_neg n]
theorem setSr_channel_other {d : Chan} (s : State) (first : d.val ≠ 29) (second : d.val ≠ 30) : (setSr s).gd.ch.get d = s.gd.ch.get d := by
  have n29 : d ≠ chanAt 29 := fun e => first (congrArg Fin.val e)
  have n30 : d ≠ chanAt 30 := fun e => second (congrArg Fin.val e)
  unfold setSr
  split
  · rfl
  · exact (stopChan_other n30).trans (stopChan_other n29)

/-- A change of the converter's registers that follows what the collector wrote (R532) changes nothing else either. -/
theorem SameButFaults.updLvc {s u : State} (same : SameButFaults s u) (f : Lvc → Lvc) : SameButFaults { s with lvc := f s.lvc } { u with lvc := f u.lvc } := by
  unfold SameButFaults at same ⊢
  dsimp only
  generalize u.sys.readyPin = ready at same ⊢
  generalize u.sys.faultPin = fault at same ⊢
  generalize u.faults = faults at same ⊢
  generalize u.log = log at same ⊢
  generalize u.uds.dtcClr = dtc at same ⊢
  rw [same]

/-! ## The DCX begins (R293, R307 step 1) -/

/-- The state whose rectifiers step 1 of R307 sets. -/
def dcxOn (s : State) : State :=
  { s with lvc := { s.lvc with due := false, f3Stop := false, dcx := 1, buck := 0, retries := 0, freq := 2 * s.pf 0x58 0 0, srOn := false },
           saf := { s.saf with lvC := true, lvP := true }, pwm := s.pwm.upd 5 (fun g => { g with running := true }) }

theorem dcxOn_pwm (s : State) : (dcxOn s).pwm = s.pwm.upd 5 (fun g => { g with running := true }) := rfl
theorem dcxOn_gd (s : State) : (dcxOn s).gd = s.gd := rfl
theorem lvBegin_eq (s : State) : lvBegin s = setSr (dcxOn (clearLvFaults s)) := rfl
theorem lvBegin_pwm_other {k : Grp} (s : State) (dcx : k ≠ 5) (sr : k ≠ 6) : (lvBegin s).pwm.get k = s.pwm.get k := by
  have pwm : (clearLvFaults s).pwm = s.pwm := by rw [clearLv_same s]
  rw [lvBegin_eq, setSr_pwm_other _ sr, dcxOn_pwm, Tab.get_upd_other _ _ _ _ dcx, pwm]
theorem lvBegin_running (s : State) : ((lvBegin s).pwm.get 5).running = true := by
  rw [lvBegin_eq, setSr_pwm_other _ (by decide), dcxOn_pwm, Tab.get_upd_same]
theorem lvBegin_channel_other {d : Chan} (s : State) (first : d.val ≠ 29) (second : d.val ≠ 30) : (lvBegin s).gd.ch.get d = s.gd.ch.get d := by
  have gd : (clearLvFaults s).gd = s.gd := by rw [clearLv_same s]
  rw [lvBegin_eq, setSr_channel_other _ first second, dcxOn_gd, gd]

/-- What a start of the DCX does: its faults end, its permits return, its carrier runs at twice F_DCX, and beside the rectifiers nothing else changes. -/
theorem lvBegin_starts (s : State) :
    SameButFaults { s with lvc := { s.lvc with due := false, f3Stop := false, dcx := 1, buck := 0, retries := 0, freq := 2 * s.pf 0x58 0 0, srOn := (lvBegin s).lvc.srOn }, saf := { s.saf with lvC := true, lvP := true }, pwm := (lvBegin s).pwm, gd := (lvBegin s).gd } (lvBegin s) ∧
      (∀ k, k ≠ 5 → k ≠ 6 → (lvBegin s).pwm.get k = s.pwm.get k) ∧ ((lvBegin s).pwm.get 5).running = true ∧ (∀ d : Chan, d.val ≠ 29 → d.val ≠ 30 → (lvBegin s).gd.ch.get d = s.gd.ch.get d) ∧
      ∀ c, 0x3801 ≤ c → c ≤ 0x380A → active c noInst (lvBegin s) = false := by
  obtain ⟨same, off⟩ := lvBegin_spec s
  exact ⟨same, fun _ => lvBegin_pwm_other s, lvBegin_running s, fun _ => lvBegin_channel_other s, off⟩

/-! ## The soft start of the buck (R307 steps 4 to 6) -/

/-- The phases that a start of the buck takes. -/
def startPhases (s : State) : List (Fin 6) := (phases6 s).filter (fun n => !phaseBad s n)

/-- V_set depends on the setpoint and on whether remote sense is lost (R303). -/
theorem vSet_congr {s t : State} (cat : t.cat = s.cat) (cmd : t.lvc.cmd = s.lvc.cmd) (lost : t.lvc.senseLost = s.lvc.senseLost) : vSet t = vSet s := by
  unfold vSet
  rw [cmd, lost, pf_cat cat, pf_cat cat]

/-- A pre-charge of some legs of a group turns the low sides of those that read low on, and the group's first edge waits for it (R258). -/
theorem precharge_only (g : Grp) (cs : List Chan) (boot : List (Chan × Q)) (s : State) :
    precharge g cs boot s =
      { s with
        pwm := s.pwm.upd g (fun gr => { gr with precharged := cs.filter (bootLow (readBoot boot s)), preLeft := if cs.filter (bootLow (readBoot boot s)) = [] then 0 else 800 })
        gd := (precharge g cs boot s).gd } := by
  have read := readBoot_only boot s
  have pwm : (readBoot boot s).pwm = s.pwm := by rw [read]
  generalize hl : cs.filter (bootLow (readBoot boot s)) = low
  have run : precharge g cs boot s = lowsOn low { readBoot boot s with pwm := (readBoot boot s).pwm.upd g (fun gr => { gr with precharged := low, preLeft := if low = [] then 0 else 800 }) } := by rw [← hl]; rfl
  rw [run, pwm, lowsOn_only]
  generalize (lowsOn low _).gd = gd
  rw [read]
/-- Readings of the bootstraps do not see what a start of a converter writes. -/
theorem bootLow_readBoot_congr (boot : List (Chan × Q)) {s t : State} (cat : t.cat = s.cat) (gd : t.gd = s.gd) : bootLow (readBoot boot t) = bootLow (readBoot boot s) := by
  funext c
  refine bootLow_congr ?_ (congrArg GdChan.hi (readBoot_same boot cat (by rw [gd])))
  rw [readBoot_only, readBoot_only boot s]
  exact cat

/-- Without a phase to start the buck stops with 0x3809. -/
theorem buckSoftStart_none {s : State} (rs ls : Q) (boot : List (Chan × Q)) (empty : startPhases s = []) : buckSoftStart rs ls boot s = raise 0x3809 noInst 0 (stopBuck 0 s) := if_pos empty

/-- Step 4 of R307: the sense readings are taken, the active phases' registers begin anew. -/
def softRead (rs ls : Q) (s : State) : State :=
  { s with lvc := { s.lvc with rs := rs, ls := ls, senseLost := false, fbLocal := !s.remotePresent, act := startPhases s, held := [], delay := Tab.fill 0, waiting := [], slots := startPhases s, slotD := 0, tPer := 0, resp := 0, xv := 0, xi := 0, ph := Tab.fill 0, ton := Tab.fill 0, ovHold := false } }
/-- Step 6 of R307: V_ref begins at the local reading, to rise at V_set / T_SS, and the carrier runs. -/
def softCarrier (ls : Q) (w : State) : State :=
  { w with lvc := { w.lvc with vref := ls, buck := 2, ssRate := divQ (vSet w) (w.pf 0x58 1 24) / 1000000 }, pwm := w.pwm.upd 7 (fun g => { g with running := true }) }
/-- The state in which a soft start pre-charges its legs. -/
def softPrimed (rs ls : Q) (s : State) : State := softCarrier ls (softRead rs ls s)

/-- The legs that a soft start pre-charges. -/
def softLegs (boot : List (Chan × Q)) (s : State) : List Chan := ((startPhases s).map buckHigh).filter (bootLow (readBoot boot s))

/-- The carrier of a buck that soft-starts. -/
def softGrp (boot : List (Chan × Q)) (s : State) : PwmGrp := { s.pwm.get 7 with running := true, precharged := softLegs boot s, preLeft := if softLegs boot s = [] then 0 else 800 }

theorem precharge_softPrimed (rs ls : Q) (boot : List (Chan × Q)) (s : State) :
    precharge 7 ((startPhases s).map buckHigh) boot (softPrimed rs ls s) =
      { softPrimed rs ls s with pwm := s.pwm.put 7 (softGrp boot s), gd := (precharge 7 ((startPhases s).map buckHigh) boot (softPrimed rs ls s)).gd } := by
  have read : bootLow (readBoot boot (softPrimed rs ls s)) = bootLow (readBoot boot s) := bootLow_readBoot_congr boot rfl rfl
  have carrier : (softPrimed rs ls s).pwm.upd 7 (fun gr => { gr with precharged := softLegs boot s, preLeft := if softLegs boot s = [] then 0 else 800 }) = s.pwm.put 7 (softGrp boot s) := by
    show (s.pwm.upd 7 fun g => { g with running := true }).upd 7 _ = _
    rw [Tab.upd_upd]
    rfl
  have only := precharge_only 7 ((startPhases s).map buckHigh) boot (softPrimed rs ls s)
  rw [read] at only
  rw [← carrier]
  exact only

/-- The soft start ends where the local reading is at V_set already. -/
def softBegin (ls : Q) (s : State) : State := if ls = vSet s then { s with lvc := { s.lvc with buck := 3 } } else s

theorem buckSoftStart_eq {s : State} {rs ls : Q} (boot : List (Chan × Q)) (left : startPhases s ≠ []) (sense : s.remotePresent = false ∨ absQ (rs - ls) ≤ s.pf 0x58 1 72) :
    buckSoftStart rs ls boot s = softBegin ls (precharge 7 ((startPhases s).map buckHigh) boot (softPrimed rs ls s)) := by
  have kept : ¬(s.remotePresent && decide (s.pf 0x58 1 72 < absQ (rs - ls))) = true := by
    rcases sense with absent | near
    · rw [absent, Bool.false_and]; decide
    · rw [decide_eq_false (not_lt.2 near), Bool.and_false]; decide
  have begun : (if s.remotePresent && decide (s.pf 0x58 1 72 < absQ (rs - ls)) then senseFallback (softRead rs ls s) else softRead rs ls s) = softRead rs ls s := if_neg kept
  generalize hw : (if s.remotePresent && decide (s.pf 0x58 1 72 < absQ (rs - ls)) then senseFallback (softRead rs ls s) else softRead rs ls s) = w at begun
  have run : buckSoftStart rs ls boot s = softBegin ls (precharge 7 ((startPhases s).map buckHigh) boot (softCarrier ls w)) := by
    rw [← hw]
    exact if_neg left
  rw [run, begun]
  rfl

/-- With remote sense absent or inside its window a start pre-charges its legs and begins the soft start (2), which a reading at V_set ends at once (3). -/
theorem buckSoftStart_runs {s : State} {rs ls : Q} (boot : List (Chan × Q)) (left : startPhases s ≠ []) (sense : s.remotePresent = false ∨ absQ (rs - ls) ≤ s.pf 0x58 1 72) :
    ∃ k gd, (k = 3 ∧ ls = vSet (softPrimed rs ls s) ∨ k = 2 ∧ ls ≠ vSet (softPrimed rs ls s)) ∧
      buckSoftStart rs ls boot s = { s with lvc := { (softPrimed rs ls s).lvc with buck := k }, pwm := s.pwm.put 7 (softGrp boot s), gd := gd } := by
  have only := precharge_softPrimed rs ls boot s
  rw [buckSoftStart_eq boot left sense]
  generalize precharge 7 ((startPhases s).map buckHigh) boot (softPrimed rs ls s) = p at only ⊢
  have set : vSet p = vSet (softPrimed rs ls s) := vSet_congr (by rw [only]) (by rw [only]) (by rw [only])
  unfold softBegin
  rw [set]
  by_cases reached : ls = vSet (softPrimed rs ls s)
  · refine ⟨3, p.gd, .inl ⟨rfl, reached⟩, (if_pos reached).trans ?_⟩
    generalize p.gd = gd at only
    rw [only]
    rfl
  · exact ⟨2, p.gd, .inr ⟨rfl, reached⟩, (if_neg reached).trans only⟩

/-! ## Outputs of a converter that stops (R293) -/

theorem grpOf_buck : ∀ d : Chan, 31 ≤ d.val → d.val < 43 → grpOf d = 7 := by decide
theorem stopLv_channels (f : Bool) (s : State) (d : Chan) (first : 27 ≤ d.val) (last : d.val < 43) : (stopLv f s).gd.offAt d := by
  refine stopLv_outputs f s d ?_
  by_cases dcx : d.val < 31
  · exact .inr ⟨first, dcx⟩
  · exact .inl (grpOf_buck d (not_lt.1 dcx) last)

/-- A fault that stops the whole converter, raised where nothing ended or stopped yet (R300). -/
theorem raise_lvFault {s u : State} (code m : Nat) (code3 : code = 0x3801 ∨ code = 0x3802 ∨ code = 0x380A) (faults : u.faults = s.faults) (beyond : u.beyond = s.beyond) :
    active code noInst (raise code noInst m u) = true ∧
      (active code noInst s = false → (raise code noInst m u).lvc.dcx = 0 ∧ (raise code noInst m u).lvc.buck = 0 ∧ (raise code noInst m u).saf.lvC = false ∧ (raise code noInst m u).saf.lvP = false) ∧
      Grows s (raise code noInst m u) ∧ (raise code noInst m u).beyond = s.beyond := by
  obtain ⟨act, grows, same⟩ := raise_after code noInst m faults (by omega) (by omega)
  exact ⟨act, fun quiet => raise_stopLv code m u code3 ((active_of faults _ _).trans quiet), grows, same.trans beyond⟩

end Sys2Proof.Machine
end

section
/-! The start, the stop and the restart of the LV converter. -/

namespace Sys2Proof.Machine

/-! ## Starts (R293, R300, R307) -/

theorem dueStart_clause (s : State) (v48 rs ls : Q) (us : Nat) (ring : Q) (boot : List (Chan × Q)) (present : s.fn 5 = true) (due : s.lvc.due = true) (ready : s.lvReady = true) :
    Answers (exec (.lvConverterStart v48 rs ls us ring boot) s) fun t => SameButFaults { s with lvc := { s.lvc with v48 := v48, due := false, f3Stop := false, dcx := 1, buck := 0, retries := 0, freq := 2 * s.pf 0x58 0 0, srOn := t.lvc.srOn }, saf := { s.saf with lvC := true, lvP := true }, pwm := t.pwm, gd := t.gd } t ∧ (∀ k, k ≠ 5 → k ≠ 6 → t.pwm.get k = s.pwm.get k) ∧ (t.pwm.get 5).running = true ∧ (∀ d : Chan, d.val ≠ 29 → d.val ≠ 30 → t.gd.ch.get d = s.gd.ch.get d) ∧
      ∀ c, 0x3801 ≤ c → c ≤ 0x380A → active c noInst t = false := by
  have run : exec (.lvConverterStart v48 rs ls us ring boot) s = .next (lvBegin { s with lvc := { s.lvc with v48 := v48 } }) :=
    (if_neg fun k => Bool.noConfusion (k.symm.trans present)).trans ((if_pos due).trans (if_pos ready))
  exact ⟨_, run, lvBegin_starts { s with lvc := { s.lvc with v48 := v48 } }⟩

/-- The state in which V48 has ended the DCX's start. -/
def dcxReached (v48 : Q) (us : Nat) (ring : Q) (s : State) : State := { s with lvc := { s.lvc with dcx := 2, v48 := v48, freq := dcxFreq s us ring } }

theorem levelReached_clause (s : State) (v48 rs ls : Q) (us : Nat) (ring : Q) (boot : List (Chan × Q)) (present : s.fn 5 = true) (due : s.lvc.due = false) (starts : s.lvc.dcx = 1) (level : 9 / 160 * s.vMin ≤ v48) :
    (buckPresent s = false → exec (.lvConverterStart v48 rs ls us ring boot) s = .next { s with lvc := { s.lvc with dcx := 2, v48 := v48, freq := dcxFreq s us ring } }) ∧
      (buckPresent s = true → (phases6 s).any (fun n => !phaseBad s n && phaseDue s n) = true → exec (.lvConverterStart v48 rs ls us ring boot) s = .next { s with lvc := { s.lvc with dcx := 2, v48 := v48, freq := dcxFreq s us ring, buck := 1 } }) := by
  have run : exec (.lvConverterStart v48 rs ls us ring boot) s = .next (if buckPresent s then buckDiag rs ls boot (dcxReached v48 us ring s) else dcxReached v48 us ring s) := by
    refine (if_neg fun k => Bool.noConfusion (k.symm.trans present)).trans ((if_neg (ne_true_of_eq_false due)).trans ((if_neg ?_).trans (if_pos ⟨starts, level⟩)))
    rw [starts]
    decide
  refine ⟨fun absent => run.trans (congrArg _ (if_neg (ne_true_of_eq_false absent))), fun buck diag => run.trans (congrArg _ ((if_pos buck).trans (if_pos diag)))⟩

/-! ## Retries (R307, R308) -/

theorem retry_clause (s : State) (rs ls : Q) (boot : List (Chan × Q)) (ms : Nat) (hiccup : s.lvc.buck = 4) (off : 200 ≤ ms) (left : (phases6 s).filter (fun n => !phaseBad s n) ≠ []) (sense : s.remotePresent = false ∨ absQ (rs - ls) ≤ s.pf 0x58 1 72) :
    Answers (exec (.hiccupRetry rs ls boot ms) s) fun t => t.lvc.vref = ls ∧ t.lvc.act = (phases6 s).filter (fun n => !phaseBad s n) ∧ t.lvc.held = [] ∧ t.lvc.fbLocal = !s.remotePresent ∧ t.lvc.senseLost = false ∧ t.lvc.ovHold = false ∧ (t.lvc.buck = 3 ∧ ls = vSet t ∨ t.lvc.buck = 2 ∧ ls ≠ vSet t) ∧
      (t.pwm.get 7).running = true ∧ (t.pwm.get 7).precharged = (t.lvc.act.map buckHigh).filter (bootLow (readBoot boot s)) ∧ (t.pwm.get 7).preLeft = (if (t.pwm.get 7).precharged = [] then 0 else 800) ∧ (∀ k, k ≠ 7 → t.pwm.get k = s.pwm.get k) ∧ t = { s with lvc := t.lvc, pwm := t.pwm, gd := t.gd } := by
  obtain ⟨k, gd, state, writes⟩ := buckSoftStart_runs boot left sense
  have run : exec (.hiccupRetry rs ls boot ms) s = .next _ := (if_pos ⟨hiccup, off⟩).trans (congrArg Host.Outcome.next writes)
  refine ⟨_, run, rfl, rfl, rfl, rfl, rfl, rfl, state, ?_⟩
  dsimp only
  rw [Tab.get_put_same]
  exact ⟨rfl, rfl, rfl, fun j n => Tab.get_put_other _ _ _ _ n, rfl⟩

theorem retryNone_clause (s : State) (rs ls : Q) (boot : List (Chan × Q)) (ms : Nat) (hiccup : s.lvc.buck = 4) (off : 200 ≤ ms) (empty : (phases6 s).filter (fun n => !phaseBad s n) = []) :
    Answers (exec (.hiccupRetry rs ls boot ms) s) fun t => active 0x3809 noInst t = true ∧ Grows s t ∧ t.beyond = s.beyond := by
  have run : exec (.hiccupRetry rs ls boot ms) s = .next _ := (if_pos ⟨hiccup, off⟩).trans (congrArg Host.Outcome.next (buckSoftStart_none rs ls boot empty))
  obtain ⟨act, grows, beyond⟩ := raise_after 0x3809 noInst 0 (stopBuck_faults 0 s)
  exact ⟨_, run, act, grows, beyond.trans (stopBuck_beyond 0 s)⟩

/-! ## Stops and restarts (R293, R294, R300) -/

theorem stop_clause (s : State) (cause : s.sys.mode = .ready ∨ active 0x3801 noInst s = true ∨ active 0x3802 noInst s = true ∨ active 0x380A noInst s = true) :
    Answers (exec .lvConverterStop s) fun t => t.lvc.dcx = 0 ∧ t.lvc.buck = 0 ∧ t.lvc.due = false ∧ (∀ d : Chan, 27 ≤ d.val → d.val < 43 → (t.gd.ch.get d).out ≠ .on) ∧
      (s.sys.mode ≠ .ready → t.saf.lvC = false ∧ t.saf.lvP = false) ∧ (s.sys.mode = .ready → t.saf = s.saf) ∧ t = { s with gd := t.gd, lvc := t.lvc, pwm := t.pwm, saf := t.saf } := by
  obtain ⟨only, dcx, buck, due, -, fault, ready⟩ := stopLv_parts (decide (s.sys.mode ≠ .ready)) s
  exact ⟨_, if_pos cause, dcx, buck, due, stopLv_channels _ s, fun mode => fault (decide_eq_true mode), fun mode => ready (decide_eq_false (not_not.2 mode)), only⟩

theorem restart_clause (s : State) (present : s.fn 5 = true) (mode : s.sys.mode = .convert ∨ s.sys.mode = .drive ∨ s.sys.mode = .charge ∨ (s.sys.mode = .safe ∧ (lvFaultStop s = true ∨ (s.cat.locked = true ∧ s.sys.dcInside = true ∧ s.sup.biasB = true)))) (ready : s.lvReady = true) :
    (s.lvc.dcx = 0 → Answers (exec .lvRestartRequest s) fun t => SameButFaults { s with lvc := { s.lvc with due := false, f3Stop := false, dcx := 1, buck := 0, retries := 0, freq := 2 * s.pf 0x58 0 0, srOn := t.lvc.srOn }, saf := { s.saf with lvC := true, lvP := true }, pwm := t.pwm, gd := t.gd } t ∧ (∀ k, k ≠ 5 → k ≠ 6 → t.pwm.get k = s.pwm.get k) ∧ (t.pwm.get 5).running = true ∧ (∀ d : Chan, d.val ≠ 29 → d.val ≠ 30 → t.gd.ch.get d = s.gd.ch.get d) ∧ ∀ c, 0x3801 ≤ c → c ≤ 0x380A → active c noInst t = false) ∧
      (s.lvc.dcx = 2 → s.fn 6 = true → s.lvc.buck = 0 ∨ s.lvc.buck = 5 → Answers (exec .lvRestartRequest s) fun t => SameButFaults { s with lvc := { s.lvc with retries := 0, f3Stop := false, buck := 1 } } t ∧ ∀ c, 0x3801 ≤ c → c ≤ 0x380A → active c noInst t = false) := by
  have modeOk : (decide (s.sys.mode = .convert ∨ s.sys.mode = .drive ∨ s.sys.mode = .charge) || (decide (s.sys.mode = .safe) && (lvFaultStop s || lvSafeOk s))) = true := by
    unfold lvSafeOk
    simp only [Bool.or_eq_true, Bool.and_eq_true, decide_eq_true_eq, or_assoc, and_assoc]
    exact mode
  have allowed : ¬(s.fn 5 = false ∨ (decide (s.sys.mode = .convert ∨ s.sys.mode = .drive ∨ s.sys.mode = .charge) || (decide (s.sys.mode = .safe) && (lvFaultStop s || lvSafeOk s))) = false ∨ s.lvReady = false) := by
    rw [present, modeOk, ready]
    decide
  refine ⟨fun stopped => ?_, fun runs buck stops => ?_⟩
  · have run : exec .lvRestartRequest s = .next (lvBegin s) := congrArg Host.Outcome.next ((if_neg allowed).trans (if_pos stopped))
    exact ⟨_, run, lvBegin_starts s⟩
  · have dcx : ¬s.lvc.dcx = 0 := by rw [runs]; decide
    have run : exec .lvRestartRequest s = .next { clearLvFaults s with lvc := { (clearLvFaults s).lvc with retries := 0, f3Stop := false, buck := 1 } } :=
      congrArg Host.Outcome.next ((if_neg allowed).trans ((if_neg dcx).trans (if_pos ⟨runs, buck, stops⟩)))
    have same := clearLv_same s
    have off := clearLv_off s
    generalize clearLvFaults s = u at run same off
    exact ⟨_, run, same.updLvc fun l => { l with retries := 0, f3Stop := false, buck := 1 }, fun c low high => off c ⟨low, high⟩⟩

theorem v48Faults_clause (s : State) (v48 : Q) (k : Nat) :
    (s.lvc.dcx = 1 → v48 < 9 / 160 * s.vMin → s.pf 0x58 0 4 * 1000 + 5 ≤ k → Answers (exec (.dcxStartTimeout v48 k) s) fun t => active 0x380A noInst t = true ∧ (active 0x380A noInst s = false → t.lvc.dcx = 0 ∧ t.lvc.buck = 0 ∧ t.saf.lvC = false ∧ t.saf.lvP = false) ∧ Grows s t ∧ t.beyond = s.beyond) ∧
      (s.lvc.dcx = 2 → s.pf 0x58 0 16 < v48 → 50 ≤ k → Answers (exec (.v48Overvoltage v48 k) s) fun t => active 0x3801 noInst t = true ∧ (active 0x3801 noInst s = false → t.lvc.dcx = 0 ∧ t.lvc.buck = 0 ∧ t.saf.lvC = false ∧ t.saf.lvP = false) ∧ Grows s t ∧ t.beyond = s.beyond) ∧
      (s.lvc.dcx = 2 → v48 < s.pf 0x58 0 12 → 50 ≤ k → Answers (exec (.v48Undervoltage v48 k) s) fun t => active 0x3802 noInst t = true ∧ (active 0x3802 noInst s = false → t.lvc.dcx = 0 ∧ t.lvc.buck = 0 ∧ t.saf.lvC = false ∧ t.saf.lvP = false) ∧ Grows s t ∧ t.beyond = s.beyond) :=
  ⟨fun starts level late => ⟨_, if_pos ⟨starts, level, late⟩, raise_lvFault 0x380A _ (.inr (.inr rfl)) rfl rfl⟩,
   fun runs above held => ⟨_, if_pos ⟨runs, above, held⟩, raise_lvFault 0x3801 _ (.inl rfl) rfl rfl⟩,
   fun runs below held => ⟨_, if_pos ⟨runs, below, held⟩, raise_lvFault 0x3802 _ (.inr (.inl rfl)) rfl rfl⟩⟩

/-! ## The obligation -/

/-- Settles O31, clause by clause: a due start, V48 at its level, a retry with and without a phase to start, a stop, a restart, and the faults of the DCX. -/
theorem lvStartStop : Obligations.LvStartStop := by
  unfold Obligations.LvStartStop
  exact ⟨dueStart_clause, levelReached_clause, retry_clause, retryNone_clause, stop_clause, restart_clause, v48Faults_clause⟩

end Sys2Proof.Machine
end

section
/-! SUPPORT. A period of the buck, a slot of its loop and a held phase (11_lv_converter.md, R297 to R306). -/

namespace Sys2Proof.Machine

/-! ## A period begins (R301) -/

/-- The state in which a slot acts: a new period where it begins one. -/
def slotPeriod (n : Fin 6) (x : SlotIn) (s : State) : State := if beginsPeriod s n then newPeriod x (respace s) else s

/-- A period start writes the order of the phases, their delay, the triangle's phase and T. -/
theorem newPeriod_respace (x : SlotIn) (s : State) :
    newPeriod x (respace s) = { s with lvc := { s.lvc with slots := s.lvc.act, slotD := (respace s).lvc.slotD, ssPhase := (s.lvc.ssPhase + s.pf 0x58 1 12 * s.lvc.tPer) - ((s.lvc.ssPhase + s.pf 0x58 1 12 * s.lvc.tPer).floor : Q), tPer := (newPeriod x (respace s)).lvc.tPer } } := rfl
theorem newPeriod_tPer (x : SlotIn) (s : State) :
    (newPeriod x (respace s)).lvc.tPer = divQ 1 (s.pf 0x58 1 4 * (1 + s.pf 0x58 1 8 * (1 - 4 * absQ ((newPeriod x (respace s)).lvc.ssPhase - 1 / 2))) * (1 + clampQ (-3 / 100) (3 / 100) x.ring)) := rfl
/-- Whatever the slot, only these registers of the period can differ. -/
theorem slotPeriod_only (n : Fin 6) (x : SlotIn) (s : State) :
    slotPeriod n x s = { s with lvc := { s.lvc with slots := (slotPeriod n x s).lvc.slots, slotD := (slotPeriod n x s).lvc.slotD, ssPhase := (slotPeriod n x s).lvc.ssPhase, tPer := (slotPeriod n x s).lvc.tPer } } := by
  unfold slotPeriod
  split
  · exact newPeriod_respace x s
  · rfl

/-! ## A slot (R297, R302, R305) -/

/-- The fold-back of a slot that reads `x`. -/
def slotFold (x : SlotIn) (s : State) : Q := foldBack (divQ (if s.lvc.fbLocal then x.ls else x.rs) (vSet s))

/-- The loop's registers after a slot of `n` on the readings `x`, for the integrators, the limiter and the on-time it forms. -/
def slotLvc (n : Fin 6) (x : SlotIn) (s : State) (xv xi : Q) (ilim : Bool) (ton : Q) : Lvc :=
  { s.lvc with
    ph := s.lvc.ph.put n (phaseCurrent s n x.vSw), rs := x.rs, ls := x.ls, v48 := x.v48, delay := s.lvc.delay.put n 0, waiting := s.lvc.waiting.filter (· ≠ n)
    xv := xv, xi := xi, ilim := ilim, fold := decide (slotFold x s < 1), iFold := iBase s * slotFold x s, ton := s.lvc.ton.put n ton }

/-- The loop gives the phase an on-time inside its period. -/
theorem slotLoop_writes (n : Fin 6) (x : SlotIn) (s : State) (period : 0 ≤ s.lvc.tPer) :
    ∃ xv xi ilim ton, 0 ≤ ton ∧ ton ≤ s.lvc.tPer ∧ slotLoop n (slotRead n x s) = { s with lvc := slotLvc n x s xv xi ilim ton } := by
  have inside (q : Q) : 0 ≤ clampQ 0 s.lvc.tPer q ∧ clampQ 0 s.lvc.tPer q ≤ s.lvc.tPer := clampQ_mem 0 s.lvc.tPer q period
  exact ⟨_, _, _, _, (inside _).1, (inside _).2, rfl⟩

/-- A slot that acts writes the loop's registers; the rectifiers follow it (R299). -/
theorem slotCore_writes (n : Fin 6) (x : SlotIn) (s : State) (period : 0 ≤ s.lvc.tPer) :
    ∃ xv xi ilim ton, 0 ≤ ton ∧ ton ≤ s.lvc.tPer ∧
      slotCore n x s = { s with gd := (slotCore n x s).gd, pwm := (slotCore n x s).pwm, lvc := { slotLvc n x s xv xi ilim ton with srOn := (slotCore n x s).lvc.srOn } } := by
  obtain ⟨xv, xi, ilim, ton, low, high, writes⟩ := slotLoop_writes n x s period
  refine ⟨xv, xi, ilim, ton, low, high, ?_⟩
  unfold slotCore
  rw [writes]
  exact setSr_parts _
theorem slotCore_pwm_other {k : Grp} (n : Fin 6) (x : SlotIn) (s : State) (sr : k ≠ 6) : (slotCore n x s).pwm.get k = s.pwm.get k := setSr_pwm_other _ sr
theorem slotCore_channel_other {d : Chan} (n : Fin 6) (x : SlotIn) (s : State) (first : d.val ≠ 29) (second : d.val ≠ 30) : (slotCore n x s).gd.ch.get d = s.gd.ch.get d := setSr_channel_other _ first second

/-- What decides whether a slot of an active phase acts (R301, R312 to R314). -/
theorem buckTurnOnSlot_eq {s : State} {n : Fin 6} (x : SlotIn) (on : s.lvc.buck = 2 ∨ s.lvc.buck = 3) (phase : n ∈ s.lvc.act) :
    exec (.buckTurnOnSlot n x) s = if (slotPeriod n x s).lvc.ovHold = false ∧ slotSkipped (slotPeriod n x s) x = false ∧ x.off = (slotPart (slotPeriod n x s).lvc.slots n + (slotPeriod n x s).lvc.slotD) * (slotPeriod n x s).lvc.tPer then
      .next (slotCore n x (endResponse (slotPeriod n x s))) else .next (slotPeriod n x s) := if_pos ⟨on, phase⟩
/-- Outside a hold and a response a slot acts at its place. -/
theorem slot_runs {s : State} {n : Fin 6} {x : SlotIn} (on : s.lvc.buck = 2 ∨ s.lvc.buck = 3) (phase : n ∈ s.lvc.act) (hold : s.lvc.ovHold = false) (response : s.inResponse = false)
    (place : x.off = (slotPart (slotPeriod n x s).lvc.slots n + (slotPeriod n x s).lvc.slotD) * (slotPeriod n x s).lvc.tPer) : exec (.buckTurnOnSlot n x) s = .next (slotCore n x (slotPeriod n x s)) := by
  have only := slotPeriod_only n x s
  rw [buckTurnOnSlot_eq x on phase]
  generalize slotPeriod n x s = u at only place
  have hold' : u.lvc.ovHold = false := by rw [only]; exact hold
  have response' : u.inResponse = false := by rw [only]; exact response
  have acts : slotSkipped u x = false := by unfold slotSkipped; rw [response']; rfl
  have still : endResponse u = u := if_neg (ne_true_of_eq_false response')
  rw [if_pos ⟨hold', acts, place⟩, still]

/-! ## A held phase (R306) -/

theorem turnOff_cmd (c : Chan) (s : State) : ((turnOff c s).gd.ch.get c).cmd = false := by
  rw [turnOff_gd]
  split
  · rw [updCh_gets, if_pos rfl]
  · rw [updCh_gets, if_pos rfl]

/-- The phase is no longer held. -/
def unheld (n : Fin 6) (s : State) : State := { s with lvc := { s.lvc with held := s.lvc.held.filter (· ≠ n) } }

theorem releaseHeld_free {n : Fin 6} {s : State} (ft : Int) (free : n ∉ s.lvc.held) : releaseHeld n ft s = s := if_neg fun k => free (List.contains_iff_mem.1 k)
theorem unheld_free {n : Fin 6} {s : State} (free : n ∉ s.lvc.held) : unheld n s = s := by
  have same : s.lvc.held.filter (· ≠ n) = s.lvc.held := List.filter_eq_self.2 fun m mem => decide_eq_true fun e => free (e ▸ mem)
  unfold unheld
  rw [same]
/-- A release before the slot ends the hold alone. -/
theorem releaseHeld_early {n : Fin 6} {s : State} {ft : Int} (held : n ∈ s.lvc.held) (early : ft ≤ 0) : releaseHeld n ft s = unheld n s := by
  unfold releaseHeld
  rw [if_pos (List.contains_iff_mem.2 held), if_neg (not_lt.2 early), if_neg (not_lt.2 early)]
  rfl
/-- A release past the slot turns the low side off and delays the phase's turn-on by as much. -/
theorem releaseHeld_late {n : Fin 6} {s : State} {ft : Int} (held : n ∈ s.lvc.held) (late : 0 < ft) :
    releaseHeld n ft s = turnOff (buckLow n) { s with lvc := { s.lvc with held := s.lvc.held.filter (· ≠ n), delay := s.lvc.delay.put n ft } } := by
  unfold releaseHeld
  rw [if_pos (List.contains_iff_mem.2 held), if_pos late, if_pos late]
/-- Whatever the moment, a release ends the hold and touches beside it the gate drive and the delay. -/
theorem releaseHeld_only (n : Fin 6) (ft : Int) (s : State) :
    releaseHeld n ft s = { s with gd := (releaseHeld n ft s).gd, lvc := { s.lvc with held := s.lvc.held.filter (· ≠ n), delay := (releaseHeld n ft s).lvc.delay } } := by
  by_cases held : n ∈ s.lvc.held
  · rcases le_or_gt ft 0 with early | late
    · rw [releaseHeld_early held early]
      rfl
    · rw [releaseHeld_late held late, turnOff_only]
  · rw [releaseHeld_free ft held]
    exact (unheld_free held).symm

/-! ## The reference (R304) -/

theorem stepToward_step {d x v : Q} (positive : 0 ≤ d) : absQ (stepToward d x v - x) ≤ d := by
  rw [absQ_eq_abs, abs_le]
  unfold stepToward
  split
  · constructor <;> linarith
  · split
    · constructor <;> linarith
    · constructor <;> linarith
/-- A step does not move the reference away from the setpoint. -/
theorem stepToward_nearer {d x v : Q} (positive : 0 ≤ d) : absQ (v - stepToward d x v) ≤ absQ (v - x) := by
  rw [absQ_eq_abs, absQ_eq_abs]
  unfold stepToward
  split
  next below => rw [abs_of_neg (by linarith), abs_of_neg (by linarith)]; linarith
  next =>
    split
    next above => rw [abs_of_pos (by linarith), abs_of_pos (by linarith)]; linarith
    next => rw [sub_self, abs_zero]; exact abs_nonneg _

end Sys2Proof.Machine
end

section
/-! The loop of the 14 V buck, its setpoint and its sense pair. -/

namespace Sys2Proof.Machine

/-! ## Slots (R297, R301, R302, R305, R312) -/

theorem slot_clause (s u : State) (n : Fin 6) (x : SlotIn) (on : s.lvc.buck = 2 ∨ s.lvc.buck = 3) (phase : n ∈ s.lvc.act) (hold : s.lvc.ovHold = false) (response : s.inResponse = false)
    (period : u = (if beginsPeriod s n then newPeriod x (respace s) else s)) (place : x.off = (slotPart u.lvc.slots n + u.lvc.slotD) * u.lvc.tPer) (positive : 0 ≤ u.lvc.tPer) :
    Answers (exec (.buckTurnOnSlot n x) s) fun t => t.lvc.ph = s.lvc.ph.put n (phaseCurrent s n x.vSw) ∧ t.lvc.rs = x.rs ∧ t.lvc.ls = x.ls ∧ t.lvc.v48 = x.v48 ∧
      (beginsPeriod s n = false → t.lvc.tPer = s.lvc.tPer) ∧ (beginsPeriod s n = true → t.lvc.slots = s.lvc.act ∧ t.lvc.ssPhase = (s.lvc.ssPhase + s.pf 0x58 1 12 * s.lvc.tPer) - ((s.lvc.ssPhase + s.pf 0x58 1 12 * s.lvc.tPer).floor : Q) ∧
        t.lvc.tPer = divQ 1 (s.pf 0x58 1 4 * (1 + s.pf 0x58 1 8 * (1 - 4 * absQ (t.lvc.ssPhase - 1 / 2))) * (1 + clampQ (-3 / 100) (3 / 100) x.ring))) ∧
      t.lvc.iFold = iBase s * foldBack (divQ (if s.lvc.fbLocal then x.ls else x.rs) (vSet s)) ∧ t.lvc.fold = decide (foldBack (divQ (if s.lvc.fbLocal then x.ls else x.rs) (vSet s)) < 1) ∧
      (∃ q, t.lvc.ton = s.lvc.ton.put n q ∧ 0 ≤ q ∧ q ≤ t.lvc.tPer) ∧ (∀ k, k ≠ 6 → t.pwm.get k = s.pwm.get k) ∧ (∀ d : Chan, d.val ≠ 29 → d.val ≠ 30 → t.gd.ch.get d = s.gd.ch.get d) ∧
      t = { u with gd := t.gd, pwm := t.pwm, lvc := { u.lvc with ph := t.lvc.ph, rs := t.lvc.rs, ls := t.lvc.ls, v48 := t.lvc.v48, delay := s.lvc.delay.put n 0, waiting := s.lvc.waiting.filter (· ≠ n), xv := t.lvc.xv, xi := t.lvc.xi, ilim := t.lvc.ilim, fold := t.lvc.fold, iFold := t.lvc.iFold, srOn := t.lvc.srOn, ton := t.lvc.ton } } := by
  replace period : u = slotPeriod n x s := period
  have run : exec (.buckTurnOnSlot n x) s = .next (slotCore n x u) := period ▸ slot_runs on phase hold response (period ▸ place)
  obtain ⟨xv, xi, ilim, ton, low, high, writes⟩ := slotCore_writes n x u positive
  have carriers (k : Grp) (sr : k ≠ 6) : (slotCore n x u).pwm.get k = u.pwm.get k := slotCore_pwm_other n x u sr
  have channels (d : Chan) (first : d.val ≠ 29) (second : d.val ≠ 30) : (slotCore n x u).gd.ch.get d = u.gd.ch.get d := slotCore_channel_other n x u first second
  have goesOn : beginsPeriod s n = false → u.lvc.tPer = s.lvc.tPer := fun goes => congrArg (fun v => v.lvc.tPer) (period.trans (if_neg (ne_true_of_eq_false goes)))
  have begun : beginsPeriod s n = true → u = newPeriod x (respace s) := fun begins => period.trans (if_pos begins)
  obtain ⟨slots, slotD, ssPhase, tPer, only⟩ : ∃ slots slotD ssPhase tPer, u = { s with lvc := { s.lvc with slots := slots, slotD := slotD, ssPhase := ssPhase, tPer := tPer } } := ⟨_, _, _, _, period ▸ slotPeriod_only n x s⟩
  refine ⟨_, run, ?_⟩
  beta_reduce
  generalize slotCore n x u = t at writes carriers channels
  generalize t.gd = gd at writes channels
  generalize t.pwm = pwm at writes carriers
  generalize t.lvc.srOn = sr at writes
  subst writes
  subst only
  refine ⟨rfl, rfl, rfl, rfl, goesOn, fun begins => ?_, rfl, rfl, ⟨ton, rfl, low, high⟩, carriers, channels, rfl⟩
  have fresh := begun begins
  have spread := newPeriod_tPer x s
  rw [← fresh] at spread
  exact ⟨congrArg (fun v => v.lvc.slots) fresh, congrArg (fun v => v.lvc.ssPhase) fresh, spread⟩

theorem slotSkipped_clause (s : State) (n : Fin 6) (x : SlotIn) (on : s.lvc.buck = 2 ∨ s.lvc.buck = 3) (phase : n ∈ s.lvc.act) (response : s.inResponse = true)
    (lasts : ∀ ns, x.sinceNs = some ns → (ns : Q) / 1000000000 < s.pf 0x58 1 80 + 1 / 1000000) : exec (.buckTurnOnSlot n x) s = .next (if beginsPeriod s n then newPeriod x (respace s) else s) := by
  have only := slotPeriod_only n x s
  show _ = Host.Outcome.next (slotPeriod n x s)
  rw [buckTurnOnSlot_eq x on phase]
  generalize slotPeriod n x s = u at only
  have skipped : slotSkipped u x = true := by
    have response' : u.inResponse = true := by rw [only]; exact response
    have us : u.pf 0x58 1 80 = s.pf 0x58 1 80 := by rw [only]; rfl
    unfold slotSkipped
    rw [response', us]
    cases since : x.sinceNs with
    | none => rfl
    | some ns => simpa using lasts ns since
  exact if_neg fun ⟨_, acts, _⟩ => Bool.noConfusion (skipped.symm.trans acts)

/-! ## The current limit of a phase (R306) -/

theorem currentLimit_clause (s : State) (n : Fin 6) (ft : Int) (i : Q) (on : s.lvc.buck = 2 ∨ s.lvc.buck = 3) (phase : n ∈ s.lvc.act) (low : (s.gd.ch.get (buckLow n)).out = .on) :
    (s.pf 0x58 1 40 < i → exec (.phaseCurrentLimit n ft i) s = .next { s with lvc := { s.lvc with held := n :: s.lvc.held.filter (· ≠ n) } }) ∧
      (i ≤ s.pf 0x58 1 40 → (if s.lvc.buck = 2 then 0 else -(s.pf 0x58 1 44)) < i → n ∉ s.lvc.held → exec (.phaseCurrentLimit n ft i) s = .next s) ∧
      (i ≤ s.pf 0x58 1 40 → (if s.lvc.buck = 2 then 0 else -(s.pf 0x58 1 44)) < i → n ∈ s.lvc.held → ft ≤ 0 → exec (.phaseCurrentLimit n ft i) s = .next { s with lvc := { s.lvc with held := s.lvc.held.filter (· ≠ n) } }) ∧
      (i ≤ s.pf 0x58 1 40 → (if s.lvc.buck = 2 then 0 else -(s.pf 0x58 1 44)) < i → n ∈ s.lvc.held → 0 < ft → Answers (exec (.phaseCurrentLimit n ft i) s) fun t => (t.gd.ch.get (buckLow n)).out ≠ .on ∧ (t.gd.ch.get (buckLow n)).cmd = false ∧ t = { s with gd := t.gd, lvc := { s.lvc with held := s.lvc.held.filter (· ≠ n), delay := s.lvc.delay.put n ft } }) ∧
      (i ≤ s.pf 0x58 1 40 → i ≤ (if s.lvc.buck = 2 then 0 else -(s.pf 0x58 1 44)) → Answers (exec (.phaseCurrentLimit n ft i) s) fun t => (t.gd.ch.get (buckLow n)).out ≠ .on ∧ (t.gd.ch.get (buckLow n)).cmd = false ∧ t = { s with gd := t.gd, lvc := { s.lvc with held := s.lvc.held.filter (· ≠ n), delay := t.lvc.delay } }) := by
  have negative : (if s.lvc.buck = 2 then 0 else -(s.pf 0x58 1 44)) = -(if s.lvc.buck = 2 then 0 else s.pf 0x58 1 44) := by split <;> simp
  have exceeds (high : s.pf 0x58 1 40 < i) : exec (.phaseCurrentLimit n ft i) s = .next { s with lvc := { s.lvc with held := n :: s.lvc.held.filter (· ≠ n) } } := (if_pos ⟨on, phase, low⟩).trans (if_pos high)
  have below (under : i ≤ s.pf 0x58 1 40) : exec (.phaseCurrentLimit n ft i) s = if i ≤ -(if s.lvc.buck = 2 then 0 else s.pf 0x58 1 44) then .next (turnOff (buckLow n) (releaseHeld n ft s)) else .next (releaseHeld n ft s) :=
    (if_pos ⟨on, phase, low⟩).trans (if_neg (not_lt.2 under))
  have released (under : i ≤ s.pf 0x58 1 40) (stays : (if s.lvc.buck = 2 then 0 else -(s.pf 0x58 1 44)) < i) : exec (.phaseCurrentLimit n ft i) s = .next (releaseHeld n ft s) :=
    (below under).trans (if_neg (not_le.2 (negative ▸ stays)))
  refine ⟨exceeds, fun under stays free => ?_, fun under stays held early => ?_, fun under stays held late => ?_, fun under ends => ?_⟩
  · rw [released under stays, releaseHeld_free ft free]
  · rw [released under stays, releaseHeld_early held early]
    rfl
  · refine ⟨_, (released under stays).trans (congrArg _ (releaseHeld_late held late)), turnOff_self _ _, turnOff_cmd _ _, ?_⟩
    exact turnOff_only _ _
  · refine ⟨_, (below under).trans (if_pos (negative ▸ ends)), turnOff_self _ _, turnOff_cmd _ _, ?_⟩
    have only := releaseHeld_only n ft s
    generalize releaseHeld n ft s = u at only
    rw [turnOff_only]
    generalize (turnOff (buckLow n) u).gd = gd
    rw [only]

/-! ## The setpoint and the reference (R303, R304, R307) -/

theorem setpoint_clause (s : State) (v : Word) :
    (10000 ≤ v.toNat % 65536 → v.toNat % 65536 ≤ 16000 → 1 ≤ v.toNat / 65536 % 4096 → v.toNat / 65536 % 4096 ≤ 500 → exec (.lvcCmdWrite v) s = .next { s with lvc := { s.lvc with cmd := some (v.toNat / 65536 % 4096, v.toNat % 65536) } }) ∧
      (v.toNat % 65536 < 10000 ∨ 16000 < v.toNat % 65536 ∨ v.toNat / 65536 % 4096 < 1 ∨ 500 < v.toNat / 65536 % 4096 → Answers (exec (.lvcCmdWrite v) s) fun t => active 0x3808 noInst t = true ∧ SameButFaults { s with lvc := { s.lvc with cmd := some (v.toNat / 65536 % 4096, v.toNat % 65536) } } t) :=
  ⟨fun low high slow fast => congrArg Host.Outcome.next (if_neg (by omega)), fun outside => ⟨_, congrArg Host.Outcome.next (if_pos outside), raiseBase_active _ _ _ _, raiseBase_same _ _ _ _⟩⟩

theorem reference_clause (s : State) :
    (s.lvc.buck = 3 → exec .referenceStep s = .next { s with lvc := { s.lvc with vref := stepToward (slewStep s) s.lvc.vref (vSet s) } }) ∧
      (s.lvc.buck = 2 → exec .referenceStep s = .next { s with lvc := { s.lvc with vref := stepToward s.lvc.ssRate s.lvc.vref (vSet s), buck := if stepToward s.lvc.ssRate s.lvc.vref (vSet s) = vSet s then 3 else 2 } }) ∧
      (∀ d, 0 ≤ d → absQ (stepToward d s.lvc.vref (vSet s) - s.lvc.vref) ≤ d ∧ absQ (vSet s - stepToward d s.lvc.vref (vSet s)) ≤ absQ (vSet s - s.lvc.vref)) :=
  ⟨fun runs => (if_neg (by rw [runs]; decide)).trans (if_pos runs), fun soft => if_pos soft, fun _ positive => ⟨stepToward_step positive, stepToward_nearer positive⟩⟩

/-! ## The sense pair and the retries (R308, R311) -/

theorem senseLoss_clause (s : State) (rs ls : Q) (us : Nat) (on : s.lvc.buck = 2 ∨ s.lvc.buck = 3) (remote : s.remotePresent = true) (used : s.lvc.fbLocal = false) (apart : s.pf 0x58 1 72 < absQ (rs - ls)) (held : 20 ≤ us) :
    Answers (exec (.remoteSenseLoss rs ls us) s) fun t => active 0x3803 noInst t = true ∧ SameButFaults { s with lvc := { s.lvc with rs := rs, ls := ls, senseLost := true, fbLocal := true, vref := ls } } t :=
  ⟨_, if_pos ⟨on, remote, used, apart, held⟩, raise_active _ _ _ _, raise_low_same 0x3803 _ _ _ (fun _ => show 2 < 3 by decide) (by decide)⟩

theorem retriesReset_clause (s : State) (ls : Q) (ms : Nat) (runs : s.lvc.buck = 3) (level : 7 / 10 * vSet s ≤ ls) (held : 1000 ≤ ms) : exec (.retriesReset ls ms) s = .next { s with lvc := { s.lvc with ls := ls, retries := 0 } } := if_pos ⟨runs, level, held⟩

/-! ## The obligation -/

/-- Settles O32, clause by clause: a slot that acts and one that is skipped, the current limit, the setpoint, the reference, the sense pair and the count of retries. -/
theorem lvLoop : Obligations.LvLoop := by
  unfold Obligations.LvLoop
  exact ⟨slot_clause, slotSkipped_clause, currentLimit_clause, setpoint_clause, reference_clause, senseLoss_clause, retriesReset_clause⟩

end Sys2Proof.Machine
end

section
/-! SUPPORT. What a stop of the buck, a release of the load and the stop of a phase write (11_lv_converter.md, R308, R312 to R316; 12_charging_services.md,
R343). -/

namespace Sys2Proof.Machine

/-! ## The buck stops (R308, R310) -/

/-- The buck's carrier stops; beside it a stop touches the rectifiers' carrier alone (R299). -/
theorem stopBuck_carrier (k : Nat) (s : State) : ((stopBuck k s).pwm.get 7).running = false := by
  unfold stopBuck
  dsimp only
  rw [setSr_pwm_other _ (by decide)]
  dsimp only
  rw [Tab.get_upd_same]
theorem stopBuck_pwm_other {j : Grp} (k : Nat) (s : State) (sr : j ≠ 6) (buck : j ≠ 7) : (stopBuck k s).pwm.get j = s.pwm.get j := by
  unfold stopBuck
  dsimp only
  rw [setSr_pwm_other _ sr, stopChans_only]
  exact Tab.get_upd_other _ _ _ _ buck

/-! ## A release while the LV battery charges (R343) -/

theorem lvcWrite_chg (v : Nat) (s : State) : (lvcWrite v s).chg = s.chg := by
  unfold lvcWrite
  dsimp only
  split
  · rw [raiseBase_same]
  · rfl
theorem lvRelease_idle {s : State} (idle : s.chg.lvChg = false) : lvRelease s = s := if_neg (ne_true_of_eq_false idle)
/-- The battery counts as lost, with 0x4009; no fault ends. -/
theorem lvRelease_charging {s : State} (charging : s.chg.lvChg = true) : (lvRelease s).chg.lvChg = false ∧ (lvRelease s).chg.lvLost = true ∧ Grows s (lvRelease s) ∧ active 0x4009 noInst (lvRelease s) = true := by
  have run : lvRelease s = raiseBase 0x4009 noInst 0 (lvCharge (s.pf 0x60 0 92) { s with chg := { s.chg with lvChg := false, lvLost := true } }) := if_pos charging
  have kept : (lvRelease s).chg = { s.chg with lvChg := false, lvLost := true } := by
    rw [run, raiseBase_same]
    exact lvcWrite_chg _ _
  have grows := lvCharge_grows (s.pf 0x60 0 92) { s with chg := { s.chg with lvChg := false, lvLost := true } }
  rw [kept]
  refine ⟨rfl, rfl, ?_, ?_⟩
  · rw [run]
    exact (Grows.of_eq rfl).trans (grows.trans (raiseBase_grows _ _ _ _))
  · rw [run]
    exact raiseBase_active _ _ _ _

/-! ## A phase stops (R242, R316) -/

theorem stopPhase_only (n : Fin 6) (s : State) :
    stopPhase n s = { s with gd := (stopPhase n s).gd, lvc := { s.lvc with act := s.lvc.act.filter (· ≠ n), held := s.lvc.held.filter (· ≠ n), delay := s.lvc.delay.put n 0, waiting := s.lvc.waiting.filter (· ≠ n) } } := by
  unfold stopPhase
  dsimp only
  rw [stopChan_only, stopChan_only]
theorem stopPhase_off (n : Fin 6) (s : State) : (stopPhase n s).gd.offAt (buckLow n) ∧ (stopPhase n s).gd.offAt (buckHigh n) :=
  ⟨stopChan_off _ _, stopChan_offAt _ _ _ (stopChan_off s _)⟩
theorem lastPhase_left {b : Nat} {s : State} (left : s.lvc.act ≠ []) : lastPhase b s = s := if_neg fun k => left k.2
/-- The last phase of a buck that ran raises 0x3809. -/
theorem lastPhase_raises {b : Nat} {s : State} (ran : b = 2 ∨ b = 3) (empty : s.lvc.act = []) : active 0x3809 noInst (lastPhase b s) = true := by
  have run : lastPhase b s = stopBuck 0 (raiseBase 0x3809 noInst 0 s) := if_pos ⟨ran, empty⟩
  rw [run, active_of (stopBuck_faults _ _)]
  exact raiseBase_active _ _ _ _

end Sys2Proof.Machine
end

section
/-! Shorts and hiccup, steep transients, the overvoltage hold and the loss of a phase. -/

namespace Sys2Proof.Machine

/-! ## Shorts (R308) -/

/-- The buck of a short, with its local reading. -/
def shortRead (ls : Q) (s : State) : State := { s with lvc := { s.lvc with ls := ls } }
/-- A buck that has stopped goes into hiccup: the retry and the hiccup count. -/
def hiccup (w : State) : State := { w with lvc := { w.lvc with retries := w.lvc.retries + 1, hiccups := satInc 8 w.lvc.hiccups } }

theorem short_clause (s : State) (ls : Q) (ms : Nat) (runs : s.lvc.buck = 3) (short : ls < vSet s / 5) (held : 5 ≤ ms) :
    (s.lvc.retries < 5 → Answers (exec (.shortCheck ls ms) s) fun t => t.lvc.buck = 4 ∧ t.lvc.retries = s.lvc.retries + 1 ∧ t.lvc.hiccups = satInc 8 s.lvc.hiccups ∧ t.lvc.act = [] ∧ (∀ d, grpOf d = 7 → (t.gd.ch.get d).out ≠ .on) ∧ active 0x3804 noInst t = true ∧
        SameButFaults { s with gd := t.gd, lvc := t.lvc, pwm := t.pwm } t ∧ (t.pwm.get 7).running = false ∧ ∀ k, k ≠ 6 → k ≠ 7 → t.pwm.get k = s.pwm.get k) ∧
      (5 ≤ s.lvc.retries → Answers (exec (.shortCheck ls ms) s) fun t => (∀ d, grpOf d = 7 → (t.gd.ch.get d).out ≠ .on) ∧ active 0x3805 noInst t = true ∧ Grows s t ∧ t.beyond = s.beyond) := by
  refine ⟨fun again => ?_, fun last => ?_⟩
  · have off (d : Chan) (group : grpOf d = 7) : (stopBuck 4 (shortRead ls s)).gd.offAt d := stopBuck_outputs 4 _ d group
    have carrier := stopBuck_carrier 4 (shortRead ls s)
    have other (k : Grp) (sr : k ≠ 6) (buck : k ≠ 7) : (stopBuck 4 (shortRead ls s)).pwm.get k = s.pwm.get k := stopBuck_pwm_other 4 _ sr buck
    have parts := stopBuck_parts 4 (shortRead ls s)
    generalize hw : stopBuck 4 (shortRead ls s) = w at off carrier other parts
    have run : exec (.shortCheck ls ms) s = .next (raise 0x3804 noInst 0 (hiccup w)) := by
      rw [← hw]
      unfold hiccup shortRead
      exact (if_pos ⟨runs, short, held⟩).trans (if_neg (not_le.2 again))
    have only : hiccup w = { s with gd := w.gd, lvc := (hiccup w).lvc, pwm := w.pwm } := by
      rw [parts]
      rfl
    have registers : (hiccup w).lvc.buck = 4 ∧ (hiccup w).lvc.retries = s.lvc.retries + 1 ∧ (hiccup w).lvc.hiccups = satInc 8 s.lvc.hiccups ∧ (hiccup w).lvc.act = [] := by
      rw [parts]
      exact ⟨rfl, rfl, rfl, rfl⟩
    have act := raise_active 0x3804 noInst 0 (hiccup w)
    have same := raise_low_same 0x3804 noInst 0 (hiccup w) (fun _ => show 1 < 3 by decide) (by decide)
    refine ⟨_, run, ?_⟩
    beta_reduce
    generalize raise 0x3804 noInst 0 (hiccup w) = t at same act
    have lvc : t.lvc = (hiccup w).lvc := by rw [same]
    have gd : t.gd = w.gd := by rw [same]; rfl
    have pwm : t.pwm = w.pwm := by rw [same]; rfl
    obtain ⟨state, retries, hiccups, phases⟩ := registers
    rw [lvc, gd, pwm, ← only]
    exact ⟨state, retries, hiccups, phases, off, act, same, carrier, other⟩
  · have run : exec (.shortCheck ls ms) s = .next (raise 0x3805 noInst 0 (stopBuck 5 (shortRead ls s))) := (if_pos ⟨runs, short, held⟩).trans (if_pos last)
    obtain ⟨act, grows, beyond⟩ := raise_after (s := s) 0x3805 noInst 0 (stopBuck_faults 5 (shortRead ls s))
    exact ⟨_, run, fun d group => raise_offAt _ _ _ _ d (stopBuck_outputs 5 _ d group), act, grows, beyond.trans (stopBuck_beyond 5 _)⟩

/-! ## Undershoot and release (R312, R313, R343) -/

theorem undershoot_clause (s : State) (ls top : Q) (since : Option Nat) (judge : judged s since = true) (drop : ls < top - s.lvc.vref / 25) :
    Answers (exec (.undershootResponse ls top since) s) fun t => (∀ n ∈ s.lvc.act, (t.gd.ch.get (buckLow n)).out ≠ .on) ∧ t = { s with gd := t.gd, lvc := { s.lvc with ls := ls, held := [], delay := Tab.fill 0, waiting := s.lvc.act, resp := 1, allph := satInc 8 s.lvc.allph } } := by
  obtain ⟨off, only⟩ := phases_switch buckLow buckHigh buck_ne s.lvc.act s
  refine ⟨_, if_pos ⟨judge, drop⟩, off, ?_⟩
  generalize List.foldl _ s s.lvc.act = u at only
  rw [only]

/-- The buck with its phases switched for a release. -/
def released (ls : Q) (s : State) : State :=
  let u := s.lvc.act.foldl (fun s n => turnOn (buckLow n) (turnOff (buckHigh n) s)) s
  { u with lvc := { u.lvc with ls := ls, held := [], delay := Tab.fill 0, waiting := u.lvc.act, resp := 2, release := satInc 8 u.lvc.release } }
theorem released_only (ls : Q) (s : State) : released ls s = { s with gd := (released ls s).gd, lvc := { s.lvc with ls := ls, held := [], delay := Tab.fill 0, waiting := s.lvc.act, resp := 2, release := satInc 8 s.lvc.release } } := by
  have only := (phases_switch buckHigh buckLow (fun n m => (buck_ne m n).symm) s.lvc.act s).2
  unfold released
  generalize List.foldl _ s s.lvc.act = u at only
  rw [only]

theorem release_clause (s : State) (ls low : Q) (since : Option Nat) (judge : judged s since = true) (rise : low + s.lvc.vref / 25 < ls) :
    (s.chg.lvChg = false → Answers (exec (.releaseResponse ls low since) s) fun t => (∀ n ∈ s.lvc.act, (t.gd.ch.get (buckHigh n)).out ≠ .on) ∧ active 0x3806 noInst t = true ∧ SameButFaults { s with gd := t.gd, lvc := { s.lvc with ls := ls, held := [], delay := Tab.fill 0, waiting := s.lvc.act, resp := 2, release := satInc 8 s.lvc.release } } t) ∧
      (s.chg.lvChg = true → Answers (exec (.releaseResponse ls low since) s) fun t => t.chg.lvChg = false ∧ t.chg.lvLost = true ∧ active 0x3806 noInst t = true ∧ active 0x4009 noInst t = true) := by
  have run : exec (.releaseResponse ls low since) s = .next (lvRelease (raise 0x3806 noInst 0 (released ls s))) := if_pos ⟨judge, rise⟩
  have same := raise_low_same 0x3806 noInst 0 (released ls s) (fun _ => show 1 < 3 by decide) (by decide)
  have act := raise_active 0x3806 noInst 0 (released ls s)
  have off : ∀ n ∈ s.lvc.act, (released ls s).gd.offAt (buckHigh n) := (phases_switch buckHigh buckLow (fun n m => (buck_ne m n).symm) s.lvc.act s).1
  have only := released_only ls s
  generalize raise 0x3806 noInst 0 (released ls s) = t at run same act
  have charge : t.chg = s.chg := by rw [same, only]
  refine ⟨fun idle => ?_, fun charging => ?_⟩
  · rw [lvRelease_idle (charge ▸ idle)] at run
    have gd : t.gd = (released ls s).gd := by rw [same]
    refine ⟨t, run, ?_⟩
    beta_reduce
    rw [gd, ← only]
    exact ⟨off, act, same⟩
  · obtain ⟨ends, lost, grows, fault⟩ := lvRelease_charging (s := t) (charge ▸ charging)
    exact ⟨_, run, ends, lost, grows _ _ act, fault⟩

/-! ## Overvoltage (R314) -/

/-- The buck with every active phase held off. -/
def ovHeld (ls : Q) (s : State) : State :=
  let u := s.lvc.act.foldl (fun s n => turnOff (buckLow n) (turnOff (buckHigh n) s)) s
  { u with lvc := { u.lvc with ls := ls, ovHold := true, resp := if u.inResponse then 3 else u.lvc.resp, held := [], waiting := u.lvc.act, ovh := satInc 8 u.lvc.ovh } }
theorem ovHeld_only (ls : Q) (s : State) : ovHeld ls s = { s with gd := (ovHeld ls s).gd, lvc := { s.lvc with ls := ls, ovHold := true, resp := if s.inResponse then 3 else s.lvc.resp, held := [], waiting := s.lvc.act, ovh := satInc 8 s.lvc.ovh } } := by
  have only := (phases_off s.lvc.act s).2
  unfold ovHeld
  generalize List.foldl _ s s.lvc.act = u at only
  rw [only]
  rfl

theorem overvoltage_clause (s : State) (ls : Q) (us : Nat) (on : s.lvc.buck = 2 ∨ s.lvc.buck = 3) (free : s.lvc.ovHold = false) (above : s.pf 0x58 1 84 < ls) (held : 5 ≤ us) :
    Answers (exec (.overvoltageHold ls us) s) fun t => (∀ n ∈ s.lvc.act, (t.gd.ch.get (buckLow n)).out ≠ .on ∧ (t.gd.ch.get (buckHigh n)).out ≠ .on) ∧ active 0x3806 noInst t = true ∧ SameButFaults { s with gd := t.gd, lvc := { s.lvc with ls := ls, ovHold := true, resp := if s.inResponse then 3 else s.lvc.resp, held := [], waiting := s.lvc.act, ovh := satInc 8 s.lvc.ovh } } t := by
  have run : exec (.overvoltageHold ls us) s = .next (raise 0x3806 noInst 0 (ovHeld ls s)) := if_pos ⟨on, free, above, held⟩
  have same := raise_low_same 0x3806 noInst 0 (ovHeld ls s) (fun _ => show 1 < 3 by decide) (by decide)
  have gd : (raise 0x3806 noInst 0 (ovHeld ls s)).gd = (ovHeld ls s).gd := by rw [same]
  refine ⟨_, run, ?_⟩
  beta_reduce
  rw [gd, ← ovHeld_only ls s]
  exact ⟨(phases_off s.lvc.act s).1, raise_active _ _ _ _, same⟩

theorem overvoltageEnd_clause (s : State) (ls : Q) (held : s.lvc.ovHold = true) (low : ls < s.pf 0x58 1 84 - 1 / 2) : exec (.overvoltageHoldEnd ls) s = .next { s with lvc := { s.lvc with ls := ls, ovHold := false } } := if_pos ⟨held, low⟩

theorem overvoltageTimeout_clause (s : State) (ms : Nat) (held : s.lvc.ovHold = true) (long : 10 ≤ ms) : Answers (exec (.overvoltageHoldTimeout ms) s) fun t => active 0x3807 noInst t = true ∧ Grows s t ∧ t.beyond = s.beyond :=
  ⟨_, if_pos ⟨held, long⟩, raise_after 0x3807 noInst 0 rfl⟩

/-! ## The loss of a phase (R316) -/

theorem phaseStop_clause (s : State) (n : Fin 6) (phase : n ∈ s.lvc.act) (bad : phaseBad s n = true) :
    Answers (exec (.phaseStop n) s) fun t => (t.gd.ch.get (buckLow n)).out ≠ .on ∧ (t.gd.ch.get (buckHigh n)).out ≠ .on ∧ (s.lvc.buck = 2 ∨ s.lvc.buck = 3 → s.lvc.act.filter (· ≠ n) = [] → active 0x3809 noInst t = true) ∧
      (s.lvc.act.filter (· ≠ n) ≠ [] → t = { s with gd := t.gd, lvc := { s.lvc with act := s.lvc.act.filter (· ≠ n), held := s.lvc.held.filter (· ≠ n), delay := s.lvc.delay.put n 0, waiting := s.lvc.waiting.filter (· ≠ n) } }) ∧ Grows s t := by
  have phases : (stopPhase n s).lvc.act = s.lvc.act.filter (· ≠ n) := by rw [stopPhase_only]
  obtain ⟨low, high⟩ := stopPhase_off n s
  refine ⟨_, if_pos ⟨phase, bad⟩, lastPhase_offAt _ _ _ low, lastPhase_offAt _ _ _ high, fun ran empty => lastPhase_raises ran (phases.trans empty), fun left => ?_, (Grows.of_eq (stopPhase_faults n s)).trans (lastPhase_grows _ _)⟩
  rw [lastPhase_left (by rw [phases]; exact left)]
  exact stopPhase_only n s

/-! ## The obligation -/

/-- Settles O33, clause by clause: a short, an undershoot, a release, the overvoltage hold with its two ends, and the loss of a phase. -/
theorem lvTransients : Obligations.LvTransients := by
  unfold Obligations.LvTransients
  exact ⟨short_clause, undershoot_clause, release_clause, overvoltage_clause, overvoltageEnd_clause, overvoltageTimeout_clause, phaseStop_clause⟩

end Sys2Proof.Machine
end

section
/-! SUPPORT. The end of a request's service, a stop on request and a pause: what each writes, and what it leaves (10_charger_stages.md, R281;
12_charging_services.md, R326, R342, R346). -/

namespace Sys2Proof.Machine

/-! ## Sessions (R326) -/

theorem inSession_iff (s : State) : inSession s = true ↔ s.chg.phase ≠ 0 ∧ s.chg.phase ≠ 10 := decide_eq_true_iff
theorem inSession_false (s : State) : inSession s = false ↔ s.chg.phase = 0 ∨ s.chg.phase = 10 := by
  unfold inSession
  rw [decide_eq_false_iff_not, not_and_or, not_not, not_not]

/-- A free connector ends the note that a request was served, and nothing else. -/
theorem freeRequest_only (s : State) : freeRequest s = { s with chg := { s.chg with used := (freeRequest s).chg.used } } ∧ ((freeRequest s).chg.used = true → s.chg.used = true) := by
  unfold freeRequest
  split
  · exact ⟨rfl, fun h => Bool.noConfusion h⟩
  · exact ⟨rfl, id⟩
theorem freeRequest_session {s : State} (session : inSession s = true) : freeRequest s = s := if_neg fun free => Bool.noConfusion (session.symm.trans free.2)
theorem freeRequest_faults (s : State) : (freeRequest s).faults = s.faults := by rw [(freeRequest_only s).1]
theorem freeRequest_beyond (s : State) : (freeRequest s).beyond = s.beyond := by rw [(freeRequest_only s).1]; rfl

/-! ## A stop on request (R281) -/

theorem requestStop_ramps {s : State} (charges : s.dab.st = 2 ∨ s.dab.st = 3) (current : s.dab.iCmd ≠ 0) (fresh : s.dab.stopRamp = none) :
    requestStop s = { s with dab := { s.dab with stopRamp := some (10 * absQ s.dab.iCmd) } } := if_pos ⟨charges, current, fresh⟩

theorem requestStop_stops {s : State} (still : (s.dab.st ≠ 2 ∧ s.dab.st ≠ 3) ∨ s.dab.iCmd = 0) (fresh : s.dab.stopRamp = none) : requestStop s = stopCharger s := by
  have noRamp : ¬((s.dab.st = 2 ∨ s.dab.st = 3) ∧ s.dab.iCmd ≠ 0 ∧ s.dab.stopRamp = none) := by
    rintro ⟨charges, current, -⟩
    rcases still with ⟨n2, n3⟩ | zero
    · exact charges.elim n2 n3
    · exact current zero
  exact (if_neg noRamp).trans (if_neg (by rw [fresh]; decide))

theorem stopCharger_only (s : State) : stopCharger s = { s with chg := (stopCharger s).chg, pwm := (stopCharger s).pwm, gd := (stopCharger s).gd, pfc := (stopCharger s).pfc, dab := (stopCharger s).dab } := by
  rcases stopCharger_cases s with ⟨-, -, e⟩ | ⟨p, d, -, -, e⟩ <;> rw [e]
  · rfl
  · rw [stopPair_only]
    rfl

/-- A stop on request writes the charger and its groups. -/
theorem requestStop_only (s : State) : requestStop s = { s with chg := (requestStop s).chg, pwm := (requestStop s).pwm, gd := (requestStop s).gd, pfc := (requestStop s).pfc, dab := (requestStop s).dab } := by
  unfold requestStop
  split_ifs
  · rfl
  · rfl
  · exact stopCharger_only s
/-- Of the session it writes S2 only. -/
theorem requestStop_chg (s : State) : ∃ closed, (requestStop s).chg = { s.chg with s2 := closed } := by
  unfold requestStop
  split_ifs
  · exact ⟨s.chg.s2, rfl⟩
  · exact ⟨s.chg.s2, rfl⟩
  · exact ⟨false, stopCharger_chg s⟩

/-! ## A pause (R342, R346) -/

/-- The battery current target is 0. -/
def targetZero (s : State) : State := { s with obcT := { s.obcT with iBat := 0 } }
theorem chargePause_eq (s : State) : chargePause s = { requestStop (targetZero s) with chg := { (requestStop (targetZero s)).chg with phase := 7, pulsing := false } } := rfl

/-- Of the session and the targets a pause writes its phase, the end of a pulse, S2 and the current target. -/
theorem chargePause_session (s : State) : (∃ closed, (chargePause s).chg = { s.chg with s2 := closed, phase := 7, pulsing := false }) ∧ (chargePause s).obcT = { s.obcT with iBat := 0 } := by
  obtain ⟨closed, chg⟩ := requestStop_chg (targetZero s)
  have target : (requestStop (targetZero s)).obcT = (targetZero s).obcT := by rw [requestStop_only]
  rw [chargePause_eq]
  exact ⟨⟨closed, by rw [chg]; rfl⟩, target⟩

/-- A pause stops the charger on request: while it charges its current ramps to 0, else its stages stop. -/
theorem chargePause_stops (s : State) :
    (s.dab.st = 2 ∨ s.dab.st = 3 → s.dab.iCmd ≠ 0 → s.dab.stopRamp = none → (chargePause s).dab.stopRamp = some (10 * absQ s.dab.iCmd)) ∧
      ((s.dab.st ≠ 2 ∧ s.dab.st ≠ 3) ∨ s.dab.iCmd = 0 → s.dab.stopRamp = none → (chargePause s).chg.s2 = false ∧ ChgrOff (chargePause s)) := by
  rw [chargePause_eq]
  refine ⟨fun charges current fresh => ?_, fun still fresh => ?_⟩
  · rw [requestStop_ramps (s := targetZero s) charges current fresh]
    rfl
  · rw [requestStop_stops (s := targetZero s) still fresh]
    exact ⟨congrArg Chg.s2 (stopCharger_chg (targetZero s)), stopCharger_off (targetZero s)⟩

end Sys2Proof.Machine
end

section
/-! Pilot, proximity, the digital exchange and their timeouts. -/

namespace Sys2Proof.Machine

/-! ## The pilot (R320, R321, R346) -/

/-- The readings that the samples of the pilot give. -/
def pilotRead (x : List Q) (s : State) : State := { s with chg := { s.chg with hi := pilotHi x, lo := pilotLo x, freq := pilotFreq x } }
/-- An accepted pilot state with its readings. -/
def pilotTaken (k : Nat) (x : List Q) (s : State) : State := { s with chg := { s.chg with cp := k, hi := pilotHi x, lo := pilotLo x, freq := pilotFreq x } }

section
variable {s : State} {x : List Q} {us : Nat} (fitted : s.fn 9 = true) (noShip : s.sys.mode ≠ .ship) (noOff : s.sys.mode ≠ .off)
include fitted noShip noOff

/-- The pilot is judged outside SHIP and OFF where charging services are present. -/
theorem pilotChange_judged : ¬(s.fn 9 = false ∨ s.sys.mode = .ship ∨ s.sys.mode = .off) := by
  rintro (absent | ship | off)
  · exact Bool.noConfusion (fitted.symm.trans absent)
  · exact noShip ship
  · exact noOff off

theorem pilotChange_accepts {k : Nat} (state : pilotState x = some k) (held : (if k = 4 ∨ k = 5 ∨ k = 6 then 1000 else 3000) ≤ us) :
    exec (.pilotStateChange x us) s = .next (pilotReact s.chg.cp k (freeRequest (pilotTaken k x s))) := by
  show execPilotStateChange x us s = _
  unfold execPilotStateChange
  rw [if_neg (pilotChange_judged fitted noShip noOff), state]
  exact if_pos held

theorem pilotChange_waits (short : ∀ k, pilotState x = some k → us < (if k = 4 ∨ k = 5 ∨ k = 6 then 1000 else 3000)) :
    exec (.pilotStateChange x us) s = .next (freeRequest (pilotRead x s)) := by
  show execPilotStateChange x us s = _
  unfold execPilotStateChange
  rw [if_neg (pilotChange_judged fitted noShip noOff)]
  cases state : pilotState x with
  | none => rfl
  | some k => exact if_neg (not_le.2 (short k state))

/-- In a session of the EV role another state has the reaction of R346. -/
theorem pilotChange_ev {k : Nat} (state : pilotState x = some k) (held : (if k = 4 ∨ k = 5 ∨ k = 6 then 1000 else 3000) ≤ us)
    (idle : s.chg.phase ≠ 0) (ended : s.chg.phase ≠ 10) (ev : s.chg.role = 1) (other : k ≠ s.chg.cp) :
    exec (.pilotStateChange x us) s = .next (evPilot k (pilotTaken k x s)) := by
  have session : inSession (pilotTaken k x s) = true := (inSession_iff _).2 ⟨idle, ended⟩
  have reacts : ¬(k = s.chg.cp ∨ inSession (pilotTaken k x s) = false) := by
    rintro (same | none)
    · exact other same
    · exact Bool.noConfusion (session.symm.trans none)
  rw [pilotChange_accepts fitted noShip noOff state held, freeRequest_session session]
  exact congrArg Host.Outcome.next ((if_neg reacts).trans (if_pos ev))

end

theorem pilotAccepted_clause (s : State) (x : List Q) (us k : Nat) (fitted : s.fn 9 = true) (noShip : s.sys.mode ≠ .ship) (noOff : s.sys.mode ≠ .off) (state : pilotState x = some k)
    (held : (if k = 4 ∨ k = 5 ∨ k = 6 then 1000 else 3000) ≤ us) (quiet : s.chg.phase = 0 ∨ s.chg.phase = 10 ∨ k = s.chg.cp) :
    Answers (exec (.pilotStateChange x us) s) fun t => t = { s with chg := { s.chg with cp := k, hi := pilotHi x, lo := pilotLo x, freq := pilotFreq x, used := t.chg.used } } ∧ (t.chg.used = true → s.chg.used = true) := by
  obtain ⟨only, used⟩ := freeRequest_only (pilotTaken k x s)
  have still : k = s.chg.cp ∨ inSession (freeRequest (pilotTaken k x s)) = false := by
    rcases quiet with idle | ended | same
    · exact .inr ((inSession_false _).2 (.inl (by rw [only]; exact idle)))
    · exact .inr ((inSession_false _).2 (.inr (by rw [only]; exact ended)))
    · exact .inl same
  exact ⟨_, (pilotChange_accepts fitted noShip noOff state held).trans (congrArg Host.Outcome.next (if_pos still)), only, used⟩

theorem pilotWaits_clause (s : State) (x : List Q) (us : Nat) (fitted : s.fn 9 = true) (noShip : s.sys.mode ≠ .ship) (noOff : s.sys.mode ≠ .off)
    (short : ∀ k, pilotState x = some k → us < (if k = 4 ∨ k = 5 ∨ k = 6 then 1000 else 3000)) :
    Answers (exec (.pilotStateChange x us) s) fun t => t = { s with chg := { s.chg with hi := pilotHi x, lo := pilotLo x, freq := pilotFreq x, used := t.chg.used } } ∧ (t.chg.used = true → s.chg.used = true) :=
  ⟨_, pilotChange_waits fitted noShip noOff short, freeRequest_only (pilotRead x s)⟩

theorem evPilot_clause (s : State) (x : List Q) (us k : Nat) (fitted : s.fn 9 = true) (noShip : s.sys.mode ≠ .ship) (noOff : s.sys.mode ≠ .off) (state : pilotState x = some k)
    (held : (if k = 4 ∨ k = 5 ∨ k = 6 then 1000 else 3000) ≤ us) (idle : s.chg.phase ≠ 0) (ended : s.chg.phase ≠ 10) (ev : s.chg.role = 1) (other : k ≠ s.chg.cp) :
    (k = 0 → 1 ≤ s.chg.pp → s.chg.pp ≤ 4 → Answers (exec (.pilotStateChange x us) s) fun t => active 0x400C noInst t = true ∧ Grows s t ∧ t.beyond = s.beyond) ∧
      (k = 4 ∨ k = 5 ∨ k = 6 → Answers (exec (.pilotStateChange x us) s) fun t => active 0x4001 noInst t = true ∧ Grows s t ∧ t.beyond = s.beyond) ∧
      (k = 3 → Answers (exec (.pilotStateChange x us) s) fun t => active 0x4002 noInst t = true ∧ Grows s t ∧ t.beyond = s.beyond) ∧
      (k = 1 → s.chg.phase = 4 ∨ s.chg.phase = 5 ∨ s.chg.phase = 6 → Answers (exec (.pilotStateChange x us) s) fun t => t.chg.phase = 7 ∧ t.faults = s.faults ∧ t.beyond = s.beyond ∧
        (s.dab.st = 2 ∨ s.dab.st = 3 → s.dab.iCmd ≠ 0 → s.dab.stopRamp = none → t.dab.stopRamp = some (10 * absQ s.dab.iCmd)) ∧
        ((s.dab.st ≠ 2 ∧ s.dab.st ≠ 3) ∨ s.dab.iCmd = 0 → s.dab.stopRamp = none → t.chg.s2 = false ∧ ChgrOff t)) := by
  rw [pilotChange_ev fitted noShip noOff state held idle ended ev other]
  refine ⟨fun lost first last => ?_, fun bad => ?_, fun vent => ?_, fun back charging => ?_⟩
  · rw [show evPilot k (pilotTaken k x s) = raise 0x400C noInst 0 (pilotTaken k x s) from if_pos ⟨lost, first, last⟩]
    exact ans_raised rfl rfl
  · rw [show evPilot k (pilotTaken k x s) = raise 0x4001 noInst 0 (pilotTaken k x s) from (if_neg (by omega)).trans (if_pos (.inr bad))]
    exact ans_raised rfl rfl
  · rw [show evPilot k (pilotTaken k x s) = raise 0x4002 noInst 0 (pilotTaken k x s) from (if_neg (by omega)).trans ((if_neg (by omega)).trans (if_pos vent))]
    exact ans_raised rfl rfl
  · rw [show evPilot k (pilotTaken k x s) = chargePause (pilotTaken k x s) from (if_neg (by omega)).trans ((if_neg (by omega)).trans ((if_neg (by omega)).trans (if_pos ⟨back, charging⟩)))]
    obtain ⟨⟨closed, chg⟩, -⟩ := chargePause_session (pilotTaken k x s)
    exact ⟨_, rfl, congrArg Chg.phase chg, chargePause_faults _, chargePause_beyond _, chargePause_stops (pilotTaken k x s)⟩

theorem duty_clause (s : State) (x1 x2 x3 : List Q) (fitted : s.fn 9 = true) (oscillates : pilotFreq x3 ≠ 0) (first : absQ (pilotDuty x1 - pilotDuty x2) ≤ 1 / 2)
    (second : absQ (pilotDuty x2 - pilotDuty x3) ≤ 1 / 2) (third : absQ (pilotDuty x1 - pilotDuty x3) ≤ 1 / 2) :
    exec (.pilotDutyAccepted x1 x2 x3) s = .next { s with chg := { s.chg with duty := some (pilotDuty x3) } } := by
  have agree : (decide (absQ (pilotDuty x1 - pilotDuty x2) ≤ 1 / 2) && decide (absQ (pilotDuty x2 - pilotDuty x3) ≤ 1 / 2) && decide (absQ (pilotDuty x1 - pilotDuty x3) ≤ 1 / 2)) = true := by
    rw [decide_eq_true first, decide_eq_true second, decide_eq_true third]
    rfl
  exact if_pos ⟨fitted, agree, oscillates⟩

/-! ## Proximity (R323, R346) -/

/-- An accepted proximity code; a free connector lets a request start again. -/
def proximityTaken (v : Q) (s : State) : State := freeRequest { s with chg := { s.chg with pp := ppCode v } }

theorem proximityChange_accepts {s : State} {v : Q} {us : Nat} (fitted : s.fn 9 = true) (held : (if ppCode v = 0 then 1000 else 3000) ≤ us) :
    exec (.proximityCodeChange v us) s =
      if inSession (proximityTaken v s) = true ∧ (ppCode v = 0 ∨ (ppCode v = 7 ∧ (proximityTaken v s).chg.role = 1)) then .next (raise 0x4003 noInst 0 (proximityTaken v s)) else .next (proximityTaken v s) :=
  if_pos ⟨fitted, held⟩

theorem proximity_clause (s : State) (v : Q) (us : Nat) (fitted : s.fn 9 = true) (held : (if ppCode v = 0 then 1000 else 3000) ≤ us) :
    (s.chg.phase = 0 ∨ s.chg.phase = 10 ∨ (ppCode v ≠ 0 ∧ (ppCode v ≠ 7 ∨ s.chg.role ≠ 1)) → Answers (exec (.proximityCodeChange v us) s) fun t => t = { s with chg := { s.chg with pp := ppCode v, used := t.chg.used } } ∧ (t.chg.used = true → s.chg.used = true)) ∧
      (s.chg.phase ≠ 0 → s.chg.phase ≠ 10 → ppCode v = 0 ∨ (ppCode v = 7 ∧ s.chg.role = 1) → Answers (exec (.proximityCodeChange v us) s) fun t => active 0x4003 noInst t = true ∧ Grows s t ∧ t.beyond = s.beyond) := by
  obtain ⟨only, used⟩ : proximityTaken v s = { s with chg := { s.chg with pp := ppCode v, used := (proximityTaken v s).chg.used } } ∧ ((proximityTaken v s).chg.used = true → s.chg.used = true) :=
    freeRequest_only { s with chg := { s.chg with pp := ppCode v } }
  have role : (proximityTaken v s).chg.role = s.chg.role := by rw [only]
  have session : inSession (proximityTaken v s) = inSession s := by rw [only]; rfl
  rw [proximityChange_accepts fitted held, role, session]
  refine ⟨fun quiet => ?_, fun idle ended lost => ?_⟩
  · have stays : ¬(inSession s = true ∧ (ppCode v = 0 ∨ (ppCode v = 7 ∧ s.chg.role = 1))) := by
      rw [inSession_iff]
      omega
    rw [if_neg stays]
    exact ⟨_, rfl, only, used⟩
  · rw [if_pos ⟨(inSession_iff s).2 ⟨idle, ended⟩, lost⟩]
    exact ans_raised (freeRequest_faults _) (freeRequest_beyond _)

/-! ## Timeouts and the DC link of a discharge (R327 to R330) -/

theorem chargingTimeouts_clause (s : State) (ms : Nat) :
    (s.chg.phase = 2 → s.chg.isoStep < 3 → s.pf 0x60 0 64 * 1000 ≤ ms → Answers (exec (.hlcSetupTimeout ms) s) fun t => active 0x4006 noInst t = true ∧ SameButFaults { s with chg := { s.chg with phase := 1, path := 0, hlcFailed := true } } t) ∧
      (s.chg.phase = 3 → s.chg.s2 = true → s.grid.ok = false → 10000 ≤ ms → Answers (exec (.gridWaitTimeout ms) s) fun t => active 0x4004 noInst t = true ∧ Grows s t ∧ t.beyond = s.beyond) ∧
      (s.chg.path = 3 → s.dab.ibat < 0 → s.chg.phase ≠ 0 → s.chg.phase ≠ 10 → s.vMin < s.pf 3 0 0 → Answers (exec .dischargeDcLinkCheck s) fun t => active 0x400B noInst t = true ∧ Grows s t ∧ t.beyond = s.beyond) := by
  refine ⟨fun setup early late => ?_, fun starts closed grid late => ?_, fun both discharges idle ended low => ?_⟩
  · exact ⟨_, if_pos ⟨setup, early, late⟩, raise_active _ _ _ _, raise_low_same _ _ _ _ (fun _ => show 1 < 3 by decide) (by decide)⟩
  · exact ⟨_, if_pos ⟨starts, closed, grid, late⟩, raise_after 0x4004 noInst 0 rfl⟩
  · exact ⟨_, if_pos ⟨both, discharges, (inSession_iff s).2 ⟨idle, ended⟩, low⟩, raise_after 0x400B noInst 0 rfl⟩

/-! ## The digital exchange (R328, R329) -/

/-- A message is accepted where what it needs is offered and the setup has come far enough. -/
theorem isoAccepts_iff (s : State) (m : IsoMsg) : isoAccepts s m = true ↔ isoOffered s m = true ∧ (if isoOrder m = 0 then 3 ≤ s.chg.isoStep else isoOrder m ≤ s.chg.isoStep + 1) := by
  unfold isoAccepts
  rw [Bool.and_eq_true]
  split <;> rw [decide_eq_true_iff]

theorem isoAccepts_false {s : State} {m : IsoMsg} (h : isoOffered s m = false ∨ (isoOrder m ≠ 0 ∧ s.chg.isoStep + 1 < isoOrder m) ∨ (isoOrder m = 0 ∧ s.chg.isoStep < 3)) : isoAccepts s m = false := by
  rw [Bool.eq_false_iff]
  intro accepted
  obtain ⟨offered, order⟩ := (isoAccepts_iff s m).1 accepted
  rcases h with absent | ⟨setup, early⟩ | ⟨later, early⟩
  · exact Bool.noConfusion (offered.symm.trans absent)
  · rw [if_neg setup] at order
    omega
  · rw [if_pos later] at order
    omega

/-- How far the setup is once a message is accepted. -/
def isoStepped (m : IsoMsg) (s : State) : State := { s with chg := { s.chg with isoStep := max s.chg.isoStep (isoOrder m) } }
/-- A message on the established connection leaves the setup. -/
theorem isoStepped_none {m : IsoMsg} (order : isoOrder m = 0) (s : State) : isoStepped m s = s := by
  unfold isoStepped
  rw [order, Nat.max_zero]

section
variable {s : State} {m : IsoMsg} (digital : s.chg.path = 2 ∨ s.chg.path = 3) (idle : s.chg.phase ≠ 0) (ended : s.chg.phase ≠ 10)
include digital idle ended

/-- The exchange runs in a session on a digital path. -/
theorem isoMessage_taken : ¬(¬(s.chg.path = 2 ∨ s.chg.path = 3) ∨ inSession s = false) := by
  rintro (basic | none)
  · exact basic digital
  · exact Bool.noConfusion (((inSession_iff s).2 ⟨idle, ended⟩).symm.trans none)

theorem isoMessage_refused (refused : isoAccepts s m = false) : exec (.iso15118Message m) s = .next { s with out := .iso false none :: s.out } :=
  (if_neg (isoMessage_taken digital idle ended)).trans (if_pos refused)

theorem isoMessage_unoffered (absent : isoOffered s m = false) : exec (.iso15118Message m) s = .next { s with out := .iso false none :: s.out } :=
  isoMessage_refused digital idle ended (isoAccepts_false (.inl absent))

theorem isoMessage_accepted (accepted : isoAccepts s m = true) : exec (.iso15118Message m) s = .next (send (.iso true (bptPower m s)) (isoEffect m (isoStepped m s))) :=
  (if_neg (isoMessage_taken digital idle ended)).trans (if_neg (by rw [accepted]; decide))

/-- A message on the established connection. -/
theorem isoMessage_connected (order : isoOrder m = 0) (offered : isoOffered s m = true) (connected : 3 ≤ s.chg.isoStep) :
    exec (.iso15118Message m) s = .next (send (.iso true (bptPower m s)) (isoEffect m s)) := by
  have accepted : isoAccepts s m = true := (isoAccepts_iff s m).2 ⟨offered, by rw [if_pos order]; exact connected⟩
  rw [isoMessage_accepted digital idle ended accepted, isoStepped_none order]

end

theorem isoMessage_clause (s : State) (m : IsoMsg) (digital : s.chg.path = 2 ∨ s.chg.path = 3) (idle : s.chg.phase ≠ 0) (ended : s.chg.phase ≠ 10) :
    (isoOffered s m = false ∨ (isoOrder m ≠ 0 ∧ s.chg.isoStep + 1 < isoOrder m) ∨ (isoOrder m = 0 ∧ s.chg.isoStep < 3) → exec (.iso15118Message m) s = .next { s with out := .iso false none :: s.out }) ∧
      (exec (.iso15118Message (.sdpFound false)) s = .next { s with out := .iso false none :: s.out }) ∧ (exec (.iso15118Message (.authorization false)) s = .next { s with out := .iso false none :: s.out }) ∧ (exec (.iso15118Message .other) s = .next { s with out := .iso false none :: s.out }) ∧
      (exec (.iso15118Message .slacMatched) s = .next { s with out := .iso true none :: s.out, chg := { s.chg with isoStep := max s.chg.isoStep 1 } }) ∧
      (3 ≤ s.chg.isoStep → exec (.iso15118Message .sessionSetup) s = .next { s with out := .iso true none :: s.out }) ∧
      (∀ i, 3 ≤ s.chg.isoStep → exec (.iso15118Message (.chargeParameterDiscovery i)) s = .next { s with out := .iso true (bptPower (.chargeParameterDiscovery i) s) :: s.out, chg := { s.chg with isoMax := some i } }) ∧
      (∀ own, 3 ≤ s.chg.isoStep → s.chg.phase ≠ 9 → Answers (exec (.iso15118Message (.powerDeliveryStandby own)) s) fun t => t.chg.phase = 7 ∧ t.chg.isoStart = false ∧ t.obcT.iBat = 0 ∧ t.faults = s.faults) ∧
      (∀ i t, 3 ≤ s.chg.isoStep → exec (.iso15118Message (.chargeLoop i t)) s = .next { s with out := .iso true (bptPower (.chargeLoop i t) s) :: s.out, chg := { s.chg with isoMax := some i, isoTarget := t } }) := by
  refine ⟨fun refused => isoMessage_refused digital idle ended (isoAccepts_false refused), isoMessage_unoffered digital idle ended rfl, isoMessage_unoffered digital idle ended rfl, isoMessage_unoffered digital idle ended rfl,
    ?matched, fun connected => ?setup, fun i connected => ?parameters, fun own connected ending => ?standby, fun i t connected => ?loop⟩
  case matched =>
    have accepted : isoAccepts s .slacMatched = true := (isoAccepts_iff s _).2 ⟨rfl, Nat.le_add_left 1 _⟩
    rw [isoMessage_accepted digital idle ended accepted, show bptPower .slacMatched s = none from ite_self none]
    rfl
  case setup =>
    rw [isoMessage_connected digital idle ended rfl rfl connected, show bptPower .sessionSetup s = none from ite_self none]
    rfl
  case parameters => exact isoMessage_connected digital idle ended rfl rfl connected
  case standby =>
    have run := isoMessage_connected (m := .powerDeliveryStandby own) digital idle ended rfl rfl connected
    rw [show isoEffect (.powerDeliveryStandby own) s = chargePause { s with chg := { s.chg with isoStart := false } } from if_neg ending] at run
    obtain ⟨⟨closed, chg⟩, target⟩ := chargePause_session { s with chg := { s.chg with isoStart := false } }
    exact ⟨_, run, congrArg Chg.phase chg, congrArg Chg.isoStart chg, congrArg ObcTgt.iBat target, chargePause_faults _⟩
  case loop => exact isoMessage_connected digital idle ended rfl rfl connected

/-! ## The obligation -/

/-- Settles O34, clause by clause: a pilot state that is accepted, one that is not yet, the reactions of the EV role, the duty, proximity, the
timeouts with the DC link of a discharge, and the digital exchange. -/
theorem chargingInputs : Obligations.ChargingInputs := by
  unfold Obligations.ChargingInputs
  exact ⟨pilotAccepted_clause, pilotWaits_clause, evPilot_clause, duty_clause, proximity_clause, chargingTimeouts_clause, isoMessage_clause⟩

end Sys2Proof.Machine
end

section
/-! A pulse that ends the charge, and the log that its end cause finds full (12_charging_services.md, R337, R338; 03_supply_startup.md, R87). -/

namespace Sys2Proof.Machine

/-! ## A full record store (R87) -/

/-- A record of class F0 that finds the store full is dropped, with 0x001A. -/
theorem offerRec_full {r : LogRec} {s : State} (low : r.cls = 0) (full : 64 ≤ s.log.store.length) : active 0x001A noInst (offerRec r s) = true := by
  have dropped : (storeRec r s).1 = true := by
    unfold storeRec
    dsimp only
    rw [if_neg (not_lt.2 full), if_pos low]
  unfold offerRec noteDrop
  rw [if_pos dropped, active_of (pins_faults _)]
  exact raiseEntry_active _ _ _ _ _

/-! ## The log of the end causes (R338) -/

/-- The record of an end cause. -/
def causeRec (k : Nat) (s : State) : LogRec := mkRec s 8 (Config.freeNat 2 % 0x10000) noInst 0 k 0 false
/-- The end cause is offered to the log. -/
def offerCause (s : State) (k : Nat) : State := offerRec (causeRec k s) s

theorem offerCause_grows (s : State) (k : Nat) : Grows s (offerCause s k) := (Grows.of_eq (storeRec_faults (causeRec k s) s)).trans (noteDrop_grows _)

theorem logCauses_eq (cs : List Nat) (s : State) : logCauses cs s = (cs.filter (fun k => decide (k ≠ 4))).foldl offerCause s := rfl
theorem offerCauses_same (cs : List Nat) (s : State) : SameButFaults s (cs.foldl offerCause s) := by
  induction cs generalizing s with
  | nil => exact .refl s
  | cons k cs ih => exact (offerRec_same (causeRec k s) s).trans (ih _)
theorem logCauses_same (cs : List Nat) (s : State) : SameButFaults s (logCauses cs s) := offerCauses_same _ s
theorem offerCauses_grows (cs : List Nat) (s : State) : Grows s (cs.foldl offerCause s) := by
  induction cs generalizing s with
  | nil => exact .refl s
  | cons k cs ih => exact (offerCause_grows s k).trans (ih _)

/-- A cause other than the timer's that finds the store full raises 0x001A. -/
theorem logCauses_full {k : Nat} {cs : List Nat} {s : State} (untimed : k ≠ 4) (full : 64 ≤ s.log.store.length) : active 0x001A noInst (logCauses (k :: cs) s) = true := by
  rw [logCauses_eq, List.filter_cons, if_pos (decide_eq_true untimed)]
  exact offerCauses_grows _ (offerCause s k) _ _ (offerRec_full rfl full)

/-! ## The evaluation after the last pulse (R337, R338) -/

/-- The end of the pulses is the first cause while the timer has not expired and the BMS is not full. -/
theorem endCauses_pulses {s : State} (untimed : ¬s.pf 0x60 0 52 * 1000 ≤ (s.chg.timer : Q)) (room : s.bmsLimits.2.2 = false) (ends : s.chg.pulseEnd = true) : ∃ cs, endCauses s false = 2 :: cs := by
  unfold endCauses
  simp only [untimed, room, ends, decide_false, Bool.and_false, Bool.false_eq_true, if_false, if_true, List.nil_append]
  exact ⟨_, rfl⟩

/-- An end that begins stops the charger on request with the current target at 0: of the session it writes S2, the phase and the cause, and it
leaves the log. -/
theorem sessionEnd_only {n : Nat} {s : State} (session : inSession s = true) (goes : s.chg.phase ≠ 9) :
    (∃ closed, (sessionEnd n s).chg = { s.chg with s2 := closed, phase := 9, cause := n, pulsing := false, restartFor := none }) ∧ (sessionEnd n s).log = s.log := by
  have begins : ¬(inSession s = false ∨ s.chg.phase = 9) := by
    rintro (none | ending)
    · exact Bool.noConfusion (session.symm.trans none)
    · exact goes ending
  have run : sessionEnd n s = { requestStop (targetZero s) with chg := { (requestStop (targetZero s)).chg with phase := 9, cause := n, pulsing := false, restartFor := none } } := if_neg begins
  obtain ⟨closed, chg⟩ := requestStop_chg (targetZero s)
  have log : (requestStop (targetZero s)).log = (targetZero s).log := by rw [requestStop_only]
  rw [run]
  exact ⟨⟨closed, by rw [chg]; rfl⟩, log⟩

/-- A judgement that finds the end of the pulses first ends the session with cause 2 and logs every cause. -/
theorem judgeEnd_pulses {s : State} {cs : List Nat} (causes : endCauses s false = 2 :: cs) : judgeEnd false s = logCauses (2 :: cs) (sessionEnd 2 { s with chg := { s.chg with causes := 2 :: cs } }) := by
  unfold judgeEnd
  rw [causes]
  exact if_neg (by decide)

/-- What the judgement of the pulses leaves: a session that stops, and 0x001A where the store was full. -/
theorem judgeEnd_stopping {s : State} {cs : List Nat} (causes : endCauses s false = 2 :: cs) (pulses : s.chg.phase = 6) :
    (judgeEnd false s).chg.phase = 9 ∧ (judgeEnd false s).chg.cause = 2 ∧ (judgeEnd false s).chg.role = s.chg.role ∧ (64 ≤ s.log.store.length → active 0x001A noInst (judgeEnd false s) = true) := by
  obtain ⟨⟨closed, chg⟩, log⟩ := sessionEnd_only (n := 2) (s := { s with chg := { s.chg with causes := 2 :: cs } }) ((inSession_iff _).2 ⟨by rw [pulses]; decide, by rw [pulses]; decide⟩) (by rw [pulses]; decide)
  rw [judgeEnd_pulses causes, (logCauses_same _ _).chg, chg]
  exact ⟨rfl, rfl, rfl, fun full => logCauses_full (by decide) (by rw [log]; exact full)⟩

/-- In PULSE an evaluation chooses no path and follows no stage. -/
theorem choosePath_pulses {s : State} (pulses : s.chg.phase = 6) : choosePath s = s :=
  (if_neg (by omega)).trans ((if_neg (by omega)).trans (if_neg (by omega)))
theorem followStages_pulses {s : State} (pulses : s.chg.phase = 6) : followStages s = s :=
  (if_neg (by omega)).trans ((if_neg (by omega)).trans ((if_neg (by omega)).trans ((if_neg (by omega)).trans (if_neg (by omega)))))
theorem phaseTarget_stopping {s : State} (stopping : s.chg.phase = 9) : phaseTarget s = 0 := (if_neg (by omega)).trans (if_neg (by omega))

/-- The state that an evaluation of PULSE judges: limits and free values written, the timer counted. -/
def pulseCounted (s : State) : State := countTimer (europaFree (writeLimits s))
theorem pulseCounted_eq {s : State} (pulses : s.chg.phase = 6) : ∃ c o f, pulseCounted s = { s with chg := c, obcT := o, freeIx := f } ∧ c.phase = 6 ∧ c.role = s.chg.role ∧ c.pulseEnd = s.chg.pulseEnd ∧ c.timer ≤ s.chg.timer + 100 := by
  have run : pulseCounted s = _ := if_pos (.inr (.inr pulses))
  rw [run]
  refine ⟨_, _, _, rfl, pulses, rfl, rfl, ?_⟩
  show s.chg.timer + (if (europaFree (writeLimits s)).chg.throt then 50 else 100) ≤ s.chg.timer + 100
  split <;> omega

/-- The request bit of a charge. -/
theorem requestedRole_charge {s : State} (request : requestedRole s = 1) : s.veh.req.testBit 0 = true := by
  have odd : s.vehReq % 2 = 1 := by
    unfold requestedRole at request
    dsimp only at request
    split at request
    case isTrue odd => exact odd
    case isFalse => split_ifs at request <;> omega
  unfold State.vehReq at odd
  split at odd
  · rw [Nat.testBit_zero, decide_eq_true odd]
  · cases odd

/-- The current target of the present phase is written. -/
def targetWritten (s : State) : State := { s with obcT := { s.obcT with iBat := phaseTarget s } }
/-- The end of an evaluation in a session: the causes are judged, and the EV role has its current target. -/
def concluded (r : State × Bool) : State := if (judgeEnd r.2 r.1).chg.role = 1 then targetWritten (judgeEnd r.2 r.1) else judgeEnd r.2 r.1

/-- An evaluation of PULSE judges the end causes and writes the current target of the phase that follows. -/
theorem sessionEvaluation_pulses {s : State} (m : Q) (fitted : s.fn 9 = true) (runs : pairRunning s .europa = true) (request : requestedRole s = 1) (connected : s.connected = true) (pulses : s.chg.phase = 6) (ev : s.chg.role = 1) :
    exec (.sessionEvaluation m) s = .next (concluded (pulseCounted s, false)) := by
  have judged : ¬(s.fn 9 = false ∨ pairRunning s .europa = false) := by rw [fitted, runs]; decide
  have asked : ¬(s.veh.req.testBit (s.chg.role - 1) = false ∨ s.connected = false) := by rw [ev, requestedRole_charge request, connected]; decide
  have written : (europaFree (writeLimits s)).chg.phase = 6 := pulses
  obtain ⟨c, o, f, counted, phase, -⟩ := pulseCounted_eq pulses
  have check : cvCheck m (pulseCounted s) = (pulseCounted s, false) := if_pos (by rw [counted]; dsimp only; omega)
  show execSessionEvaluation m s = _
  unfold execSessionEvaluation
  rw [if_neg judged, if_neg asked]
  dsimp only
  unfold concluded targetWritten
  rw [if_neg (by omega), if_neg (by omega), if_pos ev, choosePath_pulses written, followStages_pulses written, show countTimer (europaFree (writeLimits s)) = pulseCounted s from rfl, check]

/-- The evaluation after the last pulse ends the charge with cause 2 (R338); it raises 0x001A where the end cause finds the record store full
(R87). -/
theorem evaluation_pulseEnd (s : State) (m : Q) (fitted : s.fn 9 = true) (runs : pairRunning s .europa = true) (request : requestedRole s = 1) (connected : s.connected = true) (pulses : s.chg.phase = 6) (ev : s.chg.role = 1)
    (room : s.bmsLimits.2.2 = false) (ends : s.chg.pulseEnd = true) (early : ((s.chg.timer + 100 : Nat) : Q) < s.pf 0x60 0 52 * 1000) :
    Answers (exec (.sessionEvaluation m) s) fun t => t.chg.phase = 9 ∧ t.chg.cause = 2 ∧ t.obcT.iBat = 0 ∧ (64 ≤ s.log.store.length → active 0x001A noInst t = true) := by
  obtain ⟨c, o, f, counted, phase, role, last, time⟩ := pulseCounted_eq pulses
  have untimed : ¬s.pf 0x60 0 52 * 1000 ≤ (c.timer : Q) := not_le.2 (lt_of_le_of_lt (Nat.cast_le.2 time) early)
  obtain ⟨cs, causes⟩ : ∃ cs, endCauses (pulseCounted s) false = 2 :: cs := by
    rw [counted]
    exact endCauses_pulses untimed room (last.trans ends)
  obtain ⟨stopping, cause, kept, full⟩ := judgeEnd_stopping causes (by rw [counted]; exact phase)
  have still : (judgeEnd false (pulseCounted s)).chg.role = 1 := kept.trans (by rw [counted]; exact role.trans ev)
  have log : (pulseCounted s).log = s.log := by rw [counted]
  have run : exec (.sessionEvaluation m) s = .next (targetWritten (judgeEnd false (pulseCounted s))) := by
    rw [sessionEvaluation_pulses m fitted runs request connected pulses ev]
    exact congrArg Host.Outcome.next (if_pos still)
  generalize judgeEnd false (pulseCounted s) = t at run stopping cause full
  exact ⟨targetWritten t, run, stopping, cause, phaseTarget_stopping stopping, fun long => (active_of rfl _ _).trans (full (by rw [log]; exact long))⟩

/-- Refutes O35 at its clause on the evaluation after the last pulse: the record store of the log is full, so the record of the end cause (R338) is
dropped and 0x001A becomes active (R87), where the clause leaves the active faults as they are. -/
theorem not_chargingSessions : ¬ Obligations.ChargingSessions := by
  unfold Obligations.ChargingSessions
  rintro ⟨-, -, -, -, -, -, -, pulseEnd⟩
  let s : State := { State.reset with
    cat := { State.reset.cat with params := [{ ty := 1, inst := 0, data := [0, 0, 0, 0, 0, 0, 0, 0, 0, 2, 0, 0] }, { ty := 0x60, inst := 0, data := List.replicate 54 0 ++ [0x16, 0x44] }], locked := true },
    sys := { State.reset.sys with mode := .charge }, lks := { State.reset.lks with pairs := Tab.fill { PairSt.reset with st := 1 } },
    veh := { State.reset.veh with mode := some 0, req := 1, bms := some (1, 1, false) },
    chg := { State.reset.chg with phase := 6, role := 1, pp := 1, pulseEnd := true },
    log := { State.reset.log with store := List.replicate 64 { time := 0, code := 0x3001, cls := 3, clear := false, block := 6, inst := 0, mode := 6, life := 0, reg := 0, meas := 0, suppressed := 0 } } }
  have fitted : s.fn 9 = true := by decide
  have early : ((s.chg.timer + 100 : Nat) : Q) < s.pf 0x60 0 52 * 1000 := by decide +kernel
  obtain ⟨t, run, -, -, -, kept⟩ := pulseEnd s 0 fitted (by decide) (by decide) (by decide) rfl rfl rfl rfl early
  obtain ⟨u, run', -, -, -, raised⟩ := evaluation_pulseEnd s 0 fitted (by decide) (by decide) (by decide) rfl rfl rfl rfl early
  obtain rfl : t = u := Host.Outcome.next.inj (run.symm.trans run')
  have dropped : active 0x001A noInst t = true := raised (by decide)
  rw [active_of kept] at dropped
  exact absurd dropped (by decide)

end Sys2Proof.Machine
end

section
/-! SUPPORT. One coarse tick: the soft turn-offs, the legs of the bootstrapped outputs and the 0x78 answers (09_gate_drive.md, R248, R258, R259;
20_vehicle_interfaces.md, R511). -/

namespace Sys2Proof.Machine

/-! ## Soft turn-offs (R248) -/

/-- What a tick makes of a channel whose soft turn-off runs: the output is off with the clamp on, or the turn-off goes on. -/
def GdChan.softened (c : Chan) (x : GdChan) : GdChan :=
  if x.out = .soft then (if Config.softDone c.val x.since x.softT then { x with out := .off, clamp := true, drive := [], softT := 0 } else { x with softT := x.softT + 1 }) else x

theorem softTick_gets (s : State) (c d : Chan) : (softTick s c).gd.ch.get d = if d = c then (s.gd.ch.get c).softened c else s.gd.ch.get d := by
  unfold softTick GdChan.softened
  by_cases soft : (s.gd.ch.get c).out = .soft
  · rw [if_pos soft, if_pos soft, updCh_gets]
  · rw [if_neg soft, if_neg soft]
    split
    next same => rw [same]
    next => rfl

theorem softTick_only (s : State) (c : Chan) : softTick s c = { s with gd := (softTick s c).gd } := by
  unfold softTick
  split
  · exact updCh_only _ _ _
  · rfl

/-- Ticks of channels that all differ: each one's own tick. -/
theorem softTickList_gets (l : List Chan) (once : l.Nodup) (s : State) (d : Chan) :
    (l.foldl softTick s).gd.ch.get d = if d ∈ l then (s.gd.ch.get d).softened d else s.gd.ch.get d := by
  induction l generalizing s with
  | nil => rfl
  | cons c l ih =>
    obtain ⟨new, rest⟩ := List.nodup_cons.1 once
    rw [List.foldl_cons, ih rest, softTick_gets]
    by_cases same : d = c
    · subst same
      rw [if_neg new, if_pos rfl, if_pos List.mem_cons_self]
    · simp only [same, if_false, List.mem_cons, false_or]

theorem softTickList_only (l : List Chan) (s : State) : l.foldl softTick s = { s with gd := (l.foldl softTick s).gd } := by
  induction l generalizing s with
  | nil => rfl
  | cons c l ih =>
    rw [List.foldl_cons]
    generalize hg : (l.foldl softTick (softTick s c)).gd = g
    rw [ih, hg, softTick_only]

theorem softTicks_only (s : State) : softTicks s = { s with gd := (softTicks s).gd } := by
  unfold softTicks
  exact softTickList_only allChans s

/-- The gate drive's registers are no part of what a fault leaves alone, nor of the supervision. -/
theorem beyond_of_gd {s t : State} {g : Gd} (h : t = { s with gd := g }) : t.beyond = s.beyond := by rw [h]; rfl
theorem xtalOk_of_gd {s t : State} {g : Gd} (h : t = { s with gd := g }) : t.xtalOk = s.xtalOk := by rw [h]; rfl

theorem softTicks_gets (s : State) (c : Chan) : (softTicks s).gd.ch.get c = (s.gd.ch.get c).softened c := by
  unfold softTicks
  exact (softTickList_gets allChans (List.nodup_finRange 55) s c).trans (if_pos (List.mem_finRange c))

/-! ## Pre-charges, refreshes and holds (R258, R259) -/

theorem refreshTick_beyond (s : State) (c : Chan) : (refreshTick s c).beyond = s.beyond := by
  have held : (if 0 < (s.gd.ch.get c).hold then s.updCh c (fun x => { x with hold := x.hold - 256 }) else s).beyond = s.beyond := by split <;> simp
  unfold refreshTick
  dsimp only
  split
  · exact held
  · repeat' split
    all_goals simp

theorem prechargeTick_beyond (s : State) (g : Grp) : (prechargeTick s g).beyond = s.beyond := by
  unfold prechargeTick
  dsimp only
  split
  · rfl
  · split
    · rw [beyond_foldl _ (fun u c => turnOff_beyond _ _)]
      rfl
    · rfl

theorem bootTicks_beyond (s : State) : (bootTicks s).beyond = s.beyond := by
  unfold bootTicks
  rw [beyond_foldl _ prechargeTick_beyond, beyond_foldl _ refreshTick_beyond]

/-- Where no leg is refreshed or held and no group pre-charges, a tick changes nothing of them. -/
theorem refreshTick_still {s : State} {c : Chan} (none : (s.gd.ch.get c).refr = none ∧ (s.gd.ch.get c).hold = 0) : refreshTick s c = s := by
  unfold refreshTick
  obtain ⟨refr, hold⟩ := none
  simp only [refr, hold, Nat.lt_irrefl, if_false]

theorem prechargeTick_still {s : State} {g : Grp} (none : (s.pwm.get g).preLeft = 0) : prechargeTick s g = s := if_pos none

theorem foldl_still {α : Type} {f : State → α → State} {s : State} (l : List α) (h : ∀ a, f s a = s) : l.foldl f s = s := by
  induction l with
  | nil => rfl
  | cons a l ih => rw [List.foldl_cons, h, ih]

theorem bootTicks_still {s : State} (legs : ∀ c : Chan, (s.gd.ch.get c).refr = none ∧ (s.gd.ch.get c).hold = 0) (groups : ∀ g : Grp, (s.pwm.get g).preLeft = 0) : bootTicks s = s := by
  unfold bootTicks
  rw [foldl_still _ (fun c => refreshTick_still (legs c)), foldl_still _ (fun g => prechargeTick_still (groups g))]

/-! ## 0x78 answers (R511) -/

theorem udsNeg_only (p : UPath) (sid n : Nat) (s : State) : udsNeg p sid n s = { s with out := (udsNeg p sid n s).out } := by
  unfold udsNeg
  split <;> rfl

theorem udsNegs_only (l : List (UPath × Nat)) (sid n : Nat) (s : State) :
    l.foldl (fun u x => udsNeg x.1 sid n u) s = { s with out := (l.foldl (fun u x => udsNeg x.1 sid n u) s).out } := by
  induction l generalizing s with
  | nil => rfl
  | cons x l ih =>
    rw [List.foldl_cons]
    generalize ho : (l.foldl (fun u x => udsNeg x.1 sid n u) (udsNeg x.1 sid n s)).out = o
    rw [ih, ho, udsNeg_only]

theorem pendTicks_only (s : State) : pendTicks s = { s with out := (pendTicks s).out, sec := (pendTicks s).sec } := by
  unfold pendTicks
  dsimp only
  rw [udsNegs_only]

theorem mer_of_beyond {s t : State} (h : t.beyond = s.beyond) : t.mer = s.mer := congrArg Beyond.mer h
theorem fab_of_beyond {s t : State} (h : t.beyond = s.beyond) : t.fab = s.fab := congrArg Beyond.fab h
theorem mer_of_answers {s t : State} {o : List Emit} {x : Sec} (h : t = { s with out := o, sec := x }) : t.mer = s.mer := by rw [h]
theorem fab_of_answers {s t : State} {o : List Emit} {x : Sec} (h : t = { s with out := o, sec := x }) : t.fab = s.fab := by rw [h]

/-- Before the first 0x78 is due nothing is answered. -/
theorem pendTicks_still {s : State} (early : ∀ x ∈ s.sec.pend, s.mer.ns < x.2) : pendTicks s = s := by
  have none : s.sec.pend.filter (fun x => decide (x.2 ≤ s.mer.ns)) = [] := List.filter_eq_nil_iff.2 fun x m => by simpa using early x m
  have same : s.sec.pend.map (fun x => if decide (x.2 ≤ s.mer.ns) = true then (x.1, x.2 + 5000000000) else x) = s.sec.pend :=
    (List.map_congr_left fun x m => if_neg (by simpa using early x m)).trans (List.map_id' _)
  unfold pendTicks
  dsimp only
  rw [none, same]
  rfl

end Sys2Proof.Machine
end

section
/-! The step, the idle tick, what reset leaves, and that every command answers. -/

namespace Sys2Proof.Machine

/-- While the crystal runs, a step with no command waiting is the ticks of what the gate drive times and of the 0x78 answers, and the counters go on. -/
theorem step_idle {s : State} (idle : s.pending = []) (runs : s.xtalOk = true) :
    step s = .next { pendTicks (bootTicks (softTicks s)) with mer := { s.mer with ct := s.mer.ct + 1, ns := s.mer.ns + 25 }, fab := { s.fab with time := if s.fab.timeSet then s.fab.time + 25 * (1 + s.fab.rate / 1000000) else s.fab.time } } := by
  have boot : (bootTicks (softTicks s)).beyond = s.beyond := (bootTicks_beyond _).trans (beyond_of_gd (softTicks_only s))
  have mer : (pendTicks (bootTicks (softTicks s))).mer = s.mer := (mer_of_answers (pendTicks_only _)).trans (mer_of_beyond boot)
  have fab : (pendTicks (bootTicks (softTicks s))).fab = s.fab := (fab_of_answers (pendTicks_only _)).trans (fab_of_beyond boot)
  unfold step idleTick
  rw [idle]
  dsimp only
  rw [if_pos ((xtalOk_of_gd (softTicks_only s)).trans runs), mer, fab]

/-- Without the crystal only the soft turn-offs go on. -/
theorem step_idle_stopped {s : State} (idle : s.pending = []) (stopped : s.xtalOk = false) : step s = .next (softTicks s) := by
  unfold step idleTick
  rw [idle]
  dsimp only
  rw [if_neg (by rw [xtalOk_of_gd (softTicks_only s), stopped]; decide)]

/-- Settles O1: the front command, or one coarse tick. -/
theorem stepRunsTheFrontCommand : Obligations.StepRunsTheFrontCommand := by
  unfold Obligations.StepRunsTheFrontCommand
  exact ⟨fun _ _ _ => rfl, fun s idle => ⟨step_idle idle, step_idle_stopped idle⟩, fun s c => ⟨softTicks_only s, softTicks_gets s c⟩,
    fun s => ⟨bootTicks_still, pendTicks_still⟩⟩

/-- Settles O3: every command keeps the queue of commands (`exec_keeps`), and a step takes its front (`step_keeps`). -/
theorem everyCommandCompletes : Obligations.EveryCommandCompletes := by
  unfold Obligations.EveryCommandCompletes
  refine ⟨fun c s => ?_, fun s => ?_⟩
  · obtain ⟨t, answer, keeps⟩ := exec_keeps c s
    exact ⟨t, answer, keeps.pending⟩
  · obtain ⟨t, answer, keeps⟩ := step_keeps s
    exact ⟨t, answer, keeps.pending⟩

/-- Settles O2: the state of reset and its registers, evaluated. -/
theorem resetLeaves : Obligations.ResetLeaves := by
  unfold Obligations.ResetLeaves
  refine ⟨?_, ?_⟩
  · exact ⟨rfl, rfl, rfl, rfl, rfl, rfl, rfl, rfl, rfl, fun _ => rfl, fun _ _ => ⟨rfl, rfl⟩⟩
  · exact ⟨by decide, by decide, by decide, by decide, by decide, by decide, by decide, by decide, by decide, by decide, by decide, by decide, by decide, by decide, by decide⟩

end Sys2Proof.Machine
end

section
/-! SUPPORT. A level at Custodian's filter: when it is accepted, when not, and when it is the one already accepted (15_safety.md, R385, R389). -/

namespace Sys2Proof.Machine

/-- The channel of an input on Custodian's side. -/
theorem SiLevel.eq_iff (l : SiLevel) (d : Bool) : (l.accepted = true ∧ l.demand = d) ↔ l = { accepted := true, demand := d } := by
  obtain ⟨accepted, demand⟩ := l
  simp

/-- The channel that an edge of an input is about. -/
def SiSt.at (ch : Side) (x : SiSt) : SiLevel := match ch with | .a => x.a | .b => x.b
/-- The other channel of the input. -/
def SiSt.beside (ch : Side) (x : SiSt) : SiLevel := match ch with | .a => x.b | .b => x.a

variable {s : State} {n : SiN} {ch : Side} {d : Bool} {us : Q} {at_ : Nat}

/-- The judgement of a level, said of its channel. -/
theorem execSafetyInputEdge_eq : execSafetyInputEdge n ch d us at_ s =
    if s.saf.evaluating = false ∨ s.cuUsed n = false ∨ (((s.saf.si.get n).at ch).accepted = true ∧ ((s.saf.si.get n).at ch).demand = d) then .next s
    else .next (if filterAccepts s n ((s.saf.si.get n).at ch).accepted us then siEdge n ch d at_ (if filterOpen s n ((s.saf.si.get n).at ch).accepted us then { s with freeIx := s.freeIx + 1 } else s)
      else if filterOpen s n ((s.saf.si.get n).at ch).accepted us then { s with freeIx := s.freeIx + 1 } else s) := by
  cases ch <;> rfl

/-- A level held for FILT is an edge of its channel. -/
theorem execSafetyInputEdge_accepted (on : s.saf.evaluating = true) (used : s.cuUsed n = true) (new : (s.saf.si.get n).at ch ≠ { accepted := true, demand := d }) (long : (s.cu n 4 : Q) ≤ us) :
    execSafetyInputEdge n ch d us at_ s = .next (siEdge n ch d at_ s) := by
  have closed : filterOpen s n ((s.saf.si.get n).at ch).accepted us = false := by
    unfold filterOpen
    rw [decide_eq_false (not_lt.2 long), Bool.and_false]
  have ok : filterAccepts s n ((s.saf.si.get n).at ch).accepted us = true := by
    unfold filterAccepts
    rw [decide_eq_true long, Bool.true_or]
  have go : ¬(s.saf.evaluating = false ∨ s.cuUsed n = false ∨ (((s.saf.si.get n).at ch).accepted = true ∧ ((s.saf.si.get n).at ch).demand = d)) := by
    rw [SiLevel.eq_iff]
    simp [on, used, new]
  rw [execSafetyInputEdge_eq, if_neg go, if_pos ok, if_neg (ne_true_of_eq_false closed)]

/-- A level that the filter does not take, that is the accepted one or that nothing judges changes nothing. -/
theorem execSafetyInputEdge_ignored (h : s.saf.evaluating = false ∨ s.cuUsed n = false ∨ (s.saf.si.get n).at ch = { accepted := true, demand := d } ∨ us < 4 / 5 * (s.cu n 4 : Q) ∨ (us < (s.cu n 4 : Q) ∧ ((s.saf.si.get n).at ch).accepted = false)) :
    execSafetyInputEdge n ch d us at_ s = .next s := by
  have open_or : ∀ l : SiLevel, us < 4 / 5 * (s.cu n 4 : Q) ∨ (us < (s.cu n 4 : Q) ∧ l.accepted = false) → filterOpen s n l.accepted us = false ∧ filterAccepts s n l.accepted us = false := by
    intro l short
    have filt : us < (s.cu n 4 : Q) := by
      rcases short with short | ⟨short, -⟩
      · have : (0 : Q) ≤ (s.cu n 4 : Q) := by positivity
        linarith
      · exact short
    have shut : filterOpen s n l.accepted us = false := by
      unfold filterOpen
      rcases short with short | ⟨-, none⟩
      · rw [decide_eq_false (not_le.2 short), Bool.and_false, Bool.false_and]
      · rw [none, Bool.false_and, Bool.false_and]
    refine ⟨shut, ?_⟩
    unfold filterAccepts
    rw [shut, decide_eq_false (not_le.2 filt), Bool.false_and, Bool.false_or]
  by_cases judged : s.saf.evaluating = false ∨ s.cuUsed n = false ∨ (((s.saf.si.get n).at ch).accepted = true ∧ ((s.saf.si.get n).at ch).demand = d)
  · rw [execSafetyInputEdge_eq, if_pos judged]
  · have short : us < 4 / 5 * (s.cu n 4 : Q) ∨ (us < (s.cu n 4 : Q) ∧ ((s.saf.si.get n).at ch).accepted = false) := by
      rcases h with h | h | h | h
      · exact absurd (.inl h) judged
      · exact absurd (.inr (.inl h)) judged
      · exact absurd (.inr (.inr ((SiLevel.eq_iff _ _).2 h))) judged
      · exact h
    obtain ⟨shut, refused⟩ := open_or _ short
    rw [execSafetyInputEdge_eq, if_neg judged, if_neg (ne_true_of_eq_false refused), if_neg (ne_true_of_eq_false shut)]

theorem accept_at (x : SiSt) : (x.accept ch d).at ch = { accepted := true, demand := d } ∧ (x.accept ch d).beside ch = x.beside ch := by
  cases ch <;> exact ⟨rfl, rfl⟩

theorem edged_at (t td : Nat) (x : SiSt) : (x.edged ch d t td).at ch = { accepted := true, demand := d } ∧ (x.edged ch d t td).beside ch = x.beside ch := by
  obtain ⟨a, b⟩ := edged_level ch d t td x
  cases ch <;> exact ⟨‹_›, ‹_›⟩

end Sys2Proof.Machine
end

section
/-! The filter, the demand, the discrepancy latch and the two views of a safety input. -/

namespace Sys2Proof.Machine

/-- Settles O39: an accepted edge by `siEdge_spec`, a latch by `siLatch_spec`. -/
theorem safetyInputs : Obligations.SafetyInputs := by
  unfold Obligations.SafetyInputs
  refine ⟨fun s n ch d us at_ on used new long early => ?edge, fun s n ch d us at_ h => ⟨s, ?ignored, rfl⟩, fun s n at_ t0 since on used late off => ?latch, fun s n ch us on used differs long => ?view⟩
  case edge =>
    have early' : ∀ t, (s.saf.si.get n).openAt = some t → at_ - t ≤ discTicks s n := fun t ht => by
      rw [ht] at early
      exact of_decide_eq_true early
    obtain ⟨rest, gets, demand, done⟩ := siEdge_spec n ch d at_ s early'
    have here := (gets n).trans (if_pos rfl)
    have level := edged_at (ch := ch) (d := d) at_ (discTicks s n) (s.saf.si.get n)
    refine ⟨_, execSafetyInputEdge_accepted on used (by cases ch <;> exact new) long, ?_, ?_, fun m other => (gets m).trans (if_neg other), rest, ?_, ?_⟩
    · rw [here]; cases ch <;> exact level.1
    · rw [here]; cases ch <;> exact level.2
    · rintro rfl
      obtain ⟨inDemand, counted⟩ := edged_demand ch at_ (discTicks s n) (s.saf.si.get n)
      obtain ⟨grows, raised⟩ := demand rfl
      exact ⟨by rw [here]; exact inDemand, by rw [here]; exact counted, grows, raised⟩
    · rintro rfl f both first within other
      obtain ⟨completes, disc, test, out⟩ := edged_done ch at_ (discTicks s n) f (s.saf.si.get n) both first within other
      exact ⟨by rw [here]; exact disc, by rw [here]; exact test, by rw [here]; exact out, done completes⟩
  case ignored => exact execSafetyInputEdge_ignored (by cases ch <;> exact h)
  case latch =>
    obtain ⟨rest, grows, raised, gets⟩ := siLatch_spec n s off
    have here := (gets n).trans (if_pos rfl)
    have entered : ({ s.saf.si.get n with disc := true, discs := satInc 8 (s.saf.si.get n).discs } : SiSt).entered.inDemand = true := by
      unfold SiSt.entered SiSt.demanding
      cases h : (s.saf.si.get n).inDemand <;> simp [h]
    refine ⟨siLatch n s, ?_, ?_, ?_, ?_, raised, grows, fun m other => (gets m).trans (if_neg other), rest⟩
    · show execDiscrepancyLatch n at_ s = _
      unfold execDiscrepancyLatch
      rw [since]
      exact if_pos ⟨on, used, late⟩
    · rw [here, entered_same]
    · rw [here, entered_same]
    · rw [here]; exact entered
  case view =>
    refine ⟨raise 0x5803 n.val 0 s, ?_, raise_active _ _ _ _, raise_grows _ _ _ _, raise_beyond _ _ _ _⟩
    show execInputViewMismatch n ch us s = _
    unfold execInputViewMismatch
    cases ch <;> exact if_pos ⟨on, used, differs, long⟩

end Sys2Proof.Machine
end

section
/-! SUPPORT. What a housekeeping round leaves of the slots, and of the note that it has counted them (13_thermal.md, R349 to R351). -/

namespace Sys2Proof.Machine

/-! ## The note of a failed reference check (R350) -/

theorem counted_of_beyond {s t : State} (h : t.beyond = s.beyond) : t.thm.counted = s.thm.counted := congrArg (fun b => b.thm.counted) h

theorem guardSecondary_counted (s : State) (k : Fin 29) : (guardSecondary s k).thm.counted = s.thm.counted := by
  unfold guardSecondary
  split
  · rfl
  · exact counted_of_beyond ((guardFault_beyond _ _ _ _).trans (guardFault_beyond _ _ _ _)) |>.trans rfl

theorem guardPrimary_counted (s : State) (k : Fin 8) : (guardPrimary s k).thm.counted = s.thm.counted :=
  (counted_of_beyond (guardFault_beyond _ _ _ _)).trans rfl

theorem stepSwitch_counted (s : State) (c : Chan) : (stepSwitch s c).thm.counted = s.thm.counted := by
  obtain ⟨-, y, thm, -⟩ := stepSwitch_spec s c
  rw [thm]

theorem conservator_counted (taken : List HkReading) (b : Bool) (s : State) : (conservator taken b s).thm.counted = s.thm.counted := by
  have published : ∀ u, (publish b u).thm.counted = u.thm.counted := fun u => by rw [(publish_spec b u).2.1]
  unfold conservator
  dsimp only
  rw [foldl_part (fun s => s.thm.counted) guardPrimary_counted, foldl_part (fun s => s.thm.counted) guardSecondary_counted]
  show (publish b _).thm.counted = _
  rw [published, foldl_part (fun s => s.thm.counted) stepSwitch_counted, foldl_part (fun s => s.thm.counted) (fun u k => counted_of_beyond (anchorFault_beyond u k))]
  exact foldl_part (f := readEnergy) (fun s => s.thm.counted) (fun _ _ => rfl) _ _

/-! ## What the slots hold (R349, R351) -/

/-- A round whose reference check failed leaves every slot's run of stale rounds. -/
theorem takeSlots_run (taken : List HkReading) (s : State) (k : Fin 96) : ((takeSlots true taken s).thm.slots.get k).run = (s.thm.slots.get k).run := by
  unfold takeSlots
  dsimp only
  generalize s.thm.slots = slots
  induction taken generalizing slots with
  | nil => rfl
  | cons r l ih =>
    rw [List.foldl_cons, ih, Tab.get_put]
    split
    next same => rw [same]; rfl
    next => rfl

/-- The parts of the Conservator that the slots do not hold. -/
theorem takeSlots_rest (b : Bool) (taken : List HkReading) (s : State) : takeSlots b taken s = { s with thm := { s.thm with counted := b, slots := (takeSlots b taken s).thm.slots } } := rfl

theorem takeSupplies_only (taken : List HkReading) (s : State) :
    takeSupply taken .shift (takeSupply taken .park s) = { s with act := (takeSupply taken .shift (takeSupply taken .park s)).act } := by
  generalize ha : (takeSupply taken .shift (takeSupply taken .park s)).act = a
  rw [takeSupply_step, ha, takeSupply_step]

/-- A step of the switches reads the energies, the Catalogue and the last step's terms alone. -/
theorem Stepped.congr {s u : State} {an : Tab Chan Anchor} {c : Chan} {y : SwTh} (cat : u.cat = s.cat) (gd : u.gd = s.gd) (sw : u.thm.sw = s.thm.sw) (h : Stepped u an c y) : Stepped s an c y := by
  unfold Stepped throttle State.pf State.payload at *
  rwa [cat, gd, sw] at h

theorem modelled_congr {s u : State} (cat : u.cat = s.cat) : modelled u = modelled s := by
  unfold modelled State.chPresent State.hasRec State.pb State.payload
  rw [cat]

end Sys2Proof.Machine
end

section
/-! Housekeeping rounds, with and without a Catalogue, and the slots that a round did not take. -/

namespace Sys2Proof.Machine

/-- A round of good references with a Catalogue: the slots are taken, the bridge supplies follow, the Conservator steps. -/
theorem execHousekeepingRound_good {l : List HkReading} {s : State} (runs : s.xtalOk = true) (locked : s.cat.locked = true) (good : refBad (withSense s l) = []) :
    ∃ b u, execHousekeepingRound l s = .next (conservator (withSense s l) b u) ∧ ∃ a, u = { takeSlots false (withSense s l) s with act := a } := by
  unfold execHousekeepingRound
  rw [if_neg (by rw [runs]; decide)]
  dsimp only
  rw [good, if_pos rfl, show decide (([] : List (Fin 96)) ≠ []) = false from rfl]
  exact ⟨_, _, if_neg (by rw [show (takeSlots false (withSense s l) s).cat.locked = s.cat.locked from rfl, locked]; decide), _, takeSupplies_only _ _⟩

/-- Without a Catalogue only the primary's own temperature is guarded. -/
theorem execHousekeepingRound_empty {l : List HkReading} {s : State} (runs : s.xtalOk = true) (empty : s.cat.locked = false) (good : refBad (withSense s l) = []) :
    execHousekeepingRound l s = .next ((List.finRange 8).foldl guardPrimary (takeSlots false (withSense s l) s)) := by
  unfold execHousekeepingRound
  rw [if_neg (by rw [runs]; decide)]
  dsimp only
  rw [good, if_pos rfl, show decide (([] : List (Fin 96)) ≠ []) = false from rfl]
  exact if_pos empty

/-- Settles O38: a round by `conservator_spec`, the slots it did not take by `markStale_spec`. -/
theorem thermalRounds : Obligations.ThermalRounds := by
  unfold Obligations.ThermalRounds
  refine ⟨fun s l runs locked good once => ?good, fun s l runs locked bad => ?bad, fun s l runs new some => ?stale, fun s l ns => ⟨fun stopped => if_pos stopped, fun h => if_pos h⟩, fun s l runs empty good once => ?empty, fun s ns sensed => ?sensed⟩
  case good =>
    obtain ⟨b, u, answer, a, hu⟩ := execHousekeepingRound_good (l := l) runs locked good
    obtain ⟨untaken, took⟩ := takeSlots_get (withSense s l) s once
    have thm : u.thm = (takeSlots false (withSense s l) s).thm := by rw [hu]
    have rest : u.cat = s.cat ∧ u.gd = s.gd ∧ u.thm.sw = s.thm.sw ∧ u.thm.lastFull = s.thm.lastFull ∧ u.thm.rounds = s.thm.rounds ∧ u.thm.missed = s.thm.missed ∧ ThmStep s u := by
      rw [hu]
      exact ⟨rfl, rfl, rfl, rfl, rfl, rfl, rfl⟩
    obtain ⟨cat, gd, sw, lastFull, rounds, missed, step⟩ := rest
    obtain ⟨step', rounds', slots', missed', still, stepped, limits⟩ := conservator_spec (withSense s l) b u
    rw [modelled_congr cat] at still stepped
    refine ⟨_, answer, ?_, missed'.trans missed, ?_, ?_, fun c m => (stepped c m).congr cat gd sw, ?_, ?_, step.trans step'⟩
    · rw [rounds', rounds]
    · intro r m; rw [slots', thm]; exact took r m
    · intro n h; rw [slots', thm]; exact untaken n h
    · intro c m; rw [still c m, sw]
    · rw [← lastFull]; exact limits
  case bad =>
    obtain ⟨b, answer⟩ := round_bad (l := l) runs locked rfl bad
    obtain ⟨same, -, raised⟩ := raises_spec 0x4809 0 (refBad (withSense s l)) (takeSlots true (withSense s l) s) (fun i s => by simp [classOf, codesF0, codesF1, codesF2]) (by decide)
    generalize (refBad (withSense s l)).foldl (fun s n => raise 0x4809 n.val 0 s) (takeSlots true (withSense s l) s) = v at same raised answer
    have taken : v.thm = (takeSlots true (withSense s l) s).thm ∧ ThmStep s v := by rw [same]; exact ⟨rfl, rfl⟩
    obtain ⟨slots, missed, third, same', grows, thm⟩ := markStale_spec slotAll (List.nodup_finRange 96) (by decide) v
    generalize markStale slotAll v = w at slots missed third same' grows thm answer
    have marked : ThmStep v w := by rw [same']; rfl
    have supplies := takeSupplies_only (withSense s l) w
    generalize takeSupply (withSense s l) .shift (takeSupply (withSense s l) .park w) = x at supplies answer
    have x_thm : x.thm = w.thm ∧ x.faults = w.faults ∧ ThmStep w x := by rw [supplies]; exact ⟨rfl, rfl, rfl⟩
    obtain ⟨step', rounds', slots', missed', -⟩ := conservator_spec (withSense s l) b x
    have keeps : ∀ code i, 0x4807 < code → active code i w = true → active code i (conservator (withSense s l) b x) = true := fun code i h act =>
      conservator_keeps _ _ _ _ _ (by omega) (.inr h) ((active_of x_thm.2.1 code i).trans act)
    have slot : ∀ k, (conservator (withSense s l) b x).thm.slots.get k = { v.thm.slots.get k with stale := true, run := satInc 8 (s.thm.slots.get k).run } := fun k => by
      rw [slots', x_thm.1, (slots k).trans (if_pos (List.mem_finRange k)), taken.1, takeSlots_run]
    refine ⟨_, answer, fun n m => keeps _ _ (by decide) (grows _ _ (raised n m)), fun k => ⟨by rw [slot k], by rw [slot k], fun two => keeps _ _ (by decide) (third k (List.mem_finRange k) ?_)⟩, ?_, ?_, ?_, ?_⟩
    · rw [taken.1, takeSlots_run]; exact two
    · rw [conservator_counted, x_thm.1, thm, taken.1]; rfl
    · rw [missed', x_thm.1, missed, taken.1]; rfl
    · rw [rounds', x_thm.1, thm, taken.1]; rfl
    · exact taken.2.trans (marked.trans (x_thm.2.2.trans step'))
  case stale =>
    obtain ⟨n, m, none⟩ := some
    have mem : ∀ k, k ∈ l.dedup.filter (fun n => (s.senseReading n).isNone) ↔ k ∈ l ∧ s.senseReading k = Option.none := fun k => by
      rw [List.mem_filter, List.mem_dedup, Option.isNone_iff_eq_none]
    obtain ⟨slots, missed, third, same, -, -⟩ := markStale_spec _ ((List.nodup_dedup l).filter (fun n => (s.senseReading n).isNone)) (List.ne_nil_of_mem ((mem n).2 ⟨m, none⟩)) s
    refine ⟨_, if_neg (by rw [runs, new]; decide), fun k => ?_, missed, fun k i none => third k ((mem k).2 ⟨i, none⟩), same⟩
    rw [slots k]
    exact if_congr (mem k) rfl rfl
  case empty =>
    have guards : ∀ u, ((List.finRange 8).foldl guardPrimary u).thm.main = u.thm.main := foldl_part (fun s => s.thm.main) (fun s k => (guardPrimary_spec s k).2) _
    obtain ⟨untaken, took⟩ := takeSlots_get (withSense s l) s once
    have main := guards (takeSlots false (withSense s l) s)
    unfold Thm.main at main
    simp only [Prod.mk.injEq] at main
    obtain ⟨rounds, missed, slots, sw, -, limits, -⟩ := main
    refine ⟨_, execHousekeepingRound_empty runs empty good, fun r m => ?_, fun n h => ?_, sw, limits, rounds, missed⟩
    · rw [slots]; exact took r m
    · rw [slots]; exact untaken n h
  case sensed =>
    have none : ns.dedup.filter (fun n => (s.senseReading n).isNone) = [] := List.filter_eq_nil_iff.2 fun n m => by
      rw [Option.isNone_iff_eq_none]
      exact sensed n (List.mem_dedup.1 m)
    show execHousekeepingStale ns s = _
    unfold execHousekeepingStale
    rw [none]
    exact ite_self _

end Sys2Proof.Machine
end

section
/-! SUPPORT. A bridge whose outputs are off, and the first step of what follows its braking (14_actuators.md, R363, R366, R369, R373). -/

namespace Sys2Proof.Machine

/-! ## The stop of a bridge (R140, R363) -/

/-- A bridge commutates no leg. -/
def ActSt.uncommuted (x : ActSt) : ActSt := { x with comm := .off }

/-- A bridge that is stopped has its outputs off, its carrier stopped and no leg commutated. -/
theorem stopGroup_bridge (a : Act) (s : State) :
    stopGroup a.grp s = { s with pwm := s.pwm.upd a.grp PwmGrp.halted, act := s.act.upd a ActSt.uncommuted, gd := (stopGroup a.grp s).gd } := by
  rw [stopGroup_gd]
  cases a <;>
  · unfold stopGroup
    rw [stopChans_only]
    rfl

/-! ## What follows the braking at the target (R369, R373, R374) -/

theorem stopGroup_act (a : Act) (s : State) : (stopGroup a.grp s).act.get a = (s.act.get a).uncommuted := by
  rw [stopGroup_bridge]
  exact Tab.get_upd_same _ _ _

theorem actPos_act {s u : State} {a : Act} (pos : u.pos = s.pos) (ref : (u.act.get a).ref = (s.act.get a).ref) : actPos u a = actPos s a := by
  unfold actPos actCount
  rw [pos, ref]

theorem within_cat {s u : State} (a : Act) (cat : u.cat = s.cat) (x t : Int) : within u a x t = within s a x t := by
  unfold within State.pu State.pb State.payload
  rw [cat]

theorem completeSeq_spec (a : Act) (s : State) : completeSeq a s = { s with act := (completeSeq a s).act } ∧ ((completeSeq a s).act.get a).phase = .idle ∧ ((completeSeq a s).act.get a).seq = 0 ∧
    ((completeSeq a s).act.get a).seqs = wrapInc 8 (s.act.get a).seqs := by
  unfold completeSeq
  simp

/-- A bridge off its target: it stops after the last retry, else it moves toward the target again. -/
theorem afterBrake_away {a : Act} {s w : State} (stopped : w = stopGroup a.grp s) (away : within s a (actPos s a) (s.act.get a).target = false) :
    afterBrake a s = if s.pu 0x78 a.num 48 ≤ (s.act.get a).retries then actStop a 0x5001 w else
      stroke a (moveNeg a { w with act := w.act.upd a (fun y => { y with retries := y.retries + 1 }) }) (s.act.get a).target .moving { w with act := w.act.upd a (fun y => { y with retries := y.retries + 1 }) } := by
  have cat : w.cat = s.cat := by rw [stopped, stopGroup_cat]
  have pos : actPos w a = actPos s a := actPos_act (by rw [stopped, stopGroup_pos]) (by rw [stopped, stopGroup_act]; rfl)
  have limit : w.pu 0x78 a.num 48 = s.pu 0x78 a.num 48 := by unfold State.pu State.pb State.payload; rw [cat]
  unfold afterBrake
  dsimp only
  rw [← stopped, if_pos (by rw [within_cat a cat, pos, away]), limit]

/-- A stopped bridge stands where it stood. -/
theorem stopped_within (a : Act) (s : State) (x : Int) : within (stopGroup a.grp s) a (actPos (stopGroup a.grp s) a) x = within s a (actPos s a) x := by
  rw [within_cat a (stopGroup_cat _ _), actPos_act (stopGroup_pos _ _) (by rw [stopGroup_act]; rfl)]

/-- The park actuator at its target waits for SI3. -/
theorem afterBrake_atPark {s : State} (there : within s .park (actPos s .park) (s.act.get .park).target = true) :
    afterBrake .park s = parkConfirm { stopGroup Act.park.grp s with act := (stopGroup Act.park.grp s).act.upd .park (fun y => { y with phase := .awaiting, offNs := (stopGroup Act.park.grp s).mer.ns }) } := by
  have stands := (stopped_within .park s _).trans there
  unfold afterBrake
  dsimp only
  generalize stopGroup Act.park.grp s = w at stands ⊢
  rw [if_neg (by rw [stands]; decide)]

/-- The shift actuator at its target completes the sequence, or dwells in N. -/
theorem afterBrake_atShift {s : State} (there : within s .shift (actPos s .shift) (s.act.get .shift).target = true) :
    afterBrake .shift s = if (s.act.get .shift).second then completeSeq .shift (stopGroup Act.shift.grp s) else
      { stopGroup Act.shift.grp s with act := (stopGroup Act.shift.grp s).act.upd .shift (fun y => { y with phase := .awaiting }) } := by
  have stands := (stopped_within .shift s _).trans there
  unfold afterBrake
  dsimp only
  generalize stopGroup Act.shift.grp s = w at stands ⊢
  rw [if_neg (by rw [stands]; decide)]

/-- A correction: the move starts again toward its target, with one more retry. -/
theorem afterBrake_correct {a : Act} {s : State} (away : within s a (actPos s a) (s.act.get a).target = false) (left : (s.act.get a).retries < s.pu 0x78 a.num 48) :
    ((afterBrake a s).act.get a).phase = .moving ∧ ((afterBrake a s).act.get a).neg = (if (s.act.get a).ref.isSome then decide ((s.act.get a).target < actPos s a) else (s.act.get a).fwd) ∧
      ((afterBrake a s).act.get a).retries = (s.act.get a).retries + 1 ∧ ((afterBrake a s).act.get a).target = (s.act.get a).target ∧ ((afterBrake a s).act.get a).d = 0 ∧
      (afterBrake a s).beyond = s.beyond ∧ (afterBrake a s).faults = s.faults := by
  rw [afterBrake_away rfl away, if_neg (show ¬ _ ≤ _ from by omega)]
  generalize hw : stopGroup a.grp s = w
  have bridge : w.act.get a = (s.act.get a).uncommuted := by rw [← hw, stopGroup_act]
  generalize hu : ({ w with act := w.act.upd a (fun y => { y with retries := y.retries + 1 }) } : State) = u
  have own : u.act.get a = { (s.act.get a).uncommuted with retries := (s.act.get a).retries + 1 } := by rw [← hu, ← bridge]; exact (Tab.get_upd_same _ _ _).trans (by rw [bridge]; rfl)
  have pos : actPos u a = actPos s a := actPos_act (by rw [← hu, ← hw]; exact stopGroup_pos _ _) (by rw [own]; rfl)
  have far : within u a (actPos s a) (s.act.get a).target = false := by rw [within_cat a (s := s) (by rw [← hu, ← hw]; exact stopGroup_cat _ _), away]
  obtain ⟨only, -, target, neg, retries, duty, phase⟩ := stroke_spec a (moveNeg a u) (s.act.get a).target .moving u
  refine ⟨phase.trans (if_neg ?_), neg.trans ?_, retries.trans (by rw [own]), target, duty, ?_, ?_⟩
  · rw [pos, far]; simp
  · unfold moveNeg
    rw [pos, own]
    rfl
  · rw [only, ← hu, ← hw]; exact stopGroup_beyond _ _
  · rw [only, ← hu, ← hw]; exact stopGroup_faults _ _

/-- A park actuator at its target: the sequence is complete with the confirmation of SI3, else it waits for it. -/
theorem afterBrake_park {s : State} (there : within s .park (actPos s .park) (s.act.get .park).target = true) (wait : 0 ≤ s.pf 0x78 0 84) :
    (∀ d, grpOf d = 8 → ((afterBrake .park s).gd.ch.get d).out ≠ .on) ∧ ((afterBrake .park s).act.get .park).phase = (if si3Confirms s then .idle else .awaiting) ∧
      ((afterBrake .park s).act.get .park).seq = (if si3Confirms s then 0 else (s.act.get .park).seq) ∧
      afterBrake .park s = { s with act := (afterBrake .park s).act, gd := (afterBrake .park s).gd, pwm := (afterBrake .park s).pwm, orr := (afterBrake .park s).orr } := by
  rw [afterBrake_atPark there]
  have off := offGroup 8 s
  have only := stopGroup_bridge .park s
  have bridge := stopGroup_act .park s
  generalize hg : (stopGroup Act.park.grp s).gd = g at only
  rw [show stopGroup 8 s = stopGroup Act.park.grp s from rfl] at off
  generalize stopGroup Act.park.grp s = w at hg off only bridge ⊢
  subst hg
  generalize hu : ({ w with act := w.act.upd .park (fun y => { y with phase := .awaiting, offNs := w.mer.ns }) } : State) = u
  have own : u.act.get .park = { (s.act.get .park).uncommuted with phase := .awaiting, offNs := u.mer.ns } := by
    rw [← hu]; exact (Tab.get_upd_same _ _ _).trans (by rw [bridge])
  have frame : u = { s with act := u.act, gd := w.gd, pwm := u.pwm } := by rw [← hu, only]
  have confirms : si3Confirms u = si3Confirms s := by
    unfold si3Confirms
    rw [own, frame]
    rfl
  have due : ((u.mer.ns - (u.act.get .park).offNs : Nat) : Q) ≤ u.pf 0x78 0 84 * 1000000000 := by
    rw [own, frame]
    show ((s.mer.ns - s.mer.ns : Nat) : Q) ≤ s.pf 0x78 0 84 * 1000000000
    rw [Nat.sub_self]
    exact mul_nonneg wait (by norm_num)
  have phase : (u.act.get .park).phase = .awaiting := by rw [own]
  have seq : (u.act.get .park).seq = (s.act.get .park).seq := by rw [own]; rfl
  have answer : parkConfirm u = if si3Confirms s then completeSeq .park u else u := by
    unfold parkConfirm
    dsimp only
    rw [phase, confirms]
    exact if_congr ⟨fun h => h.2.1, fun h => ⟨rfl, h, due⟩⟩ rfl rfl
  obtain ⟨only', phase', seq', -⟩ := completeSeq_spec .park u
  have gd : u.gd = w.gd := by rw [frame]
  rw [answer]
  split
  next yes => exact ⟨fun d m => by rw [only']; exact gd ▸ off d m, phase', seq', by rw [only', frame]⟩
  next no => exact ⟨fun d m => gd ▸ off d m, phase, seq, by rw [frame]⟩


/-- The shift actuator at its target: the second move completes the sequence, the first one dwells in N. -/
theorem afterBrake_shift {s : State} (there : within s .shift (actPos s .shift) (s.act.get .shift).target = true) :
    (∀ d, grpOf d = 9 → ((afterBrake .shift s).gd.ch.get d).out ≠ .on) ∧ ((afterBrake .shift s).act.get .shift).phase = (if (s.act.get .shift).second then .idle else .awaiting) ∧
      ((afterBrake .shift s).act.get .shift).seq = (if (s.act.get .shift).second then 0 else (s.act.get .shift).seq) ∧
      afterBrake .shift s = { s with act := (afterBrake .shift s).act, gd := (afterBrake .shift s).gd, pwm := (afterBrake .shift s).pwm, orr := (afterBrake .shift s).orr } := by
  rw [afterBrake_atShift there]
  have off := offGroup 9 s
  have only := stopGroup_bridge .shift s
  have bridge := stopGroup_act .shift s
  generalize hg : (stopGroup Act.shift.grp s).gd = g at only
  rw [show stopGroup 9 s = stopGroup Act.shift.grp s from rfl] at off
  generalize stopGroup Act.shift.grp s = w at hg off only bridge ⊢
  subst hg
  have frame : w = { s with act := w.act, gd := w.gd, pwm := w.pwm } := by rw [only]
  split
  next =>
    obtain ⟨only', phase', seq', -⟩ := completeSeq_spec .shift w
    exact ⟨fun d m => by rw [only']; exact off d m, phase', seq', by rw [only', frame]⟩
  next =>
    refine ⟨off, ?_, ?_, by rw [frame]⟩
    · simp
    · simp [bridge, ActSt.uncommuted]

/-- The second move of a shift is due. -/
def onSecond (s : State) : State := { s with act := s.act.put .shift { s.act.get .shift with second := true } }

theorem onSecond_act (s : State) : (onSecond s).act.get .shift = { s.act.get .shift with second := true } := Tab.get_put_same _ _ _

/-- A stroke leaves which move of a shift it is. -/
theorem stroke_second (a : Act) (neg : Bool) (x : Int) (ph : ActPhase) (s : State) : ((stroke a neg x ph s).act.get a).second = (s.act.get a).second := by
  unfold stroke arrive brake
  dsimp only
  split <;> simp

/-! ## The end of any other braking (R369, R372, R375) -/

theorem execBrakeEnd_due {a : Act} {ms : Nat} {s : State} (braking : (s.act.get a).phase = .braking) (due : s.pf 0x78 a.num 56 * 1000 ≤ (ms : Q)) :
    execBrakeEnd a ms s = match (s.act.get a).why with
      | .reached => .next (afterBrake a s)
      | .stall => .next (backOff a s)
      | .supersede => .next (stroke a (strokeNeg s a 1) (posOf s a 1) (firstPhase s a) s)
      | .hall => .next (stopGroup a.grp { s with act := s.act.put a { s.act.get a with phase := .stopped, seq := 0 } })
      | .giveUp code => .next (actStop a code s) :=
  if_neg (by rw [braking, not_or]; exact ⟨by simp, not_lt.2 due⟩)

theorem backOff_spec (a : Act) (s : State) : ((backOff a s).act.get a).phase = .backing ∧ ((backOff a s).act.get a).neg = !(s.act.get a).fwd ∧ ((backOff a s).act.get a).backAt = actCount s a ∧
    ((backOff a s).act.get a).d = 0 ∧ ((backOff a s).act.get a).dTgt = 0 ∧ backOff a s = { s with act := (backOff a s).act } := by
  unfold backOff
  simp

/-- A Hall fault stops the bridge: its outputs are off and its sequence has ended. -/
theorem hallStop_spec (a : Act) (s : State) (x : ActSt) :
    (∀ d, grpOf d = a.grp → ((stopGroup a.grp { s with act := s.act.put a x }).gd.ch.get d).out ≠ .on) ∧ (stopGroup a.grp { s with act := s.act.put a x }).act.get a = x.uncommuted ∧
      stopGroup a.grp { s with act := s.act.put a x } = { s with act := (stopGroup a.grp { s with act := s.act.put a x }).act, gd := (stopGroup a.grp { s with act := s.act.put a x }).gd, pwm := (stopGroup a.grp { s with act := s.act.put a x }).pwm, orr := (stopGroup a.grp { s with act := s.act.put a x }).orr } := by
  refine ⟨offGroup a.grp _, ?_, ?_⟩
  · rw [stopGroup_act, Tab.get_put_same]
  · rw [stopGroup_bridge]

/-! ## A stall (R368, R372) -/

/-- The bridge that a stall brakes. -/
theorem brake_stalled (a : Act) (why : BrakeWhy) (s : State) (x : ActSt) :
    (brake a why { s with act := s.act.put a x }).act.get a = { x with phase := .braking, why := why, d := 0, dTgt := 0, ilim := false } ∧
      brake a why { s with act := s.act.put a x } = { s with act := (brake a why { s with act := s.act.put a x }).act } :=
  ⟨by simp [brake], rfl⟩

/-! ## A peak (R366) -/

/-- The actuator after a peak that cuts its driving leg: it counts. -/
def peaked (a : Act) (s : State) : State := { s with act := s.act.put a { s.act.get a with cut := true, peakRun := (s.act.get a).peakRun + 1, peak := satInc 8 (s.act.get a).peak } }

theorem execPeakCurrentCut_cut {a : Act} {i : Q} {h l : Nat} {s : State} (drives : (s.act.get a).comm = .drive h l) (running : (s.pwm.get a.grp).running = true) (high : s.pf 0x78 a.num 24 < i)
    (fresh : (s.act.get a).cut = false) :
    execPeakCurrentCut a i s = .next (if (s.act.get a).peakRun + 1 = 8 then actStop a 0x5003 (turnOff (highSide a h) (peaked a s)) else turnOff (highSide a h) (peaked a s)) := by
  unfold execPeakCurrentCut peaked
  dsimp only
  rw [drives]
  exact if_pos (c := _ ∧ _ ∧ _) ⟨running, high, fresh⟩

/-- A channel that turns off leaves every other channel as it is. -/
theorem turnOff_beside {c d : Chan} (other : d ≠ c) (s : State) : (turnOff c s).gd.ch.get d = s.gd.ch.get d := by
  rw [turnOff_gd]
  split <;> rw [updCh_gets, if_neg other]

end Sys2Proof.Machine
end

section
/-! The moves of an actuator bridge: braking, stalls, peaks, and what stops it. -/

namespace Sys2Proof.Machine

/-- Settles O36: one clause for each command of a move, by what follows the braking and by `actStop_spec`. -/
theorem actuatorMoves : Obligations.ActuatorMoves := by
  unfold Obligations.ActuatorMoves
  refine ⟨fun s a ms braking why due => ?reached, fun s a ms braking due => ?other, fun s a ms moves driven due => ?stall, fun s a ms runs late => ?late, fun s a v ms runs low held => ?low,
    fun s a i h l drives running high fresh => ?peak, fun s ms waits runs due => ?dwell, fun s ms missing => ?missing⟩
  case reached =>
    have answer : exec (.brakeEnd a ms) s = .next (afterBrake a s) := by
      show execBrakeEnd a ms s = _
      rw [execBrakeEnd_due braking due, why]
    refine ⟨fun away left => ⟨_, answer, afterBrake_correct away left⟩, fun away spent => ⟨_, answer, ?_⟩, fun there park wait => ?_, fun there shift => ?_⟩
    · rw [afterBrake_away rfl away, if_pos spent]
      exact actStop_spec a 0x5001 s _ (stopGroup_faults _ _) (stopGroup_beyond _ _)
    · subst park
      exact ⟨_, answer, afterBrake_park there wait⟩
    · subst shift
      exact ⟨_, answer, afterBrake_shift there⟩
  case other =>
    have answer := execBrakeEnd_due braking due
    refine ⟨fun why => ⟨_, answer.trans (by rw [why]), backOff_spec a s⟩, fun why => ⟨_, answer.trans (by rw [why]), ?_⟩, fun why => ⟨_, answer.trans (by rw [why]), ?_⟩, fun code known why => ⟨_, answer.trans (by rw [why]), ?_⟩⟩
    · obtain ⟨only, -, target, -, -, duty, phase⟩ := stroke_spec a (strokeNeg s a 1) (posOf s a 1) (firstPhase s a) s
      exact ⟨phase, target, duty, only⟩
    · obtain ⟨off, own, only⟩ := hallStop_spec a s { s.act.get a with phase := .stopped, seq := 0 }
      exact ⟨off, by rw [own]; rfl, by rw [own]; rfl, by rw [own]; rfl, only⟩
    · exact actStop_spec a code s s rfl rfl (by omega) (by omega)
  case stall =>
    have stalled : ((s.act.get a).phase = .moving ∨ (s.act.get a).phase = .backing) ∧ 0 < (s.act.get a).d ∧ s.pf 0x78 a.num 40 * 1000 ≤ ms := ⟨moves, driven, due⟩
    refine ⟨fun lost => ⟨_, (if_pos stalled).trans (if_pos lost), brake_stalled a _ s _⟩, fun known spent => ⟨_, (if_pos stalled).trans ((if_neg known).trans (if_pos spent)), brake_stalled a _ s _⟩,
      fun known left => ⟨_, (if_pos stalled).trans ((if_neg known).trans (if_neg (Nat.not_le.2 left))), ?_, rfl⟩⟩
    simp [brake]
  case late => exact ⟨_, if_pos ⟨runs, late⟩, actStop_spec a 0x5002 s s rfl rfl⟩
  case low => exact ⟨_, if_pos ⟨runs, low, held⟩, actStop_spec a 0x5009 s s rfl rfl⟩
  case peak =>
    have answer := execPeakCurrentCut_cut drives running high fresh
    refine ⟨fun few => ⟨_, answer.trans (congrArg _ (if_neg (by omega))), turnOff_self _ _, turnOff_cmd _ _, fun d other => turnOff_beside other _, turnOff_only _ (peaked a s)⟩,
      fun eighth => ⟨_, answer.trans (congrArg _ (if_pos (by omega))), actStop_spec a 0x5003 s _ (turnOff_faults _ _) (turnOff_beyond _ _)⟩⟩
  case dwell =>
    refine ⟨fun neutral => ?_, fun gear => ?_⟩
    · obtain ⟨only, phase, seq, seqs⟩ := completeSeq_spec .shift s
      exact ⟨_, (if_pos ⟨waits, runs, due⟩).trans (if_pos neutral), phase, seq, seqs, only⟩
    · refine ⟨_, (if_pos ⟨waits, runs, due⟩).trans (if_neg gear), ?_⟩
      generalize (if (s.act.get .shift).seq = 1 then 0 else 2) = k
      obtain ⟨only, -, target, -, -, duty, phase⟩ := stroke_spec .shift (strokeNeg s .shift k) (posOf s .shift k) .moving (onSecond s)
      refine ⟨phase.trans ?_, (stroke_second .shift _ _ _ (onSecond s)).trans (by rw [onSecond_act]), target, duty, only⟩
      rw [actPos_act (s := s) (u := onSecond s) rfl (by rw [onSecond_act]), onSecond_act]
      exact if_congr (and_iff_right rfl) rfl rfl
  case missing =>
    have fires : ((decide ((s.act.get .park).phase = .awaiting) && decide ((s.act.get .park).seq ≠ 0) && !si3Confirms s) && decide (s.pf 0x78 0 84 * 1000 ≤ (ms : Q)) ||
        (decide ((s.act.get .park).phase = .idle) && ((decide ((s.act.get .park).held = 2) && !s.si3Eng) || (decide ((s.act.get .park).held = 1) && !s.si3Rel))) && decide (s.pf 0x78 0 84 * 1000 < (ms : Q))) = true := by
      simpa [and_assoc] using missing
    exact ⟨_, if_pos fires, actStop_spec .park 0x5006 s _ rfl rfl⟩

end Sys2Proof.Machine
end

section
/-! SUPPORT. The comparator's cells, the mismatch of a pair while a ship entry may wait, and the debug unit's steps (16_lockstep_memory.md, R403 to R411, R418). -/

namespace Sys2Proof.Machine

/-! ## The comparator (R405, R408) -/

/-- The leaf cells `n` of two boundaries agree. -/
abbrev sameCell (x y : Bound) (n : Nat) : Prop := (boundNibbles x)[n]? = (boundNibbles y)[n]?

theorem nibbles_eq {w k : Nat} (full : w = 4 * k) (x y : BitVec w) : (∀ i, i < k → x.extractLsb' (4 * i) 4 = y.extractLsb' (4 * i) 4) ↔ x = y := by
  refine ⟨fun same => BitVec.eq_of_getLsbD_eq fun i lt => ?_, fun e i _ => by rw [e]⟩
  have bit := congrArg (fun v => v.getLsbD (i % 4)) (same (i / 4) (by omega))
  simp only [BitVec.getLsbD_extractLsb', Nat.mod_lt i (by decide : 4 > 0), decide_true, Bool.true_and, Nat.div_add_mod] at bit
  exact bit

theorem rangeMap_get {α : Type} (f : Nat → α) (k i : Nat) : ((List.range k).map f)[i]? = if i < k then some (f i) else none := by
  rw [List.getElem?_map]
  split
  next lt => rw [List.getElem?_range lt]; rfl
  next ge => rw [List.getElem?_eq_none (by simpa using ge)]; rfl

/-- The first 8 cells take the address, the next 16 the write data, then 2 the control and 2 the interrupt acknowledge. -/
theorem boundNibbles_get (x : Bound) (n : Nat) : (boundNibbles x)[n]? =
    if n < 8 then some (x.addr.extractLsb' (4 * n) 4) else if n < 24 then some (x.data.extractLsb' (4 * (n - 8)) 4) else
      if n < 26 then some (x.ctrl.extractLsb' (4 * (n - 24)) 4) else if n < 28 then some (x.iack.extractLsb' (4 * (n - 26)) 4) else none := by
  unfold boundNibbles
  simp only [List.getElem?_append, List.length_append, List.length_map, List.length_range, rangeMap_get]
  split_ifs <;> first | rfl | omega

/-- The cells that take one field agree when the field does. -/
theorem sameCells_field {w lo k : Nat} (field : Bound → BitVec w) (full : w = 4 * k) (takes : ∀ x i, i < k → (boundNibbles x)[lo + i]? = some ((field x).extractLsb' (4 * i) 4)) (x y : Bound) :
    (∀ n, lo ≤ n → n < lo + k → sameCell x y n) ↔ field x = field y := by
  rw [← nibbles_eq full]
  have cell : ∀ i, i < k → (sameCell x y (lo + i) ↔ (field x).extractLsb' (4 * i) 4 = (field y).extractLsb' (4 * i) 4) := fun i lt => by
    unfold sameCell
    rw [takes x i lt, takes y i lt, Option.some_inj]
  refine ⟨fun h i lt => (cell i lt).1 (h _ (by omega) (by omega)), fun h n ge lt => ?_⟩
  have at_ := (cell (n - lo) (by omega)).2 (h _ (by omega))
  rwa [Nat.add_sub_cancel' ge] at at_

theorem sameCell_addr (x y : Bound) : (∀ n, 0 ≤ n → n < 8 → sameCell x y n) ↔ x.addr = y.addr :=
  sameCells_field (lo := 0) (k := 8) Bound.addr rfl (fun x i lt => by rw [boundNibbles_get, if_pos (by omega), Nat.zero_add]) x y
theorem sameCell_data (x y : Bound) : (∀ n, 8 ≤ n → n < 24 → sameCell x y n) ↔ x.data = y.data :=
  sameCells_field (lo := 8) (k := 16) Bound.data rfl (fun x i lt => by rw [boundNibbles_get, if_neg (by omega), if_pos (by omega), Nat.add_sub_cancel_left]) x y
theorem sameCell_ctrl (x y : Bound) : (∀ n, 24 ≤ n → n < 26 → sameCell x y n) ↔ x.ctrl = y.ctrl :=
  sameCells_field (lo := 24) (k := 2) Bound.ctrl rfl (fun x i lt => by rw [boundNibbles_get, if_neg (by omega), if_neg (by omega), if_pos (by omega), Nat.add_sub_cancel_left]) x y
theorem sameCell_iack (x y : Bound) : (∀ n, 26 ≤ n → n < 28 → sameCell x y n) ↔ x.iack = y.iack :=
  sameCells_field (lo := 26) (k := 2) Bound.iack rfl (fun x i lt => by rw [boundNibbles_get, if_neg (by omega), if_neg (by omega), if_neg (by omega), if_pos (by omega), Nat.add_sub_cancel_left]) x y

theorem sameCells {x y : Bound} (same : ∀ n, n < 28 → sameCell x y n) : x = y := by
  have addr := (sameCell_addr x y).1 (fun n _ lt => same n (by omega))
  have data := (sameCell_data x y).1 (fun n _ lt => same n (by omega))
  have ctrl := (sameCell_ctrl x y).1 (fun n _ lt => same n (by omega))
  have iack := (sameCell_iack x y).1 (fun n _ lt => same n lt)
  cases x; cases y
  simp only at addr data ctrl iack
  rw [addr, data, ctrl, iack]

/-- Without a failed cell the rail pairs say where the boundaries differ. -/
theorem cellRails_get (x y : Bound) (n : Nat) : (cellRails [] x y)[n]? = if n < 28 then some (if (boundNibbles x)[n]? = (boundNibbles y)[n]? then 1 else 2) else none :=
  rangeMap_get _ 28 n

/-- Where two boundaries differ, the kind is that of the first cell that sees it. -/
theorem compared_first {x y : Bound} (f n : Nat) (lt : n < 28) (differs : ¬sameCell x y n) (first : ∀ m, m < n → sameCell x y m) : compared [] x y f = some (cellKind n) := by
  have other : x ≠ y := fun e => differs (by rw [e])
  have two : (cellRails [] x y)[n]? = some 2 := by rw [cellRails_get, if_pos lt, if_neg differs]
  have code : ∀ r ∈ cellRails [] x y, r = 1 ∨ r = 2 := by
    intro r m
    obtain ⟨i, got⟩ := List.getElem?_of_mem m
    rw [cellRails_get] at got
    split at got
    · split at got
      · exact .inl (Option.some.inj got).symm
      · exact .inr (Option.some.inj got).symm
    · exact absurd got (by simp)
  have found : (cellRails [] x y).findIdx? (fun r => decide (r = 2)) = some n := by
    rw [List.findIdx?_eq_some_iff_getElem]
    obtain ⟨len, at_⟩ := List.getElem?_eq_some_iff.1 two
    refine ⟨len, by rw [at_]; rfl, fun m before => ?_⟩
    have one : (cellRails [] x y)[m]? = some 1 := by rw [cellRails_get, if_pos (by omega), if_pos (first m before)]
    obtain ⟨_, at_'⟩ := List.getElem?_eq_some_iff.1 one
    rw [at_']
    decide
  unfold compared
  rw [if_neg (fun h => other h.2)]
  dsimp only
  rw [show nodeRails [] = [] from rfl, List.append_nil, if_neg ?notEqual, if_neg ?valid, found]
  case notEqual =>
    intro all
    have := List.all_eq_true.1 all 2 (List.mem_of_getElem? two)
    exact absurd this (by decide)
  case valid =>
    intro any
    obtain ⟨r, m, bad⟩ := List.any_eq_true.1 any
    rcases code r m with e | e <;> rw [e] at bad <;> exact absurd bad (by decide)

/-- A difference in one field, with the cells before it in agreement, is of that field's kind. -/
theorem compared_field {x y : Bound} (f : Nat) {lo hi k : Nat} (le : hi ≤ 28) (kind : ∀ n, lo ≤ n → n < hi → cellKind n = k) (before : ∀ n, n < lo → sameCell x y n)
    (differs : ¬∀ n, lo ≤ n → n < hi → sameCell x y n) : compared [] x y f = some k := by
  classical
  push Not at differs
  obtain ⟨w, ge, lt, no⟩ := differs
  have some : ∃ n, ¬sameCell x y n := ⟨w, no⟩
  have until_ : Nat.find some ≤ w := Nat.find_min' some no
  have behind : lo ≤ Nat.find some := not_lt.1 fun h => Nat.find_spec some (before _ h)
  rw [← kind (Nat.find some) behind (by omega)]
  exact compared_first f _ (by omega) (Nat.find_spec some) (fun m h => not_not.1 (Nat.find_min some h))

theorem compared_addr {x y : Bound} (f : Nat) (other : x.addr ≠ y.addr) : compared [] x y f = some 1 :=
  compared_field f (by decide) (fun n _ lt => if_pos lt) (fun n lt => absurd lt (by omega)) (fun h => other ((sameCell_addr x y).1 h))
theorem compared_data {x y : Bound} (f : Nat) (addr : x.addr = y.addr) (other : x.data ≠ y.data) : compared [] x y f = some 2 :=
  compared_field f (by decide) (fun n ge lt => (if_neg (by omega)).trans (if_pos lt)) (fun n lt => (sameCell_addr x y).2 addr n (by omega) lt) (fun h => other ((sameCell_data x y).1 h))
theorem compared_ctrl {x y : Bound} (f : Nat) (addr : x.addr = y.addr) (data : x.data = y.data) (other : x.ctrl ≠ y.ctrl) : compared [] x y f = some 3 :=
  compared_field f (by decide) (fun n ge lt => (if_neg (by omega)).trans ((if_neg (by omega)).trans (if_pos lt)))
    (fun n lt => if h : n < 8 then (sameCell_addr x y).2 addr n (by omega) h else (sameCell_data x y).2 data n (by omega) lt) (fun h => other ((sameCell_ctrl x y).1 h))

/-- The comparator is silent on equal boundaries alone, as long as no cell fails. -/
theorem compared_none (x y : Bound) (f : Nat) : compared [] x y f = none ↔ x = y := by
  refine ⟨fun silent => not_not.1 fun other => ?_, fun e => if_pos ⟨rfl, e⟩⟩
  classical
  have some : ∃ n, n < 28 ∧ ¬sameCell x y n := by
    by_contra all
    push Not at all
    exact other (sameCells all)
  obtain ⟨lt, no⟩ := Nat.find_spec some
  rw [compared_first f _ lt no (fun m h => not_not.1 fun no' => Nat.find_min some h ⟨by omega, no'⟩)] at silent
  exact absurd silent (by simp)

/-- A cell that drives an invalid code is kind 6 whatever it compares (R408). -/
theorem compared_invalid {n : Nat} (x y : Bound) (f : Nat) (lt : n < 28) {r : BitVec 2} (bad : r = 0 ∨ r = 3) : compared [(n, r)] x y f = some 6 := by
  have drives : r ∈ cellRails [(n, r)] x y := List.mem_map.2 ⟨n, List.mem_range.2 lt, by simp⟩
  have notOne : r ≠ 1 := by rcases bad with e | e <;> rw [e] <;> decide
  unfold compared
  rw [if_neg (fun h => absurd h.1 (by simp))]
  dsimp only
  rw [if_neg (fun all => notOne (of_decide_eq_true (List.all_eq_true.1 all r (List.mem_append_left _ drives)))), if_pos (List.any_eq_true.2 ⟨r, List.mem_append_left _ drives, decide_eq_true bad⟩)]

/-- The comparator never gives the kind of a register comparison. -/
theorem compared_kind {rails : List (Nat × BitVec 2)} {x y : Bound} {f k : Nat} (sees : compared rails x y f = some k) : k ≠ 5 := by
  unfold compared at sees
  dsimp only at sees
  split at sees
  · cases sees
  · split at sees
    · cases sees
    · split at sees
      · cases sees; decide
      · split at sees
        · cases sees
          unfold cellKind
          split_ifs <;> decide
        · cases sees
          omega

/-! ## A mismatch while a ship entry may wait (R80, R409 to R411) -/

theorem offerRec_grows (r : LogRec) (s : State) : Grows s (offerRec r s) := (Grows.of_eq (storeRec_faults r s)).trans (noteDrop_grows _)

theorem entryRecord_spec (s : State) : Grows s (entryRecord s) ∧ (entryRecord s).lks = s.lks := by
  unfold entryRecord
  dsimp only
  have taken : (takeFree s).2.faults = s.faults ∧ (takeFree s).2.lks = s.lks := ⟨rfl, rfl⟩
  generalize (takeFree s).2 = u at taken ⊢
  exact ⟨(Grows.of_eq taken.1).trans (offerRec_grows _ u), (congrArg Beyond.lks (offerRec_beyond _ u)).trans taken.2⟩

theorem lks_of_beyond {s t : State} (h : t.beyond = s.beyond) : t.lks = s.lks := congrArg Beyond.lks h

/-- A ship entry that goes on clears no fault and leaves the pairs. -/
theorem shipProceed_spec (s : State) : Grows s (shipProceed s) ∧ (shipProceed s).lks = s.lks := by
  unfold shipProceed
  split
  · exact ⟨.refl s, rfl⟩
  · split
    · obtain ⟨grows, lks⟩ := entryRecord_spec { s with sup := { s.sup with ship := .record } }
      exact ⟨(Grows.of_eq (s := s) (t := { s with sup := { s.sup with ship := .record } }) rfl).trans grows, lks⟩
    · split
      · have off : (ascLost (bankOff 0 29 (stopDcx s))).faults = s.faults ∧ (ascLost (bankOff 0 29 (stopDcx s))).lks = s.lks :=
          ⟨(ascLost_faults _).trans ((bankOff_faults _ _ _).trans (stopDcx_faults s)), lks_of_beyond ((ascLost_beyond _).trans ((bankOff_beyond _ _ _).trans (stopDcx_beyond s)))⟩
        dsimp only
        generalize ascLost (bankOff 0 29 (stopDcx s)) = u at off ⊢
        exact ⟨.of_eq (by exact off.1), by exact off.2⟩
      · exact ⟨.refl s, rfl⟩

theorem endStage_spec (s : State) : Grows s (endStage s) ∧ (endStage s).lks = s.lks :=
  have ended := shipProceed_spec { s with cat := { s.cat with stage := { noStage with last := s.cat.stage.last } }, ops := { s.ops with waiting := s.ops.waiting.filter (fun o => !isStagingOp o) } }
  ended

/-- The reaction of a pair raises its fault, ends none and leaves the pairs, a ship entry or not. -/
theorem pairReaction_raises (p : LPair) (first : Bool) (s : State) : Grows s (pairReaction p first s) ∧ active (pairFault p first) p.num (pairReaction p first s) = true ∧ (pairReaction p first s).lks = s.lks := by
  have raised (c i : Nat) {u : State} (grows : Grows s u) (lks : u.lks = s.lks) : Grows s (raise c i 0 u) ∧ active c i (raise c i 0 u) = true ∧ (raise c i 0 u).lks = s.lks :=
    ⟨grows.trans (raise_grows _ _ _ _), raise_active _ _ _ _, (raise_lks _ _ _ _).trans lks⟩
  cases p with
  | io => exact raised 0x6001 0 (.refl s) rfl
  | callisto => exact raised 0x6004 3 (.of_eq rfl) rfl
  | europa =>
    cases first with
    | false => exact raised 0x6005 1 (.refl s) rfl
    | true => exact raised 0x6002 1 ((Grows.of_eq (stopCharger_faults s)).trans (sessionFail_grows _)) (congrArg Beyond.lks ((sessionFail_beyond _).trans (stopCharger_beyond s)))
  | ganymede =>
    cases first with
    | false => exact raised 0x6005 2 (.refl s) rfl
    | true => exact raised 0x6003 2 (endStage_spec s).1 (endStage_spec s).2

/-- The pair that a mismatch has halted. -/
def PairSt.halted (p : LPair) (kind word now : Nat) (x : PairSt) : PairSt :=
  { x with st := if x.mismatches = 0 ∧ (p = .europa ∨ p = .ganymede) then 3 else 2, mismatches := satInc 8 x.mismatches, kind := kind, lastWord := if kind = 5 then word else x.lastWord, time := now % 2 ^ 32, replay := [], exportDue := false }

theorem PairSt.halted_st (p : LPair) (kind word now : Nat) (x : PairSt) : (x.halted p kind word now).st ≠ 1 ∧ (x.halted p kind word now).st ≠ 4 := by
  unfold PairSt.halted
  dsimp only
  split <;> decide

/-- What a mismatch of a running pair does, whatever a ship entry then does. -/
theorem mismatch_halts (p : LPair) (kind word : Nat) (s : State) (runs : (s.lks.pairs.get p).st = 1) :
    Grows s (mismatch p kind word s) ∧ active (pairFault p (decide ((s.lks.pairs.get p).mismatches = 0))) p.num (mismatch p kind word s) = true ∧
      (mismatch p kind word s).lks.pairs.get p = (s.lks.pairs.get p).halted p kind word s.timeNs ∧ (mismatch p kind word s).lks = { s.lks with pairs := (mismatch p kind word s).lks.pairs } := by
  unfold mismatch
  dsimp only
  rw [if_neg (by rw [runs]; decide)]
  have st : (if (decide ((s.lks.pairs.get p).mismatches = 0) && (decide (p = .europa) || decide (p = .ganymede))) = true then 3 else 2) = (if (s.lks.pairs.get p).mismatches = 0 ∧ (p = .europa ∨ p = .ganymede) then 3 else 2) := by simp
  rw [st]
  obtain ⟨-, faults, -, -, own, -, lks, -⟩ := haltPair_spec p (if (s.lks.pairs.get p).mismatches = 0 ∧ (p = .europa ∨ p = .ganymede) then 3 else 2) kind word s
  generalize haltPair p (if (s.lks.pairs.get p).mismatches = 0 ∧ (p = .europa ∨ p = .ganymede) then 3 else 2) kind word s = u at faults own lks ⊢
  generalize decide ((s.lks.pairs.get p).mismatches = 0) = first
  obtain ⟨v, hv⟩ : ∃ v, v = if kind = 6 then raise 0x6006 p.num 0 u else u := ⟨_, rfl⟩
  rw [← hv]
  have lks' : v.lks = u.lks := by rw [hv]; split; exact raise_lks _ _ _ _; rfl
  have grows : Grows u v := by rw [hv]; exact .ite (raise_grows _ _ _ _) (.refl u)
  obtain ⟨grows', active, lks''⟩ := pairReaction_raises p first v
  refine ⟨((Grows.of_eq faults).trans grows).trans grows', active, ?_, ?_⟩
  · rw [lks'', lks', own]; rfl
  · rw [lks'', lks', lks]

/-! ## The delay registers (R403, R404) -/

/-- A stretch of less than an idle token with a transfer: the comparison and, while the pair runs on, the write. -/
theorem pairRun_transfer {p : LPair} {s : State} {c : CoreStep} {m : Bound} (short : c.gapNs < 50) (main : c.main = some m) :
    pairRun p s c = match c.writes with
      | some w => if ((pairStep p c m c.bus (c.checker.getD 0 .idle) s).lks.pairs.get p).st = 1 then pairWrite c.region w m.data (pairStep p c m c.bus (c.checker.getD 0 .idle) s) else pairStep p c m c.bus (c.checker.getD 0 .idle) s
      | none => pairStep p c m c.bus (c.checker.getD 0 .idle) s := by
  unfold pairRun
  rw [Nat.div_eq_of_lt short, main]
  rfl

/-- A stretch of one idle token without a transfer. -/
theorem pairRun_idle {p : LPair} {s : State} {c : CoreStep} (long : 50 ≤ c.gapNs) (short : c.gapNs < 100) (main : c.main = none) :
    pairRun p s c = pairStep p c .idle .idle (c.checker.getD 0 .idle) s := by
  unfold pairRun
  rw [show c.gapNs / 50 = 1 by omega, main]
  rfl

theorem pairStep_differs {p : LPair} {c : CoreStep} {m : Bound} {b : BusIn} {chk : Bound} {s : State} {k : Nat} (runs : (s.lks.pairs.get p).st = 1)
    (sees : compared c.rails (s.lks.pairs.get p).out2 chk (Config.freeNat s.freeIx) = some k) : pairStep p c m b chk s = mismatch p k 0 { s with freeIx := s.freeIx + 1 } := by
  unfold pairStep
  dsimp only
  rw [if_neg (by rw [runs]; decide), sees]

theorem pairStep_agrees {p : LPair} {c : CoreStep} {m : Bound} {b : BusIn} {chk : Bound} {s : State} (runs : (s.lks.pairs.get p).st = 1)
    (sees : compared c.rails (s.lks.pairs.get p).out2 chk (Config.freeNat s.freeIx) = none) : pairStep p c m b chk s = updPair p (advance c.held m b) s := by
  unfold pairStep
  dsimp only
  rw [if_neg (by rw [runs]; decide), sees]

theorem pairStep_stopped {p : LPair} {c : CoreStep} {m : Bound} {b : BusIn} {chk : Bound} {s : State} (stands : (s.lks.pairs.get p).st ≠ 1) : pairStep p c m b chk s = s := if_pos stands

theorem pairRun_stopped {p : LPair} {s : State} (c : CoreStep) (stands : (s.lks.pairs.get p).st ≠ 1) : pairRun p s c = s := by
  unfold pairRun
  dsimp only
  have idle : (List.range (c.gapNs / 50)).foldl (fun s i => pairStep p c .idle .idle (c.checker.getD i .idle) s) s = s :=
    foldl_inv (P := fun u => u = s) (fun u i e => by rw [e]; exact pairStep_stopped stands) _ _ rfl
  rw [idle]
  cases c.main with
  | none => rfl
  | some m =>
    dsimp only
    rw [pairStep_stopped stands]
    cases c.writes with
    | none => rfl
    | some w => exact if_neg stands

theorem updPair_get (p : LPair) (f : PairSt → PairSt) (s : State) : (updPair p f s).lks.pairs.get p = f (s.lks.pairs.get p) := Tab.get_upd_same _ _ _

theorem updPair_updPair (p : LPair) (f g : PairSt → PairSt) (s : State) : updPair p g (updPair p f s) = updPair p (fun x => g (f x)) s := by
  unfold updPair
  dsimp only
  rw [Tab.upd_upd]

/-- A write that a lock protects is blocked: the pairs and the staging session stay (R406). -/
theorem pairWrite_blocked {region : Option StoreRegion} {w : Fin 9 × Nat} {data : BitVec 64} {s : State} (locked : (if w.1 = 8 then some StoreRegion.map else region).any (fun r => regionLocked r s) = true) :
    pairWrite region w data s = raise 0x8006 noInst 0 s := if_pos locked

/-- A write that no lock protects lands and clears the word's poison (R417). -/
theorem pairWrite_lands {region : Option StoreRegion} {w : Fin 9 × Nat} {data : BitVec 64} {s : State} (free : (if w.1 = 8 then some StoreRegion.map else region).any (fun r => regionLocked r s) = false) :
    pairWrite region w data s = if w.1 = 8 then { s with lks := { s.lks with poisoned := s.lks.poisoned.filter (fun v => decide (v ≠ w)) }, cat := { s.cat with map := putWord (8 * w.2) data.toNat s.cat.map } }
      else { s with lks := { s.lks with poisoned := s.lks.poisoned.filter (fun v => decide (v ≠ w)), sram := putWord (8 * eccAddress w.1 w.2) data.toNat s.lks.sram } } :=
  if_neg (by rw [free]; decide)

/-- A transfer that agrees: the registers advance, and the write is the pair's. -/
theorem transfer_agrees {p : LPair} {s : State} {c : CoreStep} {m : Bound} (runs : (s.lks.pairs.get p).st = 1) (short : c.gapNs < 50) (main : c.main = some m)
    (sees : compared c.rails (s.lks.pairs.get p).out2 (c.checker.getD 0 .idle) (Config.freeNat s.freeIx) = none) :
    pairRun p s c = match c.writes with
      | some w => pairWrite c.region w m.data (updPair p (advance c.held m c.bus) s)
      | none => updPair p (advance c.held m c.bus) s := by
  rw [pairRun_transfer short main, pairStep_agrees runs sees]
  cases c.writes with
  | none => rfl
  | some w => exact if_pos ((congrArg PairSt.st (updPair_get p _ s)).trans runs)

/-! ## Exports (R407) -/

theorem firstDiff_same (l : List (BitVec 64)) : firstDiff l l = none := by
  unfold firstDiff
  simp

/-- The first word in which two exports differ. -/
theorem firstDiff_at {l l' : List (BitVec 64)} {w : Nat} (before : l.take w = l'.take w) (differs : l[w]? ≠ l'[w]?) : firstDiff l l' = some w := by
  have same : ∀ m, m < w → l[m]? = l'[m]? := fun m lt => by
    rw [← List.getElem?_take_of_lt lt, before, List.getElem?_take_of_lt lt]
  have inside : w < max l.length l'.length := by
    by_contra out
    rw [List.getElem?_eq_none (by omega), List.getElem?_eq_none (by omega)] at differs
    exact differs rfl
  unfold firstDiff
  rw [List.find?_range_eq_some]
  exact ⟨decide_eq_true differs, List.mem_range.2 inside, fun m lt => by simp [same m lt]⟩

theorem compareExport_differs {p : LPair} {l l' : List (BitVec 64)} {w : Nat} {s : State} (before : l.take w = l'.take w) (differs : l[w]? ≠ l'[w]?) : compareExport p l l' s = mismatch p 5 w s := by
  unfold compareExport
  rw [firstDiff_at before differs]
theorem compareExport_same (p : LPair) (l : List (BitVec 64)) (s : State) : compareExport p l l s = exported p s := by
  unfold compareExport
  rw [firstDiff_same]

theorem execRegisterExport_due {p : LPair} {l l' : List (BitVec 64)} {s : State} (due : s.mer.ct % (if p = .callisto then 400000 else 4000000) = 0) :
    execRegisterExport p l l' s = match (s.lks.pairs.get p).st with
      | 1 => .next (compareExport p l l' s)
      | 4 => .next (updPair p (fun x => { x with exportDue := true }) s)
      | _ => .next s := if_neg (not_not.2 due)

/-! ## Debug (R418, R419) -/

/-- The two steps that a debug halt still has in the delay registers. -/
def debugTail (p : LPair) (tail : CoreStep) (s : State) : State := pairStep p tail .idle .idle (tail.checker.getD 1 .idle) (pairStep p tail .idle .idle (tail.checker.getD 0 .idle) s)

theorem execDebugHalt_open {p : LPair} {tail : CoreStep} {main checker : List (BitVec 64)} {s : State} (open_ : debugOpen s = true) (runs : (s.lks.pairs.get p).st = 1) :
    execDebugHalt p tail main checker s = .next (if ((debugTail p tail s).lks.pairs.get p).st = 1 then updPair p (fun x => { x with st := 4, regs := main, chkRegs := checker }) (debugTail p tail s) else debugTail p tail s) :=
  if_pos ⟨open_, runs⟩

/-- With a checker that agrees to the end the registers run empty. -/
theorem debugTail_agrees {p : LPair} {tail : CoreStep} {s : State} (runs : (s.lks.pairs.get p).st = 1) (held : tail.held = []) (rails : tail.rails = [])
    (checker : tail.checker = [(s.lks.pairs.get p).out2, (s.lks.pairs.get p).out1]) :
    debugTail p tail s = updPair p (fun x => { x with bus := .idle, out1 := .idle, out2 := .idle, in1 := .idle, in2 := .idle }) s := by
  unfold debugTail
  rw [pairStep_agrees runs (by rw [rails, checker]; exact if_pos ⟨rfl, rfl⟩)]
  have own := updPair_get p (advance tail.held .idle .idle) s
  rw [pairStep_agrees (by rw [own]; exact runs) (by rw [rails, checker, own, held]; exact if_pos ⟨rfl, rfl⟩), updPair_updPair, held]
  rfl

theorem execDebugResume_open {p : LPair} {single : Bool} {main checker : List (BitVec 64)} {s : State} (open_ : debugOpen s = true) (halted : (s.lks.pairs.get p).st = 4) {u v : State}
    (hu : u = updPair p (fun x => { x with chkRegs := x.replay.foldl putReg x.chkRegs, replay := [], st := 1 }) s)
    (hv : v = if single = false ∧ (s.lks.pairs.get p).exportDue = true then compareExport p main checker u else u) :
    execDebugResume p single [] main checker s = .next (if single = true ∧ (v.lks.pairs.get p).st = 1 then updPair p (fun x => { x with st := 4, regs := main, chkRegs := checker }) v else v) := by
  rw [hv, hu]
  exact if_neg (by rw [open_, halted]; decide)

end Sys2Proof.Machine
end

section
/-! The steps of a lockstep pair, its restart, its exports, and debug. -/

namespace Sys2Proof.Machine

/-- Settles O41: a difference by `mismatch_spec`, agreement by what the delay registers take, a register comparison by the first word that differs. -/
theorem lockstepPairs : Obligations.LockstepPairs := by
  unfold Obligations.LockstepPairs
  refine ⟨fun s p c m k runs short main sees ship => ?differs, fun s p c m runs short main sees => ?agrees, fun s p c runs long short main sees => ?idle, fun s p l stands => ?stopped,
    fun x m1 m2 b1 b2 => ⟨rfl, rfl, rfl⟩, fun x y f => ⟨compared_none x y f, compared_addr f, compared_data f, compared_ctrl f, fun n lt => ⟨compared_invalid x y f lt (.inl rfl), compared_invalid x y f lt (.inr rfl)⟩⟩,
    fun s p region => ⟨fun waits => ?restart, fun no => if_neg no⟩, fun s p l l' w => ?export_, fun s p reg v b tail steps main checker => ?debug⟩
  case differs =>
    have kind := compared_kind sees
    obtain ⟨step, grows, raised, invalid, own, others, lks, queues⟩ := mismatch_spec p k 0 { s with freeIx := s.freeIx + 1 } runs
      (fun g first => ship.elim (fun h => absurd g h) fun h => h.elim (fun h => absurd first h) id)
    have answer : exec (.lockstepMismatch p [c]) s = .next (mismatch p k 0 { s with freeIx := s.freeIx + 1 }) := by
      show Host.Outcome.next (pairRun p s c) = _
      rw [pairRun_transfer short main, pairStep_differs runs sees]
      cases c.writes with
      | none => rfl
      | some w =>
        dsimp only
        rw [if_neg (by rw [own]; dsimp only; split <;> decide)]
    refine ⟨_, answer, ?_, others, queues, raised, invalid, grows, ?_⟩
    · rw [own, if_neg kind]; rfl
    · generalize mismatch p k 0 { s with freeIx := s.freeIx + 1 } = t at step lks ⊢
      rw [step]
      conv_lhs => rw [lks]
      rfl
  case agrees =>
    have step := transfer_agrees runs short main sees
    refine ⟨fun none => ?_, fun w writes other free => ?_, fun w writes map free => ?_, fun w writes locked => ?_⟩
    · show Host.Outcome.next (pairRun p s c) = _
      rw [step, none]
      rfl
    · show Host.Outcome.next (pairRun p s c) = _
      rw [step, writes]
      dsimp only
      rw [pairWrite_lands, if_neg other]
      · rfl
      · rw [if_neg other]
        cases region : c.region with
        | none => rfl
        | some r => exact free r region
    · show Host.Outcome.next (pairRun p s c) = _
      rw [step, writes]
      dsimp only
      rw [pairWrite_lands, if_pos map]
      · rfl
      · rw [if_pos map]; exact free
    · have answer : exec (.lockstepMismatch p [c]) s = .next (raise 0x8006 noInst 0 (updPair p (advance c.held m c.bus) s)) := by
        show Host.Outcome.next (pairRun p s c) = _
        rw [step, writes]
        dsimp only
        rw [pairWrite_blocked]
        rcases locked with ⟨map, locked⟩ | ⟨other, r, region, locked⟩
        · rw [if_pos map]; exact locked
        · rw [if_neg other, region]; exact locked
      exact ⟨_, answer, raise_active _ _ _ _, raise_lks _ _ _ _, raise_cat _ _ _ _⟩
  case idle =>
    show Host.Outcome.next (pairRun p s c) = _
    rw [pairRun_idle long short main, pairStep_agrees runs sees]
    rfl
  case stopped =>
    exact congrArg _ (foldl_inv (P := fun u => u = s) (fun u c e => by rw [e]; exact pairRun_stopped c stands) l s rfl)
  case restart =>
    have answer : exec (.pairRestartComplete p region) s = .next (zeroRegion p region (updPair p (fun x => { x with st := 1, restarts := satInc 8 x.restarts, bus := .idle, out1 := .idle, out2 := .idle, in1 := .idle, in2 := .idle }) s)) := if_pos waits
    cases p with
    | io => exact ⟨_, answer, rfl, fun _ => rfl, fun h => absurd h (by decide), fun h => absurd h (by decide)⟩
    | callisto => exact ⟨_, answer, rfl, fun _ => rfl, fun h => absurd h (by decide), fun h => absurd h (by decide)⟩
    | europa => exact ⟨_, answer, rfl, fun h => absurd h (by decide), fun _ => ⟨rfl, rfl, rfl, rfl⟩, fun h => absurd h (by decide)⟩
    | ganymede => exact ⟨_, answer, rfl, fun h => absurd h (by decide), fun h => absurd h (by decide), fun _ => ⟨rfl, rfl, fun _ => rfl⟩⟩
  case export_ =>
    refine ⟨fun early => if_pos early, fun h runs => ?_, fun h runs before differs => ?_, fun h debug => ?_, fun halted => ?_⟩
    · show execRegisterExport p l l s = _
      rw [execRegisterExport_due h, runs]
      exact congrArg _ (compareExport_same p l s)
    · obtain ⟨-, raised, own, -⟩ := mismatch_halts p 5 w s runs
      refine ⟨mismatch p 5 w s, ?_, by rw [own]; rfl, by rw [own]; rfl, by rw [own]; exact (PairSt.halted_st _ _ _ _ _).1, by rw [own]; rfl, raised⟩
      show execRegisterExport p l l' s = _
      rw [execRegisterExport_due h, runs]
      exact congrArg _ (compareExport_differs before differs)
    · show execRegisterExport p l l' s = _
      rw [execRegisterExport_due h, debug]
      rfl
    · by_cases h : s.mer.ct % (if p = .callisto then 400000 else 4000000) = 0
      · show execRegisterExport p l l' s = _
        rw [execRegisterExport_due h]
        rcases halted with e | e <;> rw [e] <;> rfl
      · exact if_pos h
  case debug =>
    refine ⟨fun shut => ⟨if_neg fun h => absurd (shut.symm.trans h.1) (by decide), if_pos (.inl shut), if_pos (.inl shut)⟩, fun open_ runs held rails agrees => ?_, fun k open_ runs sees => ?_,
      fun open_ halted room => ?_, fun open_ halted full => ?_, fun open_ halted => ?_, fun open_ halted early => ?_, fun open_ halted due => ?_, fun w open_ halted due before differs => ?_⟩
    · show execDebugHalt p tail main checker s = _
      rw [execDebugHalt_open open_ runs, debugTail_agrees runs held rails agrees, if_pos (by rw [updPair_get]; exact runs), updPair_updPair]
      rfl
    · obtain ⟨-, -, own, -⟩ := mismatch_halts p k 0 { s with freeIx := s.freeIx + 1 } runs
      obtain ⟨no1, no4⟩ := PairSt.halted_st p k 0 s.timeNs (s.lks.pairs.get p)
      have stands : ((mismatch p k 0 { s with freeIx := s.freeIx + 1 }).lks.pairs.get p).st ≠ 1 := by rw [own]; exact no1
      have tail_ : debugTail p tail s = mismatch p k 0 { s with freeIx := s.freeIx + 1 } := by
        unfold debugTail
        rw [pairStep_differs runs sees, pairStep_stopped stands]
      refine ⟨mismatch p k 0 { s with freeIx := s.freeIx + 1 }, ?_, by rw [own]; rfl, stands, by rw [own]; exact no4⟩
      show execDebugHalt p tail main checker s = _
      rw [execDebugHalt_open open_ runs, tail_, if_neg stands]
    · exact (if_neg (by rw [open_, halted]; decide)).trans (if_pos room)
    · have same := raise_low_same 0x600D p.num 0 s (fun s => by simp [classOf, codesF0]) (by decide)
      have out : (raise 0x600D p.num 0 s).out = s.out := raise_out _ _ _ _
      refine ⟨send .jtagError (raise 0x600D p.num 0 s), (if_neg (by rw [open_, halted]; decide)).trans (if_neg (by omega)), raise_active _ _ _ _, ?_, ?_⟩
      · rw [send_out, out]
      · rw [send_out]
        exact same.out _
    · show execDebugResume p true [] main checker s = _
      rw [execDebugResume_open open_ halted rfl (if_neg (fun h => absurd h.1 (by decide))).symm, if_pos ⟨rfl, by rw [updPair_get]⟩, updPair_updPair]
      rfl
    · show execDebugResume p false [] main checker s = _
      rw [execDebugResume_open open_ halted rfl (if_neg (by rw [early]; decide)).symm, if_neg (fun h => absurd h.1 (by decide))]
      rfl
    · show execDebugResume p false [] main main s = _
      rw [execDebugResume_open open_ halted rfl (if_pos ⟨rfl, due⟩).symm, if_neg (fun h => absurd h.1 (by decide)), compareExport_same]
      show Host.Outcome.next (updPair _ _ (updPair _ _ _)) = _
      rw [updPair_updPair]
      rfl
    · have resumed := updPair_get p (fun x => { x with chkRegs := x.replay.foldl putReg x.chkRegs, replay := [], st := 1 }) s
      have answer := execDebugResume_open (p := p) (single := false) (main := main) (checker := checker) open_ halted rfl (if_pos ⟨rfl, due⟩).symm
      rw [if_neg (fun h => absurd h.1 (by decide)), compareExport_differs before differs] at answer
      generalize updPair p (fun x => { x with chkRegs := x.replay.foldl putReg x.chkRegs, replay := [], st := 1 }) s = u at resumed answer
      obtain ⟨-, -, own, -⟩ := mismatch_halts p 5 w u (by rw [resumed])
      exact ⟨_, answer, by rw [own]; rfl, by rw [own]; rfl⟩

end Sys2Proof.Machine
end

section
/-! SUPPORT. The code of the shared memories, and what a scrub and an uncorrectable word do (16_lockstep_memory.md, R414 to R417). -/

namespace Sys2Proof.Machine

/-! ## The code's columns (R414) -/

theorem eccColumns_allowed : eccAllowed eccColumns.1 eccColumns.2 = true := by
  unfold eccColumns
  split
  next allowed => exact allowed
  next => decide +kernel

/-- 64 distinct data columns, each of odd weight above 1. -/
theorem dataColumns : eccColumns.1.length = 64 ∧ eccColumns.1.Nodup ∧ ∀ c ∈ eccColumns.1, colWeight c % 2 = 1 ∧ colWeight c ≠ 1 := by
  have allowed := eccColumns_allowed
  unfold eccAllowed at allowed
  simp only [Bool.and_eq_true, decide_eq_true_eq, List.all_eq_true] at allowed
  obtain ⟨⟨⟨⟨⟨length, nodup⟩, odd⟩, -⟩, -⟩, -⟩ := allowed
  exact ⟨length, nodup, odd⟩

/-- A choice that takes one column more or less sums to one column more. -/
theorem xorCols_flip (cols : List (BitVec 8)) (sel sel' : Nat → Bool) (i : Nat) (at_ : sel' i = !sel i) (off : ∀ j, j ≠ i → sel' j = sel j) (n : Nat) :
    xorCols cols sel' n = if i < n then xorCols cols sel n ^^^ cols.getD i 0 else xorCols cols sel n := by
  induction n with
  | zero => rfl
  | succ n ih =>
    unfold xorCols
    by_cases here : n = i
    · subst here
      rw [ih, if_neg (lt_irrefl n), if_pos (Nat.lt_succ_self n), at_]
      cases sel n
      · rfl
      · simp
    · rw [ih, off n here]
      by_cases before : i < n
      · rw [if_pos before, if_pos (show i < n + 1 by omega)]
        cases sel n
        · rfl
        · simp only [if_true]
          rw [BitVec.xor_assoc, BitVec.xor_comm (cols.getD i 0), ← BitVec.xor_assoc]
      · rw [if_neg before, if_neg (show ¬i < n + 1 by omega)]

theorem xor_left_rest (x y z : BitVec 8) : x ^^^ z ^^^ y ^^^ (x ^^^ y) = z := by
  rw [BitVec.xor_assoc, BitVec.xor_comm x y, ← BitVec.xor_assoc y y x, BitVec.xor_self, BitVec.zero_xor, BitVec.xor_comm x z, BitVec.xor_assoc, BitVec.xor_self, BitVec.xor_zero]

/-- A data bit that changed shows its column. -/
theorem syndrome_data (b : Fin 9) (w : Nat) (d : BitVec 64) (i : Fin 64) :
    syndrome { bank := b, word := w, data := d ^^^ (1#64 <<< i.val), check := checkBits b w d } = eccColumns.1.getD i.val 0 := by
  have bit : ∀ j, (d ^^^ (1#64 <<< i.val)).getLsbD j = (d.getLsbD j ^^ decide (j = i.val)) := fun j => by
    have lt := i.isLt
    simp only [BitVec.getLsbD_xor, BitVec.getLsbD_shiftLeft, BitVec.getLsbD_one]
    by_cases e : j = i.val
    · subst e; simp
    · rcases Nat.lt_or_gt_of_ne e with before | behind
      · simp [e, before]
      · simp [e, Nat.sub_ne_zero_of_lt behind]
  have flip := xorCols_flip eccColumns.1 (fun j => d.getLsbD j) (fun j => (d ^^^ (1#64 <<< i.val)).getLsbD j) i.val (by simp) (fun j other => by simp [bit, other]) 64
  rw [if_pos i.isLt] at flip
  unfold syndrome checkBits
  dsimp only
  rw [flip]
  exact xor_left_rest _ _ _

/-- A check bit that changed shows alone. -/
theorem syndrome_check (b : Fin 9) (w : Nat) (d : BitVec 64) (j : Fin 8) :
    syndrome { bank := b, word := w, data := d, check := checkBits b w d ^^^ (1#8 <<< j.val) } = 1#8 <<< j.val := by
  unfold syndrome
  rw [← BitVec.xor_assoc, BitVec.xor_self, BitVec.zero_xor]

theorem verdict_clean (b : Fin 9) (w : Nat) (d : BitVec 64) : verdict { bank := b, word := w, data := d, check := checkBits b w d } = .clean :=
  if_pos (BitVec.xor_self)

theorem verdict_check (b : Fin 9) (w : Nat) (d : BitVec 64) (j : Fin 8) : verdict { bank := b, word := w, data := d, check := checkBits b w d ^^^ (1#8 <<< j.val) } = .corrected d := by
  unfold verdict
  dsimp only
  rw [syndrome_check]
  fin_cases j <;> rfl

theorem verdict_data (b : Fin 9) (w : Nat) (d : BitVec 64) (i : Fin 64) : verdict { bank := b, word := w, data := d ^^^ (1#64 <<< i.val), check := checkBits b w d } = .corrected d := by
  obtain ⟨length, nodup, odd⟩ := dataColumns
  unfold verdict
  dsimp only
  rw [syndrome_data]
  have inside : i.val < eccColumns.1.length := by rw [length]; exact i.isLt
  have column : eccColumns.1.getD i.val 0 = eccColumns.1[i.val] := List.getD_eq_getElem _ _ inside
  obtain ⟨isOdd, notOne⟩ := odd _ (List.getElem_mem inside)
  have found : eccColumns.1.findIdx? (fun c => decide (c = eccColumns.1[i.val])) = some i.val := by
    rw [List.findIdx?_eq_some_iff_getElem]
    refine ⟨inside, decide_eq_true rfl, fun j before e => ?_⟩
    have := (nodup.getElem_inj_iff (hi := by omega) (hj := inside)).1 (of_decide_eq_true e)
    omega
  rw [column, if_neg (fun zero => by rw [zero] at isOdd; exact absurd isOdd (by decide)), if_neg (by omega), if_neg notOne, found]
  dsimp only
  rw [BitVec.xor_assoc, BitVec.xor_self, BitVec.xor_zero]

/-! ## Scrubbing (R416) -/

/-- Only a poison may end in what a scrubber does with a word. -/
theorem correctable_poisoned (r : MemRead) (d : BitVec 64) (source now : Nat) (s : State) : (correctable r d source now s).lks.poisoned = s.lks.poisoned := by
  obtain ⟨-, -, -, lks, -⟩ := correctable_spec r d source now s
  rw [lks]

theorem writtenBack_lks (b : Fin 9) (s : State) : (writtenBack b s).lks = { s.lks with corrected := (writtenBack b s).lks.corrected } ∧ (b, scrubAt s b) ∈ (writtenBack b s).lks.corrected ∧
    ((∃ n, (b, (scrubAt s b).1, n) ∈ s.lks.corrected ∧ (n + 1) % 2 ^ 16 = (scrubAt s b).2) → active 0x6009 b.val (writtenBack b s) = true) := by
  unfold writtenBack
  dsimp only
  generalize hu : ({ s with lks := { s.lks with corrected := (b, (scrubAt s b).1, (scrubAt s b).2) :: s.lks.corrected.filter (fun c => !(decide (c.1 = b) && (decide (c.2.1 = (scrubAt s b).1) || (decide (c.2.2 ≠ (scrubAt s b).2) && decide ((c.2.2 + 1) % 2 ^ 16 ≠ (scrubAt s b).2))))) } } : State) = u
  have lks : u.lks = { s.lks with corrected := u.lks.corrected } := by rw [← hu]
  have mem : (b, scrubAt s b) ∈ u.lks.corrected := by rw [← hu]; exact List.mem_cons_self
  split
  next again =>
    rw [raise_lks]
    exact ⟨lks, mem, fun _ => raise_active _ _ _ _⟩
  next once =>
    refine ⟨lks, mem, fun ⟨n, m, next⟩ => absurd (List.any_eq_true.2 ⟨_, m, ?_⟩) once⟩
    exact decide_eq_true ⟨rfl, rfl, next⟩

/-- The word that a scrubber reads now. -/
def scrubWord (s : State) (x : ScrubWord) : MemRead := { bank := x.bank, word := (scrubAt s x.bank).1, data := x.data, check := x.check }

/-- The state behind the correction of a word, before a racing write clears its poison. -/
def scrubCorrect (now : Nat) (s : State) (x : ScrubWord) (d : BitVec 64) : State :=
  if x.raced then (if x.shared then s else correctable (scrubWord s x) d 0 now s) else writtenBack x.bank (if x.shared then s else correctable (scrubWord s x) d 0 now s)

/-- The state behind the check of a word. -/
def scrubChecked (now : Nat) (s : State) (x : ScrubWord) : State :=
  match verdict (scrubWord s x) with
  | .corrected d => if s.lks.poisoned.contains (x.bank, (scrubAt s x.bank).1) then s else scrubCorrect now s x d
  | _ => s

/-- A write of a pair in between clears the word's poison. -/
def raceClears (s : State) (x : ScrubWord) (u : State) : State :=
  if x.raced then { u with lks := { u.lks with poisoned := u.lks.poisoned.filter (fun v => decide (v ≠ (x.bank, (scrubAt s x.bank).1))) } } else u

theorem scrubbed_eq (now : Nat) (s : State) (x : ScrubWord) : scrubbed now s x = raceClears s x (scrubChecked now s x) := by
  unfold scrubChecked scrubWord
  unfold scrubbed
  dsimp only
  cases verdict { bank := x.bank, word := (scrubAt s x.bank).1, data := x.data, check := x.check } <;> rfl

theorem scrubChecked_corrected {now : Nat} {s : State} {x : ScrubWord} {d : BitVec 64} (fresh : (x.bank, (scrubAt s x.bank).1) ∉ s.lks.poisoned) (corrects : verdict (scrubWord s x) = .corrected d) :
    scrubChecked now s x = scrubCorrect now s x d := by
  unfold scrubChecked
  rw [corrects]
  exact if_neg (by simpa using fresh)

theorem scrubChecked_cases (now : Nat) (s : State) (x : ScrubWord) : scrubChecked now s x = s ∨ ∃ d, scrubChecked now s x = scrubCorrect now s x d := by
  unfold scrubChecked
  split
  next d _ =>
    split
    · exact .inl rfl
    · exact .inr ⟨d, rfl⟩
  next => exact .inl rfl

/-- A cleared poison is all that a race changes. -/
theorem raceClears_only (s : State) (x : ScrubWord) (u : State) : raceClears s x u = { u with lks := { u.lks with poisoned := (raceClears s x u).lks.poisoned } } ∧ ∀ v ∈ (raceClears s x u).lks.poisoned, v ∈ u.lks.poisoned := by
  unfold raceClears
  split
  · exact ⟨rfl, fun v m => List.mem_of_mem_filter m⟩
  · exact ⟨rfl, fun v m => m⟩

/-- What a correction does, a race or not. -/
theorem scrubCorrect_spec (now : Nat) (s : State) (x : ScrubWord) (d : BitVec 64) : ∃ u,
    (x.shared = false → active 0x6008 x.bank.val u = true ∧ u.lks.ce = s.lks.ce.upd x.bank (satInc 16) ∧ u.lks.last = (x.bank.val, 1, 0, (scrubAt s x.bank).1) ∧ u.lks.returned = d) ∧ (x.shared = true → u.lks.ce = s.lks.ce) ∧
      u.lks.corrected = s.lks.corrected ∧ scrubAt u x.bank = scrubAt s x.bank ∧ u.lks.poisoned = s.lks.poisoned ∧ scrubCorrect now s x d = if x.raced then u else writtenBack x.bank u := by
  by_cases shared : x.shared = true
  · refine ⟨s, fun no => absurd (shared.symm.trans no) (by decide), fun _ => rfl, rfl, rfl, rfl, ?_⟩
    unfold scrubCorrect
    rw [if_pos shared]
  · obtain ⟨-, raised, -, lks, -⟩ := correctable_spec (scrubWord s x) d 0 now s
    refine ⟨correctable (scrubWord s x) d 0 now s, fun _ => ⟨raised, by rw [lks]; rfl, by rw [lks]; rfl, by rw [lks]⟩, fun yes => absurd yes shared, by rw [lks], by unfold scrubAt; rw [lks], by rw [lks], ?_⟩
    unfold scrubCorrect
    rw [if_neg shared]

theorem scrubCorrect_poisoned (now : Nat) (s : State) (x : ScrubWord) (d : BitVec 64) : (scrubCorrect now s x d).lks.poisoned = s.lks.poisoned := by
  obtain ⟨u, -, -, -, -, poisoned, e⟩ := scrubCorrect_spec now s x d
  rw [e]
  split
  · exact poisoned
  · rw [(writtenBack_lks x.bank u).1]; exact poisoned

theorem scrubbed_poisoned (now : Nat) (s : State) (x : ScrubWord) : ∀ v ∈ (scrubbed now s x).lks.poisoned, v ∈ s.lks.poisoned := by
  intro v m
  rw [scrubbed_eq] at m
  have kept := (raceClears_only s x _).2 v m
  rcases scrubChecked_cases now s x with e | ⟨d, e⟩ <;> rw [e] at kept
  · exact kept
  · rwa [scrubCorrect_poisoned] at kept

theorem scrubs_poisoned (now : Nat) (l : List ScrubWord) (s : State) : ∀ v ∈ (l.foldl (scrubbed now) s).lks.poisoned, v ∈ s.lks.poisoned :=
  foldl_inv (P := fun u => ∀ v ∈ u.lks.poisoned, v ∈ s.lks.poisoned) (fun u x known v m => known v (scrubbed_poisoned now u x v m)) l s (fun _ m => m)

/-! ## An uncorrectable word (R417) -/

/-- The word lies in a store that is locked, or in the code region. -/
def inLocked (r : MemRead) (locked : Bool) (s : State) : Prop := locked = true ∨ (r.bank = 8 ∧ s.cat.locked = true)

/-- The error is counted and noted. -/
def uncorrectableNoted (r : MemRead) (reader : MemReader) (s : State) : State :=
  { s with lks := { s.lks with ue := s.lks.ue.upd r.bank (satInc 8), last := (r.bank.val, if s.lks.poisoned.contains (r.bank, r.word) then 3 else 2, reader.num, r.word), syn := if s.lks.poisoned.contains (r.bank, r.word) then poisonSyndrome.toNat else (syndrome r).toNat } }

/-- The fault of an uncorrectable word, before its reader reacts. -/
def uncorrectableRaised (r : MemRead) (reader : MemReader) (locked : Bool) (s : State) : State :=
  if locked = true ∨ (r.bank = 8 ∧ s.cat.locked = true) then raise 0x600B r.bank.val 0 (uncorrectableNoted r reader s)
  else if s.lks.poisoned.contains (r.bank, r.word) then uncorrectableNoted r reader s
  else raise 0x600A r.bank.val 0 { uncorrectableNoted r reader s with lks := { (uncorrectableNoted r reader s).lks with poisoned := (r.bank, r.word) :: s.lks.poisoned } }

theorem orrLate_lks (t : TSet) (s : State) : Grows s (orrLate t s) ∧ (orrLate t s).lks = s.lks := by
  unfold orrLate
  split
  · exact ⟨.refl s, rfl⟩
  · dsimp only
    split
    · exact ⟨grows_raise rfl, raise_lks _ _ _ _⟩
    · exact ⟨.of_eq rfl, rfl⟩

/-- A mismatch, of a pair that runs or not, ends no fault and changes of the memories the pairs alone. -/
theorem mismatch_memories (p : LPair) (kind word : Nat) (s : State) : Grows s (mismatch p kind word s) ∧ (mismatch p kind word s).lks = { s.lks with pairs := (mismatch p kind word s).lks.pairs } := by
  by_cases runs : (s.lks.pairs.get p).st = 1
  · obtain ⟨grows, -, -, lks⟩ := mismatch_halts p kind word s runs
    exact ⟨grows, lks⟩
  · rw [show mismatch p kind word s = s from if_pos runs]
    exact ⟨.refl s, rfl⟩

/-- The reaction of the reader of an uncorrectable word: a pair's mismatch, or an update that is late. -/
def readerReacts (r : MemRead) (reader : MemReader) (locked : Bool) (u : State) : State :=
  match reader with
  | .pair p => mismatch p 7 0 u
  | .orrery t => if locked = true ∨ (r.bank = 8 ∧ u.cat.locked = true) then orrLate t u else u
  | _ => u

theorem uncorrectable_eq (r : MemRead) (reader : MemReader) (locked : Bool) (s : State) : uncorrectable r reader locked s = readerReacts r reader locked (uncorrectableRaised r reader locked s) := by
  cases reader <;> rfl

theorem readerReacts_spec (r : MemRead) (reader : MemReader) (locked : Bool) (u : State) :
    Grows u (readerReacts r reader locked u) ∧ (readerReacts r reader locked u).lks = { u.lks with pairs := (readerReacts r reader locked u).lks.pairs } ∧
      ((∀ p, reader ≠ .pair p) → (readerReacts r reader locked u).lks.pairs = u.lks.pairs) := by
  cases reader with
  | pair p => exact ⟨(mismatch_memories p 7 0 u).1, (mismatch_memories p 7 0 u).2, fun no => absurd rfl (no p)⟩
  | orrery t =>
    unfold readerReacts
    dsimp only
    split
    · obtain ⟨grows, lks⟩ := orrLate_lks t u
      exact ⟨grows, by rw [lks], fun _ => by rw [lks]⟩
    · exact ⟨.refl u, rfl, fun _ => rfl⟩
  | _ => exact ⟨.refl u, rfl, fun _ => rfl⟩

/-- What the fault of an uncorrectable word leaves of the memories. -/
theorem uncorrectableRaised_spec (r : MemRead) (reader : MemReader) (locked : Bool) (s : State) :
    Grows s (uncorrectableRaised r reader locked s) ∧ (uncorrectableRaised r reader locked s).lks = { (uncorrectableNoted r reader s).lks with poisoned := (uncorrectableRaised r reader locked s).lks.poisoned } ∧
      (inLocked r locked s → active 0x600B r.bank.val (uncorrectableRaised r reader locked s) = true ∧ (uncorrectableRaised r reader locked s).lks.poisoned = s.lks.poisoned) ∧
      (¬inLocked r locked s → (r.bank, r.word) ∈ (uncorrectableRaised r reader locked s).lks.poisoned) ∧
      (¬inLocked r locked s → (r.bank, r.word) ∉ s.lks.poisoned → active 0x600A r.bank.val (uncorrectableRaised r reader locked s) = true) := by
  unfold uncorrectableRaised inLocked
  split
  next yes => exact ⟨grows_raise rfl, by rw [raise_lks], fun _ => ⟨raise_active _ _ _ _, by rw [raise_lks]; rfl⟩, fun no => absurd yes no, fun no => absurd yes no⟩
  next no =>
    split
    next listed =>
      have mem : (r.bank, r.word) ∈ s.lks.poisoned := by simpa using listed
      exact ⟨.of_eq rfl, rfl, fun yes => absurd yes no, fun _ => mem, fun _ fresh => absurd mem fresh⟩
    next => exact ⟨grows_raise rfl, by rw [raise_lks], fun yes => absurd yes no, fun _ => by rw [raise_lks]; exact List.mem_cons_self, fun _ _ => raise_active _ _ _ _⟩

end Sys2Proof.Machine
end

section
/-! The check bits of the shared memories: corrected, scrubbed and uncorrectable words. -/

namespace Sys2Proof.Machine

/-- Settles O42: the code by its columns, the three commands by what each does of a word. -/
theorem memoryChecks : Obligations.MemoryChecks := by
  unfold Obligations.MemoryChecks
  refine ⟨fun s r reader now d started fresh corrects => ?correct, fun b w d i j => ⟨verdict_clean b w d, verdict_data b w d i, verdict_check b w d j⟩, fun s l now started => ?scrub,
    fun s x now d started fresh corrects => ?word, fun s r reader k started bad => ?uncorrect, fun s r reader k now l before => ⟨?_, if_neg (by rw [before]; decide), if_neg fun h => absurd (before.symm.trans h.1) (by decide)⟩⟩
  case correct =>
    have answer : exec (.correctableError r reader now) s = .next (correctable r d reader.num now s) := by
      show execCorrectableError r reader now s = _
      unfold execCorrectableError
      rw [corrects]
      exact if_pos ⟨started, by simpa using fresh⟩
    obtain ⟨same, raised, -, lks, often⟩ := correctable_spec r d reader.num now s
    exact ⟨_, answer, raised, lks, often, same⟩
  case scrub =>
    have step := scrubs_step now l s
    have poisoned := scrubs_poisoned now l s
    have answer : exec (.scrubRead l now) s = .next (scrubNext (l.foldl (scrubbed now) s)) := if_pos started
    generalize l.foldl (scrubbed now) s = u at step poisoned answer
    refine ⟨_, answer, ?_, ?_, ?_, ?_, step.pairs, poisoned, step.ue, ?_⟩
    · rw [← step.at_sram]; rfl
    · rw [← step.at_sram, ← step.passes]; rfl
    · rw [← step.at_map]; rfl
    · rw [← step.at_map, ← step.mapPasses]; rfl
    · have same := step.same
      unfold SameButFaults at same ⊢
      unfold scrubNext
      dsimp only
      generalize u.lks = m at same ⊢
      rw [same]
  case word =>
    have answer : exec (.scrubRead [x] now) s = .next (scrubNext (scrubbed now s x)) := if_pos started
    obtain ⟨u, counted, shared, before, place, -, e⟩ := scrubCorrect_spec now s x d
    rw [scrubbed_eq, scrubChecked_corrected fresh corrects, e] at answer
    obtain ⟨only, -⟩ := raceClears_only s x (if x.raced then u else writtenBack x.bank u)
    generalize hr : raceClears s x (if x.raced then u else writtenBack x.bank u) = r at only answer
    obtain ⟨lks, mem, again⟩ := writtenBack_lks x.bank u
    rw [place, before] at again
    rw [place] at mem
    have grows := (writtenBack_step x.bank u).grows
    generalize hw : writtenBack x.bank u = w at lks mem again grows only
    have kept : (if x.raced = true then u else w).lks = { u.lks with corrected := (if x.raced = true then u else w).lks.corrected } := by
      split
      · rfl
      · exact lks
    have grows' : Grows u (if x.raced = true then u else w) := .ite (.refl u) grows
    have parts : (scrubNext r).faults = (if x.raced = true then u else w).faults ∧ (scrubNext r).lks.ce = u.lks.ce ∧ (scrubNext r).lks.last = u.lks.last ∧ (scrubNext r).lks.returned = u.lks.returned ∧
        (scrubNext r).lks.corrected = (if x.raced = true then u else w).lks.corrected := by
      unfold scrubNext
      rw [only]
      dsimp only
      rw [kept]
      exact ⟨rfl, rfl, rfl, rfl, rfl⟩
    obtain ⟨faults, ce, last, returned, corrected⟩ := parts
    have grows'' : Grows u (scrubNext r) := grows'.trans (.of_eq faults)
    refine ⟨_, answer, fun own => ?_, fun own => ce.trans (shared own), fun calm => ?_, fun raced => ?_⟩
    · obtain ⟨active, ce', last', returned'⟩ := counted own
      exact ⟨grows'' _ _ active, ce.trans ce', last.trans last', returned.trans returned'⟩
    · rw [if_neg (by rw [calm]; decide)] at faults corrected
      exact ⟨by rw [corrected]; exact mem, fun twice => Grows.of_eq faults _ _ (again twice)⟩
    · rw [if_pos raced] at corrected
      exact corrected.trans before
  case uncorrect =>
    have answer : exec (.uncorrectableError r reader k) s = .next (readerReacts r reader k (uncorrectableRaised r reader k s)) := by
      rw [← uncorrectable_eq]
      exact if_pos ⟨started, bad.imp (fun h => by simpa using h) id⟩
    obtain ⟨grows', lks', other⟩ := readerReacts_spec r reader k (uncorrectableRaised r reader k s)
    obtain ⟨grows, lks, locked, listed, raised⟩ := uncorrectableRaised_spec r reader k s
    have pairs : (uncorrectableRaised r reader k s).lks.pairs = s.lks.pairs := by rw [lks]; rfl
    have poisoned : (readerReacts r reader k (uncorrectableRaised r reader k s)).lks.poisoned = (uncorrectableRaised r reader k s).lks.poisoned := by rw [lks']
    have isPoisoned : (s.lks.poisoned.contains (r.bank, r.word) = true) = ((r.bank, r.word) ∈ s.lks.poisoned) := by simp
    have apart (h : k = false) (n : ¬(r.bank = 8 ∧ s.cat.locked = true)) : ¬inLocked r k s := fun h' => h'.elim (fun e => absurd (h.symm.trans e) (by decide)) n
    refine ⟨_, answer, ?_, ?_, ?_, grows.trans grows', fun h => ⟨grows' _ _ (locked h).1, poisoned.trans (locked h).2⟩, fun h n fresh => grows' _ _ (raised (apart h n) fresh), fun h n => poisoned ▸ listed (apart h n), ?_,
      fun no => (other no).trans pairs⟩
    · rw [lks', lks]
      exact Tab.get_upd_same _ _ _
    · rw [lks', lks]
      unfold uncorrectableNoted
      dsimp only
      simp only [isPoisoned]
    · rw [lks', lks]
      unfold uncorrectableNoted
      dsimp only
      simp only [isPoisoned]
      split <;> rfl
    · intro p e runs
      subst e
      obtain ⟨-, active, own, -⟩ := mismatch_halts p 7 0 (uncorrectableRaised r (.pair p) k s) (by rw [pairs]; exact runs)
      rw [pairs] at active own
      exact ⟨by rw [show readerReacts r (.pair p) k (uncorrectableRaised r (.pair p) k s) = mismatch p 7 0 (uncorrectableRaised r (.pair p) k s) from rfl, own]; rfl,
        by rw [show readerReacts r (.pair p) k (uncorrectableRaised r (.pair p) k s) = mismatch p 7 0 (uncorrectableRaised r (.pair p) k s) from rfl, own]; exact (PairSt.halted_st _ _ _ _ _).1, active⟩
  · show execCorrectableError r reader now s = _
    unfold execCorrectableError
    split
    · exact if_neg fun h => absurd (before.symm.trans h.1) (by decide)
    · rfl

end Sys2Proof.Machine
end

section
/-! SUPPORT. What a push, a pop and a reset do to a queue (17_priority_queues.md, R423 to R437). -/

namespace Sys2Proof.Machine

/-! ## Marks and rewinds (R424, R433) -/

/-- The marks that an update writes agree. -/
theorem markCause_remark (c : Chain) : markCause c.remark.marks = 0 := by
  unfold Chain.remark markCause
  simp [b2n]

theorem rewind_spec (x : PQueue) : x.rewind.opened = none ∧ (∀ c, (x.rewind.chains.get c).words = (x.chains.get c).words) ∧ (∀ c, x.opened = some c → (x.rewind.chains.get c).opn = []) := by
  unfold PQueue.rewind
  cases opened : x.opened with
  | none => exact ⟨opened, fun _ => rfl, fun c h => nomatch h⟩
  | some o =>
    refine ⟨rfl, fun c => ?_, fun c h => ?_⟩
    · dsimp only
      rw [Tab.get_upd]
      split
      next e => subst e; rfl
      next => rfl
    · cases h
      dsimp only
      rw [Tab.get_upd_same]
      rfl

theorem badChain_none {x : PQueue} : badChain x = none ↔ ∀ c, markCause (x.chains.get c).marks = 0 := by
  unfold badChain
  rw [List.find?_eq_none]
  exact ⟨fun h c => by have := h c (by revert c; decide); simpa using this, fun h c _ => by simp [h c]⟩

/-! ## Pushes (R423, R424, R430, R431) -/

theorem execQueuePush_on {q : QId} {v : BitVec 64} {f l : Bool} {c : Fin 8} {s : State} (present : qPresent s q = true) (on : qWriterOn s q = true) (good : badChain (s.pq.get q) = none) (free : (s.pq.get q).wait = none) :
    execQueuePush q v f l c s = .next (pushWord q c { word := v, first := f, last := l } s) := by
  unfold execQueuePush
  rw [if_neg (by rw [present, on]; decide), good]
  dsimp only
  rw [free]
  rfl

/-- A FIRST word with no packet open, or another word of the open packet, enters its chain. -/
theorem pushWord_enters {q : QId} {c : Fin 8} {w : Item} {s : State} (takes : (s.pq.get q).discard = false) (fits : ((s.pq.get q).opened = none ∧ w.first = true) ∨ ((s.pq.get q).opened = some c ∧ w.first = false)) :
    pushWord q c w s = enterWord q c w s := by
  unfold pushWord
  dsimp only
  rw [if_neg (by rw [takes]; decide)]
  rcases fits with ⟨none, first⟩ | ⟨some, notFirst⟩
  · rw [none]
    exact if_pos first
  · rw [some]
    dsimp only
    rw [if_neg (by rw [notFirst]; decide), if_pos rfl]

/-- A chain with one more word of its open packet, committed with the last one. -/
def Chain.entered (c : Chain) (w : Item) : Chain := if w.last then { c with words := c.words ++ c.opn ++ [w], opn := [] } else { c with opn := c.opn ++ [w] }

/-- A queue with one more word of a packet. -/
def PQueue.entered (x : PQueue) (c : Fin 8) (w : Item) : PQueue :=
  ({ x with chains := x.chains.put c ((x.chains.get c).entered w).remark, opened := if w.last then none else some c, packets := if w.last then wrapInc 16 x.packets else x.packets } : PQueue).seen c

theorem enterWord_room {q : QId} {c : Fin 8} {w : Item} {s : State} (short : ((s.pq.get q).chains.get c).opn.length < qMax q) (room : ((s.pq.get q).chains.get c).occ < qDepth q) :
    enterWord q c w s = { s with pq := s.pq.put q ((s.pq.get q).entered c w) } :=
  (if_neg (by omega)).trans (if_pos room)
theorem enterWord_waits {q : QId} {c : Fin 8} {w : Item} {s : State} (short : ((s.pq.get q).chains.get c).opn.length < qMax q) (full : qDepth q ≤ ((s.pq.get q).chains.get c).occ) (pair : qReceiver q = false) :
    enterWord q c w s = { s with pq := s.pq.put q { s.pq.get q with opened := some c, wait := some (c, w) } } :=
  (if_neg (by omega)).trans ((if_neg (by omega)).trans (if_neg (by rw [pair]; decide)))
theorem enterWord_refused {q : QId} {c : Fin 8} {w : Item} {s : State} (short : ((s.pq.get q).chains.get c).opn.length < qMax q) (full : qDepth q ≤ ((s.pq.get q).chains.get c).occ) (receiver : qReceiver q = true) :
    enterWord q c w s = rxRefused q { s with pq := s.pq.put q { (s.pq.get q).rewind with opened := none, discard := !w.last, full := satInc 8 (s.pq.get q).full } } :=
  (if_neg (by omega)).trans ((if_neg (by omega)).trans (if_pos receiver))
theorem enterWord_long {q : QId} {c : Fin 8} {w : Item} {s : State} (long : qMax q ≤ ((s.pq.get q).chains.get c).opn.length) :
    enterWord q c w s = raise 0x7003 q.val 0 { s with pq := s.pq.put q { (s.pq.get q).rewind with opened := none, discard := !w.last, overlong := satInc 8 (s.pq.get q).overlong } } :=
  if_pos (by omega)

theorem entered_spec (x : PQueue) (c : Fin 8) (w : Item) :
    ((x.entered c w).chains.get c).words = (if w.last then (x.chains.get c).words ++ (x.chains.get c).opn ++ [w] else (x.chains.get c).words) ∧
      ((x.entered c w).chains.get c).opn = (if w.last then [] else (x.chains.get c).opn ++ [w]) ∧ (∀ d, d ≠ c → (x.entered c w).chains.get d = x.chains.get d) ∧
      markCause ((x.entered c w).chains.get c).marks = 0 := by
  have own : (x.entered c w).chains.get c = ((x.chains.get c).entered w).remark := Tab.get_put_same _ _ _
  rw [own]
  refine ⟨?_, ?_, fun d other => Tab.get_put_other _ _ _ _ other, markCause_remark _⟩
  · show ((x.chains.get c).entered w).words = _
    unfold Chain.entered
    split <;> rfl
  · show ((x.chains.get c).entered w).opn = _
    unfold Chain.entered
    split <;> rfl

/-- A refused received message changes the interface's count and raises 0x7806 (R496). -/
theorem rxRefused_spec (q : QId) (s : State) : SameButFaults { s with vif := (rxRefused q s).vif } (rxRefused q s) := by
  have raised (n : Nat) (v : Vif) : SameButFaults { s with vif := (raise 0x7806 n 0 { s with vif := v }).vif } (raise 0x7806 n 0 { s with vif := v }) := by
    have same := raise_low_same 0x7806 n 0 { s with vif := v } (fun s => by simp [classOf, codesF0]) (by decide)
    rw [raise_vif]
    exact same
  unfold rxRefused
  split
  · exact raised _ _
  · split
    · exact raised _ _
    · exact .refl s

theorem malformed_spec (q : QId) (s : State) : active 0x7004 q.val (malformed q s) = true ∧ (malformed q s).pq = s.pq.upd q (fun x => { x with malf := satInc 8 x.malf }) ∧ SameButFaults { s with pq := (malformed q s).pq } (malformed q s) := by
  unfold malformed
  have same := raise_low_same 0x7004 q.val 0 (updQ q (fun x => { x with malf := satInc 8 x.malf }) s) (fun s => by simp [classOf, codesF0]) (by decide)
  refine ⟨raise_active _ _ _ _, raise_pq _ _ _ _, ?_⟩
  rw [raise_pq]
  exact same

/-- A word that no packet awaits is malformed. -/
theorem pushWord_stray {q : QId} {c : Fin 8} {w : Item} {s : State} (takes : (s.pq.get q).discard = false) (none : (s.pq.get q).opened = none) (notFirst : w.first = false) : pushWord q c w s = malformed q s := by
  unfold pushWord
  dsimp only
  rw [if_neg (by rw [takes]; decide), none]
  exact if_neg (by rw [notFirst]; decide)
/-- A word of another class than the open packet's is malformed, and ends the packet. -/
theorem pushWord_foreign {q : QId} {c o : Fin 8} {w : Item} {s : State} (takes : (s.pq.get q).discard = false) (some : (s.pq.get q).opened = some o) (other : c ≠ o) (notFirst : w.first = false) :
    pushWord q c w s = malformed q (updQ q (fun x => { x.rewind with discard := !w.last }) s) := by
  unfold pushWord
  dsimp only
  rw [if_neg (by rw [takes]; decide), some]
  dsimp only
  rw [if_neg (by rw [notFirst]; decide), if_neg other]

end Sys2Proof.Machine
end

section
/-! The writers of the queues. -/

namespace Sys2Proof.Machine

/-- Settles O43: a push by what entering a word does where it fits, waits, is refused or is too long. -/
theorem queueWriter : Obligations.QueueWriter := by
  unfold Obligations.QueueWriter
  refine ⟨fun s q v f l c present on good free takes fits => ?push, fun s q v l c present on good free takes => ⟨fun none => ?stray, fun o some other => ?foreign⟩, fun s q us => ?ends, fun s q v f l c off => ?halted,
    fun s q => ?writer, fun s q => ⟨by simp [classOf, codesF0], by simp [classOf, codesF0]⟩⟩
  case push =>
    have answer : exec (.queuePush q v f l c) s = .next (enterWord q c { word := v, first := f, last := l } s) :=
      (execQueuePush_on present on good free).trans (congrArg _ (pushWord_enters takes fits))
    refine ⟨fun short room => ?_, fun short full pair => ?_, fun short full receiver => ?_, fun long => ?_⟩
    · rw [enterWord_room short room] at answer
      refine ⟨_, answer, rfl, fun r other => Tab.get_put_other _ _ _ _ other, ?_⟩
      dsimp only
      rw [Tab.get_put_same]
      obtain ⟨words, opn, others, marks⟩ := entered_spec (s.pq.get q) c { word := v, first := f, last := l }
      exact ⟨words, opn, others, rfl, rfl, marks, rfl⟩
    · rw [answer, enterWord_waits short full pair]
    · rw [enterWord_refused short full receiver] at answer
      have same := rxRefused_spec q { s with pq := s.pq.put q { (s.pq.get q).rewind with opened := none, discard := !l, full := satInc 8 (s.pq.get q).full } }
      refine ⟨_, answer, ?_, ?_⟩
      · rw [same]
      · rw [show (rxRefused q { s with pq := s.pq.put q { (s.pq.get q).rewind with opened := none, discard := !l, full := satInc 8 (s.pq.get q).full } }).pq = s.pq.put q { (s.pq.get q).rewind with opened := none, discard := !l, full := satInc 8 (s.pq.get q).full } by rw [same]]
        exact same
    · rw [enterWord_long long] at answer
      refine ⟨_, answer, raise_active _ _ _ _, raise_pq _ _ _ _, ?_⟩
      rw [raise_pq]
      exact raise_low_same 0x7003 q.val 0 _ (fun s => by simp [classOf, codesF0]) (by decide)
  case stray =>
    have answer : exec (.queuePush q v false l c) s = .next (malformed q s) :=
      (execQueuePush_on present on good free).trans (congrArg _ (pushWord_stray takes none rfl))
    exact ⟨_, answer, malformed_spec q s⟩
  case foreign =>
    have answer : exec (.queuePush q v false l c) s = .next (malformed q (updQ q (fun x => { x.rewind with discard := !l }) s)) :=
      (execQueuePush_on present on good free).trans (congrArg _ (pushWord_foreign takes some other rfl))
    obtain ⟨raised, pq, same⟩ := malformed_spec q (updQ q (fun x => { x.rewind with discard := !l }) s)
    refine ⟨_, answer, raised, ?_, same⟩
    rw [pq, Tab.get_upd_same]
    rw [show (updQ q (fun x => { x.rewind with discard := !l }) s).pq.get q = { (s.pq.get q).rewind with discard := !l } from Tab.get_upd_same _ _ _]
  case ends =>
    refine ⟨fun waits late => if_pos ⟨waits, late⟩, fun opened on good => ?_, fun _ => ⟨(rewind_spec _).1, fun c => ⟨(rewind_spec _).2.1 c, (rewind_spec _).2.2 c⟩⟩, fun present on none => if_pos ⟨present, on, by rw [none]; rfl⟩⟩
    show execQueueAbort q s = _
    unfold execQueueAbort
    dsimp only
    rw [if_neg (by rw [on, not_or, ← Option.not_isSome, opened]; decide), good]
  case halted =>
    refine ⟨if_pos (.inr off), if_pos (.inr off), if_neg fun h => absurd (off.symm.trans h.2.1) (by decide)⟩
  case writer =>
    refine ⟨fun first last => ?_, fun log => ?_⟩
    · unfold qWriterOn
      rw [if_pos ⟨first, last⟩]
      exact decide_eq_true_iff
    · unfold qWriterOn
      rw [if_neg (by omega), if_neg (by omega), if_neg (by omega)]

end Sys2Proof.Machine
end

section
/-! SUPPORT. A pop, and the reset of a queue whose marks disagree (17_priority_queues.md, R427, R433 to R436). -/

namespace Sys2Proof.Machine

/-! ## What a change of a port leaves of the queues (R451, R457) -/

theorem transmit_pq (p : Port) (ty : Nat) (b : List Byte) (s : State) : (transmit p ty b s).pq = s.pq ∧ (transmit p ty b s).pqSeen = s.pqSeen := by
  unfold transmit
  dsimp only
  split
  · exact ⟨rfl, rfl⟩
  · split <;> exact ⟨rfl, rfl⟩

theorem floodOwn_pq (s : State) : (floodOwn s).pq = s.pq := by
  unfold floodOwn
  dsimp only
  exact (foldl_part (fun s => s.pq) (fun s p => (transmit_pq _ _ _ s).1) _ _).trans rfl

theorem chooseRef_pq (s : State) : (chooseRef s).pq = s.pq := by
  unfold chooseRef
  split
  · rfl
  · dsimp only
    repeat' split
    all_goals rfl

theorem beRef_pq (s : State) : (beRef s).pq = s.pq := by
  unfold beRef
  split <;> rfl

theorem markPorts_pq (s : State) : (markPorts s).pq = s.pq := rfl

theorem retopo_pq (s : State) : (retopo s).pq = s.pq := by
  unfold retopo
  split
  · rfl
  · dsimp only
    have gone := foldl_part (f := fun s (a : Nat) => raise 0x6802 a 0 s) (fun s => s.pq) (fun s a => raise_pq _ _ _ _) ((unreachableAddrs s).filter (fun a => !s.fab.gone.contains a)) { s with fab := { s.fab with gone := unreachableAddrs s } }
    generalize List.foldl (fun s (a : Nat) => raise 0x6802 a 0 s) { s with fab := { s.fab with gone := unreachableAddrs s } } _ = u at gone ⊢
    rw [markPorts_pq, beRef_pq, chooseRef_pq]
    split
    · exact (raise_pq _ _ _ _).trans gone
    · exact gone

theorem portChanged_pq (s : State) : (portChanged s).pq = s.pq := (retopo_pq _).trans (floodOwn_pq s)

theorem settlePorts_pq (o s : State) : (settlePorts o s).pq = s.pq := by
  unfold settlePorts
  split
  · exact portChanged_pq s
  · rfl

theorem settlePorts_grows (o s : State) : Grows s (settlePorts o s) := (settlePorts_sent o s).2.1

/-! ## A reset (R434 to R436) -/

/-- The queue behind its reset. -/
def resetTo (q : QId) (c : Fin 8) (nowMs : Nat) (s : State) : PQueue :=
  (s.pq.get q).cleared (lostItems (s.pq.get q)) c.val (markCause ((s.pq.get q).chains.get c).marks) (s.timeNs % 2 ^ 32) nowMs

/-- The reset before its faults. -/
def resetStart (q : QId) (c : Fin 8) (nowMs : Nat) (s : State) : State :=
  { s with pq := s.pq.put q (resetTo q c nowMs s), pqSeen := if s.pqSeen.contains q then s.pqSeen else q :: s.pqSeen }

/-- The reset is the third within a second. -/
def thirdReset (l : List Nat) : Bool :=
  match l with
  | [a, _, b] => decide (a < b + 1000)
  | _ => false

theorem resetQueue_eq (q : QId) (c : Fin 8) (nowMs : Nat) (s : State) :
    resetQueue q c nowMs s = if thirdReset (resetTo q c nowMs s).resetMs then settlePorts (raise 0x7001 q.val (lostItems (s.pq.get q)) (resetStart q c nowMs s)) (raise 0x7002 q.val (lostItems (s.pq.get q)) (raise 0x7001 q.val (lostItems (s.pq.get q)) (resetStart q c nowMs s)))
      else raise 0x7001 q.val (lostItems (s.pq.get q)) (resetStart q c nowMs s) := rfl

theorem resetQueue_pq (q : QId) (c : Fin 8) (nowMs : Nat) (s : State) : (resetQueue q c nowMs s).pq = s.pq.put q (resetTo q c nowMs s) := by
  rw [resetQueue_eq]
  split
  · rw [settlePorts_pq, raise_pq, raise_pq]; rfl
  · rw [raise_pq]; rfl

theorem resetQueue_raises (q : QId) (c : Fin 8) (nowMs : Nat) (s : State) : Grows s (resetQueue q c nowMs s) ∧ active 0x7001 q.val (resetQueue q c nowMs s) = true ∧
    (thirdReset (resetTo q c nowMs s).resetMs = true → active 0x7002 q.val (resetQueue q c nowMs s) = true) := by
  have start : Grows s (resetStart q c nowMs s) := .of_eq rfl
  have first := raise_active 0x7001 q.val (lostItems (s.pq.get q)) (resetStart q c nowMs s)
  have grows := start.trans (raise_grows 0x7001 q.val (lostItems (s.pq.get q)) (resetStart q c nowMs s))
  rw [resetQueue_eq]
  split
  next third =>
    have more := (raise_grows 0x7002 q.val (lostItems (s.pq.get q)) (raise 0x7001 q.val (lostItems (s.pq.get q)) (resetStart q c nowMs s))).trans
      (settlePorts_grows (raise 0x7001 q.val (lostItems (s.pq.get q)) (resetStart q c nowMs s)) _)
    exact ⟨grows.trans more, more _ _ first, fun _ => settlePorts_grows _ _ _ _ (raise_active _ _ _ _)⟩
  next once => exact ⟨grows, first, fun third => absurd third once⟩

/-- What a reset leaves of the queues. -/
theorem resetQueue_spec (q : QId) (c : Fin 8) (nowMs : Nat) (s : State) : (∀ d, ((resetQueue q c nowMs s).pq.get q).chains.get d = Chain.empty) ∧ ((resetQueue q c nowMs s).pq.get q).resets = satInc 8 (s.pq.get q).resets ∧
    active 0x7001 q.val (resetQueue q c nowMs s) = true ∧ Grows s (resetQueue q c nowMs s) ∧ (resetQueue q c nowMs s).pq.get q = resetTo q c nowMs s := by
  have own : (resetQueue q c nowMs s).pq.get q = resetTo q c nowMs s := by rw [resetQueue_pq, Tab.get_put_same]
  obtain ⟨grows, first, -⟩ := resetQueue_raises q c nowMs s
  exact ⟨fun d => by rw [own]; rfl, by rw [own]; rfl, first, grows, own⟩

theorem resetQueue_few {q : QId} {c : Fin 8} {nowMs : Nat} {s : State} (few : (s.pq.get q).resetMs.length < 2) : SameButFaults { s with pq := (resetQueue q c nowMs s).pq, pqSeen := (resetQueue q c nowMs s).pqSeen } (resetQueue q c nowMs s) := by
  have once : thirdReset (resetTo q c nowMs s).resetMs = false := by
    show thirdReset ((nowMs :: (s.pq.get q).resetMs).take 3) = false
    match h : (s.pq.get q).resetMs with
    | [] => rfl
    | [_] => rfl
    | _ :: _ :: _ => rw [h] at few; simp at few
  have same := raise_low_same 0x7001 q.val (lostItems (s.pq.get q)) (resetStart q c nowMs s) (fun s => by simp [classOf, codesF0, codesF1]) (by decide)
  rw [resetQueue_eq, if_neg (by rw [once]; decide)]
  rw [show (raise 0x7001 q.val (lostItems (s.pq.get q)) (resetStart q c nowMs s)).pq = (resetStart q c nowMs s).pq by rw [same], show (raise 0x7001 q.val (lostItems (s.pq.get q)) (resetStart q c nowMs s)).pqSeen = (resetStart q c nowMs s).pqSeen by rw [same]]
  exact same

/-! ## The chain that a pop reads (R427) -/

/-- The first of a falling list is the highest. -/
theorem highest_of_find {p : Fin 8 → Bool} {l : List (Fin 8)} (falls : l.Pairwise (· > ·)) {c : Fin 8} (found : l.find? p = some c) : p c = true ∧ ∀ d ∈ l, c < d → p d = false := by
  obtain ⟨holds, before, behind, split, none⟩ := List.find?_eq_some_iff_append.1 found
  refine ⟨holds, fun d m higher => ?_⟩
  rw [split, List.mem_append, List.mem_cons] at m
  rw [split, List.pairwise_append, List.pairwise_cons] at falls
  rcases m with m | rfl | m
  · simpa using none d m
  · exact absurd higher (lt_irrefl _)
  · exact absurd (falls.2.1.1 d m) (not_lt.2 (le_of_lt higher))

theorem readChain_fresh {x : PQueue} (fresh : x.reading = none) {c : Fin 8} (reads : readChain x = some c) : (x.chains.get c).ready = true ∧ ∀ d, c < d → (x.chains.get d).ready = false := by
  unfold readChain at reads
  rw [fresh] at reads
  have every : ∀ d : Fin 8, d ∈ clsAll.reverse := by decide
  obtain ⟨ready, higher⟩ := highest_of_find (by decide) reads
  exact ⟨ready, fun d lt => higher d (every d) lt⟩

theorem readChain_none {x : PQueue} (fresh : x.reading = none) (empty : ∀ c, (x.chains.get c).ready = false) : readChain x = none := by
  unfold readChain
  rw [fresh]
  exact List.find?_eq_none.2 fun c _ => by rw [empty c]; decide

/-! ## An upset of one count (R433) -/

/-- The state behind an upset of one count of a chain. -/
def upsetAt (q : QId) (c : Fin 8) (k : Fin 6) (v : Nat) (s : State) : State :=
  updQ q (fun x => { x with chains := x.chains.upd c (fun ch => { ch with marks := upsetMark k v ch.marks }) }) s

theorem upsetAt_queue (q : QId) (c : Fin 8) (k : Fin 6) (v : Nat) (s : State) :
    (upsetAt q c k v s).pq.get q = { s.pq.get q with chains := (s.pq.get q).chains.upd c (fun ch => { ch with marks := upsetMark k v ch.marks }) } := Tab.get_upd_same _ _ _

theorem execMarkCheck_present {q : QId} {ms : Nat} {s : State} (present : qPresent s q = true) : execMarkCheck q none ms s = match badChain (s.pq.get q) with
    | some c => .next (resetQueue q c ms s)
    | none => .next s := if_neg (by rw [present]; decide)

theorem execMarkCheck_upset {q : QId} {c : Fin 8} {k : Fin 6} {v ms : Nat} {s : State} (present : qPresent s q = true) : execMarkCheck q (some (c, k, v)) ms s = match badChain ((upsetAt q c k v s).pq.get q) with
    | some d => .next (resetQueue q d ms (upsetAt q c k v s))
    | none => .next (upsetAt q c k v s) := by
  unfold execMarkCheck
  rw [if_neg (by rw [present]; decide)]
  rfl

/-- A queue whose marks agreed before the upset shows the upset chain alone. -/
theorem upsetAt_bad {q : QId} {c : Fin 8} {k : Fin 6} {v : Nat} {s : State} (good : badChain (s.pq.get q) = none) :
    badChain ((upsetAt q c k v s).pq.get q) = if markCause (upsetMark k v ((s.pq.get q).chains.get c).marks) ≠ 0 then some c else none := by
  have marks : ∀ d, markCause (((upsetAt q c k v s).pq.get q).chains.get d).marks = if d = c then markCause (upsetMark k v ((s.pq.get q).chains.get c).marks) else 0 := fun d => by
    rw [upsetAt_queue]
    dsimp only
    rw [Tab.get_upd]
    split
    · rfl
    · exact badChain_none.1 good d
  split
  next bad =>
    cases found : badChain ((upsetAt q c k v s).pq.get q) with
    | none =>
      have := badChain_none.1 found c
      rw [marks, if_pos rfl] at this
      exact absurd this bad
    | some d =>
      unfold badChain at found
      have := List.find?_some found
      rw [decide_eq_true_eq] at this
      rw [marks] at this
      by_cases e : d = c
      · rw [e]
      · rw [if_neg e] at this
        exact absurd rfl this
  next fine =>
    refine badChain_none.2 fun d => ?_
    rw [marks]
    split
    · exact not_not.1 fine
    · rfl

end Sys2Proof.Machine
end

section
/-! The readers of the queues and the check of the marks. -/

namespace Sys2Proof.Machine

/-- Settles O44: a pop by the chain it reads, a difference by `resetQueue_spec`. -/
theorem queueReader : Obligations.QueueReader := by
  unfold Obligations.QueueReader
  refine ⟨fun s q c w r present on good whole inner reads head free => ?pop, fun s q present good => ?nothing, fun s q ms c present bad => ?check, fun s q c k v ms present good => ?upset, fun s q c present on bad => ?found,
    fun s q off => if_pos (.inr off), fun s q => ?cls⟩
  case pop =>
    have answer : exec (.queuePop q) s = .next (popWord q s) := by
      show execQueuePop q s = _
      unfold execQueuePop
      rw [if_neg (by rw [present, on]; decide), good]
      dsimp only
      rw [if_neg (by rw [whole]; decide), if_neg (by omega)]
    refine ⟨?_, fun fresh => ?_, fun d started => ?_⟩
    · rw [answer]
      unfold popWord
      dsimp only
      rw [reads]
      dsimp only
      rw [head]
      dsimp only
      rw [free]
    · exact readChain_fresh fresh reads
    · unfold readChain at reads
      rw [started] at reads
      exact (Option.some.inj reads).symm
  case nothing =>
    refine ⟨fun whole none fresh => ?_, fun aborted on inner => ?_, fun ms => ?_⟩
    · have reads := readChain_none fresh none
      show execQueuePop q s = _
      unfold execQueuePop
      by_cases on : qReaderOn s q = true
      · rw [if_neg (by rw [present, on]; decide), good]
        dsimp only
        rw [if_neg (by rw [whole]; decide)]
        split
        · rw [if_pos (.inr (.inr (by rw [reads]; rfl)))]
        · unfold popWord
          dsimp only
          rw [reads]
      · exact if_pos (.inr (Bool.eq_false_iff.2 on))
    · show execQueuePop q s = _
      unfold execQueuePop
      rw [if_neg (by rw [present, on]; decide), good]
      dsimp only
      rw [if_pos aborted, if_neg (by omega)]
      rfl
    · show execMarkCheck q none ms s = _
      rw [execMarkCheck_present present, good]
  case check =>
    have answer : exec (.markCheck q none ms) s = .next (resetQueue q c ms s) := by
      show execMarkCheck q none ms s = _
      rw [execMarkCheck_present present, bad]
    obtain ⟨empty, resets, raised, grows, own⟩ := resetQueue_spec q c ms s
    refine ⟨_, answer, empty, resets, by rw [own]; rfl, by rw [own]; rfl, by rw [own]; rfl, by rw [own]; rfl, by rw [own]; rfl, fun r other => ?_, raised, grows, fun few => resetQueue_few few, fun a b l times soon => ?_⟩
    · rw [resetQueue_pq]
      exact Tab.get_put_other _ _ _ _ other
    · refine (resetQueue_raises q c ms s).2.2 ?_
      show thirdReset ((ms :: (s.pq.get q).resetMs).take 3) = true
      rw [times]
      exact decide_eq_true soon
  case upset =>
    have answer : exec (.markCheck q (some (c, k, v)) ms) s = _ := execMarkCheck_upset (ms := ms) present
    rw [upsetAt_bad good] at answer
    refine ⟨fun bad => ?_, fun same => ?_⟩
    · rw [if_pos bad] at answer
      obtain ⟨empty, resets, raised, grows, own⟩ := resetQueue_spec q c ms (upsetAt q c k v s)
      refine ⟨_, answer, empty, ?_, by rw [own]; rfl, ?_, raised, (Grows.of_eq rfl).trans grows⟩
      · rw [resets, upsetAt_queue]
      · rw [own]
        show markCause ((((upsetAt q c k v s).pq.get q).chains.get c).marks) = _
        rw [upsetAt_queue]
        dsimp only
        rw [Tab.get_upd_same]
    · rw [same, if_neg (not_not.2 (badChain_none.1 good c))] at answer
      refine ⟨_, answer, fun r => ?_, fun d => ?_, ?_⟩
      · by_cases e : r = q
        · exact .inr e
        · exact .inl (Tab.get_upd_other _ _ _ _ e)
      · rw [upsetAt_queue]
        dsimp only
        rw [Tab.get_upd]
        split
        next e => rw [same, e]
        next => rfl
      · rw [upsetAt_queue]
        rfl
  case found =>
    have answer : exec (.queuePop q) s = .next (resetQueue q c (resetTime q s) s) := by
      show execQueuePop q s = _
      unfold execQueuePop
      rw [if_neg (by rw [present, on]; decide), bad]
    obtain ⟨empty, resets, raised, grows, -⟩ := resetQueue_spec q c (resetTime q s) s
    exact ⟨_, answer, empty, resets, raised, grows⟩
  case cls =>
    have q' := q.isLt
    have cls : classOf s 0x7002 q.val = queueClass q.val := by simp [classOf, codesF0, codesF1, codesF2, codesF4]
    rw [cls]
    unfold queueClass
    split_ifs <;> omega

end Sys2Proof.Machine
end

section
/-! SUPPORT. What a packet that this node puts into a queue of a port may change, a third reset of the queue within a second included (17_priority_queues.md, R439; 18_ryfawen_fabric.md, R448 to R456). -/

namespace Sys2Proof.Machine

/-- Only the fabric, the queues, the outbox, the free index and what a fault of a low class touches have changed, no fault has ended, and the operations
and the identity of the fabric stand. -/
structure OutStep (s t : State) : Prop where
  same : SameButFaults { s with fab := t.fab, pq := t.pq, pqSeen := t.pqSeen, out := t.out, freeIx := t.freeIx } t
  grows : Grows s t
  core : fabCore t.fab = fabCore s.fab

theorem OutStep.refl (s : State) : OutStep s s := ⟨rfl, .refl s, rfl⟩

theorem OutStep.trans {s t u : State} (a : OutStep s t) (b : OutStep t u) : OutStep s u := by
  refine ⟨?_, a.grows.trans b.grows, b.core.trans a.core⟩
  have first := a.same
  have second := b.same
  clear a b
  unfold SameButFaults at *
  generalize t.fab = l1 at first
  generalize t.pq = l2 at first
  generalize t.pqSeen = l3 at first
  generalize t.out = l4 at first
  generalize t.freeIx = l5 at first
  generalize t.sys.readyPin = a1 at first
  generalize t.sys.faultPin = a2 at first
  generalize t.faults = a3 at first
  generalize t.log = a4 at first
  generalize t.uds.dtcClr = a5 at first
  rw [first] at second
  exact second

theorem OutStep.of_step {s t : State} (step : FabStep s t) (core : fabCore t.fab = fabCore s.fab) : OutStep s t := by
  refine ⟨?_, step.2, core⟩
  have seen : t.pqSeen = s.pqSeen := by rw [step.1]
  rw [seen]
  exact step.1

/-- A change of the queues and of what the fabric counts. -/
theorem OutStep.set (s : State) (f : Fab) (pq : Tab QId PQueue) (seen : List QId) (core : fabCore f = fabCore s.fab) : OutStep s { s with fab := f, pq := pq, pqSeen := seen } := ⟨rfl, .of_eq rfl, core⟩

theorem OutStep.ite {s : State} {p : Prop} [Decidable p] {a b : State} (x : OutStep s a) (y : OutStep s b) : OutStep s (if p then a else b) := by split <;> assumption

theorem OutStep.foldl {α : Type} {f : State → α → State} (h : ∀ s a, OutStep s (f s a)) (l : List α) (s : State) : OutStep s (l.foldl f s) := by
  induction l generalizing s with
  | nil => exact .refl s
  | cons a l ih => exact (h s a).trans (ih _)

theorem OutStep.low {s : State} (c i m : Nat) (cls : ∀ s, classOf s c i < 3) (gate : ¬(0x2803 ≤ c ∧ c ≤ 0x280C) := by decide) : OutStep s (raise c i m s) :=
  .of_step ((FabStep.refl s).raise cls gate) (raise_core c i m s)

/-- 0x7002 of a port's queue takes the port DOWN and touches nothing else (R439). -/
theorem raise_portQueue {q : Nat} (port : q < 8) (m : Nat) (s : State) : OutStep s (raise 0x7002 q m s) := by
  refine .of_step ?_ (raise_core _ _ _ _)
  have base : FabStep s (raiseBaseBy (0x7002 / 2048) 0x7002 q m s) := .of_same (raiseBaseBy_same _ _ _ _ _) (raiseBaseBy_grows _ _ _ _ _)
  have cls : ∀ u, classOf u 0x7002 q = 3 := fun u => by
    have queue : classOf u 0x7002 q = queueClass q := by simp [classOf, codesF0, codesF1, codesF2, codesF4]
    rw [queue]
    exact (if_neg (by omega)).trans (if_neg (by omega))
  have reacts : ∀ u, reactF3 0x7002 q u = queueStop q u := fun u => by simp [reactF3, missCode, show q ≠ 21 by omega]
  have stops : ∀ u, FabStep u (queueStop q u) := fun u => by
    unfold queueStop
    rw [if_pos port]
    exact .ite (closePort_fab _ _ _) (.refl u)
  unfold raise raiseBy
  dsimp only
  generalize raiseBaseBy (0x7002 / 2048) 0x7002 q m s = u at base ⊢
  rw [cls u]
  rw [reacts]
  exact .ite (base.trans ((stops u).trans (.of_same (pins_same _) (.of_eq (pins_faults _))))) base

theorem settlePorts_out (o s : State) : OutStep s (settlePorts o s) := by
  unfold settlePorts
  exact .ite (.of_step (portChanged_fab _) (portChanged_core _)) (.refl s)

/-- A port's queue that resets. -/
theorem resetQueue_out {q : QId} (port : q.val < 8) (c : Fin 8) (n : Nat) (s : State) : OutStep s (resetQueue q c n s) := by
  rw [resetQueue_eq]
  have start : OutStep s (resetStart q c n s) := .set s s.fab _ _ rfl
  have first := start.trans (OutStep.low 0x7001 q.val (lostItems (s.pq.get q)) (fun s => by simp [classOf, codesF0, codesF1]))
  exact .ite ((first.trans (raise_portQueue port _ _)).trans (settlePorts_out _ _)) first

theorem checkQueue_out {q : QId} (port : q.val < 8) (s : State) : OutStep s (checkQueue q s) := by
  unfold checkQueue
  split
  · exact resetQueue_out port _ _ _
  · exact .refl s

theorem pushPacket_out {q : QId} (port : q.val < 8) (c : Fin 8) (ws : List (BitVec 64)) (s : State) : OutStep s (pushPacket q c ws s) := by
  unfold pushPacket
  have checked := checkQueue_out port s
  generalize checkQueue q s = u at checked ⊢
  dsimp only
  exact checked.trans (.ite (.set _ _ _ _ rfl) (.set _ _ _ _ rfl))

theorem inQ_port (p : Port) : (inQ p).val < 8 := Nat.lt_trans p.isLt (by decide)
theorem outQ_port (p : Port) : (outQ p).val < 8 := by have := p.isLt; show 4 + p.val < 8; omega

theorem queueOut_out (p : Port) (c : Nat) (b : List Byte) (s : State) : OutStep s (queueOut p c b s) := pushPacket_out (outQ_port p) _ _ _

theorem route_out (d : Option Nat) (c : Nat) (b : List Byte) (s : State) : OutStep s (route d c b s) := by
  unfold route
  split
  · split
    · exact queueOut_out _ _ _ _
    · exact .set s _ _ _ rfl
  · exact .foldl (fun s p => queueOut_out _ _ _ _) _ _

theorem OutStep.counts (s : State) (x : List ((Nat × Nat) × Nat)) : OutStep s { s with fab := { s.fab with txCnt := x } } := ⟨rfl, .of_eq rfl, rfl⟩
theorem OutStep.datas (s : State) (x : List (Nat × Nat)) : OutStep s { s with fab := { s.fab with txData := x } } := ⟨rfl, .of_eq rfl, rfl⟩
theorem OutStep.bulks (s : State) (x : List (Nat × Nat × Nat × Nat × List Byte)) : OutStep s { s with fab := { s.fab with bulk := x } } := ⟨rfl, .of_eq rfl, rfl⟩

theorem sendCtl_out (ty cls : Nat) (d : Option Nat) (x y : Nat) (b : List Byte) (s : State) : OutStep s (sendCtl ty cls d x y b s) := by
  unfold sendCtl
  dsimp only
  exact .ite (.refl s) ((OutStep.counts s _).trans (route_out _ _ _ _))

theorem sendData_out (c d x y : Nat) (b : List Byte) (s : State) : OutStep s (sendData c d x y b s) := by
  unfold sendData
  dsimp only
  exact .ite (.refl s) ((OutStep.datas s _).trans (route_out _ _ _ _))

theorem drainBulk_out (n : Nat) (s : State) : OutStep s (drainBulk n s) := by
  induction n generalizing s with
  | zero => exact .refl s
  | succ n ih =>
    unfold drainBulk
    split
    · exact .refl s
    · exact .ite (((OutStep.bulks s _).trans (sendData_out _ _ _ _ _ _)).trans (ih _)) (.refl s)

theorem sendBulk_out (c d x y : Nat) (l : List (List Byte)) (s : State) : OutStep s (sendBulk c d x y l s) := by
  unfold sendBulk
  exact (OutStep.bulks s _).trans (drainBulk_out _ _)

theorem reply_out (r : FabReq) (op st : Nat) (l : List Byte) (s : State) : OutStep s (reply r op st l s) := sendCtl_out _ _ _ _ _ _ _

theorem transmit_out (p : Port) (ty : Nat) (b : List Byte) (s : State) : OutStep s (transmit p ty b s) := .of_step (transmit_fab _ _ _ _) (transmit_core _ _ _ _)

theorem takeFrame_out (p : Port) (h : FabHeader) (w : RxWay) (b : List Byte) (s : State) : OutStep s (takeFrame p h w b s) := by
  unfold takeFrame
  split
  · exact .refl s
  · refine .ite (.refl s) ?_
    dsimp only
    refine .ite ?_ (pushPacket_out (inQ_port p) _ _ _)
    split
    · exact (pushPacket_out (inQ_port p) _ _ _).trans (.foldl (fun s e => queueOut_out _ _ _ _) _ _)
    · exact pushPacket_out (inQ_port p) _ _ _
  · exact transmit_out _ _ _ _
  · exact queueOut_out _ _ _ _

end Sys2Proof.Machine
end

section
/-! SUPPORT. What a change of a port leaves of it, and what a link down does (18_ryfawen_fabric.md, R443, R451 to R457). -/

namespace Sys2Proof.Machine

/-! ## A port that is not UP while its neighbours hear of a change (R453, R457) -/

theorem transmit_idle {p q : Port} {ty : Nat} {b : List Byte} {s : State} (idle : (s.fab.ports.get q).st ≠ 4) : (transmit p ty b s).fab.ports.get q = s.fab.ports.get q := by
  unfold transmit
  dsimp only
  split
  · rfl
  next up =>
    have other : q ≠ p := fun e => idle (by rw [e]; omega)
    split
    · exact Tab.get_upd_other _ _ _ _ other
    · exact Tab.get_upd_other _ _ _ _ other

theorem transmit_advSeq (p : Port) (ty : Nat) (b : List Byte) (s : State) : (transmit p ty b s).fab.advSeq = s.fab.advSeq := by
  unfold transmit
  dsimp only
  split
  · rfl
  · split <;> rfl

theorem floodOwn_idle {q : Port} {s : State} (idle : (s.fab.ports.get q).st ≠ 4) : (floodOwn s).fab.ports.get q = s.fab.ports.get q := by
  unfold floodOwn
  dsimp only
  exact (foldl_inv (P := fun u => u.fab.ports.get q = s.fab.ports.get q) (fun u p e => (transmit_idle (by rw [e]; exact idle)).trans e) _ _ rfl)

theorem floodOwn_advSeq (s : State) : (floodOwn s).fab.advSeq = s.fab.advSeq + 1 := by
  unfold floodOwn
  dsimp only
  exact (foldl_part (fun s => s.fab.advSeq) (fun s p => transmit_advSeq _ _ _ s) _ _).trans rfl

/-- The new topology marks the ports and counts nothing of the adverts. -/
theorem retopo_marks (s : State) : (retopo s).fab.advSeq = s.fab.advSeq ∧ ∀ q, (retopo s).fab.ports.get q = { s.fab.ports.get q with parent := ((retopo s).fab.ports.get q).parent, nbrAddr := ((retopo s).fab.ports.get q).nbrAddr } := by
  have chooses : ∀ u, (chooseRef u).fab.advSeq = u.fab.advSeq ∧ (chooseRef u).fab.ports = u.fab.ports := fun u => by
    refine ⟨?_, chooseRef_ports u⟩
    unfold chooseRef
    split
    · rfl
    · dsimp only
      repeat' split
      all_goals rfl
  have leads : ∀ u, (beRef u).fab.advSeq = u.fab.advSeq ∧ (beRef u).fab.ports = u.fab.ports := fun u => by
    unfold beRef
    split <;> exact ⟨rfl, rfl⟩
  have marks : ∀ u, (markPorts u).fab.advSeq = u.fab.advSeq ∧ ∀ q, (markPorts u).fab.ports.get q = { u.fab.ports.get q with parent := ((markPorts u).fab.ports.get q).parent, nbrAddr := ((markPorts u).fab.ports.get q).nbrAddr } := fun u => by
    refine ⟨rfl, fun q => ?_⟩
    unfold markPorts
    dsimp only
    rw [Tab.get_updAll _ _ _ (by decide), if_pos (by revert q; decide)]
  unfold retopo
  split
  · exact ⟨rfl, fun q => rfl⟩
  · dsimp only
    have gone := foldl_part (f := fun s (a : Nat) => raise 0x6802 a 0 s) (fun s => s.fab) (fun s a => raise_fab _ _ _ _) ((unreachableAddrs s).filter (fun a => !s.fab.gone.contains a)) { s with fab := { s.fab with gone := unreachableAddrs s } }
    generalize List.foldl (fun s (a : Nat) => raise 0x6802 a 0 s) { s with fab := { s.fab with gone := unreachableAddrs s } } _ = u at gone ⊢
    have far : (if u.maxDiam < diameter u then raise 0x6809 noInst (diameter u) u else u).fab = u.fab := by split <;> simp
    generalize (if u.maxDiam < diameter u then raise 0x6809 noInst (diameter u) u else u) = v at far ⊢
    obtain ⟨seq, ports⟩ := marks (beRef (chooseRef v))
    have same : (beRef (chooseRef v)).fab.advSeq = s.fab.advSeq ∧ (beRef (chooseRef v)).fab.ports = s.fab.ports := by
      rw [(leads _).1, (chooses _).1, (leads _).2, (chooses _).2, far, gone]
      exact ⟨rfl, rfl⟩
    refine ⟨seq.trans same.1, fun q => ?_⟩
    have := ports q
    rwa [same.2] at this

theorem PortsKept.st {s t : State} (kept : PortsKept s t) (q : Port) : (t.fab.ports.get q).st = (s.fab.ports.get q).st := congrArg Prod.fst (kept q)
theorem PortsKept.nbrId {s t : State} (kept : PortsKept s t) (q : Port) : (t.fab.ports.get q).nbrId = (s.fab.ports.get q).nbrId := congrArg (fun x => x.2.1) (kept q)

theorem portChanged_spec (s : State) : (∀ q, ((portChanged s).fab.ports.get q).st = (s.fab.ports.get q).st) ∧ (portChanged s).fab.advSeq = s.fab.advSeq + 1 ∧
    (∀ q, (s.fab.ports.get q).st ≠ 4 → (portChanged s).fab.ports.get q = { s.fab.ports.get q with parent := ((portChanged s).fab.ports.get q).parent, nbrAddr := ((portChanged s).fab.ports.get q).nbrAddr }) := by
  have kept := (portChanged_ports s).st
  have flooded := floodOwn_advSeq s
  have still := fun q idle => floodOwn_idle (q := q) (s := s) idle
  unfold portChanged at *
  generalize floodOwn s = u at kept flooded still ⊢
  obtain ⟨seq, marked⟩ := retopo_marks u
  refine ⟨kept, seq.trans flooded, fun q idle => ?_⟩
  have := marked q
  rwa [still q idle] at this

theorem core_lists {f g : Fab} (h : fabCore f = fabCore g) : (f.epoch, f.closed, f.admitted, f.addr, f.adverts) = (g.epoch, g.closed, g.admitted, g.addr, g.adverts) :=
  congrArg (fun x => (x.1.1, x.1.2.1, x.1.2.2.1, x.1.2.2.2.1, x.1.2.2.2.2.1)) h

/-- A change of a port touches no queue. -/
theorem portChanged_same (s : State) : SameButFaults { s with fab := (portChanged s).fab, out := (portChanged s).out, freeIx := (portChanged s).freeIx } (portChanged s) := by
  have same := (portChanged_fab s).1
  rw [portChanged_pq] at same
  exact same

/-! ## A port that closes (R443, R451, R452) -/

theorem closePort_spec (k : Nat) (p : Port) (s : State) :
    closePort k p s = { s with out := (closePort k p s).out, fab := { s.fab with ports := s.fab.ports.upd p (fun x => { x with st := k, hello := 0, helloId := 0, replay := [], waiting := [], rx := none, txWords := [], delays := [], parent := false }) } } ∧
      (∀ h e, (s.fab.ports.get p).rx = some (h, .cut e) → (closePort k p s).out = .sym e .eob :: s.out) ∧ ((∀ h e, (s.fab.ports.get p).rx ≠ some (h, .cut e)) → (closePort k p s).out = s.out) := by
  unfold closePort eobOut
  split
  next h e rx =>
    refine ⟨rfl, fun h' e' rx' => ?_, fun no => absurd rx (no h e)⟩
    rw [rx] at rx'
    cases rx'
    rfl
  next no => exact ⟨rfl, fun h e rx => absurd rx (no h e), fun _ => rfl⟩

/-- A link down from a state that differs in the fabric alone from `s`. -/
theorem dropLink_from {p : Port} {s u : State} (only : u = { s with fab := u.fab }) (st : ∀ q, (u.fab.ports.get q).st = (s.fab.ports.get q).st) (downs : (u.fab.ports.get p).downs = (s.fab.ports.get p).downs) :
    ((dropLink p u).fab.ports.get p).st = 1 ∧ ((dropLink p u).fab.ports.get p).replay = [] ∧ ((dropLink p u).fab.ports.get p).downs = satInc 8 (s.fab.ports.get p).downs ∧ active 0x6801 p.val (dropLink p u) = true ∧
      (∀ q, q ≠ p → ((dropLink p u).fab.ports.get q).st = (s.fab.ports.get q).st) ∧ Grows s (dropLink p u) ∧ SameButFaults { s with fab := (dropLink p u).fab, pq := (dropLink p u).pq, out := (dropLink p u).out, freeIx := (dropLink p u).freeIx } (dropLink p u) := by
  obtain ⟨down, replay, counted, others, raised⟩ := dropLink_spec p u
  obtain ⟨same, grows⟩ := dropLink_fab p u
  refine ⟨down, replay, by rw [counted, downs], raised, fun q other => (others q other).trans (st q), (Grows.of_eq (by rw [only])).trans grows, ?_⟩
  rw [only] at same
  rw [only]
  exact same

end Sys2Proof.Machine
end

section
/-! The states of the ports. -/

namespace Sys2Proof.Machine

/-- Settles O45: each command by its guard, a change of a port by `portChanged_spec`, a link down by `dropLink_spec`. -/
theorem portStates : Obligations.PortStates := by
  unfold Obligations.PortStates
  refine ⟨fun s p n on => ?early, fun s => ?changed, fun s p on hello => ?send, fun s p id echo on hello => ?frame, fun s p n on st => ?loss, fun s p k => closePort_spec k p s, fun s p on up failed => ?down⟩
  case early =>
    refine ⟨fun st runs late => if_pos ⟨on, runs, st, late⟩, fun not => if_neg fun ⟨_, runs, st, late⟩ => ?_, fun st trained => if_pos ⟨on, st, trained⟩⟩
    rcases not with h | h | h
    · exact h st
    · exact absurd (h.symm.trans runs) (by decide)
    · omega
  case changed =>
    obtain ⟨st, seq, idle⟩ := portChanged_spec s
    have ids := portChanged_core s
    exact ⟨st, seq, core_lists ids, idle, (portChanged_fab s).2, portChanged_same s⟩
  case send => exact ⟨_, if_pos ⟨on, hello⟩⟩
  case frame =>
    have serves : ¬(fabOn s = false ∨ (s.fab.ports.get p).st ≠ 3) := by rw [on, hello]; decide
    refine ⟨fun few => (if_neg serves).trans (if_neg fun h => few.elim (fun lt => absurd h.1 (by omega)) (fun ne => ne h.2)), fun third echoes => ?_⟩
    generalize hu : updPort p (fun x => { x with st := 4, nbrId := id, hello := 0, helloId := 0, txLink := 0, rxLink := 0, replay := [], waiting := [], rx := none, delays := [] }) s = u
    have answer : exec (.helloFrame p id echo) s = .next (portChanged u) := by rw [← hu]; exact (if_neg serves).trans (if_pos ⟨third, echoes⟩)
    have own : (u.fab.ports.get p).st = 4 ∧ (u.fab.ports.get p).nbrId = id := by
      rw [← hu]
      unfold updPort
      dsimp only
      rw [Tab.get_upd_same]
      exact ⟨rfl, rfl⟩
    have others : ∀ q, q ≠ p → (u.fab.ports.get q).st = (s.fab.ports.get q).st := fun q other => by rw [← hu]; exact congrArg FabPort.st (Tab.get_upd_other _ _ _ _ other)
    have step : FabStep s (portChanged u) := (by rw [← hu]; exact updPort_step _ _ _ : FabStep s u).trans (portChanged_fab u)
    have kept := portChanged_ports u
    exact ⟨_, answer, (kept.st p).trans own.1, (kept.nbrId p).trans own.2, fun q other => (kept.st q).trans (others q other), step.2, step.1⟩
  case loss =>
    have serves : ¬(fabOn s = false ∨ (s.fab.ports.get p).st < 2 ∨ 4 < (s.fab.ports.get p).st) := by
      rw [on, not_or]
      exact ⟨by decide, by omega⟩
    refine ⟨fun few => (if_neg serves).trans (if_pos few), fun many low => (if_neg serves).trans ((if_neg (by omega)).trans (if_neg (by omega))), fun many up => ⟨_, (if_neg serves).trans ((if_neg (by omega)).trans (if_pos up)), dropLink_from rfl (fun q => ?_) ?_⟩⟩
    · unfold updPort
      dsimp only
      rw [Tab.get_upd]
      split
      next e => rw [e]
      next => rfl
    · unfold updPort
      dsimp only
      rw [Tab.get_upd_same]
  case down => exact ⟨_, if_pos ⟨on, up, failed⟩, dropLink_from rfl (fun _ => rfl) rfl⟩

end Sys2Proof.Machine
end

section
/-! SUPPORT. What the end of a frame, an abort, an ACK and a NAK leave (18_ryfawen_fabric.md, R445, R450 to R452). -/

namespace Sys2Proof.Machine

/-! ## Headers (R445) -/

theorem headerBroken_iff (s : State) (h : FabHeader) : headerBroken s h = true ↔
    (h.version ≠ 1 ∨ 4 < h.type ∨ (h.e2e = true ∧ (h.type = 0 ∨ h.type = 2 ∨ 4 < h.type)) ∨ (h.e2e = false ∧ (h.type = 1 ∨ h.type = 3 ∨ h.type = 4)) ∨ (h.bcast = true ∧ h.dst ≠ 0xFF) ∨ (h.bcast = false ∧ h.dst = 0xFF) ∨
      h.rsv1 ≠ 0 ∨ h.rsv9 ≠ 0 ∨ h.rsv14 ≠ 0 ∨ 1024 < h.len ∨ h.len % 4 ≠ 0 ∨ (12 ≤ h.hop ∧ h.type ≠ 2 ∧ ¬(s.fab.admitted = true ∧ h.dst = s.fab.addr))) := by
  have e2e : ((h.e2e != decide (h.type = 1 ∨ h.type = 3 ∨ h.type = 4)) = true) ↔ ((h.e2e = true ∧ (h.type = 0 ∨ h.type = 2 ∨ 4 < h.type)) ∨ (h.e2e = false ∧ (h.type = 1 ∨ h.type = 3 ∨ h.type = 4))) := by
    cases h.e2e
    · simp
    · simp
      omega
  have bcast : ((h.bcast != decide (h.dst = 0xFF)) = true) ↔ ((h.bcast = true ∧ h.dst ≠ 0xFF) ∨ (h.bcast = false ∧ h.dst = 0xFF)) := by
    cases h.bcast <;> simp
  have mine : ((decide (12 ≤ h.hop) && !(decide (h.type = 2) || (s.fab.admitted && decide (h.dst = s.fab.addr)))) = true) ↔ (12 ≤ h.hop ∧ h.type ≠ 2 ∧ ¬(s.fab.admitted = true ∧ h.dst = s.fab.addr)) := by
    cases s.fab.admitted <;> simp
  unfold headerBroken
  dsimp only
  rw [Bool.or_eq_true, Bool.or_eq_true, Bool.or_eq_true, Bool.or_eq_true, Bool.or_eq_true, Bool.or_eq_true, e2e, bcast, mine]
  simp only [decide_eq_true_eq, or_assoc]

/-- The identity at an address hangs on the closed list alone. -/
theorem idAt_of_core {s t : State} (h : fabCore t.fab = fabCore s.fab) (a : Nat) : idAt t a = idAt s a := by
  have lists := core_lists h
  simp only [Prod.mk.injEq] at lists
  obtain ⟨epoch, closed, -⟩ := lists
  unfold idAt admittedIds
  rw [epoch, closed]

/-! ## The end of a frame (R450, R452) -/

/-- An aborted frame ends in EOB where it was being cut through, and is counted where it was being written. -/
theorem rewindEob_eq (p : Port) (s : State) : rewindRx p (eobOut p s) = match (s.fab.ports.get p).rx with
    | some (h, .here) => if h.type = 2 then s else updQ (inQ p) (fun x => { x with abort := satInc 8 x.abort }) s
    | some (_, .store e) => updQ (outQ e) (fun x => { x with abort := satInc 8 x.abort }) s
    | some (_, .cut e) => send (.sym e .eob) s
    | _ => s := by
  have rx : ((eobOut p s).fab.ports.get p).rx = (s.fab.ports.get p).rx := by unfold eobOut; split <;> rfl
  unfold rewindRx
  rw [rx]
  unfold eobOut
  match (s.fab.ports.get p).rx with
  | none => rfl
  | some (_, .here) => rfl
  | some (_, .store _) => rfl
  | some (_, .cut _) => rfl
  | some (_, .drop) => rfl

theorem rewindEob_only (p : Port) (s : State) : rewindRx p (eobOut p s) = { s with pq := (rewindRx p (eobOut p s)).pq, out := (rewindRx p (eobOut p s)).out } := by
  rw [rewindEob_eq]
  split
  · split <;> rfl
  · rfl
  · rfl
  · rfl

end Sys2Proof.Machine
end

section
/-! The delivery of frames. -/

namespace Sys2Proof.Machine

/-- Settles O46: each command by what it finds of the frame that the port receives, a resend by `resendFrom_eq` and `resendFrom_down`. -/
theorem frameDelivery : Obligations.FrameDelivery := by
  unfold Obligations.FrameDelivery
  refine ⟨headerBroken_iff, fun s p h on up => ?header, fun s p h w pl crc on up rx => ?end_, fun s p on up => ?eob, fun s p link k on up found => ?ack, fun expected d lt pos => ?answer, fun s p link k ns f r on up frames => ?resend⟩
  case header =>
    have serves : ¬(fabOn s = false ∨ (s.fab.ports.get p).st ≠ 4) := by rw [on, up]; decide
    refine ⟨fun other => (if_neg serves).trans (if_pos other), fun same broken => (if_neg serves).trans ((if_neg (not_not.2 same)).trans (if_pos broken)), fun same sound => ?_⟩
    refine (if_neg serves).trans ((if_neg (not_not.2 same)).trans ((if_neg (by rw [sound]; decide)).trans (congrArg _ ?_)))
    by_cases lost : rxWay s h = .drop ∧ s.fab.admitted = true ∧ s.fabReady = true
    · rw [if_pos lost, if_pos (by simpa [and_assoc] using lost)]
      rfl
    · rw [if_neg lost, if_neg (by simpa [and_assoc] using lost)]
      rfl
  case end_ =>
    have serves : ¬(fabOn s = false ∨ (s.fab.ports.get p).st ≠ 4) := by rw [on, up]; decide
    have reads : execFrameEndReceived p crc pl s = if fabOn s = false ∨ (s.fab.ports.get p).st ≠ 4 then .next s
        else if crc = false then .next (send (.sym p (.nak (s.fab.ports.get p).rxLink)) (updPort p (fun x => { x with rx := none, crc := satInc 8 x.crc }) (rewindRx p (eobOut p s))))
        else if h.link ≠ (s.fab.ports.get p).rxLink then .next (send (.sym p (answerTo (s.fab.ports.get p).rxLink h.link)) (updPort p (fun x => { x with rx := none, rxN := wrapInc 16 x.rxN }) s))
        else .next (takeFrame p h w pl (send (.sym p (.ack h.link)) (updPort p (fun x => { x with rx := none, rxN := wrapInc 16 x.rxN, rxLink := wrapInc 16 x.rxLink }) s))) := by
      unfold execFrameEndReceived
      dsimp only
      rw [rx]
    rw [if_neg serves] at reads
    refine ⟨fun bad => ?_, fun good other => ?_, fun good same => ?_⟩
    · rw [if_pos bad, rewindEob_eq, rx] at reads
      cases w with
      | drop =>
        dsimp only at reads
        exact ⟨_, reads, rfl, fun _ => rfl, fun e h => (nomatch h), fun _ _ _ => rfl, fun h => (nomatch h)⟩
      | here =>
        dsimp only at reads
        by_cases link : h.type = 2
        · rw [if_pos link] at reads
          exact ⟨_, reads, rfl, fun _ => rfl, fun e h => (nomatch h), fun _ _ _ => rfl, fun _ other => absurd link other⟩
        · rw [if_neg link] at reads
          exact ⟨_, reads, rfl, fun _ => rfl, fun e h => (nomatch h), fun q other _ => Tab.get_upd_other _ _ _ _ other, fun _ _ => rfl⟩
      | cut e => exact ⟨_, reads, rfl, fun no => absurd rfl (no e), fun e' h => (by cases h; rfl), fun _ _ _ => rfl, fun h => (nomatch h)⟩
      | store e => exact ⟨_, reads, rfl, fun _ => rfl, fun e h => (nomatch h), fun q _ other => Tab.get_upd_other _ _ _ _ (other e rfl), fun h => (nomatch h)⟩
    · exact reads.trans ((if_neg (by rw [good]; decide)).trans (if_pos other))
    · rw [if_neg (by rw [good]; decide), if_neg (not_not.2 same)] at reads
      have acked : OutStep s (send (.sym p (.ack h.link)) (updPort p (fun x => { x with rx := none, rxN := wrapInc 16 x.rxN, rxLink := wrapInc 16 x.rxLink }) s)) := ⟨rfl, .of_eq rfl, rfl⟩
      have src : idAt (send (.sym p (.ack h.link)) (updPort p (fun x => { x with rx := none, rxN := wrapInc 16 x.rxN, rxLink := wrapInc 16 x.rxLink }) s)) h.src = idAt s h.src := rfl
      generalize hu : send (.sym p (.ack h.link)) (updPort p (fun x => { x with rx := none, rxN := wrapInc 16 x.rxN, rxLink := wrapInc 16 x.rxLink }) s) = u at reads acked src
      have took := acked.trans (takeFrame_out p h w pl u)
      refine ⟨_, reads, took.grows, took.same, fun stays => ?_, fun here data own => ?_, fun e cut => ?_, fun e store => ?_⟩
      · refine Eq.trans ?_ hu.symm
        rcases stays with e | ⟨e, link⟩ <;> subst e
        · rfl
        · exact if_pos link
      · subst here
        refine Eq.trans ?_ (congrArg (pushPacket (inQ p) (clsFin h.cls) (frameWords 130 (hdrBytes h ++ pl))) hu.symm)
        have pushed : idAt (pushPacket (inQ p) (clsFin h.cls) (frameWords 130 (hdrBytes h ++ pl)) u) h.src = idAt s h.src :=
          (idAt_of_core (pushPacket_out (inQ_port p) _ _ _).core _).trans src
        unfold takeFrame
        dsimp only
        rw [if_neg data, pushed]
        rcases own with single | lost
        · exact if_neg (by rw [single]; decide)
        · rw [lost]
          exact ite_self _
      · subst cut
        exact congrArg (transmit e h.type (hdrBytes { h with hop := h.hop + 1 } ++ pl)) hu.symm
      · subst store
        exact congrArg (pushPacket (outQ e) (clsFin h.cls) (frameWords 130 (hdrBytes { h with hop := h.hop + 1 } ++ pl))) hu.symm
  case eob =>
    have answer : execEobReceived p s = .next (updPort p (fun x => { x with rx := none }) (rewindRx p (eobOut p s))) := if_pos ⟨on, up⟩
    rw [rewindEob_eq] at answer
    refine ⟨_, answer, ?_, fun h e rx => ?_, fun h rx data => ?_, fun h e rx => ?_⟩
    · rw [← rewindEob_eq, rewindEob_only]
      rfl
    · rw [rx]; exact ⟨rfl, rfl⟩
    · rw [rx]
      dsimp only
      rw [if_neg data]
      rfl
    · rw [rx]; rfl
  case ack =>
    have serves : ¬(fabOn s = false ∨ (s.fab.ports.get p).st ≠ 4) := by rw [on, up]; decide
    have answer : execAckReceived p link s = .next (drainWaiting p (s.fab.ports.get p).waiting.length (updPort p (fun x => { x with replay := x.replay.drop (k + 1) }) s)) := by
      unfold execAckReceived
      dsimp only
      rw [if_neg serves, found]
    refine ⟨fun none => answer.trans ?_, answer⟩
    rw [none]
    rfl
  case answer =>
    unfold answerTo
    refine ⟨fun near => if_pos (by omega), fun far => if_neg (by omega)⟩
  case resend =>
    have serves : ¬(fabOn s = false ∨ (s.fab.ports.get p).st ≠ 4) := by rw [on, up]; decide
    have nak (found : (s.fab.ports.get p).replay.findIdx? (fun g => decide (g.link = link)) = some k) : execNakReceived p link s = .next (resendFrom p k s) := by
      unfold execNakReceived
      dsimp only
      rw [if_neg serves, found]
    have timeout (late : 2000 ≤ ns) : execReplayTimeout p ns s = .next (resendFrom p 0 s) := if_pos ⟨on, up, late⟩
    refine ⟨fun few => ⟨fun found => (nak found).trans (congrArg _ (resendFrom_eq p k s f r frames few)), fun first late => ?_⟩, fun many => ⟨fun found => ?_, fun first late => ?_⟩⟩
    · subst first
      exact (timeout late).trans (congrArg _ (resendFrom_eq p 0 s f r frames few))
    · obtain ⟨down, replay, -, raised, -, -, same⟩ := dropLink_from (p := p) (s := s) (u := s) rfl (fun _ => rfl) rfl
      exact ⟨_, (nak found).trans (congrArg _ (resendFrom_down p k s f r frames many)), down, replay, raised, same⟩
    · subst first
      obtain ⟨down, replay, -, raised, -, -, same⟩ := dropLink_from (p := p) (s := s) (u := s) rfl (fun _ => rfl) rfl
      exact ⟨_, (timeout late).trans (congrArg _ (resendFrom_down p 0 s f r frames many)), down, replay, raised, same⟩

end Sys2Proof.Machine
end

section
/-! SUPPORT. The adverts of the fabric (18_ryfawen_fabric.md, R453 to R457): what a frame sent on a list of ports leaves, and that what was sent stays in the outbox. -/

namespace Sys2Proof.Machine

/-! ## What has been sent stays in the outbox -/

theorem transmit_keepsOut (p : Port) (ty : Nat) (b : List Byte) (s : State) : s.out <:+ (transmit p ty b s).out := by
  unfold transmit
  dsimp only
  split
  · exact List.suffix_rfl
  · split
    · exact List.suffix_rfl
    · exact List.suffix_cons _ _

theorem foldl_keepsOut {α : Type} {f : State → α → State} (step : ∀ s a, s.out <:+ (f s a).out) (l : List α) (s : State) : s.out <:+ (l.foldl f s).out :=
  foldl_inv (P := fun u => s.out <:+ u.out) (fun u a kept => kept.trans (step u a)) l s List.suffix_rfl

theorem floodOwn_keepsOut (s : State) : s.out <:+ (floodOwn s).out := by
  unfold floodOwn
  dsimp only
  have start : (freeBytes { s with fab := { s.fab with advSeq := s.fab.advSeq + 1 } }).2.out = s.out := rfl
  generalize (freeBytes { s with fab := { s.fab with advSeq := s.fab.advSeq + 1 } }).2 = u at start ⊢
  rw [← start]
  exact foldl_keepsOut (fun s p => transmit_keepsOut p 2 _ s) portAll u

theorem retopo_keepsOut (s : State) : (retopo s).out = s.out := by
  have chooses : ∀ u, (chooseRef u).out = u.out := fun u => by
    unfold chooseRef
    split
    · rfl
    · dsimp only
      repeat' split
      all_goals rfl
  have leads : ∀ u, (beRef u).out = u.out := fun u => by
    unfold beRef
    split <;> rfl
  unfold retopo
  split
  · rfl
  · dsimp only
    have gone := foldl_part (f := fun s (a : Nat) => raise 0x6802 a 0 s) (fun s => s.out) (fun s a => raise_out _ _ _ _) ((unreachableAddrs s).filter (fun a => !s.fab.gone.contains a)) { s with fab := { s.fab with gone := unreachableAddrs s } }
    generalize List.foldl (fun s (a : Nat) => raise 0x6802 a 0 s) { s with fab := { s.fab with gone := unreachableAddrs s } } _ = u at gone ⊢
    have far : (if u.maxDiam < diameter u then raise 0x6809 noInst (diameter u) u else u).out = u.out := by split <;> simp
    exact (leads _).trans ((chooses _).trans (far.trans gone))

theorem portChanged_keepsOut (s : State) : s.out <:+ (portChanged s).out := by
  unfold portChanged
  rw [retopo_keepsOut]
  exact floodOwn_keepsOut s

theorem excludePort_keepsOut (p : Port) (s : State) : s.out <:+ (excludePort p s).out := by
  unfold excludePort closePort eobOut
  split
  · exact List.suffix_cons _ _
  · exact List.suffix_rfl

theorem closeList_keepsOut (ids : List Nat) (s : State) : s.out <:+ (closeList ids s).out := by
  unfold closeList
  have start : ({ s with fab := { s.fab with epoch := ids, closed := true } } : State).out = s.out := rfl
  generalize ({ s with fab := { s.fab with epoch := ids, closed := true } } : State) = u at start ⊢
  dsimp only
  rw [← start]
  split
  next a _ =>
    have key (k : Nat) : u.out <:+ (portChanged { u with fab := { u.fab with admitted := true, addr := a, timeRef := k } }).out := portChanged_keepsOut { u with fab := { u.fab with admitted := true, addr := a, timeRef := k } }
    exact key _
  next =>
    refine (floodOwn_keepsOut u).trans (foldl_keepsOut (fun u p => ?_) _ _)
    split
    · exact List.suffix_rfl
    · exact excludePort_keepsOut p u

theorem mergeList_keepsOut (p : Port) (a : Advert) (s : State) : s.out <:+ (mergeList p a s).out := by
  unfold mergeList
  dsimp only
  split
  · split
    · exact List.suffix_rfl
    · have raised : (raise 0x6804 ((addrOf s a.id).getD noInst) 0 s).out = s.out := raise_out _ _ _ _
      generalize raise 0x6804 ((addrOf s a.id).getD noInst) 0 s = u at raised ⊢
      rw [← raised]
      split
      · exact (excludePort_keepsOut p u).trans (portChanged_keepsOut _)
      · exact List.suffix_rfl
  · split
    · split
      · exact closeList_keepsOut _ _
      · have raised : (raise 0x6804 p.val 0 (excludePort p s)).out = (excludePort p s).out := raise_out _ _ _ _
        refine (excludePort_keepsOut p s).trans ?_
        rw [← raised]
        exact portChanged_keepsOut _
    · generalize (s.ident :: a.id :: (if a.closed then [] else a.list)).foldl (fun l x => insertId x l) s.fab.epoch = ids
      split
      · exact List.suffix_rfl
      · exact floodOwn_keepsOut { s with fab := { s.fab with epoch := ids } }

/-! ## One frame out of each port of a list (R443, R451) -/

theorem transmit_other {p q : Port} {ty : Nat} {b : List Byte} {s : State} (other : q ≠ p) : (transmit p ty b s).fab.ports.get q = s.fab.ports.get q := by
  unfold transmit
  dsimp only
  split
  · rfl
  · split <;> exact Tab.get_upd_other _ _ _ _ other

theorem transmit_room {p : Port} {ty : Nat} {b : List Byte} {s : State} (up : (s.fab.ports.get p).st = 4) (room : (s.fab.ports.get p).replay.length < 8) :
    ∃ c, ((transmit p ty b s).fab.ports.get p).replay = (s.fab.ports.get p).replay ++ [{ link := (s.fab.ports.get p).txLink, resends := 0, ty := ty, bytes := c }] ∧ Emit.fab p ty c ∈ (transmit p ty b s).out := by
  refine ⟨withLink (s.fab.ports.get p).txLink b, ?_⟩
  unfold transmit
  dsimp only
  rw [if_neg (not_not.2 up), if_neg (by omega)]
  exact ⟨congrArg FabPort.replay (Tab.get_upd_same _ _ _), List.mem_cons_self⟩

theorem transmit_full {p : Port} {ty : Nat} {b : List Byte} {s : State} (up : (s.fab.ports.get p).st = 4) (full : 8 ≤ (s.fab.ports.get p).replay.length) :
    ((transmit p ty b s).fab.ports.get p).waiting = (s.fab.ports.get p).waiting ++ [(ty, b)] := by
  unfold transmit
  dsimp only
  rw [if_neg (not_not.2 up), if_pos full]
  exact congrArg FabPort.waiting (Tab.get_upd_same _ _ _)

theorem sendsNone {ty : Nat} {f : State → List Byte} {l : List Port} {q : Port} (none : q ∉ l) (s : State) : (l.foldl (fun s p => transmit p ty (f s) s) s).fab.ports.get q = s.fab.ports.get q := by
  induction l generalizing s with
  | nil => rfl
  | cons p l ih =>
    obtain ⟨other, none⟩ := not_or.1 (fun h => none (List.mem_cons.2 h))
    exact (ih none _).trans (transmit_other other)

/-- Each port of a list sends, or keeps waiting, one frame of its own. -/
theorem sendsEach {ty : Nat} {f : State → List Byte} {l : List Port} (once : l.Nodup) {q : Port} (sends : q ∈ l) (s : State) :
    ∃ u b, u.fab.ports.get q = s.fab.ports.get q ∧ (l.foldl (fun s p => transmit p ty (f s) s) s).fab.ports.get q = (transmit q ty b u).fab.ports.get q ∧
      (transmit q ty b u).out <:+ (l.foldl (fun s p => transmit p ty (f s) s) s).out := by
  induction l generalizing s with
  | nil => exact absurd sends List.not_mem_nil
  | cons p l ih =>
    obtain ⟨fresh, once⟩ := List.nodup_cons.1 once
    rw [List.foldl_cons]
    by_cases here : q = p
    · subst here
      refine ⟨s, f s, rfl, ?_, foldl_keepsOut (fun s p => transmit_keepsOut _ _ _ s) _ _⟩
      exact sendsNone fresh _
    · obtain ⟨u, b, same, sent, kept⟩ := ih once ((List.mem_cons.1 sends).resolve_left here) (transmit p ty (f s) s)
      exact ⟨u, b, same.trans (transmit_other here), sent, kept⟩

theorem sendsEach_room {ty : Nat} {f : State → List Byte} {l : List Port} (once : l.Nodup) {q : Port} (sends : q ∈ l) {s : State} (up : (s.fab.ports.get q).st = 4) (room : (s.fab.ports.get q).replay.length < 8) :
    ∃ c, ((l.foldl (fun s p => transmit p ty (f s) s) s).fab.ports.get q).replay = (s.fab.ports.get q).replay ++ [{ link := (s.fab.ports.get q).txLink, resends := 0, ty := ty, bytes := c }] ∧ Emit.fab q ty c ∈ (l.foldl (fun s p => transmit p ty (f s) s) s).out := by
  obtain ⟨u, b, same, sent, kept⟩ := sendsEach (ty := ty) (f := f) once sends s
  rw [← same] at up room
  obtain ⟨c, replay, out⟩ := transmit_room (ty := ty) (b := b) up room
  rw [sent, ← same]
  exact ⟨c, replay, kept.subset out⟩

theorem sendsEach_full {ty : Nat} {f : State → List Byte} {l : List Port} (once : l.Nodup) {q : Port} (sends : q ∈ l) {s : State} (up : (s.fab.ports.get q).st = 4) (full : 8 ≤ (s.fab.ports.get q).replay.length) :
    ∃ c, ((l.foldl (fun s p => transmit p ty (f s) s) s).fab.ports.get q).waiting = (s.fab.ports.get q).waiting ++ [(ty, c)] := by
  obtain ⟨u, b, same, sent, -⟩ := sendsEach (ty := ty) (f := f) once sends s
  rw [← same] at up full
  rw [sent, ← same]
  exact ⟨b, transmit_full up full⟩

theorem floodOwn_room {q : Port} {s : State} (up : (s.fab.ports.get q).st = 4) (room : (s.fab.ports.get q).replay.length < 8) :
    ∃ c, ((floodOwn s).fab.ports.get q).replay = (s.fab.ports.get q).replay ++ [{ link := (s.fab.ports.get q).txLink, resends := 0, ty := 2, bytes := c }] ∧ Emit.fab q 2 c ∈ (floodOwn s).out := by
  unfold floodOwn
  dsimp only
  have start : (freeBytes { s with fab := { s.fab with advSeq := s.fab.advSeq + 1 } }).2.fab.ports = s.fab.ports := rfl
  generalize freeBytes { s with fab := { s.fab with advSeq := s.fab.advSeq + 1 } } = r at start ⊢
  rw [← start] at up room ⊢
  exact sendsEach_room (f := fun s => linkFrame s r.1) (List.nodup_finRange 4) (List.mem_finRange q) up room

theorem floodOwn_full {q : Port} {s : State} (up : (s.fab.ports.get q).st = 4) (full : 8 ≤ (s.fab.ports.get q).replay.length) :
    ∃ c, ((floodOwn s).fab.ports.get q).waiting = (s.fab.ports.get q).waiting ++ [(2, c)] := by
  unfold floodOwn
  dsimp only
  have start : (freeBytes { s with fab := { s.fab with advSeq := s.fab.advSeq + 1 } }).2.fab.ports = s.fab.ports := rfl
  generalize freeBytes { s with fab := { s.fab with advSeq := s.fab.advSeq + 1 } } = r at start ⊢
  rw [← start] at up full ⊢
  exact sendsEach_full (f := fun s => linkFrame s r.1) (List.nodup_finRange 4) (List.mem_finRange q) up full

/-- A new advert goes out of every other port that is UP, whatever its lists then do. -/
theorem learnAdvert_forwards (p : Port) (a : Advert) (newBoot : Bool) {q : Port} {s : State} (other : q ≠ p) (up : (s.fab.ports.get q).st = 4) (room : (s.fab.ports.get q).replay.length < 8) :
    ∃ c, Emit.fab q 2 c ∈ (learnAdvert p a newBoot s).out := by
  have flooded : ∃ c, Emit.fab q 2 c ∈ (learnFlood p (learnBase a newBoot s)).out := by
    unfold learnFlood
    dsimp only
    have start : (freeBytes (learnBase a newBoot s)).2.fab.ports = s.fab.ports := rfl
    generalize freeBytes (learnBase a newBoot s) = r at start ⊢
    rw [← start] at up room
    obtain ⟨c, -, out⟩ := sendsEach_room (ty := 2) (f := fun _ => linkFrame (learnBase a newBoot s) r.1) ((List.nodup_finRange 4).filter (fun q => decide (q ≠ p))) (List.mem_filter.2 ⟨List.mem_finRange q, decide_eq_true other⟩) up room
    exact ⟨c, out⟩
  obtain ⟨c, out⟩ := flooded
  refine ⟨c, ?_⟩
  unfold learnAdvert
  rw [retopo_keepsOut]
  exact (mergeList_keepsOut p a _).subset out

/-! ## A list that closes (R453, R455) -/

/-- A node beyond the 32 lowest stands outside the fabric. -/
theorem closeList_beyond {ids : List Nat} {s : State} (out : (ids.take 32).findIdx? (fun x => decide (x = s.ident)) = none) (q : Port) :
    ((closeList ids s).fab.ports.get q).st = if (s.fab.ports.get q).st = 0 then 0 else 5 := by
  have noAddr : addrOf { s with fab := { s.fab with epoch := ids, closed := true } } ({ s with fab := { s.fab with epoch := ids, closed := true } } : State).ident = none := out
  have start : ({ s with fab := { s.fab with epoch := ids, closed := true } } : State).fab.ports = s.fab.ports := rfl
  unfold closeList
  generalize ({ s with fab := { s.fab with epoch := ids, closed := true } } : State) = u at noAddr start ⊢
  dsimp only
  rw [noAddr]
  have st := (floodOwn_ports u).st q
  obtain ⟨P, O, done, left⟩ := exclude_fold portAll (floodOwn u)
  dsimp only
  rw [done]
  exact (left q).trans (by rw [st, start, if_pos (c := q ∈ portAll) (List.mem_finRange q)])

/-- The list closed, with 0x6803 where nodes are missing. -/
def closedList (enough : Bool) (ids : List Nat) (s : State) : State := if enough then closeList ids s else raise 0x6803 noInst ids.length (closeList ids s)

theorem closedList_fab (enough : Bool) (ids : List Nat) (s : State) : (closedList enough ids s).fab = (closeList ids s).fab ∧ FabStep s (closedList enough ids s) ∧ (enough = false → active 0x6803 noInst (closedList enough ids s) = true) := by
  unfold closedList
  have closed := closeList_fab ids s
  cases enough with
  | true => exact ⟨rfl, closed, fun h => nomatch h⟩
  | false => exact ⟨raise_fab _ _ _ _, closed.raise (fun s => by simp [classOf, codesF0, codesF1]), fun _ => raise_active _ _ _ _⟩

end Sys2Proof.Machine
end

section
/-! Discovery. -/

namespace Sys2Proof.Machine

/-- Settles O47: a flood port by port, an advert by whether it is known, contradicts or is new, the close of the list by the node's rank. -/
theorem discovery : Obligations.Discovery := by
  unfold Obligations.Discovery
  refine ⟨fun s on => ?send, fun s p a u ms off => ⟨if_neg (by rw [off]; decide), if_pos (.inl off), if_pos (.inl off)⟩, fun s p a k on up known boot => ?_, fun s p a on up foreign fresh => ?learn, fun s u ms ids on open_ list due => ?close, fun s u ms idle => ?_⟩
  case send =>
    refine ⟨_, if_pos on, floodOwn_advSeq s, (floodOwn_ports s).st, fun q => floodOwn_room, fun q => floodOwn_full, fun q => floodOwn_idle, core_lists (floodOwn_core s), (floodOwn_fab s).2, (floodOwn_fab s).1⟩
  · have serves : ¬(discovers s = false ∨ (s.fab.ports.get p).st ≠ 4) := by rw [on, up]; decide
    have answer : execLinkStateAdvert p a s = if k.boot = a.boot ∧ k.seq = a.seq ∧ nbrList k ≠ nbrList a then .next (collide a s)
        else if a.id = s.ident ∨ (k.boot = a.boot ∧ a.seq ≤ k.seq) then .next s
        else .next (learnAdvert p a (decide (k.boot ≠ a.boot)) s) := by
      unfold execLinkStateAdvert
      rw [if_neg serves, known]
    refine ⟨fun seq differ => ⟨_, answer.trans (if_pos ⟨boot, seq, differ⟩), collide_spec a s⟩, fun old agree => answer.trans ((if_neg fun h => agree h.2).trans (if_pos ?_))⟩
    exact old.symm.imp_right (fun h => ⟨boot, h⟩)
  case learn =>
    have serves : ¬(discovers s = false ∨ (s.fab.ports.get p).st ≠ 4) := by rw [on, up]; decide
    have answer : ∃ b, execLinkStateAdvert p a s = .next (learnAdvert p a b s) := by
      unfold execLinkStateAdvert
      rw [if_neg serves]
      rcases fresh with unknown | ⟨k, known, newer⟩
      · rw [unknown]
        exact ⟨_, rfl⟩
      · rw [known]
        refine ⟨_, (if_neg fun h => ?_).trans (if_neg fun h => ?_)⟩
        · exact newer.elim (fun n => n h.1) (fun n => by omega)
        · rcases h with own | ⟨boot, seq⟩
          · exact foreign own
          · exact newer.elim (fun n => n boot) (fun n => by omega)
    obtain ⟨b, answer⟩ := answer
    obtain ⟨adverts, grown, adopted, kept⟩ := learnAdvert_spec p a b s
    exact ⟨_, answer, adverts, fun q => learnAdvert_forwards p a b, (learnAdvert_fab p a b s).2, (learnAdvert_fab p a b s).1, grown, adopted, kept⟩
  case close =>
    have serves : ¬(discovers s = false ∨ s.fab.closed = true) := by rw [on, open_]; decide
    have answer : execEpochListClose u ms s = .next (closedList (decide (s.fabNodes ≤ ids.length)) ids s) := by
      unfold execEpochListClose
      rw [if_neg serves]
      dsimp only
      rw [← list, if_pos (by simpa using due)]
      rfl
    obtain ⟨same, ⟨frame, grows⟩, missing⟩ := closedList_fab (decide (s.fabNodes ≤ ids.length)) ids s
    have id := closeList_id ids s
    refine ⟨_, answer, ?_, ?_, fun few => missing (decide_eq_false (by omega)), fun a rank => ?_, fun beyond => ?_, grows, frame⟩
    · rw [same]
      revert id
      split <;> exact fun id => congrArg Prod.fst id
    · rw [same]
      revert id
      split <;> exact fun id => congrArg (fun x => x.2.1) id
    · rw [rank] at id
      rw [same]
      exact ⟨congrArg (fun x => x.2.2.1) id, congrArg (fun x => x.2.2.2.1) id⟩
    · rw [beyond] at id
      rw [same]
      exact ⟨congrArg (fun x => x.2.2.1) id, congrArg (fun x => x.2.2.2.1) id, closeList_beyond beyond⟩
  · show execEpochListClose u ms s = _
    unfold execEpochListClose
    by_cases off : discovers s = false ∨ s.fab.closed = true
    · exact if_pos off
    · rw [if_neg off]
      exact if_neg (by simpa using idle.resolve_left fun h => off (.inr h))

end Sys2Proof.Machine
end

section
/-! SUPPORT. Fabric time (18_ryfawen_fabric.md, R458 to R460): the anchored groups when lock is lost, and a time frame out of each port that leads away from the reference. -/

namespace Sys2Proof.Machine

/-! ## Anchored groups (R151) -/

theorem SameButFaults.withPwm {s u : State} (h : SameButFaults s u) (o : Tab Grp PwmGrp) : SameButFaults { s with pwm := o } { u with pwm := o } := by
  unfold SameButFaults at h ⊢
  rw [h]

/-- A running anchored group goes on from the crystal. -/
def holdAnchor (s : State) (g : Grp) : State :=
  if anchored s g then raise 0x1001 g.val 0 { s with pwm := s.pwm.upd g (fun x => { x with anchHold := true, anchLock := false, stretch := 0 }) } else s

theorem raiseAnchor_same (g : Grp) (s : State) : SameButFaults s (raise 0x1001 g.val 0 s) := raise_low_same _ _ _ _ (fun s => by simp [classOf, codesF0, codesF1]) (by decide)
theorem raiseAnchor_pwm (g : Grp) (s : State) : (raise 0x1001 g.val 0 s).pwm = s.pwm := by
  have same := raiseAnchor_same g s
  rw [same]

theorem holdAnchor_frame (s : State) (g : Grp) : SameButFaults { s with pwm := (holdAnchor s g).pwm } (holdAnchor s g) ∧ Grows s (holdAnchor s g) := by
  have key (x : Tab Grp PwmGrp) : SameButFaults { s with pwm := (raise 0x1001 g.val 0 { s with pwm := x }).pwm } (raise 0x1001 g.val 0 { s with pwm := x }) ∧ Grows s (raise 0x1001 g.val 0 { s with pwm := x }) := by
    rw [raiseAnchor_pwm]
    exact ⟨raiseAnchor_same g { s with pwm := x }, (Grows.of_eq (s := s) (t := { s with pwm := x }) rfl).trans (raise_grows _ _ _ { s with pwm := x })⟩
  unfold holdAnchor
  split
  · exact key _
  · exact ⟨rfl, .of_eq rfl⟩

theorem holdAnchor_pwm (s : State) (g q : Grp) : (holdAnchor s g).pwm.get q = if q = g ∧ anchored s g then { s.pwm.get g with anchHold := true, anchLock := false, stretch := 0 } else s.pwm.get q := by
  unfold holdAnchor
  by_cases anch : anchored s g
  · rw [if_pos anch, raiseAnchor_pwm]
    by_cases here : q = g
    · subst here
      rw [if_pos ⟨rfl, anch⟩]
      exact Tab.get_upd_same _ _ _
    · rw [if_neg fun h => here h.1]
      exact Tab.get_upd_other _ _ _ _ here
  · rw [if_neg anch, if_neg fun h => anch h.2]

theorem holdAnchor_anchored (s : State) (g q : Grp) : anchored (holdAnchor s g) q ↔ anchored s q := by
  have running : ((holdAnchor s g).pwm.get q).running = (s.pwm.get q).running := by
    rw [holdAnchor_pwm]
    split
    next h => rw [h.1]
    next => rfl
  have cat : (holdAnchor s g).cat = s.cat := by
    have := (holdAnchor_frame s g).1
    rw [this]
  have reads (k : Nat) : (holdAnchor s g).pu 0x20 q k = s.pu 0x20 q k := by
    unfold State.pu State.pb State.payload
    rw [cat]
  unfold anchored
  rw [running, reads, reads]

theorem holdAnchor_raises {s : State} {g : Grp} (anch : anchored s g) : active 0x1001 g.val (holdAnchor s g) = true := by
  unfold holdAnchor
  rw [if_pos anch]
  exact raise_active _ _ _ _

/-- Each anchored group of a list holds its last period and phase, with 0x1001. -/
theorem holdAnchors {l : List Grp} (once : l.Nodup) (s : State) :
    (∀ g, (l.foldl holdAnchor s).pwm.get g = if g ∈ l ∧ anchored s g then { s.pwm.get g with anchHold := true, anchLock := false, stretch := 0 } else s.pwm.get g) ∧
      (∀ g ∈ l, anchored s g → active 0x1001 g.val (l.foldl holdAnchor s) = true) ∧ Grows s (l.foldl holdAnchor s) ∧ SameButFaults { s with pwm := (l.foldl holdAnchor s).pwm } (l.foldl holdAnchor s) := by
  induction l generalizing s with
  | nil => exact ⟨fun g => (if_neg fun h => List.not_mem_nil h.1).symm, fun g h => absurd h List.not_mem_nil, .of_eq rfl, rfl⟩
  | cons a l ih =>
    obtain ⟨fresh, once⟩ := List.nodup_cons.1 once
    rw [List.foldl_cons]
    obtain ⟨frame, grows⟩ := holdAnchor_frame s a
    have pwm := holdAnchor_pwm s a
    have anch := holdAnchor_anchored s a
    have raised := holdAnchor_raises (s := s) (g := a)
    generalize holdAnchor s a = u at frame grows pwm anch raised ⊢
    obtain ⟨held, told, grew, same⟩ := ih once u
    refine ⟨fun g => ?_, fun g mem ag => ?_, grows.trans grew, ?_⟩
    · simp only [held, anch, pwm, List.mem_cons]
      by_cases here : g = a
      · subst here
        simp [fresh]
      · simp [here]
    · rcases List.mem_cons.1 mem with rfl | mem
      · exact grew _ _ (raised ag)
      · exact told g mem ((anch g).2 ag)
    · generalize l.foldl holdAnchor u = t at same ⊢
      exact SameButFaults.trans (frame.withPwm t.pwm) same

theorem anchorsHold_eq (s : State) : anchorsHold s = ([0, 1, 2, 3, 4, 5, 6, 7, 8, 9] : List Grp).foldl holdAnchor s := rfl

theorem fab_of_only {s t : State} {f : Fab} (h : t.beyond = { s.beyond with fab := f }) : t.fab = f := congrArg Beyond.fab h

/-- Lock is lost: 0x6805, and every anchored group holds. -/
theorem loseLock_holds {s : State} (lock : s.fab.lock = true) : active 0x6805 noInst (loseLock s) = true ∧ (loseLock s).fab = { s.fab with lock := false, goodRun := 0, badRun := 0 } ∧ (loseLock s).mer = s.mer ∧
    (∀ g, (loseLock s).pwm.get g = if anchored s g then { s.pwm.get g with anchHold := true, anchLock := false, stretch := 0 } else s.pwm.get g) ∧ (∀ g, anchored s g → active 0x1001 g.val (loseLock s) = true) ∧
    Grows s (loseLock s) ∧ SameButFaults { s with fab := (loseLock s).fab, pwm := (loseLock s).pwm } (loseLock s) := by
  obtain ⟨only, told⟩ := loseLock_spec s lock
  have fab : (loseLock s).fab = { s.fab with lock := false, goodRun := 0, badRun := 0 } := fab_of_only only
  have raised : SameButFaults { s with fab := { s.fab with lock := false, goodRun := 0, badRun := 0 } } (raise 0x6805 noInst 0 { s with fab := { s.fab with lock := false, goodRun := 0, badRun := 0 } }) :=
    raise_low_same _ _ _ _ (fun s => by simp [classOf, codesF0, codesF1]) (by decide)
  have grows : Grows s (raise 0x6805 noInst 0 { s with fab := { s.fab with lock := false, goodRun := 0, badRun := 0 } }) :=
    (Grows.of_eq (s := s) (t := { s with fab := { s.fab with lock := false, goodRun := 0, badRun := 0 } }) rfl).trans (raise_grows _ _ _ { s with fab := { s.fab with lock := false, goodRun := 0, badRun := 0 } })
  have eq : loseLock s = anchorsHold (raise 0x6805 noInst 0 { s with fab := { s.fab with lock := false, goodRun := 0, badRun := 0 } }) := if_pos lock
  rw [anchorsHold_eq] at eq
  rw [fab]
  generalize raise 0x6805 noInst 0 { s with fab := { s.fab with lock := false, goodRun := 0, badRun := 0 } } = u at raised grows eq
  have pwm : u.pwm = s.pwm := by rw [raised]
  have cat : u.cat = s.cat := by rw [raised]
  have anch (g : Grp) : anchored u g ↔ anchored s g := by
    unfold anchored State.pu State.pb State.payload
    rw [pwm, cat]
  obtain ⟨held, stopped, grew, same⟩ := holdAnchors (by decide : ([0, 1, 2, 3, 4, 5, 6, 7, 8, 9] : List Grp).Nodup) u
  rw [← eq] at held stopped grew same
  have every (g : Grp) : g ∈ ([0, 1, 2, 3, 4, 5, 6, 7, 8, 9] : List Grp) := by revert g; decide
  refine ⟨told, rfl, ?_, fun g => ?_, fun g ag => stopped g (every g) ((anch g).2 ag), grows.trans grew, ?_⟩
  · rw [same]
    show u.mer = s.mer
    rw [raised]
  · have := held g
    simp only [every, true_and, anch, pwm] at this
    exact this
  · exact SameButFaults.trans (raised.withPwm (loseLock s).pwm) same

/-! ## Time frames (R460) -/

/-- Only ports, stream counters and the outbox differ. -/
def TimeSent (s t : State) : Prop := t = { s with fab := { s.fab with ports := t.fab.ports, txCnt := t.fab.txCnt }, out := t.out }

theorem TimeSent.refl (s : State) : TimeSent s s := rfl
theorem TimeSent.trans {s t u : State} (a : TimeSent s t) (b : TimeSent t u) : TimeSent s u := by
  unfold TimeSent at a b ⊢
  rw [b, a]

/-- The header of the time frame to the neighbour of a port. -/
def timeHeader (p : Port) (s : State) : FabHeader :=
  { version := 1, type := 3, cls := 7, e2e := true, bcast := false, rsv1 := 0, dst := (s.fab.ports.get p).nbrAddr, dep := 1, src := s.fab.addr, sep := 1, len := 16, hop := 0, rsv9 := 0, seq := (countOf (1, (s.fab.ports.get p).nbrAddr) s.fab.txCnt + 1) % 2 ^ 16, link := 0, rsv14 := 0 }

/-- The bytes that the time frame sends with a link sequence. -/
def timeBytes (h : FabHeader) (ns link : Nat) : List Byte :=
  withLink link (hdrBytes h ++ (natLe 8 ns ++ natLe 2 h.seq ++ natLe 2 (dataId h)) ++ natLe 4 (crc32c (e2eCover h (natLe 8 ns ++ natLe 2 h.seq ++ natLe 2 (dataId h)))))

theorem sendTime_sent (p : Port) (s : State) : TimeSent s (sendTime p s) := by
  have key (b : List Byte) (n : List ((Nat × Nat) × Nat)) : TimeSent s (transmit p 3 b { s with fab := { s.fab with txCnt := n } }) := by
    unfold transmit
    dsimp only
    split
    · rfl
    · split <;> rfl
  exact key _ _

theorem sendTime_other {p q : Port} {s : State} (other : q ≠ p) : (sendTime p s).fab.ports.get q = s.fab.ports.get q := transmit_other other

theorem sendTime_keepsOut (p : Port) (s : State) : s.out <:+ (sendTime p s).out := by
  have key (b : List Byte) (n : List ((Nat × Nat) × Nat)) : s.out <:+ (transmit p 3 b { s with fab := { s.fab with txCnt := n } }).out := transmit_keepsOut p 3 b { s with fab := { s.fab with txCnt := n } }
  exact key _ _

theorem sendTime_room {p : Port} {s : State} (up : (s.fab.ports.get p).st = 4) (room : (s.fab.ports.get p).replay.length < 8) :
    ((sendTime p s).fab.ports.get p).replay = (s.fab.ports.get p).replay ++ [{ link := (s.fab.ports.get p).txLink, resends := 0, ty := 3, bytes := timeBytes (timeHeader p s) s.timeNs (s.fab.ports.get p).txLink }] ∧
      Emit.fab p 3 (timeBytes (timeHeader p s) s.timeNs (s.fab.ports.get p).txLink) ∈ (sendTime p s).out := by
  have key (b : List Byte) (n : List ((Nat × Nat) × Nat)) : ((transmit p 3 b { s with fab := { s.fab with txCnt := n } }).fab.ports.get p).replay = (s.fab.ports.get p).replay ++ [{ link := (s.fab.ports.get p).txLink, resends := 0, ty := 3, bytes := withLink (s.fab.ports.get p).txLink b }] ∧
      Emit.fab p 3 (withLink (s.fab.ports.get p).txLink b) ∈ (transmit p 3 b { s with fab := { s.fab with txCnt := n } }).out := by
    unfold transmit
    dsimp only
    rw [if_neg (not_not.2 up), if_neg (by omega)]
    exact ⟨congrArg FabPort.replay (Tab.get_upd_same _ _ _), List.mem_cons_self⟩
  exact key _ _

/-- Each port of a list sends one time frame of its own, and no other port sends. -/
theorem timesSent {l : List Port} (once : l.Nodup) (s : State) : TimeSent s (l.foldl (fun s p => sendTime p s) s) ∧ (∀ q, q ∉ l → (l.foldl (fun s p => sendTime p s) s).fab.ports.get q = s.fab.ports.get q) ∧
    ∀ q, q ∈ l → ∃ u, TimeSent s u ∧ u.fab.ports.get q = s.fab.ports.get q ∧ (l.foldl (fun s p => sendTime p s) s).fab.ports.get q = (sendTime q u).fab.ports.get q ∧ (sendTime q u).out <:+ (l.foldl (fun s p => sendTime p s) s).out := by
  induction l generalizing s with
  | nil => exact ⟨.refl s, fun _ _ => rfl, fun q h => absurd h List.not_mem_nil⟩
  | cons p l ih =>
    obtain ⟨fresh, once⟩ := List.nodup_cons.1 once
    rw [List.foldl_cons]
    obtain ⟨sent, others, each⟩ := ih once (sendTime p s)
    refine ⟨(sendTime_sent p s).trans sent, fun q none => ?_, fun q mem => ?_⟩
    · obtain ⟨other, none⟩ := not_or.1 (fun h => none (List.mem_cons.2 h))
      exact (others q none).trans (sendTime_other other)
    · by_cases here : q = p
      · subst here
        exact ⟨s, .refl s, rfl, others q fresh, foldl_keepsOut (fun s p => sendTime_keepsOut p s) l _⟩
      · obtain ⟨u, before, same, now, kept⟩ := each q ((List.mem_cons.1 mem).resolve_left here)
        exact ⟨u, (sendTime_sent p s).trans before, same.trans (sendTime_other here), now, kept⟩

theorem treePorts_nodup (s : State) (i : Nat) : (treePorts s i).Nodup := (List.nodup_finRange 4).filter _
theorem treePorts_up {s : State} {i : Nat} {p : Port} (mem : p ∈ treePorts s i) : (s.fab.ports.get p).st = 4 := by
  have := (List.mem_filter.1 mem).2
  simp only [Bool.and_eq_true, decide_eq_true_eq] at this
  exact this.1.1.1

end Sys2Proof.Machine
end

section
/-! Fabric time. -/

namespace Sys2Proof.Machine

/-- Settles O48: a measured delay and a time frame by their branches, the loss of lock by `loseLock_holds`, the frames sent on port by port. -/
theorem fabricTime : Obligations.FabricTime := by
  unfold Obligations.FabricTime
  refine ⟨fun s p t1 t2 t3 t4 on up => ?delay, fun s p carried on up parent admitted follows => ?frame, fun s us on follows late => ?timeout, fun s i on admitted set at_ => ?send, fun s off => ?off⟩
  case delay =>
    have serves : ¬(fabOn s = false ∨ (s.fab.ports.get p).st ≠ 4) := by rw [on, up]; decide
    refine ⟨fun some far => (if_neg serves).trans (if_pos ⟨some, far⟩), fun near => (if_neg serves).trans (if_neg fun h => ?_)⟩
    exact near.elim h.1 (not_le.2 h.2)
  case frame =>
    have serves : ¬(fabServes s = false ∨ (s.fab.ports.get p).st ≠ 4 ∨ (s.fab.ports.get p).parent = false ∨ s.fab.admitted = false ∨ s.fab.timeRef = s.fab.addr) := by
      rw [on, up, parent, admitted]
      simpa using follows
    intro truth e g b u
    have answer : execTimeFrame p carried s = .next (if 3 ≤ b then loseLock u else u) := by
      unfold execTimeFrame
      dsimp only
      rw [if_neg serves]
      simp only [decide_eq_true_eq]
      rfl
    refine ⟨fun few => answer.trans (congrArg _ ?_), fun many locked => ?_⟩
    · split
      next many => exact if_neg (by rw [few.resolve_left (by omega)]; decide)
      next => rfl
    · rw [if_pos many] at answer
      obtain ⟨told, fab, mer, held, stopped, grows, same⟩ := loseLock_holds locked
      refine ⟨_, answer, told, fab, mer, held, stopped, (Grows.of_eq rfl).trans grows, ?_⟩
      rw [mer]
      exact same
  case timeout =>
    have answer : execTimeFrameTimeout us s = .next (loseLock s) := if_pos ⟨on, late, follows⟩
    refine ⟨fun unlocked => answer.trans (congrArg _ (if_neg (by rw [unlocked]; decide))), fun locked => ?_⟩
    obtain ⟨told, fab, -, rest⟩ := loseLock_holds locked
    exact ⟨_, answer, told, fab, rest⟩
  case send =>
    have answer : execTimeFrameSend s = .next ((treePorts s i).foldl (fun s p => sendTime p s) s) := by
      unfold execTimeFrameSend
      rw [if_pos ⟨on, admitted, set⟩, at_]
    obtain ⟨sent, others, each⟩ := timesSent (treePorts_nodup s i) s
    refine ⟨_, answer, fun p mem room => ?_, others, sent⟩
    obtain ⟨u, before, same, now, kept⟩ := each p mem
    have up := treePorts_up mem
    rw [← same] at up room
    obtain ⟨replay, out⟩ := sendTime_room up room
    have addr : u.fab.addr = s.fab.addr := by rw [before]
    have time : u.timeNs = s.timeNs := by rw [before]; rfl
    rw [now, ← same, ← time]
    exact ⟨timeHeader p u, _, _, rfl, rfl, rfl, addr, rfl, rfl, rfl, rfl, rfl, replay, kept.subset out⟩
  case off =>
    show execTimeFrameSend s = _
    unfold execTimeFrameSend
    by_cases serves : fabServes s = true ∧ s.fab.admitted = true ∧ s.fab.timeSet = true
    · obtain ⟨on, admitted, set⟩ := serves
      rw [if_pos ⟨on, admitted, set⟩, show idAt s s.fab.timeRef = none by simpa [on, admitted, set] using off]
    · exact if_neg serves

end Sys2Proof.Machine
end

section
/-! SUPPORT. End-to-end checks (18_ryfawen_fabric.md, R446 to R449): what a counter earns, and what a fault of the fabric leaves. -/

namespace Sys2Proof.Machine

/-! ## Counters (R448, R504) -/

theorem judgeCounter_spec (started resync : Bool) (good : Option Nat) (last cnt : Nat) :
    let d := (cnt + 2 ^ 16 - last % 2 ^ 16) % 2 ^ 16;
    (started = false → judgeCounter started resync good last cnt = .accept 0) ∧
      (started = true → resync = false → d = 0 → judgeCounter started resync good last cnt = .again) ∧
      (started = true → resync = false → 1 ≤ d → d ≤ 8 → judgeCounter started resync good last cnt = .accept (d - 1)) ∧
      (started = true → resync = false → 8 < d → judgeCounter started resync good last cnt = .reject) ∧
      (started = true → resync = true → (∃ g, good = some g ∧ cnt % 2 ^ 16 = (g + 1) % 2 ^ 16) → judgeCounter started resync good last cnt = .accept 0) ∧
      (started = true → resync = true → (∀ g, good = some g → cnt % 2 ^ 16 ≠ (g + 1) % 2 ^ 16) → judgeCounter started resync good last cnt = .hold) := by
  intro d
  refine ⟨fun new => if_pos new, fun run sync same => ?_, fun run sync one near => ?_, fun run sync far => ?_, fun run sync next => ?_, fun run sync other => ?_⟩
  all_goals
    subst run sync
    refine (if_neg Bool.noConfusion).trans ?_
  · exact (if_neg Bool.false_ne_true).trans (if_pos same)
  · exact (if_neg Bool.false_ne_true).trans ((if_neg (by omega)).trans (if_pos near))
  · exact (if_neg Bool.false_ne_true).trans ((if_neg (by omega)).trans (if_neg (by omega)))
  · obtain ⟨g, kept, next⟩ := next
    subst kept
    exact (if_pos rfl).trans (if_pos next)
  · refine (if_pos rfl).trans ?_
    cases good with
    | none => rfl
    | some g => exact if_neg (other g rfl)

/-! ## A fault beside a change of the fabric alone -/

theorem raise_besideFab {c i m : Nat} {f : Fab} {s : State} (low : ∀ s, classOf s c i < 3) (pair : ¬(0x2803 ≤ c ∧ c ≤ 0x280C) := by decide) (stop : c ≠ 0x680A := by decide) (queue : c ≠ 0x7002 := by decide) :
    active c i (raise c i m { s with fab := f }) = true ∧ (raise c i m { s with fab := f }).fab = f ∧ Grows s (raise c i m { s with fab := f }) ∧ SameButFaults { s with fab := (raise c i m { s with fab := f }).fab } (raise c i m { s with fab := f }) := by
  rw [raise_fab c i m _ stop queue]
  exact ⟨raise_active _ _ _ _, rfl, (Grows.of_eq (s := s) (t := { s with fab := f }) rfl).trans (raise_grows c i m { s with fab := f }), raise_low_same c i m { s with fab := f } low pair⟩

theorem rejectCtl_spec (x : FabStream) (s : State) : active 0x6806 x.src (rejectCtl x s) = true ∧ (rejectCtl x s).fab = { s.fab with streams := putStream x s.fab.streams, e2e := satInc 8 s.fab.e2e } ∧ Grows s (rejectCtl x s) ∧
    SameButFaults { s with fab := (rejectCtl x s).fab } (rejectCtl x s) :=
  raise_besideFab (c := 0x6806) (i := x.src) (m := 0) (s := s) (fun s => by simp [classOf, codesF0])

end Sys2Proof.Machine
end

section
/-! End-to-end checks. -/

namespace Sys2Proof.Machine

/-- Settles O49: a control frame by its trailer, then by what `judgeCounter_spec` makes of its counter. -/
theorem endToEnd : Obligations.EndToEnd := by
  unfold Obligations.EndToEnd
  refine ⟨fun s h pl c on e2e ready short => ?short, fun s h pl c o on e2e ready long found => ?ctl, fun s h on data ready => ?data⟩
  case short =>
    have serves : ¬(fabServes s = false ∨ h.e2e = false ∨ (h.type ≠ 3 ∧ s.fabReady = false)) := by
      rw [on, e2e]
      rcases ready with time | ready
      · simp [time]
      · simp [ready]
    exact ⟨_, (if_neg serves).trans (if_pos short), raise_besideFab (fun s => by simp [classOf, codesF0])⟩
  case ctl =>
    have serves : ¬(fabServes s = false ∨ h.e2e = false ∨ (h.type ≠ 3 ∧ s.fabReady = false)) := by
      rw [on, e2e]
      rcases ready with time | ready
      · simp [time]
      · simp [ready]
    intro n cnt ok x d took given rejected
    have src : x.src = h.src := by
      cases o with
      | none => rfl
      | some y =>
        have := List.find?_some found
        simp only [Bool.and_eq_true, decide_eq_true_eq] at this
        exact this.1.1.1
    have low : ∀ s, classOf s 0x6806 h.src < 3 := fun s => by simp [classOf, codesF0]
    have answer : execControlFrameReceived h pl c s = if ¬ok then .next (if o.isSome then rejectCtl { x with resync := true, lastGood := none } s else raise 0x6806 h.src 0 { s with fab := { s.fab with e2e := satInc 8 s.fab.e2e } })
        else match judgeCounter o.isSome x.resync x.lastGood x.last cnt with
          | .accept k => .next (if (h.dep = 2 ∨ h.dep = 3 ∨ h.dep = 5) ∧ partnerAddr s = some h.src then pairFrame c (took k) else took k)
          | .again => .next s
          | .hold => .next { s with fab := { s.fab with streams := putStream { x with lastGood := some cnt } s.fab.streams } }
          | .reject => .next (rejectCtl { x with resync := true, lastGood := some cnt } s) := by
      unfold execControlFrameReceived
      rw [if_neg serves, if_neg (by omega)]
      dsimp only
      rw [found]
      by_cases good : ok
      · rw [if_neg (not_not.2 good), if_neg fun h => h.elim (fun n => n good.1) fun n => n good.2]
        rfl
      · rw [if_pos good, if_pos (not_and_or.1 good)]
    have refuse (g : Option Nat) (run : execControlFrameReceived h pl c s = .next (rejectCtl { x with resync := true, lastGood := g } s)) : rejected { s.fab with streams := putStream { x with resync := true, lastGood := g } s.fab.streams, e2e := satInc 8 s.fab.e2e } := by
      obtain ⟨told, rest⟩ := rejectCtl_spec { x with resync := true, lastGood := g } s
      exact ⟨_, run, (congrArg (fun i => active 0x6806 i (rejectCtl { x with resync := true, lastGood := g } s)) src).symm.trans told, rest⟩
    obtain ⟨first, again, ahead, far, second, held⟩ := judgeCounter_spec o.isSome x.resync x.lastGood x.last cnt
    refine ⟨fun bad none => ?_, fun bad some => ?_, fun good none => ?_, fun good some sync same => ?_, fun good some sync one near => ?_, fun good some sync off => ?_, fun good some sync next => ?_, fun good some sync other => ?_⟩
    · rw [if_pos bad, none] at answer
      exact ⟨_, answer, raise_besideFab low⟩
    · rw [if_pos bad, if_pos some] at answer
      exact refuse _ answer
    · rw [if_neg (not_not.2 good), first (by rw [none]; rfl)] at answer
      exact answer
    · rw [if_neg (not_not.2 good), again some sync same] at answer
      exact answer
    · rw [if_neg (not_not.2 good), ahead some sync one near] at answer
      exact answer
    · rw [if_neg (not_not.2 good), far some sync off] at answer
      exact refuse _ answer
    · rw [if_neg (not_not.2 good), second some sync next] at answer
      exact answer
    · rw [if_neg (not_not.2 good), held some sync other] at answer
      exact answer
  case data =>
    have serves : ¬(fabServes s = false ∨ h.type ≠ 0 ∨ s.fabReady = false) := by rw [on, data, ready]; decide
    exact if_neg serves

end Sys2Proof.Machine
end

section
/-! SUPPORT. Management over the fabric (18_ryfawen_fabric.md, R465, R466): what a request earns before its arguments are looked at. -/

namespace Sys2Proof.Machine

/-! ## Requests (R465) -/

variable {s : State} {r : FabReq} {op b : Nat} {bit : Option Nat} {k : State → State}

theorem serve_off (off : mgmtOn s = false) : serve r op bit k s = s := if_pos off

theorem serve_short (on : mgmtOn s = true) (short : r.short = true) : serve r op bit k s = reply r op 8 [] s :=
  (if_neg (by rw [on]; decide)).trans (if_pos short)

theorem serve_disabled (on : mgmtOn s = true) (whole : r.short = false) (dis : s.svcEn b = false) : serve r op (some b) k s = reply r op 7 [] s :=
  (if_neg (by rw [on]; decide)).trans ((if_neg (by rw [whole]; decide)).trans (if_neg (by rw [dis]; decide)))

theorem serve_enabled (on : mgmtOn s = true) (whole : r.short = false) (en : s.svcEn b = true) : serve r op (some b) k s = k s :=
  (if_neg (by rw [on]; decide)).trans ((if_neg (by rw [whole]; decide)).trans (if_pos en))

theorem serve_always (on : mgmtOn s = true) (whole : r.short = false) : serve r op none k s = k s :=
  (if_neg (by rw [on]; decide)).trans (if_neg (by rw [whole]; decide))

/-! ## Staging over the fabric (R113 to R117) -/

theorem openStage_closed {src : StageSrc} {region first size : Nat} (closed : stageMode s = false ∨ 3 ≤ s.life ∨ s.cat.stage.region ≠ 0) : openStage src region first size s = (1, s) :=
  if_pos (closed.imp id .inr)

theorem openStage_range {src : StageSrc} {region first size : Nat} (mode : stageMode s = true) (other : stageOther s src = false) (life : s.life < 3) (closed : s.cat.stage.region = 0)
    (bad : ¬(region = 1 ∨ region = 2) ∨ size = 0 ∨ size % 4096 ≠ 0 ∨ regionBlocks region < first + size / 4096) : openStage src region first size s = (2, s) := by
  refine (if_neg ?_).trans (if_pos bad)
  rw [mode, other]
  rintro (h | h | h | h)
  · cases h
  · cases h
  · omega
  · exact h closed

end Sys2Proof.Machine
end

section
/-! Management operations. -/

namespace Sys2Proof.Machine

/-- Settles O50: `serve` by its rules, then each operation by the branch of its own. -/
theorem management : Obligations.Management := by
  unfold Obligations.Management
  refine ⟨fun s r op st code n m k l fw ok fs => ?first, fun s r a n v on whole en cat => ?words, fun s r region first size id fw ok fs on whole en => ?stage, fun s node block part ms data => ?part, fun s r start count nonce on whole => ?long⟩
  case first =>
    have replied := reply_out r op st l s
    refine ⟨⟨replied.grows, replied.same⟩, fun off => ?_, fun on short => ?_, fun on whole => ⟨fun dis => ?_, fun dis => ?_⟩, fun on low fresh => ?_⟩
    · have idle (op : Nat) (bit : Option Nat) (k : State → State) : Host.Outcome.next (serve r op bit k s) = (.next s : Host.Outcome State Fault Refusal) := congrArg Host.Outcome.next (serve_off off)
      exact ⟨idle _ _ _, idle _ _ _, idle _ _ _, idle _ _ _, idle _ _ _, idle _ _ _, idle _ _ _, if_pos (.inl off), if_pos (.inl off)⟩
    · have refused (op : Nat) (bit : Option Nat) (k : State → State) : Host.Outcome.next (serve r op bit k s) = (.next (reply r op 8 [] s) : Host.Outcome State Fault Refusal) := congrArg Host.Outcome.next (serve_short on short)
      exact ⟨refused _ _ _, refused _ _ _, refused _ _ _, refused _ _ _, refused _ _ _, refused _ _ _, refused _ _ _⟩
    · exact ⟨congrArg Host.Outcome.next (serve_disabled on whole dis), congrArg Host.Outcome.next (serve_disabled on whole dis)⟩
    · exact ⟨congrArg Host.Outcome.next (serve_disabled on whole dis), congrArg Host.Outcome.next (serve_disabled on whole dis), congrArg Host.Outcome.next (serve_disabled on whole dis)⟩
    · refine if_neg ?_
      rw [on, fresh]
      simp only [Bool.true_eq_false, Bool.false_eq_true, false_or, or_false]
      omega
  case words =>
    have there : ¬s.cat.recovery = true := by rw [cat]; decide
    have read (n : Nat) : execRead r a n s = .next (if n < 1 ∨ 64 < n then reply r 1 8 [] s
        else if a % 4 ≠ 0 ∨ (List.range n).all (fun k => readable (a + 4 * k)) = false then reply r 1 2 [] s
        else reply r 1 0 (readWords n a s).1 (readWords n a s).2) := congrArg Host.Outcome.next ((serve_enabled on whole en).trans (if_neg there))
    have write : execWrite r a v s = .next (if a % 4 ≠ 0 ∨ readable a = false then reply r 2 2 [] s
        else if a = lvcCmdAddr ∧ s.fn 5 = true then reply r 2 0 [] (lvcWrite (v % 2 ^ 32) s)
        else reply r 2 3 [] s) := congrArg Host.Outcome.next ((serve_enabled on whole en).trans (if_neg there))
    have mapped (aligned : a % 4 = 0) (reads : readable a = true) : ¬(a % 4 ≠ 0 ∨ readable a = false) := by rw [reads]; simpa using aligned
    refine ⟨fun off => (read n).trans (congrArg Host.Outcome.next (if_pos off)), fun some few bad => (read n).trans (congrArg Host.Outcome.next ((if_neg (by omega)).trans (if_pos bad))), fun some few aligned reads => ?_, fun aligned reads => ?_,
      fun bad => write.trans (congrArg Host.Outcome.next (if_pos bad)), fun aligned reads other => write.trans (congrArg Host.Outcome.next ((if_neg (mapped aligned reads)).trans (if_neg other))), fun cmd lvc => ?_⟩
    · refine (read n).trans (congrArg Host.Outcome.next ((if_neg (by omega)).trans (if_neg ?_)))
      rw [reads]
      simpa using aligned
    · refine (read 1).trans (congrArg Host.Outcome.next ((if_neg (by omega)).trans ((if_neg ?_).trans ?_)))
      · simpa [List.range_succ, reads] using aligned
      · exact congrArg (fun w => reply r 1 0 w (vitClear s a)) (List.append_nil _)
    · subst cmd
      exact write.trans (congrArg Host.Outcome.next ((if_neg (mapped (by decide) (by decide))).trans (if_pos ⟨rfl, lvc⟩)))
  case stage =>
    have opens : execStageOpen r region first size s = .next (if stageOther s (.fabric r.node) then reply r 0x10 5 [] s
        else if (openStage (.fabric r.node) region first size s).1 = 0 then reply r 0x10 0 [] (openStage (.fabric r.node) region first size s).2
        else reply r 0x10 (if (openStage (.fabric r.node) region first size s).1 = 1 then 4 else 8) [] s) := congrArg Host.Outcome.next (serve_enabled on whole en)
    have exits : execStageExit r s = .next (if stageOther s (.fabric r.node) then reply r 0x11 5 [] s
        else if s.cat.stage.region = 0 ∨ s.cat.stage.block.isSome = true then reply r 0x11 4 [] s
        else reply r 0x11 0 (natLe 4 (vitSec s 0x118 % 65536)) { s with cat := { s.cat with stage := { s.cat.stage with region := 0 } } }) := congrArg Host.Outcome.next (serve_enabled on whole en)
    have runs : execRoutine r id fw ok fs s = .next (if id < 0xF100 ∨ 0xF103 < id then reply r 0x12 8 [] s
        else if stageOther s (.fabric r.node) then reply r 0x12 5 [] s
        else if stageRoutineOk (.fabric r.node) id s = false then reply r 0x12 4 [] s
        else if id = 0xF100 then reply r 0x12 0 (natLe 4 (runCheck fw ok fs s).1) (runCheck fw ok fs s).2
        else reply r 0x12 0 (natLe 4 0) (if id = 0xF101 then runCommit s else if id = 0xF102 then runConfirm s else runReject s)) := congrArg Host.Outcome.next (serve_enabled on whole en)
    refine ⟨fun other => ⟨opens.trans (congrArg Host.Outcome.next (if_pos other)), exits.trans (congrArg Host.Outcome.next (if_pos other)), fun low high => runs.trans (congrArg Host.Outcome.next ((if_neg (by omega)).trans (if_pos other)))⟩,
      fun own mode life closed => ?_, fun own bad => ?_, fun own open_ still => ?_, fun off => runs.trans (congrArg Host.Outcome.next (if_pos off)), fun own low high bad => ?_, fun own fits => ?_⟩
    · rw [if_neg (by rw [own]; decide)] at opens exits
      refine ⟨fun known some whole fits => ?_, fun bad => ?_, exits.trans (congrArg Host.Outcome.next (if_pos (.inl closed)))⟩
      · rw [openStage_accepts mode own life closed known (Nat.pos_of_ne_zero some) whole fits] at opens
        exact opens
      · rw [openStage_range mode own life closed bad] at opens
        exact opens
    · rw [if_neg (by rw [own]; decide), openStage_closed bad] at opens
      exact opens
    · rw [if_neg (by rw [own]; decide), if_neg (by rw [still]; simpa using open_)] at exits
      exact exits
    · exact runs.trans (congrArg Host.Outcome.next ((if_neg (by omega)).trans ((if_neg (by rw [own]; decide)).trans (if_pos bad))))
    · have runs (low : 0xF100 ≤ id) (high : id ≤ 0xF103) := runs.trans (congrArg Host.Outcome.next ((if_neg (by omega)).trans ((if_neg (by rw [own]; decide)).trans (if_neg (by rw [fits]; decide)))))
      refine ⟨fun e => ?_, fun e => ?_, fun e => ?_, fun e => ?_⟩
      all_goals
        subst e
        exact runs (by decide) (by decide)
  case part =>
    refine ⟨fun late => if_pos late, fun on bad => if_pos (.inr bad), fun on own open_ low high eight whole => ?_⟩
    have takes : execImageBlockPart node block part data s = if (addPart node block part data s.fab.parts).parts.length < 8 then .next { s with fab := { s.fab with parts := some (addPart node block part data s.fab.parts) } }
        else if s.cat.stage.block.isSome then .next { s with fab := { s.fab with parts := none } }
        else .next (if (takeBlock block (joinParts (addPart node block part data s.fab.parts)) { s with fab := { s.fab with parts := none } }).1 = 0 then (takeBlock block (joinParts (addPart node block part data s.fab.parts)) { s with fab := { s.fab with parts := none } }).2 else blockDone node block 6 { s with fab := { s.fab with parts := none } }) := by
      refine if_neg ?_
      rw [on, own, whole]
      simp only [Bool.true_eq_false, ne_eq, not_true_eq_false, false_or, or_false]
      omega
    exact ⟨fun more => takes.trans (if_pos more), fun full free => takes.trans ((if_neg full).trans (if_neg (by rw [free]; decide)))⟩
  case long =>
    have reads : execLogRead r start count s = .next (if count < 1 ∨ 4096 < count then reply r 0x30 8 [] s
        else sendBulk 1 r.node 4 4 (logFrames count (logRange s start count)) (reply r 0x30 0 [] s)) := congrArg Host.Outcome.next (serve_always on whole)
    have attests : execAttest r nonce s = .next (if nonce.length ≠ 32 then reply r 0x31 8 [] s
        else if s.sec.idSlot = none then reply r 0x31 4 [] s
        else startReport (.fabric r.node r.tag r.ep) nonce s) := congrArg Host.Outcome.next (serve_always on whole)
    have sent := (reply_out r 0x30 0 [] s).trans (sendBulk_out 1 r.node 4 4 (logFrames count (logRange s start count)) _)
    refine ⟨fun off => reads.trans (congrArg Host.Outcome.next (if_pos off)), fun some few => ⟨_, reads.trans (congrArg Host.Outcome.next (if_neg (by omega))), rfl, sent.grows, sent.same⟩, fun odd => attests.trans (congrArg Host.Outcome.next (if_pos odd)),
      fun even unnamed => attests.trans (congrArg Host.Outcome.next ((if_neg (not_not.2 even)).trans (if_pos unnamed))), fun even named => ⟨attests.trans (congrArg Host.Outcome.next ((if_neg (not_not.2 even)).trans (if_neg named))), rfl, rfl⟩⟩

end Sys2Proof.Machine
end

section
/-! SUPPORT. Global operations of the fabric (18_ryfawen_fabric.md, R462 to R464): a frame of this node after a change of the fabric's own fields. -/

namespace Sys2Proof.Machine

/-! ## Sends after a change of the fabric alone -/

theorem OutStep.after {s u t : State} (step : OutStep u t) (only : u = { s with fab := u.fab }) : Grows s t ∧ SameButFaults { s with fab := t.fab, pq := t.pq, pqSeen := t.pqSeen, out := t.out, freeIx := t.freeIx } t := by
  have same := step.same
  have grows := step.grows
  have start : u.faults = s.faults := by rw [only]
  refine ⟨(Grows.of_eq start).trans grows, ?_⟩
  generalize t.fab = f at same ⊢
  generalize t.pq = q at same ⊢
  generalize t.pqSeen = n at same ⊢
  generalize t.out = o at same ⊢
  generalize t.freeIx = i at same ⊢
  rw [only] at same
  exact same

theorem OutStep.gop {s t : State} (step : OutStep s t) : fabGop t.fab = fabGop s.fab := congrArg Prod.snd step.core

theorem mgmtReply_out (node ep sep op tag st : Nat) (l : List Byte) (s : State) : OutStep s (mgmtReply node ep sep op tag st l s) := sendCtl_out _ _ _ _ _ _ _

/-! ## Scheduled operations (R462, R463) -/

/-- A request whose instant has passed only answers and counts. -/
theorem missed_leaves (r : FabReq) (kind op : Nat) (s : State) : active 0x6808 noInst (missed r kind op s) = true ∧ (missed r kind op s).fab.gopKind = kind ∧ (missed r kind op s).fab.gopState = 3 ∧
    (missed r kind op s).fab.resetAt = s.fab.resetAt ∧ (missed r kind op s).fab.snapshot = s.fab.snapshot ∧ (missed r kind op s).fab.missed = satInc 8 s.fab.missed ∧ Grows s (missed r kind op s) ∧
    SameButFaults { s with fab := (missed r kind op s).fab, pq := (missed r kind op s).pq, pqSeen := (missed r kind op s).pqSeen, out := (missed r kind op s).out, freeIx := (missed r kind op s).freeIx } (missed r kind op s) := by
  obtain ⟨told, grows, gop⟩ := missed_spec r kind op s
  have step (x : Fab) : OutStep { s with fab := x } (mgmtReply r.node r.ep (if op = 0x22 then 6 else 0) op r.tag 9 [] (raise 0x6808 noInst 0 { s with fab := x })) :=
    (OutStep.low (s := { s with fab := x }) 0x6808 noInst 0 (fun s => by simp [classOf, codesF0, codesF1])).trans (mgmtReply_out _ _ _ _ _ _ _ _)
  have same := ((step { s.fab with missed := satInc 8 s.fab.missed, gopKind := kind, gopState := 3 }).after rfl).2
  unfold fabGop at gop
  simp only [Prod.mk.injEq] at gop
  obtain ⟨kind, state, -, reset, snapshot, -, missed, -⟩ := gop
  exact ⟨told, kind, state, reset, snapshot, missed, grows, same⟩

/-- A scheduled operation that is kept, and broadcast by the node that originates it. -/
def keptOperation (s : State) (f : Fab) (mine : Bool) (sep dep : Nat) (body : List Byte) : State :=
  if mine then sendCtl 4 6 none sep dep body { s with fab := f } else { s with fab := f }

theorem keptOperation_spec (s : State) (f : Fab) (mine : Bool) (sep dep : Nat) (body : List Byte) : fabGop (keptOperation s f mine sep dep body).fab = fabGop f ∧ Grows s (keptOperation s f mine sep dep body) ∧
    SameButFaults { s with fab := (keptOperation s f mine sep dep body).fab, pq := (keptOperation s f mine sep dep body).pq, pqSeen := (keptOperation s f mine sep dep body).pqSeen, out := (keptOperation s f mine sep dep body).out, freeIx := (keptOperation s f mine sep dep body).freeIx } (keptOperation s f mine sep dep body) := by
  have step : OutStep { s with fab := f } (keptOperation s f mine sep dep body) := .ite (sendCtl_out _ _ _ _ _ _ _) (.refl _)
  exact ⟨step.gop, step.after rfl⟩

/-- Every reachable admitted node has arrived. -/
theorem arrived_iff (s : State) (l : List Nat) : ((reachable s).filterMap (addrOf s)).all (fun a => l.contains a) = true ↔ ∀ i ∈ reachable s, ∀ a, addrOf s i = some a → a ∈ l := by
  simp only [List.all_eq_true, List.mem_filterMap, List.contains_iff_mem]
  exact ⟨fun h i mem a at_ => h a ⟨i, mem, at_⟩, fun h a ⟨i, mem, at_⟩ => h i mem a at_⟩

end Sys2Proof.Machine
end

section
/-! Global operations. -/

namespace Sys2Proof.Machine

/-- Settles O51: each operation by the branch that its instant, its lead and the mode select. -/
theorem globalOperations : Obligations.GlobalOperations := by
  unfold Obligations.GlobalOperations
  refine ⟨fun s r t on whole => ?reset, fun s r t due => ?instant, fun s node number on => ?barrier, fun s number l held => ?complete, fun s r t l on => ?snapshot, fun s node tag t l kept => ?capture⟩
  case reset =>
    have answer : execReset r t s = .next (if s.sys.mode = .drive ∨ s.sys.mode = .charge then reply r 0x20 4 [] (setGop 4 3 s)
        else if originates s r = true ∧ leadOkAt s t = false then setGop 4 3 s
        else if t < s.timeNs then missed r 4 0x20 s
        else keptOperation s { s.fab with resetAt := some (r, t), gopT := t % 2 ^ 64, gopKind := 4, gopState := 1 } (originates s r) 0 r.ep ([0x20, BitVec.ofNat 8 r.tag, 0, 0] ++ natLe 8 t)) := congrArg Host.Outcome.next (serve_always on whole)
    refine ⟨fun moving => answer.trans (congrArg Host.Outcome.next (if_pos moving)), fun drive charge own early => ?_, fun drive charge other past => ?_, fun drive charge ahead lead => ?_⟩
    all_goals rw [if_neg (not_or.2 ⟨drive, charge⟩)] at answer
    · rw [if_pos ⟨decide_eq_true own, decide_eq_false early⟩] at answer
      exact answer
    · rw [if_neg fun h => other (of_decide_eq_true h.1), if_pos past] at answer
      obtain ⟨told, kind, state, reset, -, missed, grows, same⟩ := missed_leaves r 4 0x20 s
      exact ⟨_, answer, told, kind, state, reset, missed, grows, same⟩
    · rw [if_neg fun h => of_decide_eq_false h.2 (lead (of_decide_eq_true h.1)), if_neg (by omega)] at answer
      obtain ⟨gop, grows, same⟩ := keptOperation_spec s { s.fab with resetAt := some (r, t), gopT := t % 2 ^ 64, gopKind := 4, gopState := 1 } (originates s r) 0 r.ep ([0x20, BitVec.ofNat 8 r.tag, 0, 0] ++ natLe 8 t)
      unfold fabGop at gop
      simp only [Prod.mk.injEq] at gop
      obtain ⟨kind, state, at_, reset, -⟩ := gop
      exact ⟨_, answer, kind, state, reset, at_, grows, same⟩
  case instant =>
    have answer : execScheduledResetInstant s = if s.timeNs < t then .next s
        else if s.sys.mode = .drive ∨ s.sys.mode = .charge then .next (reply r 0x20 4 [] (setGop 4 3 { s with fab := { s.fab with resetAt := none } }))
        else .next (resetN9 { StartCause.none with fabric := true } s) := by
      unfold execScheduledResetInstant
      rw [due]
    refine ⟨fun early => answer.trans (if_pos early), fun now moving => answer.trans ((if_neg (by omega)).trans (if_pos moving)), fun now drive charge => answer.trans ((if_neg (by omega)).trans (if_neg (not_or.2 ⟨drive, charge⟩))), fun now ready => ?_⟩
    rw [if_neg (by omega), if_neg (by rw [ready]; decide)] at answer
    obtain ⟨mode, -, -, cause, -⟩ := resetN9_from { StartCause.none with fabric := true } s (by rw [ready]; decide) (by rw [ready]; decide)
    refine ⟨_, answer, mode, ?_⟩
    rw [cause]
    split <;> rfl
  case barrier =>
    have answer : execBarrier node number s = .next (keptOperation s { s.fab with barriers := (number % 2 ^ 16, insertId node (((s.fab.barriers.find? (fun b => decide (b.1 = number % 2 ^ 16))).map (·.2)).getD [])) :: s.fab.barriers.filter (fun b => decide (b.1 ≠ number % 2 ^ 16)), gopKind := 2, gopState := 1 }
        (decide (node = s.fab.addr)) 0 0 ([0x21, 0, 0, 0] ++ natLe 4 (number % 2 ^ 16))) := by
      unfold execBarrier keptOperation
      rw [if_neg (by rw [on]; decide)]
      simp only [decide_eq_true_eq]
      rfl
    obtain ⟨gop, grows, same⟩ := keptOperation_spec s { s.fab with barriers := (number % 2 ^ 16, insertId node (((s.fab.barriers.find? (fun b => decide (b.1 = number % 2 ^ 16))).map (·.2)).getD [])) :: s.fab.barriers.filter (fun b => decide (b.1 ≠ number % 2 ^ 16)), gopKind := 2, gopState := 1 }
      (decide (node = s.fab.addr)) 0 0 ([0x21, 0, 0, 0] ++ natLe 4 (number % 2 ^ 16))
    unfold fabGop at gop
    simp only [Prod.mk.injEq] at gop
    obtain ⟨kind, state, -, -, -, barriers, -⟩ := gop
    refine ⟨_, answer, kind, state, barriers, grows, same, fun other => ?_⟩
    rw [barriers]
    exact if_neg (by simpa using other)
  case complete =>
    have answer : execBarrierComplete number s = if s.fabReady = true ∧ ((reachable s).filterMap (addrOf s)).all (fun a => l.contains a) = true then
          .next (setGop 2 2 { s with fab := { s.fab with barriers := s.fab.barriers.filter (fun b => decide (b.1 ≠ number % 2 ^ 16)), gopOps := wrapInc 16 s.fab.gopOps } })
        else .next s := by
      unfold execBarrierComplete
      dsimp only
      rw [held]
    refine ⟨fun ready all => answer.trans (if_pos ⟨ready, (arrived_iff s l).2 all⟩), fun ⟨i, mem, a, at_, absent⟩ => answer.trans (if_neg fun h => absent ((arrived_iff s l).1 h.2 i mem a at_))⟩
  case snapshot =>
    have answer : execSnapshot r t l s = if r.short = true ∨ l.length < 1 ∨ 32 < l.length then .next (mgmtReply r.node r.ep 6 0x22 r.tag 8 [] s)
        else if l.all (fun a => decide (a % 4 = 0) && inVitrine a) = false then .next (mgmtReply r.node r.ep 6 0x22 r.tag 2 [] s)
        else if originates s r = true ∧ leadOkAt s t = false then .next (setGop 3 3 s)
        else if t < s.timeNs then .next (missed r 3 0x22 s)
        else .next (keptOperation s { s.fab with snapshot := some (r.node, r.tag, t, l), gopT := t % 2 ^ 64, gopKind := 3, gopState := 1 } (originates s r) 6 r.ep ([0x22, BitVec.ofNat 8 r.tag, 0, 0] ++ natLe 8 t ++ natLe 4 l.length ++ l.flatMap (natLe 4))) :=
      if_neg (by rw [on]; decide)
    have counted (whole : r.short = false) (some : 1 ≤ l.length) (few : l.length ≤ 32) : ¬(r.short = true ∨ l.length < 1 ∨ 32 < l.length) := by
      rw [whole]
      simp only [Bool.false_eq_true, false_or]
      omega
    refine ⟨fun bad => answer.trans (if_pos bad), fun whole some few bad => answer.trans ((if_neg (counted whole some few)).trans (if_pos bad)), fun whole some few good => ?_⟩
    rw [if_neg (counted whole some few), if_neg (by rw [good]; decide)] at answer
    refine ⟨fun own early => ?_, fun other past => ?_, fun ahead lead => ?_⟩
    · rw [if_pos ⟨decide_eq_true own, decide_eq_false early⟩] at answer
      exact answer
    · rw [if_neg fun h => other (of_decide_eq_true h.1), if_pos past] at answer
      obtain ⟨told, kind, state, -, snapshot, missed, grows, same⟩ := missed_leaves r 3 0x22 s
      exact ⟨_, answer, told, kind, state, snapshot, missed, grows, same⟩
    · rw [if_neg fun h => of_decide_eq_false h.2 (lead (of_decide_eq_true h.1)), if_neg (by omega)] at answer
      obtain ⟨gop, grows, same⟩ := keptOperation_spec s { s.fab with snapshot := Option.some (r.node, r.tag, t, l), gopT := t % 2 ^ 64, gopKind := 3, gopState := 1 } (originates s r) 6 r.ep ([0x22, BitVec.ofNat 8 r.tag, 0, 0] ++ natLe 8 t ++ natLe 4 l.length ++ l.flatMap (natLe 4))
      unfold fabGop at gop
      simp only [Prod.mk.injEq] at gop
      obtain ⟨kind, state, at_, -, snapshot, -⟩ := gop
      exact ⟨_, answer, kind, state, snapshot, at_, grows, same⟩
  case capture =>
    have answer : execSnapshotCapture s = if fabServes s = false ∨ s.timeNs < t then .next s
        else
          let u : State := { (readList l s).2 with fab := { (readList l s).2.fab with snapshot := none, gopOps := wrapInc 16 (readList l s).2.fab.gopOps, gopKind := 3, gopState := 2 } }
          .next (if node = u.fab.addr then u else sendBulk 2 node 6 6 [natLe 4 u.fab.addr ++ natLe 8 t ++ natLe 4 l.length ++ (readList l s).1] u) := by
      unfold execSnapshotCapture
      rw [kept]
      rfl
    refine ⟨fun early => answer.trans (if_pos (.inr early)), fun on now => ⟨readList_frame l s, answer.trans ((if_neg ?_).trans ?_)⟩⟩
    · rw [on]
      simp only [Bool.true_eq_false, false_or]
      omega
    · dsimp only
      rw [readList_addr]

end Sys2Proof.Machine
end

section
/-! SUPPORT. The paths between the units of a pair (19_pair_redundancy.md, R473 to R481): a frame to the partner, an abandoned handover, and what follows a failed path. -/

namespace Sys2Proof.Machine

/-! ## Frames to the partner (R473) -/

theorem sendPair_step (cls dep : Nat) (c : CtlContent) (s : State) : OutStep s (sendPair cls dep c s) := by
  unfold sendPair
  split
  · exact .refl s
  next a _ =>
    refine .ite (.refl s) ?_
    have free : OutStep s (freeBytes s).2 := ⟨rfl, .of_eq rfl, rfl⟩
    have body := free.trans (sendCtl_out 1 cls (some a) dep dep (freeBytes s).1 (freeBytes s).2)
    dsimp only
    generalize sendCtl 1 cls (some a) dep dep (freeBytes s).1 (freeBytes s).2 = u at body ⊢
    exact body.trans ⟨rfl, .of_eq rfl, rfl⟩

/-! ## An abandoned handover (R485) -/

theorem classOf_abandon (i : Nat) (s : State) : classOf s 0x9009 i < 3 := by simp [classOf, codesF0]

theorem abandon_spec (s : State) : SameButFaults { s with pair := { s.pair with handover := none } } (abandon s) ∧ Grows s (abandon s) ∧ (s.pair.handover.isSome = true → active 0x9009 (pairInst s) (abandon s) = true) ∧
    (∀ d, d ≠ 0x9009 → d ≠ 0x001A → activeCode d (abandon s) = activeCode d s) := by
  have key (p : PairOp) : SameButFaults { s with pair := p } (raise 0x9009 (pairInst s) 0 { s with pair := p }) ∧ Grows s (raise 0x9009 (pairInst s) 0 { s with pair := p }) ∧ active 0x9009 (pairInst s) (raise 0x9009 (pairInst s) 0 { s with pair := p }) = true ∧
      (∀ d, d ≠ 0x9009 → d ≠ 0x001A → activeCode d (raise 0x9009 (pairInst s) 0 { s with pair := p }) = activeCode d s) :=
    ⟨raise_low_same _ _ _ { s with pair := p } (classOf_abandon _) (by decide), (Grows.of_eq (s := s) (t := { s with pair := p }) rfl).trans (raise_grows _ _ _ { s with pair := p }), raise_active _ _ _ _,
      fun d other lost => raise_activeCode 0x9009 (pairInst s) 0 d { s with pair := p } ⟨other, lost⟩ (classOf_abandon _)⟩
  unfold abandon
  cases pending : s.pair.handover with
  | some h =>
    obtain ⟨same, grows, told, others⟩ := key { s.pair with handover := none }
    exact ⟨same, grows, fun _ => told, others⟩
  | none =>
    refine ⟨?_, .refl s, fun h => (nomatch h), fun _ _ _ => rfl⟩
    rw [if_neg (by decide), ← pending]
    exact .refl s

/-! ## A failed path (R474, R479, R480) -/

/-- A path's fault, raised beside a change of the pair's own state. -/
theorem raise_besidePair {c d i : Nat} {p : PairOp} {s : State} (low : ∀ s, classOf s c i < 3) (pair : ¬(0x2803 ≤ c ∧ c ≤ 0x280C)) (other : d ≠ c) (lost : d ≠ 0x001A) :
    SameButFaults { s with pair := p } (raise c i 0 { s with pair := p }) ∧ Grows s (raise c i 0 { s with pair := p }) ∧ active c i (raise c i 0 { s with pair := p }) = true ∧ activeCode d (raise c i 0 { s with pair := p }) = activeCode d s :=
  ⟨raise_low_same _ _ _ { s with pair := p } low pair, (Grows.of_eq (s := s) (t := { s with pair := p }) rfl).trans (raise_grows _ _ _ { s with pair := p }), raise_active _ _ _ _, raise_activeCode c i 0 d { s with pair := p } ⟨other, lost⟩ low pair⟩

/-- The fault of one path, the handover abandoned, and the declaration once the other path has failed too. -/
theorem pathFailed {c d : Nat} (codes : (c = 0x9001 ∧ d = 0x9002) ∨ (c = 0x9002 ∧ d = 0x9001)) {p : PairOp} {s : State} (handover : p.handover = s.pair.handover) (hb : p.hb = s.pair.hb) (declared : p.declared = s.pair.declared) :
    let t := declare (abandon (raise c (pairInst s) 0 { s with pair := p }));
    active c (pairInst s) t = true ∧ Grows s t ∧ (s.pair.handover.isSome = true → active 0x9009 (pairInst s) t = true) ∧
      (activeCode d s = false ∨ s.pair.declared = true → SameButFaults { s with pair := { p with handover := none } } t) ∧
      (activeCode d s = true → s.pair.declared = false → (actsSenior s = true → t.beyond = { s.beyond with pair := (inLead 0 { p with declared := true, swapped := false, handover := none, arbOut := true }).fixed }) ∧
        (actsSenior s = false → t.beyond = { s.beyond with pair := ({ p with declared := true, swapped := false, handover := none, arbOut := true, arbWait := true } : PairOp).fixed })) := by
  intro t
  have low (i : Nat) (s : State) : classOf s c i < 3 := by
    rcases codes with ⟨e, -⟩ | ⟨e, -⟩ <;> subst e <;> simp [classOf, codesF0, codesF1]
  obtain ⟨same, grows, told, others⟩ := raise_besidePair (c := c) (d := d) (i := pairInst s) (p := p) (s := s) (low _) (by omega) (by omega) (by omega)
  have inst : pairInst (raise c (pairInst s) 0 { s with pair := p }) = pairInst s := by rw [same]; rfl
  have pair : (raise c (pairInst s) 0 { s with pair := p }).pair = p := by rw [same]
  have t_eq : t = declare (abandon (raise c (pairInst s) 0 { s with pair := p })) := rfl
  clear_value t
  generalize raise c (pairInst s) 0 { s with pair := p } = u at same grows told others inst pair t_eq
  obtain ⟨left, grew, gone, kept⟩ := abandon_spec u
  rw [inst, pair, handover] at gone
  rw [pair] at left
  have raised : activeCode c (abandon u) = true := active_activeCode (grew _ _ told)
  have other : activeCode d (abandon u) = activeCode d s := (kept d (by omega) (by omega)).trans others
  have alone : SameButFaults { s with pair := { p with handover := none } } (abandon u) := by
    refine SameButFaults.trans ?_ left
    clear left grew gone kept raised other t_eq
    unfold SameButFaults at same ⊢
    rw [same]
  have pairNow : (abandon u).pair = { p with handover := none } := by rw [alone]
  have senior : actsSenior (abandon u) = actsSenior s := actsSenior_congr (by rw [pairNow]; exact hb) (by rw [alone]) (by rw [alone]) (by rw [alone])
  have beyond := alone.beyond
  obtain ⟨grown, idle, leads, waits⟩ := declare_spec (abandon u)
  generalize abandon u = v at left grew gone kept raised other alone pairNow senior beyond grown idle leads waits t_eq
  rw [pairNow] at idle leads waits
  rw [beyond, senior] at leads waits
  have both (act : activeCode d s = true) : activeCode 0x9001 v = true ∧ activeCode 0x9002 v = true := by
    rcases codes with ⟨e1, e2⟩ | ⟨e1, e2⟩ <;> subst e1 e2
    · exact ⟨raised, other.trans act⟩
    · exact ⟨other.trans act, raised⟩
  subst t_eq
  refine ⟨grown _ _ (grew _ _ told), grows.trans (grew.trans grown), fun pending => grown _ _ (gone pending), fun few => ?_, fun act undeclared => ⟨fun sen => ?_, fun jun => ?_⟩⟩
  · rw [idle]
    · exact alone
    · rcases few with act | dec
      · rcases codes with ⟨-, e⟩ | ⟨-, e⟩ <;> subst e
        · exact .inr (.inl (other.trans act))
        · exact .inl (other.trans act)
      · exact .inr (.inr (declared.trans dec))
  · exact leads (both act).1 (both act).2 (declared.trans undeclared) sen
  · exact waits (both act).1 (both act).2 (declared.trans undeclared) jun

end Sys2Proof.Machine
end

section
/-! Pair heartbeats and ARB. -/

namespace Sys2Proof.Machine

/-- Settles O52: both timeouts by `pathFailed`, the line by the branch that the senior's or the junior's part selects. -/
theorem pairPaths : Obligations.PairPaths := by
  unfold Obligations.PairPaths
  refine ⟨fun s on => ⟨if_pos on, ?send⟩, fun s on => ?edge, fun s us on late => ?fabric, fun s us on late => ?phb, fun s high on => ?sample, fun s ms pulls => ?release, fun s high us waits late => ?arbitration⟩
  case send =>
    have step := sendPair_step 7 5 (.heartbeat { role := s.pair.role, leadOk := leadOk s, mode := s.sys.mode.code, cycles := s.pair.cycles, arbFit := s.pair.arbFit, partnerFit := s.pair.partnerFit, senior := s.mer.senior, request := (shareOf s 1, shareOf s 2), counters := usedCounters s }) s
    exact ⟨_, if_pos on, step.grows, step.same, sendPair_none _ _ _ s, fun a partner ready => sendPair_out _ _ _ s a partner ready⟩
  case edge =>
    exact ⟨_, if_pos on, clearCode_spec 0x9002 (by decide) _⟩
  case fabric => exact ⟨_, if_pos ⟨on, late⟩, pathFailed (.inl ⟨rfl, rfl⟩) rfl rfl rfl⟩
  case phb => exact ⟨_, if_pos ⟨on, late⟩, pathFailed (.inr ⟨rfl, rfl⟩) rfl rfl rfl⟩
  case sample =>
    have present : ¬(pairOn s = false) := by rw [on]; decide
    refine ⟨fun idle => (if_neg present).trans (if_pos idle), fun low free done => ?_⟩
    have reads : execArbSample high s = if actsSenior s then .next (takeLead 0 { s with pair := { s.pair with arbIn := high, arbOut := true } }) else .next (setRole 3 { s with pair := { s.pair with arbIn := high } }) :=
      (if_neg present).trans (if_neg (by rw [low, free, done]; decide))
    subst low
    cases senior : actsSenior s with
    | true =>
      rw [if_pos senior] at reads
      exact ⟨_, reads, fun _ => takeLead_beyond 0 { s with pair := { s.pair with arbIn := false, arbOut := true } }, fun h => (nomatch h)⟩
    | false =>
      rw [if_neg (by rw [senior]; decide)] at reads
      exact ⟨_, reads, fun h => (nomatch h), fun _ => setRole_beyond 3 { s with pair := { s.pair with arbIn := false } }⟩
  case release => exact ⟨fun ends => if_pos ⟨pulls, ends⟩, fun stays => if_neg fun h => stays h.2⟩
  case arbitration =>
    have reads : execArbitrationSample high us s = (if high = false then .next (raise 0x9004 (pairInst s) 0 (setRole 3 { s with pair := { s.pair with arbWait := false, arbOut := false, arbIn := high } }))
        else if s.pair.partnerFit then .next (takeLead (clampN (min (us / 10) 500) 500 (Config.freeNat s.freeIx)) { s with freeIx := s.freeIx + 1, pair := { s.pair with arbWait := false, arbOut := false, arbIn := high } })
        else .next (setRole 3 { s with pair := { s.pair with arbWait := false, arbOut := false, arbIn := high } })) := if_pos ⟨waits, late⟩
    have solo := setRole_beyond 3 { s with pair := { s.pair with arbWait := false, arbOut := false, arbIn := high } }
    cases high with
    | false => exact ⟨_, reads, fun _ => ⟨raise_active _ _ _ _, (raise_beyond _ _ _ _).trans solo⟩, fun h => (nomatch h), fun h => (nomatch h)⟩
    | true =>
      cases fit : s.pair.partnerFit with
      | true =>
        rw [if_neg (by decide), if_pos fit] at reads
        exact ⟨_, reads, fun h => (nomatch h), fun _ h => (nomatch h), fun _ _ => ⟨_, clampN_le _ _ _ (Nat.min_le_right _ _), takeLead_beyond _ { s with freeIx := s.freeIx + 1, pair := { s.pair with arbWait := false, arbOut := false, arbIn := true } }⟩⟩
      | false =>
        rw [if_neg (by decide), if_neg (by rw [fit]; decide)] at reads
        exact ⟨_, reads, fun h => (nomatch h), fun _ _ => solo, fun _ h => (nomatch h)⟩

end Sys2Proof.Machine
end

section
/-! SUPPORT. The lead of a pair (19_pair_redundancy.md, R482 to R490): sends beside a change of the pair's own state, and the two sides of a handover. -/

namespace Sys2Proof.Machine

/-! ## Sends beside a change of the pair's state -/

theorem OutStep.ofPair {s t : State} {p : PairOp} (step : OutStep { s with pair := p } t) : t.pair = p ∧ Grows s t ∧ SameButFaults { s with pair := t.pair, fab := t.fab, pq := t.pq, pqSeen := t.pqSeen, out := t.out, freeIx := t.freeIx } t := by
  have same := step.same
  have pair : t.pair = p := by rw [same]
  exact ⟨pair, (Grows.of_eq (s := s) (t := { s with pair := p }) rfl).trans step.grows, by rw [pair]; exact same⟩

theorem OutStep.withPair {s u : State} (step : OutStep s u) (p : PairOp) : OutStep { s with pair := p } { u with pair := p } := by
  refine ⟨?_, fun c i act => step.grows c i act, step.core⟩
  have same := step.same
  unfold SameButFaults at same ⊢
  generalize u.fab = f at same ⊢
  generalize u.pq = q at same ⊢
  generalize u.pqSeen = n at same ⊢
  generalize u.out = o at same ⊢
  generalize u.freeIx = i at same ⊢
  rw [same]

/-- What the giving unit keeps of a handover. -/
def given (s : State) (t : Nat) (swap : Bool) : Handover := { give := true, at_ := t, acked := false, counters := lastCounters s t, swap := swap }

theorem startHandover_step (t : Nat) (swap : Bool) (s : State) : OutStep { s with pair := { s.pair with handover := some (given s t swap) } } (startHandover t swap s) := sendPair_step 7 5 _ _

theorem startHandover_from (t : Nat) (swap : Bool) (s : State) (p : PairOp) :
    let u := startHandover t swap { s with pair := p };
    u.pair = { p with handover := some (given s t swap) } ∧ Grows s u ∧ SameButFaults { s with pair := u.pair, fab := u.fab, pq := u.pq, pqSeen := u.pqSeen, out := u.out, freeIx := u.freeIx } u ∧
      (∀ a, partnerAddr s = some a → s.fabReady = true → ∃ k, u.out.head? = some (.ctl a 5 k (.handover t (lastCounters s t) swap))) := by
  obtain ⟨pair, grows, same⟩ := OutStep.ofPair (s := s) (startHandover_step t swap { s with pair := p })
  obtain ⟨-, -, -, sent⟩ := startHandover_spec t swap { s with pair := p }
  exact ⟨pair, grows, same, sent⟩

/-- A unit acts as senior by its heartbeat, its strap and the addresses alone. -/
theorem OutStep.senior {s t : State} (step : OutStep s t) : actsSenior t = actsSenior s := by
  have same := step.same
  have lists := core_lists step.core
  simp only [Prod.mk.injEq] at lists
  obtain ⟨epoch, closed, -, addr, -⟩ := lists
  have cat : t.cat = s.cat := by rw [same]
  have pair : t.pair = s.pair := by rw [same]
  have mer : t.mer = s.mer := by rw [same]
  have partner : partnerAddr t = partnerAddr s := by
    unfold partnerAddr addrOf admittedIds partnerId State.pb State.payload
    rw [cat, epoch, closed]
  unfold actsSenior
  rw [pair, mer, partner, addr]

/-! ## Fabric time beside a frame (R434, R460) -/

/-- The copy of fabric time stands. -/
def TimeKept (s t : State) : Prop := t.fab.timeSet = s.fab.timeSet ∧ t.fab.time = s.fab.time

theorem pushPacket_time {q : QId} {c : Fin 8} {ws : List (BitVec 64)} {s : State} (sound : badChain (s.pq.get q) = none) : TimeKept s (pushPacket q c ws s) := by
  have checked : checkQueue q s = s := by
    unfold checkQueue
    rw [sound]
  unfold pushPacket
  rw [checked]
  dsimp only
  split <;> exact ⟨rfl, rfl⟩

/-- While every queue is sound a frame to the partner leaves fabric time alone. -/
theorem sendPair_time {cls dep : Nat} {c : CtlContent} {s : State} (sound : ∀ q, badChain (s.pq.get q) = none) : TimeKept s (sendPair cls dep c s) := by
  have routed (a : Nat) (b : List Byte) (x : List ((Nat × Nat) × Nat)) : TimeKept s (route (some a) cls b { (freeBytes s).2 with fab := { s.fab with txCnt := x } }) := by
    unfold route
    dsimp only
    split
    next p _ =>
      have kept := pushPacket_time (q := outQ p) (c := clsFin cls) (ws := frameWords 130 b) (s := { (freeBytes s).2 with fab := { s.fab with txCnt := x } }) (sound _)
      exact kept
    next => exact ⟨rfl, rfl⟩
  unfold sendPair
  split
  · exact ⟨rfl, rfl⟩
  · split
    · exact ⟨rfl, rfl⟩
    · unfold sendCtl
      dsimp only
      split
      · exact ⟨rfl, rfl⟩
      · exact routed _ _ _

theorem given_same {s u : State} (cat : u.cat = s.cat) (mer : u.mer = s.mer) (vif : u.vif = s.vif) (time : TimeKept s u) : handoverAt u = handoverAt s ∧ given u (handoverAt s) true = given s (handoverAt s) true := by
  have now : u.timeNs = s.timeNs := by
    unfold State.timeNs State.fn State.pu State.pb State.payload
    rw [cat, mer, time.1, time.2]
  have counters (t : Nat) : lastCounters u t = lastCounters s t := by
    unfold lastCounters msgOf State.hasRec State.pu State.pf State.pb State.payload
    rw [cat, vif, now]
  refine ⟨by unfold handoverAt; rw [now], ?_⟩
  unfold given
  rw [counters]

/-- A handover that starts right after another frame to the partner. -/
theorem startHandover_after {s u : State} {p : PairOp} (step : OutStep { s with pair := p } u) (t : Nat) :
    (startHandover t true u).pair = { p with handover := some (given u t true) } ∧ Grows s (startHandover t true u) ∧
      SameButFaults { s with pair := (startHandover t true u).pair, fab := (startHandover t true u).fab, pq := (startHandover t true u).pq, pqSeen := (startHandover t true u).pqSeen, out := (startHandover t true u).out, freeIx := (startHandover t true u).freeIx } (startHandover t true u) := by
  have same := step.same
  have pair : u.pair = p := by rw [same]
  have first : OutStep { s with pair := { p with handover := some (given u t true) } } { u with pair := { u.pair with handover := some (given u t true) } } := by
    rw [pair]
    exact step.withPair { p with handover := some (given u t true) }
  exact (first.trans (startHandover_step t true u)).ofPair

/-! ## The taking and the giving unit (R485, R490) -/

/-- What the handover leaves of the pair's state once the role has passed. -/
def handedOver (h : Handover) (s : State) : State :=
  { s with pair := { s.pair with handover := none, handovers := wrapInc 8 s.pair.handovers, swapped := h.swap && (if h.give then actsSenior s else !actsSenior s), swapBad := false } }

theorem handedOver_fixed {p q : PairOp} (same : p.fixed = q.fixed) (b : Bool) :
    ({ p with handover := none, handovers := wrapInc 8 p.handovers, swapped := b, swapBad := false } : PairOp).fixed = ({ q with handover := none, handovers := wrapInc 8 q.handovers, swapped := b, swapBad := false } : PairOp).fixed := by
  unfold PairOp.fixed at *
  simp only [Prod.mk.injEq] at same ⊢
  simp only [same, and_self]

theorem handedOver_spec (h : Handover) {s t : State} {p : PairOp} (beyond : t.beyond = { s.beyond with pair := p.fixed }) (handovers : p.handovers = s.pair.handovers) (senior : actsSenior t = actsSenior s) :
    (handedOver h t).beyond = { s.beyond with pair := ({ p with handover := none, handovers := wrapInc 8 s.pair.handovers, swapped := h.swap && (h.give == actsSenior s), swapBad := false } : PairOp).fixed } ∧ Grows t (handedOver h t) ∧ (handedOver h t).lvc = t.lvc ∧ (handedOver h t).vif = t.vif := by
  have junior : (if h.give then actsSenior t else !actsSenior t) = (h.give == actsSenior s) := by
    rw [senior]
    cases h.give <;> cases actsSenior s <;> rfl
  have fixed := handedOver_fixed (congrArg Beyond.pair beyond) (h.swap && (h.give == actsSenior s))
  rw [handovers] at fixed
  refine ⟨?_, .of_eq rfl, rfl, rfl⟩
  unfold handedOver
  rw [junior, ← fixed]
  exact congrArg (fun b : Beyond => { b with pair := ({ t.pair with handover := none, handovers := wrapInc 8 t.pair.handovers, swapped := h.swap && (h.give == actsSenior s), swapBad := false } : PairOp).fixed }) beyond

theorem inRole_handovers (r : Nat) (p : PairOp) : (inRole r p).handovers = p.handovers := by
  unfold inRole
  split <;> rfl

theorem vif_of_role {s t : State} {p : PairOp} (h : t.beyond = { s.beyond with pair := p.fixed }) : t.vif = s.vif := congrArg Beyond.vif h

/-- The taking unit goes on from the giving unit's counter of the Status message. -/
def countsOn (h : Handover) (s : State) : State :=
  if h.give then s
  else
    match h.counters.find? (fun p => decide (p.1 = 0x20)) with
    | some c => { s with vif := { s.vif with txCnt := c.2 % 2 ^ 16 } }
    | none => s

theorem countsOn_spec (h : Handover) (s : State) : (countsOn h s).beyond = { s.beyond with vif := (countsOn h s).vif } ∧ Grows s (countsOn h s) ∧ (countsOn h s).lvc = s.lvc ∧
    (h.give = true ∨ h.counters.find? (fun p => decide (p.1 = 0x20)) = none → (countsOn h s).vif = s.vif) ∧ (∀ c, h.give = false → h.counters.find? (fun p => decide (p.1 = 0x20)) = some c → (countsOn h s).vif = { s.vif with txCnt := c.2 % 2 ^ 16 }) := by
  unfold countsOn
  cases h.give with
  | true => exact ⟨rfl, .refl s, rfl, fun _ => rfl, fun _ e => (nomatch e)⟩
  | false =>
    cases h.counters.find? (fun p => decide (p.1 = 0x20)) with
    | none => exact ⟨rfl, .refl s, rfl, fun _ => rfl, fun _ _ e => (nomatch e)⟩
    | some c => exact ⟨rfl, .of_eq rfl, rfl, fun e => e.elim (fun e => (nomatch e)) (fun e => (nomatch e)), fun d _ e => by cases e; rfl⟩

/-- The giving unit keeps its session while a handover stands. -/
theorem setRole_gives {s : State} {h : Handover} (pending : s.pair.handover = some h) {sl v : Nat} (cmd : s.lvc.cmd = some (sl, v)) (slew : sl < 4096) (set : v < 65536) (lead : s.pair.role = 1) : (setRole 2 s).lvc.cmd = some (sl, v - standbyMv s) := by
  unfold setRole
  dsimp only
  rw [if_neg (by rw [lead]; decide), if_neg (by decide), if_pos lead, if_pos (by rw [pending]; rfl)]
  exact lvStandby_cmd _ sl v cmd slew set

/-- A passed test makes the swap of a senior that leads due, and starts it unless it is deferred. -/
def testPassed (s : State) : State :=
  if s.pair.role = 1 ∧ actsSenior s = true ∧ s.pf 0x98 0 28 ≠ 0 then
    if bothPaths s = true ∧ s.pair.handover = none ∧ handoverDeferred s = false then startHandover (handoverAt s) true s
    else { s with pair := { s.pair with swapDue := true } }
  else s

theorem testPassed_defers {s : State} (deferred : ¬(s.pair.role = 1 ∧ actsSenior s = true ∧ s.pf 0x98 0 28 ≠ 0 ∧ bothPaths s = true ∧ s.pair.handover = none ∧ handoverDeferred s = false)) :
    testPassed s = { s with pair := { s.pair with swapDue := s.pair.swapDue || (decide (s.pair.role = 1 ∧ s.pf 0x98 0 28 ≠ 0) && actsSenior s) } } := by
  unfold testPassed
  by_cases lead : s.pair.role = 1 ∧ actsSenior s = true ∧ s.pf 0x98 0 28 ≠ 0
  · obtain ⟨role, senior, share⟩ := lead
    rw [if_pos ⟨role, senior, share⟩, if_neg fun h => deferred ⟨role, senior, share, h⟩, decide_eq_true ⟨role, share⟩, senior, Bool.and_self, Bool.or_true]
  · have none : (decide (s.pair.role = 1 ∧ s.pf 0x98 0 28 ≠ 0) && actsSenior s) = false := by
      rw [Bool.eq_false_iff]
      intro h
      rw [Bool.and_eq_true, decide_eq_true_eq] at h
      exact lead ⟨h.1.1, h.2, h.1.2⟩
    rw [if_neg lead, none, Bool.or_false]

theorem testPassed_starts {s : State} (lead : s.pair.role = 1 ∧ actsSenior s = true ∧ s.pf 0x98 0 28 ≠ 0) (ready : bothPaths s = true ∧ s.pair.handover = none ∧ handoverDeferred s = false) : testPassed s = startHandover (handoverAt s) true s :=
  (if_pos lead).trans (if_pos ready)

/-- What a passed test reads is not the sent frame's matter. -/
theorem testReads {s u : State} {p : PairOp} (step : OutStep { s with pair := p } u) (hb : p.hb = s.pair.hb) (paths : p.fabHb = s.pair.fabHb ∧ p.phbHb = s.pair.phbHb) (busy : p.partnerBusy = s.pair.partnerBusy) :
    actsSenior u = actsSenior s ∧ u.pf 0x98 0 28 = s.pf 0x98 0 28 ∧ bothPaths u = bothPaths s ∧ handoverDeferred u = handoverDeferred s := by
  have senior := step.senior
  have same := step.same
  have pair : u.pair = p := by rw [same]
  refine ⟨senior.trans (actsSenior_congr hb rfl rfl rfl), by rw [same]; rfl, ?_, ?_⟩
  · unfold bothPaths
    rw [pair, paths.1, paths.2]
  · have runs : pairBusy u = pairBusy s := by rw [same]; rfl
    unfold handoverDeferred
    rw [runs, pair, busy]

/-- A fault of a low class beside a change of the pair's state. -/
theorem raise_pairLow {c i : Nat} (s : State) (low : ∀ s, classOf s c i < 3) (pair : ¬(0x2803 ≤ c ∧ c ≤ 0x280C) := by decide) : active c i (raise c i 0 s) = true ∧ Grows s (raise c i 0 s) ∧ SameButFaults s (raise c i 0 s) :=
  ⟨raise_active _ _ _ _, raise_grows _ _ _ _, raise_low_same c i 0 s low pair⟩

end Sys2Proof.Machine
end

section
/-! The lead of a pair. -/

namespace Sys2Proof.Machine

/-- Settles O53: a change of role by `setRole_beyond`, a handover's start by `startHandover_from` and its instant by `handedOver_spec`, the test and the swap by their branches. -/
theorem pairLead : Obligations.PairLead := by
  unfold Obligations.PairLead
  refine ⟨fun s on lead lost => ?release, fun s h hb => ?two, fun s n ms w on lead paths free quiet at_ swap => ?request, fun s n ms late idle => if_pos ⟨rfl, late, idle⟩, fun s h pending => ?instant, fun s us h pending => ?abandon, fun s ms h on lead junior unswapped paths hb ok => ?return_,
    fun s p1 b p2 ms on due => ?test, fun s ms ok on swapped free idle senior => ?senior, fun s ms on swapped free idle junior lead good paths done => ?junior, fun s ms on solo paths late => ?solo⟩
  case release =>
    refine ⟨_, if_pos ⟨on, lead, lost⟩, setRole_beyond 2 s, setRole_grows 2 s, fun sl v cmd slew set idle => (setRole_lv s sl v cmd slew set).1 lead idle 2 (by decide)⟩
  case two =>
    have answer : execTwoLeadsSeen s = if s.pair.role = 1 ∧ h.role = 1 then .next (raise 0x900A (pairInst s) 0 (if actsSenior s then s else setRole 2 s)) else .next s := by
      unfold execTwoLeadsSeen
      rw [hb]
    refine ⟨fun mine other => ?_, fun one => answer.trans (if_neg one)⟩
    rw [if_pos ⟨mine, other⟩] at answer
    refine ⟨_, answer, raise_active _ _ _ _, (Grows.ite (.refl s) (setRole_grows 2 s)).trans (raise_grows _ _ _ _), fun senior => ?_, fun junior => ?_⟩
    · rw [if_pos senior]
      exact (raise_pairLow s (fun s => by simp [classOf, codesF0, codesF1])).2.2
    · rw [if_neg (by rw [junior]; decide)]
      exact (raise_beyond _ _ _ _).trans (setRole_beyond 2 s)
  case request =>
    have answer : execHandoverRequest n w ms s = .next (startHandover n w { s with pair := { s.pair with swapDue := s.pair.swapDue && !w } }) := by
      refine (if_neg fun h => ?_).trans (if_pos ⟨on, lead, paths, free, quiet, at_, fun h => (swap h).2⟩)
      have := (swap h.1).1
      omega
    exact ⟨_, answer, startHandover_from n w s _⟩
  case instant =>
    have answer : execHandoverInstant s = if h.acked = true ∧ h.at_ ≤ s.timeNs ∧ bothPaths s = true ∧ handoverDeferred s = false then .next (countsOn h (handedOver h (setRole (if h.give then 2 else 1) s))) else .next s := by
      unfold execHandoverInstant countsOn
      rw [pending]
      dsimp only
      split
      · obtain ⟨gives, at_, acked, counters, swap⟩ := h
        cases gives with
        | true => rfl
        | false => cases counters.find? (fun p => decide (p.1 = 0x20)) <;> rfl
      · rfl
    refine ⟨fun acked late paths quiet => ?_, fun waits => answer.trans (if_neg waits)⟩
    rw [if_pos ⟨acked, late, paths, quiet⟩] at answer
    have role := setRole_beyond (if h.give then 2 else 1) s
    obtain ⟨passed, grew, lvc, vif⟩ := handedOver_spec h role (inRole_handovers _ _) (setRole_senior _ _)
    obtain ⟨counted, grown, lvc', stays, takes⟩ := countsOn_spec h (handedOver h (setRole (if h.give then 2 else 1) s))
    have vif0 : (handedOver h (setRole (if h.give then 2 else 1) s)).vif = s.vif := vif.trans (vif_of_role role)
    rw [passed] at counted
    rw [vif0] at stays takes
    refine ⟨_, answer, (setRole_grows _ s).trans (grew.trans grown), counted, stays, takes, fun sl v cmd slew set takes other => ?_, fun sl v cmd slew set gives lead => ?_⟩
    · rw [lvc', lvc, takes]
      exact (setRole_lv s sl v cmd slew set).2 other
    · rw [lvc', lvc, gives]
      exact setRole_gives pending cmd slew set lead
  case abandon =>
    have answer : execHandoverAbandon us s = if (h.acked = false ∧ 2000 ≤ us) ∨ bothPaths s = false then .next (abandon s) else .next s := by
      unfold execHandoverAbandon
      rw [pending]
    refine ⟨fun ends => ?_, fun stays => answer.trans (if_neg stays)⟩
    obtain ⟨same, grows, told, -⟩ := abandon_spec s
    exact ⟨_, answer.trans (if_pos ends), told (by rw [pending]; rfl), grows, same⟩
  case return_ =>
    have healthy : (pairOn s && decide (s.pair.role = 1) && !actsSenior s && !s.pair.swapped && bothPaths s && (match s.pair.hb with
        | some h => h.leadOk
        | none => false)) = true := by
      rw [on, lead, junior, unswapped, paths, hb]
      exact ok
    refine ⟨fun late free quiet => ?_, fun early => ?_⟩
    · obtain ⟨pair, grows, same, -⟩ := startHandover_from (handoverAt s) false s { s.pair with holdoff := false }
      exact ⟨_, if_pos ⟨healthy, late, free, quiet⟩, pair, grows, same⟩
    · show execLeadReturn ms s = _
      unfold execLeadReturn
      dsimp only
      have held : (pairOn s && decide (s.pair.role = 1) && !actsSenior s && !s.pair.swapped && bothPaths s) = true := by
        rw [on, lead, junior, unswapped, paths]
        rfl
      rw [if_neg fun h => absurd h.2.1 (by omega), held, decide_eq_true early, hb]
      dsimp only
      rw [ok]
      rfl
  case test =>
    have serves : ¬(pairOn s = false ∨ s.pair.testDue = false) := by rw [on, due]; decide
    have answer (p1 b p2 : Bool) (late : 2000 ≤ ms) : execArbTest p1 b p2 ms s = if p1 = false ∧ b = true ∧ p2 = false then .next (testPassed (sendPair 7 5 (.arbReading true) { s with pair := { s.pair with testDue := false, arbFit := true } }))
        else .next (raise 0x9007 (pairInst s) 0 (sendPair 7 5 (.arbReading false) { s with pair := { s.pair with testDue := false, arbFit := false, swapDue := false } })) := by
      unfold execArbTest testPassed
      rw [if_neg serves]
      dsimp only
      rw [if_neg (by omega)]
      split
      · split
        · split <;> rfl
        · rfl
      · rfl
    refine ⟨fun early => (if_neg serves).trans (if_pos early), fun late bad => ?_, fun late some => ?_, fun late sound lead senior share paths free quiet => ?_⟩
    · have run := (answer p1 b p2 late).trans (if_neg bad)
      have sent := sendPair_step 7 5 (.arbReading false) { s with pair := { s.pair with testDue := false, arbFit := false, swapDue := false } }
      generalize sendPair 7 5 (.arbReading false) { s with pair := { s.pair with testDue := false, arbFit := false, swapDue := false } } = u at run sent
      obtain ⟨pair, grows, same⟩ := (sent.trans (OutStep.low 0x9007 (pairInst s) 0 (fun s => by simp [classOf, codesF0, codesF1]))).ofPair
      exact ⟨_, run, raise_active _ _ _ _, grows, pair, same⟩
    · have run := (answer false true false late).trans (if_pos ⟨rfl, rfl, rfl⟩)
      have sent := sendPair_step 7 5 (.arbReading true) { s with pair := { s.pair with testDue := false, arbFit := true } }
      have out := sendPair_out 7 5 (.arbReading true) { s with pair := { s.pair with testDue := false, arbFit := true } }
      generalize sendPair 7 5 (.arbReading true) { s with pair := { s.pair with testDue := false, arbFit := true } } = u at run sent out
      obtain ⟨pair, grows, same⟩ := sent.ofPair
      obtain ⟨acts, shares, both, defers⟩ := testReads sent rfl ⟨rfl, rfl⟩ rfl
      have passes := testPassed_defers (s := u) (by rw [acts, shares, both, defers, pair]; exact some)
      rw [passes, acts, shares, pair] at run
      refine ⟨_, run, rfl, out, grows, ?_⟩
      clear passes run
      rw [pair] at same
      unfold SameButFaults at same ⊢
      rw [same]
    · have run := (answer false true false late).trans (if_pos ⟨rfl, rfl, rfl⟩)
      have sent := sendPair_step 7 5 (.arbReading true) { s with pair := { s.pair with testDue := false, arbFit := true } }
      have time := sendPair_time (cls := 7) (dep := 5) (c := .arbReading true) (s := { s with pair := { s.pair with testDue := false, arbFit := true } }) sound
      generalize sendPair 7 5 (.arbReading true) { s with pair := { s.pair with testDue := false, arbFit := true } } = u at run sent time
      obtain ⟨pair, -, -⟩ := sent.ofPair
      obtain ⟨acts, shares, both, defers⟩ := testReads sent rfl ⟨rfl, rfl⟩ rfl
      rw [testPassed_starts (by rw [acts, shares, pair]; exact ⟨lead, senior, share⟩) (by rw [both, defers, pair]; exact ⟨paths, free, quiet⟩)] at run
      have same := sent.same
      have at_ : handoverAt u = handoverAt s ∧ given u (handoverAt s) true = given s (handoverAt s) true := given_same (s := s) (by rw [same]) (by rw [same]) (by rw [same]) time
      obtain ⟨given, grows, same⟩ := startHandover_after sent (handoverAt u)
      rw [at_.1, at_.2] at given
      rw [at_.1] at run grows same
      exact ⟨_, run, given, grows, same⟩
  case senior =>
    have serves : ¬(pairOn s = false ∨ s.pair.swapped = false ∨ s.pair.handover.isSome = true ∨ inSession s = true) := by rw [on, swapped, free, idle]; decide
    have answer : execSwapEnd ms ok s = if (ok && !s.pair.swapBad && bothPaths s) = false then
          .next (raise 0x9006 (pairInst s) 0 (setRole 1 { s with pair := { s.pair with swapped := false, partnerFit := false, failed := satInc 8 s.pair.failed } }))
        else if s.pf 0x98 0 28 * 1000 ≤ ms then
          .next { s with pair := { s.pair with partnerFit := true, passed := satInc 8 s.pair.passed, handover := some { give := false, at_ := handoverAt s, acked := true, counters := [], swap := true } } }
        else .next s := by
      unfold execSwapEnd
      rw [if_neg serves]
      dsimp only
      rw [if_pos senior]
      simp only [decide_eq_true_eq]
    refine ⟨fun bad => ?_, fun streams good paths => ⟨fun late => ?_, fun early => ?_⟩⟩
    · rw [if_pos (by simpa using bad)] at answer
      have role := setRole_beyond 1 { s with pair := { s.pair with swapped := false, partnerFit := false, failed := satInc 8 s.pair.failed } }
      have grows := (Grows.of_eq (s := s) (t := { s with pair := { s.pair with swapped := false, partnerFit := false, failed := satInc 8 s.pair.failed } }) rfl).trans (setRole_grows 1 _)
      exact ⟨_, answer, raise_active _ _ _ _, grows.trans (raise_grows _ _ _ _), (raise_beyond _ _ _ _).trans role⟩
    all_goals rw [if_neg (by rw [streams, good, paths]; decide)] at answer
    · exact answer.trans (if_pos late)
    · exact answer.trans (if_neg (not_le.2 early))
  case junior =>
    have serves : ¬(pairOn s = false ∨ s.pair.swapped = false ∨ s.pair.handover.isSome = true ∨ inSession s = true) := by rw [on, swapped, free, idle]; decide
    have answer : execSwapEnd ms true s = .next (startHandover (handoverAt s) true s) := by
      unfold execSwapEnd
      rw [if_neg serves]
      dsimp only
      rw [junior, good, paths, lead]
      exact (if_neg (by decide)).trans (if_pos ⟨rfl, decide_eq_true done, rfl⟩)
    obtain ⟨pair, grows, same, -⟩ := startHandover_from (handoverAt s) true s s.pair
    exact ⟨_, answer, pair, grows, same⟩
  case solo =>
    have cleared := clearCode_spec 0x9004 (by decide) (setRole 2 s)
    exact ⟨_, if_pos ⟨on, solo, paths, late⟩, cleared.2.2.beyond.trans (setRole_beyond 2 s), cleared.1⟩

end Sys2Proof.Machine
end

section
/-! SUPPORT. The vehicle interfaces (20_vehicle_interfaces.md, R493 to R495, R508): a fault beside a change of an interface, and the end of a session on the digital path. -/

namespace Sys2Proof.Machine

/-- A fault of a low class beside a change of the vehicle interfaces. -/
theorem raise_besideVif {c i m : Nat} {v : Vif} {s : State} (low : ∀ s, classOf s c i < 3) (pair : ¬(0x2803 ≤ c ∧ c ≤ 0x280C) := by decide) :
    active c i (raise c i m { s with vif := v }) = true ∧ Grows s (raise c i m { s with vif := v }) ∧ SameButFaults { s with vif := v } (raise c i m { s with vif := v }) :=
  ⟨raise_active _ _ _ _, (Grows.of_eq (s := s) (t := { s with vif := v }) rfl).trans (raise_grows c i m { s with vif := v }), raise_low_same c i m { s with vif := v } low pair⟩

/-! ## The end of a session (R344) -/

/-- The current of the charger ramps down where it flows. -/
theorem requestStop_ramping {s : State} (charges : s.dab.st = 2 ∨ s.dab.st = 3) (current : s.dab.iCmd ≠ 0) : (requestStop s).dab.stopRamp.isSome = true := by
  unfold requestStop
  cases ramp : s.dab.stopRamp with
  | none => rw [if_pos ⟨charges, current, rfl⟩]; rfl
  | some r => rw [if_neg fun h => (nomatch h.2.2), if_pos (Option.isSome_some), ramp]; rfl

theorem sessionEnd_idle {n : Nat} {s : State} (idle : inSession s = false ∨ s.chg.phase = 9) : sessionEnd n s = s := if_pos idle

theorem sessionEnd_charge {n : Nat} {s : State} (runs : inSession s = true) (open_ : s.chg.phase ≠ 9) : (sessionEnd n s).obcT.iBat = 0 ∧ (s.dab.st = 2 ∨ s.dab.st = 3 → s.dab.iCmd ≠ 0 → (sessionEnd n s).dab.stopRamp.isSome = true) := by
  unfold sessionEnd
  rw [if_neg (not_or.2 ⟨by rw [runs]; decide, open_⟩)]
  refine ⟨?_, fun charges current => requestStop_ramping (s := { s with obcT := { s.obcT with iBat := 0 } }) charges current⟩
  have only := requestStop_only { s with obcT := { s.obcT with iBat := 0 } }
  generalize requestStop { s with obcT := { s.obcT with iBat := 0 } } = u at only ⊢
  rw [only]

end Sys2Proof.Machine
end

section
/-! CAN, Ethernet and the modem. -/

namespace Sys2Proof.Machine

/-- Settles O54: each command by its branch, the silent modem's session by `sessionEnd_spec` and `sessionEnd_charge`. -/
theorem vehicleInterfaces : Obligations.VehicleInterfaces := by
  unfold Obligations.VehicleInterfaces
  refine ⟨fun s n used => ?off, fun s n ms used off => ⟨fun late => if_pos ⟨used, off, late⟩, fun early => if_neg fun h => absurd h.2.2 (by omega)⟩, fun s ifaces rec_ rst => ?link, fun s ms locked ifaces => ⟨fun late => if_pos ⟨locked, ifaces, late⟩, fun early => if_neg fun h => absurd h.2.2 (by omega)⟩,
    fun s reply locked ifaces services => if_pos ⟨locked, ifaces, services⟩, fun s ms locked ifaces services runs late => ?loss, fun s ms early => if_neg fun h => absurd h.2.2.2.2 (by omega), fun s type len locked ifaces services runs short => if_pos ⟨locked, ifaces, services, runs, short⟩⟩
  case off => exact ⟨_, if_pos used, raise_besideVif (fun s => by simp [classOf, codesF0, codesF1])⟩
  case link =>
    have serves (up : Bool) (changed : s.vif.ethUp ≠ up) : ¬(s.sup.ifaces = false ∨ s.hasRec 0xA0 2 = false ∨ s.vif.ethRst = false ∨ s.vif.ethUp = up) := by
      rw [ifaces, rec_, rst]
      simpa using changed
    refine ⟨fun up => ⟨_, if_neg (serves false (by rw [up]; decide)), raise_besideVif (fun s => by simp [classOf, codesF0, codesF1])⟩, fun down => ?_, if_pos (.inr (.inr (.inr rfl)))⟩
    exact ⟨_, if_neg (serves true (by rw [down]; decide)), clearF_inactive _ _ _ (by decide), fun c i lost other => clearF_other 0x7803 2 c i { s with vif := { s.vif with ethUp := true } } lost other, clearF_same 0x7803 2 { s with vif := { s.vif with ethUp := true } }⟩
  case loss =>
    intro u
    have answer : execModemLinkLoss ms s = .next (if (raise 0x7807 noInst 0 u).chg.path = 2 ∨ (raise 0x7807 noInst 0 u).chg.path = 3 then sessionEnd 8 (raise 0x7807 noInst 0 u) else raise 0x7807 noInst 0 u) := if_pos ⟨locked, ifaces, services, runs, late⟩
    obtain ⟨told, grows, same⟩ := raise_besideVif (c := 0x7807) (i := noInst) (m := 0) (v := { s.vif with plcRst := false, modem := 1 }) (s := s) (fun s => by simp [classOf, codesF0, codesF1])
    change active 0x7807 noInst (raise 0x7807 noInst 0 u) = true at told
    change Grows s (raise 0x7807 noInst 0 u) at grows
    change SameButFaults u (raise 0x7807 noInst 0 u) at same
    generalize raise 0x7807 noInst 0 u = v at answer told grows same
    have chg : v.chg = s.chg := by rw [same]
    have dab : v.dab = s.dab := by rw [same]
    have session : inSession v = inSession s := by
      unfold inSession
      rw [chg]
    rw [chg] at answer
    by_cases digital : s.chg.path = 2 ∨ s.chg.path = 3
    · rw [if_pos digital] at answer
      refine ⟨_, answer, sessionEnd_grows 8 v _ _ told, grows.trans (sessionEnd_grows 8 v), (sessionEnd_beyond 8 v).trans same.beyond, fun idle => ?_, fun open_ _ => ⟨?_, fun running => ?_⟩⟩
      · rw [sessionEnd_idle (.inl (session.trans (idle.resolve_right (not_not.2 digital))))]
        exact same
      · by_cases ended : s.chg.phase = 9
        · rw [sessionEnd_idle (.inr (by rw [chg]; exact ended)), chg]
          exact ended
        · exact (sessionEnd_spec 8 v (session.trans open_) (by rw [chg]; exact ended)).1
      · obtain ⟨-, cause, stops⟩ := sessionEnd_spec 8 v (session.trans open_) (by rw [chg]; exact running)
        obtain ⟨battery, ramps⟩ := sessionEnd_charge (n := 8) (session.trans open_) (by rw [chg]; exact running)
        rw [dab] at stops ramps
        exact ⟨cause, battery, ramps, fun still => stops (still.imp_left not_or.1)⟩
    · rw [if_neg digital] at answer
      exact ⟨_, answer, told, grows, same.beyond, fun _ => same, fun _ h => absurd h digital⟩

end Sys2Proof.Machine
end

section
/-! SUPPORT. The queues of the vehicle interfaces (17_priority_queues.md, R430, R436; 20_vehicle_interfaces.md, R496): a message that passes one, and one sent on several. -/

namespace Sys2Proof.Machine

/-! ## The reset of an interface's queue (R436, R439) -/

/-- A queue of a vehicle interface. -/
def IfcQueue (q : QId) : Prop := 8 ≤ q.val ∧ q.val < 14

theorem rxQ_ifc (i : Fin 3) : IfcQueue (rxQ i) := by
  unfold IfcQueue rxQ
  revert i
  decide

/-- 0x7002 of an interface's queue stops a controller or the MAC, which no field of the state but the fault holds. -/
theorem raise_ifcQueue {q : QId} (ifc : IfcQueue q) (m : Nat) (s : State) : (raise 0x7002 q.val m s).beyond = s.beyond := by
  have base : (raiseBaseBy (0x7002 / 2048) 0x7002 q.val m s).beyond = s.beyond := (raiseBaseBy_same _ _ _ _ _).beyond
  have still (u : State) : reactF3 0x7002 q.val u = u := by
    have reacts : reactF3 0x7002 q.val u = queueStop q.val u := by
      have := ifc.2
      simp [reactF3, missCode, show q.val ≠ 21 by omega]
    rw [reacts]
    unfold queueStop
    rw [if_neg (by have := ifc.1; omega), if_neg (by have := ifc.2; omega)]
  unfold raise raiseBy
  dsimp only
  generalize raiseBaseBy (0x7002 / 2048) 0x7002 q.val m s = v at base ⊢
  split
  · split
    · rw [still]
      exact (pins_beyond _).trans base
    · exact (pins_beyond _).trans ((reactF4_beyond _ _).trans base)
    · exact (reactF2_beyond _ _ _).trans base
    · exact base
  · exact base

/-- Only queues change, and no fault ends. -/
def QueueStep (s t : State) : Prop := t.beyond = { s.beyond with pq := t.pq, pqSeen := t.pqSeen } ∧ Grows s t

theorem QueueStep.cat {s t : State} (step : QueueStep s t) : t.cat = s.cat := congrArg Beyond.cat step.1
theorem QueueStep.vif {s t : State} (step : QueueStep s t) : t.vif = s.vif := congrArg Beyond.vif step.1

theorem settlePorts_still {o s : State} (fab : s.fab = o.fab) : settlePorts o s = s := by
  unfold settlePorts
  rw [fab, if_neg]
  simp

theorem resetQueue_ifc {q : QId} (ifc : IfcQueue q) (c : Fin 8) (n : Nat) (s : State) : QueueStep s (resetQueue q c n s) := by
  have start : (resetStart q c n s).beyond = { s.beyond with pq := s.pq.put q (resetTo q c n s), pqSeen := (resetStart q c n s).pqSeen } := rfl
  have first := (raise_beyond 0x7001 q.val (lostItems (s.pq.get q)) (resetStart q c n s)).trans start
  have third := (raise_ifcQueue ifc (lostItems (s.pq.get q)) (raise 0x7001 q.val (lostItems (s.pq.get q)) (resetStart q c n s))).trans first
  have step (t : State) (b : t.beyond = { s.beyond with pq := s.pq.put q (resetTo q c n s), pqSeen := (resetStart q c n s).pqSeen }) (grows : Grows s t) : QueueStep s t := by
    have pq : t.pq = s.pq.put q (resetTo q c n s) := congrArg Beyond.pq b
    have seen : t.pqSeen = (resetStart q c n s).pqSeen := congrArg Beyond.pqSeen b
    refine ⟨?_, grows⟩
    rw [pq, seen]
    exact b
  have grows := (resetQueue_raises q c n s).1
  rw [resetQueue_eq] at grows ⊢
  split
  next late =>
    rw [if_pos late] at grows
    have same : (raise 0x7002 q.val (lostItems (s.pq.get q)) (raise 0x7001 q.val (lostItems (s.pq.get q)) (resetStart q c n s))).fab = (raise 0x7001 q.val (lostItems (s.pq.get q)) (resetStart q c n s)).fab := congrArg Beyond.fab (third.trans first.symm)
    rw [settlePorts_still same] at grows ⊢
    exact step _ third grows
  next early =>
    rw [if_neg early] at grows
    exact step _ first grows

theorem passQueue_step {q : QId} (ifc : IfcQueue q) (c : Fin 8) (n : Nat) (s : State) : QueueStep s (passQueue q c n s).2 := by
  have checked : QueueStep s (checkQueue q s) := by
    unfold checkQueue
    split
    · exact resetQueue_ifc ifc _ _ _
    · exact ⟨rfl, .refl s⟩
  unfold passQueue
  generalize checkQueue q s = u at checked
  have put (x : PQueue) : QueueStep s { u with pq := u.pq.put q x } := by
    refine ⟨?_, checked.2.trans (.of_eq rfl)⟩
    have b := checked.1
    exact congrArg (fun b : Beyond => { b with pq := u.pq.put q x }) b
  dsimp only
  split
  · exact put _
  · exact put _

/-! ## A queue whose marks agree (R430, R433) -/

theorem checkQueue_sound {q : QId} {s : State} (sound : badChain (s.pq.get q) = none) : checkQueue q s = s := by
  unfold checkQueue
  rw [sound]

theorem passQueue_room {q : QId} {c : Fin 8} {n : Nat} {s : State} (sound : badChain (s.pq.get q) = none) (room : ((s.pq.get q).chains.get c).occ + n ≤ qDepth q) :
    passQueue q c n s = (true, { s with pq := s.pq.put q { s.pq.get q with packets := wrapInc 16 (s.pq.get q).packets, hwm := max (s.pq.get q).hwm (((s.pq.get q).chains.get c).occ + n) } }) := by
  unfold passQueue
  rw [checkQueue_sound sound]
  exact if_pos room

theorem passQueue_full {q : QId} {c : Fin 8} {n : Nat} {s : State} (sound : badChain (s.pq.get q) = none) (full : qDepth q < ((s.pq.get q).chains.get c).occ + n) :
    passQueue q c n s = (false, { s with pq := s.pq.put q { s.pq.get q with full := satInc 8 (s.pq.get q).full } }) := by
  unfold passQueue
  rw [checkQueue_sound sound]
  exact if_neg (by omega)

/-! ## Transmission on several interfaces (R502, R503) -/

/-- The chains of every queue stand. -/
def ChainsKept (s : State) (pq : Tab QId PQueue) : Prop := ∀ q, (pq.get q).chains = (s.pq.get q).chains

theorem ChainsKept.put {s : State} {pq : Tab QId PQueue} (kept : ChainsKept s pq) {q : QId} {x : PQueue} (same : x.chains = (pq.get q).chains) : ChainsKept s (pq.put q x) := fun p => by
  rw [Tab.get_put]
  split
  next here => subst here; exact same.trans (kept _)
  next => exact kept p

theorem ChainsKept.sound {s : State} {pq : Tab QId PQueue} (kept : ChainsKept s pq) {q : QId} (sound : badChain (s.pq.get q) = none) : badChain (pq.get q) = none := by
  unfold badChain at sound ⊢
  rw [kept]
  exact sound

/-- The interface's bit. -/
def ifcBit (mask : Nat) (i : Fin 3) : Nat := if mask.testBit i.val then 2 ^ i.val else 0

/-- With room the interface's bit joins; with none it does not, and nothing but a count changes. -/
theorem sendOn_spec {mask len : Nat} {c : Fin 8} {s : State} {pq : Tab QId PQueue} (kept : ChainsKept s pq) (sound : ∀ q, badChain (s.pq.get q) = none) (n : Nat) (i : Fin 3) :
    ∃ pq', ChainsKept s pq' ∧
      ((mask.testBit i.val = true → ((s.pq.get (txQ i)).chains.get c).occ + itemWords s i len ≤ qDepth (txQ i)) → sendOn mask len c (n, { s with pq := pq }) i = (n + ifcBit mask i, { s with pq := pq' })) ∧
      ((mask.testBit i.val = true → qDepth (txQ i) < ((s.pq.get (txQ i)).chains.get c).occ + itemWords s i len) → sendOn mask len c (n, { s with pq := pq }) i = (n, { s with pq := pq' })) := by
  have words : itemWords { s with pq := pq } i len = itemWords s i len := rfl
  unfold sendOn ifcBit
  cases bit : mask.testBit i.val with
  | false => exact ⟨pq, kept, fun _ => rfl, fun _ => rfl⟩
  | true =>
    have clean := kept.sound (sound (txQ i))
    by_cases room : ((s.pq.get (txQ i)).chains.get c).occ + itemWords s i len ≤ qDepth (txQ i)
    · have passes := passQueue_room (s := { s with pq := pq }) (c := c) (n := itemWords s i len) clean (by rw [kept]; exact room)
      refine ⟨_, kept.put (q := txQ i) (x := { pq.get (txQ i) with packets := wrapInc 16 (pq.get (txQ i)).packets, hwm := max (pq.get (txQ i)).hwm (((pq.get (txQ i)).chains.get c).occ + itemWords s i len) }) rfl, fun _ => ?_, fun full => absurd (full rfl) (by omega)⟩
      rw [if_neg (by decide)]
      dsimp only
      rw [words, passes]
      rfl
    · have refused := passQueue_full (s := { s with pq := pq }) (c := c) (n := itemWords s i len) clean (by rw [kept]; omega)
      refine ⟨_, kept.put (q := txQ i) (x := { pq.get (txQ i) with full := satInc 8 (pq.get (txQ i)).full }) rfl, fun fits => absurd (fits rfl) room, fun _ => ?_⟩
      rw [if_neg (by decide)]
      dsimp only
      rw [words, refused]
      rfl

theorem ifcBits (mask : Nat) (few : mask < 8) : 0 + ifcBit mask 0 + ifcBit mask 1 + ifcBit mask 2 = mask := by
  unfold ifcBit
  revert mask
  decide

/-- A message of a record, on interfaces that all have room or that all have none. -/
theorem sendMessage_spec (s : State) (m : Fin 256) (mask : Nat) (c : Fin 8) (b : List Byte) (sound : ∀ q, badChain (s.pq.get q) = none) (some : 0 < mask) (few : mask < 8) :
    let t := sendMessage m mask c b s;
    ((∀ i : Fin 3, mask.testBit i.val = true → ((s.pq.get (txQ i)).chains.get c).occ + itemWords s i b.length ≤ qDepth (txQ i)) → t = { s with pq := t.pq, out := .msg (s.pu 0xA1 m 0) mask (s.pu 0xA1 m 8) (s.pu 0xA1 m 12) b :: s.out }) ∧
      ((∀ i : Fin 3, mask.testBit i.val = true → qDepth (txQ i) < ((s.pq.get (txQ i)).chains.get c).occ + itemWords s i b.length) → t = { s with pq := t.pq }) := by
  intro t
  obtain ⟨pq0, kept0, room0, full0⟩ := sendOn_spec (mask := mask) (len := b.length) (c := c) (s := s) (pq := s.pq) (fun _ => rfl) sound 0 0
  have run : t = (let r := sendOn mask b.length c (sendOn mask b.length c (sendOn mask b.length c (0, s) 0) 1) 2; if r.1 = 0 then r.2 else send (.msg (s.pu 0xA1 m 0) r.1 (s.pu 0xA1 m 8) (s.pu 0xA1 m 12) b) r.2) := rfl
  clear_value t
  refine ⟨fun room => ?_, fun full => ?_⟩
  · obtain ⟨pq1, kept1, room1, -⟩ := sendOn_spec (mask := mask) (len := b.length) (c := c) kept0 sound (0 + ifcBit mask 0) 1
    obtain ⟨pq2, -, room2, -⟩ := sendOn_spec (mask := mask) (len := b.length) (c := c) kept1 sound (0 + ifcBit mask 0 + ifcBit mask 1) 2
    rw [room0 (room 0), room1 (room 1), room2 (room 2), ifcBits mask few] at run
    dsimp only at run
    rw [if_neg (by omega)] at run
    rw [run]
    rfl
  · obtain ⟨pq1, kept1, -, full1⟩ := sendOn_spec (mask := mask) (len := b.length) (c := c) kept0 sound 0 1
    obtain ⟨pq2, -, -, full2⟩ := sendOn_spec (mask := mask) (len := b.length) (c := c) kept1 sound 0 2
    rw [full0 (full 0), full1 (full 1), full2 (full 2)] at run
    rw [run]
    rfl

/-! ## A message out of its queue (R504, R505) -/

theorem trailerOk_cat {s t : State} (cat : t.cat = s.cat) (m : Fin 256) (b : List Byte) : trailerOk t m b = trailerOk s m b := by
  unfold trailerOk
  rw [pu_cat cat, pu_cat cat]

theorem msgCounter_cat {s t : State} (cat : t.cat = s.cat) (m : Fin 256) (b : List Byte) : msgCounter t m b = msgCounter s m b := by
  unfold msgCounter
  rw [pu_cat cat]

/-- A control function is no Status message. -/
theorem taken_unobserved {s : State} {m : Fin 256} {ifc : Fin 3} {b : List Byte} (taken : msgTaken s m ifc = true) : observesStatus s m ifc b = false := by
  have control : (payloadLen (s.pu 0xA1 m 0)).isSome = true := by
    unfold msgTaken at taken
    simp only [Bool.and_eq_true] at taken
    exact taken.1.2
  have other : decide (s.pu 0xA1 m 0 = 0x20) = false := by
    refine decide_eq_false fun h => ?_
    rw [h] at control
    cases control
  unfold observesStatus
  rw [other]
  simp only [Bool.and_false, Bool.false_and]

theorem controlMessage_judged {s : State} {m : Fin 256} {ifc : Fin 3} {b : List Byte} (taken : msgTaken s m ifc = true) (room : (passQueue (rxQ ifc) 6 (itemWords s ifc b.length) s).1 = true) :
    execControlMessageReceived m ifc b s = .next (judgeMessage m ifc b (passQueue (rxQ ifc) 6 (itemWords s ifc b.length) s).2) := by
  unfold execControlMessageReceived
  dsimp only
  rw [taken_unobserved taken, if_neg (by decide), if_neg (by rw [taken]; decide), if_pos room]

/-- What a verdict on a counter does. -/
def judgedBy (v : Verdict) (m : Fin 256) (ifc : Fin 3) (cnt : Nat) (b : List Byte) (u : State) : State :=
  match v with
  | .accept lost => acceptMsg m ifc cnt lost b u
  | .again => updStream m (fun x => { x with repeats := satInc 8 x.repeats }) u
  | .reject => rejectMsg m (some cnt) u
  | .hold => updStream m (fun x => { x with lastGood := some cnt }) u

/-- The verdict on a message, read in the state before the queue. -/
theorem judgeMessage_eq {s u : State} (step : QueueStep s u) (m : Fin 256) (ifc : Fin 3) (b : List Byte) : judgeMessage m ifc b u = if trailerOk s m b = false then rejectMsg m none u
    else judgedBy (judgeCounter (s.vif.streams.get m).started (s.vif.streams.get m).resync (s.vif.streams.get m).lastGood (s.vif.streams.get m).lastCnt (msgCounter s m b)) m ifc (msgCounter s m b) b u := by
  unfold judgeMessage
  dsimp only
  rw [trailerOk_cat step.cat, msgCounter_cat step.cat, step.vif]
  rfl

theorem rejectMsg_spec {s u : State} (step : QueueStep s u) (m : Fin 256) (good : Option Nat) : active 0x7804 m.val (rejectMsg m good u) = true ∧ Grows s (rejectMsg m good u) ∧
    SameButFaults { u with vif := { s.vif with streams := s.vif.streams.upd m (fun x => { x with reject := satInc 8 x.reject, resync := true, lastGood := good }) } } (rejectMsg m good u) := by
  rw [← step.vif]
  obtain ⟨told, grows, same⟩ := raise_besideVif (c := 0x7804) (i := m.val) (m := 0) (v := { u.vif with streams := u.vif.streams.upd m (fun x => { x with reject := satInc 8 x.reject, resync := true, lastGood := good }) }) (s := u) (fun s => by simp [classOf, codesF0])
  exact ⟨told, step.2.trans grows, same⟩

/-- A refused message counts on its interface and touches no stream. -/
theorem rxRefused_ifc (ifc : Fin 3) (s : State) : active 0x7806 ifc.val (rxRefused (rxQ ifc) s) = true ∧ Grows s (rxRefused (rxQ ifc) s) ∧ (rxRefused (rxQ ifc) s).vif.streams = s.vif.streams ∧ (rxRefused (rxQ ifc) s).vif.txCnt = s.vif.txCnt ∧
    (ifc = 0 → ((rxRefused (rxQ ifc) s).vif.can.get 0).rxdrop = satInc 8 (s.vif.can.get 0).rxdrop) ∧ (ifc = 1 → ((rxRefused (rxQ ifc) s).vif.can.get 1).rxdrop = satInc 8 (s.vif.can.get 1).rxdrop) ∧ (ifc = 2 → (rxRefused (rxQ ifc) s).vif.ethDrop = satInc 8 s.vif.ethDrop) := by
  have can (n : Fin 2) : active 0x7806 n.val (raise 0x7806 n.val 0 { s with vif := { s.vif with can := s.vif.can.upd n (fun c => { c with rxdrop := satInc 8 c.rxdrop }) } }) = true ∧ Grows s (raise 0x7806 n.val 0 { s with vif := { s.vif with can := s.vif.can.upd n (fun c => { c with rxdrop := satInc 8 c.rxdrop }) } }) ∧
      (raise 0x7806 n.val 0 { s with vif := { s.vif with can := s.vif.can.upd n (fun c => { c with rxdrop := satInc 8 c.rxdrop }) } }).vif = { s.vif with can := s.vif.can.upd n (fun c => { c with rxdrop := satInc 8 c.rxdrop }) } :=
    ⟨raise_active _ _ _ _, (raise_besideVif (s := s) (fun s => by simp [classOf, codesF0])).2.1, raise_vif _ _ _ _⟩
  have ifcs : ifc = 0 ∨ ifc = 1 ∨ ifc = 2 := by revert ifc; decide
  rcases ifcs with e | e | e
  · subst e
    obtain ⟨told, grows, vif⟩ := can 0
    exact ⟨told, grows, (congrArg Vif.streams vif :), (congrArg Vif.txCnt vif :), fun _ => (congrArg (fun v : Vif => (v.can.get 0).rxdrop) vif).trans (congrArg CanSt.rxdrop (Tab.get_upd_same _ _ _)), fun h => absurd h (by decide), fun h => absurd h (by decide)⟩
  · subst e
    obtain ⟨told, grows, vif⟩ := can 1
    exact ⟨told, grows, (congrArg Vif.streams vif :), (congrArg Vif.txCnt vif :), fun h => absurd h (by decide), fun _ => (congrArg (fun v : Vif => (v.can.get 1).rxdrop) vif).trans (congrArg CanSt.rxdrop (Tab.get_upd_same _ _ _)), fun h => absurd h (by decide)⟩
  · subst e
    obtain ⟨told, grows, -⟩ := raise_besideVif (c := 0x7806) (i := 2) (m := 0) (v := { s.vif with ethDrop := satInc 8 s.vif.ethDrop }) (s := s) (fun s => by simp [classOf, codesF0])
    have vif : (raise 0x7806 2 0 { s with vif := { s.vif with ethDrop := satInc 8 s.vif.ethDrop } }).vif = { s.vif with ethDrop := satInc 8 s.vif.ethDrop } := raise_vif _ _ _ _
    exact ⟨told, grows, (congrArg Vif.streams vif :), (congrArg Vif.txCnt vif :), fun h => absurd h (by decide), fun h => absurd h (by decide), fun _ => (congrArg Vif.ethDrop vif :)⟩

/-- Europa's write of a setpoint that lies in its 28 bits. -/
theorem lvcWrite_spec {slew vset : Nat} (s : State) (a : slew < 4096) (b : vset < 65536) : SameButFaults { s with lvc := { s.lvc with cmd := some (slew, vset) } } (lvcWrite (slew * 65536 + vset) s) := by
  unfold lvcWrite
  dsimp only
  rw [show (slew * 65536 + vset) / 65536 % 4096 = slew by omega, show (slew * 65536 + vset) % 65536 = vset by omega]
  split
  · exact raiseBase_same 0x3808 noInst 0 { s with lvc := { s.lvc with cmd := some (slew, vset) } }
  · exact .refl _

end Sys2Proof.Machine
end

section
/-! Received and transmitted messages. -/

namespace Sys2Proof.Machine

/-- Settles O55: a received message by its queue, its trailer and its counter, the fields by their function, a transmission by `sendMessage_spec`. -/
theorem messageStreams : Obligations.MessageStreams := by
  unfold Obligations.MessageStreams
  refine ⟨fun s m ifc b n taken room trailer verdict => ?accept, judgeCounter_spec, fun s m ifc b taken room => ?judged, fun s m ifc b => ?refused, fun s q c n sound => ⟨passQueue_room sound, passQueue_full sound⟩, fun b s => ?fields, fun s m ms rec_ control valid => ?timeout, fun s m rec_ owner live => ?transmit, sendMessage_spec⟩
  case accept =>
    intro u
    have step : QueueStep s u := passQueue_step (rxQ_ifc ifc) 6 (itemWords s ifc b.length) s
    have run := controlMessage_judged taken room
    rw [judgeMessage_eq step, if_neg (by rw [trailer]; decide), verdict] at run
    refine ⟨_, run, clearF 0x7805 m.val (updStream m (fun x => { x with valid := true, timeout := false, started := true, resync := false, lastGood := none, lastCnt := msgCounter s m b, lastIf := ifc.val, lost := satAdd 8 x.lost n }) u), ?_, clearF_inactive _ _ _ (by decide), fun c i lost other => clearF_other 0x7805 m.val c i _ lost other, ?_⟩
    · show applyMessage (u.pu 0xA1 m 0) b _ = _
      rw [pu_cat step.cat]
    · rw [← step.vif]
      exact clearF_same _ _ _
  case judged =>
    intro u x v
    have step : QueueStep s u := passQueue_step (rxQ_ifc ifc) 6 (itemWords s ifc b.length) s
    have run := controlMessage_judged taken room
    rw [judgeMessage_eq step] at run
    refine ⟨fun trailer same => ?_, fun trailer held => ?_, fun bad => ?_⟩
    · rw [if_neg (by rw [trailer]; decide), show judgeCounter _ _ _ _ _ = _ from same] at run
      rw [← step.vif]
      exact run
    · rw [if_neg (by rw [trailer]; decide), show judgeCounter _ _ _ _ _ = _ from held] at run
      rw [← step.vif]
      exact run
    · cases trailer : trailerOk s m b with
      | false =>
        rw [if_pos trailer] at run
        exact ⟨_, run, rejectMsg_spec step m none⟩
      | true =>
        rw [if_neg (by rw [trailer]; decide), show judgeCounter _ _ _ _ _ = _ from bad.resolve_left (by rw [trailer]; decide)] at run
        exact ⟨_, run, rejectMsg_spec step m _⟩
  case refused =>
    have step : QueueStep s (passQueue (rxQ ifc) 6 (itemWords s ifc b.length) s).2 := passQueue_step (rxQ_ifc ifc) 6 (itemWords s ifc b.length) s
    refine ⟨fun none other => ?_, fun observed room => ?_, fun some full => ?_⟩
    · exact (if_neg (by rw [other]; decide)).trans (if_pos none)
    · refine (if_pos observed).trans ?_
      rw [room, ← step.vif]
      rfl
    · have run : execControlMessageReceived m ifc b s = .next (rxRefused (rxQ ifc) (passQueue (rxQ ifc) 6 (itemWords s ifc b.length) s).2) := by
        unfold execControlMessageReceived
        dsimp only
        rw [full]
        cases observed : observesStatus s m ifc b with
        | true => rfl
        | false => rw [if_neg (by decide), if_neg (by rw [some.resolve_right (by rw [observed]; decide)]; decide)]; rfl
      have refused := rxRefused_ifc ifc (passQueue (rxQ ifc) 6 (itemWords s ifc b.length) s).2
      rw [step.vif] at refused
      obtain ⟨told, grows, rest⟩ := refused
      exact ⟨_, run, told, step.2.trans grows, rest⟩
  case fields =>
    refine ⟨rfl, rfl, rfl, fun kept => if_pos kept, fun mode role => ?_, rfl⟩
    have applied : applyMessage 5 b s = lvcWrite (min (uAt b 2 2) 4095 * 65536 + uAt b 0 2) (europaLimit s) := if_neg (not_or.2 ⟨mode, role⟩)
    have same := lvcWrite_spec (europaLimit s) (show min (uAt b 2 2) 4095 < 4096 by omega) (show uAt b 0 2 < 65536 from uAt_lt b 0 2)
    rw [← applied] at same
    have limit : (applyMessage 5 b s).lvc.limit = (europaLimit s).lvc.limit := by rw [same]
    rw [limit]
    exact same
  case timeout =>
    intro f
    refine ⟨fun late => ?_, fun early => if_neg fun h => absurd h.2.2.2 (not_le.2 early)⟩
    obtain ⟨told, grows, same⟩ := raise_besideVif (c := 0x7805) (i := m.val) (m := f) (v := { s.vif with streams := s.vif.streams.upd m (fun x => { x with valid := false, timeout := true, touts := satInc 8 x.touts }) }) (s := s) (fun s => by simp [classOf, codesF0, codesF1])
    obtain ⟨v, hv⟩ : ∃ v, v = raise 0x7805 m.val f { s with vif := { s.vif with streams := s.vif.streams.upd m (fun x => { x with valid := false, timeout := true, touts := satInc 8 x.touts }) } } := ⟨_, rfl⟩
    have run : execStreamTimeout m ms s = .next (lostMessage f v) := by
      rw [hv]
      exact if_pos ⟨rec_, control, valid, late⟩
    rw [← hv] at told grows same
    clear hv
    have tm : v.tm = s.tm := by rw [same]
    have veh : v.veh = s.veh := by rw [same]
    have chg : v.chg = s.chg := by rw [same]
    have battery : lostMessage 4 v = if inSession s then raise 0x4007 noInst 0 { v with veh := { s.veh with bms := none } } else { v with veh := { s.veh with bms := none } } := by
      show (if inSession { v with veh := { v.veh with bms := none } } then _ else _) = _
      unfold inSession
      rw [← chg, ← veh]
    refine ⟨_, run, v, told, grows, same, fun e => ?_, fun e => ?_, fun e => ?_, fun e => ?_, fun e idle => ?_, fun e runs => ?_⟩
    all_goals rw [e]
    · rw [← tm]; rfl
    · rw [← veh]; rfl
    · rw [← tm]; rfl
    · rfl
    · exact battery.trans (if_neg (by rw [idle]; decide))
    · exact battery.trans (if_pos runs)
  case transmit =>
    intro f c
    refine ⟨fun pair follows => ?_, fun leads => ?_⟩
    · have idle : transmits s = false := by
        unfold transmits
        rw [pair, decide_eq_false follows]
        rfl
      exact if_pos (.inr (.inl idle))
    · have sends : transmits s = true := by
        unfold transmits
        rcases leads with single | lead
        · rw [single]; rfl
        · rw [decide_eq_true lead, Bool.or_true]
      have serves : ¬(s.hasRec 0xA1 m = false ∨ transmits s = false ∨ ownerRuns s (s.pu 0xA1 m 0) = false ∨ liveMask s m = 0) := by
        rw [rec_, sends, owner]
        simpa using live
      exact ⟨fun status => (if_neg serves).trans (if_pos status), fun low high => (if_neg serves).trans ((if_neg fun h => absurd h (show ¬f = 0x20 by omega)).trans (if_pos ⟨low, high⟩))⟩

end Sys2Proof.Machine
end

section
/-! SUPPORT. Requests of the diagnostic protocol (20_vehicle_interfaces.md, R506, R507): what a served path answers, and the status of a DTC. -/

namespace Sys2Proof.Machine

/-! ## Answers (R506) -/

theorem udsPos_asked {p : UPath} {b : List Byte} {s : State} (served : s.udsServed p = true) : udsPos p b (askedBy p s) = { askedBy p s with out := .uds p (s.udsResp p) b :: s.out } := udsPos_eq (s := askedBy p s) served

theorem udsNeg_asked {p : UPath} {sid nrc : Nat} {s : State} (served : s.udsServed p = true) : udsNeg p sid nrc (askedBy p s) = { askedBy p s with out := .uds p (s.udsResp p) [0x7F, BitVec.ofNat 8 sid, BitVec.ofNat 8 nrc] :: s.out } := udsNeg_eq (s := askedBy p s) served

theorem addressed_off {s : State} {p : UPath} (none : (s.udsIds p).2.2 = 0xFFFFFFFF) : addressed s p true = false := by
  unfold addressed
  rw [none]
  rfl

/-! ## Sessions (R506, R523) -/

theorem setSession_eq (p : UPath) (n : Nat) (s : State) : setSession p n s = { s with uds := { s.uds with session := s.uds.session.put p n, unlocks := if n = 1 then s.uds.unlocks.filter (fun u => decide (u.1 ≠ p)) else s.uds.unlocks }, sec := { s.sec with challenge := if s.uds.session.get p ≠ n then none else s.sec.challenge } } := by
  unfold setSession
  dsimp only
  by_cases new : s.uds.session.get p ≠ n
  · rw [if_pos (decide_eq_true new), if_pos new]
  · rw [if_neg (by simpa using new), if_neg new]

theorem execDiagnosticSessionControl_eq {s : State} {p : UPath} {sub : Nat} {fn : Bool} (here : addressed s p fn = true) : execDiagnosticSessionControl p sub fn s = .next (udsServe p 0x10 [] 0 (fun s =>
    if sub = 1 ∨ sub = 2 ∨ sub = 3 then udsPos p [0x50, BitVec.ofNat 8 sub, 0x00, 0x32, 0x01, 0xF4] (setSession p sub s) else udsNeg p 0x10 0x12 s) s) := if_neg (by rw [here]; decide)

theorem execTesterPresent_eq {s : State} {p : UPath} {sub : Nat} {fn : Bool} (here : addressed s p fn = true) : execTesterPresent p sub fn s = .next (udsServe p 0x3E [] 0 (fun s =>
    if sub = 0 then udsPos p [0x7E, 0x00] s else if sub = 0x80 then s else udsNeg p 0x3E 0x12 s) s) := if_neg (by rw [here]; decide)

/-! ## DTCs (R507) -/

/-- Bit 0 and bit 3 of a status byte. -/
theorem statusBits (a b : Bool) : b2n a + 8 * b2n b < 16 ∧ (b2n a + 8 * b2n b).testBit 0 = a ∧ (b2n a + 8 * b2n b).testBit 3 = b ∧ (b2n a + 8 * b2n b).testBit 1 = false ∧ (b2n a + 8 * b2n b).testBit 2 = false := by
  revert a b
  decide

/-- The faults whose bit 3 a clear ends: those of the log that are inactive. -/
def clearedCodes (s : State) : List Nat := (((loggedRecs s).map (·.code)).filter (fun c => !activeCode c s)).dedup

theorem mem_clearedCodes (s : State) (c : Nat) : c ∈ clearedCodes s ↔ activeCode c s = false ∧ ∃ r ∈ loggedRecs s, r.code = c := by
  unfold clearedCodes
  simp only [List.mem_dedup, List.mem_filter, List.mem_map, Bool.not_eq_true']
  exact and_comm

theorem mem_clears (s : State) (c : Nat) : c ∈ clearedCodes s ++ s.uds.dtcClr.filter (fun c => !(clearedCodes s).contains c) ↔ c ∈ s.uds.dtcClr ∨ (activeCode c s = false ∧ ∃ r ∈ loggedRecs s, r.code = c) := by
  rw [List.mem_append, List.mem_filter, ← mem_clearedCodes]
  by_cases cleared : c ∈ clearedCodes s
  · simp [cleared]
  · simp [cleared]

end Sys2Proof.Machine
end

section
/-! Diagnostic sessions. -/

namespace Sys2Proof.Machine

/-- Settles O56: each request by `udsServe_asked` and the branch of its sub-function, the checks by the branches of `udsNrc`. -/
theorem diagnosticSessions : Obligations.DiagnosticSessions := by
  unfold Obligations.DiagnosticSessions
  refine ⟨fun s p sub fn served here nrc => ?session, fun s p ms other => ?idle, fun s p sub served nrc => ?reset, fun s p sub fn served here nrc => ?present, fun s p sub mask served nrc => ?read, fun s d => ?status, fun s p group served nrc => ?clear,
    fun s p sub none => ⟨if_pos (addressed_off none), if_pos (addressed_off none)⟩, fun s p sub mask fn => ⟨fun off => ?off, fun served here => ?refused⟩, fun s p n ss l => ?checks⟩
  case session =>
    intro u
    have run := execDiagnosticSessionControl_eq (sub := sub) here
    rw [udsServe_asked served nrc] at run
    refine ⟨fun known => run.trans ?_, fun odd => run.trans ?_⟩
    · rw [if_pos known, setSession_eq]
      exact congrArg Host.Outcome.next (udsPos_eq served)
    · rw [if_neg (by omega), udsNeg_asked served]
      rfl
  case idle =>
    refine ⟨fun late => (if_pos ⟨late, other⟩).trans ?_, fun early => if_neg fun h => absurd h.1 (by omega)⟩
    rw [setSession_eq, if_pos other]
    rfl
  case reset =>
    intro u
    have run : execEcuReset p sub s = .next (if sub ≠ 1 then udsNeg p 0x11 0x12 u else if s.sys.mode = .drive ∨ s.sys.mode = .charge then udsNeg p 0x11 0x22 u else resetN9 { StartCause.none with uds := true } (udsPos p [0x51, 0x01] u)) :=
      congrArg Host.Outcome.next (udsServe_asked served nrc)
    refine ⟨fun odd => run.trans ?_, fun one moving => run.trans ?_, fun one drive charge off ship => ?_⟩
    · rw [if_pos odd]
      exact congrArg Host.Outcome.next (udsNeg_asked served)
    · rw [if_neg (not_not.2 one), if_pos moving]
      exact congrArg Host.Outcome.next (udsNeg_asked served)
    · rw [if_neg (not_not.2 one), if_neg (not_or.2 ⟨drive, charge⟩), show udsPos p [0x51, 0x01] u = { u with out := .uds p (s.udsResp p) [0x51, 0x01] :: s.out } from udsPos_asked served] at run
      have reset (v : State) (mode : v.sys.mode = s.sys.mode) : resetN9 { StartCause.none with uds := true } v = restart (if v.sup.nRst = false ∨ v.sup.railsOut ≠ [] then StartCause.both { StartCause.none with uds := true } v.sup.cause else { StartCause.none with uds := true }) v :=
        if_neg (by rw [mode]; exact not_or.2 ⟨off, ship⟩)
      refine ⟨_, run.trans (congrArg Host.Outcome.next (reset { u with out := .uds p (s.udsResp p) [0x51, 0x01] :: s.out } rfl)), fun high rails => ?_, rfl, ?_, rfl, rfl, endedFlash_congr rfl rfl rfl, rfl⟩
      · have alone : ¬(s.sup.nRst = false ∨ s.sup.railsOut ≠ []) := by
          rw [high, rails]
          decide
        rw [if_neg alone]
        exact ⟨rfl, rfl⟩
      · show (if s.sup.nRst = false ∨ s.sup.railsOut ≠ [] then _ else _ : StartCause).uds = true
        split <;> rfl
  case present =>
    intro u
    have run : execTesterPresent p sub fn s = .next (if sub = 0 then udsPos p [0x7E, 0x00] u else if sub = 0x80 then u else udsNeg p 0x3E 0x12 u) :=
      (execTesterPresent_eq here).trans (congrArg Host.Outcome.next (udsServe_asked served nrc))
    refine ⟨fun zero => run.trans ?_, fun quiet => run.trans ?_, fun some other => run.trans ?_⟩
    · rw [if_pos zero]
      exact congrArg Host.Outcome.next (udsPos_asked served)
    · rw [if_neg (by omega), if_pos quiet]
    · rw [if_neg some, if_neg other]
      exact congrArg Host.Outcome.next (udsNeg_asked served)
  case read =>
    intro a l one
    have run : execReadDtcInformation p sub mask s = .next (if sub = 1 then udsPos p ([0x59, 0x01, 0x09, 0x01] ++ natBe 2 l.length) (askedBy p s)
        else if sub = 2 then udsPos p ([0x59, 0x02, 0x09] ++ l.flatMap one) (askedBy p s)
        else if sub = 0x0A then udsPos p ([0x59, 0x0A, 0x09] ++ (allDtcs s).flatMap one) (askedBy p s)
        else udsNeg p 0x19 0x12 (askedBy p s)) := congrArg Host.Outcome.next (udsServe_asked served nrc)
    refine ⟨fun e => run.trans ?_, fun e => run.trans ?_, fun e => run.trans ?_, fun e1 e2 e3 => run.trans ?_⟩
    · rw [if_pos e]
      exact congrArg Host.Outcome.next (udsPos_asked served)
    · rw [if_neg (by omega), if_pos e]
      exact congrArg Host.Outcome.next (udsPos_asked served)
    · rw [if_neg (by omega), if_neg (by omega), if_pos e]
      exact congrArg Host.Outcome.next (udsPos_asked served)
    · rw [if_neg e1, if_neg e2, if_neg e3]
      exact congrArg Host.Outcome.next (udsNeg_asked served)
  case status =>
    obtain ⟨byte, bit0, bit3, bit1, bit2⟩ := statusBits (s.faults.any (fun f => decide (shownCode f.code = d.1 ∧ f.cls = d.2))) ((loggedRecs s).any (fun r => decide (r.code = d.1 ∧ r.cls = d.2)) && !s.uds.dtcClr.contains d.1)
    refine ⟨byte, ?_, ?_, bit1, bit2⟩
    · show (Nat.testBit (_ + _) 0) = true ↔ _
      rw [bit0, List.any_eq_true]
      simp only [decide_eq_true_eq]
    · show (Nat.testBit (_ + _) 3) = true ↔ _
      rw [bit3, Bool.and_eq_true, List.any_eq_true]
      simp
  case clear =>
    intro u
    have run : execClearDiagnosticInformation p group s = .next (if group ≠ 0xFFFFFF then udsNeg p 0x14 0x31 u
        else udsPos p [0x54] { u with uds := { u.uds with dtcClr := clearedCodes s ++ s.uds.dtcClr.filter (fun c => !(clearedCodes s).contains c) } }) := congrArg Host.Outcome.next (udsServe_asked served nrc)
    refine ⟨fun odd => run.trans ?_, fun all => ⟨_, run.trans ?_, mem_clears s⟩⟩
    · rw [if_pos odd]
      exact congrArg Host.Outcome.next (udsNeg_asked served)
    · rw [if_neg (not_not.2 all)]
      exact congrArg Host.Outcome.next (udsPos_eq served)
  case off =>
    have quiet (sid : Nat) (ss : List Nat) (k : State → State) : Host.Outcome.next (udsServe p sid ss 0 k s) = (.next s : Host.Outcome State Fault Refusal) := congrArg Host.Outcome.next (udsServe_off off)
    intro c mem
    simp only [List.mem_cons, List.not_mem_nil, or_false] at mem
    rcases mem with e | e | e | e | e <;> subst e
    · exact ite_eq_left_iff.2 fun _ => quiet _ _ _
    · exact quiet _ _ _
    · exact ite_eq_left_iff.2 fun _ => quiet _ _ _
    · exact quiet _ _ _
    · exact quiet _ _ _
  case refused =>
    have refuse {sid : Nat} {ss : List Nat} (k : State → State) (bad : s.udsNrc p sid ss 0 ≠ 0) := congrArg (Host.Outcome.next : State → Host.Outcome State Fault Refusal) (udsServe_refused (k := k) served bad)
    intro c n ss mem bad
    simp only [List.mem_cons, List.not_mem_nil, or_false, Prod.mk.injEq] at mem
    rcases mem with ⟨e1, e2, e3⟩ | ⟨e1, e2, e3⟩ | ⟨e1, e2, e3⟩ | ⟨e1, e2, e3⟩ | ⟨e1, e2, e3⟩ <;> subst e1 e2 e3
    · exact (execDiagnosticSessionControl_eq here).trans (refuse _ bad)
    · exact refuse _ bad
    · exact (execTesterPresent_eq here).trans (refuse _ bad)
    · exact refuse _ bad
    · exact refuse _ bad
  case checks =>
    unfold State.udsNrc State.unlocked
    refine ⟨fun off => if_pos off, fun on some out => ?_, fun on in_ level locked => ?_, fun on in_ open_ => ?_⟩
    all_goals rw [if_neg (by rw [on]; decide)]
    · exact if_pos ⟨some, by simpa using out⟩
    · rw [if_neg fun h => in_.elim h.1 (fun mem => by simp [mem] at h)]
      exact if_pos ⟨level, by simpa using locked⟩
    · rw [if_neg fun h => in_.elim h.1 (fun mem => by simp [mem] at h)]
      exact if_neg fun h => open_.elim h.1 (fun mem => by simp [mem] at h)

end Sys2Proof.Machine
end

section
/-! SUPPORT. Reads, writes and routine results of the diagnostic protocol (20_vehicle_interfaces.md, R506; 22_status_faults_log.md, R526 to R529). -/

namespace Sys2Proof.Machine

/-! ## The registers of an identifier (R527) -/

theorem didRegs_other {did : Nat} (other : did ∉ [0xF18C, 0xF195, 0xF1A0, 0xF1A1, 0xF1A2, 0xFE00]) : didRegs did = [] := by
  simp only [List.mem_cons, List.not_mem_nil, or_false, not_or] at other
  obtain ⟨a, b, c, d, e, f⟩ := other
  unfold didRegs
  split <;> first | contradiction | rfl

/-- An answer with the registers of a listed identifier. -/
theorem readDid_listed {s : State} {p : UPath} {did : Nat} (served : s.udsServed p = true) (nrc : s.udsNrc p 0x22 [] 0 = 0) (listed : ¬(didRegs did = [] ∨ (s.life = 4 ∧ did ≠ 0xF18C))) :
    execReadDataByIdentifier p did s = .next { askedBy p s with out := .uds p (s.udsResp p) ([0x62] ++ natBe 2 did ++ (didRegs did).flatMap (fun a => natLe 4 (vitRead (askedBy p s) a))) :: s.out } := by
  unfold execReadDataByIdentifier
  rw [udsServe_asked served nrc]
  exact congrArg Host.Outcome.next ((if_neg listed).trans (udsPos_asked served))

theorem readDid_unlisted {s : State} {p : UPath} {did : Nat} (served : s.udsServed p = true) (nrc : s.udsNrc p 0x22 [] 0 = 0) (unlisted : didRegs did = [] ∨ (s.life = 4 ∧ did ≠ 0xF18C)) :
    execReadDataByIdentifier p did s = .next { askedBy p s with out := .uds p (s.udsResp p) [0x7F, 0x22, 0x31] :: s.out } := by
  unfold execReadDataByIdentifier
  rw [udsServe_asked served nrc]
  exact congrArg Host.Outcome.next ((if_pos unlisted).trans (udsNeg_asked served))

/-! ## Reads of memory (R11, R526, R528) -/

theorem readable_iff (a : Nat) : readable a = true ↔ (0x50000000 ≤ a ∧ a ≤ 0x50012FFF) ∨ (0x51000000 ≤ a ∧ a ≤ 0x5103FFFF) := by
  unfold readable inVitrine inMapStore
  rw [Bool.or_eq_true, decide_eq_true_iff, decide_eq_true_iff]
  omega

theorem readable_all {n a : Nat} : (List.range n).all (fun k => readable (a + 4 * k)) = false ↔ ∃ k < n, readable (a + 4 * k) = false := by
  simp only [List.all_eq_false, List.mem_range, Bool.not_eq_true]

/-- The word that holds an address of the register windows. -/
theorem vitRead_window {a : Nat} (s : State) (low : 0x50000000 ≤ a) (high : a ≤ 0x50012FFF) : vitRead s a = vitWord s ((a - 0x50000000) / 4096) (a / 4 * 4 % 4096) % 2 ^ 32 := by
  unfold vitRead inVitrine
  dsimp only
  rw [if_pos (decide_eq_true (by omega)), show (a / 4 * 4 - 0x50000000) / 4096 = (a - 0x50000000) / 4096 by omega]

theorem vitRead_outside {a : Nat} (s : State) (outside : readable a = false) : vitRead s a = 0 := by
  have out : ¬((0x50000000 ≤ a ∧ a ≤ 0x50012FFF) ∨ (0x51000000 ≤ a ∧ a ≤ 0x5103FFFF)) := fun h => by
    rw [(readable_iff a).2 h] at outside
    cases outside
  unfold vitRead inVitrine inMapStore
  dsimp only
  rw [if_neg (fun h => out (.inl (by have := of_decide_eq_true h; omega))), if_neg (fun h => out (.inr (by have := of_decide_eq_true h; omega)))]

theorem readWords_one (a : Nat) (s : State) : readWords 1 a s = (natLe 4 (vitRead s a), vitClear s a) := Prod.ext (List.append_nil _) rfl

/-- An answer behind reads that cleared their RC fields. -/
theorem udsPos_cleared {p : UPath} {b : List Byte} {s t : State} (served : s.udsServed p = true) (clears : ClearOnly s t) (kept : t.udsServed p = s.udsServed p) : udsPos p b t = { t with out := .uds p (s.udsResp p) b :: s.out } := by
  have cat : t.cat = s.cat := by rw [clears]
  have out : t.out = s.out := by rw [clears]
  rw [udsPos_eq (kept.trans served), udsResp_cat cat, out]

/-! ## The write of LVC_CMD (R303, R529) -/

theorem raiseBase_other {c d i j m : Nat} (s : State) (other : ¬(d = c ∧ j = i)) (drop : d ≠ 0x001A) : active d j (raiseBase c i m s) = active d j s :=
  (noteDrop_other _ _ _ drop).trans (raiseEntry_other _ _ _ _ _ _ _ other)

theorem lvcWrite_same (v : Nat) (s : State) : SameButFaults { s with lvc := { s.lvc with cmd := some (v / 65536 % 4096, v % 65536) } } (lvcWrite v s) := by
  unfold lvcWrite
  dsimp only
  split
  · exact raiseBase_same 0x3808 noInst 0 _
  · exact .refl _

theorem lvcWrite_active {c i : Nat} (v : Nat) (s : State) (other : c ≠ 0x3808) (drop : c ≠ 0x001A) : active c i (lvcWrite v s) = active c i s := by
  unfold lvcWrite
  dsimp only
  split
  · exact raiseBase_other _ (fun h => other h.1) drop
  · rfl

theorem lvcWrite_served (v : Nat) (s : State) (p : UPath) : (lvcWrite v s).udsServed p = s.udsServed p :=
  (lvcWrite_same v s).served (fun c i code => (lvcWrite_active v s (by omega) (by omega)).trans rfl) p

/-- The answer of a write, behind it. -/
theorem udsPos_lvcWrite {p : UPath} {v : Nat} {b : List Byte} {s : State} (served : s.udsServed p = true) :
    Grows s (udsPos p b (lvcWrite v s)) ∧ SameButFaults { s with lvc := { s.lvc with cmd := some (v / 65536 % 4096, v % 65536) }, out := .uds p (s.udsResp p) b :: s.out } (udsPos p b (lvcWrite v s)) := by
  have same := lvcWrite_same v s
  have grows := lvcWrite_grows v s
  have kept := lvcWrite_served v s p
  generalize lvcWrite v s = t at same grows kept
  have cat : t.cat = s.cat := by rw [same]
  have out : t.out = s.out := by rw [same]
  rw [udsPos_eq (kept.trans served), udsResp_cat cat, out]
  exact ⟨grows.trans (.of_eq rfl), same.out _⟩

/-! ## Routines (R499, R506, R522) -/

theorem routineNrc_zero (s : State) (p : UPath) (rid : Nat) : s.routineNrc p rid = 0 ↔
    s.udsOffered 0x31 = true ∧ s.uds.session.get p = (if decide (rid / 256 = 0xF1) then 2 else 3) ∧ (p, if decide (rid / 256 = 0xF1) then 3 else 1) ∈ s.uds.unlocks ∧ s.svcEn (routineBit rid) = true ∧ s.udsServed p = true ∧ (s.cat.recovery = true → decide (rid / 256 = 0xF1) = true) := by
  unfold State.routineNrc State.unlocked
  dsimp only
  generalize decide (rid / 256 = 0xF1) = st
  by_cases a : s.udsOffered 0x31 = false
  · simp [a]
  by_cases b : s.uds.session.get p ≠ (if st then 2 else 3)
  · simp [a, b]
  by_cases c : s.uds.unlocks.contains (p, if st then 3 else 1) = false
  · rw [if_neg a, if_neg b, if_pos c]
    have out : (p, if st then 3 else 1) ∉ s.uds.unlocks := fun h => by
      rw [List.contains_iff_mem.2 h] at c
      cases c
    exact ⟨fun h => absurd h (by decide), fun h => absurd h.2.2.1 out⟩
  rw [if_neg a, if_neg b, if_neg c]
  rw [Bool.not_eq_false] at a c
  simp only [a, not_not.1 b, List.contains_iff_mem.1 c, true_and]
  cases s.svcEn (routineBit rid) <;> cases s.udsServed p <;> cases s.cat.recovery <;> cases st <;> decide

/-! ## Services outside the subset (R506) -/

/-- The services with sub-functions, each with them. -/
def servicesWithSubs : List (Nat × List Nat) := [(0x10, [1, 2, 3]), (0x11, [1]), (0x19, [1, 2, 0x0A]), (0x27, [0x01, 0x02, 0x03, 0x04, 0x61, 0x63, 0x64, 0x65, 0x66]), (0x31, [1, 3]), (0x3E, [0, 0x80])]

theorem servicesWithSubs_spec : ∀ x ∈ servicesWithSubs, serviceIds.contains x.1 = true ∧ subFunctions x.1 = x.2 ∧ x.2 ≠ [] := by decide

end Sys2Proof.Machine
end

section
/-! Diagnostic data. -/

namespace Sys2Proof.Machine

/-- Settles O57: each request by `udsServe_asked` and the branches of its service, a read of memory by what its reads clear, a write by `lvcWrite_same`. -/
theorem diagnosticData : Obligations.DiagnosticData := by
  unfold Obligations.DiagnosticData
  refine ⟨fun s p did served nrc => ?byId, fun s p f a n served nrc => ?memory, fun s p did v served nrc => ?write, fun s p rid served nrc => ?results, fun s p rid => routineNrc_zero s p rid, fun s p sid sub other => ?functional,
    fun s p sid sub fn served here => ?unsupported, fun s p f a n v sub fn => ⟨fun off => ?off, fun served => ?refused⟩, fun s a => ⟨readable_iff a, fun low high => ⟨vitRead_window s low high, by omega⟩, vitRead_outside s⟩⟩
  case byId =>
    refine ⟨fun is => ?_, fun life => ⟨fun is => ?_, fun is => ?_, fun is => ?_, fun is => ?_, fun is => ?_⟩, fun no => ?_⟩
    · subst is
      exact readDid_listed served nrc (fun h => h.elim (fun e => (nomatch e)) (fun e => e.2 rfl))
    · subst is
      exact readDid_listed served nrc (fun h => h.elim (fun e => (nomatch e)) (fun e => life e.1))
    · subst is
      exact readDid_listed served nrc (fun h => h.elim (fun e => (nomatch e)) (fun e => life e.1))
    · subst is
      exact readDid_listed served nrc (fun h => h.elim (fun e => (nomatch e)) (fun e => life e.1))
    · subst is
      exact readDid_listed served nrc (fun h => h.elim (fun e => (nomatch e)) (fun e => life e.1))
    · subst is
      exact readDid_listed served nrc (fun h => h.elim (fun e => (nomatch e)) (fun e => life e.1))
    · exact readDid_unlisted served nrc (no.imp didRegs_other id)
  case memory =>
    intro u r bad
    have run : execReadMemoryByAddress p f a n s = .next (if f ≠ 0x14 ∨ n = 0 ∨ 256 < n ∨ n % 4 ≠ 0 ∨ a % 4 ≠ 0 ∨ (List.range (n / 4)).all (fun k => readable (a + 4 * k)) = false then udsNeg p 0x23 0x31 (askedBy p s) else udsPos p ([0x63] ++ (readWords (n / 4) a (askedBy p s)).1) (readWords (n / 4) a (askedBy p s)).2) :=
      congrArg Host.Outcome.next (udsServe_asked served nrc)
    simp only [readable_all] at run
    obtain ⟨clears, length, kept⟩ := readWords_frame (n / 4) a (askedBy p s)
    have answer : ¬bad → exec (.readMemoryByAddress p f a n) s = .next { r.2 with out := .uds p (s.udsResp p) ([0x63] ++ r.1) :: s.out } := fun good =>
      run.trans (congrArg Host.Outcome.next ((if_neg good).trans (udsPos_cleared (s := askedBy p s) served clears (kept p))))
    refine ⟨fun is => run.trans (congrArg Host.Outcome.next ((if_pos is).trans (udsNeg_asked served))), fun good => ⟨answer good, length.trans ?_, clears⟩, fun good one => (answer good).trans ?_⟩
    · by_contra odd
      exact good (.inr (.inr (.inr (.inl (by omega)))))
    · subst one
      have word : r = (natLe 4 (vitRead u a), vitClear u a) := readWords_one a u
      rw [word]
  case write =>
    intro u
    have run : execWriteDataByIdentifier p did v s = .next (if did ≠ 0xFE00 then udsNeg p 0x2E 0x31 (askedBy p s) else udsPos p [0x6E, 0xFE, 0x00] (if s.fn 5 then lvcWrite (v % 2 ^ 32) (askedBy p s) else askedBy p s)) :=
      congrArg Host.Outcome.next (udsServe_asked served nrc)
    refine ⟨fun other => run.trans ?_, fun is absent => run.trans ?_, fun is present => ⟨_, run, ?_⟩⟩
    · rw [if_pos other, udsNeg_asked served]
      rfl
    · rw [if_neg (not_not.2 is), absent, if_neg Bool.false_ne_true, udsPos_asked served]
      rfl
    · rw [if_neg (not_not.2 is), if_pos present]
      obtain ⟨grows, same⟩ := udsPos_lvcWrite (p := p) (v := v % 2 ^ 32) (b := [0x6E, 0xFE, 0x00]) (s := askedBy p s) served
      rw [show v % 2 ^ 32 % 65536 = v % 65536 by omega] at same
      exact ⟨(Grows.of_eq (s := s) (t := askedBy p s) rfl).trans grows, same⟩
  case results =>
    intro w k
    have run : execRoutineResults p rid s = .next (if routineIds.contains rid = false then udsNeg p 0x31 0x31 (askedBy p s) else if s.routineNrc p rid ≠ 0 then udsNeg p 0x31 (s.routineNrc p rid) (askedBy p s) else
        match (s.uds.results.find? (fun r => decide (r.1 = rid))).map (·.2) with
        | some b => udsPos p ([0x71, 0x03] ++ natBe 2 rid ++ b) (askedBy p s)
        | none => udsNeg p 0x31 0x24 (askedBy p s)) := (congrArg Host.Outcome.next (udsServe_asked served nrc)).trans rfl
    refine ⟨fun other => run.trans ?_, fun known => ?_⟩
    · rw [if_pos (by rw [Bool.eq_false_iff]; exact fun h => other (List.contains_iff_mem.1 h)), udsNeg_asked served]
      rfl
    · rw [if_neg (by rw [Bool.not_eq_false]; exact List.contains_iff_mem.2 known)] at run
      refine ⟨fun no => run.trans ?_, fun x ok kept => run.trans ?_, fun ok missing => run.trans ?_⟩
      · rw [if_pos no, udsNeg_asked served]
        rfl
      · rw [if_neg (not_not.2 ok), kept]
        exact congrArg Host.Outcome.next (udsPos_asked served)
      · rw [if_neg (not_not.2 ok), missing]
        exact congrArg Host.Outcome.next (udsNeg_asked served)
  case functional =>
    exact if_pos (.inr (other.imp addressed_off (fun odd => ⟨rfl, odd⟩)))
  case unsupported =>
    intro u
    have passes : ¬(s.udsServed p = false ∨ addressed s p fn = false ∨ (fn = true ∧ sid ≠ 0x10 ∧ sid ≠ 0x3E)) := by
      rintro (off | away | ⟨functional, no10, no3E⟩)
      · rw [served] at off
        cases off
      · unfold addressed at away
        rcases here with physical | ⟨named, -⟩
        · rw [physical] at away
          cases away
        · rw [decide_eq_true named, Bool.or_true] at away
          cases away
      · rcases here with physical | ⟨-, is | is⟩
        · rw [physical] at functional
          cases functional
        · exact no10 is
        · exact no3E is
    have run := (if_neg passes : execUnsupportedService p sid sub fn s = _)
    refine ⟨fun out => run.trans ?_, fun k l offered listed given odd => run.trans ?_⟩
    · refine (if_pos (out.imp_left fun no => ?_)).trans (congrArg Host.Outcome.next (udsNeg_asked served))
      rw [Bool.eq_false_iff]
      exact fun h => no (List.contains_iff_mem.1 h)
    · obtain ⟨known, subs, some⟩ := servicesWithSubs_spec _ listed
      dsimp only at known subs some
      subst given
      refine (if_neg ?_).trans ((if_pos ⟨?_, ?_⟩).trans (congrArg Host.Outcome.next (udsNeg_asked served)))
      · rintro (no | no)
        · rw [known] at no
          cases no
        · rw [show s.udsOffered sid = false from no] at offered
          cases offered
      · rw [subs]
        exact some
      · rw [subs, Bool.eq_false_iff]
        exact fun h => odd (List.contains_iff_mem.1 h)
  case off =>
    intro c listed
    simp only [List.mem_cons, List.not_mem_nil, or_false] at listed
    rcases listed with rfl | rfl | rfl | rfl | rfl
    · exact congrArg Host.Outcome.next (udsServe_off off)
    · exact congrArg Host.Outcome.next (udsServe_off off)
    · exact congrArg Host.Outcome.next (udsServe_off off)
    · exact congrArg Host.Outcome.next (udsServe_off off)
    · exact if_pos (.inl off)
  case refused =>
    intro c k ss l listed no
    simp only [List.mem_cons, List.not_mem_nil, or_false, Prod.mk.injEq] at listed
    rcases listed with ⟨rfl, rfl, rfl, rfl⟩ | ⟨rfl, rfl, rfl, rfl⟩ | ⟨rfl, rfl, rfl, rfl⟩ | ⟨rfl, rfl, rfl, rfl⟩ <;> exact congrArg Host.Outcome.next (udsServe_refused served no)

end Sys2Proof.Machine
end

section
/-! SUPPORT. Challenges, keys and lifecycle changes (21_security.md, R519, R522, R523). -/

namespace Sys2Proof.Machine

/-! ## Answers behind a fault -/

theorem SameButFaults.withKa {s t : State} (h : SameButFaults s t) (k : Retained) : SameButFaults { s with ka := k } { t with ka := k } := by
  unfold SameButFaults at h ⊢
  rw [h]

/-- A negative response behind a fault is that of the state before it. -/
theorem udsNeg_behind {p : UPath} {sid n : Nat} {s t : State} (served : s.udsServed p = true) (same : SameButFaults s t) (kept : t.udsServed p = s.udsServed p) :
    Grows t (udsNeg p sid n t) ∧ SameButFaults { s with out := .uds p (s.udsResp p) [0x7F, BitVec.ofNat 8 sid, BitVec.ofNat 8 n] :: s.out } (udsNeg p sid n t) := by
  have cat : t.cat = s.cat := by rw [same]
  have out : t.out = s.out := by rw [same]
  rw [udsNeg_eq (kept.trans served), udsResp_cat cat, out]
  exact ⟨.of_eq rfl, same.out _⟩

/-- A low fault that no path depends on leaves every path served or not. -/
theorem raise_served {c i m : Nat} (s : State) (low : ∀ s, classOf s c i < 3) (free : c ≠ 0x6003 ∧ c ≠ 0x7002) (pair : ¬(0x2803 ≤ c ∧ c ≤ 0x280C)) (p : UPath) : (raise c i m s).udsServed p = s.udsServed p :=
  (raise_low_same c i m s low pair).served (fun d j code => raise_other c i m d j s (by omega) (by omega) low pair) p

theorem low8010 (s : State) : classOf s 0x8010 noInst < 3 := by simp [classOf, codesF0]
theorem low8011 (s : State) : classOf s 0x8011 noInst < 3 := by simp [classOf, codesF0, codesF1]
theorem low8015 (s : State) : classOf s 0x8015 noInst < 3 := by simp [classOf, codesF0]

/-! ## Seeds (R522, R523) -/

/-- A request during the delay: 0x37 and 0x8011. -/
theorem delayed_spec {p : UPath} {s : State} (served : s.udsServed p = true) :
    active 0x8011 noInst (delayed p s) = true ∧ Grows s (delayed p s) ∧ SameButFaults { s with out := .uds p (s.udsResp p) [0x7F, 0x27, 0x37] :: s.out } (delayed p s) := by
  obtain ⟨grows, same⟩ := udsNeg_behind (sid := 0x27) (n := 0x37) served (raise_low_same 0x8011 noInst 0 s low8011 (by decide)) (raise_served s low8011 (by decide) (by decide) p)
  exact ⟨grows _ _ (raise_active 0x8011 noInst 0 s), (raise_grows 0x8011 noInst 0 s).trans grows, same⟩

theorem lifeRefused_iff (s : State) (level : Nat) : lifeRefused s level = true ↔ s.sys.mode = .drive ∨ s.sys.mode = .charge ∨ (level = 0x63 ∧ s.life ≠ 2) := by
  unfold lifeRefused
  rw [Bool.or_eq_true, Bool.and_eq_true, decide_eq_true_iff, decide_eq_true_iff, decide_eq_true_iff]
  exact or_assoc

/-! ## Keys (R523) -/

/-- The state in which an operation of the engine has ended whose request came by a path. -/
def engineDone (p : UPath) (r : List EngJob) (s : State) : State :=
  { s with sec := { s.sec with jobs := r, ops := (s.sec.ops + 1) % 2 ^ 16, pend := s.sec.pend.eraseP (fun x => decide (some x.1 = some p)) } }

theorem jobDone_key {s : State} {c : Challenge} {r : List EngJob} {p : UPath} (runs : s.sec.jobs = .key c :: r) (path : c.path = some p) : jobDone s = engineDone p r s := by
  unfold jobDone engineDone
  rw [runs]
  dsimp only [List.head?_cons, Option.bind_some, EngJob.asker, List.tail_cons]
  rw [path]

theorem execKeyVerificationDone_valid {s : State} {hv : List Q} {vf : Nat} {c : Challenge} {r : List EngJob} {p : UPath} (runs : s.sec.jobs = .key c :: r) (path : c.path = some p) (allowed : keyAllowed s c.level c.key = true) :
    execKeyVerificationDone true hv vf s = .next (grant c hv vf (engineDone p r s)) := by
  unfold execKeyVerificationDone
  rw [runs]
  dsimp only
  rw [jobDone_key runs path]
  exact if_pos ⟨rfl, allowed⟩

theorem execKeyVerificationDone_failed {s : State} {ok : Bool} {hv : List Q} {vf : Nat} {c : Challenge} {r : List EngJob} {p : UPath} (runs : s.sec.jobs = .key c :: r) (path : c.path = some p) (failed : ¬(ok = true ∧ keyAllowed s c.level c.key = true)) :
    execKeyVerificationDone ok hv vf s = .next (udsNeg p 0x27 (keyFailed (engineDone p r s)).1 (keyFailed (engineDone p r s)).2) := by
  unfold execKeyVerificationDone
  rw [runs]
  dsimp only
  rw [jobDone_key runs path, path]
  exact if_neg failed

/-- What a key grants at a level that unlocks. -/
theorem grant_unlock {c : Challenge} {p : UPath} {s : State} (hv : List Q) (vf : Nat) (path : c.path = some p) (level : c.level < 0x60) : grant c hv vf s =
    (if s.uds.session.get p = 1 then udsPos p [0x67, BitVec.ofNat 8 (c.level + 1)] { s with ka := { s.ka with unlockFails := 0 } }
    else udsPos p [0x67, BitVec.ofNat 8 (c.level + 1)] { s with ka := { s.ka with unlockFails := 0 }, uds := { s.uds with unlocks := (p, c.level) :: s.uds.unlocks.filter (fun x => decide (x ≠ (p, c.level))) } }) := by
  unfold grant
  dsimp only
  rw [path]
  exact if_pos level

/-- The state with one failure more, and its fault. -/
def failedKey (s : State) : State := raise 0x8010 noInst (s.ka.unlockFails + 1) { s with ka := { s.ka with unlockFails := min (s.ka.unlockFails + 1) 255 } }

theorem failedKey_spec (s : State) : active 0x8010 noInst (failedKey s) = true ∧ Grows s (failedKey s) ∧ SameButFaults { s with ka := { s.ka with unlockFails := min (s.ka.unlockFails + 1) 255 } } (failedKey s) ∧ ∀ p, (failedKey s).udsServed p = s.udsServed p :=
  ⟨raise_active _ _ _ _, (Grows.of_eq (s := s) (t := { s with ka := { s.ka with unlockFails := min (s.ka.unlockFails + 1) 255 } }) rfl).trans (raise_grows _ _ _ _), raise_low_same _ _ _ _ low8010 (by decide),
    raise_served { s with ka := { s.ka with unlockFails := min (s.ka.unlockFails + 1) 255 } } low8010 (by decide) (by decide)⟩

theorem keyFailed_early {s : State} (early : s.ka.unlockFails < 2) : keyFailed s = (0x35, failedKey s) := if_neg (by omega)

/-- The third failure in a row starts the delay. -/
theorem keyFailed_third {s : State} (third : 2 ≤ s.ka.unlockFails) : ∃ t, keyFailed s = (0x36, t) ∧ active 0x8010 noInst t = true ∧ active 0x8011 noInst t = true ∧ Grows s t ∧
    SameButFaults { s with ka := { s.ka with unlockFails := min (s.ka.unlockFails + 1) 255, unlockDelay := true } } t ∧ ∀ p, t.udsServed p = s.udsServed p := by
  have run : keyFailed s = (0x36, raise 0x8011 noInst 0 { failedKey s with ka := { (failedKey s).ka with unlockDelay := true } }) := if_pos (by omega)
  obtain ⟨fault, grows, same, kept⟩ := failedKey_spec s
  generalize failedKey s = u at *
  have ka : u.ka = { s.ka with unlockFails := min (s.ka.unlockFails + 1) 255 } := by rw [same]
  have delay : Grows u (raise 0x8011 noInst 0 { u with ka := { u.ka with unlockDelay := true } }) := (Grows.of_eq (s := u) (t := { u with ka := { u.ka with unlockDelay := true } }) rfl).trans (raise_grows _ _ _ _)
  have frame := (same.withKa { u.ka with unlockDelay := true }).trans (raise_low_same 0x8011 noInst 0 { u with ka := { u.ka with unlockDelay := true } } low8011 (by decide))
  rw [ka] at run delay frame
  exact ⟨_, run, delay _ _ fault, raise_active _ _ _ _, grows.trans delay, frame,
    fun p => (raise_served { u with ka := { s.ka with unlockFails := min (s.ka.unlockFails + 1) 255, unlockDelay := true } } low8011 (by decide) (by decide) p).trans (kept p)⟩

/-! ## The words of a lifecycle change (R84, R87, R88, R519) -/

theorem lifeWords_cons (level : Nat) : ∃ l, lifeWords level = (5, if level = 0x63 then 0x0000000000FF0000 else 0x00000000FF000000) :: l ∧ (level = 0x63 → l = []) ∧
    (level ≠ 0x63 → l = (List.range 34).map (fun j => (24 + j, BitVec.ofNat 64 (2 ^ 64 - 1)))) := by
  unfold lifeWords
  by_cases enroll : level = 0x63
  · rw [if_pos enroll, if_pos enroll]
    exact ⟨[], rfl, fun _ => rfl, fun n => absurd enroll n⟩
  · rw [if_neg enroll, if_neg enroll]
    exact ⟨_, rfl, fun n => absurd n enroll, fun _ => rfl⟩

/-- A state that a sequence of words without a check has left: only the operations that wait and the count of lost ones differ, and none waits
no more. -/
def LeftOver (s t : State) : Prop := t = { s with ops := { s.ops with waiting := t.ops.waiting }, ka := t.ka } ∧ ∀ o ∈ s.ops.waiting, o ∈ t.ops.waiting

theorem LeftOver.trans {s t u : State} (a : LeftOver s t) (b : LeftOver t u) : LeftOver s u := by
  obtain ⟨frame, stays⟩ := a
  obtain ⟨frame', stays'⟩ := b
  exact ⟨by rw [frame', frame], fun o h => stays' o (stays o h)⟩

theorem enqueue_leftOver (o : FlashOp) (s : State) : LeftOver s (enqueue o s) := by
  rw [enqueue_eq]
  refine ⟨rfl, fun x h => ?_⟩
  dsimp only
  split
  · exact h
  · exact List.mem_append_left _ h

theorem leftWaiting_over (q : Nat × BitVec 64) (s : State) : LeftOver s (leftWaiting s q) ∧ .otpWord q.1 q.2 ∈ (leftWaiting s q).ops.waiting := by
  have left := enqueue_leftOver (.otpWord q.1 q.2) s
  have joins := enqueue_mem (.otpWord q.1 q.2) s
  unfold leftWaiting holdupFail
  dsimp only
  generalize enqueue (.otpWord q.1 q.2) s = u at *
  have lost : LeftOver s { u with ka := { u.ka with lostWrites := min (pendingOps u) 255 } } := left.trans ⟨rfl, fun _ h => h⟩
  split
  · split
    · exact ⟨lost, joins⟩
    · exact ⟨left, joins⟩
  · exact ⟨left, joins⟩

theorem leftWaiting_all (l : List (Nat × BitVec 64)) (s : State) : LeftOver s (l.foldl leftWaiting s) ∧ ∀ q ∈ l, .otpWord q.1 q.2 ∈ (l.foldl leftWaiting s).ops.waiting := by
  induction l generalizing s with
  | nil => exact ⟨⟨rfl, fun _ h => h⟩, fun _ h => (nomatch h)⟩
  | cons a l ih =>
    obtain ⟨left, joins⟩ := leftWaiting_over a s
    obtain ⟨rest, all⟩ := ih (leftWaiting s a)
    rw [List.foldl_cons]
    refine ⟨left.trans rest, fun q h => ?_⟩
    rcases List.mem_cons.1 h with rfl | h
    · exact rest.2 _ joins
    · exact all q h

/-- Without a measurement of HOLD the words of a change wait, and no reset comes. -/
theorem changeLife_waits (level vf : Nat) (s : State) : (changeLife level [] vf s).otp = s.otp ∧ (changeLife level [] vf s).sys = s.sys ∧ (changeLife level [] vf s).sec.lcReset = true ∧
    ∀ x ∈ lifeWords level, .otpWord x.1 x.2 ∈ (changeLife level [] vf s).ops.waiting := by
  obtain ⟨l, words, -, -⟩ := lifeWords_cons level
  unfold changeLife
  dsimp only
  rw [ite_self, words]
  generalize (if level = 0x63 then 0x0000000000FF0000 else 0x00000000FF000000 : BitVec 64) = b
  have left := enqueue_leftOver (.otpWord 5 b) { s with sec := { s.sec with lcReset := true } }
  have joins := enqueue_mem (.otpWord 5 b) { s with sec := { s.sec with lcReset := true } }
  have run : (program ((5, b) :: l) { fails := vf, volts := [], stopped := false, st := { s with sec := { s.sec with lcReset := true } } }).st = l.foldl leftWaiting (enqueue (.otpWord 5 b) { s with sec := { s.sec with lcReset := true } }) :=
    program_stopped l _ rfl
  obtain ⟨rest, all⟩ := leftWaiting_all l (enqueue (.otpWord 5 b) { s with sec := { s.sec with lcReset := true } })
  rw [run]
  have frame := left.trans rest
  have first := rest.2 _ joins
  generalize l.foldl leftWaiting _ = t at frame first all ⊢
  have waits : otpWaits t = true := List.any_eq_true.2 ⟨_, first, rfl⟩
  have stays : lifecycleEnds t = t := if_neg (fun h => by
    rw [waits] at h
    exact Bool.noConfusion h.2)
  obtain ⟨same, -⟩ := frame
  rw [stays]
  refine ⟨by rw [same], by rw [same], by rw [same], fun x h => ?_⟩
  rcases List.mem_cons.1 h with rfl | h
  · exact first
  · exact all x h

/-! ## A change whose checks pass (R88, R519) -/

/-- A word whose check passes, at the front of a sequence. -/
theorem program_front {v : Q} {vs : List Q} {w : Nat} {b : BitVec 64} {s : State} (l : List (Nat × BitVec 64)) (ok : holdOk s v (.otpWord w b) = true) :
    program ((w, b) :: l) { fails := 0, volts := v :: vs, stopped := false, st := s } =
      program l { fails := 0, volts := vs, stopped := false, st := if w = 5 ∨ w = 7 then otpDone w b (wordProgrammed v w b s) else wordProgrammed v w b s } := by
  have passes : ¬holdOk (measureHold v s) v (.otpWord w b) = false := ne_false_of_eq_true ok
  rw [program]
  dsimp only
  rw [if_neg Bool.false_ne_true, if_neg passes, if_pos rfl]
  rfl

/-- The check of a word depends on the Catalogue and the measurement. -/
theorem holdOk_congr {s t : State} {v : Q} {w w' : Nat} {b b' : BitVec 64} (cat : t.cat = s.cat) : holdOk t v (.otpWord w b) = holdOk s v (.otpWord w' b') := by
  have energy : holdEnergy t v = holdEnergy s v := by
    unfold holdEnergy
    rw [hasRec_cat cat, pf_cat cat]
  exact congrArg (fun e => decide (energyReq .otp ≤ e)) energy

/-- Words of all ones that are no lifecycle and no revocation word, each with a measurement that passes its check. -/
theorem program_ones (l : List (Nat × BitVec 64)) (vs : List Q) (s : State) (enough : l.length ≤ vs.length) (ok : ∀ v ∈ vs, holdOk s v (.otpWord 5 0) = true) (ones : ∀ x ∈ l, x.2 = BitVec.allOnes 64 ∧ x.1 ≠ 5 ∧ x.1 ≠ 7) :
    let t := (program l { fails := 0, volts := vs, stopped := false, st := s }).st
    t = { s with sup := { s.sup with hold := t.sup.hold, holdMv := t.sup.holdMv }, otp := t.otp } ∧ (∀ x ∈ l, t.otp.get x.1 = BitVec.allOnes 64) ∧ ∀ w, (∀ x ∈ l, x.1 ≠ w) → t.otp.get w = s.otp.get w := by
  induction l generalizing vs s with
  | nil => exact ⟨rfl, fun _ h => (nomatch h), fun _ _ => rfl⟩
  | cons a l ih =>
    obtain ⟨w, b⟩ := a
    cases vs with
    | nil => exact absurd enough (by simp)
    | cons v vs =>
      obtain ⟨one, no5, no7⟩ := ones _ List.mem_cons_self
      dsimp only at one no5 no7
      rw [program_front l ((holdOk_congr rfl).trans (ok v List.mem_cons_self)), if_neg (fun h => h.elim no5 no7)]
      obtain ⟨frame, set, others⟩ := ih vs (wordProgrammed v w b s) (Nat.le_of_succ_le_succ enough) (fun u h => (holdOk_congr rfl).trans (ok u (List.mem_cons_of_mem _ h))) (fun x h => ones x (List.mem_cons_of_mem _ h))
      generalize (program l _).st = t at frame set others ⊢
      have word : (wordProgrammed v w b s).otp.get w = BitVec.allOnes 64 := by
        unfold wordProgrammed
        dsimp only
        rw [Tab.get_put, if_pos rfl, one, BitVec.or_allOnes]
      refine ⟨frame, fun x h => ?_, fun k h => ?_⟩
      · by_cases again : ∀ y ∈ l, y.1 ≠ x.1
        · rcases List.mem_cons.1 h with rfl | h
          · exact (others _ again).trans word
          · exact absurd rfl (again x h)
        · simp only [not_forall, not_not] at again
          obtain ⟨y, listed, is⟩ := again
          exact is ▸ set y listed
      · rw [others k (fun x m => h x (List.mem_cons_of_mem _ m))]
        unfold wordProgrammed
        dsimp only
        rw [Tab.get_put, if_neg (fun e => h (w, b) List.mem_cons_self e.symm)]

/-- The words of a change whose checks pass, before the reset. -/
theorem program_life {level : Nat} {vs : List Q} {s : State} (enough : (lifeWords level).length ≤ vs.length) (ok : ∀ v ∈ vs, holdOk s v (.otpWord 5 0) = true) :
    let t := (program (lifeWords level) { fails := 0, volts := vs, stopped := false, st := s }).st
    t.sys.mode = s.sys.mode ∧ t.sec = s.sec ∧ t.ops = s.ops ∧ t.flash = s.flash ∧
      t.otp.get 5 = s.otp.get 5 ||| (if level = 0x63 then 0x0000000000FF0000 else 0x00000000FF000000) ∧ (level ≠ 0x63 → ∀ w, 24 ≤ w → w < 58 → t.otp.get w = 0xFFFFFFFFFFFFFFFF) ∧
      ∀ w, w ≠ 5 → (level = 0x63 ∨ w < 24 ∨ 58 ≤ w) → t.otp.get w = s.otp.get w := by
  obtain ⟨l, words, enroll, retire⟩ := lifeWords_cons level
  rw [words] at enough ⊢
  generalize (if level = 0x63 then 0x0000000000FF0000 else 0x00000000FF000000 : BitVec 64) = b at enough ⊢
  have listed : ∀ x ∈ l, level ≠ 0x63 ∧ x.2 = BitVec.allOnes 64 ∧ 24 ≤ x.1 ∧ x.1 < 58 := fun x h => by
    by_cases is : level = 0x63
    · rw [enroll is] at h
      cases h
    · rw [retire is] at h
      obtain ⟨j, range, rfl⟩ := List.mem_map.1 h
      exact ⟨is, rfl, by omega, by have := List.mem_range.1 range; omega⟩
  cases vs with
  | nil => exact absurd enough (by simp)
  | cons v vs =>
    dsimp only
    rw [program_front l ((holdOk_congr rfl).trans (ok v List.mem_cons_self)), if_pos (.inl rfl)]
    have same : SameButFaults (wordProgrammed v 5 b s) (otpDone 5 b (wordProgrammed v 5 b s)) := raise_low_same 0x8015 noInst 0 _ low8015 (by decide)
    generalize otpDone 5 b (wordProgrammed v 5 b s) = u at same ⊢
    have cat : u.cat = s.cat := by rw [same]; rfl
    have otp : u.otp = s.otp.put 5 (s.otp.get 5 ||| b) := by rw [same]; rfl
    have kept : u.sys.mode = s.sys.mode ∧ u.sec = s.sec ∧ u.ops = s.ops ∧ u.flash = s.flash := by rw [same]; exact ⟨rfl, rfl, rfl, rfl⟩
    obtain ⟨frame, set, others⟩ := program_ones l vs u (Nat.le_of_succ_le_succ enough) (fun x h => (holdOk_congr cat).trans (ok x (List.mem_cons_of_mem _ h))) (fun x h => by
      obtain ⟨-, one, low, -⟩ := listed x h
      exact ⟨one, by omega, by omega⟩)
    generalize (program l _).st = t at frame set others ⊢
    have after : t.sys.mode = u.sys.mode ∧ t.sec = u.sec ∧ t.ops = u.ops ∧ t.flash = u.flash := by rw [frame]; exact ⟨rfl, rfl, rfl, rfl⟩
    obtain ⟨mode, sec, ops, flash⟩ := kept
    rw [mode, sec, ops, flash] at after
    obtain ⟨mode', sec', ops', flash'⟩ := after
    refine ⟨mode', sec', ops', flash', ?_, fun is w low high => ?_, fun w no5 away => ?_⟩
    · rw [others 5 (fun x h e => by have := (listed x h).2.2.1; omega), otp, Tab.get_put, if_pos rfl]
    · refine set (w, BitVec.ofNat 64 (2 ^ 64 - 1)) ?_
      rw [retire is]
      exact List.mem_map.2 ⟨w - 24, List.mem_range.2 (by omega), by rw [show 24 + (w - 24) = w by omega]⟩
    · rw [others w (fun x h e => by have := listed x h; omega), otp, Tab.get_put, if_neg no5]

/-- A change whose checks pass ends in the reset. -/
theorem changeLife_resets {level : Nat} {hv : List Q} {s : State} (idle : s.ops.running = none) (otp : otpWaits s = false) (starts : startsOver s = false) (off : s.sys.mode ≠ .off) (ship : s.sys.mode ≠ .ship)
    (enough : (lifeWords level).length ≤ hv.length) (ok : ∀ v ∈ hv, holdOk s v (.otpWord 5 0) = true) :
    let t := changeLife level hv 0 s
    t.sys.mode = .accession ∧ t.sup.cause.uds = true ∧ t.flash = s.flash ∧
      t.otp.get 5 = s.otp.get 5 ||| (if level = 0x63 then 0x0000000000FF0000 else 0x00000000FF000000) ∧ (level ≠ 0x63 → ∀ w, 24 ≤ w → w < 58 → t.otp.get w = 0xFFFFFFFFFFFFFFFF) ∧
      ∀ w, w ≠ 5 → (level = 0x63 ∨ w < 24 ∨ 58 ≤ w) → t.otp.get w = s.otp.get w := by
  have begins : ¬(s.ops.running.isSome = true ∨ otpWaits s = true ∨ startsOver s = true) := by simp [idle, otp, starts]
  have run : changeLife level hv 0 s = lifecycleEnds (program (lifeWords level) { fails := 0, volts := hv, stopped := false, st := { s with sec := { s.sec with lcReset := true } } }).st := by
    unfold changeLife
    dsimp only
    exact congrArg (fun v => lifecycleEnds (program (lifeWords level) { fails := 0, volts := v, stopped := false, st := { s with sec := { s.sec with lcReset := true } } }).st) (if_neg begins)
  obtain ⟨mode, sec, ops, flash, word, slots, others⟩ := program_life (level := level) (vs := hv) (s := { s with sec := { s.sec with lcReset := true } }) enough (fun v h => (holdOk_congr rfl).trans (ok v h))
  dsimp only
  rw [run]
  generalize (program (lifeWords level) _).st = u at *
  have none : otpWaits u = false := by
    unfold otpWaits at otp ⊢
    rw [ops]
    exact otp
  have ends : lifecycleEnds u = resetN9 { StartCause.none with uds := true } u := if_pos ⟨by rw [sec], none⟩
  obtain ⟨mode', -, -, cause, -, -, -, -, -, -, flash', otp', -⟩ := resetN9_from { StartCause.none with uds := true } u (by rw [mode]; exact off) (by rw [mode]; exact ship)
  have still : endedFlash u = u.flash := by
    unfold endedFlash
    rw [ops, idle]
  rw [ends, otp', flash', cause, still]
  refine ⟨mode', ?_, flash, word, slots, others⟩
  split <;> rfl

end Sys2Proof.Machine
end

section
/-! Unlocks. -/

namespace Sys2Proof.Machine

/-- Settles O58: seeds and keys by `udsServe_asked` and their branches, a failed key by `keyFailed_early` and `keyFailed_third`, a lifecycle change by `changeLife_resets` and `changeLife_waits`. -/
theorem unlocks : Obligations.Unlocks := by
  unfold Obligations.Unlocks
  refine ⟨fun s p lv served nrc => ?seed, fun s p lv seg key len c served nrc due => ?key, fun s p lv seg key len served nrc none => ?absent, fun s ok hv vf c r p runs path served => ?verified,
    fun s n => ⟨fun late => if_pos late, fun early => if_neg (by omega), fun delay late => if_pos ⟨delay, late⟩, fun other => if_neg fun h => ?delay⟩, fun s hv vf c r p runs path allowed level mode => ?life⟩
  case seed =>
    intro u neg
    have run : execRequestSeed p lv s = .next (if [1, 3, 0x63, 0x65].contains lv = false then udsNeg p 0x27 (if lv = 0x61 then 0x13 else 0x12) (askedBy p s) else if s.life = 4 then udsNeg p 0x27 0x12 (askedBy p s)
        else if s.ka.unlockDelay then delayed p (askedBy p s) else if 0x63 ≤ lv ∧ lifeRefused s lv = true then udsNeg p 0x27 0x22 (askedBy p s)
        else udsPos p ([0x67, BitVec.ofNat 8 lv] ++ seedBytes s lv) (newChallenge (some p) lv (askedBy p s))) := congrArg Host.Outcome.next (udsServe_asked served nrc)
    have refused (n : Nat) : udsNeg p 0x27 n (askedBy p s) = neg n := udsNeg_asked served
    refine ⟨fun unknown => run.trans ?_, fun known dead => run.trans ?_, fun known live delay => ⟨_, run, ?_⟩, fun known live delay high no => run.trans ?_, fun known live delay yes => run.trans ?_⟩
    · rw [if_pos unknown, refused]
    · rw [if_neg (by rw [known]; decide), if_pos dead, refused]
    · rw [if_neg (by rw [known]; decide), if_neg live, if_pos delay]
      obtain ⟨fault, grows, same⟩ := delayed_spec (s := askedBy p s) served
      exact ⟨fault, (Grows.of_eq (s := s) (t := askedBy p s) rfl).trans grows, same⟩
    · rw [if_neg (by rw [known]; decide), if_neg live, if_neg (by rw [delay]; decide), if_pos ⟨high, (lifeRefused_iff s lv).2 no⟩, refused]
    · have granted : ¬(0x63 ≤ lv ∧ lifeRefused s lv = true) := fun ⟨high, no⟩ => by
        rcases (lifeRefused_iff s lv).1 no with drive | charge | ⟨enroll, life⟩
        · exact yes.elim (by omega) (fun h => h.1 drive)
        · exact yes.elim (by omega) (fun h => h.2.1 charge)
        · exact yes.elim (by omega) (fun h => life (h.2.2 enroll))
      rw [if_neg (by rw [known]; decide), if_neg live, if_neg (by rw [delay]; decide), if_neg granted]
      exact congrArg Host.Outcome.next (udsPos_eq (s := newChallenge (some p) lv (askedBy p s)) served)
  case key =>
    intro u d
    have run : execSendKey p lv seg key len s = .next (if c.path ≠ some p ∨ c.level ≠ lv ∨ seg ≠ c.seg then udsNeg p 0x27 0x24 (askedBy p s) else if len ≠ 3724 then udsNeg p 0x27 0x13 (askedBy p s)
        else if seg < 7 then udsPos p [0x67, BitVec.ofNat 8 (lv + 1)] { u with sec := { s.sec with challenge := some d } } else { u with sec := { s.sec with challenge := none, jobs := s.sec.jobs ++ [.key d], pend := s.sec.pend ++ [(p, s.mer.ns + 50000000)] } }) := by
      unfold execSendKey
      rw [udsServe_asked served nrc]
      dsimp only
      rw [show (askedBy p s).sec.challenge = some c from due]
      rfl
    refine ⟨fun other => run.trans ?_, fun path level turn => ?_⟩
    · rw [if_pos other]
      exact congrArg Host.Outcome.next (udsNeg_asked served)
    · have mine : ¬(c.path ≠ some p ∨ c.level ≠ lv ∨ seg ≠ c.seg) := by simp [path, level, turn]
      rw [if_neg mine] at run
      refine ⟨fun odd => run.trans ?_, fun whole early => run.trans ?_, fun whole last => run.trans ?_⟩
      · rw [if_pos odd]
        exact congrArg Host.Outcome.next (udsNeg_asked served)
      · rw [if_neg (not_not.2 whole), if_pos early]
        exact congrArg Host.Outcome.next (udsPos_eq (s := { u with sec := { s.sec with challenge := some d } }) served)
      · rw [if_neg (not_not.2 whole), if_neg (by omega)]
  case absent =>
    have run : execSendKey p lv seg key len s = .next (udsNeg p 0x27 0x24 (askedBy p s)) := by
      unfold execSendKey
      rw [udsServe_asked served nrc]
      dsimp only
      rw [show (askedBy p s).sec.challenge = Option.none from none]
    exact run.trans (congrArg Host.Outcome.next (udsNeg_asked served))
  case verified =>
    intro u
    have done : engineDone p r s = u := rfl
    refine ⟨fun valid allowed level open_ => ?_, fun valid allowed level default => ?_, fun no early => ⟨_, execKeyVerificationDone_failed runs path no, ?_⟩, fun no third => ⟨_, execKeyVerificationDone_failed runs path no, ?_⟩⟩
    · subst valid
      refine (execKeyVerificationDone_valid runs path allowed).trans (congrArg Host.Outcome.next ((grant_unlock hv vf path level).trans ((if_neg open_).trans ?_)))
      exact udsPos_eq (s := { u with ka := { s.ka with unlockFails := 0 }, uds := { s.uds with unlocks := (p, c.level) :: s.uds.unlocks.filter (fun x => decide (x ≠ (p, c.level))) } }) served
    · subst valid
      refine (execKeyVerificationDone_valid runs path allowed).trans (congrArg Host.Outcome.next ((grant_unlock hv vf path level).trans ((if_pos default).trans ?_)))
      exact udsPos_eq (s := { u with ka := { s.ka with unlockFails := 0 } }) served
    · rw [done, keyFailed_early (s := u) early]
      obtain ⟨fault, grows, same, kept⟩ := failedKey_spec u
      obtain ⟨grows', same'⟩ := udsNeg_behind (s := { u with ka := { s.ka with unlockFails := min (s.ka.unlockFails + 1) 255 } }) (sid := 0x27) (n := 0x35) served same (kept p)
      rw [show min (s.ka.unlockFails + 1) 255 = s.ka.unlockFails + 1 by omega] at same'
      exact ⟨grows' _ _ fault, ((Grows.of_eq (s := s) (t := u) rfl).trans grows).trans grows', same'⟩
    · obtain ⟨t, failed, fault, delay, grows, same, kept⟩ := keyFailed_third (s := u) third
      rw [done, failed]
      obtain ⟨grows', same'⟩ := udsNeg_behind (s := { u with ka := { s.ka with unlockFails := min (s.ka.unlockFails + 1) 255, unlockDelay := true } }) (sid := 0x27) (n := 0x36) served same (kept p)
      exact ⟨grows' _ _ fault, grows' _ _ delay, ((Grows.of_eq (s := s) (t := u) rfl).trans grows).trans grows', same'⟩
  case delay =>
    rcases other with off | early
    · rw [off] at h
      exact Bool.noConfusion h.1
    · omega
  case life =>
    have run (v : List Q) := (execKeyVerificationDone_valid (hv := v) (vf := vf) runs path allowed).trans (congrArg Host.Outcome.next (grant_life v vf path level))
    have refusedIff : lifeRefused s c.level = true ↔ s.sys.mode = .drive ∨ s.sys.mode = .charge ∨ (c.level = 0x63 ∧ s.life ≠ 2) := lifeRefused_iff s c.level
    have goes (v : List Q) (drive : s.sys.mode ≠ .drive) (charge : s.sys.mode ≠ .charge) (enroll : c.level = 0x63 → s.life = 2) :=
      (run v).trans (congrArg Host.Outcome.next (if_neg fun h => (refusedIff.1 h).elim drive (fun k => k.elim charge (fun e => e.2 (enroll e.1)))))
    obtain ⟨off, ship⟩ := mode
    refine ⟨fun no served => (run hv).trans (congrArg Host.Outcome.next ((if_pos (refusedIff.2 no)).trans (udsNeg_eq (s := { engineDone p r s with ka := { s.ka with unlockFails := 0 } }) served))),
      fun drive charge enroll idle otp starts ok enough holds => ⟨_, goes hv drive charge enroll, ?_⟩, fun drive charge enroll => ⟨_, goes [] drive charge enroll, ?_⟩⟩
    · subst ok
      rw [udsPos_only]
      exact changeLife_resets (s := { engineDone p r s with ka := { s.ka with unlockFails := 0 }, out := _ }) idle otp starts off ship enough (fun v h => (holdOk_congr rfl).trans (holds v h))
    · rw [udsPos_only]
      exact changeLife_waits c.level vf { engineDone p r s with ka := { s.ka with unlockFails := 0 }, out := _ }

end Sys2Proof.Machine
end

section
/-! SUPPORT. Attestation and the JTAG unlock (21_security.md, R521, R524). -/

namespace Sys2Proof.Machine

/-! ## Signed reports (R521) -/

/-- An operation of the engine that signs a report. -/
def EngJob.isSign : EngJob → Bool
  | .sign _ => true
  | .key _ => false

/-- The state in which the engine has signed a report, and what is left to it. -/
def signDone (q : AttReq) (r : List EngJob) (s : State) : State :=
  { s with sec := { s.sec with jobs := r, ops := (s.sec.ops + 1) % 2 ^ 16, pend := s.sec.pend.eraseP (fun x => decide (some x.1 = EngJob.asker (.sign q))) } }

theorem jobDone_sign {s : State} {q : AttReq} {r : List EngJob} (runs : s.sec.jobs = .sign q :: r) : jobDone s = signDone q r s := by
  unfold jobDone signDone
  rw [runs]
  rfl

/-- The end of a signature: the report is answered, or the newer one has taken its place. -/
theorem execAttestationSigned_eq {s : State} {q : AttReq} {r : List EngJob} {b : List Byte × Option Nat} (runs : s.sec.jobs = .sign q :: r) (report : s.sec.report = some b) :
    execAttestationSigned s = if r.any EngJob.isSign then replaced q (signDone q r s) else signed q b { signDone q r s with sec := { (signDone q r s).sec with nSig := s.sec.nSig + 1, report := some (b.1, some s.sec.nSig) } } s.sec.nSig := by
  have kept : (signDone q r s).sec.report = some b := report
  unfold execAttestationSigned
  rw [runs]
  dsimp only
  rw [jobDone_sign runs, kept]
  rfl

/-- A new report in place of an older one. -/
theorem startReport_uds (p : UPath) (nonce : List Byte) (s : State) :
    startReport (.uds p) nonce s = { s with sec := { s.sec with report := some ((reportBody nonce s).1, none), jobs := s.sec.jobs ++ [.sign (.uds p)], pend := s.sec.pend ++ [(p, s.mer.ns + 50000000)] }, freeIx := s.freeIx + 1 } := rfl

/-! ## The JTAG key (R524) -/

/-- The state in which the engine has checked a JTAG key. -/
def jtagChecked (s : State) : State := { s with sec := { s.sec with challenge := none, ops := (s.sec.ops + 1) % 2 ^ 16 } }

theorem execJtagKey_off {s : State} {key : Nat} {ok : Bool} (off : s.tapOn = false) : execJtagKey key ok s = .next s := by
  unfold execJtagKey
  split
  · exact if_neg fun h => by
      rw [off] at h
      exact Bool.noConfusion h.1
  · rfl

theorem execJtagKey_checked {s : State} {key : Nat} {ok : Bool} {c : Challenge} (tap : s.tapOn = true) (study : s.life = 1) (closed : s.sec.jtagOpen = false) (due : s.sec.challenge = some c) (path : c.path = none) :
    execJtagKey key ok s = if ok = true ∧ keyAllowed s 0 key = true then .next (grant c [] 0 (jtagChecked s)) else .next (keyFailed (jtagChecked s)).2 := by
  unfold execJtagKey
  rw [due]
  exact if_pos ⟨tap, study, path, closed⟩

theorem grant_jtag {c : Challenge} {s : State} (hv : List Q) (vf : Nat) (path : c.path = none) : grant c hv vf s = { s with ka := { s.ka with unlockFails := 0 }, sec := { s.sec with jtagOpen := true } } := by
  unfold grant
  dsimp only
  rw [path]

end Sys2Proof.Machine
end

section
/-! Attestation and JTAG. -/

namespace Sys2Proof.Machine

/-- Settles O59: a request by `udsServe_asked` and its branches, a signature by `execAttestationSigned_eq`, the JTAG key by `execJtagKey_checked`. -/
theorem attestationAndJtag : Obligations.AttestationAndJtag := by
  unfold Obligations.AttestationAndJtag
  refine ⟨fun s p k nonce served nrc => ?request, fun s q r b runs report last => ?signed, fun s q r b runs report newer => ?replaced, fun s => ⟨fun off => if_pos off, fun tap study closed delay => ?seed, fun tap study closed delay => ?delayed⟩,
    fun s key ok off => execJtagKey_off off, fun s key ok c tap study closed due path => ?key⟩
  case request =>
    intro u neg
    have run : execAttestationRequest p k nonce s = .next (if s.ka.unlockDelay then delayed p (askedBy p s) else if 13 < k then udsNeg p 0x27 0x31 u
        else if k = 0 then (if nonce.length ≠ 32 then udsNeg p 0x27 0x13 u else if s.sec.idSlot = none then udsNeg p 0x27 0x22 u else startReport (.uds p) nonce u)
        else match reportSegment u k with
          | some b => udsPos p ([0x67, 0x61] ++ b) u
          | none => udsNeg p 0x27 0x24 u) := (congrArg Host.Outcome.next (udsServe_asked served nrc)).trans rfl
    have refused (n : Nat) : udsNeg p 0x27 n u = neg n := udsNeg_eq (s := u) served
    refine ⟨fun delay => ⟨_, run, ?_⟩, fun free => ?_⟩
    · rw [if_pos delay]
      obtain ⟨fault, grows, same⟩ := delayed_spec (s := askedBy p s) served
      exact ⟨fault, (Grows.of_eq (s := s) (t := askedBy p s) rfl).trans grows, same⟩
    · rw [if_neg (by rw [free]; decide)] at run
      refine ⟨fun high => run.trans ?_, fun zero odd => run.trans ?_, fun zero whole keyless => run.trans ?_, fun zero whole key => run.trans ?_, fun low high => ⟨fun b is => run.trans ?_, fun missing => run.trans ?_⟩⟩
      · rw [if_pos high, refused]
      · rw [if_neg (by omega), if_pos zero, if_pos odd, refused]
      · rw [if_neg (by omega), if_pos zero, if_neg (not_not.2 whole), if_pos keyless, refused]
      · rw [if_neg (by omega), if_pos zero, if_neg (not_not.2 whole), if_neg key]
        exact congrArg Host.Outcome.next (startReport_uds p nonce u)
      · rw [if_neg (by omega), if_neg (by omega), show reportSegment u k = some b from is]
        exact congrArg Host.Outcome.next (udsPos_eq (s := u) served)
      · rw [if_neg (by omega), if_neg (by omega), show reportSegment u k = none from missing]
        exact congrArg Host.Outcome.next (refused 0x24)
  case signed =>
    intro u
    have run : execAttestationSigned s = signed q b u s.sec.nSig := (execAttestationSigned_eq runs report).trans (if_neg (ne_true_of_eq_false last))
    refine ⟨fun p is served => run.trans ?_, fun n tag ep is => run.trans ?_⟩
    · subst is
      exact congrArg Host.Outcome.next (udsPos_eq (s := u) served)
    · subst is
      rfl
  case replaced =>
    intro u
    have run : execAttestationSigned s = replaced q u := (execAttestationSigned_eq runs report).trans (if_pos newer)
    refine ⟨fun p is served => run.trans ?_, fun n tag ep is => run.trans ?_⟩
    · subst is
      exact congrArg Host.Outcome.next (udsNeg_eq (s := u) served)
    · subst is
      rfl
  case seed =>
    exact (if_neg (by simp [tap, study, closed])).trans (if_neg (by simp [delay]))
  case delayed =>
    exact ⟨_, (if_neg (by simp [tap, study, closed])).trans (if_pos delay), raise_active _ _ _ _, raise_grows _ _ _ _, raise_low_same _ _ _ _ low8011 (by decide)⟩
  case key =>
    intro u
    have run := execJtagKey_checked (key := key) (ok := ok) tap study closed due path
    refine ⟨fun valid allowed => ?_, fun no early => ⟨failedKey u, ?_, ?_⟩⟩
    · exact (run.trans (if_pos ⟨valid, allowed⟩)).trans (congrArg Host.Outcome.next (grant_jtag [] 0 path))
    · exact (run.trans (if_neg no)).trans (congrArg (fun x => Host.Outcome.next (Prod.snd x)) (keyFailed_early (s := u) early))
    · obtain ⟨fault, grows, same, -⟩ := failedKey_spec u
      rw [show min (u.ka.unlockFails + 1) 255 = s.ka.unlockFails + 1 from Nat.min_eq_left (by have : u.ka.unlockFails = s.ka.unlockFails := rfl; omega)] at same
      exact ⟨fault, (Grows.of_eq (s := s) (t := u) rfl).trans grows, same⟩

end Sys2Proof.Machine
end
